-- ==== Sys2Proof/Word.lean ====
section
/-!
DEFINITION. Sys2Proof/Word.lean: the word types of the Klosum T400 model and their plainest arithmetic
(R7: little-endian, bit 0 the least significant bit; registers 32 bits unless marked 64-bit).
-/
namespace Sys2Proof

/-- A 32-bit register or handle. -/
abbrev Word := BitVec 32
/-- A 64-bit register, payload or operand. -/
abbrev DWord := BitVec 64
/-- One byte. -/
abbrev Byte := BitVec 8

/-- A counter that saturates at `m`. -/
def satAdd (m a b : Nat) : Nat := min m (a + b)

end Sys2Proof
end

