-- ==== Sys2Proof/Machine/Tables.lean ====
section
/-!
DEFINITION. Sys2Proof/Machine/Tables.lean: keyed tables (slots, units, entries) as lists of pairs in rising
key order, and the small list helpers the model uses everywhere.
-/
namespace Sys2Proof

/-- A table by natural-number key: pairs in strictly rising key order. -/
abbrev Tbl (α : Type) := List (Nat × α)

/-- The entry of key `k`. -/
def tget {α : Type} : Tbl α → Nat → Option α
  | [], _ => none
  | (j, a) :: t, k => if j = k then some a else tget t k

/-- The entry of key `k`, or a default where the table lists none. -/
def tgetD {α : Type} (t : Tbl α) (k : Nat) (d : α) : α := (tget t k).getD d

/-- Put an entry, keeping the keys in rising order. -/
def tput {α : Type} : Tbl α → Nat → α → Tbl α
  | [], k, a => [(k, a)]
  | (j, b) :: t, k, a =>
    if k < j then (k, a) :: (j, b) :: t
    else if j = k then (k, a) :: t
    else (j, b) :: tput t k a

/-- Take an entry out. -/
def tdel {α : Type} : Tbl α → Nat → Tbl α
  | [], _ => []
  | (j, b) :: t, k => if j = k then t else (j, b) :: tdel t k

/-- Change an entry that is there; a key the table does not list stays unlisted. -/
def tmod {α : Type} : Tbl α → Nat → (α → α) → Tbl α
  | [], _, _ => []
  | (j, b) :: t, k, f => if j = k then (j, f b) :: t else (j, b) :: tmod t k f

/-- Change the entry of `k`, or the default where there is none, and list the result. -/
def tupd {α : Type} (t : Tbl α) (k : Nat) (d : α) (f : α → α) : Tbl α := tput t k (f (tgetD t k d))

/-- Change every entry. -/
def tmapv {α : Type} (t : Tbl α) (f : Nat → α → α) : Tbl α := t.map fun e => (e.1, f e.1 e.2)

/-- Keep the entries a test admits. -/
def tfilter {α : Type} (t : Tbl α) (p : Nat → α → Bool) : Tbl α := t.filter fun e => p e.1 e.2

/-- The keys listed. -/
def tkeys {α : Type} (t : Tbl α) : List Nat := t.map Prod.fst

/-- Is the key listed? -/
def thas {α : Type} (t : Tbl α) (k : Nat) : Bool := (tget t k).isSome

/-- The first key below `n` that a test admits, from `i` on. -/
def firstFrom (p : Nat → Bool) : Nat → Nat → Option Nat
  | 0, _ => none
  | n + 1, i => if p i then some i else firstFrom p n (i + 1)

/-- The element of least measure; the earlier one on a tie (R12). -/
def minBy {α : Type} (f : α → Nat) : List α → Option α
  | [] => none
  | a :: l =>
    match minBy f l with
    | none => some a
    | some b => if f b < f a then some b else some a

/-- Replace position `i` of a list. -/
def lset {α : Type} : List α → Nat → α → List α
  | [], _, _ => []
  | _ :: l, 0, a => a :: l
  | b :: l, i + 1, a => b :: lset l i a

/-- Add an element to a list used as a set. -/
def linsert (l : List Nat) (a : Nat) : List Nat := if l.contains a then l else a :: l

/-- A list of `n` equal elements, then cut: the first `n` of `l` padded with `d`. -/
def padTo {α : Type} (n : Nat) (d : α) (l : List α) : List α := (l ++ List.replicate n d).take n

end Sys2Proof
end

