-- ==== Sys2Proof/Machine/Bits.lean ====
section
/-!
DEFINITION. Sys2Proof/Machine/Bits.lean: bit-field, byte-order and CRC helpers (R7: little-endian).
-/
namespace Sys2Proof

/-- Bits `lo` and up, `n` of them, of a natural number. -/
def bitsOf (v lo n : Nat) : Nat := v / 2 ^ lo % 2 ^ n

/-- One bit of a natural number. -/
def bitOf (v i : Nat) : Bool := v / 2 ^ i % 2 = 1

/-- A Boolean as a bit placed at `i`. -/
def bitAt (b : Bool) (i : Nat) : Nat := if b then 2 ^ i else 0

/-- A field of `n` bits placed at `lo`; what does not fit the field is cut. -/
def fieldAt (v lo n : Nat) : Nat := v % 2 ^ n * 2 ^ lo

/-- `v` with bit `i` set. -/
def setBit (v i : Nat) : Nat := if bitOf v i then v else v + 2 ^ i

/-- `v` with bit `i` cleared. -/
def clrBit (v i : Nat) : Nat := if bitOf v i then v - 2 ^ i else v

/-- How many of the low `n` bits are set. -/
def popCount (v : Nat) : Nat → Nat
  | 0 => 0
  | n + 1 => popCount v n + (if bitOf v n then 1 else 0)

/-- The low `n` bytes of a number, least significant first (R7). -/
def leBytes : Nat → Nat → List Byte
  | 0, _ => []
  | n + 1, v => BitVec.ofNat 8 v :: leBytes n (v / 256)

/-- The number that bytes spell, least significant first (R7). -/
def ofLe : List Byte → Nat
  | [] => 0
  | b :: l => b.toNat + 256 * ofLe l

/-- A clamped numeric field (R10): the nearest value of `lo … hi`. -/
def clampTo (lo hi v : Nat) : Nat := if v < lo then lo else if hi < v then hi else v

/-- A field whose legal values are 0 and `lo … hi` (R10): the nearest, the lower on a tie. -/
def clampZeroOr (lo hi v : Nat) : Nat :=
  if hi < v then hi else if lo ≤ v then v else if 2 * v ≤ lo then 0 else lo

/-- Sign extension of the low `n` bits. -/
def signedOf (v n : Nat) : Int :=
  if n ≠ 0 ∧ bitOf v (n - 1) then (v % 2 ^ n : Nat) - (2 ^ n : Nat) else (v % 2 ^ n : Nat)

/-- Two's complement of an integer in `n` bits. -/
def twos (i : Int) (n : Nat) : Nat := (i % (2 ^ n : Nat)).toNat

/-- One step of the reflected CRC-32C (polynomial 0x1EDC6F41, reflected 0x82F63B78). -/
def crcBit : Nat → Nat → Nat
  | 0, c => c
  | k + 1, c => crcBit k (if c % 2 = 1 then Nat.xor (c / 2) 0x82F63B78 else c / 2)

/-- CRC-32C of a byte string, as R525 and Table 20-5 name it. -/
def crc32c (bs : List Byte) : Word :=
  BitVec.ofNat 32 (Nat.xor 0xFFFFFFFF (bs.foldl (fun c b => crcBit 8 (Nat.xor c b.toNat)) 0xFFFFFFFF))

/-- R190: mix64. -/
def mix64 (z0 : BitVec 64) : BitVec 64 :=
  let z1 := (z0 ^^^ (z0 >>> 30)) * 0xBF58476D1CE4E5B9
  let z2 := (z1 ^^^ (z1 >>> 27)) * 0x94D049BB133111EB
  z2 ^^^ (z2 >>> 31)

/-- R190: a draw of 16 bits from KEY and CTR. -/
def laneDraw (key ctr : BitVec 64) : Nat :=
  bitsOf (mix64 (key ^^^ mix64 (ctr + 0x9E3779B97F4A7C15))).toNat 48 16

/-- Round a number up to a multiple of `m`. -/
def roundUp (v m : Nat) : Nat := (v + m - 1) / m * m

end Sys2Proof
end

