-- ==== Sys2Proof/Machine/TypesModule.lean ====
section
/-!
DEFINITION. Sys2Proof/Machine/TypesModule.lean: the state of the module's own parts: power, pins, straps, thermal
loop (chapter 01), start-up (chapter 02), faults (chapter 19), owl, power, ledger, logbook (chapter 20) and the
management port (chapter 21).
-/
namespace Sys2Proof

/-! ## Chapter 01: power, pins, straps, thermal -/

/-- Where the module stands in power-up and power fail (R31, R33, R34). -/
inductive PowerPhase where
  | off | charging | charged | strapped | good | failing
  deriving DecidableEq, Repr

/-- Power, pins, straps, tamper loops and the thermal loop (chapter 01). -/
structure ModuleState where
  /-- R31, R33: place in power-up or power fail. -/
  phase : PowerPhase
  /-- R31, R33: the input switch is closed. -/
  inputSwitch : Bool
  /-- R18: PWR_GOOD is released high. -/
  pwrGood : Bool
  /-- R28: the always-on domain draws from 48 V. -/
  aoFrom48 : Bool
  /-- R28: VBAT as last measured, in mV. -/
  vbatMv : Nat
  /-- R20: the straps have been sampled since input power-on. -/
  strapsSampled : Bool
  /-- R19: STRAP_ROLE[1:0] as sampled. -/
  strapRole : Nat
  /-- R21: STRAP_SLOT[3:0] as sampled. -/
  strapSlot : Nat
  /-- R21: STRAP_BOARD[19:0] as sampled. -/
  strapBoard : Nat
  /-- R17: level of PERST_N. -/
  perstN : Bool
  /-- R17: level of MOD_RESET_N. -/
  modResetN : Bool
  /-- R33: matrix engines stopped and vector cores not issuing for a power fail. -/
  failStopped : Bool
  /-- R33: ledger and logbook committed in this power fail. -/
  failCommitted : Bool
  /-- R34: the power fail was confirmed before PWR_GOOD rose. -/
  earlyFail : Bool
  /-- R27: consecutive mismatches on tamper loop A. -/
  loopMissA : Nat
  /-- R27: consecutive mismatches on tamper loop B. -/
  loopMissB : Nat
  /-- R27: code last driven on the tamper loops. -/
  loopCode : Nat
  /-- R430: consecutive failed hedgehog mesh checks. -/
  meshMiss : Nat
  /-- R36: thermal throttle stage, 0 to 4. -/
  thermalStage : Nat
  /-- R37: a thermal trip holds the compute rails off. -/
  tripped : Bool
  /-- R36, Table 21-4: hottest sensor in 0.1 °C. -/
  hottest : Nat
  /-- R35, Table 21-4: coolant inlet in 0.1 °C. -/
  inlet : Nat
  /-- R35, Table 21-4: coolant outlet in 0.1 °C. -/
  outlet : Nat
  /-- R35: the inlet reads above 40 °C. -/
  inletOver : Bool
  deriving DecidableEq, Repr

/-! ## Chapter 02: start-up -/

/-- Where the boot controller stands (R43, R48, R50). -/
inductive BootPhase where
  /-- In reset, waiting for the start-up sequence to begin. -/
  | waiting
  /-- A start-up sequence is running. -/
  | running
  /-- The 10 ms hold of the start-up fault path (R48). -/
  | faultHold
  /-- Boot-fault hold (R50). -/
  | bootHold
  /-- M15 reached. -/
  | ready
  deriving DecidableEq, Repr

/-- The boot controller and the CLK block (chapter 02). -/
structure ClkState where
  /-- R43, R48, R50. -/
  phase : BootPhase
  /-- R43: the current (or next) sequence is warm. -/
  warm : Bool
  /-- R48: ATTEMPT. -/
  attempt : Nat
  /-- R45: last milestone reached. -/
  milestone : Nat
  /-- R44: progress ticks in the current milestone, modulo 65,536. -/
  progress : Nat
  /-- R49: M3 reached without L0. -/
  hostLinkLate : Bool
  /-- R43, R50: the host link is in L0. -/
  inL0 : Bool
  /-- R47: stall windows and limits are paused. -/
  paused : Bool
  /-- R49, R481: partitions offline until the next chip reset, one bit each. -/
  partOffline : Nat
  /-- R48: CLK_MS_FAULT.MILESTONE. -/
  faultMilestone : Nat
  /-- R54: CLK_MS_FAULT.CAUSE. -/
  faultCause : Nat
  /-- R48: CLK_MS_FAULT.COUNT. -/
  faultCount : Nat
  /-- R48: CLK_MS_FAULT.PROGRESS. -/
  faultProgress : Nat
  /-- R54: a copy of CLK_MS_FAULT is owed to the logbook. -/
  faultCopyDue : Bool
  /-- R8, R55: LOCK of CLK_MS_CTRL. -/
  lock : Bool
  /-- R55: TEST_WINDOW_SCALE applied. -/
  scale : Nat
  /-- R9, R55: TEST_WINDOW_SCALE pending. -/
  scalePending : Option Nat
  /-- R482: class carried in CHIP_RESET_DONE. -/
  resetClass : Nat
  /-- R46: clusters retired in this sequence, with their cause, to be posted at M15. -/
  dueRetired : List (Nat × Nat)
  /-- R49: factory guardbands in use, MARGIN_REPLAN to be posted at M15. -/
  dueFactory : Bool
  deriving DecidableEq, Repr

/-! ## Chapter 19: faults -/

/-- A fault record (Table 19-21). -/
structure FltRec where
  /-- Time base at detection. -/
  time : Nat
  /-- Class, Table 19-1. -/
  cls : Nat
  /-- Level: 0 none, 1 context, 2 engine, 3 partition, 4 chip, 5 halt. -/
  level : Nat
  /-- FLAGS bit 0. -/
  escalated : Bool
  /-- FLAGS bit 1. -/
  absorbed : Bool
  /-- UNIT, Table 19-9, or the partition. -/
  unit : Nat
  /-- Context handle, or 0. -/
  context : Nat
  /-- Record number since input power-on. -/
  seq : Nat
  /-- DETAIL of the attention posted, or 0. -/
  detail : Nat
  deriving DecidableEq, Repr

/-- What a running reset or forced abort is (R474, R475). -/
inductive Recovery where
  /-- A context reset, context fault or forced abort of a context slot. -/
  | context (slot : Nat)
  /-- A forced abort of another object, by handle. -/
  | object (handle : Nat)
  /-- An engine reset of a unit (Table 19-9). -/
  | engine (unit : Nat)
  /-- A partition reset. -/
  | partition (p : Nat)
  deriving DecidableEq, Repr

/-- The FLT block and the resets in progress (chapter 19). -/
structure FltState where
  /-- R495: the latest 256 records, newest first. -/
  ring : List FltRec
  /-- Table 19-18: RECORDS, modulo 2^32. -/
  records : Nat
  /-- Table 19-19: INDEX. -/
  sel : Nat
  /-- Table 19-15: LEVEL. -/
  cmdLevel : Nat
  /-- Table 19-15: UNIT. -/
  cmdUnit : Nat
  /-- Table 19-16: the reset FLT_RESET_CMD started that still runs. -/
  resBusy : Option Recovery
  /-- Table 19-16: STATUS. -/
  resStatus : Nat
  /-- Table 19-17: CHIP_RESETS. -/
  chipResets : Nat
  /-- Table 19-17: PARTITION_RESETS. -/
  partResets : Nat
  /-- Table 19-17: ENGINE_RESETS. -/
  engResets : Nat
  /-- R491: HALTED, with HALT_CAUSE 1 INTEGRITY or 2 STORM; 0 while not halted. -/
  haltCause : Nat
  /-- R276: heartbeats have stopped after a halt. -/
  haltQuiet : Bool
  /-- R479: units under engine reset, with the class that started it. -/
  engines : List (Nat × Nat)
  /-- R480: partitions under reset, with the class that started it and the functions whose work was removed. -/
  parts : List (Nat × Nat × List Nat)
  /-- R491: times (the model's clock, ns) of the chip resets raised by a fault. -/
  faultResets : List Nat
  /-- R479: service cores, collective engines and data movers masked by the tests of their reset. -/
  masked : List Nat
  deriving DecidableEq, Repr

/-! ## Chapter 20: owl, power, ledger, logbook -/

/-- A cluster in the margin plan and its slack (R497 to R502). -/
structure CluPlan where
  /-- Table 20-18: 0 SERVICE, 1 COOLDOWN, 2 RETIRED, 3 OFFLINE. -/
  state : Nat
  /-- SLACK in 0.1% of the cycle, as last read. -/
  slack : Nat
  /-- R500: the last replica read was below ALARM. -/
  below : Bool
  /-- R500: a margin alarm has dropped the clocks to 1,100 and 1,200 MHz. -/
  dropped : Bool
  /-- Planned matrix clock in MHz. -/
  mx : Nat
  /-- Planned vector clock in MHz. -/
  vc : Nat
  deriving DecidableEq, Repr

/-- The margin plan as its two-bank record keeps it (R498, Table 20-6). -/
structure MarginPlan where
  /-- Core-rail voltage of each partition, mV. -/
  volts : List Nat
  /-- Planned matrix and vector clock per cluster. -/
  clusters : List (Nat × Nat)
  /-- Plan cause (Table 20-10). -/
  cause : Nat
  /-- FROZEN flag (R516). -/
  frozen : Bool
  deriving DecidableEq, Repr

/-- One bank pair of a two-bank record: newest valid sequence number and payload (R509, R510). -/
structure TwoBank (α : Type) where
  /-- SEQ and payload of bank A where it is valid. -/
  a : Option (Nat × α)
  /-- SEQ and payload of bank B where it is valid. -/
  b : Option (Nat × α)
  deriving DecidableEq, Repr

/-- An interval record (Table 20-4). -/
structure Interval where
  /-- START_NS -/
  start : Nat
  /-- LENGTH_US -/
  lengthUs : Nat
  /-- ENERGY_MJ -/
  energy : Nat
  /-- AVG_W -/
  avg : Nat
  /-- PEAK_1S_W -/
  peak : Nat
  /-- CAP_W, lowest effective cap in force -/
  cap : Nat
  /-- PRICE -/
  price : Nat
  /-- FLAGS bits 4:0 -/
  flags : Nat
  /-- INDEX -/
  index : Nat
  /-- SESSION_TAG -/
  sessionTag : Nat
  deriving DecidableEq, Repr

/-- The ledger's totals and last closed interval, as the LEDGER record holds them (Table 20-6). -/
structure LedgerRec where
  /-- Totals in mJ by account × 16 + price code. -/
  totals : Tbl Nat
  /-- ENERGY_MJ -/
  energy : Nat
  /-- PEAK_AVG_W per price code. -/
  peakAvg : Tbl Nat
  /-- The open interval's state. -/
  openIv : Option Interval
  /-- The last closed interval. -/
  last : Option Interval
  deriving DecidableEq, Repr

/-- An entry of the power-period schedule (R506). -/
structure Period where
  /-- START_NS -/
  start : Nat
  /-- VALID -/
  valid : Bool
  /-- PRICE -/
  price : Nat
  /-- CAP_W -/
  cap : Nat
  deriving DecidableEq, Repr

/-- A logbook record (R513). -/
structure LogRec where
  /-- SEQ since manufacture. -/
  seq : Nat
  /-- Ledger time. -/
  time : Nat
  /-- TYPE, Table 20-8. -/
  typ : Nat
  /-- CLASS: critical. -/
  critical : Bool
  /-- Payload bytes. -/
  payload : List Byte
  deriving DecidableEq, Repr

/-- The logbook region in NAND (R512 to R516). -/
structure LogStore where
  /-- Records committed to NAND, by data block in use, oldest block first; the last block is the open one. -/
  blocks : List (List LogRec)
  /-- Pages used in the open block. -/
  openPages : Nat
  /-- Usable data blocks. -/
  dataBlocks : Nat
  /-- Spare blocks left. -/
  spares : Nat
  /-- Next SEQ. -/
  nextSeq : Nat
  /-- STATE kept in LOGBOOK_MAP: 0 MOUNTED, 1 WORN, 2 READ_ONLY. -/
  state : Nat
  deriving DecidableEq, Repr

/-- The logbook's volatile part (R512, R514, Tables 20-16, 20-17). -/
structure LogState where
  /-- Mounted at M14. -/
  mounted : Bool
  /-- Records written and not yet committed, oldest first. -/
  buffer : List LogRec
  /-- Records raised before the logbook is mounted, written at the next M14 (R495, R54). -/
  waiting : List (Nat × Bool × List Byte)
  /-- RETRIES_24H -/
  retries : Nat
  /-- DROPPED -/
  dropped : Nat
  deriving DecidableEq, Repr

/-- The owl and the power block (chapter 20), lost at a chip reset but for what the records restore. -/
structure OwlState where
  /-- Table 20-11: FACTORY. -/
  factory : Bool
  /-- Table 20-11: ALARMS. -/
  alarms : Nat
  /-- Table 20-11: REPLANS. -/
  replans : Nat
  /-- R499: a re-plan is running, with its cause. -/
  replanning : Option Nat
  /-- R497, R498, Table 20-18: the clusters, loaded at M12. -/
  clu : Tbl CluPlan
  /-- R498: planned core-rail voltages in force, mV. -/
  volts : List Nat
  /-- R503: OWL_POL_REQ(0..5). -/
  polReq : List Nat
  /-- R503: OWL_POL_APPLIED(0..5). -/
  polApplied : List Nat
  /-- R503: OWL_POL_OVR. -/
  polOvr : Nat
  /-- R503: model time at which each OVR bit last became 0. -/
  polClear : List Nat
  /-- R496: ageing monitors, 0.01% against factory, by monitor. -/
  ageing : Tbl Nat
  /-- R502: eye margin by lane, in percent of the margin at its last training. -/
  eye : Tbl Nat
  /-- R502: link lanes whose equalisers are adapting. -/
  eqAdapting : List Nat
  /-- R497: GUARDBAND rail step limit: HBM refresh rate by stack in percent of base. -/
  refresh : List Nat
  deriving DecidableEq, Repr

/-- The power limiter, PWR registers and the ledger's open interval (R504 to R508). -/
structure PwrState where
  /-- Table 20-19: POWER_W. -/
  powerW : Nat
  /-- Table 20-20: PWR_CAP. -/
  cap : Nat
  /-- Table 20-21: INTERVAL_MIN applied. -/
  intervalMin : Nat
  /-- Table 20-21: INTERVAL_MIN pending. -/
  intervalPending : Option Nat
  /-- Tables 20-23, 20-24: the 64 periods. -/
  periods : Tbl Period
  /-- R504: matrix clock limit set by the limiter, MHz. -/
  limMx : Nat
  /-- R504: vector clock limit set by the limiter, MHz. -/
  limVc : Nat
  /-- R504: issue gaps in force, in steps. -/
  limGaps : Nat
  /-- R506: index of the period in force. -/
  inForce : Option Nat
  deriving DecidableEq, Repr

/-- The ledger (R505 to R508): it runs on through a chip reset. -/
structure LedgerState where
  /-- R505: ledger time in ns. -/
  time : Nat
  /-- R508: totals in mJ by account × 16 + price code. -/
  totals : Tbl Nat
  /-- Table 20-22: ENERGY_MJ. -/
  energy : Nat
  /-- Table 20-6: highest AVG_W per price code. -/
  peakAvg : Tbl Nat
  /-- R507: the open interval. -/
  openIv : Option Interval
  /-- R507: the interval ring, newest first, at most 4,096. -/
  ring : List Interval
  /-- R507: index of the next interval. -/
  nextIndex : Nat
  /-- R507: the next interval carries RESTART. -/
  restart : Bool
  /-- Table 20-4: meter ticks of the second in progress. -/
  secTicks : Nat
  /-- Table 20-4: energy of the second in progress, in mJ. -/
  secEnergy : Nat
  deriving DecidableEq, Repr

/-! ## Chapter 21: management port -/

/-- An alert entry (R527). -/
structure Alert where
  /-- PENDING -/
  pending : Bool
  /-- COUNT, saturating at 65,535 -/
  count : Nat
  deriving DecidableEq, Repr

/-- A management request or response frame (Table 21-1). -/
structure MgtReq where
  /-- OPCODE -/
  op : Nat
  /-- TAG -/
  tag : Nat
  /-- Payload -/
  payload : List Byte
  deriving DecidableEq, Repr

/-- One face of the management port (R526). -/
structure MgtFace where
  /-- The request held, not yet answered. -/
  req : Option MgtReq
  /-- I3C: the response not yet read. -/
  resp : Option (List Byte)
  deriving DecidableEq, Repr

/-- The management port (chapter 21): lost only at MOD_RESET_N and input power loss. -/
structure MgtState where
  /-- Table 21-5: dynamic address. -/
  dynAddr : Option Nat
  /-- Table 21-5: IBI enabled. -/
  ibiEn : Bool
  /-- R522: an IBI request stands, not yet acknowledged. -/
  ibiReq : Bool
  /-- R527: the alert table by code. -/
  alerts : Tbl Alert
  /-- R526: the I3C face. -/
  i3c : MgtFace
  /-- R526: the UART face. -/
  uart : MgtFace
  /-- R523: bytes of the UART frame being received, oldest first. -/
  uartRx : List Byte
  /-- R524: the receiver waits for the line to read 1 after a framing error. -/
  uartIdleWait : Bool
  /-- Table 21-7: UART_FRAMING. -/
  uartFraming : Nat
  /-- Table 21-7: CRC_FAILS. -/
  crcFails : Nat
  /-- Table 21-7: REQ_DISCARDED. -/
  discarded : Nat
  /-- R529: tray cap, 0 none. -/
  trayCap : Nat
  /-- R526: the face whose command other than a status command runs (false I3C, true UART). -/
  running : Option Bool
  deriving DecidableEq, Repr

/-! ## Firmware copies (R222, R530) -/

/-- A firmware copy in NAND. -/
structure FwCopy where
  /-- The image as written, from its header's byte 0. -/
  image : List Byte
  /-- R530: a pass of writes has begun and FW_COMMIT has not passed. -/
  failing : Bool
  /-- R530: a last write shorter than a multiple of 16 has been made in the pass. -/
  short : Bool
  /-- R222: what checks 3 and 4, the digest and the signature, found when the image was last checked. -/
  passed : Bool × Bool
  deriving DecidableEq, Repr

/-- The firmware region of NAND and the OTP words that go with it. -/
structure FwStore where
  /-- Copy A. -/
  a : FwCopy
  /-- Copy B. -/
  b : FwCopy
  /-- R222: the floor, 0 to 64. -/
  floor : Nat
  /-- R222: revocation bits of key indices 0 and 1. -/
  revoked : Nat
  deriving DecidableEq, Repr

end Sys2Proof
end

