-- ==== Sys2Proof/Syntax.lean ====
section
/-!
DEFINITION. Sys2Proof/Syntax.lean: the commands of the block, one constructor of `Instr` per row of
spec/opcode_table.json, and the types of their operands. The table gives its rows no operands and no bits: each
command carries what arrives with the event (a register value, a packet, bytes a host or a peer returns, a reading
of a sensor, the verdict of a test).
-/
namespace Sys2Proof

/-- Where a register access comes from: the host through the PF's BARs, on the bound IDE stream with the T bit set
or not (R61), or firmware over the register bus. -/
inductive Src where
  | host (bound : Bool)
  | firmware
  deriving DecidableEq, Repr

/-- Every register of the manual, by its name and index; `reserved` is any other offset (R64). -/
inductive Reg where
  | clkMsStatus | clkMsFault | clkMsCtrl
  | hifPoolA | hifPoolB | hifPoolC | hifPoolD
  | hifVfQuotaA (v : Nat) | hifVfQuotaB (v : Nat) | hifVfQuotaC (v : Nat) | hifVfQuotaD (v : Nat)
  | hifVfPlace (v : Nat) | hifVfPending (v : Nat) | hifVfCtrl (v : Nat) | hifVfState (v : Nat)
  | vfwIdent (v : Nat) | vfwNode (v : Nat) | vfwState (v : Nat) | vfwQuotaA (v : Nat) | vfwQuotaB (v : Nat)
  | vfwQuotaC (v : Nat) | vfwQuotaD (v : Nat) | vfwMode (v : Nat)
  | cmdDbSq (qp : Nat) | cmdDbCq (qp : Nat) | cmdSvqSqBase (fn : Nat) | cmdSvqCqBase (fn : Nat) | cmdSvqCfg (fn : Nat)
  | tskPartReady (p : Nat) | tskPartOverflow (p : Nat)
  | mxeEngState (c : Nat) | mxeEngMaskLo (c : Nat) | mxeEngMaskHi (c : Nat) | mxeEngShape (c : Nat)
  | mxeEngErr (c : Nat) | mxeEngFlags (c : Nat) | mxeEngValidWf (c : Nat) | mxeEngDummyWf (c : Nat)
  | mxeEngStall (c : Nat) | mxeCtrl
  | vcuCluMask (c w : Nat) | vcuCluErr (c : Nat) | vcuCluAlu (c : Nat) | vcuCluBusy (c : Nat)
  | svcFwStatus | svcCoreState (n : Nat) | svcUserCtrl | svcUserKey (k w : Nat)
  | cstCluCfg (c : Nat) | cstCluState (c : Nat) | cstCluErr (c : Nat) | cstCluHits (c : Nat)
  | cstCluMisses (c : Nat) | cstCluSpilled (c : Nat)
  | memBadgerCtrl | memPoisonState | memStackState (s : Nat) | memStackErr (s : Nat) | memBadgerStat (s : Nat)
  | memRepair (s : Nat)
  | imeStatus | imeTagMisses (s : Nat) | imeMerges (s : Nat) | imeList (s : Nat)
  | lnkCfg | lnkRtAddr | lnkRtData | lnkRtCmd | lnkPortState (p : Nat) | lnkPortCtrl (p : Nat) | lnkPortPlan (p : Nat)
  | lnkPortPeer (p : Nat) | lnkPortErr (p : Nat) | lnkPortCrc (p : Nat) | lnkPortTx (p : Nat)
  | wmkValue | wmkTime | wmkStatus | wmkMgrCfg | wmkCand (i : Nat) | wmkParent | wmkEvents | wmkPlanBase | wmkPlanCtrl
  | wmkStepSet | wmkTimeSet | wmkStats
  | colCfg | colTrigUsed | colEngState (e : Nat) | colEngTx (e : Nat) | colEngRx (e : Nat) | colEngErr (e : Nat)
  | colSwCaps (n : Nat)
  | ingStatus | ingCfg | ingStreamState (n : Nat) | ingStreamLanded (n : Nat) | ingStreamErr (n : Nat)
  | ckpCfg | ckpBuddyCfg | ckpBuddyState | ckpStats | ckpBytesOut
  | secStatus | secAlarm
  | lcsState | lcsCmd | lcsResult | lcsToken (w : Nat)
  | fltStatus | fltResetCmd | fltResetResult | fltCounts | fltRecHead | fltRecSel | fltRecData (w : Nat)
  | owlStatus | owlCtrl | owlPolReq (l : Nat) | owlPolApplied (l : Nat) | owlPolOvr | owlLogState | owlLogUse
  | owlClu (c : Nat)
  | pwrStatus | pwrCap | pwrInterval | pwrEnergy | pwrPeriodStart (i : Nat) | pwrPeriodCfg (i : Nat)
  | mgtStatus | mgtTrayCap | mgtErr
  | reserved (off : Nat)
  deriving DecidableEq, Repr

/-- The blocks whose quiescent fields take shadow values at a quiescent point (R9). -/
inductive QBlock where
  /-- The CLK block, quiescent at M0 only (R55). -/
  | clk
  /-- The entry of VF v, quiescent while IDLE (R68). -/
  | vfEntry (v : Nat)
  /-- Page 0 of a function, quiescent while its service queue is UNBUILT (R86). -/
  | svqPage (fn : Nat)
  /-- MXE_CTRL (R175). -/
  | mxe
  /-- The user keys of the SVC block (R227). -/
  | svc
  /-- A cluster's cache part (R232). -/
  | cst (c : Nat)
  /-- The waymark manager's set-up (R335). -/
  | wmk
  /-- The buddy region (R424). -/
  | ckp
  /-- The PWR block, quiescent at each interval boundary (R520). -/
  | pwr
  deriving DecidableEq, Repr

/-- How a firmware copy answers the checks of R222. -/
structure FwVerdict where
  /-- The digest matches. -/
  digestOk : Bool
  /-- The signature verifies. -/
  sigOk : Bool
  deriving DecidableEq, Repr

/-- The outcome of a milestone's work as the hardware finds it (Tables 02-3 and 02-4). -/
inductive MsResult where
  /-- M1: the OTP and life-cycle words pass their checks. -/
  | otp (ok : Bool)
  /-- M2: every PLL locks. -/
  | plls (ok : Bool)
  /-- M3: the host link is in L0. -/
  | link (inL0 : Bool)
  /-- M4: what the checks of R222 find on the copies. -/
  | firmware (a b : FwVerdict)
  /-- M5: identity derived. -/
  | identity
  /-- M6: configuration space decoded. -/
  | config
  /-- M7: partitions that could not join the crossroads. -/
  | crossroads (lost : List Nat)
  /-- M8: clusters with an array that cannot be repaired. -/
  | srams (bad : List Nat)
  /-- M9: failing tiles per cluster (64-bit masks), and failing vector cores per cluster (160-bit masks). -/
  | tiles (masks : List (Nat × Nat)) (cores : List (Nat × Nat))
  /-- M10: stacks that fail training after 2 retries, and queued rows whose post-package repair fails. -/
  | stacks (failed : List Nat) (pprFails : List (Nat × Nat))
  /-- M11: uncorrectable lines found, by stack and line number. -/
  | cleared (lines : List (Nat × Nat))
  /-- M12: margin plan loaded. -/
  | plan
  /-- M13: every enabled port up or given up. -/
  | ports
  /-- M14: the logbook can be mounted writable. -/
  | services (writable : Bool)
  /-- M15: the command block accepts descriptors. -/
  | ready
  deriving DecidableEq, Repr

/-- How a task comes to its end (R124, R126, R134). -/
inductive TaskEnd where
  /-- Its program ended; it ran longer than COST_NS or not. -/
  | ended (overrun : Bool)
  /-- It read a poisoned line. -/
  | poison
  /-- An execution fault. -/
  | fault
  deriving DecidableEq, Repr

/-- The unit whose error register counts a corrected error (R164, R215, R252). -/
inductive ErrSite where
  /-- The matrix engine of a cluster. -/
  | matrix (c : Nat)
  /-- A vector core of a cluster. -/
  | vector (c : Nat)
  /-- The cluster store of a cluster. -/
  | store (c : Nat)
  deriving DecidableEq, Repr

/-- Stage-F cycles a matrix engine spends: wavefronts with a valid bit, dummy wavefronts, cycles stalled. -/
structure Cycles where
  /-- Wavefronts with at least one valid bit -/
  valid : Nat
  /-- Bubbles and dummy wavefronts -/
  dummy : Nat
  /-- Cycles in STALL or HOLD -/
  stall : Nat
  deriving DecidableEq, Repr

/-- Operations of the scalar pipe and of integer lanes (Table 08-3): the manual leaves their encodings to the tools. -/
inductive IntOp where
  | add | sub | and_ | or_ | xor_ | shl | shr | sar | mul | divS | divU | remS | remU
  deriving DecidableEq, Repr

/-- Comparisons. -/
inductive Cond where
  | eq | ne | ltS | geS | ltU | geU
  deriving DecidableEq, Repr

/-- A second scalar operand: a register or an immediate. -/
inductive Rhs where
  | reg (r : Nat)
  | imm (v : Nat)
  deriving DecidableEq, Repr

/-- An instruction of the scalar pipe. -/
inductive SInstr where
  /-- Integer, shift, multiply, divide, remainder: `rd := ra op b`. -/
  | int (op : IntOp) (rd ra : Nat) (b : Rhs)
  /-- Compare to 0 or 1. -/
  | cmp (c : Cond) (rd ra : Nat) (b : Rhs)
  /-- Move. -/
  | mov (rd : Nat) (b : Rhs)
  /-- Conditional branch to a byte offset in the code section. -/
  | branch (c : Cond) (ra rb target : Nat)
  /-- Jump, or call with the return offset in `link`. -/
  | jump (target : Rhs) (link : Option Nat)
  /-- A reserved or undefined encoding. -/
  | illegal
  deriving DecidableEq, Repr

/-- Vector FP32 operations (R204). -/
inductive FpOp where
  | add | sub | mul | fma | min | max | div | sqrt
  deriving DecidableEq, Repr

/-- Vector instructions of the ALU pipe other than those with a row of their own; `m` is the mask register. -/
inductive VInstr where
  /-- 32-bit integer lanes. -/
  | int (op : IntOp) (vd va vb : Nat)
  /-- Integer compare to a mask register. -/
  | icmp (c : Cond) (md va vb : Nat)
  /-- FP32 lanes; `vc` is the addend of FMA. -/
  | fp (op : FpOp) (vd va vb vc : Nat)
  /-- FP32 compare to a mask register (signed conditions only). -/
  | fcmp (c : Cond) (md va vb : Nat)
  /-- Select by the lanes of mask register `k`. -/
  | select (vd k va vb : Nat)
  /-- Lane shuffle: lane l takes lane vb[l] mod 32 of va. -/
  | shuffle (vd va vb : Nat)
  /-- Broadcast of the low 32 bits of a scalar register. -/
  | broadcast (vd ra : Nat)
  /-- Rotate: lane l takes lane (l + n) mod 32. -/
  | rotate (vd va n : Nat)
  deriving DecidableEq, Repr

/-- The special functions (Table 08-4). -/
inductive SpecFn where
  | exp2 | log2 | rcp | rsqrt | tanh
  deriving DecidableEq, Repr

/-- Cross-lane reductions (R206). -/
inductive RedOp where
  | sum | max | min
  deriving DecidableEq, Repr

/-- A cast (R189, R207): between format codes of Table 06-4, or to and from 32-bit integers. -/
inductive CastOp where
  /-- Format `src` to format `dst`, stochastic or to nearest even, with the overflow mode. -/
  | fmt (src dst : Nat) (stochastic ovfInf : Bool)
  /-- FP32 to a signed 32-bit integer. -/
  | toInt
  /-- A signed 32-bit integer to FP32. -/
  | ofInt
  deriving DecidableEq, Repr

/-- How an element in memory becomes a lane or register value: extended, or converted from a format code. -/
inductive LoadAs where
  | zero (size : Nat)
  | sign (size : Nat)
  | fmt (code : Nat)
  deriving DecidableEq, Repr

/-- How a lane value becomes an element in memory. -/
inductive StoreAs where
  | raw (size : Nat)
  | fmt (code : Nat) (stochastic ovfInf : Bool)
  deriving DecidableEq, Repr

/-- A load or store of the memory pipe: scalar, or vector of consecutive elements, at register `ra` plus `off`. -/
inductive MemInstr where
  | sload (rd ra off size : Nat) (signed : Bool)
  | sstore (rs ra off size : Nat)
  | vload (vd ra off : Nat) (as_ : LoadAs)
  | vstore (vs ra off : Nat) (as_ : StoreAs)
  deriving DecidableEq, Repr

/-- A gather or scatter: lane l at register `ra` plus lane l of `vi`. -/
inductive GatherInstr where
  | gather (vd ra vi : Nat) (as_ : LoadAs)
  | scatter (vs ra vi : Nat) (as_ : StoreAs)
  deriving DecidableEq, Repr

/-- Integer read-modify-writes (R213, R218). -/
inductive AtomOp where
  | add | minS | maxS | minU | maxU | and_ | or_ | xor_ | swap
  /-- Compare-and-swap with the comparand. -/
  | cas (cmp : Nat)
  deriving DecidableEq, Repr

/-- Where an uncorrectable error of a vector core lies (R215). -/
inductive VErrSite where
  /-- An instruction-cache line. -/
  | code
  /-- A data-cache line of an object slot, by its number. -/
  | line (slot line : Nat)
  /-- Anything else. -/
  | other
  deriving DecidableEq, Repr

/-- Load-reserved and store-conditional of a service core (R218): destination register, address, size, value. -/
inductive LrSc where
  | lr (rd addr size : Nat)
  | sc (rd addr size value : Nat)
  deriving DecidableEq, Repr

/-- What the tests of an engine reset find (R479, Table 19-7). -/
structure UnitTest where
  /-- A matrix engine's failing tiles. -/
  tiles : Nat
  /-- A vector or service core, collective engine or mover fails its test. -/
  dead : Bool
  deriving DecidableEq, Repr

/-- A flit as it arrives (Tables 11-2 and 11-3). -/
structure Flit where
  /-- FTYPE -/
  ftype : Nat
  /-- VC -/
  vc : Nat
  /-- LAST -/
  last : Bool
  /-- ACK_VALID -/
  ackValid : Bool
  /-- SEQ -/
  seq : Nat
  /-- ACK -/
  ack : Nat
  /-- CRED_VC -/
  credVc : Nat
  /-- CRED_COUNT -/
  credCount : Nat
  /-- PAYLOAD -/
  payload : List Byte
  deriving DecidableEq, Repr

/-- A chip record of a domain plan (R323). -/
structure PlanChip where
  /-- Node ID -/
  node : Nat
  /-- Tree parent port, 31 the root -/
  treePort : Nat
  /-- The 23 LNK_PORT_PLAN values -/
  plans : List Nat
  deriving DecidableEq, Repr

/-- A route record of a domain plan (R323). -/
structure PlanRoute where
  /-- Node ID -/
  node : Nat
  /-- Table number -/
  table : Nat
  /-- Index -/
  index : Nat
  /-- The entry -/
  entry : Nat
  deriving DecidableEq, Repr

/-- What ECC finds in a 64 B line (R251, R253). -/
inductive EccOut where
  /-- No error. -/
  | clean
  /-- One symbol corrected. -/
  | corrected
  /-- Uncorrectable. -/
  | bad
  /-- The poison pattern. -/
  | pattern
  deriving DecidableEq, Repr

/-- What a transaction does with a line (R273). -/
inductive HbmKind where
  /-- A read. -/
  | read
  /-- A write of the whole line. -/
  | write
  /-- A merge or a controller atomic. -/
  | merge
  deriving DecidableEq, Repr

/-- One 64 B line of a transaction or chunk, with what the controller finds (R251, R271). -/
structure HbmLine where
  /-- Line number in the stack: its offset divided by 64. -/
  line : Nat
  /-- The live memory object that holds it, as slot and offset of the line; none for free space, reserved area and tags. -/
  obj : Option (Nat × Nat)
  /-- Read, whole-line write or merge. -/
  kind : HbmKind
  /-- ECC of the data line. -/
  ecc : EccOut
  /-- ECC of its tag line, in confidential mode. -/
  tagEcc : EccOut
  /-- The tag matches, in confidential mode. -/
  tagOk : Bool
  /-- The tag line came from HBM, not from the tag cache. -/
  tagMiss : Bool
  deriving DecidableEq, Repr

/-- The commands of the block, one constructor per row of the table. -/
inductive Instr where
  /-- A host or firmware write to a set-up register field that has no row of its own takes effect at once if
      live or quiescent-and-idle, or goes to a shadow copy. (R9) Operands: the register and the whole value
      written. -/
  | registerWrite (src : Src) (r : Reg) (v : DWord)
  /-- At a block's next quiescent point, the pending shadow values of its quiescent fields are applied and
      PENDING clears. (R9) Operand: the block that reaches its quiescent point. -/
  | shadowApply (b : QBlock)
  /-- A write of 1 to LOCK writes the RWL fields of the same write first and then freezes every RWL field until
      chip reset. (R8) Operand: the value written to CLK_MS_CTRL, the one register with a LOCK. -/
  | setUpLock (src : Src) (v : Word)
  /-- A 32-bit write to the low half of a 64-bit register goes into its holding register and changes nothing
      yet. (R538) -/
  | lowHalfWrite (src : Src) (r : Reg) (v : Word)
  /-- A 32-bit write to the high half applies the held (or current) low half and the new high half together in
      one cycle and empties the holding register. (R538) -/
  | highHalfWrite (src : Src) (r : Reg) (v : Word)
  /-- A 32-bit read of the low half of a 64-bit register latches the high half for the next high-half read.
      (R538) -/
  | lowHalfRead (src : Src) (r : Reg)
  /-- A register access to a block whose clock is stopped or held in reset completes without effect after at
      most 2 us, reads returning 0. (R42) -/
  | blockedRegisterAccess (src : Src) (r : Reg) (wr : Bool)
  /-- VIN48 rises through the turn-on threshold; the input switch closes and the inrush limiter charges the bulk
      capacitance. (R31) Operand: VBAT in mV as measured at power-on. -/
  | powerUp (vbat : Nat)
  /-- Once the bulk capacitance is charged, the always-on domain is supplied from 48 V and VBAT draw stops.
      (R28) -/
  | bulkCharged
  /-- All strap pins are sampled once in CLK_AO before PWR_GOOD, fixing role and node ID. (R20) Operands: the
      levels of the strap pins. -/
  | strapSample (role slot board : Nat)
  /-- Core, HBM, SerDes and optical rails reach regulation in internal order during power-up. (R31) -/
  | railsInRegulation
  /-- An assertion of PERST_N for 1 us or longer causes a chip reset that holds while the input is low. (R17)
      Operand: how long the input has been low, in ns. -/
  | perstNAssert (ns : Nat)
  /-- Release of PERST_N, which together with PWR_GOOD and MOD_RESET_N gates the start of the start-up sequence.
      (R32) -/
  | perstNRelease
  /-- An assertion of MOD_RESET_N for 1 us or longer resets the chip and holds the management controller in
      reset. (R17) Operand: how long the input has been low, in ns. -/
  | modResetNAssert (ns : Nat)
  /-- Release of MOD_RESET_N; the management port becomes reachable again within 20 ms and a cold sequence may
      begin. (R32) -/
  | modResetNRelease
  /-- VIN48 stays below the power-fail threshold or above the over-voltage threshold for 5 us; the input switch
      opens and PWR_GOOD is pulled low. (R33) -/
  | powerFailConfirm
  /-- At t0 + 10 us matrix engines stop at the next wavefront boundary and vector cores stop issuing, bringing
      the load to 400 W or less. (R33) -/
  | powerFailStop
  /-- Ledger and logbook records are committed within 1.5 ms of the power-fail threshold crossing. (R33) -/
  | powerFailCommit
  /-- After hold-up the rails fall and the always-on domain runs from VBAT. (R33) -/
  | railsFall
  /-- After a power fail has run to its end, VIN48 staying in range for 10 ms starts a new power-up. (R34)
      Operand: VBAT in mV as measured at power-on. -/
  | powerReturnStable (vbat : Nat)
  /-- Every 4 ms the module drives a new 16-bit code on each tamper loop and compares the code read back. (R27)
      Operands: the code read back on each loop equals the code driven. -/
  | tamperLoopCheck (okA okB : Bool)
  /-- Every 4 ms the hedgehog mesh code is checked; two successive wrong codes raise a tamper alarm. (R430)
      Operand: the mesh code checks. -/
  | meshCheck (ok : Bool)
  /-- VBAT falls below 2.2 V while the always-on domain runs from VBAT, raising a tamper alarm. (R28) Operand:
      VBAT in mV. -/
  | vbatLoss (mv : Nat)
  /-- A monitored rail outside plus or minus 20% of its planned value for 50 ns raises a tamper alarm. (R430)
      Operand: the rail. -/
  | voltageAlarm (rail : Nat)
  /-- The module reference, CLK_AO or a PLL output outside its allowed range raises a tamper alarm. (R430)
      Operand: the clock. -/
  | clockAlarm (clock : Nat)
  /-- A die sensor above 125 C or the always-on sensor outside -40 to 125 C raises a tamper alarm. (R430)
      Operand: the sensor. -/
  | temperatureAlarm (sensor : Nat)
  /-- The alarm arrives in CLK_MG; every key is erased, any session ends, a fault record is written and a chip
      reset starts. (R431) -/
  | tamperAlarmArrival
  /-- The coolant inlet reads above 40 C and a health record is written while it stays there. (R35) Operand: the
      inlet in 0.1 degrees. -/
  | inletOverTemperature (temp : Nat)
  /-- Every 50 us the hottest of the 64 thermal sensors is evaluated against the throttle stages. (R36) Operand:
      the hottest of the 64 sensors in 0.1 degrees. -/
  | thermalLoop (hottest : Nat)
  /-- A stage is left after its release condition has held for 1 s. (R36) Operand: the hottest sensor in 0.1
      degrees, below the release value for 1 s. -/
  | thermalStageRelease (hottest : Nat)
  /-- When every sensor has read below 85 C for 1 s, compute rails are restored and a cold start-up sequence
      runs. (R37) -/
  | thermalTripRecovery
  /-- Every 10 us the limiter measures input power and lowers or restores clocks and issue to hold the effective
      cap. (R504) Operand: input power in W, 10 ms average. -/
  | powerLimiterTick (watts : Nat)
  /-- At the latest of PWR_GOOD, PERST_N and MOD_RESET_N high, the cold or warm start-up sequence begins at M0.
      (R43) -/
  | startSequence
  /-- A block completes the work of a milestone and the boot controller advances to the next milestone. (R45)
      Operand: what the milestone's work found. -/
  | milestoneAdvance (r : MsResult)
  /-- A unit of start-up or recovery work completes and ticks the progress counter, restarting the stall window.
      (R44) -/
  | progressTick
  /-- No tick or advance within the stall window is a miss. (R44) -/
  | stallWindowExpire
  /-- A milestone not reached within its limit is a miss. (R44) -/
  | milestoneLimitExpire
  /-- After the 10 ms hold a new attempt of the same kind of sequence starts from M0 with ATTEMPT incremented.
      (R48) -/
  | faultPathHoldEnd
  /-- A host write of SR-IOV NumVFs, taken as 512 when above TotalVFs. (R57) -/
  | numvfsWrite (n : Nat)
  /-- A host write of SR-IOV VF Enable, ignored while a session is open or the TDI is locked. (R72) -/
  | vfEnableWrite (on : Bool)
  /-- A function-level reset of a VF runs a teardown and returns the VF to ACTIVE with its quotas. (R75) -/
  | vfFlr (v : Nat)
  /-- An FLR of the PF tears down every VF, destroys every PF object and resets every HIF_VF entry. (R75) -/
  | pfFlr
  /-- An uncorrectable host-link error is reported through AER and writes a fault record without reset. (R472) -/
  | hostLinkError
  /-- The host link leaves L0 while PERST_N is high, acting as an FLR of the PF. (R472) -/
  | hostLinkDown
  /-- An IDE integrity failure drops the TLP and moves the stream to its insecure state. (R60) -/
  | ideIntegrityFailure (stream : Nat)
  /-- A host-side change to the PF's BARs or memory enable while the TDI is locked moves the TDI to ERROR. (R61) -/
  | pfBarChange
  /-- TDISP request moving the TDI to CONFIG_LOCKED, refused unless VF Enable is 0 and no VF is in TEARDOWN.
      (R61) Operand: the selective IDE stream to bind. -/
  | lockInterfaceRequest (stream : Nat)
  /-- TDISP request moving the TDI to RUN, where a confidential session can be opened. (R61) -/
  | startInterfaceRequest
  /-- TDISP request returning the TDI to CONFIG_UNLOCKED. (R61) -/
  | stopInterfaceRequest
  /-- A DOE Discovery object on the PF mailbox returns the supported data object types. (R62) -/
  | doeDiscovery
  /-- SPDM request returning certificate chain A (or C) in slot 0, or chain B in slot 1 during a session. (R429) -/
  | getCertificate (slot : Nat)
  /-- SPDM CHALLENGE answered with a signature by the alias key. (R429) -/
  | spdmChallenge (slot : Nat) (nonce : BitVec 256)
  /-- SPDM request returning measurement blocks 1-7 signed with the alias key. (R429) -/
  | getMeasurements (nonce : BitVec 256)
  /-- SPDM KEY_EXCHANGE establishing a secured session over the DOE mailbox. (R429) Operand: the requester's
      ephemeral public value. -/
  | keyExchange (share : BitVec 768)
  /-- An IDE_KM message over secured SPDM programs an IDE stream key. (R60) -/
  | ideKmKeyProg (stream : Nat) (key : BitVec 256)
  /-- A write of HIF_VF_CTRL COMMIT takes resources from the pools and activates the VF, or is held or refused
      per Table 03-20. (R70) -/
  | commit (src : Src) (v : Nat)
  /-- A write of HIF_VF_CTRL RELEASE tears the VF down and returns its resources. (R70) -/
  | release (src : Src) (v : Nat)
  /-- Host-link transfers already issued for the VF drain and outstanding reads are squashed. (R73) Operands:
      the VF, and how many host reads are still outstanding. -/
  | vfHostDrain (v reads : Nat)
  /-- Every context of the VF has been destroyed by forced abort without completion records. (R73) -/
  | vfContextsAborted (v : Nat)
  /-- The VF's resources are accounted back to it and its HBM granules marked dirty. (R71) -/
  | vfResourcesAccounted (v : Nat)
  /-- STATE leaves TEARDOWN, the resources enter the pools and pending values are applied. (R71) -/
  | vfTeardownEnd (v : Nat)
  /-- A queued VF-state record is written to the PF service ring as a slot frees. (R99) -/
  | vfStateRecordWrite
  /-- The background zeroer finishes a dirty granule, making it clean and releasing accesses waiting on it.
      (R74) Operand: the function whose dirty granule it is, 0 for the pool and the PF. -/
  | granuleZeroed (fn : Nat)
  /-- A write to a VF's MSI-X table or mask bits takes effect per byte enable. (R66) Operands: offset in the
      MSI-X table, byte enables, and the dword. -/
  | vfMsixWrite (v off be : Nat) (val : Word)
  /-- A message held pending on a masked vector is sent once the vector is unmasked. (R93) -/
  | msixUnmask (fn vec : Nat)
  /-- A write of CMD_DB_SQ replaces the submission tail; descriptors up to the tail become submitted. (R91)
      Operands: BAR2 of the PF (0) or of VF n, the page, the bound stream with T bit, the value. -/
  | doorbellSq (bar page : Nat) (bound : Bool) (v : Word)
  /-- A write of CMD_DB_CQ consumes completion-ring positions up to CQ_HEAD and frees their slots. (R92)
      Operands as DOORBELL_SQ. -/
  | doorbellCq (bar page : Nat) (bound : Bool) (v : Word)
  /-- A write of ARM = 1 arms the queue pair's MSI-X vector. (R93) Operands as DOORBELL_SQ: a CMD_DB_CQ write
      that only arms. -/
  | queueArm (bar page : Nat) (bound : Bool)
  /-- A write of CMD_SVQ_CFG BUILD builds the service queue from the applied values, or is held until started
      descriptors end. (R87) Operand: the whole value written to CMD_SVQ_CFG of the function. -/
  | build (fn : Nat) (bound : Bool) (v : Word)
  /-- A write of UNBUILD stops fetch on the service queue; fetched descriptors end ABORTED without records.
      (R87) Operand: the whole value written to CMD_SVQ_CFG of the function. -/
  | unbuild (fn : Nat) (bound : Bool) (v : Word)
  /-- When every started descriptor has ended, STATE reads UNBUILT and any held BUILD proceeds. (R87) -/
  | serviceQueueUnbuilt (fn : Nat)
  /-- The device fetches a submitted descriptor when started-descriptor and completion-slot limits allow, by
      weight and round-robin. (R92) Operands: the queue pair and the 64 bytes host memory returns, byte 0 in
      bits 7:0. -/
  | descriptorFetch (qp : Nat) (raw : BitVec 512)
  /-- A descriptor fetch that completes with a host-link error writes an ABORTED record and stops the queue
      pair. (R90) -/
  | fetchError (qp : Nat)
  /-- A fetched descriptor starts, in ring order, once its FENCE and WAIT_EVENT conditions are met. (R96) -/
  | descriptorStart (qp sub : Nat)
  /-- When a descriptor ends, its 32-byte completion record is written with DSTAT and PHASE unless suppressed.
      (R98) -/
  | completionWrite (qp sub : Nat)
  /-- Opcode 0x00 does nothing and completes. (R100) Operands: the started descriptor, by queue pair and
      submission number. -/
  | nop (qp sub : Nat)
  /-- Clears PENDING and COUNT of the named attention entries posted at or before the given epoch. (R109) -/
  | ackAttention (qp sub : Nat)
  /-- Reports the attention entry of CODE, or the most urgent pending one. (R102) -/
  | getAttention (qp sub : Nat)
  /-- Creates a LIVE context with a home partition and priority in the longest-free slot. (R81) -/
  | createContext (qp sub : Nat)
  /-- Destroys a context and every object it owns by forced abort within 5 ms. (R114) -/
  | destroyContext (qp sub : Nat)
  /-- Removes all work of the context from every engine while keeping its objects, then returns it to LIVE.
      (R82) -/
  | resetContext (qp sub : Nat)
  /-- The context's work has been removed; it returns to LIVE with queue pairs moved to their last tails. (R82) -/
  | contextResetComplete (ctx : Nat)
  /-- Builds the lowest unbuilt queue pair of the function with the given rings and MSI-X vector. (R84) -/
  | createQueuePair (qp sub : Nat)
  /-- Stops fetch on a queue pair at once and frees its slot within 1 ms. (R114) -/
  | destroyQueuePair (qp sub : Nat)
  /-- Creates a memory object, reserving its size from the function's HBM share and a device virtual range.
      (R237) -/
  | createMemory (qp sub : Nat)
  /-- Destroys a memory object by forced abort, returning its granules dirty. (R113) -/
  | destroyMemory (qp sub : Nat)
  /-- Creates a latch or counter event in the home partition's event unit. (R103) -/
  | createEvent (qp sub : Nat)
  /-- Destroys an event; waiters complete with ABORTED. (R113) -/
  | destroyEvent (qp sub : Nat)
  /-- Sets the scope of an event to its context, the function or remote nodes by filter. (R106) -/
  | exportEvent (qp sub : Nat)
  /-- Checks a task-graph binary in the order of Table 05-6 and copies it into device storage. (R121) Operand:
      the service tasks whose program's signature fails. -/
  | loadTaskGraph (qp sub : Nat) (badSig : List Nat)
  /-- The graph leaves LOADING, its digest is kept and GRAPH_CHAIN is extended. (R122) -/
  | taskGraphLoaded (graph : Nat)
  /-- Destroys a task graph by forced abort and advances the code epoch. (R113) -/
  | destroyTaskGraph (qp sub : Nat)
  /-- Copies bytes between memory objects or host memory, reporting the written prefix on failure. (R102)
      Operands: the bytes host memory returns for a null SRC, and the byte count at which a host-link request
      fails. -/
  | copy (qp sub : Nat) (host : List Byte) (fail : Option Nat)
  /-- Fills a range of a memory object with a repeated 64-bit pattern. (R102) -/
  | fill (qp sub : Nat)
  /-- Checks and starts one launch of a loaded task graph, provisional when GUARD is not null. (R123) -/
  | launchGraph (qp sub : Nat)
  /-- Signals an event with a new payload. (R103) -/
  | eventSignal (qp sub : Nat)
  /-- Adds AMOUNT to an event's COUNT. (R103) -/
  | eventAdd (qp sub : Nat)
  /-- Clears an event's COUNT, PAYLOAD, SIGNALLED and ERROR. (R103) -/
  | eventReset (qp sub : Nat)
  /-- Waits until the event is SIGNALLED, completing DONE or ABORTED by its ERROR flag. (R105) -/
  | eventWait (qp sub : Nat)
  /-- TIMEOUT_US expires before the event is signalled and EVENT_WAIT completes with TIMEOUT. (R105) -/
  | eventWaitTimeout (qp sub : Nat)
  /-- Returns an event's COUNT, PAYLOAD, SIGNALLED and ERROR. (R102) -/
  | eventQuery (qp sub : Nat)
  /-- Sends a signal or add to an event on another node over VC-Q. (R107) -/
  | eventRemote (qp sub : Nat)
  /-- An EVENT_REQ packet arrives and is applied or refused by the export filter, with a reply on VC-S. (R107)
      Operands: sender's node, 0 signal or 1 add, the handle and value, the sender's transaction. -/
  | eventReq (node op handle value txn : Nat)
  /-- An EVENT_RSP reply completes the sender's EVENT_REMOTE with DONE, REFUSED_HANDLE or NOT_PERMITTED. (R107) -/
  | eventRsp (qp sub : Nat) (status : Nat)
  /-- No reply within 2 ms completes EVENT_REMOTE with TIMEOUT. (R107) -/
  | eventRemoteTimeout (qp sub : Nat)
  /-- At each whole millisecond plus offset a heartbeat record is written to each built service queue, or
      skipped and counted. (R111) -/
  | heartbeat (fn : Nat)
  /-- Resources are reclaimed by accounting, the slot is freed and the destroy descriptor completes with DONE.
      (R113) -/
  | destructionComplete (handle : Nat)
  /-- As ready-queue entries free, overflow tasks move into the queue oldest first. (R130) -/
  | overflowMove (part : Nat)
  /-- A partition scheduler places the first queued task with an eligible core on the least-loaded core. (R131) -/
  | taskPlace (part : Nat)
  /-- A task ends; its flags are ORed into AFLAGS and its exit action begins. (R124) -/
  | taskEnd (launch task : Nat) (e : TaskEnd)
  /-- The exit action completes and the task's outputs may become present. (R128) -/
  | exitActionComplete (launch task : Nat)
  /-- A launch completes once every task has ended, event outputs are signalled and any generation resolved.
      (R134) -/
  | launchComplete (launch : Nat)
  /-- A generation becomes resolvable and its outcome is taken from the guard event. (R139) -/
  | generationResolvable (gen : Nat)
  /-- Within 2 us of a commit outcome the generation's versions become the committed versions. (R139) -/
  | commitPoint (gen : Nat)
  /-- A resolved generation's version space returns to the function's share. (R139) -/
  | versionSpaceReturn (gen : Nat)
  /-- Old committed granules are freed when the last reader that started before the commit point ends. (R139)
      Operand: the generation whose commit replaced the granules. -/
  | oldGranuleFree (gen : Nat)
  /-- Stops every running launch of a graph in the context, skipping unstarted tasks and discarding generations.
      (R142) -/
  | launchCancel (qp sub : Nat)
  /-- Discards every outstanding generation of the context. (R142) -/
  | provDiscard (qp sub : Nat)
  /-- Returns outstanding generations and version space held. (R142) -/
  | provQuery (qp sub : Nat)
  /-- The engine begins the next matrix operation record of the running program. (R151) Operands: the engine,
      and whether the task is in its staged slot. -/
  | matrixOpStart (c : Nat) (staged : Bool)
  /-- An operand chunk finishes loading into a bank from cluster store. (R153) Operands: the engine, the slot,
      the sub-array, the cycles since the last such event. -/
  | chunkLoadComplete (c : Nat) (staged : Bool) (sub : Nat) (cy : Cycles)
  /-- A block's last scaled sum is added and its FP32 bank is complete. (R156) Operands: the engine, the
      sub-array, the cycles since the last such event. -/
  | blockBankComplete (c sub : Nat) (cy : Cycles)
  /-- The last drained byte of a bank is in the drain queue; the bank is free and a stall ends. (R156) Operands:
      the engine, the cycles since the last such event. -/
  | bankFree (c : Nat) (cy : Cycles)
  /-- A MATRIX task ends when END is reached and every block has drained. (R151) Operands: the engine, and
      whether the task ran longer than its COST_NS. -/
  | matrixTaskEnd (c : Nat) (overrun : Bool)
  /-- A load returns a poisoned line; the task stops, is removed and fails by poison. (R163) Operands: the
      engine, the slot, the sub-array whose load it is. -/
  | matrixPoisonedLoad (c : Nat) (staged : Bool) (sub : Nat)
  /-- An uncorrectable or parity error fails both tasks of the engine and starts an engine reset. (R164)
      Operand: the engine. -/
  | matrixUncorrectableError (c : Nat)
  /-- A corrected ECC error is counted in the unit's error register with no other effect. (R164) -/
  | correctedError (site : ErrSite)
  /-- The first stage-F cycle without a valid wavefront begins a gap of dummy wavefronts. (R170) Operand: the
      engine. -/
  | gapBegin (c : Nat)
  /-- After 2 us of gap the engine requests ramp-down. (R170) Operands: the engine, and the dummy wavefronts of
      the window. -/
  | gapWindowExpire (c dummy : Nat)
  /-- In a 64 ns window up to RAMP_STARTS engines of a partition are granted a ramp start in index order. (R169)
      Operand: the partition whose 64 ns window begins. -/
  | rampWindowGrant (p : Nat)
  /-- All 8 tile groups are online and the first valid wavefront issues at cycle 64. (R168) Operand: the engine. -/
  | rampUpComplete (c : Nat)
  /-- Groups 7 to 0 have gone offline and the engine is IDLE. (R168) Operand: the engine. -/
  | rampDownComplete (c : Nat)
  /-- A scalar integer, multiply, divide or branch instruction issues on the scalar pipe. (R203) Operands: the
      vector core, its thread, the instruction at its program counter. -/
  | scalarInstruction (core th : Nat) (ins : SInstr)
  /-- A vector integer or FP32 instruction computes on active lanes, setting OVERFLOW or INVALID. (R204)
      Operands: the core, the thread, the mask register, the instruction. -/
  | vectorArithmetic (core th m : Nat) (ins : VInstr)
  /-- EXP2, LOG2, RCP, RSQRT or TANH computed to the stated accuracy. (R205) -/
  | specialFunction (core th m : Nat) (f : SpecFn) (vd va : Nat)
  /-- A sum, maximum or minimum over active lanes in a fixed tree. (R206) -/
  | crossLaneReduction (core th m : Nat) (op : RedOp) (vd va : Nat)
  /-- A conversion between formats following R185-R188, stochastic casts consuming draws. (R207) Operand sc: the
      scalar register of an MX block's scale. -/
  | cast (core th m : Nat) (op : CastOp) (vd va sc : Nat)
  /-- Writes one 16-bit lane-generator draw per active lane. (R207) -/
  | vrand (core th m vd : Nat)
  /-- Reads the OR of AFLAGS and the thread's task flags into a scalar register. (R208) -/
  | flagsRd (core th rd : Nat)
  /-- Clears the named flag bits in AFLAGS and the task flags. (R208) -/
  | flagsClr (core th bits : Nat)
  /-- Returns the device virtual address of a launch argument's object, or the event handle. (R209) -/
  | argbase (core th rd k : Nat)
  /-- A vector or scalar load or store is translated and served by the write-back data cache. (R211) -/
  | vectorLoadStore (core th m : Nat) (ins : MemInstr)
  /-- A gather or scatter of 32 independent addresses. (R203) -/
  | gatherScatter (core th m : Nat) (ins : GatherInstr)
  /-- A data-cache miss is served from cluster store or HBM and the stalled dependent instruction may issue.
      (R203) Operands: the core and the thread whose oldest load the lines serve. -/
  | lineFill (core th : Nat)
  /-- An integer read-modify-write performed where the line is held, bypassing the data cache. (R213) -/
  | atomic (core th : Nat) (op : AtomOp) (rd ra rb size : Nat)
  /-- Writes back dirty bytes of lines overlapping a range and keeps them clean. (R212) Operands: the scalar
      registers of the range's address and length. -/
  | cflush (core th ra rb : Nat)
  /-- Drops lines overlapping a range after writing back dirty bytes. (R212) -/
  | cinv (core th ra rb : Nat)
  /-- Writes back and drops lines overlapping a range. (R212) -/
  | cflushinv (core th ra rb : Nat)
  /-- Stalls the thread until its stores and write-backs have drained. (R212) -/
  | mfence (core th : Nat)
  /-- The thread's stores have left the store buffer and its write-backs have landed; the thread resumes. (R212) -/
  | mfenceComplete (core th : Nat)
  /-- An uncorrectable error in a vector core fails all its threads' tasks and starts an engine reset. (R215) -/
  | vectorUncorrectableError (core : Nat) (site : VErrSite)
  /-- A service-core load-reserved or store-conditional performed where the line is held. (R218) -/
  | lrSc (core : Nat) (ins : LrSc)
  /-- A service-core atomic memory operation performed where the line is held. (R218) -/
  | amo (core : Nat) (op : AtomOp) (rd addr value size : Nat)
  /-- Writes back a service-core cache block. (R218) Operands: the core, an address in the block, what ordinary
      stores wrote since the last such command. -/
  | cboClean (core addr : Nat) (stored : List (Nat × List Byte))
  /-- Writes back and drops a service-core cache block. (R218) -/
  | cboFlush (core addr : Nat) (stored : List (Nat × List Byte))
  /-- Performed as cbo.flush so that no dirty byte is lost. (R218) -/
  | cboInval (core addr : Nat) (stored : List (Nat × List Byte))
  /-- Orders a service core's own accesses without writing anything back. (R218) -/
  | fence (core : Nat)
  /-- Invalidates the service core's own instruction cache. (R218) -/
  | fenceI (core : Nat)
  /-- User environment call 0 ends the service task, faulting it when a0 is non-zero. (R225) Operands: the core,
      a0, whether it ran longer than COST_NS, what ordinary stores wrote. -/
  | exit (core a0 : Nat) (overrun : Bool) (stored : List (Nat × List Byte))
  /-- User environment call 1 returns ARGBASE of the argument in a0. (R225) Operands: the core and a0, the
      argument index. -/
  | envCallArgbase (core k : Nat)
  /-- User environment call 2 returns the 1 GHz time base. (R225) -/
  | time (core : Nat)
  /-- An uncorrectable error in a service core's caches or register files starts an engine reset. (R223) -/
  | serviceCoreError (core : Nat)
  /-- A firmware service makes no progress for 10 ms, starting an engine reset or a partition reset for a
      supervisor. (R223) -/
  | firmwareStall (core : Nat)
  /-- Sets the access rights of a page-aligned range of a memory object. (R242) -/
  | memProtect (qp sub : Nat)
  /-- Every translation cache has dropped affected entries and the new rules take effect. (R240) Operands: the
      MEM_PROTECT descriptor whose change point it is. -/
  | rulesChangePoint (qp sub : Nat)
  /-- Waits until no access translated before the fence remains admitted. (R241) -/
  | rulesFence (qp sub : Nat)
  /-- No pre-fence access remains admitted and RULES_FENCE completes with DONE. (R241) -/
  | rulesFenceComplete (qp sub : Nat)
  /-- Makes spilled scratch pages of a range resident while room allows. (R242) -/
  | cstReside (qp sub : Nat)
  /-- Writes back and drops a range's lines from the cache parts of their homes. (R242) -/
  | cstEvict (qp sub : Nat)
  /-- Returns scratch residency and backing stacks of a memory object. (R242) -/
  | memQuery (qp sub : Nat)
  /-- Returns the offset of the first poisoned line at or after FROM and the poisoned-line count. (R242) -/
  | poisonScan (qp sub : Nat)
  /-- In confidential mode the page's encrypted zeros and tags are written and its first access proceeds. (R279)
      Operands: the object's slot and its page. -/
  | pageZeroDone (slot page : Nat)
  /-- A stack admits up to 16 requests per cycle round-robin from cluster queues within the per-bank cap. (R247)
      Operands: the stack and the requests that reach its queues in this cycle: cluster (64 the badger), bank,
      identity they were translated under. -/
  | hbmAdmission (stack : Nat) (new : List (Nat × Nat × Nat))
  /-- An admitted HBM transaction completes and its slot is released. (R248) Operands: the stack, the
      transaction's number, and what its lines show. -/
  | hbmTransactionComplete (stack id : Nat) (lines : List HbmLine)
  /-- A corrected line is rewritten within 1 ms. (R251) -/
  | correctedLineRewrite (stack line : Nat)
  /-- An uncorrectable cluster-store error drops a clean sector or poisons a dirty or scratch sector. (R252)
      Operands: the cluster, and the sector as a memory object's slot and offset. -/
  | clusterStoreUncorrectable (cluster slot off : Nat)
  /-- At each scrub interval the badger reads the next 256 B chunk of a stack and corrects single-symbol errors.
      (R256) Operands: the stack, and what those lines of the chunk show that are not clean. -/
  | badgerChunkRead (stack : Nat) (lines : List HbmLine)
  /-- A requester asks an allocator for a buffer and takes a reservation, a free buffer or RETRY_LATER with a
      place in the claim line. (R249) Operands: the pool (0 the landing buffers) and the requesters of the
      cycle. -/
  | allocRequest (pool : Nat) (reqs : List Nat)
  /-- A freed buffer is reserved for the head of the claim line or joins the free set. (R249) -/
  | bufferFree (pool buf : Nat)
  /-- A reservation not taken within 10 us returns its buffer and its requester loses its place. (R249) -/
  | reservationLapse (pool req : Nat)
  /-- 10 ms after the halt began, heartbeats stop and the device is halted. (R276) -/
  | haltHeartbeatStop
  /-- LAYOUT becomes PROTECTED and the session state becomes OPEN. (R278) -/
  | layoutSwitchDone
  /-- A flit arrives; its CRC and SEQ are checked, ACK and credits taken, and accepted flits passed on. (R295)
      Operands: the port, the flit, whether its CRC checks, and for a TAG flit whether the frame's tag verifies. -/
  | flitReceive (port : Nat) (f : Flit) (crcOk tagOk : Bool)
  /-- A received NAK flit starts a replay from its SEQ. (R296) -/
  | nak (port seq : Nat)
  /-- No ACK advance for 2 us (board) or 25 us (optical) starts a replay from the oldest unacknowledged flit.
      (R296) -/
  | replayTimerExpire (port : Nat)
  /-- A write of LNK_PORT_CTRL RETRAIN retrains the port at full width now. (R305) -/
  | retrain (src : Src) (port : Nat)
  /-- A lane fails training or retraining and the port retrains at half width, or goes DOWN. (R305) -/
  | laneFailure (port lane : Nat)
  /-- A retrain reaches UP or DEGRADED and transmission resumes with a replay. (R305) -/
  | retrainComplete (port : Nat)
  /-- A retrain misses its limit; the port goes DOWN and packets in its replay buffer are lost. (R305) Operand:
      the port, whose retraining or training has missed its limit. -/
  | retrainLimitExpire (port : Nat)
  /-- A DOWN port starts training again every 1 s. (R304) -/
  | trainingAttempt (port : Nat)
  /-- Equalisation, lane checks and FEC lock finish and the port enters HELLO. (R305) -/
  | trainingComplete (port : Nat)
  /-- A HELLO packet is received; the peer is stored and the cabling check runs. (R306) Operands: the port and
      the fields of the HELLO packet. -/
  | hello (port node peerPort serial role : Nat) (conf : Bool) (digest : Nat)
  /-- Every 100 ms a HELLO is sent again on VC-M. (R306) -/
  | helloResend (port : Nat)
  /-- At the port's milestone boundary after a plan write, the cabling check runs again. (R308) -/
  | planChangeCheck (port : Nat)
  /-- A transit packet without output credits for TRANSIT_STALL_MS is discarded whole. (R303) Operands: the
      output port and the virtual channel whose first packet has stalled. -/
  | transitStallExpire (port vc : Nat)
  /-- LNK_RT_CMD OP 1 writes LNK_RT_DATA into the addressed routing entry within 1 us. (R302) -/
  | routeWrite (src : Src)
  /-- LNK_RT_CMD OP 2 reads the addressed routing entry into LNK_RT_DATA. (R302) -/
  | routeRead (src : Src)
  /-- Every 1 ms a CANDIDATE sends BEACON to every other listed candidate. (R318) -/
  | beaconTimer
  /-- A received BEACON from a higher pair makes the candidate yield; an equal pair enters HELD. (R318)
      Operands: the arrival port, the sender, its pair, the highest term it has seen, its HELD flag. -/
  | beacon (port node prio serial term : Nat) (held : Bool)
  /-- A candidate that has beaconed 5 ms unopposed becomes ACTIVE and announces. (R318) -/
  | claimExpire
  /-- The active manager sends ANNOUNCE every 1 ms for 10 ms, then every 100 ms. (R318) -/
  | announceTimer
  /-- A received ANNOUNCE of the highest term names the active manager and standby and restarts the watch.
      (R318) Operands: the arrival port, the manager, its term, the node it names STANDBY, and whether it took
      over. -/
  | announce (port node term : Nat) (standby : Option Nat) (takeover : Bool)
  /-- Every 200 us the active manager sends KEEPALIVE to the standby. (R322) -/
  | keepaliveTimer
  /-- The standby receives KEEPALIVE and updates its copy of term, step and arrival state. (R331) Operands: the
      arrival port, the manager, its term, the last step applied, the nodes that have arrived. -/
  | keepalive (port node term step : Nat) (arrived : List Nat)
  /-- No KEEPALIVE for 2 ms; the standby takes over as ACTIVE with term + 1. (R332) -/
  | keepaliveLoss
  /-- A final RELINQUISH from the active manager makes the standby take over at once. (R331) -/
  | relinquish (port node : Nat)
  /-- The new manager receives each chip's STEP and arrival report and sends catch-up ADVANCEs. (R332) -/
  | resyncReport (node step : Nat) (arrived : Bool)
  /-- A reserve candidate that has heard no ANNOUNCE for 300 ms restarts the election. (R333) -/
  | announceWatchExpire
  /-- A chip that has heard no ANNOUNCE for 1 s posts MANAGER_CHANGE with cause 0x02. (R333) -/
  | noManagerExpire
  /-- WMK_PLAN_CTRL LOAD reads the domain plan from host memory and distributes it, or refuses it. (R323)
      Operands: the header, chip and route records that host memory returns from WMK_PLAN_BASE. -/
  | planLoad (src : Src) (magic nChips nRoutes domain : Nat) (chips : List PlanChip) (routes : List PlanRoute)
  /-- A PLAN packet from the manager writes the chip's port plans and routing entries. (R322) Operands: the
      arrival port, the sender, the chip's tree parent port, its port plans and its routes. -/
  | plan (port node treePort : Nat) (plans : List Nat) (routes : List PlanRoute)
  /-- Every 1 s each chip sends its health summary and the manager a domain summary upward. (R322) -/
  | healthSummaryTimer
  /-- A chip without a health summary for 3 s is marked MISSING in the domain view. (R323) -/
  | healthSummaryMissing (node : Nat)
  /-- Every 100 us a child sends SYNC_REQ to its parent. (R325) -/
  | syncReqTimer
  /-- A parent timestamps a SYNC_REQ and replies. (R325) -/
  | syncReq (port node t1 : Nat)
  /-- The child computes its offset and steps or slews its time base, reporting SYNCED after 8 good exchanges.
      (R325) Operands: the parent's timestamps and its own error bound. -/
  | syncReply (t2 t3 bound : Nat)
  /-- A rising edge of WMK_PPS on the top manager slews its time base toward the nearest whole second. (R327) -/
  | wmkPpsEdge
  /-- A write of WMK_TIME_SET steps the top manager's time base. (R327) -/
  | timeSet (src : Src) (v : DWord)
  /-- The ARRIVE event is signalled and the chip sends ARRIVE for step STEP + 1 to its parent. (R328) -/
  | arriveSignal
  /-- An ARRIVE packet arrives; when the subtree has arrived it is forwarded upward within 2 us. (R328) -/
  | arrive (port node step : Nat)
  /-- A received ADVANCE is scheduled for time T, applied at once if late, or ignored if already reached. (R329) -/
  | advance (port node term step time : Nat) (set : Bool)
  /-- At time base T the chip sets STEP, zeroes PHASE and signals the ADVANCE event. (R328) -/
  | advanceApply
  /-- A write of WMK_STEP_SET on the top manager sends ADVANCE with SET, discarding held arrivals. (R330) -/
  | stepSet (src : Src) (v : DWord)
  /-- Copies triggered-operation records into trigger slots, all or none, assigning OP_SEQ. (R340) -/
  | trigPost (qp sub : Nat)
  /-- Ends every pending or running operation whose TAG matches with CANCELLED. (R363) -/
  | trigCancel (qp sub : Nat)
  /-- Creates a collective group from a member list and returns index and own rank. (R343) -/
  | groupCreate (qp sub : Nat)
  /-- Destroys a group and ends its operations. (R361) -/
  | groupDestroy (qp sub : Nat)
  /-- Returns pending operations, next OP_SEQ and own rank of a group. (R363) -/
  | groupQuery (qp sub : Nat)
  /-- A queued fired operation starts on a collective engine when fewer than 4 run there. (R336) Operand: the
      engine with a free place. -/
  | collectiveOpStart (eng : Nat)
  /-- An owner receives a member's segment exponents and opens segments once all have arrived. (R347) Operands:
      the packet's arrival port, sender, GROUP_TAG, OP_SEQ, signature, first segment and exponents. -/
  | exp (port node tag seq sig first : Nat) (exps : List Int)
  /-- A contributor receives GO and sends the named segments as COLL_DATA, or holds it if not fired. (R347)
      Operands as EXP, with the segment count. -/
  | go (port node tag seq sig first : Nat) (n : Nat) (exps : List Int)
  /-- A sender receives READY and may send its data to that receiver. (R348) -/
  | ready (port node tag seq sig : Nat)
  /-- A member receives DONE for a part; the operation ends when all expected DONEs have arrived. (R347) -/
  | done (port node tag seq sig : Nat)
  /-- A member receives ABORT and fails the operation with PEER_ABORT, or falls back from a switch. (R360) -/
  | abort (port node tag seq sig reason rank : Nat) (fallback : Bool)
  /-- A sender receives BUSY because the receiver's hold table is full. (R345) Operand kind: SUBTYPE of the
      packet refused. -/
  | busy (port node tag seq kind : Nat)
  /-- 10 us after BUSY the sender repeats the control packet. (R345) Operands: the operation, SUBTYPE and
      receiver of the packet sent again. -/
  | busyRetry (op kind rank : Nat)
  /-- A COLL_DATA chunk arrives and is reduced into its open segment or written to DST. (R347) -/
  | collData (port node tag seq seg rank chunk : Nat) (data : List Byte)
  /-- A COLL_ACK acknowledges a COLL_CTRL packet and stops its resend. (R345) -/
  | collAck (port node tag seq kind : Nat)
  /-- RESEND_MS without data resends GO or control; after RESEND_LIMIT the operation fails with PEER_LOST.
      (R359) Operands: the operation, the segment that lacks data, or else SUBTYPE and receiver of the control
      packet unacknowledged. -/
  | resendTimer (op : Nat) (seg : Option Nat) (kind rank : Nat)
  /-- TIMEOUT_MS from the fire expires and the operation fails with TIMEOUT. (R360) -/
  | operationTimeout (op : Nat)
  /-- A switch's CAPS packet stores its reduction capabilities in COL_SW_CAPS. (R352) -/
  | caps (port types members memKib : Nat)
  /-- A switch refuses a segment and the members fall back to direct exchange. (R353) -/
  | swRefuse (port tag seq seg : Nat)
  /-- A segment sum from the switch arrives and is written to DST in OUT_TYPE. (R353) -/
  | switchSum (port tag seq seg : Nat) (data : List Byte)
  /-- No sum from the switch for 1 ms triggers fallback to direct exchange. (R353) -/
  | switchSumTimeout (op : Nat)
  /-- An uncorrectable error in a reduction store fails every operation on the engine and starts an engine
      reset. (R360) -/
  | reductionStoreError (eng : Nat)
  /-- Copies a schedule, checks its structure and runs the tollgate, loading it if admitted. (R376) -/
  | schedLoad (qp sub : Nat)
  /-- Admission on the service cores finishes and the report record is written. (R381) -/
  | admissionComplete (qp sub : Nat)
  /-- Runs the checks and tollgate of SCHED_LOAD without loading. (R375) -/
  | tollgateCheck (qp sub : Nat)
  /-- Starts the schedule runner at the next signal of STEP_EVENT. (R375) -/
  | schedStart (qp sub : Nat)
  /-- Stops the runner after the next ARRIVE it signals. (R375) -/
  | schedStop (qp sub : Nat)
  /-- Returns the runner's current step, counts and flags. (R375) -/
  | schedQuery (qp sub : Nat)
  /-- Removes the loaded schedule when the runner is not running. (R375) -/
  | schedUnload (qp sub : Nat)
  /-- STEP_EVENT is signalled and the runner issues the step's entries in table order. (R368) -/
  | runnerStepStart (ctx : Nat)
  /-- A runner launch that completed RETRY_LATER is issued again every 10 us. (R369) -/
  | launchRetry (qp sub : Nat)
  /-- Every launch and posted operation of the step has ended; the runner resets events and signals ARRIVE.
      (R368) -/
  | runnerStepEnd (ctx : Nat)
  /-- At the first arrival after a configuration change the tollgate is evaluated again in the background.
      (R382) -/
  | readmission (ctx : Nat)
  /-- Opens a sample stream, measures RTT, computes its allowance and admits it against rate and escape-lane
      sums. (R385) -/
  | streamOpen (qp sub : Nat)
  /-- The server's OPEN_ACK accepts or refuses the stream. (R385) Operands: arrival port, sender, stream, byte 0
      of the payload. -/
  | openAck (port node stream reason : Nat)
  /-- OPEN is resent 2 ms apart; no OPEN_ACK after three completes STREAM_OPEN with TIMEOUT. (R385) -/
  | openResend (stream : Nat)
  /-- Sends CLOSE and copies or discards the stream's landed bytes. (R399) -/
  | streamClose (qp sub : Nat)
  /-- Returns a stream's landed position, state and buffers held. (R398) -/
  | streamQuery (qp sub : Nat)
  /-- Writes the stream's data-position record. (R397) -/
  | streamPosition (qp sub : Nat)
  /-- An INGEST_DATA packet lands in the stream's buffer or the escape lane, or is discarded. (R387) Operands:
      arrival port, sender, CLASS_WORD and TXN fields, payload. -/
  | ingestData (port node stream txn : Nat) (first : Bool) (data : List Byte)
  /-- No new sample for IDLE_FLUSH_US hands a partly filled buffer to the mover. (R389) -/
  | idleFlush (stream : Nat)
  /-- The server acknowledges HOLD after it has stopped. (R390) -/
  | holdAck (port node stream : Nat)
  /-- The server acknowledges RESUME. (R390) -/
  | resumeAck (port node stream : Nat)
  /-- The server acknowledges CLOSE with its next SSN. (R399) -/
  | closeAck (port node stream ssn : Nat)
  /-- HOLD or RESUME unacknowledged for 2 x RTT + 10 us is resent; after 8 sends the stream enters FAILED.
      (R390) -/
  | holdResendTimer (stream : Nat)
  /-- The mover copies a handed-off buffer into DEST when the ring has room and signals LANDED. (R393) -/
  | moverCopy (stream : Nat)
  /-- Reads and checks a checkpoint plan and reserves copy-on-write space, arming it. (R403) -/
  | ckpConfig (qp sub : Nat)
  /-- Requests a checkpoint at the next waymark apply. (R406) -/
  | ckpTrigger (qp sub : Nat)
  /-- Removes the plan once no checkpoint is in flight. (R423) -/
  | ckpDisarm (qp sub : Nat)
  /-- Fetches and checks a manifest and restores the rank's shard. (R417) -/
  | ckpRestore (qp sub : Nat)
  /-- Returns the last complete checkpoint step and checkpoint state. (R423) -/
  | ckpQuery (qp sub : Nat)
  /-- After the apply and any awaited operations end, the snapshot is fixed and streaming begins. (R407)
      Operand: the context. -/
  | snapshotPoint (ctx : Nat)
  /-- The streamer seals the next chunk and sends it to the store and buddy within their windows. (R409)
      Operand: the transfer. -/
  | chunkSend (txn : Nat)
  /-- A store's ACK acknowledges chunks and sets the window, or reports an error status. (R411) -/
  | ack (port node txn status chunk window : Nat)
  /-- A chunk or request unacknowledged for 10 ms is resent at most twice, then the peer is lost. (R411)
      Operands: the transfer; the chunk, or none for its request. -/
  | chunkResendTimer (txn : Nat) (chunk : Option Nat)
  /-- The store reports the object stored whole with a matching digest; the rank sends DIGEST_REPORT. (R411) -/
  | durable (port node txn : Nat)
  /-- The manifest node collects a rank's report and writes the manifest when all ranks report OK. (R415) -/
  | digestReport (node rank step inc shape digest len store : Nat) (buddy : Option Nat) (result : Nat)
  /-- MANIFEST_DONE completes or fails the rank's checkpoint and signals DONE_EVENT. (R415) -/
  | manifestDone (node step inc result : Nat)
  /-- MANIFEST_WAIT_S (+1 s for ranks) expires; the checkpoint fails and CHECKPOINT_FAILED is posted. (R415)
      Operands: the context; the wait is the manifest node's or the rank's. -/
  | manifestWaitExpire (ctx : Nat) (manager : Bool)
  /-- A store's STAT_RSP gives a manifest's length, digest and VALID bit to the restore. (R417) -/
  | statRsp (port node txn status len : Nat) (valid : Bool)
  /-- A buddy partner opens a put into the slot not holding the last complete copy, or answers NO_ROOM. (R413) -/
  | putOpen (node txn : Nat) (name : List Byte) (len : Nat)
  /-- A partner checks the put's bytes against the given digest and answers DURABLE. (R411) -/
  | putClose (node txn digest : Nat)
  /-- A partner serves chunks of a buddy copy, answering CHUNK_BAD for poisoned chunks. (R418) Operand `bad`:
      the chunks of which a line is poisoned. -/
  | getOpen (node txn : Nat) (name : List Byte) (first count : Nat) (bad : List Nat)
  /-- A CKP_DATA packet delivers stored bytes to a partner region or to a restoring chip. (R410) -/
  | ckpData (port node txn off : Nat) (data : List Byte)
  /-- A restore chunk is checked by its trailer and written into its range, or refetched from the store. (R418) -/
  | restoreChunk (ctx : Nat)
  /-- The digest matches; SEED, MODE and data positions are written and CKP_RESTORE completes DONE. (R420) -/
  | restoreComplete (ctx : Nat)
  /-- Checks preconditions, reads the configuration, generates session keys and switches to protected layout.
      (R438) Operands: the descriptor arrived on the bound selective IDE stream; what the read of the
      configuration gives, none where it fails. -/
  | sessionOpen (qp sub : Nat) (bound : Bool) (cfg : Option (List Byte))
  /-- Destroys every context, erases keys, switches back the layout and retrains ports. (R453) -/
  | sessionClose (qp sub : Nat)
  /-- Writes a signed attestation report for a nonce. (R450) -/
  | sessionReport (qp sub : Nat)
  /-- Imports a plaintext key or unwraps a signed key blob into a key slot. (R442) -/
  | keyImport (qp sub : Nat)
  /-- Destroys a key slot and overwrites its key material. (R444) -/
  | keyErase (qp sub : Nat)
  /-- Loads the lowest free memory key ID from 2 to 255. (R454) -/
  | memkeyLoad (qp sub : Nat)
  /-- Erases a memory key ID that no live object names. (R454) -/
  | memkeyErase (qp sub : Nat)
  /-- Digests a range of a memory object and extends WEIGHT_CHAIN. (R451) -/
  | weightMeasure (qp sub : Nat)
  /-- Writes the sealed session log encrypted to the session owner. (R449) -/
  | logExport (qp sub : Nat)
  /-- A public-key lane finishes its 250 us slot and the next queued request enters. (R446) -/
  | publicKeySlotEnd
  /-- 4 us after the decision point a security refusal completes with NOT_PERMITTED and zeroed results. (R447) -/
  | uniformRefusalWrite (qp sub : Nat)
  /-- The entropy source fails its continuous health tests and key generation stops. (R426) -/
  | entropyHealthFailure
  /-- A peer's OFFER carrying its session digest, ephemeral key and chain is received in the link handshake.
      (R439) Operands: the port; the peer presents a switch key, not chain B; the message. -/
  | offer (port : Nat) (switch : Bool) (b : List Byte)
  /-- A peer's PROOF signature over both OFFERs is verified. (R440) -/
  | proof (port : Nat) (sig : List Byte)
  /-- A matching FINISH completes the handshake, installs link keys and sets SECURED. (R440) -/
  | finish (port : Nat) (mac : List Byte)
  /-- A peer's REJECT abandons the handshake on the port. (R440) -/
  | reject (port : Nat)
  /-- A port whose handshake failed tries again every 1 s. (R440) -/
  | handshakeRetry (port : Nat)
  /-- JTAG EXTEST is entered where the state allows, aborting any session. (R463) -/
  | jtagExtest
  /-- Leaving JTAG EXTEST causes a chip reset. (R463) -/
  | jtagExtestExit
  /-- A vendor JTAG test instruction writes a token-digest slot once. (R460) -/
  | tokenDigestProgram (slot : Nat) (d : BitVec 384)
  /-- LCS_CMD GO submits a life-cycle transition command with TARGET and LCS_TOKEN. (R465) Operand: the TARGET
      written with GO. -/
  | transitionCommand (src : Src) (target : Nat)
  /-- 10 ms after arrival the command is decided: refused, or the session aborted, stores erased and OTP
      programmed. (R466) Operand: the stores erased read back as they must. -/
  | transitionDecision (eraseOk : Bool)
  /-- An uncorrectable error in a partition's shared logic or loss of its join or HBM PHY. (R471) -/
  | partitionHwError (part : Nat)
  /-- An uncorrectable error in chip-level logic, or a partition 0 supervisor fault. (R471) -/
  | chipHwError
  /-- The unit returns to service or is masked, retiring its cluster beyond the mask limit. (R479) -/
  | engineResetComplete (unit : Nat) (t : UnitTest)
  /-- The partition returns to service or stays offline and PARTITION_RESET is posted. (R480) -/
  | partitionResetComplete (part : Nat) (ok : Bool)
  /-- A reset or forced abort outlasts its bound and escalates to the next level. (R474) Operands: the reset or
      abort; the units and, for blocks that are no units, the partitions that still hold its work. -/
  | boundMiss (r : Recovery) (units parts : List Nat)
  /-- A recovery progress counter misses its stall window and escalates the reset. (R475) Operands as for
      BOUND_MISS. -/
  | progressMiss (r : Recovery) (units parts : List Nat)
  /-- FLT_RESET_CMD GO with LEVEL 1 starts an engine reset of UNIT. (R486) -/
  | engineResetCommand (src : Src) (unit : Nat)
  /-- FLT_RESET_CMD GO with LEVEL 2 starts a reset of partition 1, 2 or 3. (R486) -/
  | partitionResetCommand (src : Src) (unit : Nat)
  /-- FLT_RESET_CMD GO with LEVEL 3 starts a chip reset, also accepted in halt. (R486) -/
  | chipResetCommand (src : Src)
  /-- Every 1 s the ring-oscillator ageing monitors are read. (R496) Operand: monitor and reading in 0.01%. -/
  | ageingRead (readings : List (Nat × Nat))
  /-- Every 10 us the critical-path replicas report slack. (R497) Operand: cluster and SLACK in 0.1% of the
      cycle. -/
  | replicaRead (slack : List (Nat × Nat))
  /-- SLACK below FLOOR for 100 us after the clock drop retires the cluster at once. (R500) -/
  | marginFloorRetire (c : Nat)
  /-- 24 h of ledger time after the last re-plan a new margin plan is computed. (R499) -/
  | dailyReplan
  /-- A write of OWL_CTRL REPLAN requests a re-plan with cause 0x03. (R499) -/
  | replan (src : Src)
  /-- The new plan is written to its record, applied in safe order and MARGIN_REPLAN posted. (R499) Operands:
      what the prediction of R499 yields: rail voltages, clocks by cluster, clusters to retire. -/
  | replanComplete (volts : List Nat) (clocks : List (Nat × Nat × Nat)) (retire : List Nat)
  /-- A write of OWL_POL_REQ sets a loop's requested policy, applied as far as the hardware side allows. (R503)
      Operands: the loop, the value, the nearest value its hardware side allows, and the partition, cluster,
      port or stack that limits it, or 0xFF. -/
  | policyWrite (src : Src) (l v allowed unit : Nat)
  /-- A cluster above COOL_C for 1 s stops taking ANY or PARTITION tasks. (R502) -/
  | placementCooldown (c : Nat)
  /-- A cluster below COOL_C - 5 C for 1 s takes ANY and PARTITION tasks again. (R502) -/
  | cooldownEnd (c : Nat)
  /-- Every 1 s lane eye margins are read and degraded lanes' equalisers adapted. (R502) Operand: lane and eye
      margin in percent of that at its last training. -/
  | eyeMonitorRead (margins : List (Nat × Nat))
  /-- Every 1 s while SYNCED ledger time is loaded from the time base, closing the interval on a jump. (R505) -/
  | ledgerTimeLoad
  /-- Every 100 us the tick's input energy is split among the energy accounts. (R508) Operands: E of the tick in
      mJ, and the dynamic energy in mJ by function whose task ran. -/
  | meterTick (energy : Nat) (charges : List (Nat × Nat))
  /-- At an interval boundary the LEDGER record is written, the interval record ringed and logged. (R507) -/
  | intervalClose
  /-- Ledger time reaches a period's START and its cap applies. (R506) -/
  | periodStart
  /-- A write of a power-period register updates the schedule, written to the PERIODS record within 1 ms. (R506) -/
  | periodWrite (src : Src) (r : Reg) (v : DWord)
  /-- Daily a HEALTH record with sensor summaries, retries, spares, VBAT and coolant is written. (R513) -/
  | dailyHealthRecord
  /-- Buffered logbook records are committed to NAND, critical within 10 ms and routine within 1 s. (R514) -/
  | logbookCommit
  /-- A page program fails verify; it is retried and the block may be retired as bad. (R515) Operand: the third
      retry has failed too, so the block is retired. -/
  | pageProgramFail (last : Bool)
  /-- With fewer than 2 free blocks the oldest data block is erased after copying its critical records. (R516) -/
  | logbookBlockErase
  /-- Returns an account's total energy and the open interval's index. (R517) -/
  | ledgerRead (qp sub : Nat)
  /-- Writes the totals table and the newest interval records. (R517) -/
  | ledgerExport (qp sub : Nat)
  /-- Copies whole logbook records from FROM_SEQ onward. (R517) -/
  | logbookRead (qp sub : Nat)
  /-- I3C CCC assigning a dynamic address from the static address. (R521) -/
  | setdasa (static addr : Nat)
  /-- I3C CCC for dynamic address assignment. (R521) -/
  | entdaa (addr : Nat)
  /-- I3C CCC changing the dynamic address. (R521) -/
  | setnewda (addr : Nat)
  /-- I3C CCC resetting the dynamic address. (R521) -/
  | rstdaa
  /-- I3C CCC enabling events; ENINT enables IBI. (R521) -/
  | enec (int : Bool)
  /-- I3C CCC disabling events. (R521) -/
  | disec (int : Bool)
  /-- I3C CCC returning target status. (R521) -/
  | getstatus
  /-- I3C CCC returning the provisional ID. (R521) -/
  | getpid
  /-- I3C CCC returning BCR 0x06. (R521) -/
  | getbcr
  /-- I3C CCC returning DCR 0x00. (R521) -/
  | getdcr
  /-- I3C CCC returning a maximum write length of 4,096 B. (R521) -/
  | getmwl
  /-- I3C CCC returning a maximum read length of 4,096 B. (R521) -/
  | getmrl
  /-- I3C CCC setting the maximum write length, NACKed below 4,096. (R521) -/
  | setmwl (v : Nat)
  /-- I3C CCC setting the maximum read length, NACKed below 4,096. (R521) -/
  | setmrl (v : Nat)
  /-- An I3C private write delivers one management request frame, discarded if a response is unread. (R526) -/
  | privateWrite (bytes : List Byte)
  /-- An I3C private read returns the ready response, NACKed until it is ready. (R526) -/
  | privateRead
  /-- 100 ms with an alert still pending after an acknowledged IBI requests a new IBI. (R522) -/
  | ibiRepeat
  /-- A NACKed or lost IBI is requested again at the next bus idle. (R522) -/
  | ibiNackRetry
  /-- A UART byte is received by mid-bit sampling, discarded on a framing error, and frames hunted by 0xA5 0xC3.
      (R524) Operands: the stop bit as sampled, and the byte. -/
  | uartByte (stop : Bool) (b : Byte)
  /-- A gap of 100 us or more between bytes of one frame discards the frame. (R523) -/
  | uartGapDiscard
  /-- Management command returning serial, node ID, role, feature word, life-cycle and firmware identity. (R528)
      Operand: the face that holds the request. -/
  | identity (uart : Bool)
  /-- Management command returning status registers, temperatures and alert entries. (R528) -/
  | status (uart : Bool)
  /-- Management command clearing an event alert if its COUNT still matches. (R527) -/
  | alertAck (uart : Bool)
  /-- Management command returning the 64-byte health summary. (R528) -/
  | health (uart : Bool)
  /-- Management command returning the active manager's domain view. (R528) -/
  | domainView (uart : Bool)
  /-- Management command returning fault-ring, logbook or erase records. (R528) -/
  | recordRead (uart : Bool)
  /-- Management command returning an account's totals and interval records. (R528) -/
  | ledger (uart : Bool)
  /-- Management command setting the tray power cap. (R529) -/
  | trayCap (uart : Bool)
  /-- Management command starting an engine, partition or chip reset as FLT_RESET_CMD. (R528) -/
  | reset (uart : Bool)
  /-- Management command submitting a life-cycle transition. (R465) -/
  | lifecycle (uart : Bool)
  /-- Management command returning each port's state, peer and plan. (R528) -/
  | cabling (uart : Bool)
  /-- Management command answering a tray nonce with the HMAC under the tray secret in constant time. (R433) -/
  | challenge (uart : Bool)
  /-- Management command writing the tray secret once. (R529) -/
  | trayProvision (uart : Bool)
  /-- Management command programming the next part of a firmware copy in one ascending pass. (R530) -/
  | fwWrite (uart : Bool)
  /-- Management command programming the last page and running the R222 checks on the copy. (R530) Operand: what
      the digest and signature checks find. -/
  | fwCommit (uart : Bool) (a : FwVerdict)
  /-- Management command raising the OTP security-version floor when both copies allow it. (R530) -/
  | fwFloor (uart : Bool)
  /-- Management command setting a firmware key's revocation bit when both copies pass under the other key.
      (R530) -/
  | fwRevoke (uart : Bool)
  /-- CLOSE is sent again 2 ms apart, and 2 ms after the third CLOSE without CLOSE_ACK the close may complete.
      (R399) -/
  | closeResend (stream : Nat)
  /-- The coolant inlet reads 40 C or below again, ending the health-record condition and the COOLANT condition
      alert. (R35) Operand: the inlet in 0.1 degrees. -/
  | coolantInletNormal (temp : Nat)
  /-- The entropy source passes its continuous health tests again and key generation resumes. (R426) -/
  | entropyHealthRestored
  /-- The active manager receives a chip's 64-byte health summary, or a parent manager a domain summary, and
      updates its domain view. (R322) Operands: the chip, or a child manager, and its 64-byte summary as a
      number. -/
  | healthSummary (node summary : Nat)
  /-- A device read of host memory receives no completion within the completion timeout, failing the read and
      releasing its quarantined tag. (R56) Operands: the queue pair and descriptor whose host read timed out, or
      the queue pair's fetch. -/
  | completionTimeout (qp sub : Nat) (fetch : Bool)
  /-- A host write of the VF Resizable BAR control sets VF BAR2 to 1, 2 or 4 MiB, changing the doorbell pages
      that COMMIT checks. (R57) -/
  | vfResizableBarWrite (mib : Nat)
  /-- The host link reaches L0 after M3 was taken with HOST_LINK_LATE, or after it left L0. (R49) -/
  | hostLinkInL0
  deriving DecidableEq, Repr

end Sys2Proof
end

