-- ==== Sys2Proof/Decode.lean ====
section
/-!
DEFINITION. Sys2Proof/Decode.lean: the command a word spells by the bits of the table. No row of the table gives bits,
so no word spells a command.
-/
namespace Sys2Proof

/-- The command that a word spells by the table's bits: the table gives its rows no bits. -/
def decodeTableWord (_nbits _w : Nat) : Option Instr := none

end Sys2Proof
end

