-- ==== Sys2Proof/Machine/Flags.lean ====
section
/-!
DEFINITION. Sys2Proof/Machine/Flags.lean: number formats, rounding, and every flag computation: element formats (R176,
R177), output conversion (R185 to R187), FP32 arithmetic (R204) and the arithmetic flags (R196, Table 07-7).
-/
namespace Sys2Proof

/-! ## The flags (Tables 07-7, 07-8) -/

/-- INVALID -/
def Fl.invalid : Nat := 1
/-- OVERFLOW -/
def Fl.overflow : Nat := 2
/-- INEXACT_WINDOW -/
def Fl.inexactWindow : Nat := 4

/-- Flags raised together. -/
def flagsOr (a b : Nat) : Nat := Nat.lor (a % 8) (b % 8)

/-- A flag raised on a condition. -/
def flagIf (c : Bool) (f : Nat) : Nat := if c then f else 0

/-! ## Values -/

/-- A value of a format: (−1)^neg × m × 2^e exactly, an infinity, or a NaN (R176, R177). -/
inductive FVal where
  | nan
  | inf (neg : Bool)
  | fin (neg : Bool) (m : Nat) (e : Int)
  deriving DecidableEq, Repr

/-- Zero of a sign. -/
def fZero (neg : Bool) : FVal := .fin neg 0 0

/-- What a format does with its largest exponent (Table 07-1). -/
inductive FmtKind where
  /-- Infinities and NaNs as IEEE 754. -/
  | ieee
  /-- E4M3: only the all-ones code is NaN. -/
  | e4m3
  /-- No infinity and no NaN. -/
  | plain
  deriving DecidableEq, Repr

/-- A floating-point format (Table 07-1). -/
structure FFmt where
  /-- Exponent bits -/
  eb : Nat
  /-- Mantissa bits -/
  mb : Nat
  /-- Bias -/
  bias : Nat
  /-- Special values -/
  kind : FmtKind
  deriving DecidableEq, Repr

/-- FP32 -/
def fmtFp32 : FFmt := { eb := 8, mb := 23, bias := 127, kind := .ieee }
/-- BF16 -/
def fmtBf16 : FFmt := { eb := 8, mb := 7, bias := 127, kind := .ieee }
/-- FP16 -/
def fmtFp16 : FFmt := { eb := 5, mb := 10, bias := 15, kind := .ieee }
/-- FP8 E5M2 -/
def fmtE5m2 : FFmt := { eb := 5, mb := 2, bias := 15, kind := .ieee }
/-- FP8 E4M3 -/
def fmtE4m3 : FFmt := { eb := 4, mb := 3, bias := 7, kind := .e4m3 }
/-- FP6 E3M2 -/
def fmtE3m2 : FFmt := { eb := 3, mb := 2, bias := 3, kind := .plain }
/-- FP6 E2M3 -/
def fmtE2m3 : FFmt := { eb := 2, mb := 3, bias := 1, kind := .plain }
/-- FP4 E2M1 -/
def fmtE2m1 : FFmt := { eb := 2, mb := 1, bias := 1, kind := .plain }

/-- Exponent of a format's smallest normal. -/
def fEmin (f : FFmt) : Int := 1 - (f.bias : Int)

/-- Position of the sign bit. -/
def fSign (f : FFmt) : Nat := f.eb + f.mb

/-- Code of +∞ in a format that has it. -/
def fInfCode (f : FFmt) : Nat := (2 ^ f.eb - 1) * 2 ^ f.mb

/-- Code of the largest finite magnitude (Table 07-1). -/
def fMaxCode (f : FFmt) : Nat :=
  match f.kind with
  | .ieee => fInfCode f - 1
  | .e4m3 => 2 ^ (f.eb + f.mb) - 2
  | .plain => 2 ^ (f.eb + f.mb) - 1

/-- The canonical NaN (R177); the formats without one have no such code, and 0 stands for it (R189). -/
def fNanCode (f : FFmt) : Nat :=
  match f.kind with
  | .ieee =>
    if f.mb = 2 then 0x7E else fInfCode f + 2 ^ (f.mb - 1)
  | .e4m3 => 0x7F
  | .plain => 0

/-- The value a code stands for (R176). -/
def fDecode (f : FFmt) (code : Nat) : FVal :=
  let neg := bitOf code (fSign f)
  let ex := bitsOf code f.mb f.eb
  let man := code % 2 ^ f.mb
  let fin := if ex = 0 then FVal.fin neg man (fEmin f - f.mb)
    else FVal.fin neg (2 ^ f.mb + man) (fEmin f - f.mb + (ex : Int) - 1)
  match f.kind with
  | .ieee => if ex = 2 ^ f.eb - 1 then (if man = 0 then .inf neg else .nan) else fin
  | .e4m3 => if code % 2 ^ (f.eb + f.mb) = 2 ^ (f.eb + f.mb) - 1 then .nan else fin
  | .plain => fin

/-! ## Rounding -/

/-- m × 2^k rounded toward zero. -/
def shiftTo (m : Nat) (k : Int) : Nat := if 0 ≤ k then m * 2 ^ k.toNat else m / 2 ^ (-k).toNat

/-- Did `shiftTo` drop anything? -/
def shiftLost (m : Nat) (k : Int) : Bool := if 0 ≤ k then false else decide (m % 2 ^ (-k).toNat ≠ 0)

/-- Exponent of the spacing of a format at a magnitude m × 2^e, as if its exponent range had no upper end (R186, R187). -/
def fSpacing (f : FFmt) (m : Nat) (e : Int) : Int := max ((Nat.log2 m : Int) + e) (fEmin f) - f.mb

/-- Round to nearest even: the multiple of the spacing nearest to a magnitude. -/
def rneUnits (m : Nat) (k : Int) : Nat :=
  let t := shiftTo m k
  if 0 ≤ k then t
  else
    let n := (-k).toNat
    let r := m % 2 ^ n
    if 2 * r > 2 ^ n ∨ (2 * r = 2 ^ n ∧ t % 2 = 1) then t + 1 else t

/-- Stochastic rounding with a 16-bit draw (R187). -/
def stochUnits (m : Nat) (k : Int) (r : Nat) : Nat :=
  let t := shiftTo m k
  let d16 := shiftTo m (k + 16) - t * 2 ^ 16
  if r < d16 then t + 1 else t

/-- The code of a magnitude of `t` units of spacing 2^u: beyond the largest finite code where it overflows. -/
def codeOfUnits (f : FFmt) (t : Nat) (u : Int) : Nat := t + (u + f.mb - fEmin f).toNat * 2 ^ f.mb

/-- A magnitude rounded to a format's code; a draw makes the rounding stochastic. -/
def roundMag (f : FFmt) (m : Nat) (e : Int) (draw : Option Nat) : Nat :=
  if m = 0 then 0
  else
    let u := fSpacing f m e
    let t := match draw with
      | none => rneUnits m (e - u)
      | some r => stochUnits m (e - u) r
    codeOfUnits f t u

/-- How a conversion treats what goes beyond the largest finite value (Table 07-4). -/
inductive OvfMode where
  /-- ±∞, as BF16, FP16 and FP32 do; a NaN in E4M3. -/
  | toInf
  /-- ±max. -/
  | saturate
  /-- ±max without OVERFLOW, as MX elements do (R186, R188). -/
  | quiet
  deriving DecidableEq, Repr

/-- The sign bit of a code. -/
def signBit (f : FFmt) (neg : Bool) : Nat := bitAt neg (fSign f)

/-- What an overflow writes (Table 07-4). -/
def ovfCode (f : FFmt) (o : OvfMode) (neg : Bool) : Nat :=
  match o, f.kind with
  | .toInf, .ieee => fInfCode f + signBit f neg
  | .toInf, .e4m3 => 0x7F
  | _, _ => fMaxCode f + signBit f neg

/-- Convert a value to a format: its code and the flags (R186, R187, Table 07-4). Where ±∞ or a NaN meets a format
without one, the code is that of the largest value or 0; a block of such elements is NaN as a whole (R188). -/
def fEncode (f : FFmt) (o : OvfMode) (draw : Option Nat) (v : FVal) : Nat × Nat :=
  match v with
  | .nan => (fNanCode f, 0)
  | .inf neg =>
    match f.kind with
    | .ieee => (fInfCode f + signBit f neg, 0)
    | .e4m3 => (0x7F, 0)
    | .plain => (fMaxCode f + signBit f neg, 0)
  | .fin neg m e =>
    let c := roundMag f m e draw
    if fMaxCode f < c then (ovfCode f o neg, flagIf (decide (o ≠ .quiet)) Fl.overflow) else (c + signBit f neg, 0)

/-- Round a value to FP32, to nearest even (R183, R204). -/
def toFp32 (v : FVal) : Nat × Nat := fEncode fmtFp32 .toInf none v

/-- The value of FP32 bits. -/
def ofFp32 (c : Nat) : FVal := fDecode fmtFp32 c

/-! ## Exact arithmetic -/

/-- A signed exact number m × 2^e. -/
def sgn (neg : Bool) (m : Nat) : Int := if neg then -(m : Int) else (m : Int)

/-- The exact sum of two finite values; a sum of zero takes +0 unless both operands are −0 (round to nearest even). -/
def fAddFin (n1 : Bool) (m1 : Nat) (e1 : Int) (n2 : Bool) (m2 : Nat) (e2 : Int) : FVal :=
  let e := min e1 e2
  let x := sgn n1 (m1 * 2 ^ (e1 - e).toNat) + sgn n2 (m2 * 2 ^ (e2 - e).toNat)
  if x = 0 then .fin (n1 && n2) 0 e else .fin (decide (x < 0)) x.natAbs e

/-- The exact sum, with INVALID for ∞ − ∞ (R184). -/
def fAddX (a b : FVal) : FVal × Nat :=
  match a, b with
  | .nan, _ => (.nan, 0)
  | _, .nan => (.nan, 0)
  | .inf n1, .inf n2 => if n1 = n2 then (.inf n1, 0) else (.nan, Fl.invalid)
  | .inf n, _ => (.inf n, 0)
  | _, .inf n => (.inf n, 0)
  | .fin n1 m1 e1, .fin n2 m2 e2 => (fAddFin n1 m1 e1 n2 m2 e2, 0)

/-- The exact product, with INVALID for 0 × ∞. -/
def fMulX (a b : FVal) : FVal × Nat :=
  match a, b with
  | .nan, _ => (.nan, 0)
  | _, .nan => (.nan, 0)
  | .inf n1, .inf n2 => (.inf (n1 != n2), 0)
  | .inf n1, .fin n2 m _ => if m = 0 then (.nan, Fl.invalid) else (.inf (n1 != n2), 0)
  | .fin n1 m _, .inf n2 => if m = 0 then (.nan, Fl.invalid) else (.inf (n1 != n2), 0)
  | .fin n1 m1 e1, .fin n2 m2 e2 => (.fin (n1 != n2) (m1 * m2) (e1 + e2), 0)

/-- Round a result to FP32 and join its flags to those of its computation. -/
def fRound (p : FVal × Nat) : Nat × Nat := ((toFp32 p.1).1, flagsOr p.2 (toFp32 p.1).2)

/-- FP32 addition (R184, R204). -/
def fp32Add (a b : Nat) : Nat × Nat := fRound (fAddX (ofFp32 a) (ofFp32 b))

/-- FP32 code with its sign turned. -/
def fp32Neg (a : Nat) : Nat := if bitOf a 31 then a - 2 ^ 31 else a + 2 ^ 31

/-- FP32 subtraction. -/
def fp32Sub (a b : Nat) : Nat × Nat :=
  match ofFp32 b with
  | .fin n m e => fRound (fAddX (ofFp32 a) (.fin (!n) m e))
  | .inf n => fRound (fAddX (ofFp32 a) (.inf (!n)))
  | .nan => fRound (.nan, 0)

/-- FP32 multiplication. -/
def fp32Mul (a b : Nat) : Nat × Nat := fRound (fMulX (ofFp32 a) (ofFp32 b))

/-- FP32 fused multiply-add, rounded once. -/
def fp32Fma (a b c : Nat) : Nat × Nat :=
  let p := fMulX (ofFp32 a) (ofFp32 b)
  let q := fAddX p.1 (ofFp32 c)
  fRound (q.1, flagsOr p.2 q.2)

/-- A quotient good enough to round once: 64 bits more than needed and a sticky bit. -/
def fDivFin (n1 : Bool) (m1 : Nat) (e1 : Int) (n2 : Bool) (m2 : Nat) (e2 : Int) : FVal :=
  let k := 64 + Nat.log2 m2
  let q := m1 * 2 ^ k / m2
  let r := m1 * 2 ^ k % m2
  .fin (n1 != n2) (2 * q + (if r = 0 then 0 else 1)) (e1 - e2 - k - 1)

/-- FP32 division (R204): 0 / 0 and ∞ / ∞ are invalid; a finite non-zero value over 0 gives ±∞. -/
def fp32Div (a b : Nat) : Nat × Nat :=
  match ofFp32 a, ofFp32 b with
  | .nan, _ => fRound (.nan, 0)
  | _, .nan => fRound (.nan, 0)
  | .inf _, .inf _ => fRound (.nan, Fl.invalid)
  | .inf n1, .fin n2 _ _ => fRound (.inf (n1 != n2), 0)
  | .fin n1 _ _, .inf n2 => fRound (fZero (n1 != n2), 0)
  | .fin n1 m1 e1, .fin n2 m2 e2 =>
    if m2 = 0 then (if m1 = 0 then fRound (.nan, Fl.invalid) else fRound (.inf (n1 != n2), 0))
    else if m1 = 0 then fRound (fZero (n1 != n2), 0)
    else fRound (fDivFin n1 m1 e1 n2 m2 e2, 0)

/-- Integer square root, bit by bit from bit `k` down. -/
def isqrtFrom : Nat → Nat → Nat → Nat
  | 0, _, r => r
  | k + 1, n, r => if (r + 2 ^ k) * (r + 2 ^ k) ≤ n then isqrtFrom k n (r + 2 ^ k) else isqrtFrom k n r

/-- FP32 square root (R204). -/
def fp32Sqrt (a : Nat) : Nat × Nat :=
  match ofFp32 a with
  | .nan => fRound (.nan, 0)
  | .inf n => if n then fRound (.nan, Fl.invalid) else fRound (.inf false, 0)
  | .fin n m e =>
    if m = 0 then fRound (fZero n, 0)
    else if n then fRound (.nan, Fl.invalid)
    else
      let m' := if e % 2 = 0 then m else 2 * m
      let e' := if e % 2 = 0 then e else e - 1
      let x := m' * 2 ^ 80
      let r := isqrtFrom 64 x 0
      fRound (.fin false (2 * r + (if r * r = x then 0 else 1)) (e' / 2 - 41), 0)

/-- The order of two values, −0 below +0 (R206). -/
def fLess (a b : FVal) : Bool :=
  match a, b with
  | .inf n1, .inf n2 => n1 && !n2
  | .inf n, _ => n
  | _, .inf n => !n
  | .fin n1 m1 e1, .fin n2 m2 e2 =>
    let e := min e1 e2
    let x := sgn n1 (m1 * 2 ^ (e1 - e).toNat)
    let y := sgn n2 (m2 * 2 ^ (e2 - e).toNat)
    decide (x < y) || (decide (x = y) && decide (x = 0) && n1 && !n2)
  | _, _ => false

/-- Is a value a NaN? -/
def fIsNan (v : FVal) : Bool :=
  match v with
  | .nan => true
  | _ => false

/-- FP32 maximum: a NaN where an operand is one (R206). -/
def fp32Max (a b : Nat) : Nat :=
  if fIsNan (ofFp32 a) || fIsNan (ofFp32 b) then fNanCode fmtFp32
  else if fLess (ofFp32 a) (ofFp32 b) then b else a

/-- FP32 minimum. -/
def fp32Min (a b : Nat) : Nat :=
  if fIsNan (ofFp32 a) || fIsNan (ofFp32 b) then fNanCode fmtFp32
  else if fLess (ofFp32 b) (ofFp32 a) then b else a

/-- Are two values equal, as a comparison sees them: −0 equals +0, a NaN equals nothing? -/
def fEq (a b : FVal) : Bool :=
  match a, b with
  | .inf n1, .inf n2 => n1 = n2
  | .fin n1 m1 e1, .fin n2 m2 e2 =>
    let e := min e1 e2
    decide (sgn n1 (m1 * 2 ^ (e1 - e).toNat) = sgn n2 (m2 * 2 ^ (e2 - e).toNat))
  | _, _ => false

/-- Is one value less than another, as a comparison sees them: −0 is not less than +0? -/
def fLt (a b : FVal) : Bool := fLess a b && !fEq a b

/-- ⌊log₂⌋ of a finite non-zero value. -/
def fLog2 (v : FVal) : Option Int :=
  match v with
  | .fin _ m e => if m = 0 then none else some ((Nat.log2 m : Int) + e)
  | _ => none

/-- A value times a power of two. -/
def fScale (v : FVal) (k : Int) : FVal :=
  match v with
  | .fin n m e => .fin n m (e + k)
  | x => x

end Sys2Proof
end

