-- ==== Sys2Proof/Machine/Formats.lean ====
section
/-!
DEFINITION. Sys2Proof/Machine/Formats.lean: the format codes (Table 06-4), packed elements (R179), MX blocks (R178, R188,
R189), the exact block sum of a cell (R180 to R184) and output conversion.
-/
namespace Sys2Proof

/-! ## Format codes (Table 06-4) -/

/-- Is a code an MX input format? -/
def isMx (c : Nat) : Bool := decide (2 ≤ c) && decide (c ≤ 7)

/-- The floating-point format behind a code; MXINT8 (0x07) has none. -/
def fmtOfCode (c : Nat) : FFmt :=
  if c = 0 ∨ c = 2 then fmtE4m3
  else if c = 1 ∨ c = 3 then fmtE5m2
  else if c = 4 then fmtE3m2
  else if c = 5 then fmtE2m3
  else if c = 6 then fmtE2m1
  else if c = 8 then fmtBf16
  else if c = 9 then fmtFp16
  else fmtFp32

/-- Bits of an element of a format code in memory (R179). -/
def fmtBits (c : Nat) : Nat :=
  if c = 4 ∨ c = 5 then 6 else if c = 6 then 4 else if c = 8 ∨ c = 9 then 16 else if c = 10 then 32 else 8

/-- The value of an element code (R176, R178): an MXINT8 element is a two's-complement number of 2⁻⁶. -/
def elemVal (c code : Nat) : FVal :=
  if c = 7 then .fin (bitOf code 7) (signedOf code 8).natAbs (-6) else fDecode (fmtOfCode c) code

/-- Is a value of a format code usable as an input? -/
def fmtInput (c : Nat) : Bool := decide (c ≤ 9)

/-- Is a format code an output format? -/
def fmtOutput (c : Nat) : Bool := decide (c ≤ 3) || decide (c = 8) || decide (c = 9) || decide (c = 10)

/-- Is a pairing listed in Table 06-3? -/
def pairLegal (a b : Nat) : Bool :=
  (decide (2 ≤ a) && decide (a ≤ 6) && decide (2 ≤ b) && decide (b ≤ 6)) || (decide (a ≤ 1) && decide (b ≤ 1))
    || (decide (a = 7) && decide (b = 7)) || (decide (a = 8) && decide (b = 8)) || (decide (a = 9) && decide (b = 9))

/-- K-steps of a bank for a format (Table 06-6). -/
def bankDepth (c : Nat) : Nat := if c = 6 then 8192 else if c = 8 ∨ c = 9 then 2048 else 4096

/-- Bytes of a stored row of `n` elements (R179). -/
def rowBytes (c n : Nat) : Nat :=
  if c = 4 ∨ c = 5 then 3 * ((n + 3) / 4) else if c = 6 then (n + 1) / 2 else n * (fmtBits c / 8)

/-- Where element `i` of a stored row starts, in bits from the row's first byte (R179). -/
def elemBit (c i : Nat) : Nat := if c = 4 ∨ c = 5 then 24 * (i / 4) + 6 * (i % 4) else i * fmtBits c

/-! ## The block sum of a cell (R180 to R183) -/

/-- Scale of a scale code; 0xFF makes the block NaN (R178). -/
def scaleExp (v : Nat) : Int := (v : Int) - 127

/-- One product: its markers (R182) and its finite part as sign, magnitude and exponent. -/
structure CellProd where
  /-- NAN, POS_INF, NEG_INF in bits 0 to 2. -/
  marks : Nat
  /-- INVALID from 0 × ∞. -/
  flags : Nat
  /-- Sign. -/
  neg : Bool
  /-- Magnitude. -/
  m : Nat
  /-- Exponent. -/
  e : Int
  deriving DecidableEq, Repr

/-- Form a product (R180, R182). -/
def cellProd (a b : FVal) : CellProd :=
  match fMulX a b with
  | (.nan, f) => { marks := 1, flags := f, neg := false, m := 0, e := 0 }
  | (.inf n, f) => { marks := if n then 4 else 2, flags := f, neg := n, m := 0, e := 0 }
  | (.fin n m e, f) => { marks := 0, flags := f, neg := n, m := m, e := e }

/-- Largest ⌊log₂|x|⌋ of a row's finite non-zero elements (R181); none where there is none. -/
def rowAnchor (l : List FVal) : Option Int :=
  l.foldl (fun m v =>
    match m, fLog2 v with
    | some x, some y => some (max x y)
    | none, y => y
    | x, none => x) none

/-- The LSB exponent of the block accumulator: the product of the two LSB weights (Table 07-2), or the window LSB. -/
def lsbExp (c : Nat) : Int := if c = 7 then -6 else fEmin (fmtOfCode c) - (fmtOfCode c).mb

/-- Does a format take the window path (R181)? -/
def isWindow (c : Nat) : Bool := decide (c = 8) || decide (c = 9)

/-- Sum products in units of 2^lsb, each truncated toward zero on its own; were bits dropped? -/
def sumProds (lsb : Int) (ps : List CellProd) : Int × Bool :=
  ps.foldl (fun s p => (s.1 + sgn p.neg (shiftTo p.m (p.e - lsb)), s.2 || shiftLost p.m (p.e - lsb))) (0, false)

/-- The block result of a cell as FP32 bits, with its flags (R180 to R183, Table 07-3). -/
def blockResult (ca cb : Nat) (as bs : List Nat) (sa sb : Nat) : Nat × Nat :=
  let av := as.map (elemVal ca)
  let bv := bs.map (elemVal cb)
  let ps := List.zipWith cellProd av bv
  let nanScale := (isMx ca && decide (sa = 0xFF)) || (isMx cb && decide (sb = 0xFF))
  let marks := ps.foldl (fun m p => Nat.lor m p.marks) (if nanScale then 1 else 0)
  let inv := ps.foldl (fun f p => flagsOr f p.flags) 0
  let lsb : Int :=
    if isWindow ca then
      match rowAnchor av, rowAnchor bv with
      | some x, some y => x + y - 64
      | _, _ => 0
    else lsbExp ca + lsbExp cb
  let sum := sumProds lsb ps
  let win := flagIf (isWindow ca && sum.2) Fl.inexactWindow
  let sc : Int := (if isMx ca then scaleExp sa else 0) + (if isMx cb then scaleExp sb else 0)
  if bitOf marks 0 then (fNanCode fmtFp32, flagsOr inv win)
  else if bitOf marks 1 && bitOf marks 2 then (fNanCode fmtFp32, flagsOr Fl.invalid win)
  else if bitOf marks 1 then (fInfCode fmtFp32, win)
  else if bitOf marks 2 then (fInfCode fmtFp32 + 2 ^ 31, win)
  else
    let r := if sum.1 = 0 then (0, 0) else toFp32 (.fin (decide (sum.1 < 0)) sum.1.natAbs (lsb + sc))
    (r.1, flagsOr r.2 win)

/-- Add a block result to a cell's accumulator (R184). -/
def accAdd (acc : Nat) (r : Nat × Nat) : Nat × Nat :=
  let a := fp32Add acc r.1
  (a.1, flagsOr r.2 a.2)

/-! ## Output conversion (R185 to R189) -/

/-- Overflow treatment of a format code as an output (Table 07-4). -/
def outMode (c : Nat) (ovfInf : Bool) : OvfMode := if c ≤ 1 ∧ ovfInf = false then .saturate else .toInf

/-- Convert an FP32 accumulator to an output format that has no scale (R185, R186, R187). -/
def outElem (c : Nat) (ovfInf : Bool) (draw : Option Nat) (acc : Nat) : Nat × Nat :=
  if c = 10 then (if fIsNan (ofFp32 acc) then fNanCode fmtFp32 else acc, 0)
  else fEncode (fmtOfCode c) (outMode c ovfInf) draw (ofFp32 acc)

/-- emax of an MX element format (R188, R189). -/
def mxEmax (c : Nat) : Int :=
  if c = 2 then 8 else if c = 3 then 15 else if c = 4 then 4 else if c = 5 then 2 else if c = 6 then 2 else 0

/-- Convert a scaled value to an MX element, with saturation (R188, R189); MXINT8 elements are clamped to ±127. -/
def mxElem (c : Nat) (draw : Option Nat) (v : FVal) : Nat :=
  if c = 7 then
    match v with
    | .fin n m e =>
      let t := match draw with
        | none => rneUnits m (e + 6)
        | some r => stochUnits m (e + 6) r
      twos (sgn n (min t 127)) 8
    | _ => 0
  else (fEncode (fmtOfCode c) .quiet draw v).1

/-- The 32-element block rule: scale code and element codes (R188, R189). -/
def mxBlock (c : Nat) (draws : List (Option Nat)) (vs : List FVal) : Nat × List Nat :=
  if vs.any fun v => match v with
      | .fin _ _ _ => false
      | _ => true
  then (0xFF, vs.map fun _ => if c ≤ 3 then fNanCode (fmtOfCode c) else 0)
  else
    match rowAnchor vs with
    | none => (0, vs.map fun _ => 0)
    | some l =>
      let s := max (-127) (min 127 (l - mxEmax c))
      ((s + 127).toNat, List.zipWith (fun d v => mxElem c d (fScale v (-s))) draws vs)

/-! ## Stepped draws (R193, Table 07-6) -/

/-- K_launch from the context's SEED, the step, USER_TAG and bytes 0 to 7 of the graph's digest (R193). -/
def launchKey (seed : BitVec 256) (step tag digest64 : Nat) : BitVec 64 :=
  let part := fun (i : Nat) => BitVec.ofNat 64 (bitsOf seed.toNat (64 * i) 64)
  let k := mix64 (part 3 ^^^ BitVec.ofNat 64 step)
  let k := mix64 (part 2 ^^^ k)
  let k := mix64 (part 1 ^^^ k)
  let ks := mix64 (part 0 ^^^ k)
  mix64 (ks ^^^ mix64 (BitVec.ofNat 64 tag ^^^ BitVec.ofNat 64 digest64))

/-- CTR of a matrix drain's output element (b, i, j) of operation `o` of task `x`. -/
def drainCtr (x o b m n i j : Nat) : BitVec 64 :=
  BitVec.ofNat 64 (fieldAt x 44 20 + fieldAt o 32 12 + ((b * m + i) * n + j) % 2 ^ 32)

/-- CTR of draw `k` of vector lane `l` of task `x`. -/
def laneCtr (x l k : Nat) : BitVec 64 :=
  BitVec.ofNat 64 (fieldAt x 44 20 + fieldAt l 39 5 + k % 2 ^ 39)

end Sys2Proof
end

