-- ==== Sys2Proof/Config.lean ====
section
/-!
DEFINITION. Sys2Proof/Config.lean: what an implementation fixes, and the values the manual leaves open. A free value
is a constant with no body: no proof can see what it is.
-/
namespace Sys2Proof.Config

/-- The n-th free value the block takes (a DRBG draw, an open byte, a tamper code). -/
opaque freeValue : Nat → Nat

/-- SHA-384 of a byte string (R122, R344, R438). -/
opaque sha384 : List Byte → BitVec 384

/-- HMAC-SHA-384 under a key (R433). -/
opaque hmac384 : List Byte → List Byte → BitVec 384

/-- AES-256-GCM decryption: key, nonce, additional data and ciphertext give the plaintext (R395). -/
opaque gcmOpen : BitVec 256 → List Byte → List Byte → List Byte → List Byte

/-- AES-256-GCM encryption: key, nonce, additional data and plaintext give ciphertext and tag. -/
opaque gcmSeal : BitVec 256 → List Byte → List Byte → List Byte → List Byte

/-- An ECDSA P-384 signature of a message by a device key: which key (0 device ID, 1 alias, 2 session attestation), the secret
it comes from, and the message (R429, R450). -/
opaque sign : Nat → Nat → List Byte → List Byte

/-- The public half of a P-384 key drawn by the device, its 97 bytes, by the private half (R439). -/
opaque ecPublic : Nat → List Byte

/-- The x-coordinate, 48 bytes, of ECDH on P-384: a private half and a public key (R440, R442). -/
opaque ecdh : Nat → List Byte → List Byte

/-- The AES key unwrap with padding (RFC 5649) under a key: the key held, where it unwraps to exactly 32 bytes (R442). -/
opaque keyUnwrap : List Byte → List Byte → Option (BitVec 256)

/-- Does a certificate chain verify to the vendor root digest in OTP (R440)? -/
opaque chainOk : List Byte → Bool

/-- The public key that a certificate chain ends in (R428, R440). -/
opaque chainKey : List Byte → List Byte

/-- Does an ECDSA P-384 signature of a message verify under a public key (R417, R441)? -/
opaque verify : List Byte → List Byte → List Byte → Bool

/-- A certificate chain of the device: its slot (R427). -/
opaque certChain : Nat → List Byte

/-- The serial number (Table 21-4). -/
opaque serial : DWord

/-- The Walonsis MIPI manufacturer ID, 15 bits (R521). -/
opaque mipiId : BitVec 15

/-- The token digests programmed at manufacture, by slot (R460). -/
opaque tokenDigest : Nat → BitVec 384

/-- The root secrets the DRBG draws, the one of manufacture first (R425). -/
opaque rootSecret : Nat → Nat

/-- The feature words of a KLS-T400-CX (true) and a KLS-T400-SX (R3): their values are not given. -/
opaque featureWord : Bool → Nat

/-- The factory guardbands: the core-rail voltage of a partition, in mV (R49). -/
opaque factoryVolts : Nat → Nat

/-- The factory guardbands: the planned matrix and vector clock of a cluster, in MHz (R49). -/
opaque factoryClocks : Nat → Nat × Nat

/-- The public half of a device key, its 97 bytes: 0 the device ID key, 1 the alias key, by root secret (R425). -/
opaque publicKey : Nat → Nat → List Byte

/-- The boot ROM's SHA-384 digest (R425). -/
opaque bootRomDigest : BitVec 384

/-- The special functions of R205 over finite FP32 inputs: 0 EXP2, 1 LOG2, 2 RCP, 3 RSQRT, 4 TANH, from FP32 bits to FP32
bits. The manual fixes their accuracy and that each is a function of its input bits alone. -/
opaque specialFn : Nat → Nat → Nat

end Sys2Proof.Config
end

