-- ==== Sys2Proof/Machine/TypesEngine.lean ====
section
/-!
DEFINITION. Sys2Proof/Machine/TypesEngine.lean: the state of the matrix engines (chapter 06) and of the vector and
service cores (chapter 08).
-/
namespace Sys2Proof

/-! ## Chapter 06 -/

/-- A matrix operation record (Table 06-5). -/
structure MatOp where
  /-- OP -/
  op : Nat
  /-- FMT_A -/
  fmtA : Nat
  /-- FMT_B -/
  fmtB : Nat
  /-- FMT_OUT -/
  fmtOut : Nat
  /-- SPLIT -/
  split : Nat
  /-- A_T -/
  aT : Bool
  /-- B_T -/
  bT : Bool
  /-- ROUND: stochastic -/
  round : Bool
  /-- OVF_INF -/
  ovfInf : Bool
  /-- WAIT_DRAIN -/
  waitDrain : Bool
  /-- BATCH -/
  batch : Nat
  /-- M -/
  m : Nat
  /-- N -/
  n : Nat
  /-- K -/
  k : Nat
  /-- LDA -/
  lda : Nat
  /-- LDB -/
  ldb : Nat
  /-- LDC -/
  ldc : Nat
  /-- A_ADDR -/
  aAddr : Nat
  /-- B_ADDR -/
  bAddr : Nat
  /-- C_ADDR -/
  cAddr : Nat
  /-- SA_ADDR -/
  saAddr : Nat
  /-- SB_ADDR -/
  sbAddr : Nat
  /-- SC_ADDR -/
  scAddr : Nat
  deriving DecidableEq, Repr

/-- An operand chunk in a bank (R152, R153): element codes by row of A or column of B, then by K-step, with the scale
codes of each accumulation block. -/
structure Panel where
  /-- Item of the operation. -/
  item : Nat
  /-- First row of A, or first column of B. -/
  pos : Nat
  /-- First K-step. -/
  from_ : Nat
  /-- Element codes. -/
  elems : List (List Nat)
  /-- Scale codes, 127 where the format has none. -/
  scales : List (List Nat)
  deriving DecidableEq, Repr

/-- A block on a sub-array (R155, R156). -/
structure BlockRun where
  /-- Item -/
  item : Nat
  /-- First row of C in the item -/
  row : Nat
  /-- First column of C in the item -/
  col : Nat
  /-- Rows inside the operation's shape -/
  rows : Nat
  /-- Columns inside the operation's shape -/
  cols : Nat
  /-- FP32 bank: false X, true Y -/
  bank : Bool
  /-- K-steps loaded so far -/
  loaded : Nat
  /-- Chunks loaded and not yet computed: A and B -/
  chunks : List (Panel × Panel)
  /-- FP32 accumulators, row by row -/
  acc : List Nat
  deriving DecidableEq, Repr

/-- A sub-array (R153, R155). -/
structure SubArray where
  /-- The block it computes. -/
  run : Option BlockRun
  /-- The A chunk kept, where K fits one bank. -/
  keepA : Option Panel
  /-- The B chunk kept. -/
  keepB : Option Panel
  /-- The bank the next block uses. -/
  next : Bool
  deriving DecidableEq, Repr

/-- A complete bank waiting for the drain, or draining (R156). -/
structure Drain where
  /-- Sub-array -/
  sub : Nat
  /-- The block, its accumulators final -/
  block : BlockRun
  /-- The operation -/
  op : MatOp
  /-- Its record index in the program -/
  idx : Nat
  deriving DecidableEq, Repr

/-- A MATRIX task in a slot of an engine (R147, R151, R154). -/
structure MatTask where
  /-- Launch -/
  launch : Nat
  /-- Task -/
  task : Nat
  /-- Index of the next record -/
  pc : Nat
  /-- The operation under way -/
  op : Option MatOp
  /-- Blocks of the operation handed to sub-arrays so far -/
  nextBlock : Nat
  /-- Sub-arrays in service, by number -/
  subs : Tbl SubArray
  /-- Banks in the order in which they completed -/
  drains : List Drain
  /-- END has been reached -/
  atEnd : Bool
  /-- Arithmetic flags raised (R196) -/
  flags : Nat
  deriving DecidableEq, Repr

/-- Where an engine stands (Table 06-14); STALL, HOLD, RESETTING and OFFLINE follow from the rest of the state. -/
inductive EngPhase where
  | idle | rampUp | run | gap | rampDown
  deriving DecidableEq, Repr

/-- A matrix engine (chapter 06). -/
structure Engine where
  /-- Table 06-14 -/
  phase : EngPhase
  /-- ONLINE_GROUPS -/
  groups : Nat
  /-- R169: a ramp-up (true) or ramp-down (false) is requested and not yet granted. -/
  want : Option Bool
  /-- The running slot -/
  run : Option MatTask
  /-- The staged slot -/
  staged : Option MatTask
  /-- TILE_MASK -/
  mask : Nat
  /-- UNCORRECTED -/
  uncorrected : Nat
  /-- CORRECTED -/
  corrected : Nat
  /-- MXE_ENG_FLAGS -/
  flags : Nat
  /-- VALID_WF -/
  validWf : Nat
  /-- DUMMY_WF -/
  dummyWf : Nat
  /-- STALL_CYCLES -/
  stall : Nat
  deriving DecidableEq, Repr

/-- The MXE block (R175). -/
structure MxeState where
  /-- RAMP_STARTS -/
  rampStarts : Nat
  /-- R9: RAMP_STARTS pending. -/
  pend : Option Nat
  /-- Engines by cluster, where they differ from reset. -/
  engines : Tbl Engine
  deriving DecidableEq, Repr

/-! ## Chapter 08: vector cores -/

/-- A load that has missed and waits for its lines (R203). -/
structure PendLoad where
  /-- The destination is a vector register. -/
  vec : Bool
  /-- Destination register -/
  reg : Nat
  /-- Elements: lane, object slot, offset -/
  elems : List (Nat × Nat × Nat)
  /-- Element size in bytes -/
  size : Nat
  /-- How an element becomes a register value: 0 zero-extended, 1 sign-extended, 2 + f converted from format f -/
  conv : Nat
  deriving DecidableEq, Repr

/-- A hardware thread that holds a VECTOR task (Table 08-2). -/
structure Thread where
  /-- Launch -/
  launch : Nat
  /-- Task -/
  task : Nat
  /-- Vector registers, by register × 32 + lane; an unlisted lane holds 0. -/
  v : Tbl Nat
  /-- Mask registers m1 to m7; an unlisted one holds 0. -/
  m : Tbl Nat
  /-- Scalar registers x1 to x31; an unlisted one holds 0. -/
  x : Tbl Nat
  /-- Program counter, a byte offset in the code section. -/
  pc : Nat
  /-- Task flags. -/
  flags : Nat
  /-- Lane draw counters; an unlisted lane has drawn nothing. -/
  draws : Tbl Nat
  /-- Loads outstanding. -/
  pend : List PendLoad
  /-- An MFENCE waits. -/
  fence : Bool
  deriving DecidableEq, Repr

/-- A line of a vector core's data cache (R211, R214). -/
structure DLine where
  /-- Memory-object slot -/
  slot : Nat
  /-- Offset of the line in the object, in lines of 128 B -/
  line : Nat
  /-- Set of the cache -/
  set : Nat
  /-- Instance it is tagged with -/
  inst : Nat
  /-- The whole line has been fetched. -/
  filled : Bool
  /-- Bytes held, by offset in the line -/
  data : Tbl Byte
  /-- Dirty bytes, by offset in the line, with the launch and task that stored them -/
  dirty : Tbl (Nat × Nat)
  /-- R214: the launch and task of a provisional store that marked the line. -/
  mark : Option (Nat × Nat)
  deriving DecidableEq, Repr

/-- A vector core. -/
structure VCore where
  /-- Threads 0 to 7 that hold a task -/
  threads : Tbl Thread
  /-- Data cache, most recently used first -/
  lines : List DLine
  deriving DecidableEq, Repr

/-- A cluster's part of the VCU block (Tables 08-12 to 08-15). -/
structure VcuClu where
  /-- CORE_MASK, 160 bits -/
  mask : Nat
  /-- UNCORRECTED -/
  uncorrected : Nat
  /-- CORRECTED -/
  corrected : Nat
  /-- ALU_ISSUED -/
  alu : Nat
  /-- CORE_CYCLES -/
  busy : Nat
  deriving DecidableEq, Repr

/-- The vector cores (chapter 08). -/
structure VcuState where
  /-- Vector cores that hold a task or a line. -/
  cores : Tbl VCore
  /-- Clusters, where they differ from reset. -/
  clu : Tbl VcuClu
  /-- R211: the code epoch of the instruction caches. -/
  epoch : Nat
  deriving DecidableEq, Repr

/-! ## Chapter 08: service cores and firmware -/

/-- A service core (R217 to R225). -/
structure SvcCore where
  /-- The SERVICE task it runs: launch and task. -/
  task : Option (Nat × Nat)
  /-- Integer registers x1 to x31 as the modelled instructions leave them. -/
  x : Tbl Nat
  /-- R218: the reservation: the address space (false physical, true an object) and the 64 B block. -/
  resv : Option (Bool × Nat)
  /-- Dirty bytes of its data cache, by key of the byte. -/
  dirty : Tbl Byte
  /-- Cause of the last access fault to firmware (R220), none where there was none. -/
  trap : Option Nat
  /-- RESETS -/
  resets : Nat
  /-- R223: model times of engine resets of the core within the last second. -/
  times : List Nat
  deriving DecidableEq, Repr

/-- The SVC block (R222 to R227). -/
structure SvcState where
  /-- Firmware runs: M4 has been reached. -/
  running : Bool
  /-- ACTIVE_COPY -/
  active : Bool
  /-- A_FAILED -/
  aFailed : Bool
  /-- B_FAILED -/
  bFailed : Bool
  /-- SECURITY_VERSION -/
  version : Nat
  /-- Digest of the payload that runs (R222, R427). -/
  digest : BitVec 384
  /-- KEY_EN applied. -/
  userEn : Nat
  /-- SVC_USER_KEY words applied, by key × 12 + word, where not 0. -/
  userKeys : Tbl Nat
  /-- R9: pending values, by the same numbers, 96 for KEY_EN. -/
  pend : Tbl Nat
  /-- Service cores where they differ from reset. -/
  cores : Tbl SvcCore
  /-- Bytes of the physical address space that firmware alone reaches (Table 08-7), where not 0. -/
  phys : Tbl Byte
  deriving DecidableEq, Repr

end Sys2Proof
end

