-- ==== Sys2Proof/Machine/TypesOut.lean ====
section
/-!
DEFINITION. Sys2Proof/Machine/TypesOut.lean: what the block sends out: host writes, interrupts, packets, management
frames and register reads, as an outbox the environment reads.
-/
namespace Sys2Proof

/-- A completion record (Table 04-11). -/
structure CplRec where
  /-- USER_TAG -/
  tag : Nat
  /-- RESULT_HANDLE -/
  handle : Nat
  /-- RESULT_AUX -/
  aux : Nat
  /-- RESULT_VALUE -/
  value : Nat
  /-- SQ_INDEX -/
  index : Nat
  /-- OPCODE -/
  op : Nat
  /-- STATUS -/
  status : Nat
  /-- DSTAT -/
  dstat : Nat
  /-- RESULT_FLAGS -/
  flags : Nat
  /-- PHASE -/
  phase : Bool
  deriving DecidableEq, Repr

/-- A packet the chip sends (chapters 04, 11 to 13, 15 to 17), by its class and contents. -/
inductive Msg where
  /-- EVENT_REQ on VC-Q (R107): 0 signal or 1 add, the target's handle, the value. -/
  | eventReq (op handle value qp sub : Nat)
  /-- EVENT_RSP on VC-S (R107): the sender's transaction and the status. -/
  | eventRsp (txn status : Nat)
  /-- COLL_CTRL on VC-Q (Table 13-7): SUBTYPE, GROUP_TAG, OP_SEQ, signature, first segment, values carried. -/
  | collCtl (kind tag seq sig first : Nat) (vals : List Int)
  /-- COLL_DATA on VC-B (R345): tag, OP_SEQ, segment, own rank, chunk, data. -/
  | collData (tag seq seg rank chunk : Nat) (data : List Byte)
  /-- COLL_ACK on VC-S. -/
  | collAck (kind tag seq : Nat)
  /-- INGEST_CTRL on VC-M (Table 15-3): subtype, stream, payload. -/
  | ingestCtl (kind stream : Nat) (payload : List Byte)
  /-- A link, manager, checkpoint or session packet: its class, its subtype and its fields in order. -/
  | ctl (cls kind : Nat) (fields : List Nat)
  /-- A packet of such a class that carries bytes. -/
  | data (cls kind : Nat) (fields : List Nat) (bytes : List Byte)
  /-- A packet in transit: destination, source, class, hops left, TXN, CLASS_WORD, payload. -/
  | transit (dest src cls hops txn word : Nat) (bytes : List Byte)
  deriving DecidableEq, Repr

/-- Something that leaves the block. -/
inductive Output where
  /-- A register read returns a value to the host or to firmware. -/
  | readData (r : Reg) (v : DWord)
  /-- A completion record posted to ring position `pos` of queue pair `qp` (R98). -/
  | record (qp pos : Nat) (c : CplRec)
  /-- Another posted host write (R102, R342). -/
  | hostWrite (addr : Nat) (bytes : List Byte)
  /-- An MSI-X message of a function's vector (R58, R93). -/
  | msix (fn vec : Nat)
  /-- A packet leaves on a port, toward a node, or toward the peer of the link (none). -/
  | packet (port : Nat) (node : Option Nat) (m : Msg)
  /-- A NAK flit that names a SEQ (R295). -/
  | nak (port seq : Nat)
  /-- A flit that carries an ACK or a credit return and nothing else (R288): ACK, credits by channel. -/
  | ack (port seq : Nat) (credits : Tbl Nat)
  /-- A replay of the flits from SEQ `from_` up to but not including `until_` (R296). -/
  | replay (port from_ until_ : Nat)
  /-- An I3C in-band interrupt with its data byte (R522). -/
  | ibi (code : Nat)
  /-- What an I3C controller reads, or none for a NACK. -/
  | i3c (bytes : Option (List Byte))
  /-- A UART frame. -/
  | uart (bytes : List Byte)
  /-- A DOE or SPDM answer: its kind and its bytes (R62, R429). -/
  | doe (kind : Nat) (bytes : List Byte)
  /-- An AER report of an uncorrectable error (R59). -/
  | aer
  deriving DecidableEq, Repr

end Sys2Proof
end

