-- ==== Sys2Proof/Machine/TypesFabric.lean ====
section
/-!
DEFINITION. Sys2Proof/Machine/TypesFabric.lean: the state of the links (chapter 11) and of waymark time and the manager
pair (chapter 12).
-/
namespace Sys2Proof

/-! ## Chapter 11 -/

/-- Port states (Table 11-8). -/
inductive PortState where
  | disabled | training | hello | up | degraded | retrain | down | secureWait | secureFailed
  deriving DecidableEq, Repr

/-- Kinds of plan entry (R307). -/
inductive PlanKind where
  | any_ | expect | unused
  deriving DecidableEq, Repr

/-- A port's plan entry (Table 11-19). -/
structure PortPlan where
  /-- KIND -/
  kind : PlanKind
  /-- EXP_PORT -/
  port : Nat
  /-- EXP_NODE -/
  node : Nat
  deriving DecidableEq, Repr

/-- A stored HELLO (R306). -/
structure Peer where
  /-- Node ID -/
  node : Nat
  /-- Port index -/
  port : Nat
  /-- Module serial -/
  serial : Nat
  /-- Role from STRAP_ROLE, 0 for a switch -/
  role : Nat
  /-- Mode: confidential -/
  conf : Bool
  /-- First 8 bytes of the session identifier's digest, 0 in shared mode -/
  digest : Nat
  deriving DecidableEq, Repr

/-- A packet waiting at a port for credits, or for the port to carry traffic (R292, R303). -/
structure TxPkt where
  /-- Virtual channel: 0 VC-M, 1 VC-S, 2 VC-Q, 3 VC-B. -/
  vc : Nat
  /-- HEAD and BODY flits it takes. -/
  flits : Nat
  /-- INGEST_DATA: it may take the credits reserved for that class. -/
  ingest : Bool
  /-- A packet in transit: the port it arrived on. -/
  from_ : Option Nat
  /-- HELLO or SESSION, which pass where nothing else does. -/
  plain : Bool
  /-- Destination node; none for one that stays on the link. -/
  dest : Option Nat
  /-- The packet. -/
  msg : Msg
  deriving DecidableEq, Repr

/-- A packet a port is receiving on a virtual channel (R289). -/
structure RxPkt where
  /-- DEST_NODE -/
  dest : Nat
  /-- SRC_NODE -/
  src : Nat
  /-- PCLASS -/
  cls : Nat
  /-- HOPS -/
  hops : Nat
  /-- TXN -/
  txn : Nat
  /-- CLASS_WORD -/
  word : Nat
  /-- LENGTH -/
  length : Nat
  /-- Payload bytes received so far, the header left out. -/
  bytes : List Byte
  /-- Flits received so far. -/
  flits : Nat
  deriving DecidableEq, Repr

/-- How far the link handshake of a port has come (R439, R440). -/
inductive HsState where
  /-- No handshake runs. -/
  | idle
  /-- The own OFFER has been sent. -/
  | offered
  /-- The peer's OFFER has been received and passed its checks; the own PROOF is sent. -/
  | proving
  /-- The peer's PROOF verifies; the own FINISH is sent. -/
  | finishing
  /-- A check failed or the peer sent REJECT: tried again every 1 s. -/
  | rejected
  deriving DecidableEq, Repr

/-- A port (chapter 11). -/
structure Port where
  /-- STATE -/
  state : PortState
  /-- LANES -/
  lanes : Nat
  /-- Lanes that have failed, one bit each. -/
  failed : Nat
  /-- R305: a retrain runs at half width. -/
  half : Bool
  /-- ENABLE -/
  enable : Bool
  /-- ACCEPT_MISMATCH -/
  accept : Bool
  /-- ALLOW_DEGRADED -/
  allowDegraded : Bool
  /-- Plan entry -/
  plan : PortPlan
  /-- R308: the plan has changed and the check has yet to run. -/
  planDue : Bool
  /-- The peer from the last HELLO. -/
  peer : Option Peer
  /-- CHECK -/
  check : Nat
  /-- R308: the check has run since chip reset. -/
  checked : Bool
  /-- RETRAINS -/
  retrains : Nat
  /-- LOST -/
  lost : Nat
  /-- ROUTE_DROPS -/
  drops : Nat
  /-- CRC_FAILS -/
  crcFails : Nat
  /-- TX_FLITS -/
  txFlits : Nat
  /-- R295: SEQ expected next. -/
  rxSeq : Nat
  /-- R295: a NAK names the expected SEQ and that SEQ has not arrived. -/
  nakOut : Bool
  /-- R295: flits accepted since the last ACK sent. -/
  rxUnacked : Nat
  /-- Packets being received, by virtual channel. -/
  rx : Tbl RxPkt
  /-- R298: data flits of the frame being received, not yet verified: virtual channel, LAST, HEAD, payload. -/
  rxFrame : List (Nat × Bool × Bool × List Byte)
  /-- R298: frame counter expected next. -/
  rxCount : Nat
  /-- R296: SEQ of the next flit sent. -/
  txSeq : Nat
  /-- R296: SEQ of the oldest flit not acknowledged. -/
  txOldest : Nat
  /-- R296: SEQ after each packet whose flits lie in the replay buffer, oldest first. -/
  replay : List Nat
  /-- R296: consecutive replays that failed to advance ACK. -/
  replays : Nat
  /-- R298: frame counter of the next frame sent. -/
  txCount : Nat
  /-- R292: shared credits free. -/
  credShared : Nat
  /-- R292: reserved credits free, by virtual channel; 4 is VC-B for INGEST_DATA only. -/
  cred : Tbl Nat
  /-- R292: credits owed to the peer, by virtual channel. -/
  owed : Tbl Nat
  /-- Packets waiting, in order of arrival. -/
  txq : List TxPkt
  /-- R293: VC-S, VC-Q and VC-B deficits in flits. -/
  deficit : Tbl Nat
  /-- R293: virtual channel the round-robin stands at. -/
  turn : Nat
  /-- R293: flits of the other channels since the last VC-M flit, up to 15. -/
  sinceM : Nat
  /-- R310: model times of protocol errors of the last second. -/
  protoErr : List Nat
  /-- R297, R440: link keys installed. -/
  secured : Bool
  /-- R440: the link keys, from lower to higher node and from higher to lower. -/
  linkKeys : Nat × Nat
  /-- R439 -/
  hs : HsState
  /-- R439: the private half of the own ephemeral key. -/
  hsEph : Nat
  /-- R439: the OFFERs, own and peer's. -/
  hsOffers : List Byte × List Byte
  /-- R439: the PROOFs, own and peer's; empty before they are. -/
  hsProofs : List Byte × List Byte
  /-- R439: a FINISH that came before the peer's PROOF was verified. -/
  hsFinish : List Byte
  /-- R440: the key the peer's PROOF is verified under. -/
  hsPeerKey : List Byte
  deriving DecidableEq, Repr

/-- The LNK block (chapter 11). -/
structure LnkState where
  /-- TRANSIT_STALL_MS -/
  stallMs : Nat
  /-- WEIGHT_B -/
  wB : Nat
  /-- WEIGHT_Q -/
  wQ : Nat
  /-- WEIGHT_S -/
  wS : Nat
  /-- BOARD_DIRECT -/
  boardDirect : Bool
  /-- HOP_LIMIT -/
  hopLimit : Nat
  /-- TABLE -/
  table : Nat
  /-- INDEX -/
  index : Nat
  /-- ENTRY of LNK_RT_DATA. -/
  entry : Nat
  /-- R300: routing entries that are not 0, by table × 65,536 + index. -/
  routes : Tbl Nat
  /-- Ports that differ from their reset state, by index. -/
  ports : Tbl Port
  deriving DecidableEq, Repr

/-! ## Chapter 12 -/

/-- Roles (Table 12-2). -/
inductive Role where
  | worker | candidate | standby | active | held
  deriving DecidableEq, Repr

/-- The quiescent set-up of the waymark manager (Tables 12-9 to 12-11). -/
structure MgrCfg where
  /-- TOP -/
  top : Bool
  /-- PRIORITY -/
  prio : Nat
  /-- WMK_CAND(0–7), as the registers hold them. -/
  cands : List Nat
  /-- WMK_PARENT, as the register holds it. -/
  parent : Nat
  deriving DecidableEq, Repr

/-- A domain plan (R323). -/
structure DomainPlan where
  /-- Chip records -/
  chips : List PlanChip
  /-- Route records -/
  routes : List PlanRoute
  deriving DecidableEq, Repr

/-- What the active manager knows of a chip of its domain (R322, R323). -/
structure ChipView where
  /-- The chip's last health summary, 64 bytes as a number. -/
  summary : Nat
  /-- MISSING -/
  missing : Bool
  /-- STEP it last reported. -/
  step : Nat
  /-- It has arrived for the next step. -/
  arrived : Bool
  deriving DecidableEq, Repr

/-- An ADVANCE received or chosen and not yet applied (R328 to R330). -/
structure Advance where
  /-- Step -/
  step : Nat
  /-- Apply time T -/
  at_ : Nat
  /-- SET flag -/
  set : Bool
  deriving DecidableEq, Repr

/-- Waymark time and the manager pair (chapter 12). -/
structure WmkState where
  /-- R314: the 1 GHz time base. -/
  tb : Nat
  /-- R325: time still to be slewed into the time base, in ns, at 100 ppm. -/
  slew : Int
  /-- R325: model nanoseconds since the slew last moved the time base by 1 ns. -/
  slewCount : Nat
  /-- SYNCED -/
  synced : Bool
  /-- R314: the chip has reported SYNCED since M2, so that its time base never moves backward. -/
  wasSynced : Bool
  /-- R325: successive exchanges with |offset| ≤ 50 ns. -/
  good : Nat
  /-- ERR_BOUND_NS while SYNCED. -/
  errBound : Nat
  /-- R325: time base at which the last SYNC_REQ left (t1). -/
  syncSent : Option Nat
  /-- R313: STEP. -/
  step : Nat
  /-- R313: time base at the current step's apply. -/
  applied : Nat
  /-- ROLE -/
  role : Role
  /-- R320: highest manager term seen. -/
  term : Nat
  /-- Node ID of the active manager followed; none while none has announced itself. -/
  manager : Option Nat
  /-- R319: the rival whose pair equals the own one. -/
  rival : Option Nat
  /-- R318: a candidate sends BEACON. -/
  beaconing : Bool
  /-- R317: candidates heard from, with PRIORITY and serial. -/
  heard : Tbl (Nat × Nat)
  /-- R318: the node named STANDBY in the last ANNOUNCE. -/
  standby : Option Nat
  /-- R318: ANNOUNCEs sent since the role was taken, up to 10. -/
  announces : Nat
  /-- R333: cause 0x02 has been posted since the last ANNOUNCE heard. -/
  lossPosted : Bool
  /-- Applied set-up. -/
  cfg : MgrCfg
  /-- R9: pending set-up. -/
  cfgPend : Option MgrCfg
  /-- PPS_EN -/
  ppsEn : Bool
  /-- ADVANCE_LEAD_US -/
  lead : Nat
  /-- WMK_PLAN_BASE -/
  planBase : Nat
  /-- PLAN_STATUS -/
  planStatus : Nat
  /-- R332: a takeover runs: RESYNC reports are being gathered. -/
  takeover : Bool
  /-- R323: the plan loaded, or copied from the active manager (R331). -/
  plan : Option DomainPlan
  /-- R324: tree parent port of the own plan record; 31 the root, none before a PLAN packet. -/
  treePort : Option Nat
  /-- The domain view (R322), by node. -/
  view : Tbl ChipView
  /-- R324, R328: children in the time tree: the nodes whose SYNC_REQ has come here. -/
  children : List Nat
  /-- R328: children of the tree that have arrived. -/
  childrenIn : List Nat
  /-- R328: the chip has arrived. -/
  arrived : Bool
  /-- R328: the arrival of the subtree has been forwarded. -/
  forwarded : Bool
  /-- R334: an ARRIVE signal between ADVANCE and its T is held. -/
  arriveHeld : Bool
  /-- R328, R330: ADVANCEs waiting for their T. -/
  advance : Option Advance
  /-- R331: last step and arrival state of the domain as the last KEEPALIVE gave them. -/
  copyStep : Nat
  /-- R331: nodes that have arrived, as the last KEEPALIVE gave them. -/
  copyArrived : List Nat
  /-- WMK_EVENTS.ARRIVE: its event slot. -/
  arriveEv : Option Nat
  /-- WMK_EVENTS.ADVANCE: its event slot. -/
  advanceEv : Option Nat
  /-- R328: the ARRIVE event was signalled and the arrival is not yet sent. -/
  arriveDue : Bool
  /-- TAKEOVERS -/
  takeovers : Nat
  /-- PPS_IGNORED -/
  ppsIgnored : Nat
  /-- REPEAT_ARRIVE -/
  repeatArrive : Nat
  /-- LATE -/
  late : Nat
  deriving DecidableEq, Repr

end Sys2Proof
end

