-- ==== Sys2Proof/Machine/TypesHost.lean ====
section
/-!
DEFINITION. Sys2Proof/Machine/TypesHost.lean: the state of the host link and VF provisioning (chapter 03) and of
contexts, rings, events and attention (chapter 04).
-/
namespace Sys2Proof

/-! ## Chapter 03 -/

/-- The resources a VF asks for or holds (Tables 03-12 to 03-16). -/
structure VfQuota where
  /-- CONTEXTS, 1 to 1,024 -/
  contexts : Nat
  /-- QUEUE_PAIRS, 1 to 1,024 -/
  queuePairs : Nat
  /-- MEM_OBJECTS, 0 to 262,144 -/
  memObjects : Nat
  /-- KEY_SLOTS, 0 to 1,024 -/
  keySlots : Nat
  /-- EVENTS, 0 to 65,536 -/
  events : Nat
  /-- WEIGHT, 1 to 255 -/
  weight : Nat
  /-- HBM_GIB, 0 to 352 -/
  hbmGib : Nat
  /-- TASK_GRAPHS, 0 to 16,384 -/
  graphs : Nat
  /-- HOME_PARTITION, 0 to 3 -/
  home : Nat
  deriving DecidableEq, Repr

/-- Pending values of a VF entry's quiescent fields (R9, Table 03-17), by PENDING bit number. -/
abbrev VfPending := Tbl Nat

/-- STATE of a VF entry (Table 03-19). -/
inductive VfState where
  | idle | active | teardown | held
  deriving DecidableEq, Repr

/-- How far a teardown has come (Table 03-21). -/
inductive TdStep where
  /-- Doorbells dropped, fetch stopped. -/
  | begun
  /-- Host-link transfers drained. -/
  | drained
  /-- Every context destroyed. -/
  | aborted
  /-- Resources accounted back. -/
  | accounted
  deriving DecidableEq, Repr

/-- An HIF_VF entry (R68) with its teardown. -/
structure VfEntry where
  /-- The applied values. -/
  quota : VfQuota
  /-- R9: pending values by PENDING bit. -/
  pend : VfPending
  /-- STATE -/
  state : VfState
  /-- SHORT, bits 22:16 as a number. -/
  short : Nat
  /-- LAST_STATUS -/
  lastStatus : Nat
  /-- R65: global queue pair of each local one. -/
  qpMap : List Nat
  /-- Table 03-21: the running teardown's step. -/
  tdStep : TdStep
  /-- R70, R75: the running teardown returns the VF to ACTIVE (an FLR). -/
  tdFlr : Bool
  /-- R70: RELEASE writes whose completion is owed at the teardown's end. -/
  releases : Nat
  /-- R73: host reads still outstanding when the transfers drained. -/
  squashed : Nat
  deriving DecidableEq, Repr

/-- TDISP state of the device's one TDI (Table 03-3). -/
inductive TdiState where
  | unlocked | locked | run | error
  deriving DecidableEq, Repr

/-- An IDE stream (R60): 0 the link stream, 1 to 4 selective. -/
structure IdeStream where
  /-- Keys have been programmed. -/
  keyed : Bool
  /-- In its insecure state. -/
  insecure : Bool
  /-- Bound to the TDI. -/
  bound : Bool
  /-- The key programmed last. -/
  key : BitVec 256
  deriving DecidableEq, Repr

/-- An MSI-X table entry (R56, R66). -/
structure MsixEntry where
  /-- Message address. -/
  addr : Nat
  /-- Message data. -/
  data : Nat
  /-- Mask bit. -/
  masked : Bool
  deriving DecidableEq, Repr

/-- A VF-state record waiting for the PF service ring (R99). -/
structure VfRecord where
  /-- 0xF0 VF_COMMIT or 0xF1 VF_RELEASE. -/
  op : Nat
  /-- VF number. -/
  vf : Nat
  /-- STATUS -/
  status : Nat
  /-- HIF_VF_STATE after the event. -/
  word : Nat
  deriving DecidableEq, Repr

/-- The host link and VF provisioning (chapter 03). -/
structure HifState where
  /-- R57: NumVFs. -/
  numVfs : Nat
  /-- R57, R72: VF Enable as stored. -/
  vfEnable : Bool
  /-- R57: VF BAR2 size in MiB (1, 2 or 4). -/
  vfBarMib : Nat
  /-- R68: entries that differ from their reset values. -/
  vfs : Tbl VfEntry
  /-- R61: TDI state. -/
  tdi : TdiState
  /-- R60: IDE streams that hold keys or are insecure. -/
  ide : Tbl IdeStream
  /-- R62: a secured SPDM session stands on the DOE mailbox. -/
  spdmSecured : Bool
  /-- R56, R66: MSI-X tables, by function × 4,096 + vector. -/
  msix : Tbl MsixEntry
  /-- R93: messages held pending on masked vectors, by function × 4,096 + vector. -/
  msixPending : List Nat
  /-- R74: dirty granules of the HBM pool, by owning function (0 the pool and the PF). -/
  dirty : Tbl Nat
  /-- R73: host-read tags in quarantine. -/
  quarantine : Nat
  /-- R99: VF-state records waiting for the PF service ring, oldest first. -/
  vfRecords : List VfRecord
  deriving DecidableEq, Repr

/-! ## Chapter 04 -/

/-- Context states (Table 04-2). -/
inductive CtxState where
  | live | faulted | resetting | aborting
  deriving DecidableEq, Repr

/-- A context (R81) with its lane-generator and flag state (R192, R208). -/
structure Ctx where
  /-- R81 -/
  state : CtxState
  /-- Owning function, 0 the PF. -/
  fn : Nat
  /-- Home partition. -/
  home : Nat
  /-- PRIORITY, 0 to 3. -/
  prio : Nat
  /-- R192: SEED, 256 bits. -/
  seed : BitVec 256
  /-- R192: MODE, false free-running, true deterministic. -/
  mode : Bool
  /-- R208: AFLAGS, INEXACT_WINDOW, OVERFLOW, INVALID in bits 2:0. -/
  aflags : Nat
  /-- R82, R115: descriptors (queue pair, submission number) whose reset or destruction of this context
      is under way or waits for the one under way, in order. -/
  waiters : List (Nat × Nat)
  deriving DecidableEq, Repr

/-- States of a queue pair (Table 04-3). -/
inductive QpState where
  | live | stopped | aborting
  deriving DecidableEq, Repr

/-- A built queue pair (R83 to R93). -/
structure QueuePair where
  /-- Owning function. -/
  fn : Nat
  /-- Local number in the function; 0 is the service queue. -/
  loc : Nat
  /-- Owning context slot; none for a service queue. -/
  ctx : Option Nat
  /-- Submission ring base. -/
  sqBase : Nat
  /-- Completion ring base. -/
  cqBase : Nat
  /-- SQ_LOG2 -/
  sqLog : Nat
  /-- CQ_LOG2 -/
  cqLog : Nat
  /-- MSI-X vector; none for 0xFFFF. -/
  vector : Option Nat
  /-- R83 -/
  state : QpState
  /-- R91: last SQ_TAIL written. -/
  sqTail : Nat
  /-- R91: fetch position in the ring. -/
  fetchPos : Nat
  /-- R89: submission number of the next descriptor. -/
  nextSub : Nat
  /-- R92: completion records written since the build. -/
  cqWritten : Nat
  /-- R92: completion records consumed since the build. -/
  cqConsumed : Nat
  /-- R92: completion slots reserved by fetched descriptors. -/
  reserved : Nat
  /-- R93: armed. -/
  armed : Bool
  /-- R93: DSTAT of the last record written to the ring. -/
  lastDstat : Option Nat
  /-- R87: UNBUILD written, waiting for the started descriptors to end. -/
  unbuilding : Bool
  deriving DecidableEq, Repr

/-- The set-up registers of a function's doorbell page 0 (Tables 04-7 to 04-9). -/
structure SvqPage where
  /-- SQ_BASE applied and pending. -/
  sqBase : Nat
  /-- CQ_BASE applied. -/
  cqBase : Nat
  /-- CQ_LOG2 applied. -/
  cqLog : Nat
  /-- SQ_LOG2 applied. -/
  sqLog : Nat
  /-- MSIX_VECTOR applied. -/
  vector : Nat
  /-- R9: pending SQ_BASE. -/
  pSqBase : Option Nat
  /-- R9: pending CQ_BASE. -/
  pCqBase : Option Nat
  /-- R9: pending CQ_LOG2. -/
  pCqLog : Option Nat
  /-- R9: pending SQ_LOG2. -/
  pSqLog : Option Nat
  /-- R9: pending MSIX_VECTOR. -/
  pVector : Option Nat
  /-- R87: a BUILD held until the started descriptors have ended. -/
  heldBuild : Bool
  deriving DecidableEq, Repr

/-- What a descriptor's end reports (R98, R102). -/
structure Result where
  /-- STATUS -/
  status : Nat
  /-- RESULT_HANDLE -/
  handle : Nat
  /-- RESULT_AUX -/
  aux : Nat
  /-- RESULT_VALUE -/
  value : Nat
  /-- RESULT_FLAGS -/
  flags : Nat
  deriving DecidableEq, Repr

/-- How far a descriptor has come (R94 to R98). -/
inductive DescPhase where
  /-- Fetched and checked. -/
  | fetched
  /-- Started; its opcode has yet to act. -/
  | started
  /-- Started; its opcode has acted and runs on until a later step ends it. -/
  | running
  /-- Ended; its completion has yet to be written. -/
  | ended (r : Result)
  deriving DecidableEq, Repr

/-- A descriptor in the device. -/
structure Desc where
  /-- Global queue pair. -/
  qp : Nat
  /-- Submission number (R89). -/
  sub : Nat
  /-- Ring position. -/
  pos : Nat
  /-- Function of the queue pair. -/
  fn : Nat
  /-- The 64 bytes (Table 04-10), byte 0 in bits 7:0. -/
  raw : BitVec 512
  /-- Where it stands. -/
  phase : DescPhase
  /-- R87, R114: its completion record is not written. -/
  noRecord : Bool
  /-- R95, R106: its SIGNAL_EVENT passed its check and names an event that still stands. -/
  sigOk : Bool
  /-- R474: its work was removed by escalation. -/
  escalated : Bool
  /-- A number its opcode keeps while it runs (an object slot, a bound). -/
  note : Nat
  deriving DecidableEq, Repr

/-- An event (Table 04-16, R106). -/
structure Event where
  /-- Owning context slot. -/
  ctx : Nat
  /-- MODE: counter. -/
  counter : Bool
  /-- THRESHOLD -/
  threshold : Nat
  /-- COUNT -/
  count : Nat
  /-- PAYLOAD -/
  payload : Nat
  /-- SIGNALLED -/
  signalled : Bool
  /-- ERROR -/
  error : Bool
  /-- SCOPE -/
  scope : Nat
  /-- NODE -/
  node : Nat
  /-- NODE_MASK -/
  nodeMask : Nat
  /-- Being destroyed. -/
  aborting : Bool
  deriving DecidableEq, Repr

/-- An attention entry (R108). -/
structure AttEntry where
  /-- PENDING -/
  pending : Bool
  /-- COUNT, saturating at 65,535 -/
  count : Nat
  /-- EPOCH_LAST, the full epoch -/
  epochLast : Nat
  /-- DETAIL -/
  detail : Nat
  /-- HANDLE -/
  handle : Nat
  deriving DecidableEq, Repr

/-- A function's attention table (R108). -/
structure AttTable where
  /-- The full epoch. -/
  epoch : Nat
  /-- Entries by code. -/
  entries : Tbl AttEntry
  deriving DecidableEq, Repr

/-- A function's heartbeat counters (R99, R111). -/
structure Heart where
  /-- Heartbeats scheduled since the service queue was built, modulo 2^32. -/
  seq : Nat
  /-- Heartbeats skipped since the last one written. -/
  skipped : Nat
  deriving DecidableEq, Repr

/-- An EVENT_REMOTE waiting for its reply (R107). -/
structure RemoteWait where
  /-- Sending descriptor. -/
  qp : Nat
  /-- Its submission number. -/
  sub : Nat
  /-- Target node. -/
  node : Nat
  deriving DecidableEq, Repr

/-- Slot choice for one kind of object (R79): slots never used since the chip reset, then the freed ones. -/
structure SlotPool where
  /-- Lowest slot never used since the chip reset. -/
  fresh : Nat
  /-- Slots freed since, the one free longest first. -/
  freed : List Nat
  deriving DecidableEq, Repr

/-- The command block (chapter 04). -/
structure CmdState where
  /-- R84: built queue pairs by global number. A VF's service queue is its local queue pair 0. -/
  qps : Tbl QueuePair
  /-- R85: page 0 set-up registers by function, where they differ from reset. -/
  pages : Tbl SvqPage
  /-- Descriptors in the device, in order of fetch. -/
  descs : List Desc
  /-- R108: attention tables by function. -/
  att : Tbl AttTable
  /-- R111: heartbeat counters by function. -/
  hearts : Tbl Heart
  /-- R107: remote updates waiting for a reply. -/
  remotes : List RemoteWait
  /-- R92: function being served and the turns it has left. -/
  fetchTurn : Nat × Nat
  /-- R92: local number of the work queue pair served last, by function. -/
  fetchLast : Tbl Nat
  /-- R79: context slots. -/
  ctxSlots : SlotPool
  /-- R79: memory-object slots. -/
  memSlots : SlotPool
  /-- R79: event slots. -/
  evSlots : SlotPool
  /-- R79: key slots. -/
  keySlots : SlotPool
  /-- R79: task-graph slots. -/
  graphSlots : SlotPool
  deriving DecidableEq, Repr

end Sys2Proof
end

