-- ==== Sys2Proof/Machine/TypesJob.lean ====
section
/-!
DEFINITION. Sys2Proof/Machine/TypesJob.lean: the state of step schedules and the runner (chapter 14) and of checkpoints
and restores (chapter 16).
-/
namespace Sys2Proof

/-- The configuration an admission holds for (R377, R382). -/
structure SchedConfig where
  /-- Clusters retired. -/
  retired : List Nat
  /-- Tile masks by cluster. -/
  tiles : List (Nat × Nat)
  /-- Vector-core masks by cluster. -/
  cores : List (Nat × Nat)
  /-- Offline partitions. -/
  offline : Nat
  /-- Ports UP. -/
  up : List Nat
  /-- Routing entries. -/
  routes : List (Nat × Nat)
  deriving DecidableEq, Repr

/-- A context's loaded schedule and its runner (chapter 14). -/
structure Runner where
  /-- The schedule copy (R373). -/
  table : List Byte
  /-- REPORT handle or 0, and REPORT_OFFSET. -/
  report : Nat × Nat
  /-- R382: the configuration of the last evaluation. -/
  config : SchedConfig
  /-- STEP_EVENT event slot. -/
  stepEvent : Nat
  /-- RUNNING: between SCHED_START and its completion. -/
  active : Bool
  /-- SCHED_START waits for the next signal of STEP_EVENT. -/
  fresh : Bool
  /-- Time of the last signal of STEP_EVENT. -/
  sigAt : Nat
  /-- SCHED_START: queue pair and submission number. -/
  desc : Nat × Nat
  /-- STEPS left; none for until stopped. -/
  left : Option Nat
  /-- SCHED_STOP descriptors that wait for the next ARRIVE. -/
  stops : List (Nat × Nat)
  /-- A step runs. -/
  inStep : Bool
  /-- S, the current or last step. -/
  step : Nat
  /-- t = 0 of the step. -/
  t0 : Nat
  /-- Entries before this one have been issued or passed over. -/
  next : Nat
  /-- LOOKAHEAD_COMMITTED -/
  laCommitted : Bool
  /-- The LOOKAHEAD launch of this step completed with DONE. -/
  laDone : Bool
  /-- R370: the status and entry that stopped the runner. -/
  failed : Option (Nat × Nat)
  /-- Operations posted by the step's POST entries. -/
  posted : List Nat
  /-- Steps over budget. -/
  overs : Nat
  /-- LATE -/
  lates : Nat
  /-- RETRIES -/
  retries : Nat
  /-- READMIT_FAILED -/
  readmitFailed : Bool
  /-- R382: an evaluation in the background is due. -/
  readmitDue : Bool
  deriving DecidableEq, Repr

/-- An admission that runs on the service cores (R375): SCHED_LOAD or TOLLGATE_CHECK. -/
structure Admission where
  /-- Descriptor: queue pair and submission number. -/
  desc : Nat × Nat
  /-- Context slot. -/
  ctx : Nat
  /-- Function. -/
  fn : Nat
  /-- The schedule copy. -/
  table : List Byte
  /-- REPORT handle or 0, and REPORT_OFFSET. -/
  report : Nat × Nat
  /-- SCHED_LOAD; else TOLLGATE_CHECK. -/
  load : Bool
  deriving DecidableEq, Repr

/-! ## Chapter 16 -/

/-- A range entry of a checkpoint plan (Table 16-3). -/
structure CkpRange where
  /-- RANGE_ID -/
  id : Nat
  /-- KIND -/
  kind : Nat
  /-- FMT -/
  fmt : Nat
  /-- OBJECT slot -/
  obj : Nat
  /-- OFFSET -/
  off : Nat
  /-- LENGTH -/
  len : Nat
  deriving DecidableEq, Repr

/-- A checkpoint plan (Table 16-2). -/
structure CkpPlan where
  /-- JOB_ID -/
  job : Nat
  /-- RANK -/
  rank : Nat
  /-- N_NODES -/
  nNodes : Nat
  /-- MANIFEST_NODE -/
  maniNode : Nat
  /-- FAST_RESTART -/
  fast : Bool
  /-- ENCRYPT -/
  encrypt : Bool
  /-- STORE_NODE -/
  storeNode : Nat
  /-- BUDDY_NODE -/
  buddyNode : Nat
  /-- KEY slot -/
  key : Option Nat
  /-- EVERY_STEPS -/
  every : Nat
  /-- INTERVAL_MS -/
  interval : Nat
  /-- CKP_RATE_MBPS -/
  rate : Nat
  /-- INCARNATION -/
  inc : Nat
  /-- The shape record. -/
  shape : List Byte
  /-- DONE_EVENT slot -/
  doneEvent : Option Nat
  /-- STREAMS -/
  streams : Nat
  /-- SIGNER_DIGEST -/
  signer : Nat
  /-- The ranges. -/
  ranges : List CkpRange
  deriving DecidableEq, Repr

/-- A granule copied before its first write after the apply (R408). -/
structure CowCopy where
  /-- Granule key. -/
  gran : Nat
  /-- Its bytes that are not 0, by memory key. -/
  cells : Tbl Byte
  /-- Its poisoned lines. -/
  bad : List Nat
  deriving DecidableEq, Repr

/-- Where a checkpoint stands. -/
inductive CkpPhase where
  /-- The apply has been; operations are awaited (R407). -/
  | snapshot
  /-- Chunks are streamed (R409). -/
  | streaming
  /-- The report is sent (R415). -/
  | manifest
  deriving DecidableEq, Repr

/-- A checkpoint in flight. -/
structure CkpRun where
  /-- STEP -/
  step : Nat
  /-- Triggered operations awaited. -/
  awaited : List Nat
  /-- Its phase. -/
  phase : CkpPhase
  /-- Header, range table and data positions of the shard, padded. -/
  head : List Byte
  /-- Copies of granules. -/
  copies : List CowCopy
  /-- The buddy put is complete. -/
  buddy : Bool
  deriving DecidableEq, Repr

/-- A rank's report at the manifest node (Table 16-6). -/
structure RankReport where
  /-- The node that sent it. -/
  node : Nat
  /-- DIGEST -/
  digest : Nat
  /-- Stored length -/
  len : Nat
  /-- STORE_NODE -/
  store : Nat
  /-- BUDDY node, where the flag is set. -/
  buddy : Option Nat
  deriving DecidableEq, Repr

/-- What a manifest node gathers for one checkpoint (R415). -/
structure ManiWork where
  /-- STEP -/
  step : Nat
  /-- Reports by rank. -/
  reports : Tbl RankReport
  /-- The outcome sent: success or not. -/
  sent : Option Bool
  deriving DecidableEq, Repr

/-- A restore (R417 to R420). -/
structure Restore where
  /-- CKP_RESTORE: queue pair and submission number. -/
  desc : Nat × Nat
  /-- The plan. -/
  plan : CkpPlan
  /-- STEP of the manifest. -/
  step : Nat
  /-- MANIFEST_INCARNATION -/
  inc : Nat
  /-- MANIFEST_STORE -/
  store : Nat
  /-- OUT handle or 0, and OUT_OFFSET. -/
  dest : Nat × Nat
  /-- It has fallen back to PREV. -/
  fell : Bool
  /-- STAT_RSP: status, stored length, VALID. -/
  stat : Option (Nat × Nat × Bool)
  /-- The manifest, once checked. -/
  mani : List Byte
  /-- Stored bytes of the chunks read, in order. -/
  got : List (List Byte)
  /-- Chunks read from the store. -/
  fromStore : Nat
  /-- Chunks to be fetched from the store alone. -/
  refetch : List Nat
  /-- The partner serves the chunks. -/
  useBuddy : Bool
  /-- The first bytes of the shard: header, table and positions. -/
  head : List Byte
  deriving DecidableEq, Repr

/-- A context's checkpoint state. -/
structure CkpCtx where
  /-- The armed plan. -/
  plan : Option CkpPlan
  /-- A CKP_TRIGGER has completed since the previous apply. -/
  trigger : Bool
  /-- The checkpoint in flight. -/
  run : Option CkpRun
  /-- Step of the last complete checkpoint. -/
  last : Option Nat
  /-- Its buddy copy was complete. -/
  lastBuddy : Bool
  /-- Skipped triggers. -/
  skipped : Nat
  /-- CKP_DISARM descriptors that wait. -/
  disarm : List (Nat × Nat)
  /-- The manifest node's work. -/
  mani : Option ManiWork
  /-- STEP and INCARNATION of the last manifest this node completed. -/
  prev : Option (Nat × Nat)
  /-- The restore in progress. -/
  restore : Option Restore
  deriving DecidableEq, Repr

/-- What a transfer is for (R410). -/
inductive XferKind where
  | shardPut | buddyPut | maniPut | maniGet | stat | storeGet | buddyGet | mark
  deriving DecidableEq, Repr

/-- A transfer this chip opened (R410, R411). -/
structure Xfer where
  /-- Peer -/
  node : Nat
  /-- Context slot -/
  ctx : Nat
  /-- What it is for. -/
  kind : XferKind
  /-- Object name -/
  name : List Byte
  /-- The open has been acknowledged. -/
  opened : Bool
  /-- WINDOW -/
  window : Nat
  /-- Next chunk to send -/
  next : Nat
  /-- Chunks in all -/
  chunks : Nat
  /-- What waits for an acknowledgement, with resends so far: a chunk, or the request under 2^32. -/
  unacked : Tbl Nat
  /-- PUT_CLOSE is sent. -/
  closing : Bool
  /-- The bytes of a manifest put. -/
  bytes : List Byte
  /-- Bytes received by a get, by offset in the object. -/
  pieces : Tbl (List Byte)
  /-- First chunk and chunk count of a get. -/
  span : Nat × Nat
  deriving DecidableEq, Repr

/-- A slot of the buddy region (R412, R413). -/
structure BuddySlot where
  /-- Object name -/
  name : List Byte
  /-- Stored length -/
  len : Nat
  /-- Stored bytes received, by offset. -/
  pieces : Tbl (List Byte)
  /-- Chunks acknowledged. -/
  acked : List Nat
  /-- Complete: DURABLE was answered. -/
  whole : Bool
  /-- Transfer number of the put. -/
  txn : Nat
  deriving DecidableEq, Repr

/-- Checkpoints, buddy copies and restores (chapter 16). -/
structure CkpState where
  /-- MANIFEST_WAIT_S -/
  waitS : Nat
  /-- ENABLE applied. -/
  enable : Bool
  /-- BUDDY_GIB applied. -/
  gib : Nat
  /-- SRC_NODE applied. -/
  src : Nat
  /-- R9: pending ENABLE, BUDDY_GIB and SRC_NODE. -/
  pend : Option (Bool × Nat × Nat)
  /-- Granules of the region: 44 × stack + granule. -/
  region : List Nat
  /-- Slot A. -/
  slotA : Option BuddySlot
  /-- Slot B. -/
  slotB : Option BuddySlot
  /-- The slot that holds the last complete copy is B. -/
  lastB : Bool
  /-- By context slot. -/
  ctxs : Tbl CkpCtx
  /-- Transfers by number. -/
  xfers : Tbl Xfer
  /-- Next transfer number. -/
  nextTxn : Nat
  /-- T of the previous apply. -/
  lastT : Option Nat
  /-- SKIPPED -/
  skipped : Nat
  /-- FAILED -/
  failed : Nat
  /-- DONE -/
  done : Nat
  /-- CKP_BYTES_OUT -/
  bytesOut : Nat
  deriving DecidableEq, Repr

end Sys2Proof
end

