-- ==== Sys2Proof/Machine/TypesMemory.lean ====
section
/-!
DEFINITION. Sys2Proof/Machine/TypesMemory.lean: the state of memory objects and their contents, cluster store, HBM,
the badger (chapter 09) and inline protection (chapter 10).
-/
namespace Sys2Proof

/-- A memory object (R101, R236, R237). -/
structure MemObj where
  /-- Owning context slot. -/
  ctx : Nat
  /-- SIZE in bytes. -/
  size : Nat
  /-- PAGE: 0 4 KiB, 1 2 MiB, 2 1 GiB. -/
  page : Nat
  /-- Placement partition. -/
  part : Nat
  /-- A scratch object's cluster (R231); none for a partition-placed object. -/
  cluster : Option Nat
  /-- KEY_ID -/
  keyId : Nat
  /-- Device virtual address of byte 0. -/
  va : Nat
  /-- Being destroyed. -/
  aborting : Bool
  /-- R242: read-only ranges, as first page and page count. -/
  readOnly : List (Nat × Nat)
  /-- R237: starting stack, chosen at the first mapping. -/
  start : Option Nat
  /-- R237: pages mapped, with the stack that backs each. -/
  mapped : Tbl Nat
  /-- R231: resident scratch pages. -/
  resident : List Nat
  /-- R481: POISON_FOUND with source 3 has been posted for the object. -/
  lossPosted : Bool
  deriving DecidableEq, Repr

/-- A poisoned line of a memory object (R253). -/
structure Poison where
  /-- Stack of the line, or 0xFF for cluster store. -/
  stack : Nat
  /-- The poison table holds an entry for it. -/
  tabled : Bool
  deriving DecidableEq, Repr

/-! ## Chapter 09 -/

/-- A cluster's store: its segments and counters (R228, R262). -/
structure CluStore where
  /-- CACHE_SEGS applied. -/
  cacheSegs : Nat
  /-- R9: CACHE_SEGS pending. -/
  pend : Option Nat
  /-- DEVICE_SEGS -/
  deviceSegs : Nat
  /-- UNCORRECTED -/
  uncorrected : Nat
  /-- CORRECTED -/
  corrected : Nat
  /-- HITS -/
  hits : Nat
  /-- MISSES -/
  misses : Nat
  /-- SPILLED -/
  spilled : Nat
  deriving DecidableEq, Repr

/-- A line of the cache part (R229): which of its bytes are dirty, by memory key offset in the line. -/
structure CacheLine where
  /-- Home cluster. -/
  home : Nat
  /-- Dirty bytes of the 256, one bit each. -/
  dirty : Nat
  deriving DecidableEq, Repr

/-- An HBM request or transaction (R246). -/
structure HbmReq where
  /-- The model's number, in order of issue. -/
  id : Nat
  /-- Cluster queue it waits in, or 64 for the badger. -/
  cluster : Nat
  /-- Bank, 0 to 4,095. -/
  bank : Nat
  /-- Instance it was translated under (Table 09-4). -/
  inst : Nat
  deriving DecidableEq, Repr

/-- An HBM stack (R244 to R258, R263). -/
structure Stack where
  /-- STATE -/
  state : Nat
  /-- Requests waiting in the cluster queues, oldest first. -/
  waiting : List HbmReq
  /-- Transactions that hold a slot, in order of admission. -/
  slots : List HbmReq
  /-- R247: round-robin pointer. -/
  pointer : Nat
  /-- UNCORRECTED -/
  uncorrected : Nat
  /-- CORRECTED -/
  corrected : Nat
  /-- PASSES -/
  passes : Nat
  /-- CHUNK -/
  chunk : Nat
  /-- APPLIED_LAST -/
  appliedLast : Nat
  /-- R257: chunks in which this pass corrected a line. -/
  passChunks : List Nat
  /-- R257: lines corrected in this pass. -/
  passLines : List Nat
  /-- R257: lines corrected in the last pass. -/
  lastLines : List Nat
  /-- R251: corrected lines not yet rewritten, by line number in the stack. -/
  rewrite : List Nat
  deriving DecidableEq, Repr

/-- What the repair record of a stack keeps through power loss (R258). -/
structure RepairRec where
  /-- Rows queued, oldest first. -/
  queue : List Nat
  /-- Remap rows in use. -/
  remaps : Nat
  /-- Granules retired, 0 to 43. -/
  retired : List Nat
  /-- Rows in the reserved area taken out of use. -/
  reservedOut : List Nat
  deriving DecidableEq, Repr

/-- A round-robin allocator (R249). -/
structure Allocator where
  /-- Requesters, n. -/
  n : Nat
  /-- Grant pointer. -/
  pointer : Nat
  /-- Free buffers. -/
  free : List Nat
  /-- Claim line, first first. -/
  line : List Nat
  /-- Reservations: requester and buffer. -/
  reserved : Tbl Nat
  /-- Buffers held: buffer and requester. -/
  held : Tbl Nat
  deriving DecidableEq, Repr

/-- A rules change on its way to its change point (R240). -/
inductive RuleChange where
  /-- MEM_PROTECT of pages of an object: queue pair, submission number, slot, first page, pages, read-only. -/
  | protect (qp sub slot first count : Nat) (ro : Bool)
  deriving DecidableEq, Repr

/-- Memory (chapter 09). -/
structure MemState where
  /-- Cluster stores by cluster; those not listed are at reset. -/
  clu : Tbl CluStore
  /-- Lines of the cache parts, by object slot × 2^32 + 256 B line. -/
  cache : Tbl CacheLine
  /-- Stacks 0 to 7; those not listed are at reset. -/
  stk : Tbl Stack
  /-- PERIOD_H -/
  periodH : Nat
  /-- OVERFLOW of MEM_POISON_STATE -/
  poisonOverflow : Bool
  /-- R249: allocators by pool; pool 0 is the landing buffers of chapter 15. -/
  allocs : Tbl Allocator
  /-- R240: rules changes before their change point. -/
  rules : List RuleChange
  /-- R241: fences: queue pair, submission number, instance and the next request number at their start. -/
  fences : List (Nat × Nat × Nat × Nat)
  /-- Next request number. -/
  nextReq : Nat
  deriving DecidableEq, Repr

/-! ## Chapter 10 -/

/-- LAYOUT (R278, R280). -/
inductive Layout where
  | plain | switching | protected_
  deriving DecidableEq, Repr

/-- Key material of a memory key ID (R265): two XTS keys and the MAC key. -/
structure MemKey where
  /-- K1 -/
  k1 : Nat
  /-- K2 -/
  k2 : Nat
  /-- KM -/
  km : Nat
  deriving DecidableEq, Repr

/-- A stack's cipher engine (R272, R274, R282). -/
structure Cipher where
  /-- Corrected-line list, by line number in the stack. -/
  list : List Nat
  /-- LEFT_UNWRITTEN -/
  leftUnwritten : Nat
  /-- TAG_READS -/
  tagReads : Nat
  /-- MERGES -/
  merges : Nat
  deriving DecidableEq, Repr

/-- Inline protection (chapter 10). -/
structure ImeState where
  /-- LAYOUT -/
  layout : Layout
  /-- Key IDs loaded, with their material. -/
  keys : Tbl MemKey
  /-- R269: epochs by region: pool granule 44s + g, or 1,000 + s for the reserved area of stack s. -/
  epochs : Tbl Nat
  /-- Cipher engines by stack. -/
  ciphers : Tbl Cipher
  /-- R279: pages mapped in confidential mode whose zeros are not yet written, by object slot and page. -/
  zeroing : List (Nat × Nat)
  deriving DecidableEq, Repr

end Sys2Proof
end

