-- ==== Sys2Proof/Machine/TypesSec.lean ====
section
/-!
DEFINITION. Sys2Proof/Machine/TypesSec.lean: the state of sessions, keys and attestation (chapter 17) and of the
life cycle and debug (chapter 18).
-/
namespace Sys2Proof

/-- Session states (Table 17-5). -/
inductive SessState where
  | none_ | opening | open_ | closing
  deriving DecidableEq, Repr

/-- A key slot (R442 to R445). -/
structure KeySlot where
  /-- Owning context slot. -/
  ctx : Nat
  /-- KIND: 0 CONTRIB, 1 CHECKPOINT, 2 PLAIN. -/
  kind : Nat
  /-- The 256-bit key. -/
  key : Nat
  /-- Contributor index of a CONTRIB key. -/
  contrib : Nat
  /-- Being destroyed. -/
  aborting : Bool
  deriving DecidableEq, Repr

/-- A node rule (Table 17-6). -/
structure NodeRule where
  /-- NODE -/
  node : Nat
  /-- KIND: 0 T400, 1 SWITCH, 2 ENDPOINT. -/
  kind : Nat
  /-- MASK -/
  mask : Nat
  /-- KEY_DIGEST -/
  digest : Nat
  deriving DecidableEq, Repr

/-- The session configuration as checked at SESSION_OPEN (R436, Table 17-6). -/
structure SessConfig where
  /-- SESSION_ID as the little-endian number of its 32 bytes. -/
  sessionId : Nat
  /-- SEED -/
  seed : Nat
  /-- POLICY bit 0, ALLOW_PLAIN. -/
  allowPlain : Bool
  /-- OWNER_KEY, its 97 bytes as a number. -/
  owner : Nat
  /-- SIGN_DIGEST of each contributor, in index order. -/
  contribs : List Nat
  /-- Node rules, in table order. -/
  rules : List NodeRule
  /-- CONFIG_DIGEST -/
  digest : BitVec 384
  /-- CONTRIB_DIGEST -/
  contribDigest : BitVec 384
  deriving DecidableEq, Repr

/-- A record of the sealed session log (R448). -/
structure SealedRec where
  /-- TIME_NS -/
  time : Nat
  /-- OPCODE -/
  op : Nat
  /-- REASON, Table 17-11 -/
  reason : Nat
  /-- SQ_INDEX -/
  index : Nat
  /-- DETAIL -/
  detail : Nat
  deriving DecidableEq, Repr

/-- What a public-key request is for (R446). -/
inductive PkUse where
  /-- A descriptor's request, by queue pair and submission number, with what it has read. -/
  | desc (qp sub : Nat) (bytes : List Byte)
  /-- A port's link handshake. -/
  | port (p : Nat)
  /-- An SPDM answer: its kind and its message. -/
  | spdm (kind : Nat) (msg : List Byte)
  deriving DecidableEq, Repr

/-- Sessions, keys and alarms (chapter 17). -/
structure SecState where
  /-- SESSION -/
  session : SessState
  /-- The configuration of the session in OPENING, OPEN or CLOSING. -/
  config : Option SessConfig
  /-- The SESSION_OPEN or SESSION_CLOSE descriptor that runs. -/
  sessDesc : Option (Nat × Nat)
  /-- R425: the session key-agreement key: its private half as drawn. -/
  kaKey : Option Nat
  /-- R425: the session attestation key: its private half as drawn. -/
  attKey : Option Nat
  /-- R425: the alias key is held, from M5 until chip reset or a tamper alarm. -/
  alias_ : Bool
  /-- R427: the per-boot cell-address key and share mask drawn at M5. -/
  shareMask : Nat
  /-- REPORT_SEQ: reports signed in the session. -/
  reports : Nat
  /-- GRAPH_CHAIN (R451). -/
  graphChain : Nat
  /-- N_GRAPHS -/
  nGraphs : Nat
  /-- WEIGHT_CHAIN (R451). -/
  weightChain : Nat
  /-- N_WEIGHTS -/
  nWeights : Nat
  /-- R447: descriptors whose uniform refusal has been decided and not yet written. -/
  refusals : List (Nat × Nat)
  /-- R442: key slots. -/
  keys : Tbl KeySlot
  /-- R443: the contributor map, from index to key slot. -/
  contribMap : Tbl Nat
  /-- R448: the sealed session log, newest first, at most 65,536 records. -/
  slog : List SealedRec
  /-- R446: public-key requests, in order of arrival; the first 4 hold lanes. -/
  pk : List PkUse
  /-- R426: the entropy source passes its health tests. -/
  entropyOk : Bool
  /-- SEC_ALARM.COUNT -/
  alarmCount : Nat
  /-- SEC_ALARM.LAST -/
  alarmLast : Nat
  /-- R431: the code of an alarm on its way into CLK_MG. -/
  alarmDue : Option Nat
  deriving DecidableEq, Repr

/-! ## Chapter 18 -/

/-- A token-digest slot (R460): blank where the table lists none. -/
inductive TokSlot where
  /-- It holds a digest: open. -/
  | digest (d : BitVec 384)
  /-- Programmed all ones: closed. -/
  | ones
  deriving DecidableEq, Repr

/-- What stays in OTP and in the battery-backed key store (R425, R432, R458 to R460). -/
structure OtpState where
  /-- Position word copy A. -/
  a : Nat
  /-- Position word copy B. -/
  b : Nat
  /-- Position word copy C. -/
  c : Nat
  /-- R460: token-digest slots that are not blank. -/
  tokens : Tbl TokSlot
  /-- R461: the trim words have been programmed all ones. -/
  trimsGone : Bool
  /-- R3, R4: the feature word is that of a KLS-T400-CX. -/
  cx : Bool
  /-- R432: TAMPER_COUNT. -/
  tamper : Nat
  /-- R425: the root secret. -/
  root : Option Nat
  /-- R425: the tray secret. -/
  tray : Option Nat
  /-- R431: the root secret was zeroised and M5 has not yet answered. -/
  zeroised : Bool
  /-- R428: the root secret was drawn after a zeroisation, so that chain C is presented in place of chain A. -/
  chainC : Bool
  /-- R455: tamper alarms raised on VBAT alone since 48 V was lost, oldest first. -/
  vbatAlarms : List Nat
  /-- R467: erase records written since manufacture. -/
  eraseSeq : Nat
  /-- R467: the erase record last committed. -/
  eraseRec : List Byte
  /-- R467: an erase record is due at M14: previous and new life-cycle code. -/
  eraseDue : Option (Nat × Nat)
  deriving DecidableEq, Repr

/-- A life-cycle command in progress (R465). -/
structure LcsCommand where
  /-- It came through the management port. -/
  mgt : Bool
  /-- TARGET -/
  target : Nat
  /-- The 32-byte token as a number. -/
  token : Nat
  deriving DecidableEq, Repr

/-- The LCS block and the debug facilities (chapter 18). -/
structure LcsState where
  /-- R470: LCS_STATE has been loaded at M1. -/
  loaded : Bool
  /-- The majority position read at M1. -/
  position : Nat
  /-- FAILS -/
  fails : Nat
  /-- TARGET of LCS_CMD. -/
  target : Nat
  /-- LCS_TOKEN words that are not 0. -/
  token : Tbl Nat
  /-- The command in progress. -/
  busy : Option LcsCommand
  /-- R469: OTP programming goes on. -/
  programming : Bool
  /-- STATUS -/
  status : Nat
  /-- REASON -/
  reason : Nat
  /-- R463: JTAG EXTEST is entered. -/
  extest : Bool
  /-- R467: HBM lines found poisoned at M11 of this sequence. -/
  poisoned : Nat
  deriving DecidableEq, Repr

end Sys2Proof
end

