-- ==== Sys2Proof/Machine/TypesWork.lean ====
section
/-!
DEFINITION. Sys2Proof/Machine/TypesWork.lean: the state of task graphs, launches and generations (chapter 05),
collective operations (chapter 13) and sample streams (chapter 15).
-/
namespace Sys2Proof

/-! ## Chapter 05 -/

/-- Task kinds (Table 05-3). -/
inductive TaskKind where
  | vector | matrix | service | move | join
  deriving DecidableEq, Repr

/-- Placement classes (Table 05-2). -/
inductive PlaceClass where
  | any | partition | cluster
  deriving DecidableEq, Repr

/-- A task record (Table 05-2). -/
structure TaskRec where
  /-- KIND -/
  kind : TaskKind
  /-- PLACE_CLASS -/
  place : PlaceClass
  /-- PROV -/
  prov : Bool
  /-- ENTRY_ACTION -/
  entry : Nat
  /-- EXIT_ACTION -/
  exit : Nat
  /-- PLACE_INDEX -/
  index : Nat
  /-- CODE_ENTRY -/
  code : Nat
  /-- IMM -/
  imm : Nat
  /-- COST_NS -/
  cost : Nat
  /-- IN_TOKEN[0 … N_IN − 1] -/
  ins : List Nat
  /-- OUT_TOKEN[0 … N_OUT − 1] -/
  outs : List Nat
  deriving DecidableEq, Repr

/-- Token kinds (Table 05-5). -/
inductive TokKind where
  | data | launch | event
  deriving DecidableEq, Repr

/-- A token record (Table 05-4). -/
structure TokRec where
  /-- KIND -/
  kind : TokKind
  /-- ARG_INDEX -/
  arg : Nat
  /-- OFFSET -/
  off : Nat
  /-- LENGTH -/
  len : Nat
  /-- PRODUCER -/
  producer : Nat
  deriving DecidableEq, Repr

/-- States of a task graph (Table 04-3). -/
inductive GraphState where
  | loading | loaded | aborting
  deriving DecidableEq, Repr

/-- A task graph (R117 to R122). -/
structure Graph where
  /-- Owning context slot. -/
  ctx : Nat
  /-- R83 -/
  state : GraphState
  /-- LENGTH of the binary. -/
  length : Nat
  /-- N_ARGS -/
  nArgs : Nat
  /-- The tasks. -/
  tasks : List TaskRec
  /-- The tokens. -/
  tokens : List TokRec
  /-- The code section. -/
  code : List Byte
  /-- R122: SHA-384 digest of the binary. -/
  digest : BitVec 384
  deriving DecidableEq, Repr

/-- The kinds of core (R129). -/
inductive CoreKind where
  | vector | matrix | service | mover
  deriving DecidableEq, Repr

/-- Where a task of a launch stands. -/
inductive TaskState where
  /-- Some input token is absent. -/
  | waiting
  /-- In a ready queue (R130), with its firing number. -/
  | ready (part fired : Nat)
  /-- In an overflow list (R130), with its firing number. -/
  | overflow (part fired : Nat)
  /-- Placed on a core (R131). -/
  | running (kind : CoreKind) (core : Nat)
  /-- Ended without failure on a core, its exit action running. -/
  | exiting (kind : CoreKind) (core : Nat)
  /-- Ended without failure. -/
  | ended
  /-- Ended with failure. -/
  | failed
  /-- Skipped: an input was present with error, or the launch was stopped. -/
  | skipped
  deriving DecidableEq, Repr

/-- A launch (R123 to R134). -/
structure Launch where
  /-- Model's number of the launch, in start order (R131). -/
  id : Nat
  /-- Context slot. -/
  ctx : Nat
  /-- Task-graph slot. -/
  graph : Nat
  /-- Descriptor: queue pair. -/
  qp : Nat
  /-- Descriptor: submission number. -/
  sub : Nat
  /-- R369: the schedule runner issued it; else a queue pair's descriptor. -/
  byRunner : Bool
  /-- Launch arguments (R120), handles. -/
  args : List Nat
  /-- ARGS object slot, if any: a launch uses it. -/
  argsObj : Option Nat
  /-- USER_TAG -/
  tag : Nat
  /-- GUARD event slot of a provisional launch. -/
  guard : Option Nat
  /-- R134: NO_FALLBACK. -/
  noFallback : Bool
  /-- Tokens present: with error or not. Absent tokens are not listed. -/
  toks : Tbl Bool
  /-- Tasks that have left the waiting state. -/
  tasks : Tbl TaskState
  /-- Tasks that ended without failure. -/
  nOk : Nat
  /-- Tasks that failed or were skipped. -/
  nBad : Nat
  /-- Fallback placements. -/
  nFall : Nat
  /-- Overruns. -/
  nOver : Nat
  /-- A task failed by poison. -/
  poisoned : Bool
  /-- A task failed otherwise. -/
  broken : Bool
  /-- R141, R142: the launch was stopped and its work removed. -/
  removed : Bool
  /-- R142: cancelled. -/
  cancelled : Bool
  /-- R139: the generation's outcome: committed. -/
  committed : Bool
  /-- R139: the generation's outcome: discarded. -/
  discarded : Bool
  /-- R140: conflict. -/
  conflict : Bool
  /-- R197, R208: flags of its tasks ORed together. -/
  flags : Nat
  /-- R193, R195: MODE of the context as the launch started: stepped. -/
  stepped : Bool
  /-- R193: K_launch of the lane generator. -/
  key : BitVec 64
  deriving DecidableEq, Repr

/-- Stages of a generation (R139). -/
inductive GenState where
  /-- Outstanding. -/
  | open
  /-- Outcome commit, commit point not yet chosen. -/
  | committing
  /-- Resolved; version space not yet returned. -/
  | resolved
  deriving DecidableEq, Repr

/-- A provisional generation (R135 to R140). -/
structure Generation where
  /-- Number in the context, in opening order. -/
  id : Nat
  /-- Context slot. -/
  ctx : Nat
  /-- Its launch. -/
  launch : Nat
  /-- Guard event slot. -/
  guard : Nat
  /-- R139 -/
  state : GenState
  /-- R140 -/
  conflict : Bool
  /-- R137: bytes of version space reserved. -/
  space : Nat
  /-- Versions: granules (object slot × 2^24 + granule number) the generation holds a version of. -/
  versions : List Nat
  /-- Bytes of the versions that differ from what they started from, by memory key. -/
  bytes : Tbl Byte
  deriving DecidableEq, Repr

/-- Who reads or writes memory: a task of a launch, a descriptor, or a device block (R136, R139). -/
inductive Accessor where
  /-- Task `t` of launch `l`. -/
  | task (l t : Nat)
  /-- A descriptor, by queue pair and submission number. -/
  | desc (qp sub : Nat)
  /-- A collective engine, for an operation. -/
  | coll (op : Nat)
  /-- The ingest block, a checkpoint or firmware. -/
  | block
  deriving DecidableEq, Repr

/-- Old committed bytes kept for readers that started before a commit point (R139). -/
structure OldVersion where
  /-- The generation that committed. -/
  gen : Nat
  /-- The granules it replaced. -/
  granules : List Nat
  /-- Their bytes where the commit changed them, by memory key. -/
  bytes : Tbl Byte
  /-- Readers that started before the commit point and have not ended. -/
  readers : List Accessor
  deriving DecidableEq, Repr

/-- Task graphs, launches and generations (chapter 05). -/
structure TskState where
  /-- Task graphs by slot. -/
  graphs : Tbl Graph
  /-- Running launches, in start order. -/
  launches : List Launch
  /-- Next launch number. -/
  nextLaunch : Nat
  /-- Next firing number (R131: earlier firing first). -/
  nextFire : Nat
  /-- Generations, oldest first. -/
  gens : List Generation
  /-- Next generation number. -/
  nextGen : Nat
  /-- Old committed granules awaiting their last reader. -/
  olds : List OldVersion
  /-- R131: weighted round-robin position of each partition: function and turns left. -/
  wrr : Tbl (Nat × Nat)
  deriving DecidableEq, Repr

/-! ## Chapter 13 -/

/-- A triggered-operation record (Table 13-2), after clamping. -/
structure OpRec where
  /-- KIND -/
  kind : Nat
  /-- DTYPE -/
  dtype : Nat
  /-- OUT_TYPE -/
  outType : Nat
  /-- RED -/
  red : Nat
  /-- PARTITION applied -/
  part : Nat
  /-- ENGINE_MASK applied -/
  mask : Nat
  /-- ROOT -/
  root : Nat
  /-- TRIGGER event slot -/
  trigger : Nat
  /-- THRESHOLD -/
  threshold : Nat
  /-- COMPLETE event slot -/
  complete : Option Nat
  /-- GROUP -/
  group : Nat
  /-- TAG -/
  tag : Nat
  /-- COUNT -/
  count : Nat
  /-- SRC object slot -/
  src : Nat
  /-- SRC_OFFSET -/
  srcOff : Nat
  /-- DST object slot -/
  dst : Option Nat
  /-- DST_OFFSET -/
  dstOff : Nat
  /-- EXP object slot -/
  exp : Option Nat
  /-- EXP_OFFSET -/
  expOff : Nat
  /-- STATUS object slot -/
  status : Option Nat
  /-- STATUS_OFFSET -/
  statusOff : Nat
  /-- SEG_ELEMS applied (R351) -/
  seg : Nat
  /-- TIMEOUT_MS -/
  timeout : Nat
  deriving DecidableEq, Repr

/-- An element's accumulator in an open segment. -/
inductive Acc where
  /-- Fixed-window integer with markers NAN, POS_INF, NEG_INF in bits 0 to 2 (R355). -/
  | win (q : Int) (marks : Nat)
  /-- FP32 bits of an ARRIVAL sum, MAX or MIN (R358); none before the first contribution. -/
  | fp (v : Option Nat)
  /-- A two's-complement 16-bit MAX or MIN. -/
  | int (v : Option Int)
  deriving DecidableEq, Repr

/-- An open or finished segment of an operation (R346, R347). -/
structure Seg where
  /-- Engine that holds it. -/
  engine : Nat
  /-- Agreed exponent (R354), for a fixed-window sum. -/
  exp : Option Int
  /-- EXP contributions received: rank and exponent. -/
  exps : Tbl Int
  /-- Chunks received, by rank × 64 + chunk (R359). -/
  got : List Nat
  /-- Accumulators by element of the segment. -/
  acc : List Acc
  /-- WINDOW128 chunks received and not yet added, by rank × 64 + chunk. -/
  buf : Tbl (List Byte)
  /-- GO has been sent (opened). -/
  opened : Bool
  /-- Written to DST and closed. -/
  closed : Bool
  /-- Resends so far. -/
  resends : Nat
  deriving DecidableEq, Repr

/-- Where a triggered operation stands. -/
inductive OpState where
  /-- Posted, waiting to fire. -/
  | pending
  /-- Fired, waiting in an engine's queue. -/
  | queued
  /-- Running. -/
  | running
  deriving DecidableEq, Repr

/-- A triggered operation in a slot (R338 to R342). -/
structure TrigOp where
  /-- Model's number, in post order. -/
  id : Nat
  /-- Context slot. -/
  ctx : Nat
  /-- The record. -/
  op : OpRec
  /-- OP_SEQ (R340). -/
  seq : Nat
  /-- Signature (R344). -/
  sig : Nat
  /-- R341 -/
  state : OpState
  /-- R336: engine whose queue it waits in or that serves it first. -/
  engine : Nat
  /-- ABORT received before the fire (R362): rank. -/
  preAbort : Option Nat
  /-- Segments by number. -/
  segs : Tbl Seg
  /-- Ranks a DONE has arrived from. -/
  dones : List Nat
  /-- Ranks a READY has arrived from. -/
  readys : List Nat
  /-- Ranks this member has sent its part to. -/
  sentTo : List Nat
  /-- Ranks whose part this member has received whole, with bytes received so far. -/
  recvd : Tbl Nat
  /-- Gather phase of an ALL_REDUCE has begun. -/
  gathering : Bool
  /-- BYTES_SENT -/
  bytes : Nat
  /-- FLAGS of Table 13-5. -/
  flags : Nat
  /-- R353: runs through a switch. -/
  viaSwitch : Bool
  /-- Control packets not acknowledged: SUBTYPE × 1,024 + rank, with resends. -/
  unacked : Tbl Nat
  /-- Control packets a BUSY has refused, as in `unacked`. -/
  busy : List Nat
  /-- R341: firing number of a fired operation. -/
  fired : Nat
  /-- A range was changed or destroyed since the post (R362). -/
  access : Bool
  deriving DecidableEq, Repr

/-- A control packet held for an OP_SEQ not yet fired (R345). -/
structure HeldCtl where
  /-- SUBTYPE -/
  sub : Nat
  /-- Sender's rank. -/
  rank : Nat
  /-- OP_SEQ -/
  seq : Nat
  /-- Signature -/
  sig : Nat
  /-- First segment. -/
  first : Nat
  /-- Exponents or segment count carried. -/
  vals : List Int
  deriving DecidableEq, Repr

/-- A collective group (R343, R344). -/
structure Group where
  /-- Context slot. -/
  ctx : Nat
  /-- GROUP_TAG -/
  tag : Nat
  /-- Node IDs by rank. -/
  members : List Nat
  /-- Own rank. -/
  rank : Nat
  /-- SWITCH_NODE, none for 0xFF_FFFF. -/
  switch : Option Nat
  /-- Signature base. -/
  base : Nat
  /-- Next OP_SEQ. -/
  nextSeq : Nat
  /-- Hold table (R345), at most 64. -/
  held : List HeldCtl
  deriving DecidableEq, Repr

/-- A collective engine's counters (Tables 13-12 to 13-15). -/
structure ColEngine where
  /-- TX_BYTES -/
  tx : Nat
  /-- RX_BYTES -/
  rx : Nat
  /-- ABORTS -/
  aborts : Nat
  /-- RESENDS -/
  resends : Nat
  deriving DecidableEq, Repr

/-- A switch's CAPS on an optical port (R352). -/
structure SwCaps where
  /-- TYPES: bit 0 FP32 sum, bit 1 BF16 sum. -/
  types : Nat
  /-- MAX_MEMBERS -/
  maxMembers : Nat
  /-- RED_MEM_KIB -/
  memKib : Nat
  deriving DecidableEq, Repr

/-- Collectives (chapter 13). -/
structure ColState where
  /-- COL_CFG.SWITCH_EN -/
  switchEn : Bool
  /-- COL_CFG.RESEND_LIMIT -/
  resendLimit : Nat
  /-- COL_CFG.RESEND_MS -/
  resendMs : Nat
  /-- Posted operations, in post order. -/
  ops : List TrigOp
  /-- Next operation number. -/
  nextOp : Nat
  /-- Groups by index. -/
  groups : Tbl Group
  /-- Engine counters. -/
  engines : Tbl ColEngine
  /-- COL_SW_CAPS by optical port 0 to 7. -/
  caps : Tbl SwCaps
  deriving DecidableEq, Repr

/-! ## Chapter 15 -/

/-- States of a stream (Table 15-11). -/
inductive StreamState where
  | closed | opening | flowing | holding | draining | closing | failed
  deriving DecidableEq, Repr

/-- A record as landed (R388, R396): a sample, or a gap. -/
structure SampleRec where
  /-- First SSN it stands for. -/
  ssn : Nat
  /-- SSNs it stands for: 1 for a sample, COUNT for a gap. -/
  count : Nat
  /-- A gap record. -/
  gap : Bool
  /-- Its bytes, a multiple of 64. -/
  bytes : List Byte
  deriving DecidableEq, Repr

/-- A landing buffer with the records it holds; a gap that stands for a lost buffer holds no buffer. -/
structure LandBuf where
  /-- Buffer number. -/
  buf : Option Nat
  /-- Records, oldest first. -/
  recs : List SampleRec
  deriving DecidableEq, Repr

/-- A record on its way in (R389). -/
structure PartRec where
  /-- SSN -/
  ssn : Nat
  /-- Bytes of the whole record. -/
  size : Nat
  /-- It goes to the escape lane. -/
  escape : Bool
  /-- Bytes received. -/
  bytes : List Byte
  deriving DecidableEq, Repr

/-- A sample stream (chapter 15). -/
structure Stream where
  /-- STATE -/
  state : StreamState
  /-- Context slot. -/
  ctx : Nat
  /-- Descriptor that opens or closes it: queue pair and submission number. -/
  desc : Option (Nat × Nat)
  /-- SERVER -/
  server : Nat
  /-- ALLOW_PLAIN -/
  allowPlain : Bool
  /-- DEST object slot -/
  dest : Nat
  /-- LANDED event slot -/
  landedEv : Nat
  /-- CONSUMED event slot -/
  consumedEv : Nat
  /-- RATE_MBPS -/
  rate : Nat
  /-- STOP_US -/
  stopUs : Nat
  /-- BUF_CAP -/
  bufCap : Nat
  /-- START_SSN -/
  startSsn : Nat
  /-- SOURCE_ID -/
  sourceId : Nat
  /-- RTT_US -/
  rtt : Nat
  /-- Allowance A in bytes. -/
  allow : Nat
  /-- Position landed in DEST. -/
  landed : Nat
  /-- Consumed position. -/
  consumed : Nat
  /-- Boundaries of records written to DEST and not yet consumed: end position, SSNs as sample, SSNs as gap. -/
  bounds : List (Nat × Nat × Nat)
  /-- SAMPLES consumed. -/
  samples : Nat
  /-- GAPPED consumed. -/
  gapped : Nat
  /-- Next expected SSN on arrival. -/
  nextSsn : Nat
  /-- Next expected data packet count. -/
  nextTxn : Nat
  /-- The record in progress. -/
  partly : Option PartRec
  /-- The buffer being filled. -/
  current : Option LandBuf
  /-- Buffers handed off to the mover, oldest first. -/
  handed : List LandBuf
  /-- Records in the escape lane, oldest first. -/
  escape : List SampleRec
  /-- Bytes received since the HOLD. -/
  runOn : Nat
  /-- The HOLD's run-on has been counted in OVERRUNS. -/
  overrun : Bool
  /-- A HOLD (true) or RESUME (false) waits for its acknowledgement. -/
  awaiting : Option Bool
  /-- Sends of it so far. -/
  sends : Nat
  /-- Time of the last OPEN sent. -/
  openAt : Nat
  /-- OPEN or CLOSE sends. -/
  ctlSends : Nat
  /-- CLOSE_ACK has arrived, or the closes are spent. -/
  closeDone : Bool
  /-- STREAM_CLOSE with DISCARD = 1. -/
  discard : Bool
  /-- Records discarded by the close. -/
  discarded : Nat
  /-- GAPS -/
  gaps : Nat
  /-- OVERRUNS -/
  overruns : Nat
  /-- HOLDS -/
  holds : Nat
  deriving DecidableEq, Repr

/-- The ingest block (chapter 15). -/
structure IngState where
  /-- R386: the reservation is held. -/
  held : Bool
  /-- Landing clusters of the reservation; cluster number i of the list holds buffers 32i to 32i + 31. -/
  clusters : List Nat
  /-- Escape-lane cluster. -/
  escapeCluster : Nat
  /-- IDLE_FLUSH_US -/
  idleUs : Nat
  /-- Streams by number. -/
  streams : Tbl Stream
  /-- Streams that have closed, for their data position. -/
  closed : Tbl Stream
  /-- Buffers the mover has emptied, not yet freed. -/
  emptied : List Nat
  deriving DecidableEq, Repr

end Sys2Proof
end

