-- ==== Sys2Proof/Machine/State.lean ====
section
/-!
DEFINITION. Sys2Proof/Machine/State.lean: the whole state of the block as plain data, its value at input power-on,
and the ways a step can stop.
-/
namespace Sys2Proof.Machine

/-- What stops the machine with a fault: nothing. Every fault of the manual is an effect on State (chapter 19). -/
inductive Fault where
  deriving DecidableEq, Repr

/-- Why a command has no meaning. -/
inductive Refusal where
  /-- Raised by the dispatcher for a command not modelled yet; safe. -/
  | notModelled (mnemonic : String)
  deriving DecidableEq, Repr

/-- What survives the loss of input power: the record store, the logbook, retirements, firmware copies and OTP. -/
structure NvState where
  /-- R512: the logbook. -/
  log : LogStore
  /-- R498: MARGIN_PLAN record. -/
  planRec : TwoBank MarginPlan
  /-- R507: LEDGER record. -/
  ledgerRec : TwoBank LedgerRec
  /-- R506: PERIODS record: entries and INTERVAL_MIN. -/
  periodsRec : TwoBank (Tbl Period × Nat)
  /-- R501: clusters retired for the life of the module. -/
  retired : List Nat
  /-- R258: repair records by stack. -/
  repair : Tbl RepairRec
  /-- R425, R432, R458: OTP words and the battery-backed key store. -/
  otp : OtpState
  /-- R222: firmware copies, floor and revocation bits. -/
  fw : FwStore
  deriving DecidableEq, Repr

/-- The state of the block. -/
structure State where
  /-- The queue of commands waiting, first in, first out (the model's own). -/
  pending : List Instr
  /-- What the block has sent out, newest first (the model's own). -/
  out : List Output
  /-- How many free values have been taken (the model's own). -/
  draws : Nat
  /-- Nanoseconds since input power-on, the model's clock (the model's own). -/
  now : Nat
  /-- R538: held low halves of 64-bit registers. -/
  hold64 : List (Reg × Word)
  /-- R538: latched high halves of 64-bit registers. -/
  latch64 : List (Reg × Word)
  /-- Chapter 01. -/
  mod : ModuleState
  /-- Chapter 02. -/
  clk : ClkState
  /-- Chapter 19. -/
  flt : FltState
  /-- Chapter 21. -/
  mgt : MgtState
  /-- Chapter 20: the logbook's volatile part. -/
  log : LogState
  /-- Chapter 20: the owl. -/
  owl : OwlState
  /-- Chapter 20: power limiter and periods. -/
  pwr : PwrState
  /-- Chapter 20: ledger. -/
  led : LedgerState
  /-- What survives power loss. -/
  nv : NvState
  /-- Chapter 03. -/
  hif : HifState
  /-- Chapter 04: rings, descriptors, attention, slots. -/
  cmd : CmdState
  /-- Chapter 04: contexts by slot. -/
  ctxs : Tbl Ctx
  /-- Chapter 04, 09: memory objects by slot. -/
  mems : Tbl MemObj
  /-- Chapter 04: events by slot. -/
  evs : Tbl Event
  /-- Contents of memory objects: key slot × 2^40 + offset; an unlisted byte reads 0. -/
  mem : List Host.Cell
  /-- R253: poisoned lines of memory objects: key slot × 2^34 + line. -/
  poison : Tbl Poison
  /-- Chapter 05. -/
  tsk : TskState
  /-- Chapter 09. -/
  hbm : MemState
  /-- Chapter 10. -/
  ime : ImeState
  /-- Chapter 11. -/
  lnk : LnkState
  /-- Chapter 12. -/
  wmk : WmkState
  /-- Chapter 13. -/
  col : ColState
  /-- Chapter 14: loaded schedules and their runners by context slot. -/
  runners : Tbl Runner
  /-- Chapter 14: admissions under way, in start order. -/
  admits : List Admission
  /-- Chapter 15. -/
  ing : IngState
  /-- Chapter 16. -/
  ckp : CkpState
  /-- Chapter 17. -/
  sec : SecState
  /-- Chapter 18. -/
  lcs : LcsState
  /-- Chapter 06. -/
  mxe : MxeState
  /-- Chapter 08: vector cores. -/
  vcu : VcuState
  /-- Chapter 08: service cores and firmware. -/
  svc : SvcState
  deriving DecidableEq, Repr

/-- The OWL block at reset (Tables 20-3, 20-11 to 20-18). -/
def OwlState.init : OwlState :=
  { factory := false, alarms := 0, replans := 0, replanning := none, clu := [], volts := [0, 0, 0, 0]
    polReq := [0, 0, 0, 0, 100, 100], polApplied := [0, 0, 0, 0, 100, 100], polOvr := 0
    polClear := [0, 0, 0, 0, 0, 0], ageing := [], eye := [], eqAdapting := []
    refresh := [100, 100, 100, 100, 100, 100, 100, 100] }

/-- The PWR block at reset (Tables 20-19 to 20-24). -/
def PwrState.init : PwrState :=
  { powerW := 0, cap := 2400, intervalMin := 15, intervalPending := none, periods := [], limMx := 1700
    limVc := 2000, limGaps := 0, inForce := none }

/-- The host link block at chip reset (R76, Tables 03-2, 03-3). -/
def HifState.init : HifState :=
  { numVfs := 0, vfEnable := false, vfBarMib := 1, vfs := [], tdi := .unlocked, ide := [], spdmSecured := false
    msix := [], msixPending := [], dirty := [], quarantine := 0, vfRecords := [] }

/-- Slots in index order, none used since the chip reset (R79). -/
def SlotPool.init : SlotPool := { fresh := 0, freed := [] }

/-- The command block at chip reset (R116). -/
def CmdState.init : CmdState :=
  { qps := [], pages := [], descs := [], att := [], hearts := [], remotes := [], fetchTurn := (0, 0)
    fetchLast := [], ctxSlots := SlotPool.init
    memSlots := SlotPool.init, evSlots := SlotPool.init, keySlots := SlotPool.init, graphSlots := SlotPool.init }

/-- Task graphs, launches and generations at chip reset (R141). -/
def TskState.init : TskState :=
  { graphs := [], launches := [], nextLaunch := 0, nextFire := 0, gens := [], nextGen := 0, olds := [], wrr := [] }

/-- The COL block at reset (Tables 13-10 to 13-16). -/
def ColState.init : ColState :=
  { switchEn := true, resendLimit := 3, resendMs := 1, ops := [], nextOp := 0, groups := [], engines := [], caps := [] }

/-- The ING block at reset (Tables 15-9 to 15-13). -/
def IngState.init : IngState :=
  { held := false, clusters := [], escapeCluster := 0, idleUs := 10, streams := [], closed := []
    emptied := [] }

/-- The CKP block at reset (Tables 16-12 to 16-16). -/
def CkpState.init : CkpState :=
  { waitS := 60, enable := false, gib := 0, src := 0, pend := none, region := [], slotA := none, slotB := none
    lastB := false, ctxs := [], xfers := [], nextTxn := 0, lastT := none, skipped := 0, failed := 0, done := 0
    bytesOut := 0 }

/-- The management port at input power-on and MOD_RESET_N (Tables 21-5 to 21-7). -/
def MgtState.init : MgtState :=
  { dynAddr := none, ibiEn := false, ibiReq := false, alerts := [], i3c := { req := none, resp := none }
    uart := { req := none, resp := none }, uartRx := [], uartIdleWait := false, uartFraming := 0, crcFails := 0
    discarded := 0, trayCap := 0, running := none }

/-- The FLT block at input power-on (R494). -/
def FltState.init : FltState :=
  { ring := [], records := 0, sel := 0, cmdLevel := 0, cmdUnit := 0, resBusy := none, resStatus := 0, chipResets := 0
    partResets := 0, engResets := 0, haltCause := 0, haltQuiet := false, engines := [], parts := [], faultResets := []
    masked := [] }

/-- The boot controller at input power-on (Tables 02-5, 02-6, 02-8). -/
def ClkState.init : ClkState :=
  { phase := .waiting, warm := false, attempt := 0, milestone := 0, progress := 0, hostLinkLate := false, inL0 := false
    paused := false, partOffline := 0, faultMilestone := 0, faultCause := 0, faultCount := 0, faultProgress := 0
    faultCopyDue := false, lock := false, scale := 0, scalePending := none, resetClass := 0, dueRetired := []
    dueFactory := false }

/-- The module before VIN48 rises: power off, straps not sampled, pins at their pulls (R16, R28). -/
def ModuleState.init : ModuleState :=
  { phase := .off, inputSwitch := false, pwrGood := false, aoFrom48 := false, vbatMv := 3000, strapsSampled := false
    strapRole := 0, strapSlot := 0, strapBoard := 0, perstN := false, modResetN := true, failStopped := false
    failCommitted := false, earlyFail := false, loopMissA := 0, loopMissB := 0, loopCode := 0, meshMiss := 0
    thermalStage := 0, tripped := false, hottest := 0, inlet := 0, outlet := 0, inletOver := false }

/-- The logbook as manufactured (R512). -/
def LogStore.init : LogStore :=
  { blocks := [[]], openPages := 0, dataBlocks := 3840, spares := 256, nextSeq := 0, state := 0 }

/-- The logbook's volatile part before M14 (R519). -/
def LogState.init : LogState := { mounted := false, buffer := [], waiting := [], retries := 0, dropped := 0 }

/-- The ledger as manufactured (R505 to R508). -/
def LedgerState.init : LedgerState :=
  { time := 0, totals := [], energy := 0, peakAvg := [], openIv := none, ring := [], nextIndex := 0, restart := true
    secTicks := 0, secEnergy := 0 }

/-- The memory blocks at reset (Tables 09-11 to 09-22). -/
def MemState.init : MemState :=
  { clu := [], cache := [], stk := [], periodH := 24, poisonOverflow := false, allocs := [], rules := [], fences := []
    nextReq := 0 }

/-- A cluster store at reset (Tables 09-11 to 09-16). -/
def CluStore.init : CluStore :=
  { cacheSegs := 8, pend := none, deviceSegs := 0, uncorrected := 0, corrected := 0, hits := 0, misses := 0, spilled := 0 }

/-- A stack at reset (Tables 09-19 to 09-22). -/
def Stack.init : Stack :=
  { state := 0, waiting := [], slots := [], pointer := 0, uncorrected := 0, corrected := 0, passes := 0, chunk := 0
    appliedLast := 0, passChunks := [], passLines := [], lastLines := [], rewrite := [] }

/-- A repair record as manufactured (R258). -/
def RepairRec.init : RepairRec := { queue := [], remaps := 0, retired := [], reservedOut := [] }

/-- The IME block at reset (Tables 10-9 to 10-12). -/
def ImeState.init : ImeState := { layout := .plain, keys := [], epochs := [], ciphers := [], zeroing := [] }

/-- A cipher engine at reset. -/
def Cipher.init : Cipher := { list := [], leftUnwritten := 0, tagReads := 0, merges := 0 }

/-- The LNK block at reset (Tables 11-13 to 11-23): LNK_CFG reads 0x0052_1216. -/
def LnkState.init : LnkState :=
  { stallMs := 5, wB := 2, wQ := 1, wS := 2, boardDirect := true, hopLimit := 6, table := 0, index := 0, entry := 0
    routes := [], ports := [] }

/-- The WMK block at reset (Tables 12-6 to 12-17): WMK_MGR_CFG reads 0x0000_0328. -/
def WmkState.init : WmkState :=
  { tb := 0, slew := 0, slewCount := 0, synced := false, wasSynced := false, good := 0, errBound := 0, syncSent := none, step := 0
    applied := 0, role := .worker, term := 0, manager := none, rival := none, beaconing := false, heard := [], standby := none
    announces := 0, lossPosted := false
    cfg := { top := false, prio := 8, cands := [0, 0, 0, 0, 0, 0, 0, 0], parent := 0 }
    cfgPend := none, ppsEn := false, lead := 50, planBase := 0, planStatus := 0, takeover := false, plan := none
    treePort := none, view := [], children := [], childrenIn := [], arrived := false, forwarded := false, arriveHeld := false
    advance := none, copyStep := 0, copyArrived := [], arriveEv := none, advanceEv := none, arriveDue := false
    takeovers := 0, ppsIgnored := 0, repeatArrive := 0, late := 0 }

/-- The SEC block at input power-on (Tables 17-15, 17-16). -/
def SecState.init : SecState :=
  { session := .none_, config := none, sessDesc := none, kaKey := none, attKey := none, alias_ := false
    shareMask := 0, reports := 0, graphChain := 0, nGraphs := 0, weightChain := 0, nWeights := 0, refusals := []
    keys := [], contribMap := [], slog := [], pk := [], entropyOk := true, alarmCount := 0, alarmLast := 0
    alarmDue := none }

/-- The LCS block at reset (Tables 18-8 to 18-12). -/
def LcsState.init : LcsState :=
  { loaded := false, position := 0, fails := 0, target := 0, token := [], busy := none, programming := false
    status := 0, reason := 0, extest := false, poisoned := 0 }

/-- Position 15, PRODUCTION with k = 0: the state in which modules leave the factory (R3, R458). -/
def OtpState.init : OtpState :=
  { a := 0x7FFF, b := 0x7FFF, c := 0x7FFF
    tokens := [(0, .ones), (1, .ones), (2, .ones), (3, .ones), (4, .ones), (5, .ones), (6, .ones),
      (7, .digest (Config.tokenDigest 7)), (8, .digest (Config.tokenDigest 8)), (9, .digest (Config.tokenDigest 9)),
      (10, .digest (Config.tokenDigest 10))]
    trimsGone := false, cx := true, tamper := 0, root := some (Config.rootSecret 0), tray := none
    zeroised := false, chainC := false, vbatAlarms := [], eraseSeq := 0, eraseRec := [], eraseDue := none }

/-- A firmware copy as manufactured: a bare header of the format of Table 08-9 (DESIGN CHOICE, log 30). -/
def FwCopy.init : FwCopy :=
  { image := leBytes 4 0x46575431 ++ leBytes 252 0, failing := false, short := false, passed := (true, true) }

/-- The firmware region as manufactured. -/
def FwStore.init : FwStore := { a := FwCopy.init, b := FwCopy.init, floor := 0, revoked := 0 }

/-- The MXE block at reset (Tables 06-13 to 06-22). -/
def MxeState.init : MxeState := { rampStarts := 4, pend := none, engines := [] }

/-- A matrix engine at reset. -/
def Engine.init : Engine :=
  { phase := .idle, groups := 0, want := none, run := none, staged := none, mask := 0, uncorrected := 0, corrected := 0
    flags := 0, validWf := 0, dummyWf := 0, stall := 0 }

/-- The vector cores at reset (Tables 08-12 to 08-15). -/
def VcuState.init : VcuState := { cores := [], clu := [], epoch := 0 }

/-- A vector core at reset. -/
def VCore.init : VCore := { threads := [], lines := [] }

/-- A cluster's part of the VCU block at reset. -/
def VcuClu.init : VcuClu := { mask := 0, uncorrected := 0, corrected := 0, alu := 0, busy := 0 }

/-- The SVC block at reset (Tables 08-16 to 08-19). -/
def SvcState.init : SvcState :=
  { running := false, active := false, aFailed := false, bFailed := false, version := 0, digest := 0, userEn := 0
    userKeys := [], pend := [], cores := [], phys := [] }

/-- A service core at reset. -/
def SvcCore.init : SvcCore :=
  { task := none, x := [], resv := none, dirty := [], trap := none, resets := 0, times := [] }

/-- What survives power loss, as manufactured. -/
def NvState.init : NvState :=
  { log := LogStore.init, planRec := { a := none, b := none }, ledgerRec := { a := none, b := none }
    periodsRec := { a := none, b := none }, retired := [], repair := [], otp := OtpState.init, fw := FwStore.init }

/-- The block at input power-on, before VIN48 rises: every field at its reset value. -/
def State.reset : State :=
  { pending := [], out := [], draws := 0, now := 0, hold64 := [], latch64 := [], mod := ModuleState.init
    clk := ClkState.init, flt := FltState.init, mgt := MgtState.init, log := LogState.init, owl := OwlState.init
    pwr := PwrState.init, led := LedgerState.init, nv := NvState.init, hif := HifState.init, cmd := CmdState.init
    ctxs := [], mems := [], evs := [], mem := [], poison := [], tsk := TskState.init, hbm := MemState.init
    ime := ImeState.init, lnk := LnkState.init, wmk := WmkState.init, col := ColState.init, runners := [], admits := [], ing := IngState.init, ckp := CkpState.init, sec := SecState.init
    lcs := LcsState.init, mxe := MxeState.init, vcu := VcuState.init, svc := SvcState.init }

end Sys2Proof.Machine
end

