-- ==== Sys2Proof/Machine/Ops.lean ====
section
/-!
DEFINITION. Sys2Proof/Machine/Ops.lean: the named operations every meaning is written over: the outbox, free values,
memory contents with poison and versions, attention, alerts, the logbook and fault records.
-/
namespace Sys2Proof.Machine

/-! ## Changing one part of the state -/

/-- Change `mod`. -/
def modMod (f : ModuleState → ModuleState) (s : State) : State := { s with mod := f s.mod }

/-- Change `clk`. -/
def modClk (f : ClkState → ClkState) (s : State) : State := { s with clk := f s.clk }

/-- Change `flt`. -/
def modFlt (f : FltState → FltState) (s : State) : State := { s with flt := f s.flt }

/-- Change `mgt`. -/
def modMgt (f : MgtState → MgtState) (s : State) : State := { s with mgt := f s.mgt }

/-- Change `log`. -/
def modLog (f : LogState → LogState) (s : State) : State := { s with log := f s.log }

/-- Change `owl`. -/
def modOwl (f : OwlState → OwlState) (s : State) : State := { s with owl := f s.owl }

/-- Change `pwr`. -/
def modPwr (f : PwrState → PwrState) (s : State) : State := { s with pwr := f s.pwr }

/-- Change `led`. -/
def modLed (f : LedgerState → LedgerState) (s : State) : State := { s with led := f s.led }

/-- Change `nv`. -/
def modNv (f : NvState → NvState) (s : State) : State := { s with nv := f s.nv }

/-- Change `hif`. -/
def modHif (f : HifState → HifState) (s : State) : State := { s with hif := f s.hif }

/-- Change `cmd`. -/
def modCmd (f : CmdState → CmdState) (s : State) : State := { s with cmd := f s.cmd }

/-- Change `tsk`. -/
def modTsk (f : TskState → TskState) (s : State) : State := { s with tsk := f s.tsk }

/-- Change `col`. -/
def modCol (f : ColState → ColState) (s : State) : State := { s with col := f s.col }

/-- Change `ing`. -/
def modIng (f : IngState → IngState) (s : State) : State := { s with ing := f s.ing }

/-- Change `hbm`. -/
def modHbm (f : MemState → MemState) (s : State) : State := { s with hbm := f s.hbm }

/-- Change `ime`. -/
def modIme (f : ImeState → ImeState) (s : State) : State := { s with ime := f s.ime }

/-- Change `wmk`. -/
def modWmk (f : WmkState → WmkState) (s : State) : State := { s with wmk := f s.wmk }

/-- Change `lnk`. -/
def modLnk (f : LnkState → LnkState) (s : State) : State := { s with lnk := f s.lnk }

/-- Change `lcs`. -/
def modLcs (f : LcsState → LcsState) (s : State) : State := { s with lcs := f s.lcs }

/-- Change `mxe`. -/
def modMxe (f : MxeState → MxeState) (s : State) : State := { s with mxe := f s.mxe }

/-- Change `vcu`. -/
def modVcu (f : VcuState → VcuState) (s : State) : State := { s with vcu := f s.vcu }

/-- Change `svc`. -/
def modSvc (f : SvcState → SvcState) (s : State) : State := { s with svc := f s.svc }

/-- Change `ckp`. -/
def modCkp (f : CkpState → CkpState) (s : State) : State := { s with ckp := f s.ckp }

/-- Change `sec`. -/
def modSec (f : SecState → SecState) (s : State) : State := { s with sec := f s.sec }

/-! ## Outbox, free values, time -/

/-- Send something out. -/
def emit (o : Output) (s : State) : State := { s with out := o :: s.out }

/-- The next free value (the manual leaves it open); nothing constrains it. -/
def freeNow (s : State) : Nat := Config.freeValue s.draws

/-- Move on past a free value. -/
def tookFree (s : State) : State := { s with draws := s.draws + 1 }

/-- A free value of `n` bits drawn at offset `k` from the present count (used with `tookFree`). -/
def freeBits (s : State) (n : Nat) : Nat := freeNow s % 2 ^ n

/-- The 1 GHz time base (R314). -/
def timeBase (s : State) : Nat := s.wmk.tb

/-! ## Partitions, stacks and clusters -/

/-- Is partition `p` offline (R481)? -/
def partOff (s : State) (p : Nat) : Bool := bitOf s.clk.partOffline p

/-- Is partition `p` under reset (R480)? -/
def partInReset (s : State) (p : Nat) : Bool := s.flt.parts.any fun e => e.1 = p

/-- Is cluster `c` retired for the life of the module (R501)? -/
def cluRetired (s : State) (c : Nat) : Bool := s.nv.retired.contains c

/-- Is cluster `c` in service: not retired, its partition online (R129)? -/
def cluInService (s : State) (c : Nat) : Bool := !cluRetired s c && !partOff s (c / 16)

/-- Is stack `k` offline with its partition (R481, Table 00-4)? -/
def stackOff (s : State) (k : Nat) : Bool := partOff s (k / 2)

/-! ## Memory contents -/

/-- Key of a byte of a memory object. -/
def memKey (slot off : Nat) : Nat := slot * 2 ^ 40 + off

/-- Key of a 64 B line of a memory object. -/
def lineKey (slot off : Nat) : Nat := slot * 2 ^ 34 + off / 64

/-- Key of a 64 KiB granule of a memory object (R136). -/
def granKey (slot off : Nat) : Nat := slot * 2 ^ 24 + off / 65536

/-- What a cell list holds at a key; an unlisted byte reads 0 (R74: granules are zeroed before use). -/
def cellGet : List Host.Cell → Nat → Byte
  | [], _ => 0
  | (j, b) :: t, k => if j = k then b else cellGet t k

/-- Put a byte, keeping the canonical form: keys rising, no zero listed. -/
def cellPut : List Host.Cell → Nat → Byte → List Host.Cell
  | [], k, b => if b = 0 then [] else [(k, b)]
  | (j, c) :: t, k, b =>
    if k < j then (if b = 0 then (j, c) :: t else (k, b) :: (j, c) :: t)
    else if j = k then (if b = 0 then t else (k, b) :: t)
    else (j, c) :: cellPut t k b

/-- The canonical form of memory: keys strictly rising from a bound, no zero listed. -/
def cellsWfFrom : Nat → List Host.Cell → Bool
  | _, [] => true
  | lo, (k, b) :: t => decide (lo ≤ k) && decide (b ≠ 0) && cellsWfFrom (k + 1) t

/-- Memory is in canonical form. -/
abbrev Memory.wf (m : List Host.Cell) : Prop := cellsWfFrom 0 m = true

/-- Forget every byte with a key in `lo … hi − 1`. -/
def cellsDrop (lo hi : Nat) (m : List Host.Cell) : List Host.Cell := m.filter fun c => c.1 < lo || hi ≤ c.1

/-- The launch of a number. -/
def findLaunch (s : State) (l : Nat) : Option Launch := s.tsk.launches.find? fun (x : Launch) => x.id = l

/-- The graph of a launch. -/
def launchGraph (s : State) (x : Launch) : Option Graph := tget s.tsk.graphs x.graph

/-- The record of a task of a launch. -/
def taskRec (s : State) (x : Launch) (t : Nat) : Option TaskRec :=
  (launchGraph s x).bind fun g => g.tasks[t]?

/-- The generation an accessor writes in: a PROV task of a provisional launch (R135). -/
def genOf (s : State) : Accessor → Option Generation
  | .task l t =>
    match findLaunch s l with
    | some x =>
      match taskRec s x t with
      | some r => if r.prov && x.guard.isSome then s.tsk.gens.find? fun (g : Generation) => g.launch = l && g.state = .open else none
      | none => none
    | none => none
  | _ => none

/-- The generations an accessor reads through, newest first (R136). -/
def visibleGens (s : State) (a : Accessor) : List Generation :=
  match genOf s a with
  | some g => (s.tsk.gens.filter fun (h : Generation) => h.ctx = g.ctx && h.state ≠ .resolved && decide (h.id ≤ g.id)).reverse
  | none => []

/-- The committed byte an accessor sees: the old one where it started before a commit point (R139). -/
def committedByte (s : State) (a : Accessor) (slot off : Nat) : Byte :=
  match s.tsk.olds.find? fun (o : OldVersion) =>
      o.readers.contains a && o.granules.contains (granKey slot off) && thas o.bytes (memKey slot off) with
  | some o => tgetD o.bytes (memKey slot off) 0
  | none => cellGet s.mem (memKey slot off)

/-- One byte of a memory object as an accessor reads it (R136). -/
def readByte (s : State) (a : Accessor) (slot off : Nat) : Byte :=
  match (visibleGens s a).find? fun g => thas g.bytes (memKey slot off) with
  | some g => tgetD g.bytes (memKey slot off) 0
  | none => committedByte s a slot off

/-- `n` bytes of a memory object as an accessor reads them. -/
def readMem (s : State) (a : Accessor) (slot off : Nat) : Nat → List Byte
  | 0 => []
  | n + 1 => readByte s a slot off :: readMem s a slot (off + 1) n

/-- `n` committed bytes as a device block reads them. -/
def readBlk (s : State) (slot off n : Nat) : List Byte := readMem s .block slot off n

/-- A little-endian number of `n` bytes of a memory object. -/
def readNum (s : State) (slot off n : Nat) : Nat := ofLe (readBlk s slot off n)

/-- Page size in bytes (R101). -/
def pageBytes (page : Nat) : Nat := if page = 0 then 4096 else if page = 1 then 2097152 else 1073741824

/-- The stack that backs a byte of an object, where its page is mapped (R237). -/
def stackOf (s : State) (slot off : Nat) : Option Nat :=
  (tget s.mems slot).bind fun m => tget m.mapped (off / pageBytes m.page)

/-- Does a line of an object meet the reader as poisoned: in the poison list, or backed on an offline stack
(R253, R481)? -/
def linePoisoned (s : State) (slot off : Nat) : Bool :=
  thas s.poison (lineKey slot off) ||
    (match stackOf s slot off with
     | some k => stackOff s k
     | none => false)

/-- Is a line lost for writing, backed on an offline stack (R481)? -/
def lineLost (s : State) (slot off : Nat) : Bool :=
  match stackOf s slot off with
  | some k => stackOff s k
  | none => false

/-- The offsets of the lines of a range, line by line. -/
def linesOf (off n : Nat) : List Nat :=
  if n = 0 then [] else (List.range ((off + n - 1) / 64 - off / 64 + 1)).map fun i => (off / 64 + i) * 64

/-- Does a range hold a poisoned line? -/
def poisonedIn (s : State) (slot off n : Nat) : Bool := (linesOf off n).any (linePoisoned s slot)

/-- Bytes of a range before its first poisoned line. -/
def cleanPrefix (s : State) (slot off n : Nat) : Nat :=
  match (linesOf off n).find? (linePoisoned s slot) with
  | some l => l - off
  | none => n

/-- A generation's conflict (R140): it and its launch are marked. -/
def markConflict (g : Nat) (s : State) : State :=
  { s with tsk := { s.tsk with
      gens := s.tsk.gens.map fun (h : Generation) => if h.id = g then { h with conflict := true } else h
      launches := s.tsk.launches.map fun (x : Launch) =>
        if s.tsk.gens.any fun (h : Generation) => h.id = g && h.launch = x.id then { x with conflict := true } else x } }

/-- Put one committed byte; old versions keep what they held (R139). -/
def putCommitted (slot off : Nat) (b : Byte) (s : State) : State :=
  let k := memKey slot off
  { s with
    mem := cellPut s.mem k b
    tsk := { s.tsk with olds := s.tsk.olds.map fun (o : OldVersion) =>
      if o.granules.contains (granKey slot off) && !thas o.bytes k
      then { o with bytes := tput o.bytes k (cellGet s.mem k) } else o } }

/-- Write one byte as an accessor (R136, R140): a PROV task writes its generation's version, creating it and
forcing a conflict on a later generation that holds one; any other writer writes the committed version and forces a
conflict on every generation that holds one. -/
def putByte (a : Accessor) (slot off : Nat) (b : Byte) (s : State) : State :=
  let gk := granKey slot off
  match genOf s a with
  | some g =>
    let gens := s.tsk.gens.map fun (h : Generation) =>
      if h.id = g.id then { h with versions := linsert h.versions gk, bytes := tput h.bytes (memKey slot off) b } else h
    let s := { s with tsk := { s.tsk with gens := gens } }
    (s.tsk.gens.filter fun (h : Generation) => h.ctx = g.ctx && decide (g.id < h.id) && h.versions.contains gk).foldl
      (fun s (h : Generation) => markConflict h.id s) s
  | none =>
    let s := putCommitted slot off b s
    (s.tsk.gens.filter fun (h : Generation) => h.state = .open && h.versions.contains gk).foldl (fun s (h : Generation) => markConflict h.id s) s

/-- Write bytes one by one from an offset. -/
def putBytes (a : Accessor) (slot off : Nat) : List Byte → State → State
  | [], s => s
  | b :: l, s => putBytes a slot (off + 1) l (putByte a slot off b s)

/-- Take a poisoned line out of the poison list (R255: a whole-line write). -/
def unpoison (slot off : Nat) (s : State) : State := { s with poison := tdel s.poison (lineKey slot off) }

/-- The part of a write that falls in one 64 B line: lost on an offline stack (R481); onto a poisoned line it is
discarded unless it covers the line whole, and then it replaces the poison (R255). -/
def writeLine (a : Accessor) (slot off : Nat) (bs : List Byte) (s : State) : State :=
  if lineLost s slot off then s
  else if thas s.poison (lineKey slot off) then
    (if off % 64 = 0 ∧ bs.length = 64 then putBytes a slot off bs (unpoison slot off s) else s)
  else putBytes a slot off bs s

/-- A write to a 64 B block takes away the reservations held on it (R218). -/
def breakResv (blocks : List Nat) (s : State) : State :=
  modSvc (fun v => { v with cores := tmapv v.cores fun _ (c : SvcCore) =>
    match c.resv with
    | some (true, b) => if blocks.contains b then { c with resv := none } else c
    | _ => c }) s

/-- Does a range of a plan touch a granule? -/
def planTouches (p : CkpPlan) (g : Nat) : Bool :=
  p.ranges.any fun (r : CkpRange) => decide (r.obj = g / 2 ^ 24) && decide (g % 2 ^ 24 * 65536 < r.off + r.len)
    && decide (r.off < (g % 2 ^ 24 + 1) * 65536)

/-- A copy of a granule as it is now. -/
def cowOf (s : State) (g : Nat) : CowCopy :=
  let lo := memKey (g / 2 ^ 24) (g % 2 ^ 24 * 65536)
  let line := lineKey (g / 2 ^ 24) (g % 2 ^ 24 * 65536)
  { gran := g, cells := s.mem.filter fun c => decide (lo ≤ c.1) && decide (c.1 < lo + 65536)
    bad := (s.poison.filter fun (e : Nat × Poison) => decide (line ≤ e.1) && decide (e.1 < line + 1024)).map Prod.fst }

/-- Granules about to be written by other than the awaited operations are copied first for every checkpoint in flight
(R408). -/
def cowGrans (gs : List Nat) (s : State) : State :=
  if s.ckp.ctxs.all fun (e : Nat × CkpCtx) => e.2.run.isNone then s
  else
    modCkp (fun k => { k with ctxs := tmapv k.ctxs fun _ (c : CkpCtx) =>
      match c.plan, c.run with
      | some p, some r =>
        let new := gs.filter fun g => planTouches p g && r.copies.all fun (x : CowCopy) => decide (x.gran ≠ g)
        { c with run := some { r with copies := r.copies ++ new.map (cowOf s) } }
      | _, _ => c }) s

/-- An awaited operation's write goes into a copy too, where its granule has been copied (R407). -/
def cowAlso (op slot off : Nat) (bs : List Byte) (s : State) : State :=
  let put := fun (x : CowCopy) =>
    let ks := (List.range bs.length).filter fun i => granKey slot (off + i) = x.gran
    { x with cells := ks.foldl (fun t i => tput t (memKey slot (off + i)) (bs.getD i 0)) x.cells }
  modCkp (fun k => { k with ctxs := tmapv k.ctxs fun _ (c : CkpCtx) =>
    { c with run := c.run.map fun (r : CkpRun) =>
        if r.awaited.contains op then { r with copies := r.copies.map put } else r } }) s

/-- Does a checkpoint in flight await an operation? It is of the operation's own context, and so is every range. -/
def opAwaited (s : State) (op : Nat) : Bool :=
  s.ckp.ctxs.any fun (e : Nat × CkpCtx) =>
    match e.2.run with
    | some r => r.awaited.contains op
    | none => false

/-- The granules of a range. -/
def granules (slot off n : Nat) : List Nat :=
  if n = 0 then [] else (List.range ((off + n - 1) / 65536 - off / 65536 + 1)).map fun i => granKey slot off + i

/-- What a write does for the checkpoints in flight. -/
def cowWrite (a : Accessor) (slot off : Nat) (bs : List Byte) (s : State) : State :=
  match a with
  | .coll op => if opAwaited s op then cowAlso op slot off bs s else cowGrans (granules slot off bs.length) s
  | _ => if (genOf s a).isSome then s else cowGrans (granules slot off bs.length) s

/-- Write bytes to a memory object, line by line. -/
def writeMem (a : Accessor) (slot off : Nat) (bs : List Byte) (s : State) : State :=
  let s := cowWrite a slot off bs s
  breakResv ((linesOf off bs.length).map (lineKey slot)) <| (linesOf off bs.length).foldl (fun s l =>
    let lo := max l off
    let hi := min (l + 64) (off + bs.length)
    writeLine a slot lo ((bs.drop (lo - off)).take (hi - lo)) s) s

/-- Does a write of a range meet a poisoned line it does not cover whole, or a line on an offline stack? -/
def writeHitsPoison (s : State) (slot off n : Nat) : Bool :=
  (linesOf off n).any fun l =>
    lineLost s slot l || (thas s.poison (lineKey slot l) && (decide (l < off) || decide (off + n < l + 64)))

/-- Bytes of a range written before the first line that a write leaves poisoned. -/
def writePrefix (s : State) (slot off n : Nat) : Nat :=
  match (linesOf off n).find? fun l =>
      lineLost s slot l || (thas s.poison (lineKey slot l) && (decide (l < off) || decide (off + n < l + 64))) with
  | some l => l - off
  | none => n

/-- Device blocks write committed bytes. -/
def writeBlk (slot off : Nat) (bs : List Byte) (s : State) : State := writeMem .block slot off bs s

/-- Is a range of an object free of read-only pages (R242)? -/
def writableRange (m : MemObj) (off n : Nat) : Bool :=
  m.readOnly.all fun e =>
    decide (off + n ≤ e.1 * pageBytes m.page) || decide ((e.1 + e.2) * pageBytes m.page ≤ off)

/-! ## Attention (R108, R110) -/

/-- A function's attention table. -/
def attOf (s : State) (fn : Nat) : AttTable := tgetD s.cmd.att fn { epoch := 0, entries := [] }

/-- An entry that has never been posted. -/
def attInit : AttEntry := { pending := false, count := 0, epochLast := 0, detail := 0, handle := 0 }

/-- Post an attention to a function (R108). -/
def post (fn code detail handle : Nat) (s : State) : State :=
  let t := attOf s fn
  let e := tgetD t.entries code attInit
  let e' : AttEntry := { pending := true, count := satAdd 65535 e.count 1, epochLast := t.epoch + 1, detail := detail
                         handle := handle }
  let t' : AttTable := { epoch := t.epoch + 1, entries := tput t.entries code e' }
  modCmd (fun c => { c with att := tput c.att fn t' }) s

/-- Post to several functions, the PF first. -/
def postAll (fns : List Nat) (code detail handle : Nat) (s : State) : State :=
  fns.foldl (fun s f => post f code detail handle s) s

/-- Attention codes (Table 22-2). -/
def Att.haltPending : Nat := 0x01
/-- CHIP_RESET_DONE -/
def Att.chipResetDone : Nat := 0x08
/-- PARTITION_RESET -/
def Att.partitionReset : Nat := 0x10
/-- ENGINE_RESET -/
def Att.engineReset : Nat := 0x11
/-- CONTEXT_FAULT -/
def Att.contextFault : Nat := 0x12
/-- POISON_FOUND -/
def Att.poisonFound : Nat := 0x20
/-- LINK_CHANGE -/
def Att.linkChange : Nat := 0x30
/-- CABLE_MISMATCH -/
def Att.cableMismatch : Nat := 0x31
/-- MANAGER_CHANGE -/
def Att.managerChange : Nat := 0x38
/-- MARGIN_REPLAN -/
def Att.marginReplan : Nat := 0x40
/-- POLICY_OVERRIDDEN -/
def Att.policyOverridden : Nat := 0x41
/-- CLUSTER_RETIRED -/
def Att.clusterRetired : Nat := 0x48
/-- INGEST_GAP -/
def Att.ingestGap : Nat := 0x50
/-- CHECKPOINT_FAILED -/
def Att.checkpointFailed : Nat := 0x60
/-- LOGBOOK_WEAR -/
def Att.logbookWear : Nat := 0x70

/-- Completion status codes (Table 22-1): DONE. -/
def St.done : Nat := 0x00
/-- DONE_DISCARDED -/
def St.doneDiscarded : Nat := 0x01
/-- DONE_HELD -/
def St.doneHeld : Nat := 0x02
/-- REFUSED_HANDLE -/
def St.refusedHandle : Nat := 0x10
/-- REFUSED_STATE -/
def St.refusedState : Nat := 0x11
/-- REFUSED_TOLLGATE -/
def St.refusedTollgate : Nat := 0x12
/-- NOT_PERMITTED -/
def St.notPermitted : Nat := 0x13
/-- ABORTED -/
def St.aborted : Nat := 0x20
/-- POISONED -/
def St.poisoned : Nat := 0x21
/-- TIMEOUT -/
def St.timeout : Nat := 0x22
/-- RETRY_LATER -/
def St.retryLater : Nat := 0x30

/-! ## Alerts to the tray controller (R522, R527) -/

/-- The alert codes of Table 21-3 in order of bit. -/
def alertCodes : List Nat := [0x01, 0x02, 0x03, 0x04, 0x08, 0x10, 0x20, 0x30, 0x40, 0x48]

/-- An alert entry, empty where the table lists none. -/
def alertOf (s : State) (code : Nat) : Alert := tgetD s.mgt.alerts code { pending := false, count := 0 }

/-- The most urgent pending alert, or 0xFF (R522). -/
def alertUrgent (s : State) : Nat :=
  match alertCodes.find? fun c => (alertOf s c).pending with
  | some c => c
  | none => 0xFF

/-- TRAY_ALERT_N is low while an entry is pending, and released while MOD_RESET_N is low (R18). -/
def trayAlertLow (s : State) : Bool := s.mod.modResetN && alertUrgent s ≠ 0xFF

/-- The bytes of a management frame (Table 21-1) with its CRC (R525). -/
def frameBytes (head : List Byte) (payload : List Byte) : List Byte :=
  let b := head ++ payload
  b ++ leBytes 4 (crc32c b).toNat

/-- A new posting: an IBI while IBI is enabled, and an ALERT frame on the UART (R522, R523). -/
def alertNotify (s : State) : State :=
  if s.mod.modResetN then
    let c := alertUrgent s
    let s := emit (.uart ([0xA5, 0xC3] ++ frameBytes [0xFE, 0, 1, 0, 0, 0, BitVec.ofNat 8 c, 0] [BitVec.ofNat 8 c])) s
    if s.mgt.ibiEn && s.mgt.dynAddr.isSome then emit (.ibi c) { s with mgt := { s.mgt with ibiReq := true } } else s
  else s

/-- Set an alert entry pending, counting it (R527). While MOD_RESET_N is low the table stays empty. -/
def alertPost (code : Nat) (s : State) : State :=
  if s.mod.modResetN then
    let e := alertOf s code
    let e' : Alert := { pending := true, count := satAdd 65535 e.count 1 }
    alertNotify (modMgt (fun g => { g with alerts := tput g.alerts code e' }) s)
  else s

/-- A condition alert follows its condition (R527). -/
def alertCond (code : Nat) (holds : Bool) (s : State) : State :=
  let e := alertOf s code
  if holds && !e.pending then alertPost code s
  else if !holds && e.pending then modMgt (fun g => { g with alerts := tput g.alerts code { e with pending := false } }) s
  else s

/-- Evaluate every condition alert: HALTED, BOOT_HOLD, COOLANT (Table 21-3). -/
def alertConds (s : State) : State :=
  alertCond 0x40 s.mod.inletOver (alertCond 0x02 (s.clk.phase = .bootHold) (alertCond 0x01 (s.flt.haltCause ≠ 0) s))

/-! ## Logbook (R512 to R516) -/

/-- Bytes a record takes in a page: its 32-byte header and payload. -/
def logRecSize (r : LogRec) : Nat := 32 + r.payload.length

/-- Bytes of the write buffer in use; it holds 4 pages of 4 KiB. -/
def logBuffered (s : State) : Nat := (s.log.buffer.map logRecSize).sum

/-- Append a record to the write buffer (R514): a routine record that finds it full is dropped and counted; a
critical one drops a routine record in its place. In READ_ONLY no record is written (R516). -/
def logAppend (typ : Nat) (critical : Bool) (payload : List Byte) (s : State) : State :=
  if s.nv.log.state = 2 then s
  else
    let r : LogRec := { seq := s.nv.log.nextSeq, time := s.led.time, typ := typ, critical := critical
                        payload := payload.take 4064 }
    let fits := decide (logBuffered s + logRecSize r ≤ 16384)
    if fits then
      { s with log := { s.log with buffer := s.log.buffer ++ [r] }
               nv := { s.nv with log := { s.nv.log with nextSeq := r.seq + 1 } } }
    else if critical then
      let b := s.log.buffer
      match (b.find? fun x => !x.critical) with
      | some x =>
        { s with log := { s.log with buffer := (b.erase x) ++ [r], dropped := satAdd 255 s.log.dropped 1 }
                 nv := { s.nv with log := { s.nv.log with nextSeq := r.seq + 1 } } }
      | none =>
        { s with log := { s.log with buffer := b ++ [r] }
                 nv := { s.nv with log := { s.nv.log with nextSeq := r.seq + 1 } } }
    else { s with log := { s.log with dropped := satAdd 255 s.log.dropped 1 } }

/-- Write a logbook record, at once where the logbook is mounted, else at the next M14 (R495, R54). -/
def logWrite (typ : Nat) (critical : Bool) (payload : List Byte) (s : State) : State :=
  if s.log.mounted then logAppend typ critical payload s
  else { s with log := { s.log with waiting := s.log.waiting ++ [(typ, critical, payload)] } }

/-- A NOTICE record (Table 20-8): strap fault, low battery, coolant, repair queue full, lane margins. -/
def logNotice (code arg : Nat) (s : State) : State :=
  logWrite 0x0B false (leBytes 4 code ++ leBytes 8 arg) s

/-- DETAIL of LOGBOOK_WEAR (Table 20-10). -/
def wearDetail (s : State) : Nat :=
  fieldAt s.nv.log.spares 0 9 + fieldAt s.nv.log.state 10 2 + fieldAt s.log.retries 16 16
    + fieldAt s.nv.log.dataBlocks 32 12

/-- Post LOGBOOK_WEAR to the PF and to the tray (R515, Table 21-3). -/
def postWear (s : State) : State := alertPost 0x30 (post 0 Att.logbookWear (wearDetail s) 0 s)

/-- The logbook enters READ_ONLY (R516): the plan is frozen, LOGBOOK_WEAR is posted. -/
def logReadOnly (s : State) : State :=
  if s.nv.log.state = 2 then s
  else postWear { s with nv := { s.nv with log := { s.nv.log with state := 2 } } }

/-! ## Fault records (R495) -/

/-- The 32 bytes of a fault record (Table 19-21). -/
def fltBytes (r : FltRec) : List Byte :=
  leBytes 8 r.time ++ leBytes 1 r.cls ++ leBytes 1 r.level
    ++ leBytes 2 (bitAt r.escalated 0 + bitAt r.absorbed 1) ++ leBytes 4 r.unit ++ leBytes 4 r.context
    ++ leBytes 4 r.seq ++ leBytes 8 r.detail

/-- Write a fault record to the ring and to the logbook. -/
def fltRecord (cls level : Nat) (escalated absorbed : Bool) (unit context detail : Nat) (s : State) : State :=
  let r : FltRec := { time := timeBase s, cls := cls, level := level, escalated := escalated, absorbed := absorbed
                      unit := unit, context := context, seq := s.flt.records, detail := detail }
  let s := { s with flt := { s.flt with ring := (r :: s.flt.ring).take 256, records := (s.flt.records + 1) % 2 ^ 32 } }
  logWrite 0x01 true (fltBytes r) s

/-! ## Handles (R77) -/

/-- Handle kinds (Table 04-1): context. -/
def Hk.ctx : Nat := 1
/-- Queue pair. -/
def Hk.qp : Nat := 2
/-- Memory object. -/
def Hk.mem : Nat := 3
/-- Event. -/
def Hk.ev : Nat := 4
/-- Key slot. -/
def Hk.key : Nat := 5
/-- Task graph. -/
def Hk.graph : Nat := 6

/-- A handle of a kind and slot. -/
def mkHandle (kind slot : Nat) : Nat := kind * 2 ^ 28 + slot

/-- Kind of a handle. -/
def hKind (h : Nat) : Nat := h / 2 ^ 28

/-- Slot of a handle. -/
def hSlot (h : Nat) : Nat := h % 2 ^ 28

/-- Slots per device of a kind (Table 04-1). -/
def kindSlots (k : Nat) : Nat :=
  if k = 1 then 4096 else if k = 2 then 16384 else if k = 3 then 1048576 else if k = 4 then 262144
  else if k = 5 then 1024 else if k = 6 then 65536 else 0

/-- The function that owns a context slot. -/
def ctxFn (s : State) (c : Nat) : Nat :=
  match tget s.ctxs c with
  | some x => x.fn
  | none => 0

/-- Change a context. -/
def modCtx (c : Nat) (f : Ctx → Ctx) (s : State) : State := { s with ctxs := tmod s.ctxs c f }

/-- Choose a slot by the longest-free rule (R79): a slot never used first, in index order. -/
def slotChoose (p : SlotPool) (total : Nat) : Option Nat :=
  if p.fresh < total then some p.fresh else p.freed.head?

/-- Take the slot `choose` gives. -/
def slotTake (p : SlotPool) (total : Nat) : SlotPool :=
  if p.fresh < total then { p with fresh := p.fresh + 1 } else { p with freed := p.freed.tail }

/-- A slot becomes free. -/
def slotGive (p : SlotPool) (slot : Nat) : SlotPool := { p with freed := p.freed ++ [slot] }

end Sys2Proof.Machine
end

