-- ==== Sys2Proof/Machine/Operands.lean ====
section
/-!
DEFINITION. Sys2Proof/Machine/Operands.lean: descriptor fields, handle and range checks, the opcode table, results and
refusals, and the pools that creates draw on (chapter 04).
-/
namespace Sys2Proof.Machine

/-! ## Descriptor fields (Table 04-10) -/

/-- `n` bytes of a descriptor from byte `off`, as a number. -/
def rawField (raw : BitVec 512) (off n : Nat) : Nat := bitsOf raw.toNat (8 * off) (8 * n)

/-- `n` bytes of a fetched descriptor from byte `off`. -/
def dfld (d : Desc) (off n : Nat) : Nat := rawField d.raw off n

/-- OPCODE -/
def dOp (d : Desc) : Nat := dfld d 0 1
/-- FENCE -/
def dFence (d : Desc) : Bool := bitOf (dfld d 0 4) 8
/-- QUIET -/
def dQuiet (d : Desc) : Bool := bitOf (dfld d 0 4) 9
/-- SEQ -/
def dSeq (d : Desc) : Nat := dfld d 2 2
/-- CONTEXT -/
def dCtx (d : Desc) : Nat := dfld d 4 4
/-- USER_TAG -/
def dTag (d : Desc) : Nat := dfld d 8 8
/-- WAIT_EVENT -/
def dWait (d : Desc) : Nat := dfld d 16 4
/-- SIGNAL_EVENT -/
def dSignal (d : Desc) : Nat := dfld d 20 4

/-! ## Results -/

/-- A result with a status and nothing else. -/
def resOf (status : Nat) : Result := { status := status, handle := 0, aux := 0, value := 0, flags := 0 }

/-- A refusal naming the byte offset of a field (R95). -/
def refuse (status off : Nat) : Result := { status := status, handle := 0, aux := off, value := 0, flags := 0 }

/-- DONE. -/
def rDone : Result := resOf St.done

/-- The first check that fails. -/
def firstFail : List (Option Result) → Option Result
  | [] => none
  | some r :: _ => some r
  | none :: l => firstFail l

/-- A check that fails with a result unless a condition holds. -/
def chk (ok : Bool) (status off : Nat) : Option Result := if ok then none else some (refuse status off)

/-! ## Descriptors in the device -/

/-- The descriptor of a queue pair and submission number. -/
def findDesc (s : State) (qp sub : Nat) : Option Desc := s.cmd.descs.find? fun (d : Desc) => d.qp = qp && d.sub = sub

/-- Change every descriptor. -/
def mapDescs (f : Desc → Desc) (s : State) : State := modCmd (fun c => { c with descs := c.descs.map f }) s

/-- Change every triggered operation. -/
def mapOps (f : TrigOp → TrigOp) (s : State) : State := modCol (fun c => { c with ops := c.ops.map f }) s

/-- Change a descriptor. -/
def modDesc (qp sub : Nat) (f : Desc → Desc) (s : State) : State :=
  mapDescs (fun d => if d.qp = qp && d.sub = sub then f d else d) s

/-- Has the descriptor ended? -/
def dEnded (d : Desc) : Bool :=
  match d.phase with
  | .ended _ => true
  | _ => false

/-- Has the descriptor started and not ended? -/
def dRuns (d : Desc) : Bool :=
  match d.phase with
  | .started => true
  | .running => true
  | _ => false

/-- End a descriptor with a result; one that has ended keeps its result. -/
def endDesc (qp sub : Nat) (r : Result) (s : State) : State :=
  modDesc qp sub (fun d => if dEnded d then d else { d with phase := .ended r }) s

/-- A descriptor's opcode has acted and it runs on; `n` is kept for its end. -/
def runDesc (qp sub n : Nat) (s : State) : State :=
  modDesc qp sub (fun d => { d with phase := .running, note := n }) s

/-- The queue pair of a global number. -/
def getQp (s : State) (q : Nat) : Option QueuePair := tget s.cmd.qps q

/-- Change a queue pair. -/
def modQp (q : Nat) (f : QueuePair → QueuePair) (s : State) : State :=
  modCmd (fun c => { c with qps := tmod c.qps q f }) s

/-- Did the descriptor arrive on a service queue? -/
def onService (s : State) (d : Desc) : Bool :=
  match getQp s d.qp with
  | some q => q.ctx.isNone
  | none => false

/-- The context a descriptor acts on: its queue pair's own, or the one CONTEXT names on a service queue (R97). -/
def descCtx (s : State) (d : Desc) : Option Nat :=
  match getQp s d.qp with
  | some q =>
    match q.ctx with
    | some c => some c
    | none => if dCtx d = 0 then none else some (hSlot (dCtx d))
  | none => none

/-- Act for an opcode row: on a started descriptor of that opcode, and on nothing else. -/
def onStarted (op qp sub : Nat) (f : Desc → State → State) (s : State) : State :=
  match findDesc s qp sub with
  | some d => if dOp d = op ∧ d.phase = .started then f d s else s
  | none => s

/-- Act for a later step of an opcode: on a running descriptor of that opcode, and on nothing else. -/
def onRunning (op qp sub : Nat) (f : Desc → State → State) (s : State) : State :=
  match findDesc s qp sub with
  | some d => if dOp d = op ∧ d.phase = .running then f d s else s
  | none => s

/-- Refuse a descriptor where a check fails, else act. -/
def guarded (d : Desc) (checks : List (Option Result)) (f : State → State) (s : State) : State :=
  match firstFail checks with
  | some r => endDesc d.qp d.sub r s
  | none => f s

/-! ## Mode -/

/-- Is the device in confidential mode (R1, R434): from the end of OPENING to the end of CLOSING? -/
def confidential (s : State) : Bool := s.sec.session = .open_ || s.sec.session = .closing

/-- A record of the sealed session log (R448), kept in confidential mode. -/
def sealLog (op reason index detail : Nat) (s : State) : State :=
  if confidential s then
    let r : SealedRec := { time := timeBase s, op := op, reason := reason, index := index, detail := detail }
    modSec (fun k => { k with slog := (r :: k.slog).take 65536 }) s
  else s

/-! ## Handles (R77, R78, R106) -/

/-- How a handle answers R78. -/
inductive HChk where
  | ok | bad | aborting
  deriving DecidableEq, Repr

/-- An object found, or not, in a context. -/
def hOwn (found : Option (Nat × Bool)) (ctx : Option Nat) : HChk :=
  match found with
  | some (c, ab) => if some c = ctx then (if ab then .aborting else .ok) else .bad
  | none => .bad

/-- May a context of function `fn` (or function-level work of it) reach an event (R106)? -/
def evReach (s : State) (fn : Nat) (ctx : Option Nat) (e : Event) : Bool :=
  decide (some e.ctx = ctx) || (decide (1 ≤ e.scope) && decide (ctxFn s e.ctx = fn))

/-- R78 for a handle of a required kind under a function and context. -/
def hCheck (s : State) (fn : Nat) (ctx : Option Nat) (kind h : Nat) : HChk :=
  if hKind h ≠ kind ∨ kindSlots kind ≤ hSlot h then .bad
  else if kind = Hk.ctx then
    (match tget s.ctxs (hSlot h) with
     | some c => if c.fn = fn then (if c.state = .aborting then .aborting else .ok) else .bad
     | none => .bad)
  else if kind = Hk.qp then
    (match getQp s (hSlot h) with
     | some q => if q.fn = fn then (if q.state = .aborting then .aborting else .ok) else .bad
     | none => .bad)
  else if kind = Hk.mem then hOwn ((tget s.mems (hSlot h)).map fun (m : MemObj) => (m.ctx, m.aborting)) ctx
  else if kind = Hk.ev then
    (match tget s.evs (hSlot h) with
     | some e => if evReach s fn ctx e then (if e.aborting then .aborting else .ok) else .bad
     | none => .bad)
  else if kind = Hk.key then hOwn ((tget s.sec.keys (hSlot h)).map fun (k : KeySlot) => (k.ctx, k.aborting)) ctx
  else if kind = Hk.graph then
    hOwn ((tget s.tsk.graphs (hSlot h)).map fun (g : Graph) => (g.ctx, decide (g.state = .aborting))) ctx
  else .bad

/-- The refusal a handle check gives (R78, R113). -/
def hRefuse (c : HChk) (off : Nat) : Option Result :=
  match c with
  | .ok => none
  | .aborting => some (refuse St.refusedState off)
  | .bad => some (refuse St.refusedHandle off)

/-- A field of a descriptor that must hold a handle of a kind. -/
def needH (s : State) (d : Desc) (kind off : Nat) : Option Result :=
  hRefuse (hCheck s d.fn (descCtx s d) kind (dfld d off 4)) off

/-- A field of a descriptor that holds null or a handle of a kind. -/
def needH0 (s : State) (d : Desc) (kind off : Nat) : Option Result :=
  if dfld d off 4 = 0 then none else needH s d kind off

/-- A field that names an event of the descriptor's own context (R106). -/
def needOwnEv (s : State) (d : Desc) (off : Nat) : Option Result :=
  let h := dfld d off 4
  if hKind h ≠ Hk.ev then some (refuse St.refusedHandle off)
  else hRefuse (hOwn ((tget s.evs (hSlot h)).map fun (e : Event) => (e.ctx, e.aborting)) (descCtx s d)) off

/-- Size of the object a field names; 0 where it names none. -/
def objSize (s : State) (h : Nat) : Nat :=
  match tget s.mems (hSlot h) with
  | some m => m.size
  | none => 0

/-- A range must lie in the object a handle names (R101); `off` is the byte offset of the offset field. -/
def needRange (s : State) (h from_ len off : Nat) : Option Result :=
  chk (from_ + len ≤ objSize s h) St.refusedHandle off

/-! ## Opcodes and queues (Table 04-13 and the opcode tables of the other chapters) -/

/-- Which queues an opcode takes, and whether CONTEXT is null. -/
inductive OpQueue where
  /-- Service queue with a context. -/
  | service
  /-- Service queue with CONTEXT null (function-level). -/
  | function
  /-- Function-level opcode of the PF alone. -/
  | pf
  /-- Any queue, with a context. -/
  | any
  /-- NOP and LEDGER_READ: any queue, function-level on the service queue. -/
  | nop
  /-- Work queues. -/
  | work
  /-- Reserved or device-written. -/
  | none_
  deriving DecidableEq, Repr

/-- The opcode tables. -/
def opQueue (op : Nat) : OpQueue :=
  match op with
  | 0x00 => .nop
  | 0x01 => .function
  | 0x02 => .function
  | 0x10 => .function
  | 0x11 => .service
  | 0x12 => .service
  | 0x14 => .service
  | 0x15 => .service
  | 0x18 => .service
  | 0x19 => .service
  | 0x1C => .service
  | 0x1D => .service
  | 0x1E => .service
  | 0x20 => .service
  | 0x21 => .service
  | 0x30 => .work
  | 0x31 => .work
  | 0x38 => .work
  | 0x40 => .any
  | 0x41 => .any
  | 0x42 => .any
  | 0x43 => .work
  | 0x44 => .any
  | 0x45 => .work
  | 0x50 => .any
  | 0x51 => .any
  | 0x52 => .any
  | 0x60 => .pf
  | 0x61 => .pf
  | 0x62 => .service
  | 0x63 => .service
  | 0x64 => .service
  | 0x65 => .pf
  | 0x66 => .pf
  | 0x67 => .any
  | 0x68 => .service
  | 0x70 => .any
  | 0x71 => .any
  | 0x72 => .service
  | 0x73 => .service
  | 0x74 => .any
  | 0x80 => .service
  | 0x81 => .service
  | 0x82 => .work
  | 0x83 => .any
  | 0x84 => .any
  | 0x85 => .service
  | 0x90 => .service
  | 0x91 => .any
  | 0x92 => .any
  | 0x93 => .any
  | 0xA0 => .service
  | 0xA1 => .any
  | 0xA2 => .service
  | 0xA3 => .service
  | 0xA4 => .any
  | 0xB0 => .any
  | 0xB1 => .any
  | 0xB2 => .any
  | 0xB3 => .any
  | 0xB4 => .any
  | 0xB5 => .any
  | 0xC0 => .nop
  | 0xC1 => .pf
  | 0xC2 => .pf
  | _ => .none_

/-- Does an opcode go on a service (true) or work (false) queue? -/
def opAllowed (op : Nat) (service pf : Bool) : Bool :=
  match opQueue op with
  | .service => service
  | .function => service
  | .pf => service && pf
  | .any => true
  | .nop => true
  | .work => !service
  | .none_ => false

/-- Does an opcode on a service queue take CONTEXT null? -/
def opNullCtx (op : Nat) : Bool :=
  match opQueue op with
  | .function => true
  | .pf => true
  | .nop => true
  | _ => false

/-- Byte offsets of the operand fields of an opcode that hold handles. -/
def opHandles (op : Nat) : List Nat :=
  if op ∈ [0x15, 0x19, 0x1D, 0x21, 0x64, 0x93, 0xB0, 0xB2, 0xB3, 0xB4, 0xB5] then [24]
  else if op ∈ [0x1E, 0x20, 0x31, 0x40, 0x41, 0x42, 0x43, 0x44, 0x50, 0x67, 0x68, 0x70, 0x72, 0x80, 0x81, 0xA0, 0xA2] then [24]
  else if op = 0x30 then [24, 28]
  else if op = 0x38 then [24, 28, 40]
  else if op = 0x90 then [28, 32, 36]
  else []

/-- Does a started descriptor name a handle (R83)? -/
def descNames (d : Desc) (h : Nat) : Bool :=
  decide (dSignal d = h) || (opHandles (dOp d)).any fun o => dfld d o 4 = h

/-- The header checks of R95 and R97 after SEQ: OPCODE and queue, CONTEXT, WAIT_EVENT, SIGNAL_EVENT. -/
def headerFail (s : State) (d : Desc) : Option Result :=
  match getQp s d.qp with
  | none => none
  | some q =>
    let service := q.ctx.isNone
    let op := dOp d
    let c := dCtx d
    firstFail
      [ chk (opAllowed op service (d.fn = 0)) St.refusedState 0,
        (if service then
           (if opNullCtx op then chk (c = 0) St.refusedHandle 4
            else
              match hCheck s d.fn none Hk.ctx c with
              | .bad => some (refuse St.refusedHandle 4)
              | .aborting => some (refuse St.refusedState 4)
              | .ok =>
                match tget s.ctxs (hSlot c) with
                | some x =>
                  chk (x.state ≠ .faulted || op = 0x11 || op = 0x12 || op = 0x44) St.refusedState 4
                | none => none)
         else
           match q.ctx with
           | some own => chk (c = 0 || c = mkHandle Hk.ctx own) St.refusedHandle 4
           | none => none),
        needH0 s d Hk.ev 16,
        needH0 s d Hk.ev 20 ]

/-! ## Quotas and pools (R67, R80, R102) -/

/-- A VF entry at reset (Tables 03-12 to 03-19). -/
def vfInit : VfEntry :=
  { quota := { contexts := 1, queuePairs := 1, memObjects := 0, keySlots := 0, events := 0, weight := 1, hbmGib := 0
               graphs := 0, home := 0 }
    pend := [], state := .idle, short := 0, lastStatus := 0, qpMap := [], tdStep := .begun, tdFlr := false
    releases := 0, squashed := 0 }

/-- The entry of a VF. -/
def vfOf (s : State) (v : Nat) : VfEntry := tgetD s.hif.vfs v vfInit

/-- Change the entry of a VF. -/
def modVf (v : Nat) (f : VfEntry → VfEntry) (s : State) : State :=
  modHif (fun h => { h with vfs := tupd h.vfs v vfInit f }) s

/-- Does a VF hold committed resources: ACTIVE, or in TEARDOWN or HELD before the teardown's end (R71)? -/
def vfHolds (e : VfEntry) : Bool := decide (e.state ≠ .idle)

/-- How many entries of a table belong to a function, through their context. -/
def countFn {α : Type} (s : State) (t : Tbl α) (ctxOf : α → Nat) (fn : Nat) : Nat :=
  (t.filter fun (e : Nat × α) => ctxFn s (ctxOf e.2) = fn).length

/-- Objects of a kind a function holds, live or being destroyed (R80). -/
def heldKind (s : State) (fn kind : Nat) : Nat :=
  if kind = Hk.ctx then (s.ctxs.filter fun (e : Nat × Ctx) => e.2.fn = fn).length
  else if kind = Hk.qp then (s.cmd.qps.filter fun (e : Nat × QueuePair) => e.2.fn = fn).length
  else if kind = Hk.mem then countFn s s.mems MemObj.ctx fn
  else if kind = Hk.ev then countFn s s.evs Event.ctx fn
  else if kind = Hk.key then countFn s s.sec.keys KeySlot.ctx fn
  else if kind = Hk.graph then countFn s s.tsk.graphs Graph.ctx fn
  else 0

/-- Objects of a kind a function holds that are being destroyed. -/
def dyingKind (s : State) (fn kind : Nat) : Nat :=
  if kind = Hk.ctx then (s.ctxs.filter fun (e : Nat × Ctx) => e.2.fn = fn && decide (e.2.state = .aborting)).length
  else if kind = Hk.qp then
    (s.cmd.qps.filter fun (e : Nat × QueuePair) => e.2.fn = fn && decide (e.2.state = .aborting)).length
  else if kind = Hk.mem then countFn s (s.mems.filter fun (e : Nat × MemObj) => e.2.aborting) MemObj.ctx fn
  else if kind = Hk.ev then countFn s (s.evs.filter fun (e : Nat × Event) => e.2.aborting) Event.ctx fn
  else if kind = Hk.key then countFn s (s.sec.keys.filter fun (e : Nat × KeySlot) => e.2.aborting) KeySlot.ctx fn
  else if kind = Hk.graph then
    countFn s (s.tsk.graphs.filter fun (e : Nat × Graph) => decide (e.2.state = .aborting)) Graph.ctx fn
  else 0

/-- The quota of a VF for a kind (Table 03-7). -/
def quotaKind (q : VfQuota) (kind : Nat) : Nat :=
  if kind = Hk.ctx then q.contexts
  else if kind = Hk.qp then q.queuePairs
  else if kind = Hk.mem then q.memObjects
  else if kind = Hk.ev then q.events
  else if kind = Hk.key then q.keySlots
  else if kind = Hk.graph then q.graphs
  else 0

/-- What the VFs hold committed of a kind. -/
def committedKind (s : State) (kind : Nat) : Nat :=
  (s.hif.vfs.map fun (e : Nat × VfEntry) => if vfHolds e.2 then quotaKind e.2.quota kind else 0).sum

/-- Free objects of a kind in the pools (R67). -/
def poolFree (s : State) (kind : Nat) : Nat :=
  kindSlots kind - committedKind s kind - heldKind s 0 kind

/-- What a function may still create of a kind, and how much of what it holds is being destroyed (R80). -/
def createRoom (s : State) (fn kind : Nat) : Nat :=
  if fn = 0 then poolFree s kind else quotaKind (vfOf s fn).quota kind - heldKind s fn kind

/-- R80: the refusal of a create that finds no room. -/
def quotaFail (s : State) (fn kind : Nat) : Option Result :=
  if 0 < createRoom s fn kind then none
  else if 0 < dyingKind s fn kind then some (resOf St.retryLater)
  else some (resOf St.refusedState)

/-- Stack of a number. -/
def stackAt (s : State) (k : Nat) : Stack := tgetD s.hbm.stk k Stack.init

/-- Change a stack. -/
def modStack (k : Nat) (f : Stack → Stack) (s : State) : State :=
  modHbm (fun h => { h with stk := tupd h.stk k Stack.init f }) s

/-- The repair record of a stack. -/
def repairOf (s : State) (k : Nat) : RepairRec := tgetD s.nv.repair k RepairRec.init

/-- Change the repair record of a stack. -/
def modRepair (k : Nat) (f : RepairRec → RepairRec) (s : State) : State :=
  modNv (fun n => { n with repair := tupd n.repair k RepairRec.init f }) s

/-- Granules a stack gives the pool: 44, or 38 in protected layout, less those retired (R258, R266) and those of the buddy
region (R412); none while its
partition is offline. -/
def stackGranules (s : State) (k : Nat) : Nat :=
  if stackOff s k then 0
  else
    let top := if s.ime.layout = .plain then 44 else 38
    top - ((repairOf s k).retired.filter fun g => g < top).length - (s.ckp.region.filter fun g => g / 44 = k).length

/-- GiB in the HBM pool (R67). -/
def poolGib (s : State) : Nat := ((List.range 8).map (stackGranules s)).sum

/-- Bytes of device storage a graph takes (R122). -/
def graphBytes (g : Graph) : Nat := roundUp g.length 4096

/-- Bytes of launch state (R123): 4 B per task and 1 bit per token, rounded up to 4 KiB. -/
def launchBytes (g : Graph) : Nat := roundUp (4 * g.tasks.length + (g.tokens.length + 7) / 8) 4096

/-- Bytes of launch state the running launches of a function hold. -/
def launchHeld (s : State) (fn : Nat) : Nat :=
  ((s.tsk.launches.filter fun (x : Launch) => ctxFn s x.ctx = fn).map fun (x : Launch) =>
    match tget s.tsk.graphs x.graph with
    | some g => launchBytes g
    | none => 0).sum

/-- Bytes of version space a function's generations hold (R137). -/
def versionHeld (s : State) (fn : Nat) : Nat :=
  ((s.tsk.gens.filter fun (g : Generation) => ctxFn s g.ctx = fn).map fun (g : Generation) => g.space).sum

/-- Bytes of memory objects of a function, live or all. -/
def memHeld (s : State) (fn : Nat) : Nat :=
  ((s.mems.filter fun (e : Nat × MemObj) => ctxFn s e.2.ctx = fn).map fun (e : Nat × MemObj) => e.2.size).sum

/-- Bytes of memory objects of a function being destroyed. -/
def memDying (s : State) (fn : Nat) : Nat :=
  ((s.mems.filter fun (e : Nat × MemObj) => ctxFn s e.2.ctx = fn && e.2.aborting).map fun (e : Nat × MemObj) => e.2.size).sum

/-- Bytes of task graphs of a function. -/
def graphHeld (s : State) (fn : Nat) : Nat :=
  ((s.tsk.graphs.filter fun (e : Nat × Graph) => ctxFn s e.2.ctx = fn).map fun (e : Nat × Graph) => graphBytes e.2).sum

/-- GiB of the pool committed to VFs. -/
def committedGib (s : State) : Nat :=
  (s.hif.vfs.map fun (e : Nat × VfEntry) => if vfHolds e.2 then e.2.quota.hbmGib else 0).sum

end Sys2Proof.Machine
end

