-- ==== Sys2Proof/Machine/Store.lean ====
section
/-!
DEFINITION. Sys2Proof/Machine/Store.lean: homes, backing, scratch residency, the cache parts and their counters: what an
access to a memory object does besides moving its bytes (R228 to R237, R253, R481).
-/
namespace Sys2Proof.Machine

/-! ## Homes (R230) -/

/-- Home cluster of a byte of a memory object. -/
def homeOf (s : State) (slot off : Nat) : Nat :=
  match tget s.mems slot with
  | none => 0
  | some m =>
    match m.cluster with
    | some c => c
    | none =>
      let cs := (List.range 16).filter fun i => !cluRetired s (m.part * 16 + i)
      let n := cs.length
      if n = 0 then m.part * 16 else m.part * 16 + cs.getD ((off / 65536 + slot) % n) 0

/-! ## Cluster store (R228, R231) -/

/-- Change a memory object. -/
def modMem (slot : Nat) (f : MemObj → MemObj) (s : State) : State := { s with mems := tmod s.mems slot f }

/-- A cluster's store. -/
def cluAt (s : State) (c : Nat) : CluStore := tgetD s.hbm.clu c CluStore.init

/-- Change a cluster's store. -/
def modClu (c : Nat) (f : CluStore → CluStore) (s : State) : State :=
  modHbm (fun h => { h with clu := tupd h.clu c CluStore.init f }) s

/-- Resident pages of a page size among the scratch objects of a cluster. -/
def residentPages (s : State) (c page : Nat) : Nat :=
  ((s.mems.filter fun (e : Nat × MemObj) => decide (e.2.cluster = some c) && decide (e.2.page = page)).map
    fun (e : Nat × MemObj) => e.2.resident.length).sum

/-- SCRATCH_USED_4K (Table 09-12). -/
def scratchUsed (s : State) (c : Nat) : Nat := residentPages s c 0 + 512 * residentPages s c 1

/-- 2 MiB ranges of a cluster's scratch part that hold resident pages; 4 KiB pages share ranges. -/
def scratchRanges (s : State) (c : Nat) : Nat := residentPages s c 1 + (residentPages s c 0 + 511) / 512

/-- 2 MiB ranges in a cluster's scratch part (R228). -/
def scratchRoom (s : State) (c : Nat) : Nat := 2 * (16 - (cluAt s c).cacheSegs - (cluAt s c).deviceSegs)

/-- Is there room for one more page of a size (R231)? -/
def pageFits (s : State) (c page : Nat) : Bool :=
  if page = 0 then decide (residentPages s c 0 % 512 ≠ 0) || decide (scratchRanges s c < scratchRoom s c)
  else decide (scratchRanges s c < scratchRoom s c)

/-- Make a scratch page resident where there is room. -/
def makeResident (slot pg : Nat) (s : State) : State :=
  match tget s.mems slot with
  | none => s
  | some m =>
    match m.cluster with
    | none => s
    | some c =>
      if m.resident.contains pg then s
      else if pageFits s c m.page then modMem slot (fun m => { m with resident := linsert m.resident pg }) s
      else s

/-! ## Backing (R237) -/

/-- Bytes mapped on a stack. -/
def stackUsed (s : State) (k : Nat) : Nat :=
  (s.mems.map fun (e : Nat × MemObj) => (e.2.mapped.filter fun (p : Nat × Nat) => p.2 = k).length * pageBytes e.2.page).sum

/-- Free granules of a stack: those it gives the pool less those that mapped pages fill. -/
def stackFree (s : State) (k : Nat) : Nat := stackGranules s k - (stackUsed s k + 2 ^ 30 - 1) / 2 ^ 30

/-- Can a stack back a page of a size? -/
def stackFits (s : State) (k bytes : Nat) : Bool := decide (stackUsed s k + bytes ≤ stackGranules s k * 2 ^ 30)

/-- The starting stack of an object (R237). -/
def startStack (s : State) (part : Nat) : Nat :=
  if stackFree s (2 * part + 1) > stackFree s (2 * part) then 2 * part + 1 else 2 * part

/-- Alternation unit of an object: 2 MiB, or the page for 1 GiB pages. -/
def regionBytes (page : Nat) : Nat := if page = 2 then 2 ^ 30 else 2 ^ 21

/-- The stack that backs a page at its first mapping (R237): by region parity, then the other stack of the partition,
then the other online partitions in ascending order. -/
def backStack (s : State) (m : MemObj) (start pg : Nat) : Nat :=
  let other := if start % 2 = 0 then start + 1 else start - 1
  let want := if pg * pageBytes m.page / regionBytes m.page % 2 = 0 then start else other
  let alt := if want = start then other else start
  let b := pageBytes m.page
  if stackFits s want b then want
  else if stackFits s alt b then alt
  else ((List.range 8).find? fun k => decide (k / 2 ≠ m.part) && stackFits s k b).getD want

/-- Map a page at its first access (R237), listing its zeros as due in confidential mode (R279). -/
def mapPage (slot pg : Nat) (s : State) : State :=
  match tget s.mems slot with
  | none => s
  | some m =>
    if thas m.mapped pg then s
    else
      let st := m.start.getD (startStack s m.part)
      let k := backStack s m st pg
      let s := modMem slot (fun m => { m with start := some st, mapped := tput m.mapped pg k }) s
      if confidential s then modIme (fun i => { i with zeroing := i.zeroing ++ [(slot, pg)] }) s else s

/-! ## The cache part (R229) -/

/-- Key of a 256 B line of a memory object. -/
def cacheKey (slot off : Nat) : Nat := slot * 2 ^ 32 + off / 256

/-- The mask of the bytes of a range that fall in the 256 B line that starts at `line`. -/
def lineMask (line off n : Nat) : Nat :=
  let lo := max line off
  let hi := min (line + 256) (off + n)
  if lo < hi then (2 ^ (hi - lo) - 1) * 2 ^ (lo - line) else 0

/-- One access to one 256 B line: residency at the page's first access, hits, misses, spilled accesses and dirty bytes
(R229, R231). -/
def touchLine (slot line off n : Nat) (wr : Bool) (s : State) : State :=
  match tget s.mems slot with
  | none => s
  | some m =>
    let pg := line / pageBytes m.page
    let first := !thas m.mapped pg
    let s := mapPage slot pg s
    let s := if first then makeResident slot pg s else s
    let c := homeOf s slot line
    let res := match tget s.mems slot with
      | some m' => m'.resident.contains pg
      | none => false
    if res then modClu c (fun k => { k with hits := k.hits + 1 }) s
    else
      let s := if m.cluster.isSome then modClu c (fun k => { k with spilled := k.spilled + 1 }) s else s
      let key := cacheKey slot line
      let dirty := if wr then lineMask line off n else 0
      match tget s.hbm.cache key with
      | some l =>
        let l' : CacheLine := { l with dirty := Nat.lor l.dirty dirty }
        modHbm (fun h => { h with cache := tput h.cache key l' }) (modClu c (fun k => { k with hits := k.hits + 1 }) s)
      | none =>
        let l' : CacheLine := { home := c, dirty := dirty }
        let s := if wr then s else modClu c (fun k => { k with misses := k.misses + 1 }) s
        modHbm (fun h => { h with cache := tput h.cache key l' }) s

/-- The 256 B lines of a range. -/
def cacheLines (off n : Nat) : List Nat :=
  if n = 0 then [] else (List.range ((off + n - 1) / 256 - off / 256 + 1)).map fun i => (off / 256 + i) * 256

/-- What the access to a range does to the stores, line by line; lines on an offline stack are not reached, and the
first such access to an object posts POISON_FOUND with source 3 (R481). -/
def touch (slot off n : Nat) (wr : Bool) (s : State) : State :=
  let s := (cacheLines off n).foldl (fun s l => if lineLost s slot l then s else touchLine slot l off n wr s) s
  match (cacheLines off n).find? (lineLost s slot), tget s.mems slot with
  | some l, some m =>
    if m.lossPosted then s
    else
      let k := (stackOf s slot l).getD 0xFF
      let s := modMem slot (fun m => { m with lossPosted := true }) s
      post (ctxFn s m.ctx) Att.poisonFound (fieldAt (l / 64 * 64) 0 52 + fieldAt 3 52 4 + fieldAt k 56 8)
        (mkHandle Hk.mem slot) s
  | _, _ => s

/-- Write bytes to a memory object with everything the access does. -/
def storeMem (a : Accessor) (slot off : Nat) (bs : List Byte) (s : State) : State :=
  writeMem a slot off bs (touch slot off bs.length true s)

/-- A device block writes bytes. -/
def storeBlk (slot off : Nat) (bs : List Byte) (s : State) : State := storeMem .block slot off bs s

end Sys2Proof.Machine
end

