-- ==== Sys2Proof/Machine/Engines.lean ====
section
/-!
DEFINITION. Sys2Proof/Machine/Engines.lean: the matrix engines, vector cores and service cores as units: their shape, what
stops and holds them, and how a task leaves them (chapters 06 and 08).
-/
namespace Sys2Proof.Machine

/-! ## Looking up and changing a unit -/

/-- Engine of a cluster. -/
def engAt (s : State) (c : Nat) : Engine := tgetD s.mxe.engines c Engine.init

/-- Change the engine of a cluster. -/
def modEng (c : Nat) (f : Engine → Engine) (s : State) : State :=
  modMxe (fun m => { m with engines := tupd m.engines c Engine.init f }) s

/-- A vector core. -/
def vcoreAt (s : State) (k : Nat) : VCore := tgetD s.vcu.cores k VCore.init

/-- Change a vector core. -/
def modVCore (k : Nat) (f : VCore → VCore) (s : State) : State :=
  modVcu (fun v => { v with cores := tupd v.cores k VCore.init f }) s

/-- The VCU window of a cluster. -/
def vcluAt (s : State) (c : Nat) : VcuClu := tgetD s.vcu.clu c VcuClu.init

/-- Change the VCU window of a cluster. -/
def modVclu (c : Nat) (f : VcuClu → VcuClu) (s : State) : State :=
  modVcu (fun v => { v with clu := tupd v.clu c VcuClu.init f }) s

/-- A service core. -/
def svcAt (s : State) (n : Nat) : SvcCore := tgetD s.svc.cores n SvcCore.init

/-- Change a service core. -/
def modSvcCore (n : Nat) (f : SvcCore → SvcCore) (s : State) : State :=
  modSvc (fun v => { v with cores := tupd v.cores n SvcCore.init f }) s

/-- Is a vector core masked (R215)? -/
def vcoreMasked (s : State) (k : Nat) : Bool := bitOf (vcluAt s (k / 160)).mask (k % 160)

/-! ## Shape (R165, R166) -/

/-- Is a tile-column of a mask wholly healthy? -/
def colHealthy (mask col : Nat) : Bool := (List.range 4).all fun r => !bitOf mask (16 * r + col)

/-- Healthy tile-columns among `n` from `lo`. -/
def healthyCols (mask lo n : Nat) : Nat := ((List.range n).filter fun i => colHealthy mask (lo + i)).length

/-- Is sub-array `i` of mode 16 healthy? -/
def sub16Healthy (mask i : Nat) : Bool :=
  (List.range 2).all fun r => (List.range 2).all fun c => !bitOf mask (16 * (2 * (i / 8) + r) + 2 * (i % 8) + c)

/-- Tile-columns of each sub-array of modes 1, 2 and 4. -/
def subCols (split : Nat) : Nat := if split = 0 then 16 else if split = 1 then 8 else 4

/-- Sub-arrays in service, in index order (R165). -/
def subsInService (mask split : Nat) : List Nat :=
  if split = 3 then (List.range 16).filter (sub16Healthy mask)
  else (List.range (16 / subCols split)).filter fun i => decide (healthyCols mask (subCols split * i) (subCols split) ≠ 0)

/-- Rows of a block (Table 06-9). -/
def blockRows (split : Nat) : Nat := if split = 3 then 64 else 128

/-- Columns of a block: the narrowest healthy width of the sub-arrays in service (R165). -/
def blockCols (mask split : Nat) : Nat :=
  if split = 3 then 64
  else
    match minBy (fun n => n) ((subsInService mask split).map fun i => healthyCols mask (subCols split * i) (subCols split)) with
    | some n => 32 * n
    | none => 0

/-- Masked tiles of an engine. -/
def tilesMasked (mask : Nat) : Nat := popCount mask 64

/-- MXE_ENG_SHAPE (Table 06-17). -/
def engShape (mask : Nat) : Nat := healthyCols mask 0 16 + (subsInService mask 3).length * 256

/-! ## Stops (Table 06-8) -/

/-- Do thermal stage 3 or a power fail hold the engines and vector cores (R36, R33)? -/
def unitsHeld (s : State) : Bool := decide (3 ≤ s.mod.thermalStage) || s.mod.failStopped

/-- Is a unit of a kind and index under engine reset? -/
def resetting (s : State) (kind index : Nat) : Bool := s.flt.engines.any fun e => e.1 = kind * 65536 + index

/-- Is a cluster out of service for its units: retired, its partition offline or under reset? -/
def cluOut (s : State) (c : Nat) : Bool := !cluInService s c || partInReset s (c / 16)

/-- Does the engine wait for a bank to drain (R157)? -/
def engStalled (e : Engine) : Bool :=
  match e.run with
  | some t => t.subs.any fun (p : Nat × SubArray) =>
      match p.2.run with
      | some b => !b.chunks.isEmpty && t.drains.any fun (d : Drain) => decide (d.sub = p.1) && decide (d.block.bank = b.bank)
      | none => false
  | none => false

/-- STATE of MXE_ENG_STATE (Table 06-14). -/
def engStateCode (s : State) (c : Nat) : Nat :=
  let e := engAt s c
  if !cluInService s c then 8
  else if resetting s 0 c then 7
  else if unitsHeld s && (e.run.isSome || decide (e.phase ≠ .idle)) then 6
  else
    match e.phase with
    | .idle => 0
    | .rampUp => 1
    | .run => if engStalled e then 5 else 2
    | .gap => 3
    | .rampDown => 4

/-- Is an engine IDLE or OFFLINE, as the quiescent point of R175 asks? -/
def engQuiet (s : State) (c : Nat) : Bool := decide (engStateCode s c = 0) || decide (engStateCode s c = 8)

/-- Work comes to an engine: idle or ramping down, it asks for a ramp-up; in a gap, a ramp-down not yet granted is taken
back (R168, R170). -/
def engWake (e : Engine) : Engine :=
  match e.phase with
  | .idle => { e with want := some true }
  | .rampDown => { e with want := some true }
  | .gap => { e with want := none }
  | _ => e

/-- Thermal stage 3 or a power fail stops every engine (R161, R174): all groups are clock-gated, and a ramp-up under way
starts again from group 0 when the stage is left. -/
def holdEngines (s : State) : State :=
  modMxe (fun m => { m with engines := tmapv m.engines fun _ (e : Engine) => { e with phase := .idle, groups := 0, want := none } }) s

/-- Thermal stage 3 is left: engines that hold a task ask for their ramp-up again. -/
def releaseEngines (s : State) : State :=
  modMxe (fun m => { m with engines := tmapv m.engines fun _ (e : Engine) =>
    if e.run.isSome then { e with want := some true } else e }) s

/-! ## Flags (R197, R198) -/

/-- The flags a task raised join AFLAGS of its context and those of its launch. -/
def flagsToCtx (l flags : Nat) (s : State) : State :=
  match findLaunch s l with
  | some x =>
    let s := modCtx x.ctx (fun c => { c with aflags := flagsOr c.aflags flags }) s
    modTsk (fun t => { t with launches := t.launches.map fun (y : Launch) =>
      if y.id = l then { y with flags := flagsOr y.flags flags } else y }) s
  | none => s

/-- The flags of a task that leaves engine `c`. -/
def flagsFromEng (c l flags : Nat) (s : State) : State :=
  modEng c (fun e => { e with flags := flagsOr e.flags flags }) (flagsToCtx l flags s)

/-! ## A task leaves its core (R162, R216) -/

/-- Does a slot hold a task of a list? -/
def slotIn (ts : List (Nat × Nat)) (t : Option MatTask) : Bool :=
  match t with
  | some t => ts.contains (t.launch, t.task)
  | none => false

/-- The flags of a slot's task. -/
def slotFlags (t : Option MatTask) : Nat × Nat :=
  match t with
  | some t => (t.launch, t.flags)
  | none => (0, 0)

/-- Tasks leave an engine: their accumulators, banks and drain bytes go, and the staged task moves up (R162). -/
def clearEngine (c : Nat) (ts : List (Nat × Nat)) (s : State) : State :=
  let e := engAt s c
  let a := slotIn ts e.run
  let b := slotIn ts e.staged
  if !a && !b then s
  else
    let s := if a then flagsFromEng c (slotFlags e.run).1 (slotFlags e.run).2 s else s
    let s := if b then flagsFromEng c (slotFlags e.staged).1 (slotFlags e.staged).2 s else s
    let staged := if b then none else e.staged
    modEng c (fun e => if a then { e with run := staged, staged := none } else { e with staged := staged }) s

/-- Tasks leave a vector core: their flags join AFLAGS, their threads are free; dirty bytes stay in the cache (R216). -/
def clearVCore (k : Nat) (ts : List (Nat × Nat)) (s : State) : State :=
  let gone := (vcoreAt s k).threads.filter fun (e : Nat × Thread) => ts.contains (e.2.launch, e.2.task)
  if gone.isEmpty then s
  else
    let s := gone.foldl (fun s (e : Nat × Thread) => flagsToCtx e.2.launch e.2.flags s) s
    modVCore k (fun v => { v with threads := v.threads.filter fun (e : Nat × Thread) => !ts.contains (e.2.launch, e.2.task) }) s

/-- Free the core slots that tasks hold. -/
def clearCores (ts : List (Nat × Nat)) (s : State) : State :=
  let s := (tkeys s.mxe.engines).foldl (fun s c => clearEngine c ts s) s
  let s := (tkeys s.vcu.cores).foldl (fun s k => clearVCore k ts s) s
  modSvc (fun v => { v with cores := tmapv v.cores fun _ (c : SvcCore) =>
    match c.task with
    | some t => if ts.contains t then { c with task := none, x := [], resv := none } else c
    | none => c }) s

/-- A discarded generation's marked lines go from every core's data cache without write-back (R214). -/
def dropMarked (l : Nat) (s : State) : State :=
  modVcu (fun v => { v with cores := tmapv v.cores fun _ (c : VCore) =>
    { c with lines := c.lines.filter fun (d : DLine) =>
        match d.mark with
        | some (x, _) => x ≠ l
        | none => true } }) s

/-- A freed memory object's bytes go from every core's data cache. -/
def dropSlotLines (slot : Nat) (s : State) : State :=
  let s := modVcu (fun v => { v with cores := tmapv v.cores fun _ (c : VCore) =>
    { c with lines := c.lines.filter fun (d : DLine) => d.slot ≠ slot } }) s
  modSvc (fun v => { v with cores := tmapv v.cores fun _ (c : SvcCore) =>
    { c with dirty := c.dirty.filter fun e => e.1 / 2 ^ 40 ≠ slot || decide (2 ^ 60 ≤ e.1) } }) s

/-- A unit loses everything it holds at an engine reset (R164, R215, R223): accumulators, threads, cached bytes. -/
def wipeUnit (kind index : Nat) (s : State) : State :=
  if kind = 0 then modEng index (fun e => { e with phase := .idle, groups := 0, want := none, run := none, staged := none }) s
  else if kind = 1 then modVcu (fun v => { v with cores := tdel v.cores index }) s
  else if kind = 2 then
    modSvcCore index (fun c => { c with task := none, x := [], resv := none, dirty := [], trap := none
                                        resets := satAdd 255 c.resets 1
                                        times := s.now :: c.times.filter fun t => s.now < t + 1000000000 }) s
  else s

/-- The units of a partition lose everything they hold at its reset (R480). -/
def wipePartition (p : Nat) (s : State) : State :=
  let s := modMxe (fun m => { m with engines := tmapv m.engines fun c (e : Engine) =>
    if c / 16 = p then { e with phase := .idle, groups := 0, want := none, run := none, staged := none } else e }) s
  let s := modVcu (fun v => { v with cores := v.cores.filter fun (e : Nat × VCore) => e.1 / 2560 ≠ p }) s
  modSvc (fun v => { v with cores := tmapv v.cores fun n (c : SvcCore) =>
    if n / 8 = p then { c with task := none, x := [], resv := none, dirty := [], trap := none } else c }) s

end Sys2Proof.Machine
end

