-- ==== Sys2Proof/Machine/Ports.lean ====
section
/-!
DEFINITION. Sys2Proof/Machine/Ports.lean: the link ports: routing, credits, transmission, state moves and the cabling
check (chapter 11).
-/
namespace Sys2Proof.Machine

/-! ## Identity and ports -/

/-- Node ID (R21). -/
def nodeId (s : State) : Nat := s.mod.strapBoard * 16 + s.mod.strapSlot

/-- The partition of a port (Table 00-4). -/
def portPart (p : Nat) : Nat := if p < 15 then p / 4 else (p - 15) / 2

/-- Is a port a board port? -/
def isBoard (p : Nat) : Bool := decide (p < 15)

/-- Lanes of a port (Table 11-1). -/
def portLanes (p : Nat) : Nat := if p < 15 then 4 else 8

/-- Flits of the receive buffer and of the replay buffer (Table 11-1). -/
def portBuffer (p : Nat) : Nat := if p < 15 then 512 else 20480

/-- Reserved credits of a virtual channel (Table 11-6); 4 is VC-B for INGEST_DATA only. -/
def credMax (p vc : Nat) : Nat :=
  if p < 15 then (if vc = 0 then 8 else if vc < 4 then 64 else 0)
  else if vc = 0 then 16 else if vc = 1 ∨ vc = 2 then 1024 else if vc = 3 then 768 else 256

/-- Shared credits (Table 11-6). -/
def credSharedMax (p : Nat) : Nat := if p < 15 then 312 else 17392

/-- The full reservation of every channel. -/
def credFull (p : Nat) : Tbl Nat := (List.range 5).map fun v => (v, credMax p v)

/-- The plan a port holds after a chip reset (R307): the mesh peer of R23 for a board port, ANY for an optical one. -/
def planInit (s : State) (p : Nat) : PortPlan :=
  if p < 15 then
    { kind := .expect, port := p, node := s.mod.strapBoard * 16 + Nat.xor s.mod.strapSlot (p + 1) % 16 }
  else { kind := .any_, port := 0, node := 0 }

/-- A port at chip reset (Tables 11-17 to 11-23). -/
def portInit (s : State) (p : Nat) : Port :=
  { state := .disabled, lanes := 0, failed := 0, half := false, enable := true, accept := false, allowDegraded := true
    plan := planInit s p, planDue := false, peer := none, check := 0, checked := false, retrains := 0, lost := 0
    drops := 0, crcFails := 0, txFlits := 0, rxSeq := 0, nakOut := false, rxUnacked := 0, rx := [], rxFrame := []
    rxCount := 0, txSeq := 0, txOldest := 0, replay := [], replays := 0, txCount := 0, credShared := credSharedMax p
    cred := credFull p, owed := [], txq := [], deficit := [], turn := 1, sinceM := 15, protoErr := [], secured := false
    linkKeys := (0, 0), hs := .idle, hsEph := 0
    hsOffers := ([], []), hsProofs := ([], []), hsFinish := [], hsPeerKey := [] }

/-- The port of an index. -/
def portOf (s : State) (p : Nat) : Port := tgetD s.lnk.ports p (portInit s p)

/-- Change a port. -/
def modPort (p : Nat) (f : Port → Port) (s : State) : State :=
  let i := portInit s p
  modLnk (fun l => { l with ports := tupd l.ports p i f }) s

/-! ## Port states (R304, R309) -/

/-- The number of a port state (Table 11-8). -/
def portCode (st : PortState) : Nat :=
  match st with
  | .disabled => 0
  | .training => 1
  | .hello => 2
  | .up => 3
  | .degraded => 4
  | .retrain => 5
  | .down => 6
  | .secureWait => 7
  | .secureFailed => 8

/-- Does a state carry all traffic? -/
def carries (st : PortState) : Bool := decide (st = .up) || decide (st = .degraded)

/-- A mismatch is accepted (R309): never LOOPBACK. -/
def portAccepted (x : Port) : Bool := x.accept && decide (x.check ≠ 0) && decide (x.check ≠ 4)

/-- Is a port usable for routed packets (R301)? -/
def portUsable (s : State) (p : Nat) : Bool :=
  let x := portOf s p
  carries x.state && (decide (x.check = 0) || portAccepted x) && (!confidential s || x.secured)

/-- Move a port to a state with a number of active lanes; each move into or out of UP or DEGRADED posts LINK_CHANGE. -/
def movePort (p : Nat) (st : PortState) (lanes : Nat) (s : State) : State :=
  let old := (portOf s p).state
  let s := modPort p (fun x => { x with state := st, lanes := lanes }) s
  let s := if carries old && !carries st then modCol (fun c => { c with caps := if p < 15 then c.caps else tdel c.caps (p - 15) }) s else s
  if old ≠ st ∧ (carries old || carries st) then
    post 0 Att.linkChange (fieldAt p 0 5 + fieldAt (portCode st) 8 4 + fieldAt (portCode old) 12 4 + fieldAt lanes 16 4)
      0 s
  else s

/-- May a port train: enabled, its partition online, the board ID not reserved (R21, R283)? -/
def portMay (s : State) (p : Nat) : Bool :=
  (portOf s p).enable && !partOff s (portPart p) && !partInReset s (portPart p) && decide (s.mod.strapBoard ≠ 0xFFFFF)

/-- Forget what the link holds toward its peer: the replay buffer, partial packets, frames, sequence numbers, keys. The
packets with flits in the replay buffer are lost (R310). -/
def linkLost (x : Port) : Port :=
  { x with lost := satAdd 255 x.lost x.replay.length, rxSeq := 0, nakOut := false, rxUnacked := 0, rx := []
           rxFrame := [], rxCount := 0, txSeq := 0, txOldest := 0, replay := [], replays := 0, txCount := 0
           owed := [], secured := false, linkKeys := (0, 0), hs := .idle, hsEph := 0
           hsOffers := ([], []), hsProofs := ([], []), hsFinish := [], hsPeerKey := [] }

/-- A port goes DOWN (R310). -/
def portDown (p : Nat) (s : State) : State := movePort p .down 0 (modPort p linkLost s)

/-- A port starts training (R304). -/
def portTrain (p : Nat) (s : State) : State :=
  movePort p .training 0 (modPort p (fun x => { linkLost x with failed := 0, half := false }) s)

/-- A port retrains (R305): the replay buffer, the frame counters and the link keys are kept. -/
def portRetrain (p : Nat) (half : Bool) (s : State) : State :=
  let s := modPort p (fun x => { x with half := half, retrains := satAdd 255 x.retrains 1, replays := 0 }) s
  movePort p .retrain 0 s

/-! ## Routing (R300, R301) -/

/-- Does a routing entry match a destination? -/
def rtMatch (e dest : Nat) : Bool :=
  bitOf e 63 && decide (Nat.land (Nat.xor dest (bitsOf e 0 24)) (bitsOf e 24 24) = 0)

/-- The entry of a table that wins for a destination (R301 step 2). -/
def rtWinner (s : State) (table dest : Nat) (arrival : Option Nat) : Option Nat :=
  let es := s.lnk.routes.filter fun (e : Nat × Nat) =>
    decide (e.1 / 65536 = table) && rtMatch e.2 dest
      && (decide (bitsOf e.2 48 5 = 31) || portUsable s (bitsOf e.2 48 5)) && decide (arrival ≠ some (bitsOf e.2 48 5))
  (minBy (fun (e : Nat × Nat) => (15 - bitsOf e.2 53 4) * 65536 + e.1 % 65536) es).map Prod.snd

/-- The port a packet takes from a table (R301); none where it is discarded. -/
def routeOf (s : State) (table dest : Nat) (arrival : Option Nat) : Option Nat :=
  let direct := (Nat.xor s.mod.strapSlot (dest % 16)) - 1
  if s.lnk.boardDirect && decide (dest / 16 = s.mod.strapBoard) && portUsable s direct && decide (arrival ≠ some direct) then
    some direct
  else
    match rtWinner s table dest arrival with
    | some e => if bitsOf e 48 5 = 31 then none else some (bitsOf e 48 5)
    | none => none

/-- Count a discarded packet on a port. -/
def routeDrop (p : Nat) (s : State) : State := modPort p (fun x => { x with drops := satAdd 65535 x.drops 1 }) s

/-! ## Packets and flits (R289, R290) -/

/-- The class of a packet (Table 11-5). -/
def msgClass (m : Msg) : Nat :=
  match m with
  | .eventReq _ _ _ _ _ => 0x10
  | .eventRsp _ _ => 0x11
  | .collCtl _ _ _ _ _ _ => 0x20
  | .collAck _ _ _ => 0x21
  | .collData _ _ _ _ _ _ => 0x22
  | .ingestCtl _ _ _ => 0x05
  | .ctl c _ _ => c
  | .data c _ _ _ => c
  | .transit _ _ c _ _ _ _ => c

/-- The virtual channel of a class (Table 11-5); none for a reserved class. -/
def classVc (c : Nat) : Option Nat :=
  if c ∈ [0x01, 0x02, 0x03, 0x04, 0x05] then some 0
  else if c ∈ [0x11, 0x21, 0x31] then some 1
  else if c ∈ [0x10, 0x20, 0x30] then some 2
  else if c ∈ [0x22, 0x32, 0x40] then some 3
  else none

/-- Payload bytes of a packet. -/
def msgBytes (m : Msg) : Nat :=
  match m with
  | .collData _ _ _ _ _ d => d.length
  | .ingestCtl _ _ b => b.length
  | .data _ _ _ b => b.length
  | .transit _ _ _ _ _ _ b => b.length
  | .collCtl _ _ _ _ _ v => 16 + 2 * v.length
  | _ => 16

/-- HEAD and BODY flits of a packet: 16 header bytes and the payload in 240 B flits (R289). -/
def msgFlits (m : Msg) : Nat := (16 + msgBytes m + 239) / 240

/-- Is a packet a HELLO or SESSION packet, which travel in plaintext and in every state that carries any? -/
def msgPlain (m : Msg) : Bool := decide (msgClass m = 0x01) || decide (msgClass m = 0x04)

/-! ## Credits (R292) -/

/-- Credits a packet may take. -/
def credFor (x : Port) (k : TxPkt) : Nat :=
  x.credShared + tgetD x.cred k.vc 0 + (if k.ingest then tgetD x.cred 4 0 else 0)

/-- Take credits for a packet: shared ones first, then the channel's reservation. -/
def credTake (x : Port) (k : TxPkt) : Port :=
  let a := min k.flits x.credShared
  let b := min (k.flits - a) (tgetD x.cred k.vc 0)
  let c := k.flits - a - b
  let cr := tput x.cred k.vc (tgetD x.cred k.vc 0 - b)
  { x with credShared := x.credShared - a, cred := if c = 0 then cr else tput cr 4 (tgetD cr 4 0 - c) }

/-- Credits of a channel come back: its reservation fills first, then the shared pool. -/
def credGive (p vc n : Nat) (x : Port) : Port :=
  let a := min n (credMax p vc - tgetD x.cred vc 0)
  let cr := tput x.cred vc (tgetD x.cred vc 0 + a)
  let b := if vc = 3 then min (n - a) (credMax p 4 - tgetD cr 4 0) else 0
  let cr := if b = 0 then cr else tput cr 4 (tgetD cr 4 0 + b)
  { x with cred := cr, credShared := min (credSharedMax p) (x.credShared + (n - a - b)) }

/-! ## Transmission (R292, R293, R296, R298) -/

/-- May a port in its present state send a packet? -/
def portSends (s : State) (x : Port) (k : TxPkt) : Bool :=
  if k.plain then
    carries x.state || decide (x.state = .hello) || decide (x.state = .secureWait)
      || (decide (x.state = .secureFailed) && decide (msgClass k.msg = 0x01))
  else carries x.state && (!confidential s || x.secured)

/-- Flits in the replay buffer. -/
def unackedFlits (x : Port) : Nat := (x.txSeq + 65536 - x.txOldest) % 65536

/-- TAG flits of a packet in confidential mode: one for each 15 data flits. -/
def tagFlits (s : State) (k : TxPkt) : Nat := if confidential s && !k.plain then (k.flits + 14) / 15 else 0

/-- The first waiting packet of a channel, where it can start now. -/
def vcReady (s : State) (p : Nat) (x : Port) (vc : Nat) : Option TxPkt :=
  match x.txq.find? fun (k : TxPkt) => k.vc = vc && (k.plain || carries x.state) with
  | some k =>
    if portSends s x k && decide (k.flits ≤ credFor x k) && decide (unackedFlits x + k.flits + tagFlits s k ≤ portBuffer p)
    then some k else none
  | none => none

/-- Weight of a virtual channel. -/
def vcWeight (s : State) (vc : Nat) : Nat := if vc = 1 then s.lnk.wS else if vc = 2 then s.lnk.wQ else s.lnk.wB

/-- Deficit round-robin over VC-S, VC-Q and VC-B in flits: the packet served next, with the deficits and the turn after
it. -/
def drrPick (s : State) (ready : List (Nat × TxPkt)) : Nat → Nat → Tbl Nat → Option (TxPkt × Nat × Tbl Nat)
  | 0, _, _ => none
  | n + 1, turn, df =>
    match tget ready turn with
    | some k =>
      if k.flits ≤ tgetD df turn 0 then some (k, turn, tput df turn (tgetD df turn 0 - k.flits))
      else
        let nx := turn % 3 + 1
        drrPick s ready n nx (tput df nx (tgetD df nx 0 + vcWeight s nx))
    | none =>
      let nx := turn % 3 + 1
      drrPick s ready n nx (if (tget ready nx).isSome then tput df nx (tgetD df nx 0 + vcWeight s nx) else df)

/-- Remove the first packet equal to one given. -/
def txRemove (k : TxPkt) (l : List TxPkt) : List TxPkt := l.erase k

/-- A packet starts and leaves: credits, sequence numbers, replay buffer, counters; a transit packet's credits go back to
the peer it came from. -/
def txSend (p : Nat) (k : TxPkt) (s : State) : State :=
  let tags := tagFlits s k
  let s := modPort p (fun x =>
    let x := credTake x k
    let nx := (x.txSeq + k.flits + tags) % 65536
    { x with txq := txRemove k x.txq, txSeq := nx, replay := x.replay ++ [nx], txFlits := x.txFlits + k.flits + tags
             txCount := x.txCount + tags
             sinceM := if k.vc = 0 then 0 else min 15 (x.sinceM + k.flits) }) s
  let s := match k.from_ with
    | some q => modPort q (fun y => { y with owed := tput y.owed k.vc (tgetD y.owed k.vc 0 + k.flits) }) s
    | none => s
  emit (.packet p k.dest k.msg) s

/-- Send what can be sent: VC-M first, at most one flit in 16 while another channel has a packet ready, then the deficit
round-robin. -/
def portDrain (p : Nat) : Nat → State → State
  | 0, s => s
  | n + 1, s =>
    let x := portOf s p
    let ready := [1, 2, 3].filterMap fun v => (vcReady s p x v).map fun k => (v, k)
    match vcReady s p x 0 with
    | some k =>
      if ready.isEmpty || decide (15 ≤ x.sinceM) then portDrain p n (txSend p k s)
      else
        match drrPick s ready 128 x.turn x.deficit with
        | some (k', t, df) =>
          portDrain p n (txSend p k' (modPort p (fun x => { x with turn := t, deficit := df }) s))
        | none => s
    | none =>
      if ready.isEmpty then s
      else
        match drrPick s ready 128 x.turn x.deficit with
        | some (k', t, df) =>
          portDrain p n (txSend p k' (modPort p (fun x => { x with turn := t, deficit := df }) s))
        | none => s

/-- Send what a port can send. -/
def drainPort (p : Nat) (s : State) : State := portDrain p ((portOf s p).txq.length) s

/-- Put a packet in a port's queue and send what can be sent. -/
def enqueue (p : Nat) (from_ : Option Nat) (dest : Option Nat) (m : Msg) (s : State) : State :=
  let k : TxPkt :=
    { vc := (classVc (msgClass m)).getD 0, flits := msgFlits m, ingest := decide (msgClass m = 0x40), from_ := from_
      plain := msgPlain m, dest := dest, msg := m }
  drainPort p (modPort p (fun x => { x with txq := x.txq ++ [k] }) s)

/-- Send a packet on a port to the link's peer. -/
def sendPort (p : Nat) (m : Msg) (s : State) : State := enqueue p none none m s

/-- Send a packet to a node by routing table 23 (R300, R301); one with no route is discarded and counted on port 0. -/
def sendTo (node : Nat) (m : Msg) (s : State) : State :=
  match routeOf s 23 node none with
  | some p => enqueue p none (some node) m s
  | none => routeDrop 0 s

/-! ## The cabling check (R307 to R309) -/

/-- Two EXPECT ports whose peers are each other's expected ones. -/
def swappedPair (s : State) (p q : Nat) : Bool :=
  let x := portOf s p
  let y := portOf s q
  match x.peer, y.peer with
  | some a, some b =>
    decide (p ≠ q) && decide (x.plan.kind = .expect) && decide (y.plan.kind = .expect)
      && decide (a.node = y.plan.node) && decide (a.port = y.plan.port)
      && decide (b.node = x.plan.node) && decide (b.port = x.plan.port)
  | _, _ => false

/-- The result of the check of a port (R308), in the order the rule gives. -/
def checkResult (s : State) (p : Nat) : Nat :=
  let x := portOf s p
  match x.peer with
  | none => if x.plan.kind = .unused then 0 else 1
  | some a =>
    if a.node = nodeId s then 4
    else if (List.range 23).any (swappedPair s p) then 3
    else
      match x.plan.kind with
      | .any_ => 0
      | .unused => 2
      | .expect => if a.node = x.plan.node ∧ a.port = x.plan.port then 0 else 2

/-- DETAIL of CABLE_MISMATCH (R309). -/
def cableDetail (p r : Nat) (peer : Option Peer) : Nat :=
  match peer with
  | some a => fieldAt p 0 5 + fieldAt r 5 3 + fieldAt a.node 8 24 + fieldAt a.port 32 8
  | none => fieldAt p 0 5 + fieldAt r 5 3

/-- Store a check's result and post CABLE_MISMATCH for a new one other than OK; MISSING on an ANY port posts nothing. -/
def storeCheck (p : Nat) (s : State) : State :=
  let x := portOf s p
  let r := checkResult s p
  let isNew := !x.checked || decide (x.check ≠ r)
  let s := modPort p (fun y => { y with check := r, checked := true, planDue := false }) s
  if isNew && decide (r ≠ 0) && !(decide (r = 1) && decide (x.plan.kind = .any_)) then
    post 0 Att.cableMismatch (cableDetail p r x.peer) 0 s
  else s

/-- The check of a port, with that of every port already checked, since a pair of ports reports SWAPPED together. -/
def cableCheck (p : Nat) (s : State) : State :=
  (List.range 23).foldl (fun s q => if q = p || (portOf s q).checked then storeCheck q s else s) s

/-- The state and lanes a port enters after HELLO (R306): SECURE_WAIT in confidential mode, else UP, or DEGRADED at half
width. -/
def enterUp (p : Nat) (s : State) : State :=
  let x := portOf s p
  let lanes := if x.half then portLanes p / 2 else portLanes p
  let st := if confidential s && !x.secured then PortState.secureWait else if x.half then .degraded else .up
  let s := modPort p (fun x => { x with credShared := credSharedMax p, cred := credFull p }) s
  drainPort p (movePort p st lanes s)

/-- SESSION opens: every port discards the flits it holds and enters SECURE_WAIT (Table 17-7). -/
def portsSecure (s : State) : State :=
  (List.range 23).foldl (fun s p =>
    let x := portOf s p
    if carries x.state || decide (x.state = .hello) then
      movePort p .secureWait x.lanes (modPort p (fun x => { linkLost x with txq := [] }) s)
    else s) s

/-- A session ends: every port discards unverified frames, erases its link keys and retrains (R311, R453). -/
def portsUnsecure (s : State) : State :=
  (List.range 23).foldl (fun s p =>
    let x := portOf s p
    if carries x.state || decide (x.state = .secureWait) || decide (x.state = .secureFailed) || decide (x.state = .retrain) then
      portRetrain p x.half (modPort p (fun x => { linkLost x with lost := x.lost }) s)
    else s) s

/-- The ports of a partition go DOWN (R283, R310). -/
def partPortsDown (part : Nat) (s : State) : State :=
  (List.range 23).foldl (fun s p =>
    if portPart p = part && decide ((portOf s p).state ≠ .disabled) then portDown p s else s) s

end Sys2Proof.Machine
end

