-- ==== Sys2Proof/Machine/Events.lean ====
section
/-!
DEFINITION. Sys2Proof/Machine/Events.lean: event updates and everything they release (R103 to R105), tokens, firing and
skipping of tasks (R124 to R126, R130), the end of descriptors (R98, R104), and the removal of work (R113).
-/
namespace Sys2Proof.Machine

/-! ## Events (R103) -/

/-- An update of an event. -/
inductive EvOp where
  /-- A signal with a payload; with ERROR set first or not (R104). -/
  | sig (payload : Nat) (err : Bool)
  /-- An add. -/
  | add (n : Nat)
  /-- A reset. -/
  | rst
  /-- The loss of the event's home partition (R480). -/
  | lost
  deriving DecidableEq, Repr

/-- The state after an update (R103). -/
def evApply (op : EvOp) (e : Event) : Event :=
  match op with
  | .sig p err =>
    let n := satAdd (2 ^ 32 - 1) e.count 1
    { e with payload := p, count := n, signalled := if e.counter then decide (e.threshold ≤ n) else true
             error := e.error || err }
  | .add k =>
    let n := satAdd (2 ^ 32 - 1) e.count k
    { e with count := n, signalled := if e.counter then decide (e.threshold ≤ n) else e.signalled }
  | .rst => { e with count := 0, payload := 0, signalled := if e.counter then decide (e.threshold ≤ 0) else false
                     error := false }
  | .lost => { e with count := 0, payload := 0, signalled := true, error := true }

/-- The results of EVENT_WAIT and EVENT_QUERY (Table 04-15). -/
def evResult (status h : Nat) (e : Event) : Result :=
  { status := status, handle := h, aux := e.count, value := e.payload, flags := bitAt e.signalled 0 + bitAt e.error 1 }

/-- End an EVENT_WAIT that the event's state satisfies (R105). -/
def releaseWaiter (slot : Nat) (e : Event) (d : Desc) : Desc :=
  if dOp d = 0x43 ∧ d.phase = .running ∧ d.note = slot ∧ e.signalled then
    { d with phase := .ended (evResult (if e.error then St.aborted else St.done) (mkHandle Hk.ev slot) e) }
  else d

/-- Is the trigger of a pending operation satisfied by an event's state (R341)? -/
def opTriggered (slot : Nat) (e : Event) (o : TrigOp) : Bool :=
  decide (o.state = .pending) && decide (o.op.trigger = slot)
    && (if e.counter then decide (o.op.threshold ≤ e.count) else e.signalled)

/-! ## Worklists -/

/-- What an update sets going. -/
inductive Work where
  /-- A token of a launch becomes present, with error or not. -/
  | tok (l j : Nat) (err : Bool)
  /-- An event is updated. -/
  | upd (slot : Nat) (op : EvOp)
  deriving DecidableEq, Repr

/-- Change a launch. -/
def modLaunch (l : Nat) (f : Launch → Launch) (s : State) : State :=
  modTsk (fun t => { t with launches := t.launches.map fun (x : Launch) => if x.id = l then f x else x }) s

/-- Where a task of a launch stands. -/
def taskState (x : Launch) (t : Nat) : TaskState := tgetD x.tasks t .waiting

/-- The event slot an EVENT token of a launch names. -/
def tokEvent (x : Launch) (r : TokRec) : Option Nat :=
  if r.kind = .event then (x.args[r.arg]?).map hSlot else none

/-- The tokens of a graph with their numbers. -/
def numbered {α : Type} (l : List α) : List (Nat × α) := (List.range l.length).zip l

/-- Work that the state of an event sets going on the tokens of the launches (R124). -/
def evTokens (s : State) (slot : Nat) (e : Event) : List Work :=
  if e.signalled then
    (s.tsk.launches.map fun (x : Launch) =>
      match launchGraph s x with
      | some g =>
        (numbered g.tokens).filterMap fun (p : Nat × TokRec) =>
          if tokEvent x p.2 = some slot ∧ thas x.toks p.1 = false then some (Work.tok x.id p.1 e.error) else none
      | none => []).flatten
  else []

/-- The reasons an operation ends with (Table 13-6): TRIGGER_ERROR. -/
def Why.triggerError : Nat := 0x01
/-- POISON -/
def Why.poison : Nat := 0x06
/-- TIMEOUT -/
def Why.timeout : Nat := 0x05

/-- Status of a reason (R342). -/
def whyStatus (reason : Nat) : Nat :=
  if reason = 0 then St.done else if reason = Why.poison then St.poisoned
  else if reason = Why.timeout then St.timeout else St.aborted

/-- The own rank in an operation's group. -/
def opRank (s : State) (o : TrigOp) : Nat :=
  match tget s.col.groups o.op.group with
  | some g => g.rank
  | none => 0

/-- The status record of Table 13-5. -/
def opStatusBytes (o : TrigOp) (reason rank : Nat) : List Byte :=
  leBytes 1 (whyStatus reason) ++ leBytes 1 reason ++ leBytes 1 (o.flags % 16) ++ leBytes 1 0 ++ leBytes 2 rank
    ++ leBytes 2 0 ++ leBytes 8 o.bytes

/-- An operation ends (R342): its status record, the signal of its COMPLETE event, its slot freed. -/
def opFinish (o : TrigOp) (reason rank : Nat) (s : State) : List Work × State :=
  let s := match o.op.status with
    | some m =>
      match tget s.mems m with
      | some obj =>
        if writableRange obj o.op.statusOff 16 then storeBlk m o.op.statusOff (opStatusBytes o reason rank) s else s
      | none => s
    | none => s
  let s := modCol (fun c => { c with ops := c.ops.filter fun (p : TrigOp) => p.id ≠ o.id }) s
  match o.op.complete with
  | some e => ([Work.upd e (.sig o.op.tag (decide (reason ≠ 0)))], s)
  | none => ([], s)

/-- A collective engine's counters. -/
def colEng (s : State) (e : Nat) : ColEngine := tgetD s.col.engines e { tx := 0, rx := 0, aborts := 0, resends := 0 }

/-- Change a collective engine's counters. -/
def modColEng (e : Nat) (f : ColEngine → ColEngine) (s : State) : State :=
  modCol (fun c => { c with engines := tput c.engines e (f (colEng s e)) }) s

/-- The other members of an operation's group, in rotation order from the own rank. -/
def opPeers (s : State) (o : TrigOp) : List Nat :=
  match tget s.col.groups o.op.group with
  | some g => g.members.drop (g.rank + 1) ++ g.members.take g.rank
  | none => []

/-- GROUP_TAG of an operation. -/
def opTag (s : State) (o : TrigOp) : Nat :=
  match tget s.col.groups o.op.group with
  | some g => g.tag
  | none => 0

/-- Send a COLL_CTRL packet of an operation to nodes in turn. -/
def opTell (o : TrigOp) (kind first : Nat) (vals : List Int) (nodes : List Nat) (s : State) : State :=
  nodes.foldl (fun s n => sendTo n (.collCtl kind (opTag s o) o.seq o.sig first vals) s) s

/-- An operation fails (R360): it counts as failed, and where `tell` says so every other member gets ABORT. -/
def opFail (o : TrigOp) (reason rank : Nat) (tell : Bool) (s : State) : List Work × State :=
  let s := if tell then opTell o 5 0 [reason, rank, 0] (opPeers s o) s else s
  opFinish o reason rank (modColEng o.engine (fun e => { e with aborts := satAdd 65535 e.aborts 1 }) s)

/-- Has an operation fired? -/
def opFired (o : TrigOp) : Bool := decide (o.state ≠ .pending)

/-- Operations fail in turn; with CANCELLED, only those that have fired tell their peers (R361). -/
def opsFail (reason : Nat) : List TrigOp → State → List Work × State
  | [], s => ([], s)
  | o :: l, s =>
    let (w, s) := opFail o reason (opRank s o) (decide (reason ≠ 0x0A) || opFired o) s
    let (w', s) := opsFail reason l s
    (w ++ w', s)

/-- Home partition of a context. -/
def homeOfCtx (s : State) (c : Nat) : Nat :=
  match tget s.ctxs c with
  | some x => x.home
  | none => 0

/-- Lowest engine of a partition that a mask names. -/
def leadEngine (part mask : Nat) : Nat := 8 * part + (firstFrom (bitOf mask) 8 0).getD 0

/-- An operation fires (R341): one that an ABORT has met ends with PEER_ABORT (R362); one whose partition is offline goes to
the home partition's engines, or ends with ENGINE (R361); the others enter their engine's queue. -/
def fireOp (o : TrigOp) (s : State) : List Work × State :=
  match o.preAbort with
  | some r => opFail o 0x03 r true s
  | none =>
    let part := if partOff s o.op.part then homeOfCtx s o.ctx else o.op.part
    if partOff s part then opFail o 0x0B (opRank s o) true s
    else
      let f := fun (p : TrigOp) =>
        if p.id = o.id then { p with state := .queued, op := { p.op with part := part }, engine := leadEngine part p.op.mask
                                     fired := s.tsk.nextFire } else p
      ([], mapOps f s)

/-- Operations fire in post order. -/
def fireEach : List TrigOp → State → List Work × State
  | [], s => ([], s)
  | o :: l, s =>
    let (w, s) := fireOp o s
    let (w', s) := fireEach l s
    (w ++ w', s)

/-- An event's state fires the operations that wait on it (R341): with ERROR set they end with TRIGGER_ERROR. -/
def fireOps (slot : Nat) (e : Event) (s : State) : List Work × State :=
  let os := s.col.ops.filter (opTriggered slot e)
  if e.error then opsFail Why.triggerError os s else fireEach os s

/-- CONSUMED with a position (R394): the consumed position becomes the greatest record boundary at or below it; one below
the present position has no effect. -/
def consumeStream (p : Nat) (x : Stream) : Stream :=
  let pos := min p x.landed
  let past := x.bounds.filter fun b => b.1 ≤ pos
  match past.getLast? with
  | some b =>
    { x with consumed := b.1, bounds := x.bounds.filter fun b => !(decide (b.1 ≤ pos))
             samples := x.samples + (past.map fun b => b.2.1).sum, gapped := x.gapped + (past.map fun b => b.2.2).sum }
  | none => x

/-- What else hangs on a signal of an event: the CONSUMED events of streams (R394), the ARRIVE event (R328), the schedule runner's STEP_EVENT (R368). -/
def onSignal (slot : Nat) (op : EvOp) (s : State) : State :=
  match op with
  | .sig v _ =>
    let s := modIng (fun g => { g with streams := tmapv g.streams fun _ (x : Stream) =>
      if x.consumedEv = slot then consumeStream v x else x }) s
    let s := if s.wmk.arriveEv = some slot then
        (if s.wmk.arriveDue then modWmk (fun w => { w with repeatArrive := satAdd 255 w.repeatArrive 1 }) s
         else modWmk (fun w => { w with arriveDue := true }) s)
      else s
    { s with runners := tmapv s.runners fun _ (r : Runner) =>
        if r.stepEvent = slot ∧ r.active then { r with fresh := false, sigAt := s.now } else r }
  | _ => s

/-- Apply an update to an event and release what it satisfies; an event being destroyed takes no update (R113). -/
def doUpdate (slot : Nat) (op : EvOp) (s : State) : List Work × State :=
  match tget s.evs slot with
  | none => ([], s)
  | some e =>
    if e.aborting then ([], s)
    else
      let e' := evApply op e
      let s := { s with evs := tput s.evs slot e' }
      let s := mapDescs (releaseWaiter slot e') s
      let (w, s) := if op = .lost then
          opsFail Why.triggerError
            (s.col.ops.filter fun (o : TrigOp) => decide (o.state = .pending) && decide (o.op.trigger = slot)) s
        else fireOps slot e' s
      let s := onSignal slot op s
      (evTokens s slot e' ++ w, s)

/-! ## Firing (R125, R126, R130) -/

/-- Is a partition fit to take tasks (R131)? -/
def partUp (s : State) (p : Nat) : Bool := !partOff s p

/-- The queue of a task: its context's home for ANY, else the partition its class names (R130); for an offline partition
the home, or the lowest online one. -/
def queueOf (s : State) (x : Launch) (r : TaskRec) : Nat :=
  let home := match tget s.ctxs x.ctx with
    | some c => c.home
    | none => 0
  let want := match r.place with
    | .any => home
    | .partition => r.index
    | .cluster => r.index / 16
  if partUp s want then want
  else if partUp s home then home
  else (firstFrom (partUp s) 4 0).getD 0

/-- Tasks in the ready queue of a partition. -/
def readyCount (s : State) (p : Nat) : Nat :=
  (s.tsk.launches.map fun (x : Launch) => (x.tasks.filter fun (e : Nat × TaskState) =>
    match e.2 with
    | .ready q _ => decide (q = p)
    | _ => false).length).sum

/-- Tasks in overflow lists for a partition's queue. -/
def overflowCount (s : State) (p : Nat) : Nat :=
  (s.tsk.launches.map fun (x : Launch) => (x.tasks.filter fun (e : Nat × TaskState) =>
    match e.2 with
    | .overflow q _ => decide (q = p)
    | _ => false).length).sum

/-- Put a task in a state. -/
def setTask (l t : Nat) (st : TaskState) (s : State) : State :=
  modLaunch l (fun x => { x with tasks := tput x.tasks t st }) s

/-- The work of a task's DATA outputs becoming present (R124, R126). -/
def dataWork (x : Launch) (g : Graph) (r : TaskRec) (err : Bool) : List Work :=
  r.outs.filterMap fun j =>
    match g.tokens[j]? with
    | some k => if k.kind = .data then some (Work.tok x.id j err) else none
    | none => none

/-- The signals of a task's EVENT outputs, with the launch's USER_TAG (R124, R126). -/
def eventWork (x : Launch) (g : Graph) (r : TaskRec) (err : Bool) : List Work :=
  r.outs.filterMap fun j =>
    match g.tokens[j]? with
    | some k => if k.kind = .event then (tokEvent x k).map fun e => Work.upd e (.sig x.tag err) else none
    | none => none

/-- The work of all a task's outputs. -/
def outWork (x : Launch) (g : Graph) (r : TaskRec) (err : Bool) : List Work := dataWork x g r err ++ eventWork x g r err

/-- Does a launch still fire tasks? One that is cancelled or removed skips them (R142, R141). -/
def launchStopped (x : Launch) : Bool := x.cancelled || x.removed

/-- A task of a launch has every input present: it runs, is skipped, or, for a JOIN, ends at once (R125, R126). -/
def fireTask (l t : Nat) (s : State) : List Work × State :=
  match findLaunch s l with
  | none => ([], s)
  | some x =>
    match launchGraph s x, taskRec s x t with
    | some g, some r =>
      if taskState x t ≠ .waiting then ([], s)
      else if r.ins.all fun j => thas x.toks j then
        if launchStopped x || r.ins.any (fun j => tgetD x.toks j false) then
          (outWork x g r true, modLaunch l (fun x => { x with tasks := tput x.tasks t .skipped, nBad := x.nBad + 1 }) s)
        else if r.kind = .join then
          (outWork x g r false, modLaunch l (fun x => { x with tasks := tput x.tasks t .ended, nOk := x.nOk + 1 }) s)
        else
          let p := queueOf s x r
          let st := if readyCount s p < 65536 then TaskState.ready p s.tsk.nextFire else .overflow p s.tsk.nextFire
          ([], setTask l t st s)
      else ([], s)
    | _, _ => ([], s)

/-- Fire tasks in turn. -/
def fireTasks (l : Nat) : List Nat → State → List Work × State
  | [], s => ([], s)
  | t :: ts, s =>
    let (w, s) := fireTask l t s
    let (w', s) := fireTasks l ts s
    (w ++ w', s)

/-- The tasks of a graph that take token `j` as input. -/
def consumers (g : Graph) (j : Nat) : List Nat :=
  ((numbered g.tasks).filter fun (p : Nat × TaskRec) => p.2.ins.contains j).map Prod.fst

/-- A token becomes present; it stays so for its launch (R124). -/
def doToken (l j : Nat) (err : Bool) (s : State) : List Work × State :=
  match findLaunch s l with
  | none => ([], s)
  | some x =>
    if thas x.toks j then ([], s)
    else
      match launchGraph s x with
      | none => ([], s)
      | some g => fireTasks l (consumers g j) (modLaunch l (fun x => { x with toks := tput x.toks j err }) s)

/-- One piece of work. -/
def doWork (w : Work) (s : State) : List Work × State :=
  match w with
  | .tok l j err => doToken l j err s
  | .upd slot op => doUpdate slot op s

/-- Work until none is left, or the bound is spent. -/
def settleN : Nat → List Work → State → State
  | 0, _, s => s
  | _ + 1, [], s => s
  | n + 1, w :: ws, s =>
    let (more, s') := doWork w s
    settleN n (ws ++ more) s'

/-- A bound on the work that updates can set going: every task fires once, every token becomes present once and every
triggered operation ends once. -/
def settleBound (s : State) (ws : List Work) : Nat :=
  let sizes := s.tsk.launches.map fun (x : Launch) =>
    match launchGraph s x with
    | some g => (g.tokens.length + 1, 8 * g.tasks.length)
    | none => (1, 0)
  let toks := (sizes.map Prod.fst).sum
  let outs := (sizes.map Prod.snd).sum
  (ws.length + outs + s.col.ops.length + 1) * (toks + 2)

/-- Do work and everything it sets going; the tasks that fire meanwhile fire at one moment (R131). -/
def settle (ws : List Work) (s : State) : State :=
  modTsk (fun k => { k with nextFire := k.nextFire + 1 }) (settleN (settleBound s ws) ws s)

/-- Update an event and everything that hangs on it. -/
def updateEvent (slot : Nat) (op : EvOp) (s : State) : State := settle [.upd slot op] s

/-! ## The end of a descriptor (R98, R104) -/

/-- DSTAT of a function (R108): its epoch and its most urgent pending code, or 0xFF. -/
def dstat (s : State) (fn : Nat) : Nat :=
  let t := attOf s fn
  let code := match t.entries.find? fun (e : Nat × AttEntry) => e.2.pending with
    | some e => e.1
    | none => 0xFF
  t.epoch % 256 * 256 + code

/-- An MSI-X table entry at reset: masked (R66). -/
def msixInit : MsixEntry := { addr := 0, data := 0, masked := true }

/-- Send a function's MSI-X message, or hold it pending while its vector is masked (R93). -/
def msixSend (fn vec : Nat) (s : State) : State :=
  if (tgetD s.hif.msix (fn * 4096 + vec) msixInit).masked then
    modHif (fun h => { h with msixPending := linsert h.msixPending (fn * 4096 + vec) }) s
  else emit (.msix fn vec) s

/-- Write a record to a queue pair's completion ring, with DSTAT and PHASE (R88, R98), and send its interrupt where
`notify` says so and the queue pair is armed (R93). -/
def writeRecord (q : Nat) (notify : Nat → Option Nat → Bool) (rec : Nat → Bool → CplRec) (s : State) : State :=
  match getQp s q with
  | none => s
  | some qp =>
    let ds := dstat s qp.fn
    let pos := qp.cqWritten % 2 ^ qp.cqLog
    let phase := decide (qp.cqWritten / 2 ^ qp.cqLog % 2 = 0)
    let s := emit (.record q pos (rec ds phase)) s
    let s := modQp q (fun p => { p with cqWritten := p.cqWritten + 1, lastDstat := some ds }) s
    match qp.vector with
    | some v => if qp.armed && notify ds qp.lastDstat then msixSend qp.fn v (modQp q (fun p => { p with armed := false }) s) else s
    | none => s

/-- The record of a descriptor that has ended. -/
def descRec (d : Desc) (r : Result) (ds : Nat) (phase : Bool) : CplRec :=
  { tag := dTag d, handle := r.handle, aux := r.aux, value := r.value, index := d.pos, op := dOp d, status := r.status
    dstat := ds, flags := r.flags % 256, phase := phase }

/-- Does a status signal without ERROR (R104)? -/
def goodStatus (st : Nat) : Bool := decide (st = St.done) || decide (st = St.doneDiscarded) || decide (st = St.doneHeld)

/-- Take a descriptor out of the device. -/
def dropDesc (qp sub : Nat) (s : State) : State :=
  modCmd (fun c => { c with descs := c.descs.filter fun (d : Desc) => !(d.qp = qp && d.sub = sub) }) s

/-- Finish a descriptor that has ended: write its completion record unless QUIET or a suppression holds it back,
free its ring slot, then update its SIGNAL_EVENT (R98, R104). -/
def completeDesc (d : Desc) (s : State) : State :=
  match d.phase with
  | .ended r =>
    let s := if d.noRecord || (dQuiet d && r.status = St.done) then s
      else writeRecord d.qp (fun _ _ => true) (descRec d r) s
    let s := modQp d.qp (fun p => { p with reserved := p.reserved - 1 }) s
    let s := dropDesc d.qp d.sub s
    if d.sigOk ∧ dSignal d ≠ 0 then updateEvent (hSlot (dSignal d)) (.sig (dTag d) (!goodStatus r.status)) s else s
  | _ => s

/-! ## Removal of work (R113, R476) -/

/-- Update several events. -/
def updateEvents (ws : List (Nat × EvOp)) (s : State) : State := settle (ws.map fun e => Work.upd e.1 e.2) s

/-- A task of a launch that still has work to lose. -/
def taskLive (st : TaskState) : Bool :=
  match st with
  | .ended => false
  | .failed => false
  | .skipped => false
  | _ => true

/-- The state of a task whose launch is removed: one that had started has failed, one that had not is skipped. -/
def taskRemoved (st : TaskState) : TaskState :=
  match st with
  | .running _ _ => .failed
  | .exiting _ _ => .failed
  | _ => .skipped

/-- The tasks of a launch that still have work to lose. -/
def liveTasks (g : Graph) (x : Launch) : List Nat := (List.range g.tasks.length).filter fun t => taskLive (taskState x t)

/-- Remove tasks of a launch from the engines: each fails or is skipped and its outputs carry the error. -/
def removeTasks (l : Nat) (ts : List Nat) (s : State) : State :=
  match findLaunch s l with
  | none => s
  | some x =>
    match launchGraph s x with
    | none => s
    | some g =>
      let ts := ts.filter fun t => taskLive (taskState x t)
      let s := modLaunch l (fun x => { x with
        tasks := ts.foldl (fun m t => tput m t (taskRemoved (taskState x t))) x.tasks
        nBad := x.nBad + ts.length }) s
      let work := (ts.filterMap fun t => (g.tasks[t]?).map fun (r : TaskRec) => outWork x g r true).flatten
      settle work (clearCores (ts.map fun t => (l, t)) s)

/-- Stop a launch: every task it has left is removed or skipped (R141, R142). -/
def stopLaunch (l : Nat) (cancel : Bool) (s : State) : State :=
  match findLaunch s l with
  | none => s
  | some x =>
    match launchGraph s x with
    | none => s
    | some g =>
      let s := modLaunch l (fun x => { x with removed := true, cancelled := x.cancelled || cancel }) s
      removeTasks l (liveTasks g x) s

/-- Stop several launches. -/
def stopLaunches (ls : List Nat) (cancel : Bool) (s : State) : State := ls.foldl (fun s l => stopLaunch l cancel s) s

/-- Discard a generation (R139): its versions are dropped and its running PROV tasks are removed. -/
def discardGen (g : Generation) (s : State) : State :=
  let s := modTsk (fun t => { t with
    gens := t.gens.map fun (h : Generation) =>
      if h.id = g.id then { h with state := .resolved, versions := [], bytes := [] } else h
    launches := t.launches.map fun (x : Launch) => if x.id = g.launch then { x with discarded := true } else x }) s
  let s := dropMarked g.launch s
  match findLaunch s g.launch with
  | none => s
  | some x =>
    match launchGraph s x with
    | none => s
    | some gr =>
      removeTasks g.launch ((liveTasks gr x).filter fun t =>
        match gr.tasks[t]? with
        | some r => r.prov
        | none => false) s

/-- Discard every outstanding generation of a context from number `lo` on, in order (R139, R141). -/
def discardGens (c lo : Nat) (s : State) : State :=
  (s.tsk.gens.filter fun (g : Generation) => g.ctx = c && decide (g.state ≠ .resolved) && decide (lo ≤ g.id)).foldl
    (fun s g => discardGen g s) s

/-! ## The end of a launch (R134, Tables 05-9 and 05-10) -/

/-- STATUS of a launch that has ended. -/
def launchStatus (x : Launch) : Nat :=
  if x.cancelled || x.removed || x.broken then St.aborted
  else if x.poisoned then St.poisoned
  else if x.discarded then St.doneDiscarded
  else St.done

/-- The results of a launch that has ended. -/
def launchResult (x : Launch) : Result :=
  { status := launchStatus x, handle := mkHandle Hk.graph x.graph, aux := x.nBad
    value := x.nOk % 2 ^ 32 + min 65535 x.nFall * 2 ^ 32 + min 65535 x.nOver * 2 ^ 48
    flags := bitAt x.guard.isSome 0 + bitAt x.committed 1 + bitAt x.discarded 2 + bitAt x.conflict 3 + bitAt x.cancelled 4 }

/-- A launch ends: its descriptor gets its result and its launch state returns. -/
def endLaunch (l : Nat) (s : State) : State :=
  match findLaunch s l with
  | none => s
  | some x =>
    let s := endDesc x.qp x.sub (launchResult x) s
    modTsk (fun t => { t with launches := t.launches.filter fun (y : Launch) => y.id ≠ l }) s

/-- End descriptors of a test with ABORTED, as removed work. -/
def abortDescs (p : Desc → Bool) (s : State) : State :=
  mapDescs (fun d => if p d && !dEnded d then { d with phase := .ended (resOf St.aborted) } else d) s

/-- Cancel triggered operations a test names (R361). -/
def cancelOps (p : TrigOp → Bool) (s : State) : State :=
  let (w, s) := opsFail 0x0A (s.col.ops.filter p) s
  settle w s

/-- The runner of a context stops (R383); its schedule stays loaded. -/
def haltRunner (c : Nat) (s : State) : State :=
  { s with runners := tmod s.runners c fun (r : Runner) =>
      { r with active := false, fresh := false, inStep := false, stops := [], posted := [], failed := none } }

/-- Remove all work of a context from every engine (R82, R141, R476): its launches, generations, descriptors and
triggered operations. -/
def removeCtxWork (c : Nat) (s : State) : State :=
  let s := discardGens c 0 s
  let ls := (s.tsk.launches.filter fun (x : Launch) => x.ctx = c).map Launch.id
  let s := ls.foldl (fun s l => endLaunch l s) (stopLaunches ls false s)
  let s := abortDescs (fun d => decide (descCtx s d = some c) && !(onService s d && (dOp d = 0x11 || dOp d = 0x12))) s
  cancelOps (fun o => o.ctx = c) (haltRunner c s)

end Sys2Proof.Machine
end

