-- ==== Sys2Proof/Machine/Landing.lean ====
section
/-!
DEFINITION. Sys2Proof/Machine/Landing.lean: the round-robin allocator (R249, R250), the landing buffers and escape lane of
the ingest block, gap records, and the end of streams (R386, R389 to R392, R396, R399).
-/
namespace Sys2Proof.Machine

/-! ## The allocator (R249) -/

/-- A freed buffer goes to the head of the claim line as a reservation, or joins the free set. -/
def allocFree (b : Nat) (a : Allocator) : Allocator :=
  let a := { a with held := tdel a.held b }
  match a.line with
  | r :: l => { a with line := l, reserved := tput a.reserved r b }
  | [] => { a with free := linsert a.free b }

/-- A request: the reserved buffer, else the lowest free buffer that a test admits, else a place in the claim line. -/
def allocReq (ok : Nat → Bool) (r : Nat) (a : Allocator) : Option Nat × Allocator :=
  match tget a.reserved r with
  | some b => (some b, { a with reserved := tdel a.reserved r, held := tput a.held b r })
  | none =>
    match minBy (fun b => b) (a.free.filter ok) with
    | some b =>
      (some b, { a with free := a.free.filter fun c => c ≠ b, held := tput a.held b r, pointer := (r + 1) % a.n })
    | none => (none, { a with line := linsert a.line r })

/-- A reservation lapses: its buffer returns as a freed one, its requester loses its place. -/
def allocLapse (r : Nat) (a : Allocator) : Allocator :=
  match tget a.reserved r with
  | some b => allocFree b { a with reserved := tdel a.reserved r }
  | none => a

/-- An allocator that does not exist: no buffers, no requesters. -/
def allocNone : Allocator := { n := 1, pointer := 0, free := [], line := [], reserved := [], held := [] }

/-- The allocator of a pool. -/
def poolOf (s : State) (p : Nat) : Allocator := tgetD s.hbm.allocs p allocNone

/-- Change the allocator of a pool. -/
def modPool (p : Nat) (f : Allocator → Allocator) (s : State) : State :=
  modHbm (fun h => { h with allocs := tmod h.allocs p f }) s

/-! ## Streams -/

/-- The open stream of a number. -/
def streamAt (s : State) (n : Nat) : Option Stream := tget s.ing.streams n

/-- Change a stream. -/
def modStream (n : Nat) (f : Stream → Stream) (s : State) : State :=
  modIng (fun g => { g with streams := tmod g.streams n f }) s

/-- Landing buffers a stream holds. -/
def bufsHeld (s : State) (n : Nat) : Nat := ((poolOf s 0).held.filter fun (e : Nat × Nat) => e.2 = n).length

/-- Cluster of a landing buffer. -/
def bufCluster (s : State) (b : Nat) : Nat := (s.ing.clusters[b / 32]?).getD 64

/-- Is a landing buffer in service (R399, R400)? -/
def bufUp (s : State) (b : Nat) : Bool :=
  let c := bufCluster s b
  cluInService s c && !partInReset s (c / 16)

/-- Bytes of a list of records. -/
def recsBytes (l : List SampleRec) : Nat := (l.map fun (r : SampleRec) => r.bytes.length).sum

/-- Escape-lane bytes of a stream. -/
def escapeOf (x : Stream) : Nat :=
  recsBytes x.escape + (match x.partly with
    | some p => if p.escape then p.bytes.length else 0
    | none => 0)

/-- Escape-lane bytes in use. -/
def escapeUsed (s : State) : Nat := (s.ing.streams.map fun (e : Nat × Stream) => escapeOf e.2).sum

/-- Send an INGEST_CTRL packet of a stream to its server. -/
def ingestTell (n : Nat) (x : Stream) (kind : Nat) (payload : List Byte) (s : State) : State :=
  sendTo x.server (.ingestCtl kind n payload) s

/-! ## Gap records (R396) -/

/-- Gap reasons (Table 15-6). -/
def Gap.escapeFull : Nat := 1
/-- LOST -/
def Gap.lost : Nat := 2
/-- AUTH -/
def Gap.auth : Nat := 3
/-- KEY -/
def Gap.key : Nat := 4
/-- PLAIN -/
def Gap.plain : Nat := 5
/-- MALFORMED -/
def Gap.malformed : Nat := 6
/-- PARTITION -/
def Gap.partition : Nat := 7

/-- The reason as written and reported: confidential mode hides 4 and 5 behind 3. -/
def gapShown (s : State) (reason : Nat) : Nat :=
  if confidential s ∧ (reason = Gap.key ∨ reason = Gap.plain) then Gap.auth else reason

/-- A gap record (Table 15-4): CONTRIB, which no rule gives, is written 0. -/
def gapRec (s : State) (ssn count reason : Nat) : SampleRec :=
  { ssn := ssn, count := count, gap := true
    bytes := leBytes 8 ssn ++ leBytes 4 0 ++ leBytes 2 0 ++ leBytes 1 1 ++ leBytes 1 (gapShown s reason) ++ leBytes 8 count
      ++ leBytes 40 0 }

/-- A gap record is written: it counts in GAPS and INGEST_GAP is posted. -/
def gapPost (n ssn reason : Nat) (s : State) : State :=
  match streamAt s n with
  | none => s
  | some x =>
    let s := modStream n (fun x => { x with gaps := satAdd 65535 x.gaps 1 }) s
    post (ctxFn s x.ctx) Att.ingestGap (n + fieldAt (gapShown s reason) 8 4 + fieldAt ssn 16 48) (mkHandle Hk.mem x.dest) s

/-! ## Landing (R389 to R391) -/

/-- Hand the buffer being filled to the mover. -/
def handOff (x : Stream) : Stream :=
  match x.current with
  | some b => { x with handed := x.handed ++ [b], current := none }
  | none => x

/-- Space left in the buffer being filled. -/
def landSpace (x : Stream) : Nat :=
  match x.current with
  | some b => 262144 - recsBytes b.recs
  | none => 0

/-- HOLD is decided (R390). -/
def goHold (n : Nat) (s : State) : State :=
  match streamAt s n with
  | none => s
  | some x =>
    let s := modStream n (fun x => { x with
      state := .holding, runOn := 0, overrun := false, awaiting := some true, sends := 1, holds := satAdd 255 x.holds 1 }) s
    ingestTell n x 3 [] s

/-- A stream asks for a landing buffer: granted, it becomes the buffer being filled. -/
def takeBuffer (n : Nat) (s : State) : Bool × State :=
  let (b, a) := allocReq (bufUp s) n (poolOf s 0)
  let s := modPool 0 (fun _ => a) s
  match b with
  | some b => (true, modStream n (fun x => { x with current := some { buf := some b, recs := [] } }) s)
  | none => (false, s)

/-- Room for the next record of a flowing stream: in the buffer being filled, in a new one, or, past BUF_CAP or refused one,
in the escape lane (R389, R390). Answers whether the record goes to the escape lane. -/
def landRoom (n size : Nat) (s : State) : Bool × State :=
  match streamAt s n with
  | none => (true, s)
  | some x =>
    if x.state ≠ .flowing then (true, s)
    else if size ≤ landSpace x then (false, s)
    else
      let s := modStream n handOff s
      if x.bufCap ≤ bufsHeld s n then (true, goHold n s)
      else
        let (ok, s) := takeBuffer n s
        if ok then (false, s) else (true, goHold n s)

/-- Put a whole record behind the others. -/
def landPut (n : Nat) (esc : Bool) (r : SampleRec) (s : State) : State :=
  modStream n (fun x =>
    if esc then { x with escape := x.escape ++ [r] }
    else
      match x.current with
      | some b => { x with current := some { b with recs := b.recs ++ [r] } }
      | none => { x with escape := x.escape ++ [r] }) s

/-- Land a gap record. -/
def landGap (n ssn count reason : Nat) (s : State) : State :=
  let (esc, s) := landRoom n 64 s
  gapPost n ssn reason (landPut n esc (gapRec s ssn count reason) s)

/-- A held stream with no escape-lane bytes and fewer than BUF_CAP buffers sends RESUME, once its HOLD is acknowledged
(R391). -/
def tryResume (n : Nat) (s : State) : State :=
  match streamAt s n with
  | none => s
  | some x =>
    if decide (x.state = .draining) && decide (escapeOf x = 0) && x.partly.isNone && decide (bufsHeld s n < x.bufCap) then
      ingestTell n x 5 [] (modStream n (fun x => { x with state := .flowing, awaiting := some false, sends := 1 }) s)
    else s

/-- Move escape-lane records into the buffer being filled, oldest first, while they fit. -/
def fillFrom : Nat → Stream → Stream
  | 0, x => x
  | k + 1, x =>
    match x.escape, x.current with
    | r :: l, some b =>
      if r.bytes.length ≤ landSpace x then fillFrom k { x with escape := l, current := some { b with recs := b.recs ++ [r] } }
      else x
    | _, _ => x

/-- Does a stream want a landing buffer for its escape-lane records (R391)? -/
def wantsBuffer (s : State) (n : Nat) (x : Stream) : Bool :=
  (decide (x.state = .holding) || decide (x.state = .draining) || decide (x.state = .closing))
    && decide (bufsHeld s n < x.bufCap || thas (poolOf s 0).reserved n)
    && (match x.escape with
        | r :: _ => decide (landSpace x < r.bytes.length)
        | [] => thas (poolOf s 0).reserved n)

/-- A held stream fills the buffer it has from the escape lane, then takes one more where it needs it. -/
def drainStream (n : Nat) (s : State) : State :=
  let fill := fun (x : Stream) =>
    let x := fillFrom x.escape.length x
    if x.state = .closing ∧ x.escape.isEmpty then handOff x else x
  let s := modStream n fill s
  match streamAt s n with
  | none => s
  | some x =>
    if wantsBuffer s n x then
      let (_, s) := takeBuffer n (modStream n handOff s)
      tryResume n (modStream n fill s)
    else tryResume n s

/-! ## The end of a stream (R386, R399) -/

/-- Give back the device-held segments of the reservation. -/
def releaseLanding (s : State) : State :=
  let g := s.ing
  let give := fun (k c : Nat) (s : State) => modClu c (fun e => { e with deviceSegs := e.deviceSegs - k }) s
  let s := g.clusters.foldl (fun s c => give 2 c s) s
  let s := give 2 g.escapeCluster s
  let s := modHbm (fun h => { h with allocs := tdel h.allocs 0 }) s
  modIng (fun g => { g with held := false, clusters := [], escapeCluster := 0, emptied := [] }) s

/-- Take a stream out; the last one releases the reservation. -/
def endStream (n : Nat) (s : State) : State :=
  match streamAt s n with
  | none => s
  | some x =>
    let s := modIng (fun g => { g with
      streams := tdel g.streams n, closed := if x.state = .opening then g.closed else tput g.closed n x }) s
    let s := modPool 0 (fun a => { a with line := a.line.filter fun r => r ≠ n }) (modPool 0 (allocLapse n) s)
    if s.ing.held && s.ing.streams.all (fun (e : Nat × Stream) => decide (e.2.state = .opening)) then releaseLanding s else s

/-- Records of a stream that have not reached DEST. -/
def landedRecs (x : Stream) : List SampleRec :=
  ((match x.current with
    | some b => [b]
    | none => []) ++ x.handed).flatMap LandBuf.recs ++ x.escape

/-- A stream's buffers count as emptied and its records are discarded. -/
def discardLanded (n : Nat) (s : State) : State :=
  match streamAt s n with
  | none => s
  | some x =>
    let bs := ((match x.current with
      | some b => [b]
      | none => []) ++ x.handed).filterMap LandBuf.buf
    let s := modIng (fun g => { g with emptied := bs.foldl linsert g.emptied }) s
    modStream n (fun x => { x with current := none, handed := [], escape := [], partly := none
                                   discarded := x.discarded + (landedRecs x).length }) s

/-- A closing stream ends once CLOSE_ACK has come or the closes are spent, no landed byte remains and its buffers are
free. -/
def tryClose (n : Nat) (s : State) : State :=
  match streamAt s n with
  | none => s
  | some x =>
    if decide (x.state = .closing) && x.closeDone && (landedRecs x).isEmpty && x.handed.isEmpty && x.current.isNone
        && decide (bufsHeld s n = 0) then
      let s := match x.desc with
        | some (q, u) => endDesc q u { resOf St.done with value := x.landed, aux := x.discarded } s
        | none => s
      endStream n s
    else s

/-- A close begins: CLOSE is sent, arriving bytes are discarded from now on. -/
def closeStream (n : Nat) (discard : Bool) (desc : Option (Nat × Nat)) (s : State) : State :=
  match streamAt s n with
  | none => s
  | some x =>
    let s := modStream n (fun x => handOff { x with
      state := .closing, desc := desc, awaiting := none, partly := none, ctlSends := 1, closeDone := false, discard := discard
      discarded := 0 }) s
    let s := ingestTell n x 7 [] s
    if discard then discardLanded n s else drainStream n s

/-- The streams of a context, or into an object, close as with DISCARD = 1 (R399); one not yet open is given up. -/
def closeStreamsOf (p : Stream → Bool) (s : State) : State :=
  (s.ing.streams.filter fun (e : Nat × Stream) => p e.2).foldl (fun s (e : Nat × Stream) =>
    if e.2.state = .opening then endStream e.1 s
    else if e.2.state = .closing then discardLanded e.1 s
    else closeStream e.1 true none s) s

/-- Streams that a freed context or object leaves behind end at once, their buffers free. -/
def dropStreams (p : Stream → Bool) (s : State) : State :=
  (s.ing.streams.filter fun (e : Nat × Stream) => p e.2).foldl (fun s (e : Nat × Stream) =>
    let s := discardLanded e.1 s
    let mine := ((poolOf s 0).held.filter fun (h : Nat × Nat) => h.2 = e.1).map Prod.fst
    let s := mine.foldl (fun s b => modPool 0 (allocFree b) s) s
    endStream e.1 (modIng (fun g => { g with emptied := g.emptied.filter fun b => !mine.contains b }) s)) s

/-! ## Loss of a partition (R399) -/

/-- The gap that stands for lost records, if there are any. -/
def lossGap (s : State) (rs : List SampleRec) : List SampleRec :=
  match rs with
  | [] => []
  | r :: _ => [gapRec s r.ssn ((rs.map fun (q : SampleRec) => q.count).sum) Gap.partition]

/-- A buffer after the loss of a set of buffers. -/
def lossBuf (s : State) (lost : List Nat) (b : LandBuf) : LandBuf :=
  match b.buf with
  | some i => if lost.contains i then { buf := none, recs := lossGap s b.recs } else b
  | none => b

/-- A stream after the loss of buffers, and of the escape lane. -/
def lossStream (s : State) (lost : List Nat) (esc : Bool) (x : Stream) : Stream :=
  let cur := x.current.map (lossBuf s lost)
  let gone := match cur with
    | some b => b.buf.isNone
    | none => false
  let x := { x with handed := x.handed.map (lossBuf s lost), current := cur, escape := if esc then lossGap s x.escape else x.escape }
  let x := if gone then handOff x else x
  match x.partly with
  | some p => if (if p.escape then esc else gone) then { x with partly := none } else x
  | none => x

/-- The first SSNs of the gaps a loss makes. -/
def lossSsns (lost : List Nat) (esc : Bool) (x : Stream) : List Nat :=
  let bufs := (x.handed ++ (match x.current with
    | some b => [b]
    | none => [])).filter fun (b : LandBuf) => (match b.buf with
      | some i => lost.contains i
      | none => false)
  bufs.filterMap (fun (b : LandBuf) => b.recs.head?.map SampleRec.ssn)
    ++ (if esc then (x.escape.head?.map SampleRec.ssn).toList else [])

/-- A partition reset loses the landing buffers of the partition, and the escape lane with partition 0; records lost become
gaps with reason PARTITION. -/
def landLoss (p : Nat) (s : State) : State :=
  let lost := (List.range (32 * s.ing.clusters.length)).filter fun b => bufCluster s b / 16 = p
  let esc := decide (s.ing.held ∧ s.ing.escapeCluster / 16 = p)
  let gaps := (s.ing.streams.map fun (e : Nat × Stream) => (lossSsns lost esc e.2).map fun n => (e.1, n)).flatten
  let s := modIng (fun g => { g with streams := tmapv g.streams fun _ x => lossStream s lost esc x
                                     emptied := g.emptied.filter fun b => !lost.contains b }) s
  let s := modPool 0 (fun a =>
    let back := (a.reserved.filter fun (e : Nat × Nat) => lost.contains e.2).map Prod.fst
    { a with line := back ++ a.line, reserved := a.reserved.filter fun (e : Nat × Nat) => !lost.contains e.2
             held := a.held.filter fun (e : Nat × Nat) => !lost.contains e.1
             free := (a.free.filter fun b => !lost.contains b) ++ lost }) s
  gaps.foldl (fun s g => gapPost g.1 g.2 Gap.partition s) s

end Sys2Proof.Machine
end

