-- ==== Sys2Proof/Machine/Ckpt.lean ====
section
/-!
DEFINITION. Sys2Proof/Machine/Ckpt.lean: checkpoints as the other chapters meet them: triggers at an apply, the end of a
checkpoint, reports and the manifest (R404 to R408, R410, R414 to R416, R422).
-/
namespace Sys2Proof.Machine

/-! ## Lookups -/

/-- A context with no checkpoint state. -/
def ckpNone : CkpCtx :=
  { plan := none, trigger := false, run := none, last := none, lastBuddy := false, skipped := 0, disarm := [], mani := none
    prev := none, restore := none }

/-- The checkpoint state of a context. -/
def ckpOf (s : State) (c : Nat) : CkpCtx := tgetD s.ckp.ctxs c ckpNone

/-- Change the checkpoint state of a context. -/
def modCc (c : Nat) (f : CkpCtx → CkpCtx) (s : State) : State :=
  modCkp (fun k => { k with ctxs := tupd k.ctxs c ckpNone f }) s

/-- Change a transfer. -/
def modXfer (t : Nat) (f : Xfer → Xfer) (s : State) : State := modCkp (fun k => { k with xfers := tmod k.xfers t f }) s

/-- Take a transfer out. -/
def dropXfer (t : Nat) (s : State) : State := modCkp (fun k => { k with xfers := tdel k.xfers t }) s

/-- Take out the transfers of a context that a test names. -/
def dropXfers (c : Nat) (p : XferKind → Bool) (s : State) : State :=
  modCkp (fun k => { k with xfers := k.xfers.filter fun (e : Nat × Xfer) => !(decide (e.2.ctx = c) && p e.2.kind) }) s

/-- The two puts of a checkpoint. -/
def xferPut (k : XferKind) : Bool := decide (k = .shardPut) || decide (k = .buddyPut)

/-! ## The file store (R410) -/

/-- Bytes of a stored chunk with its trailer. -/
def storedChunk : Nat := 1048592

/-- An object name (Table 16-5): KIND 0 SHARD, 1 MANIFEST, 2 BUDDY. -/
def objName (job step rank kind inc : Nat) : List Byte :=
  leBytes 8 job ++ leBytes 8 step ++ leBytes 4 rank ++ leBytes 1 kind ++ leBytes 1 0 ++ leBytes 2 inc ++ leBytes 40 0

/-- Send a FILE_REQ: its subtype, its transfer number and fields, its bytes. -/
def fileReq (node kind txn : Nat) (fields : List Nat) (bytes : List Byte) (s : State) : State :=
  sendTo node (.data 0x30 kind (txn :: fields) bytes) s

/-- The key under which a transfer's request waits for its acknowledgement. -/
def reqKey : Nat := 2 ^ 32

/-- Open a transfer: its request is sent and waits for an answer. -/
def openXfer (x : Xfer) (kind : Nat) (fields : List Nat) (bytes : List Byte) (s : State) : State :=
  let t := s.ckp.nextTxn
  let s := modCkp (fun k => { k with xfers := tput k.xfers t x, nextTxn := (t + 1) % 65536 }) s
  fileReq x.node kind t fields bytes s

/-- A transfer as it is opened. -/
def xferNew (node ctx : Nat) (kind : XferKind) (name : List Byte) (chunks : Nat) (bytes : List Byte) (span : Nat × Nat) : Xfer :=
  { node := node, ctx := ctx, kind := kind, name := name, opened := false, window := 0, next := 0, chunks := chunks
    unacked := [(reqKey, 0)], closing := false, bytes := bytes, pieces := [], span := span }

/-- Chunks that hold a number of bytes. -/
def chunkCount (n size : Nat) : Nat := (n + size - 1) / size

/-! ## The shard (R404, R405) -/

/-- Range data of a plan, with each range's offset after the header part. -/
def rangeOffsets : List CkpRange → Nat → List (CkpRange × Nat)
  | [], _ => []
  | r :: l, o => (r, o) :: rangeOffsets l (o + roundUp r.len 4096)

/-- Bytes of the header part of a plan's shard: header, range table, data positions, padding. -/
def headBytes (p : CkpPlan) (nStreams : Nat) : Nat := roundUp (256 + 32 * p.ranges.length + 64 * nStreams) 4096

/-- L, for a number of data positions. -/
def shardLen (p : CkpPlan) (nStreams : Nat) : Nat :=
  headBytes p nStreams + (p.ranges.map fun (r : CkpRange) => roundUp r.len 4096).sum

/-- Streams a plan saves. -/
def planStreams (p : CkpPlan) : Nat := popCount p.streams 64

/-- L of a plan. -/
def planLen (p : CkpPlan) : Nat := shardLen p (planStreams p)

/-- Stored length. -/
def storedLen (l : Nat) : Nat := l + 16 * chunkCount l 1048576

/-- SHAPE_DIGEST -/
def shapeDigest (p : CkpPlan) : Nat := (Config.sha384 p.shape).toNat

/-- Granules that the ranges of a plan touch. -/
def planGranules (p : CkpPlan) : Nat :=
  ((p.ranges.map fun (r : CkpRange) => granules r.obj r.off r.len).flatten.foldl (fun (t : Tbl Unit) g => tput t g ()) []).length

/-! ## Failure and end (R415, R416) -/

/-- CHECKPOINT_FAILED is posted for a context with a step and a reason. -/
def ckpPost (c step reason : Nat) (s : State) : State :=
  post (ctxFn s c) Att.checkpointFailed (fieldAt step 0 40 + fieldAt reason 40 8) (mkHandle Hk.ctx c) s

/-- No checkpoint is in flight any more: waiting CKP_DISARM descriptors complete and take the plan. -/
def disarmNow (c : Nat) (s : State) : State :=
  let ds := (ckpOf s c).disarm
  if ds.isEmpty then s
  else
    let s := modCc c (fun k => { k with plan := none, disarm := [], trigger := false }) s
    ds.foldl (fun s d => endDesc d.1 d.2 (resOf St.done) s) s

/-- Signal DONE_EVENT. -/
def ckpSignal (p : CkpPlan) (step : Nat) (err : Bool) (s : State) : State :=
  match p.doneEvent with
  | some e => updateEvent e (.sig step err) s
  | none => s

/-- The checkpoint of a context ends: complete, or failed with a reason. -/
def ckpEnds (c : Nat) (fail : Option Nat) (s : State) : State :=
  match (ckpOf s c).plan, (ckpOf s c).run with
  | some p, some r =>
    let s := dropXfers c xferPut s
    let s := modCc c (fun k => { k with
      run := none, last := if fail.isNone then some r.step else k.last
      lastBuddy := if fail.isNone then r.buddy else k.lastBuddy }) s
    let s := match fail with
      | none => modCkp (fun k => { k with done := satAdd 65535 k.done 1 }) s
      | some w => ckpPost c r.step w (modCkp (fun k => { k with failed := satAdd 255 k.failed 1 }) s)
    disarmNow c (ckpSignal p r.step fail.isSome s)
  | _, _ => s

/-! ## The manifest (R414, R415) -/

/-- The public key a manifest is signed under: the session attestation key in confidential mode, else the alias key. -/
def maniKey (s : State) : List Byte :=
  if confidential s then Config.ecPublic (s.sec.attKey.getD 0) else Config.publicKey 1 (s.nv.otp.root.getD 0)

/-- A signature with the session attestation key in confidential mode, else with the alias key. -/
def signAtt (s : State) (b : List Byte) : List Byte :=
  if confidential s then Config.sign 2 (s.sec.attKey.getD 0) b else Config.sign 1 (s.nv.otp.root.getD 0) b

/-- The manifest of a plan and its reports (Table 16-7). -/
def maniBytes (s : State) (p : CkpPlan) (w : ManiWork) (prev : Option (Nat × Nat)) : List Byte :=
  let head := leBytes 4 0x434B4D31 ++ leBytes 2 1 ++ leBytes 2 (bitAt p.encrypt 0 + bitAt (confidential s) 1) ++ leBytes 8 p.job
    ++ leBytes 8 w.step ++ leBytes 4 p.nNodes ++ leBytes 2 p.inc ++ leBytes 2 0
    ++ leBytes 8 ((prev.map Prod.fst).getD (2 ^ 64 - 1)) ++ leBytes 2 ((prev.map Prod.snd).getD 0) ++ leBytes 6 0
    ++ leBytes 48 (shapeDigest p) ++ leBytes 8 p.shape.length ++ padTo 97 0 (maniKey s) ++ leBytes 55 0
  let ents := (List.range p.nNodes).map fun i =>
    match tget w.reports i with
    | some r => leBytes 48 r.digest ++ leBytes 8 r.len ++ leBytes 3 r.store ++ leBytes 1 (bitAt r.buddy.isSome 0)
        ++ leBytes 4 (r.buddy.getD 0)
    | none => leBytes 64 0
  let body := head ++ padTo (roundUp p.shape.length 64) 0 p.shape ++ ents.flatten
  body ++ padTo 96 0 (signAtt s body)

/-- MANIFEST_DONE at a rank: the checkpoint it names ends (R415). -/
def maniDone (node step inc result : Nat) (s : State) : State :=
  match s.ckp.ctxs.find? fun (e : Nat × CkpCtx) =>
      match e.2.plan, e.2.run with
      | some p, some r => decide (p.maniNode = node) && decide (p.inc = inc) && decide (r.step = step)
      | _, _ => false with
  | some (c, k) =>
    if result = 0 then
      match k.run with
      | some r => if r.phase = .manifest then ckpEnds c none s else s
      | none => s
    else ckpEnds c (some 5) s
  | none => s

/-- The manifest node sends MANIFEST_DONE to every rank that has reported, its own among them. -/
def maniSend (c : Nat) (ok : Bool) (s : State) : State :=
  match (ckpOf s c).plan, (ckpOf s c).mani with
  | some p, some w =>
    if w.sent.isSome then s
    else
      let s := modCc c (fun k => { k with
        mani := some { w with sent := some ok }, prev := if ok then some (w.step, p.inc) else k.prev }) s
      let res := if ok then 0 else 5
      w.reports.foldl (fun s (e : Nat × RankReport) =>
        if e.2.node = nodeId s then maniDone (nodeId s) w.step p.inc res s
        else fileReq e.2.node 7 0 [w.step, p.inc, res] [] s) s
  | _, _ => s

/-- A rank's report reaches the manifest node: kept; with one good report per rank the manifest is written; a failed or
disagreeing one, or one after the outcome, is answered with it. -/
def maniReport (node rank step inc shape digest len store : Nat) (buddy : Option Nat) (result : Nat) (s : State) : State :=
  match s.ckp.ctxs.find? fun (e : Nat × CkpCtx) =>
      match e.2.plan, e.2.mani with
      | some p, some w => decide (p.maniNode = nodeId s) && decide (w.step = step)
      | _, _ => false with
  | some (c, k) =>
    (match k.plan, k.mani with
     | some p, some w =>
       let w' := { w with reports := tput w.reports rank { node := node, digest := digest, len := len, store := store, buddy := buddy } }
       (match w.sent with
        | some ok => if node = nodeId s then s else fileReq node 7 0 [step, p.inc, if ok then 0 else 5] [] s
        | none =>
          let s := modCc c (fun k => { k with mani := some w' }) s
          if result ≠ 0 ∨ inc ≠ p.inc ∨ shape ≠ shapeDigest p ∨ p.nNodes ≤ rank then maniSend c false s
          else if p.nNodes ≤ w'.reports.length then
            let b := maniBytes s p w' k.prev
            let name := objName p.job step 0xFFFFFFFF 1 p.inc
            openXfer (xferNew p.storeNode c .maniPut name (chunkCount b.length 1048576) b (0, 0)) 1 [b.length] name s
          else s)
     | _, _ => s)
  | none => s

/-- A rank reports to its manifest node (R415). -/
def ckpReport (c digest result : Nat) (s : State) : State :=
  match (ckpOf s c).plan, (ckpOf s c).run with
  | some p, some r =>
    let buddy := if r.buddy then some p.buddyNode else none
    let len := storedLen (planLen p)
    if p.maniNode = nodeId s then maniReport (nodeId s) p.rank r.step p.inc (shapeDigest p) digest len p.storeNode buddy result s
    else sendTo p.maniNode (.ctl 0x30 6 [p.rank, r.step, p.inc, shapeDigest p, digest, len, p.storeNode, bitAt buddy.isSome 0,
      p.buddyNode, result]) s
  | _, _ => s

/-- The checkpoint of a context fails with a reason (R415, R416): a rank that has not reported yet reports it. -/
def ckpFail (c reason : Nat) (s : State) : State :=
  match (ckpOf s c).run with
  | some r => ckpEnds c (some reason) (if r.phase = .manifest then s else ckpReport c 0 reason s)
  | none => s

/-! ## Triggers (R406, R422) -/

/-- Does an operation write into a range of a plan? -/
def opIntoPlan (s : State) (p : CkpPlan) (o : TrigOp) : Bool :=
  let g := tget s.col.groups o.op.group
  let n := (g.map fun (g : Group) => g.members.length).getD 1
  match o.op.dst with
  | some d => p.ranges.any fun (r : CkpRange) =>
      decide (r.obj = d) && decide (o.op.dstOff < r.off + r.len) && decide (r.off < o.op.dstOff + n * o.op.count * 16 + 16 * o.op.count)
  | none => false

/-- Does an apply of step `n` at time base `t` trigger a checkpoint of a plan (R406)? -/
def ckpDue (s : State) (k : CkpCtx) (p : CkpPlan) (n t : Nat) : Bool :=
  let i := p.interval * 1000000
  k.trigger || (decide (p.every ≠ 0) && decide ((n - 1) % p.every = 0))
    || (decide (i ≠ 0) && (match s.ckp.lastT with
        | some u => decide (u / i < t / i)
        | none => false))

/-- A context's plan meets an apply. -/
def ckpAtApply (c n t : Nat) (s : State) : State :=
  let k := ckpOf s c
  match k.plan with
  | none => s
  | some p =>
    if !ckpDue s k p n t then s
    else if k.run.isSome then
      let s := modCkp (fun x => { x with skipped := satAdd 255 x.skipped 1 }) s
      ckpPost c (n - 1) 7 (modCc c (fun k => { k with trigger := false, skipped := satAdd 65535 k.skipped 1 }) s)
    else
      let ops := s.col.ops.filter fun (o : TrigOp) => decide (o.ctx = c) && decide (o.state = .running) && opIntoPlan s p o
      modCc c (fun k => { k with
        trigger := false
        run := some { step := n - 1, awaited := ops.map TrigOp.id, phase := .snapshot, head := [], copies := [], buddy := false }
        mani := if p.maniNode = nodeId s then some { step := n - 1, reports := [], sent := none } else k.mani }) s

/-- Every plan meets an apply that is no SET (R406). -/
def ckpApply (n t : Nat) (s : State) : State :=
  let s := (tkeys s.ckp.ctxs).foldl (fun s c => ckpAtApply c n t s) s
  modCkp (fun k => { k with lastT := some t }) s

/-! ## What other events do to checkpoints (R422) -/

/-- Is a checkpoint not yet past its streaming? -/
def ckpReading (k : CkpCtx) : Bool :=
  match k.run with
  | some r => decide (r.phase ≠ .manifest)
  | none => false

/-- A planned object is destroyed: OBJECT_GONE. -/
def ckpObjectGone (slot : Nat) (s : State) : State :=
  let hit := s.ckp.ctxs.filter fun (e : Nat × CkpCtx) =>
    ckpReading e.2 && (match e.2.plan with
      | some p => p.ranges.any fun (r : CkpRange) => decide (r.obj = slot)
      | none => false)
  hit.foldl (fun s (e : Nat × CkpCtx) => ckpFail e.1 4 s) s

/-- The home partition of contexts is reset: PARTITION. -/
def ckpPartition (p : Nat) (s : State) : State :=
  let hit := s.ckp.ctxs.filter fun (e : Nat × CkpCtx) => ckpReading e.2 && decide (homeOfCtx s e.1 = p)
  hit.foldl (fun s (e : Nat × CkpCtx) => ckpFail e.1 8 s) s

/-- A context is destroyed: its checkpoint stops with a failed report, its plan and restore go. -/
def ckpCtxGone (c : Nat) (s : State) : State :=
  let s := ckpFail c 4 s
  let s := dropXfers c (fun _ => true) s
  modCkp (fun k => { k with ctxs := tdel k.ctxs c }) s

end Sys2Proof.Machine
end

