-- ==== Sys2Proof/Machine/Logs.lean ====
section
/-!
DEFINITION. Sys2Proof/Machine/Logs.lean: two-bank records, the logbook's commit, the effective cap, the ledger's
intervals, and what a power fail and a chip reset commit (chapter 20).
-/
namespace Sys2Proof.Machine

/-! ## Two-bank records (R510) -/

/-- The newest valid copy. -/
def twoNewest {α : Type} (t : TwoBank α) : Option (Nat × α) :=
  match t.a, t.b with
  | some (sa, pa), some (sb, pb) =>
    let d := (sa + 2 ^ 32 - sb) % 2 ^ 32
    if 1 ≤ d ∧ d < 2 ^ 31 then some (sa, pa) else some (sb, pb)
  | some x, none => some x
  | none, some y => some y
  | none, none => none

/-- Does bank A hold the newest valid copy? -/
def twoInA {α : Type} (t : TwoBank α) : Bool :=
  match t.a, t.b with
  | some (sa, _), some (sb, _) =>
    let d := (sa + 2 ^ 32 - sb) % 2 ^ 32
    decide (1 ≤ d) && decide (d < 2 ^ 31)
  | some _, none => true
  | _, _ => false

/-- Write a copy to the bank that does not hold the newest valid one, with the next SEQ. -/
def twoWrite {α : Type} (p : α) (t : TwoBank α) : TwoBank α :=
  let q := match twoNewest t with
    | some (n, _) => (n + 1) % 2 ^ 32
    | none => 1
  if twoInA t then { t with b := some (q, p) } else { t with a := some (q, p) }

/-- SEQ of the newest valid copy, or 0. -/
def twoSeq {α : Type} (t : TwoBank α) : Nat :=
  match twoNewest t with
  | some (n, _) => n
  | none => 0

/-! ## The logbook (R512 to R516) -/

/-- Blocks free of records. -/
def logFree (l : LogStore) : Nat := l.dataBlocks - l.blocks.length

/-- Put a record in the open block, which is the last. -/
def logPut (r : LogRec) (l : LogStore) : LogStore :=
  { l with blocks := l.blocks.dropLast ++ [l.blocks.getLastD [] ++ [r]] }

/-- Go to the next page: of the open block, or of a free one, which becomes the open block. -/
def logPage (l : LogStore) : Option LogStore :=
  if l.openPages < 32 then some { l with openPages := l.openPages + 1 }
  else if l.blocks.length < l.dataBlocks then some { l with blocks := l.blocks ++ [[]], openPages := 1 }
  else none

/-- Commit records one after another, `left` bytes being free in the page under programming (R512, R516). -/
def logCommitFrom : List LogRec → Nat → State → State
  | [], _, s => s
  | r :: rs, left, s =>
    if logRecSize r ≤ left then
      logCommitFrom rs (left - logRecSize r) (modNv (fun n => { n with log := logPut r n.log }) s)
    else
      match logPage s.nv.log with
      | some l => logCommitFrom rs (4096 - logRecSize r) (modNv (fun n => { n with log := logPut r l }) s)
      | none =>
        if r.critical then logCommitFrom rs left (logReadOnly s)
        else logCommitFrom rs left (modLog (fun g => { g with dropped := satAdd 255 g.dropped 1 }) s)

/-- Commit the records of the write buffer that a test names; the others stay (R514). -/
def logCommit (p : LogRec → Bool) (s : State) : State :=
  if s.nv.log.state = 2 then modLog (fun g => { g with buffer := [] }) s
  else
    let now := s.log.buffer.filter p
    logCommitFrom now 0 (modLog (fun g => { g with buffer := g.buffer.filter fun r => !p r }) s)

/-! ## Caps and periods (R504, R506) -/

/-- The period entry in force at a ledger time: VALID with the greatest START at or before it, the lowest index on a
tie. -/
def periodAt (ps : Tbl Period) (t : Nat) : Option Nat :=
  (minBy (fun (e : Nat × Period) => t - e.2.start)
    (ps.filter fun (e : Nat × Period) => e.2.valid && decide (e.2.start ≤ t))).map Prod.fst

/-- The cap of the period in force; 0 is none. -/
def periodCap (s : State) : Nat :=
  match s.pwr.inForce with
  | some i =>
    match tget s.pwr.periods i with
    | some p => p.cap
    | none => 0
  | none => 0

/-- A cap of 0 is none. -/
def capOr (c : Nat) : Nat := if c = 0 then 2400 else c

/-- The effective cap (R504). -/
def effectiveCap (s : State) : Nat :=
  min 2400 (min s.pwr.cap (min (capOr (periodCap s)) (capOr s.mgt.trayCap)))

/-- CAP_SOURCE of PWR_STATUS: the first source, in the table's order, that gives the effective cap. -/
def capSource (s : State) : Nat :=
  let c := effectiveCap s
  if c = 2400 then 0 else if c = s.pwr.cap then 1 else if c = capOr (periodCap s) then 2 else 3

/-! ## The ledger (R505 to R508) -/

/-- SESSION_ID of the session, or 0. -/
def sessionIdOf (s : State) : Nat :=
  match s.sec.config with
  | some c => c.sessionId
  | none => 0

/-- Bytes 0 to 7 of SHA-384 of SESSION_ID while the device is confidential, else 0. -/
def sessionTag (s : State) : Nat :=
  if confidential s then ofLe (leBytes 8 (Config.sha384 (leBytes 32 (sessionIdOf s))).toNat) else 0

/-- The price code at a ledger time. -/
def priceAt (s : State) (t : Nat) : Nat :=
  match periodAt s.pwr.periods t with
  | some i =>
    match tget s.pwr.periods i with
    | some p => p.price
    | none => 0
  | none => 0

/-- Open an interval at the present ledger time. -/
def ivOpen (s : State) : State :=
  let iv : Interval :=
    { start := s.led.time, lengthUs := 0, energy := 0, avg := 0, peak := 0, cap := effectiveCap s
      price := priceAt s s.led.time, flags := bitAt s.led.restart 1 + bitAt (confidential s) 4
      index := s.led.nextIndex, sessionTag := sessionTag s }
  modLed (fun l => { l with openIv := some iv, nextIndex := l.nextIndex + 1, restart := false, secTicks := 0, secEnergy := 0 }) s

/-- The 64 bytes of an interval record (Table 20-4). -/
def ivBytes (i : Interval) : List Byte :=
  let b := leBytes 8 i.start ++ leBytes 4 i.lengthUs ++ leBytes 8 i.energy ++ leBytes 2 i.avg ++ leBytes 2 i.peak
    ++ leBytes 2 i.cap ++ leBytes 1 i.price ++ leBytes 1 i.flags ++ leBytes 8 i.index ++ leBytes 8 i.sessionTag
    ++ leBytes 16 0
  b ++ leBytes 4 (crc32c b).toNat

/-- What the LEDGER record holds now. -/
def ledgerRec (s : State) (last : Option Interval) : LedgerRec :=
  { totals := s.led.totals, energy := s.led.energy, peakAvg := s.led.peakAvg, openIv := s.led.openIv, last := last }

/-- Close the open interval with further FLAGS: the LEDGER record first, then the ring and the logbook (R507). AVG_W of
an interval of less than 1 µs is left open by Table 20-4: a free value. -/
def ivClose (flags : Nat) (s : State) : State :=
  match s.led.openIv with
  | none => s
  | some iv =>
    let len := (s.led.time - iv.start) / 1000
    let avg := if len = 0 then freeBits s 16 else iv.energy * 1000 / len
    let s := if len = 0 then tookFree s else s
    let iv' : Interval := { iv with lengthUs := len, avg := avg, flags := Nat.lor iv.flags flags }
    let s := modLed (fun l => { l with openIv := none, peakAvg := tput l.peakAvg iv.price (max (tgetD l.peakAvg iv.price 0) iv'.avg) }) s
    let s := modNv (fun n => { n with ledgerRec := twoWrite (ledgerRec s (some iv')) n.ledgerRec }) s
    let s := modLed (fun l => { l with ring := (iv' :: l.ring).take 4096 }) s
    logWrite 0x09 false (ivBytes iv') s

/-- Ledger time is loaded from the time base (R505): a load that moves it by more than 1 ms closes the open interval with
TIME_JUMP set and opens the next one at the new time. -/
def ledgerLoad (s : State) : State :=
  let t := s.wmk.tb
  let jump := decide (t + 1000000 < s.led.time) || decide (s.led.time + 1000000 < t)
  if jump && s.led.openIv.isSome then ivOpen (modLed (fun l => { l with time := t }) (ivClose 4 s))
  else modLed (fun l => { l with time := t }) s

/-- Does the time base run: from M2 of a sequence on (R314)? -/
def tbRuns (s : State) : Bool := decide (2 ≤ s.clk.milestone) && (decide (s.mod.phase = .good) || decide (s.mod.phase = .failing))

/-- One nanosecond of the time base with its slew of at most 100 ppm (R325). -/
def tbTick (w : WmkState) : WmkState :=
  if w.slew = 0 then { w with tb := w.tb + 1 }
  else if w.slewCount + 1 < 10000 then { w with tb := w.tb + 1, slewCount := w.slewCount + 1 }
  else if 0 < w.slew then { w with tb := w.tb + 2, slew := w.slew - 1, slewCount := 0 }
  else { w with slew := w.slew + 1, slewCount := 0 }

/-- One nanosecond passes: the model's clock, the time base and ledger time (R505: the time base while SYNCED, else the
always-on counter). -/
def tickNs (s : State) : State :=
  let s := { s with now := s.now + 1 }
  let s := if tbRuns s then modWmk tbTick s else s
  modLed (fun l => { l with time := if s.wmk.synced then s.wmk.tb else l.time + 1 }) s

/-- What a power fail commits (R33, R511, R514): the open interval with POWER_FAIL, the logbook's whole buffer. -/
def commitPowerFail (s : State) : State := logCommit (fun _ => true) (ivClose 1 s)

/-- What a chip reset commits (R482): the ledger and the logbook's whole buffer; intervals run on (R507). -/
def commitReset (s : State) : State :=
  let last := s.led.ring.head?
  logCommit (fun _ => true) (modNv (fun n => { n with ledgerRec := twoWrite (ledgerRec s last) n.ledgerRec }) s)

end Sys2Proof.Machine
end

