-- ==== Sys2Proof/Machine/Resets.lean ====
section
/-!
DEFINITION. Sys2Proof/Machine/Resets.lean: context faults, failing tasks, engine, partition and chip resets, the halt,
escalation and retirement (chapter 19, with what other chapters say a reset does to their state).
-/
namespace Sys2Proof.Machine

/-! ## Classes and units (Tables 19-1 and 19-9) -/

/-- EXEC -/
def Cls.exec : Nat := 0x01
/-- RING -/
def Cls.ring : Nat := 0x02
/-- ENGINE_HW -/
def Cls.engineHw : Nat := 0x03
/-- FW_STALL -/
def Cls.fwStall : Nat := 0x04
/-- PARTITION_HW -/
def Cls.partitionHw : Nat := 0x05
/-- CHIP_HW -/
def Cls.chipHw : Nat := 0x06
/-- BOUND_MISS -/
def Cls.boundMiss : Nat := 0x07
/-- PROGRESS_MISS -/
def Cls.progressMiss : Nat := 0x08
/-- HOST_LINK -/
def Cls.hostLink : Nat := 0x09
/-- THERMAL_TRIP -/
def Cls.thermalTrip : Nat := 0x0A
/-- TAMPER -/
def Cls.tamper : Nat := 0x0B
/-- INTEGRITY -/
def Cls.integrity : Nat := 0x0C
/-- STORM -/
def Cls.storm : Nat := 0x0D
/-- COMMAND -/
def Cls.command : Nat := 0x0E
/-- STARTUP -/
def Cls.startup : Nat := 0x0F

/-- Unit number: kind and index. -/
def unitOf (kind index : Nat) : Nat := kind * 65536 + index

/-- Kind of a unit: 0 matrix engine, 1 vector core, 2 service core, 3 collective engine, 4 data mover. -/
def unitKind (u : Nat) : Nat := u / 65536

/-- Index of a unit. -/
def unitIndex (u : Nat) : Nat := u % 65536

/-- Is a unit number legal (R486)? -/
def unitLegal (u : Nat) : Bool :=
  (decide (unitKind u = 0) && decide (unitIndex u < 64)) || (decide (unitKind u = 1) && decide (unitIndex u < 10240))
    || (decide (unitKind u = 2) && decide (unitIndex u < 32)) || (decide (unitKind u = 3) && decide (unitIndex u < 32))
    || (decide (unitKind u = 4) && decide (unitIndex u < 64))

/-- The partition of a unit (R129). -/
def unitPart (u : Nat) : Nat :=
  let i := unitIndex u
  if unitKind u = 1 then i / 2560 else if unitKind u = 2 then i / 8 else if unitKind u = 3 then i / 8 else i / 16

/-- The cluster of a matrix engine, vector core or data mover. -/
def unitCluster (u : Nat) : Nat := if unitKind u = 1 then unitIndex u / 160 else unitIndex u

/-- The unit a task of a core kind runs on. -/
def coreUnit (k : CoreKind) (core : Nat) : Nat :=
  match k with
  | .matrix => unitOf 0 core
  | .vector => unitOf 1 core
  | .service => unitOf 2 core
  | .mover => unitOf 4 core

/-- The core a task holds: it runs there, or its exit action does. -/
def taskCore (st : TaskState) : Option (CoreKind × Nat) :=
  match st with
  | .running k core => some (k, core)
  | .exiting k core => some (k, core)
  | _ => none

/-- Does a task hold a core of a unit? -/
def holdsUnit (st : TaskState) (u : Nat) : Bool :=
  match taskCore st with
  | some (k, core) => decide (coreUnit k core = u)
  | none => false

/-! ## Context faults (R476) -/

/-- Is the context LIVE or RESETTING, so that a fault changes it? -/
def ctxFaultable (x : Ctx) : Bool := decide (x.state = .live) || decide (x.state = .resetting)

/-- A context fault of a class and cause: a record; at the first, the context's work is removed, it enters FAULTED
and CONTEXT_FAULT is posted. -/
def contextFault (c cls cause unit idx : Nat) (s : State) : State :=
  match tget s.ctxs c with
  | none => s
  | some x =>
    let h := mkHandle Hk.ctx c
    if ctxFaultable x then
      let detail := cause + fieldAt unit 8 20 + fieldAt idx 32 21
      let s := fltRecord cls 1 false false unit h detail s
      let s := removeCtxWork c s
      post x.fn Att.contextFault detail h (modCtx c (fun y => { y with state := .faulted }) s)
    else fltRecord cls 1 false false unit h 0 s

/-- Mark a launch as failed by poison or otherwise. -/
def markLaunch (l : Nat) (poison : Bool) (s : State) : State :=
  modLaunch l (fun x => if poison then { x with poisoned := true } else { x with broken := true }) s

/-- A task fails at once, its outputs carrying the error (R126); by poison or otherwise. -/
def failTask (l t : Nat) (poison : Bool) (s : State) : State := removeTasks l [t] (markLaunch l poison s)

/-- The unit a task runs on, or 0. -/
def taskUnit (s : State) (l t : Nat) : Nat :=
  match findLaunch s l with
  | some x =>
    match taskCore (taskState x t) with
    | some (k, core) => coreUnit k core
    | none => 0
  | none => 0

/-- An execution fault of a task (R126): the task fails and its context faults. -/
def execFault (l t : Nat) (s : State) : State :=
  match findLaunch s l with
  | some x =>
    let u := taskUnit s l t
    contextFault x.ctx Cls.exec 1 u t (failTask l t false s)
  | none => s

/-- Tasks running on a unit, as launch and task. -/
def tasksOn (s : State) (u : Nat) : List (Nat × Nat) :=
  (s.tsk.launches.map fun (x : Launch) => (x.tasks.filter fun (e : Nat × TaskState) => holdsUnit e.2 u).map
    fun (e : Nat × TaskState) => (x.id, e.1)).flatten

/-- Tasks a test on launch, task number and task state names. -/
def tasksThat (s : State) (p : Launch → Nat → TaskState → Bool) : List (Nat × Nat) :=
  (s.tsk.launches.map fun (x : Launch) => (x.tasks.filter fun (e : Nat × TaskState) => p x e.1 e.2).map
    fun (e : Nat × TaskState) => (x.id, e.1)).flatten

/-- Fail several tasks. -/
def failTasks (ts : List (Nat × Nat)) (poison : Bool) (s : State) : State :=
  ts.foldl (fun s t => failTask t.1 t.2 poison s) s

/-- Functions that own the contexts of launches. -/
def fnsOf (s : State) (ls : List Nat) : List Nat :=
  (s.tsk.launches.filter fun (x : Launch) => ls.contains x.id).foldl (fun m (x : Launch) => linsert m (ctxFn s x.ctx)) []

/-- The PF and the VFs of a list, the PF first, no repeats. -/
def withPf (fns : List Nat) : List Nat := 0 :: fns.filter fun f => f ≠ 0

/-! ## Engine reset (R479) -/

/-- Is a unit under engine reset? -/
def unitInReset (s : State) (u : Nat) : Bool := s.flt.engines.any fun e => e.1 = u

/-- Retire a cluster for the life of the module (R501): its tasks fail, scratch and cached bytes go to their backing
without loss (R259), CLUSTER_RETIRED is posted and a RETIRE record written. -/
def retireCluster (c cause slack : Nat) (s : State) : State :=
  if cluRetired s c then s
  else
    let ts := tasksThat s fun _ _ st =>
      match taskCore st with
      | some (k, core) => decide (k ≠ .service) && decide (unitCluster (coreUnit k core) = c)
      | none => false
    let s := failTasks ts false s
    let s := modNv (fun n => { n with retired := linsert n.retired c }) s
    let s := modOwl (fun o => { o with clu := tmod o.clu c fun p => { p with state := 2 } }) s
    let s := modHbm (fun h => { h with cache := h.cache.filter fun (e : Nat × CacheLine) => e.2.home ≠ c
                                       clu := tmod h.clu c fun k => { k with pend := none } }) s
    let s := { s with mems := tmapv s.mems fun _ (m : MemObj) => if m.cluster = some c then { m with cluster := none, resident := [] } else m }
    let detail := c + fieldAt cause 8 8 + fieldAt slack 16 16
    logWrite 0x06 true (leBytes 8 detail) (post 0 Att.clusterRetired detail 0 s)

/-- Does a collective engine serve an operation? -/
def opOn (o : TrigOp) (e : Nat) : Bool := decide (e / 8 = o.op.part) && bitOf o.op.mask (e % 8)

/-- Tasks on a unit fail and its collective operations end with ENGINE. -/
def unitWorkFails (u : Nat) (s : State) : State :=
  let s := failTasks (tasksOn s u) false s
  if unitKind u = 3 then
    let ops := s.col.ops.filter fun (o : TrigOp) => decide (o.state = .running) && opOn o (unitIndex u)
    let (w, s) := opsFail 0x0B ops s
    settle w s
  else s

/-- Start an engine reset (R479): the unit stops, its work fails, a record is written and ENGINE_RESET is posted to the
PF and to every VF whose work was removed. A larger or running reset absorbs it (R493). -/
def engineReset (u cls : Nat) (escalated : Bool) (ctx : Nat) (s : State) : State :=
  if unitInReset s u || partInReset s (unitPart u) then fltRecord cls 2 escalated true u ctx 0 s
  else
    let fns := withPf (fnsOf s ((tasksOn s u).map Prod.fst))
    let detail := u + fieldAt cls 24 8
    let s := fltRecord cls 2 escalated false u ctx detail s
    let s := modFlt (fun f => { f with engines := (u, cls) :: f.engines, engResets := satAdd 65535 f.engResets 1 }) s
    postAll fns Att.engineReset detail 0 (wipeUnit (unitKind u) (unitIndex u) (unitWorkFails u s))

/-! ## Partition reset (R480, R260) -/

/-- The 64 B lines of a memory object that a partition's loss takes: dirty sectors of the cache parts homed there, and
the lines of resident scratch pages (R260), as line keys. -/
def lostLines (s : State) (p : Nat) : List Nat :=
  let cached := (s.hbm.cache.filter fun (e : Nat × CacheLine) => e.2.home / 16 = p).map fun (e : Nat × CacheLine) =>
    ((List.range 4).filter fun k => bitsOf e.2.dirty (64 * k) 64 ≠ 0).map fun k =>
      (e.1 / 2 ^ 32) * 2 ^ 34 + (e.1 % 2 ^ 32) * 4 + k
  let scratch := (s.mems.filter fun (e : Nat × MemObj) =>
      match e.2.cluster with
      | some c => decide (c / 16 = p)
      | none => false).map fun (e : Nat × MemObj) =>
    (e.2.resident.map fun pg => (List.range (pageBytes e.2.page / 64)).map fun i =>
      lineKey e.1 (pg * pageBytes e.2.page + 64 * i)).flatten
  cached.flatten ++ scratch.flatten

/-- Poison lines of a memory object, entering them in the table of 65,536 entries (R253). -/
def addPoison (lines : List Nat) (stack : Nat) (s : State) : State :=
  lines.foldl (fun s k =>
    if thas s.poison k then s
    else
      let full := decide (65536 ≤ (s.poison.filter fun (e : Nat × Poison) => e.2.tabled).length)
      let s := { s with poison := tput s.poison k { stack := stack, tabled := !full } }
      let lo := memKey (k / 2 ^ 34) (k % 2 ^ 34 * 64)
      let s := { s with mem := cellsDrop lo (lo + 64) s.mem }
      modHbm (fun h => { h with poisonOverflow := h.poisonOverflow || full }) s) s

/-- The stacks 2p and 2p + 1 change STATE. -/
def partStacks (p st : Nat) (s : State) : State :=
  modStack (2 * p) (fun k => { k with state := st }) (modStack (2 * p + 1) (fun k => { k with state := st }) s)

/-- Lost dirty data is poisoned, with one POISON_FOUND per memory object at its lowest lost line (R260). -/
def losePartData (p : Nat) (s : State) : State :=
  let lines := lostLines s p
  let objs := lines.foldl (fun m k => linsert m (k / 2 ^ 34)) []
  let s := addPoison lines 0xFF s
  let s := objs.foldl (fun s o =>
    match minBy (fun k => k) (lines.filter fun k => k / 2 ^ 34 = o), tget s.mems o with
    | some k, some m =>
      post (ctxFn s m.ctx) Att.poisonFound (fieldAt (k % 2 ^ 34 * 64) 0 52 + fieldAt 3 52 4 + fieldAt 0xFF 56 8)
        (mkHandle Hk.mem o) s
    | _, _ => s) s
  let s := modHbm (fun h => { h with cache := h.cache.filter fun (e : Nat × CacheLine) => e.2.home / 16 ≠ p }) s
  { s with mems := tmapv s.mems fun _ (m : MemObj) =>
      match m.cluster with
      | some c => if c / 16 = p then { m with resident := [] } else m
      | none => m }

/-- Events of contexts homed at a partition are lost (R480). -/
def loseEvents (p : Nat) (s : State) : State :=
  let evs := (s.evs.filter fun (e : Nat × Event) =>
    match tget s.ctxs e.2.ctx with
    | some c => decide (c.home = p)
    | none => false).map Prod.fst
  updateEvents (evs.map fun e => (e, EvOp.lost)) s

/-- Contexts homed at a partition enter FAULTED with CAUSE HOME_PARTITION (R480). -/
def faultHomed (p : Nat) (s : State) : State :=
  let cs := (s.ctxs.filter fun (e : Nat × Ctx) => decide (e.2.home = p) && ctxFaultable e.2).map Prod.fst
  cs.foldl (fun s c =>
    let s := removeCtxWork c s
    let s := modCtx c (fun y => { y with state := .faulted }) s
    post (ctxFn s c) Att.contextFault 3 (mkHandle Hk.ctx c) s) s

/-- Tasks that run on a partition or wait in its ready queue. -/
def partTasks (s : State) (p : Nat) : List (Nat × Nat) :=
  tasksThat s fun _ _ st =>
    match st with
    | .running k core => decide (unitPart (coreUnit k core) = p)
    | .exiting k core => decide (unitPart (coreUnit k core) = p)
    | .ready q _ => decide (q = p)
    | .overflow q _ => decide (q = p)
    | _ => false

/-- Collective operations on a partition's engines end with ENGINE. -/
def partOps (p : Nat) (s : State) : State :=
  let ops := s.col.ops.filter fun (o : TrigOp) => opFired o && decide (o.op.part = p)
  let (w, s) := opsFail 0x0B ops s
  settle w s

/-- A partition reset of partition 1, 2 or 3 begins (R480): its units stop, work there fails, its homed contexts fault,
its events and unwritten data are lost. -/
def partitionReset (p cls : Nat) (escalated : Bool) (unit ctx : Nat) (s : State) : State :=
  if partInReset s p || partOff s p then fltRecord cls 3 escalated true (if unit = 0 then p else unit) ctx 0 s
  else
    let ts := partTasks s p
    let homed := (s.ctxs.filter fun (e : Nat × Ctx) => e.2.home = p).map fun (e : Nat × Ctx) => e.2.fn
    let fns := withPf (homed.foldl linsert (fnsOf s (ts.map Prod.fst)))
    let s := fltRecord cls 3 escalated false (if unit = 0 then p else unit) ctx (p + fieldAt cls 24 8) s
    let s := modFlt (fun f => { f with parts := (p, cls, fns) :: f.parts, partResets := satAdd 255 f.partResets 1
                                       engines := f.engines.filter fun e => unitPart e.1 ≠ p }) s
    let s := failTasks ts false s
    let s := ckpPartition p (partOps p s)
    let s := faultHomed p s
    let s := loseEvents p s
    landLoss p (losePartData p (partStacks p 3 (partPortsDown p (wipePartition p s))))

/-! ## Chip reset (R482, R491) and halt (R276) -/

/-- A management command that still runs at a chip reset ends without a response (R526). -/
def dropRunning (g : MgtState) : MgtState :=
  match g.running with
  | some true => { g with running := none, uart := { g.uart with req := none } }
  | some false => { g with running := none, i3c := { g.i3c with req := none } }
  | none => g

/-- Everything a chip reset loses returns to reset; the rest is kept. `cold` starts a cold sequence; `link` keeps the
host link in L0 where it was. -/
def resetState (cls : Nat) (cold link : Bool) (s : State) : State :=
  let r := State.reset
  let inL0 := link && s.clk.inL0
  { r with
    pending := s.pending, out := s.out, draws := s.draws, now := s.now, mod := s.mod, mgt := dropRunning s.mgt, nv := s.nv
    led := s.led
    sec := { r.sec with entropyOk := s.sec.entropyOk, alarmCount := s.sec.alarmCount, alarmLast := s.sec.alarmLast
                        alarmDue := s.sec.alarmDue }
    log := { r.log with waiting := s.log.waiting }
    flt := { r.flt with ring := s.flt.ring, records := s.flt.records, chipResets := s.flt.chipResets
                        faultResets := s.flt.faultResets }
    clk := { r.clk with warm := !cold, inL0 := inL0, faultMilestone := s.clk.faultMilestone
                        faultCause := s.clk.faultCause, faultCount := s.clk.faultCount
                        faultProgress := s.clk.faultProgress, faultCopyDue := s.clk.faultCopyDue, resetClass := cls
                        scale := s.clk.scale, scalePending := s.clk.scalePending }
    hif := { r.hif with numVfs := if link then s.hif.numVfs else 0, vfBarMib := if link then s.hif.vfBarMib else 1
                        tdi := match s.hif.tdi with
                          | .locked => .error
                          | .run => .error
                          | t => t } }

/-- Every key slot, memory key, link key and session key is erased, and any session ends (R276, R431, R451, R453). -/
def endSession (s : State) : State :=
  let c := confidential s
  let s := modSec (fun k => { k with
    keys := [], contribMap := [], session := .none_, config := none, sessDesc := none, kaKey := none, attKey := none, slog := []
    refusals := [], reports := 0
    graphChain := if c then 0 else k.graphChain, nGraphs := if c then 0 else k.nGraphs
    weightChain := if c then 0 else k.weightChain, nWeights := if c then 0 else k.nWeights }) s
  let s := modIme (fun i => { i with keys := [] }) s
  modLnk (fun l => { l with ports := tmapv l.ports fun _ (p : Port) => { p with secured := false, linkKeys := (0, 0) } }) s

/-- The halt (R276, R491): all work ends, every key is erased, HALT_PENDING is posted. -/
def haltDevice (cause detail : Nat) (s : State) : State :=
  if s.flt.haltCause ≠ 0 then s
  else
    let s := modFlt (fun f => { f with haltCause := cause, haltQuiet := false, engines := [], parts := []
                                       resBusy := none }) s
    let s := endSession s
    alertConds (postAll (List.range 513) Att.haltPending detail 0 s)

/-- Fault resets of the last 60 s before now. -/
def recentResets (s : State) : List Nat := s.flt.faultResets.filter fun t => s.now < t + 60000000000

/-- Does a chip reset of a class count toward a STORM (R491)? -/
def stormClass (cls : Nat) : Bool :=
  !(decide (cls = 0) || decide (cls = Cls.command) || decide (cls = Cls.tamper) || decide (cls = Cls.thermalTrip))

/-- A chip reset begins: the commits, then everything of R482 returns to reset. -/
def chipResetNow (cls : Nat) (cold link : Bool) (s : State) : State :=
  let times := if stormClass cls then s.now :: recentResets s else recentResets s
  let s := modFlt (fun f => { f with chipResets := satAdd 255 f.chipResets 1, faultResets := times }) s
  let s := if s.log.mounted then commitReset s else s
  alertConds (resetState cls cold link s)

/-- A chip reset of a class (0 for PERST_N and MOD_RESET_N) is decided: the record, then the reset. The fourth raised by a
fault within 60 s halts the device instead (R491). -/
def chipReset (cls : Nat) (cold link escalated : Bool) (unit ctx : Nat) (s : State) : State :=
  if stormClass cls && decide (3 ≤ (recentResets s).length) && decide (s.flt.haltCause = 0) then
    haltDevice 2 (2 + fieldAt cls 8 8) (fltRecord Cls.storm 5 false false 0 0 (2 + fieldAt cls 8 8) s)
  else chipResetNow cls cold link (if cls = 0 then s else fltRecord cls 4 escalated false unit ctx 0 s)

/-- A fault whose level is the partition: partition 0 resets the chip (R49, R474). -/
def partitionFault (p cls : Nat) (escalated : Bool) (unit ctx : Nat) (s : State) : State :=
  if p = 0 then chipReset (if cls = Cls.partitionHw || cls = Cls.fwStall then Cls.chipHw else cls) false true escalated unit ctx s
  else partitionReset p cls escalated unit ctx s

/-- A fault of a unit (R471): its engine reset; a second one while it is under reset resets its partition (R493). -/
def unitFault (u cls : Nat) (escalated : Bool) (ctx : Nat) (s : State) : State :=
  if unitInReset s u then partitionFault (unitPart u) cls true u ctx s
  else engineReset u cls escalated ctx s

end Sys2Proof.Machine
end

