-- ==== Sys2Proof/Machine/Rings.lean ====
section
/-!
DEFINITION. Sys2Proof/Machine/Rings.lean: doorbells, service-queue build and unbuild, descriptor fetch and start,
completion records, interrupts and heartbeats (R84 to R99, R111).
-/
namespace Sys2Proof.Machine

/-! ## Access from the host -/

/-- Can the host reach BAR0 and BAR2: the link is in L0, M6 has been reached since the last chip reset (R482), and the
TDI lets the access in (R61)? -/
def hostOpen (s : State) (bound : Bool) : Bool :=
  s.clk.inL0 && decide (6 ≤ s.clk.milestone) &&
    (match s.hif.tdi with
     | .unlocked => true
     | .error => false
     | _ => bound)

/-- Does the command block take doorbells: reachable and not halted (R492)? -/
def doorOpen (s : State) (bound : Bool) : Bool := hostOpen s bound && decide (s.flt.haltCause = 0)

/-- The global queue pair of a doorbell page of a BAR2: page `q` of the PF is global queue pair `q`, page `i` of a VF
is what COMMIT mapped (R65); none for a VF that is not ACTIVE. -/
def pageQp (s : State) (bar page : Nat) : Option Nat :=
  if bar = 0 then some page
  else
    let v := vfOf s bar
    if v.state = .active then v.qpMap[page]? else none

/-- The built queue pair a doorbell write reaches: a PF write never reaches a VF's (R65). -/
def doorQp (s : State) (bar page : Nat) : Option (Nat × QueuePair) :=
  match pageQp s bar page with
  | some q =>
    match getQp s q with
    | some p => if p.fn = bar then some (q, p) else none
    | none => none
  | none => none

/-- DOORBELL_SQ (R91). -/
def execDoorbellSq (bar page : Nat) (bound : Bool) (v : Word) (s : State) : Host.Outcome State Fault Refusal :=
  .next (if doorOpen s bound then
    match doorQp s bar page with
    | some (q, p) => modQp q (fun p' => { p' with sqTail := v.toNat % 65536 % 2 ^ p.sqLog }) s
    | none => s
  else s)

/-- Arm a queue pair (R93). -/
def armQp (p : QueuePair) : QueuePair := { p with armed := true }

/-- CQ_HEAD consumes the positions from the consumed position up to it where it lies in the span of records written,
and every record written where it does not (R92). -/
def consumeTo (head : Nat) (p : QueuePair) : QueuePair :=
  let n := 2 ^ p.cqLog
  let k := (head + n - p.cqConsumed % n) % n
  if k ≤ p.cqWritten - p.cqConsumed then { p with cqConsumed := p.cqConsumed + k }
  else { p with cqConsumed := p.cqWritten }

/-- DOORBELL_CQ (R92): CQ_HEAD, and ARM where it is 1 (R93). -/
def execDoorbellCq (bar page : Nat) (bound : Bool) (v : Word) (s : State) : Host.Outcome State Fault Refusal :=
  .next (if doorOpen s bound then
    match doorQp s bar page with
    | some (q, p) =>
      let head := v.toNat % 65536 % 2 ^ p.cqLog
      modQp q (fun p' => let p' := consumeTo head p'; if bitOf v.toNat 31 then armQp p' else p') s
    | none => s
  else s)

/-- QUEUE_ARM (R93). -/
def execQueueArm (bar page : Nat) (bound : Bool) (s : State) : Host.Outcome State Fault Refusal :=
  .next (if doorOpen s bound then
    match doorQp s bar page with
    | some (q, _) => modQp q armQp s
    | none => s
  else s)

/-! ## The service queue (R84 to R87) -/

/-- Page 0 of a function at reset (Tables 04-7 to 04-9). -/
def pageInit : SvqPage :=
  { sqBase := 0, cqBase := 0, cqLog := 8, sqLog := 8, vector := 0, pSqBase := none, pCqBase := none, pCqLog := none
    pSqLog := none, pVector := none, heldBuild := false }

/-- The set-up registers of a function's page 0. -/
def pageOf (s : State) (fn : Nat) : SvqPage := tgetD s.cmd.pages fn pageInit

/-- Change the set-up registers of a function's page 0. -/
def modPage (fn : Nat) (f : SvqPage → SvqPage) (s : State) : State :=
  modCmd (fun c => { c with pages := tupd c.pages fn pageInit f }) s

/-- Global number of a function's service queue (R65). -/
def svqNum (s : State) (fn : Nat) : Option Nat :=
  if fn = 0 then some 0
  else
    let v := vfOf s fn
    if vfHolds v then v.qpMap[0]? else none

/-- A function's built service queue. -/
def svqOf (s : State) (fn : Nat) : Option (Nat × QueuePair) :=
  match svqNum s fn with
  | some q =>
    match getQp s q with
    | some p => if p.fn = fn then some (q, p) else none
    | none => none
  | none => none

/-- The vector number a function has: 2,048 for the PF, 64 for a VF (R56). -/
def vectorCount (fn : Nat) : Nat := if fn = 0 then 2048 else 64

/-- Apply the pending values of page 0, as UNBUILT is quiescent (R9, R86). -/
def applyPage (p : SvqPage) : SvqPage :=
  { p with
    sqBase := p.pSqBase.getD p.sqBase, cqBase := p.pCqBase.getD p.cqBase, cqLog := p.pCqLog.getD p.cqLog
    sqLog := p.pSqLog.getD p.sqLog, vector := p.pVector.getD p.vector, pSqBase := none, pCqBase := none
    pCqLog := none, pSqLog := none, pVector := none }

/-- Write CQ_LOG2, SQ_LOG2 and MSIX_VECTOR of CMD_SVQ_CFG: at once while UNBUILT, else to the shadow (R9, R10, R11). -/
def writeCfg (fn v : Nat) (built : Bool) (p : SvqPage) : SvqPage :=
  let cq := clampTo 6 16 (bitsOf v 20 5)
  let sq := clampTo 6 16 (bitsOf v 15 5)
  let vec := bitsOf v 0 11
  let ok := decide (vec < vectorCount fn)
  if built then
    { p with pCqLog := some cq, pSqLog := some sq, pVector := if ok then some vec else p.pVector }
  else { p with cqLog := cq, sqLog := sq, vector := if ok then vec else p.vector }

/-- Build a function's service queue from the applied values (R87). -/
def buildSvq (fn q : Nat) (s : State) : State :=
  let p := pageOf s fn
  let qp : QueuePair :=
    { fn := fn, loc := 0, ctx := none, sqBase := p.sqBase, cqBase := p.cqBase, sqLog := p.sqLog, cqLog := p.cqLog
      vector := some p.vector, state := .live, sqTail := 0, fetchPos := 0, nextSub := 0, cqWritten := 0
      cqConsumed := 0, reserved := 0, armed := false, lastDstat := none, unbuilding := false }
  let s := modPage fn (fun p => { p with heldBuild := false }) s
  modCmd (fun c => { c with qps := tput c.qps q qp, hearts := tput c.hearts fn { seq := 0, skipped := 0 } }) s

/-- A write of CMD_SVQ_CFG with BUILD and without UNBUILD: the other fields of the write, then the build, held while an
UNBUILD runs, without effect while built (R87, Table 04-9). -/
def doBuild (fn v : Nat) (s : State) : State :=
  match svqNum s fn with
  | none => s
  | some q =>
    match svqOf s fn with
    | some (_, p) =>
      let s := modPage fn (writeCfg fn v true) s
      if p.unbuilding then modPage fn (fun p => { p with heldBuild := true }) s else s
    | none => buildSvq fn q (modPage fn (writeCfg fn v false) s)

/-- BUILD -/
def execBuild (fn : Nat) (bound : Bool) (v : Word) (s : State) : Host.Outcome State Fault Refusal :=
  .next (if doorOpen s bound then doBuild fn v.toNat s else s)

/-- A write of CMD_SVQ_CFG with UNBUILD: fetch stops; what has not started ends ABORTED, and no record is written
(R87). -/
def doUnbuild (fn v : Nat) (s : State) : State :=
  match svqOf s fn with
  | none => modPage fn (writeCfg fn v false) s
  | some (q, _) =>
    let s := modPage fn (writeCfg fn v true) s
    let s := modQp q (fun p => { p with unbuilding := true }) s
    mapDescs (fun d =>
      if d.qp = q then
        (if d.phase = .fetched then { d with phase := .ended (resOf St.aborted), noRecord := true }
         else { d with noRecord := true })
      else d) s

/-- UNBUILD -/
def execUnbuild (fn : Nat) (bound : Bool) (v : Word) (s : State) : Host.Outcome State Fault Refusal :=
  .next (if doorOpen s bound then doUnbuild fn v.toNat s else s)

/-- SERVICE_QUEUE_UNBUILT (R87): every started descriptor has ended; STATE reads UNBUILT, pending values are applied,
and a held BUILD proceeds. -/
def execServiceQueueUnbuilt (fn : Nat) (s : State) : Host.Outcome State Fault Refusal :=
  .next (match svqOf s fn with
  | none => s
  | some (q, p) =>
    if p.unbuilding && !(s.cmd.descs.any fun (d : Desc) => d.qp = q) then
      let s := modCmd (fun c => { c with qps := tdel c.qps q, hearts := tdel c.hearts fn }) s
      let held := (pageOf s fn).heldBuild
      let s := modPage fn applyPage s
      if held then buildSvq fn q s else s
    else s)

/-! ## Fetch (R89 to R92) -/

/-- Submission numbers of the schedule runner's descriptors start here (the model's own numbering). -/
def runnerBase : Nat := 2 ^ 40

/-- Did the schedule runner issue the descriptor of a submission number (R369)? -/
def byRun (sub : Nat) : Bool := decide (runnerBase ≤ sub)

/-- Descriptors of a queue pair that have started and not completed. -/
def startedCount (s : State) (q : Nat) : Nat :=
  (s.cmd.descs.filter fun (d : Desc) => d.qp = q && d.phase ≠ .fetched && !byRun d.sub).length

/-- Free completion slots that no fetched descriptor has reserved (R92). -/
def freeSlots (p : QueuePair) : Nat := 2 ^ p.cqLog - (p.cqWritten - p.cqConsumed) - p.reserved

/-- Is the command block ready for descriptors: M15 reached, no power fail stop, not halted (R45, R276)? -/
def cmdReady (s : State) : Bool :=
  decide (s.clk.milestone = 15) && decide (s.flt.haltCause = 0) && !s.mod.failStopped && s.clk.inL0

/-- May a descriptor of the queue pair be fetched (R81, R83, R87, R91, R92)? -/
def canFetch (s : State) (q : Nat) (p : QueuePair) : Bool :=
  decide (p.state = .live) && !p.unbuilding && decide (p.fetchPos ≠ p.sqTail)
    && (match p.ctx with
        | none => decide (startedCount s q < 64) && decide (2 ≤ freeSlots p)
        | some c =>
          decide (startedCount s q < 256) && decide (1 ≤ freeSlots p)
            && (match tget s.ctxs c with
                | some x => decide (x.state = .live)
                | none => false))
    && (p.fn = 0 || (vfOf s p.fn).state = .active)

/-- WEIGHT of a function, the PF at 64 (R92). -/
def weightOf (s : State) (fn : Nat) : Nat := if fn = 0 then 64 else (vfOf s fn).quota.weight

/-- Weighted round-robin over functions (R92, R131): the function being served keeps its turn while it has turns left
and is a candidate; otherwise the next candidate in index order. -/
def wrrPick (cur : Nat × Nat) (cands : List Nat) : Option Nat :=
  if 0 < cur.2 && cands.contains cur.1 then some cur.1
  else
    match minBy (fun k => k) (cands.filter fun f => cur.1 < f) with
    | some f => some f
    | none => minBy (fun k => k) cands

/-- The turn after serving a function. -/
def wrrNext (s : State) (cur : Nat × Nat) (fn : Nat) : Nat × Nat :=
  if 0 < cur.2 && cur.1 = fn then (fn, cur.2 - 1) else (fn, weightOf s fn - 1)

/-- The next of some numbers after a given one, in index order, cyclically. -/
def rrPick (last : Option Nat) (cands : List Nat) : Option Nat :=
  match last with
  | none => minBy (fun k => k) cands
  | some l =>
    match minBy (fun k => k) (cands.filter fun i => l < i) with
    | some i => some i
    | none => minBy (fun k => k) cands

/-- The queue pair the next fetch serves (R92): service queues first; functions by weight; within a function its work
queue pairs round-robin in index order. -/
def fetchChoice (s : State) : Option Nat :=
  let can := s.cmd.qps.filter fun (e : Nat × QueuePair) => canFetch s e.1 e.2
  let svc := can.filter fun (e : Nat × QueuePair) => e.2.ctx.isNone
  let pool := if svc.isEmpty then can else svc
  match wrrPick s.cmd.fetchTurn (pool.map fun (e : Nat × QueuePair) => e.2.fn) with
  | none => none
  | some fn =>
    let mine := pool.filter fun (e : Nat × QueuePair) => e.2.fn = fn
    match rrPick (tget s.cmd.fetchLast fn) (mine.map fun (e : Nat × QueuePair) => e.2.loc) with
    | none => none
    | some i => (mine.find? fun (e : Nat × QueuePair) => e.2.loc = i).map Prod.fst

/-- Move the arbitration on past a fetch from a queue pair. -/
def fetchServed (p : QueuePair) (s : State) : State :=
  modCmd (fun c => { c with
    fetchTurn := wrrNext s c.fetchTurn p.fn
    fetchLast := if p.ctx.isNone then c.fetchLast else tput c.fetchLast p.fn p.loc }) s

/-- A queue pair enters STOPPED (R90); for a work queue pair its context faults (R471). -/
def stopQp (q : Nat) (p : QueuePair) (s : State) : State :=
  let s := modQp q (fun x => { x with state := .stopped }) s
  match p.ctx with
  | some c => contextFault c Cls.ring 2 0 q s
  | none => s

/-- Enter a fetched descriptor, reserving its completion slot. -/
def enterDesc (d : Desc) (s : State) : State :=
  let s := modCmd (fun c => { c with descs := c.descs ++ [d] }) s
  modQp d.qp (fun p => { p with
    reserved := p.reserved + 1, nextSub := p.nextSub + 1, fetchPos := (p.fetchPos + 1) % 2 ^ p.sqLog }) s

/-- DESCRIPTOR_FETCH (R89, R90, R92, R95): the queue pair the arbitration names gives its next descriptor, which is
checked: SEQ, then OPCODE and queue, then the header fields. -/
def execDescriptorFetch (qp : Nat) (raw : BitVec 512) (s : State) : Host.Outcome State Fault Refusal :=
  .next (if cmdReady s && fetchChoice s = some qp then
    match getQp s qp with
    | none => s
    | some p =>
      let s := fetchServed p s
      let d : Desc := { qp := qp, sub := p.nextSub, pos := p.fetchPos, fn := p.fn, raw := raw, phase := .fetched
                        noRecord := false, sigOk := false, escalated := false, note := 0 }
      if dSeq d ≠ p.nextSub % 65536 then
        stopQp qp p (enterDesc { d with phase := .ended (refuse St.refusedState 2) } s)
      else
        let sig := decide (dSignal d ≠ 0) && (needH s d Hk.ev 20).isNone
        match headerFail s d with
        | some r => enterDesc { d with phase := .ended r, sigOk := sig } s
        | none => enterDesc { d with sigOk := sig } s
  else s)

/-- FETCH_ERROR (R90): a fetch that ends with a host-link error writes ABORTED with OPCODE 0x00 and stops the queue
pair. -/
def execFetchError (qp : Nat) (s : State) : Host.Outcome State Fault Refusal :=
  .next (if cmdReady s && fetchChoice s = some qp then
    match getQp s qp with
    | none => s
    | some p =>
      let s := fetchServed p s
      let d : Desc := { qp := qp, sub := p.nextSub, pos := p.fetchPos, fn := p.fn, raw := 0
                        phase := .ended (resOf St.aborted), noRecord := false, sigOk := false, escalated := false
                        note := 0 }
      stopQp qp p (enterDesc d s)
  else s)

/-! ## Start and completion (R96, R98, R104) -/

/-- Is this the first descriptor of its queue pair, or of the runner on it, that has not started? -/
def nextToStart (s : State) (d : Desc) : Bool :=
  !(s.cmd.descs.any fun (e : Desc) => e.qp = d.qp && byRun e.sub = byRun d.sub && e.phase = .fetched && decide (e.sub < d.sub))

/-- Has every earlier descriptor of the queue pair completed? -/
def fenceMet (s : State) (d : Desc) : Bool :=
  !(s.cmd.descs.any fun (e : Desc) => e.qp = d.qp && byRun e.sub = byRun d.sub && decide (e.sub < d.sub))

/-- DESCRIPTOR_START (R94, R96, R104): in ring order, once FENCE and WAIT_EVENT are met; a WAIT_EVENT with ERROR set
ends it with ABORTED. -/
def execDescriptorStart (qp sub : Nat) (s : State) : Host.Outcome State Fault Refusal :=
  .next (match findDesc s qp sub with
  | none => s
  | some d =>
    if d.phase = .fetched && nextToStart s d && (!dFence d || fenceMet s d) then
      if dWait d = 0 then modDesc qp sub (fun d => { d with phase := .started }) s
      else
        match tget s.evs (hSlot (dWait d)) with
        | none => endDesc qp sub (resOf St.aborted) s
        | some e =>
          if e.aborting then endDesc qp sub (resOf St.aborted) s
          else if e.signalled then
            (if e.error then endDesc qp sub (resOf St.aborted) s
             else modDesc qp sub (fun d => { d with phase := .started }) s)
          else s
    else s)

/-! ## Device-written records and interrupts (R93, R99, R111) -/

/-- VF_STATE_RECORD_WRITE (R99): the oldest VF-state record is written to the PF service ring where a slot is free
beyond those reserved and the heartbeat's. -/
def execVfStateRecordWrite (s : State) : Host.Outcome State Fault Refusal :=
  .next (match s.hif.vfRecords, svqOf s 0 with
  | r :: rest, some (q, p) =>
    if 2 ≤ freeSlots p then
      let s := modHif (fun h => { h with vfRecords := rest }) s
      writeRecord q (fun _ _ => true) (fun ds ph =>
        { tag := 0, handle := 0, aux := r.vf, value := r.word, index := 0, op := r.op, status := r.status, dstat := ds
          flags := 0, phase := ph }) s
    else s
  | _, _ => s)

/-- MSIX_UNMASK (R93): a message held pending is sent once its vector is unmasked. -/
def execMsixUnmask (fn vec : Nat) (s : State) : Host.Outcome State Fault Refusal :=
  .next (
    let k := fn * 4096 + vec
    let s := modHif (fun h => { h with msix := tupd h.msix k msixInit fun e => { e with masked := false } }) s
    if s.hif.msixPending.contains k then
      emit (.msix fn vec) (modHif (fun h => { h with msixPending := h.msixPending.filter fun j => j ≠ k }) s)
    else s)

/-- Do heartbeats run: M15 reached and no halt older than 10 ms (R276, R492)? -/
def heartsRun (s : State) : Bool := decide (s.clk.milestone = 15) && !(decide (s.flt.haltCause ≠ 0) && s.flt.haltQuiet)

/-- HEARTBEAT (R99, R111): a heartbeat of a function falls due; it is written to the slot kept for it, or skipped and
counted. -/
def execHeartbeat (fn : Nat) (s : State) : Host.Outcome State Fault Refusal :=
  .next (if heartsRun s then
    match svqOf s fn with
    | none => s
    | some (q, p) =>
      let h : Heart := tgetD s.cmd.hearts fn { seq := 0, skipped := 0 }
      if 1 ≤ freeSlots p then
        let tb := timeBase s
        let s := modCmd (fun c => { c with hearts := tput c.hearts fn { seq := (h.seq + 1) % 2 ^ 32, skipped := 0 } }) s
        writeRecord q (fun ds last => decide (last ≠ some ds)) (fun ds ph =>
          { tag := h.skipped, handle := 0, aux := h.seq, value := tb, index := p.fetchPos, op := 0xFF, status := St.done
            dstat := ds, flags := 0, phase := ph }) s
      else
        let h' : Heart := { seq := (h.seq + 1) % 2 ^ 32, skipped := satAdd (2 ^ 32 - 1) h.skipped 1 }
        modCmd (fun c => { c with hearts := tput c.hearts fn h' }) s
  else s)

end Sys2Proof.Machine
end

