-- ==== Sys2Proof/Machine/Links.lean ====
section
/-!
DEFINITION. Sys2Proof/Machine/Links.lean: the commands of the links (chapter 11).
-/
namespace Sys2Proof.Machine

/-- Does an access from a source reach the registers (R61, R64, R482)? -/
def srcOpen (s : State) (src : Src) : Bool :=
  match src with
  | .firmware => true
  | .host bound => hostOpen s bound

/-- Is a port index legal? -/
def portLegal (p : Nat) : Bool := decide (p < 23)

/-- The role a HELLO carries: STRAP_ROLE as sampled (Table 01-4). -/
def helloRole (s : State) : Nat := s.mod.strapRole

/-- Bytes 0 to 7 of SHA-384 of SESSION_ID while a session is open (R306). -/
def sessionDigest (s : State) : Nat := sessionTag s

/-- The HELLO a port sends (R306): node, port, serial, role, mode and session digest. -/
def helloMsg (s : State) (p : Nat) : Msg :=
  .ctl 0x01 0 [nodeId s, p, Config.serial.toNat, helloRole s, bitAt (confidential s) 0, sessionDigest s]

/-- Send HELLO. -/
def sendHello (p : Nat) (s : State) : State := sendPort p (helloMsg s p) s

/-! ## Retry (R295, R296) -/

/-- A replay starts from a SEQ; after 8 that fail to advance ACK the port retrains. -/
def startReplay (p seq : Nat) (s : State) : State :=
  let x := portOf s p
  if x.txSeq = x.txOldest then s
  else if 8 ≤ x.replays then (if s.mod.phase = .failing then s else portRetrain p x.half s)
  else emit (.replay p seq x.txSeq) (modPort p (fun x => { x with replays := x.replays + 1 }) s)

/-- An ACK covers every flit before a SEQ: the replay buffer forgets them. -/
def takeAck (ack : Nat) (x : Port) : Port :=
  let n := (ack + 65536 - x.txOldest) % 65536
  if n ≠ 0 ∧ n ≤ unackedFlits x then
    { x with txOldest := ack, replays := 0
             replay := x.replay.filter fun e => n < (e + 65536 - x.txOldest) % 65536 }
  else x

/-- The receiver sends an ACK with the credits it owes (R288, R295). -/
def sendAck (p : Nat) (s : State) : State :=
  let x := portOf s p
  emit (.ack p x.rxSeq x.owed) (modPort p (fun x => { x with owed := [], rxUnacked := 0 }) s)

/-- A NAK for the SEQ expected next, once until it arrives. -/
def sendNak (p : Nat) (s : State) : State :=
  let x := portOf s p
  if x.nakOut then s else emit (.nak p x.rxSeq) (modPort p (fun x => { x with nakOut := true }) s)

/-- A protocol error (R290, R310): counted; the third within 1 s retrains the port. -/
def protoError (p : Nat) (s : State) : State :=
  let s := routeDrop p s
  let recent := (portOf s p).protoErr.filter fun t => s.now < t + 1000000000
  if 2 ≤ recent.length ∧ s.mod.phase ≠ .failing then portRetrain p false (modPort p (fun x => { x with protoErr := [] }) s)
  else modPort p (fun x => { x with protoErr := s.now :: recent }) s

/-- Flits leave the receive buffer: their credits are owed to the peer. -/
def freeCredits (p vc n : Nat) (s : State) : State :=
  modPort p (fun x => { x with owed := tput x.owed vc (tgetD x.owed vc 0 + n) }) s

/-- A whole packet has arrived: local ones leave for their own command; others are routed on (R301, R303). -/
def packetIn (p vc : Nat) (k : RxPkt) (s : State) : State :=
  let s := modPort p (fun x => { x with rx := tdel x.rx vc }) s
  let plain := decide (k.cls = 0x01) || decide (k.cls = 0x04)
  if k.dest = nodeId s ∨ plain then freeCredits p vc k.flits s
  else if !portUsable s p then freeCredits p vc k.flits s
  else if k.hops ≤ 1 then routeDrop p (freeCredits p vc k.flits s)
  else
    match routeOf s p k.dest (some p) with
    | some q =>
      enqueue q (some p) (some k.dest) (.transit k.dest k.src k.cls (k.hops - 1) k.txn k.word (k.bytes.take k.length)) s
    | none => routeDrop p (freeCredits p vc k.flits s)

/-- A released HEAD flit opens its packet (Table 11-4); a class on the wrong VC, or a reserved one, is discarded. -/
def headIn (p vc : Nat) (last : Bool) (pay : List Byte) (s : State) : State :=
  let fld := fun (off n : Nat) => ofLe ((pay.drop off).take n)
  let cls := fld 6 1
  if classVc cls ≠ some vc then protoError p (freeCredits p vc 1 (modPort p (fun x => { x with rx := tdel x.rx vc }) s))
  else
    let k : RxPkt :=
      { dest := fld 0 3, src := fld 3 3, cls := cls, hops := fld 7 1 % 16, txn := fld 10 2, word := fld 12 4
        length := fld 8 2, bytes := pay.drop 16, flits := 1 }
    if last then packetIn p vc k s else modPort p (fun x => { x with rx := tput x.rx vc k }) s

/-- A released BODY flit goes on with its packet; one of a discarded packet frees its credit. -/
def bodyIn (p vc : Nat) (last : Bool) (pay : List Byte) (s : State) : State :=
  match tget (portOf s p).rx vc with
  | some k =>
    let k' := { k with bytes := k.bytes ++ pay, flits := k.flits + 1 }
    if last then packetIn p vc k' s else modPort p (fun x => { x with rx := tput x.rx vc k' }) s
  | none => freeCredits p vc 1 s

/-- A data flit is released. -/
def dataIn (p : Nat) (f : Nat × Bool × Bool × List Byte) (s : State) : State :=
  if f.2.2.1 then headIn p f.1 f.2.1 f.2.2.2 s else bodyIn p f.1 f.2.1 f.2.2.2 s

/-- Does a data flit belong to a HELLO or SESSION packet, which stays outside frames (R297)? -/
def flitPlain (x : Port) (f : Flit) : Bool :=
  if f.ftype = 1 then decide (f.vc = 0) && decide (ofLe ((f.payload.drop 6).take 1) ∈ [0x01, 0x04])
  else match tget x.rx f.vc with
    | some k => decide (k.cls = 0x01) || decide (k.cls = 0x04)
    | none => false

/-- A TAG flit closes a frame (R298, R299). -/
def tagIn (p : Nat) (ok : Bool) (s : State) : State :=
  let fr := (portOf s p).rxFrame
  let s := modPort p (fun x => { x with rxFrame := [], rxCount := x.rxCount + 1 }) s
  if ok then fr.foldl (fun s f => dataIn p f s) s
  else
    let peer := match (portOf s p).peer with
      | some a => a.node
      | none => 0
    sealLog 0 0x0A 0 (p + 256 * peer) (movePort p .secureFailed 0 (modPort p (fun x => { x with rx := [] }) s))

/-- A flit accepted in SEQ order. -/
def acceptFlit (p : Nat) (f : Flit) (tagOk : Bool) (s : State) : State :=
  let s := modPort p (fun x => { x with rxSeq := (x.rxSeq + 1) % 65536, nakOut := false, rxUnacked := x.rxUnacked + 1 }) s
  let x := portOf s p
  let d := (f.vc, f.last, decide (f.ftype = 1), f.payload)
  let s :=
    if f.ftype = 3 then (if x.secured then tagIn p tagOk s else s)
    else if confidential s && x.secured && !flitPlain x f then modPort p (fun x => { x with rxFrame := x.rxFrame ++ [d] }) s
    else dataIn p d s
  if 64 ≤ (portOf s p).rxUnacked then sendAck p s else s

/-- Does a port receive flits in its state? -/
def portHears (st : PortState) : Bool :=
  match st with
  | .hello => true
  | .up => true
  | .degraded => true
  | .secureWait => true
  | .secureFailed => true
  | _ => false

/-- FLIT_RECEIVE -/
def execFlitReceive (port : Nat) (f : Flit) (crcOk tagOk : Bool) (s : State) : Host.Outcome State Fault Refusal :=
  .next (
    if !portLegal port || !portHears (portOf s port).state then s
    else if !crcOk then sendNak port (modPort port (fun x => { x with crcFails := (x.crcFails + 1) % 2 ^ 64 }) s)
    else
      let s := modPort port (fun x =>
        let x := if f.ackValid then takeAck f.ack x else x
        credGive port f.credVc f.credCount x) s
      let s := drainPort port s
      if f.ftype = 0 then s
      else if f.ftype = 4 then startReplay port f.seq s
      else if 5 ≤ f.ftype then protoError port s
      else
        let x := portOf s port
        if f.seq % 65536 = x.rxSeq then acceptFlit port f tagOk s
        else if (x.rxSeq + 65536 - f.seq % 65536) % 65536 < 32768 then s
        else sendNak port s)

/-- NAK -/
def execNak (port seq : Nat) (s : State) : Host.Outcome State Fault Refusal :=
  .next (if portLegal port && portHears (portOf s port).state then startReplay port seq s else s)

/-- REPLAY_TIMER_EXPIRE -/
def execReplayTimerExpire (port : Nat) (s : State) : Host.Outcome State Fault Refusal :=
  .next (if portLegal port && portHears (portOf s port).state then startReplay port (portOf s port).txOldest s else s)

/-! ## Training (R304, R305, R310) -/

/-- A port's training gives up: it waits in DOWN, it has no peer, and its check runs (R308). -/
def giveUp (p : Nat) (s : State) : State :=
  cableCheck p (modPort p (fun x => { x with peer := none }) (portDown p s))

/-- Can a port be retrained from its state? -/
def canRetrain (st : PortState) : Bool := portHears st || decide (st = .retrain)

/-- A retrain at full width by command (R305): a SECURE_FAILED port stays so until the session ends (R299). -/
def retrainNow (p : Nat) (s : State) : State :=
  let st := (portOf s p).state
  if canRetrain st && decide (st ≠ .secureFailed) && decide (s.mod.phase ≠ .failing) then
    portRetrain p false (modPort p (fun x => { x with failed := 0 }) s)
  else s

/-- RETRAIN -/
def execRetrain (src : Src) (port : Nat) (s : State) : Host.Outcome State Fault Refusal :=
  .next (if srcOpen s src && portLegal port then retrainNow port s else s)

/-- Does a half of a port's lanes hold a failed lane? -/
def halfFailed (p : Nat) (x : Port) (hi : Bool) : Bool :=
  let n := portLanes p / 2
  decide (bitsOf x.failed (if hi then n else 0) n ≠ 0)

/-- LANE_FAILURE -/
def execLaneFailure (port lane : Nat) (s : State) : Host.Outcome State Fault Refusal :=
  .next (
    let st := (portOf s port).state
    if !portLegal port || !decide (lane < portLanes port) || decide (st = .disabled) || decide (st = .down) then s
    else
      let s := modPort port (fun x => { x with failed := setBit x.failed lane }) s
      let x := portOf s port
      if !x.allowDegraded || (halfFailed port x false && halfFailed port x true) then portDown port s
      else if st = .training then modPort port (fun x => { x with half := true }) s
      else if s.mod.phase = .failing then s
      else portRetrain port true s)

/-- RETRAIN_COMPLETE -/
def execRetrainComplete (port : Nat) (s : State) : Host.Outcome State Fault Refusal :=
  .next (
    let x := portOf s port
    if portLegal port && decide (x.state = .retrain) then
      let s := enterUp port s
      if x.txSeq = x.txOldest then s else emit (.replay port x.txOldest x.txSeq) s
    else s)

/-- RETRAIN_LIMIT_EXPIRE -/
def execRetrainLimitExpire (port : Nat) (s : State) : Host.Outcome State Fault Refusal :=
  .next (
    let st := (portOf s port).state
    if !portLegal port then s
    else if st = .retrain then portDown port s
    else if st = .training ∨ st = .hello then giveUp port s
    else s)

/-- TRAINING_ATTEMPT -/
def execTrainingAttempt (port : Nat) (s : State) : Host.Outcome State Fault Refusal :=
  .next (
    let st := (portOf s port).state
    if portLegal port && portMay s port && (decide (st = .down) || decide (st = .disabled))
       && decide (2 ≤ s.clk.milestone) && decide (s.mod.phase = .good)
    then portTrain port s else s)

/-- TRAINING_COMPLETE -/
def execTrainingComplete (port : Nat) (s : State) : Host.Outcome State Fault Refusal :=
  .next (
    let x := portOf s port
    if portLegal port && decide (x.state = .training) then
      sendHello port (movePort port .hello (if x.half then portLanes port / 2 else portLanes port) s)
    else s)

/-! ## HELLO and the check (R306 to R308) -/

/-- SHA-384 of SESSION_ID, CONFIG_DIGEST and the firmware DIGEST: the first 144 bytes of every OFFER of the session. -/
def offerHead (s : State) : List Byte :=
  let cd := match s.sec.config with
    | some c => c.digest.toNat
    | none => 0
  leBytes 48 (Config.sha384 (leBytes 32 (sessionIdOf s))).toNat ++ leBytes 48 cd ++ leBytes 48 s.svc.digest.toNat

/-- The OFFER a port sends (Table 17-8), with its contents in the table's order: the head, an ephemeral public key and
chain B. -/
def offerBytes (s : State) (eph : Nat) : List Byte := offerHead s ++ padTo 97 0 (Config.ecPublic eph) ++ Config.certChain 1

/-- A handshake message of a subtype (Table 17-8). -/
def hsMsg (kind : Nat) (b : List Byte) : Msg := .data 0x04 kind [] b

/-- The OFFER leaves; without entropy no key is generated, and the handshake is tried again later (R426). -/
def hsOffer (p : Nat) (s : State) : State :=
  if !s.sec.entropyOk then sealLog 0 8 0 p (modPort p (fun x => { x with hs := .rejected }) s)
  else
    let e := freeNow s
    let b := offerBytes s e
    sendPort p (hsMsg 1 b) (tookFree (modPort p (fun x => { x with
      hs := .offered, hsEph := e, hsOffers := (b, []), hsProofs := ([], []), hsFinish := [] }) s))

/-- A port in SECURE_WAIT whose peer shows the same session digest starts the handshake (R439). -/
def hsBegin (p : Nat) (s : State) : State :=
  let x := portOf s p
  let same := match x.peer with
    | some a => decide (a.digest = sessionDigest s)
    | none => false
  if confidential s && decide (x.state = .secureWait) && decide (x.hs = .idle) && same then
    hsOffer p s
  else s

/-- HELLO -/
def execHello (port node peerPort serial role : Nat) (conf : Bool) (digest : Nat) (s : State) :
    Host.Outcome State Fault Refusal :=
  .next (
    if portLegal port && portHears (portOf s port).state then
      let a : Peer := { node := node, port := peerPort, serial := serial, role := role, conf := conf, digest := digest }
      let s := cableCheck port (modPort port (fun x => { x with peer := some a }) s)
      let s := if (portOf s port).state = .hello then enterUp port s else s
      hsBegin port s
    else s)

/-- HELLO_RESEND -/
def execHelloResend (port : Nat) (s : State) : Host.Outcome State Fault Refusal :=
  .next (if portLegal port && portHears (portOf s port).state then sendHello port s else s)

/-- PLAN_CHANGE_CHECK -/
def execPlanChangeCheck (port : Nat) (s : State) : Host.Outcome State Fault Refusal :=
  .next (if portLegal port && (portOf s port).planDue then cableCheck port s else s)

/-! ## Routing (R302, R303) -/

/-- TRANSIT_STALL_EXPIRE -/
def execTransitStallExpire (port vc : Nat) (s : State) : Host.Outcome State Fault Refusal :=
  .next (
    let x := portOf s port
    if !portLegal port then s
    else
      match x.txq.find? fun (k : TxPkt) => k.vc = vc with
      | some k =>
        match k.from_ with
        | some q =>
          if (vcReady s port x vc).isSome then drainPort port s
          else routeDrop q (freeCredits q vc k.flits (modPort port (fun x => { x with txq := txRemove k x.txq }) s))
        | none => s
      | none => s)

/-- Write a routing entry whole (R302). -/
def putRoute (table index entry : Nat) (s : State) : State :=
  let key := table * 65536 + index
  modLnk (fun l => { l with routes := if entry = 0 then tdel l.routes key else tput l.routes key entry }) s

/-- Is an entry's OUT_PORT legal (Table 11-15)? -/
def entryLegal (e : Nat) : Bool := decide (bitsOf e 48 5 < 23) || decide (bitsOf e 48 5 = 31)

/-- OP 1 of LNK_RT_CMD. -/
def routeWrite (s : State) : State :=
  if entryLegal s.lnk.entry then putRoute s.lnk.table s.lnk.index s.lnk.entry s else s

/-- OP 2 of LNK_RT_CMD. -/
def routeRead (s : State) : State :=
  modLnk (fun l => { l with entry := tgetD l.routes (l.table * 65536 + l.index) 0 }) s

/-- ROUTE_WRITE -/
def execRouteWrite (src : Src) (s : State) : Host.Outcome State Fault Refusal :=
  .next (if srcOpen s src then routeWrite s else s)

/-- ROUTE_READ -/
def execRouteRead (src : Src) (s : State) : Host.Outcome State Fault Refusal :=
  .next (if srcOpen s src then routeRead s else s)

end Sys2Proof.Machine
end

