-- ==== Sys2Proof/Machine/Graphs.lean ====
section
/-!
DEFINITION. Sys2Proof/Machine/Graphs.lean: the task-graph binary: its layout and the load checks (R117 to R122).
-/
namespace Sys2Proof.Machine

/-- `n` bytes of a binary from an offset, as a number. -/
def bin (b : List Byte) (off n : Nat) : Nat := ofLe ((b.drop off).take n)

/-- The header of a task-graph binary (Table 05-1). -/
structure GHead where
  /-- N_TASKS -/
  nTasks : Nat
  /-- N_TOKENS -/
  nTokens : Nat
  /-- N_ARGS -/
  nArgs : Nat
  /-- TASK_TABLE_OFFSET -/
  taskOff : Nat
  /-- TOKEN_TABLE_OFFSET -/
  tokOff : Nat
  /-- CODE_OFFSET -/
  codeOff : Nat
  /-- CODE_LENGTH -/
  codeLen : Nat
  deriving DecidableEq, Repr

/-- Read the header. -/
def gHead (b : List Byte) : GHead :=
  { nTasks := bin b 8 4, nTokens := bin b 12 4, nArgs := bin b 16 4, taskOff := bin b 24 8, tokOff := bin b 32 8
    codeOff := bin b 40 8, codeLen := bin b 48 8 }

/-- The fields of a task record as the binary holds them (Table 05-2). -/
structure RawTask where
  /-- Offset of the record. -/
  base : Nat
  /-- KIND -/
  kind : Nat
  /-- N_IN -/
  nIn : Nat
  /-- N_OUT -/
  nOut : Nat
  /-- PLACE_CLASS -/
  cls : Nat
  /-- PROV -/
  prov : Bool
  /-- ENTRY_ACTION -/
  entry : Nat
  /-- EXIT_ACTION -/
  exit : Nat
  /-- PLACE_INDEX -/
  index : Nat
  /-- CODE_ENTRY -/
  code : Nat
  /-- IMM -/
  imm : Nat
  /-- COST_NS -/
  cost : Nat
  /-- IN_TOKEN -/
  ins : List Nat
  /-- OUT_TOKEN -/
  outs : List Nat
  deriving DecidableEq, Repr

/-- Read task record `i`. -/
def rawTask (b : List Byte) (h : GHead) (i : Nat) : RawTask :=
  let o := h.taskOff + 128 * i
  let w := bin b o 4
  { base := o, kind := bitsOf w 0 4, nIn := bitsOf w 4 5, nOut := bitsOf w 9 4, cls := bitsOf w 13 2, prov := bitOf w 15
    entry := bitsOf w 16 2, exit := bitsOf w 18 2, index := bitsOf (bin b (o + 4) 4) 0 6, code := bin b (o + 8) 8
    imm := bin b (o + 16) 8, cost := bin b (o + 24) 4
    ins := (List.range (bitsOf w 4 5)).map fun k => bitsOf (bin b (o + 32 + 4 * k) 4) 0 22
    outs := (List.range (bitsOf w 9 4)).map fun k => bitsOf (bin b (o + 96 + 4 * k) 4) 0 22 }

/-- The fields of a token record as the binary holds them (Table 05-4). -/
structure RawTok where
  /-- Offset of the record. -/
  base : Nat
  /-- KIND -/
  kind : Nat
  /-- ARG_INDEX -/
  arg : Nat
  /-- OFFSET -/
  off : Nat
  /-- LENGTH -/
  len : Nat
  /-- PRODUCER -/
  producer : Nat
  deriving DecidableEq, Repr

/-- Read token record `j`. -/
def rawTok (b : List Byte) (h : GHead) (j : Nat) : RawTok :=
  let o := h.tokOff + 32 * j
  { base := o, kind := bin b o 1, arg := bin b (o + 4) 4, off := bin b (o + 8) 8, len := bin b (o + 16) 8
    producer := bin b (o + 24) 4 }

/-- The lowest of the offsets that failed. -/
def lowest (l : List Nat) : Option Nat := minBy (fun k => k) l

/-- An offset where a condition fails. -/
def failAt (bad : Bool) (off : Nat) : List Nat := if bad then [off] else []

/-- Check 1: MAGIC, VERSION and FAMILY_ID. -/
def gCheck1 (b : List Byte) : List Nat :=
  failAt (bin b 0 4 ≠ 0x47544B31) 0 ++ failAt (bin b 4 2 ≠ 1) 4 ++ failAt (bin b 20 4 ≠ 0x7400) 20

/-- Check 2: counts and sections. -/
def gCheck2 (h : GHead) (len : Nat) : List Nat :=
  let bad := fun o => decide (o % 64 ≠ 0) || decide (len ≤ o)
  failAt (h.nTasks < 1 || 1048576 < h.nTasks || (!bad h.taskOff && decide (len < h.taskOff + 128 * h.nTasks))) 8
    ++ failAt (h.nTokens < 1 || 4194304 < h.nTokens || (!bad h.tokOff && decide (len < h.tokOff + 32 * h.nTokens))) 12
    ++ failAt (4096 < h.nArgs) 16 ++ failAt (bad h.taskOff) 24 ++ failAt (bad h.tokOff) 32 ++ failAt (bad h.codeOff) 40
    ++ failAt (!bad h.codeOff && decide (len < h.codeOff + h.codeLen)) 48

/-- Check 3: the fields of a task. -/
def gCheck3 (h : GHead) (t : RawTask) : List Nat :=
  let runs := decide (t.kind < 3)
  failAt (4 < t.kind) t.base ++ failAt (16 < t.nIn) t.base ++ failAt (8 < t.nOut) (t.base + 1)
    ++ failAt (t.cls = 3) (t.base + 1) ++ failAt (t.entry = 3) (t.base + 2)
    ++ failAt (decide (t.cls = 1) && decide (3 < t.index)) (t.base + 4)
    ++ failAt (runs && (decide (h.codeLen ≤ t.code) || (decide (t.kind = 1) && decide (t.code % 128 ≠ 0))
        || (decide (t.kind = 0) && decide (t.code % 8 ≠ 0)))) (t.base + 8)
    ++ failAt (decide (t.cost = 0) && decide (t.kind ≠ 4)) (t.base + 24)

/-- Token indices out of range in a list of index fields that starts at `off`. -/
def badIndices (n : Nat) (off : Nat) : List Nat → List Nat
  | [] => []
  | j :: l => failAt (n ≤ j) off ++ badIndices n (off + 4) l

/-- Does a token use its ARG_INDEX (Table 05-4)? -/
def tokUsesArg (t : RawTok) : Bool := decide (t.kind = 2) || decide (t.len ≠ 0)

/-- Check 4 on a task: token indices. -/
def gCheck4t (h : GHead) (t : RawTask) : List Nat :=
  badIndices h.nTokens (t.base + 32) t.ins ++ badIndices h.nTokens (t.base + 96) t.outs

/-- Check 4 on a token: KIND and ARG_INDEX. -/
def gCheck4k (h : GHead) (k : RawTok) : List Nat :=
  failAt (2 < k.kind) k.base ++ failAt (tokUsesArg k && decide (h.nArgs ≤ k.arg)) (k.base + 4)

/-- The tasks that list a token as an output, once per listing. -/
def producersOf (ts : List RawTask) (j : Nat) : List Nat :=
  ((numbered ts).map fun (p : Nat × RawTask) => (p.2.outs.filter fun k => k = j).map fun _ => p.1).flatten

/-- Check 5 on token `j`: its producers. -/
def gCheck5 (ts : List RawTask) (p : Nat × RawTok) : List Nat :=
  let pr := producersOf ts p.1
  let bad :=
    if p.2.kind = 0 then (match pr with
      | [t] => decide (p.2.producer ≠ t)
      | _ => true)
    else decide (p.2.producer ≠ 0xFFFFFFFF) || (decide (p.2.kind = 1) && !pr.isEmpty)
  failAt bad (p.2.base + 24)

/-- The tasks that take a DATA output of task `t` as input. -/
def dataSuccs (ts : List RawTask) (ks : List RawTok) (t : RawTask) : List Nat :=
  ((numbered ts).filter fun (p : Nat × RawTask) =>
    p.2.ins.any fun j => t.outs.contains j && (match ks[j]? with
      | some k => decide (k.kind = 0)
      | none => false)).map Prod.fst

/-- Tasks reached from a set in at most so many steps through DATA tokens. -/
def dataReach (ts : List RawTask) (ks : List RawTok) : Nat → List Nat → List Nat
  | 0, seen => seen
  | n + 1, seen =>
    let next := (seen.map fun t => match ts[t]? with
      | some r => dataSuccs ts ks r
      | none => []).flatten
    dataReach ts ks n (next.foldl linsert seen)

/-- Is a task on a cycle of DATA tokens? -/
def onCycle (ts : List RawTask) (ks : List RawTok) (t : Nat) : Bool :=
  match ts[t]? with
  | some r => (dataReach ts ks ts.length (dataSuccs ts ks r)).contains t
  | none => false

/-- Check 6: the lowest task on a cycle. -/
def gCheck6 (ts : List RawTask) (ks : List RawTok) : List Nat :=
  match (List.range ts.length).find? (onCycle ts ks) with
  | some t => (ts[t]?.map fun (r : RawTask) => r.base).toList
  | none => []

/-- Check 7: PROV data into a task without PROV, or a PROV task of kind SERVICE. -/
def gCheck7 (ts : List RawTask) (ks : List RawTok) (t : RawTask) : List Nat :=
  let provIn := t.ins.any fun j =>
    match ks[j]? with
    | some k => decide (k.kind = 0) && (match ts[k.producer]? with
        | some p => p.prov
        | none => false)
    | none => false
  failAt ((!t.prov && provIn) || (t.prov && decide (t.kind = 2))) t.base

/-- The load checks in the order of Table 05-6: the number of the first that fails and the field it reports. -/
def gChecks (b : List Byte) (conf : Bool) (badSig : List Nat) : Option (Nat × Nat) :=
  let h := gHead b
  match lowest (gCheck1 b) with
  | some o => some (1, o)
  | none =>
  match lowest (gCheck2 h b.length) with
  | some o => some (2, o)
  | none =>
  let ts := (List.range h.nTasks).map (rawTask b h)
  match lowest (ts.map (gCheck3 h)).flatten with
  | some o => some (3, o)
  | none =>
  let ks := (List.range h.nTokens).map (rawTok b h)
  match lowest ((ts.map (gCheck4t h)).flatten ++ (ks.map (gCheck4k h)).flatten) with
  | some o => some (4, o)
  | none =>
  match lowest ((numbered ks).map (gCheck5 ts)).flatten with
  | some o => some (5, o)
  | none =>
  match lowest (gCheck6 ts ks) with
  | some o => some (6, o)
  | none =>
  match lowest (ts.map (gCheck7 ts ks)).flatten with
  | some o => some (7, o)
  | none =>
  let svc := (numbered ts).filter fun (p : Nat × RawTask) => p.2.kind = 2
  if conf then (svc.head?).map fun (p : Nat × RawTask) => (8, p.2.base)
  else ((svc.find? fun (p : Nat × RawTask) => badSig.contains p.1)).map fun (p : Nat × RawTask) => (8, p.2.base + 8)

/-- Task kind of a legal value. -/
def taskKindOf (k : Nat) : TaskKind :=
  if k = 0 then .vector else if k = 1 then .matrix else if k = 2 then .service else if k = 3 then .move else .join

/-- Placement class of a legal value. -/
def placeOf (c : Nat) : PlaceClass := if c = 0 then .any else if c = 1 then .partition else .cluster

/-- Token kind of a legal value. -/
def tokKindOf (k : Nat) : TokKind := if k = 0 then .data else if k = 1 then .launch else .event

/-- The task record the device keeps. -/
def taskOf (t : RawTask) : TaskRec :=
  { kind := taskKindOf t.kind, place := placeOf t.cls, prov := t.prov, entry := t.entry, exit := t.exit
    index := t.index, code := t.code, imm := t.imm, cost := t.cost, ins := t.ins, outs := t.outs }

/-- The token record the device keeps. -/
def tokOf (k : RawTok) : TokRec :=
  { kind := tokKindOf k.kind, arg := k.arg, off := k.off, len := k.len, producer := k.producer }

/-- The graph that a binary which passes its checks holds, in state LOADING. -/
def graphOf (ctx : Nat) (b : List Byte) : Graph :=
  let h := gHead b
  { ctx := ctx, state := .loading, length := b.length, nArgs := h.nArgs
    tasks := (List.range h.nTasks).map fun i => taskOf (rawTask b h i)
    tokens := (List.range h.nTokens).map fun j => tokOf (rawTok b h j)
    code := (b.drop h.codeOff).take h.codeLen, digest := Config.sha384 b }

end Sys2Proof.Machine
end

