-- ==== Sys2Proof/Machine/Objects.lean ====
section
/-!
DEFINITION. Sys2Proof/Machine/Objects.lean: the opcodes of chapter 04: attention, contexts, queue pairs, memory objects,
events, task-graph loading, COPY and FILL, and destruction (R100 to R115).
-/
namespace Sys2Proof.Machine

/-- End the descriptor at hand. -/
def endD (d : Desc) (r : Result) (s : State) : State := endDesc d.qp d.sub r s

/-- A result DONE with a handle. -/
def rHandle (h : Nat) : Result := { rDone with handle := h }

/-- A security refusal is decided: its reason goes into the sealed log (R448), its completion is written uniformly, 4 µs
later (R447). -/
def uniformRefuse (d : Desc) (reason : Nat) (s : State) : State :=
  let s := sealLog (dOp d) reason (d.pos % 65536) 0 s
  modSec (fun k => { k with refusals := k.refusals ++ [(d.qp, d.sub)] }) (runDesc d.qp d.sub 0 s)

/-- NOP -/
def execNop (qp sub : Nat) (s : State) : Host.Outcome State Fault Refusal :=
  .next (onStarted 0x00 qp sub (fun d s => endD d rDone s) s)

/-! ## Attention (R101, R102, R109) -/

/-- The attention codes of Table 22-2. -/
def attCodes : List Nat :=
  [0x01, 0x08, 0x10, 0x11, 0x12, 0x20, 0x30, 0x31, 0x38, 0x40, 0x41, 0x48, 0x50, 0x60, 0x70]

/-- The most urgent pending code of a table. -/
def urgentCode (t : AttTable) : Option Nat := (t.entries.find? fun (e : Nat × AttEntry) => e.2.pending).map Prod.fst

/-- The result that reports an entry (Table 04-15). -/
def attResult (code : Nat) (e : AttEntry) : Result :=
  { status := St.done, handle := e.handle, aux := fieldAt e.epochLast 24 8 + fieldAt code 16 8 + e.count
    value := e.detail, flags := bitAt e.pending 0 }

/-- Report the entry of a code, or, for 0xFF, the most urgent pending one (R102). -/
def attReport (t : AttTable) (code : Nat) : Result :=
  if code = 0xFF then
    match urgentCode t with
    | some c => attResult c (tgetD t.entries c attInit)
    | none => { rDone with aux := fieldAt 0xFF 16 8 }
  else attResult code (tgetD t.entries code attInit)

/-- The CODE of a descriptor must be 0xFF or listed (R101). -/
def needCode (d : Desc) : Option Result :=
  chk (dfld d 24 1 = 0xFF || attCodes.contains (dfld d 24 1)) St.refusedState 24

/-- The full epoch that an 8-bit EPOCH names, if any (R109). -/
def fullEpoch (cur e : Nat) : Option Nat :=
  let back := (cur + 256 - e % 256) % 256
  if back ≤ cur then some (cur - back) else none

/-- Acknowledge an entry last posted at or before an epoch. -/
def attAck (ep : Nat) (e : AttEntry) : AttEntry :=
  if e.epochLast ≤ ep then { e with pending := false, count := 0 } else e

/-- ACK_ATTENTION (R109) -/
def execAckAttention (qp sub : Nat) (s : State) : Host.Outcome State Fault Refusal :=
  .next (onStarted 0x01 qp sub (fun d s => guarded d [needCode d] (fun s =>
    let t := attOf s d.fn
    let code := dfld d 24 1
    let t := match fullEpoch t.epoch (dfld d 25 1) with
      | some ep =>
        if code = 0xFF then { t with entries := tmapv t.entries fun _ e => attAck ep e }
        else { t with entries := tmod t.entries code (attAck ep) }
      | none => t
    endD d (attReport t code) (modCmd (fun c => { c with att := tput c.att d.fn t }) s)) s) s)

/-- GET_ATTENTION (R102) -/
def execGetAttention (qp sub : Nat) (s : State) : Host.Outcome State Fault Refusal :=
  .next (onStarted 0x02 qp sub (fun d s => guarded d [needCode d] (fun s =>
    endD d (attReport (attOf s d.fn) (dfld d 24 1)) s) s) s)

/-! ## Contexts (R80 to R82, R114, R115) -/

/-- A partition number in a field: 0 to 3 and online (R11). -/
def needPart (s : State) (p off : Nat) : Option Result := chk (p < 4 && !partOff s p) St.refusedHandle off

/-- HOME_PARTITION of a function. -/
def fnHome (s : State) (fn : Nat) : Nat := if fn = 0 then 0 else (vfOf s fn).quota.home

/-- SEED of the session (Table 17-6). -/
def sessionSeed (s : State) : Nat :=
  match s.sec.config with
  | some c => c.seed
  | none => 0

/-- CREATE_CONTEXT -/
def execCreateContext (qp sub : Nat) (s : State) : Host.Outcome State Fault Refusal :=
  .next (onStarted 0x10 qp sub (fun d s =>
    let home := if dfld d 24 1 = 0xFF then fnHome s d.fn else dfld d 24 1
    guarded d [needPart s home 24, quotaFail s d.fn Hk.ctx] (fun s =>
      match slotChoose s.cmd.ctxSlots (kindSlots Hk.ctx) with
      | none => endD d (resOf St.retryLater) s
      | some c =>
        let x : Ctx := { state := .live, fn := d.fn, home := home, prio := clampTo 0 3 (dfld d 25 1)
                         seed := if confidential s then BitVec.ofNat 256 (sessionSeed s) else 0, mode := true, aflags := 0
                         waiters := [] }
        let s := modCmd (fun k => { k with ctxSlots := slotTake k.ctxSlots (kindSlots Hk.ctx) }) s
        endD d (rHandle (mkHandle Hk.ctx c)) { s with ctxs := tput s.ctxs c x }) s) s)

/-- Move a queue pair of a context under reset to the last SQ_TAIL written (R82). -/
def skipQp (p : QueuePair) : QueuePair :=
  let n := 2 ^ p.sqLog
  let k := (p.sqTail + n - p.fetchPos) % n
  { p with state := if p.state = .stopped then .live else p.state, fetchPos := p.sqTail, nextSub := p.nextSub + k }

/-- The reset of a context begins (R82). -/
def beginReset (c : Nat) (s : State) : State :=
  removeCtxWork c (modCtx c (fun x => { x with state := .resetting }) s)

/-- Enter a descriptor in the line of those that wait on a context's recovery. -/
def waitCtx (c : Nat) (d : Desc) (s : State) : State :=
  modCtx c (fun x => { x with waiters := x.waiters ++ [(d.qp, d.sub)] }) (runDesc d.qp d.sub c s)

/-- RESET_CONTEXT (R82, R115, R481). -/
def execResetContext (qp sub : Nat) (s : State) : Host.Outcome State Fault Refusal :=
  .next (onStarted 0x12 qp sub (fun d s =>
    let c := hSlot (dCtx d)
    match tget s.ctxs c with
    | none => endD d (refuse St.refusedHandle 4) s
    | some x =>
      if x.state = .aborting then endD d (refuse St.refusedState 4) s
      else if partOff s x.home then endD d (refuse St.refusedState 4) s
      else if x.state = .resetting then waitCtx c d s
      else beginReset c (waitCtx c d s)) s)

/-- Mark every object of a context as being destroyed (R114). -/
def abortObjects (c : Nat) (s : State) : State :=
  { s with
    mems := tmapv s.mems fun _ (m : MemObj) => if m.ctx = c then { m with aborting := true } else m
    evs := tmapv s.evs fun _ (e : Event) => if e.ctx = c then { e with aborting := true } else e
    sec := { s.sec with keys := tmapv s.sec.keys fun _ (k : KeySlot) => if k.ctx = c then { k with aborting := true } else k }
    tsk := { s.tsk with graphs := tmapv s.tsk.graphs fun _ (g : Graph) => if g.ctx = c then { g with state := .aborting } else g }
    cmd := { s.cmd with qps := tmapv s.cmd.qps fun _ (p : QueuePair) => if p.ctx = some c then { p with state := .aborting } else p } }

/-- Waiters on a destroyed event complete with ABORTED, in any context (R113). -/
def abortWaiters (slot : Nat) (s : State) : State :=
  let h := mkHandle Hk.ev slot
  abortDescs (fun d => (decide (d.phase = .fetched) && decide (dWait d = h))
    || (dRuns d && decide (dOp d = 0x43) && decide (d.note = slot) && decide (dfld d 24 4 = h))) s

/-- The destruction of a context begins (R114): its work is removed, its objects are being destroyed, and no record is
written to its rings. -/
def beginDestroy (c : Nat) (s : State) : State :=
  let s := removeCtxWork c (modCtx c (fun x => { x with state := .aborting }) s)
  let s := closeStreamsOf (fun x => x.ctx = c) (abortObjects c (ckpCtxGone c s))
  let s := (s.evs.filter fun (e : Nat × Event) => e.2.ctx = c).foldl (fun s (e : Nat × Event) => abortWaiters e.1 s) s
  let s := modCol (fun k => { k with groups := k.groups.filter fun (g : Nat × Group) => g.2.ctx ≠ c }) s
  mapDescs (fun d =>
    match getQp s d.qp with
    | some p => if p.ctx = some c then { d with noRecord := true } else d
    | none => d) s

/-- DESTROY_CONTEXT (R114, R115). -/
def execDestroyContext (qp sub : Nat) (s : State) : Host.Outcome State Fault Refusal :=
  .next (onStarted 0x11 qp sub (fun d s =>
    let c := hSlot (dCtx d)
    match tget s.ctxs c with
    | none => endD d (refuse St.refusedHandle 4) s
    | some x =>
      if x.state = .aborting then endD d (refuse St.refusedState 4) s
      else if x.state = .resetting then waitCtx c d s
      else beginDestroy c (waitCtx c d s)) s)

/-- DONE, with ESCALATED where the work was removed by escalation (R474). -/
def rRecovered (d : Desc) : Result := { rDone with flags := bitAt d.escalated 0 }

/-- Let the next descriptor that waits on a context proceed (R115). -/
def nextWaiter (c : Nat) (s : State) : State :=
  match tget s.ctxs c with
  | none => s
  | some x =>
    match x.waiters with
    | [] => s
    | (q, u) :: _ =>
      match findDesc s q u with
      | some d => if dOp d = 0x11 then beginDestroy c s else beginReset c s
      | none => s

/-- CONTEXT_RESET_COMPLETE (R82): the context returns to LIVE, AFLAGS cleared (R192), its queue pairs at their tails. -/
def execContextResetComplete (ctx : Nat) (s : State) : Host.Outcome State Fault Refusal :=
  .next (match tget s.ctxs ctx with
  | none => s
  | some x =>
    if x.state = .resetting then
      let s := modCmd (fun k => { k with qps := tmapv k.qps fun _ (p : QueuePair) => if p.ctx = some ctx then skipQp p else p }) s
      let s := modCtx ctx (fun x => { x with state := .live, aflags := 0, waiters := x.waiters.tail }) s
      let s := match x.waiters with
        | (q, u) :: _ => (match findDesc s q u with
          | some d => endD d (rRecovered d) s
          | none => s)
        | [] => s
      nextWaiter ctx s
    else s)

/-! ## Queue pairs (R84, R114) -/

/-- The lowest queue pair of a function that is not built (R84), with its global and local number. -/
def freeQp (s : State) (fn : Nat) : Option (Nat × Nat) :=
  if fn = 0 then
    let taken := (s.hif.vfs.map fun (e : Nat × VfEntry) => if vfHolds e.2 then e.2.qpMap else []).flatten
    (firstFrom (fun q => (getQp s q).isNone && !taken.contains q) 16383 1).map fun q => (q, q)
  else
    ((numbered (vfOf s fn).qpMap).find? fun (e : Nat × Nat) => decide (e.1 ≠ 0) && (getQp s e.2).isNone).map
      fun (e : Nat × Nat) => (e.2, e.1)

/-- CREATE_QUEUE_PAIR -/
def execCreateQueuePair (qp sub : Nat) (s : State) : Host.Outcome State Fault Refusal :=
  .next (onStarted 0x14 qp sub (fun d s =>
    let vec := dfld d 42 2
    guarded d [chk (vec = 0xFFFF || decide (vec < vectorCount d.fn)) St.refusedHandle 42, quotaFail s d.fn Hk.qp] (fun s =>
      match freeQp s d.fn with
      | none => endD d (resOf St.refusedState) s
      | some (q, loc) =>
        let p : QueuePair :=
          { fn := d.fn, loc := loc, ctx := some (hSlot (dCtx d)), sqBase := dfld d 24 8 / 4096 * 4096
            cqBase := dfld d 32 8 / 4096 * 4096, sqLog := clampTo 6 16 (dfld d 40 1), cqLog := clampTo 6 16 (dfld d 41 1)
            vector := if vec = 0xFFFF then none else some vec, state := .live, sqTail := 0, fetchPos := 0, nextSub := 0
            cqWritten := 0, cqConsumed := 0, reserved := 0, armed := false, lastDstat := none, unbuilding := false }
        endD d { rHandle (mkHandle Hk.qp q) with aux := loc } (modCmd (fun c => { c with qps := tput c.qps q p }) s)) s) s)

/-- A queue pair named in HANDLE must belong to the context CONTEXT names and not be a service queue (R78, R114). -/
def needQp (s : State) (d : Desc) (off : Nat) : Option Result :=
  let h := dfld d off 4
  if hKind h ≠ Hk.qp ∨ kindSlots Hk.qp ≤ hSlot h then some (refuse St.refusedHandle off)
  else
    match getQp s (hSlot h) with
    | none => some (refuse St.refusedHandle off)
    | some p =>
      match p.ctx with
      | none => chk (p.fn ≠ d.fn) St.refusedState off
      | some c =>
        if descCtx s d = some c then (if p.state = .aborting then some (refuse St.refusedState off) else none)
        else some (refuse St.refusedHandle off)

/-- DESTROY_QUEUE_PAIR (R114): fetch stops at once; what its descriptors started is removed; no record is written. -/
def execDestroyQueuePair (qp sub : Nat) (s : State) : Host.Outcome State Fault Refusal :=
  .next (onStarted 0x15 qp sub (fun d s => guarded d [needQp s d 24] (fun s =>
    let q := hSlot (dfld d 24 4)
    let s := modQp q (fun p => { p with state := .aborting }) s
    let s := stopLaunches ((s.tsk.launches.filter fun (x : Launch) => x.qp = q).map Launch.id) false s
    let s := abortDescs (fun e => e.qp = q) s
    let s := (s.runners.filter fun (e : Nat × Runner) => e.2.active && decide (e.2.desc.1 = q)).foldl
      (fun s (e : Nat × Runner) => haltRunner e.1 (discardGens e.1 0 s)) s
    let s := mapDescs (fun e => if e.qp = q then { e with noRecord := true } else e) s
    runDesc d.qp d.sub (dfld d 24 4) s) s) s)

/-! ## Memory objects (R101, R102, R236, R237) -/

/-- The nearest multiple of `p` to `v`, the lower on a tie. -/
def nearestMultiple (p v : Nat) : Nat := (v + (p - 1) / 2) / p * p

/-- Bytes of its HBM share a function has left. -/
def shareTotal (s : State) (fn : Nat) : Nat :=
  if fn = 0 then (poolGib s - committedGib s) * 2 ^ 30 else (vfOf s fn).quota.hbmGib * 2 ^ 30

/-- Copy-on-write bytes held on a function's share (R403). -/
def ckpHeld (s : State) (fn : Nat) : Nat :=
  ((s.ckp.ctxs.filter fun (e : Nat × CkpCtx) => ctxFn s e.1 = fn).map fun (e : Nat × CkpCtx) =>
    match e.2.plan with
    | some p => 65536 * planGranules p
    | none => 0).sum

/-- Bytes of the schedule copies of a function (R380). -/
def schedHeld (s : State) (fn : Nat) : Nat :=
  ((s.runners.filter fun (e : Nat × Runner) => ctxFn s e.1 = fn).map fun (e : Nat × Runner) => e.2.table.length).sum

/-- Bytes of a function's share in use. -/
def shareUsed (s : State) (fn : Nat) : Nat :=
  schedHeld s fn + memHeld s fn + graphHeld s fn + launchHeld s fn + versionHeld s fn + ckpHeld s fn

/-- Bytes left in a function's share. -/
def shareLeft (s : State) (fn : Nat) : Nat := shareTotal s fn - shareUsed s fn

/-- Do two address ranges meet? -/
def rangesMeet (a n b m : Nat) : Bool := decide (a < b + m) && decide (b < a + n)

/-- The objects of the address space a function's contexts use (Table 09-4): the function's, or the session's. -/
def spaceObjs (s : State) (fn : Nat) : List MemObj :=
  ((s.mems.filter fun (e : Nat × MemObj) => ctxFn s e.2.ctx = fn).map Prod.snd)

/-- The lowest free range aligned to the page size at or above 2^32 (R236). -/
def chooseVa (s : State) (fn page size : Nat) : Nat :=
  let objs := spaceObjs s fn
  let cands := (2 ^ 32 :: objs.map fun (m : MemObj) => m.va + m.size).map fun a => roundUp a (pageBytes page)
  (minBy (fun a => a) (cands.filter fun a => objs.all fun (m : MemObj) => !rangesMeet a size m.va m.size)).getD (2 ^ 32)

/-- CREATE_MEMORY -/
def execCreateMemory (qp sub : Nat) (s : State) : Host.Outcome State Fault Refusal :=
  .next (onStarted 0x18 qp sub (fun d s =>
    let page := clampTo 0 2 (dfld d 32 1)
    let size := clampTo (pageBytes page) (352 * 2 ^ 30) (nearestMultiple (pageBytes page) (dfld d 24 8))
    let pk := clampTo 0 2 (dfld d 33 1)
    let idx := dfld d 34 1
    let key := dfld d 35 1
    let conf := confidential s
    let c := hSlot (dCtx d)
    let home := match tget s.ctxs c with
      | some x => x.home
      | none => 0
    let place := if pk = 0 then none
      else if pk = 1 then needPart s idx 34
      else chk (idx < 64 && !partOff s (idx / 16)) St.refusedHandle 34
    match firstFail [place] with
    | some r => endD d r s
    | none =>
      if conf && (decide (key = 0) || !thas s.ime.keys key) then uniformRefuse d 5 s
      else
        guarded d [chk (conf || key = 0) St.refusedHandle 35, quotaFail s d.fn Hk.mem,
            (if size ≤ shareLeft s d.fn then none
             else if size ≤ shareLeft s d.fn + memDying s d.fn then some (refuse St.retryLater 24)
             else some (refuse St.refusedState 24))] (fun s =>
          match slotChoose s.cmd.memSlots (kindSlots Hk.mem) with
          | none => endD d (resOf St.retryLater) s
          | some slot =>
            let part := if pk = 0 then home else if pk = 1 then idx else idx / 16
            let va := chooseVa s d.fn page size
            let m : MemObj :=
              { ctx := c, size := size, page := page, part := part
                cluster := if pk = 2 && decide (page ≠ 2) && !cluRetired s idx then some idx else none
                keyId := key, va := va, aborting := false, readOnly := [], start := none, mapped := [], resident := []
                lossPosted := false }
            let s := modCmd (fun k => { k with memSlots := slotTake k.memSlots (kindSlots Hk.mem) }) s
            endD d { rHandle (mkHandle Hk.mem slot) with value := va } { s with mems := tput s.mems slot m }) s) s)

/-- A launch uses a memory object or an event that one of its arguments names, or its ARGS object (R83, R113). -/
def launchUses (x : Launch) (h : Nat) : Bool :=
  x.args.contains h || decide (x.argsObj = some (hSlot h) ∧ hKind h = Hk.mem)

/-- A triggered operation uses an object of a kind. -/
def opUses (o : TrigOp) (h : Nat) : Bool :=
  let k := hSlot h
  (decide (hKind h = Hk.mem) && (decide (o.op.src = k) || decide (o.op.dst = some k) || decide (o.op.exp = some k)
    || decide (o.op.status = some k)))
  || (decide (hKind h = Hk.ev) && (decide (o.op.trigger = k) || decide (o.op.complete = some k)))

/-- Operations on a destroyed range fail with ACCESS when they next touch it (R362): those running now, the others when
they fire. Operations on a destroyed event are removed (R113). -/
def opsLose (h : Nat) (s : State) : State :=
  if hKind h = Hk.ev then
    cancelOps (fun o => opUses o h) s
  else mapOps (fun o => if opUses o h then { o with access := true } else o) s

/-- Remove everything that uses an object (R113). -/
def removeUsers (d : Desc) (h : Nat) (s : State) : State :=
  let s := stopLaunches ((s.tsk.launches.filter fun (x : Launch) => launchUses x h).map Launch.id) false s
  let s := abortDescs (fun e => dRuns e && descNames e h && !(e.qp = d.qp && e.sub = d.sub)) s
  opsLose h s

/-- A version of a destroyed object makes its generation conflict (R140). -/
def conflictOn (slot : Nat) (s : State) : State :=
  (s.tsk.gens.filter fun (g : Generation) => g.versions.any fun v => v / 2 ^ 24 = slot).foldl
    (fun s (g : Generation) => markConflict g.id s) s

/-- DESTROY_MEMORY (R113) -/
def execDestroyMemory (qp sub : Nat) (s : State) : Host.Outcome State Fault Refusal :=
  .next (onStarted 0x19 qp sub (fun d s => guarded d [needH s d Hk.mem 24] (fun s =>
    let h := dfld d 24 4
    let s := ckpObjectGone (hSlot h) s
    let s := closeStreamsOf (fun x => x.dest = hSlot h) (modMem (hSlot h) (fun m => { m with aborting := true }) s)
    runDesc d.qp d.sub h (removeUsers d h (conflictOn (hSlot h) s))) s) s)

/-! ## Events (R101, R103, R105, R106) -/

/-- CREATE_EVENT -/
def execCreateEvent (qp sub : Nat) (s : State) : Host.Outcome State Fault Refusal :=
  .next (onStarted 0x1C qp sub (fun d s => guarded d [quotaFail s d.fn Hk.ev] (fun s =>
    match slotChoose s.cmd.evSlots (kindSlots Hk.ev) with
    | none => endD d (resOf St.retryLater) s
    | some e =>
      let counter := decide (dfld d 24 1 ≠ 0)
      let ev : Event :=
        { ctx := hSlot (dCtx d), counter := counter
          threshold := if counter then clampTo 1 (2 ^ 32 - 1) (dfld d 28 4) else 0, count := 0, payload := 0
          signalled := false, error := false, scope := 0, node := 0, nodeMask := 0, aborting := false }
      let s := modCmd (fun k => { k with evSlots := slotTake k.evSlots (kindSlots Hk.ev) }) s
      endD d (rHandle (mkHandle Hk.ev e)) { s with evs := tput s.evs e ev }) s) s)

/-- Change an event. -/
def modEv (e : Nat) (f : Event → Event) (s : State) : State := { s with evs := tmod s.evs e f }

/-- DESTROY_EVENT (R113): waiters complete with ABORTED; a generation whose guard it is is discarded (R139). -/
def execDestroyEvent (qp sub : Nat) (s : State) : Host.Outcome State Fault Refusal :=
  .next (onStarted 0x1D qp sub (fun d s => guarded d [needOwnEv s d 24] (fun s =>
    let h := dfld d 24 4
    let e := hSlot h
    let s := modEv e (fun v => { v with aborting := true }) s
    let s := abortWaiters e s
    let s := (s.tsk.gens.filter fun (g : Generation) => decide (g.guard = e) && decide (g.state = .open)).foldl
      (fun s (g : Generation) => discardGens g.ctx g.id s) s
    runDesc d.qp d.sub h (removeUsers d h s)) s) s)

/-- EXPORT_EVENT (R106) -/
def execExportEvent (qp sub : Nat) (s : State) : Host.Outcome State Fault Refusal :=
  .next (onStarted 0x1E qp sub (fun d s => guarded d [needOwnEv s d 24] (fun s =>
    endD d rDone (modEv (hSlot (dfld d 24 4)) (fun e => { e with
      scope := clampTo 0 2 (dfld d 28 1), node := dfld d 32 3, nodeMask := dfld d 36 3 }) s)) s) s)

/-- EVENT_SIGNAL -/
def execEventSignal (qp sub : Nat) (s : State) : Host.Outcome State Fault Refusal :=
  .next (onStarted 0x40 qp sub (fun d s => guarded d [needH s d Hk.ev 24] (fun s =>
    endD d rDone (updateEvent (hSlot (dfld d 24 4)) (.sig (dfld d 32 8) false) s)) s) s)

/-- EVENT_ADD -/
def execEventAdd (qp sub : Nat) (s : State) : Host.Outcome State Fault Refusal :=
  .next (onStarted 0x41 qp sub (fun d s => guarded d [needH s d Hk.ev 24] (fun s =>
    endD d rDone (updateEvent (hSlot (dfld d 24 4)) (.add (dfld d 28 4)) s)) s) s)

/-- EVENT_RESET -/
def execEventReset (qp sub : Nat) (s : State) : Host.Outcome State Fault Refusal :=
  .next (onStarted 0x42 qp sub (fun d s => guarded d [needH s d Hk.ev 24] (fun s =>
    endD d rDone (updateEvent (hSlot (dfld d 24 4)) .rst s)) s) s)

/-- EVENT_WAIT (R105): at once where the event is SIGNALLED, else it waits; `note` keeps the event. -/
def execEventWait (qp sub : Nat) (s : State) : Host.Outcome State Fault Refusal :=
  .next (onStarted 0x43 qp sub (fun d s => guarded d [needH s d Hk.ev 24] (fun s =>
    let h := dfld d 24 4
    match tget s.evs (hSlot h) with
    | some e =>
      if e.signalled then endD d (evResult (if e.error then St.aborted else St.done) h e) s
      else runDesc d.qp d.sub (hSlot h) s
    | none => endD d (refuse St.refusedHandle 24) s) s) s)

/-- TIMEOUT_US of an EVENT_WAIT, clamped (R10); 0 is none. -/
def waitTimeout (d : Desc) : Nat := clampZeroOr 1 10000000 (dfld d 28 4)

/-- EVENT_WAIT_TIMEOUT (R105) -/
def execEventWaitTimeout (qp sub : Nat) (s : State) : Host.Outcome State Fault Refusal :=
  .next (onRunning 0x43 qp sub (fun d s =>
    if waitTimeout d = 0 then s
    else
      let h := dfld d 24 4
      match tget s.evs (hSlot h) with
      | some e => endD d (evResult St.timeout h e) s
      | none => endD d (resOf St.timeout) s) s)

/-- EVENT_QUERY -/
def execEventQuery (qp sub : Nat) (s : State) : Host.Outcome State Fault Refusal :=
  .next (onStarted 0x44 qp sub (fun d s => guarded d [needH s d Hk.ev 24] (fun s =>
    let h := dfld d 24 4
    match tget s.evs (hSlot h) with
    | some e => endD d (evResult St.done h e) s
    | none => endD d (refuse St.refusedHandle 24) s) s) s)

/-- The rule that admits a node to the session: the first in table order (R437). -/
def sessionRule (s : State) (node : Nat) : Option NodeRule :=
  match s.sec.config with
  | some c => c.rules.find? fun (r : NodeRule) => Nat.land (Nat.xor node r.node) r.mask = 0
  | none => none

/-- Is a node a node of the session (R437)? -/
def sessionNode (s : State) (node : Nat) : Bool := (sessionRule s node).isSome

/-- EVENT_REMOTE (R107): the request leaves on VC-Q; in confidential mode only toward a node of the session. -/
def execEventRemote (qp sub : Nat) (s : State) : Host.Outcome State Fault Refusal :=
  .next (onStarted 0x45 qp sub (fun d s =>
    let node := dfld d 24 3
    let op := clampTo 0 1 (dfld d 27 1)
    let v := if op = 1 then dfld d 32 4 else dfld d 32 8
    if confidential s && !sessionNode s node then uniformRefuse d 4 s
    else
      let s := runDesc d.qp d.sub node s
      let s := modCmd (fun c => { c with remotes := c.remotes ++ [{ qp := d.qp, sub := d.sub, node := node }] }) s
      sendTo node (.eventReq op (dfld d 28 4) v d.qp d.sub) s) s)

/-- Does the export filter of an event accept a sender (R106)? -/
def filterOk (e : Event) (node : Nat) : Bool :=
  decide (e.scope = 2) && !e.aborting && decide (Nat.land node e.nodeMask = Nat.land e.node e.nodeMask)

/-- EVENT_REQ (R107): a remote update arrives and is applied or refused; the reply goes back on VC-S. -/
def execEventReq (node op handle value txn : Nat) (s : State) : Host.Outcome State Fault Refusal :=
  .next (
    let reply := fun st s => sendTo node (.eventRsp txn st) s
    if confidential s && !sessionNode s node then reply St.notPermitted s
    else if hKind handle = Hk.ev then
      match tget s.evs (hSlot handle) with
      | some e =>
        if filterOk e node then
          reply St.done (updateEvent (hSlot handle) (if op = 0 then .sig (value % 2 ^ 64) false else .add (value % 2 ^ 32)) s)
        else reply St.refusedHandle s
      | none => reply St.refusedHandle s
    else reply St.refusedHandle s)

/-- Take a remote update off the list of those that wait for a reply. -/
def dropRemote (qp sub : Nat) (s : State) : State :=
  modCmd (fun c => { c with remotes := c.remotes.filter fun (r : RemoteWait) => !(r.qp = qp && r.sub = sub) }) s

/-- EVENT_RSP (R107): DONE, REFUSED_HANDLE or NOT_PERMITTED. -/
def execEventRsp (qp sub status : Nat) (s : State) : Host.Outcome State Fault Refusal :=
  .next (onRunning 0x45 qp sub (fun d s =>
    if status = St.done || status = St.refusedHandle || status = St.notPermitted then
      endD d (resOf status) (dropRemote qp sub s)
    else s) s)

/-- EVENT_REMOTE_TIMEOUT (R107) -/
def execEventRemoteTimeout (qp sub : Nat) (s : State) : Host.Outcome State Fault Refusal :=
  .next (onRunning 0x45 qp sub (fun d s => endD d (resOf St.timeout) (dropRemote qp sub s)) s)

/-! ## Task graphs: loading (R121, R122) -/

/-- LOAD_TASK_GRAPH: the checks of Table 05-6, then storage from the function's share; the graph enters LOADING. -/
def execLoadTaskGraph (qp sub : Nat) (badSig : List Nat) (s : State) : Host.Outcome State Fault Refusal :=
  .next (onStarted 0x20 qp sub (fun d s =>
    let src := dfld d 24 4
    let off := dfld d 32 8
    let len := clampTo 64 (2 ^ 30) (dfld d 40 8)
    guarded d [needH s d Hk.mem 24, needRange s src off len 32] (fun s =>
      let s := touch (hSlot src) off len false s
      if poisonedIn s (hSlot src) off len then endD d (resOf St.poisoned) s
      else
        let b := readMem s (.desc qp sub) (hSlot src) off len
        match gChecks b (confidential s) badSig with
        | some (n, o) =>
          if confidential s && decide (n = 8) then uniformRefuse d 1 s
          else endD d { refuse St.refusedState 24 with value := o, flags := n } s
        | none =>
          guarded d [quotaFail s d.fn Hk.graph, chk (roundUp len 4096 ≤ shareLeft s d.fn) St.refusedState 40] (fun s =>
            match slotChoose s.cmd.graphSlots (kindSlots Hk.graph) with
            | none => endD d (resOf St.retryLater) s
            | some g =>
              let s := modCmd (fun k => { k with graphSlots := slotTake k.graphSlots (kindSlots Hk.graph) }) s
              let s := modTsk (fun t => { t with graphs := tput t.graphs g (graphOf (hSlot (dCtx d)) b) }) s
              runDesc d.qp d.sub g s) s) s) s)

/-- Extend a chain by a digest (R451). -/
def chainExtend (chain : Nat) (digest : BitVec 384) : Nat :=
  (Config.sha384 (leBytes 48 chain ++ leBytes 48 digest.toNat)).toNat

/-- Extend WEIGHT_CHAIN (R451). -/
def weightChain (digest : BitVec 384) (s : State) : State :=
  modSec (fun k => { k with weightChain := chainExtend k.weightChain digest, nWeights := k.nWeights + 1 }) s

/-- Change a task graph. -/
def modGraph (g : Nat) (f : Graph → Graph) (s : State) : State := modTsk (fun t => { t with graphs := tmod t.graphs g f }) s

/-- TASK_GRAPH_LOADED (R122): the graph leaves LOADING and GRAPH_CHAIN takes its digest (R451). -/
def execTaskGraphLoaded (graph : Nat) (s : State) : Host.Outcome State Fault Refusal :=
  .next (match tget s.tsk.graphs graph, (s.cmd.descs.find? fun (d : Desc) => decide (dOp d = 0x20) && decide (d.phase = .running) && decide (d.note = graph)) with
  | some g, some d =>
    if g.state = .loading then
      let s := modGraph graph (fun g => { g with state := .loaded }) s
      let s := modSec (fun k => { k with graphChain := chainExtend k.graphChain g.digest, nGraphs := k.nGraphs + 1 }) s
      endD d (rHandle (mkHandle Hk.graph graph)) s
    else s
  | _, _ => s)

/-- DESTROY_TASK_GRAPH (R113): its launches end with ABORTED. -/
def execDestroyTaskGraph (qp sub : Nat) (s : State) : Host.Outcome State Fault Refusal :=
  .next (onStarted 0x21 qp sub (fun d s => guarded d [needH s d Hk.graph 24] (fun s =>
    let h := dfld d 24 4
    let g := hSlot h
    let s := modGraph g (fun g => { g with state := .aborting }) s
    let s := stopLaunches ((s.tsk.launches.filter fun (x : Launch) => x.graph = g).map Launch.id) false s
    runDesc d.qp d.sub h (removeUsers d h s)) s) s)

/-! ## COPY and FILL (R102, R255) -/

/-- Write the bytes of a list that a choice names, one by one: the bytes past the prefix of an ended COPY or FILL hold
old or new contents, undefined per byte (R102). -/
def writeChosen (a : Accessor) (slot : Nat) (choice : Nat) : Nat → List Byte → Nat → State → State
  | _, [], _, s => s
  | off, b :: l, i, s =>
    writeChosen a slot choice (off + 1) l (i + 1) (if bitOf choice i then writeMem a slot off [b] s else s)

/-- Write the destination of a COPY or FILL: the prefix is written; past it each byte is old or new by a free value. -/
def writePartly (a : Accessor) (slot off : Nat) (bs : List Byte) (prefixLen : Nat) (s : State) : State :=
  let s := storeMem a slot off (bs.take prefixLen) s
  if prefixLen < bs.length then
    writeChosen a slot (freeNow s) (off + prefixLen) (bs.drop prefixLen) 0 (tookFree s)
  else s

/-- A destination range must lie in its object and be free of read-only pages (R101, R242). -/
def needWritable (s : State) (h off len field : Nat) : Option Result :=
  match tget s.mems (hSlot h) with
  | some m => chk (decide (off + len ≤ m.size) && writableRange m off len) St.refusedHandle field
  | none => some (refuse St.refusedHandle field)

/-- The bytes a failing host request leaves done. -/
def hostDone (n : Nat) (fail : Option Nat) : Nat :=
  match fail with
  | some k => min n k
  | none => n

/-- COPY (R102). -/
def execCopy (qp sub : Nat) (host : List Byte) (fail : Option Nat) (s : State) : Host.Outcome State Fault Refusal :=
  .next (onStarted 0x30 qp sub (fun d s =>
    let src := dfld d 24 4
    let dst := dfld d 28 4
    let so := dfld d 32 8
    let dO := dfld d 40 8
    let n := clampTo 1 (2 ^ 40) (dfld d 48 8)
    let me : Accessor := .desc qp sub
    guarded d [needH0 s d Hk.mem 24, needH0 s d Hk.mem 28, chk (src ≠ 0 || dst ≠ 0) St.refusedHandle 28,
        (if src = 0 then none else needRange s src so n 32), (if dst = 0 then none else needWritable s dst dO n 40)] (fun s =>
      let s := if src = 0 then s else touch (hSlot src) so n false s
      let bs := if src = 0 then padTo n 0 host else readMem s me (hSlot src) so n
      let rp := if src = 0 then hostDone n fail else cleanPrefix s (hSlot src) so n
      let wp := if dst = 0 then hostDone n fail else writePrefix s (hSlot dst) dO n
      let p := min rp wp
      let hostP := if src = 0 || dst = 0 then hostDone n fail else n
      let status := if p = n then St.done else if p = hostP && decide (hostP < n) then St.aborted else St.poisoned
      let s := if dst = 0 then emit (.hostWrite dO (bs.take p)) s else writePartly me (hSlot dst) dO bs p s
      endD d { resOf status with value := p } s) s) s)

/-- FILL (R102). -/
def execFill (qp sub : Nat) (s : State) : Host.Outcome State Fault Refusal :=
  .next (onStarted 0x31 qp sub (fun d s =>
    let dst := dfld d 24 4
    let dO := dfld d 32 8
    let n := clampTo 8 (2 ^ 40) (nearestMultiple 8 (dfld d 40 8))
    guarded d [needH s d Hk.mem 24, needWritable s dst dO n 32] (fun s =>
      let bs := (List.replicate (n / 8) (leBytes 8 (dfld d 48 8))).flatten
      let p := writePrefix s (hSlot dst) dO n
      let s := writePartly (.desc qp sub) (hSlot dst) dO bs p s
      endD d { resOf (if p = n then St.done else St.poisoned) with value := p } s) s) s)

/-! ## The end of a destruction (R113, R114) -/

/-- Descriptors that wait for the destruction of a handle. -/
def destroyers (s : State) (h : Nat) : List Desc :=
  s.cmd.descs.filter fun (d : Desc) =>
    decide (d.phase = .running) && decide (d.note = h)
      && [0x15, 0x19, 0x1D, 0x21, 0x64].contains (dOp d)

/-- A destroyed event can no longer take the signals of descriptors that named it. -/
def forgetSignal (h : Nat) (s : State) : State := mapDescs (fun d => if dSignal d = h then { d with sigOk := false } else d) s

/-- Give a slot of a kind back (R79). -/
def giveSlot (kind slot : Nat) (s : State) : State :=
  modCmd (fun c =>
    if kind = Hk.ctx then { c with ctxSlots := slotGive c.ctxSlots slot }
    else if kind = Hk.mem then { c with memSlots := slotGive c.memSlots slot }
    else if kind = Hk.ev then { c with evSlots := slotGive c.evSlots slot }
    else if kind = Hk.key then { c with keySlots := slotGive c.keySlots slot }
    else if kind = Hk.graph then { c with graphSlots := slotGive c.graphSlots slot }
    else c) s

/-- Granules of a size that go back dirty (R74, R115). -/
def dirtyGib (bytes : Nat) : Nat := (bytes + 2 ^ 30 - 1) / 2 ^ 30

/-- Free a memory object: its contents, poison, cached lines and backing go; its granules return dirty. -/
def freeMem (slot : Nat) (s : State) : State :=
  match tget s.mems slot with
  | none => s
  | some m =>
    let s := { s with
      mems := tdel s.mems slot
      mem := cellsDrop (memKey slot 0) (memKey (slot + 1) 0) s.mem
      poison := s.poison.filter fun (e : Nat × Poison) => e.1 / 2 ^ 34 ≠ slot }
    let s := modHbm (fun h => { h with cache := h.cache.filter fun (e : Nat × CacheLine) => e.1 / 2 ^ 32 ≠ slot }) s
    let s := modIme (fun i => { i with zeroing := i.zeroing.filter fun (e : Nat × Nat) => e.1 ≠ slot }) s
    let s := dropStreams (fun x => x.dest = slot) s
    let fn := ctxFn s m.ctx
    let s := modHif (fun h => { h with dirty := tupd h.dirty fn 0 fun n => n + dirtyGib m.size }) s
    giveSlot Hk.mem slot (dropSlotLines slot s)

/-- Free an event. -/
def freeEv (slot : Nat) (s : State) : State :=
  giveSlot Hk.ev slot (forgetSignal (mkHandle Hk.ev slot) { s with evs := tdel s.evs slot })

/-- Free a key slot: its material is overwritten, its entry of the contributor map is cleared (R443, R444). -/
def freeKey (slot : Nat) (s : State) : State :=
  giveSlot Hk.key slot (modSec (fun k => { k with
    keys := tdel k.keys slot, contribMap := k.contribMap.filter fun (e : Nat × Nat) => e.2 ≠ slot }) s)

/-- Free a task graph; the code epoch advances (R211). -/
def freeGraph (slot : Nat) (s : State) : State :=
  let s := modVcu (fun v => { v with epoch := v.epoch + 1 }) s
  giveSlot Hk.graph slot (modTsk (fun t => { t with graphs := tdel t.graphs slot }) s)

/-- Finish every descriptor of a queue pair that has ended, then take the queue pair away. -/
def freeQpSlot (q : Nat) (s : State) : State :=
  let s := (s.cmd.descs.filter fun (d : Desc) => d.qp = q).foldl (fun s d => completeDesc d s) s
  modCmd (fun c => { c with qps := tdel c.qps q, descs := c.descs.filter fun (d : Desc) => d.qp ≠ q }) s

/-- Free a context with everything it owns (R114). -/
def freeCtx (c : Nat) (s : State) : State :=
  let s := (s.cmd.qps.filter fun (e : Nat × QueuePair) => e.2.ctx = some c).foldl (fun s (e : Nat × QueuePair) => freeQpSlot e.1 s) s
  let s := (s.mems.filter fun (e : Nat × MemObj) => e.2.ctx = c).foldl (fun s (e : Nat × MemObj) => freeMem e.1 s) s
  let s := (s.evs.filter fun (e : Nat × Event) => e.2.ctx = c).foldl (fun s (e : Nat × Event) => freeEv e.1 s) s
  let s := (s.sec.keys.filter fun (e : Nat × KeySlot) => e.2.ctx = c).foldl (fun s (e : Nat × KeySlot) => freeKey e.1 s) s
  let s := (s.tsk.graphs.filter fun (e : Nat × Graph) => e.2.ctx = c).foldl (fun s (e : Nat × Graph) => freeGraph e.1 s) s
  let s := modTsk (fun t => { t with
    launches := t.launches.filter fun (x : Launch) => x.ctx ≠ c
    gens := t.gens.filter fun (g : Generation) => g.ctx ≠ c }) s
  let s := dropStreams (fun x => x.ctx = c) { s with runners := tdel s.runners c }
  let s := modIng (fun g => { g with closed := g.closed.filter fun (e : Nat × Stream) => e.2.ctx ≠ c }) s
  giveSlot Hk.ctx c { s with ctxs := tdel s.ctxs c }

/-- Is the object of a handle being destroyed? -/
def isAborting (s : State) (h : Nat) : Bool :=
  let k := hSlot h
  if hKind h = Hk.ctx then (tget s.ctxs k).any fun (x : Ctx) => x.state = .aborting
  else if hKind h = Hk.qp then (tget s.cmd.qps k).any fun (p : QueuePair) => p.state = .aborting
  else if hKind h = Hk.mem then (tget s.mems k).any fun (m : MemObj) => m.aborting
  else if hKind h = Hk.ev then (tget s.evs k).any fun (e : Event) => e.aborting
  else if hKind h = Hk.key then (tget s.sec.keys k).any fun (x : KeySlot) => x.aborting
  else if hKind h = Hk.graph then (tget s.tsk.graphs k).any fun (g : Graph) => g.state = .aborting
  else false

/-- Free the object of a handle. -/
def freeObject (h : Nat) (s : State) : State :=
  let k := hSlot h
  if hKind h = Hk.ctx then freeCtx k s
  else if hKind h = Hk.qp then freeQpSlot k s
  else if hKind h = Hk.mem then freeMem k s
  else if hKind h = Hk.ev then freeEv k s
  else if hKind h = Hk.key then freeKey k s
  else if hKind h = Hk.graph then freeGraph k s
  else s

/-- DESTRUCTION_COMPLETE (R113): resources are reclaimed, the slot is free, the destroy descriptors complete with
DONE. -/
def execDestructionComplete (handle : Nat) (s : State) : Host.Outcome State Fault Refusal :=
  .next (if isAborting s handle then
    let ds := if hKind handle = Hk.ctx then
        (match tget s.ctxs (hSlot handle) with
         | some x => x.waiters.filterMap fun (w : Nat × Nat) => findDesc s w.1 w.2
         | none => [])
      else destroyers s handle
    let s := freeObject handle s
    ds.foldl (fun s d => endD d (rRecovered d) s) s
  else s)

end Sys2Proof.Machine
end

