-- ==== Sys2Proof/Machine/Cores.lean ====
section
/-!
DEFINITION. Sys2Proof/Machine/Cores.lean: which cores may take a task, and what a core does when a task comes to it
(R129, R131, and chapters 06 and 08).
-/
namespace Sys2Proof.Machine

/-- The core kind a task kind runs on (R118). -/
def kindCore (k : TaskKind) : Option CoreKind :=
  match k with
  | .vector => some .vector
  | .matrix => some .matrix
  | .service => some .service
  | .move => some .mover
  | .join => none

/-- Slots of a core of a kind (R129). -/
def coreSlots (k : CoreKind) : Nat :=
  match k with
  | .vector => 8
  | .matrix => 2
  | .mover => 4
  | .service => 1

/-- The cores of a kind in a cluster, or, for service cores, none: they belong to partitions. -/
def coresOfCluster (k : CoreKind) (c : Nat) : List Nat :=
  match k with
  | .vector => (List.range 160).map fun i => 160 * c + i
  | .matrix => [c]
  | .mover => [c]
  | .service => []

/-- The cores of a kind in a partition. -/
def coresOfPart (k : CoreKind) (p : Nat) : List Nat :=
  match k with
  | .service => (List.range 8).map fun i => 8 * p + i
  | _ => ((List.range 16).map fun i => coresOfCluster k (16 * p + i)).flatten

/-- The cluster state of the margin plan: 0 SERVICE, 1 COOLDOWN, 2 RETIRED, 3 OFFLINE. -/
def cluPlanState (s : State) (c : Nat) : Nat :=
  match tget s.owl.clu c with
  | some p => p.state
  | none => 0

end Sys2Proof.Machine
end

