-- ==== Sys2Proof/Machine/Access.lean ====
section
/-!
DEFINITION. Sys2Proof/Machine/Access.lean: how a task reaches memory: its arguments, the ranges of its tokens, what makes an
access a fault or a poison failure (R136, R210, R242, R255), its draws, and its end on a core without a data cache.
-/
namespace Sys2Proof.Machine

/-! ## Arguments and token ranges (R120, R136) -/

/-- The memory object a launch argument names. -/
def argMem (s : State) (x : Launch) (k : Nat) : Option Nat :=
  match x.args[k]? with
  | some h => if hKind h = Hk.mem ∧ thas s.mems (hSlot h) then some (hSlot h) else none
  | none => none

/-- The ranges of a list of tokens that name memory: object slot, offset, length. -/
def tokRanges (x : Launch) (g : Graph) (js : List Nat) : List (Nat × Nat × Nat) :=
  js.filterMap fun j =>
    match g.tokens[j]? with
    | some k => if k.kind ≠ .event ∧ 0 < k.len then (x.args[k.arg]?).map fun h => (hSlot h, k.off, k.len) else none
    | none => none

/-- Ranges of the output DATA tokens of a task. -/
def outRanges (x : Launch) (g : Graph) (r : TaskRec) : List (Nat × Nat × Nat) := tokRanges x g r.outs

/-- Ranges of the input DATA and LAUNCH tokens of a task. -/
def inRanges (x : Launch) (g : Graph) (r : TaskRec) : List (Nat × Nat × Nat) := tokRanges x g r.ins

/-- How far a list of ranges covers an object from `off` on, without a hole. -/
def coverEnd (rs : List (Nat × Nat × Nat)) (slot : Nat) : Nat → Nat → Nat
  | 0, off => off
  | n + 1, off =>
    match rs.find? fun e => decide (e.1 = slot) && decide (e.2.1 ≤ off) && decide (off < e.2.1 + e.2.2) with
    | some e => coverEnd rs slot n (e.2.1 + e.2.2)
    | none => off

/-- Does a list of ranges cover a range? -/
def covered (rs : List (Nat × Nat × Nat)) (slot off n : Nat) : Bool :=
  decide (n = 0) || decide (off + n ≤ coverEnd rs slot rs.length off)

/-- May a task write a range: a provisional task only within its output DATA ranges (R136)? -/
def provMay (s : State) (l t slot off n : Nat) : Bool :=
  match genOf s (.task l t), findLaunch s l with
  | some _, some x =>
    match launchGraph s x, taskRec s x t with
    | some g, some r => covered (outRanges x g r) slot off n
    | _, _ => true
  | _, _ => true

/-- Is a task's write an execution fault: outside its object, read-only, or outside what a provisional task may write
(R210, R242)? -/
def writeFaults (s : State) (l t slot off n : Nat) : Bool :=
  match tget s.mems slot with
  | some m => decide (m.size < off + n) || !writableRange m off n || !provMay s l t slot off n
  | none => true

/-- Does a range meet an offline stack? -/
def lostIn (s : State) (slot off n : Nat) : Bool := (linesOf off n).any (lineLost s slot)

/-! ## Draws (R193) -/

/-- Draw `i` of a step's draws for a launch: stepped by its counter, free-running a free value. -/
def drawOf (s : State) (x : Launch) (ctr : BitVec 64) (i : Nat) : Nat :=
  if x.stepped then laneDraw x.key ctr else Config.freeValue (s.draws + i) % 65536

/-- Move on past the free values of `n` draws of a launch. -/
def tookDraws (x : Launch) (n : Nat) (s : State) : State := if x.stepped then s else { s with draws := s.draws + n }

/-! ## The end of a task (R124, R134) -/

/-- A task that uses no core data cache ends without failure: its outputs become present and its events are signalled. -/
def taskEnds (l t : Nat) (overrun : Bool) (s : State) : State :=
  match findLaunch s l with
  | none => s
  | some x =>
    match launchGraph s x, taskRec s x t with
    | some g, some r =>
      let s := modLaunch l (fun x => { x with tasks := tput x.tasks t .ended, nOk := x.nOk + 1
                                              nOver := if overrun then x.nOver + 1 else x.nOver }) s
      settle (outWork x g r false) (clearCores [(l, t)] s)
    | _, _ => s

end Sys2Proof.Machine
end

