-- ==== Sys2Proof/Machine/Matrix.lean ====
section
/-!
DEFINITION. Sys2Proof/Machine/Matrix.lean: the matrix engines (chapter 06): programs, operand chunks, blocks, the drain, and
the engines' ramps and errors. Numbers follow chapter 07 (Formats.lean).
-/
namespace Sys2Proof.Machine

/-! ## Operation records (R147 to R150) -/

/-- A field of a record. -/
def recNum (b : List Byte) (off n : Nat) : Nat := ofLe ((b.drop off).take n)

/-- The record a 128-byte string spells (Table 06-5). -/
def matOpOf (b : List Byte) : MatOp :=
  let w := recNum b 5 1
  { op := recNum b 0 1, fmtA := recNum b 1 1, fmtB := recNum b 2 1, fmtOut := recNum b 3 1, split := recNum b 4 1 % 4
    aT := bitOf w 0, bT := bitOf w 1, round := bitOf w 2, ovfInf := bitOf w 3, waitDrain := bitOf w 4
    batch := recNum b 6 2, m := recNum b 8 4, n := recNum b 12 4, k := recNum b 16 4
    lda := recNum b 24 4, ldb := recNum b 28 4, ldc := recNum b 32 4, aAddr := recNum b 40 8, bAddr := recNum b 48 8
    cAddr := recNum b 56 8, saAddr := recNum b 64 8, sbAddr := recNum b 72 8, scAddr := recNum b 80 8 }

/-- Record `i` of a program: none beyond 4,096 records or the end of the code section (R147). -/
def matRec (g : Graph) (r : TaskRec) (i : Nat) : Option MatOp :=
  if i < 4096 ∧ r.code + 128 * i + 128 ≤ g.code.length then some (matOpOf ((g.code.drop (r.code + 128 * i)).take 128))
  else none

/-- ROW_OFFSET of a task's IMM (R149). -/
def rowOffset (imm : Nat) : Nat := imm % 2 ^ 32

/-- COL_OFFSET of a task's IMM. -/
def colOffset (imm : Nat) : Nat := imm / 2 ^ 32 % 2 ^ 32

/-- A stored operand (R149): rows of elements per item, with the shift of rows and of elements within a row. -/
structure Stored where
  /-- Launch argument -/
  arg : Nat
  /-- Offset of item 0 -/
  off : Nat
  /-- Bytes between rows -/
  ld : Nat
  /-- Format code -/
  fmt : Nat
  /-- Rows per item -/
  rows : Nat
  /-- Elements per row -/
  elems : Nat
  /-- Rows skipped -/
  rowShift : Nat
  /-- Elements skipped in each row -/
  elemShift : Nat
  deriving DecidableEq, Repr

/-- A as it is stored. -/
def storedA (o : MatOp) (imm : Nat) : Stored :=
  { arg := o.aAddr / 2 ^ 52, off := o.aAddr % 2 ^ 52, ld := o.lda, fmt := o.fmtA
    rows := if o.aT then o.k else o.m, elems := if o.aT then o.m else o.k
    rowShift := if o.aT then 0 else rowOffset imm, elemShift := if o.aT then rowOffset imm else 0 }

/-- B as it is stored. -/
def storedB (o : MatOp) (imm : Nat) : Stored :=
  { arg := o.bAddr / 2 ^ 52, off := o.bAddr % 2 ^ 52, ld := o.ldb, fmt := o.fmtB
    rows := if o.bT then o.n else o.k, elems := if o.bT then o.k else o.n
    rowShift := if o.bT then colOffset imm else 0, elemShift := if o.bT then 0 else colOffset imm }

/-- C as it is stored. -/
def storedC (o : MatOp) (imm : Nat) : Stored :=
  { arg := o.cAddr / 2 ^ 52, off := o.cAddr % 2 ^ 52, ld := o.ldc, fmt := o.fmtOut, rows := o.m, elems := o.n
    rowShift := rowOffset imm, elemShift := colOffset imm }

/-- Offset of the first byte of stored row `r` of item `b`. -/
def rowAddr (d : Stored) (b r : Nat) : Nat := d.off + (b * d.rows + r + d.rowShift) * d.ld

/-- One byte past the last byte an operand takes. -/
def storedEnd (d : Stored) (batch : Nat) : Nat :=
  rowAddr d (batch - 1) (d.rows - 1) + rowBytes d.fmt (d.elems + d.elemShift)

/-- Do the rows of an operand start on 64-byte boundaries? -/
def rowsAligned (d : Stored) (batch : Nat) : Bool :=
  decide (rowAddr d 0 0 % 64 = 0) && (decide (batch * d.rows = 1) || decide (d.ld % 64 = 0))

/-- A scale array in use: argument, one byte past its last byte. -/
def scaleEnds (o : MatOp) (imm : Nat) : List (Nat × Nat) :=
  let arr := fun (addr rows shift width used : Nat) =>
    ((addr / 2 ^ 52, addr % 2 ^ 52 + (o.batch * rows - 1 + shift) * width + used) : Nat × Nat)
  (if isMx o.fmtA then [arr o.saAddr o.m (rowOffset imm) (o.k / 32) (o.k / 32)] else [])
    ++ (if isMx o.fmtB then [arr o.sbAddr o.n (colOffset imm) (o.k / 32) (o.k / 32)] else [])
    ++ (if o.fmtOut = 2 ∨ o.fmtOut = 3 then
          [arr o.scAddr o.m (rowOffset imm) (o.n / 32) ((colOffset imm + o.n) / 32)] else [])

/-- The elements that share bytes in a format: an offset must be a multiple of it (R150). -/
def packUnit (c : Nat) : Nat := if c = 6 then 2 else if c = 4 ∨ c = 5 then 4 else 1

/-- Does every range of an operation lie in its memory object? -/
def endsFit (s : State) (x : Launch) (ends : List (Nat × Nat)) : Bool :=
  ends.all fun e =>
    match argMem s x e.1 with
    | some m =>
      match tget s.mems m with
      | some o => decide (e.2 ≤ o.size)
      | none => false
    | none => false

/-- The checks of R150. -/
def recordOk (s : State) (x : Launch) (imm : Nat) (o : MatOp) : Bool :=
  let a := storedA o imm
  let b := storedB o imm
  let c := storedC o imm
  (decide (o.op = 1) || decide (o.op = 2)) && fmtInput o.fmtA && fmtInput o.fmtB && fmtOutput o.fmtOut
    && pairLegal o.fmtA o.fmtB && (decide (o.op = 1) || decide (o.fmtOut = 10))
    && decide (0 < o.m) && decide (0 < o.n) && decide (0 < o.k) && decide (0 < o.batch)
    && (!(isMx o.fmtA || isMx o.fmtB) || decide (o.k % 32 = 0))
    && (!(decide (o.fmtOut = 2) || decide (o.fmtOut = 3)) || (decide (o.n % 32 = 0) && decide (colOffset imm % 32 = 0)))
    && (!o.aT || decide (rowOffset imm % packUnit o.fmtA = 0)) && (o.bT || decide (colOffset imm % packUnit o.fmtB = 0))
    && rowsAligned a o.batch && rowsAligned b o.batch && rowsAligned c o.batch
    && endsFit s x ([(a.arg, storedEnd a o.batch), (b.arg, storedEnd b o.batch), (c.arg, storedEnd c o.batch)]
         ++ scaleEnds o imm)

/-! ## Slots and blocks (R154, R155) -/

/-- The task in a slot of an engine. -/
def matSlot (s : State) (c : Nat) (staged : Bool) : Option MatTask :=
  if staged then (engAt s c).staged else (engAt s c).run

/-- Change the task in a slot of an engine. -/
def modSlot (c : Nat) (staged : Bool) (f : MatTask → MatTask) (s : State) : State :=
  modEng c (fun e => if staged then { e with staged := e.staged.map f } else { e with run := e.run.map f }) s

/-- A MATRIX task as it takes a slot. -/
def matTaskNew (l t : Nat) : MatTask :=
  { launch := l, task := t, pc := 0, op := none, nextBlock := 0, subs := [], drains := [], atEnd := false, flags := 0 }

/-- May an engine of a cluster work: a cluster in service, not under reset? -/
def engUp (s : State) (c : Nat) : Bool := decide (c < 64) && !cluOut s c && !resetting s 0 c

/-- Blocks of an operation on an engine with a tile mask. -/
def blockCount (mask : Nat) (o : MatOp) : Nat :=
  let mb := (o.m + blockRows o.split - 1) / blockRows o.split
  let nb := (o.n + blockCols mask o.split - 1) / blockCols mask o.split
  o.batch * mb * nb

/-- Block `i` of an operation: by item, then N-block, then M-block. -/
def blockAt (mask : Nat) (o : MatOp) (i : Nat) (bank : Bool) : BlockRun :=
  let br := blockRows o.split
  let bc := blockCols mask o.split
  let mb := (o.m + br - 1) / br
  let nb := (o.n + bc - 1) / bc
  let row := i % mb * br
  let col := i / mb % nb * bc
  { item := i / (mb * nb), row := row, col := col, rows := min br (o.m - row), cols := min bc (o.n - col), bank := bank
    loaded := 0, chunks := [], acc := [] }

/-- Hand blocks to the free sub-arrays, lowest index first, until none is left of either. -/
def assignBlocks (mask : Nat) (o : MatOp) : List Nat → MatTask → MatTask
  | [], t => t
  | i :: is, t =>
    match tget t.subs i with
    | some a =>
      if a.run.isNone ∧ t.nextBlock < blockCount mask o then
        let a' : SubArray := { a with run := some (blockAt mask o t.nextBlock a.next), next := !a.next }
        assignBlocks mask o is { t with subs := tput t.subs i a', nextBlock := t.nextBlock + 1 }
      else assignBlocks mask o is t
    | none => assignBlocks mask o is t

/-- Has every block of the operation under way been computed? -/
def opComputed (mask : Nat) (t : MatTask) : Bool :=
  match t.op with
  | some o => decide (blockCount mask o ≤ t.nextBlock) && t.subs.all fun (e : Nat × SubArray) => e.2.run.isNone
  | none => true

/-- Start an operation: its sub-arrays come free, its first blocks are handed out. A sub-array keeps the order of its
banks while the split mode stays. -/
def startOp (mask : Nat) (o : MatOp) (t : MatTask) : MatTask :=
  let same := match t.op with
    | some p => decide (p.split = o.split)
    | none => false
  let sub := fun (i : Nat) =>
    let nx := match tget t.subs i with
      | some a => same && a.next
      | none => false
    (i, ({ run := none, keepA := none, keepB := none, next := nx } : SubArray))
  let is := subsInService mask o.split
  assignBlocks mask o is { t with op := some o, pc := t.pc + 1, nextBlock := 0, subs := is.map sub }

/-- MATRIX_OP_START: the next record is checked and its operation begins; END ends the program; a record that fails, or
lies beyond the limits, is an execution fault. -/
def execMatrixOpStart (c : Nat) (staged : Bool) (s : State) : Host.Outcome State Fault Refusal :=
  .next (
    match matSlot s c staged with
    | none => s
    | some t =>
      let mask := (engAt s c).mask
      if !engUp s c || t.atEnd || !opComputed mask t then s
      else
        match findLaunch s t.launch with
        | none => s
        | some x =>
          match launchGraph s x, taskRec s x t.task with
          | some g, some r =>
            (match matRec g r t.pc with
             | none => execFault t.launch t.task s
             | some o =>
               if o.op = 0x0F then modSlot c staged (fun t => { t with atEnd := true, op := none, pc := t.pc + 1, subs := [] }) s
               else if recordOk s x r.imm o then
                 (if o.waitDrain && !t.drains.isEmpty then s else modSlot c staged (startOp mask o) s)
               else execFault t.launch t.task s)
          | _, _ => s)

/-! ## Operand chunks (R152, R153) -/

/-- K-steps of a chunk of an operation. -/
def chunkDepth (o : MatOp) : Nat := min (bankDepth o.fmtA) (bankDepth o.fmtB)

/-- Element code `i` of a stored row's bytes, `from_` being the first byte's number. -/
def codeIn (fmt : Nat) (bs : List Byte) (from_ i : Nat) : Nat :=
  bitsOf (ofLe ((bs.drop (elemBit fmt i / 8 - from_)).take 4)) (elemBit fmt i % 8) (fmtBits fmt)

/-- The byte range of elements `lo … lo + n − 1` of a stored row. -/
def elemSpan (fmt lo n : Nat) : Nat × Nat :=
  let a := elemBit fmt lo / 8
  (a, (elemBit fmt (lo + n - 1) + fmtBits fmt + 7) / 8 - a)

/-- The ranges of an object that elements `e0 … e0 + ne − 1` of stored rows `r0 … r0 + nr − 1` of an item take. -/
def panelRanges (d : Stored) (item r0 nr e0 ne : Nat) : List (Nat × Nat) :=
  let sp := elemSpan d.fmt (e0 + d.elemShift) ne
  (List.range nr).map fun i => (rowAddr d item (r0 + i) + sp.1, sp.2)

/-- Element codes of such a part of an operand, row by row. -/
def readRows (s : State) (a : Accessor) (slot : Nat) (d : Stored) (item r0 nr e0 ne : Nat) : List (List Nat) :=
  let sp := elemSpan d.fmt (e0 + d.elemShift) ne
  (panelRanges d item r0 nr e0 ne).map fun p =>
    let bs := readMem s a slot p.1 p.2
    (List.range ne).map fun i => codeIn d.fmt bs sp.1 (e0 + d.elemShift + i)

/-- Rows to columns. -/
def transposed (n : Nat) (rows : List (List Nat)) : List (List Nat) :=
  (List.range n).map fun j => rows.map fun r => r.getD j 0

/-- The part of an operand a chunk needs: for `pos … pos + cnt − 1` of its M or N coordinate and K-steps `k0 … k0 + nk − 1`.
`kRows` says that K runs along the stored rows' index. -/
def chunkPart (kRows : Bool) (pos cnt k0 nk : Nat) : Nat × Nat × Nat × Nat :=
  if kRows then (k0, nk, pos, cnt) else (pos, cnt, k0, nk)

/-- The scale codes of rows `pos …` for the accumulation blocks of K-steps `k0 …`: none in memory reads 127. -/
def scaleSpan (addr rows width item pos i k0 : Nat) : Nat := addr % 2 ^ 52 + (item * rows + pos + i) * width + k0 / 32

/-- A panel: its element codes by M or N coordinate, padded with zeros to whole accumulation blocks, and its scales. -/
def readPanel (s : State) (a : Accessor) (x : Launch) (d : Stored) (kRows mx : Bool) (scAddr scRows shift k : Nat)
    (item pos cnt k0 nk : Nat) : Panel :=
  let slot := (argMem s x d.arg).getD 0
  let p := chunkPart kRows pos cnt k0 nk
  let rows := readRows s a slot d item p.1 p.2.1 p.2.2.1 p.2.2.2
  let els := if kRows then transposed cnt rows else rows
  let nb := (nk + 31) / 32
  let ss := (argMem s x (scAddr / 2 ^ 52)).getD 0
  let sc := (List.range cnt).map fun i =>
    if mx then (readMem s a ss (scaleSpan scAddr scRows (k / 32) item (pos + shift) i k0) nb).map BitVec.toNat
    else List.replicate nb 127
  { item := item, pos := pos, from_ := k0, elems := els.map (padTo (32 * nb) 0), scales := sc }

/-- The ranges a panel's load reads: object slot, offset, length. -/
def panelReads (s : State) (x : Launch) (d : Stored) (kRows mx : Bool) (scAddr scRows shift k : Nat)
    (item pos cnt k0 nk : Nat) : List (Nat × Nat × Nat) :=
  let slot := (argMem s x d.arg).getD 0
  let p := chunkPart kRows pos cnt k0 nk
  let ss := (argMem s x (scAddr / 2 ^ 52)).getD 0
  (panelRanges d item p.1 p.2.1 p.2.2.1 p.2.2.2).map (fun e => (slot, e))
    ++ (if mx then (List.range cnt).map fun i =>
          (ss, scaleSpan scAddr scRows (k / 32) item (pos + shift) i k0, (nk + 31) / 32)
        else [])

/-- The offset in its object of element (i, j) of item `b` of C. -/
def cAddr (o : MatOp) (imm b i j : Nat) : Nat :=
  rowAddr (storedC o imm) b i + (j + colOffset imm) * (fmtBits o.fmtOut / 8)

/-- The next chunk of a sub-array's block: what it reads, and the A and B panels. -/
structure NextChunk where
  /-- First K-step -/
  k0 : Nat
  /-- K-steps -/
  nk : Nat
  /-- A is kept from the block before. -/
  keepA : Bool
  /-- B is kept from the block before. -/
  keepB : Bool
  /-- Ranges read -/
  reads : List (Nat × Nat × Nat)
  deriving DecidableEq, Repr

/-- Is a kept panel the one a block needs? -/
def panelIs (p : Option Panel) (item pos : Nat) : Bool :=
  match p with
  | some q => decide (q.item = item) && decide (q.pos = pos)
  | none => false

/-- Work out the next chunk. -/
def nextChunk (s : State) (x : Launch) (imm : Nat) (o : MatOp) (a : SubArray) (b : BlockRun) : NextChunk :=
  let d := chunkDepth o
  let nk := min d (o.k - b.loaded)
  let one := decide (o.k ≤ d)
  let ka := one && panelIs a.keepA b.item b.row
  let kb := one && panelIs a.keepB b.item b.col
  let cslot := (argMem s x (o.cAddr / 2 ^ 52)).getD 0
  { k0 := b.loaded, nk := nk, keepA := ka, keepB := kb
    reads := (if ka then [] else panelReads s x (storedA o imm) o.aT (isMx o.fmtA) o.saAddr o.m (rowOffset imm) o.k
                b.item b.row b.rows b.loaded nk)
      ++ (if kb then [] else panelReads s x (storedB o imm) (!o.bT) (isMx o.fmtB) o.sbAddr o.n (colOffset imm) o.k
                b.item b.col b.cols b.loaded nk)
      ++ (if o.op = 2 ∧ b.loaded = 0 then
            (List.range b.rows).map fun i => (cslot, cAddr o imm b.item (b.row + i) b.col, 4 * b.cols)
          else []) }

/-- The accumulators a block starts from (R184). -/
def accInit (s : State) (a : Accessor) (x : Launch) (imm : Nat) (o : MatOp) (b : BlockRun) : List Nat :=
  if o.op = 2 then
    let slot := (argMem s x (o.cAddr / 2 ^ 52)).getD 0
    ((List.range b.rows).map fun i =>
      let bs := readMem s a slot (cAddr o imm b.item (b.row + i) b.col) (4 * b.cols)
      (List.range b.cols).map fun j => ofLe ((bs.drop (4 * j)).take 4)).flatten
  else List.replicate (b.rows * b.cols) 0

/-- Add the accumulation blocks of a chunk to one cell. -/
def cellChunk (fa fb : Nat) (ea eb sa sb : List Nat) (acc : Nat) : Nat × Nat :=
  (List.range sa.length).foldl (fun r kb =>
    let v := accAdd r.1 (blockResult fa fb ((ea.drop (32 * kb)).take 32) ((eb.drop (32 * kb)).take 32) (sa.getD kb 127)
      (sb.getD kb 127))
    (v.1, flagsOr r.2 v.2)) (acc, 0)

/-- Compute the oldest chunk a block holds, with the flags raised. -/
def computeChunk (o : MatOp) (b : BlockRun) : BlockRun × Nat :=
  match b.chunks with
  | [] => (b, 0)
  | (pa, pb) :: rest =>
    let cells := (List.range (b.rows * b.cols)).map fun i =>
      let r := i / b.cols
      let j := i % b.cols
      cellChunk o.fmtA o.fmtB (pa.elems.getD r []) (pb.elems.getD j []) (pa.scales.getD r []) (pb.scales.getD j [])
        (b.acc.getD i 0)
    ({ b with chunks := rest, acc := cells.map Prod.fst }, cells.foldl (fun f c => flagsOr f c.2) 0)

/-- Compute every chunk a block holds. -/
def computeAll (o : MatOp) : Nat → BlockRun → Nat → BlockRun × Nat
  | 0, b, f => (b, f)
  | n + 1, b, f => if b.chunks.isEmpty then (b, f) else computeAll o n (computeChunk o b).1 (flagsOr f (computeChunk o b).2)

/-- Does a bank not yet drained hold a block's accumulators up (R157)? -/
def bankHeld (t : MatTask) (o : MatOp) (i : Nat) (b : BlockRun) : Bool :=
  t.drains.any fun (d : Drain) => decide (d.block.bank = b.bank) && (decide (d.sub = i) || decide (d.op.split ≠ o.split))

/-- May wavefronts issue on an engine: ramped up, not held, not power-failing (R161)? -/
def mayIssue (s : State) (c : Nat) : Bool :=
  engUp s c && !unitsHeld s && (decide ((engAt s c).phase = .run) || decide ((engAt s c).phase = .gap))

/-- Count cycles on an engine. -/
def countCycles (c : Nat) (cy : Cycles) (s : State) : State :=
  modEng c (fun e => { e with validWf := (e.validWf + cy.valid) % 2 ^ 64, dummyWf := (e.dummyWf + cy.dummy) % 2 ^ 64
                              stall := (e.stall + cy.stall) % 2 ^ 64 }) s

/-- Valid wavefronts issue: a gap ends without a ramp, and a ramp-down not yet granted is taken back (R170). -/
def issue (c : Nat) (s : State) : State :=
  modEng c (fun e => if e.phase = .gap then { e with phase := .run, want := none } else e) s

/-- A sub-array of the task in a slot: the task, its launch, IMM, operation, the sub-array and its block. -/
def subRun (s : State) (c : Nat) (staged : Bool) (i : Nat) :
    Option (MatTask × Launch × Nat × MatOp × SubArray × BlockRun) :=
  match matSlot s c staged with
  | some t =>
    match findLaunch s t.launch, t.op, tget t.subs i with
    | some x, some o, some a =>
      match taskRec s x t.task, a.run with
      | some r, some b => some (t, x, r.imm, o, a, b)
      | _, _ => none
    | _, _, _ => none
  | none => none

/-- Do the ranges of a load meet poison? -/
def readsPoisoned (s : State) (rs : List (Nat × Nat × Nat)) : Bool := rs.any fun e => poisonedIn s e.1 e.2.1 e.2.2

/-- What the accesses of a load do to the stores. -/
def touchReads (rs : List (Nat × Nat × Nat)) (s : State) : State :=
  rs.foldl (fun s e => touch e.1 e.2.1 e.2.2 false s) s

/-- CHUNK_LOAD_COMPLETE: the next chunk of a sub-array's block is in a bank. Two chunks are held at most, one by a staged
task; the oldest is computed to make room, where wavefronts may issue. -/
def execChunkLoadComplete (c : Nat) (staged : Bool) (sub : Nat) (cy : Cycles) (s : State) : Host.Outcome State Fault Refusal :=
  .next (
    match subRun s c staged sub with
    | none => s
    | some (t, x, imm, o, a, b) =>
      let n := nextChunk s x imm o a b
      let full := decide (2 ≤ b.chunks.length)
      if !engUp s c || decide (o.k ≤ b.loaded) || readsPoisoned s n.reads || (staged && !b.chunks.isEmpty)
         || (full && (bankHeld t o sub b || !mayIssue s c)) then s
      else
        let acc := Accessor.task t.launch t.task
        let pa := if n.keepA then a.keepA.getD { item := 0, pos := 0, from_ := 0, elems := [], scales := [] }
          else readPanel s acc x (storedA o imm) o.aT (isMx o.fmtA) o.saAddr o.m (rowOffset imm) o.k b.item b.row b.rows n.k0 n.nk
        let pb := if n.keepB then a.keepB.getD { item := 0, pos := 0, from_ := 0, elems := [], scales := [] }
          else readPanel s acc x (storedB o imm) (!o.bT) (isMx o.fmtB) o.sbAddr o.n (colOffset imm) o.k b.item b.col b.cols n.k0 n.nk
        let b0 : BlockRun := if b.loaded = 0 then { b with acc := accInit s acc x imm o b } else b
        let done := if full then computeChunk o b0 else (b0, 0)
        let b1 : BlockRun := { done.1 with loaded := n.k0 + n.nk, chunks := done.1.chunks ++ [(pa, pb)] }
        let one := decide (o.k ≤ chunkDepth o)
        let a1 : SubArray := { a with run := some b1, keepA := if one then some pa else none
                                      keepB := if one then some pb else none }
        let s := modSlot c staged (fun t => { t with subs := tput t.subs sub a1, flags := flagsOr t.flags done.2 }) s
        countCycles c cy (touchReads n.reads (if full then issue c s else s)))

/-- MATRIX_POISONED_LOAD: the task whose next chunk meets a poisoned line is removed and fails by poison. -/
def execMatrixPoisonedLoad (c : Nat) (staged : Bool) (sub : Nat) (s : State) : Host.Outcome State Fault Refusal :=
  .next (
    match subRun s c staged sub with
    | none => s
    | some (t, x, imm, o, a, b) =>
      if engUp s c && readsPoisoned s (nextChunk s x imm o a b).reads then failTask t.launch t.task true s else s)

/-! ## The drain (R156, R157, R185 to R188) -/

/-- BLOCK_BANK_COMPLETE: the last chunks of a block are computed, its bank is complete and waits for the drain, and the
next block goes to the sub-array. -/
def execBlockBankComplete (c sub : Nat) (cy : Cycles) (s : State) : Host.Outcome State Fault Refusal :=
  .next (
    match subRun s c false sub with
    | none => s
    | some (t, _, _, o, a, b) =>
      if !mayIssue s c || decide (b.loaded < o.k) || bankHeld t o sub b then s
      else
        let r := computeAll o b.chunks.length b 0
        let d : Drain := { sub := sub, block := r.1, op := o, idx := t.pc - 1 }
        let mask := (engAt s c).mask
        let s := modSlot c false (fun t =>
          assignBlocks mask o [sub] { t with subs := tput t.subs sub { a with run := none }, drains := t.drains ++ [d]
                                             flags := flagsOr t.flags r.2 }) s
        countCycles c cy (issue c s))

/-- The draws of row `i` of a block's drain: none where the output takes none. -/
def rowDraws (s : State) (x : Launch) (t : Nat) (d : Drain) (i : Nat) : List (Option Nat) :=
  (List.range d.block.cols).map fun j =>
    if d.op.round ∧ d.op.fmtOut ≠ 10 then
      some (drawOf s x (drainCtr t d.idx d.block.item d.op.m d.op.n (d.block.row + i) (d.block.col + j))
        (i * d.block.cols + j))
    else none

/-- A row of a block converted to FMT_OUT: scale codes, element codes and flags. -/
def rowOut (o : MatOp) (draws : List (Option Nat)) (accs : List Nat) : List Nat × List Nat × Nat :=
  if o.fmtOut = 2 ∨ o.fmtOut = 3 then
    let blocks := (List.range (accs.length / 32)).map fun k =>
      mxBlock o.fmtOut ((draws.drop (32 * k)).take 32) (((accs.drop (32 * k)).take 32).map ofFp32)
    (blocks.map Prod.fst, (blocks.map Prod.snd).flatten, 0)
  else
    let es := List.zipWith (fun d a => outElem o.fmtOut o.ovfInf d a) draws accs
    ([], es.map Prod.fst, es.foldl (fun f e => flagsOr f e.2) 0)

/-- One write of a drain: object slot, offset and bytes. -/
abbrev DrainWrite := Nat × Nat × List Byte

/-- What row `i` of a drained block writes, with its flags. -/
def rowWrites (s : State) (x : Launch) (t imm : Nat) (d : Drain) (i : Nat) : List DrainWrite × Nat :=
  let o := d.op
  let b := d.block
  let accs := (b.acc.drop (i * b.cols)).take b.cols
  let r := rowOut o (rowDraws s x t d i) accs
  let cs := (argMem s x (o.cAddr / 2 ^ 52)).getD 0
  let w : DrainWrite := (cs, cAddr o imm b.item (b.row + i) b.col, (r.2.1.map fun v => leBytes (fmtBits o.fmtOut / 8) v).flatten)
  let ss := (argMem s x (o.scAddr / 2 ^ 52)).getD 0
  let so := o.scAddr % 2 ^ 52 + (b.item * o.m + b.row + i + rowOffset imm) * (o.n / 32) + (b.col + colOffset imm) / 32
  if r.1.isEmpty then ([w], r.2.2) else ([w, (ss, so, r.1.map (BitVec.ofNat 8))], r.2.2)

/-- What a drained block writes, with its flags. -/
def drainWrites (s : State) (x : Launch) (t imm : Nat) (d : Drain) : List DrainWrite × Nat :=
  let rs := (List.range d.block.rows).map (rowWrites s x t imm d)
  ((rs.map Prod.fst).flatten, rs.foldl (fun f r => flagsOr f r.2) 0)

/-- BANK_FREE: the drain of the first complete bank ends. A write that a task may not make is an execution fault, one to an
offline stack a poison failure (R210, R481). -/
def execBankFree (c : Nat) (cy : Cycles) (s : State) : Host.Outcome State Fault Refusal :=
  .next (
    match matSlot s c false with
    | none => s
    | some t =>
      match t.drains, findLaunch s t.launch with
      | d :: rest, some x =>
        (match taskRec s x t.task with
         | none => s
         | some r =>
           if !engUp s c || s.mod.failStopped then s
           else
             let w := drainWrites s x t.task r.imm d
             if w.1.any fun e => writeFaults s t.launch t.task e.1 e.2.1 e.2.2.length then execFault t.launch t.task s
             else if w.1.any fun e => lostIn s e.1 e.2.1 e.2.2.length then failTask t.launch t.task true s
             else
               let n := if d.op.round ∧ d.op.fmtOut ≠ 10 then d.block.rows * d.block.cols else 0
               let s := tookDraws x n s
               let s := w.1.foldl (fun s e => storeMem (.task t.launch t.task) e.1 e.2.1 e.2.2 s) s
               countCycles c cy (modSlot c false (fun t => { t with drains := rest, flags := flagsOr t.flags w.2 }) s))
      | _, _ => s)

/-- MATRIX_TASK_END: END is reached and every block has drained; the staged task moves up (R151, R154). -/
def execMatrixTaskEnd (c : Nat) (overrun : Bool) (s : State) : Host.Outcome State Fault Refusal :=
  .next (
    match matSlot s c false with
    | none => s
    | some t => if engUp s c && t.atEnd && t.drains.isEmpty then taskEnds t.launch t.task overrun s else s)

/-! ## Errors (R164) -/

/-- MATRIX_UNCORRECTABLE_ERROR: both tasks fail and the engine enters an engine reset. -/
def execMatrixUncorrectableError (c : Nat) (s : State) : Host.Outcome State Fault Refusal :=
  .next (
    if decide (c < 64) && !cluOut s c then
      unitFault (unitOf 0 c) Cls.engineHw false 0 (modEng c (fun e => { e with uncorrected := satAdd 255 e.uncorrected 1 }) s)
    else s)

/-- CORRECTED_ERROR: counted, with no other effect. -/
def execCorrectedError (site : ErrSite) (s : State) : Host.Outcome State Fault Refusal :=
  .next (
    match site with
    | .matrix c =>
      if decide (c < 64) && !cluOut s c then modEng c (fun e => { e with corrected := satAdd 65535 e.corrected 1 }) s else s
    | .vector c =>
      if decide (c < 64) && !cluOut s c then modVclu c (fun e => { e with corrected := satAdd 65535 e.corrected 1 }) s else s
    | .store c =>
      if decide (c < 64) && !cluOut s c then modClu c (fun e => { e with corrected := satAdd 65535 e.corrected 1 }) s else s)

/-! ## Gaps and ramps (R168 to R171) -/

/-- Is a valid wavefront of the running task ready? -/
def wavefrontReady (e : Engine) : Bool :=
  match e.run with
  | some t =>
    match t.op with
    | some o => t.subs.any fun (p : Nat × SubArray) =>
        match p.2.run with
        | some b => !b.chunks.isEmpty && !bankHeld t o p.1 b
        | none => false
    | none => false
  | none => false

/-- GAP_BEGIN -/
def execGapBegin (c : Nat) (s : State) : Host.Outcome State Fault Refusal :=
  .next (
    if engUp s c && !unitsHeld s && decide ((engAt s c).phase = .run) && !wavefrontReady (engAt s c) then
      modEng c (fun e => { e with phase := .gap }) s
    else s)

/-- GAP_WINDOW_EXPIRE: the engine asks for a ramp-down, unless work is ready. -/
def execGapWindowExpire (c dummy : Nat) (s : State) : Host.Outcome State Fault Refusal :=
  .next (
    if engUp s c && !unitsHeld s && decide ((engAt s c).phase = .gap) && !wavefrontReady (engAt s c) then
      modEng c (fun e => { e with want := some false, dummyWf := (e.dummyWf + dummy) % 2 ^ 64 }) s
    else s)

/-- Grant a ramp. -/
def grantRamp (e : Engine) : Engine :=
  match e.want with
  | some true => { e with phase := .rampUp, want := none }
  | some false => { e with phase := .rampDown, want := none }
  | none => e

/-- RAMP_WINDOW_GRANT: up to RAMP_STARTS engines of the partition that ask for a ramp get it, in index order. -/
def execRampWindowGrant (p : Nat) (s : State) : Host.Outcome State Fault Refusal :=
  .next (
    if p < 4 && !unitsHeld s then
      let cs := (List.range 16).map fun i => 16 * p + i
      let asks := (cs.filter fun c => engUp s c && (engAt s c).want.isSome).take s.mxe.rampStarts
      asks.foldl (fun s c => modEng c grantRamp s) s
    else s)

/-- RAMP_UP_COMPLETE: all 8 groups are online; 64 cycles of dummy wavefronts have run. -/
def execRampUpComplete (c : Nat) (s : State) : Host.Outcome State Fault Refusal :=
  .next (
    if engUp s c && decide ((engAt s c).phase = .rampUp) then
      modEng c (fun e => { e with phase := .run, groups := 0xFF, dummyWf := (e.dummyWf + 64) % 2 ^ 64 }) s
    else s)

/-- RAMP_DOWN_COMPLETE: group 0 goes offline 56 cycles after group 7; a ramp-down that work has stopped does not end. -/
def execRampDownComplete (c : Nat) (s : State) : Host.Outcome State Fault Refusal :=
  .next (
    if engUp s c && decide ((engAt s c).phase = .rampDown) && (engAt s c).want.isNone then
      modEng c (fun e => { e with phase := .idle, groups := 0, dummyWf := (e.dummyWf + 56) % 2 ^ 64 }) s
    else s)

end Sys2Proof.Machine
end

