-- ==== Sys2Proof/Machine/Lanes.lean ====
section
/-!
DEFINITION. Sys2Proof/Machine/Lanes.lean: integer, FP32, special-function, reduction and cast arithmetic of the vector lanes
and the scalar pipe (R204 to R207), as functions of their operands. `none` is a value the manual leaves open.
-/
namespace Sys2Proof.Machine

/-! ## Integers -/

/-- An integer operation on `w`-bit words: it wraps; a division by 0 gives all ones. A shift by the width or more and a
remainder by 0 are left open. -/
def intOp (w : Nat) (op : IntOp) (a b : Nat) : Option Nat :=
  let sa := signedOf a w
  let sb := signedOf b w
  match op with
  | .add => some ((a + b) % 2 ^ w)
  | .sub => some ((a + 2 ^ w - b) % 2 ^ w)
  | .and_ => some (Nat.land a b)
  | .or_ => some (Nat.lor a b)
  | .xor_ => some (Nat.xor a b)
  | .shl => if b < w then some (a * 2 ^ b % 2 ^ w) else none
  | .shr => if b < w then some (a / 2 ^ b) else none
  | .sar => if b < w then some (twos (sa / 2 ^ b) w) else none
  | .mul => some (a * b % 2 ^ w)
  | .divS => if b = 0 then some (2 ^ w - 1) else some (twos (Int.tdiv sa sb) w)
  | .divU => if b = 0 then some (2 ^ w - 1) else some (a / b)
  | .remS => if b = 0 then none else some (twos (Int.tmod sa sb) w)
  | .remU => if b = 0 then none else some (a % b)

/-- A comparison of `w`-bit words. -/
def condHolds (w : Nat) (c : Cond) (a b : Nat) : Bool :=
  match c with
  | .eq => decide (a = b)
  | .ne => decide (a ≠ b)
  | .ltS => decide (signedOf a w < signedOf b w)
  | .geS => decide (signedOf b w ≤ signedOf a w)
  | .ltU => decide (a < b)
  | .geU => decide (b ≤ a)

/-- A read-modify-write on `w`-bit words (R213): the new value. -/
def atomNew (w : Nat) (op : AtomOp) (old v : Nat) : Nat :=
  match op with
  | .add => (old + v) % 2 ^ w
  | .minS => if signedOf old w ≤ signedOf v w then old else v
  | .maxS => if signedOf old w < signedOf v w then v else old
  | .minU => min old v
  | .maxU => max old v
  | .and_ => Nat.land old v
  | .or_ => Nat.lor old v
  | .xor_ => Nat.xor old v
  | .swap => v
  | .cas cmp => if old = cmp % 2 ^ w then v else old

/-! ## FP32 lanes -/

/-- An FP32 operation (R204). -/
def fpOp (op : FpOp) (a b c : Nat) : Nat × Nat :=
  match op with
  | .add => fp32Add a b
  | .sub => fp32Sub a b
  | .mul => fp32Mul a b
  | .fma => fp32Fma a b c
  | .min => (fp32Min a b, 0)
  | .max => (fp32Max a b, 0)
  | .div => fp32Div a b
  | .sqrt => fp32Sqrt a

/-- An FP32 comparison; a comparison with NaN holds for `ne` alone. -/
def fpCond (c : Cond) (a b : Nat) : Bool :=
  let x := ofFp32 a
  let y := ofFp32 b
  let n := fIsNan x || fIsNan y
  match c with
  | .eq => !n && fEq x y
  | .ne => n || !fEq x y
  | .ltS => !n && fLt x y
  | .geS => !n && !fLt x y
  | .ltU => !n && fLt x y
  | .geU => !n && !fLt x y

/-- FP32 code of +∞, −∞, NaN, 1. -/
def fpInf : Nat := fInfCode fmtFp32
/-- −∞ -/
def fpNegInf : Nat := fInfCode fmtFp32 + 2 ^ 31
/-- NaN -/
def fpNan : Nat := fNanCode fmtFp32
/-- 1 -/
def fpOne : Nat := 0x3F800000

/-- Number of a special function, as Config.specialFn takes it. -/
def specIndex (f : SpecFn) : Nat :=
  match f with
  | .exp2 => 0
  | .log2 => 1
  | .rcp => 2
  | .rsqrt => 3
  | .tanh => 4

/-- A special function's result where Table 08-4 does not state it: a fixed function of the input bits; a finite input
whose result is infinite sets OVERFLOW (R204). -/
def specOpen (f : SpecFn) (a : Nat) : Nat × Nat :=
  let r := Config.specialFn (specIndex f) a % 2 ^ 32
  let r := if fIsNan (ofFp32 r) then fpNan else r
  let fin := decide (a / 2 ^ 23 % 256 ≠ 255)
  (r, flagIf (fin && (decide (r = fpInf) || decide (r = fpNegInf))) Fl.overflow)

/-- A special function (R205, Table 08-4). -/
def specFn (f : SpecFn) (a : Nat) : Nat × Nat :=
  let v := ofFp32 a
  if fIsNan v then (fpNan, 0)
  else
    let zero := decide (a % 2 ^ 31 = 0)
    let neg := bitOf a 31
    match f with
    | .exp2 => if a = fpNegInf then (0, 0) else if a = fpInf then (fpInf, 0) else specOpen f a
    | .log2 => if zero then (fpNegInf, 0) else if neg then (fpNan, Fl.invalid) else specOpen f a
    | .rcp => if zero then (fpInf + (if neg then 2 ^ 31 else 0), 0) else specOpen f a
    | .rsqrt => if a = 0 then (fpInf, 0) else if neg && !zero then (fpNan, Fl.invalid) else specOpen f a
    | .tanh => if a = fpInf then (fpOne, 0) else if a = fpNegInf then (fpOne + 2 ^ 31, 0) else specOpen f a

/-! ## Reductions (R206) -/

/-- One level of the tree: lane l takes lanes l and l + s. -/
def redLevel (f : Nat → Nat → Nat × Nat) (s : Nat) (w : List Nat) (fl : Nat) : List Nat × Nat :=
  let r := (List.range s).map fun l => f (w.getD l 0) (w.getD (l + s) 0)
  (r.map Prod.fst, r.foldl (fun x y => flagsOr x y.2) fl)

/-- The fixed tree over 32 lanes. -/
def redTree (f : Nat → Nat → Nat × Nat) (w : List Nat) : Nat × Nat :=
  let a := redLevel f 16 w 0
  let a := redLevel f 8 a.1 a.2
  let a := redLevel f 4 a.1 a.2
  let a := redLevel f 2 a.1 a.2
  let a := redLevel f 1 a.1 a.2
  (a.1.getD 0 0, a.2)

/-- A cross-lane reduction of the lanes with their activity; a maximum or minimum of no lane is left open. -/
def reduceLanes (op : RedOp) (w : List (Bool × Nat)) : Option Nat × Nat :=
  let fill := fun (d : Nat) => w.map fun e => if e.1 then e.2 else d
  match op with
  | .sum =>
    let r := redTree fp32Add (fill (2 ^ 31))
    (some r.1, r.2)
  | .max => if w.any Prod.fst then (some (redTree (fun a b => (fp32Max a b, 0)) (fill fpNegInf)).1, 0) else (none, 0)
  | .min => if w.any Prod.fst then (some (redTree (fun a b => (fp32Min a b, 0)) (fill fpInf)).1, 0) else (none, 0)

/-! ## Casts (R189, R207) -/

/-- Is a format code one a cast names (Table 07-1)? -/
def castCode (c : Nat) : Bool := decide (c ≤ 10)

/-- A lane's value widened to FP32 from a format, with the scale of its MX block. -/
def widen (src scale a : Nat) : Nat × Nat :=
  if src = 10 then (if fIsNan (ofFp32 a) then fpNan else a % 2 ^ 32, 0)
  else if isMx src && decide (scale = 0xFF) then (fpNan, 0)
  else
    let v := elemVal src (a % 2 ^ fmtBits src)
    toFp32 (if isMx src then fScale v (scaleExp scale) else v)

/-- FP32 to a signed 32-bit integer, to nearest even; a value out of range is left open. -/
def fpToInt (a : Nat) : Option Nat :=
  match ofFp32 a with
  | .fin n m e =>
    let v := sgn n (rneUnits m e)
    if -(2 ^ 31 : Int) ≤ v ∧ v < 2 ^ 31 then some (twos v 32) else none
  | _ => none

/-- A signed 32-bit integer to FP32. -/
def intToFp (a : Nat) : Nat × Nat :=
  let v := signedOf a 32
  toFp32 (.fin (decide (v < 0)) v.natAbs 0)

/-- Does a format-to-format cast draw (R194)? -/
def castDraws (op : CastOp) : Bool :=
  match op with
  | .fmt _ dst st _ => st && decide (dst ≠ 10)
  | _ => false

/-- Is a target of a cast an MX format, which takes the block of 32 lanes? -/
def castMx (op : CastOp) : Bool :=
  match op with
  | .fmt _ dst _ _ => isMx dst
  | _ => false

/-- A cast of one lane: the value, none where it is left open, and its flags. -/
def castLane (op : CastOp) (scale : Nat) (draw : Option Nat) (a : Nat) : Option Nat × Nat :=
  match op with
  | .toInt => (fpToInt a, 0)
  | .ofInt => (some (intToFp a).1, (intToFp a).2)
  | .fmt src dst _ ovf =>
    let w := widen src scale a
    let r := outElem dst ovf draw w.1
    (some r.1, flagsOr w.2 r.2)

end Sys2Proof.Machine
end

