-- ==== Sys2Proof/Machine/Dcache.lean ====
section
/-!
DEFINITION. Sys2Proof/Machine/Dcache.lean: the vector cores' data caches (R209, R211, R212, R214): translation, hits, stores,
fills, write-back and replacement.
-/
namespace Sys2Proof.Machine

/-! ## Translation (R209, R235, R236) -/

/-- The instance a function's work is translated under (Table 09-4). -/
def instOf (s : State) (fn : Nat) : Nat := if confidential s then 0x3FE else fn

/-- The live object of a context that covers `n` bytes at a device virtual address, and the offset in it. -/
def objAt (s : State) (ctx a n : Nat) : Option (Nat × Nat) :=
  match s.mems.find? fun (e : Nat × MemObj) =>
      decide (e.2.ctx = ctx) && !e.2.aborting && decide (e.2.va ≤ a) && decide (a + n ≤ e.2.va + e.2.size) with
  | some e => some (e.1, a - e.2.va)
  | none => none

/-- The provisional view of a task: its launch and itself where it reads and writes versions (R136). -/
def taskView (s : State) (l t : Nat) : Option (Nat × Nat) := if (genOf s (.task l t)).isSome then some (l, t) else none

/-! ## Lines -/

/-- Are a line's mark and a view of the same launch, or both absent? -/
def sameView (mark view : Option (Nat × Nat)) : Bool :=
  match mark, view with
  | none, none => true
  | some a, some b => decide (a.1 = b.1)
  | _, _ => false

/-- Is a line that of an object's line under an instance and view? -/
def lineIs (slot line inst : Nat) (view : Option (Nat × Nat)) (d : DLine) : Bool :=
  decide (d.slot = slot) && decide (d.line = line) && decide (d.inst = inst) && sameView d.mark view

/-- The line of an object's offset in a core's cache. -/
def findLine (v : VCore) (slot off inst : Nat) (view : Option (Nat × Nat)) : Option DLine :=
  v.lines.find? (lineIs slot (off / 128) inst view)

/-- A byte a line holds. -/
def lineByte (d : DLine) (i : Nat) : Option Byte :=
  match tget d.data i with
  | some b => some b
  | none => if d.filled then some 0 else none

/-- Does a core's cache hold `n` bytes of an object (within one line)? -/
def lineHits (v : VCore) (slot off n inst : Nat) (view : Option (Nat × Nat)) : Bool :=
  match findLine v slot off inst view with
  | some d => (List.range n).all fun i => (lineByte d (off % 128 + i)).isSome
  | none => false

/-- Those bytes. -/
def lineRead (v : VCore) (slot off n inst : Nat) (view : Option (Nat × Nat)) : List Byte :=
  match findLine v slot off inst view with
  | some d => (List.range n).map fun i => (lineByte d (off % 128 + i)).getD 0
  | none => List.replicate n 0

/-! ## Write-back -/

/-- Dirty bytes in runs of one storer. -/
def dirtyRuns (f : Nat → Byte) : Tbl (Nat × Nat) → List ((Nat × Nat) × Nat × List Byte)
  | [] => []
  | (o, w) :: rest =>
    match dirtyRuns f rest with
    | (w', o', bs) :: more => if w' = w ∧ o' = o + 1 then (w, o, f o :: bs) :: more else (w, o, [f o]) :: (w', o', bs) :: more
    | [] => [(w, o, [f o])]

/-- Write back the dirty bytes of a line that a test on offset and storer names. -/
def writeBack (p : Nat → Nat × Nat → Bool) (d : DLine) (s : State) : State :=
  if thas s.mems d.slot then
    (dirtyRuns (fun i => (lineByte d i).getD 0) (tfilter d.dirty p)).foldl (fun s e =>
      storeMem (.task e.1.1 e.1.2) d.slot (d.line * 128 + e.2.1) e.2.2 s) s
  else s

/-- Clean the dirty bytes of a core's lines that a test names: they are written back, the lines stay. -/
def cleanLines (k : Nat) (p : DLine → Nat → Nat × Nat → Bool) (s : State) : State :=
  let s := (vcoreAt s k).lines.foldl (fun s d => writeBack (p d) d s) s
  modVCore k (fun v => { v with lines := v.lines.map fun (d : DLine) => { d with dirty := tfilter d.dirty fun i w => !p d i w } }) s

/-- Write back and drop the lines of a core that a test names. -/
def dropLines (k : Nat) (p : DLine → Bool) (s : State) : State :=
  let s := (vcoreAt s k).lines.foldl (fun s d => if p d then writeBack (fun _ _ => true) d s else s) s
  modVCore k (fun v => { v with lines := v.lines.filter fun d => !p d }) s

/-- Lines of a set of a cache. -/
def setCount (v : VCore) (set : Nat) : Nat := (v.lines.filter fun (d : DLine) => d.set = set).length

/-- The least recently used line of a set. -/
def setLru (v : VCore) (set : Nat) : Option DLine := (v.lines.filter fun (d : DLine) => d.set = set).getLast?

/-- Put a line first in a core's cache, in the place of the line it replaces; a full set of 8 ways gives up its least
recently used line. -/
def putLine (k : Nat) (d : DLine) (s : State) : State :=
  let same := lineIs d.slot d.line d.inst d.mark
  let s := modVCore k (fun v => { v with lines := v.lines.filter fun x => !same x }) s
  let s := if setCount (vcoreAt s k) d.set < 8 then s
    else
      match setLru (vcoreAt s k) d.set with
      | some e => modVCore k (fun v => { v with lines := v.lines.erase e }) (writeBack (fun _ _ => true) e s)
      | none => s
  modVCore k (fun v => { v with lines := d :: v.lines }) s

/-- A new line of an object: its set follows from its virtual address. -/
def newLine (s : State) (slot off inst : Nat) (view : Option (Nat × Nat)) : DLine :=
  let va := match tget s.mems slot with
    | some m => m.va
    | none => 0
  { slot := slot, line := off / 128, set := (va + off) / 128 % 64, inst := inst, filled := false, data := [], dirty := []
    mark := view }

/-- Use a line: it becomes the most recently used. -/
def useLine (k slot off inst : Nat) (view : Option (Nat × Nat)) (s : State) : State :=
  match findLine (vcoreAt s k) slot off inst view with
  | some d => putLine k d s
  | none => s

/-- A store of bytes within one line by a task: no fetch; the bytes are dirty. -/
def storeLine (k slot off inst : Nat) (l t : Nat) (bs : List Byte) (s : State) : State :=
  let view := taskView s l t
  let d := (findLine (vcoreAt s k) slot off inst view).getD (newLine s slot off inst view)
  let ps := (List.range bs.length).zip bs
  let d' : DLine := { d with data := ps.foldl (fun m p => tput m (off % 128 + p.1) p.2) d.data
                             dirty := ps.foldl (fun m p => tput m (off % 128 + p.1) (l, t)) d.dirty }
  putLine k d' s

/-- Fill the line of an object's offset for a task: bytes of poisoned 64 B lines are not held; dirty bytes stay. -/
def fillLine (k slot off inst : Nat) (l t : Nat) (s : State) : State :=
  let view := taskView s l t
  let base := off / 128 * 128
  let d := (findLine (vcoreAt s k) slot off inst view).getD (newLine s slot off inst view)
  let half := fun (h : Nat) =>
    if linePoisoned s slot (base + 64 * h) then []
    else (List.range 64).zip (readMem s (.task l t) slot (base + 64 * h) 64) |>.map fun p => (64 * h + p.1, p.2)
  let fresh := half 0 ++ half 1
  let data := fresh.foldl (fun m p => if thas d.dirty p.1 then m else tput m p.1 p.2) d.data
  let d' : DLine := { d with data := data, filled := decide (fresh.length = 128) }
  putLine k d' (touch slot base 128 false s)

/-! ## Ranges (R212, Table 05-7) -/

/-- Does a line overlap a range of device virtual addresses of an instance? -/
def lineInVa (s : State) (inst va n : Nat) (d : DLine) : Bool :=
  match tget s.mems d.slot with
  | some m => decide (d.inst = inst) && decide (m.va + d.line * 128 < va + n) && decide (va < m.va + d.line * 128 + 128)
  | none => false

/-- Is a byte of a line in a list of object ranges? -/
def byteIn (rs : List (Nat × Nat × Nat)) (d : DLine) (i : Nat) : Bool :=
  rs.any fun e => decide (e.1 = d.slot) && decide (e.2.1 ≤ d.line * 128 + i) && decide (d.line * 128 + i < e.2.1 + e.2.2)

/-- Does a line overlap a list of object ranges? -/
def lineIn (rs : List (Nat × Nat × Nat)) (d : DLine) : Bool :=
  rs.any fun e => decide (e.1 = d.slot) && decide (e.2.1 < d.line * 128 + 128) && decide (d.line * 128 < e.2.1 + e.2.2)

/-- The entry action of a task on a vector core (Table 05-7). -/
def entryAction (k : Nat) (r : TaskRec) (rs : List (Nat × Nat × Nat)) (s : State) : State :=
  if r.entry = 1 then dropLines k (lineIn rs) s else if r.entry = 2 then dropLines k (fun _ => true) s else s

/-- The exit action of a task on a vector core. -/
def exitAction (k : Nat) (r : TaskRec) (rs : List (Nat × Nat × Nat)) (s : State) : State :=
  if r.exit = 1 then cleanLines k (fun d _ _ => lineIn rs d) s
  else if r.exit = 2 then cleanLines k (fun _ _ _ => true) s
  else if r.exit = 3 then dropLines k (fun _ => true) s
  else s

end Sys2Proof.Machine
end

