-- ==== Sys2Proof/Machine/Vector.lean ====
section
/-!
DEFINITION. Sys2Proof/Machine/Vector.lean: the instructions of the vector cores, the memory pipe and the cores' errors
(R201 to R216). Each command is one instruction of a thread, at its program counter.
-/
namespace Sys2Proof.Machine

/-! ## Registers (Table 08-2) -/

/-- A lane of a vector register. -/
def vReg (t : Thread) (r l : Nat) : Nat := tgetD t.v (r * 32 + l) 0

/-- A mask register: m0 reads all ones. -/
def mReg (t : Thread) (m : Nat) : Nat := if m = 0 then 2 ^ 32 - 1 else tgetD t.m m 0

/-- A scalar register: x0 reads 0. -/
def xReg (t : Thread) (r : Nat) : Nat := if r = 0 then 0 else tgetD t.x r 0

/-- Put a value in a table whose unlisted entries read 0. -/
def putNz (m : Tbl Nat) (k v : Nat) : Tbl Nat := if v = 0 then tdel m k else tput m k v

/-- Write a lane. -/
def setV (r l v : Nat) (t : Thread) : Thread := { t with v := putNz t.v (r * 32 + l) (v % 2 ^ 32) }

/-- Write a mask register: m0 is read only. -/
def setM (m v : Nat) (t : Thread) : Thread := if m = 0 then t else { t with m := putNz t.m m (v % 2 ^ 32) }

/-- Write a scalar register: x0 stays 0. -/
def setX (r v : Nat) (t : Thread) : Thread := if r = 0 then t else { t with x := putNz t.x r (v % 2 ^ 64) }

/-- Raise task flags. -/
def raise (f : Nat) (t : Thread) : Thread := { t with flags := flagsOr t.flags f }

/-- The next instruction. -/
def nextPc (t : Thread) : Thread := { t with pc := t.pc + 8 }

/-- The lanes a mask register makes active. -/
def active (t : Thread) (m : Nat) : List Nat := (List.range 32).filter fun l => bitOf (mReg t m) l

/-- Are register numbers legal: below 64 vector, 8 mask, 32 scalar registers? -/
def regsOk (vs ms xs : List Nat) : Bool :=
  (vs.all fun r => decide (r < 64)) && (ms.all fun r => decide (r < 8)) && (xs.all fun r => decide (r < 32))

/-! ## Issue (R202, R203, R210) -/

/-- Is a vector core up: in service, not masked, not under reset? -/
def vcoreUp (s : State) (k : Nat) : Bool :=
  decide (k < 10240) && !cluOut s (k / 160) && !vcoreMasked s k && !resetting s 1 k

/-- Does an instruction use a register that a load has yet to write? -/
def waitsFor (t : Thread) (vs xs : List Nat) : Bool :=
  t.pend.any fun (p : PendLoad) => if p.vec then vs.contains p.reg else xs.contains p.reg

/-- Change a thread. -/
def modThread (k th : Nat) (f : Thread → Thread) (s : State) : State :=
  modVCore k (fun v => { v with threads := tmod v.threads th f }) s

/-- Is the fetch at a thread's program counter inside the code section and aligned? -/
def fetchOk (g : Graph) (t : Thread) : Bool := decide (t.pc % 8 = 0) && decide (t.pc + 8 ≤ g.code.length)

/-- Issue an instruction of a thread: it waits while the core may not issue, a fence stands or a register it uses is
still loading; a bad fetch or an illegal encoding is an execution fault. -/
def vIssue (k th : Nat) (ok : Bool) (vs xs : List Nat) (f : Thread → Launch → State → State) (s : State) : State :=
  match tget (vcoreAt s k).threads th with
  | none => s
  | some t =>
    match findLaunch s t.launch with
    | none => s
    | some x =>
      match launchGraph s x with
      | none => s
      | some g =>
        if !vcoreUp s k || unitsHeld s || t.fence || waitsFor t vs xs then s
        else if !fetchOk g t || !ok then execFault t.launch t.task s
        else f t x s

/-- Count an instruction of the vector ALU pipe (Table 08-14). -/
def countAlu (k : Nat) (s : State) : State := modVclu (k / 160) (fun c => { c with alu := (c.alu + 1) % 2 ^ 64 }) s

/-- Issue an ALU-pipe instruction. -/
def vAlu (k th : Nat) (ok : Bool) (vs xs : List Nat) (f : Thread → Launch → State → State) (s : State) : State :=
  vIssue k th ok vs xs (fun t x s => countAlu k (f t x s)) s

/-- The value of lane `l` where the manual leaves it open. -/
def openLane (s : State) (l : Nat) : Nat := Config.freeValue (s.draws + l) % 2 ^ 32

/-- Write results to the lanes of a list, open ones as free values, and go on. -/
def putLanes (k th vd : Nat) (rs : List (Nat × Option Nat × Nat)) (s : State) : State :=
  let vals := rs.map fun e => (e.1, e.2.1.getD (openLane s e.1), e.2.2)
  let s' := if rs.any fun e => e.2.1.isNone then { s with draws := s.draws + 32 } else s
  modThread k th (fun t =>
    nextPc (vals.foldl (fun t e => raise e.2.2 (setV vd e.1 e.2.1 t)) t)) s'

/-! ## Scalar pipe -/

/-- A second operand's value. -/
def rhsVal (t : Thread) (b : Rhs) : Nat :=
  match b with
  | .reg r => xReg t r
  | .imm v => v % 2 ^ 64

/-- The register a second operand names. -/
def rhsRegs (b : Rhs) : List Nat :=
  match b with
  | .reg r => [r]
  | .imm _ => []

/-- The scalar registers an instruction names. -/
def sRegs (i : SInstr) : List Nat :=
  match i with
  | .int _ rd ra b => rd :: ra :: rhsRegs b
  | .cmp _ rd ra b => rd :: ra :: rhsRegs b
  | .mov rd b => rd :: rhsRegs b
  | .branch _ ra rb _ => [ra, rb]
  | .jump b l => rhsRegs b ++ l.toList
  | .illegal => []

/-- Is it an encoding of the instruction set? -/
def sLegal (i : SInstr) : Bool :=
  match i with
  | .illegal => false
  | i => regsOk [] [] (sRegs i)

/-- What a scalar instruction does to its thread; an open result is the free value given. -/
def sEffect (free : Nat) (i : SInstr) (t : Thread) : Thread :=
  match i with
  | .int op rd ra b => nextPc (setX rd ((intOp 64 op (xReg t ra) (rhsVal t b)).getD free) t)
  | .cmp c rd ra b => nextPc (setX rd (bitAt (condHolds 64 c (xReg t ra) (rhsVal t b)) 0) t)
  | .mov rd b => nextPc (setX rd (rhsVal t b) t)
  | .branch c ra rb target => if condHolds 64 c (xReg t ra) (xReg t rb) then { t with pc := target } else nextPc t
  | .jump b l =>
    let to_ := rhsVal t b
    match l with
    | some r => { setX r (t.pc + 8) t with pc := to_ }
    | none => { t with pc := to_ }
  | .illegal => t

/-- Does a scalar instruction leave its result open? -/
def sOpen (i : SInstr) (t : Thread) : Bool :=
  match i with
  | .int op _ ra b => (intOp 64 op (xReg t ra) (rhsVal t b)).isNone
  | _ => false

/-- SCALAR_INSTRUCTION -/
def execScalarInstruction (core th : Nat) (i : SInstr) (s : State) : Host.Outcome State Fault Refusal :=
  .next (vIssue core th (sLegal i) [] (sRegs i) (fun t _ s =>
    let s' := modThread core th (sEffect (freeBits s 64) i) s
    if sOpen i t then tookFree s' else s') s)

/-! ## Vector ALU pipe -/

/-- The vector registers an instruction names. -/
def vRegs (i : VInstr) : List Nat :=
  match i with
  | .int _ vd va vb => [vd, va, vb]
  | .icmp _ _ va vb => [va, vb]
  | .fp _ vd va vb vc => [vd, va, vb, vc]
  | .fcmp _ _ va vb => [va, vb]
  | .select vd _ va vb => [vd, va, vb]
  | .shuffle vd va vb => [vd, va, vb]
  | .broadcast vd _ => [vd]
  | .rotate vd va _ => [vd, va]

/-- The mask registers an instruction names. -/
def vMasks (i : VInstr) : List Nat :=
  match i with
  | .icmp _ md _ _ => [md]
  | .fcmp _ md _ _ => [md]
  | .select _ k _ _ => [k]
  | _ => []

/-- The scalar registers an instruction names. -/
def vScalars (i : VInstr) : List Nat :=
  match i with
  | .broadcast _ ra => [ra]
  | _ => []

/-- The result of lane `l`: value, none where it is left open, and flags. -/
def vLane (t : Thread) (i : VInstr) (l : Nat) : Option Nat × Nat :=
  match i with
  | .int op _ va vb => (intOp 32 op (vReg t va l) (vReg t vb l), 0)
  | .icmp c _ va vb => (some (bitAt (condHolds 32 c (vReg t va l) (vReg t vb l)) 0), 0)
  | .fp op _ va vb vc => (some (fpOp op (vReg t va l) (vReg t vb l) (vReg t vc l)).1, (fpOp op (vReg t va l) (vReg t vb l) (vReg t vc l)).2)
  | .fcmp c _ va vb => (some (bitAt (fpCond c (vReg t va l) (vReg t vb l)) 0), 0)
  | .select _ k va vb => (some (if bitOf (mReg t k) l then vReg t va l else vReg t vb l), 0)
  | .shuffle _ va vb => (some (vReg t va (vReg t vb l % 32)), 0)
  | .broadcast _ ra => (some (xReg t ra % 2 ^ 32), 0)
  | .rotate _ va n => (some (vReg t va ((l + n) % 32)), 0)

/-- The vector register an instruction writes. -/
def vDest (i : VInstr) : Option Nat :=
  match i with
  | .int _ vd _ _ => some vd
  | .fp _ vd _ _ _ => some vd
  | .select vd _ _ _ => some vd
  | .shuffle vd _ _ => some vd
  | .broadcast vd _ => some vd
  | .rotate vd _ _ => some vd
  | .icmp _ _ _ _ => none
  | .fcmp _ _ _ _ => none

/-- The mask register a compare writes. -/
def vMaskDest (i : VInstr) : Nat :=
  match i with
  | .icmp _ md _ _ => md
  | .fcmp _ md _ _ => md
  | _ => 0

/-- Write compare results to the active lanes of a mask register. -/
def putMask (md : Nat) (rs : List (Nat × Option Nat × Nat)) (t : Thread) : Thread :=
  setM md (rs.foldl (fun m e => if e.2.1 = some 1 then setBit m e.1 else clrBit m e.1) (mReg t md)) t

/-- VECTOR_ARITHMETIC: inactive lanes keep the destination and raise no flag. -/
def execVectorArithmetic (core th m : Nat) (i : VInstr) (s : State) : Host.Outcome State Fault Refusal :=
  .next (vAlu core th (regsOk (vRegs i) (m :: vMasks i) (vScalars i)) (vRegs i) (vScalars i) (fun t _ s =>
    let rs := (active t m).map fun l => (l, vLane t i l)
    match vDest i with
    | some vd => putLanes core th vd rs s
    | none => modThread core th (fun t => nextPc (putMask (vMaskDest i) rs t)) s) s)

/-- SPECIAL_FUNCTION -/
def execSpecialFunction (core th m : Nat) (f : SpecFn) (vd va : Nat) (s : State) : Host.Outcome State Fault Refusal :=
  .next (vAlu core th (regsOk [vd, va] [m] []) [vd, va] [] (fun t _ s =>
    putLanes core th vd ((active t m).map fun l => (l, some (specFn f (vReg t va l)).1, (specFn f (vReg t va l)).2)) s) s)

/-- CROSS_LANE_REDUCTION: the result goes to lane 0 of the destination. -/
def execCrossLaneReduction (core th m : Nat) (op : RedOp) (vd va : Nat) (s : State) : Host.Outcome State Fault Refusal :=
  .next (vAlu core th (regsOk [vd, va] [m] []) [vd, va] [] (fun t _ s =>
    let w := (List.range 32).map fun l => (bitOf (mReg t m) l, vReg t va l)
    let r := reduceLanes op w
    putLanes core th vd [(0, r.1, r.2)] s) s)

/-! ## Draws and casts (R207) -/

/-- The draw of a lane of a thread. -/
def laneDrawOf (s : State) (x : Launch) (t : Thread) (l : Nat) : Nat :=
  drawOf s x (laneCtr t.task l (tgetD t.draws l 0)) l

/-- The lanes that drew count their draws. -/
def countDraws (ls : List Nat) (t : Thread) : Thread :=
  { t with draws := ls.foldl (fun m l => tput m l ((tgetD m l 0 + 1) % 2 ^ 39)) t.draws }

/-- Take the draws of lanes out of the free values and the counters. -/
def tookLaneDraws (k th : Nat) (x : Launch) (ls : List Nat) (s : State) : State :=
  modThread k th (countDraws ls) (tookDraws x 32 s)

/-- VRAND -/
def execVrand (core th m vd : Nat) (s : State) : Host.Outcome State Fault Refusal :=
  .next (vAlu core th (regsOk [vd] [m] []) [vd] [] (fun t x s =>
    let rs := (active t m).map fun l => (l, some (laneDrawOf s x t l), 0)
    putLanes core th vd rs (tookLaneDraws core th x (active t m) s)) s)

/-- Is a cast an encoding of the instruction set: formats of Table 07-1? -/
def castLegal (op : CastOp) : Bool :=
  match op with
  | .fmt src dst _ _ => castCode src && castCode dst
  | _ => true

/-- The source format of a cast, FP32 where it has none. -/
def castSrc (op : CastOp) : Nat :=
  match op with
  | .fmt src _ _ _ => src
  | _ => 10

/-- The target format of a cast. -/
def castDst (op : CastOp) : Nat :=
  match op with
  | .fmt _ dst _ _ => dst
  | _ => 10

/-- CAST: an MX target takes its block from the 32 lanes, inactive ones entering as 0, and leaves its scale in the scalar
register. -/
def execCast (core th m : Nat) (op : CastOp) (vd va sc : Nat) (s : State) : Host.Outcome State Fault Refusal :=
  .next (vAlu core th (castLegal op && regsOk [vd, va] [m] [sc]) [vd, va] [sc] (fun t x s =>
    let ls := active t m
    let draw := fun (l : Nat) => if castDraws op then some (laneDrawOf s x t l) else none
    let scale := xReg t sc % 256
    let took := fun (s : State) => if castDraws op then tookLaneDraws core th x ls s else s
    if castMx op then
      let ws := (List.range 32).map fun l => if ls.contains l then widen (castSrc op) scale (vReg t va l) else (0, 0)
      let b := mxBlock (castDst op) ((List.range 32).map draw) (ws.map fun w => ofFp32 w.1)
      let rs := ls.map fun l => (l, some (b.2.getD l 0), (ws.getD l (0, 0)).2)
      modThread core th (setX sc b.1) (putLanes core th vd rs (took s))
    else
      let rs := ls.map fun l => (l, castLane op scale (draw l) (vReg t va l))
      putLanes core th vd rs (took s)) s)

/-! ## Flags and arguments (R208, R209) -/

/-- FLAGS_RD -/
def execFlagsRd (core th rd : Nat) (s : State) : Host.Outcome State Fault Refusal :=
  .next (vIssue core th (regsOk [] [] [rd]) [] [rd] (fun t x s =>
    let a := match tget s.ctxs x.ctx with
      | some c => c.aflags
      | none => 0
    modThread core th (fun u => nextPc (setX rd (flagsOr a t.flags) u)) s) s)

/-- Clear flag bits. -/
def flagsClr (f bits : Nat) : Nat := Nat.land (f % 8) (7 - bits % 8)

/-- FLAGS_CLR -/
def execFlagsClr (core th bits : Nat) (s : State) : Host.Outcome State Fault Refusal :=
  .next (vIssue core th true [] [] (fun _ x s =>
    modThread core th (fun t => nextPc { t with flags := flagsClr t.flags bits })
      (modCtx x.ctx (fun c => { c with aflags := flagsClr c.aflags bits }) s)) s)

/-- What ARGBASE gives for a launch argument: the address of its object's byte 0, or the handle of an event. -/
def argBase (s : State) (x : Launch) (k : Nat) : Option Nat :=
  match x.args[k]? with
  | some h =>
    if hKind h = Hk.mem then
      match tget s.mems (hSlot h) with
      | some m => some m.va
      | none => none
    else some h
  | none => none

/-- ARGBASE: an index at or above N_ARGS is an execution fault. -/
def execArgbase (core th rd k : Nat) (s : State) : Host.Outcome State Fault Refusal :=
  .next (vIssue core th (regsOk [] [] [rd]) [] [rd] (fun t x s =>
    match argBase s x k with
    | some v => modThread core th (fun t => nextPc (setX rd v t)) s
    | none => execFault t.launch t.task s) s)

/-! ## Loads and stores (R209 to R211) -/

/-- Bytes of a format code that loads and stores convert: not the packed or the MX formats; 0 where it is none. -/
def fmtSize (c : Nat) : Nat := if c ≤ 1 then 1 else if c = 8 ∨ c = 9 then 2 else if c = 10 then 4 else 0

/-- Element size of a load; 0 where the encoding is reserved. -/
def loadSize (a : LoadAs) : Nat :=
  match a with
  | .zero n => if n = 1 ∨ n = 2 ∨ n = 4 then n else 0
  | .sign n => if n = 1 ∨ n = 2 ∨ n = 4 then n else 0
  | .fmt c => fmtSize c

/-- Element size of a store. -/
def storeSize (a : StoreAs) : Nat :=
  match a with
  | .raw n => if n = 1 ∨ n = 2 ∨ n = 4 then n else 0
  | .fmt c _ _ => fmtSize c

/-- How an element becomes a register value, as PendLoad numbers it. -/
def loadConv (a : LoadAs) : Nat :=
  match a with
  | .zero _ => 0
  | .sign _ => 1
  | .fmt c => 2 + c

/-- A loaded element's register value and flags, for a register of `w` bits. -/
def loadVal (w conv size : Nat) (bs : List Byte) : Nat × Nat :=
  let v := ofLe bs
  if conv = 0 then (v, 0)
  else if conv = 1 then (twos (signedOf v (8 * size)) w, 0)
  else widen (conv - 2) 127 v

/-- A stored lane's bytes and flags. -/
def storeVal (a : StoreAs) (draw : Option Nat) (v : Nat) : List Byte × Nat :=
  match a with
  | .raw n => (leBytes n v, 0)
  | .fmt c _ ovf =>
    let r := outElem c ovf draw v
    (leBytes (fmtSize c) r.1, r.2)

/-- Does a converting store draw? -/
def storeDraws (a : StoreAs) : Bool :=
  match a with
  | .fmt c st _ => st && decide (c ≠ 10)
  | _ => false

/-- Where the elements of an access lie: lane, slot, offset; none where one is misaligned or fails R209. -/
def elemsAt (s : State) (ctx size : Nat) : List (Nat × Nat) → Option (List (Nat × Nat × Nat))
  | [] => some []
  | (l, a) :: rest =>
    if a % size ≠ 0 ∨ 2 ^ 52 < a + size then none
    else
      match objAt s ctx a size, elemsAt s ctx size rest with
      | some (slot, off), some more => some ((l, slot, off) :: more)
      | _, _ => none

/-- The 128 B lines of a list of elements, each once: slot and an offset in it. -/
def elemLines (es : List (Nat × Nat × Nat)) : List (Nat × Nat) :=
  es.foldl (fun m e => if m.contains (e.2.1, e.2.2 / 128 * 128) then m else m ++ [(e.2.1, e.2.2 / 128 * 128)]) []

/-- Lines that the loads outstanding on a thread wait for. -/
def pendLines (t : Thread) : Nat := (t.pend.map fun (p : PendLoad) => (elemLines p.elems).length).sum

/-- Write loaded elements to their registers. -/
def putLoaded (p : PendLoad) (read : Nat → Nat → List Byte) (t : Thread) : Thread :=
  p.elems.foldl (fun t e =>
    let r := loadVal (if p.vec then 32 else 64) p.conv p.size (read e.2.1 e.2.2)
    raise r.2 (if p.vec then setV p.reg e.1 r.1 t else setX p.reg r.1 t)) t

/-- A load: at once where every byte hits, else outstanding until its lines come; no more than 16 line misses of a thread
and 32 of a core are outstanding. -/
def doLoad (k th : Nat) (t : Thread) (x : Launch) (p : PendLoad) (s : State) : State :=
  let inst := instOf s (ctxFn s x.ctx)
  let view := taskView s t.launch t.task
  let v := vcoreAt s k
  if p.elems.all fun e => lineHits v e.2.1 e.2.2 p.size inst view then
    let s := modThread k th (fun t => nextPc (putLoaded p (fun slot off => lineRead v slot off p.size inst view) t)) s
    (elemLines p.elems).foldl (fun s e => useLine k e.1 e.2 inst view s) s
  else
    let more := (elemLines p.elems).length
    let mine := pendLines t
    let all := (v.threads.map fun (e : Nat × Thread) => pendLines e.2).sum
    if (decide (0 < mine) && decide (16 < mine + more)) || (decide (0 < all) && decide (32 < all + more)) then s
    else modThread k th (fun t => nextPc { t with pend := t.pend ++ [p] }) s

/-- A store of elements with their bytes: an execution fault where the task may not write, a poison failure on an offline
stack. -/
def doStore (k th : Nat) (t : Thread) (x : Launch) (es : List (Nat × Nat × List Byte)) (flags : Nat) (s : State) : State :=
  if es.any fun e => writeFaults s t.launch t.task e.1 e.2.1 e.2.2.length then execFault t.launch t.task s
  else if es.any fun e => lostIn s e.1 e.2.1 e.2.2.length then failTask t.launch t.task true s
  else
    let inst := instOf s (ctxFn s x.ctx)
    let s := es.foldl (fun s e => storeLine k e.1 e.2.1 inst t.launch t.task e.2.2 s) s
    modThread k th (fun t => nextPc (raise flags t)) s

/-- A vector load of lanes at addresses. -/
def vLoad (k th : Nat) (t : Thread) (x : Launch) (vd : Nat) (as_ : LoadAs) (addrs : List (Nat × Nat)) (s : State) : State :=
  match elemsAt s x.ctx (loadSize as_) addrs with
  | none => execFault t.launch t.task s
  | some es => doLoad k th t x { vec := true, reg := vd, elems := es, size := loadSize as_, conv := loadConv as_ } s

/-- A vector store of lanes at addresses. -/
def vStore (k th : Nat) (t : Thread) (x : Launch) (vs : Nat) (as_ : StoreAs) (addrs : List (Nat × Nat)) (s : State) : State :=
  match elemsAt s x.ctx (storeSize as_) addrs with
  | none => execFault t.launch t.task s
  | some es =>
    let outs := es.map fun e =>
      (e, storeVal as_ (if storeDraws as_ then some (laneDrawOf s x t e.1) else none) (vReg t vs e.1))
    let s := if storeDraws as_ then tookLaneDraws k th x (addrs.map Prod.fst) s else s
    doStore k th t x (outs.map fun o => (o.1.2.1, o.1.2.2, o.2.1)) (outs.foldl (fun f o => flagsOr f o.2.2) 0) s

/-- The registers of a memory instruction and whether its encoding is defined. -/
def memRegs (i : MemInstr) : Bool × List Nat × List Nat :=
  match i with
  | .sload rd ra _ n _ => (decide (n = 1 ∨ n = 2 ∨ n = 4 ∨ n = 8), [], [rd, ra])
  | .sstore rs ra _ n => (decide (n = 1 ∨ n = 2 ∨ n = 4 ∨ n = 8), [], [rs, ra])
  | .vload vd ra _ a => (decide (loadSize a ≠ 0), [vd], [ra])
  | .vstore vs ra _ a => (decide (storeSize a ≠ 0), [vs], [ra])

/-- An effective address. -/
def effAddr (t : Thread) (ra off : Nat) : Nat := (xReg t ra + off) % 2 ^ 64

/-- VECTOR_LOAD_STORE -/
def execVectorLoadStore (core th m : Nat) (i : MemInstr) (s : State) : Host.Outcome State Fault Refusal :=
  .next (
    let r := memRegs i
    vIssue core th (r.1 && regsOk r.2.1 [m] r.2.2) r.2.1 r.2.2 (fun t x s =>
      match i with
      | .sload rd ra off n sg =>
        (match elemsAt s x.ctx n [(0, effAddr t ra off)] with
         | none => execFault t.launch t.task s
         | some es => doLoad core th t x { vec := false, reg := rd, elems := es, size := n, conv := if sg then 1 else 0 } s)
      | .sstore rs ra off n =>
        (match elemsAt s x.ctx n [(0, effAddr t ra off)] with
         | none => execFault t.launch t.task s
         | some es => doStore core th t x (es.map fun e => (e.2.1, e.2.2, leBytes n (xReg t rs))) 0 s)
      | .vload vd ra off a =>
        vLoad core th t x vd a ((active t m).map fun l => (l, (effAddr t ra off + l * loadSize a) % 2 ^ 64)) s
      | .vstore vs ra off a =>
        vStore core th t x vs a ((active t m).map fun l => (l, (effAddr t ra off + l * storeSize a) % 2 ^ 64)) s) s)

/-- GATHER_SCATTER -/
def execGatherScatter (core th m : Nat) (i : GatherInstr) (s : State) : Host.Outcome State Fault Refusal :=
  .next (
    match i with
    | .gather vd ra vi a =>
      vIssue core th (decide (loadSize a ≠ 0) && regsOk [vd, vi] [m] [ra]) [vd, vi] [ra] (fun t x s =>
        vLoad core th t x vd a ((active t m).map fun l => (l, effAddr t ra (vReg t vi l))) s) s
    | .scatter vs ra vi a =>
      vIssue core th (decide (storeSize a ≠ 0) && regsOk [vs, vi] [m] [ra]) [vs, vi] [ra] (fun t x s =>
        vStore core th t x vs a ((active t m).map fun l => (l, effAddr t ra (vReg t vi l))) s) s)

/-- Does a load meet a poisoned line? -/
def loadPoisoned (s : State) (p : PendLoad) : Bool := p.elems.any fun e => poisonedIn s e.2.1 e.2.2 p.size

/-- LINE_FILL: the lines of the thread's oldest load come, its registers are written; a poisoned line is a poison
failure (R210). -/
def execLineFill (core th : Nat) (s : State) : Host.Outcome State Fault Refusal :=
  .next (
    match tget (vcoreAt s core).threads th with
    | none => s
    | some t =>
      match t.pend, findLaunch s t.launch with
      | p :: rest, some x =>
        if !vcoreUp s core then s
        else if loadPoisoned s p then failTask t.launch t.task true s
        else
          let inst := instOf s (ctxFn s x.ctx)
          let view := taskView s t.launch t.task
          let lines := elemLines p.elems
          let read := fun (slot off : Nat) =>
            if lineHits (vcoreAt s core) slot off p.size inst view then lineRead (vcoreAt s core) slot off p.size inst view
            else
              let d := findLine (vcoreAt s core) slot off inst view
              (readMem s (.task t.launch t.task) slot off p.size).zipIdx.map fun e =>
                match d with
                | some d => if thas d.dirty (off % 128 + e.2) then (lineByte d (off % 128 + e.2)).getD e.1 else e.1
                | none => e.1
          let miss := lines.filter fun e => !(lineHits (vcoreAt s core) e.1 e.2 128 inst view)
          let s' := modThread core th (fun t => putLoaded p read { t with pend := rest }) s
          miss.foldl (fun s e => fillLine core e.1 e.2 inst t.launch t.task s) s'
      | _, _ => s)

/-! ## Atomics, maintenance, fences (R212, R213) -/

/-- ATOMIC: the line's copy in the core's cache is written back and dropped first; the old value is returned. -/
def execAtomic (core th : Nat) (op : AtomOp) (rd ra rb size : Nat) (s : State) : Host.Outcome State Fault Refusal :=
  .next (vIssue core th (decide (size = 4 ∨ size = 8) && regsOk [] [] [rd, ra, rb]) [] [rd, ra, rb] (fun t x s =>
    match elemsAt s x.ctx size [(0, xReg t ra)] with
    | some [(_, slot, off)] =>
      if writeFaults s t.launch t.task slot off size then execFault t.launch t.task s
      else if poisonedIn s slot off size || lostIn s slot off size then failTask t.launch t.task true s
      else
        let inst := instOf s (ctxFn s x.ctx)
        let s := dropLines core (lineIs slot (off / 128) inst (taskView s t.launch t.task)) s
        let acc := Accessor.task t.launch t.task
        let old := ofLe (readMem s acc slot off size)
        let v := atomNew (8 * size) op old (xReg t rb % 2 ^ (8 * size))
        modThread core th (fun t => nextPc (setX rd old t)) (storeMem acc slot off (leBytes size v) s)
    | _ => execFault t.launch t.task s) s)

/-- A maintenance instruction on the lines of a range. -/
def maintain (core th ra rb : Nat) (drop : Bool) (s : State) : State :=
  vIssue core th (regsOk [] [] [ra, rb]) [] [ra, rb] (fun t x s =>
    let inst := instOf s (ctxFn s x.ctx)
    let p := lineInVa s inst (xReg t ra) (xReg t rb)
    let s := if drop then dropLines core p s else cleanLines core (fun d _ _ => p d) s
    modThread core th nextPc s) s

/-- CFLUSH -/
def execCflush (core th ra rb : Nat) (s : State) : Host.Outcome State Fault Refusal := .next (maintain core th ra rb false s)

/-- CINV: dirty bytes are written back before the lines are dropped. -/
def execCinv (core th ra rb : Nat) (s : State) : Host.Outcome State Fault Refusal := .next (maintain core th ra rb true s)

/-- CFLUSHINV -/
def execCflushinv (core th ra rb : Nat) (s : State) : Host.Outcome State Fault Refusal :=
  .next (maintain core th ra rb true s)

/-- MFENCE: the thread stalls. -/
def execMfence (core th : Nat) (s : State) : Host.Outcome State Fault Refusal :=
  .next (vIssue core th true [] [] (fun _ _ s => modThread core th (fun t => nextPc { t with fence := true }) s) s)

/-- MFENCE_COMPLETE -/
def execMfenceComplete (core th : Nat) (s : State) : Host.Outcome State Fault Refusal :=
  .next (modThread core th (fun t => { t with fence := false }) s)

/-! ## Errors (R215) -/

/-- VECTOR_UNCORRECTABLE_ERROR: in a clean data-cache line or an instruction-cache line it drops the line and counts as
corrected; any other fails every task of the core and starts an engine reset. -/
def execVectorUncorrectableError (core : Nat) (site : VErrSite) (s : State) : Host.Outcome State Fault Refusal :=
  .next (
    if !(decide (core < 10240) && !cluOut s (core / 160)) then s
    else
      let corrected := modVclu (core / 160) (fun c => { c with corrected := satAdd 65535 c.corrected 1 })
      let bad := unitFault (unitOf 1 core) Cls.engineHw false 0
        (modVclu (core / 160) (fun c => { c with uncorrected := satAdd 255 c.uncorrected 1 }) s)
      match site with
      | .code => corrected s
      | .line slot line =>
        (match (vcoreAt s core).lines.find? fun (d : DLine) => decide (d.slot = slot) && decide (d.line = line) with
         | some d => if d.dirty.isEmpty then corrected (modVCore core (fun v => { v with lines := v.lines.erase d }) s) else bad
         | none => s)
      | .other => bad)

end Sys2Proof.Machine
end

