-- ==== Sys2Proof/Machine/Service.lean ====
section
/-!
DEFINITION. Sys2Proof/Machine/Service.lean: the service cores (R217 to R225): the instructions that have a row of their own,
the user environment calls, and the cores' errors. Ordinary RISC-V instructions have no rows; what their stores leave in
the data cache comes with the commands that write it back.
-/
namespace Sys2Proof.Machine

/-! ## Cores and addresses (R219 to R221) -/

/-- Is a service core up: firmware running, its partition in service, the core not under reset? -/
def svcUp (s : State) (n : Nat) : Bool :=
  decide (n < 32) && s.svc.running && !partOff s (n / 8) && !partInReset s (n / 8) && !resetting s 2 n

/-- Is a core open to user programs now (R221)? -/
def svcUser (s : State) (n : Nat) : Bool := decide (4 ≤ n % 8) && !confidential s

/-- Where a service core's access falls. -/
inductive SvcPlace where
  /-- An object of the user task's context: slot and offset. -/
  | obj (slot off : Nat)
  /-- A device physical address that holds memory. -/
  | phys (a : Nat)
  /-- An execution fault of the user task. -/
  | fault (l t : Nat)
  /-- An access fault to firmware. -/
  | trap
  deriving DecidableEq, Repr

/-- Does a physical address hold memory that a read-modify-write may reach: HBM that is backed and online, or the store of
a cluster in service (Table 08-7, R244)? -/
def physMem (s : State) (a : Nat) : Bool :=
  (decide (a < 2 ^ 40) && decide (a / 2 ^ 36 < 8) && decide (a % 2 ^ 36 < 48000000000) && !stackOff s (a / 2 ^ 36))
    || (decide (0x800000000000 ≤ a) && decide (a < 0x800100000000) && cluInService s ((a - 0x800000000000) / 0x4000000))

/-- Where an access of `n` bytes by a core falls: a user program issues device virtual addresses (R219), firmware device
physical ones. -/
def svcPlace (s : State) (core a n : Nat) : SvcPlace :=
  match (svcAt s core).task with
  | some (l, t) =>
    match findLaunch s l with
    | some x =>
      match objAt s x.ctx a n with
      | some (slot, off) => if a % n = 0 ∧ a + n ≤ 2 ^ 52 then .obj slot off else .fault l t
      | none => .fault l t
    | none => .fault l t
  | none => if a % n = 0 ∧ physMem s a then .phys a else .trap

/-- Cause codes of the RISC-V privileged architecture: illegal instruction, load access fault, store or AMO access fault. -/
def Trap.illegal : Nat := 2
/-- Load access fault. -/
def Trap.load : Nat := 5
/-- Store or AMO access fault. -/
def Trap.store : Nat := 7

/-- Firmware takes an access fault. -/
def svcTrap (core cause : Nat) (s : State) : State := modSvcCore core (fun c => { c with trap := some cause }) s

/-- Write an integer register of a service core: x0 stays 0. -/
def svcSetX (core rd v : Nat) (s : State) : State :=
  if rd = 0 then s else modSvcCore core (fun c => { c with x := putNz c.x rd (v % 2 ^ 64) }) s

/-! ## Physical memory behind firmware -/

/-- Bytes at a physical address. -/
def physRead (s : State) (a n : Nat) : List Byte := (List.range n).map fun i => tgetD s.svc.phys (a + i) 0

/-- Write bytes at a physical address; reservations on the block are lost (R218). -/
def physWrite (a : Nat) (bs : List Byte) (s : State) : State :=
  let ps := (List.range bs.length).zip bs
  modSvc (fun v => { v with
    phys := ps.foldl (fun m p => if p.2 = 0 then tdel m (a + p.1) else tput m (a + p.1) p.2) v.phys
    cores := tmapv v.cores fun _ (c : SvcCore) =>
      match c.resv with
      | some (false, b) => if b = a / 64 then { c with resv := none } else c
      | _ => c }) s

/-! ## The data cache (R217, R218) -/

/-- Key of a byte in a service core's cache: of an object, or of a physical address. -/
def svcKey (p : SvcPlace) : Option Nat :=
  match p with
  | .obj slot off => some (memKey slot off)
  | .phys a => some (2 ^ 64 + a)
  | _ => none

/-- Write one dirty byte back. -/
def svcWriteByte (k : Nat) (b : Byte) (s : State) : State :=
  if 2 ^ 64 ≤ k then physWrite (k - 2 ^ 64) [b] s
  else if thas s.mems (k / 2 ^ 40) then storeBlk (k / 2 ^ 40) (k % 2 ^ 40) [b] s
  else s

/-- Write back and clean the dirty bytes of a core that a test on their key names. -/
def svcClean (core : Nat) (p : Nat → Bool) (s : State) : State :=
  let ds := (svcAt s core).dirty.filter fun e => p e.1
  let s := ds.foldl (fun s e => svcWriteByte e.1 e.2 s) s
  modSvcCore core (fun c => { c with dirty := c.dirty.filter fun e => !p e.1 }) s

/-- Is a key in the 64 B block of another? -/
def sameBlock (k j : Nat) : Bool := decide (k / 64 = j / 64)

/-- One store of an ordinary instruction, byte by byte: none where it is an access that faults. -/
def svcStore (core : Nat) (s : State) (e : Nat × List Byte) : Option (List (Nat × Byte)) :=
  ((List.range e.2.length).zip e.2).mapM fun p =>
    match svcPlace s core (e.1 + p.1) 1 with
    | .obj slot off =>
      (match (svcAt s core).task with
       | some (l, t) => if writeFaults s l t slot off 1 then none else (svcKey (.obj slot off)).map fun k => (k, p.2)
       | none => none)
    | .phys a => (svcKey (.phys a)).map fun k => (k, p.2)
    | _ => none

/-- Merge what ordinary stores wrote into the cache: an access that faults is an execution fault of a user task, an access
fault to firmware; `f` goes on otherwise. -/
def withStores (core : Nat) (stored : List (Nat × List Byte)) (f : State → State) (s : State) : State :=
  match stored.mapM (svcStore core s) with
  | some ks => f (modSvcCore core (fun c => { c with dirty := ks.flatten.foldl (fun m e => tput m e.1 e.2) c.dirty }) s)
  | none =>
    match (svcAt s core).task with
    | some (l, t) => execFault l t s
    | none => svcTrap core Trap.store s

/-! ## LR, SC, AMO (R213, R218) -/

/-- A read-modify-write of a core at a place: the old value to `rd`, the new value, where there is one, to memory. -/
def svcRmw (core rd : Nat) (p : SvcPlace) (size : Nat) (upd : Nat → Option Nat) (res : Nat → Nat) (s : State) : State :=
  match p with
  | .obj slot off =>
    (match (svcAt s core).task with
     | some (l, t) =>
       if poisonedIn s slot off size || lostIn s slot off size then failTask l t true s
       else
         let s := svcClean core (sameBlock (memKey slot off)) s
         let old := ofLe (readMem s (.task l t) slot off size)
         match upd old with
         | some v =>
           if writeFaults s l t slot off size then execFault l t s
           else svcSetX core rd (res old) (storeMem (.task l t) slot off (leBytes size v) s)
         | none => svcSetX core rd (res old) s
     | none => s)
  | .phys a =>
    let s := svcClean core (sameBlock (2 ^ 64 + a)) s
    let old := ofLe (physRead s a size)
    (match upd old with
     | some v => svcSetX core rd (res old) (physWrite a (leBytes size v) s)
     | none => svcSetX core rd (res old) s)
  | .fault l t => execFault l t s
  | .trap => svcTrap core Trap.store s

/-- A 32-bit result is sign-extended into its register. -/
def svcExt (size v : Nat) : Nat := if size = 4 then twos (signedOf v 32) 64 else v

/-- The block a reservation is held on. -/
def resvOf (p : SvcPlace) : Option (Bool × Nat) :=
  match p with
  | .obj slot off => some (true, lineKey slot off)
  | .phys a => some (false, a / 64)
  | _ => none

/-- LR_SC: a store-conditional writes only while the core's reservation on the block stands, and ends it. -/
def execLrSc (core : Nat) (i : LrSc) (s : State) : Host.Outcome State Fault Refusal :=
  .next (
    if !svcUp s core then s
    else
      match i with
      | .lr rd a size =>
        let p := svcPlace s core a size
        if p = .trap then svcTrap core Trap.load s
        else
          let s' := svcRmw core rd p size (fun _ => none) (svcExt size) s
          (match resvOf p with
           | some r => if (svcAt s' core).task = (svcAt s core).task then modSvcCore core (fun c => { c with resv := some r }) s' else s'
           | none => s')
      | .sc rd a size v =>
        let p := svcPlace s core a size
        let held := decide (resvOf p ≠ none) && decide ((svcAt s core).resv = resvOf p)
        let s' := svcRmw core rd p size (fun _ => if held then some (v % 2 ^ (8 * size)) else none)
          (fun _ => if held then 0 else 1) s
        modSvcCore core (fun c => { c with resv := none }) s')

/-- An instruction that no extension of Table 08-6 has: an execution fault of a user program (R225), a trap to firmware. -/
def svcIllegal (core : Nat) (s : State) : State :=
  match (svcAt s core).task with
  | some (l, t) => execFault l t s
  | none => svcTrap core Trap.illegal s

/-- AMO: 32-bit or 64-bit; Zacas is not present. -/
def execAmo (core : Nat) (op : AtomOp) (rd addr value size : Nat) (s : State) : Host.Outcome State Fault Refusal :=
  .next (
    if !svcUp s core then s
    else
      match op with
      | .cas _ => svcIllegal core s
      | op =>
        if size = 4 ∨ size = 8 then
          svcRmw core rd (svcPlace s core addr size) size
            (fun old => some (atomNew (8 * size) op old (value % 2 ^ (8 * size)))) (svcExt size) s
        else svcIllegal core s)

/-! ## Cache-block instructions and fences (R218) -/

/-- Write back a block's dirty bytes. -/
def cboBlock (core addr : Nat) (stored : List (Nat × List Byte)) (s : State) : State :=
  if !svcUp s core then s
  else
    withStores core stored (fun s =>
      match svcPlace s core addr 1 with
      | .fault l t => execFault l t s
      | .trap => svcTrap core Trap.store s
      | p =>
        match svcKey p with
        | some k => svcClean core (sameBlock k) s
        | none => s) s

/-- CBO_CLEAN -/
def execCboClean (core addr : Nat) (stored : List (Nat × List Byte)) (s : State) : Host.Outcome State Fault Refusal :=
  .next (cboBlock core addr stored s)

/-- CBO_FLUSH: clean lines hold nothing the model keeps, so dropping the block adds nothing to its write-back. -/
def execCboFlush (core addr : Nat) (stored : List (Nat × List Byte)) (s : State) : Host.Outcome State Fault Refusal :=
  .next (cboBlock core addr stored s)

/-- CBO_INVAL: performed as cbo.flush. -/
def execCboInval (core addr : Nat) (stored : List (Nat × List Byte)) (s : State) : Host.Outcome State Fault Refusal :=
  .next (cboBlock core addr stored s)

/-- FENCE: it orders the core's own accesses and writes nothing back; the commands of a core come in that order. -/
def execFence (_core : Nat) (s : State) : Host.Outcome State Fault Refusal := .next s

/-- FENCE_I: the instruction cache holds only bytes that memory holds too, which the model does not keep apart. -/
def execFenceI (_core : Nat) (s : State) : Host.Outcome State Fault Refusal := .next s

/-! ## User environment calls (R225, Table 08-11) -/

/-- What a core without a data cache of its own for the ranges does at the end of a task: dirty bytes in the ranges of its
output DATA tokens go to memory (R211, R225), its EVENT outputs are signalled, and its exit action begins (R124). -/
def taskStops (l t : Nat) (overrun : Bool) (k : CoreKind) (core : Nat) (s : State) : State :=
  match findLaunch s l with
  | none => s
  | some x =>
    match launchGraph s x, taskRec s x t with
    | some g, some r =>
      let s := modLaunch l (fun x => { x with tasks := tput x.tasks t (.exiting k core)
                                              nOver := if overrun then x.nOver + 1 else x.nOver }) s
      settle (eventWork x g r false) s
    | _, _ => s

/-- Is a byte of an object in a list of ranges? -/
def keyIn (rs : List (Nat × Nat × Nat)) (k : Nat) : Bool :=
  rs.any fun e => decide (e.1 = k / 2 ^ 40) && decide (e.2.1 ≤ k % 2 ^ 40) && decide (k % 2 ^ 40 < e.2.1 + e.2.2)

/-- Do 64 B lines of a list of ranges hold a byte? -/
def keyLineIn (rs : List (Nat × Nat × Nat)) (k : Nat) : Bool :=
  rs.any fun e => decide (e.1 = k / 2 ^ 40) && decide (e.2.1 < k % 2 ^ 40 / 64 * 64 + 64) && decide (k % 2 ^ 40 / 64 * 64 < e.2.1 + e.2.2)

/-- EXIT: a0 = 0 ends the task; any other value is an execution fault. -/
def execExit (core a0 : Nat) (overrun : Bool) (stored : List (Nat × List Byte)) (s : State) : Host.Outcome State Fault Refusal :=
  .next (
    match (svcAt s core).task with
    | some (l, t) =>
      if !svcUp s core then s
      else
        withStores core stored (fun s =>
          if a0 ≠ 0 then execFault l t s
          else
            match findLaunch s l with
            | some x =>
              (match launchGraph s x, taskRec s x t with
               | some g, some r => taskStops l t overrun .service core (svcClean core (keyIn (outRanges x g r)) s)
               | _, _ => s)
            | none => s) s
    | none => s)

/-- ENV_CALL_ARGBASE -/
def execEnvCallArgbase (core k : Nat) (s : State) : Host.Outcome State Fault Refusal :=
  .next (
    match (svcAt s core).task with
    | some (l, t) =>
      if !svcUp s core then s
      else
        (match findLaunch s l with
         | some x =>
           match argBase s x k with
           | some v => svcSetX core 10 v s
           | none => execFault l t s
         | none => s)
    | none => s)

/-- TIME -/
def execTime (core : Nat) (s : State) : Host.Outcome State Fault Refusal :=
  .next (if svcUp s core && (svcAt s core).task.isSome then svcSetX core 10 (timeBase s) s else s)

/-! ## Errors (R223) -/

/-- A service core fails: a core open to user programs enters an engine reset; so does another, unless it is a supervisor
or was reset within the last second, which makes it a fault of the partition. -/
def svcFails (n cls : Nat) (s : State) : State :=
  let again := (svcAt s n).times.any fun t => decide (s.now < t + 1000000000)
  if svcUser s n then unitFault (unitOf 2 n) cls false 0 s
  else if n % 8 = 0 || again then partitionFault (n / 8) cls true (unitOf 2 n) 0 s
  else unitFault (unitOf 2 n) cls false 0 s

/-- May a service core report an error: its partition holds power and is in service? -/
def svcLives (s : State) (n : Nat) : Bool := decide (n < 32) && s.svc.running && !partOff s (n / 8) && !partInReset s (n / 8)

/-- SERVICE_CORE_ERROR -/
def execServiceCoreError (core : Nat) (s : State) : Host.Outcome State Fault Refusal :=
  .next (if svcLives s core then svcFails core Cls.engineHw s else s)

/-- FIRMWARE_STALL: a firmware service makes no progress for 10 ms. -/
def execFirmwareStall (core : Nat) (s : State) : Host.Outcome State Fault Refusal :=
  .next (if svcLives s core && !(svcAt s core).task.isSome then svcFails core Cls.fwStall s else s)

end Sys2Proof.Machine
end

