-- ==== Sys2Proof/Machine/Tasks.lean ====
section
/-!
DEFINITION. Sys2Proof/Machine/Tasks.lean: launches, placement, the end of tasks, and provisional generations (chapter 05).
-/
namespace Sys2Proof.Machine

/-! ## Starting a launch (R123, R134 to R138) -/

/-- What a launch asks for: from a LAUNCH_GRAPH descriptor or from the schedule runner (R369). -/
structure LaunchReq where
  /-- Context slot -/
  ctx : Nat
  /-- Function -/
  fn : Nat
  /-- GRAPH slot -/
  graph : Nat
  /-- ARGS handle or 0 -/
  args : Nat
  /-- ARGS_OFFSET -/
  argsOff : Nat
  /-- GUARD event slot -/
  guard : Option Nat
  /-- USER_TAG -/
  tag : Nat
  /-- NO_FALLBACK -/
  noFallback : Bool
  /-- Issued by the schedule runner -/
  byRunner : Bool
  /-- Queue pair -/
  qp : Nat
  /-- Submission number -/
  sub : Nat
  deriving DecidableEq, Repr

/-- The handles of the launch argument table (R120). -/
def argHandles (s : State) (a : Accessor) (r : LaunchReq) (n : Nat) : List Nat :=
  (List.range n).map fun k => ofLe (readMem s a (hSlot r.args) (r.argsOff + 8 * k) 4)

/-- R78 for the kinds that the tokens need of an argument, and the ranges of the tokens that use it: the refusal that
argument `k` gives. -/
def argFail (s : State) (r : LaunchReq) (g : Graph) (k h : Nat) : Option Result :=
  let uses := g.tokens.filter fun (t : TokRec) => decide (t.arg = k) && (decide (t.kind = .event) || decide (0 < t.len))
  let bad := fun (st : Nat) => { refuse st 28 with value := k }
  firstFail (uses.map fun (t : TokRec) =>
    let kind := if t.kind = .event then Hk.ev else Hk.mem
    match hCheck s r.fn (some r.ctx) kind h with
    | .aborting => some (bad St.refusedState)
    | .bad => some (bad St.refusedHandle)
    | .ok => if t.kind ≠ .event ∧ objSize s h < t.off + t.len then some (bad St.refusedHandle) else none)

/-- Check 2 of R123 over all arguments, in order. -/
def argsFail (s : State) (r : LaunchReq) (g : Graph) (hs : List Nat) : Option Result :=
  firstFail ((numbered hs).map fun (p : Nat × Nat) => argFail s r g p.1 p.2)

/-- The granules a generation reserves (R137): of the ranges of the output DATA tokens of PROV tasks, as object slot,
first granule and granule count. -/
def provSpans (x : Launch) (g : Graph) : List (Nat × Nat × Nat) :=
  ((g.tasks.filter fun (r : TaskRec) => r.prov).map fun (r : TaskRec) =>
    (outRanges x g r).map fun e => (e.1, e.2.1 / 65536, (e.2.1 + e.2.2 + 65535) / 65536 - e.2.1 / 65536)).flatten

/-- Granules in the union of spans. -/
def spanUnion : List (Nat × Nat × Nat) → Nat
  | [] => 0
  | e :: l =>
    ((List.range e.2.2).filter fun i => !l.any fun f => decide (f.1 = e.1) && decide (f.2.1 ≤ e.2.1 + i) && decide (e.2.1 + i < f.2.1 + f.2.2)).length
      + spanUnion l

/-- Generations of a context that are outstanding (R138). -/
def outstanding (s : State) (c : Nat) : List Generation :=
  s.tsk.gens.filter fun (g : Generation) => g.ctx = c && decide (g.state ≠ .resolved)

/-- K_launch and whether the launch is stepped, from its context (R193). -/
def launchDraws (s : State) (r : LaunchReq) (g : Graph) : Bool × BitVec 64 :=
  match tget s.ctxs r.ctx with
  | some c => (c.mode, launchKey c.seed s.wmk.step r.tag (ofLe (leBytes 8 g.digest.toNat)))
  | none => (false, 0)

/-- The launch a request makes. -/
def launchNew (s : State) (r : LaunchReq) (g : Graph) (hs : List Nat) : Launch :=
  let d := launchDraws s r g
  { id := s.tsk.nextLaunch, ctx := r.ctx, graph := r.graph, qp := r.qp, sub := r.sub, byRunner := r.byRunner, args := hs
    argsObj := if r.args = 0 then none else some (hSlot r.args), tag := r.tag, guard := r.guard, noFallback := r.noFallback
    toks := [], tasks := [], nOk := 0, nBad := 0, nFall := 0, nOver := 0, poisoned := false, broken := false, removed := false
    cancelled := false, committed := false, discarded := false, conflict := false, flags := 0, stepped := d.1, key := d.2 }

/-- A launch starts (R124, R125): LAUNCH tokens and EVENT tokens of signalled events are present, tasks with no input
fire. -/
def launchBegin (x : Launch) (g : Graph) (space : Nat) (s : State) : State :=
  let s := modTsk (fun t => { t with
    launches := t.launches ++ [x], nextLaunch := t.nextLaunch + 1
    gens := match x.guard with
      | some gd =>
        t.gens ++ [{ id := t.nextGen, ctx := x.ctx, launch := x.id, guard := gd, state := .open, conflict := false
                     space := space, versions := [], bytes := [] }]
      | none => t.gens
    nextGen := if x.guard.isSome then t.nextGen + 1 else t.nextGen }) s
  let toks := (numbered g.tokens).filterMap fun (p : Nat × TokRec) =>
    match p.2.kind with
    | .launch => some (Work.tok x.id p.1 false)
    | .event =>
      match (tokEvent x p.2).bind (tget s.evs) with
      | some e => if e.signalled then some (Work.tok x.id p.1 e.error) else none
      | none => none
    | .data => none
  let free := ((numbered g.tasks).filter fun (p : Nat × TaskRec) => p.2.ins.isEmpty).map Prod.fst
  let (w, s) := fireTasks x.id free s
  settle (toks ++ w) s

/-- Check and start a launch; the refusal, where it is refused. The graph handle, the ARGS range and the GUARD have been
checked. -/
def launchTry (a : Accessor) (r : LaunchReq) (s : State) : Option Result × State :=
  match tget s.tsk.graphs r.graph with
  | none => (some (refuse St.refusedHandle 24), s)
  | some g =>
    if g.state ≠ .loaded then (some (refuse St.refusedState 24), s)
    else if 0 < g.nArgs ∧ r.args = 0 then (some { refuse St.refusedHandle 28 with value := 0 }, s)
    else
      let s := if g.nArgs = 0 then s else touch (hSlot r.args) r.argsOff (8 * g.nArgs) false s
      if decide (0 < g.nArgs) && poisonedIn s (hSlot r.args) r.argsOff (8 * g.nArgs) then (some (resOf St.poisoned), s)
      else
        let hs := argHandles s a r g.nArgs
        match argsFail s r g hs with
        | some f => (some f, s)
        | none =>
          if r.guard.isSome && decide (2 ≤ (outstanding s r.ctx).length) then (some (refuse St.retryLater 40), s)
          else
            let x := launchNew s r g hs
            let space := if r.guard.isSome then 65536 * spanUnion (provSpans x g) else 0
            let need := launchBytes g + space
            if need ≤ shareLeft s r.fn then (none, launchBegin x g space s)
            else if need ≤ shareLeft s r.fn + launchHeld s r.fn + versionHeld s r.fn then (some (refuse St.retryLater 24), s)
            else (some (refuse St.refusedState 24), s)

/-- What a started LAUNCH_GRAPH does. A launch of the schedule runner that meets RETRY_LATER is kept for LAUNCH_RETRY
(R369). -/
def launchNow (qp sub : Nat) (s : State) : State :=
  onStarted 0x38 qp sub (fun d s =>
    let n := match tget s.tsk.graphs (hSlot (dfld d 24 4)) with
      | some g => g.nArgs
      | none => 0
    let args := dfld d 28 4
    let guardH := dfld d 40 4
    match descCtx s d with
    | none => s
    | some c =>
      guarded d
        [needH s d Hk.graph 24, needH0 s d Hk.mem 28,
         (if args = 0 then none else needRange s args (dfld d 32 8) (8 * n) 32),
         (if guardH = 0 then none else needOwnEv s d 40)] (fun s =>
          let r : LaunchReq :=
            { ctx := c, fn := d.fn, graph := hSlot (dfld d 24 4), args := args, argsOff := dfld d 32 8
              guard := if guardH = 0 then none else some (hSlot guardH), tag := dTag d, noFallback := bitOf (dfld d 44 1) 0
              byRunner := byRun sub, qp := qp, sub := sub }
          match launchTry (.desc qp sub) r s with
          | (some f, s) =>
            if byRun sub ∧ f.status = St.retryLater then modDesc qp sub (fun d => { d with note := 1 }) s
            else endDesc qp sub f s
          | (none, s) => runDesc qp sub 0 s) s) s

/-- Does a launch of the schedule runner wait to be issued again (R369)? -/
def retryDue (s : State) (qp sub : Nat) : Bool :=
  match findDesc s qp sub with
  | some d => byRun sub && decide (d.phase = .started) && decide (d.note = 1)
  | none => false

/-- LAUNCH_GRAPH -/
def execLaunchGraph (qp sub : Nat) (s : State) : Host.Outcome State Fault Refusal :=
  .next (if retryDue s qp sub then s else launchNow qp sub s)

/-! ## Ready queues (R130) -/

/-- OVERFLOW_MOVE: entries have freed in a partition's ready queue; the oldest overflow task moves in. -/
def execOverflowMove (part : Nat) (s : State) : Host.Outcome State Fault Refusal :=
  .next (
    let ovf := (s.tsk.launches.map fun (x : Launch) => x.tasks.filterMap fun (e : Nat × TaskState) =>
      match e.2 with
      | .overflow q f => if q = part then some (f, x.id, e.1) else none
      | _ => none).flatten
    if readyCount s part < 65536 then
      match minBy (fun (e : Nat × Nat × Nat) => e.1) ovf with
      | some (f, l, t) => setTask l t (.ready part f) s
      | none => s
    else s)

/-! ## Placement (R129, R131) -/

/-- Where a task may go now: its class after fallback, and whether it fell back (R131). -/
def placeNow (s : State) (r : TaskRec) : PlaceClass × Nat × Bool :=
  match r.place with
  | .any => (.any, 0, false)
  | .partition => if partOff s r.index then (.any, 0, true) else (.partition, r.index, false)
  | .cluster =>
    if partOff s (r.index / 16) then (.any, 0, true)
    else if cluRetired s r.index then (.partition, r.index / 16, true)
    else (.cluster, r.index, false)

/-- The cores of a kind in the set a class names. -/
def coresIn (k : CoreKind) (cls : PlaceClass) (i : Nat) : List Nat :=
  match cls with
  | .any => ((List.range 4).map (coresOfPart k)).flatten
  | .partition => coresOfPart k i
  | .cluster => coresOfCluster k i

/-- Tasks that hold a core: launch, task and COST_NS. -/
def tasksAt (s : State) (k : CoreKind) (core : Nat) : List (Nat × Nat × Nat) :=
  (s.tsk.launches.map fun (x : Launch) => x.tasks.filterMap fun (e : Nat × TaskState) =>
    if taskCore e.2 = some (k, core) then some (x.id, e.1, ((taskRec s x e.1).map TaskRec.cost).getD 0) else none).flatten

/-- Load of a core: the sum of COST_NS over its tasks. -/
def coreLoad (s : State) (k : CoreKind) (core : Nat) : Nat := ((tasksAt s k core).map fun e => e.2.2).sum

/-- Is a core in service: cluster and partition in service, not masked, not under reset? A cluster in COOLDOWN takes only
tasks that name it. -/
def coreUp (s : State) (k : CoreKind) (core : Nat) (named : Bool) : Bool :=
  let u := coreUnit k core
  let cool := fun (c : Nat) => named || decide (cluPlanState s c ≠ 1)
  !unitInReset s u && !s.flt.masked.contains u && !partInReset s (unitPart u) &&
    (match k with
     | .service => svcUser s core && svcUp s core
     | .vector => cluInService s (core / 160) && !vcoreMasked s core && cool (core / 160)
     | .matrix => cluInService s core && !(subsInService (engAt s core).mask 0).isEmpty && cool core
     | .mover => cluInService s core && cool core)

/-- Is a core eligible (R129)? -/
def eligible (s : State) (k : CoreKind) (named : Bool) (core : Nat) : Bool :=
  coreUp s k core named && decide ((tasksAt s k core).length < coreSlots k)

/-- The core a task goes to: the eligible one with the least load, the lowest index on a tie. -/
def placeCore (s : State) (r : TaskRec) : Option (CoreKind × Nat) :=
  match kindCore r.kind with
  | none => none
  | some k =>
    let p := placeNow s r
    (minBy (coreLoad s k) ((coresIn k p.1 p.2.1).filter (eligible s k (decide (p.1 = .cluster))))).map fun c => (k, c)

/-- A ready task that the scheduler can act on: place it, or fail it under NO_FALLBACK. -/
structure Cand where
  /-- Context PRIORITY -/
  prio : Nat
  /-- Function -/
  fn : Nat
  /-- Firing number -/
  fired : Nat
  /-- Launch -/
  launch : Nat
  /-- Task -/
  task : Nat
  /-- The core, or none where it fails. -/
  core : Option (CoreKind × Nat)
  deriving DecidableEq, Repr

/-- The tasks of a partition's queue that have an eligible core or fail under NO_FALLBACK. -/
def candsOf (s : State) (part : Nat) : List Cand :=
  (s.tsk.launches.map fun (x : Launch) => x.tasks.filterMap fun (e : Nat × TaskState) =>
    match e.2, taskRec s x e.1, tget s.ctxs x.ctx with
    | .ready q f, some r, some c =>
      if q ≠ part then none
      else
        let mk := fun core => ({ prio := c.prio, fn := c.fn, fired := f, launch := x.id, task := e.1, core := core } : Cand)
        if x.noFallback && (placeNow s r).2.2 then some (mk none)
        else (placeCore s r).map fun k => mk (some k)
    | _, _, _ => none).flatten

/-- The first task in queue order (R131). -/
def candFirst (s : State) (part : Nat) : Option Cand :=
  let cs := candsOf s part
  match minBy (fun (c : Cand) => 3 - c.prio) cs with
  | none => none
  | some top =>
    let cs := cs.filter fun (c : Cand) => c.prio = top.prio
    match wrrPick (tgetD s.tsk.wrr part (0, 0)) (cs.map Cand.fn) with
    | none => none
    | some fn => minBy (fun (c : Cand) => c.fired * 2 ^ 64 + c.launch * 2 ^ 24 + c.task) (cs.filter fun (c : Cand) => c.fn = fn)

/-- A VECTOR task comes to a thread of a core (Table 08-2). -/
def startVector (l t core : Nat) (r : TaskRec) (rs : List (Nat × Nat × Nat)) (s : State) : State :=
  let s := entryAction core r rs s
  match firstFrom (fun i => !thas (vcoreAt s core).threads i) 8 0 with
  | none => s
  | some i =>
    let th : Thread :=
      { launch := l, task := t, v := [], m := [], x := putNz (putNz (putNz [] 1 r.imm) 2 t) 3 core, pc := r.code
        flags := 0, draws := [], pend := [], fence := false }
    modVCore core (fun v => { v with threads := tput v.threads i th }) s

/-- A MATRIX task comes to an engine: it runs, or is staged behind the running one (R147). -/
def startMatrix (l t core : Nat) (s : State) : State :=
  modEng core (fun e => engWake (match e.run with
    | none => { e with run := some (matTaskNew l t) }
    | some _ => { e with staged := some (matTaskNew l t) })) s

/-- A SERVICE task comes to a core: x10 = IMM, x11 = task index, x12 = core number. -/
def startService (l t core : Nat) (r : TaskRec) (rs : List (Nat × Nat × Nat)) (s : State) : State :=
  let s := if r.entry = 1 then svcClean core (keyLineIn rs) s else if r.entry = 2 then svcClean core (fun _ => true) s else s
  modSvcCore core (fun c => { c with task := some (l, t), x := putNz (putNz (putNz [] 10 r.imm) 11 t) 12 core, resv := none }) s

/-- Place a task on a core: it starts there, its entry action first (R128, R131). -/
def placeTask (l t : Nat) (k : CoreKind) (core : Nat) (s : State) : State :=
  match findLaunch s l with
  | none => s
  | some x =>
    match launchGraph s x, taskRec s x t with
    | some g, some r =>
      let rs := inRanges x g r
      let s := modLaunch l (fun x => { x with nFall := if (placeNow s r).2.2 then x.nFall + 1 else x.nFall }) s
      let s := setTask l t (.running k core) s
      (match k with
       | .vector => startVector l t core r rs s
       | .matrix => startMatrix l t core s
       | .service => startService l t core r rs s
       | .mover => s)
    | _, _ => s

/-- TASK_PLACE: a partition's scheduler places the first task in queue order that has an eligible core. -/
def execTaskPlace (part : Nat) (s : State) : Host.Outcome State Fault Refusal :=
  .next (
    match candFirst s part with
    | none => s
    | some c =>
      let s := modTsk (fun t => { t with wrr := tput t.wrr part (wrrNext s (tgetD t.wrr part (0, 0)) c.fn) }) s
      match c.core with
      | some (k, core) => placeTask c.launch c.task k core s
      | none => failTask c.launch c.task false s)

/-! ## The end of a task (R124, R126 to R128) -/

/-- The range of the first token of a list, or an empty one. -/
def firstRange (x : Launch) (g : Graph) (js : List Nat) : Option (Nat × Nat × Nat) := (tokRanges x g (js.take 1)).head?

/-- A MOVE task's copy from the range of input 0 to the range of output 0, and its end (Table 05-3). -/
def moveEnds (l t : Nat) (x : Launch) (g : Graph) (r : TaskRec) (overrun : Bool) (s : State) : State :=
  match firstRange x g r.ins, firstRange x g r.outs with
  | none, none => taskEnds l t overrun s
  | some (a, ao, n), some (b, bo, m) =>
    if n ≠ m || writeFaults s l t b bo m then execFault l t s
    else
      let s := touch a ao n false s
      if poisonedIn s a ao n || lostIn s b bo m then failTask l t true s
      else taskEnds l t overrun (storeMem (.task l t) b bo (readMem s (.task l t) a ao n) s)
  | _, _ => execFault l t s

/-- The flags of a thread's task join AFLAGS as the task ends (R197). -/
def threadFlags (core l t : Nat) (s : State) : State :=
  match (vcoreAt s core).threads.find? fun (e : Nat × Thread) => decide (e.2.launch = l) && decide (e.2.task = t) with
  | some (i, th) =>
    modVCore core (fun v => { v with threads := tput v.threads i { th with flags := 0 } }) (flagsToCtx l th.flags s)
  | none => s

/-- A task of a kind and core ends. A VECTOR or SERVICE task writes back what it stored in its output ranges, signals its
events and begins its exit action (R211). -/
def endOn (l t : Nat) (k : CoreKind) (core : Nat) (e : TaskEnd) (x : Launch) (g : Graph) (r : TaskRec) (s : State) : State :=
  match k, e with
  | .matrix, _ => s
  | .mover, .ended o => moveEnds l t x g r o s
  | .mover, _ => s
  | .vector, .ended o =>
    if unitsHeld s then s
    else
      let rs := outRanges x g r
      let s := cleanLines core (fun d i w => decide (w = (l, t)) && byteIn rs d i) s
      taskStops l t o .vector core (threadFlags core l t s)
  | .service, .ended o => taskStops l t o .service core (svcClean core (keyIn (outRanges x g r)) s)
  | _, .poison => failTask l t true s
  | _, .fault => execFault l t s

/-- TASK_END of a VECTOR, SERVICE or MOVE task that runs. -/
def execTaskEnd (launch task : Nat) (e : TaskEnd) (s : State) : Host.Outcome State Fault Refusal :=
  .next (
    match findLaunch s launch with
    | none => s
    | some x =>
      match taskState x task, launchGraph s x, taskRec s x task with
      | .running k core, some g, some r => endOn launch task k core e x g r s
      | _, _, _ => s)

/-- What the exit action of a task does on its core (Table 05-7). -/
def exitOn (k : CoreKind) (core : Nat) (r : TaskRec) (rs : List (Nat × Nat × Nat)) (s : State) : State :=
  match k with
  | .vector => exitAction core r rs s
  | .service =>
    if r.exit = 1 then svcClean core (keyLineIn rs) s else if 2 ≤ r.exit then svcClean core (fun _ => true) s else s
  | _ => s

/-- EXIT_ACTION_COMPLETE: the task's DATA outputs become present, its core slot is free. -/
def execExitActionComplete (launch task : Nat) (s : State) : Host.Outcome State Fault Refusal :=
  .next (
    match findLaunch s launch with
    | none => s
    | some x =>
      match taskState x task, launchGraph s x, taskRec s x task with
      | .exiting k core, some g, some r =>
        if decide (k = .vector) && unitsHeld s then s
        else
          let s := clearCores [(launch, task)] (exitOn k core r (outRanges x g r) s)
          let s := modLaunch launch (fun x => { x with tasks := tput x.tasks task .ended, nOk := x.nOk + 1 }) s
          settle (dataWork x g r false) s
      | _, _, _ => s)

/-! ## Generations (R139, R140) -/

/-- The generation of a number. -/
def findGen (s : State) (g : Nat) : Option Generation := s.tsk.gens.find? fun (h : Generation) => h.id = g

/-- Change a generation. -/
def modGen (g : Nat) (f : Generation → Generation) (s : State) : State :=
  modTsk (fun t => { t with gens := t.gens.map fun (h : Generation) => if h.id = g then f h else h }) s

/-- The guard's outcome: none while it is UNSIGNALLED, else commit or not; a guard that is gone discards. -/
def guardSays (s : State) (g : Generation) : Option Bool :=
  match tget s.evs g.guard with
  | none => some false
  | some e =>
    if e.aborting then some false
    else if e.signalled then some (!e.error && bitOf e.payload 0)
    else none

/-- The PROV tasks of a generation's launch. -/
def provTasks (s : State) (g : Generation) : List TaskState :=
  match findLaunch s g.launch with
  | some x =>
    match launchGraph s x with
    | some gr => ((numbered gr.tasks).filter fun (p : Nat × TaskRec) => p.2.prov).map fun (p : Nat × TaskRec) => taskState x p.1
    | none => []
  | none => []

/-- Is a generation the first of its context not yet resolved? -/
def genFirst (s : State) (g : Generation) : Bool :=
  (outstanding s g.ctx).all fun (h : Generation) => decide (g.id ≤ h.id)

/-- The outcome of a generation that is resolvable: none while it waits. A conflict and the removal of its launch force a
discard. -/
def genOutcome (s : State) (g : Generation) : Option Bool :=
  let gone := match findLaunch s g.launch with
    | some x => launchStopped x
    | none => true
  if g.conflict || gone then some false
  else
    match guardSays s g with
    | some false => some false
    | some true =>
      if (provTasks s g).any taskLive then none
      else some ((provTasks s g).all fun st => decide (st = .ended))
    | none => none

/-- GENERATION_RESOLVABLE: the oldest outstanding generation of a context takes its outcome. -/
def execGenerationResolvable (gen : Nat) (s : State) : Host.Outcome State Fault Refusal :=
  .next (
    match findGen s gen with
    | none => s
    | some g =>
      if decide (g.state = .open) && genFirst s g then
        match genOutcome s g with
        | some true => modGen gen (fun g => { g with state := .committing }) s
        | some false => discardGens g.ctx g.id s
        | none => s
      else s)

/-- The tasks and descriptors that have started and not ended, those of later generations left out: they read the old
committed version (R139). -/
def readersNow (s : State) : List Accessor :=
  ((s.tsk.launches.map fun (x : Launch) => x.tasks.filterMap fun (e : Nat × TaskState) =>
    match e.2 with
    | .running _ _ => if (genOf s (.task x.id e.1)).isNone then some (Accessor.task x.id e.1) else none
    | .exiting _ _ => if (genOf s (.task x.id e.1)).isNone then some (Accessor.task x.id e.1) else none
    | _ => none).flatten)
    ++ (s.cmd.descs.filter fun (d : Desc) => dRuns d && !([0x38, 0x43, 0x82, 0x83].contains (dOp d))).map fun (d : Desc) => Accessor.desc d.qp d.sub

/-- Put the bytes of a generation's versions in the committed versions, keeping what they replace for readers. -/
def commitBytes (g : Generation) (s : State) : State :=
  let s := cowGrans g.versions s
  let readers := readersNow s
  let old : OldVersion :=
    { gen := g.id, granules := g.versions, bytes := tmapv g.bytes fun k _ => cellGet s.mem k, readers := readers }
  let s := { s with mem := g.bytes.foldl (fun m e => cellPut m e.1 e.2) s.mem }
  if readers.isEmpty then s else modTsk (fun t => { t with olds := old :: t.olds }) s

/-- A committed generation's marked lines are ordinary dirty lines from now on (R214). -/
def unmarkLines (l : Nat) (s : State) : State :=
  modVcu (fun v => { v with cores := tmapv v.cores fun _ (c : VCore) =>
    { c with lines := c.lines.map fun (d : DLine) =>
        match d.mark with
        | some (x, _) => if x = l then { d with mark := none } else d
        | none => d } }) s

/-- COMMIT_POINT -/
def execCommitPoint (gen : Nat) (s : State) : Host.Outcome State Fault Refusal :=
  .next (
    match findGen s gen with
    | none => s
    | some g =>
      if g.state = .committing then
        let s := unmarkLines g.launch (commitBytes g s)
        let s := modGen gen (fun g => { g with state := .resolved, versions := [], bytes := [] }) s
        modLaunch g.launch (fun x => { x with committed := true }) s
      else s)

/-- VERSION_SPACE_RETURN -/
def execVersionSpaceReturn (gen : Nat) (s : State) : Host.Outcome State Fault Refusal :=
  .next (
    match findGen s gen with
    | none => s
    | some g =>
      if g.state = .resolved then
        modTsk (fun t => { t with gens := t.gens.filter fun (h : Generation) => h.id ≠ gen }) s
      else s)

/-- Has a reader not yet ended? -/
def readerLives (s : State) (a : Accessor) : Bool :=
  match a with
  | .task l t =>
    match findLaunch s l with
    | some x => taskLive (taskState x t)
    | none => false
  | .desc qp sub =>
    match findDesc s qp sub with
    | some d => dRuns d
    | none => false
  | .coll _ => false
  | .block => false

/-- OLD_GRANULE_FREE -/
def execOldGranuleFree (gen : Nat) (s : State) : Host.Outcome State Fault Refusal :=
  let keep := fun (o : OldVersion) => decide (o.gen ≠ gen) || o.readers.any (readerLives s)
  .next (modTsk (fun t => { t with olds := t.olds.filter keep }) s)

/-! ## Opcodes (R142) -/

/-- LAUNCH_CANCEL -/
def execLaunchCancel (qp sub : Nat) (s : State) : Host.Outcome State Fault Refusal :=
  .next (onStarted 0x50 qp sub (fun d s =>
    guarded d [needH s d Hk.graph 24] (fun s =>
      let ls := s.tsk.launches.filter fun (x : Launch) =>
        decide (x.graph = hSlot (dfld d 24 4)) && decide (some x.ctx = descCtx s d) && !x.cancelled
      let s := stopLaunches (ls.map Launch.id) true s
      let gens := s.tsk.gens.filter fun (g : Generation) => decide (g.state ≠ .resolved) && ls.any fun (x : Launch) => decide (x.id = g.launch)
      let s := gens.foldl (fun s (g : Generation) => discardGens g.ctx g.id s) s
      endDesc qp sub { rDone with aux := ls.length } s) s) s)

/-- PROV_DISCARD -/
def execProvDiscard (qp sub : Nat) (s : State) : Host.Outcome State Fault Refusal :=
  .next (onStarted 0x51 qp sub (fun d s =>
    match descCtx s d with
    | some c => endDesc qp sub { rDone with aux := (outstanding s c).length } (discardGens c 0 s)
    | none => s) s)

/-- Does the oldest outstanding generation wait only on its guard? -/
def waitsOnGuard (s : State) (c : Nat) : Bool :=
  match (outstanding s c).head? with
  | some g => decide (g.state = .open) && !(provTasks s g).any taskLive && (guardSays s g).isNone
  | none => false

/-- PROV_QUERY -/
def execProvQuery (qp sub : Nat) (s : State) : Host.Outcome State Fault Refusal :=
  .next (onStarted 0x52 qp sub (fun d s =>
    match descCtx s d with
    | some c =>
      let space := ((s.tsk.gens.filter fun (g : Generation) => g.ctx = c).map Generation.space).sum
      endDesc qp sub { rDone with aux := (outstanding s c).length, value := space, flags := bitAt (waitsOnGuard s c) 0 } s
    | none => s) s)

end Sys2Proof.Machine
end

