-- ==== Sys2Proof/Machine/Collect.lean ====
section
/-!
DEFINITION. Sys2Proof/Machine/Collect.lean: collective groups and triggered operations: posting, shards and segments, the
sums, the exchange, switch assistance, losses and failures (chapter 13).
-/
namespace Sys2Proof.Machine

/-! ## Records (R338, R339) -/

/-- Bytes of an element of a type (Table 13-4). -/
def tySize (t : Nat) : Nat := if t = 0 then 4 else if t = 1 then 2 else if t = 2 then 1 else if t = 3 then 16 else 2

/-- Does a kind reduce? -/
def kindReduces (k : Nat) : Bool := decide (k = 1) || decide (k = 3)

/-- OP of RED: 0 SUM, 1 MAX, 2 MIN. -/
def redOp (r : Nat) : Nat := bitsOf r 0 2

/-- SUM with SUM_MODE FIXED_WINDOW? -/
def redWindow (r : Nat) : Bool := decide (redOp r = 0) && decide (bitsOf r 2 2 = 1)

/-- EXP_EXT -/
def redExt (r : Nat) : Bool := bitOf r 5

/-- Is an input type one that a kind and RED allow (Tables 13-3, 13-4)? -/
def inTypeOk (kind ty red : Nat) : Bool :=
  if kindReduces kind then
    decide (ty ≤ 1) || (decide (ty = 3) && redWindow red) || (decide (ty = 4) && decide (redOp red ≠ 0))
  else decide (ty ≤ 2)

/-- Is an output type one that an input type and RED allow? -/
def outTypeOk (kind ty out red : Nat) : Bool :=
  if kindReduces kind then
    (if ty = 4 then decide (out = 4) else decide (out ≤ 1) || (decide (out = 3) && redWindow red))
  else true

/-- The upper limit of SEG_ELEMS (R351). -/
def segLimit (kind ty red : Nat) : Nat :=
  if kindReduces kind then (if redWindow red then 8192 else 32768) else 131072 / tySize ty / 256 * 256

/-- SEG_ELEMS as applied: a multiple of 256 up to a limit, 0 for the limit (R10, R351). -/
def segApply (v limit : Nat) : Nat :=
  let lo := v / 256 * 256
  let n := if limit ≤ v then limit else if v - lo ≤ 128 then lo else lo + 256
  if n = 0 then limit else n

/-- Segments of an operation (R346). -/
def segCount (o : OpRec) : Nat := (o.count + o.seg - 1) / o.seg

/-- First segment of a rank's shard among `n` members. -/
def shardLo (o : OpRec) (n k : Nat) : Nat := k * segCount o / n

/-- Elements of a segment. -/
def segLen (o : OpRec) (g : Nat) : Nat := min ((g + 1) * o.seg) o.count - g * o.seg

/-- Elements before a segment. -/
def segStart (o : OpRec) (g : Nat) : Nat := min (g * o.seg) o.count

/-- Bytes that hold the segments `a … b − 1` in a type: WINDOW128 adds a header to each (R356). -/
def spanBytes (o : OpRec) (ty a b : Nat) : Nat :=
  (segStart o b - segStart o a) * tySize ty + (if ty = 3 then 16 * (b - a) else 0)

/-- Bytes of SRC that rank `k` of `n` must hold. -/
def srcBytes (o : OpRec) (n k : Nat) : Nat :=
  let all := spanBytes o o.dtype 0 (segCount o)
  if o.kind = 2 then spanBytes o o.dtype (shardLo o n k) (shardLo o n (k + 1))
  else if o.kind = 4 then (if k = o.root then all else 0)
  else if o.kind = 5 then n * all
  else all

/-- Bytes of DST that rank `k` of `n` must hold. -/
def dstBytes (o : OpRec) (n k : Nat) : Nat :=
  let outAll := spanBytes o o.outType 0 (segCount o)
  let inAll := spanBytes o o.dtype 0 (segCount o)
  if o.kind = 1 then spanBytes o o.outType (shardLo o n k) (shardLo o n (k + 1))
  else if o.kind = 3 then outAll
  else if o.kind = 5 then n * inAll
  else inAll

/-! ## Switch assistance (R352, R353) -/

/-- The CAPS of the optical port that routing table 23 gives for a node. -/
def capsToward (s : State) (node : Nat) : Option SwCaps :=
  match routeOf s 23 node none with
  | some p => if p < 15 then none else tget s.col.caps (p - 15)
  | none => none

/-- The CAPS under which an operation of a group may run through its switch, where every condition of R353 holds. -/
def switchCaps (s : State) (g : Group) (o : OpRec) : Option SwCaps :=
  if decide (o.kind = 3) && bitOf o.red 4 && s.col.switchEn && !confidential s && decide (redOp o.red = 0) && !redWindow o.red
      && decide (o.dtype ≤ 1) then
    match g.switch.bind (capsToward s) with
    | some c => if bitOf c.types o.dtype && decide (g.members.length ≤ c.maxMembers) then some c else none
    | none => none
  else none

/-- The limit a switch's memory puts on SEG_ELEMS: 4 segments of input bytes per member. -/
def switchSeg (c : SwCaps) (ty : Nat) : Nat := c.memKib * 1024 / 4 / tySize ty / 256 * 256

/-! ## TRIG_POST (R339, R340) -/

/-- The context's own event behind a handle of a record; a refusal at its field. -/
def recEv (s : State) (c h off : Nat) : Option Result :=
  if hKind h ≠ Hk.ev then some (refuse St.refusedHandle off)
  else hRefuse (hOwn ((tget s.evs (hSlot h)).map fun (e : Event) => (e.ctx, e.aborting)) (some c)) off

/-- The context's memory object behind a handle of a record. -/
def recMem (s : State) (c h off : Nat) : Option Result := hRefuse (hCheck s 0 (some c) Hk.mem h) off

/-- A record as read, with its numeric fields clamped, on a group. -/
def recOf (s : State) (c : Nat) (g : Group) (b : List Byte) : OpRec :=
  let f := fun off n => ofLe ((b.drop off).take n)
  let home := match tget s.ctxs c with
    | some x => x.home
    | none => 0
  let o : OpRec :=
    { kind := f 0 1, dtype := f 1 1, outType := f 2 1, red := f 3 1, part := if f 4 1 = 0xFF then home else f 4 1
      mask := if f 5 1 = 0 then 0xFF else f 5 1, root := f 6 2, trigger := hSlot (f 8 4)
      threshold := clampTo 1 (2 ^ 32 - 1) (f 12 4), complete := if f 16 4 = 0 then none else some (hSlot (f 16 4))
      group := f 20 2, tag := f 24 8, count := clampTo 1 (2 ^ 40) (f 32 8), src := hSlot (f 40 4), srcOff := f 48 8
      dst := if f 56 4 = 0 then none else some (hSlot (f 56 4)), dstOff := f 64 8
      exp := if f 72 4 = 0 then none else some (hSlot (f 72 4)), expOff := f 80 8
      status := if f 88 4 = 0 then none else some (hSlot (f 88 4)), statusOff := f 96 8
      seg := 256, timeout := clampZeroOr 1 60000 (f 108 4) }
  let limit := segLimit o.kind o.dtype o.red
  let limit := match switchCaps s g o with
    | some k => if 256 ≤ switchSeg k o.dtype then min limit (switchSeg k o.dtype) else limit
    | none => limit
  { o with seg := segApply (f 104 4) limit }

/-- The checks of R339 in ascending field order; the refusal names the field's offset in the record. -/
def recFail (s : State) (c : Nat) (g : Option Group) (b : List Byte) (o : OpRec) : Option Result :=
  let f := fun off n => ofLe ((b.drop off).take n)
  let n := match g with
    | some g => g.members.length
    | none => 1
  let k := match g with
    | some g => g.rank
    | none => 0
  let needSrc := !(decide (o.kind = 4) && decide (k ≠ o.root))
  let dstMay := decide (o.kind = 4) && decide (k = o.root)
  firstFail
    [ chk (1 ≤ o.kind && o.kind ≤ 5) St.refusedState 0,
      chk (inTypeOk o.kind o.dtype o.red) St.refusedState 1,
      chk (outTypeOk o.kind o.dtype o.outType o.red) St.refusedState 2,
      chk (redOp o.red ≤ 2 && bitsOf o.red 2 2 ≤ 1 && (!redExt o.red || redWindow o.red)) St.refusedState 3,
      chk (o.part ≤ 3 && !partOff s o.part) St.refusedHandle 4,
      chk (o.kind ≠ 4 || o.root < n) St.refusedHandle 6,
      recEv s c (f 8 4) 8,
      (if f 16 4 = 0 then none else recEv s c (f 16 4) 16),
      (match g with
       | some g => chk (g.ctx = c) St.refusedHandle 20
       | none => some (refuse St.refusedHandle 20)),
      (if needSrc then recMem s c (f 40 4) 40 else none),
      (if needSrc then chk (o.srcOff + srcBytes o n k ≤ objSize s (f 40 4)) St.refusedHandle 48 else none),
      (if f 56 4 = 0 && dstMay then none else recMem s c (f 56 4) 56),
      (if f 56 4 = 0 && dstMay then none else chk (o.dstOff + dstBytes o n k ≤ objSize s (f 56 4)) St.refusedHandle 64),
      (if redExt o.red then recMem s c (f 72 4) 72 else if f 72 4 = 0 then none else recMem s c (f 72 4) 72),
      (if redExt o.red then chk (o.expOff + 2 * segCount o ≤ objSize s (f 72 4)) St.refusedHandle 80 else none),
      (if f 88 4 = 0 then none else recMem s c (f 88 4) 88),
      (if f 88 4 = 0 then none
       else chk (o.statusOff % 16 = 0 && o.statusOff + 16 ≤ objSize s (f 88 4)) St.refusedHandle 96) ]

/-- The signature of an operation (R344). -/
def opSignature (base : Nat) (b : List Byte) (seg : Nat) : Nat :=
  (crc32c (leBytes 4 base ++ b.take 8 ++ (b.drop 32).take 8 ++ leBytes 4 seg)).toNat

/-- The group a record names. -/
def recGroup (s : State) (b : List Byte) : Option Group := tget s.col.groups (ofLe ((b.drop 20).take 2))

/-- An empty group, for records that name none. -/
def noGroup : Group := { ctx := 0, tag := 0, members := [], rank := 0, switch := none, base := 0, nextSeq := 0, held := [] }

/-- The first failing record of a post, with its index. -/
def postFail (s : State) (c : Nat) (rs : List (List Byte)) : Option (Nat × Result) :=
  (numbered rs).findSome? fun (p : Nat × List Byte) =>
    let g := recGroup s p.2
    (recFail s c g p.2 (recOf s c (g.getD noGroup) p.2)).map fun r => (p.1, r)

/-- Post one record: it takes the group's next OP_SEQ and a slot, meets an ABORT that waits for it, and fires at once where
its trigger is satisfied already (R340, R341, R362). -/
def postOne (c : Nat) (b : List Byte) (s : State) : List Work × State :=
  match recGroup s b with
  | none => ([], s)
  | some g =>
    let o := recOf s c g b
    let ab := g.held.find? fun (h : HeldCtl) => decide (h.sub = 5) && decide (h.seq = g.nextSeq)
    let t : TrigOp :=
      { id := s.col.nextOp, ctx := c, op := o, seq := g.nextSeq, sig := opSignature g.base b o.seg, state := .pending
        engine := leadEngine o.part o.mask, preAbort := ab.map HeldCtl.rank, segs := [], dones := [], readys := [], sentTo := []
        recvd := [], gathering := false, bytes := 0, flags := 0
        viaSwitch := match switchCaps s g o with
          | some k => decide (256 ≤ switchSeg k o.dtype)
          | none => false
        unacked := [], busy := [], fired := 0, access := false }
    let g' := { g with nextSeq := (g.nextSeq + 1) % 2 ^ 32
                       held := g.held.filter fun (h : HeldCtl) => !(decide (h.sub = 5) && decide (h.seq = g.nextSeq)) }
    let s := modCol (fun k => { k with ops := k.ops ++ [t], nextOp := k.nextOp + 1, groups := tput k.groups o.group g' }) s
    match tget s.evs o.trigger with
    | some e =>
      if opTriggered o.trigger e t then
        if e.error then opFail t Why.triggerError (opRank s t) true s else fireOp t s
      else ([], s)
    | none => ([], s)

/-- Post records in turn. -/
def postEach (c : Nat) : List (List Byte) → State → List Work × State
  | [], s => ([], s)
  | b :: l, s =>
    let (w, s) := postOne c b s
    let (w', s) := postEach c l s
    (w ++ w', s)

/-- The runner keeps the operations that its POST entries post (R368). -/
def postedBy (d : Desc) (c lo : Nat) (s : State) : State :=
  if byRun d.sub ∧ bitsOf (dTag d) 32 8 = 3 then
    { s with runners := tmod s.runners c fun (r : Runner) =>
        { r with posted := r.posted ++ (List.range (s.col.nextOp - lo)).map fun i => lo + i } }
  else s

/-- TRIG_POST -/
def execTrigPost (qp sub : Nat) (s : State) : Host.Outcome State Fault Refusal :=
  .next (onStarted 0x70 qp sub (fun d s =>
    match descCtx s d with
    | none => s
    | some c =>
      let h := dfld d 24 4
      let off := dfld d 32 8
      let n := clampTo 1 4096 (dfld d 40 4)
      guarded d [needH s d Hk.mem 24, needRange s h off (128 * n) 32] (fun s =>
        let s := touch (hSlot h) off (128 * n) false s
        if poisonedIn s (hSlot h) off (128 * n) then endD d (resOf St.poisoned) s
        else
          let rs := (List.range n).map fun i => readMem s (.desc qp sub) (hSlot h) (off + 128 * i) 128
          match postFail s c rs with
          | some (i, r) => endD d { refuse r.status 24 with value := 128 * i + r.aux } s
          | none =>
            let mine := (s.col.ops.filter fun (o : TrigOp) => o.ctx = c).length
            if 16384 < mine + n then endD d (resOf St.refusedState) s
            else if 131072 < s.col.ops.length + n then endD d (resOf St.retryLater) s
            else
              let lo := s.col.nextOp
              let (w, s) := postEach c rs s
              endD d { rDone with aux := n } (settle w (postedBy d c lo s))) s) s)

/-- TRIG_CANCEL -/
def execTrigCancel (qp sub : Nat) (s : State) : Host.Outcome State Fault Refusal :=
  .next (onStarted 0x71 qp sub (fun d s =>
    let tag := dfld d 24 8
    let mask := dfld d 32 8
    let p := fun (o : TrigOp) => decide (some o.ctx = descCtx s d) && decide (Nat.land o.op.tag mask = Nat.land tag mask)
    endD d { rDone with aux := (s.col.ops.filter p).length } (cancelOps p s)) s)

/-! ## Groups (R343, R344) -/

/-- The signature base of a group: CRC-32C over GROUP_TAG and the member list. -/
def groupBase (tag : Nat) (members : List Nat) : Nat :=
  (crc32c (leBytes 4 tag ++ (members.map (leBytes 4)).flatten)).toNat

/-- Does a list name a node twice? -/
def hasDup : List Nat → Bool
  | [] => false
  | a :: l => l.contains a || hasDup l

/-- GROUP_CREATE -/
def execGroupCreate (qp sub : Nat) (s : State) : Host.Outcome State Fault Refusal :=
  .next (onStarted 0x72 qp sub (fun d s =>
    match descCtx s d with
    | none => s
    | some c =>
      let h := dfld d 24 4
      let off := dfld d 32 8
      let n := clampTo 1 1024 (dfld d 40 2)
      let tag := dfld d 44 4
      let sw := dfld d 48 3
      guarded d [needH s d Hk.mem 24, needRange s h off (4 * n) 32] (fun s =>
        let s := touch (hSlot h) off (4 * n) false s
        if poisonedIn s (hSlot h) off (4 * n) then endD d (resOf St.poisoned) s
        else
          let ms := (List.range n).map fun i => ofLe (readMem s (.desc qp sub) (hSlot h) (off + 4 * i) 4) % 2 ^ 24
          let rank := (firstFrom (fun i => decide (ms[i]? = some (nodeId s))) n 0)
          if rank.isNone || hasDup ms then endD d (refuse St.refusedState 24) s
          else if s.col.groups.any fun (e : Nat × Group) => decide (e.2.tag = tag) then endD d (refuse St.refusedState 44) s
          else if confidential s && ms.any fun m => decide (m ≠ nodeId s) && !sessionNode s m then uniformRefuse d 4 s
          else
            let mine := (s.col.groups.filter fun (e : Nat × Group) => e.2.ctx = c).length
            match firstFrom (fun i => !thas s.col.groups i) 4096 0 with
            | none => endD d (resOf St.refusedState) s
            | some i =>
              if 256 ≤ mine then endD d (resOf St.refusedState) s
              else
                let g : Group :=
                  { ctx := c, tag := tag, members := ms, rank := rank.getD 0, switch := if sw = 0xFFFFFF then none else some sw
                    base := groupBase tag ms, nextSeq := 0, held := [] }
                endD d { rDone with aux := i, value := g.rank } (modCol (fun k => { k with groups := tput k.groups i g }) s)) s) s)

/-- A group of the descriptor's context. -/
def needGroup (s : State) (d : Desc) : Option Result :=
  match tget s.col.groups (dfld d 24 2) with
  | some g => chk (some g.ctx = descCtx s d) St.refusedHandle 24
  | none => some (refuse St.refusedHandle 24)

/-- GROUP_DESTROY -/
def execGroupDestroy (qp sub : Nat) (s : State) : Host.Outcome State Fault Refusal :=
  .next (onStarted 0x73 qp sub (fun d s =>
    let i := dfld d 24 2
    guarded d [needGroup s d] (fun s =>
      let s := cancelOps (fun o => o.op.group = i) s
      endD d rDone (modCol (fun k => { k with groups := tdel k.groups i }) s)) s) s)

/-- GROUP_QUERY -/
def execGroupQuery (qp sub : Nat) (s : State) : Host.Outcome State Fault Refusal :=
  .next (onStarted 0x74 qp sub (fun d s =>
    let i := dfld d 24 2
    guarded d [needGroup s d] (fun s =>
      match tget s.col.groups i with
      | some g =>
        let n := (s.col.ops.filter fun (o : TrigOp) => o.op.group = i).length
        endD d { rDone with aux := n, value := g.nextSeq + g.rank * 2 ^ 32 } s
      | none => s) s) s)

/-! ## Contributions (R354 to R358) -/

/-- A contribution to an element. -/
inductive Elem where
  /-- A floating-point value with its FP32 bits. -/
  | fp (v : FVal) (bits : Nat)
  /-- An integer -/
  | int (v : Int)
  /-- A WINDOW128 element: 128 bits -/
  | win (q : Int)
  deriving DecidableEq, Repr

/-- An element of a type from its bytes. -/
def elemOf (ty : Nat) (b : List Byte) : Elem :=
  let n := ofLe b
  if ty = 0 then .fp (ofFp32 n) n
  else if ty = 1 then .fp (fDecode fmtBf16 n) (n * 65536)
  else if ty = 3 then .win (signedOf n 128)
  else .int (signedOf n 16)

/-- Cut bytes into elements of a type. -/
def elemsOf (ty : Nat) (b : List Byte) : List Elem :=
  (List.range (b.length / tySize ty)).map fun i => elemOf ty ((b.drop (i * tySize ty)).take (tySize ty))

/-- WINDOW128 codes of +∞, −∞ and NaN (R356). -/
def winPos : Int := 2 ^ 127 - 1
/-- −∞ -/
def winNeg : Int := -(2 ^ 127 - 1)
/-- NaN -/
def winNan : Int := -(2 ^ 127)

/-- Is a WINDOW128 element finite? -/
def winFinite (q : Int) : Bool := decide (q ≠ winPos) && decide (q ≠ winNeg) && decide (q ≠ winNan)

/-- ⌊log₂|x|⌋ of an element under a header exponent; none for zero and what is not finite. -/
def elemExp (eIn : Int) (x : Elem) : Option Int :=
  match x with
  | .fp v _ => fLog2 v
  | .win q => if winFinite q && decide (q ≠ 0) then some ((Nat.log2 q.natAbs : Int) + eIn - 99) else none
  | .int _ => none

/-- The largest exponent of some elements; −32,768 where none has one. -/
def maxExp (eIn : Int) (xs : List Elem) : Int :=
  xs.foldl (fun m x => match elemExp eIn x with
    | some e => max m e
    | none => m) (-32768)

/-- An element placed on the grid of E: its integer and markers (R355). -/
def quantise (e eIn : Int) (x : Elem) : Int × Nat :=
  match x with
  | .fp (.fin neg m k) _ => (sgn neg (if m = 0 then 0 else rneUnits m (k - (e - 99))), 0)
  | .fp (.inf neg) _ => (0, if neg then 4 else 2)
  | .fp _ _ => (0, 1)
  | .win q =>
    if q = winPos then (0, 2) else if q = winNeg then (0, 4) else if q = winNan then (0, 1)
    else (sgn (decide (q < 0)) (if q = 0 then 0 else rneUnits q.natAbs (eIn - e)), 0)
  | .int v => (v, 0)

/-- Add a contribution to an accumulator: the new one and the flags raised (OVERFLOW 4, INVALID 8). -/
def accAddElem (red : Nat) (e eIn : Int) (a : Acc) (x : Elem) : Acc × Nat :=
  match a with
  | .win q m =>
    let (dq, dm) := quantise e eIn x
    (.win (q + dq) (Nat.lor m dm), 0)
  | .fp none =>
    (match x with
     | .fp _ b => (.fp (some b), 0)
     | _ => (a, 0))
  | .fp (some v) =>
    (match x with
     | .fp _ b =>
       if redOp red = 0 then
         let (r, fl) := fp32Add v b
         (.fp (some r), bitAt (Nat.land fl Fl.overflow ≠ 0) 2 + bitAt (Nat.land fl Fl.invalid ≠ 0) 3)
       else if redOp red = 1 then (.fp (some (fp32Max v b)), 0)
       else (.fp (some (fp32Min v b)), 0)
     | _ => (a, 0))
  | .int none =>
    (match x with
     | .int v => (.int (some v), 0)
     | _ => (a, 0))
  | .int (some w) =>
    (match x with
     | .int v => (.int (some (if redOp red = 1 then max w v else min w v)), 0)
     | _ => (a, 0))

/-- An accumulator before its first contribution. -/
def accNew (o : OpRec) : Acc := if redWindow o.red then .win 0 0 else if o.dtype = 4 then .int none else .fp none

/-- Add contributions to the accumulators of elements from index `i` on. -/
def accRange (red : Nat) (e eIn : Int) (i : Nat) (xs : List Elem) (acc : List Acc) : List Acc × Nat :=
  let one := fun (p : Nat × Acc) =>
    if p.1 < i then (p.2, 0)
    else
      match xs[p.1 - i]? with
      | some x => accAddElem red e eIn p.2 x
      | none => (p.2, 0)
  let rs := (numbered acc).map one
  (rs.map Prod.fst, (rs.map Prod.snd).foldl Nat.lor 0)

/-- The bound of a window sum (R356). -/
def winBound : Nat := 2 ^ 127 - 2 ^ 103

/-- Does an accumulator leave the window's range? -/
def accOver (a : Acc) : Bool :=
  match a with
  | .win q m => decide (m = 0) && decide (winBound < q.natAbs)
  | _ => false

/-- A floating-point value in an output type, with the status record's flags. -/
def fpOut (out : Nat) (v : FVal) : List Byte × Nat :=
  let f := if out = 1 then fmtBf16 else fmtFp32
  let (c, fl) := fEncode f .toInf none v
  (leBytes (tySize out) c, bitAt (Nat.land fl Fl.overflow ≠ 0) 2)

/-- An element's result in an output type (R355, R358). -/
def accOut (out : Nat) (e : Int) (a : Acc) : List Byte × Nat :=
  match a with
  | .win q m =>
    let nan := bitOf m 0 || (bitOf m 1 && bitOf m 2)
    let inv := bitAt (bitOf m 1 && bitOf m 2) 3
    if out = 3 then
      (leBytes 16 (twos (if nan then winNan else if bitOf m 1 then winPos else if bitOf m 2 then winNeg else q) 128), inv)
    else
      let v := if nan then FVal.nan else if bitOf m 1 then .inf false else if bitOf m 2 then .inf true
        else .fin (decide (q < 0)) q.natAbs (e - 99)
      let (b, fl) := fpOut out v
      (b, fl + inv)
  | .fp v => fpOut out (ofFp32 (v.getD 0))
  | .int v => (leBytes 2 (twos (v.getD 0) 16), 0)

/-! ## Members and segments (R346, R347) -/

/-- The operation of a number. -/
def findOp (s : State) (id : Nat) : Option TrigOp := s.col.ops.find? fun (o : TrigOp) => o.id = id

/-- Change an operation. -/
def modOp (id : Nat) (f : TrigOp → TrigOp) (s : State) : State := mapOps (fun o => if o.id = id then f o else o) s

/-- Fail the operation of a number, where it has not ended, and everything that hangs on its end. -/
def failOp (id reason rank : Nat) (s : State) : State :=
  match findOp s id with
  | some o =>
    let (w, s) := opFail o reason rank true s
    settle w s
  | none => s

/-- End the operation of a number well. -/
def doneOp (id : Nat) (s : State) : State :=
  match findOp s id with
  | some o =>
    let (w, s) := opFinish o 0 (opRank s o) s
    settle w s
  | none => s

/-- Members of an operation's group. -/
def opMembers (s : State) (o : TrigOp) : List Nat :=
  match tget s.col.groups o.op.group with
  | some g => g.members
  | none => []

/-- Rank of a node in an operation's group. -/
def rankOf (s : State) (o : TrigOp) (node : Nat) : Nat :=
  (firstFrom (fun i => decide ((opMembers s o)[i]? = some node)) (opMembers s o).length 0).getD 0

/-- Segments of a rank's shard. -/
def shardOf (s : State) (o : TrigOp) (k : Nat) : List Nat :=
  let n := (opMembers s o).length
  let lo := shardLo o.op n k
  (List.range (shardLo o.op n (k + 1) - lo)).map fun i => lo + i

/-- The rank that owns a segment. -/
def ownerOf (s : State) (o : TrigOp) (g : Nat) : Nat :=
  (firstFrom (fun k => (shardOf s o k).contains g) (opMembers s o).length 0).getD 0

/-- The engine that a segment is dealt to (R348). -/
def segEngine (o : TrigOp) (g : Nat) : Nat :=
  let bits := (List.range 8).filter (bitOf o.op.mask)
  8 * o.op.part + bits.getD (g % bits.length) 0

/-- Open segments on an engine. -/
def openOn (s : State) (e : Nat) : Nat :=
  (s.col.ops.map fun (o : TrigOp) => (o.segs.filter fun (p : Nat × Seg) =>
    p.2.opened && !p.2.closed && decide (p.2.engine = e)).length).sum

/-- Offset of a segment in SRC, of the whole operation. -/
def segSrc (o : TrigOp) (g : Nat) : Nat := o.op.srcOff + spanBytes o.op o.op.dtype 0 g

/-- Bytes of a segment in a type. -/
def segBytes (o : TrigOp) (ty g : Nat) : Nat := spanBytes o.op ty g (g + 1)

/-- Chunks of a byte count. -/
def chunksOf (n : Nat) : Nat := (n + 2047) / 2048

/-- What stops an engine that is about to touch a range: ACCESS or POISON. -/
def rangeStops (s : State) (o : TrigOp) (slot off n : Nat) (wr : Bool) : Option Nat :=
  match tget s.mems slot with
  | none => some 0x07
  | some m =>
    if o.access then some 0x07
    else if wr then (if writableRange m off n then none else some 0x07)
    else if poisonedIn s slot off n then some Why.poison else none

/-- Act on a range of an operation, or fail it. -/
def onRange (o : TrigOp) (slot off n : Nat) (wr : Bool) (f : State → State) (s : State) : State :=
  match rangeStops s o slot off n wr with
  | some r => failOp o.id r (opRank s o) (touch slot off n wr s)
  | none => f s

/-- Header exponent and elements of a segment's bytes. -/
def segParse (ty : Nat) (b : List Byte) : Int × List Elem :=
  if ty = 3 then (signedOf (ofLe (b.take 2)) 16, elemsOf 3 (b.drop 16)) else (0, elemsOf ty b)

/-- A segment not yet opened. -/
def segNew (o : TrigOp) (g : Nat) : Seg :=
  { engine := segEngine o g, exp := none, exps := [], got := [], acc := [], buf := [], opened := false, closed := false
    resends := 0 }

/-- The segment of a number. -/
def segOf (o : TrigOp) (g : Nat) : Seg := tgetD o.segs g (segNew o g)

/-- Change a segment. -/
def modSeg (id g : Nat) (f : Seg → Seg) (s : State) : State :=
  modOp id (fun o => { o with segs := tput o.segs g (f (segOf o g)) }) s

/-- Data an engine sends counts in the operation and the engine. -/
def countTx (id e n : Nat) (s : State) : State :=
  modColEng e (fun c => { c with tx := (c.tx + n) % 2 ^ 64 }) (modOp id (fun o => { o with bytes := o.bytes + n }) s)

/-- Send bytes of a segment to a node in chunks (R345). -/
def sendChunks (o : TrigOp) (g node : Nat) (b : List Byte) (s : State) : State :=
  let s := (List.range (chunksOf b.length)).foldl (fun s c =>
    sendTo node (.collData (opTag s o) o.seq g (opRank s o) c ((b.drop (2048 * c)).take 2048)) s) s
  countTx o.id (segEngine o g) b.length s

/-- Send a control packet and expect its acknowledgement (R359). -/
def ctlSend (id kind first : Nat) (vals : List Int) (rank : Nat) (s : State) : State :=
  match findOp s id with
  | none => s
  | some o =>
    match (opMembers s o)[rank]? with
    | none => s
    | some node => opTell o kind first vals [node] (modOp id (fun o => { o with unacked := tput o.unacked (kind * 1024 + rank) 0 }) s)

/-- Ranks other than the own, in rotation order from one after a rank. -/
def rotation (n from_ own : Nat) : List Nat :=
  ((List.range n).map fun i => (from_ + 1 + i) % n).filter fun k => k ≠ own

/-- The other ranks, from the own one on. -/
def otherRanks (s : State) (o : TrigOp) : List Nat :=
  rotation (opMembers s o).length (opRank s o) (opRank s o)

/-! ## Receiving a reduction (R347, R355) -/

/-- Add received bytes of a contribution to a segment: from chunk `c` on, in a type other than WINDOW128. -/
def addChunk (o : TrigOp) (g c : Nat) (b : List Byte) (x : Seg) : Seg × Nat :=
  let e := x.exp.getD 0
  let (acc, fl) := accRange o.op.red e 0 (2048 * c / tySize o.op.dtype) (elemsOf o.op.dtype b) x.acc
  ({ x with acc := acc }, fl)

/-- Does a supplied exponent exclude a contribution (R354: EXP_LOW)? -/
def expLow (o : TrigOp) (x : Seg) (eIn : Int) (xs : List Elem) : Bool :=
  redWindow o.op.red && redExt o.op.red &&
    (if o.op.dtype = 3 then decide (some eIn ≠ x.exp) else decide (x.exp.getD 0 < maxExp eIn xs))

/-- The bytes of a rank's buffered chunks, where all have come. -/
def bufWhole (x : Seg) (rank n : Nat) : Option (List Byte) :=
  if (List.range n).all fun c => thas x.buf (rank * 64 + c) then
    some ((List.range n).map fun c => tgetD x.buf (rank * 64 + c) []).flatten
  else none

/-- Add a whole WINDOW128 contribution. -/
def addWindow (o : TrigOp) (b : List Byte) (x : Seg) : Seg :=
  let (eIn, xs) := segParse 3 b
  { x with acc := (accRange o.op.red (x.exp.getD 0) eIn 0 xs x.acc).1 }

/-- Offset in DST of a segment of the own reduction: in the shard, or at its place for ALL_REDUCE. -/
def segDst (s : State) (o : TrigOp) (g : Nat) : Nat :=
  if o.op.kind = 3 then o.op.dstOff + spanBytes o.op o.op.outType 0 g
  else o.op.dstOff + spanBytes o.op o.op.outType (shardLo o.op (opMembers s o).length (opRank s o)) g

/-- The bytes of a segment's results, with the flags they raise. -/
def segResult (o : TrigOp) (x : Seg) : List Byte × Nat :=
  let rs := x.acc.map (accOut o.op.outType (x.exp.getD 0))
  let head := if o.op.outType = 3 then leBytes 2 (twos (x.exp.getD (-32768)) 16) ++ leBytes 14 0 else []
  (head ++ (rs.map Prod.fst).flatten, (rs.map Prod.snd).foldl Nat.lor 0)

/-- Has every contribution of a segment arrived? -/
def segFull (s : State) (o : TrigOp) (g : Nat) (x : Seg) : Bool :=
  (otherRanks s o).all fun k => (List.range (chunksOf (segBytes o o.op.dtype g))).all fun c => x.got.contains (k * 64 + c)

/-- Is the own shard written? -/
def shardDone (s : State) (o : TrigOp) : Bool := (shardOf s o (opRank s o)).all fun g => (segOf o g).closed

/-- Bytes of a rank's part that this member must receive in the gather phase or kind, segment by segment. -/
def partSegs (s : State) (o : TrigOp) (k : Nat) : List Nat :=
  if o.op.kind = 2 || o.op.kind = 3 then shardOf s o k
  else if o.op.kind = 4 then (if k = o.op.root then List.range (segCount o.op) else [])
  else if o.op.kind = 5 then List.range (segCount o.op)
  else []

/-- Element type that the gather moves. -/
def gatherTy (o : TrigOp) : Nat := if o.op.kind = 3 then o.op.outType else o.op.dtype

/-- The key of a received chunk of a part. -/
def partKey (rank g c : Nat) : Nat := (rank * 2 ^ 40 + g) * 64 + c

/-- Has the whole part of a rank arrived? -/
def partIn (s : State) (o : TrigOp) (k : Nat) : Bool :=
  (partSegs s o k).all fun g => (List.range (chunksOf (segBytes o (gatherTy o) g))).all fun c => thas o.recvd (partKey k g c)

/-- Does the own rank send a part to the others? -/
def sendsPart (s : State) (o : TrigOp) : Bool :=
  if o.op.kind = 1 then false
  else if o.op.kind = 4 then decide (opRank s o = o.op.root)
  else !(partSegs s o (opRank s o)).isEmpty

/-- DONEs received from a rank. -/
def donesFrom (o : TrigOp) (k : Nat) : Nat := (o.dones.filter fun r => r = k).length

/-- DONEs needed from a rank: one for its reduced shard, one for the part sent to it. -/
def donesDue (s : State) (o : TrigOp) : Nat := (if kindReduces o.op.kind then 1 else 0) + (if sendsPart s o then 1 else 0)

/-- Is everything that ends an operation in (R347, R348)? -/
def opComplete (s : State) (o : TrigOp) : Bool :=
  if o.viaSwitch then (List.range (segCount o.op)).all fun g => (segOf o g).closed
  else
    (!kindReduces o.op.kind || shardDone s o)
      && (otherRanks s o).all fun k =>
          decide (donesDue s o ≤ donesFrom o k) && (o.op.kind = 1 || partIn s o k)

/-- End an operation that is complete. -/
def checkDone (id : Nat) (s : State) : State :=
  match findOp s id with
  | some o => if decide (o.state = .running) && opComplete s o then doneOp id s else s
  | none => s

/-- Where the own part lies in memory for a receiver of rank `k`: object slot and offset of segment `g`. -/
def partSrc (s : State) (o : TrigOp) (k g : Nat) : Nat × Nat :=
  if o.op.kind = 2 then (o.op.src, o.op.srcOff + spanBytes o.op o.op.dtype (shardLo o.op (opMembers s o).length (opRank s o)) g)
  else if o.op.kind = 3 then (o.op.dst.getD 0, o.op.dstOff + spanBytes o.op o.op.outType 0 g)
  else if o.op.kind = 4 then (o.op.src, o.op.srcOff + spanBytes o.op o.op.dtype 0 g)
  else (o.op.src, o.op.srcOff + k * spanBytes o.op o.op.dtype 0 (segCount o.op) + spanBytes o.op o.op.dtype 0 g)

/-- Where segment `g` of rank `k`'s part goes in DST. -/
def partDst (o : TrigOp) (k g : Nat) : Nat :=
  if o.op.kind = 5 then o.op.dstOff + k * spanBytes o.op o.op.dtype 0 (segCount o.op) + spanBytes o.op o.op.dtype 0 g
  else o.op.dstOff + spanBytes o.op (gatherTy o) 0 g

/-- Send one segment of the own part to a rank. -/
def sendPartSeg (id k g : Nat) (s : State) : State :=
  match findOp s id with
  | none => s
  | some o =>
    let (slot, off) := partSrc s o k g
    let n := segBytes o (gatherTy o) g
    onRange o slot off n false (fun s =>
      match (opMembers s o)[k]? with
      | some node => sendChunks o g node (readBlk s slot off n) (touch slot off n false s)
      | none => s) s

/-- Send the own part to a rank, once. -/
def sendPart (id k : Nat) (s : State) : State :=
  match findOp s id with
  | none => s
  | some o =>
    if o.sentTo.contains k || !sendsPart s o then s
    else
      let s := modOp id (fun o => { o with sentTo := linsert o.sentTo k }) s
      (partSegs s o (if o.op.kind = 5 then k else opRank s o)).foldl (fun s g => sendPartSeg id k g s) s

/-- The own shard is written: DONE to every other member, and the gather of an ALL_REDUCE begins. -/
def shardWritten (id : Nat) (s : State) : State :=
  match findOp s id with
  | none => s
  | some o =>
    if !shardDone s o || o.gathering then s
    else
      let s := modOp id (fun o => { o with gathering := true }) s
      let s := (otherRanks s o).foldl (fun s k => ctlSend id 4 0 [] k s) s
      let s := if o.op.kind = 3 then (otherRanks s o).foldl (fun s k => sendPart id k s) s else s
      checkDone id s

/-- A segment that holds every contribution is converted, written and closed (R347 step 4). -/
def closeSeg (id g : Nat) (s : State) : State :=
  match findOp s id with
  | none => s
  | some o =>
    let x := segOf o g
    if !x.opened || x.closed || !segFull s o g x then s
    else if x.acc.any accOver then failOp id 0x09 (opRank s o) s
    else
      let (b, fl) := segResult o x
      let slot := o.op.dst.getD 0
      let off := segDst s o g
      onRange o slot off b.length true (fun s =>
        let s := storeMem (.coll id) slot off b s
        modSeg id g (fun x => { x with closed := true, acc := [], buf := [] })
          (modOp id (fun o => { o with flags := Nat.lor o.flags fl }) s)) s

/-- Open a segment: its exponent, its accumulators, GO to the other members, the own contribution (R347 step 2). -/
def openSeg (id g : Nat) (e : Option Int) (s : State) : State :=
  match findOp s id with
  | none => s
  | some o =>
    let off := segSrc o g
    let n := segBytes o o.op.dtype g
    onRange o o.op.src off n false (fun s =>
      let s := touch o.op.src off n false s
      let b := readBlk s o.op.src off n
      let (eIn, xs) := segParse o.op.dtype b
      let x0 : Seg := { segOf o g with opened := true, exp := e, acc := List.replicate (segLen o.op g) (accNew o.op) }
      if expLow o x0 eIn xs then failOp id 0x08 (opRank s o) s
      else
        let (acc, fl) := accRange o.op.red (e.getD 0) eIn 0 xs x0.acc
        let s := modSeg id g (fun _ => { x0 with acc := acc }) (modOp id (fun o => { o with flags := Nat.lor o.flags fl }) s)
        let s := (otherRanks s o).foldl (fun s k => ctlSend id 2 g e.toList k s) s
        closeSeg id g s) s

/-- The exponent under which a segment may open: none while one is missing; `some none` where it needs none. A supplied one is
read from the EXP range (R354). -/
def segExp (s : State) (o : TrigOp) (g : Nat) : Option (Option Int) :=
  if !redWindow o.op.red then some none
  else if redExt o.op.red then some (some (signedOf (readNum s (o.op.exp.getD 0) (o.op.expOff + 2 * g) 2) 16))
  else
    let x := segOf o g
    if (List.range (opMembers s o).length).all fun k => thas x.exps k then
      some (some (x.exps.foldl (fun m p => max m p.2) (-32768)))
    else none

/-- Open what can be opened of the own shard, in ascending order. -/
def openSegs (id : Nat) (s : State) : State :=
  match findOp s id with
  | none => s
  | some o =>
    if !kindReduces o.op.kind || o.viaSwitch then s
    else
      let s := (shardOf s o (opRank s o)).foldl (fun s g =>
        match findOp s id with
        | none => s
        | some o =>
          let x := segOf o g
          if x.opened || x.closed || decide (16 ≤ openOn s (segEngine o g)) then s
          else
            match segExp s o g with
            | none => s
            | some e =>
              if redWindow o.op.red && redExt o.op.red && poisonedIn s (o.op.exp.getD 0) (o.op.expOff + 2 * g) 2 then
                failOp id Why.poison (opRank s o) s
              else openSeg id g e s) s
      shardWritten id s

/-- Segments that have closed make room for those of every operation. -/
def openAll (s : State) : State :=
  ((s.col.ops.filter fun (o : TrigOp) => o.state = .running).map TrigOp.id).foldl (fun s id => openSegs id s) s

/-! ## The exchange -/

/-- The exponent of the own contribution to a segment. -/
def ownExp (s : State) (o : TrigOp) (g : Nat) : Int :=
  let (eIn, xs) := segParse o.op.dtype (readBlk s o.op.src (segSrc o g) (segBytes o o.op.dtype g))
  maxExp eIn xs

/-- Exponents of a rank's segments in packets of up to 1,024. -/
def sendExps (id k : Nat) (s : State) : State :=
  match findOp s id with
  | none => s
  | some o =>
    let gs := shardOf s o k
    (List.range ((gs.length + 1023) / 1024)).foldl (fun s i =>
      let part := (gs.drop (1024 * i)).take 1024
      ctlSend id 1 (part.headD 0) (part.map (ownExp s o)) k s) s

/-- Store a rank's exponents from a first segment on. -/
def putExps (id rank first : Nat) (es : List Int) (s : State) : State :=
  (numbered es).foldl (fun s (p : Nat × Int) => modSeg id (first + p.1) (fun x => { x with exps := tput x.exps rank p.2 }) s) s

/-- Serve a GO: send the segments named from SRC (R347 step 3). -/
def serveGo (id rank first n : Nat) (s : State) : State :=
  (List.range (min n 16)).foldl (fun s i =>
    match findOp s id with
    | none => s
    | some o =>
      let g := first + i
      let off := segSrc o g
      let len := segBytes o o.op.dtype g
      onRange o o.op.src off len false (fun s =>
        match (opMembers s o)[rank]? with
        | some node => sendChunks o g node (readBlk s o.op.src off len) (touch o.op.src off len false s)
        | none => s) s) s

/-- Act on a control packet of a running operation. -/
def ctlAct (id kind rank sig first : Nat) (vals : List Int) (s : State) : State :=
  match findOp s id with
  | none => s
  | some o =>
    if sig ≠ o.sig ∧ kind ≠ 5 then failOp id 0x02 rank s
    else if kind = 1 then openSegs id (putExps id rank first vals s)
    else if kind = 2 then serveGo id rank first (max 1 vals.length) s
    else if kind = 3 then checkDone id (sendPart id rank (modOp id (fun o => { o with readys := linsert o.readys rank }) s))
    else if kind = 4 then
      (if donesFrom o rank < donesDue s o then
         checkDone id (modOp id (fun o => { o with dones := o.dones ++ [rank] }) s)
       else s)
    else s

/-- Take the control packets held for an operation. -/
def takeHeld (gi seq : Nat) (s : State) : List HeldCtl × State :=
  match tget s.col.groups gi with
  | none => ([], s)
  | some g =>
    let (mine, rest) := g.held.partition fun (h : HeldCtl) => decide (h.seq = seq)
    (mine, modCol (fun c => { c with groups := tput c.groups gi { g with held := rest } }) s)

/-- Copy the own part to DST, where the kind has one (R348). -/
def ownCopy (id : Nat) (s : State) : State :=
  match findOp s id with
  | none => s
  | some o =>
    match o.op.dst with
    | none => s
    | some d =>
      let r := opRank s o
      if o.op.kind = 2 || (o.op.kind = 4 && decide (r = o.op.root)) || o.op.kind = 5 then
        (partSegs s o r).foldl (fun s g =>
          match findOp s id with
          | none => s
          | some o =>
            let (slot, off) := partSrc s o r g
            let n := segBytes o o.op.dtype g
            onRange o slot off n false (fun s =>
              let s := touch slot off n false s
              onRange o d (partDst o r g) n true (fun s => storeMem (.coll o.id) d (partDst o r g) (readBlk s slot off n) s) s) s) s
      else s

/-- Send a segment to the switch (R353). -/
def switchSend (id : Nat) (s : State) : State :=
  match findOp s id with
  | none => s
  | some o =>
    let flight := (o.segs.filter fun (p : Nat × Seg) => p.2.opened && !p.2.closed).length
    let next := (List.range (segCount o.op)).find? fun g => !(segOf o g).opened
    match next, (tget s.col.groups o.op.group).bind Group.switch with
    | some g, some node =>
      if flight < 4 then
        let off := segSrc o g
        let n := segBytes o o.op.dtype g
        onRange o o.op.src off n false (fun s =>
          sendChunks o g node (readBlk s o.op.src off n)
            (modSeg id g (fun x => { x with opened := true }) (touch o.op.src off n false s))) s
      else s
    | _, _ => s

/-- Direct exchange begins (R347, R348): exponents to the owners, READY to the senders, the own part copied. -/
def directBegin (id : Nat) (s : State) : State :=
  match findOp s id with
  | none => s
  | some o =>
    let r := opRank s o
    let others := otherRanks s o
    let need := redWindow o.op.red && !redExt o.op.red && kindReduces o.op.kind
    let src := o.op.src
    let all := srcBytes o.op (opMembers s o).length r
    if need then
      onRange o src o.op.srcOff all false (fun s =>
        let s := touch src o.op.srcOff all false s
        let s := putExps id r ((shardOf s o r).headD 0) ((shardOf s o r).map (ownExp s o)) s
        let s := others.foldl (fun s k => if (shardOf s o k).isEmpty then s else sendExps id k s) s
        openSegs id s) s
    else if kindReduces o.op.kind then openSegs id s
    else
      let dest := if o.op.kind = 4 then (if r = o.op.root then [] else [o.op.root]) else others
      checkDone id (dest.foldl (fun s k => ctlSend id 3 0 [] k s) (ownCopy id s))

/-- The member list's signature check and everything held for an operation, once it runs. -/
def heldAct (id : Nat) (s : State) : State :=
  match findOp s id with
  | none => s
  | some o =>
    let (hs, s) := takeHeld o.op.group o.seq s
    hs.foldl (fun s (h : HeldCtl) => ctlAct id h.sub h.rank h.sig h.first h.vals s) s

/-- Operations that run on an engine. -/
def runningOn (s : State) (e : Nat) : Nat :=
  (s.col.ops.filter fun (o : TrigOp) => decide (o.state = .running) && opOn o e).length

/-- Is a collective engine in service? -/
def colEngUp (s : State) (e : Nat) : Bool :=
  decide (e < 32) && !partOff s (e / 8) && !partInReset s (e / 8) && !resetting s 3 e && !s.mod.failStopped

/-- The fired operation that has waited longest in an engine's queue. -/
def queueHead (s : State) (e : Nat) : Option TrigOp :=
  minBy (fun (o : TrigOp) => o.fired) (s.col.ops.filter fun (o : TrigOp) => decide (o.state = .queued) && decide (o.engine = e))

/-- COLLECTIVE_OP_START: the first operation in an engine's queue starts when fewer than 4 run on each engine it uses. -/
def execCollectiveOpStart (eng : Nat) (s : State) : Host.Outcome State Fault Refusal :=
  .next (
    match queueHead s eng with
    | none => s
    | some o =>
      if colEngUp s eng && (List.range 32).all fun e => !opOn o e || decide (runningOn s e < 4) then
        let sw := o.viaSwitch && (match tget s.col.groups o.op.group with
          | some g => (switchCaps s g o.op).isSome
          | none => false)
        let s := modOp o.id (fun o => { o with state := .running, viaSwitch := sw, flags := bitAt sw 0 }) s
        let s := if sw then switchSend o.id (switchSend o.id (switchSend o.id (switchSend o.id s))) else directBegin o.id s
        checkDone o.id (heldAct o.id s)
      else s)

/-- A group by its tag, with its index, where a node is one of its members or its switch. -/
def groupFrom (s : State) (tag node : Nat) : Option (Nat × Group) :=
  s.col.groups.find? fun (e : Nat × Group) => decide (e.2.tag = tag) && e.2.members.contains node && decide (node ≠ nodeId s)

/-- Put a control packet in a group's hold table, or answer BUSY where it is full (R345). -/
def holdCtl (gi : Nat) (h : HeldCtl) (node kind : Nat) (s : State) : State :=
  match tget s.col.groups gi with
  | none => s
  | some g =>
    if g.held.length < 64 then
      sendTo node (.collAck kind g.tag h.seq) (modCol (fun c => { c with groups := tput c.groups gi { g with held := g.held ++ [h] } }) s)
    else sendTo node (.collCtl 6 g.tag h.seq h.sig kind []) s

/-- The operation of a group and OP_SEQ. -/
def opOfSeq (s : State) (gi seq : Nat) : Option TrigOp :=
  s.col.ops.find? fun (o : TrigOp) => decide (o.op.group = gi) && decide (o.seq = seq)

/-- Is an OP_SEQ still to be posted on a group? -/
def seqAhead (g : Group) (seq : Nat) : Bool := decide ((seq + 2 ^ 32 - g.nextSeq) % 2 ^ 32 < 2 ^ 31)

/-- A control packet arrives (R345): from a node outside the group it is discarded and counted; for an operation that does
not run yet it is held; for one that has ended it is acknowledged and does nothing. -/
def ctlIn (port node tag seq kind sig first : Nat) (vals : List Int) (s : State) : State :=
  match groupFrom s tag node with
  | none => routeDrop port s
  | some (gi, g) =>
    let rank := (firstFrom (fun i => decide (g.members[i]? = some node)) g.members.length 0).getD 0
    let h : HeldCtl := { sub := kind, rank := rank, seq := seq, sig := sig, first := first, vals := vals }
    match opOfSeq s gi seq with
    | none => if seqAhead g seq then holdCtl gi h node kind s else sendTo node (.collAck kind tag seq) s
    | some o =>
      if o.state = .running then ctlAct o.id kind rank sig first vals (sendTo node (.collAck kind tag seq) s)
      else holdCtl gi h node kind s

/-- EXP -/
def execExp (port node tag seq sig first : Nat) (exps : List Int) (s : State) : Host.Outcome State Fault Refusal :=
  .next (openAll (ctlIn port node tag seq 1 sig first exps s))

/-- GO: the list of exponents stands for the count of segments; a sum that needs none carries as many zeros. -/
def execGo (port node tag seq sig first n : Nat) (exps : List Int) (s : State) : Host.Outcome State Fault Refusal :=
  .next (openAll (ctlIn port node tag seq 2 sig first (padTo (min n 16) 0 exps) s))

/-- READY -/
def execReady (port node tag seq sig : Nat) (s : State) : Host.Outcome State Fault Refusal :=
  .next (openAll (ctlIn port node tag seq 3 sig 0 [] s))

/-- DONE -/
def execDone (port node tag seq sig : Nat) (s : State) : Host.Outcome State Fault Refusal :=
  .next (openAll (ctlIn port node tag seq 4 sig 0 [] s))

/-- Direct exchange of what a switch has not done: written segments of the own shard below the lowest one missing stay
(R353). -/
def fallBack (id : Nat) (tell : Bool) (s : State) : State :=
  match findOp s id with
  | none => s
  | some o =>
    if !o.viaSwitch then s
    else
      let low := ((List.range (segCount o.op)).find? fun g => !(segOf o g).closed).getD (segCount o.op)
      let s := if tell then opTell o 5 0 [0, opRank s o, 1] (opPeers s o) s else s
      let keep := (o.segs.filter fun (p : Nat × Seg) => decide (p.1 < low)).map fun (p : Nat × Seg) => (p.1, { p.2 with closed := true })
      heldAct id (directBegin id (modOp id (fun o => { o with viaSwitch := false, flags := Nat.lor o.flags 2, segs := keep }) s))

/-- ABORT: a running or queued operation fails with PEER_ABORT, one not yet fired at its fire; with subtype FALLBACK it goes
on by direct exchange. -/
def execAbort (port node tag seq sig reason rank : Nat) (fallback : Bool) (s : State) : Host.Outcome State Fault Refusal :=
  .next (openAll (
    match groupFrom s tag node with
    | none => routeDrop port s
    | some (gi, g) =>
      let vals : List Int := [reason, rank, if fallback then 1 else 0]
      match opOfSeq s gi seq with
      | none =>
        if seqAhead g seq && !fallback then
          holdCtl gi { sub := 5, rank := rank, seq := seq, sig := sig, first := 0, vals := vals } node 5 s
        else sendTo node (.collAck 5 tag seq) s
      | some o =>
        let s := sendTo node (.collAck 5 tag seq) s
        if fallback then (if o.state = .running then fallBack o.id false s else modOp o.id (fun o => { o with viaSwitch := false }) s)
        else if opFired o then failOp o.id 0x03 rank s
        else modOp o.id (fun o => { o with preAbort := some (o.preAbort.getD rank) }) s))

/-- BUSY: the packet refused waits for its repeat. -/
def execBusy (port node tag seq kind : Nat) (s : State) : Host.Outcome State Fault Refusal :=
  .next (
    match groupFrom s tag node with
    | none => routeDrop port s
    | some (gi, _) =>
      let s := sendTo node (.collAck 6 tag seq) s
      match opOfSeq s gi seq with
      | some o =>
        if thas o.unacked (kind * 1024 + rankOf s o node) then
          modOp o.id (fun o => { o with busy := linsert o.busy (kind * 1024 + rankOf s o node) }) s
        else s
      | none => s)

/-- Send a control packet of a running operation again. -/
def ctlAgain (id kind rank : Nat) (s : State) : State :=
  match findOp s id with
  | none => s
  | some o =>
    match (opMembers s o)[rank]? with
    | none => s
    | some node =>
      if kind = 1 then
        let gs := shardOf s o rank
        (List.range ((gs.length + 1023) / 1024)).foldl (fun s i =>
          let part := (gs.drop (1024 * i)).take 1024
          opTell o 1 (part.headD 0) (part.map (ownExp s o)) [node] s) s
      else if kind = 2 then
        (o.segs.filter fun (p : Nat × Seg) => p.2.opened && !p.2.closed).foldl (fun s (p : Nat × Seg) =>
          opTell o 2 p.1 p.2.exp.toList [node] s) s
      else opTell o kind 0 [] [node] s

/-- BUSY_RETRY -/
def execBusyRetry (op kind rank : Nat) (s : State) : Host.Outcome State Fault Refusal :=
  .next (
    match findOp s op with
    | some o =>
      if o.busy.contains (kind * 1024 + rank) then
        ctlAgain op kind rank (modOp op (fun o => { o with busy := o.busy.erase (kind * 1024 + rank) }) s)
      else s
    | none => s)

/-- COLL_ACK -/
def execCollAck (port node tag seq kind : Nat) (s : State) : Host.Outcome State Fault Refusal :=
  .next (
    match groupFrom s tag node with
    | none => routeDrop port s
    | some (gi, _) =>
      match opOfSeq s gi seq with
      | some o => modOp o.id (fun o => { o with unacked := tdel o.unacked (kind * 1024 + rankOf s o node) }) s
      | none => s)

/-! ## Data (R347, R348, R359) -/

/-- A chunk of a contribution reaches its open segment. -/
def reduceIn (o : TrigOp) (g rank c : Nat) (data : List Byte) (s : State) : State :=
  let x := segOf o g
  if !x.opened || x.closed || x.got.contains (rank * 64 + c) then s
  else
    let s := modColEng x.engine (fun k => { k with rx := (k.rx + data.length) % 2 ^ 64 }) s
    let x := { x with got := (rank * 64 + c) :: x.got }
    let n := chunksOf (segBytes o o.op.dtype g)
    if o.op.dtype = 3 then
      let x := { x with buf := tput x.buf (rank * 64 + c) data }
      match bufWhole x rank n with
      | some b =>
        let (eIn, xs) := segParse 3 b
        if expLow o x eIn xs then failOp o.id 0x08 rank s
        else openSegs o.id (closeSeg o.id g (modSeg o.id g (fun _ => addWindow o b x) s))
      | none => modSeg o.id g (fun _ => x) s
    else if expLow o x 0 (elemsOf o.op.dtype data) then failOp o.id 0x08 rank s
    else
      let (x, fl) := addChunk o g c data x
      let s := modOp o.id (fun o => { o with flags := Nat.lor o.flags fl }) (modSeg o.id g (fun _ => x) s)
      openSegs o.id (closeSeg o.id g s)

/-- A chunk of another rank's part goes to DST; a whole part is answered with DONE. -/
def gatherIn (o : TrigOp) (g rank c : Nat) (data : List Byte) (s : State) : State :=
  if thas o.recvd (partKey rank g c) || !(partSegs s o rank).contains g then s
  else
    match o.op.dst with
    | none => s
    | some d =>
      let off := partDst o rank g + 2048 * c
      onRange o d off data.length true (fun s =>
        let s := storeMem (.coll o.id) d off data s
        let s := modColEng (segEngine o g) (fun k => { k with rx := (k.rx + data.length) % 2 ^ 64 }) s
        let s := modOp o.id (fun o => { o with recvd := tput o.recvd (partKey rank g c) data.length }) s
        match findOp s o.id with
        | some o' => if partIn s o' rank then checkDone o.id (ctlSend o.id 4 0 [] rank s) else s
        | none => s) s

/-- COLL_DATA -/
def execCollData (port node tag seq seg rank chunk : Nat) (data : List Byte) (s : State) : Host.Outcome State Fault Refusal :=
  .next (openAll (
    match groupFrom s tag node with
    | none => routeDrop port s
    | some (gi, g) =>
      match opOfSeq s gi seq with
      | none => s
      | some o =>
        if o.state ≠ .running || decide (g.members[rank]? ≠ some node) || decide (segCount o.op ≤ seg) then s
        else if kindReduces o.op.kind && (shardOf s o (opRank s o)).contains seg then reduceIn o seg rank chunk data s
        else gatherIn o seg rank chunk data s))

/-- Ranks whose data an open segment lacks. -/
def segMissing (s : State) (o : TrigOp) (g : Nat) : List Nat :=
  let x := segOf o g
  (otherRanks s o).filter fun k => !(List.range (chunksOf (segBytes o o.op.dtype g))).all fun c => x.got.contains (k * 64 + c)

/-- RESEND_TIMER (R359): GO again to the ranks missing, or the control packet again; with the resends spent, PEER_LOST. -/
def execResendTimer (op : Nat) (seg : Option Nat) (kind rank : Nat) (s : State) : Host.Outcome State Fault Refusal :=
  .next (openAll (
    match findOp s op with
    | none => s
    | some o =>
      if o.state ≠ .running then s
      else
        let count := modColEng o.engine (fun e => { e with resends := satAdd 65535 e.resends 1 })
        match seg with
        | some g =>
          let x := segOf o g
          let miss := segMissing s o g
          if !x.opened || x.closed || miss.isEmpty then s
          else if s.col.resendLimit ≤ x.resends then failOp op 0x04 (miss.headD 0) s
          else
            let s := modSeg op g (fun x => { x with resends := x.resends + 1 }) (count s)
            miss.foldl (fun s k =>
              match (opMembers s o)[k]? with
              | some node => opTell o 2 g x.exp.toList [node] s
              | none => s) s
        | none =>
          match tget o.unacked (kind * 1024 + rank) with
          | none => s
          | some n =>
            if s.col.resendLimit ≤ n then failOp op 0x04 rank s
            else ctlAgain op kind rank (modOp op (fun o => { o with unacked := tput o.unacked (kind * 1024 + rank) (n + 1) }) (count s))))

/-- OPERATION_TIMEOUT -/
def execOperationTimeout (op : Nat) (s : State) : Host.Outcome State Fault Refusal :=
  .next (openAll (
    match findOp s op with
    | some o => if opFired o && decide (o.op.timeout ≠ 0) then failOp op Why.timeout (opRank s o) s else s
    | none => s))

/-! ## Switches (R352, R353) -/

/-- CAPS: an optical port that carries traffic stores them. -/
def execCaps (port types members memKib : Nat) (s : State) : Host.Outcome State Fault Refusal :=
  .next (
    if decide (15 ≤ port) && decide (port < 23) && carries (portOf s port).state then
      let c : SwCaps := { types := types % 4, maxMembers := members % 65536, memKib := memKib % 2 ^ 24 }
      sendPort port (.collAck 0x10 0 0) (modCol (fun k => { k with caps := tput k.caps (port - 15) c }) s)
    else s)

/-- The running operation through a switch of a tag and OP_SEQ. -/
def switchOp (s : State) (tag seq : Nat) : Option TrigOp :=
  match s.col.groups.find? fun (e : Nat × Group) => decide (e.2.tag = tag) with
  | some (gi, _) =>
    match opOfSeq s gi seq with
    | some o => if decide (o.state = .running) && o.viaSwitch then some o else none
    | none => none
  | none => none

/-- SW_REFUSE -/
def execSwRefuse (port tag seq seg : Nat) (s : State) : Host.Outcome State Fault Refusal :=
  .next (
    match switchOp s tag seq with
    | some o => if (segOf o seg).opened then fallBack o.id true (sendPort port (.collAck 0x11 tag seq) s) else s
    | none => s)

/-- SWITCH_SUM: a segment's sum, in OUT_TYPE, is written to DST; the next segment leaves. -/
def execSwitchSum (port tag seq seg : Nat) (data : List Byte) (s : State) : Host.Outcome State Fault Refusal :=
  .next (
    match switchOp s tag seq with
    | none => routeDrop port s
    | some o =>
      let x := segOf o seg
      if !x.opened || x.closed || decide (data.length ≠ segBytes o o.op.outType seg) then s
      else
        let d := o.op.dst.getD 0
        let off := o.op.dstOff + spanBytes o.op o.op.outType 0 seg
        onRange o d off data.length true (fun s =>
          let s := modColEng x.engine (fun k => { k with rx := (k.rx + data.length) % 2 ^ 64 }) (storeMem (.coll o.id) d off data s)
          checkDone o.id (switchSend o.id (modSeg o.id seg (fun x => { x with closed := true }) s))) s)

/-- SWITCH_SUM_TIMEOUT -/
def execSwitchSumTimeout (op : Nat) (s : State) : Host.Outcome State Fault Refusal :=
  .next (
    match findOp s op with
    | some o => if decide (o.state = .running) && o.viaSwitch then fallBack op true s else s
    | none => s)

/-! ## Errors (R360) -/

/-- REDUCTION_STORE_ERROR: every operation on the engine fails, which enters an engine reset. -/
def execReductionStoreError (eng : Nat) (s : State) : Host.Outcome State Fault Refusal :=
  .next (if colEngUp s eng then unitFault (unitOf 3 eng) Cls.engineHw false 0 s else s)

end Sys2Proof.Machine
end

