-- ==== Sys2Proof/Machine/Tollgate.lean ====
section
/-!
DEFINITION. Sys2Proof/Machine/Tollgate.lean: the schedule table, its structural checks, and the tollgate: worst-case costs,
the evaluation of one step, the deadlines and the report record (R365 to R367, R373, R374, R376 to R382).
-/
namespace Sys2Proof.Machine

/-! ## The table (Tables 14-2, 14-4, 14-5) -/

/-- The header of a schedule. -/
structure SHead where
  /-- N_VSTAGES -/
  nVst : Nat
  /-- N_MB -/
  nMb : Nat
  /-- N_ENTRIES -/
  nEnt : Nat
  /-- N_PSETS -/
  nPset : Nat
  /-- N_RESETS -/
  nReset : Nat
  /-- N_GATES -/
  nGate : Nat
  /-- STEP_EVENT -/
  stepEv : Nat
  /-- GUARD -/
  guard : Nat
  /-- COMMITTED -/
  committed : Nat
  /-- ARRIVE -/
  arrive : Nat
  /-- STEP_BUDGET_US -/
  budget : Nat
  /-- EXPOSED_US -/
  exposed : Nat
  /-- CKP_RATE_MBPS -/
  ckpRate : Nat
  /-- BYTES_PER_STEP -/
  bytesStep : Nat
  /-- CKP_BYTES -/
  ckpBytes : Nat
  /-- BUDDY_BYTES -/
  buddy : Nat
  /-- CKP_INTERVAL_US -/
  interval : Nat
  /-- ENTRY_OFFSET -/
  entOff : Nat
  /-- PSET_OFFSET -/
  psetOff : Nat
  /-- EVENT_OFFSET -/
  evOff : Nat
  deriving DecidableEq, Repr

/-- Read the header. -/
def sHead (b : List Byte) : SHead :=
  { nVst := bin b 6 1, nMb := bin b 8 2, nEnt := bin b 10 2, nPset := bin b 12 2, nReset := bin b 14 2, nGate := bin b 16 2
    stepEv := bin b 20 4, guard := bin b 24 4, committed := bin b 28 4, arrive := bin b 32 4, budget := bin b 36 4
    exposed := bin b 40 4, ckpRate := bin b 44 4, bytesStep := bin b 48 8, ckpBytes := bin b 56 8, buddy := bin b 64 8
    interval := bin b 72 8, entOff := bin b 80 8, psetOff := bin b 88 8, evOff := bin b 96 8 }

/-- A schedule entry (Table 14-5). -/
structure SEntry where
  /-- Offset of the record. -/
  base : Nat
  /-- KIND -/
  kind : Nat
  /-- VSTAGE -/
  vst : Nat
  /-- MB -/
  mb : Nat
  /-- PHASE -/
  phase : Nat
  /-- LA_COVERED -/
  laCov : Bool
  /-- REMOTE_WAIT -/
  remote : Bool
  /-- PSET -/
  pset : Nat
  /-- GRAPH or SOURCE -/
  graph : Nat
  /-- ARGS or N_OPS -/
  args : Nat
  /-- ARGS_OFFSET or OFFSET -/
  off : Nat
  /-- WAIT -/
  wait : Nat
  /-- SIGNAL -/
  signal : Nat
  /-- WAIT_BY_US -/
  waitBy : Nat
  /-- SIGNAL_BY_US -/
  signalBy : Nat
  /-- RTT_US -/
  rtt : Nat
  deriving DecidableEq, Repr

/-- Entry `i`. -/
def sEntry (b : List Byte) (h : SHead) (i : Nat) : SEntry :=
  let o := h.entOff + 48 * i
  { base := o, kind := bin b o 1, vst := bin b (o + 1) 1, mb := bin b (o + 2) 2, phase := bin b (o + 4) 1
    laCov := bitOf (bin b (o + 5) 1) 0, remote := bitOf (bin b (o + 5) 1) 1, pset := bin b (o + 6) 2
    graph := bin b (o + 8) 4, args := bin b (o + 12) 4, off := bin b (o + 16) 8, wait := bin b (o + 24) 4
    signal := bin b (o + 28) 4, waitBy := bin b (o + 32) 4, signalBy := bin b (o + 36) 4, rtt := bin b (o + 40) 4 }

/-- The entries in table order. -/
def sEntries (b : List Byte) : List SEntry := (List.range (sHead b).nEnt).map (sEntry b (sHead b))

/-- A parameter set record (Table 14-2). -/
structure PSet where
  /-- Offset of the record. -/
  base : Nat
  /-- WORK_FMT -/
  workFmt : Nat
  /-- STATE_FMT -/
  stateFmt : Nat
  /-- GATHERED -/
  gathered : Bool
  /-- N_PARAMS -/
  n : Nat
  /-- SHARD_PARAMS -/
  shard : Nat
  /-- WORK -/
  work : Nat
  /-- GRAD -/
  grad : Nat
  /-- MASTER -/
  master : Nat
  /-- MOM1 -/
  mom1 : Nat
  /-- MOM2 -/
  mom2 : Nat
  deriving DecidableEq, Repr

/-- Parameter set `i`. -/
def pSet (b : List Byte) (h : SHead) (i : Nat) : PSet :=
  let o := h.psetOff + 64 * i
  { base := o, workFmt := bin b o 1, stateFmt := bin b (o + 1) 1, gathered := bitOf (bin b (o + 2) 1) 0, n := bin b (o + 8) 8
    shard := bin b (o + 16) 8, work := bin b (o + 24) 4, grad := bin b (o + 28) 4, master := bin b (o + 32) 4
    mom1 := bin b (o + 36) 4, mom2 := bin b (o + 40) 4 }

/-- The parameter sets. -/
def pSets (b : List Byte) : List PSet := (List.range (sHead b).nPset).map (pSet b (sHead b))

/-- The reset list: offset in the table and handle. -/
def resetList (b : List Byte) : List (Nat × Nat) :=
  let h := sHead b
  (List.range h.nReset).map fun i => (h.evOff + 4 * i, bin b (h.evOff + 4 * i) 4)

/-- The gate list: offset in the table and handle. -/
def gateList (b : List Byte) : List (Nat × Nat) :=
  let h := sHead b
  (List.range h.nGate).map fun i =>
    let o := h.evOff + 4 * (h.nReset + i)
    (o, bin b o 4)

/-- Is an entry a launch? -/
def eLaunch (e : SEntry) : Bool := decide (e.kind ≤ 2)

/-- Is an entry a post? -/
def ePost (e : SEntry) : Bool := decide (e.kind = 3) || decide (e.kind = 4)

/-! ## Structure (R376) -/

/-- A structural check: REFUSED with SOURCE as the field and the offset in the schedule as the value. -/
def sFail (ok : Bool) (status off : Nat) : Option Result :=
  if ok then none else some { refuse status 24 with value := off }

/-- A structural check on a handle. -/
def sHandle (s : State) (fn c kind h off : Nat) : Option Result :=
  match hCheck s fn (some c) kind h with
  | .ok => none
  | .aborting => sFail false St.refusedState off
  | .bad => sFail false St.refusedHandle off

/-- A structural check on an event of the context. -/
def sOwnEv (s : State) (c h off : Nat) : Option Result :=
  match recEv s c h off with
  | none => none
  | some r => sFail false r.status off

/-- A section lies on a 64-byte boundary within LENGTH. -/
def sectionOk (len off size : Nat) : Bool := decide (off % 64 = 0) && decide (off + size ≤ len)

/-- Step 1: header fields and section placement (R373). -/
def sCheck1 (b : List Byte) : List (Option Result) :=
  let h := sHead b
  let st := St.refusedState
  let len := b.length
  [ sFail (bin b 0 4 = 0x53434831) st 0, sFail (bin b 4 2 = 1) st 4, sFail (1 ≤ h.nVst && h.nVst ≤ 8) st 6,
    sFail (1 ≤ h.nMb && h.nMb ≤ 256) st 8, sFail (1 ≤ h.nEnt && h.nEnt ≤ 16384) st 10,
    sFail (1 ≤ h.nPset && h.nPset ≤ 4096) st 12, sFail (h.nReset ≤ 4096) st 14, sFail (h.nGate ≤ 256) st 16,
    sFail (1 ≤ h.budget && h.budget ≤ 60000000) st 36, sFail (h.exposed ≤ 60000000) st 40,
    sFail (sectionOk len h.entOff (48 * h.nEnt)) st 80, sFail (sectionOk len h.psetOff (64 * h.nPset)) st 88,
    sFail (sectionOk len h.evOff (4 * (h.nReset + h.nGate))) st 96 ]

/-- Step 2 on an entry: its handles; its graph is LOADED. -/
def sEntHandles (s : State) (fn c : Nat) (e : SEntry) : List (Option Result) :=
  (if eLaunch e then
     [ sHandle s fn c Hk.graph e.graph (e.base + 8),
       sFail ((tget s.tsk.graphs (hSlot e.graph)).any fun (g : Graph) => decide (g.state = .loaded)) St.refusedState (e.base + 8),
       (if e.args = 0 then none else sHandle s fn c Hk.mem e.args (e.base + 12)) ]
   else if ePost e then [ sHandle s fn c Hk.mem e.graph (e.base + 8) ] else [])
  ++ [ (if e.wait = 0 then none else sHandle s fn c Hk.ev e.wait (e.base + 24)),
       (if e.signal = 0 then none else sHandle s fn c Hk.ev e.signal (e.base + 28)) ]

/-- Step 2 on a parameter set: its handles; the shard's copies may be null when the shard is empty. -/
def sPsetHandles (s : State) (fn c : Nat) (p : PSet) : List (Option Result) :=
  let mem := fun h off => sHandle s fn c Hk.mem h off
  let shard := fun h off => if h = 0 && p.shard = 0 then none else mem h off
  [ mem p.work (p.base + 24), mem p.grad (p.base + 28), shard p.master (p.base + 32), shard p.mom1 (p.base + 36),
    shard p.mom2 (p.base + 40) ]

/-- Is an event a latch? -/
def isLatch (s : State) (h : Nat) : Bool := (tget s.evs (hSlot h)).any fun (e : Event) => !e.counter

/-- Step 2: every handle passes R78; GUARD and COMMITTED are latch events of the context. -/
def sCheck2 (s : State) (fn c : Nat) (b : List Byte) : List (Option Result) :=
  let h := sHead b
  [ sHandle s fn c Hk.ev h.stepEv 20, sOwnEv s c h.guard 24, sFail (isLatch s h.guard) St.refusedState 24,
    sOwnEv s c h.committed 28, sFail (isLatch s h.committed) St.refusedState 28, sHandle s fn c Hk.ev h.arrive 32 ]
  ++ ((sEntries b).map (sEntHandles s fn c)).flatten ++ ((pSets b).map (sPsetHandles s fn c)).flatten
  ++ (resetList b ++ gateList b).map fun e => sHandle s fn c Hk.ev e.2 e.1

/-- Has every task of a graph PROV = 1? -/
def allProv (s : State) (h : Nat) : Bool :=
  (tget s.tsk.graphs (hSlot h)).any fun (g : Graph) => g.tasks.all fun (r : TaskRec) => r.prov

/-- Step 3 on an entry: legal fields. -/
def sEntFields (s : State) (h : SHead) (e : SEntry) : List (Option Result) :=
  let st := St.refusedState
  [ sFail (e.kind ≤ 4) st e.base, sFail (e.vst < h.nVst || e.vst = 0xFF) st (e.base + 1),
    sFail (e.mb < h.nMb || e.mb = 0xFFFF) st (e.base + 2), sFail (e.phase ≤ 2) st (e.base + 4),
    sFail (e.pset < h.nPset || e.pset = 0xFFFF) st (e.base + 6),
    sFail (!(e.kind = 1 || e.kind = 2) || allProv s e.graph) st (e.base + 8),
    sFail (!ePost e || (1 ≤ e.args && e.args ≤ 4096)) st (e.base + 12),
    sFail (!ePost e || (1 ≤ e.rtt && e.rtt ≤ 10000)) st (e.base + 40) ]

/-- Step 3 on the kinds: exactly one SWEEP, at most one LOOKAHEAD, placed after it. -/
def sKinds (es : List SEntry) : List (Option Result) :=
  let sw := es.filter fun (e : SEntry) => e.kind = 1
  let la := es.filter fun (e : SEntry) => e.kind = 2
  let st := St.refusedState
  [ sFail (!sw.isEmpty) st 10,
    (match sw with
     | _ :: e :: _ => sFail false st e.base
     | _ => none),
    (match la with
     | _ :: e :: _ => sFail false st e.base
     | _ => none),
    (match sw, la with
     | a :: _, l :: _ => sFail (a.base < l.base) st l.base
     | _, _ => none) ]

/-- Bytes of a copy (Table 14-1): 4 FP32, 2 BF16, and MXFP8 with its scales. -/
def copyBytes (fmt n : Nat) : Nat := if fmt = 0x0A then 4 * n else if fmt = 8 then 2 * n else n + (n + 31) / 32

/-- Step 4: a parameter set's objects hold its copies in their declared formats. -/
def sCheck4 (s : State) (p : PSet) : List (Option Result) :=
  let st := St.refusedState
  let fits := fun h fmt n off => sFail (copyBytes fmt n ≤ objSize s h) St.refusedHandle off
  [ sFail (p.workFmt = 8 || p.workFmt = 2) st p.base, sFail (p.stateFmt = 0x0A || p.stateFmt = 8) st (p.base + 1),
    sFail (1 ≤ p.n && p.n ≤ 2 ^ 40) st (p.base + 8), sFail (p.shard ≤ p.n) st (p.base + 16),
    fits p.work p.workFmt p.n (p.base + 24), fits p.grad 0x0A p.n (p.base + 28), fits p.master 0x0A p.shard (p.base + 32),
    fits p.mom1 p.stateFmt p.shard (p.base + 36), fits p.mom2 p.stateFmt p.shard (p.base + 40) ]

/-- Step 5 on the BWD entries of one set, in table order: a chain. -/
def sChain : List SEntry → List (Option Result)
  | a :: e :: l => sFail (e.wait = a.signal && a.signal ≠ 0) St.refusedState (e.base + 24) :: sChain (e :: l)
  | _ => []

/-- Step 5: the BWD entries that name one PSET form a chain. -/
def sCheck5 (h : SHead) (es : List SEntry) : List (Option Result) :=
  ((List.range h.nPset).map fun p => sChain (es.filter fun (e : SEntry) => e.phase = 1 && e.pset = p)).flatten

/-- The launch an entry makes, as the tollgate sees it, with its arguments read now. -/
def entLaunch (s : State) (fn c : Nat) (e : SEntry) : Option (Launch × Graph) :=
  (tget s.tsk.graphs (hSlot e.graph)).map fun g =>
    let r : LaunchReq := { ctx := c, fn := fn, graph := hSlot e.graph, args := e.args, argsOff := e.off, guard := none, tag := 0
                           noFallback := false, byRunner := true, qp := 0, sub := 0 }
    (launchNew s r g (if e.args = 0 then [] else argHandles s .block r g.nArgs), g)

/-- Step 6: no argument of the LOOKAHEAD launch is the WORK object of a GATHERED set. -/
def sCheck6 (s : State) (fn c : Nat) (ps : List PSet) (es : List SEntry) : List (Option Result) :=
  (es.filter fun (e : SEntry) => e.kind = 2).map fun e =>
    match entLaunch s fn c e with
    | some (x, _) => sFail (!(ps.any fun (p : PSet) => p.gathered && x.args.contains p.work)) St.refusedState (e.base + 12)
    | none => none

/-- Does a forward entry wait for a gate, as WAIT or by an EVENT token of its graph (R372)? -/
def waitsGate (s : State) (fn c gate : Nat) (e : SEntry) : Bool :=
  decide (e.phase = 0) && (decide (e.wait = gate) ||
    (eLaunch e && (match entLaunch s fn c e with
      | some (x, g) => g.tokens.any fun (k : TokRec) => tokEvent x k = some (hSlot gate)
      | none => false)))

/-- Step 7: each gate satisfies R372. -/
def sCheck7 (s : State) (fn c : Nat) (b : List Byte) : List (Option Result) :=
  (gateList b).map fun g => sFail ((sEntries b).any (waitsGate s fn c g.2)) St.refusedState g.1

/-- R376: the first check that fails. -/
def schedFail (s : State) (fn c : Nat) (b : List Byte) : Option Result :=
  match firstFail (sCheck1 b) with
  | some r => some r
  | none =>
    let h := sHead b
    let es := sEntries b
    firstFail (sCheck2 s fn c b ++ (es.map (sEntFields s h)).flatten ++ sKinds es ++ ((pSets b).map (sCheck4 s)).flatten
      ++ sCheck5 h es ++ sCheck6 s fn c (pSets b) es ++ sCheck7 s fn c b)

/-! ## Worst-case costs (Table 14-8) -/

/-- A bound that nothing limits. -/
def tgInf : Nat := 2 ^ 62

/-- Division rounded up; nothing limits a division by 0 of a quantity that is not 0. -/
def divUp (a b : Nat) : Nat := if a = 0 then 0 else if b = 0 then tgInf else (a + b - 1) / b

/-- Is an object wholly resident in the scratch of a cluster? -/
def inScratch (s : State) (x : Launch) (clu : Option Nat) (arg : Nat) : Bool :=
  match argMem s x arg, clu with
  | some m, some c =>
    (match tget s.mems m with
     | some o => decide (o.cluster = some c) && (List.range (o.size / pageBytes o.page)).all fun p => o.resident.contains p
     | none => false)
  | _, _ => false

/-- Bytes of a chunk pair element run: `n` rows of `k` elements in a format, with their scales. -/
def loadBytes (fmt n k : Nat) : Nat := (n * k * fmtBits fmt + 7) / 8 + (if isMx fmt then n * k / 32 else 0)

/-- Bytes a block loads (R153), by operand: A, B, and C of MATMUL_ACC. Whole-K chunks that the sub-array kept are left out. -/
def blockLoads (mask nSub : Nat) (o : MatOp) (i : Nat) : Nat × Nat × Nat :=
  let b := blockAt mask o i false
  let p := blockAt mask o (i - nSub) false
  let keeps := decide (nSub ≤ i) && decide (o.k ≤ chunkDepth o) && decide (p.item = b.item)
  ((if keeps && decide (p.row = b.row) then 0 else loadBytes o.fmtA b.rows o.k),
   (if keeps && decide (p.col = b.col) then 0 else loadBytes o.fmtB b.cols o.k),
   (if o.op = 2 then 4 * b.rows * b.cols else 0))

/-- CLK_MX cycles at 1.1 GHz to load bytes, some at 1 TB/s, the others at the grant of the mode in GB/s. -/
def loadCycles (near far grant : Nat) : Nat := divUp (11 * (near * grant + far * 1000)) (10000 * grant)

/-- Cycles of one block at full rate, with the duty of mode 16 (R167, R173). -/
def blockCycles (o : MatOp) : Nat :=
  let k := roundUp o.k 32
  let c := if o.fmtA = 6 ∧ o.fmtB = 6 then (k + 1) / 2 else if isHalfRate o then 2 * k else k
  if o.split = 3 then (16 * c + 9) / 10 else c
where
  /-- Rate class ½: a 16-bit operand (Table 06-5). -/
  isHalfRate (o : MatOp) : Bool := decide (o.fmtA = 8) || decide (o.fmtA = 9) || decide (o.fmtB = 8) || decide (o.fmtB = 9)

/-- Rounds of an operation: the cycles of all rounds, and the drain of the last (R173). -/
def roundsFrom (s : State) (x : Launch) (clu : Option Nat) (mask : Nat) (o : MatOp) : Nat → Nat → Nat × Nat
  | 0, _ => ((0, 0) : Nat × Nat)
  | n + 1, i =>
    let nSub := (subsInService mask o.split).length
    let is := (List.range nSub).filterMap fun j => if i + j < blockCount mask o then some (i + j) else none
    let ls := is.map (blockLoads mask nSub o)
    let a := (ls.map fun e => e.1).sum
    let b := (ls.map fun e => e.2.1).sum
    let c := (ls.map fun e => e.2.2).sum
    let near := fun arg v => if inScratch s x clu arg then v else 0
    let nr := near (o.aAddr / 2 ^ 52) a + near (o.bAddr / 2 ^ 52) b + near (o.cAddr / 2 ^ 52) c
    let outs := (is.map fun k => (blockAt mask o k false).rows * (blockAt mask o k false).cols).sum
    let ob := outs * fmtBits o.fmtOut / 8 + (if isMx o.fmtOut then outs / 32 else 0)
    let d := max (divUp outs 256) (divUp (11 * ob) 5000)
    let t := max (max (blockCycles o) (loadCycles nr (a + b + c - nr) (if confidential s then 227 else 256))) d
    let r := roundsFrom s x clu mask o n (i + nSub)
    (t + r.1, if n = 0 then d else r.2)

/-- R173 for an operation on an engine with a tile mask. -/
def opCycles (s : State) (x : Launch) (clu : Option Nat) (mask : Nat) (o : MatOp) : Nat :=
  let nSub := (subsInService mask o.split).length
  let n := divUp (blockCount mask o) nSub
  if tgInf ≤ n then tgInf
  else
    let r := roundsFrom s x clu mask o n 0
    6 + r.1 + r.2

/-- The operations of a MATRIX task. -/
def matOpsOf (g : Graph) (r : TaskRec) : List MatOp :=
  ((List.range (min 4096 (g.code.length / 128))).filterMap (matRec g r)).takeWhile fun (o : MatOp) => o.op ≠ 0x0F

/-- The healthy cores of a task's class, in the configuration in force (R377). -/
def classCores (s : State) (k : CoreKind) (p : PlaceClass × Nat × Bool) : List Nat :=
  (coresIn k p.1 p.2.1).filter fun core =>
    match k with
    | .matrix => cluInService s core && !(subsInService (engAt s core).mask 0).isEmpty
    | .vector => cluInService s (core / 160) && !vcoreMasked s core
    | .mover => cluInService s core
    | .service => svcUser s core && !partOff s (core / 8)

/-- The bound of a task in ns. -/
def taskBound (s : State) (x : Launch) (g : Graph) (r : TaskRec) : Nat :=
  match r.kind with
  | .join => 0
  | .vector => r.cost
  | .service => r.cost
  | .move => 1000 + divUp (((firstRange x g r.ins).map fun e => e.2.2).getD 0) 227
  | .matrix =>
    let p := placeNow s r
    let clu := if p.1 = .cluster then some p.2.1 else none
    let cycles := (classCores s .matrix p).map fun c => ((matOpsOf g r).map (opCycles s x clu (engAt s c).mask)).sum
    match cycles with
    | [] => tgInf
    | _ => divUp (100 * cycles.foldl max 0 + 49522) 110

/-- A task's class: core kind, placement class and index after fallback. -/
def taskClass (s : State) (r : TaskRec) : Option (CoreKind × PlaceClass × Nat) :=
  (kindCore r.kind).map fun k => (k, (placeNow s r).1, (placeNow s r).2.1)

/-- Σ W_c / m_c over the classes of some tasks, given each task's bound (R378). -/
def workSum (s : State) (ts : List (TaskRec × Nat)) : Nat :=
  let cls := (ts.filterMap fun e => taskClass s e.1).foldl (fun l c => if l.contains c then l else l ++ [c]) []
  (cls.map fun c =>
    let w := ((ts.filter fun e => taskClass s e.1 = some c).map fun e => e.2).sum
    divUp w (classCores s c.1 (c.2.1, c.2.2, false)).length).sum

/-! ## Triggered operations (Tables 13-8 and 14-8) -/

/-- Payload rate of a port in MB/s in the mode in force (Table 11-1), by its lanes in use. -/
def portRate (s : State) (p : Nat) : Nat :=
  let q := portOf s p
  let full := if p < 15 then (if confidential s then 93750 else 100000) else if confidential s then 187500 else 200000
  if q.state = .up ∨ q.state = .degraded then full * q.lanes / (if p < 15 then 4 else 8) else 0

/-- B in MB/s for nodes, an engine mask and CKP_RATE_MBPS, before the framing factor. -/
def payloadRate (s : State) (nodes : List Nat) (ckp : Nat) : Nat :=
  let ports := (nodes.filterMap fun n => routeOf s 23 n none).foldl linsert []
  let board := ((ports.filter fun p => p < 15).map (portRate s)).sum
  let opt := ((ports.filter fun p => 15 ≤ p).map (portRate s)).sum
  board + (opt - ckp)

/-- Bytes an operation sends and receives (Table 13-8), with the headers of WINDOW128 segments. -/
def opBytes (o : OpRec) (n k : Nat) : Nat × Nat :=
  let own := fun ty => spanBytes o ty (shardLo o n k) (shardLo o n (k + 1))
  let all := fun ty => spanBytes o ty 0 (segCount o)
  if o.kind = 1 then (all o.dtype - own o.dtype, (n - 1) * own o.dtype)
  else if o.kind = 2 then ((n - 1) * own o.dtype, all o.dtype - own o.dtype)
  else if o.kind = 3 then
    (all o.dtype - own o.dtype + (n - 1) * own o.outType, (n - 1) * own o.dtype + (all o.outType - own o.outType))
  else if o.kind = 4 then (if k = o.root then ((n - 1) * all o.dtype, 0) else (0, all o.dtype))
  else ((n - 1) * all o.dtype, (n - 1) * all o.dtype)

/-- The bound of an operation in ns. -/
def opBound (s : State) (g : Group) (o : OpRec) (rtt ckp : Nat) : Nat :=
  let rate := payloadRate s (g.members.take g.rank ++ g.members.drop (g.rank + 1)) ckp
  let io := opBytes o g.members.length g.rank
  let most := max io.1 io.2
  let link := divUp (most * 1000 * 2160) (2048 * rate)
  let cap := divUp (most * 1000) (200000 * popCount o.mask 8)
  5000 + 1000 * rtt + (if redWindow o.red && !redExt o.red then 1000 * rtt + 2000 else 0) + max link cap

/-- An operation of the schedule in the evaluation. -/
structure TgOp where
  /-- Entry index -/
  entry : Nat
  /-- Operation index within the entry -/
  idx : Nat
  /-- TRIGGER event slot -/
  trigger : Nat
  /-- COMPLETE event slot -/
  complete : Option Nat
  /-- Bound -/
  bound : Nat
  /-- Fire bound, once known -/
  fire : Option Nat
  /-- xe, once taken on the links -/
  xe : Option Nat
  deriving DecidableEq, Repr

/-- The operations of a POST or POST_COMMIT entry. -/
def entOps (s : State) (c i ckp : Nat) (e : SEntry) : List TgOp :=
  (List.range e.args).map fun k =>
    let b := readBlk s (hSlot e.graph) (e.off + 128 * k) 128
    let g := (recGroup s b).getD noGroup
    let o := recOf s c g b
    { entry := i, idx := k, trigger := o.trigger, complete := o.complete, bound := opBound s g o e.rtt ckp, fire := none, xe := none }

/-! ## One launch (R378) -/

/-- The events that a task signals, by slot. -/
def taskEvents (x : Launch) (g : Graph) (r : TaskRec) : List Nat :=
  r.outs.filterMap fun j => (g.tokens[j]?).bind (tokEvent x)

/-- Where an event comes from within a launch: the tasks that signal it, and with what delay through triggered operations. -/
def evSources (x : Launch) (g : Graph) (ops : List TgOp) : Nat → Nat → List (Nat × Nat)
  | 0, _ => []
  | n + 1, ev =>
    let direct := (numbered g.tasks).filterMap fun (p : Nat × TaskRec) => if (taskEvents x g p.2).contains ev then some (p.1, 0) else none
    let via := (ops.filter fun (o : TgOp) => decide (o.complete = some ev) && o.xe.isNone).map fun o =>
      (evSources x g ops n o.trigger).map fun e => (e.1, e.2 + o.bound)
    direct ++ via.flatten

/-- What an input token waits for: tasks of the launch, each with the delay after its end, or a time from the launch's
start. -/
def tokSources (x : Launch) (g : Graph) (ops : List TgOp) (ext : Nat → Nat) (k : TokRec) : List (Nat × Nat) × Nat :=
  match k.kind with
  | .data => ([(k.producer, 230)], 0)
  | .launch => ([], 230)
  | .event =>
    match tokEvent x k with
    | some ev =>
      let src := evSources x g ops (ops.length + 1) ev
      (src.map fun e => (e.1, if e.2 = 0 then 200 else e.2), if src.isEmpty then max 200 (ext ev) else 0)
    | none => ([], 200)

/-- One pass of the longest path: every task's end from its sources' ends. -/
def pathPass (bounds : List Nat) (srcs : List (List (List (Nat × Nat) × Nat))) (f : List Nat) : List Nat :=
  (bounds.zip srcs).map fun e =>
    e.1 + (e.2.map fun i => (i.1.map fun p => ((f[p.1]?).getD 0) + p.2).foldl max i.2).foldl max 0

/-- The ends of all tasks of a launch on the longest paths. -/
def pathEnds (bounds : List Nat) (srcs : List (List (List (Nat × Nat) × Nat))) : Nat → List Nat
  | 0 => bounds
  | n + 1 => pathPass bounds srcs (pathEnds bounds srcs n)

/-- A task and its ancestors. -/
def ancestors (srcs : List (List (List (Nat × Nat) × Nat))) : Nat → List Nat → List Nat
  | 0, seen => seen
  | n + 1, seen =>
    let ps := (seen.map fun t => (((srcs[t]?).getD []).map fun i => i.1.map fun p => p.1).flatten).flatten
    ancestors srcs n (ps.foldl linsert seen)

/-- The evaluation of one launch: its bound, and for each task the bound of R378 over it and its ancestors. -/
def launchEval (s : State) (x : Launch) (g : Graph) (ops : List TgOp) (ext : Nat → Nat) : Nat × List Nat :=
  let bounds := g.tasks.map (taskBound s x g)
  let srcs := g.tasks.map fun (r : TaskRec) => r.ins.map fun j =>
    match g.tokens[j]? with
    | some k => tokSources x g ops ext k
    | none => (([], 0) : List (Nat × Nat) × Nat)
  let ends := pathEnds bounds srcs g.tasks.length
  let tb := g.tasks.zip bounds
  let pick := fun (is : List Nat) => is.filterMap fun i => tb[i]?
  (2000 + ends.foldl max 0 + workSum s tb,
   (numbered ends).map fun (p : Nat × Nat) => 2000 + p.2 + workSum s (pick (ancestors srcs g.tasks.length [p.1])))

/-! ## One step (R379) -/

/-- The evaluation under way. -/
structure TgState where
  /-- cpu -/
  cpu : Nat
  /-- link -/
  link : Nat
  /-- Operations of the POST entries reached. -/
  ops : List TgOp
  /-- When an event is signalled, by slot. -/
  at_ : Tbl Nat
  /-- Start and sig by entry. -/
  sigs : Tbl (Nat × Nat)
  deriving DecidableEq, Repr

/-- The order of known fire bounds (R379). -/
def opKey (o : TgOp) : Nat := ((o.fire.getD 0) * 2 ^ 16 + o.entry) * 2 ^ 16 + o.idx

/-- Take the next operation with a known fire bound on the links; those chained to it fire at its end. -/
def settleOne (t : TgState) : Option TgState :=
  (minBy opKey (t.ops.filter fun (o : TgOp) => o.fire.isSome && o.xe.isNone)).map fun o =>
    let e := max (o.fire.getD 0) t.link + o.bound
    { t with link := e
             ops := t.ops.map fun (p : TgOp) =>
               if p.entry = o.entry ∧ p.idx = o.idx then { p with xe := some e }
               else if o.complete = some p.trigger ∧ p.fire.isNone then { p with fire := some e } else p }

/-- Do the operations that complete to an event all have their end? -/
def evSettled (t : TgState) (ev : Nat) : Bool :=
  (t.ops.filter fun (o : TgOp) => o.complete = some ev).all fun (o : TgOp) => o.xe.isSome

/-- Settle operations in order until those of an event have their end, or, with no event, all that can. -/
def settleTo (ev : Option Nat) : Nat → TgState → TgState
  | 0, t => t
  | n + 1, t =>
    if (match ev with
        | some v => evSettled t v
        | none => false) then t
    else
      match settleOne t with
      | some t' => settleTo ev n t'
      | none => t

/-- When operations signal an event, once settled. -/
def opsAt (t : TgState) (ev : Nat) : Option Nat :=
  match t.ops.filter fun (o : TgOp) => o.complete = some ev with
  | [] => none
  | os => some ((os.map fun (o : TgOp) => o.xe.getD tgInf).foldl max 0)

/-- Gate chains: the POST_COMMIT operations from t = 0, serialised in post order; when each event is signalled. -/
def gateChain : List TgOp → Nat → Tbl Nat → Tbl Nat
  | [], _, done => done
  | o :: l, link, done =>
    let e := max ((tget done o.trigger).getD 0) link + o.bound
    gateChain l e (match o.complete with
      | some ev => tput done ev (max e ((tget done ev).getD 0))
      | none => done)

/-- The events an entry's launch waits for inside, that operations complete to. -/
def innerEvents (x : Launch) (g : Graph) : List Nat := g.tokens.filterMap (tokEvent x)

/-- One entry of the evaluation. -/
def tgEntry (s : State) (fn c ckp : Nat) (gates : List Nat) (gateEnd : Tbl Nat) (p : Nat × SEntry) (t : TgState) : TgState :=
  let e := p.2
  if e.kind = 4 || e.laCov then t
  else if e.kind = 3 then
    { t with ops := t.ops ++ (entOps s c p.1 ckp e).map fun (o : TgOp) =>
        { o with fire := if thas t.at_ o.trigger then some t.cpu else none } }
  else
    let fuel := t.ops.length + 1
    let ev := hSlot e.wait
    let t := if e.wait = 0 || e.remote || gates.contains ev || thas t.at_ ev then t else settleTo (some ev) fuel t
    let w := if e.remote then e.waitBy * 1000
      else if e.wait = 0 then 0
      else if gates.contains ev then tgetD gateEnd ev 0
      else if thas t.at_ ev then tgetD t.at_ ev 0
      else (opsAt t ev).getD 0
    let start := max t.cpu w
    match entLaunch s fn c e with
    | none => t
    | some (x, g) =>
      let t := (innerEvents x g).foldl (fun t v => if (evSources x g t.ops (t.ops.length + 1) v).isEmpty then settleTo (some v) fuel t else t) t
      let ext := fun v => (if gates.contains v then tgetD gateEnd v 0 else (opsAt t v).getD 0) - start
      let r := launchEval s x g t.ops ext
      let sig := start + r.1
      let fired := ((g.tasks.zip r.2).map fun q => (taskEvents x g q.1).map fun v => (v, start + q.2)).flatten
        ++ (if e.signal = 0 then [] else [(hSlot e.signal, sig)])
      { t with cpu := sig, sigs := tput t.sigs p.1 (start, sig)
               at_ := fired.foldl (fun m q => tput m q.1 (max q.2 (tgetD m q.1 0))) t.at_
               ops := t.ops.map fun (o : TgOp) =>
                 match o.xe, fired.filter fun q => q.1 = o.trigger with
                 | none, q :: l => { o with fire := some ((q :: l).foldl (fun m v => max m v.2) 0) }
                 | _, _ => o }

/-- What the evaluation of a step gives. -/
structure TgStep where
  /-- sig by entry -/
  sigs : Tbl (Nat × Nat)
  /-- The operations of POST entries -/
  ops : List TgOp
  /-- step_bound -/
  bound : Nat
  /-- sig of the last BWD entry -/
  bwd : Option Nat
  deriving DecidableEq, Repr

/-- Does a launch entry signal an event, by SIGNAL or by a task? -/
def entSignals (s : State) (fn c ev : Nat) (e : SEntry) : Bool :=
  eLaunch e && (decide (e.signal ≠ 0 ∧ hSlot e.signal = ev) ||
    (match entLaunch s fn c e with
     | some (x, g) => g.tasks.any fun (r : TaskRec) => (taskEvents x g r).contains ev
     | none => false))

/-- R379 over a schedule. -/
def tgStep (s : State) (fn c : Nat) (b : List Byte) : TgStep :=
  let h := sHead b
  let es := numbered (sEntries b)
  let gates := (gateList b).map fun g => hSlot g.2
  let commits := (es.filter fun (p : Nat × SEntry) => p.2.kind = 4).map fun (p : Nat × SEntry) => entOps s c p.1 h.ckpRate p.2
  let gateEnd := gateChain commits.flatten 0 []
  let t := es.foldl (fun t p => tgEntry s fn c h.ckpRate gates gateEnd p t) { cpu := 0, link := 0, ops := [], at_ := [], sigs := [] }
  let t := settleTo none (t.ops.length + 1) t
  let sigOf := fun i => ((tget t.sigs i).map fun e => e.2).getD 0
  let sweep := ((es.filter fun (p : Nat × SEntry) => p.2.kind = 1).map fun (p : Nat × SEntry) => sigOf p.1).foldl max 0
  let guard := ((es.filter fun (p : Nat × SEntry) => entSignals s fn c (hSlot h.guard) p.2).map fun (p : Nat × SEntry) => sigOf p.1).foldl max 0
  let last := (es.filter fun (p : Nat × SEntry) => decide (p.2.phase = 1) && thas t.sigs p.1).getLast?
  { sigs := t.sigs, ops := t.ops, bwd := last.map fun (p : Nat × SEntry) => sigOf p.1
    bound := (t.ops.map fun (o : TgOp) => o.xe.getD tgInf).foldl max
      ((t.sigs.map fun (e : Nat × (Nat × Nat)) => e.2.2).foldl max (max sweep guard + 2000)) }

/-! ## Deadlines (R380, R381) -/

/-- The report of an evaluation (Table 14-10). -/
structure TgReport where
  /-- CONSTRAINT -/
  code : Nat
  /-- ENTRY -/
  entry : Nat
  /-- OP -/
  op : Nat
  /-- BOUND_NS -/
  bound : Nat
  /-- LIMIT_NS -/
  limit : Nat
  /-- STEP_NS -/
  step : Nat
  /-- EXPOSED_NS -/
  exposed : Nat
  /-- CKP_NS -/
  ckp : Nat
  /-- INGEST_NS -/
  ingest : Nat
  deriving DecidableEq, Repr

/-- Is a stream open? -/
def streamOpen (x : Stream) : Bool := !(decide (x.state = .closed) || decide (x.state = .failed))

/-- Ingest time of a step in ns. -/
def ingestNs (s : State) (c : Nat) (h : SHead) : Nat :=
  let rate := ((s.ing.streams.filter fun (e : Nat × Stream) => decide (e.2.ctx = c) && streamOpen e.2).map
    fun (e : Nat × Stream) => e.2.rate).sum
  divUp (h.bytesStep * 1000) rate

/-- Checkpoint cost in ns. -/
def ckpNs (h : SHead) : Nat :=
  if h.interval = 0 then 0
  else 1000000000 + divUp (h.ckpBytes * 1000) h.ckpRate + divUp h.ckpBytes 4 + divUp h.buddy 50

/-- Bytes a schedule needs of its function's share: its copy, the launch states of a step, and the version space of SWEEP
and LOOKAHEAD. -/
def schedBytes (s : State) (fn c : Nat) (b : List Byte) : Nat :=
  b.length + ((sEntries b).map fun (e : SEntry) =>
    if eLaunch e then
      match entLaunch s fn c e with
      | some (x, g) => launchBytes g + (if e.kind = 0 then 0 else 65536 * spanUnion (provSpans x g))
      | none => 0
    else 0).sum

/-- The promise that fails first. -/
def promiseFail (b : List Byte) (t : TgStep) : Option (Nat × Nat × Nat) :=
  (numbered (sEntries b)).findSome? fun (p : Nat × SEntry) =>
    match tget t.sigs p.1 with
    | some (_, sig) => if p.2.signalBy ≠ 0 ∧ p.2.signalBy * 1000 < sig then some (p.1, sig, p.2.signalBy * 1000) else none
    | none => none

/-- The operation with the greatest end. -/
def lastOp (t : TgStep) : Option TgOp := (minBy (fun (o : TgOp) => 2 * tgInf - o.xe.getD tgInf) t.ops)

/-- The tollgate's answer for a schedule: R380 in order, and the report. `left` is what the share has left for it. -/
def tollgate (s : State) (fn c : Nat) (b : List Byte) (left : Nat) : TgReport :=
  let h := sHead b
  let t := tgStep s fn c b
  let limit := h.budget * 1000
  let last := (lastOp t).map fun (o : TgOp) => (o, o.xe.getD tgInf)
  let exposed := match last, t.bwd with
    | some (_, e), some w => e - w
    | _, _ => 0
  let base : TgReport :=
    { code := 0, entry := 0xFFFF, op := 0xFFFFFFFF, bound := t.bound, limit := limit, step := t.bound, exposed := exposed
      ckp := ckpNs h, ingest := ingestNs s c h }
  match promiseFail b t with
  | some (i, v, l) => { base with code := 1, entry := i, bound := v, limit := l }
  | none =>
    match last, t.bwd with
    | some (o, e), some w =>
      if w + h.exposed * 1000 < e then
        { base with code := 2, entry := o.entry, op := o.idx, bound := e, limit := w + h.exposed * 1000 }
      else rest h base left limit
    | _, _ => rest h base left limit
where
  /-- The deadlines after EXCHANGE. -/
  rest (h : SHead) (base : TgReport) (left limit : Nat) : TgReport :=
    let need := schedBytes s fn c b
    if limit < base.step then { base with code := 3 }
    else if limit < base.ingest then { base with code := 4, bound := base.ingest }
    else if h.interval ≠ 0 ∧ h.interval * 1000 < base.ckp then { base with code := 5, bound := base.ckp, limit := h.interval * 1000 }
    else if left < need then { base with code := 6, bound := need, limit := left }
    else base

/-- The report record (Table 14-10). -/
def reportBytes (r : TgReport) : List Byte :=
  leBytes 1 r.code ++ leBytes 1 0 ++ leBytes 2 r.entry ++ leBytes 4 r.op ++ leBytes 8 r.bound ++ leBytes 8 r.limit
    ++ leBytes 8 r.step ++ leBytes 8 r.exposed ++ leBytes 8 r.ckp ++ leBytes 8 r.ingest ++ leBytes 8 0

/-- The configuration in force (R377). -/
def schedConfig (s : State) : SchedConfig :=
  { retired := s.nv.retired, tiles := (s.mxe.engines.map fun (e : Nat × Engine) => (e.1, e.2.mask)).filter fun e => e.2 ≠ 0
    cores := (s.vcu.clu.map fun (e : Nat × VcuClu) => (e.1, e.2.mask)).filter fun e => e.2 ≠ 0
    offline := s.clk.partOffline
    up := (List.range 23).filter fun p => (portOf s p).state = .up, routes := s.lnk.routes }

/-- Has the configuration changed as R382 lists? -/
def configMoved (old new : SchedConfig) : Bool :=
  decide (old.retired ≠ new.retired) || decide (old.tiles ≠ new.tiles) || decide (old.cores ≠ new.cores)
    || decide (old.offline ≠ new.offline) || old.up.any (fun p => !new.up.contains p) || decide (old.routes ≠ new.routes)

end Sys2Proof.Machine
end

