-- ==== Sys2Proof/Machine/Schedule.lean ====
section
/-!
DEFINITION. Sys2Proof/Machine/Schedule.lean: the end of launches and descriptors, and step schedules: loading, admission and
the schedule runner (chapter 14).
-/
namespace Sys2Proof.Machine

/-! ## The runner (R368 to R371, R383) -/

/-- Change the runner of a context. -/
def modRun (c : Nat) (f : Runner → Runner) (s : State) : State := { s with runners := tmod s.runners c f }

/-- The raw descriptor that an entry becomes (R369, Table 14-3): LAUNCH_GRAPH with QUIET and the entry's tag, or TRIG_POST. -/
def entryRaw (h : SHead) (i : Nat) (e : SEntry) : BitVec 512 :=
  let tag := i + fieldAt e.vst 16 8 + fieldAt e.mb 24 8 + fieldAt e.kind 32 8
  if eLaunch e then
    BitVec.ofNat 512 (0x38 + 2 ^ 9 + tag * 2 ^ 64 + e.wait * 2 ^ 128 + e.signal * 2 ^ 160 + e.graph * 2 ^ 192 + e.args * 2 ^ 224
      + e.off * 2 ^ 256 + (if e.kind = 0 then 0 else h.guard) * 2 ^ 320)
  else BitVec.ofNat 512 (0x70 + tag * 2 ^ 64 + e.graph * 2 ^ 192 + e.off * 2 ^ 256 + e.args * 2 ^ 320)

/-- The next submission number of the runner on a queue pair. -/
def runnerSub (s : State) (q : Nat) : Nat :=
  (s.cmd.descs.filter fun (d : Desc) => d.qp = q && byRun d.sub).foldl (fun n (d : Desc) => max n (d.sub + 1)) runnerBase

/-- Enter an entry as a descriptor: it reserves a completion slot and passes the header checks of R95. A post writes no
record and waits for nothing. -/
def issueEntry (q : Nat) (p : QueuePair) (h : SHead) (i : Nat) (e : SEntry) (s : State) : State :=
  let d : Desc := { qp := q, sub := runnerSub s q, pos := i, fn := p.fn, raw := entryRaw h i e
                    phase := if eLaunch e then .fetched else .started
                    noRecord := !eLaunch e, sigOk := false, escalated := false, note := 0 }
  let d := match headerFail s d with
    | some r => { d with phase := .ended r }
    | none => d
  let sig := decide (dSignal d ≠ 0) && (needH s d Hk.ev 20).isNone
  let s := modCmd (fun c => { c with descs := c.descs ++ [{ d with sigOk := sig }] }) s
  modQp q (fun p => { p with reserved := p.reserved + 1 }) s

/-- Is an entry passed over in a step (R368)? -/
def entrySkipped (r : Runner) (e : SEntry) : Bool := decide (e.kind = 4) || (e.laCov && r.laCommitted)

/-- Issue the entries from the runner's position on, while a completion slot is free (R370). -/
def issueEntries (c : Nat) : Nat → State → State
  | 0, s => s
  | n + 1, s =>
    match tget s.runners c with
    | none => s
    | some r =>
      let h := sHead r.table
      if r.next < h.nEnt ∧ r.failed = none then
        let e := sEntry r.table h r.next
        if entrySkipped r e then issueEntries c n (modRun c (fun r => { r with next := r.next + 1 }) s)
        else
          match getQp s r.desc.1 with
          | none => s
          | some p =>
            if 1 ≤ freeSlots p then
              issueEntries c n (modRun c (fun r => { r with next := r.next + 1 }) (issueEntry r.desc.1 p h r.next e s))
            else s
      else s

/-- Issue the POST_COMMIT entries, in table order. -/
def issueCommits (c : Nat) (r : Runner) (s : State) : State :=
  let h := sHead r.table
  (numbered (sEntries r.table)).foldl (fun s (q : Nat × SEntry) =>
    if q.2.kind = 4 then
      match getQp s r.desc.1 with
      | some p => issueEntry r.desc.1 p h q.1 q.2 s
      | none => s
    else s) s

/-- SWEEP_COMPLETE (R368): COMMITTED and the gates are reset; a commit posts the POST_COMMIT entries and signals COMMITTED,
else every gate is signalled. -/
def sweepDone (c : Nat) (r : Runner) (done : Bool) (s : State) : State :=
  let h := sHead r.table
  let gates := (gateList r.table).map fun g => hSlot g.2
  let s := updateEvents (((hSlot h.committed) :: gates).map fun e => (e, EvOp.rst)) s
  if done then updateEvent (hSlot h.committed) (.sig r.step false) (issueCommits c r s)
  else updateEvents (gates.map fun e => (e, EvOp.sig r.step false)) s

/-- The runner takes note that the launch of an entry has completed with a status (R368, R370). -/
def runnerNote (c i status : Nat) (s : State) : State :=
  match tget s.runners c with
  | none => s
  | some r =>
    if !r.active || !r.inStep then s
    else
      let e := sEntry r.table (sHead r.table) i
      if status = St.poisoned ∨ status = St.aborted then
        match r.failed with
        | some _ => s
        | none => discardGens c 0 (modRun c (fun r => { r with failed := some (status, i) }) s)
      else if e.kind = 2 then modRun c (fun r => { r with laDone := decide (status = St.done) }) s
      else if e.kind = 1 ∧ r.failed = none then sweepDone c r (decide (status = St.done)) s
      else s

/-- The status a descriptor has ended with. -/
def endStatus (d : Desc) : Option Nat :=
  match d.phase with
  | .ended r => some r.status
  | _ => none

/-- Tell the runner of the end of one of its launches, once. -/
def noteEnd (qp sub : Nat) (s : State) : State :=
  match findDesc s qp sub with
  | none => s
  | some d =>
    match endStatus d, descCtx s d with
    | some st, some c =>
      if byRun sub && decide (dOp d = 0x38) && decide (d.note ≠ 2) then
        runnerNote c d.pos st (modDesc qp sub (fun d => { d with note := 2 }) s)
      else s
    | _, _ => s

/-- A promise in SIGNAL_BY_US that the signal misses counts in LATE (R374). -/
def countLate (d : Desc) (s : State) : State :=
  match descCtx s d with
  | none => s
  | some c =>
    modRun c (fun r =>
      let e := sEntry r.table (sHead r.table) d.pos
      if decide (e.signalBy ≠ 0) && decide (r.t0 + e.signalBy * 1000 < s.now) then { r with lates := satAdd 65535 r.lates 1 } else r) s

/-- COMPLETION_WRITE (R98, R104). -/
def execCompletionWrite (qp sub : Nat) (s : State) : Host.Outcome State Fault Refusal :=
  .next (match findDesc s qp sub with
  | none => s
  | some d =>
    if dEnded d then
      let s := noteEnd qp sub s
      completeDesc d (if byRun sub ∧ dOp d = 0x38 then countLate d s else s)
    else s)

/-! ## The end of a launch (R134) -/

/-- Has every task of a launch ended and any generation of it been resolved? -/
def launchOver (s : State) (x : Launch) (g : Graph) : Bool :=
  (liveTasks g x).isEmpty
    && (s.tsk.gens.filter fun (h : Generation) => h.launch = x.id).all fun (h : Generation) => decide (h.state = .resolved)

/-- LAUNCH_COMPLETE -/
def execLaunchComplete (launch : Nat) (s : State) : Host.Outcome State Fault Refusal :=
  .next (match findLaunch s launch with
  | none => s
  | some x =>
    match launchGraph s x with
    | none => s
    | some g => if launchOver s x g then noteEnd x.qp x.sub (endLaunch launch s) else s)

/-! ## Loading and admission (R375 to R382) -/

/-- The operands of SCHED_LOAD and TOLLGATE_CHECK, and the admission they start. -/
def startAdmission (load : Bool) (d : Desc) (s : State) : State :=
  let src := dfld d 24 4
  let off := dfld d 32 8
  let len := clampTo 128 16777216 (dfld d 40 8)
  let rep := dfld d 48 4
  let repOff := dfld d 56 8
  match descCtx s d with
  | none => s
  | some c =>
    guarded d
      [ needH s d Hk.mem 24, needRange s src off len 32, needH0 s d Hk.mem 48,
        (if rep = 0 then none else chk (repOff % 64 = 0) St.refusedHandle 56),
        (if rep = 0 then none else needWritable s rep repOff 64 56),
        chk (!load || !thas s.runners c) St.refusedState 0 ] (fun s =>
      let s := touch (hSlot src) off len false s
      if poisonedIn s (hSlot src) off len then endD d (resOf St.poisoned) s
      else
        let b := readMem s (.desc d.qp d.sub) (hSlot src) off len
        match schedFail s d.fn c b with
        | some r => endD d r s
        | none =>
          let a : Admission := { desc := (d.qp, d.sub), ctx := c, fn := d.fn, table := b, report := (rep, repOff), load := load }
          runDesc d.qp d.sub 0 { s with admits := s.admits ++ [a] }) s

/-- SCHED_LOAD -/
def execSchedLoad (qp sub : Nat) (s : State) : Host.Outcome State Fault Refusal :=
  .next (onStarted 0x80 qp sub (startAdmission true) s)

/-- TOLLGATE_CHECK -/
def execTollgateCheck (qp sub : Nat) (s : State) : Host.Outcome State Fault Refusal :=
  .next (onStarted 0x81 qp sub (startAdmission false) s)

/-- Write a report record where REPORT names a live object (R381). -/
def writeReport (rep : Nat × Nat) (r : TgReport) (s : State) : State :=
  if rep.1 = 0 then s
  else
    match tget s.mems (hSlot rep.1) with
    | some m =>
      if !m.aborting && decide (rep.2 + 64 ≤ m.size) && writableRange m rep.2 64 then
        storeBlk (hSlot rep.1) rep.2 (reportBytes r) s
      else s
    | none => s

/-- The runner of a schedule as it is loaded. -/
def runnerNew (s : State) (a : Admission) : Runner :=
  { table := a.table, report := a.report, config := schedConfig s, stepEvent := hSlot (sHead a.table).stepEv, active := false
    fresh := false, sigAt := 0, desc := a.desc, left := none, stops := [], inStep := false, step := 0, t0 := 0, next := 0
    laCommitted := false, laDone := false, failed := none, posted := [], overs := 0, lates := 0, retries := 0
    readmitFailed := false, readmitDue := false }

/-- ADMISSION_COMPLETE (R375, R380, R381): the tollgate is evaluated, the report record is written, an admitted SCHED_LOAD
loads its schedule. A schedule that another SCHED_LOAD has loaded meanwhile refuses it. -/
def execAdmissionComplete (qp sub : Nat) (s : State) : Host.Outcome State Fault Refusal :=
  .next (
    match s.admits.find? fun (a : Admission) => a.desc = (qp, sub) with
    | none => s
    | some a =>
      let s := { s with admits := s.admits.filter fun (b : Admission) => b.desc ≠ (qp, sub) }
      match findDesc s qp sub with
      | none => s
      | some d =>
        if d.phase ≠ .running then s
        else if a.load && thas s.runners a.ctx then endD d (refuse St.refusedState 0) s
        else
          let r := tollgate s a.fn a.ctx a.table (shareLeft s a.fn)
          let s := writeReport a.report r s
          if r.code = 0 then
            let s := if a.load then { s with runners := tput s.runners a.ctx (runnerNew s a) } else s
            endD d { rDone with value := r.step } s
          else endD d { resOf St.refusedTollgate with aux := r.code, value := r.bound - r.limit } s)

/-- READMISSION (R382): the tollgate is evaluated again in the background; the share counts the copy already. -/
def execReadmission (ctx : Nat) (s : State) : Host.Outcome State Fault Refusal :=
  .next (match tget s.runners ctx with
  | none => s
  | some r =>
    if r.readmitDue then
      let fn := ctxFn s ctx
      let t := tollgate s fn ctx r.table (shareLeft s fn + r.table.length)
      writeReport r.report t
        (modRun ctx (fun r => { r with readmitDue := false, readmitFailed := decide (t.code ≠ 0), config := schedConfig s }) s)
    else s)

/-- SCHED_START -/
def execSchedStart (qp sub : Nat) (s : State) : Host.Outcome State Fault Refusal :=
  .next (onStarted 0x82 qp sub (fun d s =>
    match descCtx s d with
    | none => s
    | some c =>
      match tget s.runners c with
      | none => endD d (refuse St.refusedState 0) s
      | some r =>
        if r.active then endD d (refuse St.refusedState 0) s
        else
          let n := dfld d 24 4
          runDesc qp sub 0 (modRun c (fun r => { r with
            active := true, fresh := true, desc := (qp, sub), left := if n = 0 then none else some n, stops := []
            inStep := false, next := 0, laCommitted := false, laDone := false, failed := none, posted := [] }) s)) s)

/-- SCHED_STOP: with no runner there is nothing to stop. -/
def execSchedStop (qp sub : Nat) (s : State) : Host.Outcome State Fault Refusal :=
  .next (onStarted 0x83 qp sub (fun d s =>
    match descCtx s d with
    | none => s
    | some c =>
      match tget s.runners c with
      | none => endD d (refuse St.refusedState 0) s
      | some r =>
        if r.active then runDesc qp sub 0 (modRun c (fun r => { r with stops := r.stops ++ [(qp, sub)] }) s)
        else endD d (refuse St.refusedState 0) s) s)

/-- SCHED_QUERY -/
def execSchedQuery (qp sub : Nat) (s : State) : Host.Outcome State Fault Refusal :=
  .next (onStarted 0x84 qp sub (fun d s =>
    match (descCtx s d).bind (tget s.runners) with
    | none => endD d rDone s
    | some r =>
      endD d { rDone with
        value := r.step, aux := r.overs + fieldAt r.lates 16 16, handle := r.retries
        flags := bitAt r.active 0 + bitAt r.readmitFailed 1 + bitAt r.laCommitted 2 } s) s)

/-- SCHED_UNLOAD -/
def execSchedUnload (qp sub : Nat) (s : State) : Host.Outcome State Fault Refusal :=
  .next (onStarted 0x85 qp sub (fun d s =>
    match descCtx s d with
    | none => s
    | some c =>
      match tget s.runners c with
      | none => endD d (refuse St.refusedState 0) s
      | some r =>
        if r.active then endD d (refuse St.refusedState 0) s
        else endD d rDone { s with runners := tdel s.runners c }) s)

/-! ## Steps (R368, R383) -/

/-- RUNNER_STEP_START: STEP_EVENT is signalled and a step begins; its entries are issued in table order. In a step whose
issue waited for free completion slots, the issue goes on. -/
def execRunnerStepStart (ctx : Nat) (s : State) : Host.Outcome State Fault Refusal :=
  .next (match tget s.runners ctx with
  | none => s
  | some r =>
    let n := (sHead r.table).nEnt
    if !r.active then s
    else if r.inStep then issueEntries ctx n s
    else
      match tget s.evs r.stepEvent with
      | none => s
      | some e =>
        if e.signalled && !r.fresh then
          issueEntries ctx n (modRun ctx (fun r => { r with
            inStep := true, step := e.payload / 2 ^ 24 % 2 ^ 40, t0 := r.sigAt, next := 0, posted := [], laDone := false
            failed := none }) s)
        else s)

/-- LAUNCH_RETRY (R369): a launch of the runner that met RETRY_LATER is issued again. -/
def execLaunchRetry (qp sub : Nat) (s : State) : Host.Outcome State Fault Refusal :=
  .next (if retryDue s qp sub then
    match (findDesc s qp sub).bind (descCtx s) with
    | some c =>
      launchNow qp sub (modRun c (fun r => { r with retries := satAdd (2 ^ 32 - 1) r.retries 1 })
        (modDesc qp sub (fun d => { d with note := 0 }) s))
    | none => s
  else s)

/-- Has every launch of the step completed and every operation of its POST entries ended? -/
def stepOver (s : State) (c : Nat) (r : Runner) : Bool :=
  (decide ((sHead r.table).nEnt ≤ r.next) || r.failed.isSome)
    && !(s.cmd.descs.any fun (d : Desc) => d.qp = r.desc.1 && byRun d.sub)
    && !(s.tsk.launches.any fun (x : Launch) => decide (x.ctx = c) && x.byRunner)
    && !(s.col.ops.any fun (o : TrigOp) => r.posted.contains o.id)

/-- End SCHED_STOP descriptors with a result. -/
def endStops (l : List (Nat × Nat)) (res : Result) (s : State) : State := l.foldl (fun s p => endDesc p.1 p.2 res s) s

/-- The runner stops: SCHED_START completes, and the SCHED_STOP descriptors with it. -/
def runnerStops (c : Nat) (r : Runner) (start stop : Result) (s : State) : State :=
  endStops r.stops stop (endDesc r.desc.1 r.desc.2 start (haltRunner c s))

/-- The end of a good step (R368): events are reset, ARRIVE is signalled with S, over-budget steps count, and the runner
stops after its last step. -/
def stepGood (c : Nat) (r : Runner) (s : State) : State :=
  let h := sHead r.table
  let moved := match tget s.evs r.stepEvent with
    | some e => e.signalled && decide (e.payload / 2 ^ 24 % 2 ^ 40 ≠ r.step)
    | none => false
  let evs := (if moved then [] else [r.stepEvent]) ++ [hSlot h.guard] ++ (resetList r.table).map fun e => hSlot e.2
  let late := decide (r.t0 + h.budget * 1000 < s.now)
  let s := modRun c (fun r => { r with
    inStep := false, laCommitted := r.laDone, posted := [], overs := if late then satAdd 65535 r.overs 1 else r.overs
    left := r.left.map fun n => n - 1, readmitDue := r.readmitDue || configMoved r.config (schedConfig s) }) s
  let s := updateEvents (evs.map fun e => (e, EvOp.rst)) s
  let s := updateEvent (hSlot h.arrive) (.sig r.step false) s
  let res := { rDone with value := r.step }
  if r.left = some 1 ∨ r.stops ≠ [] then runnerStops c r res res s else s

/-- RUNNER_STEP_END -/
def execRunnerStepEnd (ctx : Nat) (s : State) : Host.Outcome State Fault Refusal :=
  .next (match tget s.runners ctx with
  | none => s
  | some r =>
    if r.active && r.inStep && stepOver s ctx r then
      match r.failed with
      | some (st, i) => runnerStops ctx r { resOf st with aux := i, value := r.step } { resOf St.aborted with value := r.step } s
      | none => stepGood ctx r s
    else s)

end Sys2Proof.Machine
end

