-- ==== Sys2Proof/Machine/Ingest.lean ====
section
/-!
DEFINITION. Sys2Proof/Machine/Ingest.lean: sample streams: opening and closing, arriving samples, the mover, and the
allocator's own commands (chapter 15, R249).
-/
namespace Sys2Proof.Machine

/-! ## Opening (R385, R386) -/

/-- A stream as STREAM_OPEN makes it. -/
def streamNew (d : Desc) (c now : Nat) : Stream :=
  { state := .opening, ctx := c, desc := some (d.qp, d.sub), server := dfld d 24 3, allowPlain := bitOf (dfld d 27 1) 0
    dest := hSlot (dfld d 28 4), landedEv := hSlot (dfld d 32 4), consumedEv := hSlot (dfld d 36 4)
    rate := clampTo 1 100000 (dfld d 40 4), stopUs := clampTo 1 40 (dfld d 44 1), bufCap := clampTo 1 512 (dfld d 46 2)
    startSsn := dfld d 48 8, sourceId := dfld d 56 8, rtt := 0, allow := 0, landed := 0, consumed := 0, bounds := []
    samples := 0, gapped := 0, nextSsn := dfld d 48 8, nextTxn := 0, partly := none, current := none, handed := []
    escape := [], runOn := 0, overrun := false, awaiting := none, sends := 0, openAt := now, ctlSends := 1
    closeDone := false, discard := false, discarded := 0, gaps := 0, overruns := 0, holds := 0 }

/-- The payload of OPEN: SOURCE_ID, START_SSN, RATE_MBPS, STOP_US. -/
def openBytes (x : Stream) : List Byte := leBytes 8 x.sourceId ++ leBytes 8 x.startSsn ++ leBytes 4 x.rate ++ leBytes 1 x.stopUs

/-- Is any stream CLOSING? -/
def anyClosing (s : State) : Bool := s.ing.streams.any fun (e : Nat × Stream) => decide (e.2.state = .closing)

/-- STREAM_OPEN -/
def execStreamOpen (qp sub : Nat) (s : State) : Host.Outcome State Fault Refusal :=
  .next (onStarted 0x90 qp sub (fun d s =>
    match descCtx s d with
    | none => s
    | some c =>
      guarded d
        [ needH s d Hk.mem 28, chk (262144 ≤ objSize s (dfld d 28 4)) St.refusedHandle 28, needH s d Hk.ev 32, needH s d Hk.ev 36 ]
        (fun s =>
          let x := streamNew d c s.now
          if confidential s && !sessionNode s x.server then uniformRefuse d 4 s
          else
            match firstFrom (fun n => !thas s.ing.streams n) 64 0 with
            | none => endD d { resOf (if anyClosing s then St.retryLater else St.refusedState) with value := 1 } s
            | some n =>
              let s := modIng (fun g => { g with streams := tput g.streams n x, closed := tdel g.closed n }) s
              ingestTell n x 1 (openBytes x) (runDesc qp sub n s)) s) s)

/-- The in-service cluster of a partition that stands in for a landing cluster: the next lower one not already used. -/
def landingIn (s : State) (p : Nat) (used : List Nat) : Nat → Option Nat
  | 0 => none
  | k + 1 => if !cluRetired s (16 * p + k) && !used.contains (16 * p + k) then some (16 * p + k) else landingIn s p used k

/-- Landing clusters of a partition: 16p + 12 to 16p + 15, a retired one replaced. -/
def landingOf (s : State) (p : Nat) : List Nat :=
  let own := ((List.range 4).map fun i => 16 * p + 12 + i).filter fun c => !cluRetired s c
  (List.range (4 - own.length)).foldl (fun l _ =>
    match landingIn s p l 12 with
    | some c => c :: l
    | none => l) own

/-- Landing clusters of the chip, in index order. -/
def landingClusters (s : State) : List Nat :=
  ((List.range 4).filter fun p => !partOff s p && !partInReset s p).flatMap fun p =>
    (landingOf s p).foldl (fun (t : Tbl Unit) c => tput t c ()) [] |> tkeys

/-- The cluster that holds the escape lane: the highest landing cluster of partition 0. -/
def escapeIn (cs : List Nat) : Option Nat := (cs.filter fun c => c < 16).getLast?

/-- Are the top segments of a cluster free for the reservation: out of the cache part, with no resident page? -/
def segsFree (s : State) (c n : Nat) : Bool :=
  let k := cluAt s c
  decide (k.cacheSegs + k.deviceSegs + n ≤ 16) && decide (scratchRanges s c ≤ 2 * (16 - k.cacheSegs - k.deviceSegs - n))

/-- The first cluster whose segments the reservation cannot take. -/
def landingFail (s : State) : Option Nat :=
  let cs := landingClusters s
  match escapeIn cs with
  | none => some 15
  | some e => cs.find? fun c => !segsFree s c (if c = e then 4 else 2)

/-- Make the reservation of R386. -/
def takeLanding (s : State) : State :=
  let cs := landingClusters s
  let e := (escapeIn cs).getD 15
  let take := fun (k c : Nat) (s : State) => modClu c (fun x => { x with deviceSegs := x.deviceSegs + k }) s
  let s := take 2 e (cs.foldl (fun s c => take 2 c s) s)
  let a : Allocator := { n := 64, pointer := 0, free := List.range (32 * cs.length), line := [], reserved := [], held := [] }
  let s := modHbm (fun h => { h with allocs := tput h.allocs 0 a }) s
  modIng (fun g => { g with held := true, clusters := cs, escapeCluster := e, emptied := [] }) s

/-- Streams past their opening. -/
def openStreams (s : State) : List Stream := (s.ing.streams.map Prod.snd).filter fun (x : Stream) => x.state ≠ .opening

/-- Why a stream is not admitted (Table 15-2). -/
def admitFail (s : State) (x : Stream) : Option Nat :=
  let xs := openStreams s
  if 100000 < (xs.map Stream.rate).sum + x.rate then some 2
  else if 8388608 < (xs.map Stream.allow).sum + x.allow then some 3
  else if s.ing.held then none
  else (landingFail s).map fun c => 4 + 256 * c

/-- Is a stream's descriptor still waiting? -/
def openWaits (s : State) (x : Stream) : Bool :=
  match x.desc with
  | some (q, u) =>
    match findDesc s q u with
    | some d => decide (d.phase = .running)
    | none => false
  | none => false

/-- End a stream's STREAM_OPEN. -/
def openEnds (x : Stream) (r : Result) (s : State) : State :=
  match x.desc with
  | some (q, u) => endDesc q u r s
  | none => s

/-- OPEN_ACK (R385): the round trip is measured, the allowance computed, and the stream admitted. -/
def execOpenAck (port node stream reason : Nat) (s : State) : Host.Outcome State Fault Refusal :=
  .next (match streamAt s stream with
  | none => routeDrop port s
  | some x =>
    if x.state ≠ .opening ∨ x.server ≠ node then routeDrop port s
    else if !openWaits s x then endStream stream s
    else if reason ≠ 0 then
      endStream stream (openEnds x { resOf St.refusedState with value := 5 + 256 * (reason % 256) } s)
    else
      let rtt := (s.now - x.openAt + 999) / 1000
      let y := { x with rtt := rtt, allow := x.rate * (x.stopUs + rtt) }
      match admitFail s y with
      | some v => endStream stream (openEnds x { resOf St.refusedState with value := v } s)
      | none =>
        let s := if s.ing.held then s else takeLanding s
        let s := modStream stream (fun _ => { y with state := .flowing, desc := none }) s
        openEnds x { rDone with aux := stream, value := rtt % 65536 + y.allow * 2 ^ 32 } s)

/-- OPEN_RESEND (R385) -/
def execOpenResend (stream : Nat) (s : State) : Host.Outcome State Fault Refusal :=
  .next (match streamAt s stream with
  | none => s
  | some x =>
    if x.state ≠ .opening then s
    else if !openWaits s x then endStream stream s
    else if x.ctlSends < 3 then
      ingestTell stream x 1 (openBytes x) (modStream stream (fun x => { x with ctlSends := x.ctlSends + 1, openAt := s.now }) s)
    else endStream stream (openEnds x (resOf St.timeout) s))

/-! ## Opcodes on an open stream (R397 to R399) -/

/-- The stream a descriptor names, where it is open in its context. -/
def descStream (s : State) (d : Desc) : Option (Nat × Stream) :=
  match streamAt s (dfld d 24 1) with
  | some x => if some x.ctx = descCtx s d ∧ x.state ≠ .opening then some (dfld d 24 1, x) else none
  | none => none

/-- STREAM_CLOSE -/
def execStreamClose (qp sub : Nat) (s : State) : Host.Outcome State Fault Refusal :=
  .next (onStarted 0x91 qp sub (fun d s =>
    match descStream s d with
    | none => endD d (refuse St.refusedHandle 24) s
    | some (n, x) =>
      if x.state = .closing then endD d (refuse St.refusedState 24) s
      else tryClose n (closeStream n (bitOf (dfld d 25 1) 0) (some (qp, sub)) (runDesc qp sub n s))) s)

/-- STATE of a stream (Table 15-11). -/
def streamCode (st : StreamState) : Nat :=
  match st with
  | .closed => 0
  | .opening => 1
  | .flowing => 2
  | .holding => 3
  | .draining => 4
  | .closing => 5
  | .failed => 6

/-- STREAM_QUERY -/
def execStreamQuery (qp sub : Nat) (s : State) : Host.Outcome State Fault Refusal :=
  .next (onStarted 0x92 qp sub (fun d s =>
    match descStream s d with
    | none => endD d (refuse St.refusedHandle 24) s
    | some (n, x) =>
      endD d { rDone with
        value := x.landed, handle := mkHandle Hk.mem x.dest, aux := streamCode x.state + fieldAt (bufsHeld s n) 16 10
        flags := bitAt (decide (0 < escapeOf x)) 0 } s) s)

/-- The data-position record (Table 15-7). -/
def positionBytes (n : Nat) (x : Stream) : List Byte :=
  leBytes 3 x.server ++ leBytes 1 n ++ leBytes 4 0 ++ leBytes 8 x.sourceId ++ leBytes 8 (x.startSsn + x.samples + x.gapped)
    ++ leBytes 8 x.consumed ++ leBytes 8 x.samples ++ leBytes 8 x.gapped ++ leBytes 16 0

/-- The stream whose position a descriptor asks for: open in its context, or the last of its number to have closed there. -/
def posStream (s : State) (d : Desc) : Option (Nat × Stream) :=
  match descStream s d with
  | some e => some e
  | none =>
    match tget s.ing.closed (dfld d 24 1) with
    | some x => if some x.ctx = descCtx s d then some (dfld d 24 1, x) else none
    | none => none

/-- STREAM_POSITION -/
def execStreamPosition (qp sub : Nat) (s : State) : Host.Outcome State Fault Refusal :=
  .next (onStarted 0x93 qp sub (fun d s =>
    match posStream s d with
    | none => endD d (refuse St.refusedHandle 24) s
    | some (n, x) =>
      guarded d [needH s d Hk.mem 28, chk (dfld d 32 8 % 64 = 0) St.refusedHandle 32, needWritable s (dfld d 28 4) (dfld d 32 8) 64 32]
        (fun s => endD d rDone (storeMem (.desc qp sub) (hSlot (dfld d 28 4)) (dfld d 32 8) (positionBytes n x) s)) s) s)

/-! ## Arriving data (R387 to R392, R396) -/

/-- The sample in progress is dropped whole, and what follows up to the next FIRST (R396). -/
def dropSample (n : Nat) (s : State) : State := modStream n (fun x => { x with partly := none }) s

/-- The record in progress is replaced by a gap for its SSN. -/
def gapPart (n reason : Nat) (s : State) : State :=
  match streamAt s n with
  | none => s
  | some x =>
    match x.partly with
    | none => s
    | some p =>
      let s := modStream n (fun x => { x with partly := none, nextSsn := p.ssn + 1 }) s
      let g := gapRec s p.ssn 1 reason
      gapPost n p.ssn reason (landPut n p.escape g s)

/-- Bytes arrive for the record in progress: one that finds no room in the escape lane is dropped whole; one that is
complete takes its place; one longer than LENGTH says is malformed. -/
def takeBytes (n : Nat) (b : List Byte) (s : State) : State :=
  match streamAt s n with
  | none => s
  | some x =>
    match x.partly with
    | none => s
    | some p =>
      if p.escape ∧ 8388608 < escapeUsed s + b.length then gapPart n Gap.escapeFull s
      else
        let all := p.bytes ++ b
        if p.size < all.length then gapPart n Gap.malformed s
        else if all.length = p.size then
          let r : SampleRec := { ssn := p.ssn, count := 1, gap := false, bytes := all }
          landPut n p.escape r (modStream n (fun x => { x with partly := none, nextSsn := p.ssn + 1 }) s)
        else modStream n (fun x => { x with partly := some { p with bytes := all } }) s

/-- A packet that begins a sample: missing SSNs become one LOST gap, a duplicate is discarded, a header out of range is
malformed; else the record finds its place. -/
def beginSample (n : Nat) (b : List Byte) (s : State) : State :=
  match streamAt s n with
  | none => s
  | some x =>
    let ssn := if b.length < 64 then x.nextSsn else bin b 0 8
    let len := bin b 8 4
    if ssn < x.nextSsn then s
    else
      let s := if x.nextSsn < ssn then
          landGap n x.nextSsn (ssn - x.nextSsn) Gap.lost (modStream n (fun x => { x with nextSsn := ssn }) s)
        else s
      if b.length < 64 ∨ len = 0 ∨ 262080 < len then
        landGap n ssn 1 Gap.malformed (modStream n (fun x => { x with nextSsn := ssn + 1 }) s)
      else
        let size := 64 + roundUp len 64
        let (esc, s) := landRoom n size s
        takeBytes n b (modStream n (fun x => { x with partly := some { ssn := ssn, size := size, escape := esc, bytes := [] } }) s)

/-- Bytes after a HOLD count against the allowance; a run-on beyond it counts once a HOLD (R392). -/
def countRunOn (n k : Nat) (s : State) : State :=
  modStream n (fun x =>
    if x.state = .holding ∨ x.state = .draining then
      let x := { x with runOn := x.runOn + k }
      if x.allow < x.runOn ∧ x.overrun = false then { x with overrun := true, overruns := satAdd 255 x.overruns 1 } else x
    else x) s

/-- INGEST_DATA -/
def execIngestData (port node stream txn : Nat) (first : Bool) (data : List Byte) (s : State) : Host.Outcome State Fault Refusal :=
  .next (match streamAt s stream with
  | none => routeDrop port s
  | some x =>
    if x.state = .opening ∨ x.server ≠ node then routeDrop port s
    else if x.state = .closing ∨ x.state = .failed then s
    else
      let s := countRunOn stream data.length s
      let s := if txn % 65536 = x.nextTxn then s else dropSample stream s
      let s := modStream stream (fun x => { x with nextTxn := (txn + 1) % 65536 }) s
      if first then beginSample stream data (gapPart stream Gap.malformed s) else takeBytes stream data s)

/-- IDLE_FLUSH (R389): the buffer being filled is handed off, unless a sample in progress lands in it. -/
def execIdleFlush (stream : Nat) (s : State) : Host.Outcome State Fault Refusal :=
  .next (match streamAt s stream with
  | none => s
  | some x =>
    let busy := match x.partly with
      | some p => !p.escape
      | none => false
    match x.current with
    | some b => if busy || b.recs.isEmpty then s else modStream stream handOff s
    | none => s)

/-! ## HOLD, RESUME and CLOSE (R390, R391, R399) -/

/-- A control packet of an open stream from its server; another is discarded and counted. -/
def fromServer (port node stream : Nat) (f : Stream → State → State) (s : State) : State :=
  match streamAt s stream with
  | none => routeDrop port s
  | some x => if x.server ≠ node ∨ x.state = .opening then routeDrop port s else f x s

/-- HOLD_ACK -/
def execHoldAck (port node stream : Nat) (s : State) : Host.Outcome State Fault Refusal :=
  .next (fromServer port node stream (fun x s =>
    if x.awaiting = some true ∧ x.state = .holding then
      drainStream stream (modStream stream (fun x => { x with state := .draining, awaiting := none }) s)
    else s) s)

/-- RESUME_ACK -/
def execResumeAck (port node stream : Nat) (s : State) : Host.Outcome State Fault Refusal :=
  .next (fromServer port node stream (fun x s =>
    if x.awaiting = some false then modStream stream (fun x => { x with awaiting := none }) s else s) s)

/-- HOLD_RESEND_TIMER (R390) -/
def execHoldResendTimer (stream : Nat) (s : State) : Host.Outcome State Fault Refusal :=
  .next (match streamAt s stream with
  | none => s
  | some x =>
    match x.awaiting with
    | none => s
    | some h =>
      if x.sends < 8 then
        ingestTell stream x (if h then 3 else 5) [] (modStream stream (fun x => { x with sends := x.sends + 1 }) s)
      else
        let s := modStream stream (fun x => { x with state := .failed, awaiting := none, partly := none }) s
        updateEvent x.landedEv (.sig x.landed true) s)

/-- CLOSE_ACK -/
def execCloseAck (port node stream ssn : Nat) (s : State) : Host.Outcome State Fault Refusal :=
  let _ := ssn
  .next (fromServer port node stream (fun x s =>
    if x.state = .closing then tryClose stream (modStream stream (fun x => { x with closeDone := true }) s) else s) s)

/-- CLOSE_RESEND (R399) -/
def execCloseResend (stream : Nat) (s : State) : Host.Outcome State Fault Refusal :=
  .next (match streamAt s stream with
  | none => s
  | some x =>
    if x.state ≠ .closing ∨ x.closeDone = true then s
    else if x.ctlSends < 3 then
      ingestTell stream x 7 [] (modStream stream (fun x => { x with ctlSends := x.ctlSends + 1 }) s)
    else tryClose stream (modStream stream (fun x => { x with closeDone := true }) s))

/-! ## The mover (R393, R395) -/

/-- Does AES-256-GCM verify: sealing what opens gives the ciphertext and the tag again? -/
def gcmOk (key : Nat) (nonce aad ct tag : List Byte) : Bool :=
  decide (Config.gcmSeal (BitVec.ofNat 256 key) nonce aad (Config.gcmOpen (BitVec.ofNat 256 key) nonce aad ct) = ct ++ tag)

/-- A sample as the mover writes it, or the reason of its rejection (R395). -/
def openSample (s : State) (x : Stream) (r : SampleRec) : List Byte ⊕ Nat :=
  let b := r.bytes
  if bin b 12 2 = 0xFFFF then
    if confidential s && !x.allowPlain then .inr Gap.plain else .inl b
  else if !confidential s then .inr Gap.key
  else
    match (tget s.sec.contribMap (bin b 12 2)).bind (tget s.sec.keys) with
    | none => .inr Gap.key
    | some k =>
      let len := bin b 8 4
      let nonce := (b.drop 16).take 12
      let aad := b.take 14 ++ leBytes 1 0 ++ (b.drop 15).take 1
      let ct := (b.drop 64).take len
      if gcmOk k.key nonce aad ct ((b.drop 32).take 16) then
        .inl (b.take 14 ++ leBytes 1 4 ++ (b.drop 15).take 17 ++ leBytes 16 0 ++ (b.drop 48).take 16
          ++ padTo (b.length - 64) 0 (Config.gcmOpen (BitVec.ofNat 256 k.key) nonce aad ct))
      else .inr Gap.auth

/-- A buffer's record as it goes to DEST, and the reason where it became a gap. -/
def moveRec (s : State) (x : Stream) (r : SampleRec) : SampleRec × Option Nat :=
  if r.gap then (r, none)
  else
    match openSample s x r with
    | .inl b => ({ r with bytes := b }, none)
    | .inr why => (gapRec s r.ssn 1 why, some why)

/-- Lay records in the ring from a position: the writes, and the boundaries; a PAD record fills the ring to its end where a
record does not fit before it. -/
def layRing (size : Nat) : List SampleRec → Nat → List (Nat × List Byte) × List (Nat × Nat × Nat)
  | [], _ => ([], [])
  | r :: l, pos =>
    let n := r.bytes.length
    let room := size - pos % size
    let pad := if n ≤ room then 0 else room
    let at_ := pos + pad
    let (w, e) := layRing size l (at_ + n)
    let padW := if pad = 0 then [] else [(pos % size, leBytes 14 0 ++ leBytes 1 2 ++ leBytes (pad - 15) 0)]
    let padE := if pad = 0 then [] else [(at_, 0, 0)]
    (padW ++ (at_ % size, r.bytes) :: w, padE ++ (at_ + n, if r.gap then (0, r.count) else (1, 0)) :: e)

/-- Take the reasons of a buffer's rejected samples: each counts, posts INGEST_GAP and is logged (R396, R448). -/
def moveGaps (n : Nat) : List (SampleRec × Option Nat) → State → State
  | [], s => s
  | (r, why) :: l, s =>
    match why with
    | some w => moveGaps n l (gapPost n r.ssn w (sealLog 0 0x0B 0 (n + fieldAt r.ssn 8 64 + fieldAt w 72 8) s))
    | none => moveGaps n l s

/-- MOVER_COPY: the oldest handed-off buffer of a stream goes to DEST where the ring has room; LANDED is signalled; the
buffer is empty. -/
def execMoverCopy (stream : Nat) (s : State) : Host.Outcome State Fault Refusal :=
  .next (match streamAt s stream with
  | none => s
  | some x =>
    match x.handed with
    | [] => s
    | b :: rest =>
      let size := (((tget s.mems x.dest).map fun (m : MemObj) => m.size).getD 0) / 64 * 64
      let moved := b.recs.map (moveRec s x)
      let (ws, es) := layRing size (moved.map Prod.fst) x.landed
      let landed := ((es.getLast?).map Prod.fst).getD x.landed
      if size = 0 ∨ size < landed - x.consumed then s
      else
        let s := ws.foldl (fun s w => storeBlk x.dest w.1 w.2 s) s
        let s := moveGaps stream moved s
        let s := modStream stream (fun x => { x with handed := rest, landed := landed, bounds := x.bounds ++ es }) s
        let s := match b.buf with
          | some i => modIng (fun g => { g with emptied := linsert g.emptied i }) s
          | none => s
        tryClose stream (updateEvent x.landedEv (.sig landed false) s))

/-! ## The allocator's commands (R249) -/

/-- The requesters of a cycle in the order they are considered: from the pointer, wrapping round. -/
def reqOrder (a : Allocator) (rs : List Nat) : List Nat :=
  ((List.range a.n).map fun i => (a.pointer + i) % a.n).filter fun r => rs.contains r

/-- ALLOC_REQUEST: the requests of a cycle. In the pool of landing buffers, streams that drain their escape-lane records
ask. -/
def execAllocRequest (pool : Nat) (reqs : List Nat) (s : State) : Host.Outcome State Fault Refusal :=
  .next (
    let order := reqOrder (poolOf s pool) reqs
    if pool = 0 then order.foldl (fun s n => drainStream n s) s
    else order.foldl (fun s r => modPool pool (fun a => (allocReq (fun _ => true) r a).2) s) s)

/-- BUFFER_FREE: in the pool of landing buffers, one the mover has emptied. A buffer whose cluster has left service does not
come back. -/
def execBufferFree (pool buf : Nat) (s : State) : Host.Outcome State Fault Refusal :=
  .next (
    match tget (poolOf s pool).held buf with
    | none => s
    | some r =>
      if pool ≠ 0 then modPool pool (allocFree buf) s
      else if s.ing.emptied.contains buf then
        let s := modIng (fun g => { g with emptied := g.emptied.filter fun b => b ≠ buf }) s
        let s := if bufUp s buf then modPool 0 (allocFree buf) s
          else modPool 0 (fun a => { a with held := tdel a.held buf, free := linsert a.free buf }) s
        tryClose r (tryResume r s)
      else s)

/-- RESERVATION_LAPSE -/
def execReservationLapse (pool req : Nat) (s : State) : Host.Outcome State Fault Refusal :=
  .next (modPool pool (allocLapse req) s)

end Sys2Proof.Machine
end

