-- ==== Sys2Proof/Machine/Checkpoint.lean ====
section
/-!
DEFINITION. Sys2Proof/Machine/Checkpoint.lean: the commands of checkpoints, buddy copies and restores (chapter 16).
-/
namespace Sys2Proof.Machine

/-! ## The plan (R402, R403) -/

/-- Range entries of a plan image. -/
def planRange (b : List Byte) (i : Nat) : CkpRange :=
  let o := 192 + 32 * i
  { id := bin b o 4, kind := bin b (o + 4) 1, fmt := bin b (o + 5) 1, obj := hSlot (bin b (o + 8) 4), off := bin b (o + 16) 8
    len := bin b (o + 24) 8 }

/-- A plan as its image and the shape record give it. -/
def ckpPlanOf (b shape : List Byte) : CkpPlan :=
  let flags := bin b 27 1
  { job := bin b 8 8, rank := bin b 16 4, nNodes := bin b 20 4, maniNode := bin b 24 3, fast := bitOf flags 0
    encrypt := bitOf flags 1, storeNode := bin b 28 3, buddyNode := bin b 32 3
    key := if bin b 36 4 = 0 then none else some (hSlot (bin b 36 4))
    every := bin b 40 4, interval := clampZeroOr 1000 86400000 (bin b 44 4), rate := clampTo 1 200000 (bin b 48 4)
    inc := bin b 52 2, shape := shape
    doneEvent := if bin b 60 4 = 0 then none else some (hSlot (bin b 60 4))
    streams := bin b 80 8, signer := bin b 88 48
    ranges := (List.range (bin b 6 2)).map (planRange b) }

/-- A failing field of a plan: the refusal with the field's offset as the value, and the reason of Table 17-11 where it is a
refusal on security grounds in confidential mode (0: it is none). -/
abbrev PlanFail := Option (Result × Nat)

/-- A check on a field of the plan. -/
def pFail (ok : Bool) (status off : Nat) : PlanFail := if ok then none else some ({ refuse status 24 with value := off }, 0)

/-- A check whose failure is a refusal on security grounds in confidential mode (R447). -/
def pSec (ok : Bool) (status off reason : Nat) : PlanFail := if ok then none else some ({ refuse status 24 with value := off }, reason)

/-- A check on a handle of the plan. -/
def pHandle (s : State) (fn c kind h off : Nat) : PlanFail := (sHandle s fn c kind h off).map fun r => (r, 0)

/-- The first failing check. -/
def planFirst : List PlanFail → PlanFail
  | [] => none
  | some r :: _ => some r
  | none :: l => planFirst l

/-- Nodes of a plan must be nodes of the session (R402). -/
def pNode (s : State) (node off : Nat) : PlanFail := pSec (!confidential s || sessionNode s node) St.refusedState off 4

/-- KEY: required with ENCRYPT, and a slot that holds a key of the context, no contributor's. -/
def pKey (s : State) (fn c : Nat) (encrypt : Bool) (h : Nat) : List PlanFail :=
  if h = 0 then [ pSec (!encrypt) St.refusedState 36 5 ]
  else
    [ (match hCheck s fn (some c) Hk.key h with
       | .ok => pSec ((tget s.sec.keys (hSlot h)).any fun (k : KeySlot) => decide (k.kind ≠ 0)) St.refusedHandle 36 5
       | .aborting => pSec false St.refusedState 36 5
       | .bad => pSec false St.refusedHandle 36 5) ]

/-- The header checks of a plan. -/
def planHead (s : State) (fn c : Nat) (b : List Byte) : List PlanFail :=
  let st := St.refusedState
  let fast := bitOf (bin b 27 1) 0
  let enc := bitOf (bin b 27 1) 1
  let shapeObj := bin b 56 4
  [ pFail (bin b 0 4 = 0x434B5031) st 0, pFail (bin b 4 2 = 1) st 4, pFail (1 ≤ bin b 6 2 && bin b 6 2 ≤ 1024) st 6,
    pFail (bin b 16 4 < bin b 20 4) st 16, pFail (1 ≤ bin b 20 4 && bin b 20 4 ≤ 1048576) st 20, pNode s (bin b 24 3) 24,
    pSec (!confidential s || enc) st 27 6, pNode s (bin b 28 3) 28, pFail (fast == decide (bin b 32 3 ≠ 0xFFFFFF)) st 32,
    (if fast then pNode s (bin b 32 3) 32 else none) ]
  ++ pKey s fn c enc (bin b 36 4)
  ++ [ pHandle s fn c Hk.mem shapeObj 56,
    (if bin b 60 4 = 0 then none else (sOwnEv s c (bin b 60 4) 60).map fun r => (r, 0)),
    pFail (16 ≤ bin b 72 8 && bin b 72 8 ≤ 2 ^ 26) st 72,
    pFail (bin b 64 8 + bin b 72 8 ≤ objSize s shapeObj) St.refusedHandle 64,
    pFail (readNum s (hSlot shapeObj) (bin b 64 8) 4 = bin b 20 4) st 64 ]

/-- The checks of one range entry, after the entries before it; `l` is the shard length up to and with it. -/
def planEntry (s : State) (fn c : Nat) (b : List Byte) (before : List CkpRange) (i l : Nat) : List PlanFail :=
  let o := 192 + 32 * i
  let r := planRange b i
  let st := St.refusedState
  [ pFail (before.all fun (q : CkpRange) => decide (q.id ≠ r.id)) st o, pFail (r.kind ≤ 3) st (o + 4),
    pFail (r.fmt ≤ 0x0A || r.fmt = 0xFF) st (o + 5), pHandle s fn c Hk.mem (bin b (o + 8) 4) (o + 8), pFail (r.off % 64 = 0) st (o + 16),
    pFail (r.len % 64 = 0 && 64 ≤ r.len && r.len ≤ 2 ^ 40) st (o + 24),
    pFail (r.off + r.len ≤ objSize s (bin b (o + 8) 4)) St.refusedHandle (o + 24),
    pFail (before.all fun (q : CkpRange) => !(decide (q.obj = r.obj) && rangesMeet q.off q.len r.off r.len)) st (o + 16),
    pFail (l ≤ 2 ^ 40) st (o + 24) ]

/-- The checks of every entry in order. -/
def planEntries (s : State) (fn c : Nat) (b : List Byte) (p : CkpPlan) : List PlanFail :=
  ((List.range p.ranges.length).map fun i =>
    let upTo := p.ranges.take (i + 1)
    planEntry s fn c b (p.ranges.take i) i (headBytes p (planStreams p) + (upTo.map fun (r : CkpRange) => roundUp r.len 4096).sum)).flatten

/-- The plan a descriptor names: its failure, or the plan. -/
def readPlan (s : State) (d : Desc) (c : Nat) : (Result × Nat) ⊕ CkpPlan :=
  let obj := hSlot (dfld d 24 4)
  let off := dfld d 32 8
  let size := 192 + 32 * readNum s obj (off + 6) 2
  match firstFail [needH s d Hk.mem 24, needRange s (dfld d 24 4) off 192 32] with
  | some r => .inl (r, 0)
  | none =>
    let b := readMem s (.desc d.qp d.sub) obj off size
    match planFirst ((planHead s d.fn c b).take 3) with
    | some f => .inl f
    | none =>
      match needRange s (dfld d 24 4) off size 32 with
      | some r => .inl (r, 0)
      | none =>
        if poisonedIn s obj off size then .inl (resOf St.poisoned, 0)
        else
          let shape := readMem s (.desc d.qp d.sub) (hSlot (bin b 56 4)) (bin b 64 8)
          match planFirst (planHead s d.fn c b) with
          | some f => .inl f
          | none =>
            let p := ckpPlanOf b (shape (bin b 72 8))
            if poisonedIn s (hSlot (bin b 56 4)) (bin b 64 8) (bin b 72 8) then .inl (resOf St.poisoned, 0)
            else
              match planFirst (planEntries s d.fn c b p) with
              | some f => .inl f
              | none => .inr p

/-- End a descriptor whose plan fails. -/
def planRefuse (d : Desc) (f : Result × Nat) (s : State) : State :=
  if confidential s && decide (f.2 ≠ 0) then uniformRefuse d f.2 s else endD d f.1 s

/-- CKP_CONFIG (R402, R403). -/
def execCkpConfig (qp sub : Nat) (s : State) : Host.Outcome State Fault Refusal :=
  .next (onStarted 0xA0 qp sub (fun d s =>
    match descCtx s d with
    | none => s
    | some c =>
      match readPlan s d c with
      | .inl f => planRefuse d f s
      | .inr p =>
        let k := ckpOf s c
        let old := match k.plan with
          | some q => 65536 * planGranules q
          | none => 0
        if k.run.isSome then endD d (refuse St.refusedState 24) s
        else if shareLeft s d.fn + old < 65536 * planGranules p then endD d (refuse St.refusedState 24) s
        else endD d rDone (modCc c (fun k => { k with plan := some p, trigger := false }) s)) s)

/-- CKP_TRIGGER (R406, Table 16-11). -/
def execCkpTrigger (qp sub : Nat) (s : State) : Host.Outcome State Fault Refusal :=
  .next (onStarted 0xA1 qp sub (fun d s =>
    match descCtx s d with
    | none => s
    | some c =>
      if (ckpOf s c).plan.isNone then endD d (refuse St.refusedState 0) s
      else endD d rDone (modCc c (fun k => { k with trigger := true }) s)) s)

/-- CKP_DISARM (Table 16-11, R422): it waits while a checkpoint is in flight. -/
def execCkpDisarm (qp sub : Nat) (s : State) : Host.Outcome State Fault Refusal :=
  .next (onStarted 0xA2 qp sub (fun d s =>
    match descCtx s d with
    | none => s
    | some c =>
      let s := modCc c (fun k => { k with disarm := k.disarm ++ [(qp, sub)] }) (runDesc qp sub c s)
      if (ckpOf s c).run.isSome then s else disarmNow c s) s)

/-- Is the restore of a context still its descriptor's? -/
def restoreLive (s : State) (c : Nat) : Option (Restore × Desc) :=
  match (ckpOf s c).restore with
  | some r =>
    match findDesc s r.desc.1 r.desc.2 with
    | some d => if d.phase = .running then some (r, d) else none
    | none => none
  | none => none

/-- CKP_QUERY (Table 16-11). -/
def execCkpQuery (qp sub : Nat) (s : State) : Host.Outcome State Fault Refusal :=
  .next (onStarted 0xA4 qp sub (fun d s =>
    match descCtx s d with
    | none => s
    | some c =>
      let k := ckpOf s c
      let st : Nat := if (restoreLive s c).isSome then 4
        else match k.run with
          | some r => if r.phase = .manifest then 3 else 2
          | none => if k.plan.isSome then 1 else 0
      endD d { rDone with value := k.last.getD (2 ^ 64 - 1), aux := st + fieldAt (min k.skipped 65535) 16 16, flags := bitAt k.lastBuddy 0 } s) s)

/-! ## The snapshot and its chunks (R404, R405, R407 to R409) -/

/-- The data position of a stream of a context, where it has one. -/
def ckpStream (s : State) (c n : Nat) : Option Stream :=
  match streamAt s n with
  | some x => if x.ctx = c then some x else (tget s.ing.closed n).filter fun (y : Stream) => y.ctx = c
  | none => (tget s.ing.closed n).filter fun (y : Stream) => y.ctx = c

/-- The data-position records of a plan's streams; the record of a stream that the context does not have is left open. -/
def ckpPositions (s : State) (c : Nat) (p : CkpPlan) : List Byte :=
  (((List.range 64).filter (bitOf p.streams)).map fun n =>
    match ckpStream s c n with
    | some x => positionBytes n x
    | none => leBytes 64 (freeBits s 512)).flatten

/-- The header part of a shard (Table 16-4). -/
def ckpHead (s : State) (c step : Nat) (p : CkpPlan) : List Byte :=
  let n := planStreams p
  let seed := match tget s.ctxs c with
    | some x => x.seed.toNat
    | none => 0
  let mode := match tget s.ctxs c with
    | some x => bitAt x.mode 0
    | none => 0
  let head := leBytes 4 0x43534831 ++ leBytes 2 1 ++ leBytes 2 p.ranges.length ++ leBytes 8 p.job ++ leBytes 8 step
    ++ leBytes 4 p.rank ++ leBytes 4 p.nNodes ++ leBytes 2 n ++ leBytes 2 p.inc ++ leBytes 1 mode ++ leBytes 1 (bitAt p.encrypt 0)
    ++ leBytes 2 0 ++ leBytes 32 seed ++ leBytes 48 (shapeDigest p) ++ leBytes 8 (planLen p) ++ leBytes 128 0
  let table := (rangeOffsets p.ranges (headBytes p n)).map fun (e : CkpRange × Nat) =>
    leBytes 4 e.1.id ++ leBytes 1 e.1.kind ++ leBytes 1 e.1.fmt ++ leBytes 2 0 ++ leBytes 8 e.1.len ++ leBytes 8 e.1.off ++ leBytes 8 e.2
  padTo (headBytes p n) 0 (head ++ table.flatten ++ ckpPositions s c p)

/-- A byte of a snapshot: the copy's where its granule has been copied. -/
def snapByte (s : State) (r : CkpRun) (slot off : Nat) : Byte :=
  match r.copies.find? fun (x : CowCopy) => x.gran = granKey slot off with
  | some x => tgetD x.cells (memKey slot off) 0
  | none => cellGet s.mem (memKey slot off)

/-- Is the line of a byte of a snapshot poisoned, or lost with its stack? -/
def snapBad (s : State) (r : CkpRun) (slot off : Nat) : Bool :=
  match r.copies.find? fun (x : CowCopy) => x.gran = granKey slot off with
  | some x => x.bad.contains (lineKey slot off)
  | none => linePoisoned s slot off || lineLost s slot off

/-- The place in memory that a byte of the shard comes from, where it is range data. -/
def shardPlace (p : CkpPlan) (o : Nat) : Option (Nat × Nat) :=
  match (rangeOffsets p.ranges (headBytes p (planStreams p))).find? fun (e : CkpRange × Nat) =>
      decide (e.2 ≤ o) && decide (o < e.2 + e.1.len) with
  | some (r, at_) => some (r.obj, r.off + (o - at_))
  | none => none

/-- A byte of the shard. -/
def shardByte (s : State) (p : CkpPlan) (r : CkpRun) (o : Nat) : Byte :=
  if o < r.head.length then r.head.getD o 0
  else match shardPlace p o with
    | some (m, x) => snapByte s r m x
    | none => 0

/-- The plaintext of a chunk. -/
def chunkPlain (s : State) (p : CkpPlan) (r : CkpRun) (n : Nat) : List Byte :=
  let lo := n * 1048576
  (List.range (min 1048576 (planLen p - lo))).map fun i => shardByte s p r (lo + i)

/-- Does a chunk read a poisoned line? -/
def chunkBad (s : State) (p : CkpPlan) (r : CkpRun) (n : Nat) : Bool :=
  let lo := n * 1048576
  (List.range (min 1048576 (planLen p - lo) / 64)).any fun i =>
    match shardPlace p (lo + 64 * i) with
    | some (m, x) => snapBad s r m x
    | none => false

/-- The nonce of a chunk (R405): STEP 95:56, RANK 55:36, chunk 35:16, INCARNATION 15:0. -/
def chunkNonce (step rank n inc : Nat) : List Byte :=
  leBytes 12 (fieldAt inc 0 16 + fieldAt n 16 20 + fieldAt rank 36 20 + fieldAt step 56 40)

/-- The 256-bit key of a plan. -/
def planKey (s : State) (p : CkpPlan) : Nat :=
  match p.key.bind (tget s.sec.keys) with
  | some k => k.key
  | none => 0

/-- The stored form of a chunk: ciphertext and tag, or plaintext and CRC-32C. -/
def sealChunk (key : Nat) (encrypt : Bool) (step rank n inc : Nat) (b : List Byte) : List Byte :=
  if encrypt then Config.gcmSeal (BitVec.ofNat 256 key) (chunkNonce step rank n inc) [] b
  else b ++ leBytes 4 (crc32c b).toNat ++ leBytes 12 0

/-- The stored bytes of a chunk of a checkpoint. -/
def chunkStored (s : State) (p : CkpPlan) (r : CkpRun) (n : Nat) : List Byte :=
  sealChunk (planKey s p) p.encrypt r.step p.rank n p.inc (chunkPlain s p r n)

/-- The digest over the stored bytes of a checkpoint. -/
def shardDigest (s : State) (p : CkpPlan) (r : CkpRun) : Nat :=
  (Config.sha384 ((List.range (chunkCount (planLen p) 1048576)).map (chunkStored s p r)).flatten).toNat

/-- SNAPSHOT_POINT (R407): the awaited operations have ended; the header part is fixed, the puts are opened. -/
def execSnapshotPoint (ctx : Nat) (s : State) : Host.Outcome State Fault Refusal :=
  .next (match (ckpOf s ctx).plan, (ckpOf s ctx).run with
  | some p, some r =>
    if r.phase ≠ .snapshot ∨ s.col.ops.any (fun (o : TrigOp) => r.awaited.contains o.id && decide (o.state = .running)) then s
    else
      let head := ckpHead s ctx r.step p
      let s := modCc ctx (fun k => { k with run := some { r with phase := .streaming, head := head } }) (tookFree s)
      let n := chunkCount (planLen p) 1048576
      let len := storedLen (planLen p)
      let name := fun kind => objName p.job r.step p.rank kind p.inc
      let s := openXfer (xferNew p.storeNode ctx .shardPut (name 0) n [] (0, 0)) 1 [len] (name 0) s
      if p.fast then openXfer (xferNew p.buddyNode ctx .buddyPut (name 2) n [] (0, 0)) 1 [len] (name 2) s else s
  | _, _ => s)

/-- Send stored bytes as CKP_DATA packets of up to 4,080 bytes. -/
def sendPieces (node txn base : Nat) (b : List Byte) (s : State) : State :=
  (List.range (chunkCount b.length 4080)).foldl (fun s i =>
    sendTo node (.data 0x32 0 [base + 4080 * i, txn] ((b.drop (4080 * i)).take 4080)) s) s

/-- The offset in the object of a chunk of a put, and its bytes: none where it reads poison. -/
def putChunk (s : State) (x : Xfer) (n : Nat) : Option (Nat × List Byte) :=
  if x.kind = .maniPut then some (n * 1048576, (x.bytes.drop (n * 1048576)).take 1048576)
  else match (ckpOf s x.ctx).plan, (ckpOf s x.ctx).run with
    | some p, some r => if chunkBad s p r n then none else some (n * storedChunk, chunkStored s p r n)
    | _, _ => none

/-- Chunks of a put sent and not acknowledged. -/
def chunksOut (x : Xfer) : Nat := (x.unacked.filter fun (e : Nat × Nat) => e.1 ≠ reqKey).length

/-- Is a transfer a put? -/
def isPut (k : XferKind) : Bool := xferPut k || decide (k = .maniPut)

/-- CHUNK_SEND (R409, R411): the next chunk of a put leaves while WINDOW allows it. -/
def execChunkSend (txn : Nat) (s : State) : Host.Outcome State Fault Refusal :=
  .next (match tget s.ckp.xfers txn with
  | none => s
  | some x =>
    if !isPut x.kind || !x.opened || decide (x.chunks ≤ x.next) || decide (x.window ≤ chunksOut x) then s
    else
      match putChunk s x x.next with
      | none => ckpFail x.ctx 3 s
      | some (base, b) =>
        let s := modXfer txn (fun x => { x with next := x.next + 1, unacked := tput x.unacked x.next 0 }) s
        let s := if xferPut x.kind then modCkp (fun k => { k with bytesOut := (k.bytesOut + b.length) % 2 ^ 64 }) s else s
        sendPieces x.node txn base b s)

/-! ## The restore's steps (R417 to R420) -/

/-- Change the restore of a context. -/
def modRst (c : Nat) (f : Restore → Restore) (s : State) : State := modCc c (fun k => { k with restore := k.restore.map f }) s

/-- The transfers of a restore. -/
def xferGet (k : XferKind) : Bool :=
  decide (k = .maniGet) || decide (k = .stat) || decide (k = .storeGet) || decide (k = .buddyGet)

/-- A restore ends. -/
def restoreEnds (c : Nat) (r : Result) (s : State) : State :=
  match restoreLive s c with
  | some (_, d) => endD d r (modCc c (fun k => { k with restore := none }) (dropXfers c xferGet s))
  | none => s

/-- A restore is ABORTED: it counts as failed. -/
def restoreAborts (c : Nat) (s : State) : State :=
  restoreEnds c (resOf St.aborted) (modCkp (fun k => { k with failed := satAdd 255 k.failed 1 }) s)

/-- The manifest and its STAT are asked for. -/
def restoreFetch (c : Nat) (r : Restore) (s : State) : State :=
  let name := objName r.plan.job r.step 0xFFFFFFFF 1 r.inc
  let s := openXfer (xferNew r.store c .maniGet name 0 [] (0, 2 ^ 32 - 1)) 3 [0, 2 ^ 32 - 1] name s
  openXfer (xferNew r.store c .stat name 0 [] (0, 0)) 4 [] name s

/-- A check of R417 fails, or a range does not match (R420): a restore from PREV ends ABORTED. -/
def restoreRefuse (c n : Nat) (s : State) : State :=
  match restoreLive s c with
  | none => s
  | some (r, d) =>
    if r.fell then restoreAborts c s
    else if confidential s && (decide (n = 2) || decide (n = 4)) then
      uniformRefuse d 0x0C (modCc c (fun k => { k with restore := none }) (dropXfers c xferGet s))
    else restoreEnds c (refuse St.refusedState n) s

/-- The shard fails (R419): the manifest is marked invalid, and the restore falls back to PREV once. -/
def shardFails (c : Nat) (s : State) : State :=
  match restoreLive s c with
  | none => s
  | some (r, _) =>
    let s := dropXfers c xferGet s
    let name := objName r.plan.job r.step 0xFFFFFFFF 1 r.inc
    let s := openXfer (xferNew r.store c .mark name 0 [] (0, 0)) 5 [] name s
    let s := ckpPost c r.step 9 s
    let prev := bin r.mani 32 8
    if r.fell ∨ prev = 2 ^ 64 - 1 then restoreAborts c s
    else
      let r' := { r with fell := true, step := prev, inc := bin r.mani 40 2, stat := none, mani := [], got := [], fromStore := 0
                         refetch := [], useBuddy := false, head := [] }
      restoreFetch c r' (modRst c (fun _ => r') s)

/-- The entry of a rank in a manifest. -/
def maniEntry (m : List Byte) (rank : Nat) : List Byte := (m.drop (256 + roundUp (bin m 96 8) 64 + 64 * rank)).take 64

/-- Stored length, and chunks, of the shard a restore reads. -/
def rstLen (r : Restore) : Nat := bin (maniEntry r.mani r.plan.rank) 48 8

/-- Chunks of the shard a restore reads. -/
def rstChunks (r : Restore) : Nat := chunkCount (rstLen r) storedChunk

/-- The node and object kind of one of the two sources. -/
def rstSource (r : Restore) (buddy : Bool) : Nat × List Byte :=
  let e := maniEntry r.mani r.plan.rank
  (if buddy then bin e 60 3 else bin e 56 3, objName r.plan.job r.step r.plan.rank (if buddy then 2 else 0) r.inc)

/-- Ask a source for a span of chunks. -/
def rstGet (c : Nat) (r : Restore) (buddy : Bool) (first count : Nat) (s : State) : State :=
  let src := rstSource r buddy
  openXfer (xferNew src.1 c (if buddy then .buddyGet else .storeGet) src.2 0 [] (first, count)) 3 [first, count] src.2 s

/-- The number of the first check of R417 that a manifest fails. -/
def maniCheck (r : Restore) (m : List Byte) : Option Nat :=
  let key := (m.drop 104).take 97
  let body := m.take (m.length - 96)
  if (Config.sha384 key).toNat ≠ r.plan.signer ∨ !Config.verify key body (m.drop (m.length - 96)) then some 2
  else if bin m 24 4 ≠ r.plan.nNodes ∨ bin m 48 48 ≠ shapeDigest r.plan then some 3
  else if bitOf (bin m 6 1) 0 ≠ r.plan.encrypt then some 4
  else if r.plan.inc ≤ bin m 28 2 then some 5
  else none

/-- The bytes of a span held by consecutive pieces. -/
def heldTo (pieces : Tbl (List Byte)) (lo : Nat) : Nat :=
  pieces.foldl (fun cur (e : Nat × List Byte) => if e.1 ≤ cur then max cur (e.1 + e.2.length) else cur) lo

/-- A byte of the pieces. -/
def pieceByte (pieces : Tbl (List Byte)) (o : Nat) : Byte :=
  match pieces.find? fun (e : Nat × List Byte) => decide (e.1 ≤ o) && decide (o < e.1 + e.2.length) with
  | some e => e.2.getD (o - e.1) 0
  | none => 0

/-- Bytes `lo` to `hi` of the pieces, where every one has arrived. -/
def piecesSpan (pieces : Tbl (List Byte)) (lo hi : Nat) : Option (List Byte) :=
  if hi ≤ heldTo (pieces.filter fun (e : Nat × List Byte) => lo < e.1 + e.2.length) lo then
    some ((List.range (hi - lo)).map fun i => pieceByte pieces (lo + i))
  else none

/-- With the manifest and its STAT at hand, the checks are made and the shard is asked for (R417, R418). -/
def restoreManifest (c : Nat) (s : State) : State :=
  match restoreLive s c with
  | none => s
  | some (r, _) =>
    match r.stat, s.ckp.xfers.find? fun (e : Nat × Xfer) => decide (e.2.ctx = c) && decide (e.2.kind = .maniGet) with
    | some (_, len, _), some (t, x) =>
      (match piecesSpan x.pieces 0 len with
       | none => s
       | some m =>
         let s := dropXfer t s
         match maniCheck r m with
         | some n => restoreRefuse c n s
         | none =>
           let r := { r with mani := m, useBuddy := r.plan.fast && bitOf (bin (maniEntry m r.plan.rank) 59 1) 0 }
           rstGet c r r.useBuddy 0 (rstChunks r) (modRst c (fun _ => r) s))
    | _, _ => s

/-- CKP_RESTORE (R417). -/
def execCkpRestore (qp sub : Nat) (s : State) : Host.Outcome State Fault Refusal :=
  .next (onStarted 0xA3 qp sub (fun d s =>
    match descCtx s d with
    | none => s
    | some c =>
      match readPlan s d c with
      | .inl f => planRefuse d f s
      | .inr p =>
        let busy := (s.tsk.launches.any fun (x : Launch) => x.ctx = c) || (s.tsk.gens.any fun (g : Generation) => g.ctx = c)
          || ((tget s.runners c).any fun (r : Runner) => r.active) || (ckpOf s c).run.isSome || (restoreLive s c).isSome
        let live := (tget s.ctxs c).any fun (x : Ctx) => decide (x.state = .live)
        guarded d
          [ needH s d Hk.mem 28, chk (dfld d 40 8 % 64 = 0) St.refusedHandle 40,
            needWritable s (dfld d 28 4) (dfld d 40 8) (64 * planStreams p) 40, chk (live && !busy) St.refusedState 0 ]
          (fun s =>
            let r : Restore :=
              { desc := (qp, sub), plan := p, step := dfld d 48 8, inc := dfld d 60 2, store := dfld d 56 3
                dest := (hSlot (dfld d 28 4), dfld d 40 8), fell := false, stat := none, mani := [], got := [], fromStore := 0
                refetch := [], useBuddy := false, head := [] }
            let s := dropXfers c xferGet s
            restoreFetch c r (modCc c (fun k => { k with restore := some r }) (runDesc qp sub c s))) s) s)

/-- STAT_RSP (R417, Table 16-6). -/
def execStatRsp (port node txn status len : Nat) (valid : Bool) (s : State) : Host.Outcome State Fault Refusal :=
  .next (match tget s.ckp.xfers txn with
  | some x =>
    if x.kind ≠ .stat ∨ x.node ≠ node then routeDrop port s
    else
      let s := dropXfer txn s
      if status ≠ 0 ∨ !valid then restoreRefuse x.ctx 1 s
      else restoreManifest x.ctx (modRst x.ctx (fun r => { r with stat := some (status, len, valid) }) s)
  | none => routeDrop port s)

/-- Chunk `n` as one of the restore's transfers holds it, whole: its bytes, and whether the partner sent it. -/
def chunkAt (s : State) (c : Nat) (r : Restore) (n : Nat) : Option (List Byte × Bool) :=
  let lo := n * storedChunk
  let hi := min (lo + storedChunk) (rstLen r)
  let held := (s.ckp.xfers.filter fun (e : Nat × Xfer) => decide (e.2.ctx = c)).filterMap fun (e : Nat × Xfer) =>
    if e.2.kind = .storeGet then (piecesSpan e.2.pieces lo hi).map fun b => (b, false)
    else if e.2.kind = .buddyGet && !r.refetch.contains n then (piecesSpan e.2.pieces lo hi).map fun b => (b, true)
    else none
  held.head?

/-- Open a stored chunk: its plaintext, where its trailer holds. -/
def openChunk (key : Nat) (r : Restore) (n : Nat) (b : List Byte) : Option (List Byte) :=
  let ct := b.take (b.length - 16)
  let tag := b.drop (b.length - 16)
  if r.plan.encrypt then
    let nonce := chunkNonce r.step r.plan.rank n r.inc
    if gcmOk key nonce [] ct tag then some (Config.gcmOpen (BitVec.ofNat 256 key) nonce [] ct) else none
  else if tag = leBytes 4 (crc32c ct).toNat ++ leBytes 12 0 then some ct
  else none

/-- The range entries of a shard: RANGE_ID, LENGTH and DATA_OFFSET. -/
def shardTable (head : List Byte) : List (Nat × Nat × Nat) :=
  (List.range (bin head 6 2)).map fun i => (bin head (256 + 32 * i) 4, bin head (256 + 32 * i + 8) 8, bin head (256 + 32 * i + 24) 8)

/-- Does every range of the plan match an entry of the shard by RANGE_ID and LENGTH (R420)? -/
def rangesMatch (p : CkpPlan) (head : List Byte) : Bool :=
  p.ranges.all fun (r : CkpRange) => (shardTable head).any fun (e : Nat × Nat × Nat) => decide (e.1 = r.id) && decide (e.2.1 = r.len)

/-- Write what a chunk of plaintext holds of the plan's ranges. -/
def writeRanges (r : Restore) (n : Nat) (b : List Byte) (s : State) : State :=
  let lo := n * 1048576
  r.plan.ranges.foldl (fun s (q : CkpRange) =>
    match (shardTable r.head).find? fun (e : Nat × Nat × Nat) => e.1 = q.id with
    | none => s
    | some (_, len, at_) =>
      let a := max lo at_
      let z := min (lo + b.length) (at_ + len)
      if a < z && thas s.mems q.obj then storeBlk q.obj (q.off + (a - at_)) ((b.drop (a - lo)).take (z - a)) s else s) s

/-- Ask the store alone for a chunk that the partner could not give (R418). -/
def refetch (c n : Nat) (s : State) : State :=
  match restoreLive s c with
  | none => s
  | some (r, _) =>
    if r.refetch.contains n then s
    else rstGet c r false n 1 (modRst c (fun r => { r with refetch := r.refetch ++ [n] }) s)

/-- The partner is lost or has no copy: the chunks not yet read come from the store (R418). -/
def partnerGone (c : Nat) (s : State) : State :=
  match restoreLive s c with
  | none => s
  | some (r, _) =>
    let s := modRst c (fun r => { r with useBuddy := false }) s
    let from_ := (firstFrom (fun n => (chunkAt s c r n).isNone && !r.refetch.contains n) (rstChunks r) r.got.length).getD (rstChunks r)
    if from_ < rstChunks r then rstGet c r false from_ (rstChunks r - from_) s else s

/-- RESTORE_CHUNK (R418): the next chunk, received whole, is checked by its trailer and written into its ranges; one that
fails is fetched from the store alone. -/
def execRestoreChunk (ctx : Nat) (s : State) : Host.Outcome State Fault Refusal :=
  .next (match restoreLive s ctx with
  | none => s
  | some (r, _) =>
    let n := r.got.length
    if r.mani = [] ∨ rstChunks r ≤ n then s
    else
      match chunkAt s ctx r n with
      | none => s
      | some (b, buddy) =>
        (match openChunk (planKey s r.plan) r n b with
         | none => if buddy then refetch ctx n s else shardFails ctx s
         | some plain =>
           let head := if n = 0 then plain.take (256 + 32 * bin plain 6 2 + 64 * bin plain 32 2) else r.head
           if n = 0 ∧ !rangesMatch r.plan head then restoreRefuse ctx 6 s
           else
             let r := { r with got := r.got ++ [b], fromStore := r.fromStore + (if buddy then 0 else 1), head := head }
             writeRanges r n plain (modRst ctx (fun _ => r) s)))

/-- RESTORE_COMPLETE (R419, R420): with every chunk read, the digest decides. -/
def execRestoreComplete (ctx : Nat) (s : State) : Host.Outcome State Fault Refusal :=
  .next (match restoreLive s ctx with
  | none => s
  | some (r, _) =>
    if r.mani = [] ∨ r.got.length < rstChunks r then s
    else if (Config.sha384 r.got.flatten).toNat ≠ bin (maniEntry r.mani r.plan.rank) 0 48 then shardFails ctx s
    else
      let s := modCtx ctx (fun x => { x with seed := BitVec.ofNat 256 (bin r.head 40 32), mode := bitOf (bin r.head 36 1) 0 }) s
      let n := bin r.head 32 2
      let pos := (r.head.drop (256 + 32 * bin r.head 6 2)).take (64 * n)
      let ok := (tget s.mems r.dest.1).any fun (m : MemObj) =>
        decide (r.dest.2 + 64 * n ≤ m.size) && writableRange m r.dest.2 (64 * n)
      let s := if ok then storeBlk r.dest.1 r.dest.2 pos s else s
      let s := weightChain (Config.sha384 r.mani) s
      let s := if r.fell then ckpPost ctx r.step 0x0A s else s
      restoreEnds ctx { rDone with value := r.step, aux := r.fromStore, flags := bitAt r.fell 0 + bitAt (decide (r.fromStore = 0)) 1 } s)

/-! ## Acknowledgements and losses (R411) -/

/-- A transfer fails: its peer refused it or is lost. -/
def xferFails (t : Nat) (x : Xfer) (lost : Bool) (s : State) : State :=
  let s := dropXfer t s
  match x.kind with
  | .shardPut => ckpFail x.ctx (if lost then 2 else 1) s
  | .buddyPut =>
    (match (ckpOf s x.ctx).run with
     | some r => ckpPost x.ctx r.step 6 s
     | none => s)
  | .maniPut => maniSend x.ctx false s
  | .maniGet => restoreRefuse x.ctx 1 s
  | .stat => restoreRefuse x.ctx 1 s
  | .storeGet => shardFails x.ctx s
  | .buddyGet => partnerGone x.ctx s
  | .mark => s

/-- The digest of the bytes a put has stored. -/
def putDigest (s : State) (x : Xfer) : Nat :=
  if x.kind = .maniPut then (Config.sha384 x.bytes).toNat
  else match (ckpOf s x.ctx).plan, (ckpOf s x.ctx).run with
    | some p, some r => shardDigest s p r
    | _, _ => 0

/-- A put whose chunks are all acknowledged is closed with its digest. -/
def tryPutClose (t : Nat) (s : State) : State :=
  match tget s.ckp.xfers t with
  | none => s
  | some x =>
    if isPut x.kind && x.opened && !x.closing && decide (x.chunks ≤ x.next) && x.unacked.isEmpty then
      fileReq x.node 2 t [putDigest s x] [] (modXfer t (fun x => { x with closing := true, unacked := [(reqKey, 0)] }) s)
    else s

/-- ACK (R411, Table 16-6). -/
def execAck (port node txn status chunk window : Nat) (s : State) : Host.Outcome State Fault Refusal :=
  .next (match tget s.ckp.xfers txn with
  | none => routeDrop port s
  | some x =>
    if x.node ≠ node then routeDrop port s
    else if x.kind = .mark then dropXfer txn s
    else if x.kind = .stat then (if status = 0 then s else restoreRefuse x.ctx 1 (dropXfer txn s))
    else if status = 4 then
      (if x.kind = .buddyGet then refetch x.ctx chunk s else xferFails txn x false s)
    else if status ≠ 0 then xferFails txn x false s
    else if isPut x.kind then
      let w := clampTo 1 255 window
      if x.opened then
        tryPutClose txn (modXfer txn (fun x => { x with window := w, unacked := if x.closing then x.unacked else tdel x.unacked chunk }) s)
      else modXfer txn (fun x => { x with opened := true, window := w, unacked := tdel x.unacked reqKey }) s
    else modXfer txn (fun x => { x with opened := true, unacked := [(reqKey, 0)] }) s)

/-- The bytes that a get still lacks begin at this chunk. -/
def getNext (x : Xfer) : Nat :=
  let size := if x.kind = .maniGet then 1048576 else storedChunk
  max x.span.1 (heldTo (x.pieces.filter fun (e : Nat × List Byte) => x.span.1 * size < e.1 + e.2.length) (x.span.1 * size) / size)

/-- Send a transfer's waiting request again. -/
def sendAgain (t : Nat) (x : Xfer) (s : State) : State :=
  match x.kind with
  | .mark => fileReq x.node 5 t [] x.name s
  | .stat => fileReq x.node 4 t [] x.name s
  | .maniGet | .storeGet | .buddyGet => fileReq x.node 3 t [getNext x, x.span.2 - (getNext x - x.span.1)] x.name s
  | .maniPut =>
    if x.closing then fileReq x.node 2 t [putDigest s x] [] s else fileReq x.node 1 t [x.bytes.length] x.name s
  | .shardPut | .buddyPut =>
    if x.closing then fileReq x.node 2 t [putDigest s x] [] s
    else match (ckpOf s x.ctx).plan with
      | some p => fileReq x.node 1 t [storedLen (planLen p)] x.name s
      | none => s

/-- Has a get received all of its span? Nothing of it waits then. -/
def getWhole (s : State) (x : Xfer) : Bool :=
  match (ckpOf s x.ctx).restore with
  | some r => decide (r.mani ≠ []) && decide (min (min (x.span.1 + x.span.2) (rstChunks r) * storedChunk) (rstLen r) ≤
      heldTo (x.pieces.filter fun (e : Nat × List Byte) => x.span.1 * storedChunk < e.1 + e.2.length) (x.span.1 * storedChunk))
  | none => false

/-- CHUNK_RESEND_TIMER (R411): 10 ms without an acknowledgement of a chunk, or of a request (none). -/
def execChunkResendTimer (txn : Nat) (chunk : Option Nat) (s : State) : Host.Outcome State Fault Refusal :=
  .next (match tget s.ckp.xfers txn with
  | none => s
  | some x =>
    let k := chunk.getD reqKey
    match tget x.unacked k with
    | none => s
    | some n =>
      if (decide (x.kind = .storeGet) || decide (x.kind = .buddyGet)) && getWhole s x then s
      else if 2 ≤ n then xferFails txn x true s
      else
        let s := modXfer txn (fun x => { x with unacked := tput x.unacked k (n + 1) }) s
        match chunk with
        | none => sendAgain txn x s
        | some c =>
          match putChunk s x c with
          | some (base, b) => sendPieces x.node txn base b s
          | none => if xferPut x.kind then ckpFail x.ctx 3 s else s)

/-- DURABLE (R411, R415). -/
def execDurable (port node txn : Nat) (s : State) : Host.Outcome State Fault Refusal :=
  .next (match tget s.ckp.xfers txn with
  | none => routeDrop port s
  | some x =>
    if x.node ≠ node ∨ !x.closing then routeDrop port s
    else
      let digest := putDigest s x
      let s := dropXfer txn s
      match x.kind with
      | .shardPut =>
        ckpReport x.ctx digest 0 (modCc x.ctx (fun k => { k with run := k.run.map fun (r : CkpRun) => { r with phase := .manifest } }) s)
      | .buddyPut => modCc x.ctx (fun k => { k with run := k.run.map fun (r : CkpRun) => { r with buddy := true } }) s
      | .maniPut => maniSend x.ctx true s
      | _ => s)

/-! ## The manifest (R415) -/

/-- DIGEST_REPORT: a rank's report arrives at the manifest node. -/
def execDigestReport (node rank step inc shape digest len store : Nat) (buddy : Option Nat) (result : Nat) (s : State) :
    Host.Outcome State Fault Refusal :=
  .next (maniReport node rank step inc shape digest len store buddy result s)

/-- MANIFEST_DONE arrives at a rank. -/
def execManifestDone (node step inc result : Nat) (s : State) : Host.Outcome State Fault Refusal :=
  .next (maniDone node step inc result s)

/-- MANIFEST_WAIT_EXPIRE: MANIFEST_WAIT_S after the manifest node's snapshot point, or 1 s later at a rank. -/
def execManifestWaitExpire (ctx : Nat) (manager : Bool) (s : State) : Host.Outcome State Fault Refusal :=
  .next (
    if manager then
      (match (ckpOf s ctx).mani with
       | some w => if w.sent.isNone then maniSend ctx false s else s
       | none => s)
    else
      match (ckpOf s ctx).run with
      | some r => if r.phase = .snapshot then s else ckpFail ctx 5 s
      | none => s)

/-! ## The partner's side (R412, R413) -/

/-- Send a FILE_RSP. -/
def fileRsp (node kind txn : Nat) (fields : List Nat) (s : State) : State := sendTo node (.ctl 0x31 kind (txn :: fields)) s

/-- May a node use the buddy region (R412)? -/
def buddyServes (s : State) (node : Nat) : Bool :=
  s.ckp.enable && decide (s.ckp.src = node) && (!confidential s || sessionNode s node)

/-- The slots, with a flag for slot B. -/
def slotsOf (s : State) : List (Bool × BuddySlot) :=
  (match s.ckp.slotA with
   | some x => [(false, x)]
   | none => []) ++ (match s.ckp.slotB with
   | some x => [(true, x)]
   | none => [])

/-- Set a slot. -/
def setSlot (b : Bool) (x : Option BuddySlot) (s : State) : State :=
  modCkp (fun k => if b then { k with slotB := x } else { k with slotA := x }) s

/-- The slot of the put under way with a transfer number. -/
def slotOfTxn (s : State) (txn : Nat) : Option (Bool × BuddySlot) :=
  (slotsOf s).find? fun (e : Bool × BuddySlot) => !e.2.whole && decide (e.2.txn = txn)

/-- Does slot B hold the last complete copy, or nothing else does? -/
def putGoesB (s : State) : Bool :=
  !s.ckp.lastB && (match s.ckp.slotA with
    | some x => x.whole
    | none => false)

/-- PUT_OPEN at a partner (R411 to R413). -/
def execPutOpen (node txn : Nat) (name : List Byte) (len : Nat) (s : State) : Host.Outcome State Fault Refusal :=
  .next (
    let ack := fun st s => fileRsp node 0x81 txn [st, 0, 1 + freeNow s % 255] (tookFree s)
    if !buddyServes s node ∨ bin name 20 1 ≠ 2 then ack 3 s
    else if (slotsOf s).any fun (e : Bool × BuddySlot) => e.2.whole && decide (e.2.name = name) then ack 3 s
    else if s.ckp.gib / 2 * 2 ^ 30 < len then ack 1 s
    else
      ack 0 (setSlot (putGoesB s) (some { name := name, len := len, pieces := [], acked := [], whole := false, txn := txn }) s))

/-- CKP_DATA for a put: it is stored, and a chunk that is whole is acknowledged. -/
def putData (node txn off : Nat) (data : List Byte) (s : State) : State :=
  match slotOfTxn s txn with
  | none => s
  | some (b, x) =>
    if !buddyServes s node ∨ x.len < off + data.length then s
    else
      let x := { x with pieces := tput x.pieces off data }
      let n := off / storedChunk
      if (piecesSpan x.pieces (n * storedChunk) (min ((n + 1) * storedChunk) x.len)).isSome then
        fileRsp node 0x81 txn [0, n, 1 + freeNow s % 255] (setSlot b (some { x with acked := linsert x.acked n }) (tookFree s))
      else setSlot b (some x) s

/-- CKP_DATA (R410): stored bytes for a restore, or for a put of the buddy region. -/
def execCkpData (port node txn off : Nat) (data : List Byte) (s : State) : Host.Outcome State Fault Refusal :=
  .next (match tget s.ckp.xfers txn with
  | some x =>
    if x.node = node && xferGet x.kind then
      let s := modXfer txn (fun x => { x with pieces := tput x.pieces off data, opened := true, unacked := [(reqKey, 0)] }) s
      if x.kind = .maniGet then restoreManifest x.ctx s else s
    else if (slotOfTxn s txn).isSome then putData node txn off data s
    else routeDrop port s
  | none => if (slotOfTxn s txn).isSome then putData node txn off data s else routeDrop port s)

/-- PUT_CLOSE at a partner (R411): DURABLE when the bytes match the digest. -/
def execPutClose (node txn digest : Nat) (s : State) : Host.Outcome State Fault Refusal :=
  .next (match slotOfTxn s txn with
  | none => fileRsp node 0x81 txn [3, 0, 1] s
  | some (b, x) =>
    if !buddyServes s node then fileRsp node 0x81 txn [3, 0, 1] s
    else
      match piecesSpan x.pieces 0 x.len with
      | some bytes =>
        if (Config.sha384 bytes).toNat = digest then
          fileRsp node 0x82 txn [] (modCkp (fun k => { k with lastB := b }) (setSlot b (some { x with whole := true }) s))
        else fileRsp node 0x81 txn [3, 0, 1] s
      | none => fileRsp node 0x81 txn [3, 0, 1] s)

/-- GET_OPEN at a partner (R418): the chunks of the copy; one that has a poisoned line is answered with CHUNK_BAD. -/
def execGetOpen (node txn : Nat) (name : List Byte) (first count : Nat) (bad : List Nat) (s : State) :
    Host.Outcome State Fault Refusal :=
  .next (
    let ack := fun st chunk s => fileRsp node 0x81 txn [st, chunk, 1 + freeNow s % 255] (tookFree s)
    if !buddyServes s node then ack 3 0 s
    else
      match (slotsOf s).find? fun (e : Bool × BuddySlot) => e.2.whole && decide (e.2.name = name) with
      | none => ack 2 0 s
      | some (_, x) =>
        let n := chunkCount x.len storedChunk
        ((List.range (min count (n - first))).map (first + ·)).foldl (fun s i =>
          if bad.contains i then ack 4 i s
          else
            let lo := i * storedChunk
            match piecesSpan x.pieces lo (min (lo + storedChunk) x.len) with
            | some b => sendPieces node txn lo b s
            | none => s) (ack 0 first s))

end Sys2Proof.Machine
end

