-- ==== Sys2Proof/Machine/Owl.lean ====
section
/-!
DEFINITION. Sys2Proof/Machine/Owl.lean: the owl's margin plan and policies, the power limiter, the ledger and the logbook
in service (chapter 20).
-/
namespace Sys2Proof.Machine

/-! ## The margin plan (R497 to R501) -/

/-- FLOOR, ALARM and GUARDBAND in 0.1% of the cycle (R497). -/
def slackFloor : Nat := 50
/-- ALARM -/
def slackAlarm : Nat := 70

/-- A cluster of the plan as loaded. -/
def cluPlan (s : State) (c : Nat) : CluPlan :=
  tgetD s.owl.clu c { state := 0, slack := 0, below := false, dropped := false, mx := 0, vc := 0 }

/-- Change a cluster of the plan. -/
def modPlan (c : Nat) (f : CluPlan → CluPlan) (s : State) : State :=
  modOwl (fun o => { o with clu := tput o.clu c (f (cluPlan s c)) }) s

/-- Is the plan frozen (R516)? -/
def planFrozen (s : State) : Bool := decide (s.nv.log.state = 2)

/-- The plan now in force, as its record keeps it. -/
def planNow (s : State) (cause : Nat) : MarginPlan :=
  { volts := s.owl.volts, clusters := (List.range 64).map fun c => ((cluPlan s c).mx, (cluPlan s c).vc), cause := cause
    frozen := planFrozen s }

/-- State of a cluster as the plan gives it: retired, offline, in cooldown or in service. -/
def planState (s : State) (c : Nat) : Nat :=
  if cluRetired s c then 2 else if partOff s (c / 16) then 3 else (cluPlan s c).state % 2

/-- A re-plan begins; one that runs goes on, but for an alarm's, which replaces it (R499). Frozen, none begins (R516). -/
def startReplan (cause : Nat) (s : State) : State :=
  if planFrozen s then s
  else if s.owl.replanning.isSome && decide (cause ≠ 1) then s
  else modOwl (fun o => { o with replanning := some cause }) s

/-- One cluster's SLACK is read (R497, R500). -/
def readSlack (e : Nat × Nat) (s : State) : State :=
  let c := e.1
  if !cluInService s c || decide (64 ≤ c) then s
  else
    let p := cluPlan s c
    let low := decide (e.2 < slackAlarm)
    if low && p.below && !p.dropped then
      let p' : CluPlan := { p with slack := e.2, below := true, dropped := true, mx := 1100, vc := 1200 }
      startReplan 1 (modOwl (fun o => { o with clu := tput o.clu c p', alarms := satAdd 255 o.alarms 1 }) s)
    else modPlan c (fun p => { p with slack := e.2, below := low }) s

/-- REPLICA_READ: two successive reads below ALARM raise a margin alarm: the cluster's clocks drop and a re-plan begins. -/
def execReplicaRead (slack : List (Nat × Nat)) (s : State) : Host.Outcome State Fault Refusal :=
  .next (slack.foldl (fun s e => readSlack e s) s)

/-- AGEING_READ -/
def execAgeingRead (readings : List (Nat × Nat)) (s : State) : Host.Outcome State Fault Refusal :=
  .next (modOwl (fun o => { o with ageing := readings.foldl (fun t e => if e.1 < 1024 then tput t e.1 e.2 else t) o.ageing }) s)

/-- MARGIN_FLOOR_RETIRE: after the clocks have dropped, SLACK still below FLOOR retires the cluster (R500, R501). -/
def execMarginFloorRetire (c : Nat) (s : State) : Host.Outcome State Fault Refusal :=
  .next (
    let p := cluPlan s c
    if p.dropped && decide (p.slack < slackFloor) then retireCluster c 1 (10 * p.slack) s else s)

/-- DAILY_REPLAN -/
def execDailyReplan (s : State) : Host.Outcome State Fault Refusal := .next (startReplan 0 s)

/-- REPLAN: OWL_CTRL.REPLAN (cause 0x03). -/
def execReplan (src : Src) (s : State) : Host.Outcome State Fault Refusal :=
  .next (if srcOpen s src then startReplan 3 s else s)

/-- Did a cluster's planned values change? -/
def planDiffers (s : State) (e : Nat × Nat × Nat) : Bool :=
  decide ((cluPlan s e.1).mx ≠ e.2.1) || decide ((cluPlan s e.1).vc ≠ e.2.2)

/-- The daily and per-re-plan HEALTH record: retries, spares, VBAT, coolant, hottest sensor (R513, Table 20-8). -/
def healthBytes (s : State) : List Byte :=
  leBytes 2 s.log.retries ++ leBytes 2 s.nv.log.spares ++ leBytes 2 s.mod.vbatMv ++ leBytes 2 s.mod.inlet
    ++ leBytes 2 s.mod.outlet ++ leBytes 2 s.mod.hottest

/-- REPLAN_COMPLETE (R499): the record first, then the rails and clocks, then what must be retired; MARGIN_REPLAN is
posted and a REPLAN record written where a value changed. -/
def execReplanComplete (volts : List Nat) (clocks : List (Nat × Nat × Nat)) (retire : List Nat) (s : State) :
    Host.Outcome State Fault Refusal :=
  .next (
    match s.owl.replanning with
    | none => s
    | some cause =>
      let cs := clocks.filter fun e => cluInService s e.1 && decide (e.1 < 64) && !retire.contains e.1
      let changed := (cs.filter (planDiffers s)).length + (retire.filter (cluInService s)).length
      let any := decide (changed ≠ 0) || decide (padTo 4 0 volts ≠ s.owl.volts)
      let clu := cs.foldl (fun t e =>
        tput t e.1 { cluPlan s e.1 with mx := clampTo 1100 1700 e.2.1, vc := clampTo 1200 2000 e.2.2, dropped := false }) s.owl.clu
      let plan : OwlState := { s.owl with volts := padTo 4 0 volts, clu := clu, replanning := none, factory := false
                                          replans := satAdd 65535 s.owl.replans 1 }
      let rec_ := planNow { s with owl := plan } cause
      let s := modNv (fun n => { n with planRec := twoWrite rec_ n.planRec }) s
      let s := { s with owl := plan }
      let s := retire.foldl (fun s c => retireCluster c 1 (10 * (cluPlan s c).slack) s) s
      let s := logWrite 0x07 false (healthBytes s) s
      if any then
        let detail := twoSeq s.nv.planRec + fieldAt cause 32 8 + fieldAt changed 40 8
        post 0 Att.marginReplan detail 0 (logWrite 0x08 false (leBytes 8 detail) s)
      else s)

/-- What M12 does: the plan is loaded, or the factory guardbands are used (R498, R49). -/
def loadMarginPlan (s : State) : State :=
  match twoNewest s.nv.planRec with
  | some (_, p) =>
    let clu := (List.range 64).map fun c =>
      (c, { state := 0, slack := 0, below := false, dropped := false, mx := (p.clusters.getD c (1100, 1200)).1
            vc := (p.clusters.getD c (1100, 1200)).2 : CluPlan })
    modOwl (fun o => { o with volts := p.volts, clu := clu, factory := false }) s
  | none =>
    let clu := (List.range 64).map fun c =>
      (c, { state := 0, slack := 0, below := false, dropped := false, mx := (Config.factoryClocks c).1
            vc := (Config.factoryClocks c).2 : CluPlan })
    modClk (fun k => { k with dueFactory := true })
      (modOwl (fun o => { o with volts := (List.range 4).map Config.factoryVolts, clu := clu, factory := true }) s)

/-! ## Policies (R502, R503) -/

/-- A policy value made legal (R10, Table 20-3). -/
def policyLegal (l v : Nat) : Nat :=
  if l = 0 then v % 128
  else if l = 1 then clampZeroOr 1100 1700 (bitsOf v 0 11) + fieldAt (clampZeroOr 1200 2000 (bitsOf v 11 11)) 11 11
  else if l = 3 then v % 2 ^ 23
  else if l = 4 then clampTo 100 400 (v % 512)
  else if l = 5 then clampTo 85 100 (v % 128)
  else 0

/-- A loop applies a value: OVR follows, and POLICY_OVERRIDDEN is posted as R503 limits it, with a POLICY record. -/
def applyPolicy (l req applied unit : Nat) (s : State) : State :=
  let was := bitOf s.owl.polOvr l
  let is := decide (req ≠ applied)
  let last := s.owl.polClear.getD l 0
  let s' := modOwl (fun o => { o with polReq := lset o.polReq l req, polApplied := lset o.polApplied l applied
                                      polOvr := if is then setBit o.polOvr l else clrBit o.polOvr l
                                      polClear := if was && !is then lset o.polClear l (s.now + 1) else o.polClear }) s
  if is && !was && (decide (last = 0) || decide (last + 1000000000 ≤ s.now + 1)) then
    let detail := fieldAt l 0 4 + fieldAt unit 8 8 + fieldAt req 16 24 + fieldAt applied 40 24
    post 0 Att.policyOverridden detail 0 (logWrite 0x0A false (leBytes 8 detail) s')
  else s'

/-- POLICY_WRITE. Loop 2 ignores writes (Table 20-3). -/
def execPolicyWrite (src : Src) (l v allowed unit : Nat) (s : State) : Host.Outcome State Fault Refusal :=
  .next (if srcOpen s src && decide (l < 6) && decide (l ≠ 2) then
    applyPolicy l (policyLegal l v) (policyLegal l allowed) unit s else s)

/-- PLACEMENT_COOLDOWN -/
def execPlacementCooldown (c : Nat) (s : State) : Host.Outcome State Fault Refusal :=
  .next (if decide (c < 64) && cluInService s c then modPlan c (fun p => { p with state := 1 }) s else s)

/-- COOLDOWN_END -/
def execCooldownEnd (c : Nat) (s : State) : Host.Outcome State Fault Refusal :=
  .next (if decide (c < 64) && cluInService s c then modPlan c (fun p => { p with state := 0 }) s else s)

/-- The port of a lane: the board ports' 4 lanes each, then the optical ports' 8. -/
def lanePort (l : Nat) : Nat := if l < 60 then l / 4 else 15 + (l - 60) / 8

/-- EYE_MONITOR_READ: a lane below 50% of its margin adapts whatever EQ_HOLD says (R502). -/
def execEyeMonitorRead (margins : List (Nat × Nat)) (s : State) : Host.Outcome State Fault Refusal :=
  .next (
    let eye := margins.foldl (fun t e => if e.1 < 124 then tput t e.1 e.2 else t) s.owl.eye
    let low := (eye.filter fun (e : Nat × Nat) => e.2 < 50).map Prod.fst
    let req := s.owl.polReq.getD 3 0
    let held := low.filter fun l => bitOf req (lanePort l)
    let applied := held.foldl (fun v l => clrBit v (lanePort l)) req
    let adapting := (List.range 124).filter fun l => !bitOf req (lanePort l) || low.contains l
    let unit := match held with
      | l :: _ => lanePort l
      | [] => 0xFF
    applyPolicy 3 req applied unit (modOwl (fun o => { o with eye := eye, eqAdapting := adapting }) s))

/-! ## The limiter, periods and intervals (R504 to R508) -/

/-- Mark the open interval. -/
def modOpen (f : Interval → Interval) (s : State) : State := modLed (fun l => { l with openIv := l.openIv.map f }) s

/-- The lowest effective cap of the open interval follows a change of the caps. -/
def noteCap (s : State) : State :=
  let c := effectiveCap s
  modOpen (fun i => { i with cap := min i.cap c }) s

/-- One step down: matrix clocks, then vector clocks, then issue gaps. -/
def limitDown (p : PwrState) : PwrState :=
  if 1100 < p.limMx then { p with limMx := p.limMx - 25 }
  else if 1200 < p.limVc then { p with limVc := p.limVc - 25 }
  else { p with limGaps := p.limGaps + 1 }

/-- One step up, in the reverse order. -/
def limitUp (p : PwrState) : PwrState :=
  if 0 < p.limGaps then { p with limGaps := p.limGaps - 1 }
  else if p.limVc < 2000 then { p with limVc := p.limVc + 25 }
  else if p.limMx < 1700 then { p with limMx := p.limMx + 25 }
  else p

/-- POWER_LIMITER_TICK -/
def execPowerLimiterTick (watts : Nat) (s : State) : Host.Outcome State Fault Refusal :=
  .next (
    let s := modPwr (fun p => { p with powerW := min 65535 watts }) s
    if effectiveCap s < watts then modOpen (fun i => { i with flags := setBit i.flags 3 }) (modPwr limitDown s)
    else if watts < effectiveCap s then modPwr limitUp s
    else s)

/-- LEDGER_TIME_LOAD -/
def execLedgerTimeLoad (s : State) : Host.Outcome State Fault Refusal := .next (if s.wmk.synced then ledgerLoad s else s)

/-- One account is charged in the price code of the open interval. -/
def chargeAcct (price acct mj : Nat) (l : LedgerState) : LedgerState :=
  let k := acct * 16 + price
  if mj = 0 then l else { l with totals := tput l.totals k (tgetD l.totals k 0 + mj) }

/-- The account of a function: the session in confidential mode (R508). -/
def acctOf (s : State) (fn : Nat) : Nat := if confidential s then 513 else fn

/-- METER_TICK (R508): E is split in proportion to the charges, what is left over goes to the device. -/
def execMeterTick (energy : Nat) (charges : List (Nat × Nat)) (s : State) : Host.Outcome State Fault Refusal :=
  .next (
    match s.led.openIv with
    | none => s
    | some iv =>
      let cs := if s.clk.phase = .ready then charges.filter fun e => decide (e.1 ≤ 512) else []
      let d := (cs.map Prod.snd).sum
      let shares := if d = 0 then [] else cs.map fun e => (acctOf s e.1, energy * e.2 / d)
      let rest := energy - (shares.map Prod.snd).sum
      let secE := s.led.secEnergy + energy
      let full := decide (s.led.secTicks + 1 = 10000)
      let iv' : Interval := { iv with energy := iv.energy + energy
                                      peak := if full then max iv.peak (min 65535 (secE / 1000)) else iv.peak }
      modLed (fun l =>
        let l := shares.foldl (fun l e => chargeAcct iv.price e.1 e.2 l) l
        let l := chargeAcct iv.price 514 rest l
        { l with energy := l.energy + energy, openIv := some iv', secTicks := if full then 0 else l.secTicks + 1
                 secEnergy := if full then 0 else secE }) s)

/-- Nanoseconds of the demand interval. -/
def intervalNs (s : State) : Nat := s.pwr.intervalMin * 60000000000

/-- The PWR block's quiescent point: a pending INTERVAL_MIN is applied (R520). -/
def applyInterval (s : State) : State :=
  modPwr (fun p => { p with intervalMin := p.intervalPending.getD p.intervalMin, intervalPending := none }) s

/-- INTERVAL_CLOSE: ledger time has reached a multiple of INTERVAL_MIN (R507). -/
def execIntervalClose (s : State) : Host.Outcome State Fault Refusal :=
  .next (
    match s.led.openIv with
    | none => s
    | some iv =>
      if iv.start / intervalNs s < s.led.time / intervalNs s then ivOpen (applyInterval (ivClose 0 s)) else s)

/-- PERIOD_START: the entry in force follows ledger time (R506). -/
def execPeriodStart (s : State) : Host.Outcome State Fault Refusal :=
  .next (noteCap (modPwr (fun p => { p with inForce := periodAt p.periods s.led.time }) s))

/-- The PERIODS record. -/
def savePeriods (s : State) : State :=
  modNv (fun n => { n with periodsRec := twoWrite (s.pwr.periods, s.pwr.intervalMin) n.periodsRec }) s

/-- An entry of the schedule, at reset where it has not been written. -/
def periodOf (s : State) (i : Nat) : Period :=
  tgetD s.pwr.periods i { start := 0, valid := false, price := 0, cap := 0 }

/-- What a write of a period register makes of its entry (Tables 20-23, 20-24). -/
def periodWrite (r : Reg) (v : Nat) (s : State) : Option (Nat × Period) :=
  match r with
  | .pwrPeriodStart i => if i < 64 then some (i, { periodOf s i with start := v % 2 ^ 64 }) else none
  | .pwrPeriodCfg i =>
    if i < 64 then
      some (i, { periodOf s i with valid := bitOf v 31, price := bitsOf v 16 4, cap := clampZeroOr 600 2400 (bitsOf v 0 12) })
    else none
  | _ => none

/-- A write of a period register takes effect: the entry, the period in force, the PERIODS record (R506). -/
def setPeriod (r : Reg) (v : Nat) (s : State) : State :=
  match periodWrite r v s with
  | none => s
  | some (i, p) =>
    let s := modPwr (fun w => { w with periods := tput w.periods i p }) s
    savePeriods (noteCap (modPwr (fun w => { w with inForce := periodAt w.periods s.led.time }) s))

/-- PERIOD_WRITE -/
def execPeriodWrite (src : Src) (r : Reg) (v : DWord) (s : State) : Host.Outcome State Fault Refusal :=
  .next (if srcOpen s src then setPeriod r v.toNat s else s)

/-- What M14 does for the ledger and the schedule: totals and the ring are restored from the LEDGER record, the schedule
from the PERIODS record, and an interval opens (R506, R507, R511). Intervals run on through a chip reset. -/
def restoreLedger (s : State) : State :=
  let s := match twoNewest s.nv.periodsRec with
    | some (_, (ps, m)) => modPwr (fun p => { p with periods := ps, intervalMin := m }) s
    | none => s
  let s := modPwr (fun p => { p with inForce := periodAt p.periods s.led.time }) s
  if s.led.openIv.isSome then s
  else
    let s := match twoNewest s.nv.ledgerRec with
      | some (_, r) =>
        modLed (fun l =>
          let ring := match r.last with
            | some i => if l.ring.any fun j => j.index = i.index then l.ring else (i :: l.ring).take 4096
            | none => l.ring
          { l with totals := r.totals, energy := r.energy, peakAvg := r.peakAvg, ring := ring
                   nextIndex := max l.nextIndex (match r.last with
                     | some i => i.index + 1
                     | none => 0) }) s
      | none => s
    ivOpen s

/-! ## The logbook in service (R512 to R516) -/

/-- The 32-byte header and payload of a record (R513). -/
def logRecBytes (r : LogRec) : List Byte :=
  let h := leBytes 8 r.seq ++ leBytes 8 r.time ++ leBytes 1 r.typ ++ leBytes 1 (if r.critical then 1 else 0)
    ++ leBytes 2 r.payload.length ++ leBytes 8 0
  h ++ leBytes 4 (crc32c (h ++ r.payload)).toNat ++ r.payload

/-- Insert a record in order of SEQ. -/
def logInsert (r : LogRec) : List LogRec → List LogRec
  | [] => [r]
  | x :: l => if r.seq ≤ x.seq then r :: x :: l else x :: logInsert r l

/-- Every record the logbook and its buffer hold, in order of SEQ. -/
def logAll (s : State) : List LogRec := (s.nv.log.blocks.flatten ++ s.log.buffer).foldr logInsert []

/-- DAILY_HEALTH_RECORD -/
def execDailyHealthRecord (s : State) : Host.Outcome State Fault Refusal :=
  .next (if s.log.mounted then modLog (fun g => { g with retries := 0 }) (logWrite 0x07 false (healthBytes s) s) else s)

/-- LOGBOOK_COMMIT -/
def execLogbookCommit (s : State) : Host.Outcome State Fault Refusal :=
  .next (if s.log.mounted then logCommit (fun _ => true) s else s)

/-- The open block is retired as bad: its records are copied forward, a spare takes its place, or DATA_BLOCKS falls; wear
is posted where R515 says so. -/
def retireBlock (s : State) : State :=
  let l := s.nv.log
  if l.spares = 0 then
    modNv (fun n => { n with log := { l with dataBlocks := l.dataBlocks - 1 } }) s
  else
    let l' : LogStore := { l with spares := l.spares - 1, state := if l.spares - 1 ≤ 64 ∧ l.state = 0 then 1 else l.state }
    let s := modNv (fun n => { n with log := l' }) s
    if l'.spares = 64 || l'.spares = 0 then postWear s else s

/-- PAGE_PROGRAM_FAIL: the page is tried again on the next one; after the third retry the block is retired (R515). -/
def execPageProgramFail (last : Bool) (s : State) : Host.Outcome State Fault Refusal :=
  .next (
    if !s.log.mounted then s
    else
      let s := modLog (fun g => { g with retries := satAdd 65535 g.retries 1 }) s
      let s := match logPage s.nv.log with
        | some l => modNv (fun n => { n with log := l }) s
        | none => s
      if last then retireBlock s else s)

/-- LOGBOOK_BLOCK_ERASE: with fewer than 2 free blocks the block of the oldest records is erased, its critical records
copied to the open block first and its routine ones displaced (R516). -/
def execLogbookBlockErase (s : State) : Host.Outcome State Fault Refusal :=
  .next (
    if !s.log.mounted || decide (s.nv.log.state = 2) || decide (2 ≤ logFree s.nv.log) then s
    else
      match s.nv.log.blocks with
      | b :: c :: rest =>
        if (b :: c :: rest).all fun blk => blk.all fun r => r.critical then s
        else
          let keep := b.filter fun r => r.critical
          logCommitFrom keep 0 (modNv (fun n => { n with log := { n.log with blocks := c :: rest } }) s)
      | _ => s)

/-- What M14 does for the logbook: it is mounted, or enters READ_ONLY where it cannot be written (R512, R516); records that
waited are written. -/
def mountLogbook (writable : Bool) (s : State) : State :=
  let s := modLog (fun g => { g with mounted := true }) s
  let s := if writable then s else logReadOnly s
  let due := s.log.waiting
  let s := modLog (fun g => { g with waiting := [] }) s
  due.foldl (fun s r => logAppend r.1 r.2.1 r.2.2 s) s

/-! ## Opcodes (R517) -/

/-- A field that must name a memory object of a context of the descriptor's function: opcodes with CONTEXT null. -/
def needFnMem (s : State) (d : Desc) (off : Nat) : Option Result :=
  let h := dfld d off 4
  if hKind h ≠ Hk.mem then some (refuse St.refusedHandle off)
  else
    match tget s.mems (hSlot h) with
    | some m =>
      if ctxFn s m.ctx = d.fn then (if m.aborting then some (refuse St.refusedState off) else none)
      else some (refuse St.refusedHandle off)
    | none => some (refuse St.refusedHandle off)

/-- A destination range must lie in its object and be free of read-only pages. -/
def needOut (s : State) (h off len field : Nat) : Option Result :=
  match tget s.mems (hSlot h) with
  | some m => chk (decide (off + len ≤ m.size) && writableRange m off len) St.refusedHandle field
  | none => some (refuse St.refusedHandle field)

/-- Write a result to memory and end: POISONED where a line of it stays poisoned (R255), with the bytes before it. -/
def endWrite (d : Desc) (slot off : Nat) (bs : List Byte) (r : Result) (s : State) : State :=
  let bad := writeHitsPoison s slot off bs.length
  let s := storeMem (.desc d.qp d.sub) slot off bs s
  endDesc d.qp d.sub (if bad then { r with status := St.poisoned } else r) s

/-- An account's total over all price codes. -/
def acctTotal (s : State) (a : Nat) : Nat := ((List.range 16).map fun p => tgetD s.led.totals (a * 16 + p) 0).sum

/-- LEDGER_READ (0xC0) -/
def execLedgerRead (qp sub : Nat) (s : State) : Host.Outcome State Fault Refusal :=
  .next (onStarted 0xC0 qp sub (fun d s =>
    let f := dfld d 24 2
    let a := if f = 0xFFFF then d.fn else f
    guarded d [chk (decide (a ≤ 514) && (decide (d.fn = 0) || decide (a = d.fn))) St.refusedHandle 24] (fun s =>
      let idx := match s.led.openIv with
        | some i => i.index % 2 ^ 32
        | none => s.led.nextIndex % 2 ^ 32
      endDesc d.qp d.sub { rDone with value := acctTotal s a, aux := idx } s) s) s)

/-- The totals table of LEDGER_EXPORT: 515 × 16 totals of 8 B. -/
def totalsBytes (s : State) : List Byte :=
  ((List.range 8240).map fun k => leBytes 8 (tgetD s.led.totals k 0)).flatten

/-- LEDGER_EXPORT (0xC1) -/
def execLedgerExport (qp sub : Nat) (s : State) : Host.Outcome State Fault Refusal :=
  .next (onStarted 0xC1 qp sub (fun d s =>
    let out := dfld d 24 4
    let off := dfld d 32 8
    let n := min (clampTo 0 4096 (dfld d 40 4)) s.led.ring.length
    let len := 65920 + 64 * n
    guarded d [needFnMem s d 24, chk (off % 64 = 0) St.refusedHandle 32, needOut s out off len 32] (fun s =>
      let bs := totalsBytes s ++ (((s.led.ring.take n).reverse).map ivBytes).flatten
      endWrite d (hSlot out) off bs { rDone with value := len } s) s) s)

/-- Whole records that fit a length, with the SEQ of the first that is left out. -/
def logFit : List LogRec → Nat → List LogRec × Option Nat
  | [], _ => ([], none)
  | r :: l, n =>
    if logRecSize r ≤ n then
      let p := logFit l (n - logRecSize r)
      (r :: p.1, p.2)
    else ([], some r.seq)

/-- LOGBOOK_READ (0xC2) -/
def execLogbookRead (qp sub : Nat) (s : State) : Host.Outcome State Fault Refusal :=
  .next (onStarted 0xC2 qp sub (fun d s =>
    let out := dfld d 24 4
    let off := dfld d 32 8
    let len := dfld d 40 8
    guarded d [needFnMem s d 24, needOut s out off len 32] (fun s =>
      let p := logFit ((logAll s).filter fun r => dfld d 48 8 ≤ r.seq) len
      let bs := (p.1.map logRecBytes).flatten
      endWrite d (hSlot out) off bs { rDone with value := p.2.getD s.nv.log.nextSeq, aux := p.1.length } s) s) s)

end Sys2Proof.Machine
end

