-- ==== Sys2Proof/Machine/Power.lean ====
section
/-!
DEFINITION. Sys2Proof/Machine/Power.lean: power-up, power fail, the reset inputs, straps, tamper alarms and the thermal
loop (chapter 01, R430 and R431).
-/
namespace Sys2Proof.Machine

/-! ## Life-cycle positions (R458, R459) -/

/-- Is a word a position: bits 0 to p − 1 set and no other? -/
def posLegal (w : Nat) : Bool := (List.range 32).any fun p => decide (w = 2 ^ p - 1)

/-- The position a legal word spells. -/
def posOf (w : Nat) : Nat := popCount w 32

/-- Bitwise majority of the three OTP copies. -/
def posMajority (o : OtpState) : Nat := Nat.lor (Nat.land o.a o.b) (Nat.lor (Nat.land o.a o.c) (Nat.land o.b o.c))

/-- The life-cycle code of a position (Tables 18-1, 18-2). -/
def lcCode (p : Nat) : Nat :=
  if p = 0 then 0x00
  else if p ≤ 14 then (if p % 2 = 1 then 0x10 + (p + 1) / 2 else 0x20)
  else if p = 31 then 0x60
  else if p = 30 then 0xFF
  else if p % 3 = 0 then 0x30
  else if p % 3 = 1 then 0x40
  else 0x50

/-- The position the device acts under. -/
def lcPosition (s : State) : Nat := posOf (posMajority s.nv.otp)

/-- The life-cycle code the device acts under. -/
def lcNow (s : State) : Nat := lcCode (lcPosition s)

/-- Is the state TEST_UNLOCKED_n? -/
def testUnlocked (s : State) : Bool := decide (0x11 ≤ lcNow s) && decide (lcNow s ≤ 0x17)

/-! ## Power-up and power fail (R31, R33, R34) -/

/-- NOTICE arguments (Table 20-8) as this model numbers them: strap fault. -/
def Notice.strap : Nat := 1
/-- Low battery. -/
def Notice.battery : Nat := 2
/-- Coolant inlet above 40 °C. -/
def Notice.coolant : Nat := 3
/-- Repair queue full. -/
def Notice.repair : Nat := 4
/-- Lane margin history. -/
def Notice.lanes : Nat := 5

/-- Change the OTP words and the battery-backed key store. -/
def modOtp (f : OtpState → OtpState) (s : State) : State := modNv (fun n => { n with otp := f n.otp }) s

/-- Alarms raised on VBAT alone are carried out when power returns: SEC_ALARM and a fault record each (R455). -/
def carryAlarms (s : State) : State :=
  let s := s.nv.otp.vbatAlarms.foldl (fun s code =>
    let s := modSec (fun k => { k with alarmCount := satAdd 255 k.alarmCount 1, alarmLast := code }) s
    logWrite 0x04 true (leBytes 1 code) (fltRecord Cls.tamper 4 false false 0 0 code s)) s
  modOtp (fun o => { o with vbatAlarms := [] }) s

/-- VIN48 has risen: the switch closes, VBAT is measured, everything volatile is at input power-on (R28, R31). -/
def powerUp (vbat : Nat) (s : State) : State :=
  if s.mod.phase = .off then
    let s := modMod (fun m => { m with phase := .charging, inputSwitch := true, vbatMv := vbat }) s
    let s := modLed (fun l => { l with restart := true }) s
    let s := carryAlarms s
    if vbat < 2700 then alertPost 0x48 (logNotice Notice.battery vbat s) else s
  else s

/-- The rails are down: only what is nonvolatile, and what runs on VBAT, is left. -/
def powerLost (s : State) : State :=
  let r := State.reset
  { r with
    pending := s.pending, out := s.out, draws := s.draws, now := s.now, nv := s.nv
    led := { s.led with openIv := none, secTicks := 0, secEnergy := 0 }
    mod := { r.mod with vbatMv := s.mod.vbatMv, perstN := s.mod.perstN, modResetN := s.mod.modResetN
                        loopMissA := s.mod.loopMissA, loopMissB := s.mod.loopMissB, loopCode := s.mod.loopCode
                        meshMiss := s.mod.meshMiss } }

/-- POWER_UP -/
def execPowerUp (vbat : Nat) (s : State) : Host.Outcome State Fault Refusal := .next (powerUp vbat s)

/-- POWER_RETURN_STABLE -/
def execPowerReturnStable (vbat : Nat) (s : State) : Host.Outcome State Fault Refusal := .next (powerUp vbat s)

/-- BULK_CHARGED -/
def execBulkCharged (s : State) : Host.Outcome State Fault Refusal :=
  .next (if s.mod.phase = .charging then modMod (fun m => { m with phase := .charged, aoFrom48 := true }) s else s)

/-- Does a role strap read a reserved or ineffective value (R19)? -/
def roleFault (s : State) (role : Nat) : Bool := decide (role = 1) || (decide (role = 0) && !testUnlocked s)

/-- STRAP_SAMPLE: once between input power-on and PWR_GOOD (R20); a strap fault writes a NOTICE (R19, R21). -/
def execStrapSample (role slot board : Nat) (s : State) : Host.Outcome State Fault Refusal :=
  .next (
    if s.mod.phase = .charged then
      let role := role % 4
      let board := board % 2 ^ 20
      let s := modMod (fun m => { m with phase := .strapped, strapsSampled := true, strapRole := role, strapSlot := slot % 16
                                         strapBoard := board }) s
      let s := if roleFault s role then logNotice Notice.strap role s else s
      if board = 0xFFFFF then logNotice Notice.strap board s else s
    else s)

/-- RAILS_IN_REGULATION: PWR_GOOD is released. -/
def execRailsInRegulation (s : State) : Host.Outcome State Fault Refusal :=
  .next (if s.mod.phase = .strapped then modMod (fun m => { m with phase := .good, pwrGood := true }) s else s)

/-- POWER_FAIL_CONFIRM; before PWR_GOOD every regulator goes off at once (R34). -/
def execPowerFailConfirm (s : State) : Host.Outcome State Fault Refusal :=
  .next (
    match s.mod.phase with
    | .good =>
      modMod (fun m => { m with phase := .failing, inputSwitch := false, pwrGood := false }) (modMgt (fun g => { g with uartRx := [] }) s)
    | .off => s
    | .failing => s
    | _ => powerLost s)

/-- POWER_FAIL_STOP -/
def execPowerFailStop (s : State) : Host.Outcome State Fault Refusal :=
  .next (if s.mod.phase = .failing then modMod (fun m => { m with failStopped := true }) (holdEngines s) else s)

/-- POWER_FAIL_COMMIT -/
def execPowerFailCommit (s : State) : Host.Outcome State Fault Refusal :=
  .next (
    if s.mod.phase = .failing && !s.mod.failCommitted then
      let s := if s.log.mounted then commitPowerFail s else s
      modMod (fun m => { m with failCommitted := true }) s
    else s)

/-- RAILS_FALL -/
def execRailsFall (s : State) : Host.Outcome State Fault Refusal :=
  .next (if s.mod.phase = .failing then powerLost s else s)

/-! ## The reset inputs (R17, R34, R482) -/

/-- Has CLK_MG power, and is the chip's logic running? -/
def mgRuns (s : State) : Bool := decide (s.mod.phase = .strapped) || decide (s.mod.phase = .good)

/-- PERST_N_ASSERT: assertions shorter than 1 µs, and those in a power fail, are ignored. -/
def execPerstNAssert (ns : Nat) (s : State) : Host.Outcome State Fault Refusal :=
  .next (
    if ns < 1000 || decide (s.mod.phase = .failing) || !s.mod.perstN then s
    else
      let s := modMod (fun m => { m with perstN := false }) s
      if mgRuns s then chipReset 0 false false false 0 0 s else s)

/-- PERST_N_RELEASE -/
def execPerstNRelease (s : State) : Host.Outcome State Fault Refusal :=
  .next (if s.mod.phase = .failing then s else modMod (fun m => { m with perstN := true }) s)

/-- MOD_RESET_N_ASSERT: a chip reset with a cold sequence; the management controller is held in reset too, and
CLK_MS_CTRL returns to 0 (R17, R43, R55). -/
def execModResetNAssert (ns : Nat) (s : State) : Host.Outcome State Fault Refusal :=
  .next (
    if ns < 1000 || decide (s.mod.phase = .failing) || !s.mod.modResetN then s
    else
      let s := modMod (fun m => { m with modResetN := false }) s
      let s := { s with mgt := MgtState.init }
      let s := if mgRuns s then chipReset 0 true true false 0 0 s else s
      modClk (fun k => { k with scale := 0, scalePending := none }) s)

/-- MOD_RESET_N_RELEASE: alerts whose conditions hold become pending again. -/
def execModResetNRelease (s : State) : Host.Outcome State Fault Refusal :=
  .next (if s.mod.phase = .failing then s else alertConds (modMod (fun m => { m with modResetN := true }) s))

/-! ## Tamper alarms (R27, R28, R430, R431) -/

/-- A tamper alarm in the always-on domain: both secrets are cleared at once; with 48 V the alarm is on its way into
CLK_MG, without it the rest waits for the next power-up (R431, R455). -/
def tamperAlarm (code : Nat) (s : State) : State :=
  let s := modOtp (fun o => { o with root := none, tray := none, zeroised := true }) s
  if mgRuns s || decide (s.mod.phase = .failing) then
    modSec (fun k => { k with alarmDue := some (k.alarmDue.getD code) }) s
  else modOtp (fun o => { o with vbatAlarms := o.vbatAlarms ++ [code] }) s

/-- TAMPER_LOOP_CHECK: two consecutive mismatches on either loop. The next code driven is a free value. -/
def execTamperLoopCheck (okA okB : Bool) (s : State) : Host.Outcome State Fault Refusal :=
  .next (
    let a := if okA then 0 else s.mod.loopMissA + 1
    let b := if okB then 0 else s.mod.loopMissB + 1
    let hit := decide (2 ≤ a) || decide (2 ≤ b)
    let code := freeBits s 16
    let s := modMod (fun m => { m with loopMissA := if hit then 0 else a, loopMissB := if hit then 0 else b, loopCode := code })
      (tookFree s)
    if hit then tamperAlarm 0x02 s else s)

/-- MESH_CHECK -/
def execMeshCheck (ok : Bool) (s : State) : Host.Outcome State Fault Refusal :=
  .next (
    let n := if ok then 0 else s.mod.meshMiss + 1
    let hit := decide (2 ≤ n)
    let s := modMod (fun m => { m with meshMiss := if hit then 0 else n }) s
    if hit then tamperAlarm 0x01 s else s)

/-- VBAT_LOSS: only while the always-on domain runs from VBAT (R28). -/
def execVbatLoss (mv : Nat) (s : State) : Host.Outcome State Fault Refusal :=
  .next (
    if s.mod.aoFrom48 then s
    else
      let s := modMod (fun m => { m with vbatMv := mv }) s
      if mv < 2200 then tamperAlarm 0x03 s else s)

/-- Is a rail's monitor armed? The core (0 to 3), HBM (8), SerDes (9) and optical (10) rails only with PWR_GOOD (R430). -/
def railArmed (s : State) (rail : Nat) : Bool :=
  decide (rail < 14) && (s.mod.pwrGood || !(decide (rail < 4) || decide (rail = 8) || decide (rail = 9) || decide (rail = 10)))

/-- VOLTAGE_ALARM -/
def execVoltageAlarm (rail : Nat) (s : State) : Host.Outcome State Fault Refusal :=
  .next (if railArmed s rail then tamperAlarm 0x04 s else s)

/-- CLOCK_ALARM -/
def execClockAlarm (_clock : Nat) (s : State) : Host.Outcome State Fault Refusal := .next (tamperAlarm 0x05 s)

/-- TEMPERATURE_ALARM -/
def execTemperatureAlarm (_sensor : Nat) (s : State) : Host.Outcome State Fault Refusal := .next (tamperAlarm 0x06 s)

/-- Every key on the die is erased and any session ends (R431, R453). -/
def eraseKeys (s : State) : State :=
  let s := modSec (fun k => { k with alias_ := false }) (endSession s)
  modHif (fun h => { h with ide := [], spdmSecured := false }) s

/-- TAMPER_ALARM_ARRIVAL (Table 17-4): keys, record, SEC_ALARM, then a chip reset with a warm sequence. -/
def execTamperAlarmArrival (s : State) : Host.Outcome State Fault Refusal :=
  .next (
    match s.sec.alarmDue with
    | none => s
    | some code =>
      let s := eraseKeys s
      let s := modSec (fun k => { k with alarmDue := none, alarmCount := satAdd 255 k.alarmCount 1, alarmLast := code }) s
      let s := modLcs (fun l => { l with busy := none }) s
      let s := fltRecord Cls.tamper 4 false false 0 0 code s
      let s := alertPost 0x03 (logWrite 0x04 true (leBytes 1 code) s)
      chipResetNow Cls.tamper false true s)

/-! ## Coolant and the thermal loop (R35 to R37) -/

/-- INLET_OVER_TEMPERATURE -/
def execInletOverTemperature (temp : Nat) (s : State) : Host.Outcome State Fault Refusal :=
  .next (
    if temp ≤ 400 then modMod (fun m => { m with inlet := temp }) s
    else alertConds (logNotice Notice.coolant temp (modMod (fun m => { m with inlet := temp, inletOver := true }) s)))

/-- COOLANT_INLET_NORMAL -/
def execCoolantInletNormal (temp : Nat) (s : State) : Host.Outcome State Fault Refusal :=
  .next (if temp ≤ 400 then alertConds (modMod (fun m => { m with inlet := temp, inletOver := false }) s) else s)

/-- The stage a temperature enters (Table 01-11), in 0.1 °C. -/
def stageEntered (t : Nat) : Nat :=
  if 1050 ≤ t then 4 else if 1030 ≤ t then 3 else if 1000 ≤ t then 2 else if 950 ≤ t then 1 else 0

/-- The stage left standing once a temperature has held for 1 s: the highest whose release condition fails. -/
def stageHeld (t : Nat) : Nat := if 1000 ≤ t then 3 else if 970 ≤ t then 2 else if 920 ≤ t then 1 else 0

/-- A thermal trip: a chip reset with the compute rails off; a power fail in progress takes no notice (R34, R37). -/
def thermalTrip (s : State) : State :=
  if s.mod.tripped || decide (s.mod.phase ≠ .good) then s
  else
    let s := modMod (fun m => { m with tripped := true, pwrGood := false, thermalStage := 4 }) s
    alertPost 0x04 (chipReset Cls.thermalTrip true true false 0 0 s)

/-- THERMAL_LOOP: a stage is entered at once. -/
def execThermalLoop (hottest : Nat) (s : State) : Host.Outcome State Fault Refusal :=
  .next (
    let s := modMod (fun m => { m with hottest := hottest }) s
    let st := stageEntered hottest
    if s.mod.tripped || decide (st ≤ s.mod.thermalStage) then s
    else if st = 4 then thermalTrip s
    else
      let s := modMod (fun m => { m with thermalStage := st }) s
      if st = 3 then modClk (fun k => { k with paused := true }) (holdEngines s) else s)

/-- THERMAL_STAGE_RELEASE -/
def execThermalStageRelease (hottest : Nat) (s : State) : Host.Outcome State Fault Refusal :=
  .next (
    let was := s.mod.thermalStage
    let st := min was (stageHeld hottest)
    if s.mod.tripped || decide (was = st) then s
    else
      let s := modMod (fun m => { m with thermalStage := st, hottest := hottest }) s
      if was = 3 then modClk (fun k => { k with paused := false }) (releaseEngines s) else s)

/-- THERMAL_TRIP_RECOVERY: the compute rails are restored; the cold sequence is the next command. -/
def execThermalTripRecovery (s : State) : Host.Outcome State Fault Refusal :=
  .next (
    if s.mod.tripped && decide (s.mod.hottest < 850) then
      modMod (fun m => { m with tripped := false, thermalStage := 0, pwrGood := true }) s
    else s)

end Sys2Proof.Machine
end

