-- ==== Sys2Proof/Machine/Startup.lean ====
section
/-!
DEFINITION. Sys2Proof/Machine/Startup.lean: the start-up sequence, its milestones and the start-up fault path
(chapter 02), with what other chapters say happens at a milestone.
-/
namespace Sys2Proof.Machine

/-! ## Firmware copies (R222) -/

/-- A little-endian field of an image. -/
def imgNum (i : List Byte) (off n : Nat) : Nat := ofLe ((i.drop off).take n)

/-- SECURITY_VERSION of a copy. -/
def fwVersion (c : FwCopy) : Nat := imgNum c.image 4 2

/-- KEY_INDEX of a copy. -/
def fwKeyIndex (c : FwCopy) : Nat := imgNum c.image 6 1

/-- The first of checks 1 to 4 that a copy fails; 0 where it passes. -/
def fwCheck (f : FwStore) (c : FwCopy) : Nat :=
  if imgNum c.image 0 4 ≠ 0x46575431 ∨ 1 < fwKeyIndex c ∨ bitOf f.revoked (fwKeyIndex c) ∨ 2 ^ 26 < imgNum c.image 8 4 then 1
  else if fwVersion c < f.floor then 2
  else if !c.passed.1 then 3
  else if !c.passed.2 then 4
  else 0

/-- Does a copy pass at M4? A copy marked as failing does not (R530). -/
def fwGood (f : FwStore) (c : FwCopy) : Bool := !c.failing && decide (fwCheck f c = 0)

/-! ## The fault path (R48 to R50, R54) -/

/-- The milestone worked on. -/
def msWork (s : State) : Nat := min 15 (s.clk.milestone + 1)

/-- CLK_MS_FAULT is written, a copy of it is due to the logbook, and a fault record of class STARTUP is written (R471,
R495). -/
def msFault (cause : Nat) (s : State) : State :=
  let s := modClk (fun k => { k with faultMilestone := min 15 (k.milestone + 1), faultCause := cause
                                     faultCount := satAdd 255 k.faultCount 1, faultProgress := k.progress
                                     faultCopyDue := true }) s
  fltRecord Cls.startup 0 false false 0 0 0 s

/-- Every domain but CLK_MG and CLK_AO is held in reset; with `link`, CLK_PCIE runs on. -/
def holdDomains (ph : BootPhase) (link : Bool) (s : State) : State :=
  let k := s.clk
  let s := resetState k.resetClass (!k.warm) link s
  modClk (fun c => { c with phase := ph, attempt := k.attempt, lock := k.lock
                            milestone := if ph = .bootHold then k.milestone else 0
                            progress := if ph = .bootHold then k.progress else 0 }) s

/-- Boot-fault hold (R50): the host link runs on only where M6 was reached. -/
def bootHold (s : State) : State := alertConds (holdDomains .bootHold (decide (6 ≤ s.clk.milestone)) s)

/-- Straight to boot-fault hold, with its CLK_MS_FAULT entry. -/
def directHold (cause : Nat) (s : State) : State := bootHold (msFault cause s)

/-- The start-up fault path: a new attempt after 10 ms, or, from attempt 2, boot-fault hold. -/
def faultPath (cause : Nat) (s : State) : State :=
  let s := msFault cause s
  if s.clk.attempt < 2 then holdDomains .faultHold false s else bootHold s

/-! ## What the milestones do (Tables 02-3 and 02-4) -/

/-- The boot controller advances: the progress counter starts at 0. -/
def reach (n : Nat) (s : State) : State := modClk (fun k => { k with milestone := n, progress := 0 }) s

/-- M0: a sequence begins; a pending TEST_WINDOW_SCALE is applied (R55). -/
def startSequence (s : State) : State :=
  modClk (fun k => { k with phase := .running, milestone := 0, progress := 0, scale := k.scalePending.getD k.scale
                            scalePending := none }) s

/-- A partition found unfit stays offline until the next chip reset; partition 0 takes the fault path instead. -/
def startOffline (p : Nat) (s : State) : State :=
  if partOff s p then s
  else partStacks p 0 (modClk (fun k => { k with partOffline := Nat.lor k.partOffline (2 ^ p) }) s)

/-- A cluster retired in the sequence: the posting comes at M15 (R46). -/
def startRetire (c cause : Nat) (s : State) : State :=
  if cluRetired s c then s
  else
    let s := modNv (fun n => { n with retired := linsert n.retired c }) s
    let s := logWrite 0x06 true (leBytes 8 (c + fieldAt cause 8 8)) s
    modClk (fun k => { k with dueRetired := k.dueRetired ++ [(c, cause)] }) s

/-- SCRAP at M1: what an interruption left of the erasure is completed (R468). -/
def scrapErase (s : State) : State :=
  modOtp (fun o => { o with root := none, tray := none, trimsGone := true
                            tokens := (List.range 11).map fun i => (i, .ones) }) s

/-- M1 (R459): the majority is a position other than 30; lagging copies are programmed. -/
def doM1 (ok : Bool) (s : State) : State :=
  let w := posMajority s.nv.otp
  if !ok || !posLegal w || decide (posOf w = 30) then directHold 5 s
  else
    let s := modOtp (fun o => { o with a := Nat.lor o.a w, b := Nat.lor o.b w, c := Nat.lor o.c w }) s
    let s := modLcs (fun l => { l with loaded := true, position := posOf w }) (reach 1 s)
    if posOf w = 31 then bootHold (scrapErase s) else s

/-- M2: the time base starts (R314). -/
def doM2 (ok : Bool) (s : State) : State :=
  if ok then reach 2 (modWmk (fun w => { w with tb := 0 }) s) else faultPath 6 s

/-- M3: no fault where the link is not in L0 (R49). -/
def doM3 (l0 : Bool) (s : State) : State :=
  let l0 := l0 || s.clk.inL0
  reach 3 (modClk (fun k => { k with inL0 := l0, hostLinkLate := !l0 }) s)

/-- M4: copy A, or copy B, which counts as a tick (R49, R222). -/
def doM4 (a b : FwVerdict) (s : State) : State :=
  let s := modNv (fun n => { n with fw := { n.fw with
    a := { n.fw.a with passed := (a.digestOk, a.sigOk) }, b := { n.fw.b with passed := (b.digestOk, b.sigOk) } } }) s
  let f := s.nv.fw
  let okA := fwGood f f.a
  let okB := fwGood f f.b
  if okA || okB then
    let c := if okA then f.a else f.b
    reach 4 (modSvc (fun v => { v with running := true, active := !okA, aFailed := !okA, bFailed := !okB
                                       version := fwVersion c, digest := BitVec.ofNat 384 (imgNum c.image 16 48) }) s)
  else directHold 4 (modSvc (fun v => { v with aFailed := true, bFailed := true }) s)

/-- M5: the share mask is drawn; with an identity to derive, the root secret is drawn where it is absent, with a
tamper-history record where it was zeroised (R425, R427, R432, R49). -/
def doM5 (s : State) : State :=
  let c := lcNow s
  let s := modSec (fun k => { k with shareMask := freeNow s }) (tookFree s)
  let s :=
    if c = 0x30 ∨ c = 0x40 then
      let s := if s.nv.otp.root.isNone then
          let s := if s.nv.otp.zeroised then modOtp (fun o => { o with tamper := satAdd 64 o.tamper 1, zeroised := false, chainC := true }) s
                   else s
          modOtp (fun o => { o with root := some (freeNow s) }) (tookFree s)
        else s
      modSec (fun k => { k with alias_ := true }) s
    else s
  reach 5 s

/-- M7: partitions that could not join stay offline. -/
def doM7 (lost : List Nat) (s : State) : State :=
  if lost.contains 0 then faultPath 3 s else reach 7 ((lost.filter fun p => p < 4).foldl (fun s p => startOffline p s) s)

/-- M8: clusters with an array that cannot be repaired retire. -/
def doM8 (bad : List Nat) (s : State) : State :=
  reach 8 ((bad.filter fun c => c < 64).foldl (fun s c => startRetire c 4 s) s)

/-- M9: masks are set; more than 4 tiles or more than 16 vector cores retire the cluster (R145, R201). -/
def doM9 (tiles cores : List (Nat × Nat)) (s : State) : State :=
  let s := tiles.foldl (fun s e => if e.1 < 64 then modEng e.1 (fun g => { g with mask := e.2 % 2 ^ 64 }) s else s) s
  let s := cores.foldl (fun s e => if e.1 < 64 then modVclu e.1 (fun g => { g with mask := e.2 % 2 ^ 160 }) s else s) s
  let s := tiles.foldl (fun s e => if decide (e.1 < 64) && decide (4 < popCount (e.2 % 2 ^ 64) 64) then startRetire e.1 2 s else s) s
  reach 9 (cores.foldl (fun s e =>
    if decide (e.1 < 64) && decide (16 < popCount (e.2 % 2 ^ 160) 160) then startRetire e.1 3 s else s) s)

/-- One queued row is applied (R258): post-package repair, a remap row, or its granule retired. -/
def applyRow (k : Nat) (fails : List (Nat × Nat)) (s : State) (row : Nat) : State :=
  let r := repairOf s k
  if !fails.contains (k, row) then s
  else if r.remaps < 32 then modRepair k (fun r => { r with remaps := r.remaps + 1 }) s
  else if row / 2 ^ 30 < 44 then modRepair k (fun r => { r with retired := linsert r.retired (row / 2 ^ 30) }) s
  else modRepair k (fun r => { r with reservedOut := linsert r.reservedOut row }) s

/-- The repairs pending on a stack are applied. -/
def applyRepairs (fails : List (Nat × Nat)) (s : State) (k : Nat) : State :=
  let q := (repairOf s k).queue
  let s := q.foldl (fun s row => applyRow k fails s row) s
  modStack k (fun t => { t with state := 2, appliedLast := q.length }) (modRepair k (fun r => { r with queue := [] }) s)

/-- M10: a stack that fails keeps its partition offline; the others are READY with their repairs applied. -/
def doM10 (failed : List Nat) (fails : List (Nat × Nat)) (s : State) : State :=
  if failed.contains 0 || failed.contains 1 then faultPath 3 s
  else
    let s := (failed.filter fun k => k < 8).foldl (fun s k => startOffline (k / 2) s) s
    reach 10 (((List.range 8).filter fun k => !stackOff s k).foldl (applyRepairs fails) s)

/-- The row of an offset in a stack, named by the row's lowest offset with its line and chunk bits 0 (R245). -/
def rowOf (off : Nat) : Nat := off / 65536 * 65536 + off % 16384 / 256 * 256

/-- A row is queued for repair; one that finds the queue full is named in a NOTICE record (R258). -/
def queueRow (k row : Nat) (s : State) : State :=
  let q := (repairOf s k).queue
  if q.contains row then s
  else if q.length < 64 then modRepair k (fun r => { r with queue := r.queue ++ [row] }) s
  else logNotice Notice.repair (k * 2 ^ 36 + row) s

/-- M11: HBM is cleared; uncorrectable lines lie in free space, so their rows are queued and nothing is posted. -/
def doM11 (lines : List (Nat × Nat)) (s : State) : State :=
  let lines := lines.filter fun e => decide (e.1 < 8) && !stackOff s e.1
  let s := lines.foldl (fun s e =>
    queueRow e.1 (rowOf (e.2 * 64)) (modStack e.1 (fun k => { k with uncorrected := satAdd 65535 k.uncorrected 1 }) s)) s
  let s := { s with mem := [], poison := [] }
  reach 11 (modLcs (fun l => { l with poisoned := lines.length }) s)

/-- Has every cluster of a partition been retired? -/
def allRetired (s : State) (p : Nat) : Bool := (List.range 16).all fun i => cluRetired s (16 * p + i)

/-- M12: the plan is loaded; a partition without a cluster stays offline, partition 0 holds (R501); the ports begin
training (R304). -/
def doM12 (s : State) : State :=
  let s := loadMarginPlan s
  if allRetired s 0 then bootHold s
  else
    let s := ((List.range 4).filter fun p => allRetired s p).foldl (fun s p => startOffline p s) s
    reach 12 (((List.range 23).filter fun p => portMay s p && decide ((portOf s p).state = .disabled)).foldl
      (fun s p => portTrain p s) s)

/-- The 256-byte erase record (Table 18-7). -/
def eraseRecord (s : State) (src dst : Nat) : List Byte :=
  let stores := if dst = 0x50 then 15 else 7
  let b := leBytes 4 0x45525331 ++ leBytes 2 1 ++ leBytes 1 src ++ leBytes 1 dst ++ leBytes 8 Config.serial.toNat
    ++ leBytes 8 s.nv.otp.eraseSeq ++ leBytes 4 stores ++ leBytes 4 s.lcs.poisoned ++ leBytes 48 s.svc.digest.toNat
    ++ leBytes 80 0
  b ++ (if dst = 0x40 then padTo 96 0 (Config.sign 1 (s.nv.otp.root.getD 0) b) else leBytes 96 0)

/-- M14: the logbook is mounted, ledger and records are restored, a copy of CLK_MS_FAULT and an erase record that are
due are written (R54, R467). -/
def doM14 (writable : Bool) (s : State) : State :=
  let s := restoreLedger (mountLogbook writable s)
  let s := if s.clk.faultCopyDue then
      let k := s.clk
      let w := k.faultProgress + fieldAt k.faultCount 16 8 + fieldAt k.faultCause 24 4 + fieldAt k.faultMilestone 28 4
      modClk (fun k => { k with faultCopyDue := false }) (logWrite 0x05 true (leBytes 4 w) s)
    else s
  let s := match s.nv.otp.eraseDue with
    | some (src, dst) =>
      let b := eraseRecord s src dst
      modOtp (fun o => { o with eraseDue := none, eraseRec := b, eraseSeq := o.eraseSeq + 1 }) (logWrite 0x03 true b s)
    | none => s
  reach 14 s

/-- M15: the device is ready; the postings of the sequence follow (R46). -/
def doM15 (s : State) : State :=
  let s := modClk (fun k => { k with phase := .ready }) (reach 15 s)
  let s := post 0 Att.chipResetDone (s.clk.resetClass + fieldAt s.clk.attempt 8 2) 0 s
  let s := s.clk.dueRetired.foldl (fun s e => post 0 Att.clusterRetired (e.1 + fieldAt e.2 8 8) 0 s) s
  let s := ((List.range 4).filter fun p => partOff s p).foldl (fun s p =>
    post 0 Att.partitionReset (p + 256 + fieldAt Cls.startup 24 8) 0 s) s
  let s := if s.clk.dueFactory then
      post 0 Att.marginReplan (twoSeq s.nv.planRec + fieldAt 2 32 8 + fieldAt 64 40 8) 0 s else s
  modClk (fun k => { k with dueRetired := [], dueFactory := false }) s

/-- The result of the milestone worked on. A BLANK device rests after M2 (R463). -/
def advance (r : MsResult) (s : State) : State :=
  match r with
  | .otp ok => if msWork s = 1 then doM1 ok s else s
  | .plls ok => if msWork s = 2 then doM2 ok s else s
  | .link l0 => if msWork s = 3 then doM3 l0 s else s
  | .firmware a b => if msWork s = 4 then doM4 a b s else s
  | .identity => if msWork s = 5 then doM5 s else s
  | .config => if msWork s = 6 then reach 6 s else s
  | .crossroads lost => if msWork s = 7 then doM7 lost s else s
  | .srams bad => if msWork s = 8 then doM8 bad s else s
  | .tiles m c => if msWork s = 9 then doM9 m c s else s
  | .stacks f p => if msWork s = 10 then doM10 f p s else s
  | .cleared l => if msWork s = 11 then doM11 l s else s
  | .plan => if msWork s = 12 then doM12 s else s
  | .ports => if msWork s = 13 then reach 13 s else s
  | .services w => if msWork s = 14 then doM14 w s else s
  | .ready => if msWork s = 15 then doM15 s else s

/-- Does a BLANK device rest after M2? -/
def blankRest (s : State) : Bool := s.lcs.loaded && decide (s.lcs.position = 0) && decide (s.clk.milestone = 2)

/-! ## The commands of chapter 02 -/

/-- START_SEQUENCE: once PWR_GOOD, PERST_N and MOD_RESET_N are high (R32). -/
def execStartSequence (s : State) : Host.Outcome State Fault Refusal :=
  .next (
    if decide (s.clk.phase = .waiting) && decide (s.mod.phase = .good) && s.mod.pwrGood && s.mod.perstN && s.mod.modResetN
       && !s.mod.tripped then startSequence s else s)

/-- MILESTONE_ADVANCE -/
def execMilestoneAdvance (r : MsResult) (s : State) : Host.Outcome State Fault Refusal :=
  .next (if decide (s.clk.phase = .running) && !blankRest s && decide (s.clk.milestone < 15) then advance r s else s)

/-- PROGRESS_TICK: the counter wraps at 65,535 (Table 02-5). -/
def execProgressTick (s : State) : Host.Outcome State Fault Refusal :=
  .next (if s.clk.phase = .running then modClk (fun k => { k with progress := (k.progress + 1) % 65536 }) s else s)

/-- Is a miss watched now: in a sequence, not paused, not at a milestone without one (R44, R47, R49, R52)? -/
def missWatched (s : State) : Bool :=
  !s.clk.paused &&
    ((decide (s.clk.phase = .running) && !blankRest s && decide (msWork s ≠ 3) && decide (msWork s ≠ 13))
      || (decide (s.clk.phase = .ready) && testUnlocked s))

/-- STALL_WINDOW_EXPIRE -/
def execStallWindowExpire (s : State) : Host.Outcome State Fault Refusal := .next (if missWatched s then faultPath 1 s else s)

/-- MILESTONE_LIMIT_EXPIRE: M3 and M13 are taken as reached (R49). -/
def execMilestoneLimitExpire (s : State) : Host.Outcome State Fault Refusal :=
  .next (
    if missWatched s then faultPath 2 s
    else if s.clk.paused || decide (s.clk.phase ≠ .running) || blankRest s then s
    else if msWork s = 3 then doM3 false s
    else if msWork s = 13 then reach 13 s
    else s)

/-- FAULT_PATH_HOLD_END: the next attempt of the same kind. -/
def execFaultPathHoldEnd (s : State) : Host.Outcome State Fault Refusal :=
  .next (
    if s.clk.phase = .faultHold then startSequence (modClk (fun k => { k with attempt := k.attempt + 1 }) s) else s)

/-- HOST_LINK_IN_L0: not while CLK_PCIE is held in reset (R50, R463). -/
def execHostLinkInL0 (s : State) : Host.Outcome State Fault Refusal :=
  .next (
    if decide (s.mod.phase = .good) && s.mod.perstN && !(decide (s.clk.phase = .bootHold) && decide (s.clk.milestone < 6))
       && decide (s.clk.phase ≠ .faultHold) && decide (1 ≤ s.clk.milestone) && !blankRest s then modClk (fun k => { k with inL0 := true }) s
    else s)

end Sys2Proof.Machine
end

