-- ==== Sys2Proof/Machine/Recovery.lean ====
section
/-!
DEFINITION. Sys2Proof/Machine/Recovery.lean: hardware faults, the ends of resets, escalation and reset commands
(chapter 19).
-/
namespace Sys2Proof.Machine

/-- Does the device run, past M15 and not halted, so that a fault acts by its class (R471)? -/
def inService (s : State) : Bool := decide (s.clk.phase = .ready) && decide (s.flt.haltCause = 0)

/-- PARTITION_HW_ERROR (R471) -/
def execPartitionHwError (part : Nat) (s : State) : Host.Outcome State Fault Refusal :=
  .next (if inService s && decide (part < 4) && !partOff s part then partitionFault part Cls.partitionHw false 0 0 s else s)

/-- CHIP_HW_ERROR (R471) -/
def execChipHwError (s : State) : Host.Outcome State Fault Refusal :=
  .next (if inService s then chipReset Cls.chipHw false true false 0 0 s else s)

/-! ## The ends of resets (R479, R480) -/

/-- FLT_RESET_CMD's reset has ended. -/
def resEnds (r : Recovery) (s : State) : State :=
  modFlt (fun f => { f with resBusy := if f.resBusy = some r then none else f.resBusy }) s

/-- What the tests of a unit's reset find: failing tiles and a failing vector core are masked, past the limit the cluster
retires; another unit that fails stays masked. -/
def unitTested (u : Nat) (t : UnitTest) (s : State) : State :=
  let i := unitIndex u
  if unitKind u = 0 then
    let s := modEng i (fun e => { e with mask := Nat.lor e.mask (t.tiles % 2 ^ 64) }) s
    if 4 < popCount (engAt s i).mask 64 then retireCluster i 2 0 s else s
  else if !t.dead then s
  else if unitKind u = 1 then
    let c := i / 160
    let s := modVclu c (fun g => { g with mask := setBit g.mask (i % 160) }) s
    if 16 < popCount (vcluAt s c).mask 160 then retireCluster c 3 0 s else s
  else modFlt (fun f => { f with masked := linsert f.masked u }) s

/-- ENGINE_RESET_COMPLETE -/
def execEngineResetComplete (unit : Nat) (t : UnitTest) (s : State) : Host.Outcome State Fault Refusal :=
  .next (
    if unitInReset s unit then
      let s := modFlt (fun f => { f with engines := f.engines.filter fun e => e.1 ≠ unit }) s
      resEnds (.engine unit) (unitTested unit t s)
    else s)

/-- PARTITION_RESET_COMPLETE: back in service with its ports training, or offline until the next chip reset (R481). -/
def execPartitionResetComplete (part : Nat) (ok : Bool) (s : State) : Host.Outcome State Fault Refusal :=
  .next (match s.flt.parts.find? fun (e : Nat × Nat × List Nat) => e.1 = part with
  | none => s
  | some (_, cls, fns) =>
    let s := modFlt (fun f => { f with parts := f.parts.filter fun e => e.1 ≠ part }) s
    let s :=
      if ok then
        ((List.range 23).filter fun p => decide (portPart p = part) && portMay s p).foldl (fun s p => portTrain p s)
          (partStacks part 2 s)
      else alertPost 0x10 (startOffline part s)
    let detail := part + bitAt (!ok) 8 + fieldAt cls 24 8
    resEnds (.partition part) (postAll fns Att.partitionReset detail 0 s))

/-! ## Escalation (R474, R475) -/

/-- Units that still hold a recovery's work enter an engine reset; a block that is not a unit resets its partition. -/
def escalateHeld (cls ctx : Nat) (units parts : List Nat) (s : State) : State :=
  let s := (units.filter unitLegal).foldl (fun s u =>
    if unitInReset s u then partitionFault (unitPart u) cls true u ctx s else engineReset u cls true ctx s) s
  (parts.filter fun p => p < 4).foldl (fun s p => partitionFault p cls true 0 ctx s) s

/-- A running recovery goes up one level. -/
def escalate (cls : Nat) (r : Recovery) (units parts : List Nat) (s : State) : State :=
  match r with
  | .context c =>
    (match tget s.ctxs c with
     | some x =>
       if x.state = .resetting ∨ x.state = .aborting then
         let s := mapDescs (fun d => if x.waiters.contains (d.qp, d.sub) then { d with escalated := true } else d) s
         escalateHeld cls (mkHandle Hk.ctx c) units parts s
       else s
     | none => s)
  | .object h =>
    if isAborting s h then
      let ds := destroyers s h
      let s := mapDescs (fun d => if ds.any fun (e : Desc) => e.qp = d.qp && e.sub = d.sub then { d with escalated := true } else d) s
      escalateHeld cls 0 units parts s
    else s
  | .engine u => if unitInReset s u then partitionFault (unitPart u) cls true u 0 s else s
  | .partition p => if partInReset s p then chipReset cls false true true p 0 s else s

/-- BOUND_MISS: the operands name what still holds the recovery's work. -/
def execBoundMiss (r : Recovery) (units parts : List Nat) (s : State) : Host.Outcome State Fault Refusal :=
  .next (if inService s then escalate Cls.boundMiss r units parts s else s)

/-- PROGRESS_MISS: not while stall windows are paused (R47, R493). -/
def execProgressMiss (r : Recovery) (units parts : List Nat) (s : State) : Host.Outcome State Fault Refusal :=
  .next (if inService s && !s.clk.paused then escalate Cls.progressMiss r units parts s else s)

/-! ## FLT_RESET_CMD (R486) -/

/-- The status of an engine reset command. -/
def engineCmd (s : State) (u : Nat) : Nat :=
  if !unitLegal u then St.refusedHandle
  else if partOff s (unitPart u) then St.refusedHandle
  else if unitInReset s u || partInReset s (unitPart u) then St.retryLater
  else St.done

/-- The status of a partition reset command. -/
def partCmd (s : State) (p : Nat) : Nat :=
  if p = 0 ∨ partOff s p then St.refusedState
  else if partInReset s p then St.retryLater
  else St.done

/-- The status of a chip reset command: retried while a start-up sequence, and so a chip reset, runs. -/
def chipCmd (s : State) : Nat :=
  if s.clk.phase = .running ∨ s.clk.phase = .faultHold ∨ s.clk.phase = .waiting then St.retryLater else St.done

/-- A reset by command, of a status already decided; class COMMAND. -/
def commandReset (level u : Nat) (s : State) : State :=
  if level = 1 then engineReset u Cls.command false 0 s
  else if level = 2 then partitionReset u Cls.command false 0 0 s
  else chipReset Cls.command false true false 0 0 s

/-- ENGINE_RESET_COMMAND: FLT_RESET_CMD with LEVEL 1 and GO. An illegal UNIT leaves the field as it was (R11). -/
def execEngineResetCommand (src : Src) (unit : Nat) (s : State) : Host.Outcome State Fault Refusal :=
  .next (
    if !srcOpen s src || decide (s.flt.haltCause ≠ 0) then s
    else
      let u := unit % 2 ^ 20
      let st := engineCmd s u
      let s := modFlt (fun f => { f with cmdLevel := 1, cmdUnit := if unitLegal u then u else f.cmdUnit, resStatus := st }) s
      if st = St.done then commandReset 1 u (modFlt (fun f => { f with resBusy := some (.engine u) }) s) else s)

/-- PARTITION_RESET_COMMAND: FLT_RESET_CMD with LEVEL 2 and GO. -/
def execPartitionResetCommand (src : Src) (unit : Nat) (s : State) : Host.Outcome State Fault Refusal :=
  .next (
    if !srcOpen s src || decide (s.flt.haltCause ≠ 0) then s
    else
      let p := unit % 4
      let st := partCmd s p
      let s := modFlt (fun f => { f with cmdLevel := 2, cmdUnit := unit % 2 ^ 20, resStatus := st }) s
      if st = St.done then commandReset 2 p (modFlt (fun f => { f with resBusy := some (.partition p) }) s) else s)

/-- CHIP_RESET_COMMAND: FLT_RESET_CMD with LEVEL 3 and GO, taken in the halt too (R492). -/
def execChipResetCommand (src : Src) (s : State) : Host.Outcome State Fault Refusal :=
  .next (
    if !srcOpen s src then s
    else
      let st := chipCmd s
      let s := modFlt (fun f => { f with cmdLevel := 3, resStatus := st }) s
      if st = St.done then commandReset 3 0 s else s)

/-- A session aborts (R453): every key goes, and a chip reset follows. -/
def sessionAbort (cls : Nat) (s : State) : State :=
  if s.sec.session = .none_ then s else chipReset cls false true false 0 0 s

end Sys2Proof.Machine
end

