-- ==== Sys2Proof/Machine/Lifecycle.lean ====
section
/-!
DEFINITION. Sys2Proof/Machine/Lifecycle.lean: life-cycle transitions, tokens and JTAG (chapter 18), with the responses
of the management port (R525, R526).
-/
namespace Sys2Proof.Machine

/-! ## Responses of the management port (R525, R526) -/

/-- Change a face. -/
def modFace (uart : Bool) (f : MgtFace → MgtFace) (s : State) : State :=
  modMgt (fun g => if uart then { g with uart := f g.uart } else { g with i3c := f g.i3c }) s

/-- A face. -/
def faceOf (s : State) (uart : Bool) : MgtFace := if uart then s.mgt.uart else s.mgt.i3c

/-- A response: on I3C it waits to be read, on the UART it is sent. -/
def reply (uart : Bool) (op tag status reason : Nat) (payload : List Byte) (s : State) : State :=
  let head := leBytes 1 op ++ leBytes 1 tag ++ leBytes 2 payload.length ++ leBytes 1 status ++ leBytes 1 reason
    ++ leBytes 1 (alertUrgent s) ++ leBytes 1 0
  let b := frameBytes head payload
  if uart then emit (.uart ([0xA5, 0xC3] ++ b)) (modFace true (fun f => { f with req := none }) s)
  else modFace false (fun f => { f with req := none, resp := some b }) s

/-! ## Transitions (R457, R460, R461) -/

/-- Is a life-cycle code one of Table 18-1? -/
def lcLegal (c : Nat) : Bool :=
  [0x00, 0x20, 0x30, 0x40, 0x50, 0x60].contains c || (decide (0x11 ≤ c) && decide (c ≤ 0x17))

/-- The position a target leads to from a position, and the token slot it needs (Table 18-3): 11 is none. -/
def lcDest (p target : Nat) : Option (Nat × Nat) :=
  if target = 0x60 then (if p = 31 then none else some (31, if p = 0 then 11 else 10))
  else if p = 0 then (if target = 0x11 then some (1, 0) else none)
  else if p ≤ 14 then
    (if target = 0x30 then some (15, 7)
     else if p % 2 = 1 then (if target = 0x20 then some (p + 1, (p - 1) / 2) else none)
     else if p ≤ 12 ∧ target = 0x11 + p / 2 then some (p + 1, p / 2) else none)
  else if p = 30 ∨ p = 31 then none
  else if p % 3 = 0 then
    (if target = 0x40 then some (p + 1, 8) else if target = 0x50 then some (p + 2, 9) else none)
  else if p % 3 = 1 then (if target = 0x50 then some (p + 1, 9) else none)
  else if target = 0x30 ∧ p ≤ 26 then some (p + 1, 7) else none

/-- Does a token open a slot (R460)? -/
def tokenOk (o : OtpState) (slot token : Nat) : Bool :=
  decide (slot = 11) || (match tget o.tokens slot with
    | some (.digest d) => decide (Config.sha384 (leBytes 32 token) = d)
    | _ => false)

/-- The reason a command is refused (Table 18-11), or the position it leads to. -/
def lcDecide (s : State) (c : LcsCommand) : Nat ⊕ Nat :=
  if 16 ≤ s.lcs.fails then .inl 3
  else match lcDest (lcPosition s) c.target with
    | none => .inl 1
    | some (q, slot) => if tokenOk s.nv.otp slot c.token then .inr q else .inl 2

/-- The completion status of a refusal reason. -/
def lcStatus (reason : Nat) : Nat :=
  if reason = 1 then St.refusedState else if reason = 5 then St.retryLater else St.notPermitted

/-- The slots open (R460). -/
def tokenSlots (o : OtpState) : Nat :=
  ((List.range 11).map fun i => bitAt (match tget o.tokens i with
    | some (.digest _) => true
    | _ => false) i).sum

/-- LCS_STATE (Table 18-8): 0 until M1 has loaded it. -/
def lcsWord (s : State) : Nat :=
  if s.lcs.loaded then
    tokenSlots s.nv.otp + fieldAt s.lcs.fails 11 5 + fieldAt s.lcs.position 16 5 + fieldAt (lcCode s.lcs.position) 24 8
  else 0

/-- A command ends: BUSY clears, the token is cleared; a refusal leaves STATUS and REASON, or answers the management port. -/
def lcEnds (c : LcsCommand) (reason : Nat) (s : State) : State :=
  let s := modLcs (fun l => { l with busy := none, token := if c.mgt then l.token else [] }) s
  let s := if reason = 0 then s else modLcs (fun l => { l with fails := satAdd 16 l.fails 1 }) s
  if c.mgt then
    match s.mgt.running with
    | some uart =>
      let tag := match (faceOf s uart).req with
        | some r => r.tag
        | none => 0
      reply uart 0x40 tag (if reason = 0 then St.done else lcStatus reason) reason (leBytes 4 (lcsWord s))
        (modMgt (fun g => { g with running := none }) s)
    | none => s
  else if reason = 0 then s
  else modLcs (fun l => { l with status := lcStatus reason, reason := reason }) s

/-- Every slot still blank, and slots 0 to 6, are programmed all ones at the entry to PRODUCTION. -/
def closeTokens (o : OtpState) : OtpState :=
  { o with tokens := (List.range 11).foldl (fun t i => if i < 7 ∨ !thas t i then tput t i TokSlot.ones else t) o.tokens }

/-- The stores of the erase set that outlive a chip reset: the tray secret; for RMA and SCRAP the root secret; for SCRAP the
trim words and every token digest (Table 18-4). -/
def lcErase (q : Nat) (o : OtpState) : OtpState :=
  let o := if lcCode q = 0x30 ∨ lcCode q = 0x40 ∨ lcCode q = 0x50 ∨ q = 31 then { o with tray := none } else o
  let o := if lcCode q = 0x50 ∨ q = 31 then { o with root := none } else o
  if q = 31 then { o with trimsGone := true, tokens := (List.range 11).map fun i => (i, TokSlot.ones) } else o

/-- The position is programmed in all three copies (R461); an entry to PRODUCTION closes token slots and takes the root
secret drawn for it (R464). -/
def lcProgram (q old root : Nat) (o : OtpState) : OtpState :=
  let w := 2 ^ q - 1
  let o := { o with a := Nat.lor o.a w, b := Nat.lor o.b w, c := Nat.lor o.c w }
  let o := if lcCode q = 0x30 then closeTokens { o with root := some root, zeroised := false, chainC := false } else o
  if lcCode q = 0x40 ∨ lcCode q = 0x50 then { o with eraseDue := some (old, lcCode q) } else o

/-- A command that passes (Table 18-6): stores erased, the root secret drawn, OTP programmed, a LIFECYCLE record committed,
then a chip reset with a cold sequence. -/
def lcRun (c : LcsCommand) (q : Nat) (eraseOk : Bool) (s : State) : State :=
  let old := lcNow s
  let s := modOtp (lcErase q) s
  if !eraseOk then chipResetNow Cls.command false true (lcEnds c 4 s)
  else
    let root := freeNow s
    let s := modOtp (lcProgram q old root) (if lcCode q = 0x30 then tookFree s else s)
    let s := logWrite 0x02 true (leBytes 1 old ++ leBytes 1 (lcCode q)) (lcEnds c 0 s)
    chipResetNow Cls.command true true s

/-- A command arrives (R465): false where another is in progress. -/
def lcSubmit (c : LcsCommand) (s : State) : State := modLcs (fun l => { l with busy := some c }) s

/-- TRANSITION_COMMAND: LCS_CMD with GO. -/
def execTransitionCommand (src : Src) (target : Nat) (s : State) : Host.Outcome State Fault Refusal :=
  .next (
    if !srcOpen s src || decide (s.flt.haltCause ≠ 0) then s
    else
      let s := if lcLegal target then modLcs (fun l => { l with target := target }) s else s
      if s.lcs.busy.isSome then modLcs (fun l => { l with status := St.retryLater, reason := 5 }) s
      else
        let token := ((List.range 8).map fun w => tgetD s.lcs.token w 0 * 2 ^ (32 * w)).sum
        lcSubmit { mgt := false, target := s.lcs.target, token := token } s)

/-- TRANSITION_DECISION: 10 ms after arrival; the operand is the read-back of the erasure. -/
def execTransitionDecision (eraseOk : Bool) (s : State) : Host.Outcome State Fault Refusal :=
  .next (match s.lcs.busy with
  | none => s
  | some c =>
    match lcDecide s c with
    | .inl why => lcEnds c why s
    | .inr q => lcRun c q eraseOk s)

/-- TOKEN_DIGEST_PROGRAM: in BLANK and TEST_UNLOCKED_n, a blank slot once (R460). All ones closes it. -/
def execTokenDigestProgram (slot : Nat) (d : BitVec 384) (s : State) : Host.Outcome State Fault Refusal :=
  .next (
    if (lcNow s = 0 || testUnlocked s) && decide (slot < 11) && !thas s.nv.otp.tokens slot && decide (s.mod.phase = .good) then
      modOtp (fun o => { o with tokens := tput o.tokens slot (if d = BitVec.allOnes 384 then .ones else .digest d) }) s
    else s)

/-! ## JTAG EXTEST (R452, R463) -/

/-- Does the life-cycle state allow EXTEST, with no erase record due (R463, R467)? -/
def extestAllowed (s : State) : Bool :=
  let c := lcNow s
  (decide (c = 0x00) || testUnlocked s || decide (c = 0x40) || decide (c = 0x50)) && s.nv.otp.eraseDue.isNone

/-- JTAG_EXTEST: in a session it aborts the session; else it is entered where the state allows it. -/
def execJtagExtest (s : State) : Host.Outcome State Fault Refusal :=
  .next (
    if s.mod.phase ≠ .good then s
    else if s.sec.session ≠ .none_ then sessionAbort Cls.command s
    else if extestAllowed s then modLcs (fun l => { l with extest := true }) s
    else s)

/-- JTAG_EXTEST_EXIT: a chip reset follows. -/
def execJtagExtestExit (s : State) : Host.Outcome State Fault Refusal :=
  .next (if s.lcs.extest then chipResetNow Cls.command false true (modLcs (fun l => { l with extest := false }) s) else s)

end Sys2Proof.Machine
end

