-- ==== Sys2Proof/Machine/Session.lean ====
section
/-!
DEFINITION. Sys2Proof/Machine/Session.lean: the commands of confidential sessions, keys, attestation and the link
handshake (chapter 17), with the layout switch they contain (R278, R280).
-/
namespace Sys2Proof.Machine

/-! ## Key derivation (R440, R442, R449) -/

/-- The bytes of an ASCII string. -/
def ascii (t : String) : List Byte := t.toList.map fun c => BitVec.ofNat 8 c.toNat

/-- HMAC-SHA-384 as bytes. -/
def hmacBytes (key msg : List Byte) : List Byte := leBytes 48 (Config.hmac384 key msg).toNat

/-- The blocks T(1) to T(n) of HKDF-Expand. -/
def hkdfBlocks (prk info : List Byte) : Nat → List Byte × List Byte
  | 0 => ([], [])
  | n + 1 =>
    let r := hkdfBlocks prk info n
    let t := hmacBytes prk (r.2 ++ info ++ leBytes 1 (n + 1))
    (r.1 ++ t, t)

/-- HKDF-SHA-384 of a keying material, a salt and an info, to L bytes. -/
def hkdf (ikm salt info : List Byte) (l : Nat) : List Byte := ((hkdfBlocks (hmacBytes salt ikm) info ((l + 47) / 48)).1).take l

/-- SESSION_ID as its 32 bytes. -/
def sessionSalt (s : State) : List Byte := leBytes 32 (sessionIdOf s)

/-! ## The public-key unit (R446) -/

/-- Is there room in a lane or in the queue? -/
def pkRoom (s : State) (n : Nat) : Bool := decide (s.sec.pk.length + n ≤ 1028)

/-- Enter a request. -/
def pkAsk (u : PkUse) (s : State) : State := modSec (fun k => { k with pk := k.pk ++ [u] }) s

/-- Enter a descriptor's request, or refuse the descriptor with RETRY_LATER. -/
def pkDesc (d : Desc) (bytes : List Byte) (s : State) : State :=
  if pkRoom s 1 then pkAsk (.desc d.qp d.sub bytes) (runDesc d.qp d.sub 0 s) else endD d (resOf St.retryLater) s

/-! ## SESSION_OPEN (R435, R436, R438) -/

/-- Granules 38 to 43 of a stack: is none retired or held by a buddy region (R278)? -/
def topFree (s : State) (k : Nat) : Bool :=
  (List.range 6).all fun i => !(repairOf s k).retired.contains (38 + i) && !s.ckp.region.contains (44 * k + 38 + i)

/-- The preconditions of R435 but for the queue and CONTEXT; `bound`: the descriptor arrived on the bound selective IDE
stream. -/
def mayOpen (s : State) (bound : Bool) : Bool :=
  s.nv.otp.cx && decide (lcNow s = 0x30) && decide (s.hif.tdi = .run) && bound && !s.hif.vfEnable
    && s.hif.vfs.all (fun (e : Nat × VfEntry) => decide (e.2.state ≠ .teardown)) && s.ctxs.isEmpty
    && decide (s.sec.session = .none_) && (List.range 8).all (fun k => stackOff s k || topFree s k) && s.sec.entropyOk

/-- Are the bytes of a range 0? -/
def zeros (b : List Byte) (lo hi : Nat) : Bool := ((b.drop lo).take (hi - lo)).all fun x => x == 0

/-- The first failing field of a configuration: its offset. -/
def configFail (b : List Byte) (len : Nat) : Option Nat :=
  let nr := bin b 6 2
  let nc := bin b 8 2
  let ent := (List.range nc).map fun i => (zeros b (256 + 64 * i + 48) (256 + 64 * i + 64), 256 + 64 * i + 48)
  let rules := (List.range nr).flatMap fun i =>
    let o := 256 + 64 * (nc + i)
    [ (decide (bin b (o + 3) 1 ≤ 2), o + 3), (zeros b (o + 7) (o + 8), o + 7), (zeros b (o + 56) (o + 64), o + 56) ]
  let chk : List (Bool × Nat) :=
    [ (decide (bin b 0 4 = 0x53455331), 0), (decide (bin b 4 2 = 1), 4), (decide (1 ≤ nr) && decide (nr ≤ 4096), 6),
      (decide (nc ≤ 512), 8), (decide (len = 256 + 64 * (nc + nr)), 6), (zeros b 11 16, 11), (zeros b 177 256, 177) ] ++ ent ++ rules
  (chk.find? fun e => !e.1).map Prod.snd

/-- The configuration as the device keeps it. -/
def configOf (b : List Byte) : SessConfig :=
  let nr := bin b 6 2
  let nc := bin b 8 2
  { sessionId := bin b 16 32, seed := bin b 48 32, allowPlain := bitOf (bin b 10 1) 0, owner := bin b 80 97
    contribs := (List.range nc).map fun i => bin b (256 + 64 * i) 48
    rules := (List.range nr).map fun i =>
      let o := 256 + 64 * (nc + i)
      { node := bin b o 3, kind := bin b (o + 3) 1, mask := bin b (o + 4) 3, digest := bin b (o + 8) 48 }
    digest := Config.sha384 b, contribDigest := Config.sha384 ((b.drop 256).take (64 * nc)) }

/-- SESSION_OPEN: what the bound IDE stream gives for the configuration is `cfg`; none is a failed read. -/
def execSessionOpen (qp sub : Nat) (bound : Bool) (cfg : Option (List Byte)) (s : State) : Host.Outcome State Fault Refusal :=
  .next (onStarted 0x60 qp sub (fun d s =>
    if !mayOpen s bound then uniformRefuse d 7 s
    else
      match cfg with
      | none => endD d (resOf St.aborted) s
      | some c =>
        let len := dfld d 32 4
        let b := padTo len 0 c
        match (if len < 320 ∨ 295168 < len then some 6 else configFail b len) with
        | some o => endD d { resOf St.refusedState with value := o } s
        | none =>
          if pkRoom s 2 then
            let s := modSec (fun k => { k with session := .opening, config := some (configOf b), sessDesc := some (qp, sub) }) s
            pkAsk (.desc qp sub []) (pkAsk (.desc qp sub []) (runDesc qp sub 0 s))
          else endD d (resOf St.retryLater) s) s)

/-- The session keys are generated, and the switch to protected layout begins (R438, Table 10-8): key ID 1 and the epochs
are drawn. -/
def openKeys (s : State) : State :=
  let v := fun i => Config.freeValue (s.draws + i)
  let key : MemKey := { k1 := v 2 % 2 ^ 256, k2 := v 3 % 2 ^ 256, km := v 4 % 2 ^ 256 }
  let regions := ((List.range 8).flatMap fun k => (List.range 38).map fun g => 44 * k + g) ++ (List.range 8).map fun k => 1000 + k
  let epochs : Tbl Nat := (numbered regions).map fun (e : Nat × Nat) => (e.2, v (5 + e.1) % 2 ^ 32)
  let s := modSec (fun k => { k with kaKey := some (v 0), attKey := some (v 1) }) s
  let s := modIme (fun m => { m with layout := .switching, keys := tput m.keys 1 key, epochs := epochs }) s
  { s with draws := s.draws + 5 + regions.length }

/-- Every granule of the pool is dirty (R278, R280). -/
def allDirty (s : State) : State := modHif (fun h => { h with dirty := [(0, poolGib s)] }) s

/-- The chains of R451 start anew. -/
def chainsStart (s : State) : State :=
  modSec (fun k => { k with graphChain := 0, nGraphs := 0, weightChain := 0, nWeights := 0 }) s

/-- Bytes 0 to 7 of a digest. -/
def digestHead (d : BitVec 384) : Nat := d.toNat % 2 ^ 64

/-- LAYOUT_SWITCH_DONE (R278, R438): LAYOUT is PROTECTED, the session is OPEN, every port enters SECURE_WAIT, and
SESSION_OPEN completes. -/
def execLayoutSwitchDone (s : State) : Host.Outcome State Fault Refusal :=
  .next (match s.sec.session, s.ime.layout with
  | .opening, .switching =>
    let s := modIme (fun m => { m with layout := .protected_ }) s
    let s := allDirty (chainsStart (modSec (fun k => { k with session := .open_, reports := 0, slog := [] }) s))
    let s := portsSecure s
    (match s.sec.sessDesc, s.sec.config with
     | some (q, u), some c =>
       endDesc q u { rDone with value := digestHead c.digest } (modSec (fun k => { k with sessDesc := none }) s)
     | _, _ => s)
  | _, _ => s)

/-! ## SESSION_CLOSE (R453, R280) -/

/-- A context is destroyed by forced abort, at once; those that waited for its destruction complete. -/
def forceDestroy (s : State) (c : Nat) : State :=
  match tget s.ctxs c with
  | none => s
  | some x =>
    let s := if x.state = .aborting then s else beginDestroy c s
    let ds := x.waiters.filterMap fun (w : Nat × Nat) => findDesc s w.1 w.2
    ds.foldl (fun s d => endD d (rRecovered d) s) (freeCtx c s)

/-- SESSION_CLOSE -/
def execSessionClose (qp sub : Nat) (s : State) : Host.Outcome State Fault Refusal :=
  .next (onStarted 0x61 qp sub (fun d s =>
    if s.sec.session ≠ .open_ then endD d (refuse St.refusedState 0) s
    else
      let s := modSec (fun k => { k with session := .closing }) s
      let s := (tkeys s.ctxs).foldl forceDestroy s
      let s := portsUnsecure (endSession s)
      let s := allDirty (modIme (fun m => { m with layout := .plain, epochs := [] }) s)
      endD d rDone s) s)

/-! ## The attestation report (R450) -/

/-- KEY_INDEX of the running image. -/
def runningKeyIndex (s : State) : Nat := fwKeyIndex (if s.svc.active then s.nv.fw.b else s.nv.fw.a)

/-- The report of Table 17-12 without its signature. -/
def reportBody (s : State) (nonce : List Byte) (seq : Nat) : List Byte :=
  let conf := confidential s
  let cfg := if conf then s.sec.config else none
  let dig := fun (f : SessConfig → BitVec 384) => leBytes 48 ((cfg.map fun c => (f c).toNat).getD 0)
  let ka := if conf then padTo 97 0 (Config.ecPublic (s.sec.kaKey.getD 0)) else leBytes 97 0
  leBytes 4 0x41545231 ++ leBytes 2 1 ++ leBytes 1 (lcNow s)
    ++ leBytes 1 (bitAt conf 0 + bitAt (decide (0 < s.nv.otp.tamper)) 1 + bitAt s.svc.active 2)
    ++ leBytes 4 (Config.featureWord s.nv.otp.cx) ++ leBytes 2 s.svc.version ++ leBytes 1 (runningKeyIndex s)
    ++ leBytes 1 s.nv.otp.tamper ++ leBytes 8 Config.serial.toNat ++ leBytes 3 (nodeId s) ++ leBytes 1 0
    ++ leBytes 4 s.sec.nGraphs ++ leBytes 32 ((cfg.map SessConfig.sessionId).getD 0) ++ padTo 32 0 nonce
    ++ leBytes 48 s.svc.digest.toNat ++ dig SessConfig.digest ++ dig SessConfig.contribDigest ++ leBytes 48 s.sec.graphChain
    ++ leBytes 48 s.sec.weightChain ++ leBytes 4 s.sec.nWeights ++ leBytes 4 0 ++ leBytes 8 seq ++ leBytes 8 (timeBase s)
    ++ ka ++ leBytes 23 0

/-- The report with its signature. -/
def reportBytes17 (s : State) (nonce : List Byte) (seq : Nat) : List Byte :=
  let b := reportBody s nonce seq
  b ++ padTo 96 0 (signAtt s b)

/-- SESSION_REPORT: the nonce is read, and a public-key slot is asked for. -/
def execSessionReport (qp sub : Nat) (s : State) : Host.Outcome State Fault Refusal :=
  .next (onStarted 0x62 qp sub (fun d s =>
    let out := dfld d 24 4
    let off := dfld d 32 8
    guarded d [needH s d Hk.mem 24, chk (off % 64 = 0) St.refusedHandle 32, needWritable s out off 576 32] (fun s =>
      if poisonedIn s (hSlot out) off 32 then endD d (resOf St.poisoned) s
      else pkDesc d (readMem s (.desc qp sub) (hSlot out) off 32) s) s) s)

/-- Does a range of an object still take a write? -/
def stillWritable (s : State) (slot off n : Nat) : Bool :=
  match tget s.mems slot with
  | some m => !m.aborting && decide (off + n ≤ m.size) && writableRange m off n
  | none => false

/-- The end of a SESSION_REPORT's slot. -/
def reportEnds (d : Desc) (nonce : List Byte) (s : State) : State :=
  let seq := s.sec.reports
  let slot := hSlot (dfld d 24 4)
  if !stillWritable s slot (dfld d 32 8) 576 then endD d (refuse St.refusedState 24) s
  else
    let s := storeMem (.desc d.qp d.sub) slot (dfld d 32 8) (reportBytes17 s nonce (seq + 1)) s
    endD d { rDone with value := seq + 1 } (modSec (fun k => { k with reports := seq + 1 }) s)

/-! ## Key slots (R441 to R444) -/

/-- Create a key slot and end the descriptor: the handle, and an index. -/
def makeKey (d : Desc) (c kind key index : Nat) (s : State) : State :=
  match slotChoose s.cmd.keySlots (kindSlots Hk.key) with
  | none => endD d (resOf St.refusedState) s
  | some n =>
    let x : KeySlot := { ctx := c, kind := kind, key := key, contrib := index, aborting := false }
    let s := modCmd (fun k => { k with keySlots := slotTake k.keySlots (kindSlots Hk.key) }) s
    let s := modSec (fun k => { k with
      keys := tput k.keys n x, contribMap := if kind = 0 then tput k.contribMap index n else k.contribMap }) s
    endD d { rHandle (mkHandle Hk.key n) with aux := index } s

/-- KEY_IMPORT: plaintext in shared mode; in confidential mode a blob, for which a public-key slot is asked. -/
def execKeyImport (qp sub : Nat) (s : State) : Host.Outcome State Fault Refusal :=
  .next (onStarted 0x63 qp sub (fun d s =>
    match descCtx s d with
    | none => s
    | some c =>
      let src := dfld d 24 4
      let off := dfld d 32 8
      let form := dfld d 40 1
      let n := if form = 1 then 512 else 32
      guarded d [needH s d Hk.mem 24, needRange s src off n 32] (fun s =>
        if confidential s && decide (form ≠ 1) then uniformRefuse d 6 s
        else if !confidential s && decide (form ≠ 0) then endD d (refuse St.refusedState 40) s
        else if poisonedIn s (hSlot src) off n then endD d (resOf St.poisoned) s
        else
          let b := readMem s (.desc qp sub) (hSlot src) off n
          if form = 1 then pkDesc d b s
          else guarded d [quotaFail s d.fn Hk.key] (makeKey d c 2 (ofLe b) 0) s) s) s)

/-- The reason a blob fails its checks (R442), or its key. -/
def blobKey (s : State) (b : List Byte) : Nat ⊕ Nat :=
  let kind := bin b 6 1
  let index := bin b 4 2
  let signer := (b.drop 192).take 97
  match s.sec.config with
  | none => .inl 3
  | some c =>
    let signerOk := if kind = 0 then decide (c.contribs[index]? = some (Config.sha384 signer).toNat) else decide (bin b 192 97 = c.owner)
    let kek := hkdf (Config.ecdh (s.sec.kaKey.getD 0) ((b.drop 40).take 97)) (sessionSalt s)
      (ascii "KLS-WRAP" ++ leBytes 1 kind ++ leBytes 2 index) 32
    if bin b 0 4 ≠ 0x4B424C31 ∨ 1 < kind then .inl 2
    else if bin b 8 32 ≠ c.sessionId then .inl 3
    else if !signerOk || !Config.verify signer (b.take 416) ((b.drop 416).take 96) then .inl 1
    else match Config.keyUnwrap kek ((b.drop 144).take 40) with
      | some k => .inr k.toNat
      | none => .inl 2

/-- The end of a KEY_IMPORT's slot. -/
def importEnds (d : Desc) (b : List Byte) (s : State) : State :=
  match descCtx s d with
  | none => s
  | some c =>
    match blobKey s b with
    | .inl why => uniformRefuse d why s
    | .inr key =>
      let index := bin b 4 2
      if bin b 6 1 = 0 ∧ thas s.sec.contribMap index then endD d (resOf St.refusedState) s
      else if (quotaFail s d.fn Hk.key).isSome then endD d (resOf St.refusedState) s
      else makeKey d c (bin b 6 1) key index s

/-- Checkpoints and restores that use a key slot fail (R444): OBJECT_GONE. -/
def keyGone (slot : Nat) (s : State) : State :=
  (tkeys s.ckp.ctxs).foldl (fun s c =>
    let k := ckpOf s c
    let s := if ckpReading k && (k.plan.any fun (p : CkpPlan) => decide (p.key = some slot)) then ckpFail c 4 s else s
    match restoreLive s c with
    | some (r, _) => if r.plan.key = some slot then restoreAborts c (ckpPost c r.step 4 s) else s
    | none => s) s

/-- KEY_ERASE: the slot's destruction begins (R112, R444). -/
def execKeyErase (qp sub : Nat) (s : State) : Host.Outcome State Fault Refusal :=
  .next (onStarted 0x64 qp sub (fun d s =>
    let h := dfld d 24 4
    match needH s d Hk.key 24 with
    | some r => if confidential s then uniformRefuse d 5 s else endD d r s
    | none =>
      let s := modSec (fun k => { k with keys := tmod k.keys (hSlot h) fun (x : KeySlot) => { x with aborting := true } }) s
      runDesc qp sub h (keyGone (hSlot h) s)) s)

/-! ## Memory keys (Table 17-14) -/

/-- MEMKEY_LOAD -/
def execMemkeyLoad (qp sub : Nat) (s : State) : Host.Outcome State Fault Refusal :=
  .next (onStarted 0x65 qp sub (fun d s =>
    if !confidential s then endD d (refuse St.refusedState 0) s
    else if !s.sec.entropyOk then uniformRefuse d 8 s
    else
      match firstFrom (fun n => !thas s.ime.keys n) 254 2 with
      | none => endD d (refuse St.refusedState 0) s
      | some n =>
        let v := fun i => Config.freeValue (s.draws + i) % 2 ^ 256
        let key : MemKey := { k1 := v 0, k2 := v 1, km := v 2 }
        endD d { rDone with aux := n } (modIme (fun m => { m with keys := tput m.keys n key }) { s with draws := s.draws + 3 })) s)

/-- MEMKEY_ERASE -/
def execMemkeyErase (qp sub : Nat) (s : State) : Host.Outcome State Fault Refusal :=
  .next (onStarted 0x66 qp sub (fun d s =>
    let k := dfld d 24 1
    let used := (s.mems.filter fun (e : Nat × MemObj) => e.2.keyId = k).length
    if k = 0 then endD d (refuse St.refusedHandle 24) s
    else if k = 1 ∨ !confidential s then endD d (refuse St.refusedState 24) s
    else if !thas s.ime.keys k then uniformRefuse d 5 s
    else if used ≠ 0 then endD d (refuse St.refusedState used) s
    else endD d rDone (modIme (fun m => { m with keys := tdel m.keys k }) s)) s)

/-! ## Measurement and the sealed log (R449, R451) -/

/-- WEIGHT_MEASURE: the committed version is digested. -/
def execWeightMeasure (qp sub : Nat) (s : State) : Host.Outcome State Fault Refusal :=
  .next (onStarted 0x67 qp sub (fun d s =>
    let src := dfld d 24 4
    let out := dfld d 28 4
    let off := dfld d 32 8
    let len := dfld d 40 8
    guarded d
      [ needH s d Hk.mem 24, needH s d Hk.mem 28, needRange s src off len 32, needWritable s out (dfld d 48 8) 48 48 ]
      (fun s =>
        if poisonedIn s (hSlot src) off len then endD d (resOf St.poisoned) s
        else
          let h := Config.sha384 (readMem s (.desc qp sub) (hSlot src) off len)
          let s := weightChain h (storeMem (.desc qp sub) (hSlot out) (dfld d 48 8) (leBytes 48 h.toNat) s)
          endD d { rDone with aux := s.sec.nWeights } s) s) s)

/-- A record of the sealed log as its 32 bytes (R448). -/
def sealedBytes (r : SealedRec) : List Byte :=
  leBytes 8 r.time ++ leBytes 1 r.op ++ leBytes 1 r.reason ++ leBytes 2 r.index ++ leBytes 4 0 ++ leBytes 16 r.detail

/-- LOG_EXPORT: a public-key slot is asked for. -/
def execLogExport (qp sub : Nat) (s : State) : Host.Outcome State Fault Refusal :=
  .next (onStarted 0x68 qp sub (fun d s =>
    let out := dfld d 24 4
    guarded d
      [ needH s d Hk.mem 24, needWritable s out (dfld d 32 8) (dfld d 40 8) 32, chk (120 ≤ dfld d 40 8) St.refusedState 40,
        chk (confidential s) St.refusedState 0 ]
      (fun s => if s.sec.entropyOk then pkDesc d [] s else uniformRefuse d 8 s) s) s)

/-- The export for a length: the newest records that fit, oldest first, and how many they are. -/
def exportBytes (s : State) (len : Nat) : List Byte × Nat :=
  let n := min s.sec.slog.length ((len - 120) / 32)
  let plain := ((s.sec.slog.take n).reverse.map sealedBytes).flatten
  let e := freeNow s
  let owner := leBytes 97 ((s.sec.config.map SessConfig.owner).getD 0)
  let key := hkdf (Config.ecdh e owner) (sessionSalt s) (ascii "KLS-LOG") 32
  (padTo 97 0 (Config.ecPublic e) ++ leBytes 3 0 ++ leBytes 4 n
    ++ Config.gcmSeal (BitVec.ofNat 256 (ofLe key)) (leBytes 12 0) [] plain, n)

/-- The end of a LOG_EXPORT's slot. -/
def exportEnds (d : Desc) (s : State) : State :=
  let slot := hSlot (dfld d 24 4)
  let r := exportBytes s (dfld d 40 8)
  if !stillWritable s slot (dfld d 32 8) (dfld d 40 8) then endD d (refuse St.refusedState 24) s
  else endD d { rDone with aux := r.2 } (storeMem (.desc d.qp d.sub) slot (dfld d 32 8) r.1 (tookFree s))

/-! ## The link handshake (R439, R440) -/

/-- What a port presents, lower end first: a pair of byte strings, own and peer's, in node and port order. -/
def lowFirst (s : State) (x : Port) (p : Nat) (own peer : List Byte) : List Byte :=
  match x.peer with
  | some a => if nodeId s * 32 + p < a.node * 32 + a.port then own ++ peer else peer ++ own
  | none => own ++ peer

/-- The keys of R440: from lower to higher node, from higher to lower, and the finish key. -/
def linkOkm (s : State) (x : Port) (p : Nat) : List Byte :=
  let me := leBytes 3 (nodeId s) ++ leBytes 1 p
  let it := match x.peer with
    | some a => leBytes 3 a.node ++ leBytes 1 a.port
    | none => []
  hkdf (Config.ecdh x.hsEph ((x.hsOffers.2.drop 144).take 97)) (sessionSalt s) (ascii "KLS-IHLIM" ++ lowFirst s x p me it) 96

/-- A check fails: REJECT is sent, the reason is sealed, and the handshake is tried again later. -/
def hsFail (p : Nat) (s : State) : State :=
  let peer := match (portOf s p).peer with
    | some a => a.node
    | none => 0
  sendPort p (hsMsg 4 []) (sealLog 0 9 0 (p + 256 * peer) (modPort p (fun x => { x with hs := .rejected }) s))

/-- Ask for a public-key slot for a port. -/
def hsSlot (p : Nat) (s : State) : State :=
  if pkRoom s 1 then pkAsk (.port p) s else modPort p (fun x => { x with hs := .rejected }) s

/-- Is a peer's OFFER acceptable (R440)? A T400 presents chain B, a switch its public key. -/
def offerOk (s : State) (x : Port) (switch : Bool) (b : List Byte) : Bool :=
  match x.peer.bind fun (a : Peer) => sessionRule s a.node with
  | none => false
  | some r =>
    decide (b.take 48 = (offerHead s).take 48) &&
      (if switch then decide (r.kind = 1) && decide ((Config.sha384 (b.drop 241)).toNat = r.digest)
       else decide (r.kind = 0) && Config.chainOk (b.drop 241) && decide (b.take 144 = offerHead s))

/-- The key a peer's PROOF is verified under. -/
def peerKey (switch : Bool) (b : List Byte) : List Byte := if switch then b.drop 241 else Config.chainKey (b.drop 241)

/-- OFFER: the peer's OFFER is checked, and the own PROOF's signature is asked for. A port that is to try again offers at
once. -/
def execOffer (port : Nat) (switch : Bool) (b : List Byte) (s : State) : Host.Outcome State Fault Refusal :=
  .next (
    let x := portOf s port
    if !portLegal port || !confidential s || decide (x.state ≠ .secureWait) then s
    else
      let s := if x.hs = .rejected then hsOffer port s else s
      if (portOf s port).hs ≠ .offered then s
      else if offerOk s (portOf s port) switch b then
        hsSlot port (modPort port (fun x => { x with
          hs := .proving, hsOffers := (x.hsOffers.1, b), hsPeerKey := peerKey switch b }) s)
      else hsFail port s)

/-- PROOF: it waits for a slot in which it is verified. -/
def execProof (port : Nat) (sig : List Byte) (s : State) : Host.Outcome State Fault Refusal :=
  .next (
    let x := portOf s port
    if !portLegal port || decide (x.hs ≠ .proving) || decide (x.hsProofs.2 ≠ []) then s
    else
      let s := modPort port (fun x => { x with hsProofs := (x.hsProofs.1, sig) }) s
      if x.hsProofs.1 = [] then s else hsSlot port s)

/-- The FINISH over both OFFERs and both PROOFs, the lower end's first. -/
def finishMac (s : State) (x : Port) (p : Nat) : List Byte :=
  hmacBytes ((linkOkm s x p).drop 64)
    (lowFirst s x p x.hsOffers.1 x.hsOffers.2 ++ lowFirst s x p x.hsProofs.1 x.hsProofs.2)

/-- A FINISH is compared: the link keys are installed with frame counter 0, and the cabling check governs the port. -/
def hsFinishes (p : Nat) (mac : List Byte) (s : State) : State :=
  let x := portOf s p
  if mac ≠ finishMac s x p then hsFail p s
  else
    let okm := linkOkm s x p
    let keys := (ofLe (okm.take 32), ofLe ((okm.drop 32).take 32))
    let s := modPort p (fun x => { x with
      secured := true, linkKeys := keys, rxCount := 0, txCount := 0, hs := .idle, hsProofs := ([], []), hsFinish := [] }) s
    enterUp p (cableCheck p s)

/-- FINISH: one that comes before the peer's PROOF is verified is kept. -/
def execFinish (port : Nat) (mac : List Byte) (s : State) : Host.Outcome State Fault Refusal :=
  .next (
    let x := portOf s port
    if !portLegal port then s
    else if x.hs = .finishing then hsFinishes port mac s
    else if x.hs = .proving then modPort port (fun x => { x with hsFinish := mac }) s
    else s)

/-- REJECT from the peer. -/
def execReject (port : Nat) (s : State) : Host.Outcome State Fault Refusal :=
  .next (
    let x := portOf s port
    if !portLegal port || decide (x.hs = .idle) then s
    else
      let peer := match x.peer with
        | some a => a.node
        | none => 0
      sealLog 0 9 0 (port + 256 * peer) (modPort port (fun x => { x with hs := .rejected }) s))

/-- HANDSHAKE_RETRY: 1 s after a failure. -/
def execHandshakeRetry (port : Nat) (s : State) : Host.Outcome State Fault Refusal :=
  .next (
    let x := portOf s port
    if portLegal port && decide (x.hs = .rejected) then hsBegin port (modPort port (fun x => { x with hs := .idle }) s) else s)

/-- A port's slot ends: its PROOF is signed, or the peer's PROOF is verified. -/
def portSlotEnds (p : Nat) (s : State) : State :=
  let x := portOf s p
  if x.hs ≠ .proving then s
  else
    let both := lowFirst s x p x.hsOffers.1 x.hsOffers.2
    if x.hsProofs.1 = [] then
      let sig := padTo 96 0 (Config.sign 2 (s.sec.attKey.getD 0) both)
      let s := sendPort p (hsMsg 2 sig) (modPort p (fun x => { x with hsProofs := (sig, x.hsProofs.2) }) s)
      if x.hsProofs.2 = [] then s else hsSlot p s
    else if Config.verify x.hsPeerKey both x.hsProofs.2 then
      let s := sendPort p (hsMsg 3 (finishMac s x p)) (modPort p (fun x => { x with hs := .finishing }) s)
      if x.hsFinish = [] then s else hsFinishes p x.hsFinish s
    else hsFail p s

/-! ## The end of a slot, and refusals -/

/-- A descriptor's slot ends. -/
def descSlotEnds (q u : Nat) (b : List Byte) (s : State) : State :=
  match findDesc s q u with
  | none => s
  | some d =>
    if d.phase ≠ .running then s
    else if dOp d = 0x60 then
      (if s.sec.session = .opening && !(s.sec.pk.any fun (x : PkUse) => decide (x = .desc q u [])) then openKeys s else s)
    else if dOp d = 0x62 then reportEnds d b s
    else if dOp d = 0x63 then importEnds d b s
    else if dOp d = 0x68 then exportEnds d s
    else s

/-- An SPDM answer leaves with its signature by the alias key; a KEY_EXCHANGE answer (kind 4) establishes the secured
session (R429). -/
def spdmSlotEnds (kind : Nat) (msg : List Byte) (s : State) : State :=
  let s := emit (.doe kind (msg ++ padTo 96 0 (Config.sign 1 (s.nv.otp.root.getD 0) msg))) s
  if kind = 4 then modHif (fun h => { h with spdmSecured := true }) s else s

/-- PUBLIC_KEY_SLOT_END (R446): the oldest request's slot ends, and the next one enters the lane. -/
def execPublicKeySlotEnd (s : State) : Host.Outcome State Fault Refusal :=
  .next (match s.sec.pk with
  | [] => s
  | u :: l =>
    let s := modSec (fun k => { k with pk := l }) s
    match u with
    | .desc q v b => descSlotEnds q v b s
    | .port p => portSlotEnds p s
    | .spdm kind msg => spdmSlotEnds kind msg s)

/-- UNIFORM_REFUSAL_WRITE (R447): NOT_PERMITTED with every result field 0. -/
def execUniformRefusalWrite (qp sub : Nat) (s : State) : Host.Outcome State Fault Refusal :=
  .next (
    if s.sec.refusals.contains (qp, sub) then
      endDesc qp sub (resOf St.notPermitted) (modSec (fun k => { k with refusals := k.refusals.erase (qp, sub) }) s)
    else s)

/-- ENTROPY_HEALTH_FAILURE (R426) -/
def execEntropyHealthFailure (s : State) : Host.Outcome State Fault Refusal :=
  .next (modSec (fun k => { k with entropyOk := false }) s)

/-- ENTROPY_HEALTH_RESTORED (R426) -/
def execEntropyHealthRestored (s : State) : Host.Outcome State Fault Refusal :=
  .next (modSec (fun k => { k with entropyOk := true }) s)

end Sys2Proof.Machine
end

