-- ==== Sys2Proof/Machine/Waymark.lean ====
section
/-!
DEFINITION. Sys2Proof/Machine/Waymark.lean: the commands of waymark time and the manager pair (chapter 12).
-/
namespace Sys2Proof.Machine

/-! ## Identity (R315 to R317) -/

/-- Domain number of a node (R315). -/
def domainOf (node : Nat) : Nat := node / 1024

/-- Nodes the WMK_CAND registers list. -/
def candNodes (s : State) : List Nat := (s.wmk.cfg.cands.filter fun c => bitOf c 31).map fun c => bitsOf c 0 24

/-- Does the chip follow MANAGER packets from a node (R316)? -/
def listed (s : State) (node : Nat) : Bool := (candNodes s).contains node

/-- Is the chip strapped manager-capable and listed (R316)? -/
def mayManage (s : State) : Bool := decide (s.mod.strapRole = 2) && listed s (nodeId s)

/-- The pair of the chip (R317). -/
def ownPair (s : State) : Nat × Nat := (s.wmk.cfg.prio, Config.serial.toNat)

/-- Does a pair win over another (R317)? -/
def pairBeats (a b : Nat × Nat) : Bool := decide (b.1 < a.1) || (decide (a.1 = b.1) && decide (b.2 < a.2))

/-- The other listed candidates. -/
def otherCands (s : State) : List Nat := (candNodes s).filter fun n => n ≠ nodeId s

/-- Send one packet to several nodes. -/
def sendAll (nodes : List Nat) (m : Msg) (s : State) : State := nodes.foldl (fun s n => sendTo n m s) s

/-- Waymark value (R313). -/
def waymarkValue (s : State) : Nat := s.wmk.step * 2 ^ 24 + min ((timeBase s - s.wmk.applied) / 1000) 0xFFFFFF

/-! ## Election (R318 to R321) -/

/-- The election runs from step 1 (R318). -/
def startElection (s : State) : State :=
  modWmk (fun w => { w with role := .candidate, beaconing := true, rival := none }) s

/-- A listed manager-capable chip in service whose role is WORKER enters the election (R318; when its set-up first lists
it, since a chip reset empties WMK_CAND: log 40). -/
def maybeElect (s : State) : State :=
  if mayManage s && decide (s.wmk.role = .worker) && decide (s.clk.milestone = 15) then startElection s else s

/-- MANAGER_CHANGE (R321). -/
def postManager (node cause : Nat) (s : State) : State :=
  post 0 Att.managerChange (fieldAt node 0 24 + fieldAt s.wmk.term 24 32 + fieldAt cause 56 8) 0 s

/-- The chip's active manager changes. -/
def newManager (node cause : Nat) (s : State) : State :=
  postManager node cause
    (modWmk (fun w => { w with manager := some node, lossPosted := false, takeovers := satAdd 255 w.takeovers 1 }) s)

/-- The highest pair among the candidates heard from (R318). -/
def bestHeard (s : State) : Option Nat :=
  let cs := s.wmk.heard.filter fun (e : Nat × (Nat × Nat)) => e.1 ≠ nodeId s
  (cs.find? fun (e : Nat × (Nat × Nat)) => cs.all fun (f : Nat × (Nat × Nat)) => e.1 = f.1 || !pairBeats f.2 e.2).map Prod.fst

/-- The nodes an ANNOUNCE goes to: every node of the domain plan, or the candidates while none is loaded. -/
def announceTo (s : State) : List Nat :=
  match s.wmk.plan with
  | some p => (p.chips.map PlanChip.node).filter fun n => n ≠ nodeId s
  | none => otherCands s

/-- Send ANNOUNCE, naming the standby. -/
def announce (takeover : Bool) (s : State) : State :=
  let s := modWmk (fun w => { w with standby := bestHeard s, announces := min 10 (w.announces + 1) }) s
  let sb := s.wmk.standby.getD 0xFFFFFF
  sendAll (announceTo s) (.ctl 0x03 2 [s.wmk.term, sb, bitAt takeover 0]) s

/-- Become ACTIVE with the next term. -/
def becomeActive (takeover : Bool) (s : State) : State :=
  let s := modWmk (fun w => { w with role := .active, beaconing := false, term := (w.term + 1) % 2 ^ 32, announces := 0
                                     takeover := takeover }) s
  let s := newManager (nodeId s) (if takeover then 1 else 0) s
  let s := announce takeover s
  if takeover && bitOf s.wmk.cfg.parent 31 && !s.wmk.cfg.top then
    sendTo (bitsOf s.wmk.cfg.parent 0 24) (.ctl 0x03 2 [s.wmk.term, 0xFFFFFF, 1]) s
  else s

/-- BEACON_TIMER -/
def execBeaconTimer (s : State) : Host.Outcome State Fault Refusal :=
  .next (
    if (decide (s.wmk.role = .candidate) && s.wmk.beaconing) || decide (s.wmk.role = .held) then
      let p := ownPair s
      sendAll (otherCands s) (.ctl 0x03 1 [p.1, p.2, s.wmk.term, bitAt (s.wmk.role = .held) 0]) s
    else s)

/-- A candidate meets a rival's pair (R318, R319). -/
def meetPair (node : Nat) (pair : Nat × Nat) (s : State) : State :=
  if pair = ownPair s then
    let s := modWmk (fun w => { w with role := .held, beaconing := true, rival := some node }) s
    post 0 Att.cableMismatch (fieldAt node 0 24 + fieldAt 1 56 8) 0 s
  else if pairBeats pair (ownPair s) then modWmk (fun w => { w with beaconing := false }) s
  else s

/-- BEACON -/
def execBeacon (port node prio serial term : Nat) (held : Bool) (s : State) : Host.Outcome State Fault Refusal :=
  .next (
    if !listed s node || decide (node = nodeId s) then routeDrop port s
    else
      let s := modWmk (fun w => { w with term := max w.term (term % 2 ^ 32), heard := tput w.heard node (prio, serial) }) s
      if s.wmk.role = .held then
        (if s.wmk.rival = some node ∧ (prio, serial) ≠ ownPair s ∧ !held then meetPair node (prio, serial) (startElection s) else s)
      else if s.wmk.role = .candidate then meetPair node (prio, serial) s
      else s)

/-- CLAIM_EXPIRE -/
def execClaimExpire (s : State) : Host.Outcome State Fault Refusal :=
  .next (if decide (s.wmk.role = .candidate) && s.wmk.beaconing then becomeActive false s else s)

/-- ANNOUNCE_TIMER -/
def execAnnounceTimer (s : State) : Host.Outcome State Fault Refusal :=
  .next (if s.wmk.role = .active then announce false s else s)

/-- Report STEP and arrival to the manager (R332 RESYNC). -/
def resync (node : Nat) (s : State) : State := sendTo node (.ctl 0x03 5 [s.wmk.step, bitAt s.wmk.arrived 0]) s

/-- The role after an ANNOUNCE from another node: a named candidate becomes STANDBY, every other leaves off beaconing; a
lost active manager becomes CANDIDATE without beaconing (R318, R334). -/
def roleAfter (s : State) (standby : Option Nat) : Role :=
  match s.wmk.role with
  | .worker => .worker
  | .held => .held
  | .active => .candidate
  | _ => if standby = some (nodeId s) then .standby else .candidate

/-- ANNOUNCE -/
def execAnnounce (port node term : Nat) (standby : Option Nat) (takeover : Bool) (s : State) :
    Host.Outcome State Fault Refusal :=
  .next (
    if !listed s node then routeDrop port s
    else if term < s.wmk.term ∨ node = nodeId s ∨ (s.wmk.role = .active ∧ term = s.wmk.term) then s
    else
      let change := decide (s.wmk.manager ≠ some node)
      let s := modWmk (fun w => { w with term := term, role := roleAfter s standby, lossPosted := false
                                         beaconing := decide (w.role = .held) && w.beaconing }) s
      if change then resync node (newManager node (if takeover then 1 else 0) s) else s)

/-- KEEPALIVE_TIMER -/
def execKeepaliveTimer (s : State) : Host.Outcome State Fault Refusal :=
  .next (
    match s.wmk.role, s.wmk.standby with
    | .active, some n => sendTo n (.ctl 0x03 3 ([s.wmk.term, s.wmk.step] ++ s.wmk.childrenIn)) s
    | _, _ => s)

/-- KEEPALIVE -/
def execKeepalive (port node term step : Nat) (arrived : List Nat) (s : State) : Host.Outcome State Fault Refusal :=
  .next (
    if !listed s node then routeDrop port s
    else if term < s.wmk.term ∨ s.wmk.role ≠ .standby then s
    else modWmk (fun w => { w with term := term, copyStep := step, copyArrived := arrived }) s)

/-- The standby takes over (R331, R332). -/
def takeOver (s : State) : State :=
  becomeActive true (modWmk (fun w => { w with childrenIn := w.copyArrived, forwarded := false }) s)

/-- KEEPALIVE_LOSS -/
def execKeepaliveLoss (s : State) : Host.Outcome State Fault Refusal :=
  .next (if s.wmk.role = .standby then takeOver s else s)

/-- RELINQUISH -/
def execRelinquish (port node : Nat) (s : State) : Host.Outcome State Fault Refusal :=
  .next (
    if !listed s node then routeDrop port s
    else if s.wmk.role = .standby ∧ s.wmk.manager = some node then takeOver s else s)

/-- ANNOUNCE_WATCH_EXPIRE -/
def execAnnounceWatchExpire (s : State) : Host.Outcome State Fault Refusal :=
  .next (if decide (s.wmk.role = .candidate) && !s.wmk.beaconing then startElection s else s)

/-- NO_MANAGER_EXPIRE -/
def execNoManagerExpire (s : State) : Host.Outcome State Fault Refusal :=
  .next (
    if s.wmk.lossPosted || decide (s.wmk.role = .active) || decide (s.clk.milestone ≠ 15) then s
    else
      let s := modWmk (fun w => { w with lossPosted := true, manager := none, takeovers := satAdd 255 w.takeovers 1 }) s
      alertPost 0x20 (postManager 0 2 s))

/-! ## Step advance (R328 to R330) -/

/-- Apply an ADVANCE (R328): the step, PHASE 0, no arrivals, the ADVANCE event signalled. -/
def applyAdvance (a : Advance) (s : State) : State :=
  let s := modWmk (fun w => { w with step := a.step % 2 ^ 40, applied := w.tb, arrived := false, forwarded := false
                                     childrenIn := [], advance := none }) s
  let s := if a.set then s else ckpApply (a.step % 2 ^ 40) a.at_ s
  match s.wmk.advanceEv with
  | some e => updateEvent e (.sig (waymarkValue s) false) s
  | none => s

/-- ADVANCE goes down the tree. -/
def sendAdvance (a : Advance) (s : State) : State :=
  sendAll s.wmk.children (.ctl 0x02 4 [s.wmk.term, a.step, a.at_, bitAt a.set 0]) s

/-- An ADVANCE is taken: passed down, then applied at once where it is late, else kept for its T (R329). -/
def takeAdvance (a : Advance) (s : State) : State :=
  let s := sendAdvance a s
  let s := if a.set then modWmk (fun w => { w with arrived := false, forwarded := false, childrenIn := [], arriveHeld := false
                                                   arriveDue := false }) s else s
  if a.at_ ≤ timeBase s then applyAdvance a (modWmk (fun w => { w with late := satAdd 255 w.late 1 }) s)
  else modWmk (fun w => { w with advance := some a }) s

/-- Is the chip the active top manager? -/
def isTop (s : State) : Bool := decide (s.wmk.role = .active) && s.wmk.cfg.top

/-- Where an arrival goes: the parent manager for an active manager, else the tree parent. -/
def sendArrive (s : State) : State :=
  let m := Msg.ctl 0x02 3 [s.wmk.step + 1]
  if s.wmk.role = .active then
    (if bitOf s.wmk.cfg.parent 31 then sendTo (bitsOf s.wmk.cfg.parent 0 24) m s else s)
  else
    match s.wmk.treePort with
    | some p => if portLegal p && portUsable s p then sendPort p m s
      else (match s.wmk.manager with
        | some n => sendTo n m s
        | none => s)
    | none =>
      match s.wmk.manager with
      | some n => sendTo n m s
      | none => s

/-- When the chip and every child have arrived: forward one ARRIVE, or, at the top, choose T (R328). -/
def forwardArrive (s : State) : State :=
  if s.wmk.arrived && !s.wmk.forwarded && (s.wmk.children.all fun n => s.wmk.childrenIn.contains n) then
    let s := modWmk (fun w => { w with forwarded := true }) s
    if isTop s then takeAdvance { step := s.wmk.step + 1, at_ := timeBase s + s.wmk.lead * 1000, set := false } s
    else sendArrive s
  else s

/-- The chip's own arrival (R328, R334). -/
def ownArrive (s : State) : State :=
  let s := modWmk (fun w => { w with arriveDue := false }) s
  if s.wmk.advance.isSome then modWmk (fun w => { w with arriveHeld := true }) s
  else if s.wmk.arrived then modWmk (fun w => { w with repeatArrive := satAdd 255 w.repeatArrive 1 }) s
  else forwardArrive (modWmk (fun w => { w with arrived := true }) s)

/-- ARRIVE_SIGNAL -/
def execArriveSignal (s : State) : Host.Outcome State Fault Refusal :=
  .next (if s.wmk.arriveDue then ownArrive s else s)

/-- ARRIVE -/
def execArrive (port node step : Nat) (s : State) : Host.Outcome State Fault Refusal :=
  .next (
    if step = s.wmk.step + 1 ∧ (portLegal port ∨ listed s node) then
      forwardArrive (modWmk (fun w => { w with children := linsert w.children node, childrenIn := linsert w.childrenIn node }) s)
    else s)

/-- ADVANCE -/
def execAdvance (port node term step time : Nat) (set : Bool) (s : State) : Host.Outcome State Fault Refusal :=
  .next (
    if term < s.wmk.term then s
    else if !portLegal port ∨ node = nodeId s ∨ isTop s then s
    else if !set ∧ step ≤ s.wmk.step then s
    else takeAdvance { step := step, at_ := time, set := set } (modWmk (fun w => { w with term := max w.term term }) s))

/-- ADVANCE_APPLY -/
def execAdvanceApply (s : State) : Host.Outcome State Fault Refusal :=
  .next (
    match s.wmk.advance with
    | some a =>
      if timeBase s < a.at_ then s
      else
        let held := s.wmk.arriveHeld && !a.set
        let s := applyAdvance a (modWmk (fun w => { w with arriveHeld := false }) s)
        if held then ownArrive s else s
    | none => s)

/-- WMK_STEP_SET (R330). -/
def stepSet (v : Nat) (s : State) : State :=
  if isTop s then takeAdvance { step := bitsOf v 24 40, at_ := timeBase s + s.wmk.lead * 1000, set := true } s else s

/-- STEP_SET -/
def execStepSet (src : Src) (v : DWord) (s : State) : Host.Outcome State Fault Refusal :=
  .next (if srcOpen s src then stepSet v.toNat s else s)

/-- The view of a chip of the domain. -/
def viewOf (s : State) (node : Nat) : ChipView :=
  tgetD s.wmk.view node { summary := 0, missing := false, step := 0, arrived := false }

/-- Send a chip its plan record and routes (R322). -/
def sendPlan (s : State) (p : DomainPlan) (c : PlanChip) (t : State) : State :=
  let rs := (p.routes.filter fun (r : PlanRoute) => r.node = c.node).map fun (r : PlanRoute) => [r.table, r.index, r.entry]
  if c.node = nodeId s then t else sendTo c.node (.ctl 0x03 6 (c.treePort :: c.plans ++ rs.flatten)) t

/-- RESYNC_REPORT -/
def execResyncReport (node step : Nat) (arrived : Bool) (s : State) : Host.Outcome State Fault Refusal :=
  .next (
    if s.wmk.role ≠ .active then s
    else
      let v := viewOf s node
      let s := modWmk (fun w => { w with view := tput w.view node { v with step := step, arrived := arrived } }) s
      let s := if s.wmk.step < step then applyAdvance { step := step, at_ := timeBase s, set := false } s else s
      let s := if step < s.wmk.step then sendTo node (.ctl 0x02 4 [s.wmk.term, s.wmk.step, 0, 0]) s else s
      let s := if arrived ∧ step = s.wmk.step then
          forwardArrive (modWmk (fun w => { w with childrenIn := linsert w.childrenIn node }) s) else s
      match s.wmk.plan with
      | some p =>
        let s := match p.chips.find? fun (c : PlanChip) => c.node = node with
          | some c => sendPlan s p c s
          | none => s
        if p.chips.all fun (c : PlanChip) => c.node = nodeId s || thas s.wmk.view c.node then
          modWmk (fun w => { w with takeover := false }) s
        else s
      | none => modWmk (fun w => { w with takeover := false }) s)

/-! ## The plan and health (R322, R323) -/

/-- The plan entry that a 64-bit value holds (Table 11-19): KIND 3 clamps to 2. -/
def planOf (v : Nat) : PortPlan :=
  { kind := if bitsOf v 62 2 = 0 then .any_ else if bitsOf v 62 2 = 1 then .expect else .unused
    port := bitsOf v 32 8, node := bitsOf v 0 24 }

/-- Give a port a plan; its check runs at its milestone boundary. -/
def setPlan (p : Nat) (v : Nat) (s : State) : State := modPort p (fun x => { x with plan := planOf v, planDue := true }) s

/-- A chip takes its plan record and routes. -/
def takePlan (treePort : Nat) (plans : List Nat) (routes : List PlanRoute) (s : State) : State :=
  let s := modWmk (fun w => { w with treePort := some treePort }) s
  let s := (numbered (plans.take 23)).foldl (fun s (e : Nat × Nat) => setPlan e.1 e.2 s) s
  routes.foldl (fun s (r : PlanRoute) =>
    if r.table < 24 && entryLegal r.entry then putRoute r.table (r.index % 65536) r.entry s else s) s

/-- Does a plan agree with the layout (R323)? -/
def planOk (s : State) (magic nChips nRoutes domain : Nat) (p : DomainPlan) : Bool :=
  decide (magic = 0x574D504C) && decide (1 ≤ nChips) && decide (nChips ≤ 1024) && decide (p.chips.length = nChips)
    && decide (p.routes.length = nRoutes) && decide (domain = domainOf (nodeId s))
    && (p.chips.all fun (c : PlanChip) => domainOf c.node = domain) && (p.routes.all fun (r : PlanRoute) => domainOf r.node = domain)

/-- Load and distribute a plan (R322, R323); during a takeover the load is refused with BUSY (R334). -/
def loadPlan (magic nChips nRoutes domain : Nat) (p : DomainPlan) (s : State) : State :=
  if s.wmk.role ≠ .active then s
  else if s.wmk.takeover then modWmk (fun w => { w with planStatus := 3 }) s
  else if !planOk s magic nChips nRoutes domain p then modWmk (fun w => { w with planStatus := 2 }) s
  else
    let s := modWmk (fun w => { w with planStatus := 1, plan := some p }) s
    let s := p.chips.foldl (fun t c => sendPlan s p c t) s
    match p.chips.find? fun (c : PlanChip) => c.node = nodeId s with
    | some c => takePlan c.treePort c.plans (p.routes.filter fun (r : PlanRoute) => r.node = c.node) s
    | none => s

/-- PLAN_LOAD -/
def execPlanLoad (src : Src) (magic nChips nRoutes domain : Nat) (chips : List PlanChip) (routes : List PlanRoute) (s : State) :
    Host.Outcome State Fault Refusal :=
  .next (if srcOpen s src then loadPlan magic nChips nRoutes domain { chips := chips, routes := routes } s else s)

/-- PLAN -/
def execPlan (port node treePort : Nat) (plans : List Nat) (routes : List PlanRoute) (s : State) :
    Host.Outcome State Fault Refusal :=
  .next (
    if !listed s node then routeDrop port s
    else if s.wmk.manager = some node then takePlan treePort plans routes s else s)

/-- HEALTH_SUMMARY_TIMER: the 64 bytes of a summary are not laid out: a free value. -/
def execHealthSummaryTimer (s : State) : Host.Outcome State Fault Refusal :=
  .next (
    let v := freeBits s 512
    let s := tookFree s
    match s.wmk.role, s.wmk.manager with
    | .active, _ =>
      if bitOf s.wmk.cfg.parent 31 && !s.wmk.cfg.top then sendTo (bitsOf s.wmk.cfg.parent 0 24) (.ctl 0x03 7 [v]) s else s
    | _, some n => sendTo n (.ctl 0x03 7 [v]) s
    | _, none => s)

/-- HEALTH_SUMMARY -/
def execHealthSummary (node summary : Nat) (s : State) : Host.Outcome State Fault Refusal :=
  .next (
    if s.wmk.role = .active then
      let v := viewOf s node
      modWmk (fun w => { w with view := tput w.view node { v with summary := summary % 2 ^ 512, missing := false } }) s
    else s)

/-- HEALTH_SUMMARY_MISSING -/
def execHealthSummaryMissing (node : Nat) (s : State) : Host.Outcome State Fault Refusal :=
  .next (
    if s.wmk.role = .active then
      let v := viewOf s node
      modWmk (fun w => { w with view := tput w.view node { v with missing := true } }) s
    else s)

/-! ## Synchronisation (R324 to R327) -/

/-- Where the parent is: a usable port of the time tree, or a node reached by routing table 23 (R324, R326). -/
inductive TimeParent where
  | port (p : Nat)
  | node (n : Nat)
  | none_
  deriving DecidableEq, Repr

/-- The chip's parent in the time tree. -/
def timeParent (s : State) : TimeParent :=
  if isTop s then .none_
  else if s.wmk.role = .active then
    (if bitOf s.wmk.cfg.parent 31 then .node (bitsOf s.wmk.cfg.parent 0 24) else .none_)
  else
    match s.wmk.treePort with
    | some p =>
      if portLegal p && portUsable s p then .port p
      else (match s.wmk.manager with
        | some n => .node n
        | none => .none_)
    | none =>
      match s.wmk.manager with
      | some n => .node n
      | none => .none_

/-- SYNC_REQ_TIMER -/
def execSyncReqTimer (s : State) : Host.Outcome State Fault Refusal :=
  .next (
    let m := Msg.ctl 0x02 1 [timeBase s]
    let sent := modWmk (fun w => { w with syncSent := some w.tb })
    match timeParent s with
    | .port p => sendPort p m (sent s)
    | .node n => sendTo n m (sent s)
    | .none_ => if confidential s && !isTop s then modWmk (fun w => { w with synced := false, good := 0 }) s else s)

/-- ERR_BOUND_NS as the chip reports it to its children. -/
def ownBound (s : State) : Nat := if isTop s then 0 else if s.wmk.synced then s.wmk.errBound else 65535

/-- SYNC_REQ -/
def execSyncReq (port node t1 : Nat) (s : State) : Host.Outcome State Fault Refusal :=
  .next (
    let m := Msg.ctl 0x02 2 [t1, timeBase s, timeBase s, ownBound s]
    let s := modWmk (fun w => { w with children := linsert w.children node }) s
    let near := match (portOf s port).peer with
      | some a => decide (a.node = node)
      | none => false
    if portLegal port && near && portUsable s port then sendPort port m s else sendTo node m s)

/-- The error of the edge to the parent (Table 12-4). -/
def edgeError (s : State) : Nat :=
  if s.wmk.role = .active then 290
  else match timeParent s with
    | .port p => if isBoard p then 10 else 115
    | _ => 125

/-- Enter SYNCED: ledger time is loaded from the time base (R505). -/
def enterSynced (s : State) : State :=
  ledgerLoad (modWmk (fun w => { w with synced := true, wasSynced := true }) s)

/-- Correct the time base by an offset (R325). -/
def correct (offset : Int) (bound : Nat) (s : State) : State :=
  let s := modWmk (fun w => { w with errBound := min 65535 (bound + edgeError s), syncSent := none }) s
  if s.wmk.synced then
    if 100000 < offset.natAbs then
      let s := logNotice 6 offset.natAbs (modWmk (fun w => { w with synced := false, good := 0, slew := 0 }) s)
      if 0 < offset then modWmk (fun w => { w with tb := w.tb + offset.natAbs }) s else s
    else modWmk (fun w => { w with slew := offset }) s
  else
    let back := decide (offset < 0)
    let s := modWmk (fun w => { w with
        tb := if back then (if w.wasSynced then w.tb else w.tb - offset.natAbs) else w.tb + offset.natAbs
        good := if offset.natAbs ≤ 50 then w.good + 1 else 0 }) s
    if 8 ≤ s.wmk.good then enterSynced s else s

/-- SYNC_REPLY -/
def execSyncReply (t2 t3 bound : Nat) (s : State) : Host.Outcome State Fault Refusal :=
  .next (
    match s.wmk.syncSent with
    | some t1 =>
      let t4 := timeBase s
      let offset : Int := (((t2 : Int) - t1) - ((t4 : Int) - t3)) / 2
      correct offset bound s
    | none => s)

/-- WMK_PPS_EDGE -/
def execWmkPpsEdge (s : State) : Host.Outcome State Fault Refusal :=
  .next (
    if isTop s && s.wmk.ppsEn then
      let d := timeBase s % 1000000000
      let off : Int := if d ≤ 500000000 then -(d : Int) else 1000000000 - (d : Int)
      if 1000000 < off.natAbs then modWmk (fun w => { w with ppsIgnored := satAdd 255 w.ppsIgnored 1 }) s
      else modWmk (fun w => { w with slew := off }) s
    else s)

/-- WMK_TIME_SET: forward only once the chip has reported SYNCED (R314). -/
def timeSet (v : Nat) (s : State) : State :=
  if isTop s ∧ (s.wmk.wasSynced = false ∨ timeBase s ≤ v) then modWmk (fun w => { w with tb := v, slew := 0 }) s else s

/-- TIME_SET -/
def execTimeSet (src : Src) (v : DWord) (s : State) : Host.Outcome State Fault Refusal :=
  .next (if srcOpen s src then timeSet v.toNat s else s)

end Sys2Proof.Machine
end

