-- ==== Sys2Proof/Machine/Readback.lean ====
section
/-!
DEFINITION. Sys2Proof/Machine/Readback.lean: what every register reads as (the field tables of every chapter), and which
accesses a stopped clock, a reset or a halt blocks (R42, R492).
-/
namespace Sys2Proof.Machine

/-! ## The block windows (R64) and which of them answer (R42, R492) -/

/-- Register blocks whose clock is CLK_MG or CLK_PCIE, which run through boot-fault hold (R50). -/
def regMg (r : Reg) : Bool :=
  match r with
  | .clkMsStatus | .clkMsFault | .clkMsCtrl | .hifPoolA | .hifPoolB | .hifPoolC | .hifPoolD => true
  | .hifVfQuotaA _ | .hifVfQuotaB _ | .hifVfQuotaC _ | .hifVfQuotaD _ | .hifVfPlace _ | .hifVfPending _ => true
  | .hifVfCtrl _ | .hifVfState _ | .vfwIdent _ | .vfwNode _ | .vfwState _ | .vfwQuotaA _ | .vfwQuotaB _ => true
  | .vfwQuotaC _ | .vfwQuotaD _ | .vfwMode _ => true
  | .cmdDbSq _ | .cmdDbCq _ | .cmdSvqSqBase _ | .cmdSvqCqBase _ | .cmdSvqCfg _ => true
  | .svcFwStatus | .svcCoreState _ | .svcUserCtrl | .svcUserKey _ _ => true
  | .secStatus | .secAlarm | .lcsState | .lcsCmd | .lcsResult | .lcsToken _ => true
  | .fltStatus | .fltResetCmd | .fltResetResult | .fltCounts | .fltRecHead | .fltRecSel | .fltRecData _ => true
  | .owlStatus | .owlCtrl | .owlPolReq _ | .owlPolApplied _ | .owlPolOvr | .owlLogState | .owlLogUse | .owlClu _ => true
  | .pwrStatus | .pwrCap | .pwrInterval | .pwrEnergy | .pwrPeriodStart _ | .pwrPeriodCfg _ => true
  | .mgtStatus | .mgtTrayCap | .mgtErr | .reserved _ => true
  | .tskPartReady _ | .tskPartOverflow _ | .mxeEngState _ | .mxeEngMaskLo _ | .mxeEngMaskHi _ | .mxeEngShape _ => false
  | .mxeEngErr _ | .mxeEngFlags _ | .mxeEngValidWf _ | .mxeEngDummyWf _ | .mxeEngStall _ | .mxeCtrl => false
  | .vcuCluMask _ _ | .vcuCluErr _ | .vcuCluAlu _ | .vcuCluBusy _ => false
  | .cstCluCfg _ | .cstCluState _ | .cstCluErr _ | .cstCluHits _ | .cstCluMisses _ | .cstCluSpilled _ => false
  | .memBadgerCtrl | .memPoisonState | .memStackState _ | .memStackErr _ | .memBadgerStat _ | .memRepair _ => false
  | .imeStatus | .imeTagMisses _ | .imeMerges _ | .imeList _ => false
  | .lnkCfg | .lnkRtAddr | .lnkRtData | .lnkRtCmd | .lnkPortState _ | .lnkPortCtrl _ | .lnkPortPlan _ => false
  | .lnkPortPeer _ | .lnkPortErr _ | .lnkPortCrc _ | .lnkPortTx _ => false
  | .wmkValue | .wmkTime | .wmkStatus | .wmkMgrCfg | .wmkCand _ | .wmkParent | .wmkEvents | .wmkPlanBase => false
  | .wmkPlanCtrl | .wmkStepSet | .wmkTimeSet | .wmkStats => false
  | .colCfg | .colTrigUsed | .colEngState _ | .colEngTx _ | .colEngRx _ | .colEngErr _ | .colSwCaps _ => false
  | .ingStatus | .ingCfg | .ingStreamState _ | .ingStreamLanded _ | .ingStreamErr _ => false
  | .ckpCfg | .ckpBuddyCfg | .ckpBuddyState | .ckpStats | .ckpBytesOut => false

/-- The FLT, CLK, LCS, MGT and SEC blocks, which alone can be read in a halt (Table 19-13). -/
def regHaltRead (r : Reg) : Bool :=
  match r with
  | .clkMsStatus | .clkMsFault | .clkMsCtrl | .secStatus | .secAlarm | .lcsState | .lcsCmd | .lcsResult => true
  | .lcsToken _ | .fltStatus | .fltResetCmd | .fltResetResult | .fltCounts | .fltRecHead | .fltRecSel => true
  | .fltRecData _ | .mgtStatus | .mgtTrayCap | .mgtErr => true
  | _ => false

/-- The partition in whose reset domain a register's window lies, where it is one partition's. -/
def regPart (r : Reg) : Option Nat :=
  match r with
  | .mxeEngState c | .mxeEngMaskLo c | .mxeEngMaskHi c | .mxeEngShape c | .mxeEngErr c | .mxeEngFlags c => some (c / 16)
  | .mxeEngValidWf c | .mxeEngDummyWf c | .mxeEngStall c => some (c / 16)
  | .vcuCluMask c _ | .vcuCluErr c | .vcuCluAlu c | .vcuCluBusy c => some (c / 16)
  | .cstCluCfg c | .cstCluState c | .cstCluErr c | .cstCluHits c | .cstCluMisses c | .cstCluSpilled c => some (c / 16)
  | .memStackState k | .memStackErr k | .memBadgerStat k | .memRepair k => some (k / 2)
  | .imeTagMisses k | .imeMerges k | .imeList k => some (k / 2)
  | .lnkPortState p | .lnkPortCtrl p | .lnkPortPlan p | .lnkPortPeer p | .lnkPortErr p | .lnkPortCrc p => some (portPart p)
  | .lnkPortTx p => some (portPart p)
  | .colEngState e | .colEngTx e | .colEngRx e | .colEngErr e => some (e / 8)
  | .tskPartReady p | .tskPartOverflow p => some p
  | _ => none

/-- Does a register's block accept nothing, its clock stopped or its domain held in reset (R42, R50, R492)? -/
def regBlocked (s : State) (r : Reg) (wr : Bool) : Bool :=
  if s.flt.haltCause ≠ 0 then
    if wr then decide (r ≠ .fltResetCmd) else !regHaltRead r
  else if !regMg r && !(decide (s.clk.phase = .running) || decide (s.clk.phase = .ready)) then true
  else
    match regPart r with
    | some p => partInReset s p
    | none => false

/-! ## Reads by block -/

/-- A Bool as a bit. -/
def bit (b : Bool) : Nat := bitAt b 0

/-- A word from fields: value, lowest bit, width. -/
def wordOf (fs : List (Nat × Nat × Nat)) : Nat := (fs.map fun f => fieldAt f.1 f.2.1 f.2.2).sum

/-- CLK_MS_STATUS (Table 02-5). -/
def readMsStatus (s : State) : Nat :=
  wordOf [(s.clk.progress, 0, 16), (s.clk.milestone, 16, 4), (s.clk.partOffline, 20, 4), (s.clk.attempt, 26, 2),
    (bit s.clk.hostLinkLate, 28, 1), (bit s.clk.warm, 29, 1), (bit (decide (s.clk.phase = .ready)), 30, 1),
    (bit (decide (s.clk.phase = .bootHold)), 31, 1)]

/-- The CLK block. -/
def readClk (s : State) (r : Reg) : Nat :=
  match r with
  | .clkMsStatus => readMsStatus s
  | .clkMsFault =>
    wordOf [(s.clk.faultProgress, 0, 16), (s.clk.faultCount, 16, 8), (s.clk.faultCause, 24, 4), (s.clk.faultMilestone, 28, 4)]
  | .clkMsCtrl =>
    wordOf [(s.clk.scalePending.getD s.clk.scale, 0, 4), (bit s.clk.scalePending.isSome, 30, 1), (bit s.clk.lock, 31, 1)]
  | _ => 0

/-- STATE of a VF entry. -/
def vfStateCode (st : VfState) : Nat :=
  match st with
  | .idle => 0
  | .active => 1
  | .teardown => 2
  | .held => 3

/-- HIF_VF_STATE (Table 03-19). -/
def readVfState (e : VfEntry) : Nat := wordOf [(vfStateCode e.state, 0, 3), (e.short, 16, 7), (e.lastStatus, 24, 8)]

/-- The applied quota with the pending values shown over it (R9), by PENDING bit (Table 03-17). -/
def shownQuota (e : VfEntry) : VfQuota :=
  { contexts := tgetD e.pend 0 e.quota.contexts
    queuePairs := tgetD e.pend 1 e.quota.queuePairs
    memObjects := tgetD e.pend 2 e.quota.memObjects
    keySlots := tgetD e.pend 8 e.quota.keySlots
    events := tgetD e.pend 3 e.quota.events
    weight := tgetD e.pend 6 e.quota.weight
    hbmGib := tgetD e.pend 5 e.quota.hbmGib
    graphs := tgetD e.pend 4 e.quota.graphs
    home := tgetD e.pend 7 e.quota.home }

/-- HIF_VF_QUOTA_A to D (Tables 03-12 to 03-15). -/
def quotaWord (q : VfQuota) (i : Nat) : Nat :=
  if i = 0 then wordOf [(q.queuePairs, 0, 11), (q.contexts, 16, 11)]
  else if i = 1 then wordOf [(q.memObjects, 0, 19)]
  else if i = 2 then wordOf [(q.events, 0, 17), (q.keySlots, 17, 11)]
  else wordOf [(q.graphs, 0, 15), (q.hbmGib, 15, 9), (q.weight, 24, 8)]

/-- GiB free in the HBM pool, dirty granules included (R67, Table 03-11). -/
def freeGib (s : State) : Nat := shareLeft s 0 / 2 ^ 30

/-- Is a VF number legal? -/
def vfLegal (v : Nat) : Bool := decide (1 ≤ v) && decide (v ≤ 512)

/-- The HIF block (R67, R68). -/
def readHif (s : State) (r : Reg) : Nat :=
  match r with
  | .hifPoolA => wordOf [(poolFree s Hk.qp, 0, 16), (poolFree s Hk.ctx, 16, 16)]
  | .hifPoolB => wordOf [(poolFree s Hk.mem, 0, 21)]
  | .hifPoolC => wordOf [(poolFree s Hk.ev, 0, 19), (poolFree s Hk.key, 19, 11)]
  | .hifPoolD => wordOf [(poolFree s Hk.graph, 0, 17), (freeGib s, 17, 9)]
  | .hifVfQuotaA v => quotaWord (shownQuota (vfOf s v)) 0
  | .hifVfQuotaB v => quotaWord (shownQuota (vfOf s v)) 1
  | .hifVfQuotaC v => quotaWord (shownQuota (vfOf s v)) 2
  | .hifVfQuotaD v => quotaWord (shownQuota (vfOf s v)) 3
  | .hifVfPlace v => (shownQuota (vfOf s v)).home
  | .hifVfPending v => ((vfOf s v).pend.map fun (e : Nat × Nat) => 2 ^ e.1).sum
  | .hifVfState v => readVfState (vfOf s v)
  | _ => 0

/-- The VF window (Table 03-6). -/
def readVfw (s : State) (r : Reg) : Nat :=
  match r with
  | .vfwIdent v => v
  | .vfwNode _ => nodeId s
  | .vfwState v => readVfState (vfOf s v)
  | .vfwQuotaA v => quotaWord (vfOf s v).quota 0
  | .vfwQuotaB v => quotaWord (vfOf s v).quota 1
  | .vfwQuotaC v => quotaWord (vfOf s v).quota 2
  | .vfwQuotaD v => quotaWord (vfOf s v).quota 3
  | .vfwMode _ => bit (confidential s)
  | _ => 0

/-- Does page 0 of a function show a pending value? -/
def pagePending (p : SvqPage) : Bool :=
  p.pSqBase.isSome || p.pCqBase.isSome || p.pCqLog.isSome || p.pSqLog.isSome || p.pVector.isSome

/-- STATE of a service queue (Table 04-9). -/
def svqState (s : State) (fn : Nat) : Nat :=
  match svqOf s fn with
  | none => 0
  | some (_, q) => if q.state = .stopped then 2 else 1

/-- The CMD block's page 0 (Tables 04-7 to 04-9); doorbells are write only. -/
def readCmd (s : State) (r : Reg) : Nat :=
  match r with
  | .cmdSvqSqBase fn => (pageOf s fn).pSqBase.getD (pageOf s fn).sqBase / 4096 * 4096
  | .cmdSvqCqBase fn => (pageOf s fn).pCqBase.getD (pageOf s fn).cqBase / 4096 * 4096
  | .cmdSvqCfg fn =>
    let p := pageOf s fn
    wordOf [(p.pVector.getD p.vector, 0, 11), (bit (pagePending p), 14, 1), (p.pSqLog.getD p.sqLog, 15, 5),
      (p.pCqLog.getD p.cqLog, 20, 5), (svqState s fn, 28, 2)]
  | _ => 0

/-- The MXE block (R175, R198). -/
def readMxe (s : State) (r : Reg) : Nat :=
  let e (c : Nat) : Engine := engAt s c
  let on (c : Nat) (v : Nat) : Nat := if c < 64 && cluInService s c then v else 0
  match r with
  | .mxeEngState c =>
    if 64 ≤ c then 0
    else
      let split := match (e c).run with
        | some t => (match t.op with
          | some o => o.split
          | none => 0)
        | none => 0
      wordOf [(engStateCode s c, 0, 4), (on c split, 6, 2), (on c (bit (e c).run.isSome), 8, 1),
        (on c (bit (e c).staged.isSome), 9, 1), (on c (e c).groups, 16, 8)]
  | .mxeEngMaskLo c => on c (bitsOf (e c).mask 0 32)
  | .mxeEngMaskHi c => on c (bitsOf (e c).mask 32 32)
  | .mxeEngShape c => on c (engShape (e c).mask)
  | .mxeEngErr c => on c (wordOf [((e c).corrected, 0, 16), ((e c).uncorrected, 24, 8)])
  | .mxeEngFlags c => if confidential s then 0 else on c (bitsOf (e c).flags 0 3)
  | .mxeEngValidWf c => on c ((e c).validWf % 2 ^ 64)
  | .mxeEngDummyWf c => on c ((e c).dummyWf % 2 ^ 64)
  | .mxeEngStall c => on c ((e c).stall % 2 ^ 64)
  | .mxeCtrl => wordOf [(s.mxe.pend.getD s.mxe.rampStarts, 0, 3), (bit s.mxe.pend.isSome, 31, 1)]
  | _ => 0

/-- The VCU block (R226). -/
def readVcu (s : State) (r : Reg) : Nat :=
  let on (c : Nat) (v : Nat) : Nat := if c < 64 && cluInService s c then v else 0
  match r with
  | .vcuCluMask c w => on c (if w < 5 then bitsOf (vcluAt s c).mask (32 * w) 32 else 0)
  | .vcuCluErr c =>
    on c (wordOf [((vcluAt s c).corrected, 0, 16), (popCount (vcluAt s c).mask 160, 16, 8), ((vcluAt s c).uncorrected, 24, 8)])
  | .vcuCluAlu c => on c ((vcluAt s c).alu % 2 ^ 64)
  | .vcuCluBusy c => on c ((vcluAt s c).busy % 2 ^ 64)
  | _ => 0

/-- STATE of a service core (Table 08-17). -/
def svcCoreCode (s : State) (n : Nat) : Nat :=
  if partOff s (n / 8) || s.flt.masked.contains (unitOf 2 n) || !s.svc.running then 0
  else if resetting s 2 n then 4
  else if n % 8 < 4 || confidential s then 1
  else if (svcAt s n).task.isSome then 3
  else 2

/-- The SVC block (R227). -/
def readSvc (s : State) (r : Reg) : Nat :=
  match r with
  | .svcFwStatus =>
    wordOf [(s.svc.version, 0, 16), (s.nv.fw.floor, 16, 8), (bit s.svc.bFailed, 29, 1), (bit s.svc.aFailed, 30, 1),
      (bit s.svc.active, 31, 1)]
  | .svcCoreState n => if n < 32 then wordOf [(svcCoreCode s n, 0, 3), ((svcAt s n).resets, 8, 8)] else 0
  | .svcUserCtrl =>
    if confidential s then 0
    else wordOf [(tgetD s.svc.pend 96 s.svc.userEn, 0, 8), (bit (decide (s.svc.pend ≠ [])), 31, 1)]
  | .svcUserKey k w =>
    if confidential s || decide (8 ≤ k) || decide (12 ≤ w) then 0
    else tgetD s.svc.pend (12 * k + w) (tgetD s.svc.userKeys (12 * k + w) 0) % 2 ^ 32
  | _ => 0

/-- The CST block (R262). -/
def readCst (s : State) (r : Reg) : Nat :=
  let on (c : Nat) (v : Nat) : Nat := if c < 64 && cluInService s c then v else 0
  match r with
  | .cstCluCfg c =>
    on c (wordOf [((cluAt s c).pend.getD (cluAt s c).cacheSegs, 0, 5), (bit (cluAt s c).pend.isSome, 31, 1)])
  | .cstCluState c => on c (wordOf [(scratchUsed s c, 0, 15), ((cluAt s c).deviceSegs, 16, 5)])
  | .cstCluErr c => on c (wordOf [((cluAt s c).corrected, 0, 16), ((cluAt s c).uncorrected, 24, 8)])
  | .cstCluHits c => on c ((cluAt s c).hits % 2 ^ 64)
  | .cstCluMisses c => on c ((cluAt s c).misses % 2 ^ 64)
  | .cstCluSpilled c => on c ((cluAt s c).spilled % 2 ^ 64)
  | _ => 0

/-- Banks of a stack that hold 64 slots (R248). -/
def hotBanks (k : Stack) : Nat :=
  let banks := (k.slots.map fun (q : HbmReq) => q.bank).foldl linsert []
  (banks.filter fun b => 64 ≤ (k.slots.filter fun (q : HbmReq) => q.bank = b).length).length

/-- The MEM block (R263). -/
def readMem9 (s : State) (r : Reg) : Nat :=
  let on (k : Nat) (v : Nat) : Nat := if k < 8 && !stackOff s k then v else 0
  match r with
  | .memBadgerCtrl => s.hbm.periodH
  | .memPoisonState =>
    wordOf [((s.poison.filter fun (e : Nat × Poison) => e.2.tabled).length, 0, 17), (bit s.hbm.poisonOverflow, 31, 1)]
  | .memStackState k =>
    on k (wordOf [((stackAt s k).slots.length, 0, 12), (hotBanks (stackAt s k), 16, 6), ((stackAt s k).state, 30, 2)])
  | .memStackErr k => on k (wordOf [((stackAt s k).corrected, 0, 16), ((stackAt s k).uncorrected, 16, 16)])
  | .memBadgerStat k => on k (wordOf [((stackAt s k).chunk, 0, 28), ((stackAt s k).passes, 48, 16)])
  | .memRepair k =>
    on k (wordOf [((repairOf s k).queue.length, 0, 8), ((stackAt s k).appliedLast, 8, 8), ((repairOf s k).remaps, 16, 8),
      ((repairOf s k).retired.length, 24, 8)])
  | _ => 0

/-- LAYOUT as a number. -/
def layoutCode (l : Layout) : Nat :=
  match l with
  | .plain => 0
  | .switching => 1
  | .protected_ => 2

/-- A stack's cipher engine. -/
def cipherAt (s : State) (k : Nat) : Cipher := tgetD s.ime.ciphers k Cipher.init

/-- The IME block (R282). -/
def readIme (s : State) (r : Reg) : Nat :=
  let on (k : Nat) (v : Nat) : Nat := if k < 8 && !stackOff s k then v else 0
  match r with
  | .imeStatus => wordOf [(s.ime.keys.length, 0, 9), (layoutCode s.ime.layout, 30, 2)]
  | .imeTagMisses k => on k ((cipherAt s k).tagReads % 2 ^ 64)
  | .imeMerges k => on k ((cipherAt s k).merges % 2 ^ 64)
  | .imeList k => on k (wordOf [((cipherAt s k).list.length, 0, 9), ((cipherAt s k).leftUnwritten, 16, 16)])
  | _ => 0

/-- KIND of a plan as a number. -/
def planKindCode (k : PlanKind) : Nat :=
  match k with
  | .any_ => 0
  | .expect => 1
  | .unused => 2

/-- LNK_PORT_STATE (Table 11-17). -/
def readPortState (x : Port) : Nat :=
  wordOf [(portCode x.state, 0, 4), (x.lanes, 4, 4), (x.check, 8, 3), (bit (portAccepted x), 12, 1), (bit x.secured, 13, 1),
    (bit x.peer.isSome, 14, 1)]

/-- The LNK block (R312). -/
def readLnk (s : State) (r : Reg) : Nat :=
  let on (p : Nat) (f : Port → Nat) : Nat := if p < 23 then f (portOf s p) else 0
  match r with
  | .lnkCfg =>
    wordOf [(s.lnk.hopLimit, 0, 4), (bit s.lnk.boardDirect, 4, 1), (s.lnk.wS, 8, 4), (s.lnk.wQ, 12, 4), (s.lnk.wB, 16, 4),
      (s.lnk.stallMs, 20, 8)]
  | .lnkRtAddr => wordOf [(s.lnk.index, 0, 16), (s.lnk.table, 16, 5)]
  | .lnkRtData => s.lnk.entry % 2 ^ 64
  | .lnkPortState p => on p readPortState
  | .lnkPortCtrl p => on p fun x => wordOf [(bit x.enable, 0, 1), (bit x.accept, 1, 1), (bit x.allowDegraded, 3, 1)]
  | .lnkPortPlan p => on p fun x => wordOf [(x.plan.node, 0, 24), (x.plan.port, 32, 8), (planKindCode x.plan.kind, 62, 2)]
  | .lnkPortPeer p => on p fun x =>
    match x.peer with
    | some q => wordOf [(q.node, 0, 24), (q.port, 32, 8)]
    | none => 0
  | .lnkPortErr p => on p fun x => wordOf [(x.drops, 0, 16), (x.lost, 16, 8), (x.retrains, 24, 8)]
  | .lnkPortCrc p => on p fun x => x.crcFails % 2 ^ 64
  | .lnkPortTx p => on p fun x => x.txFlits % 2 ^ 64
  | _ => 0

/-- ROLE as a number (Table 12-2). -/
def roleCode (r : Role) : Nat :=
  match r with
  | .worker => 0
  | .candidate => 1
  | .standby => 2
  | .active => 3
  | .held => 4

/-- A WMK_EVENTS field: the event's handle, or null. -/
def evHandle (e : Option Nat) : Nat :=
  match e with
  | some slot => mkHandle Hk.ev slot
  | none => 0

/-- The WMK block (R335). -/
def readWmk (s : State) (r : Reg) : Nat :=
  let w := s.wmk
  let g := w.cfgPend.getD w.cfg
  match r with
  | .wmkValue => waymarkValue s % 2 ^ 64
  | .wmkTime => w.tb % 2 ^ 64
  | .wmkStatus =>
    wordOf [(if w.synced then min 65535 (ownBound s) else 65535, 0, 16), (w.planStatus, 26, 2), (bit w.synced, 28, 1),
      (roleCode w.role, 29, 3)]
  | .wmkMgrCfg =>
    wordOf [(g.prio, 0, 4), (w.lead, 4, 7), (bit g.top, 11, 1), (bit w.ppsEn, 12, 1), (bit w.cfgPend.isSome, 13, 1)]
  | .wmkCand i => g.cands.getD i 0
  | .wmkParent => g.parent
  | .wmkEvents => wordOf [(evHandle w.arriveEv, 0, 32), (evHandle w.advanceEv, 32, 32)]
  | .wmkPlanBase => w.planBase / 64 * 64 % 2 ^ 64
  | .wmkStats => wordOf [(w.late, 0, 8), (w.repeatArrive, 8, 8), (w.ppsIgnored, 16, 8), (w.takeovers, 24, 8)]
  | _ => 0

/-- Segments a collective engine holds open. -/
def engSegs (s : State) (e : Nat) : Nat :=
  (s.col.ops.map fun (o : TrigOp) =>
    (o.segs.filter fun (g : Nat × Seg) => decide (g.2.engine = e) && g.2.opened && !g.2.closed).length).sum

/-- Operations running on a collective engine. -/
def runningOps (s : State) (e : Nat) : Nat :=
  (s.col.ops.filter fun (o : TrigOp) => decide (o.state = .running) && opOn o e).length

/-- STATE of a collective engine (Table 13-12). -/
def colEngCode (s : State) (e : Nat) : Nat :=
  if partOff s (e / 8) || s.flt.masked.contains (unitOf 3 e) then 3
  else if resetting s 3 e then 2
  else if runningOps s e = 0 then 0
  else 1

/-- The COL block (R364). -/
def readCol (s : State) (r : Reg) : Nat :=
  let on (e : Nat) (v : Nat) : Nat := if e < 32 && !partOff s (e / 8) then v else 0
  match r with
  | .colCfg => wordOf [(s.col.resendMs, 0, 4), (s.col.resendLimit, 8, 3), (bit s.col.switchEn, 16, 1)]
  | .colTrigUsed => wordOf [(s.col.ops.length, 0, 18)]
  | .colEngState e =>
    if 32 ≤ e then 0
    else
      let q := (s.col.ops.filter fun (o : TrigOp) => decide (o.state = .queued) && decide (o.engine = e)).length
      wordOf [(on e (runningOps s e), 0, 3), (on e (min 255 q), 8, 8), (on e (engSegs s e), 16, 5), (colEngCode s e, 30, 2)]
  | .colEngTx e => on e ((colEng s e).tx % 2 ^ 64)
  | .colEngRx e => on e ((colEng s e).rx % 2 ^ 64)
  | .colEngErr e => on e (wordOf [((colEng s e).resends, 0, 16), ((colEng s e).aborts, 16, 16)])
  | .colSwCaps n =>
    match tget s.col.caps n with
    | some c => wordOf [(c.memKib, 16, 24), (c.maxMembers, 40, 16), (c.types, 56, 2), (1, 63, 1)]
    | none => 0
  | _ => 0

/-- The ING block (R401). -/
def readIng (s : State) (r : Reg) : Nat :=
  match r with
  | .ingStatus =>
    wordOf [((escapeUsed s + 1023) / 1024, 0, 14), (if s.ing.held then (poolOf s 0).free.length else 0, 20, 10),
      (bit s.ing.held, 31, 1)]
  | .ingCfg => s.ing.idleUs
  | .ingStreamState n =>
    match streamAt s n with
    | some x => wordOf [(min 65535 x.rtt, 0, 16), (bufsHeld s n, 16, 10), (streamCode x.state, 28, 4)]
    | none => 0
  | .ingStreamLanded n =>
    match streamAt s n with
    | some x => x.landed % 2 ^ 64
    | none => 0
  | .ingStreamErr n =>
    match streamAt s n with
    | some x => wordOf [(x.holds, 0, 8), (x.overruns, 8, 8), (x.gaps, 16, 16)]
    | none => 0
  | _ => 0

/-- Does a buddy slot hold a complete copy? -/
def slotWhole (b : Option BuddySlot) : Bool :=
  match b with
  | some x => x.whole
  | none => false

/-- The CKP block (R424). -/
def readCkp (s : State) (r : Reg) : Nat :=
  let k := s.ckp
  match r with
  | .ckpCfg => k.waitS
  | .ckpBuddyCfg =>
    let v := k.pend.getD (k.enable, k.gib, k.src)
    wordOf [(v.2.2, 0, 24), (v.2.1, 32, 7), (bit v.1, 62, 1), (bit k.pend.isSome, 63, 1)]
  | .ckpBuddyState => wordOf [(k.region.length, 0, 7), (bit (slotWhole k.slotB), 30, 1), (bit (slotWhole k.slotA), 31, 1)]
  | .ckpStats => wordOf [(k.done, 0, 16), (k.failed, 16, 8), (k.skipped, 24, 8)]
  | .ckpBytesOut => k.bytesOut % 2 ^ 64
  | _ => 0

/-- SESSION as a number (Table 17-5). -/
def sessCode (x : SessState) : Nat :=
  match x with
  | .none_ => 0
  | .opening => 1
  | .open_ => 2
  | .closing => 3

/-- SEC_STATUS (Table 17-15); the key-slot count reads 0 in confidential mode (R452). -/
def readSecStatus (s : State) : Nat :=
  wordOf [(if confidential s then 0 else s.sec.keys.length, 0, 11), (s.nv.otp.tamper, 16, 7),
    (bit (decide (s.nv.otp.tamper ≠ 0)), 27, 1), (bit s.nv.otp.tray.isSome, 28, 1), (bit s.nv.otp.root.isSome, 29, 1),
    (sessCode s.sec.session, 30, 2)]

/-- The SEC and LCS blocks. -/
def readSec (s : State) (r : Reg) : Nat :=
  match r with
  | .secStatus => readSecStatus s
  | .secAlarm => wordOf [(s.sec.alarmLast, 0, 8), (s.sec.alarmCount, 24, 8)]
  | .lcsState => lcsWord s
  | .lcsCmd => s.lcs.target
  | .lcsResult =>
    wordOf [(s.lcs.reason, 0, 8), (s.lcs.status, 8, 8), (bit (s.lcs.busy.isSome || s.lcs.programming), 31, 1)]
  | _ => 0

/-- FLT_STATUS (Table 19-14). -/
def readFltStatus (s : State) : Nat :=
  let faulted := (s.ctxs.filter fun (e : Nat × Ctx) => e.2.state = .faulted).length
  let parts := ((List.range 4).map fun p => bitAt (partInReset s p) p).sum
  wordOf [(faulted, 0, 13), (min 255 s.flt.engines.length, 13, 8), (parts, 24, 4), (s.flt.haltCause, 28, 3),
    (bit (decide (s.flt.haltCause ≠ 0)), 31, 1)]

/-- The FLT block (R494, R495). -/
def readFlt (s : State) (r : Reg) : Nat :=
  match r with
  | .fltStatus => readFltStatus s
  | .fltResetCmd => wordOf [(s.flt.cmdUnit, 0, 20), (s.flt.cmdLevel, 20, 2)]
  | .fltResetResult => wordOf [(s.flt.resStatus, 8, 8), (bit s.flt.resBusy.isSome, 31, 1)]
  | .fltCounts => wordOf [(s.flt.engResets, 0, 16), (s.flt.partResets, 16, 8), (s.flt.chipResets, 24, 8)]
  | .fltRecHead => s.flt.records
  | .fltRecSel => s.flt.sel
  | .fltRecData w =>
    match s.flt.ring.find? fun (x : FltRec) => x.seq % 256 = s.flt.sel with
    | some x => if w < 8 then ofLe (((fltBytes x).drop (4 * w)).take 4) else 0
    | none => 0
  | _ => 0

/-- OWL_STATUS (Table 20-11). -/
def readOwlStatus (s : State) : Nat :=
  wordOf [(s.owl.replans, 0, 16), (s.owl.alarms, 16, 8), (s.nv.retired.length, 24, 6), (bit s.owl.factory, 30, 1),
    (bit (decide (s.nv.log.state = 2)), 31, 1)]

/-- The OWL block (R519): OWL_CLU loads at M12, the logbook registers at M14. -/
def readOwl (s : State) (r : Reg) : Nat :=
  match r with
  | .owlStatus => readOwlStatus s
  | .owlPolReq l => s.owl.polReq.getD l 0
  | .owlPolApplied l => s.owl.polApplied.getD l 0
  | .owlPolOvr => s.owl.polOvr
  | .owlLogState =>
    if s.log.mounted then wordOf [(s.log.retries, 0, 16), (s.nv.log.spares, 21, 9), (s.nv.log.state, 30, 2)]
    else wordOf [(3, 30, 2)]
  | .owlLogUse =>
    if s.log.mounted then
      let crit := (s.nv.log.blocks.filter fun (b : List LogRec) => b.any fun (x : LogRec) => x.critical).length
      wordOf [(s.log.dropped, 0, 8), (crit, 8, 12), (s.nv.log.dataBlocks, 20, 12)]
    else 0
  | .owlClu c =>
    match tget s.owl.clu c with
    | some p =>
      let st := if cluRetired s c then 2 else if partOff s (c / 16) then 3 else p.state
      wordOf [(p.mx, 0, 11), (p.vc, 11, 11), (min 255 p.slack, 22, 8), (st, 30, 2)]
    | none => 0
  | _ => 0

/-- PWR_STATUS (Table 20-19). -/
def readPwrStatus (s : State) : Nat := wordOf [(effectiveCap s, 0, 12), (capSource s, 14, 2), (s.pwr.powerW, 16, 16)]

/-- The PWR block (R520). -/
def readPwr (s : State) (r : Reg) : Nat :=
  match r with
  | .pwrStatus => readPwrStatus s
  | .pwrCap => s.pwr.cap
  | .pwrInterval =>
    wordOf [(s.pwr.intervalPending.getD s.pwr.intervalMin, 0, 6), (bit s.pwr.intervalPending.isSome, 31, 1)]
  | .pwrEnergy => s.led.energy % 2 ^ 64
  | .pwrPeriodStart i => (periodOf s i).start % 2 ^ 64
  | .pwrPeriodCfg i =>
    wordOf [((periodOf s i).cap, 0, 12), ((periodOf s i).price, 16, 4), (bit (periodOf s i).valid, 31, 1)]
  | _ => 0

/-- ALERTS: a bit per code of Table 21-3. -/
def alertBits (s : State) : Nat :=
  ((List.range 10).map fun n => bitAt (alertOf s (alertCodes.getD n 0)).pending n).sum

/-- The MGT block (R533). -/
def readMgt (s : State) (r : Reg) : Nat :=
  match r with
  | .mgtStatus =>
    wordOf [(s.mgt.dynAddr.getD 0, 0, 7), (bit s.mgt.dynAddr.isSome, 7, 1), (bit s.mgt.ibiEn, 15, 1), (alertBits s, 16, 10)]
  | .mgtTrayCap => s.mgt.trayCap
  | .mgtErr => wordOf [(s.mgt.discarded, 0, 16), (s.mgt.crcFails, 16, 8), (s.mgt.uartFraming, 24, 8)]
  | _ => 0

/-- The TSK block (Tables 05-12, 05-13). -/
def readTsk (s : State) (r : Reg) : Nat :=
  match r with
  | .tskPartReady p => if p < 4 then wordOf [(readyCount s p, 0, 17)] else 0
  | .tskPartOverflow p => if p < 4 then min (2 ^ 32 - 1) (overflowCount s p) else 0
  | _ => 0

/-- What a register reads as, whole; a write-only field reads 0, as does a reserved offset (R7, R8, R64). -/
def regRead (s : State) (r : Reg) : Nat :=
  match r with
  | .clkMsStatus | .clkMsFault | .clkMsCtrl => readClk s r
  | .hifPoolA | .hifPoolB | .hifPoolC | .hifPoolD => readHif s r
  | .hifVfQuotaA v | .hifVfQuotaB v | .hifVfQuotaC v | .hifVfQuotaD v | .hifVfPlace v | .hifVfPending v
  | .hifVfState v => if vfLegal v then readHif s r else 0
  | .hifVfCtrl _ => 0
  | .vfwIdent v | .vfwNode v | .vfwState v | .vfwQuotaA v | .vfwQuotaB v | .vfwQuotaC v | .vfwQuotaD v
  | .vfwMode v => if vfLegal v then readVfw s r else 0
  | .cmdDbSq _ | .cmdDbCq _ => 0
  | .cmdSvqSqBase _ | .cmdSvqCqBase _ | .cmdSvqCfg _ => readCmd s r
  | .tskPartReady _ | .tskPartOverflow _ => readTsk s r
  | .mxeEngState _ | .mxeEngMaskLo _ | .mxeEngMaskHi _ | .mxeEngShape _ | .mxeEngErr _ | .mxeEngFlags _ => readMxe s r
  | .mxeEngValidWf _ | .mxeEngDummyWf _ | .mxeEngStall _ | .mxeCtrl => readMxe s r
  | .vcuCluMask _ _ | .vcuCluErr _ | .vcuCluAlu _ | .vcuCluBusy _ => readVcu s r
  | .svcFwStatus | .svcCoreState _ | .svcUserCtrl | .svcUserKey _ _ => readSvc s r
  | .cstCluCfg _ | .cstCluState _ | .cstCluErr _ | .cstCluHits _ | .cstCluMisses _ | .cstCluSpilled _ => readCst s r
  | .memBadgerCtrl | .memPoisonState | .memStackState _ | .memStackErr _ | .memBadgerStat _ | .memRepair _ => readMem9 s r
  | .imeStatus | .imeTagMisses _ | .imeMerges _ | .imeList _ => readIme s r
  | .lnkCfg | .lnkRtAddr | .lnkRtData | .lnkRtCmd | .lnkPortState _ | .lnkPortCtrl _ | .lnkPortPlan _ => readLnk s r
  | .lnkPortPeer _ | .lnkPortErr _ | .lnkPortCrc _ | .lnkPortTx _ => readLnk s r
  | .wmkValue | .wmkTime | .wmkStatus | .wmkMgrCfg | .wmkCand _ | .wmkParent | .wmkEvents | .wmkPlanBase => readWmk s r
  | .wmkPlanCtrl | .wmkStepSet | .wmkTimeSet => 0
  | .wmkStats => readWmk s r
  | .colCfg | .colTrigUsed | .colEngState _ | .colEngTx _ | .colEngRx _ | .colEngErr _ | .colSwCaps _ => readCol s r
  | .ingStatus | .ingCfg | .ingStreamState _ | .ingStreamLanded _ | .ingStreamErr _ => readIng s r
  | .ckpCfg | .ckpBuddyCfg | .ckpBuddyState | .ckpStats | .ckpBytesOut => readCkp s r
  | .secStatus | .secAlarm | .lcsState | .lcsCmd | .lcsResult => readSec s r
  | .lcsToken _ => 0
  | .fltStatus | .fltResetCmd | .fltResetResult | .fltCounts | .fltRecHead | .fltRecSel | .fltRecData _ => readFlt s r
  | .owlStatus | .owlPolReq _ | .owlPolApplied _ | .owlPolOvr | .owlLogState | .owlLogUse | .owlClu _ => readOwl s r
  | .owlCtrl => 0
  | .pwrStatus | .pwrCap | .pwrInterval | .pwrEnergy | .pwrPeriodStart _ | .pwrPeriodCfg _ => readPwr s r
  | .mgtStatus | .mgtTrayCap | .mgtErr => readMgt s r
  | .reserved _ => 0

/-- Is a register 64 bits wide? -/
def reg64 (r : Reg) : Bool :=
  match r with
  | .cmdSvqSqBase _ | .cmdSvqCqBase _ | .mxeEngValidWf _ | .mxeEngDummyWf _ | .mxeEngStall _ => true
  | .vcuCluAlu _ | .vcuCluBusy _ | .cstCluHits _ | .cstCluMisses _ | .cstCluSpilled _ | .memBadgerStat _ => true
  | .imeTagMisses _ | .imeMerges _ | .lnkRtData | .lnkPortPlan _ | .lnkPortPeer _ | .lnkPortCrc _ | .lnkPortTx _ => true
  | .wmkValue | .wmkTime | .wmkEvents | .wmkPlanBase | .wmkStepSet | .wmkTimeSet => true
  | .colEngTx _ | .colEngRx _ | .colSwCaps _ | .ingStreamLanded _ | .ckpBuddyCfg | .ckpBytesOut => true
  | .pwrEnergy | .pwrPeriodStart _ => true
  | _ => false

end Sys2Proof.Machine
end

