-- ==== Sys2Proof/Machine/Host.lean ====
section
/-!
DEFINITION. Sys2Proof/Machine/Host.lean: the host link (chapter 03): SR-IOV, VF provisioning and teardown, function
resets, IDE, TDISP and the DOE mailbox with its SPDM responder.
-/
namespace Sys2Proof.Machine

/-! ## Configuration space (R56, R57, R72) -/

/-- Are configuration requests answered normally: the link is in L0 and M6 has been reached (R45, R50, R482)? -/
def configOpen (s : State) : Bool := s.clk.inL0 && decide (6 ≤ s.clk.milestone)

/-- Is the TDI in CONFIG_LOCKED or RUN (R61)? -/
def tdiLocked (s : State) : Bool := decide (s.hif.tdi = .locked) || decide (s.hif.tdi = .run)

/-- Does VF Enable ignore writes: on a KLS-T400-CX while a session is open or the TDI is locked (R72)? -/
def vfEnableHeld (s : State) : Bool := s.nv.otp.cx && (decide (s.sec.session ≠ .none_) || tdiLocked s)

/-- VF Enable as it reads (R72). -/
def vfEnableReads (s : State) : Bool := s.hif.vfEnable && !vfEnableHeld s

/-- Is a VF enabled: VF Enable = 1 and v ≤ NumVFs (R70)? -/
def vfEnabled (s : State) (v : Nat) : Bool := s.hif.vfEnable && decide (1 ≤ v) && decide (v ≤ s.hif.numVfs)

/-! ## COMMIT, RELEASE and their records (R69 to R71) -/

/-- Is the device queue of VF-state records full (R99)? -/
def vfQueueFull (s : State) : Bool := decide (1024 ≤ s.hif.vfRecords.length)

/-- Report a COMMIT (0xF0) or RELEASE (0xF1): LAST_STATUS, and a record where the PF service queue is built (R69, R99). -/
def vfReport (op v status : Nat) (s : State) : State :=
  let s := modVf v (fun e => { e with lastStatus := status }) s
  if (svqOf s 0).isSome then
    let r : VfRecord := { op := op, vf := v, status := status, word := readVfState (vfOf s v) }
    modHif (fun h => { h with vfRecords := h.vfRecords ++ [r] }) s
  else s

/-- Global queue pairs above 0 that are neither committed to a VF nor held by a built PF queue pair (R65). -/
def freeGlobals (s : State) : List Nat :=
  let taken := ((s.hif.vfs.filter fun (e : Nat × VfEntry) => vfHolds e.2).map fun (e : Nat × VfEntry) => e.2.qpMap).flatten
  (List.range 16384).filter fun q => decide (0 < q) && !taken.contains q && (getQp s q).isNone

/-- Pools found short for a quota: SHORT bits 0 to 6 (Table 03-19). -/
def shortPools (s : State) (q : VfQuota) : Nat :=
  bitAt (decide (poolFree s Hk.ctx < q.contexts)) 0
    + bitAt (decide (poolFree s Hk.qp < q.queuePairs) || decide ((freeGlobals s).length < q.queuePairs)) 1
    + bitAt (decide (poolFree s Hk.mem < q.memObjects)) 2 + bitAt (decide (poolFree s Hk.ev < q.events)) 3
    + bitAt (decide (poolFree s Hk.graph < q.graphs)) 4 + bitAt (decide (freeGib s < q.hbmGib)) 5
    + bitAt (decide (poolFree s Hk.key < q.keySlots)) 6

/-- A COMMIT processed from IDLE (Table 03-20); `good` is the status where it is accepted. -/
def commitIdle (v good : Nat) (s : State) : State :=
  let q := (vfOf s v).quota
  let clear := modVf v (fun e => { e with short := 0 }) s
  if !vfEnabled s v || decide (256 * s.hif.vfBarMib < q.queuePairs) then vfReport 0xF0 v St.refusedState clear
  else
    let short := shortPools s q
    if short ≠ 0 then vfReport 0xF0 v St.refusedState (modVf v (fun e => { e with short := short }) s)
    else
      let qs := (freeGlobals s).take q.queuePairs
      vfReport 0xF0 v good (modVf v (fun e => { e with state := .active, short := 0, qpMap := qs }) s)

/-- A COMMIT write (R70). While the record queue is full it has no effect, and LAST_STATUS reads RETRY_LATER (R99). -/
def commitVf (v : Nat) (s : State) : State :=
  if vfQueueFull s then modVf v (fun e => { e with lastStatus := St.retryLater }) s
  else if confidential s then vfReport 0xF0 v St.notPermitted s
  else
    let refused := vfReport 0xF0 v St.refusedState (modVf v (fun e => { e with short := 0 }) s)
    match (vfOf s v).state with
    | .idle => commitIdle v St.done s
    | .active => refused
    | .teardown => if vfEnabled s v then modVf v (fun e => { e with state := .held }) s else refused
    | .held => refused

/-- COMMIT -/
def execCommit (src : Src) (v : Nat) (s : State) : Host.Outcome State Fault Refusal :=
  .next (if srcOpen s src && vfLegal v && !regBlocked s (.hifVfCtrl v) true then commitVf v s else s)

/-- Teardown begins (R73): doorbells dropped, descriptor fetch stopped, page 0 at its reset values (R87), and no
completion record is written any more. -/
def beginTeardown (v : Nat) (flr : Bool) (s : State) : State :=
  let s := modVf v (fun e => { e with state := .teardown, tdStep := .begun, tdFlr := flr, squashed := 0 }) s
  let s := mapDescs (fun d => if d.fn = v then { d with noRecord := true } else d) s
  modCmd (fun c => { c with
    pages := tdel c.pages v
    hearts := tdel c.hearts v
    qps := tmapv c.qps fun _ (p : QueuePair) => if p.fn = v then { p with state := .aborting } else p }) s

/-- A held COMMIT is given up (Table 03-20). -/
def dropHeld (v : Nat) (s : State) : State :=
  vfReport 0xF0 v St.aborted (modVf v (fun e => { e with state := .teardown, tdFlr := false }) s)

/-- A RELEASE write (R70). -/
def releaseVf (v : Nat) (s : State) : State :=
  if vfQueueFull s then modVf v (fun e => { e with lastStatus := St.retryLater }) s
  else
    let owe := modVf v (fun e => { e with releases := e.releases + 1, tdFlr := false })
    match (vfOf s v).state with
    | .idle => vfReport 0xF1 v St.done s
    | .active => owe (beginTeardown v false s)
    | .teardown => owe s
    | .held => owe (dropHeld v s)

/-- RELEASE -/
def execRelease (src : Src) (v : Nat) (s : State) : Host.Outcome State Fault Refusal :=
  .next (if srcOpen s src && vfLegal v && !regBlocked s (.hifVfCtrl v) true then releaseVf v s else s)

/-- A VF stops being enabled: VF Enable is cleared, or NumVFs is lowered below it (Table 03-20). -/
def disableVf (v : Nat) (s : State) : State :=
  match (vfOf s v).state with
  | .idle => s
  | .active => beginTeardown v false s
  | .teardown => modVf v (fun e => { e with tdFlr := false }) s
  | .held => dropHeld v s

/-- Every VF that is no longer enabled tears down, in parallel (R73). -/
def disableVfs (s : State) : State :=
  ((tkeys s.hif.vfs).filter fun v => !vfEnabled s v).foldl (fun s v => disableVf v s) s

/-- NUMVFS_WRITE (R57): a value above TotalVFs is taken as 512. -/
def execNumvfsWrite (n : Nat) (s : State) : Host.Outcome State Fault Refusal :=
  .next (if configOpen s then disableVfs (modHif (fun h => { h with numVfs := min 512 n }) s) else s)

/-- VF_ENABLE_WRITE (R72): ignored while a session is open or the TDI is locked. -/
def execVfEnableWrite (on : Bool) (s : State) : Host.Outcome State Fault Refusal :=
  .next (if configOpen s && !vfEnableHeld s then disableVfs (modHif (fun h => { h with vfEnable := on }) s) else s)

/-- VF_RESIZABLE_BAR_WRITE (R57): 1, 2 or 4 MiB; another value is taken as the nearest (R10). -/
def execVfResizableBarWrite (mib : Nat) (s : State) : Host.Outcome State Fault Refusal :=
  .next (if configOpen s then
    modHif (fun h => { h with vfBarMib := if mib ≤ 1 then 1 else if mib ≤ 3 then 2 else 4 }) s else s)

/-! ## Teardown steps (R73, R71) -/

/-- Is a teardown of a VF running, at a given step? -/
def tdAt (s : State) (v : Nat) (st : TdStep) : Bool :=
  (decide ((vfOf s v).state = .teardown) || decide ((vfOf s v).state = .held)) && decide ((vfOf s v).tdStep = st)

/-- VF_HOST_DRAIN: what was issued drains; reads still outstanding are squashed, their tags held in quarantine. -/
def execVfHostDrain (v reads : Nat) (s : State) : Host.Outcome State Fault Refusal :=
  .next (if tdAt s v .begun then
    modHif (fun h => { h with quarantine := h.quarantine + reads })
      (modVf v (fun e => { e with tdStep := .drained, squashed := reads }) s)
  else s)

/-- The contexts of a function. -/
def ctxsOf (s : State) (fn : Nat) : List Nat :=
  (s.ctxs.filter fun (e : Nat × Ctx) => e.2.fn = fn).map Prod.fst

/-- Every context of a function is destroyed by forced abort without completion records; its service queue goes. -/
def destroyFn (fn : Nat) (s : State) : State :=
  let s := mapDescs (fun d => if d.fn = fn then { d with noRecord := true } else d) s
  let s := abortDescs (fun d => d.fn = fn) ((ctxsOf s fn).foldl forceDestroy s)
  (s.cmd.qps.filter fun (e : Nat × QueuePair) => e.2.fn = fn).foldl (fun s (e : Nat × QueuePair) => freeQpSlot e.1 s) s

/-- VF_CONTEXTS_ABORTED -/
def execVfContextsAborted (v : Nat) (s : State) : Host.Outcome State Fault Refusal :=
  .next (if tdAt s v .drained then modVf v (fun e => { e with tdStep := .aborted }) (destroyFn v s) else s)

/-- VF_RESOURCES_ACCOUNTED: resources are accounted back to the VF, and its granules are dirty (R71, R73). -/
def execVfResourcesAccounted (v : Nat) (s : State) : Host.Outcome State Fault Refusal :=
  .next (if tdAt s v .aborted then
    modHif (fun h => { h with dirty := tput h.dirty v (vfOf s v).quota.hbmGib })
      (modVf v (fun e => { e with tdStep := .accounted }) s)
  else s)

/-- A VF leaves TEARDOWN through IDLE: its resources enter the pools, pending values apply, and each RELEASE owed
completes with DONE (R70, R71). -/
def teardownIdle (v : Nat) (s : State) : State :=
  let e := vfOf s v
  let d := tgetD s.hif.dirty v 0
  let s := modHif (fun h => { h with dirty := tupd (tdel h.dirty v) 0 0 fun n => n + d }) s
  let s := modVf v (fun e => { e with
    state := .idle, quota := shownQuota e, pend := [], qpMap := [], releases := 0, tdFlr := false, squashed := 0 }) s
  (List.range e.releases).foldl (fun s _ => vfReport 0xF1 v St.done s) s

/-- VF_TEARDOWN_END -/
def execVfTeardownEnd (v : Nat) (s : State) : Host.Outcome State Fault Refusal :=
  .next (if tdAt s v .accounted then
    let e := vfOf s v
    if e.state = .held then commitIdle v St.doneHeld (teardownIdle v s)
    else if e.tdFlr then modVf v (fun e => { e with state := .active, tdFlr := false, squashed := 0 }) s
    else teardownIdle v s
  else s)

/-- GRANULE_ZEROED (R74): one dirty granule of a function is clean. -/
def execGranuleZeroed (fn : Nat) (s : State) : Host.Outcome State Fault Refusal :=
  .next (if 0 < tgetD s.hif.dirty fn 0 then modHif (fun h => { h with dirty := tmod h.dirty fn fun n => n - 1 }) s else s)

/-- COMPLETION_TIMEOUT (R56, R73): a read that fails a fetch stops its queue pair (R90), one that fails a descriptor ends
it with ABORTED, and one that was squashed gives its tag back. -/
def execCompletionTimeout (qp sub : Nat) (fetch : Bool) (s : State) : Host.Outcome State Fault Refusal :=
  if fetch then execFetchError qp s
  else .next (match findDesc s qp sub with
    | some d =>
      if dRuns d || decide (d.phase = .started) then endDesc qp sub (resOf St.aborted) s else s
    | none => modHif (fun h => { h with quarantine := h.quarantine - 1 }) s)

/-! ## Function resets (R75, R472) -/

/-- The MSI-X table of a function at reset. -/
def clearMsix (fn : Nat) (s : State) : State :=
  modHif (fun h => { h with
    msix := h.msix.filter fun (e : Nat × MsixEntry) => e.1 / 4096 ≠ fn
    msixPending := h.msixPending.filter fun k => k / 4096 ≠ fn }) s

/-- VF_FLR (R75): a teardown that returns the VF to ACTIVE; absorbed by one already running. -/
def execVfFlr (v : Nat) (s : State) : Host.Outcome State Fault Refusal :=
  .next (if configOpen s && vfEnabled s v then
    let s := clearMsix v s
    if (vfOf s v).state = .active then beginTeardown v true s else s
  else s)

/-- The TDI enters ERROR from CONFIG_LOCKED or RUN, and any session aborts (R61, R453). -/
def tdiError (s : State) : State :=
  if tdiLocked s then sessionAbort Cls.hostLink (modHif (fun h => { h with tdi := .error }) s) else s

/-- An FLR of the PF (R75): every VF torn down, every PF object destroyed, every HIF_VF entry at reset. -/
def pfFlr (s : State) : State :=
  let fns := 0 :: tkeys s.hif.vfs
  let s := fns.foldl (fun s f => clearMsix f (destroyFn f s)) s
  let gib := (s.hif.vfs.map fun (e : Nat × VfEntry) => if vfHolds e.2 then e.2.quota.hbmGib else 0).sum
  let s := modHif (fun h => { h with
    vfs := [], numVfs := 0, vfEnable := false, vfRecords := []
    dirty := [(0, tgetD h.dirty 0 0 + gib)] }) s
  tdiError (modCmd (fun c => { c with pages := [], hearts := [] }) s)

/-- PF_FLR -/
def execPfFlr (s : State) : Host.Outcome State Fault Refusal := .next (if configOpen s then pfFlr s else s)

/-- HOST_LINK_ERROR (R59, R472): reported through AER, with a fault record and no reset. -/
def execHostLinkError (s : State) : Host.Outcome State Fault Refusal :=
  .next (if s.clk.inL0 then emit .aer (fltRecord Cls.hostLink 0 false false 0 0 0 s) else s)

/-- HOST_LINK_DOWN (R472): while PERST_N is high the link's loss acts as an FLR of the PF. -/
def execHostLinkDown (s : State) : Host.Outcome State Fault Refusal :=
  .next (if s.clk.inL0 && s.mod.perstN then
    pfFlr (fltRecord Cls.hostLink 0 false false 0 0 0 (modClk (fun k => { k with inL0 := false }) s))
  else s)

/-! ## IDE, TDISP and the DOE mailbox (R60 to R62, R429) -/

/-- Kinds of DOE answers: discovery. -/
def Doe.discovery : Nat := 0
/-- A certificate chain. -/
def Doe.cert : Nat := 1
/-- CHALLENGE_AUTH. -/
def Doe.challenge : Nat := 2
/-- MEASUREMENTS. -/
def Doe.meas : Nat := 3
/-- KEY_EXCHANGE_RSP. -/
def Doe.keyEx : Nat := 4
/-- KP_ACK of IDE_KM. -/
def Doe.ideKm : Nat := 5
/-- A TDISP response: 1 accepted, 0 refused, then the state. -/
def Doe.tdisp : Nat := 6
/-- An SPDM ERROR: the public-key unit has no room, or the key or chain is absent. -/
def Doe.error : Nat := 7

/-- The TDI state as TDISP numbers it: 0 CONFIG_UNLOCKED, 1 CONFIG_LOCKED, 2 RUN, 3 ERROR. -/
def tdiCode (t : TdiState) : Nat :=
  match t with
  | .unlocked => 0
  | .locked => 1
  | .run => 2
  | .error => 3

/-- Answer a TDISP request. -/
def tdispAnswer (ok : Bool) (s : State) : State :=
  emit (.doe Doe.tdisp (leBytes 1 (bitAt ok 0) ++ leBytes 1 (tdiCode s.hif.tdi))) s

/-- Are IDE_KM and TDISP messages heard: the mailbox is served and a secured session stands (R62)? -/
def securedOpen (s : State) : Bool := configOpen s && s.hif.spdmSecured

/-- An IDE stream. -/
def ideOf (s : State) (n : Nat) : IdeStream :=
  tgetD s.hif.ide n { keyed := false, insecure := false, bound := false, key := 0 }

/-- Change an IDE stream. -/
def modIde (n : Nat) (f : IdeStream → IdeStream) (s : State) : State :=
  modHif (fun h => { h with ide := tput h.ide n (f (ideOf s n)) }) s

/-- IDE_KM_KEY_PROG (R60): stream 0 is the link stream, 1 to 4 are selective. -/
def execIdeKmKeyProg (stream : Nat) (key : BitVec 256) (s : State) : Host.Outcome State Fault Refusal :=
  .next (if securedOpen s && decide (stream < 5) then
    emit (.doe Doe.ideKm []) (modIde stream (fun x => { x with keyed := true, insecure := false, key := key }) s)
  else s)

/-- IDE_INTEGRITY_FAILURE (R60): the TLP is dropped and the stream becomes insecure; a stream bound to the TDI takes the
TDI to ERROR. -/
def execIdeIntegrityFailure (stream : Nat) (s : State) : Host.Outcome State Fault Refusal :=
  .next (
    let x := ideOf s stream
    if x.keyed && !x.insecure then
      let s := modIde stream (fun x => { x with insecure := true }) s
      if x.bound then tdiError s else s
    else s)

/-- PF_BAR_CHANGE (R61) -/
def execPfBarChange (s : State) : Host.Outcome State Fault Refusal := .next (if configOpen s then tdiError s else s)

/-- LOCK_INTERFACE_REQUEST (R61): refused unless VF Enable is 0 and no VF is in TEARDOWN. -/
def execLockInterfaceRequest (stream : Nat) (s : State) : Host.Outcome State Fault Refusal :=
  .next (if !securedOpen s then s
    else
      let tearing := s.hif.vfs.any fun (e : Nat × VfEntry) => decide (e.2.state = .teardown) || decide (e.2.state = .held)
      if decide (s.hif.tdi = .unlocked) && !s.hif.vfEnable && !tearing && decide (1 ≤ stream) && decide (stream ≤ 4) then
        tdispAnswer true (modHif (fun h => { h with tdi := .locked }) (modIde stream (fun x => { x with bound := true }) s))
      else tdispAnswer false s)

/-- START_INTERFACE_REQUEST (R61) -/
def execStartInterfaceRequest (s : State) : Host.Outcome State Fault Refusal :=
  .next (if !securedOpen s then s
    else if s.hif.tdi = .locked then tdispAnswer true (modHif (fun h => { h with tdi := .run }) s)
    else tdispAnswer false s)

/-- STOP_INTERFACE_REQUEST (R61): back to CONFIG_UNLOCKED; with a session, the TDI leaves RUN through ERROR and the session
aborts. -/
def execStopInterfaceRequest (s : State) : Host.Outcome State Fault Refusal :=
  .next (if !securedOpen s then s
    else if s.sec.session ≠ .none_ then tdiError s
    else
      let s := modHif (fun h => { h with
        tdi := .unlocked, ide := tmapv h.ide fun _ (x : IdeStream) => { x with bound := false } }) s
      tdispAnswer true s)

/-- DOE_DISCOVERY (R62): DOE Discovery 0x00, CMA/SPDM 0x01, secured CMA/SPDM 0x02. -/
def execDoeDiscovery (s : State) : Host.Outcome State Fault Refusal :=
  .next (if configOpen s then emit (.doe Doe.discovery [0x00, 0x01, 0x02]) s else s)

/-- The certificate chain of a slot (R428, R429): slot 0 chain A, or chain C after zeroisation; slot 1 chain B while a
session is open. -/
def slotChain (s : State) (slot : Nat) : Option (List Byte) :=
  if !s.sec.alias_ then none
  else if slot = 0 then some (Config.certChain (if s.nv.otp.chainC then 2 else 0))
  else if slot = 1 ∧ s.sec.session = .open_ then some (Config.certChain 1)
  else none

/-- GET_CERTIFICATE -/
def execGetCertificate (slot : Nat) (s : State) : Host.Outcome State Fault Refusal :=
  .next (if configOpen s then
    match slotChain s slot with
    | some b => emit (.doe Doe.cert b) s
    | none => emit (.doe Doe.error []) s
  else s)

/-- Ask the public-key unit to sign an SPDM answer, or answer ERROR where it has no room or the alias key is not held. -/
def spdmSign (kind : Nat) (msg : List Byte) (s : State) : State :=
  if s.sec.alias_ && pkRoom s 1 then pkAsk (.spdm kind msg) s else emit (.doe Doe.error []) s

/-- SPDM_CHALLENGE (R429): answered with a signature by the alias key over the chain's digest and the nonce. -/
def execSpdmChallenge (slot : Nat) (nonce : BitVec 256) (s : State) : Host.Outcome State Fault Refusal :=
  .next (if configOpen s then
    match slotChain s slot with
    | some b => spdmSign Doe.challenge (leBytes 48 (Config.sha384 b).toNat ++ leBytes 32 nonce.toNat) s
    | none => emit (.doe Doe.error []) s
  else s)

/-- The measurement blocks of Table 17-2, in index order. -/
def measBlocks (s : State) : List Byte :=
  let cfg := if s.sec.session = .open_ then s.sec.config else none
  let dig := fun (f : SessConfig → BitVec 384) => leBytes 48 ((cfg.map fun c => (f c).toNat).getD 0)
  leBytes 48 Config.bootRomDigest.toNat
    ++ (leBytes 48 s.svc.digest.toNat ++ leBytes 2 s.svc.version ++ leBytes 1 (runningKeyIndex s))
    ++ (leBytes 1 (lcNow s) ++ leBytes 4 (Config.featureWord s.nv.otp.cx) ++ leBytes 1 s.nv.otp.tamper)
    ++ dig SessConfig.digest ++ leBytes 48 s.sec.graphChain ++ leBytes 48 s.sec.weightChain ++ dig SessConfig.contribDigest

/-- GET_MEASUREMENTS -/
def execGetMeasurements (nonce : BitVec 256) (s : State) : Host.Outcome State Fault Refusal :=
  .next (if configOpen s then spdmSign Doe.meas (measBlocks s ++ leBytes 32 nonce.toNat) s else s)

/-- KEY_EXCHANGE (R429): the answer carries the responder's ephemeral public value; the secured session stands from its
signature on. -/
def execKeyExchange (share : BitVec 768) (s : State) : Host.Outcome State Fault Refusal :=
  .next (if configOpen s then
    spdmSign Doe.keyEx (leBytes 96 share.toNat ++ padTo 97 0 (Config.ecPublic (freeNow s))) (tookFree s)
  else s)

/-! ## MSI-X of a VF (R66) -/

/-- The bytes of a dword written under byte enables. -/
def enabledBytes (old new be : Nat) : Nat :=
  ((List.range 4).map fun i => (if bitOf be i then bitsOf new (8 * i) 8 else bitsOf old (8 * i) 8) * 2 ^ (8 * i)).sum

/-- A dword of an MSI-X table entry: address low and high, data, mask. -/
def msixDword (e : MsixEntry) (i : Nat) : Nat :=
  if i = 0 then bitsOf e.addr 0 32 else if i = 1 then bitsOf e.addr 32 32 else if i = 2 then e.data else bitAt e.masked 0

/-- An entry with one dword replaced. -/
def msixPut (e : MsixEntry) (i v : Nat) : MsixEntry :=
  if i = 0 then { e with addr := bitsOf e.addr 32 32 * 2 ^ 32 + v }
  else if i = 1 then { e with addr := v * 2 ^ 32 + bitsOf e.addr 0 32 }
  else if i = 2 then { e with data := v }
  else { e with masked := bitOf v 0 }

/-- A message held pending leaves once its vector is unmasked (R93). -/
def msixRelease (fn vec : Nat) (s : State) : State :=
  let k := fn * 4096 + vec
  if !(tgetD s.hif.msix k msixInit).masked && s.hif.msixPending.contains k then
    emit (.msix fn vec) (modHif (fun h => { h with msixPending := h.msixPending.filter fun j => j ≠ k }) s)
  else s

/-- VF_MSIX_WRITE: a dword at an offset of the 64-entry table, per byte enable. -/
def execVfMsixWrite (v off be : Nat) (val : Word) (s : State) : Host.Outcome State Fault Refusal :=
  .next (if configOpen s && vfEnabled s v && decide (off < 1024) then
    let vec := off / 16
    let i := off % 16 / 4
    let put := fun (e : MsixEntry) => msixPut e i (enabledBytes (msixDword e i) val.toNat be)
    msixRelease v vec (modHif (fun h => { h with msix := tupd h.msix (v * 4096 + vec) msixInit put }) s)
  else s)

end Sys2Proof.Machine
end

