-- ==== Sys2Proof/Machine/Registers.lean ====
section
/-!
DEFINITION. Sys2Proof/Machine/Registers.lean: writes of the set-up registers: clamping, references, shadows, the set-up
lock and the halves of 64-bit registers (R8 to R11, R538). A command bit with a row of its own in the table of operations
(COMMIT, RELEASE, BUILD, UNBUILD, doorbells, RETRAIN, LNK_RT_CMD, LOAD, GO, REPLAN, OWL_POL_REQ) acts through that row.
-/
namespace Sys2Proof.Machine

/-! ## Quiescence (R9) -/

/-- Does a task run, or is one staged, on a core of a cluster (R232)? -/
def cluBusy (s : State) (c : Nat) : Bool :=
  s.tsk.launches.any fun (x : Launch) => x.tasks.any fun (e : Nat × TaskState) =>
    match taskCore e.2 with
    | some (.vector, n) => decide (n / 160 = c)
    | some (.matrix, n) => decide (n = c)
    | some (.mover, n) => decide (n = c)
    | _ => false

/-- Does a SERVICE task run on any service core (R227)? -/
def svcBusy (s : State) : Bool := s.svc.cores.any fun (e : Nat × SvcCore) => e.2.task.isSome

/-- Is a block at a quiescent point? -/
def quiescent (s : State) (b : QBlock) : Bool :=
  match b with
  | .clk => decide (s.clk.phase = .running) && decide (s.clk.milestone = 0)
  | .vfEntry v => decide ((vfOf s v).state = .idle)
  | .svqPage fn => (svqOf s fn).isNone
  | .mxe => (List.range 64).all (engQuiet s)
  | .svc => !svcBusy s
  | .cst c => !cluBusy s c && s.mems.all fun (e : Nat × MemObj) => decide (e.2.cluster ≠ some c)
  | .wmk => decide (s.wmk.role = .worker) || decide (s.wmk.role = .candidate) || decide (s.wmk.role = .held)
  | .ckp => (slotsOf s).all fun (e : Bool × BuddySlot) => e.2.whole
  | .pwr => s.led.openIv.isNone

/-! ## Applying quiescent fields -/

/-- CACHE_SEGS of a cluster is applied; where the cache part shrinks, its lines are written back and emptied (R232). -/
def applyCst (c n : Nat) (s : State) : State :=
  let old := (cluAt s c).cacheSegs
  let s := modClu c (fun k => { k with cacheSegs := n, pend := none }) s
  if n < old then modHbm (fun h => { h with cache := h.cache.filter fun (e : Nat × CacheLine) => e.2.home ≠ c }) s else s

/-- The manager's set-up is applied: a HELD chip whose PRIORITY changes runs the election again (R319), a candidate that is
no longer listed is a WORKER, and a newly listed chip enters the election (R316, R318). -/
def applyMgr (g : MgrCfg) (s : State) : State :=
  let prio := s.wmk.cfg.prio
  let s := modWmk (fun w => { w with cfg := g, cfgPend := none }) s
  if s.wmk.role = .worker then maybeElect s
  else if !mayManage s then modWmk (fun w => { w with role := .worker, beaconing := false, rival := none }) s
  else if s.wmk.role = .held ∧ g.prio ≠ prio then startElection s
  else s

/-- Granules of a stack that the pool may give, lowest first, less those that mapped pages fill (R412). -/
def freeGranules (s : State) (k : Nat) : List Nat :=
  if stackOff s k then []
  else
    let top := if s.ime.layout = .plain then 44 else 38
    let gs := (List.range top).filter fun g => !(repairOf s k).retired.contains g && !s.ckp.region.contains (44 * k + g)
    gs.drop ((stackUsed s k + 2 ^ 30 - 1) / 2 ^ 30)

/-- The granules a buddy region takes: ascending granule number, then ascending stack (R412). -/
def regionTake (s : State) (n : Nat) : List Nat :=
  let free := (List.range 8).map fun k => (k, freeGranules s k)
  let all := ((List.range 44).map fun g =>
    (free.filter fun (e : Nat × List Nat) => e.2.contains g).map fun (e : Nat × List Nat) => 44 * e.1 + g).flatten
  all.take n

/-- CKP_BUDDY_CFG is applied (R412): the old region goes back to the pool and is empty; with ENABLE = 1 a new one leaves it,
and where the pool lacks the granules ENABLE reads back 0. Values that change nothing leave the region as it is. -/
def applyBuddy (en : Bool) (gib src : Nat) (s : State) : State :=
  let s := modCkp (fun k => { k with pend := none }) s
  if s.ckp.enable = en ∧ s.ckp.gib = gib ∧ s.ckp.src = src then s
  else
    let s := modCkp (fun k => { k with
      enable := false, gib := gib, src := src, region := [], slotA := none, slotB := none, lastB := false }) s
    if !en then s
    else
      let gs := regionTake s gib
      if gs.length = gib ∧ gib ≤ freeGib s then modCkp (fun k => { k with enable := true, region := gs }) s else s

/-- Pending words of the SVC block are applied. -/
def applySvc (s : State) : State :=
  modSvc (fun v => { v with
    userEn := tgetD v.pend 96 v.userEn
    userKeys := (v.pend.filter fun (e : Nat × Nat) => e.1 < 96).foldl (fun t e => tput t e.1 e.2) v.userKeys
    pend := [] }) s

/-- Pending values of a block are applied, and PENDING clears (R9). -/
def shadowApply (b : QBlock) (s : State) : State :=
  match b with
  | .clk => modClk (fun k => { k with scale := k.scalePending.getD k.scale, scalePending := none }) s
  | .vfEntry v => if vfLegal v then modVf v (fun e => { e with quota := shownQuota e, pend := [] }) s else s
  | .svqPage fn => modPage fn applyPage s
  | .mxe => modMxe (fun m => { m with rampStarts := m.pend.getD m.rampStarts, pend := none }) s
  | .svc => applySvc s
  | .cst c =>
    match (cluAt s c).pend with
    | some n => if c < 64 then applyCst c n s else s
    | none => s
  | .wmk =>
    match s.wmk.cfgPend with
    | some g => applyMgr g s
    | none => s
  | .ckp =>
    match s.ckp.pend with
    | some (en, gib, src) => applyBuddy en gib src s
    | none => s
  | .pwr => applyInterval s

/-- SHADOW_APPLY -/
def execShadowApply (b : QBlock) (s : State) : Host.Outcome State Fault Refusal :=
  .next (if quiescent s b then shadowApply b s else s)

/-! ## Writes by block -/

/-- CLK_MS_CTRL (R8, R55): the RWL field first, then the lock. -/
def writeMsCtrl (v : Nat) (s : State) : State :=
  if s.clk.lock then s
  else
    let n := clampTo 0 10 (bitsOf v 0 4)
    let s := modClk (fun k => { k with scalePending := some n, lock := bitOf v 31 }) s
    if quiescent s .clk then shadowApply .clk s else s

/-- Set one quiescent field of a VF entry, by its PENDING bit. -/
def pendVf (v bit n : Nat) (s : State) : State := modVf v (fun e => { e with pend := tput e.pend bit n }) s

/-- The fields of a VF entry written: PENDING bit and clamped value (R10, R11). -/
def vfFields (s : State) (r : Reg) (v : Nat) : Option (Nat × List (Nat × Nat)) :=
  match r with
  | .hifVfQuotaA n => some (n, [(0, clampTo 1 1024 (bitsOf v 16 11)), (1, clampTo 1 1024 (bitsOf v 0 11))])
  | .hifVfQuotaB n => some (n, [(2, clampTo 0 262144 (bitsOf v 0 19))])
  | .hifVfQuotaC n => some (n, [(8, clampTo 0 1024 (bitsOf v 17 11)), (3, clampTo 0 65536 (bitsOf v 0 17))])
  | .hifVfQuotaD n =>
    some (n, [(6, clampTo 1 255 (bitsOf v 24 8)), (5, clampTo 0 352 (bitsOf v 15 9)), (4, clampTo 0 16384 (bitsOf v 0 15))])
  | .hifVfPlace n => some (n, if bitsOf v 0 3 < 4 && !partOff s (bitsOf v 0 3) then [(7, bitsOf v 0 3)] else [])
  | _ => none

/-- A write of a VF entry's quiescent fields (R68): at once while IDLE, else to the shadow. -/
def writeVf (r : Reg) (v : Nat) (s : State) : State :=
  match vfFields s r v with
  | none => s
  | some (n, fs) =>
    if !vfLegal n then s
    else
      let s := fs.foldl (fun s f => pendVf n f.1 f.2 s) s
      if quiescent s (.vfEntry n) then shadowApply (.vfEntry n) s else s

/-- May page 0 of a function be written: the PF's, or an ACTIVE VF's (R65)? -/
def pageWritable (s : State) (fn : Nat) : Bool := decide (fn = 0) || decide ((vfOf s fn).state = .active)

/-- Page 0 of a function (R86). -/
def writeCmd (r : Reg) (v : Nat) (s : State) : State :=
  let apply := fun (fn : Nat) (f : SvqPage → SvqPage) =>
    if !pageWritable s fn then s
    else
      let s := modPage fn f s
      if quiescent s (.svqPage fn) then shadowApply (.svqPage fn) s else s
  match r with
  | .cmdSvqSqBase fn => apply fn fun p => { p with pSqBase := some (v / 4096 * 4096) }
  | .cmdSvqCqBase fn => apply fn fun p => { p with pCqBase := some (v / 4096 * 4096) }
  | .cmdSvqCfg fn => apply fn (writeCfg fn v true)
  | _ => s

/-- The MXE block (R175, R198). -/
def writeMxe (r : Reg) (v : Nat) (s : State) : State :=
  match r with
  | .mxeEngFlags c =>
    if c < 64 && cluInService s c && !confidential s then
      modEng c (fun e => { e with flags := (List.range 3).foldl (fun f i => if bitOf v i then clrBit f i else f) e.flags }) s
    else s
  | .mxeCtrl =>
    let s := modMxe (fun m => { m with pend := some (clampTo 1 4 (bitsOf v 0 3)) }) s
    if quiescent s .mxe then shadowApply .mxe s else s
  | _ => s

/-- The SVC block: writes are ignored in confidential mode (R227). -/
def writeSvc (r : Reg) (v : Nat) (s : State) : State :=
  let put := fun (k n : Nat) =>
    let s := modSvc (fun x => { x with pend := tput x.pend k n }) s
    if quiescent s .svc then shadowApply .svc s else s
  if confidential s then s
  else
    match r with
    | .svcUserCtrl => put 96 (bitsOf v 0 8)
    | .svcUserKey k w => if k < 8 && w < 12 then put (12 * k + w) (bitsOf v 0 32) else s
    | _ => s

/-- CST_CLU_CFG (R228, R232). -/
def writeCst (c v : Nat) (s : State) : State :=
  if c < 64 && cluInService s c then
    let n := clampTo 0 (16 - (cluAt s c).deviceSegs) (bitsOf v 0 5)
    let s := modClu c (fun k => { k with pend := some n }) s
    if quiescent s (.cst c) then shadowApply (.cst c) s else s
  else s

/-- LNK_PORT_CTRL (Table 11-18): ENABLE = 0 leads to DISABLED, ENABLE = 1 to training (R304). -/
def writePortCtrl (p v : Nat) (s : State) : State :=
  let was := (portOf s p).enable
  let s := modPort p (fun x => { x with enable := bitOf v 0, accept := bitOf v 1, allowDegraded := bitOf v 3 }) s
  let s :=
    if was && !bitOf v 0 then movePort p .disabled 0 (modPort p linkLost s)
    else if !was && bitOf v 0 && portMay s p then portTrain p s
    else s
  drainPort p s

/-- The LNK block (R300, R302, R307, R312). -/
def writeLnk (r : Reg) (v : Nat) (s : State) : State :=
  match r with
  | .lnkCfg =>
    modLnk (fun l => { l with
      hopLimit := clampTo 1 15 (bitsOf v 0 4), boardDirect := bitOf v 4, wS := clampTo 1 15 (bitsOf v 8 4)
      wQ := clampTo 1 15 (bitsOf v 12 4), wB := clampTo 1 15 (bitsOf v 16 4), stallMs := clampTo 1 100 (bitsOf v 20 8) }) s
  | .lnkRtAddr =>
    modLnk (fun l => { l with index := bitsOf v 0 16, table := if bitsOf v 16 5 < 24 then bitsOf v 16 5 else l.table }) s
  | .lnkRtData => if entryLegal v then modLnk (fun l => { l with entry := v }) s else s
  | .lnkPortCtrl p => if p < 23 then writePortCtrl p v s else s
  | .lnkPortPlan p => if p < 23 then setPlan p v s else s
  | _ => s

/-- A WMK_EVENTS field: null, or an event of a PF context (R11). -/
def eventRef (s : State) (h : Nat) (old : Option Nat) : Option Nat :=
  if h = 0 then none
  else
    match tget s.evs (hSlot h) with
    | some e => if hKind h = Hk.ev ∧ ctxFn s e.ctx = 0 ∧ e.aborting = false then some (hSlot h) else old
    | none => old

/-- The manager's set-up with one quiescent register written, over what is pending (R9). -/
def mgrWritten (s : State) (r : Reg) (v : Nat) : MgrCfg :=
  let g := s.wmk.cfgPend.getD s.wmk.cfg
  match r with
  | .wmkMgrCfg => { g with top := bitOf v 11, prio := bitsOf v 0 4 }
  | .wmkCand i => { g with cands := lset g.cands i (bitsOf v 0 24 + bitAt (bitOf v 31) 31) }
  | .wmkParent => { g with parent := bitsOf v 0 24 + bitAt (bitOf v 31) 31 }
  | _ => g

/-- The quiescent registers of the WMK block (R335). -/
def writeMgr (r : Reg) (v : Nat) (s : State) : State :=
  let s := modWmk (fun w => { w with cfgPend := some (mgrWritten s r v) }) s
  if quiescent s .wmk then shadowApply .wmk s else s

/-- The WMK block. -/
def writeWmk (r : Reg) (v : Nat) (s : State) : State :=
  match r with
  | .wmkMgrCfg =>
    writeMgr r v (modWmk (fun w => { w with ppsEn := bitOf v 12, lead := clampTo 10 127 (bitsOf v 4 7) }) s)
  | .wmkCand i => if i < 8 then writeMgr r v s else s
  | .wmkParent => writeMgr r v s
  | .wmkEvents =>
    modWmk (fun w => { w with arriveEv := eventRef s (bitsOf v 0 32) w.arriveEv
                              advanceEv := eventRef s (bitsOf v 32 32) w.advanceEv }) s
  | .wmkPlanBase => modWmk (fun w => { w with planBase := v / 64 * 64 }) s
  | _ => s

/-- The COL, ING and MEM blocks. -/
def writeLive (r : Reg) (v : Nat) (s : State) : State :=
  match r with
  | .colCfg =>
    modCol (fun c => { c with switchEn := bitOf v 16, resendLimit := clampTo 1 7 (bitsOf v 8 3)
                              resendMs := clampTo 1 15 (bitsOf v 0 4) }) s
  | .ingCfg => modIng (fun g => { g with idleUs := clampTo 1 100 (bitsOf v 0 7) }) s
  | .memBadgerCtrl => modHbm (fun h => { h with periodH := clampTo 2 168 (bitsOf v 0 8) }) s
  | _ => s

/-- The CKP block (R424). -/
def writeCkp (r : Reg) (v : Nat) (s : State) : State :=
  match r with
  | .ckpCfg => modCkp (fun k => { k with waitS := clampTo 1 3600 (bitsOf v 0 12) }) s
  | .ckpBuddyCfg =>
    let gib := clampTo 0 (if confidential s then 76 else 88) (bitsOf v 32 7)
    let s := modCkp (fun k => { k with pend := some (bitOf v 62, gib, bitsOf v 0 24) }) s
    if quiescent s .ckp then shadowApply .ckp s else s
  | _ => s

/-- The LCS block (Tables 18-9, 18-12): TARGET is a reference, the token words are write only. -/
def writeLcs (r : Reg) (v : Nat) (s : State) : State :=
  match r with
  | .lcsCmd => if lcLegal (bitsOf v 0 8) then modLcs (fun l => { l with target := bitsOf v 0 8 }) s else s
  | .lcsToken w => if w < 8 then modLcs (fun l => { l with token := tput l.token w (bitsOf v 0 32) }) s else s
  | _ => s

/-- The FLT block (R494): UNIT is a reference for LEVEL 1. -/
def writeFlt (r : Reg) (v : Nat) (s : State) : State :=
  match r with
  | .fltResetCmd =>
    if s.flt.haltCause ≠ 0 ∧ bitsOf v 20 2 ≠ 3 then s
    else
      modFlt (fun f => { f with
        cmdLevel := bitsOf v 20 2
        cmdUnit := if bitsOf v 20 2 = 1 && !unitLegal (bitsOf v 0 20) then f.cmdUnit else bitsOf v 0 20 }) s
  | .fltRecSel => modFlt (fun f => { f with sel := bitsOf v 0 8 }) s
  | _ => s

/-- The PWR block (R504, R520). -/
def writePwr (r : Reg) (v : Nat) (s : State) : State :=
  match r with
  | .pwrCap => noteCap (modPwr (fun p => { p with cap := clampTo 600 2400 (bitsOf v 0 12) }) s)
  | .pwrInterval =>
    let s := modPwr (fun p => { p with intervalPending := some (clampTo 1 60 (bitsOf v 0 6)) }) s
    if quiescent s .pwr then shadowApply .pwr s else s
  | _ => s

/-- A write of the whole of a register, the fields with a row of their own left out. -/
def regWrite (r : Reg) (v : Nat) (s : State) : State :=
  match r with
  | .clkMsCtrl => writeMsCtrl (clrBit v 31) s
  | .hifVfQuotaA _ | .hifVfQuotaB _ | .hifVfQuotaC _ | .hifVfQuotaD _ | .hifVfPlace _ => writeVf r v s
  | .cmdSvqSqBase _ | .cmdSvqCqBase _ | .cmdSvqCfg _ => writeCmd r v s
  | .mxeEngFlags _ | .mxeCtrl => writeMxe r v s
  | .svcUserCtrl | .svcUserKey _ _ => writeSvc r v s
  | .cstCluCfg c => writeCst c v s
  | .memBadgerCtrl | .colCfg | .ingCfg => writeLive r v s
  | .lnkCfg | .lnkRtAddr | .lnkRtData | .lnkPortCtrl _ | .lnkPortPlan _ => writeLnk r v s
  | .wmkMgrCfg | .wmkCand _ | .wmkParent | .wmkEvents | .wmkPlanBase => writeWmk r v s
  | .ckpCfg | .ckpBuddyCfg => writeCkp r v s
  | .lcsCmd | .lcsToken _ => writeLcs r v s
  | .fltResetCmd | .fltRecSel => writeFlt r v s
  | .pwrCap | .pwrInterval => writePwr r v s
  | _ => s

/-- A write of the whole of a 64-bit register through its halves: also those whose whole write has a row of its own. -/
def regWrite64 (r : Reg) (v : Nat) (s : State) : State :=
  match r with
  | .wmkStepSet => stepSet v s
  | .wmkTimeSet => timeSet v s
  | .pwrPeriodStart _ => setPeriod r v s
  | _ => regWrite r v s

/-- Does a register access reach its block: from the source, and with the block's clock running (R42)? -/
def regOpen (s : State) (src : Src) (r : Reg) (wr : Bool) : Bool := srcOpen s src && !regBlocked s r wr

/-- REGISTER_WRITE -/
def execRegisterWrite (src : Src) (r : Reg) (v : DWord) (s : State) : Host.Outcome State Fault Refusal :=
  .next (if regOpen s src r true then regWrite r v.toNat s else s)

/-- SET_UP_LOCK (R8): a write of CLK_MS_CTRL with LOCK. -/
def execSetUpLock (src : Src) (v : Word) (s : State) : Host.Outcome State Fault Refusal :=
  .next (if regOpen s src .clkMsCtrl true then writeMsCtrl v.toNat s else s)

/-! ## Halves of 64-bit registers (R538) -/

/-- The entry of a register in a list of halves. -/
def halfOf (l : List (Reg × Word)) (r : Reg) : Option Word := (l.find? fun e => e.1 = r).map Prod.snd

/-- The list without a register's entry. -/
def halfDrop (l : List (Reg × Word)) (r : Reg) : List (Reg × Word) := l.filter fun e => e.1 ≠ r

/-- LOW_HALF_WRITE: the low half goes into the holding register. -/
def execLowHalfWrite (src : Src) (r : Reg) (v : Word) (s : State) : Host.Outcome State Fault Refusal :=
  .next (if regOpen s src r true && reg64 r then { s with hold64 := (r, v) :: halfDrop s.hold64 r } else s)

/-- The low half a write of the high half applies: the one held, or the current one. -/
def lowHalf (s : State) (r : Reg) : Nat :=
  match halfOf s.hold64 r with
  | some w => w.toNat
  | none => regRead s r % 2 ^ 32

/-- HIGH_HALF_WRITE: both halves apply in one cycle, and the holding register is empty. -/
def execHighHalfWrite (src : Src) (r : Reg) (v : Word) (s : State) : Host.Outcome State Fault Refusal :=
  .next (if regOpen s src r true && reg64 r then
    let w := v.toNat * 2 ^ 32 + lowHalf s r
    regWrite64 r w { s with hold64 := halfDrop s.hold64 r }
  else s)

/-- LOW_HALF_READ: returns the low half and latches the high half. A blocked register reads 0 (R42). -/
def execLowHalfRead (src : Src) (r : Reg) (s : State) : Host.Outcome State Fault Refusal :=
  .next (if !srcOpen s src || !reg64 r then s
    else if regBlocked s r false then emit (.readData r 0) s
    else
      let v := regRead s r
      let s := { s with latch64 := (r, BitVec.ofNat 32 (v / 2 ^ 32)) :: halfDrop s.latch64 r }
      emit (.readData r (BitVec.ofNat 64 (v % 2 ^ 32))) s)

/-- BLOCKED_REGISTER_ACCESS (R42): without effect; a read returns 0. -/
def execBlockedRegisterAccess (src : Src) (r : Reg) (wr : Bool) (s : State) : Host.Outcome State Fault Refusal :=
  .next (if srcOpen s src && regBlocked s r wr && !wr then emit (.readData r 0) s else s)

end Sys2Proof.Machine
end

