-- ==== Sys2Proof/Machine/Management.lean ====
section
/-!
DEFINITION. Sys2Proof/Machine/Management.lean: the management port (chapter 21): the I3C target, the UART, frames, alerts
and the management commands.
-/
namespace Sys2Proof.Machine

/-- Is the management port reachable: the management controller has power and MOD_RESET_N is high (R531)? -/
def mgtUp (s : State) : Bool := (mgRuns s || decide (s.mod.phase = .failing)) && s.mod.modResetN

/-! ## The I3C target (R521, R522) -/

/-- What an I3C controller reads, or a NACK. -/
def i3cAnswer (b : Option (List Byte)) (s : State) : State := emit (.i3c b) s

/-- Request an in-band interrupt where IBI is enabled and an alert is pending. -/
def ibiRequest (s : State) : State :=
  if s.mgt.ibiEn && s.mgt.dynAddr.isSome && alertUrgent s ≠ 0xFF then
    emit (.ibi (alertUrgent s)) (modMgt (fun g => { g with ibiReq := true }) s)
  else s

/-- Run an I3C command of a target that has a dynamic address. -/
def i3cDo (f : State → State) (s : State) : State := if mgtUp s && s.mgt.dynAddr.isSome then f s else s

/-- SETDASA: from the static address 0x30 + STRAP_SLOT. -/
def execSetdasa (static addr : Nat) (s : State) : Host.Outcome State Fault Refusal :=
  .next (if mgtUp s && decide (static = 0x30 + s.mod.strapSlot) && s.mgt.dynAddr.isNone then
    i3cAnswer (some []) (modMgt (fun g => { g with dynAddr := some (addr % 128) }) s)
  else s)

/-- ENTDAA -/
def execEntdaa (addr : Nat) (s : State) : Host.Outcome State Fault Refusal :=
  .next (if mgtUp s && s.mgt.dynAddr.isNone then
    i3cAnswer (some []) (modMgt (fun g => { g with dynAddr := some (addr % 128) }) s)
  else s)

/-- SETNEWDA -/
def execSetnewda (addr : Nat) (s : State) : Host.Outcome State Fault Refusal :=
  .next (i3cDo (fun s => i3cAnswer (some []) (modMgt (fun g => { g with dynAddr := some (addr % 128) }) s)) s)

/-- RSTDAA -/
def execRstdaa (s : State) : Host.Outcome State Fault Refusal :=
  .next (i3cDo (fun s => i3cAnswer (some []) (modMgt (fun g => { g with dynAddr := none }) s)) s)

/-- ENEC: ENINT enables IBI. -/
def execEnec (int : Bool) (s : State) : Host.Outcome State Fault Refusal :=
  .next (i3cDo (fun s =>
    let s := i3cAnswer (some []) s
    if int && !s.mgt.ibiEn then ibiRequest (modMgt (fun g => { g with ibiEn := true }) s) else s) s)

/-- DISEC -/
def execDisec (int : Bool) (s : State) : Host.Outcome State Fault Refusal :=
  .next (i3cDo (fun s =>
    let s := i3cAnswer (some []) s
    if int then modMgt (fun g => { g with ibiEn := false, ibiReq := false }) s else s) s)

/-- GETSTATUS: two bytes; the spec names the command and not the bits, so they are a free value. -/
def execGetstatus (s : State) : Host.Outcome State Fault Refusal :=
  .next (i3cDo (fun s => i3cAnswer (some (leBytes 2 (freeNow s))) (tookFree s)) s)

/-- The 48-bit provisional ID (R521). -/
def provisionalId (s : State) : Nat :=
  Config.mipiId.toNat * 2 ^ 33 + 0x7400 * 2 ^ 16 + fieldAt s.mod.strapSlot 12 4

/-- GETPID, most significant byte first. -/
def execGetpid (s : State) : Host.Outcome State Fault Refusal :=
  .next (i3cDo (fun s => i3cAnswer (some (leBytes 6 (provisionalId s)).reverse) s) s)

/-- GETBCR -/
def execGetbcr (s : State) : Host.Outcome State Fault Refusal := .next (i3cDo (i3cAnswer (some [0x06])) s)

/-- GETDCR -/
def execGetdcr (s : State) : Host.Outcome State Fault Refusal := .next (i3cDo (i3cAnswer (some [0x00])) s)

/-- GETMWL: 4,096 B, most significant byte first. -/
def execGetmwl (s : State) : Host.Outcome State Fault Refusal := .next (i3cDo (i3cAnswer (some [0x10, 0x00])) s)

/-- GETMRL: 4,096 B, most significant byte first. -/
def execGetmrl (s : State) : Host.Outcome State Fault Refusal := .next (i3cDo (i3cAnswer (some [0x10, 0x00])) s)

/-- SETMWL: a value below 4,096 is refused with NACK. -/
def execSetmwl (v : Nat) (s : State) : Host.Outcome State Fault Refusal :=
  .next (i3cDo (i3cAnswer (if v < 4096 then none else some [])) s)

/-- SETMRL: a value below 4,096 is refused with NACK. -/
def execSetmrl (v : Nat) (s : State) : Host.Outcome State Fault Refusal :=
  .next (i3cDo (i3cAnswer (if v < 4096 then none else some [])) s)

/-- IBI_REPEAT: 100 ms after an acknowledged IBI with an alert still pending. -/
def execIbiRepeat (s : State) : Host.Outcome State Fault Refusal := .next (i3cDo ibiRequest s)

/-- IBI_NACK_RETRY: the request that stands is made again. -/
def execIbiNackRetry (s : State) : Host.Outcome State Fault Refusal :=
  .next (i3cDo (fun s => if s.mgt.ibiReq then ibiRequest s else s) s)

/-! ## Frames (R525, R526) -/

/-- Is an opcode one of Table 21-4? -/
def mgtLegal (op : Nat) : Bool :=
  [0x01, 0x02, 0x03, 0x10, 0x11, 0x12, 0x20, 0x21, 0x30, 0x40, 0x50, 0x60, 0x61, 0x70, 0x71, 0x72, 0x73].contains op

/-- Does a payload length agree with an opcode (Table 21-4)? -/
def mgtLength (op n : Nat) : Bool :=
  if op = 0x03 then decide (n = 3)
  else if op = 0x11 then decide (n = 4)
  else if op = 0x12 then decide (n = 9)
  else if op = 0x20 then decide (n = 4)
  else if op = 0x21 then decide (n = 2)
  else if op = 0x30 then decide (n = 5)
  else if op = 0x40 then decide (n = 33)
  else if op = 0x60 then decide (n = 32)
  else if op = 0x61 then decide (n = 48)
  else if op = 0x70 then decide (6 ≤ n) && decide (n ≤ 4069)
  else if op = 0x71 ∨ op = 0x72 ∨ op = 0x73 then decide (n = 1)
  else decide (n = 0)

/-- A number of a frame. -/
def frameNum (b : List Byte) (off n : Nat) : Nat := ofLe ((b.drop off).take n)

/-- A request frame arrives at a face: discarded while a request or an unread response is there; checked for its CRC, its
length and its opcode; else held for the controller. -/
def requestIn (uart : Bool) (b : List Byte) (s : State) : State :=
  let f := faceOf s uart
  if f.req.isSome || f.resp.isSome then modMgt (fun g => { g with discarded := satAdd 65535 g.discarded 1 }) s
  else
    let op := frameNum b 0 1
    let tag := frameNum b 1 1
    let n := b.length - 12
    let refuse := fun reason s => reply uart op tag St.refusedState reason [] s
    if b.length < 12 ∨ 4096 < b.length then refuse 0x11 s
    else if frameNum b (b.length - 4) 4 ≠ (crc32c (b.take (b.length - 4))).toNat then
      refuse 0x10 (modMgt (fun g => { g with crcFails := satAdd 255 g.crcFails 1 }) s)
    else if frameNum b 2 2 ≠ n then refuse 0x11 s
    else if !mgtLegal op then refuse 0x12 s
    else if !mgtLength op n then refuse 0x11 s
    else modFace uart (fun f => { f with req := some { op := op, tag := tag, payload := (b.drop 8).take n } }) s

/-- PRIVATE_WRITE -/
def execPrivateWrite (bytes : List Byte) (s : State) : Host.Outcome State Fault Refusal :=
  .next (i3cDo (requestIn false bytes) s)

/-- PRIVATE_READ: the response once it is ready, else a NACK. -/
def execPrivateRead (s : State) : Host.Outcome State Fault Refusal :=
  .next (i3cDo (fun s =>
    match s.mgt.i3c.resp with
    | some b => i3cAnswer (some b) (modFace false (fun f => { f with resp := none }) s)
    | none => i3cAnswer none s) s)

/-- A good byte reaches the UART receiver: it hunts for 0xA5 0xC3, then gathers a frame of the length its header gives. -/
def uartTake (b : Byte) (s : State) : State :=
  let put := fun (l : List Byte) (s : State) => modMgt (fun g => { g with uartRx := l }) s
  let rx := s.mgt.uartRx
  if rx.length = 0 then put (if b = 0xA5 then [b] else []) s
  else if rx.length = 1 then put (if b = 0xC3 then rx ++ [b] else if b = 0xA5 then [b] else []) s
  else
    let rx := rx ++ [b]
    let frame := rx.drop 2
    if frame.length < 4 then put rx s
    else if 4080 < frameNum frame 2 2 then requestIn true frame (put [] s)
    else if frame.length < frameNum frame 2 2 + 12 then put rx s
    else requestIn true frame (put [] s)

/-- UART_BYTE: a stop bit of 0 discards the byte as a framing error, and detection re-arms once the line has read 1. -/
def execUartByte (stop : Bool) (b : Byte) (s : State) : Host.Outcome State Fault Refusal :=
  .next (if !mgtUp s then s
    else if !stop then modMgt (fun g => { g with uartFraming := satAdd 255 g.uartFraming 1, uartIdleWait := true }) s
    else uartTake b (modMgt (fun g => { g with uartIdleWait := false }) s))

/-- UART_GAP_DISCARD -/
def execUartGapDiscard (s : State) : Host.Outcome State Fault Refusal :=
  .next (if mgtUp s then modMgt (fun g => { g with uartRx := [] }) s else s)

/-! ## Serving commands (R526, R528) -/

/-- The state columns of Table 21-4. -/
inductive MgtCol where
  | srv | start | hold | halt | scrap
  deriving DecidableEq, Repr

/-- The column the module is in. -/
def mgtCol (s : State) : MgtCol :=
  if s.flt.haltCause ≠ 0 then .halt
  else if lcNow s = 0x60 then .scrap
  else if s.clk.phase = .bootHold then .hold
  else if s.clk.phase = .ready then .srv
  else .start

/-- Is a command served in a column (Table 21-4)? `arg` is the KIND of RECORD_READ or the LEVEL of RESET. -/
def mgtServed (op arg : Nat) (c : MgtCol) : Bool :=
  if op ≤ 0x03 then true
  else
    match c with
    | .srv => true
    | .start => [0x21, 0x40, 0x60, 0x61].contains op || (decide (op = 0x12) && decide (arg = 0)) || (decide (op = 0x30) && decide (arg = 3))
    | .hold =>
      [0x21, 0x40, 0x60, 0x61, 0x70, 0x71].contains op || (decide (op = 0x12) && decide (arg = 0)) || (decide (op = 0x30) && decide (arg = 3))
    | .halt => [0x40, 0x60].contains op || (decide (op = 0x12) && decide (arg = 0)) || (decide (op = 0x30) && decide (arg = 3))
    | .scrap => false

/-- The argument a column asks about, clamped (R10). -/
def mgtArg (r : MgtReq) : Nat :=
  if r.op = 0x12 then min 2 (frameNum r.payload 0 1)
  else if r.op = 0x30 then clampTo 1 3 (frameNum r.payload 0 1)
  else 0

/-- The controller serves a command that a face holds: a command that is no status command finds another running and is
told to retry, or is not served in the state, or is carried out. -/
def mgtServe (uart : Bool) (op : Nat) (f : MgtReq → State → State) (s : State) : Host.Outcome State Fault Refusal :=
  .next (match (faceOf s uart).req with
  | none => s
  | some r =>
    if !mgtUp s || decide (r.op ≠ op) || decide (s.mgt.running = some uart) then s
    else if 0x03 < op ∧ s.mgt.running.isSome = true then reply uart op r.tag St.retryLater 0x14 [] s
    else if !mgtServed op (mgtArg r) (mgtCol s) then
      reply uart op r.tag (if mgtCol s = .start then St.retryLater else St.refusedState) 0x13 [] s
    else f r s)

/-- Answer with DONE and a payload. -/
def mgtDone (uart : Bool) (r : MgtReq) (payload : List Byte) (s : State) : State :=
  reply uart r.op r.tag St.done 0 payload s

/-- A firmware or provisioning condition fails (R530). -/
def mgtCheck (uart : Bool) (r : MgtReq) (s : State) : State := reply uart r.op r.tag St.notPermitted 0x15 [] s

/-- A reference cannot be honoured (R11). -/
def mgtHandle (uart : Bool) (r : MgtReq) (s : State) : State := reply uart r.op r.tag St.refusedHandle 0 [] s

/-! ## Status commands -/

/-- IDENTITY -/
def execIdentity (uart : Bool) (s : State) : Host.Outcome State Fault Refusal :=
  mgtServe uart 0x01 (fun r s =>
    mgtDone uart r (leBytes 8 Config.serial.toNat ++ leBytes 3 (nodeId s) ++ leBytes 1 s.mod.strapRole
      ++ leBytes 4 (Config.featureWord s.nv.otp.cx) ++ leBytes 1 (lcNow s) ++ leBytes 2 s.svc.version
      ++ leBytes 1 (bit s.svc.active) ++ leBytes 1 (s.mgt.dynAddr.getD 0)) s) s

/-- The alert table in the order of Table 21-3. -/
def alertBytes (s : State) : List Byte :=
  (alertCodes.map fun c => leBytes 1 (bit (alertOf s c).pending) ++ leBytes 2 (alertOf s c).count).flatten

/-- STATUS -/
def execStatus (uart : Bool) (s : State) : Host.Outcome State Fault Refusal :=
  mgtServe uart 0x02 (fun r s =>
    mgtDone uart r (leBytes 4 (readMsStatus s) ++ leBytes 4 (readFltStatus s) ++ leBytes 4 (readSecStatus s)
      ++ leBytes 4 (readOwlStatus s) ++ leBytes 4 (readPwrStatus s) ++ leBytes 2 s.mod.hottest ++ leBytes 2 s.mod.inlet
      ++ leBytes 2 s.mod.outlet ++ alertBytes s) s) s

/-- The alert code nearest to a number, the lower of two equally near (R10). -/
def nearestAlert (c : Nat) : Nat := (minBy (fun a => if a ≤ c then c - a else a - c) alertCodes).getD 1

/-- Is an alert an event alert (Table 21-3)? -/
def alertEvent (c : Nat) : Bool := !([0x01, 0x02, 0x40].contains c)

/-- ALERT_ACK -/
def execAlertAck (uart : Bool) (s : State) : Host.Outcome State Fault Refusal :=
  mgtServe uart 0x03 (fun r s =>
    let c := nearestAlert (frameNum r.payload 0 1)
    let e := alertOf s c
    let s :=
      if alertEvent c && e.pending && decide (e.count = frameNum r.payload 1 2) then
        modMgt (fun g => { g with alerts := tput g.alerts c { pending := false, count := 0 } }) s
      else s
    mgtDone uart r (leBytes 2 (alertOf s c).count) s) s

/-! ## Records and views -/

/-- HEALTH: the 64-byte summary, whose layout the spec leaves open: a free value. -/
def execHealth (uart : Bool) (s : State) : Host.Outcome State Fault Refusal :=
  mgtServe uart 0x10 (fun r s => mgtDone uart r (leBytes 64 (freeBits s 512)) (tookFree s)) s

/-- The 16 bytes of a chip in the domain view; its role and its ports not OK come from its summary, a free value. -/
def viewBytes (s : State) (node i : Nat) : List Byte :=
  let v := viewOf s node
  let free := Config.freeValue (s.draws + i)
  leBytes 3 node ++ leBytes 1 free ++ leBytes 1 (bit v.missing) ++ leBytes 1 (free / 256) ++ leBytes 5 v.step ++ leBytes 5 0

/-- Nodes of the domain in rank order. -/
def domainNodes (s : State) : List Nat :=
  match s.wmk.plan with
  | some p => p.chips.map fun (c : PlanChip) => c.node
  | none => tkeys s.wmk.view

/-- DOMAIN_VIEW -/
def execDomainView (uart : Bool) (s : State) : Host.Outcome State Fault Refusal :=
  mgtServe uart 0x11 (fun r s =>
    if s.wmk.role ≠ .active then reply uart r.op r.tag St.refusedState 0 [] s
    else
      let nodes := ((domainNodes s).drop (frameNum r.payload 0 2)).take (min 255 (frameNum r.payload 2 2))
      let b := ((numbered nodes).map fun e => viewBytes s e.2 e.1).flatten
      mgtDone uart r b { s with draws := s.draws + nodes.length }) s

/-- As many whole records as fit in a payload. -/
def fitRecords : List (List Byte) → Nat → List Byte
  | [], _ => []
  | b :: l, room => if b.length ≤ room then b ++ fitRecords l (room - b.length) else []

/-- RECORD_READ: kind 0 the fault ring, 1 the logbook, 2 the erase record. -/
def execRecordRead (uart : Bool) (s : State) : Host.Outcome State Fault Refusal :=
  mgtServe uart 0x12 (fun r s =>
    let lo := frameNum r.payload 1 8
    let recs : List (List Byte) :=
      if mgtArg r = 0 then (s.flt.ring.reverse.filter fun (x : FltRec) => lo ≤ x.seq).map fltBytes
      else if mgtArg r = 1 then ((logAll s).filter fun (x : LogRec) => lo ≤ x.seq).map logRecBytes
      else if s.nv.otp.eraseRec ≠ [] ∧ lo < s.nv.otp.eraseSeq then [s.nv.otp.eraseRec]
      else []
    mgtDone uart r (fitRecords recs 4080) s) s

/-- LEDGER: totals per price code, then the latest interval records, oldest first. -/
def execLedger (uart : Bool) (s : State) : Host.Outcome State Fault Refusal :=
  mgtServe uart 0x20 (fun r s =>
    let a := frameNum r.payload 0 2
    if 514 < a then mgtHandle uart r s
    else
      let n := min 15 (frameNum r.payload 2 2)
      let totals := ((List.range 16).map fun c => leBytes 8 (tgetD s.led.totals (a * 16 + c) 0)).flatten
      mgtDone uart r (totals ++ ((s.led.ring.take n).reverse.map ivBytes).flatten) s) s

/-- CABLING -/
def execCabling (uart : Bool) (s : State) : Host.Outcome State Fault Refusal :=
  mgtServe uart 0x50 (fun r s =>
    let one := fun (p : Nat) =>
      let x := portOf s p
      let q := match x.peer with
        | some a => (a.node, a.port)
        | none => (0, 0)
      leBytes 4 (readPortState x) ++ leBytes 3 q.1 ++ leBytes 1 q.2 ++ leBytes 1 (planKindCode x.plan.kind)
        ++ leBytes 1 x.plan.port ++ leBytes 3 x.plan.node ++ leBytes 3 0
    mgtDone uart r (((List.range 23).map one).flatten) s) s

/-! ## Caps, resets, life cycle, tray secret -/

/-- TRAY_CAP: kept across chip resets (R529). -/
def execTrayCap (uart : Bool) (s : State) : Host.Outcome State Fault Refusal :=
  mgtServe uart 0x21 (fun r s =>
    let c := clampZeroOr 600 2400 (frameNum r.payload 0 2)
    mgtDone uart r (leBytes 2 c) (noteCap (modMgt (fun g => { g with trayCap := c }) s))) s

/-- The status of a reset command of a level and unit (R486); level 3 before M15 restarts the sequence (R529). -/
def resetStatus (s : State) (level u : Nat) : Nat :=
  if level = 1 then engineCmd s u else if level = 2 then partCmd s (u % 4) else St.done

/-- RESET -/
def execReset (uart : Bool) (s : State) : Host.Outcome State Fault Refusal :=
  mgtServe uart 0x30 (fun r s =>
    let level := mgtArg r
    let u := frameNum r.payload 1 4
    let st := resetStatus s level u
    let s := reply uart r.op r.tag st 0 [] s
    if st = St.done then commandReset level (if level = 2 then u % 4 else u) s else s) s

/-- LIFECYCLE: answered at the decision; at once with RETRY_LATER where a command is in progress (R465). -/
def execLifecycle (uart : Bool) (s : State) : Host.Outcome State Fault Refusal :=
  mgtServe uart 0x40 (fun r s =>
    if s.lcs.busy.isSome then reply uart r.op r.tag St.retryLater 5 (leBytes 4 (lcsWord s)) s
    else
      let c : LcsCommand := { mgt := true, target := frameNum r.payload 0 1, token := frameNum r.payload 1 32 }
      lcSubmit c (modMgt (fun g => { g with running := some uart }) s)) s

/-- The response to a tray challenge: 48 bytes of zeros while no tray secret is held (R433). -/
def challengeAnswer (s : State) (nonce : List Byte) : List Byte :=
  match s.nv.otp.tray with
  | none => leBytes 48 0
  | some k =>
    hmacBytes (leBytes 48 k) (ascii "KLS-TRAY" ++ nonce ++ leBytes 8 Config.serial.toNat ++ leBytes 3 (nodeId s)
      ++ leBytes 1 (lcNow s) ++ leBytes 1 s.nv.otp.tamper)

/-- CHALLENGE -/
def execChallenge (uart : Bool) (s : State) : Host.Outcome State Fault Refusal :=
  mgtServe uart 0x60 (fun r s => mgtDone uart r (challengeAnswer s r.payload) s) s

/-- TRAY_PROVISION: only while TRAY_PROVISIONED = 0 (R529). -/
def execTrayProvision (uart : Bool) (s : State) : Host.Outcome State Fault Refusal :=
  mgtServe uart 0x61 (fun r s =>
    if s.nv.otp.tray.isSome then mgtCheck uart r s
    else mgtDone uart r [] (modOtp (fun o => { o with tray := some (frameNum r.payload 0 48) }) s)) s

/-! ## Firmware (R530) -/

/-- A copy, and the firmware region with a copy replaced. -/
def fwCopy (f : FwStore) (c : Nat) : FwCopy := if c = 0 then f.a else f.b

/-- The firmware region with a copy replaced. -/
def fwPut (f : FwStore) (c : Nat) (x : FwCopy) : FwStore := if c = 0 then { f with a := x } else { f with b := x }

/-- Change the firmware region. -/
def modFw (f : FwStore → FwStore) (s : State) : State := modNv (fun n => { n with fw := f n.fw }) s

/-- FW_WRITE: the next part of one ascending pass; OFFSET 0 starts a new pass, and the copy fails until FW_COMMIT passes. -/
def execFwWrite (uart : Bool) (s : State) : Host.Outcome State Fault Refusal :=
  mgtServe uart 0x70 (fun r s =>
    let c := frameNum r.payload 0 1
    let off := frameNum r.payload 1 4
    let data := r.payload.drop 5
    let short := decide (data.length % 16 ≠ 0)
    let x := fwCopy s.nv.fw c
    if 1 < c then mgtHandle uart r s
    else if mgtCol s = .srv ∧ c = bit s.svc.active then reply uart r.op r.tag St.refusedState 0x13 [] s
    else if off = 0 then
      mgtDone uart r [] (modFw (fun f => fwPut f c
        { image := data, failing := true, short := short, passed := (false, false) }) s)
    else if off ≠ x.image.length ∨ (short && x.short) = true then mgtCheck uart r s
    else
      mgtDone uart r [] (modFw (fun f => fwPut f c
        { image := x.image ++ data, failing := true, short := x.short || short, passed := (false, false) }) s)) s

/-- FW_COMMIT: the checks of R222 on the copy as written; the operand is what the digest and signature checks find. -/
def execFwCommit (uart : Bool) (a : FwVerdict) (s : State) : Host.Outcome State Fault Refusal :=
  mgtServe uart 0x71 (fun r s =>
    let c := frameNum r.payload 0 1
    if 1 < c then mgtHandle uart r s
    else
      let x := { fwCopy s.nv.fw c with passed := (a.digestOk, a.sigOk) }
      let n := fwCheck s.nv.fw x
      let x := { x with failing := decide (n ≠ 0) }
      let s := modFw (fun f => fwPut f c x) s
      let s := modSvc (fun v => if c = 0 then { v with aFailed := decide (n ≠ 0) } else { v with bFailed := decide (n ≠ 0) }) s
      mgtDone uart r (leBytes 1 n ++ leBytes 2 (fwVersion x)) s) s

/-- FW_FLOOR: only while both copies pass with SECURITY_VERSION ≥ FLOOR; a FLOOR at or below the present one has no
effect. -/
def execFwFloor (uart : Bool) (s : State) : Host.Outcome State Fault Refusal :=
  mgtServe uart 0x72 (fun r s =>
    let n := clampTo 1 64 (frameNum r.payload 0 1)
    let f := s.nv.fw
    if n ≤ f.floor then mgtDone uart r (leBytes 1 f.floor) s
    else if fwGood f f.a && fwGood f f.b && decide (n ≤ fwVersion f.a) && decide (n ≤ fwVersion f.b) then
      mgtDone uart r (leBytes 1 n) (modFw (fun f => { f with floor := n }) s)
    else mgtCheck uart r s) s

/-- FW_REVOKE: only while both copies pass under the other key index. -/
def execFwRevoke (uart : Bool) (s : State) : Host.Outcome State Fault Refusal :=
  mgtServe uart 0x73 (fun r s =>
    let k := frameNum r.payload 0 1
    let f := s.nv.fw
    if 1 < k then mgtHandle uart r s
    else if fwGood f f.a && fwGood f f.b && decide (fwKeyIndex f.a = 1 - k) && decide (fwKeyIndex f.b = 1 - k) then
      mgtDone uart r [] (modFw (fun f => { f with revoked := setBit f.revoked k }) s)
    else mgtCheck uart r s) s

end Sys2Proof.Machine
end

