-- ==== Sys2Proof/Machine/Memory.lean ====
section
/-!
DEFINITION. Sys2Proof/Machine/Memory.lean: the memory opcodes and the rules fence, HBM admission and completion, ECC, tags,
poison, the badger, and the end of a halt's heartbeats (R239 to R263, R271 to R279).
-/
namespace Sys2Proof.Machine

/-! ## Rules and the rules fence (R240, R241) -/

/-- A range of pages of the read-only list, without the pages of another range. -/
def rangeMinus (first count : Nat) (e : Nat × Nat) : List (Nat × Nat) :=
  let lo := (e.1, min (e.1 + e.2) first - e.1)
  let start := max e.1 (first + count)
  let hi := (start, e.1 + e.2 - start)
  [lo, hi].filter fun (x : Nat × Nat) => 0 < x.2

/-- The rights of a range of pages are set: read-only or read-write. -/
def setRights (first count : Nat) (ro : Bool) (l : List (Nat × Nat)) : List (Nat × Nat) :=
  let rest := (l.map (rangeMinus first count)).flatten
  if ro then rest ++ [(first, count)] else rest

/-- Page size of the object a field names. -/
def objPage (s : State) (h : Nat) : Nat :=
  match tget s.mems (hSlot h) with
  | some m => pageBytes m.page
  | none => 1

/-- Is a rules change that of a descriptor? -/
def ruleOf (qp sub : Nat) (r : RuleChange) : Bool :=
  match r with
  | .protect q n _ _ _ _ => decide (q = qp) && decide (n = sub)

/-- MEM_PROTECT: the checks; the change waits for its change point (R240). -/
def execMemProtect (qp sub : Nat) (s : State) : Host.Outcome State Fault Refusal :=
  .next (onStarted 0xB0 qp sub (fun d s =>
    let h := dfld d 24 4
    let off := dfld d 32 8
    let len := dfld d 40 8
    let p := objPage s h
    guarded d [needH s d Hk.mem 24, chk (off % p = 0) St.refusedHandle 32, needRange s h off len 32,
        chk (len % p = 0 && decide (0 < len)) St.refusedHandle 40] (fun s =>
      let ro := decide (clampTo 0 1 (dfld d 48 1) = 1)
      let r : RuleChange := .protect qp sub (hSlot h) (off / p) (len / p) ro
      runDesc qp sub 0 (modHbm (fun m => { m with rules := (m.rules.filter fun x => !ruleOf qp sub x) ++ [r] }) s)) s) s)

/-- A rules change takes effect. -/
def applyRule (r : RuleChange) (s : State) : State :=
  match r with
  | .protect _ _ slot first count ro => modMem slot (fun m => { m with readOnly := setRights first count ro m.readOnly }) s

/-- RULES_CHANGE_POINT (R240): the new rules hold from here, before the completion is written. -/
def execRulesChangePoint (qp sub : Nat) (s : State) : Host.Outcome State Fault Refusal :=
  .next (onRunning 0xB0 qp sub (fun d s =>
    let mine := s.hbm.rules.filter (ruleOf qp sub)
    let s := modHbm (fun m => { m with rules := m.rules.filter fun x => !ruleOf qp sub x }) s
    endD d rDone (mine.foldl (fun s r => applyRule r s) s)) s)

/-- Is a fence that of a descriptor? -/
def fenceOf (qp sub : Nat) (e : Nat × Nat × Nat × Nat) : Bool := decide (e.1 = qp) && decide (e.2.1 = sub)

/-- RULES_FENCE (R241): it waits for the accesses translated before it. -/
def execRulesFence (qp sub : Nat) (s : State) : Host.Outcome State Fault Refusal :=
  .next (onStarted 0xB1 qp sub (fun d s =>
    let e := (qp, sub, instOf s d.fn, s.hbm.nextReq)
    runDesc qp sub 0 (modHbm (fun m => { m with fences := (m.fences.filter fun x => !fenceOf qp sub x) ++ [e] }) s)) s)

/-- Does a fence's identity still hold a transaction slot for an access numbered before the fence? -/
def fenceHeld (s : State) (e : Nat × Nat × Nat × Nat) : Bool :=
  (List.range 8).any fun k => (stackAt s k).slots.any fun (r : HbmReq) => decide (r.inst = e.2.2.1) && decide (r.id < e.2.2.2)

/-- RULES_FENCE_COMPLETE (R241): always DONE, once no such access is left. -/
def execRulesFenceComplete (qp sub : Nat) (s : State) : Host.Outcome State Fault Refusal :=
  .next (onRunning 0xB1 qp sub (fun d s =>
    if s.hbm.fences.any fun e => fenceOf qp sub e && fenceHeld s e then s
    else endD d rDone (modHbm (fun m => { m with fences := m.fences.filter fun x => !fenceOf qp sub x }) s)) s)

/-! ## Scratch and cache (Table 09-7) -/

/-- The pages of an object that a range meets. -/
def pagesOf (p off len : Nat) : List Nat :=
  if len = 0 then [] else (List.range ((off + len - 1) / p - off / p + 1)).map fun i => off / p + i

/-- Bytes of a range that lie in one page. -/
def pageShare (p off len pg : Nat) : Nat := min (off + len) ((pg + 1) * p) - max off (pg * p)

/-- A page's lines leave the cache part: it is resident now (R231). -/
def uncachePage (slot p pg : Nat) (s : State) : State :=
  modHbm (fun h => { h with cache := h.cache.filter fun (e : Nat × CacheLine) =>
    !(decide (e.1 / 2 ^ 32 = slot) && decide (e.1 % 2 ^ 32 * 256 / p = pg)) }) s

/-- One page of CST_RESIDE. -/
def residePage (slot p : Nat) (s : State) (pg : Nat) : State :=
  let s := makeResident slot pg (mapPage slot pg s)
  match tget s.mems slot with
  | some m => if m.resident.contains pg then uncachePage slot p pg s else s
  | none => s

/-- CST_RESIDE -/
def execCstReside (qp sub : Nat) (s : State) : Host.Outcome State Fault Refusal :=
  .next (onStarted 0xB2 qp sub (fun d s =>
    let h := dfld d 24 4
    let off := dfld d 32 8
    let len := dfld d 40 8
    let p := objPage s h
    let scratch := match tget s.mems (hSlot h) with
      | some m => m.cluster.isSome
      | none => false
    guarded d [needH s d Hk.mem 24, chk scratch St.refusedState 24, needRange s h off len 32] (fun s =>
      let s := (pagesOf p off len).foldl (residePage (hSlot h) p) s
      let bytes := match tget s.mems (hSlot h) with
        | some m => (((pagesOf p off len).filter fun pg => m.resident.contains pg).map (pageShare p off len)).sum
        | none => 0
      endD d { rDone with value := bytes } s) s) s)

/-- Lines of a range in the cache parts of their homes. -/
def cachedIn (s : State) (slot off len : Nat) : List (Nat × CacheLine) :=
  s.hbm.cache.filter fun (e : Nat × CacheLine) =>
    decide (0 < len) && decide (e.1 / 2 ^ 32 = slot) && decide (off / 256 ≤ e.1 % 2 ^ 32)
      && decide (e.1 % 2 ^ 32 ≤ (off + len - 1) / 256)

/-- CST_EVICT: the dirty bytes of the lines are written back, and the lines leave the cache parts (R229). -/
def execCstEvict (qp sub : Nat) (s : State) : Host.Outcome State Fault Refusal :=
  .next (onStarted 0xB3 qp sub (fun d s =>
    let h := dfld d 24 4
    let off := dfld d 32 8
    let len := dfld d 40 8
    guarded d [needH s d Hk.mem 24, needRange s h off len 32] (fun s =>
      let gone := cachedIn s (hSlot h) off len
      let bytes := (gone.map fun (e : Nat × CacheLine) => popCount e.2.dirty 256).sum
      let ks := gone.map Prod.fst
      let s := modHbm (fun m => { m with cache := m.cache.filter fun (e : Nat × CacheLine) => !ks.contains e.1 }) s
      endD d { rDone with value := bytes } s) s) s)

/-- Bitmap of the stacks that back an object (R237). -/
def backingMask (m : MemObj) : Nat :=
  ((List.range 8).map fun k => bitAt (m.mapped.any fun (e : Nat × Nat) => e.2 = k) k).sum

/-- MEM_QUERY -/
def execMemQuery (qp sub : Nat) (s : State) : Host.Outcome State Fault Refusal :=
  .next (onStarted 0xB4 qp sub (fun d s => guarded d [needH s d Hk.mem 24] (fun s =>
    match tget s.mems (hSlot (dfld d 24 4)) with
    | some m =>
      endD d { rDone with value := m.resident.length * pageBytes m.page, aux := backingMask m
                          flags := bitAt m.cluster.isSome 0 } s
    | none => s) s) s)

/-- Lines of an object in the poison table, as line numbers in the object, rising. -/
def tabledLines (s : State) (slot : Nat) : List Nat :=
  (s.poison.filter fun (e : Nat × Poison) => decide (e.1 / 2 ^ 34 = slot) && e.2.tabled).map
    fun (e : Nat × Poison) => e.1 % 2 ^ 34

/-- POISON_SCAN -/
def execPoisonScan (qp sub : Nat) (s : State) : Host.Outcome State Fault Refusal :=
  .next (onStarted 0xB5 qp sub (fun d s =>
    let h := dfld d 24 4
    let from_ := dfld d 32 8
    guarded d [needH s d Hk.mem 24, needRange s h from_ 1 32] (fun s =>
      let ls := tabledLines s (hSlot h)
      let v := match minBy (fun k => k) (ls.filter fun k => from_ / 64 ≤ k) with
        | some k => k * 64
        | none => 2 ^ 64 - 1
      endD d { rDone with value := v, aux := ls.length, flags := bitAt s.hbm.poisonOverflow 0 } s) s) s)

/-- PAGE_ZERO_DONE (R279) -/
def execPageZeroDone (slot page : Nat) (s : State) : Host.Outcome State Fault Refusal :=
  .next (modIme (fun i => { i with zeroing := i.zeroing.filter fun (e : Nat × Nat) => e ≠ (slot, page) }) s)

/-! ## Transaction slots (R246 to R248) -/

/-- Slots a bank of a stack holds. -/
def bankSlots (k : Stack) (bank : Nat) : Nat := (k.slots.filter fun (r : HbmReq) => r.bank = bank).length

/-- Requests of a cluster's queue on every stack. -/
def queueLoad (s : State) (c : Nat) : Nat :=
  ((List.range 8).map fun k => ((stackAt s k).waiting.filter fun (r : HbmReq) => r.cluster = c).length).sum

/-- Has a request room in its queue (R246, R247)? The badger holds at most one slot per stack. -/
def mayQueue (s : State) (k c bank : Nat) : Bool :=
  let t := stackAt s k
  if c = 64 then (t.waiting ++ t.slots).all fun (r : HbmReq) => r.cluster ≠ 64
  else decide (queueLoad s c < 1024)
    && decide ((t.waiting.filter fun (r : HbmReq) => r.cluster = c && r.bank = bank).length < 256)

/-- A request reaches its queue; one past the queue's share stalls its issuer and is not taken. -/
def enqueueReq (k : Nat) (s : State) (e : Nat × Nat × Nat) : State :=
  if e.1 ≤ 64 ∧ e.2.1 < 4096 ∧ mayQueue s k e.1 e.2.1 then
    let r : HbmReq := { id := s.hbm.nextReq, cluster := e.1, bank := e.2.1, inst := e.2.2 }
    modHbm (fun h => { h with nextReq := h.nextReq + 1 }) (modStack k (fun t => { t with waiting := t.waiting ++ [r] }) s)
  else s

/-- The oldest request of a queue whose bank is below its cap, while a slot is free. -/
def admissible (t : Stack) (c : Nat) : Option HbmReq :=
  if t.slots.length < 2048 then t.waiting.find? fun (r : HbmReq) => decide (r.cluster = c) && decide (bankSlots t r.bank < 64)
  else none

/-- A waiting request takes a slot. -/
def admitReq (t : Stack) (r : HbmReq) : Stack := { t with waiting := t.waiting.erase r, slots := t.slots ++ [r] }

/-- The round-robin of one cycle: up to `n` requests from the pointer on. -/
def admitRound : Nat → Stack → Stack
  | 0, t => t
  | n + 1, t =>
    match (List.range 64).findSome? fun i => (admissible t ((t.pointer + i) % 64)) with
    | some r => admitRound n { admitReq t r with pointer := (r.cluster + 1) % 64 }
    | none => t

/-- One cycle of a stack: the badger first, then the cluster queues, 16 in all. -/
def admitCycle (t : Stack) : Stack :=
  match admissible t 64 with
  | some r => admitRound 15 (admitReq t r)
  | none => admitRound 16 t

/-- Does a stack serve transactions: trained, online, the device not halted (R276)? -/
def stackServes (s : State) (k : Nat) : Bool :=
  decide (k < 8) && !stackOff s k && decide ((stackAt s k).state = 2) && decide (s.flt.haltCause = 0)

/-- HBM_ADMISSION (R246, R247) -/
def execHbmAdmission (stack : Nat) (new : List (Nat × Nat × Nat)) (s : State) : Host.Outcome State Fault Refusal :=
  .next (if stackServes s stack then modStack stack admitCycle (new.foldl (enqueueReq stack) s) else s)

/-! ## ECC, tags and poison (R251 to R255, R271, R272) -/

/-- Change a stack's cipher engine. -/
def modCipher (k : Nat) (f : Cipher → Cipher) (s : State) : State :=
  modIme (fun i => { i with ciphers := tupd i.ciphers k Cipher.init f }) s

/-- A line's object, where it is live and backed on the stack. -/
def lineObj (s : State) (k : Nat) (l : HbmLine) : Option (Nat × Nat) :=
  match l.obj with
  | some (slot, off) => if stackOf s slot off = some k then some (slot, off) else none
  | none => none

/-- DETAIL of POISON_FOUND (R254). -/
def poisonDetail (off source stack : Nat) : Nat := fieldAt (off / 64 * 64) 0 52 + fieldAt source 52 4 + fieldAt stack 56 8

/-- The first detection of a poisoned line of a memory object posts once to the function that owns it. -/
def postPoison (slot off source stack : Nat) (s : State) : State :=
  match tget s.mems slot with
  | some m => post (ctxFn s m.ctx) Att.poisonFound (poisonDetail off source stack) (mkHandle Hk.mem slot) s
  | none => s

/-- An uncorrectable line in a stack: its row is queued; a line of a live object is poisoned and posted, once (R254,
R261). -/
def detectPoison (k source line : Nat) (obj : Option (Nat × Nat)) (s : State) : State :=
  let count := fun s => queueRow k (rowOf (line * 64)) (modStack k (fun t => { t with uncorrected := satAdd 65535 t.uncorrected 1 }) s)
  match obj with
  | some (slot, off) =>
    if thas s.poison (lineKey slot off) then s
    else postPoison slot off source k (addPoison [lineKey slot off] k (count s))
  | none => count s

/-- A corrected line is counted and waits for its rewrite (R251). -/
def correctLine (k line : Nat) (s : State) : State :=
  modStack k (fun t => { t with corrected := satAdd 65535 t.corrected 1, rewrite := linsert t.rewrite line }) s

/-- The line number of the tag line of a data line (R267). -/
def tagLine (line : Nat) : Nat := (42000000000 + line * 8) / 64

/-- First line number of the tag region (R266). -/
def tagBase : Nat := 42000000000 / 64

/-- Every data line of a tag line is poisoned (Table 10-4): eight lines, 512 B aligned, of one page. -/
def poisonGroup (k line : Nat) (obj : Option (Nat × Nat)) (s : State) : State :=
  (List.range 8).foldl (fun s i =>
    let o := obj.map fun (e : Nat × Nat) => (e.1, e.2 / 512 * 512 + 64 * i)
    detectPoison k 1 (line / 8 * 8 + i) o s) s

/-- An integrity failure (R276): the record, the halt, and no transaction goes on. -/
def integrityHalt (k : Nat) (s : State) : State :=
  if s.flt.haltCause ≠ 0 then s
  else
    let detail := 1 + fieldAt k 8 8
    let s := haltDevice 1 detail (fltRecord Cls.integrity 5 false false 0 0 detail s)
    modHbm (fun h => { h with stk := tmapv h.stk fun _ (t : Stack) => { t with waiting := [], slots := [] } }) s

/-- Is a line of the corrected-line list of its stack (R272)? -/
def onList (s : State) (k line : Nat) : Bool := (cipherAt s k).list.contains line

/-- A line leaves the corrected-line list. -/
def unlist (k line : Nat) (s : State) : State :=
  modCipher k (fun c => { c with list := c.list.filter fun x => x ≠ line }) s

/-- A tag line that ECC corrected is counted and rewritten like any line (R267). -/
def correctTag (k : Nat) (l : HbmLine) (s : State) : State :=
  if l.tagEcc = .corrected then correctLine k (tagLine l.line) s else s

/-- The read of a line whose ECC is clean or corrected and whose tag line can be read (Table 10-4, rows 1 to 5). -/
def readTagged (k : Nat) (l : HbmLine) (s : State) : State :=
  let was := onList s k l.line
  let s := unlist k l.line (correctTag k l s)
  let o := lineObj s k l
  if l.tagOk then (if l.ecc = .corrected then correctLine k l.line s else s)
  else if l.ecc = .clean && decide (l.tagEcc = .clean) && !was then integrityHalt k s
  else detectPoison k 1 l.line o s

/-- The read of one line on the read path (R251, Table 10-4). -/
def readHbm (k : Nat) (l : HbmLine) (s : State) : State :=
  let o := lineObj s k l
  match l.ecc with
  | .pattern => s
  | .bad => detectPoison k 1 l.line o s
  | _ =>
    if confidential s then
      (if l.tagEcc = .bad || l.tagEcc = .pattern then poisonGroup k l.line o s else readTagged k l s)
    else if l.ecc = .corrected then correctLine k l.line s
    else s

/-- A whole-line write replaces what waits for the line (R272, R273). -/
def writeHbm (k : Nat) (l : HbmLine) (s : State) : State :=
  unlist k l.line (modStack k (fun t => { t with rewrite := t.rewrite.filter fun x => x ≠ l.line }) s)

/-- One line of a transaction. -/
def doneLine (k : Nat) (s : State) (l : HbmLine) : State :=
  if s.flt.haltCause ≠ 0 then s
  else
    let s := if confidential s && l.tagMiss then modCipher k (fun c => { c with tagReads := c.tagReads + 1 }) s else s
    match l.kind with
    | .read => readHbm k l s
    | .write => writeHbm k l s
    | .merge => readHbm k l (modCipher k (fun c => { c with merges := c.merges + 1 }) s)

/-- HBM_TRANSACTION_COMPLETE (R248, R251, R271): the slot is released and the lines are decoded. -/
def execHbmTransactionComplete (stack id : Nat) (lines : List HbmLine) (s : State) : Host.Outcome State Fault Refusal :=
  .next (if stackServes s stack && ((stackAt s stack).slots.any fun (r : HbmReq) => r.id = id) then
    lines.foldl (doneLine stack)
      (modStack stack (fun t => { t with slots := t.slots.filter fun (r : HbmReq) => r.id ≠ id }) s)
  else s)

/-- CORRECTED_LINE_REWRITE (R251) -/
def execCorrectedLineRewrite (stack line : Nat) (s : State) : Host.Outcome State Fault Refusal :=
  .next (if stackServes s stack then modStack stack (fun t => { t with rewrite := t.rewrite.filter fun x => x ≠ line }) s else s)

/-! ## Cluster store errors (R252) -/

/-- Does a cluster's store hold a sector, and is it dirty or scratch? -/
def storeSector (s : State) (c slot off : Nat) : Option Bool :=
  match tget s.mems slot with
  | none => none
  | some m =>
    if m.cluster = some c ∧ m.resident.contains (off / pageBytes m.page) then some true
    else
      match tget s.hbm.cache (cacheKey slot off) with
      | some l => if l.home = c then some (decide (bitsOf l.dirty (off % 256 / 64 * 64) 64 ≠ 0)) else none
      | none => none

/-- CLUSTER_STORE_UNCORRECTABLE (R252): a clean sector is fetched again and counts as corrected; a dirty or scratch sector
is poisoned. -/
def execClusterStoreUncorrectable (cluster slot off : Nat) (s : State) : Host.Outcome State Fault Refusal :=
  .next (match storeSector s cluster slot off with
  | some true =>
    if thas s.poison (lineKey slot off) then s
    else
      let s := modClu cluster (fun k => { k with uncorrected := satAdd 255 k.uncorrected 1 }) s
      postPoison slot off 2 0xFF (addPoison [lineKey slot off] 0xFF s)
  | some false => modClu cluster (fun k => { k with corrected := satAdd 65535 k.corrected 1 }) s
  | none => s)

/-! ## The badger (R256, R257, R272) -/

/-- Is a chunk in the row of another chunk, and not that chunk itself (R245)? -/
def rowMate (a b : Nat) : Bool := decide (a ≠ b) && decide (rowOf (a * 256) = rowOf (b * 256))

/-- The badger's correction enters the lists of the pass; two chunks of a row, or the same line in two passes, queue the
row (R257). -/
def passCorrection (k line : Nat) (s : State) : State :=
  let t := stackAt s k
  let chunk := line / 4
  let again := t.lastLines.contains line || t.passChunks.any (rowMate chunk)
  let s := modStack k (fun t => { t with passChunks := linsert t.passChunks chunk, passLines := linsert t.passLines line }) s
  if again then queueRow k (rowOf (line * 64)) s else s

/-- The badger corrects a line (R256): in confidential mode it enters the corrected-line list, or, where that is full, it is
left unwritten (R272). Tag lines carry no tag and enter no list. -/
def badgerCorrects (k line : Nat) (s : State) : State :=
  let s := passCorrection k line (modStack k (fun t => { t with corrected := satAdd 65535 t.corrected 1 }) s)
  if confidential s && decide (line < tagBase) then
    if onList s k line then s
    else if (cipherAt s k).list.length < 256 then modCipher k (fun c => { c with list := linsert c.list line }) s
    else modCipher k (fun c => { c with leftUnwritten := satAdd 65535 c.leftUnwritten 1 }) s
  else s

/-- One line of the chunk the badger reads. -/
def badgerLine (k : Nat) (s : State) (l : HbmLine) : State :=
  match l.ecc with
  | .clean => s
  | .pattern => s
  | .corrected => badgerCorrects k l.line s
  | .bad => detectPoison k 0 l.line (lineObj s k l) s

/-- Chunks of a stack (R256). -/
def stackChunks : Nat := 187500000

/-- The badger moves to the next chunk; after the last one the next pass starts at 0. -/
def badgerNext (t : Stack) : Stack :=
  let t := { t with slots := t.slots.filter fun (r : HbmReq) => r.cluster ≠ 64 }
  if stackChunks ≤ t.chunk + 1 then
    { t with chunk := 0, passes := satAdd 65535 t.passes 1, lastLines := t.passLines, passLines := [], passChunks := [] }
  else { t with chunk := t.chunk + 1 }

/-- BADGER_CHUNK_READ (R256): from M15 on, on every stack that serves. Only lines of the chunk at hand count. -/
def execBadgerChunkRead (stack : Nat) (lines : List HbmLine) (s : State) : Host.Outcome State Fault Refusal :=
  .next (if stackServes s stack && decide (s.clk.milestone = 15) then
    let chunk := (stackAt s stack).chunk
    let mine := lines.filter fun (l : HbmLine) => l.line / 4 = chunk
    modStack stack badgerNext (mine.foldl (badgerLine stack) s)
  else s)

/-! ## The end of a halt's heartbeats (R276, R492) -/

/-- HALT_HEARTBEAT_STOP (Table 10-6, last row) -/
def execHaltHeartbeatStop (s : State) : Host.Outcome State Fault Refusal :=
  .next (if s.flt.haltCause ≠ 0 then modFlt (fun f => { f with haltQuiet := true }) s else s)

end Sys2Proof.Machine
end

