-- ==== Sys2Proof/Machine/Dispatch.lean ====
section
/-!
DEFINITION. Sys2Proof/Machine/Dispatch.lean: one arm per command of the table.
-/
namespace Sys2Proof.Machine

/-- The effect of a command on everything but the queue: one meaning per row of the table. -/
def exec (i : Instr) (s : State) : Host.Outcome State Fault Refusal :=
  match i with
  | .registerWrite src r v => Sys2Proof.Machine.execRegisterWrite src r v s
  | .shadowApply b => Sys2Proof.Machine.execShadowApply b s
  | .setUpLock src v => Sys2Proof.Machine.execSetUpLock src v s
  | .lowHalfWrite src r v => Sys2Proof.Machine.execLowHalfWrite src r v s
  | .highHalfWrite src r v => Sys2Proof.Machine.execHighHalfWrite src r v s
  | .lowHalfRead src r => Sys2Proof.Machine.execLowHalfRead src r s
  | .blockedRegisterAccess src r wr => Sys2Proof.Machine.execBlockedRegisterAccess src r wr s
  | .powerUp vbat => Sys2Proof.Machine.execPowerUp vbat s
  | .bulkCharged => Sys2Proof.Machine.execBulkCharged s
  | .strapSample role slot board => Sys2Proof.Machine.execStrapSample role slot board s
  | .railsInRegulation => Sys2Proof.Machine.execRailsInRegulation s
  | .perstNAssert ns => Sys2Proof.Machine.execPerstNAssert ns s
  | .perstNRelease => Sys2Proof.Machine.execPerstNRelease s
  | .modResetNAssert ns => Sys2Proof.Machine.execModResetNAssert ns s
  | .modResetNRelease => Sys2Proof.Machine.execModResetNRelease s
  | .powerFailConfirm => Sys2Proof.Machine.execPowerFailConfirm s
  | .powerFailStop => Sys2Proof.Machine.execPowerFailStop s
  | .powerFailCommit => Sys2Proof.Machine.execPowerFailCommit s
  | .railsFall => Sys2Proof.Machine.execRailsFall s
  | .powerReturnStable vbat => Sys2Proof.Machine.execPowerReturnStable vbat s
  | .tamperLoopCheck okA okB => Sys2Proof.Machine.execTamperLoopCheck okA okB s
  | .meshCheck ok => Sys2Proof.Machine.execMeshCheck ok s
  | .vbatLoss mv => Sys2Proof.Machine.execVbatLoss mv s
  | .voltageAlarm rail => Sys2Proof.Machine.execVoltageAlarm rail s
  | .clockAlarm clock => Sys2Proof.Machine.execClockAlarm clock s
  | .temperatureAlarm sensor => Sys2Proof.Machine.execTemperatureAlarm sensor s
  | .tamperAlarmArrival => Sys2Proof.Machine.execTamperAlarmArrival s
  | .inletOverTemperature temp => Sys2Proof.Machine.execInletOverTemperature temp s
  | .thermalLoop hottest => Sys2Proof.Machine.execThermalLoop hottest s
  | .thermalStageRelease hottest => Sys2Proof.Machine.execThermalStageRelease hottest s
  | .thermalTripRecovery => Sys2Proof.Machine.execThermalTripRecovery s
  | .powerLimiterTick watts => Sys2Proof.Machine.execPowerLimiterTick watts s
  | .startSequence => Sys2Proof.Machine.execStartSequence s
  | .milestoneAdvance r => Sys2Proof.Machine.execMilestoneAdvance r s
  | .progressTick => Sys2Proof.Machine.execProgressTick s
  | .stallWindowExpire => Sys2Proof.Machine.execStallWindowExpire s
  | .milestoneLimitExpire => Sys2Proof.Machine.execMilestoneLimitExpire s
  | .faultPathHoldEnd => Sys2Proof.Machine.execFaultPathHoldEnd s
  | .numvfsWrite n => Sys2Proof.Machine.execNumvfsWrite n s
  | .vfEnableWrite on => Sys2Proof.Machine.execVfEnableWrite on s
  | .vfFlr v => Sys2Proof.Machine.execVfFlr v s
  | .pfFlr => Sys2Proof.Machine.execPfFlr s
  | .hostLinkError => Sys2Proof.Machine.execHostLinkError s
  | .hostLinkDown => Sys2Proof.Machine.execHostLinkDown s
  | .ideIntegrityFailure stream => Sys2Proof.Machine.execIdeIntegrityFailure stream s
  | .pfBarChange => Sys2Proof.Machine.execPfBarChange s
  | .lockInterfaceRequest stream => Sys2Proof.Machine.execLockInterfaceRequest stream s
  | .startInterfaceRequest => Sys2Proof.Machine.execStartInterfaceRequest s
  | .stopInterfaceRequest => Sys2Proof.Machine.execStopInterfaceRequest s
  | .doeDiscovery => Sys2Proof.Machine.execDoeDiscovery s
  | .getCertificate slot => Sys2Proof.Machine.execGetCertificate slot s
  | .spdmChallenge slot nonce => Sys2Proof.Machine.execSpdmChallenge slot nonce s
  | .getMeasurements nonce => Sys2Proof.Machine.execGetMeasurements nonce s
  | .keyExchange share => Sys2Proof.Machine.execKeyExchange share s
  | .ideKmKeyProg stream key => Sys2Proof.Machine.execIdeKmKeyProg stream key s
  | .commit src v => Sys2Proof.Machine.execCommit src v s
  | .release src v => Sys2Proof.Machine.execRelease src v s
  | .vfHostDrain v reads => Sys2Proof.Machine.execVfHostDrain v reads s
  | .vfContextsAborted v => Sys2Proof.Machine.execVfContextsAborted v s
  | .vfResourcesAccounted v => Sys2Proof.Machine.execVfResourcesAccounted v s
  | .vfTeardownEnd v => Sys2Proof.Machine.execVfTeardownEnd v s
  | .vfStateRecordWrite => Sys2Proof.Machine.execVfStateRecordWrite s
  | .granuleZeroed fn => Sys2Proof.Machine.execGranuleZeroed fn s
  | .vfMsixWrite v off be val => Sys2Proof.Machine.execVfMsixWrite v off be val s
  | .msixUnmask fn vec => Sys2Proof.Machine.execMsixUnmask fn vec s
  | .doorbellSq bar page bound v => Sys2Proof.Machine.execDoorbellSq bar page bound v s
  | .doorbellCq bar page bound v => Sys2Proof.Machine.execDoorbellCq bar page bound v s
  | .queueArm bar page bound => Sys2Proof.Machine.execQueueArm bar page bound s
  | .build fn bound v => Sys2Proof.Machine.execBuild fn bound v s
  | .unbuild fn bound v => Sys2Proof.Machine.execUnbuild fn bound v s
  | .serviceQueueUnbuilt fn => Sys2Proof.Machine.execServiceQueueUnbuilt fn s
  | .descriptorFetch qp raw => Sys2Proof.Machine.execDescriptorFetch qp raw s
  | .fetchError qp => Sys2Proof.Machine.execFetchError qp s
  | .descriptorStart qp sub => Sys2Proof.Machine.execDescriptorStart qp sub s
  | .completionWrite qp sub => Sys2Proof.Machine.execCompletionWrite qp sub s
  | .nop qp sub => Sys2Proof.Machine.execNop qp sub s
  | .ackAttention qp sub => Sys2Proof.Machine.execAckAttention qp sub s
  | .getAttention qp sub => Sys2Proof.Machine.execGetAttention qp sub s
  | .createContext qp sub => Sys2Proof.Machine.execCreateContext qp sub s
  | .destroyContext qp sub => Sys2Proof.Machine.execDestroyContext qp sub s
  | .resetContext qp sub => Sys2Proof.Machine.execResetContext qp sub s
  | .contextResetComplete ctx => Sys2Proof.Machine.execContextResetComplete ctx s
  | .createQueuePair qp sub => Sys2Proof.Machine.execCreateQueuePair qp sub s
  | .destroyQueuePair qp sub => Sys2Proof.Machine.execDestroyQueuePair qp sub s
  | .createMemory qp sub => Sys2Proof.Machine.execCreateMemory qp sub s
  | .destroyMemory qp sub => Sys2Proof.Machine.execDestroyMemory qp sub s
  | .createEvent qp sub => Sys2Proof.Machine.execCreateEvent qp sub s
  | .destroyEvent qp sub => Sys2Proof.Machine.execDestroyEvent qp sub s
  | .exportEvent qp sub => Sys2Proof.Machine.execExportEvent qp sub s
  | .loadTaskGraph qp sub badSig => Sys2Proof.Machine.execLoadTaskGraph qp sub badSig s
  | .taskGraphLoaded graph => Sys2Proof.Machine.execTaskGraphLoaded graph s
  | .destroyTaskGraph qp sub => Sys2Proof.Machine.execDestroyTaskGraph qp sub s
  | .copy qp sub host fail => Sys2Proof.Machine.execCopy qp sub host fail s
  | .fill qp sub => Sys2Proof.Machine.execFill qp sub s
  | .launchGraph qp sub => Sys2Proof.Machine.execLaunchGraph qp sub s
  | .eventSignal qp sub => Sys2Proof.Machine.execEventSignal qp sub s
  | .eventAdd qp sub => Sys2Proof.Machine.execEventAdd qp sub s
  | .eventReset qp sub => Sys2Proof.Machine.execEventReset qp sub s
  | .eventWait qp sub => Sys2Proof.Machine.execEventWait qp sub s
  | .eventWaitTimeout qp sub => Sys2Proof.Machine.execEventWaitTimeout qp sub s
  | .eventQuery qp sub => Sys2Proof.Machine.execEventQuery qp sub s
  | .eventRemote qp sub => Sys2Proof.Machine.execEventRemote qp sub s
  | .eventReq node op handle value txn => Sys2Proof.Machine.execEventReq node op handle value txn s
  | .eventRsp qp sub status => Sys2Proof.Machine.execEventRsp qp sub status s
  | .eventRemoteTimeout qp sub => Sys2Proof.Machine.execEventRemoteTimeout qp sub s
  | .heartbeat fn => Sys2Proof.Machine.execHeartbeat fn s
  | .destructionComplete handle => Sys2Proof.Machine.execDestructionComplete handle s
  | .overflowMove part => Sys2Proof.Machine.execOverflowMove part s
  | .taskPlace part => Sys2Proof.Machine.execTaskPlace part s
  | .taskEnd launch task e => Sys2Proof.Machine.execTaskEnd launch task e s
  | .exitActionComplete launch task => Sys2Proof.Machine.execExitActionComplete launch task s
  | .launchComplete launch => Sys2Proof.Machine.execLaunchComplete launch s
  | .generationResolvable gen => Sys2Proof.Machine.execGenerationResolvable gen s
  | .commitPoint gen => Sys2Proof.Machine.execCommitPoint gen s
  | .versionSpaceReturn gen => Sys2Proof.Machine.execVersionSpaceReturn gen s
  | .oldGranuleFree gen => Sys2Proof.Machine.execOldGranuleFree gen s
  | .launchCancel qp sub => Sys2Proof.Machine.execLaunchCancel qp sub s
  | .provDiscard qp sub => Sys2Proof.Machine.execProvDiscard qp sub s
  | .provQuery qp sub => Sys2Proof.Machine.execProvQuery qp sub s
  | .matrixOpStart c staged => Sys2Proof.Machine.execMatrixOpStart c staged s
  | .chunkLoadComplete c staged sub cy => Sys2Proof.Machine.execChunkLoadComplete c staged sub cy s
  | .blockBankComplete c sub cy => Sys2Proof.Machine.execBlockBankComplete c sub cy s
  | .bankFree c cy => Sys2Proof.Machine.execBankFree c cy s
  | .matrixTaskEnd c overrun => Sys2Proof.Machine.execMatrixTaskEnd c overrun s
  | .matrixPoisonedLoad c staged sub => Sys2Proof.Machine.execMatrixPoisonedLoad c staged sub s
  | .matrixUncorrectableError c => Sys2Proof.Machine.execMatrixUncorrectableError c s
  | .correctedError site => Sys2Proof.Machine.execCorrectedError site s
  | .gapBegin c => Sys2Proof.Machine.execGapBegin c s
  | .gapWindowExpire c dummy => Sys2Proof.Machine.execGapWindowExpire c dummy s
  | .rampWindowGrant p => Sys2Proof.Machine.execRampWindowGrant p s
  | .rampUpComplete c => Sys2Proof.Machine.execRampUpComplete c s
  | .rampDownComplete c => Sys2Proof.Machine.execRampDownComplete c s
  | .scalarInstruction core th ins => Sys2Proof.Machine.execScalarInstruction core th ins s
  | .vectorArithmetic core th m ins => Sys2Proof.Machine.execVectorArithmetic core th m ins s
  | .specialFunction core th m f vd va => Sys2Proof.Machine.execSpecialFunction core th m f vd va s
  | .crossLaneReduction core th m op vd va => Sys2Proof.Machine.execCrossLaneReduction core th m op vd va s
  | .cast core th m op vd va sc => Sys2Proof.Machine.execCast core th m op vd va sc s
  | .vrand core th m vd => Sys2Proof.Machine.execVrand core th m vd s
  | .flagsRd core th rd => Sys2Proof.Machine.execFlagsRd core th rd s
  | .flagsClr core th bits => Sys2Proof.Machine.execFlagsClr core th bits s
  | .argbase core th rd k => Sys2Proof.Machine.execArgbase core th rd k s
  | .vectorLoadStore core th m ins => Sys2Proof.Machine.execVectorLoadStore core th m ins s
  | .gatherScatter core th m ins => Sys2Proof.Machine.execGatherScatter core th m ins s
  | .lineFill core th => Sys2Proof.Machine.execLineFill core th s
  | .atomic core th op rd ra rb size => Sys2Proof.Machine.execAtomic core th op rd ra rb size s
  | .cflush core th ra rb => Sys2Proof.Machine.execCflush core th ra rb s
  | .cinv core th ra rb => Sys2Proof.Machine.execCinv core th ra rb s
  | .cflushinv core th ra rb => Sys2Proof.Machine.execCflushinv core th ra rb s
  | .mfence core th => Sys2Proof.Machine.execMfence core th s
  | .mfenceComplete core th => Sys2Proof.Machine.execMfenceComplete core th s
  | .vectorUncorrectableError core site => Sys2Proof.Machine.execVectorUncorrectableError core site s
  | .lrSc core ins => Sys2Proof.Machine.execLrSc core ins s
  | .amo core op rd addr value size => Sys2Proof.Machine.execAmo core op rd addr value size s
  | .cboClean core addr stored => Sys2Proof.Machine.execCboClean core addr stored s
  | .cboFlush core addr stored => Sys2Proof.Machine.execCboFlush core addr stored s
  | .cboInval core addr stored => Sys2Proof.Machine.execCboInval core addr stored s
  | .fence core => Sys2Proof.Machine.execFence core s
  | .fenceI core => Sys2Proof.Machine.execFenceI core s
  | .exit core a0 overrun stored => Sys2Proof.Machine.execExit core a0 overrun stored s
  | .envCallArgbase core k => Sys2Proof.Machine.execEnvCallArgbase core k s
  | .time core => Sys2Proof.Machine.execTime core s
  | .serviceCoreError core => Sys2Proof.Machine.execServiceCoreError core s
  | .firmwareStall core => Sys2Proof.Machine.execFirmwareStall core s
  | .memProtect qp sub => Sys2Proof.Machine.execMemProtect qp sub s
  | .rulesChangePoint qp sub => Sys2Proof.Machine.execRulesChangePoint qp sub s
  | .rulesFence qp sub => Sys2Proof.Machine.execRulesFence qp sub s
  | .rulesFenceComplete qp sub => Sys2Proof.Machine.execRulesFenceComplete qp sub s
  | .cstReside qp sub => Sys2Proof.Machine.execCstReside qp sub s
  | .cstEvict qp sub => Sys2Proof.Machine.execCstEvict qp sub s
  | .memQuery qp sub => Sys2Proof.Machine.execMemQuery qp sub s
  | .poisonScan qp sub => Sys2Proof.Machine.execPoisonScan qp sub s
  | .pageZeroDone slot page => Sys2Proof.Machine.execPageZeroDone slot page s
  | .hbmAdmission stack new => Sys2Proof.Machine.execHbmAdmission stack new s
  | .hbmTransactionComplete stack id lines => Sys2Proof.Machine.execHbmTransactionComplete stack id lines s
  | .correctedLineRewrite stack line => Sys2Proof.Machine.execCorrectedLineRewrite stack line s
  | .clusterStoreUncorrectable cluster slot off => Sys2Proof.Machine.execClusterStoreUncorrectable cluster slot off s
  | .badgerChunkRead stack lines => Sys2Proof.Machine.execBadgerChunkRead stack lines s
  | .allocRequest pool reqs => Sys2Proof.Machine.execAllocRequest pool reqs s
  | .bufferFree pool buf => Sys2Proof.Machine.execBufferFree pool buf s
  | .reservationLapse pool req => Sys2Proof.Machine.execReservationLapse pool req s
  | .haltHeartbeatStop => Sys2Proof.Machine.execHaltHeartbeatStop s
  | .layoutSwitchDone => Sys2Proof.Machine.execLayoutSwitchDone s
  | .flitReceive port f crcOk tagOk => Sys2Proof.Machine.execFlitReceive port f crcOk tagOk s
  | .nak port seq => Sys2Proof.Machine.execNak port seq s
  | .replayTimerExpire port => Sys2Proof.Machine.execReplayTimerExpire port s
  | .retrain src port => Sys2Proof.Machine.execRetrain src port s
  | .laneFailure port lane => Sys2Proof.Machine.execLaneFailure port lane s
  | .retrainComplete port => Sys2Proof.Machine.execRetrainComplete port s
  | .retrainLimitExpire port => Sys2Proof.Machine.execRetrainLimitExpire port s
  | .trainingAttempt port => Sys2Proof.Machine.execTrainingAttempt port s
  | .trainingComplete port => Sys2Proof.Machine.execTrainingComplete port s
  | .hello port node peerPort serial role conf digest => Sys2Proof.Machine.execHello port node peerPort serial role conf digest s
  | .helloResend port => Sys2Proof.Machine.execHelloResend port s
  | .planChangeCheck port => Sys2Proof.Machine.execPlanChangeCheck port s
  | .transitStallExpire port vc => Sys2Proof.Machine.execTransitStallExpire port vc s
  | .routeWrite src => Sys2Proof.Machine.execRouteWrite src s
  | .routeRead src => Sys2Proof.Machine.execRouteRead src s
  | .beaconTimer => Sys2Proof.Machine.execBeaconTimer s
  | .beacon port node prio serial term held => Sys2Proof.Machine.execBeacon port node prio serial term held s
  | .claimExpire => Sys2Proof.Machine.execClaimExpire s
  | .announceTimer => Sys2Proof.Machine.execAnnounceTimer s
  | .announce port node term standby takeover => Sys2Proof.Machine.execAnnounce port node term standby takeover s
  | .keepaliveTimer => Sys2Proof.Machine.execKeepaliveTimer s
  | .keepalive port node term step arrived => Sys2Proof.Machine.execKeepalive port node term step arrived s
  | .keepaliveLoss => Sys2Proof.Machine.execKeepaliveLoss s
  | .relinquish port node => Sys2Proof.Machine.execRelinquish port node s
  | .resyncReport node step arrived => Sys2Proof.Machine.execResyncReport node step arrived s
  | .announceWatchExpire => Sys2Proof.Machine.execAnnounceWatchExpire s
  | .noManagerExpire => Sys2Proof.Machine.execNoManagerExpire s
  | .planLoad src magic nChips nRoutes domain chips routes => Sys2Proof.Machine.execPlanLoad src magic nChips nRoutes domain chips routes s
  | .plan port node treePort plans routes => Sys2Proof.Machine.execPlan port node treePort plans routes s
  | .healthSummaryTimer => Sys2Proof.Machine.execHealthSummaryTimer s
  | .healthSummaryMissing node => Sys2Proof.Machine.execHealthSummaryMissing node s
  | .syncReqTimer => Sys2Proof.Machine.execSyncReqTimer s
  | .syncReq port node t1 => Sys2Proof.Machine.execSyncReq port node t1 s
  | .syncReply t2 t3 bound => Sys2Proof.Machine.execSyncReply t2 t3 bound s
  | .wmkPpsEdge => Sys2Proof.Machine.execWmkPpsEdge s
  | .timeSet src v => Sys2Proof.Machine.execTimeSet src v s
  | .arriveSignal => Sys2Proof.Machine.execArriveSignal s
  | .arrive port node step => Sys2Proof.Machine.execArrive port node step s
  | .advance port node term step time set => Sys2Proof.Machine.execAdvance port node term step time set s
  | .advanceApply => Sys2Proof.Machine.execAdvanceApply s
  | .stepSet src v => Sys2Proof.Machine.execStepSet src v s
  | .trigPost qp sub => Sys2Proof.Machine.execTrigPost qp sub s
  | .trigCancel qp sub => Sys2Proof.Machine.execTrigCancel qp sub s
  | .groupCreate qp sub => Sys2Proof.Machine.execGroupCreate qp sub s
  | .groupDestroy qp sub => Sys2Proof.Machine.execGroupDestroy qp sub s
  | .groupQuery qp sub => Sys2Proof.Machine.execGroupQuery qp sub s
  | .collectiveOpStart eng => Sys2Proof.Machine.execCollectiveOpStart eng s
  | .exp port node tag seq sig first exps => Sys2Proof.Machine.execExp port node tag seq sig first exps s
  | .go port node tag seq sig first n exps => Sys2Proof.Machine.execGo port node tag seq sig first n exps s
  | .ready port node tag seq sig => Sys2Proof.Machine.execReady port node tag seq sig s
  | .done port node tag seq sig => Sys2Proof.Machine.execDone port node tag seq sig s
  | .abort port node tag seq sig reason rank fallback => Sys2Proof.Machine.execAbort port node tag seq sig reason rank fallback s
  | .busy port node tag seq kind => Sys2Proof.Machine.execBusy port node tag seq kind s
  | .busyRetry op kind rank => Sys2Proof.Machine.execBusyRetry op kind rank s
  | .collData port node tag seq seg rank chunk data => Sys2Proof.Machine.execCollData port node tag seq seg rank chunk data s
  | .collAck port node tag seq kind => Sys2Proof.Machine.execCollAck port node tag seq kind s
  | .resendTimer op seg kind rank => Sys2Proof.Machine.execResendTimer op seg kind rank s
  | .operationTimeout op => Sys2Proof.Machine.execOperationTimeout op s
  | .caps port types members memKib => Sys2Proof.Machine.execCaps port types members memKib s
  | .swRefuse port tag seq seg => Sys2Proof.Machine.execSwRefuse port tag seq seg s
  | .switchSum port tag seq seg data => Sys2Proof.Machine.execSwitchSum port tag seq seg data s
  | .switchSumTimeout op => Sys2Proof.Machine.execSwitchSumTimeout op s
  | .reductionStoreError eng => Sys2Proof.Machine.execReductionStoreError eng s
  | .schedLoad qp sub => Sys2Proof.Machine.execSchedLoad qp sub s
  | .admissionComplete qp sub => Sys2Proof.Machine.execAdmissionComplete qp sub s
  | .tollgateCheck qp sub => Sys2Proof.Machine.execTollgateCheck qp sub s
  | .schedStart qp sub => Sys2Proof.Machine.execSchedStart qp sub s
  | .schedStop qp sub => Sys2Proof.Machine.execSchedStop qp sub s
  | .schedQuery qp sub => Sys2Proof.Machine.execSchedQuery qp sub s
  | .schedUnload qp sub => Sys2Proof.Machine.execSchedUnload qp sub s
  | .runnerStepStart ctx => Sys2Proof.Machine.execRunnerStepStart ctx s
  | .launchRetry qp sub => Sys2Proof.Machine.execLaunchRetry qp sub s
  | .runnerStepEnd ctx => Sys2Proof.Machine.execRunnerStepEnd ctx s
  | .readmission ctx => Sys2Proof.Machine.execReadmission ctx s
  | .streamOpen qp sub => Sys2Proof.Machine.execStreamOpen qp sub s
  | .openAck port node stream reason => Sys2Proof.Machine.execOpenAck port node stream reason s
  | .openResend stream => Sys2Proof.Machine.execOpenResend stream s
  | .streamClose qp sub => Sys2Proof.Machine.execStreamClose qp sub s
  | .streamQuery qp sub => Sys2Proof.Machine.execStreamQuery qp sub s
  | .streamPosition qp sub => Sys2Proof.Machine.execStreamPosition qp sub s
  | .ingestData port node stream txn first data => Sys2Proof.Machine.execIngestData port node stream txn first data s
  | .idleFlush stream => Sys2Proof.Machine.execIdleFlush stream s
  | .holdAck port node stream => Sys2Proof.Machine.execHoldAck port node stream s
  | .resumeAck port node stream => Sys2Proof.Machine.execResumeAck port node stream s
  | .closeAck port node stream ssn => Sys2Proof.Machine.execCloseAck port node stream ssn s
  | .holdResendTimer stream => Sys2Proof.Machine.execHoldResendTimer stream s
  | .moverCopy stream => Sys2Proof.Machine.execMoverCopy stream s
  | .ckpConfig qp sub => Sys2Proof.Machine.execCkpConfig qp sub s
  | .ckpTrigger qp sub => Sys2Proof.Machine.execCkpTrigger qp sub s
  | .ckpDisarm qp sub => Sys2Proof.Machine.execCkpDisarm qp sub s
  | .ckpRestore qp sub => Sys2Proof.Machine.execCkpRestore qp sub s
  | .ckpQuery qp sub => Sys2Proof.Machine.execCkpQuery qp sub s
  | .snapshotPoint ctx => Sys2Proof.Machine.execSnapshotPoint ctx s
  | .chunkSend txn => Sys2Proof.Machine.execChunkSend txn s
  | .ack port node txn status chunk window => Sys2Proof.Machine.execAck port node txn status chunk window s
  | .chunkResendTimer txn chunk => Sys2Proof.Machine.execChunkResendTimer txn chunk s
  | .durable port node txn => Sys2Proof.Machine.execDurable port node txn s
  | .digestReport node rank step inc shape digest len store buddy result => Sys2Proof.Machine.execDigestReport node rank step inc shape digest len store buddy result s
  | .manifestDone node step inc result => Sys2Proof.Machine.execManifestDone node step inc result s
  | .manifestWaitExpire ctx manager => Sys2Proof.Machine.execManifestWaitExpire ctx manager s
  | .statRsp port node txn status len valid => Sys2Proof.Machine.execStatRsp port node txn status len valid s
  | .putOpen node txn name len => Sys2Proof.Machine.execPutOpen node txn name len s
  | .putClose node txn digest => Sys2Proof.Machine.execPutClose node txn digest s
  | .getOpen node txn name first count bad => Sys2Proof.Machine.execGetOpen node txn name first count bad s
  | .ckpData port node txn off data => Sys2Proof.Machine.execCkpData port node txn off data s
  | .restoreChunk ctx => Sys2Proof.Machine.execRestoreChunk ctx s
  | .restoreComplete ctx => Sys2Proof.Machine.execRestoreComplete ctx s
  | .sessionOpen qp sub bound cfg => Sys2Proof.Machine.execSessionOpen qp sub bound cfg s
  | .sessionClose qp sub => Sys2Proof.Machine.execSessionClose qp sub s
  | .sessionReport qp sub => Sys2Proof.Machine.execSessionReport qp sub s
  | .keyImport qp sub => Sys2Proof.Machine.execKeyImport qp sub s
  | .keyErase qp sub => Sys2Proof.Machine.execKeyErase qp sub s
  | .memkeyLoad qp sub => Sys2Proof.Machine.execMemkeyLoad qp sub s
  | .memkeyErase qp sub => Sys2Proof.Machine.execMemkeyErase qp sub s
  | .weightMeasure qp sub => Sys2Proof.Machine.execWeightMeasure qp sub s
  | .logExport qp sub => Sys2Proof.Machine.execLogExport qp sub s
  | .publicKeySlotEnd => Sys2Proof.Machine.execPublicKeySlotEnd s
  | .uniformRefusalWrite qp sub => Sys2Proof.Machine.execUniformRefusalWrite qp sub s
  | .entropyHealthFailure => Sys2Proof.Machine.execEntropyHealthFailure s
  | .offer port switch b => Sys2Proof.Machine.execOffer port switch b s
  | .proof port sig => Sys2Proof.Machine.execProof port sig s
  | .finish port mac => Sys2Proof.Machine.execFinish port mac s
  | .reject port => Sys2Proof.Machine.execReject port s
  | .handshakeRetry port => Sys2Proof.Machine.execHandshakeRetry port s
  | .jtagExtest => Sys2Proof.Machine.execJtagExtest s
  | .jtagExtestExit => Sys2Proof.Machine.execJtagExtestExit s
  | .tokenDigestProgram slot d => Sys2Proof.Machine.execTokenDigestProgram slot d s
  | .transitionCommand src target => Sys2Proof.Machine.execTransitionCommand src target s
  | .transitionDecision eraseOk => Sys2Proof.Machine.execTransitionDecision eraseOk s
  | .partitionHwError part => Sys2Proof.Machine.execPartitionHwError part s
  | .chipHwError => Sys2Proof.Machine.execChipHwError s
  | .engineResetComplete unit t => Sys2Proof.Machine.execEngineResetComplete unit t s
  | .partitionResetComplete part ok => Sys2Proof.Machine.execPartitionResetComplete part ok s
  | .boundMiss r units parts => Sys2Proof.Machine.execBoundMiss r units parts s
  | .progressMiss r units parts => Sys2Proof.Machine.execProgressMiss r units parts s
  | .engineResetCommand src unit => Sys2Proof.Machine.execEngineResetCommand src unit s
  | .partitionResetCommand src unit => Sys2Proof.Machine.execPartitionResetCommand src unit s
  | .chipResetCommand src => Sys2Proof.Machine.execChipResetCommand src s
  | .ageingRead readings => Sys2Proof.Machine.execAgeingRead readings s
  | .replicaRead slack => Sys2Proof.Machine.execReplicaRead slack s
  | .marginFloorRetire c => Sys2Proof.Machine.execMarginFloorRetire c s
  | .dailyReplan => Sys2Proof.Machine.execDailyReplan s
  | .replan src => Sys2Proof.Machine.execReplan src s
  | .replanComplete volts clocks retire => Sys2Proof.Machine.execReplanComplete volts clocks retire s
  | .policyWrite src l v allowed unit => Sys2Proof.Machine.execPolicyWrite src l v allowed unit s
  | .placementCooldown c => Sys2Proof.Machine.execPlacementCooldown c s
  | .cooldownEnd c => Sys2Proof.Machine.execCooldownEnd c s
  | .eyeMonitorRead margins => Sys2Proof.Machine.execEyeMonitorRead margins s
  | .ledgerTimeLoad => Sys2Proof.Machine.execLedgerTimeLoad s
  | .meterTick energy charges => Sys2Proof.Machine.execMeterTick energy charges s
  | .intervalClose => Sys2Proof.Machine.execIntervalClose s
  | .periodStart => Sys2Proof.Machine.execPeriodStart s
  | .periodWrite src r v => Sys2Proof.Machine.execPeriodWrite src r v s
  | .dailyHealthRecord => Sys2Proof.Machine.execDailyHealthRecord s
  | .logbookCommit => Sys2Proof.Machine.execLogbookCommit s
  | .pageProgramFail last => Sys2Proof.Machine.execPageProgramFail last s
  | .logbookBlockErase => Sys2Proof.Machine.execLogbookBlockErase s
  | .ledgerRead qp sub => Sys2Proof.Machine.execLedgerRead qp sub s
  | .ledgerExport qp sub => Sys2Proof.Machine.execLedgerExport qp sub s
  | .logbookRead qp sub => Sys2Proof.Machine.execLogbookRead qp sub s
  | .setdasa static addr => Sys2Proof.Machine.execSetdasa static addr s
  | .entdaa addr => Sys2Proof.Machine.execEntdaa addr s
  | .setnewda addr => Sys2Proof.Machine.execSetnewda addr s
  | .rstdaa => Sys2Proof.Machine.execRstdaa s
  | .enec int => Sys2Proof.Machine.execEnec int s
  | .disec int => Sys2Proof.Machine.execDisec int s
  | .getstatus => Sys2Proof.Machine.execGetstatus s
  | .getpid => Sys2Proof.Machine.execGetpid s
  | .getbcr => Sys2Proof.Machine.execGetbcr s
  | .getdcr => Sys2Proof.Machine.execGetdcr s
  | .getmwl => Sys2Proof.Machine.execGetmwl s
  | .getmrl => Sys2Proof.Machine.execGetmrl s
  | .setmwl v => Sys2Proof.Machine.execSetmwl v s
  | .setmrl v => Sys2Proof.Machine.execSetmrl v s
  | .privateWrite bytes => Sys2Proof.Machine.execPrivateWrite bytes s
  | .privateRead => Sys2Proof.Machine.execPrivateRead s
  | .ibiRepeat => Sys2Proof.Machine.execIbiRepeat s
  | .ibiNackRetry => Sys2Proof.Machine.execIbiNackRetry s
  | .uartByte stop b => Sys2Proof.Machine.execUartByte stop b s
  | .uartGapDiscard => Sys2Proof.Machine.execUartGapDiscard s
  | .identity uart => Sys2Proof.Machine.execIdentity uart s
  | .status uart => Sys2Proof.Machine.execStatus uart s
  | .alertAck uart => Sys2Proof.Machine.execAlertAck uart s
  | .health uart => Sys2Proof.Machine.execHealth uart s
  | .domainView uart => Sys2Proof.Machine.execDomainView uart s
  | .recordRead uart => Sys2Proof.Machine.execRecordRead uart s
  | .ledger uart => Sys2Proof.Machine.execLedger uart s
  | .trayCap uart => Sys2Proof.Machine.execTrayCap uart s
  | .reset uart => Sys2Proof.Machine.execReset uart s
  | .lifecycle uart => Sys2Proof.Machine.execLifecycle uart s
  | .cabling uart => Sys2Proof.Machine.execCabling uart s
  | .challenge uart => Sys2Proof.Machine.execChallenge uart s
  | .trayProvision uart => Sys2Proof.Machine.execTrayProvision uart s
  | .fwWrite uart => Sys2Proof.Machine.execFwWrite uart s
  | .fwCommit uart a => Sys2Proof.Machine.execFwCommit uart a s
  | .fwFloor uart => Sys2Proof.Machine.execFwFloor uart s
  | .fwRevoke uart => Sys2Proof.Machine.execFwRevoke uart s
  | .closeResend stream => Sys2Proof.Machine.execCloseResend stream s
  | .coolantInletNormal temp => Sys2Proof.Machine.execCoolantInletNormal temp s
  | .entropyHealthRestored => Sys2Proof.Machine.execEntropyHealthRestored s
  | .healthSummary node summary => Sys2Proof.Machine.execHealthSummary node summary s
  | .completionTimeout qp sub fetch => Sys2Proof.Machine.execCompletionTimeout qp sub fetch s
  | .vfResizableBarWrite mib => Sys2Proof.Machine.execVfResizableBarWrite mib s
  | .hostLinkInL0 => Sys2Proof.Machine.execHostLinkInL0 s

end Sys2Proof.Machine
end

