-- ==== Sys2Proof/Machine/Step.lean ====
section
/-!
DEFINITION. Sys2Proof/Machine/Step.lean: one step takes the command at the front of the queue; an empty queue lets one
nanosecond pass.
-/
namespace Sys2Proof.Machine

/-- DESIGN CHOICE (log 2): with no command waiting, one nanosecond passes: the model's clock, the time base and ledger
time advance (R314, R505). Everything else that time brings is a command. -/
def idle (s : State) : State := tickNs s

/-- One step: the front command on the queue's rest, or one nanosecond. -/
def step (s : State) : Host.Outcome State Fault Refusal :=
  match s.pending with
  | [] => .next (idle s)
  | c :: rest => exec c { s with pending := rest }

/-- `s` with the command a word spells at the front of its queue; unchanged where the word spells none. -/
def State.withFetchWord (s : State) (nbits w : Nat) : State :=
  match decodeTableWord nbits w with
  | some c => { s with pending := c :: s.pending }
  | none => s

end Sys2Proof.Machine
end

