-- ==== Sys2Proof/Safety.lean ====
section
/-!
DEFINITION. Sys2Proof/Safety.lean: what holds of every state the block can be in and of every step, in the terms the
statements use: the canonical memory, what is permanent in the module, and the parts of the state a command may change.
-/
namespace Sys2Proof
open Sys2Proof.Machine

/-- The memory of a state is in canonical form. -/
abbrev memoryWf (s : State) : Prop := Memory.wf s.mem

/-! ## What is permanent -/

/-- Each bit of one number is set in another. -/
def BitsIn (a b : Nat) : Prop := ∀ i, a.testBit i = true → b.testBit i = true

/-- What is permanent in the module stays: retired clusters (R501), the programmed positions of the life-cycle word in its
three copies (R458, R459), erased trim words (R468), the firmware floor and the revocation bits (R222), and the record
numbers given out (R512). -/
structure OneWay (a b : NvState) : Prop where
  /-- A cluster once retired stays so. -/
  retired : ∀ c, c ∈ a.retired → c ∈ b.retired
  /-- Copy A of the life-cycle word. -/
  otpA : BitsIn a.otp.a b.otp.a
  /-- Copy B. -/
  otpB : BitsIn a.otp.b b.otp.b
  /-- Copy C. -/
  otpC : BitsIn a.otp.c b.otp.c
  /-- Trim words once erased stay so. -/
  trims : a.otp.trimsGone = true → b.otp.trimsGone = true
  /-- FLOOR never falls. -/
  floor : a.fw.floor ≤ b.fw.floor
  /-- A key index once revoked stays so. -/
  revoked : BitsIn a.fw.revoked b.fw.revoked
  /-- No record number is given out twice. -/
  seq : a.log.nextSeq ≤ b.log.nextSeq

/-! ## Chip reset -/

/-- From `s` a chip reset has led to `t` (R482): every block holds its reset value, the boot controller waits for a cold or a
warm sequence, and the reset is counted. -/
structure ChipReset (cold : Bool) (s t : State) : Prop where
  /-- Rings, descriptors and slots. -/
  cmd : t.cmd = CmdState.init
  /-- No object is left. -/
  objects : t.ctxs = [] ∧ t.mems = [] ∧ t.evs = [] ∧ t.mem = [] ∧ t.poison = []
  /-- No work is left. -/
  work : t.tsk = TskState.init ∧ t.col = ColState.init ∧ t.runners = [] ∧ t.admits = [] ∧ t.ing = IngState.init
    ∧ t.ckp = CkpState.init
  /-- The units. -/
  units : t.mxe = MxeState.init ∧ t.vcu = VcuState.init ∧ t.svc = SvcState.init ∧ t.hbm = MemState.init
    ∧ t.ime = ImeState.init
  /-- Links, waymark, owl, power and life-cycle registers. -/
  blocks : t.lnk = LnkState.init ∧ t.wmk = WmkState.init ∧ t.owl = OwlState.init ∧ t.pwr = PwrState.init
    ∧ t.lcs = LcsState.init
  /-- No session and no key. -/
  keys : t.sec.session = .none_ ∧ t.sec.keys = []
  /-- The sequence to come. -/
  boot : t.clk.phase = .waiting ∧ t.clk.milestone = 0 ∧ t.clk.warm = !cold ∧ t.clk.lock = false
  /-- The count, up to 255. -/
  count : t.flt.chipResets = satAdd 255 s.flt.chipResets 1

/-! ## Completion -/

/-- From `s` the command `c` completes, and the state it leaves is as `p` says. -/
def Runs (c : Instr) (s : State) (p : State → Prop) : Prop := ∃ t, exec c s = .next t ∧ p t

/-- A descriptor of an opcode has started and its opcode has yet to act (R94). -/
abbrev Started (s : State) (qp sub op : Nat) (d : Desc) : Prop :=
  findDesc s qp sub = some d ∧ dOp d = op ∧ d.phase = .started

/-- A descriptor of an opcode has acted and runs on until a later command ends it. -/
abbrev Running (s : State) (qp sub op : Nat) (d : Desc) : Prop :=
  findDesc s qp sub = some d ∧ dOp d = op ∧ d.phase = .running

/-- The result a descriptor has ended with; its completion record is still to be written (R98). -/
def resultOf (s : State) (qp sub : Nat) : Option Result :=
  (findDesc s qp sub).bind fun d =>
    match d.phase with
    | .ended r => some r
    | _ => none

/-- The status a descriptor has ended with. -/
def statusOf (s : State) (qp sub : Nat) : Option Nat := (resultOf s qp sub).map Result.status

/-- Nothing hangs on events: no launch and no triggered operation is in the device. -/
abbrev Quiet (s : State) : Prop := s.tsk.launches = [] ∧ s.col.ops = []

/-! ## Frames -/

/-- The parts of a state, less the queue. -/
inductive Part where
  /-- What has been sent out. -/
  | out
  /-- Free values taken. -/
  | draws
  /-- The clock of the model. -/
  | now
  /-- Held low halves. -/
  | hold64
  /-- Latched high halves. -/
  | latch64
  /-- Module, chapter 01. -/
  | mod
  /-- Boot controller, chapter 02. -/
  | clk
  /-- Faults and resets, chapter 19. -/
  | flt
  /-- Management port, chapter 21. -/
  | mgt
  /-- The logbook's buffer, chapter 20. -/
  | log
  /-- Owl, chapter 20. -/
  | owl
  /-- Power, chapter 20. -/
  | pwr
  /-- Ledger, chapter 20. -/
  | led
  /-- What survives power loss. -/
  | nv
  /-- Host link, chapter 03. -/
  | hif
  /-- Rings, descriptors and attention, chapter 04. -/
  | cmd
  /-- Contexts. -/
  | ctxs
  /-- Memory objects. -/
  | mems
  /-- Events. -/
  | evs
  /-- Contents of memory objects. -/
  | mem
  /-- Poisoned lines. -/
  | poison
  /-- Graphs, launches and generations, chapter 05. -/
  | tsk
  /-- Cluster store and HBM, chapter 09. -/
  | hbm
  /-- Inline protection, chapter 10. -/
  | ime
  /-- Links, chapter 11. -/
  | lnk
  /-- Waymark manager, chapter 12. -/
  | wmk
  /-- Collective engines, chapter 13. -/
  | col
  /-- Schedules, chapter 14. -/
  | runners
  /-- Admissions, chapter 14. -/
  | admits
  /-- Ingest, chapter 15. -/
  | ing
  /-- Checkpoints, chapter 16. -/
  | ckp
  /-- Sessions and keys, chapter 17. -/
  | sec
  /-- Life cycle, chapter 18. -/
  | lcs
  /-- Matrix engines, chapter 06. -/
  | mxe
  /-- Vector cores, chapter 08. -/
  | vcu
  /-- Service cores, chapter 08. -/
  | svc
  deriving DecidableEq, Repr

/-- The parts by number. -/
def partNo : Part → Nat
  | .out => 0
  | .draws => 1
  | .now => 2
  | .hold64 => 3
  | .latch64 => 4
  | .mod => 5
  | .clk => 6
  | .flt => 7
  | .mgt => 8
  | .log => 9
  | .owl => 10
  | .pwr => 11
  | .led => 12
  | .nv => 13
  | .hif => 14
  | .cmd => 15
  | .ctxs => 16
  | .mems => 17
  | .evs => 18
  | .mem => 19
  | .poison => 20
  | .tsk => 21
  | .hbm => 22
  | .ime => 23
  | .lnk => 24
  | .wmk => 25
  | .col => 26
  | .runners => 27
  | .admits => 28
  | .ing => 29
  | .ckp => 30
  | .sec => 31
  | .lcs => 32
  | .mxe => 33
  | .vcu => 34
  | .svc => 35

/-- A set of parts as a number: bit `partNo p` for each part. -/
def partMask : List Part → Nat
  | [] => 0
  | p :: l => Nat.lor (2 ^ partNo p) (partMask l)

/-- From `s` to `t` only the parts of a set change. -/
structure Only (ps : Nat) (s t : State) : Prop where
  out : ps.testBit 0 = false → t.out = s.out
  draws : ps.testBit 1 = false → t.draws = s.draws
  now : ps.testBit 2 = false → t.now = s.now
  hold64 : ps.testBit 3 = false → t.hold64 = s.hold64
  latch64 : ps.testBit 4 = false → t.latch64 = s.latch64
  mod : ps.testBit 5 = false → t.mod = s.mod
  clk : ps.testBit 6 = false → t.clk = s.clk
  flt : ps.testBit 7 = false → t.flt = s.flt
  mgt : ps.testBit 8 = false → t.mgt = s.mgt
  log : ps.testBit 9 = false → t.log = s.log
  owl : ps.testBit 10 = false → t.owl = s.owl
  pwr : ps.testBit 11 = false → t.pwr = s.pwr
  led : ps.testBit 12 = false → t.led = s.led
  nv : ps.testBit 13 = false → t.nv = s.nv
  hif : ps.testBit 14 = false → t.hif = s.hif
  cmd : ps.testBit 15 = false → t.cmd = s.cmd
  ctxs : ps.testBit 16 = false → t.ctxs = s.ctxs
  mems : ps.testBit 17 = false → t.mems = s.mems
  evs : ps.testBit 18 = false → t.evs = s.evs
  mem : ps.testBit 19 = false → t.mem = s.mem
  poison : ps.testBit 20 = false → t.poison = s.poison
  tsk : ps.testBit 21 = false → t.tsk = s.tsk
  hbm : ps.testBit 22 = false → t.hbm = s.hbm
  ime : ps.testBit 23 = false → t.ime = s.ime
  lnk : ps.testBit 24 = false → t.lnk = s.lnk
  wmk : ps.testBit 25 = false → t.wmk = s.wmk
  col : ps.testBit 26 = false → t.col = s.col
  runners : ps.testBit 27 = false → t.runners = s.runners
  admits : ps.testBit 28 = false → t.admits = s.admits
  ing : ps.testBit 29 = false → t.ing = s.ing
  ckp : ps.testBit 30 = false → t.ckp = s.ckp
  sec : ps.testBit 31 = false → t.sec = s.sec
  lcs : ps.testBit 32 = false → t.lcs = s.lcs
  mxe : ps.testBit 33 = false → t.mxe = s.mxe
  vcu : ps.testBit 34 = false → t.vcu = s.vcu
  svc : ps.testBit 35 = false → t.svc = s.svc

/-- Every part. -/
def allParts : List Part :=
  [.out, .draws, .now, .hold64, .latch64, .mod, .clk, .flt, .mgt, .log, .owl, .pwr, .led, .nv, .hif, .cmd,
  .ctxs, .mems, .evs, .mem, .poison, .tsk, .hbm, .ime, .lnk, .wmk, .col, .runners, .admits, .ing, .ckp, .sec,
  .lcs, .mxe, .vcu, .svc]

/-- The parts of the state a command may change; it leaves every other part as it was. -/
def partsOf : Instr → List Part
  | .registerWrite ..
    => [.out, .clk, .flt, .pwr, .led, .hif, .cmd, .hbm, .lnk, .wmk, .col, .ing, .ckp, .lcs, .mxe, .svc]
  | .shadowApply .. | .setUpLock .. => [.clk, .pwr, .hif, .cmd, .hbm, .wmk, .ckp, .mxe, .svc]
  | .lowHalfWrite .. => [.hold64]
  | .highHalfWrite .. | .perstNAssert .. | .modResetNAssert .. | .powerFailConfirm | .railsFall
  | .tamperAlarmArrival | .thermalLoop .. | .milestoneAdvance .. | .stallWindowExpire | .milestoneLimitExpire
  | .pfFlr | .hostLinkDown | .ideIntegrityFailure .. | .pfBarChange | .stopInterfaceRequest
  | .matrixUncorrectableError .. | .vectorUncorrectableError .. | .serviceCoreError .. | .firmwareStall ..
  | .resyncReport .. | .noManagerExpire | .arriveSignal | .arrive .. | .advance .. | .advanceApply
  | .stepSet .. | .reductionStoreError .. | .jtagExtest | .jtagExtestExit | .transitionDecision ..
  | .partitionHwError .. | .chipHwError | .boundMiss .. | .progressMiss .. | .engineResetCommand ..
  | .partitionResetCommand .. | .chipResetCommand .. | .reset .. => allParts
  | .lowHalfRead .. => [.out, .latch64]
  | .blockedRegisterAccess .. | .doeDiscovery | .getCertificate .. | .getpid | .getbcr | .getdcr | .getmwl
  | .getmrl | .setmwl .. | .setmrl .. => [.out]
  | .powerUp .. | .powerReturnStable .. => [.out, .mod, .flt, .mgt, .log, .led, .nv, .sec]
  | .bulkCharged | .railsInRegulation | .perstNRelease | .thermalTripRecovery => [.mod]
  | .strapSample .. => [.mod, .log, .nv]
  | .modResetNRelease | .coolantInletNormal .. => [.out, .mod, .mgt]
  | .powerFailStop => [.mod, .mxe]
  | .powerFailCommit => [.out, .draws, .mod, .mgt, .log, .led, .nv, .cmd]
  | .tamperLoopCheck .. => [.draws, .mod, .nv, .sec]
  | .meshCheck .. | .vbatLoss .. => [.mod, .nv, .sec]
  | .voltageAlarm .. | .clockAlarm .. | .temperatureAlarm .. => [.nv, .sec]
  | .inletOverTemperature .. => [.out, .mod, .mgt, .log, .nv]
  | .thermalStageRelease .. => [.mod, .clk, .mxe]
  | .powerLimiterTick .. | .periodStart => [.pwr, .led]
  | .startSequence | .progressTick | .faultPathHoldEnd | .hostLinkInL0 => [.clk]
  | .numvfsWrite .. | .vfEnableWrite .. | .vfFlr .. | .release .. => [.hif, .cmd]
  | .hostLinkError => [.out, .flt, .log, .nv]
  | .lockInterfaceRequest .. | .startInterfaceRequest | .ideKmKeyProg .. | .vfMsixWrite .. | .msixUnmask ..
    => [.out, .hif]
  | .spdmChallenge .. | .getMeasurements .. => [.out, .sec]
  | .keyExchange .. => [.out, .draws, .sec]
  | .commit .. | .vfHostDrain .. | .vfResourcesAccounted .. | .vfTeardownEnd .. | .granuleZeroed ..
  | .vfResizableBarWrite .. => [.hif]
  | .vfContextsAborted .. | .sessionClose ..
    => [.out, .hif, .cmd, .ctxs, .mems, .evs, .mem, .poison, .tsk, .hbm, .ime, .lnk, .wmk, .col, .runners,
    .ing, .ckp, .sec, .mxe, .vcu, .svc]
  | .vfStateRecordWrite | .heartbeat .. => [.out, .hif, .cmd]
  | .doorbellSq .. | .doorbellCq .. | .queueArm .. | .build .. | .unbuild .. | .serviceQueueUnbuilt ..
  | .descriptorStart .. | .nop .. | .ackAttention .. | .getAttention .. | .createQueuePair .. | .eventWait ..
  | .eventWaitTimeout .. | .eventQuery .. | .eventRsp .. | .eventRemoteTimeout .. | .provQuery ..
  | .memQuery .. | .poisonScan .. | .groupQuery .. | .schedQuery .. | .streamQuery .. | .ckpQuery ..
  | .ledgerRead .. => [.cmd]
  | .descriptorFetch .. | .fetchError .. | .taskEnd .. | .matrixOpStart .. | .flagsRd .. | .flagsClr ..
  | .argbase .. | .atomic .. | .cflush .. | .cinv .. | .cflushinv .. | .mfence .. | .lrSc .. | .amo ..
  | .cboClean .. | .cboFlush .. | .cboInval .. | .exit .. | .envCallArgbase ..
    => [.out, .flt, .log, .nv, .cmd, .ctxs, .mems, .evs, .mem, .poison, .tsk, .hbm, .ime, .lnk, .wmk, .col,
    .runners, .ing, .ckp, .mxe, .vcu, .svc]
  | .completionWrite ..
    => [.out, .hif, .cmd, .ctxs, .mems, .evs, .mem, .poison, .tsk, .hbm, .ime, .lnk, .wmk, .col, .runners,
    .ing, .ckp, .mxe, .vcu, .svc]
  | .createContext .. => [.cmd, .ctxs]
  | .destroyContext .. | .contextResetComplete ..
    => [.out, .cmd, .ctxs, .mems, .evs, .mem, .poison, .tsk, .hbm, .ime, .lnk, .wmk, .col, .runners, .ing,
    .ckp, .sec, .mxe, .vcu, .svc]
  | .resetContext .. | .destroyQueuePair .. | .destroyMemory .. | .destroyEvent .. | .destroyTaskGraph ..
  | .taskPlace .. | .exitActionComplete .. | .launchComplete .. | .generationResolvable .. | .launchCancel ..
  | .provDiscard .. | .matrixTaskEnd .. | .matrixPoisonedLoad .. | .lineFill ..
    => [.out, .cmd, .ctxs, .mems, .evs, .mem, .poison, .tsk, .hbm, .ime, .lnk, .wmk, .col, .runners, .ing,
    .ckp, .mxe, .vcu, .svc]
  | .createMemory .. => [.cmd, .mems, .sec]
  | .createEvent .. | .exportEvent .. => [.cmd, .evs]
  | .loadTaskGraph .. => [.cmd, .mems, .tsk, .hbm, .ime, .sec]
  | .taskGraphLoaded .. => [.cmd, .tsk, .sec]
  | .copy .. => [.out, .draws, .cmd, .mems, .mem, .poison, .tsk, .hbm, .ime, .ckp, .svc]
  | .fill .. => [.draws, .cmd, .mems, .mem, .poison, .tsk, .hbm, .ime, .ckp, .svc]
  | .launchGraph .. | .eventSignal .. | .eventAdd .. | .eventReset .. | .trigPost .. | .trigCancel ..
  | .groupDestroy .. | .collectiveOpStart .. | .exp .. | .go .. | .ready .. | .done .. | .abort ..
  | .collData .. | .resendTimer .. | .operationTimeout .. | .swRefuse .. | .switchSum ..
  | .switchSumTimeout .. | .launchRetry .. | .runnerStepEnd .. | .holdResendTimer .. | .chunkSend ..
  | .durable .. | .digestReport .. | .manifestDone .. | .manifestWaitExpire ..
    => [.out, .cmd, .mems, .evs, .mem, .poison, .tsk, .hbm, .ime, .lnk, .wmk, .col, .runners, .ing, .ckp,
    .svc]
  | .eventRemote .. => [.out, .cmd, .lnk, .sec]
  | .eventReq ..
    => [.out, .mgt, .cmd, .mems, .evs, .mem, .poison, .tsk, .hbm, .ime, .lnk, .wmk, .col, .runners, .ing,
    .ckp, .svc]
  | .destructionComplete ..
    => [.out, .hif, .cmd, .ctxs, .mems, .evs, .mem, .poison, .tsk, .hbm, .ime, .lnk, .wmk, .col, .runners,
    .ing, .ckp, .sec, .vcu, .svc]
  | .overflowMove .. | .versionSpaceReturn .. | .oldGranuleFree .. => [.tsk]
  | .commitPoint .. => [.mem, .tsk, .ckp, .vcu]
  | .chunkLoadComplete .. => [.cmd, .mems, .hbm, .ime, .mxe]
  | .blockBankComplete .. | .gapBegin .. | .gapWindowExpire .. | .rampWindowGrant .. | .rampUpComplete ..
  | .rampDownComplete .. => [.mxe]
  | .bankFree .. | .scalarInstruction .. | .vectorArithmetic .. | .specialFunction .. | .crossLaneReduction ..
  | .cast .. | .vrand .. | .vectorLoadStore .. | .gatherScatter ..
    => [.out, .draws, .flt, .log, .nv, .cmd, .ctxs, .mems, .evs, .mem, .poison, .tsk, .hbm, .ime, .lnk, .wmk,
    .col, .runners, .ing, .ckp, .mxe, .vcu, .svc]
  | .correctedError .. => [.hbm, .mxe, .vcu]
  | .mfenceComplete .. => [.vcu]
  | .fence .. | .fenceI .. => []
  | .time .. => [.svc]
  | .memProtect .. | .rulesFence .. | .rulesFenceComplete .. | .cstEvict .. => [.cmd, .hbm]
  | .rulesChangePoint .. => [.cmd, .mems, .hbm]
  | .cstReside .. => [.cmd, .mems, .hbm, .ime]
  | .pageZeroDone .. => [.ime]
  | .hbmAdmission .. | .correctedLineRewrite .. | .reservationLapse .. => [.hbm]
  | .hbmTransactionComplete .. => [.out, .flt, .mgt, .log, .nv, .cmd, .mem, .poison, .hbm, .ime, .lnk, .sec]
  | .clusterStoreUncorrectable .. => [.cmd, .mem, .poison, .hbm]
  | .badgerChunkRead .. => [.log, .nv, .cmd, .mem, .poison, .hbm, .ime]
  | .allocRequest .. | .holdAck .. => [.out, .hbm, .lnk, .ing]
  | .bufferFree .. | .openResend .. | .streamClose .. | .ingestData .. | .closeResend ..
    => [.out, .cmd, .hbm, .lnk, .ing]
  | .haltHeartbeatStop => [.flt]
  | .layoutSwitchDone => [.hif, .cmd, .ime, .lnk, .col, .sec]
  | .flitReceive .. | .finish .. => [.out, .cmd, .lnk, .col, .sec]
  | .nak .. | .replayTimerExpire .. | .retrainComplete .. | .trainingComplete .. => [.out, .cmd, .lnk, .col]
  | .retrain .. | .laneFailure .. | .retrainLimitExpire .. | .trainingAttempt .. => [.cmd, .lnk, .col]
  | .hello .. => [.out, .draws, .cmd, .lnk, .col, .sec]
  | .helloResend .. | .transitStallExpire .. | .beaconTimer | .keepaliveTimer => [.out, .lnk]
  | .planChangeCheck .. => [.cmd, .lnk]
  | .routeWrite .. | .routeRead .. => [.lnk]
  | .beacon .. => [.cmd, .lnk, .wmk]
  | .claimExpire | .announce .. | .keepaliveLoss | .relinquish .. => [.out, .cmd, .lnk, .wmk]
  | .announceTimer | .planLoad .. | .syncReqTimer | .syncReq .. => [.out, .lnk, .wmk]
  | .keepalive .. | .plan .. => [.lnk, .wmk]
  | .announceWatchExpire | .healthSummaryMissing .. | .wmkPpsEdge | .timeSet .. | .healthSummary .. => [.wmk]
  | .healthSummaryTimer | .getOpen .. => [.out, .draws, .lnk]
  | .syncReply .. => [.draws, .log, .led, .nv, .wmk]
  | .groupCreate .. => [.cmd, .mems, .hbm, .ime, .col, .sec]
  | .busy .. | .busyRetry .. | .caps .. => [.out, .lnk, .col]
  | .collAck .. => [.lnk, .col]
  | .schedLoad .. | .tollgateCheck .. => [.cmd, .mems, .hbm, .ime, .admits]
  | .admissionComplete .. => [.cmd, .mems, .mem, .poison, .tsk, .hbm, .ime, .runners, .admits, .ckp, .svc]
  | .schedStart .. | .schedStop .. | .schedUnload .. | .runnerStepStart .. => [.cmd, .runners]
  | .readmission .. => [.cmd, .mems, .mem, .poison, .tsk, .hbm, .ime, .runners, .ckp, .svc]
  | .streamOpen .. => [.out, .cmd, .lnk, .ing, .sec]
  | .openAck .. | .closeAck .. => [.cmd, .hbm, .lnk, .ing]
  | .streamPosition .. | .ledgerExport .. | .logbookRead ..
    => [.cmd, .mems, .mem, .poison, .tsk, .hbm, .ime, .ckp, .svc]
  | .idleFlush .. => [.ing]
  | .resumeAck .. => [.lnk, .ing]
  | .moverCopy .. | .ack .. | .chunkResendTimer .. | .keyErase ..
    => [.out, .cmd, .mems, .evs, .mem, .poison, .tsk, .hbm, .ime, .lnk, .wmk, .col, .runners, .ing, .ckp,
    .sec, .svc]
  | .ckpConfig .. => [.cmd, .ckp, .sec]
  | .ckpTrigger .. | .ckpDisarm .. => [.cmd, .ckp]
  | .ckpRestore .. | .statRsp .. => [.out, .cmd, .lnk, .ckp, .sec]
  | .snapshotPoint .. | .putOpen .. => [.out, .draws, .lnk, .ckp]
  | .putClose .. => [.out, .lnk, .ckp]
  | .ckpData .. => [.out, .draws, .cmd, .lnk, .ckp, .sec]
  | .restoreChunk .. => [.out, .cmd, .mems, .mem, .poison, .tsk, .hbm, .ime, .lnk, .ckp, .sec, .svc]
  | .restoreComplete .. => [.out, .cmd, .ctxs, .mems, .mem, .poison, .tsk, .hbm, .ime, .lnk, .ckp, .sec, .svc]
  | .sessionOpen .. | .sessionReport .. | .keyImport .. | .logExport .. | .uniformRefusalWrite .. => [.cmd, .sec]
  | .memkeyLoad .. => [.draws, .cmd, .ime, .sec]
  | .memkeyErase .. => [.cmd, .ime, .sec]
  | .weightMeasure .. => [.cmd, .mems, .mem, .poison, .tsk, .hbm, .ime, .ckp, .sec, .svc]
  | .publicKeySlotEnd
    => [.out, .draws, .hif, .cmd, .mems, .mem, .poison, .tsk, .hbm, .ime, .lnk, .col, .ckp, .sec, .svc]
  | .entropyHealthFailure | .entropyHealthRestored => [.sec]
  | .offer .. | .handshakeRetry .. => [.out, .draws, .lnk, .sec]
  | .proof .. | .reject .. => [.lnk, .sec]
  | .tokenDigestProgram .. => [.nv]
  | .transitionCommand .. => [.lcs]
  | .engineResetComplete ..
    => [.out, .flt, .log, .owl, .nv, .cmd, .ctxs, .mems, .evs, .mem, .poison, .tsk, .hbm, .ime, .lnk, .wmk,
    .col, .runners, .ing, .ckp, .mxe, .vcu, .svc]
  | .partitionResetComplete .. => [.out, .clk, .flt, .mgt, .cmd, .hbm, .lnk, .col]
  | .ageingRead .. | .replicaRead .. | .dailyReplan | .replan .. | .placementCooldown .. | .cooldownEnd ..
    => [.owl]
  | .marginFloorRetire .. | .replanComplete ..
    => [.out, .log, .owl, .nv, .cmd, .ctxs, .mems, .evs, .mem, .poison, .tsk, .hbm, .ime, .lnk, .wmk, .col,
    .runners, .ing, .ckp, .mxe, .vcu, .svc]
  | .policyWrite .. | .eyeMonitorRead .. => [.log, .owl, .nv, .cmd]
  | .ledgerTimeLoad => [.draws, .log, .led, .nv]
  | .meterTick .. => [.led]
  | .intervalClose => [.draws, .log, .pwr, .led, .nv]
  | .periodWrite .. => [.pwr, .led, .nv]
  | .dailyHealthRecord => [.log, .nv]
  | .logbookCommit | .pageProgramFail .. | .logbookBlockErase => [.out, .mgt, .log, .nv, .cmd]
  | .setdasa .. | .entdaa .. | .setnewda .. | .rstdaa | .enec .. | .disec .. | .privateWrite .. | .privateRead
  | .ibiRepeat | .ibiNackRetry | .uartByte .. | .identity .. | .status .. | .alertAck .. | .recordRead ..
  | .ledger .. | .cabling .. | .challenge .. => [.out, .mgt]
  | .getstatus => [.out, .draws]
  | .uartGapDiscard => [.mgt]
  | .health .. | .domainView .. => [.out, .draws, .mgt]
  | .trayCap .. => [.out, .mgt, .led]
  | .lifecycle .. => [.out, .mgt, .lcs]
  | .trayProvision .. | .fwWrite .. | .fwFloor .. | .fwRevoke .. => [.out, .mgt, .nv]
  | .fwCommit .. => [.out, .mgt, .nv, .svc]
  | .completionTimeout ..
    => [.out, .flt, .log, .nv, .hif, .cmd, .ctxs, .mems, .evs, .mem, .poison, .tsk, .hbm, .ime, .lnk, .wmk,
    .col, .runners, .ing, .ckp, .mxe, .vcu, .svc]

end Sys2Proof
end

