-- ==== Sys2Proof/Certificates/Slice0/Obligations.lean ====
section
/-!
DEFINITION. Sys2Proof/Certificates/Slice0/Obligations.lean: what is stated about the block, for the provers, family by family.
-/
open Sys2Proof Sys2Proof.Machine

/-- R9 to R11: REGISTER_WRITE of live fields sets each written field to the nearest legal value at once and changes
nothing else; a field that is an illegal reference keeps its value; an access that does not reach its block has no
effect (R42). -/
def Obligations.RegisterWriteClampsLiveFields : Prop :=
  (∀ (s : State) (src : Src) (v : DWord), regOpen s src .colCfg true = true →
    exec (.registerWrite src .colCfg v) s = .next { s with col := { s.col with
        switchEn := bitOf v.toNat 16, resendLimit := clampTo 1 7 (bitsOf v.toNat 8 3)
        resendMs := clampTo 1 15 (bitsOf v.toNat 0 4) } }) ∧
  (∀ (s : State) (src : Src) (v : DWord), regOpen s src .ingCfg true = true →
    exec (.registerWrite src .ingCfg v) s = .next { s with ing := { s.ing with
        idleUs := clampTo 1 100 (bitsOf v.toNat 0 7) } }) ∧
  (∀ (s : State) (src : Src) (v : DWord), regOpen s src .memBadgerCtrl true = true →
    exec (.registerWrite src .memBadgerCtrl v) s = .next { s with hbm := { s.hbm with
        periodH := clampTo 2 168 (bitsOf v.toNat 0 8) } }) ∧
  (∀ (s : State) (src : Src) (v : DWord), regOpen s src .lnkCfg true = true →
    exec (.registerWrite src .lnkCfg v) s = .next { s with lnk := { s.lnk with
        hopLimit := clampTo 1 15 (bitsOf v.toNat 0 4), boardDirect := bitOf v.toNat 4
        wS := clampTo 1 15 (bitsOf v.toNat 8 4), wQ := clampTo 1 15 (bitsOf v.toNat 12 4)
        wB := clampTo 1 15 (bitsOf v.toNat 16 4), stallMs := clampTo 1 100 (bitsOf v.toNat 20 8) } }) ∧
  (∀ (s : State) (src : Src) (v : DWord), regOpen s src .lnkRtAddr true = true →
    exec (.registerWrite src .lnkRtAddr v) s = .next { s with lnk := { s.lnk with
        index := bitsOf v.toNat 0 16
        table := if bitsOf v.toNat 16 5 < 24 then bitsOf v.toNat 16 5 else s.lnk.table } }) ∧
  (∀ (s : State) (src : Src) (v : DWord), regOpen s src .ckpCfg true = true →
    exec (.registerWrite src .ckpCfg v) s = .next { s with ckp := { s.ckp with
        waitS := clampTo 1 3600 (bitsOf v.toNat 0 12) } }) ∧
  (∀ (s : State) (src : Src) (v : DWord), s.flt.haltCause = 0 → regOpen s src .fltRecSel true = true →
    exec (.registerWrite src .fltRecSel v) s = .next { s with flt := { s.flt with sel := bitsOf v.toNat 0 8 } }) ∧
  (∀ (s : State) (src : Src) (v : DWord), regOpen s src .lcsCmd true = true →
    exec (.registerWrite src .lcsCmd v) s = .next { s with lcs := { s.lcs with
        target := if lcLegal (bitsOf v.toNat 0 8) then bitsOf v.toNat 0 8 else s.lcs.target } }) ∧
  (∀ (s : State) (src : Src) (v : DWord) r, regOpen s src r true = false → exec (.registerWrite src r v) s = .next s)

/-- R9: a quiescent field written while its block is quiescent is in force at once; written while the block runs it waits
in the shadow and the old value stays in force; SHADOW_APPLY puts it in force at a quiescent point and only there. -/
def Obligations.QuiescentFieldsShadow : Prop :=
  (∀ (s : State) (src : Src) (v : DWord), regOpen s src .mxeCtrl true = true →
    Runs (.registerWrite src .mxeCtrl v) s fun t =>
      t.mxe.engines = s.mxe.engines ∧
      (quiescent s .mxe = true → t.mxe.rampStarts = clampTo 1 4 (bitsOf v.toNat 0 3) ∧ t.mxe.pend = none) ∧
      (quiescent s .mxe = false →
        t.mxe.rampStarts = s.mxe.rampStarts ∧ t.mxe.pend = some (clampTo 1 4 (bitsOf v.toNat 0 3)))) ∧
  (∀ (s : State) (src : Src) (v : DWord) (n : Nat), 1 ≤ n → n ≤ 512 → regOpen s src (.hifVfQuotaA n) true = true →
    (vfOf s n).pend = [] →
    Runs (.registerWrite src (.hifVfQuotaA n) v) s fun t =>
      let ctxs := clampTo 1 1024 (bitsOf v.toNat 16 11)
      let qps := clampTo 1 1024 (bitsOf v.toNat 0 11)
      (∀ m, m ≠ n → vfOf t m = vfOf s m) ∧
      ((vfOf s n).state = .idle →
        vfOf t n = { vfOf s n with quota := { (vfOf s n).quota with contexts := ctxs, queuePairs := qps } }) ∧
      ((vfOf s n).state ≠ .idle → vfOf t n = { vfOf s n with pend := [(0, ctxs), (1, qps)] })) ∧
  (∀ (s : State) (src : Src) (v : DWord), regOpen s src .pwrInterval true = true → s.led.openIv.isSome = true →
    exec (.registerWrite src .pwrInterval v) s = .next { s with pwr := { s.pwr with
      intervalPending := some (clampTo 1 60 (bitsOf v.toNat 0 6)) } }) ∧
  (∀ (s : State) (b : QBlock), quiescent s b = false → exec (.shadowApply b) s = .next s) ∧
  (∀ (s : State) (n : Nat), s.clk.phase = .running → s.clk.milestone = 0 → s.clk.scalePending = some n →
    exec (.shadowApply .clk) s = .next { s with clk := { s.clk with scale := n, scalePending := none } }) ∧
  (∀ (s : State) (n : Nat), quiescent s .mxe = true → s.mxe.pend = some n →
    exec (.shadowApply .mxe) s = .next { s with mxe := { s.mxe with rampStarts := n, pend := none } }) ∧
  (∀ (s : State) (n : Nat), 1 ≤ n → n ≤ 512 → (vfOf s n).state = .idle →
    Runs (.shadowApply (.vfEntry n)) s fun t => vfOf t n = { vfOf s n with quota := shownQuota (vfOf s n), pend := [] })

/-- R8, R538, R42: the set-up lock, the halves of 64-bit registers, and blocked accesses. -/
def Obligations.LockAndRegisterHalves : Prop :=
  (∀ (s : State) (src : Src) (v : Word), regOpen s src .clkMsCtrl true = true → s.clk.lock = true →
    exec (.setUpLock src v) s = .next s) ∧
  (∀ (s : State) (src : Src) (v : Word), regOpen s src .clkMsCtrl true = true → s.clk.lock = false →
    quiescent s .clk = false → bitOf v.toNat 31 = true →
    exec (.setUpLock src v) s = .next { s with clk := { s.clk with
      scalePending := some (clampTo 0 10 (bitsOf v.toNat 0 4)), lock := true } }) ∧
  (∀ (s : State) (src : Src) (r : Reg) (v : Word), regOpen s src r true = true → reg64 r = true →
    Runs (.lowHalfWrite src r v) s fun t =>
      t = { s with hold64 := t.hold64 } ∧ halfOf t.hold64 r = some v ∧
      ∀ q, q ≠ r → halfOf t.hold64 q = halfOf s.hold64 q) ∧
  (∀ (s : State) (src : Src) (v w : Word), regOpen s src .wmkPlanBase true = true →
    halfOf s.hold64 .wmkPlanBase = some w →
    Runs (.highHalfWrite src .wmkPlanBase v) s fun t =>
      t = { s with hold64 := t.hold64
                   wmk := { s.wmk with planBase := (v.toNat * 2 ^ 32 + w.toNat) / 64 * 64 } } ∧
      halfOf t.hold64 .wmkPlanBase = none) ∧
  (∀ (s : State) (src : Src) (v : Word), regOpen s src .wmkPlanBase true = true →
    halfOf s.hold64 .wmkPlanBase = none →
    Runs (.highHalfWrite src .wmkPlanBase v) s fun t =>
      t = { s with hold64 := t.hold64
                   wmk := { s.wmk with planBase := (v.toNat * 2 ^ 32 + regRead s .wmkPlanBase % 2 ^ 32) / 64 * 64 } } ∧
      halfOf t.hold64 .wmkPlanBase = none) ∧
  (∀ (s : State) (src : Src) (r : Reg), regOpen s src r false = true → reg64 r = true →
    Runs (.lowHalfRead src r) s fun t =>
      t = { s with latch64 := t.latch64
                   out := .readData r (BitVec.ofNat 64 (regRead s r % 2 ^ 32)) :: s.out } ∧
      halfOf t.latch64 r = some (BitVec.ofNat 32 (regRead s r / 2 ^ 32))) ∧
  (∀ (s : State) (src : Src) (r : Reg), srcOpen s src = true → regBlocked s r false = true →
    exec (.blockedRegisterAccess src r false) s = .next { s with out := .readData r 0 :: s.out }) ∧
  (∀ (s : State) (src : Src) (r : Reg), exec (.blockedRegisterAccess src r true) s = .next s)

/-- R19 to R21, R31, R33, R34: the power-up and power-fail sequences, each step from its own phase only. -/
def Obligations.PowerSequence : Prop :=
  (∀ (c : Nat → Instr) (vbat : Nat) (s : State), c = Instr.powerUp ∨ c = Instr.powerReturnStable → s.mod.phase = .off →
    Runs (c vbat) s fun t =>
      t.mod = { s.mod with phase := .charging, inputSwitch := true, vbatMv := vbat } ∧ t.led.restart = true ∧
      t.nv.otp.vbatAlarms = [] ∧ (vbat < 2700 → s.mod.modResetN = true → (alertOf t 0x48).pending = true)) ∧
  (∀ (c : Nat → Instr) (vbat : Nat) (s : State), c = Instr.powerUp ∨ c = Instr.powerReturnStable → s.mod.phase ≠ .off →
    exec (c vbat) s = .next s) ∧
  (∀ s, s.mod.phase = .charging →
    exec .bulkCharged s = .next { s with mod := { s.mod with phase := .charged, aoFrom48 := true } }) ∧
  (∀ s, s.mod.phase ≠ .charging → exec .bulkCharged s = .next s) ∧
  (∀ s role slot board, s.mod.phase = .charged →
    Runs (.strapSample role slot board) s fun t =>
      t.mod = { s.mod with phase := .strapped, strapsSampled := true, strapRole := role % 4, strapSlot := slot % 16
                           strapBoard := board % 2 ^ 20 } ∧
      (role % 4 ≠ 0 → role % 4 ≠ 1 → board % 2 ^ 20 ≠ 0xFFFFF → t = { s with mod := t.mod }) ∧
      (role % 4 = 1 → board % 2 ^ 20 ≠ 0xFFFFF → s.log.mounted = false →
        t.log.waiting = s.log.waiting ++ [(0x0B, false, leBytes 4 1 ++ leBytes 8 1)])) ∧
  (∀ s, s.mod.phase = .strapped →
    exec .railsInRegulation s = .next { s with mod := { s.mod with phase := .good, pwrGood := true } }) ∧
  (∀ s, s.mod.phase = .good →
    exec .powerFailConfirm s = .next { s with
      mod := { s.mod with phase := .failing, inputSwitch := false, pwrGood := false }
      mgt := { s.mgt with uartRx := [] } }) ∧
  (∀ s, s.mod.phase = .charging ∨ s.mod.phase = .charged ∨ s.mod.phase = .strapped →
    Runs .powerFailConfirm s fun t => t.mod.phase = .off ∧ t.nv = s.nv ∧ t.mod.inputSwitch = false) ∧
  (∀ s, s.mod.phase = .failing →
    Runs .powerFailStop s fun t =>
      t.mod = { s.mod with failStopped := true } ∧ (∀ c, (engAt t c).phase = .idle) ∧ (∀ c, (engAt t c).run = (engAt s c).run)) ∧
  (∀ s, s.mod.phase = .failing → s.mod.failCommitted = false →
    Runs .powerFailCommit s fun t =>
      t.mod = { s.mod with failCommitted := true } ∧ (s.log.mounted = false → t = { s with mod := t.mod })) ∧
  (∀ s, s.mod.phase = .failing → s.mod.failCommitted = true → exec .powerFailCommit s = .next s) ∧
  (∀ s, s.mod.phase = .failing →
    Runs .railsFall s fun t =>
      t.mod.phase = .off ∧ t.mod.pwrGood = false ∧ t.nv = s.nv ∧ t.cmd = CmdState.init ∧ t.ctxs = [] ∧ t.mems = [] ∧
      t.mem = [] ∧ t.clk = ClkState.init ∧ t.sec = SecState.init) ∧
  (∀ s, s.mod.phase ≠ .failing → exec .railsFall s = .next s)

/-- R17, R34 to R37, R482: PERST_N, MOD_RESET_N, the thermal stages, the thermal trip and the inlet temperature. -/
def Obligations.ResetInputsAndThermalLoop : Prop :=
  (∀ s ns, ns < 1000 → exec (.perstNAssert ns) s = .next s ∧ exec (.modResetNAssert ns) s = .next s) ∧
  (∀ s ns, 1000 ≤ ns → s.mod.phase = .good → s.mod.perstN = true →
    Runs (.perstNAssert ns) s fun t => ChipReset false s t ∧ t.mod = { s.mod with perstN := false } ∧ t.clk.inL0 = false) ∧
  (∀ s ns, 1000 ≤ ns → s.mod.phase = .good → s.mod.modResetN = true →
    Runs (.modResetNAssert ns) s fun t =>
      t.mod = { s.mod with modResetN := false } ∧ (s.log.mounted = false → t.mgt = MgtState.init) ∧ t.clk.scale = 0 ∧ t.clk.scalePending = none ∧
      t.clk.warm = false ∧ t.clk.milestone = 0 ∧ t.cmd = CmdState.init ∧ t.ctxs = [] ∧ t.mem = []) ∧
  (∀ s, s.mod.phase ≠ .failing →
    exec .perstNRelease s = .next { s with mod := { s.mod with perstN := true } }) ∧
  (∀ s, s.mod.phase ≠ .failing →
    Runs .modResetNRelease s fun t => t.mod = { s.mod with modResetN := true } ∧
      (s.flt.haltCause ≠ 0 → (alertOf t 0x01).pending = true)) ∧
  (∀ s temp, temp ≤ 400 → exec (.inletOverTemperature temp) s = .next { s with mod := { s.mod with inlet := temp } }) ∧
  (∀ s temp, 400 < temp → s.mod.modResetN = true →
    Runs (.inletOverTemperature temp) s fun t =>
      t.mod = { s.mod with inlet := temp, inletOver := true } ∧ (alertOf t 0x40).pending = true) ∧
  (∀ s temp, temp ≤ 400 →
    Runs (.coolantInletNormal temp) s fun t =>
      t.mod = { s.mod with inlet := temp, inletOver := false } ∧ (alertOf t 0x40).pending = false) ∧
  (∀ s temp, s.mod.tripped = false → stageEntered temp ≤ s.mod.thermalStage →
    exec (.thermalLoop temp) s = .next { s with mod := { s.mod with hottest := temp } }) ∧
  (∀ s temp, s.mod.tripped = false → 950 ≤ temp → temp < 1030 → s.mod.thermalStage < stageEntered temp →
    exec (.thermalLoop temp) s =
      .next { s with mod := { s.mod with hottest := temp, thermalStage := if 1000 ≤ temp then 2 else 1 } }) ∧
  (∀ s temp, s.mod.tripped = false → 1030 ≤ temp → temp < 1050 → s.mod.thermalStage < 3 →
    Runs (.thermalLoop temp) s fun t =>
      t.mod = { s.mod with hottest := temp, thermalStage := 3 } ∧ t.clk = { s.clk with paused := true } ∧
      ∀ c, (engAt t c).phase = .idle) ∧
  (∀ s temp, s.mod.tripped = false → 1050 ≤ temp → s.mod.thermalStage < 4 → s.mod.phase = .good →
    Runs (.thermalLoop temp) s fun t =>
      t.mod = { s.mod with hottest := temp, tripped := true, pwrGood := false, thermalStage := 4 } ∧ ChipReset true s t) ∧
  (∀ s temp, s.mod.tripped = false → s.mod.thermalStage = 3 → temp < 920 →
    Runs (.thermalStageRelease temp) s fun t =>
      t.mod = { s.mod with thermalStage := 0, hottest := temp } ∧ t.clk = { s.clk with paused := false } ∧
      ∀ c, (engAt s c).run.isSome = true → (engAt t c).want = some true) ∧
  (∀ s, s.mod.tripped = true → s.mod.hottest < 850 →
    exec .thermalTripRecovery s =
      .next { s with mod := { s.mod with tripped := false, thermalStage := 0, pwrGood := true } }) ∧
  (∀ s, s.mod.tripped = false ∨ 850 ≤ s.mod.hottest → exec .thermalTripRecovery s = .next s)

/-- R27, R28, R430, R431, R453, R455: tamper alarms and their arrival. The next loop code is a free value (R27 leaves it
open). -/
def Obligations.TamperAlarms : Prop :=
  let alarmed := fun (code : Nat) (s t : State) =>
    t.nv.otp.root = none ∧ t.nv.otp.tray = none ∧ t.nv.otp.zeroised = true ∧
    (s.mod.phase = .good → t.sec.alarmDue = some (s.sec.alarmDue.getD code)) ∧
    (s.mod.phase = .off → t.nv.otp.vbatAlarms = s.nv.otp.vbatAlarms ++ [code])
  (∀ s okA okB, s.mod.loopMissA = 0 → s.mod.loopMissB = 0 →
    exec (.tamperLoopCheck okA okB) s = .next { s with
      draws := s.draws + 1
      mod := { s.mod with loopMissA := if okA then 0 else 1, loopMissB := if okB then 0 else 1
                          loopCode := Config.freeValue s.draws % 2 ^ 16 } }) ∧
  (∀ s okB, 1 ≤ s.mod.loopMissA →
    Runs (.tamperLoopCheck false okB) s fun t => alarmed 0x02 s t ∧ t.mod.loopMissA = 0 ∧ t.mod.loopMissB = 0) ∧
  (∀ s okA, 1 ≤ s.mod.loopMissB → Runs (.tamperLoopCheck okA false) s (alarmed 0x02 s)) ∧
  (∀ s, exec (.meshCheck true) s = .next { s with mod := { s.mod with meshMiss := 0 } }) ∧
  (∀ s, s.mod.meshMiss = 0 → exec (.meshCheck false) s = .next { s with mod := { s.mod with meshMiss := 1 } }) ∧
  (∀ s, 1 ≤ s.mod.meshMiss → Runs (.meshCheck false) s fun t => alarmed 0x01 s t ∧ t.mod.meshMiss = 0) ∧
  (∀ s mv, s.mod.aoFrom48 = true → exec (.vbatLoss mv) s = .next s) ∧
  (∀ s mv, s.mod.aoFrom48 = false → mv < 2200 →
    Runs (.vbatLoss mv) s fun t => alarmed 0x03 s t ∧ t.mod = { s.mod with vbatMv := mv }) ∧
  (∀ s mv, s.mod.aoFrom48 = false → 2200 ≤ mv →
    exec (.vbatLoss mv) s = .next { s with mod := { s.mod with vbatMv := mv } }) ∧
  (∀ s rail, railArmed s rail = true → Runs (.voltageAlarm rail) s (alarmed 0x04 s)) ∧
  (∀ s rail, railArmed s rail = false → exec (.voltageAlarm rail) s = .next s) ∧
  (∀ s clock, Runs (.clockAlarm clock) s (alarmed 0x05 s)) ∧
  (∀ s sensor, Runs (.temperatureAlarm sensor) s (alarmed 0x06 s)) ∧
  (∀ s, s.sec.alarmDue = none → exec .tamperAlarmArrival s = .next s) ∧
  (∀ s code, s.sec.alarmDue = some code →
    Runs .tamperAlarmArrival s fun t =>
      ChipReset false s t ∧ t.sec.alarmDue = none ∧ t.sec.alarmLast = code ∧
      t.sec.alarmCount = satAdd 255 s.sec.alarmCount 1 ∧ t.flt.records = (s.flt.records + 1) % 2 ^ 32)

/-- R32, R44, R46, R48 to R50, R52, R459, R463: the start-up sequence. -/
def Obligations.StartUpSequence : Prop :=
  let at_ := fun (n : Nat) (s : State) => s.clk.phase = .running ∧ s.clk.milestone = n ∧ blankRest s = false
  let moved := fun (n : Nat) (t : State) => t.clk.phase = .running ∧ t.clk.milestone = n ∧ t.clk.progress = 0
  (∀ s, s.clk.phase = .waiting → s.mod.phase = .good → s.mod.pwrGood = true → s.mod.perstN = true →
    s.mod.modResetN = true → s.mod.tripped = false →
    exec .startSequence s = .next { s with clk := { s.clk with
      phase := .running, milestone := 0, progress := 0, scale := s.clk.scalePending.getD s.clk.scale
      scalePending := none } }) ∧
  (∀ s, s.mod.pwrGood = false ∨ s.mod.perstN = false ∨ s.mod.modResetN = false → exec .startSequence s = .next s) ∧
  (∀ s p, at_ 0 s → posMajority s.nv.otp = 2 ^ p - 1 → 1 ≤ p → p ≤ 29 →
    Runs (.milestoneAdvance (.otp true)) s fun t => moved 1 t ∧ t.lcs = { s.lcs with loaded := true, position := p }) ∧
  (∀ s, at_ 0 s → Runs (.milestoneAdvance (.otp false)) s fun t =>
    t.clk.phase = .bootHold ∧ t.clk.faultCause = 5 ∧ t.clk.faultMilestone = 1) ∧
  (∀ s, at_ 1 s → exec (.milestoneAdvance (.plls true)) s = .next { s with
    clk := { s.clk with milestone := 2, progress := 0 }, wmk := { s.wmk with tb := 0 } }) ∧
  (∀ s, at_ 1 s → s.clk.attempt < 2 → Runs (.milestoneAdvance (.plls false)) s fun t =>
    t.clk.phase = .faultHold ∧ t.clk.milestone = 0 ∧ t.clk.attempt = s.clk.attempt ∧ t.clk.faultCause = 6) ∧
  (∀ s l0, at_ 2 s → exec (.milestoneAdvance (.link l0)) s = .next { s with clk := { s.clk with
    milestone := 3, progress := 0, inL0 := l0 || s.clk.inL0, hostLinkLate := !(l0 || s.clk.inL0) } }) ∧
  (∀ s a b, at_ 3 s → fwGood { s.nv.fw with a := { s.nv.fw.a with passed := (a.digestOk, a.sigOk) } }
      { s.nv.fw.a with passed := (a.digestOk, a.sigOk) } = true →
    Runs (.milestoneAdvance (.firmware a b)) s fun t =>
      moved 4 t ∧ t.svc.running = true ∧ t.svc.active = false ∧ t.svc.aFailed = false ∧
      t.svc.version = fwVersion s.nv.fw.a) ∧
  (∀ s a b, at_ 3 s → a.digestOk = false → b.digestOk = false →
    Runs (.milestoneAdvance (.firmware a b)) s fun t => t.clk.phase = .bootHold ∧ t.clk.faultCause = 4) ∧
  (∀ s, at_ 4 s → Runs (.milestoneAdvance .identity) s fun t =>
    moved 5 t ∧ t.sec.shareMask = Config.freeValue s.draws ∧ (s.nv.otp.root.isSome = true → t.nv = s.nv)) ∧
  (∀ s, at_ 5 s → exec (.milestoneAdvance .config) s =
    .next { s with clk := { s.clk with milestone := 6, progress := 0 } }) ∧
  (∀ s, at_ 6 s → exec (.milestoneAdvance (.crossroads [])) s =
    .next { s with clk := { s.clk with milestone := 7, progress := 0 } }) ∧
  (∀ s c, at_ 7 s → c < 64 → Runs (.milestoneAdvance (.srams [c])) s fun t => moved 8 t ∧ c ∈ t.nv.retired) ∧
  (∀ s, at_ 12 s → exec (.milestoneAdvance .ports) s =
    .next { s with clk := { s.clk with milestone := 13, progress := 0 } }) ∧
  (∀ s, at_ 14 s → Runs (.milestoneAdvance .ready) s fun t =>
    t.clk.phase = .ready ∧ t.clk.milestone = 15 ∧ t.clk.dueRetired = [] ∧
    (tgetD (attOf t 0).entries Att.chipResetDone attInit).pending = true) ∧
  (∀ s, s.clk.phase = .running →
    exec .progressTick s = .next { s with clk := { s.clk with progress := (s.clk.progress + 1) % 65536 } }) ∧
  (∀ s, missWatched s = true → s.clk.attempt < 2 → Runs .stallWindowExpire s fun t =>
    t.clk.phase = .faultHold ∧ t.clk.attempt = s.clk.attempt ∧ t.clk.faultCause = 1 ∧
    t.clk.faultCount = satAdd 255 s.clk.faultCount 1) ∧
  (∀ s, missWatched s = true → 2 ≤ s.clk.attempt → Runs .stallWindowExpire s fun t => t.clk.phase = .bootHold) ∧
  (∀ s, missWatched s = true → s.clk.attempt < 2 → Runs .milestoneLimitExpire s fun t =>
    t.clk.phase = .faultHold ∧ t.clk.faultCause = 2) ∧
  (∀ s, at_ 2 s → s.clk.paused = false → exec .milestoneLimitExpire s = .next { s with clk := { s.clk with
    milestone := 3, progress := 0, hostLinkLate := !s.clk.inL0 } }) ∧
  (∀ s, s.clk.phase = .faultHold → Runs .faultPathHoldEnd s fun t =>
    moved 0 t ∧ t.clk.attempt = s.clk.attempt + 1) ∧
  (∀ s, s.mod.phase = .good → s.mod.perstN = true → s.clk.phase = .running → 1 ≤ s.clk.milestone → blankRest s = false →
    exec .hostLinkInL0 s = .next { s with clk := { s.clk with inL0 := true } })

/-- R471, R474, R475, R479 to R482, R486, R491, R493: recovery. -/
def Obligations.FaultRecovery : Prop :=
  (∀ s p, inService s = true → 1 ≤ p → p < 4 → partOff s p = false → partInReset s p = false →
    Runs (.partitionHwError p) s fun t =>
      t.flt.parts.map (fun e => (e.1, e.2.1)) = (p, Cls.partitionHw) :: s.flt.parts.map (fun e => (e.1, e.2.1)) ∧
      t.flt.partResets = satAdd 255 s.flt.partResets 1 ∧ t.flt.records = (s.flt.records + 1) % 2 ^ 32 ∧
      t.clk = s.clk ∧ t.sec = s.sec) ∧
  (∀ s, inService s = true → partOff s 0 = false → (recentResets s).length < 3 →
    Runs (.partitionHwError 0) s fun t => ChipReset false s t) ∧
  (∀ s, inService s = true → (recentResets s).length < 3 → Runs .chipHwError s fun t =>
    ChipReset false s t ∧ t.flt.records = (s.flt.records + 1) % 2 ^ 32) ∧
  (∀ s, inService s = true → 3 ≤ (recentResets s).length → Runs .chipHwError s fun t =>
    t.flt.haltCause = 2 ∧ t.sec.session = .none_ ∧ t.sec.keys = [] ∧ t.ime.keys = [] ∧
    t.flt.chipResets = s.flt.chipResets) ∧
  (∀ s, inService s = false → exec .chipHwError s = .next s ∧ ∀ p, exec (.partitionHwError p) s = .next s) ∧
  (∀ s u x, unitInReset s u = true → unitKind u = 0 → popCount (Nat.lor (engAt s (unitIndex u)).mask (x.tiles % 2 ^ 64)) 64 ≤ 4 →
    Runs (.engineResetComplete u x) s fun t =>
      unitInReset t u = false ∧
      engAt t (unitIndex u) = { engAt s (unitIndex u) with mask := Nat.lor (engAt s (unitIndex u)).mask (x.tiles % 2 ^ 64) } ∧
      (s.flt.resBusy = some (.engine u) → t.flt.resBusy = none)) ∧
  (∀ s u x, unitInReset s u = false → exec (.engineResetComplete u x) s = .next s) ∧
  (∀ s p, partInReset s p = true → p < 4 → Runs (.partitionResetComplete p true) s fun t =>
    partInReset t p = false ∧ (stackAt t (2 * p)).state = 2 ∧ (stackAt t (2 * p + 1)).state = 2 ∧ t.clk = s.clk) ∧
  (∀ s p, partInReset s p = true → p < 4 → partOff s p = false → Runs (.partitionResetComplete p false) s fun t =>
    partInReset t p = false ∧ partOff t p = true ∧ (stackAt t (2 * p)).state = 0) ∧
  (∀ s u units parts, inService s = true → unitInReset s u = true → 1 ≤ unitPart u → unitPart u < 4 →
    partOff s (unitPart u) = false → partInReset s (unitPart u) = false →
    Runs (.boundMiss (.engine u) units parts) s fun t =>
      partInReset t (unitPart u) = true ∧ unitInReset t u = false ∧ t.flt.partResets = satAdd 255 s.flt.partResets 1) ∧
  (∀ s p units parts, inService s = true → s.clk.paused = false → partInReset s p = true →
    (recentResets s).length < 3 → Runs (.progressMiss (.partition p) units parts) s fun t => ChipReset false s t) ∧
  (∀ s src u, srcOpen s src = true → s.flt.haltCause = 0 → u < 2 ^ 20 → unitLegal u = true →
    partOff s (unitPart u) = false → unitInReset s u = false → partInReset s (unitPart u) = false →
    Runs (.engineResetCommand src u) s fun t =>
      unitInReset t u = true ∧ t.flt.resStatus = St.done ∧ t.flt.resBusy = some (.engine u) ∧
      t.flt.engResets = satAdd 65535 s.flt.engResets 1 ∧ t.flt.cmdUnit = u) ∧
  (∀ s src u, srcOpen s src = true → s.flt.haltCause = 0 → unitLegal (u % 2 ^ 20) = false →
    exec (.engineResetCommand src u) s = .next { s with flt := { s.flt with cmdLevel := 1, resStatus := St.refusedHandle } }) ∧
  (∀ s src p, srcOpen s src = true → s.flt.haltCause = 0 → 1 ≤ p → p < 4 → partOff s p = false → partInReset s p = false →
    Runs (.partitionResetCommand src p) s fun t =>
      partInReset t p = true ∧ t.flt.resStatus = St.done ∧ t.flt.resBusy = some (.partition p)) ∧
  (∀ s src, srcOpen s src = true → s.flt.haltCause = 0 →
    exec (.partitionResetCommand src 0) s =
      .next { s with flt := { s.flt with cmdLevel := 2, cmdUnit := 0, resStatus := St.refusedState } }) ∧
  (∀ s src, srcOpen s src = true → s.clk.phase = .ready → Runs (.chipResetCommand src) s fun t =>
    ChipReset false s t ∧ t.flt.resStatus = 0) ∧
  (∀ s src, srcOpen s src = true → s.clk.phase = .running →
    exec (.chipResetCommand src) s = .next { s with flt := { s.flt with cmdLevel := 3, resStatus := St.retryLater } })

/-- R457, R460, R461, R463 to R465, R467: life-cycle transitions, token slots and EXTEST. -/
def Obligations.LifeCycleTransitions : Prop :=
  (∀ s src target, srcOpen s src = true → s.flt.haltCause = 0 → s.lcs.busy = none → lcLegal target = true →
    Runs (.transitionCommand src target) s fun t =>
      t.lcs.target = target ∧ (∃ c, t.lcs.busy = some c ∧ c.mgt = false ∧ c.target = target) ∧ t.nv = s.nv) ∧
  (∀ s src target, srcOpen s src = true → s.flt.haltCause = 0 → s.lcs.busy.isSome = true →
    Runs (.transitionCommand src target) s fun t =>
      t.lcs.status = St.retryLater ∧ t.lcs.reason = 5 ∧ t.lcs.busy = s.lcs.busy) ∧
  (∀ s c ok, s.lcs.busy = some c → c.mgt = false → s.lcs.fails < 16 → lcDest (lcPosition s) c.target = none →
    exec (.transitionDecision ok) s = .next { s with lcs := { s.lcs with
      busy := none, token := [], fails := s.lcs.fails + 1, status := St.refusedState, reason := 1 } }) ∧
  (∀ s c ok q slot, s.lcs.busy = some c → c.mgt = false → s.lcs.fails < 16 →
    lcDest (lcPosition s) c.target = some (q, slot) → tokenOk s.nv.otp slot c.token = false →
    exec (.transitionDecision ok) s = .next { s with lcs := { s.lcs with
      busy := none, token := [], fails := s.lcs.fails + 1, status := St.notPermitted, reason := 2 } }) ∧
  (∀ s c ok, s.lcs.busy = some c → c.mgt = false → 16 ≤ s.lcs.fails →
    Runs (.transitionDecision ok) s fun t => t.lcs.busy = none ∧ t.lcs.reason = 3 ∧ t.nv = s.nv) ∧
  (∀ s c, s.lcs.busy = some c → c.mgt = false → s.lcs.fails < 16 → lcPosition s = 15 → c.target = 0x40 →
    tokenOk s.nv.otp 8 c.token = true →
    Runs (.transitionDecision true) s fun t =>
      t.nv.otp.tray = none ∧ t.nv.otp.root = s.nv.otp.root ∧ t.nv.otp.a = Nat.lor s.nv.otp.a (2 ^ 16 - 1) ∧
      t.nv.otp.b = Nat.lor s.nv.otp.b (2 ^ 16 - 1) ∧ t.nv.otp.c = Nat.lor s.nv.otp.c (2 ^ 16 - 1) ∧
      t.nv.otp.eraseDue = some (0x30, 0x40) ∧ t.clk.warm = false ∧ t.clk.milestone = 0 ∧ t.cmd = CmdState.init) ∧
  (∀ s c, s.lcs.busy = some c → c.mgt = false → s.lcs.fails < 16 → lcPosition s = 15 → c.target = 0x40 →
    tokenOk s.nv.otp 8 c.token = true →
    Runs (.transitionDecision false) s fun t =>
      t.nv.otp.a = s.nv.otp.a ∧ t.nv.otp.b = s.nv.otp.b ∧ t.nv.otp.c = s.nv.otp.c ∧ t.clk.milestone = 0) ∧
  (∀ s slot d, lcNow s = 0 → slot < 11 → thas s.nv.otp.tokens slot = false → s.mod.phase = .good →
    d ≠ BitVec.allOnes 384 →
    Runs (.tokenDigestProgram slot d) s fun t =>
      tget t.nv.otp.tokens slot = some (.digest d) ∧ ∀ i, i ≠ slot → tget t.nv.otp.tokens i = tget s.nv.otp.tokens i) ∧
  (∀ s slot d, thas s.nv.otp.tokens slot = true → exec (.tokenDigestProgram slot d) s = .next s) ∧
  (∀ s, s.mod.phase = .good → s.sec.session = .none_ → extestAllowed s = true →
    exec .jtagExtest s = .next { s with lcs := { s.lcs with extest := true } }) ∧
  (∀ s, s.sec.session = .none_ → extestAllowed s = false → exec .jtagExtest s = .next s) ∧
  (∀ s, s.lcs.extest = true → Runs .jtagExtestExit s fun t => ChipReset false s t ∧ t.lcs.extest = false) ∧
  (∀ s, s.lcs.extest = false → exec .jtagExtestExit s = .next s)

/-- R57, R69 to R75, R99: VF provisioning, teardown and function resets. -/
def Obligations.VfProvisioning : Prop :=
  let open_ := fun (src : Src) (v : Nat) (s : State) =>
    srcOpen s src = true ∧ vfLegal v = true ∧ regBlocked s (.hifVfCtrl v) true = false
  let torn := fun (v : Nat) (t : State) => (vfOf t v).state = .teardown ∧ (vfOf t v).tdStep = .begun
  (∀ s src v, open_ src v s → vfQueueFull s = false → confidential s = false → (vfOf s v).state = .idle →
    vfEnabled s v = true → (vfOf s v).quota.queuePairs ≤ 256 * s.hif.vfBarMib → shortPools s (vfOf s v).quota = 0 →
    Runs (.commit src v) s fun t => vfOf t v = { vfOf s v with
      state := .active, short := 0, lastStatus := 0x00, qpMap := (freeGlobals s).take (vfOf s v).quota.queuePairs }) ∧
  (∀ s src v, open_ src v s → vfQueueFull s = false → confidential s = false → (vfOf s v).state = .idle →
    vfEnabled s v = true → (vfOf s v).quota.queuePairs ≤ 256 * s.hif.vfBarMib → shortPools s (vfOf s v).quota ≠ 0 →
    Runs (.commit src v) s fun t =>
      vfOf t v = { vfOf s v with short := shortPools s (vfOf s v).quota, lastStatus := 0x11 }) ∧
  (∀ s src v, open_ src v s → vfQueueFull s = false → confidential s = false → (vfOf s v).state = .teardown →
    vfEnabled s v = true → Runs (.commit src v) s fun t => vfOf t v = { vfOf s v with state := .held }) ∧
  (∀ s src v, open_ src v s → vfQueueFull s = false → confidential s = true →
    Runs (.commit src v) s fun t => vfOf t v = { vfOf s v with lastStatus := 0x13 }) ∧
  (∀ (c : Src → Nat → Instr) s src v, c = Instr.commit ∨ c = Instr.release → open_ src v s → vfQueueFull s = true →
    Runs (c src v) s fun t => vfOf t v = { vfOf s v with lastStatus := 0x30 } ∧ t.hif.vfRecords = s.hif.vfRecords ∧
      Only (partMask [.hif]) s t) ∧
  (∀ s src v, open_ src v s → vfQueueFull s = false → (vfOf s v).state = .idle →
    Runs (.release src v) s fun t => vfOf t v = { vfOf s v with lastStatus := 0x00 }) ∧
  (∀ s src v, open_ src v s → vfQueueFull s = false → (vfOf s v).state = .active →
    Runs (.release src v) s fun t => torn v t ∧ (vfOf t v).releases = (vfOf s v).releases + 1 ∧
      t.cmd.pages = tdel s.cmd.pages v ∧ ∀ q p, tget t.cmd.qps q = some p → p.fn = v → p.state = .aborting) ∧
  (∀ s n, configOpen s = true →
    Runs (.numvfsWrite n) s fun t => t.hif.numVfs = min 512 n ∧
      ∀ v, (vfOf s v).state = .active → v ∈ tkeys s.hif.vfs → min 512 n < v → torn v t) ∧
  (∀ s on, configOpen s = true → vfEnableHeld s = false →
    Runs (.vfEnableWrite on) s fun t => t.hif.vfEnable = on ∧
      ∀ v, (vfOf s v).state = .active → v ∈ tkeys s.hif.vfs → on = false → torn v t) ∧
  (∀ s on, vfEnableHeld s = true → exec (.vfEnableWrite on) s = .next s) ∧
  (∀ s mib, configOpen s = true → mib = 1 ∨ mib = 2 ∨ mib = 4 →
    exec (.vfResizableBarWrite mib) s = .next { s with hif := { s.hif with vfBarMib := mib } }) ∧
  (∀ s v n, tdAt s v .begun = true → Runs (.vfHostDrain v n) s fun t =>
    (vfOf t v).tdStep = .drained ∧ (vfOf t v).squashed = n ∧ t.hif.quarantine = s.hif.quarantine + n) ∧
  (∀ s v, tdAt s v .drained = true → Runs (.vfContextsAborted v) s fun t =>
    (vfOf t v).tdStep = .aborted ∧ t = modVf v (fun e => { e with tdStep := .aborted }) (destroyFn v s)) ∧
  (∀ s v, tdAt s v .aborted = true → Runs (.vfResourcesAccounted v) s fun t =>
    (vfOf t v).tdStep = .accounted ∧ tgetD t.hif.dirty v 0 = (vfOf s v).quota.hbmGib) ∧
  (∀ s v n, v ≠ 0 → tdAt s v .accounted = true → (vfOf s v).state = .teardown → (vfOf s v).tdFlr = false →
    (vfOf s v).releases = n → Runs (.vfTeardownEnd v) s fun t =>
      (vfOf t v).state = .idle ∧ (vfOf t v).quota = shownQuota (vfOf s v) ∧ (vfOf t v).pend = [] ∧ (vfOf t v).qpMap = [] ∧
      (0 < n → (vfOf t v).lastStatus = 0x00) ∧
      tgetD t.hif.dirty 0 0 = tgetD s.hif.dirty 0 0 + tgetD s.hif.dirty v 0) ∧
  (∀ s v, tdAt s v .accounted = true → (vfOf s v).state = .teardown → (vfOf s v).tdFlr = true →
    Runs (.vfTeardownEnd v) s fun t => vfOf t v = { vfOf s v with state := .active, tdFlr := false, squashed := 0 }) ∧
  (∀ s v, tdAt s v .begun = true → exec (.vfContextsAborted v) s = .next s ∧ exec (.vfResourcesAccounted v) s = .next s ∧
    exec (.vfTeardownEnd v) s = .next s) ∧
  (∀ s fn n, tgetD s.hif.dirty fn 0 = n + 1 → Runs (.granuleZeroed fn) s fun t =>
    tgetD t.hif.dirty fn 0 = n ∧ Only (partMask [.hif]) s t) ∧
  (∀ s v, configOpen s = true → vfEnabled s v = true → (vfOf s v).state = .active →
    Runs (.vfFlr v) s fun t => torn v t ∧ (vfOf t v).tdFlr = true ∧ ∀ k, k / 4096 = v → tget t.hif.msix k = none) ∧
  (∀ s v, configOpen s = true → vfEnabled s v = true → (vfOf s v).state = .teardown →
    Runs (.vfFlr v) s fun t => vfOf t v = vfOf s v) ∧
  (∀ s, configOpen s = true → tdiLocked s = false → Runs .pfFlr s fun t =>
    t.hif.vfs = [] ∧ t.hif.numVfs = 0 ∧ t.hif.vfEnable = false ∧ t.cmd.pages = [] ∧ t.cmd.hearts = [] ∧ t.hif.vfRecords = [])

/-- R56, R59 to R62, R66, R73, R429, R453, R472: the host link's errors, its security protocols and MSI-X. -/
def Obligations.HostLinkSecurity : Prop :=
  (∀ s, s.clk.inL0 = true → Runs .hostLinkError s fun t =>
    t.out.head? = some .aer ∧ t.flt.records = (s.flt.records + 1) % 2 ^ 32 ∧ t.flt.chipResets = s.flt.chipResets ∧
    (t.flt.ring.head?.map fun r => (r.cls, r.level)) = some (0x09, 0)) ∧
  (∀ s, s.clk.inL0 = false → exec .hostLinkError s = .next s ∧ exec .hostLinkDown s = .next s) ∧
  (∀ s, s.clk.inL0 = true → s.mod.perstN = true → tdiLocked s = false → Runs .hostLinkDown s fun t =>
    t.clk = { s.clk with inL0 := false } ∧ t.hif.vfs = [] ∧ t.hif.numVfs = 0 ∧ t.cmd.pages = []) ∧
  (∀ s n key, securedOpen s = true → n < 5 → Runs (.ideKmKeyProg n key) s fun t =>
    ideOf t n = { ideOf s n with keyed := true, insecure := false, key := key } ∧
    (∀ m, m ≠ n → ideOf t m = ideOf s m) ∧ t.out = .doe Doe.ideKm [] :: s.out) ∧
  (∀ s n, (ideOf s n).keyed = true → (ideOf s n).insecure = false → (ideOf s n).bound = false →
    Runs (.ideIntegrityFailure n) s fun t => ideOf t n = { ideOf s n with insecure := true } ∧ t.hif.tdi = s.hif.tdi) ∧
  (∀ s n, (ideOf s n).keyed = true → (ideOf s n).insecure = false → (ideOf s n).bound = true → tdiLocked s = true →
    s.sec.session = .none_ → Runs (.ideIntegrityFailure n) s fun t => t.hif.tdi = .error ∧ (ideOf t n).insecure = true) ∧
  (∀ s, configOpen s = true → tdiLocked s = true → s.sec.session = .none_ →
    exec .pfBarChange s = .next { s with hif := { s.hif with tdi := .error } }) ∧
  (∀ s, configOpen s = true → tdiLocked s = true → s.sec.session ≠ .none_ → s.flt.haltCause = 0 →
    Runs .pfBarChange s fun t => t.sec.session = .none_ ∧ t.sec.keys = []) ∧
  (∀ s, tdiLocked s = false → exec .pfBarChange s = .next s) ∧
  (∀ s n, securedOpen s = true → s.hif.tdi = .unlocked → s.hif.vfEnable = false →
    (∀ e ∈ s.hif.vfs, e.2.state ≠ .teardown ∧ e.2.state ≠ .held) → 1 ≤ n → n ≤ 4 →
    Runs (.lockInterfaceRequest n) s fun t => t.hif.tdi = .locked ∧ (ideOf t n).bound = true ∧
      t.out = .doe Doe.tdisp [1, 1] :: s.out) ∧
  (∀ s n, securedOpen s = true → s.hif.tdi ≠ .unlocked ∨ s.hif.vfEnable = true →
    exec (.lockInterfaceRequest n) s =
      .next { s with out := .doe Doe.tdisp [0, BitVec.ofNat 8 (tdiCode s.hif.tdi)] :: s.out }) ∧
  (∀ s, securedOpen s = true → s.hif.tdi = .locked → exec .startInterfaceRequest s =
    .next { s with hif := { s.hif with tdi := .run }, out := .doe Doe.tdisp [1, 2] :: s.out }) ∧
  (∀ s, securedOpen s = true → s.hif.tdi ≠ .locked → exec .startInterfaceRequest s =
    .next { s with out := .doe Doe.tdisp [0, BitVec.ofNat 8 (tdiCode s.hif.tdi)] :: s.out }) ∧
  (∀ s, securedOpen s = true → s.sec.session = .none_ → Runs .stopInterfaceRequest s fun t =>
    t.hif.tdi = .unlocked ∧ (∀ n, (ideOf t n).bound = false) ∧ t.out = .doe Doe.tdisp [1, 0] :: s.out) ∧
  (∀ s, configOpen s = true → exec .doeDiscovery s = .next { s with out := .doe Doe.discovery [0, 1, 2] :: s.out }) ∧
  (∀ s, configOpen s = true → s.sec.alias_ = true →
    exec (.getCertificate 0) s = .next { s with
      out := .doe Doe.cert (Config.certChain (if s.nv.otp.chainC then 2 else 0)) :: s.out } ∧
    (s.sec.session = .open_ →
      exec (.getCertificate 1) s = .next { s with out := .doe Doe.cert (Config.certChain 1) :: s.out })) ∧
  (∀ s nonce, configOpen s = true → s.sec.alias_ = true → pkRoom s 1 = true →
    (∃ u, exec (.spdmChallenge 0 nonce) s = .next { s with sec := { s.sec with pk := s.sec.pk ++ [u] } }) ∧
    exec (.getMeasurements nonce) s = .next { s with sec := { s.sec with
      pk := s.sec.pk ++ [.spdm Doe.meas (measBlocks s ++ leBytes 32 nonce.toNat)] } }) ∧
  (∀ s share, configOpen s = true → s.sec.alias_ = true → pkRoom s 1 = true →
    ∃ msg, exec (.keyExchange share) s = .next { s with
      draws := s.draws + 1, sec := { s.sec with pk := s.sec.pk ++ [.spdm Doe.keyEx msg] } }) ∧
  (∀ s qp sub, findDesc s qp sub = none → exec (.completionTimeout qp sub false) s =
    .next { s with hif := { s.hif with quarantine := s.hif.quarantine - 1 } }) ∧
  (∀ s qp sub d, findDesc s qp sub = some d → dRuns d = true → Runs (.completionTimeout qp sub false) s fun t =>
    findDesc t qp sub = some { d with phase := .ended (resOf 0x20) } ∧ Only (partMask [.cmd]) s t) ∧
  (∀ s v off be (val : Word), configOpen s = true → vfEnabled s v = true → off < 1024 →
    Runs (.vfMsixWrite v off be val) s fun t =>
      tget t.hif.msix (v * 4096 + off / 16) = some (msixPut (tgetD s.hif.msix (v * 4096 + off / 16) msixInit) (off % 16 / 4)
        (enabledBytes (msixDword (tgetD s.hif.msix (v * 4096 + off / 16) msixInit) (off % 16 / 4)) val.toNat be)) ∧
      ∀ k, k ≠ v * 4096 + off / 16 → tget t.hif.msix k = tget s.hif.msix k)

/-- R85 to R87, R91 to R93, R99, R111: doorbells, service queues, interrupts and heartbeats. -/
def Obligations.DoorbellsAndServiceQueues : Prop :=
  (∀ s bar page bound v q p, doorOpen s bound = true → doorQp s bar page = some (q, p) →
    Runs (.doorbellSq bar page bound v) s fun t =>
      getQp t q = some { p with sqTail := v.toNat % 65536 % 2 ^ p.sqLog } ∧ Only (partMask [.cmd]) s t) ∧
  (∀ s bar page bound (v : Word) q p, doorOpen s bound = true → doorQp s bar page = some (q, p) →
    let k := (v.toNat % 65536 % 2 ^ p.cqLog + 2 ^ p.cqLog - p.cqConsumed % 2 ^ p.cqLog) % 2 ^ p.cqLog
    Runs (.doorbellCq bar page bound v) s fun t => Only (partMask [.cmd]) s t ∧
      getQp t q = some { p with
        cqConsumed := if k ≤ p.cqWritten - p.cqConsumed then p.cqConsumed + k else p.cqWritten
        armed := p.armed || bitOf v.toNat 31 }) ∧
  (∀ s bar page bound q p, doorOpen s bound = true → doorQp s bar page = some (q, p) →
    Runs (.queueArm bar page bound) s fun t => getQp t q = some { p with armed := true } ∧ Only (partMask [.cmd]) s t) ∧
  (∀ s bar page fn bound v, doorOpen s bound = false →
    exec (.doorbellSq bar page bound v) s = .next s ∧ exec (.doorbellCq bar page bound v) s = .next s ∧
    exec (.queueArm bar page bound) s = .next s ∧ exec (.build fn bound v) s = .next s ∧
    exec (.unbuild fn bound v) s = .next s) ∧
  (∀ s fn bound (v : Word) q, doorOpen s bound = true → svqNum s fn = some q → svqOf s fn = none →
    bitsOf v.toNat 0 11 < vectorCount fn →
    Runs (.build fn bound v) s fun t => ∃ p, getQp t q = some p ∧ p.fn = fn ∧ p.loc = 0 ∧ p.ctx = none ∧ p.state = .live ∧
      p.sqBase = (pageOf s fn).sqBase ∧ p.cqBase = (pageOf s fn).cqBase ∧ p.vector = some (bitsOf v.toNat 0 11) ∧
      p.sqLog = clampTo 6 16 (bitsOf v.toNat 15 5) ∧ p.cqLog = clampTo 6 16 (bitsOf v.toNat 20 5) ∧ p.nextSub = 0 ∧
      p.cqWritten = 0 ∧ p.armed = false) ∧
  (∀ s fn bound v q p, doorOpen s bound = true → svqOf s fn = some (q, p) →
    Runs (.unbuild fn bound v) s fun t => getQp t q = some { p with unbuilding := true } ∧
      (∀ d ∈ t.cmd.descs, d.qp = q → d.noRecord = true ∧ d.phase ≠ .fetched) ∧ canFetch t q { p with unbuilding := true } = false) ∧
  (∀ s fn q p, svqOf s fn = some (q, p) → p.unbuilding = true → (∀ d ∈ s.cmd.descs, d.qp ≠ q) →
    (pageOf s fn).heldBuild = false → Runs (.serviceQueueUnbuilt fn) s fun t =>
      t.cmd.qps = tdel s.cmd.qps q ∧ pageOf t fn = applyPage (pageOf s fn)) ∧
  (∀ s r rest q p, s.hif.vfRecords = r :: rest → svqOf s 0 = some (q, p) → 2 ≤ freeSlots p →
    Runs .vfStateRecordWrite s fun t => t.hif.vfRecords = rest ∧
      (getQp t q).map QueuePair.cqWritten = some (p.cqWritten + 1) ∧ Only (partMask [.hif, .cmd, .out]) s t) ∧
  (∀ s r rest q p, s.hif.vfRecords = r :: rest → svqOf s 0 = some (q, p) → freeSlots p < 2 →
    exec .vfStateRecordWrite s = .next s) ∧
  (∀ s fn vec, fn * 4096 + vec ∈ s.hif.msixPending → Runs (.msixUnmask fn vec) s fun t =>
    t.out = .msix fn vec :: s.out ∧ fn * 4096 + vec ∉ t.hif.msixPending ∧
    (tgetD t.hif.msix (fn * 4096 + vec) msixInit).masked = false) ∧
  (∀ s fn q p, heartsRun s = true → svqOf s fn = some (q, p) → 1 ≤ freeSlots p → Runs (.heartbeat fn) s fun t =>
    tgetD t.cmd.hearts fn { seq := 0, skipped := 0 } =
      { seq := ((tgetD s.cmd.hearts fn { seq := 0, skipped := 0 }).seq + 1) % 2 ^ 32, skipped := 0 } ∧
    (getQp t q).map QueuePair.cqWritten = some (p.cqWritten + 1)) ∧
  (∀ s fn q p, heartsRun s = true → svqOf s fn = some (q, p) → freeSlots p = 0 → Runs (.heartbeat fn) s fun t =>
    tgetD t.cmd.hearts fn { seq := 0, skipped := 0 } =
      { seq := ((tgetD s.cmd.hearts fn { seq := 0, skipped := 0 }).seq + 1) % 2 ^ 32
        skipped := satAdd (2 ^ 32 - 1) (tgetD s.cmd.hearts fn { seq := 0, skipped := 0 }).skipped 1 } ∧
    t.out = s.out ∧ t.cmd.qps = s.cmd.qps)

/-- R89 to R92, R94 to R96, R98, R104: fetch, start and completion. -/
def Obligations.FetchStartComplete : Prop :=
  let fetched := fun (qp : Nat) (p : QueuePair) (raw : BitVec 512) =>
    ({ qp := qp, sub := p.nextSub, pos := p.fetchPos, fn := p.fn, raw := raw, phase := .fetched, noRecord := false
       sigOk := false, escalated := false, note := 0 } : Desc)
  let after := fun (p : QueuePair) =>
    { p with reserved := p.reserved + 1, nextSub := p.nextSub + 1, fetchPos := (p.fetchPos + 1) % 2 ^ p.sqLog }
  let able := fun (s : State) (qp : Nat) (p : QueuePair) =>
    cmdReady s = true ∧ fetchChoice s = some qp ∧ getQp s qp = some p
  (∀ s qp raw p, able s qp p → dSeq (fetched qp p raw) = p.nextSub % 65536 →
    headerFail (fetchServed p s) (fetched qp p raw) = none →
    Runs (.descriptorFetch qp raw) s fun t => getQp t qp = some (after p) ∧ Only (partMask [.cmd]) s t ∧
      ∃ sig, t.cmd.descs = s.cmd.descs ++ [{ fetched qp p raw with sigOk := sig }]) ∧
  (∀ s qp raw p r, able s qp p → dSeq (fetched qp p raw) = p.nextSub % 65536 →
    headerFail (fetchServed p s) (fetched qp p raw) = some r →
    Runs (.descriptorFetch qp raw) s fun t => getQp t qp = some (after p) ∧
      ∃ sig, t.cmd.descs = s.cmd.descs ++ [{ fetched qp p raw with phase := .ended r, sigOk := sig }]) ∧
  (∀ s qp raw p, able s qp p → p.ctx = none → dSeq (fetched qp p raw) ≠ p.nextSub % 65536 →
    Runs (.descriptorFetch qp raw) s fun t => getQp t qp = some { after p with state := .stopped } ∧
      t.cmd.descs = s.cmd.descs ++ [{ fetched qp p raw with phase := .ended (refuse 0x11 2) }]) ∧
  (∀ s qp p, able s qp p → p.ctx = none →
    Runs (.fetchError qp) s fun t => getQp t qp = some { after p with state := .stopped } ∧
      t.cmd.descs = s.cmd.descs ++ [{ fetched qp p 0 with phase := .ended (resOf 0x20) }]) ∧
  (∀ s qp raw, fetchChoice s ≠ some qp →
    exec (.descriptorFetch qp raw) s = .next s ∧ exec (.fetchError qp) s = .next s) ∧
  (∀ s qp sub d, findDesc s qp sub = some d → d.phase = .fetched → nextToStart s d = true → dFence d = false →
    dWait d = 0 → Runs (.descriptorStart qp sub) s fun t =>
      findDesc t qp sub = some { d with phase := .started } ∧ Only (partMask [.cmd]) s t) ∧
  (∀ s qp sub d e, findDesc s qp sub = some d → d.phase = .fetched → nextToStart s d = true → fenceMet s d = true →
    dWait d ≠ 0 → tget s.evs (hSlot (dWait d)) = some e → e.aborting = false → e.signalled = true → e.error = false →
    Runs (.descriptorStart qp sub) s fun t => findDesc t qp sub = some { d with phase := .started }) ∧
  (∀ s qp sub d e, findDesc s qp sub = some d → d.phase = .fetched → nextToStart s d = true → fenceMet s d = true →
    dWait d ≠ 0 → tget s.evs (hSlot (dWait d)) = some e → e.signalled = true → e.error = true →
    Runs (.descriptorStart qp sub) s fun t => resultOf t qp sub = some (resOf 0x20)) ∧
  (∀ s qp sub d e, findDesc s qp sub = some d → dWait d ≠ 0 → tget s.evs (hSlot (dWait d)) = some e →
    e.aborting = false → e.signalled = false → exec (.descriptorStart qp sub) s = .next s) ∧
  (∀ s qp sub d, findDesc s qp sub = some d → (nextToStart s d = false ∨ dFence d = true ∧ fenceMet s d = false) →
    exec (.descriptorStart qp sub) s = .next s) ∧
  (∀ s qp sub d r p, findDesc s qp sub = some d → d.phase = .ended r → d.noRecord = false → d.sigOk = false →
    dQuiet d = true → r.status = 0 → d.qp = qp → byRun sub = false → getQp s qp = some p →
    Runs (.completionWrite qp sub) s fun t => findDesc t qp sub = none ∧ t.out = s.out ∧
      getQp t qp = some { p with reserved := p.reserved - 1 }) ∧
  (∀ s qp sub d r p, findDesc s qp sub = some d → d.phase = .ended r → d.noRecord = false → d.sigOk = false →
    dQuiet d = false → p.armed = false → byRun sub = false → getQp s qp = some p →
    Runs (.completionWrite qp sub) s fun t => findDesc t qp sub = none ∧
      t.out = .record qp (p.cqWritten % 2 ^ p.cqLog)
        (descRec d r (dstat s p.fn) (decide (p.cqWritten / 2 ^ p.cqLog % 2 = 0))) :: s.out ∧
      getQp t qp = some { p with
        reserved := p.reserved - 1, cqWritten := p.cqWritten + 1, lastDstat := some (dstat s p.fn) }) ∧
  (∀ s qp sub d, findDesc s qp sub = some d → dEnded d = false → exec (.completionWrite qp sub) s = .next s)

/-- R80 to R82, R84, R101, R102, R109, R113 to R115, R192: attention, contexts and queue pairs. -/
def Obligations.ContextsAndQueuePairs : Prop :=
  (∀ s qp sub d, Started s qp sub 0x00 d → Runs (.nop qp sub) s fun t =>
    resultOf t qp sub = some (resOf 0) ∧ Only (partMask [.cmd]) s t ∧ t.cmd.att = s.cmd.att ∧ t.cmd.qps = s.cmd.qps) ∧
  (∀ (c : Nat → Nat → Instr) s qp sub, c ∈ [Instr.nop, .ackAttention, .getAttention, .createContext, .resetContext, .destroyContext,
      .createQueuePair, .destroyQueuePair, .createMemory, .destroyMemory, .createEvent, .destroyEvent, .exportEvent,
      .eventSignal, .eventAdd, .eventReset, .eventWait, .eventQuery, .eventRemote, .destroyTaskGraph, .fill] →
    (∀ d, findDesc s qp sub = some d → d.phase ≠ .started) → exec (c qp sub) s = .next s) ∧
  (∀ s qp sub d e, Started s qp sub 0x02 d → dfld d 24 1 ∈ attCodes → tget (attOf s d.fn).entries (dfld d 24 1) = some e →
    Runs (.getAttention qp sub) s fun t => resultOf t qp sub = some
      { status := 0, handle := e.handle, aux := e.epochLast % 256 * 2 ^ 24 + dfld d 24 1 * 2 ^ 16 + e.count
        value := e.detail, flags := if e.pending then 1 else 0 } ∧ t.cmd.att = s.cmd.att) ∧
  (∀ s qp sub d e ep, Started s qp sub 0x01 d → dfld d 24 1 ∈ attCodes →
    tget (attOf s d.fn).entries (dfld d 24 1) = some e → fullEpoch (attOf s d.fn).epoch (dfld d 25 1) = some ep →
    Runs (.ackAttention qp sub) s fun t => statusOf t qp sub = some 0 ∧
      tget (attOf t d.fn).entries (dfld d 24 1) =
        some (if e.epochLast ≤ ep then { e with pending := false, count := 0 } else e)) ∧
  (∀ s qp sub d c, Started s qp sub 0x10 d → dfld d 24 1 < 4 → partOff s (dfld d 24 1) = false →
    quotaFail s d.fn Hk.ctx = none → slotChoose s.cmd.ctxSlots 4096 = some c → confidential s = false →
    Runs (.createContext qp sub) s fun t => resultOf t qp sub = some { resOf 0 with handle := mkHandle 1 c } ∧
      tget t.ctxs c = some { state := .live, fn := d.fn, home := dfld d 24 1, prio := min 3 (dfld d 25 1), seed := 0
                             mode := true, aflags := 0, waiters := [] } ∧
      t.cmd.ctxSlots = slotTake s.cmd.ctxSlots 4096 ∧ ∀ k, k ≠ c → tget t.ctxs k = tget s.ctxs k) ∧
  (∀ s qp sub d r, Started s qp sub 0x10 d → dfld d 24 1 < 4 → partOff s (dfld d 24 1) = false →
    quotaFail s d.fn Hk.ctx = some r → Runs (.createContext qp sub) s fun t =>
      resultOf t qp sub = some r ∧ t.ctxs = s.ctxs) ∧
  (∀ s qp sub d x, Started s qp sub 0x12 d → tget s.ctxs (hSlot (dCtx d)) = some x → x.state = .live ∨ x.state = .faulted →
    partOff s x.home = false → Runs (.resetContext qp sub) s fun t =>
      t = removeCtxWork (hSlot (dCtx d)) (modCtx (hSlot (dCtx d)) (fun x => { x with state := .resetting })
        (waitCtx (hSlot (dCtx d)) d s))) ∧
  (∀ s qp sub d x, Started s qp sub 0x12 d → tget s.ctxs (hSlot (dCtx d)) = some x → x.state ≠ .aborting →
    partOff s x.home = true → Runs (.resetContext qp sub) s fun t =>
      resultOf t qp sub = some (refuse 0x11 4) ∧ t.ctxs = s.ctxs) ∧
  (∀ s qp sub d x, Started s qp sub 0x11 d → tget s.ctxs (hSlot (dCtx d)) = some x → x.state = .resetting →
    Runs (.destroyContext qp sub) s fun t =>
      tget t.ctxs (hSlot (dCtx d)) = some { x with waiters := x.waiters ++ [(qp, sub)] }) ∧
  (∀ s qp sub d x, Started s qp sub 0x11 d → tget s.ctxs (hSlot (dCtx d)) = some x → x.state = .live ∨ x.state = .faulted →
    Runs (.destroyContext qp sub) s fun t => t = beginDestroy (hSlot (dCtx d)) (waitCtx (hSlot (dCtx d)) d s)) ∧
  (∀ s c x q u d, tget s.ctxs c = some x → x.state = .resetting → x.waiters = [(q, u)] → findDesc s q u = some d →
    dEnded d = false → Runs (.contextResetComplete c) s fun t =>
      tget t.ctxs c = some { x with state := .live, aflags := 0, waiters := [] } ∧
      resultOf t q u = some { resOf 0 with flags := if d.escalated then 1 else 0 } ∧
      ∀ k p, tget s.cmd.qps k = some p →
        tget t.cmd.qps k = some (if p.ctx = some c then skipQp p else p)) ∧
  (∀ s c x, tget s.ctxs c = some x → x.state ≠ .resetting → exec (.contextResetComplete c) s = .next s) ∧
  (∀ s qp sub d q loc, Started s qp sub 0x14 d → dfld d 42 2 < vectorCount d.fn → quotaFail s d.fn Hk.qp = none →
    freeQp s d.fn = some (q, loc) → Runs (.createQueuePair qp sub) s fun t =>
      resultOf t qp sub = some { resOf 0 with handle := mkHandle 2 q, aux := loc } ∧
      ∃ p, getQp t q = some p ∧ p.fn = d.fn ∧ p.ctx = some (hSlot (dCtx d)) ∧ p.sqBase = dfld d 24 8 / 4096 * 4096 ∧
        p.cqBase = dfld d 32 8 / 4096 * 4096 ∧ p.sqLog = max 6 (min 16 (dfld d 40 1)) ∧
        p.cqLog = max 6 (min 16 (dfld d 41 1)) ∧ p.vector = some (dfld d 42 2) ∧ p.state = .live ∧ p.nextSub = 0) ∧
  (∀ s qp sub d p, Started s qp sub 0x15 d → needQp s d 24 = none → getQp s (hSlot (dfld d 24 4)) = some p →
    s.tsk.launches = [] → s.runners = [] → Runs (.destroyQueuePair qp sub) s fun t =>
      getQp t (hSlot (dfld d 24 4)) = some { p with state := .aborting } ∧
      ∀ e ∈ t.cmd.descs, e.qp = hSlot (dfld d 24 4) → e.noRecord = true)

/-- R74, R79, R101, R102, R113, R121, R122, R140, R236, R237, R255, R451: memory objects, graphs, COPY and FILL. -/
def Obligations.MemoryGraphsAndCopies : Prop :=
  (∀ s qp sub d slot x, Started s qp sub 0x18 d → tget s.ctxs (hSlot (dCtx d)) = some x → dfld d 32 1 = 0 →
    dfld d 33 1 = 0 → dfld d 35 1 = 0 → confidential s = false → 1 ≤ dfld d 24 8 / 4096 → dfld d 24 8 % 4096 = 0 →
    dfld d 24 8 ≤ 352 * 2 ^ 30 → dfld d 24 8 ≤ shareLeft s d.fn → quotaFail s d.fn Hk.mem = none →
    slotChoose s.cmd.memSlots 1048576 = some slot → Runs (.createMemory qp sub) s fun t =>
      resultOf t qp sub =
        some { resOf 0 with handle := mkHandle 3 slot, value := chooseVa s d.fn 0 (dfld d 24 8) } ∧
      (∃ m, tget t.mems slot = some m ∧ m.ctx = hSlot (dCtx d) ∧ m.size = dfld d 24 8 ∧ m.page = 0 ∧ m.part = x.home ∧
        m.cluster = none ∧ m.keyId = 0 ∧ m.va = chooseVa s d.fn 0 (dfld d 24 8) ∧ m.aborting = false ∧ m.mapped = [] ∧
        m.resident = []) ∧ ∀ k, k ≠ slot → tget t.mems k = tget s.mems k) ∧
  (∀ s qp sub d, Started s qp sub 0x18 d → dfld d 32 1 = 0 → dfld d 33 1 = 0 → dfld d 35 1 = 0 → confidential s = false →
    1 ≤ dfld d 24 8 / 4096 → dfld d 24 8 % 4096 = 0 → dfld d 24 8 ≤ 352 * 2 ^ 30 →
    shareLeft s d.fn + memDying s d.fn < dfld d 24 8 → quotaFail s d.fn Hk.mem = none →
    Runs (.createMemory qp sub) s fun t => resultOf t qp sub = some (refuse 0x11 24) ∧ t.mems = s.mems) ∧
  (∀ s qp sub d m, Started s qp sub 0x19 d → needH s d Hk.mem 24 = none → tget s.mems (hSlot (dfld d 24 4)) = some m →
    Quiet s → s.tsk.gens = [] → s.ckp.ctxs = [] → s.ing.streams = [] → Runs (.destroyMemory qp sub) s fun t =>
      tget t.mems (hSlot (dfld d 24 4)) = some { m with aborting := true } ∧
      (findDesc t qp sub).map (fun e => (e.phase, e.note)) = some (.running, dfld d 24 4)) ∧
  (∀ s slot m d, tget s.mems slot = some m → m.aborting = true → slot < 2 ^ 20 →
    destroyers s (mkHandle 3 slot) = [d] → findDesc s d.qp d.sub = some d → s.ing.streams = [] →
    Runs (.destructionComplete (mkHandle 3 slot)) s fun t =>
      t.mems = tdel s.mems slot ∧ t.cmd.memSlots = { s.cmd.memSlots with freed := s.cmd.memSlots.freed ++ [slot] } ∧
      statusOf t d.qp d.sub = some 0 ∧
      (∀ k, k < memKey slot 0 ∨ memKey (slot + 1) 0 ≤ k → cellGet t.mem k = cellGet s.mem k) ∧
      tgetD t.hif.dirty (ctxFn s m.ctx) 0 = tgetD s.hif.dirty (ctxFn s m.ctx) 0 + (m.size + 2 ^ 30 - 1) / 2 ^ 30) ∧
  (∀ s h, isAborting s h = false → exec (.destructionComplete h) s = .next s) ∧
  (∀ s qp sub d bad, Started s qp sub 0x20 d → needH s d Hk.mem 24 ≠ none →
    Runs (.loadTaskGraph qp sub bad) s fun t =>
      resultOf t qp sub = needH s d Hk.mem 24 ∧ t.tsk.graphs = s.tsk.graphs) ∧
  (∀ s qp sub d bad n o, Started s qp sub 0x20 d → needH s d Hk.mem 24 = none →
    (let len := clampTo 64 (2 ^ 30) (dfld d 40 8)
     let u := touch (hSlot (dfld d 24 4)) (dfld d 32 8) len false s
     needRange s (dfld d 24 4) (dfld d 32 8) len 32 = none ∧ poisonedIn u (hSlot (dfld d 24 4)) (dfld d 32 8) len = false ∧
     gChecks (readMem u (.desc qp sub) (hSlot (dfld d 24 4)) (dfld d 32 8) len) (confidential u) bad = some (n, o)) →
    confidential s = false → Runs (.loadTaskGraph qp sub bad) s fun t =>
      resultOf t qp sub = some { refuse 0x11 24 with value := o, flags := n } ∧ t.tsk.graphs = s.tsk.graphs) ∧
  (∀ s qp sub d bad g, Started s qp sub 0x20 d → needH s d Hk.mem 24 = none →
    (let len := clampTo 64 (2 ^ 30) (dfld d 40 8)
     let u := touch (hSlot (dfld d 24 4)) (dfld d 32 8) len false s
     needRange s (dfld d 24 4) (dfld d 32 8) len 32 = none ∧ poisonedIn u (hSlot (dfld d 24 4)) (dfld d 32 8) len = false ∧
     gChecks (readMem u (.desc qp sub) (hSlot (dfld d 24 4)) (dfld d 32 8) len) (confidential u) bad = none ∧
     quotaFail u d.fn Hk.graph = none ∧ roundUp len 4096 ≤ shareLeft u d.fn ∧
     slotChoose u.cmd.graphSlots 65536 = some g) → Runs (.loadTaskGraph qp sub bad) s fun t =>
      (tget t.tsk.graphs g).map Graph.ctx = some (hSlot (dCtx d)) ∧
      (findDesc t qp sub).map (fun e => (e.phase, e.note)) = some (.running, g)) ∧
  (∀ s g x d, tget s.tsk.graphs g = some x → x.state = .loading → findDesc s d.qp d.sub = some d →
    s.cmd.descs.find? (fun d => decide (dOp d = 0x20) && decide (d.phase = .running) && decide (d.note = g)) = some d →
    Runs (.taskGraphLoaded g) s fun t => tget t.tsk.graphs g = some { x with state := .loaded } ∧
      t.sec.graphChain = chainExtend s.sec.graphChain x.digest ∧ t.sec.nGraphs = s.sec.nGraphs + 1 ∧
      resultOf t d.qp d.sub = some { resOf 0 with handle := mkHandle 6 g }) ∧
  (∀ s qp sub d x, Started s qp sub 0x21 d → needH s d Hk.graph 24 = none →
    tget s.tsk.graphs (hSlot (dfld d 24 4)) = some x → Quiet s → Runs (.destroyTaskGraph qp sub) s fun t =>
      tget t.tsk.graphs (hSlot (dfld d 24 4)) = some { x with state := .aborting } ∧
      (findDesc t qp sub).map (fun e => (e.phase, e.note)) = some (.running, dfld d 24 4)) ∧
  (∀ s qp sub d host, Started s qp sub 0x30 d → dfld d 24 4 = 0 → needH s d Hk.mem 28 = none → dfld d 28 4 ≠ 0 →
    (let n := clampTo 1 (2 ^ 40) (dfld d 48 8)
     needWritable s (dfld d 28 4) (dfld d 40 8) n 40 = none ∧ writePrefix s (hSlot (dfld d 28 4)) (dfld d 40 8) n = n) →
    Runs (.copy qp sub host none) s fun t =>
      resultOf t qp sub = some { resOf 0 with value := clampTo 1 (2 ^ 40) (dfld d 48 8) } ∧
      ∀ k, k < memKey (hSlot (dfld d 28 4)) (dfld d 40 8) ∨
        memKey (hSlot (dfld d 28 4)) (dfld d 40 8) + clampTo 1 (2 ^ 40) (dfld d 48 8) ≤ k → cellGet t.mem k = cellGet s.mem k) ∧
  (∀ s qp sub d host, Started s qp sub 0x30 d → dfld d 24 4 = 0 → dfld d 28 4 = 0 →
    Runs (.copy qp sub host none) s fun t => resultOf t qp sub = some (refuse 0x10 28) ∧ t.mem = s.mem) ∧
  (∀ s qp sub d, Started s qp sub 0x31 d → needH s d Hk.mem 24 = none → dfld d 40 8 % 8 = 0 → 8 ≤ dfld d 40 8 →
    dfld d 40 8 ≤ 2 ^ 40 → needWritable s (dfld d 24 4) (dfld d 32 8) (dfld d 40 8) 32 = none →
    writePrefix s (hSlot (dfld d 24 4)) (dfld d 32 8) (dfld d 40 8) = dfld d 40 8 →
    Runs (.fill qp sub) s fun t => resultOf t qp sub = some { resOf 0 with value := dfld d 40 8 } ∧
      ∀ k, k < memKey (hSlot (dfld d 24 4)) (dfld d 32 8) ∨
        memKey (hSlot (dfld d 24 4)) (dfld d 32 8) + dfld d 40 8 ≤ k → cellGet t.mem k = cellGet s.mem k)

/-- R103 to R107, R113: events. -/
def Obligations.EventCommands : Prop :=
  let ev := fun (d : Desc) => hSlot (dfld d 24 4)
  (∀ s qp sub d e, Started s qp sub 0x1C d → quotaFail s d.fn Hk.ev = none → slotChoose s.cmd.evSlots 262144 = some e →
    Runs (.createEvent qp sub) s fun t => resultOf t qp sub = some { resOf 0 with handle := mkHandle 4 e } ∧
      tget t.evs e = some { ctx := hSlot (dCtx d), counter := decide (dfld d 24 1 ≠ 0)
                            threshold := if dfld d 24 1 ≠ 0 then max 1 (dfld d 28 4) else 0, count := 0, payload := 0
                            signalled := false, error := false, scope := 0, node := 0, nodeMask := 0, aborting := false }) ∧
  (∀ s qp sub d e, Started s qp sub 0x40 d → needH s d Hk.ev 24 = none → tget s.evs (ev d) = some e → e.aborting = false →
    Quiet s → Runs (.eventSignal qp sub) s fun t => statusOf t qp sub = some 0 ∧
      tget t.evs (ev d) = some { e with
        payload := dfld d 32 8, count := min (2 ^ 32 - 1) (e.count + 1)
        signalled := if e.counter then decide (e.threshold ≤ min (2 ^ 32 - 1) (e.count + 1)) else true }) ∧
  (∀ s qp sub d e, Started s qp sub 0x41 d → needH s d Hk.ev 24 = none → tget s.evs (ev d) = some e → e.aborting = false →
    Quiet s → Runs (.eventAdd qp sub) s fun t => statusOf t qp sub = some 0 ∧
      tget t.evs (ev d) = some { e with
        count := min (2 ^ 32 - 1) (e.count + dfld d 28 4)
        signalled := if e.counter then decide (e.threshold ≤ min (2 ^ 32 - 1) (e.count + dfld d 28 4)) else e.signalled }) ∧
  (∀ s qp sub d e, Started s qp sub 0x42 d → needH s d Hk.ev 24 = none → tget s.evs (ev d) = some e → e.aborting = false →
    Quiet s → (e.counter = true → 1 ≤ e.threshold) → Runs (.eventReset qp sub) s fun t => statusOf t qp sub = some 0 ∧
      tget t.evs (ev d) = some { e with count := 0, payload := 0, signalled := false, error := false }) ∧
  (∀ s qp sub d e, Started s qp sub 0x43 d → needH s d Hk.ev 24 = none → tget s.evs (ev d) = some e → e.signalled = true →
    Runs (.eventWait qp sub) s fun t => resultOf t qp sub = some
      { status := if e.error then 0x20 else 0x00, handle := dfld d 24 4, aux := e.count, value := e.payload
        flags := 1 + if e.error then 2 else 0 }) ∧
  (∀ s qp sub d e, Started s qp sub 0x43 d → needH s d Hk.ev 24 = none → tget s.evs (ev d) = some e → e.signalled = false →
    Runs (.eventWait qp sub) s fun t => findDesc t qp sub = some { d with phase := .running, note := ev d } ∧ t.evs = s.evs) ∧
  (∀ s qp sub d e, Running s qp sub 0x43 d → dfld d 28 4 ≠ 0 → tget s.evs (ev d) = some e →
    Runs (.eventWaitTimeout qp sub) s fun t => statusOf t qp sub = some 0x22 ∧ t.evs = s.evs) ∧
  (∀ s qp sub d, Running s qp sub 0x43 d → dfld d 28 4 = 0 → exec (.eventWaitTimeout qp sub) s = .next s) ∧
  (∀ s qp sub d e, Started s qp sub 0x44 d → needH s d Hk.ev 24 = none → tget s.evs (ev d) = some e →
    Runs (.eventQuery qp sub) s fun t => resultOf t qp sub = some
      { status := 0, handle := dfld d 24 4, aux := e.count, value := e.payload
        flags := (if e.signalled then 1 else 0) + if e.error then 2 else 0 } ∧ t.evs = s.evs) ∧
  (∀ s qp sub d e, Started s qp sub 0x1E d → needOwnEv s d 24 = none → tget s.evs (ev d) = some e →
    Runs (.exportEvent qp sub) s fun t => statusOf t qp sub = some 0 ∧
      tget t.evs (ev d) = some { e with scope := min 2 (dfld d 28 1), node := dfld d 32 3, nodeMask := dfld d 36 3 }) ∧
  (∀ s qp sub d, Started s qp sub 0x45 d → confidential s = false → Runs (.eventRemote qp sub) s fun t =>
    t.cmd.remotes = s.cmd.remotes ++ [{ qp := qp, sub := sub, node := dfld d 24 3 }] ∧
    findDesc t qp sub = some { d with phase := .running, note := dfld d 24 3 } ∧ t.evs = s.evs) ∧
  (∀ s node h v txn e, confidential s = false → hKind h = Hk.ev → tget s.evs (hSlot h) = some e → filterOk e node = true →
    Quiet s → Runs (.eventReq node 0 h v txn) s fun t => tget t.evs (hSlot h) = some { e with
      payload := v % 2 ^ 64, count := min (2 ^ 32 - 1) (e.count + 1)
      signalled := if e.counter then decide (e.threshold ≤ min (2 ^ 32 - 1) (e.count + 1)) else true }) ∧
  (∀ s node op h v txn e, confidential s = false → hKind h = Hk.ev → tget s.evs (hSlot h) = some e →
    filterOk e node = false → Runs (.eventReq node op h v txn) s fun t =>
      t = sendTo node (.eventRsp txn 0x10) s ∧ t.evs = s.evs) ∧
  (∀ s node op h v txn, confidential s = true → sessionNode s node = false →
    exec (.eventReq node op h v txn) s = .next (sendTo node (.eventRsp txn 0x13) s)) ∧
  (∀ s qp sub d st, Running s qp sub 0x45 d → st = 0x00 ∨ st = 0x10 ∨ st = 0x13 → Runs (.eventRsp qp sub st) s fun t =>
    resultOf t qp sub = some (resOf st) ∧ ∀ r ∈ t.cmd.remotes, ¬(r.qp = qp ∧ r.sub = sub)) ∧
  (∀ s qp sub d, Running s qp sub 0x45 d → Runs (.eventRemoteTimeout qp sub) s fun t =>
    resultOf t qp sub = some (resOf 0x22) ∧ ∀ r ∈ t.cmd.remotes, ¬(r.qp = qp ∧ r.sub = sub)) ∧
  (∀ s qp sub d e, Started s qp sub 0x1D d → needOwnEv s d 24 = none → tget s.evs (ev d) = some e → Quiet s →
    s.tsk.gens = [] → Runs (.destroyEvent qp sub) s fun t => tget t.evs (ev d) = some { e with aborting := true } ∧
      ∀ q u w, findDesc s q u = some w → w.phase = .fetched → dWait w = mkHandle 4 (ev d) → statusOf t q u = some 0x20)

/-- R123, R124, R126, R128 to R131, R134: launches and tasks. -/
def Obligations.LaunchesAndTasks : Prop :=
  (∀ s qp sub d c g, Started s qp sub 0x38 d → byRun sub = false → descCtx s d = some c → needH s d Hk.graph 24 = none →
    dfld d 28 4 = 0 → dfld d 40 4 = 0 → tget s.tsk.graphs (hSlot (dfld d 24 4)) = some g → g.state = .loaded → g.nArgs = 0 →
    launchBytes g ≤ shareLeft s d.fn → Runs (.launchGraph qp sub) s fun t => ∃ x : Launch,
      x.id = s.tsk.nextLaunch ∧ x.ctx = c ∧ x.graph = hSlot (dfld d 24 4) ∧ x.qp = qp ∧ x.sub = sub ∧ x.tag = dTag d ∧
      x.guard = none ∧ x.toks = [] ∧ x.tasks = [] ∧ t = runDesc qp sub 0 (launchBegin x g 0 s)) ∧
  (∀ s qp sub d c g, Started s qp sub 0x38 d → byRun sub = false → descCtx s d = some c → needH s d Hk.graph 24 = none →
    dfld d 28 4 = 0 → dfld d 40 4 = 0 → tget s.tsk.graphs (hSlot (dfld d 24 4)) = some g → g.state ≠ .loaded →
    Runs (.launchGraph qp sub) s fun t => resultOf t qp sub = some (refuse 0x11 24) ∧ t.tsk = s.tsk) ∧
  (∀ s qp sub d c g, Started s qp sub 0x38 d → byRun sub = false → descCtx s d = some c → needH s d Hk.graph 24 = none →
    dfld d 28 4 = 0 → dfld d 40 4 = 0 → tget s.tsk.graphs (hSlot (dfld d 24 4)) = some g → g.state = .loaded →
    0 < g.nArgs → Runs (.launchGraph qp sub) s fun t => resultOf t qp sub = some (refuse 0x10 28) ∧ t.tsk = s.tsk) ∧
  (∀ s p f x n, s.tsk.launches = [x] → x.tasks = [(n, .overflow p f)] → Runs (.overflowMove p) s fun t =>
    t.tsk.launches = [{ x with tasks := [(n, .ready p f)] }] ∧ Only (partMask [.tsk]) s t) ∧
  (∀ s p, 65536 ≤ readyCount s p → exec (.overflowMove p) s = .next s) ∧
  (∀ s p, candFirst s p = none → exec (.taskPlace p) s = .next s) ∧
  (∀ s p c k core x g r, candFirst s p = some c → c.core = some (k, core) → findLaunch s c.launch = some x →
    launchGraph s x = some g → taskRec s x c.task = some r → k = .mover ∨ k = .matrix → Runs (.taskPlace p) s fun t =>
      (∃ y, findLaunch t c.launch = some y ∧ taskState y c.task = .running k core ∧
        ∀ n, n ≠ c.task → taskState y n = taskState x n) ∧
      (k = .matrix → (engAt s core).run = none → (engAt t core).run = some (matTaskNew c.launch c.task)) ∧
      (k = .matrix → (engAt s core).run.isSome → (engAt t core).staged = some (matTaskNew c.launch c.task))) ∧
  (∀ s p c k core, candFirst s p = some c → c.core = some (k, core) → Runs (.taskPlace p) s fun t =>
    t = placeTask c.launch c.task k core
      (modTsk (fun u => { u with wrr := tput u.wrr p (wrrNext s (tgetD u.wrr p (0, 0)) c.fn) }) s)) ∧
  (∀ s p c, candFirst s p = some c → c.core = none → Runs (.taskPlace p) s fun t =>
    t = failTask c.launch c.task false
      (modTsk (fun u => { u with wrr := tput u.wrr p (wrrNext s (tgetD u.wrr p (0, 0)) c.fn) }) s)) ∧
  (∀ s l n k core x g r, findLaunch s l = some x → taskState x n = .running k core → launchGraph s x = some g →
    taskRec s x n = some r → k ≠ .matrix →
    (k ≠ .mover → exec (.taskEnd l n .poison) s = .next (failTask l n true s)) ∧
    (k ≠ .mover → exec (.taskEnd l n .fault) s = .next (execFault l n s)) ∧
    (k = .mover → r.ins = [] → r.outs = [] → ∀ o, exec (.taskEnd l n (.ended o)) s = .next (taskEnds l n o s)) ∧
    (k = .service → ∀ o, exec (.taskEnd l n (.ended o)) s =
      .next (taskStops l n o .service core (svcClean core (keyIn (outRanges x g r)) s)))) ∧
  (∀ s l n core x g r, findLaunch s l = some x → taskState x n = .exiting .mover core → launchGraph s x = some g →
    taskRec s x n = some r → r.outs = [] → Runs (.exitActionComplete l n) s fun t =>
      findLaunch t l = some { x with tasks := tput x.tasks n .ended, nOk := x.nOk + 1 }) ∧
  (∀ s l n x g r core, findLaunch s l = some x → taskState x n = .exiting .service core → launchGraph s x = some g →
    taskRec s x n = some r → ∃ u, exec (.exitActionComplete l n) s = .next (settle (dataWork x g r false) u) ∧
      findLaunch u l = (findLaunch (exitOn .service core r (outRanges x g r) s) l).map fun y =>
        { y with tasks := tput y.tasks n .ended, nOk := y.nOk + 1 }) ∧
  (∀ s l x g d, findLaunch s l = some x → launchGraph s x = some g → launchOver s x g = true → byRun x.sub = false →
    findDesc s x.qp x.sub = some d → dEnded d = false → Runs (.launchComplete l) s fun t =>
      resultOf t x.qp x.sub = some (launchResult x) ∧ findLaunch t l = none) ∧
  (∀ s l x g, findLaunch s l = some x → launchGraph s x = some g → launchOver s x g = false →
    exec (.launchComplete l) s = .next s)

/-- R135, R136, R138 to R140, R142: provisional generations. -/
def Obligations.ProvisionalGenerations : Prop :=
  (∀ s n g, findGen s n = some g → g.state = .open → genFirst s g = true → genOutcome s g = some true →
    Runs (.generationResolvable n) s fun t =>
      findGen t n = some { g with state := .committing } ∧ Only (partMask [.tsk]) s t ∧ t.tsk.launches = s.tsk.launches) ∧
  (∀ s n g, findGen s n = some g → g.state = .open → genFirst s g = true → genOutcome s g = some false →
    exec (.generationResolvable n) s = .next (discardGens g.ctx g.id s)) ∧
  (∀ s n g, findGen s n = some g → g.state ≠ .open ∨ genFirst s g = false ∨ genOutcome s g = none →
    exec (.generationResolvable n) s = .next s) ∧
  (∀ s g, g.conflict = true → genOutcome s g = some false) ∧
  (∀ s g x e, g.conflict = false → findLaunch s g.launch = some x → launchStopped x = false → tget s.evs g.guard = some e →
    e.aborting = false → e.signalled = true → e.error = false → (∀ st ∈ provTasks s g, st = .ended) →
    genOutcome s g = some (bitOf e.payload 0)) ∧
  (∀ s n g, findGen s n = some g → g.state = .committing → Runs (.commitPoint n) s fun t =>
    findGen t n = some { g with state := .resolved, versions := [], bytes := [] } ∧
    (∀ k, k ∉ tkeys g.bytes → cellGet t.mem k = cellGet s.mem k) ∧
    (memoryWf s → ∀ k b, g.bytes = [(k, b)] → cellGet t.mem k = b) ∧
    ∀ x, findLaunch s g.launch = some x → findLaunch t g.launch = some { x with committed := true }) ∧
  (∀ s n g, findGen s n = some g → g.state ≠ .committing → exec (.commitPoint n) s = .next s) ∧
  (∀ s n g, findGen s n = some g → g.state = .resolved → Runs (.versionSpaceReturn n) s fun t =>
    findGen t n = none ∧ (∀ m, m ≠ n → findGen t m = findGen s m) ∧ Only (partMask [.tsk]) s t) ∧
  (∀ s n, Runs (.oldGranuleFree n) s fun t => Only (partMask [.tsk]) s t ∧
    ∀ o, o ∈ t.tsk.olds ↔ o ∈ s.tsk.olds ∧ (o.gen = n → ∃ a ∈ o.readers, readerLives s a = true)) ∧
  (∀ s qp sub d, Started s qp sub 0x50 d → needH s d Hk.graph 24 = none → s.tsk.launches = [] →
    Runs (.launchCancel qp sub) s fun t => resultOf t qp sub = some (resOf 0) ∧ t.tsk = s.tsk) ∧
  (∀ s qp sub d x, Started s qp sub 0x50 d → needH s d Hk.graph 24 = none → s.tsk.launches = [x] → s.tsk.gens = [] →
    x.cancelled = true → Runs (.launchCancel qp sub) s fun t => resultOf t qp sub = some (resOf 0) ∧ t.tsk = s.tsk) ∧
  (∀ s qp sub d x g, Started s qp sub 0x50 d → needH s d Hk.graph 24 = none → s.tsk.launches = [x] → s.tsk.gens = [] →
    x.graph = hSlot (dfld d 24 4) → some x.ctx = descCtx s d → x.cancelled = false → launchGraph s x = some g →
    g.tasks = [] → Runs (.launchCancel qp sub) s fun t =>
      findLaunch t x.id = some { x with removed := true, cancelled := true } ∧
      resultOf t qp sub = some { resOf 0 with aux := 1 }) ∧
  (∀ s qp sub d c, Started s qp sub 0x51 d → descCtx s d = some c → Runs (.provDiscard qp sub) s fun t =>
    t = endDesc qp sub { resOf 0 with aux := (outstanding s c).length } (discardGens c 0 s)) ∧
  (∀ s qp sub d c, Started s qp sub 0x51 d → descCtx s d = some c → outstanding s c = [] →
    Runs (.provDiscard qp sub) s fun t => resultOf t qp sub = some (resOf 0) ∧ t.tsk = s.tsk) ∧
  (∀ s qp sub d c, Started s qp sub 0x52 d → descCtx s d = some c → Runs (.provQuery qp sub) s fun t =>
    resultOf t qp sub = some { resOf 0 with
      aux := (outstanding s c).length
      value := ((s.tsk.gens.filter fun g => g.ctx = c).map Generation.space).sum
      flags := if waitsOnGuard s c then 1 else 0 } ∧ t.tsk = s.tsk)

/-- R147, R150 to R152, R154 to R157, R164, R185: MATRIX tasks. -/
def Obligations.MatrixOperations : Prop :=
  let at_ := fun (s : State) (c : Nat) (staged : Bool) (x : Launch) (g : Graph) (r : TaskRec) (k : MatTask) =>
    matSlot s c staged = some k ∧ engUp s c = true ∧ findLaunch s k.launch = some x ∧ launchGraph s x = some g ∧
    taskRec s x k.task = some r
  (∀ s c staged x g r k o, at_ s c staged x g r k → k.atEnd = false → opComputed (engAt s c).mask k = true →
    matRec g r k.pc = some o → o.op ≠ 0x0F → recordOk s x r.imm o = true → o.waitDrain = false ∨ k.drains = [] →
    Runs (.matrixOpStart c staged) s fun t => matSlot t c staged = some (startOp (engAt s c).mask o k) ∧
      Only (partMask [.mxe]) s t) ∧
  (∀ s c staged x g r k o, at_ s c staged x g r k → k.atEnd = false → opComputed (engAt s c).mask k = true →
    matRec g r k.pc = some o → o.op ≠ 0x0F → recordOk s x r.imm o = true → o.waitDrain = true → k.drains ≠ [] →
    exec (.matrixOpStart c staged) s = .next s) ∧
  (∀ s c staged x g r k o, at_ s c staged x g r k → k.atEnd = false → opComputed (engAt s c).mask k = true →
    matRec g r k.pc = some o → o.op = 0x0F → Runs (.matrixOpStart c staged) s fun t =>
      matSlot t c staged = some { k with atEnd := true, op := none, pc := k.pc + 1, subs := [] }) ∧
  (∀ s c staged x g r k o, at_ s c staged x g r k → k.atEnd = false → opComputed (engAt s c).mask k = true →
    matRec g r k.pc = some o → o.op ≠ 0x0F → recordOk s x r.imm o = false →
    exec (.matrixOpStart c staged) s = .next (execFault k.launch k.task s)) ∧
  (∀ s x imm o, o.m = 0 ∨ o.n = 0 ∨ o.k = 0 ∨ o.batch = 0 ∨ pairLegal o.fmtA o.fmtB = false → recordOk s x imm o = false) ∧
  (∀ s c staged i cy k x imm o a b, subRun s c staged i = some (k, x, imm, o, a, b) → engUp s c = true → b.loaded < o.k →
    b.chunks.length < 2 → (staged = true → b.chunks = []) → readsPoisoned s (nextChunk s x imm o a b).reads = false →
    Runs (.chunkLoadComplete c staged i cy) s fun t => ∃ u v, matSlot t c staged = some u ∧ tget u.subs i = some v ∧
      ∃ w, v.run = some w ∧ w.chunks.length = b.chunks.length + 1 ∧
        w.loaded = (nextChunk s x imm o a b).k0 + (nextChunk s x imm o a b).nk ∧
        (engAt t c).stall = ((engAt s c).stall + cy.stall) % 2 ^ 64 ∧ t.mem = s.mem) ∧
  (∀ s c staged i cy k x imm o a b, subRun s c staged i = some (k, x, imm, o, a, b) →
    o.k ≤ b.loaded ∨ readsPoisoned s (nextChunk s x imm o a b).reads = true →
    exec (.chunkLoadComplete c staged i cy) s = .next s) ∧
  (∀ s c staged i k x imm o a b, subRun s c staged i = some (k, x, imm, o, a, b) → engUp s c = true →
    readsPoisoned s (nextChunk s x imm o a b).reads = true →
    exec (.matrixPoisonedLoad c staged i) s = .next (failTask k.launch k.task true s)) ∧
  (∀ s c i cy k x imm o a b, subRun s c false i = some (k, x, imm, o, a, b) → mayIssue s c = true → o.k ≤ b.loaded →
    bankHeld k o i b = false → Runs (.blockBankComplete c i cy) s fun t => ∃ u, matSlot t c false = some u ∧
      u.drains = k.drains ++ [{ sub := i, block := (computeAll o b.chunks.length b 0).1, op := o, idx := k.pc - 1 }] ∧
      (engAt t c).validWf = ((engAt s c).validWf + cy.valid) % 2 ^ 64 ∧ t.mem = s.mem) ∧
  (∀ s c i cy k x imm o a b, subRun s c false i = some (k, x, imm, o, a, b) → b.loaded < o.k →
    exec (.blockBankComplete c i cy) s = .next s) ∧
  (∀ s c cy x g r k d rest, at_ s c false x g r k → k.drains = d :: rest → s.mod.failStopped = false → s.tsk.gens = [] →
    (drainWrites s x k.task r.imm d).1 = [] → Runs (.bankFree c cy) s fun t => ∃ u, matSlot t c false = some u ∧
      u.drains = rest ∧ u.flags = flagsOr k.flags (drainWrites s x k.task r.imm d).2 ∧ t.mem = s.mem) ∧
  (∀ s c cy x g r k d rest, at_ s c false x g r k → k.drains = d :: rest → s.mod.failStopped = false →
    (drainWrites s x k.task r.imm d).1.any (fun e => writeFaults s k.launch k.task e.1 e.2.1 e.2.2.length) = true →
    exec (.bankFree c cy) s = .next (execFault k.launch k.task s)) ∧
  (∀ s c cy x g r k d rest, at_ s c false x g r k → k.drains = d :: rest → s.mod.failStopped = false →
    (drainWrites s x k.task r.imm d).1.any (fun e => writeFaults s k.launch k.task e.1 e.2.1 e.2.2.length) = false →
    (drainWrites s x k.task r.imm d).1.any (fun e => lostIn s e.1 e.2.1 e.2.2.length) = false →
    Runs (.bankFree c cy) s fun t => ∀ j,
      (∀ e ∈ (drainWrites s x k.task r.imm d).1, j < memKey e.1 e.2.1 ∨ memKey e.1 e.2.1 + e.2.2.length ≤ j) →
      cellGet t.mem j = cellGet s.mem j) ∧
  (∀ s c overrun k, matSlot s c false = some k → engUp s c = true → k.atEnd = true → k.drains = [] →
    exec (.matrixTaskEnd c overrun) s = .next (taskEnds k.launch k.task overrun s)) ∧
  (∀ s c overrun k, matSlot s c false = some k → k.atEnd = false ∨ k.drains ≠ [] →
    exec (.matrixTaskEnd c overrun) s = .next s) ∧
  (∀ s c, c < 64 → cluOut s c = false → exec (.matrixUncorrectableError c) s =
    .next (unitFault c 0x03 false 0 (modEng c (fun e => { e with uncorrected := satAdd 255 e.uncorrected 1 }) s))) ∧
  (∀ s c, c < 64 → cluOut s c = false → Runs (.correctedError (.matrix c)) s fun t =>
    engAt t c = { engAt s c with corrected := satAdd 65535 (engAt s c).corrected 1 } ∧ Only (partMask [.mxe]) s t) ∧
  (∀ s c, c < 64 → cluOut s c = false → Runs (.correctedError (.vector c)) s fun t =>
    vcluAt t c = { vcluAt s c with corrected := satAdd 65535 (vcluAt s c).corrected 1 } ∧ Only (partMask [.vcu]) s t) ∧
  (∀ s c, c < 64 → cluOut s c = false → Runs (.correctedError (.store c)) s fun t =>
    (cluAt t c).corrected = satAdd 65535 (cluAt s c).corrected 1 ∧ Only (partMask [.hbm]) s t)

/-- R161, R168 to R171, R175: the gap and ramp states of an engine. -/
def Obligations.GapsAndRamps : Prop :=
  (∀ s c, engUp s c = true → unitsHeld s = false → (engAt s c).phase = .run → wavefrontReady (engAt s c) = false →
    Runs (.gapBegin c) s fun t => engAt t c = { engAt s c with phase := .gap } ∧ Only (partMask [.mxe]) s t) ∧
  (∀ s c n, wavefrontReady (engAt s c) = true →
    exec (.gapBegin c) s = .next s ∧ exec (.gapWindowExpire c n) s = .next s) ∧
  (∀ s c n, engUp s c = true → unitsHeld s = false → (engAt s c).phase = .gap → wavefrontReady (engAt s c) = false →
    Runs (.gapWindowExpire c n) s fun t =>
      engAt t c = { engAt s c with want := some false, dummyWf := ((engAt s c).dummyWf + n) % 2 ^ 64 } ∧
      Only (partMask [.mxe]) s t) ∧
  (∀ s p c, p < 4 → unitsHeld s = false → 16 * p ≤ c → c < 16 * p + 16 → engUp s c = true → (engAt s c).want = some true →
    16 ≤ s.mxe.rampStarts → Runs (.rampWindowGrant p) s fun t =>
      engAt t c = { engAt s c with phase := .rampUp, want := none } ∧ Only (partMask [.mxe]) s t) ∧
  (∀ s p c, p < 4 → unitsHeld s = false → 1 ≤ s.mxe.rampStarts → 16 * p ≤ c → c < 16 * p + 16 → engUp s c = true →
    (engAt s c).want = some false → (∀ i, 16 * p ≤ i → i < c → (engAt s i).want = none) →
    Runs (.rampWindowGrant p) s fun t => engAt t c = { engAt s c with phase := .rampDown, want := none }) ∧
  (∀ s p, p < 4 → Runs (.rampWindowGrant p) s fun t => ∀ c, c / 16 ≠ p → engAt t c = engAt s c) ∧
  (∀ s p, p < 4 → s.mxe.rampStarts = 0 → exec (.rampWindowGrant p) s = .next s) ∧
  (∀ s p c n, unitsHeld s = true → exec (.rampWindowGrant p) s = .next s ∧ exec (.gapBegin c) s = .next s ∧
    exec (.gapWindowExpire c n) s = .next s) ∧
  (∀ s c, engUp s c = true → (engAt s c).phase = .rampUp → Runs (.rampUpComplete c) s fun t =>
    engAt t c = { engAt s c with phase := .run, groups := 0xFF, dummyWf := ((engAt s c).dummyWf + 64) % 2 ^ 64 } ∧
    ∀ k, k ≠ c → engAt t k = engAt s k) ∧
  (∀ s c, engUp s c = true → (engAt s c).phase = .rampDown → (engAt s c).want = none → Runs (.rampDownComplete c) s fun t =>
    engAt t c = { engAt s c with phase := .idle, groups := 0, dummyWf := ((engAt s c).dummyWf + 56) % 2 ^ 64 } ∧
    ∀ k, k ≠ c → engAt t k = engAt s k) ∧
  (∀ s c, (engAt s c).phase ≠ .rampUp → exec (.rampUpComplete c) s = .next s) ∧
  (∀ s c, (engAt s c).phase ≠ .rampDown ∨ (engAt s c).want ≠ none → exec (.rampDownComplete c) s = .next s)

/-- R202 to R205, R207 to R209: scalar and vector instructions. A result the manual leaves open is a free value. -/
def Obligations.VectorInstructions : Prop :=
  let ready := fun (s : State) (k th : Nat) (vs xs : List Nat) (t : Thread) (x : Launch) =>
    tget (vcoreAt s k).threads th = some t ∧ findLaunch s t.launch = some x ∧ vcoreUp s k = true ∧ unitsHeld s = false ∧
    t.fence = false ∧ waitsFor t vs xs = false ∧ ∃ g, launchGraph s x = some g ∧ fetchOk g t = true
  let now_ := fun (s : State) (k th : Nat) => tget (vcoreAt s k).threads th
  (∀ s k th op rd ra rb t x v, ready s k th [] [rd, ra, rb] t x → rd < 32 → ra < 32 → rb < 32 →
    intOp 64 op (xReg t ra) (xReg t rb) = some v →
    Runs (.scalarInstruction k th (.int op rd ra (.reg rb))) s fun u =>
      now_ u k th = some { setX rd v t with pc := t.pc + 8 } ∧ Only (partMask [.vcu]) s u) ∧
  (∀ s k th op rd ra rb t x, ready s k th [] [rd, ra, rb] t x → rd < 32 → ra < 32 → rb < 32 →
    intOp 64 op (xReg t ra) (xReg t rb) = none →
    Runs (.scalarInstruction k th (.int op rd ra (.reg rb))) s fun u =>
      now_ u k th = some { setX rd (Config.freeValue s.draws % 2 ^ 64) t with pc := t.pc + 8 } ∧ u.draws = s.draws + 1) ∧
  (∀ (t : Thread) r v, r ≠ 0 → v % 2 ^ 64 ≠ 0 → xReg (setX r v t) r = v % 2 ^ 64) ∧
  (∀ (t : Thread) v, setX 0 v t = t ∧ xReg t 0 = 0) ∧
  (∀ s k th c ra rb target t x, ready s k th [] [ra, rb] t x → ra < 32 → rb < 32 →
    Runs (.scalarInstruction k th (.branch c ra rb target)) s fun u => now_ u k th =
      some { t with pc := if condHolds 64 c (xReg t ra) (xReg t rb) then target else t.pc + 8 }) ∧
  (∀ s k th t x, ready s k th [] [] t x →
    exec (.scalarInstruction k th .illegal) s = .next (execFault t.launch t.task s)) ∧
  (∀ s k th m op vd va vb t x l v, ready s k th [vd, va, vb] [] t x → vd < 64 → va < 64 → vb < 64 → m < 8 → l < 32 →
    intOp 32 op (vReg t va l) (vReg t vb l) = some v → v % 2 ^ 32 ≠ 0 →
    Runs (.vectorArithmetic k th m (.int op vd va vb)) s fun u => ∃ w, now_ u k th = some w ∧ w.pc = t.pc + 8 ∧
      vReg w vd l = (if bitOf (mReg t m) l then v % 2 ^ 32 else vReg t vd l) ∧
      (vcluAt u (k / 160)).alu = ((vcluAt s (k / 160)).alu + 1) % 2 ^ 64 ∧
      (∀ r j, r ≠ vd → j < 32 → vReg w r j = vReg t r j) ∧ w.x = t.x ∧ w.m = t.m) ∧
  (∀ s k th m c md va vb t x, ready s k th [va, vb] [] t x → va < 64 → vb < 64 → m < 8 → md < 8 → 0 < md →
    Runs (.vectorArithmetic k th m (.icmp c md va vb)) s fun u => ∃ w, now_ u k th = some w ∧ w.v = t.v ∧ w.x = t.x ∧
      w.pc = t.pc + 8 ∧ w.flags = t.flags) ∧
  (∀ s k th m f vd va t x l, ready s k th [vd, va] [] t x → vd < 64 → va < 64 → m < 8 → bitOf (mReg t m) l = false → l < 32 →
    Runs (.specialFunction k th m f vd va) s fun u => ∃ w, now_ u k th = some w ∧ w.pc = t.pc + 8 ∧
      vReg w vd l = vReg t vd l) ∧
  (∀ s k th m f vd va t x l, ready s k th [vd, va] [] t x → vd < 64 → va < 64 → m < 8 → bitOf (mReg t m) l = true → l < 32 →
    (specFn f (vReg t va l)).1 % 2 ^ 32 ≠ 0 → Runs (.specialFunction k th m f vd va) s fun u => ∃ w, now_ u k th = some w ∧
      vReg w vd l = (specFn f (vReg t va l)).1 % 2 ^ 32) ∧
  (∀ s k th m op vd va t x, ready s k th [vd, va] [] t x → vd < 64 → va < 64 → m < 8 →
    Runs (.crossLaneReduction k th m op vd va) s fun u => ∃ w, now_ u k th = some w ∧ w.pc = t.pc + 8 ∧
      ∀ l, 0 < l → l < 32 → vReg w vd l = vReg t vd l) ∧
  (∀ s k th m vd t x l, ready s k th [vd] [] t x → vd < 64 → m < 8 → bitOf (mReg t m) l = true → l < 32 →
    laneDrawOf s x t l % 2 ^ 32 ≠ 0 → Runs (.vrand k th m vd) s fun u => ∃ w, now_ u k th = some w ∧
      vReg w vd l = laneDrawOf s x t l % 2 ^ 32 ∧ tgetD w.draws l 0 = (tgetD t.draws l 0 + 1) % 2 ^ 39) ∧
  (∀ s k th m op vd va sc t x l, ready s k th [vd, va] [sc] t x → castLegal op = true → castMx op = false → vd < 64 →
    va < 64 → m < 8 → sc < 32 → l < 32 → bitOf (mReg t m) l = false →
    Runs (.cast k th m op vd va sc) s fun u => ∃ w, now_ u k th = some w ∧ w.pc = t.pc + 8 ∧
      vReg w vd l = vReg t vd l ∧ w.x = t.x) ∧
  (∀ s k th m op vd va sc t x, ready s k th [vd, va] [sc] t x → castLegal op = false →
    exec (.cast k th m op vd va sc) s = .next (execFault t.launch t.task s)) ∧
  (∀ s k th rd t x c, ready s k th [] [rd] t x → rd < 32 → tget s.ctxs x.ctx = some c →
    Runs (.flagsRd k th rd) s fun u => now_ u k th = some { setX rd (flagsOr c.aflags t.flags) t with pc := t.pc + 8 }) ∧
  (∀ s k th bits t x c, ready s k th [] [] t x → tget s.ctxs x.ctx = some c → Runs (.flagsClr k th bits) s fun u =>
    now_ u k th = some { t with flags := flagsClr t.flags bits, pc := t.pc + 8 } ∧
    tget u.ctxs x.ctx = some { c with aflags := flagsClr c.aflags bits }) ∧
  (∀ s k th rd n t x v, ready s k th [] [rd] t x → rd < 32 → argBase s x n = some v → Runs (.argbase k th rd n) s fun u =>
    now_ u k th = some { setX rd v t with pc := t.pc + 8 }) ∧
  (∀ s k th rd n t x, ready s k th [] [rd] t x → rd < 32 → x.args.length ≤ n →
    exec (.argbase k th rd n) s = .next (execFault t.launch t.task s)) ∧
  (∀ s k th i, unitsHeld s = true → exec (.scalarInstruction k th i) s = .next s)

/-- R203, R209 to R216: the memory pipe. -/
def Obligations.VectorMemoryPipe : Prop :=
  let ready := fun (s : State) (k th : Nat) (vs xs : List Nat) (t : Thread) (x : Launch) =>
    tget (vcoreAt s k).threads th = some t ∧ findLaunch s t.launch = some x ∧ vcoreUp s k = true ∧ unitsHeld s = false ∧
    t.fence = false ∧ waitsFor t vs xs = false ∧ ∃ g, launchGraph s x = some g ∧ fetchOk g t = true
  let now_ := fun (s : State) (k th : Nat) => tget (vcoreAt s k).threads th
  (∀ s k th m rd ra off n sg t x slot o, ready s k th [] [rd, ra] t x → rd < 32 → ra < 32 → m < 8 →
    n = 1 ∨ n = 2 ∨ n = 4 ∨ n = 8 → elemsAt s x.ctx n [(0, effAddr t ra off)] = some [(0, slot, o)] →
    lineHits (vcoreAt s k) slot o n (instOf s (ctxFn s x.ctx)) (taskView s t.launch t.task) = true →
    Runs (.vectorLoadStore k th m (.sload rd ra off n sg)) s fun u =>
      ∃ w, now_ u k th = some w ∧ w.pc = t.pc + 8 ∧ w.pend = t.pend) ∧
  (∀ s k th m rd ra off n sg t x es, ready s k th [] [rd, ra] t x → rd < 32 → ra < 32 → m < 8 →
    n = 1 ∨ n = 2 ∨ n = 4 ∨ n = 8 → elemsAt s x.ctx n [(0, effAddr t ra off)] = some es →
    es.all (fun e => lineHits (vcoreAt s k) e.2.1 e.2.2 n (instOf s (ctxFn s x.ctx)) (taskView s t.launch t.task)) = false →
    (vcoreAt s k).threads = [(th, t)] → t.pend = [] →
    Runs (.vectorLoadStore k th m (.sload rd ra off n sg)) s fun u => u.mem = s.mem ∧ now_ u k th = some { t with
      pc := t.pc + 8, pend := [{ vec := false, reg := rd, elems := es, size := n, conv := if sg then 1 else 0 }] }) ∧
  (∀ s k th m ra rs off n t x, ready s k th [] [rs, ra] t x → rs < 32 → ra < 32 → m < 8 → n = 1 ∨ n = 2 ∨ n = 4 ∨ n = 8 →
    elemsAt s x.ctx n [(0, effAddr t ra off)] = none →
    exec (.vectorLoadStore k th m (.sstore rs ra off n)) s = .next (execFault t.launch t.task s)) ∧
  (∀ s k th m rs ra off n t x slot o, ready s k th [] [rs, ra] t x → rs < 32 → ra < 32 → m < 8 →
    n = 1 ∨ n = 2 ∨ n = 4 ∨ n = 8 → elemsAt s x.ctx n [(0, effAddr t ra off)] = some [(0, slot, o)] →
    writeFaults s t.launch t.task slot o n = false → lostIn s slot o n = false →
    Runs (.vectorLoadStore k th m (.sstore rs ra off n)) s fun u =>
      ∃ w, now_ u k th = some w ∧ w.pc = t.pc + 8 ∧ w.x = t.x ∧ w.v = t.v) ∧
  (∀ s k th m vd ra vi a t x, ready s k th [vd, vi] [ra] t x → vd < 64 → vi < 64 → ra < 32 → 0 < m → m < 8 →
    loadSize a ≠ 0 → active t m = [] → Runs (.gatherScatter k th m (.gather vd ra vi a)) s fun u =>
      u.mem = s.mem ∧ now_ u k th = some { t with pc := t.pc + 8 }) ∧
  (∀ s k th m vs ra vi a t x l, ready s k th [vs, vi] [ra] t x → vs < 64 → vi < 64 → ra < 32 → m < 8 →
    storeSize a ≠ 0 → active t m = [l] → elemsAt s x.ctx (storeSize a) [(l, effAddr t ra (vReg t vi l))] = none →
    exec (.gatherScatter k th m (.scatter vs ra vi a)) s = .next (execFault t.launch t.task s)) ∧
  (∀ s k th t x p rest, now_ s k th = some t → findLaunch s t.launch = some x → t.pend = p :: rest → vcoreUp s k = true →
    loadPoisoned s p = true → exec (.lineFill k th) s = .next (failTask t.launch t.task true s)) ∧
  (∀ s k th t x p rest, now_ s k th = some t → findLaunch s t.launch = some x → t.pend = p :: rest → vcoreUp s k = true →
    loadPoisoned s p = false → Runs (.lineFill k th) s fun u => ∃ w, now_ u k th = some w ∧ w.pend = rest ∧ w.pc = t.pc) ∧
  (∀ s k th op rd ra rb n t x slot o, ready s k th [] [rd, ra, rb] t x → rd < 32 → ra < 32 → rb < 32 → n = 4 ∨ n = 8 →
    elemsAt s x.ctx n [(0, xReg t ra)] = some [(0, slot, o)] → writeFaults s t.launch t.task slot o n = false →
    poisonedIn s slot o n = false → lostIn s slot o n = false → (vcoreAt s k).lines = [] →
    Runs (.atomic k th op rd ra rb n) s fun u =>
      now_ u k th = some { setX rd (ofLe (readMem s (.task t.launch t.task) slot o n)) t with pc := t.pc + 8 } ∧
      ∀ j, j < memKey slot o ∨ memKey slot o + n ≤ j → cellGet u.mem j = cellGet s.mem j) ∧
  (∀ s k th op rd ra rb n t x, ready s k th [] [rd, ra, rb] t x → rd < 32 → ra < 32 → rb < 32 → n = 4 ∨ n = 8 →
    xReg t ra % n ≠ 0 → exec (.atomic k th op rd ra rb n) s = .next (execFault t.launch t.task s)) ∧
  (∀ (c : Nat → Nat → Nat → Nat → Instr) s k th ra rb t x, c = Instr.cflush ∨ c = Instr.cinv ∨ c = Instr.cflushinv →
    ready s k th [] [ra, rb] t x → ra < 32 → rb < 32 → (vcoreAt s k).lines = [] → Runs (c k th ra rb) s fun u =>
      now_ u k th = some { t with pc := t.pc + 8 } ∧ u.mem = s.mem) ∧
  (∀ s k th ra rb t x, ready s k th [] [ra, rb] t x → ra < 32 → rb < 32 → Runs (.cinv k th ra rb) s fun u =>
    Runs (.cflushinv k th ra rb) s fun v => u = v ∧ (now_ u k th).map Thread.pc = some (t.pc + 8) ∧
      ∀ d ∈ (vcoreAt u k).lines, lineInVa s (instOf s (ctxFn s x.ctx)) (xReg t ra) (xReg t rb) d = false) ∧
  (∀ s k th t x, ready s k th [] [] t x → Runs (.mfence k th) s fun u =>
    now_ u k th = some { t with fence := true, pc := t.pc + 8 } ∧ Only (partMask [.vcu]) s u) ∧
  (∀ s k th t, now_ s k th = some t → Runs (.mfenceComplete k th) s fun u =>
    now_ u k th = some { t with fence := false } ∧ Only (partMask [.vcu]) s u) ∧
  (∀ s k, k < 10240 → cluOut s (k / 160) = false → Runs (.vectorUncorrectableError k .code) s fun u =>
    vcluAt u (k / 160) = { vcluAt s (k / 160) with corrected := satAdd 65535 (vcluAt s (k / 160)).corrected 1 } ∧
    u.flt = s.flt) ∧
  (∀ s k, k < 10240 → cluOut s (k / 160) = false → exec (.vectorUncorrectableError k .other) s =
    .next (unitFault (unitOf 1 k) 0x03 false 0
      (modVclu (k / 160) (fun c => { c with uncorrected := satAdd 255 c.uncorrected 1 }) s)))

/-- R213, R217 to R219, R221, R223, R225: the service cores. -/
def Obligations.ServiceCores : Prop :=
  (∀ s k rd a n, svcUp s k = true → svcPlace s k a n = .phys a → (svcAt s k).dirty = [] → n = 4 ∨ n = 8 →
    Runs (.lrSc k (.lr rd a n)) s fun t => (svcAt t k).resv = some (false, a / 64) ∧
      (rd ≠ 0 → svcExt n (ofLe (physRead s a n)) % 2 ^ 64 ≠ 0 →
        tgetD (svcAt t k).x rd 0 = svcExt n (ofLe (physRead s a n)) % 2 ^ 64) ∧ t.svc.phys = s.svc.phys) ∧
  (∀ s k rd a n v, svcUp s k = true → svcPlace s k a n = .phys a → (svcAt s k).resv ≠ some (false, a / 64) →
    (svcAt s k).dirty = [] → Runs (.lrSc k (.sc rd a n v)) s fun t =>
      (svcAt t k).resv = none ∧ (rd ≠ 0 → tgetD (svcAt t k).x rd 0 = 1) ∧ t.svc.phys = s.svc.phys) ∧
  (∀ s k rd a n v, svcUp s k = true → svcPlace s k a n = .phys a → (svcAt s k).resv = some (false, a / 64) →
    (svcAt s k).dirty = [] → Runs (.lrSc k (.sc rd a n v)) s fun t => (svcAt t k).resv = none ∧
      t.svc.phys = (physWrite a (leBytes n (v % 2 ^ (8 * n))) s).svc.phys) ∧
  (∀ s k rd a n, svcUp s k = true → svcPlace s k a n = .trap → Runs (.lrSc k (.lr rd a n)) s fun t =>
    svcAt t k = { svcAt s k with trap := some 5 } ∧ Only (partMask [.svc]) s t) ∧
  (∀ s k op rd a v n, svcUp s k = true → (∀ c, op ≠ .cas c) → svcPlace s k a n = .phys a → (svcAt s k).dirty = [] →
    n = 4 ∨ n = 8 → Runs (.amo k op rd a v n) s fun t =>
      t.svc.phys = (physWrite a (leBytes n (atomNew (8 * n) op (ofLe (physRead s a n)) (v % 2 ^ (8 * n)))) s).svc.phys ∧
      (rd ≠ 0 → svcExt n (ofLe (physRead s a n)) % 2 ^ 64 ≠ 0 →
        tgetD (svcAt t k).x rd 0 = svcExt n (ofLe (physRead s a n)) % 2 ^ 64)) ∧
  (∀ s k op rd a v n l u slot o, svcUp s k = true → (∀ c, op ≠ .cas c) → n = 4 ∨ n = 8 → (svcAt s k).task = some (l, u) →
    svcPlace s k a n = .obj slot o → (svcAt s k).dirty = [] → poisonedIn s slot o n = false → lostIn s slot o n = false →
    writeFaults s l u slot o n = false → Runs (.amo k op rd a v n) s fun t =>
      ∀ j, j < memKey slot o ∨ memKey slot o + n ≤ j → cellGet t.mem j = cellGet s.mem j) ∧
  (∀ s k c rd a v n, svcUp s k = true → (svcAt s k).task = none → Runs (.amo k (.cas c) rd a v n) s fun t =>
    svcAt t k = { svcAt s k with trap := some 2 } ∧ t.svc.phys = s.svc.phys) ∧
  (∀ s k c rd a v n l u, svcUp s k = true → (svcAt s k).task = some (l, u) →
    exec (.amo k (.cas c) rd a v n) s = .next (execFault l u s)) ∧
  (∀ (c : Nat → Nat → List (Nat × List Byte) → Instr) s k a, c = Instr.cboClean ∨ c = Instr.cboFlush ∨ c = Instr.cboInval →
    svcUp s k = true → svcPlace s k a 1 = .phys a → Runs (c k a []) s fun t =>
      ∀ e ∈ (svcAt t k).dirty, e ∈ (svcAt s k).dirty ∧ e.1 / 64 ≠ (2 ^ 64 + a) / 64) ∧
  (∀ s k, exec (.fence k) s = .next s ∧ exec (.fenceI k) s = .next s) ∧
  (∀ s k l u a0 o, svcUp s k = true → (svcAt s k).task = some (l, u) → a0 ≠ 0 → Runs (.exit k a0 o []) s fun t =>
    ∃ z, t = execFault l u z ∧ z.tsk = s.tsk ∧ z.ctxs = s.ctxs ∧ z.mem = s.mem) ∧
  (∀ s k l u x g r, svcUp s k = true → (svcAt s k).task = some (l, u) → findLaunch s l = some x → launchGraph s x = some g →
    taskRec s x u = some r → r.outs = [] → Runs (.exit k 0 false []) s fun t =>
      ∃ y, findLaunch t l = some y ∧ taskState y u = .exiting .service k) ∧
  (∀ s k n l u x v, svcUp s k = true → (svcAt s k).task = some (l, u) → findLaunch s l = some x → argBase s x n = some v →
    v % 2 ^ 64 ≠ 0 → Runs (.envCallArgbase k n) s fun t => tgetD (svcAt t k).x 10 0 = v % 2 ^ 64 ∧ Only (partMask [.svc]) s t) ∧
  (∀ s k n l u x, svcUp s k = true → (svcAt s k).task = some (l, u) → findLaunch s l = some x → argBase s x n = none →
    exec (.envCallArgbase k n) s = .next (execFault l u s)) ∧
  (∀ s k, svcUp s k = true → (svcAt s k).task.isSome = true → timeBase s % 2 ^ 64 ≠ 0 → Runs (.time k) s fun t =>
    tgetD (svcAt t k).x 10 0 = timeBase s % 2 ^ 64 ∧ Only (partMask [.svc]) s t) ∧
  (∀ s k, svcLives s k = true → 4 ≤ k % 8 → confidential s = false →
    exec (.serviceCoreError k) s = .next (unitFault (unitOf 2 k) 0x03 false 0 s)) ∧
  (∀ s k, svcLives s k = true → k % 8 = 0 →
    exec (.serviceCoreError k) s = .next (partitionFault (k / 8) 0x03 true (unitOf 2 k) 0 s)) ∧
  (∀ s k, svcLives s k = true → (svcAt s k).task = none → k % 8 = 1 → (svcAt s k).times = [] →
    exec (.firmwareStall k) s = .next (unitFault (unitOf 2 k) 0x04 false 0 s)) ∧
  (∀ s k, (svcAt s k).task.isSome = true → exec (.firmwareStall k) s = .next s)

/-- R231, R237, R239 to R242, R253, R255, R279: memory opcodes. -/
def Obligations.MemoryOpcodes : Prop :=
  (∀ s qp sub d m, Started s qp sub 0xB0 d → needH s d Hk.mem 24 = none → tget s.mems (hSlot (dfld d 24 4)) = some m →
    dfld d 32 8 % pageBytes m.page = 0 → dfld d 40 8 % pageBytes m.page = 0 → 0 < dfld d 40 8 →
    dfld d 32 8 + dfld d 40 8 ≤ m.size → Runs (.memProtect qp sub) s fun t =>
      t.hbm.rules = s.hbm.rules.filter (fun r => !ruleOf qp sub r) ++ [.protect qp sub (hSlot (dfld d 24 4))
        (dfld d 32 8 / pageBytes m.page) (dfld d 40 8 / pageBytes m.page) (decide (1 ≤ dfld d 48 1))] ∧
      (findDesc t qp sub).map Desc.phase = some .running ∧ t.mems = s.mems) ∧
  (∀ s qp sub d m, Started s qp sub 0xB0 d → needH s d Hk.mem 24 = none → tget s.mems (hSlot (dfld d 24 4)) = some m →
    dfld d 32 8 % pageBytes m.page ≠ 0 → Runs (.memProtect qp sub) s fun t =>
      resultOf t qp sub = some (refuse 0x10 32) ∧ t.hbm = s.hbm) ∧
  (∀ s qp sub d slot first n ro m, Running s qp sub 0xB0 d → s.hbm.rules = [.protect qp sub slot first n ro] →
    tget s.mems slot = some m → Runs (.rulesChangePoint qp sub) s fun t =>
      tget t.mems slot = some { m with readOnly := setRights first n ro m.readOnly } ∧ t.hbm.rules = [] ∧
      resultOf t qp sub = some (resOf 0) ∧ ∀ k, k ≠ slot → tget t.mems k = tget s.mems k) ∧
  (∀ (m : MemObj) first n, 0 < n → writableRange { m with readOnly := setRights first n true m.readOnly } (first * pageBytes m.page) 1
    = false) ∧
  (∀ s qp sub d, Started s qp sub 0xB1 d → Runs (.rulesFence qp sub) s fun t =>
    (qp, sub, instOf s d.fn, s.hbm.nextReq) ∈ t.hbm.fences ∧ (findDesc t qp sub).map Desc.phase = some .running) ∧
  (∀ s qp sub d, Running s qp sub 0xB1 d → (∀ e ∈ s.hbm.fences, fenceOf qp sub e = true → fenceHeld s e = false) →
    Runs (.rulesFenceComplete qp sub) s fun t => resultOf t qp sub = some (resOf 0) ∧
      ∀ e ∈ t.hbm.fences, fenceOf qp sub e = false) ∧
  (∀ s qp sub e, e ∈ s.hbm.fences → fenceOf qp sub e = true → fenceHeld s e = true →
    exec (.rulesFenceComplete qp sub) s = .next s) ∧
  (∀ s qp sub d m, Started s qp sub 0xB2 d → needH s d Hk.mem 24 = none → tget s.mems (hSlot (dfld d 24 4)) = some m →
    m.cluster = none → Runs (.cstReside qp sub) s fun t => resultOf t qp sub = some (refuse 0x11 24) ∧ t.mems = s.mems) ∧
  (∀ s qp sub d m, Started s qp sub 0xB2 d → needH s d Hk.mem 24 = none → tget s.mems (hSlot (dfld d 24 4)) = some m →
    m.cluster.isSome = true → dfld d 32 8 + dfld d 40 8 ≤ m.size → Runs (.cstReside qp sub) s fun t =>
      statusOf t qp sub = some 0 ∧ t.mem = s.mem ∧ (dfld d 40 8 = 0 → resultOf t qp sub = some (resOf 0))) ∧
  (∀ s qp sub d m, Started s qp sub 0xB3 d → needH s d Hk.mem 24 = none → tget s.mems (hSlot (dfld d 24 4)) = some m →
    dfld d 32 8 + dfld d 40 8 ≤ m.size → Runs (.cstEvict qp sub) s fun t =>
      (∀ e, e ∈ t.hbm.cache ↔ e ∈ s.hbm.cache ∧
        e.1 ∉ (cachedIn s (hSlot (dfld d 24 4)) (dfld d 32 8) (dfld d 40 8)).map Prod.fst) ∧ t.mem = s.mem ∧
      resultOf t qp sub = some { resOf 0 with value :=
        ((cachedIn s (hSlot (dfld d 24 4)) (dfld d 32 8) (dfld d 40 8)).map fun e => popCount e.2.dirty 256).sum }) ∧
  (∀ s qp sub d m, Started s qp sub 0xB4 d → needH s d Hk.mem 24 = none → tget s.mems (hSlot (dfld d 24 4)) = some m →
    Runs (.memQuery qp sub) s fun t => resultOf t qp sub = some { resOf 0 with
      value := m.resident.length * pageBytes m.page, aux := backingMask m, flags := if m.cluster.isSome then 1 else 0 }) ∧
  (∀ s qp sub d m, Started s qp sub 0xB5 d → needH s d Hk.mem 24 = none → tget s.mems (hSlot (dfld d 24 4)) = some m →
    dfld d 32 8 < m.size → tabledLines s (hSlot (dfld d 24 4)) = [] → Runs (.poisonScan qp sub) s fun t =>
      resultOf t qp sub = some { resOf 0 with value := 2 ^ 64 - 1, flags := if s.hbm.poisonOverflow then 1 else 0 }) ∧
  (∀ s qp sub d m k, Started s qp sub 0xB5 d → needH s d Hk.mem 24 = none → tget s.mems (hSlot (dfld d 24 4)) = some m →
    dfld d 32 8 < m.size → tabledLines s (hSlot (dfld d 24 4)) = [k] → dfld d 32 8 / 64 ≤ k →
    Runs (.poisonScan qp sub) s fun t => resultOf t qp sub = some { resOf 0 with
      value := k * 64, aux := 1, flags := if s.hbm.poisonOverflow then 1 else 0 }) ∧
  (∀ s slot page, Runs (.pageZeroDone slot page) s fun t => Only (partMask [.ime]) s t ∧
    ∀ e, e ∈ t.ime.zeroing ↔ e ∈ s.ime.zeroing ∧ e ≠ (slot, page))

/-- R246 to R248, R251, R252, R254, R256, R257, R261, R271, R272, R276: HBM, ECC and the badger. -/
def Obligations.HbmAndPoison : Prop :=
  let holds := fun (s : State) (k id : Nat) =>
    stackServes s k = true ∧ (stackAt s k).slots.any (fun r => r.id = id) = true
  (∀ s k, stackServes s k = true → Runs (.hbmAdmission k []) s fun t =>
    (stackAt t k).waiting.length + (stackAt t k).slots.length = (stackAt s k).waiting.length + (stackAt s k).slots.length ∧
    (stackAt t k).slots.length ≤ (stackAt s k).slots.length + 16 ∧
    ((stackAt s k).slots.length ≤ 2048 → (stackAt t k).slots.length ≤ 2048) ∧
    ∀ j, j ≠ k → stackAt t j = stackAt s j) ∧
  (∀ s k r, stackServes s k = true → (stackAt s k).waiting = [r] → (stackAt s k).slots = [] → r.cluster ≤ 64 →
    Runs (.hbmAdmission k []) s fun t => (stackAt t k).waiting = [] ∧ (stackAt t k).slots = [r]) ∧
  (∀ s k new id ls n, stackServes s k = false → exec (.hbmAdmission k new) s = .next s ∧
    exec (.hbmTransactionComplete k id ls) s = .next s ∧ exec (.correctedLineRewrite k n) s = .next s ∧
    exec (.badgerChunkRead k ls) s = .next s) ∧
  (∀ s k id, holds s k id → Runs (.hbmTransactionComplete k id []) s fun t =>
    stackAt t k = { stackAt s k with slots := (stackAt s k).slots.filter fun r => r.id ≠ id } ∧ Only (partMask [.hbm]) s t) ∧
  (∀ s k id l, holds s k id → confidential s = false → l.kind = .read → l.ecc = .corrected →
    Runs (.hbmTransactionComplete k id [l]) s fun t =>
      (stackAt t k).corrected = satAdd 65535 (stackAt s k).corrected 1 ∧ l.line ∈ (stackAt t k).rewrite ∧
      t.poison = s.poison) ∧
  (∀ s k id l slot off m, holds s k id → confidential s = false → l.kind = .read → l.ecc = .bad →
    lineObj s k l = some (slot, off) → tget s.mems slot = some m → thas s.poison (lineKey slot off) = false →
    Runs (.hbmTransactionComplete k id [l]) s fun t => thas t.poison (lineKey slot off) = true ∧
      (stackAt t k).uncorrected = satAdd 65535 (stackAt s k).uncorrected 1 ∧
      (tgetD (attOf t (ctxFn s m.ctx)).entries 0x20 attInit).pending = true ∧
      (tgetD (attOf t (ctxFn s m.ctx)).entries 0x20 attInit).handle = mkHandle 3 slot) ∧
  (∀ s k id l slot off, holds s k id → confidential s = false → l.kind = .read → l.ecc = .bad →
    lineObj s k l = some (slot, off) → thas s.poison (lineKey slot off) = true →
    Runs (.hbmTransactionComplete k id [l]) s fun t => t.cmd = s.cmd ∧ t.poison = s.poison) ∧
  (∀ s k id l, holds s k id → confidential s = true → l.kind = .read → l.ecc = .clean → l.tagEcc = .clean →
    l.tagOk = false → onList s k l.line = false → Runs (.hbmTransactionComplete k id [l]) s fun t =>
      t.flt.haltCause = 1 ∧ t.sec.session = .none_ ∧ t.sec.keys = [] ∧ t.ime.keys = [] ∧ (stackAt t k).slots = [] ∧
      (stackAt t k).waiting = [] ∧ t.flt.records = (s.flt.records + 1) % 2 ^ 32) ∧
  (∀ s k id l, holds s k id → l.kind = .write → l.tagMiss = false → Runs (.hbmTransactionComplete k id [l]) s fun t =>
    l.line ∉ (stackAt t k).rewrite ∧ onList t k l.line = false ∧ t.poison = s.poison) ∧
  (∀ s k n, stackServes s k = true → Runs (.correctedLineRewrite k n) s fun t => Only (partMask [.hbm]) s t ∧
    ∀ x, x ∈ (stackAt t k).rewrite ↔ x ∈ (stackAt s k).rewrite ∧ x ≠ n) ∧
  (∀ s c slot off, storeSector s c slot off = some false → Runs (.clusterStoreUncorrectable c slot off) s fun t =>
    (cluAt t c).corrected = satAdd 65535 (cluAt s c).corrected 1 ∧ t.poison = s.poison) ∧
  (∀ s c slot off m, storeSector s c slot off = some true → tget s.mems slot = some m →
    thas s.poison (lineKey slot off) = false → Runs (.clusterStoreUncorrectable c slot off) s fun t =>
      thas t.poison (lineKey slot off) = true ∧ (cluAt t c).uncorrected = satAdd 255 (cluAt s c).uncorrected 1 ∧
      (tgetD (attOf t (ctxFn s m.ctx)).entries 0x20 attInit).pending = true) ∧
  (∀ s k, stackServes s k = true → s.clk.milestone = 15 → Runs (.badgerChunkRead k []) s fun t =>
    (stackAt t k).chunk = (if 187500000 ≤ (stackAt s k).chunk + 1 then 0 else (stackAt s k).chunk + 1) ∧
    (stackAt t k).passes = (if 187500000 ≤ (stackAt s k).chunk + 1 then satAdd 65535 (stackAt s k).passes 1
      else (stackAt s k).passes) ∧ ∀ r ∈ (stackAt t k).slots, r.cluster ≠ 64) ∧
  (∀ s k l, stackServes s k = true → s.clk.milestone = 15 → l.line / 4 = (stackAt s k).chunk → l.ecc = .corrected →
    Runs (.badgerChunkRead k [l]) s fun t => (stackAt t k).corrected = satAdd 65535 (stackAt s k).corrected 1) ∧
  (∀ s, s.flt.haltCause ≠ 0 → exec .haltHeartbeatStop s = .next { s with flt := { s.flt with haltQuiet := true } }) ∧
  (∀ s, s.flt.haltCause = 0 → exec .haltHeartbeatStop s = .next s)

/-- R295, R296, R302 to R308, R310: the commands of the links. -/
def Obligations.LinkCommands : Prop :=
  let hears := fun (s : State) (p : Nat) => portLegal p = true ∧ portHears (portOf s p).state = true
  (∀ s p f tag, hears s p → (portOf s p).nakOut = false → Runs (.flitReceive p f false tag) s fun t =>
    portOf t p = { portOf s p with crcFails := ((portOf s p).crcFails + 1) % 2 ^ 64, nakOut := true } ∧
    t.out = .nak p (portOf s p).rxSeq :: s.out) ∧
  (∀ s p f crc tag n, portHears (portOf s p).state = false → exec (.flitReceive p f crc tag) s = .next s ∧
    exec (.nak p n) s = .next s ∧ exec (.replayTimerExpire p) s = .next s ∧ exec (.helloResend p) s = .next s) ∧
  (∀ s p f tag, hears s p → f.ftype = 1 ∨ f.ftype = 2 → f.seq % 65536 ≠ (portOf s p).rxSeq →
    Runs (.flitReceive p f true tag) s fun t =>
      (portOf t p).rxSeq = (portOf s p).rxSeq ∧ (portOf t p).rx = (portOf s p).rx ∧ (portOf t p).state = (portOf s p).state) ∧
  (∀ s p f tag, hears s p → f.ftype = 1 ∨ f.ftype = 2 → f.seq % 65536 = (portOf s p).rxSeq →
    Runs (.flitReceive p f true tag) s fun t => (portOf t p).rxSeq = ((portOf s p).rxSeq + 1) % 65536) ∧
  (∀ (c : Instr) s p, hears s p → (portOf s p).txSeq ≠ (portOf s p).txOldest → (portOf s p).replays < 8 →
    c = .nak p (portOf s p).txOldest ∨ c = .replayTimerExpire p → Runs c s fun t =>
      portOf t p = { portOf s p with replays := (portOf s p).replays + 1 } ∧
      t.out = .replay p (portOf s p).txOldest (portOf s p).txSeq :: s.out) ∧
  (∀ s p, hears s p → (portOf s p).txSeq ≠ (portOf s p).txOldest → 8 ≤ (portOf s p).replays → s.mod.phase ≠ .failing →
    Runs (.replayTimerExpire p) s fun t => (portOf t p).state = .retrain ∧
      (portOf t p).retrains = satAdd 255 (portOf s p).retrains 1) ∧
  (∀ s p n, hears s p → (portOf s p).txSeq = (portOf s p).txOldest →
    exec (.nak p n) s = .next s ∧ exec (.replayTimerExpire p) s = .next s) ∧
  (∀ s src p, srcOpen s src = true → hears s p → (portOf s p).state ≠ .secureFailed → s.mod.phase ≠ .failing →
    Runs (.retrain src p) s fun t => (portOf t p).state = .retrain ∧ (portOf t p).failed = 0 ∧ (portOf t p).half = false ∧
      (portOf t p).retrains = satAdd 255 (portOf s p).retrains 1) ∧
  (∀ s src p, (portOf s p).state = .secureFailed → exec (.retrain src p) s = .next s) ∧
  (∀ s p lane, portLegal p = true → lane < portLanes p → (portOf s p).state = .up → (portOf s p).failed = 0 →
    (portOf s p).allowDegraded = true → s.mod.phase ≠ .failing → Runs (.laneFailure p lane) s fun t =>
      (portOf t p).state = .retrain ∧ (portOf t p).half = true ∧ (portOf t p).failed = 2 ^ lane) ∧
  (∀ s p lane, portLegal p = true → lane < portLanes p → (portOf s p).state = .up → (portOf s p).allowDegraded = false →
    Runs (.laneFailure p lane) s fun t => (portOf t p).state = .down ∧ (portOf t p).secured = false ∧
      (portOf t p).replay = [] ∧ (tgetD (attOf t 0).entries 0x30 attInit).pending = true) ∧
  (∀ s p, portLegal p = true → (portOf s p).state = .retrain → Runs (.retrainComplete p) s fun t =>
    (portOf t p).state = (if confidential s && !(portOf s p).secured then .secureWait
      else if (portOf s p).half then .degraded else .up)) ∧
  (∀ s p, portLegal p = true → (portOf s p).state = .retrain → Runs (.retrainLimitExpire p) s fun t =>
    (portOf t p).state = .down) ∧
  (∀ s p, portLegal p = true → (portOf s p).state = .training ∨ (portOf s p).state = .hello →
    Runs (.retrainLimitExpire p) s fun t => (portOf t p).state = .down ∧ (portOf t p).peer = none) ∧
  (∀ s p, portLegal p = true → portMay s p = true → (portOf s p).state = .down ∨ (portOf s p).state = .disabled →
    2 ≤ s.clk.milestone → s.mod.phase = .good → Runs (.trainingAttempt p) s fun t =>
      (portOf t p).state = .training ∧ (portOf t p).failed = 0 ∧ (portOf t p).half = false) ∧
  (∀ s p, portMay s p = false → exec (.trainingAttempt p) s = .next s) ∧
  (∀ s p, portLegal p = true → (portOf s p).state = .training → Runs (.trainingComplete p) s fun t =>
    (portOf t p).state = .hello ∧ (portOf t p).lanes = if (portOf s p).half then portLanes p / 2 else portLanes p) ∧
  (∀ s p node pp serial role conf digest, hears s p → Runs (.hello p node pp serial role conf digest) s fun t =>
    (portOf t p).peer = some { node := node, port := pp, serial := serial, role := role, conf := conf, digest := digest } ∧
    ((portOf s p).state = .hello → confidential s = false → (portOf s p).half = false → (portOf t p).state = .up)) ∧
  (∀ s p, hears s p → exec (.helloResend p) s = .next (sendPort p (.ctl 0x01 0
    [nodeId s, p, Config.serial.toNat, s.mod.strapRole, if confidential s then 1 else 0, sessionTag s]) s)) ∧
  (∀ s p, portLegal p = true → (portOf s p).planDue = true → Runs (.planChangeCheck p) s fun t =>
    (portOf t p).planDue = false ∧ (portOf t p).checked = true) ∧
  (∀ s p, (portOf s p).planDue = false → exec (.planChangeCheck p) s = .next s) ∧
  (∀ s p q vc k, portLegal p = true → (portOf s p).txq.find? (fun k => k.vc = vc) = some k → k.from_ = some q → q ≠ p →
    vcReady s p (portOf s p) vc = none → Runs (.transitStallExpire p vc) s fun t =>
      (portOf t p).txq = (portOf s p).txq.erase k ∧ (portOf t q).drops = satAdd 65535 (portOf s q).drops 1) ∧
  (∀ s src, srcOpen s src = true → bitsOf s.lnk.entry 48 5 < 23 → s.lnk.entry ≠ 0 → Runs (.routeWrite src) s fun t =>
    tget t.lnk.routes (s.lnk.table * 65536 + s.lnk.index) = some s.lnk.entry ∧ Only (partMask [.lnk]) s t) ∧
  (∀ s src, 23 ≤ bitsOf s.lnk.entry 48 5 → bitsOf s.lnk.entry 48 5 ≠ 31 → exec (.routeWrite src) s = .next s) ∧
  (∀ s src, srcOpen s src = true → exec (.routeRead src) s = .next { s with lnk := { s.lnk with
    entry := tgetD s.lnk.routes (s.lnk.table * 65536 + s.lnk.index) 0 } })

/-- R316 to R323, R331, R332, R334: the manager of a domain. -/
def Obligations.DomainManager : Prop :=
  let pair := fun (s : State) => (s.wmk.cfg.prio, Config.serial.toNat)
  let other := fun (s : State) (n : Nat) => listed s n = true ∧ n ≠ nodeId s
  (∀ s, s.wmk.role = .candidate ∧ s.wmk.beaconing = true ∨ s.wmk.role = .held →
    exec .beaconTimer s = .next (sendAll (otherCands s)
      (.ctl 0x03 1 [s.wmk.cfg.prio, Config.serial.toNat, s.wmk.term, if s.wmk.role = .held then 1 else 0]) s)) ∧
  (∀ s, s.wmk.role = .active ∨ s.wmk.role = .standby ∨ s.wmk.role = .worker → exec .beaconTimer s = .next s) ∧
  (∀ s port n a b term held, other s n → s.wmk.role = .candidate → a < (pair s).1 ∨ a = (pair s).1 ∧ b < (pair s).2 →
    Runs (.beacon port n a b term held) s fun t => t.wmk = { s.wmk with
      term := max s.wmk.term (term % 2 ^ 32), heard := tput s.wmk.heard n (a, b) } ∧ Only (partMask [.wmk]) s t) ∧
  (∀ s port n a b term held, other s n → s.wmk.role = .candidate → (pair s).1 < a ∨ a = (pair s).1 ∧ (pair s).2 < b →
    Runs (.beacon port n a b term held) s fun t => t.wmk = { s.wmk with
      term := max s.wmk.term (term % 2 ^ 32), heard := tput s.wmk.heard n (a, b), beaconing := false } ∧
      Only (partMask [.wmk]) s t) ∧
  (∀ s port n term held, other s n → s.wmk.role = .candidate → Runs (.beacon port n (pair s).1 (pair s).2 term held) s fun t =>
    t.wmk.role = .held ∧ t.wmk.rival = some n ∧ (tgetD (attOf t 0).entries 0x31 attInit).pending = true) ∧
  (∀ s port n a b term, other s n → s.wmk.role = .held → s.wmk.rival = some n → (a, b) ≠ pair s →
    Runs (.beacon port n a b term false) s fun t => t.wmk.role = .candidate ∧ t.wmk.rival = none ∧
      t.wmk.beaconing = !pairBeats (a, b) (pair s)) ∧
  (∀ s port n a b term held to_ step arr plans routes, listed s n = false →
    exec (.beacon port n a b term held) s = .next (routeDrop port s) ∧
    exec (.announce port n term to_ held) s = .next (routeDrop port s) ∧
    exec (.keepalive port n term step arr) s = .next (routeDrop port s) ∧
    exec (.relinquish port n) s = .next (routeDrop port s) ∧ exec (.plan port n a plans routes) s = .next (routeDrop port s)) ∧
  (∀ s, s.wmk.role = .candidate → s.wmk.beaconing = true → Runs .claimExpire s fun t =>
    t.wmk.role = .active ∧ t.wmk.term = (s.wmk.term + 1) % 2 ^ 32 ∧ t.wmk.manager = some (nodeId s) ∧
    t.wmk.beaconing = false ∧ t.wmk.takeover = false ∧ (tgetD (attOf t 0).entries 0x38 attInit).pending = true) ∧
  (∀ s, s.wmk.role ≠ .candidate ∨ s.wmk.beaconing = false → exec .claimExpire s = .next s) ∧
  (∀ s, s.wmk.role = .active → Runs .announceTimer s fun t => t.wmk = { s.wmk with
    standby := bestHeard s, announces := min 10 (s.wmk.announces + 1) } ∧ Only (partMask [.wmk, .lnk, .out]) s t) ∧
  (∀ s, s.wmk.role ≠ .active → exec .announceTimer s = .next s) ∧
  (∀ s port n term standby takeover, other s n → s.wmk.term < term ∨ s.wmk.term = term ∧ s.wmk.role ≠ .active →
    Runs (.announce port n term standby takeover) s fun t => t.wmk.term = term ∧ t.wmk.manager = some n ∧
      t.wmk.lossPosted = false ∧ (s.wmk.role = .worker → t.wmk.role = .worker) ∧ (s.wmk.role = .active → t.wmk.role = .candidate) ∧
      (s.wmk.role = .candidate ∨ s.wmk.role = .standby →
        t.wmk.role = if standby = some (nodeId s) then .standby else .candidate)) ∧
  (∀ s port n term standby takeover, listed s n = true → term < s.wmk.term →
    exec (.announce port n term standby takeover) s = .next s) ∧
  (∀ s n, s.wmk.role = .active → s.wmk.standby = some n → exec .keepaliveTimer s =
    .next (sendTo n (.ctl 0x03 3 ([s.wmk.term, s.wmk.step] ++ s.wmk.childrenIn)) s)) ∧
  (∀ s port n term step arr, listed s n = true → s.wmk.role = .standby → s.wmk.term ≤ term →
    Runs (.keepalive port n term step arr) s fun t => t.wmk = { s.wmk with term := term, copyStep := step, copyArrived := arr } ∧
      Only (partMask [.wmk]) s t) ∧
  (∀ (c : Instr) s port n, listed s n = true → s.wmk.role = .standby → s.wmk.manager = some n →
    c = .keepaliveLoss ∨ c = .relinquish port n → Runs c s fun t => t.wmk.role = .active ∧ t.wmk.takeover = true ∧
      t.wmk.term = (s.wmk.term + 1) % 2 ^ 32 ∧ t.wmk.manager = some (nodeId s) ∧ t.wmk.childrenIn = s.wmk.copyArrived ∧
      t.wmk.step = s.wmk.step) ∧
  (∀ s, s.wmk.role ≠ .standby → exec .keepaliveLoss s = .next s) ∧
  (∀ s, s.wmk.role = .candidate → s.wmk.beaconing = false → Runs .announceWatchExpire s fun t =>
    t.wmk = { s.wmk with beaconing := true, rival := none } ∧ Only (partMask [.wmk]) s t) ∧
  (∀ s, s.wmk.lossPosted = false → s.wmk.role ≠ .active → s.clk.milestone = 15 → Runs .noManagerExpire s fun t =>
    t.wmk.manager = none ∧ t.wmk.lossPosted = true ∧ (tgetD (attOf t 0).entries 0x38 attInit).pending = true) ∧
  (∀ s, s.wmk.lossPosted = true ∨ s.wmk.role = .active → exec .noManagerExpire s = .next s) ∧
  (∀ s n step arr, s.wmk.role = .active → s.wmk.plan = none → step ≤ s.wmk.step → (step < s.wmk.step ∨ arr = false) →
    Runs (.resyncReport n step arr) s fun t => t.wmk = { s.wmk with
      view := tput s.wmk.view n { viewOf s n with step := step, arrived := arr }, takeover := false }) ∧
  (∀ s n v, s.wmk.role = .active → Runs (.healthSummary n v) s fun t => t.wmk = { s.wmk with
      view := tput s.wmk.view n { viewOf s n with summary := v % 2 ^ 512, missing := false } } ∧ Only (partMask [.wmk]) s t) ∧
  (∀ s n, s.wmk.role = .active → Runs (.healthSummaryMissing n) s fun t => t.wmk = { s.wmk with
      view := tput s.wmk.view n { viewOf s n with missing := true } } ∧ Only (partMask [.wmk]) s t) ∧
  (∀ s n v, s.wmk.role ≠ .active → exec (.healthSummary n v) s = .next s ∧ exec (.healthSummaryMissing n) s = .next s) ∧
  (∀ s n, s.wmk.role ≠ .active → s.wmk.manager = some n →
    exec .healthSummaryTimer s = .next (sendTo n (.ctl 0x03 7 [freeBits s 512]) (tookFree s))) ∧
  (∀ s src a b c d chips routes, srcOpen s src = true → s.wmk.role = .active → s.wmk.takeover = true →
    Runs (.planLoad src a b c d chips routes) s fun t => t.wmk = { s.wmk with planStatus := 3 } ∧ Only (partMask [.wmk]) s t) ∧
  (∀ s src a b c d chips routes, srcOpen s src = true → s.wmk.role = .active → s.wmk.takeover = false →
    a ≠ 0x574D504C ∨ b = 0 ∨ 1024 < b ∨ chips.length ≠ b ∨ routes.length ≠ c ∨ d ≠ nodeId s / 1024 →
    Runs (.planLoad src a b c d chips routes) s fun t => t.wmk = { s.wmk with planStatus := 2 } ∧ Only (partMask [.wmk]) s t) ∧
  (∀ s src chips, srcOpen s src = true → s.wmk.role = .active → s.wmk.takeover = false → chips ≠ [] → chips.length ≤ 1024 →
    (∀ c ∈ chips, c.node / 1024 = nodeId s / 1024 ∧ c.node ≠ nodeId s) →
    Runs (.planLoad src 0x574D504C chips.length 0 (nodeId s / 1024) chips []) s fun t =>
      t.wmk = { s.wmk with planStatus := 1, plan := some { chips := chips, routes := [] } } ∧ Only (partMask [.wmk, .lnk, .out]) s t) ∧
  (∀ s port n p, listed s n = true → s.wmk.manager = some n → Runs (.plan port n p [] []) s fun t =>
    t.wmk = { s.wmk with treePort := some p } ∧ Only (partMask [.wmk]) s t) ∧
  (∀ s port n p plans routes, listed s n = true → s.wmk.manager ≠ some n → exec (.plan port n p plans routes) s = .next s)

/-- R314, R324 to R330: steps and time. -/
def Obligations.StepsAndTime : Prop :=
  (∀ s, s.wmk.arriveDue = true → s.wmk.advance = none → s.wmk.arrived = false → s.wmk.forwarded = true →
    Runs .arriveSignal s fun t => t.wmk = { s.wmk with arriveDue := false, arrived := true } ∧ Only (partMask [.wmk]) s t) ∧
  (∀ s, s.wmk.arriveDue = true → s.wmk.advance = none → s.wmk.arrived = true → Runs .arriveSignal s fun t =>
    t.wmk = { s.wmk with arriveDue := false, repeatArrive := satAdd 255 s.wmk.repeatArrive 1 } ∧ Only (partMask [.wmk]) s t) ∧
  (∀ s a, s.wmk.arriveDue = true → s.wmk.advance = some a → Runs .arriveSignal s fun t =>
    t.wmk = { s.wmk with arriveDue := false, arriveHeld := true } ∧ Only (partMask [.wmk]) s t) ∧
  (∀ s, s.wmk.arriveDue = false → exec .arriveSignal s = .next s) ∧
  (∀ s, s.wmk.arriveDue = true → s.wmk.advance = none → s.wmk.arrived = false → s.wmk.forwarded = false → isTop s = true →
    0 < s.wmk.lead → (∀ n ∈ s.wmk.children, n ∈ s.wmk.childrenIn) → Runs .arriveSignal s fun t =>
      t.wmk.advance = some { step := s.wmk.step + 1, at_ := timeBase s + s.wmk.lead * 1000, set := false } ∧
      t.wmk.arrived = true ∧ t.wmk.forwarded = true ∧ t.wmk.step = s.wmk.step) ∧
  (∀ s p, s.wmk.arriveDue = true → s.wmk.advance = none → s.wmk.arrived = false → s.wmk.forwarded = false →
    s.wmk.role ≠ .active → s.wmk.treePort = some p → portLegal p = true → portUsable s p = true →
    (∀ n ∈ s.wmk.children, n ∈ s.wmk.childrenIn) → exec .arriveSignal s = .next (sendPort p (.ctl 0x02 3 [s.wmk.step + 1])
      { s with wmk := { s.wmk with arriveDue := false, arrived := true, forwarded := true } })) ∧
  (∀ s port n, portLegal port = true → s.wmk.arrived = false → Runs (.arrive port n (s.wmk.step + 1)) s fun t =>
    t.wmk = { s.wmk with children := linsert s.wmk.children n, childrenIn := linsert s.wmk.childrenIn n } ∧
      Only (partMask [.wmk]) s t) ∧
  (∀ s port n step, step ≠ s.wmk.step + 1 → exec (.arrive port n step) s = .next s) ∧
  (∀ s port n term step time, portLegal port = true → n ≠ nodeId s → isTop s = false → s.wmk.term ≤ term → s.wmk.step < step →
    timeBase s < time → Runs (.advance port n term step time false) s fun t =>
      t.wmk = { s.wmk with term := term, advance := some { step := step, at_ := time, set := false } } ∧
      Only (partMask [.wmk, .lnk, .out]) s t) ∧
  (∀ s port n term step time, portLegal port = true → n ≠ nodeId s → isTop s = false → s.wmk.term ≤ term → s.wmk.step < step →
    time ≤ timeBase s → s.wmk.advanceEv = none → s.ckp.ctxs = [] → Runs (.advance port n term step time false) s fun t =>
      t.wmk.step = step % 2 ^ 40 ∧ t.wmk.late = satAdd 255 s.wmk.late 1 ∧ t.wmk.arrived = false ∧ t.wmk.childrenIn = [] ∧
      t.ckp.lastT = some time) ∧
  (∀ s port n term step time, term < s.wmk.term ∨ n = nodeId s ∨ isTop s = true ∨ step ≤ s.wmk.step →
    exec (.advance port n term step time false) s = .next s) ∧
  (∀ s a, s.wmk.advance = some a → a.at_ ≤ timeBase s → s.wmk.arriveHeld = false → s.wmk.advanceEv = none → s.ckp.ctxs = [] →
    Runs .advanceApply s fun t => t.wmk = { s.wmk with
        step := a.step % 2 ^ 40, applied := s.wmk.tb, arrived := false, forwarded := false, childrenIn := [], advance := none } ∧ Only (partMask [.wmk, .ckp]) s t) ∧
  (∀ s a, s.wmk.advance = some a → timeBase s < a.at_ → exec .advanceApply s = .next s) ∧
  (∀ s src v, srcOpen s src = true → isTop s = true → 0 < s.wmk.lead → Runs (.stepSet src v) s fun t => t.wmk.advance =
    some { step := bitsOf v.toNat 24 40, at_ := timeBase s + s.wmk.lead * 1000, set := true } ∧ t.wmk.arrived = false ∧
    t.wmk.step = s.wmk.step) ∧
  (∀ s src v, isTop s = false → exec (.stepSet src v) s = .next s ∧ exec (.timeSet src v) s = .next s) ∧
  (∀ s src v, srcOpen s src = true → isTop s = true → s.wmk.wasSynced = false ∨ timeBase s ≤ v.toNat →
    Runs (.timeSet src v) s fun t => t.wmk = { s.wmk with tb := v.toNat, slew := 0 } ∧ Only (partMask [.wmk]) s t) ∧
  (∀ s src v, s.wmk.wasSynced = true → v.toNat < timeBase s → exec (.timeSet src v) s = .next s) ∧
  (∀ s p, timeParent s = .port p → exec .syncReqTimer s = .next (sendPort p (.ctl 0x02 1 [timeBase s])
    { s with wmk := { s.wmk with syncSent := some s.wmk.tb } })) ∧
  (∀ s, timeParent s = .none_ → confidential s = false ∨ isTop s = true → exec .syncReqTimer s = .next s) ∧
  (∀ s p n t1, portLegal p = true → portUsable s p = true → ((portOf s p).peer.map fun a => a.node) = some n →
    exec (.syncReq p n t1) s = .next (sendPort p (.ctl 0x02 2 [t1, timeBase s, timeBase s,
        if isTop s then 0 else if s.wmk.synced then s.wmk.errBound else 65535])
      { s with wmk := { s.wmk with children := linsert s.wmk.children n } })) ∧
  (∀ s t2 t3 b, s.wmk.syncSent = none → exec (.syncReply t2 t3 b) s = .next s) ∧
  (∀ s (t1 t2 t3 b : Nat), s.wmk.syncSent = some t1 → s.wmk.synced = true →
    (((t2 : Int) - t1 - ((timeBase s : Int) - t3)) / 2).natAbs ≤ 100000 → Runs (.syncReply t2 t3 b) s fun t =>
      t.wmk = { s.wmk with
        errBound := min 65535 (b + edgeError s), syncSent := none, slew := ((t2 : Int) - t1 - ((timeBase s : Int) - t3)) / 2 } ∧ Only (partMask [.wmk]) s t) ∧
  (∀ s (t1 t2 t3 b : Nat), s.wmk.syncSent = some t1 → s.wmk.synced = true →
    100000 < (((t2 : Int) - t1 - ((timeBase s : Int) - t3)) / 2).natAbs → Runs (.syncReply t2 t3 b) s fun t =>
      t.wmk.synced = false ∧ t.wmk.slew = 0 ∧ t.wmk.errBound = min 65535 (b + edgeError s)) ∧
  (∀ s (t1 t2 t3 b : Nat), s.wmk.syncSent = some t1 → s.wmk.synced = false → s.wmk.good = 7 →
    (((t2 : Int) - t1 - ((timeBase s : Int) - t3)) / 2).natAbs ≤ 50 → Runs (.syncReply t2 t3 b) s fun t =>
      t.wmk.synced = true ∧ t.wmk.wasSynced = true) ∧
  (∀ s p, s.wmk.role ≠ .active → isTop s = false → timeParent s = .port p →
    edgeError s = if isBoard p then 10 else 115) ∧
  (∀ s, isTop s = true → s.wmk.ppsEn = true → timeBase s % 1000000000 ≤ 1000000 → Runs .wmkPpsEdge s fun t =>
    t.wmk = { s.wmk with slew := -((timeBase s % 1000000000 : Nat) : Int) } ∧ Only (partMask [.wmk]) s t) ∧
  (∀ s, isTop s = true → s.wmk.ppsEn = true → 1000000 < timeBase s % 1000000000 → timeBase s % 1000000000 < 999000000 →
    Runs .wmkPpsEdge s fun t => t.wmk = { s.wmk with ppsIgnored := satAdd 255 s.wmk.ppsIgnored 1 } ∧
      Only (partMask [.wmk]) s t) ∧
  (∀ s, isTop s = false ∨ s.wmk.ppsEn = false → exec .wmkPpsEdge s = .next s)

/-- R336, R339 to R346, R363: posting collective operations. -/
def Obligations.CollectivePosting : Prop :=
  let reads := fun (s : State) (d : Desc) (n : Nat) => needH s d Hk.mem 24 = none ∧ needRange s (dfld d 24 4) (dfld d 32 8) n 32 = none
  let seen := fun (s : State) (d : Desc) (n : Nat) => touch (hSlot (dfld d 24 4)) (dfld d 32 8) n false s
  let clean := fun (s : State) (d : Desc) (n : Nat) => poisonedIn (seen s d n) (hSlot (dfld d 24 4)) (dfld d 32 8) n = false
  let list := fun (s : State) (d : Desc) (n : Nat) => (List.range n).map fun i =>
    ofLe (readMem (seen s d (4 * n)) (.desc d.qp d.sub) (hSlot (dfld d 24 4)) (dfld d 32 8 + 4 * i) 4) % 2 ^ 24
  (∀ s qp sub d c n i, Started s qp sub 0x72 d → descCtx s d = some c → n = clampTo 1 1024 (dfld d 40 2) →
    reads s d (4 * n) → clean s d (4 * n) → nodeId (seen s d (4 * n)) ∈ list s d n → hasDup (list s d n) = false →
    (∀ e ∈ (seen s d (4 * n)).col.groups, e.2.tag ≠ dfld d 44 4) → confidential (seen s d (4 * n)) = false →
    (seen s d (4 * n)).col.groups.length < 256 → i < 4096 → tget (seen s d (4 * n)).col.groups i = none →
    (∀ j, j < i → (tget (seen s d (4 * n)).col.groups j).isSome = true) →
    Runs (.groupCreate qp sub) s fun t => ∃ g, tget t.col.groups i = some g ∧ g.ctx = c ∧ g.tag = dfld d 44 4 ∧
      g.members = list s d n ∧ (list s d n)[g.rank]? = some (nodeId (seen s d (4 * n))) ∧ g.nextSeq = 0 ∧
      resultOf t qp sub = some { resOf 0 with aux := i, value := g.rank }) ∧
  (∀ s qp sub d c n, Started s qp sub 0x72 d → descCtx s d = some c → n = clampTo 1 1024 (dfld d 40 2) →
    reads s d (4 * n) → clean s d (4 * n) → nodeId (seen s d (4 * n)) ∉ list s d n ∨ hasDup (list s d n) = true →
    Runs (.groupCreate qp sub) s fun t => resultOf t qp sub = some (refuse 0x11 24) ∧ t.col = (seen s d (4 * n)).col) ∧
  (∀ s qp sub d c n, Started s qp sub 0x72 d → descCtx s d = some c → n = clampTo 1 1024 (dfld d 40 2) →
    reads s d (4 * n) → clean s d (4 * n) → nodeId (seen s d (4 * n)) ∈ list s d n → hasDup (list s d n) = false →
    (∃ e ∈ (seen s d (4 * n)).col.groups, e.2.tag = dfld d 44 4) →
    Runs (.groupCreate qp sub) s fun t => resultOf t qp sub = some (refuse 0x11 44) ∧ t.col = (seen s d (4 * n)).col) ∧
  (∀ s qp sub d g, Started s qp sub 0x74 d → tget s.col.groups (dfld d 24 2) = some g → some g.ctx = descCtx s d →
    Runs (.groupQuery qp sub) s fun t => t.col = s.col ∧ resultOf t qp sub = some { resOf 0 with
      aux := (s.col.ops.filter fun o => decide (o.op.group = dfld d 24 2)).length, value := g.nextSeq + g.rank * 2 ^ 32 }) ∧
  (∀ s qp sub d g, Started s qp sub 0x73 d → tget s.col.groups (dfld d 24 2) = some g → some g.ctx = descCtx s d →
    (∀ o ∈ s.col.ops, o.op.group ≠ dfld d 24 2) → Runs (.groupDestroy qp sub) s fun t =>
      t.col = { s.col with groups := tdel s.col.groups (dfld d 24 2) } ∧ resultOf t qp sub = some (resOf 0)) ∧
  (∀ (c : Instr) s qp sub d op, Started s qp sub op d → c = .groupDestroy qp sub ∧ op = 0x73 ∨ c = .groupQuery qp sub ∧ op = 0x74 →
    tget s.col.groups (dfld d 24 2) = none → Runs c s fun t => resultOf t qp sub = some (refuse 0x10 24) ∧ t.col = s.col) ∧
  (∀ s qp sub d c b g e, Started s qp sub 0x70 d → descCtx s d = some c → clampTo 1 4096 (dfld d 40 4) = 1 →
    reads s d 128 → clean s d 128 →
    b = readMem (seen s d 128) (.desc d.qp d.sub) (hSlot (dfld d 24 4)) (dfld d 32 8) 128 →
    recGroup (seen s d 128) b = some g → recFail (seen s d 128) c (some g) b (recOf (seen s d 128) c g b) = none →
    (seen s d 128).col.ops.length < 16384 → tget (seen s d 128).evs (recOf (seen s d 128) c g b).trigger = some e →
    e.signalled = false → e.count = 0 → Runs (.trigPost qp sub) s fun t => ∃ o, t.col.ops = (seen s d 128).col.ops ++ [o] ∧
      o.id = (seen s d 128).col.nextOp ∧ o.op = recOf (seen s d 128) c g b ∧ o.seq = g.nextSeq ∧ o.ctx = c ∧
      o.state = .pending ∧ ((tget t.col.groups o.op.group).map fun g => g.nextSeq) = some ((g.nextSeq + 1) % 2 ^ 32) ∧
      resultOf t qp sub = some { resOf 0 with aux := 1 }) ∧
  (∀ s qp sub d c b r, Started s qp sub 0x70 d → descCtx s d = some c → clampTo 1 4096 (dfld d 40 4) = 1 →
    reads s d 128 → clean s d 128 →
    b = readMem (seen s d 128) (.desc d.qp d.sub) (hSlot (dfld d 24 4)) (dfld d 32 8) 128 →
    recFail (seen s d 128) c (recGroup (seen s d 128) b)
      b (recOf (seen s d 128) c ((recGroup (seen s d 128) b).getD noGroup) b) = some r →
    Runs (.trigPost qp sub) s fun t => t.col = (seen s d 128).col ∧
      resultOf t qp sub = some { refuse r.status 24 with value := r.aux }) ∧
  (∀ s c g b o, o.kind = 0 ∨ 5 < o.kind → recFail s c g b o = some (refuse 0x11 0)) ∧
  (∀ s qp sub d, Started s qp sub 0x71 d → (s.col.ops.map TrigOp.id).Nodup → (∀ o ∈ s.col.ops, o.op.status = none ∧ o.op.complete = none) →
    let hit := fun (o : TrigOp) => decide (some o.ctx = descCtx s d) &&
      decide (Nat.land o.op.tag (dfld d 32 8) = Nat.land (dfld d 24 8) (dfld d 32 8))
    Runs (.trigCancel qp sub) s fun t => t.col.ops = s.col.ops.filter (fun o => !hit o) ∧
      resultOf t qp sub = some { resOf 0 with aux := (s.col.ops.filter hit).length }) ∧
  (∀ s eng o, queueHead s eng = some o → colEngUp s eng = true → (∀ e, e < 32 → opOn o e = true → runningOn s e < 4) →
    o.viaSwitch = false → exec (.collectiveOpStart eng) s = .next (checkDone o.id (heldAct o.id (directBegin o.id
      (modOp o.id (fun o => { o with state := .running, viaSwitch := false, flags := 0 }) s))))) ∧
  (∀ s eng o e, queueHead s eng = some o → e < 32 → opOn o e = true → 4 ≤ runningOn s e →
    exec (.collectiveOpStart eng) s = .next s) ∧
  (∀ s eng, queueHead s eng = none → exec (.collectiveOpStart eng) s = .next s) ∧
  (∀ o n, 0 < n → shardLo o n 0 = 0 ∧ shardLo o n n = segCount o ∧ ∀ k, shardLo o n k ≤ shardLo o n (k + 1))

/-- R345, R347, R352, R353, R359, R360, R362: the exchange. -/
def Obligations.CollectiveExchange : Prop :=
  let idle := fun (s : State) => ∀ o ∈ s.col.ops, o.state ≠ .running
  let ctl := fun (c : Instr) (kind first : Nat) (vals : List Int) (port node tag seq sig : Nat) =>
    c = .exp port node tag seq sig first vals ∧ kind = 1 ∨
    c = .go port node tag seq sig first vals.length vals ∧ vals.length ≤ 16 ∧ kind = 2 ∨
    c = .ready port node tag seq sig ∧ kind = 3 ∧ first = 0 ∧ vals = [] ∨
    c = .done port node tag seq sig ∧ kind = 4 ∧ first = 0 ∧ vals = []
  let runs := fun (s : State) (node tag seq gi : Nat) (g : Group) (o : TrigOp) => groupFrom s tag node = some (gi, g) ∧
    opOfSeq s gi seq = some o ∧ findOp s o.id = some o ∧ o.state = .running
  let rank := fun (g : Group) (node : Nat) =>
    (firstFrom (fun i => decide (g.members[i]? = some node)) g.members.length 0).getD 0
  (∀ c kind first vals s port node tag seq sig, ctl c kind first vals port node tag seq sig → idle s →
    groupFrom s tag node = none → exec c s = .next (routeDrop port s)) ∧
  (∀ c kind first vals s port node tag seq sig gi g, ctl c kind first vals port node tag seq sig → idle s →
    groupFrom s tag node = some (gi, g) → tget s.col.groups gi = some g → opOfSeq s gi seq = none → seqAhead g seq = true →
    g.held.length < 64 → exec c s = .next (sendTo node (.collAck kind tag seq) { s with col := { s.col with
      groups := tput s.col.groups gi { g with held := g.held ++
        [{ sub := kind, rank := rank g node, seq := seq, sig := sig, first := first, vals := vals }] } } })) ∧
  (∀ c kind first vals s port node tag seq sig gi g, ctl c kind first vals port node tag seq sig → idle s →
    groupFrom s tag node = some (gi, g) → tget s.col.groups gi = some g → opOfSeq s gi seq = none → seqAhead g seq = true →
    64 ≤ g.held.length → exec c s = .next (sendTo node (.collCtl 6 tag seq sig kind []) s)) ∧
  (∀ c kind first vals s port node tag seq sig gi g, ctl c kind first vals port node tag seq sig → idle s →
    groupFrom s tag node = some (gi, g) → opOfSeq s gi seq = none → seqAhead g seq = false →
    exec c s = .next (sendTo node (.collAck kind tag seq) s)) ∧
  (∀ c kind first vals s port node tag seq sig gi g o, ctl c kind first vals port node tag seq sig → runs s node tag seq gi g o →
    sig ≠ o.sig → exec c s = .next (openAll (failOp o.id 2 (rank g node) (sendTo node (.collAck kind tag seq) s)))) ∧
  (∀ s port node tag seq first exps gi g o, runs s node tag seq gi g o → exec (.exp port node tag seq o.sig first exps) s =
    .next (openAll (openSegs o.id (putExps o.id (rank g node) first exps (sendTo node (.collAck 1 tag seq) s))))) ∧
  (∀ s port node tag seq first n exps gi g o, runs s node tag seq gi g o → n ≤ 16 →
    exec (.go port node tag seq o.sig first n exps) s =
      .next (openAll (serveGo o.id (rank g node) first (max 1 n) (sendTo node (.collAck 2 tag seq) s)))) ∧
  (∀ s port node tag seq gi g o, runs s node tag seq gi g o → exec (.ready port node tag seq o.sig) s =
    .next (openAll (checkDone o.id (sendPart o.id (rank g node) (modOp o.id (fun o => { o with
      readys := linsert o.readys (rank g node) }) (sendTo node (.collAck 3 tag seq) s)))))) ∧
  (∀ s port node tag seq gi g o, runs s node tag seq gi g o → donesFrom o (rank g node) < donesDue s o →
    exec (.done port node tag seq o.sig) s = .next (openAll (checkDone o.id (modOp o.id (fun o => { o with
      dones := o.dones ++ [rank g node] }) (sendTo node (.collAck 4 tag seq) s))))) ∧
  (∀ s port node tag seq sig reason r gi g o, groupFrom s tag node = some (gi, g) → opOfSeq s gi seq = some o →
    o.state ≠ .pending → exec (.abort port node tag seq sig reason r false) s =
      .next (openAll (failOp o.id 3 r (sendTo node (.collAck 5 tag seq) s)))) ∧
  (∀ s port node tag seq sig reason r gi g o, groupFrom s tag node = some (gi, g) → opOfSeq s gi seq = some o →
    o.state = .pending → o.preAbort = none → idle s → (∀ p ∈ s.col.ops, p.id = o.id → p = o) →
    Runs (.abort port node tag seq sig reason r false) s fun t =>
      t.col.ops = s.col.ops.map (fun p => if p.id = o.id then { p with preAbort := some r } else p)) ∧
  (∀ s id o r, findOp s id = some o → o.op.status = none → o.op.complete = none → ∀ reason,
    (failOp id reason r s).col.ops = s.col.ops.filter (fun p => decide (p.id ≠ o.id))) ∧
  (∀ s port node tag seq kind gi g o, groupFrom s tag node = some (gi, g) → opOfSeq s gi seq = some o →
    (tget o.unacked (kind * 1024 + rankOf s o node)).isSome = true → Runs (.busy port node tag seq kind) s fun t =>
      t.col.ops = s.col.ops.map (fun p => if p.id = o.id then
        { p with busy := linsert p.busy (kind * 1024 + rankOf s p node) } else p)) ∧
  (∀ s op kind r o, findOp s op = some o → kind * 1024 + r ∈ o.busy → exec (.busyRetry op kind r) s =
    .next (ctlAgain op kind r (modOp op (fun o => { o with busy := o.busy.erase (kind * 1024 + r) }) s))) ∧
  (∀ s op kind r o, findOp s op = some o → kind * 1024 + r ∉ o.busy → exec (.busyRetry op kind r) s = .next s) ∧
  (∀ s port node tag seq kind gi g o, groupFrom s tag node = some (gi, g) → opOfSeq s gi seq = some o →
    exec (.collAck port node tag seq kind) s =
      .next (modOp o.id (fun p => { p with unacked := tdel p.unacked (kind * 1024 + rankOf s p node) }) s)) ∧
  (∀ s port node tag seq seg r chunk data gi g, groupFrom s tag node = some (gi, g) → opOfSeq s gi seq = none → idle s →
    exec (.collData port node tag seq seg r chunk data) s = .next s) ∧
  (∀ s port node tag seq seg r chunk data gi g o, runs s node tag seq gi g o → g.members[r]? = some node → seg < segCount o.op →
    exec (.collData port node tag seq seg r chunk data) s = .next (openAll
      (if kindReduces o.op.kind = true ∧ seg ∈ shardOf s o (opRank s o) then reduceIn o seg r chunk data s
       else gatherIn o seg r chunk data s))) ∧
  (∀ s o g r c data, r * 64 + c ∈ (segOf o g).got → reduceIn o g r c data s = s) ∧
  (∀ s op kind r o n, findOp s op = some o → o.state = .running → tget o.unacked (kind * 1024 + r) = some n →
    s.col.resendLimit ≤ n → exec (.resendTimer op none kind r) s = .next (openAll (failOp op 4 r s))) ∧
  (∀ s op o, findOp s op = some o → o.state ≠ .pending → o.op.timeout ≠ 0 →
    exec (.operationTimeout op) s = .next (openAll (failOp op 5 (opRank s o) s))) ∧
  (∀ s op, idle s → findOp s op = none → exec (.operationTimeout op) s = .next s ∧ exec (.switchSumTimeout op) s = .next s) ∧
  (∀ s port types n k, 15 ≤ port → port < 23 → carries (portOf s port).state = true → Runs (.caps port types n k) s fun t =>
    tget t.col.caps (port - 15) = some { types := types % 4, maxMembers := n % 65536, memKib := k % 2 ^ 24 } ∧
    Only (partMask [.col, .lnk, .out]) s t) ∧
  (∀ s port types n k, port < 15 ∨ 23 ≤ port → exec (.caps port types n k) s = .next s) ∧
  (∀ s port tag seq seg o, switchOp s tag seq = some o → (segOf o seg).opened = true →
    exec (.swRefuse port tag seq seg) s = .next (fallBack o.id true (sendPort port (.collAck 0x11 tag seq) s))) ∧
  (∀ s port tag seq seg data o d, switchOp s tag seq = some o → (segOf o seg).opened = true → (segOf o seg).closed = false →
    data.length = segBytes o o.op.outType seg → o.op.dst = some d →
    rangeStops s o d (o.op.dstOff + spanBytes o.op o.op.outType 0 seg) data.length true = none →
    exec (.switchSum port tag seq seg data) s = .next (checkDone o.id (switchSend o.id (modSeg o.id seg (fun x => { x with
      closed := true }) (modColEng (segOf o seg).engine (fun k => { k with rx := (k.rx + data.length) % 2 ^ 64 })
        (storeMem (.coll o.id) d (o.op.dstOff + spanBytes o.op o.op.outType 0 seg) data s)))))) ∧
  (∀ s op o, findOp s op = some o → o.state = .running → o.viaSwitch = true →
    exec (.switchSumTimeout op) s = .next (fallBack op true s)) ∧
  (∀ s eng, colEngUp s eng = true → exec (.reductionStoreError eng) s = .next (unitFault (unitOf 3 eng) 3 false 0 s)) ∧
  (∀ s eng, colEngUp s eng = false → exec (.reductionStoreError eng) s = .next s)

/-- R355 to R358: the result depends only on the contributions, in any permutation of them. -/
def Obligations.SumOrderIndependence : Prop :=
  let total := fun (red : Nat) (e : Int) (a : Acc) (l : List (Int × Elem)) =>
    l.foldl (fun a x => (accAddElem red e x.1 a x.2).1) a
  (∀ red e q m (l k : List (Int × Elem)), l.Perm k → total red e (.win q m) l = total red e (.win q m) k) ∧
  (∀ red e (l k : List (Int × Int)), l.Perm k →
    total red e (.int none) (l.map fun p => (p.1, .int p.2)) = total red e (.int none) (k.map fun p => (p.1, .int p.2))) ∧
  (∀ red e q m (l k : List (Int × Elem)) out, l.Perm k →
    accOut out e (total red e (.win q m) l) = accOut out e (total red e (.win q m) k))

/-- R368 to R383: step schedules and their runner. -/
def Obligations.StepSchedules : Prop :=
  let seen := fun (s : State) (d : Desc) => touch (hSlot (dfld d 24 4)) (dfld d 32 8) (clampTo 128 16777216 (dfld d 40 8)) false s
  let table := fun (s : State) (d : Desc) =>
    readMem (seen s d) (.desc d.qp d.sub) (hSlot (dfld d 24 4)) (dfld d 32 8) (clampTo 128 16777216 (dfld d 40 8))
  let reads := fun (s : State) (d : Desc) => needH s d Hk.mem 24 = none ∧ dfld d 48 4 = 0 ∧
    needRange s (dfld d 24 4) (dfld d 32 8) (clampTo 128 16777216 (dfld d 40 8)) 32 = none
  let cmd := fun (c : Instr) (load : Bool) (op qp sub : Nat) =>
    c = .schedLoad qp sub ∧ load = true ∧ op = 0x80 ∨ c = .tollgateCheck qp sub ∧ load = false ∧ op = 0x81
  (∀ c load op s qp sub d x, cmd c load op qp sub → Started s qp sub op d → reads s d → descCtx s d = some x →
    (load = true → tget s.runners x = none) →
    poisonedIn (seen s d) (hSlot (dfld d 24 4)) (dfld d 32 8) (clampTo 128 16777216 (dfld d 40 8)) = false →
    schedFail (seen s d) d.fn x (table s d) = none → Runs c s fun t =>
      t.admits = s.admits ++ [{ desc := (qp, sub), ctx := x, fn := d.fn, table := table s d, report := (0, dfld d 56 8), load := load }] ∧
      (findDesc t qp sub).map Desc.phase = some .running ∧ t.runners = s.runners) ∧
  (∀ c load op s qp sub d x r, cmd c load op qp sub → Started s qp sub op d → reads s d → descCtx s d = some x →
    (load = true → tget s.runners x = none) →
    poisonedIn (seen s d) (hSlot (dfld d 24 4)) (dfld d 32 8) (clampTo 128 16777216 (dfld d 40 8)) = false →
    schedFail (seen s d) d.fn x (table s d) = some r → Runs c s fun t =>
      resultOf t qp sub = some r ∧ t.admits = s.admits ∧ t.runners = s.runners) ∧
  (∀ s qp sub d x r, Started s qp sub 0x80 d → reads s d → descCtx s d = some x → tget s.runners x = some r →
    Runs (.schedLoad qp sub) s fun t => resultOf t qp sub = some (refuse 0x11 0) ∧ t.runners = s.runners) ∧
  (∀ s qp sub d a, s.admits.find? (fun a => decide (a.desc = (qp, sub))) = some a → findDesc s qp sub = some d → d.phase = .running →
    (a.load = true → tget s.runners a.ctx = none) → a.report.1 = 0 →
    let z := { s with admits := s.admits.filter fun b => decide (b.desc ≠ (qp, sub)) }
    let r := tollgate z a.fn a.ctx a.table (shareLeft z a.fn)
    Runs (.admissionComplete qp sub) s fun t => t.admits = z.admits ∧
      (r.code = 0 → resultOf t qp sub = some { resOf 0 with value := r.step } ∧
        (a.load = false → t.runners = s.runners) ∧
        (a.load = true → (tget t.runners a.ctx).map (fun x => (x.table, x.active, x.inStep)) = some (a.table, false, false))) ∧
      (r.code ≠ 0 → t.runners = s.runners ∧
        resultOf t qp sub = some { resOf 0x12 with aux := r.code, value := r.bound - r.limit })) ∧
  (∀ s qp sub, s.admits.find? (fun a => decide (a.desc = (qp, sub))) = none → exec (.admissionComplete qp sub) s = .next s) ∧
  (∀ s x r, tget s.runners x = some r → r.readmitDue = true → r.report.1 = 0 → Runs (.readmission x) s fun t =>
    tget t.runners x = some { r with
      readmitDue := false, config := schedConfig s
      readmitFailed := decide ((tollgate s (ctxFn s x) x r.table (shareLeft s (ctxFn s x) + r.table.length)).code ≠ 0) }) ∧
  (∀ s x r, tget s.runners x = some r → r.readmitDue = false → exec (.readmission x) s = .next s) ∧
  (∀ s qp sub d x r, Started s qp sub 0x82 d → descCtx s d = some x → tget s.runners x = some r → r.active = false →
    Runs (.schedStart qp sub) s fun t => (findDesc t qp sub).map Desc.phase = some .running ∧ tget t.runners x = some { r with
      active := true, fresh := true, desc := (qp, sub), left := if dfld d 24 4 = 0 then none else some (dfld d 24 4), stops := []
      inStep := false, next := 0, laCommitted := false, laDone := false, failed := none, posted := [] }) ∧
  (∀ s qp sub d x r, Started s qp sub 0x83 d → descCtx s d = some x → tget s.runners x = some r → r.active = true →
    Runs (.schedStop qp sub) s fun t => (findDesc t qp sub).map Desc.phase = some .running ∧
      tget t.runners x = some { r with stops := r.stops ++ [(qp, sub)] }) ∧
  (∀ s qp sub d x r, Started s qp sub 0x85 d → descCtx s d = some x → tget s.runners x = some r → r.active = false →
    Runs (.schedUnload qp sub) s fun t => resultOf t qp sub = some (resOf 0) ∧ t.runners = tdel s.runners x) ∧
  (∀ (c : Instr) s qp sub d x op, Started s qp sub op d → descCtx s d = some x →
    c = .schedStart qp sub ∧ op = 0x82 ∧ (∀ r, tget s.runners x = some r → r.active = true) ∨
    c = .schedStop qp sub ∧ op = 0x83 ∧ (∀ r, tget s.runners x = some r → r.active = false) ∨
    c = .schedUnload qp sub ∧ op = 0x85 ∧ (∀ r, tget s.runners x = some r → r.active = true) →
    Runs c s fun t => resultOf t qp sub = some (refuse 0x11 0) ∧ t.runners = s.runners) ∧
  (∀ s qp sub d x r, Started s qp sub 0x84 d → descCtx s d = some x → tget s.runners x = some r →
    Runs (.schedQuery qp sub) s fun t => t.runners = s.runners ∧ resultOf t qp sub = some { resOf 0 with
      value := r.step, aux := r.overs + r.lates % 65536 * 65536, handle := r.retries
      flags := (if r.active then 1 else 0) + (if r.readmitFailed then 2 else 0) + if r.laCommitted then 4 else 0 }) ∧
  (∀ s x r e, tget s.runners x = some r → r.active = true → r.inStep = false → r.fresh = false → tget s.evs r.stepEvent = some e →
    e.signalled = true → exec (.runnerStepStart x) s = .next (issueEntries x (sHead r.table).nEnt (modRun x (fun r => { r with
      inStep := true, step := e.payload / 2 ^ 24 % 2 ^ 40, t0 := r.sigAt, next := 0, posted := [], laDone := false
      failed := none }) s))) ∧
  (∀ s x r e, tget s.runners x = some r → r.inStep = false → tget s.evs r.stepEvent = some e →
    e.signalled = false ∨ r.fresh = true ∨ r.active = false → exec (.runnerStepStart x) s = .next s) ∧
  (∀ s x r n h p, tget s.runners x = some r → sHead r.table = h → r.next < h.nEnt → r.failed = none →
    entrySkipped r (sEntry r.table h r.next) = false → getQp s r.desc.1 = some p → freeSlots p = 0 →
    issueEntries x n s = s) ∧
  (∀ s x r d st i, tget s.runners x = some r → r.active = true → r.inStep = true → r.failed = some (st, i) → stepOver s x r = true →
    findDesc s r.desc.1 r.desc.2 = some d → r.stops = [] → Runs (.runnerStepEnd x) s fun t =>
      resultOf t r.desc.1 r.desc.2 = some { resOf st with aux := i, value := r.step } ∧
      (tget t.runners x).map (fun r => (r.active, r.inStep)) = some (false, false)) ∧
  (∀ s x r, tget s.runners x = some r → r.active = true → r.inStep = true → r.failed = none → stepOver s x r = true → Quiet s →
    r.left ≠ some 1 → r.stops = [] → Runs (.runnerStepEnd x) s fun t =>
      (tget t.runners x).map (fun r => (r.active, r.inStep, r.laCommitted, r.left)) =
        some (true, false, r.laDone, r.left.map fun n => n - 1)) ∧
  (∀ s x r, tget s.runners x = some r → r.active = true → r.inStep = true → r.failed = none → stepOver s x r = true → Quiet s →
    r.left = some 1 → Runs (.runnerStepEnd x) s fun t => (tget t.runners x).map (fun r => (r.active, r.inStep)) = some (false, false)) ∧
  (∀ s x r, tget s.runners x = some r → stepOver s x r = false → exec (.runnerStepEnd x) s = .next s) ∧
  (∀ s qp sub d x, retryDue s qp sub = true → findDesc s qp sub = some d → descCtx s d = some x →
    exec (.launchRetry qp sub) s = .next (launchNow qp sub (modRun x (fun r => { r with
      retries := satAdd (2 ^ 32 - 1) r.retries 1 }) (modDesc qp sub (fun d => { d with note := 0 }) s)))) ∧
  (∀ s qp sub, retryDue s qp sub = false → exec (.launchRetry qp sub) s = .next s)

/-- R249, R385 to R399: the ingest block. -/
def Obligations.SampleStreams : Prop :=
  let at1 := fun (t : State) (n : Nat) => tget t.ing.streams n
  (∀ s qp sub d c n, Started s qp sub 0x90 d → descCtx s d = some c → needH s d Hk.mem 28 = none →
    262144 ≤ objSize s (dfld d 28 4) → needH s d Hk.ev 32 = none → needH s d Hk.ev 36 = none → confidential s = false →
    n < 64 → at1 s n = none → (∀ k, k < n → (at1 s k).isSome = true) → Runs (.streamOpen qp sub) s fun t =>
      at1 t n = some (streamNew d c s.now) ∧ (findDesc t qp sub).map Desc.phase = some .running) ∧
  (∀ s qp sub d c, Started s qp sub 0x90 d → descCtx s d = some c → needH s d Hk.mem 28 = none →
    objSize s (dfld d 28 4) < 262144 → Runs (.streamOpen qp sub) s fun t =>
      resultOf t qp sub = some (refuse 0x10 28) ∧ t.ing = s.ing) ∧
  (∀ s qp sub d c, Started s qp sub 0x90 d → descCtx s d = some c → needH s d Hk.mem 28 = none →
    262144 ≤ objSize s (dfld d 28 4) → needH s d Hk.ev 32 = none → needH s d Hk.ev 36 = none → confidential s = false →
    (∀ k, k < 64 → (at1 s k).isSome = true) → (∀ e ∈ s.ing.streams, e.2.state ≠ .closing) → Runs (.streamOpen qp sub) s fun t =>
      resultOf t qp sub = some { resOf 0x11 with value := 1 } ∧ t.ing = s.ing) ∧
  (∀ s port node n x q u d rtt, at1 s n = some x → x.state = .opening → x.server = node → x.desc = some (q, u) →
    findDesc s q u = some d → d.phase = .running → s.ing.held = true → rtt = (s.now - x.openAt + 999) / 1000 →
    ((openStreams s).map fun y => y.rate).sum + x.rate ≤ 100000 →
    ((openStreams s).map fun y => y.allow).sum + x.rate * (x.stopUs + rtt) ≤ 8388608 →
    Runs (.openAck port node n 0) s fun t =>
      at1 t n = some { x with rtt := rtt, allow := x.rate * (x.stopUs + rtt), state := .flowing, desc := none } ∧
      resultOf t q u = some { resOf 0 with aux := n, value := rtt % 65536 + x.rate * (x.stopUs + rtt) * 2 ^ 32 }) ∧
  (∀ s port node n x q u d reason, at1 s n = some x → x.state = .opening → x.server = node → x.desc = some (q, u) →
    findDesc s q u = some d → d.phase = .running → reason ≠ 0 ∨ 100000 < ((openStreams s).map fun y => y.rate).sum + x.rate →
    Runs (.openAck port node n reason) s fun t => t.ing.streams = tdel s.ing.streams n ∧
      resultOf t q u = some { resOf 0x11 with value := if reason = 0 then 2 else 5 + 256 * (reason % 256) }) ∧
  (∀ s port node n ssn reason, (∀ x, at1 s n = some x → x.server ≠ node) →
    exec (.openAck port node n reason) s = .next (routeDrop port s) ∧ exec (.holdAck port node n) s = .next (routeDrop port s) ∧
    exec (.resumeAck port node n) s = .next (routeDrop port s) ∧ exec (.closeAck port node n ssn) s = .next (routeDrop port s) ∧
    ∀ txn first b, exec (.ingestData port node n txn first b) s = .next (routeDrop port s)) ∧
  (∀ s n x q u d, at1 s n = some x → x.state = .opening → x.desc = some (q, u) → findDesc s q u = some d → d.phase = .running →
    x.ctlSends < 3 → exec (.openResend n) s = .next (ingestTell n x 1 (openBytes x)
      (modStream n (fun x => { x with ctlSends := x.ctlSends + 1, openAt := s.now }) s))) ∧
  (∀ s n x q u d, at1 s n = some x → x.state = .opening → x.desc = some (q, u) → findDesc s q u = some d → d.phase = .running →
    3 ≤ x.ctlSends → Runs (.openResend n) s fun t =>
      t.ing.streams = tdel s.ing.streams n ∧ resultOf t q u = some (resOf St.timeout)) ∧
  (∀ s qp sub d x, Started s qp sub 0x91 d → descStream s d = some (dfld d 24 1, x) → x.state ≠ .closing →
    Runs (.streamClose qp sub) s fun t =>
      (at1 t (dfld d 24 1)).map (fun x => (x.state, x.desc)) = some (.closing, some (qp, sub)) ∧
      (findDesc t qp sub).map Desc.phase = some .running) ∧
  (∀ s qp sub d x, Started s qp sub 0x91 d → descStream s d = some (dfld d 24 1, x) → x.state = .closing →
    Runs (.streamClose qp sub) s fun t => resultOf t qp sub = some (refuse 0x11 24) ∧ t.ing = s.ing) ∧
  (∀ (c : Instr) s qp sub d op, Started s qp sub op d → descStream s d = none →
    c = .streamClose qp sub ∧ op = 0x91 ∨ c = .streamQuery qp sub ∧ op = 0x92 ∨
      c = .streamPosition qp sub ∧ op = 0x93 ∧ posStream s d = none →
    Runs c s fun t => resultOf t qp sub = some (refuse 0x10 24) ∧ t.ing = s.ing) ∧
  (∀ s qp sub d x, Started s qp sub 0x92 d → descStream s d = some (dfld d 24 1, x) → Runs (.streamQuery qp sub) s fun t =>
    t.ing = s.ing ∧ resultOf t qp sub = some { resOf 0 with
      value := x.landed, handle := mkHandle Hk.mem x.dest
      aux := streamCode x.state + bufsHeld s (dfld d 24 1) % 1024 * 65536, flags := if 0 < escapeOf x then 1 else 0 }) ∧
  (∀ s qp sub d x, Started s qp sub 0x93 d → posStream s d = some (dfld d 24 1, x) → needH s d Hk.mem 28 = none →
    dfld d 32 8 % 64 = 0 → needWritable s (dfld d 28 4) (dfld d 32 8) 64 32 = none → Runs (.streamPosition qp sub) s fun t =>
      t.mem = (storeMem (.desc qp sub) (hSlot (dfld d 28 4)) (dfld d 32 8) (positionBytes (dfld d 24 1) x) s).mem ∧
      resultOf t qp sub = some (resOf 0)) ∧
  (∀ s port n txn b x k, at1 s n = some x → x.state = .flowing → txn % 65536 = x.nextTxn → x.partly = none →
    x.current = some k → 64 ≤ b.length → bin b 0 8 = x.nextSsn → 0 < bin b 8 4 → bin b 8 4 ≤ 262080 →
    b.length = 64 + roundUp (bin b 8 4) 64 → b.length ≤ landSpace x → Runs (.ingestData port x.server n txn true b) s fun t =>
      at1 t n = some { x with
        nextTxn := (txn + 1) % 65536, nextSsn := x.nextSsn + 1
        current := some { k with recs := k.recs ++ [{ ssn := x.nextSsn, count := 1, gap := false, bytes := b }] } }) ∧
  (∀ s port n txn b x, at1 s n = some x → x.state = .flowing → txn % 65536 = x.nextTxn → x.partly = none → 64 ≤ b.length →
    bin b 0 8 < x.nextSsn → Runs (.ingestData port x.server n txn true b) s fun t =>
      at1 t n = some { x with nextTxn := (txn + 1) % 65536 }) ∧
  (∀ s port n txn first b x, at1 s n = some x → x.state = .closing ∨ x.state = .failed →
    exec (.ingestData port x.server n txn first b) s = .next s) ∧
  (∀ s n x b, at1 s n = some x → x.current = some b → b.recs ≠ [] → x.partly = none → Runs (.idleFlush n) s fun t =>
    at1 t n = some { x with handed := x.handed ++ [b], current := none }) ∧
  (∀ s n x, at1 s n = some x → x.current = none → exec (.idleFlush n) s = .next s) ∧
  (∀ s port n x, at1 s n = some x → x.state = .holding → x.awaiting = some true → exec (.holdAck port x.server n) s =
    .next (drainStream n (modStream n (fun x => { x with state := .draining, awaiting := none }) s))) ∧
  (∀ s port n x, at1 s n = some x → x.state = .flowing → x.awaiting = some false → Runs (.resumeAck port x.server n) s fun t =>
    at1 t n = some { x with awaiting := none } ∧ Only (partMask [.ing]) s t) ∧
  (∀ s n x h, at1 s n = some x → x.awaiting = some h → x.sends < 8 → exec (.holdResendTimer n) s = .next (ingestTell n x
    (if h then 3 else 5) [] (modStream n (fun x => { x with sends := x.sends + 1 }) s))) ∧
  (∀ s n x h, at1 s n = some x → x.awaiting = some h → 8 ≤ x.sends → Quiet s → Runs (.holdResendTimer n) s fun t =>
    (at1 t n).map (fun x => (x.state, x.awaiting)) = some (.failed, none)) ∧
  (∀ s port n x ssn, at1 s n = some x → x.state = .closing → exec (.closeAck port x.server n ssn) s =
    .next (tryClose n (modStream n (fun x => { x with closeDone := true }) s))) ∧
  (∀ s n x, at1 s n = some x → x.state = .closing → x.closeDone = false → x.ctlSends < 3 → exec (.closeResend n) s =
    .next (ingestTell n x 7 [] (modStream n (fun x => { x with ctlSends := x.ctlSends + 1 }) s))) ∧
  (∀ s n x, at1 s n = some x → x.state = .closing → x.closeDone = false → 3 ≤ x.ctlSends → exec (.closeResend n) s =
    .next (tryClose n (modStream n (fun x => { x with closeDone := true }) s))) ∧
  (∀ s n x q u d, at1 s n = some x → x.state = .closing → x.closeDone = true → landedRecs x = [] → x.handed = [] →
    x.current = none → bufsHeld s n = 0 → x.desc = some (q, u) → findDesc s q u = some d →
    (tryClose n s).ing.streams = tdel s.ing.streams n ∧
      resultOf (tryClose n s) q u = some { resOf 0 with value := x.landed, aux := x.discarded }) ∧
  (∀ s n x b rest m lay landed, at1 s n = some x → x.state ≠ .closing → x.handed = b :: rest → tget s.mems x.dest = some m →
    Quiet s → lay = layRing (m.size / 64 * 64) ((b.recs.map (moveRec s x)).map Prod.fst) x.landed →
    landed = ((lay.2.getLast?).map Prod.fst).getD x.landed →
    0 < m.size / 64 * 64 → landed - x.consumed ≤ m.size / 64 * 64 → Runs (.moverCopy n) s fun t =>
      (at1 t n).map (fun x => (x.handed, x.landed)) = some (rest, landed) ∧
      t.mem = (lay.1.foldl (fun s w => storeBlk x.dest w.1 w.2 s) s).mem) ∧
  (∀ s n x, at1 s n = some x → x.handed = [] → exec (.moverCopy n) s = .next s) ∧
  (∀ s pool r, pool ≠ 0 → r < (poolOf s pool).n → exec (.allocRequest pool [r]) s =
    .next (modPool pool (fun a => (allocReq (fun _ => true) r a).2) s)) ∧
  (∀ s reqs, exec (.allocRequest 0 reqs) s = .next ((reqOrder (poolOf s 0) reqs).foldl (fun s n => drainStream n s) s)) ∧
  (∀ r a b, tget a.reserved r = some b → (allocReq (fun _ => true) r a).1 = some b) ∧
  (∀ r a b, tget a.reserved r = none → b ∈ a.free → (∀ c ∈ a.free, b ≤ c) → (allocReq (fun _ => true) r a).1 = some b) ∧
  (∀ r a, tget a.reserved r = none → a.free = [] → allocReq (fun _ => true) r a = (none, { a with line := linsert a.line r })) ∧
  (∀ s pool b r, pool ≠ 0 → tget (poolOf s pool).held b = some r → exec (.bufferFree pool b) s = .next (modPool pool (allocFree b) s)) ∧
  (∀ s b r, tget (poolOf s 0).held b = some r → b ∈ s.ing.emptied → bufUp s b = true → exec (.bufferFree 0 b) s =
    .next (tryClose r (tryResume r (modPool 0 (allocFree b)
      { s with ing := { s.ing with emptied := s.ing.emptied.filter fun c => decide (c ≠ b) } })))) ∧
  (∀ s b, b ∉ s.ing.emptied → exec (.bufferFree 0 b) s = .next s) ∧
  (∀ a b r l, a.line = r :: l → (allocFree b a).line = l ∧ tget (allocFree b a).reserved r = some b) ∧
  (∀ s pool r, exec (.reservationLapse pool r) s = .next (modPool pool (allocLapse r) s)) ∧
  (∀ a r b q l, tget a.reserved r = some b → a.line = q :: l → tget (allocLapse r a).reserved q = some b ∧ (allocLapse r a).line = l)

/-- R402 to R416, R422: taking a checkpoint. -/
def Obligations.CheckpointsTaken : Prop :=
  (∀ s qp sub d c p, Started s qp sub 0xA0 d → descCtx s d = some c → readPlan s d c = .inr p → (ckpOf s c).run = none →
    (ckpOf s c).plan = none → 65536 * planGranules p ≤ shareLeft s d.fn → Runs (.ckpConfig qp sub) s fun t =>
      ckpOf t c = { ckpOf s c with plan := some p, trigger := false } ∧ resultOf t qp sub = some (resOf 0)) ∧
  (∀ s qp sub d c f, Started s qp sub 0xA0 d → descCtx s d = some c → readPlan s d c = .inl f → confidential s = false →
    Runs (.ckpConfig qp sub) s fun t => t.ckp = s.ckp ∧ resultOf t qp sub = some f.1) ∧
  (∀ s qp sub d c p, Started s qp sub 0xA0 d → descCtx s d = some c → readPlan s d c = .inr p → (ckpOf s c).run ≠ none →
    Runs (.ckpConfig qp sub) s fun t => t.ckp = s.ckp ∧ resultOf t qp sub = some (refuse 0x11 24)) ∧
  (∀ s qp sub d c, Started s qp sub 0xA1 d → descCtx s d = some c → (ckpOf s c).plan ≠ none → Runs (.ckpTrigger qp sub) s fun t =>
    ckpOf t c = { ckpOf s c with trigger := true } ∧ resultOf t qp sub = some (resOf 0)) ∧
  (∀ s qp sub d c, Started s qp sub 0xA1 d → descCtx s d = some c → (ckpOf s c).plan = none → Runs (.ckpTrigger qp sub) s fun t =>
    t.ckp = s.ckp ∧ resultOf t qp sub = some (refuse 0x11 0)) ∧
  (∀ s qp sub d c, Started s qp sub 0xA2 d → descCtx s d = some c → (ckpOf s c).run = none → Runs (.ckpDisarm qp sub) s fun t =>
    ckpOf t c = { ckpOf s c with plan := none, disarm := [], trigger := false } ∧ resultOf t qp sub = some (resOf 0)) ∧
  (∀ s qp sub d c, Started s qp sub 0xA2 d → descCtx s d = some c → (ckpOf s c).run ≠ none → Runs (.ckpDisarm qp sub) s fun t =>
    ckpOf t c = { ckpOf s c with disarm := (ckpOf s c).disarm ++ [(qp, sub)] } ∧
      (findDesc t qp sub).map Desc.phase = some .running) ∧
  (∀ s qp sub d c, Started s qp sub 0xA4 d → descCtx s d = some c → restoreLive s c = none → (ckpOf s c).run = none →
    Runs (.ckpQuery qp sub) s fun t => t.ckp = s.ckp ∧ resultOf t qp sub = some { resOf 0 with
      value := (ckpOf s c).last.getD (2 ^ 64 - 1)
      aux := (if (ckpOf s c).plan = none then 0 else 1) + min (ckpOf s c).skipped 65535 * 65536
      flags := if (ckpOf s c).lastBuddy then 1 else 0 }) ∧
  (∀ s c p r, (ckpOf s c).plan = some p → (ckpOf s c).run = some r → r.phase = .snapshot → p.fast = false →
    (∀ o ∈ s.col.ops, o.id ∈ r.awaited → o.state ≠ .running) → Runs (.snapshotPoint c) s fun t =>
      (ckpOf t c).run = some { r with phase := .streaming, head := ckpHead s c r.step p } ∧
      tget t.ckp.xfers s.ckp.nextTxn = some (xferNew p.storeNode c .shardPut (objName p.job r.step p.rank 0 p.inc)
        (chunkCount (planLen p) 1048576) [] (0, 0))) ∧
  (∀ s c p r o, (ckpOf s c).plan = some p → (ckpOf s c).run = some r → o ∈ s.col.ops → o.id ∈ r.awaited → o.state = .running →
    exec (.snapshotPoint c) s = .next s) ∧
  (∀ s txn x base b, tget s.ckp.xfers txn = some x → x.kind = .shardPut → x.opened = true → x.next < x.chunks →
    chunksOut x < x.window → putChunk s x x.next = some (base, b) → Runs (.chunkSend txn) s fun t =>
      tget t.ckp.xfers txn = some { x with next := x.next + 1, unacked := tput x.unacked x.next 0 } ∧
      t.ckp.bytesOut = (s.ckp.bytesOut + b.length) % 2 ^ 64 ∧ t.mem = s.mem) ∧
  (∀ s txn x, tget s.ckp.xfers txn = some x → x.kind = .shardPut → x.opened = true → x.next < x.chunks → chunksOut x < x.window →
    putChunk s x x.next = none → exec (.chunkSend txn) s = .next (ckpFail x.ctx 3 s)) ∧
  (∀ s txn x, tget s.ckp.xfers txn = some x → x.opened = false ∨ x.chunks ≤ x.next ∨ x.window ≤ chunksOut x →
    exec (.chunkSend txn) s = .next s) ∧
  (∀ s c k p w node rank shape digest len store buddy, s.ckp.ctxs = [(c, k)] → k.plan = some p → k.mani = some w →
    p.maniNode = nodeId s → w.sent = none → shape = shapeDigest p → rank < p.nNodes →
    (tput w.reports rank { node := node, digest := digest, len := len, store := store, buddy := buddy }).length < p.nNodes →
    Runs (.digestReport node rank w.step p.inc shape digest len store buddy 0) s fun t => (ckpOf t c).mani = some { w with
      reports := tput w.reports rank { node := node, digest := digest, len := len, store := store, buddy := buddy } }) ∧
  (∀ s c k p w node rank shape digest len store buddy, s.ckp.ctxs = [(c, k)] → k.plan = some p → k.mani = some w →
    p.maniNode = nodeId s → w.sent = none → shape = shapeDigest p → rank < p.nNodes →
    p.nNodes ≤ (tput w.reports rank { node := node, digest := digest, len := len, store := store, buddy := buddy }).length →
    Runs (.digestReport node rank w.step p.inc shape digest len store buddy 0) s fun t =>
      (tget t.ckp.xfers s.ckp.nextTxn).map (fun x => (x.node, x.ctx, x.kind, x.name)) =
        some (p.storeNode, c, .maniPut, objName p.job w.step 0xFFFFFFFF 1 p.inc)) ∧
  (∀ s c k p w node rank inc shape digest len store buddy result, s.ckp.ctxs = [(c, k)] → k.plan = some p → k.mani = some w →
    p.maniNode = nodeId s → w.sent = none → w.reports = [] → node ≠ nodeId s →
    result ≠ 0 ∨ inc ≠ p.inc ∨ shape ≠ shapeDigest p ∨ p.nNodes ≤ rank →
    Runs (.digestReport node rank w.step inc shape digest len store buddy result) s fun t =>
      (ckpOf t c).mani.map (fun w => w.sent) = some (some false)) ∧
  (∀ s c k p r, s.ckp.ctxs = [(c, k)] → k.plan = some p → k.run = some r → r.phase = .manifest → p.doneEvent = none →
    k.disarm = [] → Runs (.manifestDone p.maniNode r.step p.inc 0) s fun t =>
      ckpOf t c = { k with run := none, last := some r.step, lastBuddy := r.buddy } ∧ t.ckp.done = satAdd 65535 s.ckp.done 1) ∧
  (∀ s c k p r result, s.ckp.ctxs = [(c, k)] → k.plan = some p → k.run = some r → p.doneEvent = none → k.disarm = [] →
    result ≠ 0 → Runs (.manifestDone p.maniNode r.step p.inc result) s fun t =>
      ckpOf t c = { k with run := none } ∧ t.ckp.failed = satAdd 255 s.ckp.failed 1 ∧
      (tgetD (attOf t (ctxFn s c)).entries 0x60 attInit).pending = true) ∧
  (∀ s c w, (ckpOf s c).mani = some w → w.sent = none → exec (.manifestWaitExpire c true) s = .next (maniSend c false s)) ∧
  (∀ s c r, (ckpOf s c).run = some r → r.phase ≠ .snapshot → exec (.manifestWaitExpire c false) s = .next (ckpFail c 5 s)) ∧
  (∀ s c r, (ckpOf s c).run = some r → r.phase = .snapshot → exec (.manifestWaitExpire c false) s = .next s)

/-- R410 to R413, R417 to R420: moving and restoring stored bytes. -/
def Obligations.CheckpointTransfers : Prop :=
  let xf := fun (t : State) (n : Nat) => tget t.ckp.xfers n
  (∀ s port node txn status chunk window, xf s txn = none → exec (.ack port node txn status chunk window) s = .next (routeDrop port s)) ∧
  (∀ s port txn chunk w x, xf s txn = some x → x.kind = .shardPut → x.opened = false → 1 ≤ w → w ≤ 255 →
    Runs (.ack port x.node txn 0 chunk w) s fun t =>
      xf t txn = some { x with opened := true, window := w, unacked := tdel x.unacked reqKey } ∧ Only (partMask [.ckp]) s t) ∧
  (∀ s port txn chunk w x, xf s txn = some x → x.kind = .shardPut → x.opened = true → x.closing = false → x.next < x.chunks →
    1 ≤ w → w ≤ 255 → Runs (.ack port x.node txn 0 chunk w) s fun t =>
      xf t txn = some { x with window := w, unacked := tdel x.unacked chunk } ∧ Only (partMask [.ckp]) s t) ∧
  (∀ s port txn status chunk w x, xf s txn = some x → x.kind = .shardPut → status ≠ 0 →
    exec (.ack port x.node txn status chunk w) s = .next (ckpFail x.ctx 1 (dropXfer txn s))) ∧
  (∀ s t x r, x.kind = .buddyPut → (ckpOf s x.ctx).run = some r → ∀ lost,
    xferFails t x lost s = ckpPost x.ctx r.step 6 (dropXfer t s)) ∧
  (∀ s txn x n, xf s txn = some x → x.kind = .shardPut → tget x.unacked reqKey = some n → 2 ≤ n →
    exec (.chunkResendTimer txn none) s = .next (ckpFail x.ctx 2 (dropXfer txn s))) ∧
  (∀ s txn x c n base b, xf s txn = some x → x.kind = .shardPut → tget x.unacked c = some n → n < 2 →
    putChunk s x c = some (base, b) → Runs (.chunkResendTimer txn (some c)) s fun t =>
      xf t txn = some { x with unacked := tput x.unacked c (n + 1) } ∧ t.mem = s.mem) ∧
  (∀ s txn chunk, xf s txn = none → exec (.chunkResendTimer txn chunk) s = .next s) ∧
  (∀ s port txn x r, xf s txn = some x → x.kind = .shardPut → x.closing = true → (ckpOf s x.ctx).run = some r →
    (∀ p, (ckpOf s x.ctx).plan = some p → p.maniNode ≠ nodeId s) → Runs (.durable port x.node txn) s fun t =>
      (ckpOf t x.ctx).run = some { r with phase := .manifest } ∧ t.ckp.xfers = tdel s.ckp.xfers txn) ∧
  (∀ s port txn x r, xf s txn = some x → x.kind = .buddyPut → x.closing = true → (ckpOf s x.ctx).run = some r →
    Runs (.durable port x.node txn) s fun t => (ckpOf t x.ctx).run = some { r with buddy := true } ∧
      t.ckp.xfers = tdel s.ckp.xfers txn ∧ Only (partMask [.ckp]) s t) ∧
  (∀ s port node txn x, xf s txn = some x → x.closing = false → exec (.durable port node txn) s = .next (routeDrop port s)) ∧
  (∀ s node txn name len, buddyServes s node = false → exec (.putOpen node txn name len) s =
    .next (fileRsp node 0x81 txn [3, 0, 1 + freeNow s % 255] (tookFree s))) ∧
  (∀ s node txn name len, buddyServes s node = true → bin name 20 1 = 2 → s.ckp.slotA = none → s.ckp.slotB = none →
    len ≤ s.ckp.gib / 2 * 2 ^ 30 → Runs (.putOpen node txn name len) s fun t =>
      t.ckp.slotA = some { name := name, len := len, pieces := [], acked := [], whole := false, txn := txn } ∧
      t.ckp.slotB = none) ∧
  (∀ s node txn name len x, buddyServes s node = true → bin name 20 1 = 2 → s.ckp.slotA = some x → x.whole = true →
    x.name ≠ name → s.ckp.slotB = none → s.ckp.lastB = false → len ≤ s.ckp.gib / 2 * 2 ^ 30 →
    Runs (.putOpen node txn name len) s fun t => t.ckp.slotA = some x ∧
      t.ckp.slotB = some { name := name, len := len, pieces := [], acked := [], whole := false, txn := txn }) ∧
  (∀ s port txn off b x, xf s txn = some x → x.kind = .storeGet → Runs (.ckpData port x.node txn off b) s fun t =>
    xf t txn = some { x with pieces := tput x.pieces off b, opened := true, unacked := [(reqKey, 0)] } ∧
    Only (partMask [.ckp]) s t) ∧
  (∀ s port node txn off b, xf s txn = none → (slotOfTxn s txn).isSome = true →
    exec (.ckpData port node txn off b) s = .next (putData node txn off b s)) ∧
  (∀ s port node txn off b, xf s txn = none → slotOfTxn s txn = none →
    exec (.ckpData port node txn off b) s = .next (routeDrop port s)) ∧
  (∀ s node txn digest x bytes, slotOfTxn s txn = some (false, x) → buddyServes s node = true →
    piecesSpan x.pieces 0 x.len = some bytes → (Config.sha384 bytes).toNat = digest → Runs (.putClose node txn digest) s fun t =>
      t.ckp.slotA = some { x with whole := true } ∧ t.ckp.lastB = false ∧ t.ckp.slotB = s.ckp.slotB) ∧
  (∀ s node txn digest b x bytes, slotOfTxn s txn = some (b, x) → buddyServes s node = true →
    piecesSpan x.pieces 0 x.len = some bytes → (Config.sha384 bytes).toNat ≠ digest →
    exec (.putClose node txn digest) s = .next (fileRsp node 0x81 txn [3, 0, 1] s)) ∧
  (∀ s node txn name first count bad, buddyServes s node = false → exec (.getOpen node txn name first count bad) s =
    .next (fileRsp node 0x81 txn [3, 0, 1 + freeNow s % 255] (tookFree s))) ∧
  (∀ s node txn name first count bad, buddyServes s node = true → (∀ e ∈ slotsOf s, e.2.whole = false ∨ e.2.name ≠ name) →
    exec (.getOpen node txn name first count bad) s = .next (fileRsp node 0x81 txn [2, 0, 1 + freeNow s % 255] (tookFree s))) ∧
  (∀ s node txn first x b, buddyServes s node = true → s.ckp.slotA = some x → x.whole = true →
    first < chunkCount x.len storedChunk →
    piecesSpan x.pieces (first * storedChunk) (min (first * storedChunk + storedChunk) x.len) = some b →
    exec (.getOpen node txn x.name first 1 []) s = .next (sendPieces node txn (first * storedChunk) b
      (fileRsp node 0x81 txn [0, first, 1 + freeNow s % 255] (tookFree s)))) ∧
  (∀ s qp sub d c p x, Started s qp sub 0xA3 d → descCtx s d = some c → readPlan s d c = .inr p → needH s d Hk.mem 28 = none →
    dfld d 40 8 % 64 = 0 → needWritable s (dfld d 28 4) (dfld d 40 8) (64 * planStreams p) 40 = none → tget s.ctxs c = some x →
    x.state = .live → s.tsk.launches = [] → s.tsk.gens = [] → tget s.runners c = none → (ckpOf s c).run = none →
    (ckpOf s c).restore = none → Runs (.ckpRestore qp sub) s fun t => (findDesc t qp sub).map Desc.phase = some .running ∧
      (ckpOf t c).restore.map (fun r => (r.desc, r.plan, r.step, r.inc, r.store, r.fell)) =
        some ((qp, sub), p, dfld d 48 8, dfld d 60 2, dfld d 56 3, false) ∧ t.mem = s.mem) ∧
  (∀ s qp sub d c p, Started s qp sub 0xA3 d → descCtx s d = some c → readPlan s d c = .inr p → needH s d Hk.mem 28 = none →
    dfld d 40 8 % 64 = 0 → needWritable s (dfld d 28 4) (dfld d 40 8) (64 * planStreams p) 40 = none → (ckpOf s c).run ≠ none →
    Runs (.ckpRestore qp sub) s fun t => t.ckp = s.ckp ∧ resultOf t qp sub = some (refuse 0x11 0)) ∧
  (∀ s port txn status len valid x, xf s txn = some x → x.kind = .stat → status ≠ 0 ∨ valid = false →
    exec (.statRsp port x.node txn status len valid) s = .next (restoreRefuse x.ctx 1 (dropXfer txn s))) ∧
  (∀ s port txn len x, xf s txn = some x → x.kind = .stat → exec (.statRsp port x.node txn 0 len true) s =
    .next (restoreManifest x.ctx (modRst x.ctx (fun r => { r with stat := some (0, len, true) }) (dropXfer txn s)))) ∧
  (∀ s c r d n, restoreLive s c = some (r, d) → r.fell = false → confidential s = false →
    resultOf (restoreRefuse c n s) r.desc.1 r.desc.2 = some (refuse 0x11 n)) ∧
  (∀ s c r d b buddy plain, restoreLive s c = some (r, d) → r.mani ≠ [] → r.got.length < rstChunks r → r.got ≠ [] →
    chunkAt s c r r.got.length = some (b, buddy) → openChunk (planKey s r.plan) r r.got.length b = some plain →
    exec (.restoreChunk c) s = .next (writeRanges { r with
        got := r.got ++ [b], fromStore := r.fromStore + if buddy then 0 else 1 } r.got.length plain
      (modRst c (fun _ => { r with got := r.got ++ [b], fromStore := r.fromStore + if buddy then 0 else 1 }) s))) ∧
  (∀ s c r d b buddy, restoreLive s c = some (r, d) → r.mani ≠ [] → r.got.length < rstChunks r →
    chunkAt s c r r.got.length = some (b, buddy) → openChunk (planKey s r.plan) r r.got.length b = none →
    exec (.restoreChunk c) s = .next (if buddy then refetch c r.got.length s else shardFails c s)) ∧
  (∀ s c r d, restoreLive s c = some (r, d) → r.mani = [] ∨ rstChunks r ≤ r.got.length → exec (.restoreChunk c) s = .next s) ∧
  (∀ s c r d x, restoreLive s c = some (r, d) → r.mani ≠ [] → r.got.length = rstChunks r → r.fell = false → tget s.ctxs c = some x →
    (Config.sha384 r.got.flatten).toNat = bin (maniEntry r.mani r.plan.rank) 0 48 → Runs (.restoreComplete c) s fun t =>
      resultOf t r.desc.1 r.desc.2 = some { resOf 0 with
        value := r.step, aux := r.fromStore, flags := if r.fromStore = 0 then 2 else 0 } ∧
      (tget t.ctxs c).map (fun x => (x.seed, x.mode)) = some (BitVec.ofNat 256 (bin r.head 40 32), (bin r.head 36 1).testBit 0) ∧
      (ckpOf t c).restore = none) ∧
  (∀ s c r d, restoreLive s c = some (r, d) → r.mani ≠ [] → r.got.length = rstChunks r →
    (Config.sha384 r.got.flatten).toNat ≠ bin (maniEntry r.mani r.plan.rank) 0 48 →
    exec (.restoreComplete c) s = .next (shardFails c s)) ∧
  (∀ s c, restoreLive s c = none → exec (.restoreChunk c) s = .next s ∧ exec (.restoreComplete c) s = .next s)

/-- R435 to R453: sessions, keys and the handshake of a link. -/
def Obligations.ConfidentialSessions : Prop :=
  let config := fun (d : Desc) (b : List Byte) => padTo (dfld d 32 4) 0 b
  (∀ s qp sub d b, Started s qp sub 0x60 d → mayOpen s true = true → 320 ≤ dfld d 32 4 → dfld d 32 4 ≤ 295168 →
    configFail (config d b) (dfld d 32 4) = none → s.sec.pk.length ≤ 1026 → Runs (.sessionOpen qp sub true (some b)) s fun t =>
      t.sec.session = .opening ∧ t.sec.config = some (configOf (config d b)) ∧ t.sec.sessDesc = some (qp, sub) ∧
      t.sec.pk = s.sec.pk ++ [.desc qp sub [], .desc qp sub []] ∧ (findDesc t qp sub).map Desc.phase = some .running) ∧
  (∀ s qp sub d b o, Started s qp sub 0x60 d → mayOpen s true = true → 320 ≤ dfld d 32 4 → dfld d 32 4 ≤ 295168 →
    configFail (config d b) (dfld d 32 4) = some o → Runs (.sessionOpen qp sub true (some b)) s fun t =>
      t.sec = s.sec ∧ resultOf t qp sub = some { resOf 0x11 with value := o }) ∧
  (∀ s qp sub d bound cfg, Started s qp sub 0x60 d → mayOpen s bound = false → Runs (.sessionOpen qp sub bound cfg) s fun t =>
    t.sec.refusals = s.sec.refusals ++ [(qp, sub)] ∧ t.sec.session = s.sec.session ∧
    (findDesc t qp sub).map Desc.phase = some .running) ∧
  (∀ s q u d, s.sec.pk = [.desc q u []] → findDesc s q u = some d → d.phase = .running → dOp d = 0x60 → s.sec.session = .opening →
    Runs .publicKeySlotEnd s fun t => t.sec.pk = [] ∧ t.ime.layout = .switching ∧ t.sec.attKey.isSome = true ∧
      t.sec.kaKey.isSome = true ∧ (tget t.ime.keys 1).isSome = true ∧ t.sec.session = .opening) ∧
  (∀ s q u d c, s.sec.session = .opening → s.ime.layout = .switching → s.sec.sessDesc = some (q, u) → s.sec.config = some c →
    findDesc s q u = some d → Runs .layoutSwitchDone s fun t => t.sec.session = .open_ ∧ t.ime.layout = .protected_ ∧
      t.sec.slog = [] ∧ t.sec.reports = 0 ∧ resultOf t q u = some { resOf 0 with value := c.digest.toNat % 2 ^ 64 }) ∧
  (∀ s, s.sec.session ≠ .opening → exec .layoutSwitchDone s = .next s) ∧
  (∀ s qp sub d, Started s qp sub 0x61 d → s.sec.session ≠ .open_ → Runs (.sessionClose qp sub) s fun t =>
    t.sec = s.sec ∧ resultOf t qp sub = some (refuse 0x11 0)) ∧
  (∀ s qp sub d, Started s qp sub 0x61 d → s.sec.session = .open_ → s.ctxs = [] → s.ckp.ctxs = [] → Quiet s →
    Runs (.sessionClose qp sub) s fun t => t.sec.session = .none_ ∧ t.ime.layout = .plain ∧
      resultOf t qp sub = some (resOf 0)) ∧
  (∀ s qp sub, (qp, sub) ∈ s.sec.refusals → (findDesc s qp sub).isSome = true → Runs (.uniformRefusalWrite qp sub) s fun t =>
    resultOf t qp sub = some (resOf 0x13) ∧ t.sec = { s.sec with refusals := s.sec.refusals.erase (qp, sub) }) ∧
  (∀ s qp sub, (qp, sub) ∉ s.sec.refusals → exec (.uniformRefusalWrite qp sub) s = .next s) ∧
  (∀ s d reason, confidential s = true → (uniformRefuse d reason s).sec.slog.head? = some
    { time := timeBase s, op := dOp d, reason := reason, index := d.pos % 65536, detail := 0 }) ∧
  (∀ s qp sub d, Started s qp sub 0x62 d → needH s d Hk.mem 24 = none → dfld d 32 8 % 64 = 0 →
    needWritable s (dfld d 24 4) (dfld d 32 8) 576 32 = none → poisonedIn s (hSlot (dfld d 24 4)) (dfld d 32 8) 32 = false →
    s.sec.pk.length < 1028 → Runs (.sessionReport qp sub) s fun t => (findDesc t qp sub).map Desc.phase = some .running ∧
      t.sec.pk = s.sec.pk ++ [.desc qp sub (readMem s (.desc qp sub) (hSlot (dfld d 24 4)) (dfld d 32 8) 32)]) ∧
  (∀ s d nonce, findDesc s d.qp d.sub = some d → stillWritable s (hSlot (dfld d 24 4)) (dfld d 32 8) 576 = true →
    resultOf (reportEnds d nonce s) d.qp d.sub = some { resOf 0 with value := s.sec.reports + 1 } ∧
    (reportEnds d nonce s).mem = (storeMem (.desc d.qp d.sub) (hSlot (dfld d 24 4)) (dfld d 32 8)
      (reportBytes17 s nonce (s.sec.reports + 1)) s).mem) ∧
  (∀ s qp sub d c n, Started s qp sub 0x63 d → descCtx s d = some c → needH s d Hk.mem 24 = none → dfld d 40 1 = 0 →
    needRange s (dfld d 24 4) (dfld d 32 8) 32 32 = none → confidential s = false →
    poisonedIn s (hSlot (dfld d 24 4)) (dfld d 32 8) 32 = false → quotaFail s d.fn Hk.key = none →
    slotChoose s.cmd.keySlots (kindSlots Hk.key) = some n → Runs (.keyImport qp sub) s fun t =>
      tget t.sec.keys n = some { ctx := c, kind := 2, contrib := 0, aborting := false
                                 key := ofLe (readMem s (.desc qp sub) (hSlot (dfld d 24 4)) (dfld d 32 8) 32) } ∧
      resultOf t qp sub = some { resOf 0 with handle := mkHandle Hk.key n }) ∧
  (∀ s qp sub d c, Started s qp sub 0x63 d → descCtx s d = some c → needH s d Hk.mem 24 = none → dfld d 40 1 = 0 →
    needRange s (dfld d 24 4) (dfld d 32 8) 32 32 = none → confidential s = true → Runs (.keyImport qp sub) s fun t =>
      t.sec.keys = s.sec.keys ∧ t.sec.refusals = s.sec.refusals ++ [(qp, sub)]) ∧
  (∀ s qp sub d x, Started s qp sub 0x64 d → needH s d Hk.key 24 = none → tget s.sec.keys (hSlot (dfld d 24 4)) = some x →
    s.ckp.ctxs = [] → Runs (.keyErase qp sub) s fun t => tget t.sec.keys (hSlot (dfld d 24 4)) = some { x with aborting := true } ∧
      (findDesc t qp sub).map Desc.phase = some .running) ∧
  (∀ s qp sub d n, Started s qp sub 0x65 d → confidential s = true → s.sec.entropyOk = true → 2 ≤ n → n < 256 →
    tget s.ime.keys n = none → (∀ k, 2 ≤ k → k < n → (tget s.ime.keys k).isSome = true) → Runs (.memkeyLoad qp sub) s fun t =>
      (tget t.ime.keys n).isSome = true ∧ resultOf t qp sub = some { resOf 0 with aux := n }) ∧
  (∀ s qp sub d, Started s qp sub 0x65 d → confidential s = false → Runs (.memkeyLoad qp sub) s fun t =>
    t.ime = s.ime ∧ resultOf t qp sub = some (refuse 0x11 0)) ∧
  (∀ s qp sub d k, Started s qp sub 0x66 d → dfld d 24 1 = k → 2 ≤ k → confidential s = true → (tget s.ime.keys k).isSome = true →
    Runs (.memkeyErase qp sub) s fun t => let used := (s.mems.filter fun e => decide (e.2.keyId = k)).length
      (used = 0 → t.ime = { s.ime with keys := tdel s.ime.keys k } ∧ resultOf t qp sub = some (resOf 0)) ∧
      (used ≠ 0 → t.ime = s.ime ∧ resultOf t qp sub = some (refuse 0x11 used))) ∧
  (∀ s qp sub d k, Started s qp sub 0x66 d → dfld d 24 1 = k → k ≤ 1 → Runs (.memkeyErase qp sub) s fun t =>
    t.ime = s.ime ∧ resultOf t qp sub = some (refuse (if k = 0 then 0x10 else 0x11) 24)) ∧
  (∀ s qp sub d, Started s qp sub 0x67 d → needH s d Hk.mem 24 = none → needH s d Hk.mem 28 = none →
    needRange s (dfld d 24 4) (dfld d 32 8) (dfld d 40 8) 32 = none → needWritable s (dfld d 28 4) (dfld d 48 8) 48 48 = none →
    poisonedIn s (hSlot (dfld d 24 4)) (dfld d 32 8) (dfld d 40 8) = false → Runs (.weightMeasure qp sub) s fun t =>
      let h := Config.sha384 (readMem s (.desc qp sub) (hSlot (dfld d 24 4)) (dfld d 32 8) (dfld d 40 8))
      t.sec = { s.sec with weightChain := chainExtend s.sec.weightChain h, nWeights := s.sec.nWeights + 1 } ∧
      t.mem = (storeMem (.desc qp sub) (hSlot (dfld d 28 4)) (dfld d 48 8) (leBytes 48 h.toNat) s).mem ∧
      resultOf t qp sub = some { resOf 0 with aux := s.sec.nWeights + 1 }) ∧
  (∀ s qp sub d, Started s qp sub 0x68 d → needH s d Hk.mem 24 = none →
    needWritable s (dfld d 24 4) (dfld d 32 8) (dfld d 40 8) 32 = none → 120 ≤ dfld d 40 8 → confidential s = true →
    s.sec.entropyOk = true → s.sec.pk.length < 1028 → Runs (.logExport qp sub) s fun t =>
      t.sec.pk = s.sec.pk ++ [.desc qp sub []] ∧ (findDesc t qp sub).map Desc.phase = some .running) ∧
  (∀ s p switch b, portLegal p = true → confidential s = true → (portOf s p).state = .secureWait → (portOf s p).hs = .offered →
    offerOk s (portOf s p) switch b = true → s.sec.pk.length < 1028 → Runs (.offer p switch b) s fun t =>
      (portOf t p).hs = .proving ∧ (portOf t p).hsOffers = ((portOf s p).hsOffers.1, b) ∧ t.sec.pk = s.sec.pk ++ [.port p]) ∧
  (∀ s p switch b, portLegal p = true → confidential s = true → (portOf s p).state = .secureWait → (portOf s p).hs = .offered →
    offerOk s (portOf s p) switch b = false → exec (.offer p switch b) s = .next (hsFail p s)) ∧
  (∀ s p sig, portLegal p = true → (portOf s p).hs = .proving → (portOf s p).hsProofs = ([], []) → Runs (.proof p sig) s fun t =>
    portOf t p = { portOf s p with hsProofs := ([], sig) } ∧ Only (partMask [.lnk]) s t) ∧
  (∀ s p sig own, portLegal p = true → (portOf s p).hs = .proving → (portOf s p).hsProofs = (own, []) → own ≠ [] →
    s.sec.pk.length < 1028 → Runs (.proof p sig) s fun t => (portOf t p).hsProofs = (own, sig) ∧ t.sec.pk = s.sec.pk ++ [.port p]) ∧
  (∀ s p mac, portLegal p = true → (portOf s p).hs = .finishing → mac ≠ finishMac s (portOf s p) p →
    exec (.finish p mac) s = .next (hsFail p s)) ∧
  (∀ s p, portLegal p = true → (portOf s p).hs = .finishing → Runs (.finish p (finishMac s (portOf s p) p)) s fun t =>
    (portOf t p).secured = true ∧ (portOf t p).hs = .idle) ∧
  (∀ s p mac, portLegal p = true → (portOf s p).hs = .proving → Runs (.finish p mac) s fun t =>
    portOf t p = { portOf s p with hsFinish := mac } ∧ Only (partMask [.lnk]) s t) ∧
  (∀ s p, portLegal p = true → (portOf s p).hs ≠ .idle → Runs (.reject p) s fun t => (portOf t p).hs = .rejected) ∧
  (∀ s p, portLegal p = true → (portOf s p).hs = .rejected → exec (.handshakeRetry p) s =
    .next (hsBegin p (modPort p (fun x => { x with hs := .idle }) s))) ∧
  (∀ s p, (portOf s p).hs ≠ .rejected → exec (.handshakeRetry p) s = .next s) ∧
  (∀ s, s.sec.pk = [] → exec .publicKeySlotEnd s = .next s) ∧
  (∀ s p l, s.sec.pk = .port p :: l → exec .publicKeySlotEnd s = .next (portSlotEnds p { s with sec := { s.sec with pk := l } })) ∧
  (∀ s, Runs .entropyHealthFailure s fun t => t.sec = { s.sec with entropyOk := false } ∧ Only (partMask [.sec]) s t) ∧
  (∀ s, Runs .entropyHealthRestored s fun t => t.sec = { s.sec with entropyOk := true } ∧ Only (partMask [.sec]) s t)

/-- R497 to R503: the margin plan and the policies. -/
def Obligations.MarginPlan : Prop :=
  (∀ s c slack, c < 64 → cluInService s c = true → 70 ≤ slack → Runs (.replicaRead [(c, slack)]) s fun t =>
    tget t.owl.clu c = some { cluPlan s c with slack := slack, below := false } ∧ Only (partMask [.owl]) s t) ∧
  (∀ s c slack, c < 64 → cluInService s c = true → slack < 70 → (cluPlan s c).below = false →
    Runs (.replicaRead [(c, slack)]) s fun t =>
      tget t.owl.clu c = some { cluPlan s c with slack := slack, below := true } ∧ Only (partMask [.owl]) s t) ∧
  (∀ s c slack, c < 64 → cluInService s c = true → slack < 70 → (cluPlan s c).below = true → (cluPlan s c).dropped = false →
    s.nv.log.state ≠ 2 → Runs (.replicaRead [(c, slack)]) s fun t => t.owl.replanning = some 1 ∧
      t.owl.alarms = satAdd 255 s.owl.alarms 1 ∧ tget t.owl.clu c = some { cluPlan s c with
        slack := slack, below := true, dropped := true, mx := 1100, vc := 1200 } ∧ Only (partMask [.owl]) s t) ∧
  (∀ s c slack, cluInService s c = false ∨ 64 ≤ c → exec (.replicaRead [(c, slack)]) s = .next s) ∧
  (∀ s i v, i < 1024 → Runs (.ageingRead [(i, v)]) s fun t =>
    t.owl = { s.owl with ageing := tput s.owl.ageing i v } ∧ Only (partMask [.owl]) s t) ∧
  (∀ s c, (cluPlan s c).dropped = true → (cluPlan s c).slack < 50 →
    exec (.marginFloorRetire c) s = .next (retireCluster c 1 (10 * (cluPlan s c).slack) s)) ∧
  (∀ s c, cluRetired s c = false → ∀ cause slack, c ∈ (retireCluster c cause slack s).nv.retired ∧
    (tgetD (attOf (retireCluster c cause slack s) 0).entries 0x48 attInit).pending = true) ∧
  (∀ s c, (cluPlan s c).dropped = false ∨ 50 ≤ (cluPlan s c).slack → exec (.marginFloorRetire c) s = .next s) ∧
  (∀ s, s.nv.log.state ≠ 2 → s.owl.replanning = none → Runs .dailyReplan s fun t =>
    t.owl = { s.owl with replanning := some 0 } ∧ Only (partMask [.owl]) s t) ∧
  (∀ s src, srcOpen s src = true → s.nv.log.state ≠ 2 → s.owl.replanning = none → Runs (.replan src) s fun t =>
    t.owl = { s.owl with replanning := some 3 } ∧ Only (partMask [.owl]) s t) ∧
  (∀ s src, s.nv.log.state = 2 ∨ s.owl.replanning ≠ none →
    exec .dailyReplan s = .next s ∧ exec (.replan src) s = .next s) ∧
  (∀ s volts c mx vc cause, s.owl.replanning = some cause → c < 64 → cluInService s c = true → volts.length = 4 →
    Runs (.replanComplete volts [(c, mx, vc)] []) s fun t => t.owl.replanning = none ∧ t.owl.volts = volts ∧
      t.owl.replans = satAdd 65535 s.owl.replans 1 ∧ t.owl.factory = false ∧
      tget t.owl.clu c = some { cluPlan s c with mx := clampTo 1100 1700 mx, vc := clampTo 1200 2000 vc, dropped := false } ∧
      ((mx, vc) ≠ ((cluPlan s c).mx, (cluPlan s c).vc) → (tgetD (attOf t 0).entries 0x40 attInit).pending = true)) ∧
  (∀ s volts clocks retire, s.owl.replanning = none → exec (.replanComplete volts clocks retire) s = .next s) ∧
  (∀ s src l v unit, srcOpen s src = true → l < 6 → l ≠ 2 → s.owl.polReq.length = 6 → s.owl.polApplied.length = 6 →
    ∀ allowed, Runs (.policyWrite src l v allowed unit) s fun t =>
      t.owl.polReq[l]? = some (policyLegal l v) ∧ t.owl.polApplied[l]? = some (policyLegal l allowed) ∧
      t.owl.polOvr.testBit l = decide (policyLegal l v ≠ policyLegal l allowed) ∧ t.owl.clu = s.owl.clu) ∧
  (∀ s src v allowed unit, exec (.policyWrite src 2 v allowed unit) s = .next s) ∧
  (∀ s src l v unit, srcOpen s src = true → l < 6 → l ≠ 2 → s.owl.polOvr.testBit l = false → s.owl.polClear.getD l 0 = 0 →
    ∀ allowed, policyLegal l v ≠ policyLegal l allowed → Runs (.policyWrite src l v allowed unit) s fun t =>
      (tgetD (attOf t 0).entries 0x41 attInit).pending = true) ∧
  (∀ l v, l < 6 → policyLegal l (policyLegal l v) = policyLegal l v) ∧
  (∀ s c, c < 64 → cluInService s c = true → Runs (.placementCooldown c) s fun t =>
    tget t.owl.clu c = some { cluPlan s c with state := 1 } ∧ Only (partMask [.owl]) s t) ∧
  (∀ s c, c < 64 → cluInService s c = true → Runs (.cooldownEnd c) s fun t =>
    tget t.owl.clu c = some { cluPlan s c with state := 0 } ∧ Only (partMask [.owl]) s t) ∧
  (∀ s c, cluInService s c = false → exec (.placementCooldown c) s = .next s ∧ exec (.cooldownEnd c) s = .next s) ∧
  (∀ s l m, l < 124 → m < 50 → s.owl.eye = [] → s.owl.polApplied.length = 6 → Runs (.eyeMonitorRead [(l, m)]) s fun t =>
    t.owl.eye = [(l, m)] ∧ l ∈ t.owl.eqAdapting ∧ (t.owl.polApplied.getD 3 0).testBit (lanePort l) = false)

/-- R504 to R517: power, energy and the logbook. -/
def Obligations.LedgerAndLogbook : Prop :=
  (∀ s w, effectiveCap s < w → 1100 < s.pwr.limMx → Runs (.powerLimiterTick w) s fun t =>
    t.pwr = { s.pwr with powerW := min 65535 w, limMx := s.pwr.limMx - 25 } ∧ Only (partMask [.pwr, .led]) s t) ∧
  (∀ s w, effectiveCap s < w → s.pwr.limMx ≤ 1100 → 1200 < s.pwr.limVc → Runs (.powerLimiterTick w) s fun t =>
    t.pwr = { s.pwr with powerW := min 65535 w, limVc := s.pwr.limVc - 25 } ∧ Only (partMask [.pwr, .led]) s t) ∧
  (∀ s w, w < effectiveCap s → 0 < s.pwr.limGaps → Runs (.powerLimiterTick w) s fun t =>
    t.pwr = { s.pwr with powerW := min 65535 w, limGaps := s.pwr.limGaps - 1 } ∧ Only (partMask [.pwr]) s t) ∧
  (∀ s w, effectiveCap s = w → Runs (.powerLimiterTick w) s fun t =>
    t.pwr = { s.pwr with powerW := min 65535 w } ∧ Only (partMask [.pwr]) s t) ∧
  (∀ s, s.wmk.synced = true → s.led.openIv = none → Runs .ledgerTimeLoad s fun t =>
    t.led = { s.led with time := s.wmk.tb } ∧ Only (partMask [.led]) s t) ∧
  (∀ s, s.wmk.synced = false → exec .ledgerTimeLoad s = .next s) ∧
  (∀ s e charges iv, s.led.openIv = some iv → s.led.totals.Pairwise (fun a b => a.1 < b.1) → Runs (.meterTick e charges) s fun t =>
    (t.led.totals.map Prod.snd).sum = (s.led.totals.map Prod.snd).sum + e ∧ t.led.energy = s.led.energy + e ∧
    t.led.openIv.map (fun i => i.energy) = some (iv.energy + e) ∧ Only (partMask [.led]) s t) ∧
  (∀ s e charges, s.led.openIv = none → exec (.meterTick e charges) s = .next s) ∧
  (∀ s iv, s.led.openIv = some iv → iv.start / intervalNs s < s.led.time / intervalNs s → 1000 ≤ s.led.time - iv.start →
    Runs .intervalClose s fun t =>
      t.led.ring.head? = some { iv with
        lengthUs := (s.led.time - iv.start) / 1000, avg := iv.energy * 1000 / ((s.led.time - iv.start) / 1000)
        flags := Nat.lor iv.flags 0 } ∧
      (t.led.openIv.map fun i => (i.start, i.energy, i.index)) = some (s.led.time, 0, s.led.nextIndex) ∧
      t.led.nextIndex = s.led.nextIndex + 1 ∧ t.pwr.intervalMin = s.pwr.intervalPending.getD s.pwr.intervalMin) ∧
  (∀ s iv, s.led.openIv = some iv → s.led.time / intervalNs s ≤ iv.start / intervalNs s → exec .intervalClose s = .next s) ∧
  (∀ s, Runs .periodStart s fun t =>
    t.pwr = { s.pwr with inForce := periodAt s.pwr.periods s.led.time } ∧ Only (partMask [.pwr, .led]) s t) ∧
  (∀ ps t i p, periodAt ps t = some i → ps.Pairwise (fun a b => a.1 < b.1) → tget ps i = some p → p.valid = true ∧ p.start ≤ t ∧
    (∀ e ∈ ps, e.2.valid = true → e.2.start ≤ t → e.2.start ≤ p.start)) ∧
  (∀ s src i v, srcOpen s src = true → i < 64 → Runs (.periodWrite src (.pwrPeriodStart i) v) s fun t =>
    t.pwr.periods = tput s.pwr.periods i { periodOf s i with start := v.toNat } ∧
    t.pwr.inForce = periodAt t.pwr.periods s.led.time) ∧
  (∀ s src i v, srcOpen s src = true → i < 64 → Runs (.periodWrite src (.pwrPeriodCfg i) v) s fun t =>
    t.pwr.periods = tput s.pwr.periods i { periodOf s i with
      valid := v.toNat.testBit 31, price := bitsOf v.toNat 16 4, cap := clampZeroOr 600 2400 (bitsOf v.toNat 0 12) }) ∧
  (∀ s, s.log.mounted = true → Runs .dailyHealthRecord s fun t => t.log.retries = 0) ∧
  (∀ s, s.log.mounted = false → exec .dailyHealthRecord s = .next s ∧ exec .logbookCommit s = .next s ∧
    exec .logbookBlockErase s = .next s ∧ ∀ last, exec (.pageProgramFail last) s = .next s) ∧
  (∀ s, s.log.mounted = true → Runs .logbookCommit s fun t => t.log.buffer = []) ∧
  (∀ s r, s.log.mounted = true → s.nv.log.state ≠ 2 → s.log.buffer = [r] → logRecSize r ≤ 4096 → s.nv.log.openPages < 32 →
    s.nv.log.blocks ≠ [] → Runs .logbookCommit s fun t => t.nv.log.blocks.flatten = s.nv.log.blocks.flatten ++ [r] ∧
      t.nv.log.openPages = s.nv.log.openPages + 1) ∧
  (∀ s, s.log.mounted = true → s.nv.log.openPages < 32 → Runs (.pageProgramFail false) s fun t =>
    t.nv.log = { s.nv.log with openPages := s.nv.log.openPages + 1 } ∧ t.log.retries = satAdd 65535 s.log.retries 1) ∧
  (∀ s, s.log.mounted = true → s.nv.log.openPages < 32 → 0 < s.nv.log.spares → Runs (.pageProgramFail true) s fun t =>
    t.nv.log.spares = s.nv.log.spares - 1 ∧
    (s.nv.log.spares = 65 → (tgetD (attOf t 0).entries 0x70 attInit).pending = true)) ∧
  (∀ s, s.log.mounted = true → s.nv.log.openPages < 32 → s.nv.log.spares = 0 → Runs (.pageProgramFail true) s fun t =>
    t.nv.log.dataBlocks = s.nv.log.dataBlocks - 1) ∧
  (∀ s b c rest, s.log.mounted = true → s.nv.log.state ≠ 2 → logFree s.nv.log < 2 → s.nv.log.blocks = b :: c :: rest →
    (∀ r ∈ b, r.critical = false) → b ≠ [] → Runs .logbookBlockErase s fun t => t.nv.log.blocks = c :: rest) ∧
  (∀ s, 2 ≤ logFree s.nv.log → exec .logbookBlockErase s = .next s) ∧
  (∀ s qp sub d a, Started s qp sub 0xC0 d → a = (if dfld d 24 2 = 0xFFFF then d.fn else dfld d 24 2) → a ≤ 514 →
    d.fn = 0 ∨ a = d.fn → Runs (.ledgerRead qp sub) s fun t => t.led = s.led ∧ resultOf t qp sub = some { resOf 0 with
      value := acctTotal s a
      aux := ((s.led.openIv.map fun i => i.index).getD s.led.nextIndex) % 2 ^ 32 }) ∧
  (∀ s qp sub d, Started s qp sub 0xC0 d → d.fn ≠ 0 → dfld d 24 2 ≠ 0xFFFF → dfld d 24 2 ≠ d.fn →
    Runs (.ledgerRead qp sub) s fun t => resultOf t qp sub = some (refuse 0x10 24)) ∧
  (∀ s qp sub d n, Started s qp sub 0xC1 d → n = min (clampTo 0 4096 (dfld d 40 4)) s.led.ring.length →
    needFnMem s d 24 = none → dfld d 32 8 % 64 = 0 → needOut s (dfld d 24 4) (dfld d 32 8) (65920 + 64 * n) 32 = none →
    writeHitsPoison s (hSlot (dfld d 24 4)) (dfld d 32 8) (65920 + 64 * n) = false → Runs (.ledgerExport qp sub) s fun t =>
      t.led = s.led ∧ resultOf t qp sub = some { resOf 0 with value := 65920 + 64 * n } ∧
      t.mem = (storeMem (.desc qp sub) (hSlot (dfld d 24 4)) (dfld d 32 8)
        (totalsBytes s ++ ((s.led.ring.take n).reverse.map ivBytes).flatten) s).mem) ∧
  (∀ s qp sub d, Started s qp sub 0xC2 d → needFnMem s d 24 = none →
    needOut s (dfld d 24 4) (dfld d 32 8) (dfld d 40 8) 32 = none → (∀ n, writeHitsPoison s (hSlot (dfld d 24 4)) (dfld d 32 8) n = false) →
    let p := logFit ((logAll s).filter fun r => decide (dfld d 48 8 ≤ r.seq)) (dfld d 40 8)
    Runs (.logbookRead qp sub) s fun t => t.nv = s.nv ∧ resultOf t qp sub = some { resOf 0 with
      value := p.2.getD s.nv.log.nextSeq, aux := p.1.length })

/-- R521 to R526, R531: the management port. -/
def Obligations.ManagementPort : Prop :=
  let up := fun (s : State) => mgtUp s = true ∧ s.mgt.dynAddr.isSome = true
  let answer := fun (b : Option (List Byte)) (s : State) => { s with out := .i3c b :: s.out }
  let frame := fun (op tag : Nat) (p b : List Byte) => b = leBytes 1 op ++ leBytes 1 tag ++ leBytes 2 p.length ++ leBytes 4 0 ++ p ++
    leBytes 4 (crc32c (leBytes 1 op ++ leBytes 1 tag ++ leBytes 2 p.length ++ leBytes 4 0 ++ p)).toNat ∧ op < 256 ∧ tag < 256 ∧
    p.length ≤ 4080
  (∀ s a, mgtUp s = true → s.mgt.dynAddr = none → exec (.setdasa (0x30 + s.mod.strapSlot) a) s = exec (.entdaa a) s ∧
    exec (.entdaa a) s = .next (answer (some []) { s with mgt := { s.mgt with dynAddr := some (a % 128) } })) ∧
  (∀ s a b, s.mgt.dynAddr ≠ none → exec (.setdasa b a) s = .next s ∧ exec (.entdaa a) s = .next s) ∧
  (∀ s a, up s → exec (.setnewda a) s = .next (answer (some []) { s with mgt := { s.mgt with dynAddr := some (a % 128) } }) ∧
    exec .rstdaa s = .next (answer (some []) { s with mgt := { s.mgt with dynAddr := none } })) ∧
  (∀ s v, s.mgt.dynAddr = none ∨ mgtUp s = false → exec (.setnewda v) s = .next s ∧ exec .rstdaa s = .next s ∧
    exec .getbcr s = .next s ∧ exec .privateRead s = .next s ∧ exec .ibiRepeat s = .next s ∧ exec (.enec true) s = .next s) ∧
  (∀ s, up s → s.mgt.ibiEn = false → alertUrgent s ≠ 0xFF → Runs (.enec true) s fun t =>
    t.mgt = { s.mgt with ibiEn := true, ibiReq := true } ∧ t.out.head? = some (.ibi (alertUrgent s))) ∧
  (∀ s, up s → s.mgt.ibiEn = false → alertUrgent s = 0xFF → Runs (.enec true) s fun t =>
    t.mgt = { s.mgt with ibiEn := true } ∧ Only (partMask [.mgt, .out]) s t) ∧
  (∀ s, up s → Runs (.disec true) s fun t => t.mgt = { s.mgt with ibiEn := false, ibiReq := false } ∧
    Only (partMask [.mgt, .out]) s t) ∧
  (∀ (c : Instr) s, up s → s.mgt.ibiEn = true → alertUrgent s ≠ 0xFF → c = .ibiRepeat ∨ c = .ibiNackRetry ∧ s.mgt.ibiReq = true →
    Runs c s fun t => t.mgt = { s.mgt with ibiReq := true } ∧ t.out = .ibi (alertUrgent s) :: s.out) ∧
  (∀ s, s.mgt.ibiReq = false → exec .ibiNackRetry s = .next s) ∧
  (∀ s, up s → exec .getbcr s = .next (answer (some [0x06]) s) ∧ exec .getdcr s = .next (answer (some [0x00]) s) ∧
    exec .getmwl s = .next (answer (some [0x10, 0x00]) s) ∧ exec .getmrl s = .next (answer (some [0x10, 0x00]) s) ∧
    exec .getstatus s = .next (answer (some (leBytes 2 (freeNow s))) { s with draws := s.draws + 1 }) ∧
    ∃ b, b.length = 6 ∧ exec .getpid s = .next (answer (some b) s)) ∧
  (∀ s v, up s → 4096 ≤ v → exec (.setmwl v) s = .next (answer (some []) s) ∧ exec (.setmrl v) s = .next (answer (some []) s)) ∧
  (∀ s v, up s → v < 4096 → exec (.setmwl v) s = .next (answer none s) ∧ exec (.setmrl v) s = .next (answer none s)) ∧
  (∀ s b op tag p, up s → frame op tag p b → s.mgt.i3c.req = none → s.mgt.i3c.resp = none → mgtLegal op = true →
    mgtLength op p.length = true → Runs (.privateWrite b) s fun t =>
      t.mgt.i3c.req = some { op := op, tag := tag, payload := p } ∧ Only (partMask [.mgt]) s t) ∧
  (∀ s b op tag p, up s → frame op tag p b → s.mgt.i3c.req = none → s.mgt.i3c.resp = none → mgtLegal op = false →
    exec (.privateWrite b) s = .next (reply false op tag 0x11 0x12 [] s)) ∧
  (∀ s b op tag p, up s → frame op tag p b → s.mgt.i3c.req = none → s.mgt.i3c.resp = none → mgtLegal op = true →
    mgtLength op p.length = false → exec (.privateWrite b) s = .next (reply false op tag 0x11 0x11 [] s)) ∧
  (∀ s b, up s → s.mgt.i3c.req = none → s.mgt.i3c.resp = none → 12 ≤ b.length → b.length ≤ 4096 →
    frameNum b (b.length - 4) 4 ≠ (crc32c (b.take (b.length - 4))).toNat → Runs (.privateWrite b) s fun t =>
      t.mgt.crcFails = satAdd 255 s.mgt.crcFails 1 ∧ t.mgt.i3c.req = none ∧ t.mgt.i3c.resp.isSome = true) ∧
  (∀ s b, up s → s.mgt.i3c.req ≠ none ∨ s.mgt.i3c.resp ≠ none → Runs (.privateWrite b) s fun t =>
    t.mgt = { s.mgt with discarded := satAdd 65535 s.mgt.discarded 1 } ∧ Only (partMask [.mgt]) s t) ∧
  (∀ s b, up s → s.mgt.i3c.resp = some b → Runs .privateRead s fun t => t.out = .i3c (some b) :: s.out ∧ t.mgt.i3c.resp = none) ∧
  (∀ s, up s → s.mgt.i3c.resp = none → exec .privateRead s = .next (answer none s)) ∧
  (∀ s b, mgtUp s = true → s.mgt.uartRx = [] → Runs (.uartByte true b) s fun t =>
    t.mgt.uartRx = (if b = 0xA5 then [b] else []) ∧ Only (partMask [.mgt]) s t) ∧
  (∀ s, mgtUp s = true → s.mgt.uartRx = [0xA5] → Runs (.uartByte true 0xC3) s fun t => t.mgt.uartRx = [0xA5, 0xC3]) ∧
  (∀ s b op tag p, mgtUp s = true → frame op tag p b → s.mgt.uartRx = [0xA5, 0xC3] ++ b.dropLast → s.mgt.uart.req = none →
    s.mgt.uart.resp = none → mgtLegal op = true → mgtLength op p.length = true →
    Runs (.uartByte true (b.getLastD 0)) s fun t =>
      t.mgt.uart.req = some { op := op, tag := tag, payload := p } ∧ t.mgt.uartRx = []) ∧
  (∀ s b, mgtUp s = true → Runs (.uartByte false b) s fun t => t.mgt = { s.mgt with
    uartFraming := satAdd 255 s.mgt.uartFraming 1, uartIdleWait := true } ∧ Only (partMask [.mgt]) s t) ∧
  (∀ s, mgtUp s = true → Runs .uartGapDiscard s fun t => t.mgt = { s.mgt with uartRx := [] } ∧ Only (partMask [.mgt]) s t) ∧
  (∀ s stop b, mgtUp s = false → exec (.uartByte stop b) s = .next s ∧ exec .uartGapDiscard s = .next s)

/-- R433, R526 to R530: the management commands. -/
def Obligations.ManagementCommands : Prop :=
  let serves := fun (s : State) (u : Bool) (op : Nat) (r : MgtReq) => (faceOf s u).req = some r ∧ mgtUp s = true ∧ r.op = op ∧
    s.mgt.running = none ∧ mgtServed op (mgtArg r) (mgtCol s) = true
  let done := fun (u : Bool) (r : MgtReq) (b : List Byte) (s : State) => reply u r.op r.tag 0 0 b s
  let arg := fun (r : MgtReq) (a n : Nat) => frameNum r.payload a n
  (∀ s u r, serves s u 0x01 r → ∃ b, b.length = 21 ∧ b.take 8 = leBytes 8 Config.serial.toNat ∧
    exec (.identity u) s = .next (done u r b s)) ∧
  (∀ s u r, serves s u 0x02 r → ∃ b, b.length = 56 ∧ exec (.status u) s = .next (done u r b s)) ∧
  (∀ s u r c, serves s u 0x03 r → c = nearestAlert (arg r 0 1) →
    alertEvent c = true → (alertOf s c).pending = true → (alertOf s c).count = arg r 1 2 → exec (.alertAck u) s = .next (done u r (leBytes 2 0)
      { s with mgt := { s.mgt with alerts := tput s.mgt.alerts c { pending := false, count := 0 } } })) ∧
  (∀ s u r c, serves s u 0x03 r → c = nearestAlert (arg r 0 1) →
    alertEvent c = false ∨ (alertOf s c).count ≠ arg r 1 2 → exec (.alertAck u) s = .next (done u r (leBytes 2 (alertOf s c).count) s)) ∧
  (∀ s u r, serves s u 0x10 r → exec (.health u) s =
    .next (done u r (leBytes 64 (freeBits s 512)) { s with draws := s.draws + 1 })) ∧
  (∀ s u r, serves s u 0x11 r → s.wmk.role ≠ .active → exec (.domainView u) s = .next (reply u r.op r.tag 0x11 0 [] s)) ∧
  (∀ s u r, serves s u 0x11 r → s.wmk.role = .active → ∃ b n, b.length = 16 * n ∧
    exec (.domainView u) s = .next (done u r b { s with draws := s.draws + n })) ∧
  (∀ s u r, serves s u 0x12 r → arg r 0 1 = 0 → exec (.recordRead u) s = .next (done u r
    (fitRecords ((s.flt.ring.reverse.filter fun x => decide (arg r 1 8 ≤ x.seq)).map fltBytes) 4080) s)) ∧
  (∀ s u r, serves s u 0x12 r → arg r 0 1 = 1 → exec (.recordRead u) s = .next (done u r
    (fitRecords (((logAll s).filter fun x => decide (arg r 1 8 ≤ x.seq)).map logRecBytes) 4080) s)) ∧
  (∀ l room, (fitRecords l room).length ≤ room) ∧
  (∀ s u r, serves s u 0x20 r → 514 < arg r 0 2 → exec (.ledger u) s = .next (reply u r.op r.tag 0x10 0 [] s)) ∧
  (∀ s u r, serves s u 0x20 r → arg r 0 2 ≤ 514 → ∃ b, b.length = 128 + 64 * min (min 15 (arg r 2 2)) s.led.ring.length ∧
    exec (.ledger u) s = .next (done u r b s)) ∧
  (∀ s u r, serves s u 0x50 r → ∃ b, b.length = 368 ∧ exec (.cabling u) s = .next (done u r b s)) ∧
  (∀ s u r, serves s u 0x21 r → let cap := clampZeroOr 600 2400 (arg r 0 2)
    Runs (.trayCap u) s fun t => t.mgt.trayCap = cap ∧ t.pwr = s.pwr ∧ effectiveCap t ≤ (if cap = 0 then 2400 else cap)) ∧
  (∀ s u r, serves s u 0x30 r → mgtArg r = 1 → engineCmd s (arg r 1 4) = 0 → exec (.reset u) s =
    .next (commandReset 1 (arg r 1 4) (reply u r.op r.tag 0 0 [] s))) ∧
  (∀ s u r, serves s u 0x30 r → mgtArg r = 2 → partCmd s (arg r 1 4 % 4) ≠ 0 → exec (.reset u) s =
    .next (reply u r.op r.tag (partCmd s (arg r 1 4 % 4)) 0 [] s)) ∧
  (∀ s u r, serves s u 0x30 r → mgtArg r = 3 → exec (.reset u) s =
    .next (commandReset 3 (arg r 1 4) (reply u r.op r.tag 0 0 [] s))) ∧
  (∀ s u r, serves s u 0x40 r → s.lcs.busy = none → Runs (.lifecycle u) s fun t => t.mgt = { s.mgt with running := some u } ∧
    t.lcs = { s.lcs with busy := some { mgt := true, target := arg r 0 1, token := arg r 1 32 } } ∧
    Only (partMask [.mgt, .lcs]) s t) ∧
  (∀ s u r, serves s u 0x40 r → s.lcs.busy.isSome = true → exec (.lifecycle u) s =
    .next (reply u r.op r.tag 0x30 5 (leBytes 4 (lcsWord s)) s)) ∧
  (∀ s u r, serves s u 0x60 r → s.nv.otp.tray = none → exec (.challenge u) s = .next (done u r (leBytes 48 0) s)) ∧
  (∀ s u r, serves s u 0x61 r → s.nv.otp.tray = none → Runs (.trayProvision u) s fun t =>
    t.nv.otp = { s.nv.otp with tray := some (arg r 0 48) }) ∧
  (∀ s u r, serves s u 0x61 r → s.nv.otp.tray.isSome = true → exec (.trayProvision u) s =
    .next (reply u r.op r.tag 0x13 0x15 [] s)) ∧
  (∀ s u r c, serves s u 0x70 r → arg r 0 1 = c → c ≤ 1 → ¬(mgtCol s = .srv ∧ c = if s.svc.active then 1 else 0) → arg r 1 4 = 0 →
    Runs (.fwWrite u) s fun t => fwCopy t.nv.fw c = { image := r.payload.drop 5, failing := true
                                                      short := decide ((r.payload.drop 5).length % 16 ≠ 0), passed := (false, false) } ∧
      fwCopy t.nv.fw (1 - c) = fwCopy s.nv.fw (1 - c)) ∧
  (∀ s u r c, serves s u 0x70 r → arg r 0 1 = c → c ≤ 1 → ¬(mgtCol s = .srv ∧ c = if s.svc.active then 1 else 0) → arg r 1 4 ≠ 0 →
    arg r 1 4 ≠ (fwCopy s.nv.fw c).image.length → exec (.fwWrite u) s = .next (reply u r.op r.tag 0x13 0x15 [] s)) ∧
  (∀ s u r c, serves s u 0x70 r → arg r 0 1 = c → c ≤ 1 → mgtCol s = .srv → (c = if s.svc.active then 1 else 0) →
    exec (.fwWrite u) s = .next (reply u r.op r.tag 0x11 0x13 [] s)) ∧
  (∀ s u r a c, serves s u 0x71 r → arg r 0 1 = c → c ≤ 1 → Runs (.fwCommit u a) s fun t =>
    (fwCopy t.nv.fw c).image = (fwCopy s.nv.fw c).image ∧
    (fwGood t.nv.fw (fwCopy t.nv.fw c) = true ↔
      fwCheck s.nv.fw { fwCopy s.nv.fw c with passed := (a.digestOk, a.sigOk) } = 0)) ∧
  (∀ s u r n, serves s u 0x72 r → n = clampTo 1 64 (arg r 0 1) → s.nv.fw.floor < n → fwGood s.nv.fw s.nv.fw.a = true →
    fwGood s.nv.fw s.nv.fw.b = true → n ≤ fwVersion s.nv.fw.a → n ≤ fwVersion s.nv.fw.b → Runs (.fwFloor u) s fun t =>
      t.nv.fw = { s.nv.fw with floor := n }) ∧
  (∀ s u r n, serves s u 0x72 r → n = clampTo 1 64 (arg r 0 1) → s.nv.fw.floor < n →
    fwGood s.nv.fw s.nv.fw.a = false ∨ fwGood s.nv.fw s.nv.fw.b = false ∨ fwVersion s.nv.fw.a < n ∨ fwVersion s.nv.fw.b < n →
    exec (.fwFloor u) s = .next (reply u r.op r.tag 0x13 0x15 [] s)) ∧
  (∀ s u r k, serves s u 0x73 r → arg r 0 1 = k → k ≤ 1 → fwGood s.nv.fw s.nv.fw.a = true → fwGood s.nv.fw s.nv.fw.b = true →
    fwKeyIndex s.nv.fw.a = 1 - k → fwKeyIndex s.nv.fw.b = 1 - k → Runs (.fwRevoke u) s fun t =>
      t.nv.fw.revoked.testBit k = true ∧ t.nv.fw.a = s.nv.fw.a ∧ t.nv.fw.b = s.nv.fw.b) ∧
  (∀ s u r k, serves s u 0x73 r → arg r 0 1 = k → k ≤ 1 → fwKeyIndex s.nv.fw.a = k → exec (.fwRevoke u) s =
    .next (reply u r.op r.tag 0x13 0x15 [] s)) ∧
  (∀ (c : Instr) s u r op, c = .health u ∧ op = 0x10 ∨ c = .recordRead u ∧ op = 0x12 ∨ c = .ledger u ∧ op = 0x20 ∨
      c = .cabling u ∧ op = 0x50 ∨ c = .trayCap u ∧ op = 0x21 ∨ c = .reset u ∧ op = 0x30 ∨ c = .challenge u ∧ op = 0x60 →
    (faceOf s u).req = some r → mgtUp s = true → r.op = op →
    (s.mgt.running = some (!u) → exec c s = .next (reply u op r.tag 0x30 0x14 [] s)) ∧
    (s.mgt.running = none → mgtServed op (mgtArg r) (mgtCol s) = false → exec c s =
      .next (reply u op r.tag (if mgtCol s = .start then 0x30 else 0x11) 0x13 [] s)) ∧
    (s.mgt.running = some u → exec c s = .next s)) ∧
  (∀ s u (r : MgtReq), (faceOf (reply u r.op r.tag 0 0 [] s) u).req = none)

/-- A step runs the front command. The idle step is the model's choice (assumption log 2). -/
def Obligations.StepRunsFront : Prop :=
  (∀ s c rest, s.pending = c :: rest → step s = exec c { s with pending := rest }) ∧
  (∀ s, s.pending = [] → step s = .next (idle s) ∧ (idle s).now = s.now + 1 ∧ (idle s).pending = [] ∧
    (idle s).mem = s.mem ∧ (idle s).cmd = s.cmd ∧ (idle s).nv = s.nv ∧ (idle s).out = s.out)

/-- No command stops the machine. -/
def Obligations.EveryCommandCompletes : Prop :=
  ∀ c s, ∃ t, exec c s = .next t ∧ t.pending = s.pending

/-- The canonical form of memory is an invariant of every step. -/
def Obligations.StepKeepsMemory : Prop :=
  ∀ s t, memoryWf s → step s = .next t → memoryWf t

/-- What is permanent stays, whatever command runs. -/
def Obligations.StepKeepsOneWay : Prop :=
  ∀ s t, step s = .next t → OneWay s.nv t.nv

/-- The invariants hold at reset. -/
def Obligations.InvariantsAtReset : Prop :=
  memoryWf State.reset ∧ State.reset.pending = [] ∧ (∀ k, cellGet State.reset.mem k = 0) ∧
  State.reset.ctxs = [] ∧ State.reset.mems = [] ∧ State.reset.evs = [] ∧ State.reset.cmd.qps = [] ∧
  State.reset.cmd.descs = [] ∧ Quiet State.reset ∧ State.reset.sec.keys = [] ∧ State.reset.sec.session = .none_ ∧
  OneWay State.reset.nv State.reset.nv

/-- The reset words of the register tables. -/
def Obligations.ResetWords : Prop :=
  (∀ e ∈ ([(.clkMsStatus, 0), (.clkMsFault, 0), (.clkMsCtrl, 0), (.hifPoolA, 0x10004000), (.hifPoolB, 0x00100000),
      (.hifPoolC, 0x20040000), (.hifPoolD, 0x02C10000), (.mxeCtrl, 4), (.svcFwStatus, 0), (.svcUserCtrl, 0),
      (.memBadgerCtrl, 0x18), (.memPoisonState, 0), (.imeStatus, 0), (.lnkCfg, 0x00521216), (.lnkRtAddr, 0),
      (.lnkRtData, 0)] : List (Reg × Nat)), regRead State.reset e.1 = e.2) ∧
  (∀ e ∈ ([(.wmkValue, 0), (.wmkTime, 0), (.wmkStatus, 0xFFFF), (.wmkMgrCfg, 0x328), (.wmkParent, 0), (.wmkEvents, 0),
      (.wmkPlanBase, 0), (.wmkStats, 0), (.colCfg, 0x00010301), (.colTrigUsed, 0), (.ingStatus, 0), (.ingCfg, 0x0A),
      (.ckpCfg, 0x3C), (.ckpBuddyCfg, 0), (.ckpBuddyState, 0), (.ckpStats, 0), (.ckpBytesOut, 0)] : List (Reg × Nat)),
    regRead State.reset e.1 = e.2) ∧
  (∀ e ∈ ([(.secAlarm, 0), (.lcsState, 0), (.lcsCmd, 0), (.lcsResult, 0), (.fltStatus, 0), (.fltResetResult, 0),
      (.fltCounts, 0), (.fltRecHead, 0), (.fltRecSel, 0), (.owlStatus, 0), (.owlPolOvr, 0), (.owlLogState, 0xC0000000),
      (.owlLogUse, 0), (.pwrStatus, 0x960), (.pwrCap, 0x960), (.pwrInterval, 0x0F), (.pwrEnergy, 0), (.mgtStatus, 0),
      (.mgtTrayCap, 0), (.mgtErr, 0)] : List (Reg × Nat)), regRead State.reset e.1 = e.2) ∧
  (∀ fn, regRead State.reset (.cmdSvqSqBase fn) = 0 ∧ regRead State.reset (.cmdSvqCfg fn) = 0x00840000) ∧
  (∀ c, c < 64 → regRead State.reset (.mxeEngShape c) = 0x1010 ∧ regRead State.reset (.mxeEngState c) = 0 ∧
    regRead State.reset (.cstCluCfg c) = 8 ∧ regRead State.reset (.cstCluState c) = 0 ∧ regRead State.reset (.owlClu c) = 0) ∧
  (∀ p, p < 23 → regRead State.reset (.lnkPortCtrl p) = 9 ∧ regRead State.reset (.lnkPortState p) = 0 ∧
    regRead State.reset (.lnkPortErr p) = 0)

/-- Frames of all commands. -/
def Obligations.CommandFrames : Prop :=
  (∀ c s t, exec c s = .next t → Only (partMask (partsOf c)) s t) ∧
  (∀ c s t, exec c s = .next t → Part.mem ∉ partsOf c → ∀ k, cellGet t.mem k = cellGet s.mem k) ∧
  (∀ c s t, exec c s = .next t → Part.nv ∉ partsOf c → t.nv = s.nv)

/-- The frame of a store, and what a store leaves. -/
def Obligations.StoredBytes : Prop :=
  (∀ s a slot off bs k, k < memKey slot off ∨ memKey slot off + bs.length ≤ k →
    cellGet (storeMem a slot off bs s).mem k = cellGet s.mem k) ∧
  (∀ s slot off bs, memoryWf s → off % 64 + bs.length ≤ 64 → bs ≠ [] → lineLost s slot off = false →
    thas s.poison (lineKey slot off) = false → ∀ i, i < bs.length →
      cellGet (writeMem .block slot off bs s).mem (memKey slot off + i) = bs.getD i 0) ∧
  (∀ s a slot off bs, off % 64 + bs.length ≤ 64 → bs ≠ [] → lineLost s slot off = true →
    (writeMem a slot off bs s).mem = s.mem) ∧
  (∀ s a slot off bs, off % 64 + bs.length ≤ 64 → bs ≠ [] → thas s.poison (lineKey slot off) = true → bs.length ≠ 64 →
    (writeMem a slot off bs s).mem = s.mem ∧ (writeMem a slot off bs s).poison = s.poison)

/-- R89: SEQ = s mod 65,536, with the worked example of the rule. -/
def Obligations.SeqIsSubmissionNumber : Prop :=
  let fetched := fun (qp : Nat) (p : QueuePair) (raw : BitVec 512) =>
    ({ qp := qp, sub := p.nextSub, pos := p.fetchPos, fn := p.fn, raw := raw, phase := .fetched, noRecord := false
       sigOk := false, escalated := false, note := 0 } : Desc)
  let able := fun (s : State) (qp : Nat) (p : QueuePair) =>
    cmdReady s = true ∧ fetchChoice s = some qp ∧ getQp s qp = some p
  let seqOf := fun (raw : BitVec 512) => raw.toNat / 2 ^ 16 % 2 ^ 16
  (∀ s qp sub d q loc, Started s qp sub 0x14 d → dfld d 42 2 < vectorCount d.fn → dfld d 42 2 ≠ 0xFFFF →
    quotaFail s d.fn Hk.qp = none → freeQp s d.fn = some (q, loc) →
    Runs (.createQueuePair qp sub) s fun t => (getQp t q).map QueuePair.nextSub = some 0) ∧
  (∀ s fn bound (v : Word) q, doorOpen s bound = true → svqNum s fn = some q → svqOf s fn = none →
    bitsOf v.toNat 0 11 < vectorCount fn → bitOf v.toNat 30 = false → bitOf v.toNat 31 = true →
    Runs (.build fn bound v) s fun t => (getQp t q).map QueuePair.nextSub = some 0) ∧
  (∀ s qp raw p, able s qp p → seqOf raw = p.nextSub % 65536 → headerFail (fetchServed p s) (fetched qp p raw) = none →
    Runs (.descriptorFetch qp raw) s fun t =>
      (getQp t qp).map QueuePair.nextSub = some (p.nextSub + 1) ∧
      t.cmd.descs.map Desc.sub = s.cmd.descs.map Desc.sub ++ [p.nextSub] ∧
      t.cmd.descs.getLast?.map Desc.phase = some .fetched) ∧
  (∀ s qp raw p, able s qp p → p.ctx = none → seqOf raw ≠ p.nextSub % 65536 →
    Runs (.descriptorFetch qp raw) s fun t =>
      (getQp t qp).map QueuePair.nextSub = some (p.nextSub + 1) ∧
      t.cmd.descs.getLast?.map Desc.phase = some (.ended (refuse 0x11 2))) ∧
  69999 % 65536 = 4463

/-- R346: segments and shards. -/
def Obligations.SegmentsAndShards : Prop :=
  (∀ (o : OpRec), 1 ≤ o.count → 1 ≤ o.seg →
    o.count ≤ segCount o * o.seg ∧ (∀ G, o.count ≤ G * o.seg → segCount o ≤ G) ∧
    ∀ g, g < segCount o → segStart o g = g * o.seg ∧
      segStart o g + segLen o g = min ((g + 1) * o.seg) o.count ∧ 1 ≤ segLen o g) ∧
  (∀ s (o : TrigOp) k g, k < (opMembers s o).length →
    (g ∈ shardOf s o k ↔ k * segCount o.op / (opMembers s o).length ≤ g ∧
      g < (k + 1) * segCount o.op / (opMembers s o).length)) ∧
  (∀ s (o : TrigOp), segCount o.op < (opMembers s o).length → shardOf s o 0 = []) ∧
  (∀ s (o : TrigOp) g, (opMembers s o).length ≠ 0 → g < segCount o.op →
    ownerOf s o g < (opMembers s o).length ∧ g ∈ shardOf s o (ownerOf s o g) ∧
    ∀ k, k < (opMembers s o).length → g ∈ shardOf s o k → k = ownerOf s o g)

/-- R344: group index, rank, signature base and signature. -/
def Obligations.GroupBaseAndSignature : Prop :=
  let reads := fun (s : State) (d : Desc) (n : Nat) => needH s d Hk.mem 24 = none ∧ needRange s (dfld d 24 4) (dfld d 32 8) n 32 = none
  let seen := fun (s : State) (d : Desc) (n : Nat) => touch (hSlot (dfld d 24 4)) (dfld d 32 8) n false s
  let clean := fun (s : State) (d : Desc) (n : Nat) => poisonedIn (seen s d n) (hSlot (dfld d 24 4)) (dfld d 32 8) n = false
  let list := fun (s : State) (d : Desc) (n : Nat) => (List.range n).map fun i =>
    ofLe (readMem (seen s d (4 * n)) (.desc d.qp d.sub) (hSlot (dfld d 24 4)) (dfld d 32 8 + 4 * i) 4) % 2 ^ 24
  (∀ s qp sub d c n, Started s qp sub 0x72 d → descCtx s d = some c → n = clampTo 1 1024 (dfld d 40 2) →
    reads s d (4 * n) → clean s d (4 * n) → nodeId (seen s d (4 * n)) ∈ list s d n → hasDup (list s d n) = false →
    (∀ e ∈ (seen s d (4 * n)).col.groups, e.2.tag ≠ dfld d 44 4) → confidential (seen s d (4 * n)) = false →
    (seen s d (4 * n)).col.groups.length < 256 → (∃ i, i < 4096 ∧ tget (seen s d (4 * n)).col.groups i = none) →
    Runs (.groupCreate qp sub) s fun t => ∃ i g, i ≤ 4095 ∧ tget t.col.groups i = some g ∧
      resultOf t qp sub = some { resOf 0 with aux := i, value := g.rank } ∧ g.rank < 1024 ∧
      g.members[g.rank]? = some (nodeId t) ∧ g.members = list s d n ∧ g.tag = dfld d 44 4 ∧
      g.base = (crc32c (leBytes 4 (dfld d 44 4) ++ ((list s d n).map (leBytes 4)).flatten)).toNat) ∧
  (∀ s qp sub d c b g e, Started s qp sub 0x70 d → descCtx s d = some c → clampTo 1 4096 (dfld d 40 4) = 1 →
    reads s d 128 → clean s d 128 →
    b = readMem (seen s d 128) (.desc d.qp d.sub) (hSlot (dfld d 24 4)) (dfld d 32 8) 128 →
    recGroup (seen s d 128) b = some g → recFail (seen s d 128) c (some g) b (recOf (seen s d 128) c g b) = none →
    (seen s d 128).col.ops.length < 16384 → tget (seen s d 128).evs (recOf (seen s d 128) c g b).trigger = some e →
    e.signalled = false → e.count = 0 → Runs (.trigPost qp sub) s fun t => ∃ o, t.col.ops = (seen s d 128).col.ops ++ [o] ∧
      o.sig = (crc32c (leBytes 4 g.base ++ b.take 8 ++ (b.drop 32).take 8 ++ leBytes 4 o.op.seg)).toNat)

/-- R109: acknowledging attention. -/
def Obligations.AcknowledgeAttention : Prop :=
  (∀ cur e ep, e < 256 → (fullEpoch cur e = some ep ↔
    ep ≤ cur ∧ ep % 256 = e ∧ ∀ x, x ≤ cur → x % 256 = e → x ≤ ep)) ∧
  (∀ s qp sub d ep, Started s qp sub 0x01 d → dfld d 24 1 = 0xFF ∨ dfld d 24 1 ∈ attCodes →
    fullEpoch (attOf s d.fn).epoch (dfld d 25 1) = some ep → Runs (.ackAttention qp sub) s fun t =>
      (attOf t d.fn).epoch = (attOf s d.fn).epoch ∧ statusOf t qp sub = some 0 ∧
      ∀ k, tget (attOf t d.fn).entries k = (tget (attOf s d.fn).entries k).map fun e =>
        if (dfld d 24 1 = 0xFF ∨ k = dfld d 24 1) ∧ e.epochLast ≤ ep then { e with pending := false, count := 0 } else e) ∧
  (∀ s fn code detail handle, (attOf (post fn code detail handle s) fn).epoch = (attOf s fn).epoch + 1 ∧
    ((tget (attOf (post fn code detail handle s) fn).entries code).map AttEntry.epochLast) = some ((attOf s fn).epoch + 1)) ∧
  (∀ seen cur, seen ≤ cur → cur < seen + 256 → fullEpoch cur (seen % 256) = some seen)

/-- R317: the order of candidates. -/
def Obligations.CandidateOrder : Prop :=
  (∀ (a b : Nat × Nat), pairBeats a b = true ↔ b.1 < a.1 ∨ a.1 = b.1 ∧ b.2 < a.2) ∧
  (∀ (a b : Nat × Nat), a ≠ b → pairBeats a b = !pairBeats b a) ∧ (∀ a, pairBeats a a = false) ∧
  (∀ s, s.wmk.cfgPend = none → s.wmk.cfg.prio < 16 → ownPair s = (regRead s .wmkMgrCfg % 16, Config.serial.toNat)) ∧
  (∀ s p, ∃ rest, helloMsg s p = .ctl 0x01 0 (nodeId s :: p :: Config.serial.toNat :: rest)) ∧
  (∀ s port n a b term held, listed s n = true → n ≠ nodeId s → s.wmk.role = .candidate → (a, b) ≠ ownPair s →
    Runs (.beacon port n a b term held) s fun t => t.wmk.role = .candidate ∧
      t.wmk.beaconing = if pairBeats (a, b) (ownPair s) then false else s.wmk.beaconing)

/-- R315: domains. -/
def Obligations.DomainNumber : Prop :=
  (∀ node, node < 2 ^ 24 → domainOf node = bitsOf node 10 14) ∧
  (∀ s, s.mod.strapSlot < 16 → s.mod.strapBoard < 2 ^ 20 → nodeId s < 2 ^ 24 ∧ domainOf (nodeId s) = bitsOf s.mod.strapBoard 6 14) ∧
  (∀ D board slot, slot < 16 → (domainOf (board * 16 + slot) = D ↔ 64 * D ≤ board ∧ board < 64 * D + 64)) ∧
  (∀ D node, domainOf node = D ↔ 1024 * D ≤ node ∧ node < 1024 * D + 1024) ∧
  (∀ board slot, board ≤ 32767 → slot < 16 → domainOf (board * 16 + slot) ≤ 511) ∧
  (∀ D, D ≤ 511 → ∃ board, board ≤ 32767 ∧ ∀ slot, slot < 16 → domainOf (board * 16 + slot) = D) ∧
  (∀ s role slot board, s.mod.phase = .charged → Runs (.strapSample role slot board) s fun t =>
    nodeId t = board % 2 ^ 20 * 16 + slot % 16 ∧ domainOf (nodeId t) = bitsOf (board % 2 ^ 20) 6 14)

/-- R4: the SX part refuses confidential mode. -/
def Obligations.SxRefusesConfidentialMode : Prop :=
  ∀ s qp sub d bound cfg, s.nv.otp.cx = false → Started s qp sub 0x60 d → Runs (.sessionOpen qp sub bound cfg) s fun t =>
    confidential t = confidential s ∧ t.sec.session = s.sec.session ∧ (qp, sub) ∈ t.sec.refusals ∧
    Runs (.uniformRefusalWrite qp sub) t fun u => resultOf u qp sub = some (resOf 0x13) ∧
      confidential u = confidential s ∧ u.sec.session = s.sec.session

/-- Worked examples of chapters 07 and 13. -/
def Obligations.FormatExamples : Prop :=
  blockResult 0 0 [0x7E, 0xFE, 0x01] [0x7E, 0x7E, 0x01] 127 127 = (0x36800000, 0) ∧
  outElem 8 false (some 0x2A10) 0x3F804000 = (0x3F81, 0) ∧ outElem 8 false (some 0x9C40) 0x3F804000 = (0x3F80, 0) ∧
  outElem 8 false none 0x3F804000 = (0x3F80, 0) ∧
  mxBlock 2 [none, none, none] ([0x447A0000, 0xC0400000, 0x3C23D70A].map ofFp32) = (0x80, [0x7E, 0xBC, 0x03]) ∧
  accOut 0 24 (([0x4B800000, 0x3F800000, 0xCB800000].map fun b => Elem.fp (ofFp32 b) b).foldl
    (fun a x => (accAddElem 0 24 24 a x).1) (.win 0 0)) = (leBytes 4 0x3F800000, 0)

/-- Worked examples of chapters 01, 09, 10, 11, 16 and 22. -/
def Obligations.DetailExamples : Prop :=
  tagLine (0x400001240 / 64) * 64 = 0xA47652640 ∧ poisonDetail 0x41A40 0 3 = 0x0300000000041A40 ∧
  cableDetail 18 3 (some { node := 0xFE0010, port := 5, serial := 0, role := 0, conf := false, digest := 0 }) = 0x5FE001072 ∧
  storedLen 8220839936 = 8220965392 ∧
  dstat { State.reset with cmd := { State.reset.cmd with att :=
    [(0, { epoch := 0x55, entries := [(0x12, { pending := true, count := 1, epochLast := 0x55, detail := 0, handle := 0 })] })] } } 0
    = 0x5512 ∧
  nodeId { State.reset with mod := { State.reset.mod with strapBoard := 0x02A41, strapSlot := 7 } } = 0x02A417
end

