-- ==== Sys2Proof/Laws/Keeps.lean ====
section
/-!
SUPPORT. Sys2Proof/Laws/Keeps.lean: one relation between a state and a later one, which every operation of the block keeps, and the
ways it is built up. The files Laws/Keeps<File>.lean say it of every operation and every command.
-/
namespace Sys2Proof.Laws
open Sys2Proof.Machine

/-- From `s` to `t`: a canonical memory stays canonical, the queue is untouched, what is permanent stays, and only the parts of a
set change. -/
structure Keeps (ps : Nat) (s t : State) : Prop where
  mem : Memory.wf s.mem → Memory.wf t.mem
  pending : t.pending = s.pending
  oneWay : OneWay s.nv t.nv
  only : Only ps s t

/-- A set of parts lies in another. -/
def Sub (a b : Nat) : Prop := Nat.lor a b = b

theorem sub_refl (a : Nat) : Sub a a := Nat.or_self a

theorem sub_bit {a b i : Nat} (h : Sub a b) (k : a.testBit i = true) : b.testBit i = true := by
  unfold Sub at h
  rw [← h]
  show (a ||| b).testBit i = true
  simp [Nat.testBit_or, k]

theorem sub_trans {a b c : Nat} (h : Sub a b) (k : Sub b c) : Sub a c := by
  apply Nat.eq_of_testBit_eq
  intro i
  show (a ||| c).testBit i = c.testBit i
  rw [Nat.testBit_or]
  cases e : a.testBit i with
  | false => rfl
  | true => rw [sub_bit k (sub_bit h e)]; rfl

theorem sub_of {a b c : Nat} (k : Sub b c) (e : Nat.lor a b = b) : Sub a c := sub_trans e k

/-- A part of the set is free to change. -/
theorem sub_free {a b i : Nat} {p : Prop} (h : Sub a b) (k : a.testBit i = true) : b.testBit i = false → p := by
  intro e
  rw [sub_bit h k] at e
  cases e

theorem bitsIn_refl (a : Nat) : BitsIn a a := fun _ h => h

theorem bitsIn_trans {a b c : Nat} (h : BitsIn a b) (k : BitsIn b c) : BitsIn a c := fun i x => k i (h i x)

theorem bitsIn_lor (a b : Nat) : BitsIn a (Nat.lor a b) := by
  intro i h
  show (a ||| b).testBit i = true
  simp [Nat.testBit_or, h]

theorem oneWay_refl (a : NvState) : OneWay a a :=
  ⟨fun _ h => h, bitsIn_refl _, bitsIn_refl _, bitsIn_refl _, id, Nat.le_refl _, bitsIn_refl _, Nat.le_refl _⟩

/-- A change of other parts of what survives power loss. -/
theorem oneWay_same {a b : NvState} (h1 : b.retired = a.retired) (h2 : b.otp.a = a.otp.a) (h3 : b.otp.b = a.otp.b)
    (h4 : b.otp.c = a.otp.c) (h5 : b.otp.trimsGone = a.otp.trimsGone) (h6 : b.fw.floor = a.fw.floor)
    (h7 : b.fw.revoked = a.fw.revoked) (h8 : b.log.nextSeq = a.log.nextSeq) : OneWay a b :=
  ⟨fun _ h => h1 ▸ h, h2 ▸ bitsIn_refl _, h3 ▸ bitsIn_refl _, h4 ▸ bitsIn_refl _, fun h => h5 ▸ h, h6 ▸ Nat.le_refl _,
   h7 ▸ bitsIn_refl _, h8 ▸ Nat.le_refl _⟩

theorem oneWay_trans {a b c : NvState} (h : OneWay a b) (k : OneWay b c) : OneWay a c :=
  ⟨fun x m => k.retired x (h.retired x m), bitsIn_trans h.otpA k.otpA, bitsIn_trans h.otpB k.otpB,
   bitsIn_trans h.otpC k.otpC, fun x => k.trims (h.trims x), Nat.le_trans h.floor k.floor,
   bitsIn_trans h.revoked k.revoked, Nat.le_trans h.seq k.seq⟩

theorem only_refl (ps : Nat) (s : State) : Only ps s s :=
  ⟨fun _ => rfl, fun _ => rfl, fun _ => rfl, fun _ => rfl, fun _ => rfl, fun _ => rfl,
   fun _ => rfl, fun _ => rfl, fun _ => rfl, fun _ => rfl, fun _ => rfl, fun _ => rfl,
   fun _ => rfl, fun _ => rfl, fun _ => rfl, fun _ => rfl, fun _ => rfl, fun _ => rfl,
   fun _ => rfl, fun _ => rfl, fun _ => rfl, fun _ => rfl, fun _ => rfl, fun _ => rfl,
   fun _ => rfl, fun _ => rfl, fun _ => rfl, fun _ => rfl, fun _ => rfl, fun _ => rfl,
   fun _ => rfl, fun _ => rfl, fun _ => rfl, fun _ => rfl, fun _ => rfl, fun _ => rfl⟩

theorem only_trans {ps : Nat} {s t u : State} (h : Only ps s t) (k : Only ps t u) : Only ps s u :=
  ⟨fun b => (k.out b).trans (h.out b),
   fun b => (k.draws b).trans (h.draws b),
   fun b => (k.now b).trans (h.now b),
   fun b => (k.hold64 b).trans (h.hold64 b),
   fun b => (k.latch64 b).trans (h.latch64 b),
   fun b => (k.mod b).trans (h.mod b),
   fun b => (k.clk b).trans (h.clk b),
   fun b => (k.flt b).trans (h.flt b),
   fun b => (k.mgt b).trans (h.mgt b),
   fun b => (k.log b).trans (h.log b),
   fun b => (k.owl b).trans (h.owl b),
   fun b => (k.pwr b).trans (h.pwr b),
   fun b => (k.led b).trans (h.led b),
   fun b => (k.nv b).trans (h.nv b),
   fun b => (k.hif b).trans (h.hif b),
   fun b => (k.cmd b).trans (h.cmd b),
   fun b => (k.ctxs b).trans (h.ctxs b),
   fun b => (k.mems b).trans (h.mems b),
   fun b => (k.evs b).trans (h.evs b),
   fun b => (k.mem b).trans (h.mem b),
   fun b => (k.poison b).trans (h.poison b),
   fun b => (k.tsk b).trans (h.tsk b),
   fun b => (k.hbm b).trans (h.hbm b),
   fun b => (k.ime b).trans (h.ime b),
   fun b => (k.lnk b).trans (h.lnk b),
   fun b => (k.wmk b).trans (h.wmk b),
   fun b => (k.col b).trans (h.col b),
   fun b => (k.runners b).trans (h.runners b),
   fun b => (k.admits b).trans (h.admits b),
   fun b => (k.ing b).trans (h.ing b),
   fun b => (k.ckp b).trans (h.ckp b),
   fun b => (k.sec b).trans (h.sec b),
   fun b => (k.lcs b).trans (h.lcs b),
   fun b => (k.mxe b).trans (h.mxe b),
   fun b => (k.vcu b).trans (h.vcu b),
   fun b => (k.svc b).trans (h.svc b)⟩

theorem keeps_refl (ps : Nat) (s : State) : Keeps ps s s := ⟨id, rfl, oneWay_refl _, only_refl ps s⟩

theorem keeps_trans {ps : Nat} {s t u : State} (h : Keeps ps s t) (k : Keeps ps t u) : Keeps ps s u :=
  ⟨fun m => k.mem (h.mem m), k.pending.trans h.pending, oneWay_trans h.oneWay k.oneWay, only_trans h.only k.only⟩

theorem keeps_ite {ps : Nat} {p : Prop} {d : Decidable p} {s a b : State} (h : p → Keeps ps s a) (k : ¬p → Keeps ps s b) :
    Keeps ps s (if p then a else b) := by
  split
  · exact h ‹_›
  · exact k ‹_›

/-- A fold keeps what each of its steps keeps. -/
theorem keeps_foldl {ps : Nat} {α : Type} {f : State → α → State} {r s : State} {l : List α}
    (h : ∀ r s a, Keeps ps r s → Keeps ps r (f s a)) (k : Keeps ps r s) : Keeps ps r (l.foldl f s) := by
  induction l generalizing s with
  | nil => exact k
  | cons a l ih => exact ih (h r s a k)

/-! ## Updates of parts of the state -/

theorem keeps_set_mod {ps : Nat} {r x : State} (h : Keeps ps r x) (hs : Sub 0x20 ps) (v_mod : ModuleState) :
    Keeps ps r { x with mod := v_mod } :=
  keeps_trans h ⟨id, rfl, oneWay_refl _,
    ⟨fun _ => rfl, fun _ => rfl, fun _ => rfl, fun _ => rfl, fun _ => rfl, sub_free hs rfl, fun _ => rfl, fun _
     => rfl, fun _ => rfl, fun _ => rfl, fun _ => rfl, fun _ => rfl, fun _ => rfl, fun _ => rfl, fun _ => rfl,
     fun _ => rfl, fun _ => rfl, fun _ => rfl, fun _ => rfl, fun _ => rfl, fun _ => rfl, fun _ => rfl, fun _ =>
     rfl, fun _ => rfl, fun _ => rfl, fun _ => rfl, fun _ => rfl, fun _ => rfl, fun _ => rfl, fun _ => rfl, fun _
     => rfl, fun _ => rfl, fun _ => rfl, fun _ => rfl, fun _ => rfl, fun _ => rfl⟩⟩

theorem keeps_set_clk {ps : Nat} {r x : State} (h : Keeps ps r x) (hs : Sub 0x40 ps) (v_clk : ClkState) :
    Keeps ps r { x with clk := v_clk } :=
  keeps_trans h ⟨id, rfl, oneWay_refl _,
    ⟨fun _ => rfl, fun _ => rfl, fun _ => rfl, fun _ => rfl, fun _ => rfl, fun _ => rfl, sub_free hs rfl, fun _
     => rfl, fun _ => rfl, fun _ => rfl, fun _ => rfl, fun _ => rfl, fun _ => rfl, fun _ => rfl, fun _ => rfl,
     fun _ => rfl, fun _ => rfl, fun _ => rfl, fun _ => rfl, fun _ => rfl, fun _ => rfl, fun _ => rfl, fun _ =>
     rfl, fun _ => rfl, fun _ => rfl, fun _ => rfl, fun _ => rfl, fun _ => rfl, fun _ => rfl, fun _ => rfl, fun _
     => rfl, fun _ => rfl, fun _ => rfl, fun _ => rfl, fun _ => rfl, fun _ => rfl⟩⟩

theorem keeps_set_flt {ps : Nat} {r x : State} (h : Keeps ps r x) (hs : Sub 0x80 ps) (v_flt : FltState) :
    Keeps ps r { x with flt := v_flt } :=
  keeps_trans h ⟨id, rfl, oneWay_refl _,
    ⟨fun _ => rfl, fun _ => rfl, fun _ => rfl, fun _ => rfl, fun _ => rfl, fun _ => rfl, fun _ => rfl, sub_free
     hs rfl, fun _ => rfl, fun _ => rfl, fun _ => rfl, fun _ => rfl, fun _ => rfl, fun _ => rfl, fun _ => rfl,
     fun _ => rfl, fun _ => rfl, fun _ => rfl, fun _ => rfl, fun _ => rfl, fun _ => rfl, fun _ => rfl, fun _ =>
     rfl, fun _ => rfl, fun _ => rfl, fun _ => rfl, fun _ => rfl, fun _ => rfl, fun _ => rfl, fun _ => rfl, fun _
     => rfl, fun _ => rfl, fun _ => rfl, fun _ => rfl, fun _ => rfl, fun _ => rfl⟩⟩

theorem keeps_set_mgt {ps : Nat} {r x : State} (h : Keeps ps r x) (hs : Sub 0x100 ps) (v_mgt : MgtState) :
    Keeps ps r { x with mgt := v_mgt } :=
  keeps_trans h ⟨id, rfl, oneWay_refl _,
    ⟨fun _ => rfl, fun _ => rfl, fun _ => rfl, fun _ => rfl, fun _ => rfl, fun _ => rfl, fun _ => rfl, fun _ =>
     rfl, sub_free hs rfl, fun _ => rfl, fun _ => rfl, fun _ => rfl, fun _ => rfl, fun _ => rfl, fun _ => rfl,
     fun _ => rfl, fun _ => rfl, fun _ => rfl, fun _ => rfl, fun _ => rfl, fun _ => rfl, fun _ => rfl, fun _ =>
     rfl, fun _ => rfl, fun _ => rfl, fun _ => rfl, fun _ => rfl, fun _ => rfl, fun _ => rfl, fun _ => rfl, fun _
     => rfl, fun _ => rfl, fun _ => rfl, fun _ => rfl, fun _ => rfl, fun _ => rfl⟩⟩

theorem keeps_set_log {ps : Nat} {r x : State} (h : Keeps ps r x) (hs : Sub 0x200 ps) (v_log : LogState) :
    Keeps ps r { x with log := v_log } :=
  keeps_trans h ⟨id, rfl, oneWay_refl _,
    ⟨fun _ => rfl, fun _ => rfl, fun _ => rfl, fun _ => rfl, fun _ => rfl, fun _ => rfl, fun _ => rfl, fun _ =>
     rfl, fun _ => rfl, sub_free hs rfl, fun _ => rfl, fun _ => rfl, fun _ => rfl, fun _ => rfl, fun _ => rfl,
     fun _ => rfl, fun _ => rfl, fun _ => rfl, fun _ => rfl, fun _ => rfl, fun _ => rfl, fun _ => rfl, fun _ =>
     rfl, fun _ => rfl, fun _ => rfl, fun _ => rfl, fun _ => rfl, fun _ => rfl, fun _ => rfl, fun _ => rfl, fun _
     => rfl, fun _ => rfl, fun _ => rfl, fun _ => rfl, fun _ => rfl, fun _ => rfl⟩⟩

theorem keeps_set_owl {ps : Nat} {r x : State} (h : Keeps ps r x) (hs : Sub 0x400 ps) (v_owl : OwlState) :
    Keeps ps r { x with owl := v_owl } :=
  keeps_trans h ⟨id, rfl, oneWay_refl _,
    ⟨fun _ => rfl, fun _ => rfl, fun _ => rfl, fun _ => rfl, fun _ => rfl, fun _ => rfl, fun _ => rfl, fun _ =>
     rfl, fun _ => rfl, fun _ => rfl, sub_free hs rfl, fun _ => rfl, fun _ => rfl, fun _ => rfl, fun _ => rfl,
     fun _ => rfl, fun _ => rfl, fun _ => rfl, fun _ => rfl, fun _ => rfl, fun _ => rfl, fun _ => rfl, fun _ =>
     rfl, fun _ => rfl, fun _ => rfl, fun _ => rfl, fun _ => rfl, fun _ => rfl, fun _ => rfl, fun _ => rfl, fun _
     => rfl, fun _ => rfl, fun _ => rfl, fun _ => rfl, fun _ => rfl, fun _ => rfl⟩⟩

theorem keeps_set_pwr {ps : Nat} {r x : State} (h : Keeps ps r x) (hs : Sub 0x800 ps) (v_pwr : PwrState) :
    Keeps ps r { x with pwr := v_pwr } :=
  keeps_trans h ⟨id, rfl, oneWay_refl _,
    ⟨fun _ => rfl, fun _ => rfl, fun _ => rfl, fun _ => rfl, fun _ => rfl, fun _ => rfl, fun _ => rfl, fun _ =>
     rfl, fun _ => rfl, fun _ => rfl, fun _ => rfl, sub_free hs rfl, fun _ => rfl, fun _ => rfl, fun _ => rfl,
     fun _ => rfl, fun _ => rfl, fun _ => rfl, fun _ => rfl, fun _ => rfl, fun _ => rfl, fun _ => rfl, fun _ =>
     rfl, fun _ => rfl, fun _ => rfl, fun _ => rfl, fun _ => rfl, fun _ => rfl, fun _ => rfl, fun _ => rfl, fun _
     => rfl, fun _ => rfl, fun _ => rfl, fun _ => rfl, fun _ => rfl, fun _ => rfl⟩⟩

theorem keeps_set_led {ps : Nat} {r x : State} (h : Keeps ps r x) (hs : Sub 0x1000 ps) (v_led : LedgerState) :
    Keeps ps r { x with led := v_led } :=
  keeps_trans h ⟨id, rfl, oneWay_refl _,
    ⟨fun _ => rfl, fun _ => rfl, fun _ => rfl, fun _ => rfl, fun _ => rfl, fun _ => rfl, fun _ => rfl, fun _ =>
     rfl, fun _ => rfl, fun _ => rfl, fun _ => rfl, fun _ => rfl, sub_free hs rfl, fun _ => rfl, fun _ => rfl,
     fun _ => rfl, fun _ => rfl, fun _ => rfl, fun _ => rfl, fun _ => rfl, fun _ => rfl, fun _ => rfl, fun _ =>
     rfl, fun _ => rfl, fun _ => rfl, fun _ => rfl, fun _ => rfl, fun _ => rfl, fun _ => rfl, fun _ => rfl, fun _
     => rfl, fun _ => rfl, fun _ => rfl, fun _ => rfl, fun _ => rfl, fun _ => rfl⟩⟩

theorem keeps_set_nv {ps : Nat} {r x : State} (h : Keeps ps r x) (hs : Sub 0x2000 ps) {v_nv : NvState} (n :
    OneWay x.nv v_nv) :
    Keeps ps r { x with nv := v_nv } :=
  keeps_trans h ⟨id, rfl, n,
    ⟨fun _ => rfl, fun _ => rfl, fun _ => rfl, fun _ => rfl, fun _ => rfl, fun _ => rfl, fun _ => rfl, fun _ =>
     rfl, fun _ => rfl, fun _ => rfl, fun _ => rfl, fun _ => rfl, fun _ => rfl, sub_free hs rfl, fun _ => rfl,
     fun _ => rfl, fun _ => rfl, fun _ => rfl, fun _ => rfl, fun _ => rfl, fun _ => rfl, fun _ => rfl, fun _ =>
     rfl, fun _ => rfl, fun _ => rfl, fun _ => rfl, fun _ => rfl, fun _ => rfl, fun _ => rfl, fun _ => rfl, fun _
     => rfl, fun _ => rfl, fun _ => rfl, fun _ => rfl, fun _ => rfl, fun _ => rfl⟩⟩

theorem keeps_set_hif {ps : Nat} {r x : State} (h : Keeps ps r x) (hs : Sub 0x4000 ps) (v_hif : HifState) :
    Keeps ps r { x with hif := v_hif } :=
  keeps_trans h ⟨id, rfl, oneWay_refl _,
    ⟨fun _ => rfl, fun _ => rfl, fun _ => rfl, fun _ => rfl, fun _ => rfl, fun _ => rfl, fun _ => rfl, fun _ =>
     rfl, fun _ => rfl, fun _ => rfl, fun _ => rfl, fun _ => rfl, fun _ => rfl, fun _ => rfl, sub_free hs rfl,
     fun _ => rfl, fun _ => rfl, fun _ => rfl, fun _ => rfl, fun _ => rfl, fun _ => rfl, fun _ => rfl, fun _ =>
     rfl, fun _ => rfl, fun _ => rfl, fun _ => rfl, fun _ => rfl, fun _ => rfl, fun _ => rfl, fun _ => rfl, fun _
     => rfl, fun _ => rfl, fun _ => rfl, fun _ => rfl, fun _ => rfl, fun _ => rfl⟩⟩

theorem keeps_set_cmd {ps : Nat} {r x : State} (h : Keeps ps r x) (hs : Sub 0x8000 ps) (v_cmd : CmdState) :
    Keeps ps r { x with cmd := v_cmd } :=
  keeps_trans h ⟨id, rfl, oneWay_refl _,
    ⟨fun _ => rfl, fun _ => rfl, fun _ => rfl, fun _ => rfl, fun _ => rfl, fun _ => rfl, fun _ => rfl, fun _ =>
     rfl, fun _ => rfl, fun _ => rfl, fun _ => rfl, fun _ => rfl, fun _ => rfl, fun _ => rfl, fun _ => rfl,
     sub_free hs rfl, fun _ => rfl, fun _ => rfl, fun _ => rfl, fun _ => rfl, fun _ => rfl, fun _ => rfl, fun _
     => rfl, fun _ => rfl, fun _ => rfl, fun _ => rfl, fun _ => rfl, fun _ => rfl, fun _ => rfl, fun _ => rfl,
     fun _ => rfl, fun _ => rfl, fun _ => rfl, fun _ => rfl, fun _ => rfl, fun _ => rfl⟩⟩

theorem keeps_set_tsk {ps : Nat} {r x : State} (h : Keeps ps r x) (hs : Sub 0x200000 ps) (v_tsk : TskState) :
    Keeps ps r { x with tsk := v_tsk } :=
  keeps_trans h ⟨id, rfl, oneWay_refl _,
    ⟨fun _ => rfl, fun _ => rfl, fun _ => rfl, fun _ => rfl, fun _ => rfl, fun _ => rfl, fun _ => rfl, fun _ =>
     rfl, fun _ => rfl, fun _ => rfl, fun _ => rfl, fun _ => rfl, fun _ => rfl, fun _ => rfl, fun _ => rfl, fun _
     => rfl, fun _ => rfl, fun _ => rfl, fun _ => rfl, fun _ => rfl, fun _ => rfl, sub_free hs rfl, fun _ => rfl,
     fun _ => rfl, fun _ => rfl, fun _ => rfl, fun _ => rfl, fun _ => rfl, fun _ => rfl, fun _ => rfl, fun _ =>
     rfl, fun _ => rfl, fun _ => rfl, fun _ => rfl, fun _ => rfl, fun _ => rfl⟩⟩

theorem keeps_set_col {ps : Nat} {r x : State} (h : Keeps ps r x) (hs : Sub 0x4000000 ps) (v_col : ColState) :
    Keeps ps r { x with col := v_col } :=
  keeps_trans h ⟨id, rfl, oneWay_refl _,
    ⟨fun _ => rfl, fun _ => rfl, fun _ => rfl, fun _ => rfl, fun _ => rfl, fun _ => rfl, fun _ => rfl, fun _ =>
     rfl, fun _ => rfl, fun _ => rfl, fun _ => rfl, fun _ => rfl, fun _ => rfl, fun _ => rfl, fun _ => rfl, fun _
     => rfl, fun _ => rfl, fun _ => rfl, fun _ => rfl, fun _ => rfl, fun _ => rfl, fun _ => rfl, fun _ => rfl,
     fun _ => rfl, fun _ => rfl, fun _ => rfl, sub_free hs rfl, fun _ => rfl, fun _ => rfl, fun _ => rfl, fun _
     => rfl, fun _ => rfl, fun _ => rfl, fun _ => rfl, fun _ => rfl, fun _ => rfl⟩⟩

theorem keeps_set_ing {ps : Nat} {r x : State} (h : Keeps ps r x) (hs : Sub 0x20000000 ps) (v_ing : IngState) :
    Keeps ps r { x with ing := v_ing } :=
  keeps_trans h ⟨id, rfl, oneWay_refl _,
    ⟨fun _ => rfl, fun _ => rfl, fun _ => rfl, fun _ => rfl, fun _ => rfl, fun _ => rfl, fun _ => rfl, fun _ =>
     rfl, fun _ => rfl, fun _ => rfl, fun _ => rfl, fun _ => rfl, fun _ => rfl, fun _ => rfl, fun _ => rfl, fun _
     => rfl, fun _ => rfl, fun _ => rfl, fun _ => rfl, fun _ => rfl, fun _ => rfl, fun _ => rfl, fun _ => rfl,
     fun _ => rfl, fun _ => rfl, fun _ => rfl, fun _ => rfl, fun _ => rfl, fun _ => rfl, sub_free hs rfl, fun _
     => rfl, fun _ => rfl, fun _ => rfl, fun _ => rfl, fun _ => rfl, fun _ => rfl⟩⟩

theorem keeps_set_hbm {ps : Nat} {r x : State} (h : Keeps ps r x) (hs : Sub 0x400000 ps) (v_hbm : MemState) :
    Keeps ps r { x with hbm := v_hbm } :=
  keeps_trans h ⟨id, rfl, oneWay_refl _,
    ⟨fun _ => rfl, fun _ => rfl, fun _ => rfl, fun _ => rfl, fun _ => rfl, fun _ => rfl, fun _ => rfl, fun _ =>
     rfl, fun _ => rfl, fun _ => rfl, fun _ => rfl, fun _ => rfl, fun _ => rfl, fun _ => rfl, fun _ => rfl, fun _
     => rfl, fun _ => rfl, fun _ => rfl, fun _ => rfl, fun _ => rfl, fun _ => rfl, fun _ => rfl, sub_free hs rfl,
     fun _ => rfl, fun _ => rfl, fun _ => rfl, fun _ => rfl, fun _ => rfl, fun _ => rfl, fun _ => rfl, fun _ =>
     rfl, fun _ => rfl, fun _ => rfl, fun _ => rfl, fun _ => rfl, fun _ => rfl⟩⟩

theorem keeps_set_ime {ps : Nat} {r x : State} (h : Keeps ps r x) (hs : Sub 0x800000 ps) (v_ime : ImeState) :
    Keeps ps r { x with ime := v_ime } :=
  keeps_trans h ⟨id, rfl, oneWay_refl _,
    ⟨fun _ => rfl, fun _ => rfl, fun _ => rfl, fun _ => rfl, fun _ => rfl, fun _ => rfl, fun _ => rfl, fun _ =>
     rfl, fun _ => rfl, fun _ => rfl, fun _ => rfl, fun _ => rfl, fun _ => rfl, fun _ => rfl, fun _ => rfl, fun _
     => rfl, fun _ => rfl, fun _ => rfl, fun _ => rfl, fun _ => rfl, fun _ => rfl, fun _ => rfl, fun _ => rfl,
     sub_free hs rfl, fun _ => rfl, fun _ => rfl, fun _ => rfl, fun _ => rfl, fun _ => rfl, fun _ => rfl, fun _
     => rfl, fun _ => rfl, fun _ => rfl, fun _ => rfl, fun _ => rfl, fun _ => rfl⟩⟩

theorem keeps_set_wmk {ps : Nat} {r x : State} (h : Keeps ps r x) (hs : Sub 0x2000000 ps) (v_wmk : WmkState) :
    Keeps ps r { x with wmk := v_wmk } :=
  keeps_trans h ⟨id, rfl, oneWay_refl _,
    ⟨fun _ => rfl, fun _ => rfl, fun _ => rfl, fun _ => rfl, fun _ => rfl, fun _ => rfl, fun _ => rfl, fun _ =>
     rfl, fun _ => rfl, fun _ => rfl, fun _ => rfl, fun _ => rfl, fun _ => rfl, fun _ => rfl, fun _ => rfl, fun _
     => rfl, fun _ => rfl, fun _ => rfl, fun _ => rfl, fun _ => rfl, fun _ => rfl, fun _ => rfl, fun _ => rfl,
     fun _ => rfl, fun _ => rfl, sub_free hs rfl, fun _ => rfl, fun _ => rfl, fun _ => rfl, fun _ => rfl, fun _
     => rfl, fun _ => rfl, fun _ => rfl, fun _ => rfl, fun _ => rfl, fun _ => rfl⟩⟩

theorem keeps_set_lnk {ps : Nat} {r x : State} (h : Keeps ps r x) (hs : Sub 0x1000000 ps) (v_lnk : LnkState) :
    Keeps ps r { x with lnk := v_lnk } :=
  keeps_trans h ⟨id, rfl, oneWay_refl _,
    ⟨fun _ => rfl, fun _ => rfl, fun _ => rfl, fun _ => rfl, fun _ => rfl, fun _ => rfl, fun _ => rfl, fun _ =>
     rfl, fun _ => rfl, fun _ => rfl, fun _ => rfl, fun _ => rfl, fun _ => rfl, fun _ => rfl, fun _ => rfl, fun _
     => rfl, fun _ => rfl, fun _ => rfl, fun _ => rfl, fun _ => rfl, fun _ => rfl, fun _ => rfl, fun _ => rfl,
     fun _ => rfl, sub_free hs rfl, fun _ => rfl, fun _ => rfl, fun _ => rfl, fun _ => rfl, fun _ => rfl, fun _
     => rfl, fun _ => rfl, fun _ => rfl, fun _ => rfl, fun _ => rfl, fun _ => rfl⟩⟩

theorem keeps_set_lcs {ps : Nat} {r x : State} (h : Keeps ps r x) (hs : Sub 0x100000000 ps) (v_lcs : LcsState) :
    Keeps ps r { x with lcs := v_lcs } :=
  keeps_trans h ⟨id, rfl, oneWay_refl _,
    ⟨fun _ => rfl, fun _ => rfl, fun _ => rfl, fun _ => rfl, fun _ => rfl, fun _ => rfl, fun _ => rfl, fun _ =>
     rfl, fun _ => rfl, fun _ => rfl, fun _ => rfl, fun _ => rfl, fun _ => rfl, fun _ => rfl, fun _ => rfl, fun _
     => rfl, fun _ => rfl, fun _ => rfl, fun _ => rfl, fun _ => rfl, fun _ => rfl, fun _ => rfl, fun _ => rfl,
     fun _ => rfl, fun _ => rfl, fun _ => rfl, fun _ => rfl, fun _ => rfl, fun _ => rfl, fun _ => rfl, fun _ =>
     rfl, fun _ => rfl, sub_free hs rfl, fun _ => rfl, fun _ => rfl, fun _ => rfl⟩⟩

theorem keeps_set_mxe {ps : Nat} {r x : State} (h : Keeps ps r x) (hs : Sub 0x200000000 ps) (v_mxe : MxeState) :
    Keeps ps r { x with mxe := v_mxe } :=
  keeps_trans h ⟨id, rfl, oneWay_refl _,
    ⟨fun _ => rfl, fun _ => rfl, fun _ => rfl, fun _ => rfl, fun _ => rfl, fun _ => rfl, fun _ => rfl, fun _ =>
     rfl, fun _ => rfl, fun _ => rfl, fun _ => rfl, fun _ => rfl, fun _ => rfl, fun _ => rfl, fun _ => rfl, fun _
     => rfl, fun _ => rfl, fun _ => rfl, fun _ => rfl, fun _ => rfl, fun _ => rfl, fun _ => rfl, fun _ => rfl,
     fun _ => rfl, fun _ => rfl, fun _ => rfl, fun _ => rfl, fun _ => rfl, fun _ => rfl, fun _ => rfl, fun _ =>
     rfl, fun _ => rfl, fun _ => rfl, sub_free hs rfl, fun _ => rfl, fun _ => rfl⟩⟩

theorem keeps_set_vcu {ps : Nat} {r x : State} (h : Keeps ps r x) (hs : Sub 0x400000000 ps) (v_vcu : VcuState) :
    Keeps ps r { x with vcu := v_vcu } :=
  keeps_trans h ⟨id, rfl, oneWay_refl _,
    ⟨fun _ => rfl, fun _ => rfl, fun _ => rfl, fun _ => rfl, fun _ => rfl, fun _ => rfl, fun _ => rfl, fun _ =>
     rfl, fun _ => rfl, fun _ => rfl, fun _ => rfl, fun _ => rfl, fun _ => rfl, fun _ => rfl, fun _ => rfl, fun _
     => rfl, fun _ => rfl, fun _ => rfl, fun _ => rfl, fun _ => rfl, fun _ => rfl, fun _ => rfl, fun _ => rfl,
     fun _ => rfl, fun _ => rfl, fun _ => rfl, fun _ => rfl, fun _ => rfl, fun _ => rfl, fun _ => rfl, fun _ =>
     rfl, fun _ => rfl, fun _ => rfl, fun _ => rfl, sub_free hs rfl, fun _ => rfl⟩⟩

theorem keeps_set_svc {ps : Nat} {r x : State} (h : Keeps ps r x) (hs : Sub 0x800000000 ps) (v_svc : SvcState) :
    Keeps ps r { x with svc := v_svc } :=
  keeps_trans h ⟨id, rfl, oneWay_refl _,
    ⟨fun _ => rfl, fun _ => rfl, fun _ => rfl, fun _ => rfl, fun _ => rfl, fun _ => rfl, fun _ => rfl, fun _ =>
     rfl, fun _ => rfl, fun _ => rfl, fun _ => rfl, fun _ => rfl, fun _ => rfl, fun _ => rfl, fun _ => rfl, fun _
     => rfl, fun _ => rfl, fun _ => rfl, fun _ => rfl, fun _ => rfl, fun _ => rfl, fun _ => rfl, fun _ => rfl,
     fun _ => rfl, fun _ => rfl, fun _ => rfl, fun _ => rfl, fun _ => rfl, fun _ => rfl, fun _ => rfl, fun _ =>
     rfl, fun _ => rfl, fun _ => rfl, fun _ => rfl, fun _ => rfl, sub_free hs rfl⟩⟩

theorem keeps_set_ckp {ps : Nat} {r x : State} (h : Keeps ps r x) (hs : Sub 0x40000000 ps) (v_ckp : CkpState) :
    Keeps ps r { x with ckp := v_ckp } :=
  keeps_trans h ⟨id, rfl, oneWay_refl _,
    ⟨fun _ => rfl, fun _ => rfl, fun _ => rfl, fun _ => rfl, fun _ => rfl, fun _ => rfl, fun _ => rfl, fun _ =>
     rfl, fun _ => rfl, fun _ => rfl, fun _ => rfl, fun _ => rfl, fun _ => rfl, fun _ => rfl, fun _ => rfl, fun _
     => rfl, fun _ => rfl, fun _ => rfl, fun _ => rfl, fun _ => rfl, fun _ => rfl, fun _ => rfl, fun _ => rfl,
     fun _ => rfl, fun _ => rfl, fun _ => rfl, fun _ => rfl, fun _ => rfl, fun _ => rfl, fun _ => rfl, sub_free
     hs rfl, fun _ => rfl, fun _ => rfl, fun _ => rfl, fun _ => rfl, fun _ => rfl⟩⟩

theorem keeps_set_sec {ps : Nat} {r x : State} (h : Keeps ps r x) (hs : Sub 0x80000000 ps) (v_sec : SecState) :
    Keeps ps r { x with sec := v_sec } :=
  keeps_trans h ⟨id, rfl, oneWay_refl _,
    ⟨fun _ => rfl, fun _ => rfl, fun _ => rfl, fun _ => rfl, fun _ => rfl, fun _ => rfl, fun _ => rfl, fun _ =>
     rfl, fun _ => rfl, fun _ => rfl, fun _ => rfl, fun _ => rfl, fun _ => rfl, fun _ => rfl, fun _ => rfl, fun _
     => rfl, fun _ => rfl, fun _ => rfl, fun _ => rfl, fun _ => rfl, fun _ => rfl, fun _ => rfl, fun _ => rfl,
     fun _ => rfl, fun _ => rfl, fun _ => rfl, fun _ => rfl, fun _ => rfl, fun _ => rfl, fun _ => rfl, fun _ =>
     rfl, sub_free hs rfl, fun _ => rfl, fun _ => rfl, fun _ => rfl, fun _ => rfl⟩⟩

theorem keeps_set_out {ps : Nat} {r x : State} (h : Keeps ps r x) (hs : Sub 0x1 ps) (v_out : List Output) :
    Keeps ps r { x with out := v_out } :=
  keeps_trans h ⟨id, rfl, oneWay_refl _,
    ⟨sub_free hs rfl, fun _ => rfl, fun _ => rfl, fun _ => rfl, fun _ => rfl, fun _ => rfl, fun _ => rfl, fun _
     => rfl, fun _ => rfl, fun _ => rfl, fun _ => rfl, fun _ => rfl, fun _ => rfl, fun _ => rfl, fun _ => rfl,
     fun _ => rfl, fun _ => rfl, fun _ => rfl, fun _ => rfl, fun _ => rfl, fun _ => rfl, fun _ => rfl, fun _ =>
     rfl, fun _ => rfl, fun _ => rfl, fun _ => rfl, fun _ => rfl, fun _ => rfl, fun _ => rfl, fun _ => rfl, fun _
     => rfl, fun _ => rfl, fun _ => rfl, fun _ => rfl, fun _ => rfl, fun _ => rfl⟩⟩

theorem keeps_set_draws {ps : Nat} {r x : State} (h : Keeps ps r x) (hs : Sub 0x2 ps) (v_draws : Nat) :
    Keeps ps r { x with draws := v_draws } :=
  keeps_trans h ⟨id, rfl, oneWay_refl _,
    ⟨fun _ => rfl, sub_free hs rfl, fun _ => rfl, fun _ => rfl, fun _ => rfl, fun _ => rfl, fun _ => rfl, fun _
     => rfl, fun _ => rfl, fun _ => rfl, fun _ => rfl, fun _ => rfl, fun _ => rfl, fun _ => rfl, fun _ => rfl,
     fun _ => rfl, fun _ => rfl, fun _ => rfl, fun _ => rfl, fun _ => rfl, fun _ => rfl, fun _ => rfl, fun _ =>
     rfl, fun _ => rfl, fun _ => rfl, fun _ => rfl, fun _ => rfl, fun _ => rfl, fun _ => rfl, fun _ => rfl, fun _
     => rfl, fun _ => rfl, fun _ => rfl, fun _ => rfl, fun _ => rfl, fun _ => rfl⟩⟩

theorem keeps_set_mem_tsk {ps : Nat} {r x : State} (h : Keeps ps r x) (hs : Sub 0x280000 ps) {v_mem : List
    Host.Cell} (v_tsk : TskState) (k : Memory.wf x.mem → Memory.wf v_mem) :
    Keeps ps r { x with mem := v_mem, tsk := v_tsk } :=
  keeps_trans h ⟨k, rfl, oneWay_refl _,
    ⟨fun _ => rfl, fun _ => rfl, fun _ => rfl, fun _ => rfl, fun _ => rfl, fun _ => rfl, fun _ => rfl, fun _ =>
     rfl, fun _ => rfl, fun _ => rfl, fun _ => rfl, fun _ => rfl, fun _ => rfl, fun _ => rfl, fun _ => rfl, fun _
     => rfl, fun _ => rfl, fun _ => rfl, fun _ => rfl, sub_free hs rfl, fun _ => rfl, sub_free hs rfl, fun _ =>
     rfl, fun _ => rfl, fun _ => rfl, fun _ => rfl, fun _ => rfl, fun _ => rfl, fun _ => rfl, fun _ => rfl, fun _
     => rfl, fun _ => rfl, fun _ => rfl, fun _ => rfl, fun _ => rfl, fun _ => rfl⟩⟩

theorem keeps_set_poison {ps : Nat} {r x : State} (h : Keeps ps r x) (hs : Sub 0x100000 ps) (v_poison : Tbl
    Poison) :
    Keeps ps r { x with poison := v_poison } :=
  keeps_trans h ⟨id, rfl, oneWay_refl _,
    ⟨fun _ => rfl, fun _ => rfl, fun _ => rfl, fun _ => rfl, fun _ => rfl, fun _ => rfl, fun _ => rfl, fun _ =>
     rfl, fun _ => rfl, fun _ => rfl, fun _ => rfl, fun _ => rfl, fun _ => rfl, fun _ => rfl, fun _ => rfl, fun _
     => rfl, fun _ => rfl, fun _ => rfl, fun _ => rfl, fun _ => rfl, sub_free hs rfl, fun _ => rfl, fun _ => rfl,
     fun _ => rfl, fun _ => rfl, fun _ => rfl, fun _ => rfl, fun _ => rfl, fun _ => rfl, fun _ => rfl, fun _ =>
     rfl, fun _ => rfl, fun _ => rfl, fun _ => rfl, fun _ => rfl, fun _ => rfl⟩⟩

theorem keeps_set_log_nv {ps : Nat} {r x : State} (h : Keeps ps r x) (hs : Sub 0x2200 ps) (v_log : LogState)
    {v_nv : NvState} (n : OneWay x.nv v_nv) :
    Keeps ps r { x with log := v_log, nv := v_nv } :=
  keeps_trans h ⟨id, rfl, n,
    ⟨fun _ => rfl, fun _ => rfl, fun _ => rfl, fun _ => rfl, fun _ => rfl, fun _ => rfl, fun _ => rfl, fun _ =>
     rfl, fun _ => rfl, sub_free hs rfl, fun _ => rfl, fun _ => rfl, fun _ => rfl, sub_free hs rfl, fun _ => rfl,
     fun _ => rfl, fun _ => rfl, fun _ => rfl, fun _ => rfl, fun _ => rfl, fun _ => rfl, fun _ => rfl, fun _ =>
     rfl, fun _ => rfl, fun _ => rfl, fun _ => rfl, fun _ => rfl, fun _ => rfl, fun _ => rfl, fun _ => rfl, fun _
     => rfl, fun _ => rfl, fun _ => rfl, fun _ => rfl, fun _ => rfl, fun _ => rfl⟩⟩

theorem keeps_set_ctxs {ps : Nat} {r x : State} (h : Keeps ps r x) (hs : Sub 0x10000 ps) (v_ctxs : Tbl Ctx) :
    Keeps ps r { x with ctxs := v_ctxs } :=
  keeps_trans h ⟨id, rfl, oneWay_refl _,
    ⟨fun _ => rfl, fun _ => rfl, fun _ => rfl, fun _ => rfl, fun _ => rfl, fun _ => rfl, fun _ => rfl, fun _ =>
     rfl, fun _ => rfl, fun _ => rfl, fun _ => rfl, fun _ => rfl, fun _ => rfl, fun _ => rfl, fun _ => rfl, fun _
     => rfl, sub_free hs rfl, fun _ => rfl, fun _ => rfl, fun _ => rfl, fun _ => rfl, fun _ => rfl, fun _ => rfl,
     fun _ => rfl, fun _ => rfl, fun _ => rfl, fun _ => rfl, fun _ => rfl, fun _ => rfl, fun _ => rfl, fun _ =>
     rfl, fun _ => rfl, fun _ => rfl, fun _ => rfl, fun _ => rfl, fun _ => rfl⟩⟩

theorem keeps_set_mems {ps : Nat} {r x : State} (h : Keeps ps r x) (hs : Sub 0x20000 ps) (v_mems : Tbl MemObj) :
    Keeps ps r { x with mems := v_mems } :=
  keeps_trans h ⟨id, rfl, oneWay_refl _,
    ⟨fun _ => rfl, fun _ => rfl, fun _ => rfl, fun _ => rfl, fun _ => rfl, fun _ => rfl, fun _ => rfl, fun _ =>
     rfl, fun _ => rfl, fun _ => rfl, fun _ => rfl, fun _ => rfl, fun _ => rfl, fun _ => rfl, fun _ => rfl, fun _
     => rfl, fun _ => rfl, sub_free hs rfl, fun _ => rfl, fun _ => rfl, fun _ => rfl, fun _ => rfl, fun _ => rfl,
     fun _ => rfl, fun _ => rfl, fun _ => rfl, fun _ => rfl, fun _ => rfl, fun _ => rfl, fun _ => rfl, fun _ =>
     rfl, fun _ => rfl, fun _ => rfl, fun _ => rfl, fun _ => rfl, fun _ => rfl⟩⟩

theorem keeps_set_runners {ps : Nat} {r x : State} (h : Keeps ps r x) (hs : Sub 0x8000000 ps) (v_runners : Tbl
    Runner) :
    Keeps ps r { x with runners := v_runners } :=
  keeps_trans h ⟨id, rfl, oneWay_refl _,
    ⟨fun _ => rfl, fun _ => rfl, fun _ => rfl, fun _ => rfl, fun _ => rfl, fun _ => rfl, fun _ => rfl, fun _ =>
     rfl, fun _ => rfl, fun _ => rfl, fun _ => rfl, fun _ => rfl, fun _ => rfl, fun _ => rfl, fun _ => rfl, fun _
     => rfl, fun _ => rfl, fun _ => rfl, fun _ => rfl, fun _ => rfl, fun _ => rfl, fun _ => rfl, fun _ => rfl,
     fun _ => rfl, fun _ => rfl, fun _ => rfl, fun _ => rfl, sub_free hs rfl, fun _ => rfl, fun _ => rfl, fun _
     => rfl, fun _ => rfl, fun _ => rfl, fun _ => rfl, fun _ => rfl, fun _ => rfl⟩⟩

theorem keeps_set_evs {ps : Nat} {r x : State} (h : Keeps ps r x) (hs : Sub 0x40000 ps) (v_evs : Tbl Event) :
    Keeps ps r { x with evs := v_evs } :=
  keeps_trans h ⟨id, rfl, oneWay_refl _,
    ⟨fun _ => rfl, fun _ => rfl, fun _ => rfl, fun _ => rfl, fun _ => rfl, fun _ => rfl, fun _ => rfl, fun _ =>
     rfl, fun _ => rfl, fun _ => rfl, fun _ => rfl, fun _ => rfl, fun _ => rfl, fun _ => rfl, fun _ => rfl, fun _
     => rfl, fun _ => rfl, fun _ => rfl, sub_free hs rfl, fun _ => rfl, fun _ => rfl, fun _ => rfl, fun _ => rfl,
     fun _ => rfl, fun _ => rfl, fun _ => rfl, fun _ => rfl, fun _ => rfl, fun _ => rfl, fun _ => rfl, fun _ =>
     rfl, fun _ => rfl, fun _ => rfl, fun _ => rfl, fun _ => rfl, fun _ => rfl⟩⟩

theorem keeps_set_now {ps : Nat} {r x : State} (h : Keeps ps r x) (hs : Sub 0x4 ps) (v_now : Nat) :
    Keeps ps r { x with now := v_now } :=
  keeps_trans h ⟨id, rfl, oneWay_refl _,
    ⟨fun _ => rfl, fun _ => rfl, sub_free hs rfl, fun _ => rfl, fun _ => rfl, fun _ => rfl, fun _ => rfl, fun _
     => rfl, fun _ => rfl, fun _ => rfl, fun _ => rfl, fun _ => rfl, fun _ => rfl, fun _ => rfl, fun _ => rfl,
     fun _ => rfl, fun _ => rfl, fun _ => rfl, fun _ => rfl, fun _ => rfl, fun _ => rfl, fun _ => rfl, fun _ =>
     rfl, fun _ => rfl, fun _ => rfl, fun _ => rfl, fun _ => rfl, fun _ => rfl, fun _ => rfl, fun _ => rfl, fun _
     => rfl, fun _ => rfl, fun _ => rfl, fun _ => rfl, fun _ => rfl, fun _ => rfl⟩⟩

theorem keeps_set_mem {ps : Nat} {r x : State} (h : Keeps ps r x) (hs : Sub 0x80000 ps) {v_mem : List Host.Cell}
    (k : Memory.wf x.mem → Memory.wf v_mem) :
    Keeps ps r { x with mem := v_mem } :=
  keeps_trans h ⟨k, rfl, oneWay_refl _,
    ⟨fun _ => rfl, fun _ => rfl, fun _ => rfl, fun _ => rfl, fun _ => rfl, fun _ => rfl, fun _ => rfl, fun _ =>
     rfl, fun _ => rfl, fun _ => rfl, fun _ => rfl, fun _ => rfl, fun _ => rfl, fun _ => rfl, fun _ => rfl, fun _
     => rfl, fun _ => rfl, fun _ => rfl, fun _ => rfl, sub_free hs rfl, fun _ => rfl, fun _ => rfl, fun _ => rfl,
     fun _ => rfl, fun _ => rfl, fun _ => rfl, fun _ => rfl, fun _ => rfl, fun _ => rfl, fun _ => rfl, fun _ =>
     rfl, fun _ => rfl, fun _ => rfl, fun _ => rfl, fun _ => rfl, fun _ => rfl⟩⟩

theorem keeps_set_cmd_mems_evs_tsk_sec {ps : Nat} {r x : State} (h : Keeps ps r x) (hs : Sub 0x80268000 ps)
    (v_cmd : CmdState) (v_mems : Tbl MemObj) (v_evs : Tbl Event) (v_tsk : TskState) (v_sec : SecState) :
    Keeps ps r { x with cmd := v_cmd, mems := v_mems, evs := v_evs, tsk := v_tsk, sec := v_sec } :=
  keeps_trans h ⟨id, rfl, oneWay_refl _,
    ⟨fun _ => rfl, fun _ => rfl, fun _ => rfl, fun _ => rfl, fun _ => rfl, fun _ => rfl, fun _ => rfl, fun _ =>
     rfl, fun _ => rfl, fun _ => rfl, fun _ => rfl, fun _ => rfl, fun _ => rfl, fun _ => rfl, fun _ => rfl,
     sub_free hs rfl, fun _ => rfl, sub_free hs rfl, sub_free hs rfl, fun _ => rfl, fun _ => rfl, sub_free hs
     rfl, fun _ => rfl, fun _ => rfl, fun _ => rfl, fun _ => rfl, fun _ => rfl, fun _ => rfl, fun _ => rfl, fun _
     => rfl, fun _ => rfl, sub_free hs rfl, fun _ => rfl, fun _ => rfl, fun _ => rfl, fun _ => rfl⟩⟩

theorem keeps_set_mems_mem_poison {ps : Nat} {r x : State} (h : Keeps ps r x) (hs : Sub 0x1a0000 ps) (v_mems :
    Tbl MemObj) {v_mem : List Host.Cell} (v_poison : Tbl Poison) (k : Memory.wf x.mem → Memory.wf v_mem) :
    Keeps ps r { x with mems := v_mems, mem := v_mem, poison := v_poison } :=
  keeps_trans h ⟨k, rfl, oneWay_refl _,
    ⟨fun _ => rfl, fun _ => rfl, fun _ => rfl, fun _ => rfl, fun _ => rfl, fun _ => rfl, fun _ => rfl, fun _ =>
     rfl, fun _ => rfl, fun _ => rfl, fun _ => rfl, fun _ => rfl, fun _ => rfl, fun _ => rfl, fun _ => rfl, fun _
     => rfl, fun _ => rfl, sub_free hs rfl, fun _ => rfl, sub_free hs rfl, sub_free hs rfl, fun _ => rfl, fun _
     => rfl, fun _ => rfl, fun _ => rfl, fun _ => rfl, fun _ => rfl, fun _ => rfl, fun _ => rfl, fun _ => rfl,
     fun _ => rfl, fun _ => rfl, fun _ => rfl, fun _ => rfl, fun _ => rfl, fun _ => rfl⟩⟩

theorem keeps_set_admits {ps : Nat} {r x : State} (h : Keeps ps r x) (hs : Sub 0x10000000 ps) (v_admits : List
    Admission) :
    Keeps ps r { x with admits := v_admits } :=
  keeps_trans h ⟨id, rfl, oneWay_refl _,
    ⟨fun _ => rfl, fun _ => rfl, fun _ => rfl, fun _ => rfl, fun _ => rfl, fun _ => rfl, fun _ => rfl, fun _ =>
     rfl, fun _ => rfl, fun _ => rfl, fun _ => rfl, fun _ => rfl, fun _ => rfl, fun _ => rfl, fun _ => rfl, fun _
     => rfl, fun _ => rfl, fun _ => rfl, fun _ => rfl, fun _ => rfl, fun _ => rfl, fun _ => rfl, fun _ => rfl,
     fun _ => rfl, fun _ => rfl, fun _ => rfl, fun _ => rfl, fun _ => rfl, sub_free hs rfl, fun _ => rfl, fun _
     => rfl, fun _ => rfl, fun _ => rfl, fun _ => rfl, fun _ => rfl, fun _ => rfl⟩⟩

theorem keeps_set_mem_poison {ps : Nat} {r x : State} (h : Keeps ps r x) (hs : Sub 0x180000 ps) {v_mem : List
    Host.Cell} (v_poison : Tbl Poison) (k : Memory.wf x.mem → Memory.wf v_mem) :
    Keeps ps r { x with mem := v_mem, poison := v_poison } :=
  keeps_trans h ⟨k, rfl, oneWay_refl _,
    ⟨fun _ => rfl, fun _ => rfl, fun _ => rfl, fun _ => rfl, fun _ => rfl, fun _ => rfl, fun _ => rfl, fun _ =>
     rfl, fun _ => rfl, fun _ => rfl, fun _ => rfl, fun _ => rfl, fun _ => rfl, fun _ => rfl, fun _ => rfl, fun _
     => rfl, fun _ => rfl, fun _ => rfl, fun _ => rfl, sub_free hs rfl, sub_free hs rfl, fun _ => rfl, fun _ =>
     rfl, fun _ => rfl, fun _ => rfl, fun _ => rfl, fun _ => rfl, fun _ => rfl, fun _ => rfl, fun _ => rfl, fun _
     => rfl, fun _ => rfl, fun _ => rfl, fun _ => rfl, fun _ => rfl, fun _ => rfl⟩⟩

theorem keeps_set_hold64 {ps : Nat} {r x : State} (h : Keeps ps r x) (hs : Sub 0x8 ps) (v_hold64 : List (Reg ×
    Word)) :
    Keeps ps r { x with hold64 := v_hold64 } :=
  keeps_trans h ⟨id, rfl, oneWay_refl _,
    ⟨fun _ => rfl, fun _ => rfl, fun _ => rfl, sub_free hs rfl, fun _ => rfl, fun _ => rfl, fun _ => rfl, fun _
     => rfl, fun _ => rfl, fun _ => rfl, fun _ => rfl, fun _ => rfl, fun _ => rfl, fun _ => rfl, fun _ => rfl,
     fun _ => rfl, fun _ => rfl, fun _ => rfl, fun _ => rfl, fun _ => rfl, fun _ => rfl, fun _ => rfl, fun _ =>
     rfl, fun _ => rfl, fun _ => rfl, fun _ => rfl, fun _ => rfl, fun _ => rfl, fun _ => rfl, fun _ => rfl, fun _
     => rfl, fun _ => rfl, fun _ => rfl, fun _ => rfl, fun _ => rfl, fun _ => rfl⟩⟩

theorem keeps_set_latch64 {ps : Nat} {r x : State} (h : Keeps ps r x) (hs : Sub 0x10 ps) (v_latch64 : List (Reg
    × Word)) :
    Keeps ps r { x with latch64 := v_latch64 } :=
  keeps_trans h ⟨id, rfl, oneWay_refl _,
    ⟨fun _ => rfl, fun _ => rfl, fun _ => rfl, fun _ => rfl, sub_free hs rfl, fun _ => rfl, fun _ => rfl, fun _
     => rfl, fun _ => rfl, fun _ => rfl, fun _ => rfl, fun _ => rfl, fun _ => rfl, fun _ => rfl, fun _ => rfl,
     fun _ => rfl, fun _ => rfl, fun _ => rfl, fun _ => rfl, fun _ => rfl, fun _ => rfl, fun _ => rfl, fun _ =>
     rfl, fun _ => rfl, fun _ => rfl, fun _ => rfl, fun _ => rfl, fun _ => rfl, fun _ => rfl, fun _ => rfl, fun _
     => rfl, fun _ => rfl, fun _ => rfl, fun _ => rfl, fun _ => rfl, fun _ => rfl⟩⟩

theorem mem_linsert {l : List Nat} {c : Nat} (x : Nat) (h : c ∈ l) : c ∈ linsert l x := by
  unfold linsert
  split
  · exact h
  · exact List.mem_cons_of_mem _ h

/-- A cluster retired more. -/
theorem oneWay_retire (a : NvState) (c : Nat) : OneWay a { a with retired := linsert a.retired c } :=
  ⟨fun _ h => mem_linsert c h, bitsIn_refl _, bitsIn_refl _, bitsIn_refl _, id, Nat.le_refl _, bitsIn_refl _, Nat.le_refl _⟩

/-! ## The canonical form of memory -/

theorem cellsWfFrom_le {lo lo' : Nat} (h : lo' ≤ lo) : ∀ (m : List Host.Cell), cellsWfFrom lo m = true → cellsWfFrom lo' m = true
  | [], _ => rfl
  | (k, b) :: t, w => by
    simp only [cellsWfFrom, Bool.and_eq_true, decide_eq_true_eq] at w ⊢
    exact ⟨⟨by omega, w.1.2⟩, w.2⟩

theorem cellPut_wfFrom (k : Nat) (b : Byte) :
    ∀ (m : List Host.Cell) (lo : Nat), lo ≤ k → cellsWfFrom lo m = true → cellsWfFrom lo (cellPut m k b) = true
  | [], lo, hk, _ => by
    unfold cellPut
    split
    · rfl
    · simp_all [cellsWfFrom]
  | (j, c) :: t, lo, hk, w => by
    simp only [cellsWfFrom, Bool.and_eq_true, decide_eq_true_eq] at w
    obtain ⟨⟨w1, w2⟩, w3⟩ := w
    unfold cellPut
    split
    · split
      · simp_all [cellsWfFrom]
      · simp only [cellsWfFrom, Bool.and_eq_true, decide_eq_true_eq]
        exact ⟨⟨hk, ‹_›⟩, ⟨⟨by omega, w2⟩, w3⟩⟩
    · split
      · split
        · exact cellsWfFrom_le (by omega) t w3
        · subst_vars
          simp only [cellsWfFrom, Bool.and_eq_true, decide_eq_true_eq]
          exact ⟨⟨hk, ‹_›⟩, w3⟩
      · simp only [cellsWfFrom, Bool.and_eq_true, decide_eq_true_eq]
        exact ⟨⟨w1, w2⟩, cellPut_wfFrom k b t (j + 1) (by omega) w3⟩

/-- Putting a byte keeps the canonical form. -/
theorem cellPut_wf (m : List Host.Cell) (k : Nat) (b : Byte) (h : Memory.wf m) : Memory.wf (cellPut m k b) :=
  cellPut_wfFrom k b m 0 (Nat.zero_le _) h

theorem filter_wfFrom (p : Host.Cell → Bool) :
    ∀ (m : List Host.Cell) (lo : Nat), cellsWfFrom lo m = true → cellsWfFrom lo (m.filter p) = true
  | [], _, _ => rfl
  | (k, b) :: t, lo, w => by
    simp only [cellsWfFrom, Bool.and_eq_true, decide_eq_true_eq] at w
    obtain ⟨⟨w1, w2⟩, w3⟩ := w
    rw [List.filter_cons]
    split
    · simp only [cellsWfFrom, Bool.and_eq_true, decide_eq_true_eq]
      exact ⟨⟨w1, w2⟩, filter_wfFrom p t (k + 1) w3⟩
    · exact cellsWfFrom_le (by omega) _ (filter_wfFrom p t (k + 1) w3)

/-- Forgetting a range keeps the canonical form. -/
theorem cellsDrop_wf (lo hi : Nat) (m : List Host.Cell) (h : Memory.wf m) : Memory.wf (cellsDrop lo hi m) :=
  filter_wfFrom _ m 0 h

theorem nil_wf (m : List Host.Cell) (_ : Memory.wf m) : Memory.wf [] := rfl

theorem fold_cellPut_wf (l : List (Nat × Byte)) (m : List Host.Cell) (h : Memory.wf m) :
    Memory.wf (l.foldl (fun m e => cellPut m e.1 e.2) m) := by
  induction l generalizing m with
  | nil => exact h
  | cons e l ih => exact ih _ (cellPut_wf m e.1 e.2 h)

end Sys2Proof.Laws
end

