-- ==== Sys2Proof/Laws/KeepsOps.lean ====
section
/-!
SUPPORT. Sys2Proof/Laws/KeepsOps.lean: the operations of Sys2Proof/Machine/Ops.lean keep what Laws/Keeps.lean says.
-/
namespace Sys2Proof.Laws
open Sys2Proof.Machine

theorem modMod_keeps {ps : Nat} {z s : State} (hz : Keeps ps z s) (hs : Sub 0x20 ps) (f : ModuleState → ModuleState)
    : Keeps ps z (modMod f s) := by
  have k_mod : Sub 0x20 ps := sub_of hs rfl
  unfold modMod
  repeat'
    first
    | with_reducible assumption | fail_if_no_progress with_reducible refine keeps_set_mod ?_ k_mod _ | intro _

theorem modClk_keeps {ps : Nat} {z s : State} (hz : Keeps ps z s) (hs : Sub 0x40 ps) (f : ClkState → ClkState) :
    Keeps ps z (modClk f s) := by
  have k_clk : Sub 0x40 ps := sub_of hs rfl
  unfold modClk
  repeat'
    first
    | with_reducible assumption | fail_if_no_progress with_reducible refine keeps_set_clk ?_ k_clk _ | intro _

theorem modFlt_keeps {ps : Nat} {z s : State} (hz : Keeps ps z s) (hs : Sub 0x80 ps) (f : FltState → FltState) :
    Keeps ps z (modFlt f s) := by
  have k_flt : Sub 0x80 ps := sub_of hs rfl
  unfold modFlt
  repeat'
    first
    | with_reducible assumption | fail_if_no_progress with_reducible refine keeps_set_flt ?_ k_flt _ | intro _

theorem modMgt_keeps {ps : Nat} {z s : State} (hz : Keeps ps z s) (hs : Sub 0x100 ps) (f : MgtState → MgtState) :
    Keeps ps z (modMgt f s) := by
  have k_mgt : Sub 0x100 ps := sub_of hs rfl
  unfold modMgt
  repeat'
    first
    | with_reducible assumption | fail_if_no_progress with_reducible refine keeps_set_mgt ?_ k_mgt _ | intro _

theorem modLog_keeps {ps : Nat} {z s : State} (hz : Keeps ps z s) (hs : Sub 0x200 ps) (f : LogState → LogState) :
    Keeps ps z (modLog f s) := by
  have k_log : Sub 0x200 ps := sub_of hs rfl
  unfold modLog
  repeat'
    first
    | with_reducible assumption | fail_if_no_progress with_reducible refine keeps_set_log ?_ k_log _ | intro _

theorem modOwl_keeps {ps : Nat} {z s : State} (hz : Keeps ps z s) (hs : Sub 0x400 ps) (f : OwlState → OwlState) :
    Keeps ps z (modOwl f s) := by
  have k_owl : Sub 0x400 ps := sub_of hs rfl
  unfold modOwl
  repeat'
    first
    | with_reducible assumption | fail_if_no_progress with_reducible refine keeps_set_owl ?_ k_owl _ | intro _

theorem modPwr_keeps {ps : Nat} {z s : State} (hz : Keeps ps z s) (hs : Sub 0x800 ps) (f : PwrState → PwrState) :
    Keeps ps z (modPwr f s) := by
  have k_pwr : Sub 0x800 ps := sub_of hs rfl
  unfold modPwr
  repeat'
    first
    | with_reducible assumption | fail_if_no_progress with_reducible refine keeps_set_pwr ?_ k_pwr _ | intro _

theorem modLed_keeps {ps : Nat} {z s : State} (hz : Keeps ps z s) (hs : Sub 0x1000 ps) (f : LedgerState →
    LedgerState) : Keeps ps z (modLed f s) := by
  have k_led : Sub 0x1000 ps := sub_of hs rfl
  unfold modLed
  repeat'
    first
    | with_reducible assumption | fail_if_no_progress with_reducible refine keeps_set_led ?_ k_led _ | intro _

theorem modNv_keeps {ps : Nat} {z s : State} (hz : Keeps ps z s) (hs : Sub 0x2000 ps) (f : NvState → NvState)
    (k : OneWay s.nv (f s.nv)) : Keeps ps z (modNv f s) :=
  keeps_set_nv hz hs k

theorem modHif_keeps {ps : Nat} {z s : State} (hz : Keeps ps z s) (hs : Sub 0x4000 ps) (f : HifState → HifState) :
    Keeps ps z (modHif f s) := by
  have k_hif : Sub 0x4000 ps := sub_of hs rfl
  unfold modHif
  repeat'
    first
    | with_reducible assumption | fail_if_no_progress with_reducible refine keeps_set_hif ?_ k_hif _ | intro _

theorem modCmd_keeps {ps : Nat} {z s : State} (hz : Keeps ps z s) (hs : Sub 0x8000 ps) (f : CmdState → CmdState) :
    Keeps ps z (modCmd f s) := by
  have k_cmd : Sub 0x8000 ps := sub_of hs rfl
  unfold modCmd
  repeat'
    first
    | with_reducible assumption | fail_if_no_progress with_reducible refine keeps_set_cmd ?_ k_cmd _ | intro _

theorem modTsk_keeps {ps : Nat} {z s : State} (hz : Keeps ps z s) (hs : Sub 0x200000 ps) (f : TskState → TskState) :
    Keeps ps z (modTsk f s) := by
  have k_tsk : Sub 0x200000 ps := sub_of hs rfl
  unfold modTsk
  repeat'
    first
    | with_reducible assumption | fail_if_no_progress with_reducible refine keeps_set_tsk ?_ k_tsk _ | intro _

theorem modCol_keeps {ps : Nat} {z s : State} (hz : Keeps ps z s) (hs : Sub 0x4000000 ps) (f : ColState → ColState)
    : Keeps ps z (modCol f s) := by
  have k_col : Sub 0x4000000 ps := sub_of hs rfl
  unfold modCol
  repeat'
    first
    | with_reducible assumption | fail_if_no_progress with_reducible refine keeps_set_col ?_ k_col _ | intro _

theorem modIng_keeps {ps : Nat} {z s : State} (hz : Keeps ps z s) (hs : Sub 0x20000000 ps) (f : IngState → IngState)
    : Keeps ps z (modIng f s) := by
  have k_ing : Sub 0x20000000 ps := sub_of hs rfl
  unfold modIng
  repeat'
    first
    | with_reducible assumption | fail_if_no_progress with_reducible refine keeps_set_ing ?_ k_ing _ | intro _

theorem modHbm_keeps {ps : Nat} {z s : State} (hz : Keeps ps z s) (hs : Sub 0x400000 ps) (f : MemState → MemState) :
    Keeps ps z (modHbm f s) := by
  have k_hbm : Sub 0x400000 ps := sub_of hs rfl
  unfold modHbm
  repeat'
    first
    | with_reducible assumption | fail_if_no_progress with_reducible refine keeps_set_hbm ?_ k_hbm _ | intro _

theorem modIme_keeps {ps : Nat} {z s : State} (hz : Keeps ps z s) (hs : Sub 0x800000 ps) (f : ImeState → ImeState) :
    Keeps ps z (modIme f s) := by
  have k_ime : Sub 0x800000 ps := sub_of hs rfl
  unfold modIme
  repeat'
    first
    | with_reducible assumption | fail_if_no_progress with_reducible refine keeps_set_ime ?_ k_ime _ | intro _

theorem modWmk_keeps {ps : Nat} {z s : State} (hz : Keeps ps z s) (hs : Sub 0x2000000 ps) (f : WmkState → WmkState)
    : Keeps ps z (modWmk f s) := by
  have k_wmk : Sub 0x2000000 ps := sub_of hs rfl
  unfold modWmk
  repeat'
    first
    | with_reducible assumption | fail_if_no_progress with_reducible refine keeps_set_wmk ?_ k_wmk _ | intro _

theorem modLnk_keeps {ps : Nat} {z s : State} (hz : Keeps ps z s) (hs : Sub 0x1000000 ps) (f : LnkState → LnkState)
    : Keeps ps z (modLnk f s) := by
  have k_lnk : Sub 0x1000000 ps := sub_of hs rfl
  unfold modLnk
  repeat'
    first
    | with_reducible assumption | fail_if_no_progress with_reducible refine keeps_set_lnk ?_ k_lnk _ | intro _

theorem modLcs_keeps {ps : Nat} {z s : State} (hz : Keeps ps z s) (hs : Sub 0x100000000 ps) (f : LcsState →
    LcsState) : Keeps ps z (modLcs f s) := by
  have k_lcs : Sub 0x100000000 ps := sub_of hs rfl
  unfold modLcs
  repeat'
    first
    | with_reducible assumption | fail_if_no_progress with_reducible refine keeps_set_lcs ?_ k_lcs _ | intro _

theorem modMxe_keeps {ps : Nat} {z s : State} (hz : Keeps ps z s) (hs : Sub 0x200000000 ps) (f : MxeState →
    MxeState) : Keeps ps z (modMxe f s) := by
  have k_mxe : Sub 0x200000000 ps := sub_of hs rfl
  unfold modMxe
  repeat'
    first
    | with_reducible assumption | fail_if_no_progress with_reducible refine keeps_set_mxe ?_ k_mxe _ | intro _

theorem modVcu_keeps {ps : Nat} {z s : State} (hz : Keeps ps z s) (hs : Sub 0x400000000 ps) (f : VcuState →
    VcuState) : Keeps ps z (modVcu f s) := by
  have k_vcu : Sub 0x400000000 ps := sub_of hs rfl
  unfold modVcu
  repeat'
    first
    | with_reducible assumption | fail_if_no_progress with_reducible refine keeps_set_vcu ?_ k_vcu _ | intro _

theorem modSvc_keeps {ps : Nat} {z s : State} (hz : Keeps ps z s) (hs : Sub 0x800000000 ps) (f : SvcState →
    SvcState) : Keeps ps z (modSvc f s) := by
  have k_svc : Sub 0x800000000 ps := sub_of hs rfl
  unfold modSvc
  repeat'
    first
    | with_reducible assumption | fail_if_no_progress with_reducible refine keeps_set_svc ?_ k_svc _ | intro _

theorem modCkp_keeps {ps : Nat} {z s : State} (hz : Keeps ps z s) (hs : Sub 0x40000000 ps) (f : CkpState → CkpState)
    : Keeps ps z (modCkp f s) := by
  have k_ckp : Sub 0x40000000 ps := sub_of hs rfl
  unfold modCkp
  repeat'
    first
    | with_reducible assumption | fail_if_no_progress with_reducible refine keeps_set_ckp ?_ k_ckp _ | intro _

theorem modSec_keeps {ps : Nat} {z s : State} (hz : Keeps ps z s) (hs : Sub 0x80000000 ps) (f : SecState → SecState)
    : Keeps ps z (modSec f s) := by
  have k_sec : Sub 0x80000000 ps := sub_of hs rfl
  unfold modSec
  repeat'
    first
    | with_reducible assumption | fail_if_no_progress with_reducible refine keeps_set_sec ?_ k_sec _ | intro _

theorem emit_keeps {ps : Nat} {z s : State} (hz : Keeps ps z s) (hs : Sub 0x1 ps) (o : Output) :
    Keeps ps z (emit o s) := by
  have k_out : Sub 0x1 ps := sub_of hs rfl
  unfold emit
  repeat'
    first
    | with_reducible assumption | fail_if_no_progress with_reducible refine keeps_set_out ?_ k_out _ | intro _

theorem tookFree_keeps {ps : Nat} {z s : State} (hz : Keeps ps z s) (hs : Sub 0x2 ps)  :
    Keeps ps z (tookFree s) := by
  have k_draws : Sub 0x2 ps := sub_of hs rfl
  unfold tookFree
  repeat'
    first
    | with_reducible assumption | fail_if_no_progress with_reducible refine keeps_set_draws ?_ k_draws _ | intro _

theorem markConflict_keeps {ps : Nat} {z s : State} (hz : Keeps ps z s) (hs : Sub 0x200000 ps) (g : Nat) :
    Keeps ps z (markConflict g s) := by
  have k_tsk : Sub 0x200000 ps := sub_of hs rfl
  unfold markConflict
  repeat'
    first
    | with_reducible refine keeps_ite (fun _ => ?_) (fun _ => ?_) | with_reducible assumption
    | fail_if_no_progress with_reducible refine keeps_set_tsk ?_ k_tsk _ | intro _

theorem putCommitted_keeps {ps : Nat} {z s : State} (hz : Keeps ps z s) (hs : Sub 0x280000 ps) (slot off : Nat)
    (b : Byte) : Keeps ps z (putCommitted slot off b s) :=
  keeps_set_mem_tsk hz hs _ (cellPut_wf s.mem (memKey slot off) b)

theorem putByte_keeps {ps : Nat} {z s : State} (hz : Keeps ps z s) (hs : Sub 0x280000 ps) (a : Accessor) (slot :
    Nat) (off : Nat) (b : Byte) : Keeps ps z (putByte a slot off b s) := by
  have k_putCommitted : Sub 0x280000 ps := sub_of hs rfl
  have k_markConflict : Sub 0x200000 ps := sub_of hs rfl
  have k_tsk : Sub 0x200000 ps := sub_of hs rfl
  unfold putByte
  repeat'
    first
    | with_reducible refine keeps_foldl ?_ ?_ | with_reducible refine keeps_ite (fun _ => ?_) (fun _ => ?_)
    | extract_lets | with_reducible assumption | with_reducible refine putCommitted_keeps ?_ k_putCommitted _ _ _
    | with_reducible refine markConflict_keeps ?_ k_markConflict _
    | fail_if_no_progress with_reducible refine keeps_set_tsk ?_ k_tsk _ | intro _ | split | dsimp +zetaDelta only

theorem putBytes_keeps {ps : Nat} {z s : State} (hz : Keeps ps z s) (hs : Sub 0x280000 ps) (a : Accessor)
    (slot off : Nat) (bs : List Byte) : Keeps ps z (putBytes a slot off bs s) := by
  have k_putByte : Sub 0x280000 ps := sub_of hs rfl
  induction bs generalizing off s with
  | nil => exact hz
  | cons b l ih => exact ih (putByte_keeps hz k_putByte a slot off b) (off + 1)

theorem unpoison_keeps {ps : Nat} {z s : State} (hz : Keeps ps z s) (hs : Sub 0x100000 ps) (slot : Nat) (off : Nat)
    : Keeps ps z (unpoison slot off s) := by
  have k_poison : Sub 0x100000 ps := sub_of hs rfl
  unfold unpoison
  repeat'
    first
    | with_reducible assumption | fail_if_no_progress with_reducible refine keeps_set_poison ?_ k_poison _ | intro _

theorem writeLine_keeps {ps : Nat} {z s : State} (hz : Keeps ps z s) (hs : Sub 0x380000 ps) (a : Accessor) (slot :
    Nat) (off : Nat) (bs : List Byte) : Keeps ps z (writeLine a slot off bs s) := by
  have k_unpoison : Sub 0x100000 ps := sub_of hs rfl
  have k_putBytes : Sub 0x280000 ps := sub_of hs rfl
  unfold writeLine
  repeat'
    first
    | with_reducible refine keeps_ite (fun _ => ?_) (fun _ => ?_) | with_reducible assumption
    | with_reducible refine unpoison_keeps ?_ k_unpoison _ _
    | with_reducible refine putBytes_keeps ?_ k_putBytes _ _ _ _ | intro _

theorem breakResv_keeps {ps : Nat} {z s : State} (hz : Keeps ps z s) (hs : Sub 0x800000000 ps) (blocks : List Nat) :
    Keeps ps z (breakResv blocks s) := by
  have k_modSvc : Sub 0x800000000 ps := sub_of hs rfl
  unfold breakResv
  repeat'
    first
    | with_reducible refine keeps_ite (fun _ => ?_) (fun _ => ?_) | with_reducible assumption
    | with_reducible refine modSvc_keeps ?_ k_modSvc _ | intro _ | split

theorem cowGrans_keeps {ps : Nat} {z s : State} (hz : Keeps ps z s) (hs : Sub 0x40000000 ps) (gs : List Nat) :
    Keeps ps z (cowGrans gs s) := by
  have k_modCkp : Sub 0x40000000 ps := sub_of hs rfl
  unfold cowGrans
  repeat'
    first
    | with_reducible refine keeps_ite (fun _ => ?_) (fun _ => ?_) | extract_lets | with_reducible assumption
    | with_reducible refine modCkp_keeps ?_ k_modCkp _ | intro _ | split | dsimp +zetaDelta only

theorem cowAlso_keeps {ps : Nat} {z s : State} (hz : Keeps ps z s) (hs : Sub 0x40000000 ps) (op : Nat) (slot : Nat)
    (off : Nat) (bs : List Byte) : Keeps ps z (cowAlso op slot off bs s) := by
  have k_modCkp : Sub 0x40000000 ps := sub_of hs rfl
  unfold cowAlso
  repeat'
    first
    | with_reducible refine keeps_foldl ?_ ?_ | with_reducible refine keeps_ite (fun _ => ?_) (fun _ => ?_)
    | extract_lets | with_reducible assumption | with_reducible refine modCkp_keeps ?_ k_modCkp _ | intro _
    | dsimp +zetaDelta only

theorem cowWrite_keeps {ps : Nat} {z s : State} (hz : Keeps ps z s) (hs : Sub 0x40000000 ps) (a : Accessor) (slot :
    Nat) (off : Nat) (bs : List Byte) : Keeps ps z (cowWrite a slot off bs s) := by
  have k_cowAlso : Sub 0x40000000 ps := sub_of hs rfl
  have k_cowGrans : Sub 0x40000000 ps := sub_of hs rfl
  unfold cowWrite
  repeat'
    first
    | with_reducible refine keeps_ite (fun _ => ?_) (fun _ => ?_) | with_reducible assumption
    | with_reducible refine cowAlso_keeps ?_ k_cowAlso _ _ _ _
    | with_reducible refine cowGrans_keeps ?_ k_cowGrans _ | intro _ | split

theorem writeMem_keeps {ps : Nat} {z s : State} (hz : Keeps ps z s) (hs : Sub 0x840380000 ps) (a : Accessor) (slot :
    Nat) (off : Nat) (bs : List Byte) : Keeps ps z (writeMem a slot off bs s) := by
  have k_cowWrite : Sub 0x40000000 ps := sub_of hs rfl
  have k_breakResv : Sub 0x800000000 ps := sub_of hs rfl
  have k_writeLine : Sub 0x380000 ps := sub_of hs rfl
  unfold writeMem
  repeat'
    first
    | with_reducible refine keeps_foldl ?_ ?_ | extract_lets | with_reducible assumption
    | with_reducible refine cowWrite_keeps ?_ k_cowWrite _ _ _ _
    | with_reducible refine breakResv_keeps ?_ k_breakResv _
    | with_reducible refine writeLine_keeps ?_ k_writeLine _ _ _ _ | intro _ | dsimp +zetaDelta only

theorem writeBlk_keeps {ps : Nat} {z s : State} (hz : Keeps ps z s) (hs : Sub 0x840380000 ps) (slot : Nat) (off :
    Nat) (bs : List Byte) : Keeps ps z (writeBlk slot off bs s) := by
  have k_writeMem : Sub 0x840380000 ps := sub_of hs rfl
  unfold writeBlk
  repeat'
    first
    | with_reducible assumption | with_reducible refine writeMem_keeps ?_ k_writeMem _ _ _ _

theorem post_keeps {ps : Nat} {z s : State} (hz : Keeps ps z s) (hs : Sub 0x8000 ps) (fn : Nat) (code : Nat) (detail
    : Nat) (handle : Nat) : Keeps ps z (post fn code detail handle s) := by
  have k_modCmd : Sub 0x8000 ps := sub_of hs rfl
  unfold post
  repeat'
    first
    | extract_lets | with_reducible assumption | with_reducible refine modCmd_keeps ?_ k_modCmd _ | intro _
    | dsimp +zetaDelta only

theorem postAll_keeps {ps : Nat} {z s : State} (hz : Keeps ps z s) (hs : Sub 0x8000 ps) (fns : List Nat) (code :
    Nat) (detail : Nat) (handle : Nat) : Keeps ps z (postAll fns code detail handle s) := by
  have k_post : Sub 0x8000 ps := sub_of hs rfl
  unfold postAll
  repeat'
    first
    | with_reducible refine keeps_foldl ?_ ?_ | with_reducible assumption
    | with_reducible refine post_keeps ?_ k_post _ _ _ _ | intro _

theorem alertNotify_keeps {ps : Nat} {z s : State} (hz : Keeps ps z s) (hs : Sub 0x101 ps)  :
    Keeps ps z (alertNotify s) := by
  have k_emit : Sub 0x1 ps := sub_of hs rfl
  have k_mgt : Sub 0x100 ps := sub_of hs rfl
  unfold alertNotify
  repeat'
    first
    | with_reducible refine keeps_ite (fun _ => ?_) (fun _ => ?_) | extract_lets | with_reducible assumption
    | with_reducible refine emit_keeps ?_ k_emit _
    | fail_if_no_progress with_reducible refine keeps_set_mgt ?_ k_mgt _ | intro _ | dsimp +zetaDelta only

theorem alertPost_keeps {ps : Nat} {z s : State} (hz : Keeps ps z s) (hs : Sub 0x101 ps) (code : Nat) :
    Keeps ps z (alertPost code s) := by
  have k_alertNotify : Sub 0x101 ps := sub_of hs rfl
  have k_modMgt : Sub 0x100 ps := sub_of hs rfl
  unfold alertPost
  repeat'
    first
    | with_reducible refine keeps_ite (fun _ => ?_) (fun _ => ?_) | extract_lets | with_reducible assumption
    | with_reducible refine alertNotify_keeps ?_ k_alertNotify | with_reducible refine modMgt_keeps ?_ k_modMgt _
    | intro _ | dsimp +zetaDelta only

theorem alertCond_keeps {ps : Nat} {z s : State} (hz : Keeps ps z s) (hs : Sub 0x101 ps) (code : Nat) (holds : Bool)
    : Keeps ps z (alertCond code holds s) := by
  have k_alertPost : Sub 0x101 ps := sub_of hs rfl
  have k_modMgt : Sub 0x100 ps := sub_of hs rfl
  unfold alertCond
  repeat'
    first
    | with_reducible refine keeps_ite (fun _ => ?_) (fun _ => ?_) | extract_lets | with_reducible assumption
    | with_reducible refine alertPost_keeps ?_ k_alertPost _ | with_reducible refine modMgt_keeps ?_ k_modMgt _
    | intro _ | dsimp +zetaDelta only

theorem alertConds_keeps {ps : Nat} {z s : State} (hz : Keeps ps z s) (hs : Sub 0x101 ps)  :
    Keeps ps z (alertConds s) := by
  have k_alertCond : Sub 0x101 ps := sub_of hs rfl
  unfold alertConds
  repeat'
    first
    | with_reducible assumption | with_reducible refine alertCond_keeps ?_ k_alertCond _ _

theorem oneWay_seq {a : NvState} {n : Nat} (h : a.log.nextSeq ≤ n) :
    OneWay a { a with log := { a.log with nextSeq := n } } :=
  ⟨fun _ h => h, bitsIn_refl _, bitsIn_refl _, bitsIn_refl _, id, Nat.le_refl _, bitsIn_refl _, h⟩

theorem logAppend_keeps {ps : Nat} {z s : State} (hz : Keeps ps z s) (hs : Sub 0x2200 ps) (typ : Nat)
    (critical : Bool) (payload : List Byte) : Keeps ps z (logAppend typ critical payload s) := by
  unfold logAppend
  refine keeps_ite (fun _ => hz) (fun _ => ?_)
  extract_lets
  refine keeps_ite (fun _ => keeps_set_log_nv hz hs _ (oneWay_seq (Nat.le_succ _))) (fun _ => ?_)
  refine keeps_ite (fun _ => ?_) (fun _ => keeps_set_log hz (sub_of hs rfl) _)
  extract_lets
  split
  · exact keeps_set_log_nv hz hs _ (oneWay_seq (Nat.le_succ _))
  · exact keeps_set_log_nv hz hs _ (oneWay_seq (Nat.le_succ _))

theorem logWrite_keeps {ps : Nat} {z s : State} (hz : Keeps ps z s) (hs : Sub 0x2200 ps) (typ : Nat) (critical :
    Bool) (payload : List Byte) : Keeps ps z (logWrite typ critical payload s) := by
  have k_logAppend : Sub 0x2200 ps := sub_of hs rfl
  have k_log : Sub 0x200 ps := sub_of hs rfl
  unfold logWrite
  repeat'
    first
    | with_reducible refine keeps_ite (fun _ => ?_) (fun _ => ?_) | with_reducible assumption
    | with_reducible refine logAppend_keeps ?_ k_logAppend _ _ _
    | fail_if_no_progress with_reducible refine keeps_set_log ?_ k_log _ | intro _

theorem logNotice_keeps {ps : Nat} {z s : State} (hz : Keeps ps z s) (hs : Sub 0x2200 ps) (code : Nat) (arg : Nat) :
    Keeps ps z (logNotice code arg s) := by
  have k_logWrite : Sub 0x2200 ps := sub_of hs rfl
  unfold logNotice
  repeat'
    first
    | with_reducible assumption | with_reducible refine logWrite_keeps ?_ k_logWrite _ _ _

theorem postWear_keeps {ps : Nat} {z s : State} (hz : Keeps ps z s) (hs : Sub 0x8101 ps)  :
    Keeps ps z (postWear s) := by
  have k_alertPost : Sub 0x101 ps := sub_of hs rfl
  have k_post : Sub 0x8000 ps := sub_of hs rfl
  unfold postWear
  repeat'
    first
    | with_reducible assumption | with_reducible refine alertPost_keeps ?_ k_alertPost _
    | with_reducible refine post_keeps ?_ k_post _ _ _ _

theorem logReadOnly_keeps {ps : Nat} {z s : State} (hz : Keeps ps z s) (hs : Sub 0xa101 ps) :
    Keeps ps z (logReadOnly s) := by
  have k_postWear : Sub 0x8101 ps := sub_of hs rfl
  have k_modNv : Sub 0x2000 ps := sub_of hs rfl
  unfold logReadOnly
  refine keeps_ite (fun _ => hz) (fun _ => postWear_keeps ?_ k_postWear)
  exact keeps_set_nv hz k_modNv (oneWay_same rfl rfl rfl rfl rfl rfl rfl rfl)

theorem fltRecord_keeps {ps : Nat} {z s : State} (hz : Keeps ps z s) (hs : Sub 0x2280 ps) (cls : Nat) (level : Nat)
    (escalated : Bool) (absorbed : Bool) (unit : Nat) (context : Nat) (detail : Nat) :
    Keeps ps z (fltRecord cls level escalated absorbed unit context detail s) := by
  have k_logWrite : Sub 0x2200 ps := sub_of hs rfl
  have k_flt : Sub 0x80 ps := sub_of hs rfl
  unfold fltRecord
  repeat'
    first
    | extract_lets | with_reducible assumption | with_reducible refine logWrite_keeps ?_ k_logWrite _ _ _
    | fail_if_no_progress with_reducible refine keeps_set_flt ?_ k_flt _ | intro _ | dsimp +zetaDelta only

theorem modCtx_keeps {ps : Nat} {z s : State} (hz : Keeps ps z s) (hs : Sub 0x10000 ps) (c : Nat) (f : Ctx → Ctx) :
    Keeps ps z (modCtx c f s) := by
  have k_ctxs : Sub 0x10000 ps := sub_of hs rfl
  unfold modCtx
  repeat'
    first
    | with_reducible assumption | fail_if_no_progress with_reducible refine keeps_set_ctxs ?_ k_ctxs _ | intro _

end Sys2Proof.Laws
end

