-- ==== Sys2Proof/Laws/KeepsOperands.lean ====
section
/-!
SUPPORT. Sys2Proof/Laws/KeepsOperands.lean: the operations of Sys2Proof/Machine/Operands.lean keep what Laws/Keeps.lean says.
-/
namespace Sys2Proof.Laws
open Sys2Proof.Machine

theorem mapDescs_keeps {ps : Nat} {z s : State} (hz : Keeps ps z s) (hs : Sub 0x8000 ps) (f : Desc → Desc) :
    Keeps ps z (mapDescs f s) := by
  have k_modCmd : Sub 0x8000 ps := sub_of hs rfl
  unfold mapDescs
  repeat'
    first
    | with_reducible assumption | with_reducible refine modCmd_keeps ?_ k_modCmd _ | intro _

theorem mapOps_keeps {ps : Nat} {z s : State} (hz : Keeps ps z s) (hs : Sub 0x4000000 ps) (f : TrigOp → TrigOp) :
    Keeps ps z (mapOps f s) := by
  have k_modCol : Sub 0x4000000 ps := sub_of hs rfl
  unfold mapOps
  repeat'
    first
    | with_reducible assumption | with_reducible refine modCol_keeps ?_ k_modCol _ | intro _

theorem modDesc_keeps {ps : Nat} {z s : State} (hz : Keeps ps z s) (hs : Sub 0x8000 ps) (qp : Nat) (sub : Nat) (f :
    Desc → Desc) : Keeps ps z (modDesc qp sub f s) := by
  have k_mapDescs : Sub 0x8000 ps := sub_of hs rfl
  unfold modDesc
  repeat'
    first
    | with_reducible refine keeps_ite (fun _ => ?_) (fun _ => ?_) | with_reducible assumption
    | with_reducible refine mapDescs_keeps ?_ k_mapDescs _ | intro _

theorem endDesc_keeps {ps : Nat} {z s : State} (hz : Keeps ps z s) (hs : Sub 0x8000 ps) (qp : Nat) (sub : Nat) (r :
    Result) : Keeps ps z (endDesc qp sub r s) := by
  have k_modDesc : Sub 0x8000 ps := sub_of hs rfl
  unfold endDesc
  repeat'
    first
    | with_reducible refine keeps_ite (fun _ => ?_) (fun _ => ?_) | with_reducible assumption
    | with_reducible refine modDesc_keeps ?_ k_modDesc _ _ _ | intro _

theorem runDesc_keeps {ps : Nat} {z s : State} (hz : Keeps ps z s) (hs : Sub 0x8000 ps) (qp : Nat) (sub : Nat) (n :
    Nat) : Keeps ps z (runDesc qp sub n s) := by
  have k_modDesc : Sub 0x8000 ps := sub_of hs rfl
  unfold runDesc
  repeat'
    first
    | with_reducible assumption | with_reducible refine modDesc_keeps ?_ k_modDesc _ _ _ | intro _

theorem modQp_keeps {ps : Nat} {z s : State} (hz : Keeps ps z s) (hs : Sub 0x8000 ps) (q : Nat) (f : QueuePair →
    QueuePair) : Keeps ps z (modQp q f s) := by
  have k_modCmd : Sub 0x8000 ps := sub_of hs rfl
  unfold modQp
  repeat'
    first
    | with_reducible assumption | with_reducible refine modCmd_keeps ?_ k_modCmd _ | intro _

theorem onStarted_keeps {ps : Nat} {z s : State} (hz : Keeps ps z s) (hs : Sub 0x0 ps) (op : Nat) (qp : Nat) (sub :
    Nat) (f : Desc → State → State) (h_f : ∀ z x0 x1, Keeps ps z x1 → Keeps ps z (f x0 x1)) :
    Keeps ps z (onStarted op qp sub f s) := by
  unfold onStarted
  repeat'
    first
    | with_reducible refine keeps_ite (fun _ => ?_) (fun _ => ?_) | with_reducible assumption
    | with_reducible refine h_f _ _ _ ?_ | intro _ | split

theorem onRunning_keeps {ps : Nat} {z s : State} (hz : Keeps ps z s) (hs : Sub 0x0 ps) (op : Nat) (qp : Nat) (sub :
    Nat) (f : Desc → State → State) (h_f : ∀ z x0 x1, Keeps ps z x1 → Keeps ps z (f x0 x1)) :
    Keeps ps z (onRunning op qp sub f s) := by
  unfold onRunning
  repeat'
    first
    | with_reducible refine keeps_ite (fun _ => ?_) (fun _ => ?_) | with_reducible assumption
    | with_reducible refine h_f _ _ _ ?_ | intro _ | split

theorem guarded_keeps {ps : Nat} {z s : State} (hz : Keeps ps z s) (hs : Sub 0x8000 ps) (d : Desc) (checks : List
    (Option Result)) (f : State → State) (h_f : ∀ z x0, Keeps ps z x0 → Keeps ps z (f x0)) :
    Keeps ps z (guarded d checks f s) := by
  have k_endDesc : Sub 0x8000 ps := sub_of hs rfl
  unfold guarded
  repeat'
    first
    | with_reducible assumption | with_reducible refine h_f _ _ ?_
    | with_reducible refine endDesc_keeps ?_ k_endDesc _ _ _ | split

theorem sealLog_keeps {ps : Nat} {z s : State} (hz : Keeps ps z s) (hs : Sub 0x80000000 ps) (op : Nat) (reason :
    Nat) (index : Nat) (detail : Nat) : Keeps ps z (sealLog op reason index detail s) := by
  have k_modSec : Sub 0x80000000 ps := sub_of hs rfl
  unfold sealLog
  repeat'
    first
    | with_reducible refine keeps_ite (fun _ => ?_) (fun _ => ?_) | extract_lets | with_reducible assumption
    | with_reducible refine modSec_keeps ?_ k_modSec _ | intro _ | dsimp +zetaDelta only

theorem modVf_keeps {ps : Nat} {z s : State} (hz : Keeps ps z s) (hs : Sub 0x4000 ps) (v : Nat) (f : VfEntry →
    VfEntry) : Keeps ps z (modVf v f s) := by
  have k_modHif : Sub 0x4000 ps := sub_of hs rfl
  unfold modVf
  repeat'
    first
    | with_reducible assumption | with_reducible refine modHif_keeps ?_ k_modHif _ | intro _

theorem modStack_keeps {ps : Nat} {z s : State} (hz : Keeps ps z s) (hs : Sub 0x400000 ps) (k : Nat) (f : Stack →
    Stack) : Keeps ps z (modStack k f s) := by
  have k_modHbm : Sub 0x400000 ps := sub_of hs rfl
  unfold modStack
  repeat'
    first
    | with_reducible assumption | with_reducible refine modHbm_keeps ?_ k_modHbm _ | intro _

theorem modRepair_keeps {ps : Nat} {z s : State} (hz : Keeps ps z s) (hs : Sub 0x2000 ps) (k : Nat) (f : RepairRec →
    RepairRec) : Keeps ps z (modRepair k f s) := by
  have k_modNv : Sub 0x2000 ps := sub_of hs rfl
  unfold modRepair
  repeat'
    first
    | with_reducible assumption | with_reducible refine modNv_keeps ?_ k_modNv _ ?_
    | exact oneWay_same rfl rfl rfl rfl rfl rfl rfl rfl | intro _

end Sys2Proof.Laws
end

