-- ==== Sys2Proof/Laws/KeepsStore.lean ====
section
/-!
SUPPORT. Sys2Proof/Laws/KeepsStore.lean: the operations of Sys2Proof/Machine/Store.lean keep what Laws/Keeps.lean says.
-/
namespace Sys2Proof.Laws
open Sys2Proof.Machine

theorem modMem_keeps {ps : Nat} {z s : State} (hz : Keeps ps z s) (hs : Sub 0x20000 ps) (slot : Nat) (f : MemObj →
    MemObj) : Keeps ps z (modMem slot f s) := by
  have k_mems : Sub 0x20000 ps := sub_of hs rfl
  unfold modMem
  repeat'
    first
    | with_reducible assumption | fail_if_no_progress with_reducible refine keeps_set_mems ?_ k_mems _ | intro _

theorem modClu_keeps {ps : Nat} {z s : State} (hz : Keeps ps z s) (hs : Sub 0x400000 ps) (c : Nat) (f : CluStore →
    CluStore) : Keeps ps z (modClu c f s) := by
  have k_modHbm : Sub 0x400000 ps := sub_of hs rfl
  unfold modClu
  repeat'
    first
    | with_reducible assumption | with_reducible refine modHbm_keeps ?_ k_modHbm _ | intro _

theorem makeResident_keeps {ps : Nat} {z s : State} (hz : Keeps ps z s) (hs : Sub 0x20000 ps) (slot : Nat) (pg :
    Nat) : Keeps ps z (makeResident slot pg s) := by
  have k_modMem : Sub 0x20000 ps := sub_of hs rfl
  unfold makeResident
  repeat'
    first
    | with_reducible refine keeps_ite (fun _ => ?_) (fun _ => ?_) | with_reducible assumption
    | with_reducible refine modMem_keeps ?_ k_modMem _ _ | intro _ | split

theorem mapPage_keeps {ps : Nat} {z s : State} (hz : Keeps ps z s) (hs : Sub 0x820000 ps) (slot : Nat) (pg : Nat) :
    Keeps ps z (mapPage slot pg s) := by
  have k_modMem : Sub 0x20000 ps := sub_of hs rfl
  have k_modIme : Sub 0x800000 ps := sub_of hs rfl
  unfold mapPage
  repeat'
    first
    | with_reducible refine keeps_ite (fun _ => ?_) (fun _ => ?_) | extract_lets | with_reducible assumption
    | with_reducible refine modMem_keeps ?_ k_modMem _ _ | with_reducible refine modIme_keeps ?_ k_modIme _
    | intro _ | split | dsimp +zetaDelta only

theorem touchLine_keeps {ps : Nat} {z s : State} (hz : Keeps ps z s) (hs : Sub 0xc20000 ps) (slot : Nat) (line :
    Nat) (off : Nat) (n : Nat) (wr : Bool) : Keeps ps z (touchLine slot line off n wr s) := by
  have k_mapPage : Sub 0x820000 ps := sub_of hs rfl
  have k_makeResident : Sub 0x20000 ps := sub_of hs rfl
  have k_modClu : Sub 0x400000 ps := sub_of hs rfl
  have k_modHbm : Sub 0x400000 ps := sub_of hs rfl
  unfold touchLine
  repeat'
    first
    | with_reducible refine keeps_ite (fun _ => ?_) (fun _ => ?_) | extract_lets | with_reducible assumption
    | with_reducible refine mapPage_keeps ?_ k_mapPage _ _
    | with_reducible refine makeResident_keeps ?_ k_makeResident _ _
    | with_reducible refine modClu_keeps ?_ k_modClu _ _ | with_reducible refine modHbm_keeps ?_ k_modHbm _
    | intro _ | split | dsimp +zetaDelta only

theorem touch_keeps {ps : Nat} {z s : State} (hz : Keeps ps z s) (hs : Sub 0xc28000 ps) (slot : Nat) (off : Nat) (n
    : Nat) (wr : Bool) : Keeps ps z (touch slot off n wr s) := by
  have k_touchLine : Sub 0xc20000 ps := sub_of hs rfl
  have k_modMem : Sub 0x20000 ps := sub_of hs rfl
  have k_post : Sub 0x8000 ps := sub_of hs rfl
  unfold touch
  repeat'
    first
    | with_reducible refine keeps_foldl ?_ ?_ | with_reducible refine keeps_ite (fun _ => ?_) (fun _ => ?_)
    | extract_lets | with_reducible assumption | with_reducible refine touchLine_keeps ?_ k_touchLine _ _ _ _ _
    | with_reducible refine modMem_keeps ?_ k_modMem _ _ | with_reducible refine post_keeps ?_ k_post _ _ _ _
    | intro _ | split | dsimp +zetaDelta only

theorem storeMem_keeps {ps : Nat} {z s : State} (hz : Keeps ps z s) (hs : Sub 0x840fa8000 ps) (a : Accessor) (slot :
    Nat) (off : Nat) (bs : List Byte) : Keeps ps z (storeMem a slot off bs s) := by
  have k_touch : Sub 0xc28000 ps := sub_of hs rfl
  have k_writeMem : Sub 0x840380000 ps := sub_of hs rfl
  unfold storeMem
  repeat'
    first
    | with_reducible assumption | with_reducible refine touch_keeps ?_ k_touch _ _ _ _
    | with_reducible refine writeMem_keeps ?_ k_writeMem _ _ _ _

theorem storeBlk_keeps {ps : Nat} {z s : State} (hz : Keeps ps z s) (hs : Sub 0x840fa8000 ps) (slot : Nat) (off :
    Nat) (bs : List Byte) : Keeps ps z (storeBlk slot off bs s) := by
  have k_storeMem : Sub 0x840fa8000 ps := sub_of hs rfl
  unfold storeBlk
  repeat'
    first
    | with_reducible assumption | with_reducible refine storeMem_keeps ?_ k_storeMem _ _ _ _

end Sys2Proof.Laws
end

