-- ==== Sys2Proof/Laws/KeepsEngines.lean ====
section
/-!
SUPPORT. Sys2Proof/Laws/KeepsEngines.lean: the operations of Sys2Proof/Machine/Engines.lean keep what Laws/Keeps.lean says.
-/
namespace Sys2Proof.Laws
open Sys2Proof.Machine

theorem modEng_keeps {ps : Nat} {z s : State} (hz : Keeps ps z s) (hs : Sub 0x200000000 ps) (c : Nat) (f : Engine →
    Engine) : Keeps ps z (modEng c f s) := by
  have k_modMxe : Sub 0x200000000 ps := sub_of hs rfl
  unfold modEng
  repeat'
    first
    | with_reducible assumption | with_reducible refine modMxe_keeps ?_ k_modMxe _ | intro _

theorem modVCore_keeps {ps : Nat} {z s : State} (hz : Keeps ps z s) (hs : Sub 0x400000000 ps) (k : Nat) (f : VCore →
    VCore) : Keeps ps z (modVCore k f s) := by
  have k_modVcu : Sub 0x400000000 ps := sub_of hs rfl
  unfold modVCore
  repeat'
    first
    | with_reducible assumption | with_reducible refine modVcu_keeps ?_ k_modVcu _ | intro _

theorem modVclu_keeps {ps : Nat} {z s : State} (hz : Keeps ps z s) (hs : Sub 0x400000000 ps) (c : Nat) (f : VcuClu →
    VcuClu) : Keeps ps z (modVclu c f s) := by
  have k_modVcu : Sub 0x400000000 ps := sub_of hs rfl
  unfold modVclu
  repeat'
    first
    | with_reducible assumption | with_reducible refine modVcu_keeps ?_ k_modVcu _ | intro _

theorem modSvcCore_keeps {ps : Nat} {z s : State} (hz : Keeps ps z s) (hs : Sub 0x800000000 ps) (n : Nat) (f :
    SvcCore → SvcCore) : Keeps ps z (modSvcCore n f s) := by
  have k_modSvc : Sub 0x800000000 ps := sub_of hs rfl
  unfold modSvcCore
  repeat'
    first
    | with_reducible assumption | with_reducible refine modSvc_keeps ?_ k_modSvc _ | intro _

theorem holdEngines_keeps {ps : Nat} {z s : State} (hz : Keeps ps z s) (hs : Sub 0x200000000 ps)  :
    Keeps ps z (holdEngines s) := by
  have k_modMxe : Sub 0x200000000 ps := sub_of hs rfl
  unfold holdEngines
  repeat'
    first
    | with_reducible assumption | with_reducible refine modMxe_keeps ?_ k_modMxe _ | intro _

theorem releaseEngines_keeps {ps : Nat} {z s : State} (hz : Keeps ps z s) (hs : Sub 0x200000000 ps)  :
    Keeps ps z (releaseEngines s) := by
  have k_modMxe : Sub 0x200000000 ps := sub_of hs rfl
  unfold releaseEngines
  repeat'
    first
    | with_reducible refine keeps_ite (fun _ => ?_) (fun _ => ?_) | with_reducible assumption
    | with_reducible refine modMxe_keeps ?_ k_modMxe _ | intro _

theorem flagsToCtx_keeps {ps : Nat} {z s : State} (hz : Keeps ps z s) (hs : Sub 0x210000 ps) (l : Nat) (flags : Nat)
    : Keeps ps z (flagsToCtx l flags s) := by
  have k_modCtx : Sub 0x10000 ps := sub_of hs rfl
  have k_modTsk : Sub 0x200000 ps := sub_of hs rfl
  unfold flagsToCtx
  repeat'
    first
    | with_reducible refine keeps_ite (fun _ => ?_) (fun _ => ?_) | extract_lets | with_reducible assumption
    | with_reducible refine modCtx_keeps ?_ k_modCtx _ _ | with_reducible refine modTsk_keeps ?_ k_modTsk _
    | intro _ | split | dsimp +zetaDelta only

theorem flagsFromEng_keeps {ps : Nat} {z s : State} (hz : Keeps ps z s) (hs : Sub 0x200210000 ps) (c : Nat) (l :
    Nat) (flags : Nat) : Keeps ps z (flagsFromEng c l flags s) := by
  have k_flagsToCtx : Sub 0x210000 ps := sub_of hs rfl
  have k_modEng : Sub 0x200000000 ps := sub_of hs rfl
  unfold flagsFromEng
  repeat'
    first
    | with_reducible assumption | with_reducible refine flagsToCtx_keeps ?_ k_flagsToCtx _ _
    | with_reducible refine modEng_keeps ?_ k_modEng _ _ | intro _

theorem clearEngine_keeps {ps : Nat} {z s : State} (hz : Keeps ps z s) (hs : Sub 0x200210000 ps) (c : Nat) (ts :
    List (Nat × Nat)) : Keeps ps z (clearEngine c ts s) := by
  have k_flagsFromEng : Sub 0x200210000 ps := sub_of hs rfl
  have k_modEng : Sub 0x200000000 ps := sub_of hs rfl
  unfold clearEngine
  repeat'
    first
    | with_reducible refine keeps_ite (fun _ => ?_) (fun _ => ?_) | extract_lets | with_reducible assumption
    | with_reducible refine flagsFromEng_keeps ?_ k_flagsFromEng _ _ _
    | with_reducible refine modEng_keeps ?_ k_modEng _ _ | intro _ | dsimp +zetaDelta only

theorem clearVCore_keeps {ps : Nat} {z s : State} (hz : Keeps ps z s) (hs : Sub 0x400210000 ps) (k : Nat) (ts : List
    (Nat × Nat)) : Keeps ps z (clearVCore k ts s) := by
  have k_flagsToCtx : Sub 0x210000 ps := sub_of hs rfl
  have k_modVCore : Sub 0x400000000 ps := sub_of hs rfl
  unfold clearVCore
  repeat'
    first
    | with_reducible refine keeps_foldl ?_ ?_ | with_reducible refine keeps_ite (fun _ => ?_) (fun _ => ?_)
    | extract_lets | with_reducible assumption | with_reducible refine flagsToCtx_keeps ?_ k_flagsToCtx _ _
    | with_reducible refine modVCore_keeps ?_ k_modVCore _ _ | intro _ | dsimp +zetaDelta only

theorem clearCores_keeps {ps : Nat} {z s : State} (hz : Keeps ps z s) (hs : Sub 0xe00210000 ps) (ts : List (Nat ×
    Nat)) : Keeps ps z (clearCores ts s) := by
  have k_clearVCore : Sub 0x400210000 ps := sub_of hs rfl
  have k_clearEngine : Sub 0x200210000 ps := sub_of hs rfl
  have k_modSvc : Sub 0x800000000 ps := sub_of hs rfl
  unfold clearCores
  repeat'
    first
    | with_reducible refine keeps_foldl ?_ ?_ | with_reducible refine keeps_ite (fun _ => ?_) (fun _ => ?_)
    | extract_lets | with_reducible assumption | with_reducible refine clearVCore_keeps ?_ k_clearVCore _ _
    | with_reducible refine clearEngine_keeps ?_ k_clearEngine _ _
    | with_reducible refine modSvc_keeps ?_ k_modSvc _ | intro _ | split | dsimp +zetaDelta only

theorem dropMarked_keeps {ps : Nat} {z s : State} (hz : Keeps ps z s) (hs : Sub 0x400000000 ps) (l : Nat) :
    Keeps ps z (dropMarked l s) := by
  have k_modVcu : Sub 0x400000000 ps := sub_of hs rfl
  unfold dropMarked
  repeat'
    first
    | with_reducible assumption | with_reducible refine modVcu_keeps ?_ k_modVcu _ | intro _ | split

theorem dropSlotLines_keeps {ps : Nat} {z s : State} (hz : Keeps ps z s) (hs : Sub 0xc00000000 ps) (slot : Nat) :
    Keeps ps z (dropSlotLines slot s) := by
  have k_modSvc : Sub 0x800000000 ps := sub_of hs rfl
  have k_modVcu : Sub 0x400000000 ps := sub_of hs rfl
  unfold dropSlotLines
  repeat'
    first
    | extract_lets | with_reducible assumption | with_reducible refine modSvc_keeps ?_ k_modSvc _
    | with_reducible refine modVcu_keeps ?_ k_modVcu _ | intro _ | dsimp +zetaDelta only

theorem wipeUnit_keeps {ps : Nat} {z s : State} (hz : Keeps ps z s) (hs : Sub 0xe00000000 ps) (kind : Nat) (index :
    Nat) : Keeps ps z (wipeUnit kind index s) := by
  have k_modSvcCore : Sub 0x800000000 ps := sub_of hs rfl
  have k_modEng : Sub 0x200000000 ps := sub_of hs rfl
  have k_modVcu : Sub 0x400000000 ps := sub_of hs rfl
  unfold wipeUnit
  repeat'
    first
    | with_reducible refine keeps_ite (fun _ => ?_) (fun _ => ?_) | with_reducible assumption
    | with_reducible refine modSvcCore_keeps ?_ k_modSvcCore _ _
    | with_reducible refine modEng_keeps ?_ k_modEng _ _ | with_reducible refine modVcu_keeps ?_ k_modVcu _
    | intro _

theorem wipePartition_keeps {ps : Nat} {z s : State} (hz : Keeps ps z s) (hs : Sub 0xe00000000 ps) (p : Nat) :
    Keeps ps z (wipePartition p s) := by
  have k_modSvc : Sub 0x800000000 ps := sub_of hs rfl
  have k_modVcu : Sub 0x400000000 ps := sub_of hs rfl
  have k_modMxe : Sub 0x200000000 ps := sub_of hs rfl
  unfold wipePartition
  repeat'
    first
    | with_reducible refine keeps_ite (fun _ => ?_) (fun _ => ?_) | extract_lets | with_reducible assumption
    | with_reducible refine modSvc_keeps ?_ k_modSvc _ | with_reducible refine modVcu_keeps ?_ k_modVcu _
    | with_reducible refine modMxe_keeps ?_ k_modMxe _ | intro _ | dsimp +zetaDelta only

end Sys2Proof.Laws
end

