-- ==== Sys2Proof/Laws/KeepsPorts.lean ====
section
/-!
SUPPORT. Sys2Proof/Laws/KeepsPorts.lean: the operations of Sys2Proof/Machine/Ports.lean keep what Laws/Keeps.lean says.
-/
namespace Sys2Proof.Laws
open Sys2Proof.Machine

theorem modPort_keeps {ps : Nat} {z s : State} (hz : Keeps ps z s) (hs : Sub 0x1000000 ps) (p : Nat) (f : Port →
    Port) : Keeps ps z (modPort p f s) := by
  have k_modLnk : Sub 0x1000000 ps := sub_of hs rfl
  unfold modPort
  repeat'
    first
    | extract_lets | with_reducible assumption | with_reducible refine modLnk_keeps ?_ k_modLnk _ | intro _
    | dsimp +zetaDelta only

theorem movePort_keeps {ps : Nat} {z s : State} (hz : Keeps ps z s) (hs : Sub 0x5008000 ps) (p : Nat) (st :
    PortState) (lanes : Nat) : Keeps ps z (movePort p st lanes s) := by
  have k_modPort : Sub 0x1000000 ps := sub_of hs rfl
  have k_post : Sub 0x8000 ps := sub_of hs rfl
  have k_modCol : Sub 0x4000000 ps := sub_of hs rfl
  unfold movePort
  repeat'
    first
    | with_reducible refine keeps_ite (fun _ => ?_) (fun _ => ?_) | extract_lets | with_reducible assumption
    | with_reducible refine modPort_keeps ?_ k_modPort _ _ | with_reducible refine post_keeps ?_ k_post _ _ _ _
    | with_reducible refine modCol_keeps ?_ k_modCol _ | intro _ | dsimp +zetaDelta only

theorem portDown_keeps {ps : Nat} {z s : State} (hz : Keeps ps z s) (hs : Sub 0x5008000 ps) (p : Nat) :
    Keeps ps z (portDown p s) := by
  have k_movePort : Sub 0x5008000 ps := sub_of hs rfl
  have k_modPort : Sub 0x1000000 ps := sub_of hs rfl
  unfold portDown
  repeat'
    first
    | with_reducible assumption | with_reducible refine movePort_keeps ?_ k_movePort _ _ _
    | with_reducible refine modPort_keeps ?_ k_modPort _ _

theorem portTrain_keeps {ps : Nat} {z s : State} (hz : Keeps ps z s) (hs : Sub 0x5008000 ps) (p : Nat) :
    Keeps ps z (portTrain p s) := by
  have k_movePort : Sub 0x5008000 ps := sub_of hs rfl
  have k_modPort : Sub 0x1000000 ps := sub_of hs rfl
  unfold portTrain
  repeat'
    first
    | with_reducible assumption | with_reducible refine movePort_keeps ?_ k_movePort _ _ _
    | with_reducible refine modPort_keeps ?_ k_modPort _ _ | intro _

theorem portRetrain_keeps {ps : Nat} {z s : State} (hz : Keeps ps z s) (hs : Sub 0x5008000 ps) (p : Nat) (half :
    Bool) : Keeps ps z (portRetrain p half s) := by
  have k_movePort : Sub 0x5008000 ps := sub_of hs rfl
  have k_modPort : Sub 0x1000000 ps := sub_of hs rfl
  unfold portRetrain
  repeat'
    first
    | extract_lets | with_reducible assumption | with_reducible refine movePort_keeps ?_ k_movePort _ _ _
    | with_reducible refine modPort_keeps ?_ k_modPort _ _ | intro _ | dsimp +zetaDelta only

theorem routeDrop_keeps {ps : Nat} {z s : State} (hz : Keeps ps z s) (hs : Sub 0x1000000 ps) (p : Nat) :
    Keeps ps z (routeDrop p s) := by
  have k_modPort : Sub 0x1000000 ps := sub_of hs rfl
  unfold routeDrop
  repeat'
    first
    | with_reducible assumption | with_reducible refine modPort_keeps ?_ k_modPort _ _ | intro _

theorem txSend_keeps {ps : Nat} {z s : State} (hz : Keeps ps z s) (hs : Sub 0x1000001 ps) (p : Nat) (k : TxPkt) :
    Keeps ps z (txSend p k s) := by
  have k_modPort : Sub 0x1000000 ps := sub_of hs rfl
  have k_emit : Sub 0x1 ps := sub_of hs rfl
  unfold txSend
  repeat'
    first
    | with_reducible refine keeps_ite (fun _ => ?_) (fun _ => ?_) | extract_lets | with_reducible assumption
    | with_reducible refine modPort_keeps ?_ k_modPort _ _ | with_reducible refine emit_keeps ?_ k_emit _ | intro _
    | split | dsimp +zetaDelta only

theorem portDrain_keeps {ps : Nat} {z y1 : State} (hz : Keeps ps z y1) (hs : Sub 0x1000001 ps) (p : Nat) (y0 : Nat)
    : Keeps ps z (portDrain p y0 y1) := by
  have k_txSend : Sub 0x1000001 ps := sub_of hs rfl
  have k_modPort : Sub 0x1000000 ps := sub_of hs rfl
  induction y0 generalizing y1 with
  | zero =>
    unfold portDrain
    repeat'
      first
      | with_reducible refine keeps_ite (fun _ => ?_) (fun _ => ?_) | extract_lets | with_reducible assumption
      | with_reducible refine txSend_keeps ?_ k_txSend _ _ | with_reducible refine modPort_keeps ?_ k_modPort _ _
      | intro _ | split | dsimp +zetaDelta only
  | succ n ih =>
    unfold portDrain
    repeat'
      first
      | with_reducible refine ih ?_
      | with_reducible refine keeps_ite (fun _ => ?_) (fun _ => ?_) | extract_lets | with_reducible assumption
      | with_reducible refine txSend_keeps ?_ k_txSend _ _ | with_reducible refine modPort_keeps ?_ k_modPort _ _
      | intro _ | split | dsimp +zetaDelta only

theorem drainPort_keeps {ps : Nat} {z s : State} (hz : Keeps ps z s) (hs : Sub 0x1000001 ps) (p : Nat) :
    Keeps ps z (drainPort p s) := by
  have k_portDrain : Sub 0x1000001 ps := sub_of hs rfl
  unfold drainPort
  repeat'
    first
    | with_reducible assumption | with_reducible refine portDrain_keeps ?_ k_portDrain _ _

theorem enqueue_keeps {ps : Nat} {z s : State} (hz : Keeps ps z s) (hs : Sub 0x1000001 ps) (p : Nat) (from_ : Option
    Nat) (dest : Option Nat) (m : Msg) : Keeps ps z (enqueue p from_ dest m s) := by
  have k_drainPort : Sub 0x1000001 ps := sub_of hs rfl
  have k_modPort : Sub 0x1000000 ps := sub_of hs rfl
  unfold enqueue
  repeat'
    first
    | extract_lets | with_reducible assumption | with_reducible refine drainPort_keeps ?_ k_drainPort _
    | with_reducible refine modPort_keeps ?_ k_modPort _ _ | intro _ | dsimp +zetaDelta only

theorem sendPort_keeps {ps : Nat} {z s : State} (hz : Keeps ps z s) (hs : Sub 0x1000001 ps) (p : Nat) (m : Msg) :
    Keeps ps z (sendPort p m s) := by
  have k_enqueue : Sub 0x1000001 ps := sub_of hs rfl
  unfold sendPort
  repeat'
    first
    | with_reducible assumption | with_reducible refine enqueue_keeps ?_ k_enqueue _ _ _ _

theorem sendTo_keeps {ps : Nat} {z s : State} (hz : Keeps ps z s) (hs : Sub 0x1000001 ps) (node : Nat) (m : Msg) :
    Keeps ps z (sendTo node m s) := by
  have k_enqueue : Sub 0x1000001 ps := sub_of hs rfl
  have k_routeDrop : Sub 0x1000000 ps := sub_of hs rfl
  unfold sendTo
  repeat'
    first
    | with_reducible assumption | with_reducible refine enqueue_keeps ?_ k_enqueue _ _ _ _
    | with_reducible refine routeDrop_keeps ?_ k_routeDrop _ | split

theorem storeCheck_keeps {ps : Nat} {z s : State} (hz : Keeps ps z s) (hs : Sub 0x1008000 ps) (p : Nat) :
    Keeps ps z (storeCheck p s) := by
  have k_modPort : Sub 0x1000000 ps := sub_of hs rfl
  have k_post : Sub 0x8000 ps := sub_of hs rfl
  unfold storeCheck
  repeat'
    first
    | with_reducible refine keeps_ite (fun _ => ?_) (fun _ => ?_) | extract_lets | with_reducible assumption
    | with_reducible refine modPort_keeps ?_ k_modPort _ _ | with_reducible refine post_keeps ?_ k_post _ _ _ _
    | intro _ | dsimp +zetaDelta only

theorem cableCheck_keeps {ps : Nat} {z s : State} (hz : Keeps ps z s) (hs : Sub 0x1008000 ps) (p : Nat) :
    Keeps ps z (cableCheck p s) := by
  have k_storeCheck : Sub 0x1008000 ps := sub_of hs rfl
  unfold cableCheck
  repeat'
    first
    | with_reducible refine keeps_foldl ?_ ?_ | with_reducible refine keeps_ite (fun _ => ?_) (fun _ => ?_)
    | with_reducible assumption | with_reducible refine storeCheck_keeps ?_ k_storeCheck _ | intro _

theorem enterUp_keeps {ps : Nat} {z s : State} (hz : Keeps ps z s) (hs : Sub 0x5008001 ps) (p : Nat) :
    Keeps ps z (enterUp p s) := by
  have k_drainPort : Sub 0x1000001 ps := sub_of hs rfl
  have k_movePort : Sub 0x5008000 ps := sub_of hs rfl
  have k_modPort : Sub 0x1000000 ps := sub_of hs rfl
  unfold enterUp
  repeat'
    first
    | with_reducible refine keeps_ite (fun _ => ?_) (fun _ => ?_) | extract_lets | with_reducible assumption
    | with_reducible refine drainPort_keeps ?_ k_drainPort _
    | with_reducible refine movePort_keeps ?_ k_movePort _ _ _
    | with_reducible refine modPort_keeps ?_ k_modPort _ _ | intro _ | dsimp +zetaDelta only

theorem portsSecure_keeps {ps : Nat} {z s : State} (hz : Keeps ps z s) (hs : Sub 0x5008000 ps)  :
    Keeps ps z (portsSecure s) := by
  have k_movePort : Sub 0x5008000 ps := sub_of hs rfl
  have k_modPort : Sub 0x1000000 ps := sub_of hs rfl
  unfold portsSecure
  repeat'
    first
    | with_reducible refine keeps_foldl ?_ ?_ | with_reducible refine keeps_ite (fun _ => ?_) (fun _ => ?_)
    | extract_lets | with_reducible assumption | with_reducible refine movePort_keeps ?_ k_movePort _ _ _
    | with_reducible refine modPort_keeps ?_ k_modPort _ _ | intro _ | dsimp +zetaDelta only

theorem portsUnsecure_keeps {ps : Nat} {z s : State} (hz : Keeps ps z s) (hs : Sub 0x5008000 ps)  :
    Keeps ps z (portsUnsecure s) := by
  have k_portRetrain : Sub 0x5008000 ps := sub_of hs rfl
  have k_modPort : Sub 0x1000000 ps := sub_of hs rfl
  unfold portsUnsecure
  repeat'
    first
    | with_reducible refine keeps_foldl ?_ ?_ | with_reducible refine keeps_ite (fun _ => ?_) (fun _ => ?_)
    | extract_lets | with_reducible assumption | with_reducible refine portRetrain_keeps ?_ k_portRetrain _ _
    | with_reducible refine modPort_keeps ?_ k_modPort _ _ | intro _ | dsimp +zetaDelta only

theorem partPortsDown_keeps {ps : Nat} {z s : State} (hz : Keeps ps z s) (hs : Sub 0x5008000 ps) (part : Nat) :
    Keeps ps z (partPortsDown part s) := by
  have k_portDown : Sub 0x5008000 ps := sub_of hs rfl
  unfold partPortsDown
  repeat'
    first
    | with_reducible refine keeps_foldl ?_ ?_ | with_reducible refine keeps_ite (fun _ => ?_) (fun _ => ?_)
    | with_reducible assumption | with_reducible refine portDown_keeps ?_ k_portDown _ | intro _

end Sys2Proof.Laws
end

