-- ==== Sys2Proof/Laws/KeepsEvents.lean ====
section
/-!
SUPPORT. Sys2Proof/Laws/KeepsEvents.lean: the operations of Sys2Proof/Machine/Events.lean keep what Laws/Keeps.lean says.
-/
namespace Sys2Proof.Laws
open Sys2Proof.Machine

theorem modLaunch_keeps {ps : Nat} {z s : State} (hz : Keeps ps z s) (hs : Sub 0x200000 ps) (l : Nat) (f : Launch →
    Launch) : Keeps ps z (modLaunch l f s) := by
  have k_modTsk : Sub 0x200000 ps := sub_of hs rfl
  unfold modLaunch
  repeat'
    first
    | with_reducible refine keeps_ite (fun _ => ?_) (fun _ => ?_) | with_reducible assumption
    | with_reducible refine modTsk_keeps ?_ k_modTsk _ | intro _

theorem opFinish_keeps {ps : Nat} {z s : State} (hz : Keeps ps z s) (hs : Sub 0x844fa8000 ps) (o : TrigOp) (reason :
    Nat) (rank : Nat) : Keeps ps z (opFinish o reason rank s).2 := by
  have k_storeBlk : Sub 0x840fa8000 ps := sub_of hs rfl
  have k_modCol : Sub 0x4000000 ps := sub_of hs rfl
  unfold opFinish
  repeat'
    first
    | with_reducible refine keeps_ite (fun _ => ?_) (fun _ => ?_) | extract_lets | with_reducible assumption
    | with_reducible refine storeBlk_keeps ?_ k_storeBlk _ _ _ | with_reducible refine modCol_keeps ?_ k_modCol _
    | intro _ | split | dsimp +zetaDelta only

theorem opFinish_keeps_eq {ps : Nat} {z s z' : State} {b' : List Work} (hz : Keeps ps z s) (hs : Sub 0x844fa8000 ps)
    (o : TrigOp) (reason : Nat) (rank : Nat) (e' : opFinish o reason rank s = (b', z')) :
    Keeps ps z z' := by
  have k := opFinish_keeps hz hs o reason rank
  rw [e'] at k
  exact k

theorem modColEng_keeps {ps : Nat} {z s : State} (hz : Keeps ps z s) (hs : Sub 0x4000000 ps) (e : Nat) (f :
    ColEngine → ColEngine) : Keeps ps z (modColEng e f s) := by
  have k_modCol : Sub 0x4000000 ps := sub_of hs rfl
  unfold modColEng
  repeat'
    first
    | with_reducible assumption | with_reducible refine modCol_keeps ?_ k_modCol _ | intro _

theorem opTell_keeps {ps : Nat} {z s : State} (hz : Keeps ps z s) (hs : Sub 0x1000001 ps) (o : TrigOp) (kind : Nat)
    (first : Nat) (vals : List Int) (nodes : List Nat) : Keeps ps z (opTell o kind first vals nodes s) := by
  have k_sendTo : Sub 0x1000001 ps := sub_of hs rfl
  unfold opTell
  repeat'
    first
    | with_reducible refine keeps_foldl ?_ ?_ | with_reducible assumption
    | with_reducible refine sendTo_keeps ?_ k_sendTo _ _ | intro _

theorem opFail_keeps {ps : Nat} {z s : State} (hz : Keeps ps z s) (hs : Sub 0x845fa8001 ps) (o : TrigOp) (reason :
    Nat) (rank : Nat) (tell : Bool) : Keeps ps z (opFail o reason rank tell s).2 := by
  have k_opTell : Sub 0x1000001 ps := sub_of hs rfl
  have k_modColEng : Sub 0x4000000 ps := sub_of hs rfl
  have k_opFinish : Sub 0x844fa8000 ps := sub_of hs rfl
  unfold opFail
  repeat'
    first
    | with_reducible refine keeps_ite (fun _ => ?_) (fun _ => ?_) | extract_lets | with_reducible assumption
    | with_reducible refine opTell_keeps ?_ k_opTell _ _ _ _ _
    | with_reducible refine modColEng_keeps ?_ k_modColEng _ _
    | with_reducible refine opFinish_keeps ?_ k_opFinish _ _ _
    | refine opFinish_keeps_eq ?_ k_opFinish _ _ _ (by assumption) | intro _ | split | dsimp +zetaDelta only

theorem opFail_keeps_eq {ps : Nat} {z s z' : State} {b' : List Work} (hz : Keeps ps z s) (hs : Sub 0x845fa8001 ps)
    (o : TrigOp) (reason : Nat) (rank : Nat) (tell : Bool) (e' : opFail o reason rank tell s = (b', z')) :
    Keeps ps z z' := by
  have k := opFail_keeps hz hs o reason rank tell
  rw [e'] at k
  exact k

theorem opsFail_keeps {ps : Nat} {z y1 : State} (hz : Keeps ps z y1) (hs : Sub 0x845fa8001 ps) (reason : Nat) (y0 :
    List TrigOp) : Keeps ps z (opsFail reason y0 y1).2 := by
  have k_opFail : Sub 0x845fa8001 ps := sub_of hs rfl
  induction y0 generalizing y1 with
  | nil =>
    unfold opsFail
    repeat'
      first
      | extract_lets | with_reducible assumption | with_reducible refine opFail_keeps ?_ k_opFail _ _ _ _
      | refine opFail_keeps_eq ?_ k_opFail _ _ _ _ (by assumption) | split | dsimp +zetaDelta only
  | cons x l ih =>
    unfold opsFail
    repeat'
      first
      | with_reducible refine ih ?_
      | extract_lets | with_reducible assumption | with_reducible refine opFail_keeps ?_ k_opFail _ _ _ _
      | refine opFail_keeps_eq ?_ k_opFail _ _ _ _ (by assumption) | split | dsimp +zetaDelta only

theorem opsFail_keeps_eq {ps : Nat} {z y1 z' : State} {b' : List Work} (hz : Keeps ps z y1) (hs : Sub 0x845fa8001
    ps) (reason : Nat) (y0 : List TrigOp) (e' : opsFail reason y0 y1 = (b', z')) :
    Keeps ps z z' := by
  have k := opsFail_keeps hz hs reason y0
  rw [e'] at k
  exact k

theorem fireOp_keeps {ps : Nat} {z s : State} (hz : Keeps ps z s) (hs : Sub 0x845fa8001 ps) (o : TrigOp) :
    Keeps ps z (fireOp o s).2 := by
  have k_opFail : Sub 0x845fa8001 ps := sub_of hs rfl
  have k_mapOps : Sub 0x4000000 ps := sub_of hs rfl
  unfold fireOp
  repeat'
    first
    | with_reducible refine keeps_ite (fun _ => ?_) (fun _ => ?_) | extract_lets | with_reducible assumption
    | with_reducible refine opFail_keeps ?_ k_opFail _ _ _ _
    | refine opFail_keeps_eq ?_ k_opFail _ _ _ _ (by assumption) | with_reducible refine mapOps_keeps ?_ k_mapOps _
    | intro _ | split | dsimp +zetaDelta only

theorem fireOp_keeps_eq {ps : Nat} {z s z' : State} {b' : List Work} (hz : Keeps ps z s) (hs : Sub 0x845fa8001 ps)
    (o : TrigOp) (e' : fireOp o s = (b', z')) :
    Keeps ps z z' := by
  have k := fireOp_keeps hz hs o
  rw [e'] at k
  exact k

theorem fireEach_keeps {ps : Nat} {z y1 : State} (hz : Keeps ps z y1) (hs : Sub 0x845fa8001 ps) (y0 : List TrigOp) :
    Keeps ps z (fireEach y0 y1).2 := by
  have k_fireOp : Sub 0x845fa8001 ps := sub_of hs rfl
  induction y0 generalizing y1 with
  | nil =>
    unfold fireEach
    repeat'
      first
      | extract_lets | with_reducible assumption | with_reducible refine fireOp_keeps ?_ k_fireOp _
      | refine fireOp_keeps_eq ?_ k_fireOp _ (by assumption) | split | dsimp +zetaDelta only
  | cons x l ih =>
    unfold fireEach
    repeat'
      first
      | with_reducible refine ih ?_
      | extract_lets | with_reducible assumption | with_reducible refine fireOp_keeps ?_ k_fireOp _
      | refine fireOp_keeps_eq ?_ k_fireOp _ (by assumption) | split | dsimp +zetaDelta only

theorem fireEach_keeps_eq {ps : Nat} {z y1 z' : State} {b' : List Work} (hz : Keeps ps z y1) (hs : Sub 0x845fa8001
    ps) (y0 : List TrigOp) (e' : fireEach y0 y1 = (b', z')) :
    Keeps ps z z' := by
  have k := fireEach_keeps hz hs y0
  rw [e'] at k
  exact k

theorem fireOps_keeps {ps : Nat} {z s : State} (hz : Keeps ps z s) (hs : Sub 0x845fa8001 ps) (slot : Nat) (e :
    Event) : Keeps ps z (fireOps slot e s).2 := by
  have k_fireEach : Sub 0x845fa8001 ps := sub_of hs rfl
  have k_opsFail : Sub 0x845fa8001 ps := sub_of hs rfl
  unfold fireOps
  repeat'
    first
    | with_reducible refine keeps_ite (fun _ => ?_) (fun _ => ?_) | extract_lets | with_reducible assumption
    | with_reducible refine fireEach_keeps ?_ k_fireEach _
    | refine fireEach_keeps_eq ?_ k_fireEach _ (by assumption)
    | with_reducible refine opsFail_keeps ?_ k_opsFail _ _
    | refine opsFail_keeps_eq ?_ k_opsFail _ _ (by assumption) | intro _ | split | dsimp +zetaDelta only

theorem fireOps_keeps_eq {ps : Nat} {z s z' : State} {b' : List Work} (hz : Keeps ps z s) (hs : Sub 0x845fa8001 ps)
    (slot : Nat) (e : Event) (e' : fireOps slot e s = (b', z')) :
    Keeps ps z z' := by
  have k := fireOps_keeps hz hs slot e
  rw [e'] at k
  exact k

theorem onSignal_keeps {ps : Nat} {z s : State} (hz : Keeps ps z s) (hs : Sub 0x2a000000 ps) (slot : Nat) (op :
    EvOp) : Keeps ps z (onSignal slot op s) := by
  have k_modWmk : Sub 0x2000000 ps := sub_of hs rfl
  have k_modIng : Sub 0x20000000 ps := sub_of hs rfl
  have k_runners : Sub 0x8000000 ps := sub_of hs rfl
  unfold onSignal
  repeat'
    first
    | with_reducible refine keeps_ite (fun _ => ?_) (fun _ => ?_) | extract_lets | with_reducible assumption
    | with_reducible refine modWmk_keeps ?_ k_modWmk _ | with_reducible refine modIng_keeps ?_ k_modIng _
    | fail_if_no_progress with_reducible refine keeps_set_runners ?_ k_runners _ | intro _ | split
    | dsimp +zetaDelta only

theorem doUpdate_keeps {ps : Nat} {z s : State} (hz : Keeps ps z s) (hs : Sub 0x86ffe8001 ps) (slot : Nat) (op :
    EvOp) : Keeps ps z (doUpdate slot op s).2 := by
  have k_onSignal : Sub 0x2a000000 ps := sub_of hs rfl
  have k_fireOps : Sub 0x845fa8001 ps := sub_of hs rfl
  have k_opsFail : Sub 0x845fa8001 ps := sub_of hs rfl
  have k_mapDescs : Sub 0x8000 ps := sub_of hs rfl
  have k_evs : Sub 0x40000 ps := sub_of hs rfl
  unfold doUpdate
  repeat'
    first
    | with_reducible refine keeps_ite (fun _ => ?_) (fun _ => ?_) | extract_lets | with_reducible assumption
    | with_reducible refine onSignal_keeps ?_ k_onSignal _ _ | with_reducible refine fireOps_keeps ?_ k_fireOps _ _
    | refine fireOps_keeps_eq ?_ k_fireOps _ _ (by assumption)
    | with_reducible refine opsFail_keeps ?_ k_opsFail _ _
    | refine opsFail_keeps_eq ?_ k_opsFail _ _ (by assumption)
    | with_reducible refine mapDescs_keeps ?_ k_mapDescs _
    | fail_if_no_progress with_reducible refine keeps_set_evs ?_ k_evs _ | intro _ | split | dsimp +zetaDelta only

theorem doUpdate_keeps_eq {ps : Nat} {z s z' : State} {b' : List Work} (hz : Keeps ps z s) (hs : Sub 0x86ffe8001 ps)
    (slot : Nat) (op : EvOp) (e' : doUpdate slot op s = (b', z')) :
    Keeps ps z z' := by
  have k := doUpdate_keeps hz hs slot op
  rw [e'] at k
  exact k

theorem setTask_keeps {ps : Nat} {z s : State} (hz : Keeps ps z s) (hs : Sub 0x200000 ps) (l : Nat) (t : Nat) (st :
    TaskState) : Keeps ps z (setTask l t st s) := by
  have k_modLaunch : Sub 0x200000 ps := sub_of hs rfl
  unfold setTask
  repeat'
    first
    | with_reducible assumption | with_reducible refine modLaunch_keeps ?_ k_modLaunch _ _ | intro _

theorem fireTask_keeps {ps : Nat} {z s : State} (hz : Keeps ps z s) (hs : Sub 0x200000 ps) (l : Nat) (t : Nat) :
    Keeps ps z (fireTask l t s).2 := by
  have k_setTask : Sub 0x200000 ps := sub_of hs rfl
  have k_modLaunch : Sub 0x200000 ps := sub_of hs rfl
  unfold fireTask
  repeat'
    first
    | with_reducible refine keeps_ite (fun _ => ?_) (fun _ => ?_) | extract_lets | with_reducible assumption
    | with_reducible refine setTask_keeps ?_ k_setTask _ _ _
    | with_reducible refine modLaunch_keeps ?_ k_modLaunch _ _ | intro _ | split | dsimp +zetaDelta only

theorem fireTask_keeps_eq {ps : Nat} {z s z' : State} {b' : List Work} (hz : Keeps ps z s) (hs : Sub 0x200000 ps) (l
    : Nat) (t : Nat) (e' : fireTask l t s = (b', z')) :
    Keeps ps z z' := by
  have k := fireTask_keeps hz hs l t
  rw [e'] at k
  exact k

theorem fireTasks_keeps {ps : Nat} {z y1 : State} (hz : Keeps ps z y1) (hs : Sub 0x200000 ps) (l : Nat) (y0 : List
    Nat) : Keeps ps z (fireTasks l y0 y1).2 := by
  have k_fireTask : Sub 0x200000 ps := sub_of hs rfl
  induction y0 generalizing y1 with
  | nil =>
    unfold fireTasks
    repeat'
      first
      | extract_lets | with_reducible assumption | with_reducible refine fireTask_keeps ?_ k_fireTask _ _
      | refine fireTask_keeps_eq ?_ k_fireTask _ _ (by assumption) | split | dsimp +zetaDelta only
  | cons x l ih =>
    unfold fireTasks
    repeat'
      first
      | with_reducible refine ih ?_
      | extract_lets | with_reducible assumption | with_reducible refine fireTask_keeps ?_ k_fireTask _ _
      | refine fireTask_keeps_eq ?_ k_fireTask _ _ (by assumption) | split | dsimp +zetaDelta only

theorem fireTasks_keeps_eq {ps : Nat} {z y1 z' : State} {b' : List Work} (hz : Keeps ps z y1) (hs : Sub 0x200000 ps)
    (l : Nat) (y0 : List Nat) (e' : fireTasks l y0 y1 = (b', z')) :
    Keeps ps z z' := by
  have k := fireTasks_keeps hz hs l y0
  rw [e'] at k
  exact k

theorem doToken_keeps {ps : Nat} {z s : State} (hz : Keeps ps z s) (hs : Sub 0x200000 ps) (l : Nat) (j : Nat) (err :
    Bool) : Keeps ps z (doToken l j err s).2 := by
  have k_fireTasks : Sub 0x200000 ps := sub_of hs rfl
  have k_modLaunch : Sub 0x200000 ps := sub_of hs rfl
  unfold doToken
  repeat'
    first
    | with_reducible refine keeps_ite (fun _ => ?_) (fun _ => ?_) | with_reducible assumption
    | with_reducible refine fireTasks_keeps ?_ k_fireTasks _ _
    | refine fireTasks_keeps_eq ?_ k_fireTasks _ _ (by assumption)
    | with_reducible refine modLaunch_keeps ?_ k_modLaunch _ _ | intro _ | split

theorem doToken_keeps_eq {ps : Nat} {z s z' : State} {b' : List Work} (hz : Keeps ps z s) (hs : Sub 0x200000 ps) (l
    : Nat) (j : Nat) (err : Bool) (e' : doToken l j err s = (b', z')) :
    Keeps ps z z' := by
  have k := doToken_keeps hz hs l j err
  rw [e'] at k
  exact k

theorem doWork_keeps {ps : Nat} {z s : State} (hz : Keeps ps z s) (hs : Sub 0x86ffe8001 ps) (w : Work) :
    Keeps ps z (doWork w s).2 := by
  have k_doToken : Sub 0x200000 ps := sub_of hs rfl
  have k_doUpdate : Sub 0x86ffe8001 ps := sub_of hs rfl
  unfold doWork
  repeat'
    first
    | with_reducible assumption | with_reducible refine doToken_keeps ?_ k_doToken _ _ _
    | refine doToken_keeps_eq ?_ k_doToken _ _ _ (by assumption)
    | with_reducible refine doUpdate_keeps ?_ k_doUpdate _ _
    | refine doUpdate_keeps_eq ?_ k_doUpdate _ _ (by assumption) | split

theorem doWork_keeps_eq {ps : Nat} {z s z' : State} {b' : List Work} (hz : Keeps ps z s) (hs : Sub 0x86ffe8001 ps)
    (w : Work) (e' : doWork w s = (b', z')) :
    Keeps ps z z' := by
  have k := doWork_keeps hz hs w
  rw [e'] at k
  exact k

theorem settleN_keeps {ps : Nat} {z s : State} (hz : Keeps ps z s) (hs : Sub 0x86ffe8001 ps) (n : Nat) (ws : List Work) :
    Keeps ps z (settleN n ws s) := by
  have k_doWork : Sub 0x86ffe8001 ps := sub_of hs rfl
  induction n generalizing s ws with
  | zero => exact hz
  | succ n ih =>
    cases ws with
    | nil => exact hz
    | cons w ws => exact ih (doWork_keeps hz k_doWork w) _

theorem settle_keeps {ps : Nat} {z s : State} (hz : Keeps ps z s) (hs : Sub 0x86ffe8001 ps) (ws : List Work) :
    Keeps ps z (settle ws s) := by
  have k_settleN : Sub 0x86ffe8001 ps := sub_of hs rfl
  have k_modTsk : Sub 0x200000 ps := sub_of hs rfl
  unfold settle
  repeat'
    first
    | with_reducible assumption | with_reducible refine settleN_keeps ?_ k_settleN _ _
    | with_reducible refine modTsk_keeps ?_ k_modTsk _ | intro _

theorem updateEvent_keeps {ps : Nat} {z s : State} (hz : Keeps ps z s) (hs : Sub 0x86ffe8001 ps) (slot : Nat) (op :
    EvOp) : Keeps ps z (updateEvent slot op s) := by
  have k_settle : Sub 0x86ffe8001 ps := sub_of hs rfl
  unfold updateEvent
  repeat'
    first
    | with_reducible assumption | with_reducible refine settle_keeps ?_ k_settle _

theorem msixSend_keeps {ps : Nat} {z s : State} (hz : Keeps ps z s) (hs : Sub 0x4001 ps) (fn : Nat) (vec : Nat) :
    Keeps ps z (msixSend fn vec s) := by
  have k_emit : Sub 0x1 ps := sub_of hs rfl
  have k_modHif : Sub 0x4000 ps := sub_of hs rfl
  unfold msixSend
  repeat'
    first
    | with_reducible refine keeps_ite (fun _ => ?_) (fun _ => ?_) | with_reducible assumption
    | with_reducible refine emit_keeps ?_ k_emit _ | with_reducible refine modHif_keeps ?_ k_modHif _ | intro _

theorem writeRecord_keeps {ps : Nat} {z s : State} (hz : Keeps ps z s) (hs : Sub 0xc001 ps) (q : Nat) (notify : Nat
    → Option Nat → Bool) (rec : Nat → Bool → CplRec) : Keeps ps z (writeRecord q notify rec s) := by
  have k_msixSend : Sub 0x4001 ps := sub_of hs rfl
  have k_modQp : Sub 0x8000 ps := sub_of hs rfl
  have k_emit : Sub 0x1 ps := sub_of hs rfl
  unfold writeRecord
  repeat'
    first
    | with_reducible refine keeps_ite (fun _ => ?_) (fun _ => ?_) | extract_lets | with_reducible assumption
    | with_reducible refine msixSend_keeps ?_ k_msixSend _ _ | with_reducible refine modQp_keeps ?_ k_modQp _ _
    | with_reducible refine emit_keeps ?_ k_emit _ | intro _ | split | dsimp +zetaDelta only

theorem dropDesc_keeps {ps : Nat} {z s : State} (hz : Keeps ps z s) (hs : Sub 0x8000 ps) (qp : Nat) (sub : Nat) :
    Keeps ps z (dropDesc qp sub s) := by
  have k_modCmd : Sub 0x8000 ps := sub_of hs rfl
  unfold dropDesc
  repeat'
    first
    | with_reducible assumption | with_reducible refine modCmd_keeps ?_ k_modCmd _ | intro _

theorem completeDesc_keeps {ps : Nat} {z s : State} (hz : Keeps ps z s) (hs : Sub 0x86ffec001 ps) (d : Desc) :
    Keeps ps z (completeDesc d s) := by
  have k_dropDesc : Sub 0x8000 ps := sub_of hs rfl
  have k_writeRecord : Sub 0xc001 ps := sub_of hs rfl
  have k_updateEvent : Sub 0x86ffe8001 ps := sub_of hs rfl
  have k_modQp : Sub 0x8000 ps := sub_of hs rfl
  unfold completeDesc
  repeat'
    first
    | with_reducible refine keeps_ite (fun _ => ?_) (fun _ => ?_) | extract_lets | with_reducible assumption
    | with_reducible refine dropDesc_keeps ?_ k_dropDesc _ _
    | with_reducible refine writeRecord_keeps ?_ k_writeRecord _ _ _
    | with_reducible refine updateEvent_keeps ?_ k_updateEvent _ _
    | with_reducible refine modQp_keeps ?_ k_modQp _ _ | intro _ | split | dsimp +zetaDelta only

theorem updateEvents_keeps {ps : Nat} {z s : State} (hz : Keeps ps z s) (hs : Sub 0x86ffe8001 ps) (ws : List (Nat ×
    EvOp)) : Keeps ps z (updateEvents ws s) := by
  have k_settle : Sub 0x86ffe8001 ps := sub_of hs rfl
  unfold updateEvents
  repeat'
    first
    | with_reducible assumption | with_reducible refine settle_keeps ?_ k_settle _ | intro _

theorem removeTasks_keeps {ps : Nat} {z s : State} (hz : Keeps ps z s) (hs : Sub 0xe6fff8001 ps) (l : Nat) (ts :
    List Nat) : Keeps ps z (removeTasks l ts s) := by
  have k_settle : Sub 0x86ffe8001 ps := sub_of hs rfl
  have k_modLaunch : Sub 0x200000 ps := sub_of hs rfl
  have k_clearCores : Sub 0xe00210000 ps := sub_of hs rfl
  unfold removeTasks
  repeat'
    first
    | with_reducible refine keeps_foldl ?_ ?_ | extract_lets | with_reducible assumption
    | with_reducible refine settle_keeps ?_ k_settle _ | with_reducible refine modLaunch_keeps ?_ k_modLaunch _ _
    | with_reducible refine clearCores_keeps ?_ k_clearCores _ | intro _ | split | dsimp +zetaDelta only

theorem stopLaunch_keeps {ps : Nat} {z s : State} (hz : Keeps ps z s) (hs : Sub 0xe6fff8001 ps) (l : Nat) (cancel :
    Bool) : Keeps ps z (stopLaunch l cancel s) := by
  have k_removeTasks : Sub 0xe6fff8001 ps := sub_of hs rfl
  have k_modLaunch : Sub 0x200000 ps := sub_of hs rfl
  unfold stopLaunch
  repeat'
    first
    | extract_lets | with_reducible assumption | with_reducible refine removeTasks_keeps ?_ k_removeTasks _ _
    | with_reducible refine modLaunch_keeps ?_ k_modLaunch _ _ | intro _ | split | dsimp +zetaDelta only

theorem stopLaunches_keeps {ps : Nat} {z s : State} (hz : Keeps ps z s) (hs : Sub 0xe6fff8001 ps) (ls : List Nat)
    (cancel : Bool) : Keeps ps z (stopLaunches ls cancel s) := by
  have k_stopLaunch : Sub 0xe6fff8001 ps := sub_of hs rfl
  unfold stopLaunches
  repeat'
    first
    | with_reducible refine keeps_foldl ?_ ?_ | with_reducible assumption
    | with_reducible refine stopLaunch_keeps ?_ k_stopLaunch _ _ | intro _

theorem discardGen_keeps {ps : Nat} {z s : State} (hz : Keeps ps z s) (hs : Sub 0xe6fff8001 ps) (g : Generation) :
    Keeps ps z (discardGen g s) := by
  have k_removeTasks : Sub 0xe6fff8001 ps := sub_of hs rfl
  have k_dropMarked : Sub 0x400000000 ps := sub_of hs rfl
  have k_modTsk : Sub 0x200000 ps := sub_of hs rfl
  unfold discardGen
  repeat'
    first
    | with_reducible refine keeps_ite (fun _ => ?_) (fun _ => ?_) | extract_lets | with_reducible assumption
    | with_reducible refine removeTasks_keeps ?_ k_removeTasks _ _
    | with_reducible refine dropMarked_keeps ?_ k_dropMarked _ | with_reducible refine modTsk_keeps ?_ k_modTsk _
    | intro _ | split | dsimp +zetaDelta only

theorem discardGens_keeps {ps : Nat} {z s : State} (hz : Keeps ps z s) (hs : Sub 0xe6fff8001 ps) (c : Nat) (lo :
    Nat) : Keeps ps z (discardGens c lo s) := by
  have k_discardGen : Sub 0xe6fff8001 ps := sub_of hs rfl
  unfold discardGens
  repeat'
    first
    | with_reducible refine keeps_foldl ?_ ?_ | with_reducible assumption
    | with_reducible refine discardGen_keeps ?_ k_discardGen _ | intro _

theorem endLaunch_keeps {ps : Nat} {z s : State} (hz : Keeps ps z s) (hs : Sub 0x208000 ps) (l : Nat) :
    Keeps ps z (endLaunch l s) := by
  have k_endDesc : Sub 0x8000 ps := sub_of hs rfl
  have k_modTsk : Sub 0x200000 ps := sub_of hs rfl
  unfold endLaunch
  repeat'
    first
    | extract_lets | with_reducible assumption | with_reducible refine endDesc_keeps ?_ k_endDesc _ _ _
    | with_reducible refine modTsk_keeps ?_ k_modTsk _ | intro _ | split | dsimp +zetaDelta only

theorem abortDescs_keeps {ps : Nat} {z s : State} (hz : Keeps ps z s) (hs : Sub 0x8000 ps) (p : Desc → Bool) :
    Keeps ps z (abortDescs p s) := by
  have k_mapDescs : Sub 0x8000 ps := sub_of hs rfl
  unfold abortDescs
  repeat'
    first
    | with_reducible refine keeps_ite (fun _ => ?_) (fun _ => ?_) | with_reducible assumption
    | with_reducible refine mapDescs_keeps ?_ k_mapDescs _ | intro _

theorem cancelOps_keeps {ps : Nat} {z s : State} (hz : Keeps ps z s) (hs : Sub 0x86ffe8001 ps) (p : TrigOp → Bool) :
    Keeps ps z (cancelOps p s) := by
  have k_settle : Sub 0x86ffe8001 ps := sub_of hs rfl
  have k_opsFail : Sub 0x845fa8001 ps := sub_of hs rfl
  unfold cancelOps
  repeat'
    first
    | extract_lets | with_reducible assumption | with_reducible refine settle_keeps ?_ k_settle _
    | with_reducible refine opsFail_keeps ?_ k_opsFail _ _
    | refine opsFail_keeps_eq ?_ k_opsFail _ _ (by assumption) | dsimp +zetaDelta only

theorem haltRunner_keeps {ps : Nat} {z s : State} (hz : Keeps ps z s) (hs : Sub 0x8000000 ps) (c : Nat) :
    Keeps ps z (haltRunner c s) := by
  have k_runners : Sub 0x8000000 ps := sub_of hs rfl
  unfold haltRunner
  repeat'
    first
    | with_reducible assumption | fail_if_no_progress with_reducible refine keeps_set_runners ?_ k_runners _
    | intro _

theorem removeCtxWork_keeps {ps : Nat} {z s : State} (hz : Keeps ps z s) (hs : Sub 0xe6fff8001 ps) (c : Nat) :
    Keeps ps z (removeCtxWork c s) := by
  have k_haltRunner : Sub 0x8000000 ps := sub_of hs rfl
  have k_cancelOps : Sub 0x86ffe8001 ps := sub_of hs rfl
  have k_abortDescs : Sub 0x8000 ps := sub_of hs rfl
  have k_endLaunch : Sub 0x208000 ps := sub_of hs rfl
  have k_discardGens : Sub 0xe6fff8001 ps := sub_of hs rfl
  have k_stopLaunches : Sub 0xe6fff8001 ps := sub_of hs rfl
  unfold removeCtxWork
  repeat'
    first
    | with_reducible refine keeps_foldl ?_ ?_ | extract_lets | with_reducible assumption
    | with_reducible refine haltRunner_keeps ?_ k_haltRunner _
    | with_reducible refine cancelOps_keeps ?_ k_cancelOps _
    | with_reducible refine abortDescs_keeps ?_ k_abortDescs _
    | with_reducible refine endLaunch_keeps ?_ k_endLaunch _
    | with_reducible refine discardGens_keeps ?_ k_discardGens _ _
    | with_reducible refine stopLaunches_keeps ?_ k_stopLaunches _ _ | intro _ | dsimp +zetaDelta only

end Sys2Proof.Laws
end

