-- ==== Sys2Proof/Laws/KeepsLanding.lean ====
section
/-!
SUPPORT. Sys2Proof/Laws/KeepsLanding.lean: the operations of Sys2Proof/Machine/Landing.lean keep what Laws/Keeps.lean says.
-/
namespace Sys2Proof.Laws
open Sys2Proof.Machine

theorem modPool_keeps {ps : Nat} {z s : State} (hz : Keeps ps z s) (hs : Sub 0x400000 ps) (p : Nat) (f : Allocator →
    Allocator) : Keeps ps z (modPool p f s) := by
  have k_modHbm : Sub 0x400000 ps := sub_of hs rfl
  unfold modPool
  repeat'
    first
    | with_reducible assumption | with_reducible refine modHbm_keeps ?_ k_modHbm _ | intro _

theorem modStream_keeps {ps : Nat} {z s : State} (hz : Keeps ps z s) (hs : Sub 0x20000000 ps) (n : Nat) (f : Stream
    → Stream) : Keeps ps z (modStream n f s) := by
  have k_modIng : Sub 0x20000000 ps := sub_of hs rfl
  unfold modStream
  repeat'
    first
    | with_reducible assumption | with_reducible refine modIng_keeps ?_ k_modIng _ | intro _

theorem ingestTell_keeps {ps : Nat} {z s : State} (hz : Keeps ps z s) (hs : Sub 0x1000001 ps) (n : Nat) (x : Stream)
    (kind : Nat) (payload : List Byte) : Keeps ps z (ingestTell n x kind payload s) := by
  have k_sendTo : Sub 0x1000001 ps := sub_of hs rfl
  unfold ingestTell
  repeat'
    first
    | with_reducible assumption | with_reducible refine sendTo_keeps ?_ k_sendTo _ _

theorem gapPost_keeps {ps : Nat} {z s : State} (hz : Keeps ps z s) (hs : Sub 0x20008000 ps) (n : Nat) (ssn : Nat)
    (reason : Nat) : Keeps ps z (gapPost n ssn reason s) := by
  have k_modStream : Sub 0x20000000 ps := sub_of hs rfl
  have k_post : Sub 0x8000 ps := sub_of hs rfl
  unfold gapPost
  repeat'
    first
    | extract_lets | with_reducible assumption | with_reducible refine modStream_keeps ?_ k_modStream _ _
    | with_reducible refine post_keeps ?_ k_post _ _ _ _ | intro _ | split | dsimp +zetaDelta only

theorem goHold_keeps {ps : Nat} {z s : State} (hz : Keeps ps z s) (hs : Sub 0x21000001 ps) (n : Nat) :
    Keeps ps z (goHold n s) := by
  have k_ingestTell : Sub 0x1000001 ps := sub_of hs rfl
  have k_modStream : Sub 0x20000000 ps := sub_of hs rfl
  unfold goHold
  repeat'
    first
    | extract_lets | with_reducible assumption | with_reducible refine ingestTell_keeps ?_ k_ingestTell _ _ _ _
    | with_reducible refine modStream_keeps ?_ k_modStream _ _ | intro _ | split | dsimp +zetaDelta only

theorem takeBuffer_keeps {ps : Nat} {z s : State} (hz : Keeps ps z s) (hs : Sub 0x20400000 ps) (n : Nat) :
    Keeps ps z (takeBuffer n s).2 := by
  have k_modStream : Sub 0x20000000 ps := sub_of hs rfl
  have k_modPool : Sub 0x400000 ps := sub_of hs rfl
  unfold takeBuffer
  repeat'
    first
    | extract_lets | with_reducible assumption | with_reducible refine modStream_keeps ?_ k_modStream _ _
    | with_reducible refine modPool_keeps ?_ k_modPool _ _ | intro _ | split | dsimp +zetaDelta only

theorem takeBuffer_keeps_eq {ps : Nat} {z s z' : State} {b' : Bool} (hz : Keeps ps z s) (hs : Sub 0x20400000 ps) (n
    : Nat) (e' : takeBuffer n s = (b', z')) :
    Keeps ps z z' := by
  have k := takeBuffer_keeps hz hs n
  rw [e'] at k
  exact k

theorem landRoom_keeps {ps : Nat} {z s : State} (hz : Keeps ps z s) (hs : Sub 0x21400001 ps) (n : Nat) (size : Nat)
    : Keeps ps z (landRoom n size s).2 := by
  have k_takeBuffer : Sub 0x20400000 ps := sub_of hs rfl
  have k_goHold : Sub 0x21000001 ps := sub_of hs rfl
  have k_modStream : Sub 0x20000000 ps := sub_of hs rfl
  unfold landRoom
  repeat'
    first
    | with_reducible refine keeps_ite (fun _ => ?_) (fun _ => ?_) | extract_lets | with_reducible assumption
    | with_reducible refine takeBuffer_keeps ?_ k_takeBuffer _
    | refine takeBuffer_keeps_eq ?_ k_takeBuffer _ (by assumption)
    | with_reducible refine goHold_keeps ?_ k_goHold _ | with_reducible refine modStream_keeps ?_ k_modStream _ _
    | intro _ | split | dsimp +zetaDelta only

theorem landRoom_keeps_eq {ps : Nat} {z s z' : State} {b' : Bool} (hz : Keeps ps z s) (hs : Sub 0x21400001 ps) (n :
    Nat) (size : Nat) (e' : landRoom n size s = (b', z')) :
    Keeps ps z z' := by
  have k := landRoom_keeps hz hs n size
  rw [e'] at k
  exact k

theorem landPut_keeps {ps : Nat} {z s : State} (hz : Keeps ps z s) (hs : Sub 0x20000000 ps) (n : Nat) (esc : Bool)
    (r : SampleRec) : Keeps ps z (landPut n esc r s) := by
  have k_modStream : Sub 0x20000000 ps := sub_of hs rfl
  unfold landPut
  repeat'
    first
    | with_reducible refine keeps_ite (fun _ => ?_) (fun _ => ?_) | with_reducible assumption
    | with_reducible refine modStream_keeps ?_ k_modStream _ _ | intro _ | split

theorem landGap_keeps {ps : Nat} {z s : State} (hz : Keeps ps z s) (hs : Sub 0x21408001 ps) (n : Nat) (ssn : Nat)
    (count : Nat) (reason : Nat) : Keeps ps z (landGap n ssn count reason s) := by
  have k_landPut : Sub 0x20000000 ps := sub_of hs rfl
  have k_landRoom : Sub 0x21400001 ps := sub_of hs rfl
  have k_gapPost : Sub 0x20008000 ps := sub_of hs rfl
  unfold landGap
  repeat'
    first
    | extract_lets | with_reducible assumption | with_reducible refine landPut_keeps ?_ k_landPut _ _ _
    | with_reducible refine landRoom_keeps ?_ k_landRoom _ _
    | refine landRoom_keeps_eq ?_ k_landRoom _ _ (by assumption)
    | with_reducible refine gapPost_keeps ?_ k_gapPost _ _ _ | dsimp +zetaDelta only

theorem tryResume_keeps {ps : Nat} {z s : State} (hz : Keeps ps z s) (hs : Sub 0x21000001 ps) (n : Nat) :
    Keeps ps z (tryResume n s) := by
  have k_ingestTell : Sub 0x1000001 ps := sub_of hs rfl
  have k_modStream : Sub 0x20000000 ps := sub_of hs rfl
  unfold tryResume
  repeat'
    first
    | with_reducible refine keeps_ite (fun _ => ?_) (fun _ => ?_) | with_reducible assumption
    | with_reducible refine ingestTell_keeps ?_ k_ingestTell _ _ _ _
    | with_reducible refine modStream_keeps ?_ k_modStream _ _ | intro _ | split

theorem drainStream_keeps {ps : Nat} {z s : State} (hz : Keeps ps z s) (hs : Sub 0x21400001 ps) (n : Nat) :
    Keeps ps z (drainStream n s) := by
  have k_tryResume : Sub 0x21000001 ps := sub_of hs rfl
  have k_takeBuffer : Sub 0x20400000 ps := sub_of hs rfl
  have k_modStream : Sub 0x20000000 ps := sub_of hs rfl
  unfold drainStream
  repeat'
    first
    | with_reducible refine keeps_ite (fun _ => ?_) (fun _ => ?_) | extract_lets | with_reducible assumption
    | with_reducible refine tryResume_keeps ?_ k_tryResume _
    | with_reducible refine takeBuffer_keeps ?_ k_takeBuffer _
    | refine takeBuffer_keeps_eq ?_ k_takeBuffer _ (by assumption)
    | with_reducible refine modStream_keeps ?_ k_modStream _ _ | intro _ | split | dsimp +zetaDelta only

theorem releaseLanding_keeps {ps : Nat} {z s : State} (hz : Keeps ps z s) (hs : Sub 0x20400000 ps)  :
    Keeps ps z (releaseLanding s) := by
  have k_modClu : Sub 0x400000 ps := sub_of hs rfl
  have k_modHbm : Sub 0x400000 ps := sub_of hs rfl
  have k_modIng : Sub 0x20000000 ps := sub_of hs rfl
  unfold releaseLanding
  repeat'
    first
    | with_reducible refine keeps_foldl ?_ ?_ | extract_lets | with_reducible assumption
    | with_reducible refine modClu_keeps ?_ k_modClu _ _ | with_reducible refine modHbm_keeps ?_ k_modHbm _
    | with_reducible refine modIng_keeps ?_ k_modIng _ | intro _ | dsimp +zetaDelta only

theorem endStream_keeps {ps : Nat} {z s : State} (hz : Keeps ps z s) (hs : Sub 0x20400000 ps) (n : Nat) :
    Keeps ps z (endStream n s) := by
  have k_releaseLanding : Sub 0x20400000 ps := sub_of hs rfl
  have k_modPool : Sub 0x400000 ps := sub_of hs rfl
  have k_modIng : Sub 0x20000000 ps := sub_of hs rfl
  unfold endStream
  repeat'
    first
    | with_reducible refine keeps_ite (fun _ => ?_) (fun _ => ?_) | extract_lets | with_reducible assumption
    | with_reducible refine releaseLanding_keeps ?_ k_releaseLanding
    | with_reducible refine modPool_keeps ?_ k_modPool _ _ | with_reducible refine modIng_keeps ?_ k_modIng _
    | intro _ | split | dsimp +zetaDelta only

theorem discardLanded_keeps {ps : Nat} {z s : State} (hz : Keeps ps z s) (hs : Sub 0x20000000 ps) (n : Nat) :
    Keeps ps z (discardLanded n s) := by
  have k_modStream : Sub 0x20000000 ps := sub_of hs rfl
  have k_modIng : Sub 0x20000000 ps := sub_of hs rfl
  unfold discardLanded
  repeat'
    first
    | with_reducible refine keeps_foldl ?_ ?_ | extract_lets | with_reducible assumption
    | with_reducible refine modStream_keeps ?_ k_modStream _ _ | with_reducible refine modIng_keeps ?_ k_modIng _
    | intro _ | split | dsimp +zetaDelta only

theorem tryClose_keeps {ps : Nat} {z s : State} (hz : Keeps ps z s) (hs : Sub 0x20408000 ps) (n : Nat) :
    Keeps ps z (tryClose n s) := by
  have k_endStream : Sub 0x20400000 ps := sub_of hs rfl
  have k_endDesc : Sub 0x8000 ps := sub_of hs rfl
  unfold tryClose
  repeat'
    first
    | with_reducible refine keeps_ite (fun _ => ?_) (fun _ => ?_) | extract_lets | with_reducible assumption
    | with_reducible refine endStream_keeps ?_ k_endStream _
    | with_reducible refine endDesc_keeps ?_ k_endDesc _ _ _ | intro _ | split | dsimp +zetaDelta only

theorem closeStream_keeps {ps : Nat} {z s : State} (hz : Keeps ps z s) (hs : Sub 0x21400001 ps) (n : Nat) (discard :
    Bool) (desc : Option (Nat × Nat)) : Keeps ps z (closeStream n discard desc s) := by
  have k_discardLanded : Sub 0x20000000 ps := sub_of hs rfl
  have k_drainStream : Sub 0x21400001 ps := sub_of hs rfl
  have k_ingestTell : Sub 0x1000001 ps := sub_of hs rfl
  have k_modStream : Sub 0x20000000 ps := sub_of hs rfl
  unfold closeStream
  repeat'
    first
    | with_reducible refine keeps_ite (fun _ => ?_) (fun _ => ?_) | extract_lets | with_reducible assumption
    | with_reducible refine discardLanded_keeps ?_ k_discardLanded _
    | with_reducible refine drainStream_keeps ?_ k_drainStream _
    | with_reducible refine ingestTell_keeps ?_ k_ingestTell _ _ _ _
    | with_reducible refine modStream_keeps ?_ k_modStream _ _ | intro _ | split | dsimp +zetaDelta only

theorem closeStreamsOf_keeps {ps : Nat} {z s : State} (hz : Keeps ps z s) (hs : Sub 0x21400001 ps) (p : Stream →
    Bool) : Keeps ps z (closeStreamsOf p s) := by
  have k_closeStream : Sub 0x21400001 ps := sub_of hs rfl
  have k_discardLanded : Sub 0x20000000 ps := sub_of hs rfl
  have k_endStream : Sub 0x20400000 ps := sub_of hs rfl
  unfold closeStreamsOf
  repeat'
    first
    | with_reducible refine keeps_foldl ?_ ?_ | with_reducible refine keeps_ite (fun _ => ?_) (fun _ => ?_)
    | with_reducible assumption | with_reducible refine closeStream_keeps ?_ k_closeStream _ _ _
    | with_reducible refine discardLanded_keeps ?_ k_discardLanded _
    | with_reducible refine endStream_keeps ?_ k_endStream _ | intro _

theorem dropStreams_keeps {ps : Nat} {z s : State} (hz : Keeps ps z s) (hs : Sub 0x20400000 ps) (p : Stream → Bool)
    : Keeps ps z (dropStreams p s) := by
  have k_discardLanded : Sub 0x20000000 ps := sub_of hs rfl
  have k_endStream : Sub 0x20400000 ps := sub_of hs rfl
  have k_modPool : Sub 0x400000 ps := sub_of hs rfl
  have k_modIng : Sub 0x20000000 ps := sub_of hs rfl
  unfold dropStreams
  repeat'
    first
    | with_reducible refine keeps_foldl ?_ ?_ | extract_lets | with_reducible assumption
    | with_reducible refine discardLanded_keeps ?_ k_discardLanded _
    | with_reducible refine endStream_keeps ?_ k_endStream _ | with_reducible refine modPool_keeps ?_ k_modPool _ _
    | with_reducible refine modIng_keeps ?_ k_modIng _ | intro _ | dsimp +zetaDelta only

theorem landLoss_keeps {ps : Nat} {z s : State} (hz : Keeps ps z s) (hs : Sub 0x20408000 ps) (p : Nat) :
    Keeps ps z (landLoss p s) := by
  have k_gapPost : Sub 0x20008000 ps := sub_of hs rfl
  have k_modPool : Sub 0x400000 ps := sub_of hs rfl
  have k_modIng : Sub 0x20000000 ps := sub_of hs rfl
  unfold landLoss
  repeat'
    first
    | with_reducible refine keeps_foldl ?_ ?_ | extract_lets | with_reducible assumption
    | with_reducible refine gapPost_keeps ?_ k_gapPost _ _ _ | with_reducible refine modPool_keeps ?_ k_modPool _ _
    | with_reducible refine modIng_keeps ?_ k_modIng _ | intro _ | dsimp +zetaDelta only

end Sys2Proof.Laws
end

