-- ==== Sys2Proof/Laws/KeepsCkpt.lean ====
section
/-!
SUPPORT. Sys2Proof/Laws/KeepsCkpt.lean: the operations of Sys2Proof/Machine/Ckpt.lean keep what Laws/Keeps.lean says.
-/
namespace Sys2Proof.Laws
open Sys2Proof.Machine

theorem modCc_keeps {ps : Nat} {z s : State} (hz : Keeps ps z s) (hs : Sub 0x40000000 ps) (c : Nat) (f : CkpCtx →
    CkpCtx) : Keeps ps z (modCc c f s) := by
  have k_modCkp : Sub 0x40000000 ps := sub_of hs rfl
  unfold modCc
  repeat'
    first
    | with_reducible assumption | with_reducible refine modCkp_keeps ?_ k_modCkp _ | intro _

theorem modXfer_keeps {ps : Nat} {z s : State} (hz : Keeps ps z s) (hs : Sub 0x40000000 ps) (t : Nat) (f : Xfer →
    Xfer) : Keeps ps z (modXfer t f s) := by
  have k_modCkp : Sub 0x40000000 ps := sub_of hs rfl
  unfold modXfer
  repeat'
    first
    | with_reducible assumption | with_reducible refine modCkp_keeps ?_ k_modCkp _ | intro _

theorem dropXfer_keeps {ps : Nat} {z s : State} (hz : Keeps ps z s) (hs : Sub 0x40000000 ps) (t : Nat) :
    Keeps ps z (dropXfer t s) := by
  have k_modCkp : Sub 0x40000000 ps := sub_of hs rfl
  unfold dropXfer
  repeat'
    first
    | with_reducible assumption | with_reducible refine modCkp_keeps ?_ k_modCkp _ | intro _

theorem dropXfers_keeps {ps : Nat} {z s : State} (hz : Keeps ps z s) (hs : Sub 0x40000000 ps) (c : Nat) (p :
    XferKind → Bool) : Keeps ps z (dropXfers c p s) := by
  have k_modCkp : Sub 0x40000000 ps := sub_of hs rfl
  unfold dropXfers
  repeat'
    first
    | with_reducible assumption | with_reducible refine modCkp_keeps ?_ k_modCkp _ | intro _

theorem fileReq_keeps {ps : Nat} {z s : State} (hz : Keeps ps z s) (hs : Sub 0x1000001 ps) (node : Nat) (kind : Nat)
    (txn : Nat) (fields : List Nat) (bytes : List Byte) : Keeps ps z (fileReq node kind txn fields bytes s) := by
  have k_sendTo : Sub 0x1000001 ps := sub_of hs rfl
  unfold fileReq
  repeat'
    first
    | with_reducible assumption | with_reducible refine sendTo_keeps ?_ k_sendTo _ _

theorem openXfer_keeps {ps : Nat} {z s : State} (hz : Keeps ps z s) (hs : Sub 0x41000001 ps) (x : Xfer) (kind : Nat)
    (fields : List Nat) (bytes : List Byte) : Keeps ps z (openXfer x kind fields bytes s) := by
  have k_fileReq : Sub 0x1000001 ps := sub_of hs rfl
  have k_modCkp : Sub 0x40000000 ps := sub_of hs rfl
  unfold openXfer
  repeat'
    first
    | extract_lets | with_reducible assumption | with_reducible refine fileReq_keeps ?_ k_fileReq _ _ _ _ _
    | with_reducible refine modCkp_keeps ?_ k_modCkp _ | intro _ | dsimp +zetaDelta only

theorem ckpPost_keeps {ps : Nat} {z s : State} (hz : Keeps ps z s) (hs : Sub 0x8000 ps) (c : Nat) (step : Nat)
    (reason : Nat) : Keeps ps z (ckpPost c step reason s) := by
  have k_post : Sub 0x8000 ps := sub_of hs rfl
  unfold ckpPost
  repeat'
    first
    | with_reducible assumption | with_reducible refine post_keeps ?_ k_post _ _ _ _

theorem disarmNow_keeps {ps : Nat} {z s : State} (hz : Keeps ps z s) (hs : Sub 0x40008000 ps) (c : Nat) :
    Keeps ps z (disarmNow c s) := by
  have k_modCc : Sub 0x40000000 ps := sub_of hs rfl
  have k_endDesc : Sub 0x8000 ps := sub_of hs rfl
  unfold disarmNow
  repeat'
    first
    | with_reducible refine keeps_foldl ?_ ?_ | with_reducible refine keeps_ite (fun _ => ?_) (fun _ => ?_)
    | extract_lets | with_reducible assumption | with_reducible refine modCc_keeps ?_ k_modCc _ _
    | with_reducible refine endDesc_keeps ?_ k_endDesc _ _ _ | intro _ | dsimp +zetaDelta only

theorem ckpSignal_keeps {ps : Nat} {z s : State} (hz : Keeps ps z s) (hs : Sub 0x86ffe8001 ps) (p : CkpPlan) (step :
    Nat) (err : Bool) : Keeps ps z (ckpSignal p step err s) := by
  have k_updateEvent : Sub 0x86ffe8001 ps := sub_of hs rfl
  unfold ckpSignal
  repeat'
    first
    | with_reducible assumption | with_reducible refine updateEvent_keeps ?_ k_updateEvent _ _ | split

theorem ckpEnds_keeps {ps : Nat} {z s : State} (hz : Keeps ps z s) (hs : Sub 0x86ffe8001 ps) (c : Nat) (fail :
    Option Nat) : Keeps ps z (ckpEnds c fail s) := by
  have k_ckpSignal : Sub 0x86ffe8001 ps := sub_of hs rfl
  have k_disarmNow : Sub 0x40008000 ps := sub_of hs rfl
  have k_ckpPost : Sub 0x8000 ps := sub_of hs rfl
  have k_dropXfers : Sub 0x40000000 ps := sub_of hs rfl
  have k_modCc : Sub 0x40000000 ps := sub_of hs rfl
  have k_modCkp : Sub 0x40000000 ps := sub_of hs rfl
  unfold ckpEnds
  repeat'
    first
    | with_reducible refine keeps_ite (fun _ => ?_) (fun _ => ?_) | extract_lets | with_reducible assumption
    | with_reducible refine ckpSignal_keeps ?_ k_ckpSignal _ _ _
    | with_reducible refine disarmNow_keeps ?_ k_disarmNow _
    | with_reducible refine ckpPost_keeps ?_ k_ckpPost _ _ _
    | with_reducible refine dropXfers_keeps ?_ k_dropXfers _ _ | with_reducible refine modCc_keeps ?_ k_modCc _ _
    | with_reducible refine modCkp_keeps ?_ k_modCkp _ | intro _ | split | dsimp +zetaDelta only

theorem maniDone_keeps {ps : Nat} {z s : State} (hz : Keeps ps z s) (hs : Sub 0x86ffe8001 ps) (node : Nat) (step :
    Nat) (inc : Nat) (result : Nat) : Keeps ps z (maniDone node step inc result s) := by
  have k_ckpEnds : Sub 0x86ffe8001 ps := sub_of hs rfl
  unfold maniDone
  repeat'
    first
    | with_reducible refine keeps_ite (fun _ => ?_) (fun _ => ?_) | with_reducible assumption
    | with_reducible refine ckpEnds_keeps ?_ k_ckpEnds _ _ | intro _ | split

theorem maniSend_keeps {ps : Nat} {z s : State} (hz : Keeps ps z s) (hs : Sub 0x86ffe8001 ps) (c : Nat) (ok : Bool)
    : Keeps ps z (maniSend c ok s) := by
  have k_maniDone : Sub 0x86ffe8001 ps := sub_of hs rfl
  have k_fileReq : Sub 0x1000001 ps := sub_of hs rfl
  have k_modCc : Sub 0x40000000 ps := sub_of hs rfl
  unfold maniSend
  repeat'
    first
    | with_reducible refine keeps_foldl ?_ ?_ | with_reducible refine keeps_ite (fun _ => ?_) (fun _ => ?_)
    | extract_lets | with_reducible assumption | with_reducible refine maniDone_keeps ?_ k_maniDone _ _ _ _
    | with_reducible refine fileReq_keeps ?_ k_fileReq _ _ _ _ _ | with_reducible refine modCc_keeps ?_ k_modCc _ _
    | intro _ | split | dsimp +zetaDelta only

theorem maniReport_keeps {ps : Nat} {z s : State} (hz : Keeps ps z s) (hs : Sub 0x86ffe8001 ps) (node : Nat) (rank :
    Nat) (step : Nat) (inc : Nat) (shape : Nat) (digest : Nat) (len : Nat) (store : Nat) (buddy : Option Nat) (result :
    Nat) : Keeps ps z (maniReport node rank step inc shape digest len store buddy result s) := by
  have k_maniSend : Sub 0x86ffe8001 ps := sub_of hs rfl
  have k_openXfer : Sub 0x41000001 ps := sub_of hs rfl
  have k_fileReq : Sub 0x1000001 ps := sub_of hs rfl
  have k_modCc : Sub 0x40000000 ps := sub_of hs rfl
  unfold maniReport
  repeat'
    first
    | with_reducible refine keeps_ite (fun _ => ?_) (fun _ => ?_) | extract_lets | with_reducible assumption
    | with_reducible refine maniSend_keeps ?_ k_maniSend _ _
    | with_reducible refine openXfer_keeps ?_ k_openXfer _ _ _ _
    | with_reducible refine fileReq_keeps ?_ k_fileReq _ _ _ _ _ | with_reducible refine modCc_keeps ?_ k_modCc _ _
    | intro _ | split | dsimp +zetaDelta only

theorem ckpReport_keeps {ps : Nat} {z s : State} (hz : Keeps ps z s) (hs : Sub 0x86ffe8001 ps) (c : Nat) (digest :
    Nat) (result : Nat) : Keeps ps z (ckpReport c digest result s) := by
  have k_maniReport : Sub 0x86ffe8001 ps := sub_of hs rfl
  have k_sendTo : Sub 0x1000001 ps := sub_of hs rfl
  unfold ckpReport
  repeat'
    first
    | with_reducible refine keeps_ite (fun _ => ?_) (fun _ => ?_) | extract_lets | with_reducible assumption
    | with_reducible refine maniReport_keeps ?_ k_maniReport _ _ _ _ _ _ _ _ _ _
    | with_reducible refine sendTo_keeps ?_ k_sendTo _ _ | intro _ | split | dsimp +zetaDelta only

theorem ckpFail_keeps {ps : Nat} {z s : State} (hz : Keeps ps z s) (hs : Sub 0x86ffe8001 ps) (c : Nat) (reason :
    Nat) : Keeps ps z (ckpFail c reason s) := by
  have k_ckpReport : Sub 0x86ffe8001 ps := sub_of hs rfl
  have k_ckpEnds : Sub 0x86ffe8001 ps := sub_of hs rfl
  unfold ckpFail
  repeat'
    first
    | with_reducible refine keeps_ite (fun _ => ?_) (fun _ => ?_) | with_reducible assumption
    | with_reducible refine ckpReport_keeps ?_ k_ckpReport _ _ _
    | with_reducible refine ckpEnds_keeps ?_ k_ckpEnds _ _ | intro _ | split

theorem ckpAtApply_keeps {ps : Nat} {z s : State} (hz : Keeps ps z s) (hs : Sub 0x40008000 ps) (c : Nat) (n : Nat)
    (t : Nat) : Keeps ps z (ckpAtApply c n t s) := by
  have k_ckpPost : Sub 0x8000 ps := sub_of hs rfl
  have k_modCc : Sub 0x40000000 ps := sub_of hs rfl
  have k_modCkp : Sub 0x40000000 ps := sub_of hs rfl
  unfold ckpAtApply
  repeat'
    first
    | with_reducible refine keeps_ite (fun _ => ?_) (fun _ => ?_) | extract_lets | with_reducible assumption
    | with_reducible refine ckpPost_keeps ?_ k_ckpPost _ _ _ | with_reducible refine modCc_keeps ?_ k_modCc _ _
    | with_reducible refine modCkp_keeps ?_ k_modCkp _ | intro _ | split | dsimp +zetaDelta only

theorem ckpApply_keeps {ps : Nat} {z s : State} (hz : Keeps ps z s) (hs : Sub 0x40008000 ps) (n : Nat) (t : Nat) :
    Keeps ps z (ckpApply n t s) := by
  have k_ckpAtApply : Sub 0x40008000 ps := sub_of hs rfl
  have k_modCkp : Sub 0x40000000 ps := sub_of hs rfl
  unfold ckpApply
  repeat'
    first
    | with_reducible refine keeps_foldl ?_ ?_ | extract_lets | with_reducible assumption
    | with_reducible refine ckpAtApply_keeps ?_ k_ckpAtApply _ _ _
    | with_reducible refine modCkp_keeps ?_ k_modCkp _ | intro _ | dsimp +zetaDelta only

theorem ckpObjectGone_keeps {ps : Nat} {z s : State} (hz : Keeps ps z s) (hs : Sub 0x86ffe8001 ps) (slot : Nat) :
    Keeps ps z (ckpObjectGone slot s) := by
  have k_ckpFail : Sub 0x86ffe8001 ps := sub_of hs rfl
  unfold ckpObjectGone
  repeat'
    first
    | with_reducible refine keeps_foldl ?_ ?_ | extract_lets | with_reducible assumption
    | with_reducible refine ckpFail_keeps ?_ k_ckpFail _ _ | intro _ | split | dsimp +zetaDelta only

theorem ckpPartition_keeps {ps : Nat} {z s : State} (hz : Keeps ps z s) (hs : Sub 0x86ffe8001 ps) (p : Nat) :
    Keeps ps z (ckpPartition p s) := by
  have k_ckpFail : Sub 0x86ffe8001 ps := sub_of hs rfl
  unfold ckpPartition
  repeat'
    first
    | with_reducible refine keeps_foldl ?_ ?_ | extract_lets | with_reducible assumption
    | with_reducible refine ckpFail_keeps ?_ k_ckpFail _ _ | intro _ | dsimp +zetaDelta only

theorem ckpCtxGone_keeps {ps : Nat} {z s : State} (hz : Keeps ps z s) (hs : Sub 0x86ffe8001 ps) (c : Nat) :
    Keeps ps z (ckpCtxGone c s) := by
  have k_ckpFail : Sub 0x86ffe8001 ps := sub_of hs rfl
  have k_dropXfers : Sub 0x40000000 ps := sub_of hs rfl
  have k_modCkp : Sub 0x40000000 ps := sub_of hs rfl
  unfold ckpCtxGone
  repeat'
    first
    | extract_lets | with_reducible assumption | with_reducible refine ckpFail_keeps ?_ k_ckpFail _ _
    | with_reducible refine dropXfers_keeps ?_ k_dropXfers _ _ | with_reducible refine modCkp_keeps ?_ k_modCkp _
    | intro _ | dsimp +zetaDelta only

end Sys2Proof.Laws
end

