-- ==== Sys2Proof/Laws/KeepsLogs.lean ====
section
/-!
SUPPORT. Sys2Proof/Laws/KeepsLogs.lean: the operations of Sys2Proof/Machine/Logs.lean keep what Laws/Keeps.lean says.
-/
namespace Sys2Proof.Laws
open Sys2Proof.Machine

theorem logPage_seq {l l' : LogStore} (h : logPage l = some l') : l'.nextSeq = l.nextSeq := by
  unfold logPage at h
  split at h
  · cases h; rfl
  · split at h
    · cases h; rfl
    · cases h

theorem oneWay_page {a : NvState} {l : LogStore} (x : LogRec) (h : logPage a.log = some l) :
    OneWay a { a with log := logPut x l } :=
  oneWay_same rfl rfl rfl rfl rfl rfl rfl (show l.nextSeq = _ from logPage_seq h)

theorem logCommitFrom_keeps {ps : Nat} {z y2 : State} (hz : Keeps ps z y2) (hs : Sub 0xa301 ps) (y0 : List LogRec)
    (y1 : Nat) : Keeps ps z (logCommitFrom y0 y1 y2) := by
  have k_logReadOnly : Sub 0xa101 ps := sub_of hs rfl
  have k_modNv : Sub 0x2000 ps := sub_of hs rfl
  have k_modLog : Sub 0x200 ps := sub_of hs rfl
  induction y0 generalizing y2 y1 with
  | nil =>
    unfold logCommitFrom
    repeat'
      first
      | exact oneWay_page _ (by assumption) | with_reducible refine keeps_ite (fun _ => ?_) (fun _ => ?_)
      | with_reducible assumption | with_reducible refine logReadOnly_keeps ?_ k_logReadOnly
      | with_reducible refine modNv_keeps ?_ k_modNv _ ?_ | with_reducible refine modLog_keeps ?_ k_modLog _
      | exact oneWay_same rfl rfl rfl rfl rfl rfl rfl rfl | intro _ | split
  | cons x l ih =>
    unfold logCommitFrom
    repeat'
      first
      | with_reducible refine ih ?_ _
      | exact oneWay_page _ (by assumption) | with_reducible refine keeps_ite (fun _ => ?_) (fun _ => ?_)
      | with_reducible assumption | with_reducible refine logReadOnly_keeps ?_ k_logReadOnly
      | with_reducible refine modNv_keeps ?_ k_modNv _ ?_ | with_reducible refine modLog_keeps ?_ k_modLog _
      | exact oneWay_same rfl rfl rfl rfl rfl rfl rfl rfl | intro _ | split

theorem logCommit_keeps {ps : Nat} {z s : State} (hz : Keeps ps z s) (hs : Sub 0xa301 ps) (p : LogRec → Bool) :
    Keeps ps z (logCommit p s) := by
  have k_logCommitFrom : Sub 0xa301 ps := sub_of hs rfl
  have k_modLog : Sub 0x200 ps := sub_of hs rfl
  unfold logCommit
  repeat'
    first
    | with_reducible refine keeps_ite (fun _ => ?_) (fun _ => ?_) | extract_lets | with_reducible assumption
    | with_reducible refine logCommitFrom_keeps ?_ k_logCommitFrom _ _
    | with_reducible refine modLog_keeps ?_ k_modLog _ | intro _ | dsimp +zetaDelta only

theorem ivOpen_keeps {ps : Nat} {z s : State} (hz : Keeps ps z s) (hs : Sub 0x1000 ps)  :
    Keeps ps z (ivOpen s) := by
  have k_modLed : Sub 0x1000 ps := sub_of hs rfl
  unfold ivOpen
  repeat'
    first
    | extract_lets | with_reducible assumption | with_reducible refine modLed_keeps ?_ k_modLed _ | intro _
    | dsimp +zetaDelta only

theorem ivClose_keeps {ps : Nat} {z s : State} (hz : Keeps ps z s) (hs : Sub 0x3202 ps) (flags : Nat) :
    Keeps ps z (ivClose flags s) := by
  have k_logWrite : Sub 0x2200 ps := sub_of hs rfl
  have k_tookFree : Sub 0x2 ps := sub_of hs rfl
  have k_modNv : Sub 0x2000 ps := sub_of hs rfl
  have k_modLed : Sub 0x1000 ps := sub_of hs rfl
  unfold ivClose
  repeat'
    first
    | with_reducible refine keeps_ite (fun _ => ?_) (fun _ => ?_) | extract_lets | with_reducible assumption
    | with_reducible refine logWrite_keeps ?_ k_logWrite _ _ _ | with_reducible refine tookFree_keeps ?_ k_tookFree
    | with_reducible refine modNv_keeps ?_ k_modNv _ ?_ | with_reducible refine modLed_keeps ?_ k_modLed _
    | exact oneWay_same rfl rfl rfl rfl rfl rfl rfl rfl | intro _ | split | dsimp +zetaDelta only

theorem ledgerLoad_keeps {ps : Nat} {z s : State} (hz : Keeps ps z s) (hs : Sub 0x3202 ps)  :
    Keeps ps z (ledgerLoad s) := by
  have k_ivClose : Sub 0x3202 ps := sub_of hs rfl
  have k_ivOpen : Sub 0x1000 ps := sub_of hs rfl
  have k_modLed : Sub 0x1000 ps := sub_of hs rfl
  unfold ledgerLoad
  repeat'
    first
    | with_reducible refine keeps_ite (fun _ => ?_) (fun _ => ?_) | extract_lets | with_reducible assumption
    | with_reducible refine ivClose_keeps ?_ k_ivClose _ | with_reducible refine ivOpen_keeps ?_ k_ivOpen
    | with_reducible refine modLed_keeps ?_ k_modLed _ | intro _ | dsimp +zetaDelta only

theorem tickNs_keeps {ps : Nat} {z s : State} (hz : Keeps ps z s) (hs : Sub 0x2001004 ps)  :
    Keeps ps z (tickNs s) := by
  have k_modWmk : Sub 0x2000000 ps := sub_of hs rfl
  have k_modLed : Sub 0x1000 ps := sub_of hs rfl
  have k_now : Sub 0x4 ps := sub_of hs rfl
  unfold tickNs
  repeat'
    first
    | with_reducible refine keeps_ite (fun _ => ?_) (fun _ => ?_) | extract_lets | with_reducible assumption
    | with_reducible refine modWmk_keeps ?_ k_modWmk _ | with_reducible refine modLed_keeps ?_ k_modLed _
    | fail_if_no_progress with_reducible refine keeps_set_now ?_ k_now _ | intro _ | dsimp +zetaDelta only

theorem commitPowerFail_keeps {ps : Nat} {z s : State} (hz : Keeps ps z s) (hs : Sub 0xb303 ps)  :
    Keeps ps z (commitPowerFail s) := by
  have k_ivClose : Sub 0x3202 ps := sub_of hs rfl
  have k_logCommit : Sub 0xa301 ps := sub_of hs rfl
  unfold commitPowerFail
  repeat'
    first
    | with_reducible assumption | with_reducible refine ivClose_keeps ?_ k_ivClose _
    | with_reducible refine logCommit_keeps ?_ k_logCommit _ | intro _

theorem commitReset_keeps {ps : Nat} {z s : State} (hz : Keeps ps z s) (hs : Sub 0xa301 ps)  :
    Keeps ps z (commitReset s) := by
  have k_logCommit : Sub 0xa301 ps := sub_of hs rfl
  have k_modNv : Sub 0x2000 ps := sub_of hs rfl
  unfold commitReset
  repeat'
    first
    | extract_lets | with_reducible assumption | with_reducible refine logCommit_keeps ?_ k_logCommit _
    | with_reducible refine modNv_keeps ?_ k_modNv _ ?_ | exact oneWay_same rfl rfl rfl rfl rfl rfl rfl rfl
    | intro _ | dsimp +zetaDelta only

end Sys2Proof.Laws
end

