-- ==== Sys2Proof/Laws/KeepsResets.lean ====
section
/-!
SUPPORT. Sys2Proof/Laws/KeepsResets.lean: the operations of Sys2Proof/Machine/Resets.lean keep what Laws/Keeps.lean says.
-/
namespace Sys2Proof.Laws
open Sys2Proof.Machine

theorem contextFault_keeps {ps : Nat} {z s : State} (hz : Keeps ps z s) (hs : Sub 0xe6fffa281 ps) (c : Nat) (cls :
    Nat) (cause : Nat) (unit : Nat) (idx : Nat) : Keeps ps z (contextFault c cls cause unit idx s) := by
  have k_removeCtxWork : Sub 0xe6fff8001 ps := sub_of hs rfl
  have k_modCtx : Sub 0x10000 ps := sub_of hs rfl
  have k_fltRecord : Sub 0x2280 ps := sub_of hs rfl
  have k_post : Sub 0x8000 ps := sub_of hs rfl
  unfold contextFault
  repeat'
    first
    | with_reducible refine keeps_ite (fun _ => ?_) (fun _ => ?_) | extract_lets | with_reducible assumption
    | with_reducible refine removeCtxWork_keeps ?_ k_removeCtxWork _
    | with_reducible refine modCtx_keeps ?_ k_modCtx _ _
    | with_reducible refine fltRecord_keeps ?_ k_fltRecord _ _ _ _ _ _ _
    | with_reducible refine post_keeps ?_ k_post _ _ _ _ | intro _ | split | dsimp +zetaDelta only

theorem markLaunch_keeps {ps : Nat} {z s : State} (hz : Keeps ps z s) (hs : Sub 0x200000 ps) (l : Nat) (poison :
    Bool) : Keeps ps z (markLaunch l poison s) := by
  have k_modLaunch : Sub 0x200000 ps := sub_of hs rfl
  unfold markLaunch
  repeat'
    first
    | with_reducible refine keeps_ite (fun _ => ?_) (fun _ => ?_) | with_reducible assumption
    | with_reducible refine modLaunch_keeps ?_ k_modLaunch _ _ | intro _

theorem failTask_keeps {ps : Nat} {z s : State} (hz : Keeps ps z s) (hs : Sub 0xe6fff8001 ps) (l : Nat) (t : Nat)
    (poison : Bool) : Keeps ps z (failTask l t poison s) := by
  have k_markLaunch : Sub 0x200000 ps := sub_of hs rfl
  have k_removeTasks : Sub 0xe6fff8001 ps := sub_of hs rfl
  unfold failTask
  repeat'
    first
    | with_reducible assumption | with_reducible refine markLaunch_keeps ?_ k_markLaunch _ _
    | with_reducible refine removeTasks_keeps ?_ k_removeTasks _ _

theorem execFault_keeps {ps : Nat} {z s : State} (hz : Keeps ps z s) (hs : Sub 0xe6fffa281 ps) (l : Nat) (t : Nat) :
    Keeps ps z (execFault l t s) := by
  have k_failTask : Sub 0xe6fff8001 ps := sub_of hs rfl
  have k_contextFault : Sub 0xe6fffa281 ps := sub_of hs rfl
  unfold execFault
  repeat'
    first
    | extract_lets | with_reducible assumption | with_reducible refine failTask_keeps ?_ k_failTask _ _ _
    | with_reducible refine contextFault_keeps ?_ k_contextFault _ _ _ _ _ | intro _ | split | dsimp +zetaDelta only

theorem failTasks_keeps {ps : Nat} {z s : State} (hz : Keeps ps z s) (hs : Sub 0xe6fff8001 ps) (ts : List (Nat ×
    Nat)) (poison : Bool) : Keeps ps z (failTasks ts poison s) := by
  have k_failTask : Sub 0xe6fff8001 ps := sub_of hs rfl
  unfold failTasks
  repeat'
    first
    | with_reducible refine keeps_foldl ?_ ?_ | with_reducible assumption
    | with_reducible refine failTask_keeps ?_ k_failTask _ _ _ | intro _

theorem retireCluster_keeps {ps : Nat} {z s : State} (hz : Keeps ps z s) (hs : Sub 0xe6fffa601 ps) (c : Nat) (cause
    : Nat) (slack : Nat) : Keeps ps z (retireCluster c cause slack s) := by
  have k_failTasks : Sub 0xe6fff8001 ps := sub_of hs rfl
  have k_logWrite : Sub 0x2200 ps := sub_of hs rfl
  have k_post : Sub 0x8000 ps := sub_of hs rfl
  have k_modHbm : Sub 0x400000 ps := sub_of hs rfl
  have k_modNv : Sub 0x2000 ps := sub_of hs rfl
  have k_modOwl : Sub 0x400 ps := sub_of hs rfl
  have k_mems : Sub 0x20000 ps := sub_of hs rfl
  unfold retireCluster
  repeat'
    first
    | with_reducible refine keeps_ite (fun _ => ?_) (fun _ => ?_) | extract_lets | with_reducible assumption
    | with_reducible refine failTasks_keeps ?_ k_failTasks _ _
    | with_reducible refine logWrite_keeps ?_ k_logWrite _ _ _ | with_reducible refine post_keeps ?_ k_post _ _ _ _
    | with_reducible refine modHbm_keeps ?_ k_modHbm _ | with_reducible refine modNv_keeps ?_ k_modNv _ ?_
    | with_reducible refine modOwl_keeps ?_ k_modOwl _ | exact oneWay_retire _ _
    | exact oneWay_same rfl rfl rfl rfl rfl rfl rfl rfl
    | fail_if_no_progress with_reducible refine keeps_set_mems ?_ k_mems _ | intro _ | split | dsimp +zetaDelta only

theorem unitWorkFails_keeps {ps : Nat} {z s : State} (hz : Keeps ps z s) (hs : Sub 0xe6fff8001 ps) (u : Nat) :
    Keeps ps z (unitWorkFails u s) := by
  have k_failTasks : Sub 0xe6fff8001 ps := sub_of hs rfl
  have k_settle : Sub 0x86ffe8001 ps := sub_of hs rfl
  have k_opsFail : Sub 0x845fa8001 ps := sub_of hs rfl
  unfold unitWorkFails
  repeat'
    first
    | with_reducible refine keeps_ite (fun _ => ?_) (fun _ => ?_) | extract_lets | with_reducible assumption
    | with_reducible refine failTasks_keeps ?_ k_failTasks _ _ | with_reducible refine settle_keeps ?_ k_settle _
    | with_reducible refine opsFail_keeps ?_ k_opsFail _ _
    | refine opsFail_keeps_eq ?_ k_opsFail _ _ (by assumption) | intro _ | dsimp +zetaDelta only

theorem engineReset_keeps {ps : Nat} {z s : State} (hz : Keeps ps z s) (hs : Sub 0xe6fffa281 ps) (u : Nat) (cls :
    Nat) (escalated : Bool) (ctx : Nat) : Keeps ps z (engineReset u cls escalated ctx s) := by
  have k_unitWorkFails : Sub 0xe6fff8001 ps := sub_of hs rfl
  have k_wipeUnit : Sub 0xe00000000 ps := sub_of hs rfl
  have k_fltRecord : Sub 0x2280 ps := sub_of hs rfl
  have k_postAll : Sub 0x8000 ps := sub_of hs rfl
  have k_modFlt : Sub 0x80 ps := sub_of hs rfl
  unfold engineReset
  repeat'
    first
    | with_reducible refine keeps_ite (fun _ => ?_) (fun _ => ?_) | extract_lets | with_reducible assumption
    | with_reducible refine unitWorkFails_keeps ?_ k_unitWorkFails _
    | with_reducible refine wipeUnit_keeps ?_ k_wipeUnit _ _
    | with_reducible refine fltRecord_keeps ?_ k_fltRecord _ _ _ _ _ _ _
    | with_reducible refine postAll_keeps ?_ k_postAll _ _ _ _ | with_reducible refine modFlt_keeps ?_ k_modFlt _
    | intro _ | dsimp +zetaDelta only

theorem addPoison_keeps {ps : Nat} {z s : State} (hz : Keeps ps z s) (hs : Sub 0x580000 ps) (lines : List Nat)
    (stack : Nat) : Keeps ps z (addPoison lines stack s) := by
  have k_modHbm : Sub 0x400000 ps := sub_of hs rfl
  have k_poison : Sub 0x100000 ps := sub_of hs rfl
  have k_mem : Sub 0x80000 ps := sub_of hs rfl
  unfold addPoison
  repeat'
    first
    | with_reducible refine keeps_foldl ?_ ?_ | with_reducible refine keeps_ite (fun _ => ?_) (fun _ => ?_)
    | extract_lets | with_reducible assumption | with_reducible refine modHbm_keeps ?_ k_modHbm _
    | with_reducible exact cellsDrop_wf _ _ _ | with_reducible exact nil_wf _
    | with_reducible exact fold_cellPut_wf _ _
    | fail_if_no_progress with_reducible refine keeps_set_poison ?_ k_poison _ | intro _
    | with_reducible refine keeps_set_mem ?_ k_mem ?_ | dsimp +zetaDelta only

theorem partStacks_keeps {ps : Nat} {z s : State} (hz : Keeps ps z s) (hs : Sub 0x400000 ps) (p : Nat) (st : Nat) :
    Keeps ps z (partStacks p st s) := by
  have k_modStack : Sub 0x400000 ps := sub_of hs rfl
  unfold partStacks
  repeat'
    first
    | with_reducible assumption | with_reducible refine modStack_keeps ?_ k_modStack _ _ | intro _

theorem losePartData_keeps {ps : Nat} {z s : State} (hz : Keeps ps z s) (hs : Sub 0x5a8000 ps) (p : Nat) :
    Keeps ps z (losePartData p s) := by
  have k_addPoison : Sub 0x580000 ps := sub_of hs rfl
  have k_post : Sub 0x8000 ps := sub_of hs rfl
  have k_modHbm : Sub 0x400000 ps := sub_of hs rfl
  have k_mems : Sub 0x20000 ps := sub_of hs rfl
  unfold losePartData
  repeat'
    first
    | with_reducible refine keeps_foldl ?_ ?_ | with_reducible refine keeps_ite (fun _ => ?_) (fun _ => ?_)
    | extract_lets | with_reducible assumption | with_reducible refine addPoison_keeps ?_ k_addPoison _ _
    | with_reducible refine post_keeps ?_ k_post _ _ _ _ | with_reducible refine modHbm_keeps ?_ k_modHbm _
    | fail_if_no_progress with_reducible refine keeps_set_mems ?_ k_mems _ | intro _ | split | dsimp +zetaDelta only

theorem loseEvents_keeps {ps : Nat} {z s : State} (hz : Keeps ps z s) (hs : Sub 0x86ffe8001 ps) (p : Nat) :
    Keeps ps z (loseEvents p s) := by
  have k_updateEvents : Sub 0x86ffe8001 ps := sub_of hs rfl
  unfold loseEvents
  repeat'
    first
    | extract_lets | with_reducible assumption | with_reducible refine updateEvents_keeps ?_ k_updateEvents _
    | intro _ | split | dsimp +zetaDelta only

theorem faultHomed_keeps {ps : Nat} {z s : State} (hz : Keeps ps z s) (hs : Sub 0xe6fff8001 ps) (p : Nat) :
    Keeps ps z (faultHomed p s) := by
  have k_removeCtxWork : Sub 0xe6fff8001 ps := sub_of hs rfl
  have k_modCtx : Sub 0x10000 ps := sub_of hs rfl
  have k_post : Sub 0x8000 ps := sub_of hs rfl
  unfold faultHomed
  repeat'
    first
    | with_reducible refine keeps_foldl ?_ ?_ | extract_lets | with_reducible assumption
    | with_reducible refine removeCtxWork_keeps ?_ k_removeCtxWork _
    | with_reducible refine modCtx_keeps ?_ k_modCtx _ _ | with_reducible refine post_keeps ?_ k_post _ _ _ _
    | intro _ | dsimp +zetaDelta only

theorem partOps_keeps {ps : Nat} {z s : State} (hz : Keeps ps z s) (hs : Sub 0x86ffe8001 ps) (p : Nat) :
    Keeps ps z (partOps p s) := by
  have k_settle : Sub 0x86ffe8001 ps := sub_of hs rfl
  have k_opsFail : Sub 0x845fa8001 ps := sub_of hs rfl
  unfold partOps
  repeat'
    first
    | extract_lets | with_reducible assumption | with_reducible refine settle_keeps ?_ k_settle _
    | with_reducible refine opsFail_keeps ?_ k_opsFail _ _
    | refine opsFail_keeps_eq ?_ k_opsFail _ _ (by assumption) | intro _ | dsimp +zetaDelta only

theorem partitionReset_keeps {ps : Nat} {z s : State} (hz : Keeps ps z s) (hs : Sub 0xe6fffa281 ps) (p : Nat) (cls :
    Nat) (escalated : Bool) (unit : Nat) (ctx : Nat) :
    Keeps ps z (partitionReset p cls escalated unit ctx s) := by
  have k_partOps : Sub 0x86ffe8001 ps := sub_of hs rfl
  have k_faultHomed : Sub 0xe6fff8001 ps := sub_of hs rfl
  have k_loseEvents : Sub 0x86ffe8001 ps := sub_of hs rfl
  have k_losePartData : Sub 0x5a8000 ps := sub_of hs rfl
  have k_partStacks : Sub 0x400000 ps := sub_of hs rfl
  have k_failTasks : Sub 0xe6fff8001 ps := sub_of hs rfl
  have k_ckpPartition : Sub 0x86ffe8001 ps := sub_of hs rfl
  have k_landLoss : Sub 0x20408000 ps := sub_of hs rfl
  have k_partPortsDown : Sub 0x5008000 ps := sub_of hs rfl
  have k_wipePartition : Sub 0xe00000000 ps := sub_of hs rfl
  have k_fltRecord : Sub 0x2280 ps := sub_of hs rfl
  have k_modFlt : Sub 0x80 ps := sub_of hs rfl
  unfold partitionReset
  repeat'
    first
    | with_reducible refine keeps_foldl ?_ ?_ | with_reducible refine keeps_ite (fun _ => ?_) (fun _ => ?_)
    | extract_lets | with_reducible assumption | with_reducible refine partOps_keeps ?_ k_partOps _
    | with_reducible refine faultHomed_keeps ?_ k_faultHomed _
    | with_reducible refine loseEvents_keeps ?_ k_loseEvents _
    | with_reducible refine losePartData_keeps ?_ k_losePartData _
    | with_reducible refine partStacks_keeps ?_ k_partStacks _ _
    | with_reducible refine failTasks_keeps ?_ k_failTasks _ _
    | with_reducible refine ckpPartition_keeps ?_ k_ckpPartition _
    | with_reducible refine landLoss_keeps ?_ k_landLoss _
    | with_reducible refine partPortsDown_keeps ?_ k_partPortsDown _
    | with_reducible refine wipePartition_keeps ?_ k_wipePartition _
    | with_reducible refine fltRecord_keeps ?_ k_fltRecord _ _ _ _ _ _ _
    | with_reducible refine modFlt_keeps ?_ k_modFlt _ | intro _ | dsimp +zetaDelta only

/-- Everything but what the three relations speak of may change. -/
theorem only_all {ps : Nat} (s t : State) (hs : Sub 0xfffffffff ps) : Only ps s t :=
  ⟨sub_free hs rfl, sub_free hs rfl, sub_free hs rfl, sub_free hs rfl, sub_free hs rfl, sub_free hs rfl, sub_free hs rfl,
   sub_free hs rfl, sub_free hs rfl, sub_free hs rfl, sub_free hs rfl, sub_free hs rfl, sub_free hs rfl, sub_free hs rfl,
   sub_free hs rfl, sub_free hs rfl, sub_free hs rfl, sub_free hs rfl, sub_free hs rfl, sub_free hs rfl, sub_free hs rfl,
   sub_free hs rfl, sub_free hs rfl, sub_free hs rfl, sub_free hs rfl, sub_free hs rfl, sub_free hs rfl, sub_free hs rfl,
   sub_free hs rfl, sub_free hs rfl, sub_free hs rfl, sub_free hs rfl, sub_free hs rfl, sub_free hs rfl, sub_free hs rfl,
   sub_free hs rfl⟩

theorem resetState_keeps {ps : Nat} {z s : State} (hz : Keeps ps z s) (hs : Sub 0xfffffffff ps) (cls : Nat)
    (cold link : Bool) : Keeps ps z (resetState cls cold link s) :=
  keeps_trans hz ⟨fun _ => rfl, rfl, oneWay_refl _, only_all _ _ hs⟩

theorem endSession_keeps {ps : Nat} {z s : State} (hz : Keeps ps z s) (hs : Sub 0x81800000 ps)  :
    Keeps ps z (endSession s) := by
  have k_weightChain : Sub 0x80000000 ps := sub_of hs rfl
  have k_modSec : Sub 0x80000000 ps := sub_of hs rfl
  have k_modLnk : Sub 0x1000000 ps := sub_of hs rfl
  have k_modIme : Sub 0x800000 ps := sub_of hs rfl
  unfold endSession
  repeat'
    first
    | with_reducible refine keeps_ite (fun _ => ?_) (fun _ => ?_) | extract_lets | with_reducible assumption
    | with_reducible refine weightChain_keeps ?_ k_weightChain _ | with_reducible refine modSec_keeps ?_ k_modSec _
    | with_reducible refine modLnk_keeps ?_ k_modLnk _ | with_reducible refine modIme_keeps ?_ k_modIme _ | intro _
    | dsimp +zetaDelta only

theorem haltDevice_keeps {ps : Nat} {z s : State} (hz : Keeps ps z s) (hs : Sub 0x81808181 ps) (cause : Nat) (detail
    : Nat) : Keeps ps z (haltDevice cause detail s) := by
  have k_endSession : Sub 0x81800000 ps := sub_of hs rfl
  have k_alertConds : Sub 0x101 ps := sub_of hs rfl
  have k_postAll : Sub 0x8000 ps := sub_of hs rfl
  have k_modFlt : Sub 0x80 ps := sub_of hs rfl
  unfold haltDevice
  repeat'
    first
    | with_reducible refine keeps_ite (fun _ => ?_) (fun _ => ?_) | extract_lets | with_reducible assumption
    | with_reducible refine endSession_keeps ?_ k_endSession
    | with_reducible refine alertConds_keeps ?_ k_alertConds
    | with_reducible refine postAll_keeps ?_ k_postAll _ _ _ _ | with_reducible refine modFlt_keeps ?_ k_modFlt _
    | intro _ | dsimp +zetaDelta only

theorem chipResetNow_keeps {ps : Nat} {z s : State} (hz : Keeps ps z s) (hs : Sub 0xfffffffff ps) (cls : Nat) (cold
    : Bool) (link : Bool) : Keeps ps z (chipResetNow cls cold link s) := by
  have k_resetState : Sub 0xfffffffff ps := sub_of hs rfl
  have k_commitReset : Sub 0xa301 ps := sub_of hs rfl
  have k_alertConds : Sub 0x101 ps := sub_of hs rfl
  have k_modFlt : Sub 0x80 ps := sub_of hs rfl
  unfold chipResetNow
  repeat'
    first
    | with_reducible refine keeps_ite (fun _ => ?_) (fun _ => ?_) | extract_lets | with_reducible assumption
    | with_reducible refine resetState_keeps ?_ k_resetState _ _ _
    | with_reducible refine commitReset_keeps ?_ k_commitReset
    | with_reducible refine alertConds_keeps ?_ k_alertConds | with_reducible refine modFlt_keeps ?_ k_modFlt _
    | intro _ | dsimp +zetaDelta only

theorem chipReset_keeps {ps : Nat} {z s : State} (hz : Keeps ps z s) (hs : Sub 0xfffffffff ps) (cls : Nat) (cold :
    Bool) (link : Bool) (escalated : Bool) (unit : Nat) (ctx : Nat) :
    Keeps ps z (chipReset cls cold link escalated unit ctx s) := by
  have k_chipResetNow : Sub 0xfffffffff ps := sub_of hs rfl
  have k_haltDevice : Sub 0x81808181 ps := sub_of hs rfl
  have k_fltRecord : Sub 0x2280 ps := sub_of hs rfl
  unfold chipReset
  repeat'
    first
    | with_reducible refine keeps_ite (fun _ => ?_) (fun _ => ?_) | with_reducible assumption
    | with_reducible refine chipResetNow_keeps ?_ k_chipResetNow _ _ _
    | with_reducible refine haltDevice_keeps ?_ k_haltDevice _ _
    | with_reducible refine fltRecord_keeps ?_ k_fltRecord _ _ _ _ _ _ _ | intro _

theorem partitionFault_keeps {ps : Nat} {z s : State} (hz : Keeps ps z s) (hs : Sub 0xfffffffff ps) (p : Nat) (cls :
    Nat) (escalated : Bool) (unit : Nat) (ctx : Nat) :
    Keeps ps z (partitionFault p cls escalated unit ctx s) := by
  have k_chipReset : Sub 0xfffffffff ps := sub_of hs rfl
  have k_partitionReset : Sub 0xe6fffa281 ps := sub_of hs rfl
  unfold partitionFault
  repeat'
    first
    | with_reducible refine keeps_ite (fun _ => ?_) (fun _ => ?_) | with_reducible assumption
    | with_reducible refine chipReset_keeps ?_ k_chipReset _ _ _ _ _ _
    | with_reducible refine partitionReset_keeps ?_ k_partitionReset _ _ _ _ _ | intro _

theorem unitFault_keeps {ps : Nat} {z s : State} (hz : Keeps ps z s) (hs : Sub 0xfffffffff ps) (u : Nat) (cls : Nat)
    (escalated : Bool) (ctx : Nat) : Keeps ps z (unitFault u cls escalated ctx s) := by
  have k_partitionFault : Sub 0xfffffffff ps := sub_of hs rfl
  have k_engineReset : Sub 0xe6fffa281 ps := sub_of hs rfl
  unfold unitFault
  repeat'
    first
    | with_reducible refine keeps_ite (fun _ => ?_) (fun _ => ?_) | with_reducible assumption
    | with_reducible refine partitionFault_keeps ?_ k_partitionFault _ _ _ _ _
    | with_reducible refine engineReset_keeps ?_ k_engineReset _ _ _ _ | intro _

end Sys2Proof.Laws
end

