-- ==== Sys2Proof/Laws/KeepsAccess.lean ====
section
/-!
SUPPORT. Sys2Proof/Laws/KeepsAccess.lean: the operations of Sys2Proof/Machine/Access.lean keep what Laws/Keeps.lean says.
-/
namespace Sys2Proof.Laws
open Sys2Proof.Machine

theorem tookDraws_keeps {ps : Nat} {z s : State} (hz : Keeps ps z s) (hs : Sub 0x2 ps) (x : Launch) (n : Nat) :
    Keeps ps z (tookDraws x n s) := by
  have k_draws : Sub 0x2 ps := sub_of hs rfl
  unfold tookDraws
  repeat'
    first
    | with_reducible refine keeps_ite (fun _ => ?_) (fun _ => ?_) | with_reducible assumption
    | fail_if_no_progress with_reducible refine keeps_set_draws ?_ k_draws _ | intro _

theorem taskEnds_keeps {ps : Nat} {z s : State} (hz : Keeps ps z s) (hs : Sub 0xe6fff8001 ps) (l : Nat) (t : Nat)
    (overrun : Bool) : Keeps ps z (taskEnds l t overrun s) := by
  have k_settle : Sub 0x86ffe8001 ps := sub_of hs rfl
  have k_modLaunch : Sub 0x200000 ps := sub_of hs rfl
  have k_clearCores : Sub 0xe00210000 ps := sub_of hs rfl
  unfold taskEnds
  repeat'
    first
    | with_reducible refine keeps_ite (fun _ => ?_) (fun _ => ?_) | extract_lets | with_reducible assumption
    | with_reducible refine settle_keeps ?_ k_settle _ | with_reducible refine modLaunch_keeps ?_ k_modLaunch _ _
    | with_reducible refine clearCores_keeps ?_ k_clearCores _ | intro _ | split | dsimp +zetaDelta only

end Sys2Proof.Laws
end

