-- ==== Sys2Proof/Laws/KeepsMatrix.lean ====
section
/-!
SUPPORT. Sys2Proof/Laws/KeepsMatrix.lean: the operations of Sys2Proof/Machine/Matrix.lean keep what Laws/Keeps.lean says.
-/
namespace Sys2Proof.Laws
open Sys2Proof.Machine

theorem modSlot_keeps {ps : Nat} {z s : State} (hz : Keeps ps z s) (hs : Sub 0x200000000 ps) (c : Nat) (staged :
    Bool) (f : MatTask → MatTask) : Keeps ps z (modSlot c staged f s) := by
  have k_modEng : Sub 0x200000000 ps := sub_of hs rfl
  unfold modSlot
  repeat'
    first
    | with_reducible refine keeps_ite (fun _ => ?_) (fun _ => ?_) | with_reducible assumption
    | with_reducible refine modEng_keeps ?_ k_modEng _ _ | intro _

theorem execMatrixOpStart_keeps {ps : Nat} {z s : State} (hz : Keeps ps z s) (hs : Sub 0xe6fffa281 ps) (c : Nat)
    (staged : Bool) : ∀ z', execMatrixOpStart c staged s = .next z' → Keeps ps z z' := by
  have k_modSlot : Sub 0x200000000 ps := sub_of hs rfl
  have k_execFault : Sub 0xe6fffa281 ps := sub_of hs rfl
  intro z' e'
  unfold execMatrixOpStart at e'
  cases e'
  repeat'
    first
    | with_reducible refine keeps_ite (fun _ => ?_) (fun _ => ?_) | extract_lets | with_reducible assumption
    | with_reducible refine modSlot_keeps ?_ k_modSlot _ _ _
    | with_reducible refine execFault_keeps ?_ k_execFault _ _ | intro _ | split | dsimp +zetaDelta only

theorem countCycles_keeps {ps : Nat} {z s : State} (hz : Keeps ps z s) (hs : Sub 0x200000000 ps) (c : Nat) (cy :
    Cycles) : Keeps ps z (countCycles c cy s) := by
  have k_modEng : Sub 0x200000000 ps := sub_of hs rfl
  unfold countCycles
  repeat'
    first
    | with_reducible assumption | with_reducible refine modEng_keeps ?_ k_modEng _ _ | intro _

theorem issue_keeps {ps : Nat} {z s : State} (hz : Keeps ps z s) (hs : Sub 0x200000000 ps) (c : Nat) :
    Keeps ps z (issue c s) := by
  have k_modEng : Sub 0x200000000 ps := sub_of hs rfl
  unfold issue
  repeat'
    first
    | with_reducible refine keeps_ite (fun _ => ?_) (fun _ => ?_) | with_reducible assumption
    | with_reducible refine modEng_keeps ?_ k_modEng _ _ | intro _

theorem touchReads_keeps {ps : Nat} {z s : State} (hz : Keeps ps z s) (hs : Sub 0xc28000 ps) (rs : List (Nat × Nat ×
    Nat)) : Keeps ps z (touchReads rs s) := by
  have k_touch : Sub 0xc28000 ps := sub_of hs rfl
  unfold touchReads
  repeat'
    first
    | with_reducible refine keeps_foldl ?_ ?_ | with_reducible assumption
    | with_reducible refine touch_keeps ?_ k_touch _ _ _ _ | intro _

theorem execChunkLoadComplete_keeps {ps : Nat} {z s : State} (hz : Keeps ps z s) (hs : Sub 0x200c28000 ps) (c : Nat)
    (staged : Bool) (sub : Nat) (cy : Cycles) :
    ∀ z', execChunkLoadComplete c staged sub cy s = .next z' → Keeps ps z z' := by
  have k_touchReads : Sub 0xc28000 ps := sub_of hs rfl
  have k_issue : Sub 0x200000000 ps := sub_of hs rfl
  have k_countCycles : Sub 0x200000000 ps := sub_of hs rfl
  have k_modSlot : Sub 0x200000000 ps := sub_of hs rfl
  intro z' e'
  unfold execChunkLoadComplete at e'
  cases e'
  repeat'
    first
    | with_reducible refine keeps_ite (fun _ => ?_) (fun _ => ?_) | extract_lets | with_reducible assumption
    | with_reducible refine touchReads_keeps ?_ k_touchReads _ | with_reducible refine issue_keeps ?_ k_issue _
    | with_reducible refine countCycles_keeps ?_ k_countCycles _ _
    | with_reducible refine modSlot_keeps ?_ k_modSlot _ _ _ | intro _ | split | dsimp +zetaDelta only

theorem execMatrixPoisonedLoad_keeps {ps : Nat} {z s : State} (hz : Keeps ps z s) (hs : Sub 0xe6fff8001 ps) (c :
    Nat) (staged : Bool) (sub : Nat) :
    ∀ z', execMatrixPoisonedLoad c staged sub s = .next z' → Keeps ps z z' := by
  have k_failTask : Sub 0xe6fff8001 ps := sub_of hs rfl
  intro z' e'
  unfold execMatrixPoisonedLoad at e'
  cases e'
  repeat'
    first
    | with_reducible refine keeps_ite (fun _ => ?_) (fun _ => ?_) | with_reducible assumption
    | with_reducible refine failTask_keeps ?_ k_failTask _ _ _ | intro _ | split

theorem execBlockBankComplete_keeps {ps : Nat} {z s : State} (hz : Keeps ps z s) (hs : Sub 0x200000000 ps) (c : Nat)
    (sub : Nat) (cy : Cycles) : ∀ z', execBlockBankComplete c sub cy s = .next z' → Keeps ps z z' := by
  have k_issue : Sub 0x200000000 ps := sub_of hs rfl
  have k_countCycles : Sub 0x200000000 ps := sub_of hs rfl
  have k_modSlot : Sub 0x200000000 ps := sub_of hs rfl
  intro z' e'
  unfold execBlockBankComplete at e'
  cases e'
  repeat'
    first
    | with_reducible refine keeps_ite (fun _ => ?_) (fun _ => ?_) | extract_lets | with_reducible assumption
    | with_reducible refine issue_keeps ?_ k_issue _ | with_reducible refine countCycles_keeps ?_ k_countCycles _ _
    | with_reducible refine modSlot_keeps ?_ k_modSlot _ _ _ | intro _ | split | dsimp +zetaDelta only

theorem execBankFree_keeps {ps : Nat} {z s : State} (hz : Keeps ps z s) (hs : Sub 0xe6fffa283 ps) (c : Nat) (cy :
    Cycles) : ∀ z', execBankFree c cy s = .next z' → Keeps ps z z' := by
  have k_countCycles : Sub 0x200000000 ps := sub_of hs rfl
  have k_modSlot : Sub 0x200000000 ps := sub_of hs rfl
  have k_tookDraws : Sub 0x2 ps := sub_of hs rfl
  have k_execFault : Sub 0xe6fffa281 ps := sub_of hs rfl
  have k_failTask : Sub 0xe6fff8001 ps := sub_of hs rfl
  have k_storeMem : Sub 0x840fa8000 ps := sub_of hs rfl
  intro z' e'
  unfold execBankFree at e'
  cases e'
  repeat'
    first
    | with_reducible refine keeps_foldl ?_ ?_ | with_reducible refine keeps_ite (fun _ => ?_) (fun _ => ?_)
    | extract_lets | with_reducible assumption | with_reducible refine countCycles_keeps ?_ k_countCycles _ _
    | with_reducible refine modSlot_keeps ?_ k_modSlot _ _ _
    | with_reducible refine tookDraws_keeps ?_ k_tookDraws _ _
    | with_reducible refine execFault_keeps ?_ k_execFault _ _
    | with_reducible refine failTask_keeps ?_ k_failTask _ _ _
    | with_reducible refine storeMem_keeps ?_ k_storeMem _ _ _ _ | intro _ | split | dsimp +zetaDelta only

theorem execMatrixTaskEnd_keeps {ps : Nat} {z s : State} (hz : Keeps ps z s) (hs : Sub 0xe6fff8001 ps) (c : Nat)
    (overrun : Bool) : ∀ z', execMatrixTaskEnd c overrun s = .next z' → Keeps ps z z' := by
  have k_taskEnds : Sub 0xe6fff8001 ps := sub_of hs rfl
  intro z' e'
  unfold execMatrixTaskEnd at e'
  cases e'
  repeat'
    first
    | with_reducible refine keeps_ite (fun _ => ?_) (fun _ => ?_) | with_reducible assumption
    | with_reducible refine taskEnds_keeps ?_ k_taskEnds _ _ _ | intro _ | split

theorem execMatrixUncorrectableError_keeps {ps : Nat} {z s : State} (hz : Keeps ps z s) (hs : Sub 0xfffffffff ps) (c
    : Nat) : ∀ z', execMatrixUncorrectableError c s = .next z' → Keeps ps z z' := by
  have k_unitFault : Sub 0xfffffffff ps := sub_of hs rfl
  have k_modEng : Sub 0x200000000 ps := sub_of hs rfl
  intro z' e'
  unfold execMatrixUncorrectableError at e'
  cases e'
  repeat'
    first
    | with_reducible refine keeps_ite (fun _ => ?_) (fun _ => ?_) | with_reducible assumption
    | with_reducible refine unitFault_keeps ?_ k_unitFault _ _ _ _
    | with_reducible refine modEng_keeps ?_ k_modEng _ _ | intro _

theorem execCorrectedError_keeps {ps : Nat} {z s : State} (hz : Keeps ps z s) (hs : Sub 0x600400000 ps) (site :
    ErrSite) : ∀ z', execCorrectedError site s = .next z' → Keeps ps z z' := by
  have k_modVclu : Sub 0x400000000 ps := sub_of hs rfl
  have k_modEng : Sub 0x200000000 ps := sub_of hs rfl
  have k_modClu : Sub 0x400000 ps := sub_of hs rfl
  intro z' e'
  unfold execCorrectedError at e'
  cases e'
  repeat'
    first
    | with_reducible refine keeps_ite (fun _ => ?_) (fun _ => ?_) | with_reducible assumption
    | with_reducible refine modVclu_keeps ?_ k_modVclu _ _ | with_reducible refine modEng_keeps ?_ k_modEng _ _
    | with_reducible refine modClu_keeps ?_ k_modClu _ _ | intro _ | split

theorem execGapBegin_keeps {ps : Nat} {z s : State} (hz : Keeps ps z s) (hs : Sub 0x200000000 ps) (c : Nat) :
    ∀ z', execGapBegin c s = .next z' → Keeps ps z z' := by
  have k_modEng : Sub 0x200000000 ps := sub_of hs rfl
  intro z' e'
  unfold execGapBegin at e'
  cases e'
  repeat'
    first
    | with_reducible refine keeps_ite (fun _ => ?_) (fun _ => ?_) | with_reducible assumption
    | with_reducible refine modEng_keeps ?_ k_modEng _ _ | intro _

theorem execGapWindowExpire_keeps {ps : Nat} {z s : State} (hz : Keeps ps z s) (hs : Sub 0x200000000 ps) (c : Nat)
    (dummy : Nat) : ∀ z', execGapWindowExpire c dummy s = .next z' → Keeps ps z z' := by
  have k_modEng : Sub 0x200000000 ps := sub_of hs rfl
  intro z' e'
  unfold execGapWindowExpire at e'
  cases e'
  repeat'
    first
    | with_reducible refine keeps_ite (fun _ => ?_) (fun _ => ?_) | with_reducible assumption
    | with_reducible refine modEng_keeps ?_ k_modEng _ _ | intro _

theorem execRampWindowGrant_keeps {ps : Nat} {z s : State} (hz : Keeps ps z s) (hs : Sub 0x200000000 ps) (p : Nat) :
    ∀ z', execRampWindowGrant p s = .next z' → Keeps ps z z' := by
  have k_modEng : Sub 0x200000000 ps := sub_of hs rfl
  intro z' e'
  unfold execRampWindowGrant at e'
  cases e'
  repeat'
    first
    | with_reducible refine keeps_foldl ?_ ?_ | with_reducible refine keeps_ite (fun _ => ?_) (fun _ => ?_)
    | extract_lets | with_reducible assumption | with_reducible refine modEng_keeps ?_ k_modEng _ _ | intro _
    | dsimp +zetaDelta only

theorem execRampUpComplete_keeps {ps : Nat} {z s : State} (hz : Keeps ps z s) (hs : Sub 0x200000000 ps) (c : Nat) :
    ∀ z', execRampUpComplete c s = .next z' → Keeps ps z z' := by
  have k_modEng : Sub 0x200000000 ps := sub_of hs rfl
  intro z' e'
  unfold execRampUpComplete at e'
  cases e'
  repeat'
    first
    | with_reducible refine keeps_ite (fun _ => ?_) (fun _ => ?_) | with_reducible assumption
    | with_reducible refine modEng_keeps ?_ k_modEng _ _ | intro _

theorem execRampDownComplete_keeps {ps : Nat} {z s : State} (hz : Keeps ps z s) (hs : Sub 0x200000000 ps) (c : Nat)
    : ∀ z', execRampDownComplete c s = .next z' → Keeps ps z z' := by
  have k_modEng : Sub 0x200000000 ps := sub_of hs rfl
  intro z' e'
  unfold execRampDownComplete at e'
  cases e'
  repeat'
    first
    | with_reducible refine keeps_ite (fun _ => ?_) (fun _ => ?_) | with_reducible assumption
    | with_reducible refine modEng_keeps ?_ k_modEng _ _ | intro _

end Sys2Proof.Laws
end

