-- ==== Sys2Proof/Laws/KeepsDcache.lean ====
section
/-!
SUPPORT. Sys2Proof/Laws/KeepsDcache.lean: the operations of Sys2Proof/Machine/Dcache.lean keep what Laws/Keeps.lean says.
-/
namespace Sys2Proof.Laws
open Sys2Proof.Machine

theorem writeBack_keeps {ps : Nat} {z s : State} (hz : Keeps ps z s) (hs : Sub 0x840fa8000 ps) (p : Nat → Nat × Nat
    → Bool) (d : DLine) : Keeps ps z (writeBack p d s) := by
  have k_storeMem : Sub 0x840fa8000 ps := sub_of hs rfl
  unfold writeBack
  repeat'
    first
    | with_reducible refine keeps_foldl ?_ ?_ | with_reducible refine keeps_ite (fun _ => ?_) (fun _ => ?_)
    | with_reducible assumption | with_reducible refine storeMem_keeps ?_ k_storeMem _ _ _ _ | intro _

theorem cleanLines_keeps {ps : Nat} {z s : State} (hz : Keeps ps z s) (hs : Sub 0xc40fa8000 ps) (k : Nat) (p : DLine
    → Nat → Nat × Nat → Bool) : Keeps ps z (cleanLines k p s) := by
  have k_writeBack : Sub 0x840fa8000 ps := sub_of hs rfl
  have k_modVCore : Sub 0x400000000 ps := sub_of hs rfl
  unfold cleanLines
  repeat'
    first
    | with_reducible refine keeps_foldl ?_ ?_ | extract_lets | with_reducible assumption
    | with_reducible refine writeBack_keeps ?_ k_writeBack _ _
    | with_reducible refine modVCore_keeps ?_ k_modVCore _ _ | intro _ | dsimp +zetaDelta only

theorem dropLines_keeps {ps : Nat} {z s : State} (hz : Keeps ps z s) (hs : Sub 0xc40fa8000 ps) (k : Nat) (p : DLine
    → Bool) : Keeps ps z (dropLines k p s) := by
  have k_writeBack : Sub 0x840fa8000 ps := sub_of hs rfl
  have k_modVCore : Sub 0x400000000 ps := sub_of hs rfl
  unfold dropLines
  repeat'
    first
    | with_reducible refine keeps_foldl ?_ ?_ | with_reducible refine keeps_ite (fun _ => ?_) (fun _ => ?_)
    | extract_lets | with_reducible assumption | with_reducible refine writeBack_keeps ?_ k_writeBack _ _
    | with_reducible refine modVCore_keeps ?_ k_modVCore _ _ | intro _ | dsimp +zetaDelta only

theorem putLine_keeps {ps : Nat} {z s : State} (hz : Keeps ps z s) (hs : Sub 0xc40fa8000 ps) (k : Nat) (d : DLine) :
    Keeps ps z (putLine k d s) := by
  have k_writeBack : Sub 0x840fa8000 ps := sub_of hs rfl
  have k_modVCore : Sub 0x400000000 ps := sub_of hs rfl
  unfold putLine
  repeat'
    first
    | with_reducible refine keeps_ite (fun _ => ?_) (fun _ => ?_) | extract_lets | with_reducible assumption
    | with_reducible refine writeBack_keeps ?_ k_writeBack _ _
    | with_reducible refine modVCore_keeps ?_ k_modVCore _ _ | intro _ | split | dsimp +zetaDelta only

theorem useLine_keeps {ps : Nat} {z s : State} (hz : Keeps ps z s) (hs : Sub 0xc40fa8000 ps) (k : Nat) (slot : Nat)
    (off : Nat) (inst : Nat) (view : Option (Nat × Nat)) : Keeps ps z (useLine k slot off inst view s) := by
  have k_putLine : Sub 0xc40fa8000 ps := sub_of hs rfl
  unfold useLine
  repeat'
    first
    | with_reducible assumption | with_reducible refine putLine_keeps ?_ k_putLine _ _ | split

theorem storeLine_keeps {ps : Nat} {z s : State} (hz : Keeps ps z s) (hs : Sub 0xc40fa8000 ps) (k : Nat) (slot :
    Nat) (off : Nat) (inst : Nat) (l : Nat) (t : Nat) (bs : List Byte) :
    Keeps ps z (storeLine k slot off inst l t bs s) := by
  have k_putLine : Sub 0xc40fa8000 ps := sub_of hs rfl
  unfold storeLine
  repeat'
    first
    | with_reducible refine keeps_foldl ?_ ?_ | extract_lets | with_reducible assumption
    | with_reducible refine putLine_keeps ?_ k_putLine _ _ | intro _ | dsimp +zetaDelta only

theorem fillLine_keeps {ps : Nat} {z s : State} (hz : Keeps ps z s) (hs : Sub 0xc40fa8000 ps) (k : Nat) (slot : Nat)
    (off : Nat) (inst : Nat) (l : Nat) (t : Nat) : Keeps ps z (fillLine k slot off inst l t s) := by
  have k_putLine : Sub 0xc40fa8000 ps := sub_of hs rfl
  have k_touch : Sub 0xc28000 ps := sub_of hs rfl
  unfold fillLine
  repeat'
    first
    | with_reducible refine keeps_foldl ?_ ?_ | with_reducible refine keeps_ite (fun _ => ?_) (fun _ => ?_)
    | extract_lets | with_reducible assumption | with_reducible refine putLine_keeps ?_ k_putLine _ _
    | with_reducible refine touch_keeps ?_ k_touch _ _ _ _ | intro _ | dsimp +zetaDelta only

theorem entryAction_keeps {ps : Nat} {z s : State} (hz : Keeps ps z s) (hs : Sub 0xc40fa8000 ps) (k : Nat) (r :
    TaskRec) (rs : List (Nat × Nat × Nat)) : Keeps ps z (entryAction k r rs s) := by
  have k_dropLines : Sub 0xc40fa8000 ps := sub_of hs rfl
  unfold entryAction
  repeat'
    first
    | with_reducible refine keeps_ite (fun _ => ?_) (fun _ => ?_) | with_reducible assumption
    | with_reducible refine dropLines_keeps ?_ k_dropLines _ _ | intro _

theorem exitAction_keeps {ps : Nat} {z s : State} (hz : Keeps ps z s) (hs : Sub 0xc40fa8000 ps) (k : Nat) (r :
    TaskRec) (rs : List (Nat × Nat × Nat)) : Keeps ps z (exitAction k r rs s) := by
  have k_dropLines : Sub 0xc40fa8000 ps := sub_of hs rfl
  have k_cleanLines : Sub 0xc40fa8000 ps := sub_of hs rfl
  unfold exitAction
  repeat'
    first
    | with_reducible refine keeps_ite (fun _ => ?_) (fun _ => ?_) | with_reducible assumption
    | with_reducible refine dropLines_keeps ?_ k_dropLines _ _
    | with_reducible refine cleanLines_keeps ?_ k_cleanLines _ _ | intro _

end Sys2Proof.Laws
end

