-- ==== Sys2Proof/Laws/KeepsVector.lean ====
section
/-!
SUPPORT. Sys2Proof/Laws/KeepsVector.lean: the operations of Sys2Proof/Machine/Vector.lean keep what Laws/Keeps.lean says.
-/
namespace Sys2Proof.Laws
open Sys2Proof.Machine

theorem modThread_keeps {ps : Nat} {z s : State} (hz : Keeps ps z s) (hs : Sub 0x400000000 ps) (k : Nat) (th : Nat)
    (f : Thread → Thread) : Keeps ps z (modThread k th f s) := by
  have k_modVCore : Sub 0x400000000 ps := sub_of hs rfl
  unfold modThread
  repeat'
    first
    | with_reducible assumption | with_reducible refine modVCore_keeps ?_ k_modVCore _ _ | intro _

theorem vIssue_keeps {ps : Nat} {z s : State} (hz : Keeps ps z s) (hs : Sub 0xe6fffa281 ps) (k : Nat) (th : Nat) (ok
    : Bool) (vs : List Nat) (xs : List Nat) (f : Thread → Launch → State → State) (h_f : ∀ z x0 x1 x2, Keeps ps z x2 →
    Keeps ps z (f x0 x1 x2)) : Keeps ps z (vIssue k th ok vs xs f s) := by
  have k_execFault : Sub 0xe6fffa281 ps := sub_of hs rfl
  unfold vIssue
  repeat'
    first
    | with_reducible refine keeps_ite (fun _ => ?_) (fun _ => ?_) | with_reducible assumption
    | with_reducible refine h_f _ _ _ _ ?_ | with_reducible refine execFault_keeps ?_ k_execFault _ _ | intro _
    | split

theorem countAlu_keeps {ps : Nat} {z s : State} (hz : Keeps ps z s) (hs : Sub 0x400000000 ps) (k : Nat) :
    Keeps ps z (countAlu k s) := by
  have k_modVclu : Sub 0x400000000 ps := sub_of hs rfl
  unfold countAlu
  repeat'
    first
    | with_reducible assumption | with_reducible refine modVclu_keeps ?_ k_modVclu _ _ | intro _

theorem vAlu_keeps {ps : Nat} {z s : State} (hz : Keeps ps z s) (hs : Sub 0xe6fffa281 ps) (k : Nat) (th : Nat) (ok :
    Bool) (vs : List Nat) (xs : List Nat) (f : Thread → Launch → State → State) (h_f : ∀ z x0 x1 x2, Keeps ps z x2 →
    Keeps ps z (f x0 x1 x2)) : Keeps ps z (vAlu k th ok vs xs f s) := by
  have k_countAlu : Sub 0x400000000 ps := sub_of hs rfl
  have k_vIssue : Sub 0xe6fffa281 ps := sub_of hs rfl
  unfold vAlu
  repeat'
    first
    | with_reducible assumption | with_reducible refine h_f _ _ _ _ ?_
    | with_reducible refine countAlu_keeps ?_ k_countAlu _
    | with_reducible refine vIssue_keeps ?_ k_vIssue _ _ _ _ _ _ ?_ | intro _

theorem putLanes_keeps {ps : Nat} {z s : State} (hz : Keeps ps z s) (hs : Sub 0x400000002 ps) (k : Nat) (th : Nat)
    (vd : Nat) (rs : List (Nat × Option Nat × Nat)) : Keeps ps z (putLanes k th vd rs s) := by
  have k_modThread : Sub 0x400000000 ps := sub_of hs rfl
  have k_draws : Sub 0x2 ps := sub_of hs rfl
  unfold putLanes
  repeat'
    first
    | with_reducible refine keeps_foldl ?_ ?_ | with_reducible refine keeps_ite (fun _ => ?_) (fun _ => ?_)
    | extract_lets | with_reducible assumption | with_reducible refine modThread_keeps ?_ k_modThread _ _ _
    | fail_if_no_progress with_reducible refine keeps_set_draws ?_ k_draws _ | intro _ | dsimp +zetaDelta only

theorem execScalarInstruction_keeps {ps : Nat} {z s : State} (hz : Keeps ps z s) (hs : Sub 0xe6fffa283 ps) (core :
    Nat) (th : Nat) (i : SInstr) : ∀ z', execScalarInstruction core th i s = .next z' → Keeps ps z z' := by
  have k_vIssue : Sub 0xe6fffa281 ps := sub_of hs rfl
  have k_modThread : Sub 0x400000000 ps := sub_of hs rfl
  have k_tookFree : Sub 0x2 ps := sub_of hs rfl
  intro z' e'
  unfold execScalarInstruction at e'
  cases e'
  repeat'
    first
    | with_reducible refine keeps_ite (fun _ => ?_) (fun _ => ?_) | extract_lets | with_reducible assumption
    | with_reducible refine vIssue_keeps ?_ k_vIssue _ _ _ _ _ _ ?_
    | with_reducible refine modThread_keeps ?_ k_modThread _ _ _
    | with_reducible refine tookFree_keeps ?_ k_tookFree | intro _ | dsimp +zetaDelta only

theorem execVectorArithmetic_keeps {ps : Nat} {z s : State} (hz : Keeps ps z s) (hs : Sub 0xe6fffa283 ps) (core :
    Nat) (th : Nat) (m : Nat) (i : VInstr) :
    ∀ z', execVectorArithmetic core th m i s = .next z' → Keeps ps z z' := by
  have k_putLanes : Sub 0x400000002 ps := sub_of hs rfl
  have k_vAlu : Sub 0xe6fffa281 ps := sub_of hs rfl
  have k_modThread : Sub 0x400000000 ps := sub_of hs rfl
  intro z' e'
  unfold execVectorArithmetic at e'
  cases e'
  repeat'
    first
    | extract_lets | with_reducible assumption | with_reducible refine putLanes_keeps ?_ k_putLanes _ _ _ _
    | with_reducible refine vAlu_keeps ?_ k_vAlu _ _ _ _ _ _ ?_
    | with_reducible refine modThread_keeps ?_ k_modThread _ _ _ | intro _ | split | dsimp +zetaDelta only

theorem execSpecialFunction_keeps {ps : Nat} {z s : State} (hz : Keeps ps z s) (hs : Sub 0xe6fffa283 ps) (core :
    Nat) (th : Nat) (m : Nat) (f : SpecFn) (vd : Nat) (va : Nat) :
    ∀ z', execSpecialFunction core th m f vd va s = .next z' → Keeps ps z z' := by
  have k_putLanes : Sub 0x400000002 ps := sub_of hs rfl
  have k_vAlu : Sub 0xe6fffa281 ps := sub_of hs rfl
  intro z' e'
  unfold execSpecialFunction at e'
  cases e'
  repeat'
    first
    | with_reducible assumption | with_reducible refine putLanes_keeps ?_ k_putLanes _ _ _ _
    | with_reducible refine vAlu_keeps ?_ k_vAlu _ _ _ _ _ _ ?_ | intro _

theorem execCrossLaneReduction_keeps {ps : Nat} {z s : State} (hz : Keeps ps z s) (hs : Sub 0xe6fffa283 ps) (core :
    Nat) (th : Nat) (m : Nat) (op : RedOp) (vd : Nat) (va : Nat) :
    ∀ z', execCrossLaneReduction core th m op vd va s = .next z' → Keeps ps z z' := by
  have k_putLanes : Sub 0x400000002 ps := sub_of hs rfl
  have k_vAlu : Sub 0xe6fffa281 ps := sub_of hs rfl
  intro z' e'
  unfold execCrossLaneReduction at e'
  cases e'
  repeat'
    first
    | extract_lets | with_reducible assumption | with_reducible refine putLanes_keeps ?_ k_putLanes _ _ _ _
    | with_reducible refine vAlu_keeps ?_ k_vAlu _ _ _ _ _ _ ?_ | intro _ | dsimp +zetaDelta only

theorem tookLaneDraws_keeps {ps : Nat} {z s : State} (hz : Keeps ps z s) (hs : Sub 0x400000002 ps) (k : Nat) (th :
    Nat) (x : Launch) (ls : List Nat) : Keeps ps z (tookLaneDraws k th x ls s) := by
  have k_modThread : Sub 0x400000000 ps := sub_of hs rfl
  have k_tookDraws : Sub 0x2 ps := sub_of hs rfl
  unfold tookLaneDraws
  repeat'
    first
    | with_reducible assumption | with_reducible refine modThread_keeps ?_ k_modThread _ _ _
    | with_reducible refine tookDraws_keeps ?_ k_tookDraws _ _

theorem execVrand_keeps {ps : Nat} {z s : State} (hz : Keeps ps z s) (hs : Sub 0xe6fffa283 ps) (core : Nat) (th :
    Nat) (m : Nat) (vd : Nat) : ∀ z', execVrand core th m vd s = .next z' → Keeps ps z z' := by
  have k_tookLaneDraws : Sub 0x400000002 ps := sub_of hs rfl
  have k_putLanes : Sub 0x400000002 ps := sub_of hs rfl
  have k_vAlu : Sub 0xe6fffa281 ps := sub_of hs rfl
  intro z' e'
  unfold execVrand at e'
  cases e'
  repeat'
    first
    | extract_lets | with_reducible assumption
    | with_reducible refine tookLaneDraws_keeps ?_ k_tookLaneDraws _ _ _ _
    | with_reducible refine putLanes_keeps ?_ k_putLanes _ _ _ _
    | with_reducible refine vAlu_keeps ?_ k_vAlu _ _ _ _ _ _ ?_ | intro _ | dsimp +zetaDelta only

theorem execCast_keeps {ps : Nat} {z s : State} (hz : Keeps ps z s) (hs : Sub 0xe6fffa283 ps) (core : Nat) (th :
    Nat) (m : Nat) (op : CastOp) (vd : Nat) (va : Nat) (sc : Nat) :
    ∀ z', execCast core th m op vd va sc s = .next z' → Keeps ps z z' := by
  have k_tookLaneDraws : Sub 0x400000002 ps := sub_of hs rfl
  have k_putLanes : Sub 0x400000002 ps := sub_of hs rfl
  have k_vAlu : Sub 0xe6fffa281 ps := sub_of hs rfl
  have k_modThread : Sub 0x400000000 ps := sub_of hs rfl
  intro z' e'
  unfold execCast at e'
  cases e'
  repeat'
    first
    | with_reducible refine keeps_ite (fun _ => ?_) (fun _ => ?_) | extract_lets | with_reducible assumption
    | with_reducible refine tookLaneDraws_keeps ?_ k_tookLaneDraws _ _ _ _
    | with_reducible refine putLanes_keeps ?_ k_putLanes _ _ _ _
    | with_reducible refine vAlu_keeps ?_ k_vAlu _ _ _ _ _ _ ?_
    | with_reducible refine modThread_keeps ?_ k_modThread _ _ _ | intro _ | dsimp +zetaDelta only

theorem execFlagsRd_keeps {ps : Nat} {z s : State} (hz : Keeps ps z s) (hs : Sub 0xe6fffa281 ps) (core : Nat) (th :
    Nat) (rd : Nat) : ∀ z', execFlagsRd core th rd s = .next z' → Keeps ps z z' := by
  have k_vIssue : Sub 0xe6fffa281 ps := sub_of hs rfl
  have k_modThread : Sub 0x400000000 ps := sub_of hs rfl
  intro z' e'
  unfold execFlagsRd at e'
  cases e'
  repeat'
    first
    | extract_lets | with_reducible assumption | with_reducible refine vIssue_keeps ?_ k_vIssue _ _ _ _ _ _ ?_
    | with_reducible refine modThread_keeps ?_ k_modThread _ _ _ | intro _ | split | dsimp +zetaDelta only

theorem execFlagsClr_keeps {ps : Nat} {z s : State} (hz : Keeps ps z s) (hs : Sub 0xe6fffa281 ps) (core : Nat) (th :
    Nat) (bits : Nat) : ∀ z', execFlagsClr core th bits s = .next z' → Keeps ps z z' := by
  have k_vIssue : Sub 0xe6fffa281 ps := sub_of hs rfl
  have k_modThread : Sub 0x400000000 ps := sub_of hs rfl
  have k_modCtx : Sub 0x10000 ps := sub_of hs rfl
  intro z' e'
  unfold execFlagsClr at e'
  cases e'
  repeat'
    first
    | with_reducible assumption | with_reducible refine vIssue_keeps ?_ k_vIssue _ _ _ _ _ _ ?_
    | with_reducible refine modThread_keeps ?_ k_modThread _ _ _
    | with_reducible refine modCtx_keeps ?_ k_modCtx _ _ | intro _

theorem execArgbase_keeps {ps : Nat} {z s : State} (hz : Keeps ps z s) (hs : Sub 0xe6fffa281 ps) (core : Nat) (th :
    Nat) (rd : Nat) (k : Nat) : ∀ z', execArgbase core th rd k s = .next z' → Keeps ps z z' := by
  have k_vIssue : Sub 0xe6fffa281 ps := sub_of hs rfl
  have k_modThread : Sub 0x400000000 ps := sub_of hs rfl
  have k_execFault : Sub 0xe6fffa281 ps := sub_of hs rfl
  intro z' e'
  unfold execArgbase at e'
  cases e'
  repeat'
    first
    | with_reducible assumption | with_reducible refine vIssue_keeps ?_ k_vIssue _ _ _ _ _ _ ?_
    | with_reducible refine modThread_keeps ?_ k_modThread _ _ _
    | with_reducible refine execFault_keeps ?_ k_execFault _ _ | intro _ | split

theorem doLoad_keeps {ps : Nat} {z s : State} (hz : Keeps ps z s) (hs : Sub 0xc40fa8000 ps) (k : Nat) (th : Nat) (t
    : Thread) (x : Launch) (p : PendLoad) : Keeps ps z (doLoad k th t x p s) := by
  have k_modThread : Sub 0x400000000 ps := sub_of hs rfl
  have k_useLine : Sub 0xc40fa8000 ps := sub_of hs rfl
  unfold doLoad
  repeat'
    first
    | with_reducible refine keeps_foldl ?_ ?_ | with_reducible refine keeps_ite (fun _ => ?_) (fun _ => ?_)
    | extract_lets | with_reducible assumption | with_reducible refine modThread_keeps ?_ k_modThread _ _ _
    | with_reducible refine useLine_keeps ?_ k_useLine _ _ _ _ _ | intro _ | dsimp +zetaDelta only

theorem doStore_keeps {ps : Nat} {z s : State} (hz : Keeps ps z s) (hs : Sub 0xe6fffa281 ps) (k : Nat) (th : Nat) (t
    : Thread) (x : Launch) (es : List (Nat × Nat × List Byte)) (flags : Nat) :
    Keeps ps z (doStore k th t x es flags s) := by
  have k_modThread : Sub 0x400000000 ps := sub_of hs rfl
  have k_storeLine : Sub 0xc40fa8000 ps := sub_of hs rfl
  have k_execFault : Sub 0xe6fffa281 ps := sub_of hs rfl
  have k_failTask : Sub 0xe6fff8001 ps := sub_of hs rfl
  unfold doStore
  repeat'
    first
    | with_reducible refine keeps_foldl ?_ ?_ | with_reducible refine keeps_ite (fun _ => ?_) (fun _ => ?_)
    | extract_lets | with_reducible assumption | with_reducible refine modThread_keeps ?_ k_modThread _ _ _
    | with_reducible refine storeLine_keeps ?_ k_storeLine _ _ _ _ _ _ _
    | with_reducible refine execFault_keeps ?_ k_execFault _ _
    | with_reducible refine failTask_keeps ?_ k_failTask _ _ _ | intro _ | dsimp +zetaDelta only

theorem vLoad_keeps {ps : Nat} {z s : State} (hz : Keeps ps z s) (hs : Sub 0xe6fffa281 ps) (k : Nat) (th : Nat) (t :
    Thread) (x : Launch) (vd : Nat) (as_ : LoadAs) (addrs : List (Nat × Nat)) :
    Keeps ps z (vLoad k th t x vd as_ addrs s) := by
  have k_doLoad : Sub 0xc40fa8000 ps := sub_of hs rfl
  have k_execFault : Sub 0xe6fffa281 ps := sub_of hs rfl
  unfold vLoad
  repeat'
    first
    | with_reducible assumption | with_reducible refine doLoad_keeps ?_ k_doLoad _ _ _ _ _
    | with_reducible refine execFault_keeps ?_ k_execFault _ _ | split

theorem vStore_keeps {ps : Nat} {z s : State} (hz : Keeps ps z s) (hs : Sub 0xe6fffa283 ps) (k : Nat) (th : Nat) (t
    : Thread) (x : Launch) (vs : Nat) (as_ : StoreAs) (addrs : List (Nat × Nat)) :
    Keeps ps z (vStore k th t x vs as_ addrs s) := by
  have k_doStore : Sub 0xe6fffa281 ps := sub_of hs rfl
  have k_tookLaneDraws : Sub 0x400000002 ps := sub_of hs rfl
  have k_execFault : Sub 0xe6fffa281 ps := sub_of hs rfl
  unfold vStore
  repeat'
    first
    | with_reducible refine keeps_foldl ?_ ?_ | with_reducible refine keeps_ite (fun _ => ?_) (fun _ => ?_)
    | extract_lets | with_reducible assumption | with_reducible refine doStore_keeps ?_ k_doStore _ _ _ _ _ _
    | with_reducible refine tookLaneDraws_keeps ?_ k_tookLaneDraws _ _ _ _
    | with_reducible refine execFault_keeps ?_ k_execFault _ _ | intro _ | split | dsimp +zetaDelta only

theorem execVectorLoadStore_keeps {ps : Nat} {z s : State} (hz : Keeps ps z s) (hs : Sub 0xe6fffa283 ps) (core :
    Nat) (th : Nat) (m : Nat) (i : MemInstr) :
    ∀ z', execVectorLoadStore core th m i s = .next z' → Keeps ps z z' := by
  have k_vStore : Sub 0xe6fffa283 ps := sub_of hs rfl
  have k_vLoad : Sub 0xe6fffa281 ps := sub_of hs rfl
  have k_doStore : Sub 0xe6fffa281 ps := sub_of hs rfl
  have k_doLoad : Sub 0xc40fa8000 ps := sub_of hs rfl
  have k_vIssue : Sub 0xe6fffa281 ps := sub_of hs rfl
  have k_execFault : Sub 0xe6fffa281 ps := sub_of hs rfl
  intro z' e'
  unfold execVectorLoadStore at e'
  cases e'
  repeat'
    first
    | with_reducible refine keeps_ite (fun _ => ?_) (fun _ => ?_) | extract_lets | with_reducible assumption
    | with_reducible refine vStore_keeps ?_ k_vStore _ _ _ _ _ _ _
    | with_reducible refine vLoad_keeps ?_ k_vLoad _ _ _ _ _ _ _
    | with_reducible refine doStore_keeps ?_ k_doStore _ _ _ _ _ _
    | with_reducible refine doLoad_keeps ?_ k_doLoad _ _ _ _ _
    | with_reducible refine vIssue_keeps ?_ k_vIssue _ _ _ _ _ _ ?_
    | with_reducible refine execFault_keeps ?_ k_execFault _ _ | intro _ | split | dsimp +zetaDelta only

theorem execGatherScatter_keeps {ps : Nat} {z s : State} (hz : Keeps ps z s) (hs : Sub 0xe6fffa283 ps) (core : Nat)
    (th : Nat) (m : Nat) (i : GatherInstr) :
    ∀ z', execGatherScatter core th m i s = .next z' → Keeps ps z z' := by
  have k_vStore : Sub 0xe6fffa283 ps := sub_of hs rfl
  have k_vLoad : Sub 0xe6fffa281 ps := sub_of hs rfl
  have k_vIssue : Sub 0xe6fffa281 ps := sub_of hs rfl
  intro z' e'
  unfold execGatherScatter at e'
  cases e'
  repeat'
    first
    | with_reducible assumption | with_reducible refine vStore_keeps ?_ k_vStore _ _ _ _ _ _ _
    | with_reducible refine vLoad_keeps ?_ k_vLoad _ _ _ _ _ _ _
    | with_reducible refine vIssue_keeps ?_ k_vIssue _ _ _ _ _ _ ?_ | intro _ | split

theorem execLineFill_keeps {ps : Nat} {z s : State} (hz : Keeps ps z s) (hs : Sub 0xe6fff8001 ps) (core : Nat) (th :
    Nat) : ∀ z', execLineFill core th s = .next z' → Keeps ps z z' := by
  have k_modThread : Sub 0x400000000 ps := sub_of hs rfl
  have k_fillLine : Sub 0xc40fa8000 ps := sub_of hs rfl
  have k_failTask : Sub 0xe6fff8001 ps := sub_of hs rfl
  intro z' e'
  unfold execLineFill at e'
  cases e'
  repeat'
    first
    | with_reducible refine keeps_foldl ?_ ?_ | with_reducible refine keeps_ite (fun _ => ?_) (fun _ => ?_)
    | extract_lets | with_reducible assumption | with_reducible refine modThread_keeps ?_ k_modThread _ _ _
    | with_reducible refine fillLine_keeps ?_ k_fillLine _ _ _ _ _ _
    | with_reducible refine failTask_keeps ?_ k_failTask _ _ _ | intro _ | split | dsimp +zetaDelta only

theorem execAtomic_keeps {ps : Nat} {z s : State} (hz : Keeps ps z s) (hs : Sub 0xe6fffa281 ps) (core : Nat) (th :
    Nat) (op : AtomOp) (rd : Nat) (ra : Nat) (rb : Nat) (size : Nat) :
    ∀ z', execAtomic core th op rd ra rb size s = .next z' → Keeps ps z z' := by
  have k_vIssue : Sub 0xe6fffa281 ps := sub_of hs rfl
  have k_modThread : Sub 0x400000000 ps := sub_of hs rfl
  have k_dropLines : Sub 0xc40fa8000 ps := sub_of hs rfl
  have k_execFault : Sub 0xe6fffa281 ps := sub_of hs rfl
  have k_failTask : Sub 0xe6fff8001 ps := sub_of hs rfl
  have k_storeMem : Sub 0x840fa8000 ps := sub_of hs rfl
  intro z' e'
  unfold execAtomic at e'
  cases e'
  repeat'
    first
    | with_reducible refine keeps_ite (fun _ => ?_) (fun _ => ?_) | extract_lets | with_reducible assumption
    | with_reducible refine vIssue_keeps ?_ k_vIssue _ _ _ _ _ _ ?_
    | with_reducible refine modThread_keeps ?_ k_modThread _ _ _
    | with_reducible refine dropLines_keeps ?_ k_dropLines _ _
    | with_reducible refine execFault_keeps ?_ k_execFault _ _
    | with_reducible refine failTask_keeps ?_ k_failTask _ _ _
    | with_reducible refine storeMem_keeps ?_ k_storeMem _ _ _ _ | intro _ | split | dsimp +zetaDelta only

theorem maintain_keeps {ps : Nat} {z s : State} (hz : Keeps ps z s) (hs : Sub 0xe6fffa281 ps) (core : Nat) (th :
    Nat) (ra : Nat) (rb : Nat) (drop : Bool) : Keeps ps z (maintain core th ra rb drop s) := by
  have k_vIssue : Sub 0xe6fffa281 ps := sub_of hs rfl
  have k_modThread : Sub 0x400000000 ps := sub_of hs rfl
  have k_dropLines : Sub 0xc40fa8000 ps := sub_of hs rfl
  have k_cleanLines : Sub 0xc40fa8000 ps := sub_of hs rfl
  unfold maintain
  repeat'
    first
    | with_reducible refine keeps_ite (fun _ => ?_) (fun _ => ?_) | extract_lets | with_reducible assumption
    | with_reducible refine vIssue_keeps ?_ k_vIssue _ _ _ _ _ _ ?_
    | with_reducible refine modThread_keeps ?_ k_modThread _ _ _
    | with_reducible refine dropLines_keeps ?_ k_dropLines _ _
    | with_reducible refine cleanLines_keeps ?_ k_cleanLines _ _ | intro _ | dsimp +zetaDelta only

theorem execCflush_keeps {ps : Nat} {z s : State} (hz : Keeps ps z s) (hs : Sub 0xe6fffa281 ps) (core : Nat) (th :
    Nat) (ra : Nat) (rb : Nat) : ∀ z', execCflush core th ra rb s = .next z' → Keeps ps z z' := by
  have k_maintain : Sub 0xe6fffa281 ps := sub_of hs rfl
  intro z' e'
  unfold execCflush at e'
  cases e'
  repeat'
    first
    | with_reducible assumption | with_reducible refine maintain_keeps ?_ k_maintain _ _ _ _ _

theorem execCinv_keeps {ps : Nat} {z s : State} (hz : Keeps ps z s) (hs : Sub 0xe6fffa281 ps) (core : Nat) (th :
    Nat) (ra : Nat) (rb : Nat) : ∀ z', execCinv core th ra rb s = .next z' → Keeps ps z z' := by
  have k_maintain : Sub 0xe6fffa281 ps := sub_of hs rfl
  intro z' e'
  unfold execCinv at e'
  cases e'
  repeat'
    first
    | with_reducible assumption | with_reducible refine maintain_keeps ?_ k_maintain _ _ _ _ _

theorem execCflushinv_keeps {ps : Nat} {z s : State} (hz : Keeps ps z s) (hs : Sub 0xe6fffa281 ps) (core : Nat) (th
    : Nat) (ra : Nat) (rb : Nat) : ∀ z', execCflushinv core th ra rb s = .next z' → Keeps ps z z' := by
  have k_maintain : Sub 0xe6fffa281 ps := sub_of hs rfl
  intro z' e'
  unfold execCflushinv at e'
  cases e'
  repeat'
    first
    | with_reducible assumption | with_reducible refine maintain_keeps ?_ k_maintain _ _ _ _ _

theorem execMfence_keeps {ps : Nat} {z s : State} (hz : Keeps ps z s) (hs : Sub 0xe6fffa281 ps) (core : Nat) (th :
    Nat) : ∀ z', execMfence core th s = .next z' → Keeps ps z z' := by
  have k_vIssue : Sub 0xe6fffa281 ps := sub_of hs rfl
  have k_modThread : Sub 0x400000000 ps := sub_of hs rfl
  intro z' e'
  unfold execMfence at e'
  cases e'
  repeat'
    first
    | with_reducible assumption | with_reducible refine vIssue_keeps ?_ k_vIssue _ _ _ _ _ _ ?_
    | with_reducible refine modThread_keeps ?_ k_modThread _ _ _ | intro _

theorem execMfenceComplete_keeps {ps : Nat} {z s : State} (hz : Keeps ps z s) (hs : Sub 0x400000000 ps) (core : Nat)
    (th : Nat) : ∀ z', execMfenceComplete core th s = .next z' → Keeps ps z z' := by
  have k_modThread : Sub 0x400000000 ps := sub_of hs rfl
  intro z' e'
  unfold execMfenceComplete at e'
  cases e'
  repeat'
    first
    | with_reducible assumption | with_reducible refine modThread_keeps ?_ k_modThread _ _ _ | intro _

theorem execVectorUncorrectableError_keeps {ps : Nat} {z s : State} (hz : Keeps ps z s) (hs : Sub 0xfffffffff ps)
    (core : Nat) (site : VErrSite) :
    ∀ z', execVectorUncorrectableError core site s = .next z' → Keeps ps z z' := by
  have k_unitFault : Sub 0xfffffffff ps := sub_of hs rfl
  have k_modVclu : Sub 0x400000000 ps := sub_of hs rfl
  have k_modVCore : Sub 0x400000000 ps := sub_of hs rfl
  intro z' e'
  unfold execVectorUncorrectableError at e'
  cases e'
  repeat'
    first
    | with_reducible refine keeps_ite (fun _ => ?_) (fun _ => ?_) | extract_lets | with_reducible assumption
    | with_reducible refine unitFault_keeps ?_ k_unitFault _ _ _ _
    | with_reducible refine modVclu_keeps ?_ k_modVclu _ _ | with_reducible refine modVCore_keeps ?_ k_modVCore _ _
    | intro _ | split | dsimp +zetaDelta only

end Sys2Proof.Laws
end

