-- ==== Sys2Proof/Laws/KeepsService.lean ====
section
/-!
SUPPORT. Sys2Proof/Laws/KeepsService.lean: the operations of Sys2Proof/Machine/Service.lean keep what Laws/Keeps.lean says.
-/
namespace Sys2Proof.Laws
open Sys2Proof.Machine

theorem svcTrap_keeps {ps : Nat} {z s : State} (hz : Keeps ps z s) (hs : Sub 0x800000000 ps) (core : Nat) (cause :
    Nat) : Keeps ps z (svcTrap core cause s) := by
  have k_modSvcCore : Sub 0x800000000 ps := sub_of hs rfl
  unfold svcTrap
  repeat'
    first
    | with_reducible assumption | with_reducible refine modSvcCore_keeps ?_ k_modSvcCore _ _ | intro _

theorem svcSetX_keeps {ps : Nat} {z s : State} (hz : Keeps ps z s) (hs : Sub 0x800000000 ps) (core : Nat) (rd : Nat)
    (v : Nat) : Keeps ps z (svcSetX core rd v s) := by
  have k_modSvcCore : Sub 0x800000000 ps := sub_of hs rfl
  unfold svcSetX
  repeat'
    first
    | with_reducible refine keeps_ite (fun _ => ?_) (fun _ => ?_) | with_reducible assumption
    | with_reducible refine modSvcCore_keeps ?_ k_modSvcCore _ _ | intro _

theorem physWrite_keeps {ps : Nat} {z s : State} (hz : Keeps ps z s) (hs : Sub 0x800000000 ps) (a : Nat) (bs : List
    Byte) : Keeps ps z (physWrite a bs s) := by
  have k_modSvc : Sub 0x800000000 ps := sub_of hs rfl
  unfold physWrite
  repeat'
    first
    | with_reducible refine keeps_foldl ?_ ?_ | with_reducible refine keeps_ite (fun _ => ?_) (fun _ => ?_)
    | extract_lets | with_reducible assumption | with_reducible refine modSvc_keeps ?_ k_modSvc _ | intro _ | split
    | dsimp +zetaDelta only

theorem svcWriteByte_keeps {ps : Nat} {z s : State} (hz : Keeps ps z s) (hs : Sub 0x840fa8000 ps) (k : Nat) (b :
    Byte) : Keeps ps z (svcWriteByte k b s) := by
  have k_physWrite : Sub 0x800000000 ps := sub_of hs rfl
  have k_storeBlk : Sub 0x840fa8000 ps := sub_of hs rfl
  unfold svcWriteByte
  repeat'
    first
    | with_reducible refine keeps_ite (fun _ => ?_) (fun _ => ?_) | with_reducible assumption
    | with_reducible refine physWrite_keeps ?_ k_physWrite _ _
    | with_reducible refine storeBlk_keeps ?_ k_storeBlk _ _ _ | intro _

theorem svcClean_keeps {ps : Nat} {z s : State} (hz : Keeps ps z s) (hs : Sub 0x840fa8000 ps) (core : Nat) (p : Nat
    → Bool) : Keeps ps z (svcClean core p s) := by
  have k_svcWriteByte : Sub 0x840fa8000 ps := sub_of hs rfl
  have k_modSvcCore : Sub 0x800000000 ps := sub_of hs rfl
  unfold svcClean
  repeat'
    first
    | with_reducible refine keeps_foldl ?_ ?_ | extract_lets | with_reducible assumption
    | with_reducible refine svcWriteByte_keeps ?_ k_svcWriteByte _ _
    | with_reducible refine modSvcCore_keeps ?_ k_modSvcCore _ _ | intro _ | dsimp +zetaDelta only

theorem withStores_keeps {ps : Nat} {z s : State} (hz : Keeps ps z s) (hs : Sub 0xe6fffa281 ps) (core : Nat) (stored
    : List (Nat × List Byte)) (f : State → State) (h_f : ∀ z x0, Keeps ps z x0 → Keeps ps z (f x0)) :
    Keeps ps z (withStores core stored f s) := by
  have k_svcTrap : Sub 0x800000000 ps := sub_of hs rfl
  have k_execFault : Sub 0xe6fffa281 ps := sub_of hs rfl
  have k_modSvcCore : Sub 0x800000000 ps := sub_of hs rfl
  unfold withStores
  repeat'
    first
    | with_reducible refine keeps_foldl ?_ ?_ | with_reducible assumption | with_reducible refine h_f _ _ ?_
    | with_reducible refine svcTrap_keeps ?_ k_svcTrap _ _
    | with_reducible refine execFault_keeps ?_ k_execFault _ _
    | with_reducible refine modSvcCore_keeps ?_ k_modSvcCore _ _ | intro _ | split

theorem svcRmw_keeps {ps : Nat} {z s : State} (hz : Keeps ps z s) (hs : Sub 0xe6fffa281 ps) (core : Nat) (rd : Nat)
    (p : SvcPlace) (size : Nat) (upd : Nat → Option Nat) (res : Nat → Nat) :
    Keeps ps z (svcRmw core rd p size upd res s) := by
  have k_svcClean : Sub 0x840fa8000 ps := sub_of hs rfl
  have k_physWrite : Sub 0x800000000 ps := sub_of hs rfl
  have k_svcSetX : Sub 0x800000000 ps := sub_of hs rfl
  have k_svcTrap : Sub 0x800000000 ps := sub_of hs rfl
  have k_execFault : Sub 0xe6fffa281 ps := sub_of hs rfl
  have k_failTask : Sub 0xe6fff8001 ps := sub_of hs rfl
  have k_storeMem : Sub 0x840fa8000 ps := sub_of hs rfl
  unfold svcRmw
  repeat'
    first
    | with_reducible refine keeps_ite (fun _ => ?_) (fun _ => ?_) | extract_lets | with_reducible assumption
    | with_reducible refine svcClean_keeps ?_ k_svcClean _ _
    | with_reducible refine physWrite_keeps ?_ k_physWrite _ _
    | with_reducible refine svcSetX_keeps ?_ k_svcSetX _ _ _ | with_reducible refine svcTrap_keeps ?_ k_svcTrap _ _
    | with_reducible refine execFault_keeps ?_ k_execFault _ _
    | with_reducible refine failTask_keeps ?_ k_failTask _ _ _
    | with_reducible refine storeMem_keeps ?_ k_storeMem _ _ _ _ | intro _ | split | dsimp +zetaDelta only

theorem execLrSc_keeps {ps : Nat} {z s : State} (hz : Keeps ps z s) (hs : Sub 0xe6fffa281 ps) (core : Nat) (i :
    LrSc) : ∀ z', execLrSc core i s = .next z' → Keeps ps z z' := by
  have k_svcRmw : Sub 0xe6fffa281 ps := sub_of hs rfl
  have k_svcTrap : Sub 0x800000000 ps := sub_of hs rfl
  have k_modSvcCore : Sub 0x800000000 ps := sub_of hs rfl
  intro z' e'
  unfold execLrSc at e'
  cases e'
  repeat'
    first
    | with_reducible refine keeps_ite (fun _ => ?_) (fun _ => ?_) | extract_lets | with_reducible assumption
    | with_reducible refine svcRmw_keeps ?_ k_svcRmw _ _ _ _ _ _
    | with_reducible refine svcTrap_keeps ?_ k_svcTrap _ _
    | with_reducible refine modSvcCore_keeps ?_ k_modSvcCore _ _ | intro _ | split | dsimp +zetaDelta only

theorem svcIllegal_keeps {ps : Nat} {z s : State} (hz : Keeps ps z s) (hs : Sub 0xe6fffa281 ps) (core : Nat) :
    Keeps ps z (svcIllegal core s) := by
  have k_svcTrap : Sub 0x800000000 ps := sub_of hs rfl
  have k_execFault : Sub 0xe6fffa281 ps := sub_of hs rfl
  unfold svcIllegal
  repeat'
    first
    | with_reducible assumption | with_reducible refine svcTrap_keeps ?_ k_svcTrap _ _
    | with_reducible refine execFault_keeps ?_ k_execFault _ _ | split

theorem execAmo_keeps {ps : Nat} {z s : State} (hz : Keeps ps z s) (hs : Sub 0xe6fffa281 ps) (core : Nat) (op :
    AtomOp) (rd : Nat) (addr : Nat) (value : Nat) (size : Nat) :
    ∀ z', execAmo core op rd addr value size s = .next z' → Keeps ps z z' := by
  have k_svcIllegal : Sub 0xe6fffa281 ps := sub_of hs rfl
  have k_svcRmw : Sub 0xe6fffa281 ps := sub_of hs rfl
  intro z' e'
  unfold execAmo at e'
  cases e'
  repeat'
    first
    | with_reducible refine keeps_ite (fun _ => ?_) (fun _ => ?_) | with_reducible assumption
    | with_reducible refine svcIllegal_keeps ?_ k_svcIllegal _
    | with_reducible refine svcRmw_keeps ?_ k_svcRmw _ _ _ _ _ _ | intro _ | split

theorem cboBlock_keeps {ps : Nat} {z s : State} (hz : Keeps ps z s) (hs : Sub 0xe6fffa281 ps) (core : Nat) (addr :
    Nat) (stored : List (Nat × List Byte)) : Keeps ps z (cboBlock core addr stored s) := by
  have k_withStores : Sub 0xe6fffa281 ps := sub_of hs rfl
  have k_svcClean : Sub 0x840fa8000 ps := sub_of hs rfl
  have k_svcTrap : Sub 0x800000000 ps := sub_of hs rfl
  have k_execFault : Sub 0xe6fffa281 ps := sub_of hs rfl
  unfold cboBlock
  repeat'
    first
    | with_reducible refine keeps_ite (fun _ => ?_) (fun _ => ?_) | with_reducible assumption
    | with_reducible refine withStores_keeps ?_ k_withStores _ _ _ ?_
    | with_reducible refine svcClean_keeps ?_ k_svcClean _ _ | with_reducible refine svcTrap_keeps ?_ k_svcTrap _ _
    | with_reducible refine execFault_keeps ?_ k_execFault _ _ | intro _ | split

theorem execCboClean_keeps {ps : Nat} {z s : State} (hz : Keeps ps z s) (hs : Sub 0xe6fffa281 ps) (core : Nat) (addr
    : Nat) (stored : List (Nat × List Byte)) :
    ∀ z', execCboClean core addr stored s = .next z' → Keeps ps z z' := by
  have k_cboBlock : Sub 0xe6fffa281 ps := sub_of hs rfl
  intro z' e'
  unfold execCboClean at e'
  cases e'
  repeat'
    first
    | with_reducible assumption | with_reducible refine cboBlock_keeps ?_ k_cboBlock _ _ _

theorem execCboFlush_keeps {ps : Nat} {z s : State} (hz : Keeps ps z s) (hs : Sub 0xe6fffa281 ps) (core : Nat) (addr
    : Nat) (stored : List (Nat × List Byte)) :
    ∀ z', execCboFlush core addr stored s = .next z' → Keeps ps z z' := by
  have k_cboBlock : Sub 0xe6fffa281 ps := sub_of hs rfl
  intro z' e'
  unfold execCboFlush at e'
  cases e'
  repeat'
    first
    | with_reducible assumption | with_reducible refine cboBlock_keeps ?_ k_cboBlock _ _ _

theorem execCboInval_keeps {ps : Nat} {z s : State} (hz : Keeps ps z s) (hs : Sub 0xe6fffa281 ps) (core : Nat) (addr
    : Nat) (stored : List (Nat × List Byte)) :
    ∀ z', execCboInval core addr stored s = .next z' → Keeps ps z z' := by
  have k_cboBlock : Sub 0xe6fffa281 ps := sub_of hs rfl
  intro z' e'
  unfold execCboInval at e'
  cases e'
  repeat'
    first
    | with_reducible assumption | with_reducible refine cboBlock_keeps ?_ k_cboBlock _ _ _

theorem execFence_keeps {ps : Nat} {z s : State} (hz : Keeps ps z s) (hs : Sub 0x0 ps) (_core : Nat) :
    ∀ z', execFence _core s = .next z' → Keeps ps z z' := by
  intro z' e'
  unfold execFence at e'
  cases e'
  repeat'
    first
    | with_reducible assumption

theorem execFenceI_keeps {ps : Nat} {z s : State} (hz : Keeps ps z s) (hs : Sub 0x0 ps) (_core : Nat) :
    ∀ z', execFenceI _core s = .next z' → Keeps ps z z' := by
  intro z' e'
  unfold execFenceI at e'
  cases e'
  repeat'
    first
    | with_reducible assumption

theorem taskStops_keeps {ps : Nat} {z s : State} (hz : Keeps ps z s) (hs : Sub 0x86ffe8001 ps) (l : Nat) (t : Nat)
    (overrun : Bool) (k : CoreKind) (core : Nat) : Keeps ps z (taskStops l t overrun k core s) := by
  have k_settle : Sub 0x86ffe8001 ps := sub_of hs rfl
  have k_modLaunch : Sub 0x200000 ps := sub_of hs rfl
  unfold taskStops
  repeat'
    first
    | with_reducible refine keeps_ite (fun _ => ?_) (fun _ => ?_) | extract_lets | with_reducible assumption
    | with_reducible refine settle_keeps ?_ k_settle _ | with_reducible refine modLaunch_keeps ?_ k_modLaunch _ _
    | intro _ | split | dsimp +zetaDelta only

theorem execExit_keeps {ps : Nat} {z s : State} (hz : Keeps ps z s) (hs : Sub 0xe6fffa281 ps) (core : Nat) (a0 :
    Nat) (overrun : Bool) (stored : List (Nat × List Byte)) :
    ∀ z', execExit core a0 overrun stored s = .next z' → Keeps ps z z' := by
  have k_taskStops : Sub 0x86ffe8001 ps := sub_of hs rfl
  have k_withStores : Sub 0xe6fffa281 ps := sub_of hs rfl
  have k_svcClean : Sub 0x840fa8000 ps := sub_of hs rfl
  have k_execFault : Sub 0xe6fffa281 ps := sub_of hs rfl
  intro z' e'
  unfold execExit at e'
  cases e'
  repeat'
    first
    | with_reducible refine keeps_ite (fun _ => ?_) (fun _ => ?_) | with_reducible assumption
    | with_reducible refine taskStops_keeps ?_ k_taskStops _ _ _ _ _
    | with_reducible refine withStores_keeps ?_ k_withStores _ _ _ ?_
    | with_reducible refine svcClean_keeps ?_ k_svcClean _ _
    | with_reducible refine execFault_keeps ?_ k_execFault _ _ | intro _ | split

theorem execEnvCallArgbase_keeps {ps : Nat} {z s : State} (hz : Keeps ps z s) (hs : Sub 0xe6fffa281 ps) (core : Nat)
    (k : Nat) : ∀ z', execEnvCallArgbase core k s = .next z' → Keeps ps z z' := by
  have k_svcSetX : Sub 0x800000000 ps := sub_of hs rfl
  have k_execFault : Sub 0xe6fffa281 ps := sub_of hs rfl
  intro z' e'
  unfold execEnvCallArgbase at e'
  cases e'
  repeat'
    first
    | with_reducible refine keeps_ite (fun _ => ?_) (fun _ => ?_) | with_reducible assumption
    | with_reducible refine svcSetX_keeps ?_ k_svcSetX _ _ _
    | with_reducible refine execFault_keeps ?_ k_execFault _ _ | intro _ | split

theorem execTime_keeps {ps : Nat} {z s : State} (hz : Keeps ps z s) (hs : Sub 0x800000000 ps) (core : Nat) :
    ∀ z', execTime core s = .next z' → Keeps ps z z' := by
  have k_svcSetX : Sub 0x800000000 ps := sub_of hs rfl
  intro z' e'
  unfold execTime at e'
  cases e'
  repeat'
    first
    | with_reducible refine keeps_ite (fun _ => ?_) (fun _ => ?_) | with_reducible assumption
    | with_reducible refine svcSetX_keeps ?_ k_svcSetX _ _ _ | intro _

theorem svcFails_keeps {ps : Nat} {z s : State} (hz : Keeps ps z s) (hs : Sub 0xfffffffff ps) (n : Nat) (cls : Nat)
    : Keeps ps z (svcFails n cls s) := by
  have k_unitFault : Sub 0xfffffffff ps := sub_of hs rfl
  have k_partitionFault : Sub 0xfffffffff ps := sub_of hs rfl
  unfold svcFails
  repeat'
    first
    | with_reducible refine keeps_ite (fun _ => ?_) (fun _ => ?_) | extract_lets | with_reducible assumption
    | with_reducible refine unitFault_keeps ?_ k_unitFault _ _ _ _
    | with_reducible refine partitionFault_keeps ?_ k_partitionFault _ _ _ _ _ | intro _ | dsimp +zetaDelta only

theorem execServiceCoreError_keeps {ps : Nat} {z s : State} (hz : Keeps ps z s) (hs : Sub 0xfffffffff ps) (core :
    Nat) : ∀ z', execServiceCoreError core s = .next z' → Keeps ps z z' := by
  have k_svcFails : Sub 0xfffffffff ps := sub_of hs rfl
  intro z' e'
  unfold execServiceCoreError at e'
  cases e'
  repeat'
    first
    | with_reducible refine keeps_ite (fun _ => ?_) (fun _ => ?_) | with_reducible assumption
    | with_reducible refine svcFails_keeps ?_ k_svcFails _ _ | intro _

theorem execFirmwareStall_keeps {ps : Nat} {z s : State} (hz : Keeps ps z s) (hs : Sub 0xfffffffff ps) (core : Nat)
    : ∀ z', execFirmwareStall core s = .next z' → Keeps ps z z' := by
  have k_svcFails : Sub 0xfffffffff ps := sub_of hs rfl
  intro z' e'
  unfold execFirmwareStall at e'
  cases e'
  repeat'
    first
    | with_reducible refine keeps_ite (fun _ => ?_) (fun _ => ?_) | with_reducible assumption
    | with_reducible refine svcFails_keeps ?_ k_svcFails _ _ | intro _

end Sys2Proof.Laws
end

