-- ==== Sys2Proof/Laws/KeepsRings.lean ====
section
/-!
SUPPORT. Sys2Proof/Laws/KeepsRings.lean: the operations of Sys2Proof/Machine/Rings.lean keep what Laws/Keeps.lean says.
-/
namespace Sys2Proof.Laws
open Sys2Proof.Machine

theorem execDoorbellSq_keeps {ps : Nat} {z s : State} (hz : Keeps ps z s) (hs : Sub 0x8000 ps) (bar : Nat) (page :
    Nat) (bound : Bool) (v : Word) : ∀ z', execDoorbellSq bar page bound v s = .next z' → Keeps ps z z' := by
  have k_modQp : Sub 0x8000 ps := sub_of hs rfl
  intro z' e'
  unfold execDoorbellSq at e'
  cases e'
  repeat'
    first
    | with_reducible refine keeps_ite (fun _ => ?_) (fun _ => ?_) | with_reducible assumption
    | with_reducible refine modQp_keeps ?_ k_modQp _ _ | intro _ | split

theorem execDoorbellCq_keeps {ps : Nat} {z s : State} (hz : Keeps ps z s) (hs : Sub 0x8000 ps) (bar : Nat) (page :
    Nat) (bound : Bool) (v : Word) : ∀ z', execDoorbellCq bar page bound v s = .next z' → Keeps ps z z' := by
  have k_modQp : Sub 0x8000 ps := sub_of hs rfl
  intro z' e'
  unfold execDoorbellCq at e'
  cases e'
  repeat'
    first
    | with_reducible refine keeps_ite (fun _ => ?_) (fun _ => ?_) | extract_lets | with_reducible assumption
    | with_reducible refine modQp_keeps ?_ k_modQp _ _ | intro _ | split | dsimp +zetaDelta only

theorem execQueueArm_keeps {ps : Nat} {z s : State} (hz : Keeps ps z s) (hs : Sub 0x8000 ps) (bar : Nat) (page :
    Nat) (bound : Bool) : ∀ z', execQueueArm bar page bound s = .next z' → Keeps ps z z' := by
  have k_modQp : Sub 0x8000 ps := sub_of hs rfl
  intro z' e'
  unfold execQueueArm at e'
  cases e'
  repeat'
    first
    | with_reducible refine keeps_ite (fun _ => ?_) (fun _ => ?_) | with_reducible assumption
    | with_reducible refine modQp_keeps ?_ k_modQp _ _ | intro _ | split

theorem modPage_keeps {ps : Nat} {z s : State} (hz : Keeps ps z s) (hs : Sub 0x8000 ps) (fn : Nat) (f : SvqPage →
    SvqPage) : Keeps ps z (modPage fn f s) := by
  have k_modCmd : Sub 0x8000 ps := sub_of hs rfl
  unfold modPage
  repeat'
    first
    | with_reducible assumption | with_reducible refine modCmd_keeps ?_ k_modCmd _ | intro _

theorem buildSvq_keeps {ps : Nat} {z s : State} (hz : Keeps ps z s) (hs : Sub 0x8000 ps) (fn : Nat) (q : Nat) :
    Keeps ps z (buildSvq fn q s) := by
  have k_modPage : Sub 0x8000 ps := sub_of hs rfl
  have k_modCmd : Sub 0x8000 ps := sub_of hs rfl
  unfold buildSvq
  repeat'
    first
    | extract_lets | with_reducible assumption | with_reducible refine modPage_keeps ?_ k_modPage _ _
    | with_reducible refine modCmd_keeps ?_ k_modCmd _ | intro _ | dsimp +zetaDelta only

theorem doBuild_keeps {ps : Nat} {z s : State} (hz : Keeps ps z s) (hs : Sub 0x8000 ps) (fn : Nat) (v : Nat) :
    Keeps ps z (doBuild fn v s) := by
  have k_buildSvq : Sub 0x8000 ps := sub_of hs rfl
  have k_modPage : Sub 0x8000 ps := sub_of hs rfl
  unfold doBuild
  repeat'
    first
    | with_reducible refine keeps_ite (fun _ => ?_) (fun _ => ?_) | extract_lets | with_reducible assumption
    | with_reducible refine buildSvq_keeps ?_ k_buildSvq _ _ | with_reducible refine modPage_keeps ?_ k_modPage _ _
    | intro _ | split | dsimp +zetaDelta only

theorem execBuild_keeps {ps : Nat} {z s : State} (hz : Keeps ps z s) (hs : Sub 0x8000 ps) (fn : Nat) (bound : Bool)
    (v : Word) : ∀ z', execBuild fn bound v s = .next z' → Keeps ps z z' := by
  have k_doBuild : Sub 0x8000 ps := sub_of hs rfl
  intro z' e'
  unfold execBuild at e'
  cases e'
  repeat'
    first
    | with_reducible refine keeps_ite (fun _ => ?_) (fun _ => ?_) | with_reducible assumption
    | with_reducible refine doBuild_keeps ?_ k_doBuild _ _ | intro _

theorem doUnbuild_keeps {ps : Nat} {z s : State} (hz : Keeps ps z s) (hs : Sub 0x8000 ps) (fn : Nat) (v : Nat) :
    Keeps ps z (doUnbuild fn v s) := by
  have k_modPage : Sub 0x8000 ps := sub_of hs rfl
  have k_modQp : Sub 0x8000 ps := sub_of hs rfl
  have k_mapDescs : Sub 0x8000 ps := sub_of hs rfl
  unfold doUnbuild
  repeat'
    first
    | with_reducible refine keeps_ite (fun _ => ?_) (fun _ => ?_) | extract_lets | with_reducible assumption
    | with_reducible refine modPage_keeps ?_ k_modPage _ _ | with_reducible refine modQp_keeps ?_ k_modQp _ _
    | with_reducible refine mapDescs_keeps ?_ k_mapDescs _ | intro _ | split | dsimp +zetaDelta only

theorem execUnbuild_keeps {ps : Nat} {z s : State} (hz : Keeps ps z s) (hs : Sub 0x8000 ps) (fn : Nat) (bound :
    Bool) (v : Word) : ∀ z', execUnbuild fn bound v s = .next z' → Keeps ps z z' := by
  have k_doUnbuild : Sub 0x8000 ps := sub_of hs rfl
  intro z' e'
  unfold execUnbuild at e'
  cases e'
  repeat'
    first
    | with_reducible refine keeps_ite (fun _ => ?_) (fun _ => ?_) | with_reducible assumption
    | with_reducible refine doUnbuild_keeps ?_ k_doUnbuild _ _ | intro _

theorem execServiceQueueUnbuilt_keeps {ps : Nat} {z s : State} (hz : Keeps ps z s) (hs : Sub 0x8000 ps) (fn : Nat) :
    ∀ z', execServiceQueueUnbuilt fn s = .next z' → Keeps ps z z' := by
  have k_buildSvq : Sub 0x8000 ps := sub_of hs rfl
  have k_modPage : Sub 0x8000 ps := sub_of hs rfl
  have k_modCmd : Sub 0x8000 ps := sub_of hs rfl
  intro z' e'
  unfold execServiceQueueUnbuilt at e'
  cases e'
  repeat'
    first
    | with_reducible refine keeps_ite (fun _ => ?_) (fun _ => ?_) | extract_lets | with_reducible assumption
    | with_reducible refine buildSvq_keeps ?_ k_buildSvq _ _ | with_reducible refine modPage_keeps ?_ k_modPage _ _
    | with_reducible refine modCmd_keeps ?_ k_modCmd _ | intro _ | split | dsimp +zetaDelta only

theorem fetchServed_keeps {ps : Nat} {z s : State} (hz : Keeps ps z s) (hs : Sub 0x8000 ps) (p : QueuePair) :
    Keeps ps z (fetchServed p s) := by
  have k_modCmd : Sub 0x8000 ps := sub_of hs rfl
  unfold fetchServed
  repeat'
    first
    | with_reducible refine keeps_ite (fun _ => ?_) (fun _ => ?_) | with_reducible assumption
    | with_reducible refine modCmd_keeps ?_ k_modCmd _ | intro _

theorem stopQp_keeps {ps : Nat} {z s : State} (hz : Keeps ps z s) (hs : Sub 0xe6fffa281 ps) (q : Nat) (p :
    QueuePair) : Keeps ps z (stopQp q p s) := by
  have k_contextFault : Sub 0xe6fffa281 ps := sub_of hs rfl
  have k_modQp : Sub 0x8000 ps := sub_of hs rfl
  unfold stopQp
  repeat'
    first
    | extract_lets | with_reducible assumption
    | with_reducible refine contextFault_keeps ?_ k_contextFault _ _ _ _ _
    | with_reducible refine modQp_keeps ?_ k_modQp _ _ | intro _ | split | dsimp +zetaDelta only

theorem enterDesc_keeps {ps : Nat} {z s : State} (hz : Keeps ps z s) (hs : Sub 0x8000 ps) (d : Desc) :
    Keeps ps z (enterDesc d s) := by
  have k_modQp : Sub 0x8000 ps := sub_of hs rfl
  have k_modCmd : Sub 0x8000 ps := sub_of hs rfl
  unfold enterDesc
  repeat'
    first
    | extract_lets | with_reducible assumption | with_reducible refine modQp_keeps ?_ k_modQp _ _
    | with_reducible refine modCmd_keeps ?_ k_modCmd _ | intro _ | dsimp +zetaDelta only

theorem execDescriptorFetch_keeps {ps : Nat} {z s : State} (hz : Keeps ps z s) (hs : Sub 0xe6fffa281 ps) (qp : Nat)
    (raw : BitVec 512) : ∀ z', execDescriptorFetch qp raw s = .next z' → Keeps ps z z' := by
  have k_enterDesc : Sub 0x8000 ps := sub_of hs rfl
  have k_stopQp : Sub 0xe6fffa281 ps := sub_of hs rfl
  have k_fetchServed : Sub 0x8000 ps := sub_of hs rfl
  intro z' e'
  unfold execDescriptorFetch at e'
  cases e'
  repeat'
    first
    | with_reducible refine keeps_ite (fun _ => ?_) (fun _ => ?_) | extract_lets | with_reducible assumption
    | with_reducible refine enterDesc_keeps ?_ k_enterDesc _ | with_reducible refine stopQp_keeps ?_ k_stopQp _ _
    | with_reducible refine fetchServed_keeps ?_ k_fetchServed _ | intro _ | split | dsimp +zetaDelta only

theorem execFetchError_keeps {ps : Nat} {z s : State} (hz : Keeps ps z s) (hs : Sub 0xe6fffa281 ps) (qp : Nat) :
    ∀ z', execFetchError qp s = .next z' → Keeps ps z z' := by
  have k_enterDesc : Sub 0x8000 ps := sub_of hs rfl
  have k_stopQp : Sub 0xe6fffa281 ps := sub_of hs rfl
  have k_fetchServed : Sub 0x8000 ps := sub_of hs rfl
  intro z' e'
  unfold execFetchError at e'
  cases e'
  repeat'
    first
    | with_reducible refine keeps_ite (fun _ => ?_) (fun _ => ?_) | extract_lets | with_reducible assumption
    | with_reducible refine enterDesc_keeps ?_ k_enterDesc _ | with_reducible refine stopQp_keeps ?_ k_stopQp _ _
    | with_reducible refine fetchServed_keeps ?_ k_fetchServed _ | intro _ | split | dsimp +zetaDelta only

theorem execDescriptorStart_keeps {ps : Nat} {z s : State} (hz : Keeps ps z s) (hs : Sub 0x8000 ps) (qp : Nat) (sub
    : Nat) : ∀ z', execDescriptorStart qp sub s = .next z' → Keeps ps z z' := by
  have k_endDesc : Sub 0x8000 ps := sub_of hs rfl
  have k_modDesc : Sub 0x8000 ps := sub_of hs rfl
  intro z' e'
  unfold execDescriptorStart at e'
  cases e'
  repeat'
    first
    | with_reducible refine keeps_ite (fun _ => ?_) (fun _ => ?_) | with_reducible assumption
    | with_reducible refine endDesc_keeps ?_ k_endDesc _ _ _
    | with_reducible refine modDesc_keeps ?_ k_modDesc _ _ _ | intro _ | split

theorem execVfStateRecordWrite_keeps {ps : Nat} {z s : State} (hz : Keeps ps z s) (hs : Sub 0xc001 ps)  :
    ∀ z', execVfStateRecordWrite s = .next z' → Keeps ps z z' := by
  have k_writeRecord : Sub 0xc001 ps := sub_of hs rfl
  have k_modHif : Sub 0x4000 ps := sub_of hs rfl
  intro z' e'
  unfold execVfStateRecordWrite at e'
  cases e'
  repeat'
    first
    | with_reducible refine keeps_ite (fun _ => ?_) (fun _ => ?_) | extract_lets | with_reducible assumption
    | with_reducible refine writeRecord_keeps ?_ k_writeRecord _ _ _
    | with_reducible refine modHif_keeps ?_ k_modHif _ | intro _ | split | dsimp +zetaDelta only

theorem execMsixUnmask_keeps {ps : Nat} {z s : State} (hz : Keeps ps z s) (hs : Sub 0x4001 ps) (fn : Nat) (vec :
    Nat) : ∀ z', execMsixUnmask fn vec s = .next z' → Keeps ps z z' := by
  have k_emit : Sub 0x1 ps := sub_of hs rfl
  have k_modHif : Sub 0x4000 ps := sub_of hs rfl
  intro z' e'
  unfold execMsixUnmask at e'
  cases e'
  repeat'
    first
    | with_reducible refine keeps_ite (fun _ => ?_) (fun _ => ?_) | extract_lets | with_reducible assumption
    | with_reducible refine emit_keeps ?_ k_emit _ | with_reducible refine modHif_keeps ?_ k_modHif _ | intro _
    | dsimp +zetaDelta only

theorem execHeartbeat_keeps {ps : Nat} {z s : State} (hz : Keeps ps z s) (hs : Sub 0xc001 ps) (fn : Nat) :
    ∀ z', execHeartbeat fn s = .next z' → Keeps ps z z' := by
  have k_writeRecord : Sub 0xc001 ps := sub_of hs rfl
  have k_modCmd : Sub 0x8000 ps := sub_of hs rfl
  intro z' e'
  unfold execHeartbeat at e'
  cases e'
  repeat'
    first
    | with_reducible refine keeps_ite (fun _ => ?_) (fun _ => ?_) | extract_lets | with_reducible assumption
    | with_reducible refine writeRecord_keeps ?_ k_writeRecord _ _ _
    | with_reducible refine modCmd_keeps ?_ k_modCmd _ | intro _ | split | dsimp +zetaDelta only

end Sys2Proof.Laws
end

