-- ==== Sys2Proof/Laws/KeepsLinks.lean ====
section
/-!
SUPPORT. Sys2Proof/Laws/KeepsLinks.lean: the operations of Sys2Proof/Machine/Links.lean keep what Laws/Keeps.lean says.
-/
namespace Sys2Proof.Laws
open Sys2Proof.Machine

theorem sendHello_keeps {ps : Nat} {z s : State} (hz : Keeps ps z s) (hs : Sub 0x1000001 ps) (p : Nat) :
    Keeps ps z (sendHello p s) := by
  have k_sendPort : Sub 0x1000001 ps := sub_of hs rfl
  unfold sendHello
  repeat'
    first
    | with_reducible assumption | with_reducible refine sendPort_keeps ?_ k_sendPort _ _

theorem startReplay_keeps {ps : Nat} {z s : State} (hz : Keeps ps z s) (hs : Sub 0x5008001 ps) (p : Nat) (seq : Nat)
    : Keeps ps z (startReplay p seq s) := by
  have k_portRetrain : Sub 0x5008000 ps := sub_of hs rfl
  have k_modPort : Sub 0x1000000 ps := sub_of hs rfl
  have k_emit : Sub 0x1 ps := sub_of hs rfl
  unfold startReplay
  repeat'
    first
    | with_reducible refine keeps_ite (fun _ => ?_) (fun _ => ?_) | extract_lets | with_reducible assumption
    | with_reducible refine portRetrain_keeps ?_ k_portRetrain _ _
    | with_reducible refine modPort_keeps ?_ k_modPort _ _ | with_reducible refine emit_keeps ?_ k_emit _ | intro _
    | dsimp +zetaDelta only

theorem sendAck_keeps {ps : Nat} {z s : State} (hz : Keeps ps z s) (hs : Sub 0x1000001 ps) (p : Nat) :
    Keeps ps z (sendAck p s) := by
  have k_modPort : Sub 0x1000000 ps := sub_of hs rfl
  have k_emit : Sub 0x1 ps := sub_of hs rfl
  unfold sendAck
  repeat'
    first
    | extract_lets | with_reducible assumption | with_reducible refine modPort_keeps ?_ k_modPort _ _
    | with_reducible refine emit_keeps ?_ k_emit _ | intro _ | dsimp +zetaDelta only

theorem sendNak_keeps {ps : Nat} {z s : State} (hz : Keeps ps z s) (hs : Sub 0x1000001 ps) (p : Nat) :
    Keeps ps z (sendNak p s) := by
  have k_modPort : Sub 0x1000000 ps := sub_of hs rfl
  have k_emit : Sub 0x1 ps := sub_of hs rfl
  unfold sendNak
  repeat'
    first
    | with_reducible refine keeps_ite (fun _ => ?_) (fun _ => ?_) | extract_lets | with_reducible assumption
    | with_reducible refine modPort_keeps ?_ k_modPort _ _ | with_reducible refine emit_keeps ?_ k_emit _ | intro _
    | dsimp +zetaDelta only

theorem protoError_keeps {ps : Nat} {z s : State} (hz : Keeps ps z s) (hs : Sub 0x5008000 ps) (p : Nat) :
    Keeps ps z (protoError p s) := by
  have k_routeDrop : Sub 0x1000000 ps := sub_of hs rfl
  have k_portRetrain : Sub 0x5008000 ps := sub_of hs rfl
  have k_modPort : Sub 0x1000000 ps := sub_of hs rfl
  unfold protoError
  repeat'
    first
    | with_reducible refine keeps_ite (fun _ => ?_) (fun _ => ?_) | extract_lets | with_reducible assumption
    | with_reducible refine routeDrop_keeps ?_ k_routeDrop _
    | with_reducible refine portRetrain_keeps ?_ k_portRetrain _ _
    | with_reducible refine modPort_keeps ?_ k_modPort _ _ | intro _ | dsimp +zetaDelta only

theorem freeCredits_keeps {ps : Nat} {z s : State} (hz : Keeps ps z s) (hs : Sub 0x1000000 ps) (p : Nat) (vc : Nat)
    (n : Nat) : Keeps ps z (freeCredits p vc n s) := by
  have k_modPort : Sub 0x1000000 ps := sub_of hs rfl
  unfold freeCredits
  repeat'
    first
    | with_reducible assumption | with_reducible refine modPort_keeps ?_ k_modPort _ _ | intro _

theorem packetIn_keeps {ps : Nat} {z s : State} (hz : Keeps ps z s) (hs : Sub 0x1000001 ps) (p : Nat) (vc : Nat) (k
    : RxPkt) : Keeps ps z (packetIn p vc k s) := by
  have k_freeCredits : Sub 0x1000000 ps := sub_of hs rfl
  have k_enqueue : Sub 0x1000001 ps := sub_of hs rfl
  have k_routeDrop : Sub 0x1000000 ps := sub_of hs rfl
  have k_modPort : Sub 0x1000000 ps := sub_of hs rfl
  unfold packetIn
  repeat'
    first
    | with_reducible refine keeps_ite (fun _ => ?_) (fun _ => ?_) | extract_lets | with_reducible assumption
    | with_reducible refine freeCredits_keeps ?_ k_freeCredits _ _ _
    | with_reducible refine enqueue_keeps ?_ k_enqueue _ _ _ _
    | with_reducible refine routeDrop_keeps ?_ k_routeDrop _ | with_reducible refine modPort_keeps ?_ k_modPort _ _
    | intro _ | split | dsimp +zetaDelta only

theorem headIn_keeps {ps : Nat} {z s : State} (hz : Keeps ps z s) (hs : Sub 0x5008001 ps) (p : Nat) (vc : Nat) (last
    : Bool) (pay : List Byte) : Keeps ps z (headIn p vc last pay s) := by
  have k_packetIn : Sub 0x1000001 ps := sub_of hs rfl
  have k_freeCredits : Sub 0x1000000 ps := sub_of hs rfl
  have k_protoError : Sub 0x5008000 ps := sub_of hs rfl
  have k_modPort : Sub 0x1000000 ps := sub_of hs rfl
  unfold headIn
  repeat'
    first
    | with_reducible refine keeps_ite (fun _ => ?_) (fun _ => ?_) | extract_lets | with_reducible assumption
    | with_reducible refine packetIn_keeps ?_ k_packetIn _ _ _
    | with_reducible refine freeCredits_keeps ?_ k_freeCredits _ _ _
    | with_reducible refine protoError_keeps ?_ k_protoError _
    | with_reducible refine modPort_keeps ?_ k_modPort _ _ | intro _ | dsimp +zetaDelta only

theorem bodyIn_keeps {ps : Nat} {z s : State} (hz : Keeps ps z s) (hs : Sub 0x1000001 ps) (p : Nat) (vc : Nat) (last
    : Bool) (pay : List Byte) : Keeps ps z (bodyIn p vc last pay s) := by
  have k_packetIn : Sub 0x1000001 ps := sub_of hs rfl
  have k_freeCredits : Sub 0x1000000 ps := sub_of hs rfl
  have k_modPort : Sub 0x1000000 ps := sub_of hs rfl
  unfold bodyIn
  repeat'
    first
    | with_reducible refine keeps_ite (fun _ => ?_) (fun _ => ?_) | extract_lets | with_reducible assumption
    | with_reducible refine packetIn_keeps ?_ k_packetIn _ _ _
    | with_reducible refine freeCredits_keeps ?_ k_freeCredits _ _ _
    | with_reducible refine modPort_keeps ?_ k_modPort _ _ | intro _ | split | dsimp +zetaDelta only

theorem dataIn_keeps {ps : Nat} {z s : State} (hz : Keeps ps z s) (hs : Sub 0x5008001 ps) (p : Nat) (f : Nat × Bool
    × Bool × List Byte) : Keeps ps z (dataIn p f s) := by
  have k_bodyIn : Sub 0x1000001 ps := sub_of hs rfl
  have k_headIn : Sub 0x5008001 ps := sub_of hs rfl
  unfold dataIn
  repeat'
    first
    | with_reducible refine keeps_ite (fun _ => ?_) (fun _ => ?_) | with_reducible assumption
    | with_reducible refine bodyIn_keeps ?_ k_bodyIn _ _ _ _
    | with_reducible refine headIn_keeps ?_ k_headIn _ _ _ _ | intro _

theorem tagIn_keeps {ps : Nat} {z s : State} (hz : Keeps ps z s) (hs : Sub 0x85008001 ps) (p : Nat) (ok : Bool) :
    Keeps ps z (tagIn p ok s) := by
  have k_dataIn : Sub 0x5008001 ps := sub_of hs rfl
  have k_movePort : Sub 0x5008000 ps := sub_of hs rfl
  have k_modPort : Sub 0x1000000 ps := sub_of hs rfl
  have k_sealLog : Sub 0x80000000 ps := sub_of hs rfl
  unfold tagIn
  repeat'
    first
    | with_reducible refine keeps_foldl ?_ ?_ | with_reducible refine keeps_ite (fun _ => ?_) (fun _ => ?_)
    | extract_lets | with_reducible assumption | with_reducible refine dataIn_keeps ?_ k_dataIn _ _
    | with_reducible refine movePort_keeps ?_ k_movePort _ _ _
    | with_reducible refine modPort_keeps ?_ k_modPort _ _
    | with_reducible refine sealLog_keeps ?_ k_sealLog _ _ _ _ | intro _ | split | dsimp +zetaDelta only

theorem acceptFlit_keeps {ps : Nat} {z s : State} (hz : Keeps ps z s) (hs : Sub 0x85008001 ps) (p : Nat) (f : Flit)
    (tagOk : Bool) : Keeps ps z (acceptFlit p f tagOk s) := by
  have k_tagIn : Sub 0x85008001 ps := sub_of hs rfl
  have k_dataIn : Sub 0x5008001 ps := sub_of hs rfl
  have k_sendAck : Sub 0x1000001 ps := sub_of hs rfl
  have k_modPort : Sub 0x1000000 ps := sub_of hs rfl
  unfold acceptFlit
  repeat'
    first
    | with_reducible refine keeps_ite (fun _ => ?_) (fun _ => ?_) | extract_lets | with_reducible assumption
    | with_reducible refine tagIn_keeps ?_ k_tagIn _ _ | with_reducible refine dataIn_keeps ?_ k_dataIn _ _
    | with_reducible refine sendAck_keeps ?_ k_sendAck _ | with_reducible refine modPort_keeps ?_ k_modPort _ _
    | intro _ | dsimp +zetaDelta only

theorem execFlitReceive_keeps {ps : Nat} {z s : State} (hz : Keeps ps z s) (hs : Sub 0x85008001 ps) (port : Nat) (f
    : Flit) (crcOk : Bool) (tagOk : Bool) :
    ∀ z', execFlitReceive port f crcOk tagOk s = .next z' → Keeps ps z z' := by
  have k_acceptFlit : Sub 0x85008001 ps := sub_of hs rfl
  have k_protoError : Sub 0x5008000 ps := sub_of hs rfl
  have k_sendNak : Sub 0x1000001 ps := sub_of hs rfl
  have k_startReplay : Sub 0x5008001 ps := sub_of hs rfl
  have k_drainPort : Sub 0x1000001 ps := sub_of hs rfl
  have k_modPort : Sub 0x1000000 ps := sub_of hs rfl
  intro z' e'
  unfold execFlitReceive at e'
  cases e'
  repeat'
    first
    | with_reducible refine keeps_ite (fun _ => ?_) (fun _ => ?_) | extract_lets | with_reducible assumption
    | with_reducible refine acceptFlit_keeps ?_ k_acceptFlit _ _ _
    | with_reducible refine protoError_keeps ?_ k_protoError _ | with_reducible refine sendNak_keeps ?_ k_sendNak _
    | with_reducible refine startReplay_keeps ?_ k_startReplay _ _
    | with_reducible refine drainPort_keeps ?_ k_drainPort _ | with_reducible refine modPort_keeps ?_ k_modPort _ _
    | intro _ | dsimp +zetaDelta only

theorem execNak_keeps {ps : Nat} {z s : State} (hz : Keeps ps z s) (hs : Sub 0x5008001 ps) (port : Nat) (seq : Nat)
    : ∀ z', execNak port seq s = .next z' → Keeps ps z z' := by
  have k_startReplay : Sub 0x5008001 ps := sub_of hs rfl
  intro z' e'
  unfold execNak at e'
  cases e'
  repeat'
    first
    | with_reducible refine keeps_ite (fun _ => ?_) (fun _ => ?_) | with_reducible assumption
    | with_reducible refine startReplay_keeps ?_ k_startReplay _ _ | intro _

theorem execReplayTimerExpire_keeps {ps : Nat} {z s : State} (hz : Keeps ps z s) (hs : Sub 0x5008001 ps) (port :
    Nat) : ∀ z', execReplayTimerExpire port s = .next z' → Keeps ps z z' := by
  have k_startReplay : Sub 0x5008001 ps := sub_of hs rfl
  intro z' e'
  unfold execReplayTimerExpire at e'
  cases e'
  repeat'
    first
    | with_reducible refine keeps_ite (fun _ => ?_) (fun _ => ?_) | with_reducible assumption
    | with_reducible refine startReplay_keeps ?_ k_startReplay _ _ | intro _

theorem giveUp_keeps {ps : Nat} {z s : State} (hz : Keeps ps z s) (hs : Sub 0x5008000 ps) (p : Nat) :
    Keeps ps z (giveUp p s) := by
  have k_cableCheck : Sub 0x1008000 ps := sub_of hs rfl
  have k_portDown : Sub 0x5008000 ps := sub_of hs rfl
  have k_modPort : Sub 0x1000000 ps := sub_of hs rfl
  unfold giveUp
  repeat'
    first
    | with_reducible assumption | with_reducible refine cableCheck_keeps ?_ k_cableCheck _
    | with_reducible refine portDown_keeps ?_ k_portDown _ | with_reducible refine modPort_keeps ?_ k_modPort _ _
    | intro _

theorem retrainNow_keeps {ps : Nat} {z s : State} (hz : Keeps ps z s) (hs : Sub 0x5008000 ps) (p : Nat) :
    Keeps ps z (retrainNow p s) := by
  have k_portRetrain : Sub 0x5008000 ps := sub_of hs rfl
  have k_modPort : Sub 0x1000000 ps := sub_of hs rfl
  unfold retrainNow
  repeat'
    first
    | with_reducible refine keeps_ite (fun _ => ?_) (fun _ => ?_) | extract_lets | with_reducible assumption
    | with_reducible refine portRetrain_keeps ?_ k_portRetrain _ _
    | with_reducible refine modPort_keeps ?_ k_modPort _ _ | intro _ | dsimp +zetaDelta only

theorem execRetrain_keeps {ps : Nat} {z s : State} (hz : Keeps ps z s) (hs : Sub 0x5008000 ps) (src : Src) (port :
    Nat) : ∀ z', execRetrain src port s = .next z' → Keeps ps z z' := by
  have k_retrainNow : Sub 0x5008000 ps := sub_of hs rfl
  intro z' e'
  unfold execRetrain at e'
  cases e'
  repeat'
    first
    | with_reducible refine keeps_ite (fun _ => ?_) (fun _ => ?_) | with_reducible assumption
    | with_reducible refine retrainNow_keeps ?_ k_retrainNow _ | intro _

theorem execLaneFailure_keeps {ps : Nat} {z s : State} (hz : Keeps ps z s) (hs : Sub 0x5008000 ps) (port : Nat)
    (lane : Nat) : ∀ z', execLaneFailure port lane s = .next z' → Keeps ps z z' := by
  have k_portRetrain : Sub 0x5008000 ps := sub_of hs rfl
  have k_portDown : Sub 0x5008000 ps := sub_of hs rfl
  have k_modPort : Sub 0x1000000 ps := sub_of hs rfl
  intro z' e'
  unfold execLaneFailure at e'
  cases e'
  repeat'
    first
    | with_reducible refine keeps_ite (fun _ => ?_) (fun _ => ?_) | extract_lets | with_reducible assumption
    | with_reducible refine portRetrain_keeps ?_ k_portRetrain _ _
    | with_reducible refine portDown_keeps ?_ k_portDown _ | with_reducible refine modPort_keeps ?_ k_modPort _ _
    | intro _ | dsimp +zetaDelta only

theorem execRetrainComplete_keeps {ps : Nat} {z s : State} (hz : Keeps ps z s) (hs : Sub 0x5008001 ps) (port : Nat)
    : ∀ z', execRetrainComplete port s = .next z' → Keeps ps z z' := by
  have k_enterUp : Sub 0x5008001 ps := sub_of hs rfl
  have k_emit : Sub 0x1 ps := sub_of hs rfl
  intro z' e'
  unfold execRetrainComplete at e'
  cases e'
  repeat'
    first
    | with_reducible refine keeps_ite (fun _ => ?_) (fun _ => ?_) | extract_lets | with_reducible assumption
    | with_reducible refine enterUp_keeps ?_ k_enterUp _ | with_reducible refine emit_keeps ?_ k_emit _ | intro _
    | dsimp +zetaDelta only

theorem execRetrainLimitExpire_keeps {ps : Nat} {z s : State} (hz : Keeps ps z s) (hs : Sub 0x5008000 ps) (port :
    Nat) : ∀ z', execRetrainLimitExpire port s = .next z' → Keeps ps z z' := by
  have k_giveUp : Sub 0x5008000 ps := sub_of hs rfl
  have k_portDown : Sub 0x5008000 ps := sub_of hs rfl
  intro z' e'
  unfold execRetrainLimitExpire at e'
  cases e'
  repeat'
    first
    | with_reducible refine keeps_ite (fun _ => ?_) (fun _ => ?_) | extract_lets | with_reducible assumption
    | with_reducible refine giveUp_keeps ?_ k_giveUp _ | with_reducible refine portDown_keeps ?_ k_portDown _
    | intro _ | dsimp +zetaDelta only

theorem execTrainingAttempt_keeps {ps : Nat} {z s : State} (hz : Keeps ps z s) (hs : Sub 0x5008000 ps) (port : Nat)
    : ∀ z', execTrainingAttempt port s = .next z' → Keeps ps z z' := by
  have k_portTrain : Sub 0x5008000 ps := sub_of hs rfl
  intro z' e'
  unfold execTrainingAttempt at e'
  cases e'
  repeat'
    first
    | with_reducible refine keeps_ite (fun _ => ?_) (fun _ => ?_) | extract_lets | with_reducible assumption
    | with_reducible refine portTrain_keeps ?_ k_portTrain _ | intro _ | dsimp +zetaDelta only

theorem execTrainingComplete_keeps {ps : Nat} {z s : State} (hz : Keeps ps z s) (hs : Sub 0x5008001 ps) (port : Nat)
    : ∀ z', execTrainingComplete port s = .next z' → Keeps ps z z' := by
  have k_sendHello : Sub 0x1000001 ps := sub_of hs rfl
  have k_movePort : Sub 0x5008000 ps := sub_of hs rfl
  intro z' e'
  unfold execTrainingComplete at e'
  cases e'
  repeat'
    first
    | with_reducible refine keeps_ite (fun _ => ?_) (fun _ => ?_) | extract_lets | with_reducible assumption
    | with_reducible refine sendHello_keeps ?_ k_sendHello _
    | with_reducible refine movePort_keeps ?_ k_movePort _ _ _ | intro _ | dsimp +zetaDelta only

theorem hsOffer_keeps {ps : Nat} {z s : State} (hz : Keeps ps z s) (hs : Sub 0x81000003 ps) (p : Nat) :
    Keeps ps z (hsOffer p s) := by
  have k_sendPort : Sub 0x1000001 ps := sub_of hs rfl
  have k_modPort : Sub 0x1000000 ps := sub_of hs rfl
  have k_sealLog : Sub 0x80000000 ps := sub_of hs rfl
  have k_tookFree : Sub 0x2 ps := sub_of hs rfl
  unfold hsOffer
  repeat'
    first
    | with_reducible refine keeps_ite (fun _ => ?_) (fun _ => ?_) | extract_lets | with_reducible assumption
    | with_reducible refine sendPort_keeps ?_ k_sendPort _ _ | with_reducible refine modPort_keeps ?_ k_modPort _ _
    | with_reducible refine sealLog_keeps ?_ k_sealLog _ _ _ _ | with_reducible refine tookFree_keeps ?_ k_tookFree
    | intro _ | dsimp +zetaDelta only

theorem hsBegin_keeps {ps : Nat} {z s : State} (hz : Keeps ps z s) (hs : Sub 0x81000003 ps) (p : Nat) :
    Keeps ps z (hsBegin p s) := by
  have k_hsOffer : Sub 0x81000003 ps := sub_of hs rfl
  unfold hsBegin
  repeat'
    first
    | with_reducible refine keeps_ite (fun _ => ?_) (fun _ => ?_) | extract_lets | with_reducible assumption
    | with_reducible refine hsOffer_keeps ?_ k_hsOffer _ | intro _ | split | dsimp +zetaDelta only

theorem execHello_keeps {ps : Nat} {z s : State} (hz : Keeps ps z s) (hs : Sub 0x85008003 ps) (port : Nat) (node :
    Nat) (peerPort : Nat) (serial : Nat) (role : Nat) (conf : Bool) (digest : Nat) :
    ∀ z', execHello port node peerPort serial role conf digest s = .next z' → Keeps ps z z' := by
  have k_hsBegin : Sub 0x81000003 ps := sub_of hs rfl
  have k_enterUp : Sub 0x5008001 ps := sub_of hs rfl
  have k_cableCheck : Sub 0x1008000 ps := sub_of hs rfl
  have k_modPort : Sub 0x1000000 ps := sub_of hs rfl
  intro z' e'
  unfold execHello at e'
  cases e'
  repeat'
    first
    | with_reducible refine keeps_ite (fun _ => ?_) (fun _ => ?_) | extract_lets | with_reducible assumption
    | with_reducible refine hsBegin_keeps ?_ k_hsBegin _ | with_reducible refine enterUp_keeps ?_ k_enterUp _
    | with_reducible refine cableCheck_keeps ?_ k_cableCheck _
    | with_reducible refine modPort_keeps ?_ k_modPort _ _ | intro _ | dsimp +zetaDelta only

theorem execHelloResend_keeps {ps : Nat} {z s : State} (hz : Keeps ps z s) (hs : Sub 0x1000001 ps) (port : Nat) :
    ∀ z', execHelloResend port s = .next z' → Keeps ps z z' := by
  have k_sendHello : Sub 0x1000001 ps := sub_of hs rfl
  intro z' e'
  unfold execHelloResend at e'
  cases e'
  repeat'
    first
    | with_reducible refine keeps_ite (fun _ => ?_) (fun _ => ?_) | with_reducible assumption
    | with_reducible refine sendHello_keeps ?_ k_sendHello _ | intro _

theorem execPlanChangeCheck_keeps {ps : Nat} {z s : State} (hz : Keeps ps z s) (hs : Sub 0x1008000 ps) (port : Nat)
    : ∀ z', execPlanChangeCheck port s = .next z' → Keeps ps z z' := by
  have k_cableCheck : Sub 0x1008000 ps := sub_of hs rfl
  intro z' e'
  unfold execPlanChangeCheck at e'
  cases e'
  repeat'
    first
    | with_reducible refine keeps_ite (fun _ => ?_) (fun _ => ?_) | with_reducible assumption
    | with_reducible refine cableCheck_keeps ?_ k_cableCheck _ | intro _

theorem execTransitStallExpire_keeps {ps : Nat} {z s : State} (hz : Keeps ps z s) (hs : Sub 0x1000001 ps) (port :
    Nat) (vc : Nat) : ∀ z', execTransitStallExpire port vc s = .next z' → Keeps ps z z' := by
  have k_freeCredits : Sub 0x1000000 ps := sub_of hs rfl
  have k_drainPort : Sub 0x1000001 ps := sub_of hs rfl
  have k_routeDrop : Sub 0x1000000 ps := sub_of hs rfl
  have k_modPort : Sub 0x1000000 ps := sub_of hs rfl
  intro z' e'
  unfold execTransitStallExpire at e'
  cases e'
  repeat'
    first
    | with_reducible refine keeps_ite (fun _ => ?_) (fun _ => ?_) | extract_lets | with_reducible assumption
    | with_reducible refine freeCredits_keeps ?_ k_freeCredits _ _ _
    | with_reducible refine drainPort_keeps ?_ k_drainPort _
    | with_reducible refine routeDrop_keeps ?_ k_routeDrop _ | with_reducible refine modPort_keeps ?_ k_modPort _ _
    | intro _ | split | dsimp +zetaDelta only

theorem putRoute_keeps {ps : Nat} {z s : State} (hz : Keeps ps z s) (hs : Sub 0x1000000 ps) (table : Nat) (index :
    Nat) (entry : Nat) : Keeps ps z (putRoute table index entry s) := by
  have k_modLnk : Sub 0x1000000 ps := sub_of hs rfl
  unfold putRoute
  repeat'
    first
    | with_reducible refine keeps_ite (fun _ => ?_) (fun _ => ?_) | extract_lets | with_reducible assumption
    | with_reducible refine modLnk_keeps ?_ k_modLnk _ | intro _ | dsimp +zetaDelta only

theorem routeWrite_keeps {ps : Nat} {z s : State} (hz : Keeps ps z s) (hs : Sub 0x1000000 ps)  :
    Keeps ps z (routeWrite s) := by
  have k_putRoute : Sub 0x1000000 ps := sub_of hs rfl
  unfold routeWrite
  repeat'
    first
    | with_reducible refine keeps_ite (fun _ => ?_) (fun _ => ?_) | with_reducible assumption
    | with_reducible refine putRoute_keeps ?_ k_putRoute _ _ _ | intro _

theorem routeRead_keeps {ps : Nat} {z s : State} (hz : Keeps ps z s) (hs : Sub 0x1000000 ps)  :
    Keeps ps z (routeRead s) := by
  have k_modLnk : Sub 0x1000000 ps := sub_of hs rfl
  unfold routeRead
  repeat'
    first
    | with_reducible assumption | with_reducible refine modLnk_keeps ?_ k_modLnk _ | intro _

theorem execRouteWrite_keeps {ps : Nat} {z s : State} (hz : Keeps ps z s) (hs : Sub 0x1000000 ps) (src : Src) :
    ∀ z', execRouteWrite src s = .next z' → Keeps ps z z' := by
  have k_routeWrite : Sub 0x1000000 ps := sub_of hs rfl
  intro z' e'
  unfold execRouteWrite at e'
  cases e'
  repeat'
    first
    | with_reducible refine keeps_ite (fun _ => ?_) (fun _ => ?_) | with_reducible assumption
    | with_reducible refine routeWrite_keeps ?_ k_routeWrite | intro _

theorem execRouteRead_keeps {ps : Nat} {z s : State} (hz : Keeps ps z s) (hs : Sub 0x1000000 ps) (src : Src) :
    ∀ z', execRouteRead src s = .next z' → Keeps ps z z' := by
  have k_routeRead : Sub 0x1000000 ps := sub_of hs rfl
  intro z' e'
  unfold execRouteRead at e'
  cases e'
  repeat'
    first
    | with_reducible refine keeps_ite (fun _ => ?_) (fun _ => ?_) | with_reducible assumption
    | with_reducible refine routeRead_keeps ?_ k_routeRead | intro _

end Sys2Proof.Laws
end

