-- ==== Sys2Proof/Laws/KeepsWaymark.lean ====
section
/-!
SUPPORT. Sys2Proof/Laws/KeepsWaymark.lean: the operations of Sys2Proof/Machine/Waymark.lean keep what Laws/Keeps.lean says.
-/
namespace Sys2Proof.Laws
open Sys2Proof.Machine

theorem sendAll_keeps {ps : Nat} {z s : State} (hz : Keeps ps z s) (hs : Sub 0x1000001 ps) (nodes : List Nat) (m :
    Msg) : Keeps ps z (sendAll nodes m s) := by
  have k_sendTo : Sub 0x1000001 ps := sub_of hs rfl
  unfold sendAll
  repeat'
    first
    | with_reducible refine keeps_foldl ?_ ?_ | with_reducible assumption
    | with_reducible refine sendTo_keeps ?_ k_sendTo _ _ | intro _

theorem startElection_keeps {ps : Nat} {z s : State} (hz : Keeps ps z s) (hs : Sub 0x2000000 ps)  :
    Keeps ps z (startElection s) := by
  have k_modWmk : Sub 0x2000000 ps := sub_of hs rfl
  unfold startElection
  repeat'
    first
    | with_reducible assumption | with_reducible refine modWmk_keeps ?_ k_modWmk _ | intro _

theorem maybeElect_keeps {ps : Nat} {z s : State} (hz : Keeps ps z s) (hs : Sub 0x2000000 ps)  :
    Keeps ps z (maybeElect s) := by
  have k_startElection : Sub 0x2000000 ps := sub_of hs rfl
  unfold maybeElect
  repeat'
    first
    | with_reducible refine keeps_ite (fun _ => ?_) (fun _ => ?_) | with_reducible assumption
    | with_reducible refine startElection_keeps ?_ k_startElection | intro _

theorem postManager_keeps {ps : Nat} {z s : State} (hz : Keeps ps z s) (hs : Sub 0x8000 ps) (node : Nat) (cause :
    Nat) : Keeps ps z (postManager node cause s) := by
  have k_post : Sub 0x8000 ps := sub_of hs rfl
  unfold postManager
  repeat'
    first
    | with_reducible assumption | with_reducible refine post_keeps ?_ k_post _ _ _ _

theorem newManager_keeps {ps : Nat} {z s : State} (hz : Keeps ps z s) (hs : Sub 0x2008000 ps) (node : Nat) (cause :
    Nat) : Keeps ps z (newManager node cause s) := by
  have k_postManager : Sub 0x8000 ps := sub_of hs rfl
  have k_modWmk : Sub 0x2000000 ps := sub_of hs rfl
  unfold newManager
  repeat'
    first
    | with_reducible assumption | with_reducible refine postManager_keeps ?_ k_postManager _ _
    | with_reducible refine modWmk_keeps ?_ k_modWmk _ | intro _

theorem announce_keeps {ps : Nat} {z s : State} (hz : Keeps ps z s) (hs : Sub 0x3000001 ps) (takeover : Bool) :
    Keeps ps z (announce takeover s) := by
  have k_sendAll : Sub 0x1000001 ps := sub_of hs rfl
  have k_modWmk : Sub 0x2000000 ps := sub_of hs rfl
  unfold announce
  repeat'
    first
    | extract_lets | with_reducible assumption | with_reducible refine sendAll_keeps ?_ k_sendAll _ _
    | with_reducible refine modWmk_keeps ?_ k_modWmk _ | intro _ | dsimp +zetaDelta only

theorem becomeActive_keeps {ps : Nat} {z s : State} (hz : Keeps ps z s) (hs : Sub 0x3008001 ps) (takeover : Bool) :
    Keeps ps z (becomeActive takeover s) := by
  have k_announce : Sub 0x3000001 ps := sub_of hs rfl
  have k_newManager : Sub 0x2008000 ps := sub_of hs rfl
  have k_sendTo : Sub 0x1000001 ps := sub_of hs rfl
  have k_modWmk : Sub 0x2000000 ps := sub_of hs rfl
  unfold becomeActive
  repeat'
    first
    | with_reducible refine keeps_ite (fun _ => ?_) (fun _ => ?_) | extract_lets | with_reducible assumption
    | with_reducible refine announce_keeps ?_ k_announce _
    | with_reducible refine newManager_keeps ?_ k_newManager _ _
    | with_reducible refine sendTo_keeps ?_ k_sendTo _ _ | with_reducible refine modWmk_keeps ?_ k_modWmk _
    | intro _ | dsimp +zetaDelta only

theorem execBeaconTimer_keeps {ps : Nat} {z s : State} (hz : Keeps ps z s) (hs : Sub 0x1000001 ps)  :
    ∀ z', execBeaconTimer s = .next z' → Keeps ps z z' := by
  have k_sendAll : Sub 0x1000001 ps := sub_of hs rfl
  intro z' e'
  unfold execBeaconTimer at e'
  cases e'
  repeat'
    first
    | with_reducible refine keeps_ite (fun _ => ?_) (fun _ => ?_) | extract_lets | with_reducible assumption
    | with_reducible refine sendAll_keeps ?_ k_sendAll _ _ | intro _ | dsimp +zetaDelta only

theorem meetPair_keeps {ps : Nat} {z s : State} (hz : Keeps ps z s) (hs : Sub 0x2008000 ps) (node : Nat) (pair : Nat
    × Nat) : Keeps ps z (meetPair node pair s) := by
  have k_post : Sub 0x8000 ps := sub_of hs rfl
  have k_modWmk : Sub 0x2000000 ps := sub_of hs rfl
  unfold meetPair
  repeat'
    first
    | with_reducible refine keeps_ite (fun _ => ?_) (fun _ => ?_) | extract_lets | with_reducible assumption
    | with_reducible refine post_keeps ?_ k_post _ _ _ _ | with_reducible refine modWmk_keeps ?_ k_modWmk _
    | intro _ | dsimp +zetaDelta only

theorem execBeacon_keeps {ps : Nat} {z s : State} (hz : Keeps ps z s) (hs : Sub 0x3008000 ps) (port : Nat) (node :
    Nat) (prio : Nat) (serial : Nat) (term : Nat) (held : Bool) :
    ∀ z', execBeacon port node prio serial term held s = .next z' → Keeps ps z z' := by
  have k_meetPair : Sub 0x2008000 ps := sub_of hs rfl
  have k_startElection : Sub 0x2000000 ps := sub_of hs rfl
  have k_routeDrop : Sub 0x1000000 ps := sub_of hs rfl
  have k_modWmk : Sub 0x2000000 ps := sub_of hs rfl
  intro z' e'
  unfold execBeacon at e'
  cases e'
  repeat'
    first
    | with_reducible refine keeps_ite (fun _ => ?_) (fun _ => ?_) | extract_lets | with_reducible assumption
    | with_reducible refine meetPair_keeps ?_ k_meetPair _ _
    | with_reducible refine startElection_keeps ?_ k_startElection
    | with_reducible refine routeDrop_keeps ?_ k_routeDrop _ | with_reducible refine modWmk_keeps ?_ k_modWmk _
    | intro _ | dsimp +zetaDelta only

theorem execClaimExpire_keeps {ps : Nat} {z s : State} (hz : Keeps ps z s) (hs : Sub 0x3008001 ps)  :
    ∀ z', execClaimExpire s = .next z' → Keeps ps z z' := by
  have k_becomeActive : Sub 0x3008001 ps := sub_of hs rfl
  intro z' e'
  unfold execClaimExpire at e'
  cases e'
  repeat'
    first
    | with_reducible refine keeps_ite (fun _ => ?_) (fun _ => ?_) | with_reducible assumption
    | with_reducible refine becomeActive_keeps ?_ k_becomeActive _ | intro _

theorem execAnnounceTimer_keeps {ps : Nat} {z s : State} (hz : Keeps ps z s) (hs : Sub 0x3000001 ps)  :
    ∀ z', execAnnounceTimer s = .next z' → Keeps ps z z' := by
  have k_announce : Sub 0x3000001 ps := sub_of hs rfl
  intro z' e'
  unfold execAnnounceTimer at e'
  cases e'
  repeat'
    first
    | with_reducible refine keeps_ite (fun _ => ?_) (fun _ => ?_) | with_reducible assumption
    | with_reducible refine announce_keeps ?_ k_announce _ | intro _

theorem resync_keeps {ps : Nat} {z s : State} (hz : Keeps ps z s) (hs : Sub 0x1000001 ps) (node : Nat) :
    Keeps ps z (resync node s) := by
  have k_sendTo : Sub 0x1000001 ps := sub_of hs rfl
  unfold resync
  repeat'
    first
    | with_reducible assumption | with_reducible refine sendTo_keeps ?_ k_sendTo _ _

theorem execAnnounce_keeps {ps : Nat} {z s : State} (hz : Keeps ps z s) (hs : Sub 0x3008001 ps) (port : Nat) (node :
    Nat) (term : Nat) (standby : Option Nat) (takeover : Bool) :
    ∀ z', execAnnounce port node term standby takeover s = .next z' → Keeps ps z z' := by
  have k_resync : Sub 0x1000001 ps := sub_of hs rfl
  have k_newManager : Sub 0x2008000 ps := sub_of hs rfl
  have k_routeDrop : Sub 0x1000000 ps := sub_of hs rfl
  have k_modWmk : Sub 0x2000000 ps := sub_of hs rfl
  intro z' e'
  unfold execAnnounce at e'
  cases e'
  repeat'
    first
    | with_reducible refine keeps_ite (fun _ => ?_) (fun _ => ?_) | extract_lets | with_reducible assumption
    | with_reducible refine resync_keeps ?_ k_resync _ | with_reducible refine newManager_keeps ?_ k_newManager _ _
    | with_reducible refine routeDrop_keeps ?_ k_routeDrop _ | with_reducible refine modWmk_keeps ?_ k_modWmk _
    | intro _ | dsimp +zetaDelta only

theorem execKeepaliveTimer_keeps {ps : Nat} {z s : State} (hz : Keeps ps z s) (hs : Sub 0x1000001 ps)  :
    ∀ z', execKeepaliveTimer s = .next z' → Keeps ps z z' := by
  have k_sendTo : Sub 0x1000001 ps := sub_of hs rfl
  intro z' e'
  unfold execKeepaliveTimer at e'
  cases e'
  repeat'
    first
    | with_reducible assumption | with_reducible refine sendTo_keeps ?_ k_sendTo _ _ | split

theorem execKeepalive_keeps {ps : Nat} {z s : State} (hz : Keeps ps z s) (hs : Sub 0x3000000 ps) (port : Nat) (node
    : Nat) (term : Nat) (step : Nat) (arrived : List Nat) :
    ∀ z', execKeepalive port node term step arrived s = .next z' → Keeps ps z z' := by
  have k_routeDrop : Sub 0x1000000 ps := sub_of hs rfl
  have k_modWmk : Sub 0x2000000 ps := sub_of hs rfl
  intro z' e'
  unfold execKeepalive at e'
  cases e'
  repeat'
    first
    | with_reducible refine keeps_ite (fun _ => ?_) (fun _ => ?_) | with_reducible assumption
    | with_reducible refine routeDrop_keeps ?_ k_routeDrop _ | with_reducible refine modWmk_keeps ?_ k_modWmk _
    | intro _

theorem takeOver_keeps {ps : Nat} {z s : State} (hz : Keeps ps z s) (hs : Sub 0x3008001 ps)  :
    Keeps ps z (takeOver s) := by
  have k_becomeActive : Sub 0x3008001 ps := sub_of hs rfl
  have k_modWmk : Sub 0x2000000 ps := sub_of hs rfl
  unfold takeOver
  repeat'
    first
    | with_reducible assumption | with_reducible refine becomeActive_keeps ?_ k_becomeActive _
    | with_reducible refine modWmk_keeps ?_ k_modWmk _ | intro _

theorem execKeepaliveLoss_keeps {ps : Nat} {z s : State} (hz : Keeps ps z s) (hs : Sub 0x3008001 ps)  :
    ∀ z', execKeepaliveLoss s = .next z' → Keeps ps z z' := by
  have k_takeOver : Sub 0x3008001 ps := sub_of hs rfl
  intro z' e'
  unfold execKeepaliveLoss at e'
  cases e'
  repeat'
    first
    | with_reducible refine keeps_ite (fun _ => ?_) (fun _ => ?_) | with_reducible assumption
    | with_reducible refine takeOver_keeps ?_ k_takeOver | intro _

theorem execRelinquish_keeps {ps : Nat} {z s : State} (hz : Keeps ps z s) (hs : Sub 0x3008001 ps) (port : Nat) (node
    : Nat) : ∀ z', execRelinquish port node s = .next z' → Keeps ps z z' := by
  have k_takeOver : Sub 0x3008001 ps := sub_of hs rfl
  have k_routeDrop : Sub 0x1000000 ps := sub_of hs rfl
  intro z' e'
  unfold execRelinquish at e'
  cases e'
  repeat'
    first
    | with_reducible refine keeps_ite (fun _ => ?_) (fun _ => ?_) | with_reducible assumption
    | with_reducible refine takeOver_keeps ?_ k_takeOver | with_reducible refine routeDrop_keeps ?_ k_routeDrop _
    | intro _

theorem execAnnounceWatchExpire_keeps {ps : Nat} {z s : State} (hz : Keeps ps z s) (hs : Sub 0x2000000 ps)  :
    ∀ z', execAnnounceWatchExpire s = .next z' → Keeps ps z z' := by
  have k_startElection : Sub 0x2000000 ps := sub_of hs rfl
  intro z' e'
  unfold execAnnounceWatchExpire at e'
  cases e'
  repeat'
    first
    | with_reducible refine keeps_ite (fun _ => ?_) (fun _ => ?_) | with_reducible assumption
    | with_reducible refine startElection_keeps ?_ k_startElection | intro _

theorem execNoManagerExpire_keeps {ps : Nat} {z s : State} (hz : Keeps ps z s) (hs : Sub 0xfffffffff ps)  :
    ∀ z', execNoManagerExpire s = .next z' → Keeps ps z z' := by
  have k_advance : Sub 0xfffffffff ps := sub_of hs rfl
  have k_postManager : Sub 0x8000 ps := sub_of hs rfl
  have k_alertPost : Sub 0x101 ps := sub_of hs rfl
  have k_modWmk : Sub 0x2000000 ps := sub_of hs rfl
  intro z' e'
  unfold execNoManagerExpire at e'
  cases e'
  repeat'
    first
    | with_reducible refine keeps_ite (fun _ => ?_) (fun _ => ?_) | extract_lets | with_reducible assumption
    | with_reducible refine advance_keeps ?_ k_advance _
    | with_reducible refine postManager_keeps ?_ k_postManager _ _
    | with_reducible refine alertPost_keeps ?_ k_alertPost _ | with_reducible refine modWmk_keeps ?_ k_modWmk _
    | intro _ | dsimp +zetaDelta only

theorem applyAdvance_keeps {ps : Nat} {z s : State} (hz : Keeps ps z s) (hs : Sub 0xfffffffff ps) (a : Advance) :
    Keeps ps z (applyAdvance a s) := by
  have k_advance : Sub 0xfffffffff ps := sub_of hs rfl
  have k_ckpApply : Sub 0x40008000 ps := sub_of hs rfl
  have k_updateEvent : Sub 0x86ffe8001 ps := sub_of hs rfl
  have k_modWmk : Sub 0x2000000 ps := sub_of hs rfl
  unfold applyAdvance
  repeat'
    first
    | with_reducible refine keeps_ite (fun _ => ?_) (fun _ => ?_) | extract_lets | with_reducible assumption
    | with_reducible refine advance_keeps ?_ k_advance _ | with_reducible refine ckpApply_keeps ?_ k_ckpApply _ _
    | with_reducible refine updateEvent_keeps ?_ k_updateEvent _ _
    | with_reducible refine modWmk_keeps ?_ k_modWmk _ | intro _ | split | dsimp +zetaDelta only

theorem sendAdvance_keeps {ps : Nat} {z s : State} (hz : Keeps ps z s) (hs : Sub 0x1000001 ps) (a : Advance) :
    Keeps ps z (sendAdvance a s) := by
  have k_sendAll : Sub 0x1000001 ps := sub_of hs rfl
  unfold sendAdvance
  repeat'
    first
    | with_reducible assumption | with_reducible refine sendAll_keeps ?_ k_sendAll _ _

theorem takeAdvance_keeps {ps : Nat} {z s : State} (hz : Keeps ps z s) (hs : Sub 0xfffffffff ps) (a : Advance) :
    Keeps ps z (takeAdvance a s) := by
  have k_advance : Sub 0xfffffffff ps := sub_of hs rfl
  have k_sendAdvance : Sub 0x1000001 ps := sub_of hs rfl
  have k_applyAdvance : Sub 0xfffffffff ps := sub_of hs rfl
  have k_modWmk : Sub 0x2000000 ps := sub_of hs rfl
  unfold takeAdvance
  repeat'
    first
    | with_reducible refine keeps_ite (fun _ => ?_) (fun _ => ?_) | extract_lets | with_reducible assumption
    | with_reducible refine advance_keeps ?_ k_advance _
    | with_reducible refine sendAdvance_keeps ?_ k_sendAdvance _
    | with_reducible refine applyAdvance_keeps ?_ k_applyAdvance _
    | with_reducible refine modWmk_keeps ?_ k_modWmk _ | intro _ | dsimp +zetaDelta only

theorem sendArrive_keeps {ps : Nat} {z s : State} (hz : Keeps ps z s) (hs : Sub 0x1000001 ps)  :
    Keeps ps z (sendArrive s) := by
  have k_sendTo : Sub 0x1000001 ps := sub_of hs rfl
  have k_sendPort : Sub 0x1000001 ps := sub_of hs rfl
  unfold sendArrive
  repeat'
    first
    | with_reducible refine keeps_ite (fun _ => ?_) (fun _ => ?_) | extract_lets | with_reducible assumption
    | with_reducible refine sendTo_keeps ?_ k_sendTo _ _ | with_reducible refine sendPort_keeps ?_ k_sendPort _ _
    | intro _ | split | dsimp +zetaDelta only

theorem forwardArrive_keeps {ps : Nat} {z s : State} (hz : Keeps ps z s) (hs : Sub 0xfffffffff ps)  :
    Keeps ps z (forwardArrive s) := by
  have k_sendArrive : Sub 0x1000001 ps := sub_of hs rfl
  have k_takeAdvance : Sub 0xfffffffff ps := sub_of hs rfl
  have k_modWmk : Sub 0x2000000 ps := sub_of hs rfl
  unfold forwardArrive
  repeat'
    first
    | with_reducible refine keeps_ite (fun _ => ?_) (fun _ => ?_) | extract_lets | with_reducible assumption
    | with_reducible refine sendArrive_keeps ?_ k_sendArrive
    | with_reducible refine takeAdvance_keeps ?_ k_takeAdvance _ | with_reducible refine modWmk_keeps ?_ k_modWmk _
    | intro _ | dsimp +zetaDelta only

theorem ownArrive_keeps {ps : Nat} {z s : State} (hz : Keeps ps z s) (hs : Sub 0xfffffffff ps)  :
    Keeps ps z (ownArrive s) := by
  have k_forwardArrive : Sub 0xfffffffff ps := sub_of hs rfl
  have k_modWmk : Sub 0x2000000 ps := sub_of hs rfl
  unfold ownArrive
  repeat'
    first
    | with_reducible refine keeps_ite (fun _ => ?_) (fun _ => ?_) | extract_lets | with_reducible assumption
    | with_reducible refine forwardArrive_keeps ?_ k_forwardArrive
    | with_reducible refine modWmk_keeps ?_ k_modWmk _ | intro _ | dsimp +zetaDelta only

theorem execArriveSignal_keeps {ps : Nat} {z s : State} (hz : Keeps ps z s) (hs : Sub 0xfffffffff ps)  :
    ∀ z', execArriveSignal s = .next z' → Keeps ps z z' := by
  have k_ownArrive : Sub 0xfffffffff ps := sub_of hs rfl
  intro z' e'
  unfold execArriveSignal at e'
  cases e'
  repeat'
    first
    | with_reducible refine keeps_ite (fun _ => ?_) (fun _ => ?_) | with_reducible assumption
    | with_reducible refine ownArrive_keeps ?_ k_ownArrive | intro _

theorem execArrive_keeps {ps : Nat} {z s : State} (hz : Keeps ps z s) (hs : Sub 0xfffffffff ps) (port : Nat) (node :
    Nat) (step : Nat) : ∀ z', execArrive port node step s = .next z' → Keeps ps z z' := by
  have k_forwardArrive : Sub 0xfffffffff ps := sub_of hs rfl
  have k_modWmk : Sub 0x2000000 ps := sub_of hs rfl
  intro z' e'
  unfold execArrive at e'
  cases e'
  repeat'
    first
    | with_reducible refine keeps_ite (fun _ => ?_) (fun _ => ?_) | with_reducible assumption
    | with_reducible refine forwardArrive_keeps ?_ k_forwardArrive
    | with_reducible refine modWmk_keeps ?_ k_modWmk _ | intro _

theorem execAdvance_keeps {ps : Nat} {z s : State} (hz : Keeps ps z s) (hs : Sub 0xfffffffff ps) (port : Nat) (node
    : Nat) (term : Nat) (step : Nat) (time : Nat) (set : Bool) :
    ∀ z', execAdvance port node term step time set s = .next z' → Keeps ps z z' := by
  have k_takeAdvance : Sub 0xfffffffff ps := sub_of hs rfl
  have k_modWmk : Sub 0x2000000 ps := sub_of hs rfl
  intro z' e'
  unfold execAdvance at e'
  cases e'
  repeat'
    first
    | with_reducible refine keeps_ite (fun _ => ?_) (fun _ => ?_) | with_reducible assumption
    | with_reducible refine takeAdvance_keeps ?_ k_takeAdvance _ | with_reducible refine modWmk_keeps ?_ k_modWmk _
    | intro _

theorem execAdvanceApply_keeps {ps : Nat} {z s : State} (hz : Keeps ps z s) (hs : Sub 0xfffffffff ps)  :
    ∀ z', execAdvanceApply s = .next z' → Keeps ps z z' := by
  have k_ownArrive : Sub 0xfffffffff ps := sub_of hs rfl
  have k_applyAdvance : Sub 0xfffffffff ps := sub_of hs rfl
  have k_modWmk : Sub 0x2000000 ps := sub_of hs rfl
  intro z' e'
  unfold execAdvanceApply at e'
  cases e'
  repeat'
    first
    | with_reducible refine keeps_ite (fun _ => ?_) (fun _ => ?_) | extract_lets | with_reducible assumption
    | with_reducible refine ownArrive_keeps ?_ k_ownArrive
    | with_reducible refine applyAdvance_keeps ?_ k_applyAdvance _
    | with_reducible refine modWmk_keeps ?_ k_modWmk _ | intro _ | split | dsimp +zetaDelta only

theorem stepSet_keeps {ps : Nat} {z s : State} (hz : Keeps ps z s) (hs : Sub 0xfffffffff ps) (v : Nat) :
    Keeps ps z (stepSet v s) := by
  have k_takeAdvance : Sub 0xfffffffff ps := sub_of hs rfl
  unfold stepSet
  repeat'
    first
    | with_reducible refine keeps_ite (fun _ => ?_) (fun _ => ?_) | with_reducible assumption
    | with_reducible refine takeAdvance_keeps ?_ k_takeAdvance _ | intro _

theorem execStepSet_keeps {ps : Nat} {z s : State} (hz : Keeps ps z s) (hs : Sub 0xfffffffff ps) (src : Src) (v :
    DWord) : ∀ z', execStepSet src v s = .next z' → Keeps ps z z' := by
  have k_stepSet : Sub 0xfffffffff ps := sub_of hs rfl
  intro z' e'
  unfold execStepSet at e'
  cases e'
  repeat'
    first
    | with_reducible refine keeps_ite (fun _ => ?_) (fun _ => ?_) | with_reducible assumption
    | with_reducible refine stepSet_keeps ?_ k_stepSet _ | intro _

theorem sendPlan_keeps {ps : Nat} {z t : State} (hz : Keeps ps z t) (hs : Sub 0x1000001 ps) (s : State) (p :
    DomainPlan) (c : PlanChip) : Keeps ps z (sendPlan s p c t) := by
  have k_sendTo : Sub 0x1000001 ps := sub_of hs rfl
  unfold sendPlan
  repeat'
    first
    | with_reducible refine keeps_ite (fun _ => ?_) (fun _ => ?_) | extract_lets | with_reducible assumption
    | with_reducible refine sendTo_keeps ?_ k_sendTo _ _ | intro _ | dsimp +zetaDelta only

theorem execResyncReport_keeps {ps : Nat} {z s : State} (hz : Keeps ps z s) (hs : Sub 0xfffffffff ps) (node : Nat)
    (step : Nat) (arrived : Bool) : ∀ z', execResyncReport node step arrived s = .next z' → Keeps ps z z' := by
  have k_sendPlan : Sub 0x1000001 ps := sub_of hs rfl
  have k_forwardArrive : Sub 0xfffffffff ps := sub_of hs rfl
  have k_applyAdvance : Sub 0xfffffffff ps := sub_of hs rfl
  have k_sendTo : Sub 0x1000001 ps := sub_of hs rfl
  have k_modWmk : Sub 0x2000000 ps := sub_of hs rfl
  intro z' e'
  unfold execResyncReport at e'
  cases e'
  repeat'
    first
    | with_reducible refine keeps_ite (fun _ => ?_) (fun _ => ?_) | extract_lets | with_reducible assumption
    | with_reducible refine sendPlan_keeps ?_ k_sendPlan _ _ _
    | with_reducible refine forwardArrive_keeps ?_ k_forwardArrive
    | with_reducible refine applyAdvance_keeps ?_ k_applyAdvance _
    | with_reducible refine sendTo_keeps ?_ k_sendTo _ _ | with_reducible refine modWmk_keeps ?_ k_modWmk _
    | intro _ | split | dsimp +zetaDelta only

theorem setPlan_keeps {ps : Nat} {z s : State} (hz : Keeps ps z s) (hs : Sub 0x1000000 ps) (p : Nat) (v : Nat) :
    Keeps ps z (setPlan p v s) := by
  have k_modPort : Sub 0x1000000 ps := sub_of hs rfl
  unfold setPlan
  repeat'
    first
    | with_reducible assumption | with_reducible refine modPort_keeps ?_ k_modPort _ _ | intro _

theorem takePlan_keeps {ps : Nat} {z s : State} (hz : Keeps ps z s) (hs : Sub 0x3000000 ps) (treePort : Nat) (plans
    : List Nat) (routes : List PlanRoute) : Keeps ps z (takePlan treePort plans routes s) := by
  have k_setPlan : Sub 0x1000000 ps := sub_of hs rfl
  have k_putRoute : Sub 0x1000000 ps := sub_of hs rfl
  have k_modWmk : Sub 0x2000000 ps := sub_of hs rfl
  unfold takePlan
  repeat'
    first
    | with_reducible refine keeps_foldl ?_ ?_ | with_reducible refine keeps_ite (fun _ => ?_) (fun _ => ?_)
    | extract_lets | with_reducible assumption | with_reducible refine setPlan_keeps ?_ k_setPlan _ _
    | with_reducible refine putRoute_keeps ?_ k_putRoute _ _ _ | with_reducible refine modWmk_keeps ?_ k_modWmk _
    | intro _ | dsimp +zetaDelta only

theorem loadPlan_keeps {ps : Nat} {z s : State} (hz : Keeps ps z s) (hs : Sub 0x3000001 ps) (magic : Nat) (nChips :
    Nat) (nRoutes : Nat) (domain : Nat) (p : DomainPlan) :
    Keeps ps z (loadPlan magic nChips nRoutes domain p s) := by
  have k_takePlan : Sub 0x3000000 ps := sub_of hs rfl
  have k_sendPlan : Sub 0x1000001 ps := sub_of hs rfl
  have k_modWmk : Sub 0x2000000 ps := sub_of hs rfl
  unfold loadPlan
  repeat'
    first
    | with_reducible refine keeps_foldl ?_ ?_ | with_reducible refine keeps_ite (fun _ => ?_) (fun _ => ?_)
    | extract_lets | with_reducible assumption | with_reducible refine takePlan_keeps ?_ k_takePlan _ _ _
    | with_reducible refine sendPlan_keeps ?_ k_sendPlan _ _ _ | with_reducible refine modWmk_keeps ?_ k_modWmk _
    | intro _ | split | dsimp +zetaDelta only

theorem execPlanLoad_keeps {ps : Nat} {z s : State} (hz : Keeps ps z s) (hs : Sub 0x3000001 ps) (src : Src) (magic :
    Nat) (nChips : Nat) (nRoutes : Nat) (domain : Nat) (chips : List PlanChip) (routes : List PlanRoute) :
    ∀ z', execPlanLoad src magic nChips nRoutes domain chips routes s = .next z' → Keeps ps z z' := by
  have k_loadPlan : Sub 0x3000001 ps := sub_of hs rfl
  intro z' e'
  unfold execPlanLoad at e'
  cases e'
  repeat'
    first
    | with_reducible refine keeps_ite (fun _ => ?_) (fun _ => ?_) | with_reducible assumption
    | with_reducible refine loadPlan_keeps ?_ k_loadPlan _ _ _ _ _ | intro _

theorem execPlan_keeps {ps : Nat} {z s : State} (hz : Keeps ps z s) (hs : Sub 0x3000000 ps) (port : Nat) (node :
    Nat) (treePort : Nat) (plans : List Nat) (routes : List PlanRoute) :
    ∀ z', execPlan port node treePort plans routes s = .next z' → Keeps ps z z' := by
  have k_takePlan : Sub 0x3000000 ps := sub_of hs rfl
  have k_routeDrop : Sub 0x1000000 ps := sub_of hs rfl
  intro z' e'
  unfold execPlan at e'
  cases e'
  repeat'
    first
    | with_reducible refine keeps_ite (fun _ => ?_) (fun _ => ?_) | with_reducible assumption
    | with_reducible refine takePlan_keeps ?_ k_takePlan _ _ _
    | with_reducible refine routeDrop_keeps ?_ k_routeDrop _ | intro _

theorem execHealthSummaryTimer_keeps {ps : Nat} {z s : State} (hz : Keeps ps z s) (hs : Sub 0x1000003 ps)  :
    ∀ z', execHealthSummaryTimer s = .next z' → Keeps ps z z' := by
  have k_sendTo : Sub 0x1000001 ps := sub_of hs rfl
  have k_tookFree : Sub 0x2 ps := sub_of hs rfl
  intro z' e'
  unfold execHealthSummaryTimer at e'
  cases e'
  repeat'
    first
    | with_reducible refine keeps_ite (fun _ => ?_) (fun _ => ?_) | extract_lets | with_reducible assumption
    | with_reducible refine sendTo_keeps ?_ k_sendTo _ _ | with_reducible refine tookFree_keeps ?_ k_tookFree
    | intro _ | split | dsimp +zetaDelta only

theorem execHealthSummary_keeps {ps : Nat} {z s : State} (hz : Keeps ps z s) (hs : Sub 0x2000000 ps) (node : Nat)
    (summary : Nat) : ∀ z', execHealthSummary node summary s = .next z' → Keeps ps z z' := by
  have k_modWmk : Sub 0x2000000 ps := sub_of hs rfl
  intro z' e'
  unfold execHealthSummary at e'
  cases e'
  repeat'
    first
    | with_reducible refine keeps_ite (fun _ => ?_) (fun _ => ?_) | extract_lets | with_reducible assumption
    | with_reducible refine modWmk_keeps ?_ k_modWmk _ | intro _ | dsimp +zetaDelta only

theorem execHealthSummaryMissing_keeps {ps : Nat} {z s : State} (hz : Keeps ps z s) (hs : Sub 0x2000000 ps) (node :
    Nat) : ∀ z', execHealthSummaryMissing node s = .next z' → Keeps ps z z' := by
  have k_modWmk : Sub 0x2000000 ps := sub_of hs rfl
  intro z' e'
  unfold execHealthSummaryMissing at e'
  cases e'
  repeat'
    first
    | with_reducible refine keeps_ite (fun _ => ?_) (fun _ => ?_) | extract_lets | with_reducible assumption
    | with_reducible refine modWmk_keeps ?_ k_modWmk _ | intro _ | dsimp +zetaDelta only

theorem execSyncReqTimer_keeps {ps : Nat} {z s : State} (hz : Keeps ps z s) (hs : Sub 0x3000001 ps)  :
    ∀ z', execSyncReqTimer s = .next z' → Keeps ps z z' := by
  have k_sendTo : Sub 0x1000001 ps := sub_of hs rfl
  have k_sendPort : Sub 0x1000001 ps := sub_of hs rfl
  have k_modWmk : Sub 0x2000000 ps := sub_of hs rfl
  intro z' e'
  unfold execSyncReqTimer at e'
  cases e'
  repeat'
    first
    | with_reducible refine keeps_ite (fun _ => ?_) (fun _ => ?_) | extract_lets | with_reducible assumption
    | with_reducible refine sendTo_keeps ?_ k_sendTo _ _ | with_reducible refine sendPort_keeps ?_ k_sendPort _ _
    | with_reducible refine modWmk_keeps ?_ k_modWmk _ | intro _ | split | dsimp +zetaDelta only

theorem execSyncReq_keeps {ps : Nat} {z s : State} (hz : Keeps ps z s) (hs : Sub 0x3000001 ps) (port : Nat) (node :
    Nat) (t1 : Nat) : ∀ z', execSyncReq port node t1 s = .next z' → Keeps ps z z' := by
  have k_sendTo : Sub 0x1000001 ps := sub_of hs rfl
  have k_sendPort : Sub 0x1000001 ps := sub_of hs rfl
  have k_modWmk : Sub 0x2000000 ps := sub_of hs rfl
  intro z' e'
  unfold execSyncReq at e'
  cases e'
  repeat'
    first
    | with_reducible refine keeps_ite (fun _ => ?_) (fun _ => ?_) | extract_lets | with_reducible assumption
    | with_reducible refine sendTo_keeps ?_ k_sendTo _ _ | with_reducible refine sendPort_keeps ?_ k_sendPort _ _
    | with_reducible refine modWmk_keeps ?_ k_modWmk _ | intro _ | split | dsimp +zetaDelta only

theorem enterSynced_keeps {ps : Nat} {z s : State} (hz : Keeps ps z s) (hs : Sub 0x2003202 ps)  :
    Keeps ps z (enterSynced s) := by
  have k_ledgerLoad : Sub 0x3202 ps := sub_of hs rfl
  have k_modWmk : Sub 0x2000000 ps := sub_of hs rfl
  unfold enterSynced
  repeat'
    first
    | with_reducible assumption | with_reducible refine ledgerLoad_keeps ?_ k_ledgerLoad
    | with_reducible refine modWmk_keeps ?_ k_modWmk _ | intro _

theorem correct_keeps {ps : Nat} {z s : State} (hz : Keeps ps z s) (hs : Sub 0x2003202 ps) (offset : Int) (bound :
    Nat) : Keeps ps z (correct offset bound s) := by
  have k_enterSynced : Sub 0x2003202 ps := sub_of hs rfl
  have k_logNotice : Sub 0x2200 ps := sub_of hs rfl
  have k_modWmk : Sub 0x2000000 ps := sub_of hs rfl
  unfold correct
  repeat'
    first
    | with_reducible refine keeps_ite (fun _ => ?_) (fun _ => ?_) | extract_lets | with_reducible assumption
    | with_reducible refine enterSynced_keeps ?_ k_enterSynced
    | with_reducible refine logNotice_keeps ?_ k_logNotice _ _ | with_reducible refine modWmk_keeps ?_ k_modWmk _
    | intro _ | dsimp +zetaDelta only

theorem execSyncReply_keeps {ps : Nat} {z s : State} (hz : Keeps ps z s) (hs : Sub 0x2003202 ps) (t2 : Nat) (t3 :
    Nat) (bound : Nat) : ∀ z', execSyncReply t2 t3 bound s = .next z' → Keeps ps z z' := by
  have k_correct : Sub 0x2003202 ps := sub_of hs rfl
  intro z' e'
  unfold execSyncReply at e'
  cases e'
  repeat'
    first
    | extract_lets | with_reducible assumption | with_reducible refine correct_keeps ?_ k_correct _ _ | split
    | dsimp +zetaDelta only

theorem execWmkPpsEdge_keeps {ps : Nat} {z s : State} (hz : Keeps ps z s) (hs : Sub 0x2000000 ps)  :
    ∀ z', execWmkPpsEdge s = .next z' → Keeps ps z z' := by
  have k_modWmk : Sub 0x2000000 ps := sub_of hs rfl
  intro z' e'
  unfold execWmkPpsEdge at e'
  cases e'
  repeat'
    first
    | with_reducible refine keeps_ite (fun _ => ?_) (fun _ => ?_) | extract_lets | with_reducible assumption
    | with_reducible refine modWmk_keeps ?_ k_modWmk _ | intro _ | dsimp +zetaDelta only

theorem timeSet_keeps {ps : Nat} {z s : State} (hz : Keeps ps z s) (hs : Sub 0x2000000 ps) (v : Nat) :
    Keeps ps z (timeSet v s) := by
  have k_modWmk : Sub 0x2000000 ps := sub_of hs rfl
  unfold timeSet
  repeat'
    first
    | with_reducible refine keeps_ite (fun _ => ?_) (fun _ => ?_) | with_reducible assumption
    | with_reducible refine modWmk_keeps ?_ k_modWmk _ | intro _

theorem execTimeSet_keeps {ps : Nat} {z s : State} (hz : Keeps ps z s) (hs : Sub 0x2000000 ps) (src : Src) (v :
    DWord) : ∀ z', execTimeSet src v s = .next z' → Keeps ps z z' := by
  have k_timeSet : Sub 0x2000000 ps := sub_of hs rfl
  intro z' e'
  unfold execTimeSet at e'
  cases e'
  repeat'
    first
    | with_reducible refine keeps_ite (fun _ => ?_) (fun _ => ?_) | with_reducible assumption
    | with_reducible refine timeSet_keeps ?_ k_timeSet _ | intro _

end Sys2Proof.Laws
end

