-- ==== Sys2Proof/Laws/KeepsObjects.lean ====
section
/-!
SUPPORT. Sys2Proof/Laws/KeepsObjects.lean: the operations of Sys2Proof/Machine/Objects.lean keep what Laws/Keeps.lean says.
-/
namespace Sys2Proof.Laws
open Sys2Proof.Machine

theorem endD_keeps {ps : Nat} {z s : State} (hz : Keeps ps z s) (hs : Sub 0x8000 ps) (d : Desc) (r : Result) :
    Keeps ps z (endD d r s) := by
  have k_endDesc : Sub 0x8000 ps := sub_of hs rfl
  unfold endD
  repeat'
    first
    | with_reducible assumption | with_reducible refine endDesc_keeps ?_ k_endDesc _ _ _

theorem uniformRefuse_keeps {ps : Nat} {z s : State} (hz : Keeps ps z s) (hs : Sub 0x80008000 ps) (d : Desc) (reason
    : Nat) : Keeps ps z (uniformRefuse d reason s) := by
  have k_sealLog : Sub 0x80000000 ps := sub_of hs rfl
  have k_runDesc : Sub 0x8000 ps := sub_of hs rfl
  have k_modSec : Sub 0x80000000 ps := sub_of hs rfl
  unfold uniformRefuse
  repeat'
    first
    | extract_lets | with_reducible assumption | with_reducible refine sealLog_keeps ?_ k_sealLog _ _ _ _
    | with_reducible refine runDesc_keeps ?_ k_runDesc _ _ _ | with_reducible refine modSec_keeps ?_ k_modSec _
    | intro _ | dsimp +zetaDelta only

theorem execNop_keeps {ps : Nat} {z s : State} (hz : Keeps ps z s) (hs : Sub 0x8000 ps) (qp : Nat) (sub : Nat) :
    ∀ z', execNop qp sub s = .next z' → Keeps ps z z' := by
  have k_endD : Sub 0x8000 ps := sub_of hs rfl
  have k_onStarted : Sub 0x0 ps := sub_of hs rfl
  intro z' e'
  unfold execNop at e'
  cases e'
  repeat'
    first
    | with_reducible assumption | with_reducible refine endD_keeps ?_ k_endD _ _
    | with_reducible refine onStarted_keeps ?_ k_onStarted _ _ _ _ ?_ | intro _

theorem execAckAttention_keeps {ps : Nat} {z s : State} (hz : Keeps ps z s) (hs : Sub 0x8000 ps) (qp : Nat) (sub :
    Nat) : ∀ z', execAckAttention qp sub s = .next z' → Keeps ps z z' := by
  have k_endD : Sub 0x8000 ps := sub_of hs rfl
  have k_guarded : Sub 0x8000 ps := sub_of hs rfl
  have k_onStarted : Sub 0x0 ps := sub_of hs rfl
  have k_modCmd : Sub 0x8000 ps := sub_of hs rfl
  intro z' e'
  unfold execAckAttention at e'
  cases e'
  repeat'
    first
    | with_reducible refine keeps_ite (fun _ => ?_) (fun _ => ?_) | extract_lets | with_reducible assumption
    | with_reducible refine endD_keeps ?_ k_endD _ _ | with_reducible refine guarded_keeps ?_ k_guarded _ _ _ ?_
    | with_reducible refine onStarted_keeps ?_ k_onStarted _ _ _ _ ?_
    | with_reducible refine modCmd_keeps ?_ k_modCmd _ | intro _ | split | dsimp +zetaDelta only

theorem execGetAttention_keeps {ps : Nat} {z s : State} (hz : Keeps ps z s) (hs : Sub 0x8000 ps) (qp : Nat) (sub :
    Nat) : ∀ z', execGetAttention qp sub s = .next z' → Keeps ps z z' := by
  have k_endD : Sub 0x8000 ps := sub_of hs rfl
  have k_guarded : Sub 0x8000 ps := sub_of hs rfl
  have k_onStarted : Sub 0x0 ps := sub_of hs rfl
  intro z' e'
  unfold execGetAttention at e'
  cases e'
  repeat'
    first
    | with_reducible assumption | with_reducible refine endD_keeps ?_ k_endD _ _
    | with_reducible refine guarded_keeps ?_ k_guarded _ _ _ ?_
    | with_reducible refine onStarted_keeps ?_ k_onStarted _ _ _ _ ?_ | intro _

theorem execCreateContext_keeps {ps : Nat} {z s : State} (hz : Keeps ps z s) (hs : Sub 0x18000 ps) (qp : Nat) (sub :
    Nat) : ∀ z', execCreateContext qp sub s = .next z' → Keeps ps z z' := by
  have k_endD : Sub 0x8000 ps := sub_of hs rfl
  have k_guarded : Sub 0x8000 ps := sub_of hs rfl
  have k_onStarted : Sub 0x0 ps := sub_of hs rfl
  have k_modCmd : Sub 0x8000 ps := sub_of hs rfl
  have k_ctxs : Sub 0x10000 ps := sub_of hs rfl
  intro z' e'
  unfold execCreateContext at e'
  cases e'
  repeat'
    first
    | with_reducible refine keeps_ite (fun _ => ?_) (fun _ => ?_) | extract_lets | with_reducible assumption
    | with_reducible refine endD_keeps ?_ k_endD _ _ | with_reducible refine guarded_keeps ?_ k_guarded _ _ _ ?_
    | with_reducible refine onStarted_keeps ?_ k_onStarted _ _ _ _ ?_
    | with_reducible refine modCmd_keeps ?_ k_modCmd _
    | fail_if_no_progress with_reducible refine keeps_set_ctxs ?_ k_ctxs _ | intro _ | split | dsimp +zetaDelta only

theorem beginReset_keeps {ps : Nat} {z s : State} (hz : Keeps ps z s) (hs : Sub 0xe6fff8001 ps) (c : Nat) :
    Keeps ps z (beginReset c s) := by
  have k_removeCtxWork : Sub 0xe6fff8001 ps := sub_of hs rfl
  have k_modCtx : Sub 0x10000 ps := sub_of hs rfl
  unfold beginReset
  repeat'
    first
    | with_reducible assumption | with_reducible refine removeCtxWork_keeps ?_ k_removeCtxWork _
    | with_reducible refine modCtx_keeps ?_ k_modCtx _ _ | intro _

theorem waitCtx_keeps {ps : Nat} {z s : State} (hz : Keeps ps z s) (hs : Sub 0x18000 ps) (c : Nat) (d : Desc) :
    Keeps ps z (waitCtx c d s) := by
  have k_runDesc : Sub 0x8000 ps := sub_of hs rfl
  have k_modCtx : Sub 0x10000 ps := sub_of hs rfl
  unfold waitCtx
  repeat'
    first
    | with_reducible assumption | with_reducible refine runDesc_keeps ?_ k_runDesc _ _ _
    | with_reducible refine modCtx_keeps ?_ k_modCtx _ _ | intro _

theorem execResetContext_keeps {ps : Nat} {z s : State} (hz : Keeps ps z s) (hs : Sub 0xe6fff8001 ps) (qp : Nat)
    (sub : Nat) : ∀ z', execResetContext qp sub s = .next z' → Keeps ps z z' := by
  have k_waitCtx : Sub 0x18000 ps := sub_of hs rfl
  have k_beginReset : Sub 0xe6fff8001 ps := sub_of hs rfl
  have k_endD : Sub 0x8000 ps := sub_of hs rfl
  have k_onStarted : Sub 0x0 ps := sub_of hs rfl
  intro z' e'
  unfold execResetContext at e'
  cases e'
  repeat'
    first
    | with_reducible refine keeps_ite (fun _ => ?_) (fun _ => ?_) | extract_lets | with_reducible assumption
    | with_reducible refine waitCtx_keeps ?_ k_waitCtx _ _
    | with_reducible refine beginReset_keeps ?_ k_beginReset _ | with_reducible refine endD_keeps ?_ k_endD _ _
    | with_reducible refine onStarted_keeps ?_ k_onStarted _ _ _ _ ?_ | intro _ | split | dsimp +zetaDelta only

theorem abortObjects_keeps {ps : Nat} {z s : State} (hz : Keeps ps z s) (hs : Sub 0x80268000 ps) (c : Nat) :
    Keeps ps z (abortObjects c s) := by
  have k_cmd_mems_evs_tsk_sec : Sub 0x80268000 ps := sub_of hs rfl
  unfold abortObjects
  repeat'
    first
    | with_reducible refine keeps_ite (fun _ => ?_) (fun _ => ?_) | with_reducible assumption
    | fail_if_no_progress with_reducible refine keeps_set_cmd_mems_evs_tsk_sec ?_ k_cmd_mems_evs_tsk_sec _ _ _ _ _
    | intro _

theorem abortWaiters_keeps {ps : Nat} {z s : State} (hz : Keeps ps z s) (hs : Sub 0x8000 ps) (slot : Nat) :
    Keeps ps z (abortWaiters slot s) := by
  have k_abortDescs : Sub 0x8000 ps := sub_of hs rfl
  unfold abortWaiters
  repeat'
    first
    | extract_lets | with_reducible assumption | with_reducible refine abortDescs_keeps ?_ k_abortDescs _ | intro _
    | dsimp +zetaDelta only

theorem beginDestroy_keeps {ps : Nat} {z s : State} (hz : Keeps ps z s) (hs : Sub 0xeefff8001 ps) (c : Nat) :
    Keeps ps z (beginDestroy c s) := by
  have k_abortWaiters : Sub 0x8000 ps := sub_of hs rfl
  have k_abortObjects : Sub 0x80268000 ps := sub_of hs rfl
  have k_ckpCtxGone : Sub 0x86ffe8001 ps := sub_of hs rfl
  have k_closeStreamsOf : Sub 0x21400001 ps := sub_of hs rfl
  have k_removeCtxWork : Sub 0xe6fff8001 ps := sub_of hs rfl
  have k_mapDescs : Sub 0x8000 ps := sub_of hs rfl
  have k_modCtx : Sub 0x10000 ps := sub_of hs rfl
  have k_modCol : Sub 0x4000000 ps := sub_of hs rfl
  unfold beginDestroy
  repeat'
    first
    | with_reducible refine keeps_foldl ?_ ?_ | with_reducible refine keeps_ite (fun _ => ?_) (fun _ => ?_)
    | extract_lets | with_reducible assumption | with_reducible refine abortWaiters_keeps ?_ k_abortWaiters _
    | with_reducible refine abortObjects_keeps ?_ k_abortObjects _
    | with_reducible refine ckpCtxGone_keeps ?_ k_ckpCtxGone _
    | with_reducible refine closeStreamsOf_keeps ?_ k_closeStreamsOf _
    | with_reducible refine removeCtxWork_keeps ?_ k_removeCtxWork _
    | with_reducible refine mapDescs_keeps ?_ k_mapDescs _ | with_reducible refine modCtx_keeps ?_ k_modCtx _ _
    | with_reducible refine modCol_keeps ?_ k_modCol _ | intro _ | split | dsimp +zetaDelta only

theorem execDestroyContext_keeps {ps : Nat} {z s : State} (hz : Keeps ps z s) (hs : Sub 0xeefff8001 ps) (qp : Nat)
    (sub : Nat) : ∀ z', execDestroyContext qp sub s = .next z' → Keeps ps z z' := by
  have k_beginDestroy : Sub 0xeefff8001 ps := sub_of hs rfl
  have k_waitCtx : Sub 0x18000 ps := sub_of hs rfl
  have k_endD : Sub 0x8000 ps := sub_of hs rfl
  have k_onStarted : Sub 0x0 ps := sub_of hs rfl
  intro z' e'
  unfold execDestroyContext at e'
  cases e'
  repeat'
    first
    | with_reducible refine keeps_ite (fun _ => ?_) (fun _ => ?_) | extract_lets | with_reducible assumption
    | with_reducible refine beginDestroy_keeps ?_ k_beginDestroy _
    | with_reducible refine waitCtx_keeps ?_ k_waitCtx _ _ | with_reducible refine endD_keeps ?_ k_endD _ _
    | with_reducible refine onStarted_keeps ?_ k_onStarted _ _ _ _ ?_ | intro _ | split | dsimp +zetaDelta only

theorem nextWaiter_keeps {ps : Nat} {z s : State} (hz : Keeps ps z s) (hs : Sub 0xeefff8001 ps) (c : Nat) :
    Keeps ps z (nextWaiter c s) := by
  have k_beginDestroy : Sub 0xeefff8001 ps := sub_of hs rfl
  have k_beginReset : Sub 0xe6fff8001 ps := sub_of hs rfl
  unfold nextWaiter
  repeat'
    first
    | with_reducible refine keeps_ite (fun _ => ?_) (fun _ => ?_) | with_reducible assumption
    | with_reducible refine beginDestroy_keeps ?_ k_beginDestroy _
    | with_reducible refine beginReset_keeps ?_ k_beginReset _ | intro _ | split

theorem execContextResetComplete_keeps {ps : Nat} {z s : State} (hz : Keeps ps z s) (hs : Sub 0xeefff8001 ps) (ctx :
    Nat) : ∀ z', execContextResetComplete ctx s = .next z' → Keeps ps z z' := by
  have k_nextWaiter : Sub 0xeefff8001 ps := sub_of hs rfl
  have k_endD : Sub 0x8000 ps := sub_of hs rfl
  have k_modCtx : Sub 0x10000 ps := sub_of hs rfl
  have k_modCmd : Sub 0x8000 ps := sub_of hs rfl
  intro z' e'
  unfold execContextResetComplete at e'
  cases e'
  repeat'
    first
    | with_reducible refine keeps_ite (fun _ => ?_) (fun _ => ?_) | extract_lets | with_reducible assumption
    | with_reducible refine nextWaiter_keeps ?_ k_nextWaiter _ | with_reducible refine endD_keeps ?_ k_endD _ _
    | with_reducible refine modCtx_keeps ?_ k_modCtx _ _ | with_reducible refine modCmd_keeps ?_ k_modCmd _
    | intro _ | split | dsimp +zetaDelta only

theorem execCreateQueuePair_keeps {ps : Nat} {z s : State} (hz : Keeps ps z s) (hs : Sub 0x8000 ps) (qp : Nat) (sub
    : Nat) : ∀ z', execCreateQueuePair qp sub s = .next z' → Keeps ps z z' := by
  have k_endD : Sub 0x8000 ps := sub_of hs rfl
  have k_guarded : Sub 0x8000 ps := sub_of hs rfl
  have k_onStarted : Sub 0x0 ps := sub_of hs rfl
  have k_modCmd : Sub 0x8000 ps := sub_of hs rfl
  intro z' e'
  unfold execCreateQueuePair at e'
  cases e'
  repeat'
    first
    | with_reducible refine keeps_ite (fun _ => ?_) (fun _ => ?_) | extract_lets | with_reducible assumption
    | with_reducible refine endD_keeps ?_ k_endD _ _ | with_reducible refine guarded_keeps ?_ k_guarded _ _ _ ?_
    | with_reducible refine onStarted_keeps ?_ k_onStarted _ _ _ _ ?_
    | with_reducible refine modCmd_keeps ?_ k_modCmd _ | intro _ | split | dsimp +zetaDelta only

theorem execDestroyQueuePair_keeps {ps : Nat} {z s : State} (hz : Keeps ps z s) (hs : Sub 0xe6fff8001 ps) (qp : Nat)
    (sub : Nat) : ∀ z', execDestroyQueuePair qp sub s = .next z' → Keeps ps z z' := by
  have k_haltRunner : Sub 0x8000000 ps := sub_of hs rfl
  have k_abortDescs : Sub 0x8000 ps := sub_of hs rfl
  have k_discardGens : Sub 0xe6fff8001 ps := sub_of hs rfl
  have k_stopLaunches : Sub 0xe6fff8001 ps := sub_of hs rfl
  have k_guarded : Sub 0x8000 ps := sub_of hs rfl
  have k_onStarted : Sub 0x0 ps := sub_of hs rfl
  have k_modQp : Sub 0x8000 ps := sub_of hs rfl
  have k_runDesc : Sub 0x8000 ps := sub_of hs rfl
  have k_mapDescs : Sub 0x8000 ps := sub_of hs rfl
  intro z' e'
  unfold execDestroyQueuePair at e'
  cases e'
  repeat'
    first
    | with_reducible refine keeps_foldl ?_ ?_ | with_reducible refine keeps_ite (fun _ => ?_) (fun _ => ?_)
    | extract_lets | with_reducible assumption | with_reducible refine haltRunner_keeps ?_ k_haltRunner _
    | with_reducible refine abortDescs_keeps ?_ k_abortDescs _
    | with_reducible refine discardGens_keeps ?_ k_discardGens _ _
    | with_reducible refine stopLaunches_keeps ?_ k_stopLaunches _ _
    | with_reducible refine guarded_keeps ?_ k_guarded _ _ _ ?_
    | with_reducible refine onStarted_keeps ?_ k_onStarted _ _ _ _ ?_
    | with_reducible refine modQp_keeps ?_ k_modQp _ _ | with_reducible refine runDesc_keeps ?_ k_runDesc _ _ _
    | with_reducible refine mapDescs_keeps ?_ k_mapDescs _ | intro _ | dsimp +zetaDelta only

theorem execCreateMemory_keeps {ps : Nat} {z s : State} (hz : Keeps ps z s) (hs : Sub 0x80028000 ps) (qp : Nat) (sub
    : Nat) : ∀ z', execCreateMemory qp sub s = .next z' → Keeps ps z z' := by
  have k_uniformRefuse : Sub 0x80008000 ps := sub_of hs rfl
  have k_endD : Sub 0x8000 ps := sub_of hs rfl
  have k_guarded : Sub 0x8000 ps := sub_of hs rfl
  have k_onStarted : Sub 0x0 ps := sub_of hs rfl
  have k_modCmd : Sub 0x8000 ps := sub_of hs rfl
  have k_mems : Sub 0x20000 ps := sub_of hs rfl
  intro z' e'
  unfold execCreateMemory at e'
  cases e'
  repeat'
    first
    | with_reducible refine keeps_ite (fun _ => ?_) (fun _ => ?_) | extract_lets | with_reducible assumption
    | with_reducible refine uniformRefuse_keeps ?_ k_uniformRefuse _ _
    | with_reducible refine endD_keeps ?_ k_endD _ _ | with_reducible refine guarded_keeps ?_ k_guarded _ _ _ ?_
    | with_reducible refine onStarted_keeps ?_ k_onStarted _ _ _ _ ?_
    | with_reducible refine modCmd_keeps ?_ k_modCmd _
    | fail_if_no_progress with_reducible refine keeps_set_mems ?_ k_mems _ | intro _ | split | dsimp +zetaDelta only

theorem opsLose_keeps {ps : Nat} {z s : State} (hz : Keeps ps z s) (hs : Sub 0x86ffe8001 ps) (h : Nat) :
    Keeps ps z (opsLose h s) := by
  have k_cancelOps : Sub 0x86ffe8001 ps := sub_of hs rfl
  have k_mapOps : Sub 0x4000000 ps := sub_of hs rfl
  unfold opsLose
  repeat'
    first
    | with_reducible refine keeps_ite (fun _ => ?_) (fun _ => ?_) | with_reducible assumption
    | with_reducible refine cancelOps_keeps ?_ k_cancelOps _ | with_reducible refine mapOps_keeps ?_ k_mapOps _
    | intro _

theorem removeUsers_keeps {ps : Nat} {z s : State} (hz : Keeps ps z s) (hs : Sub 0xe6fff8001 ps) (d : Desc) (h :
    Nat) : Keeps ps z (removeUsers d h s) := by
  have k_opsLose : Sub 0x86ffe8001 ps := sub_of hs rfl
  have k_abortDescs : Sub 0x8000 ps := sub_of hs rfl
  have k_stopLaunches : Sub 0xe6fff8001 ps := sub_of hs rfl
  unfold removeUsers
  repeat'
    first
    | extract_lets | with_reducible assumption | with_reducible refine opsLose_keeps ?_ k_opsLose _
    | with_reducible refine abortDescs_keeps ?_ k_abortDescs _
    | with_reducible refine stopLaunches_keeps ?_ k_stopLaunches _ _ | intro _ | dsimp +zetaDelta only

theorem conflictOn_keeps {ps : Nat} {z s : State} (hz : Keeps ps z s) (hs : Sub 0x200000 ps) (slot : Nat) :
    Keeps ps z (conflictOn slot s) := by
  have k_markConflict : Sub 0x200000 ps := sub_of hs rfl
  unfold conflictOn
  repeat'
    first
    | with_reducible refine keeps_foldl ?_ ?_ | with_reducible assumption
    | with_reducible refine markConflict_keeps ?_ k_markConflict _ | intro _

theorem execDestroyMemory_keeps {ps : Nat} {z s : State} (hz : Keeps ps z s) (hs : Sub 0xe6fff8001 ps) (qp : Nat)
    (sub : Nat) : ∀ z', execDestroyMemory qp sub s = .next z' → Keeps ps z z' := by
  have k_conflictOn : Sub 0x200000 ps := sub_of hs rfl
  have k_removeUsers : Sub 0xe6fff8001 ps := sub_of hs rfl
  have k_ckpObjectGone : Sub 0x86ffe8001 ps := sub_of hs rfl
  have k_closeStreamsOf : Sub 0x21400001 ps := sub_of hs rfl
  have k_modMem : Sub 0x20000 ps := sub_of hs rfl
  have k_guarded : Sub 0x8000 ps := sub_of hs rfl
  have k_onStarted : Sub 0x0 ps := sub_of hs rfl
  have k_runDesc : Sub 0x8000 ps := sub_of hs rfl
  intro z' e'
  unfold execDestroyMemory at e'
  cases e'
  repeat'
    first
    | extract_lets | with_reducible assumption | with_reducible refine conflictOn_keeps ?_ k_conflictOn _
    | with_reducible refine removeUsers_keeps ?_ k_removeUsers _ _
    | with_reducible refine ckpObjectGone_keeps ?_ k_ckpObjectGone _
    | with_reducible refine closeStreamsOf_keeps ?_ k_closeStreamsOf _
    | with_reducible refine modMem_keeps ?_ k_modMem _ _ | with_reducible refine guarded_keeps ?_ k_guarded _ _ _ ?_
    | with_reducible refine onStarted_keeps ?_ k_onStarted _ _ _ _ ?_
    | with_reducible refine runDesc_keeps ?_ k_runDesc _ _ _ | intro _ | dsimp +zetaDelta only

theorem execCreateEvent_keeps {ps : Nat} {z s : State} (hz : Keeps ps z s) (hs : Sub 0x48000 ps) (qp : Nat) (sub :
    Nat) : ∀ z', execCreateEvent qp sub s = .next z' → Keeps ps z z' := by
  have k_endD : Sub 0x8000 ps := sub_of hs rfl
  have k_guarded : Sub 0x8000 ps := sub_of hs rfl
  have k_onStarted : Sub 0x0 ps := sub_of hs rfl
  have k_modCmd : Sub 0x8000 ps := sub_of hs rfl
  have k_evs : Sub 0x40000 ps := sub_of hs rfl
  intro z' e'
  unfold execCreateEvent at e'
  cases e'
  repeat'
    first
    | with_reducible refine keeps_ite (fun _ => ?_) (fun _ => ?_) | extract_lets | with_reducible assumption
    | with_reducible refine endD_keeps ?_ k_endD _ _ | with_reducible refine guarded_keeps ?_ k_guarded _ _ _ ?_
    | with_reducible refine onStarted_keeps ?_ k_onStarted _ _ _ _ ?_
    | with_reducible refine modCmd_keeps ?_ k_modCmd _
    | fail_if_no_progress with_reducible refine keeps_set_evs ?_ k_evs _ | intro _ | split | dsimp +zetaDelta only

theorem modEv_keeps {ps : Nat} {z s : State} (hz : Keeps ps z s) (hs : Sub 0x40000 ps) (e : Nat) (f : Event → Event)
    : Keeps ps z (modEv e f s) := by
  have k_evs : Sub 0x40000 ps := sub_of hs rfl
  unfold modEv
  repeat'
    first
    | with_reducible assumption | fail_if_no_progress with_reducible refine keeps_set_evs ?_ k_evs _ | intro _

theorem execDestroyEvent_keeps {ps : Nat} {z s : State} (hz : Keeps ps z s) (hs : Sub 0xe6fff8001 ps) (qp : Nat)
    (sub : Nat) : ∀ z', execDestroyEvent qp sub s = .next z' → Keeps ps z z' := by
  have k_modEv : Sub 0x40000 ps := sub_of hs rfl
  have k_removeUsers : Sub 0xe6fff8001 ps := sub_of hs rfl
  have k_abortWaiters : Sub 0x8000 ps := sub_of hs rfl
  have k_discardGens : Sub 0xe6fff8001 ps := sub_of hs rfl
  have k_guarded : Sub 0x8000 ps := sub_of hs rfl
  have k_onStarted : Sub 0x0 ps := sub_of hs rfl
  have k_runDesc : Sub 0x8000 ps := sub_of hs rfl
  intro z' e'
  unfold execDestroyEvent at e'
  cases e'
  repeat'
    first
    | with_reducible refine keeps_foldl ?_ ?_ | extract_lets | with_reducible assumption
    | with_reducible refine modEv_keeps ?_ k_modEv _ _
    | with_reducible refine removeUsers_keeps ?_ k_removeUsers _ _
    | with_reducible refine abortWaiters_keeps ?_ k_abortWaiters _
    | with_reducible refine discardGens_keeps ?_ k_discardGens _ _
    | with_reducible refine guarded_keeps ?_ k_guarded _ _ _ ?_
    | with_reducible refine onStarted_keeps ?_ k_onStarted _ _ _ _ ?_
    | with_reducible refine runDesc_keeps ?_ k_runDesc _ _ _ | intro _ | dsimp +zetaDelta only

theorem execExportEvent_keeps {ps : Nat} {z s : State} (hz : Keeps ps z s) (hs : Sub 0x48000 ps) (qp : Nat) (sub :
    Nat) : ∀ z', execExportEvent qp sub s = .next z' → Keeps ps z z' := by
  have k_modEv : Sub 0x40000 ps := sub_of hs rfl
  have k_endD : Sub 0x8000 ps := sub_of hs rfl
  have k_guarded : Sub 0x8000 ps := sub_of hs rfl
  have k_onStarted : Sub 0x0 ps := sub_of hs rfl
  intro z' e'
  unfold execExportEvent at e'
  cases e'
  repeat'
    first
    | with_reducible assumption | with_reducible refine modEv_keeps ?_ k_modEv _ _
    | with_reducible refine endD_keeps ?_ k_endD _ _ | with_reducible refine guarded_keeps ?_ k_guarded _ _ _ ?_
    | with_reducible refine onStarted_keeps ?_ k_onStarted _ _ _ _ ?_ | intro _

theorem execEventSignal_keeps {ps : Nat} {z s : State} (hz : Keeps ps z s) (hs : Sub 0x86ffe8001 ps) (qp : Nat) (sub
    : Nat) : ∀ z', execEventSignal qp sub s = .next z' → Keeps ps z z' := by
  have k_endD : Sub 0x8000 ps := sub_of hs rfl
  have k_updateEvent : Sub 0x86ffe8001 ps := sub_of hs rfl
  have k_guarded : Sub 0x8000 ps := sub_of hs rfl
  have k_onStarted : Sub 0x0 ps := sub_of hs rfl
  intro z' e'
  unfold execEventSignal at e'
  cases e'
  repeat'
    first
    | with_reducible assumption | with_reducible refine endD_keeps ?_ k_endD _ _
    | with_reducible refine updateEvent_keeps ?_ k_updateEvent _ _
    | with_reducible refine guarded_keeps ?_ k_guarded _ _ _ ?_
    | with_reducible refine onStarted_keeps ?_ k_onStarted _ _ _ _ ?_ | intro _

theorem execEventAdd_keeps {ps : Nat} {z s : State} (hz : Keeps ps z s) (hs : Sub 0x86ffe8001 ps) (qp : Nat) (sub :
    Nat) : ∀ z', execEventAdd qp sub s = .next z' → Keeps ps z z' := by
  have k_endD : Sub 0x8000 ps := sub_of hs rfl
  have k_updateEvent : Sub 0x86ffe8001 ps := sub_of hs rfl
  have k_guarded : Sub 0x8000 ps := sub_of hs rfl
  have k_onStarted : Sub 0x0 ps := sub_of hs rfl
  intro z' e'
  unfold execEventAdd at e'
  cases e'
  repeat'
    first
    | with_reducible assumption | with_reducible refine endD_keeps ?_ k_endD _ _
    | with_reducible refine updateEvent_keeps ?_ k_updateEvent _ _
    | with_reducible refine guarded_keeps ?_ k_guarded _ _ _ ?_
    | with_reducible refine onStarted_keeps ?_ k_onStarted _ _ _ _ ?_ | intro _

theorem execEventReset_keeps {ps : Nat} {z s : State} (hz : Keeps ps z s) (hs : Sub 0x86ffe8001 ps) (qp : Nat) (sub
    : Nat) : ∀ z', execEventReset qp sub s = .next z' → Keeps ps z z' := by
  have k_endD : Sub 0x8000 ps := sub_of hs rfl
  have k_updateEvent : Sub 0x86ffe8001 ps := sub_of hs rfl
  have k_guarded : Sub 0x8000 ps := sub_of hs rfl
  have k_onStarted : Sub 0x0 ps := sub_of hs rfl
  intro z' e'
  unfold execEventReset at e'
  cases e'
  repeat'
    first
    | with_reducible assumption | with_reducible refine endD_keeps ?_ k_endD _ _
    | with_reducible refine updateEvent_keeps ?_ k_updateEvent _ _
    | with_reducible refine guarded_keeps ?_ k_guarded _ _ _ ?_
    | with_reducible refine onStarted_keeps ?_ k_onStarted _ _ _ _ ?_ | intro _

theorem execEventWait_keeps {ps : Nat} {z s : State} (hz : Keeps ps z s) (hs : Sub 0x8000 ps) (qp : Nat) (sub : Nat)
    : ∀ z', execEventWait qp sub s = .next z' → Keeps ps z z' := by
  have k_endD : Sub 0x8000 ps := sub_of hs rfl
  have k_guarded : Sub 0x8000 ps := sub_of hs rfl
  have k_onStarted : Sub 0x0 ps := sub_of hs rfl
  have k_runDesc : Sub 0x8000 ps := sub_of hs rfl
  intro z' e'
  unfold execEventWait at e'
  cases e'
  repeat'
    first
    | with_reducible refine keeps_ite (fun _ => ?_) (fun _ => ?_) | extract_lets | with_reducible assumption
    | with_reducible refine endD_keeps ?_ k_endD _ _ | with_reducible refine guarded_keeps ?_ k_guarded _ _ _ ?_
    | with_reducible refine onStarted_keeps ?_ k_onStarted _ _ _ _ ?_
    | with_reducible refine runDesc_keeps ?_ k_runDesc _ _ _ | intro _ | split | dsimp +zetaDelta only

theorem execEventWaitTimeout_keeps {ps : Nat} {z s : State} (hz : Keeps ps z s) (hs : Sub 0x8000 ps) (qp : Nat) (sub
    : Nat) : ∀ z', execEventWaitTimeout qp sub s = .next z' → Keeps ps z z' := by
  have k_endD : Sub 0x8000 ps := sub_of hs rfl
  have k_onRunning : Sub 0x0 ps := sub_of hs rfl
  intro z' e'
  unfold execEventWaitTimeout at e'
  cases e'
  repeat'
    first
    | with_reducible refine keeps_ite (fun _ => ?_) (fun _ => ?_) | extract_lets | with_reducible assumption
    | with_reducible refine endD_keeps ?_ k_endD _ _
    | with_reducible refine onRunning_keeps ?_ k_onRunning _ _ _ _ ?_ | intro _ | split | dsimp +zetaDelta only

theorem execEventQuery_keeps {ps : Nat} {z s : State} (hz : Keeps ps z s) (hs : Sub 0x8000 ps) (qp : Nat) (sub :
    Nat) : ∀ z', execEventQuery qp sub s = .next z' → Keeps ps z z' := by
  have k_endD : Sub 0x8000 ps := sub_of hs rfl
  have k_guarded : Sub 0x8000 ps := sub_of hs rfl
  have k_onStarted : Sub 0x0 ps := sub_of hs rfl
  intro z' e'
  unfold execEventQuery at e'
  cases e'
  repeat'
    first
    | extract_lets | with_reducible assumption | with_reducible refine endD_keeps ?_ k_endD _ _
    | with_reducible refine guarded_keeps ?_ k_guarded _ _ _ ?_
    | with_reducible refine onStarted_keeps ?_ k_onStarted _ _ _ _ ?_ | intro _ | split | dsimp +zetaDelta only

theorem execEventRemote_keeps {ps : Nat} {z s : State} (hz : Keeps ps z s) (hs : Sub 0x81008001 ps) (qp : Nat) (sub
    : Nat) : ∀ z', execEventRemote qp sub s = .next z' → Keeps ps z z' := by
  have k_uniformRefuse : Sub 0x80008000 ps := sub_of hs rfl
  have k_sendTo : Sub 0x1000001 ps := sub_of hs rfl
  have k_onStarted : Sub 0x0 ps := sub_of hs rfl
  have k_runDesc : Sub 0x8000 ps := sub_of hs rfl
  have k_modCmd : Sub 0x8000 ps := sub_of hs rfl
  intro z' e'
  unfold execEventRemote at e'
  cases e'
  repeat'
    first
    | with_reducible refine keeps_ite (fun _ => ?_) (fun _ => ?_) | extract_lets | with_reducible assumption
    | with_reducible refine uniformRefuse_keeps ?_ k_uniformRefuse _ _
    | with_reducible refine sendTo_keeps ?_ k_sendTo _ _
    | with_reducible refine onStarted_keeps ?_ k_onStarted _ _ _ _ ?_
    | with_reducible refine runDesc_keeps ?_ k_runDesc _ _ _ | with_reducible refine modCmd_keeps ?_ k_modCmd _
    | intro _ | dsimp +zetaDelta only

theorem execEventReq_keeps {ps : Nat} {z s : State} (hz : Keeps ps z s) (hs : Sub 0x86ffe8101 ps) (node : Nat) (op :
    Nat) (handle : Nat) (value : Nat) (txn : Nat) :
    ∀ z', execEventReq node op handle value txn s = .next z' → Keeps ps z z' := by
  have k_reply : Sub 0x101 ps := sub_of hs rfl
  have k_updateEvent : Sub 0x86ffe8001 ps := sub_of hs rfl
  have k_sendTo : Sub 0x1000001 ps := sub_of hs rfl
  intro z' e'
  unfold execEventReq at e'
  cases e'
  repeat'
    first
    | with_reducible refine keeps_ite (fun _ => ?_) (fun _ => ?_) | extract_lets | with_reducible assumption
    | with_reducible refine reply_keeps ?_ k_reply _ _ _ _ _ _
    | with_reducible refine updateEvent_keeps ?_ k_updateEvent _ _
    | with_reducible refine sendTo_keeps ?_ k_sendTo _ _ | intro _ | split | dsimp +zetaDelta only

theorem dropRemote_keeps {ps : Nat} {z s : State} (hz : Keeps ps z s) (hs : Sub 0x8000 ps) (qp : Nat) (sub : Nat) :
    Keeps ps z (dropRemote qp sub s) := by
  have k_modCmd : Sub 0x8000 ps := sub_of hs rfl
  unfold dropRemote
  repeat'
    first
    | with_reducible assumption | with_reducible refine modCmd_keeps ?_ k_modCmd _ | intro _

theorem execEventRsp_keeps {ps : Nat} {z s : State} (hz : Keeps ps z s) (hs : Sub 0x8000 ps) (qp : Nat) (sub : Nat)
    (status : Nat) : ∀ z', execEventRsp qp sub status s = .next z' → Keeps ps z z' := by
  have k_dropRemote : Sub 0x8000 ps := sub_of hs rfl
  have k_endD : Sub 0x8000 ps := sub_of hs rfl
  have k_onRunning : Sub 0x0 ps := sub_of hs rfl
  intro z' e'
  unfold execEventRsp at e'
  cases e'
  repeat'
    first
    | with_reducible refine keeps_ite (fun _ => ?_) (fun _ => ?_) | with_reducible assumption
    | with_reducible refine dropRemote_keeps ?_ k_dropRemote _ _ | with_reducible refine endD_keeps ?_ k_endD _ _
    | with_reducible refine onRunning_keeps ?_ k_onRunning _ _ _ _ ?_ | intro _

theorem execEventRemoteTimeout_keeps {ps : Nat} {z s : State} (hz : Keeps ps z s) (hs : Sub 0x8000 ps) (qp : Nat)
    (sub : Nat) : ∀ z', execEventRemoteTimeout qp sub s = .next z' → Keeps ps z z' := by
  have k_dropRemote : Sub 0x8000 ps := sub_of hs rfl
  have k_endD : Sub 0x8000 ps := sub_of hs rfl
  have k_onRunning : Sub 0x0 ps := sub_of hs rfl
  intro z' e'
  unfold execEventRemoteTimeout at e'
  cases e'
  repeat'
    first
    | with_reducible assumption | with_reducible refine dropRemote_keeps ?_ k_dropRemote _ _
    | with_reducible refine endD_keeps ?_ k_endD _ _
    | with_reducible refine onRunning_keeps ?_ k_onRunning _ _ _ _ ?_ | intro _

theorem execLoadTaskGraph_keeps {ps : Nat} {z s : State} (hz : Keeps ps z s) (hs : Sub 0x80e28000 ps) (qp : Nat)
    (sub : Nat) (badSig : List Nat) : ∀ z', execLoadTaskGraph qp sub badSig s = .next z' → Keeps ps z z' := by
  have k_uniformRefuse : Sub 0x80008000 ps := sub_of hs rfl
  have k_endD : Sub 0x8000 ps := sub_of hs rfl
  have k_touch : Sub 0xc28000 ps := sub_of hs rfl
  have k_guarded : Sub 0x8000 ps := sub_of hs rfl
  have k_onStarted : Sub 0x0 ps := sub_of hs rfl
  have k_runDesc : Sub 0x8000 ps := sub_of hs rfl
  have k_modTsk : Sub 0x200000 ps := sub_of hs rfl
  have k_modCmd : Sub 0x8000 ps := sub_of hs rfl
  intro z' e'
  unfold execLoadTaskGraph at e'
  cases e'
  repeat'
    first
    | with_reducible refine keeps_ite (fun _ => ?_) (fun _ => ?_) | extract_lets | with_reducible assumption
    | with_reducible refine uniformRefuse_keeps ?_ k_uniformRefuse _ _
    | with_reducible refine endD_keeps ?_ k_endD _ _ | with_reducible refine touch_keeps ?_ k_touch _ _ _ _
    | with_reducible refine guarded_keeps ?_ k_guarded _ _ _ ?_
    | with_reducible refine onStarted_keeps ?_ k_onStarted _ _ _ _ ?_
    | with_reducible refine runDesc_keeps ?_ k_runDesc _ _ _ | with_reducible refine modTsk_keeps ?_ k_modTsk _
    | with_reducible refine modCmd_keeps ?_ k_modCmd _ | intro _ | split | dsimp +zetaDelta only

theorem weightChain_keeps {ps : Nat} {z s : State} (hz : Keeps ps z s) (hs : Sub 0x80000000 ps) (digest : BitVec
    384) : Keeps ps z (weightChain digest s) := by
  have k_modSec : Sub 0x80000000 ps := sub_of hs rfl
  unfold weightChain
  repeat'
    first
    | with_reducible assumption | with_reducible refine modSec_keeps ?_ k_modSec _ | intro _

theorem modGraph_keeps {ps : Nat} {z s : State} (hz : Keeps ps z s) (hs : Sub 0x200000 ps) (g : Nat) (f : Graph →
    Graph) : Keeps ps z (modGraph g f s) := by
  have k_modTsk : Sub 0x200000 ps := sub_of hs rfl
  unfold modGraph
  repeat'
    first
    | with_reducible assumption | with_reducible refine modTsk_keeps ?_ k_modTsk _ | intro _

theorem execTaskGraphLoaded_keeps {ps : Nat} {z s : State} (hz : Keeps ps z s) (hs : Sub 0x80208000 ps) (graph :
    Nat) : ∀ z', execTaskGraphLoaded graph s = .next z' → Keeps ps z z' := by
  have k_modGraph : Sub 0x200000 ps := sub_of hs rfl
  have k_endD : Sub 0x8000 ps := sub_of hs rfl
  have k_modSec : Sub 0x80000000 ps := sub_of hs rfl
  intro z' e'
  unfold execTaskGraphLoaded at e'
  cases e'
  repeat'
    first
    | with_reducible refine keeps_ite (fun _ => ?_) (fun _ => ?_) | extract_lets | with_reducible assumption
    | with_reducible refine modGraph_keeps ?_ k_modGraph _ _ | with_reducible refine endD_keeps ?_ k_endD _ _
    | with_reducible refine modSec_keeps ?_ k_modSec _ | intro _ | split | dsimp +zetaDelta only

theorem execDestroyTaskGraph_keeps {ps : Nat} {z s : State} (hz : Keeps ps z s) (hs : Sub 0xe6fff8001 ps) (qp : Nat)
    (sub : Nat) : ∀ z', execDestroyTaskGraph qp sub s = .next z' → Keeps ps z z' := by
  have k_modGraph : Sub 0x200000 ps := sub_of hs rfl
  have k_removeUsers : Sub 0xe6fff8001 ps := sub_of hs rfl
  have k_stopLaunches : Sub 0xe6fff8001 ps := sub_of hs rfl
  have k_guarded : Sub 0x8000 ps := sub_of hs rfl
  have k_onStarted : Sub 0x0 ps := sub_of hs rfl
  have k_runDesc : Sub 0x8000 ps := sub_of hs rfl
  intro z' e'
  unfold execDestroyTaskGraph at e'
  cases e'
  repeat'
    first
    | extract_lets | with_reducible assumption | with_reducible refine modGraph_keeps ?_ k_modGraph _ _
    | with_reducible refine removeUsers_keeps ?_ k_removeUsers _ _
    | with_reducible refine stopLaunches_keeps ?_ k_stopLaunches _ _
    | with_reducible refine guarded_keeps ?_ k_guarded _ _ _ ?_
    | with_reducible refine onStarted_keeps ?_ k_onStarted _ _ _ _ ?_
    | with_reducible refine runDesc_keeps ?_ k_runDesc _ _ _ | intro _ | dsimp +zetaDelta only

theorem writeChosen_keeps {ps : Nat} {z s : State} (hz : Keeps ps z s) (hs : Sub 0x840380000 ps) (a : Accessor)
    (slot choice off : Nat) (bs : List Byte) (i : Nat) : Keeps ps z (writeChosen a slot choice off bs i s) := by
  have k_writeMem : Sub 0x840380000 ps := sub_of hs rfl
  induction bs generalizing s off i with
  | nil => exact hz
  | cons b l ih =>
    unfold writeChosen
    refine ih ?_ _ _
    exact keeps_ite (fun _ => writeMem_keeps hz k_writeMem _ _ _ _) (fun _ => hz)

theorem writePartly_keeps {ps : Nat} {z s : State} (hz : Keeps ps z s) (hs : Sub 0x840fa8002 ps) (a : Accessor)
    (slot : Nat) (off : Nat) (bs : List Byte) (prefixLen : Nat) :
    Keeps ps z (writePartly a slot off bs prefixLen s) := by
  have k_writeChosen : Sub 0x840380000 ps := sub_of hs rfl
  have k_storeMem : Sub 0x840fa8000 ps := sub_of hs rfl
  have k_tookFree : Sub 0x2 ps := sub_of hs rfl
  unfold writePartly
  repeat'
    first
    | with_reducible refine keeps_ite (fun _ => ?_) (fun _ => ?_) | extract_lets | with_reducible assumption
    | with_reducible refine writeChosen_keeps ?_ k_writeChosen _ _ _ _ _ _
    | with_reducible refine storeMem_keeps ?_ k_storeMem _ _ _ _
    | with_reducible refine tookFree_keeps ?_ k_tookFree | intro _ | dsimp +zetaDelta only

theorem execCopy_keeps {ps : Nat} {z s : State} (hz : Keeps ps z s) (hs : Sub 0x840fa8003 ps) (qp : Nat) (sub : Nat)
    (host : List Byte) (fail : Option Nat) : ∀ z', execCopy qp sub host fail s = .next z' → Keeps ps z z' := by
  have k_writePartly : Sub 0x840fa8002 ps := sub_of hs rfl
  have k_endD : Sub 0x8000 ps := sub_of hs rfl
  have k_touch : Sub 0xc28000 ps := sub_of hs rfl
  have k_guarded : Sub 0x8000 ps := sub_of hs rfl
  have k_onStarted : Sub 0x0 ps := sub_of hs rfl
  have k_emit : Sub 0x1 ps := sub_of hs rfl
  intro z' e'
  unfold execCopy at e'
  cases e'
  repeat'
    first
    | with_reducible refine keeps_ite (fun _ => ?_) (fun _ => ?_) | extract_lets | with_reducible assumption
    | with_reducible refine writePartly_keeps ?_ k_writePartly _ _ _ _ _
    | with_reducible refine endD_keeps ?_ k_endD _ _ | with_reducible refine touch_keeps ?_ k_touch _ _ _ _
    | with_reducible refine guarded_keeps ?_ k_guarded _ _ _ ?_
    | with_reducible refine onStarted_keeps ?_ k_onStarted _ _ _ _ ?_ | with_reducible refine emit_keeps ?_ k_emit _
    | intro _ | dsimp +zetaDelta only

theorem execFill_keeps {ps : Nat} {z s : State} (hz : Keeps ps z s) (hs : Sub 0x840fa8002 ps) (qp : Nat) (sub : Nat)
    : ∀ z', execFill qp sub s = .next z' → Keeps ps z z' := by
  have k_writePartly : Sub 0x840fa8002 ps := sub_of hs rfl
  have k_endD : Sub 0x8000 ps := sub_of hs rfl
  have k_guarded : Sub 0x8000 ps := sub_of hs rfl
  have k_onStarted : Sub 0x0 ps := sub_of hs rfl
  intro z' e'
  unfold execFill at e'
  cases e'
  repeat'
    first
    | with_reducible refine keeps_ite (fun _ => ?_) (fun _ => ?_) | extract_lets | with_reducible assumption
    | with_reducible refine writePartly_keeps ?_ k_writePartly _ _ _ _ _
    | with_reducible refine endD_keeps ?_ k_endD _ _ | with_reducible refine guarded_keeps ?_ k_guarded _ _ _ ?_
    | with_reducible refine onStarted_keeps ?_ k_onStarted _ _ _ _ ?_ | intro _ | dsimp +zetaDelta only

theorem forgetSignal_keeps {ps : Nat} {z s : State} (hz : Keeps ps z s) (hs : Sub 0x8000 ps) (h : Nat) :
    Keeps ps z (forgetSignal h s) := by
  have k_mapDescs : Sub 0x8000 ps := sub_of hs rfl
  unfold forgetSignal
  repeat'
    first
    | with_reducible refine keeps_ite (fun _ => ?_) (fun _ => ?_) | with_reducible assumption
    | with_reducible refine mapDescs_keeps ?_ k_mapDescs _ | intro _

theorem giveSlot_keeps {ps : Nat} {z s : State} (hz : Keeps ps z s) (hs : Sub 0x8000 ps) (kind : Nat) (slot : Nat) :
    Keeps ps z (giveSlot kind slot s) := by
  have k_modCmd : Sub 0x8000 ps := sub_of hs rfl
  unfold giveSlot
  repeat'
    first
    | with_reducible refine keeps_ite (fun _ => ?_) (fun _ => ?_) | with_reducible assumption
    | with_reducible refine modCmd_keeps ?_ k_modCmd _ | intro _

theorem freeMem_keeps {ps : Nat} {z s : State} (hz : Keeps ps z s) (hs : Sub 0xc20dac000 ps) (slot : Nat) :
    Keeps ps z (freeMem slot s) := by
  have k_giveSlot : Sub 0x8000 ps := sub_of hs rfl
  have k_dropSlotLines : Sub 0xc00000000 ps := sub_of hs rfl
  have k_modHif : Sub 0x4000 ps := sub_of hs rfl
  have k_dropStreams : Sub 0x20400000 ps := sub_of hs rfl
  have k_modIme : Sub 0x800000 ps := sub_of hs rfl
  have k_modHbm : Sub 0x400000 ps := sub_of hs rfl
  have k_set : Sub 0x1a0000 ps := sub_of hs rfl
  unfold freeMem
  split
  · exact hz
  · extract_lets
    refine giveSlot_keeps (dropSlotLines_keeps (modHif_keeps (dropStreams_keeps (modIme_keeps (modHbm_keeps ?_ k_modHbm _)
      k_modIme _) k_dropStreams _) k_modHif _) k_dropSlotLines _) k_giveSlot _ _
    with_reducible exact keeps_set_mems_mem_poison hz (sub_of hs rfl) _ _ (cellsDrop_wf _ _ _)

theorem freeEv_keeps {ps : Nat} {z s : State} (hz : Keeps ps z s) (hs : Sub 0x48000 ps) (slot : Nat) :
    Keeps ps z (freeEv slot s) := by
  have k_giveSlot : Sub 0x8000 ps := sub_of hs rfl
  have k_forgetSignal : Sub 0x8000 ps := sub_of hs rfl
  have k_evs : Sub 0x40000 ps := sub_of hs rfl
  unfold freeEv
  repeat'
    first
    | with_reducible assumption | with_reducible refine giveSlot_keeps ?_ k_giveSlot _ _
    | with_reducible refine forgetSignal_keeps ?_ k_forgetSignal _
    | fail_if_no_progress with_reducible refine keeps_set_evs ?_ k_evs _ | intro _

theorem freeKey_keeps {ps : Nat} {z s : State} (hz : Keeps ps z s) (hs : Sub 0x80008000 ps) (slot : Nat) :
    Keeps ps z (freeKey slot s) := by
  have k_giveSlot : Sub 0x8000 ps := sub_of hs rfl
  have k_modSec : Sub 0x80000000 ps := sub_of hs rfl
  unfold freeKey
  repeat'
    first
    | with_reducible assumption | with_reducible refine giveSlot_keeps ?_ k_giveSlot _ _
    | with_reducible refine modSec_keeps ?_ k_modSec _ | intro _

theorem freeGraph_keeps {ps : Nat} {z s : State} (hz : Keeps ps z s) (hs : Sub 0x400208000 ps) (slot : Nat) :
    Keeps ps z (freeGraph slot s) := by
  have k_giveSlot : Sub 0x8000 ps := sub_of hs rfl
  have k_modVcu : Sub 0x400000000 ps := sub_of hs rfl
  have k_modTsk : Sub 0x200000 ps := sub_of hs rfl
  unfold freeGraph
  repeat'
    first
    | extract_lets | with_reducible assumption | with_reducible refine giveSlot_keeps ?_ k_giveSlot _ _
    | with_reducible refine modVcu_keeps ?_ k_modVcu _ | with_reducible refine modTsk_keeps ?_ k_modTsk _ | intro _
    | dsimp +zetaDelta only

theorem freeQpSlot_keeps {ps : Nat} {z s : State} (hz : Keeps ps z s) (hs : Sub 0x86ffec001 ps) (q : Nat) :
    Keeps ps z (freeQpSlot q s) := by
  have k_completeDesc : Sub 0x86ffec001 ps := sub_of hs rfl
  have k_modCmd : Sub 0x8000 ps := sub_of hs rfl
  unfold freeQpSlot
  repeat'
    first
    | with_reducible refine keeps_foldl ?_ ?_ | extract_lets | with_reducible assumption
    | with_reducible refine completeDesc_keeps ?_ k_completeDesc _
    | with_reducible refine modCmd_keeps ?_ k_modCmd _ | intro _ | dsimp +zetaDelta only

theorem freeCtx_keeps {ps : Nat} {z s : State} (hz : Keeps ps z s) (hs : Sub 0xcefffc001 ps) (c : Nat) :
    Keeps ps z (freeCtx c s) := by
  have k_freeQpSlot : Sub 0x86ffec001 ps := sub_of hs rfl
  have k_freeGraph : Sub 0x400208000 ps := sub_of hs rfl
  have k_freeKey : Sub 0x80008000 ps := sub_of hs rfl
  have k_freeEv : Sub 0x48000 ps := sub_of hs rfl
  have k_freeMem : Sub 0xc20dac000 ps := sub_of hs rfl
  have k_giveSlot : Sub 0x8000 ps := sub_of hs rfl
  have k_dropStreams : Sub 0x20400000 ps := sub_of hs rfl
  have k_modIng : Sub 0x20000000 ps := sub_of hs rfl
  have k_modTsk : Sub 0x200000 ps := sub_of hs rfl
  have k_runners : Sub 0x8000000 ps := sub_of hs rfl
  have k_ctxs : Sub 0x10000 ps := sub_of hs rfl
  unfold freeCtx
  repeat'
    first
    | with_reducible refine keeps_foldl ?_ ?_ | extract_lets | with_reducible assumption
    | with_reducible refine freeQpSlot_keeps ?_ k_freeQpSlot _
    | with_reducible refine freeGraph_keeps ?_ k_freeGraph _ | with_reducible refine freeKey_keeps ?_ k_freeKey _
    | with_reducible refine freeEv_keeps ?_ k_freeEv _ | with_reducible refine freeMem_keeps ?_ k_freeMem _
    | with_reducible refine giveSlot_keeps ?_ k_giveSlot _ _
    | with_reducible refine dropStreams_keeps ?_ k_dropStreams _ | with_reducible refine modIng_keeps ?_ k_modIng _
    | with_reducible refine modTsk_keeps ?_ k_modTsk _
    | fail_if_no_progress with_reducible refine keeps_set_runners ?_ k_runners _
    | fail_if_no_progress with_reducible refine keeps_set_ctxs ?_ k_ctxs _ | intro _ | dsimp +zetaDelta only

theorem freeObject_keeps {ps : Nat} {z s : State} (hz : Keeps ps z s) (hs : Sub 0xcefffc001 ps) (h : Nat) :
    Keeps ps z (freeObject h s) := by
  have k_freeCtx : Sub 0xcefffc001 ps := sub_of hs rfl
  have k_freeQpSlot : Sub 0x86ffec001 ps := sub_of hs rfl
  have k_freeGraph : Sub 0x400208000 ps := sub_of hs rfl
  have k_freeKey : Sub 0x80008000 ps := sub_of hs rfl
  have k_freeEv : Sub 0x48000 ps := sub_of hs rfl
  have k_freeMem : Sub 0xc20dac000 ps := sub_of hs rfl
  unfold freeObject
  repeat'
    first
    | with_reducible refine keeps_ite (fun _ => ?_) (fun _ => ?_) | extract_lets | with_reducible assumption
    | with_reducible refine freeCtx_keeps ?_ k_freeCtx _ | with_reducible refine freeQpSlot_keeps ?_ k_freeQpSlot _
    | with_reducible refine freeGraph_keeps ?_ k_freeGraph _ | with_reducible refine freeKey_keeps ?_ k_freeKey _
    | with_reducible refine freeEv_keeps ?_ k_freeEv _ | with_reducible refine freeMem_keeps ?_ k_freeMem _
    | intro _ | dsimp +zetaDelta only

theorem execDestructionComplete_keeps {ps : Nat} {z s : State} (hz : Keeps ps z s) (hs : Sub 0xcefffc001 ps) (handle
    : Nat) : ∀ z', execDestructionComplete handle s = .next z' → Keeps ps z z' := by
  have k_freeObject : Sub 0xcefffc001 ps := sub_of hs rfl
  have k_endD : Sub 0x8000 ps := sub_of hs rfl
  intro z' e'
  unfold execDestructionComplete at e'
  cases e'
  repeat'
    first
    | with_reducible refine keeps_foldl ?_ ?_ | with_reducible refine keeps_ite (fun _ => ?_) (fun _ => ?_)
    | extract_lets | with_reducible assumption | with_reducible refine freeObject_keeps ?_ k_freeObject _
    | with_reducible refine endD_keeps ?_ k_endD _ _ | intro _ | split | dsimp +zetaDelta only

end Sys2Proof.Laws
end

