-- ==== Sys2Proof/Laws/KeepsTasks.lean ====
section
/-!
SUPPORT. Sys2Proof/Laws/KeepsTasks.lean: the operations of Sys2Proof/Machine/Tasks.lean keep what Laws/Keeps.lean says.
-/
namespace Sys2Proof.Laws
open Sys2Proof.Machine

theorem launchBegin_keeps {ps : Nat} {z s : State} (hz : Keeps ps z s) (hs : Sub 0x86ffe8001 ps) (x : Launch) (g :
    Graph) (space : Nat) : Keeps ps z (launchBegin x g space s) := by
  have k_settle : Sub 0x86ffe8001 ps := sub_of hs rfl
  have k_fireTasks : Sub 0x200000 ps := sub_of hs rfl
  have k_modTsk : Sub 0x200000 ps := sub_of hs rfl
  unfold launchBegin
  repeat'
    first
    | with_reducible refine keeps_ite (fun _ => ?_) (fun _ => ?_) | extract_lets | with_reducible assumption
    | with_reducible refine settle_keeps ?_ k_settle _ | with_reducible refine fireTasks_keeps ?_ k_fireTasks _ _
    | refine fireTasks_keeps_eq ?_ k_fireTasks _ _ (by assumption)
    | with_reducible refine modTsk_keeps ?_ k_modTsk _ | intro _ | split | dsimp +zetaDelta only

theorem launchTry_keeps {ps : Nat} {z s : State} (hz : Keeps ps z s) (hs : Sub 0x86ffe8001 ps) (a : Accessor) (r :
    LaunchReq) : Keeps ps z (launchTry a r s).2 := by
  have k_launchBegin : Sub 0x86ffe8001 ps := sub_of hs rfl
  have k_touch : Sub 0xc28000 ps := sub_of hs rfl
  unfold launchTry
  repeat'
    first
    | with_reducible refine keeps_ite (fun _ => ?_) (fun _ => ?_) | extract_lets | with_reducible assumption
    | with_reducible refine launchBegin_keeps ?_ k_launchBegin _ _ _
    | with_reducible refine touch_keeps ?_ k_touch _ _ _ _ | intro _ | split | dsimp +zetaDelta only

theorem launchTry_keeps_eq {ps : Nat} {z s z' : State} {b' : Option Result} (hz : Keeps ps z s) (hs : Sub
    0x86ffe8001 ps) (a : Accessor) (r : LaunchReq) (e' : launchTry a r s = (b', z')) :
    Keeps ps z z' := by
  have k := launchTry_keeps hz hs a r
  rw [e'] at k
  exact k

theorem launchNow_keeps {ps : Nat} {z s : State} (hz : Keeps ps z s) (hs : Sub 0x86ffe8001 ps) (qp : Nat) (sub :
    Nat) : Keeps ps z (launchNow qp sub s) := by
  have k_launchTry : Sub 0x86ffe8001 ps := sub_of hs rfl
  have k_guarded : Sub 0x8000 ps := sub_of hs rfl
  have k_onStarted : Sub 0x0 ps := sub_of hs rfl
  have k_runDesc : Sub 0x8000 ps := sub_of hs rfl
  have k_endDesc : Sub 0x8000 ps := sub_of hs rfl
  have k_modDesc : Sub 0x8000 ps := sub_of hs rfl
  unfold launchNow
  repeat'
    first
    | with_reducible refine keeps_ite (fun _ => ?_) (fun _ => ?_) | extract_lets | with_reducible assumption
    | with_reducible refine launchTry_keeps ?_ k_launchTry _ _
    | refine launchTry_keeps_eq ?_ k_launchTry _ _ (by assumption)
    | with_reducible refine guarded_keeps ?_ k_guarded _ _ _ ?_
    | with_reducible refine onStarted_keeps ?_ k_onStarted _ _ _ _ ?_
    | with_reducible refine runDesc_keeps ?_ k_runDesc _ _ _
    | with_reducible refine endDesc_keeps ?_ k_endDesc _ _ _
    | with_reducible refine modDesc_keeps ?_ k_modDesc _ _ _ | intro _ | split | dsimp +zetaDelta only

theorem execLaunchGraph_keeps {ps : Nat} {z s : State} (hz : Keeps ps z s) (hs : Sub 0x86ffe8001 ps) (qp : Nat) (sub
    : Nat) : ∀ z', execLaunchGraph qp sub s = .next z' → Keeps ps z z' := by
  have k_launchNow : Sub 0x86ffe8001 ps := sub_of hs rfl
  intro z' e'
  unfold execLaunchGraph at e'
  cases e'
  repeat'
    first
    | with_reducible refine keeps_ite (fun _ => ?_) (fun _ => ?_) | with_reducible assumption
    | with_reducible refine launchNow_keeps ?_ k_launchNow _ _ | intro _

theorem execOverflowMove_keeps {ps : Nat} {z s : State} (hz : Keeps ps z s) (hs : Sub 0x200000 ps) (part : Nat) :
    ∀ z', execOverflowMove part s = .next z' → Keeps ps z z' := by
  have k_setTask : Sub 0x200000 ps := sub_of hs rfl
  intro z' e'
  unfold execOverflowMove at e'
  cases e'
  repeat'
    first
    | with_reducible refine keeps_ite (fun _ => ?_) (fun _ => ?_) | extract_lets | with_reducible assumption
    | with_reducible refine setTask_keeps ?_ k_setTask _ _ _ | intro _ | split | dsimp +zetaDelta only

theorem startVector_keeps {ps : Nat} {z s : State} (hz : Keeps ps z s) (hs : Sub 0xc40fa8000 ps) (l : Nat) (t : Nat)
    (core : Nat) (r : TaskRec) (rs : List (Nat × Nat × Nat)) : Keeps ps z (startVector l t core r rs s) := by
  have k_entryAction : Sub 0xc40fa8000 ps := sub_of hs rfl
  have k_modVCore : Sub 0x400000000 ps := sub_of hs rfl
  unfold startVector
  repeat'
    first
    | extract_lets | with_reducible assumption | with_reducible refine entryAction_keeps ?_ k_entryAction _ _ _
    | with_reducible refine modVCore_keeps ?_ k_modVCore _ _ | intro _ | split | dsimp +zetaDelta only

theorem startMatrix_keeps {ps : Nat} {z s : State} (hz : Keeps ps z s) (hs : Sub 0x200000000 ps) (l : Nat) (t : Nat)
    (core : Nat) : Keeps ps z (startMatrix l t core s) := by
  have k_modEng : Sub 0x200000000 ps := sub_of hs rfl
  unfold startMatrix
  repeat'
    first
    | with_reducible assumption | with_reducible refine modEng_keeps ?_ k_modEng _ _ | intro _ | split

theorem startService_keeps {ps : Nat} {z s : State} (hz : Keeps ps z s) (hs : Sub 0x840fa8000 ps) (l : Nat) (t :
    Nat) (core : Nat) (r : TaskRec) (rs : List (Nat × Nat × Nat)) :
    Keeps ps z (startService l t core r rs s) := by
  have k_svcClean : Sub 0x840fa8000 ps := sub_of hs rfl
  have k_modSvcCore : Sub 0x800000000 ps := sub_of hs rfl
  unfold startService
  repeat'
    first
    | with_reducible refine keeps_ite (fun _ => ?_) (fun _ => ?_) | extract_lets | with_reducible assumption
    | with_reducible refine svcClean_keeps ?_ k_svcClean _ _
    | with_reducible refine modSvcCore_keeps ?_ k_modSvcCore _ _ | intro _ | dsimp +zetaDelta only

theorem placeTask_keeps {ps : Nat} {z s : State} (hz : Keeps ps z s) (hs : Sub 0xe40fa8000 ps) (l : Nat) (t : Nat)
    (k : CoreKind) (core : Nat) : Keeps ps z (placeTask l t k core s) := by
  have k_startService : Sub 0x840fa8000 ps := sub_of hs rfl
  have k_startMatrix : Sub 0x200000000 ps := sub_of hs rfl
  have k_startVector : Sub 0xc40fa8000 ps := sub_of hs rfl
  have k_setTask : Sub 0x200000 ps := sub_of hs rfl
  have k_modLaunch : Sub 0x200000 ps := sub_of hs rfl
  unfold placeTask
  repeat'
    first
    | with_reducible refine keeps_ite (fun _ => ?_) (fun _ => ?_) | extract_lets | with_reducible assumption
    | with_reducible refine startService_keeps ?_ k_startService _ _ _ _ _
    | with_reducible refine startMatrix_keeps ?_ k_startMatrix _ _ _
    | with_reducible refine startVector_keeps ?_ k_startVector _ _ _ _ _
    | with_reducible refine setTask_keeps ?_ k_setTask _ _ _
    | with_reducible refine modLaunch_keeps ?_ k_modLaunch _ _ | intro _ | split | dsimp +zetaDelta only

theorem execTaskPlace_keeps {ps : Nat} {z s : State} (hz : Keeps ps z s) (hs : Sub 0xe6fff8001 ps) (part : Nat) :
    ∀ z', execTaskPlace part s = .next z' → Keeps ps z z' := by
  have k_placeTask : Sub 0xe40fa8000 ps := sub_of hs rfl
  have k_failTask : Sub 0xe6fff8001 ps := sub_of hs rfl
  have k_modTsk : Sub 0x200000 ps := sub_of hs rfl
  intro z' e'
  unfold execTaskPlace at e'
  cases e'
  repeat'
    first
    | extract_lets | with_reducible assumption | with_reducible refine placeTask_keeps ?_ k_placeTask _ _ _ _
    | with_reducible refine failTask_keeps ?_ k_failTask _ _ _ | with_reducible refine modTsk_keeps ?_ k_modTsk _
    | intro _ | split | dsimp +zetaDelta only

theorem moveEnds_keeps {ps : Nat} {z s : State} (hz : Keeps ps z s) (hs : Sub 0xe6fffa281 ps) (l : Nat) (t : Nat) (x
    : Launch) (g : Graph) (r : TaskRec) (overrun : Bool) : Keeps ps z (moveEnds l t x g r overrun s) := by
  have k_taskEnds : Sub 0xe6fff8001 ps := sub_of hs rfl
  have k_execFault : Sub 0xe6fffa281 ps := sub_of hs rfl
  have k_failTask : Sub 0xe6fff8001 ps := sub_of hs rfl
  have k_storeMem : Sub 0x840fa8000 ps := sub_of hs rfl
  have k_touch : Sub 0xc28000 ps := sub_of hs rfl
  unfold moveEnds
  repeat'
    first
    | with_reducible refine keeps_ite (fun _ => ?_) (fun _ => ?_) | extract_lets | with_reducible assumption
    | with_reducible refine taskEnds_keeps ?_ k_taskEnds _ _ _
    | with_reducible refine execFault_keeps ?_ k_execFault _ _
    | with_reducible refine failTask_keeps ?_ k_failTask _ _ _
    | with_reducible refine storeMem_keeps ?_ k_storeMem _ _ _ _
    | with_reducible refine touch_keeps ?_ k_touch _ _ _ _ | intro _ | split | dsimp +zetaDelta only

theorem threadFlags_keeps {ps : Nat} {z s : State} (hz : Keeps ps z s) (hs : Sub 0x400210000 ps) (core : Nat) (l :
    Nat) (t : Nat) : Keeps ps z (threadFlags core l t s) := by
  have k_flagsToCtx : Sub 0x210000 ps := sub_of hs rfl
  have k_modVCore : Sub 0x400000000 ps := sub_of hs rfl
  unfold threadFlags
  repeat'
    first
    | with_reducible assumption | with_reducible refine flagsToCtx_keeps ?_ k_flagsToCtx _ _
    | with_reducible refine modVCore_keeps ?_ k_modVCore _ _ | intro _ | split

theorem endOn_keeps {ps : Nat} {z s : State} (hz : Keeps ps z s) (hs : Sub 0xe6fffa281 ps) (l : Nat) (t : Nat) (k :
    CoreKind) (core : Nat) (e : TaskEnd) (x : Launch) (g : Graph) (r : TaskRec) :
    Keeps ps z (endOn l t k core e x g r s) := by
  have k_threadFlags : Sub 0x400210000 ps := sub_of hs rfl
  have k_moveEnds : Sub 0xe6fffa281 ps := sub_of hs rfl
  have k_taskStops : Sub 0x86ffe8001 ps := sub_of hs rfl
  have k_svcClean : Sub 0x840fa8000 ps := sub_of hs rfl
  have k_cleanLines : Sub 0xc40fa8000 ps := sub_of hs rfl
  have k_execFault : Sub 0xe6fffa281 ps := sub_of hs rfl
  have k_failTask : Sub 0xe6fff8001 ps := sub_of hs rfl
  unfold endOn
  repeat'
    first
    | with_reducible refine keeps_ite (fun _ => ?_) (fun _ => ?_) | extract_lets | with_reducible assumption
    | with_reducible refine threadFlags_keeps ?_ k_threadFlags _ _ _
    | with_reducible refine moveEnds_keeps ?_ k_moveEnds _ _ _ _ _ _
    | with_reducible refine taskStops_keeps ?_ k_taskStops _ _ _ _ _
    | with_reducible refine svcClean_keeps ?_ k_svcClean _ _
    | with_reducible refine cleanLines_keeps ?_ k_cleanLines _ _
    | with_reducible refine execFault_keeps ?_ k_execFault _ _
    | with_reducible refine failTask_keeps ?_ k_failTask _ _ _ | intro _ | split | dsimp +zetaDelta only

theorem execTaskEnd_keeps {ps : Nat} {z s : State} (hz : Keeps ps z s) (hs : Sub 0xe6fffa281 ps) (launch : Nat)
    (task : Nat) (e : TaskEnd) : ∀ z', execTaskEnd launch task e s = .next z' → Keeps ps z z' := by
  have k_endOn : Sub 0xe6fffa281 ps := sub_of hs rfl
  intro z' e'
  unfold execTaskEnd at e'
  cases e'
  repeat'
    first
    | with_reducible assumption | with_reducible refine endOn_keeps ?_ k_endOn _ _ _ _ _ _ _ _ | split

theorem exitOn_keeps {ps : Nat} {z s : State} (hz : Keeps ps z s) (hs : Sub 0xc40fa8000 ps) (k : CoreKind) (core :
    Nat) (r : TaskRec) (rs : List (Nat × Nat × Nat)) : Keeps ps z (exitOn k core r rs s) := by
  have k_svcClean : Sub 0x840fa8000 ps := sub_of hs rfl
  have k_exitAction : Sub 0xc40fa8000 ps := sub_of hs rfl
  unfold exitOn
  repeat'
    first
    | with_reducible refine keeps_ite (fun _ => ?_) (fun _ => ?_) | with_reducible assumption
    | with_reducible refine svcClean_keeps ?_ k_svcClean _ _
    | with_reducible refine exitAction_keeps ?_ k_exitAction _ _ _ | intro _ | split

theorem execExitActionComplete_keeps {ps : Nat} {z s : State} (hz : Keeps ps z s) (hs : Sub 0xe6fff8001 ps) (launch
    : Nat) (task : Nat) : ∀ z', execExitActionComplete launch task s = .next z' → Keeps ps z z' := by
  have k_exitOn : Sub 0xc40fa8000 ps := sub_of hs rfl
  have k_settle : Sub 0x86ffe8001 ps := sub_of hs rfl
  have k_modLaunch : Sub 0x200000 ps := sub_of hs rfl
  have k_clearCores : Sub 0xe00210000 ps := sub_of hs rfl
  intro z' e'
  unfold execExitActionComplete at e'
  cases e'
  repeat'
    first
    | with_reducible refine keeps_ite (fun _ => ?_) (fun _ => ?_) | extract_lets | with_reducible assumption
    | with_reducible refine exitOn_keeps ?_ k_exitOn _ _ _ _ | with_reducible refine settle_keeps ?_ k_settle _
    | with_reducible refine modLaunch_keeps ?_ k_modLaunch _ _
    | with_reducible refine clearCores_keeps ?_ k_clearCores _ | intro _ | split | dsimp +zetaDelta only

theorem modGen_keeps {ps : Nat} {z s : State} (hz : Keeps ps z s) (hs : Sub 0x200000 ps) (g : Nat) (f : Generation →
    Generation) : Keeps ps z (modGen g f s) := by
  have k_modTsk : Sub 0x200000 ps := sub_of hs rfl
  unfold modGen
  repeat'
    first
    | with_reducible refine keeps_ite (fun _ => ?_) (fun _ => ?_) | with_reducible assumption
    | with_reducible refine modTsk_keeps ?_ k_modTsk _ | intro _

theorem execGenerationResolvable_keeps {ps : Nat} {z s : State} (hz : Keeps ps z s) (hs : Sub 0xe6fff8001 ps) (gen :
    Nat) : ∀ z', execGenerationResolvable gen s = .next z' → Keeps ps z z' := by
  have k_modGen : Sub 0x200000 ps := sub_of hs rfl
  have k_discardGens : Sub 0xe6fff8001 ps := sub_of hs rfl
  intro z' e'
  unfold execGenerationResolvable at e'
  cases e'
  repeat'
    first
    | with_reducible refine keeps_ite (fun _ => ?_) (fun _ => ?_) | with_reducible assumption
    | with_reducible refine modGen_keeps ?_ k_modGen _ _
    | with_reducible refine discardGens_keeps ?_ k_discardGens _ _ | intro _ | split

theorem commitBytes_keeps {ps : Nat} {z s : State} (hz : Keeps ps z s) (hs : Sub 0x40280000 ps) (g : Generation) :
    Keeps ps z (commitBytes g s) := by
  have k_cowGrans : Sub 0x40000000 ps := sub_of hs rfl
  have k_modTsk : Sub 0x200000 ps := sub_of hs rfl
  have k_mem : Sub 0x80000 ps := sub_of hs rfl
  unfold commitBytes
  repeat'
    first
    | with_reducible refine keeps_foldl ?_ ?_ | with_reducible refine keeps_ite (fun _ => ?_) (fun _ => ?_)
    | extract_lets | with_reducible assumption | with_reducible refine cowGrans_keeps ?_ k_cowGrans _
    | with_reducible refine modTsk_keeps ?_ k_modTsk _ | with_reducible exact cellsDrop_wf _ _ _
    | with_reducible exact nil_wf _ | with_reducible exact fold_cellPut_wf _ _ | intro _
    | with_reducible refine keeps_set_mem ?_ k_mem ?_ | dsimp +zetaDelta only

theorem unmarkLines_keeps {ps : Nat} {z s : State} (hz : Keeps ps z s) (hs : Sub 0x400000000 ps) (l : Nat) :
    Keeps ps z (unmarkLines l s) := by
  have k_modVcu : Sub 0x400000000 ps := sub_of hs rfl
  unfold unmarkLines
  repeat'
    first
    | with_reducible refine keeps_ite (fun _ => ?_) (fun _ => ?_) | with_reducible assumption
    | with_reducible refine modVcu_keeps ?_ k_modVcu _ | intro _ | split

theorem execCommitPoint_keeps {ps : Nat} {z s : State} (hz : Keeps ps z s) (hs : Sub 0x440280000 ps) (gen : Nat) :
    ∀ z', execCommitPoint gen s = .next z' → Keeps ps z z' := by
  have k_unmarkLines : Sub 0x400000000 ps := sub_of hs rfl
  have k_commitBytes : Sub 0x40280000 ps := sub_of hs rfl
  have k_modGen : Sub 0x200000 ps := sub_of hs rfl
  have k_modLaunch : Sub 0x200000 ps := sub_of hs rfl
  intro z' e'
  unfold execCommitPoint at e'
  cases e'
  repeat'
    first
    | with_reducible refine keeps_ite (fun _ => ?_) (fun _ => ?_) | extract_lets | with_reducible assumption
    | with_reducible refine unmarkLines_keeps ?_ k_unmarkLines _
    | with_reducible refine commitBytes_keeps ?_ k_commitBytes _
    | with_reducible refine modGen_keeps ?_ k_modGen _ _ | with_reducible refine modLaunch_keeps ?_ k_modLaunch _ _
    | intro _ | split | dsimp +zetaDelta only

theorem execVersionSpaceReturn_keeps {ps : Nat} {z s : State} (hz : Keeps ps z s) (hs : Sub 0x200000 ps) (gen : Nat)
    : ∀ z', execVersionSpaceReturn gen s = .next z' → Keeps ps z z' := by
  have k_modTsk : Sub 0x200000 ps := sub_of hs rfl
  intro z' e'
  unfold execVersionSpaceReturn at e'
  cases e'
  repeat'
    first
    | with_reducible refine keeps_ite (fun _ => ?_) (fun _ => ?_) | with_reducible assumption
    | with_reducible refine modTsk_keeps ?_ k_modTsk _ | intro _ | split

theorem execOldGranuleFree_keeps {ps : Nat} {z s : State} (hz : Keeps ps z s) (hs : Sub 0x200000 ps) (gen : Nat) :
    ∀ z', execOldGranuleFree gen s = .next z' → Keeps ps z z' := by
  have k_modTsk : Sub 0x200000 ps := sub_of hs rfl
  intro z' e'
  unfold execOldGranuleFree at e'
  cases e'
  repeat'
    first
    | extract_lets | with_reducible assumption | with_reducible refine modTsk_keeps ?_ k_modTsk _ | intro _
    | dsimp +zetaDelta only

theorem execLaunchCancel_keeps {ps : Nat} {z s : State} (hz : Keeps ps z s) (hs : Sub 0xe6fff8001 ps) (qp : Nat)
    (sub : Nat) : ∀ z', execLaunchCancel qp sub s = .next z' → Keeps ps z z' := by
  have k_discardGens : Sub 0xe6fff8001 ps := sub_of hs rfl
  have k_stopLaunches : Sub 0xe6fff8001 ps := sub_of hs rfl
  have k_guarded : Sub 0x8000 ps := sub_of hs rfl
  have k_onStarted : Sub 0x0 ps := sub_of hs rfl
  have k_endDesc : Sub 0x8000 ps := sub_of hs rfl
  intro z' e'
  unfold execLaunchCancel at e'
  cases e'
  repeat'
    first
    | with_reducible refine keeps_foldl ?_ ?_ | extract_lets | with_reducible assumption
    | with_reducible refine discardGens_keeps ?_ k_discardGens _ _
    | with_reducible refine stopLaunches_keeps ?_ k_stopLaunches _ _
    | with_reducible refine guarded_keeps ?_ k_guarded _ _ _ ?_
    | with_reducible refine onStarted_keeps ?_ k_onStarted _ _ _ _ ?_
    | with_reducible refine endDesc_keeps ?_ k_endDesc _ _ _ | intro _ | dsimp +zetaDelta only

theorem execProvDiscard_keeps {ps : Nat} {z s : State} (hz : Keeps ps z s) (hs : Sub 0xe6fff8001 ps) (qp : Nat) (sub
    : Nat) : ∀ z', execProvDiscard qp sub s = .next z' → Keeps ps z z' := by
  have k_discardGens : Sub 0xe6fff8001 ps := sub_of hs rfl
  have k_onStarted : Sub 0x0 ps := sub_of hs rfl
  have k_endDesc : Sub 0x8000 ps := sub_of hs rfl
  intro z' e'
  unfold execProvDiscard at e'
  cases e'
  repeat'
    first
    | with_reducible assumption | with_reducible refine discardGens_keeps ?_ k_discardGens _ _
    | with_reducible refine onStarted_keeps ?_ k_onStarted _ _ _ _ ?_
    | with_reducible refine endDesc_keeps ?_ k_endDesc _ _ _ | intro _ | split

theorem execProvQuery_keeps {ps : Nat} {z s : State} (hz : Keeps ps z s) (hs : Sub 0x8000 ps) (qp : Nat) (sub : Nat)
    : ∀ z', execProvQuery qp sub s = .next z' → Keeps ps z z' := by
  have k_onStarted : Sub 0x0 ps := sub_of hs rfl
  have k_endDesc : Sub 0x8000 ps := sub_of hs rfl
  intro z' e'
  unfold execProvQuery at e'
  cases e'
  repeat'
    first
    | extract_lets | with_reducible assumption | with_reducible refine onStarted_keeps ?_ k_onStarted _ _ _ _ ?_
    | with_reducible refine endDesc_keeps ?_ k_endDesc _ _ _ | intro _ | split | dsimp +zetaDelta only

end Sys2Proof.Laws
end

