-- ==== Sys2Proof/Laws/KeepsCollect.lean ====
section
/-!
SUPPORT. Sys2Proof/Laws/KeepsCollect.lean: the operations of Sys2Proof/Machine/Collect.lean keep what Laws/Keeps.lean says.
-/
namespace Sys2Proof.Laws
open Sys2Proof.Machine

theorem postOne_keeps {ps : Nat} {z s : State} (hz : Keeps ps z s) (hs : Sub 0x845fa8001 ps) (c : Nat) (b : List
    Byte) : Keeps ps z (postOne c b s).2 := by
  have k_fireOp : Sub 0x845fa8001 ps := sub_of hs rfl
  have k_opFail : Sub 0x845fa8001 ps := sub_of hs rfl
  have k_modCol : Sub 0x4000000 ps := sub_of hs rfl
  unfold postOne
  repeat'
    first
    | with_reducible refine keeps_ite (fun _ => ?_) (fun _ => ?_) | extract_lets | with_reducible assumption
    | with_reducible refine fireOp_keeps ?_ k_fireOp _ | refine fireOp_keeps_eq ?_ k_fireOp _ (by assumption)
    | with_reducible refine opFail_keeps ?_ k_opFail _ _ _ _
    | refine opFail_keeps_eq ?_ k_opFail _ _ _ _ (by assumption) | with_reducible refine modCol_keeps ?_ k_modCol _
    | intro _ | split | dsimp +zetaDelta only

theorem postOne_keeps_eq {ps : Nat} {z s z' : State} {b' : List Work} (hz : Keeps ps z s) (hs : Sub 0x845fa8001 ps)
    (c : Nat) (b : List Byte) (e' : postOne c b s = (b', z')) :
    Keeps ps z z' := by
  have k := postOne_keeps hz hs c b
  rw [e'] at k
  exact k

theorem postEach_keeps {ps : Nat} {z y1 : State} (hz : Keeps ps z y1) (hs : Sub 0x845fa8001 ps) (c : Nat) (y0 : List
    (List Byte)) : Keeps ps z (postEach c y0 y1).2 := by
  have k_postOne : Sub 0x845fa8001 ps := sub_of hs rfl
  induction y0 generalizing y1 with
  | nil =>
    unfold postEach
    repeat'
      first
      | extract_lets | with_reducible assumption | with_reducible refine postOne_keeps ?_ k_postOne _ _
      | refine postOne_keeps_eq ?_ k_postOne _ _ (by assumption) | split | dsimp +zetaDelta only
  | cons x l ih =>
    unfold postEach
    repeat'
      first
      | with_reducible refine ih ?_
      | extract_lets | with_reducible assumption | with_reducible refine postOne_keeps ?_ k_postOne _ _
      | refine postOne_keeps_eq ?_ k_postOne _ _ (by assumption) | split | dsimp +zetaDelta only

theorem postEach_keeps_eq {ps : Nat} {z y1 z' : State} {b' : List Work} (hz : Keeps ps z y1) (hs : Sub 0x845fa8001
    ps) (c : Nat) (y0 : List (List Byte)) (e' : postEach c y0 y1 = (b', z')) :
    Keeps ps z z' := by
  have k := postEach_keeps hz hs c y0
  rw [e'] at k
  exact k

theorem postedBy_keeps {ps : Nat} {z s : State} (hz : Keeps ps z s) (hs : Sub 0x8000000 ps) (d : Desc) (c : Nat) (lo
    : Nat) : Keeps ps z (postedBy d c lo s) := by
  have k_runners : Sub 0x8000000 ps := sub_of hs rfl
  unfold postedBy
  repeat'
    first
    | with_reducible refine keeps_ite (fun _ => ?_) (fun _ => ?_) | with_reducible assumption
    | fail_if_no_progress with_reducible refine keeps_set_runners ?_ k_runners _ | intro _

theorem execTrigPost_keeps {ps : Nat} {z s : State} (hz : Keeps ps z s) (hs : Sub 0x86ffe8001 ps) (qp : Nat) (sub :
    Nat) : ∀ z', execTrigPost qp sub s = .next z' → Keeps ps z z' := by
  have k_postedBy : Sub 0x8000000 ps := sub_of hs rfl
  have k_postEach : Sub 0x845fa8001 ps := sub_of hs rfl
  have k_endD : Sub 0x8000 ps := sub_of hs rfl
  have k_settle : Sub 0x86ffe8001 ps := sub_of hs rfl
  have k_touch : Sub 0xc28000 ps := sub_of hs rfl
  have k_guarded : Sub 0x8000 ps := sub_of hs rfl
  have k_onStarted : Sub 0x0 ps := sub_of hs rfl
  intro z' e'
  unfold execTrigPost at e'
  cases e'
  repeat'
    first
    | with_reducible refine keeps_ite (fun _ => ?_) (fun _ => ?_) | extract_lets | with_reducible assumption
    | with_reducible refine postedBy_keeps ?_ k_postedBy _ _ _
    | with_reducible refine postEach_keeps ?_ k_postEach _ _
    | refine postEach_keeps_eq ?_ k_postEach _ _ (by assumption) | with_reducible refine endD_keeps ?_ k_endD _ _
    | with_reducible refine settle_keeps ?_ k_settle _ | with_reducible refine touch_keeps ?_ k_touch _ _ _ _
    | with_reducible refine guarded_keeps ?_ k_guarded _ _ _ ?_
    | with_reducible refine onStarted_keeps ?_ k_onStarted _ _ _ _ ?_ | intro _ | split | dsimp +zetaDelta only

theorem execTrigCancel_keeps {ps : Nat} {z s : State} (hz : Keeps ps z s) (hs : Sub 0x86ffe8001 ps) (qp : Nat) (sub
    : Nat) : ∀ z', execTrigCancel qp sub s = .next z' → Keeps ps z z' := by
  have k_endD : Sub 0x8000 ps := sub_of hs rfl
  have k_cancelOps : Sub 0x86ffe8001 ps := sub_of hs rfl
  have k_onStarted : Sub 0x0 ps := sub_of hs rfl
  intro z' e'
  unfold execTrigCancel at e'
  cases e'
  repeat'
    first
    | extract_lets | with_reducible assumption | with_reducible refine endD_keeps ?_ k_endD _ _
    | with_reducible refine cancelOps_keeps ?_ k_cancelOps _
    | with_reducible refine onStarted_keeps ?_ k_onStarted _ _ _ _ ?_ | intro _ | dsimp +zetaDelta only

theorem execGroupCreate_keeps {ps : Nat} {z s : State} (hz : Keeps ps z s) (hs : Sub 0x84c28000 ps) (qp : Nat) (sub
    : Nat) : ∀ z', execGroupCreate qp sub s = .next z' → Keeps ps z z' := by
  have k_uniformRefuse : Sub 0x80008000 ps := sub_of hs rfl
  have k_endD : Sub 0x8000 ps := sub_of hs rfl
  have k_touch : Sub 0xc28000 ps := sub_of hs rfl
  have k_guarded : Sub 0x8000 ps := sub_of hs rfl
  have k_onStarted : Sub 0x0 ps := sub_of hs rfl
  have k_modCol : Sub 0x4000000 ps := sub_of hs rfl
  intro z' e'
  unfold execGroupCreate at e'
  cases e'
  repeat'
    first
    | with_reducible refine keeps_ite (fun _ => ?_) (fun _ => ?_) | extract_lets | with_reducible assumption
    | with_reducible refine uniformRefuse_keeps ?_ k_uniformRefuse _ _
    | with_reducible refine endD_keeps ?_ k_endD _ _ | with_reducible refine touch_keeps ?_ k_touch _ _ _ _
    | with_reducible refine guarded_keeps ?_ k_guarded _ _ _ ?_
    | with_reducible refine onStarted_keeps ?_ k_onStarted _ _ _ _ ?_
    | with_reducible refine modCol_keeps ?_ k_modCol _ | intro _ | split | dsimp +zetaDelta only

theorem execGroupDestroy_keeps {ps : Nat} {z s : State} (hz : Keeps ps z s) (hs : Sub 0x86ffe8001 ps) (qp : Nat)
    (sub : Nat) : ∀ z', execGroupDestroy qp sub s = .next z' → Keeps ps z z' := by
  have k_endD : Sub 0x8000 ps := sub_of hs rfl
  have k_cancelOps : Sub 0x86ffe8001 ps := sub_of hs rfl
  have k_guarded : Sub 0x8000 ps := sub_of hs rfl
  have k_onStarted : Sub 0x0 ps := sub_of hs rfl
  have k_modCol : Sub 0x4000000 ps := sub_of hs rfl
  intro z' e'
  unfold execGroupDestroy at e'
  cases e'
  repeat'
    first
    | extract_lets | with_reducible assumption | with_reducible refine endD_keeps ?_ k_endD _ _
    | with_reducible refine cancelOps_keeps ?_ k_cancelOps _
    | with_reducible refine guarded_keeps ?_ k_guarded _ _ _ ?_
    | with_reducible refine onStarted_keeps ?_ k_onStarted _ _ _ _ ?_
    | with_reducible refine modCol_keeps ?_ k_modCol _ | intro _ | dsimp +zetaDelta only

theorem execGroupQuery_keeps {ps : Nat} {z s : State} (hz : Keeps ps z s) (hs : Sub 0x8000 ps) (qp : Nat) (sub :
    Nat) : ∀ z', execGroupQuery qp sub s = .next z' → Keeps ps z z' := by
  have k_endD : Sub 0x8000 ps := sub_of hs rfl
  have k_guarded : Sub 0x8000 ps := sub_of hs rfl
  have k_onStarted : Sub 0x0 ps := sub_of hs rfl
  intro z' e'
  unfold execGroupQuery at e'
  cases e'
  repeat'
    first
    | extract_lets | with_reducible assumption | with_reducible refine endD_keeps ?_ k_endD _ _
    | with_reducible refine guarded_keeps ?_ k_guarded _ _ _ ?_
    | with_reducible refine onStarted_keeps ?_ k_onStarted _ _ _ _ ?_ | intro _ | split | dsimp +zetaDelta only

theorem modOp_keeps {ps : Nat} {z s : State} (hz : Keeps ps z s) (hs : Sub 0x4000000 ps) (id : Nat) (f : TrigOp →
    TrigOp) : Keeps ps z (modOp id f s) := by
  have k_mapOps : Sub 0x4000000 ps := sub_of hs rfl
  unfold modOp
  repeat'
    first
    | with_reducible refine keeps_ite (fun _ => ?_) (fun _ => ?_) | with_reducible assumption
    | with_reducible refine mapOps_keeps ?_ k_mapOps _ | intro _

theorem failOp_keeps {ps : Nat} {z s : State} (hz : Keeps ps z s) (hs : Sub 0x86ffe8001 ps) (id : Nat) (reason :
    Nat) (rank : Nat) : Keeps ps z (failOp id reason rank s) := by
  have k_settle : Sub 0x86ffe8001 ps := sub_of hs rfl
  have k_opFail : Sub 0x845fa8001 ps := sub_of hs rfl
  unfold failOp
  repeat'
    first
    | extract_lets | with_reducible assumption | with_reducible refine settle_keeps ?_ k_settle _
    | with_reducible refine opFail_keeps ?_ k_opFail _ _ _ _
    | refine opFail_keeps_eq ?_ k_opFail _ _ _ _ (by assumption) | split | dsimp +zetaDelta only

theorem doneOp_keeps {ps : Nat} {z s : State} (hz : Keeps ps z s) (hs : Sub 0x86ffe8001 ps) (id : Nat) :
    Keeps ps z (doneOp id s) := by
  have k_settle : Sub 0x86ffe8001 ps := sub_of hs rfl
  have k_opFinish : Sub 0x844fa8000 ps := sub_of hs rfl
  unfold doneOp
  repeat'
    first
    | extract_lets | with_reducible assumption | with_reducible refine settle_keeps ?_ k_settle _
    | with_reducible refine opFinish_keeps ?_ k_opFinish _ _ _
    | refine opFinish_keeps_eq ?_ k_opFinish _ _ _ (by assumption) | split | dsimp +zetaDelta only

theorem onRange_keeps {ps : Nat} {z s : State} (hz : Keeps ps z s) (hs : Sub 0x86ffe8001 ps) (o : TrigOp) (slot :
    Nat) (off : Nat) (n : Nat) (wr : Bool) (f : State → State) (h_f : ∀ z x0, Keeps ps z x0 → Keeps ps z (f x0)) :
    Keeps ps z (onRange o slot off n wr f s) := by
  have k_failOp : Sub 0x86ffe8001 ps := sub_of hs rfl
  have k_touch : Sub 0xc28000 ps := sub_of hs rfl
  unfold onRange
  repeat'
    first
    | with_reducible assumption | with_reducible refine h_f _ _ ?_
    | with_reducible refine failOp_keeps ?_ k_failOp _ _ _ | with_reducible refine touch_keeps ?_ k_touch _ _ _ _
    | split

theorem modSeg_keeps {ps : Nat} {z s : State} (hz : Keeps ps z s) (hs : Sub 0x4000000 ps) (id : Nat) (g : Nat) (f :
    Seg → Seg) : Keeps ps z (modSeg id g f s) := by
  have k_modOp : Sub 0x4000000 ps := sub_of hs rfl
  unfold modSeg
  repeat'
    first
    | with_reducible assumption | with_reducible refine modOp_keeps ?_ k_modOp _ _ | intro _

theorem countTx_keeps {ps : Nat} {z s : State} (hz : Keeps ps z s) (hs : Sub 0x4000000 ps) (id : Nat) (e : Nat) (n :
    Nat) : Keeps ps z (countTx id e n s) := by
  have k_modOp : Sub 0x4000000 ps := sub_of hs rfl
  have k_modColEng : Sub 0x4000000 ps := sub_of hs rfl
  unfold countTx
  repeat'
    first
    | with_reducible assumption | with_reducible refine modOp_keeps ?_ k_modOp _ _
    | with_reducible refine modColEng_keeps ?_ k_modColEng _ _ | intro _

theorem sendChunks_keeps {ps : Nat} {z s : State} (hz : Keeps ps z s) (hs : Sub 0x5000001 ps) (o : TrigOp) (g : Nat)
    (node : Nat) (b : List Byte) : Keeps ps z (sendChunks o g node b s) := by
  have k_countTx : Sub 0x4000000 ps := sub_of hs rfl
  have k_sendTo : Sub 0x1000001 ps := sub_of hs rfl
  unfold sendChunks
  repeat'
    first
    | with_reducible refine keeps_foldl ?_ ?_ | extract_lets | with_reducible assumption
    | with_reducible refine countTx_keeps ?_ k_countTx _ _ _ | with_reducible refine sendTo_keeps ?_ k_sendTo _ _
    | intro _ | dsimp +zetaDelta only

theorem ctlSend_keeps {ps : Nat} {z s : State} (hz : Keeps ps z s) (hs : Sub 0x5000001 ps) (id : Nat) (kind : Nat)
    (first : Nat) (vals : List Int) (rank : Nat) : Keeps ps z (ctlSend id kind first vals rank s) := by
  have k_modOp : Sub 0x4000000 ps := sub_of hs rfl
  have k_opTell : Sub 0x1000001 ps := sub_of hs rfl
  unfold ctlSend
  repeat'
    first
    | with_reducible assumption | with_reducible refine modOp_keeps ?_ k_modOp _ _
    | with_reducible refine opTell_keeps ?_ k_opTell _ _ _ _ _ | intro _ | split

theorem checkDone_keeps {ps : Nat} {z s : State} (hz : Keeps ps z s) (hs : Sub 0x86ffe8001 ps) (id : Nat) :
    Keeps ps z (checkDone id s) := by
  have k_doneOp : Sub 0x86ffe8001 ps := sub_of hs rfl
  unfold checkDone
  repeat'
    first
    | with_reducible refine keeps_ite (fun _ => ?_) (fun _ => ?_) | with_reducible assumption
    | with_reducible refine doneOp_keeps ?_ k_doneOp _ | intro _ | split

theorem sendPartSeg_keeps {ps : Nat} {z s : State} (hz : Keeps ps z s) (hs : Sub 0x86ffe8001 ps) (id : Nat) (k :
    Nat) (g : Nat) : Keeps ps z (sendPartSeg id k g s) := by
  have k_sendChunks : Sub 0x5000001 ps := sub_of hs rfl
  have k_onRange : Sub 0x86ffe8001 ps := sub_of hs rfl
  have k_touch : Sub 0xc28000 ps := sub_of hs rfl
  unfold sendPartSeg
  repeat'
    first
    | extract_lets | with_reducible assumption | with_reducible refine sendChunks_keeps ?_ k_sendChunks _ _ _ _
    | with_reducible refine onRange_keeps ?_ k_onRange _ _ _ _ _ _ ?_
    | with_reducible refine touch_keeps ?_ k_touch _ _ _ _ | intro _ | split | dsimp +zetaDelta only

theorem sendPart_keeps {ps : Nat} {z s : State} (hz : Keeps ps z s) (hs : Sub 0x86ffe8001 ps) (id : Nat) (k : Nat) :
    Keeps ps z (sendPart id k s) := by
  have k_sendPartSeg : Sub 0x86ffe8001 ps := sub_of hs rfl
  have k_modOp : Sub 0x4000000 ps := sub_of hs rfl
  unfold sendPart
  repeat'
    first
    | with_reducible refine keeps_foldl ?_ ?_ | with_reducible refine keeps_ite (fun _ => ?_) (fun _ => ?_)
    | extract_lets | with_reducible assumption | with_reducible refine sendPartSeg_keeps ?_ k_sendPartSeg _ _ _
    | with_reducible refine modOp_keeps ?_ k_modOp _ _ | intro _ | split | dsimp +zetaDelta only

theorem shardWritten_keeps {ps : Nat} {z s : State} (hz : Keeps ps z s) (hs : Sub 0x86ffe8001 ps) (id : Nat) :
    Keeps ps z (shardWritten id s) := by
  have k_sendPart : Sub 0x86ffe8001 ps := sub_of hs rfl
  have k_checkDone : Sub 0x86ffe8001 ps := sub_of hs rfl
  have k_ctlSend : Sub 0x5000001 ps := sub_of hs rfl
  have k_modOp : Sub 0x4000000 ps := sub_of hs rfl
  unfold shardWritten
  repeat'
    first
    | with_reducible refine keeps_foldl ?_ ?_ | with_reducible refine keeps_ite (fun _ => ?_) (fun _ => ?_)
    | extract_lets | with_reducible assumption | with_reducible refine sendPart_keeps ?_ k_sendPart _ _
    | with_reducible refine checkDone_keeps ?_ k_checkDone _
    | with_reducible refine ctlSend_keeps ?_ k_ctlSend _ _ _ _ _ | with_reducible refine modOp_keeps ?_ k_modOp _ _
    | intro _ | split | dsimp +zetaDelta only

theorem closeSeg_keeps {ps : Nat} {z s : State} (hz : Keeps ps z s) (hs : Sub 0x86ffe8001 ps) (id : Nat) (g : Nat) :
    Keeps ps z (closeSeg id g s) := by
  have k_modSeg : Sub 0x4000000 ps := sub_of hs rfl
  have k_onRange : Sub 0x86ffe8001 ps := sub_of hs rfl
  have k_failOp : Sub 0x86ffe8001 ps := sub_of hs rfl
  have k_modOp : Sub 0x4000000 ps := sub_of hs rfl
  have k_storeMem : Sub 0x840fa8000 ps := sub_of hs rfl
  unfold closeSeg
  repeat'
    first
    | with_reducible refine keeps_ite (fun _ => ?_) (fun _ => ?_) | extract_lets | with_reducible assumption
    | with_reducible refine modSeg_keeps ?_ k_modSeg _ _ _
    | with_reducible refine onRange_keeps ?_ k_onRange _ _ _ _ _ _ ?_
    | with_reducible refine failOp_keeps ?_ k_failOp _ _ _ | with_reducible refine modOp_keeps ?_ k_modOp _ _
    | with_reducible refine storeMem_keeps ?_ k_storeMem _ _ _ _ | intro _ | split | dsimp +zetaDelta only

theorem openSeg_keeps {ps : Nat} {z s : State} (hz : Keeps ps z s) (hs : Sub 0x86ffe8001 ps) (id : Nat) (g : Nat) (e
    : Option Int) : Keeps ps z (openSeg id g e s) := by
  have k_closeSeg : Sub 0x86ffe8001 ps := sub_of hs rfl
  have k_ctlSend : Sub 0x5000001 ps := sub_of hs rfl
  have k_modSeg : Sub 0x4000000 ps := sub_of hs rfl
  have k_onRange : Sub 0x86ffe8001 ps := sub_of hs rfl
  have k_failOp : Sub 0x86ffe8001 ps := sub_of hs rfl
  have k_modOp : Sub 0x4000000 ps := sub_of hs rfl
  have k_touch : Sub 0xc28000 ps := sub_of hs rfl
  unfold openSeg
  repeat'
    first
    | with_reducible refine keeps_foldl ?_ ?_ | with_reducible refine keeps_ite (fun _ => ?_) (fun _ => ?_)
    | extract_lets | with_reducible assumption | with_reducible refine closeSeg_keeps ?_ k_closeSeg _ _
    | with_reducible refine ctlSend_keeps ?_ k_ctlSend _ _ _ _ _
    | with_reducible refine modSeg_keeps ?_ k_modSeg _ _ _
    | with_reducible refine onRange_keeps ?_ k_onRange _ _ _ _ _ _ ?_
    | with_reducible refine failOp_keeps ?_ k_failOp _ _ _ | with_reducible refine modOp_keeps ?_ k_modOp _ _
    | with_reducible refine touch_keeps ?_ k_touch _ _ _ _ | intro _ | split | dsimp +zetaDelta only

theorem openSegs_keeps {ps : Nat} {z s : State} (hz : Keeps ps z s) (hs : Sub 0x86ffe8001 ps) (id : Nat) :
    Keeps ps z (openSegs id s) := by
  have k_openSeg : Sub 0x86ffe8001 ps := sub_of hs rfl
  have k_shardWritten : Sub 0x86ffe8001 ps := sub_of hs rfl
  have k_failOp : Sub 0x86ffe8001 ps := sub_of hs rfl
  unfold openSegs
  repeat'
    first
    | with_reducible refine keeps_foldl ?_ ?_ | with_reducible refine keeps_ite (fun _ => ?_) (fun _ => ?_)
    | extract_lets | with_reducible assumption | with_reducible refine openSeg_keeps ?_ k_openSeg _ _ _
    | with_reducible refine shardWritten_keeps ?_ k_shardWritten _
    | with_reducible refine failOp_keeps ?_ k_failOp _ _ _ | intro _ | split | dsimp +zetaDelta only

theorem openAll_keeps {ps : Nat} {z s : State} (hz : Keeps ps z s) (hs : Sub 0x86ffe8001 ps)  :
    Keeps ps z (openAll s) := by
  have k_openSegs : Sub 0x86ffe8001 ps := sub_of hs rfl
  unfold openAll
  repeat'
    first
    | with_reducible refine keeps_foldl ?_ ?_ | with_reducible assumption
    | with_reducible refine openSegs_keeps ?_ k_openSegs _ | intro _

theorem sendExps_keeps {ps : Nat} {z s : State} (hz : Keeps ps z s) (hs : Sub 0x5000001 ps) (id : Nat) (k : Nat) :
    Keeps ps z (sendExps id k s) := by
  have k_ctlSend : Sub 0x5000001 ps := sub_of hs rfl
  unfold sendExps
  repeat'
    first
    | with_reducible refine keeps_foldl ?_ ?_ | extract_lets | with_reducible assumption
    | with_reducible refine ctlSend_keeps ?_ k_ctlSend _ _ _ _ _ | intro _ | split | dsimp +zetaDelta only

theorem putExps_keeps {ps : Nat} {z s : State} (hz : Keeps ps z s) (hs : Sub 0x4000000 ps) (id : Nat) (rank : Nat)
    (first : Nat) (es : List Int) : Keeps ps z (putExps id rank first es s) := by
  have k_modSeg : Sub 0x4000000 ps := sub_of hs rfl
  unfold putExps
  repeat'
    first
    | with_reducible refine keeps_foldl ?_ ?_ | with_reducible assumption
    | with_reducible refine modSeg_keeps ?_ k_modSeg _ _ _ | intro _

theorem serveGo_keeps {ps : Nat} {z s : State} (hz : Keeps ps z s) (hs : Sub 0x86ffe8001 ps) (id : Nat) (rank : Nat)
    (first : Nat) (n : Nat) : Keeps ps z (serveGo id rank first n s) := by
  have k_sendChunks : Sub 0x5000001 ps := sub_of hs rfl
  have k_onRange : Sub 0x86ffe8001 ps := sub_of hs rfl
  have k_touch : Sub 0xc28000 ps := sub_of hs rfl
  unfold serveGo
  repeat'
    first
    | with_reducible refine keeps_foldl ?_ ?_ | extract_lets | with_reducible assumption
    | with_reducible refine sendChunks_keeps ?_ k_sendChunks _ _ _ _
    | with_reducible refine onRange_keeps ?_ k_onRange _ _ _ _ _ _ ?_
    | with_reducible refine touch_keeps ?_ k_touch _ _ _ _ | intro _ | split | dsimp +zetaDelta only

theorem ctlAct_keeps {ps : Nat} {z s : State} (hz : Keeps ps z s) (hs : Sub 0x86ffe8001 ps) (id : Nat) (kind : Nat)
    (rank : Nat) (sig : Nat) (first : Nat) (vals : List Int) :
    Keeps ps z (ctlAct id kind rank sig first vals s) := by
  have k_serveGo : Sub 0x86ffe8001 ps := sub_of hs rfl
  have k_putExps : Sub 0x4000000 ps := sub_of hs rfl
  have k_openSegs : Sub 0x86ffe8001 ps := sub_of hs rfl
  have k_sendPart : Sub 0x86ffe8001 ps := sub_of hs rfl
  have k_checkDone : Sub 0x86ffe8001 ps := sub_of hs rfl
  have k_failOp : Sub 0x86ffe8001 ps := sub_of hs rfl
  have k_modOp : Sub 0x4000000 ps := sub_of hs rfl
  unfold ctlAct
  repeat'
    first
    | with_reducible refine keeps_ite (fun _ => ?_) (fun _ => ?_) | with_reducible assumption
    | with_reducible refine serveGo_keeps ?_ k_serveGo _ _ _ _
    | with_reducible refine putExps_keeps ?_ k_putExps _ _ _ _
    | with_reducible refine openSegs_keeps ?_ k_openSegs _ | with_reducible refine sendPart_keeps ?_ k_sendPart _ _
    | with_reducible refine checkDone_keeps ?_ k_checkDone _ | with_reducible refine failOp_keeps ?_ k_failOp _ _ _
    | with_reducible refine modOp_keeps ?_ k_modOp _ _ | intro _ | split

theorem takeHeld_keeps {ps : Nat} {z s : State} (hz : Keeps ps z s) (hs : Sub 0x4000000 ps) (gi : Nat) (seq : Nat) :
    Keeps ps z (takeHeld gi seq s).2 := by
  have k_modCol : Sub 0x4000000 ps := sub_of hs rfl
  unfold takeHeld
  repeat'
    first
    | extract_lets | with_reducible assumption | with_reducible refine modCol_keeps ?_ k_modCol _ | intro _ | split
    | dsimp +zetaDelta only

theorem takeHeld_keeps_eq {ps : Nat} {z s z' : State} {b' : List HeldCtl} (hz : Keeps ps z s) (hs : Sub 0x4000000
    ps) (gi : Nat) (seq : Nat) (e' : takeHeld gi seq s = (b', z')) :
    Keeps ps z z' := by
  have k := takeHeld_keeps hz hs gi seq
  rw [e'] at k
  exact k

theorem ownCopy_keeps {ps : Nat} {z s : State} (hz : Keeps ps z s) (hs : Sub 0x86ffe8001 ps) (id : Nat) :
    Keeps ps z (ownCopy id s) := by
  have k_onRange : Sub 0x86ffe8001 ps := sub_of hs rfl
  have k_storeMem : Sub 0x840fa8000 ps := sub_of hs rfl
  have k_touch : Sub 0xc28000 ps := sub_of hs rfl
  unfold ownCopy
  repeat'
    first
    | with_reducible refine keeps_foldl ?_ ?_ | with_reducible refine keeps_ite (fun _ => ?_) (fun _ => ?_)
    | extract_lets | with_reducible assumption | with_reducible refine onRange_keeps ?_ k_onRange _ _ _ _ _ _ ?_
    | with_reducible refine storeMem_keeps ?_ k_storeMem _ _ _ _
    | with_reducible refine touch_keeps ?_ k_touch _ _ _ _ | intro _ | split | dsimp +zetaDelta only

theorem switchSend_keeps {ps : Nat} {z s : State} (hz : Keeps ps z s) (hs : Sub 0x86ffe8001 ps) (id : Nat) :
    Keeps ps z (switchSend id s) := by
  have k_sendChunks : Sub 0x5000001 ps := sub_of hs rfl
  have k_modSeg : Sub 0x4000000 ps := sub_of hs rfl
  have k_onRange : Sub 0x86ffe8001 ps := sub_of hs rfl
  have k_touch : Sub 0xc28000 ps := sub_of hs rfl
  unfold switchSend
  repeat'
    first
    | with_reducible refine keeps_ite (fun _ => ?_) (fun _ => ?_) | extract_lets | with_reducible assumption
    | with_reducible refine sendChunks_keeps ?_ k_sendChunks _ _ _ _
    | with_reducible refine modSeg_keeps ?_ k_modSeg _ _ _
    | with_reducible refine onRange_keeps ?_ k_onRange _ _ _ _ _ _ ?_
    | with_reducible refine touch_keeps ?_ k_touch _ _ _ _ | intro _ | split | dsimp +zetaDelta only

theorem directBegin_keeps {ps : Nat} {z s : State} (hz : Keeps ps z s) (hs : Sub 0x86ffe8001 ps) (id : Nat) :
    Keeps ps z (directBegin id s) := by
  have k_ownCopy : Sub 0x86ffe8001 ps := sub_of hs rfl
  have k_putExps : Sub 0x4000000 ps := sub_of hs rfl
  have k_sendExps : Sub 0x5000001 ps := sub_of hs rfl
  have k_openSegs : Sub 0x86ffe8001 ps := sub_of hs rfl
  have k_checkDone : Sub 0x86ffe8001 ps := sub_of hs rfl
  have k_ctlSend : Sub 0x5000001 ps := sub_of hs rfl
  have k_onRange : Sub 0x86ffe8001 ps := sub_of hs rfl
  have k_touch : Sub 0xc28000 ps := sub_of hs rfl
  unfold directBegin
  repeat'
    first
    | with_reducible refine keeps_foldl ?_ ?_ | with_reducible refine keeps_ite (fun _ => ?_) (fun _ => ?_)
    | extract_lets | with_reducible assumption | with_reducible refine ownCopy_keeps ?_ k_ownCopy _
    | with_reducible refine putExps_keeps ?_ k_putExps _ _ _ _
    | with_reducible refine sendExps_keeps ?_ k_sendExps _ _ | with_reducible refine openSegs_keeps ?_ k_openSegs _
    | with_reducible refine checkDone_keeps ?_ k_checkDone _
    | with_reducible refine ctlSend_keeps ?_ k_ctlSend _ _ _ _ _
    | with_reducible refine onRange_keeps ?_ k_onRange _ _ _ _ _ _ ?_
    | with_reducible refine touch_keeps ?_ k_touch _ _ _ _ | intro _ | split | dsimp +zetaDelta only

theorem heldAct_keeps {ps : Nat} {z s : State} (hz : Keeps ps z s) (hs : Sub 0x86ffe8001 ps) (id : Nat) :
    Keeps ps z (heldAct id s) := by
  have k_takeHeld : Sub 0x4000000 ps := sub_of hs rfl
  have k_ctlAct : Sub 0x86ffe8001 ps := sub_of hs rfl
  unfold heldAct
  repeat'
    first
    | with_reducible refine keeps_foldl ?_ ?_ | extract_lets | with_reducible assumption
    | with_reducible refine takeHeld_keeps ?_ k_takeHeld _ _
    | refine takeHeld_keeps_eq ?_ k_takeHeld _ _ (by assumption)
    | with_reducible refine ctlAct_keeps ?_ k_ctlAct _ _ _ _ _ _ | intro _ | split | dsimp +zetaDelta only

theorem execCollectiveOpStart_keeps {ps : Nat} {z s : State} (hz : Keeps ps z s) (hs : Sub 0x86ffe8001 ps) (eng :
    Nat) : ∀ z', execCollectiveOpStart eng s = .next z' → Keeps ps z z' := by
  have k_heldAct : Sub 0x86ffe8001 ps := sub_of hs rfl
  have k_directBegin : Sub 0x86ffe8001 ps := sub_of hs rfl
  have k_switchSend : Sub 0x86ffe8001 ps := sub_of hs rfl
  have k_checkDone : Sub 0x86ffe8001 ps := sub_of hs rfl
  have k_modOp : Sub 0x4000000 ps := sub_of hs rfl
  intro z' e'
  unfold execCollectiveOpStart at e'
  cases e'
  repeat'
    first
    | with_reducible refine keeps_ite (fun _ => ?_) (fun _ => ?_) | extract_lets | with_reducible assumption
    | with_reducible refine heldAct_keeps ?_ k_heldAct _
    | with_reducible refine directBegin_keeps ?_ k_directBegin _
    | with_reducible refine switchSend_keeps ?_ k_switchSend _
    | with_reducible refine checkDone_keeps ?_ k_checkDone _ | with_reducible refine modOp_keeps ?_ k_modOp _ _
    | intro _ | split | dsimp +zetaDelta only

theorem holdCtl_keeps {ps : Nat} {z s : State} (hz : Keeps ps z s) (hs : Sub 0x5000001 ps) (gi : Nat) (h : HeldCtl)
    (node : Nat) (kind : Nat) : Keeps ps z (holdCtl gi h node kind s) := by
  have k_sendTo : Sub 0x1000001 ps := sub_of hs rfl
  have k_modCol : Sub 0x4000000 ps := sub_of hs rfl
  unfold holdCtl
  repeat'
    first
    | with_reducible refine keeps_ite (fun _ => ?_) (fun _ => ?_) | with_reducible assumption
    | with_reducible refine sendTo_keeps ?_ k_sendTo _ _ | with_reducible refine modCol_keeps ?_ k_modCol _
    | intro _ | split

theorem ctlIn_keeps {ps : Nat} {z s : State} (hz : Keeps ps z s) (hs : Sub 0x86ffe8001 ps) (port : Nat) (node : Nat)
    (tag : Nat) (seq : Nat) (kind : Nat) (sig : Nat) (first : Nat) (vals : List Int) :
    Keeps ps z (ctlIn port node tag seq kind sig first vals s) := by
  have k_holdCtl : Sub 0x5000001 ps := sub_of hs rfl
  have k_ctlAct : Sub 0x86ffe8001 ps := sub_of hs rfl
  have k_sendTo : Sub 0x1000001 ps := sub_of hs rfl
  have k_routeDrop : Sub 0x1000000 ps := sub_of hs rfl
  unfold ctlIn
  repeat'
    first
    | with_reducible refine keeps_ite (fun _ => ?_) (fun _ => ?_) | extract_lets | with_reducible assumption
    | with_reducible refine holdCtl_keeps ?_ k_holdCtl _ _ _ _
    | with_reducible refine ctlAct_keeps ?_ k_ctlAct _ _ _ _ _ _
    | with_reducible refine sendTo_keeps ?_ k_sendTo _ _ | with_reducible refine routeDrop_keeps ?_ k_routeDrop _
    | intro _ | split | dsimp +zetaDelta only

theorem execExp_keeps {ps : Nat} {z s : State} (hz : Keeps ps z s) (hs : Sub 0x86ffe8001 ps) (port : Nat) (node :
    Nat) (tag : Nat) (seq : Nat) (sig : Nat) (first : Nat) (exps : List Int) :
    ∀ z', execExp port node tag seq sig first exps s = .next z' → Keeps ps z z' := by
  have k_ctlIn : Sub 0x86ffe8001 ps := sub_of hs rfl
  have k_openAll : Sub 0x86ffe8001 ps := sub_of hs rfl
  intro z' e'
  unfold execExp at e'
  cases e'
  repeat'
    first
    | with_reducible assumption | with_reducible refine ctlIn_keeps ?_ k_ctlIn _ _ _ _ _ _ _ _
    | with_reducible refine openAll_keeps ?_ k_openAll

theorem execGo_keeps {ps : Nat} {z s : State} (hz : Keeps ps z s) (hs : Sub 0x86ffe8001 ps) (port : Nat) (node :
    Nat) (tag : Nat) (seq : Nat) (sig : Nat) (first : Nat) (n : Nat) (exps : List Int) :
    ∀ z', execGo port node tag seq sig first n exps s = .next z' → Keeps ps z z' := by
  have k_ctlIn : Sub 0x86ffe8001 ps := sub_of hs rfl
  have k_openAll : Sub 0x86ffe8001 ps := sub_of hs rfl
  intro z' e'
  unfold execGo at e'
  cases e'
  repeat'
    first
    | with_reducible assumption | with_reducible refine ctlIn_keeps ?_ k_ctlIn _ _ _ _ _ _ _ _
    | with_reducible refine openAll_keeps ?_ k_openAll

theorem execReady_keeps {ps : Nat} {z s : State} (hz : Keeps ps z s) (hs : Sub 0x86ffe8001 ps) (port : Nat) (node :
    Nat) (tag : Nat) (seq : Nat) (sig : Nat) :
    ∀ z', execReady port node tag seq sig s = .next z' → Keeps ps z z' := by
  have k_ctlIn : Sub 0x86ffe8001 ps := sub_of hs rfl
  have k_openAll : Sub 0x86ffe8001 ps := sub_of hs rfl
  intro z' e'
  unfold execReady at e'
  cases e'
  repeat'
    first
    | with_reducible assumption | with_reducible refine ctlIn_keeps ?_ k_ctlIn _ _ _ _ _ _ _ _
    | with_reducible refine openAll_keeps ?_ k_openAll

theorem execDone_keeps {ps : Nat} {z s : State} (hz : Keeps ps z s) (hs : Sub 0x86ffe8001 ps) (port : Nat) (node :
    Nat) (tag : Nat) (seq : Nat) (sig : Nat) :
    ∀ z', execDone port node tag seq sig s = .next z' → Keeps ps z z' := by
  have k_ctlIn : Sub 0x86ffe8001 ps := sub_of hs rfl
  have k_openAll : Sub 0x86ffe8001 ps := sub_of hs rfl
  intro z' e'
  unfold execDone at e'
  cases e'
  repeat'
    first
    | with_reducible assumption | with_reducible refine ctlIn_keeps ?_ k_ctlIn _ _ _ _ _ _ _ _
    | with_reducible refine openAll_keeps ?_ k_openAll

theorem fallBack_keeps {ps : Nat} {z s : State} (hz : Keeps ps z s) (hs : Sub 0x86ffe8001 ps) (id : Nat) (tell :
    Bool) : Keeps ps z (fallBack id tell s) := by
  have k_heldAct : Sub 0x86ffe8001 ps := sub_of hs rfl
  have k_directBegin : Sub 0x86ffe8001 ps := sub_of hs rfl
  have k_modOp : Sub 0x4000000 ps := sub_of hs rfl
  have k_opTell : Sub 0x1000001 ps := sub_of hs rfl
  unfold fallBack
  repeat'
    first
    | with_reducible refine keeps_ite (fun _ => ?_) (fun _ => ?_) | extract_lets | with_reducible assumption
    | with_reducible refine heldAct_keeps ?_ k_heldAct _
    | with_reducible refine directBegin_keeps ?_ k_directBegin _ | with_reducible refine modOp_keeps ?_ k_modOp _ _
    | with_reducible refine opTell_keeps ?_ k_opTell _ _ _ _ _ | intro _ | split | dsimp +zetaDelta only

theorem execAbort_keeps {ps : Nat} {z s : State} (hz : Keeps ps z s) (hs : Sub 0x86ffe8001 ps) (port : Nat) (node :
    Nat) (tag : Nat) (seq : Nat) (sig : Nat) (reason : Nat) (rank : Nat) (fallback : Bool) :
    ∀ z', execAbort port node tag seq sig reason rank fallback s = .next z' → Keeps ps z z' := by
  have k_fallBack : Sub 0x86ffe8001 ps := sub_of hs rfl
  have k_holdCtl : Sub 0x5000001 ps := sub_of hs rfl
  have k_openAll : Sub 0x86ffe8001 ps := sub_of hs rfl
  have k_failOp : Sub 0x86ffe8001 ps := sub_of hs rfl
  have k_modOp : Sub 0x4000000 ps := sub_of hs rfl
  have k_sendTo : Sub 0x1000001 ps := sub_of hs rfl
  have k_routeDrop : Sub 0x1000000 ps := sub_of hs rfl
  intro z' e'
  unfold execAbort at e'
  cases e'
  repeat'
    first
    | with_reducible refine keeps_ite (fun _ => ?_) (fun _ => ?_) | extract_lets | with_reducible assumption
    | with_reducible refine fallBack_keeps ?_ k_fallBack _ _
    | with_reducible refine holdCtl_keeps ?_ k_holdCtl _ _ _ _ | with_reducible refine openAll_keeps ?_ k_openAll
    | with_reducible refine failOp_keeps ?_ k_failOp _ _ _ | with_reducible refine modOp_keeps ?_ k_modOp _ _
    | with_reducible refine sendTo_keeps ?_ k_sendTo _ _ | with_reducible refine routeDrop_keeps ?_ k_routeDrop _
    | intro _ | split | dsimp +zetaDelta only

theorem execBusy_keeps {ps : Nat} {z s : State} (hz : Keeps ps z s) (hs : Sub 0x5000001 ps) (port : Nat) (node :
    Nat) (tag : Nat) (seq : Nat) (kind : Nat) :
    ∀ z', execBusy port node tag seq kind s = .next z' → Keeps ps z z' := by
  have k_modOp : Sub 0x4000000 ps := sub_of hs rfl
  have k_sendTo : Sub 0x1000001 ps := sub_of hs rfl
  have k_routeDrop : Sub 0x1000000 ps := sub_of hs rfl
  intro z' e'
  unfold execBusy at e'
  cases e'
  repeat'
    first
    | with_reducible refine keeps_ite (fun _ => ?_) (fun _ => ?_) | extract_lets | with_reducible assumption
    | with_reducible refine modOp_keeps ?_ k_modOp _ _ | with_reducible refine sendTo_keeps ?_ k_sendTo _ _
    | with_reducible refine routeDrop_keeps ?_ k_routeDrop _ | intro _ | split | dsimp +zetaDelta only

theorem ctlAgain_keeps {ps : Nat} {z s : State} (hz : Keeps ps z s) (hs : Sub 0x1000001 ps) (id : Nat) (kind : Nat)
    (rank : Nat) : Keeps ps z (ctlAgain id kind rank s) := by
  have k_opTell : Sub 0x1000001 ps := sub_of hs rfl
  unfold ctlAgain
  repeat'
    first
    | with_reducible refine keeps_foldl ?_ ?_ | with_reducible refine keeps_ite (fun _ => ?_) (fun _ => ?_)
    | extract_lets | with_reducible assumption | with_reducible refine opTell_keeps ?_ k_opTell _ _ _ _ _ | intro _
    | split | dsimp +zetaDelta only

theorem execBusyRetry_keeps {ps : Nat} {z s : State} (hz : Keeps ps z s) (hs : Sub 0x5000001 ps) (op : Nat) (kind :
    Nat) (rank : Nat) : ∀ z', execBusyRetry op kind rank s = .next z' → Keeps ps z z' := by
  have k_ctlAgain : Sub 0x1000001 ps := sub_of hs rfl
  have k_modOp : Sub 0x4000000 ps := sub_of hs rfl
  intro z' e'
  unfold execBusyRetry at e'
  cases e'
  repeat'
    first
    | with_reducible refine keeps_ite (fun _ => ?_) (fun _ => ?_) | with_reducible assumption
    | with_reducible refine ctlAgain_keeps ?_ k_ctlAgain _ _ _ | with_reducible refine modOp_keeps ?_ k_modOp _ _
    | intro _ | split

theorem execCollAck_keeps {ps : Nat} {z s : State} (hz : Keeps ps z s) (hs : Sub 0x5000000 ps) (port : Nat) (node :
    Nat) (tag : Nat) (seq : Nat) (kind : Nat) :
    ∀ z', execCollAck port node tag seq kind s = .next z' → Keeps ps z z' := by
  have k_modOp : Sub 0x4000000 ps := sub_of hs rfl
  have k_routeDrop : Sub 0x1000000 ps := sub_of hs rfl
  intro z' e'
  unfold execCollAck at e'
  cases e'
  repeat'
    first
    | with_reducible assumption | with_reducible refine modOp_keeps ?_ k_modOp _ _
    | with_reducible refine routeDrop_keeps ?_ k_routeDrop _ | intro _ | split

theorem reduceIn_keeps {ps : Nat} {z s : State} (hz : Keeps ps z s) (hs : Sub 0x86ffe8001 ps) (o : TrigOp) (g : Nat)
    (rank : Nat) (c : Nat) (data : List Byte) : Keeps ps z (reduceIn o g rank c data s) := by
  have k_openSegs : Sub 0x86ffe8001 ps := sub_of hs rfl
  have k_closeSeg : Sub 0x86ffe8001 ps := sub_of hs rfl
  have k_modSeg : Sub 0x4000000 ps := sub_of hs rfl
  have k_failOp : Sub 0x86ffe8001 ps := sub_of hs rfl
  have k_modOp : Sub 0x4000000 ps := sub_of hs rfl
  have k_modColEng : Sub 0x4000000 ps := sub_of hs rfl
  unfold reduceIn
  repeat'
    first
    | with_reducible refine keeps_ite (fun _ => ?_) (fun _ => ?_) | extract_lets | with_reducible assumption
    | with_reducible refine openSegs_keeps ?_ k_openSegs _ | with_reducible refine closeSeg_keeps ?_ k_closeSeg _ _
    | with_reducible refine modSeg_keeps ?_ k_modSeg _ _ _ | with_reducible refine failOp_keeps ?_ k_failOp _ _ _
    | with_reducible refine modOp_keeps ?_ k_modOp _ _ | with_reducible refine modColEng_keeps ?_ k_modColEng _ _
    | intro _ | split | dsimp +zetaDelta only

theorem gatherIn_keeps {ps : Nat} {z s : State} (hz : Keeps ps z s) (hs : Sub 0x86ffe8001 ps) (o : TrigOp) (g : Nat)
    (rank : Nat) (c : Nat) (data : List Byte) : Keeps ps z (gatherIn o g rank c data s) := by
  have k_checkDone : Sub 0x86ffe8001 ps := sub_of hs rfl
  have k_ctlSend : Sub 0x5000001 ps := sub_of hs rfl
  have k_onRange : Sub 0x86ffe8001 ps := sub_of hs rfl
  have k_modOp : Sub 0x4000000 ps := sub_of hs rfl
  have k_modColEng : Sub 0x4000000 ps := sub_of hs rfl
  have k_storeMem : Sub 0x840fa8000 ps := sub_of hs rfl
  unfold gatherIn
  repeat'
    first
    | with_reducible refine keeps_ite (fun _ => ?_) (fun _ => ?_) | extract_lets | with_reducible assumption
    | with_reducible refine checkDone_keeps ?_ k_checkDone _
    | with_reducible refine ctlSend_keeps ?_ k_ctlSend _ _ _ _ _
    | with_reducible refine onRange_keeps ?_ k_onRange _ _ _ _ _ _ ?_
    | with_reducible refine modOp_keeps ?_ k_modOp _ _ | with_reducible refine modColEng_keeps ?_ k_modColEng _ _
    | with_reducible refine storeMem_keeps ?_ k_storeMem _ _ _ _ | intro _ | split | dsimp +zetaDelta only

theorem execCollData_keeps {ps : Nat} {z s : State} (hz : Keeps ps z s) (hs : Sub 0x86ffe8001 ps) (port : Nat) (node
    : Nat) (tag : Nat) (seq : Nat) (seg : Nat) (rank : Nat) (chunk : Nat) (data : List Byte) :
    ∀ z', execCollData port node tag seq seg rank chunk data s = .next z' → Keeps ps z z' := by
  have k_gatherIn : Sub 0x86ffe8001 ps := sub_of hs rfl
  have k_reduceIn : Sub 0x86ffe8001 ps := sub_of hs rfl
  have k_openAll : Sub 0x86ffe8001 ps := sub_of hs rfl
  have k_routeDrop : Sub 0x1000000 ps := sub_of hs rfl
  intro z' e'
  unfold execCollData at e'
  cases e'
  repeat'
    first
    | with_reducible refine keeps_ite (fun _ => ?_) (fun _ => ?_) | with_reducible assumption
    | with_reducible refine gatherIn_keeps ?_ k_gatherIn _ _ _ _ _
    | with_reducible refine reduceIn_keeps ?_ k_reduceIn _ _ _ _ _
    | with_reducible refine openAll_keeps ?_ k_openAll | with_reducible refine routeDrop_keeps ?_ k_routeDrop _
    | intro _ | split

theorem execResendTimer_keeps {ps : Nat} {z s : State} (hz : Keeps ps z s) (hs : Sub 0x86ffe8001 ps) (op : Nat) (seg
    : Option Nat) (kind : Nat) (rank : Nat) :
    ∀ z', execResendTimer op seg kind rank s = .next z' → Keeps ps z z' := by
  have k_ctlAgain : Sub 0x1000001 ps := sub_of hs rfl
  have k_openAll : Sub 0x86ffe8001 ps := sub_of hs rfl
  have k_modSeg : Sub 0x4000000 ps := sub_of hs rfl
  have k_failOp : Sub 0x86ffe8001 ps := sub_of hs rfl
  have k_modOp : Sub 0x4000000 ps := sub_of hs rfl
  have k_opTell : Sub 0x1000001 ps := sub_of hs rfl
  have k_modColEng : Sub 0x4000000 ps := sub_of hs rfl
  intro z' e'
  unfold execResendTimer at e'
  cases e'
  repeat'
    first
    | with_reducible refine keeps_foldl ?_ ?_ | with_reducible refine keeps_ite (fun _ => ?_) (fun _ => ?_)
    | extract_lets | with_reducible assumption | with_reducible refine ctlAgain_keeps ?_ k_ctlAgain _ _ _
    | with_reducible refine openAll_keeps ?_ k_openAll | with_reducible refine modSeg_keeps ?_ k_modSeg _ _ _
    | with_reducible refine failOp_keeps ?_ k_failOp _ _ _ | with_reducible refine modOp_keeps ?_ k_modOp _ _
    | with_reducible refine opTell_keeps ?_ k_opTell _ _ _ _ _
    | with_reducible refine modColEng_keeps ?_ k_modColEng _ _ | intro _ | split | dsimp +zetaDelta only

theorem execOperationTimeout_keeps {ps : Nat} {z s : State} (hz : Keeps ps z s) (hs : Sub 0x86ffe8001 ps) (op : Nat)
    : ∀ z', execOperationTimeout op s = .next z' → Keeps ps z z' := by
  have k_openAll : Sub 0x86ffe8001 ps := sub_of hs rfl
  have k_failOp : Sub 0x86ffe8001 ps := sub_of hs rfl
  intro z' e'
  unfold execOperationTimeout at e'
  cases e'
  repeat'
    first
    | with_reducible refine keeps_ite (fun _ => ?_) (fun _ => ?_) | with_reducible assumption
    | with_reducible refine openAll_keeps ?_ k_openAll | with_reducible refine failOp_keeps ?_ k_failOp _ _ _
    | intro _ | split

theorem execCaps_keeps {ps : Nat} {z s : State} (hz : Keeps ps z s) (hs : Sub 0x5000001 ps) (port : Nat) (types :
    Nat) (members : Nat) (memKib : Nat) :
    ∀ z', execCaps port types members memKib s = .next z' → Keeps ps z z' := by
  have k_sendPort : Sub 0x1000001 ps := sub_of hs rfl
  have k_modCol : Sub 0x4000000 ps := sub_of hs rfl
  intro z' e'
  unfold execCaps at e'
  cases e'
  repeat'
    first
    | with_reducible refine keeps_ite (fun _ => ?_) (fun _ => ?_) | extract_lets | with_reducible assumption
    | with_reducible refine sendPort_keeps ?_ k_sendPort _ _ | with_reducible refine modCol_keeps ?_ k_modCol _
    | intro _ | dsimp +zetaDelta only

theorem execSwRefuse_keeps {ps : Nat} {z s : State} (hz : Keeps ps z s) (hs : Sub 0x86ffe8001 ps) (port : Nat) (tag
    : Nat) (seq : Nat) (seg : Nat) : ∀ z', execSwRefuse port tag seq seg s = .next z' → Keeps ps z z' := by
  have k_fallBack : Sub 0x86ffe8001 ps := sub_of hs rfl
  have k_sendPort : Sub 0x1000001 ps := sub_of hs rfl
  intro z' e'
  unfold execSwRefuse at e'
  cases e'
  repeat'
    first
    | with_reducible refine keeps_ite (fun _ => ?_) (fun _ => ?_) | with_reducible assumption
    | with_reducible refine fallBack_keeps ?_ k_fallBack _ _
    | with_reducible refine sendPort_keeps ?_ k_sendPort _ _ | intro _ | split

theorem execSwitchSum_keeps {ps : Nat} {z s : State} (hz : Keeps ps z s) (hs : Sub 0x86ffe8001 ps) (port : Nat) (tag
    : Nat) (seq : Nat) (seg : Nat) (data : List Byte) :
    ∀ z', execSwitchSum port tag seq seg data s = .next z' → Keeps ps z z' := by
  have k_switchSend : Sub 0x86ffe8001 ps := sub_of hs rfl
  have k_checkDone : Sub 0x86ffe8001 ps := sub_of hs rfl
  have k_modSeg : Sub 0x4000000 ps := sub_of hs rfl
  have k_onRange : Sub 0x86ffe8001 ps := sub_of hs rfl
  have k_modColEng : Sub 0x4000000 ps := sub_of hs rfl
  have k_routeDrop : Sub 0x1000000 ps := sub_of hs rfl
  have k_storeMem : Sub 0x840fa8000 ps := sub_of hs rfl
  intro z' e'
  unfold execSwitchSum at e'
  cases e'
  repeat'
    first
    | with_reducible refine keeps_ite (fun _ => ?_) (fun _ => ?_) | extract_lets | with_reducible assumption
    | with_reducible refine switchSend_keeps ?_ k_switchSend _
    | with_reducible refine checkDone_keeps ?_ k_checkDone _ | with_reducible refine modSeg_keeps ?_ k_modSeg _ _ _
    | with_reducible refine onRange_keeps ?_ k_onRange _ _ _ _ _ _ ?_
    | with_reducible refine modColEng_keeps ?_ k_modColEng _ _
    | with_reducible refine routeDrop_keeps ?_ k_routeDrop _
    | with_reducible refine storeMem_keeps ?_ k_storeMem _ _ _ _ | intro _ | split | dsimp +zetaDelta only

theorem execSwitchSumTimeout_keeps {ps : Nat} {z s : State} (hz : Keeps ps z s) (hs : Sub 0x86ffe8001 ps) (op : Nat)
    : ∀ z', execSwitchSumTimeout op s = .next z' → Keeps ps z z' := by
  have k_fallBack : Sub 0x86ffe8001 ps := sub_of hs rfl
  intro z' e'
  unfold execSwitchSumTimeout at e'
  cases e'
  repeat'
    first
    | with_reducible refine keeps_ite (fun _ => ?_) (fun _ => ?_) | with_reducible assumption
    | with_reducible refine fallBack_keeps ?_ k_fallBack _ _ | intro _ | split

theorem execReductionStoreError_keeps {ps : Nat} {z s : State} (hz : Keeps ps z s) (hs : Sub 0xfffffffff ps) (eng :
    Nat) : ∀ z', execReductionStoreError eng s = .next z' → Keeps ps z z' := by
  have k_unitFault : Sub 0xfffffffff ps := sub_of hs rfl
  intro z' e'
  unfold execReductionStoreError at e'
  cases e'
  repeat'
    first
    | with_reducible refine keeps_ite (fun _ => ?_) (fun _ => ?_) | with_reducible assumption
    | with_reducible refine unitFault_keeps ?_ k_unitFault _ _ _ _ | intro _

end Sys2Proof.Laws
end

