-- ==== Sys2Proof/Laws/KeepsSchedule.lean ====
section
/-!
SUPPORT. Sys2Proof/Laws/KeepsSchedule.lean: the operations of Sys2Proof/Machine/Schedule.lean keep what Laws/Keeps.lean says.
-/
namespace Sys2Proof.Laws
open Sys2Proof.Machine

theorem modRun_keeps {ps : Nat} {z s : State} (hz : Keeps ps z s) (hs : Sub 0x8000000 ps) (c : Nat) (f : Runner →
    Runner) : Keeps ps z (modRun c f s) := by
  have k_runners : Sub 0x8000000 ps := sub_of hs rfl
  unfold modRun
  repeat'
    first
    | with_reducible assumption | fail_if_no_progress with_reducible refine keeps_set_runners ?_ k_runners _
    | intro _

theorem issueEntry_keeps {ps : Nat} {z s : State} (hz : Keeps ps z s) (hs : Sub 0x8000 ps) (q : Nat) (p : QueuePair)
    (h : SHead) (i : Nat) (e : SEntry) : Keeps ps z (issueEntry q p h i e s) := by
  have k_modQp : Sub 0x8000 ps := sub_of hs rfl
  have k_modCmd : Sub 0x8000 ps := sub_of hs rfl
  unfold issueEntry
  repeat'
    first
    | with_reducible refine keeps_ite (fun _ => ?_) (fun _ => ?_) | extract_lets | with_reducible assumption
    | with_reducible refine modQp_keeps ?_ k_modQp _ _ | with_reducible refine modCmd_keeps ?_ k_modCmd _ | intro _
    | split | dsimp +zetaDelta only

theorem issueEntries_keeps {ps : Nat} {z y1 : State} (hz : Keeps ps z y1) (hs : Sub 0x8008000 ps) (c : Nat) (y0 :
    Nat) : Keeps ps z (issueEntries c y0 y1) := by
  have k_issueEntry : Sub 0x8000 ps := sub_of hs rfl
  have k_modRun : Sub 0x8000000 ps := sub_of hs rfl
  induction y0 generalizing y1 with
  | zero =>
    unfold issueEntries
    repeat'
      first
      | with_reducible refine keeps_ite (fun _ => ?_) (fun _ => ?_) | extract_lets | with_reducible assumption
      | with_reducible refine issueEntry_keeps ?_ k_issueEntry _ _ _ _ _
      | with_reducible refine modRun_keeps ?_ k_modRun _ _ | intro _ | split | dsimp +zetaDelta only
  | succ n ih =>
    unfold issueEntries
    repeat'
      first
      | with_reducible refine ih ?_
      | with_reducible refine keeps_ite (fun _ => ?_) (fun _ => ?_) | extract_lets | with_reducible assumption
      | with_reducible refine issueEntry_keeps ?_ k_issueEntry _ _ _ _ _
      | with_reducible refine modRun_keeps ?_ k_modRun _ _ | intro _ | split | dsimp +zetaDelta only

theorem issueCommits_keeps {ps : Nat} {z s : State} (hz : Keeps ps z s) (hs : Sub 0x8000 ps) (c : Nat) (r : Runner)
    : Keeps ps z (issueCommits c r s) := by
  have k_issueEntry : Sub 0x8000 ps := sub_of hs rfl
  unfold issueCommits
  repeat'
    first
    | with_reducible refine keeps_foldl ?_ ?_ | with_reducible refine keeps_ite (fun _ => ?_) (fun _ => ?_)
    | extract_lets | with_reducible assumption | with_reducible refine issueEntry_keeps ?_ k_issueEntry _ _ _ _ _
    | intro _ | split | dsimp +zetaDelta only

theorem sweepDone_keeps {ps : Nat} {z s : State} (hz : Keeps ps z s) (hs : Sub 0x86ffe8001 ps) (c : Nat) (r :
    Runner) (done : Bool) : Keeps ps z (sweepDone c r done s) := by
  have k_issueCommits : Sub 0x8000 ps := sub_of hs rfl
  have k_updateEvents : Sub 0x86ffe8001 ps := sub_of hs rfl
  have k_updateEvent : Sub 0x86ffe8001 ps := sub_of hs rfl
  unfold sweepDone
  repeat'
    first
    | with_reducible refine keeps_ite (fun _ => ?_) (fun _ => ?_) | extract_lets | with_reducible assumption
    | with_reducible refine issueCommits_keeps ?_ k_issueCommits _ _
    | with_reducible refine updateEvents_keeps ?_ k_updateEvents _
    | with_reducible refine updateEvent_keeps ?_ k_updateEvent _ _ | intro _ | dsimp +zetaDelta only

theorem runnerNote_keeps {ps : Nat} {z s : State} (hz : Keeps ps z s) (hs : Sub 0xe6fff8001 ps) (c : Nat) (i : Nat)
    (status : Nat) : Keeps ps z (runnerNote c i status s) := by
  have k_sweepDone : Sub 0x86ffe8001 ps := sub_of hs rfl
  have k_modRun : Sub 0x8000000 ps := sub_of hs rfl
  have k_discardGens : Sub 0xe6fff8001 ps := sub_of hs rfl
  unfold runnerNote
  repeat'
    first
    | with_reducible refine keeps_ite (fun _ => ?_) (fun _ => ?_) | extract_lets | with_reducible assumption
    | with_reducible refine sweepDone_keeps ?_ k_sweepDone _ _ _
    | with_reducible refine modRun_keeps ?_ k_modRun _ _
    | with_reducible refine discardGens_keeps ?_ k_discardGens _ _ | intro _ | split | dsimp +zetaDelta only

theorem noteEnd_keeps {ps : Nat} {z s : State} (hz : Keeps ps z s) (hs : Sub 0xe6fff8001 ps) (qp : Nat) (sub : Nat)
    : Keeps ps z (noteEnd qp sub s) := by
  have k_runnerNote : Sub 0xe6fff8001 ps := sub_of hs rfl
  have k_modDesc : Sub 0x8000 ps := sub_of hs rfl
  unfold noteEnd
  repeat'
    first
    | with_reducible refine keeps_ite (fun _ => ?_) (fun _ => ?_) | with_reducible assumption
    | with_reducible refine runnerNote_keeps ?_ k_runnerNote _ _ _
    | with_reducible refine modDesc_keeps ?_ k_modDesc _ _ _ | intro _ | split

theorem countLate_keeps {ps : Nat} {z s : State} (hz : Keeps ps z s) (hs : Sub 0x8000000 ps) (d : Desc) :
    Keeps ps z (countLate d s) := by
  have k_modRun : Sub 0x8000000 ps := sub_of hs rfl
  unfold countLate
  repeat'
    first
    | with_reducible refine keeps_ite (fun _ => ?_) (fun _ => ?_) | extract_lets | with_reducible assumption
    | with_reducible refine modRun_keeps ?_ k_modRun _ _ | intro _ | split | dsimp +zetaDelta only

theorem execCompletionWrite_keeps {ps : Nat} {z s : State} (hz : Keeps ps z s) (hs : Sub 0xe6fffc001 ps) (qp : Nat)
    (sub : Nat) : ∀ z', execCompletionWrite qp sub s = .next z' → Keeps ps z z' := by
  have k_countLate : Sub 0x8000000 ps := sub_of hs rfl
  have k_noteEnd : Sub 0xe6fff8001 ps := sub_of hs rfl
  have k_completeDesc : Sub 0x86ffec001 ps := sub_of hs rfl
  intro z' e'
  unfold execCompletionWrite at e'
  cases e'
  repeat'
    first
    | with_reducible refine keeps_ite (fun _ => ?_) (fun _ => ?_) | extract_lets | with_reducible assumption
    | with_reducible refine countLate_keeps ?_ k_countLate _ | with_reducible refine noteEnd_keeps ?_ k_noteEnd _ _
    | with_reducible refine completeDesc_keeps ?_ k_completeDesc _ | intro _ | split | dsimp +zetaDelta only

theorem execLaunchComplete_keeps {ps : Nat} {z s : State} (hz : Keeps ps z s) (hs : Sub 0xe6fff8001 ps) (launch :
    Nat) : ∀ z', execLaunchComplete launch s = .next z' → Keeps ps z z' := by
  have k_noteEnd : Sub 0xe6fff8001 ps := sub_of hs rfl
  have k_endLaunch : Sub 0x208000 ps := sub_of hs rfl
  intro z' e'
  unfold execLaunchComplete at e'
  cases e'
  repeat'
    first
    | with_reducible refine keeps_ite (fun _ => ?_) (fun _ => ?_) | with_reducible assumption
    | with_reducible refine noteEnd_keeps ?_ k_noteEnd _ _ | with_reducible refine endLaunch_keeps ?_ k_endLaunch _
    | intro _ | split

theorem startAdmission_keeps {ps : Nat} {z s : State} (hz : Keeps ps z s) (hs : Sub 0x10c28000 ps) (load : Bool) (d
    : Desc) : Keeps ps z (startAdmission load d s) := by
  have k_endD : Sub 0x8000 ps := sub_of hs rfl
  have k_touch : Sub 0xc28000 ps := sub_of hs rfl
  have k_guarded : Sub 0x8000 ps := sub_of hs rfl
  have k_runDesc : Sub 0x8000 ps := sub_of hs rfl
  have k_admits : Sub 0x10000000 ps := sub_of hs rfl
  unfold startAdmission
  repeat'
    first
    | with_reducible refine keeps_ite (fun _ => ?_) (fun _ => ?_) | extract_lets | with_reducible assumption
    | with_reducible refine endD_keeps ?_ k_endD _ _ | with_reducible refine touch_keeps ?_ k_touch _ _ _ _
    | with_reducible refine guarded_keeps ?_ k_guarded _ _ _ ?_
    | with_reducible refine runDesc_keeps ?_ k_runDesc _ _ _
    | fail_if_no_progress with_reducible refine keeps_set_admits ?_ k_admits _ | intro _ | split
    | dsimp +zetaDelta only

theorem execSchedLoad_keeps {ps : Nat} {z s : State} (hz : Keeps ps z s) (hs : Sub 0x10c28000 ps) (qp : Nat) (sub :
    Nat) : ∀ z', execSchedLoad qp sub s = .next z' → Keeps ps z z' := by
  have k_startAdmission : Sub 0x10c28000 ps := sub_of hs rfl
  have k_onStarted : Sub 0x0 ps := sub_of hs rfl
  intro z' e'
  unfold execSchedLoad at e'
  cases e'
  repeat'
    first
    | with_reducible assumption | with_reducible refine startAdmission_keeps ?_ k_startAdmission _ _
    | with_reducible refine onStarted_keeps ?_ k_onStarted _ _ _ _ ?_ | intro _

theorem execTollgateCheck_keeps {ps : Nat} {z s : State} (hz : Keeps ps z s) (hs : Sub 0x10c28000 ps) (qp : Nat)
    (sub : Nat) : ∀ z', execTollgateCheck qp sub s = .next z' → Keeps ps z z' := by
  have k_startAdmission : Sub 0x10c28000 ps := sub_of hs rfl
  have k_onStarted : Sub 0x0 ps := sub_of hs rfl
  intro z' e'
  unfold execTollgateCheck at e'
  cases e'
  repeat'
    first
    | with_reducible assumption | with_reducible refine startAdmission_keeps ?_ k_startAdmission _ _
    | with_reducible refine onStarted_keeps ?_ k_onStarted _ _ _ _ ?_ | intro _

theorem writeReport_keeps {ps : Nat} {z s : State} (hz : Keeps ps z s) (hs : Sub 0x840fa8000 ps) (rep : Nat × Nat)
    (r : TgReport) : Keeps ps z (writeReport rep r s) := by
  have k_storeBlk : Sub 0x840fa8000 ps := sub_of hs rfl
  unfold writeReport
  repeat'
    first
    | with_reducible refine keeps_ite (fun _ => ?_) (fun _ => ?_) | with_reducible assumption
    | with_reducible refine storeBlk_keeps ?_ k_storeBlk _ _ _ | intro _ | split

theorem execAdmissionComplete_keeps {ps : Nat} {z s : State} (hz : Keeps ps z s) (hs : Sub 0x858fa8000 ps) (qp :
    Nat) (sub : Nat) : ∀ z', execAdmissionComplete qp sub s = .next z' → Keeps ps z z' := by
  have k_writeReport : Sub 0x840fa8000 ps := sub_of hs rfl
  have k_endD : Sub 0x8000 ps := sub_of hs rfl
  have k_admits : Sub 0x10000000 ps := sub_of hs rfl
  have k_runners : Sub 0x8000000 ps := sub_of hs rfl
  intro z' e'
  unfold execAdmissionComplete at e'
  cases e'
  repeat'
    first
    | with_reducible refine keeps_ite (fun _ => ?_) (fun _ => ?_) | extract_lets | with_reducible assumption
    | with_reducible refine writeReport_keeps ?_ k_writeReport _ _ | with_reducible refine endD_keeps ?_ k_endD _ _
    | fail_if_no_progress with_reducible refine keeps_set_admits ?_ k_admits _
    | fail_if_no_progress with_reducible refine keeps_set_runners ?_ k_runners _ | intro _ | split
    | dsimp +zetaDelta only

theorem execReadmission_keeps {ps : Nat} {z s : State} (hz : Keeps ps z s) (hs : Sub 0x848fa8000 ps) (ctx : Nat) :
    ∀ z', execReadmission ctx s = .next z' → Keeps ps z z' := by
  have k_writeReport : Sub 0x840fa8000 ps := sub_of hs rfl
  have k_modRun : Sub 0x8000000 ps := sub_of hs rfl
  intro z' e'
  unfold execReadmission at e'
  cases e'
  repeat'
    first
    | with_reducible refine keeps_ite (fun _ => ?_) (fun _ => ?_) | extract_lets | with_reducible assumption
    | with_reducible refine writeReport_keeps ?_ k_writeReport _ _
    | with_reducible refine modRun_keeps ?_ k_modRun _ _ | intro _ | split | dsimp +zetaDelta only

theorem execSchedStart_keeps {ps : Nat} {z s : State} (hz : Keeps ps z s) (hs : Sub 0x8008000 ps) (qp : Nat) (sub :
    Nat) : ∀ z', execSchedStart qp sub s = .next z' → Keeps ps z z' := by
  have k_modRun : Sub 0x8000000 ps := sub_of hs rfl
  have k_endD : Sub 0x8000 ps := sub_of hs rfl
  have k_onStarted : Sub 0x0 ps := sub_of hs rfl
  have k_runDesc : Sub 0x8000 ps := sub_of hs rfl
  intro z' e'
  unfold execSchedStart at e'
  cases e'
  repeat'
    first
    | with_reducible refine keeps_ite (fun _ => ?_) (fun _ => ?_) | extract_lets | with_reducible assumption
    | with_reducible refine modRun_keeps ?_ k_modRun _ _ | with_reducible refine endD_keeps ?_ k_endD _ _
    | with_reducible refine onStarted_keeps ?_ k_onStarted _ _ _ _ ?_
    | with_reducible refine runDesc_keeps ?_ k_runDesc _ _ _ | intro _ | split | dsimp +zetaDelta only

theorem execSchedStop_keeps {ps : Nat} {z s : State} (hz : Keeps ps z s) (hs : Sub 0x8008000 ps) (qp : Nat) (sub :
    Nat) : ∀ z', execSchedStop qp sub s = .next z' → Keeps ps z z' := by
  have k_modRun : Sub 0x8000000 ps := sub_of hs rfl
  have k_endD : Sub 0x8000 ps := sub_of hs rfl
  have k_onStarted : Sub 0x0 ps := sub_of hs rfl
  have k_runDesc : Sub 0x8000 ps := sub_of hs rfl
  intro z' e'
  unfold execSchedStop at e'
  cases e'
  repeat'
    first
    | with_reducible refine keeps_ite (fun _ => ?_) (fun _ => ?_) | with_reducible assumption
    | with_reducible refine modRun_keeps ?_ k_modRun _ _ | with_reducible refine endD_keeps ?_ k_endD _ _
    | with_reducible refine onStarted_keeps ?_ k_onStarted _ _ _ _ ?_
    | with_reducible refine runDesc_keeps ?_ k_runDesc _ _ _ | intro _ | split

theorem execSchedQuery_keeps {ps : Nat} {z s : State} (hz : Keeps ps z s) (hs : Sub 0x8000 ps) (qp : Nat) (sub :
    Nat) : ∀ z', execSchedQuery qp sub s = .next z' → Keeps ps z z' := by
  have k_endD : Sub 0x8000 ps := sub_of hs rfl
  have k_onStarted : Sub 0x0 ps := sub_of hs rfl
  intro z' e'
  unfold execSchedQuery at e'
  cases e'
  repeat'
    first
    | with_reducible assumption | with_reducible refine endD_keeps ?_ k_endD _ _
    | with_reducible refine onStarted_keeps ?_ k_onStarted _ _ _ _ ?_ | intro _ | split

theorem execSchedUnload_keeps {ps : Nat} {z s : State} (hz : Keeps ps z s) (hs : Sub 0x8008000 ps) (qp : Nat) (sub :
    Nat) : ∀ z', execSchedUnload qp sub s = .next z' → Keeps ps z z' := by
  have k_endD : Sub 0x8000 ps := sub_of hs rfl
  have k_onStarted : Sub 0x0 ps := sub_of hs rfl
  have k_runners : Sub 0x8000000 ps := sub_of hs rfl
  intro z' e'
  unfold execSchedUnload at e'
  cases e'
  repeat'
    first
    | with_reducible refine keeps_ite (fun _ => ?_) (fun _ => ?_) | with_reducible assumption
    | with_reducible refine endD_keeps ?_ k_endD _ _
    | with_reducible refine onStarted_keeps ?_ k_onStarted _ _ _ _ ?_
    | fail_if_no_progress with_reducible refine keeps_set_runners ?_ k_runners _ | intro _ | split

theorem execRunnerStepStart_keeps {ps : Nat} {z s : State} (hz : Keeps ps z s) (hs : Sub 0x8008000 ps) (ctx : Nat) :
    ∀ z', execRunnerStepStart ctx s = .next z' → Keeps ps z z' := by
  have k_issueEntries : Sub 0x8008000 ps := sub_of hs rfl
  have k_modRun : Sub 0x8000000 ps := sub_of hs rfl
  intro z' e'
  unfold execRunnerStepStart at e'
  cases e'
  repeat'
    first
    | with_reducible refine keeps_ite (fun _ => ?_) (fun _ => ?_) | extract_lets | with_reducible assumption
    | with_reducible refine issueEntries_keeps ?_ k_issueEntries _ _
    | with_reducible refine modRun_keeps ?_ k_modRun _ _ | intro _ | split | dsimp +zetaDelta only

theorem execLaunchRetry_keeps {ps : Nat} {z s : State} (hz : Keeps ps z s) (hs : Sub 0x86ffe8001 ps) (qp : Nat) (sub
    : Nat) : ∀ z', execLaunchRetry qp sub s = .next z' → Keeps ps z z' := by
  have k_modRun : Sub 0x8000000 ps := sub_of hs rfl
  have k_launchNow : Sub 0x86ffe8001 ps := sub_of hs rfl
  have k_modDesc : Sub 0x8000 ps := sub_of hs rfl
  intro z' e'
  unfold execLaunchRetry at e'
  cases e'
  repeat'
    first
    | with_reducible refine keeps_ite (fun _ => ?_) (fun _ => ?_) | with_reducible assumption
    | with_reducible refine modRun_keeps ?_ k_modRun _ _ | with_reducible refine launchNow_keeps ?_ k_launchNow _ _
    | with_reducible refine modDesc_keeps ?_ k_modDesc _ _ _ | intro _ | split

theorem endStops_keeps {ps : Nat} {z s : State} (hz : Keeps ps z s) (hs : Sub 0x8000 ps) (l : List (Nat × Nat)) (res
    : Result) : Keeps ps z (endStops l res s) := by
  have k_endDesc : Sub 0x8000 ps := sub_of hs rfl
  unfold endStops
  repeat'
    first
    | with_reducible refine keeps_foldl ?_ ?_ | with_reducible assumption
    | with_reducible refine endDesc_keeps ?_ k_endDesc _ _ _ | intro _

theorem runnerStops_keeps {ps : Nat} {z s : State} (hz : Keeps ps z s) (hs : Sub 0x8008000 ps) (c : Nat) (r :
    Runner) (start : Result) (stop : Result) : Keeps ps z (runnerStops c r start stop s) := by
  have k_endStops : Sub 0x8000 ps := sub_of hs rfl
  have k_haltRunner : Sub 0x8000000 ps := sub_of hs rfl
  have k_endDesc : Sub 0x8000 ps := sub_of hs rfl
  unfold runnerStops
  repeat'
    first
    | with_reducible assumption | with_reducible refine endStops_keeps ?_ k_endStops _ _
    | with_reducible refine haltRunner_keeps ?_ k_haltRunner _
    | with_reducible refine endDesc_keeps ?_ k_endDesc _ _ _

theorem stepGood_keeps {ps : Nat} {z s : State} (hz : Keeps ps z s) (hs : Sub 0x86ffe8001 ps) (c : Nat) (r : Runner)
    : Keeps ps z (stepGood c r s) := by
  have k_runnerStops : Sub 0x8008000 ps := sub_of hs rfl
  have k_modRun : Sub 0x8000000 ps := sub_of hs rfl
  have k_updateEvents : Sub 0x86ffe8001 ps := sub_of hs rfl
  have k_updateEvent : Sub 0x86ffe8001 ps := sub_of hs rfl
  unfold stepGood
  repeat'
    first
    | with_reducible refine keeps_ite (fun _ => ?_) (fun _ => ?_) | extract_lets | with_reducible assumption
    | with_reducible refine runnerStops_keeps ?_ k_runnerStops _ _ _ _
    | with_reducible refine modRun_keeps ?_ k_modRun _ _
    | with_reducible refine updateEvents_keeps ?_ k_updateEvents _
    | with_reducible refine updateEvent_keeps ?_ k_updateEvent _ _ | intro _ | split | dsimp +zetaDelta only

theorem execRunnerStepEnd_keeps {ps : Nat} {z s : State} (hz : Keeps ps z s) (hs : Sub 0x86ffe8001 ps) (ctx : Nat) :
    ∀ z', execRunnerStepEnd ctx s = .next z' → Keeps ps z z' := by
  have k_stepGood : Sub 0x86ffe8001 ps := sub_of hs rfl
  have k_runnerStops : Sub 0x8008000 ps := sub_of hs rfl
  intro z' e'
  unfold execRunnerStepEnd at e'
  cases e'
  repeat'
    first
    | with_reducible refine keeps_ite (fun _ => ?_) (fun _ => ?_) | with_reducible assumption
    | with_reducible refine stepGood_keeps ?_ k_stepGood _ _
    | with_reducible refine runnerStops_keeps ?_ k_runnerStops _ _ _ _ | intro _ | split

end Sys2Proof.Laws
end

