-- ==== Sys2Proof/Laws/KeepsIngest.lean ====
section
/-!
SUPPORT. Sys2Proof/Laws/KeepsIngest.lean: the operations of Sys2Proof/Machine/Ingest.lean keep what Laws/Keeps.lean says.
-/
namespace Sys2Proof.Laws
open Sys2Proof.Machine

theorem execStreamOpen_keeps {ps : Nat} {z s : State} (hz : Keeps ps z s) (hs : Sub 0xa1008001 ps) (qp : Nat) (sub :
    Nat) : ∀ z', execStreamOpen qp sub s = .next z' → Keeps ps z z' := by
  have k_uniformRefuse : Sub 0x80008000 ps := sub_of hs rfl
  have k_endD : Sub 0x8000 ps := sub_of hs rfl
  have k_ingestTell : Sub 0x1000001 ps := sub_of hs rfl
  have k_guarded : Sub 0x8000 ps := sub_of hs rfl
  have k_onStarted : Sub 0x0 ps := sub_of hs rfl
  have k_runDesc : Sub 0x8000 ps := sub_of hs rfl
  have k_modIng : Sub 0x20000000 ps := sub_of hs rfl
  intro z' e'
  unfold execStreamOpen at e'
  cases e'
  repeat'
    first
    | with_reducible refine keeps_ite (fun _ => ?_) (fun _ => ?_) | extract_lets | with_reducible assumption
    | with_reducible refine uniformRefuse_keeps ?_ k_uniformRefuse _ _
    | with_reducible refine endD_keeps ?_ k_endD _ _
    | with_reducible refine ingestTell_keeps ?_ k_ingestTell _ _ _ _
    | with_reducible refine guarded_keeps ?_ k_guarded _ _ _ ?_
    | with_reducible refine onStarted_keeps ?_ k_onStarted _ _ _ _ ?_
    | with_reducible refine runDesc_keeps ?_ k_runDesc _ _ _ | with_reducible refine modIng_keeps ?_ k_modIng _
    | intro _ | split | dsimp +zetaDelta only

theorem takeLanding_keeps {ps : Nat} {z s : State} (hz : Keeps ps z s) (hs : Sub 0x20400000 ps)  :
    Keeps ps z (takeLanding s) := by
  have k_modClu : Sub 0x400000 ps := sub_of hs rfl
  have k_modHbm : Sub 0x400000 ps := sub_of hs rfl
  have k_modIng : Sub 0x20000000 ps := sub_of hs rfl
  unfold takeLanding
  repeat'
    first
    | with_reducible refine keeps_foldl ?_ ?_ | extract_lets | with_reducible assumption
    | with_reducible refine modClu_keeps ?_ k_modClu _ _ | with_reducible refine modHbm_keeps ?_ k_modHbm _
    | with_reducible refine modIng_keeps ?_ k_modIng _ | intro _ | dsimp +zetaDelta only

theorem openEnds_keeps {ps : Nat} {z s : State} (hz : Keeps ps z s) (hs : Sub 0x8000 ps) (x : Stream) (r : Result) :
    Keeps ps z (openEnds x r s) := by
  have k_endDesc : Sub 0x8000 ps := sub_of hs rfl
  unfold openEnds
  repeat'
    first
    | with_reducible assumption | with_reducible refine endDesc_keeps ?_ k_endDesc _ _ _ | split

theorem execOpenAck_keeps {ps : Nat} {z s : State} (hz : Keeps ps z s) (hs : Sub 0x21408000 ps) (port : Nat) (node :
    Nat) (stream : Nat) (reason : Nat) :
    ∀ z', execOpenAck port node stream reason s = .next z' → Keeps ps z z' := by
  have k_openEnds : Sub 0x8000 ps := sub_of hs rfl
  have k_takeLanding : Sub 0x20400000 ps := sub_of hs rfl
  have k_endStream : Sub 0x20400000 ps := sub_of hs rfl
  have k_modStream : Sub 0x20000000 ps := sub_of hs rfl
  have k_routeDrop : Sub 0x1000000 ps := sub_of hs rfl
  intro z' e'
  unfold execOpenAck at e'
  cases e'
  repeat'
    first
    | with_reducible refine keeps_ite (fun _ => ?_) (fun _ => ?_) | extract_lets | with_reducible assumption
    | with_reducible refine openEnds_keeps ?_ k_openEnds _ _
    | with_reducible refine takeLanding_keeps ?_ k_takeLanding
    | with_reducible refine endStream_keeps ?_ k_endStream _
    | with_reducible refine modStream_keeps ?_ k_modStream _ _
    | with_reducible refine routeDrop_keeps ?_ k_routeDrop _ | intro _ | split | dsimp +zetaDelta only

theorem execOpenResend_keeps {ps : Nat} {z s : State} (hz : Keeps ps z s) (hs : Sub 0x21408001 ps) (stream : Nat) :
    ∀ z', execOpenResend stream s = .next z' → Keeps ps z z' := by
  have k_openEnds : Sub 0x8000 ps := sub_of hs rfl
  have k_endStream : Sub 0x20400000 ps := sub_of hs rfl
  have k_ingestTell : Sub 0x1000001 ps := sub_of hs rfl
  have k_modStream : Sub 0x20000000 ps := sub_of hs rfl
  intro z' e'
  unfold execOpenResend at e'
  cases e'
  repeat'
    first
    | with_reducible refine keeps_ite (fun _ => ?_) (fun _ => ?_) | with_reducible assumption
    | with_reducible refine openEnds_keeps ?_ k_openEnds _ _
    | with_reducible refine endStream_keeps ?_ k_endStream _
    | with_reducible refine ingestTell_keeps ?_ k_ingestTell _ _ _ _
    | with_reducible refine modStream_keeps ?_ k_modStream _ _ | intro _ | split

theorem execStreamClose_keeps {ps : Nat} {z s : State} (hz : Keeps ps z s) (hs : Sub 0x21408001 ps) (qp : Nat) (sub
    : Nat) : ∀ z', execStreamClose qp sub s = .next z' → Keeps ps z z' := by
  have k_endD : Sub 0x8000 ps := sub_of hs rfl
  have k_closeStream : Sub 0x21400001 ps := sub_of hs rfl
  have k_tryClose : Sub 0x20408000 ps := sub_of hs rfl
  have k_onStarted : Sub 0x0 ps := sub_of hs rfl
  have k_runDesc : Sub 0x8000 ps := sub_of hs rfl
  intro z' e'
  unfold execStreamClose at e'
  cases e'
  repeat'
    first
    | with_reducible refine keeps_ite (fun _ => ?_) (fun _ => ?_) | with_reducible assumption
    | with_reducible refine endD_keeps ?_ k_endD _ _
    | with_reducible refine closeStream_keeps ?_ k_closeStream _ _ _
    | with_reducible refine tryClose_keeps ?_ k_tryClose _
    | with_reducible refine onStarted_keeps ?_ k_onStarted _ _ _ _ ?_
    | with_reducible refine runDesc_keeps ?_ k_runDesc _ _ _ | intro _ | split

theorem execStreamQuery_keeps {ps : Nat} {z s : State} (hz : Keeps ps z s) (hs : Sub 0x8000 ps) (qp : Nat) (sub :
    Nat) : ∀ z', execStreamQuery qp sub s = .next z' → Keeps ps z z' := by
  have k_endD : Sub 0x8000 ps := sub_of hs rfl
  have k_onStarted : Sub 0x0 ps := sub_of hs rfl
  intro z' e'
  unfold execStreamQuery at e'
  cases e'
  repeat'
    first
    | with_reducible assumption | with_reducible refine endD_keeps ?_ k_endD _ _
    | with_reducible refine onStarted_keeps ?_ k_onStarted _ _ _ _ ?_ | intro _ | split

theorem execStreamPosition_keeps {ps : Nat} {z s : State} (hz : Keeps ps z s) (hs : Sub 0x840fa8000 ps) (qp : Nat)
    (sub : Nat) : ∀ z', execStreamPosition qp sub s = .next z' → Keeps ps z z' := by
  have k_endD : Sub 0x8000 ps := sub_of hs rfl
  have k_storeMem : Sub 0x840fa8000 ps := sub_of hs rfl
  have k_guarded : Sub 0x8000 ps := sub_of hs rfl
  have k_onStarted : Sub 0x0 ps := sub_of hs rfl
  intro z' e'
  unfold execStreamPosition at e'
  cases e'
  repeat'
    first
    | with_reducible assumption | with_reducible refine endD_keeps ?_ k_endD _ _
    | with_reducible refine storeMem_keeps ?_ k_storeMem _ _ _ _
    | with_reducible refine guarded_keeps ?_ k_guarded _ _ _ ?_
    | with_reducible refine onStarted_keeps ?_ k_onStarted _ _ _ _ ?_ | intro _ | split

theorem dropSample_keeps {ps : Nat} {z s : State} (hz : Keeps ps z s) (hs : Sub 0x20000000 ps) (n : Nat) :
    Keeps ps z (dropSample n s) := by
  have k_modStream : Sub 0x20000000 ps := sub_of hs rfl
  unfold dropSample
  repeat'
    first
    | with_reducible assumption | with_reducible refine modStream_keeps ?_ k_modStream _ _ | intro _

theorem gapPart_keeps {ps : Nat} {z s : State} (hz : Keeps ps z s) (hs : Sub 0x20008000 ps) (n : Nat) (reason : Nat)
    : Keeps ps z (gapPart n reason s) := by
  have k_landPut : Sub 0x20000000 ps := sub_of hs rfl
  have k_gapPost : Sub 0x20008000 ps := sub_of hs rfl
  have k_modStream : Sub 0x20000000 ps := sub_of hs rfl
  unfold gapPart
  repeat'
    first
    | extract_lets | with_reducible assumption | with_reducible refine landPut_keeps ?_ k_landPut _ _ _
    | with_reducible refine gapPost_keeps ?_ k_gapPost _ _ _
    | with_reducible refine modStream_keeps ?_ k_modStream _ _ | intro _ | split | dsimp +zetaDelta only

theorem takeBytes_keeps {ps : Nat} {z s : State} (hz : Keeps ps z s) (hs : Sub 0x20008000 ps) (n : Nat) (b : List
    Byte) : Keeps ps z (takeBytes n b s) := by
  have k_gapPart : Sub 0x20008000 ps := sub_of hs rfl
  have k_landPut : Sub 0x20000000 ps := sub_of hs rfl
  have k_modStream : Sub 0x20000000 ps := sub_of hs rfl
  unfold takeBytes
  repeat'
    first
    | with_reducible refine keeps_ite (fun _ => ?_) (fun _ => ?_) | extract_lets | with_reducible assumption
    | with_reducible refine gapPart_keeps ?_ k_gapPart _ _ | with_reducible refine landPut_keeps ?_ k_landPut _ _ _
    | with_reducible refine modStream_keeps ?_ k_modStream _ _ | intro _ | split | dsimp +zetaDelta only

theorem beginSample_keeps {ps : Nat} {z s : State} (hz : Keeps ps z s) (hs : Sub 0x21408001 ps) (n : Nat) (b : List
    Byte) : Keeps ps z (beginSample n b s) := by
  have k_takeBytes : Sub 0x20008000 ps := sub_of hs rfl
  have k_landGap : Sub 0x21408001 ps := sub_of hs rfl
  have k_landRoom : Sub 0x21400001 ps := sub_of hs rfl
  have k_modStream : Sub 0x20000000 ps := sub_of hs rfl
  unfold beginSample
  repeat'
    first
    | with_reducible refine keeps_ite (fun _ => ?_) (fun _ => ?_) | extract_lets | with_reducible assumption
    | with_reducible refine takeBytes_keeps ?_ k_takeBytes _ _
    | with_reducible refine landGap_keeps ?_ k_landGap _ _ _ _
    | with_reducible refine landRoom_keeps ?_ k_landRoom _ _
    | refine landRoom_keeps_eq ?_ k_landRoom _ _ (by assumption)
    | with_reducible refine modStream_keeps ?_ k_modStream _ _ | intro _ | split | dsimp +zetaDelta only

theorem countRunOn_keeps {ps : Nat} {z s : State} (hz : Keeps ps z s) (hs : Sub 0x20000000 ps) (n : Nat) (k : Nat) :
    Keeps ps z (countRunOn n k s) := by
  have k_modStream : Sub 0x20000000 ps := sub_of hs rfl
  unfold countRunOn
  repeat'
    first
    | with_reducible refine keeps_ite (fun _ => ?_) (fun _ => ?_) | extract_lets | with_reducible assumption
    | with_reducible refine modStream_keeps ?_ k_modStream _ _ | intro _ | dsimp +zetaDelta only

theorem execIngestData_keeps {ps : Nat} {z s : State} (hz : Keeps ps z s) (hs : Sub 0x21408001 ps) (port : Nat)
    (node : Nat) (stream : Nat) (txn : Nat) (first : Bool) (data : List Byte) :
    ∀ z', execIngestData port node stream txn first data s = .next z' → Keeps ps z z' := by
  have k_countRunOn : Sub 0x20000000 ps := sub_of hs rfl
  have k_beginSample : Sub 0x21408001 ps := sub_of hs rfl
  have k_takeBytes : Sub 0x20008000 ps := sub_of hs rfl
  have k_gapPart : Sub 0x20008000 ps := sub_of hs rfl
  have k_dropSample : Sub 0x20000000 ps := sub_of hs rfl
  have k_modStream : Sub 0x20000000 ps := sub_of hs rfl
  have k_routeDrop : Sub 0x1000000 ps := sub_of hs rfl
  intro z' e'
  unfold execIngestData at e'
  cases e'
  repeat'
    first
    | with_reducible refine keeps_ite (fun _ => ?_) (fun _ => ?_) | extract_lets | with_reducible assumption
    | with_reducible refine countRunOn_keeps ?_ k_countRunOn _ _
    | with_reducible refine beginSample_keeps ?_ k_beginSample _ _
    | with_reducible refine takeBytes_keeps ?_ k_takeBytes _ _
    | with_reducible refine gapPart_keeps ?_ k_gapPart _ _
    | with_reducible refine dropSample_keeps ?_ k_dropSample _
    | with_reducible refine modStream_keeps ?_ k_modStream _ _
    | with_reducible refine routeDrop_keeps ?_ k_routeDrop _ | intro _ | split | dsimp +zetaDelta only

theorem execIdleFlush_keeps {ps : Nat} {z s : State} (hz : Keeps ps z s) (hs : Sub 0x20000000 ps) (stream : Nat) :
    ∀ z', execIdleFlush stream s = .next z' → Keeps ps z z' := by
  have k_modStream : Sub 0x20000000 ps := sub_of hs rfl
  intro z' e'
  unfold execIdleFlush at e'
  cases e'
  repeat'
    first
    | with_reducible refine keeps_ite (fun _ => ?_) (fun _ => ?_) | extract_lets | with_reducible assumption
    | with_reducible refine modStream_keeps ?_ k_modStream _ _ | intro _ | split | dsimp +zetaDelta only

theorem fromServer_keeps {ps : Nat} {z s : State} (hz : Keeps ps z s) (hs : Sub 0x1000000 ps) (port : Nat) (node :
    Nat) (stream : Nat) (f : Stream → State → State) (h_f : ∀ z x0 x1, Keeps ps z x1 → Keeps ps z (f x0 x1)) :
    Keeps ps z (fromServer port node stream f s) := by
  have k_routeDrop : Sub 0x1000000 ps := sub_of hs rfl
  unfold fromServer
  repeat'
    first
    | with_reducible refine keeps_ite (fun _ => ?_) (fun _ => ?_) | with_reducible assumption
    | with_reducible refine h_f _ _ _ ?_ | with_reducible refine routeDrop_keeps ?_ k_routeDrop _ | intro _ | split

theorem execHoldAck_keeps {ps : Nat} {z s : State} (hz : Keeps ps z s) (hs : Sub 0x21400001 ps) (port : Nat) (node :
    Nat) (stream : Nat) : ∀ z', execHoldAck port node stream s = .next z' → Keeps ps z z' := by
  have k_fromServer : Sub 0x1000000 ps := sub_of hs rfl
  have k_drainStream : Sub 0x21400001 ps := sub_of hs rfl
  have k_modStream : Sub 0x20000000 ps := sub_of hs rfl
  intro z' e'
  unfold execHoldAck at e'
  cases e'
  repeat'
    first
    | with_reducible refine keeps_ite (fun _ => ?_) (fun _ => ?_) | with_reducible assumption
    | with_reducible refine fromServer_keeps ?_ k_fromServer _ _ _ _ ?_
    | with_reducible refine drainStream_keeps ?_ k_drainStream _
    | with_reducible refine modStream_keeps ?_ k_modStream _ _ | intro _

theorem execResumeAck_keeps {ps : Nat} {z s : State} (hz : Keeps ps z s) (hs : Sub 0x21000000 ps) (port : Nat) (node
    : Nat) (stream : Nat) : ∀ z', execResumeAck port node stream s = .next z' → Keeps ps z z' := by
  have k_fromServer : Sub 0x1000000 ps := sub_of hs rfl
  have k_modStream : Sub 0x20000000 ps := sub_of hs rfl
  intro z' e'
  unfold execResumeAck at e'
  cases e'
  repeat'
    first
    | with_reducible refine keeps_ite (fun _ => ?_) (fun _ => ?_) | with_reducible assumption
    | with_reducible refine fromServer_keeps ?_ k_fromServer _ _ _ _ ?_
    | with_reducible refine modStream_keeps ?_ k_modStream _ _ | intro _

theorem execHoldResendTimer_keeps {ps : Nat} {z s : State} (hz : Keeps ps z s) (hs : Sub 0x86ffe8001 ps) (stream :
    Nat) : ∀ z', execHoldResendTimer stream s = .next z' → Keeps ps z z' := by
  have k_ingestTell : Sub 0x1000001 ps := sub_of hs rfl
  have k_modStream : Sub 0x20000000 ps := sub_of hs rfl
  have k_updateEvent : Sub 0x86ffe8001 ps := sub_of hs rfl
  intro z' e'
  unfold execHoldResendTimer at e'
  cases e'
  repeat'
    first
    | with_reducible refine keeps_ite (fun _ => ?_) (fun _ => ?_) | extract_lets | with_reducible assumption
    | with_reducible refine ingestTell_keeps ?_ k_ingestTell _ _ _ _
    | with_reducible refine modStream_keeps ?_ k_modStream _ _
    | with_reducible refine updateEvent_keeps ?_ k_updateEvent _ _ | intro _ | split | dsimp +zetaDelta only

theorem execCloseAck_keeps {ps : Nat} {z s : State} (hz : Keeps ps z s) (hs : Sub 0x21408000 ps) (port : Nat) (node
    : Nat) (stream : Nat) (ssn : Nat) : ∀ z', execCloseAck port node stream ssn s = .next z' → Keeps ps z z' := by
  have k_fromServer : Sub 0x1000000 ps := sub_of hs rfl
  have k_tryClose : Sub 0x20408000 ps := sub_of hs rfl
  have k_modStream : Sub 0x20000000 ps := sub_of hs rfl
  intro z' e'
  unfold execCloseAck at e'
  cases e'
  repeat'
    first
    | with_reducible refine keeps_ite (fun _ => ?_) (fun _ => ?_) | extract_lets | with_reducible assumption
    | with_reducible refine fromServer_keeps ?_ k_fromServer _ _ _ _ ?_
    | with_reducible refine tryClose_keeps ?_ k_tryClose _
    | with_reducible refine modStream_keeps ?_ k_modStream _ _ | intro _ | dsimp +zetaDelta only

theorem execCloseResend_keeps {ps : Nat} {z s : State} (hz : Keeps ps z s) (hs : Sub 0x21408001 ps) (stream : Nat) :
    ∀ z', execCloseResend stream s = .next z' → Keeps ps z z' := by
  have k_tryClose : Sub 0x20408000 ps := sub_of hs rfl
  have k_ingestTell : Sub 0x1000001 ps := sub_of hs rfl
  have k_modStream : Sub 0x20000000 ps := sub_of hs rfl
  intro z' e'
  unfold execCloseResend at e'
  cases e'
  repeat'
    first
    | with_reducible refine keeps_ite (fun _ => ?_) (fun _ => ?_) | with_reducible assumption
    | with_reducible refine tryClose_keeps ?_ k_tryClose _
    | with_reducible refine ingestTell_keeps ?_ k_ingestTell _ _ _ _
    | with_reducible refine modStream_keeps ?_ k_modStream _ _ | intro _ | split

theorem moveGaps_keeps {ps : Nat} {z y1 : State} (hz : Keeps ps z y1) (hs : Sub 0xa0008000 ps) (n : Nat) (y0 : List
    (SampleRec × Option Nat)) : Keeps ps z (moveGaps n y0 y1) := by
  have k_gapPost : Sub 0x20008000 ps := sub_of hs rfl
  have k_sealLog : Sub 0x80000000 ps := sub_of hs rfl
  induction y0 generalizing y1 with
  | nil =>
    unfold moveGaps
    repeat'
      first
      | with_reducible assumption | with_reducible refine gapPost_keeps ?_ k_gapPost _ _ _
      | with_reducible refine sealLog_keeps ?_ k_sealLog _ _ _ _ | split
  | cons x l ih =>
    unfold moveGaps
    repeat'
      first
      | with_reducible refine ih ?_
      | with_reducible assumption | with_reducible refine gapPost_keeps ?_ k_gapPost _ _ _
      | with_reducible refine sealLog_keeps ?_ k_sealLog _ _ _ _ | split

theorem execMoverCopy_keeps {ps : Nat} {z s : State} (hz : Keeps ps z s) (hs : Sub 0x8effe8001 ps) (stream : Nat) :
    ∀ z', execMoverCopy stream s = .next z' → Keeps ps z z' := by
  have k_moveGaps : Sub 0xa0008000 ps := sub_of hs rfl
  have k_tryClose : Sub 0x20408000 ps := sub_of hs rfl
  have k_modStream : Sub 0x20000000 ps := sub_of hs rfl
  have k_updateEvent : Sub 0x86ffe8001 ps := sub_of hs rfl
  have k_storeBlk : Sub 0x840fa8000 ps := sub_of hs rfl
  have k_modIng : Sub 0x20000000 ps := sub_of hs rfl
  intro z' e'
  unfold execMoverCopy at e'
  cases e'
  repeat'
    first
    | with_reducible refine keeps_foldl ?_ ?_ | with_reducible refine keeps_ite (fun _ => ?_) (fun _ => ?_)
    | extract_lets | with_reducible assumption | with_reducible refine moveGaps_keeps ?_ k_moveGaps _ _
    | with_reducible refine tryClose_keeps ?_ k_tryClose _
    | with_reducible refine modStream_keeps ?_ k_modStream _ _
    | with_reducible refine updateEvent_keeps ?_ k_updateEvent _ _
    | with_reducible refine storeBlk_keeps ?_ k_storeBlk _ _ _ | with_reducible refine modIng_keeps ?_ k_modIng _
    | intro _ | split | dsimp +zetaDelta only

theorem execAllocRequest_keeps {ps : Nat} {z s : State} (hz : Keeps ps z s) (hs : Sub 0x21400001 ps) (pool : Nat)
    (reqs : List Nat) : ∀ z', execAllocRequest pool reqs s = .next z' → Keeps ps z z' := by
  have k_drainStream : Sub 0x21400001 ps := sub_of hs rfl
  have k_modPool : Sub 0x400000 ps := sub_of hs rfl
  intro z' e'
  unfold execAllocRequest at e'
  cases e'
  repeat'
    first
    | with_reducible refine keeps_foldl ?_ ?_ | with_reducible refine keeps_ite (fun _ => ?_) (fun _ => ?_)
    | extract_lets | with_reducible assumption | with_reducible refine drainStream_keeps ?_ k_drainStream _
    | with_reducible refine modPool_keeps ?_ k_modPool _ _ | intro _ | dsimp +zetaDelta only

theorem execBufferFree_keeps {ps : Nat} {z s : State} (hz : Keeps ps z s) (hs : Sub 0x21408001 ps) (pool : Nat) (buf
    : Nat) : ∀ z', execBufferFree pool buf s = .next z' → Keeps ps z z' := by
  have k_tryClose : Sub 0x20408000 ps := sub_of hs rfl
  have k_tryResume : Sub 0x21000001 ps := sub_of hs rfl
  have k_modPool : Sub 0x400000 ps := sub_of hs rfl
  have k_modIng : Sub 0x20000000 ps := sub_of hs rfl
  intro z' e'
  unfold execBufferFree at e'
  cases e'
  repeat'
    first
    | with_reducible refine keeps_ite (fun _ => ?_) (fun _ => ?_) | extract_lets | with_reducible assumption
    | with_reducible refine tryClose_keeps ?_ k_tryClose _ | with_reducible refine tryResume_keeps ?_ k_tryResume _
    | with_reducible refine modPool_keeps ?_ k_modPool _ _ | with_reducible refine modIng_keeps ?_ k_modIng _
    | intro _ | split | dsimp +zetaDelta only

theorem execReservationLapse_keeps {ps : Nat} {z s : State} (hz : Keeps ps z s) (hs : Sub 0x400000 ps) (pool : Nat)
    (req : Nat) : ∀ z', execReservationLapse pool req s = .next z' → Keeps ps z z' := by
  have k_modPool : Sub 0x400000 ps := sub_of hs rfl
  intro z' e'
  unfold execReservationLapse at e'
  cases e'
  repeat'
    first
    | with_reducible assumption | with_reducible refine modPool_keeps ?_ k_modPool _ _

end Sys2Proof.Laws
end

