-- ==== Sys2Proof/Laws/KeepsCheckpoint.lean ====
section
/-!
SUPPORT. Sys2Proof/Laws/KeepsCheckpoint.lean: the operations of Sys2Proof/Machine/Checkpoint.lean keep what Laws/Keeps.lean says.
-/
namespace Sys2Proof.Laws
open Sys2Proof.Machine

theorem planRefuse_keeps {ps : Nat} {z s : State} (hz : Keeps ps z s) (hs : Sub 0x80008000 ps) (d : Desc) (f :
    Result × Nat) : Keeps ps z (planRefuse d f s) := by
  have k_uniformRefuse : Sub 0x80008000 ps := sub_of hs rfl
  have k_endD : Sub 0x8000 ps := sub_of hs rfl
  unfold planRefuse
  repeat'
    first
    | with_reducible refine keeps_ite (fun _ => ?_) (fun _ => ?_) | with_reducible assumption
    | with_reducible refine uniformRefuse_keeps ?_ k_uniformRefuse _ _
    | with_reducible refine endD_keeps ?_ k_endD _ _ | intro _

theorem execCkpConfig_keeps {ps : Nat} {z s : State} (hz : Keeps ps z s) (hs : Sub 0xc0008000 ps) (qp : Nat) (sub :
    Nat) : ∀ z', execCkpConfig qp sub s = .next z' → Keeps ps z z' := by
  have k_planRefuse : Sub 0x80008000 ps := sub_of hs rfl
  have k_endD : Sub 0x8000 ps := sub_of hs rfl
  have k_modCc : Sub 0x40000000 ps := sub_of hs rfl
  have k_onStarted : Sub 0x0 ps := sub_of hs rfl
  intro z' e'
  unfold execCkpConfig at e'
  cases e'
  repeat'
    first
    | with_reducible refine keeps_ite (fun _ => ?_) (fun _ => ?_) | extract_lets | with_reducible assumption
    | with_reducible refine planRefuse_keeps ?_ k_planRefuse _ _ | with_reducible refine endD_keeps ?_ k_endD _ _
    | with_reducible refine modCc_keeps ?_ k_modCc _ _
    | with_reducible refine onStarted_keeps ?_ k_onStarted _ _ _ _ ?_ | intro _ | split | dsimp +zetaDelta only

theorem execCkpTrigger_keeps {ps : Nat} {z s : State} (hz : Keeps ps z s) (hs : Sub 0x40008000 ps) (qp : Nat) (sub :
    Nat) : ∀ z', execCkpTrigger qp sub s = .next z' → Keeps ps z z' := by
  have k_endD : Sub 0x8000 ps := sub_of hs rfl
  have k_modCc : Sub 0x40000000 ps := sub_of hs rfl
  have k_onStarted : Sub 0x0 ps := sub_of hs rfl
  intro z' e'
  unfold execCkpTrigger at e'
  cases e'
  repeat'
    first
    | with_reducible refine keeps_ite (fun _ => ?_) (fun _ => ?_) | with_reducible assumption
    | with_reducible refine endD_keeps ?_ k_endD _ _ | with_reducible refine modCc_keeps ?_ k_modCc _ _
    | with_reducible refine onStarted_keeps ?_ k_onStarted _ _ _ _ ?_ | intro _ | split

theorem execCkpDisarm_keeps {ps : Nat} {z s : State} (hz : Keeps ps z s) (hs : Sub 0x40008000 ps) (qp : Nat) (sub :
    Nat) : ∀ z', execCkpDisarm qp sub s = .next z' → Keeps ps z z' := by
  have k_disarmNow : Sub 0x40008000 ps := sub_of hs rfl
  have k_modCc : Sub 0x40000000 ps := sub_of hs rfl
  have k_onStarted : Sub 0x0 ps := sub_of hs rfl
  have k_runDesc : Sub 0x8000 ps := sub_of hs rfl
  intro z' e'
  unfold execCkpDisarm at e'
  cases e'
  repeat'
    first
    | with_reducible refine keeps_ite (fun _ => ?_) (fun _ => ?_) | extract_lets | with_reducible assumption
    | with_reducible refine disarmNow_keeps ?_ k_disarmNow _ | with_reducible refine modCc_keeps ?_ k_modCc _ _
    | with_reducible refine onStarted_keeps ?_ k_onStarted _ _ _ _ ?_
    | with_reducible refine runDesc_keeps ?_ k_runDesc _ _ _ | intro _ | split | dsimp +zetaDelta only

theorem execCkpQuery_keeps {ps : Nat} {z s : State} (hz : Keeps ps z s) (hs : Sub 0x8000 ps) (qp : Nat) (sub : Nat)
    : ∀ z', execCkpQuery qp sub s = .next z' → Keeps ps z z' := by
  have k_endD : Sub 0x8000 ps := sub_of hs rfl
  have k_onStarted : Sub 0x0 ps := sub_of hs rfl
  intro z' e'
  unfold execCkpQuery at e'
  cases e'
  repeat'
    first
    | with_reducible refine keeps_ite (fun _ => ?_) (fun _ => ?_) | extract_lets | with_reducible assumption
    | with_reducible refine endD_keeps ?_ k_endD _ _
    | with_reducible refine onStarted_keeps ?_ k_onStarted _ _ _ _ ?_ | intro _ | split | dsimp +zetaDelta only

theorem execSnapshotPoint_keeps {ps : Nat} {z s : State} (hz : Keeps ps z s) (hs : Sub 0x41000003 ps) (ctx : Nat) :
    ∀ z', execSnapshotPoint ctx s = .next z' → Keeps ps z z' := by
  have k_openXfer : Sub 0x41000001 ps := sub_of hs rfl
  have k_modCc : Sub 0x40000000 ps := sub_of hs rfl
  have k_tookFree : Sub 0x2 ps := sub_of hs rfl
  intro z' e'
  unfold execSnapshotPoint at e'
  cases e'
  repeat'
    first
    | with_reducible refine keeps_ite (fun _ => ?_) (fun _ => ?_) | extract_lets | with_reducible assumption
    | with_reducible refine openXfer_keeps ?_ k_openXfer _ _ _ _ | with_reducible refine modCc_keeps ?_ k_modCc _ _
    | with_reducible refine tookFree_keeps ?_ k_tookFree | intro _ | split | dsimp +zetaDelta only

theorem sendPieces_keeps {ps : Nat} {z s : State} (hz : Keeps ps z s) (hs : Sub 0x1000001 ps) (node : Nat) (txn :
    Nat) (base : Nat) (b : List Byte) : Keeps ps z (sendPieces node txn base b s) := by
  have k_sendTo : Sub 0x1000001 ps := sub_of hs rfl
  unfold sendPieces
  repeat'
    first
    | with_reducible refine keeps_foldl ?_ ?_ | with_reducible assumption
    | with_reducible refine sendTo_keeps ?_ k_sendTo _ _ | intro _

theorem execChunkSend_keeps {ps : Nat} {z s : State} (hz : Keeps ps z s) (hs : Sub 0x86ffe8001 ps) (txn : Nat) :
    ∀ z', execChunkSend txn s = .next z' → Keeps ps z z' := by
  have k_sendPieces : Sub 0x1000001 ps := sub_of hs rfl
  have k_ckpFail : Sub 0x86ffe8001 ps := sub_of hs rfl
  have k_modXfer : Sub 0x40000000 ps := sub_of hs rfl
  have k_modCkp : Sub 0x40000000 ps := sub_of hs rfl
  intro z' e'
  unfold execChunkSend at e'
  cases e'
  repeat'
    first
    | with_reducible refine keeps_ite (fun _ => ?_) (fun _ => ?_) | extract_lets | with_reducible assumption
    | with_reducible refine sendPieces_keeps ?_ k_sendPieces _ _ _ _
    | with_reducible refine ckpFail_keeps ?_ k_ckpFail _ _ | with_reducible refine modXfer_keeps ?_ k_modXfer _ _
    | with_reducible refine modCkp_keeps ?_ k_modCkp _ | intro _ | split | dsimp +zetaDelta only

theorem modRst_keeps {ps : Nat} {z s : State} (hz : Keeps ps z s) (hs : Sub 0x40000000 ps) (c : Nat) (f : Restore →
    Restore) : Keeps ps z (modRst c f s) := by
  have k_modCc : Sub 0x40000000 ps := sub_of hs rfl
  unfold modRst
  repeat'
    first
    | with_reducible assumption | with_reducible refine modCc_keeps ?_ k_modCc _ _ | intro _

theorem restoreEnds_keeps {ps : Nat} {z s : State} (hz : Keeps ps z s) (hs : Sub 0x40008000 ps) (c : Nat) (r :
    Result) : Keeps ps z (restoreEnds c r s) := by
  have k_endD : Sub 0x8000 ps := sub_of hs rfl
  have k_dropXfers : Sub 0x40000000 ps := sub_of hs rfl
  have k_modCc : Sub 0x40000000 ps := sub_of hs rfl
  unfold restoreEnds
  repeat'
    first
    | with_reducible assumption | with_reducible refine endD_keeps ?_ k_endD _ _
    | with_reducible refine dropXfers_keeps ?_ k_dropXfers _ _ | with_reducible refine modCc_keeps ?_ k_modCc _ _
    | intro _ | split

theorem restoreAborts_keeps {ps : Nat} {z s : State} (hz : Keeps ps z s) (hs : Sub 0x40008000 ps) (c : Nat) :
    Keeps ps z (restoreAborts c s) := by
  have k_restoreEnds : Sub 0x40008000 ps := sub_of hs rfl
  have k_modCkp : Sub 0x40000000 ps := sub_of hs rfl
  unfold restoreAborts
  repeat'
    first
    | with_reducible assumption | with_reducible refine restoreEnds_keeps ?_ k_restoreEnds _ _
    | with_reducible refine modCkp_keeps ?_ k_modCkp _ | intro _

theorem restoreFetch_keeps {ps : Nat} {z s : State} (hz : Keeps ps z s) (hs : Sub 0x41000001 ps) (c : Nat) (r :
    Restore) : Keeps ps z (restoreFetch c r s) := by
  have k_openXfer : Sub 0x41000001 ps := sub_of hs rfl
  unfold restoreFetch
  repeat'
    first
    | extract_lets | with_reducible assumption | with_reducible refine openXfer_keeps ?_ k_openXfer _ _ _ _
    | dsimp +zetaDelta only

theorem restoreRefuse_keeps {ps : Nat} {z s : State} (hz : Keeps ps z s) (hs : Sub 0xc0008000 ps) (c : Nat) (n :
    Nat) : Keeps ps z (restoreRefuse c n s) := by
  have k_restoreAborts : Sub 0x40008000 ps := sub_of hs rfl
  have k_restoreEnds : Sub 0x40008000 ps := sub_of hs rfl
  have k_uniformRefuse : Sub 0x80008000 ps := sub_of hs rfl
  have k_dropXfers : Sub 0x40000000 ps := sub_of hs rfl
  have k_modCc : Sub 0x40000000 ps := sub_of hs rfl
  unfold restoreRefuse
  repeat'
    first
    | with_reducible refine keeps_ite (fun _ => ?_) (fun _ => ?_) | with_reducible assumption
    | with_reducible refine restoreAborts_keeps ?_ k_restoreAborts _
    | with_reducible refine restoreEnds_keeps ?_ k_restoreEnds _ _
    | with_reducible refine uniformRefuse_keeps ?_ k_uniformRefuse _ _
    | with_reducible refine dropXfers_keeps ?_ k_dropXfers _ _ | with_reducible refine modCc_keeps ?_ k_modCc _ _
    | intro _ | split

theorem shardFails_keeps {ps : Nat} {z s : State} (hz : Keeps ps z s) (hs : Sub 0x41008001 ps) (c : Nat) :
    Keeps ps z (shardFails c s) := by
  have k_refetch : Sub 0x41000001 ps := sub_of hs rfl
  have k_restoreFetch : Sub 0x41000001 ps := sub_of hs rfl
  have k_restoreAborts : Sub 0x40008000 ps := sub_of hs rfl
  have k_modRst : Sub 0x40000000 ps := sub_of hs rfl
  have k_ckpPost : Sub 0x8000 ps := sub_of hs rfl
  have k_openXfer : Sub 0x41000001 ps := sub_of hs rfl
  have k_dropXfers : Sub 0x40000000 ps := sub_of hs rfl
  unfold shardFails
  repeat'
    first
    | with_reducible refine keeps_ite (fun _ => ?_) (fun _ => ?_) | extract_lets | with_reducible assumption
    | with_reducible refine refetch_keeps ?_ k_refetch _ _
    | with_reducible refine restoreFetch_keeps ?_ k_restoreFetch _ _
    | with_reducible refine restoreAborts_keeps ?_ k_restoreAborts _
    | with_reducible refine modRst_keeps ?_ k_modRst _ _ | with_reducible refine ckpPost_keeps ?_ k_ckpPost _ _ _
    | with_reducible refine openXfer_keeps ?_ k_openXfer _ _ _ _
    | with_reducible refine dropXfers_keeps ?_ k_dropXfers _ _ | intro _ | split | dsimp +zetaDelta only

theorem rstGet_keeps {ps : Nat} {z s : State} (hz : Keeps ps z s) (hs : Sub 0x41000001 ps) (c : Nat) (r : Restore)
    (buddy : Bool) (first : Nat) (count : Nat) : Keeps ps z (rstGet c r buddy first count s) := by
  have k_openXfer : Sub 0x41000001 ps := sub_of hs rfl
  unfold rstGet
  repeat'
    first
    | with_reducible refine keeps_ite (fun _ => ?_) (fun _ => ?_) | extract_lets | with_reducible assumption
    | with_reducible refine openXfer_keeps ?_ k_openXfer _ _ _ _ | intro _ | dsimp +zetaDelta only

theorem restoreManifest_keeps {ps : Nat} {z s : State} (hz : Keeps ps z s) (hs : Sub 0xc1008001 ps) (c : Nat) :
    Keeps ps z (restoreManifest c s) := by
  have k_rstGet : Sub 0x41000001 ps := sub_of hs rfl
  have k_restoreRefuse : Sub 0xc0008000 ps := sub_of hs rfl
  have k_modRst : Sub 0x40000000 ps := sub_of hs rfl
  have k_dropXfer : Sub 0x40000000 ps := sub_of hs rfl
  unfold restoreManifest
  repeat'
    first
    | extract_lets | with_reducible assumption | with_reducible refine rstGet_keeps ?_ k_rstGet _ _ _ _ _
    | with_reducible refine restoreRefuse_keeps ?_ k_restoreRefuse _ _
    | with_reducible refine modRst_keeps ?_ k_modRst _ _ | with_reducible refine dropXfer_keeps ?_ k_dropXfer _
    | intro _ | split | dsimp +zetaDelta only

theorem execCkpRestore_keeps {ps : Nat} {z s : State} (hz : Keeps ps z s) (hs : Sub 0xc1008001 ps) (qp : Nat) (sub :
    Nat) : ∀ z', execCkpRestore qp sub s = .next z' → Keeps ps z z' := by
  have k_refetch : Sub 0x41000001 ps := sub_of hs rfl
  have k_restoreFetch : Sub 0x41000001 ps := sub_of hs rfl
  have k_planRefuse : Sub 0x80008000 ps := sub_of hs rfl
  have k_dropXfers : Sub 0x40000000 ps := sub_of hs rfl
  have k_modCc : Sub 0x40000000 ps := sub_of hs rfl
  have k_guarded : Sub 0x8000 ps := sub_of hs rfl
  have k_onStarted : Sub 0x0 ps := sub_of hs rfl
  have k_runDesc : Sub 0x8000 ps := sub_of hs rfl
  intro z' e'
  unfold execCkpRestore at e'
  cases e'
  repeat'
    first
    | extract_lets | with_reducible assumption | with_reducible refine refetch_keeps ?_ k_refetch _ _
    | with_reducible refine restoreFetch_keeps ?_ k_restoreFetch _ _
    | with_reducible refine planRefuse_keeps ?_ k_planRefuse _ _
    | with_reducible refine dropXfers_keeps ?_ k_dropXfers _ _ | with_reducible refine modCc_keeps ?_ k_modCc _ _
    | with_reducible refine guarded_keeps ?_ k_guarded _ _ _ ?_
    | with_reducible refine onStarted_keeps ?_ k_onStarted _ _ _ _ ?_
    | with_reducible refine runDesc_keeps ?_ k_runDesc _ _ _ | intro _ | split | dsimp +zetaDelta only

theorem execStatRsp_keeps {ps : Nat} {z s : State} (hz : Keeps ps z s) (hs : Sub 0xc1008001 ps) (port : Nat) (node :
    Nat) (txn : Nat) (status : Nat) (len : Nat) (valid : Bool) :
    ∀ z', execStatRsp port node txn status len valid s = .next z' → Keeps ps z z' := by
  have k_restoreManifest : Sub 0xc1008001 ps := sub_of hs rfl
  have k_restoreRefuse : Sub 0xc0008000 ps := sub_of hs rfl
  have k_modRst : Sub 0x40000000 ps := sub_of hs rfl
  have k_dropXfer : Sub 0x40000000 ps := sub_of hs rfl
  have k_routeDrop : Sub 0x1000000 ps := sub_of hs rfl
  intro z' e'
  unfold execStatRsp at e'
  cases e'
  repeat'
    first
    | with_reducible refine keeps_ite (fun _ => ?_) (fun _ => ?_) | extract_lets | with_reducible assumption
    | with_reducible refine restoreManifest_keeps ?_ k_restoreManifest _
    | with_reducible refine restoreRefuse_keeps ?_ k_restoreRefuse _ _
    | with_reducible refine modRst_keeps ?_ k_modRst _ _ | with_reducible refine dropXfer_keeps ?_ k_dropXfer _
    | with_reducible refine routeDrop_keeps ?_ k_routeDrop _ | intro _ | split | dsimp +zetaDelta only

theorem writeRanges_keeps {ps : Nat} {z s : State} (hz : Keeps ps z s) (hs : Sub 0x840fa8000 ps) (r : Restore) (n :
    Nat) (b : List Byte) : Keeps ps z (writeRanges r n b s) := by
  have k_storeBlk : Sub 0x840fa8000 ps := sub_of hs rfl
  unfold writeRanges
  repeat'
    first
    | with_reducible refine keeps_foldl ?_ ?_ | with_reducible refine keeps_ite (fun _ => ?_) (fun _ => ?_)
    | extract_lets | with_reducible assumption | with_reducible refine storeBlk_keeps ?_ k_storeBlk _ _ _ | intro _
    | split | dsimp +zetaDelta only

theorem refetch_keeps {ps : Nat} {z s : State} (hz : Keeps ps z s) (hs : Sub 0x41000001 ps) (c : Nat) (n : Nat) :
    Keeps ps z (refetch c n s) := by
  have k_rstGet : Sub 0x41000001 ps := sub_of hs rfl
  have k_modRst : Sub 0x40000000 ps := sub_of hs rfl
  unfold refetch
  repeat'
    first
    | with_reducible refine keeps_ite (fun _ => ?_) (fun _ => ?_) | with_reducible assumption
    | with_reducible refine rstGet_keeps ?_ k_rstGet _ _ _ _ _ | with_reducible refine modRst_keeps ?_ k_modRst _ _
    | intro _ | split

theorem partnerGone_keeps {ps : Nat} {z s : State} (hz : Keeps ps z s) (hs : Sub 0x41000001 ps) (c : Nat) :
    Keeps ps z (partnerGone c s) := by
  have k_rstGet : Sub 0x41000001 ps := sub_of hs rfl
  have k_modRst : Sub 0x40000000 ps := sub_of hs rfl
  unfold partnerGone
  repeat'
    first
    | with_reducible refine keeps_ite (fun _ => ?_) (fun _ => ?_) | extract_lets | with_reducible assumption
    | with_reducible refine rstGet_keeps ?_ k_rstGet _ _ _ _ _ | with_reducible refine modRst_keeps ?_ k_modRst _ _
    | intro _ | split | dsimp +zetaDelta only

theorem execRestoreChunk_keeps {ps : Nat} {z s : State} (hz : Keeps ps z s) (hs : Sub 0x8c1fa8001 ps) (ctx : Nat) :
    ∀ z', execRestoreChunk ctx s = .next z' → Keeps ps z z' := by
  have k_refetch : Sub 0x41000001 ps := sub_of hs rfl
  have k_writeRanges : Sub 0x840fa8000 ps := sub_of hs rfl
  have k_shardFails : Sub 0x41008001 ps := sub_of hs rfl
  have k_restoreRefuse : Sub 0xc0008000 ps := sub_of hs rfl
  have k_modRst : Sub 0x40000000 ps := sub_of hs rfl
  intro z' e'
  unfold execRestoreChunk at e'
  cases e'
  repeat'
    first
    | with_reducible refine keeps_ite (fun _ => ?_) (fun _ => ?_) | extract_lets | with_reducible assumption
    | with_reducible refine refetch_keeps ?_ k_refetch _ _
    | with_reducible refine writeRanges_keeps ?_ k_writeRanges _ _ _
    | with_reducible refine shardFails_keeps ?_ k_shardFails _
    | with_reducible refine restoreRefuse_keeps ?_ k_restoreRefuse _ _
    | with_reducible refine modRst_keeps ?_ k_modRst _ _ | intro _ | split | dsimp +zetaDelta only

theorem execRestoreComplete_keeps {ps : Nat} {z s : State} (hz : Keeps ps z s) (hs : Sub 0x8c1fb8001 ps) (ctx : Nat)
    : ∀ z', execRestoreComplete ctx s = .next z' → Keeps ps z z' := by
  have k_shardFails : Sub 0x41008001 ps := sub_of hs rfl
  have k_restoreEnds : Sub 0x40008000 ps := sub_of hs rfl
  have k_weightChain : Sub 0x80000000 ps := sub_of hs rfl
  have k_ckpPost : Sub 0x8000 ps := sub_of hs rfl
  have k_storeBlk : Sub 0x840fa8000 ps := sub_of hs rfl
  have k_modCtx : Sub 0x10000 ps := sub_of hs rfl
  intro z' e'
  unfold execRestoreComplete at e'
  cases e'
  repeat'
    first
    | with_reducible refine keeps_ite (fun _ => ?_) (fun _ => ?_) | extract_lets | with_reducible assumption
    | with_reducible refine shardFails_keeps ?_ k_shardFails _
    | with_reducible refine restoreEnds_keeps ?_ k_restoreEnds _ _
    | with_reducible refine weightChain_keeps ?_ k_weightChain _
    | with_reducible refine ckpPost_keeps ?_ k_ckpPost _ _ _
    | with_reducible refine storeBlk_keeps ?_ k_storeBlk _ _ _ | with_reducible refine modCtx_keeps ?_ k_modCtx _ _
    | intro _ | split | dsimp +zetaDelta only

theorem xferFails_keeps {ps : Nat} {z s : State} (hz : Keeps ps z s) (hs : Sub 0x8effe8001 ps) (t : Nat) (x : Xfer)
    (lost : Bool) : Keeps ps z (xferFails t x lost s) := by
  have k_partnerGone : Sub 0x41000001 ps := sub_of hs rfl
  have k_shardFails : Sub 0x41008001 ps := sub_of hs rfl
  have k_restoreRefuse : Sub 0xc0008000 ps := sub_of hs rfl
  have k_ckpFail : Sub 0x86ffe8001 ps := sub_of hs rfl
  have k_maniSend : Sub 0x86ffe8001 ps := sub_of hs rfl
  have k_ckpPost : Sub 0x8000 ps := sub_of hs rfl
  have k_dropXfer : Sub 0x40000000 ps := sub_of hs rfl
  unfold xferFails
  repeat'
    first
    | with_reducible refine keeps_ite (fun _ => ?_) (fun _ => ?_) | extract_lets | with_reducible assumption
    | with_reducible refine partnerGone_keeps ?_ k_partnerGone _
    | with_reducible refine shardFails_keeps ?_ k_shardFails _
    | with_reducible refine restoreRefuse_keeps ?_ k_restoreRefuse _ _
    | with_reducible refine ckpFail_keeps ?_ k_ckpFail _ _ | with_reducible refine maniSend_keeps ?_ k_maniSend _ _
    | with_reducible refine ckpPost_keeps ?_ k_ckpPost _ _ _ | with_reducible refine dropXfer_keeps ?_ k_dropXfer _
    | intro _ | split | dsimp +zetaDelta only

theorem tryPutClose_keeps {ps : Nat} {z s : State} (hz : Keeps ps z s) (hs : Sub 0x41000001 ps) (t : Nat) :
    Keeps ps z (tryPutClose t s) := by
  have k_fileReq : Sub 0x1000001 ps := sub_of hs rfl
  have k_modXfer : Sub 0x40000000 ps := sub_of hs rfl
  unfold tryPutClose
  repeat'
    first
    | with_reducible refine keeps_ite (fun _ => ?_) (fun _ => ?_) | with_reducible assumption
    | with_reducible refine fileReq_keeps ?_ k_fileReq _ _ _ _ _
    | with_reducible refine modXfer_keeps ?_ k_modXfer _ _ | intro _ | split

theorem execAck_keeps {ps : Nat} {z s : State} (hz : Keeps ps z s) (hs : Sub 0x8effe8001 ps) (port : Nat) (node :
    Nat) (txn : Nat) (status : Nat) (chunk : Nat) (window : Nat) :
    ∀ z', execAck port node txn status chunk window s = .next z' → Keeps ps z z' := by
  have k_tryPutClose : Sub 0x41000001 ps := sub_of hs rfl
  have k_xferFails : Sub 0x8effe8001 ps := sub_of hs rfl
  have k_refetch : Sub 0x41000001 ps := sub_of hs rfl
  have k_restoreRefuse : Sub 0xc0008000 ps := sub_of hs rfl
  have k_dropXfer : Sub 0x40000000 ps := sub_of hs rfl
  have k_modXfer : Sub 0x40000000 ps := sub_of hs rfl
  have k_routeDrop : Sub 0x1000000 ps := sub_of hs rfl
  intro z' e'
  unfold execAck at e'
  cases e'
  repeat'
    first
    | with_reducible refine keeps_ite (fun _ => ?_) (fun _ => ?_) | extract_lets | with_reducible assumption
    | with_reducible refine tryPutClose_keeps ?_ k_tryPutClose _
    | with_reducible refine xferFails_keeps ?_ k_xferFails _ _ _
    | with_reducible refine refetch_keeps ?_ k_refetch _ _
    | with_reducible refine restoreRefuse_keeps ?_ k_restoreRefuse _ _
    | with_reducible refine dropXfer_keeps ?_ k_dropXfer _ | with_reducible refine modXfer_keeps ?_ k_modXfer _ _
    | with_reducible refine routeDrop_keeps ?_ k_routeDrop _ | intro _ | split | dsimp +zetaDelta only

theorem sendAgain_keeps {ps : Nat} {z s : State} (hz : Keeps ps z s) (hs : Sub 0x1000001 ps) (t : Nat) (x : Xfer) :
    Keeps ps z (sendAgain t x s) := by
  have k_fileReq : Sub 0x1000001 ps := sub_of hs rfl
  unfold sendAgain
  repeat'
    first
    | with_reducible refine keeps_ite (fun _ => ?_) (fun _ => ?_) | with_reducible assumption
    | with_reducible refine fileReq_keeps ?_ k_fileReq _ _ _ _ _ | intro _ | split

theorem execChunkResendTimer_keeps {ps : Nat} {z s : State} (hz : Keeps ps z s) (hs : Sub 0x8effe8001 ps) (txn :
    Nat) (chunk : Option Nat) : ∀ z', execChunkResendTimer txn chunk s = .next z' → Keeps ps z z' := by
  have k_sendAgain : Sub 0x1000001 ps := sub_of hs rfl
  have k_xferFails : Sub 0x8effe8001 ps := sub_of hs rfl
  have k_sendPieces : Sub 0x1000001 ps := sub_of hs rfl
  have k_ckpFail : Sub 0x86ffe8001 ps := sub_of hs rfl
  have k_modXfer : Sub 0x40000000 ps := sub_of hs rfl
  intro z' e'
  unfold execChunkResendTimer at e'
  cases e'
  repeat'
    first
    | with_reducible refine keeps_ite (fun _ => ?_) (fun _ => ?_) | extract_lets | with_reducible assumption
    | with_reducible refine sendAgain_keeps ?_ k_sendAgain _ _
    | with_reducible refine xferFails_keeps ?_ k_xferFails _ _ _
    | with_reducible refine sendPieces_keeps ?_ k_sendPieces _ _ _ _
    | with_reducible refine ckpFail_keeps ?_ k_ckpFail _ _ | with_reducible refine modXfer_keeps ?_ k_modXfer _ _
    | intro _ | split | dsimp +zetaDelta only

theorem execDurable_keeps {ps : Nat} {z s : State} (hz : Keeps ps z s) (hs : Sub 0x86ffe8001 ps) (port : Nat) (node
    : Nat) (txn : Nat) : ∀ z', execDurable port node txn s = .next z' → Keeps ps z z' := by
  have k_ckpReport : Sub 0x86ffe8001 ps := sub_of hs rfl
  have k_maniSend : Sub 0x86ffe8001 ps := sub_of hs rfl
  have k_dropXfer : Sub 0x40000000 ps := sub_of hs rfl
  have k_modCc : Sub 0x40000000 ps := sub_of hs rfl
  have k_routeDrop : Sub 0x1000000 ps := sub_of hs rfl
  intro z' e'
  unfold execDurable at e'
  cases e'
  repeat'
    first
    | with_reducible refine keeps_ite (fun _ => ?_) (fun _ => ?_) | extract_lets | with_reducible assumption
    | with_reducible refine ckpReport_keeps ?_ k_ckpReport _ _ _
    | with_reducible refine maniSend_keeps ?_ k_maniSend _ _ | with_reducible refine dropXfer_keeps ?_ k_dropXfer _
    | with_reducible refine modCc_keeps ?_ k_modCc _ _ | with_reducible refine routeDrop_keeps ?_ k_routeDrop _
    | intro _ | split | dsimp +zetaDelta only

theorem execDigestReport_keeps {ps : Nat} {z s : State} (hz : Keeps ps z s) (hs : Sub 0x86ffe8001 ps) (node : Nat)
    (rank : Nat) (step : Nat) (inc : Nat) (shape : Nat) (digest : Nat) (len : Nat) (store : Nat) (buddy : Option Nat)
    (result : Nat) :
    ∀ z', execDigestReport node rank step inc shape digest len store buddy result s = .next z' → Keeps ps z z' := by
  have k_maniReport : Sub 0x86ffe8001 ps := sub_of hs rfl
  intro z' e'
  unfold execDigestReport at e'
  cases e'
  repeat'
    first
    | with_reducible assumption | with_reducible refine maniReport_keeps ?_ k_maniReport _ _ _ _ _ _ _ _ _ _

theorem execManifestDone_keeps {ps : Nat} {z s : State} (hz : Keeps ps z s) (hs : Sub 0x86ffe8001 ps) (node : Nat)
    (step : Nat) (inc : Nat) (result : Nat) :
    ∀ z', execManifestDone node step inc result s = .next z' → Keeps ps z z' := by
  have k_maniDone : Sub 0x86ffe8001 ps := sub_of hs rfl
  intro z' e'
  unfold execManifestDone at e'
  cases e'
  repeat'
    first
    | with_reducible assumption | with_reducible refine maniDone_keeps ?_ k_maniDone _ _ _ _

theorem execManifestWaitExpire_keeps {ps : Nat} {z s : State} (hz : Keeps ps z s) (hs : Sub 0x86ffe8001 ps) (ctx :
    Nat) (manager : Bool) : ∀ z', execManifestWaitExpire ctx manager s = .next z' → Keeps ps z z' := by
  have k_ckpFail : Sub 0x86ffe8001 ps := sub_of hs rfl
  have k_maniSend : Sub 0x86ffe8001 ps := sub_of hs rfl
  intro z' e'
  unfold execManifestWaitExpire at e'
  cases e'
  repeat'
    first
    | with_reducible refine keeps_ite (fun _ => ?_) (fun _ => ?_) | with_reducible assumption
    | with_reducible refine ckpFail_keeps ?_ k_ckpFail _ _ | with_reducible refine maniSend_keeps ?_ k_maniSend _ _
    | intro _ | split

theorem fileRsp_keeps {ps : Nat} {z s : State} (hz : Keeps ps z s) (hs : Sub 0x1000001 ps) (node : Nat) (kind : Nat)
    (txn : Nat) (fields : List Nat) : Keeps ps z (fileRsp node kind txn fields s) := by
  have k_sendTo : Sub 0x1000001 ps := sub_of hs rfl
  unfold fileRsp
  repeat'
    first
    | with_reducible assumption | with_reducible refine sendTo_keeps ?_ k_sendTo _ _

theorem setSlot_keeps {ps : Nat} {z s : State} (hz : Keeps ps z s) (hs : Sub 0x40000000 ps) (b : Bool) (x : Option
    BuddySlot) : Keeps ps z (setSlot b x s) := by
  have k_modCkp : Sub 0x40000000 ps := sub_of hs rfl
  unfold setSlot
  repeat'
    first
    | with_reducible refine keeps_ite (fun _ => ?_) (fun _ => ?_) | with_reducible assumption
    | with_reducible refine modCkp_keeps ?_ k_modCkp _ | intro _

theorem execPutOpen_keeps {ps : Nat} {z s : State} (hz : Keeps ps z s) (hs : Sub 0x41000003 ps) (node : Nat) (txn :
    Nat) (name : List Byte) (len : Nat) : ∀ z', execPutOpen node txn name len s = .next z' → Keeps ps z z' := by
  have k_setSlot : Sub 0x40000000 ps := sub_of hs rfl
  have k_fileRsp : Sub 0x1000001 ps := sub_of hs rfl
  have k_tookFree : Sub 0x2 ps := sub_of hs rfl
  intro z' e'
  unfold execPutOpen at e'
  cases e'
  repeat'
    first
    | with_reducible refine keeps_ite (fun _ => ?_) (fun _ => ?_) | extract_lets | with_reducible assumption
    | with_reducible refine setSlot_keeps ?_ k_setSlot _ _
    | with_reducible refine fileRsp_keeps ?_ k_fileRsp _ _ _ _ | with_reducible refine tookFree_keeps ?_ k_tookFree
    | intro _ | dsimp +zetaDelta only

theorem putData_keeps {ps : Nat} {z s : State} (hz : Keeps ps z s) (hs : Sub 0x41000003 ps) (node : Nat) (txn : Nat)
    (off : Nat) (data : List Byte) : Keeps ps z (putData node txn off data s) := by
  have k_setSlot : Sub 0x40000000 ps := sub_of hs rfl
  have k_fileRsp : Sub 0x1000001 ps := sub_of hs rfl
  have k_tookFree : Sub 0x2 ps := sub_of hs rfl
  unfold putData
  repeat'
    first
    | with_reducible refine keeps_ite (fun _ => ?_) (fun _ => ?_) | extract_lets | with_reducible assumption
    | with_reducible refine setSlot_keeps ?_ k_setSlot _ _
    | with_reducible refine fileRsp_keeps ?_ k_fileRsp _ _ _ _ | with_reducible refine tookFree_keeps ?_ k_tookFree
    | intro _ | split | dsimp +zetaDelta only

theorem execCkpData_keeps {ps : Nat} {z s : State} (hz : Keeps ps z s) (hs : Sub 0xc1008003 ps) (port : Nat) (node :
    Nat) (txn : Nat) (off : Nat) (data : List Byte) :
    ∀ z', execCkpData port node txn off data s = .next z' → Keeps ps z z' := by
  have k_putData : Sub 0x41000003 ps := sub_of hs rfl
  have k_restoreManifest : Sub 0xc1008001 ps := sub_of hs rfl
  have k_modXfer : Sub 0x40000000 ps := sub_of hs rfl
  have k_routeDrop : Sub 0x1000000 ps := sub_of hs rfl
  intro z' e'
  unfold execCkpData at e'
  cases e'
  repeat'
    first
    | with_reducible refine keeps_ite (fun _ => ?_) (fun _ => ?_) | extract_lets | with_reducible assumption
    | with_reducible refine putData_keeps ?_ k_putData _ _ _ _
    | with_reducible refine restoreManifest_keeps ?_ k_restoreManifest _
    | with_reducible refine modXfer_keeps ?_ k_modXfer _ _ | with_reducible refine routeDrop_keeps ?_ k_routeDrop _
    | intro _ | split | dsimp +zetaDelta only

theorem execPutClose_keeps {ps : Nat} {z s : State} (hz : Keeps ps z s) (hs : Sub 0x41000001 ps) (node : Nat) (txn :
    Nat) (digest : Nat) : ∀ z', execPutClose node txn digest s = .next z' → Keeps ps z z' := by
  have k_setSlot : Sub 0x40000000 ps := sub_of hs rfl
  have k_fileRsp : Sub 0x1000001 ps := sub_of hs rfl
  have k_modCkp : Sub 0x40000000 ps := sub_of hs rfl
  intro z' e'
  unfold execPutClose at e'
  cases e'
  repeat'
    first
    | with_reducible refine keeps_ite (fun _ => ?_) (fun _ => ?_) | with_reducible assumption
    | with_reducible refine setSlot_keeps ?_ k_setSlot _ _
    | with_reducible refine fileRsp_keeps ?_ k_fileRsp _ _ _ _ | with_reducible refine modCkp_keeps ?_ k_modCkp _
    | intro _ | split

theorem execGetOpen_keeps {ps : Nat} {z s : State} (hz : Keeps ps z s) (hs : Sub 0x1000003 ps) (node : Nat) (txn :
    Nat) (name : List Byte) (first : Nat) (count : Nat) (bad : List Nat) :
    ∀ z', execGetOpen node txn name first count bad s = .next z' → Keeps ps z z' := by
  have k_fileRsp : Sub 0x1000001 ps := sub_of hs rfl
  have k_sendPieces : Sub 0x1000001 ps := sub_of hs rfl
  have k_tookFree : Sub 0x2 ps := sub_of hs rfl
  intro z' e'
  unfold execGetOpen at e'
  cases e'
  repeat'
    first
    | with_reducible refine keeps_foldl ?_ ?_ | with_reducible refine keeps_ite (fun _ => ?_) (fun _ => ?_)
    | extract_lets | with_reducible assumption | with_reducible refine fileRsp_keeps ?_ k_fileRsp _ _ _ _
    | with_reducible refine sendPieces_keeps ?_ k_sendPieces _ _ _ _
    | with_reducible refine tookFree_keeps ?_ k_tookFree | intro _ | split | dsimp +zetaDelta only

end Sys2Proof.Laws
end

