-- ==== Sys2Proof/Laws/KeepsOwl.lean ====
section
/-!
SUPPORT. Sys2Proof/Laws/KeepsOwl.lean: the operations of Sys2Proof/Machine/Owl.lean keep what Laws/Keeps.lean says.
-/
namespace Sys2Proof.Laws
open Sys2Proof.Machine

theorem modPlan_keeps {ps : Nat} {z s : State} (hz : Keeps ps z s) (hs : Sub 0x400 ps) (c : Nat) (f : CluPlan →
    CluPlan) : Keeps ps z (modPlan c f s) := by
  have k_modOwl : Sub 0x400 ps := sub_of hs rfl
  unfold modPlan
  repeat'
    first
    | with_reducible assumption | with_reducible refine modOwl_keeps ?_ k_modOwl _ | intro _

theorem startReplan_keeps {ps : Nat} {z s : State} (hz : Keeps ps z s) (hs : Sub 0x400 ps) (cause : Nat) :
    Keeps ps z (startReplan cause s) := by
  have k_modOwl : Sub 0x400 ps := sub_of hs rfl
  unfold startReplan
  repeat'
    first
    | with_reducible refine keeps_ite (fun _ => ?_) (fun _ => ?_) | with_reducible assumption
    | with_reducible refine modOwl_keeps ?_ k_modOwl _ | intro _

theorem readSlack_keeps {ps : Nat} {z s : State} (hz : Keeps ps z s) (hs : Sub 0x400 ps) (e : Nat × Nat) :
    Keeps ps z (readSlack e s) := by
  have k_startReplan : Sub 0x400 ps := sub_of hs rfl
  have k_modPlan : Sub 0x400 ps := sub_of hs rfl
  have k_modOwl : Sub 0x400 ps := sub_of hs rfl
  unfold readSlack
  repeat'
    first
    | with_reducible refine keeps_ite (fun _ => ?_) (fun _ => ?_) | extract_lets | with_reducible assumption
    | with_reducible refine startReplan_keeps ?_ k_startReplan _
    | with_reducible refine modPlan_keeps ?_ k_modPlan _ _ | with_reducible refine modOwl_keeps ?_ k_modOwl _
    | intro _ | dsimp +zetaDelta only

theorem execReplicaRead_keeps {ps : Nat} {z s : State} (hz : Keeps ps z s) (hs : Sub 0x400 ps) (slack : List (Nat ×
    Nat)) : ∀ z', execReplicaRead slack s = .next z' → Keeps ps z z' := by
  have k_readSlack : Sub 0x400 ps := sub_of hs rfl
  intro z' e'
  unfold execReplicaRead at e'
  cases e'
  repeat'
    first
    | with_reducible refine keeps_foldl ?_ ?_ | with_reducible assumption
    | with_reducible refine readSlack_keeps ?_ k_readSlack _ | intro _

theorem execAgeingRead_keeps {ps : Nat} {z s : State} (hz : Keeps ps z s) (hs : Sub 0x400 ps) (readings : List (Nat
    × Nat)) : ∀ z', execAgeingRead readings s = .next z' → Keeps ps z z' := by
  have k_modOwl : Sub 0x400 ps := sub_of hs rfl
  intro z' e'
  unfold execAgeingRead at e'
  cases e'
  repeat'
    first
    | with_reducible refine keeps_foldl ?_ ?_ | with_reducible refine keeps_ite (fun _ => ?_) (fun _ => ?_)
    | with_reducible assumption | with_reducible refine modOwl_keeps ?_ k_modOwl _ | intro _

theorem execMarginFloorRetire_keeps {ps : Nat} {z s : State} (hz : Keeps ps z s) (hs : Sub 0xe6fffa601 ps) (c : Nat)
    : ∀ z', execMarginFloorRetire c s = .next z' → Keeps ps z z' := by
  have k_retireCluster : Sub 0xe6fffa601 ps := sub_of hs rfl
  intro z' e'
  unfold execMarginFloorRetire at e'
  cases e'
  repeat'
    first
    | with_reducible refine keeps_ite (fun _ => ?_) (fun _ => ?_) | extract_lets | with_reducible assumption
    | with_reducible refine retireCluster_keeps ?_ k_retireCluster _ _ _ | intro _ | dsimp +zetaDelta only

theorem execDailyReplan_keeps {ps : Nat} {z s : State} (hz : Keeps ps z s) (hs : Sub 0x400 ps)  :
    ∀ z', execDailyReplan s = .next z' → Keeps ps z z' := by
  have k_startReplan : Sub 0x400 ps := sub_of hs rfl
  intro z' e'
  unfold execDailyReplan at e'
  cases e'
  repeat'
    first
    | with_reducible assumption | with_reducible refine startReplan_keeps ?_ k_startReplan _

theorem execReplan_keeps {ps : Nat} {z s : State} (hz : Keeps ps z s) (hs : Sub 0x400 ps) (src : Src) :
    ∀ z', execReplan src s = .next z' → Keeps ps z z' := by
  have k_startReplan : Sub 0x400 ps := sub_of hs rfl
  intro z' e'
  unfold execReplan at e'
  cases e'
  repeat'
    first
    | with_reducible refine keeps_ite (fun _ => ?_) (fun _ => ?_) | with_reducible assumption
    | with_reducible refine startReplan_keeps ?_ k_startReplan _ | intro _

theorem execReplanComplete_keeps {ps : Nat} {z s : State} (hz : Keeps ps z s) (hs : Sub 0xe6fffa601 ps) (volts :
    List Nat) (clocks : List (Nat × Nat × Nat)) (retire : List Nat) :
    ∀ z', execReplanComplete volts clocks retire s = .next z' → Keeps ps z z' := by
  have k_retireCluster : Sub 0xe6fffa601 ps := sub_of hs rfl
  have k_logWrite : Sub 0x2200 ps := sub_of hs rfl
  have k_post : Sub 0x8000 ps := sub_of hs rfl
  have k_modNv : Sub 0x2000 ps := sub_of hs rfl
  have k_owl : Sub 0x400 ps := sub_of hs rfl
  intro z' e'
  unfold execReplanComplete at e'
  cases e'
  repeat'
    first
    | with_reducible refine keeps_foldl ?_ ?_ | with_reducible refine keeps_ite (fun _ => ?_) (fun _ => ?_)
    | extract_lets | with_reducible assumption | with_reducible refine retireCluster_keeps ?_ k_retireCluster _ _ _
    | with_reducible refine logWrite_keeps ?_ k_logWrite _ _ _ | with_reducible refine post_keeps ?_ k_post _ _ _ _
    | with_reducible refine modNv_keeps ?_ k_modNv _ ?_ | exact oneWay_same rfl rfl rfl rfl rfl rfl rfl rfl
    | fail_if_no_progress with_reducible refine keeps_set_owl ?_ k_owl _ | intro _ | split | dsimp +zetaDelta only

theorem loadMarginPlan_keeps {ps : Nat} {z s : State} (hz : Keeps ps z s) (hs : Sub 0x440 ps)  :
    Keeps ps z (loadMarginPlan s) := by
  have k_modOwl : Sub 0x400 ps := sub_of hs rfl
  have k_modClk : Sub 0x40 ps := sub_of hs rfl
  unfold loadMarginPlan
  repeat'
    first
    | extract_lets | with_reducible assumption | with_reducible refine modOwl_keeps ?_ k_modOwl _
    | with_reducible refine modClk_keeps ?_ k_modClk _ | intro _ | split | dsimp +zetaDelta only

theorem applyPolicy_keeps {ps : Nat} {z s : State} (hz : Keeps ps z s) (hs : Sub 0xa600 ps) (l : Nat) (req : Nat)
    (applied : Nat) (unit : Nat) : Keeps ps z (applyPolicy l req applied unit s) := by
  have k_logWrite : Sub 0x2200 ps := sub_of hs rfl
  have k_post : Sub 0x8000 ps := sub_of hs rfl
  have k_modOwl : Sub 0x400 ps := sub_of hs rfl
  unfold applyPolicy
  repeat'
    first
    | with_reducible refine keeps_ite (fun _ => ?_) (fun _ => ?_) | extract_lets | with_reducible assumption
    | with_reducible refine logWrite_keeps ?_ k_logWrite _ _ _ | with_reducible refine post_keeps ?_ k_post _ _ _ _
    | with_reducible refine modOwl_keeps ?_ k_modOwl _ | intro _ | dsimp +zetaDelta only

theorem execPolicyWrite_keeps {ps : Nat} {z s : State} (hz : Keeps ps z s) (hs : Sub 0xa600 ps) (src : Src) (l :
    Nat) (v : Nat) (allowed : Nat) (unit : Nat) :
    ∀ z', execPolicyWrite src l v allowed unit s = .next z' → Keeps ps z z' := by
  have k_applyPolicy : Sub 0xa600 ps := sub_of hs rfl
  intro z' e'
  unfold execPolicyWrite at e'
  cases e'
  repeat'
    first
    | with_reducible refine keeps_ite (fun _ => ?_) (fun _ => ?_) | with_reducible assumption
    | with_reducible refine applyPolicy_keeps ?_ k_applyPolicy _ _ _ _ | intro _

theorem execPlacementCooldown_keeps {ps : Nat} {z s : State} (hz : Keeps ps z s) (hs : Sub 0x400 ps) (c : Nat) :
    ∀ z', execPlacementCooldown c s = .next z' → Keeps ps z z' := by
  have k_modPlan : Sub 0x400 ps := sub_of hs rfl
  intro z' e'
  unfold execPlacementCooldown at e'
  cases e'
  repeat'
    first
    | with_reducible refine keeps_ite (fun _ => ?_) (fun _ => ?_) | with_reducible assumption
    | with_reducible refine modPlan_keeps ?_ k_modPlan _ _ | intro _

theorem execCooldownEnd_keeps {ps : Nat} {z s : State} (hz : Keeps ps z s) (hs : Sub 0x400 ps) (c : Nat) :
    ∀ z', execCooldownEnd c s = .next z' → Keeps ps z z' := by
  have k_modPlan : Sub 0x400 ps := sub_of hs rfl
  intro z' e'
  unfold execCooldownEnd at e'
  cases e'
  repeat'
    first
    | with_reducible refine keeps_ite (fun _ => ?_) (fun _ => ?_) | with_reducible assumption
    | with_reducible refine modPlan_keeps ?_ k_modPlan _ _ | intro _

theorem execEyeMonitorRead_keeps {ps : Nat} {z s : State} (hz : Keeps ps z s) (hs : Sub 0xa600 ps) (margins : List
    (Nat × Nat)) : ∀ z', execEyeMonitorRead margins s = .next z' → Keeps ps z z' := by
  have k_applyPolicy : Sub 0xa600 ps := sub_of hs rfl
  have k_modOwl : Sub 0x400 ps := sub_of hs rfl
  intro z' e'
  unfold execEyeMonitorRead at e'
  cases e'
  repeat'
    first
    | with_reducible refine keeps_foldl ?_ ?_ | with_reducible refine keeps_ite (fun _ => ?_) (fun _ => ?_)
    | extract_lets | with_reducible assumption | with_reducible refine applyPolicy_keeps ?_ k_applyPolicy _ _ _ _
    | with_reducible refine modOwl_keeps ?_ k_modOwl _ | intro _ | split | dsimp +zetaDelta only

theorem modOpen_keeps {ps : Nat} {z s : State} (hz : Keeps ps z s) (hs : Sub 0x1000 ps) (f : Interval → Interval) :
    Keeps ps z (modOpen f s) := by
  have k_modLed : Sub 0x1000 ps := sub_of hs rfl
  unfold modOpen
  repeat'
    first
    | with_reducible assumption | with_reducible refine modLed_keeps ?_ k_modLed _ | intro _

theorem noteCap_keeps {ps : Nat} {z s : State} (hz : Keeps ps z s) (hs : Sub 0x1000 ps)  :
    Keeps ps z (noteCap s) := by
  have k_modOpen : Sub 0x1000 ps := sub_of hs rfl
  unfold noteCap
  repeat'
    first
    | extract_lets | with_reducible assumption | with_reducible refine modOpen_keeps ?_ k_modOpen _ | intro _
    | dsimp +zetaDelta only

theorem execPowerLimiterTick_keeps {ps : Nat} {z s : State} (hz : Keeps ps z s) (hs : Sub 0x1800 ps) (watts : Nat) :
    ∀ z', execPowerLimiterTick watts s = .next z' → Keeps ps z z' := by
  have k_modOpen : Sub 0x1000 ps := sub_of hs rfl
  have k_modPwr : Sub 0x800 ps := sub_of hs rfl
  intro z' e'
  unfold execPowerLimiterTick at e'
  cases e'
  repeat'
    first
    | with_reducible refine keeps_ite (fun _ => ?_) (fun _ => ?_) | extract_lets | with_reducible assumption
    | with_reducible refine modOpen_keeps ?_ k_modOpen _ | with_reducible refine modPwr_keeps ?_ k_modPwr _
    | intro _ | dsimp +zetaDelta only

theorem execLedgerTimeLoad_keeps {ps : Nat} {z s : State} (hz : Keeps ps z s) (hs : Sub 0x3202 ps)  :
    ∀ z', execLedgerTimeLoad s = .next z' → Keeps ps z z' := by
  have k_ledgerLoad : Sub 0x3202 ps := sub_of hs rfl
  intro z' e'
  unfold execLedgerTimeLoad at e'
  cases e'
  repeat'
    first
    | with_reducible refine keeps_ite (fun _ => ?_) (fun _ => ?_) | with_reducible assumption
    | with_reducible refine ledgerLoad_keeps ?_ k_ledgerLoad | intro _

theorem execMeterTick_keeps {ps : Nat} {z s : State} (hz : Keeps ps z s) (hs : Sub 0x1000 ps) (energy : Nat)
    (charges : List (Nat × Nat)) : ∀ z', execMeterTick energy charges s = .next z' → Keeps ps z z' := by
  have k_modLed : Sub 0x1000 ps := sub_of hs rfl
  intro z' e'
  unfold execMeterTick at e'
  cases e'
  repeat'
    first
    | with_reducible refine keeps_foldl ?_ ?_ | with_reducible refine keeps_ite (fun _ => ?_) (fun _ => ?_)
    | extract_lets | with_reducible assumption | with_reducible refine modLed_keeps ?_ k_modLed _ | intro _ | split
    | dsimp +zetaDelta only

theorem applyInterval_keeps {ps : Nat} {z s : State} (hz : Keeps ps z s) (hs : Sub 0x800 ps)  :
    Keeps ps z (applyInterval s) := by
  have k_modPwr : Sub 0x800 ps := sub_of hs rfl
  unfold applyInterval
  repeat'
    first
    | with_reducible assumption | with_reducible refine modPwr_keeps ?_ k_modPwr _ | intro _

theorem execIntervalClose_keeps {ps : Nat} {z s : State} (hz : Keeps ps z s) (hs : Sub 0x3a02 ps)  :
    ∀ z', execIntervalClose s = .next z' → Keeps ps z z' := by
  have k_applyInterval : Sub 0x800 ps := sub_of hs rfl
  have k_ivClose : Sub 0x3202 ps := sub_of hs rfl
  have k_ivOpen : Sub 0x1000 ps := sub_of hs rfl
  intro z' e'
  unfold execIntervalClose at e'
  cases e'
  repeat'
    first
    | with_reducible refine keeps_ite (fun _ => ?_) (fun _ => ?_) | with_reducible assumption
    | with_reducible refine applyInterval_keeps ?_ k_applyInterval
    | with_reducible refine ivClose_keeps ?_ k_ivClose _ | with_reducible refine ivOpen_keeps ?_ k_ivOpen | intro _
    | split

theorem execPeriodStart_keeps {ps : Nat} {z s : State} (hz : Keeps ps z s) (hs : Sub 0x1800 ps)  :
    ∀ z', execPeriodStart s = .next z' → Keeps ps z z' := by
  have k_noteCap : Sub 0x1000 ps := sub_of hs rfl
  have k_modPwr : Sub 0x800 ps := sub_of hs rfl
  intro z' e'
  unfold execPeriodStart at e'
  cases e'
  repeat'
    first
    | with_reducible assumption | with_reducible refine noteCap_keeps ?_ k_noteCap
    | with_reducible refine modPwr_keeps ?_ k_modPwr _ | intro _

theorem savePeriods_keeps {ps : Nat} {z s : State} (hz : Keeps ps z s) (hs : Sub 0x2000 ps)  :
    Keeps ps z (savePeriods s) := by
  have k_modNv : Sub 0x2000 ps := sub_of hs rfl
  unfold savePeriods
  repeat'
    first
    | with_reducible assumption | with_reducible refine modNv_keeps ?_ k_modNv _ ?_
    | exact oneWay_same rfl rfl rfl rfl rfl rfl rfl rfl | intro _

theorem setPeriod_keeps {ps : Nat} {z s : State} (hz : Keeps ps z s) (hs : Sub 0x3800 ps) (r : Reg) (v : Nat) :
    Keeps ps z (setPeriod r v s) := by
  have k_savePeriods : Sub 0x2000 ps := sub_of hs rfl
  have k_noteCap : Sub 0x1000 ps := sub_of hs rfl
  have k_modPwr : Sub 0x800 ps := sub_of hs rfl
  unfold setPeriod
  repeat'
    first
    | extract_lets | with_reducible assumption | with_reducible refine savePeriods_keeps ?_ k_savePeriods
    | with_reducible refine noteCap_keeps ?_ k_noteCap | with_reducible refine modPwr_keeps ?_ k_modPwr _ | intro _
    | split | dsimp +zetaDelta only

theorem execPeriodWrite_keeps {ps : Nat} {z s : State} (hz : Keeps ps z s) (hs : Sub 0x3800 ps) (src : Src) (r :
    Reg) (v : DWord) : ∀ z', execPeriodWrite src r v s = .next z' → Keeps ps z z' := by
  have k_setPeriod : Sub 0x3800 ps := sub_of hs rfl
  intro z' e'
  unfold execPeriodWrite at e'
  cases e'
  repeat'
    first
    | with_reducible refine keeps_ite (fun _ => ?_) (fun _ => ?_) | with_reducible assumption
    | with_reducible refine setPeriod_keeps ?_ k_setPeriod _ _ | intro _

theorem restoreLedger_keeps {ps : Nat} {z s : State} (hz : Keeps ps z s) (hs : Sub 0x1800 ps)  :
    Keeps ps z (restoreLedger s) := by
  have k_ivOpen : Sub 0x1000 ps := sub_of hs rfl
  have k_modLed : Sub 0x1000 ps := sub_of hs rfl
  have k_modPwr : Sub 0x800 ps := sub_of hs rfl
  unfold restoreLedger
  repeat'
    first
    | with_reducible refine keeps_ite (fun _ => ?_) (fun _ => ?_) | extract_lets | with_reducible assumption
    | with_reducible refine ivOpen_keeps ?_ k_ivOpen | with_reducible refine modLed_keeps ?_ k_modLed _
    | with_reducible refine modPwr_keeps ?_ k_modPwr _ | intro _ | split | dsimp +zetaDelta only

theorem execDailyHealthRecord_keeps {ps : Nat} {z s : State} (hz : Keeps ps z s) (hs : Sub 0x2200 ps)  :
    ∀ z', execDailyHealthRecord s = .next z' → Keeps ps z z' := by
  have k_logWrite : Sub 0x2200 ps := sub_of hs rfl
  have k_modLog : Sub 0x200 ps := sub_of hs rfl
  intro z' e'
  unfold execDailyHealthRecord at e'
  cases e'
  repeat'
    first
    | with_reducible refine keeps_ite (fun _ => ?_) (fun _ => ?_) | with_reducible assumption
    | with_reducible refine logWrite_keeps ?_ k_logWrite _ _ _ | with_reducible refine modLog_keeps ?_ k_modLog _
    | intro _

theorem execLogbookCommit_keeps {ps : Nat} {z s : State} (hz : Keeps ps z s) (hs : Sub 0xa301 ps)  :
    ∀ z', execLogbookCommit s = .next z' → Keeps ps z z' := by
  have k_logCommit : Sub 0xa301 ps := sub_of hs rfl
  intro z' e'
  unfold execLogbookCommit at e'
  cases e'
  repeat'
    first
    | with_reducible refine keeps_ite (fun _ => ?_) (fun _ => ?_) | with_reducible assumption
    | with_reducible refine logCommit_keeps ?_ k_logCommit _ | intro _

theorem retireBlock_keeps {ps : Nat} {z s : State} (hz : Keeps ps z s) (hs : Sub 0xa101 ps)  :
    Keeps ps z (retireBlock s) := by
  have k_postWear : Sub 0x8101 ps := sub_of hs rfl
  have k_modNv : Sub 0x2000 ps := sub_of hs rfl
  unfold retireBlock
  repeat'
    first
    | with_reducible refine keeps_ite (fun _ => ?_) (fun _ => ?_) | extract_lets | with_reducible assumption
    | with_reducible refine postWear_keeps ?_ k_postWear | with_reducible refine modNv_keeps ?_ k_modNv _ ?_
    | exact oneWay_same rfl rfl rfl rfl rfl rfl rfl rfl | intro _ | dsimp +zetaDelta only

theorem oneWay_log {a : NvState} {l : LogStore} (h : l.nextSeq = a.log.nextSeq) : OneWay a { a with log := l } :=
  oneWay_same rfl rfl rfl rfl rfl rfl rfl h

theorem execPageProgramFail_keeps {ps : Nat} {z s : State} (hz : Keeps ps z s) (hs : Sub 0xa301 ps) (last : Bool) :
    ∀ z', execPageProgramFail last s = .next z' → Keeps ps z z' := by
  have k_retireBlock : Sub 0xa101 ps := sub_of hs rfl
  have k_modNv : Sub 0x2000 ps := sub_of hs rfl
  have k_modLog : Sub 0x200 ps := sub_of hs rfl
  intro z' e'
  unfold execPageProgramFail at e'
  cases e'
  repeat'
    first
    | exact oneWay_log ((logPage_seq (by assumption)).trans rfl)
    | with_reducible refine keeps_ite (fun _ => ?_) (fun _ => ?_) | extract_lets | with_reducible assumption
    | with_reducible refine retireBlock_keeps ?_ k_retireBlock | with_reducible refine modNv_keeps ?_ k_modNv _ ?_
    | with_reducible refine modLog_keeps ?_ k_modLog _ | exact oneWay_same rfl rfl rfl rfl rfl rfl rfl rfl | intro _
    | split | dsimp +zetaDelta only

theorem execLogbookBlockErase_keeps {ps : Nat} {z s : State} (hz : Keeps ps z s) (hs : Sub 0xa301 ps)  :
    ∀ z', execLogbookBlockErase s = .next z' → Keeps ps z z' := by
  have k_logCommitFrom : Sub 0xa301 ps := sub_of hs rfl
  have k_modNv : Sub 0x2000 ps := sub_of hs rfl
  intro z' e'
  unfold execLogbookBlockErase at e'
  cases e'
  repeat'
    first
    | with_reducible refine keeps_ite (fun _ => ?_) (fun _ => ?_) | extract_lets | with_reducible assumption
    | with_reducible refine logCommitFrom_keeps ?_ k_logCommitFrom _ _
    | with_reducible refine modNv_keeps ?_ k_modNv _ ?_ | exact oneWay_same rfl rfl rfl rfl rfl rfl rfl rfl
    | intro _ | split | dsimp +zetaDelta only

theorem mountLogbook_keeps {ps : Nat} {z s : State} (hz : Keeps ps z s) (hs : Sub 0xa301 ps) (writable : Bool) :
    Keeps ps z (mountLogbook writable s) := by
  have k_logReadOnly : Sub 0xa101 ps := sub_of hs rfl
  have k_logAppend : Sub 0x2200 ps := sub_of hs rfl
  have k_modLog : Sub 0x200 ps := sub_of hs rfl
  unfold mountLogbook
  repeat'
    first
    | with_reducible refine keeps_foldl ?_ ?_ | with_reducible refine keeps_ite (fun _ => ?_) (fun _ => ?_)
    | extract_lets | with_reducible assumption | with_reducible refine logReadOnly_keeps ?_ k_logReadOnly
    | with_reducible refine logAppend_keeps ?_ k_logAppend _ _ _ | with_reducible refine modLog_keeps ?_ k_modLog _
    | intro _ | dsimp +zetaDelta only

theorem endWrite_keeps {ps : Nat} {z s : State} (hz : Keeps ps z s) (hs : Sub 0x840fa8000 ps) (d : Desc) (slot :
    Nat) (off : Nat) (bs : List Byte) (r : Result) : Keeps ps z (endWrite d slot off bs r s) := by
  have k_storeMem : Sub 0x840fa8000 ps := sub_of hs rfl
  have k_endDesc : Sub 0x8000 ps := sub_of hs rfl
  unfold endWrite
  repeat'
    first
    | with_reducible refine keeps_ite (fun _ => ?_) (fun _ => ?_) | extract_lets | with_reducible assumption
    | with_reducible refine storeMem_keeps ?_ k_storeMem _ _ _ _
    | with_reducible refine endDesc_keeps ?_ k_endDesc _ _ _ | intro _ | dsimp +zetaDelta only

theorem execLedgerRead_keeps {ps : Nat} {z s : State} (hz : Keeps ps z s) (hs : Sub 0x8000 ps) (qp : Nat) (sub :
    Nat) : ∀ z', execLedgerRead qp sub s = .next z' → Keeps ps z z' := by
  have k_guarded : Sub 0x8000 ps := sub_of hs rfl
  have k_onStarted : Sub 0x0 ps := sub_of hs rfl
  have k_endDesc : Sub 0x8000 ps := sub_of hs rfl
  intro z' e'
  unfold execLedgerRead at e'
  cases e'
  repeat'
    first
    | with_reducible refine keeps_ite (fun _ => ?_) (fun _ => ?_) | extract_lets | with_reducible assumption
    | with_reducible refine guarded_keeps ?_ k_guarded _ _ _ ?_
    | with_reducible refine onStarted_keeps ?_ k_onStarted _ _ _ _ ?_
    | with_reducible refine endDesc_keeps ?_ k_endDesc _ _ _ | intro _ | split | dsimp +zetaDelta only

theorem execLedgerExport_keeps {ps : Nat} {z s : State} (hz : Keeps ps z s) (hs : Sub 0x840fa8000 ps) (qp : Nat)
    (sub : Nat) : ∀ z', execLedgerExport qp sub s = .next z' → Keeps ps z z' := by
  have k_endWrite : Sub 0x840fa8000 ps := sub_of hs rfl
  have k_guarded : Sub 0x8000 ps := sub_of hs rfl
  have k_onStarted : Sub 0x0 ps := sub_of hs rfl
  intro z' e'
  unfold execLedgerExport at e'
  cases e'
  repeat'
    first
    | extract_lets | with_reducible assumption | with_reducible refine endWrite_keeps ?_ k_endWrite _ _ _ _ _
    | with_reducible refine guarded_keeps ?_ k_guarded _ _ _ ?_
    | with_reducible refine onStarted_keeps ?_ k_onStarted _ _ _ _ ?_ | intro _ | dsimp +zetaDelta only

theorem execLogbookRead_keeps {ps : Nat} {z s : State} (hz : Keeps ps z s) (hs : Sub 0x840fa8000 ps) (qp : Nat) (sub
    : Nat) : ∀ z', execLogbookRead qp sub s = .next z' → Keeps ps z z' := by
  have k_endWrite : Sub 0x840fa8000 ps := sub_of hs rfl
  have k_guarded : Sub 0x8000 ps := sub_of hs rfl
  have k_onStarted : Sub 0x0 ps := sub_of hs rfl
  intro z' e'
  unfold execLogbookRead at e'
  cases e'
  repeat'
    first
    | extract_lets | with_reducible assumption | with_reducible refine endWrite_keeps ?_ k_endWrite _ _ _ _ _
    | with_reducible refine guarded_keeps ?_ k_guarded _ _ _ ?_
    | with_reducible refine onStarted_keeps ?_ k_onStarted _ _ _ _ ?_ | intro _ | dsimp +zetaDelta only

end Sys2Proof.Laws
end

