-- ==== Sys2Proof/Laws/KeepsPower.lean ====
section
/-!
SUPPORT. Sys2Proof/Laws/KeepsPower.lean: the operations of Sys2Proof/Machine/Power.lean keep what Laws/Keeps.lean says.
-/
namespace Sys2Proof.Laws
open Sys2Proof.Machine

theorem modOtp_keeps {ps : Nat} {z s : State} (hz : Keeps ps z s) (hs : Sub 0x2000 ps) (f : OtpState → OtpState)
    (k : OneWay s.nv { s.nv with otp := f s.nv.otp }) : Keeps ps z (modOtp f s) :=
  modNv_keeps hz hs _ k

theorem carryAlarms_keeps {ps : Nat} {z s : State} (hz : Keeps ps z s) (hs : Sub 0x80002280 ps)  :
    Keeps ps z (carryAlarms s) := by
  have k_modOtp : Sub 0x2000 ps := sub_of hs rfl
  have k_fltRecord : Sub 0x2280 ps := sub_of hs rfl
  have k_logWrite : Sub 0x2200 ps := sub_of hs rfl
  have k_modSec : Sub 0x80000000 ps := sub_of hs rfl
  unfold carryAlarms
  repeat'
    first
    | with_reducible refine keeps_foldl ?_ ?_ | extract_lets | with_reducible assumption
    | with_reducible refine modOtp_keeps ?_ k_modOtp _ ?_
    | with_reducible refine fltRecord_keeps ?_ k_fltRecord _ _ _ _ _ _ _
    | with_reducible refine logWrite_keeps ?_ k_logWrite _ _ _ | with_reducible refine modSec_keeps ?_ k_modSec _
    | exact oneWay_same rfl rfl rfl rfl rfl rfl rfl rfl | intro _ | dsimp +zetaDelta only

theorem powerUp_keeps {ps : Nat} {z s : State} (hz : Keeps ps z s) (hs : Sub 0x800033a1 ps) (vbat : Nat) :
    Keeps ps z (powerUp vbat s) := by
  have k_carryAlarms : Sub 0x80002280 ps := sub_of hs rfl
  have k_logNotice : Sub 0x2200 ps := sub_of hs rfl
  have k_alertPost : Sub 0x101 ps := sub_of hs rfl
  have k_modLed : Sub 0x1000 ps := sub_of hs rfl
  have k_modMod : Sub 0x20 ps := sub_of hs rfl
  unfold powerUp
  repeat'
    first
    | with_reducible refine keeps_ite (fun _ => ?_) (fun _ => ?_) | extract_lets | with_reducible assumption
    | with_reducible refine carryAlarms_keeps ?_ k_carryAlarms
    | with_reducible refine logNotice_keeps ?_ k_logNotice _ _
    | with_reducible refine alertPost_keeps ?_ k_alertPost _ | with_reducible refine modLed_keeps ?_ k_modLed _
    | with_reducible refine modMod_keeps ?_ k_modMod _ | intro _ | dsimp +zetaDelta only

theorem powerLost_keeps {ps : Nat} {z s : State} (hz : Keeps ps z s) (hs : Sub 0xfffffffff ps) : Keeps ps z (powerLost s) :=
  keeps_trans hz ⟨fun _ => rfl, rfl, oneWay_refl _, only_all _ _ hs⟩

theorem execPowerUp_keeps {ps : Nat} {z s : State} (hz : Keeps ps z s) (hs : Sub 0x800033a1 ps) (vbat : Nat) :
    ∀ z', execPowerUp vbat s = .next z' → Keeps ps z z' := by
  have k_powerUp : Sub 0x800033a1 ps := sub_of hs rfl
  intro z' e'
  unfold execPowerUp at e'
  cases e'
  repeat'
    first
    | with_reducible assumption | with_reducible refine powerUp_keeps ?_ k_powerUp _

theorem execPowerReturnStable_keeps {ps : Nat} {z s : State} (hz : Keeps ps z s) (hs : Sub 0x800033a1 ps) (vbat :
    Nat) : ∀ z', execPowerReturnStable vbat s = .next z' → Keeps ps z z' := by
  have k_powerUp : Sub 0x800033a1 ps := sub_of hs rfl
  intro z' e'
  unfold execPowerReturnStable at e'
  cases e'
  repeat'
    first
    | with_reducible assumption | with_reducible refine powerUp_keeps ?_ k_powerUp _

theorem execBulkCharged_keeps {ps : Nat} {z s : State} (hz : Keeps ps z s) (hs : Sub 0x20 ps)  :
    ∀ z', execBulkCharged s = .next z' → Keeps ps z z' := by
  have k_modMod : Sub 0x20 ps := sub_of hs rfl
  intro z' e'
  unfold execBulkCharged at e'
  cases e'
  repeat'
    first
    | with_reducible refine keeps_ite (fun _ => ?_) (fun _ => ?_) | with_reducible assumption
    | with_reducible refine modMod_keeps ?_ k_modMod _ | intro _

theorem execStrapSample_keeps {ps : Nat} {z s : State} (hz : Keeps ps z s) (hs : Sub 0x2220 ps) (role : Nat) (slot :
    Nat) (board : Nat) : ∀ z', execStrapSample role slot board s = .next z' → Keeps ps z z' := by
  have k_logNotice : Sub 0x2200 ps := sub_of hs rfl
  have k_modMod : Sub 0x20 ps := sub_of hs rfl
  intro z' e'
  unfold execStrapSample at e'
  cases e'
  repeat'
    first
    | with_reducible refine keeps_ite (fun _ => ?_) (fun _ => ?_) | extract_lets | with_reducible assumption
    | with_reducible refine logNotice_keeps ?_ k_logNotice _ _ | with_reducible refine modMod_keeps ?_ k_modMod _
    | intro _ | dsimp +zetaDelta only

theorem execRailsInRegulation_keeps {ps : Nat} {z s : State} (hz : Keeps ps z s) (hs : Sub 0x20 ps)  :
    ∀ z', execRailsInRegulation s = .next z' → Keeps ps z z' := by
  have k_modMod : Sub 0x20 ps := sub_of hs rfl
  intro z' e'
  unfold execRailsInRegulation at e'
  cases e'
  repeat'
    first
    | with_reducible refine keeps_ite (fun _ => ?_) (fun _ => ?_) | with_reducible assumption
    | with_reducible refine modMod_keeps ?_ k_modMod _ | intro _

theorem execPowerFailConfirm_keeps {ps : Nat} {z s : State} (hz : Keeps ps z s) (hs : Sub 0xfffffffff ps)  :
    ∀ z', execPowerFailConfirm s = .next z' → Keeps ps z z' := by
  have k_powerLost : Sub 0xfffffffff ps := sub_of hs rfl
  have k_modMgt : Sub 0x100 ps := sub_of hs rfl
  have k_modMod : Sub 0x20 ps := sub_of hs rfl
  intro z' e'
  unfold execPowerFailConfirm at e'
  cases e'
  repeat'
    first
    | with_reducible assumption | with_reducible refine powerLost_keeps ?_ k_powerLost
    | with_reducible refine modMgt_keeps ?_ k_modMgt _ | with_reducible refine modMod_keeps ?_ k_modMod _ | intro _
    | split

theorem execPowerFailStop_keeps {ps : Nat} {z s : State} (hz : Keeps ps z s) (hs : Sub 0x200000020 ps)  :
    ∀ z', execPowerFailStop s = .next z' → Keeps ps z z' := by
  have k_holdEngines : Sub 0x200000000 ps := sub_of hs rfl
  have k_modMod : Sub 0x20 ps := sub_of hs rfl
  intro z' e'
  unfold execPowerFailStop at e'
  cases e'
  repeat'
    first
    | with_reducible refine keeps_ite (fun _ => ?_) (fun _ => ?_) | with_reducible assumption
    | with_reducible refine holdEngines_keeps ?_ k_holdEngines | with_reducible refine modMod_keeps ?_ k_modMod _
    | intro _

theorem execPowerFailCommit_keeps {ps : Nat} {z s : State} (hz : Keeps ps z s) (hs : Sub 0xb323 ps)  :
    ∀ z', execPowerFailCommit s = .next z' → Keeps ps z z' := by
  have k_commitPowerFail : Sub 0xb303 ps := sub_of hs rfl
  have k_modMod : Sub 0x20 ps := sub_of hs rfl
  intro z' e'
  unfold execPowerFailCommit at e'
  cases e'
  repeat'
    first
    | with_reducible refine keeps_ite (fun _ => ?_) (fun _ => ?_) | extract_lets | with_reducible assumption
    | with_reducible refine commitPowerFail_keeps ?_ k_commitPowerFail
    | with_reducible refine modMod_keeps ?_ k_modMod _ | intro _ | dsimp +zetaDelta only

theorem execRailsFall_keeps {ps : Nat} {z s : State} (hz : Keeps ps z s) (hs : Sub 0xfffffffff ps)  :
    ∀ z', execRailsFall s = .next z' → Keeps ps z z' := by
  have k_powerLost : Sub 0xfffffffff ps := sub_of hs rfl
  intro z' e'
  unfold execRailsFall at e'
  cases e'
  repeat'
    first
    | with_reducible refine keeps_ite (fun _ => ?_) (fun _ => ?_) | with_reducible assumption
    | with_reducible refine powerLost_keeps ?_ k_powerLost | intro _

theorem execPerstNAssert_keeps {ps : Nat} {z s : State} (hz : Keeps ps z s) (hs : Sub 0xfffffffff ps) (ns : Nat) :
    ∀ z', execPerstNAssert ns s = .next z' → Keeps ps z z' := by
  have k_chipReset : Sub 0xfffffffff ps := sub_of hs rfl
  have k_modMod : Sub 0x20 ps := sub_of hs rfl
  intro z' e'
  unfold execPerstNAssert at e'
  cases e'
  repeat'
    first
    | with_reducible refine keeps_ite (fun _ => ?_) (fun _ => ?_) | extract_lets | with_reducible assumption
    | with_reducible refine chipReset_keeps ?_ k_chipReset _ _ _ _ _ _
    | with_reducible refine modMod_keeps ?_ k_modMod _ | intro _ | dsimp +zetaDelta only

theorem execPerstNRelease_keeps {ps : Nat} {z s : State} (hz : Keeps ps z s) (hs : Sub 0x20 ps)  :
    ∀ z', execPerstNRelease s = .next z' → Keeps ps z z' := by
  have k_modMod : Sub 0x20 ps := sub_of hs rfl
  intro z' e'
  unfold execPerstNRelease at e'
  cases e'
  repeat'
    first
    | with_reducible refine keeps_ite (fun _ => ?_) (fun _ => ?_) | with_reducible assumption
    | with_reducible refine modMod_keeps ?_ k_modMod _ | intro _

theorem execModResetNAssert_keeps {ps : Nat} {z s : State} (hz : Keeps ps z s) (hs : Sub 0xfffffffff ps) (ns : Nat)
    : ∀ z', execModResetNAssert ns s = .next z' → Keeps ps z z' := by
  have k_chipReset : Sub 0xfffffffff ps := sub_of hs rfl
  have k_modClk : Sub 0x40 ps := sub_of hs rfl
  have k_modMod : Sub 0x20 ps := sub_of hs rfl
  have k_mgt : Sub 0x100 ps := sub_of hs rfl
  intro z' e'
  unfold execModResetNAssert at e'
  cases e'
  repeat'
    first
    | with_reducible refine keeps_ite (fun _ => ?_) (fun _ => ?_) | extract_lets | with_reducible assumption
    | with_reducible refine chipReset_keeps ?_ k_chipReset _ _ _ _ _ _
    | with_reducible refine modClk_keeps ?_ k_modClk _ | with_reducible refine modMod_keeps ?_ k_modMod _
    | fail_if_no_progress with_reducible refine keeps_set_mgt ?_ k_mgt _ | intro _ | dsimp +zetaDelta only

theorem execModResetNRelease_keeps {ps : Nat} {z s : State} (hz : Keeps ps z s) (hs : Sub 0x121 ps)  :
    ∀ z', execModResetNRelease s = .next z' → Keeps ps z z' := by
  have k_alertConds : Sub 0x101 ps := sub_of hs rfl
  have k_modMod : Sub 0x20 ps := sub_of hs rfl
  intro z' e'
  unfold execModResetNRelease at e'
  cases e'
  repeat'
    first
    | with_reducible refine keeps_ite (fun _ => ?_) (fun _ => ?_) | with_reducible assumption
    | with_reducible refine alertConds_keeps ?_ k_alertConds | with_reducible refine modMod_keeps ?_ k_modMod _
    | intro _

theorem tamperAlarm_keeps {ps : Nat} {z s : State} (hz : Keeps ps z s) (hs : Sub 0x80002000 ps) (code : Nat) :
    Keeps ps z (tamperAlarm code s) := by
  have k_modOtp : Sub 0x2000 ps := sub_of hs rfl
  have k_modSec : Sub 0x80000000 ps := sub_of hs rfl
  unfold tamperAlarm
  repeat'
    first
    | with_reducible refine keeps_ite (fun _ => ?_) (fun _ => ?_) | extract_lets | with_reducible assumption
    | with_reducible refine modOtp_keeps ?_ k_modOtp _ ?_ | with_reducible refine modSec_keeps ?_ k_modSec _
    | exact oneWay_same rfl rfl rfl rfl rfl rfl rfl rfl | intro _ | dsimp +zetaDelta only

theorem execTamperLoopCheck_keeps {ps : Nat} {z s : State} (hz : Keeps ps z s) (hs : Sub 0x80002022 ps) (okA : Bool)
    (okB : Bool) : ∀ z', execTamperLoopCheck okA okB s = .next z' → Keeps ps z z' := by
  have k_tamperAlarm : Sub 0x80002000 ps := sub_of hs rfl
  have k_tookFree : Sub 0x2 ps := sub_of hs rfl
  have k_modMod : Sub 0x20 ps := sub_of hs rfl
  intro z' e'
  unfold execTamperLoopCheck at e'
  cases e'
  repeat'
    first
    | with_reducible refine keeps_ite (fun _ => ?_) (fun _ => ?_) | extract_lets | with_reducible assumption
    | with_reducible refine tamperAlarm_keeps ?_ k_tamperAlarm _
    | with_reducible refine tookFree_keeps ?_ k_tookFree | with_reducible refine modMod_keeps ?_ k_modMod _
    | intro _ | dsimp +zetaDelta only

theorem execMeshCheck_keeps {ps : Nat} {z s : State} (hz : Keeps ps z s) (hs : Sub 0x80002020 ps) (ok : Bool) :
    ∀ z', execMeshCheck ok s = .next z' → Keeps ps z z' := by
  have k_tamperAlarm : Sub 0x80002000 ps := sub_of hs rfl
  have k_modMod : Sub 0x20 ps := sub_of hs rfl
  intro z' e'
  unfold execMeshCheck at e'
  cases e'
  repeat'
    first
    | with_reducible refine keeps_ite (fun _ => ?_) (fun _ => ?_) | extract_lets | with_reducible assumption
    | with_reducible refine tamperAlarm_keeps ?_ k_tamperAlarm _ | with_reducible refine modMod_keeps ?_ k_modMod _
    | intro _ | dsimp +zetaDelta only

theorem execVbatLoss_keeps {ps : Nat} {z s : State} (hz : Keeps ps z s) (hs : Sub 0x80002020 ps) (mv : Nat) :
    ∀ z', execVbatLoss mv s = .next z' → Keeps ps z z' := by
  have k_tamperAlarm : Sub 0x80002000 ps := sub_of hs rfl
  have k_modMod : Sub 0x20 ps := sub_of hs rfl
  intro z' e'
  unfold execVbatLoss at e'
  cases e'
  repeat'
    first
    | with_reducible refine keeps_ite (fun _ => ?_) (fun _ => ?_) | extract_lets | with_reducible assumption
    | with_reducible refine tamperAlarm_keeps ?_ k_tamperAlarm _ | with_reducible refine modMod_keeps ?_ k_modMod _
    | intro _ | dsimp +zetaDelta only

theorem execVoltageAlarm_keeps {ps : Nat} {z s : State} (hz : Keeps ps z s) (hs : Sub 0x80002000 ps) (rail : Nat) :
    ∀ z', execVoltageAlarm rail s = .next z' → Keeps ps z z' := by
  have k_tamperAlarm : Sub 0x80002000 ps := sub_of hs rfl
  intro z' e'
  unfold execVoltageAlarm at e'
  cases e'
  repeat'
    first
    | with_reducible refine keeps_ite (fun _ => ?_) (fun _ => ?_) | with_reducible assumption
    | with_reducible refine tamperAlarm_keeps ?_ k_tamperAlarm _ | intro _

theorem execClockAlarm_keeps {ps : Nat} {z s : State} (hz : Keeps ps z s) (hs : Sub 0x80002000 ps) (_clock : Nat) :
    ∀ z', execClockAlarm _clock s = .next z' → Keeps ps z z' := by
  have k_tamperAlarm : Sub 0x80002000 ps := sub_of hs rfl
  intro z' e'
  unfold execClockAlarm at e'
  cases e'
  repeat'
    first
    | with_reducible assumption | with_reducible refine tamperAlarm_keeps ?_ k_tamperAlarm _

theorem execTemperatureAlarm_keeps {ps : Nat} {z s : State} (hz : Keeps ps z s) (hs : Sub 0x80002000 ps) (_sensor :
    Nat) : ∀ z', execTemperatureAlarm _sensor s = .next z' → Keeps ps z z' := by
  have k_tamperAlarm : Sub 0x80002000 ps := sub_of hs rfl
  intro z' e'
  unfold execTemperatureAlarm at e'
  cases e'
  repeat'
    first
    | with_reducible assumption | with_reducible refine tamperAlarm_keeps ?_ k_tamperAlarm _

theorem eraseKeys_keeps {ps : Nat} {z s : State} (hz : Keeps ps z s) (hs : Sub 0x81804000 ps)  :
    Keeps ps z (eraseKeys s) := by
  have k_endSession : Sub 0x81800000 ps := sub_of hs rfl
  have k_modSec : Sub 0x80000000 ps := sub_of hs rfl
  have k_modHif : Sub 0x4000 ps := sub_of hs rfl
  unfold eraseKeys
  repeat'
    first
    | extract_lets | with_reducible assumption | with_reducible refine endSession_keeps ?_ k_endSession
    | with_reducible refine modSec_keeps ?_ k_modSec _ | with_reducible refine modHif_keeps ?_ k_modHif _ | intro _
    | dsimp +zetaDelta only

theorem execTamperAlarmArrival_keeps {ps : Nat} {z s : State} (hz : Keeps ps z s) (hs : Sub 0xfffffffff ps)  :
    ∀ z', execTamperAlarmArrival s = .next z' → Keeps ps z z' := by
  have k_eraseKeys : Sub 0x81804000 ps := sub_of hs rfl
  have k_chipResetNow : Sub 0xfffffffff ps := sub_of hs rfl
  have k_fltRecord : Sub 0x2280 ps := sub_of hs rfl
  have k_logWrite : Sub 0x2200 ps := sub_of hs rfl
  have k_alertPost : Sub 0x101 ps := sub_of hs rfl
  have k_modSec : Sub 0x80000000 ps := sub_of hs rfl
  have k_modLcs : Sub 0x100000000 ps := sub_of hs rfl
  intro z' e'
  unfold execTamperAlarmArrival at e'
  cases e'
  repeat'
    first
    | extract_lets | with_reducible assumption | with_reducible refine eraseKeys_keeps ?_ k_eraseKeys
    | with_reducible refine chipResetNow_keeps ?_ k_chipResetNow _ _ _
    | with_reducible refine fltRecord_keeps ?_ k_fltRecord _ _ _ _ _ _ _
    | with_reducible refine logWrite_keeps ?_ k_logWrite _ _ _
    | with_reducible refine alertPost_keeps ?_ k_alertPost _ | with_reducible refine modSec_keeps ?_ k_modSec _
    | with_reducible refine modLcs_keeps ?_ k_modLcs _ | intro _ | split | dsimp +zetaDelta only

theorem execInletOverTemperature_keeps {ps : Nat} {z s : State} (hz : Keeps ps z s) (hs : Sub 0x2321 ps) (temp :
    Nat) : ∀ z', execInletOverTemperature temp s = .next z' → Keeps ps z z' := by
  have k_logNotice : Sub 0x2200 ps := sub_of hs rfl
  have k_alertConds : Sub 0x101 ps := sub_of hs rfl
  have k_modMod : Sub 0x20 ps := sub_of hs rfl
  intro z' e'
  unfold execInletOverTemperature at e'
  cases e'
  repeat'
    first
    | with_reducible refine keeps_ite (fun _ => ?_) (fun _ => ?_) | extract_lets | with_reducible assumption
    | with_reducible refine logNotice_keeps ?_ k_logNotice _ _
    | with_reducible refine alertConds_keeps ?_ k_alertConds | with_reducible refine modMod_keeps ?_ k_modMod _
    | intro _ | dsimp +zetaDelta only

theorem execCoolantInletNormal_keeps {ps : Nat} {z s : State} (hz : Keeps ps z s) (hs : Sub 0x121 ps) (temp : Nat) :
    ∀ z', execCoolantInletNormal temp s = .next z' → Keeps ps z z' := by
  have k_alertConds : Sub 0x101 ps := sub_of hs rfl
  have k_modMod : Sub 0x20 ps := sub_of hs rfl
  intro z' e'
  unfold execCoolantInletNormal at e'
  cases e'
  repeat'
    first
    | with_reducible refine keeps_ite (fun _ => ?_) (fun _ => ?_) | extract_lets | with_reducible assumption
    | with_reducible refine alertConds_keeps ?_ k_alertConds | with_reducible refine modMod_keeps ?_ k_modMod _
    | intro _ | dsimp +zetaDelta only

theorem thermalTrip_keeps {ps : Nat} {z s : State} (hz : Keeps ps z s) (hs : Sub 0xfffffffff ps)  :
    Keeps ps z (thermalTrip s) := by
  have k_chipReset : Sub 0xfffffffff ps := sub_of hs rfl
  have k_alertPost : Sub 0x101 ps := sub_of hs rfl
  have k_modMod : Sub 0x20 ps := sub_of hs rfl
  unfold thermalTrip
  repeat'
    first
    | with_reducible refine keeps_ite (fun _ => ?_) (fun _ => ?_) | extract_lets | with_reducible assumption
    | with_reducible refine chipReset_keeps ?_ k_chipReset _ _ _ _ _ _
    | with_reducible refine alertPost_keeps ?_ k_alertPost _ | with_reducible refine modMod_keeps ?_ k_modMod _
    | intro _ | dsimp +zetaDelta only

theorem execThermalLoop_keeps {ps : Nat} {z s : State} (hz : Keeps ps z s) (hs : Sub 0xfffffffff ps) (hottest : Nat)
    : ∀ z', execThermalLoop hottest s = .next z' → Keeps ps z z' := by
  have k_thermalTrip : Sub 0xfffffffff ps := sub_of hs rfl
  have k_holdEngines : Sub 0x200000000 ps := sub_of hs rfl
  have k_modClk : Sub 0x40 ps := sub_of hs rfl
  have k_modMod : Sub 0x20 ps := sub_of hs rfl
  intro z' e'
  unfold execThermalLoop at e'
  cases e'
  repeat'
    first
    | with_reducible refine keeps_ite (fun _ => ?_) (fun _ => ?_) | extract_lets | with_reducible assumption
    | with_reducible refine thermalTrip_keeps ?_ k_thermalTrip
    | with_reducible refine holdEngines_keeps ?_ k_holdEngines | with_reducible refine modClk_keeps ?_ k_modClk _
    | with_reducible refine modMod_keeps ?_ k_modMod _ | intro _ | dsimp +zetaDelta only

theorem execThermalStageRelease_keeps {ps : Nat} {z s : State} (hz : Keeps ps z s) (hs : Sub 0x200000060 ps)
    (hottest : Nat) : ∀ z', execThermalStageRelease hottest s = .next z' → Keeps ps z z' := by
  have k_releaseEngines : Sub 0x200000000 ps := sub_of hs rfl
  have k_modClk : Sub 0x40 ps := sub_of hs rfl
  have k_modMod : Sub 0x20 ps := sub_of hs rfl
  intro z' e'
  unfold execThermalStageRelease at e'
  cases e'
  repeat'
    first
    | with_reducible refine keeps_ite (fun _ => ?_) (fun _ => ?_) | extract_lets | with_reducible assumption
    | with_reducible refine releaseEngines_keeps ?_ k_releaseEngines
    | with_reducible refine modClk_keeps ?_ k_modClk _ | with_reducible refine modMod_keeps ?_ k_modMod _ | intro _
    | dsimp +zetaDelta only

theorem execThermalTripRecovery_keeps {ps : Nat} {z s : State} (hz : Keeps ps z s) (hs : Sub 0x20 ps)  :
    ∀ z', execThermalTripRecovery s = .next z' → Keeps ps z z' := by
  have k_modMod : Sub 0x20 ps := sub_of hs rfl
  intro z' e'
  unfold execThermalTripRecovery at e'
  cases e'
  repeat'
    first
    | with_reducible refine keeps_ite (fun _ => ?_) (fun _ => ?_) | with_reducible assumption
    | with_reducible refine modMod_keeps ?_ k_modMod _ | intro _

end Sys2Proof.Laws
end

