-- ==== Sys2Proof/Laws/KeepsStartup.lean ====
section
/-!
SUPPORT. Sys2Proof/Laws/KeepsStartup.lean: the operations of Sys2Proof/Machine/Startup.lean keep what Laws/Keeps.lean says.
-/
namespace Sys2Proof.Laws
open Sys2Proof.Machine

theorem msFault_keeps {ps : Nat} {z s : State} (hz : Keeps ps z s) (hs : Sub 0x22c0 ps) (cause : Nat) :
    Keeps ps z (msFault cause s) := by
  have k_fltRecord : Sub 0x2280 ps := sub_of hs rfl
  have k_modClk : Sub 0x40 ps := sub_of hs rfl
  unfold msFault
  repeat'
    first
    | extract_lets | with_reducible assumption | with_reducible refine fltRecord_keeps ?_ k_fltRecord _ _ _ _ _ _ _
    | with_reducible refine modClk_keeps ?_ k_modClk _ | intro _ | dsimp +zetaDelta only

theorem holdDomains_keeps {ps : Nat} {z s : State} (hz : Keeps ps z s) (hs : Sub 0xfffffffff ps) (ph : BootPhase)
    (link : Bool) : Keeps ps z (holdDomains ph link s) := by
  have k_resetState : Sub 0xfffffffff ps := sub_of hs rfl
  have k_modClk : Sub 0x40 ps := sub_of hs rfl
  unfold holdDomains
  repeat'
    first
    | with_reducible refine keeps_ite (fun _ => ?_) (fun _ => ?_) | extract_lets | with_reducible assumption
    | with_reducible refine resetState_keeps ?_ k_resetState _ _ _
    | with_reducible refine modClk_keeps ?_ k_modClk _ | intro _ | dsimp +zetaDelta only

theorem bootHold_keeps {ps : Nat} {z s : State} (hz : Keeps ps z s) (hs : Sub 0xfffffffff ps)  :
    Keeps ps z (bootHold s) := by
  have k_holdDomains : Sub 0xfffffffff ps := sub_of hs rfl
  have k_alertConds : Sub 0x101 ps := sub_of hs rfl
  unfold bootHold
  repeat'
    first
    | with_reducible assumption | with_reducible refine holdDomains_keeps ?_ k_holdDomains _ _
    | with_reducible refine alertConds_keeps ?_ k_alertConds

theorem directHold_keeps {ps : Nat} {z s : State} (hz : Keeps ps z s) (hs : Sub 0xfffffffff ps) (cause : Nat) :
    Keeps ps z (directHold cause s) := by
  have k_bootHold : Sub 0xfffffffff ps := sub_of hs rfl
  have k_msFault : Sub 0x22c0 ps := sub_of hs rfl
  unfold directHold
  repeat'
    first
    | with_reducible assumption | with_reducible refine bootHold_keeps ?_ k_bootHold
    | with_reducible refine msFault_keeps ?_ k_msFault _

theorem faultPath_keeps {ps : Nat} {z s : State} (hz : Keeps ps z s) (hs : Sub 0xfffffffff ps) (cause : Nat) :
    Keeps ps z (faultPath cause s) := by
  have k_bootHold : Sub 0xfffffffff ps := sub_of hs rfl
  have k_holdDomains : Sub 0xfffffffff ps := sub_of hs rfl
  have k_msFault : Sub 0x22c0 ps := sub_of hs rfl
  unfold faultPath
  repeat'
    first
    | with_reducible refine keeps_ite (fun _ => ?_) (fun _ => ?_) | extract_lets | with_reducible assumption
    | with_reducible refine bootHold_keeps ?_ k_bootHold
    | with_reducible refine holdDomains_keeps ?_ k_holdDomains _ _
    | with_reducible refine msFault_keeps ?_ k_msFault _ | intro _ | dsimp +zetaDelta only

theorem reach_keeps {ps : Nat} {z s : State} (hz : Keeps ps z s) (hs : Sub 0x40 ps) (n : Nat) :
    Keeps ps z (reach n s) := by
  have k_modClk : Sub 0x40 ps := sub_of hs rfl
  unfold reach
  repeat'
    first
    | with_reducible assumption | with_reducible refine modClk_keeps ?_ k_modClk _ | intro _

theorem startSequence_keeps {ps : Nat} {z s : State} (hz : Keeps ps z s) (hs : Sub 0x40 ps)  :
    Keeps ps z (startSequence s) := by
  have k_modClk : Sub 0x40 ps := sub_of hs rfl
  unfold startSequence
  repeat'
    first
    | with_reducible assumption | with_reducible refine modClk_keeps ?_ k_modClk _ | intro _

theorem startOffline_keeps {ps : Nat} {z s : State} (hz : Keeps ps z s) (hs : Sub 0x400040 ps) (p : Nat) :
    Keeps ps z (startOffline p s) := by
  have k_partStacks : Sub 0x400000 ps := sub_of hs rfl
  have k_modClk : Sub 0x40 ps := sub_of hs rfl
  unfold startOffline
  repeat'
    first
    | with_reducible refine keeps_ite (fun _ => ?_) (fun _ => ?_) | with_reducible assumption
    | with_reducible refine partStacks_keeps ?_ k_partStacks _ _ | with_reducible refine modClk_keeps ?_ k_modClk _
    | intro _

theorem startRetire_keeps {ps : Nat} {z s : State} (hz : Keeps ps z s) (hs : Sub 0x2240 ps) (c : Nat) (cause : Nat)
    : Keeps ps z (startRetire c cause s) := by
  have k_logWrite : Sub 0x2200 ps := sub_of hs rfl
  have k_modNv : Sub 0x2000 ps := sub_of hs rfl
  have k_modClk : Sub 0x40 ps := sub_of hs rfl
  unfold startRetire
  repeat'
    first
    | with_reducible refine keeps_ite (fun _ => ?_) (fun _ => ?_) | extract_lets | with_reducible assumption
    | with_reducible refine logWrite_keeps ?_ k_logWrite _ _ _ | with_reducible refine modNv_keeps ?_ k_modNv _ ?_
    | with_reducible refine modClk_keeps ?_ k_modClk _ | exact oneWay_retire _ _
    | exact oneWay_same rfl rfl rfl rfl rfl rfl rfl rfl | intro _ | dsimp +zetaDelta only

theorem scrapErase_keeps {ps : Nat} {z s : State} (hz : Keeps ps z s) (hs : Sub 0x2000 ps)  :
    Keeps ps z (scrapErase s) := by
  have k_modOtp : Sub 0x2000 ps := sub_of hs rfl
  unfold scrapErase
  repeat'
    first
   
    | exact ⟨fun _ h => h, bitsIn_refl _, bitsIn_refl _, bitsIn_refl _, fun _ => rfl, Nat.le_refl _, bitsIn_refl _, Nat.le_refl _⟩
    | with_reducible assumption | with_reducible refine modOtp_keeps ?_ k_modOtp _ ?_
    | exact oneWay_same rfl rfl rfl rfl rfl rfl rfl rfl | intro _

theorem doM1_keeps {ps : Nat} {z s : State} (hz : Keeps ps z s) (hs : Sub 0xfffffffff ps) (ok : Bool) :
    Keeps ps z (doM1 ok s) := by
  have k_scrapErase : Sub 0x2000 ps := sub_of hs rfl
  have k_reach : Sub 0x40 ps := sub_of hs rfl
  have k_directHold : Sub 0xfffffffff ps := sub_of hs rfl
  have k_bootHold : Sub 0xfffffffff ps := sub_of hs rfl
  have k_modOtp : Sub 0x2000 ps := sub_of hs rfl
  have k_modLcs : Sub 0x100000000 ps := sub_of hs rfl
  unfold doM1
  repeat'
    first
   
    | exact ⟨fun _ h => h, bitsIn_lor _ _, bitsIn_lor _ _, bitsIn_lor _ _, id, Nat.le_refl _, bitsIn_refl _, Nat.le_refl _⟩
    | with_reducible refine keeps_ite (fun _ => ?_) (fun _ => ?_) | extract_lets | with_reducible assumption
    | with_reducible refine scrapErase_keeps ?_ k_scrapErase | with_reducible refine reach_keeps ?_ k_reach _
    | with_reducible refine directHold_keeps ?_ k_directHold _ | with_reducible refine bootHold_keeps ?_ k_bootHold
    | with_reducible refine modOtp_keeps ?_ k_modOtp _ ?_ | with_reducible refine modLcs_keeps ?_ k_modLcs _
    | exact oneWay_same rfl rfl rfl rfl rfl rfl rfl rfl | intro _ | dsimp +zetaDelta only

theorem doM2_keeps {ps : Nat} {z s : State} (hz : Keeps ps z s) (hs : Sub 0xfffffffff ps) (ok : Bool) :
    Keeps ps z (doM2 ok s) := by
  have k_reach : Sub 0x40 ps := sub_of hs rfl
  have k_faultPath : Sub 0xfffffffff ps := sub_of hs rfl
  have k_modWmk : Sub 0x2000000 ps := sub_of hs rfl
  unfold doM2
  repeat'
    first
    | with_reducible refine keeps_ite (fun _ => ?_) (fun _ => ?_) | with_reducible assumption
    | with_reducible refine reach_keeps ?_ k_reach _ | with_reducible refine faultPath_keeps ?_ k_faultPath _
    | with_reducible refine modWmk_keeps ?_ k_modWmk _ | intro _

theorem doM3_keeps {ps : Nat} {z s : State} (hz : Keeps ps z s) (hs : Sub 0x40 ps) (l0 : Bool) :
    Keeps ps z (doM3 l0 s) := by
  have k_reach : Sub 0x40 ps := sub_of hs rfl
  have k_modClk : Sub 0x40 ps := sub_of hs rfl
  unfold doM3
  repeat'
    first
    | extract_lets | with_reducible assumption | with_reducible refine reach_keeps ?_ k_reach _
    | with_reducible refine modClk_keeps ?_ k_modClk _ | intro _ | dsimp +zetaDelta only

theorem doM4_keeps {ps : Nat} {z s : State} (hz : Keeps ps z s) (hs : Sub 0xfffffffff ps) (a : FwVerdict) (b :
    FwVerdict) : Keeps ps z (doM4 a b s) := by
  have k_reach : Sub 0x40 ps := sub_of hs rfl
  have k_directHold : Sub 0xfffffffff ps := sub_of hs rfl
  have k_modSvc : Sub 0x800000000 ps := sub_of hs rfl
  have k_modNv : Sub 0x2000 ps := sub_of hs rfl
  unfold doM4
  repeat'
    first
    | with_reducible refine keeps_ite (fun _ => ?_) (fun _ => ?_) | extract_lets | with_reducible assumption
    | with_reducible refine reach_keeps ?_ k_reach _ | with_reducible refine directHold_keeps ?_ k_directHold _
    | with_reducible refine modSvc_keeps ?_ k_modSvc _ | with_reducible refine modNv_keeps ?_ k_modNv _ ?_
    | exact oneWay_same rfl rfl rfl rfl rfl rfl rfl rfl | intro _ | dsimp +zetaDelta only

theorem doM5_keeps {ps : Nat} {z s : State} (hz : Keeps ps z s) (hs : Sub 0x80002042 ps)  :
    Keeps ps z (doM5 s) := by
  have k_reach : Sub 0x40 ps := sub_of hs rfl
  have k_modOtp : Sub 0x2000 ps := sub_of hs rfl
  have k_tookFree : Sub 0x2 ps := sub_of hs rfl
  have k_modSec : Sub 0x80000000 ps := sub_of hs rfl
  unfold doM5
  repeat'
    first
    | with_reducible refine keeps_ite (fun _ => ?_) (fun _ => ?_) | extract_lets | with_reducible assumption
    | with_reducible refine reach_keeps ?_ k_reach _ | with_reducible refine modOtp_keeps ?_ k_modOtp _ ?_
    | with_reducible refine tookFree_keeps ?_ k_tookFree | with_reducible refine modSec_keeps ?_ k_modSec _
    | exact oneWay_same rfl rfl rfl rfl rfl rfl rfl rfl | intro _ | dsimp +zetaDelta only

theorem doM7_keeps {ps : Nat} {z s : State} (hz : Keeps ps z s) (hs : Sub 0xfffffffff ps) (lost : List Nat) :
    Keeps ps z (doM7 lost s) := by
  have k_startOffline : Sub 0x400040 ps := sub_of hs rfl
  have k_reach : Sub 0x40 ps := sub_of hs rfl
  have k_faultPath : Sub 0xfffffffff ps := sub_of hs rfl
  unfold doM7
  repeat'
    first
    | with_reducible refine keeps_foldl ?_ ?_ | with_reducible refine keeps_ite (fun _ => ?_) (fun _ => ?_)
    | with_reducible assumption | with_reducible refine startOffline_keeps ?_ k_startOffline _
    | with_reducible refine reach_keeps ?_ k_reach _ | with_reducible refine faultPath_keeps ?_ k_faultPath _
    | intro _

theorem doM8_keeps {ps : Nat} {z s : State} (hz : Keeps ps z s) (hs : Sub 0x2240 ps) (bad : List Nat) :
    Keeps ps z (doM8 bad s) := by
  have k_startRetire : Sub 0x2240 ps := sub_of hs rfl
  have k_reach : Sub 0x40 ps := sub_of hs rfl
  unfold doM8
  repeat'
    first
    | with_reducible refine keeps_foldl ?_ ?_ | with_reducible assumption
    | with_reducible refine startRetire_keeps ?_ k_startRetire _ _ | with_reducible refine reach_keeps ?_ k_reach _
    | intro _

theorem doM9_keeps {ps : Nat} {z s : State} (hz : Keeps ps z s) (hs : Sub 0x600002240 ps) (tiles : List (Nat × Nat))
    (cores : List (Nat × Nat)) : Keeps ps z (doM9 tiles cores s) := by
  have k_startRetire : Sub 0x2240 ps := sub_of hs rfl
  have k_reach : Sub 0x40 ps := sub_of hs rfl
  have k_modVclu : Sub 0x400000000 ps := sub_of hs rfl
  have k_modEng : Sub 0x200000000 ps := sub_of hs rfl
  unfold doM9
  repeat'
    first
    | with_reducible refine keeps_foldl ?_ ?_ | with_reducible refine keeps_ite (fun _ => ?_) (fun _ => ?_)
    | extract_lets | with_reducible assumption | with_reducible refine startRetire_keeps ?_ k_startRetire _ _
    | with_reducible refine reach_keeps ?_ k_reach _ | with_reducible refine modVclu_keeps ?_ k_modVclu _ _
    | with_reducible refine modEng_keeps ?_ k_modEng _ _ | intro _ | dsimp +zetaDelta only

theorem applyRow_keeps {ps : Nat} {z s : State} (hz : Keeps ps z s) (hs : Sub 0x2000 ps) (k : Nat) (fails : List
    (Nat × Nat)) (row : Nat) : Keeps ps z (applyRow k fails s row) := by
  have k_modRepair : Sub 0x2000 ps := sub_of hs rfl
  unfold applyRow
  repeat'
    first
    | with_reducible refine keeps_ite (fun _ => ?_) (fun _ => ?_) | extract_lets | with_reducible assumption
    | with_reducible refine modRepair_keeps ?_ k_modRepair _ _ | intro _ | dsimp +zetaDelta only

theorem applyRepairs_keeps {ps : Nat} {z s : State} (hz : Keeps ps z s) (hs : Sub 0x402000 ps) (fails : List (Nat ×
    Nat)) (k : Nat) : Keeps ps z (applyRepairs fails s k) := by
  have k_applyRow : Sub 0x2000 ps := sub_of hs rfl
  have k_modRepair : Sub 0x2000 ps := sub_of hs rfl
  have k_modStack : Sub 0x400000 ps := sub_of hs rfl
  unfold applyRepairs
  repeat'
    first
    | with_reducible refine keeps_foldl ?_ ?_ | extract_lets | with_reducible assumption
    | with_reducible refine applyRow_keeps ?_ k_applyRow _ _ _
    | with_reducible refine modRepair_keeps ?_ k_modRepair _ _
    | with_reducible refine modStack_keeps ?_ k_modStack _ _ | intro _ | dsimp +zetaDelta only

theorem doM10_keeps {ps : Nat} {z s : State} (hz : Keeps ps z s) (hs : Sub 0xfffffffff ps) (failed : List Nat)
    (fails : List (Nat × Nat)) : Keeps ps z (doM10 failed fails s) := by
  have k_applyRepairs : Sub 0x402000 ps := sub_of hs rfl
  have k_startOffline : Sub 0x400040 ps := sub_of hs rfl
  have k_reach : Sub 0x40 ps := sub_of hs rfl
  have k_faultPath : Sub 0xfffffffff ps := sub_of hs rfl
  unfold doM10
  repeat'
    first
    | with_reducible refine keeps_foldl ?_ ?_ | with_reducible refine keeps_ite (fun _ => ?_) (fun _ => ?_)
    | extract_lets | with_reducible assumption | with_reducible refine applyRepairs_keeps ?_ k_applyRepairs _ _
    | with_reducible refine startOffline_keeps ?_ k_startOffline _ | with_reducible refine reach_keeps ?_ k_reach _
    | with_reducible refine faultPath_keeps ?_ k_faultPath _ | intro _ | dsimp +zetaDelta only

theorem queueRow_keeps {ps : Nat} {z s : State} (hz : Keeps ps z s) (hs : Sub 0x2200 ps) (k : Nat) (row : Nat) :
    Keeps ps z (queueRow k row s) := by
  have k_modRepair : Sub 0x2000 ps := sub_of hs rfl
  have k_logNotice : Sub 0x2200 ps := sub_of hs rfl
  unfold queueRow
  repeat'
    first
    | with_reducible refine keeps_ite (fun _ => ?_) (fun _ => ?_) | extract_lets | with_reducible assumption
    | with_reducible refine modRepair_keeps ?_ k_modRepair _ _
    | with_reducible refine logNotice_keeps ?_ k_logNotice _ _ | intro _ | dsimp +zetaDelta only

theorem doM11_keeps {ps : Nat} {z s : State} (hz : Keeps ps z s) (hs : Sub 0x100582240 ps) (lines : List (Nat ×
    Nat)) : Keeps ps z (doM11 lines s) := by
  have k_queueRow : Sub 0x2200 ps := sub_of hs rfl
  have k_reach : Sub 0x40 ps := sub_of hs rfl
  have k_modStack : Sub 0x400000 ps := sub_of hs rfl
  have k_modLcs : Sub 0x100000000 ps := sub_of hs rfl
  have k_mem_poison : Sub 0x180000 ps := sub_of hs rfl
  unfold doM11
  repeat'
    first
    | with_reducible refine keeps_foldl ?_ ?_ | extract_lets | with_reducible assumption
    | with_reducible refine queueRow_keeps ?_ k_queueRow _ _ | with_reducible refine reach_keeps ?_ k_reach _
    | with_reducible refine modStack_keeps ?_ k_modStack _ _ | with_reducible refine modLcs_keeps ?_ k_modLcs _
    | with_reducible exact cellsDrop_wf _ _ _ | with_reducible exact nil_wf _
    | with_reducible exact fold_cellPut_wf _ _ | intro _
    | with_reducible refine keeps_set_mem_poison ?_ k_mem_poison _ ?_ | dsimp +zetaDelta only

theorem doM12_keeps {ps : Nat} {z s : State} (hz : Keeps ps z s) (hs : Sub 0xfffffffff ps)  :
    Keeps ps z (doM12 s) := by
  have k_startOffline : Sub 0x400040 ps := sub_of hs rfl
  have k_reach : Sub 0x40 ps := sub_of hs rfl
  have k_bootHold : Sub 0xfffffffff ps := sub_of hs rfl
  have k_loadMarginPlan : Sub 0x440 ps := sub_of hs rfl
  have k_portTrain : Sub 0x5008000 ps := sub_of hs rfl
  unfold doM12
  repeat'
    first
    | with_reducible refine keeps_foldl ?_ ?_ | with_reducible refine keeps_ite (fun _ => ?_) (fun _ => ?_)
    | extract_lets | with_reducible assumption | with_reducible refine startOffline_keeps ?_ k_startOffline _
    | with_reducible refine reach_keeps ?_ k_reach _ | with_reducible refine bootHold_keeps ?_ k_bootHold
    | with_reducible refine loadMarginPlan_keeps ?_ k_loadMarginPlan
    | with_reducible refine portTrain_keeps ?_ k_portTrain _ | intro _ | dsimp +zetaDelta only

theorem doM14_keeps {ps : Nat} {z s : State} (hz : Keeps ps z s) (hs : Sub 0xbb41 ps) (writable : Bool) :
    Keeps ps z (doM14 writable s) := by
  have k_reach : Sub 0x40 ps := sub_of hs rfl
  have k_modOtp : Sub 0x2000 ps := sub_of hs rfl
  have k_mountLogbook : Sub 0xa301 ps := sub_of hs rfl
  have k_restoreLedger : Sub 0x1800 ps := sub_of hs rfl
  have k_logWrite : Sub 0x2200 ps := sub_of hs rfl
  have k_modClk : Sub 0x40 ps := sub_of hs rfl
  unfold doM14
  repeat'
    first
    | with_reducible refine keeps_ite (fun _ => ?_) (fun _ => ?_) | extract_lets | with_reducible assumption
    | with_reducible refine reach_keeps ?_ k_reach _ | with_reducible refine modOtp_keeps ?_ k_modOtp _ ?_
    | with_reducible refine mountLogbook_keeps ?_ k_mountLogbook _
    | with_reducible refine restoreLedger_keeps ?_ k_restoreLedger
    | with_reducible refine logWrite_keeps ?_ k_logWrite _ _ _ | with_reducible refine modClk_keeps ?_ k_modClk _
    | exact oneWay_same rfl rfl rfl rfl rfl rfl rfl rfl | intro _ | split | dsimp +zetaDelta only

theorem doM15_keeps {ps : Nat} {z s : State} (hz : Keeps ps z s) (hs : Sub 0x8040 ps)  :
    Keeps ps z (doM15 s) := by
  have k_reach : Sub 0x40 ps := sub_of hs rfl
  have k_post : Sub 0x8000 ps := sub_of hs rfl
  have k_modClk : Sub 0x40 ps := sub_of hs rfl
  unfold doM15
  repeat'
    first
    | with_reducible refine keeps_foldl ?_ ?_ | with_reducible refine keeps_ite (fun _ => ?_) (fun _ => ?_)
    | extract_lets | with_reducible assumption | with_reducible refine reach_keeps ?_ k_reach _
    | with_reducible refine post_keeps ?_ k_post _ _ _ _ | with_reducible refine modClk_keeps ?_ k_modClk _
    | intro _ | dsimp +zetaDelta only

theorem advance_keeps {ps : Nat} {z s : State} (hz : Keeps ps z s) (hs : Sub 0xfffffffff ps) (r : MsResult) :
    Keeps ps z (advance r s) := by
  have k_doM15 : Sub 0x8040 ps := sub_of hs rfl
  have k_doM14 : Sub 0xbb41 ps := sub_of hs rfl
  have k_doM12 : Sub 0xfffffffff ps := sub_of hs rfl
  have k_doM11 : Sub 0x100582240 ps := sub_of hs rfl
  have k_doM10 : Sub 0xfffffffff ps := sub_of hs rfl
  have k_doM9 : Sub 0x600002240 ps := sub_of hs rfl
  have k_doM8 : Sub 0x2240 ps := sub_of hs rfl
  have k_doM7 : Sub 0xfffffffff ps := sub_of hs rfl
  have k_doM5 : Sub 0x80002042 ps := sub_of hs rfl
  have k_doM4 : Sub 0xfffffffff ps := sub_of hs rfl
  have k_doM3 : Sub 0x40 ps := sub_of hs rfl
  have k_doM2 : Sub 0xfffffffff ps := sub_of hs rfl
  have k_doM1 : Sub 0xfffffffff ps := sub_of hs rfl
  have k_reach : Sub 0x40 ps := sub_of hs rfl
  unfold advance
  repeat'
    first
    | with_reducible refine keeps_ite (fun _ => ?_) (fun _ => ?_) | with_reducible assumption
    | with_reducible refine doM15_keeps ?_ k_doM15 | with_reducible refine doM14_keeps ?_ k_doM14 _
    | with_reducible refine doM12_keeps ?_ k_doM12 | with_reducible refine doM11_keeps ?_ k_doM11 _
    | with_reducible refine doM10_keeps ?_ k_doM10 _ _ | with_reducible refine doM9_keeps ?_ k_doM9 _ _
    | with_reducible refine doM8_keeps ?_ k_doM8 _ | with_reducible refine doM7_keeps ?_ k_doM7 _
    | with_reducible refine doM5_keeps ?_ k_doM5 | with_reducible refine doM4_keeps ?_ k_doM4 _ _
    | with_reducible refine doM3_keeps ?_ k_doM3 _ | with_reducible refine doM2_keeps ?_ k_doM2 _
    | with_reducible refine doM1_keeps ?_ k_doM1 _ | with_reducible refine reach_keeps ?_ k_reach _ | intro _
    | split

theorem execStartSequence_keeps {ps : Nat} {z s : State} (hz : Keeps ps z s) (hs : Sub 0x40 ps)  :
    ∀ z', execStartSequence s = .next z' → Keeps ps z z' := by
  have k_startSequence : Sub 0x40 ps := sub_of hs rfl
  intro z' e'
  unfold execStartSequence at e'
  cases e'
  repeat'
    first
    | with_reducible refine keeps_ite (fun _ => ?_) (fun _ => ?_) | with_reducible assumption
    | with_reducible refine startSequence_keeps ?_ k_startSequence | intro _

theorem execMilestoneAdvance_keeps {ps : Nat} {z s : State} (hz : Keeps ps z s) (hs : Sub 0xfffffffff ps) (r :
    MsResult) : ∀ z', execMilestoneAdvance r s = .next z' → Keeps ps z z' := by
  have k_advance : Sub 0xfffffffff ps := sub_of hs rfl
  intro z' e'
  unfold execMilestoneAdvance at e'
  cases e'
  repeat'
    first
    | with_reducible refine keeps_ite (fun _ => ?_) (fun _ => ?_) | with_reducible assumption
    | with_reducible refine advance_keeps ?_ k_advance _ | intro _

theorem execProgressTick_keeps {ps : Nat} {z s : State} (hz : Keeps ps z s) (hs : Sub 0x40 ps)  :
    ∀ z', execProgressTick s = .next z' → Keeps ps z z' := by
  have k_modClk : Sub 0x40 ps := sub_of hs rfl
  intro z' e'
  unfold execProgressTick at e'
  cases e'
  repeat'
    first
    | with_reducible refine keeps_ite (fun _ => ?_) (fun _ => ?_) | with_reducible assumption
    | with_reducible refine modClk_keeps ?_ k_modClk _ | intro _

theorem execStallWindowExpire_keeps {ps : Nat} {z s : State} (hz : Keeps ps z s) (hs : Sub 0xfffffffff ps)  :
    ∀ z', execStallWindowExpire s = .next z' → Keeps ps z z' := by
  have k_faultPath : Sub 0xfffffffff ps := sub_of hs rfl
  intro z' e'
  unfold execStallWindowExpire at e'
  cases e'
  repeat'
    first
    | with_reducible refine keeps_ite (fun _ => ?_) (fun _ => ?_) | with_reducible assumption
    | with_reducible refine faultPath_keeps ?_ k_faultPath _ | intro _

theorem execMilestoneLimitExpire_keeps {ps : Nat} {z s : State} (hz : Keeps ps z s) (hs : Sub 0xfffffffff ps)  :
    ∀ z', execMilestoneLimitExpire s = .next z' → Keeps ps z z' := by
  have k_doM3 : Sub 0x40 ps := sub_of hs rfl
  have k_reach : Sub 0x40 ps := sub_of hs rfl
  have k_faultPath : Sub 0xfffffffff ps := sub_of hs rfl
  intro z' e'
  unfold execMilestoneLimitExpire at e'
  cases e'
  repeat'
    first
    | with_reducible refine keeps_ite (fun _ => ?_) (fun _ => ?_) | with_reducible assumption
    | with_reducible refine doM3_keeps ?_ k_doM3 _ | with_reducible refine reach_keeps ?_ k_reach _
    | with_reducible refine faultPath_keeps ?_ k_faultPath _ | intro _

theorem execFaultPathHoldEnd_keeps {ps : Nat} {z s : State} (hz : Keeps ps z s) (hs : Sub 0x40 ps)  :
    ∀ z', execFaultPathHoldEnd s = .next z' → Keeps ps z z' := by
  have k_startSequence : Sub 0x40 ps := sub_of hs rfl
  have k_modClk : Sub 0x40 ps := sub_of hs rfl
  intro z' e'
  unfold execFaultPathHoldEnd at e'
  cases e'
  repeat'
    first
    | with_reducible refine keeps_ite (fun _ => ?_) (fun _ => ?_) | with_reducible assumption
    | with_reducible refine startSequence_keeps ?_ k_startSequence
    | with_reducible refine modClk_keeps ?_ k_modClk _ | intro _

theorem execHostLinkInL0_keeps {ps : Nat} {z s : State} (hz : Keeps ps z s) (hs : Sub 0x40 ps)  :
    ∀ z', execHostLinkInL0 s = .next z' → Keeps ps z z' := by
  have k_modClk : Sub 0x40 ps := sub_of hs rfl
  intro z' e'
  unfold execHostLinkInL0 at e'
  cases e'
  repeat'
    first
    | with_reducible refine keeps_ite (fun _ => ?_) (fun _ => ?_) | with_reducible assumption
    | with_reducible refine modClk_keeps ?_ k_modClk _ | intro _

end Sys2Proof.Laws
end

