-- ==== Sys2Proof/Laws/KeepsRecovery.lean ====
section
/-!
SUPPORT. Sys2Proof/Laws/KeepsRecovery.lean: the operations of Sys2Proof/Machine/Recovery.lean keep what Laws/Keeps.lean says.
-/
namespace Sys2Proof.Laws
open Sys2Proof.Machine

theorem execPartitionHwError_keeps {ps : Nat} {z s : State} (hz : Keeps ps z s) (hs : Sub 0xfffffffff ps) (part :
    Nat) : ∀ z', execPartitionHwError part s = .next z' → Keeps ps z z' := by
  have k_partitionFault : Sub 0xfffffffff ps := sub_of hs rfl
  intro z' e'
  unfold execPartitionHwError at e'
  cases e'
  repeat'
    first
    | with_reducible refine keeps_ite (fun _ => ?_) (fun _ => ?_) | with_reducible assumption
    | with_reducible refine partitionFault_keeps ?_ k_partitionFault _ _ _ _ _ | intro _

theorem execChipHwError_keeps {ps : Nat} {z s : State} (hz : Keeps ps z s) (hs : Sub 0xfffffffff ps)  :
    ∀ z', execChipHwError s = .next z' → Keeps ps z z' := by
  have k_chipReset : Sub 0xfffffffff ps := sub_of hs rfl
  intro z' e'
  unfold execChipHwError at e'
  cases e'
  repeat'
    first
    | with_reducible refine keeps_ite (fun _ => ?_) (fun _ => ?_) | with_reducible assumption
    | with_reducible refine chipReset_keeps ?_ k_chipReset _ _ _ _ _ _ | intro _

theorem resEnds_keeps {ps : Nat} {z s : State} (hz : Keeps ps z s) (hs : Sub 0x80 ps) (r : Recovery) :
    Keeps ps z (resEnds r s) := by
  have k_modFlt : Sub 0x80 ps := sub_of hs rfl
  unfold resEnds
  repeat'
    first
    | with_reducible refine keeps_ite (fun _ => ?_) (fun _ => ?_) | with_reducible assumption
    | with_reducible refine modFlt_keeps ?_ k_modFlt _ | intro _

theorem unitTested_keeps {ps : Nat} {z s : State} (hz : Keeps ps z s) (hs : Sub 0xe6fffa681 ps) (u : Nat) (t :
    UnitTest) : Keeps ps z (unitTested u t s) := by
  have k_retireCluster : Sub 0xe6fffa601 ps := sub_of hs rfl
  have k_modVclu : Sub 0x400000000 ps := sub_of hs rfl
  have k_modEng : Sub 0x200000000 ps := sub_of hs rfl
  have k_modFlt : Sub 0x80 ps := sub_of hs rfl
  unfold unitTested
  repeat'
    first
    | with_reducible refine keeps_ite (fun _ => ?_) (fun _ => ?_) | extract_lets | with_reducible assumption
    | with_reducible refine retireCluster_keeps ?_ k_retireCluster _ _ _
    | with_reducible refine modVclu_keeps ?_ k_modVclu _ _ | with_reducible refine modEng_keeps ?_ k_modEng _ _
    | with_reducible refine modFlt_keeps ?_ k_modFlt _ | intro _ | dsimp +zetaDelta only

theorem execEngineResetComplete_keeps {ps : Nat} {z s : State} (hz : Keeps ps z s) (hs : Sub 0xe6fffa681 ps) (unit :
    Nat) (t : UnitTest) : ∀ z', execEngineResetComplete unit t s = .next z' → Keeps ps z z' := by
  have k_unitTested : Sub 0xe6fffa681 ps := sub_of hs rfl
  have k_resEnds : Sub 0x80 ps := sub_of hs rfl
  have k_modFlt : Sub 0x80 ps := sub_of hs rfl
  intro z' e'
  unfold execEngineResetComplete at e'
  cases e'
  repeat'
    first
    | with_reducible refine keeps_ite (fun _ => ?_) (fun _ => ?_) | extract_lets | with_reducible assumption
    | with_reducible refine unitTested_keeps ?_ k_unitTested _ _
    | with_reducible refine resEnds_keeps ?_ k_resEnds _ | with_reducible refine modFlt_keeps ?_ k_modFlt _
    | intro _ | dsimp +zetaDelta only

theorem execPartitionResetComplete_keeps {ps : Nat} {z s : State} (hz : Keeps ps z s) (hs : Sub 0x54081c1 ps) (part
    : Nat) (ok : Bool) : ∀ z', execPartitionResetComplete part ok s = .next z' → Keeps ps z z' := by
  have k_resEnds : Sub 0x80 ps := sub_of hs rfl
  have k_startOffline : Sub 0x400040 ps := sub_of hs rfl
  have k_partStacks : Sub 0x400000 ps := sub_of hs rfl
  have k_portTrain : Sub 0x5008000 ps := sub_of hs rfl
  have k_alertPost : Sub 0x101 ps := sub_of hs rfl
  have k_postAll : Sub 0x8000 ps := sub_of hs rfl
  have k_modFlt : Sub 0x80 ps := sub_of hs rfl
  intro z' e'
  unfold execPartitionResetComplete at e'
  cases e'
  repeat'
    first
    | with_reducible refine keeps_foldl ?_ ?_ | with_reducible refine keeps_ite (fun _ => ?_) (fun _ => ?_)
    | extract_lets | with_reducible assumption | with_reducible refine resEnds_keeps ?_ k_resEnds _
    | with_reducible refine startOffline_keeps ?_ k_startOffline _
    | with_reducible refine partStacks_keeps ?_ k_partStacks _ _
    | with_reducible refine portTrain_keeps ?_ k_portTrain _
    | with_reducible refine alertPost_keeps ?_ k_alertPost _
    | with_reducible refine postAll_keeps ?_ k_postAll _ _ _ _ | with_reducible refine modFlt_keeps ?_ k_modFlt _
    | intro _ | split | dsimp +zetaDelta only

theorem escalateHeld_keeps {ps : Nat} {z s : State} (hz : Keeps ps z s) (hs : Sub 0xfffffffff ps) (cls : Nat) (ctx :
    Nat) (units : List Nat) (parts : List Nat) : Keeps ps z (escalateHeld cls ctx units parts s) := by
  have k_partitionFault : Sub 0xfffffffff ps := sub_of hs rfl
  have k_engineReset : Sub 0xe6fffa281 ps := sub_of hs rfl
  unfold escalateHeld
  repeat'
    first
    | with_reducible refine keeps_foldl ?_ ?_ | with_reducible refine keeps_ite (fun _ => ?_) (fun _ => ?_)
    | extract_lets | with_reducible assumption
    | with_reducible refine partitionFault_keeps ?_ k_partitionFault _ _ _ _ _
    | with_reducible refine engineReset_keeps ?_ k_engineReset _ _ _ _ | intro _ | dsimp +zetaDelta only

theorem escalate_keeps {ps : Nat} {z s : State} (hz : Keeps ps z s) (hs : Sub 0xfffffffff ps) (cls : Nat) (r :
    Recovery) (units : List Nat) (parts : List Nat) : Keeps ps z (escalate cls r units parts s) := by
  have k_escalateHeld : Sub 0xfffffffff ps := sub_of hs rfl
  have k_partitionFault : Sub 0xfffffffff ps := sub_of hs rfl
  have k_chipReset : Sub 0xfffffffff ps := sub_of hs rfl
  have k_mapDescs : Sub 0x8000 ps := sub_of hs rfl
  unfold escalate
  repeat'
    first
    | with_reducible refine keeps_ite (fun _ => ?_) (fun _ => ?_) | extract_lets | with_reducible assumption
    | with_reducible refine escalateHeld_keeps ?_ k_escalateHeld _ _ _ _
    | with_reducible refine partitionFault_keeps ?_ k_partitionFault _ _ _ _ _
    | with_reducible refine chipReset_keeps ?_ k_chipReset _ _ _ _ _ _
    | with_reducible refine mapDescs_keeps ?_ k_mapDescs _ | intro _ | split | dsimp +zetaDelta only

theorem execBoundMiss_keeps {ps : Nat} {z s : State} (hz : Keeps ps z s) (hs : Sub 0xfffffffff ps) (r : Recovery)
    (units : List Nat) (parts : List Nat) : ∀ z', execBoundMiss r units parts s = .next z' → Keeps ps z z' := by
  have k_escalate : Sub 0xfffffffff ps := sub_of hs rfl
  intro z' e'
  unfold execBoundMiss at e'
  cases e'
  repeat'
    first
    | with_reducible refine keeps_ite (fun _ => ?_) (fun _ => ?_) | with_reducible assumption
    | with_reducible refine escalate_keeps ?_ k_escalate _ _ _ _ | intro _

theorem execProgressMiss_keeps {ps : Nat} {z s : State} (hz : Keeps ps z s) (hs : Sub 0xfffffffff ps) (r : Recovery)
    (units : List Nat) (parts : List Nat) :
    ∀ z', execProgressMiss r units parts s = .next z' → Keeps ps z z' := by
  have k_escalate : Sub 0xfffffffff ps := sub_of hs rfl
  intro z' e'
  unfold execProgressMiss at e'
  cases e'
  repeat'
    first
    | with_reducible refine keeps_ite (fun _ => ?_) (fun _ => ?_) | with_reducible assumption
    | with_reducible refine escalate_keeps ?_ k_escalate _ _ _ _ | intro _

theorem commandReset_keeps {ps : Nat} {z s : State} (hz : Keeps ps z s) (hs : Sub 0xfffffffff ps) (level : Nat) (u :
    Nat) : Keeps ps z (commandReset level u s) := by
  have k_chipReset : Sub 0xfffffffff ps := sub_of hs rfl
  have k_partitionReset : Sub 0xe6fffa281 ps := sub_of hs rfl
  have k_engineReset : Sub 0xe6fffa281 ps := sub_of hs rfl
  unfold commandReset
  repeat'
    first
    | with_reducible refine keeps_ite (fun _ => ?_) (fun _ => ?_) | with_reducible assumption
    | with_reducible refine chipReset_keeps ?_ k_chipReset _ _ _ _ _ _
    | with_reducible refine partitionReset_keeps ?_ k_partitionReset _ _ _ _ _
    | with_reducible refine engineReset_keeps ?_ k_engineReset _ _ _ _ | intro _

theorem execEngineResetCommand_keeps {ps : Nat} {z s : State} (hz : Keeps ps z s) (hs : Sub 0xfffffffff ps) (src :
    Src) (unit : Nat) : ∀ z', execEngineResetCommand src unit s = .next z' → Keeps ps z z' := by
  have k_commandReset : Sub 0xfffffffff ps := sub_of hs rfl
  have k_modFlt : Sub 0x80 ps := sub_of hs rfl
  intro z' e'
  unfold execEngineResetCommand at e'
  cases e'
  repeat'
    first
    | with_reducible refine keeps_ite (fun _ => ?_) (fun _ => ?_) | extract_lets | with_reducible assumption
    | with_reducible refine commandReset_keeps ?_ k_commandReset _ _
    | with_reducible refine modFlt_keeps ?_ k_modFlt _ | intro _ | dsimp +zetaDelta only

theorem execPartitionResetCommand_keeps {ps : Nat} {z s : State} (hz : Keeps ps z s) (hs : Sub 0xfffffffff ps) (src
    : Src) (unit : Nat) : ∀ z', execPartitionResetCommand src unit s = .next z' → Keeps ps z z' := by
  have k_commandReset : Sub 0xfffffffff ps := sub_of hs rfl
  have k_modFlt : Sub 0x80 ps := sub_of hs rfl
  intro z' e'
  unfold execPartitionResetCommand at e'
  cases e'
  repeat'
    first
    | with_reducible refine keeps_ite (fun _ => ?_) (fun _ => ?_) | extract_lets | with_reducible assumption
    | with_reducible refine commandReset_keeps ?_ k_commandReset _ _
    | with_reducible refine modFlt_keeps ?_ k_modFlt _ | intro _ | dsimp +zetaDelta only

theorem execChipResetCommand_keeps {ps : Nat} {z s : State} (hz : Keeps ps z s) (hs : Sub 0xfffffffff ps) (src :
    Src) : ∀ z', execChipResetCommand src s = .next z' → Keeps ps z z' := by
  have k_commandReset : Sub 0xfffffffff ps := sub_of hs rfl
  have k_modFlt : Sub 0x80 ps := sub_of hs rfl
  intro z' e'
  unfold execChipResetCommand at e'
  cases e'
  repeat'
    first
    | with_reducible refine keeps_ite (fun _ => ?_) (fun _ => ?_) | extract_lets | with_reducible assumption
    | with_reducible refine commandReset_keeps ?_ k_commandReset _ _
    | with_reducible refine modFlt_keeps ?_ k_modFlt _ | intro _ | dsimp +zetaDelta only

theorem sessionAbort_keeps {ps : Nat} {z s : State} (hz : Keeps ps z s) (hs : Sub 0xfffffffff ps) (cls : Nat) :
    Keeps ps z (sessionAbort cls s) := by
  have k_chipReset : Sub 0xfffffffff ps := sub_of hs rfl
  unfold sessionAbort
  repeat'
    first
    | with_reducible refine keeps_ite (fun _ => ?_) (fun _ => ?_) | with_reducible assumption
    | with_reducible refine chipReset_keeps ?_ k_chipReset _ _ _ _ _ _ | intro _

end Sys2Proof.Laws
end

