-- ==== Sys2Proof/Laws/KeepsLifecycle.lean ====
section
/-!
SUPPORT. Sys2Proof/Laws/KeepsLifecycle.lean: the operations of Sys2Proof/Machine/Lifecycle.lean keep what Laws/Keeps.lean says.
-/
namespace Sys2Proof.Laws
open Sys2Proof.Machine

theorem modFace_keeps {ps : Nat} {z s : State} (hz : Keeps ps z s) (hs : Sub 0x100 ps) (uart : Bool) (f : MgtFace →
    MgtFace) : Keeps ps z (modFace uart f s) := by
  have k_modMgt : Sub 0x100 ps := sub_of hs rfl
  unfold modFace
  repeat'
    first
    | with_reducible refine keeps_ite (fun _ => ?_) (fun _ => ?_) | with_reducible assumption
    | with_reducible refine modMgt_keeps ?_ k_modMgt _ | intro _

theorem reply_keeps {ps : Nat} {z s : State} (hz : Keeps ps z s) (hs : Sub 0x101 ps) (uart : Bool) (op : Nat) (tag :
    Nat) (status : Nat) (reason : Nat) (payload : List Byte) :
    Keeps ps z (reply uart op tag status reason payload s) := by
  have k_modFace : Sub 0x100 ps := sub_of hs rfl
  have k_emit : Sub 0x1 ps := sub_of hs rfl
  unfold reply
  repeat'
    first
    | with_reducible refine keeps_ite (fun _ => ?_) (fun _ => ?_) | extract_lets | with_reducible assumption
    | with_reducible refine modFace_keeps ?_ k_modFace _ _ | with_reducible refine emit_keeps ?_ k_emit _ | intro _
    | dsimp +zetaDelta only

theorem lcEnds_keeps {ps : Nat} {z s : State} (hz : Keeps ps z s) (hs : Sub 0x100000101 ps) (c : LcsCommand) (reason
    : Nat) : Keeps ps z (lcEnds c reason s) := by
  have k_reply : Sub 0x101 ps := sub_of hs rfl
  have k_modLcs : Sub 0x100000000 ps := sub_of hs rfl
  have k_modMgt : Sub 0x100 ps := sub_of hs rfl
  unfold lcEnds
  repeat'
    first
    | with_reducible refine keeps_ite (fun _ => ?_) (fun _ => ?_) | extract_lets | with_reducible assumption
    | with_reducible refine reply_keeps ?_ k_reply _ _ _ _ _ _ | with_reducible refine modLcs_keeps ?_ k_modLcs _
    | with_reducible refine modMgt_keeps ?_ k_modMgt _ | intro _ | split | dsimp +zetaDelta only

theorem lcErase_oneWay (a : NvState) (q : Nat) : OneWay a { a with otp := lcErase q a.otp } := by
  refine ⟨fun _ h => h, ?_, ?_, ?_, ?_, Nat.le_refl _, bitsIn_refl _, Nat.le_refl _⟩
  · unfold lcErase; split <;> split <;> split <;> exact bitsIn_refl _
  · unfold lcErase; split <;> split <;> split <;> exact bitsIn_refl _
  · unfold lcErase; split <;> split <;> split <;> exact bitsIn_refl _
  · unfold lcErase; split <;> split <;> split <;> intro h <;> first | rfl | exact h

theorem lcProgram_oneWay (a : NvState) (q old root : Nat) : OneWay a { a with otp := lcProgram q old root a.otp } := by
  refine ⟨fun _ h => h, ?_, ?_, ?_, ?_, Nat.le_refl _, bitsIn_refl _, Nat.le_refl _⟩
  · unfold lcProgram closeTokens; split <;> split <;> exact bitsIn_lor _ _
  · unfold lcProgram closeTokens; split <;> split <;> exact bitsIn_lor _ _
  · unfold lcProgram closeTokens; split <;> split <;> exact bitsIn_lor _ _
  · unfold lcProgram closeTokens; split <;> split <;> exact id

theorem lcRun_keeps {ps : Nat} {z s : State} (hz : Keeps ps z s) (hs : Sub 0xfffffffff ps) (c : LcsCommand) (q :
    Nat) (eraseOk : Bool) : Keeps ps z (lcRun c q eraseOk s) := by
  have k_lcEnds : Sub 0x100000101 ps := sub_of hs rfl
  have k_modOtp : Sub 0x2000 ps := sub_of hs rfl
  have k_chipResetNow : Sub 0xfffffffff ps := sub_of hs rfl
  have k_logWrite : Sub 0x2200 ps := sub_of hs rfl
  have k_tookFree : Sub 0x2 ps := sub_of hs rfl
  unfold lcRun
  repeat'
    first
    | with_reducible exact lcErase_oneWay _ _ | with_reducible exact lcProgram_oneWay _ _ _ _
    | with_reducible refine keeps_ite (fun _ => ?_) (fun _ => ?_) | extract_lets | with_reducible assumption
    | with_reducible refine lcEnds_keeps ?_ k_lcEnds _ _ | with_reducible refine modOtp_keeps ?_ k_modOtp _ ?_
    | with_reducible refine chipResetNow_keeps ?_ k_chipResetNow _ _ _
    | with_reducible refine logWrite_keeps ?_ k_logWrite _ _ _ | with_reducible refine tookFree_keeps ?_ k_tookFree
    | exact oneWay_same rfl rfl rfl rfl rfl rfl rfl rfl | intro _ | dsimp +zetaDelta only

theorem lcSubmit_keeps {ps : Nat} {z s : State} (hz : Keeps ps z s) (hs : Sub 0x100000000 ps) (c : LcsCommand) :
    Keeps ps z (lcSubmit c s) := by
  have k_modLcs : Sub 0x100000000 ps := sub_of hs rfl
  unfold lcSubmit
  repeat'
    first
    | with_reducible assumption | with_reducible refine modLcs_keeps ?_ k_modLcs _ | intro _

theorem execTransitionCommand_keeps {ps : Nat} {z s : State} (hz : Keeps ps z s) (hs : Sub 0x100000000 ps) (src :
    Src) (target : Nat) : ∀ z', execTransitionCommand src target s = .next z' → Keeps ps z z' := by
  have k_lcSubmit : Sub 0x100000000 ps := sub_of hs rfl
  have k_modLcs : Sub 0x100000000 ps := sub_of hs rfl
  intro z' e'
  unfold execTransitionCommand at e'
  cases e'
  repeat'
    first
    | with_reducible refine keeps_ite (fun _ => ?_) (fun _ => ?_) | extract_lets | with_reducible assumption
    | with_reducible refine lcSubmit_keeps ?_ k_lcSubmit _ | with_reducible refine modLcs_keeps ?_ k_modLcs _
    | intro _ | dsimp +zetaDelta only

theorem execTransitionDecision_keeps {ps : Nat} {z s : State} (hz : Keeps ps z s) (hs : Sub 0xfffffffff ps) (eraseOk
    : Bool) : ∀ z', execTransitionDecision eraseOk s = .next z' → Keeps ps z z' := by
  have k_lcRun : Sub 0xfffffffff ps := sub_of hs rfl
  have k_lcEnds : Sub 0x100000101 ps := sub_of hs rfl
  intro z' e'
  unfold execTransitionDecision at e'
  cases e'
  repeat'
    first
    | with_reducible assumption | with_reducible refine lcRun_keeps ?_ k_lcRun _ _ _
    | with_reducible refine lcEnds_keeps ?_ k_lcEnds _ _ | split

theorem execTokenDigestProgram_keeps {ps : Nat} {z s : State} (hz : Keeps ps z s) (hs : Sub 0x2000 ps) (slot : Nat)
    (d : BitVec 384) : ∀ z', execTokenDigestProgram slot d s = .next z' → Keeps ps z z' := by
  have k_modOtp : Sub 0x2000 ps := sub_of hs rfl
  intro z' e'
  unfold execTokenDigestProgram at e'
  cases e'
  repeat'
    first
    | with_reducible refine keeps_ite (fun _ => ?_) (fun _ => ?_) | with_reducible assumption
    | with_reducible refine modOtp_keeps ?_ k_modOtp _ ?_ | exact oneWay_same rfl rfl rfl rfl rfl rfl rfl rfl
    | intro _

theorem execJtagExtest_keeps {ps : Nat} {z s : State} (hz : Keeps ps z s) (hs : Sub 0xfffffffff ps)  :
    ∀ z', execJtagExtest s = .next z' → Keeps ps z z' := by
  have k_sessionAbort : Sub 0xfffffffff ps := sub_of hs rfl
  have k_modLcs : Sub 0x100000000 ps := sub_of hs rfl
  intro z' e'
  unfold execJtagExtest at e'
  cases e'
  repeat'
    first
    | with_reducible refine keeps_ite (fun _ => ?_) (fun _ => ?_) | with_reducible assumption
    | with_reducible refine sessionAbort_keeps ?_ k_sessionAbort _
    | with_reducible refine modLcs_keeps ?_ k_modLcs _ | intro _

theorem execJtagExtestExit_keeps {ps : Nat} {z s : State} (hz : Keeps ps z s) (hs : Sub 0xfffffffff ps)  :
    ∀ z', execJtagExtestExit s = .next z' → Keeps ps z z' := by
  have k_chipResetNow : Sub 0xfffffffff ps := sub_of hs rfl
  have k_modLcs : Sub 0x100000000 ps := sub_of hs rfl
  intro z' e'
  unfold execJtagExtestExit at e'
  cases e'
  repeat'
    first
    | with_reducible refine keeps_ite (fun _ => ?_) (fun _ => ?_) | with_reducible assumption
    | with_reducible refine chipResetNow_keeps ?_ k_chipResetNow _ _ _
    | with_reducible refine modLcs_keeps ?_ k_modLcs _ | intro _

end Sys2Proof.Laws
end

