-- ==== Sys2Proof/Laws/KeepsSession.lean ====
section
/-!
SUPPORT. Sys2Proof/Laws/KeepsSession.lean: the operations of Sys2Proof/Machine/Session.lean keep what Laws/Keeps.lean says.
-/
namespace Sys2Proof.Laws
open Sys2Proof.Machine

theorem pkAsk_keeps {ps : Nat} {z s : State} (hz : Keeps ps z s) (hs : Sub 0x80000000 ps) (u : PkUse) :
    Keeps ps z (pkAsk u s) := by
  have k_modSec : Sub 0x80000000 ps := sub_of hs rfl
  unfold pkAsk
  repeat'
    first
    | with_reducible assumption | with_reducible refine modSec_keeps ?_ k_modSec _ | intro _

theorem pkDesc_keeps {ps : Nat} {z s : State} (hz : Keeps ps z s) (hs : Sub 0x80008000 ps) (d : Desc) (bytes : List
    Byte) : Keeps ps z (pkDesc d bytes s) := by
  have k_pkAsk : Sub 0x80000000 ps := sub_of hs rfl
  have k_endD : Sub 0x8000 ps := sub_of hs rfl
  have k_runDesc : Sub 0x8000 ps := sub_of hs rfl
  unfold pkDesc
  repeat'
    first
    | with_reducible refine keeps_ite (fun _ => ?_) (fun _ => ?_) | with_reducible assumption
    | with_reducible refine pkAsk_keeps ?_ k_pkAsk _ | with_reducible refine endD_keeps ?_ k_endD _ _
    | with_reducible refine runDesc_keeps ?_ k_runDesc _ _ _ | intro _

theorem execSessionOpen_keeps {ps : Nat} {z s : State} (hz : Keeps ps z s) (hs : Sub 0x80008000 ps) (qp : Nat) (sub
    : Nat) (bound : Bool) (cfg : Option (List Byte)) :
    ∀ z', execSessionOpen qp sub bound cfg s = .next z' → Keeps ps z z' := by
  have k_pkAsk : Sub 0x80000000 ps := sub_of hs rfl
  have k_uniformRefuse : Sub 0x80008000 ps := sub_of hs rfl
  have k_endD : Sub 0x8000 ps := sub_of hs rfl
  have k_onStarted : Sub 0x0 ps := sub_of hs rfl
  have k_runDesc : Sub 0x8000 ps := sub_of hs rfl
  have k_modSec : Sub 0x80000000 ps := sub_of hs rfl
  intro z' e'
  unfold execSessionOpen at e'
  cases e'
  repeat'
    first
    | with_reducible refine keeps_ite (fun _ => ?_) (fun _ => ?_) | extract_lets | with_reducible assumption
    | with_reducible refine pkAsk_keeps ?_ k_pkAsk _
    | with_reducible refine uniformRefuse_keeps ?_ k_uniformRefuse _ _
    | with_reducible refine endD_keeps ?_ k_endD _ _
    | with_reducible refine onStarted_keeps ?_ k_onStarted _ _ _ _ ?_
    | with_reducible refine runDesc_keeps ?_ k_runDesc _ _ _ | with_reducible refine modSec_keeps ?_ k_modSec _
    | intro _ | split | dsimp +zetaDelta only

theorem openKeys_keeps {ps : Nat} {z s : State} (hz : Keeps ps z s) (hs : Sub 0x80800002 ps)  :
    Keeps ps z (openKeys s) := by
  have k_modSec : Sub 0x80000000 ps := sub_of hs rfl
  have k_modIme : Sub 0x800000 ps := sub_of hs rfl
  have k_draws : Sub 0x2 ps := sub_of hs rfl
  unfold openKeys
  repeat'
    first
    | extract_lets | with_reducible assumption | with_reducible refine modSec_keeps ?_ k_modSec _
    | with_reducible refine modIme_keeps ?_ k_modIme _
    | fail_if_no_progress with_reducible refine keeps_set_draws ?_ k_draws _ | intro _ | dsimp +zetaDelta only

theorem allDirty_keeps {ps : Nat} {z s : State} (hz : Keeps ps z s) (hs : Sub 0x4000 ps)  :
    Keeps ps z (allDirty s) := by
  have k_modHif : Sub 0x4000 ps := sub_of hs rfl
  unfold allDirty
  repeat'
    first
    | with_reducible assumption | with_reducible refine modHif_keeps ?_ k_modHif _ | intro _

theorem chainsStart_keeps {ps : Nat} {z s : State} (hz : Keeps ps z s) (hs : Sub 0x80000000 ps)  :
    Keeps ps z (chainsStart s) := by
  have k_weightChain : Sub 0x80000000 ps := sub_of hs rfl
  have k_modSec : Sub 0x80000000 ps := sub_of hs rfl
  unfold chainsStart
  repeat'
    first
    | with_reducible assumption | with_reducible refine weightChain_keeps ?_ k_weightChain _
    | with_reducible refine modSec_keeps ?_ k_modSec _ | intro _

theorem execLayoutSwitchDone_keeps {ps : Nat} {z s : State} (hz : Keeps ps z s) (hs : Sub 0x8580c000 ps)  :
    ∀ z', execLayoutSwitchDone s = .next z' → Keeps ps z z' := by
  have k_chainsStart : Sub 0x80000000 ps := sub_of hs rfl
  have k_allDirty : Sub 0x4000 ps := sub_of hs rfl
  have k_portsSecure : Sub 0x5008000 ps := sub_of hs rfl
  have k_endDesc : Sub 0x8000 ps := sub_of hs rfl
  have k_modSec : Sub 0x80000000 ps := sub_of hs rfl
  have k_modIme : Sub 0x800000 ps := sub_of hs rfl
  intro z' e'
  unfold execLayoutSwitchDone at e'
  cases e'
  repeat'
    first
    | extract_lets | with_reducible assumption | with_reducible refine chainsStart_keeps ?_ k_chainsStart
    | with_reducible refine allDirty_keeps ?_ k_allDirty | with_reducible refine portsSecure_keeps ?_ k_portsSecure
    | with_reducible refine endDesc_keeps ?_ k_endDesc _ _ _ | with_reducible refine modSec_keeps ?_ k_modSec _
    | with_reducible refine modIme_keeps ?_ k_modIme _ | intro _ | split | dsimp +zetaDelta only

theorem forceDestroy_keeps {ps : Nat} {z s : State} (hz : Keeps ps z s) (hs : Sub 0xeefffc001 ps) (c : Nat) :
    Keeps ps z (forceDestroy s c) := by
  have k_freeCtx : Sub 0xcefffc001 ps := sub_of hs rfl
  have k_beginDestroy : Sub 0xeefff8001 ps := sub_of hs rfl
  have k_endD : Sub 0x8000 ps := sub_of hs rfl
  unfold forceDestroy
  repeat'
    first
    | with_reducible refine keeps_foldl ?_ ?_ | with_reducible refine keeps_ite (fun _ => ?_) (fun _ => ?_)
    | extract_lets | with_reducible assumption | with_reducible refine freeCtx_keeps ?_ k_freeCtx _
    | with_reducible refine beginDestroy_keeps ?_ k_beginDestroy _ | with_reducible refine endD_keeps ?_ k_endD _ _
    | intro _ | split | dsimp +zetaDelta only

theorem execSessionClose_keeps {ps : Nat} {z s : State} (hz : Keeps ps z s) (hs : Sub 0xeefffc001 ps) (qp : Nat)
    (sub : Nat) : ∀ z', execSessionClose qp sub s = .next z' → Keeps ps z z' := by
  have k_forceDestroy : Sub 0xeefffc001 ps := sub_of hs rfl
  have k_allDirty : Sub 0x4000 ps := sub_of hs rfl
  have k_endD : Sub 0x8000 ps := sub_of hs rfl
  have k_endSession : Sub 0x81800000 ps := sub_of hs rfl
  have k_portsUnsecure : Sub 0x5008000 ps := sub_of hs rfl
  have k_onStarted : Sub 0x0 ps := sub_of hs rfl
  have k_modSec : Sub 0x80000000 ps := sub_of hs rfl
  have k_modIme : Sub 0x800000 ps := sub_of hs rfl
  intro z' e'
  unfold execSessionClose at e'
  cases e'
  repeat'
    first
    | with_reducible refine keeps_foldl ?_ ?_ | with_reducible refine keeps_ite (fun _ => ?_) (fun _ => ?_)
    | extract_lets | with_reducible assumption | with_reducible refine forceDestroy_keeps ?_ k_forceDestroy _
    | with_reducible refine allDirty_keeps ?_ k_allDirty | with_reducible refine endD_keeps ?_ k_endD _ _
    | with_reducible refine endSession_keeps ?_ k_endSession
    | with_reducible refine portsUnsecure_keeps ?_ k_portsUnsecure
    | with_reducible refine onStarted_keeps ?_ k_onStarted _ _ _ _ ?_
    | with_reducible refine modSec_keeps ?_ k_modSec _ | with_reducible refine modIme_keeps ?_ k_modIme _ | intro _
    | dsimp +zetaDelta only

theorem execSessionReport_keeps {ps : Nat} {z s : State} (hz : Keeps ps z s) (hs : Sub 0x80008000 ps) (qp : Nat)
    (sub : Nat) : ∀ z', execSessionReport qp sub s = .next z' → Keeps ps z z' := by
  have k_pkDesc : Sub 0x80008000 ps := sub_of hs rfl
  have k_endD : Sub 0x8000 ps := sub_of hs rfl
  have k_guarded : Sub 0x8000 ps := sub_of hs rfl
  have k_onStarted : Sub 0x0 ps := sub_of hs rfl
  intro z' e'
  unfold execSessionReport at e'
  cases e'
  repeat'
    first
    | with_reducible refine keeps_ite (fun _ => ?_) (fun _ => ?_) | extract_lets | with_reducible assumption
    | with_reducible refine pkDesc_keeps ?_ k_pkDesc _ _ | with_reducible refine endD_keeps ?_ k_endD _ _
    | with_reducible refine guarded_keeps ?_ k_guarded _ _ _ ?_
    | with_reducible refine onStarted_keeps ?_ k_onStarted _ _ _ _ ?_ | intro _ | dsimp +zetaDelta only

theorem reportEnds_keeps {ps : Nat} {z s : State} (hz : Keeps ps z s) (hs : Sub 0x8c0fa8000 ps) (d : Desc) (nonce :
    List Byte) : Keeps ps z (reportEnds d nonce s) := by
  have k_endD : Sub 0x8000 ps := sub_of hs rfl
  have k_storeMem : Sub 0x840fa8000 ps := sub_of hs rfl
  have k_modSec : Sub 0x80000000 ps := sub_of hs rfl
  unfold reportEnds
  repeat'
    first
    | with_reducible refine keeps_ite (fun _ => ?_) (fun _ => ?_) | extract_lets | with_reducible assumption
    | with_reducible refine endD_keeps ?_ k_endD _ _ | with_reducible refine storeMem_keeps ?_ k_storeMem _ _ _ _
    | with_reducible refine modSec_keeps ?_ k_modSec _ | intro _ | dsimp +zetaDelta only

theorem makeKey_keeps {ps : Nat} {z s : State} (hz : Keeps ps z s) (hs : Sub 0x80008000 ps) (d : Desc) (c : Nat)
    (kind : Nat) (key : Nat) (index : Nat) : Keeps ps z (makeKey d c kind key index s) := by
  have k_endD : Sub 0x8000 ps := sub_of hs rfl
  have k_modSec : Sub 0x80000000 ps := sub_of hs rfl
  have k_modCmd : Sub 0x8000 ps := sub_of hs rfl
  unfold makeKey
  repeat'
    first
    | with_reducible refine keeps_ite (fun _ => ?_) (fun _ => ?_) | extract_lets | with_reducible assumption
    | with_reducible refine endD_keeps ?_ k_endD _ _ | with_reducible refine modSec_keeps ?_ k_modSec _
    | with_reducible refine modCmd_keeps ?_ k_modCmd _ | intro _ | split | dsimp +zetaDelta only

theorem execKeyImport_keeps {ps : Nat} {z s : State} (hz : Keeps ps z s) (hs : Sub 0x80008000 ps) (qp : Nat) (sub :
    Nat) : ∀ z', execKeyImport qp sub s = .next z' → Keeps ps z z' := by
  have k_makeKey : Sub 0x80008000 ps := sub_of hs rfl
  have k_pkDesc : Sub 0x80008000 ps := sub_of hs rfl
  have k_uniformRefuse : Sub 0x80008000 ps := sub_of hs rfl
  have k_endD : Sub 0x8000 ps := sub_of hs rfl
  have k_guarded : Sub 0x8000 ps := sub_of hs rfl
  have k_onStarted : Sub 0x0 ps := sub_of hs rfl
  intro z' e'
  unfold execKeyImport at e'
  cases e'
  repeat'
    first
    | with_reducible refine keeps_ite (fun _ => ?_) (fun _ => ?_) | extract_lets | with_reducible assumption
    | with_reducible refine makeKey_keeps ?_ k_makeKey _ _ _ _ _
    | with_reducible refine pkDesc_keeps ?_ k_pkDesc _ _
    | with_reducible refine uniformRefuse_keeps ?_ k_uniformRefuse _ _
    | with_reducible refine endD_keeps ?_ k_endD _ _ | with_reducible refine guarded_keeps ?_ k_guarded _ _ _ ?_
    | with_reducible refine onStarted_keeps ?_ k_onStarted _ _ _ _ ?_ | intro _ | split | dsimp +zetaDelta only

theorem importEnds_keeps {ps : Nat} {z s : State} (hz : Keeps ps z s) (hs : Sub 0x80008000 ps) (d : Desc) (b : List
    Byte) : Keeps ps z (importEnds d b s) := by
  have k_makeKey : Sub 0x80008000 ps := sub_of hs rfl
  have k_uniformRefuse : Sub 0x80008000 ps := sub_of hs rfl
  have k_endD : Sub 0x8000 ps := sub_of hs rfl
  unfold importEnds
  repeat'
    first
    | with_reducible refine keeps_ite (fun _ => ?_) (fun _ => ?_) | extract_lets | with_reducible assumption
    | with_reducible refine makeKey_keeps ?_ k_makeKey _ _ _ _ _
    | with_reducible refine uniformRefuse_keeps ?_ k_uniformRefuse _ _
    | with_reducible refine endD_keeps ?_ k_endD _ _ | intro _ | split | dsimp +zetaDelta only

theorem keyGone_keeps {ps : Nat} {z s : State} (hz : Keeps ps z s) (hs : Sub 0x86ffe8001 ps) (slot : Nat) :
    Keeps ps z (keyGone slot s) := by
  have k_restoreAborts : Sub 0x40008000 ps := sub_of hs rfl
  have k_ckpFail : Sub 0x86ffe8001 ps := sub_of hs rfl
  have k_ckpPost : Sub 0x8000 ps := sub_of hs rfl
  unfold keyGone
  repeat'
    first
    | with_reducible refine keeps_foldl ?_ ?_ | with_reducible refine keeps_ite (fun _ => ?_) (fun _ => ?_)
    | extract_lets | with_reducible assumption | with_reducible refine restoreAborts_keeps ?_ k_restoreAborts _
    | with_reducible refine ckpFail_keeps ?_ k_ckpFail _ _ | with_reducible refine ckpPost_keeps ?_ k_ckpPost _ _ _
    | intro _ | split | dsimp +zetaDelta only

theorem execKeyErase_keeps {ps : Nat} {z s : State} (hz : Keeps ps z s) (hs : Sub 0x8effe8001 ps) (qp : Nat) (sub :
    Nat) : ∀ z', execKeyErase qp sub s = .next z' → Keeps ps z z' := by
  have k_keyGone : Sub 0x86ffe8001 ps := sub_of hs rfl
  have k_uniformRefuse : Sub 0x80008000 ps := sub_of hs rfl
  have k_endD : Sub 0x8000 ps := sub_of hs rfl
  have k_onStarted : Sub 0x0 ps := sub_of hs rfl
  have k_runDesc : Sub 0x8000 ps := sub_of hs rfl
  have k_modSec : Sub 0x80000000 ps := sub_of hs rfl
  intro z' e'
  unfold execKeyErase at e'
  cases e'
  repeat'
    first
    | with_reducible refine keeps_ite (fun _ => ?_) (fun _ => ?_) | extract_lets | with_reducible assumption
    | with_reducible refine keyGone_keeps ?_ k_keyGone _
    | with_reducible refine uniformRefuse_keeps ?_ k_uniformRefuse _ _
    | with_reducible refine endD_keeps ?_ k_endD _ _
    | with_reducible refine onStarted_keeps ?_ k_onStarted _ _ _ _ ?_
    | with_reducible refine runDesc_keeps ?_ k_runDesc _ _ _ | with_reducible refine modSec_keeps ?_ k_modSec _
    | intro _ | split | dsimp +zetaDelta only

theorem execMemkeyLoad_keeps {ps : Nat} {z s : State} (hz : Keeps ps z s) (hs : Sub 0x80808002 ps) (qp : Nat) (sub :
    Nat) : ∀ z', execMemkeyLoad qp sub s = .next z' → Keeps ps z z' := by
  have k_uniformRefuse : Sub 0x80008000 ps := sub_of hs rfl
  have k_endD : Sub 0x8000 ps := sub_of hs rfl
  have k_onStarted : Sub 0x0 ps := sub_of hs rfl
  have k_modIme : Sub 0x800000 ps := sub_of hs rfl
  have k_draws : Sub 0x2 ps := sub_of hs rfl
  intro z' e'
  unfold execMemkeyLoad at e'
  cases e'
  repeat'
    first
    | with_reducible refine keeps_ite (fun _ => ?_) (fun _ => ?_) | extract_lets | with_reducible assumption
    | with_reducible refine uniformRefuse_keeps ?_ k_uniformRefuse _ _
    | with_reducible refine endD_keeps ?_ k_endD _ _
    | with_reducible refine onStarted_keeps ?_ k_onStarted _ _ _ _ ?_
    | with_reducible refine modIme_keeps ?_ k_modIme _
    | fail_if_no_progress with_reducible refine keeps_set_draws ?_ k_draws _ | intro _ | split
    | dsimp +zetaDelta only

theorem execMemkeyErase_keeps {ps : Nat} {z s : State} (hz : Keeps ps z s) (hs : Sub 0x80808000 ps) (qp : Nat) (sub
    : Nat) : ∀ z', execMemkeyErase qp sub s = .next z' → Keeps ps z z' := by
  have k_uniformRefuse : Sub 0x80008000 ps := sub_of hs rfl
  have k_endD : Sub 0x8000 ps := sub_of hs rfl
  have k_onStarted : Sub 0x0 ps := sub_of hs rfl
  have k_modIme : Sub 0x800000 ps := sub_of hs rfl
  intro z' e'
  unfold execMemkeyErase at e'
  cases e'
  repeat'
    first
    | with_reducible refine keeps_ite (fun _ => ?_) (fun _ => ?_) | extract_lets | with_reducible assumption
    | with_reducible refine uniformRefuse_keeps ?_ k_uniformRefuse _ _
    | with_reducible refine endD_keeps ?_ k_endD _ _
    | with_reducible refine onStarted_keeps ?_ k_onStarted _ _ _ _ ?_
    | with_reducible refine modIme_keeps ?_ k_modIme _ | intro _ | dsimp +zetaDelta only

theorem execWeightMeasure_keeps {ps : Nat} {z s : State} (hz : Keeps ps z s) (hs : Sub 0x8c0fa8000 ps) (qp : Nat)
    (sub : Nat) : ∀ z', execWeightMeasure qp sub s = .next z' → Keeps ps z z' := by
  have k_weightChain : Sub 0x80000000 ps := sub_of hs rfl
  have k_endD : Sub 0x8000 ps := sub_of hs rfl
  have k_storeMem : Sub 0x840fa8000 ps := sub_of hs rfl
  have k_guarded : Sub 0x8000 ps := sub_of hs rfl
  have k_onStarted : Sub 0x0 ps := sub_of hs rfl
  intro z' e'
  unfold execWeightMeasure at e'
  cases e'
  repeat'
    first
    | with_reducible refine keeps_ite (fun _ => ?_) (fun _ => ?_) | extract_lets | with_reducible assumption
    | with_reducible refine weightChain_keeps ?_ k_weightChain _ | with_reducible refine endD_keeps ?_ k_endD _ _
    | with_reducible refine storeMem_keeps ?_ k_storeMem _ _ _ _
    | with_reducible refine guarded_keeps ?_ k_guarded _ _ _ ?_
    | with_reducible refine onStarted_keeps ?_ k_onStarted _ _ _ _ ?_ | intro _ | dsimp +zetaDelta only

theorem execLogExport_keeps {ps : Nat} {z s : State} (hz : Keeps ps z s) (hs : Sub 0x80008000 ps) (qp : Nat) (sub :
    Nat) : ∀ z', execLogExport qp sub s = .next z' → Keeps ps z z' := by
  have k_pkDesc : Sub 0x80008000 ps := sub_of hs rfl
  have k_uniformRefuse : Sub 0x80008000 ps := sub_of hs rfl
  have k_guarded : Sub 0x8000 ps := sub_of hs rfl
  have k_onStarted : Sub 0x0 ps := sub_of hs rfl
  intro z' e'
  unfold execLogExport at e'
  cases e'
  repeat'
    first
    | with_reducible refine keeps_ite (fun _ => ?_) (fun _ => ?_) | extract_lets | with_reducible assumption
    | with_reducible refine pkDesc_keeps ?_ k_pkDesc _ _
    | with_reducible refine uniformRefuse_keeps ?_ k_uniformRefuse _ _
    | with_reducible refine guarded_keeps ?_ k_guarded _ _ _ ?_
    | with_reducible refine onStarted_keeps ?_ k_onStarted _ _ _ _ ?_ | intro _ | dsimp +zetaDelta only

theorem exportEnds_keeps {ps : Nat} {z s : State} (hz : Keeps ps z s) (hs : Sub 0x840fa8002 ps) (d : Desc) :
    Keeps ps z (exportEnds d s) := by
  have k_endD : Sub 0x8000 ps := sub_of hs rfl
  have k_storeMem : Sub 0x840fa8000 ps := sub_of hs rfl
  have k_tookFree : Sub 0x2 ps := sub_of hs rfl
  unfold exportEnds
  repeat'
    first
    | with_reducible refine keeps_ite (fun _ => ?_) (fun _ => ?_) | extract_lets | with_reducible assumption
    | with_reducible refine endD_keeps ?_ k_endD _ _ | with_reducible refine storeMem_keeps ?_ k_storeMem _ _ _ _
    | with_reducible refine tookFree_keeps ?_ k_tookFree | intro _ | dsimp +zetaDelta only

theorem hsFail_keeps {ps : Nat} {z s : State} (hz : Keeps ps z s) (hs : Sub 0x81000001 ps) (p : Nat) :
    Keeps ps z (hsFail p s) := by
  have k_sendPort : Sub 0x1000001 ps := sub_of hs rfl
  have k_modPort : Sub 0x1000000 ps := sub_of hs rfl
  have k_sealLog : Sub 0x80000000 ps := sub_of hs rfl
  unfold hsFail
  repeat'
    first
    | extract_lets | with_reducible assumption | with_reducible refine sendPort_keeps ?_ k_sendPort _ _
    | with_reducible refine modPort_keeps ?_ k_modPort _ _
    | with_reducible refine sealLog_keeps ?_ k_sealLog _ _ _ _ | intro _ | split | dsimp +zetaDelta only

theorem hsSlot_keeps {ps : Nat} {z s : State} (hz : Keeps ps z s) (hs : Sub 0x81000000 ps) (p : Nat) :
    Keeps ps z (hsSlot p s) := by
  have k_pkAsk : Sub 0x80000000 ps := sub_of hs rfl
  have k_modPort : Sub 0x1000000 ps := sub_of hs rfl
  unfold hsSlot
  repeat'
    first
    | with_reducible refine keeps_ite (fun _ => ?_) (fun _ => ?_) | with_reducible assumption
    | with_reducible refine pkAsk_keeps ?_ k_pkAsk _ | with_reducible refine modPort_keeps ?_ k_modPort _ _
    | intro _

theorem execOffer_keeps {ps : Nat} {z s : State} (hz : Keeps ps z s) (hs : Sub 0x81000003 ps) (port : Nat) (switch :
    Bool) (b : List Byte) : ∀ z', execOffer port switch b s = .next z' → Keeps ps z z' := by
  have k_hsSlot : Sub 0x81000000 ps := sub_of hs rfl
  have k_hsFail : Sub 0x81000001 ps := sub_of hs rfl
  have k_hsOffer : Sub 0x81000003 ps := sub_of hs rfl
  have k_modPort : Sub 0x1000000 ps := sub_of hs rfl
  intro z' e'
  unfold execOffer at e'
  cases e'
  repeat'
    first
    | with_reducible refine keeps_ite (fun _ => ?_) (fun _ => ?_) | extract_lets | with_reducible assumption
    | with_reducible refine hsSlot_keeps ?_ k_hsSlot _ | with_reducible refine hsFail_keeps ?_ k_hsFail _
    | with_reducible refine hsOffer_keeps ?_ k_hsOffer _ | with_reducible refine modPort_keeps ?_ k_modPort _ _
    | intro _ | dsimp +zetaDelta only

theorem execProof_keeps {ps : Nat} {z s : State} (hz : Keeps ps z s) (hs : Sub 0x81000000 ps) (port : Nat) (sig :
    List Byte) : ∀ z', execProof port sig s = .next z' → Keeps ps z z' := by
  have k_hsSlot : Sub 0x81000000 ps := sub_of hs rfl
  have k_modPort : Sub 0x1000000 ps := sub_of hs rfl
  intro z' e'
  unfold execProof at e'
  cases e'
  repeat'
    first
    | with_reducible refine keeps_ite (fun _ => ?_) (fun _ => ?_) | extract_lets | with_reducible assumption
    | with_reducible refine hsSlot_keeps ?_ k_hsSlot _ | with_reducible refine modPort_keeps ?_ k_modPort _ _
    | intro _ | dsimp +zetaDelta only

theorem hsFinishes_keeps {ps : Nat} {z s : State} (hz : Keeps ps z s) (hs : Sub 0x85008001 ps) (p : Nat) (mac : List
    Byte) : Keeps ps z (hsFinishes p mac s) := by
  have k_hsFail : Sub 0x81000001 ps := sub_of hs rfl
  have k_enterUp : Sub 0x5008001 ps := sub_of hs rfl
  have k_cableCheck : Sub 0x1008000 ps := sub_of hs rfl
  have k_modPort : Sub 0x1000000 ps := sub_of hs rfl
  unfold hsFinishes
  repeat'
    first
    | with_reducible refine keeps_ite (fun _ => ?_) (fun _ => ?_) | extract_lets | with_reducible assumption
    | with_reducible refine hsFail_keeps ?_ k_hsFail _ | with_reducible refine enterUp_keeps ?_ k_enterUp _
    | with_reducible refine cableCheck_keeps ?_ k_cableCheck _
    | with_reducible refine modPort_keeps ?_ k_modPort _ _ | intro _ | dsimp +zetaDelta only

theorem execFinish_keeps {ps : Nat} {z s : State} (hz : Keeps ps z s) (hs : Sub 0x85008001 ps) (port : Nat) (mac :
    List Byte) : ∀ z', execFinish port mac s = .next z' → Keeps ps z z' := by
  have k_hsFinishes : Sub 0x85008001 ps := sub_of hs rfl
  have k_modPort : Sub 0x1000000 ps := sub_of hs rfl
  intro z' e'
  unfold execFinish at e'
  cases e'
  repeat'
    first
    | with_reducible refine keeps_ite (fun _ => ?_) (fun _ => ?_) | extract_lets | with_reducible assumption
    | with_reducible refine hsFinishes_keeps ?_ k_hsFinishes _ _
    | with_reducible refine modPort_keeps ?_ k_modPort _ _ | intro _ | dsimp +zetaDelta only

theorem execReject_keeps {ps : Nat} {z s : State} (hz : Keeps ps z s) (hs : Sub 0x81000000 ps) (port : Nat) :
    ∀ z', execReject port s = .next z' → Keeps ps z z' := by
  have k_modPort : Sub 0x1000000 ps := sub_of hs rfl
  have k_sealLog : Sub 0x80000000 ps := sub_of hs rfl
  intro z' e'
  unfold execReject at e'
  cases e'
  repeat'
    first
    | with_reducible refine keeps_ite (fun _ => ?_) (fun _ => ?_) | extract_lets | with_reducible assumption
    | with_reducible refine modPort_keeps ?_ k_modPort _ _
    | with_reducible refine sealLog_keeps ?_ k_sealLog _ _ _ _ | intro _ | split | dsimp +zetaDelta only

theorem execHandshakeRetry_keeps {ps : Nat} {z s : State} (hz : Keeps ps z s) (hs : Sub 0x81000003 ps) (port : Nat)
    : ∀ z', execHandshakeRetry port s = .next z' → Keeps ps z z' := by
  have k_hsBegin : Sub 0x81000003 ps := sub_of hs rfl
  have k_modPort : Sub 0x1000000 ps := sub_of hs rfl
  intro z' e'
  unfold execHandshakeRetry at e'
  cases e'
  repeat'
    first
    | with_reducible refine keeps_ite (fun _ => ?_) (fun _ => ?_) | extract_lets | with_reducible assumption
    | with_reducible refine hsBegin_keeps ?_ k_hsBegin _ | with_reducible refine modPort_keeps ?_ k_modPort _ _
    | intro _ | dsimp +zetaDelta only

theorem portSlotEnds_keeps {ps : Nat} {z s : State} (hz : Keeps ps z s) (hs : Sub 0x85008001 ps) (p : Nat) :
    Keeps ps z (portSlotEnds p s) := by
  have k_hsFinishes : Sub 0x85008001 ps := sub_of hs rfl
  have k_hsSlot : Sub 0x81000000 ps := sub_of hs rfl
  have k_hsFail : Sub 0x81000001 ps := sub_of hs rfl
  have k_sendPort : Sub 0x1000001 ps := sub_of hs rfl
  have k_modPort : Sub 0x1000000 ps := sub_of hs rfl
  unfold portSlotEnds
  repeat'
    first
    | with_reducible refine keeps_ite (fun _ => ?_) (fun _ => ?_) | extract_lets | with_reducible assumption
    | with_reducible refine hsFinishes_keeps ?_ k_hsFinishes _ _ | with_reducible refine hsSlot_keeps ?_ k_hsSlot _
    | with_reducible refine hsFail_keeps ?_ k_hsFail _ | with_reducible refine sendPort_keeps ?_ k_sendPort _ _
    | with_reducible refine modPort_keeps ?_ k_modPort _ _ | intro _ | dsimp +zetaDelta only

theorem descSlotEnds_keeps {ps : Nat} {z s : State} (hz : Keeps ps z s) (hs : Sub 0x8c0fa8002 ps) (q : Nat) (u :
    Nat) (b : List Byte) : Keeps ps z (descSlotEnds q u b s) := by
  have k_exportEnds : Sub 0x840fa8002 ps := sub_of hs rfl
  have k_importEnds : Sub 0x80008000 ps := sub_of hs rfl
  have k_reportEnds : Sub 0x8c0fa8000 ps := sub_of hs rfl
  have k_openKeys : Sub 0x80800002 ps := sub_of hs rfl
  unfold descSlotEnds
  repeat'
    first
    | with_reducible refine keeps_ite (fun _ => ?_) (fun _ => ?_) | with_reducible assumption
    | with_reducible refine exportEnds_keeps ?_ k_exportEnds _
    | with_reducible refine importEnds_keeps ?_ k_importEnds _ _
    | with_reducible refine reportEnds_keeps ?_ k_reportEnds _ _
    | with_reducible refine openKeys_keeps ?_ k_openKeys | intro _ | split

theorem spdmSlotEnds_keeps {ps : Nat} {z s : State} (hz : Keeps ps z s) (hs : Sub 0x4001 ps) (kind : Nat) (msg :
    List Byte) : Keeps ps z (spdmSlotEnds kind msg s) := by
  have k_emit : Sub 0x1 ps := sub_of hs rfl
  have k_modHif : Sub 0x4000 ps := sub_of hs rfl
  unfold spdmSlotEnds
  repeat'
    first
    | with_reducible refine keeps_ite (fun _ => ?_) (fun _ => ?_) | extract_lets | with_reducible assumption
    | with_reducible refine emit_keeps ?_ k_emit _ | with_reducible refine modHif_keeps ?_ k_modHif _ | intro _
    | dsimp +zetaDelta only

theorem execPublicKeySlotEnd_keeps {ps : Nat} {z s : State} (hz : Keeps ps z s) (hs : Sub 0x8c5fac003 ps)  :
    ∀ z', execPublicKeySlotEnd s = .next z' → Keeps ps z z' := by
  have k_spdmSlotEnds : Sub 0x4001 ps := sub_of hs rfl
  have k_descSlotEnds : Sub 0x8c0fa8002 ps := sub_of hs rfl
  have k_portSlotEnds : Sub 0x85008001 ps := sub_of hs rfl
  have k_modSec : Sub 0x80000000 ps := sub_of hs rfl
  intro z' e'
  unfold execPublicKeySlotEnd at e'
  cases e'
  repeat'
    first
    | extract_lets | with_reducible assumption | with_reducible refine spdmSlotEnds_keeps ?_ k_spdmSlotEnds _ _
    | with_reducible refine descSlotEnds_keeps ?_ k_descSlotEnds _ _ _
    | with_reducible refine portSlotEnds_keeps ?_ k_portSlotEnds _
    | with_reducible refine modSec_keeps ?_ k_modSec _ | intro _ | split | dsimp +zetaDelta only

theorem execUniformRefusalWrite_keeps {ps : Nat} {z s : State} (hz : Keeps ps z s) (hs : Sub 0x80008000 ps) (qp :
    Nat) (sub : Nat) : ∀ z', execUniformRefusalWrite qp sub s = .next z' → Keeps ps z z' := by
  have k_endDesc : Sub 0x8000 ps := sub_of hs rfl
  have k_modSec : Sub 0x80000000 ps := sub_of hs rfl
  intro z' e'
  unfold execUniformRefusalWrite at e'
  cases e'
  repeat'
    first
    | with_reducible refine keeps_ite (fun _ => ?_) (fun _ => ?_) | with_reducible assumption
    | with_reducible refine endDesc_keeps ?_ k_endDesc _ _ _ | with_reducible refine modSec_keeps ?_ k_modSec _
    | intro _

theorem execEntropyHealthFailure_keeps {ps : Nat} {z s : State} (hz : Keeps ps z s) (hs : Sub 0x80000000 ps)  :
    ∀ z', execEntropyHealthFailure s = .next z' → Keeps ps z z' := by
  have k_modSec : Sub 0x80000000 ps := sub_of hs rfl
  intro z' e'
  unfold execEntropyHealthFailure at e'
  cases e'
  repeat'
    first
    | with_reducible assumption | with_reducible refine modSec_keeps ?_ k_modSec _ | intro _

theorem execEntropyHealthRestored_keeps {ps : Nat} {z s : State} (hz : Keeps ps z s) (hs : Sub 0x80000000 ps)  :
    ∀ z', execEntropyHealthRestored s = .next z' → Keeps ps z z' := by
  have k_modSec : Sub 0x80000000 ps := sub_of hs rfl
  intro z' e'
  unfold execEntropyHealthRestored at e'
  cases e'
  repeat'
    first
    | with_reducible assumption | with_reducible refine modSec_keeps ?_ k_modSec _ | intro _

end Sys2Proof.Laws
end

