-- ==== Sys2Proof/Laws/KeepsHost.lean ====
section
/-!
SUPPORT. Sys2Proof/Laws/KeepsHost.lean: the operations of Sys2Proof/Machine/Host.lean keep what Laws/Keeps.lean says.
-/
namespace Sys2Proof.Laws
open Sys2Proof.Machine

theorem vfReport_keeps {ps : Nat} {z s : State} (hz : Keeps ps z s) (hs : Sub 0x4000 ps) (op : Nat) (v : Nat)
    (status : Nat) : Keeps ps z (vfReport op v status s) := by
  have k_modVf : Sub 0x4000 ps := sub_of hs rfl
  have k_modHif : Sub 0x4000 ps := sub_of hs rfl
  unfold vfReport
  repeat'
    first
    | with_reducible refine keeps_ite (fun _ => ?_) (fun _ => ?_) | extract_lets | with_reducible assumption
    | with_reducible refine modVf_keeps ?_ k_modVf _ _ | with_reducible refine modHif_keeps ?_ k_modHif _ | intro _
    | dsimp +zetaDelta only

theorem commitIdle_keeps {ps : Nat} {z s : State} (hz : Keeps ps z s) (hs : Sub 0x4000 ps) (v : Nat) (good : Nat) :
    Keeps ps z (commitIdle v good s) := by
  have k_vfReport : Sub 0x4000 ps := sub_of hs rfl
  have k_modVf : Sub 0x4000 ps := sub_of hs rfl
  unfold commitIdle
  repeat'
    first
    | with_reducible refine keeps_ite (fun _ => ?_) (fun _ => ?_) | extract_lets | with_reducible assumption
    | with_reducible refine vfReport_keeps ?_ k_vfReport _ _ _ | with_reducible refine modVf_keeps ?_ k_modVf _ _
    | intro _ | dsimp +zetaDelta only

theorem commitVf_keeps {ps : Nat} {z s : State} (hz : Keeps ps z s) (hs : Sub 0x4000 ps) (v : Nat) :
    Keeps ps z (commitVf v s) := by
  have k_commitIdle : Sub 0x4000 ps := sub_of hs rfl
  have k_vfReport : Sub 0x4000 ps := sub_of hs rfl
  have k_modVf : Sub 0x4000 ps := sub_of hs rfl
  unfold commitVf
  repeat'
    first
    | with_reducible refine keeps_ite (fun _ => ?_) (fun _ => ?_) | extract_lets | with_reducible assumption
    | with_reducible refine commitIdle_keeps ?_ k_commitIdle _ _
    | with_reducible refine vfReport_keeps ?_ k_vfReport _ _ _ | with_reducible refine modVf_keeps ?_ k_modVf _ _
    | intro _ | split | dsimp +zetaDelta only

theorem execCommit_keeps {ps : Nat} {z s : State} (hz : Keeps ps z s) (hs : Sub 0x4000 ps) (src : Src) (v : Nat) :
    ∀ z', execCommit src v s = .next z' → Keeps ps z z' := by
  have k_commitVf : Sub 0x4000 ps := sub_of hs rfl
  intro z' e'
  unfold execCommit at e'
  cases e'
  repeat'
    first
    | with_reducible refine keeps_ite (fun _ => ?_) (fun _ => ?_) | with_reducible assumption
    | with_reducible refine commitVf_keeps ?_ k_commitVf _ | intro _

theorem beginTeardown_keeps {ps : Nat} {z s : State} (hz : Keeps ps z s) (hs : Sub 0xc000 ps) (v : Nat) (flr : Bool)
    : Keeps ps z (beginTeardown v flr s) := by
  have k_modVf : Sub 0x4000 ps := sub_of hs rfl
  have k_mapDescs : Sub 0x8000 ps := sub_of hs rfl
  have k_modCmd : Sub 0x8000 ps := sub_of hs rfl
  unfold beginTeardown
  repeat'
    first
    | with_reducible refine keeps_ite (fun _ => ?_) (fun _ => ?_) | extract_lets | with_reducible assumption
    | with_reducible refine modVf_keeps ?_ k_modVf _ _ | with_reducible refine mapDescs_keeps ?_ k_mapDescs _
    | with_reducible refine modCmd_keeps ?_ k_modCmd _ | intro _ | dsimp +zetaDelta only

theorem dropHeld_keeps {ps : Nat} {z s : State} (hz : Keeps ps z s) (hs : Sub 0x4000 ps) (v : Nat) :
    Keeps ps z (dropHeld v s) := by
  have k_vfReport : Sub 0x4000 ps := sub_of hs rfl
  have k_modVf : Sub 0x4000 ps := sub_of hs rfl
  unfold dropHeld
  repeat'
    first
    | with_reducible assumption | with_reducible refine vfReport_keeps ?_ k_vfReport _ _ _
    | with_reducible refine modVf_keeps ?_ k_modVf _ _ | intro _

theorem releaseVf_keeps {ps : Nat} {z s : State} (hz : Keeps ps z s) (hs : Sub 0xc000 ps) (v : Nat) :
    Keeps ps z (releaseVf v s) := by
  have k_dropHeld : Sub 0x4000 ps := sub_of hs rfl
  have k_beginTeardown : Sub 0xc000 ps := sub_of hs rfl
  have k_vfReport : Sub 0x4000 ps := sub_of hs rfl
  have k_modVf : Sub 0x4000 ps := sub_of hs rfl
  unfold releaseVf
  repeat'
    first
    | with_reducible refine keeps_ite (fun _ => ?_) (fun _ => ?_) | extract_lets | with_reducible assumption
    | with_reducible refine dropHeld_keeps ?_ k_dropHeld _
    | with_reducible refine beginTeardown_keeps ?_ k_beginTeardown _ _
    | with_reducible refine vfReport_keeps ?_ k_vfReport _ _ _ | with_reducible refine modVf_keeps ?_ k_modVf _ _
    | intro _ | split | dsimp +zetaDelta only

theorem execRelease_keeps {ps : Nat} {z s : State} (hz : Keeps ps z s) (hs : Sub 0xc000 ps) (src : Src) (v : Nat) :
    ∀ z', execRelease src v s = .next z' → Keeps ps z z' := by
  have k_releaseVf : Sub 0xc000 ps := sub_of hs rfl
  intro z' e'
  unfold execRelease at e'
  cases e'
  repeat'
    first
    | with_reducible refine keeps_ite (fun _ => ?_) (fun _ => ?_) | with_reducible assumption
    | with_reducible refine releaseVf_keeps ?_ k_releaseVf _ | intro _

theorem disableVf_keeps {ps : Nat} {z s : State} (hz : Keeps ps z s) (hs : Sub 0xc000 ps) (v : Nat) :
    Keeps ps z (disableVf v s) := by
  have k_dropHeld : Sub 0x4000 ps := sub_of hs rfl
  have k_beginTeardown : Sub 0xc000 ps := sub_of hs rfl
  have k_modVf : Sub 0x4000 ps := sub_of hs rfl
  unfold disableVf
  repeat'
    first
    | with_reducible assumption | with_reducible refine dropHeld_keeps ?_ k_dropHeld _
    | with_reducible refine beginTeardown_keeps ?_ k_beginTeardown _ _
    | with_reducible refine modVf_keeps ?_ k_modVf _ _ | intro _ | split

theorem disableVfs_keeps {ps : Nat} {z s : State} (hz : Keeps ps z s) (hs : Sub 0xc000 ps)  :
    Keeps ps z (disableVfs s) := by
  have k_disableVf : Sub 0xc000 ps := sub_of hs rfl
  unfold disableVfs
  repeat'
    first
    | with_reducible refine keeps_foldl ?_ ?_ | with_reducible assumption
    | with_reducible refine disableVf_keeps ?_ k_disableVf _ | intro _

theorem execNumvfsWrite_keeps {ps : Nat} {z s : State} (hz : Keeps ps z s) (hs : Sub 0xc000 ps) (n : Nat) :
    ∀ z', execNumvfsWrite n s = .next z' → Keeps ps z z' := by
  have k_disableVfs : Sub 0xc000 ps := sub_of hs rfl
  have k_modHif : Sub 0x4000 ps := sub_of hs rfl
  intro z' e'
  unfold execNumvfsWrite at e'
  cases e'
  repeat'
    first
    | with_reducible refine keeps_ite (fun _ => ?_) (fun _ => ?_) | with_reducible assumption
    | with_reducible refine disableVfs_keeps ?_ k_disableVfs | with_reducible refine modHif_keeps ?_ k_modHif _
    | intro _

theorem execVfEnableWrite_keeps {ps : Nat} {z s : State} (hz : Keeps ps z s) (hs : Sub 0xc000 ps) (on : Bool) :
    ∀ z', execVfEnableWrite on s = .next z' → Keeps ps z z' := by
  have k_disableVfs : Sub 0xc000 ps := sub_of hs rfl
  have k_modHif : Sub 0x4000 ps := sub_of hs rfl
  intro z' e'
  unfold execVfEnableWrite at e'
  cases e'
  repeat'
    first
    | with_reducible refine keeps_ite (fun _ => ?_) (fun _ => ?_) | with_reducible assumption
    | with_reducible refine disableVfs_keeps ?_ k_disableVfs | with_reducible refine modHif_keeps ?_ k_modHif _
    | intro _

theorem execVfResizableBarWrite_keeps {ps : Nat} {z s : State} (hz : Keeps ps z s) (hs : Sub 0x4000 ps) (mib : Nat)
    : ∀ z', execVfResizableBarWrite mib s = .next z' → Keeps ps z z' := by
  have k_modHif : Sub 0x4000 ps := sub_of hs rfl
  intro z' e'
  unfold execVfResizableBarWrite at e'
  cases e'
  repeat'
    first
    | with_reducible refine keeps_ite (fun _ => ?_) (fun _ => ?_) | with_reducible assumption
    | with_reducible refine modHif_keeps ?_ k_modHif _ | intro _

theorem execVfHostDrain_keeps {ps : Nat} {z s : State} (hz : Keeps ps z s) (hs : Sub 0x4000 ps) (v : Nat) (reads :
    Nat) : ∀ z', execVfHostDrain v reads s = .next z' → Keeps ps z z' := by
  have k_modVf : Sub 0x4000 ps := sub_of hs rfl
  have k_modHif : Sub 0x4000 ps := sub_of hs rfl
  intro z' e'
  unfold execVfHostDrain at e'
  cases e'
  repeat'
    first
    | with_reducible refine keeps_ite (fun _ => ?_) (fun _ => ?_) | with_reducible assumption
    | with_reducible refine modVf_keeps ?_ k_modVf _ _ | with_reducible refine modHif_keeps ?_ k_modHif _ | intro _

theorem destroyFn_keeps {ps : Nat} {z s : State} (hz : Keeps ps z s) (hs : Sub 0xeefffc001 ps) (fn : Nat) :
    Keeps ps z (destroyFn fn s) := by
  have k_forceDestroy : Sub 0xeefffc001 ps := sub_of hs rfl
  have k_freeQpSlot : Sub 0x86ffec001 ps := sub_of hs rfl
  have k_abortDescs : Sub 0x8000 ps := sub_of hs rfl
  have k_mapDescs : Sub 0x8000 ps := sub_of hs rfl
  unfold destroyFn
  repeat'
    first
    | with_reducible refine keeps_foldl ?_ ?_ | with_reducible refine keeps_ite (fun _ => ?_) (fun _ => ?_)
    | extract_lets | with_reducible assumption | with_reducible refine forceDestroy_keeps ?_ k_forceDestroy _
    | with_reducible refine freeQpSlot_keeps ?_ k_freeQpSlot _
    | with_reducible refine abortDescs_keeps ?_ k_abortDescs _
    | with_reducible refine mapDescs_keeps ?_ k_mapDescs _ | intro _ | dsimp +zetaDelta only

theorem execVfContextsAborted_keeps {ps : Nat} {z s : State} (hz : Keeps ps z s) (hs : Sub 0xeefffc001 ps) (v : Nat)
    : ∀ z', execVfContextsAborted v s = .next z' → Keeps ps z z' := by
  have k_destroyFn : Sub 0xeefffc001 ps := sub_of hs rfl
  have k_modVf : Sub 0x4000 ps := sub_of hs rfl
  intro z' e'
  unfold execVfContextsAborted at e'
  cases e'
  repeat'
    first
    | with_reducible refine keeps_ite (fun _ => ?_) (fun _ => ?_) | with_reducible assumption
    | with_reducible refine destroyFn_keeps ?_ k_destroyFn _ | with_reducible refine modVf_keeps ?_ k_modVf _ _
    | intro _

theorem execVfResourcesAccounted_keeps {ps : Nat} {z s : State} (hz : Keeps ps z s) (hs : Sub 0x4000 ps) (v : Nat) :
    ∀ z', execVfResourcesAccounted v s = .next z' → Keeps ps z z' := by
  have k_modVf : Sub 0x4000 ps := sub_of hs rfl
  have k_modHif : Sub 0x4000 ps := sub_of hs rfl
  intro z' e'
  unfold execVfResourcesAccounted at e'
  cases e'
  repeat'
    first
    | with_reducible refine keeps_ite (fun _ => ?_) (fun _ => ?_) | with_reducible assumption
    | with_reducible refine modVf_keeps ?_ k_modVf _ _ | with_reducible refine modHif_keeps ?_ k_modHif _ | intro _

theorem teardownIdle_keeps {ps : Nat} {z s : State} (hz : Keeps ps z s) (hs : Sub 0x4000 ps) (v : Nat) :
    Keeps ps z (teardownIdle v s) := by
  have k_vfReport : Sub 0x4000 ps := sub_of hs rfl
  have k_modVf : Sub 0x4000 ps := sub_of hs rfl
  have k_modHif : Sub 0x4000 ps := sub_of hs rfl
  unfold teardownIdle
  repeat'
    first
    | with_reducible refine keeps_foldl ?_ ?_ | extract_lets | with_reducible assumption
    | with_reducible refine vfReport_keeps ?_ k_vfReport _ _ _ | with_reducible refine modVf_keeps ?_ k_modVf _ _
    | with_reducible refine modHif_keeps ?_ k_modHif _ | intro _ | dsimp +zetaDelta only

theorem execVfTeardownEnd_keeps {ps : Nat} {z s : State} (hz : Keeps ps z s) (hs : Sub 0x4000 ps) (v : Nat) :
    ∀ z', execVfTeardownEnd v s = .next z' → Keeps ps z z' := by
  have k_teardownIdle : Sub 0x4000 ps := sub_of hs rfl
  have k_commitIdle : Sub 0x4000 ps := sub_of hs rfl
  have k_modVf : Sub 0x4000 ps := sub_of hs rfl
  intro z' e'
  unfold execVfTeardownEnd at e'
  cases e'
  repeat'
    first
    | with_reducible refine keeps_ite (fun _ => ?_) (fun _ => ?_) | extract_lets | with_reducible assumption
    | with_reducible refine teardownIdle_keeps ?_ k_teardownIdle _
    | with_reducible refine commitIdle_keeps ?_ k_commitIdle _ _ | with_reducible refine modVf_keeps ?_ k_modVf _ _
    | intro _ | dsimp +zetaDelta only

theorem execGranuleZeroed_keeps {ps : Nat} {z s : State} (hz : Keeps ps z s) (hs : Sub 0x4000 ps) (fn : Nat) :
    ∀ z', execGranuleZeroed fn s = .next z' → Keeps ps z z' := by
  have k_modHif : Sub 0x4000 ps := sub_of hs rfl
  intro z' e'
  unfold execGranuleZeroed at e'
  cases e'
  repeat'
    first
    | with_reducible refine keeps_ite (fun _ => ?_) (fun _ => ?_) | with_reducible assumption
    | with_reducible refine modHif_keeps ?_ k_modHif _ | intro _

theorem execCompletionTimeout_keeps {ps : Nat} {z s : State} (hz : Keeps ps z s) (hs : Sub 0xe6fffe281 ps)
    (qp sub : Nat) (fetch : Bool) : ∀ z', execCompletionTimeout qp sub fetch s = .next z' → Keeps ps z z' := by
  have k_execFetchError : Sub 0xe6fffa281 ps := sub_of hs rfl
  have k_endDesc : Sub 0x8000 ps := sub_of hs rfl
  have k_modHif : Sub 0x4000 ps := sub_of hs rfl
  intro z' e'
  unfold execCompletionTimeout at e'
  split at e'
  · exact execFetchError_keeps hz k_execFetchError qp z' e'
  · cases e'
    repeat'
      first
      | with_reducible assumption | with_reducible refine keeps_ite (fun _ => ?_) (fun _ => ?_)
      | with_reducible refine endDesc_keeps ?_ k_endDesc _ _ _ | with_reducible refine modHif_keeps ?_ k_modHif _ | split

theorem clearMsix_keeps {ps : Nat} {z s : State} (hz : Keeps ps z s) (hs : Sub 0x4000 ps) (fn : Nat) :
    Keeps ps z (clearMsix fn s) := by
  have k_modHif : Sub 0x4000 ps := sub_of hs rfl
  unfold clearMsix
  repeat'
    first
    | with_reducible assumption | with_reducible refine modHif_keeps ?_ k_modHif _ | intro _

theorem execVfFlr_keeps {ps : Nat} {z s : State} (hz : Keeps ps z s) (hs : Sub 0xc000 ps) (v : Nat) :
    ∀ z', execVfFlr v s = .next z' → Keeps ps z z' := by
  have k_clearMsix : Sub 0x4000 ps := sub_of hs rfl
  have k_beginTeardown : Sub 0xc000 ps := sub_of hs rfl
  intro z' e'
  unfold execVfFlr at e'
  cases e'
  repeat'
    first
    | with_reducible refine keeps_ite (fun _ => ?_) (fun _ => ?_) | extract_lets | with_reducible assumption
    | with_reducible refine clearMsix_keeps ?_ k_clearMsix _
    | with_reducible refine beginTeardown_keeps ?_ k_beginTeardown _ _ | intro _ | dsimp +zetaDelta only

theorem tdiError_keeps {ps : Nat} {z s : State} (hz : Keeps ps z s) (hs : Sub 0xfffffffff ps)  :
    Keeps ps z (tdiError s) := by
  have k_sessionAbort : Sub 0xfffffffff ps := sub_of hs rfl
  have k_modHif : Sub 0x4000 ps := sub_of hs rfl
  unfold tdiError
  repeat'
    first
    | with_reducible refine keeps_ite (fun _ => ?_) (fun _ => ?_) | with_reducible assumption
    | with_reducible refine sessionAbort_keeps ?_ k_sessionAbort _
    | with_reducible refine modHif_keeps ?_ k_modHif _ | intro _

theorem pfFlr_keeps {ps : Nat} {z s : State} (hz : Keeps ps z s) (hs : Sub 0xfffffffff ps)  :
    Keeps ps z (pfFlr s) := by
  have k_tdiError : Sub 0xfffffffff ps := sub_of hs rfl
  have k_clearMsix : Sub 0x4000 ps := sub_of hs rfl
  have k_destroyFn : Sub 0xeefffc001 ps := sub_of hs rfl
  have k_modCmd : Sub 0x8000 ps := sub_of hs rfl
  have k_modHif : Sub 0x4000 ps := sub_of hs rfl
  unfold pfFlr
  repeat'
    first
    | with_reducible refine keeps_foldl ?_ ?_ | with_reducible refine keeps_ite (fun _ => ?_) (fun _ => ?_)
    | extract_lets | with_reducible assumption | with_reducible refine tdiError_keeps ?_ k_tdiError
    | with_reducible refine clearMsix_keeps ?_ k_clearMsix _
    | with_reducible refine destroyFn_keeps ?_ k_destroyFn _ | with_reducible refine modCmd_keeps ?_ k_modCmd _
    | with_reducible refine modHif_keeps ?_ k_modHif _ | intro _ | dsimp +zetaDelta only

theorem execPfFlr_keeps {ps : Nat} {z s : State} (hz : Keeps ps z s) (hs : Sub 0xfffffffff ps)  :
    ∀ z', execPfFlr s = .next z' → Keeps ps z z' := by
  have k_pfFlr : Sub 0xfffffffff ps := sub_of hs rfl
  intro z' e'
  unfold execPfFlr at e'
  cases e'
  repeat'
    first
    | with_reducible refine keeps_ite (fun _ => ?_) (fun _ => ?_) | with_reducible assumption
    | with_reducible refine pfFlr_keeps ?_ k_pfFlr | intro _

theorem execHostLinkError_keeps {ps : Nat} {z s : State} (hz : Keeps ps z s) (hs : Sub 0x2281 ps)  :
    ∀ z', execHostLinkError s = .next z' → Keeps ps z z' := by
  have k_fltRecord : Sub 0x2280 ps := sub_of hs rfl
  have k_emit : Sub 0x1 ps := sub_of hs rfl
  intro z' e'
  unfold execHostLinkError at e'
  cases e'
  repeat'
    first
    | with_reducible refine keeps_ite (fun _ => ?_) (fun _ => ?_) | with_reducible assumption
    | with_reducible refine fltRecord_keeps ?_ k_fltRecord _ _ _ _ _ _ _
    | with_reducible refine emit_keeps ?_ k_emit _ | intro _

theorem execHostLinkDown_keeps {ps : Nat} {z s : State} (hz : Keeps ps z s) (hs : Sub 0xfffffffff ps)  :
    ∀ z', execHostLinkDown s = .next z' → Keeps ps z z' := by
  have k_pfFlr : Sub 0xfffffffff ps := sub_of hs rfl
  have k_fltRecord : Sub 0x2280 ps := sub_of hs rfl
  have k_modClk : Sub 0x40 ps := sub_of hs rfl
  intro z' e'
  unfold execHostLinkDown at e'
  cases e'
  repeat'
    first
    | with_reducible refine keeps_ite (fun _ => ?_) (fun _ => ?_) | with_reducible assumption
    | with_reducible refine pfFlr_keeps ?_ k_pfFlr
    | with_reducible refine fltRecord_keeps ?_ k_fltRecord _ _ _ _ _ _ _
    | with_reducible refine modClk_keeps ?_ k_modClk _ | intro _

theorem tdispAnswer_keeps {ps : Nat} {z s : State} (hz : Keeps ps z s) (hs : Sub 0x1 ps) (ok : Bool) :
    Keeps ps z (tdispAnswer ok s) := by
  have k_emit : Sub 0x1 ps := sub_of hs rfl
  unfold tdispAnswer
  repeat'
    first
    | with_reducible assumption | with_reducible refine emit_keeps ?_ k_emit _

theorem modIde_keeps {ps : Nat} {z s : State} (hz : Keeps ps z s) (hs : Sub 0x4000 ps) (n : Nat) (f : IdeStream →
    IdeStream) : Keeps ps z (modIde n f s) := by
  have k_modHif : Sub 0x4000 ps := sub_of hs rfl
  unfold modIde
  repeat'
    first
    | with_reducible assumption | with_reducible refine modHif_keeps ?_ k_modHif _ | intro _

theorem execIdeKmKeyProg_keeps {ps : Nat} {z s : State} (hz : Keeps ps z s) (hs : Sub 0x4001 ps) (stream : Nat) (key
    : BitVec 256) : ∀ z', execIdeKmKeyProg stream key s = .next z' → Keeps ps z z' := by
  have k_modIde : Sub 0x4000 ps := sub_of hs rfl
  have k_emit : Sub 0x1 ps := sub_of hs rfl
  intro z' e'
  unfold execIdeKmKeyProg at e'
  cases e'
  repeat'
    first
    | with_reducible refine keeps_ite (fun _ => ?_) (fun _ => ?_) | with_reducible assumption
    | with_reducible refine modIde_keeps ?_ k_modIde _ _ | with_reducible refine emit_keeps ?_ k_emit _ | intro _

theorem execIdeIntegrityFailure_keeps {ps : Nat} {z s : State} (hz : Keeps ps z s) (hs : Sub 0xfffffffff ps) (stream
    : Nat) : ∀ z', execIdeIntegrityFailure stream s = .next z' → Keeps ps z z' := by
  have k_modIde : Sub 0x4000 ps := sub_of hs rfl
  have k_tdiError : Sub 0xfffffffff ps := sub_of hs rfl
  intro z' e'
  unfold execIdeIntegrityFailure at e'
  cases e'
  repeat'
    first
    | with_reducible refine keeps_ite (fun _ => ?_) (fun _ => ?_) | extract_lets | with_reducible assumption
    | with_reducible refine modIde_keeps ?_ k_modIde _ _ | with_reducible refine tdiError_keeps ?_ k_tdiError
    | intro _ | dsimp +zetaDelta only

theorem execPfBarChange_keeps {ps : Nat} {z s : State} (hz : Keeps ps z s) (hs : Sub 0xfffffffff ps)  :
    ∀ z', execPfBarChange s = .next z' → Keeps ps z z' := by
  have k_tdiError : Sub 0xfffffffff ps := sub_of hs rfl
  intro z' e'
  unfold execPfBarChange at e'
  cases e'
  repeat'
    first
    | with_reducible refine keeps_ite (fun _ => ?_) (fun _ => ?_) | with_reducible assumption
    | with_reducible refine tdiError_keeps ?_ k_tdiError | intro _

theorem execLockInterfaceRequest_keeps {ps : Nat} {z s : State} (hz : Keeps ps z s) (hs : Sub 0x4001 ps) (stream :
    Nat) : ∀ z', execLockInterfaceRequest stream s = .next z' → Keeps ps z z' := by
  have k_modIde : Sub 0x4000 ps := sub_of hs rfl
  have k_tdispAnswer : Sub 0x1 ps := sub_of hs rfl
  have k_modHif : Sub 0x4000 ps := sub_of hs rfl
  intro z' e'
  unfold execLockInterfaceRequest at e'
  cases e'
  repeat'
    first
    | with_reducible refine keeps_ite (fun _ => ?_) (fun _ => ?_) | extract_lets | with_reducible assumption
    | with_reducible refine modIde_keeps ?_ k_modIde _ _
    | with_reducible refine tdispAnswer_keeps ?_ k_tdispAnswer _ | with_reducible refine modHif_keeps ?_ k_modHif _
    | intro _ | dsimp +zetaDelta only

theorem execStartInterfaceRequest_keeps {ps : Nat} {z s : State} (hz : Keeps ps z s) (hs : Sub 0x4001 ps)  :
    ∀ z', execStartInterfaceRequest s = .next z' → Keeps ps z z' := by
  have k_tdispAnswer : Sub 0x1 ps := sub_of hs rfl
  have k_modHif : Sub 0x4000 ps := sub_of hs rfl
  intro z' e'
  unfold execStartInterfaceRequest at e'
  cases e'
  repeat'
    first
    | with_reducible refine keeps_ite (fun _ => ?_) (fun _ => ?_) | with_reducible assumption
    | with_reducible refine tdispAnswer_keeps ?_ k_tdispAnswer _ | with_reducible refine modHif_keeps ?_ k_modHif _
    | intro _

theorem execStopInterfaceRequest_keeps {ps : Nat} {z s : State} (hz : Keeps ps z s) (hs : Sub 0xfffffffff ps)  :
    ∀ z', execStopInterfaceRequest s = .next z' → Keeps ps z z' := by
  have k_tdispAnswer : Sub 0x1 ps := sub_of hs rfl
  have k_tdiError : Sub 0xfffffffff ps := sub_of hs rfl
  have k_modHif : Sub 0x4000 ps := sub_of hs rfl
  intro z' e'
  unfold execStopInterfaceRequest at e'
  cases e'
  repeat'
    first
    | with_reducible refine keeps_ite (fun _ => ?_) (fun _ => ?_) | extract_lets | with_reducible assumption
    | with_reducible refine tdispAnswer_keeps ?_ k_tdispAnswer _
    | with_reducible refine tdiError_keeps ?_ k_tdiError | with_reducible refine modHif_keeps ?_ k_modHif _
    | intro _ | dsimp +zetaDelta only

theorem execDoeDiscovery_keeps {ps : Nat} {z s : State} (hz : Keeps ps z s) (hs : Sub 0x1 ps)  :
    ∀ z', execDoeDiscovery s = .next z' → Keeps ps z z' := by
  have k_emit : Sub 0x1 ps := sub_of hs rfl
  intro z' e'
  unfold execDoeDiscovery at e'
  cases e'
  repeat'
    first
    | with_reducible refine keeps_ite (fun _ => ?_) (fun _ => ?_) | with_reducible assumption
    | with_reducible refine emit_keeps ?_ k_emit _ | intro _

theorem execGetCertificate_keeps {ps : Nat} {z s : State} (hz : Keeps ps z s) (hs : Sub 0x1 ps) (slot : Nat) :
    ∀ z', execGetCertificate slot s = .next z' → Keeps ps z z' := by
  have k_emit : Sub 0x1 ps := sub_of hs rfl
  intro z' e'
  unfold execGetCertificate at e'
  cases e'
  repeat'
    first
    | with_reducible refine keeps_ite (fun _ => ?_) (fun _ => ?_) | with_reducible assumption
    | with_reducible refine emit_keeps ?_ k_emit _ | intro _ | split

theorem spdmSign_keeps {ps : Nat} {z s : State} (hz : Keeps ps z s) (hs : Sub 0x80000001 ps) (kind : Nat) (msg :
    List Byte) : Keeps ps z (spdmSign kind msg s) := by
  have k_pkAsk : Sub 0x80000000 ps := sub_of hs rfl
  have k_emit : Sub 0x1 ps := sub_of hs rfl
  unfold spdmSign
  repeat'
    first
    | with_reducible refine keeps_ite (fun _ => ?_) (fun _ => ?_) | with_reducible assumption
    | with_reducible refine pkAsk_keeps ?_ k_pkAsk _ | with_reducible refine emit_keeps ?_ k_emit _ | intro _

theorem execSpdmChallenge_keeps {ps : Nat} {z s : State} (hz : Keeps ps z s) (hs : Sub 0x80000001 ps) (slot : Nat)
    (nonce : BitVec 256) : ∀ z', execSpdmChallenge slot nonce s = .next z' → Keeps ps z z' := by
  have k_spdmSign : Sub 0x80000001 ps := sub_of hs rfl
  have k_emit : Sub 0x1 ps := sub_of hs rfl
  intro z' e'
  unfold execSpdmChallenge at e'
  cases e'
  repeat'
    first
    | with_reducible refine keeps_ite (fun _ => ?_) (fun _ => ?_) | with_reducible assumption
    | with_reducible refine spdmSign_keeps ?_ k_spdmSign _ _ | with_reducible refine emit_keeps ?_ k_emit _
    | intro _ | split

theorem execGetMeasurements_keeps {ps : Nat} {z s : State} (hz : Keeps ps z s) (hs : Sub 0x80000001 ps) (nonce :
    BitVec 256) : ∀ z', execGetMeasurements nonce s = .next z' → Keeps ps z z' := by
  have k_spdmSign : Sub 0x80000001 ps := sub_of hs rfl
  intro z' e'
  unfold execGetMeasurements at e'
  cases e'
  repeat'
    first
    | with_reducible refine keeps_ite (fun _ => ?_) (fun _ => ?_) | with_reducible assumption
    | with_reducible refine spdmSign_keeps ?_ k_spdmSign _ _ | intro _

theorem execKeyExchange_keeps {ps : Nat} {z s : State} (hz : Keeps ps z s) (hs : Sub 0x80000003 ps) (share : BitVec
    768) : ∀ z', execKeyExchange share s = .next z' → Keeps ps z z' := by
  have k_spdmSign : Sub 0x80000001 ps := sub_of hs rfl
  have k_tookFree : Sub 0x2 ps := sub_of hs rfl
  intro z' e'
  unfold execKeyExchange at e'
  cases e'
  repeat'
    first
    | with_reducible refine keeps_ite (fun _ => ?_) (fun _ => ?_) | with_reducible assumption
    | with_reducible refine spdmSign_keeps ?_ k_spdmSign _ _ | with_reducible refine tookFree_keeps ?_ k_tookFree
    | intro _

theorem msixRelease_keeps {ps : Nat} {z s : State} (hz : Keeps ps z s) (hs : Sub 0x4001 ps) (fn : Nat) (vec : Nat) :
    Keeps ps z (msixRelease fn vec s) := by
  have k_emit : Sub 0x1 ps := sub_of hs rfl
  have k_modHif : Sub 0x4000 ps := sub_of hs rfl
  unfold msixRelease
  repeat'
    first
    | with_reducible refine keeps_ite (fun _ => ?_) (fun _ => ?_) | extract_lets | with_reducible assumption
    | with_reducible refine emit_keeps ?_ k_emit _ | with_reducible refine modHif_keeps ?_ k_modHif _ | intro _
    | dsimp +zetaDelta only

theorem execVfMsixWrite_keeps {ps : Nat} {z s : State} (hz : Keeps ps z s) (hs : Sub 0x4001 ps) (v : Nat) (off :
    Nat) (be : Nat) (val : Word) : ∀ z', execVfMsixWrite v off be val s = .next z' → Keeps ps z z' := by
  have k_msixRelease : Sub 0x4001 ps := sub_of hs rfl
  have k_modHif : Sub 0x4000 ps := sub_of hs rfl
  intro z' e'
  unfold execVfMsixWrite at e'
  cases e'
  repeat'
    first
    | with_reducible refine keeps_ite (fun _ => ?_) (fun _ => ?_) | extract_lets | with_reducible assumption
    | with_reducible refine msixRelease_keeps ?_ k_msixRelease _ _
    | with_reducible refine modHif_keeps ?_ k_modHif _ | intro _ | dsimp +zetaDelta only

end Sys2Proof.Laws
end

