-- ==== Sys2Proof/Laws/KeepsRegisters.lean ====
section
/-!
SUPPORT. Sys2Proof/Laws/KeepsRegisters.lean: the operations of Sys2Proof/Machine/Registers.lean keep what Laws/Keeps.lean says.
-/
namespace Sys2Proof.Laws
open Sys2Proof.Machine

theorem applyCst_keeps {ps : Nat} {z s : State} (hz : Keeps ps z s) (hs : Sub 0x400000 ps) (c : Nat) (n : Nat) :
    Keeps ps z (applyCst c n s) := by
  have k_modClu : Sub 0x400000 ps := sub_of hs rfl
  have k_modHbm : Sub 0x400000 ps := sub_of hs rfl
  unfold applyCst
  repeat'
    first
    | with_reducible refine keeps_ite (fun _ => ?_) (fun _ => ?_) | extract_lets | with_reducible assumption
    | with_reducible refine modClu_keeps ?_ k_modClu _ _ | with_reducible refine modHbm_keeps ?_ k_modHbm _
    | intro _ | dsimp +zetaDelta only

theorem applyMgr_keeps {ps : Nat} {z s : State} (hz : Keeps ps z s) (hs : Sub 0x2000000 ps) (g : MgrCfg) :
    Keeps ps z (applyMgr g s) := by
  have k_maybeElect : Sub 0x2000000 ps := sub_of hs rfl
  have k_startElection : Sub 0x2000000 ps := sub_of hs rfl
  have k_modWmk : Sub 0x2000000 ps := sub_of hs rfl
  unfold applyMgr
  repeat'
    first
    | with_reducible refine keeps_ite (fun _ => ?_) (fun _ => ?_) | extract_lets | with_reducible assumption
    | with_reducible refine maybeElect_keeps ?_ k_maybeElect
    | with_reducible refine startElection_keeps ?_ k_startElection
    | with_reducible refine modWmk_keeps ?_ k_modWmk _ | intro _ | dsimp +zetaDelta only

theorem applyBuddy_keeps {ps : Nat} {z s : State} (hz : Keeps ps z s) (hs : Sub 0x40000000 ps) (en : Bool) (gib :
    Nat) (src : Nat) : Keeps ps z (applyBuddy en gib src s) := by
  have k_modCkp : Sub 0x40000000 ps := sub_of hs rfl
  unfold applyBuddy
  repeat'
    first
    | with_reducible refine keeps_ite (fun _ => ?_) (fun _ => ?_) | extract_lets | with_reducible assumption
    | with_reducible refine modCkp_keeps ?_ k_modCkp _ | intro _ | dsimp +zetaDelta only

theorem applySvc_keeps {ps : Nat} {z s : State} (hz : Keeps ps z s) (hs : Sub 0x800000000 ps)  :
    Keeps ps z (applySvc s) := by
  have k_modSvc : Sub 0x800000000 ps := sub_of hs rfl
  unfold applySvc
  repeat'
    first
    | with_reducible refine keeps_foldl ?_ ?_ | with_reducible assumption
    | with_reducible refine modSvc_keeps ?_ k_modSvc _ | intro _

theorem shadowApply_keeps {ps : Nat} {z s : State} (hz : Keeps ps z s) (hs : Sub 0xa4240c840 ps) (b : QBlock) :
    Keeps ps z (shadowApply b s) := by
  have k_applySvc : Sub 0x800000000 ps := sub_of hs rfl
  have k_applyBuddy : Sub 0x40000000 ps := sub_of hs rfl
  have k_applyMgr : Sub 0x2000000 ps := sub_of hs rfl
  have k_applyCst : Sub 0x400000 ps := sub_of hs rfl
  have k_applyInterval : Sub 0x800 ps := sub_of hs rfl
  have k_modPage : Sub 0x8000 ps := sub_of hs rfl
  have k_modVf : Sub 0x4000 ps := sub_of hs rfl
  have k_modMxe : Sub 0x200000000 ps := sub_of hs rfl
  have k_modClk : Sub 0x40 ps := sub_of hs rfl
  unfold shadowApply
  repeat'
    first
    | with_reducible refine keeps_ite (fun _ => ?_) (fun _ => ?_) | with_reducible assumption
    | with_reducible refine applySvc_keeps ?_ k_applySvc
    | with_reducible refine applyBuddy_keeps ?_ k_applyBuddy _ _ _
    | with_reducible refine applyMgr_keeps ?_ k_applyMgr _ | with_reducible refine applyCst_keeps ?_ k_applyCst _ _
    | with_reducible refine applyInterval_keeps ?_ k_applyInterval
    | with_reducible refine modPage_keeps ?_ k_modPage _ _ | with_reducible refine modVf_keeps ?_ k_modVf _ _
    | with_reducible refine modMxe_keeps ?_ k_modMxe _ | with_reducible refine modClk_keeps ?_ k_modClk _ | intro _
    | split

theorem execShadowApply_keeps {ps : Nat} {z s : State} (hz : Keeps ps z s) (hs : Sub 0xa4240c840 ps) (b : QBlock) :
    ∀ z', execShadowApply b s = .next z' → Keeps ps z z' := by
  have k_shadowApply : Sub 0xa4240c840 ps := sub_of hs rfl
  intro z' e'
  unfold execShadowApply at e'
  cases e'
  repeat'
    first
    | with_reducible refine keeps_ite (fun _ => ?_) (fun _ => ?_) | with_reducible assumption
    | with_reducible refine shadowApply_keeps ?_ k_shadowApply _ | intro _

theorem writeMsCtrl_keeps {ps : Nat} {z s : State} (hz : Keeps ps z s) (hs : Sub 0xa4240c840 ps) (v : Nat) :
    Keeps ps z (writeMsCtrl v s) := by
  have k_shadowApply : Sub 0xa4240c840 ps := sub_of hs rfl
  have k_modClk : Sub 0x40 ps := sub_of hs rfl
  unfold writeMsCtrl
  repeat'
    first
    | with_reducible refine keeps_ite (fun _ => ?_) (fun _ => ?_) | extract_lets | with_reducible assumption
    | with_reducible refine shadowApply_keeps ?_ k_shadowApply _ | with_reducible refine modClk_keeps ?_ k_modClk _
    | intro _ | dsimp +zetaDelta only

theorem pendVf_keeps {ps : Nat} {z s : State} (hz : Keeps ps z s) (hs : Sub 0x4000 ps) (v : Nat) (bit : Nat) (n :
    Nat) : Keeps ps z (pendVf v bit n s) := by
  have k_modVf : Sub 0x4000 ps := sub_of hs rfl
  unfold pendVf
  repeat'
    first
    | with_reducible assumption | with_reducible refine modVf_keeps ?_ k_modVf _ _ | intro _

theorem writeVf_keeps {ps : Nat} {z s : State} (hz : Keeps ps z s) (hs : Sub 0xa4240c840 ps) (r : Reg) (v : Nat) :
    Keeps ps z (writeVf r v s) := by
  have k_pendVf : Sub 0x4000 ps := sub_of hs rfl
  have k_shadowApply : Sub 0xa4240c840 ps := sub_of hs rfl
  unfold writeVf
  repeat'
    first
    | with_reducible refine keeps_foldl ?_ ?_ | with_reducible refine keeps_ite (fun _ => ?_) (fun _ => ?_)
    | extract_lets | with_reducible assumption | with_reducible refine pendVf_keeps ?_ k_pendVf _ _ _
    | with_reducible refine shadowApply_keeps ?_ k_shadowApply _ | intro _ | split | dsimp +zetaDelta only

theorem writeCmd_keeps {ps : Nat} {z s : State} (hz : Keeps ps z s) (hs : Sub 0xa4240c840 ps) (r : Reg) (v : Nat) :
    Keeps ps z (writeCmd r v s) := by
  have k_shadowApply : Sub 0xa4240c840 ps := sub_of hs rfl
  have k_modPage : Sub 0x8000 ps := sub_of hs rfl
  unfold writeCmd
  repeat'
    first
    | with_reducible refine keeps_ite (fun _ => ?_) (fun _ => ?_) | extract_lets | with_reducible assumption
    | with_reducible refine shadowApply_keeps ?_ k_shadowApply _
    | with_reducible refine modPage_keeps ?_ k_modPage _ _ | intro _ | split | dsimp +zetaDelta only

theorem writeMxe_keeps {ps : Nat} {z s : State} (hz : Keeps ps z s) (hs : Sub 0xa4240c840 ps) (r : Reg) (v : Nat) :
    Keeps ps z (writeMxe r v s) := by
  have k_shadowApply : Sub 0xa4240c840 ps := sub_of hs rfl
  have k_modEng : Sub 0x200000000 ps := sub_of hs rfl
  have k_modMxe : Sub 0x200000000 ps := sub_of hs rfl
  unfold writeMxe
  repeat'
    first
    | with_reducible refine keeps_foldl ?_ ?_ | with_reducible refine keeps_ite (fun _ => ?_) (fun _ => ?_)
    | extract_lets | with_reducible assumption | with_reducible refine shadowApply_keeps ?_ k_shadowApply _
    | with_reducible refine modEng_keeps ?_ k_modEng _ _ | with_reducible refine modMxe_keeps ?_ k_modMxe _
    | intro _ | split | dsimp +zetaDelta only

theorem writeSvc_keeps {ps : Nat} {z s : State} (hz : Keeps ps z s) (hs : Sub 0xa4240c840 ps) (r : Reg) (v : Nat) :
    Keeps ps z (writeSvc r v s) := by
  have k_shadowApply : Sub 0xa4240c840 ps := sub_of hs rfl
  have k_modSvc : Sub 0x800000000 ps := sub_of hs rfl
  unfold writeSvc
  repeat'
    first
    | with_reducible refine keeps_ite (fun _ => ?_) (fun _ => ?_) | extract_lets | with_reducible assumption
    | with_reducible refine shadowApply_keeps ?_ k_shadowApply _ | with_reducible refine modSvc_keeps ?_ k_modSvc _
    | intro _ | split | dsimp +zetaDelta only

theorem writeCst_keeps {ps : Nat} {z s : State} (hz : Keeps ps z s) (hs : Sub 0xa4240c840 ps) (c : Nat) (v : Nat) :
    Keeps ps z (writeCst c v s) := by
  have k_shadowApply : Sub 0xa4240c840 ps := sub_of hs rfl
  have k_modClu : Sub 0x400000 ps := sub_of hs rfl
  unfold writeCst
  repeat'
    first
    | with_reducible refine keeps_ite (fun _ => ?_) (fun _ => ?_) | extract_lets | with_reducible assumption
    | with_reducible refine shadowApply_keeps ?_ k_shadowApply _
    | with_reducible refine modClu_keeps ?_ k_modClu _ _ | intro _ | dsimp +zetaDelta only

theorem writePortCtrl_keeps {ps : Nat} {z s : State} (hz : Keeps ps z s) (hs : Sub 0x5008001 ps) (p : Nat) (v : Nat)
    : Keeps ps z (writePortCtrl p v s) := by
  have k_drainPort : Sub 0x1000001 ps := sub_of hs rfl
  have k_portTrain : Sub 0x5008000 ps := sub_of hs rfl
  have k_movePort : Sub 0x5008000 ps := sub_of hs rfl
  have k_modPort : Sub 0x1000000 ps := sub_of hs rfl
  unfold writePortCtrl
  repeat'
    first
    | with_reducible refine keeps_ite (fun _ => ?_) (fun _ => ?_) | extract_lets | with_reducible assumption
    | with_reducible refine drainPort_keeps ?_ k_drainPort _
    | with_reducible refine portTrain_keeps ?_ k_portTrain _
    | with_reducible refine movePort_keeps ?_ k_movePort _ _ _
    | with_reducible refine modPort_keeps ?_ k_modPort _ _ | intro _ | dsimp +zetaDelta only

theorem writeLnk_keeps {ps : Nat} {z s : State} (hz : Keeps ps z s) (hs : Sub 0x5008001 ps) (r : Reg) (v : Nat) :
    Keeps ps z (writeLnk r v s) := by
  have k_writePortCtrl : Sub 0x5008001 ps := sub_of hs rfl
  have k_setPlan : Sub 0x1000000 ps := sub_of hs rfl
  have k_modLnk : Sub 0x1000000 ps := sub_of hs rfl
  unfold writeLnk
  repeat'
    first
    | with_reducible refine keeps_ite (fun _ => ?_) (fun _ => ?_) | with_reducible assumption
    | with_reducible refine writePortCtrl_keeps ?_ k_writePortCtrl _ _
    | with_reducible refine setPlan_keeps ?_ k_setPlan _ _ | with_reducible refine modLnk_keeps ?_ k_modLnk _
    | intro _ | split

theorem writeMgr_keeps {ps : Nat} {z s : State} (hz : Keeps ps z s) (hs : Sub 0xa4240c840 ps) (r : Reg) (v : Nat) :
    Keeps ps z (writeMgr r v s) := by
  have k_shadowApply : Sub 0xa4240c840 ps := sub_of hs rfl
  have k_modWmk : Sub 0x2000000 ps := sub_of hs rfl
  unfold writeMgr
  repeat'
    first
    | with_reducible refine keeps_ite (fun _ => ?_) (fun _ => ?_) | extract_lets | with_reducible assumption
    | with_reducible refine shadowApply_keeps ?_ k_shadowApply _ | with_reducible refine modWmk_keeps ?_ k_modWmk _
    | intro _ | dsimp +zetaDelta only

theorem writeWmk_keeps {ps : Nat} {z s : State} (hz : Keeps ps z s) (hs : Sub 0xa4240c840 ps) (r : Reg) (v : Nat) :
    Keeps ps z (writeWmk r v s) := by
  have k_writeMgr : Sub 0xa4240c840 ps := sub_of hs rfl
  have k_modWmk : Sub 0x2000000 ps := sub_of hs rfl
  unfold writeWmk
  repeat'
    first
    | with_reducible refine keeps_ite (fun _ => ?_) (fun _ => ?_) | with_reducible assumption
    | with_reducible refine writeMgr_keeps ?_ k_writeMgr _ _ | with_reducible refine modWmk_keeps ?_ k_modWmk _
    | intro _ | split

theorem writeLive_keeps {ps : Nat} {z s : State} (hz : Keeps ps z s) (hs : Sub 0x24400000 ps) (r : Reg) (v : Nat) :
    Keeps ps z (writeLive r v s) := by
  have k_modHbm : Sub 0x400000 ps := sub_of hs rfl
  have k_modIng : Sub 0x20000000 ps := sub_of hs rfl
  have k_modCol : Sub 0x4000000 ps := sub_of hs rfl
  unfold writeLive
  repeat'
    first
    | with_reducible assumption | with_reducible refine modHbm_keeps ?_ k_modHbm _
    | with_reducible refine modIng_keeps ?_ k_modIng _ | with_reducible refine modCol_keeps ?_ k_modCol _ | intro _
    | split

theorem writeCkp_keeps {ps : Nat} {z s : State} (hz : Keeps ps z s) (hs : Sub 0xa4240c840 ps) (r : Reg) (v : Nat) :
    Keeps ps z (writeCkp r v s) := by
  have k_shadowApply : Sub 0xa4240c840 ps := sub_of hs rfl
  have k_modCkp : Sub 0x40000000 ps := sub_of hs rfl
  unfold writeCkp
  repeat'
    first
    | with_reducible refine keeps_ite (fun _ => ?_) (fun _ => ?_) | extract_lets | with_reducible assumption
    | with_reducible refine shadowApply_keeps ?_ k_shadowApply _ | with_reducible refine modCkp_keeps ?_ k_modCkp _
    | intro _ | split | dsimp +zetaDelta only

theorem writeLcs_keeps {ps : Nat} {z s : State} (hz : Keeps ps z s) (hs : Sub 0x100000000 ps) (r : Reg) (v : Nat) :
    Keeps ps z (writeLcs r v s) := by
  have k_modLcs : Sub 0x100000000 ps := sub_of hs rfl
  unfold writeLcs
  repeat'
    first
    | with_reducible refine keeps_ite (fun _ => ?_) (fun _ => ?_) | with_reducible assumption
    | with_reducible refine modLcs_keeps ?_ k_modLcs _ | intro _ | split

theorem writeFlt_keeps {ps : Nat} {z s : State} (hz : Keeps ps z s) (hs : Sub 0x80 ps) (r : Reg) (v : Nat) :
    Keeps ps z (writeFlt r v s) := by
  have k_modFlt : Sub 0x80 ps := sub_of hs rfl
  unfold writeFlt
  repeat'
    first
    | with_reducible refine keeps_ite (fun _ => ?_) (fun _ => ?_) | with_reducible assumption
    | with_reducible refine modFlt_keeps ?_ k_modFlt _ | intro _ | split

theorem writePwr_keeps {ps : Nat} {z s : State} (hz : Keeps ps z s) (hs : Sub 0xa4240d840 ps) (r : Reg) (v : Nat) :
    Keeps ps z (writePwr r v s) := by
  have k_shadowApply : Sub 0xa4240c840 ps := sub_of hs rfl
  have k_noteCap : Sub 0x1000 ps := sub_of hs rfl
  have k_modPwr : Sub 0x800 ps := sub_of hs rfl
  unfold writePwr
  repeat'
    first
    | with_reducible refine keeps_ite (fun _ => ?_) (fun _ => ?_) | extract_lets | with_reducible assumption
    | with_reducible refine shadowApply_keeps ?_ k_shadowApply _ | with_reducible refine noteCap_keeps ?_ k_noteCap
    | with_reducible refine modPwr_keeps ?_ k_modPwr _ | intro _ | split | dsimp +zetaDelta only

theorem regWrite_keeps {ps : Nat} {z s : State} (hz : Keeps ps z s) (hs : Sub 0xb6740d8c1 ps) (r : Reg) (v : Nat) :
    Keeps ps z (regWrite r v s) := by
  have k_writePwr : Sub 0xa4240d840 ps := sub_of hs rfl
  have k_writeFlt : Sub 0x80 ps := sub_of hs rfl
  have k_writeLcs : Sub 0x100000000 ps := sub_of hs rfl
  have k_writeCkp : Sub 0xa4240c840 ps := sub_of hs rfl
  have k_writeLive : Sub 0x24400000 ps := sub_of hs rfl
  have k_writeWmk : Sub 0xa4240c840 ps := sub_of hs rfl
  have k_writeLnk : Sub 0x5008001 ps := sub_of hs rfl
  have k_writeCst : Sub 0xa4240c840 ps := sub_of hs rfl
  have k_writeSvc : Sub 0xa4240c840 ps := sub_of hs rfl
  have k_writeMxe : Sub 0xa4240c840 ps := sub_of hs rfl
  have k_writeCmd : Sub 0xa4240c840 ps := sub_of hs rfl
  have k_writeVf : Sub 0xa4240c840 ps := sub_of hs rfl
  have k_writeMsCtrl : Sub 0xa4240c840 ps := sub_of hs rfl
  unfold regWrite
  repeat'
    first
    | with_reducible assumption | with_reducible refine writePwr_keeps ?_ k_writePwr _ _
    | with_reducible refine writeFlt_keeps ?_ k_writeFlt _ _
    | with_reducible refine writeLcs_keeps ?_ k_writeLcs _ _
    | with_reducible refine writeCkp_keeps ?_ k_writeCkp _ _
    | with_reducible refine writeLive_keeps ?_ k_writeLive _ _
    | with_reducible refine writeWmk_keeps ?_ k_writeWmk _ _
    | with_reducible refine writeLnk_keeps ?_ k_writeLnk _ _
    | with_reducible refine writeCst_keeps ?_ k_writeCst _ _
    | with_reducible refine writeSvc_keeps ?_ k_writeSvc _ _
    | with_reducible refine writeMxe_keeps ?_ k_writeMxe _ _
    | with_reducible refine writeCmd_keeps ?_ k_writeCmd _ _ | with_reducible refine writeVf_keeps ?_ k_writeVf _ _
    | with_reducible refine writeMsCtrl_keeps ?_ k_writeMsCtrl _ | split

theorem regWrite64_keeps {ps : Nat} {z s : State} (hz : Keeps ps z s) (hs : Sub 0xfffffffff ps) (r : Reg) (v : Nat)
    : Keeps ps z (regWrite64 r v s) := by
  have k_regWrite : Sub 0xb6740d8c1 ps := sub_of hs rfl
  have k_setPeriod : Sub 0x3800 ps := sub_of hs rfl
  have k_timeSet : Sub 0x2000000 ps := sub_of hs rfl
  have k_stepSet : Sub 0xfffffffff ps := sub_of hs rfl
  unfold regWrite64
  repeat'
    first
    | with_reducible assumption | with_reducible refine regWrite_keeps ?_ k_regWrite _ _
    | with_reducible refine setPeriod_keeps ?_ k_setPeriod _ _ | with_reducible refine timeSet_keeps ?_ k_timeSet _
    | with_reducible refine stepSet_keeps ?_ k_stepSet _ | split

theorem execRegisterWrite_keeps {ps : Nat} {z s : State} (hz : Keeps ps z s) (hs : Sub 0xb6740d8c1 ps) (src : Src)
    (r : Reg) (v : DWord) : ∀ z', execRegisterWrite src r v s = .next z' → Keeps ps z z' := by
  have k_regWrite : Sub 0xb6740d8c1 ps := sub_of hs rfl
  intro z' e'
  unfold execRegisterWrite at e'
  cases e'
  repeat'
    first
    | with_reducible refine keeps_ite (fun _ => ?_) (fun _ => ?_) | with_reducible assumption
    | with_reducible refine regWrite_keeps ?_ k_regWrite _ _ | intro _

theorem execSetUpLock_keeps {ps : Nat} {z s : State} (hz : Keeps ps z s) (hs : Sub 0xa4240c840 ps) (src : Src) (v :
    Word) : ∀ z', execSetUpLock src v s = .next z' → Keeps ps z z' := by
  have k_writeMsCtrl : Sub 0xa4240c840 ps := sub_of hs rfl
  intro z' e'
  unfold execSetUpLock at e'
  cases e'
  repeat'
    first
    | with_reducible refine keeps_ite (fun _ => ?_) (fun _ => ?_) | with_reducible assumption
    | with_reducible refine writeMsCtrl_keeps ?_ k_writeMsCtrl _ | intro _

theorem execLowHalfWrite_keeps {ps : Nat} {z s : State} (hz : Keeps ps z s) (hs : Sub 0x8 ps) (src : Src) (r : Reg)
    (v : Word) : ∀ z', execLowHalfWrite src r v s = .next z' → Keeps ps z z' := by
  have k_hold64 : Sub 0x8 ps := sub_of hs rfl
  intro z' e'
  unfold execLowHalfWrite at e'
  cases e'
  repeat'
    first
    | with_reducible refine keeps_ite (fun _ => ?_) (fun _ => ?_) | with_reducible assumption
    | fail_if_no_progress with_reducible refine keeps_set_hold64 ?_ k_hold64 _ | intro _

theorem execHighHalfWrite_keeps {ps : Nat} {z s : State} (hz : Keeps ps z s) (hs : Sub 0xfffffffff ps) (src : Src)
    (r : Reg) (v : Word) : ∀ z', execHighHalfWrite src r v s = .next z' → Keeps ps z z' := by
  have k_regWrite64 : Sub 0xfffffffff ps := sub_of hs rfl
  have k_hold64 : Sub 0x8 ps := sub_of hs rfl
  intro z' e'
  unfold execHighHalfWrite at e'
  cases e'
  repeat'
    first
    | with_reducible refine keeps_ite (fun _ => ?_) (fun _ => ?_) | extract_lets | with_reducible assumption
    | with_reducible refine regWrite64_keeps ?_ k_regWrite64 _ _
    | fail_if_no_progress with_reducible refine keeps_set_hold64 ?_ k_hold64 _ | intro _ | dsimp +zetaDelta only

theorem execLowHalfRead_keeps {ps : Nat} {z s : State} (hz : Keeps ps z s) (hs : Sub 0x11 ps) (src : Src) (r : Reg)
    : ∀ z', execLowHalfRead src r s = .next z' → Keeps ps z z' := by
  have k_emit : Sub 0x1 ps := sub_of hs rfl
  have k_latch64 : Sub 0x10 ps := sub_of hs rfl
  intro z' e'
  unfold execLowHalfRead at e'
  cases e'
  repeat'
    first
    | with_reducible refine keeps_ite (fun _ => ?_) (fun _ => ?_) | extract_lets | with_reducible assumption
    | with_reducible refine emit_keeps ?_ k_emit _
    | fail_if_no_progress with_reducible refine keeps_set_latch64 ?_ k_latch64 _ | intro _ | dsimp +zetaDelta only

theorem execBlockedRegisterAccess_keeps {ps : Nat} {z s : State} (hz : Keeps ps z s) (hs : Sub 0x1 ps) (src : Src)
    (r : Reg) (wr : Bool) : ∀ z', execBlockedRegisterAccess src r wr s = .next z' → Keeps ps z z' := by
  have k_emit : Sub 0x1 ps := sub_of hs rfl
  intro z' e'
  unfold execBlockedRegisterAccess at e'
  cases e'
  repeat'
    first
    | with_reducible refine keeps_ite (fun _ => ?_) (fun _ => ?_) | with_reducible assumption
    | with_reducible refine emit_keeps ?_ k_emit _ | intro _

end Sys2Proof.Laws
end

