-- ==== Sys2Proof/Laws/KeepsManagement.lean ====
section
/-!
SUPPORT. Sys2Proof/Laws/KeepsManagement.lean: the operations of Sys2Proof/Machine/Management.lean keep what Laws/Keeps.lean says.
-/
namespace Sys2Proof.Laws
open Sys2Proof.Machine

theorem i3cAnswer_keeps {ps : Nat} {z s : State} (hz : Keeps ps z s) (hs : Sub 0x1 ps) (b : Option (List Byte)) :
    Keeps ps z (i3cAnswer b s) := by
  have k_emit : Sub 0x1 ps := sub_of hs rfl
  unfold i3cAnswer
  repeat'
    first
    | with_reducible assumption | with_reducible refine emit_keeps ?_ k_emit _

theorem ibiRequest_keeps {ps : Nat} {z s : State} (hz : Keeps ps z s) (hs : Sub 0x101 ps)  :
    Keeps ps z (ibiRequest s) := by
  have k_emit : Sub 0x1 ps := sub_of hs rfl
  have k_modMgt : Sub 0x100 ps := sub_of hs rfl
  unfold ibiRequest
  repeat'
    first
    | with_reducible refine keeps_ite (fun _ => ?_) (fun _ => ?_) | with_reducible assumption
    | with_reducible refine emit_keeps ?_ k_emit _ | with_reducible refine modMgt_keeps ?_ k_modMgt _ | intro _

theorem i3cDo_keeps {ps : Nat} {z s : State} (hz : Keeps ps z s) (hs : Sub 0x0 ps) (f : State → State) (h_f : ∀ z
    x0, Keeps ps z x0 → Keeps ps z (f x0)) : Keeps ps z (i3cDo f s) := by
  unfold i3cDo
  repeat'
    first
    | with_reducible refine keeps_ite (fun _ => ?_) (fun _ => ?_) | with_reducible assumption
    | with_reducible refine h_f _ _ ?_ | intro _

theorem execSetdasa_keeps {ps : Nat} {z s : State} (hz : Keeps ps z s) (hs : Sub 0x101 ps) (static : Nat) (addr :
    Nat) : ∀ z', execSetdasa static addr s = .next z' → Keeps ps z z' := by
  have k_i3cAnswer : Sub 0x1 ps := sub_of hs rfl
  have k_modMgt : Sub 0x100 ps := sub_of hs rfl
  intro z' e'
  unfold execSetdasa at e'
  cases e'
  repeat'
    first
    | with_reducible refine keeps_ite (fun _ => ?_) (fun _ => ?_) | with_reducible assumption
    | with_reducible refine i3cAnswer_keeps ?_ k_i3cAnswer _ | with_reducible refine modMgt_keeps ?_ k_modMgt _
    | intro _

theorem execEntdaa_keeps {ps : Nat} {z s : State} (hz : Keeps ps z s) (hs : Sub 0x101 ps) (addr : Nat) :
    ∀ z', execEntdaa addr s = .next z' → Keeps ps z z' := by
  have k_i3cAnswer : Sub 0x1 ps := sub_of hs rfl
  have k_modMgt : Sub 0x100 ps := sub_of hs rfl
  intro z' e'
  unfold execEntdaa at e'
  cases e'
  repeat'
    first
    | with_reducible refine keeps_ite (fun _ => ?_) (fun _ => ?_) | with_reducible assumption
    | with_reducible refine i3cAnswer_keeps ?_ k_i3cAnswer _ | with_reducible refine modMgt_keeps ?_ k_modMgt _
    | intro _

theorem execSetnewda_keeps {ps : Nat} {z s : State} (hz : Keeps ps z s) (hs : Sub 0x101 ps) (addr : Nat) :
    ∀ z', execSetnewda addr s = .next z' → Keeps ps z z' := by
  have k_i3cDo : Sub 0x0 ps := sub_of hs rfl
  have k_i3cAnswer : Sub 0x1 ps := sub_of hs rfl
  have k_modMgt : Sub 0x100 ps := sub_of hs rfl
  intro z' e'
  unfold execSetnewda at e'
  cases e'
  repeat'
    first
    | with_reducible assumption | with_reducible refine i3cDo_keeps ?_ k_i3cDo _ ?_
    | with_reducible refine i3cAnswer_keeps ?_ k_i3cAnswer _ | with_reducible refine modMgt_keeps ?_ k_modMgt _
    | intro _

theorem execRstdaa_keeps {ps : Nat} {z s : State} (hz : Keeps ps z s) (hs : Sub 0x101 ps)  :
    ∀ z', execRstdaa s = .next z' → Keeps ps z z' := by
  have k_i3cDo : Sub 0x0 ps := sub_of hs rfl
  have k_i3cAnswer : Sub 0x1 ps := sub_of hs rfl
  have k_modMgt : Sub 0x100 ps := sub_of hs rfl
  intro z' e'
  unfold execRstdaa at e'
  cases e'
  repeat'
    first
    | with_reducible assumption | with_reducible refine i3cDo_keeps ?_ k_i3cDo _ ?_
    | with_reducible refine i3cAnswer_keeps ?_ k_i3cAnswer _ | with_reducible refine modMgt_keeps ?_ k_modMgt _
    | intro _

theorem execEnec_keeps {ps : Nat} {z s : State} (hz : Keeps ps z s) (hs : Sub 0x101 ps) (int : Bool) :
    ∀ z', execEnec int s = .next z' → Keeps ps z z' := by
  have k_i3cDo : Sub 0x0 ps := sub_of hs rfl
  have k_ibiRequest : Sub 0x101 ps := sub_of hs rfl
  have k_i3cAnswer : Sub 0x1 ps := sub_of hs rfl
  have k_modMgt : Sub 0x100 ps := sub_of hs rfl
  intro z' e'
  unfold execEnec at e'
  cases e'
  repeat'
    first
    | with_reducible refine keeps_ite (fun _ => ?_) (fun _ => ?_) | extract_lets | with_reducible assumption
    | with_reducible refine i3cDo_keeps ?_ k_i3cDo _ ?_ | with_reducible refine ibiRequest_keeps ?_ k_ibiRequest
    | with_reducible refine i3cAnswer_keeps ?_ k_i3cAnswer _ | with_reducible refine modMgt_keeps ?_ k_modMgt _
    | intro _ | dsimp +zetaDelta only

theorem execDisec_keeps {ps : Nat} {z s : State} (hz : Keeps ps z s) (hs : Sub 0x101 ps) (int : Bool) :
    ∀ z', execDisec int s = .next z' → Keeps ps z z' := by
  have k_i3cDo : Sub 0x0 ps := sub_of hs rfl
  have k_i3cAnswer : Sub 0x1 ps := sub_of hs rfl
  have k_modMgt : Sub 0x100 ps := sub_of hs rfl
  intro z' e'
  unfold execDisec at e'
  cases e'
  repeat'
    first
    | with_reducible refine keeps_ite (fun _ => ?_) (fun _ => ?_) | extract_lets | with_reducible assumption
    | with_reducible refine i3cDo_keeps ?_ k_i3cDo _ ?_ | with_reducible refine i3cAnswer_keeps ?_ k_i3cAnswer _
    | with_reducible refine modMgt_keeps ?_ k_modMgt _ | intro _ | dsimp +zetaDelta only

theorem execGetstatus_keeps {ps : Nat} {z s : State} (hz : Keeps ps z s) (hs : Sub 0x3 ps)  :
    ∀ z', execGetstatus s = .next z' → Keeps ps z z' := by
  have k_i3cDo : Sub 0x0 ps := sub_of hs rfl
  have k_i3cAnswer : Sub 0x1 ps := sub_of hs rfl
  have k_tookFree : Sub 0x2 ps := sub_of hs rfl
  intro z' e'
  unfold execGetstatus at e'
  cases e'
  repeat'
    first
    | with_reducible assumption | with_reducible refine i3cDo_keeps ?_ k_i3cDo _ ?_
    | with_reducible refine i3cAnswer_keeps ?_ k_i3cAnswer _ | with_reducible refine tookFree_keeps ?_ k_tookFree
    | intro _

theorem execGetpid_keeps {ps : Nat} {z s : State} (hz : Keeps ps z s) (hs : Sub 0x1 ps)  :
    ∀ z', execGetpid s = .next z' → Keeps ps z z' := by
  have k_i3cDo : Sub 0x0 ps := sub_of hs rfl
  have k_i3cAnswer : Sub 0x1 ps := sub_of hs rfl
  intro z' e'
  unfold execGetpid at e'
  cases e'
  repeat'
    first
    | with_reducible assumption | with_reducible refine i3cDo_keeps ?_ k_i3cDo _ ?_
    | with_reducible refine i3cAnswer_keeps ?_ k_i3cAnswer _ | intro _

theorem execGetbcr_keeps {ps : Nat} {z s : State} (hz : Keeps ps z s) (hs : Sub 0x1 ps)  :
    ∀ z', execGetbcr s = .next z' → Keeps ps z z' := by
  have k_i3cDo : Sub 0x0 ps := sub_of hs rfl
  have k_i3cAnswer : Sub 0x1 ps := sub_of hs rfl
  intro z' e'
  unfold execGetbcr at e'
  cases e'
  repeat'
    first
    | with_reducible assumption | with_reducible refine i3cDo_keeps ?_ k_i3cDo _ ?_
    | with_reducible refine i3cAnswer_keeps ?_ k_i3cAnswer _ | intro _

theorem execGetdcr_keeps {ps : Nat} {z s : State} (hz : Keeps ps z s) (hs : Sub 0x1 ps)  :
    ∀ z', execGetdcr s = .next z' → Keeps ps z z' := by
  have k_i3cDo : Sub 0x0 ps := sub_of hs rfl
  have k_i3cAnswer : Sub 0x1 ps := sub_of hs rfl
  intro z' e'
  unfold execGetdcr at e'
  cases e'
  repeat'
    first
    | with_reducible assumption | with_reducible refine i3cDo_keeps ?_ k_i3cDo _ ?_
    | with_reducible refine i3cAnswer_keeps ?_ k_i3cAnswer _ | intro _

theorem execGetmwl_keeps {ps : Nat} {z s : State} (hz : Keeps ps z s) (hs : Sub 0x1 ps)  :
    ∀ z', execGetmwl s = .next z' → Keeps ps z z' := by
  have k_i3cDo : Sub 0x0 ps := sub_of hs rfl
  have k_i3cAnswer : Sub 0x1 ps := sub_of hs rfl
  intro z' e'
  unfold execGetmwl at e'
  cases e'
  repeat'
    first
    | with_reducible assumption | with_reducible refine i3cDo_keeps ?_ k_i3cDo _ ?_
    | with_reducible refine i3cAnswer_keeps ?_ k_i3cAnswer _ | intro _

theorem execGetmrl_keeps {ps : Nat} {z s : State} (hz : Keeps ps z s) (hs : Sub 0x1 ps)  :
    ∀ z', execGetmrl s = .next z' → Keeps ps z z' := by
  have k_i3cDo : Sub 0x0 ps := sub_of hs rfl
  have k_i3cAnswer : Sub 0x1 ps := sub_of hs rfl
  intro z' e'
  unfold execGetmrl at e'
  cases e'
  repeat'
    first
    | with_reducible assumption | with_reducible refine i3cDo_keeps ?_ k_i3cDo _ ?_
    | with_reducible refine i3cAnswer_keeps ?_ k_i3cAnswer _ | intro _

theorem execSetmwl_keeps {ps : Nat} {z s : State} (hz : Keeps ps z s) (hs : Sub 0x1 ps) (v : Nat) :
    ∀ z', execSetmwl v s = .next z' → Keeps ps z z' := by
  have k_i3cDo : Sub 0x0 ps := sub_of hs rfl
  have k_i3cAnswer : Sub 0x1 ps := sub_of hs rfl
  intro z' e'
  unfold execSetmwl at e'
  cases e'
  repeat'
    first
    | with_reducible refine keeps_ite (fun _ => ?_) (fun _ => ?_) | with_reducible assumption
    | with_reducible refine i3cDo_keeps ?_ k_i3cDo _ ?_ | with_reducible refine i3cAnswer_keeps ?_ k_i3cAnswer _
    | intro _

theorem execSetmrl_keeps {ps : Nat} {z s : State} (hz : Keeps ps z s) (hs : Sub 0x1 ps) (v : Nat) :
    ∀ z', execSetmrl v s = .next z' → Keeps ps z z' := by
  have k_i3cDo : Sub 0x0 ps := sub_of hs rfl
  have k_i3cAnswer : Sub 0x1 ps := sub_of hs rfl
  intro z' e'
  unfold execSetmrl at e'
  cases e'
  repeat'
    first
    | with_reducible refine keeps_ite (fun _ => ?_) (fun _ => ?_) | with_reducible assumption
    | with_reducible refine i3cDo_keeps ?_ k_i3cDo _ ?_ | with_reducible refine i3cAnswer_keeps ?_ k_i3cAnswer _
    | intro _

theorem execIbiRepeat_keeps {ps : Nat} {z s : State} (hz : Keeps ps z s) (hs : Sub 0x101 ps)  :
    ∀ z', execIbiRepeat s = .next z' → Keeps ps z z' := by
  have k_i3cDo : Sub 0x0 ps := sub_of hs rfl
  have k_ibiRequest : Sub 0x101 ps := sub_of hs rfl
  intro z' e'
  unfold execIbiRepeat at e'
  cases e'
  repeat'
    first
    | with_reducible assumption | with_reducible refine i3cDo_keeps ?_ k_i3cDo _ ?_
    | with_reducible refine ibiRequest_keeps ?_ k_ibiRequest | intro _

theorem execIbiNackRetry_keeps {ps : Nat} {z s : State} (hz : Keeps ps z s) (hs : Sub 0x101 ps)  :
    ∀ z', execIbiNackRetry s = .next z' → Keeps ps z z' := by
  have k_i3cDo : Sub 0x0 ps := sub_of hs rfl
  have k_ibiRequest : Sub 0x101 ps := sub_of hs rfl
  intro z' e'
  unfold execIbiNackRetry at e'
  cases e'
  repeat'
    first
    | with_reducible refine keeps_ite (fun _ => ?_) (fun _ => ?_) | with_reducible assumption
    | with_reducible refine i3cDo_keeps ?_ k_i3cDo _ ?_ | with_reducible refine ibiRequest_keeps ?_ k_ibiRequest
    | intro _

theorem requestIn_keeps {ps : Nat} {z s : State} (hz : Keeps ps z s) (hs : Sub 0x101 ps) (uart : Bool) (b : List
    Byte) : Keeps ps z (requestIn uart b s) := by
  have k_reply : Sub 0x101 ps := sub_of hs rfl
  have k_modFace : Sub 0x100 ps := sub_of hs rfl
  have k_modMgt : Sub 0x100 ps := sub_of hs rfl
  unfold requestIn
  repeat'
    first
    | with_reducible refine keeps_ite (fun _ => ?_) (fun _ => ?_) | extract_lets | with_reducible assumption
    | with_reducible refine reply_keeps ?_ k_reply _ _ _ _ _ _
    | with_reducible refine modFace_keeps ?_ k_modFace _ _ | with_reducible refine modMgt_keeps ?_ k_modMgt _
    | intro _ | dsimp +zetaDelta only

theorem execPrivateWrite_keeps {ps : Nat} {z s : State} (hz : Keeps ps z s) (hs : Sub 0x101 ps) (bytes : List Byte)
    : ∀ z', execPrivateWrite bytes s = .next z' → Keeps ps z z' := by
  have k_requestIn : Sub 0x101 ps := sub_of hs rfl
  have k_i3cDo : Sub 0x0 ps := sub_of hs rfl
  intro z' e'
  unfold execPrivateWrite at e'
  cases e'
  repeat'
    first
    | with_reducible assumption | with_reducible refine requestIn_keeps ?_ k_requestIn _ _
    | with_reducible refine i3cDo_keeps ?_ k_i3cDo _ ?_ | intro _

theorem execPrivateRead_keeps {ps : Nat} {z s : State} (hz : Keeps ps z s) (hs : Sub 0x101 ps)  :
    ∀ z', execPrivateRead s = .next z' → Keeps ps z z' := by
  have k_i3cDo : Sub 0x0 ps := sub_of hs rfl
  have k_i3cAnswer : Sub 0x1 ps := sub_of hs rfl
  have k_modFace : Sub 0x100 ps := sub_of hs rfl
  intro z' e'
  unfold execPrivateRead at e'
  cases e'
  repeat'
    first
    | with_reducible assumption | with_reducible refine i3cDo_keeps ?_ k_i3cDo _ ?_
    | with_reducible refine i3cAnswer_keeps ?_ k_i3cAnswer _ | with_reducible refine modFace_keeps ?_ k_modFace _ _
    | intro _ | split

theorem uartTake_keeps {ps : Nat} {z s : State} (hz : Keeps ps z s) (hs : Sub 0x101 ps) (b : Byte) :
    Keeps ps z (uartTake b s) := by
  have k_requestIn : Sub 0x101 ps := sub_of hs rfl
  have k_modMgt : Sub 0x100 ps := sub_of hs rfl
  unfold uartTake
  repeat'
    first
    | with_reducible refine keeps_ite (fun _ => ?_) (fun _ => ?_) | extract_lets | with_reducible assumption
    | with_reducible refine requestIn_keeps ?_ k_requestIn _ _ | with_reducible refine modMgt_keeps ?_ k_modMgt _
    | intro _ | dsimp +zetaDelta only

theorem execUartByte_keeps {ps : Nat} {z s : State} (hz : Keeps ps z s) (hs : Sub 0x101 ps) (stop : Bool) (b : Byte)
    : ∀ z', execUartByte stop b s = .next z' → Keeps ps z z' := by
  have k_uartTake : Sub 0x101 ps := sub_of hs rfl
  have k_modMgt : Sub 0x100 ps := sub_of hs rfl
  intro z' e'
  unfold execUartByte at e'
  cases e'
  repeat'
    first
    | with_reducible refine keeps_ite (fun _ => ?_) (fun _ => ?_) | with_reducible assumption
    | with_reducible refine uartTake_keeps ?_ k_uartTake _ | with_reducible refine modMgt_keeps ?_ k_modMgt _
    | intro _

theorem execUartGapDiscard_keeps {ps : Nat} {z s : State} (hz : Keeps ps z s) (hs : Sub 0x100 ps)  :
    ∀ z', execUartGapDiscard s = .next z' → Keeps ps z z' := by
  have k_modMgt : Sub 0x100 ps := sub_of hs rfl
  intro z' e'
  unfold execUartGapDiscard at e'
  cases e'
  repeat'
    first
    | with_reducible refine keeps_ite (fun _ => ?_) (fun _ => ?_) | with_reducible assumption
    | with_reducible refine modMgt_keeps ?_ k_modMgt _ | intro _

theorem mgtServe_keeps {ps : Nat} {z s : State} (hz : Keeps ps z s) (hs : Sub 0x101 ps) (uart : Bool) (op : Nat) (f
    : MgtReq → State → State) (h_f : ∀ z x0 x1, Keeps ps z x1 → Keeps ps z (f x0 x1)) :
    ∀ z', mgtServe uart op f s = .next z' → Keeps ps z z' := by
  have k_reply : Sub 0x101 ps := sub_of hs rfl
  intro z' e'
  unfold mgtServe at e'
  cases e'
  repeat'
    first
    | with_reducible refine keeps_ite (fun _ => ?_) (fun _ => ?_) | with_reducible assumption
    | with_reducible refine h_f _ _ _ ?_ | with_reducible refine reply_keeps ?_ k_reply _ _ _ _ _ _ | intro _
    | split

theorem mgtDone_keeps {ps : Nat} {z s : State} (hz : Keeps ps z s) (hs : Sub 0x101 ps) (uart : Bool) (r : MgtReq)
    (payload : List Byte) : Keeps ps z (mgtDone uart r payload s) := by
  have k_reply : Sub 0x101 ps := sub_of hs rfl
  unfold mgtDone
  repeat'
    first
    | with_reducible assumption | with_reducible refine reply_keeps ?_ k_reply _ _ _ _ _ _

theorem mgtCheck_keeps {ps : Nat} {z s : State} (hz : Keeps ps z s) (hs : Sub 0x101 ps) (uart : Bool) (r : MgtReq) :
    Keeps ps z (mgtCheck uart r s) := by
  have k_reply : Sub 0x101 ps := sub_of hs rfl
  unfold mgtCheck
  repeat'
    first
    | with_reducible assumption | with_reducible refine reply_keeps ?_ k_reply _ _ _ _ _ _

theorem mgtHandle_keeps {ps : Nat} {z s : State} (hz : Keeps ps z s) (hs : Sub 0x101 ps) (uart : Bool) (r : MgtReq)
    : Keeps ps z (mgtHandle uart r s) := by
  have k_reply : Sub 0x101 ps := sub_of hs rfl
  unfold mgtHandle
  repeat'
    first
    | with_reducible assumption | with_reducible refine reply_keeps ?_ k_reply _ _ _ _ _ _

theorem execIdentity_keeps {ps : Nat} {z s : State} (hz : Keeps ps z s) (hs : Sub 0x101 ps) (uart : Bool) :
    ∀ z', execIdentity uart s = .next z' → Keeps ps z z' := by
  have k_mgtDone : Sub 0x101 ps := sub_of hs rfl
  have k_mgtServe : Sub 0x101 ps := sub_of hs rfl
  refine mgtServe_keeps hz k_mgtServe _ _ _ ?_
  intro _ _ _ _
  repeat'
    first
    | with_reducible assumption | with_reducible refine mgtDone_keeps ?_ k_mgtDone _ _ _ | intro _

theorem execStatus_keeps {ps : Nat} {z s : State} (hz : Keeps ps z s) (hs : Sub 0x101 ps) (uart : Bool) :
    ∀ z', execStatus uart s = .next z' → Keeps ps z z' := by
  have k_mgtDone : Sub 0x101 ps := sub_of hs rfl
  have k_mgtServe : Sub 0x101 ps := sub_of hs rfl
  refine mgtServe_keeps hz k_mgtServe _ _ _ ?_
  intro _ _ _ _
  repeat'
    first
    | extract_lets | with_reducible assumption | with_reducible refine mgtDone_keeps ?_ k_mgtDone _ _ _ | intro _
    | dsimp +zetaDelta only

theorem execAlertAck_keeps {ps : Nat} {z s : State} (hz : Keeps ps z s) (hs : Sub 0x101 ps) (uart : Bool) :
    ∀ z', execAlertAck uart s = .next z' → Keeps ps z z' := by
  have k_mgtDone : Sub 0x101 ps := sub_of hs rfl
  have k_mgtServe : Sub 0x101 ps := sub_of hs rfl
  have k_modMgt : Sub 0x100 ps := sub_of hs rfl
  refine mgtServe_keeps hz k_mgtServe _ _ _ ?_
  intro _ _ _ _
  repeat'
    first
    | with_reducible refine keeps_ite (fun _ => ?_) (fun _ => ?_) | extract_lets | with_reducible assumption
    | with_reducible refine mgtDone_keeps ?_ k_mgtDone _ _ _ | with_reducible refine modMgt_keeps ?_ k_modMgt _
    | intro _ | dsimp +zetaDelta only

theorem execHealth_keeps {ps : Nat} {z s : State} (hz : Keeps ps z s) (hs : Sub 0x103 ps) (uart : Bool) :
    ∀ z', execHealth uart s = .next z' → Keeps ps z z' := by
  have k_mgtDone : Sub 0x101 ps := sub_of hs rfl
  have k_mgtServe : Sub 0x101 ps := sub_of hs rfl
  have k_tookFree : Sub 0x2 ps := sub_of hs rfl
  refine mgtServe_keeps hz k_mgtServe _ _ _ ?_
  intro _ _ _ _
  repeat'
    first
    | with_reducible assumption | with_reducible refine mgtDone_keeps ?_ k_mgtDone _ _ _
    | with_reducible refine tookFree_keeps ?_ k_tookFree | intro _

theorem execDomainView_keeps {ps : Nat} {z s : State} (hz : Keeps ps z s) (hs : Sub 0x103 ps) (uart : Bool) :
    ∀ z', execDomainView uart s = .next z' → Keeps ps z z' := by
  have k_mgtDone : Sub 0x101 ps := sub_of hs rfl
  have k_mgtServe : Sub 0x101 ps := sub_of hs rfl
  have k_reply : Sub 0x101 ps := sub_of hs rfl
  have k_draws : Sub 0x2 ps := sub_of hs rfl
  refine mgtServe_keeps hz k_mgtServe _ _ _ ?_
  intro _ _ _ _
  repeat'
    first
    | with_reducible refine keeps_ite (fun _ => ?_) (fun _ => ?_) | extract_lets | with_reducible assumption
    | with_reducible refine mgtDone_keeps ?_ k_mgtDone _ _ _
    | with_reducible refine reply_keeps ?_ k_reply _ _ _ _ _ _
    | fail_if_no_progress with_reducible refine keeps_set_draws ?_ k_draws _ | intro _ | dsimp +zetaDelta only

theorem execRecordRead_keeps {ps : Nat} {z s : State} (hz : Keeps ps z s) (hs : Sub 0x101 ps) (uart : Bool) :
    ∀ z', execRecordRead uart s = .next z' → Keeps ps z z' := by
  have k_mgtDone : Sub 0x101 ps := sub_of hs rfl
  have k_mgtServe : Sub 0x101 ps := sub_of hs rfl
  refine mgtServe_keeps hz k_mgtServe _ _ _ ?_
  intro _ _ _ _
  repeat'
    first
    | with_reducible refine keeps_ite (fun _ => ?_) (fun _ => ?_) | extract_lets | with_reducible assumption
    | with_reducible refine mgtDone_keeps ?_ k_mgtDone _ _ _ | intro _ | dsimp +zetaDelta only

theorem execLedger_keeps {ps : Nat} {z s : State} (hz : Keeps ps z s) (hs : Sub 0x101 ps) (uart : Bool) :
    ∀ z', execLedger uart s = .next z' → Keeps ps z z' := by
  have k_mgtHandle : Sub 0x101 ps := sub_of hs rfl
  have k_mgtDone : Sub 0x101 ps := sub_of hs rfl
  have k_mgtServe : Sub 0x101 ps := sub_of hs rfl
  refine mgtServe_keeps hz k_mgtServe _ _ _ ?_
  intro _ _ _ _
  repeat'
    first
    | with_reducible refine keeps_ite (fun _ => ?_) (fun _ => ?_) | extract_lets | with_reducible assumption
    | with_reducible refine mgtHandle_keeps ?_ k_mgtHandle _ _
    | with_reducible refine mgtDone_keeps ?_ k_mgtDone _ _ _ | intro _ | dsimp +zetaDelta only

theorem execCabling_keeps {ps : Nat} {z s : State} (hz : Keeps ps z s) (hs : Sub 0x101 ps) (uart : Bool) :
    ∀ z', execCabling uart s = .next z' → Keeps ps z z' := by
  have k_mgtDone : Sub 0x101 ps := sub_of hs rfl
  have k_mgtServe : Sub 0x101 ps := sub_of hs rfl
  refine mgtServe_keeps hz k_mgtServe _ _ _ ?_
  intro _ _ _ _
  repeat'
    first
    | extract_lets | with_reducible assumption | with_reducible refine mgtDone_keeps ?_ k_mgtDone _ _ _ | intro _
    | split | dsimp +zetaDelta only

theorem execTrayCap_keeps {ps : Nat} {z s : State} (hz : Keeps ps z s) (hs : Sub 0x1101 ps) (uart : Bool) :
    ∀ z', execTrayCap uart s = .next z' → Keeps ps z z' := by
  have k_mgtDone : Sub 0x101 ps := sub_of hs rfl
  have k_mgtServe : Sub 0x101 ps := sub_of hs rfl
  have k_noteCap : Sub 0x1000 ps := sub_of hs rfl
  have k_modMgt : Sub 0x100 ps := sub_of hs rfl
  refine mgtServe_keeps hz k_mgtServe _ _ _ ?_
  intro _ _ _ _
  repeat'
    first
    | extract_lets | with_reducible assumption | with_reducible refine mgtDone_keeps ?_ k_mgtDone _ _ _
    | with_reducible refine noteCap_keeps ?_ k_noteCap | with_reducible refine modMgt_keeps ?_ k_modMgt _ | intro _
    | dsimp +zetaDelta only

theorem execReset_keeps {ps : Nat} {z s : State} (hz : Keeps ps z s) (hs : Sub 0xfffffffff ps) (uart : Bool) :
    ∀ z', execReset uart s = .next z' → Keeps ps z z' := by
  have k_mgtServe : Sub 0x101 ps := sub_of hs rfl
  have k_reply : Sub 0x101 ps := sub_of hs rfl
  have k_commandReset : Sub 0xfffffffff ps := sub_of hs rfl
  refine mgtServe_keeps hz k_mgtServe _ _ _ ?_
  intro _ _ _ _
  repeat'
    first
    | with_reducible refine keeps_ite (fun _ => ?_) (fun _ => ?_) | extract_lets | with_reducible assumption
    | with_reducible refine reply_keeps ?_ k_reply _ _ _ _ _ _
    | with_reducible refine commandReset_keeps ?_ k_commandReset _ _ | intro _ | dsimp +zetaDelta only

theorem execLifecycle_keeps {ps : Nat} {z s : State} (hz : Keeps ps z s) (hs : Sub 0x100000101 ps) (uart : Bool) :
    ∀ z', execLifecycle uart s = .next z' → Keeps ps z z' := by
  have k_mgtServe : Sub 0x101 ps := sub_of hs rfl
  have k_lcSubmit : Sub 0x100000000 ps := sub_of hs rfl
  have k_reply : Sub 0x101 ps := sub_of hs rfl
  have k_modMgt : Sub 0x100 ps := sub_of hs rfl
  refine mgtServe_keeps hz k_mgtServe _ _ _ ?_
  intro _ _ _ _
  repeat'
    first
    | with_reducible refine keeps_ite (fun _ => ?_) (fun _ => ?_) | extract_lets | with_reducible assumption
    | with_reducible refine lcSubmit_keeps ?_ k_lcSubmit _
    | with_reducible refine reply_keeps ?_ k_reply _ _ _ _ _ _ | with_reducible refine modMgt_keeps ?_ k_modMgt _
    | intro _ | dsimp +zetaDelta only

theorem execChallenge_keeps {ps : Nat} {z s : State} (hz : Keeps ps z s) (hs : Sub 0x101 ps) (uart : Bool) :
    ∀ z', execChallenge uart s = .next z' → Keeps ps z z' := by
  have k_mgtDone : Sub 0x101 ps := sub_of hs rfl
  have k_mgtServe : Sub 0x101 ps := sub_of hs rfl
  refine mgtServe_keeps hz k_mgtServe _ _ _ ?_
  intro _ _ _ _
  repeat'
    first
    | with_reducible assumption | with_reducible refine mgtDone_keeps ?_ k_mgtDone _ _ _ | intro _

theorem execTrayProvision_keeps {ps : Nat} {z s : State} (hz : Keeps ps z s) (hs : Sub 0x2101 ps) (uart : Bool) :
    ∀ z', execTrayProvision uart s = .next z' → Keeps ps z z' := by
  have k_mgtCheck : Sub 0x101 ps := sub_of hs rfl
  have k_mgtDone : Sub 0x101 ps := sub_of hs rfl
  have k_mgtServe : Sub 0x101 ps := sub_of hs rfl
  have k_modOtp : Sub 0x2000 ps := sub_of hs rfl
  refine mgtServe_keeps hz k_mgtServe _ _ _ ?_
  intro _ _ _ _
  repeat'
    first
    | with_reducible refine keeps_ite (fun _ => ?_) (fun _ => ?_) | with_reducible assumption
    | with_reducible refine mgtCheck_keeps ?_ k_mgtCheck _ _
    | with_reducible refine mgtDone_keeps ?_ k_mgtDone _ _ _ | with_reducible refine modOtp_keeps ?_ k_modOtp _ ?_
    | exact oneWay_same rfl rfl rfl rfl rfl rfl rfl rfl | intro _

theorem modFw_keeps {ps : Nat} {z s : State} (hz : Keeps ps z s) (hs : Sub 0x2000 ps) (f : FwStore → FwStore)
    (k : OneWay s.nv { s.nv with fw := f s.nv.fw }) : Keeps ps z (modFw f s) :=
  modNv_keeps hz hs _ k

theorem oneWay_fwPut (a : NvState) (c : Nat) (x : FwCopy) : OneWay a { a with fw := fwPut a.fw c x } := by
  unfold fwPut
  split
  · exact oneWay_same rfl rfl rfl rfl rfl rfl rfl rfl
  · exact oneWay_same rfl rfl rfl rfl rfl rfl rfl rfl

theorem execFwWrite_keeps {ps : Nat} {z s : State} (hz : Keeps ps z s) (hs : Sub 0x2101 ps) (uart : Bool) :
    ∀ z', execFwWrite uart s = .next z' → Keeps ps z z' := by
  have k_modFw : Sub 0x2000 ps := sub_of hs rfl
  have k_mgtHandle : Sub 0x101 ps := sub_of hs rfl
  have k_mgtCheck : Sub 0x101 ps := sub_of hs rfl
  have k_mgtDone : Sub 0x101 ps := sub_of hs rfl
  have k_mgtServe : Sub 0x101 ps := sub_of hs rfl
  have k_reply : Sub 0x101 ps := sub_of hs rfl
  refine mgtServe_keeps hz k_mgtServe _ _ _ ?_
  intro _ _ _ _
  repeat'
    first
    | with_reducible exact oneWay_fwPut _ _ _ | with_reducible refine keeps_ite (fun _ => ?_) (fun _ => ?_)
    | extract_lets | with_reducible assumption | with_reducible refine modFw_keeps ?_ k_modFw _ ?_
    | with_reducible refine mgtHandle_keeps ?_ k_mgtHandle _ _
    | with_reducible refine mgtCheck_keeps ?_ k_mgtCheck _ _
    | with_reducible refine mgtDone_keeps ?_ k_mgtDone _ _ _
    | with_reducible refine reply_keeps ?_ k_reply _ _ _ _ _ _ | exact oneWay_same rfl rfl rfl rfl rfl rfl rfl rfl
    | intro _ | dsimp +zetaDelta only

theorem execFwCommit_keeps {ps : Nat} {z s : State} (hz : Keeps ps z s) (hs : Sub 0x800002101 ps) (uart : Bool) (a :
    FwVerdict) : ∀ z', execFwCommit uart a s = .next z' → Keeps ps z z' := by
  have k_modFw : Sub 0x2000 ps := sub_of hs rfl
  have k_mgtHandle : Sub 0x101 ps := sub_of hs rfl
  have k_mgtDone : Sub 0x101 ps := sub_of hs rfl
  have k_mgtServe : Sub 0x101 ps := sub_of hs rfl
  have k_modSvc : Sub 0x800000000 ps := sub_of hs rfl
  refine mgtServe_keeps hz k_mgtServe _ _ _ ?_
  intro _ _ _ _
  repeat'
    first
    | with_reducible exact oneWay_fwPut _ _ _ | with_reducible refine keeps_ite (fun _ => ?_) (fun _ => ?_)
    | extract_lets | with_reducible assumption | with_reducible refine modFw_keeps ?_ k_modFw _ ?_
    | with_reducible refine mgtHandle_keeps ?_ k_mgtHandle _ _
    | with_reducible refine mgtDone_keeps ?_ k_mgtDone _ _ _ | with_reducible refine modSvc_keeps ?_ k_modSvc _
    | exact oneWay_same rfl rfl rfl rfl rfl rfl rfl rfl | intro _ | dsimp +zetaDelta only

theorem execFwFloor_keeps {ps : Nat} {z s : State} (hz : Keeps ps z s) (hs : Sub 0x2101 ps) (uart : Bool) :
    ∀ z', execFwFloor uart s = .next z' → Keeps ps z z' := by
  have k_mgtServe : Sub 0x101 ps := sub_of hs rfl
  have k_mgtDone : Sub 0x101 ps := sub_of hs rfl
  have k_modFw : Sub 0x2000 ps := sub_of hs rfl
  have k_mgtCheck : Sub 0x101 ps := sub_of hs rfl
  refine mgtServe_keeps hz k_mgtServe _ _ _ ?_
  intro _ r s hz
  extract_lets n f
  refine keeps_ite (fun _ => mgtDone_keeps hz k_mgtDone _ _ _) (fun h => ?_)
  refine keeps_ite (fun _ => mgtDone_keeps (modFw_keeps hz k_modFw _ ?_) k_mgtDone _ _ _)
    (fun _ => mgtCheck_keeps hz k_mgtCheck _ _)
  exact ⟨fun _ h => h, bitsIn_refl _, bitsIn_refl _, bitsIn_refl _, id, Nat.le_of_lt (Nat.lt_of_not_le h), bitsIn_refl _,
    Nat.le_refl _⟩

theorem bitsIn_setBit (v i : Nat) : BitsIn v (setBit v i) := by
  intro j h
  unfold setBit
  split
  · exact h
  · rename_i k
    have k : v / 2 ^ i % 2 = 0 := by
      unfold bitOf at k
      simp only [decide_eq_true_eq] at k
      omega
    rw [Nat.add_comm]
    rcases Nat.lt_trichotomy j i with g | g | g
    · rw [Nat.testBit_two_pow_add_gt g]; exact h
    · subst g
      rw [Nat.testBit_eq_decide_div_mod_eq] at h
      simp_all
    · rw [Nat.testBit_eq_decide_div_mod_eq] at h ⊢
      have e : (2 ^ i + v) / 2 ^ (i + 1) = v / 2 ^ (i + 1) := by
        rw [Nat.pow_succ, ← Nat.div_div_eq_div_mul, ← Nat.div_div_eq_div_mul, Nat.add_div_left v (Nat.two_pow_pos i)]
        omega
      obtain ⟨d, rfl⟩ : ∃ d, j = i + 1 + d := ⟨j - (i + 1), by omega⟩
      rw [Nat.pow_add, ← Nat.div_div_eq_div_mul] at h ⊢
      rw [e]; exact h

theorem execFwRevoke_keeps {ps : Nat} {z s : State} (hz : Keeps ps z s) (hs : Sub 0x2101 ps) (uart : Bool) :
    ∀ z', execFwRevoke uart s = .next z' → Keeps ps z z' := by
  have k_mgtServe : Sub 0x101 ps := sub_of hs rfl
  have k_mgtDone : Sub 0x101 ps := sub_of hs rfl
  have k_modFw : Sub 0x2000 ps := sub_of hs rfl
  have k_mgtCheck : Sub 0x101 ps := sub_of hs rfl
  have k_mgtHandle : Sub 0x101 ps := sub_of hs rfl
  refine mgtServe_keeps hz k_mgtServe _ _ _ ?_
  intro _ r s hz
  extract_lets k f
  refine keeps_ite (fun _ => mgtHandle_keeps hz k_mgtHandle _ _) (fun _ => ?_)
  refine keeps_ite (fun _ => mgtDone_keeps (modFw_keeps hz k_modFw _ ?_) k_mgtDone _ _ _)
    (fun _ => mgtCheck_keeps hz k_mgtCheck _ _)
  exact ⟨fun _ h => h, bitsIn_refl _, bitsIn_refl _, bitsIn_refl _, id, Nat.le_refl _, bitsIn_setBit _ _, Nat.le_refl _⟩

end Sys2Proof.Laws
end

