-- ==== Sys2Proof/Laws/KeepsMemory.lean ====
section
/-!
SUPPORT. Sys2Proof/Laws/KeepsMemory.lean: the operations of Sys2Proof/Machine/Memory.lean keep what Laws/Keeps.lean says.
-/
namespace Sys2Proof.Laws
open Sys2Proof.Machine

theorem execMemProtect_keeps {ps : Nat} {z s : State} (hz : Keeps ps z s) (hs : Sub 0x408000 ps) (qp : Nat) (sub :
    Nat) : ∀ z', execMemProtect qp sub s = .next z' → Keeps ps z z' := by
  have k_guarded : Sub 0x8000 ps := sub_of hs rfl
  have k_onStarted : Sub 0x0 ps := sub_of hs rfl
  have k_runDesc : Sub 0x8000 ps := sub_of hs rfl
  have k_modHbm : Sub 0x400000 ps := sub_of hs rfl
  intro z' e'
  unfold execMemProtect at e'
  cases e'
  repeat'
    first
    | extract_lets | with_reducible assumption | with_reducible refine guarded_keeps ?_ k_guarded _ _ _ ?_
    | with_reducible refine onStarted_keeps ?_ k_onStarted _ _ _ _ ?_
    | with_reducible refine runDesc_keeps ?_ k_runDesc _ _ _ | with_reducible refine modHbm_keeps ?_ k_modHbm _
    | intro _ | dsimp +zetaDelta only

theorem applyRule_keeps {ps : Nat} {z s : State} (hz : Keeps ps z s) (hs : Sub 0x20000 ps) (r : RuleChange) :
    Keeps ps z (applyRule r s) := by
  have k_modMem : Sub 0x20000 ps := sub_of hs rfl
  unfold applyRule
  repeat'
    first
    | with_reducible assumption | with_reducible refine modMem_keeps ?_ k_modMem _ _ | intro _ | split

theorem execRulesChangePoint_keeps {ps : Nat} {z s : State} (hz : Keeps ps z s) (hs : Sub 0x428000 ps) (qp : Nat)
    (sub : Nat) : ∀ z', execRulesChangePoint qp sub s = .next z' → Keeps ps z z' := by
  have k_applyRule : Sub 0x20000 ps := sub_of hs rfl
  have k_endD : Sub 0x8000 ps := sub_of hs rfl
  have k_onRunning : Sub 0x0 ps := sub_of hs rfl
  have k_modHbm : Sub 0x400000 ps := sub_of hs rfl
  intro z' e'
  unfold execRulesChangePoint at e'
  cases e'
  repeat'
    first
    | with_reducible refine keeps_foldl ?_ ?_ | extract_lets | with_reducible assumption
    | with_reducible refine applyRule_keeps ?_ k_applyRule _ | with_reducible refine endD_keeps ?_ k_endD _ _
    | with_reducible refine onRunning_keeps ?_ k_onRunning _ _ _ _ ?_
    | with_reducible refine modHbm_keeps ?_ k_modHbm _ | intro _ | dsimp +zetaDelta only

theorem execRulesFence_keeps {ps : Nat} {z s : State} (hz : Keeps ps z s) (hs : Sub 0x408000 ps) (qp : Nat) (sub :
    Nat) : ∀ z', execRulesFence qp sub s = .next z' → Keeps ps z z' := by
  have k_onStarted : Sub 0x0 ps := sub_of hs rfl
  have k_runDesc : Sub 0x8000 ps := sub_of hs rfl
  have k_modHbm : Sub 0x400000 ps := sub_of hs rfl
  intro z' e'
  unfold execRulesFence at e'
  cases e'
  repeat'
    first
    | extract_lets | with_reducible assumption | with_reducible refine onStarted_keeps ?_ k_onStarted _ _ _ _ ?_
    | with_reducible refine runDesc_keeps ?_ k_runDesc _ _ _ | with_reducible refine modHbm_keeps ?_ k_modHbm _
    | intro _ | dsimp +zetaDelta only

theorem execRulesFenceComplete_keeps {ps : Nat} {z s : State} (hz : Keeps ps z s) (hs : Sub 0x408000 ps) (qp : Nat)
    (sub : Nat) : ∀ z', execRulesFenceComplete qp sub s = .next z' → Keeps ps z z' := by
  have k_endD : Sub 0x8000 ps := sub_of hs rfl
  have k_onRunning : Sub 0x0 ps := sub_of hs rfl
  have k_modHbm : Sub 0x400000 ps := sub_of hs rfl
  intro z' e'
  unfold execRulesFenceComplete at e'
  cases e'
  repeat'
    first
    | with_reducible refine keeps_ite (fun _ => ?_) (fun _ => ?_) | with_reducible assumption
    | with_reducible refine endD_keeps ?_ k_endD _ _
    | with_reducible refine onRunning_keeps ?_ k_onRunning _ _ _ _ ?_
    | with_reducible refine modHbm_keeps ?_ k_modHbm _ | intro _

theorem uncachePage_keeps {ps : Nat} {z s : State} (hz : Keeps ps z s) (hs : Sub 0x400000 ps) (slot : Nat) (p : Nat)
    (pg : Nat) : Keeps ps z (uncachePage slot p pg s) := by
  have k_modHbm : Sub 0x400000 ps := sub_of hs rfl
  unfold uncachePage
  repeat'
    first
    | with_reducible assumption | with_reducible refine modHbm_keeps ?_ k_modHbm _ | intro _

theorem residePage_keeps {ps : Nat} {z s : State} (hz : Keeps ps z s) (hs : Sub 0xc20000 ps) (slot : Nat) (p : Nat)
    (pg : Nat) : Keeps ps z (residePage slot p s pg) := by
  have k_uncachePage : Sub 0x400000 ps := sub_of hs rfl
  have k_mapPage : Sub 0x820000 ps := sub_of hs rfl
  have k_makeResident : Sub 0x20000 ps := sub_of hs rfl
  unfold residePage
  repeat'
    first
    | with_reducible refine keeps_ite (fun _ => ?_) (fun _ => ?_) | extract_lets | with_reducible assumption
    | with_reducible refine uncachePage_keeps ?_ k_uncachePage _ _ _
    | with_reducible refine mapPage_keeps ?_ k_mapPage _ _
    | with_reducible refine makeResident_keeps ?_ k_makeResident _ _ | intro _ | split | dsimp +zetaDelta only

theorem execCstReside_keeps {ps : Nat} {z s : State} (hz : Keeps ps z s) (hs : Sub 0xc28000 ps) (qp : Nat) (sub :
    Nat) : ∀ z', execCstReside qp sub s = .next z' → Keeps ps z z' := by
  have k_residePage : Sub 0xc20000 ps := sub_of hs rfl
  have k_endD : Sub 0x8000 ps := sub_of hs rfl
  have k_guarded : Sub 0x8000 ps := sub_of hs rfl
  have k_onStarted : Sub 0x0 ps := sub_of hs rfl
  intro z' e'
  unfold execCstReside at e'
  cases e'
  repeat'
    first
    | with_reducible refine keeps_foldl ?_ ?_ | extract_lets | with_reducible assumption
    | with_reducible refine residePage_keeps ?_ k_residePage _ _ _ | with_reducible refine endD_keeps ?_ k_endD _ _
    | with_reducible refine guarded_keeps ?_ k_guarded _ _ _ ?_
    | with_reducible refine onStarted_keeps ?_ k_onStarted _ _ _ _ ?_ | intro _ | split | dsimp +zetaDelta only

theorem execCstEvict_keeps {ps : Nat} {z s : State} (hz : Keeps ps z s) (hs : Sub 0x408000 ps) (qp : Nat) (sub :
    Nat) : ∀ z', execCstEvict qp sub s = .next z' → Keeps ps z z' := by
  have k_endD : Sub 0x8000 ps := sub_of hs rfl
  have k_guarded : Sub 0x8000 ps := sub_of hs rfl
  have k_onStarted : Sub 0x0 ps := sub_of hs rfl
  have k_modHbm : Sub 0x400000 ps := sub_of hs rfl
  intro z' e'
  unfold execCstEvict at e'
  cases e'
  repeat'
    first
    | extract_lets | with_reducible assumption | with_reducible refine endD_keeps ?_ k_endD _ _
    | with_reducible refine guarded_keeps ?_ k_guarded _ _ _ ?_
    | with_reducible refine onStarted_keeps ?_ k_onStarted _ _ _ _ ?_
    | with_reducible refine modHbm_keeps ?_ k_modHbm _ | intro _ | dsimp +zetaDelta only

theorem execMemQuery_keeps {ps : Nat} {z s : State} (hz : Keeps ps z s) (hs : Sub 0x8000 ps) (qp : Nat) (sub : Nat)
    : ∀ z', execMemQuery qp sub s = .next z' → Keeps ps z z' := by
  have k_endD : Sub 0x8000 ps := sub_of hs rfl
  have k_guarded : Sub 0x8000 ps := sub_of hs rfl
  have k_onStarted : Sub 0x0 ps := sub_of hs rfl
  intro z' e'
  unfold execMemQuery at e'
  cases e'
  repeat'
    first
    | with_reducible assumption | with_reducible refine endD_keeps ?_ k_endD _ _
    | with_reducible refine guarded_keeps ?_ k_guarded _ _ _ ?_
    | with_reducible refine onStarted_keeps ?_ k_onStarted _ _ _ _ ?_ | intro _ | split

theorem execPoisonScan_keeps {ps : Nat} {z s : State} (hz : Keeps ps z s) (hs : Sub 0x8000 ps) (qp : Nat) (sub :
    Nat) : ∀ z', execPoisonScan qp sub s = .next z' → Keeps ps z z' := by
  have k_endD : Sub 0x8000 ps := sub_of hs rfl
  have k_guarded : Sub 0x8000 ps := sub_of hs rfl
  have k_onStarted : Sub 0x0 ps := sub_of hs rfl
  intro z' e'
  unfold execPoisonScan at e'
  cases e'
  repeat'
    first
    | extract_lets | with_reducible assumption | with_reducible refine endD_keeps ?_ k_endD _ _
    | with_reducible refine guarded_keeps ?_ k_guarded _ _ _ ?_
    | with_reducible refine onStarted_keeps ?_ k_onStarted _ _ _ _ ?_ | intro _ | split | dsimp +zetaDelta only

theorem execPageZeroDone_keeps {ps : Nat} {z s : State} (hz : Keeps ps z s) (hs : Sub 0x800000 ps) (slot : Nat)
    (page : Nat) : ∀ z', execPageZeroDone slot page s = .next z' → Keeps ps z z' := by
  have k_modIme : Sub 0x800000 ps := sub_of hs rfl
  intro z' e'
  unfold execPageZeroDone at e'
  cases e'
  repeat'
    first
    | with_reducible assumption | with_reducible refine modIme_keeps ?_ k_modIme _ | intro _

theorem enqueueReq_keeps {ps : Nat} {z s : State} (hz : Keeps ps z s) (hs : Sub 0x400000 ps) (k : Nat) (e : Nat ×
    Nat × Nat) : Keeps ps z (enqueueReq k s e) := by
  have k_modStack : Sub 0x400000 ps := sub_of hs rfl
  have k_modHbm : Sub 0x400000 ps := sub_of hs rfl
  unfold enqueueReq
  repeat'
    first
    | with_reducible refine keeps_ite (fun _ => ?_) (fun _ => ?_) | extract_lets | with_reducible assumption
    | with_reducible refine modStack_keeps ?_ k_modStack _ _ | with_reducible refine modHbm_keeps ?_ k_modHbm _
    | intro _ | dsimp +zetaDelta only

theorem execHbmAdmission_keeps {ps : Nat} {z s : State} (hz : Keeps ps z s) (hs : Sub 0x400000 ps) (stack : Nat)
    (new : List (Nat × Nat × Nat)) : ∀ z', execHbmAdmission stack new s = .next z' → Keeps ps z z' := by
  have k_enqueueReq : Sub 0x400000 ps := sub_of hs rfl
  have k_modStack : Sub 0x400000 ps := sub_of hs rfl
  intro z' e'
  unfold execHbmAdmission at e'
  cases e'
  repeat'
    first
    | with_reducible refine keeps_foldl ?_ ?_ | with_reducible refine keeps_ite (fun _ => ?_) (fun _ => ?_)
    | with_reducible assumption | with_reducible refine enqueueReq_keeps ?_ k_enqueueReq _ _
    | with_reducible refine modStack_keeps ?_ k_modStack _ _ | intro _

theorem modCipher_keeps {ps : Nat} {z s : State} (hz : Keeps ps z s) (hs : Sub 0x800000 ps) (k : Nat) (f : Cipher →
    Cipher) : Keeps ps z (modCipher k f s) := by
  have k_modIme : Sub 0x800000 ps := sub_of hs rfl
  unfold modCipher
  repeat'
    first
    | with_reducible assumption | with_reducible refine modIme_keeps ?_ k_modIme _ | intro _

theorem postPoison_keeps {ps : Nat} {z s : State} (hz : Keeps ps z s) (hs : Sub 0x8000 ps) (slot : Nat) (off : Nat)
    (source : Nat) (stack : Nat) : Keeps ps z (postPoison slot off source stack s) := by
  have k_post : Sub 0x8000 ps := sub_of hs rfl
  unfold postPoison
  repeat'
    first
    | with_reducible assumption | with_reducible refine post_keeps ?_ k_post _ _ _ _ | split

theorem detectPoison_keeps {ps : Nat} {z s : State} (hz : Keeps ps z s) (hs : Sub 0x58a200 ps) (k : Nat) (source :
    Nat) (line : Nat) (obj : Option (Nat × Nat)) : Keeps ps z (detectPoison k source line obj s) := by
  have k_postPoison : Sub 0x8000 ps := sub_of hs rfl
  have k_queueRow : Sub 0x2200 ps := sub_of hs rfl
  have k_addPoison : Sub 0x580000 ps := sub_of hs rfl
  have k_modStack : Sub 0x400000 ps := sub_of hs rfl
  unfold detectPoison
  repeat'
    first
    | with_reducible refine keeps_ite (fun _ => ?_) (fun _ => ?_) | extract_lets | with_reducible assumption
    | with_reducible refine postPoison_keeps ?_ k_postPoison _ _ _ _
    | with_reducible refine queueRow_keeps ?_ k_queueRow _ _
    | with_reducible refine addPoison_keeps ?_ k_addPoison _ _
    | with_reducible refine modStack_keeps ?_ k_modStack _ _ | intro _ | split | dsimp +zetaDelta only

theorem correctLine_keeps {ps : Nat} {z s : State} (hz : Keeps ps z s) (hs : Sub 0x400000 ps) (k : Nat) (line : Nat)
    : Keeps ps z (correctLine k line s) := by
  have k_modStack : Sub 0x400000 ps := sub_of hs rfl
  unfold correctLine
  repeat'
    first
    | with_reducible assumption | with_reducible refine modStack_keeps ?_ k_modStack _ _ | intro _

theorem poisonGroup_keeps {ps : Nat} {z s : State} (hz : Keeps ps z s) (hs : Sub 0x58a200 ps) (k : Nat) (line : Nat)
    (obj : Option (Nat × Nat)) : Keeps ps z (poisonGroup k line obj s) := by
  have k_detectPoison : Sub 0x58a200 ps := sub_of hs rfl
  unfold poisonGroup
  repeat'
    first
    | with_reducible refine keeps_foldl ?_ ?_ | extract_lets | with_reducible assumption
    | with_reducible refine detectPoison_keeps ?_ k_detectPoison _ _ _ _ | intro _ | dsimp +zetaDelta only

theorem integrityHalt_keeps {ps : Nat} {z s : State} (hz : Keeps ps z s) (hs : Sub 0x81c0a381 ps) (k : Nat) :
    Keeps ps z (integrityHalt k s) := by
  have k_haltDevice : Sub 0x81808181 ps := sub_of hs rfl
  have k_fltRecord : Sub 0x2280 ps := sub_of hs rfl
  have k_modHbm : Sub 0x400000 ps := sub_of hs rfl
  unfold integrityHalt
  repeat'
    first
    | with_reducible refine keeps_ite (fun _ => ?_) (fun _ => ?_) | extract_lets | with_reducible assumption
    | with_reducible refine haltDevice_keeps ?_ k_haltDevice _ _
    | with_reducible refine fltRecord_keeps ?_ k_fltRecord _ _ _ _ _ _ _
    | with_reducible refine modHbm_keeps ?_ k_modHbm _ | intro _ | dsimp +zetaDelta only

theorem unlist_keeps {ps : Nat} {z s : State} (hz : Keeps ps z s) (hs : Sub 0x800000 ps) (k : Nat) (line : Nat) :
    Keeps ps z (unlist k line s) := by
  have k_modCipher : Sub 0x800000 ps := sub_of hs rfl
  unfold unlist
  repeat'
    first
    | with_reducible assumption | with_reducible refine modCipher_keeps ?_ k_modCipher _ _ | intro _

theorem correctTag_keeps {ps : Nat} {z s : State} (hz : Keeps ps z s) (hs : Sub 0x400000 ps) (k : Nat) (l : HbmLine)
    : Keeps ps z (correctTag k l s) := by
  have k_correctLine : Sub 0x400000 ps := sub_of hs rfl
  unfold correctTag
  repeat'
    first
    | with_reducible refine keeps_ite (fun _ => ?_) (fun _ => ?_) | with_reducible assumption
    | with_reducible refine correctLine_keeps ?_ k_correctLine _ _ | intro _

theorem readTagged_keeps {ps : Nat} {z s : State} (hz : Keeps ps z s) (hs : Sub 0x81d8a381 ps) (k : Nat) (l :
    HbmLine) : Keeps ps z (readTagged k l s) := by
  have k_correctTag : Sub 0x400000 ps := sub_of hs rfl
  have k_unlist : Sub 0x800000 ps := sub_of hs rfl
  have k_integrityHalt : Sub 0x81c0a381 ps := sub_of hs rfl
  have k_correctLine : Sub 0x400000 ps := sub_of hs rfl
  have k_detectPoison : Sub 0x58a200 ps := sub_of hs rfl
  unfold readTagged
  repeat'
    first
    | with_reducible refine keeps_ite (fun _ => ?_) (fun _ => ?_) | extract_lets | with_reducible assumption
    | with_reducible refine correctTag_keeps ?_ k_correctTag _ _
    | with_reducible refine unlist_keeps ?_ k_unlist _ _
    | with_reducible refine integrityHalt_keeps ?_ k_integrityHalt _
    | with_reducible refine correctLine_keeps ?_ k_correctLine _ _
    | with_reducible refine detectPoison_keeps ?_ k_detectPoison _ _ _ _ | intro _ | dsimp +zetaDelta only

theorem readHbm_keeps {ps : Nat} {z s : State} (hz : Keeps ps z s) (hs : Sub 0x81d8a381 ps) (k : Nat) (l : HbmLine)
    : Keeps ps z (readHbm k l s) := by
  have k_readTagged : Sub 0x81d8a381 ps := sub_of hs rfl
  have k_poisonGroup : Sub 0x58a200 ps := sub_of hs rfl
  have k_correctLine : Sub 0x400000 ps := sub_of hs rfl
  have k_detectPoison : Sub 0x58a200 ps := sub_of hs rfl
  unfold readHbm
  repeat'
    first
    | with_reducible refine keeps_ite (fun _ => ?_) (fun _ => ?_) | extract_lets | with_reducible assumption
    | with_reducible refine readTagged_keeps ?_ k_readTagged _ _
    | with_reducible refine poisonGroup_keeps ?_ k_poisonGroup _ _ _
    | with_reducible refine correctLine_keeps ?_ k_correctLine _ _
    | with_reducible refine detectPoison_keeps ?_ k_detectPoison _ _ _ _ | intro _ | split | dsimp +zetaDelta only

theorem writeHbm_keeps {ps : Nat} {z s : State} (hz : Keeps ps z s) (hs : Sub 0xc00000 ps) (k : Nat) (l : HbmLine) :
    Keeps ps z (writeHbm k l s) := by
  have k_unlist : Sub 0x800000 ps := sub_of hs rfl
  have k_modStack : Sub 0x400000 ps := sub_of hs rfl
  unfold writeHbm
  repeat'
    first
    | with_reducible assumption | with_reducible refine unlist_keeps ?_ k_unlist _ _
    | with_reducible refine modStack_keeps ?_ k_modStack _ _ | intro _

theorem doneLine_keeps {ps : Nat} {z s : State} (hz : Keeps ps z s) (hs : Sub 0x81d8a381 ps) (k : Nat) (l : HbmLine)
    : Keeps ps z (doneLine k s l) := by
  have k_writeHbm : Sub 0xc00000 ps := sub_of hs rfl
  have k_readHbm : Sub 0x81d8a381 ps := sub_of hs rfl
  have k_modCipher : Sub 0x800000 ps := sub_of hs rfl
  unfold doneLine
  repeat'
    first
    | with_reducible refine keeps_ite (fun _ => ?_) (fun _ => ?_) | extract_lets | with_reducible assumption
    | with_reducible refine writeHbm_keeps ?_ k_writeHbm _ _ | with_reducible refine readHbm_keeps ?_ k_readHbm _ _
    | with_reducible refine modCipher_keeps ?_ k_modCipher _ _ | intro _ | split | dsimp +zetaDelta only

theorem execHbmTransactionComplete_keeps {ps : Nat} {z s : State} (hz : Keeps ps z s) (hs : Sub 0x81d8a381 ps)
    (stack : Nat) (id : Nat) (lines : List HbmLine) :
    ∀ z', execHbmTransactionComplete stack id lines s = .next z' → Keeps ps z z' := by
  have k_doneLine : Sub 0x81d8a381 ps := sub_of hs rfl
  have k_modStack : Sub 0x400000 ps := sub_of hs rfl
  intro z' e'
  unfold execHbmTransactionComplete at e'
  cases e'
  repeat'
    first
    | with_reducible refine keeps_foldl ?_ ?_ | with_reducible refine keeps_ite (fun _ => ?_) (fun _ => ?_)
    | with_reducible assumption | with_reducible refine doneLine_keeps ?_ k_doneLine _ _
    | with_reducible refine modStack_keeps ?_ k_modStack _ _ | intro _

theorem execCorrectedLineRewrite_keeps {ps : Nat} {z s : State} (hz : Keeps ps z s) (hs : Sub 0x400000 ps) (stack :
    Nat) (line : Nat) : ∀ z', execCorrectedLineRewrite stack line s = .next z' → Keeps ps z z' := by
  have k_modStack : Sub 0x400000 ps := sub_of hs rfl
  intro z' e'
  unfold execCorrectedLineRewrite at e'
  cases e'
  repeat'
    first
    | with_reducible refine keeps_ite (fun _ => ?_) (fun _ => ?_) | with_reducible assumption
    | with_reducible refine modStack_keeps ?_ k_modStack _ _ | intro _

theorem execClusterStoreUncorrectable_keeps {ps : Nat} {z s : State} (hz : Keeps ps z s) (hs : Sub 0x588000 ps)
    (cluster : Nat) (slot : Nat) (off : Nat) :
    ∀ z', execClusterStoreUncorrectable cluster slot off s = .next z' → Keeps ps z z' := by
  have k_postPoison : Sub 0x8000 ps := sub_of hs rfl
  have k_addPoison : Sub 0x580000 ps := sub_of hs rfl
  have k_modClu : Sub 0x400000 ps := sub_of hs rfl
  intro z' e'
  unfold execClusterStoreUncorrectable at e'
  cases e'
  repeat'
    first
    | with_reducible refine keeps_ite (fun _ => ?_) (fun _ => ?_) | extract_lets | with_reducible assumption
    | with_reducible refine postPoison_keeps ?_ k_postPoison _ _ _ _
    | with_reducible refine addPoison_keeps ?_ k_addPoison _ _ | with_reducible refine modClu_keeps ?_ k_modClu _ _
    | intro _ | split | dsimp +zetaDelta only

theorem passCorrection_keeps {ps : Nat} {z s : State} (hz : Keeps ps z s) (hs : Sub 0x402200 ps) (k : Nat) (line :
    Nat) : Keeps ps z (passCorrection k line s) := by
  have k_queueRow : Sub 0x2200 ps := sub_of hs rfl
  have k_modStack : Sub 0x400000 ps := sub_of hs rfl
  unfold passCorrection
  repeat'
    first
    | with_reducible refine keeps_ite (fun _ => ?_) (fun _ => ?_) | extract_lets | with_reducible assumption
    | with_reducible refine queueRow_keeps ?_ k_queueRow _ _
    | with_reducible refine modStack_keeps ?_ k_modStack _ _ | intro _ | dsimp +zetaDelta only

theorem badgerCorrects_keeps {ps : Nat} {z s : State} (hz : Keeps ps z s) (hs : Sub 0xc02200 ps) (k : Nat) (line :
    Nat) : Keeps ps z (badgerCorrects k line s) := by
  have k_passCorrection : Sub 0x402200 ps := sub_of hs rfl
  have k_modCipher : Sub 0x800000 ps := sub_of hs rfl
  have k_modStack : Sub 0x400000 ps := sub_of hs rfl
  unfold badgerCorrects
  repeat'
    first
    | with_reducible refine keeps_ite (fun _ => ?_) (fun _ => ?_) | extract_lets | with_reducible assumption
    | with_reducible refine passCorrection_keeps ?_ k_passCorrection _ _
    | with_reducible refine modCipher_keeps ?_ k_modCipher _ _
    | with_reducible refine modStack_keeps ?_ k_modStack _ _ | intro _ | dsimp +zetaDelta only

theorem badgerLine_keeps {ps : Nat} {z s : State} (hz : Keeps ps z s) (hs : Sub 0xd8a200 ps) (k : Nat) (l : HbmLine)
    : Keeps ps z (badgerLine k s l) := by
  have k_badgerCorrects : Sub 0xc02200 ps := sub_of hs rfl
  have k_detectPoison : Sub 0x58a200 ps := sub_of hs rfl
  unfold badgerLine
  repeat'
    first
    | with_reducible assumption | with_reducible refine badgerCorrects_keeps ?_ k_badgerCorrects _ _
    | with_reducible refine detectPoison_keeps ?_ k_detectPoison _ _ _ _ | intro _ | split

theorem execBadgerChunkRead_keeps {ps : Nat} {z s : State} (hz : Keeps ps z s) (hs : Sub 0xd8a200 ps) (stack : Nat)
    (lines : List HbmLine) : ∀ z', execBadgerChunkRead stack lines s = .next z' → Keeps ps z z' := by
  have k_badgerLine : Sub 0xd8a200 ps := sub_of hs rfl
  have k_modStack : Sub 0x400000 ps := sub_of hs rfl
  intro z' e'
  unfold execBadgerChunkRead at e'
  cases e'
  repeat'
    first
    | with_reducible refine keeps_foldl ?_ ?_ | with_reducible refine keeps_ite (fun _ => ?_) (fun _ => ?_)
    | extract_lets | with_reducible assumption | with_reducible refine badgerLine_keeps ?_ k_badgerLine _ _
    | with_reducible refine modStack_keeps ?_ k_modStack _ _ | intro _ | dsimp +zetaDelta only

theorem execHaltHeartbeatStop_keeps {ps : Nat} {z s : State} (hz : Keeps ps z s) (hs : Sub 0x80 ps)  :
    ∀ z', execHaltHeartbeatStop s = .next z' → Keeps ps z z' := by
  have k_modFlt : Sub 0x80 ps := sub_of hs rfl
  intro z' e'
  unfold execHaltHeartbeatStop at e'
  cases e'
  repeat'
    first
    | with_reducible refine keeps_ite (fun _ => ?_) (fun _ => ?_) | with_reducible assumption
    | with_reducible refine modFlt_keeps ?_ k_modFlt _ | intro _

end Sys2Proof.Laws
end

