-- ==== Sys2Proof/Laws/State.lean ====
section
/-!
SUPPORT. Sys2Proof/Laws/State.lean: what each change of one part of the state leaves in every field, so that no later proof
unfolds a record update.
-/
namespace Sys2Proof.Laws
open Sys2Proof.Machine

/-! ## `modMod` -/

@[simp] theorem modMod_pending (f : ModuleState → ModuleState) (s : State) : (modMod f s).pending = s.pending := rfl
@[simp] theorem modMod_out (f : ModuleState → ModuleState) (s : State) : (modMod f s).out = s.out := rfl
@[simp] theorem modMod_draws (f : ModuleState → ModuleState) (s : State) : (modMod f s).draws = s.draws := rfl
@[simp] theorem modMod_now (f : ModuleState → ModuleState) (s : State) : (modMod f s).now = s.now := rfl
@[simp] theorem modMod_hold64 (f : ModuleState → ModuleState) (s : State) : (modMod f s).hold64 = s.hold64 := rfl
@[simp] theorem modMod_latch64 (f : ModuleState → ModuleState) (s : State) : (modMod f s).latch64 = s.latch64 := rfl
@[simp] theorem modMod_mod (f : ModuleState → ModuleState) (s : State) : (modMod f s).mod = f s.mod := rfl
@[simp] theorem modMod_clk (f : ModuleState → ModuleState) (s : State) : (modMod f s).clk = s.clk := rfl
@[simp] theorem modMod_flt (f : ModuleState → ModuleState) (s : State) : (modMod f s).flt = s.flt := rfl
@[simp] theorem modMod_mgt (f : ModuleState → ModuleState) (s : State) : (modMod f s).mgt = s.mgt := rfl
@[simp] theorem modMod_log (f : ModuleState → ModuleState) (s : State) : (modMod f s).log = s.log := rfl
@[simp] theorem modMod_owl (f : ModuleState → ModuleState) (s : State) : (modMod f s).owl = s.owl := rfl
@[simp] theorem modMod_pwr (f : ModuleState → ModuleState) (s : State) : (modMod f s).pwr = s.pwr := rfl
@[simp] theorem modMod_led (f : ModuleState → ModuleState) (s : State) : (modMod f s).led = s.led := rfl
@[simp] theorem modMod_nv (f : ModuleState → ModuleState) (s : State) : (modMod f s).nv = s.nv := rfl
@[simp] theorem modMod_hif (f : ModuleState → ModuleState) (s : State) : (modMod f s).hif = s.hif := rfl
@[simp] theorem modMod_cmd (f : ModuleState → ModuleState) (s : State) : (modMod f s).cmd = s.cmd := rfl
@[simp] theorem modMod_ctxs (f : ModuleState → ModuleState) (s : State) : (modMod f s).ctxs = s.ctxs := rfl
@[simp] theorem modMod_mems (f : ModuleState → ModuleState) (s : State) : (modMod f s).mems = s.mems := rfl
@[simp] theorem modMod_evs (f : ModuleState → ModuleState) (s : State) : (modMod f s).evs = s.evs := rfl
@[simp] theorem modMod_mem (f : ModuleState → ModuleState) (s : State) : (modMod f s).mem = s.mem := rfl
@[simp] theorem modMod_poison (f : ModuleState → ModuleState) (s : State) : (modMod f s).poison = s.poison := rfl
@[simp] theorem modMod_tsk (f : ModuleState → ModuleState) (s : State) : (modMod f s).tsk = s.tsk := rfl
@[simp] theorem modMod_hbm (f : ModuleState → ModuleState) (s : State) : (modMod f s).hbm = s.hbm := rfl
@[simp] theorem modMod_ime (f : ModuleState → ModuleState) (s : State) : (modMod f s).ime = s.ime := rfl
@[simp] theorem modMod_lnk (f : ModuleState → ModuleState) (s : State) : (modMod f s).lnk = s.lnk := rfl
@[simp] theorem modMod_wmk (f : ModuleState → ModuleState) (s : State) : (modMod f s).wmk = s.wmk := rfl
@[simp] theorem modMod_col (f : ModuleState → ModuleState) (s : State) : (modMod f s).col = s.col := rfl
@[simp] theorem modMod_runners (f : ModuleState → ModuleState) (s : State) : (modMod f s).runners = s.runners := rfl
@[simp] theorem modMod_admits (f : ModuleState → ModuleState) (s : State) : (modMod f s).admits = s.admits := rfl
@[simp] theorem modMod_ing (f : ModuleState → ModuleState) (s : State) : (modMod f s).ing = s.ing := rfl
@[simp] theorem modMod_ckp (f : ModuleState → ModuleState) (s : State) : (modMod f s).ckp = s.ckp := rfl
@[simp] theorem modMod_sec (f : ModuleState → ModuleState) (s : State) : (modMod f s).sec = s.sec := rfl
@[simp] theorem modMod_lcs (f : ModuleState → ModuleState) (s : State) : (modMod f s).lcs = s.lcs := rfl
@[simp] theorem modMod_mxe (f : ModuleState → ModuleState) (s : State) : (modMod f s).mxe = s.mxe := rfl
@[simp] theorem modMod_vcu (f : ModuleState → ModuleState) (s : State) : (modMod f s).vcu = s.vcu := rfl
@[simp] theorem modMod_svc (f : ModuleState → ModuleState) (s : State) : (modMod f s).svc = s.svc := rfl

/-! ## `modClk` -/

@[simp] theorem modClk_pending (f : ClkState → ClkState) (s : State) : (modClk f s).pending = s.pending := rfl
@[simp] theorem modClk_out (f : ClkState → ClkState) (s : State) : (modClk f s).out = s.out := rfl
@[simp] theorem modClk_draws (f : ClkState → ClkState) (s : State) : (modClk f s).draws = s.draws := rfl
@[simp] theorem modClk_now (f : ClkState → ClkState) (s : State) : (modClk f s).now = s.now := rfl
@[simp] theorem modClk_hold64 (f : ClkState → ClkState) (s : State) : (modClk f s).hold64 = s.hold64 := rfl
@[simp] theorem modClk_latch64 (f : ClkState → ClkState) (s : State) : (modClk f s).latch64 = s.latch64 := rfl
@[simp] theorem modClk_mod (f : ClkState → ClkState) (s : State) : (modClk f s).mod = s.mod := rfl
@[simp] theorem modClk_clk (f : ClkState → ClkState) (s : State) : (modClk f s).clk = f s.clk := rfl
@[simp] theorem modClk_flt (f : ClkState → ClkState) (s : State) : (modClk f s).flt = s.flt := rfl
@[simp] theorem modClk_mgt (f : ClkState → ClkState) (s : State) : (modClk f s).mgt = s.mgt := rfl
@[simp] theorem modClk_log (f : ClkState → ClkState) (s : State) : (modClk f s).log = s.log := rfl
@[simp] theorem modClk_owl (f : ClkState → ClkState) (s : State) : (modClk f s).owl = s.owl := rfl
@[simp] theorem modClk_pwr (f : ClkState → ClkState) (s : State) : (modClk f s).pwr = s.pwr := rfl
@[simp] theorem modClk_led (f : ClkState → ClkState) (s : State) : (modClk f s).led = s.led := rfl
@[simp] theorem modClk_nv (f : ClkState → ClkState) (s : State) : (modClk f s).nv = s.nv := rfl
@[simp] theorem modClk_hif (f : ClkState → ClkState) (s : State) : (modClk f s).hif = s.hif := rfl
@[simp] theorem modClk_cmd (f : ClkState → ClkState) (s : State) : (modClk f s).cmd = s.cmd := rfl
@[simp] theorem modClk_ctxs (f : ClkState → ClkState) (s : State) : (modClk f s).ctxs = s.ctxs := rfl
@[simp] theorem modClk_mems (f : ClkState → ClkState) (s : State) : (modClk f s).mems = s.mems := rfl
@[simp] theorem modClk_evs (f : ClkState → ClkState) (s : State) : (modClk f s).evs = s.evs := rfl
@[simp] theorem modClk_mem (f : ClkState → ClkState) (s : State) : (modClk f s).mem = s.mem := rfl
@[simp] theorem modClk_poison (f : ClkState → ClkState) (s : State) : (modClk f s).poison = s.poison := rfl
@[simp] theorem modClk_tsk (f : ClkState → ClkState) (s : State) : (modClk f s).tsk = s.tsk := rfl
@[simp] theorem modClk_hbm (f : ClkState → ClkState) (s : State) : (modClk f s).hbm = s.hbm := rfl
@[simp] theorem modClk_ime (f : ClkState → ClkState) (s : State) : (modClk f s).ime = s.ime := rfl
@[simp] theorem modClk_lnk (f : ClkState → ClkState) (s : State) : (modClk f s).lnk = s.lnk := rfl
@[simp] theorem modClk_wmk (f : ClkState → ClkState) (s : State) : (modClk f s).wmk = s.wmk := rfl
@[simp] theorem modClk_col (f : ClkState → ClkState) (s : State) : (modClk f s).col = s.col := rfl
@[simp] theorem modClk_runners (f : ClkState → ClkState) (s : State) : (modClk f s).runners = s.runners := rfl
@[simp] theorem modClk_admits (f : ClkState → ClkState) (s : State) : (modClk f s).admits = s.admits := rfl
@[simp] theorem modClk_ing (f : ClkState → ClkState) (s : State) : (modClk f s).ing = s.ing := rfl
@[simp] theorem modClk_ckp (f : ClkState → ClkState) (s : State) : (modClk f s).ckp = s.ckp := rfl
@[simp] theorem modClk_sec (f : ClkState → ClkState) (s : State) : (modClk f s).sec = s.sec := rfl
@[simp] theorem modClk_lcs (f : ClkState → ClkState) (s : State) : (modClk f s).lcs = s.lcs := rfl
@[simp] theorem modClk_mxe (f : ClkState → ClkState) (s : State) : (modClk f s).mxe = s.mxe := rfl
@[simp] theorem modClk_vcu (f : ClkState → ClkState) (s : State) : (modClk f s).vcu = s.vcu := rfl
@[simp] theorem modClk_svc (f : ClkState → ClkState) (s : State) : (modClk f s).svc = s.svc := rfl

/-! ## `modFlt` -/

@[simp] theorem modFlt_pending (f : FltState → FltState) (s : State) : (modFlt f s).pending = s.pending := rfl
@[simp] theorem modFlt_out (f : FltState → FltState) (s : State) : (modFlt f s).out = s.out := rfl
@[simp] theorem modFlt_draws (f : FltState → FltState) (s : State) : (modFlt f s).draws = s.draws := rfl
@[simp] theorem modFlt_now (f : FltState → FltState) (s : State) : (modFlt f s).now = s.now := rfl
@[simp] theorem modFlt_hold64 (f : FltState → FltState) (s : State) : (modFlt f s).hold64 = s.hold64 := rfl
@[simp] theorem modFlt_latch64 (f : FltState → FltState) (s : State) : (modFlt f s).latch64 = s.latch64 := rfl
@[simp] theorem modFlt_mod (f : FltState → FltState) (s : State) : (modFlt f s).mod = s.mod := rfl
@[simp] theorem modFlt_clk (f : FltState → FltState) (s : State) : (modFlt f s).clk = s.clk := rfl
@[simp] theorem modFlt_flt (f : FltState → FltState) (s : State) : (modFlt f s).flt = f s.flt := rfl
@[simp] theorem modFlt_mgt (f : FltState → FltState) (s : State) : (modFlt f s).mgt = s.mgt := rfl
@[simp] theorem modFlt_log (f : FltState → FltState) (s : State) : (modFlt f s).log = s.log := rfl
@[simp] theorem modFlt_owl (f : FltState → FltState) (s : State) : (modFlt f s).owl = s.owl := rfl
@[simp] theorem modFlt_pwr (f : FltState → FltState) (s : State) : (modFlt f s).pwr = s.pwr := rfl
@[simp] theorem modFlt_led (f : FltState → FltState) (s : State) : (modFlt f s).led = s.led := rfl
@[simp] theorem modFlt_nv (f : FltState → FltState) (s : State) : (modFlt f s).nv = s.nv := rfl
@[simp] theorem modFlt_hif (f : FltState → FltState) (s : State) : (modFlt f s).hif = s.hif := rfl
@[simp] theorem modFlt_cmd (f : FltState → FltState) (s : State) : (modFlt f s).cmd = s.cmd := rfl
@[simp] theorem modFlt_ctxs (f : FltState → FltState) (s : State) : (modFlt f s).ctxs = s.ctxs := rfl
@[simp] theorem modFlt_mems (f : FltState → FltState) (s : State) : (modFlt f s).mems = s.mems := rfl
@[simp] theorem modFlt_evs (f : FltState → FltState) (s : State) : (modFlt f s).evs = s.evs := rfl
@[simp] theorem modFlt_mem (f : FltState → FltState) (s : State) : (modFlt f s).mem = s.mem := rfl
@[simp] theorem modFlt_poison (f : FltState → FltState) (s : State) : (modFlt f s).poison = s.poison := rfl
@[simp] theorem modFlt_tsk (f : FltState → FltState) (s : State) : (modFlt f s).tsk = s.tsk := rfl
@[simp] theorem modFlt_hbm (f : FltState → FltState) (s : State) : (modFlt f s).hbm = s.hbm := rfl
@[simp] theorem modFlt_ime (f : FltState → FltState) (s : State) : (modFlt f s).ime = s.ime := rfl
@[simp] theorem modFlt_lnk (f : FltState → FltState) (s : State) : (modFlt f s).lnk = s.lnk := rfl
@[simp] theorem modFlt_wmk (f : FltState → FltState) (s : State) : (modFlt f s).wmk = s.wmk := rfl
@[simp] theorem modFlt_col (f : FltState → FltState) (s : State) : (modFlt f s).col = s.col := rfl
@[simp] theorem modFlt_runners (f : FltState → FltState) (s : State) : (modFlt f s).runners = s.runners := rfl
@[simp] theorem modFlt_admits (f : FltState → FltState) (s : State) : (modFlt f s).admits = s.admits := rfl
@[simp] theorem modFlt_ing (f : FltState → FltState) (s : State) : (modFlt f s).ing = s.ing := rfl
@[simp] theorem modFlt_ckp (f : FltState → FltState) (s : State) : (modFlt f s).ckp = s.ckp := rfl
@[simp] theorem modFlt_sec (f : FltState → FltState) (s : State) : (modFlt f s).sec = s.sec := rfl
@[simp] theorem modFlt_lcs (f : FltState → FltState) (s : State) : (modFlt f s).lcs = s.lcs := rfl
@[simp] theorem modFlt_mxe (f : FltState → FltState) (s : State) : (modFlt f s).mxe = s.mxe := rfl
@[simp] theorem modFlt_vcu (f : FltState → FltState) (s : State) : (modFlt f s).vcu = s.vcu := rfl
@[simp] theorem modFlt_svc (f : FltState → FltState) (s : State) : (modFlt f s).svc = s.svc := rfl

/-! ## `modMgt` -/

@[simp] theorem modMgt_pending (f : MgtState → MgtState) (s : State) : (modMgt f s).pending = s.pending := rfl
@[simp] theorem modMgt_out (f : MgtState → MgtState) (s : State) : (modMgt f s).out = s.out := rfl
@[simp] theorem modMgt_draws (f : MgtState → MgtState) (s : State) : (modMgt f s).draws = s.draws := rfl
@[simp] theorem modMgt_now (f : MgtState → MgtState) (s : State) : (modMgt f s).now = s.now := rfl
@[simp] theorem modMgt_hold64 (f : MgtState → MgtState) (s : State) : (modMgt f s).hold64 = s.hold64 := rfl
@[simp] theorem modMgt_latch64 (f : MgtState → MgtState) (s : State) : (modMgt f s).latch64 = s.latch64 := rfl
@[simp] theorem modMgt_mod (f : MgtState → MgtState) (s : State) : (modMgt f s).mod = s.mod := rfl
@[simp] theorem modMgt_clk (f : MgtState → MgtState) (s : State) : (modMgt f s).clk = s.clk := rfl
@[simp] theorem modMgt_flt (f : MgtState → MgtState) (s : State) : (modMgt f s).flt = s.flt := rfl
@[simp] theorem modMgt_mgt (f : MgtState → MgtState) (s : State) : (modMgt f s).mgt = f s.mgt := rfl
@[simp] theorem modMgt_log (f : MgtState → MgtState) (s : State) : (modMgt f s).log = s.log := rfl
@[simp] theorem modMgt_owl (f : MgtState → MgtState) (s : State) : (modMgt f s).owl = s.owl := rfl
@[simp] theorem modMgt_pwr (f : MgtState → MgtState) (s : State) : (modMgt f s).pwr = s.pwr := rfl
@[simp] theorem modMgt_led (f : MgtState → MgtState) (s : State) : (modMgt f s).led = s.led := rfl
@[simp] theorem modMgt_nv (f : MgtState → MgtState) (s : State) : (modMgt f s).nv = s.nv := rfl
@[simp] theorem modMgt_hif (f : MgtState → MgtState) (s : State) : (modMgt f s).hif = s.hif := rfl
@[simp] theorem modMgt_cmd (f : MgtState → MgtState) (s : State) : (modMgt f s).cmd = s.cmd := rfl
@[simp] theorem modMgt_ctxs (f : MgtState → MgtState) (s : State) : (modMgt f s).ctxs = s.ctxs := rfl
@[simp] theorem modMgt_mems (f : MgtState → MgtState) (s : State) : (modMgt f s).mems = s.mems := rfl
@[simp] theorem modMgt_evs (f : MgtState → MgtState) (s : State) : (modMgt f s).evs = s.evs := rfl
@[simp] theorem modMgt_mem (f : MgtState → MgtState) (s : State) : (modMgt f s).mem = s.mem := rfl
@[simp] theorem modMgt_poison (f : MgtState → MgtState) (s : State) : (modMgt f s).poison = s.poison := rfl
@[simp] theorem modMgt_tsk (f : MgtState → MgtState) (s : State) : (modMgt f s).tsk = s.tsk := rfl
@[simp] theorem modMgt_hbm (f : MgtState → MgtState) (s : State) : (modMgt f s).hbm = s.hbm := rfl
@[simp] theorem modMgt_ime (f : MgtState → MgtState) (s : State) : (modMgt f s).ime = s.ime := rfl
@[simp] theorem modMgt_lnk (f : MgtState → MgtState) (s : State) : (modMgt f s).lnk = s.lnk := rfl
@[simp] theorem modMgt_wmk (f : MgtState → MgtState) (s : State) : (modMgt f s).wmk = s.wmk := rfl
@[simp] theorem modMgt_col (f : MgtState → MgtState) (s : State) : (modMgt f s).col = s.col := rfl
@[simp] theorem modMgt_runners (f : MgtState → MgtState) (s : State) : (modMgt f s).runners = s.runners := rfl
@[simp] theorem modMgt_admits (f : MgtState → MgtState) (s : State) : (modMgt f s).admits = s.admits := rfl
@[simp] theorem modMgt_ing (f : MgtState → MgtState) (s : State) : (modMgt f s).ing = s.ing := rfl
@[simp] theorem modMgt_ckp (f : MgtState → MgtState) (s : State) : (modMgt f s).ckp = s.ckp := rfl
@[simp] theorem modMgt_sec (f : MgtState → MgtState) (s : State) : (modMgt f s).sec = s.sec := rfl
@[simp] theorem modMgt_lcs (f : MgtState → MgtState) (s : State) : (modMgt f s).lcs = s.lcs := rfl
@[simp] theorem modMgt_mxe (f : MgtState → MgtState) (s : State) : (modMgt f s).mxe = s.mxe := rfl
@[simp] theorem modMgt_vcu (f : MgtState → MgtState) (s : State) : (modMgt f s).vcu = s.vcu := rfl
@[simp] theorem modMgt_svc (f : MgtState → MgtState) (s : State) : (modMgt f s).svc = s.svc := rfl

/-! ## `modLog` -/

@[simp] theorem modLog_pending (f : LogState → LogState) (s : State) : (modLog f s).pending = s.pending := rfl
@[simp] theorem modLog_out (f : LogState → LogState) (s : State) : (modLog f s).out = s.out := rfl
@[simp] theorem modLog_draws (f : LogState → LogState) (s : State) : (modLog f s).draws = s.draws := rfl
@[simp] theorem modLog_now (f : LogState → LogState) (s : State) : (modLog f s).now = s.now := rfl
@[simp] theorem modLog_hold64 (f : LogState → LogState) (s : State) : (modLog f s).hold64 = s.hold64 := rfl
@[simp] theorem modLog_latch64 (f : LogState → LogState) (s : State) : (modLog f s).latch64 = s.latch64 := rfl
@[simp] theorem modLog_mod (f : LogState → LogState) (s : State) : (modLog f s).mod = s.mod := rfl
@[simp] theorem modLog_clk (f : LogState → LogState) (s : State) : (modLog f s).clk = s.clk := rfl
@[simp] theorem modLog_flt (f : LogState → LogState) (s : State) : (modLog f s).flt = s.flt := rfl
@[simp] theorem modLog_mgt (f : LogState → LogState) (s : State) : (modLog f s).mgt = s.mgt := rfl
@[simp] theorem modLog_log (f : LogState → LogState) (s : State) : (modLog f s).log = f s.log := rfl
@[simp] theorem modLog_owl (f : LogState → LogState) (s : State) : (modLog f s).owl = s.owl := rfl
@[simp] theorem modLog_pwr (f : LogState → LogState) (s : State) : (modLog f s).pwr = s.pwr := rfl
@[simp] theorem modLog_led (f : LogState → LogState) (s : State) : (modLog f s).led = s.led := rfl
@[simp] theorem modLog_nv (f : LogState → LogState) (s : State) : (modLog f s).nv = s.nv := rfl
@[simp] theorem modLog_hif (f : LogState → LogState) (s : State) : (modLog f s).hif = s.hif := rfl
@[simp] theorem modLog_cmd (f : LogState → LogState) (s : State) : (modLog f s).cmd = s.cmd := rfl
@[simp] theorem modLog_ctxs (f : LogState → LogState) (s : State) : (modLog f s).ctxs = s.ctxs := rfl
@[simp] theorem modLog_mems (f : LogState → LogState) (s : State) : (modLog f s).mems = s.mems := rfl
@[simp] theorem modLog_evs (f : LogState → LogState) (s : State) : (modLog f s).evs = s.evs := rfl
@[simp] theorem modLog_mem (f : LogState → LogState) (s : State) : (modLog f s).mem = s.mem := rfl
@[simp] theorem modLog_poison (f : LogState → LogState) (s : State) : (modLog f s).poison = s.poison := rfl
@[simp] theorem modLog_tsk (f : LogState → LogState) (s : State) : (modLog f s).tsk = s.tsk := rfl
@[simp] theorem modLog_hbm (f : LogState → LogState) (s : State) : (modLog f s).hbm = s.hbm := rfl
@[simp] theorem modLog_ime (f : LogState → LogState) (s : State) : (modLog f s).ime = s.ime := rfl
@[simp] theorem modLog_lnk (f : LogState → LogState) (s : State) : (modLog f s).lnk = s.lnk := rfl
@[simp] theorem modLog_wmk (f : LogState → LogState) (s : State) : (modLog f s).wmk = s.wmk := rfl
@[simp] theorem modLog_col (f : LogState → LogState) (s : State) : (modLog f s).col = s.col := rfl
@[simp] theorem modLog_runners (f : LogState → LogState) (s : State) : (modLog f s).runners = s.runners := rfl
@[simp] theorem modLog_admits (f : LogState → LogState) (s : State) : (modLog f s).admits = s.admits := rfl
@[simp] theorem modLog_ing (f : LogState → LogState) (s : State) : (modLog f s).ing = s.ing := rfl
@[simp] theorem modLog_ckp (f : LogState → LogState) (s : State) : (modLog f s).ckp = s.ckp := rfl
@[simp] theorem modLog_sec (f : LogState → LogState) (s : State) : (modLog f s).sec = s.sec := rfl
@[simp] theorem modLog_lcs (f : LogState → LogState) (s : State) : (modLog f s).lcs = s.lcs := rfl
@[simp] theorem modLog_mxe (f : LogState → LogState) (s : State) : (modLog f s).mxe = s.mxe := rfl
@[simp] theorem modLog_vcu (f : LogState → LogState) (s : State) : (modLog f s).vcu = s.vcu := rfl
@[simp] theorem modLog_svc (f : LogState → LogState) (s : State) : (modLog f s).svc = s.svc := rfl

/-! ## `modOwl` -/

@[simp] theorem modOwl_pending (f : OwlState → OwlState) (s : State) : (modOwl f s).pending = s.pending := rfl
@[simp] theorem modOwl_out (f : OwlState → OwlState) (s : State) : (modOwl f s).out = s.out := rfl
@[simp] theorem modOwl_draws (f : OwlState → OwlState) (s : State) : (modOwl f s).draws = s.draws := rfl
@[simp] theorem modOwl_now (f : OwlState → OwlState) (s : State) : (modOwl f s).now = s.now := rfl
@[simp] theorem modOwl_hold64 (f : OwlState → OwlState) (s : State) : (modOwl f s).hold64 = s.hold64 := rfl
@[simp] theorem modOwl_latch64 (f : OwlState → OwlState) (s : State) : (modOwl f s).latch64 = s.latch64 := rfl
@[simp] theorem modOwl_mod (f : OwlState → OwlState) (s : State) : (modOwl f s).mod = s.mod := rfl
@[simp] theorem modOwl_clk (f : OwlState → OwlState) (s : State) : (modOwl f s).clk = s.clk := rfl
@[simp] theorem modOwl_flt (f : OwlState → OwlState) (s : State) : (modOwl f s).flt = s.flt := rfl
@[simp] theorem modOwl_mgt (f : OwlState → OwlState) (s : State) : (modOwl f s).mgt = s.mgt := rfl
@[simp] theorem modOwl_log (f : OwlState → OwlState) (s : State) : (modOwl f s).log = s.log := rfl
@[simp] theorem modOwl_owl (f : OwlState → OwlState) (s : State) : (modOwl f s).owl = f s.owl := rfl
@[simp] theorem modOwl_pwr (f : OwlState → OwlState) (s : State) : (modOwl f s).pwr = s.pwr := rfl
@[simp] theorem modOwl_led (f : OwlState → OwlState) (s : State) : (modOwl f s).led = s.led := rfl
@[simp] theorem modOwl_nv (f : OwlState → OwlState) (s : State) : (modOwl f s).nv = s.nv := rfl
@[simp] theorem modOwl_hif (f : OwlState → OwlState) (s : State) : (modOwl f s).hif = s.hif := rfl
@[simp] theorem modOwl_cmd (f : OwlState → OwlState) (s : State) : (modOwl f s).cmd = s.cmd := rfl
@[simp] theorem modOwl_ctxs (f : OwlState → OwlState) (s : State) : (modOwl f s).ctxs = s.ctxs := rfl
@[simp] theorem modOwl_mems (f : OwlState → OwlState) (s : State) : (modOwl f s).mems = s.mems := rfl
@[simp] theorem modOwl_evs (f : OwlState → OwlState) (s : State) : (modOwl f s).evs = s.evs := rfl
@[simp] theorem modOwl_mem (f : OwlState → OwlState) (s : State) : (modOwl f s).mem = s.mem := rfl
@[simp] theorem modOwl_poison (f : OwlState → OwlState) (s : State) : (modOwl f s).poison = s.poison := rfl
@[simp] theorem modOwl_tsk (f : OwlState → OwlState) (s : State) : (modOwl f s).tsk = s.tsk := rfl
@[simp] theorem modOwl_hbm (f : OwlState → OwlState) (s : State) : (modOwl f s).hbm = s.hbm := rfl
@[simp] theorem modOwl_ime (f : OwlState → OwlState) (s : State) : (modOwl f s).ime = s.ime := rfl
@[simp] theorem modOwl_lnk (f : OwlState → OwlState) (s : State) : (modOwl f s).lnk = s.lnk := rfl
@[simp] theorem modOwl_wmk (f : OwlState → OwlState) (s : State) : (modOwl f s).wmk = s.wmk := rfl
@[simp] theorem modOwl_col (f : OwlState → OwlState) (s : State) : (modOwl f s).col = s.col := rfl
@[simp] theorem modOwl_runners (f : OwlState → OwlState) (s : State) : (modOwl f s).runners = s.runners := rfl
@[simp] theorem modOwl_admits (f : OwlState → OwlState) (s : State) : (modOwl f s).admits = s.admits := rfl
@[simp] theorem modOwl_ing (f : OwlState → OwlState) (s : State) : (modOwl f s).ing = s.ing := rfl
@[simp] theorem modOwl_ckp (f : OwlState → OwlState) (s : State) : (modOwl f s).ckp = s.ckp := rfl
@[simp] theorem modOwl_sec (f : OwlState → OwlState) (s : State) : (modOwl f s).sec = s.sec := rfl
@[simp] theorem modOwl_lcs (f : OwlState → OwlState) (s : State) : (modOwl f s).lcs = s.lcs := rfl
@[simp] theorem modOwl_mxe (f : OwlState → OwlState) (s : State) : (modOwl f s).mxe = s.mxe := rfl
@[simp] theorem modOwl_vcu (f : OwlState → OwlState) (s : State) : (modOwl f s).vcu = s.vcu := rfl
@[simp] theorem modOwl_svc (f : OwlState → OwlState) (s : State) : (modOwl f s).svc = s.svc := rfl

/-! ## `modPwr` -/

@[simp] theorem modPwr_pending (f : PwrState → PwrState) (s : State) : (modPwr f s).pending = s.pending := rfl
@[simp] theorem modPwr_out (f : PwrState → PwrState) (s : State) : (modPwr f s).out = s.out := rfl
@[simp] theorem modPwr_draws (f : PwrState → PwrState) (s : State) : (modPwr f s).draws = s.draws := rfl
@[simp] theorem modPwr_now (f : PwrState → PwrState) (s : State) : (modPwr f s).now = s.now := rfl
@[simp] theorem modPwr_hold64 (f : PwrState → PwrState) (s : State) : (modPwr f s).hold64 = s.hold64 := rfl
@[simp] theorem modPwr_latch64 (f : PwrState → PwrState) (s : State) : (modPwr f s).latch64 = s.latch64 := rfl
@[simp] theorem modPwr_mod (f : PwrState → PwrState) (s : State) : (modPwr f s).mod = s.mod := rfl
@[simp] theorem modPwr_clk (f : PwrState → PwrState) (s : State) : (modPwr f s).clk = s.clk := rfl
@[simp] theorem modPwr_flt (f : PwrState → PwrState) (s : State) : (modPwr f s).flt = s.flt := rfl
@[simp] theorem modPwr_mgt (f : PwrState → PwrState) (s : State) : (modPwr f s).mgt = s.mgt := rfl
@[simp] theorem modPwr_log (f : PwrState → PwrState) (s : State) : (modPwr f s).log = s.log := rfl
@[simp] theorem modPwr_owl (f : PwrState → PwrState) (s : State) : (modPwr f s).owl = s.owl := rfl
@[simp] theorem modPwr_pwr (f : PwrState → PwrState) (s : State) : (modPwr f s).pwr = f s.pwr := rfl
@[simp] theorem modPwr_led (f : PwrState → PwrState) (s : State) : (modPwr f s).led = s.led := rfl
@[simp] theorem modPwr_nv (f : PwrState → PwrState) (s : State) : (modPwr f s).nv = s.nv := rfl
@[simp] theorem modPwr_hif (f : PwrState → PwrState) (s : State) : (modPwr f s).hif = s.hif := rfl
@[simp] theorem modPwr_cmd (f : PwrState → PwrState) (s : State) : (modPwr f s).cmd = s.cmd := rfl
@[simp] theorem modPwr_ctxs (f : PwrState → PwrState) (s : State) : (modPwr f s).ctxs = s.ctxs := rfl
@[simp] theorem modPwr_mems (f : PwrState → PwrState) (s : State) : (modPwr f s).mems = s.mems := rfl
@[simp] theorem modPwr_evs (f : PwrState → PwrState) (s : State) : (modPwr f s).evs = s.evs := rfl
@[simp] theorem modPwr_mem (f : PwrState → PwrState) (s : State) : (modPwr f s).mem = s.mem := rfl
@[simp] theorem modPwr_poison (f : PwrState → PwrState) (s : State) : (modPwr f s).poison = s.poison := rfl
@[simp] theorem modPwr_tsk (f : PwrState → PwrState) (s : State) : (modPwr f s).tsk = s.tsk := rfl
@[simp] theorem modPwr_hbm (f : PwrState → PwrState) (s : State) : (modPwr f s).hbm = s.hbm := rfl
@[simp] theorem modPwr_ime (f : PwrState → PwrState) (s : State) : (modPwr f s).ime = s.ime := rfl
@[simp] theorem modPwr_lnk (f : PwrState → PwrState) (s : State) : (modPwr f s).lnk = s.lnk := rfl
@[simp] theorem modPwr_wmk (f : PwrState → PwrState) (s : State) : (modPwr f s).wmk = s.wmk := rfl
@[simp] theorem modPwr_col (f : PwrState → PwrState) (s : State) : (modPwr f s).col = s.col := rfl
@[simp] theorem modPwr_runners (f : PwrState → PwrState) (s : State) : (modPwr f s).runners = s.runners := rfl
@[simp] theorem modPwr_admits (f : PwrState → PwrState) (s : State) : (modPwr f s).admits = s.admits := rfl
@[simp] theorem modPwr_ing (f : PwrState → PwrState) (s : State) : (modPwr f s).ing = s.ing := rfl
@[simp] theorem modPwr_ckp (f : PwrState → PwrState) (s : State) : (modPwr f s).ckp = s.ckp := rfl
@[simp] theorem modPwr_sec (f : PwrState → PwrState) (s : State) : (modPwr f s).sec = s.sec := rfl
@[simp] theorem modPwr_lcs (f : PwrState → PwrState) (s : State) : (modPwr f s).lcs = s.lcs := rfl
@[simp] theorem modPwr_mxe (f : PwrState → PwrState) (s : State) : (modPwr f s).mxe = s.mxe := rfl
@[simp] theorem modPwr_vcu (f : PwrState → PwrState) (s : State) : (modPwr f s).vcu = s.vcu := rfl
@[simp] theorem modPwr_svc (f : PwrState → PwrState) (s : State) : (modPwr f s).svc = s.svc := rfl

/-! ## `modLed` -/

@[simp] theorem modLed_pending (f : LedgerState → LedgerState) (s : State) : (modLed f s).pending = s.pending := rfl
@[simp] theorem modLed_out (f : LedgerState → LedgerState) (s : State) : (modLed f s).out = s.out := rfl
@[simp] theorem modLed_draws (f : LedgerState → LedgerState) (s : State) : (modLed f s).draws = s.draws := rfl
@[simp] theorem modLed_now (f : LedgerState → LedgerState) (s : State) : (modLed f s).now = s.now := rfl
@[simp] theorem modLed_hold64 (f : LedgerState → LedgerState) (s : State) : (modLed f s).hold64 = s.hold64 := rfl
@[simp] theorem modLed_latch64 (f : LedgerState → LedgerState) (s : State) : (modLed f s).latch64 = s.latch64 := rfl
@[simp] theorem modLed_mod (f : LedgerState → LedgerState) (s : State) : (modLed f s).mod = s.mod := rfl
@[simp] theorem modLed_clk (f : LedgerState → LedgerState) (s : State) : (modLed f s).clk = s.clk := rfl
@[simp] theorem modLed_flt (f : LedgerState → LedgerState) (s : State) : (modLed f s).flt = s.flt := rfl
@[simp] theorem modLed_mgt (f : LedgerState → LedgerState) (s : State) : (modLed f s).mgt = s.mgt := rfl
@[simp] theorem modLed_log (f : LedgerState → LedgerState) (s : State) : (modLed f s).log = s.log := rfl
@[simp] theorem modLed_owl (f : LedgerState → LedgerState) (s : State) : (modLed f s).owl = s.owl := rfl
@[simp] theorem modLed_pwr (f : LedgerState → LedgerState) (s : State) : (modLed f s).pwr = s.pwr := rfl
@[simp] theorem modLed_led (f : LedgerState → LedgerState) (s : State) : (modLed f s).led = f s.led := rfl
@[simp] theorem modLed_nv (f : LedgerState → LedgerState) (s : State) : (modLed f s).nv = s.nv := rfl
@[simp] theorem modLed_hif (f : LedgerState → LedgerState) (s : State) : (modLed f s).hif = s.hif := rfl
@[simp] theorem modLed_cmd (f : LedgerState → LedgerState) (s : State) : (modLed f s).cmd = s.cmd := rfl
@[simp] theorem modLed_ctxs (f : LedgerState → LedgerState) (s : State) : (modLed f s).ctxs = s.ctxs := rfl
@[simp] theorem modLed_mems (f : LedgerState → LedgerState) (s : State) : (modLed f s).mems = s.mems := rfl
@[simp] theorem modLed_evs (f : LedgerState → LedgerState) (s : State) : (modLed f s).evs = s.evs := rfl
@[simp] theorem modLed_mem (f : LedgerState → LedgerState) (s : State) : (modLed f s).mem = s.mem := rfl
@[simp] theorem modLed_poison (f : LedgerState → LedgerState) (s : State) : (modLed f s).poison = s.poison := rfl
@[simp] theorem modLed_tsk (f : LedgerState → LedgerState) (s : State) : (modLed f s).tsk = s.tsk := rfl
@[simp] theorem modLed_hbm (f : LedgerState → LedgerState) (s : State) : (modLed f s).hbm = s.hbm := rfl
@[simp] theorem modLed_ime (f : LedgerState → LedgerState) (s : State) : (modLed f s).ime = s.ime := rfl
@[simp] theorem modLed_lnk (f : LedgerState → LedgerState) (s : State) : (modLed f s).lnk = s.lnk := rfl
@[simp] theorem modLed_wmk (f : LedgerState → LedgerState) (s : State) : (modLed f s).wmk = s.wmk := rfl
@[simp] theorem modLed_col (f : LedgerState → LedgerState) (s : State) : (modLed f s).col = s.col := rfl
@[simp] theorem modLed_runners (f : LedgerState → LedgerState) (s : State) : (modLed f s).runners = s.runners := rfl
@[simp] theorem modLed_admits (f : LedgerState → LedgerState) (s : State) : (modLed f s).admits = s.admits := rfl
@[simp] theorem modLed_ing (f : LedgerState → LedgerState) (s : State) : (modLed f s).ing = s.ing := rfl
@[simp] theorem modLed_ckp (f : LedgerState → LedgerState) (s : State) : (modLed f s).ckp = s.ckp := rfl
@[simp] theorem modLed_sec (f : LedgerState → LedgerState) (s : State) : (modLed f s).sec = s.sec := rfl
@[simp] theorem modLed_lcs (f : LedgerState → LedgerState) (s : State) : (modLed f s).lcs = s.lcs := rfl
@[simp] theorem modLed_mxe (f : LedgerState → LedgerState) (s : State) : (modLed f s).mxe = s.mxe := rfl
@[simp] theorem modLed_vcu (f : LedgerState → LedgerState) (s : State) : (modLed f s).vcu = s.vcu := rfl
@[simp] theorem modLed_svc (f : LedgerState → LedgerState) (s : State) : (modLed f s).svc = s.svc := rfl

/-! ## `modNv` -/

@[simp] theorem modNv_pending (f : NvState → NvState) (s : State) : (modNv f s).pending = s.pending := rfl
@[simp] theorem modNv_out (f : NvState → NvState) (s : State) : (modNv f s).out = s.out := rfl
@[simp] theorem modNv_draws (f : NvState → NvState) (s : State) : (modNv f s).draws = s.draws := rfl
@[simp] theorem modNv_now (f : NvState → NvState) (s : State) : (modNv f s).now = s.now := rfl
@[simp] theorem modNv_hold64 (f : NvState → NvState) (s : State) : (modNv f s).hold64 = s.hold64 := rfl
@[simp] theorem modNv_latch64 (f : NvState → NvState) (s : State) : (modNv f s).latch64 = s.latch64 := rfl
@[simp] theorem modNv_mod (f : NvState → NvState) (s : State) : (modNv f s).mod = s.mod := rfl
@[simp] theorem modNv_clk (f : NvState → NvState) (s : State) : (modNv f s).clk = s.clk := rfl
@[simp] theorem modNv_flt (f : NvState → NvState) (s : State) : (modNv f s).flt = s.flt := rfl
@[simp] theorem modNv_mgt (f : NvState → NvState) (s : State) : (modNv f s).mgt = s.mgt := rfl
@[simp] theorem modNv_log (f : NvState → NvState) (s : State) : (modNv f s).log = s.log := rfl
@[simp] theorem modNv_owl (f : NvState → NvState) (s : State) : (modNv f s).owl = s.owl := rfl
@[simp] theorem modNv_pwr (f : NvState → NvState) (s : State) : (modNv f s).pwr = s.pwr := rfl
@[simp] theorem modNv_led (f : NvState → NvState) (s : State) : (modNv f s).led = s.led := rfl
@[simp] theorem modNv_nv (f : NvState → NvState) (s : State) : (modNv f s).nv = f s.nv := rfl
@[simp] theorem modNv_hif (f : NvState → NvState) (s : State) : (modNv f s).hif = s.hif := rfl
@[simp] theorem modNv_cmd (f : NvState → NvState) (s : State) : (modNv f s).cmd = s.cmd := rfl
@[simp] theorem modNv_ctxs (f : NvState → NvState) (s : State) : (modNv f s).ctxs = s.ctxs := rfl
@[simp] theorem modNv_mems (f : NvState → NvState) (s : State) : (modNv f s).mems = s.mems := rfl
@[simp] theorem modNv_evs (f : NvState → NvState) (s : State) : (modNv f s).evs = s.evs := rfl
@[simp] theorem modNv_mem (f : NvState → NvState) (s : State) : (modNv f s).mem = s.mem := rfl
@[simp] theorem modNv_poison (f : NvState → NvState) (s : State) : (modNv f s).poison = s.poison := rfl
@[simp] theorem modNv_tsk (f : NvState → NvState) (s : State) : (modNv f s).tsk = s.tsk := rfl
@[simp] theorem modNv_hbm (f : NvState → NvState) (s : State) : (modNv f s).hbm = s.hbm := rfl
@[simp] theorem modNv_ime (f : NvState → NvState) (s : State) : (modNv f s).ime = s.ime := rfl
@[simp] theorem modNv_lnk (f : NvState → NvState) (s : State) : (modNv f s).lnk = s.lnk := rfl
@[simp] theorem modNv_wmk (f : NvState → NvState) (s : State) : (modNv f s).wmk = s.wmk := rfl
@[simp] theorem modNv_col (f : NvState → NvState) (s : State) : (modNv f s).col = s.col := rfl
@[simp] theorem modNv_runners (f : NvState → NvState) (s : State) : (modNv f s).runners = s.runners := rfl
@[simp] theorem modNv_admits (f : NvState → NvState) (s : State) : (modNv f s).admits = s.admits := rfl
@[simp] theorem modNv_ing (f : NvState → NvState) (s : State) : (modNv f s).ing = s.ing := rfl
@[simp] theorem modNv_ckp (f : NvState → NvState) (s : State) : (modNv f s).ckp = s.ckp := rfl
@[simp] theorem modNv_sec (f : NvState → NvState) (s : State) : (modNv f s).sec = s.sec := rfl
@[simp] theorem modNv_lcs (f : NvState → NvState) (s : State) : (modNv f s).lcs = s.lcs := rfl
@[simp] theorem modNv_mxe (f : NvState → NvState) (s : State) : (modNv f s).mxe = s.mxe := rfl
@[simp] theorem modNv_vcu (f : NvState → NvState) (s : State) : (modNv f s).vcu = s.vcu := rfl
@[simp] theorem modNv_svc (f : NvState → NvState) (s : State) : (modNv f s).svc = s.svc := rfl

/-! ## `modHif` -/

@[simp] theorem modHif_pending (f : HifState → HifState) (s : State) : (modHif f s).pending = s.pending := rfl
@[simp] theorem modHif_out (f : HifState → HifState) (s : State) : (modHif f s).out = s.out := rfl
@[simp] theorem modHif_draws (f : HifState → HifState) (s : State) : (modHif f s).draws = s.draws := rfl
@[simp] theorem modHif_now (f : HifState → HifState) (s : State) : (modHif f s).now = s.now := rfl
@[simp] theorem modHif_hold64 (f : HifState → HifState) (s : State) : (modHif f s).hold64 = s.hold64 := rfl
@[simp] theorem modHif_latch64 (f : HifState → HifState) (s : State) : (modHif f s).latch64 = s.latch64 := rfl
@[simp] theorem modHif_mod (f : HifState → HifState) (s : State) : (modHif f s).mod = s.mod := rfl
@[simp] theorem modHif_clk (f : HifState → HifState) (s : State) : (modHif f s).clk = s.clk := rfl
@[simp] theorem modHif_flt (f : HifState → HifState) (s : State) : (modHif f s).flt = s.flt := rfl
@[simp] theorem modHif_mgt (f : HifState → HifState) (s : State) : (modHif f s).mgt = s.mgt := rfl
@[simp] theorem modHif_log (f : HifState → HifState) (s : State) : (modHif f s).log = s.log := rfl
@[simp] theorem modHif_owl (f : HifState → HifState) (s : State) : (modHif f s).owl = s.owl := rfl
@[simp] theorem modHif_pwr (f : HifState → HifState) (s : State) : (modHif f s).pwr = s.pwr := rfl
@[simp] theorem modHif_led (f : HifState → HifState) (s : State) : (modHif f s).led = s.led := rfl
@[simp] theorem modHif_nv (f : HifState → HifState) (s : State) : (modHif f s).nv = s.nv := rfl
@[simp] theorem modHif_hif (f : HifState → HifState) (s : State) : (modHif f s).hif = f s.hif := rfl
@[simp] theorem modHif_cmd (f : HifState → HifState) (s : State) : (modHif f s).cmd = s.cmd := rfl
@[simp] theorem modHif_ctxs (f : HifState → HifState) (s : State) : (modHif f s).ctxs = s.ctxs := rfl
@[simp] theorem modHif_mems (f : HifState → HifState) (s : State) : (modHif f s).mems = s.mems := rfl
@[simp] theorem modHif_evs (f : HifState → HifState) (s : State) : (modHif f s).evs = s.evs := rfl
@[simp] theorem modHif_mem (f : HifState → HifState) (s : State) : (modHif f s).mem = s.mem := rfl
@[simp] theorem modHif_poison (f : HifState → HifState) (s : State) : (modHif f s).poison = s.poison := rfl
@[simp] theorem modHif_tsk (f : HifState → HifState) (s : State) : (modHif f s).tsk = s.tsk := rfl
@[simp] theorem modHif_hbm (f : HifState → HifState) (s : State) : (modHif f s).hbm = s.hbm := rfl
@[simp] theorem modHif_ime (f : HifState → HifState) (s : State) : (modHif f s).ime = s.ime := rfl
@[simp] theorem modHif_lnk (f : HifState → HifState) (s : State) : (modHif f s).lnk = s.lnk := rfl
@[simp] theorem modHif_wmk (f : HifState → HifState) (s : State) : (modHif f s).wmk = s.wmk := rfl
@[simp] theorem modHif_col (f : HifState → HifState) (s : State) : (modHif f s).col = s.col := rfl
@[simp] theorem modHif_runners (f : HifState → HifState) (s : State) : (modHif f s).runners = s.runners := rfl
@[simp] theorem modHif_admits (f : HifState → HifState) (s : State) : (modHif f s).admits = s.admits := rfl
@[simp] theorem modHif_ing (f : HifState → HifState) (s : State) : (modHif f s).ing = s.ing := rfl
@[simp] theorem modHif_ckp (f : HifState → HifState) (s : State) : (modHif f s).ckp = s.ckp := rfl
@[simp] theorem modHif_sec (f : HifState → HifState) (s : State) : (modHif f s).sec = s.sec := rfl
@[simp] theorem modHif_lcs (f : HifState → HifState) (s : State) : (modHif f s).lcs = s.lcs := rfl
@[simp] theorem modHif_mxe (f : HifState → HifState) (s : State) : (modHif f s).mxe = s.mxe := rfl
@[simp] theorem modHif_vcu (f : HifState → HifState) (s : State) : (modHif f s).vcu = s.vcu := rfl
@[simp] theorem modHif_svc (f : HifState → HifState) (s : State) : (modHif f s).svc = s.svc := rfl

/-! ## `modCmd` -/

@[simp] theorem modCmd_pending (f : CmdState → CmdState) (s : State) : (modCmd f s).pending = s.pending := rfl
@[simp] theorem modCmd_out (f : CmdState → CmdState) (s : State) : (modCmd f s).out = s.out := rfl
@[simp] theorem modCmd_draws (f : CmdState → CmdState) (s : State) : (modCmd f s).draws = s.draws := rfl
@[simp] theorem modCmd_now (f : CmdState → CmdState) (s : State) : (modCmd f s).now = s.now := rfl
@[simp] theorem modCmd_hold64 (f : CmdState → CmdState) (s : State) : (modCmd f s).hold64 = s.hold64 := rfl
@[simp] theorem modCmd_latch64 (f : CmdState → CmdState) (s : State) : (modCmd f s).latch64 = s.latch64 := rfl
@[simp] theorem modCmd_mod (f : CmdState → CmdState) (s : State) : (modCmd f s).mod = s.mod := rfl
@[simp] theorem modCmd_clk (f : CmdState → CmdState) (s : State) : (modCmd f s).clk = s.clk := rfl
@[simp] theorem modCmd_flt (f : CmdState → CmdState) (s : State) : (modCmd f s).flt = s.flt := rfl
@[simp] theorem modCmd_mgt (f : CmdState → CmdState) (s : State) : (modCmd f s).mgt = s.mgt := rfl
@[simp] theorem modCmd_log (f : CmdState → CmdState) (s : State) : (modCmd f s).log = s.log := rfl
@[simp] theorem modCmd_owl (f : CmdState → CmdState) (s : State) : (modCmd f s).owl = s.owl := rfl
@[simp] theorem modCmd_pwr (f : CmdState → CmdState) (s : State) : (modCmd f s).pwr = s.pwr := rfl
@[simp] theorem modCmd_led (f : CmdState → CmdState) (s : State) : (modCmd f s).led = s.led := rfl
@[simp] theorem modCmd_nv (f : CmdState → CmdState) (s : State) : (modCmd f s).nv = s.nv := rfl
@[simp] theorem modCmd_hif (f : CmdState → CmdState) (s : State) : (modCmd f s).hif = s.hif := rfl
@[simp] theorem modCmd_cmd (f : CmdState → CmdState) (s : State) : (modCmd f s).cmd = f s.cmd := rfl
@[simp] theorem modCmd_ctxs (f : CmdState → CmdState) (s : State) : (modCmd f s).ctxs = s.ctxs := rfl
@[simp] theorem modCmd_mems (f : CmdState → CmdState) (s : State) : (modCmd f s).mems = s.mems := rfl
@[simp] theorem modCmd_evs (f : CmdState → CmdState) (s : State) : (modCmd f s).evs = s.evs := rfl
@[simp] theorem modCmd_mem (f : CmdState → CmdState) (s : State) : (modCmd f s).mem = s.mem := rfl
@[simp] theorem modCmd_poison (f : CmdState → CmdState) (s : State) : (modCmd f s).poison = s.poison := rfl
@[simp] theorem modCmd_tsk (f : CmdState → CmdState) (s : State) : (modCmd f s).tsk = s.tsk := rfl
@[simp] theorem modCmd_hbm (f : CmdState → CmdState) (s : State) : (modCmd f s).hbm = s.hbm := rfl
@[simp] theorem modCmd_ime (f : CmdState → CmdState) (s : State) : (modCmd f s).ime = s.ime := rfl
@[simp] theorem modCmd_lnk (f : CmdState → CmdState) (s : State) : (modCmd f s).lnk = s.lnk := rfl
@[simp] theorem modCmd_wmk (f : CmdState → CmdState) (s : State) : (modCmd f s).wmk = s.wmk := rfl
@[simp] theorem modCmd_col (f : CmdState → CmdState) (s : State) : (modCmd f s).col = s.col := rfl
@[simp] theorem modCmd_runners (f : CmdState → CmdState) (s : State) : (modCmd f s).runners = s.runners := rfl
@[simp] theorem modCmd_admits (f : CmdState → CmdState) (s : State) : (modCmd f s).admits = s.admits := rfl
@[simp] theorem modCmd_ing (f : CmdState → CmdState) (s : State) : (modCmd f s).ing = s.ing := rfl
@[simp] theorem modCmd_ckp (f : CmdState → CmdState) (s : State) : (modCmd f s).ckp = s.ckp := rfl
@[simp] theorem modCmd_sec (f : CmdState → CmdState) (s : State) : (modCmd f s).sec = s.sec := rfl
@[simp] theorem modCmd_lcs (f : CmdState → CmdState) (s : State) : (modCmd f s).lcs = s.lcs := rfl
@[simp] theorem modCmd_mxe (f : CmdState → CmdState) (s : State) : (modCmd f s).mxe = s.mxe := rfl
@[simp] theorem modCmd_vcu (f : CmdState → CmdState) (s : State) : (modCmd f s).vcu = s.vcu := rfl
@[simp] theorem modCmd_svc (f : CmdState → CmdState) (s : State) : (modCmd f s).svc = s.svc := rfl

/-! ## `modTsk` -/

@[simp] theorem modTsk_pending (f : TskState → TskState) (s : State) : (modTsk f s).pending = s.pending := rfl
@[simp] theorem modTsk_out (f : TskState → TskState) (s : State) : (modTsk f s).out = s.out := rfl
@[simp] theorem modTsk_draws (f : TskState → TskState) (s : State) : (modTsk f s).draws = s.draws := rfl
@[simp] theorem modTsk_now (f : TskState → TskState) (s : State) : (modTsk f s).now = s.now := rfl
@[simp] theorem modTsk_hold64 (f : TskState → TskState) (s : State) : (modTsk f s).hold64 = s.hold64 := rfl
@[simp] theorem modTsk_latch64 (f : TskState → TskState) (s : State) : (modTsk f s).latch64 = s.latch64 := rfl
@[simp] theorem modTsk_mod (f : TskState → TskState) (s : State) : (modTsk f s).mod = s.mod := rfl
@[simp] theorem modTsk_clk (f : TskState → TskState) (s : State) : (modTsk f s).clk = s.clk := rfl
@[simp] theorem modTsk_flt (f : TskState → TskState) (s : State) : (modTsk f s).flt = s.flt := rfl
@[simp] theorem modTsk_mgt (f : TskState → TskState) (s : State) : (modTsk f s).mgt = s.mgt := rfl
@[simp] theorem modTsk_log (f : TskState → TskState) (s : State) : (modTsk f s).log = s.log := rfl
@[simp] theorem modTsk_owl (f : TskState → TskState) (s : State) : (modTsk f s).owl = s.owl := rfl
@[simp] theorem modTsk_pwr (f : TskState → TskState) (s : State) : (modTsk f s).pwr = s.pwr := rfl
@[simp] theorem modTsk_led (f : TskState → TskState) (s : State) : (modTsk f s).led = s.led := rfl
@[simp] theorem modTsk_nv (f : TskState → TskState) (s : State) : (modTsk f s).nv = s.nv := rfl
@[simp] theorem modTsk_hif (f : TskState → TskState) (s : State) : (modTsk f s).hif = s.hif := rfl
@[simp] theorem modTsk_cmd (f : TskState → TskState) (s : State) : (modTsk f s).cmd = s.cmd := rfl
@[simp] theorem modTsk_ctxs (f : TskState → TskState) (s : State) : (modTsk f s).ctxs = s.ctxs := rfl
@[simp] theorem modTsk_mems (f : TskState → TskState) (s : State) : (modTsk f s).mems = s.mems := rfl
@[simp] theorem modTsk_evs (f : TskState → TskState) (s : State) : (modTsk f s).evs = s.evs := rfl
@[simp] theorem modTsk_mem (f : TskState → TskState) (s : State) : (modTsk f s).mem = s.mem := rfl
@[simp] theorem modTsk_poison (f : TskState → TskState) (s : State) : (modTsk f s).poison = s.poison := rfl
@[simp] theorem modTsk_tsk (f : TskState → TskState) (s : State) : (modTsk f s).tsk = f s.tsk := rfl
@[simp] theorem modTsk_hbm (f : TskState → TskState) (s : State) : (modTsk f s).hbm = s.hbm := rfl
@[simp] theorem modTsk_ime (f : TskState → TskState) (s : State) : (modTsk f s).ime = s.ime := rfl
@[simp] theorem modTsk_lnk (f : TskState → TskState) (s : State) : (modTsk f s).lnk = s.lnk := rfl
@[simp] theorem modTsk_wmk (f : TskState → TskState) (s : State) : (modTsk f s).wmk = s.wmk := rfl
@[simp] theorem modTsk_col (f : TskState → TskState) (s : State) : (modTsk f s).col = s.col := rfl
@[simp] theorem modTsk_runners (f : TskState → TskState) (s : State) : (modTsk f s).runners = s.runners := rfl
@[simp] theorem modTsk_admits (f : TskState → TskState) (s : State) : (modTsk f s).admits = s.admits := rfl
@[simp] theorem modTsk_ing (f : TskState → TskState) (s : State) : (modTsk f s).ing = s.ing := rfl
@[simp] theorem modTsk_ckp (f : TskState → TskState) (s : State) : (modTsk f s).ckp = s.ckp := rfl
@[simp] theorem modTsk_sec (f : TskState → TskState) (s : State) : (modTsk f s).sec = s.sec := rfl
@[simp] theorem modTsk_lcs (f : TskState → TskState) (s : State) : (modTsk f s).lcs = s.lcs := rfl
@[simp] theorem modTsk_mxe (f : TskState → TskState) (s : State) : (modTsk f s).mxe = s.mxe := rfl
@[simp] theorem modTsk_vcu (f : TskState → TskState) (s : State) : (modTsk f s).vcu = s.vcu := rfl
@[simp] theorem modTsk_svc (f : TskState → TskState) (s : State) : (modTsk f s).svc = s.svc := rfl

/-! ## `modCol` -/

@[simp] theorem modCol_pending (f : ColState → ColState) (s : State) : (modCol f s).pending = s.pending := rfl
@[simp] theorem modCol_out (f : ColState → ColState) (s : State) : (modCol f s).out = s.out := rfl
@[simp] theorem modCol_draws (f : ColState → ColState) (s : State) : (modCol f s).draws = s.draws := rfl
@[simp] theorem modCol_now (f : ColState → ColState) (s : State) : (modCol f s).now = s.now := rfl
@[simp] theorem modCol_hold64 (f : ColState → ColState) (s : State) : (modCol f s).hold64 = s.hold64 := rfl
@[simp] theorem modCol_latch64 (f : ColState → ColState) (s : State) : (modCol f s).latch64 = s.latch64 := rfl
@[simp] theorem modCol_mod (f : ColState → ColState) (s : State) : (modCol f s).mod = s.mod := rfl
@[simp] theorem modCol_clk (f : ColState → ColState) (s : State) : (modCol f s).clk = s.clk := rfl
@[simp] theorem modCol_flt (f : ColState → ColState) (s : State) : (modCol f s).flt = s.flt := rfl
@[simp] theorem modCol_mgt (f : ColState → ColState) (s : State) : (modCol f s).mgt = s.mgt := rfl
@[simp] theorem modCol_log (f : ColState → ColState) (s : State) : (modCol f s).log = s.log := rfl
@[simp] theorem modCol_owl (f : ColState → ColState) (s : State) : (modCol f s).owl = s.owl := rfl
@[simp] theorem modCol_pwr (f : ColState → ColState) (s : State) : (modCol f s).pwr = s.pwr := rfl
@[simp] theorem modCol_led (f : ColState → ColState) (s : State) : (modCol f s).led = s.led := rfl
@[simp] theorem modCol_nv (f : ColState → ColState) (s : State) : (modCol f s).nv = s.nv := rfl
@[simp] theorem modCol_hif (f : ColState → ColState) (s : State) : (modCol f s).hif = s.hif := rfl
@[simp] theorem modCol_cmd (f : ColState → ColState) (s : State) : (modCol f s).cmd = s.cmd := rfl
@[simp] theorem modCol_ctxs (f : ColState → ColState) (s : State) : (modCol f s).ctxs = s.ctxs := rfl
@[simp] theorem modCol_mems (f : ColState → ColState) (s : State) : (modCol f s).mems = s.mems := rfl
@[simp] theorem modCol_evs (f : ColState → ColState) (s : State) : (modCol f s).evs = s.evs := rfl
@[simp] theorem modCol_mem (f : ColState → ColState) (s : State) : (modCol f s).mem = s.mem := rfl
@[simp] theorem modCol_poison (f : ColState → ColState) (s : State) : (modCol f s).poison = s.poison := rfl
@[simp] theorem modCol_tsk (f : ColState → ColState) (s : State) : (modCol f s).tsk = s.tsk := rfl
@[simp] theorem modCol_hbm (f : ColState → ColState) (s : State) : (modCol f s).hbm = s.hbm := rfl
@[simp] theorem modCol_ime (f : ColState → ColState) (s : State) : (modCol f s).ime = s.ime := rfl
@[simp] theorem modCol_lnk (f : ColState → ColState) (s : State) : (modCol f s).lnk = s.lnk := rfl
@[simp] theorem modCol_wmk (f : ColState → ColState) (s : State) : (modCol f s).wmk = s.wmk := rfl
@[simp] theorem modCol_col (f : ColState → ColState) (s : State) : (modCol f s).col = f s.col := rfl
@[simp] theorem modCol_runners (f : ColState → ColState) (s : State) : (modCol f s).runners = s.runners := rfl
@[simp] theorem modCol_admits (f : ColState → ColState) (s : State) : (modCol f s).admits = s.admits := rfl
@[simp] theorem modCol_ing (f : ColState → ColState) (s : State) : (modCol f s).ing = s.ing := rfl
@[simp] theorem modCol_ckp (f : ColState → ColState) (s : State) : (modCol f s).ckp = s.ckp := rfl
@[simp] theorem modCol_sec (f : ColState → ColState) (s : State) : (modCol f s).sec = s.sec := rfl
@[simp] theorem modCol_lcs (f : ColState → ColState) (s : State) : (modCol f s).lcs = s.lcs := rfl
@[simp] theorem modCol_mxe (f : ColState → ColState) (s : State) : (modCol f s).mxe = s.mxe := rfl
@[simp] theorem modCol_vcu (f : ColState → ColState) (s : State) : (modCol f s).vcu = s.vcu := rfl
@[simp] theorem modCol_svc (f : ColState → ColState) (s : State) : (modCol f s).svc = s.svc := rfl

/-! ## `modIng` -/

@[simp] theorem modIng_pending (f : IngState → IngState) (s : State) : (modIng f s).pending = s.pending := rfl
@[simp] theorem modIng_out (f : IngState → IngState) (s : State) : (modIng f s).out = s.out := rfl
@[simp] theorem modIng_draws (f : IngState → IngState) (s : State) : (modIng f s).draws = s.draws := rfl
@[simp] theorem modIng_now (f : IngState → IngState) (s : State) : (modIng f s).now = s.now := rfl
@[simp] theorem modIng_hold64 (f : IngState → IngState) (s : State) : (modIng f s).hold64 = s.hold64 := rfl
@[simp] theorem modIng_latch64 (f : IngState → IngState) (s : State) : (modIng f s).latch64 = s.latch64 := rfl
@[simp] theorem modIng_mod (f : IngState → IngState) (s : State) : (modIng f s).mod = s.mod := rfl
@[simp] theorem modIng_clk (f : IngState → IngState) (s : State) : (modIng f s).clk = s.clk := rfl
@[simp] theorem modIng_flt (f : IngState → IngState) (s : State) : (modIng f s).flt = s.flt := rfl
@[simp] theorem modIng_mgt (f : IngState → IngState) (s : State) : (modIng f s).mgt = s.mgt := rfl
@[simp] theorem modIng_log (f : IngState → IngState) (s : State) : (modIng f s).log = s.log := rfl
@[simp] theorem modIng_owl (f : IngState → IngState) (s : State) : (modIng f s).owl = s.owl := rfl
@[simp] theorem modIng_pwr (f : IngState → IngState) (s : State) : (modIng f s).pwr = s.pwr := rfl
@[simp] theorem modIng_led (f : IngState → IngState) (s : State) : (modIng f s).led = s.led := rfl
@[simp] theorem modIng_nv (f : IngState → IngState) (s : State) : (modIng f s).nv = s.nv := rfl
@[simp] theorem modIng_hif (f : IngState → IngState) (s : State) : (modIng f s).hif = s.hif := rfl
@[simp] theorem modIng_cmd (f : IngState → IngState) (s : State) : (modIng f s).cmd = s.cmd := rfl
@[simp] theorem modIng_ctxs (f : IngState → IngState) (s : State) : (modIng f s).ctxs = s.ctxs := rfl
@[simp] theorem modIng_mems (f : IngState → IngState) (s : State) : (modIng f s).mems = s.mems := rfl
@[simp] theorem modIng_evs (f : IngState → IngState) (s : State) : (modIng f s).evs = s.evs := rfl
@[simp] theorem modIng_mem (f : IngState → IngState) (s : State) : (modIng f s).mem = s.mem := rfl
@[simp] theorem modIng_poison (f : IngState → IngState) (s : State) : (modIng f s).poison = s.poison := rfl
@[simp] theorem modIng_tsk (f : IngState → IngState) (s : State) : (modIng f s).tsk = s.tsk := rfl
@[simp] theorem modIng_hbm (f : IngState → IngState) (s : State) : (modIng f s).hbm = s.hbm := rfl
@[simp] theorem modIng_ime (f : IngState → IngState) (s : State) : (modIng f s).ime = s.ime := rfl
@[simp] theorem modIng_lnk (f : IngState → IngState) (s : State) : (modIng f s).lnk = s.lnk := rfl
@[simp] theorem modIng_wmk (f : IngState → IngState) (s : State) : (modIng f s).wmk = s.wmk := rfl
@[simp] theorem modIng_col (f : IngState → IngState) (s : State) : (modIng f s).col = s.col := rfl
@[simp] theorem modIng_runners (f : IngState → IngState) (s : State) : (modIng f s).runners = s.runners := rfl
@[simp] theorem modIng_admits (f : IngState → IngState) (s : State) : (modIng f s).admits = s.admits := rfl
@[simp] theorem modIng_ing (f : IngState → IngState) (s : State) : (modIng f s).ing = f s.ing := rfl
@[simp] theorem modIng_ckp (f : IngState → IngState) (s : State) : (modIng f s).ckp = s.ckp := rfl
@[simp] theorem modIng_sec (f : IngState → IngState) (s : State) : (modIng f s).sec = s.sec := rfl
@[simp] theorem modIng_lcs (f : IngState → IngState) (s : State) : (modIng f s).lcs = s.lcs := rfl
@[simp] theorem modIng_mxe (f : IngState → IngState) (s : State) : (modIng f s).mxe = s.mxe := rfl
@[simp] theorem modIng_vcu (f : IngState → IngState) (s : State) : (modIng f s).vcu = s.vcu := rfl
@[simp] theorem modIng_svc (f : IngState → IngState) (s : State) : (modIng f s).svc = s.svc := rfl

/-! ## `modHbm` -/

@[simp] theorem modHbm_pending (f : MemState → MemState) (s : State) : (modHbm f s).pending = s.pending := rfl
@[simp] theorem modHbm_out (f : MemState → MemState) (s : State) : (modHbm f s).out = s.out := rfl
@[simp] theorem modHbm_draws (f : MemState → MemState) (s : State) : (modHbm f s).draws = s.draws := rfl
@[simp] theorem modHbm_now (f : MemState → MemState) (s : State) : (modHbm f s).now = s.now := rfl
@[simp] theorem modHbm_hold64 (f : MemState → MemState) (s : State) : (modHbm f s).hold64 = s.hold64 := rfl
@[simp] theorem modHbm_latch64 (f : MemState → MemState) (s : State) : (modHbm f s).latch64 = s.latch64 := rfl
@[simp] theorem modHbm_mod (f : MemState → MemState) (s : State) : (modHbm f s).mod = s.mod := rfl
@[simp] theorem modHbm_clk (f : MemState → MemState) (s : State) : (modHbm f s).clk = s.clk := rfl
@[simp] theorem modHbm_flt (f : MemState → MemState) (s : State) : (modHbm f s).flt = s.flt := rfl
@[simp] theorem modHbm_mgt (f : MemState → MemState) (s : State) : (modHbm f s).mgt = s.mgt := rfl
@[simp] theorem modHbm_log (f : MemState → MemState) (s : State) : (modHbm f s).log = s.log := rfl
@[simp] theorem modHbm_owl (f : MemState → MemState) (s : State) : (modHbm f s).owl = s.owl := rfl
@[simp] theorem modHbm_pwr (f : MemState → MemState) (s : State) : (modHbm f s).pwr = s.pwr := rfl
@[simp] theorem modHbm_led (f : MemState → MemState) (s : State) : (modHbm f s).led = s.led := rfl
@[simp] theorem modHbm_nv (f : MemState → MemState) (s : State) : (modHbm f s).nv = s.nv := rfl
@[simp] theorem modHbm_hif (f : MemState → MemState) (s : State) : (modHbm f s).hif = s.hif := rfl
@[simp] theorem modHbm_cmd (f : MemState → MemState) (s : State) : (modHbm f s).cmd = s.cmd := rfl
@[simp] theorem modHbm_ctxs (f : MemState → MemState) (s : State) : (modHbm f s).ctxs = s.ctxs := rfl
@[simp] theorem modHbm_mems (f : MemState → MemState) (s : State) : (modHbm f s).mems = s.mems := rfl
@[simp] theorem modHbm_evs (f : MemState → MemState) (s : State) : (modHbm f s).evs = s.evs := rfl
@[simp] theorem modHbm_mem (f : MemState → MemState) (s : State) : (modHbm f s).mem = s.mem := rfl
@[simp] theorem modHbm_poison (f : MemState → MemState) (s : State) : (modHbm f s).poison = s.poison := rfl
@[simp] theorem modHbm_tsk (f : MemState → MemState) (s : State) : (modHbm f s).tsk = s.tsk := rfl
@[simp] theorem modHbm_hbm (f : MemState → MemState) (s : State) : (modHbm f s).hbm = f s.hbm := rfl
@[simp] theorem modHbm_ime (f : MemState → MemState) (s : State) : (modHbm f s).ime = s.ime := rfl
@[simp] theorem modHbm_lnk (f : MemState → MemState) (s : State) : (modHbm f s).lnk = s.lnk := rfl
@[simp] theorem modHbm_wmk (f : MemState → MemState) (s : State) : (modHbm f s).wmk = s.wmk := rfl
@[simp] theorem modHbm_col (f : MemState → MemState) (s : State) : (modHbm f s).col = s.col := rfl
@[simp] theorem modHbm_runners (f : MemState → MemState) (s : State) : (modHbm f s).runners = s.runners := rfl
@[simp] theorem modHbm_admits (f : MemState → MemState) (s : State) : (modHbm f s).admits = s.admits := rfl
@[simp] theorem modHbm_ing (f : MemState → MemState) (s : State) : (modHbm f s).ing = s.ing := rfl
@[simp] theorem modHbm_ckp (f : MemState → MemState) (s : State) : (modHbm f s).ckp = s.ckp := rfl
@[simp] theorem modHbm_sec (f : MemState → MemState) (s : State) : (modHbm f s).sec = s.sec := rfl
@[simp] theorem modHbm_lcs (f : MemState → MemState) (s : State) : (modHbm f s).lcs = s.lcs := rfl
@[simp] theorem modHbm_mxe (f : MemState → MemState) (s : State) : (modHbm f s).mxe = s.mxe := rfl
@[simp] theorem modHbm_vcu (f : MemState → MemState) (s : State) : (modHbm f s).vcu = s.vcu := rfl
@[simp] theorem modHbm_svc (f : MemState → MemState) (s : State) : (modHbm f s).svc = s.svc := rfl

/-! ## `modIme` -/

@[simp] theorem modIme_pending (f : ImeState → ImeState) (s : State) : (modIme f s).pending = s.pending := rfl
@[simp] theorem modIme_out (f : ImeState → ImeState) (s : State) : (modIme f s).out = s.out := rfl
@[simp] theorem modIme_draws (f : ImeState → ImeState) (s : State) : (modIme f s).draws = s.draws := rfl
@[simp] theorem modIme_now (f : ImeState → ImeState) (s : State) : (modIme f s).now = s.now := rfl
@[simp] theorem modIme_hold64 (f : ImeState → ImeState) (s : State) : (modIme f s).hold64 = s.hold64 := rfl
@[simp] theorem modIme_latch64 (f : ImeState → ImeState) (s : State) : (modIme f s).latch64 = s.latch64 := rfl
@[simp] theorem modIme_mod (f : ImeState → ImeState) (s : State) : (modIme f s).mod = s.mod := rfl
@[simp] theorem modIme_clk (f : ImeState → ImeState) (s : State) : (modIme f s).clk = s.clk := rfl
@[simp] theorem modIme_flt (f : ImeState → ImeState) (s : State) : (modIme f s).flt = s.flt := rfl
@[simp] theorem modIme_mgt (f : ImeState → ImeState) (s : State) : (modIme f s).mgt = s.mgt := rfl
@[simp] theorem modIme_log (f : ImeState → ImeState) (s : State) : (modIme f s).log = s.log := rfl
@[simp] theorem modIme_owl (f : ImeState → ImeState) (s : State) : (modIme f s).owl = s.owl := rfl
@[simp] theorem modIme_pwr (f : ImeState → ImeState) (s : State) : (modIme f s).pwr = s.pwr := rfl
@[simp] theorem modIme_led (f : ImeState → ImeState) (s : State) : (modIme f s).led = s.led := rfl
@[simp] theorem modIme_nv (f : ImeState → ImeState) (s : State) : (modIme f s).nv = s.nv := rfl
@[simp] theorem modIme_hif (f : ImeState → ImeState) (s : State) : (modIme f s).hif = s.hif := rfl
@[simp] theorem modIme_cmd (f : ImeState → ImeState) (s : State) : (modIme f s).cmd = s.cmd := rfl
@[simp] theorem modIme_ctxs (f : ImeState → ImeState) (s : State) : (modIme f s).ctxs = s.ctxs := rfl
@[simp] theorem modIme_mems (f : ImeState → ImeState) (s : State) : (modIme f s).mems = s.mems := rfl
@[simp] theorem modIme_evs (f : ImeState → ImeState) (s : State) : (modIme f s).evs = s.evs := rfl
@[simp] theorem modIme_mem (f : ImeState → ImeState) (s : State) : (modIme f s).mem = s.mem := rfl
@[simp] theorem modIme_poison (f : ImeState → ImeState) (s : State) : (modIme f s).poison = s.poison := rfl
@[simp] theorem modIme_tsk (f : ImeState → ImeState) (s : State) : (modIme f s).tsk = s.tsk := rfl
@[simp] theorem modIme_hbm (f : ImeState → ImeState) (s : State) : (modIme f s).hbm = s.hbm := rfl
@[simp] theorem modIme_ime (f : ImeState → ImeState) (s : State) : (modIme f s).ime = f s.ime := rfl
@[simp] theorem modIme_lnk (f : ImeState → ImeState) (s : State) : (modIme f s).lnk = s.lnk := rfl
@[simp] theorem modIme_wmk (f : ImeState → ImeState) (s : State) : (modIme f s).wmk = s.wmk := rfl
@[simp] theorem modIme_col (f : ImeState → ImeState) (s : State) : (modIme f s).col = s.col := rfl
@[simp] theorem modIme_runners (f : ImeState → ImeState) (s : State) : (modIme f s).runners = s.runners := rfl
@[simp] theorem modIme_admits (f : ImeState → ImeState) (s : State) : (modIme f s).admits = s.admits := rfl
@[simp] theorem modIme_ing (f : ImeState → ImeState) (s : State) : (modIme f s).ing = s.ing := rfl
@[simp] theorem modIme_ckp (f : ImeState → ImeState) (s : State) : (modIme f s).ckp = s.ckp := rfl
@[simp] theorem modIme_sec (f : ImeState → ImeState) (s : State) : (modIme f s).sec = s.sec := rfl
@[simp] theorem modIme_lcs (f : ImeState → ImeState) (s : State) : (modIme f s).lcs = s.lcs := rfl
@[simp] theorem modIme_mxe (f : ImeState → ImeState) (s : State) : (modIme f s).mxe = s.mxe := rfl
@[simp] theorem modIme_vcu (f : ImeState → ImeState) (s : State) : (modIme f s).vcu = s.vcu := rfl
@[simp] theorem modIme_svc (f : ImeState → ImeState) (s : State) : (modIme f s).svc = s.svc := rfl

/-! ## `modWmk` -/

@[simp] theorem modWmk_pending (f : WmkState → WmkState) (s : State) : (modWmk f s).pending = s.pending := rfl
@[simp] theorem modWmk_out (f : WmkState → WmkState) (s : State) : (modWmk f s).out = s.out := rfl
@[simp] theorem modWmk_draws (f : WmkState → WmkState) (s : State) : (modWmk f s).draws = s.draws := rfl
@[simp] theorem modWmk_now (f : WmkState → WmkState) (s : State) : (modWmk f s).now = s.now := rfl
@[simp] theorem modWmk_hold64 (f : WmkState → WmkState) (s : State) : (modWmk f s).hold64 = s.hold64 := rfl
@[simp] theorem modWmk_latch64 (f : WmkState → WmkState) (s : State) : (modWmk f s).latch64 = s.latch64 := rfl
@[simp] theorem modWmk_mod (f : WmkState → WmkState) (s : State) : (modWmk f s).mod = s.mod := rfl
@[simp] theorem modWmk_clk (f : WmkState → WmkState) (s : State) : (modWmk f s).clk = s.clk := rfl
@[simp] theorem modWmk_flt (f : WmkState → WmkState) (s : State) : (modWmk f s).flt = s.flt := rfl
@[simp] theorem modWmk_mgt (f : WmkState → WmkState) (s : State) : (modWmk f s).mgt = s.mgt := rfl
@[simp] theorem modWmk_log (f : WmkState → WmkState) (s : State) : (modWmk f s).log = s.log := rfl
@[simp] theorem modWmk_owl (f : WmkState → WmkState) (s : State) : (modWmk f s).owl = s.owl := rfl
@[simp] theorem modWmk_pwr (f : WmkState → WmkState) (s : State) : (modWmk f s).pwr = s.pwr := rfl
@[simp] theorem modWmk_led (f : WmkState → WmkState) (s : State) : (modWmk f s).led = s.led := rfl
@[simp] theorem modWmk_nv (f : WmkState → WmkState) (s : State) : (modWmk f s).nv = s.nv := rfl
@[simp] theorem modWmk_hif (f : WmkState → WmkState) (s : State) : (modWmk f s).hif = s.hif := rfl
@[simp] theorem modWmk_cmd (f : WmkState → WmkState) (s : State) : (modWmk f s).cmd = s.cmd := rfl
@[simp] theorem modWmk_ctxs (f : WmkState → WmkState) (s : State) : (modWmk f s).ctxs = s.ctxs := rfl
@[simp] theorem modWmk_mems (f : WmkState → WmkState) (s : State) : (modWmk f s).mems = s.mems := rfl
@[simp] theorem modWmk_evs (f : WmkState → WmkState) (s : State) : (modWmk f s).evs = s.evs := rfl
@[simp] theorem modWmk_mem (f : WmkState → WmkState) (s : State) : (modWmk f s).mem = s.mem := rfl
@[simp] theorem modWmk_poison (f : WmkState → WmkState) (s : State) : (modWmk f s).poison = s.poison := rfl
@[simp] theorem modWmk_tsk (f : WmkState → WmkState) (s : State) : (modWmk f s).tsk = s.tsk := rfl
@[simp] theorem modWmk_hbm (f : WmkState → WmkState) (s : State) : (modWmk f s).hbm = s.hbm := rfl
@[simp] theorem modWmk_ime (f : WmkState → WmkState) (s : State) : (modWmk f s).ime = s.ime := rfl
@[simp] theorem modWmk_lnk (f : WmkState → WmkState) (s : State) : (modWmk f s).lnk = s.lnk := rfl
@[simp] theorem modWmk_wmk (f : WmkState → WmkState) (s : State) : (modWmk f s).wmk = f s.wmk := rfl
@[simp] theorem modWmk_col (f : WmkState → WmkState) (s : State) : (modWmk f s).col = s.col := rfl
@[simp] theorem modWmk_runners (f : WmkState → WmkState) (s : State) : (modWmk f s).runners = s.runners := rfl
@[simp] theorem modWmk_admits (f : WmkState → WmkState) (s : State) : (modWmk f s).admits = s.admits := rfl
@[simp] theorem modWmk_ing (f : WmkState → WmkState) (s : State) : (modWmk f s).ing = s.ing := rfl
@[simp] theorem modWmk_ckp (f : WmkState → WmkState) (s : State) : (modWmk f s).ckp = s.ckp := rfl
@[simp] theorem modWmk_sec (f : WmkState → WmkState) (s : State) : (modWmk f s).sec = s.sec := rfl
@[simp] theorem modWmk_lcs (f : WmkState → WmkState) (s : State) : (modWmk f s).lcs = s.lcs := rfl
@[simp] theorem modWmk_mxe (f : WmkState → WmkState) (s : State) : (modWmk f s).mxe = s.mxe := rfl
@[simp] theorem modWmk_vcu (f : WmkState → WmkState) (s : State) : (modWmk f s).vcu = s.vcu := rfl
@[simp] theorem modWmk_svc (f : WmkState → WmkState) (s : State) : (modWmk f s).svc = s.svc := rfl

/-! ## `modLnk` -/

@[simp] theorem modLnk_pending (f : LnkState → LnkState) (s : State) : (modLnk f s).pending = s.pending := rfl
@[simp] theorem modLnk_out (f : LnkState → LnkState) (s : State) : (modLnk f s).out = s.out := rfl
@[simp] theorem modLnk_draws (f : LnkState → LnkState) (s : State) : (modLnk f s).draws = s.draws := rfl
@[simp] theorem modLnk_now (f : LnkState → LnkState) (s : State) : (modLnk f s).now = s.now := rfl
@[simp] theorem modLnk_hold64 (f : LnkState → LnkState) (s : State) : (modLnk f s).hold64 = s.hold64 := rfl
@[simp] theorem modLnk_latch64 (f : LnkState → LnkState) (s : State) : (modLnk f s).latch64 = s.latch64 := rfl
@[simp] theorem modLnk_mod (f : LnkState → LnkState) (s : State) : (modLnk f s).mod = s.mod := rfl
@[simp] theorem modLnk_clk (f : LnkState → LnkState) (s : State) : (modLnk f s).clk = s.clk := rfl
@[simp] theorem modLnk_flt (f : LnkState → LnkState) (s : State) : (modLnk f s).flt = s.flt := rfl
@[simp] theorem modLnk_mgt (f : LnkState → LnkState) (s : State) : (modLnk f s).mgt = s.mgt := rfl
@[simp] theorem modLnk_log (f : LnkState → LnkState) (s : State) : (modLnk f s).log = s.log := rfl
@[simp] theorem modLnk_owl (f : LnkState → LnkState) (s : State) : (modLnk f s).owl = s.owl := rfl
@[simp] theorem modLnk_pwr (f : LnkState → LnkState) (s : State) : (modLnk f s).pwr = s.pwr := rfl
@[simp] theorem modLnk_led (f : LnkState → LnkState) (s : State) : (modLnk f s).led = s.led := rfl
@[simp] theorem modLnk_nv (f : LnkState → LnkState) (s : State) : (modLnk f s).nv = s.nv := rfl
@[simp] theorem modLnk_hif (f : LnkState → LnkState) (s : State) : (modLnk f s).hif = s.hif := rfl
@[simp] theorem modLnk_cmd (f : LnkState → LnkState) (s : State) : (modLnk f s).cmd = s.cmd := rfl
@[simp] theorem modLnk_ctxs (f : LnkState → LnkState) (s : State) : (modLnk f s).ctxs = s.ctxs := rfl
@[simp] theorem modLnk_mems (f : LnkState → LnkState) (s : State) : (modLnk f s).mems = s.mems := rfl
@[simp] theorem modLnk_evs (f : LnkState → LnkState) (s : State) : (modLnk f s).evs = s.evs := rfl
@[simp] theorem modLnk_mem (f : LnkState → LnkState) (s : State) : (modLnk f s).mem = s.mem := rfl
@[simp] theorem modLnk_poison (f : LnkState → LnkState) (s : State) : (modLnk f s).poison = s.poison := rfl
@[simp] theorem modLnk_tsk (f : LnkState → LnkState) (s : State) : (modLnk f s).tsk = s.tsk := rfl
@[simp] theorem modLnk_hbm (f : LnkState → LnkState) (s : State) : (modLnk f s).hbm = s.hbm := rfl
@[simp] theorem modLnk_ime (f : LnkState → LnkState) (s : State) : (modLnk f s).ime = s.ime := rfl
@[simp] theorem modLnk_lnk (f : LnkState → LnkState) (s : State) : (modLnk f s).lnk = f s.lnk := rfl
@[simp] theorem modLnk_wmk (f : LnkState → LnkState) (s : State) : (modLnk f s).wmk = s.wmk := rfl
@[simp] theorem modLnk_col (f : LnkState → LnkState) (s : State) : (modLnk f s).col = s.col := rfl
@[simp] theorem modLnk_runners (f : LnkState → LnkState) (s : State) : (modLnk f s).runners = s.runners := rfl
@[simp] theorem modLnk_admits (f : LnkState → LnkState) (s : State) : (modLnk f s).admits = s.admits := rfl
@[simp] theorem modLnk_ing (f : LnkState → LnkState) (s : State) : (modLnk f s).ing = s.ing := rfl
@[simp] theorem modLnk_ckp (f : LnkState → LnkState) (s : State) : (modLnk f s).ckp = s.ckp := rfl
@[simp] theorem modLnk_sec (f : LnkState → LnkState) (s : State) : (modLnk f s).sec = s.sec := rfl
@[simp] theorem modLnk_lcs (f : LnkState → LnkState) (s : State) : (modLnk f s).lcs = s.lcs := rfl
@[simp] theorem modLnk_mxe (f : LnkState → LnkState) (s : State) : (modLnk f s).mxe = s.mxe := rfl
@[simp] theorem modLnk_vcu (f : LnkState → LnkState) (s : State) : (modLnk f s).vcu = s.vcu := rfl
@[simp] theorem modLnk_svc (f : LnkState → LnkState) (s : State) : (modLnk f s).svc = s.svc := rfl

/-! ## `modLcs` -/

@[simp] theorem modLcs_pending (f : LcsState → LcsState) (s : State) : (modLcs f s).pending = s.pending := rfl
@[simp] theorem modLcs_out (f : LcsState → LcsState) (s : State) : (modLcs f s).out = s.out := rfl
@[simp] theorem modLcs_draws (f : LcsState → LcsState) (s : State) : (modLcs f s).draws = s.draws := rfl
@[simp] theorem modLcs_now (f : LcsState → LcsState) (s : State) : (modLcs f s).now = s.now := rfl
@[simp] theorem modLcs_hold64 (f : LcsState → LcsState) (s : State) : (modLcs f s).hold64 = s.hold64 := rfl
@[simp] theorem modLcs_latch64 (f : LcsState → LcsState) (s : State) : (modLcs f s).latch64 = s.latch64 := rfl
@[simp] theorem modLcs_mod (f : LcsState → LcsState) (s : State) : (modLcs f s).mod = s.mod := rfl
@[simp] theorem modLcs_clk (f : LcsState → LcsState) (s : State) : (modLcs f s).clk = s.clk := rfl
@[simp] theorem modLcs_flt (f : LcsState → LcsState) (s : State) : (modLcs f s).flt = s.flt := rfl
@[simp] theorem modLcs_mgt (f : LcsState → LcsState) (s : State) : (modLcs f s).mgt = s.mgt := rfl
@[simp] theorem modLcs_log (f : LcsState → LcsState) (s : State) : (modLcs f s).log = s.log := rfl
@[simp] theorem modLcs_owl (f : LcsState → LcsState) (s : State) : (modLcs f s).owl = s.owl := rfl
@[simp] theorem modLcs_pwr (f : LcsState → LcsState) (s : State) : (modLcs f s).pwr = s.pwr := rfl
@[simp] theorem modLcs_led (f : LcsState → LcsState) (s : State) : (modLcs f s).led = s.led := rfl
@[simp] theorem modLcs_nv (f : LcsState → LcsState) (s : State) : (modLcs f s).nv = s.nv := rfl
@[simp] theorem modLcs_hif (f : LcsState → LcsState) (s : State) : (modLcs f s).hif = s.hif := rfl
@[simp] theorem modLcs_cmd (f : LcsState → LcsState) (s : State) : (modLcs f s).cmd = s.cmd := rfl
@[simp] theorem modLcs_ctxs (f : LcsState → LcsState) (s : State) : (modLcs f s).ctxs = s.ctxs := rfl
@[simp] theorem modLcs_mems (f : LcsState → LcsState) (s : State) : (modLcs f s).mems = s.mems := rfl
@[simp] theorem modLcs_evs (f : LcsState → LcsState) (s : State) : (modLcs f s).evs = s.evs := rfl
@[simp] theorem modLcs_mem (f : LcsState → LcsState) (s : State) : (modLcs f s).mem = s.mem := rfl
@[simp] theorem modLcs_poison (f : LcsState → LcsState) (s : State) : (modLcs f s).poison = s.poison := rfl
@[simp] theorem modLcs_tsk (f : LcsState → LcsState) (s : State) : (modLcs f s).tsk = s.tsk := rfl
@[simp] theorem modLcs_hbm (f : LcsState → LcsState) (s : State) : (modLcs f s).hbm = s.hbm := rfl
@[simp] theorem modLcs_ime (f : LcsState → LcsState) (s : State) : (modLcs f s).ime = s.ime := rfl
@[simp] theorem modLcs_lnk (f : LcsState → LcsState) (s : State) : (modLcs f s).lnk = s.lnk := rfl
@[simp] theorem modLcs_wmk (f : LcsState → LcsState) (s : State) : (modLcs f s).wmk = s.wmk := rfl
@[simp] theorem modLcs_col (f : LcsState → LcsState) (s : State) : (modLcs f s).col = s.col := rfl
@[simp] theorem modLcs_runners (f : LcsState → LcsState) (s : State) : (modLcs f s).runners = s.runners := rfl
@[simp] theorem modLcs_admits (f : LcsState → LcsState) (s : State) : (modLcs f s).admits = s.admits := rfl
@[simp] theorem modLcs_ing (f : LcsState → LcsState) (s : State) : (modLcs f s).ing = s.ing := rfl
@[simp] theorem modLcs_ckp (f : LcsState → LcsState) (s : State) : (modLcs f s).ckp = s.ckp := rfl
@[simp] theorem modLcs_sec (f : LcsState → LcsState) (s : State) : (modLcs f s).sec = s.sec := rfl
@[simp] theorem modLcs_lcs (f : LcsState → LcsState) (s : State) : (modLcs f s).lcs = f s.lcs := rfl
@[simp] theorem modLcs_mxe (f : LcsState → LcsState) (s : State) : (modLcs f s).mxe = s.mxe := rfl
@[simp] theorem modLcs_vcu (f : LcsState → LcsState) (s : State) : (modLcs f s).vcu = s.vcu := rfl
@[simp] theorem modLcs_svc (f : LcsState → LcsState) (s : State) : (modLcs f s).svc = s.svc := rfl

/-! ## `modMxe` -/

@[simp] theorem modMxe_pending (f : MxeState → MxeState) (s : State) : (modMxe f s).pending = s.pending := rfl
@[simp] theorem modMxe_out (f : MxeState → MxeState) (s : State) : (modMxe f s).out = s.out := rfl
@[simp] theorem modMxe_draws (f : MxeState → MxeState) (s : State) : (modMxe f s).draws = s.draws := rfl
@[simp] theorem modMxe_now (f : MxeState → MxeState) (s : State) : (modMxe f s).now = s.now := rfl
@[simp] theorem modMxe_hold64 (f : MxeState → MxeState) (s : State) : (modMxe f s).hold64 = s.hold64 := rfl
@[simp] theorem modMxe_latch64 (f : MxeState → MxeState) (s : State) : (modMxe f s).latch64 = s.latch64 := rfl
@[simp] theorem modMxe_mod (f : MxeState → MxeState) (s : State) : (modMxe f s).mod = s.mod := rfl
@[simp] theorem modMxe_clk (f : MxeState → MxeState) (s : State) : (modMxe f s).clk = s.clk := rfl
@[simp] theorem modMxe_flt (f : MxeState → MxeState) (s : State) : (modMxe f s).flt = s.flt := rfl
@[simp] theorem modMxe_mgt (f : MxeState → MxeState) (s : State) : (modMxe f s).mgt = s.mgt := rfl
@[simp] theorem modMxe_log (f : MxeState → MxeState) (s : State) : (modMxe f s).log = s.log := rfl
@[simp] theorem modMxe_owl (f : MxeState → MxeState) (s : State) : (modMxe f s).owl = s.owl := rfl
@[simp] theorem modMxe_pwr (f : MxeState → MxeState) (s : State) : (modMxe f s).pwr = s.pwr := rfl
@[simp] theorem modMxe_led (f : MxeState → MxeState) (s : State) : (modMxe f s).led = s.led := rfl
@[simp] theorem modMxe_nv (f : MxeState → MxeState) (s : State) : (modMxe f s).nv = s.nv := rfl
@[simp] theorem modMxe_hif (f : MxeState → MxeState) (s : State) : (modMxe f s).hif = s.hif := rfl
@[simp] theorem modMxe_cmd (f : MxeState → MxeState) (s : State) : (modMxe f s).cmd = s.cmd := rfl
@[simp] theorem modMxe_ctxs (f : MxeState → MxeState) (s : State) : (modMxe f s).ctxs = s.ctxs := rfl
@[simp] theorem modMxe_mems (f : MxeState → MxeState) (s : State) : (modMxe f s).mems = s.mems := rfl
@[simp] theorem modMxe_evs (f : MxeState → MxeState) (s : State) : (modMxe f s).evs = s.evs := rfl
@[simp] theorem modMxe_mem (f : MxeState → MxeState) (s : State) : (modMxe f s).mem = s.mem := rfl
@[simp] theorem modMxe_poison (f : MxeState → MxeState) (s : State) : (modMxe f s).poison = s.poison := rfl
@[simp] theorem modMxe_tsk (f : MxeState → MxeState) (s : State) : (modMxe f s).tsk = s.tsk := rfl
@[simp] theorem modMxe_hbm (f : MxeState → MxeState) (s : State) : (modMxe f s).hbm = s.hbm := rfl
@[simp] theorem modMxe_ime (f : MxeState → MxeState) (s : State) : (modMxe f s).ime = s.ime := rfl
@[simp] theorem modMxe_lnk (f : MxeState → MxeState) (s : State) : (modMxe f s).lnk = s.lnk := rfl
@[simp] theorem modMxe_wmk (f : MxeState → MxeState) (s : State) : (modMxe f s).wmk = s.wmk := rfl
@[simp] theorem modMxe_col (f : MxeState → MxeState) (s : State) : (modMxe f s).col = s.col := rfl
@[simp] theorem modMxe_runners (f : MxeState → MxeState) (s : State) : (modMxe f s).runners = s.runners := rfl
@[simp] theorem modMxe_admits (f : MxeState → MxeState) (s : State) : (modMxe f s).admits = s.admits := rfl
@[simp] theorem modMxe_ing (f : MxeState → MxeState) (s : State) : (modMxe f s).ing = s.ing := rfl
@[simp] theorem modMxe_ckp (f : MxeState → MxeState) (s : State) : (modMxe f s).ckp = s.ckp := rfl
@[simp] theorem modMxe_sec (f : MxeState → MxeState) (s : State) : (modMxe f s).sec = s.sec := rfl
@[simp] theorem modMxe_lcs (f : MxeState → MxeState) (s : State) : (modMxe f s).lcs = s.lcs := rfl
@[simp] theorem modMxe_mxe (f : MxeState → MxeState) (s : State) : (modMxe f s).mxe = f s.mxe := rfl
@[simp] theorem modMxe_vcu (f : MxeState → MxeState) (s : State) : (modMxe f s).vcu = s.vcu := rfl
@[simp] theorem modMxe_svc (f : MxeState → MxeState) (s : State) : (modMxe f s).svc = s.svc := rfl

/-! ## `modVcu` -/

@[simp] theorem modVcu_pending (f : VcuState → VcuState) (s : State) : (modVcu f s).pending = s.pending := rfl
@[simp] theorem modVcu_out (f : VcuState → VcuState) (s : State) : (modVcu f s).out = s.out := rfl
@[simp] theorem modVcu_draws (f : VcuState → VcuState) (s : State) : (modVcu f s).draws = s.draws := rfl
@[simp] theorem modVcu_now (f : VcuState → VcuState) (s : State) : (modVcu f s).now = s.now := rfl
@[simp] theorem modVcu_hold64 (f : VcuState → VcuState) (s : State) : (modVcu f s).hold64 = s.hold64 := rfl
@[simp] theorem modVcu_latch64 (f : VcuState → VcuState) (s : State) : (modVcu f s).latch64 = s.latch64 := rfl
@[simp] theorem modVcu_mod (f : VcuState → VcuState) (s : State) : (modVcu f s).mod = s.mod := rfl
@[simp] theorem modVcu_clk (f : VcuState → VcuState) (s : State) : (modVcu f s).clk = s.clk := rfl
@[simp] theorem modVcu_flt (f : VcuState → VcuState) (s : State) : (modVcu f s).flt = s.flt := rfl
@[simp] theorem modVcu_mgt (f : VcuState → VcuState) (s : State) : (modVcu f s).mgt = s.mgt := rfl
@[simp] theorem modVcu_log (f : VcuState → VcuState) (s : State) : (modVcu f s).log = s.log := rfl
@[simp] theorem modVcu_owl (f : VcuState → VcuState) (s : State) : (modVcu f s).owl = s.owl := rfl
@[simp] theorem modVcu_pwr (f : VcuState → VcuState) (s : State) : (modVcu f s).pwr = s.pwr := rfl
@[simp] theorem modVcu_led (f : VcuState → VcuState) (s : State) : (modVcu f s).led = s.led := rfl
@[simp] theorem modVcu_nv (f : VcuState → VcuState) (s : State) : (modVcu f s).nv = s.nv := rfl
@[simp] theorem modVcu_hif (f : VcuState → VcuState) (s : State) : (modVcu f s).hif = s.hif := rfl
@[simp] theorem modVcu_cmd (f : VcuState → VcuState) (s : State) : (modVcu f s).cmd = s.cmd := rfl
@[simp] theorem modVcu_ctxs (f : VcuState → VcuState) (s : State) : (modVcu f s).ctxs = s.ctxs := rfl
@[simp] theorem modVcu_mems (f : VcuState → VcuState) (s : State) : (modVcu f s).mems = s.mems := rfl
@[simp] theorem modVcu_evs (f : VcuState → VcuState) (s : State) : (modVcu f s).evs = s.evs := rfl
@[simp] theorem modVcu_mem (f : VcuState → VcuState) (s : State) : (modVcu f s).mem = s.mem := rfl
@[simp] theorem modVcu_poison (f : VcuState → VcuState) (s : State) : (modVcu f s).poison = s.poison := rfl
@[simp] theorem modVcu_tsk (f : VcuState → VcuState) (s : State) : (modVcu f s).tsk = s.tsk := rfl
@[simp] theorem modVcu_hbm (f : VcuState → VcuState) (s : State) : (modVcu f s).hbm = s.hbm := rfl
@[simp] theorem modVcu_ime (f : VcuState → VcuState) (s : State) : (modVcu f s).ime = s.ime := rfl
@[simp] theorem modVcu_lnk (f : VcuState → VcuState) (s : State) : (modVcu f s).lnk = s.lnk := rfl
@[simp] theorem modVcu_wmk (f : VcuState → VcuState) (s : State) : (modVcu f s).wmk = s.wmk := rfl
@[simp] theorem modVcu_col (f : VcuState → VcuState) (s : State) : (modVcu f s).col = s.col := rfl
@[simp] theorem modVcu_runners (f : VcuState → VcuState) (s : State) : (modVcu f s).runners = s.runners := rfl
@[simp] theorem modVcu_admits (f : VcuState → VcuState) (s : State) : (modVcu f s).admits = s.admits := rfl
@[simp] theorem modVcu_ing (f : VcuState → VcuState) (s : State) : (modVcu f s).ing = s.ing := rfl
@[simp] theorem modVcu_ckp (f : VcuState → VcuState) (s : State) : (modVcu f s).ckp = s.ckp := rfl
@[simp] theorem modVcu_sec (f : VcuState → VcuState) (s : State) : (modVcu f s).sec = s.sec := rfl
@[simp] theorem modVcu_lcs (f : VcuState → VcuState) (s : State) : (modVcu f s).lcs = s.lcs := rfl
@[simp] theorem modVcu_mxe (f : VcuState → VcuState) (s : State) : (modVcu f s).mxe = s.mxe := rfl
@[simp] theorem modVcu_vcu (f : VcuState → VcuState) (s : State) : (modVcu f s).vcu = f s.vcu := rfl
@[simp] theorem modVcu_svc (f : VcuState → VcuState) (s : State) : (modVcu f s).svc = s.svc := rfl

/-! ## `modSvc` -/

@[simp] theorem modSvc_pending (f : SvcState → SvcState) (s : State) : (modSvc f s).pending = s.pending := rfl
@[simp] theorem modSvc_out (f : SvcState → SvcState) (s : State) : (modSvc f s).out = s.out := rfl
@[simp] theorem modSvc_draws (f : SvcState → SvcState) (s : State) : (modSvc f s).draws = s.draws := rfl
@[simp] theorem modSvc_now (f : SvcState → SvcState) (s : State) : (modSvc f s).now = s.now := rfl
@[simp] theorem modSvc_hold64 (f : SvcState → SvcState) (s : State) : (modSvc f s).hold64 = s.hold64 := rfl
@[simp] theorem modSvc_latch64 (f : SvcState → SvcState) (s : State) : (modSvc f s).latch64 = s.latch64 := rfl
@[simp] theorem modSvc_mod (f : SvcState → SvcState) (s : State) : (modSvc f s).mod = s.mod := rfl
@[simp] theorem modSvc_clk (f : SvcState → SvcState) (s : State) : (modSvc f s).clk = s.clk := rfl
@[simp] theorem modSvc_flt (f : SvcState → SvcState) (s : State) : (modSvc f s).flt = s.flt := rfl
@[simp] theorem modSvc_mgt (f : SvcState → SvcState) (s : State) : (modSvc f s).mgt = s.mgt := rfl
@[simp] theorem modSvc_log (f : SvcState → SvcState) (s : State) : (modSvc f s).log = s.log := rfl
@[simp] theorem modSvc_owl (f : SvcState → SvcState) (s : State) : (modSvc f s).owl = s.owl := rfl
@[simp] theorem modSvc_pwr (f : SvcState → SvcState) (s : State) : (modSvc f s).pwr = s.pwr := rfl
@[simp] theorem modSvc_led (f : SvcState → SvcState) (s : State) : (modSvc f s).led = s.led := rfl
@[simp] theorem modSvc_nv (f : SvcState → SvcState) (s : State) : (modSvc f s).nv = s.nv := rfl
@[simp] theorem modSvc_hif (f : SvcState → SvcState) (s : State) : (modSvc f s).hif = s.hif := rfl
@[simp] theorem modSvc_cmd (f : SvcState → SvcState) (s : State) : (modSvc f s).cmd = s.cmd := rfl
@[simp] theorem modSvc_ctxs (f : SvcState → SvcState) (s : State) : (modSvc f s).ctxs = s.ctxs := rfl
@[simp] theorem modSvc_mems (f : SvcState → SvcState) (s : State) : (modSvc f s).mems = s.mems := rfl
@[simp] theorem modSvc_evs (f : SvcState → SvcState) (s : State) : (modSvc f s).evs = s.evs := rfl
@[simp] theorem modSvc_mem (f : SvcState → SvcState) (s : State) : (modSvc f s).mem = s.mem := rfl
@[simp] theorem modSvc_poison (f : SvcState → SvcState) (s : State) : (modSvc f s).poison = s.poison := rfl
@[simp] theorem modSvc_tsk (f : SvcState → SvcState) (s : State) : (modSvc f s).tsk = s.tsk := rfl
@[simp] theorem modSvc_hbm (f : SvcState → SvcState) (s : State) : (modSvc f s).hbm = s.hbm := rfl
@[simp] theorem modSvc_ime (f : SvcState → SvcState) (s : State) : (modSvc f s).ime = s.ime := rfl
@[simp] theorem modSvc_lnk (f : SvcState → SvcState) (s : State) : (modSvc f s).lnk = s.lnk := rfl
@[simp] theorem modSvc_wmk (f : SvcState → SvcState) (s : State) : (modSvc f s).wmk = s.wmk := rfl
@[simp] theorem modSvc_col (f : SvcState → SvcState) (s : State) : (modSvc f s).col = s.col := rfl
@[simp] theorem modSvc_runners (f : SvcState → SvcState) (s : State) : (modSvc f s).runners = s.runners := rfl
@[simp] theorem modSvc_admits (f : SvcState → SvcState) (s : State) : (modSvc f s).admits = s.admits := rfl
@[simp] theorem modSvc_ing (f : SvcState → SvcState) (s : State) : (modSvc f s).ing = s.ing := rfl
@[simp] theorem modSvc_ckp (f : SvcState → SvcState) (s : State) : (modSvc f s).ckp = s.ckp := rfl
@[simp] theorem modSvc_sec (f : SvcState → SvcState) (s : State) : (modSvc f s).sec = s.sec := rfl
@[simp] theorem modSvc_lcs (f : SvcState → SvcState) (s : State) : (modSvc f s).lcs = s.lcs := rfl
@[simp] theorem modSvc_mxe (f : SvcState → SvcState) (s : State) : (modSvc f s).mxe = s.mxe := rfl
@[simp] theorem modSvc_vcu (f : SvcState → SvcState) (s : State) : (modSvc f s).vcu = s.vcu := rfl
@[simp] theorem modSvc_svc (f : SvcState → SvcState) (s : State) : (modSvc f s).svc = f s.svc := rfl

/-! ## `modCkp` -/

@[simp] theorem modCkp_pending (f : CkpState → CkpState) (s : State) : (modCkp f s).pending = s.pending := rfl
@[simp] theorem modCkp_out (f : CkpState → CkpState) (s : State) : (modCkp f s).out = s.out := rfl
@[simp] theorem modCkp_draws (f : CkpState → CkpState) (s : State) : (modCkp f s).draws = s.draws := rfl
@[simp] theorem modCkp_now (f : CkpState → CkpState) (s : State) : (modCkp f s).now = s.now := rfl
@[simp] theorem modCkp_hold64 (f : CkpState → CkpState) (s : State) : (modCkp f s).hold64 = s.hold64 := rfl
@[simp] theorem modCkp_latch64 (f : CkpState → CkpState) (s : State) : (modCkp f s).latch64 = s.latch64 := rfl
@[simp] theorem modCkp_mod (f : CkpState → CkpState) (s : State) : (modCkp f s).mod = s.mod := rfl
@[simp] theorem modCkp_clk (f : CkpState → CkpState) (s : State) : (modCkp f s).clk = s.clk := rfl
@[simp] theorem modCkp_flt (f : CkpState → CkpState) (s : State) : (modCkp f s).flt = s.flt := rfl
@[simp] theorem modCkp_mgt (f : CkpState → CkpState) (s : State) : (modCkp f s).mgt = s.mgt := rfl
@[simp] theorem modCkp_log (f : CkpState → CkpState) (s : State) : (modCkp f s).log = s.log := rfl
@[simp] theorem modCkp_owl (f : CkpState → CkpState) (s : State) : (modCkp f s).owl = s.owl := rfl
@[simp] theorem modCkp_pwr (f : CkpState → CkpState) (s : State) : (modCkp f s).pwr = s.pwr := rfl
@[simp] theorem modCkp_led (f : CkpState → CkpState) (s : State) : (modCkp f s).led = s.led := rfl
@[simp] theorem modCkp_nv (f : CkpState → CkpState) (s : State) : (modCkp f s).nv = s.nv := rfl
@[simp] theorem modCkp_hif (f : CkpState → CkpState) (s : State) : (modCkp f s).hif = s.hif := rfl
@[simp] theorem modCkp_cmd (f : CkpState → CkpState) (s : State) : (modCkp f s).cmd = s.cmd := rfl
@[simp] theorem modCkp_ctxs (f : CkpState → CkpState) (s : State) : (modCkp f s).ctxs = s.ctxs := rfl
@[simp] theorem modCkp_mems (f : CkpState → CkpState) (s : State) : (modCkp f s).mems = s.mems := rfl
@[simp] theorem modCkp_evs (f : CkpState → CkpState) (s : State) : (modCkp f s).evs = s.evs := rfl
@[simp] theorem modCkp_mem (f : CkpState → CkpState) (s : State) : (modCkp f s).mem = s.mem := rfl
@[simp] theorem modCkp_poison (f : CkpState → CkpState) (s : State) : (modCkp f s).poison = s.poison := rfl
@[simp] theorem modCkp_tsk (f : CkpState → CkpState) (s : State) : (modCkp f s).tsk = s.tsk := rfl
@[simp] theorem modCkp_hbm (f : CkpState → CkpState) (s : State) : (modCkp f s).hbm = s.hbm := rfl
@[simp] theorem modCkp_ime (f : CkpState → CkpState) (s : State) : (modCkp f s).ime = s.ime := rfl
@[simp] theorem modCkp_lnk (f : CkpState → CkpState) (s : State) : (modCkp f s).lnk = s.lnk := rfl
@[simp] theorem modCkp_wmk (f : CkpState → CkpState) (s : State) : (modCkp f s).wmk = s.wmk := rfl
@[simp] theorem modCkp_col (f : CkpState → CkpState) (s : State) : (modCkp f s).col = s.col := rfl
@[simp] theorem modCkp_runners (f : CkpState → CkpState) (s : State) : (modCkp f s).runners = s.runners := rfl
@[simp] theorem modCkp_admits (f : CkpState → CkpState) (s : State) : (modCkp f s).admits = s.admits := rfl
@[simp] theorem modCkp_ing (f : CkpState → CkpState) (s : State) : (modCkp f s).ing = s.ing := rfl
@[simp] theorem modCkp_ckp (f : CkpState → CkpState) (s : State) : (modCkp f s).ckp = f s.ckp := rfl
@[simp] theorem modCkp_sec (f : CkpState → CkpState) (s : State) : (modCkp f s).sec = s.sec := rfl
@[simp] theorem modCkp_lcs (f : CkpState → CkpState) (s : State) : (modCkp f s).lcs = s.lcs := rfl
@[simp] theorem modCkp_mxe (f : CkpState → CkpState) (s : State) : (modCkp f s).mxe = s.mxe := rfl
@[simp] theorem modCkp_vcu (f : CkpState → CkpState) (s : State) : (modCkp f s).vcu = s.vcu := rfl
@[simp] theorem modCkp_svc (f : CkpState → CkpState) (s : State) : (modCkp f s).svc = s.svc := rfl

/-! ## `modSec` -/

@[simp] theorem modSec_pending (f : SecState → SecState) (s : State) : (modSec f s).pending = s.pending := rfl
@[simp] theorem modSec_out (f : SecState → SecState) (s : State) : (modSec f s).out = s.out := rfl
@[simp] theorem modSec_draws (f : SecState → SecState) (s : State) : (modSec f s).draws = s.draws := rfl
@[simp] theorem modSec_now (f : SecState → SecState) (s : State) : (modSec f s).now = s.now := rfl
@[simp] theorem modSec_hold64 (f : SecState → SecState) (s : State) : (modSec f s).hold64 = s.hold64 := rfl
@[simp] theorem modSec_latch64 (f : SecState → SecState) (s : State) : (modSec f s).latch64 = s.latch64 := rfl
@[simp] theorem modSec_mod (f : SecState → SecState) (s : State) : (modSec f s).mod = s.mod := rfl
@[simp] theorem modSec_clk (f : SecState → SecState) (s : State) : (modSec f s).clk = s.clk := rfl
@[simp] theorem modSec_flt (f : SecState → SecState) (s : State) : (modSec f s).flt = s.flt := rfl
@[simp] theorem modSec_mgt (f : SecState → SecState) (s : State) : (modSec f s).mgt = s.mgt := rfl
@[simp] theorem modSec_log (f : SecState → SecState) (s : State) : (modSec f s).log = s.log := rfl
@[simp] theorem modSec_owl (f : SecState → SecState) (s : State) : (modSec f s).owl = s.owl := rfl
@[simp] theorem modSec_pwr (f : SecState → SecState) (s : State) : (modSec f s).pwr = s.pwr := rfl
@[simp] theorem modSec_led (f : SecState → SecState) (s : State) : (modSec f s).led = s.led := rfl
@[simp] theorem modSec_nv (f : SecState → SecState) (s : State) : (modSec f s).nv = s.nv := rfl
@[simp] theorem modSec_hif (f : SecState → SecState) (s : State) : (modSec f s).hif = s.hif := rfl
@[simp] theorem modSec_cmd (f : SecState → SecState) (s : State) : (modSec f s).cmd = s.cmd := rfl
@[simp] theorem modSec_ctxs (f : SecState → SecState) (s : State) : (modSec f s).ctxs = s.ctxs := rfl
@[simp] theorem modSec_mems (f : SecState → SecState) (s : State) : (modSec f s).mems = s.mems := rfl
@[simp] theorem modSec_evs (f : SecState → SecState) (s : State) : (modSec f s).evs = s.evs := rfl
@[simp] theorem modSec_mem (f : SecState → SecState) (s : State) : (modSec f s).mem = s.mem := rfl
@[simp] theorem modSec_poison (f : SecState → SecState) (s : State) : (modSec f s).poison = s.poison := rfl
@[simp] theorem modSec_tsk (f : SecState → SecState) (s : State) : (modSec f s).tsk = s.tsk := rfl
@[simp] theorem modSec_hbm (f : SecState → SecState) (s : State) : (modSec f s).hbm = s.hbm := rfl
@[simp] theorem modSec_ime (f : SecState → SecState) (s : State) : (modSec f s).ime = s.ime := rfl
@[simp] theorem modSec_lnk (f : SecState → SecState) (s : State) : (modSec f s).lnk = s.lnk := rfl
@[simp] theorem modSec_wmk (f : SecState → SecState) (s : State) : (modSec f s).wmk = s.wmk := rfl
@[simp] theorem modSec_col (f : SecState → SecState) (s : State) : (modSec f s).col = s.col := rfl
@[simp] theorem modSec_runners (f : SecState → SecState) (s : State) : (modSec f s).runners = s.runners := rfl
@[simp] theorem modSec_admits (f : SecState → SecState) (s : State) : (modSec f s).admits = s.admits := rfl
@[simp] theorem modSec_ing (f : SecState → SecState) (s : State) : (modSec f s).ing = s.ing := rfl
@[simp] theorem modSec_ckp (f : SecState → SecState) (s : State) : (modSec f s).ckp = s.ckp := rfl
@[simp] theorem modSec_sec (f : SecState → SecState) (s : State) : (modSec f s).sec = f s.sec := rfl
@[simp] theorem modSec_lcs (f : SecState → SecState) (s : State) : (modSec f s).lcs = s.lcs := rfl
@[simp] theorem modSec_mxe (f : SecState → SecState) (s : State) : (modSec f s).mxe = s.mxe := rfl
@[simp] theorem modSec_vcu (f : SecState → SecState) (s : State) : (modSec f s).vcu = s.vcu := rfl
@[simp] theorem modSec_svc (f : SecState → SecState) (s : State) : (modSec f s).svc = s.svc := rfl

/-! ## `emit` -/

@[simp] theorem emit_pending (o : Output) (s : State) : (emit o s).pending = s.pending := rfl
@[simp] theorem emit_out (o : Output) (s : State) : (emit o s).out = o :: s.out := rfl
@[simp] theorem emit_draws (o : Output) (s : State) : (emit o s).draws = s.draws := rfl
@[simp] theorem emit_now (o : Output) (s : State) : (emit o s).now = s.now := rfl
@[simp] theorem emit_hold64 (o : Output) (s : State) : (emit o s).hold64 = s.hold64 := rfl
@[simp] theorem emit_latch64 (o : Output) (s : State) : (emit o s).latch64 = s.latch64 := rfl
@[simp] theorem emit_mod (o : Output) (s : State) : (emit o s).mod = s.mod := rfl
@[simp] theorem emit_clk (o : Output) (s : State) : (emit o s).clk = s.clk := rfl
@[simp] theorem emit_flt (o : Output) (s : State) : (emit o s).flt = s.flt := rfl
@[simp] theorem emit_mgt (o : Output) (s : State) : (emit o s).mgt = s.mgt := rfl
@[simp] theorem emit_log (o : Output) (s : State) : (emit o s).log = s.log := rfl
@[simp] theorem emit_owl (o : Output) (s : State) : (emit o s).owl = s.owl := rfl
@[simp] theorem emit_pwr (o : Output) (s : State) : (emit o s).pwr = s.pwr := rfl
@[simp] theorem emit_led (o : Output) (s : State) : (emit o s).led = s.led := rfl
@[simp] theorem emit_nv (o : Output) (s : State) : (emit o s).nv = s.nv := rfl
@[simp] theorem emit_hif (o : Output) (s : State) : (emit o s).hif = s.hif := rfl
@[simp] theorem emit_cmd (o : Output) (s : State) : (emit o s).cmd = s.cmd := rfl
@[simp] theorem emit_ctxs (o : Output) (s : State) : (emit o s).ctxs = s.ctxs := rfl
@[simp] theorem emit_mems (o : Output) (s : State) : (emit o s).mems = s.mems := rfl
@[simp] theorem emit_evs (o : Output) (s : State) : (emit o s).evs = s.evs := rfl
@[simp] theorem emit_mem (o : Output) (s : State) : (emit o s).mem = s.mem := rfl
@[simp] theorem emit_poison (o : Output) (s : State) : (emit o s).poison = s.poison := rfl
@[simp] theorem emit_tsk (o : Output) (s : State) : (emit o s).tsk = s.tsk := rfl
@[simp] theorem emit_hbm (o : Output) (s : State) : (emit o s).hbm = s.hbm := rfl
@[simp] theorem emit_ime (o : Output) (s : State) : (emit o s).ime = s.ime := rfl
@[simp] theorem emit_lnk (o : Output) (s : State) : (emit o s).lnk = s.lnk := rfl
@[simp] theorem emit_wmk (o : Output) (s : State) : (emit o s).wmk = s.wmk := rfl
@[simp] theorem emit_col (o : Output) (s : State) : (emit o s).col = s.col := rfl
@[simp] theorem emit_runners (o : Output) (s : State) : (emit o s).runners = s.runners := rfl
@[simp] theorem emit_admits (o : Output) (s : State) : (emit o s).admits = s.admits := rfl
@[simp] theorem emit_ing (o : Output) (s : State) : (emit o s).ing = s.ing := rfl
@[simp] theorem emit_ckp (o : Output) (s : State) : (emit o s).ckp = s.ckp := rfl
@[simp] theorem emit_sec (o : Output) (s : State) : (emit o s).sec = s.sec := rfl
@[simp] theorem emit_lcs (o : Output) (s : State) : (emit o s).lcs = s.lcs := rfl
@[simp] theorem emit_mxe (o : Output) (s : State) : (emit o s).mxe = s.mxe := rfl
@[simp] theorem emit_vcu (o : Output) (s : State) : (emit o s).vcu = s.vcu := rfl
@[simp] theorem emit_svc (o : Output) (s : State) : (emit o s).svc = s.svc := rfl

/-! ## `tookFree` -/

@[simp] theorem tookFree_pending (s : State) : (tookFree s).pending = s.pending := rfl
@[simp] theorem tookFree_out (s : State) : (tookFree s).out = s.out := rfl
@[simp] theorem tookFree_draws (s : State) : (tookFree s).draws = s.draws + 1 := rfl
@[simp] theorem tookFree_now (s : State) : (tookFree s).now = s.now := rfl
@[simp] theorem tookFree_hold64 (s : State) : (tookFree s).hold64 = s.hold64 := rfl
@[simp] theorem tookFree_latch64 (s : State) : (tookFree s).latch64 = s.latch64 := rfl
@[simp] theorem tookFree_mod (s : State) : (tookFree s).mod = s.mod := rfl
@[simp] theorem tookFree_clk (s : State) : (tookFree s).clk = s.clk := rfl
@[simp] theorem tookFree_flt (s : State) : (tookFree s).flt = s.flt := rfl
@[simp] theorem tookFree_mgt (s : State) : (tookFree s).mgt = s.mgt := rfl
@[simp] theorem tookFree_log (s : State) : (tookFree s).log = s.log := rfl
@[simp] theorem tookFree_owl (s : State) : (tookFree s).owl = s.owl := rfl
@[simp] theorem tookFree_pwr (s : State) : (tookFree s).pwr = s.pwr := rfl
@[simp] theorem tookFree_led (s : State) : (tookFree s).led = s.led := rfl
@[simp] theorem tookFree_nv (s : State) : (tookFree s).nv = s.nv := rfl
@[simp] theorem tookFree_hif (s : State) : (tookFree s).hif = s.hif := rfl
@[simp] theorem tookFree_cmd (s : State) : (tookFree s).cmd = s.cmd := rfl
@[simp] theorem tookFree_ctxs (s : State) : (tookFree s).ctxs = s.ctxs := rfl
@[simp] theorem tookFree_mems (s : State) : (tookFree s).mems = s.mems := rfl
@[simp] theorem tookFree_evs (s : State) : (tookFree s).evs = s.evs := rfl
@[simp] theorem tookFree_mem (s : State) : (tookFree s).mem = s.mem := rfl
@[simp] theorem tookFree_poison (s : State) : (tookFree s).poison = s.poison := rfl
@[simp] theorem tookFree_tsk (s : State) : (tookFree s).tsk = s.tsk := rfl
@[simp] theorem tookFree_hbm (s : State) : (tookFree s).hbm = s.hbm := rfl
@[simp] theorem tookFree_ime (s : State) : (tookFree s).ime = s.ime := rfl
@[simp] theorem tookFree_lnk (s : State) : (tookFree s).lnk = s.lnk := rfl
@[simp] theorem tookFree_wmk (s : State) : (tookFree s).wmk = s.wmk := rfl
@[simp] theorem tookFree_col (s : State) : (tookFree s).col = s.col := rfl
@[simp] theorem tookFree_runners (s : State) : (tookFree s).runners = s.runners := rfl
@[simp] theorem tookFree_admits (s : State) : (tookFree s).admits = s.admits := rfl
@[simp] theorem tookFree_ing (s : State) : (tookFree s).ing = s.ing := rfl
@[simp] theorem tookFree_ckp (s : State) : (tookFree s).ckp = s.ckp := rfl
@[simp] theorem tookFree_sec (s : State) : (tookFree s).sec = s.sec := rfl
@[simp] theorem tookFree_lcs (s : State) : (tookFree s).lcs = s.lcs := rfl
@[simp] theorem tookFree_mxe (s : State) : (tookFree s).mxe = s.mxe := rfl
@[simp] theorem tookFree_vcu (s : State) : (tookFree s).vcu = s.vcu := rfl
@[simp] theorem tookFree_svc (s : State) : (tookFree s).svc = s.svc := rfl

/-! ## `modCtx` -/

@[simp] theorem modCtx_pending (c : Nat) (f : Ctx → Ctx) (s : State) : (modCtx c f s).pending = s.pending := rfl
@[simp] theorem modCtx_out (c : Nat) (f : Ctx → Ctx) (s : State) : (modCtx c f s).out = s.out := rfl
@[simp] theorem modCtx_draws (c : Nat) (f : Ctx → Ctx) (s : State) : (modCtx c f s).draws = s.draws := rfl
@[simp] theorem modCtx_now (c : Nat) (f : Ctx → Ctx) (s : State) : (modCtx c f s).now = s.now := rfl
@[simp] theorem modCtx_hold64 (c : Nat) (f : Ctx → Ctx) (s : State) : (modCtx c f s).hold64 = s.hold64 := rfl
@[simp] theorem modCtx_latch64 (c : Nat) (f : Ctx → Ctx) (s : State) : (modCtx c f s).latch64 = s.latch64 := rfl
@[simp] theorem modCtx_mod (c : Nat) (f : Ctx → Ctx) (s : State) : (modCtx c f s).mod = s.mod := rfl
@[simp] theorem modCtx_clk (c : Nat) (f : Ctx → Ctx) (s : State) : (modCtx c f s).clk = s.clk := rfl
@[simp] theorem modCtx_flt (c : Nat) (f : Ctx → Ctx) (s : State) : (modCtx c f s).flt = s.flt := rfl
@[simp] theorem modCtx_mgt (c : Nat) (f : Ctx → Ctx) (s : State) : (modCtx c f s).mgt = s.mgt := rfl
@[simp] theorem modCtx_log (c : Nat) (f : Ctx → Ctx) (s : State) : (modCtx c f s).log = s.log := rfl
@[simp] theorem modCtx_owl (c : Nat) (f : Ctx → Ctx) (s : State) : (modCtx c f s).owl = s.owl := rfl
@[simp] theorem modCtx_pwr (c : Nat) (f : Ctx → Ctx) (s : State) : (modCtx c f s).pwr = s.pwr := rfl
@[simp] theorem modCtx_led (c : Nat) (f : Ctx → Ctx) (s : State) : (modCtx c f s).led = s.led := rfl
@[simp] theorem modCtx_nv (c : Nat) (f : Ctx → Ctx) (s : State) : (modCtx c f s).nv = s.nv := rfl
@[simp] theorem modCtx_hif (c : Nat) (f : Ctx → Ctx) (s : State) : (modCtx c f s).hif = s.hif := rfl
@[simp] theorem modCtx_cmd (c : Nat) (f : Ctx → Ctx) (s : State) : (modCtx c f s).cmd = s.cmd := rfl
@[simp] theorem modCtx_ctxs (c : Nat) (f : Ctx → Ctx) (s : State) : (modCtx c f s).ctxs = tmod s.ctxs c f := rfl
@[simp] theorem modCtx_mems (c : Nat) (f : Ctx → Ctx) (s : State) : (modCtx c f s).mems = s.mems := rfl
@[simp] theorem modCtx_evs (c : Nat) (f : Ctx → Ctx) (s : State) : (modCtx c f s).evs = s.evs := rfl
@[simp] theorem modCtx_mem (c : Nat) (f : Ctx → Ctx) (s : State) : (modCtx c f s).mem = s.mem := rfl
@[simp] theorem modCtx_poison (c : Nat) (f : Ctx → Ctx) (s : State) : (modCtx c f s).poison = s.poison := rfl
@[simp] theorem modCtx_tsk (c : Nat) (f : Ctx → Ctx) (s : State) : (modCtx c f s).tsk = s.tsk := rfl
@[simp] theorem modCtx_hbm (c : Nat) (f : Ctx → Ctx) (s : State) : (modCtx c f s).hbm = s.hbm := rfl
@[simp] theorem modCtx_ime (c : Nat) (f : Ctx → Ctx) (s : State) : (modCtx c f s).ime = s.ime := rfl
@[simp] theorem modCtx_lnk (c : Nat) (f : Ctx → Ctx) (s : State) : (modCtx c f s).lnk = s.lnk := rfl
@[simp] theorem modCtx_wmk (c : Nat) (f : Ctx → Ctx) (s : State) : (modCtx c f s).wmk = s.wmk := rfl
@[simp] theorem modCtx_col (c : Nat) (f : Ctx → Ctx) (s : State) : (modCtx c f s).col = s.col := rfl
@[simp] theorem modCtx_runners (c : Nat) (f : Ctx → Ctx) (s : State) : (modCtx c f s).runners = s.runners := rfl
@[simp] theorem modCtx_admits (c : Nat) (f : Ctx → Ctx) (s : State) : (modCtx c f s).admits = s.admits := rfl
@[simp] theorem modCtx_ing (c : Nat) (f : Ctx → Ctx) (s : State) : (modCtx c f s).ing = s.ing := rfl
@[simp] theorem modCtx_ckp (c : Nat) (f : Ctx → Ctx) (s : State) : (modCtx c f s).ckp = s.ckp := rfl
@[simp] theorem modCtx_sec (c : Nat) (f : Ctx → Ctx) (s : State) : (modCtx c f s).sec = s.sec := rfl
@[simp] theorem modCtx_lcs (c : Nat) (f : Ctx → Ctx) (s : State) : (modCtx c f s).lcs = s.lcs := rfl
@[simp] theorem modCtx_mxe (c : Nat) (f : Ctx → Ctx) (s : State) : (modCtx c f s).mxe = s.mxe := rfl
@[simp] theorem modCtx_vcu (c : Nat) (f : Ctx → Ctx) (s : State) : (modCtx c f s).vcu = s.vcu := rfl
@[simp] theorem modCtx_svc (c : Nat) (f : Ctx → Ctx) (s : State) : (modCtx c f s).svc = s.svc := rfl

/-! ## `modMem` -/

@[simp] theorem modMem_pending (c : Nat) (f : MemObj → MemObj) (s : State) : (modMem c f s).pending = s.pending := rfl
@[simp] theorem modMem_out (c : Nat) (f : MemObj → MemObj) (s : State) : (modMem c f s).out = s.out := rfl
@[simp] theorem modMem_draws (c : Nat) (f : MemObj → MemObj) (s : State) : (modMem c f s).draws = s.draws := rfl
@[simp] theorem modMem_now (c : Nat) (f : MemObj → MemObj) (s : State) : (modMem c f s).now = s.now := rfl
@[simp] theorem modMem_hold64 (c : Nat) (f : MemObj → MemObj) (s : State) : (modMem c f s).hold64 = s.hold64 := rfl
@[simp] theorem modMem_latch64 (c : Nat) (f : MemObj → MemObj) (s : State) : (modMem c f s).latch64 = s.latch64 := rfl
@[simp] theorem modMem_mod (c : Nat) (f : MemObj → MemObj) (s : State) : (modMem c f s).mod = s.mod := rfl
@[simp] theorem modMem_clk (c : Nat) (f : MemObj → MemObj) (s : State) : (modMem c f s).clk = s.clk := rfl
@[simp] theorem modMem_flt (c : Nat) (f : MemObj → MemObj) (s : State) : (modMem c f s).flt = s.flt := rfl
@[simp] theorem modMem_mgt (c : Nat) (f : MemObj → MemObj) (s : State) : (modMem c f s).mgt = s.mgt := rfl
@[simp] theorem modMem_log (c : Nat) (f : MemObj → MemObj) (s : State) : (modMem c f s).log = s.log := rfl
@[simp] theorem modMem_owl (c : Nat) (f : MemObj → MemObj) (s : State) : (modMem c f s).owl = s.owl := rfl
@[simp] theorem modMem_pwr (c : Nat) (f : MemObj → MemObj) (s : State) : (modMem c f s).pwr = s.pwr := rfl
@[simp] theorem modMem_led (c : Nat) (f : MemObj → MemObj) (s : State) : (modMem c f s).led = s.led := rfl
@[simp] theorem modMem_nv (c : Nat) (f : MemObj → MemObj) (s : State) : (modMem c f s).nv = s.nv := rfl
@[simp] theorem modMem_hif (c : Nat) (f : MemObj → MemObj) (s : State) : (modMem c f s).hif = s.hif := rfl
@[simp] theorem modMem_cmd (c : Nat) (f : MemObj → MemObj) (s : State) : (modMem c f s).cmd = s.cmd := rfl
@[simp] theorem modMem_ctxs (c : Nat) (f : MemObj → MemObj) (s : State) : (modMem c f s).ctxs = s.ctxs := rfl
@[simp] theorem modMem_mems (c : Nat) (f : MemObj → MemObj) (s : State) : (modMem c f s).mems = tmod s.mems c f := rfl
@[simp] theorem modMem_evs (c : Nat) (f : MemObj → MemObj) (s : State) : (modMem c f s).evs = s.evs := rfl
@[simp] theorem modMem_mem (c : Nat) (f : MemObj → MemObj) (s : State) : (modMem c f s).mem = s.mem := rfl
@[simp] theorem modMem_poison (c : Nat) (f : MemObj → MemObj) (s : State) : (modMem c f s).poison = s.poison := rfl
@[simp] theorem modMem_tsk (c : Nat) (f : MemObj → MemObj) (s : State) : (modMem c f s).tsk = s.tsk := rfl
@[simp] theorem modMem_hbm (c : Nat) (f : MemObj → MemObj) (s : State) : (modMem c f s).hbm = s.hbm := rfl
@[simp] theorem modMem_ime (c : Nat) (f : MemObj → MemObj) (s : State) : (modMem c f s).ime = s.ime := rfl
@[simp] theorem modMem_lnk (c : Nat) (f : MemObj → MemObj) (s : State) : (modMem c f s).lnk = s.lnk := rfl
@[simp] theorem modMem_wmk (c : Nat) (f : MemObj → MemObj) (s : State) : (modMem c f s).wmk = s.wmk := rfl
@[simp] theorem modMem_col (c : Nat) (f : MemObj → MemObj) (s : State) : (modMem c f s).col = s.col := rfl
@[simp] theorem modMem_runners (c : Nat) (f : MemObj → MemObj) (s : State) : (modMem c f s).runners = s.runners := rfl
@[simp] theorem modMem_admits (c : Nat) (f : MemObj → MemObj) (s : State) : (modMem c f s).admits = s.admits := rfl
@[simp] theorem modMem_ing (c : Nat) (f : MemObj → MemObj) (s : State) : (modMem c f s).ing = s.ing := rfl
@[simp] theorem modMem_ckp (c : Nat) (f : MemObj → MemObj) (s : State) : (modMem c f s).ckp = s.ckp := rfl
@[simp] theorem modMem_sec (c : Nat) (f : MemObj → MemObj) (s : State) : (modMem c f s).sec = s.sec := rfl
@[simp] theorem modMem_lcs (c : Nat) (f : MemObj → MemObj) (s : State) : (modMem c f s).lcs = s.lcs := rfl
@[simp] theorem modMem_mxe (c : Nat) (f : MemObj → MemObj) (s : State) : (modMem c f s).mxe = s.mxe := rfl
@[simp] theorem modMem_vcu (c : Nat) (f : MemObj → MemObj) (s : State) : (modMem c f s).vcu = s.vcu := rfl
@[simp] theorem modMem_svc (c : Nat) (f : MemObj → MemObj) (s : State) : (modMem c f s).svc = s.svc := rfl

/-! ## `modEv` -/

@[simp] theorem modEv_pending (e : Nat) (f : Event → Event) (s : State) : (modEv e f s).pending = s.pending := rfl
@[simp] theorem modEv_out (e : Nat) (f : Event → Event) (s : State) : (modEv e f s).out = s.out := rfl
@[simp] theorem modEv_draws (e : Nat) (f : Event → Event) (s : State) : (modEv e f s).draws = s.draws := rfl
@[simp] theorem modEv_now (e : Nat) (f : Event → Event) (s : State) : (modEv e f s).now = s.now := rfl
@[simp] theorem modEv_hold64 (e : Nat) (f : Event → Event) (s : State) : (modEv e f s).hold64 = s.hold64 := rfl
@[simp] theorem modEv_latch64 (e : Nat) (f : Event → Event) (s : State) : (modEv e f s).latch64 = s.latch64 := rfl
@[simp] theorem modEv_mod (e : Nat) (f : Event → Event) (s : State) : (modEv e f s).mod = s.mod := rfl
@[simp] theorem modEv_clk (e : Nat) (f : Event → Event) (s : State) : (modEv e f s).clk = s.clk := rfl
@[simp] theorem modEv_flt (e : Nat) (f : Event → Event) (s : State) : (modEv e f s).flt = s.flt := rfl
@[simp] theorem modEv_mgt (e : Nat) (f : Event → Event) (s : State) : (modEv e f s).mgt = s.mgt := rfl
@[simp] theorem modEv_log (e : Nat) (f : Event → Event) (s : State) : (modEv e f s).log = s.log := rfl
@[simp] theorem modEv_owl (e : Nat) (f : Event → Event) (s : State) : (modEv e f s).owl = s.owl := rfl
@[simp] theorem modEv_pwr (e : Nat) (f : Event → Event) (s : State) : (modEv e f s).pwr = s.pwr := rfl
@[simp] theorem modEv_led (e : Nat) (f : Event → Event) (s : State) : (modEv e f s).led = s.led := rfl
@[simp] theorem modEv_nv (e : Nat) (f : Event → Event) (s : State) : (modEv e f s).nv = s.nv := rfl
@[simp] theorem modEv_hif (e : Nat) (f : Event → Event) (s : State) : (modEv e f s).hif = s.hif := rfl
@[simp] theorem modEv_cmd (e : Nat) (f : Event → Event) (s : State) : (modEv e f s).cmd = s.cmd := rfl
@[simp] theorem modEv_ctxs (e : Nat) (f : Event → Event) (s : State) : (modEv e f s).ctxs = s.ctxs := rfl
@[simp] theorem modEv_mems (e : Nat) (f : Event → Event) (s : State) : (modEv e f s).mems = s.mems := rfl
@[simp] theorem modEv_evs (e : Nat) (f : Event → Event) (s : State) : (modEv e f s).evs = tmod s.evs e f := rfl
@[simp] theorem modEv_mem (e : Nat) (f : Event → Event) (s : State) : (modEv e f s).mem = s.mem := rfl
@[simp] theorem modEv_poison (e : Nat) (f : Event → Event) (s : State) : (modEv e f s).poison = s.poison := rfl
@[simp] theorem modEv_tsk (e : Nat) (f : Event → Event) (s : State) : (modEv e f s).tsk = s.tsk := rfl
@[simp] theorem modEv_hbm (e : Nat) (f : Event → Event) (s : State) : (modEv e f s).hbm = s.hbm := rfl
@[simp] theorem modEv_ime (e : Nat) (f : Event → Event) (s : State) : (modEv e f s).ime = s.ime := rfl
@[simp] theorem modEv_lnk (e : Nat) (f : Event → Event) (s : State) : (modEv e f s).lnk = s.lnk := rfl
@[simp] theorem modEv_wmk (e : Nat) (f : Event → Event) (s : State) : (modEv e f s).wmk = s.wmk := rfl
@[simp] theorem modEv_col (e : Nat) (f : Event → Event) (s : State) : (modEv e f s).col = s.col := rfl
@[simp] theorem modEv_runners (e : Nat) (f : Event → Event) (s : State) : (modEv e f s).runners = s.runners := rfl
@[simp] theorem modEv_admits (e : Nat) (f : Event → Event) (s : State) : (modEv e f s).admits = s.admits := rfl
@[simp] theorem modEv_ing (e : Nat) (f : Event → Event) (s : State) : (modEv e f s).ing = s.ing := rfl
@[simp] theorem modEv_ckp (e : Nat) (f : Event → Event) (s : State) : (modEv e f s).ckp = s.ckp := rfl
@[simp] theorem modEv_sec (e : Nat) (f : Event → Event) (s : State) : (modEv e f s).sec = s.sec := rfl
@[simp] theorem modEv_lcs (e : Nat) (f : Event → Event) (s : State) : (modEv e f s).lcs = s.lcs := rfl
@[simp] theorem modEv_mxe (e : Nat) (f : Event → Event) (s : State) : (modEv e f s).mxe = s.mxe := rfl
@[simp] theorem modEv_vcu (e : Nat) (f : Event → Event) (s : State) : (modEv e f s).vcu = s.vcu := rfl
@[simp] theorem modEv_svc (e : Nat) (f : Event → Event) (s : State) : (modEv e f s).svc = s.svc := rfl

/-! ## `modRun` -/

@[simp] theorem modRun_pending (c : Nat) (f : Runner → Runner) (s : State) : (modRun c f s).pending = s.pending := rfl
@[simp] theorem modRun_out (c : Nat) (f : Runner → Runner) (s : State) : (modRun c f s).out = s.out := rfl
@[simp] theorem modRun_draws (c : Nat) (f : Runner → Runner) (s : State) : (modRun c f s).draws = s.draws := rfl
@[simp] theorem modRun_now (c : Nat) (f : Runner → Runner) (s : State) : (modRun c f s).now = s.now := rfl
@[simp] theorem modRun_hold64 (c : Nat) (f : Runner → Runner) (s : State) : (modRun c f s).hold64 = s.hold64 := rfl
@[simp] theorem modRun_latch64 (c : Nat) (f : Runner → Runner) (s : State) : (modRun c f s).latch64 = s.latch64 := rfl
@[simp] theorem modRun_mod (c : Nat) (f : Runner → Runner) (s : State) : (modRun c f s).mod = s.mod := rfl
@[simp] theorem modRun_clk (c : Nat) (f : Runner → Runner) (s : State) : (modRun c f s).clk = s.clk := rfl
@[simp] theorem modRun_flt (c : Nat) (f : Runner → Runner) (s : State) : (modRun c f s).flt = s.flt := rfl
@[simp] theorem modRun_mgt (c : Nat) (f : Runner → Runner) (s : State) : (modRun c f s).mgt = s.mgt := rfl
@[simp] theorem modRun_log (c : Nat) (f : Runner → Runner) (s : State) : (modRun c f s).log = s.log := rfl
@[simp] theorem modRun_owl (c : Nat) (f : Runner → Runner) (s : State) : (modRun c f s).owl = s.owl := rfl
@[simp] theorem modRun_pwr (c : Nat) (f : Runner → Runner) (s : State) : (modRun c f s).pwr = s.pwr := rfl
@[simp] theorem modRun_led (c : Nat) (f : Runner → Runner) (s : State) : (modRun c f s).led = s.led := rfl
@[simp] theorem modRun_nv (c : Nat) (f : Runner → Runner) (s : State) : (modRun c f s).nv = s.nv := rfl
@[simp] theorem modRun_hif (c : Nat) (f : Runner → Runner) (s : State) : (modRun c f s).hif = s.hif := rfl
@[simp] theorem modRun_cmd (c : Nat) (f : Runner → Runner) (s : State) : (modRun c f s).cmd = s.cmd := rfl
@[simp] theorem modRun_ctxs (c : Nat) (f : Runner → Runner) (s : State) : (modRun c f s).ctxs = s.ctxs := rfl
@[simp] theorem modRun_mems (c : Nat) (f : Runner → Runner) (s : State) : (modRun c f s).mems = s.mems := rfl
@[simp] theorem modRun_evs (c : Nat) (f : Runner → Runner) (s : State) : (modRun c f s).evs = s.evs := rfl
@[simp] theorem modRun_mem (c : Nat) (f : Runner → Runner) (s : State) : (modRun c f s).mem = s.mem := rfl
@[simp] theorem modRun_poison (c : Nat) (f : Runner → Runner) (s : State) : (modRun c f s).poison = s.poison := rfl
@[simp] theorem modRun_tsk (c : Nat) (f : Runner → Runner) (s : State) : (modRun c f s).tsk = s.tsk := rfl
@[simp] theorem modRun_hbm (c : Nat) (f : Runner → Runner) (s : State) : (modRun c f s).hbm = s.hbm := rfl
@[simp] theorem modRun_ime (c : Nat) (f : Runner → Runner) (s : State) : (modRun c f s).ime = s.ime := rfl
@[simp] theorem modRun_lnk (c : Nat) (f : Runner → Runner) (s : State) : (modRun c f s).lnk = s.lnk := rfl
@[simp] theorem modRun_wmk (c : Nat) (f : Runner → Runner) (s : State) : (modRun c f s).wmk = s.wmk := rfl
@[simp] theorem modRun_col (c : Nat) (f : Runner → Runner) (s : State) : (modRun c f s).col = s.col := rfl
@[simp] theorem modRun_runners (c : Nat) (f : Runner → Runner) (s : State) : (modRun c f s).runners = tmod s.runners c f := rfl
@[simp] theorem modRun_admits (c : Nat) (f : Runner → Runner) (s : State) : (modRun c f s).admits = s.admits := rfl
@[simp] theorem modRun_ing (c : Nat) (f : Runner → Runner) (s : State) : (modRun c f s).ing = s.ing := rfl
@[simp] theorem modRun_ckp (c : Nat) (f : Runner → Runner) (s : State) : (modRun c f s).ckp = s.ckp := rfl
@[simp] theorem modRun_sec (c : Nat) (f : Runner → Runner) (s : State) : (modRun c f s).sec = s.sec := rfl
@[simp] theorem modRun_lcs (c : Nat) (f : Runner → Runner) (s : State) : (modRun c f s).lcs = s.lcs := rfl
@[simp] theorem modRun_mxe (c : Nat) (f : Runner → Runner) (s : State) : (modRun c f s).mxe = s.mxe := rfl
@[simp] theorem modRun_vcu (c : Nat) (f : Runner → Runner) (s : State) : (modRun c f s).vcu = s.vcu := rfl
@[simp] theorem modRun_svc (c : Nat) (f : Runner → Runner) (s : State) : (modRun c f s).svc = s.svc := rfl

end Sys2Proof.Laws
end

