-- ==== Sys2Proof/Laws/Frames.lean ====
section
/-!
SUPPORT. Sys2Proof/Laws/Frames.lean: the parts of the state each shared operation leaves as they are, field by field.
-/
namespace Sys2Proof.Laws
open Sys2Proof.Machine

/-! ## `alertPost` -/

theorem alertPost_only (code : Nat) (s : State) : Only 0x101 s (alertPost code s) :=
  (alertPost_keeps (keeps_refl _ s) (sub_refl _) code).only

@[simp] theorem alertPost_pending (code : Nat) (s : State) : (alertPost code s).pending = s.pending :=
  (alertPost_keeps (keeps_refl _ s) (sub_refl _) code).pending
@[simp] theorem alertPost_draws (code : Nat) (s : State) : (alertPost code s).draws = s.draws :=
  (alertPost_only code s).draws rfl
@[simp] theorem alertPost_now (code : Nat) (s : State) : (alertPost code s).now = s.now :=
  (alertPost_only code s).now rfl
@[simp] theorem alertPost_hold64 (code : Nat) (s : State) : (alertPost code s).hold64 = s.hold64 :=
  (alertPost_only code s).hold64 rfl
@[simp] theorem alertPost_latch64 (code : Nat) (s : State) : (alertPost code s).latch64 = s.latch64 :=
  (alertPost_only code s).latch64 rfl
@[simp] theorem alertPost_mod (code : Nat) (s : State) : (alertPost code s).mod = s.mod :=
  (alertPost_only code s).mod rfl
@[simp] theorem alertPost_clk (code : Nat) (s : State) : (alertPost code s).clk = s.clk :=
  (alertPost_only code s).clk rfl
@[simp] theorem alertPost_flt (code : Nat) (s : State) : (alertPost code s).flt = s.flt :=
  (alertPost_only code s).flt rfl
@[simp] theorem alertPost_log (code : Nat) (s : State) : (alertPost code s).log = s.log :=
  (alertPost_only code s).log rfl
@[simp] theorem alertPost_owl (code : Nat) (s : State) : (alertPost code s).owl = s.owl :=
  (alertPost_only code s).owl rfl
@[simp] theorem alertPost_pwr (code : Nat) (s : State) : (alertPost code s).pwr = s.pwr :=
  (alertPost_only code s).pwr rfl
@[simp] theorem alertPost_led (code : Nat) (s : State) : (alertPost code s).led = s.led :=
  (alertPost_only code s).led rfl
@[simp] theorem alertPost_nv (code : Nat) (s : State) : (alertPost code s).nv = s.nv :=
  (alertPost_only code s).nv rfl
@[simp] theorem alertPost_hif (code : Nat) (s : State) : (alertPost code s).hif = s.hif :=
  (alertPost_only code s).hif rfl
@[simp] theorem alertPost_cmd (code : Nat) (s : State) : (alertPost code s).cmd = s.cmd :=
  (alertPost_only code s).cmd rfl
@[simp] theorem alertPost_ctxs (code : Nat) (s : State) : (alertPost code s).ctxs = s.ctxs :=
  (alertPost_only code s).ctxs rfl
@[simp] theorem alertPost_mems (code : Nat) (s : State) : (alertPost code s).mems = s.mems :=
  (alertPost_only code s).mems rfl
@[simp] theorem alertPost_evs (code : Nat) (s : State) : (alertPost code s).evs = s.evs :=
  (alertPost_only code s).evs rfl
@[simp] theorem alertPost_mem (code : Nat) (s : State) : (alertPost code s).mem = s.mem :=
  (alertPost_only code s).mem rfl
@[simp] theorem alertPost_poison (code : Nat) (s : State) : (alertPost code s).poison = s.poison :=
  (alertPost_only code s).poison rfl
@[simp] theorem alertPost_tsk (code : Nat) (s : State) : (alertPost code s).tsk = s.tsk :=
  (alertPost_only code s).tsk rfl
@[simp] theorem alertPost_hbm (code : Nat) (s : State) : (alertPost code s).hbm = s.hbm :=
  (alertPost_only code s).hbm rfl
@[simp] theorem alertPost_ime (code : Nat) (s : State) : (alertPost code s).ime = s.ime :=
  (alertPost_only code s).ime rfl
@[simp] theorem alertPost_lnk (code : Nat) (s : State) : (alertPost code s).lnk = s.lnk :=
  (alertPost_only code s).lnk rfl
@[simp] theorem alertPost_wmk (code : Nat) (s : State) : (alertPost code s).wmk = s.wmk :=
  (alertPost_only code s).wmk rfl
@[simp] theorem alertPost_col (code : Nat) (s : State) : (alertPost code s).col = s.col :=
  (alertPost_only code s).col rfl
@[simp] theorem alertPost_runners (code : Nat) (s : State) : (alertPost code s).runners = s.runners :=
  (alertPost_only code s).runners rfl
@[simp] theorem alertPost_admits (code : Nat) (s : State) : (alertPost code s).admits = s.admits :=
  (alertPost_only code s).admits rfl
@[simp] theorem alertPost_ing (code : Nat) (s : State) : (alertPost code s).ing = s.ing :=
  (alertPost_only code s).ing rfl
@[simp] theorem alertPost_ckp (code : Nat) (s : State) : (alertPost code s).ckp = s.ckp :=
  (alertPost_only code s).ckp rfl
@[simp] theorem alertPost_sec (code : Nat) (s : State) : (alertPost code s).sec = s.sec :=
  (alertPost_only code s).sec rfl
@[simp] theorem alertPost_lcs (code : Nat) (s : State) : (alertPost code s).lcs = s.lcs :=
  (alertPost_only code s).lcs rfl
@[simp] theorem alertPost_mxe (code : Nat) (s : State) : (alertPost code s).mxe = s.mxe :=
  (alertPost_only code s).mxe rfl
@[simp] theorem alertPost_vcu (code : Nat) (s : State) : (alertPost code s).vcu = s.vcu :=
  (alertPost_only code s).vcu rfl
@[simp] theorem alertPost_svc (code : Nat) (s : State) : (alertPost code s).svc = s.svc :=
  (alertPost_only code s).svc rfl

/-! ## `alertCond` -/

theorem alertCond_only (code : Nat) (holds : Bool) (s : State) : Only 0x101 s (alertCond code holds s) :=
  (alertCond_keeps (keeps_refl _ s) (sub_refl _) code holds).only

@[simp] theorem alertCond_pending (code : Nat) (holds : Bool) (s : State) : (alertCond code holds s).pending =
    s.pending :=
  (alertCond_keeps (keeps_refl _ s) (sub_refl _) code holds).pending
@[simp] theorem alertCond_draws (code : Nat) (holds : Bool) (s : State) : (alertCond code holds s).draws = s.draws
    :=
  (alertCond_only code holds s).draws rfl
@[simp] theorem alertCond_now (code : Nat) (holds : Bool) (s : State) : (alertCond code holds s).now = s.now :=
  (alertCond_only code holds s).now rfl
@[simp] theorem alertCond_hold64 (code : Nat) (holds : Bool) (s : State) : (alertCond code holds s).hold64 =
    s.hold64 :=
  (alertCond_only code holds s).hold64 rfl
@[simp] theorem alertCond_latch64 (code : Nat) (holds : Bool) (s : State) : (alertCond code holds s).latch64 =
    s.latch64 :=
  (alertCond_only code holds s).latch64 rfl
@[simp] theorem alertCond_mod (code : Nat) (holds : Bool) (s : State) : (alertCond code holds s).mod = s.mod :=
  (alertCond_only code holds s).mod rfl
@[simp] theorem alertCond_clk (code : Nat) (holds : Bool) (s : State) : (alertCond code holds s).clk = s.clk :=
  (alertCond_only code holds s).clk rfl
@[simp] theorem alertCond_flt (code : Nat) (holds : Bool) (s : State) : (alertCond code holds s).flt = s.flt :=
  (alertCond_only code holds s).flt rfl
@[simp] theorem alertCond_log (code : Nat) (holds : Bool) (s : State) : (alertCond code holds s).log = s.log :=
  (alertCond_only code holds s).log rfl
@[simp] theorem alertCond_owl (code : Nat) (holds : Bool) (s : State) : (alertCond code holds s).owl = s.owl :=
  (alertCond_only code holds s).owl rfl
@[simp] theorem alertCond_pwr (code : Nat) (holds : Bool) (s : State) : (alertCond code holds s).pwr = s.pwr :=
  (alertCond_only code holds s).pwr rfl
@[simp] theorem alertCond_led (code : Nat) (holds : Bool) (s : State) : (alertCond code holds s).led = s.led :=
  (alertCond_only code holds s).led rfl
@[simp] theorem alertCond_nv (code : Nat) (holds : Bool) (s : State) : (alertCond code holds s).nv = s.nv :=
  (alertCond_only code holds s).nv rfl
@[simp] theorem alertCond_hif (code : Nat) (holds : Bool) (s : State) : (alertCond code holds s).hif = s.hif :=
  (alertCond_only code holds s).hif rfl
@[simp] theorem alertCond_cmd (code : Nat) (holds : Bool) (s : State) : (alertCond code holds s).cmd = s.cmd :=
  (alertCond_only code holds s).cmd rfl
@[simp] theorem alertCond_ctxs (code : Nat) (holds : Bool) (s : State) : (alertCond code holds s).ctxs = s.ctxs :=
  (alertCond_only code holds s).ctxs rfl
@[simp] theorem alertCond_mems (code : Nat) (holds : Bool) (s : State) : (alertCond code holds s).mems = s.mems :=
  (alertCond_only code holds s).mems rfl
@[simp] theorem alertCond_evs (code : Nat) (holds : Bool) (s : State) : (alertCond code holds s).evs = s.evs :=
  (alertCond_only code holds s).evs rfl
@[simp] theorem alertCond_mem (code : Nat) (holds : Bool) (s : State) : (alertCond code holds s).mem = s.mem :=
  (alertCond_only code holds s).mem rfl
@[simp] theorem alertCond_poison (code : Nat) (holds : Bool) (s : State) : (alertCond code holds s).poison =
    s.poison :=
  (alertCond_only code holds s).poison rfl
@[simp] theorem alertCond_tsk (code : Nat) (holds : Bool) (s : State) : (alertCond code holds s).tsk = s.tsk :=
  (alertCond_only code holds s).tsk rfl
@[simp] theorem alertCond_hbm (code : Nat) (holds : Bool) (s : State) : (alertCond code holds s).hbm = s.hbm :=
  (alertCond_only code holds s).hbm rfl
@[simp] theorem alertCond_ime (code : Nat) (holds : Bool) (s : State) : (alertCond code holds s).ime = s.ime :=
  (alertCond_only code holds s).ime rfl
@[simp] theorem alertCond_lnk (code : Nat) (holds : Bool) (s : State) : (alertCond code holds s).lnk = s.lnk :=
  (alertCond_only code holds s).lnk rfl
@[simp] theorem alertCond_wmk (code : Nat) (holds : Bool) (s : State) : (alertCond code holds s).wmk = s.wmk :=
  (alertCond_only code holds s).wmk rfl
@[simp] theorem alertCond_col (code : Nat) (holds : Bool) (s : State) : (alertCond code holds s).col = s.col :=
  (alertCond_only code holds s).col rfl
@[simp] theorem alertCond_runners (code : Nat) (holds : Bool) (s : State) : (alertCond code holds s).runners =
    s.runners :=
  (alertCond_only code holds s).runners rfl
@[simp] theorem alertCond_admits (code : Nat) (holds : Bool) (s : State) : (alertCond code holds s).admits =
    s.admits :=
  (alertCond_only code holds s).admits rfl
@[simp] theorem alertCond_ing (code : Nat) (holds : Bool) (s : State) : (alertCond code holds s).ing = s.ing :=
  (alertCond_only code holds s).ing rfl
@[simp] theorem alertCond_ckp (code : Nat) (holds : Bool) (s : State) : (alertCond code holds s).ckp = s.ckp :=
  (alertCond_only code holds s).ckp rfl
@[simp] theorem alertCond_sec (code : Nat) (holds : Bool) (s : State) : (alertCond code holds s).sec = s.sec :=
  (alertCond_only code holds s).sec rfl
@[simp] theorem alertCond_lcs (code : Nat) (holds : Bool) (s : State) : (alertCond code holds s).lcs = s.lcs :=
  (alertCond_only code holds s).lcs rfl
@[simp] theorem alertCond_mxe (code : Nat) (holds : Bool) (s : State) : (alertCond code holds s).mxe = s.mxe :=
  (alertCond_only code holds s).mxe rfl
@[simp] theorem alertCond_vcu (code : Nat) (holds : Bool) (s : State) : (alertCond code holds s).vcu = s.vcu :=
  (alertCond_only code holds s).vcu rfl
@[simp] theorem alertCond_svc (code : Nat) (holds : Bool) (s : State) : (alertCond code holds s).svc = s.svc :=
  (alertCond_only code holds s).svc rfl

/-! ## `alertConds` -/

theorem alertConds_only (s : State) : Only 0x101 s (alertConds s) :=
  (alertConds_keeps (keeps_refl _ s) (sub_refl _) ).only

@[simp] theorem alertConds_pending (s : State) : (alertConds s).pending = s.pending :=
  (alertConds_keeps (keeps_refl _ s) (sub_refl _) ).pending
@[simp] theorem alertConds_draws (s : State) : (alertConds s).draws = s.draws :=
  (alertConds_only s).draws rfl
@[simp] theorem alertConds_now (s : State) : (alertConds s).now = s.now :=
  (alertConds_only s).now rfl
@[simp] theorem alertConds_hold64 (s : State) : (alertConds s).hold64 = s.hold64 :=
  (alertConds_only s).hold64 rfl
@[simp] theorem alertConds_latch64 (s : State) : (alertConds s).latch64 = s.latch64 :=
  (alertConds_only s).latch64 rfl
@[simp] theorem alertConds_mod (s : State) : (alertConds s).mod = s.mod :=
  (alertConds_only s).mod rfl
@[simp] theorem alertConds_clk (s : State) : (alertConds s).clk = s.clk :=
  (alertConds_only s).clk rfl
@[simp] theorem alertConds_flt (s : State) : (alertConds s).flt = s.flt :=
  (alertConds_only s).flt rfl
@[simp] theorem alertConds_log (s : State) : (alertConds s).log = s.log :=
  (alertConds_only s).log rfl
@[simp] theorem alertConds_owl (s : State) : (alertConds s).owl = s.owl :=
  (alertConds_only s).owl rfl
@[simp] theorem alertConds_pwr (s : State) : (alertConds s).pwr = s.pwr :=
  (alertConds_only s).pwr rfl
@[simp] theorem alertConds_led (s : State) : (alertConds s).led = s.led :=
  (alertConds_only s).led rfl
@[simp] theorem alertConds_nv (s : State) : (alertConds s).nv = s.nv :=
  (alertConds_only s).nv rfl
@[simp] theorem alertConds_hif (s : State) : (alertConds s).hif = s.hif :=
  (alertConds_only s).hif rfl
@[simp] theorem alertConds_cmd (s : State) : (alertConds s).cmd = s.cmd :=
  (alertConds_only s).cmd rfl
@[simp] theorem alertConds_ctxs (s : State) : (alertConds s).ctxs = s.ctxs :=
  (alertConds_only s).ctxs rfl
@[simp] theorem alertConds_mems (s : State) : (alertConds s).mems = s.mems :=
  (alertConds_only s).mems rfl
@[simp] theorem alertConds_evs (s : State) : (alertConds s).evs = s.evs :=
  (alertConds_only s).evs rfl
@[simp] theorem alertConds_mem (s : State) : (alertConds s).mem = s.mem :=
  (alertConds_only s).mem rfl
@[simp] theorem alertConds_poison (s : State) : (alertConds s).poison = s.poison :=
  (alertConds_only s).poison rfl
@[simp] theorem alertConds_tsk (s : State) : (alertConds s).tsk = s.tsk :=
  (alertConds_only s).tsk rfl
@[simp] theorem alertConds_hbm (s : State) : (alertConds s).hbm = s.hbm :=
  (alertConds_only s).hbm rfl
@[simp] theorem alertConds_ime (s : State) : (alertConds s).ime = s.ime :=
  (alertConds_only s).ime rfl
@[simp] theorem alertConds_lnk (s : State) : (alertConds s).lnk = s.lnk :=
  (alertConds_only s).lnk rfl
@[simp] theorem alertConds_wmk (s : State) : (alertConds s).wmk = s.wmk :=
  (alertConds_only s).wmk rfl
@[simp] theorem alertConds_col (s : State) : (alertConds s).col = s.col :=
  (alertConds_only s).col rfl
@[simp] theorem alertConds_runners (s : State) : (alertConds s).runners = s.runners :=
  (alertConds_only s).runners rfl
@[simp] theorem alertConds_admits (s : State) : (alertConds s).admits = s.admits :=
  (alertConds_only s).admits rfl
@[simp] theorem alertConds_ing (s : State) : (alertConds s).ing = s.ing :=
  (alertConds_only s).ing rfl
@[simp] theorem alertConds_ckp (s : State) : (alertConds s).ckp = s.ckp :=
  (alertConds_only s).ckp rfl
@[simp] theorem alertConds_sec (s : State) : (alertConds s).sec = s.sec :=
  (alertConds_only s).sec rfl
@[simp] theorem alertConds_lcs (s : State) : (alertConds s).lcs = s.lcs :=
  (alertConds_only s).lcs rfl
@[simp] theorem alertConds_mxe (s : State) : (alertConds s).mxe = s.mxe :=
  (alertConds_only s).mxe rfl
@[simp] theorem alertConds_vcu (s : State) : (alertConds s).vcu = s.vcu :=
  (alertConds_only s).vcu rfl
@[simp] theorem alertConds_svc (s : State) : (alertConds s).svc = s.svc :=
  (alertConds_only s).svc rfl

/-! ## `post` -/

theorem post_only (fn : Nat) (code : Nat) (detail : Nat) (handle : Nat) (s : State) : Only 0x8000 s (post fn code
    detail handle s) :=
  (post_keeps (keeps_refl _ s) (sub_refl _) fn code detail handle).only

@[simp] theorem post_pending (fn : Nat) (code : Nat) (detail : Nat) (handle : Nat) (s : State) : (post fn code
    detail handle s).pending = s.pending :=
  (post_keeps (keeps_refl _ s) (sub_refl _) fn code detail handle).pending
@[simp] theorem post_out (fn : Nat) (code : Nat) (detail : Nat) (handle : Nat) (s : State) : (post fn code detail
    handle s).out = s.out :=
  (post_only fn code detail handle s).out rfl
@[simp] theorem post_draws (fn : Nat) (code : Nat) (detail : Nat) (handle : Nat) (s : State) : (post fn code detail
    handle s).draws = s.draws :=
  (post_only fn code detail handle s).draws rfl
@[simp] theorem post_now (fn : Nat) (code : Nat) (detail : Nat) (handle : Nat) (s : State) : (post fn code detail
    handle s).now = s.now :=
  (post_only fn code detail handle s).now rfl
@[simp] theorem post_hold64 (fn : Nat) (code : Nat) (detail : Nat) (handle : Nat) (s : State) : (post fn code detail
    handle s).hold64 = s.hold64 :=
  (post_only fn code detail handle s).hold64 rfl
@[simp] theorem post_latch64 (fn : Nat) (code : Nat) (detail : Nat) (handle : Nat) (s : State) : (post fn code
    detail handle s).latch64 = s.latch64 :=
  (post_only fn code detail handle s).latch64 rfl
@[simp] theorem post_mod (fn : Nat) (code : Nat) (detail : Nat) (handle : Nat) (s : State) : (post fn code detail
    handle s).mod = s.mod :=
  (post_only fn code detail handle s).mod rfl
@[simp] theorem post_clk (fn : Nat) (code : Nat) (detail : Nat) (handle : Nat) (s : State) : (post fn code detail
    handle s).clk = s.clk :=
  (post_only fn code detail handle s).clk rfl
@[simp] theorem post_flt (fn : Nat) (code : Nat) (detail : Nat) (handle : Nat) (s : State) : (post fn code detail
    handle s).flt = s.flt :=
  (post_only fn code detail handle s).flt rfl
@[simp] theorem post_mgt (fn : Nat) (code : Nat) (detail : Nat) (handle : Nat) (s : State) : (post fn code detail
    handle s).mgt = s.mgt :=
  (post_only fn code detail handle s).mgt rfl
@[simp] theorem post_log (fn : Nat) (code : Nat) (detail : Nat) (handle : Nat) (s : State) : (post fn code detail
    handle s).log = s.log :=
  (post_only fn code detail handle s).log rfl
@[simp] theorem post_owl (fn : Nat) (code : Nat) (detail : Nat) (handle : Nat) (s : State) : (post fn code detail
    handle s).owl = s.owl :=
  (post_only fn code detail handle s).owl rfl
@[simp] theorem post_pwr (fn : Nat) (code : Nat) (detail : Nat) (handle : Nat) (s : State) : (post fn code detail
    handle s).pwr = s.pwr :=
  (post_only fn code detail handle s).pwr rfl
@[simp] theorem post_led (fn : Nat) (code : Nat) (detail : Nat) (handle : Nat) (s : State) : (post fn code detail
    handle s).led = s.led :=
  (post_only fn code detail handle s).led rfl
@[simp] theorem post_nv (fn : Nat) (code : Nat) (detail : Nat) (handle : Nat) (s : State) : (post fn code detail
    handle s).nv = s.nv :=
  (post_only fn code detail handle s).nv rfl
@[simp] theorem post_hif (fn : Nat) (code : Nat) (detail : Nat) (handle : Nat) (s : State) : (post fn code detail
    handle s).hif = s.hif :=
  (post_only fn code detail handle s).hif rfl
@[simp] theorem post_ctxs (fn : Nat) (code : Nat) (detail : Nat) (handle : Nat) (s : State) : (post fn code detail
    handle s).ctxs = s.ctxs :=
  (post_only fn code detail handle s).ctxs rfl
@[simp] theorem post_mems (fn : Nat) (code : Nat) (detail : Nat) (handle : Nat) (s : State) : (post fn code detail
    handle s).mems = s.mems :=
  (post_only fn code detail handle s).mems rfl
@[simp] theorem post_evs (fn : Nat) (code : Nat) (detail : Nat) (handle : Nat) (s : State) : (post fn code detail
    handle s).evs = s.evs :=
  (post_only fn code detail handle s).evs rfl
@[simp] theorem post_mem (fn : Nat) (code : Nat) (detail : Nat) (handle : Nat) (s : State) : (post fn code detail
    handle s).mem = s.mem :=
  (post_only fn code detail handle s).mem rfl
@[simp] theorem post_poison (fn : Nat) (code : Nat) (detail : Nat) (handle : Nat) (s : State) : (post fn code detail
    handle s).poison = s.poison :=
  (post_only fn code detail handle s).poison rfl
@[simp] theorem post_tsk (fn : Nat) (code : Nat) (detail : Nat) (handle : Nat) (s : State) : (post fn code detail
    handle s).tsk = s.tsk :=
  (post_only fn code detail handle s).tsk rfl
@[simp] theorem post_hbm (fn : Nat) (code : Nat) (detail : Nat) (handle : Nat) (s : State) : (post fn code detail
    handle s).hbm = s.hbm :=
  (post_only fn code detail handle s).hbm rfl
@[simp] theorem post_ime (fn : Nat) (code : Nat) (detail : Nat) (handle : Nat) (s : State) : (post fn code detail
    handle s).ime = s.ime :=
  (post_only fn code detail handle s).ime rfl
@[simp] theorem post_lnk (fn : Nat) (code : Nat) (detail : Nat) (handle : Nat) (s : State) : (post fn code detail
    handle s).lnk = s.lnk :=
  (post_only fn code detail handle s).lnk rfl
@[simp] theorem post_wmk (fn : Nat) (code : Nat) (detail : Nat) (handle : Nat) (s : State) : (post fn code detail
    handle s).wmk = s.wmk :=
  (post_only fn code detail handle s).wmk rfl
@[simp] theorem post_col (fn : Nat) (code : Nat) (detail : Nat) (handle : Nat) (s : State) : (post fn code detail
    handle s).col = s.col :=
  (post_only fn code detail handle s).col rfl
@[simp] theorem post_runners (fn : Nat) (code : Nat) (detail : Nat) (handle : Nat) (s : State) : (post fn code
    detail handle s).runners = s.runners :=
  (post_only fn code detail handle s).runners rfl
@[simp] theorem post_admits (fn : Nat) (code : Nat) (detail : Nat) (handle : Nat) (s : State) : (post fn code detail
    handle s).admits = s.admits :=
  (post_only fn code detail handle s).admits rfl
@[simp] theorem post_ing (fn : Nat) (code : Nat) (detail : Nat) (handle : Nat) (s : State) : (post fn code detail
    handle s).ing = s.ing :=
  (post_only fn code detail handle s).ing rfl
@[simp] theorem post_ckp (fn : Nat) (code : Nat) (detail : Nat) (handle : Nat) (s : State) : (post fn code detail
    handle s).ckp = s.ckp :=
  (post_only fn code detail handle s).ckp rfl
@[simp] theorem post_sec (fn : Nat) (code : Nat) (detail : Nat) (handle : Nat) (s : State) : (post fn code detail
    handle s).sec = s.sec :=
  (post_only fn code detail handle s).sec rfl
@[simp] theorem post_lcs (fn : Nat) (code : Nat) (detail : Nat) (handle : Nat) (s : State) : (post fn code detail
    handle s).lcs = s.lcs :=
  (post_only fn code detail handle s).lcs rfl
@[simp] theorem post_mxe (fn : Nat) (code : Nat) (detail : Nat) (handle : Nat) (s : State) : (post fn code detail
    handle s).mxe = s.mxe :=
  (post_only fn code detail handle s).mxe rfl
@[simp] theorem post_vcu (fn : Nat) (code : Nat) (detail : Nat) (handle : Nat) (s : State) : (post fn code detail
    handle s).vcu = s.vcu :=
  (post_only fn code detail handle s).vcu rfl
@[simp] theorem post_svc (fn : Nat) (code : Nat) (detail : Nat) (handle : Nat) (s : State) : (post fn code detail
    handle s).svc = s.svc :=
  (post_only fn code detail handle s).svc rfl

/-! ## `postAll` -/

theorem postAll_only (fns : List Nat) (code : Nat) (detail : Nat) (handle : Nat) (s : State) : Only 0x8000 s
    (postAll fns code detail handle s) :=
  (postAll_keeps (keeps_refl _ s) (sub_refl _) fns code detail handle).only

@[simp] theorem postAll_pending (fns : List Nat) (code : Nat) (detail : Nat) (handle : Nat) (s : State) : (postAll
    fns code detail handle s).pending = s.pending :=
  (postAll_keeps (keeps_refl _ s) (sub_refl _) fns code detail handle).pending
@[simp] theorem postAll_out (fns : List Nat) (code : Nat) (detail : Nat) (handle : Nat) (s : State) : (postAll fns
    code detail handle s).out = s.out :=
  (postAll_only fns code detail handle s).out rfl
@[simp] theorem postAll_draws (fns : List Nat) (code : Nat) (detail : Nat) (handle : Nat) (s : State) : (postAll fns
    code detail handle s).draws = s.draws :=
  (postAll_only fns code detail handle s).draws rfl
@[simp] theorem postAll_now (fns : List Nat) (code : Nat) (detail : Nat) (handle : Nat) (s : State) : (postAll fns
    code detail handle s).now = s.now :=
  (postAll_only fns code detail handle s).now rfl
@[simp] theorem postAll_hold64 (fns : List Nat) (code : Nat) (detail : Nat) (handle : Nat) (s : State) : (postAll
    fns code detail handle s).hold64 = s.hold64 :=
  (postAll_only fns code detail handle s).hold64 rfl
@[simp] theorem postAll_latch64 (fns : List Nat) (code : Nat) (detail : Nat) (handle : Nat) (s : State) : (postAll
    fns code detail handle s).latch64 = s.latch64 :=
  (postAll_only fns code detail handle s).latch64 rfl
@[simp] theorem postAll_mod (fns : List Nat) (code : Nat) (detail : Nat) (handle : Nat) (s : State) : (postAll fns
    code detail handle s).mod = s.mod :=
  (postAll_only fns code detail handle s).mod rfl
@[simp] theorem postAll_clk (fns : List Nat) (code : Nat) (detail : Nat) (handle : Nat) (s : State) : (postAll fns
    code detail handle s).clk = s.clk :=
  (postAll_only fns code detail handle s).clk rfl
@[simp] theorem postAll_flt (fns : List Nat) (code : Nat) (detail : Nat) (handle : Nat) (s : State) : (postAll fns
    code detail handle s).flt = s.flt :=
  (postAll_only fns code detail handle s).flt rfl
@[simp] theorem postAll_mgt (fns : List Nat) (code : Nat) (detail : Nat) (handle : Nat) (s : State) : (postAll fns
    code detail handle s).mgt = s.mgt :=
  (postAll_only fns code detail handle s).mgt rfl
@[simp] theorem postAll_log (fns : List Nat) (code : Nat) (detail : Nat) (handle : Nat) (s : State) : (postAll fns
    code detail handle s).log = s.log :=
  (postAll_only fns code detail handle s).log rfl
@[simp] theorem postAll_owl (fns : List Nat) (code : Nat) (detail : Nat) (handle : Nat) (s : State) : (postAll fns
    code detail handle s).owl = s.owl :=
  (postAll_only fns code detail handle s).owl rfl
@[simp] theorem postAll_pwr (fns : List Nat) (code : Nat) (detail : Nat) (handle : Nat) (s : State) : (postAll fns
    code detail handle s).pwr = s.pwr :=
  (postAll_only fns code detail handle s).pwr rfl
@[simp] theorem postAll_led (fns : List Nat) (code : Nat) (detail : Nat) (handle : Nat) (s : State) : (postAll fns
    code detail handle s).led = s.led :=
  (postAll_only fns code detail handle s).led rfl
@[simp] theorem postAll_nv (fns : List Nat) (code : Nat) (detail : Nat) (handle : Nat) (s : State) : (postAll fns
    code detail handle s).nv = s.nv :=
  (postAll_only fns code detail handle s).nv rfl
@[simp] theorem postAll_hif (fns : List Nat) (code : Nat) (detail : Nat) (handle : Nat) (s : State) : (postAll fns
    code detail handle s).hif = s.hif :=
  (postAll_only fns code detail handle s).hif rfl
@[simp] theorem postAll_ctxs (fns : List Nat) (code : Nat) (detail : Nat) (handle : Nat) (s : State) : (postAll fns
    code detail handle s).ctxs = s.ctxs :=
  (postAll_only fns code detail handle s).ctxs rfl
@[simp] theorem postAll_mems (fns : List Nat) (code : Nat) (detail : Nat) (handle : Nat) (s : State) : (postAll fns
    code detail handle s).mems = s.mems :=
  (postAll_only fns code detail handle s).mems rfl
@[simp] theorem postAll_evs (fns : List Nat) (code : Nat) (detail : Nat) (handle : Nat) (s : State) : (postAll fns
    code detail handle s).evs = s.evs :=
  (postAll_only fns code detail handle s).evs rfl
@[simp] theorem postAll_mem (fns : List Nat) (code : Nat) (detail : Nat) (handle : Nat) (s : State) : (postAll fns
    code detail handle s).mem = s.mem :=
  (postAll_only fns code detail handle s).mem rfl
@[simp] theorem postAll_poison (fns : List Nat) (code : Nat) (detail : Nat) (handle : Nat) (s : State) : (postAll
    fns code detail handle s).poison = s.poison :=
  (postAll_only fns code detail handle s).poison rfl
@[simp] theorem postAll_tsk (fns : List Nat) (code : Nat) (detail : Nat) (handle : Nat) (s : State) : (postAll fns
    code detail handle s).tsk = s.tsk :=
  (postAll_only fns code detail handle s).tsk rfl
@[simp] theorem postAll_hbm (fns : List Nat) (code : Nat) (detail : Nat) (handle : Nat) (s : State) : (postAll fns
    code detail handle s).hbm = s.hbm :=
  (postAll_only fns code detail handle s).hbm rfl
@[simp] theorem postAll_ime (fns : List Nat) (code : Nat) (detail : Nat) (handle : Nat) (s : State) : (postAll fns
    code detail handle s).ime = s.ime :=
  (postAll_only fns code detail handle s).ime rfl
@[simp] theorem postAll_lnk (fns : List Nat) (code : Nat) (detail : Nat) (handle : Nat) (s : State) : (postAll fns
    code detail handle s).lnk = s.lnk :=
  (postAll_only fns code detail handle s).lnk rfl
@[simp] theorem postAll_wmk (fns : List Nat) (code : Nat) (detail : Nat) (handle : Nat) (s : State) : (postAll fns
    code detail handle s).wmk = s.wmk :=
  (postAll_only fns code detail handle s).wmk rfl
@[simp] theorem postAll_col (fns : List Nat) (code : Nat) (detail : Nat) (handle : Nat) (s : State) : (postAll fns
    code detail handle s).col = s.col :=
  (postAll_only fns code detail handle s).col rfl
@[simp] theorem postAll_runners (fns : List Nat) (code : Nat) (detail : Nat) (handle : Nat) (s : State) : (postAll
    fns code detail handle s).runners = s.runners :=
  (postAll_only fns code detail handle s).runners rfl
@[simp] theorem postAll_admits (fns : List Nat) (code : Nat) (detail : Nat) (handle : Nat) (s : State) : (postAll
    fns code detail handle s).admits = s.admits :=
  (postAll_only fns code detail handle s).admits rfl
@[simp] theorem postAll_ing (fns : List Nat) (code : Nat) (detail : Nat) (handle : Nat) (s : State) : (postAll fns
    code detail handle s).ing = s.ing :=
  (postAll_only fns code detail handle s).ing rfl
@[simp] theorem postAll_ckp (fns : List Nat) (code : Nat) (detail : Nat) (handle : Nat) (s : State) : (postAll fns
    code detail handle s).ckp = s.ckp :=
  (postAll_only fns code detail handle s).ckp rfl
@[simp] theorem postAll_sec (fns : List Nat) (code : Nat) (detail : Nat) (handle : Nat) (s : State) : (postAll fns
    code detail handle s).sec = s.sec :=
  (postAll_only fns code detail handle s).sec rfl
@[simp] theorem postAll_lcs (fns : List Nat) (code : Nat) (detail : Nat) (handle : Nat) (s : State) : (postAll fns
    code detail handle s).lcs = s.lcs :=
  (postAll_only fns code detail handle s).lcs rfl
@[simp] theorem postAll_mxe (fns : List Nat) (code : Nat) (detail : Nat) (handle : Nat) (s : State) : (postAll fns
    code detail handle s).mxe = s.mxe :=
  (postAll_only fns code detail handle s).mxe rfl
@[simp] theorem postAll_vcu (fns : List Nat) (code : Nat) (detail : Nat) (handle : Nat) (s : State) : (postAll fns
    code detail handle s).vcu = s.vcu :=
  (postAll_only fns code detail handle s).vcu rfl
@[simp] theorem postAll_svc (fns : List Nat) (code : Nat) (detail : Nat) (handle : Nat) (s : State) : (postAll fns
    code detail handle s).svc = s.svc :=
  (postAll_only fns code detail handle s).svc rfl

/-! ## `logWrite` -/

theorem logWrite_only (typ : Nat) (critical : Bool) (payload : List Byte) (s : State) : Only 0x2200 s (logWrite typ
    critical payload s) :=
  (logWrite_keeps (keeps_refl _ s) (sub_refl _) typ critical payload).only

@[simp] theorem logWrite_pending (typ : Nat) (critical : Bool) (payload : List Byte) (s : State) : (logWrite typ
    critical payload s).pending = s.pending :=
  (logWrite_keeps (keeps_refl _ s) (sub_refl _) typ critical payload).pending
@[simp] theorem logWrite_out (typ : Nat) (critical : Bool) (payload : List Byte) (s : State) : (logWrite typ
    critical payload s).out = s.out :=
  (logWrite_only typ critical payload s).out rfl
@[simp] theorem logWrite_draws (typ : Nat) (critical : Bool) (payload : List Byte) (s : State) : (logWrite typ
    critical payload s).draws = s.draws :=
  (logWrite_only typ critical payload s).draws rfl
@[simp] theorem logWrite_now (typ : Nat) (critical : Bool) (payload : List Byte) (s : State) : (logWrite typ
    critical payload s).now = s.now :=
  (logWrite_only typ critical payload s).now rfl
@[simp] theorem logWrite_hold64 (typ : Nat) (critical : Bool) (payload : List Byte) (s : State) : (logWrite typ
    critical payload s).hold64 = s.hold64 :=
  (logWrite_only typ critical payload s).hold64 rfl
@[simp] theorem logWrite_latch64 (typ : Nat) (critical : Bool) (payload : List Byte) (s : State) : (logWrite typ
    critical payload s).latch64 = s.latch64 :=
  (logWrite_only typ critical payload s).latch64 rfl
@[simp] theorem logWrite_mod (typ : Nat) (critical : Bool) (payload : List Byte) (s : State) : (logWrite typ
    critical payload s).mod = s.mod :=
  (logWrite_only typ critical payload s).mod rfl
@[simp] theorem logWrite_clk (typ : Nat) (critical : Bool) (payload : List Byte) (s : State) : (logWrite typ
    critical payload s).clk = s.clk :=
  (logWrite_only typ critical payload s).clk rfl
@[simp] theorem logWrite_flt (typ : Nat) (critical : Bool) (payload : List Byte) (s : State) : (logWrite typ
    critical payload s).flt = s.flt :=
  (logWrite_only typ critical payload s).flt rfl
@[simp] theorem logWrite_mgt (typ : Nat) (critical : Bool) (payload : List Byte) (s : State) : (logWrite typ
    critical payload s).mgt = s.mgt :=
  (logWrite_only typ critical payload s).mgt rfl
@[simp] theorem logWrite_owl (typ : Nat) (critical : Bool) (payload : List Byte) (s : State) : (logWrite typ
    critical payload s).owl = s.owl :=
  (logWrite_only typ critical payload s).owl rfl
@[simp] theorem logWrite_pwr (typ : Nat) (critical : Bool) (payload : List Byte) (s : State) : (logWrite typ
    critical payload s).pwr = s.pwr :=
  (logWrite_only typ critical payload s).pwr rfl
@[simp] theorem logWrite_led (typ : Nat) (critical : Bool) (payload : List Byte) (s : State) : (logWrite typ
    critical payload s).led = s.led :=
  (logWrite_only typ critical payload s).led rfl
@[simp] theorem logWrite_hif (typ : Nat) (critical : Bool) (payload : List Byte) (s : State) : (logWrite typ
    critical payload s).hif = s.hif :=
  (logWrite_only typ critical payload s).hif rfl
@[simp] theorem logWrite_cmd (typ : Nat) (critical : Bool) (payload : List Byte) (s : State) : (logWrite typ
    critical payload s).cmd = s.cmd :=
  (logWrite_only typ critical payload s).cmd rfl
@[simp] theorem logWrite_ctxs (typ : Nat) (critical : Bool) (payload : List Byte) (s : State) : (logWrite typ
    critical payload s).ctxs = s.ctxs :=
  (logWrite_only typ critical payload s).ctxs rfl
@[simp] theorem logWrite_mems (typ : Nat) (critical : Bool) (payload : List Byte) (s : State) : (logWrite typ
    critical payload s).mems = s.mems :=
  (logWrite_only typ critical payload s).mems rfl
@[simp] theorem logWrite_evs (typ : Nat) (critical : Bool) (payload : List Byte) (s : State) : (logWrite typ
    critical payload s).evs = s.evs :=
  (logWrite_only typ critical payload s).evs rfl
@[simp] theorem logWrite_mem (typ : Nat) (critical : Bool) (payload : List Byte) (s : State) : (logWrite typ
    critical payload s).mem = s.mem :=
  (logWrite_only typ critical payload s).mem rfl
@[simp] theorem logWrite_poison (typ : Nat) (critical : Bool) (payload : List Byte) (s : State) : (logWrite typ
    critical payload s).poison = s.poison :=
  (logWrite_only typ critical payload s).poison rfl
@[simp] theorem logWrite_tsk (typ : Nat) (critical : Bool) (payload : List Byte) (s : State) : (logWrite typ
    critical payload s).tsk = s.tsk :=
  (logWrite_only typ critical payload s).tsk rfl
@[simp] theorem logWrite_hbm (typ : Nat) (critical : Bool) (payload : List Byte) (s : State) : (logWrite typ
    critical payload s).hbm = s.hbm :=
  (logWrite_only typ critical payload s).hbm rfl
@[simp] theorem logWrite_ime (typ : Nat) (critical : Bool) (payload : List Byte) (s : State) : (logWrite typ
    critical payload s).ime = s.ime :=
  (logWrite_only typ critical payload s).ime rfl
@[simp] theorem logWrite_lnk (typ : Nat) (critical : Bool) (payload : List Byte) (s : State) : (logWrite typ
    critical payload s).lnk = s.lnk :=
  (logWrite_only typ critical payload s).lnk rfl
@[simp] theorem logWrite_wmk (typ : Nat) (critical : Bool) (payload : List Byte) (s : State) : (logWrite typ
    critical payload s).wmk = s.wmk :=
  (logWrite_only typ critical payload s).wmk rfl
@[simp] theorem logWrite_col (typ : Nat) (critical : Bool) (payload : List Byte) (s : State) : (logWrite typ
    critical payload s).col = s.col :=
  (logWrite_only typ critical payload s).col rfl
@[simp] theorem logWrite_runners (typ : Nat) (critical : Bool) (payload : List Byte) (s : State) : (logWrite typ
    critical payload s).runners = s.runners :=
  (logWrite_only typ critical payload s).runners rfl
@[simp] theorem logWrite_admits (typ : Nat) (critical : Bool) (payload : List Byte) (s : State) : (logWrite typ
    critical payload s).admits = s.admits :=
  (logWrite_only typ critical payload s).admits rfl
@[simp] theorem logWrite_ing (typ : Nat) (critical : Bool) (payload : List Byte) (s : State) : (logWrite typ
    critical payload s).ing = s.ing :=
  (logWrite_only typ critical payload s).ing rfl
@[simp] theorem logWrite_ckp (typ : Nat) (critical : Bool) (payload : List Byte) (s : State) : (logWrite typ
    critical payload s).ckp = s.ckp :=
  (logWrite_only typ critical payload s).ckp rfl
@[simp] theorem logWrite_sec (typ : Nat) (critical : Bool) (payload : List Byte) (s : State) : (logWrite typ
    critical payload s).sec = s.sec :=
  (logWrite_only typ critical payload s).sec rfl
@[simp] theorem logWrite_lcs (typ : Nat) (critical : Bool) (payload : List Byte) (s : State) : (logWrite typ
    critical payload s).lcs = s.lcs :=
  (logWrite_only typ critical payload s).lcs rfl
@[simp] theorem logWrite_mxe (typ : Nat) (critical : Bool) (payload : List Byte) (s : State) : (logWrite typ
    critical payload s).mxe = s.mxe :=
  (logWrite_only typ critical payload s).mxe rfl
@[simp] theorem logWrite_vcu (typ : Nat) (critical : Bool) (payload : List Byte) (s : State) : (logWrite typ
    critical payload s).vcu = s.vcu :=
  (logWrite_only typ critical payload s).vcu rfl
@[simp] theorem logWrite_svc (typ : Nat) (critical : Bool) (payload : List Byte) (s : State) : (logWrite typ
    critical payload s).svc = s.svc :=
  (logWrite_only typ critical payload s).svc rfl

/-! ## `logNotice` -/

theorem logNotice_only (code : Nat) (arg : Nat) (s : State) : Only 0x2200 s (logNotice code arg s) :=
  (logNotice_keeps (keeps_refl _ s) (sub_refl _) code arg).only

@[simp] theorem logNotice_pending (code : Nat) (arg : Nat) (s : State) : (logNotice code arg s).pending = s.pending
    :=
  (logNotice_keeps (keeps_refl _ s) (sub_refl _) code arg).pending
@[simp] theorem logNotice_out (code : Nat) (arg : Nat) (s : State) : (logNotice code arg s).out = s.out :=
  (logNotice_only code arg s).out rfl
@[simp] theorem logNotice_draws (code : Nat) (arg : Nat) (s : State) : (logNotice code arg s).draws = s.draws :=
  (logNotice_only code arg s).draws rfl
@[simp] theorem logNotice_now (code : Nat) (arg : Nat) (s : State) : (logNotice code arg s).now = s.now :=
  (logNotice_only code arg s).now rfl
@[simp] theorem logNotice_hold64 (code : Nat) (arg : Nat) (s : State) : (logNotice code arg s).hold64 = s.hold64 :=
  (logNotice_only code arg s).hold64 rfl
@[simp] theorem logNotice_latch64 (code : Nat) (arg : Nat) (s : State) : (logNotice code arg s).latch64 = s.latch64
    :=
  (logNotice_only code arg s).latch64 rfl
@[simp] theorem logNotice_mod (code : Nat) (arg : Nat) (s : State) : (logNotice code arg s).mod = s.mod :=
  (logNotice_only code arg s).mod rfl
@[simp] theorem logNotice_clk (code : Nat) (arg : Nat) (s : State) : (logNotice code arg s).clk = s.clk :=
  (logNotice_only code arg s).clk rfl
@[simp] theorem logNotice_flt (code : Nat) (arg : Nat) (s : State) : (logNotice code arg s).flt = s.flt :=
  (logNotice_only code arg s).flt rfl
@[simp] theorem logNotice_mgt (code : Nat) (arg : Nat) (s : State) : (logNotice code arg s).mgt = s.mgt :=
  (logNotice_only code arg s).mgt rfl
@[simp] theorem logNotice_owl (code : Nat) (arg : Nat) (s : State) : (logNotice code arg s).owl = s.owl :=
  (logNotice_only code arg s).owl rfl
@[simp] theorem logNotice_pwr (code : Nat) (arg : Nat) (s : State) : (logNotice code arg s).pwr = s.pwr :=
  (logNotice_only code arg s).pwr rfl
@[simp] theorem logNotice_led (code : Nat) (arg : Nat) (s : State) : (logNotice code arg s).led = s.led :=
  (logNotice_only code arg s).led rfl
@[simp] theorem logNotice_hif (code : Nat) (arg : Nat) (s : State) : (logNotice code arg s).hif = s.hif :=
  (logNotice_only code arg s).hif rfl
@[simp] theorem logNotice_cmd (code : Nat) (arg : Nat) (s : State) : (logNotice code arg s).cmd = s.cmd :=
  (logNotice_only code arg s).cmd rfl
@[simp] theorem logNotice_ctxs (code : Nat) (arg : Nat) (s : State) : (logNotice code arg s).ctxs = s.ctxs :=
  (logNotice_only code arg s).ctxs rfl
@[simp] theorem logNotice_mems (code : Nat) (arg : Nat) (s : State) : (logNotice code arg s).mems = s.mems :=
  (logNotice_only code arg s).mems rfl
@[simp] theorem logNotice_evs (code : Nat) (arg : Nat) (s : State) : (logNotice code arg s).evs = s.evs :=
  (logNotice_only code arg s).evs rfl
@[simp] theorem logNotice_mem (code : Nat) (arg : Nat) (s : State) : (logNotice code arg s).mem = s.mem :=
  (logNotice_only code arg s).mem rfl
@[simp] theorem logNotice_poison (code : Nat) (arg : Nat) (s : State) : (logNotice code arg s).poison = s.poison :=
  (logNotice_only code arg s).poison rfl
@[simp] theorem logNotice_tsk (code : Nat) (arg : Nat) (s : State) : (logNotice code arg s).tsk = s.tsk :=
  (logNotice_only code arg s).tsk rfl
@[simp] theorem logNotice_hbm (code : Nat) (arg : Nat) (s : State) : (logNotice code arg s).hbm = s.hbm :=
  (logNotice_only code arg s).hbm rfl
@[simp] theorem logNotice_ime (code : Nat) (arg : Nat) (s : State) : (logNotice code arg s).ime = s.ime :=
  (logNotice_only code arg s).ime rfl
@[simp] theorem logNotice_lnk (code : Nat) (arg : Nat) (s : State) : (logNotice code arg s).lnk = s.lnk :=
  (logNotice_only code arg s).lnk rfl
@[simp] theorem logNotice_wmk (code : Nat) (arg : Nat) (s : State) : (logNotice code arg s).wmk = s.wmk :=
  (logNotice_only code arg s).wmk rfl
@[simp] theorem logNotice_col (code : Nat) (arg : Nat) (s : State) : (logNotice code arg s).col = s.col :=
  (logNotice_only code arg s).col rfl
@[simp] theorem logNotice_runners (code : Nat) (arg : Nat) (s : State) : (logNotice code arg s).runners = s.runners
    :=
  (logNotice_only code arg s).runners rfl
@[simp] theorem logNotice_admits (code : Nat) (arg : Nat) (s : State) : (logNotice code arg s).admits = s.admits :=
  (logNotice_only code arg s).admits rfl
@[simp] theorem logNotice_ing (code : Nat) (arg : Nat) (s : State) : (logNotice code arg s).ing = s.ing :=
  (logNotice_only code arg s).ing rfl
@[simp] theorem logNotice_ckp (code : Nat) (arg : Nat) (s : State) : (logNotice code arg s).ckp = s.ckp :=
  (logNotice_only code arg s).ckp rfl
@[simp] theorem logNotice_sec (code : Nat) (arg : Nat) (s : State) : (logNotice code arg s).sec = s.sec :=
  (logNotice_only code arg s).sec rfl
@[simp] theorem logNotice_lcs (code : Nat) (arg : Nat) (s : State) : (logNotice code arg s).lcs = s.lcs :=
  (logNotice_only code arg s).lcs rfl
@[simp] theorem logNotice_mxe (code : Nat) (arg : Nat) (s : State) : (logNotice code arg s).mxe = s.mxe :=
  (logNotice_only code arg s).mxe rfl
@[simp] theorem logNotice_vcu (code : Nat) (arg : Nat) (s : State) : (logNotice code arg s).vcu = s.vcu :=
  (logNotice_only code arg s).vcu rfl
@[simp] theorem logNotice_svc (code : Nat) (arg : Nat) (s : State) : (logNotice code arg s).svc = s.svc :=
  (logNotice_only code arg s).svc rfl

/-! ## `logAppend` -/

theorem logAppend_only (typ : Nat) (critical : Bool) (payload : List Byte) (s : State) : Only 0x2200 s (logAppend
    typ critical payload s) :=
  (logAppend_keeps (keeps_refl _ s) (sub_refl _) typ critical payload).only

@[simp] theorem logAppend_pending (typ : Nat) (critical : Bool) (payload : List Byte) (s : State) : (logAppend typ
    critical payload s).pending = s.pending :=
  (logAppend_keeps (keeps_refl _ s) (sub_refl _) typ critical payload).pending
@[simp] theorem logAppend_out (typ : Nat) (critical : Bool) (payload : List Byte) (s : State) : (logAppend typ
    critical payload s).out = s.out :=
  (logAppend_only typ critical payload s).out rfl
@[simp] theorem logAppend_draws (typ : Nat) (critical : Bool) (payload : List Byte) (s : State) : (logAppend typ
    critical payload s).draws = s.draws :=
  (logAppend_only typ critical payload s).draws rfl
@[simp] theorem logAppend_now (typ : Nat) (critical : Bool) (payload : List Byte) (s : State) : (logAppend typ
    critical payload s).now = s.now :=
  (logAppend_only typ critical payload s).now rfl
@[simp] theorem logAppend_hold64 (typ : Nat) (critical : Bool) (payload : List Byte) (s : State) : (logAppend typ
    critical payload s).hold64 = s.hold64 :=
  (logAppend_only typ critical payload s).hold64 rfl
@[simp] theorem logAppend_latch64 (typ : Nat) (critical : Bool) (payload : List Byte) (s : State) : (logAppend typ
    critical payload s).latch64 = s.latch64 :=
  (logAppend_only typ critical payload s).latch64 rfl
@[simp] theorem logAppend_mod (typ : Nat) (critical : Bool) (payload : List Byte) (s : State) : (logAppend typ
    critical payload s).mod = s.mod :=
  (logAppend_only typ critical payload s).mod rfl
@[simp] theorem logAppend_clk (typ : Nat) (critical : Bool) (payload : List Byte) (s : State) : (logAppend typ
    critical payload s).clk = s.clk :=
  (logAppend_only typ critical payload s).clk rfl
@[simp] theorem logAppend_flt (typ : Nat) (critical : Bool) (payload : List Byte) (s : State) : (logAppend typ
    critical payload s).flt = s.flt :=
  (logAppend_only typ critical payload s).flt rfl
@[simp] theorem logAppend_mgt (typ : Nat) (critical : Bool) (payload : List Byte) (s : State) : (logAppend typ
    critical payload s).mgt = s.mgt :=
  (logAppend_only typ critical payload s).mgt rfl
@[simp] theorem logAppend_owl (typ : Nat) (critical : Bool) (payload : List Byte) (s : State) : (logAppend typ
    critical payload s).owl = s.owl :=
  (logAppend_only typ critical payload s).owl rfl
@[simp] theorem logAppend_pwr (typ : Nat) (critical : Bool) (payload : List Byte) (s : State) : (logAppend typ
    critical payload s).pwr = s.pwr :=
  (logAppend_only typ critical payload s).pwr rfl
@[simp] theorem logAppend_led (typ : Nat) (critical : Bool) (payload : List Byte) (s : State) : (logAppend typ
    critical payload s).led = s.led :=
  (logAppend_only typ critical payload s).led rfl
@[simp] theorem logAppend_hif (typ : Nat) (critical : Bool) (payload : List Byte) (s : State) : (logAppend typ
    critical payload s).hif = s.hif :=
  (logAppend_only typ critical payload s).hif rfl
@[simp] theorem logAppend_cmd (typ : Nat) (critical : Bool) (payload : List Byte) (s : State) : (logAppend typ
    critical payload s).cmd = s.cmd :=
  (logAppend_only typ critical payload s).cmd rfl
@[simp] theorem logAppend_ctxs (typ : Nat) (critical : Bool) (payload : List Byte) (s : State) : (logAppend typ
    critical payload s).ctxs = s.ctxs :=
  (logAppend_only typ critical payload s).ctxs rfl
@[simp] theorem logAppend_mems (typ : Nat) (critical : Bool) (payload : List Byte) (s : State) : (logAppend typ
    critical payload s).mems = s.mems :=
  (logAppend_only typ critical payload s).mems rfl
@[simp] theorem logAppend_evs (typ : Nat) (critical : Bool) (payload : List Byte) (s : State) : (logAppend typ
    critical payload s).evs = s.evs :=
  (logAppend_only typ critical payload s).evs rfl
@[simp] theorem logAppend_mem (typ : Nat) (critical : Bool) (payload : List Byte) (s : State) : (logAppend typ
    critical payload s).mem = s.mem :=
  (logAppend_only typ critical payload s).mem rfl
@[simp] theorem logAppend_poison (typ : Nat) (critical : Bool) (payload : List Byte) (s : State) : (logAppend typ
    critical payload s).poison = s.poison :=
  (logAppend_only typ critical payload s).poison rfl
@[simp] theorem logAppend_tsk (typ : Nat) (critical : Bool) (payload : List Byte) (s : State) : (logAppend typ
    critical payload s).tsk = s.tsk :=
  (logAppend_only typ critical payload s).tsk rfl
@[simp] theorem logAppend_hbm (typ : Nat) (critical : Bool) (payload : List Byte) (s : State) : (logAppend typ
    critical payload s).hbm = s.hbm :=
  (logAppend_only typ critical payload s).hbm rfl
@[simp] theorem logAppend_ime (typ : Nat) (critical : Bool) (payload : List Byte) (s : State) : (logAppend typ
    critical payload s).ime = s.ime :=
  (logAppend_only typ critical payload s).ime rfl
@[simp] theorem logAppend_lnk (typ : Nat) (critical : Bool) (payload : List Byte) (s : State) : (logAppend typ
    critical payload s).lnk = s.lnk :=
  (logAppend_only typ critical payload s).lnk rfl
@[simp] theorem logAppend_wmk (typ : Nat) (critical : Bool) (payload : List Byte) (s : State) : (logAppend typ
    critical payload s).wmk = s.wmk :=
  (logAppend_only typ critical payload s).wmk rfl
@[simp] theorem logAppend_col (typ : Nat) (critical : Bool) (payload : List Byte) (s : State) : (logAppend typ
    critical payload s).col = s.col :=
  (logAppend_only typ critical payload s).col rfl
@[simp] theorem logAppend_runners (typ : Nat) (critical : Bool) (payload : List Byte) (s : State) : (logAppend typ
    critical payload s).runners = s.runners :=
  (logAppend_only typ critical payload s).runners rfl
@[simp] theorem logAppend_admits (typ : Nat) (critical : Bool) (payload : List Byte) (s : State) : (logAppend typ
    critical payload s).admits = s.admits :=
  (logAppend_only typ critical payload s).admits rfl
@[simp] theorem logAppend_ing (typ : Nat) (critical : Bool) (payload : List Byte) (s : State) : (logAppend typ
    critical payload s).ing = s.ing :=
  (logAppend_only typ critical payload s).ing rfl
@[simp] theorem logAppend_ckp (typ : Nat) (critical : Bool) (payload : List Byte) (s : State) : (logAppend typ
    critical payload s).ckp = s.ckp :=
  (logAppend_only typ critical payload s).ckp rfl
@[simp] theorem logAppend_sec (typ : Nat) (critical : Bool) (payload : List Byte) (s : State) : (logAppend typ
    critical payload s).sec = s.sec :=
  (logAppend_only typ critical payload s).sec rfl
@[simp] theorem logAppend_lcs (typ : Nat) (critical : Bool) (payload : List Byte) (s : State) : (logAppend typ
    critical payload s).lcs = s.lcs :=
  (logAppend_only typ critical payload s).lcs rfl
@[simp] theorem logAppend_mxe (typ : Nat) (critical : Bool) (payload : List Byte) (s : State) : (logAppend typ
    critical payload s).mxe = s.mxe :=
  (logAppend_only typ critical payload s).mxe rfl
@[simp] theorem logAppend_vcu (typ : Nat) (critical : Bool) (payload : List Byte) (s : State) : (logAppend typ
    critical payload s).vcu = s.vcu :=
  (logAppend_only typ critical payload s).vcu rfl
@[simp] theorem logAppend_svc (typ : Nat) (critical : Bool) (payload : List Byte) (s : State) : (logAppend typ
    critical payload s).svc = s.svc :=
  (logAppend_only typ critical payload s).svc rfl

/-! ## `fltRecord` -/

theorem fltRecord_only (cls : Nat) (level : Nat) (escalated : Bool) (absorbed : Bool) (unit : Nat) (context : Nat)
    (detail : Nat) (s : State) : Only 0x2280 s (fltRecord cls level escalated absorbed unit context detail s) :=
  (fltRecord_keeps (keeps_refl _ s) (sub_refl _) cls level escalated absorbed unit context detail).only

@[simp] theorem fltRecord_pending (cls : Nat) (level : Nat) (escalated : Bool) (absorbed : Bool) (unit : Nat)
    (context : Nat) (detail : Nat) (s : State) : (fltRecord cls level escalated absorbed unit context detail
    s).pending = s.pending :=
  (fltRecord_keeps (keeps_refl _ s) (sub_refl _) cls level escalated absorbed unit context detail).pending
@[simp] theorem fltRecord_out (cls : Nat) (level : Nat) (escalated : Bool) (absorbed : Bool) (unit : Nat) (context :
    Nat) (detail : Nat) (s : State) : (fltRecord cls level escalated absorbed unit context detail s).out = s.out :=
  (fltRecord_only cls level escalated absorbed unit context detail s).out rfl
@[simp] theorem fltRecord_draws (cls : Nat) (level : Nat) (escalated : Bool) (absorbed : Bool) (unit : Nat) (context
    : Nat) (detail : Nat) (s : State) : (fltRecord cls level escalated absorbed unit context detail s).draws =
    s.draws :=
  (fltRecord_only cls level escalated absorbed unit context detail s).draws rfl
@[simp] theorem fltRecord_now (cls : Nat) (level : Nat) (escalated : Bool) (absorbed : Bool) (unit : Nat) (context :
    Nat) (detail : Nat) (s : State) : (fltRecord cls level escalated absorbed unit context detail s).now = s.now :=
  (fltRecord_only cls level escalated absorbed unit context detail s).now rfl
@[simp] theorem fltRecord_hold64 (cls : Nat) (level : Nat) (escalated : Bool) (absorbed : Bool) (unit : Nat)
    (context : Nat) (detail : Nat) (s : State) : (fltRecord cls level escalated absorbed unit context detail
    s).hold64 = s.hold64 :=
  (fltRecord_only cls level escalated absorbed unit context detail s).hold64 rfl
@[simp] theorem fltRecord_latch64 (cls : Nat) (level : Nat) (escalated : Bool) (absorbed : Bool) (unit : Nat)
    (context : Nat) (detail : Nat) (s : State) : (fltRecord cls level escalated absorbed unit context detail
    s).latch64 = s.latch64 :=
  (fltRecord_only cls level escalated absorbed unit context detail s).latch64 rfl
@[simp] theorem fltRecord_mod (cls : Nat) (level : Nat) (escalated : Bool) (absorbed : Bool) (unit : Nat) (context :
    Nat) (detail : Nat) (s : State) : (fltRecord cls level escalated absorbed unit context detail s).mod = s.mod :=
  (fltRecord_only cls level escalated absorbed unit context detail s).mod rfl
@[simp] theorem fltRecord_clk (cls : Nat) (level : Nat) (escalated : Bool) (absorbed : Bool) (unit : Nat) (context :
    Nat) (detail : Nat) (s : State) : (fltRecord cls level escalated absorbed unit context detail s).clk = s.clk :=
  (fltRecord_only cls level escalated absorbed unit context detail s).clk rfl
@[simp] theorem fltRecord_mgt (cls : Nat) (level : Nat) (escalated : Bool) (absorbed : Bool) (unit : Nat) (context :
    Nat) (detail : Nat) (s : State) : (fltRecord cls level escalated absorbed unit context detail s).mgt = s.mgt :=
  (fltRecord_only cls level escalated absorbed unit context detail s).mgt rfl
@[simp] theorem fltRecord_owl (cls : Nat) (level : Nat) (escalated : Bool) (absorbed : Bool) (unit : Nat) (context :
    Nat) (detail : Nat) (s : State) : (fltRecord cls level escalated absorbed unit context detail s).owl = s.owl :=
  (fltRecord_only cls level escalated absorbed unit context detail s).owl rfl
@[simp] theorem fltRecord_pwr (cls : Nat) (level : Nat) (escalated : Bool) (absorbed : Bool) (unit : Nat) (context :
    Nat) (detail : Nat) (s : State) : (fltRecord cls level escalated absorbed unit context detail s).pwr = s.pwr :=
  (fltRecord_only cls level escalated absorbed unit context detail s).pwr rfl
@[simp] theorem fltRecord_led (cls : Nat) (level : Nat) (escalated : Bool) (absorbed : Bool) (unit : Nat) (context :
    Nat) (detail : Nat) (s : State) : (fltRecord cls level escalated absorbed unit context detail s).led = s.led :=
  (fltRecord_only cls level escalated absorbed unit context detail s).led rfl
@[simp] theorem fltRecord_hif (cls : Nat) (level : Nat) (escalated : Bool) (absorbed : Bool) (unit : Nat) (context :
    Nat) (detail : Nat) (s : State) : (fltRecord cls level escalated absorbed unit context detail s).hif = s.hif :=
  (fltRecord_only cls level escalated absorbed unit context detail s).hif rfl
@[simp] theorem fltRecord_cmd (cls : Nat) (level : Nat) (escalated : Bool) (absorbed : Bool) (unit : Nat) (context :
    Nat) (detail : Nat) (s : State) : (fltRecord cls level escalated absorbed unit context detail s).cmd = s.cmd :=
  (fltRecord_only cls level escalated absorbed unit context detail s).cmd rfl
@[simp] theorem fltRecord_ctxs (cls : Nat) (level : Nat) (escalated : Bool) (absorbed : Bool) (unit : Nat) (context
    : Nat) (detail : Nat) (s : State) : (fltRecord cls level escalated absorbed unit context detail s).ctxs = s.ctxs
    :=
  (fltRecord_only cls level escalated absorbed unit context detail s).ctxs rfl
@[simp] theorem fltRecord_mems (cls : Nat) (level : Nat) (escalated : Bool) (absorbed : Bool) (unit : Nat) (context
    : Nat) (detail : Nat) (s : State) : (fltRecord cls level escalated absorbed unit context detail s).mems = s.mems
    :=
  (fltRecord_only cls level escalated absorbed unit context detail s).mems rfl
@[simp] theorem fltRecord_evs (cls : Nat) (level : Nat) (escalated : Bool) (absorbed : Bool) (unit : Nat) (context :
    Nat) (detail : Nat) (s : State) : (fltRecord cls level escalated absorbed unit context detail s).evs = s.evs :=
  (fltRecord_only cls level escalated absorbed unit context detail s).evs rfl
@[simp] theorem fltRecord_mem (cls : Nat) (level : Nat) (escalated : Bool) (absorbed : Bool) (unit : Nat) (context :
    Nat) (detail : Nat) (s : State) : (fltRecord cls level escalated absorbed unit context detail s).mem = s.mem :=
  (fltRecord_only cls level escalated absorbed unit context detail s).mem rfl
@[simp] theorem fltRecord_poison (cls : Nat) (level : Nat) (escalated : Bool) (absorbed : Bool) (unit : Nat)
    (context : Nat) (detail : Nat) (s : State) : (fltRecord cls level escalated absorbed unit context detail
    s).poison = s.poison :=
  (fltRecord_only cls level escalated absorbed unit context detail s).poison rfl
@[simp] theorem fltRecord_tsk (cls : Nat) (level : Nat) (escalated : Bool) (absorbed : Bool) (unit : Nat) (context :
    Nat) (detail : Nat) (s : State) : (fltRecord cls level escalated absorbed unit context detail s).tsk = s.tsk :=
  (fltRecord_only cls level escalated absorbed unit context detail s).tsk rfl
@[simp] theorem fltRecord_hbm (cls : Nat) (level : Nat) (escalated : Bool) (absorbed : Bool) (unit : Nat) (context :
    Nat) (detail : Nat) (s : State) : (fltRecord cls level escalated absorbed unit context detail s).hbm = s.hbm :=
  (fltRecord_only cls level escalated absorbed unit context detail s).hbm rfl
@[simp] theorem fltRecord_ime (cls : Nat) (level : Nat) (escalated : Bool) (absorbed : Bool) (unit : Nat) (context :
    Nat) (detail : Nat) (s : State) : (fltRecord cls level escalated absorbed unit context detail s).ime = s.ime :=
  (fltRecord_only cls level escalated absorbed unit context detail s).ime rfl
@[simp] theorem fltRecord_lnk (cls : Nat) (level : Nat) (escalated : Bool) (absorbed : Bool) (unit : Nat) (context :
    Nat) (detail : Nat) (s : State) : (fltRecord cls level escalated absorbed unit context detail s).lnk = s.lnk :=
  (fltRecord_only cls level escalated absorbed unit context detail s).lnk rfl
@[simp] theorem fltRecord_wmk (cls : Nat) (level : Nat) (escalated : Bool) (absorbed : Bool) (unit : Nat) (context :
    Nat) (detail : Nat) (s : State) : (fltRecord cls level escalated absorbed unit context detail s).wmk = s.wmk :=
  (fltRecord_only cls level escalated absorbed unit context detail s).wmk rfl
@[simp] theorem fltRecord_col (cls : Nat) (level : Nat) (escalated : Bool) (absorbed : Bool) (unit : Nat) (context :
    Nat) (detail : Nat) (s : State) : (fltRecord cls level escalated absorbed unit context detail s).col = s.col :=
  (fltRecord_only cls level escalated absorbed unit context detail s).col rfl
@[simp] theorem fltRecord_runners (cls : Nat) (level : Nat) (escalated : Bool) (absorbed : Bool) (unit : Nat)
    (context : Nat) (detail : Nat) (s : State) : (fltRecord cls level escalated absorbed unit context detail
    s).runners = s.runners :=
  (fltRecord_only cls level escalated absorbed unit context detail s).runners rfl
@[simp] theorem fltRecord_admits (cls : Nat) (level : Nat) (escalated : Bool) (absorbed : Bool) (unit : Nat)
    (context : Nat) (detail : Nat) (s : State) : (fltRecord cls level escalated absorbed unit context detail
    s).admits = s.admits :=
  (fltRecord_only cls level escalated absorbed unit context detail s).admits rfl
@[simp] theorem fltRecord_ing (cls : Nat) (level : Nat) (escalated : Bool) (absorbed : Bool) (unit : Nat) (context :
    Nat) (detail : Nat) (s : State) : (fltRecord cls level escalated absorbed unit context detail s).ing = s.ing :=
  (fltRecord_only cls level escalated absorbed unit context detail s).ing rfl
@[simp] theorem fltRecord_ckp (cls : Nat) (level : Nat) (escalated : Bool) (absorbed : Bool) (unit : Nat) (context :
    Nat) (detail : Nat) (s : State) : (fltRecord cls level escalated absorbed unit context detail s).ckp = s.ckp :=
  (fltRecord_only cls level escalated absorbed unit context detail s).ckp rfl
@[simp] theorem fltRecord_sec (cls : Nat) (level : Nat) (escalated : Bool) (absorbed : Bool) (unit : Nat) (context :
    Nat) (detail : Nat) (s : State) : (fltRecord cls level escalated absorbed unit context detail s).sec = s.sec :=
  (fltRecord_only cls level escalated absorbed unit context detail s).sec rfl
@[simp] theorem fltRecord_lcs (cls : Nat) (level : Nat) (escalated : Bool) (absorbed : Bool) (unit : Nat) (context :
    Nat) (detail : Nat) (s : State) : (fltRecord cls level escalated absorbed unit context detail s).lcs = s.lcs :=
  (fltRecord_only cls level escalated absorbed unit context detail s).lcs rfl
@[simp] theorem fltRecord_mxe (cls : Nat) (level : Nat) (escalated : Bool) (absorbed : Bool) (unit : Nat) (context :
    Nat) (detail : Nat) (s : State) : (fltRecord cls level escalated absorbed unit context detail s).mxe = s.mxe :=
  (fltRecord_only cls level escalated absorbed unit context detail s).mxe rfl
@[simp] theorem fltRecord_vcu (cls : Nat) (level : Nat) (escalated : Bool) (absorbed : Bool) (unit : Nat) (context :
    Nat) (detail : Nat) (s : State) : (fltRecord cls level escalated absorbed unit context detail s).vcu = s.vcu :=
  (fltRecord_only cls level escalated absorbed unit context detail s).vcu rfl
@[simp] theorem fltRecord_svc (cls : Nat) (level : Nat) (escalated : Bool) (absorbed : Bool) (unit : Nat) (context :
    Nat) (detail : Nat) (s : State) : (fltRecord cls level escalated absorbed unit context detail s).svc = s.svc :=
  (fltRecord_only cls level escalated absorbed unit context detail s).svc rfl

/-! ## `postWear` -/

theorem postWear_only (s : State) : Only 0x8101 s (postWear s) :=
  (postWear_keeps (keeps_refl _ s) (sub_refl _) ).only

@[simp] theorem postWear_pending (s : State) : (postWear s).pending = s.pending :=
  (postWear_keeps (keeps_refl _ s) (sub_refl _) ).pending
@[simp] theorem postWear_draws (s : State) : (postWear s).draws = s.draws :=
  (postWear_only s).draws rfl
@[simp] theorem postWear_now (s : State) : (postWear s).now = s.now :=
  (postWear_only s).now rfl
@[simp] theorem postWear_hold64 (s : State) : (postWear s).hold64 = s.hold64 :=
  (postWear_only s).hold64 rfl
@[simp] theorem postWear_latch64 (s : State) : (postWear s).latch64 = s.latch64 :=
  (postWear_only s).latch64 rfl
@[simp] theorem postWear_mod (s : State) : (postWear s).mod = s.mod :=
  (postWear_only s).mod rfl
@[simp] theorem postWear_clk (s : State) : (postWear s).clk = s.clk :=
  (postWear_only s).clk rfl
@[simp] theorem postWear_flt (s : State) : (postWear s).flt = s.flt :=
  (postWear_only s).flt rfl
@[simp] theorem postWear_log (s : State) : (postWear s).log = s.log :=
  (postWear_only s).log rfl
@[simp] theorem postWear_owl (s : State) : (postWear s).owl = s.owl :=
  (postWear_only s).owl rfl
@[simp] theorem postWear_pwr (s : State) : (postWear s).pwr = s.pwr :=
  (postWear_only s).pwr rfl
@[simp] theorem postWear_led (s : State) : (postWear s).led = s.led :=
  (postWear_only s).led rfl
@[simp] theorem postWear_nv (s : State) : (postWear s).nv = s.nv :=
  (postWear_only s).nv rfl
@[simp] theorem postWear_hif (s : State) : (postWear s).hif = s.hif :=
  (postWear_only s).hif rfl
@[simp] theorem postWear_ctxs (s : State) : (postWear s).ctxs = s.ctxs :=
  (postWear_only s).ctxs rfl
@[simp] theorem postWear_mems (s : State) : (postWear s).mems = s.mems :=
  (postWear_only s).mems rfl
@[simp] theorem postWear_evs (s : State) : (postWear s).evs = s.evs :=
  (postWear_only s).evs rfl
@[simp] theorem postWear_mem (s : State) : (postWear s).mem = s.mem :=
  (postWear_only s).mem rfl
@[simp] theorem postWear_poison (s : State) : (postWear s).poison = s.poison :=
  (postWear_only s).poison rfl
@[simp] theorem postWear_tsk (s : State) : (postWear s).tsk = s.tsk :=
  (postWear_only s).tsk rfl
@[simp] theorem postWear_hbm (s : State) : (postWear s).hbm = s.hbm :=
  (postWear_only s).hbm rfl
@[simp] theorem postWear_ime (s : State) : (postWear s).ime = s.ime :=
  (postWear_only s).ime rfl
@[simp] theorem postWear_lnk (s : State) : (postWear s).lnk = s.lnk :=
  (postWear_only s).lnk rfl
@[simp] theorem postWear_wmk (s : State) : (postWear s).wmk = s.wmk :=
  (postWear_only s).wmk rfl
@[simp] theorem postWear_col (s : State) : (postWear s).col = s.col :=
  (postWear_only s).col rfl
@[simp] theorem postWear_runners (s : State) : (postWear s).runners = s.runners :=
  (postWear_only s).runners rfl
@[simp] theorem postWear_admits (s : State) : (postWear s).admits = s.admits :=
  (postWear_only s).admits rfl
@[simp] theorem postWear_ing (s : State) : (postWear s).ing = s.ing :=
  (postWear_only s).ing rfl
@[simp] theorem postWear_ckp (s : State) : (postWear s).ckp = s.ckp :=
  (postWear_only s).ckp rfl
@[simp] theorem postWear_sec (s : State) : (postWear s).sec = s.sec :=
  (postWear_only s).sec rfl
@[simp] theorem postWear_lcs (s : State) : (postWear s).lcs = s.lcs :=
  (postWear_only s).lcs rfl
@[simp] theorem postWear_mxe (s : State) : (postWear s).mxe = s.mxe :=
  (postWear_only s).mxe rfl
@[simp] theorem postWear_vcu (s : State) : (postWear s).vcu = s.vcu :=
  (postWear_only s).vcu rfl
@[simp] theorem postWear_svc (s : State) : (postWear s).svc = s.svc :=
  (postWear_only s).svc rfl

/-! ## `commitReset` -/

theorem commitReset_only (s : State) : Only 0xa301 s (commitReset s) :=
  (commitReset_keeps (keeps_refl _ s) (sub_refl _) ).only

@[simp] theorem commitReset_pending (s : State) : (commitReset s).pending = s.pending :=
  (commitReset_keeps (keeps_refl _ s) (sub_refl _) ).pending
@[simp] theorem commitReset_draws (s : State) : (commitReset s).draws = s.draws :=
  (commitReset_only s).draws rfl
@[simp] theorem commitReset_now (s : State) : (commitReset s).now = s.now :=
  (commitReset_only s).now rfl
@[simp] theorem commitReset_hold64 (s : State) : (commitReset s).hold64 = s.hold64 :=
  (commitReset_only s).hold64 rfl
@[simp] theorem commitReset_latch64 (s : State) : (commitReset s).latch64 = s.latch64 :=
  (commitReset_only s).latch64 rfl
@[simp] theorem commitReset_mod (s : State) : (commitReset s).mod = s.mod :=
  (commitReset_only s).mod rfl
@[simp] theorem commitReset_clk (s : State) : (commitReset s).clk = s.clk :=
  (commitReset_only s).clk rfl
@[simp] theorem commitReset_flt (s : State) : (commitReset s).flt = s.flt :=
  (commitReset_only s).flt rfl
@[simp] theorem commitReset_owl (s : State) : (commitReset s).owl = s.owl :=
  (commitReset_only s).owl rfl
@[simp] theorem commitReset_pwr (s : State) : (commitReset s).pwr = s.pwr :=
  (commitReset_only s).pwr rfl
@[simp] theorem commitReset_led (s : State) : (commitReset s).led = s.led :=
  (commitReset_only s).led rfl
@[simp] theorem commitReset_hif (s : State) : (commitReset s).hif = s.hif :=
  (commitReset_only s).hif rfl
@[simp] theorem commitReset_ctxs (s : State) : (commitReset s).ctxs = s.ctxs :=
  (commitReset_only s).ctxs rfl
@[simp] theorem commitReset_mems (s : State) : (commitReset s).mems = s.mems :=
  (commitReset_only s).mems rfl
@[simp] theorem commitReset_evs (s : State) : (commitReset s).evs = s.evs :=
  (commitReset_only s).evs rfl
@[simp] theorem commitReset_mem (s : State) : (commitReset s).mem = s.mem :=
  (commitReset_only s).mem rfl
@[simp] theorem commitReset_poison (s : State) : (commitReset s).poison = s.poison :=
  (commitReset_only s).poison rfl
@[simp] theorem commitReset_tsk (s : State) : (commitReset s).tsk = s.tsk :=
  (commitReset_only s).tsk rfl
@[simp] theorem commitReset_hbm (s : State) : (commitReset s).hbm = s.hbm :=
  (commitReset_only s).hbm rfl
@[simp] theorem commitReset_ime (s : State) : (commitReset s).ime = s.ime :=
  (commitReset_only s).ime rfl
@[simp] theorem commitReset_lnk (s : State) : (commitReset s).lnk = s.lnk :=
  (commitReset_only s).lnk rfl
@[simp] theorem commitReset_wmk (s : State) : (commitReset s).wmk = s.wmk :=
  (commitReset_only s).wmk rfl
@[simp] theorem commitReset_col (s : State) : (commitReset s).col = s.col :=
  (commitReset_only s).col rfl
@[simp] theorem commitReset_runners (s : State) : (commitReset s).runners = s.runners :=
  (commitReset_only s).runners rfl
@[simp] theorem commitReset_admits (s : State) : (commitReset s).admits = s.admits :=
  (commitReset_only s).admits rfl
@[simp] theorem commitReset_ing (s : State) : (commitReset s).ing = s.ing :=
  (commitReset_only s).ing rfl
@[simp] theorem commitReset_ckp (s : State) : (commitReset s).ckp = s.ckp :=
  (commitReset_only s).ckp rfl
@[simp] theorem commitReset_sec (s : State) : (commitReset s).sec = s.sec :=
  (commitReset_only s).sec rfl
@[simp] theorem commitReset_lcs (s : State) : (commitReset s).lcs = s.lcs :=
  (commitReset_only s).lcs rfl
@[simp] theorem commitReset_mxe (s : State) : (commitReset s).mxe = s.mxe :=
  (commitReset_only s).mxe rfl
@[simp] theorem commitReset_vcu (s : State) : (commitReset s).vcu = s.vcu :=
  (commitReset_only s).vcu rfl
@[simp] theorem commitReset_svc (s : State) : (commitReset s).svc = s.svc :=
  (commitReset_only s).svc rfl

/-! ## `commitPowerFail` -/

theorem commitPowerFail_only (s : State) : Only 0xb303 s (commitPowerFail s) :=
  (commitPowerFail_keeps (keeps_refl _ s) (sub_refl _) ).only

@[simp] theorem commitPowerFail_pending (s : State) : (commitPowerFail s).pending = s.pending :=
  (commitPowerFail_keeps (keeps_refl _ s) (sub_refl _) ).pending
@[simp] theorem commitPowerFail_now (s : State) : (commitPowerFail s).now = s.now :=
  (commitPowerFail_only s).now rfl
@[simp] theorem commitPowerFail_hold64 (s : State) : (commitPowerFail s).hold64 = s.hold64 :=
  (commitPowerFail_only s).hold64 rfl
@[simp] theorem commitPowerFail_latch64 (s : State) : (commitPowerFail s).latch64 = s.latch64 :=
  (commitPowerFail_only s).latch64 rfl
@[simp] theorem commitPowerFail_mod (s : State) : (commitPowerFail s).mod = s.mod :=
  (commitPowerFail_only s).mod rfl
@[simp] theorem commitPowerFail_clk (s : State) : (commitPowerFail s).clk = s.clk :=
  (commitPowerFail_only s).clk rfl
@[simp] theorem commitPowerFail_flt (s : State) : (commitPowerFail s).flt = s.flt :=
  (commitPowerFail_only s).flt rfl
@[simp] theorem commitPowerFail_owl (s : State) : (commitPowerFail s).owl = s.owl :=
  (commitPowerFail_only s).owl rfl
@[simp] theorem commitPowerFail_pwr (s : State) : (commitPowerFail s).pwr = s.pwr :=
  (commitPowerFail_only s).pwr rfl
@[simp] theorem commitPowerFail_hif (s : State) : (commitPowerFail s).hif = s.hif :=
  (commitPowerFail_only s).hif rfl
@[simp] theorem commitPowerFail_ctxs (s : State) : (commitPowerFail s).ctxs = s.ctxs :=
  (commitPowerFail_only s).ctxs rfl
@[simp] theorem commitPowerFail_mems (s : State) : (commitPowerFail s).mems = s.mems :=
  (commitPowerFail_only s).mems rfl
@[simp] theorem commitPowerFail_evs (s : State) : (commitPowerFail s).evs = s.evs :=
  (commitPowerFail_only s).evs rfl
@[simp] theorem commitPowerFail_mem (s : State) : (commitPowerFail s).mem = s.mem :=
  (commitPowerFail_only s).mem rfl
@[simp] theorem commitPowerFail_poison (s : State) : (commitPowerFail s).poison = s.poison :=
  (commitPowerFail_only s).poison rfl
@[simp] theorem commitPowerFail_tsk (s : State) : (commitPowerFail s).tsk = s.tsk :=
  (commitPowerFail_only s).tsk rfl
@[simp] theorem commitPowerFail_hbm (s : State) : (commitPowerFail s).hbm = s.hbm :=
  (commitPowerFail_only s).hbm rfl
@[simp] theorem commitPowerFail_ime (s : State) : (commitPowerFail s).ime = s.ime :=
  (commitPowerFail_only s).ime rfl
@[simp] theorem commitPowerFail_lnk (s : State) : (commitPowerFail s).lnk = s.lnk :=
  (commitPowerFail_only s).lnk rfl
@[simp] theorem commitPowerFail_wmk (s : State) : (commitPowerFail s).wmk = s.wmk :=
  (commitPowerFail_only s).wmk rfl
@[simp] theorem commitPowerFail_col (s : State) : (commitPowerFail s).col = s.col :=
  (commitPowerFail_only s).col rfl
@[simp] theorem commitPowerFail_runners (s : State) : (commitPowerFail s).runners = s.runners :=
  (commitPowerFail_only s).runners rfl
@[simp] theorem commitPowerFail_admits (s : State) : (commitPowerFail s).admits = s.admits :=
  (commitPowerFail_only s).admits rfl
@[simp] theorem commitPowerFail_ing (s : State) : (commitPowerFail s).ing = s.ing :=
  (commitPowerFail_only s).ing rfl
@[simp] theorem commitPowerFail_ckp (s : State) : (commitPowerFail s).ckp = s.ckp :=
  (commitPowerFail_only s).ckp rfl
@[simp] theorem commitPowerFail_sec (s : State) : (commitPowerFail s).sec = s.sec :=
  (commitPowerFail_only s).sec rfl
@[simp] theorem commitPowerFail_lcs (s : State) : (commitPowerFail s).lcs = s.lcs :=
  (commitPowerFail_only s).lcs rfl
@[simp] theorem commitPowerFail_mxe (s : State) : (commitPowerFail s).mxe = s.mxe :=
  (commitPowerFail_only s).mxe rfl
@[simp] theorem commitPowerFail_vcu (s : State) : (commitPowerFail s).vcu = s.vcu :=
  (commitPowerFail_only s).vcu rfl
@[simp] theorem commitPowerFail_svc (s : State) : (commitPowerFail s).svc = s.svc :=
  (commitPowerFail_only s).svc rfl

/-! ## `holdEngines` -/

theorem holdEngines_only (s : State) : Only 0x200000000 s (holdEngines s) :=
  (holdEngines_keeps (keeps_refl _ s) (sub_refl _) ).only

@[simp] theorem holdEngines_pending (s : State) : (holdEngines s).pending = s.pending :=
  (holdEngines_keeps (keeps_refl _ s) (sub_refl _) ).pending
@[simp] theorem holdEngines_out (s : State) : (holdEngines s).out = s.out :=
  (holdEngines_only s).out rfl
@[simp] theorem holdEngines_draws (s : State) : (holdEngines s).draws = s.draws :=
  (holdEngines_only s).draws rfl
@[simp] theorem holdEngines_now (s : State) : (holdEngines s).now = s.now :=
  (holdEngines_only s).now rfl
@[simp] theorem holdEngines_hold64 (s : State) : (holdEngines s).hold64 = s.hold64 :=
  (holdEngines_only s).hold64 rfl
@[simp] theorem holdEngines_latch64 (s : State) : (holdEngines s).latch64 = s.latch64 :=
  (holdEngines_only s).latch64 rfl
@[simp] theorem holdEngines_mod (s : State) : (holdEngines s).mod = s.mod :=
  (holdEngines_only s).mod rfl
@[simp] theorem holdEngines_clk (s : State) : (holdEngines s).clk = s.clk :=
  (holdEngines_only s).clk rfl
@[simp] theorem holdEngines_flt (s : State) : (holdEngines s).flt = s.flt :=
  (holdEngines_only s).flt rfl
@[simp] theorem holdEngines_mgt (s : State) : (holdEngines s).mgt = s.mgt :=
  (holdEngines_only s).mgt rfl
@[simp] theorem holdEngines_log (s : State) : (holdEngines s).log = s.log :=
  (holdEngines_only s).log rfl
@[simp] theorem holdEngines_owl (s : State) : (holdEngines s).owl = s.owl :=
  (holdEngines_only s).owl rfl
@[simp] theorem holdEngines_pwr (s : State) : (holdEngines s).pwr = s.pwr :=
  (holdEngines_only s).pwr rfl
@[simp] theorem holdEngines_led (s : State) : (holdEngines s).led = s.led :=
  (holdEngines_only s).led rfl
@[simp] theorem holdEngines_nv (s : State) : (holdEngines s).nv = s.nv :=
  (holdEngines_only s).nv rfl
@[simp] theorem holdEngines_hif (s : State) : (holdEngines s).hif = s.hif :=
  (holdEngines_only s).hif rfl
@[simp] theorem holdEngines_cmd (s : State) : (holdEngines s).cmd = s.cmd :=
  (holdEngines_only s).cmd rfl
@[simp] theorem holdEngines_ctxs (s : State) : (holdEngines s).ctxs = s.ctxs :=
  (holdEngines_only s).ctxs rfl
@[simp] theorem holdEngines_mems (s : State) : (holdEngines s).mems = s.mems :=
  (holdEngines_only s).mems rfl
@[simp] theorem holdEngines_evs (s : State) : (holdEngines s).evs = s.evs :=
  (holdEngines_only s).evs rfl
@[simp] theorem holdEngines_mem (s : State) : (holdEngines s).mem = s.mem :=
  (holdEngines_only s).mem rfl
@[simp] theorem holdEngines_poison (s : State) : (holdEngines s).poison = s.poison :=
  (holdEngines_only s).poison rfl
@[simp] theorem holdEngines_tsk (s : State) : (holdEngines s).tsk = s.tsk :=
  (holdEngines_only s).tsk rfl
@[simp] theorem holdEngines_hbm (s : State) : (holdEngines s).hbm = s.hbm :=
  (holdEngines_only s).hbm rfl
@[simp] theorem holdEngines_ime (s : State) : (holdEngines s).ime = s.ime :=
  (holdEngines_only s).ime rfl
@[simp] theorem holdEngines_lnk (s : State) : (holdEngines s).lnk = s.lnk :=
  (holdEngines_only s).lnk rfl
@[simp] theorem holdEngines_wmk (s : State) : (holdEngines s).wmk = s.wmk :=
  (holdEngines_only s).wmk rfl
@[simp] theorem holdEngines_col (s : State) : (holdEngines s).col = s.col :=
  (holdEngines_only s).col rfl
@[simp] theorem holdEngines_runners (s : State) : (holdEngines s).runners = s.runners :=
  (holdEngines_only s).runners rfl
@[simp] theorem holdEngines_admits (s : State) : (holdEngines s).admits = s.admits :=
  (holdEngines_only s).admits rfl
@[simp] theorem holdEngines_ing (s : State) : (holdEngines s).ing = s.ing :=
  (holdEngines_only s).ing rfl
@[simp] theorem holdEngines_ckp (s : State) : (holdEngines s).ckp = s.ckp :=
  (holdEngines_only s).ckp rfl
@[simp] theorem holdEngines_sec (s : State) : (holdEngines s).sec = s.sec :=
  (holdEngines_only s).sec rfl
@[simp] theorem holdEngines_lcs (s : State) : (holdEngines s).lcs = s.lcs :=
  (holdEngines_only s).lcs rfl
@[simp] theorem holdEngines_vcu (s : State) : (holdEngines s).vcu = s.vcu :=
  (holdEngines_only s).vcu rfl
@[simp] theorem holdEngines_svc (s : State) : (holdEngines s).svc = s.svc :=
  (holdEngines_only s).svc rfl

/-! ## `releaseEngines` -/

theorem releaseEngines_only (s : State) : Only 0x200000000 s (releaseEngines s) :=
  (releaseEngines_keeps (keeps_refl _ s) (sub_refl _) ).only

@[simp] theorem releaseEngines_pending (s : State) : (releaseEngines s).pending = s.pending :=
  (releaseEngines_keeps (keeps_refl _ s) (sub_refl _) ).pending
@[simp] theorem releaseEngines_out (s : State) : (releaseEngines s).out = s.out :=
  (releaseEngines_only s).out rfl
@[simp] theorem releaseEngines_draws (s : State) : (releaseEngines s).draws = s.draws :=
  (releaseEngines_only s).draws rfl
@[simp] theorem releaseEngines_now (s : State) : (releaseEngines s).now = s.now :=
  (releaseEngines_only s).now rfl
@[simp] theorem releaseEngines_hold64 (s : State) : (releaseEngines s).hold64 = s.hold64 :=
  (releaseEngines_only s).hold64 rfl
@[simp] theorem releaseEngines_latch64 (s : State) : (releaseEngines s).latch64 = s.latch64 :=
  (releaseEngines_only s).latch64 rfl
@[simp] theorem releaseEngines_mod (s : State) : (releaseEngines s).mod = s.mod :=
  (releaseEngines_only s).mod rfl
@[simp] theorem releaseEngines_clk (s : State) : (releaseEngines s).clk = s.clk :=
  (releaseEngines_only s).clk rfl
@[simp] theorem releaseEngines_flt (s : State) : (releaseEngines s).flt = s.flt :=
  (releaseEngines_only s).flt rfl
@[simp] theorem releaseEngines_mgt (s : State) : (releaseEngines s).mgt = s.mgt :=
  (releaseEngines_only s).mgt rfl
@[simp] theorem releaseEngines_log (s : State) : (releaseEngines s).log = s.log :=
  (releaseEngines_only s).log rfl
@[simp] theorem releaseEngines_owl (s : State) : (releaseEngines s).owl = s.owl :=
  (releaseEngines_only s).owl rfl
@[simp] theorem releaseEngines_pwr (s : State) : (releaseEngines s).pwr = s.pwr :=
  (releaseEngines_only s).pwr rfl
@[simp] theorem releaseEngines_led (s : State) : (releaseEngines s).led = s.led :=
  (releaseEngines_only s).led rfl
@[simp] theorem releaseEngines_nv (s : State) : (releaseEngines s).nv = s.nv :=
  (releaseEngines_only s).nv rfl
@[simp] theorem releaseEngines_hif (s : State) : (releaseEngines s).hif = s.hif :=
  (releaseEngines_only s).hif rfl
@[simp] theorem releaseEngines_cmd (s : State) : (releaseEngines s).cmd = s.cmd :=
  (releaseEngines_only s).cmd rfl
@[simp] theorem releaseEngines_ctxs (s : State) : (releaseEngines s).ctxs = s.ctxs :=
  (releaseEngines_only s).ctxs rfl
@[simp] theorem releaseEngines_mems (s : State) : (releaseEngines s).mems = s.mems :=
  (releaseEngines_only s).mems rfl
@[simp] theorem releaseEngines_evs (s : State) : (releaseEngines s).evs = s.evs :=
  (releaseEngines_only s).evs rfl
@[simp] theorem releaseEngines_mem (s : State) : (releaseEngines s).mem = s.mem :=
  (releaseEngines_only s).mem rfl
@[simp] theorem releaseEngines_poison (s : State) : (releaseEngines s).poison = s.poison :=
  (releaseEngines_only s).poison rfl
@[simp] theorem releaseEngines_tsk (s : State) : (releaseEngines s).tsk = s.tsk :=
  (releaseEngines_only s).tsk rfl
@[simp] theorem releaseEngines_hbm (s : State) : (releaseEngines s).hbm = s.hbm :=
  (releaseEngines_only s).hbm rfl
@[simp] theorem releaseEngines_ime (s : State) : (releaseEngines s).ime = s.ime :=
  (releaseEngines_only s).ime rfl
@[simp] theorem releaseEngines_lnk (s : State) : (releaseEngines s).lnk = s.lnk :=
  (releaseEngines_only s).lnk rfl
@[simp] theorem releaseEngines_wmk (s : State) : (releaseEngines s).wmk = s.wmk :=
  (releaseEngines_only s).wmk rfl
@[simp] theorem releaseEngines_col (s : State) : (releaseEngines s).col = s.col :=
  (releaseEngines_only s).col rfl
@[simp] theorem releaseEngines_runners (s : State) : (releaseEngines s).runners = s.runners :=
  (releaseEngines_only s).runners rfl
@[simp] theorem releaseEngines_admits (s : State) : (releaseEngines s).admits = s.admits :=
  (releaseEngines_only s).admits rfl
@[simp] theorem releaseEngines_ing (s : State) : (releaseEngines s).ing = s.ing :=
  (releaseEngines_only s).ing rfl
@[simp] theorem releaseEngines_ckp (s : State) : (releaseEngines s).ckp = s.ckp :=
  (releaseEngines_only s).ckp rfl
@[simp] theorem releaseEngines_sec (s : State) : (releaseEngines s).sec = s.sec :=
  (releaseEngines_only s).sec rfl
@[simp] theorem releaseEngines_lcs (s : State) : (releaseEngines s).lcs = s.lcs :=
  (releaseEngines_only s).lcs rfl
@[simp] theorem releaseEngines_vcu (s : State) : (releaseEngines s).vcu = s.vcu :=
  (releaseEngines_only s).vcu rfl
@[simp] theorem releaseEngines_svc (s : State) : (releaseEngines s).svc = s.svc :=
  (releaseEngines_only s).svc rfl

/-! ## `endSession` -/

theorem endSession_only (s : State) : Only 0x81800000 s (endSession s) :=
  (endSession_keeps (keeps_refl _ s) (sub_refl _) ).only

@[simp] theorem endSession_pending (s : State) : (endSession s).pending = s.pending :=
  (endSession_keeps (keeps_refl _ s) (sub_refl _) ).pending
@[simp] theorem endSession_out (s : State) : (endSession s).out = s.out :=
  (endSession_only s).out rfl
@[simp] theorem endSession_draws (s : State) : (endSession s).draws = s.draws :=
  (endSession_only s).draws rfl
@[simp] theorem endSession_now (s : State) : (endSession s).now = s.now :=
  (endSession_only s).now rfl
@[simp] theorem endSession_hold64 (s : State) : (endSession s).hold64 = s.hold64 :=
  (endSession_only s).hold64 rfl
@[simp] theorem endSession_latch64 (s : State) : (endSession s).latch64 = s.latch64 :=
  (endSession_only s).latch64 rfl
@[simp] theorem endSession_mod (s : State) : (endSession s).mod = s.mod :=
  (endSession_only s).mod rfl
@[simp] theorem endSession_clk (s : State) : (endSession s).clk = s.clk :=
  (endSession_only s).clk rfl
@[simp] theorem endSession_flt (s : State) : (endSession s).flt = s.flt :=
  (endSession_only s).flt rfl
@[simp] theorem endSession_mgt (s : State) : (endSession s).mgt = s.mgt :=
  (endSession_only s).mgt rfl
@[simp] theorem endSession_log (s : State) : (endSession s).log = s.log :=
  (endSession_only s).log rfl
@[simp] theorem endSession_owl (s : State) : (endSession s).owl = s.owl :=
  (endSession_only s).owl rfl
@[simp] theorem endSession_pwr (s : State) : (endSession s).pwr = s.pwr :=
  (endSession_only s).pwr rfl
@[simp] theorem endSession_led (s : State) : (endSession s).led = s.led :=
  (endSession_only s).led rfl
@[simp] theorem endSession_nv (s : State) : (endSession s).nv = s.nv :=
  (endSession_only s).nv rfl
@[simp] theorem endSession_hif (s : State) : (endSession s).hif = s.hif :=
  (endSession_only s).hif rfl
@[simp] theorem endSession_cmd (s : State) : (endSession s).cmd = s.cmd :=
  (endSession_only s).cmd rfl
@[simp] theorem endSession_ctxs (s : State) : (endSession s).ctxs = s.ctxs :=
  (endSession_only s).ctxs rfl
@[simp] theorem endSession_mems (s : State) : (endSession s).mems = s.mems :=
  (endSession_only s).mems rfl
@[simp] theorem endSession_evs (s : State) : (endSession s).evs = s.evs :=
  (endSession_only s).evs rfl
@[simp] theorem endSession_mem (s : State) : (endSession s).mem = s.mem :=
  (endSession_only s).mem rfl
@[simp] theorem endSession_poison (s : State) : (endSession s).poison = s.poison :=
  (endSession_only s).poison rfl
@[simp] theorem endSession_tsk (s : State) : (endSession s).tsk = s.tsk :=
  (endSession_only s).tsk rfl
@[simp] theorem endSession_hbm (s : State) : (endSession s).hbm = s.hbm :=
  (endSession_only s).hbm rfl
@[simp] theorem endSession_wmk (s : State) : (endSession s).wmk = s.wmk :=
  (endSession_only s).wmk rfl
@[simp] theorem endSession_col (s : State) : (endSession s).col = s.col :=
  (endSession_only s).col rfl
@[simp] theorem endSession_runners (s : State) : (endSession s).runners = s.runners :=
  (endSession_only s).runners rfl
@[simp] theorem endSession_admits (s : State) : (endSession s).admits = s.admits :=
  (endSession_only s).admits rfl
@[simp] theorem endSession_ing (s : State) : (endSession s).ing = s.ing :=
  (endSession_only s).ing rfl
@[simp] theorem endSession_ckp (s : State) : (endSession s).ckp = s.ckp :=
  (endSession_only s).ckp rfl
@[simp] theorem endSession_lcs (s : State) : (endSession s).lcs = s.lcs :=
  (endSession_only s).lcs rfl
@[simp] theorem endSession_mxe (s : State) : (endSession s).mxe = s.mxe :=
  (endSession_only s).mxe rfl
@[simp] theorem endSession_vcu (s : State) : (endSession s).vcu = s.vcu :=
  (endSession_only s).vcu rfl
@[simp] theorem endSession_svc (s : State) : (endSession s).svc = s.svc :=
  (endSession_only s).svc rfl

/-! ## `eraseKeys` -/

theorem eraseKeys_only (s : State) : Only 0x81804000 s (eraseKeys s) :=
  (eraseKeys_keeps (keeps_refl _ s) (sub_refl _) ).only

@[simp] theorem eraseKeys_pending (s : State) : (eraseKeys s).pending = s.pending :=
  (eraseKeys_keeps (keeps_refl _ s) (sub_refl _) ).pending
@[simp] theorem eraseKeys_out (s : State) : (eraseKeys s).out = s.out :=
  (eraseKeys_only s).out rfl
@[simp] theorem eraseKeys_draws (s : State) : (eraseKeys s).draws = s.draws :=
  (eraseKeys_only s).draws rfl
@[simp] theorem eraseKeys_now (s : State) : (eraseKeys s).now = s.now :=
  (eraseKeys_only s).now rfl
@[simp] theorem eraseKeys_hold64 (s : State) : (eraseKeys s).hold64 = s.hold64 :=
  (eraseKeys_only s).hold64 rfl
@[simp] theorem eraseKeys_latch64 (s : State) : (eraseKeys s).latch64 = s.latch64 :=
  (eraseKeys_only s).latch64 rfl
@[simp] theorem eraseKeys_mod (s : State) : (eraseKeys s).mod = s.mod :=
  (eraseKeys_only s).mod rfl
@[simp] theorem eraseKeys_clk (s : State) : (eraseKeys s).clk = s.clk :=
  (eraseKeys_only s).clk rfl
@[simp] theorem eraseKeys_flt (s : State) : (eraseKeys s).flt = s.flt :=
  (eraseKeys_only s).flt rfl
@[simp] theorem eraseKeys_mgt (s : State) : (eraseKeys s).mgt = s.mgt :=
  (eraseKeys_only s).mgt rfl
@[simp] theorem eraseKeys_log (s : State) : (eraseKeys s).log = s.log :=
  (eraseKeys_only s).log rfl
@[simp] theorem eraseKeys_owl (s : State) : (eraseKeys s).owl = s.owl :=
  (eraseKeys_only s).owl rfl
@[simp] theorem eraseKeys_pwr (s : State) : (eraseKeys s).pwr = s.pwr :=
  (eraseKeys_only s).pwr rfl
@[simp] theorem eraseKeys_led (s : State) : (eraseKeys s).led = s.led :=
  (eraseKeys_only s).led rfl
@[simp] theorem eraseKeys_nv (s : State) : (eraseKeys s).nv = s.nv :=
  (eraseKeys_only s).nv rfl
@[simp] theorem eraseKeys_cmd (s : State) : (eraseKeys s).cmd = s.cmd :=
  (eraseKeys_only s).cmd rfl
@[simp] theorem eraseKeys_ctxs (s : State) : (eraseKeys s).ctxs = s.ctxs :=
  (eraseKeys_only s).ctxs rfl
@[simp] theorem eraseKeys_mems (s : State) : (eraseKeys s).mems = s.mems :=
  (eraseKeys_only s).mems rfl
@[simp] theorem eraseKeys_evs (s : State) : (eraseKeys s).evs = s.evs :=
  (eraseKeys_only s).evs rfl
@[simp] theorem eraseKeys_mem (s : State) : (eraseKeys s).mem = s.mem :=
  (eraseKeys_only s).mem rfl
@[simp] theorem eraseKeys_poison (s : State) : (eraseKeys s).poison = s.poison :=
  (eraseKeys_only s).poison rfl
@[simp] theorem eraseKeys_tsk (s : State) : (eraseKeys s).tsk = s.tsk :=
  (eraseKeys_only s).tsk rfl
@[simp] theorem eraseKeys_hbm (s : State) : (eraseKeys s).hbm = s.hbm :=
  (eraseKeys_only s).hbm rfl
@[simp] theorem eraseKeys_wmk (s : State) : (eraseKeys s).wmk = s.wmk :=
  (eraseKeys_only s).wmk rfl
@[simp] theorem eraseKeys_col (s : State) : (eraseKeys s).col = s.col :=
  (eraseKeys_only s).col rfl
@[simp] theorem eraseKeys_runners (s : State) : (eraseKeys s).runners = s.runners :=
  (eraseKeys_only s).runners rfl
@[simp] theorem eraseKeys_admits (s : State) : (eraseKeys s).admits = s.admits :=
  (eraseKeys_only s).admits rfl
@[simp] theorem eraseKeys_ing (s : State) : (eraseKeys s).ing = s.ing :=
  (eraseKeys_only s).ing rfl
@[simp] theorem eraseKeys_ckp (s : State) : (eraseKeys s).ckp = s.ckp :=
  (eraseKeys_only s).ckp rfl
@[simp] theorem eraseKeys_lcs (s : State) : (eraseKeys s).lcs = s.lcs :=
  (eraseKeys_only s).lcs rfl
@[simp] theorem eraseKeys_mxe (s : State) : (eraseKeys s).mxe = s.mxe :=
  (eraseKeys_only s).mxe rfl
@[simp] theorem eraseKeys_vcu (s : State) : (eraseKeys s).vcu = s.vcu :=
  (eraseKeys_only s).vcu rfl
@[simp] theorem eraseKeys_svc (s : State) : (eraseKeys s).svc = s.svc :=
  (eraseKeys_only s).svc rfl

/-! ## `carryAlarms` -/

theorem carryAlarms_only (s : State) : Only 0x80002280 s (carryAlarms s) :=
  (carryAlarms_keeps (keeps_refl _ s) (sub_refl _) ).only

@[simp] theorem carryAlarms_pending (s : State) : (carryAlarms s).pending = s.pending :=
  (carryAlarms_keeps (keeps_refl _ s) (sub_refl _) ).pending
@[simp] theorem carryAlarms_out (s : State) : (carryAlarms s).out = s.out :=
  (carryAlarms_only s).out rfl
@[simp] theorem carryAlarms_draws (s : State) : (carryAlarms s).draws = s.draws :=
  (carryAlarms_only s).draws rfl
@[simp] theorem carryAlarms_now (s : State) : (carryAlarms s).now = s.now :=
  (carryAlarms_only s).now rfl
@[simp] theorem carryAlarms_hold64 (s : State) : (carryAlarms s).hold64 = s.hold64 :=
  (carryAlarms_only s).hold64 rfl
@[simp] theorem carryAlarms_latch64 (s : State) : (carryAlarms s).latch64 = s.latch64 :=
  (carryAlarms_only s).latch64 rfl
@[simp] theorem carryAlarms_mod (s : State) : (carryAlarms s).mod = s.mod :=
  (carryAlarms_only s).mod rfl
@[simp] theorem carryAlarms_clk (s : State) : (carryAlarms s).clk = s.clk :=
  (carryAlarms_only s).clk rfl
@[simp] theorem carryAlarms_mgt (s : State) : (carryAlarms s).mgt = s.mgt :=
  (carryAlarms_only s).mgt rfl
@[simp] theorem carryAlarms_owl (s : State) : (carryAlarms s).owl = s.owl :=
  (carryAlarms_only s).owl rfl
@[simp] theorem carryAlarms_pwr (s : State) : (carryAlarms s).pwr = s.pwr :=
  (carryAlarms_only s).pwr rfl
@[simp] theorem carryAlarms_led (s : State) : (carryAlarms s).led = s.led :=
  (carryAlarms_only s).led rfl
@[simp] theorem carryAlarms_hif (s : State) : (carryAlarms s).hif = s.hif :=
  (carryAlarms_only s).hif rfl
@[simp] theorem carryAlarms_cmd (s : State) : (carryAlarms s).cmd = s.cmd :=
  (carryAlarms_only s).cmd rfl
@[simp] theorem carryAlarms_ctxs (s : State) : (carryAlarms s).ctxs = s.ctxs :=
  (carryAlarms_only s).ctxs rfl
@[simp] theorem carryAlarms_mems (s : State) : (carryAlarms s).mems = s.mems :=
  (carryAlarms_only s).mems rfl
@[simp] theorem carryAlarms_evs (s : State) : (carryAlarms s).evs = s.evs :=
  (carryAlarms_only s).evs rfl
@[simp] theorem carryAlarms_mem (s : State) : (carryAlarms s).mem = s.mem :=
  (carryAlarms_only s).mem rfl
@[simp] theorem carryAlarms_poison (s : State) : (carryAlarms s).poison = s.poison :=
  (carryAlarms_only s).poison rfl
@[simp] theorem carryAlarms_tsk (s : State) : (carryAlarms s).tsk = s.tsk :=
  (carryAlarms_only s).tsk rfl
@[simp] theorem carryAlarms_hbm (s : State) : (carryAlarms s).hbm = s.hbm :=
  (carryAlarms_only s).hbm rfl
@[simp] theorem carryAlarms_ime (s : State) : (carryAlarms s).ime = s.ime :=
  (carryAlarms_only s).ime rfl
@[simp] theorem carryAlarms_lnk (s : State) : (carryAlarms s).lnk = s.lnk :=
  (carryAlarms_only s).lnk rfl
@[simp] theorem carryAlarms_wmk (s : State) : (carryAlarms s).wmk = s.wmk :=
  (carryAlarms_only s).wmk rfl
@[simp] theorem carryAlarms_col (s : State) : (carryAlarms s).col = s.col :=
  (carryAlarms_only s).col rfl
@[simp] theorem carryAlarms_runners (s : State) : (carryAlarms s).runners = s.runners :=
  (carryAlarms_only s).runners rfl
@[simp] theorem carryAlarms_admits (s : State) : (carryAlarms s).admits = s.admits :=
  (carryAlarms_only s).admits rfl
@[simp] theorem carryAlarms_ing (s : State) : (carryAlarms s).ing = s.ing :=
  (carryAlarms_only s).ing rfl
@[simp] theorem carryAlarms_ckp (s : State) : (carryAlarms s).ckp = s.ckp :=
  (carryAlarms_only s).ckp rfl
@[simp] theorem carryAlarms_lcs (s : State) : (carryAlarms s).lcs = s.lcs :=
  (carryAlarms_only s).lcs rfl
@[simp] theorem carryAlarms_mxe (s : State) : (carryAlarms s).mxe = s.mxe :=
  (carryAlarms_only s).mxe rfl
@[simp] theorem carryAlarms_vcu (s : State) : (carryAlarms s).vcu = s.vcu :=
  (carryAlarms_only s).vcu rfl
@[simp] theorem carryAlarms_svc (s : State) : (carryAlarms s).svc = s.svc :=
  (carryAlarms_only s).svc rfl

/-! ## `tamperAlarm` -/

theorem tamperAlarm_only (code : Nat) (s : State) : Only 0x80002000 s (tamperAlarm code s) :=
  (tamperAlarm_keeps (keeps_refl _ s) (sub_refl _) code).only

@[simp] theorem tamperAlarm_pending (code : Nat) (s : State) : (tamperAlarm code s).pending = s.pending :=
  (tamperAlarm_keeps (keeps_refl _ s) (sub_refl _) code).pending
@[simp] theorem tamperAlarm_out (code : Nat) (s : State) : (tamperAlarm code s).out = s.out :=
  (tamperAlarm_only code s).out rfl
@[simp] theorem tamperAlarm_draws (code : Nat) (s : State) : (tamperAlarm code s).draws = s.draws :=
  (tamperAlarm_only code s).draws rfl
@[simp] theorem tamperAlarm_now (code : Nat) (s : State) : (tamperAlarm code s).now = s.now :=
  (tamperAlarm_only code s).now rfl
@[simp] theorem tamperAlarm_hold64 (code : Nat) (s : State) : (tamperAlarm code s).hold64 = s.hold64 :=
  (tamperAlarm_only code s).hold64 rfl
@[simp] theorem tamperAlarm_latch64 (code : Nat) (s : State) : (tamperAlarm code s).latch64 = s.latch64 :=
  (tamperAlarm_only code s).latch64 rfl
@[simp] theorem tamperAlarm_mod (code : Nat) (s : State) : (tamperAlarm code s).mod = s.mod :=
  (tamperAlarm_only code s).mod rfl
@[simp] theorem tamperAlarm_clk (code : Nat) (s : State) : (tamperAlarm code s).clk = s.clk :=
  (tamperAlarm_only code s).clk rfl
@[simp] theorem tamperAlarm_flt (code : Nat) (s : State) : (tamperAlarm code s).flt = s.flt :=
  (tamperAlarm_only code s).flt rfl
@[simp] theorem tamperAlarm_mgt (code : Nat) (s : State) : (tamperAlarm code s).mgt = s.mgt :=
  (tamperAlarm_only code s).mgt rfl
@[simp] theorem tamperAlarm_log (code : Nat) (s : State) : (tamperAlarm code s).log = s.log :=
  (tamperAlarm_only code s).log rfl
@[simp] theorem tamperAlarm_owl (code : Nat) (s : State) : (tamperAlarm code s).owl = s.owl :=
  (tamperAlarm_only code s).owl rfl
@[simp] theorem tamperAlarm_pwr (code : Nat) (s : State) : (tamperAlarm code s).pwr = s.pwr :=
  (tamperAlarm_only code s).pwr rfl
@[simp] theorem tamperAlarm_led (code : Nat) (s : State) : (tamperAlarm code s).led = s.led :=
  (tamperAlarm_only code s).led rfl
@[simp] theorem tamperAlarm_hif (code : Nat) (s : State) : (tamperAlarm code s).hif = s.hif :=
  (tamperAlarm_only code s).hif rfl
@[simp] theorem tamperAlarm_cmd (code : Nat) (s : State) : (tamperAlarm code s).cmd = s.cmd :=
  (tamperAlarm_only code s).cmd rfl
@[simp] theorem tamperAlarm_ctxs (code : Nat) (s : State) : (tamperAlarm code s).ctxs = s.ctxs :=
  (tamperAlarm_only code s).ctxs rfl
@[simp] theorem tamperAlarm_mems (code : Nat) (s : State) : (tamperAlarm code s).mems = s.mems :=
  (tamperAlarm_only code s).mems rfl
@[simp] theorem tamperAlarm_evs (code : Nat) (s : State) : (tamperAlarm code s).evs = s.evs :=
  (tamperAlarm_only code s).evs rfl
@[simp] theorem tamperAlarm_mem (code : Nat) (s : State) : (tamperAlarm code s).mem = s.mem :=
  (tamperAlarm_only code s).mem rfl
@[simp] theorem tamperAlarm_poison (code : Nat) (s : State) : (tamperAlarm code s).poison = s.poison :=
  (tamperAlarm_only code s).poison rfl
@[simp] theorem tamperAlarm_tsk (code : Nat) (s : State) : (tamperAlarm code s).tsk = s.tsk :=
  (tamperAlarm_only code s).tsk rfl
@[simp] theorem tamperAlarm_hbm (code : Nat) (s : State) : (tamperAlarm code s).hbm = s.hbm :=
  (tamperAlarm_only code s).hbm rfl
@[simp] theorem tamperAlarm_ime (code : Nat) (s : State) : (tamperAlarm code s).ime = s.ime :=
  (tamperAlarm_only code s).ime rfl
@[simp] theorem tamperAlarm_lnk (code : Nat) (s : State) : (tamperAlarm code s).lnk = s.lnk :=
  (tamperAlarm_only code s).lnk rfl
@[simp] theorem tamperAlarm_wmk (code : Nat) (s : State) : (tamperAlarm code s).wmk = s.wmk :=
  (tamperAlarm_only code s).wmk rfl
@[simp] theorem tamperAlarm_col (code : Nat) (s : State) : (tamperAlarm code s).col = s.col :=
  (tamperAlarm_only code s).col rfl
@[simp] theorem tamperAlarm_runners (code : Nat) (s : State) : (tamperAlarm code s).runners = s.runners :=
  (tamperAlarm_only code s).runners rfl
@[simp] theorem tamperAlarm_admits (code : Nat) (s : State) : (tamperAlarm code s).admits = s.admits :=
  (tamperAlarm_only code s).admits rfl
@[simp] theorem tamperAlarm_ing (code : Nat) (s : State) : (tamperAlarm code s).ing = s.ing :=
  (tamperAlarm_only code s).ing rfl
@[simp] theorem tamperAlarm_ckp (code : Nat) (s : State) : (tamperAlarm code s).ckp = s.ckp :=
  (tamperAlarm_only code s).ckp rfl
@[simp] theorem tamperAlarm_lcs (code : Nat) (s : State) : (tamperAlarm code s).lcs = s.lcs :=
  (tamperAlarm_only code s).lcs rfl
@[simp] theorem tamperAlarm_mxe (code : Nat) (s : State) : (tamperAlarm code s).mxe = s.mxe :=
  (tamperAlarm_only code s).mxe rfl
@[simp] theorem tamperAlarm_vcu (code : Nat) (s : State) : (tamperAlarm code s).vcu = s.vcu :=
  (tamperAlarm_only code s).vcu rfl
@[simp] theorem tamperAlarm_svc (code : Nat) (s : State) : (tamperAlarm code s).svc = s.svc :=
  (tamperAlarm_only code s).svc rfl

/-! ## `unitWorkFails` -/

theorem unitWorkFails_only (u : Nat) (s : State) : Only 0xe6fff8001 s (unitWorkFails u s) :=
  (unitWorkFails_keeps (keeps_refl _ s) (sub_refl _) u).only

@[simp] theorem unitWorkFails_clk (u : Nat) (s : State) : (unitWorkFails u s).clk = s.clk :=
  (unitWorkFails_only u s).clk rfl
@[simp] theorem unitWorkFails_flt (u : Nat) (s : State) : (unitWorkFails u s).flt = s.flt :=
  (unitWorkFails_only u s).flt rfl
@[simp] theorem unitWorkFails_nv (u : Nat) (s : State) : (unitWorkFails u s).nv = s.nv :=
  (unitWorkFails_only u s).nv rfl
@[simp] theorem unitWorkFails_sec (u : Nat) (s : State) : (unitWorkFails u s).sec = s.sec :=
  (unitWorkFails_only u s).sec rfl

/-! ## `wipeUnit` -/

theorem wipeUnit_only (kind : Nat) (index : Nat) (s : State) : Only 0xe00000000 s (wipeUnit kind index s) :=
  (wipeUnit_keeps (keeps_refl _ s) (sub_refl _) kind index).only

@[simp] theorem wipeUnit_clk (kind : Nat) (index : Nat) (s : State) : (wipeUnit kind index s).clk = s.clk :=
  (wipeUnit_only kind index s).clk rfl
@[simp] theorem wipeUnit_flt (kind : Nat) (index : Nat) (s : State) : (wipeUnit kind index s).flt = s.flt :=
  (wipeUnit_only kind index s).flt rfl
@[simp] theorem wipeUnit_nv (kind : Nat) (index : Nat) (s : State) : (wipeUnit kind index s).nv = s.nv :=
  (wipeUnit_only kind index s).nv rfl
@[simp] theorem wipeUnit_sec (kind : Nat) (index : Nat) (s : State) : (wipeUnit kind index s).sec = s.sec :=
  (wipeUnit_only kind index s).sec rfl

/-! ## `failTasks` -/

theorem failTasks_only (ts : List (Nat × Nat)) (poison : Bool) (s : State) : Only 0xe6fff8001 s (failTasks ts poison
    s) :=
  (failTasks_keeps (keeps_refl _ s) (sub_refl _) ts poison).only

@[simp] theorem failTasks_clk (ts : List (Nat × Nat)) (poison : Bool) (s : State) : (failTasks ts poison s).clk =
    s.clk :=
  (failTasks_only ts poison s).clk rfl
@[simp] theorem failTasks_flt (ts : List (Nat × Nat)) (poison : Bool) (s : State) : (failTasks ts poison s).flt =
    s.flt :=
  (failTasks_only ts poison s).flt rfl
@[simp] theorem failTasks_sec (ts : List (Nat × Nat)) (poison : Bool) (s : State) : (failTasks ts poison s).sec =
    s.sec :=
  (failTasks_only ts poison s).sec rfl

/-! ## `partOps` -/

theorem partOps_only (p : Nat) (s : State) : Only 0x86ffe8001 s (partOps p s) :=
  (partOps_keeps (keeps_refl _ s) (sub_refl _) p).only

@[simp] theorem partOps_clk (p : Nat) (s : State) : (partOps p s).clk = s.clk :=
  (partOps_only p s).clk rfl
@[simp] theorem partOps_flt (p : Nat) (s : State) : (partOps p s).flt = s.flt :=
  (partOps_only p s).flt rfl
@[simp] theorem partOps_sec (p : Nat) (s : State) : (partOps p s).sec = s.sec :=
  (partOps_only p s).sec rfl

/-! ## `ckpPartition` -/

theorem ckpPartition_only (p : Nat) (s : State) : Only 0x86ffe8001 s (ckpPartition p s) :=
  (ckpPartition_keeps (keeps_refl _ s) (sub_refl _) p).only

@[simp] theorem ckpPartition_clk (p : Nat) (s : State) : (ckpPartition p s).clk = s.clk :=
  (ckpPartition_only p s).clk rfl
@[simp] theorem ckpPartition_flt (p : Nat) (s : State) : (ckpPartition p s).flt = s.flt :=
  (ckpPartition_only p s).flt rfl
@[simp] theorem ckpPartition_sec (p : Nat) (s : State) : (ckpPartition p s).sec = s.sec :=
  (ckpPartition_only p s).sec rfl

/-! ## `faultHomed` -/

theorem faultHomed_only (p : Nat) (s : State) : Only 0xe6fff8001 s (faultHomed p s) :=
  (faultHomed_keeps (keeps_refl _ s) (sub_refl _) p).only

@[simp] theorem faultHomed_clk (p : Nat) (s : State) : (faultHomed p s).clk = s.clk :=
  (faultHomed_only p s).clk rfl
@[simp] theorem faultHomed_flt (p : Nat) (s : State) : (faultHomed p s).flt = s.flt :=
  (faultHomed_only p s).flt rfl
@[simp] theorem faultHomed_sec (p : Nat) (s : State) : (faultHomed p s).sec = s.sec :=
  (faultHomed_only p s).sec rfl

/-! ## `loseEvents` -/

theorem loseEvents_only (p : Nat) (s : State) : Only 0x86ffe8001 s (loseEvents p s) :=
  (loseEvents_keeps (keeps_refl _ s) (sub_refl _) p).only

@[simp] theorem loseEvents_clk (p : Nat) (s : State) : (loseEvents p s).clk = s.clk :=
  (loseEvents_only p s).clk rfl
@[simp] theorem loseEvents_flt (p : Nat) (s : State) : (loseEvents p s).flt = s.flt :=
  (loseEvents_only p s).flt rfl
@[simp] theorem loseEvents_sec (p : Nat) (s : State) : (loseEvents p s).sec = s.sec :=
  (loseEvents_only p s).sec rfl

/-! ## `landLoss` -/

theorem landLoss_only (p : Nat) (s : State) : Only 0x20408000 s (landLoss p s) :=
  (landLoss_keeps (keeps_refl _ s) (sub_refl _) p).only

@[simp] theorem landLoss_clk (p : Nat) (s : State) : (landLoss p s).clk = s.clk :=
  (landLoss_only p s).clk rfl
@[simp] theorem landLoss_flt (p : Nat) (s : State) : (landLoss p s).flt = s.flt :=
  (landLoss_only p s).flt rfl
@[simp] theorem landLoss_sec (p : Nat) (s : State) : (landLoss p s).sec = s.sec :=
  (landLoss_only p s).sec rfl

/-! ## `losePartData` -/

theorem losePartData_only (p : Nat) (s : State) : Only 0x5a8000 s (losePartData p s) :=
  (losePartData_keeps (keeps_refl _ s) (sub_refl _) p).only

@[simp] theorem losePartData_clk (p : Nat) (s : State) : (losePartData p s).clk = s.clk :=
  (losePartData_only p s).clk rfl
@[simp] theorem losePartData_flt (p : Nat) (s : State) : (losePartData p s).flt = s.flt :=
  (losePartData_only p s).flt rfl
@[simp] theorem losePartData_sec (p : Nat) (s : State) : (losePartData p s).sec = s.sec :=
  (losePartData_only p s).sec rfl

/-! ## `partStacks` -/

theorem partStacks_only (p : Nat) (st : Nat) (s : State) : Only 0x400000 s (partStacks p st s) :=
  (partStacks_keeps (keeps_refl _ s) (sub_refl _) p st).only

@[simp] theorem partStacks_clk (p : Nat) (st : Nat) (s : State) : (partStacks p st s).clk = s.clk :=
  (partStacks_only p st s).clk rfl
@[simp] theorem partStacks_flt (p : Nat) (st : Nat) (s : State) : (partStacks p st s).flt = s.flt :=
  (partStacks_only p st s).flt rfl
@[simp] theorem partStacks_sec (p : Nat) (st : Nat) (s : State) : (partStacks p st s).sec = s.sec :=
  (partStacks_only p st s).sec rfl

/-! ## `partPortsDown` -/

theorem partPortsDown_only (part : Nat) (s : State) : Only 0x5008000 s (partPortsDown part s) :=
  (partPortsDown_keeps (keeps_refl _ s) (sub_refl _) part).only

@[simp] theorem partPortsDown_clk (part : Nat) (s : State) : (partPortsDown part s).clk = s.clk :=
  (partPortsDown_only part s).clk rfl
@[simp] theorem partPortsDown_flt (part : Nat) (s : State) : (partPortsDown part s).flt = s.flt :=
  (partPortsDown_only part s).flt rfl
@[simp] theorem partPortsDown_sec (part : Nat) (s : State) : (partPortsDown part s).sec = s.sec :=
  (partPortsDown_only part s).sec rfl

/-! ## `wipePartition` -/

theorem wipePartition_only (p : Nat) (s : State) : Only 0xe00000000 s (wipePartition p s) :=
  (wipePartition_keeps (keeps_refl _ s) (sub_refl _) p).only

@[simp] theorem wipePartition_clk (p : Nat) (s : State) : (wipePartition p s).clk = s.clk :=
  (wipePartition_only p s).clk rfl
@[simp] theorem wipePartition_flt (p : Nat) (s : State) : (wipePartition p s).flt = s.flt :=
  (wipePartition_only p s).flt rfl
@[simp] theorem wipePartition_sec (p : Nat) (s : State) : (wipePartition p s).sec = s.sec :=
  (wipePartition_only p s).sec rfl

/-! ## `portTrain` -/

theorem portTrain_only (p : Nat) (s : State) : Only 0x5008000 s (portTrain p s) :=
  (portTrain_keeps (keeps_refl _ s) (sub_refl _) p).only

@[simp] theorem portTrain_clk (p : Nat) (s : State) : (portTrain p s).clk = s.clk :=
  (portTrain_only p s).clk rfl
@[simp] theorem portTrain_flt (p : Nat) (s : State) : (portTrain p s).flt = s.flt :=
  (portTrain_only p s).flt rfl
@[simp] theorem portTrain_hbm (p : Nat) (s : State) : (portTrain p s).hbm = s.hbm :=
  (portTrain_only p s).hbm rfl

/-! ## `startOffline` -/

theorem startOffline_only (p : Nat) (s : State) : Only 0x400040 s (startOffline p s) :=
  (startOffline_keeps (keeps_refl _ s) (sub_refl _) p).only

@[simp] theorem startOffline_flt (p : Nat) (s : State) : (startOffline p s).flt = s.flt :=
  (startOffline_only p s).flt rfl

/-! ## `retireCluster` -/

theorem retireCluster_only (c : Nat) (cause : Nat) (slack : Nat) (s : State) : Only 0xe6fffa601 s (retireCluster c
    cause slack s) :=
  (retireCluster_keeps (keeps_refl _ s) (sub_refl _) c cause slack).only

@[simp] theorem retireCluster_flt (c : Nat) (cause : Nat) (slack : Nat) (s : State) : (retireCluster c cause slack
    s).flt = s.flt :=
  (retireCluster_only c cause slack s).flt rfl

end Sys2Proof.Laws
end

