-- ==== Sys2Proof/Laws/Tables.lean ====
section
/-!
SUPPORT. Sys2Proof/Laws/Tables.lean: what a table holds after each operation on it.
-/
namespace Sys2Proof.Laws
open Sys2Proof

variable {α : Type}

@[simp] theorem tget_nil (k : Nat) : tget ([] : Tbl α) k = none := rfl

@[simp] theorem tget_tput_same (t : Tbl α) (k : Nat) (a : α) : tget (tput t k a) k = some a := by
  induction t with
  | nil => simp [tput, tget]
  | cons e t ih =>
    obtain ⟨j, b⟩ := e
    unfold tput
    split
    · simp [tget]
    · split
      · simp [tget]
      · rename_i h
        simp [tget, h, ih]

theorem tget_tput_ne (t : Tbl α) {k l : Nat} (a : α) (h : l ≠ k) : tget (tput t k a) l = tget t l := by
  induction t with
  | nil => simp [tput, tget, Ne.symm h]
  | cons e t ih =>
    obtain ⟨j, b⟩ := e
    unfold tput
    split
    · simp [tget, Ne.symm h]
    · split
      · rename_i e
        subst e
        simp [tget, Ne.symm h]
      · simp [tget, ih]

theorem tget_tput (t : Tbl α) (k l : Nat) (a : α) : tget (tput t k a) l = if l = k then some a else tget t l := by
  split
  · rename_i e
    subst e
    simp
  · exact tget_tput_ne t a ‹_›

@[simp] theorem tgetD_tput_same (t : Tbl α) (k : Nat) (a d : α) : tgetD (tput t k a) k d = a := by
  simp [tgetD]

theorem tgetD_tput_ne (t : Tbl α) {k l : Nat} (a d : α) (h : l ≠ k) : tgetD (tput t k a) l d = tgetD t l d := by
  simp [tgetD, tget_tput_ne t a h]

@[simp] theorem tget_tmod_same (t : Tbl α) (k : Nat) (f : α → α) : tget (tmod t k f) k = (tget t k).map f := by
  induction t with
  | nil => rfl
  | cons e t ih =>
    obtain ⟨j, b⟩ := e
    unfold tmod
    split
    · rename_i e
      simp [tget, e]
    · rename_i h
      simp [tget, h, ih]

theorem tget_tmod_ne (t : Tbl α) {k l : Nat} (f : α → α) (h : l ≠ k) : tget (tmod t k f) l = tget t l := by
  induction t with
  | nil => rfl
  | cons e t ih =>
    obtain ⟨j, b⟩ := e
    unfold tmod
    split
    · rename_i e
      subst e
      simp [tget, Ne.symm h]
    · simp [tget, ih]

@[simp] theorem tget_tupd_same (t : Tbl α) (k : Nat) (d : α) (f : α → α) :
    tget (tupd t k d f) k = some (f (tgetD t k d)) := by
  simp [tupd]

@[simp] theorem tgetD_tupd_same (t : Tbl α) (k : Nat) (d e : α) (f : α → α) :
    tgetD (tupd t k d f) k e = f (tgetD t k d) := by
  simp [tgetD]

theorem tget_tupd_ne (t : Tbl α) {k l : Nat} (d : α) (f : α → α) (h : l ≠ k) : tget (tupd t k d f) l = tget t l := by
  simp [tupd, tget_tput_ne t _ h]

theorem tgetD_tupd_ne (t : Tbl α) {k l : Nat} (d e : α) (f : α → α) (h : l ≠ k) :
    tgetD (tupd t k d f) l e = tgetD t l e := by
  simp [tgetD, tget_tupd_ne t d f h]

theorem tget_tdel_ne (t : Tbl α) {k l : Nat} (h : l ≠ k) : tget (tdel t k) l = tget t l := by
  induction t with
  | nil => rfl
  | cons e t ih =>
    obtain ⟨j, b⟩ := e
    unfold tdel
    split
    · rename_i e
      subst e
      simp [tget, Ne.symm h]
    · simp [tget, ih]

theorem tget_tmapv (t : Tbl α) (f : Nat → α → α) (k : Nat) : tget (tmapv t f) k = (tget t k).map (f k) := by
  induction t with
  | nil => rfl
  | cons e t ih =>
    obtain ⟨j, b⟩ := e
    unfold tmapv at ih ⊢
    simp only [List.map_cons, tget]
    split
    · rename_i e
      simp [e]
    · exact ih

@[simp] theorem thas_tput_same (t : Tbl α) (k : Nat) (a : α) : thas (tput t k a) k = true := by simp [thas]

end Sys2Proof.Laws
end

