-- ==== Sys2Proof/Laws/Lookup.lean ====
section
/-!
SUPPORT. Sys2Proof/Laws/Lookup.lean: what a keyed part of the state holds after a change of one of its entries.
-/
namespace Sys2Proof.Laws
open Sys2Proof.Machine

@[simp] theorem ckpOf_modCc (k : Nat) (f : CkpCtx → CkpCtx) (s : State) : ckpOf (modCc k f s) k = f (ckpOf s k) := by
  simp [ckpOf, modCc]

theorem ckpOf_modCc_ne {k l : Nat} (f : CkpCtx → CkpCtx) (s : State) (h : l ≠ k) : ckpOf (modCc k f s) l = ckpOf s l := by
  simp [ckpOf, modCc, tgetD_tupd_ne _ _ _ _ h]

@[simp] theorem engAt_modEng (k : Nat) (f : Engine → Engine) (s : State) : engAt (modEng k f s) k = f (engAt s k) := by
  simp [engAt, modEng]

theorem engAt_modEng_ne {k l : Nat} (f : Engine → Engine) (s : State) (h : l ≠ k) : engAt (modEng k f s) l = engAt s l := by
  simp [engAt, modEng, tgetD_tupd_ne _ _ _ _ h]

@[simp] theorem vcoreAt_modVCore (k : Nat) (f : VCore → VCore) (s : State) : vcoreAt (modVCore k f s) k = f (vcoreAt s k) := by
  simp [vcoreAt, modVCore]

theorem vcoreAt_modVCore_ne {k l : Nat} (f : VCore → VCore) (s : State) (h : l ≠ k) : vcoreAt (modVCore k f s) l = vcoreAt s l := by
  simp [vcoreAt, modVCore, tgetD_tupd_ne _ _ _ _ h]

@[simp] theorem vcluAt_modVclu (k : Nat) (f : VcuClu → VcuClu) (s : State) : vcluAt (modVclu k f s) k = f (vcluAt s k) := by
  simp [vcluAt, modVclu]

theorem vcluAt_modVclu_ne {k l : Nat} (f : VcuClu → VcuClu) (s : State) (h : l ≠ k) : vcluAt (modVclu k f s) l = vcluAt s l := by
  simp [vcluAt, modVclu, tgetD_tupd_ne _ _ _ _ h]

@[simp] theorem svcAt_modSvcCore (k : Nat) (f : SvcCore → SvcCore) (s : State) : svcAt (modSvcCore k f s) k = f (svcAt s k) := by
  simp [svcAt, modSvcCore]

theorem svcAt_modSvcCore_ne {k l : Nat} (f : SvcCore → SvcCore) (s : State) (h : l ≠ k) : svcAt (modSvcCore k f s) l = svcAt s l := by
  simp [svcAt, modSvcCore, tgetD_tupd_ne _ _ _ _ h]

@[simp] theorem cipherAt_modCipher (k : Nat) (f : Cipher → Cipher) (s : State) : cipherAt (modCipher k f s) k = f (cipherAt s k) := by
  simp [cipherAt, modCipher]

theorem cipherAt_modCipher_ne {k l : Nat} (f : Cipher → Cipher) (s : State) (h : l ≠ k) : cipherAt (modCipher k f s) l = cipherAt s l := by
  simp [cipherAt, modCipher, tgetD_tupd_ne _ _ _ _ h]

@[simp] theorem vfOf_modVf (k : Nat) (f : VfEntry → VfEntry) (s : State) : vfOf (modVf k f s) k = f (vfOf s k) := by
  simp [vfOf, modVf]

theorem vfOf_modVf_ne {k l : Nat} (f : VfEntry → VfEntry) (s : State) (h : l ≠ k) : vfOf (modVf k f s) l = vfOf s l := by
  simp [vfOf, modVf, tgetD_tupd_ne _ _ _ _ h]

@[simp] theorem stackAt_modStack (k : Nat) (f : Stack → Stack) (s : State) : stackAt (modStack k f s) k = f (stackAt s k) := by
  simp [stackAt, modStack]

theorem stackAt_modStack_ne {k l : Nat} (f : Stack → Stack) (s : State) (h : l ≠ k) : stackAt (modStack k f s) l = stackAt s l := by
  simp [stackAt, modStack, tgetD_tupd_ne _ _ _ _ h]

@[simp] theorem repairOf_modRepair (k : Nat) (f : RepairRec → RepairRec) (s : State) : repairOf (modRepair k f s) k = f (repairOf s k) := by
  simp [repairOf, modRepair]

theorem repairOf_modRepair_ne {k l : Nat} (f : RepairRec → RepairRec) (s : State) (h : l ≠ k) : repairOf (modRepair k f s) l = repairOf s l := by
  simp [repairOf, modRepair, tgetD_tupd_ne _ _ _ _ h]

@[simp] theorem portOf_modPort (k : Nat) (f : Port → Port) (s : State) : portOf (modPort k f s) k = f (portOf s k) := by
  unfold portOf modPort
  simp

theorem portOf_modPort_ne {k l : Nat} (f : Port → Port) (s : State) (h : l ≠ k) : portOf (modPort k f s) l = portOf s l := by
  simp only [portOf, modPort, modLnk_lnk, tgetD_tupd_ne _ _ _ _ h]
  rfl

@[simp] theorem pageOf_modPage (k : Nat) (f : SvqPage → SvqPage) (s : State) : pageOf (modPage k f s) k = f (pageOf s k) := by
  simp [pageOf, modPage]

theorem pageOf_modPage_ne {k l : Nat} (f : SvqPage → SvqPage) (s : State) (h : l ≠ k) : pageOf (modPage k f s) l = pageOf s l := by
  simp [pageOf, modPage, tgetD_tupd_ne _ _ _ _ h]

@[simp] theorem cluAt_modClu (k : Nat) (f : CluStore → CluStore) (s : State) : cluAt (modClu k f s) k = f (cluAt s k) := by
  simp [cluAt, modClu]

theorem cluAt_modClu_ne {k l : Nat} (f : CluStore → CluStore) (s : State) (h : l ≠ k) : cluAt (modClu k f s) l = cluAt s l := by
  simp [cluAt, modClu, tgetD_tupd_ne _ _ _ _ h]

@[simp] theorem cluPlan_modPlan (k : Nat) (f : CluPlan → CluPlan) (s : State) : cluPlan (modPlan k f s) k = f (cluPlan s k) := by
  simp [cluPlan, modPlan]

theorem cluPlan_modPlan_ne {k l : Nat} (f : CluPlan → CluPlan) (s : State) (h : l ≠ k) : cluPlan (modPlan k f s) l = cluPlan s l := by
  simp [cluPlan, modPlan, tget_tput_ne _ _ h, tgetD_tput_ne _ _ _ h]

@[simp] theorem colEng_modColEng (k : Nat) (f : ColEngine → ColEngine) (s : State) : colEng (modColEng k f s) k = f (colEng s k) := by
  simp [colEng, modColEng]

theorem colEng_modColEng_ne {k l : Nat} (f : ColEngine → ColEngine) (s : State) (h : l ≠ k) : colEng (modColEng k f s) l = colEng s l := by
  simp [colEng, modColEng, tget_tput_ne _ _ h, tgetD_tput_ne _ _ _ h]

@[simp] theorem ideOf_modIde (k : Nat) (f : IdeStream → IdeStream) (s : State) : ideOf (modIde k f s) k = f (ideOf s k) := by
  simp [ideOf, modIde]

theorem ideOf_modIde_ne {k l : Nat} (f : IdeStream → IdeStream) (s : State) (h : l ≠ k) : ideOf (modIde k f s) l = ideOf s l := by
  simp [ideOf, modIde, tget_tput_ne _ _ h, tgetD_tput_ne _ _ _ h]

@[simp] theorem halfOf_halfDrop (l : List (Reg × Word)) (r : Reg) : halfOf (halfDrop l r) r = none := by
  simp [halfOf, halfDrop, List.find?_eq_none]

theorem halfOf_halfDrop_ne (l : List (Reg × Word)) {r q : Reg} (h : q ≠ r) : halfOf (halfDrop l r) q = halfOf l q := by
  unfold halfOf halfDrop
  congr 1
  induction l with
  | nil => rfl
  | cons e l ih =>
    by_cases k : e.1 = r
    · have n : e.1 ≠ q := fun x => h (x.symm.trans k)
      simp only [List.filter_cons, ne_eq, k, not_true_eq_false, decide_false, List.find?_cons]
      rw [if_neg (by simp), ih]
      simp [show ¬ r = q from fun x => h x.symm]
    · simp only [List.filter_cons, ne_eq, k, not_false_eq_true, decide_true, if_true, List.find?_cons]
      split
      · rfl
      · exact ih

@[simp] theorem halfOf_cons (l : List (Reg × Word)) (r : Reg) (v : Word) : halfOf ((r, v) :: l) r = some v := by
  simp [halfOf]

theorem halfOf_cons_ne (l : List (Reg × Word)) {r q : Reg} (v : Word) (h : q ≠ r) :
    halfOf ((r, v) :: l) q = halfOf l q := by
  simp [halfOf, Ne.symm h]

end Sys2Proof.Laws
end

