-- ==== Sys2Proof/Laws/Alerts.lean ====
section
/-!
SUPPORT. Sys2Proof/Laws/Alerts.lean: what a posting and a condition leave in the alert table (R522, R527), and what a posting
leaves in an attention table (R108).
-/
namespace Sys2Proof.Laws
open Sys2Proof.Machine

@[simp] theorem alertNotify_alerts (s : State) : (alertNotify s).mgt.alerts = s.mgt.alerts := by
  unfold alertNotify
  split
  · dsimp only
    split <;> rfl
  · rfl

/-- A posting leaves its own entry pending. -/
theorem alertPost_posts (code : Nat) (s : State) (h : s.mod.modResetN = true) :
    (alertOf (alertPost code s) code).pending = true := by
  unfold alertPost alertOf
  simp [h]

/-- While MOD_RESET_N is low nothing is posted. -/
theorem alertPost_held (code : Nat) (s : State) (h : s.mod.modResetN = false) : alertPost code s = s := by
  simp [alertPost, h]

theorem alertPost_other (code c : Nat) (s : State) (h : (alertOf s c).pending = true) :
    (alertOf (alertPost code s) c).pending = true := by
  unfold alertPost
  split
  · simp only [alertOf, alertNotify_alerts, modMgt_mgt] at h ⊢
    by_cases e : c = code
    · subst e
      simp
    · rw [tgetD_tput_ne _ _ _ e]
      exact h
  · exact h

/-- A condition that holds leaves its alert pending. -/
theorem alertCond_holds (code : Nat) (s : State) (h : s.mod.modResetN = true) :
    (alertOf (alertCond code true s) code).pending = true := by
  unfold alertCond
  cases e : (alertOf s code).pending
  · simpa [e] using alertPost_posts code s h
  · simp [e]

/-- A condition that has gone leaves its alert clear. -/
theorem alertCond_gone (code : Nat) (s : State) : (alertOf (alertCond code false s) code).pending = false := by
  unfold alertCond
  cases e : (alertOf s code).pending
  · simp [e]
  · simp only [e, Bool.false_and, Bool.false_eq_true, if_false, Bool.not_false, Bool.true_and, if_true]
    simp [alertOf]

theorem alertCond_other (code c : Nat) (b : Bool) (s : State) (e : c ≠ code) (h : (alertOf s c).pending = true) :
    (alertOf (alertCond code b s) c).pending = true := by
  unfold alertCond
  dsimp only
  split
  · exact alertPost_other _ _ _ h
  · split
    · simp only [alertOf, modMgt_mgt] at h ⊢
      rw [tgetD_tput_ne _ _ _ e]
      exact h
    · exact h

/-- The entry a posting leaves in the table of its function (R108). -/
theorem post_entry (fn code detail handle : Nat) (s : State) :
    tgetD (attOf (post fn code detail handle s) fn).entries code attInit =
      { pending := true, count := satAdd 65535 (tgetD (attOf s fn).entries code attInit).count 1
        epochLast := (attOf s fn).epoch + 1, detail := detail, handle := handle } := by
  simp [attOf, post]

theorem post_epoch (fn code detail handle : Nat) (s : State) :
    (attOf (post fn code detail handle s) fn).epoch = (attOf s fn).epoch + 1 := by
  simp [attOf, post]

theorem post_other (fn code detail handle : Nat) (s : State) {g : Nat} (h : g ≠ fn) :
    attOf (post fn code detail handle s) g = attOf s g := by
  simp [attOf, post, tgetD_tput_ne _ _ _ h]

end Sys2Proof.Laws
end

