-- ==== Sys2Proof/Laws/Descs.lean ====
section
/-!
SUPPORT. Sys2Proof/Laws/Descs.lean: descriptors after they are changed, ended or set running, and the opcodes' common frame.
-/
namespace Sys2Proof.Laws
open Sys2Proof.Machine

/-- The first of a list that a test names, after a change that the test does not see. -/
theorem find_map_if {l : List Desc} {p : Desc → Bool} {f : Desc → Desc} (h : ∀ d, p (f d) = p d) :
    (l.map fun d => if p d then f d else d).find? p = (l.find? p).map f := by
  induction l with
  | nil => rfl
  | cons a l ih =>
    cases e : p a with
    | true => simp [e, h]
    | false => simp [e, ih]

/-- A descriptor after a change that keeps its place. -/
theorem findDesc_modDesc (s : State) (qp sub : Nat) {f : Desc → Desc} (h : ∀ d, (f d).qp = d.qp ∧ (f d).sub = d.sub) :
    findDesc (modDesc qp sub f s) qp sub = (findDesc s qp sub).map f := by
  unfold findDesc modDesc mapDescs
  exact find_map_if (p := fun d : Desc => d.qp = qp && d.sub = sub) fun d => by simp [h d]

/-- A descriptor that has not ended takes the result it is ended with. -/
theorem findDesc_endDesc {s : State} {qp sub : Nat} {d : Desc} (r : Result) (h : findDesc s qp sub = some d)
    (e : dEnded d = false) : findDesc (endDesc qp sub r s) qp sub = some { d with phase := .ended r } := by
  unfold endDesc
  rw [findDesc_modDesc, h]
  · simp [e]
  · intro d; split <;> simp

theorem resultOf_endDesc {s : State} {qp sub : Nat} {d : Desc} (r : Result) (h : findDesc s qp sub = some d)
    (e : dEnded d = false) : resultOf (endDesc qp sub r s) qp sub = some r := by
  rw [resultOf, findDesc_endDesc r h e]; rfl

theorem findDesc_runDesc {s : State} {qp sub : Nat} {d : Desc} (n : Nat) (h : findDesc s qp sub = some d) :
    findDesc (runDesc qp sub n s) qp sub = some { d with phase := .running, note := n } := by
  unfold runDesc
  rw [findDesc_modDesc, h]
  · rfl
  · simp

theorem findDesc_place {s : State} {qp sub : Nat} {d : Desc} (h : findDesc s qp sub = some d) : d.qp = qp ∧ d.sub = sub := by
  simpa using List.find?_some h

/-- A started descriptor's opcode acts. -/
theorem onStarted_started {op qp sub : Nat} {f : Desc → State → State} {s : State} {d : Desc} (h : Started s qp sub op d) :
    onStarted op qp sub f s = f d s := by
  obtain ⟨a, b, c⟩ := h
  simp [onStarted, a, b, c]

/-- A running descriptor's later command acts. -/
theorem onRunning_running {op qp sub : Nat} {f : Desc → State → State} {s : State} {d : Desc} (h : Running s qp sub op d) :
    onRunning op qp sub f s = f d s := by
  obtain ⟨a, b, c⟩ := h
  simp [onRunning, a, b, c]

/-- The state of descriptors is all that `findDesc` reads. -/
theorem findDesc_congr {s t : State} (h : t.cmd.descs = s.cmd.descs) (qp sub : Nat) : findDesc t qp sub = findDesc s qp sub := by
  simp [findDesc, h]

/-- A started descriptor ends with a result whatever else the opcode does to other parts of the state. -/
theorem started_ends {s t : State} {qp sub op : Nat} {d : Desc} (h : Started s qp sub op d) (e : t.cmd.descs = s.cmd.descs)
    (r : Result) : resultOf (endDesc d.qp d.sub r t) qp sub = some r := by
  obtain ⟨a, -, c⟩ := h
  obtain ⟨rfl, rfl⟩ := findDesc_place a
  exact resultOf_endDesc r ((findDesc_congr e _ _).trans a) (by simp [dEnded, c])

/-- With no launch and no triggered operation, work sets nothing else going. -/
theorem settle_upd {s : State} {slot : Nat} {op : EvOp} :
    updateEvent slot op s = settle [.upd slot op] s := rfl

end Sys2Proof.Laws
end

