-- ==== Sys2Proof/Laws/Mem.lean ====
section
/-!
SUPPORT. Sys2Proof/Laws/Mem.lean: what the contents of memory objects hold after a write: the byte written, and every byte
outside the range written as before.
-/
namespace Sys2Proof.Laws
open Sys2Proof.Machine

theorem cellGet_below {m : List Host.Cell} {lo k : Nat} (h : cellsWfFrom lo m = true) (l : k < lo) : cellGet m k = 0 := by
  induction m generalizing lo with
  | nil => rfl
  | cons e t ih =>
    obtain ⟨j, b⟩ := e
    simp only [cellsWfFrom, Bool.and_eq_true, decide_eq_true_eq] at h
    obtain ⟨⟨h1, -⟩, h2⟩ := h
    have ne : j ≠ k := by omega
    simp only [cellGet, ne, if_false]
    exact ih h2 (by omega)

/-- A byte written reads as written. -/
theorem cellGet_put_same {m : List Host.Cell} {lo k : Nat} (b : Byte) (h : cellsWfFrom lo m = true) :
    cellGet (cellPut m k b) k = b := by
  induction m generalizing lo with
  | nil =>
    unfold cellPut
    split
    · rename_i e
      simp [cellGet, e]
    · simp [cellGet]
  | cons e t ih =>
    obtain ⟨j, c⟩ := e
    simp only [cellsWfFrom, Bool.and_eq_true, decide_eq_true_eq] at h
    obtain ⟨-, h2⟩ := h
    unfold cellPut
    split
    · rename_i lt
      split
      · rename_i e
        have ne : j ≠ k := by omega
        simp only [cellGet, ne, if_false]
        rw [e]
        exact cellGet_below h2 (by omega)
      · simp [cellGet]
    · split
      · split
        · rename_i _ e1 e
          rw [e]
          exact cellGet_below h2 (by omega)
        · simp [cellGet]
      · rename_i ne
        simp only [cellGet, ne, if_false]
        exact ih h2

/-- Every other byte reads as before. -/
theorem cellGet_put_ne (m : List Host.Cell) {k l : Nat} (b : Byte) (h : l ≠ k) : cellGet (cellPut m k b) l = cellGet m l := by
  induction m with
  | nil =>
    unfold cellPut
    split
    · rfl
    · simp [cellGet, Ne.symm h]
  | cons e t ih =>
    obtain ⟨j, c⟩ := e
    unfold cellPut
    split
    · split
      · rfl
      · simp [cellGet, Ne.symm h]
    · split
      · rename_i e
        subst e
        split
        · simp [cellGet, Ne.symm h]
        · simp [cellGet, Ne.symm h]
      · simp [cellGet, ih]

@[simp] theorem putCommitted_mem (slot off : Nat) (b : Byte) (s : State) :
    (putCommitted slot off b s).mem = cellPut s.mem (memKey slot off) b := rfl

@[simp] theorem markConflict_mem (g : Nat) (s : State) : (markConflict g s).mem = s.mem := rfl

@[simp] theorem unpoison_mem (slot off : Nat) (s : State) : (unpoison slot off s).mem = s.mem := rfl

theorem cowWrite_mem (a : Accessor) (slot off : Nat) (bs : List Byte) (s : State) :
    (cowWrite a slot off bs s).mem = s.mem := by
  unfold cowWrite
  split
  · split
    · rfl
    · unfold cowGrans
      split <;> rfl
  · split
    · rfl
    · unfold cowGrans
      split <;> rfl

@[simp] theorem breakResv_mem (bs : List Nat) (s : State) : (breakResv bs s).mem = s.mem := rfl

theorem foldl_markConflict_mem (l : List Generation) (s : State) :
    (l.foldl (fun s (h : Generation) => markConflict h.id s) s).mem = s.mem := by
  induction l generalizing s with
  | nil => rfl
  | cons a l ih => rw [List.foldl_cons, ih, markConflict_mem]

theorem putByte_mem (a : Accessor) (slot off : Nat) (b : Byte) (s : State) :
    (putByte a slot off b s).mem = if (genOf s a).isSome then s.mem else cellPut s.mem (memKey slot off) b := by
  unfold putByte
  extract_lets gk
  split
  · rename_i e
    simp only [e, foldl_markConflict_mem]
    rfl
  · rename_i e
    simp only [e, foldl_markConflict_mem]
    rfl

/-- A byte written as an accessor leaves every other committed byte as it was. -/
theorem putByte_outside (a : Accessor) (slot off : Nat) (b : Byte) (s : State) {k : Nat} (h : k ≠ memKey slot off) :
    cellGet (putByte a slot off b s).mem k = cellGet s.mem k := by
  rw [putByte_mem]
  split
  · rfl
  · exact cellGet_put_ne _ _ h

theorem memKey_add (slot off i : Nat) : memKey slot (off + i) = memKey slot off + i := by
  unfold memKey
  omega

theorem putBytes_outside (a : Accessor) (slot off : Nat) (bs : List Byte) (s : State) {k : Nat}
    (h : k < memKey slot off ∨ memKey slot off + bs.length ≤ k) :
    cellGet (putBytes a slot off bs s).mem k = cellGet s.mem k := by
  induction bs generalizing off s with
  | nil => rfl
  | cons b l ih =>
    simp only [List.length_cons] at h
    unfold putBytes
    rw [ih (off + 1) _ (by rw [memKey_add]; omega), putByte_outside _ _ _ _ _ (by omega)]

theorem writeLine_outside (a : Accessor) (slot off : Nat) (bs : List Byte) (s : State) {k : Nat}
    (h : k < memKey slot off ∨ memKey slot off + bs.length ≤ k) :
    cellGet (writeLine a slot off bs s).mem k = cellGet s.mem k := by
  unfold writeLine
  split
  · rfl
  · split
    · split
      · rw [putBytes_outside _ _ _ _ _ h, unpoison_mem]
      · rfl
    · rw [putBytes_outside _ _ _ _ _ h]

/-- A write to a memory object leaves every committed byte outside its range as it was. -/
theorem writeMem_outside (a : Accessor) (slot off : Nat) (bs : List Byte) (s : State) {k : Nat}
    (h : k < memKey slot off ∨ memKey slot off + bs.length ≤ k) :
    cellGet (writeMem a slot off bs s).mem k = cellGet s.mem k := by
  unfold writeMem
  dsimp only
  rw [breakResv_mem]
  rw [← cowWrite_mem a slot off bs s]
  generalize cowWrite a slot off bs s = z
  have key : ∀ (ls : List Nat) (z : State),
      cellGet (ls.foldl (fun s l => writeLine a slot (max l off)
        ((bs.drop (max l off - off)).take (min (l + 64) (off + bs.length) - max l off)) s) z).mem k = cellGet z.mem k := by
    intro ls
    induction ls with
    | nil => intro z; rfl
    | cons l ls ih =>
      intro z
      rw [List.foldl_cons, ih]
      refine writeLine_outside _ _ _ _ _ ?_
      have e : memKey slot (max l off) = memKey slot off + (max l off - off) := by
        rw [← memKey_add]
        congr 1
        omega
      simp only [e, List.length_take, List.length_drop]
      omega
  exact key _ z

end Sys2Proof.Laws
end

