-- ==== Sys2Proof/Laws/Reset.lean ====
section
/-!
SUPPORT. Sys2Proof/Laws/Reset.lean: what a chip reset leaves, and the units after thermal stage 3 or a power fail.
-/
namespace Sys2Proof.Laws
open Sys2Proof.Machine

/-- A chip reset is the reset of the state that the commits leave. -/
theorem chipResetNow_eq (cls : Nat) (cold link : Bool) (s : State) :
    ∃ w, chipResetNow cls cold link s = alertConds (resetState cls cold link w) ∧ w.mod = s.mod ∧ w.sec = s.sec ∧
      w.clk = s.clk ∧ w.hif = s.hif ∧ w.flt.records = s.flt.records ∧
      w.flt.chipResets = satAdd 255 s.flt.chipResets 1 ∧ (s.log.mounted = false → w.mgt = s.mgt ∧ w.nv = s.nv) := by
  unfold chipResetNow
  extract_lets times z
  refine ⟨if z.log.mounted = true then commitReset z else z, rfl, ?_⟩
  split
  · rename_i e
    have n : s.log.mounted = true := e
    simp [n, z]
  · simp [z]

/-- A chip reset leaves every block at reset (R482). -/
theorem chipResetNow_reset (cls : Nat) (cold link : Bool) (s : State) : ChipReset cold s (chipResetNow cls cold link s) := by
  obtain ⟨w, e, -, -, -, -, -, h, -⟩ := chipResetNow_eq cls cold link s
  rw [e]
  constructor
  all_goals simp [resetState, State.reset, ClkState.init, SecState.init, h]

theorem chipReset_from {cold : Bool} {s s' t : State} (h : ChipReset cold s t) (e : s.flt.chipResets = s'.flt.chipResets) :
    ChipReset cold s' t :=
  ⟨h.cmd, h.objects, h.work, h.units, h.blocks, h.keys, h.boot, e ▸ h.count⟩

/-- A chip reset that is no fault's, and one that does not make a fourth in 60 s, resets. -/
theorem chipReset_now {cls : Nat} (h : stormClass cls = false) (cold link escalated : Bool) (unit ctx : Nat) (s : State) :
    chipReset cls cold link escalated unit ctx s =
      chipResetNow cls cold link (if cls = 0 then s else fltRecord cls 4 escalated false unit ctx 0 s) := by
  simp [chipReset, h]

theorem chipResetNow_mgt (cls : Nat) (cold link : Bool) (s : State) (h : s.log.mounted = false)
    (k : s.mod.modResetN = false) (m : s.mgt = MgtState.init) : (chipResetNow cls cold link s).mgt = MgtState.init := by
  obtain ⟨w, e, a, -, -, -, -, -, b⟩ := chipResetNow_eq cls cold link s
  have g : (resetState cls cold link w).mgt = MgtState.init := by
    show dropRunning w.mgt = _
    rw [(b h).1, m]
    rfl
  have r : (resetState cls cold link w).mod.modResetN = false := by
    show w.mod.modResetN = _
    rw [a, k]
  have c : ∀ (code : Nat) (v : Bool) (z : State), z.mod.modResetN = false → z.mgt = MgtState.init →
      (alertCond code v z).mgt = MgtState.init ∧ (alertCond code v z).mod.modResetN = false := by
    intro code v z h1 h2
    unfold alertCond
    have p : (alertOf z code).pending = false := by rw [alertOf, h2]; rfl
    cases v <;> simp [p, alertPost_held, h1, h2]
  rw [e]
  unfold alertConds
  exact (c _ _ _ (c _ _ _ (c _ _ _ r g).2 (c _ _ _ r g).1).2 (c _ _ _ (c _ _ _ r g).2 (c _ _ _ r g).1).1).1

@[simp] theorem fltRecord_chipResets (cls level : Nat) (escalated absorbed : Bool) (unit context detail : Nat) (s : State) :
    (fltRecord cls level escalated absorbed unit context detail s).flt.chipResets = s.flt.chipResets := by
  unfold fltRecord
  simp

@[simp] theorem fltRecord_records (cls level : Nat) (escalated absorbed : Bool) (unit context detail : Nat) (s : State) :
    (fltRecord cls level escalated absorbed unit context detail s).flt.records = (s.flt.records + 1) % 2 ^ 32 := by
  unfold fltRecord
  simp

theorem chipResetNow_mod (cls : Nat) (cold link : Bool) (s : State) : (chipResetNow cls cold link s).mod = s.mod := by
  obtain ⟨w, e, h, -⟩ := chipResetNow_eq cls cold link s
  rw [e]
  simp [resetState, h]

theorem chipResetNow_sec (cls : Nat) (cold link : Bool) (s : State) :
    (chipResetNow cls cold link s).sec.alarmDue = s.sec.alarmDue ∧
    (chipResetNow cls cold link s).sec.alarmLast = s.sec.alarmLast ∧
    (chipResetNow cls cold link s).sec.alarmCount = s.sec.alarmCount := by
  obtain ⟨w, e, -, h, -⟩ := chipResetNow_eq cls cold link s
  rw [e]
  simp [resetState, h]

theorem chipResetNow_records (cls : Nat) (cold link : Bool) (s : State) :
    (chipResetNow cls cold link s).flt.records = s.flt.records := by
  obtain ⟨w, e, -, -, -, -, h, -⟩ := chipResetNow_eq cls cold link s
  rw [e]
  simp [resetState, h]

theorem chipResetNow_inL0 (cls : Nat) (cold link : Bool) (s : State) :
    (chipResetNow cls cold link s).clk.inL0 = (link && s.clk.inL0) := by
  obtain ⟨w, e, -, -, h, -⟩ := chipResetNow_eq cls cold link s
  rw [e]
  simp [resetState, h]

theorem logAppend_otp (typ : Nat) (critical : Bool) (payload : List Byte) (s : State) :
    (logAppend typ critical payload s).nv.otp = s.nv.otp := by
  unfold logAppend
  dsimp only
  split
  · rfl
  · split
    · rfl
    · split
      · split <;> rfl
      · rfl

@[simp] theorem logWrite_otp (typ : Nat) (critical : Bool) (payload : List Byte) (s : State) :
    (logWrite typ critical payload s).nv.otp = s.nv.otp := by
  unfold logWrite
  split
  · exact logAppend_otp _ _ _ s
  · rfl

@[simp] theorem logNotice_otp (code arg : Nat) (s : State) : (logNotice code arg s).nv.otp = s.nv.otp := logWrite_otp _ _ _ s

/-- What an engine reset leaves in the FLT block (R479). -/
theorem engineReset_flt (u cls : Nat) (escalated : Bool) (ctx : Nat) (s : State) (h : unitInReset s u = false)
    (k : partInReset s (unitPart u) = false) :
    ∃ z : State, (engineReset u cls escalated ctx s).flt = { z.flt with
      engines := (u, cls) :: s.flt.engines, engResets := satAdd 65535 s.flt.engResets 1 } ∧
      z.flt.records = (s.flt.records + 1) % 2 ^ 32 ∧ z.flt.parts = s.flt.parts ∧ z.flt.resBusy = s.flt.resBusy ∧
      z.flt.resStatus = s.flt.resStatus ∧ z.flt.cmdUnit = s.flt.cmdUnit ∧ z.flt.cmdLevel = s.flt.cmdLevel := by
  unfold engineReset
  rw [if_neg (by simp [h, k])]
  dsimp only
  refine ⟨fltRecord cls 2 escalated false u ctx (u + fieldAt cls 24 8) s, ?_, ?_⟩
  · simp [fltRecord]
  · simp [fltRecord]

/-- What a partition reset leaves in the FLT block (R480). -/
theorem partitionReset_flt (p cls : Nat) (escalated : Bool) (unit ctx : Nat) (s : State) (h : partInReset s p = false)
    (k : partOff s p = false) :
    ∃ (z : State) (fns : List Nat), (partitionReset p cls escalated unit ctx s).flt = { z.flt with
      parts := (p, cls, fns) :: s.flt.parts, partResets := satAdd 255 s.flt.partResets 1
      engines := s.flt.engines.filter fun e => unitPart e.1 ≠ p } ∧
      z.flt.records = (s.flt.records + 1) % 2 ^ 32 ∧ z.flt.resBusy = s.flt.resBusy ∧
      z.flt.resStatus = s.flt.resStatus ∧ z.flt.cmdUnit = s.flt.cmdUnit ∧ z.flt.cmdLevel = s.flt.cmdLevel := by
  unfold partitionReset
  rw [if_neg (by simp [h, k])]
  extract_lets ts homed fns z0 z1 z2 z3 z4 z5
  refine ⟨fltRecord cls 3 escalated false (if unit = 0 then p else unit) ctx (p + fieldAt cls 24 8) s, fns, ?_, ?_⟩
  · simp [z5, z4, z3, z2, z1, z0, fltRecord]
  · simp [fltRecord]

/-- Thermal stage 3 and a power fail leave no matrix engine ramped. -/
theorem holdEngines_idle (s : State) (c : Nat) :
    engAt (holdEngines s) c = { engAt s c with phase := .idle, groups := 0, want := none } := by
  simp only [engAt, holdEngines, modMxe_mxe, tgetD, tget_tmapv]
  cases tget s.mxe.engines c <;> rfl

theorem releaseEngines_want (s : State) (c : Nat) (h : (engAt s c).run.isSome = true) :
    engAt (releaseEngines s) c = { engAt s c with want := some true } := by
  simp only [engAt, releaseEngines, modMxe_mxe, tgetD, tget_tmapv] at h ⊢
  cases e : tget s.mxe.engines c with
  | none => rw [e] at h; cases h
  | some x => rw [e] at h; simp at h; simp [h]

end Sys2Proof.Laws
end

