-- ==== Sys2Proof/WellFormed.lean ====
section
/-!
DEFINITION. Sys2Proof/WellFormed.lean: the commands whose operands lie in the ranges the manual gives the things they
number. The meanings take every operand: a command that names a thing the device does not have finds nothing to act on.
-/
namespace Sys2Proof

/-- A port index (R283). -/
def okPort (p : Nat) : Bool := decide (p < 23)
/-- A tree parent port: a port, or 31 for the root (R323). -/
def okTreePort (p : Nat) : Bool := decide (p < 23) || decide (p = 31)
/-- A node ID (Table 11-4). -/
def okNode (n : Nat) : Bool := decide (n < 2 ^ 24)
/-- A virtual channel (Table 11-3). -/
def okVc (v : Nat) : Bool := decide (v < 4)
/-- A flit: its FTYPE, VC, numbers and 240 payload bytes (Tables 11-2 and 11-3). -/
def okFlit (f : Flit) : Bool :=
  decide (f.ftype < 16) && okVc f.vc && okVc f.credVc && decide (f.seq < 65536) && decide (f.ack < 65536)
    && decide (f.credCount < 4096) && decide (f.payload.length = 240)
/-- A packet payload (Table 11-4). -/
def okPayload (b : List Byte) : Bool := decide (b.length ≤ 4096)
/-- A cluster (Table 00-4). -/
def okCluster (c : Nat) : Bool := decide (c < 64)
/-- A partition. -/
def okPart (p : Nat) : Bool := decide (p < 4)
/-- An HBM stack. -/
def okStack (k : Nat) : Bool := decide (k < 8)
/-- The number of a 64 B line in a stack (R244). -/
def okLine (l : Nat) : Bool := decide (l < 750000000)
/-- A queue pair (Table 04-1). -/
def okQp (q : Nat) : Bool := decide (q < 16384)
/-- A context slot. -/
def okCtx (c : Nat) : Bool := decide (c < 4096)
/-- A memory object slot. -/
def okMem (o : Nat) : Bool := decide (o < 1048576)
/-- A task graph slot. -/
def okGraph (g : Nat) : Bool := decide (g < 65536)
/-- A handle (R77). -/
def okHandle (h : Nat) : Bool := decide (h < 2 ^ 32)
/-- A function: the PF or a VF (R57). -/
def okFn (f : Nat) : Bool := decide (f ≤ 512)
/-- A VF. -/
def okVf (v : Nat) : Bool := decide (1 ≤ v) && decide (v ≤ 512)
/-- A vector core (R200). -/
def okVector (c : Nat) : Bool := decide (c < 10240)
/-- A hardware thread (Table 08-1). -/
def okThread (t : Nat) : Bool := decide (t < 8)
/-- A scalar register (Table 08-2). -/
def okScalar (x : Nat) : Bool := decide (x < 32)
/-- A vector register. -/
def okVreg (v : Nat) : Bool := decide (v < 64)
/-- A mask register. -/
def okMask (m : Nat) : Bool := decide (m < 8)
/-- A service core. -/
def okService (c : Nat) : Bool := decide (c < 32)
/-- A collective engine (R336). -/
def okEngine (e : Nat) : Bool := decide (e < 32)
/-- An ingest stream. -/
def okStream (n : Nat) : Bool := decide (n < 64)
/-- A thermal sensor (R36). -/
def okSensor (n : Nat) : Bool := decide (n < 64)
/-- A unit's encoding (Table 19-9): 20 bits. -/
def okUnit (u : Nat) : Bool := decide (u < 2 ^ 20)

/-- The operands lie in their ranges. -/
def wellFormed : Instr → Bool
  | .registerWrite _ _ _ => true
  | .shadowApply _ => true
  | .setUpLock _ _ => true
  | .lowHalfWrite _ _ _ => true
  | .highHalfWrite _ _ _ => true
  | .lowHalfRead _ _ => true
  | .blockedRegisterAccess _ _ _ => true
  | .powerUp _ => true
  | .bulkCharged => true
  | .strapSample _ _ _ => true
  | .railsInRegulation => true
  | .perstNAssert _ => true
  | .perstNRelease => true
  | .modResetNAssert _ => true
  | .modResetNRelease => true
  | .powerFailConfirm => true
  | .powerFailStop => true
  | .powerFailCommit => true
  | .railsFall => true
  | .powerReturnStable _ => true
  | .tamperLoopCheck _ _ => true
  | .meshCheck _ => true
  | .vbatLoss _ => true
  | .voltageAlarm _ => true
  | .clockAlarm _ => true
  | .temperatureAlarm sensor => okSensor sensor
  | .tamperAlarmArrival => true
  | .inletOverTemperature _ => true
  | .thermalLoop _ => true
  | .thermalStageRelease _ => true
  | .thermalTripRecovery => true
  | .powerLimiterTick _ => true
  | .startSequence => true
  | .milestoneAdvance _ => true
  | .progressTick => true
  | .stallWindowExpire => true
  | .milestoneLimitExpire => true
  | .faultPathHoldEnd => true
  | .numvfsWrite _ => true
  | .vfEnableWrite _ => true
  | .vfFlr v => okVf v
  | .pfFlr => true
  | .hostLinkError => true
  | .hostLinkDown => true
  | .ideIntegrityFailure _ => true
  | .pfBarChange => true
  | .lockInterfaceRequest _ => true
  | .startInterfaceRequest => true
  | .stopInterfaceRequest => true
  | .doeDiscovery => true
  | .getCertificate _ => true
  | .spdmChallenge _ _ => true
  | .getMeasurements _ => true
  | .keyExchange _ => true
  | .ideKmKeyProg _ _ => true
  | .commit _ v => okVf v
  | .release _ v => okVf v
  | .vfHostDrain v _ => okVf v
  | .vfContextsAborted v => okVf v
  | .vfResourcesAccounted v => okVf v
  | .vfTeardownEnd v => okVf v
  | .vfStateRecordWrite => true
  | .granuleZeroed fn => okFn fn
  | .vfMsixWrite v _ _ _ => okVf v
  | .msixUnmask fn _ => okFn fn
  | .doorbellSq _ _ _ _ => true
  | .doorbellCq _ _ _ _ => true
  | .queueArm _ _ _ => true
  | .build fn _ _ => okFn fn
  | .unbuild fn _ _ => okFn fn
  | .serviceQueueUnbuilt fn => okFn fn
  | .descriptorFetch qp _ => okQp qp
  | .fetchError qp => okQp qp
  | .descriptorStart qp _ => okQp qp
  | .completionWrite qp _ => okQp qp
  | .nop qp _ => okQp qp
  | .ackAttention qp _ => okQp qp
  | .getAttention qp _ => okQp qp
  | .createContext qp _ => okQp qp
  | .destroyContext qp _ => okQp qp
  | .resetContext qp _ => okQp qp
  | .contextResetComplete ctx => okCtx ctx
  | .createQueuePair qp _ => okQp qp
  | .destroyQueuePair qp _ => okQp qp
  | .createMemory qp _ => okQp qp
  | .destroyMemory qp _ => okQp qp
  | .createEvent qp _ => okQp qp
  | .destroyEvent qp _ => okQp qp
  | .exportEvent qp _ => okQp qp
  | .loadTaskGraph qp _ _ => okQp qp
  | .taskGraphLoaded graph => okGraph graph
  | .destroyTaskGraph qp _ => okQp qp
  | .copy qp _ _ _ => okQp qp
  | .fill qp _ => okQp qp
  | .launchGraph qp _ => okQp qp
  | .eventSignal qp _ => okQp qp
  | .eventAdd qp _ => okQp qp
  | .eventReset qp _ => okQp qp
  | .eventWait qp _ => okQp qp
  | .eventWaitTimeout qp _ => okQp qp
  | .eventQuery qp _ => okQp qp
  | .eventRemote qp _ => okQp qp
  | .eventReq node _ handle _ _ => okNode node && okHandle handle
  | .eventRsp qp _ _ => okQp qp
  | .eventRemoteTimeout qp _ => okQp qp
  | .heartbeat fn => okFn fn
  | .destructionComplete handle => okHandle handle
  | .overflowMove part => okPart part
  | .taskPlace part => okPart part
  | .taskEnd _ _ _ => true
  | .exitActionComplete _ _ => true
  | .launchComplete _ => true
  | .generationResolvable _ => true
  | .commitPoint _ => true
  | .versionSpaceReturn _ => true
  | .oldGranuleFree _ => true
  | .launchCancel qp _ => okQp qp
  | .provDiscard qp _ => okQp qp
  | .provQuery qp _ => okQp qp
  | .matrixOpStart c _ => okCluster c
  | .chunkLoadComplete c _ _ _ => okCluster c
  | .blockBankComplete c _ _ => okCluster c
  | .bankFree c _ => okCluster c
  | .matrixTaskEnd c _ => okCluster c
  | .matrixPoisonedLoad c _ _ => okCluster c
  | .matrixUncorrectableError c => okCluster c
  | .correctedError _ => true
  | .gapBegin c => okCluster c
  | .gapWindowExpire c _ => okCluster c
  | .rampWindowGrant p => okPart p
  | .rampUpComplete c => okCluster c
  | .rampDownComplete c => okCluster c
  | .scalarInstruction core th _ => okVector core && okThread th
  | .vectorArithmetic core th m _ => okVector core && okThread th && okMask m
  | .specialFunction core th m _ vd va => okVector core && okThread th && okMask m && okVreg vd && okVreg va
  | .crossLaneReduction core th m _ vd va => okVector core && okThread th && okMask m && okVreg vd && okVreg va
  | .cast core th m _ vd va _ => okVector core && okThread th && okMask m && okVreg vd && okVreg va
  | .vrand core th m vd => okVector core && okThread th && okMask m && okVreg vd
  | .flagsRd core th rd => okVector core && okThread th && okScalar rd
  | .flagsClr core th _ => okVector core && okThread th
  | .argbase core th rd _ => okVector core && okThread th && okScalar rd
  | .vectorLoadStore core th m _ => okVector core && okThread th && okMask m
  | .gatherScatter core th m _ => okVector core && okThread th && okMask m
  | .lineFill core th => okVector core && okThread th
  | .atomic core th _ rd ra rb _ => okVector core && okThread th && okScalar rd && okScalar ra && okScalar rb
  | .cflush core th ra rb => okVector core && okThread th && okScalar ra && okScalar rb
  | .cinv core th ra rb => okVector core && okThread th && okScalar ra && okScalar rb
  | .cflushinv core th ra rb => okVector core && okThread th && okScalar ra && okScalar rb
  | .mfence core th => okVector core && okThread th
  | .mfenceComplete core th => okVector core && okThread th
  | .vectorUncorrectableError core _ => okVector core
  | .lrSc core _ => okService core
  | .amo core _ rd _ _ _ => okService core && okScalar rd
  | .cboClean core _ _ => okService core
  | .cboFlush core _ _ => okService core
  | .cboInval core _ _ => okService core
  | .fence core => okService core
  | .fenceI core => okService core
  | .exit core _ _ _ => okService core
  | .envCallArgbase core _ => okService core
  | .time core => okService core
  | .serviceCoreError core => okService core
  | .firmwareStall core => okService core
  | .memProtect qp _ => okQp qp
  | .rulesChangePoint qp _ => okQp qp
  | .rulesFence qp _ => okQp qp
  | .rulesFenceComplete qp _ => okQp qp
  | .cstReside qp _ => okQp qp
  | .cstEvict qp _ => okQp qp
  | .memQuery qp _ => okQp qp
  | .poisonScan qp _ => okQp qp
  | .pageZeroDone slot _ => okMem slot
  | .hbmAdmission stack _ => okStack stack
  | .hbmTransactionComplete stack _ lines => okStack stack && (lines.all fun (l : HbmLine) => okLine l.line)
  | .correctedLineRewrite stack line => okStack stack && okLine line
  | .clusterStoreUncorrectable cluster slot _ => okCluster cluster && okMem slot
  | .badgerChunkRead stack lines => okStack stack && (lines.all fun (l : HbmLine) => okLine l.line)
  | .allocRequest _ _ => true
  | .bufferFree _ _ => true
  | .reservationLapse _ _ => true
  | .haltHeartbeatStop => true
  | .layoutSwitchDone => true
  | .flitReceive port f _ _ => okPort port && okFlit f
  | .nak port _ => okPort port
  | .replayTimerExpire port => okPort port
  | .retrain _ port => okPort port
  | .laneFailure port _ => okPort port
  | .retrainComplete port => okPort port
  | .retrainLimitExpire port => okPort port
  | .trainingAttempt port => okPort port
  | .trainingComplete port => okPort port
  | .hello port node peerPort _ _ _ _ => okPort port && okNode node && okPort peerPort
  | .helloResend port => okPort port
  | .planChangeCheck port => okPort port
  | .transitStallExpire port vc => okPort port && okVc vc
  | .routeWrite _ => true
  | .routeRead _ => true
  | .beaconTimer => true
  | .beacon port node _ _ _ _ => okPort port && okNode node
  | .claimExpire => true
  | .announceTimer => true
  | .announce port node _ _ _ => okPort port && okNode node
  | .keepaliveTimer => true
  | .keepalive port node _ _ _ => okPort port && okNode node
  | .keepaliveLoss => true
  | .relinquish port node => okPort port && okNode node
  | .resyncReport node _ _ => okNode node
  | .announceWatchExpire => true
  | .noManagerExpire => true
  | .planLoad _ _ _ _ _ _ _ => true
  | .plan port node treePort _ _ => okPort port && okNode node && okTreePort treePort
  | .healthSummaryTimer => true
  | .healthSummaryMissing node => okNode node
  | .syncReqTimer => true
  | .syncReq port node _ => okPort port && okNode node
  | .syncReply _ _ _ => true
  | .wmkPpsEdge => true
  | .timeSet _ _ => true
  | .arriveSignal => true
  | .arrive port node _ => okPort port && okNode node
  | .advance port node _ _ _ _ => okPort port && okNode node
  | .advanceApply => true
  | .stepSet _ _ => true
  | .trigPost qp _ => okQp qp
  | .trigCancel qp _ => okQp qp
  | .groupCreate qp _ => okQp qp
  | .groupDestroy qp _ => okQp qp
  | .groupQuery qp _ => okQp qp
  | .collectiveOpStart eng => okEngine eng
  | .exp port node _ _ _ _ _ => okPort port && okNode node
  | .go port node _ _ _ _ _ _ => okPort port && okNode node
  | .ready port node _ _ _ => okPort port && okNode node
  | .done port node _ _ _ => okPort port && okNode node
  | .abort port node _ _ _ _ _ _ => okPort port && okNode node
  | .busy port node _ _ _ => okPort port && okNode node
  | .busyRetry _ _ _ => true
  | .collData port node _ _ _ _ _ data => okPort port && okNode node && okPayload data
  | .collAck port node _ _ _ => okPort port && okNode node
  | .resendTimer _ _ _ _ => true
  | .operationTimeout _ => true
  | .caps port _ _ _ => okPort port
  | .swRefuse port _ _ _ => okPort port
  | .switchSum port _ _ _ data => okPort port && okPayload data
  | .switchSumTimeout _ => true
  | .reductionStoreError eng => okEngine eng
  | .schedLoad qp _ => okQp qp
  | .admissionComplete qp _ => okQp qp
  | .tollgateCheck qp _ => okQp qp
  | .schedStart qp _ => okQp qp
  | .schedStop qp _ => okQp qp
  | .schedQuery qp _ => okQp qp
  | .schedUnload qp _ => okQp qp
  | .runnerStepStart ctx => okCtx ctx
  | .launchRetry qp _ => okQp qp
  | .runnerStepEnd ctx => okCtx ctx
  | .readmission ctx => okCtx ctx
  | .streamOpen qp _ => okQp qp
  | .openAck port node stream _ => okPort port && okNode node && okStream stream
  | .openResend stream => okStream stream
  | .streamClose qp _ => okQp qp
  | .streamQuery qp _ => okQp qp
  | .streamPosition qp _ => okQp qp
  | .ingestData port node stream _ _ data => okPort port && okNode node && okStream stream && okPayload data
  | .idleFlush stream => okStream stream
  | .holdAck port node stream => okPort port && okNode node && okStream stream
  | .resumeAck port node stream => okPort port && okNode node && okStream stream
  | .closeAck port node stream _ => okPort port && okNode node && okStream stream
  | .holdResendTimer stream => okStream stream
  | .moverCopy stream => okStream stream
  | .ckpConfig qp _ => okQp qp
  | .ckpTrigger qp _ => okQp qp
  | .ckpDisarm qp _ => okQp qp
  | .ckpRestore qp _ => okQp qp
  | .ckpQuery qp _ => okQp qp
  | .snapshotPoint ctx => okCtx ctx
  | .chunkSend _ => true
  | .ack port node _ _ _ _ => okPort port && okNode node
  | .chunkResendTimer _ _ => true
  | .durable port node _ => okPort port && okNode node
  | .digestReport node _ _ _ _ _ _ _ _ _ => okNode node
  | .manifestDone node _ _ _ => okNode node
  | .manifestWaitExpire ctx _ => okCtx ctx
  | .statRsp port node _ _ _ _ => okPort port && okNode node
  | .putOpen node _ _ _ => okNode node
  | .putClose node _ _ => okNode node
  | .getOpen node _ _ _ _ _ => okNode node
  | .ckpData port node _ _ data => okPort port && okNode node && okPayload data
  | .restoreChunk ctx => okCtx ctx
  | .restoreComplete ctx => okCtx ctx
  | .sessionOpen qp _ _ _ => okQp qp
  | .sessionClose qp _ => okQp qp
  | .sessionReport qp _ => okQp qp
  | .keyImport qp _ => okQp qp
  | .keyErase qp _ => okQp qp
  | .memkeyLoad qp _ => okQp qp
  | .memkeyErase qp _ => okQp qp
  | .weightMeasure qp _ => okQp qp
  | .logExport qp _ => okQp qp
  | .publicKeySlotEnd => true
  | .uniformRefusalWrite qp _ => okQp qp
  | .entropyHealthFailure => true
  | .offer port _ _ => okPort port
  | .proof port _ => okPort port
  | .finish port _ => okPort port
  | .reject port => okPort port
  | .handshakeRetry port => okPort port
  | .jtagExtest => true
  | .jtagExtestExit => true
  | .tokenDigestProgram _ _ => true
  | .transitionCommand _ _ => true
  | .transitionDecision _ => true
  | .partitionHwError part => okPart part
  | .chipHwError => true
  | .engineResetComplete unit _ => okUnit unit
  | .partitionResetComplete part _ => okPart part
  | .boundMiss _ _ _ => true
  | .progressMiss _ _ _ => true
  | .engineResetCommand _ unit => okUnit unit
  | .partitionResetCommand _ _ => true
  | .chipResetCommand _ => true
  | .ageingRead _ => true
  | .replicaRead _ => true
  | .marginFloorRetire c => okCluster c
  | .dailyReplan => true
  | .replan _ => true
  | .replanComplete _ _ _ => true
  | .policyWrite _ _ _ _ _ => true
  | .placementCooldown c => okCluster c
  | .cooldownEnd c => okCluster c
  | .eyeMonitorRead _ => true
  | .ledgerTimeLoad => true
  | .meterTick _ _ => true
  | .intervalClose => true
  | .periodStart => true
  | .periodWrite _ _ _ => true
  | .dailyHealthRecord => true
  | .logbookCommit => true
  | .pageProgramFail _ => true
  | .logbookBlockErase => true
  | .ledgerRead qp _ => okQp qp
  | .ledgerExport qp _ => okQp qp
  | .logbookRead qp _ => okQp qp
  | .setdasa _ _ => true
  | .entdaa _ => true
  | .setnewda _ => true
  | .rstdaa => true
  | .enec _ => true
  | .disec _ => true
  | .getstatus => true
  | .getpid => true
  | .getbcr => true
  | .getdcr => true
  | .getmwl => true
  | .getmrl => true
  | .setmwl _ => true
  | .setmrl _ => true
  | .privateWrite _ => true
  | .privateRead => true
  | .ibiRepeat => true
  | .ibiNackRetry => true
  | .uartByte _ _ => true
  | .uartGapDiscard => true
  | .identity _ => true
  | .status _ => true
  | .alertAck _ => true
  | .health _ => true
  | .domainView _ => true
  | .recordRead _ => true
  | .ledger _ => true
  | .trayCap _ => true
  | .reset _ => true
  | .lifecycle _ => true
  | .cabling _ => true
  | .challenge _ => true
  | .trayProvision _ => true
  | .fwWrite _ => true
  | .fwCommit _ _ => true
  | .fwFloor _ => true
  | .fwRevoke _ => true
  | .closeResend stream => okStream stream
  | .coolantInletNormal _ => true
  | .entropyHealthRestored => true
  | .healthSummary node _ => okNode node
  | .completionTimeout qp _ _ => okQp qp
  | .vfResizableBarWrite _ => true
  | .hostLinkInL0 => true

end Sys2Proof
end

