-- ==== Sys2Proof/Tests/Slice0.lean ====
section
/-!
SUPPORT. Sys2Proof/Tests/Slice0.lean: the model's own tests: concrete states and operands that meet the hypotheses of
each statement, clause by clause; an ill-formed term for each check of WellFormed; worked examples of the manual.
-/
namespace Sys2Proof.Tests

open Sys2Proof Sys2Proof.Machine

set_option Elab.async false
set_option maxRecDepth 4000

/-! ## States for the witnesses -/

/-- A module at M15: READY, link in L0, straps sampled. -/
def up : State :=
  { State.reset with
    clk := { ClkState.init with phase := .ready, milestone := 15, inL0 := true }
    mod := { ModuleState.init with
      phase := .good, pwrGood := true, inputSwitch := true, aoFrom48 := true, strapsSampled := true, perstN := true
      strapRole := 2, strapSlot := 7, strapBoard := 0x2A41 }
    lcs := { LcsState.init with loaded := true, position := 15 }
    log := { LogState.init with mounted := true } }

/-- A context of the PF with home partition 0. -/
def ctxA : Ctx := { state := .live, fn := 0, home := 0, prio := 1, seed := 0, mode := true, aflags := 0, waiters := [] }

/-- A work queue pair of context 5. -/
def qpA : QueuePair :=
  { fn := 0, loc := 3, ctx := some 5, sqBase := 0x10000, cqBase := 0x20000, sqLog := 6, cqLog := 6, vector := some 1
    state := .live, sqTail := 8, fetchPos := 7, nextSub := 7, cqWritten := 0, cqConsumed := 0, reserved := 0
    armed := false, lastDstat := none, unbuilding := false }

/-- The PF's service queue. -/
def qpS : QueuePair := { qpA with loc := 0, ctx := none, vector := some 0, sqTail := 7 }

/-- A descriptor's bytes: its opcode and fields by byte offset. -/
def rawOf (op : Nat) (fs : List (Nat × Nat)) : BitVec 512 :=
  BitVec.ofNat 512 (op + (fs.map fun f => f.2 * 2 ^ (8 * f.1)).sum)

/-- A descriptor of submission number 7 of a queue pair. -/
def descOf (qp op : Nat) (fs : List (Nat × Nat)) (ph : DescPhase) : Desc :=
  { qp := qp, sub := 7, pos := 7, fn := 0, raw := rawOf op fs, phase := ph, noRecord := false, sigOk := false
    escalated := false, note := 0 }

/-- A memory object of context 5: 2 MiB in one page, partition 0. -/
def memA : MemObj :=
  { ctx := 5, size := 0x200000, page := 1, part := 0, cluster := none, keyId := 0, va := 0x100000000, aborting := false
    readOnly := [], start := none, mapped := [], resident := [], lossPosted := false }

/-- An event of context 5. -/
def evA : Event :=
  { ctx := 5, counter := false, threshold := 1, count := 0, payload := 0, signalled := false, error := false, scope := 0
    node := 0, nodeMask := 0, aborting := false }

/-- READY with context 5, its queue pair 3, the service queue 0, memory objects 1 and 2 and events 1 and 2. -/
def work : State :=
  { up with
    ctxs := [(5, ctxA)]
    mems := [(1, memA), (2, { memA with va := 0x100200000 })]
    evs := [(1, evA), (2, evA)]
    cmd := { CmdState.init with qps := [(0, qpS), (3, qpA)], ctxSlots := { fresh := 6, freed := [] }
                                memSlots := { fresh := 3, freed := [] }, evSlots := { fresh := 3, freed := [] } } }

/-- A state with one descriptor. -/
def withD (d : Desc) (s : State) : State := { s with cmd := { s.cmd with descs := [d] } }

/-- A started descriptor on the work queue pair. -/
def dW (op : Nat) (fs : List (Nat × Nat)) : Desc := descOf 3 op fs .started

/-- A started descriptor on the service queue; CONTEXT names context 5. -/
def dS (op : Nat) (fs : List (Nat × Nat)) : Desc := descOf 0 op ((4, 0x10000005) :: fs) .started

/-- A started descriptor on the service queue with CONTEXT null. -/
def dN (op : Nat) (fs : List (Nat × Nat)) : Desc := descOf 0 op fs .started

/-- Bytes of a memory object as cells. -/
def cellsOf (slot off : Nat) (bs : List Byte) : List Host.Cell :=
  (numbered bs).filterMap fun p => if p.2 = 0 then none else some (memKey slot (off + p.1), p.2)

/-- Bytes from fields by offset. -/
def bytesOf (n : Nat) (fs : List (Nat × Nat)) : List Byte := leBytes n (fs.map fun f => f.2 * 2 ^ (8 * f.1)).sum

/-- A task graph of one JOIN task that a LAUNCH token opens. -/
def graphBytes : List Byte :=
  bytesOf 320 [(0, 0x47544B31), (4, 1), (8, 1), (12, 1), (20, 0x7400), (24, 64), (32, 192), (40, 256), (64, 0x14),
    (192, 1), (216, 0xFFFFFFFF)]


namespace W01

def host : Src := .host false
def regsMx : State := { up with mxe := { MxeState.init with engines := [(0, { Engine.init with phase := .run })] } }
def ivA : Interval := { start := 0, lengthUs := 0, energy := 0, avg := 0, peak := 0, cap := 0, price := 0, flags := 0, index := 0, sessionTag := 0 }
def vfE (st : VfState) : VfEntry := { vfOf State.reset 1 with state := st }
def lockS : State := { up with clk := { up.clk with phase := .running, milestone := 0, lock := true } }

/-- States and operands that meet the hypotheses of RegisterWriteClampsLiveFields, clause by clause. -/
theorem test_witness_RegisterWriteClampsLiveFields :
    (∃ (s : State) (src : Src), regOpen s src .colCfg true = true) ∧
    (∃ (s : State) (src : Src), regOpen s src .ingCfg true = true) ∧
    (∃ (s : State) (src : Src), regOpen s src .memBadgerCtrl true = true) ∧
    (∃ (s : State) (src : Src), regOpen s src .lnkCfg true = true) ∧
    (∃ (s : State) (src : Src), regOpen s src .lnkRtAddr true = true) ∧
    (∃ (s : State) (src : Src), regOpen s src .ckpCfg true = true) ∧
    (∃ (s : State) (src : Src), s.flt.haltCause = 0 ∧ regOpen s src .fltRecSel true = true) ∧
    (∃ (s : State) (src : Src), regOpen s src .lcsCmd true = true) ∧
    (∃ (s : State) (src : Src) (r : Reg), regOpen s src r true = false) :=
  ⟨⟨up, .firmware, by decide +kernel⟩,
   ⟨up, host, by decide +kernel⟩,
   ⟨up, host, by decide +kernel⟩,
   ⟨up, host, by decide +kernel⟩,
   ⟨up, host, by decide +kernel⟩,
   ⟨up, host, by decide +kernel⟩,
   ⟨up, host, by decide +kernel⟩,
   ⟨up, host, by decide +kernel⟩,
   ⟨State.reset, host, .colCfg, by decide +kernel⟩⟩

/-- States and operands that meet the hypotheses of QuiescentFieldsShadow, clause by clause. -/
theorem test_witness_QuiescentFieldsShadow :
    (∃ (s : State) (src : Src), regOpen s src .mxeCtrl true = true) ∧
    (∃ (s : State) (src : Src), regOpen s src .mxeCtrl true = true) ∧
    (∃ (s : State) (src : Src) (n : Nat), 1 ≤ n ∧ n ≤ 512 ∧ regOpen s src (.hifVfQuotaA n) true = true ∧ (vfOf s n).pend = []) ∧
    (∃ (s : State) (src : Src) (n : Nat), 1 ≤ n ∧ n ≤ 512 ∧ regOpen s src (.hifVfQuotaA n) true = true ∧ (vfOf s n).pend = []) ∧
    (∃ (s : State) (src : Src), regOpen s src .pwrInterval true = true ∧ s.led.openIv.isSome = true) ∧
    (∃ (s : State) (b : QBlock), quiescent s b = false) ∧
    (∃ (s : State) (n : Nat), s.clk.phase = .running ∧ s.clk.milestone = 0 ∧ s.clk.scalePending = some n) ∧
    (∃ (s : State) (n : Nat), quiescent s .mxe = true ∧ s.mxe.pend = some n) ∧
    (∃ (s : State) (n : Nat), 1 ≤ n ∧ n ≤ 512 ∧ (vfOf s n).state = .idle) :=
  ⟨⟨up, host, by decide +kernel⟩,
   ⟨regsMx, host, by decide +kernel⟩,
   ⟨({ up with hif := { up.hif with vfs := [(512, vfE .active)] } }), host, 512, by decide +kernel⟩,
   ⟨up, host, 1, by decide +kernel⟩,
   ⟨({ up with led := { up.led with openIv := some ivA } }), host, by decide +kernel⟩,
   ⟨regsMx, .mxe, by decide +kernel⟩,
   ⟨({ up with clk := { up.clk with phase := .running, milestone := 0, scalePending := some 10 } }), 10, by decide +kernel⟩,
   ⟨({ up with mxe := { MxeState.init with pend := some 2 } }), 2, by decide +kernel⟩,
   ⟨({ up with hif := { up.hif with vfs := [(512, { vfE .idle with pend := [(0, 5), (1, 6)] })] } }), 512, by decide +kernel⟩⟩

/-- States and operands that meet the hypotheses of LockAndRegisterHalves, clause by clause. -/
theorem test_witness_LockAndRegisterHalves :
    (∃ (s : State) (src : Src), regOpen s src .clkMsCtrl true = true ∧ s.clk.lock = true) ∧
    (∃ (s : State) (src : Src) (v : Word), regOpen s src .clkMsCtrl true = true ∧ s.clk.lock = false ∧ quiescent s .clk = false ∧ bitOf v.toNat 31 = true) ∧
    (∃ (s : State) (src : Src) (r : Reg), regOpen s src r true = true ∧ reg64 r = true) ∧
    (∃ (s : State) (src : Src) (w : Word), regOpen s src .wmkPlanBase true = true ∧ halfOf s.hold64 .wmkPlanBase = some w) ∧
    (∃ (s : State) (src : Src), regOpen s src .wmkPlanBase true = true ∧ halfOf s.hold64 .wmkPlanBase = none) ∧
    (∃ (s : State) (src : Src) (r : Reg), regOpen s src r false = true ∧ reg64 r = true) ∧
    (∃ (s : State) (src : Src) (r : Reg), srcOpen s src = true ∧ regBlocked s r false = true) :=
  ⟨⟨({ up with clk := { up.clk with lock := true } }), host, by decide +kernel⟩,
   ⟨up, host, 0x8000000B, by decide +kernel⟩,
   ⟨up, host, .wmkPlanBase, by decide +kernel⟩,
   ⟨({ up with hold64 := [(.wmkPlanBase, 0x12345)] }), host, 0x12345, by decide +kernel⟩,
   ⟨up, host, by decide +kernel⟩,
   ⟨up, host, .wmkValue, by decide +kernel⟩,
   ⟨({ up with flt := { up.flt with haltCause := 1 } }), host, .colCfg, by decide +kernel⟩⟩

end W01

namespace W02

def good : State := { up with log := LogState.init }
def failing : State := { good with mod := { up.mod with phase := .failing } }

/-- States and operands that meet the hypotheses of PowerSequence, clause by clause. -/
theorem test_witness_PowerSequence :
    (∃ (c : Nat → Instr) (s : State), (c = Instr.powerUp ∨ c = Instr.powerReturnStable) ∧ s.mod.phase = .off) ∧
    (∃ (c : Nat → Instr) (s : State), (c = Instr.powerUp ∨ c = Instr.powerReturnStable) ∧ s.mod.phase = .off) ∧
    (∃ (c : Nat → Instr) (s : State), (c = Instr.powerUp ∨ c = Instr.powerReturnStable) ∧ s.mod.phase ≠ .off) ∧
    (∃ (s : State), s.mod.phase = .charging) ∧
    (∃ (s : State), s.mod.phase ≠ .charging) ∧
    (∃ (s : State), s.mod.phase = .charged) ∧
    (∃ (s : State), s.mod.phase = .charged) ∧
    (∃ (s : State), s.mod.phase = .strapped) ∧
    (∃ (s : State), s.mod.phase = .good) ∧
    (∃ (s : State), (s.mod.phase = .charging ∨ s.mod.phase = .charged ∨ s.mod.phase = .strapped)) ∧
    (∃ (s : State), s.mod.phase = .failing) ∧
    (∃ (s : State), s.mod.phase = .failing ∧ s.mod.failCommitted = false) ∧
    (∃ (s : State), s.mod.phase = .failing ∧ s.mod.failCommitted = true) ∧
    (∃ (s : State), s.mod.phase = .failing) ∧
    (∃ (s : State), s.mod.phase ≠ .failing) :=
  ⟨⟨.powerUp, State.reset, by first | decide +kernel | rfl | (dsimp only; decide +kernel) | simp, by first | decide +kernel | rfl | (dsimp only; decide +kernel) | simp⟩,
   ⟨.powerReturnStable, State.reset, by first | decide +kernel | rfl | (dsimp only; decide +kernel) | simp, by first | decide +kernel | rfl | (dsimp only; decide +kernel) | simp⟩,
   ⟨.powerUp, up, by first | decide +kernel | rfl | (dsimp only; decide +kernel) | simp, by first | decide +kernel | rfl | (dsimp only; decide +kernel) | simp⟩,
   ⟨({ State.reset with mod := { ModuleState.init with phase := .charging } }), by decide +kernel⟩,
   ⟨State.reset, by decide +kernel⟩,
   ⟨({ State.reset with mod := { ModuleState.init with phase := .charged } }), by decide +kernel⟩,
   ⟨({ State.reset with mod := { ModuleState.init with phase := .charged } }), by decide +kernel⟩,
   ⟨({ State.reset with mod := { ModuleState.init with phase := .strapped } }), by decide +kernel⟩,
   ⟨up, by decide +kernel⟩,
   ⟨({ State.reset with mod := { ModuleState.init with phase := .charged } }), by decide +kernel⟩,
   ⟨({ failing with mxe := { MxeState.init with engines := [(63, { Engine.init with phase := .run })] } }), by decide +kernel⟩,
   ⟨failing, by decide +kernel⟩,
   ⟨({ failing with mod := { failing.mod with failCommitted := true } }), by decide +kernel⟩,
   ⟨failing, by decide +kernel⟩,
   ⟨up, by decide +kernel⟩⟩

/-- States and operands that meet the hypotheses of ResetInputsAndThermalLoop, clause by clause. -/
theorem test_witness_ResetInputsAndThermalLoop :
    (∃ (ns : Nat), ns < 1000) ∧
    (∃ (s : State) (ns : Nat), 1000 ≤ ns ∧ s.mod.phase = .good ∧ s.mod.perstN = true) ∧
    (∃ (s : State) (ns : Nat), 1000 ≤ ns ∧ s.mod.phase = .good ∧ s.mod.modResetN = true) ∧
    (∃ (s : State), s.mod.phase ≠ .failing) ∧
    (∃ (s : State), s.mod.phase ≠ .failing) ∧
    (∃ (temp : Nat), temp ≤ 400) ∧
    (∃ (s : State) (temp : Nat), 400 < temp ∧ s.mod.modResetN = true) ∧
    (∃ (temp : Nat), temp ≤ 400) ∧
    (∃ (s : State) (temp : Nat), s.mod.tripped = false ∧ stageEntered temp ≤ s.mod.thermalStage) ∧
    (∃ (s : State) (temp : Nat), s.mod.tripped = false ∧ 950 ≤ temp ∧ temp < 1030 ∧ s.mod.thermalStage < stageEntered temp) ∧
    (∃ (s : State) (temp : Nat), s.mod.tripped = false ∧ 950 ≤ temp ∧ temp < 1030 ∧ s.mod.thermalStage < stageEntered temp) ∧
    (∃ (s : State) (temp : Nat), s.mod.tripped = false ∧ 1030 ≤ temp ∧ temp < 1050 ∧ s.mod.thermalStage < 3) ∧
    (∃ (s : State) (temp : Nat), s.mod.tripped = false ∧ 1050 ≤ temp ∧ s.mod.thermalStage < 4 ∧ s.mod.phase = .good) ∧
    (∃ (s : State) (temp : Nat), s.mod.tripped = false ∧ s.mod.thermalStage = 3 ∧ temp < 920) ∧
    (∃ (s : State), s.mod.tripped = true ∧ s.mod.hottest < 850) ∧
    (∃ (s : State), (s.mod.tripped = false ∨ 850 ≤ s.mod.hottest)) :=
  ⟨⟨999, by decide +kernel⟩,
   ⟨up, 1000, by decide +kernel⟩,
   ⟨good, 1000, by decide +kernel⟩,
   ⟨({ up with mod := { up.mod with perstN := false } }), by decide +kernel⟩,
   ⟨({ up with mod := { up.mod with modResetN := false }, flt := { up.flt with haltCause := 1 } }), by decide +kernel⟩,
   ⟨400, by decide +kernel⟩,
   ⟨up, 401, by decide +kernel⟩,
   ⟨400, by decide +kernel⟩,
   ⟨up, 949, by decide +kernel⟩,
   ⟨up, 1000, by decide +kernel⟩,
   ⟨up, 950, by decide +kernel⟩,
   ⟨({ up with mxe := { MxeState.init with engines := [(63, { Engine.init with phase := .run })] } }), 1049, by decide +kernel⟩,
   ⟨up, 1050, by decide +kernel⟩,
   ⟨({ up with mod := { up.mod with thermalStage := 3 }, clk := { up.clk with paused := true } }), 919, by decide +kernel⟩,
   ⟨({ up with mod := { up.mod with tripped := true, thermalStage := 4, hottest := 849 } }), by decide +kernel⟩,
   ⟨({ up with mod := { up.mod with tripped := true, hottest := 850 } }), by decide +kernel⟩⟩

/-- States and operands that meet the hypotheses of TamperAlarms, clause by clause. -/
theorem test_witness_TamperAlarms :
    let alarmed := fun (code : Nat) (s t : State) =>
      t.nv.otp.root = none ∧ t.nv.otp.tray = none ∧ t.nv.otp.zeroised = true ∧
      (s.mod.phase = .good → t.sec.alarmDue = some (s.sec.alarmDue.getD code)) ∧
      (s.mod.phase = .off → t.nv.otp.vbatAlarms = s.nv.otp.vbatAlarms ++ [code])
    (∃ (s : State), s.mod.loopMissA = 0 ∧ s.mod.loopMissB = 0) ∧
    (∃ (s : State), 1 ≤ s.mod.loopMissA) ∧
    (∃ (s : State), 1 ≤ s.mod.loopMissB) ∧
    (∃ (s : State), s.mod.meshMiss = 0) ∧
    (∃ (s : State), 1 ≤ s.mod.meshMiss) ∧
    (∃ (s : State), s.mod.aoFrom48 = true) ∧
    (∃ (s : State) (mv : Nat), s.mod.aoFrom48 = false ∧ mv < 2200) ∧
    (∃ (s : State) (mv : Nat), s.mod.aoFrom48 = false ∧ 2200 ≤ mv) ∧
    (∃ (s : State) (rail : Nat), railArmed s rail = true) ∧
    (∃ (s : State) (rail : Nat), railArmed s rail = false) ∧
    (∃ (s : State), s.sec.alarmDue = none) ∧
    (∃ (s : State) (code : Nat), s.sec.alarmDue = some code) :=
  ⟨⟨up, by decide +kernel⟩,
   ⟨({ up with mod := { up.mod with loopMissA := 1 } }), by decide +kernel⟩,
   ⟨({ up with mod := { up.mod with loopMissB := 1 } }), by decide +kernel⟩,
   ⟨up, by decide +kernel⟩,
   ⟨({ up with mod := { up.mod with meshMiss := 1 } }), by decide +kernel⟩,
   ⟨up, by decide +kernel⟩,
   ⟨State.reset, 2199, by decide +kernel⟩,
   ⟨State.reset, 2200, by decide +kernel⟩,
   ⟨up, 0, by decide +kernel⟩,
   ⟨State.reset, 0, by decide +kernel⟩,
   ⟨up, by decide +kernel⟩,
   ⟨({ up with sec := { up.sec with alarmDue := some 4 } }), 4, by decide +kernel⟩⟩

end W02

namespace W03

def good : State := { up with log := LogState.init }
def UT : UnitTest := { tiles := 0xF, dead := false }
def waiting : State := { good with clk := { ClkState.init with inL0 := false, scalePending := some 2 } }
def atM (n : Nat) : State := { good with clk := { ClkState.init with phase := .running, milestone := n, progress := 9, inL0 := true } }
def otpBad : OtpState := { OtpState.init with root := none }
def eR (u : Nat) : State := { up with flt := { FltState.init with engines := [(u, 3)], resBusy := some (.engine u) } }
def pR (p : Nat) : State := { up with flt := { FltState.init with parts := [(p, 3, [])] } }
def lcC (f t : Nat) : State := { up with lcs := { up.lcs with busy := some { mgt := false, target := t, token := 5 }, fails := f } }
def tokS : State := { lcC 0 0x40 with nv := { NvState.init with otp := { OtpState.init with tokens := [(8, .digest (Config.sha384 (leBytes 32 5)))] } } }
def blank : State := { up with nv := { NvState.init with otp := { OtpState.init with a := 0, b := 0, c := 0, tokens := [] } }, lcs := { up.lcs with position := 0 } }

/-- States and operands that meet the hypotheses of StartUpSequence, clause by clause. -/
theorem test_witness_StartUpSequence :
    let at_ := fun (n : Nat) (s : State) => s.clk.phase = .running ∧ s.clk.milestone = n ∧ blankRest s = false
    let moved := fun (n : Nat) (t : State) => t.clk.phase = .running ∧ t.clk.milestone = n ∧ t.clk.progress = 0
    (∃ (s : State), s.clk.phase = .waiting ∧ s.mod.phase = .good ∧ s.mod.pwrGood = true ∧ s.mod.perstN = true ∧ s.mod.modResetN = true ∧ s.mod.tripped = false) ∧
    (∃ (s : State), (s.mod.pwrGood = false ∨ s.mod.perstN = false ∨ s.mod.modResetN = false)) ∧
    (∃ (s : State) (p : Nat), at_ 0 s ∧ posMajority s.nv.otp = 2 ^ p - 1 ∧ 1 ≤ p ∧ p ≤ 29) ∧
    (∃ (s : State) (p : Nat), at_ 0 s ∧ posMajority s.nv.otp = 2 ^ p - 1 ∧ 1 ≤ p ∧ p ≤ 29) ∧
    (∃ (s : State), at_ 0 s) ∧
    (∃ (s : State), at_ 1 s) ∧
    (∃ (s : State), at_ 1 s ∧ s.clk.attempt < 2) ∧
    (∃ (s : State), at_ 2 s) ∧
    (∃ (s : State) (a : FwVerdict), at_ 3 s ∧ fwGood { s.nv.fw with a := { s.nv.fw.a with passed := (a.digestOk, a.sigOk) } } { s.nv.fw.a with passed := (a.digestOk, a.sigOk) } = true) ∧
    (∃ (s : State) (a : FwVerdict) (b : FwVerdict), at_ 3 s ∧ a.digestOk = false ∧ b.digestOk = false) ∧
    (∃ (s : State), at_ 4 s) ∧
    (∃ (s : State), at_ 5 s) ∧
    (∃ (s : State), at_ 6 s) ∧
    (∃ (s : State) (c : Nat), at_ 7 s ∧ c < 64) ∧
    (∃ (s : State), at_ 12 s) ∧
    (∃ (s : State), at_ 14 s) ∧
    (∃ (s : State), s.clk.phase = .running) ∧
    (∃ (s : State), missWatched s = true ∧ s.clk.attempt < 2) ∧
    (∃ (s : State), missWatched s = true ∧ 2 ≤ s.clk.attempt) ∧
    (∃ (s : State), missWatched s = true ∧ s.clk.attempt < 2) ∧
    (∃ (s : State), at_ 2 s ∧ s.clk.paused = false) ∧
    (∃ (s : State), s.clk.phase = .faultHold) ∧
    (∃ (s : State), s.mod.phase = .good ∧ s.mod.perstN = true ∧ s.clk.phase = .running ∧ 1 ≤ s.clk.milestone ∧ blankRest s = false) :=
  ⟨⟨waiting, by decide +kernel⟩,
   ⟨({ waiting with mod := { up.mod with perstN := false } }), by decide +kernel⟩,
   ⟨({ atM 0 with nv := { NvState.init with otp := { OtpState.init with a := 2 ^ 29 - 1, b := 2 ^ 29 - 1, c := 0 } } }), 29, by decide +kernel⟩,
   ⟨(atM 0), 15, by decide +kernel⟩,
   ⟨(atM 0), by decide +kernel⟩,
   ⟨(atM 1), by decide +kernel⟩,
   ⟨({ atM 1 with clk := { (atM 1).clk with attempt := 1 } }), by decide +kernel⟩,
   ⟨({ atM 2 with clk := { (atM 2).clk with inL0 := false } }), by decide +kernel⟩,
   ⟨(atM 3), (⟨true, true⟩), by decide +kernel⟩,
   ⟨(atM 3), (⟨false, true⟩), (⟨false, true⟩), by decide +kernel⟩,
   ⟨(atM 4), by decide +kernel⟩,
   ⟨(atM 5), by decide +kernel⟩,
   ⟨(atM 6), by decide +kernel⟩,
   ⟨(atM 7), 63, by decide +kernel⟩,
   ⟨(atM 12), by decide +kernel⟩,
   ⟨(atM 14), by decide +kernel⟩,
   ⟨({ atM 14 with clk := { (atM 14).clk with progress := 65535 } }), by decide +kernel⟩,
   ⟨({ atM 8 with clk := { (atM 8).clk with attempt := 1 } }), by decide +kernel⟩,
   ⟨({ atM 8 with clk := { (atM 8).clk with attempt := 2 } }), by decide +kernel⟩,
   ⟨({ atM 8 with clk := { (atM 8).clk with attempt := 1 } }), by decide +kernel⟩,
   ⟨({ atM 2 with clk := { (atM 2).clk with inL0 := false } }), by decide +kernel⟩,
   ⟨({ atM 0 with clk := { (atM 0).clk with phase := .faultHold, attempt := 1 } }), by decide +kernel⟩,
   ⟨({ atM 1 with clk := { (atM 1).clk with inL0 := false } }), by decide +kernel⟩⟩

/-- States and operands that meet the hypotheses of FaultRecovery, clause by clause. -/
theorem test_witness_FaultRecovery :
    (∃ (s : State) (p : Nat), inService s = true ∧ 1 ≤ p ∧ p < 4 ∧ partOff s p = false ∧ partInReset s p = false) ∧
    (∃ (s : State), inService s = true ∧ partOff s 0 = false ∧ (recentResets s).length < 3) ∧
    (∃ (s : State), inService s = true ∧ (recentResets s).length < 3) ∧
    (∃ (s : State), inService s = true ∧ 3 ≤ (recentResets s).length) ∧
    (∃ (s : State), inService s = false) ∧
    (∃ (s : State) (u : Nat) (x : UnitTest), unitInReset s u = true ∧ unitKind u = 0 ∧ popCount (Nat.lor (engAt s (unitIndex u)).mask (x.tiles % 2 ^ 64)) 64 ≤ 4) ∧
    (∃ (s : State) (u : Nat), unitInReset s u = false) ∧
    (∃ (s : State) (p : Nat), partInReset s p = true ∧ p < 4) ∧
    (∃ (s : State) (p : Nat), partInReset s p = true ∧ p < 4 ∧ partOff s p = false) ∧
    (∃ (s : State) (u : Nat), inService s = true ∧ unitInReset s u = true ∧ 1 ≤ unitPart u ∧ unitPart u < 4 ∧ partOff s (unitPart u) = false ∧ partInReset s (unitPart u) = false) ∧
    (∃ (s : State) (p : Nat), inService s = true ∧ s.clk.paused = false ∧ partInReset s p = true ∧ (recentResets s).length < 3) ∧
    (∃ (s : State) (src : Src) (u : Nat), srcOpen s src = true ∧ s.flt.haltCause = 0 ∧ u < 2 ^ 20 ∧ unitLegal u = true ∧ partOff s (unitPart u) = false ∧ unitInReset s u = false ∧ partInReset s (unitPart u) = false) ∧
    (∃ (s : State) (src : Src) (u : Nat), srcOpen s src = true ∧ s.flt.haltCause = 0 ∧ unitLegal (u % 2 ^ 20) = false) ∧
    (∃ (s : State) (src : Src) (p : Nat), srcOpen s src = true ∧ s.flt.haltCause = 0 ∧ 1 ≤ p ∧ p < 4 ∧ partOff s p = false ∧ partInReset s p = false) ∧
    (∃ (s : State) (src : Src), srcOpen s src = true ∧ s.flt.haltCause = 0) ∧
    (∃ (s : State) (src : Src), srcOpen s src = true ∧ s.clk.phase = .ready) ∧
    (∃ (s : State) (src : Src), srcOpen s src = true ∧ s.clk.phase = .running) :=
  ⟨⟨up, 3, by decide +kernel⟩,
   ⟨up, by decide +kernel⟩,
   ⟨up, by decide +kernel⟩,
   ⟨({ up with flt := { FltState.init with faultResets := [0, 0, 0] } }), by decide +kernel⟩,
   ⟨State.reset, by decide +kernel⟩,
   ⟨(eR (unitOf 0 63)), (unitOf 0 63), UT, by decide +kernel⟩,
   ⟨up, (unitOf 0 63), by decide +kernel⟩,
   ⟨(pR 3), 3, by decide +kernel⟩,
   ⟨(pR 3), 3, by decide +kernel⟩,
   ⟨(eR (unitOf 1 10239)), (unitOf 1 10239), by decide +kernel⟩,
   ⟨(pR 3), 3, by decide +kernel⟩,
   ⟨up, (.host false), (unitOf 4 63), by decide +kernel⟩,
   ⟨up, (.host false), (unitOf 4 64), by decide +kernel⟩,
   ⟨up, (.host false), 3, by decide +kernel⟩,
   ⟨up, (.host false), by decide +kernel⟩,
   ⟨up, (.host false), by decide +kernel⟩,
   ⟨({ atM 14 with clk := { (atM 14).clk with milestone := 14 } }), (.host false), by decide +kernel⟩⟩

/-- States and operands that meet the hypotheses of LifeCycleTransitions, clause by clause. -/
theorem test_witness_LifeCycleTransitions :
    (∃ (s : State) (src : Src) (target : Nat), srcOpen s src = true ∧ s.flt.haltCause = 0 ∧ s.lcs.busy = none ∧ lcLegal target = true) ∧
    (∃ (s : State) (src : Src), srcOpen s src = true ∧ s.flt.haltCause = 0 ∧ s.lcs.busy.isSome = true) ∧
    (∃ (s : State) (c : LcsCommand), s.lcs.busy = some c ∧ c.mgt = false ∧ s.lcs.fails < 16 ∧ lcDest (lcPosition s) c.target = none) ∧
    (∃ (s : State) (c : LcsCommand) (q : Nat) (slot : Nat), s.lcs.busy = some c ∧ c.mgt = false ∧ s.lcs.fails < 16 ∧ lcDest (lcPosition s) c.target = some (q, slot) ∧ tokenOk s.nv.otp slot c.token = false) ∧
    (∃ (s : State) (c : LcsCommand), s.lcs.busy = some c ∧ c.mgt = false ∧ 16 ≤ s.lcs.fails) ∧
    (∃ (s : State) (c : LcsCommand), s.lcs.busy = some c ∧ c.mgt = false ∧ s.lcs.fails < 16 ∧ lcPosition s = 15 ∧ c.target = 0x40 ∧ tokenOk s.nv.otp 8 c.token = true) ∧
    (∃ (s : State) (c : LcsCommand), s.lcs.busy = some c ∧ c.mgt = false ∧ s.lcs.fails < 16 ∧ lcPosition s = 15 ∧ c.target = 0x40 ∧ tokenOk s.nv.otp 8 c.token = true) ∧
    (∃ (s : State) (slot : Nat) (d : BitVec 384), lcNow s = 0 ∧ slot < 11 ∧ thas s.nv.otp.tokens slot = false ∧ s.mod.phase = .good ∧ d ≠ BitVec.allOnes 384) ∧
    (∃ (s : State) (slot : Nat), thas s.nv.otp.tokens slot = true) ∧
    (∃ (s : State), s.mod.phase = .good ∧ s.sec.session = .none_ ∧ extestAllowed s = true) ∧
    (∃ (s : State), s.sec.session = .none_ ∧ extestAllowed s = false) ∧
    (∃ (s : State), s.lcs.extest = true) ∧
    (∃ (s : State), s.lcs.extest = false) :=
  ⟨⟨up, (.host false), 0x40, by decide +kernel⟩,
   ⟨(lcC 0 0x40), (.host false), by decide +kernel⟩,
   ⟨(lcC 15 0x30), ({ mgt := false, target := 0x30, token := 5 }), by decide +kernel⟩,
   ⟨({ lcC 15 0x40 with nv := { NvState.init with otp := { OtpState.init with tokens := [] } } }), ({ mgt := false, target := 0x40, token := 5 }), 16, 8, by decide +kernel⟩,
   ⟨(lcC 16 0x40), ({ mgt := false, target := 0x40, token := 5 }), by decide +kernel⟩,
   ⟨tokS, ({ mgt := false, target := 0x40, token := 5 }), by first | decide +kernel | (simp [tokenOk, tokS, tget]) | rfl | simp, by first | decide +kernel | (simp [tokenOk, tokS, tget]) | rfl | simp, by first | decide +kernel | (simp [tokenOk, tokS, tget]) | rfl | simp, by first | decide +kernel | (simp [tokenOk, tokS, tget]) | rfl | simp, by first | decide +kernel | (simp [tokenOk, tokS, tget]) | rfl | simp, by first | decide +kernel | (simp [tokenOk, tokS, tget]) | rfl | simp⟩,
   ⟨tokS, ({ mgt := false, target := 0x40, token := 5 }), by first | decide +kernel | (simp [tokenOk, tokS, tget]) | rfl | simp, by first | decide +kernel | (simp [tokenOk, tokS, tget]) | rfl | simp, by first | decide +kernel | (simp [tokenOk, tokS, tget]) | rfl | simp, by first | decide +kernel | (simp [tokenOk, tokS, tget]) | rfl | simp, by first | decide +kernel | (simp [tokenOk, tokS, tget]) | rfl | simp, by first | decide +kernel | (simp [tokenOk, tokS, tget]) | rfl | simp⟩,
   ⟨blank, 10, 5, by decide +kernel⟩,
   ⟨up, 10, by decide +kernel⟩,
   ⟨blank, by decide +kernel⟩,
   ⟨up, by decide +kernel⟩,
   ⟨({ blank with lcs := { blank.lcs with extest := true } }), by decide +kernel⟩,
   ⟨up, by decide +kernel⟩⟩

end W03

namespace W04

def host : Src := .host false
def quoA : VfQuota := { vfInit.quota with contexts := 2, queuePairs := 3, hbmGib := 1 }
def hV (f : HifState → HifState) : State := { up with cmd := { CmdState.init with qps := [(0, qpS)] }, hif := f { HifState.init with numVfs := 512, vfEnable := true } }
def vA (st : VfState) : State := hV fun h => { h with vfs := [(512, { vfInit with state := st, quota := quoA, qpMap := [1, 2, 3] })] }
def vT (td : TdStep) (flr : Bool) : State :=
  hV fun h => { h with vfs := [(512, { vfInit with state := .teardown, quota := quoA, qpMap := [1, 2, 3], tdStep := td, tdFlr := flr, pend := [(0, 7)], releases := 1 })], dirty := [(512, 1)] }
def full (s : State) : State := { s with hif := { s.hif with vfRecords := List.replicate 1024 ⟨0, 0, 0, 0⟩ } }
def conf (s : State) : State := { s with sec := { s.sec with session := .open_ } }
def secd (t : TdiState) : State := { up with hif := { HifState.init with spdmSecured := true, tdi := t } }
def ideS (b : Bool) (t : TdiState) : State := { up with hif := { HifState.init with ide := [(4, { keyed := true, insecure := false, bound := b, key := 5 })], tdi := t } }
def alias_ : State := { up with sec := { SecState.init with alias_ := true, session := .open_ } }

/-- States and operands that meet the hypotheses of VfProvisioning, clause by clause. -/
theorem test_witness_VfProvisioning :
    let open_ := fun (src : Src) (v : Nat) (s : State) =>
      srcOpen s src = true ∧ vfLegal v = true ∧ regBlocked s (.hifVfCtrl v) true = false
    let torn := fun (v : Nat) (t : State) => (vfOf t v).state = .teardown ∧ (vfOf t v).tdStep = .begun
    (∃ (s : State) (src : Src) (v : Nat), open_ src v s ∧ vfQueueFull s = false ∧ confidential s = false ∧ (vfOf s v).state = .idle ∧ vfEnabled s v = true ∧ (vfOf s v).quota.queuePairs ≤ 256 * s.hif.vfBarMib ∧ shortPools s (vfOf s v).quota = 0) ∧
    (∃ (s : State) (src : Src) (v : Nat), open_ src v s ∧ vfQueueFull s = false ∧ confidential s = false ∧ (vfOf s v).state = .idle ∧ vfEnabled s v = true ∧ (vfOf s v).quota.queuePairs ≤ 256 * s.hif.vfBarMib ∧ shortPools s (vfOf s v).quota ≠ 0) ∧
    (∃ (s : State) (src : Src) (v : Nat), open_ src v s ∧ vfQueueFull s = false ∧ confidential s = false ∧ (vfOf s v).state = .teardown ∧ vfEnabled s v = true) ∧
    (∃ (s : State) (src : Src) (v : Nat), open_ src v s ∧ vfQueueFull s = false ∧ confidential s = true) ∧
    (∃ (c : Src → Nat → Instr) (s : State) (src : Src) (v : Nat), (c = Instr.commit ∨ c = Instr.release) ∧ open_ src v s ∧ vfQueueFull s = true) ∧
    (∃ (c : Src → Nat → Instr) (s : State) (src : Src) (v : Nat), (c = Instr.commit ∨ c = Instr.release) ∧ open_ src v s ∧ vfQueueFull s = true) ∧
    (∃ (s : State) (src : Src) (v : Nat), open_ src v s ∧ vfQueueFull s = false ∧ (vfOf s v).state = .idle) ∧
    (∃ (s : State) (src : Src) (v : Nat), open_ src v s ∧ vfQueueFull s = false ∧ (vfOf s v).state = .active) ∧
    (∃ (s : State), configOpen s = true) ∧
    (∃ (s : State), configOpen s = true ∧ vfEnableHeld s = false) ∧
    (∃ (s : State), vfEnableHeld s = true) ∧
    (∃ (s : State) (mib : Nat), configOpen s = true ∧ (mib = 1 ∨ mib = 2 ∨ mib = 4)) ∧
    (∃ (s : State) (v : Nat), tdAt s v .begun = true) ∧
    (∃ (s : State) (v : Nat), tdAt s v .drained = true) ∧
    (∃ (s : State) (v : Nat), tdAt s v .aborted = true) ∧
    (∃ (s : State) (v : Nat) (n : Nat), v ≠ 0 ∧ tdAt s v .accounted = true ∧ (vfOf s v).state = .teardown ∧ (vfOf s v).tdFlr = false ∧ (vfOf s v).releases = n) ∧
    (∃ (s : State) (v : Nat), tdAt s v .accounted = true ∧ (vfOf s v).state = .teardown ∧ (vfOf s v).tdFlr = true) ∧
    (∃ (s : State) (v : Nat), tdAt s v .begun = true) ∧
    (∃ (s : State) (fn : Nat) (n : Nat), tgetD s.hif.dirty fn 0 = n + 1) ∧
    (∃ (s : State) (v : Nat), configOpen s = true ∧ vfEnabled s v = true ∧ (vfOf s v).state = .active) ∧
    (∃ (s : State) (v : Nat), configOpen s = true ∧ vfEnabled s v = true ∧ (vfOf s v).state = .teardown) ∧
    (∃ (s : State), configOpen s = true ∧ tdiLocked s = false) :=
  ⟨⟨(hV (fun h => { h with vfs := [(512, { vfInit with quota := quoA })] })), host, 512, by decide +kernel⟩,
   ⟨(hV (fun h => { h with vfs := [(512, { vfInit with quota := { quoA with contexts := 1024, hbmGib := 512 } })] })), host, 512, by decide +kernel⟩,
   ⟨(vA .teardown), host, 512, by decide +kernel⟩,
   ⟨(conf (vA .idle)), host, 1, by decide +kernel⟩,
   ⟨.commit, (full (vA .idle)), host, 1, by first | decide +kernel | rfl | (dsimp only; decide +kernel) | simp, by first | decide +kernel | rfl | (dsimp only; decide +kernel) | simp, by first | decide +kernel | rfl | (dsimp only; decide +kernel) | simp⟩,
   ⟨.release, (full (vA .active)), host, 512, by first | decide +kernel | rfl | (dsimp only; decide +kernel) | simp, by first | decide +kernel | rfl | (dsimp only; decide +kernel) | simp, by first | decide +kernel | rfl | (dsimp only; decide +kernel) | simp⟩,
   ⟨(vA .idle), host, 1, by decide +kernel⟩,
   ⟨(vA .active), host, 512, by decide +kernel⟩,
   ⟨(vA .active), by decide +kernel⟩,
   ⟨(vA .active), by decide +kernel⟩,
   ⟨({ up with hif := { HifState.init with tdi := .locked } }), by decide +kernel⟩,
   ⟨up, 4, by decide +kernel⟩,
   ⟨(vT .begun false), 512, by decide +kernel⟩,
   ⟨(vT .drained false), 512, by decide +kernel⟩,
   ⟨(vT .aborted false), 512, by decide +kernel⟩,
   ⟨(vT .accounted false), 512, 1, by decide +kernel⟩,
   ⟨(vT .accounted true), 512, by decide +kernel⟩,
   ⟨(vT .begun false), 512, by decide +kernel⟩,
   ⟨(vT .begun false), 512, 0, by decide +kernel⟩,
   ⟨(vA .active), 512, by decide +kernel⟩,
   ⟨(vT .begun false), 512, by decide +kernel⟩,
   ⟨(vA .active), by decide +kernel⟩⟩

/-- States and operands that meet the hypotheses of HostLinkSecurity, clause by clause. -/
theorem test_witness_HostLinkSecurity :
    (∃ (s : State), s.clk.inL0 = true) ∧
    (∃ (s : State), s.clk.inL0 = false) ∧
    (∃ (s : State), s.clk.inL0 = true ∧ s.mod.perstN = true ∧ tdiLocked s = false) ∧
    (∃ (s : State) (n : Nat), securedOpen s = true ∧ n < 5) ∧
    (∃ (s : State) (n : Nat), (ideOf s n).keyed = true ∧ (ideOf s n).insecure = false ∧ (ideOf s n).bound = false) ∧
    (∃ (s : State) (n : Nat), (ideOf s n).keyed = true ∧ (ideOf s n).insecure = false ∧ (ideOf s n).bound = true ∧ tdiLocked s = true ∧ s.sec.session = .none_) ∧
    (∃ (s : State), configOpen s = true ∧ tdiLocked s = true ∧ s.sec.session = .none_) ∧
    (∃ (s : State), configOpen s = true ∧ tdiLocked s = true ∧ s.sec.session ≠ .none_ ∧ s.flt.haltCause = 0) ∧
    (∃ (s : State), tdiLocked s = false) ∧
    (∃ (s : State) (n : Nat), securedOpen s = true ∧ s.hif.tdi = .unlocked ∧ s.hif.vfEnable = false ∧ (∀ e ∈ s.hif.vfs, e.2.state ≠ .teardown ∧ e.2.state ≠ .held) ∧ 1 ≤ n ∧ n ≤ 4) ∧
    (∃ (s : State), securedOpen s = true ∧ (s.hif.tdi ≠ .unlocked ∨ s.hif.vfEnable = true)) ∧
    (∃ (s : State), securedOpen s = true ∧ s.hif.tdi = .locked) ∧
    (∃ (s : State), securedOpen s = true ∧ s.hif.tdi ≠ .locked) ∧
    (∃ (s : State), securedOpen s = true ∧ s.sec.session = .none_) ∧
    (∃ (s : State), configOpen s = true) ∧
    (∃ (s : State), configOpen s = true ∧ s.sec.alias_ = true) ∧
    (∃ (s : State), configOpen s = true ∧ s.sec.alias_ = true ∧ pkRoom s 1 = true) ∧
    (∃ (s : State), configOpen s = true ∧ s.sec.alias_ = true ∧ pkRoom s 1 = true) ∧
    (∃ (s : State) (qp : Nat) (sub : Nat), findDesc s qp sub = none) ∧
    (∃ (s : State) (qp : Nat) (sub : Nat) (d : Desc), findDesc s qp sub = some d ∧ dRuns d = true) ∧
    (∃ (s : State) (v : Nat) (off : Nat), configOpen s = true ∧ vfEnabled s v = true ∧ off < 1024) :=
  ⟨⟨up, by decide +kernel⟩,
   ⟨State.reset, by decide +kernel⟩,
   ⟨(vA .active), by decide +kernel⟩,
   ⟨(secd .unlocked), 4, by decide +kernel⟩,
   ⟨(ideS false .run), 4, by decide +kernel⟩,
   ⟨(ideS true .run), 4, by decide +kernel⟩,
   ⟨(secd .run), by decide +kernel⟩,
   ⟨(conf (secd .run)), by decide +kernel⟩,
   ⟨up, by decide +kernel⟩,
   ⟨(secd .unlocked), 4, by decide +kernel⟩,
   ⟨(secd .run), by decide +kernel⟩,
   ⟨(secd .locked), by decide +kernel⟩,
   ⟨(secd .run), by decide +kernel⟩,
   ⟨(secd .run), by decide +kernel⟩,
   ⟨up, by decide +kernel⟩,
   ⟨alias_, by decide +kernel⟩,
   ⟨alias_, by decide +kernel⟩,
   ⟨alias_, by decide +kernel⟩,
   ⟨up, 3, 7, by decide +kernel⟩,
   ⟨(withD (dW 0x20 []) work), 3, 7, (dW 0x20 []), by decide +kernel⟩,
   ⟨(vA .active), 512, 1023, by decide +kernel⟩⟩

end W04

namespace W05

def pgS (q : QueuePair) (f : CmdState → CmdState) : State := { up with cmd := f { CmdState.init with qps := [(0, q), (3, qpA)] }, ctxs := [(5, ctxA)] }
def svq (q : QueuePair) : State := pgS q id
def vfr (q : QueuePair) : State := { svq q with hif := { HifState.init with vfRecords := [⟨0xF0, 512, 0, 5⟩, ⟨0xF1, 3, 0, 0⟩] } }
def qFull : QueuePair := { qpS with cqWritten := 64 }
def raw0 (seq op : Nat) (fs : List (Nat × Nat)) : BitVec 512 := rawOf op ((2, seq) :: fs)
def fS (q : QueuePair) : State := svq q
def dF (op : Nat) (fs : List (Nat × Nat)) (ph : DescPhase) : Desc := descOf 3 op fs ph

/-- States and operands that meet the hypotheses of DoorbellsAndServiceQueues, clause by clause. -/
theorem test_witness_DoorbellsAndServiceQueues :
    (∃ (s : State) (bar : Nat) (page : Nat) (bound : Bool) (q : Nat) (p : QueuePair), doorOpen s bound = true ∧ doorQp s bar page = some (q, p)) ∧
    (∃ (s : State) (bar : Nat) (page : Nat) (bound : Bool) (q : Nat) (p : QueuePair), doorOpen s bound = true ∧ doorQp s bar page = some (q, p)) ∧
    (∃ (s : State) (bar : Nat) (page : Nat) (bound : Bool) (q : Nat) (p : QueuePair), doorOpen s bound = true ∧ doorQp s bar page = some (q, p)) ∧
    (∃ (s : State) (bar : Nat) (page : Nat) (bound : Bool) (q : Nat) (p : QueuePair), doorOpen s bound = true ∧ doorQp s bar page = some (q, p)) ∧
    (∃ (s : State) (bound : Bool), doorOpen s bound = false) ∧
    (∃ (s : State) (fn : Nat) (bound : Bool) (v : Word) (q : Nat), doorOpen s bound = true ∧ svqNum s fn = some q ∧ svqOf s fn = none ∧ bitsOf v.toNat 0 11 < vectorCount fn) ∧
    (∃ (s : State) (fn : Nat) (bound : Bool) (q : Nat) (p : QueuePair), doorOpen s bound = true ∧ svqOf s fn = some (q, p)) ∧
    (∃ (s : State) (fn : Nat) (q : Nat) (p : QueuePair), svqOf s fn = some (q, p) ∧ p.unbuilding = true ∧ (∀ d ∈ s.cmd.descs, d.qp ≠ q) ∧ (pageOf s fn).heldBuild = false) ∧
    (∃ (s : State) (r : VfRecord) (rest : List VfRecord) (q : Nat) (p : QueuePair), s.hif.vfRecords = r :: rest ∧ svqOf s 0 = some (q, p) ∧ 2 ≤ freeSlots p) ∧
    (∃ (s : State) (r : VfRecord) (rest : List VfRecord) (q : Nat) (p : QueuePair), s.hif.vfRecords = r :: rest ∧ svqOf s 0 = some (q, p) ∧ freeSlots p < 2) ∧
    (∃ (s : State) (fn : Nat) (vec : Nat), fn * 4096 + vec ∈ s.hif.msixPending) ∧
    (∃ (s : State) (fn : Nat) (q : Nat) (p : QueuePair), heartsRun s = true ∧ svqOf s fn = some (q, p) ∧ 1 ≤ freeSlots p) ∧
    (∃ (s : State) (fn : Nat) (q : Nat) (p : QueuePair), heartsRun s = true ∧ svqOf s fn = some (q, p) ∧ freeSlots p = 0) :=
  ⟨⟨work, 0, 3, false, 3, qpA, by decide +kernel⟩,
   ⟨({ work with cmd := { work.cmd with qps := [(3, { qpA with cqWritten := 10, cqConsumed := 2 })] } }), 0, 3, false, 3, ({ qpA with cqWritten := 10, cqConsumed := 2 }), by decide +kernel⟩,
   ⟨({ work with cmd := { work.cmd with qps := [(3, { qpA with cqWritten := 10, cqConsumed := 2 })] } }), 0, 3, false, 3, ({ qpA with cqWritten := 10, cqConsumed := 2 }), by decide +kernel⟩,
   ⟨work, 0, 3, false, 3, qpA, by decide +kernel⟩,
   ⟨State.reset, true, by decide +kernel⟩,
   ⟨up, 0, false, 0xFFFF07FF, 0, by decide +kernel⟩,
   ⟨(svq qpS), 0, false, 0, qpS, by decide +kernel⟩,
   ⟨(svq { qpS with unbuilding := true }), 0, 0, ({ qpS with unbuilding := true }), by decide +kernel⟩,
   ⟨(vfr qpS), (⟨0xF0, 512, 0, 5⟩), ([⟨0xF1, 3, 0, 0⟩]), 0, qpS, by decide +kernel⟩,
   ⟨(vfr qFull), (⟨0xF0, 512, 0, 5⟩), ([⟨0xF1, 3, 0, 0⟩]), 0, qFull, by decide +kernel⟩,
   ⟨({ up with hif := { HifState.init with msixPending := [512 * 4096 + 63] } }), 512, 63, by decide +kernel⟩,
   ⟨(svq qpS), 0, 0, qpS, by decide +kernel⟩,
   ⟨(svq qFull), 0, 0, qFull, by decide +kernel⟩⟩

/-- States and operands that meet the hypotheses of FetchStartComplete, clause by clause. -/
theorem test_witness_FetchStartComplete :
    let fetched := fun (qp : Nat) (p : QueuePair) (raw : BitVec 512) =>
      ({ qp := qp, sub := p.nextSub, pos := p.fetchPos, fn := p.fn, raw := raw, phase := .fetched, noRecord := false
         sigOk := false, escalated := false, note := 0 } : Desc)
    let after := fun (p : QueuePair) =>
      { p with reserved := p.reserved + 1, nextSub := p.nextSub + 1, fetchPos := (p.fetchPos + 1) % 2 ^ p.sqLog }
    let able := fun (s : State) (qp : Nat) (p : QueuePair) =>
      cmdReady s = true ∧ fetchChoice s = some qp ∧ getQp s qp = some p
    (∃ (s : State) (qp : Nat) (raw : BitVec 512) (p : QueuePair), able s qp p ∧ dSeq (fetched qp p raw) = p.nextSub % 65536 ∧ headerFail (fetchServed p s) (fetched qp p raw) = none) ∧
    (∃ (s : State) (qp : Nat) (raw : BitVec 512) (p : QueuePair) (r : Result), able s qp p ∧ dSeq (fetched qp p raw) = p.nextSub % 65536 ∧ headerFail (fetchServed p s) (fetched qp p raw) = some r) ∧
    (∃ (s : State) (qp : Nat) (raw : BitVec 512) (p : QueuePair), able s qp p ∧ p.ctx = none ∧ dSeq (fetched qp p raw) ≠ p.nextSub % 65536) ∧
    (∃ (s : State) (qp : Nat) (p : QueuePair), able s qp p ∧ p.ctx = none) ∧
    (∃ (s : State) (qp : Nat), fetchChoice s ≠ some qp) ∧
    (∃ (s : State) (qp : Nat) (sub : Nat) (d : Desc), findDesc s qp sub = some d ∧ d.phase = .fetched ∧ nextToStart s d = true ∧ dFence d = false ∧ dWait d = 0) ∧
    (∃ (s : State) (qp : Nat) (sub : Nat) (d : Desc) (e : Event), findDesc s qp sub = some d ∧ d.phase = .fetched ∧ nextToStart s d = true ∧ fenceMet s d = true ∧ dWait d ≠ 0 ∧ tget s.evs (hSlot (dWait d)) = some e ∧ e.aborting = false ∧ e.signalled = true ∧ e.error = false) ∧
    (∃ (s : State) (qp : Nat) (sub : Nat) (d : Desc) (e : Event), findDesc s qp sub = some d ∧ d.phase = .fetched ∧ nextToStart s d = true ∧ fenceMet s d = true ∧ dWait d ≠ 0 ∧ tget s.evs (hSlot (dWait d)) = some e ∧ e.signalled = true ∧ e.error = true) ∧
    (∃ (s : State) (qp : Nat) (sub : Nat) (d : Desc) (e : Event), findDesc s qp sub = some d ∧ dWait d ≠ 0 ∧ tget s.evs (hSlot (dWait d)) = some e ∧ e.aborting = false ∧ e.signalled = false) ∧
    (∃ (s : State) (qp : Nat) (sub : Nat) (d : Desc), findDesc s qp sub = some d ∧ (nextToStart s d = false ∨ dFence d = true ∧ fenceMet s d = false)) ∧
    (∃ (s : State) (qp : Nat) (sub : Nat) (d : Desc), findDesc s qp sub = some d ∧ (nextToStart s d = false ∨ dFence d = true ∧ fenceMet s d = false)) ∧
    (∃ (s : State) (qp : Nat) (sub : Nat) (d : Desc) (r : Result) (p : QueuePair), findDesc s qp sub = some d ∧ d.phase = .ended r ∧ d.noRecord = false ∧ d.sigOk = false ∧ dQuiet d = true ∧ r.status = 0 ∧ d.qp = qp ∧ byRun sub = false ∧ getQp s qp = some p) ∧
    (∃ (s : State) (qp : Nat) (sub : Nat) (d : Desc) (r : Result) (p : QueuePair), findDesc s qp sub = some d ∧ d.phase = .ended r ∧ d.noRecord = false ∧ d.sigOk = false ∧ dQuiet d = false ∧ p.armed = false ∧ byRun sub = false ∧ getQp s qp = some p) ∧
    (∃ (s : State) (qp : Nat) (sub : Nat) (d : Desc), findDesc s qp sub = some d ∧ dEnded d = false) :=
  ⟨⟨(svq qpS), 3, (raw0 7 0x00 []), qpA, by decide +kernel⟩,
   ⟨(svq qpS), 3, (raw0 7 0xEE []), qpA, (refuse 0x11 0), by decide +kernel⟩,
   ⟨(pgS { qpS with sqTail := 8 } id), 0, (raw0 8 0x00 []), ({ qpS with sqTail := 8 }), by decide +kernel⟩,
   ⟨(pgS { qpS with sqTail := 8 } id), 0, ({ qpS with sqTail := 8 }), by decide +kernel⟩,
   ⟨(svq qpS), 0, by decide +kernel⟩,
   ⟨(withD (dF 0 [] .fetched) work), 3, 7, (dF 0 [] .fetched), by decide +kernel⟩,
   ⟨({ withD (dF 0 [(16, 0x40000001)] .fetched) work with evs := [(1, { evA with signalled := true })] }), 3, 7, (dF 0 [(16, 0x40000001)] .fetched), ({ evA with signalled := true }), by decide +kernel⟩,
   ⟨({ withD (dF 0 [(16, 0x40000001)] .fetched) work with evs := [(1, { evA with signalled := true, error := true })] }), 3, 7, (dF 0 [(16, 0x40000001)] .fetched), ({ evA with signalled := true, error := true }), by decide +kernel⟩,
   ⟨(withD (dF 0 [(16, 0x40000001)] .fetched) work), 3, 7, (dF 0 [(16, 0x40000001)] .fetched), evA, by decide +kernel⟩,
   ⟨({ work with cmd := { work.cmd with descs := [{ dF 0 [] .fetched with sub := 6 }, dF 0 [] .fetched] } }), 3, 7, (dF 0 [] .fetched), by decide +kernel⟩,
   ⟨({ work with cmd := { work.cmd with descs := [{ dF 0 [] .running with sub := 6 }, dF 0 [(1, 1)] .fetched] } }), 3, 7, (dF 0 [(1, 1)] .fetched), by decide +kernel⟩,
   ⟨(withD (dF 0 [(1, 2)] (.ended (resOf 0))) work), 3, 7, (dF 0 [(1, 2)] (.ended (resOf 0))), (resOf 0), qpA, by decide +kernel⟩,
   ⟨(withD (dF 0 [] (.ended (resOf 0))) work), 3, 7, (dF 0 [] (.ended (resOf 0))), (resOf 0), qpA, by decide +kernel⟩,
   ⟨(withD (dF 0 [] .running) work), 3, 7, (dF 0 [] .running), by decide +kernel⟩⟩

end W05

namespace W06

def svcW (op : Nat) (fs : List (Nat × Nat)) : State := withD (dS op fs) work
def svcN (op : Nat) (fs : List (Nat × Nat)) : State := withD (dN op fs) work
def wk (op : Nat) (fs : List (Nat × Nat)) : State := withD (dW op fs) work
def attE : AttEntry := { pending := true, count := 3, epochLast := 0x12345, detail := 9, handle := 8 }
def attS (op : Nat) (fs : List (Nat × Nat)) : State :=
  { svcN op fs with cmd := { (svcN op fs).cmd with att := [(0, { epoch := 0x12350, entries := [(0x70, attE)] })] } }
def rst (st : CtxState) (w : List (Nat × Nat)) (s : State) : State := { s with ctxs := [(5, { ctxA with state := st, waiters := w })] }
def graA : Graph := { ctx := 5, state := .loaded, length := 4096, nArgs := 0, tasks := [], tokens := [], code := [], digest := 0 }
def evS (e : Event) (s : State) : State := { s with evs := [(1, e)] }
def cntE : Event := { evA with counter := true, threshold := 3, count := 2 }
def expE : Event := { evA with scope := 2, node := 5, nodeMask := 0xFFFFFF }
def runW (op : Nat) (fs : List (Nat × Nat)) : State := withD (descOf 3 op fs .running) work

/-- States and operands that meet the hypotheses of ContextsAndQueuePairs, clause by clause. -/
theorem test_witness_ContextsAndQueuePairs :
    (∃ (s : State) (qp : Nat) (sub : Nat) (d : Desc), Started s qp sub 0x00 d) ∧
    (∃ (c : Nat → Nat → Instr) (s : State) (qp : Nat) (sub : Nat), c ∈ [Instr.nop, .ackAttention, .getAttention, .createContext, .resetContext, .destroyContext, .createQueuePair, .destroyQueuePair, .createMemory, .destroyMemory, .createEvent, .destroyEvent, .exportEvent, .eventSignal, .eventAdd, .eventReset, .eventWait, .eventQuery, .eventRemote, .destroyTaskGraph, .fill] ∧ (∀ d, findDesc s qp sub = some d → d.phase ≠ .started)) ∧
    (∃ (s : State) (qp : Nat) (sub : Nat) (d : Desc) (e : AttEntry), Started s qp sub 0x02 d ∧ dfld d 24 1 ∈ attCodes ∧ tget (attOf s d.fn).entries (dfld d 24 1) = some e) ∧
    (∃ (s : State) (qp : Nat) (sub : Nat) (d : Desc) (e : AttEntry) (ep : Nat), Started s qp sub 0x01 d ∧ dfld d 24 1 ∈ attCodes ∧ tget (attOf s d.fn).entries (dfld d 24 1) = some e ∧ fullEpoch (attOf s d.fn).epoch (dfld d 25 1) = some ep) ∧
    (∃ (s : State) (qp : Nat) (sub : Nat) (d : Desc) (e : AttEntry) (ep : Nat), Started s qp sub 0x01 d ∧ dfld d 24 1 ∈ attCodes ∧ tget (attOf s d.fn).entries (dfld d 24 1) = some e ∧ fullEpoch (attOf s d.fn).epoch (dfld d 25 1) = some ep) ∧
    (∃ (s : State) (qp : Nat) (sub : Nat) (d : Desc) (c : Nat), Started s qp sub 0x10 d ∧ dfld d 24 1 < 4 ∧ partOff s (dfld d 24 1) = false ∧ quotaFail s d.fn Hk.ctx = none ∧ slotChoose s.cmd.ctxSlots 4096 = some c ∧ confidential s = false) ∧
    (∃ (s : State) (qp : Nat) (sub : Nat) (d : Desc) (r : Result), Started s qp sub 0x10 d ∧ dfld d 24 1 < 4 ∧ partOff s (dfld d 24 1) = false ∧ quotaFail s d.fn Hk.ctx = some r) ∧
    (∃ (s : State) (qp : Nat) (sub : Nat) (d : Desc) (x : Ctx), Started s qp sub 0x12 d ∧ tget s.ctxs (hSlot (dCtx d)) = some x ∧ (x.state = .live ∨ x.state = .faulted) ∧ partOff s x.home = false) ∧
    (∃ (s : State) (qp : Nat) (sub : Nat) (d : Desc) (x : Ctx), Started s qp sub 0x12 d ∧ tget s.ctxs (hSlot (dCtx d)) = some x ∧ x.state ≠ .aborting ∧ partOff s x.home = true) ∧
    (∃ (s : State) (qp : Nat) (sub : Nat) (d : Desc) (x : Ctx), Started s qp sub 0x11 d ∧ tget s.ctxs (hSlot (dCtx d)) = some x ∧ x.state = .resetting) ∧
    (∃ (s : State) (qp : Nat) (sub : Nat) (d : Desc) (x : Ctx), Started s qp sub 0x11 d ∧ tget s.ctxs (hSlot (dCtx d)) = some x ∧ (x.state = .live ∨ x.state = .faulted)) ∧
    (∃ (s : State) (c : Nat) (x : Ctx) (q : Nat) (u : Nat) (d : Desc), tget s.ctxs c = some x ∧ x.state = .resetting ∧ x.waiters = [(q, u)] ∧ findDesc s q u = some d ∧ dEnded d = false) ∧
    (∃ (s : State) (c : Nat) (x : Ctx), tget s.ctxs c = some x ∧ x.state ≠ .resetting) ∧
    (∃ (s : State) (qp : Nat) (sub : Nat) (d : Desc) (q : Nat) (loc : Nat), Started s qp sub 0x14 d ∧ dfld d 42 2 < vectorCount d.fn ∧ quotaFail s d.fn Hk.qp = none ∧ freeQp s d.fn = some (q, loc)) ∧
    (∃ (s : State) (qp : Nat) (sub : Nat) (d : Desc) (p : QueuePair), Started s qp sub 0x15 d ∧ needQp s d 24 = none ∧ getQp s (hSlot (dfld d 24 4)) = some p ∧ s.tsk.launches = [] ∧ s.runners = []) :=
  ⟨⟨(svcN 0 []), 0, 7, (dN 0 []), by decide +kernel⟩,
   ⟨Instr.fill, work, 3, 7, by first | decide +kernel | (intro d h; exact absurd h (by decide)) | rfl | simp, by first | decide +kernel | (intro d h; exact absurd h (by decide)) | rfl | simp⟩,
   ⟨(attS 0x02 [(24, 0x70)]), 0, 7, (dN 0x02 [(24, 0x70)]), attE, by decide +kernel⟩,
   ⟨(attS 0x01 [(24, 0x70), (25, 0x45)]), 0, 7, (dN 0x01 [(24, 0x70), (25, 0x45)]), attE, 0x12345, by decide +kernel⟩,
   ⟨(attS 0x01 [(24, 0x70), (25, 0x44)]), 0, 7, (dN 0x01 [(24, 0x70), (25, 0x44)]), attE, 0x12344, by decide +kernel⟩,
   ⟨(svcN 0x10 [(24, 3), (25, 255)]), 0, 7, (dN 0x10 [(24, 3), (25, 255)]), 6, by decide +kernel⟩,
   ⟨({ svcN 0x10 [(24, 3)] with ctxs := (List.range 4096).map fun i => (i, ctxA) }), 0, 7, (dN 0x10 [(24, 3)]), (resOf 0x11), by decide +kernel⟩,
   ⟨(svcW 0x12 []), 0, 7, (dS 0x12 []), ctxA, by decide +kernel⟩,
   ⟨({ svcW 0x12 [] with clk := { up.clk with partOffline := 1 } }), 0, 7, (dS 0x12 []), ctxA, by decide +kernel⟩,
   ⟨(rst .resetting [(0, 6)] (svcW 0x11 [])), 0, 7, (dS 0x11 []), ({ ctxA with state := .resetting, waiters := [(0, 6)] }), by decide +kernel⟩,
   ⟨(rst .faulted [] (svcW 0x11 [])), 0, 7, (dS 0x11 []), ({ ctxA with state := .faulted }), by decide +kernel⟩,
   ⟨(rst .resetting [(0, 7)] (withD (descOf 0 0x12 [(4, 0x10000005)] .running) work)), 5, ({ ctxA with state := .resetting, waiters := [(0, 7)] }), 0, 7, (descOf 0 0x12 [(4, 0x10000005)] .running), by decide +kernel⟩,
   ⟨work, 5, ctxA, by decide +kernel⟩,
   ⟨(svcW 0x14 [(24, 0x12345), (40, 5), (41, 17), (42, 2047)]), 0, 7, (dS 0x14 [(24, 0x12345), (40, 5), (41, 17), (42, 2047)]), 1, 1, by decide +kernel⟩,
   ⟨(svcW 0x15 [(24, 0x20000003)]), 0, 7, (dS 0x15 [(24, 0x20000003)]), qpA, by decide +kernel⟩⟩

/-- States and operands that meet the hypotheses of MemoryGraphsAndCopies, clause by clause. -/
theorem test_witness_MemoryGraphsAndCopies :
    (∃ (s : State) (qp : Nat) (sub : Nat) (d : Desc) (slot : Nat) (x : Ctx), Started s qp sub 0x18 d ∧ tget s.ctxs (hSlot (dCtx d)) = some x ∧ dfld d 32 1 = 0 ∧ dfld d 33 1 = 0 ∧ dfld d 35 1 = 0 ∧ confidential s = false ∧ 1 ≤ dfld d 24 8 / 4096 ∧ dfld d 24 8 % 4096 = 0 ∧ dfld d 24 8 ≤ 352 * 2 ^ 30 ∧ dfld d 24 8 ≤ shareLeft s d.fn ∧ quotaFail s d.fn Hk.mem = none ∧ slotChoose s.cmd.memSlots 1048576 = some slot) ∧
    (∃ (s : State) (qp : Nat) (sub : Nat) (d : Desc), Started s qp sub 0x18 d ∧ dfld d 32 1 = 0 ∧ dfld d 33 1 = 0 ∧ dfld d 35 1 = 0 ∧ confidential s = false ∧ 1 ≤ dfld d 24 8 / 4096 ∧ dfld d 24 8 % 4096 = 0 ∧ dfld d 24 8 ≤ 352 * 2 ^ 30 ∧ shareLeft s d.fn + memDying s d.fn < dfld d 24 8 ∧ quotaFail s d.fn Hk.mem = none) ∧
    (∃ (s : State) (qp : Nat) (sub : Nat) (d : Desc) (m : MemObj), Started s qp sub 0x19 d ∧ needH s d Hk.mem 24 = none ∧ tget s.mems (hSlot (dfld d 24 4)) = some m ∧ Quiet s ∧ s.tsk.gens = [] ∧ s.ckp.ctxs = [] ∧ s.ing.streams = []) ∧
    (∃ (s : State) (slot : Nat) (m : MemObj) (d : Desc), tget s.mems slot = some m ∧ m.aborting = true ∧ slot < 2 ^ 20 ∧ destroyers s (mkHandle 3 slot) = [d] ∧ findDesc s d.qp d.sub = some d ∧ s.ing.streams = []) ∧
    (∃ (s : State) (h : Nat), isAborting s h = false) ∧
    (∃ (s : State) (qp : Nat) (sub : Nat) (d : Desc), Started s qp sub 0x20 d ∧ needH s d Hk.mem 24 ≠ none) ∧
    (∃ (s : State) (qp : Nat) (sub : Nat) (d : Desc) (bad : List Nat) (n : Nat) (o : Nat), Started s qp sub 0x20 d ∧ needH s d Hk.mem 24 = none ∧ ((let len := clampTo 64 (2 ^ 30) (dfld d 40 8); let u := touch (hSlot (dfld d 24 4)) (dfld d 32 8) len false s; needRange s (dfld d 24 4) (dfld d 32 8) len 32 = none ∧ poisonedIn u (hSlot (dfld d 24 4)) (dfld d 32 8) len = false ∧ gChecks (readMem u (.desc qp sub) (hSlot (dfld d 24 4)) (dfld d 32 8) len) (confidential u) bad = some (n, o))) ∧ confidential s = false) ∧
    (∃ (s : State) (qp : Nat) (sub : Nat) (d : Desc) (bad : List Nat) (g : Nat), Started s qp sub 0x20 d ∧ needH s d Hk.mem 24 = none ∧ ((let len := clampTo 64 (2 ^ 30) (dfld d 40 8); let u := touch (hSlot (dfld d 24 4)) (dfld d 32 8) len false s; needRange s (dfld d 24 4) (dfld d 32 8) len 32 = none ∧ poisonedIn u (hSlot (dfld d 24 4)) (dfld d 32 8) len = false ∧ gChecks (readMem u (.desc qp sub) (hSlot (dfld d 24 4)) (dfld d 32 8) len) (confidential u) bad = none ∧ quotaFail u d.fn Hk.graph = none ∧ roundUp len 4096 ≤ shareLeft u d.fn ∧ slotChoose u.cmd.graphSlots 65536 = some g))) ∧
    (∃ (s : State) (g : Nat) (x : Sys2Proof.Graph) (d : Desc), tget s.tsk.graphs g = some x ∧ x.state = .loading ∧ findDesc s d.qp d.sub = some d ∧ s.cmd.descs.find? (fun d => decide (dOp d = 0x20) && decide (d.phase = .running) && decide (d.note = g)) = some d) ∧
    (∃ (s : State) (qp : Nat) (sub : Nat) (d : Desc) (x : Sys2Proof.Graph), Started s qp sub 0x21 d ∧ needH s d Hk.graph 24 = none ∧ tget s.tsk.graphs (hSlot (dfld d 24 4)) = some x ∧ Quiet s) ∧
    (∃ (s : State) (qp : Nat) (sub : Nat) (d : Desc), Started s qp sub 0x30 d ∧ dfld d 24 4 = 0 ∧ needH s d Hk.mem 28 = none ∧ dfld d 28 4 ≠ 0 ∧ (let n := clampTo 1 (2 ^ 40) (dfld d 48 8); needWritable s (dfld d 28 4) (dfld d 40 8) n 40 = none ∧ writePrefix s (hSlot (dfld d 28 4)) (dfld d 40 8) n = n)) ∧
    (∃ (s : State) (qp : Nat) (sub : Nat) (d : Desc), Started s qp sub 0x30 d ∧ dfld d 24 4 = 0 ∧ dfld d 28 4 = 0) ∧
    (∃ (s : State) (qp : Nat) (sub : Nat) (d : Desc), Started s qp sub 0x31 d ∧ needH s d Hk.mem 24 = none ∧ dfld d 40 8 % 8 = 0 ∧ 8 ≤ dfld d 40 8 ∧ dfld d 40 8 ≤ 2 ^ 40 ∧ needWritable s (dfld d 24 4) (dfld d 32 8) (dfld d 40 8) 32 = none ∧ writePrefix s (hSlot (dfld d 24 4)) (dfld d 32 8) (dfld d 40 8) = dfld d 40 8) :=
  ⟨⟨(svcW 0x18 [(24, 0x1000)]), 0, 7, (dS 0x18 [(24, 0x1000)]), 3, ctxA, by decide +kernel⟩,
   ⟨({ svcW 0x18 [(24, 352 * 2 ^ 30)] with hif := { HifState.init with dirty := [(0, 1)] } }), 0, 7, (dS 0x18 [(24, 352 * 2 ^ 30)]), by decide +kernel⟩,
   ⟨(svcW 0x19 [(24, 0x30000002)]), 0, 7, (dS 0x19 [(24, 0x30000002)]), ({ memA with va := 0x100200000 }), by decide +kernel⟩,
   ⟨({ withD { descOf 0 0x19 [(24, 0x30000001)] .running with note := 0x30000001 } work with mems := [(1, { memA with aborting := true })] }), 1, ({ memA with aborting := true }), ({ descOf 0 0x19 [(24, 0x30000001)] .running with note := 0x30000001 }), by decide +kernel⟩,
   ⟨work, 0x30000001, by decide +kernel⟩,
   ⟨(svcW 0x20 [(24, 0x30000009)]), 0, 7, (dS 0x20 [(24, 0x30000009)]), by decide +kernel⟩,
   ⟨(svcW 0x20 [(24, 0x30000001), (40, 64)]), 0, 7, (dS 0x20 [(24, 0x30000001), (40, 64)]), ([]), 1, 0, by decide +kernel⟩,
   ⟨({ svcW 0x20 [(24, 0x30000001), (40, 320)] with mem := cellsOf 1 0 graphBytes }), 0, 7, (dS 0x20 [(24, 0x30000001), (40, 320)]), ([]), 0, by decide +kernel⟩,
   ⟨({ withD { descOf 0 0x20 [] .running with note := 9 } work with tsk := { TskState.init with graphs := [(9, { graA with state := .loading })] } }), 9, ({ graA with state := .loading }), ({ descOf 0 0x20 [] .running with note := 9 }), by decide +kernel⟩,
   ⟨({ svcW 0x21 [(24, 0x60000009)] with tsk := { TskState.init with graphs := [(9, graA)] } }), 0, 7, (dS 0x21 [(24, 0x60000009)]), graA, by decide +kernel⟩,
   ⟨(wk 0x30 [(28, 0x30000001), (40, 60), (48, 8)]), 3, 7, (dW 0x30 [(28, 0x30000001), (40, 60), (48, 8)]), by decide +kernel⟩,
   ⟨(wk 0x30 [(48, 8)]), 3, 7, (dW 0x30 [(48, 8)]), by decide +kernel⟩,
   ⟨(wk 0x31 [(24, 0x30000001), (32, 56), (40, 16)]), 3, 7, (dW 0x31 [(24, 0x30000001), (32, 56), (40, 16)]), by decide +kernel⟩⟩

/-- States and operands that meet the hypotheses of EventCommands, clause by clause. -/
theorem test_witness_EventCommands :
    let ev := fun (d : Desc) => hSlot (dfld d 24 4)
    (∃ (s : State) (qp : Nat) (sub : Nat) (d : Desc) (e : Nat), Started s qp sub 0x1C d ∧ quotaFail s d.fn Hk.ev = none ∧ slotChoose s.cmd.evSlots 262144 = some e) ∧
    (∃ (s : State) (qp : Nat) (sub : Nat) (d : Desc) (e : Event), Started s qp sub 0x40 d ∧ needH s d Hk.ev 24 = none ∧ tget s.evs (ev d) = some e ∧ e.aborting = false ∧ Quiet s) ∧
    (∃ (s : State) (qp : Nat) (sub : Nat) (d : Desc) (e : Event), Started s qp sub 0x41 d ∧ needH s d Hk.ev 24 = none ∧ tget s.evs (ev d) = some e ∧ e.aborting = false ∧ Quiet s) ∧
    (∃ (s : State) (qp : Nat) (sub : Nat) (d : Desc) (e : Event), Started s qp sub 0x42 d ∧ needH s d Hk.ev 24 = none ∧ tget s.evs (ev d) = some e ∧ e.aborting = false ∧ Quiet s ∧ (e.counter = true → 1 ≤ e.threshold)) ∧
    (∃ (s : State) (qp : Nat) (sub : Nat) (d : Desc) (e : Event), Started s qp sub 0x43 d ∧ needH s d Hk.ev 24 = none ∧ tget s.evs (ev d) = some e ∧ e.signalled = true) ∧
    (∃ (s : State) (qp : Nat) (sub : Nat) (d : Desc) (e : Event), Started s qp sub 0x43 d ∧ needH s d Hk.ev 24 = none ∧ tget s.evs (ev d) = some e ∧ e.signalled = false) ∧
    (∃ (s : State) (qp : Nat) (sub : Nat) (d : Desc) (e : Event), Running s qp sub 0x43 d ∧ dfld d 28 4 ≠ 0 ∧ tget s.evs (ev d) = some e) ∧
    (∃ (s : State) (qp : Nat) (sub : Nat) (d : Desc), Running s qp sub 0x43 d ∧ dfld d 28 4 = 0) ∧
    (∃ (s : State) (qp : Nat) (sub : Nat) (d : Desc) (e : Event), Started s qp sub 0x44 d ∧ needH s d Hk.ev 24 = none ∧ tget s.evs (ev d) = some e) ∧
    (∃ (s : State) (qp : Nat) (sub : Nat) (d : Desc) (e : Event), Started s qp sub 0x1E d ∧ needOwnEv s d 24 = none ∧ tget s.evs (ev d) = some e) ∧
    (∃ (s : State) (qp : Nat) (sub : Nat) (d : Desc), Started s qp sub 0x45 d ∧ confidential s = false) ∧
    (∃ (s : State) (node : Nat) (h : Nat) (e : Event), confidential s = false ∧ hKind h = Hk.ev ∧ tget s.evs (hSlot h) = some e ∧ filterOk e node = true ∧ Quiet s) ∧
    (∃ (s : State) (node : Nat) (h : Nat) (e : Event), confidential s = false ∧ hKind h = Hk.ev ∧ tget s.evs (hSlot h) = some e ∧ filterOk e node = false) ∧
    (∃ (s : State) (node : Nat), confidential s = true ∧ sessionNode s node = false) ∧
    (∃ (s : State) (qp : Nat) (sub : Nat) (d : Desc) (st : Nat), Running s qp sub 0x45 d ∧ (st = 0x00 ∨ st = 0x10 ∨ st = 0x13)) ∧
    (∃ (s : State) (qp : Nat) (sub : Nat) (d : Desc), Running s qp sub 0x45 d) ∧
    (∃ (s : State) (qp : Nat) (sub : Nat) (d : Desc) (e : Event), Started s qp sub 0x1D d ∧ needOwnEv s d 24 = none ∧ tget s.evs (ev d) = some e ∧ Quiet s ∧ s.tsk.gens = []) :=
  ⟨⟨(svcW 0x1C [(24, 1)]), 0, 7, (dS 0x1C [(24, 1)]), 3, by decide +kernel⟩,
   ⟨(evS cntE (wk 0x40 [(24, 0x40000001), (32, 77)])), 3, 7, (dW 0x40 [(24, 0x40000001), (32, 77)]), cntE, by decide +kernel⟩,
   ⟨(evS cntE (wk 0x41 [(24, 0x40000001), (28, 0xFFFFFFFF)])), 3, 7, (dW 0x41 [(24, 0x40000001), (28, 0xFFFFFFFF)]), cntE, by decide +kernel⟩,
   ⟨(evS cntE (wk 0x42 [(24, 0x40000001)])), 3, 7, (dW 0x42 [(24, 0x40000001)]), cntE, by decide +kernel⟩,
   ⟨(evS { cntE with signalled := true, error := true } (wk 0x43 [(24, 0x40000001)])), 3, 7, (dW 0x43 [(24, 0x40000001)]), ({ cntE with signalled := true, error := true }), by decide +kernel⟩,
   ⟨(evS cntE (wk 0x43 [(24, 0x40000001)])), 3, 7, (dW 0x43 [(24, 0x40000001)]), cntE, by decide +kernel⟩,
   ⟨(runW 0x43 [(24, 0x40000001), (28, 1)]), 3, 7, (descOf 3 0x43 [(24, 0x40000001), (28, 1)] .running), evA, by decide +kernel⟩,
   ⟨(runW 0x43 [(24, 0x40000001)]), 3, 7, (descOf 3 0x43 [(24, 0x40000001)] .running), by decide +kernel⟩,
   ⟨(evS cntE (wk 0x44 [(24, 0x40000001)])), 3, 7, (dW 0x44 [(24, 0x40000001)]), cntE, by decide +kernel⟩,
   ⟨(withD (dS 0x1E [(24, 0x40000001), (28, 3), (32, 0xFFFFFF)]) work), 0, 7, (dS 0x1E [(24, 0x40000001), (28, 3), (32, 0xFFFFFF)]), evA, by decide +kernel⟩,
   ⟨(wk 0x45 [(24, 0x2A413)]), 3, 7, (dW 0x45 [(24, 0x2A413)]), by decide +kernel⟩,
   ⟨(evS expE work), 5, 0x40000001, expE, by decide +kernel⟩,
   ⟨work, 5, 0x40000001, evA, by decide +kernel⟩,
   ⟨({ work with sec := { SecState.init with session := .open_ } }), 5, by decide +kernel⟩,
   ⟨(runW 0x45 []), 3, 7, (descOf 3 0x45 [] .running), 0x13, by decide +kernel⟩,
   ⟨(runW 0x45 []), 3, 7, (descOf 3 0x45 [] .running), by decide +kernel⟩,
   ⟨(withD (dS 0x1D [(24, 0x40000001)]) work), 0, 7, (dS 0x1D [(24, 0x40000001)]), evA, by decide +kernel⟩⟩

end W06

namespace W07

def recA : TaskRec := { kind := .matrix, place := .partition, prov := false, entry := 0, exit := 0, index := 0, code := 0, imm := 0, cost := 100, ins := [], outs := [] }
def graT (r : TaskRec) : Graph := { ctx := 5, state := .loaded, length := 4096, nArgs := 0, tasks := [r], tokens := [], code := [], digest := 0 }
def lnA (ts : List (Nat × TaskState)) : Launch := { id := 4, ctx := 5, graph := 9, qp := 3, sub := 7, byRunner := false, args := [], argsObj := none, tag := 6, guard := none, noFallback := false, toks := [], tasks := ts, nOk := 0, nBad := 0, nFall := 0, nOver := 0, poisoned := false, broken := false, removed := false, cancelled := false, committed := false, discarded := false, conflict := false, flags := 0, stepped := false, key := 0 }
def jb (r : TaskRec) (ls : List Launch) : State := { work with ctxs := [(5, { ctxA with mode := false })], tsk := { TskState.init with graphs := [(9, graT r)], launches := ls, nextLaunch := 4 } }
def jd (d : Desc) (r : TaskRec) (ls : List Launch) : State := withD d (jb r ls)
def lgr (g : Graph) (op : Nat) (fs : List (Nat × Nat)) : State := let s := jd (dW op fs) recA []; { s with tsk := { s.tsk with graphs := [(9, g)] } }
def L38 : List (Nat × Nat) := [(24, 0x60000009), (8, 6)]
def noTask : State := let s := jd (dW 0x50 L38) recA [lnA []]; { s with tsk := { s.tsk with graphs := [(9, { graT recA with tasks := [] })] } }
def full : State := jb recA (List.replicate 256 (lnA (List.replicate 256 (0, .ready 0 4))))
def genA (st : GenState) : Generation := { id := 1, ctx := 5, launch := 4, guard := 1, state := st, conflict := false, space := 65536, versions := [], bytes := [(memKey 1 3, 7)] }
def lnG : Launch := { lnA [] with guard := some 1 }
def gb (e : Event) (gs : List Generation) (ls : List Launch) : State := let s := jb recA ls; { s with evs := [(1, e)], tsk := { s.tsk with gens := gs, nextGen := 3 } }
def sigE (p : Nat) : Event := { evA with signalled := true, payload := p }

/-- States and operands that meet the hypotheses of LaunchesAndTasks, clause by clause. -/
theorem test_witness_LaunchesAndTasks :
    (∃ (s : State) (qp : Nat) (sub : Nat) (d : Desc) (c : Nat) (g : Sys2Proof.Graph), Started s qp sub 0x38 d ∧ byRun sub = false ∧ descCtx s d = some c ∧ needH s d Hk.graph 24 = none ∧ dfld d 28 4 = 0 ∧ dfld d 40 4 = 0 ∧ tget s.tsk.graphs (hSlot (dfld d 24 4)) = some g ∧ g.state = .loaded ∧ g.nArgs = 0 ∧ launchBytes g ≤ shareLeft s d.fn) ∧
    (∃ (s : State) (qp : Nat) (sub : Nat) (d : Desc) (c : Nat) (g : Sys2Proof.Graph), Started s qp sub 0x38 d ∧ byRun sub = false ∧ descCtx s d = some c ∧ needH s d Hk.graph 24 = none ∧ dfld d 28 4 = 0 ∧ dfld d 40 4 = 0 ∧ tget s.tsk.graphs (hSlot (dfld d 24 4)) = some g ∧ g.state ≠ .loaded) ∧
    (∃ (s : State) (qp : Nat) (sub : Nat) (d : Desc) (c : Nat) (g : Sys2Proof.Graph), Started s qp sub 0x38 d ∧ byRun sub = false ∧ descCtx s d = some c ∧ needH s d Hk.graph 24 = none ∧ dfld d 28 4 = 0 ∧ dfld d 40 4 = 0 ∧ tget s.tsk.graphs (hSlot (dfld d 24 4)) = some g ∧ g.state = .loaded ∧ 0 < g.nArgs) ∧
    (∃ (s : State) (p : Nat) (f : Nat) (x : Launch) (n : Nat), s.tsk.launches = [x] ∧ x.tasks = [(n, .overflow p f)]) ∧
    (∃ (s : State) (p : Nat), 65536 ≤ readyCount s p) ∧
    (∃ (s : State) (p : Nat), candFirst s p = none) ∧
    (∃ (s : State) (p : Nat) (c : Cand) (k : CoreKind) (core : Nat) (x : Launch) (g : Sys2Proof.Graph) (r : TaskRec), candFirst s p = some c ∧ c.core = some (k, core) ∧ findLaunch s c.launch = some x ∧ launchGraph s x = some g ∧ taskRec s x c.task = some r ∧ (k = .mover ∨ k = .matrix)) ∧
    (∃ (s : State) (p : Nat) (c : Cand) (k : CoreKind) (core : Nat), candFirst s p = some c ∧ c.core = some (k, core)) ∧
    (∃ (s : State) (p : Nat) (c : Cand), candFirst s p = some c ∧ c.core = none) ∧
    (∃ (s : State) (l : Nat) (n : Nat) (k : CoreKind) (core : Nat) (x : Launch) (g : Sys2Proof.Graph) (r : TaskRec), findLaunch s l = some x ∧ taskState x n = .running k core ∧ launchGraph s x = some g ∧ taskRec s x n = some r ∧ k ≠ .matrix) ∧
    (∃ (s : State) (l : Nat) (n : Nat) (k : CoreKind) (core : Nat) (x : Launch) (g : Sys2Proof.Graph) (r : TaskRec), findLaunch s l = some x ∧ taskState x n = .running k core ∧ launchGraph s x = some g ∧ taskRec s x n = some r ∧ k ≠ .matrix) ∧
    (∃ (s : State) (l : Nat) (n : Nat) (core : Nat) (x : Launch) (g : Sys2Proof.Graph) (r : TaskRec), findLaunch s l = some x ∧ taskState x n = .exiting .mover core ∧ launchGraph s x = some g ∧ taskRec s x n = some r ∧ r.outs = []) ∧
    (∃ (s : State) (l : Nat) (n : Nat) (x : Launch) (g : Sys2Proof.Graph) (r : TaskRec) (core : Nat), findLaunch s l = some x ∧ taskState x n = .exiting .service core ∧ launchGraph s x = some g ∧ taskRec s x n = some r) ∧
    (∃ (s : State) (l : Nat) (x : Launch) (g : Sys2Proof.Graph) (d : Desc), findLaunch s l = some x ∧ launchGraph s x = some g ∧ launchOver s x g = true ∧ byRun x.sub = false ∧ findDesc s x.qp x.sub = some d ∧ dEnded d = false) ∧
    (∃ (s : State) (l : Nat) (x : Launch) (g : Sys2Proof.Graph), findLaunch s l = some x ∧ launchGraph s x = some g ∧ launchOver s x g = false) :=
  ⟨⟨(lgr (graT recA) 0x38 L38), 3, 7, (dW 0x38 L38), 5, (graT recA), by decide +kernel⟩,
   ⟨(lgr { graT recA with state := .loading } 0x38 L38), 3, 7, (dW 0x38 L38), 5, ({ graT recA with state := .loading }), by decide +kernel⟩,
   ⟨(lgr { graT recA with nArgs := 2 } 0x38 L38), 3, 7, (dW 0x38 L38), 5, ({ graT recA with nArgs := 2 }), by decide +kernel⟩,
   ⟨(jb recA [lnA [(0, .overflow 2 9)]]), 2, 9, (lnA [(0, .overflow 2 9)]), 0, by decide +kernel⟩,
   ⟨full, 0, by decide +kernel⟩,
   ⟨(jb recA []), 0, by decide +kernel⟩,
   ⟨(jb recA [lnA [(0, .ready 0 4)]]), 0, (⟨1, 0, 4, 4, 0, some (.matrix, 0)⟩), .matrix, 0, (lnA [(0, .ready 0 4)]), (graT recA), recA, by decide +kernel⟩,
   ⟨(jb { recA with kind := .move } [lnA [(0, .ready 0 4)]]), 0, (⟨1, 0, 4, 4, 0, some (.mover, 0)⟩), .mover, 0, by decide +kernel⟩,
   ⟨({ jb recA [{ lnA [(0, .ready 0 4)] with noFallback := true }] with clk := { up.clk with partOffline := 1 } }), 0, (⟨1, 0, 4, 4, 0, none⟩), by decide +kernel⟩,
   ⟨(jb { recA with kind := .service } [lnA [(0, .running .service 9)]]), 4, 0, .service, 9, (lnA [(0, .running .service 9)]), (graT { recA with kind := .service }), ({ recA with kind := .service }), by decide +kernel⟩,
   ⟨(jb { recA with kind := .move } [lnA [(0, .running .mover 9)]]), 4, 0, .mover, 9, (lnA [(0, .running .mover 9)]), (graT { recA with kind := .move }), ({ recA with kind := .move }), by decide +kernel⟩,
   ⟨(jb { recA with kind := .move } [lnA [(0, .exiting .mover 9)]]), 4, 0, 9, (lnA [(0, .exiting .mover 9)]), (graT { recA with kind := .move }), ({ recA with kind := .move }), by decide +kernel⟩,
   ⟨(jb { recA with kind := .service } [lnA [(0, .exiting .service 9)]]), 4, 0, (lnA [(0, .exiting .service 9)]), (graT { recA with kind := .service }), ({ recA with kind := .service }), 9, by decide +kernel⟩,
   ⟨(jd (descOf 3 0x38 L38 .running) recA [{ lnA [(0, .ended)] with nOk := 1 }]), 4, ({ lnA [(0, .ended)] with nOk := 1 }), (graT recA), (descOf 3 0x38 L38 .running), by decide +kernel⟩,
   ⟨(jb recA [lnA [(0, .ready 0 4)]]), 4, (lnA [(0, .ready 0 4)]), (graT recA), by decide +kernel⟩⟩

/-- States and operands that meet the hypotheses of ProvisionalGenerations, clause by clause. -/
theorem test_witness_ProvisionalGenerations :
    (∃ (s : State) (n : Nat) (g : Generation), findGen s n = some g ∧ g.state = .open ∧ genFirst s g = true ∧ genOutcome s g = some true) ∧
    (∃ (s : State) (n : Nat) (g : Generation), findGen s n = some g ∧ g.state = .open ∧ genFirst s g = true ∧ genOutcome s g = some false) ∧
    (∃ (s : State) (n : Nat) (g : Generation), findGen s n = some g ∧ (g.state ≠ .open ∨ genFirst s g = false ∨ genOutcome s g = none)) ∧
    (∃ (s : State) (n : Nat) (g : Generation), findGen s n = some g ∧ (g.state ≠ .open ∨ genFirst s g = false ∨ genOutcome s g = none)) ∧
    (∃ (s : State) (n : Nat) (g : Generation), findGen s n = some g ∧ (g.state ≠ .open ∨ genFirst s g = false ∨ genOutcome s g = none)) ∧
    (∃ (g : Generation), g.conflict = true) ∧
    (∃ (s : State) (g : Generation) (x : Launch) (e : Event), g.conflict = false ∧ findLaunch s g.launch = some x ∧ launchStopped x = false ∧ tget s.evs g.guard = some e ∧ e.aborting = false ∧ e.signalled = true ∧ e.error = false ∧ (∀ st ∈ provTasks s g, st = .ended)) ∧
    (∃ (s : State) (n : Nat) (g : Generation), findGen s n = some g ∧ g.state = .committing) ∧
    (∃ (s : State) (n : Nat) (g : Generation), findGen s n = some g ∧ g.state ≠ .committing) ∧
    (∃ (s : State) (n : Nat) (g : Generation), findGen s n = some g ∧ g.state = .resolved) ∧
    (∃ (s : State) (qp : Nat) (sub : Nat) (d : Desc), Started s qp sub 0x50 d ∧ needH s d Hk.graph 24 = none ∧ s.tsk.launches = []) ∧
    (∃ (s : State) (qp : Nat) (sub : Nat) (d : Desc) (x : Launch), Started s qp sub 0x50 d ∧ needH s d Hk.graph 24 = none ∧ s.tsk.launches = [x] ∧ s.tsk.gens = [] ∧ x.cancelled = true) ∧
    (∃ (s : State) (qp : Nat) (sub : Nat) (d : Desc) (x : Launch) (g : Sys2Proof.Graph), Started s qp sub 0x50 d ∧ needH s d Hk.graph 24 = none ∧ s.tsk.launches = [x] ∧ s.tsk.gens = [] ∧ x.graph = hSlot (dfld d 24 4) ∧ some x.ctx = descCtx s d ∧ x.cancelled = false ∧ launchGraph s x = some g ∧ g.tasks = []) ∧
    (∃ (s : State) (qp : Nat) (sub : Nat) (d : Desc) (c : Nat), Started s qp sub 0x51 d ∧ descCtx s d = some c) ∧
    (∃ (s : State) (qp : Nat) (sub : Nat) (d : Desc) (c : Nat), Started s qp sub 0x51 d ∧ descCtx s d = some c ∧ outstanding s c = []) ∧
    (∃ (s : State) (qp : Nat) (sub : Nat) (d : Desc) (c : Nat), Started s qp sub 0x52 d ∧ descCtx s d = some c) :=
  ⟨⟨(gb (sigE 1) [genA .open] [lnG]), 1, (genA .open), by decide +kernel⟩,
   ⟨(gb (sigE 2) [genA .open] [lnG]), 1, (genA .open), by decide +kernel⟩,
   ⟨(gb evA [genA .open] [lnG]), 1, (genA .open), by decide +kernel⟩,
   ⟨(gb (sigE 1) [genA .open, { genA .open with id := 2 }] [lnG]), 2, ({ genA .open with id := 2 }), by decide +kernel⟩,
   ⟨(gb (sigE 1) [genA .committing] [lnG]), 1, (genA .committing), by decide +kernel⟩,
   ⟨({ genA .open with conflict := true }), by decide +kernel⟩,
   ⟨(gb (sigE 3) [genA .open] [lnG]), (genA .open), lnG, (sigE 3), by decide +kernel⟩,
   ⟨(gb (sigE 3) [genA .committing] [lnG]), 1, (genA .committing), by decide +kernel⟩,
   ⟨(gb (sigE 3) [genA .open] [lnG]), 1, (genA .open), by decide +kernel⟩,
   ⟨(gb (sigE 3) [genA .resolved] [lnG]), 1, (genA .resolved), by decide +kernel⟩,
   ⟨(jd (dW 0x50 L38) recA []), 3, 7, (dW 0x50 L38), by decide +kernel⟩,
   ⟨(jd (dW 0x50 L38) recA [{ lnA [] with cancelled := true }]), 3, 7, (dW 0x50 L38), ({ lnA [] with cancelled := true }), by decide +kernel⟩,
   ⟨noTask, 3, 7, (dW 0x50 L38), (lnA []), ({ graT recA with tasks := [] }), by decide +kernel⟩,
   ⟨(withD (dW 0x51 []) (gb evA [genA .open] [lnG])), 3, 7, (dW 0x51 []), 5, by decide +kernel⟩,
   ⟨(jd (dW 0x51 []) recA []), 3, 7, (dW 0x51 []), 5, by decide +kernel⟩,
   ⟨(withD (dW 0x52 []) (gb evA [genA .open] [lnG])), 3, 7, (dW 0x52 []), 5, by decide +kernel⟩⟩

end W07

namespace W08

def opBytes (fs : List (Nat × Nat)) : List Byte := bytesOf 128 fs
def opF (fl : Nat) : List (Nat × Nat) := [(0, 1), (3, 10), (5, fl), (6, 1), (8, 1), (12, 1), (16, 2), (24, 64), (28, 64), (32, 64), (48, 4096), (62, 16)]
def mRec : TaskRec := { kind := .matrix, place := .any, prov := false, entry := 0, exit := 0, index := 0, code := 0, imm := 0, cost := 100, ins := [], outs := [] }
def mGr (cs : List (List Byte)) : Graph := { ctx := 5, state := .loaded, length := 4096, nArgs := 2, tasks := [mRec], tokens := [], code := cs.flatten, digest := 0 }
def mLn : Launch := { id := 4, ctx := 5, graph := 9, qp := 3, sub := 7, byRunner := false, args := [0x30000001, 0x30000002], argsObj := none, tag := 6, guard := none, noFallback := false, toks := [], tasks := [(0, .running .matrix 1)], nOk := 0, nBad := 0, nFall := 0, nOver := 0, poisoned := false, broken := false, removed := false, cancelled := false, committed := false, discarded := false, conflict := false, flags := 0, stepped := false, key := 0 }
def eng1 (e : Engine) (s : State) : State := { s with mxe := { s.mxe with engines := [(1, e)] } }
def mSt (cs : List (List Byte)) : State := eng1 { Engine.init with phase := .run, groups := 255, run := some (matTaskNew 4 0) }
  { work with mem := cellsOf 1 0 (bytesOf 64 [(0, 0x3C383C38)] ), tsk := { TskState.init with graphs := [(9, mGr cs)], launches := [mLn], nextLaunch := 5 } }
def cy0 : Cycles := { valid := 16, dummy := 2, stall := 5 }
def go : List Instr → State → State
  | [], s => s
  | i :: l, s => match exec i s with
    | .next t => go l t
    | _ => s
def pgm : List (List Byte) := [opBytes (opF 0), opBytes [(0, 15)]]
def mS0 : State := mSt pgm
def mSub (run : Option BlockRun) (p q : Option Panel) : SubArray := { run := run, keepA := p, keepB := q, next := true }
def bR (l : Nat) (cs : List (Panel × Panel)) (acc : List Nat) : BlockRun :=
  { item := 0, row := 0, col := 0, rows := 1, cols := 1, bank := false, loaded := l, chunks := cs, acc := acc }
def pan (es : List Nat) : Panel := { item := 0, pos := 0, from_ := 0, elems := [es ++ List.replicate 30 0], scales := [[127]] }
def o0 (fl : Nat) : MatOp := { op := 1, fmtA := 0, fmtB := 0, fmtOut := 10, split := 0, aT := false, bT := false, round := false, ovfInf := false, waitDrain := fl = 16, batch := 1, m := 1, n := 1, k := 2, lda := 64, ldb := 64, ldc := 64, aAddr := 0, bAddr := 4096, cAddr := 2 ^ 52, saAddr := 0, sbAddr := 0, scAddr := 0 }
def tk (pc : Nat) (a : SubArray) (ds : List Drain) : MatTask := { matTaskNew 4 0 with pc := pc, op := some (o0 0), nextBlock := 1, subs := [(0, a)], drains := ds }
def a1 : SubArray := mSub (some (bR 0 [] [])) none none
def b2 : BlockRun := bR 2 [(pan [56, 60], pan [0, 0])] [0]
def a2 : SubArray := mSub (some b2) (some (pan [56, 60])) (some (pan [0, 0]))
def dr (rows : Nat) : Drain := { sub := 0, block := { bR 2 [(pan [56, 60], pan [0, 0])] [0] with rows := rows }, op := o0 0, idx := 0 }
def mSt2 (k : MatTask) (s : State) : State := eng1 { Engine.init with phase := .run, groups := 255, run := some k } s
def mS1 : State := mSt2 (tk 1 a1 []) mS0
def mS2 : State := mSt2 (tk 1 a2 []) mS0
def mS3 (rows : Nat) : State := mSt2 (tk 1 (mSub none none none) [dr rows]) mS0
def mS4 : State := mSt2 { matTaskNew 4 0 with pc := 2, atEnd := true } mS0
def psn (s : State) : State := { s with poison := [(lineKey 1 0, { stack := 0, tabled := true })] }
def mWD : State := mSt2 { matTaskNew 4 0 with drains := [dr 1] } (mSt [opBytes (opF 16)])
def eA (p : EngPhase) (w : Option Bool) : State := eng1 { Engine.init with phase := p, want := w, dummyWf := 9 } up
def eR (st : Nat) (p : EngPhase) (w : Option Bool) : State := let s := eA p w; { s with mxe := { s.mxe with rampStarts := st } }
def rdy : State := eng1 { Engine.init with phase := .gap, run := some (tk 1 a2 []) } mS0
def hld : State := { up with mod := { up.mod with failStopped := true } }

/-- States and operands that meet the hypotheses of MatrixOperations, clause by clause. -/
theorem test_witness_MatrixOperations :
    let at_ := fun (s : State) (c : Nat) (staged : Bool) (x : Launch) (g : Graph) (r : TaskRec) (k : MatTask) =>
      matSlot s c staged = some k ∧ engUp s c = true ∧ findLaunch s k.launch = some x ∧ launchGraph s x = some g ∧
      taskRec s x k.task = some r
    (∃ (s : State) (c : Nat) (staged : Bool) (x : Launch) (g : Sys2Proof.Graph) (r : TaskRec) (k : MatTask) (o : MatOp), at_ s c staged x g r k ∧ k.atEnd = false ∧ opComputed (engAt s c).mask k = true ∧ matRec g r k.pc = some o ∧ o.op ≠ 0x0F ∧ recordOk s x r.imm o = true ∧ (o.waitDrain = false ∨ k.drains = [])) ∧
    (∃ (s : State) (c : Nat) (staged : Bool) (x : Launch) (g : Sys2Proof.Graph) (r : TaskRec) (k : MatTask) (o : MatOp), at_ s c staged x g r k ∧ k.atEnd = false ∧ opComputed (engAt s c).mask k = true ∧ matRec g r k.pc = some o ∧ o.op ≠ 0x0F ∧ recordOk s x r.imm o = true ∧ o.waitDrain = true ∧ k.drains ≠ []) ∧
    (∃ (s : State) (c : Nat) (staged : Bool) (x : Launch) (g : Sys2Proof.Graph) (r : TaskRec) (k : MatTask) (o : MatOp), at_ s c staged x g r k ∧ k.atEnd = false ∧ opComputed (engAt s c).mask k = true ∧ matRec g r k.pc = some o ∧ o.op = 0x0F) ∧
    (∃ (s : State) (c : Nat) (staged : Bool) (x : Launch) (g : Sys2Proof.Graph) (r : TaskRec) (k : MatTask) (o : MatOp), at_ s c staged x g r k ∧ k.atEnd = false ∧ opComputed (engAt s c).mask k = true ∧ matRec g r k.pc = some o ∧ o.op ≠ 0x0F ∧ recordOk s x r.imm o = false) ∧
    (∃ (o : MatOp), (o.m = 0 ∨ o.n = 0 ∨ o.k = 0 ∨ o.batch = 0 ∨ pairLegal o.fmtA o.fmtB = false)) ∧
    (∃ (s : State) (c : Nat) (staged : Bool) (i : Nat) (k : MatTask) (x : Launch) (imm : Nat) (o : MatOp) (a : SubArray) (b : BlockRun), subRun s c staged i = some (k, x, imm, o, a, b) ∧ engUp s c = true ∧ b.loaded < o.k ∧ b.chunks.length < 2 ∧ (staged = true → b.chunks = []) ∧ readsPoisoned s (nextChunk s x imm o a b).reads = false) ∧
    (∃ (s : State) (c : Nat) (staged : Bool) (i : Nat) (k : MatTask) (x : Launch) (imm : Nat) (o : MatOp) (a : SubArray) (b : BlockRun), subRun s c staged i = some (k, x, imm, o, a, b) ∧ (o.k ≤ b.loaded ∨ readsPoisoned s (nextChunk s x imm o a b).reads = true)) ∧
    (∃ (s : State) (c : Nat) (staged : Bool) (i : Nat) (k : MatTask) (x : Launch) (imm : Nat) (o : MatOp) (a : SubArray) (b : BlockRun), subRun s c staged i = some (k, x, imm, o, a, b) ∧ (o.k ≤ b.loaded ∨ readsPoisoned s (nextChunk s x imm o a b).reads = true)) ∧
    (∃ (s : State) (c : Nat) (staged : Bool) (i : Nat) (k : MatTask) (x : Launch) (imm : Nat) (o : MatOp) (a : SubArray) (b : BlockRun), subRun s c staged i = some (k, x, imm, o, a, b) ∧ engUp s c = true ∧ readsPoisoned s (nextChunk s x imm o a b).reads = true) ∧
    (∃ (s : State) (c : Nat) (i : Nat) (k : MatTask) (x : Launch) (imm : Nat) (o : MatOp) (a : SubArray) (b : BlockRun), subRun s c false i = some (k, x, imm, o, a, b) ∧ mayIssue s c = true ∧ o.k ≤ b.loaded ∧ bankHeld k o i b = false) ∧
    (∃ (s : State) (c : Nat) (i : Nat) (k : MatTask) (x : Launch) (imm : Nat) (o : MatOp) (a : SubArray) (b : BlockRun), subRun s c false i = some (k, x, imm, o, a, b) ∧ b.loaded < o.k) ∧
    (∃ (s : State) (c : Nat) (x : Launch) (g : Sys2Proof.Graph) (r : TaskRec) (k : MatTask) (d : Drain) (rest : List Drain), at_ s c false x g r k ∧ k.drains = d :: rest ∧ s.mod.failStopped = false ∧ s.tsk.gens = [] ∧ (drainWrites s x k.task r.imm d).1 = []) ∧
    (∃ (s : State) (c : Nat) (x : Launch) (g : Sys2Proof.Graph) (r : TaskRec) (k : MatTask) (d : Drain) (rest : List Drain), at_ s c false x g r k ∧ k.drains = d :: rest ∧ s.mod.failStopped = false ∧ (drainWrites s x k.task r.imm d).1.any (fun e => writeFaults s k.launch k.task e.1 e.2.1 e.2.2.length) = true) ∧
    (∃ (s : State) (c : Nat) (x : Launch) (g : Sys2Proof.Graph) (r : TaskRec) (k : MatTask) (d : Drain) (rest : List Drain), at_ s c false x g r k ∧ k.drains = d :: rest ∧ s.mod.failStopped = false ∧ (drainWrites s x k.task r.imm d).1.any (fun e => writeFaults s k.launch k.task e.1 e.2.1 e.2.2.length) = false ∧ (drainWrites s x k.task r.imm d).1.any (fun e => lostIn s e.1 e.2.1 e.2.2.length) = false) ∧
    (∃ (s : State) (c : Nat) (k : MatTask), matSlot s c false = some k ∧ engUp s c = true ∧ k.atEnd = true ∧ k.drains = []) ∧
    (∃ (s : State) (c : Nat) (k : MatTask), matSlot s c false = some k ∧ (k.atEnd = false ∨ k.drains ≠ [])) ∧
    (∃ (s : State) (c : Nat), c < 64 ∧ cluOut s c = false) ∧
    (∃ (s : State) (c : Nat), c < 64 ∧ cluOut s c = false) ∧
    (∃ (s : State) (c : Nat), c < 64 ∧ cluOut s c = false) ∧
    (∃ (s : State) (c : Nat), c < 64 ∧ cluOut s c = false) :=
  ⟨⟨mS0, 1, false, mLn, (mGr pgm), mRec, (matTaskNew 4 0), (o0 0), by decide +kernel⟩,
   ⟨mWD, 1, false, mLn, (mGr [opBytes (opF 16)]), mRec, ({ matTaskNew 4 0 with drains := [dr 1] }), (o0 16), by decide +kernel⟩,
   ⟨(mSt [opBytes [(0, 15)]]), 1, false, mLn, (mGr [opBytes [(0, 15)]]), mRec, (matTaskNew 4 0), (matOpOf (opBytes [(0, 15)])), by decide +kernel⟩,
   ⟨(mSt [opBytes [(0, 7)]]), 1, false, mLn, (mGr [opBytes [(0, 7)]]), mRec, (matTaskNew 4 0), (matOpOf (opBytes [(0, 7)])), by decide +kernel⟩,
   ⟨({ o0 0 with k := 0 }), by decide +kernel⟩,
   ⟨mS1, 1, false, 0, (tk 1 a1 []), mLn, 0, (o0 0), a1, (bR 0 [] []), by first | decide +kernel | rfl | (dsimp only; decide +kernel) | simp, by first | decide +kernel | rfl | (dsimp only; decide +kernel) | simp, by first | decide +kernel | rfl | (dsimp only; decide +kernel) | simp, by first | decide +kernel | rfl | (dsimp only; decide +kernel) | simp, by first | decide +kernel | rfl | (dsimp only; decide +kernel) | simp, by first | decide +kernel | rfl | (dsimp only; decide +kernel) | simp⟩,
   ⟨mS2, 1, false, 0, (tk 1 a2 []), mLn, 0, (o0 0), a2, b2, by first | decide +kernel | rfl | (dsimp only; decide +kernel) | simp, by first | decide +kernel | rfl | (dsimp only; decide +kernel) | simp⟩,
   ⟨(psn mS1), 1, false, 0, (tk 1 a1 []), mLn, 0, (o0 0), a1, (bR 0 [] []), by first | decide +kernel | rfl | (dsimp only; decide +kernel) | simp, by first | decide +kernel | rfl | (dsimp only; decide +kernel) | simp⟩,
   ⟨(psn mS1), 1, false, 0, (tk 1 a1 []), mLn, 0, (o0 0), a1, (bR 0 [] []), by first | decide +kernel | rfl | (dsimp only; decide +kernel) | simp, by first | decide +kernel | rfl | (dsimp only; decide +kernel) | simp, by first | decide +kernel | rfl | (dsimp only; decide +kernel) | simp⟩,
   ⟨mS2, 1, 0, (tk 1 a2 []), mLn, 0, (o0 0), a2, b2, by first | decide +kernel | rfl | (dsimp only; decide +kernel) | simp, by first | decide +kernel | rfl | (dsimp only; decide +kernel) | simp, by first | decide +kernel | rfl | (dsimp only; decide +kernel) | simp, by first | decide +kernel | rfl | (dsimp only; decide +kernel) | simp⟩,
   ⟨mS1, 1, 0, (tk 1 a1 []), mLn, 0, (o0 0), a1, (bR 0 [] []), by decide +kernel⟩,
   ⟨(mS3 0), 1, mLn, (mGr pgm), mRec, (tk 1 (mSub none none none) [dr 0]), (dr 0), ([]), by decide +kernel⟩,
   ⟨({ mS3 1 with mems := [(1, memA), (2, { memA with size := 2 })] }), 1, mLn, (mGr pgm), mRec, (tk 1 (mSub none none none) [dr 1]), (dr 1), ([]), by decide +kernel⟩,
   ⟨(mS3 1), 1, mLn, (mGr pgm), mRec, (tk 1 (mSub none none none) [dr 1]), (dr 1), ([]), by decide +kernel⟩,
   ⟨mS4, 1, ({ matTaskNew 4 0 with pc := 2, atEnd := true }), by decide +kernel⟩,
   ⟨(mS3 1), 1, (tk 1 (mSub none none none) [dr 1]), by decide +kernel⟩,
   ⟨up, 63, by decide +kernel⟩,
   ⟨(eA .run none), 1, by decide +kernel⟩,
   ⟨up, 1, by decide +kernel⟩,
   ⟨up, 1, by decide +kernel⟩⟩

/-- States and operands that meet the hypotheses of GapsAndRamps, clause by clause. -/
theorem test_witness_GapsAndRamps :
    (∃ (s : State) (c : Nat), engUp s c = true ∧ unitsHeld s = false ∧ (engAt s c).phase = .run ∧ wavefrontReady (engAt s c) = false) ∧
    (∃ (s : State) (c : Nat), wavefrontReady (engAt s c) = true) ∧
    (∃ (s : State) (c : Nat), engUp s c = true ∧ unitsHeld s = false ∧ (engAt s c).phase = .gap ∧ wavefrontReady (engAt s c) = false) ∧
    (∃ (s : State) (p : Nat) (c : Nat), p < 4 ∧ unitsHeld s = false ∧ 16 * p ≤ c ∧ c < 16 * p + 16 ∧ engUp s c = true ∧ (engAt s c).want = some true ∧ 16 ≤ s.mxe.rampStarts) ∧
    (∃ (s : State) (p : Nat) (c : Nat), p < 4 ∧ unitsHeld s = false ∧ 1 ≤ s.mxe.rampStarts ∧ 16 * p ≤ c ∧ c < 16 * p + 16 ∧ engUp s c = true ∧ (engAt s c).want = some false ∧ (∀ i, 16 * p ≤ i → i < c → (engAt s i).want = none)) ∧
    (∃ (p : Nat), p < 4) ∧
    (∃ (s : State) (p : Nat), p < 4 ∧ s.mxe.rampStarts = 0) ∧
    (∃ (s : State), unitsHeld s = true) ∧
    (∃ (s : State) (c : Nat), engUp s c = true ∧ (engAt s c).phase = .rampUp) ∧
    (∃ (s : State) (c : Nat), engUp s c = true ∧ (engAt s c).phase = .rampDown ∧ (engAt s c).want = none) ∧
    (∃ (s : State) (c : Nat), (engAt s c).phase ≠ .rampUp) ∧
    (∃ (s : State) (c : Nat), ((engAt s c).phase ≠ .rampDown ∨ (engAt s c).want ≠ none)) :=
  ⟨⟨(eA .run none), 1, by decide +kernel⟩,
   ⟨rdy, 1, by decide +kernel⟩,
   ⟨(eA .gap none), 1, by decide +kernel⟩,
   ⟨(eR 16 .run (some true)), 0, 1, by decide +kernel⟩,
   ⟨(eR 1 .gap (some false)), 0, 1, by decide +kernel⟩,
   ⟨0, by decide +kernel⟩,
   ⟨(eR 0 .gap (some false)), 0, by decide +kernel⟩,
   ⟨hld, by decide +kernel⟩,
   ⟨(eA .rampUp none), 1, by decide +kernel⟩,
   ⟨(eA .rampDown none), 1, by decide +kernel⟩,
   ⟨(eA .run none), 1, by decide +kernel⟩,
   ⟨(eA .rampDown (some true)), 1, by decide +kernel⟩⟩

end W08

namespace W09

def vRec : TaskRec := { kind := .vector, place := .any, prov := false, entry := 0, exit := 0, index := 0, code := 0, imm := 0, cost := 100, ins := [], outs := [] }
def vGr (r : TaskRec) : Graph := { ctx := 5, state := .loaded, length := 4096, nArgs := 1, tasks := [r], tokens := [], code := List.replicate 64 0, digest := 0 }
def vLn (st : TaskState) : Launch := { id := 4, ctx := 5, graph := 9, qp := 3, sub := 7, byRunner := false, args := [0x30000001], argsObj := none, tag := 6, guard := none, noFallback := false, toks := [], tasks := [(0, st)], nOk := 0, nBad := 0, nFall := 0, nOver := 0, poisoned := false, broken := false, removed := false, cancelled := false, committed := false, discarded := false, conflict := false, flags := 0, stepped := true, key := 7 }
def vX : Launch := vLn (.running .vector 2)
def th0 : Thread := { launch := 4, task := 0, v := [(64, 9), (65, 8), (96, 3)], m := [(1, 2), (2, 0)], x := [(2, 12), (3, 5), (4, 0x100000000), (5, 128), (6, 0x100000002)], pc := 8, flags := 1, draws := [], pend := [], fence := false }
def dl0 : DLine := { slot := 1, line := 0, set := 0, inst := 0, filled := true, data := [(8, 0x81)], dirty := [], mark := none }
def vs (t : Thread) (ls : List DLine) : State := { work with
  mem := [(memKey 1 8, 0x81)], vcu := { work.vcu with cores := [(2, { threads := [(1, t)], lines := ls })] }
  tsk := { TskState.init with graphs := [(9, vGr vRec)], launches := [vX], nextLaunch := 5 } }
def v0 : State := vs th0 []
def hld : State := { up with mod := { up.mod with failStopped := true } }
def pl (p : PendLoad) : Thread := { th0 with pend := [p] }
def p0 : PendLoad := { vec := false, reg := 1, elems := [(0, 1, 8)], size := 4, conv := 0 }
def psn (s : State) : State := { s with poison := [(lineKey 1 0, { stack := 0, tabled := true })] }
def cas1 : Nat × Nat × Nat := (0, 1, 8)
def sv (k : Nat) (c : SvcCore) : State := { work with
  svc := { SvcState.init with running := true, cores := [(k, c)], phys := [(64, 0x80), (67, 0x80)] }, wmk := { work.wmk with tb := 77 },
  tsk := { TskState.init with graphs := [(9, vGr { vRec with kind := .service })], launches := [vLn (.running .service 4)], nextLaunch := 5 } }
def sc0 : SvcCore := { SvcCore.init with x := [(7, 1)], resv := some (false, 1) }
def sc1 : SvcCore := { SvcCore.init with task := some (4, 0) }

/-- States and operands that meet the hypotheses of VectorInstructions, clause by clause. -/
theorem test_witness_VectorInstructions :
    let ready := fun (s : State) (k th : Nat) (vs xs : List Nat) (t : Thread) (x : Launch) =>
      tget (vcoreAt s k).threads th = some t ∧ findLaunch s t.launch = some x ∧ vcoreUp s k = true ∧ unitsHeld s = false ∧
      t.fence = false ∧ waitsFor t vs xs = false ∧ ∃ g, launchGraph s x = some g ∧ fetchOk g t = true
    let now_ := fun (s : State) (k th : Nat) => tget (vcoreAt s k).threads th
    (∃ (s : State) (k : Nat) (th : Nat) (op : IntOp) (rd : Nat) (ra : Nat) (rb : Nat) (t : Thread) (x : Launch) (v : Nat), ready s k th [] [rd, ra, rb] t x ∧ rd < 32 ∧ ra < 32 ∧ rb < 32 ∧ intOp 64 op (xReg t ra) (xReg t rb) = some v) ∧
    (∃ (s : State) (k : Nat) (th : Nat) (op : IntOp) (rd : Nat) (ra : Nat) (rb : Nat) (t : Thread) (x : Launch), ready s k th [] [rd, ra, rb] t x ∧ rd < 32 ∧ ra < 32 ∧ rb < 32 ∧ intOp 64 op (xReg t ra) (xReg t rb) = none) ∧
    (∃ (r : Nat) (v : Nat), r ≠ 0 ∧ v % 2 ^ 64 ≠ 0) ∧
    (∃ (s : State) (k : Nat) (th : Nat) (ra : Nat) (rb : Nat) (t : Thread) (x : Launch), ready s k th [] [ra, rb] t x ∧ ra < 32 ∧ rb < 32) ∧
    (∃ (s : State) (k : Nat) (th : Nat) (ra : Nat) (rb : Nat) (t : Thread) (x : Launch), ready s k th [] [ra, rb] t x ∧ ra < 32 ∧ rb < 32) ∧
    (∃ (s : State) (k : Nat) (th : Nat) (t : Thread) (x : Launch), ready s k th [] [] t x) ∧
    (∃ (s : State) (k : Nat) (th : Nat) (m : Nat) (op : IntOp) (vd : Nat) (va : Nat) (vb : Nat) (t : Thread) (x : Launch) (l : Nat) (v : Nat), ready s k th [vd, va, vb] [] t x ∧ vd < 64 ∧ va < 64 ∧ vb < 64 ∧ m < 8 ∧ l < 32 ∧ intOp 32 op (vReg t va l) (vReg t vb l) = some v ∧ v % 2 ^ 32 ≠ 0) ∧
    (∃ (s : State) (k : Nat) (th : Nat) (m : Nat) (op : IntOp) (vd : Nat) (va : Nat) (vb : Nat) (t : Thread) (x : Launch) (l : Nat) (v : Nat), ready s k th [vd, va, vb] [] t x ∧ vd < 64 ∧ va < 64 ∧ vb < 64 ∧ m < 8 ∧ l < 32 ∧ intOp 32 op (vReg t va l) (vReg t vb l) = some v ∧ v % 2 ^ 32 ≠ 0) ∧
    (∃ (s : State) (k : Nat) (th : Nat) (m : Nat) (md : Nat) (va : Nat) (vb : Nat) (t : Thread) (x : Launch), ready s k th [va, vb] [] t x ∧ va < 64 ∧ vb < 64 ∧ m < 8 ∧ md < 8 ∧ 0 < md) ∧
    (∃ (s : State) (k : Nat) (th : Nat) (m : Nat) (vd : Nat) (va : Nat) (t : Thread) (x : Launch) (l : Nat), ready s k th [vd, va] [] t x ∧ vd < 64 ∧ va < 64 ∧ m < 8 ∧ bitOf (mReg t m) l = false ∧ l < 32) ∧
    (∃ (s : State) (k : Nat) (th : Nat) (m : Nat) (f : SpecFn) (vd : Nat) (va : Nat) (t : Thread) (x : Launch) (l : Nat), ready s k th [vd, va] [] t x ∧ vd < 64 ∧ va < 64 ∧ m < 8 ∧ bitOf (mReg t m) l = true ∧ l < 32 ∧ (specFn f (vReg t va l)).1 % 2 ^ 32 ≠ 0) ∧
    (∃ (s : State) (k : Nat) (th : Nat) (m : Nat) (vd : Nat) (va : Nat) (t : Thread) (x : Launch), ready s k th [vd, va] [] t x ∧ vd < 64 ∧ va < 64 ∧ m < 8) ∧
    (∃ (s : State) (k : Nat) (th : Nat) (m : Nat) (vd : Nat) (t : Thread) (x : Launch) (l : Nat), ready s k th [vd] [] t x ∧ vd < 64 ∧ m < 8 ∧ bitOf (mReg t m) l = true ∧ l < 32 ∧ laneDrawOf s x t l % 2 ^ 32 ≠ 0) ∧
    (∃ (s : State) (k : Nat) (th : Nat) (m : Nat) (op : CastOp) (vd : Nat) (va : Nat) (sc : Nat) (t : Thread) (x : Launch) (l : Nat), ready s k th [vd, va] [sc] t x ∧ castLegal op = true ∧ castMx op = false ∧ vd < 64 ∧ va < 64 ∧ m < 8 ∧ sc < 32 ∧ l < 32 ∧ bitOf (mReg t m) l = false) ∧
    (∃ (s : State) (k : Nat) (th : Nat) (op : CastOp) (vd : Nat) (va : Nat) (sc : Nat) (t : Thread) (x : Launch), ready s k th [vd, va] [sc] t x ∧ castLegal op = false) ∧
    (∃ (s : State) (k : Nat) (th : Nat) (rd : Nat) (t : Thread) (x : Launch) (c : Ctx), ready s k th [] [rd] t x ∧ rd < 32 ∧ tget s.ctxs x.ctx = some c) ∧
    (∃ (s : State) (k : Nat) (th : Nat) (t : Thread) (x : Launch) (c : Ctx), ready s k th [] [] t x ∧ tget s.ctxs x.ctx = some c) ∧
    (∃ (s : State) (k : Nat) (th : Nat) (rd : Nat) (n : Nat) (t : Thread) (x : Launch) (v : Nat), ready s k th [] [rd] t x ∧ rd < 32 ∧ argBase s x n = some v) ∧
    (∃ (s : State) (k : Nat) (th : Nat) (rd : Nat) (n : Nat) (t : Thread) (x : Launch), ready s k th [] [rd] t x ∧ rd < 32 ∧ x.args.length ≤ n) ∧
    (∃ (s : State), unitsHeld s = true) :=
  ⟨⟨v0, 2, 1, .add, 1, 2, 3, th0, vX, 17, by decide +kernel⟩,
   ⟨v0, 2, 1, .remU, 1, 2, 0, th0, vX, by decide +kernel⟩,
   ⟨31, 5, by decide +kernel⟩,
   ⟨v0, 2, 1, 3, 2, th0, vX, by decide +kernel⟩,
   ⟨v0, 2, 1, 3, 2, th0, vX, by decide +kernel⟩,
   ⟨v0, 2, 1, th0, vX, by decide +kernel⟩,
   ⟨v0, 2, 1, 1, .add, 5, 2, 3, th0, vX, 1, 8, by decide +kernel⟩,
   ⟨v0, 2, 1, 0, .add, 63, 2, 2, th0, vX, 0, 18, by decide +kernel⟩,
   ⟨v0, 2, 1, 0, 7, 2, 3, th0, vX, by decide +kernel⟩,
   ⟨v0, 2, 1, 1, 2, 4, th0, vX, 0, by decide +kernel⟩,
   ⟨v0, 2, 1, 1, .rcp, 6, 7, th0, vX, 1, by decide +kernel⟩,
   ⟨v0, 2, 1, 0, 6, 2, th0, vX, by decide +kernel⟩,
   ⟨v0, 2, 1, 1, 6, th0, vX, 1, by decide +kernel⟩,
   ⟨v0, 2, 1, 1, .toInt, 6, 2, 0, th0, vX, 0, by decide +kernel⟩,
   ⟨v0, 2, 1, (.fmt 99 2 false false), 6, 2, 0, th0, vX, by decide +kernel⟩,
   ⟨v0, 2, 1, 9, th0, vX, ctxA, by decide +kernel⟩,
   ⟨v0, 2, 1, th0, vX, ctxA, by decide +kernel⟩,
   ⟨v0, 2, 1, 9, 0, th0, vX, 0x100000000, by decide +kernel⟩,
   ⟨v0, 2, 1, 9, 1, th0, vX, by decide +kernel⟩,
   ⟨hld, by decide +kernel⟩⟩

/-- States and operands that meet the hypotheses of VectorMemoryPipe, clause by clause. -/
theorem test_witness_VectorMemoryPipe :
    let ready := fun (s : State) (k th : Nat) (vs xs : List Nat) (t : Thread) (x : Launch) =>
      tget (vcoreAt s k).threads th = some t ∧ findLaunch s t.launch = some x ∧ vcoreUp s k = true ∧ unitsHeld s = false ∧
      t.fence = false ∧ waitsFor t vs xs = false ∧ ∃ g, launchGraph s x = some g ∧ fetchOk g t = true
    let now_ := fun (s : State) (k th : Nat) => tget (vcoreAt s k).threads th
    (∃ (s : State) (k : Nat) (th : Nat) (m : Nat) (rd : Nat) (ra : Nat) (off : Nat) (n : Nat) (t : Thread) (x : Launch) (slot : Nat) (o : Nat), ready s k th [] [rd, ra] t x ∧ rd < 32 ∧ ra < 32 ∧ m < 8 ∧ (n = 1 ∨ n = 2 ∨ n = 4 ∨ n = 8) ∧ elemsAt s x.ctx n [(0, effAddr t ra off)] = some [(0, slot, o)] ∧ lineHits (vcoreAt s k) slot o n (instOf s (ctxFn s x.ctx)) (taskView s t.launch t.task) = true) ∧
    (∃ (s : State) (k : Nat) (th : Nat) (m : Nat) (rd : Nat) (ra : Nat) (off : Nat) (n : Nat) (t : Thread) (x : Launch) (es : List (Nat × Nat × Nat)), ready s k th [] [rd, ra] t x ∧ rd < 32 ∧ ra < 32 ∧ m < 8 ∧ (n = 1 ∨ n = 2 ∨ n = 4 ∨ n = 8) ∧ elemsAt s x.ctx n [(0, effAddr t ra off)] = some es ∧ es.all (fun e => lineHits (vcoreAt s k) e.2.1 e.2.2 n (instOf s (ctxFn s x.ctx)) (taskView s t.launch t.task)) = false ∧ (vcoreAt s k).threads = [(th, t)] ∧ t.pend = []) ∧
    (∃ (s : State) (k : Nat) (th : Nat) (m : Nat) (ra : Nat) (rs : Nat) (off : Nat) (n : Nat) (t : Thread) (x : Launch), ready s k th [] [rs, ra] t x ∧ rs < 32 ∧ ra < 32 ∧ m < 8 ∧ (n = 1 ∨ n = 2 ∨ n = 4 ∨ n = 8) ∧ elemsAt s x.ctx n [(0, effAddr t ra off)] = none) ∧
    (∃ (s : State) (k : Nat) (th : Nat) (m : Nat) (rs : Nat) (ra : Nat) (off : Nat) (n : Nat) (t : Thread) (x : Launch) (slot : Nat) (o : Nat), ready s k th [] [rs, ra] t x ∧ rs < 32 ∧ ra < 32 ∧ m < 8 ∧ (n = 1 ∨ n = 2 ∨ n = 4 ∨ n = 8) ∧ elemsAt s x.ctx n [(0, effAddr t ra off)] = some [(0, slot, o)] ∧ writeFaults s t.launch t.task slot o n = false ∧ lostIn s slot o n = false) ∧
    (∃ (s : State) (k : Nat) (th : Nat) (m : Nat) (vd : Nat) (ra : Nat) (vi : Nat) (a : LoadAs) (t : Thread) (x : Launch), ready s k th [vd, vi] [ra] t x ∧ vd < 64 ∧ vi < 64 ∧ ra < 32 ∧ 0 < m ∧ m < 8 ∧ loadSize a ≠ 0 ∧ active t m = []) ∧
    (∃ (s : State) (k : Nat) (th : Nat) (m : Nat) (vs : Nat) (ra : Nat) (vi : Nat) (a : StoreAs) (t : Thread) (x : Launch) (l : Nat), ready s k th [vs, vi] [ra] t x ∧ vs < 64 ∧ vi < 64 ∧ ra < 32 ∧ m < 8 ∧ storeSize a ≠ 0 ∧ active t m = [l] ∧ elemsAt s x.ctx (storeSize a) [(l, effAddr t ra (vReg t vi l))] = none) ∧
    (∃ (s : State) (k : Nat) (th : Nat) (t : Thread) (x : Launch) (p : PendLoad) (rest : List PendLoad), now_ s k th = some t ∧ findLaunch s t.launch = some x ∧ t.pend = p :: rest ∧ vcoreUp s k = true ∧ loadPoisoned s p = true) ∧
    (∃ (s : State) (k : Nat) (th : Nat) (t : Thread) (x : Launch) (p : PendLoad) (rest : List PendLoad), now_ s k th = some t ∧ findLaunch s t.launch = some x ∧ t.pend = p :: rest ∧ vcoreUp s k = true ∧ loadPoisoned s p = false) ∧
    (∃ (s : State) (k : Nat) (th : Nat) (rd : Nat) (ra : Nat) (rb : Nat) (n : Nat) (t : Thread) (x : Launch) (slot : Nat) (o : Nat), ready s k th [] [rd, ra, rb] t x ∧ rd < 32 ∧ ra < 32 ∧ rb < 32 ∧ (n = 4 ∨ n = 8) ∧ elemsAt s x.ctx n [(0, xReg t ra)] = some [(0, slot, o)] ∧ writeFaults s t.launch t.task slot o n = false ∧ poisonedIn s slot o n = false ∧ lostIn s slot o n = false ∧ (vcoreAt s k).lines = []) ∧
    (∃ (s : State) (k : Nat) (th : Nat) (rd : Nat) (ra : Nat) (rb : Nat) (n : Nat) (t : Thread) (x : Launch), ready s k th [] [rd, ra, rb] t x ∧ rd < 32 ∧ ra < 32 ∧ rb < 32 ∧ (n = 4 ∨ n = 8) ∧ xReg t ra % n ≠ 0) ∧
    (∃ (c : Nat → Nat → Nat → Nat → Instr) (s : State) (k : Nat) (th : Nat) (ra : Nat) (rb : Nat) (t : Thread) (x : Launch), (c = Instr.cflush ∨ c = Instr.cinv ∨ c = Instr.cflushinv) ∧ ready s k th [] [ra, rb] t x ∧ ra < 32 ∧ rb < 32 ∧ (vcoreAt s k).lines = []) ∧
    (∃ (s : State) (k : Nat) (th : Nat) (ra : Nat) (rb : Nat) (t : Thread) (x : Launch), ready s k th [] [ra, rb] t x ∧ ra < 32 ∧ rb < 32) ∧
    (∃ (s : State) (k : Nat) (th : Nat) (t : Thread) (x : Launch), ready s k th [] [] t x) ∧
    (∃ (s : State) (k : Nat) (th : Nat) (t : Thread), now_ s k th = some t) ∧
    (∃ (s : State) (k : Nat), k < 10240 ∧ cluOut s (k / 160) = false) ∧
    (∃ (s : State) (k : Nat), k < 10240 ∧ cluOut s (k / 160) = false) :=
  ⟨⟨(vs th0 [dl0]), 2, 1, 1, 9, 4, 8, 4, th0, vX, 1, 8, by decide +kernel⟩,
   ⟨v0, 2, 1, 1, 9, 4, 8, 4, th0, vX, ([(0, 1, 8)]), by decide +kernel⟩,
   ⟨v0, 2, 1, 1, 6, 9, 0, 4, th0, vX, by decide +kernel⟩,
   ⟨v0, 2, 1, 1, 2, 4, 8, 8, th0, vX, 1, 8, by decide +kernel⟩,
   ⟨v0, 2, 1, 2, 9, 4, 2, (.zero 4), th0, vX, by decide +kernel⟩,
   ⟨v0, 2, 1, 1, 9, 2, 2, (.raw 4), th0, vX, 1, by decide +kernel⟩,
   ⟨(psn (vs (pl p0) [])), 2, 1, (pl p0), vX, p0, ([]), by decide +kernel⟩,
   ⟨(vs (pl p0) []), 2, 1, (pl p0), vX, p0, ([]), by decide +kernel⟩,
   ⟨({ v0 with mems := [(1, memA)] }), 2, 1, 9, 4, 3, 8, th0, vX, 1, 0, by decide +kernel⟩,
   ⟨v0, 2, 1, 9, 6, 3, 4, th0, vX, by decide +kernel⟩,
   ⟨Instr.cinv, v0, 2, 1, 4, 5, th0, vX, by first | decide +kernel | rfl | (dsimp only; decide +kernel) | simp, by first | decide +kernel | rfl | (dsimp only; decide +kernel) | simp, by first | decide +kernel | rfl | (dsimp only; decide +kernel) | simp, by first | decide +kernel | rfl | (dsimp only; decide +kernel) | simp, by first | decide +kernel | rfl | (dsimp only; decide +kernel) | simp⟩,
   ⟨(vs th0 [dl0]), 2, 1, 4, 5, th0, vX, by decide +kernel⟩,
   ⟨v0, 2, 1, th0, vX, by decide +kernel⟩,
   ⟨(vs { th0 with fence := true } []), 2, 1, ({ th0 with fence := true }), by decide +kernel⟩,
   ⟨v0, 10239, by decide +kernel⟩,
   ⟨v0, 10239, by decide +kernel⟩⟩

/-- States and operands that meet the hypotheses of ServiceCores, clause by clause. -/
theorem test_witness_ServiceCores :
    (∃ (s : State) (k : Nat) (a : Nat) (n : Nat), svcUp s k = true ∧ svcPlace s k a n = .phys a ∧ (svcAt s k).dirty = [] ∧ (n = 4 ∨ n = 8)) ∧
    (∃ (s : State) (k : Nat) (a : Nat) (n : Nat), svcUp s k = true ∧ svcPlace s k a n = .phys a ∧ (svcAt s k).resv ≠ some (false, a / 64) ∧ (svcAt s k).dirty = []) ∧
    (∃ (s : State) (k : Nat) (a : Nat) (n : Nat), svcUp s k = true ∧ svcPlace s k a n = .phys a ∧ (svcAt s k).resv = some (false, a / 64) ∧ (svcAt s k).dirty = []) ∧
    (∃ (s : State) (k : Nat) (a : Nat) (n : Nat), svcUp s k = true ∧ svcPlace s k a n = .trap) ∧
    (∃ (s : State) (k : Nat) (op : AtomOp) (a : Nat) (n : Nat), svcUp s k = true ∧ (∀ c, op ≠ .cas c) ∧ svcPlace s k a n = .phys a ∧ (svcAt s k).dirty = [] ∧ (n = 4 ∨ n = 8)) ∧
    (∃ (s : State) (k : Nat) (op : AtomOp) (a : Nat) (n : Nat) (l : Nat) (u : Nat) (slot : Nat) (o : Nat), svcUp s k = true ∧ (∀ c, op ≠ .cas c) ∧ (n = 4 ∨ n = 8) ∧ (svcAt s k).task = some (l, u) ∧ svcPlace s k a n = .obj slot o ∧ (svcAt s k).dirty = [] ∧ poisonedIn s slot o n = false ∧ lostIn s slot o n = false ∧ writeFaults s l u slot o n = false) ∧
    (∃ (s : State) (k : Nat), svcUp s k = true ∧ (svcAt s k).task = none) ∧
    (∃ (s : State) (k : Nat) (l : Nat) (u : Nat), svcUp s k = true ∧ (svcAt s k).task = some (l, u)) ∧
    (∃ (c : Nat → Nat → List (Nat × List Byte) → Instr) (s : State) (k : Nat) (a : Nat), (c = Instr.cboClean ∨ c = Instr.cboFlush ∨ c = Instr.cboInval) ∧ svcUp s k = true ∧ svcPlace s k a 1 = .phys a) ∧
    (∃ (s : State) (k : Nat) (l : Nat) (u : Nat) (a0 : Nat), svcUp s k = true ∧ (svcAt s k).task = some (l, u) ∧ a0 ≠ 0) ∧
    (∃ (s : State) (k : Nat) (l : Nat) (u : Nat) (x : Launch) (g : Sys2Proof.Graph) (r : TaskRec), svcUp s k = true ∧ (svcAt s k).task = some (l, u) ∧ findLaunch s l = some x ∧ launchGraph s x = some g ∧ taskRec s x u = some r ∧ r.outs = []) ∧
    (∃ (s : State) (k : Nat) (n : Nat) (l : Nat) (u : Nat) (x : Launch) (v : Nat), svcUp s k = true ∧ (svcAt s k).task = some (l, u) ∧ findLaunch s l = some x ∧ argBase s x n = some v ∧ v % 2 ^ 64 ≠ 0) ∧
    (∃ (s : State) (k : Nat) (n : Nat) (l : Nat) (u : Nat) (x : Launch), svcUp s k = true ∧ (svcAt s k).task = some (l, u) ∧ findLaunch s l = some x ∧ argBase s x n = none) ∧
    (∃ (s : State) (k : Nat), svcUp s k = true ∧ (svcAt s k).task.isSome = true ∧ timeBase s % 2 ^ 64 ≠ 0) ∧
    (∃ (s : State) (k : Nat), svcLives s k = true ∧ 4 ≤ k % 8 ∧ confidential s = false) ∧
    (∃ (s : State) (k : Nat), svcLives s k = true ∧ k % 8 = 0) ∧
    (∃ (s : State) (k : Nat), svcLives s k = true ∧ (svcAt s k).task = none ∧ k % 8 = 1 ∧ (svcAt s k).times = []) ∧
    (∃ (s : State) (k : Nat), (svcAt s k).task.isSome = true) :=
  ⟨⟨(sv 4 sc0), 4, 64, 4, by decide +kernel⟩,
   ⟨(sv 4 sc0), 4, 128, 4, by decide +kernel⟩,
   ⟨(sv 4 sc0), 4, 64, 4, by decide +kernel⟩,
   ⟨(sv 4 sc0), 4, 66, 4, by decide +kernel⟩,
   ⟨(sv 4 sc0), 4, .maxS, 64, 4, by first | decide +kernel | rfl | (dsimp only; decide +kernel) | simp, by first | decide +kernel | rfl | (dsimp only; decide +kernel) | simp, by first | decide +kernel | rfl | (dsimp only; decide +kernel) | simp, by first | decide +kernel | rfl | (dsimp only; decide +kernel) | simp, by first | decide +kernel | rfl | (dsimp only; decide +kernel) | simp⟩,
   ⟨(sv 4 sc1), 4, .add, 0x100000000, 4, 4, 0, 1, 0, by first | decide +kernel | rfl | (dsimp only; decide +kernel) | simp, by first | decide +kernel | rfl | (dsimp only; decide +kernel) | simp, by first | decide +kernel | rfl | (dsimp only; decide +kernel) | simp, by first | decide +kernel | rfl | (dsimp only; decide +kernel) | simp, by first | decide +kernel | rfl | (dsimp only; decide +kernel) | simp, by first | decide +kernel | rfl | (dsimp only; decide +kernel) | simp, by first | decide +kernel | rfl | (dsimp only; decide +kernel) | simp, by first | decide +kernel | rfl | (dsimp only; decide +kernel) | simp, by first | decide +kernel | rfl | (dsimp only; decide +kernel) | simp⟩,
   ⟨(sv 4 sc0), 4, by decide +kernel⟩,
   ⟨(sv 4 sc1), 4, 4, 0, by decide +kernel⟩,
   ⟨((Instr.cboClean)), (sv 4 { sc0 with dirty := [(2 ^ 64 + 64, 1), (2 ^ 64 + 128, 2)] }), 4, 64, by first | decide +kernel | rfl | (dsimp only; decide +kernel) | simp, by first | decide +kernel | rfl | (dsimp only; decide +kernel) | simp, by first | decide +kernel | rfl | (dsimp only; decide +kernel) | simp⟩,
   ⟨(sv 4 sc1), 4, 4, 0, 3, by decide +kernel⟩,
   ⟨(sv 4 sc1), 4, 4, 0, (vLn (.running .service 4)), (vGr { vRec with kind := .service }), ({ vRec with kind := .service }), by decide +kernel⟩,
   ⟨(sv 4 sc1), 4, 0, 4, 0, (vLn (.running .service 4)), 0x100000000, by decide +kernel⟩,
   ⟨(sv 4 sc1), 4, 1, 4, 0, (vLn (.running .service 4)), by decide +kernel⟩,
   ⟨(sv 4 sc1), 4, by decide +kernel⟩,
   ⟨(sv 4 sc0), 4, by decide +kernel⟩,
   ⟨(sv 8 sc0), 8, by decide +kernel⟩,
   ⟨(sv 9 sc0), 9, by decide +kernel⟩,
   ⟨(sv 4 sc1), 4, by decide +kernel⟩⟩

end W09

namespace W10

def wk (op : Nat) (fs : List (Nat × Nat)) : State := withD (dW op fs) work
def mh : Nat × Nat := (24, 0x30000001)
def r0 (i c : Nat) : HbmReq := { id := i, cluster := c, bank := 2, inst := 0 }
def st (k : Stack) (s : State) : State := { s with hbm := { s.hbm with stk := [(3, { k with state := 2 })] } }
def mapM : MemObj := { memA with mapped := [(0, 3)], resident := [0] }
def ob (s : State) : State := { s with mems := [(1, mapM)] }
def sl : State := ob (st { Stack.init with slots := [r0 7 1] } work)
def hl (k : HbmKind) (e te : EccOut) (ok miss : Bool) : HbmLine := { line := 40, obj := some (1, 64), kind := k, ecc := e, tagEcc := te, tagOk := ok, tagMiss := miss }
def psn (s : State) : State := { s with poison := [(lineKey 1 64, { stack := 3, tabled := true })] }
def conf (s : State) : State := { s with sec := { s.sec with session := .open_ } }
def cac (d : Nat) (s : State) : State := { s with hbm := { s.hbm with cache := [(cacheKey 1 0, { home := 2, dirty := d })] } }
def run (op : Nat) (s : State) : State := withD (descOf 3 op [mh] .running) s
def prot : State := run 0xB0 { work with hbm := { work.hbm with rules := [.protect 3 7 1 0 1 true] } }
def fen (r : List HbmReq) : State := run 0xB1 (let s := st { Stack.init with slots := r } work; { s with hbm := { s.hbm with fences := [(3, 7, 0, 5)], nextReq := 9 } })
def clu : MemObj := { memA with cluster := some 2 }

/-- States and operands that meet the hypotheses of MemoryOpcodes, clause by clause. -/
theorem test_witness_MemoryOpcodes :
    (∃ (s : State) (qp : Nat) (sub : Nat) (d : Desc) (m : MemObj), Started s qp sub 0xB0 d ∧ needH s d Hk.mem 24 = none ∧ tget s.mems (hSlot (dfld d 24 4)) = some m ∧ dfld d 32 8 % pageBytes m.page = 0 ∧ dfld d 40 8 % pageBytes m.page = 0 ∧ 0 < dfld d 40 8 ∧ dfld d 32 8 + dfld d 40 8 ≤ m.size) ∧
    (∃ (s : State) (qp : Nat) (sub : Nat) (d : Desc) (m : MemObj), Started s qp sub 0xB0 d ∧ needH s d Hk.mem 24 = none ∧ tget s.mems (hSlot (dfld d 24 4)) = some m ∧ dfld d 32 8 % pageBytes m.page ≠ 0) ∧
    (∃ (s : State) (qp : Nat) (sub : Nat) (d : Desc) (slot : Nat) (first : Nat) (n : Nat) (ro : Bool) (m : MemObj), Running s qp sub 0xB0 d ∧ s.hbm.rules = [.protect qp sub slot first n ro] ∧ tget s.mems slot = some m) ∧
    (∃ (n : Nat), 0 < n) ∧
    (∃ (s : State) (qp : Nat) (sub : Nat) (d : Desc), Started s qp sub 0xB1 d) ∧
    (∃ (s : State) (qp : Nat) (sub : Nat) (d : Desc), Running s qp sub 0xB1 d ∧ (∀ e ∈ s.hbm.fences, fenceOf qp sub e = true → fenceHeld s e = false)) ∧
    (∃ (s : State) (qp : Nat) (sub : Nat) (e : Nat × Nat × Nat × Nat), e ∈ s.hbm.fences ∧ fenceOf qp sub e = true ∧ fenceHeld s e = true) ∧
    (∃ (s : State) (qp : Nat) (sub : Nat) (d : Desc) (m : MemObj), Started s qp sub 0xB2 d ∧ needH s d Hk.mem 24 = none ∧ tget s.mems (hSlot (dfld d 24 4)) = some m ∧ m.cluster = none) ∧
    (∃ (s : State) (qp : Nat) (sub : Nat) (d : Desc) (m : MemObj), Started s qp sub 0xB2 d ∧ needH s d Hk.mem 24 = none ∧ tget s.mems (hSlot (dfld d 24 4)) = some m ∧ m.cluster.isSome = true ∧ dfld d 32 8 + dfld d 40 8 ≤ m.size) ∧
    (∃ (s : State) (qp : Nat) (sub : Nat) (d : Desc) (m : MemObj), Started s qp sub 0xB3 d ∧ needH s d Hk.mem 24 = none ∧ tget s.mems (hSlot (dfld d 24 4)) = some m ∧ dfld d 32 8 + dfld d 40 8 ≤ m.size) ∧
    (∃ (s : State) (qp : Nat) (sub : Nat) (d : Desc) (m : MemObj), Started s qp sub 0xB4 d ∧ needH s d Hk.mem 24 = none ∧ tget s.mems (hSlot (dfld d 24 4)) = some m) ∧
    (∃ (s : State) (qp : Nat) (sub : Nat) (d : Desc) (m : MemObj), Started s qp sub 0xB5 d ∧ needH s d Hk.mem 24 = none ∧ tget s.mems (hSlot (dfld d 24 4)) = some m ∧ dfld d 32 8 < m.size ∧ tabledLines s (hSlot (dfld d 24 4)) = []) ∧
    (∃ (s : State) (qp : Nat) (sub : Nat) (d : Desc) (m : MemObj) (k : Nat), Started s qp sub 0xB5 d ∧ needH s d Hk.mem 24 = none ∧ tget s.mems (hSlot (dfld d 24 4)) = some m ∧ dfld d 32 8 < m.size ∧ tabledLines s (hSlot (dfld d 24 4)) = [k] ∧ dfld d 32 8 / 64 ≤ k) :=
  ⟨⟨(wk 0xB0 [mh, (40, 0x200000), (48, 1)]), 3, 7, (dW 0xB0 [mh, (40, 0x200000), (48, 1)]), memA, by decide +kernel⟩,
   ⟨(wk 0xB0 [mh, (32, 4096), (40, 0x200000)]), 3, 7, (dW 0xB0 [mh, (32, 4096), (40, 0x200000)]), memA, by decide +kernel⟩,
   ⟨prot, 3, 7, (descOf 3 0xB0 [mh] .running), 1, 0, 1, true, memA, by decide +kernel⟩,
   ⟨1, by decide +kernel⟩,
   ⟨(wk 0xB1 []), 3, 7, (dW 0xB1 []), by decide +kernel⟩,
   ⟨(fen [r0 7 1]), 3, 7, (descOf 3 0xB1 [mh] .running), by decide +kernel⟩,
   ⟨(fen [r0 4 1]), 3, 7, ((3, 7, 0, 5)), by decide +kernel⟩,
   ⟨(wk 0xB2 [mh]), 3, 7, (dW 0xB2 [mh]), memA, by decide +kernel⟩,
   ⟨({ wk 0xB2 [mh, (40, 512)] with mems := [(1, clu)] }), 3, 7, (dW 0xB2 [mh, (40, 512)]), clu, by decide +kernel⟩,
   ⟨(cac 3 (wk 0xB3 [mh, (40, 512)])), 3, 7, (dW 0xB3 [mh, (40, 512)]), memA, by decide +kernel⟩,
   ⟨(wk 0xB4 [mh]), 3, 7, (dW 0xB4 [mh]), memA, by decide +kernel⟩,
   ⟨(wk 0xB5 [mh, (32, 64)]), 3, 7, (dW 0xB5 [mh, (32, 64)]), memA, by decide +kernel⟩,
   ⟨(psn (wk 0xB5 [mh, (32, 127)])), 3, 7, (dW 0xB5 [mh, (32, 127)]), memA, 1, by decide +kernel⟩⟩

/-- States and operands that meet the hypotheses of HbmAndPoison, clause by clause. -/
theorem test_witness_HbmAndPoison :
    let holds := fun (s : State) (k id : Nat) =>
      stackServes s k = true ∧ (stackAt s k).slots.any (fun r => r.id = id) = true
    (∃ (s : State) (k : Nat), stackServes s k = true) ∧
    (∃ (s : State) (k : Nat) (r : HbmReq), stackServes s k = true ∧ (stackAt s k).waiting = [r] ∧ (stackAt s k).slots = [] ∧ r.cluster ≤ 64) ∧
    (∃ (s : State) (k : Nat), stackServes s k = false) ∧
    (∃ (s : State) (k : Nat) (id : Nat), holds s k id) ∧
    (∃ (s : State) (k : Nat) (id : Nat) (l : HbmLine), holds s k id ∧ confidential s = false ∧ l.kind = .read ∧ l.ecc = .corrected) ∧
    (∃ (s : State) (k : Nat) (id : Nat) (l : HbmLine) (slot : Nat) (off : Nat) (m : MemObj), holds s k id ∧ confidential s = false ∧ l.kind = .read ∧ l.ecc = .bad ∧ lineObj s k l = some (slot, off) ∧ tget s.mems slot = some m ∧ thas s.poison (lineKey slot off) = false) ∧
    (∃ (s : State) (k : Nat) (id : Nat) (l : HbmLine) (slot : Nat) (off : Nat), holds s k id ∧ confidential s = false ∧ l.kind = .read ∧ l.ecc = .bad ∧ lineObj s k l = some (slot, off) ∧ thas s.poison (lineKey slot off) = true) ∧
    (∃ (s : State) (k : Nat) (id : Nat) (l : HbmLine), holds s k id ∧ confidential s = true ∧ l.kind = .read ∧ l.ecc = .clean ∧ l.tagEcc = .clean ∧ l.tagOk = false ∧ onList s k l.line = false) ∧
    (∃ (s : State) (k : Nat) (id : Nat) (l : HbmLine), holds s k id ∧ l.kind = .write ∧ l.tagMiss = false) ∧
    (∃ (s : State) (k : Nat), stackServes s k = true) ∧
    (∃ (s : State) (c : Nat) (slot : Nat) (off : Nat), storeSector s c slot off = some false) ∧
    (∃ (s : State) (c : Nat) (slot : Nat) (off : Nat) (m : MemObj), storeSector s c slot off = some true ∧ tget s.mems slot = some m ∧ thas s.poison (lineKey slot off) = false) ∧
    (∃ (s : State) (k : Nat), stackServes s k = true ∧ s.clk.milestone = 15) ∧
    (∃ (s : State) (k : Nat) (l : HbmLine), stackServes s k = true ∧ s.clk.milestone = 15 ∧ l.line / 4 = (stackAt s k).chunk ∧ l.ecc = .corrected) ∧
    (∃ (s : State), s.flt.haltCause ≠ 0) ∧
    (∃ (s : State), s.flt.haltCause = 0) :=
  ⟨⟨(st { Stack.init with waiting := (List.range 20).map (fun i => r0 i 3) } up), 3, by decide +kernel⟩,
   ⟨(st { Stack.init with waiting := [r0 4 64] } up), 3, (r0 4 64), by decide +kernel⟩,
   ⟨up, 3, by decide +kernel⟩,
   ⟨sl, 3, 7, by decide +kernel⟩,
   ⟨sl, 3, 7, (hl .read .corrected .clean true false), by decide +kernel⟩,
   ⟨sl, 3, 7, (hl .read .bad .clean true false), 1, 64, mapM, by decide +kernel⟩,
   ⟨(psn sl), 3, 7, (hl .read .bad .clean true false), 1, 64, by decide +kernel⟩,
   ⟨(conf sl), 3, 7, (hl .read .clean .clean false false), by decide +kernel⟩,
   ⟨sl, 3, 7, (hl .write .clean .clean true false), by decide +kernel⟩,
   ⟨(st { Stack.init with rewrite := [5, 6] } up), 3, by decide +kernel⟩,
   ⟨(cac 0 work), 2, 1, 0, by decide +kernel⟩,
   ⟨(cac 1 work), 2, 1, 0, memA, by decide +kernel⟩,
   ⟨(st { Stack.init with chunk := 187499999, slots := [r0 3 64] } up), 3, by decide +kernel⟩,
   ⟨(st { Stack.init with chunk := 10 } up), 3, (hl .read .corrected .clean true false), by decide +kernel⟩,
   ⟨({ up with flt := { up.flt with haltCause := 3 } }), by decide +kernel⟩,
   ⟨up, by decide +kernel⟩⟩

end W10

namespace W11

def pt (p : Nat) (f : Port → Port) : State := { up with lnk := { up.lnk with ports := [(p, f (portOf up p))] } }
def fl (t q : Nat) : Flit := { ftype := t, vc := 1, last := true, ackValid := false, seq := q, ack := 0, credVc := 0, credCount := 0, payload := [] }
def upP : State := pt 22 fun x => { x with state := .up, allowDegraded := true }
def rp (n : Nat) : State := pt 22 fun x => { x with state := .up, txSeq := 5, txOldest := 3, replays := n, replay := [0, 0] }
def ps (st : PortState) : State := pt 0 fun x => { x with state := st, half := true }
def tp : TxPkt := { vc := 1, flits := 5, ingest := false, from_ := some 3, plain := false, dest := some 9, msg := .ctl 0x01 0 [] }
def lk (e : Nat) : State := { up with lnk := { up.lnk with entry := e, table := 1, index := 9, routes := [(65545, 77)] } }

/-- States and operands that meet the hypotheses of LinkCommands, clause by clause. -/
theorem test_witness_LinkCommands :
    let hears := fun (s : State) (p : Nat) => portLegal p = true ∧ portHears (portOf s p).state = true
    (∃ (s : State) (p : Nat), hears s p ∧ (portOf s p).nakOut = false) ∧
    (∃ (s : State) (p : Nat), portHears (portOf s p).state = false) ∧
    (∃ (s : State) (p : Nat) (f : Flit), hears s p ∧ (f.ftype = 1 ∨ f.ftype = 2) ∧ f.seq % 65536 ≠ (portOf s p).rxSeq) ∧
    (∃ (s : State) (p : Nat) (f : Flit), hears s p ∧ (f.ftype = 1 ∨ f.ftype = 2) ∧ f.seq % 65536 = (portOf s p).rxSeq) ∧
    (∃ (c : Instr) (s : State) (p : Nat), hears s p ∧ (portOf s p).txSeq ≠ (portOf s p).txOldest ∧ (portOf s p).replays < 8 ∧ (c = .nak p (portOf s p).txOldest ∨ c = .replayTimerExpire p)) ∧
    (∃ (s : State) (p : Nat), hears s p ∧ (portOf s p).txSeq ≠ (portOf s p).txOldest ∧ 8 ≤ (portOf s p).replays ∧ s.mod.phase ≠ .failing) ∧
    (∃ (s : State) (p : Nat), hears s p ∧ (portOf s p).txSeq = (portOf s p).txOldest) ∧
    (∃ (s : State) (src : Src) (p : Nat), srcOpen s src = true ∧ hears s p ∧ (portOf s p).state ≠ .secureFailed ∧ s.mod.phase ≠ .failing) ∧
    (∃ (s : State) (p : Nat), (portOf s p).state = .secureFailed) ∧
    (∃ (s : State) (p : Nat) (lane : Nat), portLegal p = true ∧ lane < portLanes p ∧ (portOf s p).state = .up ∧ (portOf s p).failed = 0 ∧ (portOf s p).allowDegraded = true ∧ s.mod.phase ≠ .failing) ∧
    (∃ (s : State) (p : Nat) (lane : Nat), portLegal p = true ∧ lane < portLanes p ∧ (portOf s p).state = .up ∧ (portOf s p).allowDegraded = false) ∧
    (∃ (s : State) (p : Nat), portLegal p = true ∧ (portOf s p).state = .retrain) ∧
    (∃ (s : State) (p : Nat), portLegal p = true ∧ (portOf s p).state = .retrain) ∧
    (∃ (s : State) (p : Nat), portLegal p = true ∧ ((portOf s p).state = .training ∨ (portOf s p).state = .hello)) ∧
    (∃ (s : State) (p : Nat), portLegal p = true ∧ portMay s p = true ∧ ((portOf s p).state = .down ∨ (portOf s p).state = .disabled) ∧ 2 ≤ s.clk.milestone ∧ s.mod.phase = .good) ∧
    (∃ (s : State) (p : Nat), portMay s p = false) ∧
    (∃ (s : State) (p : Nat), portLegal p = true ∧ (portOf s p).state = .training) ∧
    (∃ (s : State) (p : Nat), hears s p) ∧
    (∃ (s : State) (p : Nat), hears s p) ∧
    (∃ (s : State) (p : Nat), portLegal p = true ∧ (portOf s p).planDue = true) ∧
    (∃ (s : State) (p : Nat), (portOf s p).planDue = false) ∧
    (∃ (s : State) (p : Nat) (q : Nat) (vc : Nat) (k : TxPkt), portLegal p = true ∧ (portOf s p).txq.find? (fun k => k.vc = vc) = some k ∧ k.from_ = some q ∧ q ≠ p ∧ vcReady s p (portOf s p) vc = none) ∧
    (∃ (s : State) (src : Src), srcOpen s src = true ∧ bitsOf s.lnk.entry 48 5 < 23 ∧ s.lnk.entry ≠ 0) ∧
    (∃ (s : State), 23 ≤ bitsOf s.lnk.entry 48 5 ∧ bitsOf s.lnk.entry 48 5 ≠ 31) ∧
    (∃ (s : State) (src : Src), srcOpen s src = true) :=
  ⟨⟨upP, 22, by decide +kernel⟩,
   ⟨up, 22, by decide +kernel⟩,
   ⟨upP, 22, (fl 2 9), by decide +kernel⟩,
   ⟨upP, 22, (fl 2 65536), by decide +kernel⟩,
   ⟨(.nak 22 3), (rp 7), 22, by decide +kernel⟩,
   ⟨(rp 8), 22, by decide +kernel⟩,
   ⟨upP, 22, by decide +kernel⟩,
   ⟨upP, (.host false), 22, by decide +kernel⟩,
   ⟨(ps .secureFailed), 0, by decide +kernel⟩,
   ⟨upP, 22, 7, by decide +kernel⟩,
   ⟨(pt 0 (fun x => { x with state := .up, allowDegraded := false })), 0, 3, by decide +kernel⟩,
   ⟨(ps .retrain), 0, by decide +kernel⟩,
   ⟨(ps .retrain), 0, by decide +kernel⟩,
   ⟨(ps .hello), 0, by decide +kernel⟩,
   ⟨(pt 0 (fun x => { x with state := .down, enable := true })), 0, by decide +kernel⟩,
   ⟨(pt 0 (fun x => { x with enable := false })), 0, by decide +kernel⟩,
   ⟨(ps .training), 0, by decide +kernel⟩,
   ⟨(ps .hello), 0, by decide +kernel⟩,
   ⟨(ps .up), 0, by decide +kernel⟩,
   ⟨(pt 0 (fun x => { x with planDue := true })), 0, by decide +kernel⟩,
   ⟨up, 0, by decide +kernel⟩,
   ⟨(pt 3 (fun x => { x with txq := [{ tp with from_ := some 7 }], credShared := 0, cred := [], state := .up })), 3, 7, 1, ({ tp with from_ := some 7 }), by decide +kernel⟩,
   ⟨(lk (5 * 2 ^ 48 + 9)), (.host false), by decide +kernel⟩,
   ⟨(lk (25 * 2 ^ 48)), by decide +kernel⟩,
   ⟨(lk 3), .firmware, by decide +kernel⟩⟩

end W11

namespace W12

def c0 : Nat := 0x8002A417
def c1 : Nat := 0x8002A418
def wm (f : WmkState → WmkState) : State :=
  { up with wmk := f { up.wmk with cfg := { top := true, prio := 8, cands := [c0, c1, 0, 0, 0, 0, 0, 0], parent := 0 }, tb := 10 ^ 9 + 5000, term := 4, step := 20 } }
def rl (r : Role) : State := wm fun w => { w with role := r }
def n1 : Nat := 0x2A418
def bcn : State := wm fun w => { w with role := .candidate, beaconing := true }
def heldS : State := wm fun w => { w with role := .held, rival := some n1 }
def sby : State := wm fun w => { w with role := .standby, manager := some n1, copyStep := 21, copyArrived := [3] }
def due (f : WmkState → WmkState) : State := wm fun w => f { w with arriveDue := true }
def adv (t : Nat) : Advance := { step := 21, at_ := t, set := false }
def topS : State := wm fun w => { w with role := .active, ppsEn := true }
def pUp (s : State) : State := { s with lnk := { s.lnk with ports := [(3, { portOf up 3 with state := .up, peer := some { node := n1, port := 4, serial := 5, role := 2, conf := false, digest := 0 } })] } }
def wkr : State := pUp (wm fun w => { w with treePort := some 3, syncSent := some 1000, forwarded := true })
def wkS (sy : Bool) (g : Nat) : State := pUp (wm fun w => { w with treePort := some 3, tb := 2000, syncSent := some 1000, synced := sy, good := g })

/-- States and operands that meet the hypotheses of DomainManager, clause by clause. -/
theorem test_witness_DomainManager :
    let pair := fun (s : State) => (s.wmk.cfg.prio, Config.serial.toNat)
    let other := fun (s : State) (n : Nat) => listed s n = true ∧ n ≠ nodeId s
    (∃ (s : State), (s.wmk.role = .candidate ∧ s.wmk.beaconing = true ∨ s.wmk.role = .held)) ∧
    (∃ (s : State), (s.wmk.role = .candidate ∧ s.wmk.beaconing = true ∨ s.wmk.role = .held)) ∧
    (∃ (s : State), (s.wmk.role = .active ∨ s.wmk.role = .standby ∨ s.wmk.role = .worker)) ∧
    (∃ (s : State) (n : Nat) (a : Nat) (b : Nat), other s n ∧ s.wmk.role = .candidate ∧ (a < (pair s).1 ∨ a = (pair s).1 ∧ b < (pair s).2)) ∧
    (∃ (s : State) (n : Nat) (a : Nat) (b : Nat), other s n ∧ s.wmk.role = .candidate ∧ ((pair s).1 < a ∨ a = (pair s).1 ∧ (pair s).2 < b)) ∧
    (∃ (s : State) (n : Nat), other s n ∧ s.wmk.role = .candidate) ∧
    (∃ (s : State) (n : Nat) (a : Nat) (b : Nat), other s n ∧ s.wmk.role = .held ∧ s.wmk.rival = some n ∧ (a, b) ≠ pair s) ∧
    (∃ (s : State) (n : Nat), listed s n = false) ∧
    (∃ (s : State), s.wmk.role = .candidate ∧ s.wmk.beaconing = true) ∧
    (∃ (s : State), (s.wmk.role ≠ .candidate ∨ s.wmk.beaconing = false)) ∧
    (∃ (s : State), s.wmk.role = .active) ∧
    (∃ (s : State), s.wmk.role ≠ .active) ∧
    (∃ (s : State) (n : Nat) (term : Nat), other s n ∧ (s.wmk.term < term ∨ s.wmk.term = term ∧ s.wmk.role ≠ .active)) ∧
    (∃ (s : State) (n : Nat) (term : Nat), other s n ∧ (s.wmk.term < term ∨ s.wmk.term = term ∧ s.wmk.role ≠ .active)) ∧
    (∃ (s : State) (n : Nat) (term : Nat), listed s n = true ∧ term < s.wmk.term) ∧
    (∃ (s : State) (n : Nat), s.wmk.role = .active ∧ s.wmk.standby = some n) ∧
    (∃ (s : State) (n : Nat) (term : Nat), listed s n = true ∧ s.wmk.role = .standby ∧ s.wmk.term ≤ term) ∧
    (∃ (c : Instr) (s : State) (port : Nat) (n : Nat), listed s n = true ∧ s.wmk.role = .standby ∧ s.wmk.manager = some n ∧ (c = .keepaliveLoss ∨ c = .relinquish port n)) ∧
    (∃ (c : Instr) (s : State) (port : Nat) (n : Nat), listed s n = true ∧ s.wmk.role = .standby ∧ s.wmk.manager = some n ∧ (c = .keepaliveLoss ∨ c = .relinquish port n)) ∧
    (∃ (s : State), s.wmk.role ≠ .standby) ∧
    (∃ (s : State), s.wmk.role = .candidate ∧ s.wmk.beaconing = false) ∧
    (∃ (s : State), s.wmk.lossPosted = false ∧ s.wmk.role ≠ .active ∧ s.clk.milestone = 15) ∧
    (∃ (s : State), (s.wmk.lossPosted = true ∨ s.wmk.role = .active)) ∧
    (∃ (s : State) (step : Nat) (arr : Bool), s.wmk.role = .active ∧ s.wmk.plan = none ∧ step ≤ s.wmk.step ∧ (step < s.wmk.step ∨ arr = false)) ∧
    (∃ (s : State), s.wmk.role = .active) ∧
    (∃ (s : State), s.wmk.role = .active) ∧
    (∃ (s : State), s.wmk.role ≠ .active) ∧
    (∃ (s : State) (n : Nat), s.wmk.role ≠ .active ∧ s.wmk.manager = some n) ∧
    (∃ (s : State) (src : Src), srcOpen s src = true ∧ s.wmk.role = .active ∧ s.wmk.takeover = true) ∧
    (∃ (s : State) (src : Src) (a : Nat) (b : Nat) (c : Nat) (d : Nat) (chips : List PlanChip) (routes : List PlanRoute), srcOpen s src = true ∧ s.wmk.role = .active ∧ s.wmk.takeover = false ∧ (a ≠ 0x574D504C ∨ b = 0 ∨ 1024 < b ∨ chips.length ≠ b ∨ routes.length ≠ c ∨ d ≠ nodeId s / 1024)) ∧
    (∃ (s : State) (src : Src) (chips : List PlanChip), srcOpen s src = true ∧ s.wmk.role = .active ∧ s.wmk.takeover = false ∧ chips ≠ [] ∧ chips.length ≤ 1024 ∧ (∀ c ∈ chips, c.node / 1024 = nodeId s / 1024 ∧ c.node ≠ nodeId s)) ∧
    (∃ (s : State) (n : Nat), listed s n = true ∧ s.wmk.manager = some n) ∧
    (∃ (s : State) (n : Nat), listed s n = true ∧ s.wmk.manager ≠ some n) :=
  ⟨⟨bcn, by decide +kernel⟩,
   ⟨heldS, by decide +kernel⟩,
   ⟨sby, by decide +kernel⟩,
   ⟨bcn, n1, 7, 9, by decide +kernel⟩,
   ⟨bcn, n1, 9, 0, by decide +kernel⟩,
   ⟨bcn, n1, by decide +kernel⟩,
   ⟨heldS, n1, 9, 0, by first | decide +kernel | (simp) | rfl | simp, by first | decide +kernel | (simp) | rfl | simp, by first | decide +kernel | (simp) | rfl | simp, by first | decide +kernel | (simp) | rfl | simp⟩,
   ⟨bcn, 0x2A419, by decide +kernel⟩,
   ⟨bcn, by decide +kernel⟩,
   ⟨sby, by decide +kernel⟩,
   ⟨(rl .active), by decide +kernel⟩,
   ⟨sby, by decide +kernel⟩,
   ⟨(rl .candidate), n1, 5, by decide +kernel⟩,
   ⟨(rl .worker), n1, 4, by decide +kernel⟩,
   ⟨(rl .worker), n1, 3, by decide +kernel⟩,
   ⟨(wm (fun w => { w with role := .active, standby := some n1 })), n1, by decide +kernel⟩,
   ⟨sby, n1, 4, by decide +kernel⟩,
   ⟨.keepaliveLoss, sby, 3, n1, by decide +kernel⟩,
   ⟨(.relinquish 3 n1), sby, 3, n1, by decide +kernel⟩,
   ⟨bcn, by decide +kernel⟩,
   ⟨(rl .candidate), by decide +kernel⟩,
   ⟨sby, by decide +kernel⟩,
   ⟨(rl .active), by decide +kernel⟩,
   ⟨(rl .active), 20, false, by decide +kernel⟩,
   ⟨(rl .active), by decide +kernel⟩,
   ⟨(rl .active), by decide +kernel⟩,
   ⟨sby, by decide +kernel⟩,
   ⟨sby, n1, by decide +kernel⟩,
   ⟨(wm (fun w => { w with role := .active, takeover := true })), .firmware, by decide +kernel⟩,
   ⟨(rl .active), (.host false), 0x574D504C, 1025, 0, 0xA9, ([]), ([]), by decide +kernel⟩,
   ⟨(rl .active), (.host false), ([{ node := n1, treePort := 3, plans := [] }]), by decide +kernel⟩,
   ⟨(wm (fun w => { w with manager := some n1 })), n1, by decide +kernel⟩,
   ⟨(wm (fun w => { w with manager := some 0x2A417 })), n1, by decide +kernel⟩⟩

/-- States and operands that meet the hypotheses of StepsAndTime, clause by clause. -/
theorem test_witness_StepsAndTime :
    (∃ (s : State), s.wmk.arriveDue = true ∧ s.wmk.advance = none ∧ s.wmk.arrived = false ∧ s.wmk.forwarded = true) ∧
    (∃ (s : State), s.wmk.arriveDue = true ∧ s.wmk.advance = none ∧ s.wmk.arrived = true) ∧
    (∃ (s : State) (a : Advance), s.wmk.arriveDue = true ∧ s.wmk.advance = some a) ∧
    (∃ (s : State), s.wmk.arriveDue = false) ∧
    (∃ (s : State), s.wmk.arriveDue = true ∧ s.wmk.advance = none ∧ s.wmk.arrived = false ∧ s.wmk.forwarded = false ∧ isTop s = true ∧ 0 < s.wmk.lead ∧ (∀ n ∈ s.wmk.children, n ∈ s.wmk.childrenIn)) ∧
    (∃ (s : State) (p : Nat), s.wmk.arriveDue = true ∧ s.wmk.advance = none ∧ s.wmk.arrived = false ∧ s.wmk.forwarded = false ∧ s.wmk.role ≠ .active ∧ s.wmk.treePort = some p ∧ portLegal p = true ∧ portUsable s p = true ∧ (∀ n ∈ s.wmk.children, n ∈ s.wmk.childrenIn)) ∧
    (∃ (s : State) (port : Nat), portLegal port = true ∧ s.wmk.arrived = false) ∧
    (∃ (s : State) (step : Nat), step ≠ s.wmk.step + 1) ∧
    (∃ (s : State) (port : Nat) (n : Nat) (term : Nat) (step : Nat) (time : Nat), portLegal port = true ∧ n ≠ nodeId s ∧ isTop s = false ∧ s.wmk.term ≤ term ∧ s.wmk.step < step ∧ timeBase s < time) ∧
    (∃ (s : State) (port : Nat) (n : Nat) (term : Nat) (step : Nat) (time : Nat), portLegal port = true ∧ n ≠ nodeId s ∧ isTop s = false ∧ s.wmk.term ≤ term ∧ s.wmk.step < step ∧ time ≤ timeBase s ∧ s.wmk.advanceEv = none ∧ s.ckp.ctxs = []) ∧
    (∃ (s : State) (n : Nat) (term : Nat) (step : Nat), (term < s.wmk.term ∨ n = nodeId s ∨ isTop s = true ∨ step ≤ s.wmk.step)) ∧
    (∃ (s : State) (n : Nat) (term : Nat) (step : Nat), (term < s.wmk.term ∨ n = nodeId s ∨ isTop s = true ∨ step ≤ s.wmk.step)) ∧
    (∃ (s : State) (a : Advance), s.wmk.advance = some a ∧ a.at_ ≤ timeBase s ∧ s.wmk.arriveHeld = false ∧ s.wmk.advanceEv = none ∧ s.ckp.ctxs = []) ∧
    (∃ (s : State) (a : Advance), s.wmk.advance = some a ∧ timeBase s < a.at_) ∧
    (∃ (s : State) (src : Src), srcOpen s src = true ∧ isTop s = true ∧ 0 < s.wmk.lead) ∧
    (∃ (s : State), isTop s = false) ∧
    (∃ (s : State) (src : Src) (v : DWord), srcOpen s src = true ∧ isTop s = true ∧ (s.wmk.wasSynced = false ∨ timeBase s ≤ v.toNat)) ∧
    (∃ (s : State) (v : DWord), s.wmk.wasSynced = true ∧ v.toNat < timeBase s) ∧
    (∃ (s : State) (p : Nat), timeParent s = .port p) ∧
    (∃ (s : State), timeParent s = .none_ ∧ (confidential s = false ∨ isTop s = true)) ∧
    (∃ (s : State) (p : Nat) (n : Nat), portLegal p = true ∧ portUsable s p = true ∧ (((portOf s p).peer.map fun a => a.node) = some n)) ∧
    (∃ (s : State), s.wmk.syncSent = none) ∧
    (∃ (s : State) (t1 : Nat) (t2 : Nat) (t3 : Nat), s.wmk.syncSent = some t1 ∧ s.wmk.synced = true ∧ (((t2 : Int) - t1 - ((timeBase s : Int) - t3)) / 2).natAbs ≤ 100000) ∧
    (∃ (s : State) (t1 : Nat) (t2 : Nat) (t3 : Nat), s.wmk.syncSent = some t1 ∧ s.wmk.synced = true ∧ 100000 < (((t2 : Int) - t1 - ((timeBase s : Int) - t3)) / 2).natAbs) ∧
    (∃ (s : State) (t1 : Nat) (t2 : Nat) (t3 : Nat), s.wmk.syncSent = some t1 ∧ s.wmk.synced = false ∧ s.wmk.good = 7 ∧ (((t2 : Int) - t1 - ((timeBase s : Int) - t3)) / 2).natAbs ≤ 50) ∧
    (∃ (s : State) (p : Nat), s.wmk.role ≠ .active ∧ isTop s = false ∧ timeParent s = .port p) ∧
    (∃ (s : State), isTop s = true ∧ s.wmk.ppsEn = true ∧ timeBase s % 1000000000 ≤ 1000000) ∧
    (∃ (s : State), isTop s = true ∧ s.wmk.ppsEn = true ∧ 1000000 < timeBase s % 1000000000 ∧ timeBase s % 1000000000 < 999000000) ∧
    (∃ (s : State), (isTop s = false ∨ s.wmk.ppsEn = false)) :=
  ⟨⟨(due (fun w => { w with forwarded := true })), by decide +kernel⟩,
   ⟨(due (fun w => { w with arrived := true, repeatArrive := 255 })), by decide +kernel⟩,
   ⟨(due (fun w => { w with advance := some (adv 9) })), (adv 9), by decide +kernel⟩,
   ⟨topS, by decide +kernel⟩,
   ⟨(due (fun w => { w with role := .active, lead := 1, children := [n1], childrenIn := [n1, 4] })), by decide +kernel⟩,
   ⟨(pUp (due fun w => { w with treePort := some 3 })), 3, by decide +kernel⟩,
   ⟨(rl .worker), 22, by decide +kernel⟩,
   ⟨(rl .worker), 20, by decide +kernel⟩,
   ⟨(rl .worker), 22, n1, 4, 21, (10 ^ 9 + 5001), by decide +kernel⟩,
   ⟨(rl .worker), 22, n1, 5, 22, (10 ^ 9 + 5000), by decide +kernel⟩,
   ⟨topS, n1, 5, 22, by decide +kernel⟩,
   ⟨(rl .worker), n1, 5, 20, by decide +kernel⟩,
   ⟨(wm (fun w => { w with advance := some (adv (10 ^ 9 + 5000)) })), (adv (10 ^ 9 + 5000)), by decide +kernel⟩,
   ⟨(wm (fun w => { w with advance := some (adv (10 ^ 9 + 5001)) })), (adv (10 ^ 9 + 5001)), by decide +kernel⟩,
   ⟨topS, (.host false), by decide +kernel⟩,
   ⟨sby, by decide +kernel⟩,
   ⟨topS, .firmware, (2 ^ 63), by decide +kernel⟩,
   ⟨(wm (fun w => { w with wasSynced := true })), 5, by decide +kernel⟩,
   ⟨wkr, 3, by decide +kernel⟩,
   ⟨topS, by decide +kernel⟩,
   ⟨wkr, 3, n1, by decide +kernel⟩,
   ⟨topS, by decide +kernel⟩,
   ⟨(wkS true 9), 1000, 1201, 1801, by decide +kernel⟩,
   ⟨(wkS true 9), 1000, 202000, 2000, by decide +kernel⟩,
   ⟨(wkS false 7), 1000, 1101, 1999, by decide +kernel⟩,
   ⟨wkr, 3, by decide +kernel⟩,
   ⟨topS, by decide +kernel⟩,
   ⟨(wm (fun w => { w with role := .active, ppsEn := true, tb := 10 ^ 9 + 5000000 })), by decide +kernel⟩,
   ⟨sby, by decide +kernel⟩⟩

end W12

namespace W13

def me : Nat := 0x2A417
def n1 : Nat := 0x2A418
def wk (op : Nat) (fs : List (Nat × Nat)) (bs : List Byte) : State := { withD (dW op fs) work with mem := cellsOf 1 0 bs }
def gF (n : Nat) : List (Nat × Nat) := [(24, 0x30000001), (40, n), (44, 77)]
def mB (a b : Nat) : List Byte := bytesOf 8 [(0, a), (4, b)]
def grp : Group := { ctx := 5, tag := 77, members := [n1, me], rank := 1, switch := none, base := 0, nextSeq := 4, held := [] }
def gs (g : Group) (ops : List TrigOp) (s : State) : State := { s with col := { ColState.init with groups := [(0, g)], ops := ops, nextOp := 9 } }
def recB (k : Nat) : List Byte := bytesOf 128 [(0, k), (4, 255), (8, 0x40000001), (20, 0), (24, 6), (32, 300), (40, 0x30000001), (56, 0x30000002)]
def pF : List (Nat × Nat) := [(24, 0x30000001), (40, 1)]
def opR (k : Nat) : OpRec := recOf (gs grp [] work) 5 grp (recB k)
def opA (st : OpState) : TrigOp := { id := 2, ctx := 5, op := opR 3, seq := 3, sig := 11, state := st, engine := 0, preAbort := none, segs := [], dones := [], readys := [], sentTo := [], recvd := [], gathering := false, bytes := 0, flags := 0, viaSwitch := false, unacked := [(1024, 3)], busy := [4096], fired := 5, access := false }
def sg : Seg := { engine := 0, exp := none, exps := [], got := [], acc := [], buf := [], opened := true, closed := false, resends := 0 }
def opS : TrigOp := { opA .running with viaSwitch := true, segs := [(0, sg)] }
def rn : State := gs grp [opA .running] work
def heldG (n : Nat) : Group := { grp with held := List.replicate n { sub := 1, rank := 0, seq := 5, sig := 1, first := 0, vals := [] } }
def four : List TrigOp := [opA .queued, opA .running, opA .running, opA .running, opA .running]
def dat : List Byte := [1, 2, 3, 4]
def prt : State := { up with lnk := { up.lnk with ports := [(22, { portOf up 22 with state := .up })] } }
def sumB : List Byte := List.replicate (segBytes opS opS.op.outType 0) 1

/-- States and operands that meet the hypotheses of CollectivePosting, clause by clause. -/
theorem test_witness_CollectivePosting :
    let reads := fun (s : State) (d : Desc) (n : Nat) => needH s d Hk.mem 24 = none ∧ needRange s (dfld d 24 4) (dfld d 32 8) n 32 = none
    let seen := fun (s : State) (d : Desc) (n : Nat) => touch (hSlot (dfld d 24 4)) (dfld d 32 8) n false s
    let clean := fun (s : State) (d : Desc) (n : Nat) => poisonedIn (seen s d n) (hSlot (dfld d 24 4)) (dfld d 32 8) n = false
    let list := fun (s : State) (d : Desc) (n : Nat) => (List.range n).map fun i =>
      ofLe (readMem (seen s d (4 * n)) (.desc d.qp d.sub) (hSlot (dfld d 24 4)) (dfld d 32 8 + 4 * i) 4) % 2 ^ 24
    (∃ (s : State) (qp : Nat) (sub : Nat) (d : Desc) (c : Nat) (n : Nat) (i : Nat), Started s qp sub 0x72 d ∧ descCtx s d = some c ∧ n = clampTo 1 1024 (dfld d 40 2) ∧ reads s d (4 * n) ∧ clean s d (4 * n) ∧ nodeId (seen s d (4 * n)) ∈ list s d n ∧ hasDup (list s d n) = false ∧ (∀ e ∈ (seen s d (4 * n)).col.groups, e.2.tag ≠ dfld d 44 4) ∧ confidential (seen s d (4 * n)) = false ∧ (seen s d (4 * n)).col.groups.length < 256 ∧ i < 4096 ∧ tget (seen s d (4 * n)).col.groups i = none ∧ (∀ j, j < i → (tget (seen s d (4 * n)).col.groups j).isSome = true)) ∧
    (∃ (s : State) (qp : Nat) (sub : Nat) (d : Desc) (c : Nat) (n : Nat), Started s qp sub 0x72 d ∧ descCtx s d = some c ∧ n = clampTo 1 1024 (dfld d 40 2) ∧ reads s d (4 * n) ∧ clean s d (4 * n) ∧ (nodeId (seen s d (4 * n)) ∉ list s d n ∨ hasDup (list s d n) = true)) ∧
    (∃ (s : State) (qp : Nat) (sub : Nat) (d : Desc) (c : Nat) (n : Nat), Started s qp sub 0x72 d ∧ descCtx s d = some c ∧ n = clampTo 1 1024 (dfld d 40 2) ∧ reads s d (4 * n) ∧ clean s d (4 * n) ∧ nodeId (seen s d (4 * n)) ∈ list s d n ∧ hasDup (list s d n) = false ∧ (∃ e ∈ (seen s d (4 * n)).col.groups, e.2.tag = dfld d 44 4)) ∧
    (∃ (s : State) (qp : Nat) (sub : Nat) (d : Desc) (g : Sys2Proof.Group), Started s qp sub 0x74 d ∧ tget s.col.groups (dfld d 24 2) = some g ∧ some g.ctx = descCtx s d) ∧
    (∃ (s : State) (qp : Nat) (sub : Nat) (d : Desc) (g : Sys2Proof.Group), Started s qp sub 0x73 d ∧ tget s.col.groups (dfld d 24 2) = some g ∧ some g.ctx = descCtx s d ∧ (∀ o ∈ s.col.ops, o.op.group ≠ dfld d 24 2)) ∧
    (∃ (c : Instr) (s : State) (qp : Nat) (sub : Nat) (d : Desc) (op : Nat), Started s qp sub op d ∧ (c = .groupDestroy qp sub ∧ op = 0x73 ∨ c = .groupQuery qp sub ∧ op = 0x74) ∧ tget s.col.groups (dfld d 24 2) = none) ∧
    (∃ (s : State) (qp : Nat) (sub : Nat) (d : Desc) (c : Nat) (b : List Byte) (g : Sys2Proof.Group) (e : Event), Started s qp sub 0x70 d ∧ descCtx s d = some c ∧ clampTo 1 4096 (dfld d 40 4) = 1 ∧ reads s d 128 ∧ clean s d 128 ∧ b = readMem (seen s d 128) (.desc d.qp d.sub) (hSlot (dfld d 24 4)) (dfld d 32 8) 128 ∧ recGroup (seen s d 128) b = some g ∧ recFail (seen s d 128) c (some g) b (recOf (seen s d 128) c g b) = none ∧ (seen s d 128).col.ops.length < 16384 ∧ tget (seen s d 128).evs (recOf (seen s d 128) c g b).trigger = some e ∧ e.signalled = false ∧ e.count = 0) ∧
    (∃ (s : State) (qp : Nat) (sub : Nat) (d : Desc) (c : Nat) (b : List Byte) (r : Result), Started s qp sub 0x70 d ∧ descCtx s d = some c ∧ clampTo 1 4096 (dfld d 40 4) = 1 ∧ reads s d 128 ∧ clean s d 128 ∧ b = readMem (seen s d 128) (.desc d.qp d.sub) (hSlot (dfld d 24 4)) (dfld d 32 8) 128 ∧ recFail (seen s d 128) c (recGroup (seen s d 128) b) b (recOf (seen s d 128) c ((recGroup (seen s d 128) b).getD noGroup) b) = some r) ∧
    (∃ (o : OpRec), (o.kind = 0 ∨ 5 < o.kind)) ∧
    (∃ (s : State) (qp : Nat) (sub : Nat) (d : Desc), Started s qp sub 0x71 d ∧ (s.col.ops.map TrigOp.id).Nodup ∧ (∀ o ∈ s.col.ops, o.op.status = none ∧ o.op.complete = none)) ∧
    (∃ (s : State) (eng : Nat) (o : TrigOp), queueHead s eng = some o ∧ colEngUp s eng = true ∧ (∀ e, e < 32 → opOn o e = true → runningOn s e < 4) ∧ o.viaSwitch = false) ∧
    (∃ (s : State) (eng : Nat) (o : TrigOp) (e : Nat), queueHead s eng = some o ∧ e < 32 ∧ opOn o e = true ∧ 4 ≤ runningOn s e) ∧
    (∃ (s : State) (eng : Nat), queueHead s eng = none) ∧
    (∃ (n : Nat), 0 < n) :=
  ⟨⟨(wk 0x72 (gF 2) (mB n1 me)), 3, 7, (dW 0x72 (gF 2)), 5, 2, 0, by decide +kernel⟩,
   ⟨(wk 0x72 (gF 2) (mB me me)), 3, 7, (dW 0x72 (gF 2)), 5, 2, by decide +kernel⟩,
   ⟨(gs grp [] (wk 0x72 (gF 2) (mB n1 me))), 3, 7, (dW 0x72 (gF 2)), 5, 2, by decide +kernel⟩,
   ⟨(withD (dW 0x74 []) (gs grp [opA .pending] work)), 3, 7, (dW 0x74 []), grp, by decide +kernel⟩,
   ⟨(withD (dW 0x73 []) (gs grp [] work)), 3, 7, (dW 0x73 []), grp, by decide +kernel⟩,
   ⟨(.groupDestroy 3 7), (withD (dW 0x73 []) work), 3, 7, (dW 0x73 []), 0x73, by decide +kernel⟩,
   ⟨(gs grp [] (wk 0x70 pF (recB 3))), 3, 7, (dW 0x70 pF), 5, (recB 3), grp, evA, by decide +kernel⟩,
   ⟨(gs grp [] (wk 0x70 pF (recB 9))), 3, 7, (dW 0x70 pF), 5, (recB 9), (refuse 0x11 0), by decide +kernel⟩,
   ⟨({ opR 3 with kind := 6 }), by decide +kernel⟩,
   ⟨(withD (dW 0x71 [(24, 6), (32, 7)]) (gs grp [opA .pending, { opA .running with id := 3, op := { opR 3 with tag := 5 } }] work)), 3, 7, (dW 0x71 [(24, 6), (32, 7)]), by decide +kernel⟩,
   ⟨(gs grp [opA .queued] work), 0, (opA .queued), by first | decide +kernel | (refine smp ?_; decide +kernel) | rfl | simp, by first | decide +kernel | (refine smp ?_; decide +kernel) | rfl | simp, by first | decide +kernel | (refine smp ?_; decide +kernel) | rfl | simp, by first | decide +kernel | (refine smp ?_; decide +kernel) | rfl | simp⟩,
   ⟨(gs grp four work), 0, (opA .queued), 3, by decide +kernel⟩,
   ⟨work, 5, by decide +kernel⟩,
   ⟨3, by decide +kernel⟩⟩

/-- States and operands that meet the hypotheses of CollectiveExchange, clause by clause. -/
theorem test_witness_CollectiveExchange :
    let idle := fun (s : State) => ∀ o ∈ s.col.ops, o.state ≠ .running
    let ctl := fun (c : Instr) (kind first : Nat) (vals : List Int) (port node tag seq sig : Nat) =>
      c = .exp port node tag seq sig first vals ∧ kind = 1 ∨
      c = .go port node tag seq sig first vals.length vals ∧ vals.length ≤ 16 ∧ kind = 2 ∨
      c = .ready port node tag seq sig ∧ kind = 3 ∧ first = 0 ∧ vals = [] ∨
      c = .done port node tag seq sig ∧ kind = 4 ∧ first = 0 ∧ vals = []
    let runs := fun (s : State) (node tag seq gi : Nat) (g : Group) (o : TrigOp) => groupFrom s tag node = some (gi, g) ∧
      opOfSeq s gi seq = some o ∧ findOp s o.id = some o ∧ o.state = .running
    let rank := fun (g : Group) (node : Nat) =>
      (firstFrom (fun i => decide (g.members[i]? = some node)) g.members.length 0).getD 0
    (∃ (c : Instr) (kind : Nat) (first : Nat) (vals : List ℤ) (s : State) (port : Nat) (node : Nat) (tag : Nat) (seq : Nat) (sig : Nat), ctl c kind first vals port node tag seq sig ∧ idle s ∧ groupFrom s tag node = none) ∧
    (∃ (c : Instr) (kind : Nat) (first : Nat) (vals : List ℤ) (s : State) (port : Nat) (node : Nat) (tag : Nat) (seq : Nat) (sig : Nat) (gi : Nat) (g : Sys2Proof.Group), ctl c kind first vals port node tag seq sig ∧ idle s ∧ groupFrom s tag node = some (gi, g) ∧ tget s.col.groups gi = some g ∧ opOfSeq s gi seq = none ∧ seqAhead g seq = true ∧ g.held.length < 64) ∧
    (∃ (c : Instr) (kind : Nat) (first : Nat) (vals : List ℤ) (s : State) (port : Nat) (node : Nat) (tag : Nat) (seq : Nat) (sig : Nat) (gi : Nat) (g : Sys2Proof.Group), ctl c kind first vals port node tag seq sig ∧ idle s ∧ groupFrom s tag node = some (gi, g) ∧ tget s.col.groups gi = some g ∧ opOfSeq s gi seq = none ∧ seqAhead g seq = true ∧ 64 ≤ g.held.length) ∧
    (∃ (c : Instr) (kind : Nat) (first : Nat) (vals : List ℤ) (s : State) (port : Nat) (node : Nat) (tag : Nat) (seq : Nat) (sig : Nat) (gi : Nat) (g : Sys2Proof.Group), ctl c kind first vals port node tag seq sig ∧ idle s ∧ groupFrom s tag node = some (gi, g) ∧ opOfSeq s gi seq = none ∧ seqAhead g seq = false) ∧
    (∃ (c : Instr) (kind : Nat) (first : Nat) (vals : List ℤ) (s : State) (port : Nat) (node : Nat) (tag : Nat) (seq : Nat) (sig : Nat) (gi : Nat) (g : Sys2Proof.Group) (o : TrigOp), ctl c kind first vals port node tag seq sig ∧ runs s node tag seq gi g o ∧ sig ≠ o.sig) ∧
    (∃ (s : State) (node : Nat) (tag : Nat) (seq : Nat) (gi : Nat) (g : Sys2Proof.Group) (o : TrigOp), runs s node tag seq gi g o) ∧
    (∃ (s : State) (node : Nat) (tag : Nat) (seq : Nat) (n : Nat) (gi : Nat) (g : Sys2Proof.Group) (o : TrigOp), runs s node tag seq gi g o ∧ n ≤ 16) ∧
    (∃ (s : State) (node : Nat) (tag : Nat) (seq : Nat) (gi : Nat) (g : Sys2Proof.Group) (o : TrigOp), runs s node tag seq gi g o) ∧
    (∃ (s : State) (node : Nat) (tag : Nat) (seq : Nat) (gi : Nat) (g : Sys2Proof.Group) (o : TrigOp), runs s node tag seq gi g o ∧ donesFrom o (rank g node) < donesDue s o) ∧
    (∃ (s : State) (node : Nat) (tag : Nat) (seq : Nat) (gi : Nat) (g : Sys2Proof.Group) (o : TrigOp), groupFrom s tag node = some (gi, g) ∧ opOfSeq s gi seq = some o ∧ o.state ≠ .pending) ∧
    (∃ (s : State) (node : Nat) (tag : Nat) (seq : Nat) (gi : Nat) (g : Sys2Proof.Group) (o : TrigOp), groupFrom s tag node = some (gi, g) ∧ opOfSeq s gi seq = some o ∧ o.state = .pending ∧ o.preAbort = none ∧ idle s ∧ (∀ p ∈ s.col.ops, p.id = o.id → p = o)) ∧
    (∃ (s : State) (id : Nat) (o : TrigOp), findOp s id = some o ∧ o.op.status = none ∧ o.op.complete = none) ∧
    (∃ (s : State) (node : Nat) (tag : Nat) (seq : Nat) (kind : Nat) (gi : Nat) (g : Sys2Proof.Group) (o : TrigOp), groupFrom s tag node = some (gi, g) ∧ opOfSeq s gi seq = some o ∧ (tget o.unacked (kind * 1024 + rankOf s o node)).isSome = true) ∧
    (∃ (s : State) (op : Nat) (kind : Nat) (r : Nat) (o : TrigOp), findOp s op = some o ∧ kind * 1024 + r ∈ o.busy) ∧
    (∃ (s : State) (op : Nat) (kind : Nat) (r : Nat) (o : TrigOp), findOp s op = some o ∧ kind * 1024 + r ∉ o.busy) ∧
    (∃ (s : State) (node : Nat) (tag : Nat) (seq : Nat) (gi : Nat) (g : Sys2Proof.Group) (o : TrigOp), groupFrom s tag node = some (gi, g) ∧ opOfSeq s gi seq = some o) ∧
    (∃ (s : State) (node : Nat) (tag : Nat) (seq : Nat) (gi : Nat) (g : Sys2Proof.Group), groupFrom s tag node = some (gi, g) ∧ opOfSeq s gi seq = none ∧ idle s) ∧
    (∃ (s : State) (node : Nat) (tag : Nat) (seq : Nat) (seg : Nat) (r : Nat) (gi : Nat) (g : Sys2Proof.Group) (o : TrigOp), runs s node tag seq gi g o ∧ g.members[r]? = some node ∧ seg < segCount o.op) ∧
    (∃ (o : TrigOp) (g : Nat) (r : Nat) (c : Nat), r * 64 + c ∈ (segOf o g).got) ∧
    (∃ (s : State) (op : Nat) (kind : Nat) (r : Nat) (o : TrigOp) (n : Nat), findOp s op = some o ∧ o.state = .running ∧ tget o.unacked (kind * 1024 + r) = some n ∧ s.col.resendLimit ≤ n) ∧
    (∃ (s : State) (op : Nat) (o : TrigOp), findOp s op = some o ∧ o.state ≠ .pending ∧ o.op.timeout ≠ 0) ∧
    (∃ (s : State) (op : Nat), idle s ∧ findOp s op = none) ∧
    (∃ (s : State) (port : Nat), 15 ≤ port ∧ port < 23 ∧ carries (portOf s port).state = true) ∧
    (∃ (port : Nat), (port < 15 ∨ 23 ≤ port)) ∧
    (∃ (s : State) (tag : Nat) (seq : Nat) (seg : Nat) (o : TrigOp), switchOp s tag seq = some o ∧ (segOf o seg).opened = true) ∧
    (∃ (s : State) (tag : Nat) (seq : Nat) (seg : Nat) (data : List Byte) (o : TrigOp) (d : Nat), switchOp s tag seq = some o ∧ (segOf o seg).opened = true ∧ (segOf o seg).closed = false ∧ data.length = segBytes o o.op.outType seg ∧ o.op.dst = some d ∧ rangeStops s o d (o.op.dstOff + spanBytes o.op o.op.outType 0 seg) data.length true = none) ∧
    (∃ (s : State) (op : Nat) (o : TrigOp), findOp s op = some o ∧ o.state = .running ∧ o.viaSwitch = true) ∧
    (∃ (s : State) (eng : Nat), colEngUp s eng = true) ∧
    (∃ (s : State) (eng : Nat), colEngUp s eng = false) :=
  ⟨⟨(.exp 22 n1 78 3 11 0 [4]), 1, 0, ([4]), (gs grp [] work), 22, n1, 78, 3, 11, by decide +kernel⟩,
   ⟨(.go 22 n1 77 5 11 2 1 [4]), 2, 2, ([4]), (gs grp [] work), 22, n1, 77, 5, 11, 0, grp, by decide +kernel⟩,
   ⟨(.ready 22 n1 77 5 11), 3, 0, ([]), (gs (heldG 64) [] work), 22, n1, 77, 5, 11, 0, (heldG 64), by decide +kernel⟩,
   ⟨(.done 22 n1 77 3 11), 4, 0, ([]), (gs grp [] work), 22, n1, 77, 3, 11, 0, grp, by decide +kernel⟩,
   ⟨(.done 22 n1 77 3 12), 4, 0, ([]), rn, 22, n1, 77, 3, 12, 0, grp, (opA .running), by decide +kernel⟩,
   ⟨rn, n1, 77, 3, 0, grp, (opA .running), by decide +kernel⟩,
   ⟨rn, n1, 77, 3, 1, 0, grp, (opA .running), by decide +kernel⟩,
   ⟨rn, n1, 77, 3, 0, grp, (opA .running), by decide +kernel⟩,
   ⟨rn, n1, 77, 3, 0, grp, (opA .running), by decide +kernel⟩,
   ⟨rn, n1, 77, 3, 0, grp, (opA .running), by decide +kernel⟩,
   ⟨(gs grp [opA .pending] work), n1, 77, 3, 0, grp, (opA .pending), by decide +kernel⟩,
   ⟨rn, 2, (opA .running), by decide +kernel⟩,
   ⟨rn, n1, 77, 3, 1, 0, grp, (opA .running), by decide +kernel⟩,
   ⟨rn, 2, 4, 0, (opA .running), by decide +kernel⟩,
   ⟨rn, 2, 3, 0, (opA .running), by decide +kernel⟩,
   ⟨rn, n1, 77, 3, 0, grp, (opA .running), by decide +kernel⟩,
   ⟨(gs grp [] work), n1, 77, 9, 0, grp, by decide +kernel⟩,
   ⟨rn, n1, 77, 3, 0, 0, 0, grp, (opA .running), by decide +kernel⟩,
   ⟨({ opA .running with segs := [(0, { sg with got := [65] })] }), 0, 1, 1, by decide +kernel⟩,
   ⟨rn, 2, 1, 0, (opA .running), 3, by decide +kernel⟩,
   ⟨(gs grp [{ opA .running with op := { opR 3 with timeout := 7 } }] work), 2, ({ opA .running with op := { opR 3 with timeout := 7 } }), by decide +kernel⟩,
   ⟨work, 5, by decide +kernel⟩,
   ⟨prt, 22, by decide +kernel⟩,
   ⟨14, by decide +kernel⟩,
   ⟨(gs grp [opS] work), 77, 3, 0, opS, by decide +kernel⟩,
   ⟨(gs grp [opS] work), 77, 3, 0, sumB, opS, 2, by decide +kernel⟩,
   ⟨(gs grp [opS] work), 2, opS, by decide +kernel⟩,
   ⟨up, 31, by decide +kernel⟩,
   ⟨up, 32, by decide +kernel⟩⟩

/-- States and operands that meet the hypotheses of SumOrderIndependence, clause by clause. -/
theorem test_witness_SumOrderIndependence :
    let total := fun (red : Nat) (e : Int) (a : Acc) (l : List (Int × Elem)) =>
      l.foldl (fun a x => (accAddElem red e x.1 a x.2).1) a
    (∃ (l : List (ℤ × Elem)) (k : List (ℤ × Elem)), l.Perm k) ∧
    (∃ (l : List (ℤ × ℤ)) (k : List (ℤ × ℤ)), l.Perm k) ∧
    (∃ (l : List (ℤ × Elem)) (k : List (ℤ × Elem)), l.Perm k) :=
  ⟨⟨([(0, .int 3), (0, .int 4)]), ([(0, .int 4), (0, .int 3)]), by first | decide +kernel | (exact List.Perm.swap _ _ _) | rfl | simp⟩,
   ⟨([(0, 3), (0, 4)]), ([(0, 4), (0, 3)]), by first | decide +kernel | (exact List.Perm.swap _ _ _) | rfl | simp⟩,
   ⟨([(0, .int 3), (0, .int 4)]), ([(0, .int 4), (0, .int 3)]), by first | decide +kernel | (exact List.Perm.swap _ _ _) | rfl | simp⟩⟩

end W13

namespace W14

def schB (k : Nat) : List Byte := bytesOf 256 [(0, 0x53434831), (4, 1), (6, 1), (8, 1), (10, 1), (12, 1), (20, 0x40000001), (24, 0x40000001), (28, 0x40000002), (32, 0x40000002), (36, 60000000), (80, 128), (88, 192), (97, 1), (128, k), (132, 2), (136, 0x60000009), (192, 8), (193, 8), (200, 16), (216, 0x30000001), (220, 0x30000002)]
def schG : Graph := { ctx := 5, state := .loaded, length := 4096, nArgs := 0, tasks := [], tokens := [], code := [], digest := 0 }
def sS (k : Nat) (d : Desc) : State := { withD d work with mem := cellsOf 1 0 (schB k), tsk := { TskState.init with graphs := [(9, schG)] } }
def lF : List (Nat × Nat) := [(24, 0x30000001), (40, 256)]
def rnA (b : List Byte) : Runner := { table := b, report := (0, 0), config := schedConfig work, stepEvent := 1, active := false, fresh := false, sigAt := 0, desc := (3, 7), left := none, stops := [], inStep := false, step := 77, t0 := 0, next := 0, laCommitted := false, laDone := false, failed := none, posted := [], overs := 2, lates := 3, retries := 4, readmitFailed := true, readmitDue := false }
def r0 : Runner := rnA (schB 1)
def rS (r : Runner) (s : State) : State := { s with runners := [(5, r)] }
def act : Runner := { r0 with active := true }
def stp : Runner := { act with inStep := true, next := 1 }
def dR : Desc := descOf 3 0x82 [] .running
def adm (l : Bool) : Admission := { desc := (3, 7), ctx := 5, fn := 0, table := schB 1, report := (0, 0), load := l }
def ev1 (e : Event) (s : State) : State := { s with evs := [(1, e), (2, evA)] }
def sig : Event := { evA with signalled := true, payload := 77 * 2 ^ 24 }
def ret : Desc := { descOf 3 0x38 [] .started with sub := runnerBase, note := 1 }
def fullQp (s : State) : State := { s with cmd := { s.cmd with qps := [(3, { qpA with reserved := 64 })] } }

/-- States and operands that meet the hypotheses of StepSchedules, clause by clause. -/
theorem test_witness_StepSchedules :
    let seen := fun (s : State) (d : Desc) => touch (hSlot (dfld d 24 4)) (dfld d 32 8) (clampTo 128 16777216 (dfld d 40 8)) false s
    let table := fun (s : State) (d : Desc) =>
      readMem (seen s d) (.desc d.qp d.sub) (hSlot (dfld d 24 4)) (dfld d 32 8) (clampTo 128 16777216 (dfld d 40 8))
    let reads := fun (s : State) (d : Desc) => needH s d Hk.mem 24 = none ∧ dfld d 48 4 = 0 ∧
      needRange s (dfld d 24 4) (dfld d 32 8) (clampTo 128 16777216 (dfld d 40 8)) 32 = none
    let cmd := fun (c : Instr) (load : Bool) (op qp sub : Nat) =>
      c = .schedLoad qp sub ∧ load = true ∧ op = 0x80 ∨ c = .tollgateCheck qp sub ∧ load = false ∧ op = 0x81
    (∃ (c : Instr) (load : Bool) (op : Nat) (s : State) (qp : Nat) (sub : Nat) (d : Desc) (x : Nat), cmd c load op qp sub ∧ Started s qp sub op d ∧ reads s d ∧ descCtx s d = some x ∧ (load = true → tget s.runners x = none) ∧ poisonedIn (seen s d) (hSlot (dfld d 24 4)) (dfld d 32 8) (clampTo 128 16777216 (dfld d 40 8)) = false ∧ schedFail (seen s d) d.fn x (table s d) = none) ∧
    (∃ (c : Instr) (load : Bool) (op : Nat) (s : State) (qp : Nat) (sub : Nat) (d : Desc) (x : Nat) (r : Result), cmd c load op qp sub ∧ Started s qp sub op d ∧ reads s d ∧ descCtx s d = some x ∧ (load = true → tget s.runners x = none) ∧ poisonedIn (seen s d) (hSlot (dfld d 24 4)) (dfld d 32 8) (clampTo 128 16777216 (dfld d 40 8)) = false ∧ schedFail (seen s d) d.fn x (table s d) = some r) ∧
    (∃ (s : State) (qp : Nat) (sub : Nat) (d : Desc) (x : Nat) (r : Runner), Started s qp sub 0x80 d ∧ reads s d ∧ descCtx s d = some x ∧ tget s.runners x = some r) ∧
    (∃ (s : State) (qp : Nat) (sub : Nat) (d : Desc) (a : Admission), s.admits.find? (fun a => decide (a.desc = (qp, sub))) = some a ∧ findDesc s qp sub = some d ∧ d.phase = .running ∧ (a.load = true → tget s.runners a.ctx = none) ∧ a.report.1 = 0) ∧
    (∃ (s : State) (qp : Nat) (sub : Nat), s.admits.find? (fun a => decide (a.desc = (qp, sub))) = none) ∧
    (∃ (s : State) (x : Nat) (r : Runner), tget s.runners x = some r ∧ r.readmitDue = true ∧ r.report.1 = 0) ∧
    (∃ (s : State) (x : Nat) (r : Runner), tget s.runners x = some r ∧ r.readmitDue = false) ∧
    (∃ (s : State) (qp : Nat) (sub : Nat) (d : Desc) (x : Nat) (r : Runner), Started s qp sub 0x82 d ∧ descCtx s d = some x ∧ tget s.runners x = some r ∧ r.active = false) ∧
    (∃ (s : State) (qp : Nat) (sub : Nat) (d : Desc) (x : Nat) (r : Runner), Started s qp sub 0x83 d ∧ descCtx s d = some x ∧ tget s.runners x = some r ∧ r.active = true) ∧
    (∃ (s : State) (qp : Nat) (sub : Nat) (d : Desc) (x : Nat) (r : Runner), Started s qp sub 0x85 d ∧ descCtx s d = some x ∧ tget s.runners x = some r ∧ r.active = false) ∧
    (∃ (c : Instr) (s : State) (qp : Nat) (sub : Nat) (d : Desc) (x : Nat) (op : Nat), Started s qp sub op d ∧ descCtx s d = some x ∧ (c = .schedStart qp sub ∧ op = 0x82 ∧ (∀ r, tget s.runners x = some r → r.active = true) ∨ c = .schedStop qp sub ∧ op = 0x83 ∧ (∀ r, tget s.runners x = some r → r.active = false) ∨ c = .schedUnload qp sub ∧ op = 0x85 ∧ (∀ r, tget s.runners x = some r → r.active = true))) ∧
    (∃ (s : State) (qp : Nat) (sub : Nat) (d : Desc) (x : Nat) (r : Runner), Started s qp sub 0x84 d ∧ descCtx s d = some x ∧ tget s.runners x = some r) ∧
    (∃ (s : State) (x : Nat) (r : Runner) (e : Event), tget s.runners x = some r ∧ r.active = true ∧ r.inStep = false ∧ r.fresh = false ∧ tget s.evs r.stepEvent = some e ∧ e.signalled = true) ∧
    (∃ (s : State) (x : Nat) (r : Runner) (e : Event), tget s.runners x = some r ∧ r.inStep = false ∧ tget s.evs r.stepEvent = some e ∧ (e.signalled = false ∨ r.fresh = true ∨ r.active = false)) ∧
    (∃ (s : State) (x : Nat) (r : Runner) (h : SHead) (p : QueuePair), tget s.runners x = some r ∧ sHead r.table = h ∧ r.next < h.nEnt ∧ r.failed = none ∧ entrySkipped r (sEntry r.table h r.next) = false ∧ getQp s r.desc.1 = some p ∧ freeSlots p = 0) ∧
    (∃ (s : State) (x : Nat) (r : Runner) (d : Desc) (st : Nat) (i : Nat), tget s.runners x = some r ∧ r.active = true ∧ r.inStep = true ∧ r.failed = some (st, i) ∧ stepOver s x r = true ∧ findDesc s r.desc.1 r.desc.2 = some d ∧ r.stops = []) ∧
    (∃ (s : State) (x : Nat) (r : Runner), tget s.runners x = some r ∧ r.active = true ∧ r.inStep = true ∧ r.failed = none ∧ stepOver s x r = true ∧ Quiet s ∧ r.left ≠ some 1 ∧ r.stops = []) ∧
    (∃ (s : State) (x : Nat) (r : Runner), tget s.runners x = some r ∧ r.active = true ∧ r.inStep = true ∧ r.failed = none ∧ stepOver s x r = true ∧ Quiet s ∧ r.left = some 1) ∧
    (∃ (s : State) (x : Nat) (r : Runner), tget s.runners x = some r ∧ stepOver s x r = false) ∧
    (∃ (s : State) (qp : Nat) (sub : Nat) (d : Desc) (x : Nat), retryDue s qp sub = true ∧ findDesc s qp sub = some d ∧ descCtx s d = some x) ∧
    (∃ (s : State) (qp : Nat) (sub : Nat), retryDue s qp sub = false) :=
  ⟨⟨(.schedLoad 3 7), true, 0x80, (sS 1 (dW 0x80 lF)), 3, 7, (dW 0x80 lF), 5, by decide +kernel⟩,
   ⟨(.tollgateCheck 3 7), false, 0x81, (sS 9 (dW 0x81 lF)), 3, 7, (dW 0x81 lF), 5, ({ refuse 0x11 24 with value := 128 }), by decide +kernel⟩,
   ⟨(rS r0 (sS 1 (dW 0x80 lF))), 3, 7, (dW 0x80 lF), 5, r0, by decide +kernel⟩,
   ⟨({ sS 1 (descOf 3 0x80 lF .running) with admits := [adm true] }), 3, 7, (descOf 3 0x80 lF .running), (adm true), by decide +kernel⟩,
   ⟨work, 3, 7, by decide +kernel⟩,
   ⟨(rS { r0 with readmitDue := true } (sS 1 dR)), 5, ({ r0 with readmitDue := true }), by decide +kernel⟩,
   ⟨(rS r0 work), 5, r0, by decide +kernel⟩,
   ⟨(rS r0 (sS 1 (dW 0x82 [(24, 4)]))), 3, 7, (dW 0x82 [(24, 4)]), 5, r0, by decide +kernel⟩,
   ⟨(rS act (sS 1 (dW 0x83 []))), 3, 7, (dW 0x83 []), 5, act, by decide +kernel⟩,
   ⟨(rS r0 (sS 1 (dW 0x85 []))), 3, 7, (dW 0x85 []), 5, r0, by decide +kernel⟩,
   ⟨(.schedStart 3 7), (sS 1 (dW 0x82 [])), 3, 7, (dW 0x82 []), 5, 0x82, by first | decide +kernel | (exact Or.inl ⟨rfl, rfl, fun r h => absurd h (by decide +kernel +revert)⟩) | rfl | simp, by first | decide +kernel | (exact Or.inl ⟨rfl, rfl, fun r h => absurd h (by decide +kernel +revert)⟩) | rfl | simp, by first | decide +kernel | (exact Or.inl ⟨rfl, rfl, fun r h => absurd h (by decide +kernel +revert)⟩) | rfl | simp⟩,
   ⟨(rS act (sS 1 (dW 0x84 []))), 3, 7, (dW 0x84 []), 5, act, by decide +kernel⟩,
   ⟨(ev1 sig (rS act (sS 1 dR))), 5, act, sig, by decide +kernel⟩,
   ⟨(ev1 sig (rS r0 (sS 1 dR))), 5, r0, sig, by decide +kernel⟩,
   ⟨(fullQp (rS { act with inStep := true } (sS 1 dR))), 5, ({ act with inStep := true }), (sHead (schB 1)), ({ qpA with reserved := 64 }), by decide +kernel⟩,
   ⟨(rS { stp with failed := some (4, 0) } (sS 1 dR)), 5, ({ stp with failed := some (4, 0) }), dR, 4, 0, by decide +kernel⟩,
   ⟨(rS stp (sS 1 dR)), 5, stp, by decide +kernel⟩,
   ⟨(rS { stp with left := some 1 } (sS 1 dR)), 5, ({ stp with left := some 1 }), by decide +kernel⟩,
   ⟨(rS { stp with next := 0 } (sS 1 dR)), 5, ({ stp with next := 0 }), by decide +kernel⟩,
   ⟨(rS act (withD ret work)), 3, runnerBase, ret, 5, by decide +kernel⟩,
   ⟨work, 3, 7, by decide +kernel⟩⟩

end W14

namespace W15

def oF : List (Nat × Nat) := [(24, 0x123), (28, 0x30000001), (32, 0x40000001), (36, 0x40000002), (40, 10), (44, 5), (46, 4)]
def wS (d : Desc) : State := withD d work
def st0 : Stream := { streamNew (dW 0x90 oF) 5 0 with dest := 1 }
def ss (x : Stream) (s : State) : State := { s with ing := { s.ing with streams := [(2, x)] } }
def fullS (s : State) : State := { s with ing := { s.ing with streams := (List.range 64).map fun i => (i, { st0 with state := .flowing }) } }
def opn (k : Nat) : Stream := { st0 with ctlSends := k }
def dO : Desc := descOf 3 0x90 oF .running
def hld (s : State) : State := { s with ing := { s.ing with held := true }, now := 3000 }
def flo : Stream := { st0 with state := .flowing, desc := none, current := some { buf := none, recs := [] } }
def smp (n : Nat) : List Byte := bytesOf 128 [(0, n), (8, 64)]
def rec1 : SampleRec := { ssn := 0, count := 1, gap := false, bytes := smp 0 }
def bf : LandBuf := { buf := none, recs := [rec1] }
def clo : Stream := { flo with state := .closing, current := none, desc := some (3, 7) }
def dC : Desc := descOf 3 0x91 [(24, 2)] .running
def al : Allocator := { n := 64, pointer := 0, free := [4, 2, 9], line := [], reserved := [(5, 7)], held := [(3, 1)] }
def alW : Allocator := { n := 64, pointer := 0, free := [], line := [8, 9], reserved := [(5, 7)], held := [(3, 2)] }
def po (p : Nat) (a : Allocator) (s : State) : State := { s with hbm := { s.hbm with allocs := [(p, a)] } }
def s93 : List (Nat × Nat) := [(24, 2), (28, 0x30000001), (32, 64)]

/-- States and operands that meet the hypotheses of SampleStreams, clause by clause. -/
theorem test_witness_SampleStreams :
    let at1 := fun (t : State) (n : Nat) => tget t.ing.streams n
    (∃ (s : State) (qp : Nat) (sub : Nat) (d : Desc) (c : Nat) (n : Nat), Started s qp sub 0x90 d ∧ descCtx s d = some c ∧ needH s d Hk.mem 28 = none ∧ 262144 ≤ objSize s (dfld d 28 4) ∧ needH s d Hk.ev 32 = none ∧ needH s d Hk.ev 36 = none ∧ confidential s = false ∧ n < 64 ∧ at1 s n = none ∧ (∀ k, k < n → (at1 s k).isSome = true)) ∧
    (∃ (s : State) (qp : Nat) (sub : Nat) (d : Desc) (c : Nat), Started s qp sub 0x90 d ∧ descCtx s d = some c ∧ needH s d Hk.mem 28 = none ∧ objSize s (dfld d 28 4) < 262144) ∧
    (∃ (s : State) (qp : Nat) (sub : Nat) (d : Desc) (c : Nat), Started s qp sub 0x90 d ∧ descCtx s d = some c ∧ needH s d Hk.mem 28 = none ∧ 262144 ≤ objSize s (dfld d 28 4) ∧ needH s d Hk.ev 32 = none ∧ needH s d Hk.ev 36 = none ∧ confidential s = false ∧ (∀ k, k < 64 → (at1 s k).isSome = true) ∧ (∀ e ∈ s.ing.streams, e.2.state ≠ .closing)) ∧
    (∃ (s : State) (node : Nat) (n : Nat) (x : Sys2Proof.Stream) (q : Nat) (u : Nat) (d : Desc) (rtt : Nat), at1 s n = some x ∧ x.state = .opening ∧ x.server = node ∧ x.desc = some (q, u) ∧ findDesc s q u = some d ∧ d.phase = .running ∧ s.ing.held = true ∧ rtt = (s.now - x.openAt + 999) / 1000 ∧ (((openStreams s).map fun y => y.rate).sum + x.rate ≤ 100000) ∧ (((openStreams s).map fun y => y.allow).sum + x.rate * (x.stopUs + rtt) ≤ 8388608)) ∧
    (∃ (s : State) (node : Nat) (n : Nat) (x : Sys2Proof.Stream) (q : Nat) (u : Nat) (d : Desc) (reason : Nat), at1 s n = some x ∧ x.state = .opening ∧ x.server = node ∧ x.desc = some (q, u) ∧ findDesc s q u = some d ∧ d.phase = .running ∧ (reason ≠ 0 ∨ 100000 < ((openStreams s).map fun y => y.rate).sum + x.rate)) ∧
    (∃ (s : State) (node : Nat) (n : Nat), (∀ x, at1 s n = some x → x.server ≠ node)) ∧
    (∃ (s : State) (n : Nat) (x : Sys2Proof.Stream) (q : Nat) (u : Nat) (d : Desc), at1 s n = some x ∧ x.state = .opening ∧ x.desc = some (q, u) ∧ findDesc s q u = some d ∧ d.phase = .running ∧ x.ctlSends < 3) ∧
    (∃ (s : State) (n : Nat) (x : Sys2Proof.Stream) (q : Nat) (u : Nat) (d : Desc), at1 s n = some x ∧ x.state = .opening ∧ x.desc = some (q, u) ∧ findDesc s q u = some d ∧ d.phase = .running ∧ 3 ≤ x.ctlSends) ∧
    (∃ (s : State) (qp : Nat) (sub : Nat) (d : Desc) (x : Sys2Proof.Stream), Started s qp sub 0x91 d ∧ descStream s d = some (dfld d 24 1, x) ∧ x.state ≠ .closing) ∧
    (∃ (s : State) (qp : Nat) (sub : Nat) (d : Desc) (x : Sys2Proof.Stream), Started s qp sub 0x91 d ∧ descStream s d = some (dfld d 24 1, x) ∧ x.state = .closing) ∧
    (∃ (c : Instr) (s : State) (qp : Nat) (sub : Nat) (d : Desc) (op : Nat), Started s qp sub op d ∧ descStream s d = none ∧ (c = .streamClose qp sub ∧ op = 0x91 ∨ c = .streamQuery qp sub ∧ op = 0x92 ∨ c = .streamPosition qp sub ∧ op = 0x93 ∧ posStream s d = none)) ∧
    (∃ (s : State) (qp : Nat) (sub : Nat) (d : Desc) (x : Sys2Proof.Stream), Started s qp sub 0x92 d ∧ descStream s d = some (dfld d 24 1, x)) ∧
    (∃ (s : State) (qp : Nat) (sub : Nat) (d : Desc) (x : Sys2Proof.Stream), Started s qp sub 0x93 d ∧ posStream s d = some (dfld d 24 1, x) ∧ needH s d Hk.mem 28 = none ∧ dfld d 32 8 % 64 = 0 ∧ needWritable s (dfld d 28 4) (dfld d 32 8) 64 32 = none) ∧
    (∃ (s : State) (n : Nat) (txn : Nat) (b : List Byte) (x : Sys2Proof.Stream) (k : LandBuf), at1 s n = some x ∧ x.state = .flowing ∧ txn % 65536 = x.nextTxn ∧ x.partly = none ∧ x.current = some k ∧ 64 ≤ b.length ∧ bin b 0 8 = x.nextSsn ∧ 0 < bin b 8 4 ∧ bin b 8 4 ≤ 262080 ∧ b.length = 64 + roundUp (bin b 8 4) 64 ∧ b.length ≤ landSpace x) ∧
    (∃ (s : State) (n : Nat) (txn : Nat) (b : List Byte) (x : Sys2Proof.Stream), at1 s n = some x ∧ x.state = .flowing ∧ txn % 65536 = x.nextTxn ∧ x.partly = none ∧ 64 ≤ b.length ∧ bin b 0 8 < x.nextSsn) ∧
    (∃ (s : State) (n : Nat) (x : Sys2Proof.Stream), at1 s n = some x ∧ (x.state = .closing ∨ x.state = .failed)) ∧
    (∃ (s : State) (n : Nat) (x : Sys2Proof.Stream) (b : LandBuf), at1 s n = some x ∧ x.current = some b ∧ b.recs ≠ [] ∧ x.partly = none) ∧
    (∃ (s : State) (n : Nat) (x : Sys2Proof.Stream), at1 s n = some x ∧ x.current = none) ∧
    (∃ (s : State) (n : Nat) (x : Sys2Proof.Stream), at1 s n = some x ∧ x.state = .holding ∧ x.awaiting = some true) ∧
    (∃ (s : State) (n : Nat) (x : Sys2Proof.Stream), at1 s n = some x ∧ x.state = .flowing ∧ x.awaiting = some false) ∧
    (∃ (s : State) (n : Nat) (x : Sys2Proof.Stream) (h : Bool), at1 s n = some x ∧ x.awaiting = some h ∧ x.sends < 8) ∧
    (∃ (s : State) (n : Nat) (x : Sys2Proof.Stream) (h : Bool), at1 s n = some x ∧ x.awaiting = some h ∧ 8 ≤ x.sends ∧ Quiet s) ∧
    (∃ (s : State) (n : Nat) (x : Sys2Proof.Stream), at1 s n = some x ∧ x.state = .closing) ∧
    (∃ (s : State) (n : Nat) (x : Sys2Proof.Stream), at1 s n = some x ∧ x.state = .closing ∧ x.closeDone = false ∧ x.ctlSends < 3) ∧
    (∃ (s : State) (n : Nat) (x : Sys2Proof.Stream), at1 s n = some x ∧ x.state = .closing ∧ x.closeDone = false ∧ 3 ≤ x.ctlSends) ∧
    (∃ (s : State) (n : Nat) (x : Sys2Proof.Stream) (q : Nat) (u : Nat) (d : Desc), at1 s n = some x ∧ x.state = .closing ∧ x.closeDone = true ∧ landedRecs x = [] ∧ x.handed = [] ∧ x.current = none ∧ bufsHeld s n = 0 ∧ x.desc = some (q, u) ∧ findDesc s q u = some d) ∧
    (∃ (s : State) (n : Nat) (x : Sys2Proof.Stream) (b : LandBuf) (rest : List LandBuf) (m : MemObj) (lay : List (Nat × List Byte) × List (Nat × Nat × Nat)) (landed : Nat), at1 s n = some x ∧ x.state ≠ .closing ∧ x.handed = b :: rest ∧ tget s.mems x.dest = some m ∧ Quiet s ∧ lay = layRing (m.size / 64 * 64) ((b.recs.map (moveRec s x)).map Prod.fst) x.landed ∧ landed = ((lay.2.getLast?).map Prod.fst).getD x.landed ∧ 0 < m.size / 64 * 64 ∧ landed - x.consumed ≤ m.size / 64 * 64) ∧
    (∃ (s : State) (n : Nat) (x : Sys2Proof.Stream), at1 s n = some x ∧ x.handed = []) ∧
    (∃ (s : State) (pool : Nat) (r : Nat), pool ≠ 0 ∧ r < (poolOf s pool).n) ∧
    (∃ (r : Nat) (a : Allocator) (b : Nat), tget a.reserved r = some b) ∧
    (∃ (r : Nat) (a : Allocator) (b : Nat), tget a.reserved r = none ∧ b ∈ a.free ∧ (∀ c ∈ a.free, b ≤ c)) ∧
    (∃ (r : Nat) (a : Allocator), tget a.reserved r = none ∧ a.free = []) ∧
    (∃ (s : State) (pool : Nat) (b : Nat) (r : Nat), pool ≠ 0 ∧ tget (poolOf s pool).held b = some r) ∧
    (∃ (s : State) (b : Nat) (r : Nat), tget (poolOf s 0).held b = some r ∧ b ∈ s.ing.emptied ∧ bufUp s b = true) ∧
    (∃ (s : State) (b : Nat), b ∉ s.ing.emptied) ∧
    (∃ (a : Allocator) (r : Nat) (l : List Nat), a.line = r :: l) ∧
    (∃ (a : Allocator) (r : Nat) (b : Nat) (q : Nat) (l : List Nat), tget a.reserved r = some b ∧ a.line = q :: l) :=
  ⟨⟨(wS (dW 0x90 oF)), 3, 7, (dW 0x90 oF), 5, 0, by decide +kernel⟩,
   ⟨({ wS (dW 0x90 oF) with mems := [(1, { memA with size := 65536 })] }), 3, 7, (dW 0x90 oF), 5, by decide +kernel⟩,
   ⟨(fullS (wS (dW 0x90 oF))), 3, 7, (dW 0x90 oF), 5, by decide +kernel⟩,
   ⟨(hld (ss (opn 1) (wS dO))), 0x123, 2, (opn 1), 3, 7, dO, 3, by decide +kernel⟩,
   ⟨(ss (opn 1) (wS dO)), 0x123, 2, (opn 1), 3, 7, dO, 3, by decide +kernel⟩,
   ⟨(ss (opn 1) (wS dO)), 0x124, 2, by decide +kernel⟩,
   ⟨(ss (opn 2) (wS dO)), 2, (opn 2), 3, 7, dO, by decide +kernel⟩,
   ⟨(ss (opn 3) (wS dO)), 2, (opn 3), 3, 7, dO, by decide +kernel⟩,
   ⟨(ss flo (wS (dW 0x91 [(24, 2)]))), 3, 7, (dW 0x91 [(24, 2)]), flo, by decide +kernel⟩,
   ⟨(ss clo (wS (dW 0x91 [(24, 2)]))), 3, 7, (dW 0x91 [(24, 2)]), clo, by decide +kernel⟩,
   ⟨(.streamQuery 3 7), (ss flo (wS (dW 0x92 [(24, 3)]))), 3, 7, (dW 0x92 [(24, 3)]), 0x92, by decide +kernel⟩,
   ⟨(ss flo (wS (dW 0x92 [(24, 2)]))), 3, 7, (dW 0x92 [(24, 2)]), flo, by decide +kernel⟩,
   ⟨(ss flo (wS (dW 0x93 s93))), 3, 7, (dW 0x93 s93), flo, by decide +kernel⟩,
   ⟨(ss flo work), 2, 0, (smp 0), flo, ({ buf := none, recs := [] }), by decide +kernel⟩,
   ⟨(ss { flo with nextSsn := 3 } work), 2, 65536, (smp 2), ({ flo with nextSsn := 3 }), by decide +kernel⟩,
   ⟨(ss clo work), 2, clo, by decide +kernel⟩,
   ⟨(ss { flo with current := some bf } work), 2, ({ flo with current := some bf }), bf, by decide +kernel⟩,
   ⟨(ss clo work), 2, clo, by decide +kernel⟩,
   ⟨(ss { flo with state := .holding, awaiting := some true } work), 2, ({ flo with state := .holding, awaiting := some true }), by decide +kernel⟩,
   ⟨(ss { flo with awaiting := some false } work), 2, ({ flo with awaiting := some false }), by decide +kernel⟩,
   ⟨(ss { flo with awaiting := some true, sends := 7 } work), 2, ({ flo with awaiting := some true, sends := 7 }), true, by decide +kernel⟩,
   ⟨(ss { flo with awaiting := some true, sends := 8 } work), 2, ({ flo with awaiting := some true, sends := 8 }), true, by decide +kernel⟩,
   ⟨(ss clo work), 2, clo, by decide +kernel⟩,
   ⟨(ss clo work), 2, clo, by decide +kernel⟩,
   ⟨(ss { clo with ctlSends := 3 } work), 2, ({ clo with ctlSends := 3 }), by decide +kernel⟩,
   ⟨(ss { clo with closeDone := true } (wS dC)), 2, ({ clo with closeDone := true }), 3, 7, dC, by decide +kernel⟩,
   ⟨(ss { flo with handed := [bf] } work), 2, ({ flo with handed := [bf] }), bf, ([]), memA, (layRing 0x200000 [(moveRec (ss { flo with handed := [bf] } work) { flo with handed := [bf] } rec1).1] 0), 64, by decide +kernel⟩,
   ⟨(ss flo work), 2, flo, by decide +kernel⟩,
   ⟨(po 3 al work), 3, 63, by decide +kernel⟩,
   ⟨5, al, 7, by decide +kernel⟩,
   ⟨6, al, 2, by decide +kernel⟩,
   ⟨6, alW, by decide +kernel⟩,
   ⟨(po 3 al work), 3, 3, 1, by decide +kernel⟩,
   ⟨({ po 0 alW (ss flo work) with ing := { (ss flo work).ing with emptied := [3] } }), 3, 2, by decide +kernel⟩,
   ⟨work, 3, by decide +kernel⟩,
   ⟨alW, 8, ([9]), by decide +kernel⟩,
   ⟨alW, 5, 7, 8, ([9]), by decide +kernel⟩⟩

end W15

namespace W16

theorem ofLe_leBytes' (n v : Nat) : ofLe (leBytes n v) = v % 256 ^ n := by
  induction n generalizing v with
  | zero => simp [leBytes, ofLe, Nat.mod_one]
  | succ n ih =>
    simp only [leBytes, ofLe, ih, BitVec.toNat_ofNat]
    have h : (2 : Nat) ^ 8 = 256 := by decide
    rw [h, Nat.pow_succ', Nat.mod_mul]
def plB (m : Nat) : List Byte := bytesOf 224 [(0, m), (4, 1), (6, 1), (8, 99), (16, 0), (20, 2), (24, 0x2A418), (28, 0x2A420), (32, 0xFFFFFF), (56, 0x30000002), (72, 16), (192, 3), (200, 0x30000001), (208, 4096), (216, 128)]
def ck0 : CkpCtx := { plan := none, trigger := false, run := none, last := none, lastBuddy := false, skipped := 3, disarm := [], mani := none, prev := none, restore := none }
def cs (k : CkpCtx) (s : State) : State := { s with ckp := { s.ckp with ctxs := [(5, k)] } }
def pS (m : Nat) (d : Desc) : State := { withD d work with mem := cellsOf 1 0 (plB m) ++ cellsOf 2 0 [2] }
def pln : CkpPlan := ckpPlanOf (plB 0x434B5031) (leBytes 16 2)
def run0 (p : CkpPhase) : CkpRun := { step := 20, awaited := [4], phase := p, head := [], copies := [], buddy := false }
def kP : CkpCtx := { ck0 with plan := some pln }
def kR (p : CkpPhase) : CkpCtx := { kP with run := some (run0 p) }
def pf : List (Nat × Nat) := [(24, 0x30000001)]
def opA : TrigOp := { id := 4, ctx := 5, op := { kind := 3, dtype := 0, outType := 0, red := 0, part := 0, mask := 255, root := 0, trigger := 1, threshold := 1, complete := none, group := 0, tag := 0, count := 1, src := 1, srcOff := 0, dst := none, dstOff := 0, exp := none, expOff := 0, status := none, statusOff := 0, seg := 256, timeout := 0 }, seq := 3, sig := 11, state := .running, engine := 0, preAbort := none, segs := [], dones := [], readys := [], sentTo := [], recvd := [], gathering := false, bytes := 0, flags := 0, viaSwitch := false, unacked := [], busy := [], fired := 5, access := false }
def x0 (k : XferKind) : Xfer := { node := 0x2A420, ctx := 5, kind := k, name := [], opened := true, window := 8, next := 0, chunks := 3, unacked := [(reqKey, 0)], closing := false, bytes := [], pieces := [], span := (0, 0) }
def xs (x : Xfer) (s : State) : State := { s with ckp := { s.ckp with xfers := [(6, x)], nextTxn := 7 } }
def hd : CkpRun := { run0 .streaming with head := List.replicate 8 7 }
def psn (s : State) : State := { s with poison := [(lineKey 1 4096, { stack := 0, tabled := true })], mems := [(1, memA)] }
def mw (r : Tbl RankReport) (sent : Option Bool) : ManiWork := { step := 20, reports := r, sent := sent }
def plM : CkpPlan := { pln with maniNode := 0x2A417 }
def kM (r : Tbl RankReport) : CkpCtx := { ck0 with plan := some plM, mani := some (mw r none) }
def rr : RankReport := { node := 1, digest := 2, len := 3, store := 4, buddy := none }
def bud (a b : Option BuddySlot) (s : State) : State := { s with ckp := { s.ckp with enable := true, gib := 2, src := 9, slotA := a, slotB := b } }
def sl (w : Bool) (p : Tbl (List Byte)) : BuddySlot := { name := [1], len := 2, pieces := p, acked := [], whole := w, txn := 8 }
def rF : List (Nat × Nat) := [(24, 0x30000001), (28, 0x30000002), (40, 64), (48, 20)]
def dR : Desc := descOf 3 0xA3 rF .running
def mani (d l : Nat) : List Byte := List.replicate 256 0 ++ (leBytes 48 d ++ leBytes 8 l ++ List.replicate 8 0)
def rs (m : List Byte) (g : List (List Byte)) : Restore := { desc := (3, 7), plan := pln, step := 20, inc := 0, store := 0x2A420, dest := (2, 64), fell := false, stat := none, mani := m, got := g, fromStore := 0, refetch := [], useBuddy := false, head := [] }
def rsS (r : Restore) : State := cs { ck0 with restore := some r } (withD dR work)
def sg (p : Tbl (List Byte)) : Xfer := { x0 .storeGet with pieces := p }
def okB : List Byte := [] ++ leBytes 4 (crc32c []).toNat ++ leBytes 12 0
theorem put_ok (s : State) (x : Xfer) (n : Nat) (p : CkpPlan) (r : CkpRun) (h : x.kind = .shardPut) (h1 : (ckpOf s x.ctx).plan = some p) (h2 : (ckpOf s x.ctx).run = some r) (h3 : chunkBad s p r n = false) : putChunk s x n = some (n * storedChunk, chunkStored s p r n) := by simp [putChunk, h, h1, h2, h3]
theorem len_le (n v : Nat) : (leBytes n v).length = n := by
  induction n generalizing v with
  | zero => rfl
  | succ n ih => simp [leBytes, ih]
theorem bin_mani (d l : Nat) : bin (maniEntry (mani d l) 0) 0 48 = d % 2 ^ 384 := by
  have h0 : bin (mani d l) 96 8 = 0 := by
    simp only [bin, mani]
    rw [List.drop_append_of_le_length (by simp), List.take_append_of_le_length (by simp), List.drop_replicate, List.take_replicate]
    rfl
  have h1 : (maniEntry (mani d l) 0).take 48 = leBytes 48 d := by
    simp only [maniEntry, h0]
    rw [show 256 + roundUp 0 64 + 64 * 0 = 256 from rfl]
    simp only [mani]
    rw [List.drop_append_of_le_length (by simp), List.drop_replicate]
    rw [List.take_take]
    simp [List.append_assoc, List.take_append, len_le, List.take_of_length_le]
  simp only [bin, List.drop_zero, h1, ofLe_leBytes']
  exact congrArg (d % ·) (by decide +kernel)
def dg : Nat := (Config.sha384 ([[1, 2]] : List (List Byte)).flatten).toNat

/-- States and operands that meet the hypotheses of CheckpointsTaken, clause by clause. -/
theorem test_witness_CheckpointsTaken :
    (∃ (s : State) (qp : Nat) (sub : Nat) (d : Desc) (c : Nat) (p : CkpPlan), Started s qp sub 0xA0 d ∧ descCtx s d = some c ∧ readPlan s d c = .inr p ∧ (ckpOf s c).run = none ∧ (ckpOf s c).plan = none ∧ 65536 * planGranules p ≤ shareLeft s d.fn) ∧
    (∃ (s : State) (qp : Nat) (sub : Nat) (d : Desc) (c : Nat) (f : Result × Nat), Started s qp sub 0xA0 d ∧ descCtx s d = some c ∧ readPlan s d c = .inl f ∧ confidential s = false) ∧
    (∃ (s : State) (qp : Nat) (sub : Nat) (d : Desc) (c : Nat) (p : CkpPlan), Started s qp sub 0xA0 d ∧ descCtx s d = some c ∧ readPlan s d c = .inr p ∧ (ckpOf s c).run ≠ none) ∧
    (∃ (s : State) (qp : Nat) (sub : Nat) (d : Desc) (c : Nat), Started s qp sub 0xA1 d ∧ descCtx s d = some c ∧ (ckpOf s c).plan ≠ none) ∧
    (∃ (s : State) (qp : Nat) (sub : Nat) (d : Desc) (c : Nat), Started s qp sub 0xA1 d ∧ descCtx s d = some c ∧ (ckpOf s c).plan = none) ∧
    (∃ (s : State) (qp : Nat) (sub : Nat) (d : Desc) (c : Nat), Started s qp sub 0xA2 d ∧ descCtx s d = some c ∧ (ckpOf s c).run = none) ∧
    (∃ (s : State) (qp : Nat) (sub : Nat) (d : Desc) (c : Nat), Started s qp sub 0xA2 d ∧ descCtx s d = some c ∧ (ckpOf s c).run ≠ none) ∧
    (∃ (s : State) (qp : Nat) (sub : Nat) (d : Desc) (c : Nat), Started s qp sub 0xA4 d ∧ descCtx s d = some c ∧ restoreLive s c = none ∧ (ckpOf s c).run = none) ∧
    (∃ (s : State) (c : Nat) (p : CkpPlan) (r : CkpRun), (ckpOf s c).plan = some p ∧ (ckpOf s c).run = some r ∧ r.phase = .snapshot ∧ p.fast = false ∧ (∀ o ∈ s.col.ops, o.id ∈ r.awaited → o.state ≠ .running)) ∧
    (∃ (s : State) (c : Nat) (p : CkpPlan) (r : CkpRun) (o : TrigOp), (ckpOf s c).plan = some p ∧ (ckpOf s c).run = some r ∧ o ∈ s.col.ops ∧ o.id ∈ r.awaited ∧ o.state = .running) ∧
    (∃ (s : State) (txn : Nat) (x : Xfer) (base : Nat) (b : List Byte), tget s.ckp.xfers txn = some x ∧ x.kind = .shardPut ∧ x.opened = true ∧ x.next < x.chunks ∧ chunksOut x < x.window ∧ putChunk s x x.next = some (base, b)) ∧
    (∃ (s : State) (txn : Nat) (x : Xfer), tget s.ckp.xfers txn = some x ∧ x.kind = .shardPut ∧ x.opened = true ∧ x.next < x.chunks ∧ chunksOut x < x.window ∧ putChunk s x x.next = none) ∧
    (∃ (s : State) (txn : Nat) (x : Xfer), tget s.ckp.xfers txn = some x ∧ (x.opened = false ∨ x.chunks ≤ x.next ∨ x.window ≤ chunksOut x)) ∧
    (∃ (s : State) (c : Nat) (k : CkpCtx) (p : CkpPlan) (w : ManiWork) (node : Nat) (rank : Nat) (shape : Nat) (digest : Nat) (len : Nat) (store : Nat) (buddy : Option Nat), s.ckp.ctxs = [(c, k)] ∧ k.plan = some p ∧ k.mani = some w ∧ p.maniNode = nodeId s ∧ w.sent = none ∧ shape = shapeDigest p ∧ rank < p.nNodes ∧ (tput w.reports rank { node := node, digest := digest, len := len, store := store, buddy := buddy }).length < p.nNodes) ∧
    (∃ (s : State) (c : Nat) (k : CkpCtx) (p : CkpPlan) (w : ManiWork) (node : Nat) (rank : Nat) (shape : Nat) (digest : Nat) (len : Nat) (store : Nat) (buddy : Option Nat), s.ckp.ctxs = [(c, k)] ∧ k.plan = some p ∧ k.mani = some w ∧ p.maniNode = nodeId s ∧ w.sent = none ∧ shape = shapeDigest p ∧ rank < p.nNodes ∧ p.nNodes ≤ (tput w.reports rank { node := node, digest := digest, len := len, store := store, buddy := buddy }).length) ∧
    (∃ (s : State) (c : Nat) (k : CkpCtx) (p : CkpPlan) (w : ManiWork) (node : Nat) (rank : Nat) (inc : Nat) (shape : Nat) (result : Nat), s.ckp.ctxs = [(c, k)] ∧ k.plan = some p ∧ k.mani = some w ∧ p.maniNode = nodeId s ∧ w.sent = none ∧ w.reports = [] ∧ node ≠ nodeId s ∧ (result ≠ 0 ∨ inc ≠ p.inc ∨ shape ≠ shapeDigest p ∨ p.nNodes ≤ rank)) ∧
    (∃ (s : State) (c : Nat) (k : CkpCtx) (p : CkpPlan) (r : CkpRun), s.ckp.ctxs = [(c, k)] ∧ k.plan = some p ∧ k.run = some r ∧ r.phase = .manifest ∧ p.doneEvent = none ∧ k.disarm = []) ∧
    (∃ (s : State) (c : Nat) (k : CkpCtx) (p : CkpPlan) (r : CkpRun) (result : Nat), s.ckp.ctxs = [(c, k)] ∧ k.plan = some p ∧ k.run = some r ∧ p.doneEvent = none ∧ k.disarm = [] ∧ result ≠ 0) ∧
    (∃ (s : State) (c : Nat) (w : ManiWork), (ckpOf s c).mani = some w ∧ w.sent = none) ∧
    (∃ (s : State) (c : Nat) (r : CkpRun), (ckpOf s c).run = some r ∧ r.phase ≠ .snapshot) ∧
    (∃ (s : State) (c : Nat) (r : CkpRun), (ckpOf s c).run = some r ∧ r.phase = .snapshot) :=
  ⟨⟨(pS 0x434B5031 (dW 0xA0 pf)), 3, 7, (dW 0xA0 pf), 5, pln, by decide +kernel⟩,
   ⟨(pS 0 (dW 0xA0 pf)), 3, 7, (dW 0xA0 pf), 5, (({ refuse 0x11 24 with value := 0 }, 0)), by decide +kernel⟩,
   ⟨(cs (kR .streaming) (pS 0x434B5031 (dW 0xA0 pf))), 3, 7, (dW 0xA0 pf), 5, pln, by decide +kernel⟩,
   ⟨(cs kP (withD (dW 0xA1 []) work)), 3, 7, (dW 0xA1 []), 5, by decide +kernel⟩,
   ⟨(withD (dW 0xA1 []) work), 3, 7, (dW 0xA1 []), 5, by decide +kernel⟩,
   ⟨(cs kP (withD (dW 0xA2 []) work)), 3, 7, (dW 0xA2 []), 5, by decide +kernel⟩,
   ⟨(cs (kR .manifest) (withD (dW 0xA2 []) work)), 3, 7, (dW 0xA2 []), 5, by decide +kernel⟩,
   ⟨(cs kP (withD (dW 0xA4 []) work)), 3, 7, (dW 0xA4 []), 5, by decide +kernel⟩,
   ⟨(cs (kR .snapshot) work), 5, pln, (run0 .snapshot), by decide +kernel⟩,
   ⟨({ cs (kR .snapshot) work with col := { work.col with ops := [opA] } }), 5, pln, (run0 .snapshot), opA, by decide +kernel⟩,
   ⟨(xs { x0 .shardPut with chunks := 1 } (cs { kP with run := some hd } work)), 6, ({ x0 .shardPut with chunks := 1 }), (0 * storedChunk), (chunkStored (xs { x0 .shardPut with chunks := 1 } (cs { kP with run := some hd } work)) pln hd 0), by first | decide +kernel | (exact put_ok _ _ _ pln hd rfl rfl rfl (by decide +kernel)) | rfl | simp, by first | decide +kernel | (exact put_ok _ _ _ pln hd rfl rfl rfl (by decide +kernel)) | rfl | simp, by first | decide +kernel | (exact put_ok _ _ _ pln hd rfl rfl rfl (by decide +kernel)) | rfl | simp, by first | decide +kernel | (exact put_ok _ _ _ pln hd rfl rfl rfl (by decide +kernel)) | rfl | simp, by first | decide +kernel | (exact put_ok _ _ _ pln hd rfl rfl rfl (by decide +kernel)) | rfl | simp, by first | decide +kernel | (exact put_ok _ _ _ pln hd rfl rfl rfl (by decide +kernel)) | rfl | simp⟩,
   ⟨(psn (xs { x0 .shardPut with chunks := 1 } (cs { kP with run := some hd } work))), 6, ({ x0 .shardPut with chunks := 1 }), by decide +kernel⟩,
   ⟨(xs { x0 .shardPut with opened := false } work), 6, ({ x0 .shardPut with opened := false }), by decide +kernel⟩,
   ⟨(cs (kM []) work), 5, (kM []), plM, (mw [] none), 4, 1, (shapeDigest plM), 9, 10, 11, none, by first | decide +kernel | rfl | (dsimp only; decide +kernel) | simp, by first | decide +kernel | rfl | (dsimp only; decide +kernel) | simp, by first | decide +kernel | rfl | (dsimp only; decide +kernel) | simp, by first | decide +kernel | rfl | (dsimp only; decide +kernel) | simp, by first | decide +kernel | rfl | (dsimp only; decide +kernel) | simp, by first | decide +kernel | rfl | (dsimp only; decide +kernel) | simp, by first | decide +kernel | rfl | (dsimp only; decide +kernel) | simp, by first | decide +kernel | rfl | (dsimp only; decide +kernel) | simp⟩,
   ⟨(cs (kM [(0, rr)]) work), 5, (kM [(0, rr)]), plM, (mw [(0, rr)] none), 4, 1, (shapeDigest plM), 9, 10, 11, none, by first | decide +kernel | rfl | (dsimp only; decide +kernel) | simp, by first | decide +kernel | rfl | (dsimp only; decide +kernel) | simp, by first | decide +kernel | rfl | (dsimp only; decide +kernel) | simp, by first | decide +kernel | rfl | (dsimp only; decide +kernel) | simp, by first | decide +kernel | rfl | (dsimp only; decide +kernel) | simp, by first | decide +kernel | rfl | (dsimp only; decide +kernel) | simp, by first | decide +kernel | rfl | (dsimp only; decide +kernel) | simp, by first | decide +kernel | rfl | (dsimp only; decide +kernel) | simp⟩,
   ⟨(cs (kM []) work), 5, (kM []), plM, (mw [] none), 4, 1, 0, (2 ^ 384), 4, by decide +kernel⟩,
   ⟨(cs (kR .manifest) work), 5, (kR .manifest), pln, (run0 .manifest), by decide +kernel⟩,
   ⟨(cs (kR .snapshot) work), 5, (kR .snapshot), pln, (run0 .snapshot), 4, by decide +kernel⟩,
   ⟨(cs (kM []) work), 5, (mw [] none), by decide +kernel⟩,
   ⟨(cs (kR .manifest) work), 5, (run0 .manifest), by decide +kernel⟩,
   ⟨(cs (kR .snapshot) work), 5, (run0 .snapshot), by decide +kernel⟩⟩

/-- States and operands that meet the hypotheses of CheckpointTransfers, clause by clause. -/
theorem test_witness_CheckpointTransfers :
    let xf := fun (t : State) (n : Nat) => tget t.ckp.xfers n
    (∃ (s : State) (txn : Nat), xf s txn = none) ∧
    (∃ (s : State) (txn : Nat) (w : Nat) (x : Xfer), xf s txn = some x ∧ x.kind = .shardPut ∧ x.opened = false ∧ 1 ≤ w ∧ w ≤ 255) ∧
    (∃ (s : State) (txn : Nat) (w : Nat) (x : Xfer), xf s txn = some x ∧ x.kind = .shardPut ∧ x.opened = true ∧ x.closing = false ∧ x.next < x.chunks ∧ 1 ≤ w ∧ w ≤ 255) ∧
    (∃ (s : State) (txn : Nat) (status : Nat) (x : Xfer), xf s txn = some x ∧ x.kind = .shardPut ∧ status ≠ 0) ∧
    (∃ (s : State) (x : Xfer) (r : CkpRun), x.kind = .buddyPut ∧ (ckpOf s x.ctx).run = some r) ∧
    (∃ (s : State) (txn : Nat) (x : Xfer) (n : Nat), xf s txn = some x ∧ x.kind = .shardPut ∧ tget x.unacked reqKey = some n ∧ 2 ≤ n) ∧
    (∃ (s : State) (txn : Nat) (x : Xfer) (c : Nat) (n : Nat) (base : Nat) (b : List Byte), xf s txn = some x ∧ x.kind = .shardPut ∧ tget x.unacked c = some n ∧ n < 2 ∧ putChunk s x c = some (base, b)) ∧
    (∃ (s : State) (txn : Nat), xf s txn = none) ∧
    (∃ (s : State) (txn : Nat) (x : Xfer) (r : CkpRun), xf s txn = some x ∧ x.kind = .shardPut ∧ x.closing = true ∧ (ckpOf s x.ctx).run = some r ∧ (∀ p, (ckpOf s x.ctx).plan = some p → p.maniNode ≠ nodeId s)) ∧
    (∃ (s : State) (txn : Nat) (x : Xfer) (r : CkpRun), xf s txn = some x ∧ x.kind = .buddyPut ∧ x.closing = true ∧ (ckpOf s x.ctx).run = some r) ∧
    (∃ (s : State) (txn : Nat) (x : Xfer), xf s txn = some x ∧ x.closing = false) ∧
    (∃ (s : State) (node : Nat), buddyServes s node = false) ∧
    (∃ (s : State) (node : Nat) (name : List Byte) (len : Nat), buddyServes s node = true ∧ bin name 20 1 = 2 ∧ s.ckp.slotA = none ∧ s.ckp.slotB = none ∧ len ≤ s.ckp.gib / 2 * 2 ^ 30) ∧
    (∃ (s : State) (node : Nat) (name : List Byte) (len : Nat) (x : BuddySlot), buddyServes s node = true ∧ bin name 20 1 = 2 ∧ s.ckp.slotA = some x ∧ x.whole = true ∧ x.name ≠ name ∧ s.ckp.slotB = none ∧ s.ckp.lastB = false ∧ len ≤ s.ckp.gib / 2 * 2 ^ 30) ∧
    (∃ (s : State) (txn : Nat) (x : Xfer), xf s txn = some x ∧ x.kind = .storeGet) ∧
    (∃ (s : State) (txn : Nat), xf s txn = none ∧ (slotOfTxn s txn).isSome = true) ∧
    (∃ (s : State) (txn : Nat), xf s txn = none ∧ slotOfTxn s txn = none) ∧
    (∃ (s : State) (node : Nat) (txn : Nat) (digest : Nat) (x : BuddySlot) (bytes : List Byte), slotOfTxn s txn = some (false, x) ∧ buddyServes s node = true ∧ piecesSpan x.pieces 0 x.len = some bytes ∧ (Config.sha384 bytes).toNat = digest) ∧
    (∃ (s : State) (node : Nat) (txn : Nat) (digest : Nat) (b : Bool) (x : BuddySlot) (bytes : List Byte), slotOfTxn s txn = some (b, x) ∧ buddyServes s node = true ∧ piecesSpan x.pieces 0 x.len = some bytes ∧ (Config.sha384 bytes).toNat ≠ digest) ∧
    (∃ (s : State) (node : Nat), buddyServes s node = false) ∧
    (∃ (s : State) (node : Nat) (name : List Byte), buddyServes s node = true ∧ (∀ e ∈ slotsOf s, e.2.whole = false ∨ e.2.name ≠ name)) ∧
    (∃ (s : State) (node : Nat) (first : Nat) (x : BuddySlot) (b : List Byte), buddyServes s node = true ∧ s.ckp.slotA = some x ∧ x.whole = true ∧ first < chunkCount x.len storedChunk ∧ piecesSpan x.pieces (first * storedChunk) (min (first * storedChunk + storedChunk) x.len) = some b) ∧
    (∃ (s : State) (qp : Nat) (sub : Nat) (d : Desc) (c : Nat) (p : CkpPlan) (x : Ctx), Started s qp sub 0xA3 d ∧ descCtx s d = some c ∧ readPlan s d c = .inr p ∧ needH s d Hk.mem 28 = none ∧ dfld d 40 8 % 64 = 0 ∧ needWritable s (dfld d 28 4) (dfld d 40 8) (64 * planStreams p) 40 = none ∧ tget s.ctxs c = some x ∧ x.state = .live ∧ s.tsk.launches = [] ∧ s.tsk.gens = [] ∧ tget s.runners c = none ∧ (ckpOf s c).run = none ∧ (ckpOf s c).restore = none) ∧
    (∃ (s : State) (qp : Nat) (sub : Nat) (d : Desc) (c : Nat) (p : CkpPlan), Started s qp sub 0xA3 d ∧ descCtx s d = some c ∧ readPlan s d c = .inr p ∧ needH s d Hk.mem 28 = none ∧ dfld d 40 8 % 64 = 0 ∧ needWritable s (dfld d 28 4) (dfld d 40 8) (64 * planStreams p) 40 = none ∧ (ckpOf s c).run ≠ none) ∧
    (∃ (s : State) (txn : Nat) (status : Nat) (valid : Bool) (x : Xfer), xf s txn = some x ∧ x.kind = .stat ∧ (status ≠ 0 ∨ valid = false)) ∧
    (∃ (s : State) (txn : Nat) (x : Xfer), xf s txn = some x ∧ x.kind = .stat) ∧
    (∃ (s : State) (c : Nat) (r : Restore) (d : Desc), restoreLive s c = some (r, d) ∧ r.fell = false ∧ confidential s = false) ∧
    (∃ (s : State) (c : Nat) (r : Restore) (d : Desc) (b : List Byte) (buddy : Bool) (plain : List Byte), restoreLive s c = some (r, d) ∧ r.mani ≠ [] ∧ r.got.length < rstChunks r ∧ r.got ≠ [] ∧ chunkAt s c r r.got.length = some (b, buddy) ∧ openChunk (planKey s r.plan) r r.got.length b = some plain) ∧
    (∃ (s : State) (c : Nat) (r : Restore) (d : Desc) (b : List Byte) (buddy : Bool), restoreLive s c = some (r, d) ∧ r.mani ≠ [] ∧ r.got.length < rstChunks r ∧ chunkAt s c r r.got.length = some (b, buddy) ∧ openChunk (planKey s r.plan) r r.got.length b = none) ∧
    (∃ (s : State) (c : Nat) (r : Restore) (d : Desc), restoreLive s c = some (r, d) ∧ (r.mani = [] ∨ rstChunks r ≤ r.got.length)) ∧
    (∃ (s : State) (c : Nat) (r : Restore) (d : Desc) (x : Ctx), restoreLive s c = some (r, d) ∧ r.mani ≠ [] ∧ r.got.length = rstChunks r ∧ r.fell = false ∧ tget s.ctxs c = some x ∧ (Config.sha384 r.got.flatten).toNat = bin (maniEntry r.mani r.plan.rank) 0 48) ∧
    (∃ (s : State) (c : Nat) (r : Restore) (d : Desc), restoreLive s c = some (r, d) ∧ r.mani ≠ [] ∧ r.got.length = rstChunks r ∧ (Config.sha384 r.got.flatten).toNat ≠ bin (maniEntry r.mani r.plan.rank) 0 48) ∧
    (∃ (s : State) (c : Nat), restoreLive s c = none) :=
  ⟨⟨work, 6, by decide +kernel⟩,
   ⟨(xs { x0 .shardPut with opened := false } work), 6, 255, ({ x0 .shardPut with opened := false }), by decide +kernel⟩,
   ⟨(xs { x0 .shardPut with unacked := [(2, 1)] } work), 6, 255, ({ x0 .shardPut with unacked := [(2, 1)] }), by decide +kernel⟩,
   ⟨(xs (x0 .shardPut) work), 6, 1, (x0 .shardPut), by decide +kernel⟩,
   ⟨(cs (kR .streaming) work), (x0 .buddyPut), (run0 .streaming), by decide +kernel⟩,
   ⟨(xs { x0 .shardPut with unacked := [(reqKey, 2)] } work), 6, ({ x0 .shardPut with unacked := [(reqKey, 2)] }), 2, by decide +kernel⟩,
   ⟨(xs { x0 .shardPut with unacked := [(0, 1)] } (cs { kP with run := some hd } work)), 6, ({ x0 .shardPut with unacked := [(0, 1)] }), 0, 1, (0 * storedChunk), (chunkStored (xs { x0 .shardPut with unacked := [(0, 1)] } (cs { kP with run := some hd } work)) pln hd 0), by first | decide +kernel | (exact put_ok _ _ _ pln hd rfl rfl rfl (by decide +kernel)) | rfl | simp, by first | decide +kernel | (exact put_ok _ _ _ pln hd rfl rfl rfl (by decide +kernel)) | rfl | simp, by first | decide +kernel | (exact put_ok _ _ _ pln hd rfl rfl rfl (by decide +kernel)) | rfl | simp, by first | decide +kernel | (exact put_ok _ _ _ pln hd rfl rfl rfl (by decide +kernel)) | rfl | simp, by first | decide +kernel | (exact put_ok _ _ _ pln hd rfl rfl rfl (by decide +kernel)) | rfl | simp⟩,
   ⟨work, 6, by decide +kernel⟩,
   ⟨(xs { x0 .shardPut with closing := true } (cs (kR .streaming) work)), 6, ({ x0 .shardPut with closing := true }), (run0 .streaming), by first | decide +kernel | ((intro p h; cases h; decide +kernel)) | rfl | simp, by first | decide +kernel | ((intro p h; cases h; decide +kernel)) | rfl | simp, by first | decide +kernel | ((intro p h; cases h; decide +kernel)) | rfl | simp, by first | decide +kernel | ((intro p h; cases h; decide +kernel)) | rfl | simp, by first | decide +kernel | ((intro p h; cases h; decide +kernel)) | rfl | simp⟩,
   ⟨(xs { x0 .buddyPut with closing := true } (cs (kR .streaming) work)), 6, ({ x0 .buddyPut with closing := true }), (run0 .streaming), by decide +kernel⟩,
   ⟨(xs (x0 .shardPut) work), 6, (x0 .shardPut), by decide +kernel⟩,
   ⟨work, 9, by decide +kernel⟩,
   ⟨(bud none none work), 9, (bytesOf 64 [(20, 2)]), (2 ^ 30), by decide +kernel⟩,
   ⟨(bud (some (sl true [])) none work), 9, (bytesOf 64 [(20, 2)]), (2 ^ 30), (sl true []), by decide +kernel⟩,
   ⟨(xs (x0 .storeGet) work), 6, (x0 .storeGet), by decide +kernel⟩,
   ⟨(bud (some (sl false [])) none work), 8, by decide +kernel⟩,
   ⟨work, 8, by decide +kernel⟩,
   ⟨(bud (some (sl false [(0, [1, 2])])) none work), 9, 8, ((Config.sha384 [1, 2]).toNat), (sl false [(0, [1, 2])]), ([1, 2]), by first | decide +kernel | rfl | (dsimp only; decide +kernel) | simp, by first | decide +kernel | rfl | (dsimp only; decide +kernel) | simp, by first | decide +kernel | rfl | (dsimp only; decide +kernel) | simp, by first | decide +kernel | rfl | (dsimp only; decide +kernel) | simp⟩,
   ⟨(bud (some (sl false [(0, [1, 2])])) none work), 9, 8, (2 ^ 384), false, (sl false [(0, [1, 2])]), ([1, 2]), by first | decide +kernel | (exact Nat.ne_of_lt (Config.sha384 [1, 2]).isLt) | rfl | simp, by first | decide +kernel | (exact Nat.ne_of_lt (Config.sha384 [1, 2]).isLt) | rfl | simp, by first | decide +kernel | (exact Nat.ne_of_lt (Config.sha384 [1, 2]).isLt) | rfl | simp, by first | decide +kernel | (exact Nat.ne_of_lt (Config.sha384 [1, 2]).isLt) | rfl | simp⟩,
   ⟨work, 9, by decide +kernel⟩,
   ⟨(bud none none work), 9, ([]), by decide +kernel⟩,
   ⟨(bud (some (sl true [(0, [1, 2])])) none work), 9, 0, (sl true [(0, [1, 2])]), ([1, 2]), by decide +kernel⟩,
   ⟨(pS 0x434B5031 (dW 0xA3 rF)), 3, 7, (dW 0xA3 rF), 5, pln, ctxA, by decide +kernel⟩,
   ⟨(cs (kR .streaming) (pS 0x434B5031 (dW 0xA3 rF))), 3, 7, (dW 0xA3 rF), 5, pln, by decide +kernel⟩,
   ⟨(xs (x0 .stat) work), 6, 2, true, (x0 .stat), by decide +kernel⟩,
   ⟨(xs (x0 .stat) work), 6, (x0 .stat), by decide +kernel⟩,
   ⟨(rsS (rs [] [])), 5, (rs [] []), dR, by decide +kernel⟩,
   ⟨(xs (sg [(1048592, okB)]) (rsS (rs (mani 0 1048608) [[]]))), 5, (rs (mani 0 1048608) [[]]), dR, okB, false, ([]), by decide +kernel⟩,
   ⟨(xs (sg [(0, [1])]) (rsS (rs (mani 0 1) []))), 5, (rs (mani 0 1) []), dR, ([1]), false, by decide +kernel⟩,
   ⟨(rsS (rs [] [])), 5, (rs [] []), dR, by decide +kernel⟩,
   ⟨(rsS (rs (mani dg 2) [[1, 2]])), 5, (rs (mani dg 2) [[1, 2]]), dR, ctxA, by first | decide +kernel | (first | rfl | exact (bin_mani dg 2).symm ▸ (Nat.mod_eq_of_lt (Config.sha384 _).isLt).symm) | rfl | simp, by first | decide +kernel | (first | rfl | exact (bin_mani dg 2).symm ▸ (Nat.mod_eq_of_lt (Config.sha384 _).isLt).symm) | rfl | simp, by first | decide +kernel | (first | rfl | exact (bin_mani dg 2).symm ▸ (Nat.mod_eq_of_lt (Config.sha384 _).isLt).symm) | rfl | simp, by first | decide +kernel | (first | rfl | exact (bin_mani dg 2).symm ▸ (Nat.mod_eq_of_lt (Config.sha384 _).isLt).symm) | rfl | simp, by first | decide +kernel | (first | rfl | exact (bin_mani dg 2).symm ▸ (Nat.mod_eq_of_lt (Config.sha384 _).isLt).symm) | rfl | simp, by first | decide +kernel | (first | rfl | exact (bin_mani dg 2).symm ▸ (Nat.mod_eq_of_lt (Config.sha384 _).isLt).symm) | rfl | simp⟩,
   ⟨(rsS (rs (mani (dg + 1) 2) [[1, 2]])), 5, (rs (mani (dg + 1) 2) [[1, 2]]), dR, by first | decide +kernel | (first | rfl | exact (bin_mani (dg + 1) 2).symm ▸ (by have h := (Config.sha384 ([[1, 2]] : List (List Byte)).flatten).isLt; show dg ≠ _; change dg < _ at h; omega)) | rfl | simp, by first | decide +kernel | (first | rfl | exact (bin_mani (dg + 1) 2).symm ▸ (by have h := (Config.sha384 ([[1, 2]] : List (List Byte)).flatten).isLt; show dg ≠ _; change dg < _ at h; omega)) | rfl | simp, by first | decide +kernel | (first | rfl | exact (bin_mani (dg + 1) 2).symm ▸ (by have h := (Config.sha384 ([[1, 2]] : List (List Byte)).flatten).isLt; show dg ≠ _; change dg < _ at h; omega)) | rfl | simp, by first | decide +kernel | (first | rfl | exact (bin_mani (dg + 1) 2).symm ▸ (by have h := (Config.sha384 ([[1, 2]] : List (List Byte)).flatten).isLt; show dg ≠ _; change dg < _ at h; omega)) | rfl | simp⟩,
   ⟨work, 5, by decide +kernel⟩⟩

end W16

namespace W17

def svN (op : Nat) (fs : List (Nat × Nat)) : State := withD (dN op fs) work
def svC (op : Nat) (fs : List (Nat × Nat)) : State := withD (dS op fs) work
def sec (f : SecState → SecState) (s : State) : State := { s with sec := f s.sec }
def conf (s : State) : State := sec (fun k => { k with session := .open_ }) s
def opn (op : Nat) (fs : List (Nat × Nat)) : State :=
  { svN op fs with ctxs := [], hif := { up.hif with tdi := .run }, lcs := { up.lcs with position := 3 } }
def cfgB (m : Nat) : List Byte := bytesOf 320 [(0, m), (4, 1), (6, 1)]
def o60 : List (Nat × Nat) := [(32, 320)]
def cfg0 : SessConfig := { sessionId := 5, seed := 6, allowPlain := false, owner := 7, contribs := [], rules := [{ node := 0x2A418, kind := 1, mask := 0xFFFFFF, digest := (Config.sha384 []).toNat }], digest := 9, contribDigest := 4 }
def d60 : Desc := descOf 0 0x60 o60 .running
def opening : State := { withD d60 work with sec := { SecState.init with session := .opening, sessDesc := some (0, 7), config := some cfg0 }, ime := { ImeState.init with layout := .switching } }
def rep : List (Nat × Nat) := [(24, 0x30000001), (32, 64)]
def k65 (ids : List Nat) (s : State) : State := { s with ime := { s.ime with keys := ids.map fun i => (i, { k1 := 1, k2 := 2, km := 3 }) } }
def keyA : KeySlot := { ctx := 5, kind := 2, key := 9, contrib := 0, aborting := false }
def wm : List (Nat × Nat) := [(24, 0x30000001), (32, 64), (40, 100), (28, 0x30000002), (48, 0)]
def lg : List (Nat × Nat) := [(24, 0x30000001), (32, 64), (40, 120)]
def pt (f : Port → Port) : State := { up with sec := { SecState.init with session := .open_, config := some cfg0 }, lnk := { up.lnk with ports := [(3, f { portOf up 3 with state := .secureWait, peer := some { node := 0x2A418, port := 4, serial := 5, role := 2, conf := true, digest := 0 } })] } }
def off1 : State := pt fun x => { x with hs := .offered }
def off0 : State := pt fun x => { x with hs := .offered, peer := none }
def prf (a b : List Byte) : State := pt fun x => { x with hs := .proving, hsProofs := (a, b) }
def fin : State := pt fun x => { x with hs := .finishing }
def offB : List Byte := leBytes 48 (Config.sha384 (leBytes 32 5)).toNat ++ List.replicate 193 0

/-- States and operands that meet the hypotheses of ConfidentialSessions, clause by clause. -/
theorem test_witness_ConfidentialSessions :
    let config := fun (d : Desc) (b : List Byte) => padTo (dfld d 32 4) 0 b
    (∃ (s : State) (qp : Nat) (sub : Nat) (d : Desc) (b : List Byte), Started s qp sub 0x60 d ∧ mayOpen s true = true ∧ 320 ≤ dfld d 32 4 ∧ dfld d 32 4 ≤ 295168 ∧ configFail (config d b) (dfld d 32 4) = none ∧ s.sec.pk.length ≤ 1026) ∧
    (∃ (s : State) (qp : Nat) (sub : Nat) (d : Desc) (b : List Byte) (o : Nat), Started s qp sub 0x60 d ∧ mayOpen s true = true ∧ 320 ≤ dfld d 32 4 ∧ dfld d 32 4 ≤ 295168 ∧ configFail (config d b) (dfld d 32 4) = some o) ∧
    (∃ (s : State) (qp : Nat) (sub : Nat) (d : Desc) (bound : Bool), Started s qp sub 0x60 d ∧ mayOpen s bound = false) ∧
    (∃ (s : State) (q : Nat) (u : Nat) (d : Desc), s.sec.pk = [.desc q u []] ∧ findDesc s q u = some d ∧ d.phase = .running ∧ dOp d = 0x60 ∧ s.sec.session = .opening) ∧
    (∃ (s : State) (q : Nat) (u : Nat) (d : Desc) (c : SessConfig), s.sec.session = .opening ∧ s.ime.layout = .switching ∧ s.sec.sessDesc = some (q, u) ∧ s.sec.config = some c ∧ findDesc s q u = some d) ∧
    (∃ (s : State), s.sec.session ≠ .opening) ∧
    (∃ (s : State) (qp : Nat) (sub : Nat) (d : Desc), Started s qp sub 0x61 d ∧ s.sec.session ≠ .open_) ∧
    (∃ (s : State) (qp : Nat) (sub : Nat) (d : Desc), Started s qp sub 0x61 d ∧ s.sec.session = .open_ ∧ s.ctxs = [] ∧ s.ckp.ctxs = [] ∧ Quiet s) ∧
    (∃ (s : State) (qp : Nat) (sub : Nat), (qp, sub) ∈ s.sec.refusals ∧ (findDesc s qp sub).isSome = true) ∧
    (∃ (s : State) (qp : Nat) (sub : Nat), (qp, sub) ∉ s.sec.refusals) ∧
    (∃ (s : State), confidential s = true) ∧
    (∃ (s : State) (qp : Nat) (sub : Nat) (d : Desc), Started s qp sub 0x62 d ∧ needH s d Hk.mem 24 = none ∧ dfld d 32 8 % 64 = 0 ∧ needWritable s (dfld d 24 4) (dfld d 32 8) 576 32 = none ∧ poisonedIn s (hSlot (dfld d 24 4)) (dfld d 32 8) 32 = false ∧ s.sec.pk.length < 1028) ∧
    (∃ (s : State) (d : Desc), findDesc s d.qp d.sub = some d ∧ stillWritable s (hSlot (dfld d 24 4)) (dfld d 32 8) 576 = true) ∧
    (∃ (s : State) (qp : Nat) (sub : Nat) (d : Desc) (c : Nat) (n : Nat), Started s qp sub 0x63 d ∧ descCtx s d = some c ∧ needH s d Hk.mem 24 = none ∧ dfld d 40 1 = 0 ∧ needRange s (dfld d 24 4) (dfld d 32 8) 32 32 = none ∧ confidential s = false ∧ poisonedIn s (hSlot (dfld d 24 4)) (dfld d 32 8) 32 = false ∧ quotaFail s d.fn Hk.key = none ∧ slotChoose s.cmd.keySlots (kindSlots Hk.key) = some n) ∧
    (∃ (s : State) (qp : Nat) (sub : Nat) (d : Desc) (c : Nat), Started s qp sub 0x63 d ∧ descCtx s d = some c ∧ needH s d Hk.mem 24 = none ∧ dfld d 40 1 = 0 ∧ needRange s (dfld d 24 4) (dfld d 32 8) 32 32 = none ∧ confidential s = true) ∧
    (∃ (s : State) (qp : Nat) (sub : Nat) (d : Desc) (x : KeySlot), Started s qp sub 0x64 d ∧ needH s d Hk.key 24 = none ∧ tget s.sec.keys (hSlot (dfld d 24 4)) = some x ∧ s.ckp.ctxs = []) ∧
    (∃ (s : State) (qp : Nat) (sub : Nat) (d : Desc) (n : Nat), Started s qp sub 0x65 d ∧ confidential s = true ∧ s.sec.entropyOk = true ∧ 2 ≤ n ∧ n < 256 ∧ tget s.ime.keys n = none ∧ (∀ k, 2 ≤ k → k < n → (tget s.ime.keys k).isSome = true)) ∧
    (∃ (s : State) (qp : Nat) (sub : Nat) (d : Desc), Started s qp sub 0x65 d ∧ confidential s = false) ∧
    (∃ (s : State) (qp : Nat) (sub : Nat) (d : Desc) (k : Nat), Started s qp sub 0x66 d ∧ dfld d 24 1 = k ∧ 2 ≤ k ∧ confidential s = true ∧ (tget s.ime.keys k).isSome = true) ∧
    (∃ (s : State) (qp : Nat) (sub : Nat) (d : Desc) (k : Nat), Started s qp sub 0x66 d ∧ dfld d 24 1 = k ∧ k ≤ 1) ∧
    (∃ (s : State) (qp : Nat) (sub : Nat) (d : Desc), Started s qp sub 0x67 d ∧ needH s d Hk.mem 24 = none ∧ needH s d Hk.mem 28 = none ∧ needRange s (dfld d 24 4) (dfld d 32 8) (dfld d 40 8) 32 = none ∧ needWritable s (dfld d 28 4) (dfld d 48 8) 48 48 = none ∧ poisonedIn s (hSlot (dfld d 24 4)) (dfld d 32 8) (dfld d 40 8) = false) ∧
    (∃ (s : State) (qp : Nat) (sub : Nat) (d : Desc), Started s qp sub 0x68 d ∧ needH s d Hk.mem 24 = none ∧ needWritable s (dfld d 24 4) (dfld d 32 8) (dfld d 40 8) 32 = none ∧ 120 ≤ dfld d 40 8 ∧ confidential s = true ∧ s.sec.entropyOk = true ∧ s.sec.pk.length < 1028) ∧
    (∃ (s : State) (p : Nat) (switch : Bool) (b : List Byte), portLegal p = true ∧ confidential s = true ∧ (portOf s p).state = .secureWait ∧ (portOf s p).hs = .offered ∧ offerOk s (portOf s p) switch b = true ∧ s.sec.pk.length < 1028) ∧
    (∃ (s : State) (p : Nat) (switch : Bool) (b : List Byte), portLegal p = true ∧ confidential s = true ∧ (portOf s p).state = .secureWait ∧ (portOf s p).hs = .offered ∧ offerOk s (portOf s p) switch b = false) ∧
    (∃ (s : State) (p : Nat), portLegal p = true ∧ (portOf s p).hs = .proving ∧ (portOf s p).hsProofs = ([], [])) ∧
    (∃ (s : State) (p : Nat) (own : List Byte), portLegal p = true ∧ (portOf s p).hs = .proving ∧ (portOf s p).hsProofs = (own, []) ∧ own ≠ [] ∧ s.sec.pk.length < 1028) ∧
    (∃ (s : State) (p : Nat) (mac : List Byte), portLegal p = true ∧ (portOf s p).hs = .finishing ∧ mac ≠ finishMac s (portOf s p) p) ∧
    (∃ (s : State) (p : Nat), portLegal p = true ∧ (portOf s p).hs = .finishing) ∧
    (∃ (s : State) (p : Nat), portLegal p = true ∧ (portOf s p).hs = .proving) ∧
    (∃ (s : State) (p : Nat), portLegal p = true ∧ (portOf s p).hs ≠ .idle) ∧
    (∃ (s : State) (p : Nat), portLegal p = true ∧ (portOf s p).hs = .rejected) ∧
    (∃ (s : State) (p : Nat), (portOf s p).hs ≠ .rejected) ∧
    (∃ (s : State), s.sec.pk = []) ∧
    (∃ (s : State) (p : Nat) (l : List PkUse), s.sec.pk = .port p :: l) :=
  ⟨⟨(opn 0x60 o60), 0, 7, (dN 0x60 o60), (cfgB 0x53455331), by decide +kernel⟩,
   ⟨(opn 0x60 o60), 0, 7, (dN 0x60 o60), (cfgB 7), 0, by decide +kernel⟩,
   ⟨(svN 0x60 o60), 0, 7, (dN 0x60 o60), true, by decide +kernel⟩,
   ⟨(sec (fun k => { k with pk := [.desc 0 7 []] }) opening), 0, 7, d60, by decide +kernel⟩,
   ⟨opening, 0, 7, d60, cfg0, by first | decide +kernel | rfl | (dsimp only; decide +kernel) | simp, by first | decide +kernel | rfl | (dsimp only; decide +kernel) | simp, by first | decide +kernel | rfl | (dsimp only; decide +kernel) | simp, by first | decide +kernel | rfl | (dsimp only; decide +kernel) | simp, by first | decide +kernel | rfl | (dsimp only; decide +kernel) | simp⟩,
   ⟨work, by decide +kernel⟩,
   ⟨(svN 0x61 []), 0, 7, (dN 0x61 []), by decide +kernel⟩,
   ⟨(conf { svN 0x61 [] with ctxs := [] }), 0, 7, (dN 0x61 []), by decide +kernel⟩,
   ⟨(sec (fun k => { k with refusals := [(0, 6), (0, 7)] }) (withD (descOf 0 0x60 [] .running) work)), 0, 7, by decide +kernel⟩,
   ⟨work, 0, 7, by decide +kernel⟩,
   ⟨(conf work), by decide +kernel⟩,
   ⟨(svC 0x62 rep), 0, 7, (dS 0x62 rep), by decide +kernel⟩,
   ⟨(svC 0x62 rep), (dS 0x62 rep), by decide +kernel⟩,
   ⟨(svC 0x63 rep), 0, 7, (dS 0x63 rep), 5, 0, by decide +kernel⟩,
   ⟨(conf (svC 0x63 rep)), 0, 7, (dS 0x63 rep), 5, by decide +kernel⟩,
   ⟨(sec (fun k => { k with keys := [(4, keyA)] }) (svC 0x64 [(24, 0x50000004)])), 0, 7, (dS 0x64 [(24, 0x50000004)]), keyA, by decide +kernel⟩,
   ⟨(conf (k65 [1, 2] (svN 0x65 []))), 0, 7, (dN 0x65 []), 3, by first | decide +kernel | ((intro k h1 h2; obtain rfl : k = 2 := (by omega); rfl)) | rfl | simp, by first | decide +kernel | ((intro k h1 h2; obtain rfl : k = 2 := (by omega); rfl)) | rfl | simp, by first | decide +kernel | ((intro k h1 h2; obtain rfl : k = 2 := (by omega); rfl)) | rfl | simp, by first | decide +kernel | ((intro k h1 h2; obtain rfl : k = 2 := (by omega); rfl)) | rfl | simp, by first | decide +kernel | ((intro k h1 h2; obtain rfl : k = 2 := (by omega); rfl)) | rfl | simp, by first | decide +kernel | ((intro k h1 h2; obtain rfl : k = 2 := (by omega); rfl)) | rfl | simp, by first | decide +kernel | ((intro k h1 h2; obtain rfl : k = 2 := (by omega); rfl)) | rfl | simp⟩,
   ⟨(svN 0x65 []), 0, 7, (dN 0x65 []), by decide +kernel⟩,
   ⟨(conf (k65 [1, 2] (svN 0x66 [(24, 2)]))), 0, 7, (dN 0x66 [(24, 2)]), 2, by decide +kernel⟩,
   ⟨(svN 0x66 [(24, 1)]), 0, 7, (dN 0x66 [(24, 1)]), 1, by decide +kernel⟩,
   ⟨(svC 0x67 wm), 0, 7, (dS 0x67 wm), by decide +kernel⟩,
   ⟨(conf (svC 0x68 lg)), 0, 7, (dS 0x68 lg), by decide +kernel⟩,
   ⟨off1, 3, true, offB, by first | decide +kernel | (simp [offerOk, off1, pt, portOf, tgetD, tget, sessionRule, cfg0, offB, offerHead, sessionIdOf, leBytes]) | rfl | simp, by first | decide +kernel | (simp [offerOk, off1, pt, portOf, tgetD, tget, sessionRule, cfg0, offB, offerHead, sessionIdOf, leBytes]) | rfl | simp, by first | decide +kernel | (simp [offerOk, off1, pt, portOf, tgetD, tget, sessionRule, cfg0, offB, offerHead, sessionIdOf, leBytes]) | rfl | simp, by first | decide +kernel | (simp [offerOk, off1, pt, portOf, tgetD, tget, sessionRule, cfg0, offB, offerHead, sessionIdOf, leBytes]) | rfl | simp, by first | decide +kernel | (simp [offerOk, off1, pt, portOf, tgetD, tget, sessionRule, cfg0, offB, offerHead, sessionIdOf, leBytes]) | rfl | simp, by first | decide +kernel | (simp [offerOk, off1, pt, portOf, tgetD, tget, sessionRule, cfg0, offB, offerHead, sessionIdOf, leBytes]) | rfl | simp⟩,
   ⟨off0, 3, true, ([]), by decide +kernel⟩,
   ⟨(prf [] []), 3, by decide +kernel⟩,
   ⟨(prf [4] []), 3, ([4]), by decide +kernel⟩,
   ⟨fin, 3, (finishMac fin (portOf fin 3) 3 ++ [0]), by first | decide +kernel | (exact (fun h => absurd (congrArg List.length h) (by simp))) | rfl | simp, by first | decide +kernel | (exact (fun h => absurd (congrArg List.length h) (by simp))) | rfl | simp, by first | decide +kernel | (exact (fun h => absurd (congrArg List.length h) (by simp))) | rfl | simp⟩,
   ⟨fin, 3, by decide +kernel⟩,
   ⟨(prf [] []), 3, by decide +kernel⟩,
   ⟨fin, 3, by decide +kernel⟩,
   ⟨(pt (fun x => { x with hs := .rejected })), 3, by decide +kernel⟩,
   ⟨fin, 3, by decide +kernel⟩,
   ⟨up, by decide +kernel⟩,
   ⟨(sec (fun k => { k with pk := [.port 3, .port 4] }) up), 3, ([.port 4]), by decide +kernel⟩⟩

end W17

namespace W18

theorem no_poison (s : State) (slot off n : Nat) (m : MemObj) (h : s.poison = []) (hm : tget s.mems slot = some m) (hp : m.mapped = []) : writeHitsPoison s slot off n = false := by
  simp [writeHitsPoison, lineLost, stackOf, thas, h, hm, hp, tget]
def owl (f : OwlState → OwlState) (s : State) : State := { s with owl := f s.owl }
def cp (sl : Nat) (b d : Bool) : CluPlan := { state := 0, slack := sl, below := b, dropped := d, mx := 1700, vc := 2000 }
def oc (p : CluPlan) : State := owl (fun o => { o with clu := [(5, p)] }) up
def rpl : State := owl (fun o => { o with replanning := some 2, clu := [(5, cp 90 false true)] }) up
def off (s : State) : State := { s with clk := { s.clk with partOffline := 1 } }
def pw (f : PwrState → PwrState) : State := { up with pwr := f up.pwr }
def iv0 : Interval := { start := 7, lengthUs := 0, energy := 60000, avg := 0, peak := 0, cap := 0, price := 0, flags := 0, index := 3, sessionTag := 0 }
def ld (f : LedgerState → LedgerState) : State := { up with led := f up.led }
def ldm (f : LedgerState → LedgerState) (s : State) : State := { s with led := f s.led }
def lg (f : LogStore → LogStore) (b : List LogRec) : State := { up with nv := { up.nv with log := f up.nv.log }, log := { up.log with buffer := b } }
def rec0 (c : Bool) : LogRec := { seq := 4, time := 5, typ := 1, critical := c, payload := [1, 2] }
def per0 (t : Nat) : Period := { start := t, valid := true, price := 1, cap := 900 }
def exF : List (Nat × Nat) := [(24, 0x30000001), (32, 64), (40, 2)]
def rdF : List (Nat × Nat) := [(24, 0x30000001), (32, 64), (40, 128)]

/-- States and operands that meet the hypotheses of MarginPlan, clause by clause. -/
theorem test_witness_MarginPlan :
    (∃ (s : State) (c : Nat) (slack : Nat), c < 64 ∧ cluInService s c = true ∧ 70 ≤ slack) ∧
    (∃ (s : State) (c : Nat) (slack : Nat), c < 64 ∧ cluInService s c = true ∧ slack < 70 ∧ (cluPlan s c).below = false) ∧
    (∃ (s : State) (c : Nat) (slack : Nat), c < 64 ∧ cluInService s c = true ∧ slack < 70 ∧ (cluPlan s c).below = true ∧ (cluPlan s c).dropped = false ∧ s.nv.log.state ≠ 2) ∧
    (∃ (s : State) (c : Nat), (cluInService s c = false ∨ 64 ≤ c)) ∧
    (∃ (i : Nat), i < 1024) ∧
    (∃ (s : State) (c : Nat), (cluPlan s c).dropped = true ∧ (cluPlan s c).slack < 50) ∧
    (∃ (s : State) (c : Nat), cluRetired s c = false) ∧
    (∃ (s : State) (c : Nat), ((cluPlan s c).dropped = false ∨ 50 ≤ (cluPlan s c).slack)) ∧
    (∃ (s : State), s.nv.log.state ≠ 2 ∧ s.owl.replanning = none) ∧
    (∃ (s : State) (src : Src), srcOpen s src = true ∧ s.nv.log.state ≠ 2 ∧ s.owl.replanning = none) ∧
    (∃ (s : State), (s.nv.log.state = 2 ∨ s.owl.replanning ≠ none)) ∧
    (∃ (s : State) (volts : List Nat) (c : Nat) (cause : Nat), s.owl.replanning = some cause ∧ c < 64 ∧ cluInService s c = true ∧ volts.length = 4) ∧
    (∃ (s : State), s.owl.replanning = none) ∧
    (∃ (s : State) (src : Src) (l : Nat), srcOpen s src = true ∧ l < 6 ∧ l ≠ 2 ∧ s.owl.polReq.length = 6 ∧ s.owl.polApplied.length = 6) ∧
    (∃ (s : State) (src : Src) (l : Nat), srcOpen s src = true ∧ l < 6 ∧ l ≠ 2 ∧ s.owl.polOvr.testBit l = false ∧ s.owl.polClear.getD l 0 = 0) ∧
    (∃ (l : Nat), l < 6) ∧
    (∃ (s : State) (c : Nat), c < 64 ∧ cluInService s c = true) ∧
    (∃ (s : State) (c : Nat), c < 64 ∧ cluInService s c = true) ∧
    (∃ (s : State) (c : Nat), cluInService s c = false) ∧
    (∃ (s : State) (l : Nat) (m : Nat), l < 124 ∧ m < 50 ∧ s.owl.eye = [] ∧ s.owl.polApplied.length = 6) :=
  ⟨⟨(oc (cp 90 true false)), 5, 70, by decide +kernel⟩,
   ⟨(oc (cp 90 false false)), 5, 69, by decide +kernel⟩,
   ⟨(oc (cp 90 true false)), 5, 69, by decide +kernel⟩,
   ⟨up, 64, by decide +kernel⟩,
   ⟨1023, by decide +kernel⟩,
   ⟨(oc (cp 49 true true)), 5, by decide +kernel⟩,
   ⟨up, 5, by decide +kernel⟩,
   ⟨(oc (cp 50 true true)), 5, by decide +kernel⟩,
   ⟨up, by decide +kernel⟩,
   ⟨up, .firmware, by decide +kernel⟩,
   ⟨rpl, by decide +kernel⟩,
   ⟨rpl, ([800, 810, 820, 830]), 5, 2, by decide +kernel⟩,
   ⟨up, by decide +kernel⟩,
   ⟨up, (.host false), 1, by decide +kernel⟩,
   ⟨up, (.host false), 5, by decide +kernel⟩,
   ⟨1, by decide +kernel⟩,
   ⟨(oc (cp 90 false false)), 5, by decide +kernel⟩,
   ⟨(oc { cp 90 false false with state := 1 }), 5, by decide +kernel⟩,
   ⟨(off up), 15, by decide +kernel⟩,
   ⟨up, 123, 49, by decide +kernel⟩⟩

/-- States and operands that meet the hypotheses of LedgerAndLogbook, clause by clause. -/
theorem test_witness_LedgerAndLogbook :
    (∃ (s : State) (w : Nat), effectiveCap s < w ∧ 1100 < s.pwr.limMx) ∧
    (∃ (s : State) (w : Nat), effectiveCap s < w ∧ s.pwr.limMx ≤ 1100 ∧ 1200 < s.pwr.limVc) ∧
    (∃ (s : State) (w : Nat), w < effectiveCap s ∧ 0 < s.pwr.limGaps) ∧
    (∃ (s : State) (w : Nat), effectiveCap s = w) ∧
    (∃ (s : State), s.wmk.synced = true ∧ s.led.openIv = none) ∧
    (∃ (s : State), s.wmk.synced = false) ∧
    (∃ (s : State) (iv : Sys2Proof.Interval), s.led.openIv = some iv ∧ s.led.totals.Pairwise (fun a b => a.1 < b.1)) ∧
    (∃ (s : State), s.led.openIv = none) ∧
    (∃ (s : State) (iv : Sys2Proof.Interval), s.led.openIv = some iv ∧ iv.start / intervalNs s < s.led.time / intervalNs s ∧ 1000 ≤ s.led.time - iv.start) ∧
    (∃ (s : State) (iv : Sys2Proof.Interval), s.led.openIv = some iv ∧ s.led.time / intervalNs s ≤ iv.start / intervalNs s) ∧
    (∃ (ps : Tbl Period) (t : Nat) (i : Nat) (p : Period), periodAt ps t = some i ∧ ps.Pairwise (fun a b => a.1 < b.1) ∧ tget ps i = some p) ∧
    (∃ (s : State) (src : Src) (i : Nat), srcOpen s src = true ∧ i < 64) ∧
    (∃ (s : State) (src : Src) (i : Nat), srcOpen s src = true ∧ i < 64) ∧
    (∃ (s : State), s.log.mounted = true) ∧
    (∃ (s : State), s.log.mounted = false) ∧
    (∃ (s : State), s.log.mounted = true) ∧
    (∃ (s : State) (r : LogRec), s.log.mounted = true ∧ s.nv.log.state ≠ 2 ∧ s.log.buffer = [r] ∧ logRecSize r ≤ 4096 ∧ s.nv.log.openPages < 32 ∧ s.nv.log.blocks ≠ []) ∧
    (∃ (s : State), s.log.mounted = true ∧ s.nv.log.openPages < 32) ∧
    (∃ (s : State), s.log.mounted = true ∧ s.nv.log.openPages < 32 ∧ 0 < s.nv.log.spares) ∧
    (∃ (s : State), s.log.mounted = true ∧ s.nv.log.openPages < 32 ∧ s.nv.log.spares = 0) ∧
    (∃ (s : State) (b : List LogRec) (c : List LogRec) (rest : List (List LogRec)), s.log.mounted = true ∧ s.nv.log.state ≠ 2 ∧ logFree s.nv.log < 2 ∧ s.nv.log.blocks = b :: c :: rest ∧ (∀ r ∈ b, r.critical = false) ∧ b ≠ []) ∧
    (∃ (s : State), 2 ≤ logFree s.nv.log) ∧
    (∃ (s : State) (qp : Nat) (sub : Nat) (d : Desc) (a : Nat), Started s qp sub 0xC0 d ∧ a = (if dfld d 24 2 = 0xFFFF then d.fn else dfld d 24 2) ∧ a ≤ 514 ∧ (d.fn = 0 ∨ a = d.fn)) ∧
    (∃ (s : State) (qp : Nat) (sub : Nat) (d : Desc), Started s qp sub 0xC0 d ∧ d.fn ≠ 0 ∧ dfld d 24 2 ≠ 0xFFFF ∧ dfld d 24 2 ≠ d.fn) ∧
    (∃ (s : State) (qp : Nat) (sub : Nat) (d : Desc) (n : Nat), Started s qp sub 0xC1 d ∧ n = min (clampTo 0 4096 (dfld d 40 4)) s.led.ring.length ∧ needFnMem s d 24 = none ∧ dfld d 32 8 % 64 = 0 ∧ needOut s (dfld d 24 4) (dfld d 32 8) (65920 + 64 * n) 32 = none ∧ writeHitsPoison s (hSlot (dfld d 24 4)) (dfld d 32 8) (65920 + 64 * n) = false) ∧
    (∃ (s : State) (qp : Nat) (sub : Nat) (d : Desc), Started s qp sub 0xC2 d ∧ needFnMem s d 24 = none ∧ needOut s (dfld d 24 4) (dfld d 32 8) (dfld d 40 8) 32 = none ∧ (∀ n, writeHitsPoison s (hSlot (dfld d 24 4)) (dfld d 32 8) n = false)) :=
  ⟨⟨(pw (fun p => { p with cap := 900 })), 901, by decide +kernel⟩,
   ⟨(pw (fun p => { p with cap := 900, limMx := 1100 })), 901, by decide +kernel⟩,
   ⟨(pw (fun p => { p with limGaps := 2 })), 2000, by decide +kernel⟩,
   ⟨up, 2400, by decide +kernel⟩,
   ⟨({ up with wmk := { up.wmk with synced := true, tb := 77 } }), by decide +kernel⟩,
   ⟨up, by decide +kernel⟩,
   ⟨(ld (fun l => { l with openIv := some iv0, totals := [(3, 4), (9, 5)] })), iv0, by decide +kernel⟩,
   ⟨up, by decide +kernel⟩,
   ⟨(ld (fun l => { l with openIv := some iv0, time := 900000000000, nextIndex := 4 })), iv0, by decide +kernel⟩,
   ⟨(ld (fun l => { l with openIv := some iv0, time := 899999999999 })), iv0, by decide +kernel⟩,
   ⟨([(1, per0 5), (3, per0 90)]), 91, 3, (per0 90), by decide +kernel⟩,
   ⟨up, .firmware, 63, by decide +kernel⟩,
   ⟨up, (.host false), 63, by decide +kernel⟩,
   ⟨up, by decide +kernel⟩,
   ⟨({ up with log := { up.log with mounted := false } }), by decide +kernel⟩,
   ⟨(lg id [rec0 true]), by decide +kernel⟩,
   ⟨(lg id [rec0 false]), (rec0 false), by decide +kernel⟩,
   ⟨up, by decide +kernel⟩,
   ⟨(lg (fun l => { l with spares := 65 }) []), by decide +kernel⟩,
   ⟨(lg (fun l => { l with spares := 0 }) []), by decide +kernel⟩,
   ⟨(lg (fun l => { l with dataBlocks := 3, blocks := [[rec0 false], [rec0 true]] }) []), ([rec0 false]), ([rec0 true]), ([]), by decide +kernel⟩,
   ⟨up, by decide +kernel⟩,
   ⟨(withD (dN 0xC0 [(24, 0xFFFF)]) work), 0, 7, (dN 0xC0 [(24, 0xFFFF)]), 0, by decide +kernel⟩,
   ⟨(withD { dN 0xC0 [] with fn := 3 } work), 0, 7, ({ dN 0xC0 [] with fn := 3 }), by decide +kernel⟩,
   ⟨(ldm (fun l => { l with ring := [iv0] }) (withD (dN 0xC1 exF) work)), 0, 7, (dN 0xC1 exF), 1, by decide +kernel⟩,
   ⟨(withD (dN 0xC2 rdF) work), 0, 7, (dN 0xC2 rdF), by first | decide +kernel | (exact fun n => no_poison _ _ _ _ memA rfl rfl rfl) | rfl | simp, by first | decide +kernel | (exact fun n => no_poison _ _ _ _ memA rfl rfl rfl) | rfl | simp, by first | decide +kernel | (exact fun n => no_poison _ _ _ _ memA rfl rfl rfl) | rfl | simp, by first | decide +kernel | (exact fun n => no_poison _ _ _ _ memA rfl rfl rfl) | rfl | simp⟩⟩

end W18

namespace W19

def mg (f : MgtState → MgtState) : State := { up with lcs := { up.lcs with position := 3 }, mgt := f { MgtState.init with dynAddr := some 9 } }
def al (c n : Nat) : Tbl Alert := [(c, { pending := true, count := n })]
def frm (op tag : Nat) (p : List Byte) : List Byte :=
  leBytes 1 op ++ leBytes 1 tag ++ leBytes 2 p.length ++ leBytes 4 0 ++ p ++
    leBytes 4 (crc32c (leBytes 1 op ++ leBytes 1 tag ++ leBytes 2 p.length ++ leBytes 4 0 ++ p)).toNat
def rq (op : Nat) (p : List Byte) : MgtReq := { op := op, tag := 7, payload := p }
def sv (r : MgtReq) (f : MgtState → MgtState) : State := mg fun m => f { m with i3c := { req := some r, resp := none } }
def svc (op : Nat) (p : List Byte) : State := sv (rq op p) id
def actv (s : State) : State := { s with wmk := { s.wmk with role := .active } }
def img (v k : Nat) : FwCopy := { image := leBytes 8 (0x46575431 + v * 2 ^ 32 + k * 2 ^ 48) ++ leBytes 248 0, failing := false, short := false, passed := (true, true) }
def fws (a b : FwCopy) (s : State) : State := { s with nv := { s.nv with fw := { a := a, b := b, floor := 2, revoked := 0 } } }
def otp (f : OtpState → OtpState) (s : State) : State := { s with nv := { s.nv with otp := f s.nv.otp } }
def lcsC : LcsCommand := { mgt := false, target := 3, token := 4 }

/-- States and operands that meet the hypotheses of ManagementPort, clause by clause. -/
theorem test_witness_ManagementPort :
    let up := fun (s : State) => mgtUp s = true ∧ s.mgt.dynAddr.isSome = true
    let answer := fun (b : Option (List Byte)) (s : State) => { s with out := .i3c b :: s.out }
    let frame := fun (op tag : Nat) (p b : List Byte) => b = leBytes 1 op ++ leBytes 1 tag ++ leBytes 2 p.length ++ leBytes 4 0 ++ p ++
      leBytes 4 (crc32c (leBytes 1 op ++ leBytes 1 tag ++ leBytes 2 p.length ++ leBytes 4 0 ++ p)).toNat ∧ op < 256 ∧ tag < 256 ∧
      p.length ≤ 4080
    (∃ (s : State), mgtUp s = true ∧ s.mgt.dynAddr = none) ∧
    (∃ (s : State), s.mgt.dynAddr ≠ none) ∧
    (∃ (s : State), up s) ∧
    (∃ (s : State), (s.mgt.dynAddr = none ∨ mgtUp s = false)) ∧
    (∃ (s : State), up s ∧ s.mgt.ibiEn = false ∧ alertUrgent s ≠ 0xFF) ∧
    (∃ (s : State), up s ∧ s.mgt.ibiEn = false ∧ alertUrgent s = 0xFF) ∧
    (∃ (s : State), up s) ∧
    (∃ (c : Instr) (s : State), up s ∧ s.mgt.ibiEn = true ∧ alertUrgent s ≠ 0xFF ∧ (c = .ibiRepeat ∨ c = .ibiNackRetry ∧ s.mgt.ibiReq = true)) ∧
    (∃ (c : Instr) (s : State), up s ∧ s.mgt.ibiEn = true ∧ alertUrgent s ≠ 0xFF ∧ (c = .ibiRepeat ∨ c = .ibiNackRetry ∧ s.mgt.ibiReq = true)) ∧
    (∃ (s : State), s.mgt.ibiReq = false) ∧
    (∃ (s : State), up s) ∧
    (∃ (s : State) (v : Nat), up s ∧ 4096 ≤ v) ∧
    (∃ (s : State) (v : Nat), up s ∧ v < 4096) ∧
    (∃ (s : State) (b : List Byte) (op : Nat) (tag : Nat) (p : List Byte), up s ∧ frame op tag p b ∧ s.mgt.i3c.req = none ∧ s.mgt.i3c.resp = none ∧ mgtLegal op = true ∧ mgtLength op p.length = true) ∧
    (∃ (s : State) (b : List Byte) (op : Nat) (tag : Nat) (p : List Byte), up s ∧ frame op tag p b ∧ s.mgt.i3c.req = none ∧ s.mgt.i3c.resp = none ∧ mgtLegal op = false) ∧
    (∃ (s : State) (b : List Byte) (op : Nat) (tag : Nat) (p : List Byte), up s ∧ frame op tag p b ∧ s.mgt.i3c.req = none ∧ s.mgt.i3c.resp = none ∧ mgtLegal op = true ∧ mgtLength op p.length = false) ∧
    (∃ (s : State) (b : List Byte), up s ∧ s.mgt.i3c.req = none ∧ s.mgt.i3c.resp = none ∧ 12 ≤ b.length ∧ b.length ≤ 4096 ∧ frameNum b (b.length - 4) 4 ≠ (crc32c (b.take (b.length - 4))).toNat) ∧
    (∃ (s : State), up s ∧ (s.mgt.i3c.req ≠ none ∨ s.mgt.i3c.resp ≠ none)) ∧
    (∃ (s : State) (b : List Byte), up s ∧ s.mgt.i3c.resp = some b) ∧
    (∃ (s : State), up s ∧ s.mgt.i3c.resp = none) ∧
    (∃ (s : State), mgtUp s = true ∧ s.mgt.uartRx = []) ∧
    (∃ (s : State), mgtUp s = true ∧ s.mgt.uartRx = [0xA5]) ∧
    (∃ (s : State) (b : List Byte) (op : Nat) (tag : Nat) (p : List Byte), mgtUp s = true ∧ frame op tag p b ∧ s.mgt.uartRx = [0xA5, 0xC3] ++ b.dropLast ∧ s.mgt.uart.req = none ∧ s.mgt.uart.resp = none ∧ mgtLegal op = true ∧ mgtLength op p.length = true) ∧
    (∃ (s : State), mgtUp s = true) ∧
    (∃ (s : State), mgtUp s = true) ∧
    (∃ (s : State), mgtUp s = false) :=
  ⟨⟨(mg (fun m => { m with dynAddr := none })), by decide +kernel⟩,
   ⟨(mg id), by decide +kernel⟩,
   ⟨(mg id), by decide +kernel⟩,
   ⟨up, by decide +kernel⟩,
   ⟨(mg (fun m => { m with alerts := al 0x40 1 })), by decide +kernel⟩,
   ⟨(mg id), by decide +kernel⟩,
   ⟨(mg (fun m => { m with ibiEn := true })), by decide +kernel⟩,
   ⟨.ibiRepeat, (mg (fun m => { m with ibiEn := true, alerts := al 0x40 1 })), by decide +kernel⟩,
   ⟨.ibiNackRetry, (mg (fun m => { m with ibiEn := true, ibiReq := true, alerts := al 0x40 1 })), by decide +kernel⟩,
   ⟨(mg id), by decide +kernel⟩,
   ⟨(mg id), by decide +kernel⟩,
   ⟨(mg id), 4096, by decide +kernel⟩,
   ⟨(mg id), 4095, by decide +kernel⟩,
   ⟨(mg id), (frm 0x60 7 (leBytes 32 9)), 0x60, 7, (leBytes 32 9), by decide +kernel⟩,
   ⟨(mg id), (frm 0x77 7 []), 0x77, 7, ([]), by decide +kernel⟩,
   ⟨(mg id), (frm 0x60 7 [1]), 0x60, 7, ([1]), by decide +kernel⟩,
   ⟨(mg id), (leBytes 12 0x11), by decide +kernel⟩,
   ⟨(mg (fun m => { m with i3c := { req := none, resp := some [] } })), by decide +kernel⟩,
   ⟨(mg (fun m => { m with i3c := { req := none, resp := some [1] } })), ([1]), by decide +kernel⟩,
   ⟨(mg id), by decide +kernel⟩,
   ⟨up, by decide +kernel⟩,
   ⟨(mg (fun m => { m with uartRx := [0xA5] })), by decide +kernel⟩,
   ⟨(mg (fun m => { m with uartRx := [0xA5, 0xC3] ++ (frm 0x21 7 [1, 2]).dropLast })), (frm 0x21 7 [1, 2]), 0x21, 7, ([1, 2]), by decide +kernel⟩,
   ⟨up, by decide +kernel⟩,
   ⟨(mg (fun m => { m with uartRx := [0xA5] })), by decide +kernel⟩,
   ⟨({ up with mod := { up.mod with modResetN := false } }), by decide +kernel⟩⟩

/-- States and operands that meet the hypotheses of ManagementCommands, clause by clause. -/
theorem test_witness_ManagementCommands :
    let serves := fun (s : State) (u : Bool) (op : Nat) (r : MgtReq) => (faceOf s u).req = some r ∧ mgtUp s = true ∧ r.op = op ∧
      s.mgt.running = none ∧ mgtServed op (mgtArg r) (mgtCol s) = true
    let done := fun (u : Bool) (r : MgtReq) (b : List Byte) (s : State) => reply u r.op r.tag 0 0 b s
    let arg := fun (r : MgtReq) (a n : Nat) => frameNum r.payload a n
    (∃ (s : State) (u : Bool) (r : MgtReq), serves s u 0x01 r) ∧
    (∃ (s : State) (u : Bool) (r : MgtReq), serves s u 0x02 r) ∧
    (∃ (s : State) (u : Bool) (r : MgtReq) (c : Nat), serves s u 0x03 r ∧ c = nearestAlert (arg r 0 1) ∧ alertEvent c = true ∧ (alertOf s c).pending = true ∧ (alertOf s c).count = arg r 1 2) ∧
    (∃ (s : State) (u : Bool) (r : MgtReq) (c : Nat), serves s u 0x03 r ∧ c = nearestAlert (arg r 0 1) ∧ (alertEvent c = false ∨ (alertOf s c).count ≠ arg r 1 2)) ∧
    (∃ (s : State) (u : Bool) (r : MgtReq), serves s u 0x10 r) ∧
    (∃ (s : State) (u : Bool) (r : MgtReq), serves s u 0x11 r ∧ s.wmk.role ≠ .active) ∧
    (∃ (s : State) (u : Bool) (r : MgtReq), serves s u 0x11 r ∧ s.wmk.role = .active) ∧
    (∃ (s : State) (u : Bool) (r : MgtReq), serves s u 0x12 r ∧ arg r 0 1 = 0) ∧
    (∃ (s : State) (u : Bool) (r : MgtReq), serves s u 0x12 r ∧ arg r 0 1 = 1) ∧
    (∃ (s : State) (u : Bool) (r : MgtReq), serves s u 0x20 r ∧ 514 < arg r 0 2) ∧
    (∃ (s : State) (u : Bool) (r : MgtReq), serves s u 0x20 r ∧ arg r 0 2 ≤ 514) ∧
    (∃ (s : State) (u : Bool) (r : MgtReq), serves s u 0x50 r) ∧
    (∃ (s : State) (u : Bool) (r : MgtReq), serves s u 0x21 r) ∧
    (∃ (s : State) (u : Bool) (r : MgtReq), serves s u 0x30 r ∧ mgtArg r = 1 ∧ engineCmd s (arg r 1 4) = 0) ∧
    (∃ (s : State) (u : Bool) (r : MgtReq), serves s u 0x30 r ∧ mgtArg r = 2 ∧ partCmd s (arg r 1 4 % 4) ≠ 0) ∧
    (∃ (s : State) (u : Bool) (r : MgtReq), serves s u 0x30 r ∧ mgtArg r = 3) ∧
    (∃ (s : State) (u : Bool) (r : MgtReq), serves s u 0x40 r ∧ s.lcs.busy = none) ∧
    (∃ (s : State) (u : Bool) (r : MgtReq), serves s u 0x40 r ∧ s.lcs.busy.isSome = true) ∧
    (∃ (s : State) (u : Bool) (r : MgtReq), serves s u 0x60 r ∧ s.nv.otp.tray = none) ∧
    (∃ (s : State) (u : Bool) (r : MgtReq), serves s u 0x61 r ∧ s.nv.otp.tray = none) ∧
    (∃ (s : State) (u : Bool) (r : MgtReq), serves s u 0x61 r ∧ s.nv.otp.tray.isSome = true) ∧
    (∃ (s : State) (u : Bool) (r : MgtReq) (c : Nat), serves s u 0x70 r ∧ arg r 0 1 = c ∧ c ≤ 1 ∧ ¬(mgtCol s = .srv ∧ c = if s.svc.active then 1 else 0) ∧ arg r 1 4 = 0) ∧
    (∃ (s : State) (u : Bool) (r : MgtReq) (c : Nat), serves s u 0x70 r ∧ arg r 0 1 = c ∧ c ≤ 1 ∧ ¬(mgtCol s = .srv ∧ c = if s.svc.active then 1 else 0) ∧ arg r 1 4 ≠ 0 ∧ arg r 1 4 ≠ (fwCopy s.nv.fw c).image.length) ∧
    (∃ (s : State) (u : Bool) (r : MgtReq) (c : Nat), serves s u 0x70 r ∧ arg r 0 1 = c ∧ c ≤ 1 ∧ mgtCol s = .srv ∧ (c = if s.svc.active then 1 else 0)) ∧
    (∃ (s : State) (u : Bool) (r : MgtReq) (c : Nat), serves s u 0x71 r ∧ arg r 0 1 = c ∧ c ≤ 1) ∧
    (∃ (s : State) (u : Bool) (r : MgtReq) (n : Nat), serves s u 0x72 r ∧ n = clampTo 1 64 (arg r 0 1) ∧ s.nv.fw.floor < n ∧ fwGood s.nv.fw s.nv.fw.a = true ∧ fwGood s.nv.fw s.nv.fw.b = true ∧ n ≤ fwVersion s.nv.fw.a ∧ n ≤ fwVersion s.nv.fw.b) ∧
    (∃ (s : State) (u : Bool) (r : MgtReq) (n : Nat), serves s u 0x72 r ∧ n = clampTo 1 64 (arg r 0 1) ∧ s.nv.fw.floor < n ∧ (fwGood s.nv.fw s.nv.fw.a = false ∨ fwGood s.nv.fw s.nv.fw.b = false ∨ fwVersion s.nv.fw.a < n ∨ fwVersion s.nv.fw.b < n)) ∧
    (∃ (s : State) (u : Bool) (r : MgtReq) (k : Nat), serves s u 0x73 r ∧ arg r 0 1 = k ∧ k ≤ 1 ∧ fwGood s.nv.fw s.nv.fw.a = true ∧ fwGood s.nv.fw s.nv.fw.b = true ∧ fwKeyIndex s.nv.fw.a = 1 - k ∧ fwKeyIndex s.nv.fw.b = 1 - k) ∧
    (∃ (s : State) (u : Bool) (r : MgtReq) (k : Nat), serves s u 0x73 r ∧ arg r 0 1 = k ∧ k ≤ 1 ∧ fwKeyIndex s.nv.fw.a = k) ∧
    (∃ (c : Instr) (s : State) (u : Bool) (r : MgtReq) (op : Nat), (c = .health u ∧ op = 0x10 ∨ c = .recordRead u ∧ op = 0x12 ∨ c = .ledger u ∧ op = 0x20 ∨ c = .cabling u ∧ op = 0x50 ∨ c = .trayCap u ∧ op = 0x21 ∨ c = .reset u ∧ op = 0x30 ∨ c = .challenge u ∧ op = 0x60) ∧ (faceOf s u).req = some r ∧ mgtUp s = true ∧ r.op = op) :=
  ⟨⟨(svc 1 []), false, (rq 1 []), by decide +kernel⟩,
   ⟨(svc 2 []), false, (rq 2 []), by decide +kernel⟩,
   ⟨(sv (rq 3 [0x20, 3, 0]) (fun m => { m with alerts := al 0x20 3 })), false, (rq 3 [0x20, 3, 0]), 0x20, by decide +kernel⟩,
   ⟨(sv (rq 3 [0x40, 3, 0]) (fun m => { m with alerts := al 0x40 3 })), false, (rq 3 [0x40, 3, 0]), 0x40, by decide +kernel⟩,
   ⟨(svc 0x10 []), false, (rq 0x10 []), by decide +kernel⟩,
   ⟨(svc 0x11 (leBytes 4 0)), false, (rq 0x11 (leBytes 4 0)), by decide +kernel⟩,
   ⟨(actv (svc 0x11 (leBytes 4 0))), false, (rq 0x11 (leBytes 4 0)), by decide +kernel⟩,
   ⟨(svc 0x12 (leBytes 9 0)), false, (rq 0x12 (leBytes 9 0)), by decide +kernel⟩,
   ⟨(svc 0x12 (leBytes 9 1)), false, (rq 0x12 (leBytes 9 1)), by decide +kernel⟩,
   ⟨(svc 0x20 [3, 2, 0, 0]), false, (rq 0x20 [3, 2, 0, 0]), by decide +kernel⟩,
   ⟨(svc 0x20 [2, 2, 0, 0]), false, (rq 0x20 [2, 2, 0, 0]), by decide +kernel⟩,
   ⟨(svc 0x50 []), false, (rq 0x50 []), by decide +kernel⟩,
   ⟨(svc 0x21 [0x84, 3]), false, (rq 0x21 [0x84, 3]), by decide +kernel⟩,
   ⟨(svc 0x30 (leBytes 5 1)), false, (rq 0x30 (leBytes 5 1)), by decide +kernel⟩,
   ⟨(svc 0x30 (leBytes 5 2)), false, (rq 0x30 (leBytes 5 2)), by decide +kernel⟩,
   ⟨(svc 0x30 (leBytes 5 3)), false, (rq 0x30 (leBytes 5 3)), by decide +kernel⟩,
   ⟨(svc 0x40 (leBytes 33 7)), false, (rq 0x40 (leBytes 33 7)), by decide +kernel⟩,
   ⟨({ svc 0x40 (leBytes 33 7) with lcs := { up.lcs with position := 3, busy := some lcsC } }), false, (rq 0x40 (leBytes 33 7)), by decide +kernel⟩,
   ⟨(svc 0x60 (leBytes 32 1)), false, (rq 0x60 (leBytes 32 1)), by decide +kernel⟩,
   ⟨(svc 0x61 (leBytes 48 5)), false, (rq 0x61 (leBytes 48 5)), by decide +kernel⟩,
   ⟨(otp (fun o => { o with tray := some 4 }) (svc 0x61 (leBytes 48 5))), false, (rq 0x61 (leBytes 48 5)), by decide +kernel⟩,
   ⟨(svc 0x70 ([1, 0, 0, 0, 0] ++ leBytes 16 9)), false, (rq 0x70 ([1, 0, 0, 0, 0] ++ leBytes 16 9)), 1, by decide +kernel⟩,
   ⟨(svc 0x70 ([1, 1, 0, 0, 0] ++ leBytes 16 9)), false, (rq 0x70 ([1, 1, 0, 0, 0] ++ leBytes 16 9)), 1, by decide +kernel⟩,
   ⟨(svc 0x70 ([0, 1, 0, 0, 0] ++ leBytes 16 9)), false, (rq 0x70 ([0, 1, 0, 0, 0] ++ leBytes 16 9)), 0, by decide +kernel⟩,
   ⟨(svc 0x71 [1]), false, (rq 0x71 [1]), 1, by decide +kernel⟩,
   ⟨(fws (img 3 0) (img 4 1) (svc 0x72 [3])), false, (rq 0x72 [3]), 3, by decide +kernel⟩,
   ⟨(fws (img 3 0) (img 2 1) (svc 0x72 [3])), false, (rq 0x72 [3]), 3, by decide +kernel⟩,
   ⟨(fws (img 3 0) (img 2 0) (svc 0x73 [1])), false, (rq 0x73 [1]), 1, by decide +kernel⟩,
   ⟨(fws (img 3 1) (img 2 0) (svc 0x73 [1])), false, (rq 0x73 [1]), 1, by decide +kernel⟩,
   ⟨(.health false), (svc 0x10 []), false, (rq 0x10 []), 0x10, by decide +kernel⟩⟩

end W19

namespace W20

def wMem : State := { work with mem := cellsOf 1 0 [1, 2, 3] }
def pois (s : State) : State := { s with poison := [(lineKey 1 64, { stack := 0, tabled := true })] }
def offM : State := { work with clk := { up.clk with partOffline := 1 }, mems := [(1, { memA with mapped := [(0, 1)] })] }

/-- States and operands that meet the hypotheses of StepRunsFront, clause by clause. -/
theorem test_witness_StepRunsFront :
    (∃ (s : State) (c : Instr) (rest : List Instr), s.pending = c :: rest) ∧
    (∃ (s : State), s.pending = []) :=
  ⟨⟨({ work with pending := [.fence 3, .fence 4] }), (.fence 3), ([.fence 4]), by decide +kernel⟩,
   ⟨work, by decide +kernel⟩⟩

/-- States and operands that meet the hypotheses of StepKeepsMemory, clause by clause. -/
theorem test_witness_StepKeepsMemory :
    (∃ (s : State) (t : State), memoryWf s ∧ step s = .next t) :=
  ⟨wMem, (idle wMem), by first | decide +kernel | rfl | (dsimp only; decide +kernel) | simp, by first | decide +kernel | rfl | (dsimp only; decide +kernel) | simp⟩

/-- States and operands that meet the hypotheses of StepKeepsOneWay, clause by clause. -/
theorem test_witness_StepKeepsOneWay :
    (∃ (s : State) (t : State), step s = .next t) :=
  ⟨wMem, (idle wMem), by first | decide +kernel | rfl | (dsimp only; decide +kernel) | simp⟩

/-- States and operands that meet the hypotheses of ResetWords, clause by clause. -/
theorem test_witness_ResetWords :
    (∃ (c : Nat), c < 64) ∧
    (∃ (p : Nat), p < 23) :=
  ⟨⟨63, by decide +kernel⟩,
   ⟨22, by decide +kernel⟩⟩

/-- States and operands that meet the hypotheses of StoredBytes, clause by clause. -/
theorem test_witness_StoredBytes :
    (∃ (slot : Nat) (off : Nat) (bs : List Byte) (k : Nat), (k < memKey slot off ∨ memKey slot off + bs.length ≤ k)) ∧
    (∃ (s : State) (slot : Nat) (off : Nat) (bs : List Byte), memoryWf s ∧ off % 64 + bs.length ≤ 64 ∧ bs ≠ [] ∧ lineLost s slot off = false ∧ thas s.poison (lineKey slot off) = false) ∧
    (∃ (s : State) (slot : Nat) (off : Nat) (bs : List Byte), off % 64 + bs.length ≤ 64 ∧ bs ≠ [] ∧ lineLost s slot off = true) ∧
    (∃ (s : State) (slot : Nat) (off : Nat) (bs : List Byte), off % 64 + bs.length ≤ 64 ∧ bs ≠ [] ∧ thas s.poison (lineKey slot off) = true ∧ bs.length ≠ 64) :=
  ⟨⟨1, 64, ([1, 2]), (memKey 1 66), by decide +kernel⟩,
   ⟨work, 1, 126, ([1, 2]), by decide +kernel⟩,
   ⟨offM, 1, 62, ([1, 2]), by decide +kernel⟩,
   ⟨(pois work), 1, 64, (List.replicate 63 1), by decide +kernel⟩⟩

end W20

namespace W21

def me : Nat := 0x2A417
def n1 : Nat := 0x2A418
def qf : List (Nat × Nat) := [(24, 0x12345), (40, 5), (41, 17), (42, 2047)]
def pgS (q : QueuePair) : State := { up with cmd := { CmdState.init with qps := [(0, q), (3, qpA)] }, ctxs := [(5, ctxA)] }
def wk (op : Nat) (fs : List (Nat × Nat)) (bs : List Byte) : State := { withD (dW op fs) work with mem := cellsOf 1 0 bs }
def gF : List (Nat × Nat) := [(24, 0x30000001), (40, 2), (44, 77)]
def mB : List Byte := bytesOf 8 [(0, n1), (4, me)]
def grp : Group := { ctx := 5, tag := 77, members := [n1, me], rank := 1, switch := none, base := 9, nextSeq := 4, held := [] }
def gs (g : Group) (s : State) : State := { s with col := { ColState.init with groups := [(0, g)], nextOp := 9 } }
def recB : List Byte := bytesOf 128 [(0, 3), (4, 255), (8, 0x40000001), (20, 0), (24, 6), (32, 300), (40, 0x30000001), (56, 0x30000002)]
def pF : List (Nat × Nat) := [(24, 0x30000001), (40, 1)]
def opR (c : Nat) : OpRec := { recOf (gs grp work) 5 grp recB with count := c }
def opA (c : Nat) : TrigOp := { id := 2, ctx := 5, op := opR c, seq := 3, sig := 11, state := .running, engine := 0, preAbort := none, segs := [], dones := [], readys := [], sentTo := [], recvd := [], gathering := false, bytes := 0, flags := 0, viaSwitch := false, unacked := [], busy := [], fired := 5, access := false }
def attS : State := { withD (dN 0x01 [(24, 0x70), (25, 0x4F)]) work with cmd := { (withD (dN 0x01 [(24, 0x70), (25, 0x4F)]) work).cmd with att := [(0, { epoch := 0x12350, entries := [(0x70, { pending := true, count := 3, epochLast := 0x12345, detail := 9, handle := 8 })] })] } }
def bcn : State := { up with wmk := { up.wmk with role := .candidate, beaconing := true, cfg := { top := true, prio := 8, cands := [0x8002A417, 0x8002A418, 0, 0, 0, 0, 0, 0], parent := 0 } } }

/-- States and operands that meet the hypotheses of SeqIsSubmissionNumber, clause by clause. -/
theorem test_witness_SeqIsSubmissionNumber :
    let fetched := fun (qp : Nat) (p : QueuePair) (raw : BitVec 512) =>
      ({ qp := qp, sub := p.nextSub, pos := p.fetchPos, fn := p.fn, raw := raw, phase := .fetched, noRecord := false
         sigOk := false, escalated := false, note := 0 } : Desc)
    let able := fun (s : State) (qp : Nat) (p : QueuePair) =>
      cmdReady s = true ∧ fetchChoice s = some qp ∧ getQp s qp = some p
    let seqOf := fun (raw : BitVec 512) => raw.toNat / 2 ^ 16 % 2 ^ 16
    (∃ (s : State) (qp : Nat) (sub : Nat) (d : Desc) (q : Nat) (loc : Nat), Started s qp sub 0x14 d ∧ dfld d 42 2 < vectorCount d.fn ∧ dfld d 42 2 ≠ 0xFFFF ∧ quotaFail s d.fn Hk.qp = none ∧ freeQp s d.fn = some (q, loc)) ∧
    (∃ (s : State) (fn : Nat) (bound : Bool) (v : Word) (q : Nat), doorOpen s bound = true ∧ svqNum s fn = some q ∧ svqOf s fn = none ∧ bitsOf v.toNat 0 11 < vectorCount fn ∧ bitOf v.toNat 30 = false ∧ bitOf v.toNat 31 = true) ∧
    (∃ (s : State) (qp : Nat) (raw : BitVec 512) (p : QueuePair), able s qp p ∧ seqOf raw = p.nextSub % 65536 ∧ headerFail (fetchServed p s) (fetched qp p raw) = none) ∧
    (∃ (s : State) (qp : Nat) (raw : BitVec 512) (p : QueuePair), able s qp p ∧ p.ctx = none ∧ seqOf raw ≠ p.nextSub % 65536) :=
  ⟨⟨(withD (dS 0x14 qf) work), 0, 7, (dS 0x14 qf), 1, 1, by decide +kernel⟩,
   ⟨up, 0, false, 0x8001003F, 0, by decide +kernel⟩,
   ⟨(pgS qpS), 3, (rawOf 0 [(2, 7)]), qpA, by decide +kernel⟩,
   ⟨(pgS { qpS with sqTail := 8 }), 0, (rawOf 0 [(2, 8)]), ({ qpS with sqTail := 8 }), by decide +kernel⟩⟩

/-- States and operands that meet the hypotheses of SegmentsAndShards, clause by clause. -/
theorem test_witness_SegmentsAndShards :
    (∃ (o : OpRec), 1 ≤ o.count ∧ 1 ≤ o.seg) ∧
    (∃ (s : State) (o : TrigOp) (k : Nat), k < (opMembers s o).length) ∧
    (∃ (s : State) (o : TrigOp), segCount o.op < (opMembers s o).length) ∧
    (∃ (s : State) (o : TrigOp) (g : Nat), (opMembers s o).length ≠ 0 ∧ g < segCount o.op) :=
  ⟨⟨(opR 300), by decide +kernel⟩,
   ⟨(gs grp work), (opA 300), 1, by decide +kernel⟩,
   ⟨(gs grp work), (opA 1), by decide +kernel⟩,
   ⟨(gs grp work), (opA 300), 0, by decide +kernel⟩⟩

/-- States and operands that meet the hypotheses of GroupBaseAndSignature, clause by clause. -/
theorem test_witness_GroupBaseAndSignature :
    let reads := fun (s : State) (d : Desc) (n : Nat) => needH s d Hk.mem 24 = none ∧ needRange s (dfld d 24 4) (dfld d 32 8) n 32 = none
    let seen := fun (s : State) (d : Desc) (n : Nat) => touch (hSlot (dfld d 24 4)) (dfld d 32 8) n false s
    let clean := fun (s : State) (d : Desc) (n : Nat) => poisonedIn (seen s d n) (hSlot (dfld d 24 4)) (dfld d 32 8) n = false
    let list := fun (s : State) (d : Desc) (n : Nat) => (List.range n).map fun i =>
      ofLe (readMem (seen s d (4 * n)) (.desc d.qp d.sub) (hSlot (dfld d 24 4)) (dfld d 32 8 + 4 * i) 4) % 2 ^ 24
    (∃ (s : State) (qp : Nat) (sub : Nat) (d : Desc) (c : Nat) (n : Nat), Started s qp sub 0x72 d ∧ descCtx s d = some c ∧ n = clampTo 1 1024 (dfld d 40 2) ∧ reads s d (4 * n) ∧ clean s d (4 * n) ∧ nodeId (seen s d (4 * n)) ∈ list s d n ∧ hasDup (list s d n) = false ∧ (∀ e ∈ (seen s d (4 * n)).col.groups, e.2.tag ≠ dfld d 44 4) ∧ confidential (seen s d (4 * n)) = false ∧ (seen s d (4 * n)).col.groups.length < 256 ∧ (∃ i, i < 4096 ∧ tget (seen s d (4 * n)).col.groups i = none)) ∧
    (∃ (s : State) (qp : Nat) (sub : Nat) (d : Desc) (c : Nat) (b : List Byte) (g : Sys2Proof.Group) (e : Event), Started s qp sub 0x70 d ∧ descCtx s d = some c ∧ clampTo 1 4096 (dfld d 40 4) = 1 ∧ reads s d 128 ∧ clean s d 128 ∧ b = readMem (seen s d 128) (.desc d.qp d.sub) (hSlot (dfld d 24 4)) (dfld d 32 8) 128 ∧ recGroup (seen s d 128) b = some g ∧ recFail (seen s d 128) c (some g) b (recOf (seen s d 128) c g b) = none ∧ (seen s d 128).col.ops.length < 16384 ∧ tget (seen s d 128).evs (recOf (seen s d 128) c g b).trigger = some e ∧ e.signalled = false ∧ e.count = 0) :=
  ⟨⟨(wk 0x72 gF mB), 3, 7, (dW 0x72 gF), 5, 2, by first | decide +kernel | (exact ⟨0, by decide +kernel, rfl⟩) | rfl | simp, by first | decide +kernel | (exact ⟨0, by decide +kernel, rfl⟩) | rfl | simp, by first | decide +kernel | (exact ⟨0, by decide +kernel, rfl⟩) | rfl | simp, by first | decide +kernel | (exact ⟨0, by decide +kernel, rfl⟩) | rfl | simp, by first | decide +kernel | (exact ⟨0, by decide +kernel, rfl⟩) | rfl | simp, by first | decide +kernel | (exact ⟨0, by decide +kernel, rfl⟩) | rfl | simp, by first | decide +kernel | (exact ⟨0, by decide +kernel, rfl⟩) | rfl | simp, by first | decide +kernel | (exact ⟨0, by decide +kernel, rfl⟩) | rfl | simp, by first | decide +kernel | (exact ⟨0, by decide +kernel, rfl⟩) | rfl | simp, by first | decide +kernel | (exact ⟨0, by decide +kernel, rfl⟩) | rfl | simp, by first | decide +kernel | (exact ⟨0, by decide +kernel, rfl⟩) | rfl | simp⟩,
   ⟨(gs grp (wk 0x70 pF recB)), 3, 7, (dW 0x70 pF), 5, recB, grp, evA, by decide +kernel⟩⟩

/-- States and operands that meet the hypotheses of AcknowledgeAttention, clause by clause. -/
theorem test_witness_AcknowledgeAttention :
    (∃ (e : Nat), e < 256) ∧
    (∃ (s : State) (qp : Nat) (sub : Nat) (d : Desc) (ep : Nat), Started s qp sub 0x01 d ∧ (dfld d 24 1 = 0xFF ∨ dfld d 24 1 ∈ attCodes) ∧ fullEpoch (attOf s d.fn).epoch (dfld d 25 1) = some ep) ∧
    (∃ (seen : Nat) (cur : Nat), seen ≤ cur ∧ cur < seen + 256) :=
  ⟨⟨0x4F, by decide +kernel⟩,
   ⟨attS, 0, 7, (dN 0x01 [(24, 0x70), (25, 0x4F)]), 0x1234F, by decide +kernel⟩,
   ⟨5, 260, by decide +kernel⟩⟩

/-- States and operands that meet the hypotheses of CandidateOrder, clause by clause. -/
theorem test_witness_CandidateOrder :
    (∃ (a : Nat × Nat) (b : Nat × Nat), a ≠ b) ∧
    (∃ (s : State), s.wmk.cfgPend = none ∧ s.wmk.cfg.prio < 16) ∧
    (∃ (s : State) (n : Nat) (a : Nat) (b : Nat), listed s n = true ∧ n ≠ nodeId s ∧ s.wmk.role = .candidate ∧ (a, b) ≠ ownPair s) :=
  ⟨⟨((1, 2)), ((1, 3)), by decide +kernel⟩,
   ⟨bcn, by decide +kernel⟩,
   ⟨bcn, n1, 9, 0, by first | decide +kernel | (exact fun h => absurd (congrArg Prod.fst h) (by decide +kernel)) | rfl | simp, by first | decide +kernel | (exact fun h => absurd (congrArg Prod.fst h) (by decide +kernel)) | rfl | simp, by first | decide +kernel | (exact fun h => absurd (congrArg Prod.fst h) (by decide +kernel)) | rfl | simp, by first | decide +kernel | (exact fun h => absurd (congrArg Prod.fst h) (by decide +kernel)) | rfl | simp⟩⟩

/-- States and operands that meet the hypotheses of DomainNumber, clause by clause. -/
theorem test_witness_DomainNumber :
    (∃ (node : Nat), node < 2 ^ 24) ∧
    (∃ (s : State), s.mod.strapSlot < 16 ∧ s.mod.strapBoard < 2 ^ 20) ∧
    (∃ (slot : Nat), slot < 16) ∧
    (∃ (board : Nat) (slot : Nat), board ≤ 32767 ∧ slot < 16) ∧
    (∃ (D : Nat), D ≤ 511) ∧
    (∃ (s : State), s.mod.phase = .charged) :=
  ⟨⟨0xFFFFFF, by decide +kernel⟩,
   ⟨up, by decide +kernel⟩,
   ⟨3, by decide +kernel⟩,
   ⟨32767, 15, by decide +kernel⟩,
   ⟨511, by decide +kernel⟩,
   ⟨({ up with mod := { up.mod with phase := .charged } }), by decide +kernel⟩⟩

/-- States and operands that meet the hypotheses of SxRefusesConfidentialMode, clause by clause. -/
theorem test_witness_SxRefusesConfidentialMode :
    (∃ (s : State) (qp : Nat) (sub : Nat) (d : Desc), s.nv.otp.cx = false ∧ Started s qp sub 0x60 d) :=
  ⟨({ withD (dN 0x60 []) work with nv := { up.nv with otp := { up.nv.otp with cx := false } } }), 0, 7, (dN 0x60 []), by decide +kernel⟩

end W21

/-! ## WellFormed refuses an ill-formed term for each check -/

theorem test_wellFormed_ports : wellFormed (.retrainComplete 23) = false ∧ wellFormed (.retrainComplete 22) = true ∧
    wellFormed (.plan 3 9 30 [] []) = false ∧ wellFormed (.plan 3 9 31 [] []) = true ∧
    wellFormed (.eventReq 0x1000000 0 5 0 0) = false ∧ wellFormed (.eventReq 0xFFFFFF 0 0x100000000 0 0) = false ∧
    wellFormed (.transitStallExpire 3 4) = false := by decide

theorem test_wellFormed_flits :
    wellFormed (.flitReceive 3 ⟨1, 0, true, false, 65536, 0, 0, 0, []⟩ true false) = false ∧
    wellFormed (.collData 22 9 0 0 0 0 0 (List.replicate 4097 0)) = false := by decide +kernel

theorem test_wellFormed_units : wellFormed (.matrixOpStart 64 false) = false ∧ wellFormed (.overflowMove 4) = false ∧
    wellFormed (.hbmAdmission 8 []) = false ∧
    wellFormed (.hbmTransactionComplete 3 0 [⟨750000000, none, .read, .clean, .clean, true, false⟩]) = false ∧
    wellFormed (.scalarInstruction 10240 0 .illegal) = false ∧ wellFormed (.scalarInstruction 3 8 .illegal) = false ∧
    wellFormed (.flagsRd 3 0 32) = false ∧ wellFormed (.specialFunction 3 0 0 .exp2 64 1) = false ∧
    wellFormed (.specialFunction 3 0 8 .exp2 1 1) = false ∧ wellFormed (.lrSc 32 (.lr 1 0 4)) = false ∧
    wellFormed (.collectiveOpStart 32) = false ∧ wellFormed (.temperatureAlarm 64) = false := by decide

theorem test_wellFormed_objects : wellFormed (.nop 16384 0) = false ∧ wellFormed (.contextResetComplete 4096) = false ∧
    wellFormed (.pageZeroDone 1048576 0) = false ∧ wellFormed (.taskGraphLoaded 65536) = false ∧
    wellFormed (.granuleZeroed 513) = false ∧ wellFormed (.vfFlr 0) = false ∧ wellFormed (.vfFlr 513) = false ∧
    wellFormed (.openAck 3 9 64 0) = false ∧ wellFormed (.engineResetCommand (.host false) (2 ^ 20)) = false := by decide

/-! ## Worked example of R173: the tollgate's bounds for Model A OUT r -/

/-- Model A OUT r: 128 × 15,360 outputs of BF16 over K = 1,920 elements of FP8. -/
def outR : MatOp :=
  { op := 1, fmtA := 0, fmtB := 0, fmtOut := 8, split := 0, aT := false, bT := false, round := false, ovfInf := false
    waitDrain := false, batch := 1, m := 128, n := 15360, k := 1920, lda := 2048, ldb := 15360, ldc := 30720, aAddr := 0
    bAddr := 2 ^ 52, cAddr := 2 ^ 53, saAddr := 0, sbAddr := 0, scAddr := 0 }

/-- An operand object, wholly resident in the scratch of cluster 0 or in HBM. -/
def outRMem (c : Option Nat) : MemObj :=
  { memA with size := 2 ^ 25, cluster := c, resident := if c.isSome then List.range 16 else [] }

/-- The operands of OUT r. -/
def outRState (c : Option Nat) : State := { State.reset with mems := [(1, outRMem c), (2, outRMem c), (3, outRMem none)] }

/-- The launch that names them. -/
def outRLaunch : Launch := { W07.lnA [] with args := [0x30000001, 0x30000002, 0x30000003] }

/-- Chapter 06, the worked example of R173 (scratch operands). -/
theorem test_out_r_in_scratch : opCycles (outRState (some 0)) outRLaunch (some 0) 0 outR = 57895 := by decide +kernel

/-! ## More worked examples of the manual -/

/-- Chapter 01, after R21: slot 7 of board 0x0_2A41 is node 0x02_A417. -/
theorem test_node_id : nodeId up = 0x2A417 := by decide

/-- The state after one command from a given state; reset where it did not run. -/
def after (i : Instr) (s : State) : State :=
  match exec i s with
  | .next t => t
  | _ => State.reset

/-- Chapter 02: a write of 13 to TEST_WINDOW_SCALE reads back as 10 (R10). -/
theorem test_scale_clamps :
    regRead (after (.registerWrite (.host false) .clkMsCtrl 13) up) .clkMsCtrl % 16 = 10 := by decide +kernel

/-- Chapter 03: a write of 0x07FF_0000 to HIF_VF_QUOTA_A of an IDLE VF reads back as 0x0400_0001. -/
theorem test_quota_clamps :
    regRead (after (.registerWrite (.host false) (.hifVfQuotaA 12) 0x07FF0000) up) (.hifVfQuotaA 12) = 0x04000001 := by
  decide +kernel

/-- Chapter 03: a write of 5 to HIF_VF_PLACE has no effect, a write of 3 has one. -/
theorem test_place_refuses :
    regRead (after (.registerWrite (.host false) (.hifVfPlace 12) 5) up) (.hifVfPlace 12) % 16 = 0 ∧
    regRead (after (.registerWrite (.host false) (.hifVfPlace 12) 3) up) (.hifVfPlace 12) % 16 = 3 := by decide +kernel

/-- Chapter 07: cancellation inside one block of FP8 E4M3 gives 2⁻¹⁸ exactly. -/
theorem test_block_cancels : blockResult 0 0 [0x7E, 0xFE, 0x01] [0x7E, 0x7E, 0x01] 0 0 = (0x36800000, 0) := by
  decide +kernel

/-- Chapter 07: stochastic rounding of 1 + 2⁻⁹ to BF16, by two draws, and to nearest even. -/
theorem test_bf16_draws :
    (outElem 8 false (some 0x2A10) 0x3F804000).1 = 0x3F81 ∧ (outElem 8 false (some 0x9C40) 0x3F804000).1 = 0x3F80 ∧
    (outElem 8 false none 0x3F804000).1 = 0x3F80 := by decide +kernel

/-- Chapter 07: one MXFP8 E4M3 output block, 1,000.0, −3.0 and 0.01 in a row's block of 32. -/
theorem test_mxfp8_block :
    (mxBlock 2 (List.replicate 32 none) (([0x447A0000, 0xC0400000, 0x3C23D70A] ++ List.replicate 29 0).map ofFp32)).1 = 128 ∧
    (mxBlock 2 (List.replicate 32 none) (([0x447A0000, 0xC0400000, 0x3C23D70A] ++ List.replicate 29 0).map ofFp32)).2.take 3 =
      [0x7E, 0xBC, 0x03] := by decide +kernel

/-- Chapter 10: the tag of the line at stack offset 0x4_0000_1240 lies in the tag line at 0xA_4765_2640. -/
theorem test_tag_line : tagLine (0x400001240 / 64) * 64 = 0xA47652640 := by decide

/-- Chapter 13: 2²⁴ + 1.0 − 2²⁴ by arrival order, and in another order. -/
theorem test_arrival_order :
    (fp32Add (fp32Add 0x4B800000 0x3F800000).1 0xCB800000).1 = 0 ∧
    (fp32Add (fp32Add 0x4B800000 0xCB800000).1 0x3F800000).1 = 0x3F800000 := by decide +kernel

/-- Chapter 13: the three contributions on the grid of E = 24. -/
theorem test_window_grid :
    (quantise 24 0 (.fp (ofFp32 0x4B800000) 0x4B800000)).1 = 2 ^ 99 ∧
    (quantise 24 0 (.fp (ofFp32 0x3F800000) 0x3F800000)).1 = 2 ^ 75 ∧
    (quantise 24 0 (.fp (ofFp32 0x17800000) 0x17800000)).1 = 0 := by decide +kernel

end Sys2Proof.Tests
end

section
/-!
What holds of every command: it answers a next state, and it keeps what `Keeps` says, within
the parts `partsOf` names.
-/
namespace Sys2Proof.Proofs
open Sys2Proof.Machine Sys2Proof.Laws

/-! ## What every command keeps -/

/-- Every command answers a next state (log 12): each row of the table is a state update, COMPLETION_TIMEOUT of a fetch by way
of FETCH_ERROR. -/
theorem exec_next (c : Instr) (s : State) : ∃ t, exec c s = .next t := by
  cases c
  case completionTimeout qp sub fetch => cases fetch <;> exact ⟨_, rfl⟩
  all_goals exact ⟨_, rfl⟩

/-- A command that answers keeps memory canonical, the queue and what is permanent, and changes only its own parts: the
law of each row of the table, within the parts that the row names. -/
theorem exec_keeps {c : Instr} {s t : State} (h : exec c s = .next t) : Keeps (partMask (partsOf c)) s t := by
  have start := keeps_refl (partMask (partsOf c)) s
  cases c
  all_goals dsimp only [partsOf] at start ⊢
  case registerWrite src r v => exact execRegisterWrite_keeps start rfl src r v t h
  case shadowApply b => exact execShadowApply_keeps start rfl b t h
  case setUpLock src v => exact execSetUpLock_keeps start rfl src v t h
  case lowHalfWrite src r v => exact execLowHalfWrite_keeps start rfl src r v t h
  case highHalfWrite src r v => exact execHighHalfWrite_keeps start rfl src r v t h
  case lowHalfRead src r => exact execLowHalfRead_keeps start rfl src r t h
  case blockedRegisterAccess src r wr => exact execBlockedRegisterAccess_keeps start rfl src r wr t h
  case powerUp vbat => exact execPowerUp_keeps start rfl vbat t h
  case bulkCharged => exact execBulkCharged_keeps start rfl t h
  case strapSample role slot board => exact execStrapSample_keeps start rfl role slot board t h
  case railsInRegulation => exact execRailsInRegulation_keeps start rfl t h
  case perstNAssert ns => exact execPerstNAssert_keeps start rfl ns t h
  case perstNRelease => exact execPerstNRelease_keeps start rfl t h
  case modResetNAssert ns => exact execModResetNAssert_keeps start rfl ns t h
  case modResetNRelease => exact execModResetNRelease_keeps start rfl t h
  case powerFailConfirm => exact execPowerFailConfirm_keeps start rfl t h
  case powerFailStop => exact execPowerFailStop_keeps start rfl t h
  case powerFailCommit => exact execPowerFailCommit_keeps start rfl t h
  case railsFall => exact execRailsFall_keeps start rfl t h
  case powerReturnStable vbat => exact execPowerReturnStable_keeps start rfl vbat t h
  case tamperLoopCheck okA okB => exact execTamperLoopCheck_keeps start rfl okA okB t h
  case meshCheck ok => exact execMeshCheck_keeps start rfl ok t h
  case vbatLoss mv => exact execVbatLoss_keeps start rfl mv t h
  case voltageAlarm rail => exact execVoltageAlarm_keeps start rfl rail t h
  case clockAlarm clock => exact execClockAlarm_keeps start rfl clock t h
  case temperatureAlarm sensor => exact execTemperatureAlarm_keeps start rfl sensor t h
  case tamperAlarmArrival => exact execTamperAlarmArrival_keeps start rfl t h
  case inletOverTemperature temp => exact execInletOverTemperature_keeps start rfl temp t h
  case thermalLoop hottest => exact execThermalLoop_keeps start rfl hottest t h
  case thermalStageRelease hottest => exact execThermalStageRelease_keeps start rfl hottest t h
  case thermalTripRecovery => exact execThermalTripRecovery_keeps start rfl t h
  case powerLimiterTick watts => exact execPowerLimiterTick_keeps start rfl watts t h
  case startSequence => exact execStartSequence_keeps start rfl t h
  case milestoneAdvance r => exact execMilestoneAdvance_keeps start rfl r t h
  case progressTick => exact execProgressTick_keeps start rfl t h
  case stallWindowExpire => exact execStallWindowExpire_keeps start rfl t h
  case milestoneLimitExpire => exact execMilestoneLimitExpire_keeps start rfl t h
  case faultPathHoldEnd => exact execFaultPathHoldEnd_keeps start rfl t h
  case numvfsWrite n => exact execNumvfsWrite_keeps start rfl n t h
  case vfEnableWrite on => exact execVfEnableWrite_keeps start rfl on t h
  case vfFlr v => exact execVfFlr_keeps start rfl v t h
  case pfFlr => exact execPfFlr_keeps start rfl t h
  case hostLinkError => exact execHostLinkError_keeps start rfl t h
  case hostLinkDown => exact execHostLinkDown_keeps start rfl t h
  case ideIntegrityFailure stream => exact execIdeIntegrityFailure_keeps start rfl stream t h
  case pfBarChange => exact execPfBarChange_keeps start rfl t h
  case lockInterfaceRequest stream => exact execLockInterfaceRequest_keeps start rfl stream t h
  case startInterfaceRequest => exact execStartInterfaceRequest_keeps start rfl t h
  case stopInterfaceRequest => exact execStopInterfaceRequest_keeps start rfl t h
  case doeDiscovery => exact execDoeDiscovery_keeps start rfl t h
  case getCertificate slot => exact execGetCertificate_keeps start rfl slot t h
  case spdmChallenge slot nonce => exact execSpdmChallenge_keeps start rfl slot nonce t h
  case getMeasurements nonce => exact execGetMeasurements_keeps start rfl nonce t h
  case keyExchange share => exact execKeyExchange_keeps start rfl share t h
  case ideKmKeyProg stream key => exact execIdeKmKeyProg_keeps start rfl stream key t h
  case commit src v => exact execCommit_keeps start rfl src v t h
  case release src v => exact execRelease_keeps start rfl src v t h
  case vfHostDrain v reads => exact execVfHostDrain_keeps start rfl v reads t h
  case vfContextsAborted v => exact execVfContextsAborted_keeps start rfl v t h
  case vfResourcesAccounted v => exact execVfResourcesAccounted_keeps start rfl v t h
  case vfTeardownEnd v => exact execVfTeardownEnd_keeps start rfl v t h
  case vfStateRecordWrite => exact execVfStateRecordWrite_keeps start rfl t h
  case granuleZeroed fn => exact execGranuleZeroed_keeps start rfl fn t h
  case vfMsixWrite v off be val => exact execVfMsixWrite_keeps start rfl v off be val t h
  case msixUnmask fn vec => exact execMsixUnmask_keeps start rfl fn vec t h
  case doorbellSq bar page bound v => exact execDoorbellSq_keeps start rfl bar page bound v t h
  case doorbellCq bar page bound v => exact execDoorbellCq_keeps start rfl bar page bound v t h
  case queueArm bar page bound => exact execQueueArm_keeps start rfl bar page bound t h
  case build fn bound v => exact execBuild_keeps start rfl fn bound v t h
  case unbuild fn bound v => exact execUnbuild_keeps start rfl fn bound v t h
  case serviceQueueUnbuilt fn => exact execServiceQueueUnbuilt_keeps start rfl fn t h
  case descriptorFetch qp raw => exact execDescriptorFetch_keeps start rfl qp raw t h
  case fetchError qp => exact execFetchError_keeps start rfl qp t h
  case descriptorStart qp sub => exact execDescriptorStart_keeps start rfl qp sub t h
  case completionWrite qp sub => exact execCompletionWrite_keeps start rfl qp sub t h
  case nop qp sub => exact execNop_keeps start rfl qp sub t h
  case ackAttention qp sub => exact execAckAttention_keeps start rfl qp sub t h
  case getAttention qp sub => exact execGetAttention_keeps start rfl qp sub t h
  case createContext qp sub => exact execCreateContext_keeps start rfl qp sub t h
  case destroyContext qp sub => exact execDestroyContext_keeps start rfl qp sub t h
  case resetContext qp sub => exact execResetContext_keeps start rfl qp sub t h
  case contextResetComplete ctx => exact execContextResetComplete_keeps start rfl ctx t h
  case createQueuePair qp sub => exact execCreateQueuePair_keeps start rfl qp sub t h
  case destroyQueuePair qp sub => exact execDestroyQueuePair_keeps start rfl qp sub t h
  case createMemory qp sub => exact execCreateMemory_keeps start rfl qp sub t h
  case destroyMemory qp sub => exact execDestroyMemory_keeps start rfl qp sub t h
  case createEvent qp sub => exact execCreateEvent_keeps start rfl qp sub t h
  case destroyEvent qp sub => exact execDestroyEvent_keeps start rfl qp sub t h
  case exportEvent qp sub => exact execExportEvent_keeps start rfl qp sub t h
  case loadTaskGraph qp sub badSig => exact execLoadTaskGraph_keeps start rfl qp sub badSig t h
  case taskGraphLoaded graph => exact execTaskGraphLoaded_keeps start rfl graph t h
  case destroyTaskGraph qp sub => exact execDestroyTaskGraph_keeps start rfl qp sub t h
  case copy qp sub host fail => exact execCopy_keeps start rfl qp sub host fail t h
  case fill qp sub => exact execFill_keeps start rfl qp sub t h
  case launchGraph qp sub => exact execLaunchGraph_keeps start rfl qp sub t h
  case eventSignal qp sub => exact execEventSignal_keeps start rfl qp sub t h
  case eventAdd qp sub => exact execEventAdd_keeps start rfl qp sub t h
  case eventReset qp sub => exact execEventReset_keeps start rfl qp sub t h
  case eventWait qp sub => exact execEventWait_keeps start rfl qp sub t h
  case eventWaitTimeout qp sub => exact execEventWaitTimeout_keeps start rfl qp sub t h
  case eventQuery qp sub => exact execEventQuery_keeps start rfl qp sub t h
  case eventRemote qp sub => exact execEventRemote_keeps start rfl qp sub t h
  case eventReq node op handle value txn => exact execEventReq_keeps start rfl node op handle value txn t h
  case eventRsp qp sub status => exact execEventRsp_keeps start rfl qp sub status t h
  case eventRemoteTimeout qp sub => exact execEventRemoteTimeout_keeps start rfl qp sub t h
  case heartbeat fn => exact execHeartbeat_keeps start rfl fn t h
  case destructionComplete handle => exact execDestructionComplete_keeps start rfl handle t h
  case overflowMove part => exact execOverflowMove_keeps start rfl part t h
  case taskPlace part => exact execTaskPlace_keeps start rfl part t h
  case taskEnd launch task e => exact execTaskEnd_keeps start rfl launch task e t h
  case exitActionComplete launch task => exact execExitActionComplete_keeps start rfl launch task t h
  case launchComplete launch => exact execLaunchComplete_keeps start rfl launch t h
  case generationResolvable gen => exact execGenerationResolvable_keeps start rfl gen t h
  case commitPoint gen => exact execCommitPoint_keeps start rfl gen t h
  case versionSpaceReturn gen => exact execVersionSpaceReturn_keeps start rfl gen t h
  case oldGranuleFree gen => exact execOldGranuleFree_keeps start rfl gen t h
  case launchCancel qp sub => exact execLaunchCancel_keeps start rfl qp sub t h
  case provDiscard qp sub => exact execProvDiscard_keeps start rfl qp sub t h
  case provQuery qp sub => exact execProvQuery_keeps start rfl qp sub t h
  case matrixOpStart c staged => exact execMatrixOpStart_keeps start rfl c staged t h
  case chunkLoadComplete c staged sub cy => exact execChunkLoadComplete_keeps start rfl c staged sub cy t h
  case blockBankComplete c sub cy => exact execBlockBankComplete_keeps start rfl c sub cy t h
  case bankFree c cy => exact execBankFree_keeps start rfl c cy t h
  case matrixTaskEnd c overrun => exact execMatrixTaskEnd_keeps start rfl c overrun t h
  case matrixPoisonedLoad c staged sub => exact execMatrixPoisonedLoad_keeps start rfl c staged sub t h
  case matrixUncorrectableError c => exact execMatrixUncorrectableError_keeps start rfl c t h
  case correctedError site => exact execCorrectedError_keeps start rfl site t h
  case gapBegin c => exact execGapBegin_keeps start rfl c t h
  case gapWindowExpire c dummy => exact execGapWindowExpire_keeps start rfl c dummy t h
  case rampWindowGrant p => exact execRampWindowGrant_keeps start rfl p t h
  case rampUpComplete c => exact execRampUpComplete_keeps start rfl c t h
  case rampDownComplete c => exact execRampDownComplete_keeps start rfl c t h
  case scalarInstruction core th ins => exact execScalarInstruction_keeps start rfl core th ins t h
  case vectorArithmetic core th m ins => exact execVectorArithmetic_keeps start rfl core th m ins t h
  case specialFunction core th m f vd va => exact execSpecialFunction_keeps start rfl core th m f vd va t h
  case crossLaneReduction core th m op vd va => exact execCrossLaneReduction_keeps start rfl core th m op vd va t h
  case cast core th m op vd va sc => exact execCast_keeps start rfl core th m op vd va sc t h
  case vrand core th m vd => exact execVrand_keeps start rfl core th m vd t h
  case flagsRd core th rd => exact execFlagsRd_keeps start rfl core th rd t h
  case flagsClr core th bits => exact execFlagsClr_keeps start rfl core th bits t h
  case argbase core th rd k => exact execArgbase_keeps start rfl core th rd k t h
  case vectorLoadStore core th m ins => exact execVectorLoadStore_keeps start rfl core th m ins t h
  case gatherScatter core th m ins => exact execGatherScatter_keeps start rfl core th m ins t h
  case lineFill core th => exact execLineFill_keeps start rfl core th t h
  case atomic core th op rd ra rb size => exact execAtomic_keeps start rfl core th op rd ra rb size t h
  case cflush core th ra rb => exact execCflush_keeps start rfl core th ra rb t h
  case cinv core th ra rb => exact execCinv_keeps start rfl core th ra rb t h
  case cflushinv core th ra rb => exact execCflushinv_keeps start rfl core th ra rb t h
  case mfence core th => exact execMfence_keeps start rfl core th t h
  case mfenceComplete core th => exact execMfenceComplete_keeps start rfl core th t h
  case vectorUncorrectableError core site => exact execVectorUncorrectableError_keeps start rfl core site t h
  case lrSc core ins => exact execLrSc_keeps start rfl core ins t h
  case amo core op rd addr value size => exact execAmo_keeps start rfl core op rd addr value size t h
  case cboClean core addr stored => exact execCboClean_keeps start rfl core addr stored t h
  case cboFlush core addr stored => exact execCboFlush_keeps start rfl core addr stored t h
  case cboInval core addr stored => exact execCboInval_keeps start rfl core addr stored t h
  case fence core => exact execFence_keeps start rfl core t h
  case fenceI core => exact execFenceI_keeps start rfl core t h
  case exit core a0 overrun stored => exact execExit_keeps start rfl core a0 overrun stored t h
  case envCallArgbase core k => exact execEnvCallArgbase_keeps start rfl core k t h
  case time core => exact execTime_keeps start rfl core t h
  case serviceCoreError core => exact execServiceCoreError_keeps start rfl core t h
  case firmwareStall core => exact execFirmwareStall_keeps start rfl core t h
  case memProtect qp sub => exact execMemProtect_keeps start rfl qp sub t h
  case rulesChangePoint qp sub => exact execRulesChangePoint_keeps start rfl qp sub t h
  case rulesFence qp sub => exact execRulesFence_keeps start rfl qp sub t h
  case rulesFenceComplete qp sub => exact execRulesFenceComplete_keeps start rfl qp sub t h
  case cstReside qp sub => exact execCstReside_keeps start rfl qp sub t h
  case cstEvict qp sub => exact execCstEvict_keeps start rfl qp sub t h
  case memQuery qp sub => exact execMemQuery_keeps start rfl qp sub t h
  case poisonScan qp sub => exact execPoisonScan_keeps start rfl qp sub t h
  case pageZeroDone slot page => exact execPageZeroDone_keeps start rfl slot page t h
  case hbmAdmission stack new => exact execHbmAdmission_keeps start rfl stack new t h
  case hbmTransactionComplete stack id lines => exact execHbmTransactionComplete_keeps start rfl stack id lines t h
  case correctedLineRewrite stack line => exact execCorrectedLineRewrite_keeps start rfl stack line t h
  case clusterStoreUncorrectable cluster slot off =>
    exact execClusterStoreUncorrectable_keeps start rfl cluster slot off t h
  case badgerChunkRead stack lines => exact execBadgerChunkRead_keeps start rfl stack lines t h
  case allocRequest pool reqs => exact execAllocRequest_keeps start rfl pool reqs t h
  case bufferFree pool buf => exact execBufferFree_keeps start rfl pool buf t h
  case reservationLapse pool req => exact execReservationLapse_keeps start rfl pool req t h
  case haltHeartbeatStop => exact execHaltHeartbeatStop_keeps start rfl t h
  case layoutSwitchDone => exact execLayoutSwitchDone_keeps start rfl t h
  case flitReceive port f crcOk tagOk => exact execFlitReceive_keeps start rfl port f crcOk tagOk t h
  case nak port seq => exact execNak_keeps start rfl port seq t h
  case replayTimerExpire port => exact execReplayTimerExpire_keeps start rfl port t h
  case retrain src port => exact execRetrain_keeps start rfl src port t h
  case laneFailure port lane => exact execLaneFailure_keeps start rfl port lane t h
  case retrainComplete port => exact execRetrainComplete_keeps start rfl port t h
  case retrainLimitExpire port => exact execRetrainLimitExpire_keeps start rfl port t h
  case trainingAttempt port => exact execTrainingAttempt_keeps start rfl port t h
  case trainingComplete port => exact execTrainingComplete_keeps start rfl port t h
  case hello port node peerPort serial role conf digest =>
    exact execHello_keeps start rfl port node peerPort serial role conf digest t h
  case helloResend port => exact execHelloResend_keeps start rfl port t h
  case planChangeCheck port => exact execPlanChangeCheck_keeps start rfl port t h
  case transitStallExpire port vc => exact execTransitStallExpire_keeps start rfl port vc t h
  case routeWrite src => exact execRouteWrite_keeps start rfl src t h
  case routeRead src => exact execRouteRead_keeps start rfl src t h
  case beaconTimer => exact execBeaconTimer_keeps start rfl t h
  case beacon port node prio serial term held => exact execBeacon_keeps start rfl port node prio serial term held t h
  case claimExpire => exact execClaimExpire_keeps start rfl t h
  case announceTimer => exact execAnnounceTimer_keeps start rfl t h
  case announce port node term standby takeover =>
    exact execAnnounce_keeps start rfl port node term standby takeover t h
  case keepaliveTimer => exact execKeepaliveTimer_keeps start rfl t h
  case keepalive port node term step arrived => exact execKeepalive_keeps start rfl port node term step arrived t h
  case keepaliveLoss => exact execKeepaliveLoss_keeps start rfl t h
  case relinquish port node => exact execRelinquish_keeps start rfl port node t h
  case resyncReport node step arrived => exact execResyncReport_keeps start rfl node step arrived t h
  case announceWatchExpire => exact execAnnounceWatchExpire_keeps start rfl t h
  case noManagerExpire => exact execNoManagerExpire_keeps start rfl t h
  case planLoad src magic nChips nRoutes domain chips routes =>
    exact execPlanLoad_keeps start rfl src magic nChips nRoutes domain chips routes t h
  case plan port node treePort plans routes => exact execPlan_keeps start rfl port node treePort plans routes t h
  case healthSummaryTimer => exact execHealthSummaryTimer_keeps start rfl t h
  case healthSummaryMissing node => exact execHealthSummaryMissing_keeps start rfl node t h
  case syncReqTimer => exact execSyncReqTimer_keeps start rfl t h
  case syncReq port node t1 => exact execSyncReq_keeps start rfl port node t1 t h
  case syncReply t2 t3 bound => exact execSyncReply_keeps start rfl t2 t3 bound t h
  case wmkPpsEdge => exact execWmkPpsEdge_keeps start rfl t h
  case timeSet src v => exact execTimeSet_keeps start rfl src v t h
  case arriveSignal => exact execArriveSignal_keeps start rfl t h
  case arrive port node step => exact execArrive_keeps start rfl port node step t h
  case advance port node term step time set => exact execAdvance_keeps start rfl port node term step time set t h
  case advanceApply => exact execAdvanceApply_keeps start rfl t h
  case stepSet src v => exact execStepSet_keeps start rfl src v t h
  case trigPost qp sub => exact execTrigPost_keeps start rfl qp sub t h
  case trigCancel qp sub => exact execTrigCancel_keeps start rfl qp sub t h
  case groupCreate qp sub => exact execGroupCreate_keeps start rfl qp sub t h
  case groupDestroy qp sub => exact execGroupDestroy_keeps start rfl qp sub t h
  case groupQuery qp sub => exact execGroupQuery_keeps start rfl qp sub t h
  case collectiveOpStart eng => exact execCollectiveOpStart_keeps start rfl eng t h
  case exp port node tag seq sig first exps => exact execExp_keeps start rfl port node tag seq sig first exps t h
  case go port node tag seq sig first n exps => exact execGo_keeps start rfl port node tag seq sig first n exps t h
  case ready port node tag seq sig => exact execReady_keeps start rfl port node tag seq sig t h
  case done port node tag seq sig => exact execDone_keeps start rfl port node tag seq sig t h
  case abort port node tag seq sig reason rank fallback =>
    exact execAbort_keeps start rfl port node tag seq sig reason rank fallback t h
  case busy port node tag seq kind => exact execBusy_keeps start rfl port node tag seq kind t h
  case busyRetry op kind rank => exact execBusyRetry_keeps start rfl op kind rank t h
  case collData port node tag seq seg rank chunk data =>
    exact execCollData_keeps start rfl port node tag seq seg rank chunk data t h
  case collAck port node tag seq kind => exact execCollAck_keeps start rfl port node tag seq kind t h
  case resendTimer op seg kind rank => exact execResendTimer_keeps start rfl op seg kind rank t h
  case operationTimeout op => exact execOperationTimeout_keeps start rfl op t h
  case caps port types members memKib => exact execCaps_keeps start rfl port types members memKib t h
  case swRefuse port tag seq seg => exact execSwRefuse_keeps start rfl port tag seq seg t h
  case switchSum port tag seq seg data => exact execSwitchSum_keeps start rfl port tag seq seg data t h
  case switchSumTimeout op => exact execSwitchSumTimeout_keeps start rfl op t h
  case reductionStoreError eng => exact execReductionStoreError_keeps start rfl eng t h
  case schedLoad qp sub => exact execSchedLoad_keeps start rfl qp sub t h
  case admissionComplete qp sub => exact execAdmissionComplete_keeps start rfl qp sub t h
  case tollgateCheck qp sub => exact execTollgateCheck_keeps start rfl qp sub t h
  case schedStart qp sub => exact execSchedStart_keeps start rfl qp sub t h
  case schedStop qp sub => exact execSchedStop_keeps start rfl qp sub t h
  case schedQuery qp sub => exact execSchedQuery_keeps start rfl qp sub t h
  case schedUnload qp sub => exact execSchedUnload_keeps start rfl qp sub t h
  case runnerStepStart ctx => exact execRunnerStepStart_keeps start rfl ctx t h
  case launchRetry qp sub => exact execLaunchRetry_keeps start rfl qp sub t h
  case runnerStepEnd ctx => exact execRunnerStepEnd_keeps start rfl ctx t h
  case readmission ctx => exact execReadmission_keeps start rfl ctx t h
  case streamOpen qp sub => exact execStreamOpen_keeps start rfl qp sub t h
  case openAck port node stream reason => exact execOpenAck_keeps start rfl port node stream reason t h
  case openResend stream => exact execOpenResend_keeps start rfl stream t h
  case streamClose qp sub => exact execStreamClose_keeps start rfl qp sub t h
  case streamQuery qp sub => exact execStreamQuery_keeps start rfl qp sub t h
  case streamPosition qp sub => exact execStreamPosition_keeps start rfl qp sub t h
  case ingestData port node stream txn first data =>
    exact execIngestData_keeps start rfl port node stream txn first data t h
  case idleFlush stream => exact execIdleFlush_keeps start rfl stream t h
  case holdAck port node stream => exact execHoldAck_keeps start rfl port node stream t h
  case resumeAck port node stream => exact execResumeAck_keeps start rfl port node stream t h
  case closeAck port node stream ssn => exact execCloseAck_keeps start rfl port node stream ssn t h
  case holdResendTimer stream => exact execHoldResendTimer_keeps start rfl stream t h
  case moverCopy stream => exact execMoverCopy_keeps start rfl stream t h
  case ckpConfig qp sub => exact execCkpConfig_keeps start rfl qp sub t h
  case ckpTrigger qp sub => exact execCkpTrigger_keeps start rfl qp sub t h
  case ckpDisarm qp sub => exact execCkpDisarm_keeps start rfl qp sub t h
  case ckpRestore qp sub => exact execCkpRestore_keeps start rfl qp sub t h
  case ckpQuery qp sub => exact execCkpQuery_keeps start rfl qp sub t h
  case snapshotPoint ctx => exact execSnapshotPoint_keeps start rfl ctx t h
  case chunkSend txn => exact execChunkSend_keeps start rfl txn t h
  case ack port node txn status chunk window => exact execAck_keeps start rfl port node txn status chunk window t h
  case chunkResendTimer txn chunk => exact execChunkResendTimer_keeps start rfl txn chunk t h
  case durable port node txn => exact execDurable_keeps start rfl port node txn t h
  case digestReport node rank step inc shape digest len store buddy result =>
    exact execDigestReport_keeps start rfl node rank step inc shape digest len store buddy result t h
  case manifestDone node step inc result => exact execManifestDone_keeps start rfl node step inc result t h
  case manifestWaitExpire ctx manager => exact execManifestWaitExpire_keeps start rfl ctx manager t h
  case statRsp port node txn status len valid => exact execStatRsp_keeps start rfl port node txn status len valid t h
  case putOpen node txn name len => exact execPutOpen_keeps start rfl node txn name len t h
  case putClose node txn digest => exact execPutClose_keeps start rfl node txn digest t h
  case getOpen node txn name first count bad => exact execGetOpen_keeps start rfl node txn name first count bad t h
  case ckpData port node txn off data => exact execCkpData_keeps start rfl port node txn off data t h
  case restoreChunk ctx => exact execRestoreChunk_keeps start rfl ctx t h
  case restoreComplete ctx => exact execRestoreComplete_keeps start rfl ctx t h
  case sessionOpen qp sub bound cfg => exact execSessionOpen_keeps start rfl qp sub bound cfg t h
  case sessionClose qp sub => exact execSessionClose_keeps start rfl qp sub t h
  case sessionReport qp sub => exact execSessionReport_keeps start rfl qp sub t h
  case keyImport qp sub => exact execKeyImport_keeps start rfl qp sub t h
  case keyErase qp sub => exact execKeyErase_keeps start rfl qp sub t h
  case memkeyLoad qp sub => exact execMemkeyLoad_keeps start rfl qp sub t h
  case memkeyErase qp sub => exact execMemkeyErase_keeps start rfl qp sub t h
  case weightMeasure qp sub => exact execWeightMeasure_keeps start rfl qp sub t h
  case logExport qp sub => exact execLogExport_keeps start rfl qp sub t h
  case publicKeySlotEnd => exact execPublicKeySlotEnd_keeps start rfl t h
  case uniformRefusalWrite qp sub => exact execUniformRefusalWrite_keeps start rfl qp sub t h
  case entropyHealthFailure => exact execEntropyHealthFailure_keeps start rfl t h
  case offer port switch b => exact execOffer_keeps start rfl port switch b t h
  case proof port sig => exact execProof_keeps start rfl port sig t h
  case finish port mac => exact execFinish_keeps start rfl port mac t h
  case reject port => exact execReject_keeps start rfl port t h
  case handshakeRetry port => exact execHandshakeRetry_keeps start rfl port t h
  case jtagExtest => exact execJtagExtest_keeps start rfl t h
  case jtagExtestExit => exact execJtagExtestExit_keeps start rfl t h
  case tokenDigestProgram slot d => exact execTokenDigestProgram_keeps start rfl slot d t h
  case transitionCommand src target => exact execTransitionCommand_keeps start rfl src target t h
  case transitionDecision eraseOk => exact execTransitionDecision_keeps start rfl eraseOk t h
  case partitionHwError part => exact execPartitionHwError_keeps start rfl part t h
  case chipHwError => exact execChipHwError_keeps start rfl t h
  case engineResetComplete unit test => exact execEngineResetComplete_keeps start rfl unit test t h
  case partitionResetComplete part ok => exact execPartitionResetComplete_keeps start rfl part ok t h
  case boundMiss r units parts => exact execBoundMiss_keeps start rfl r units parts t h
  case progressMiss r units parts => exact execProgressMiss_keeps start rfl r units parts t h
  case engineResetCommand src unit => exact execEngineResetCommand_keeps start rfl src unit t h
  case partitionResetCommand src unit => exact execPartitionResetCommand_keeps start rfl src unit t h
  case chipResetCommand src => exact execChipResetCommand_keeps start rfl src t h
  case ageingRead readings => exact execAgeingRead_keeps start rfl readings t h
  case replicaRead slack => exact execReplicaRead_keeps start rfl slack t h
  case marginFloorRetire c => exact execMarginFloorRetire_keeps start rfl c t h
  case dailyReplan => exact execDailyReplan_keeps start rfl t h
  case replan src => exact execReplan_keeps start rfl src t h
  case replanComplete volts clocks retire => exact execReplanComplete_keeps start rfl volts clocks retire t h
  case policyWrite src l v allowed unit => exact execPolicyWrite_keeps start rfl src l v allowed unit t h
  case placementCooldown c => exact execPlacementCooldown_keeps start rfl c t h
  case cooldownEnd c => exact execCooldownEnd_keeps start rfl c t h
  case eyeMonitorRead margins => exact execEyeMonitorRead_keeps start rfl margins t h
  case ledgerTimeLoad => exact execLedgerTimeLoad_keeps start rfl t h
  case meterTick energy charges => exact execMeterTick_keeps start rfl energy charges t h
  case intervalClose => exact execIntervalClose_keeps start rfl t h
  case periodStart => exact execPeriodStart_keeps start rfl t h
  case periodWrite src r v => exact execPeriodWrite_keeps start rfl src r v t h
  case dailyHealthRecord => exact execDailyHealthRecord_keeps start rfl t h
  case logbookCommit => exact execLogbookCommit_keeps start rfl t h
  case pageProgramFail last => exact execPageProgramFail_keeps start rfl last t h
  case logbookBlockErase => exact execLogbookBlockErase_keeps start rfl t h
  case ledgerRead qp sub => exact execLedgerRead_keeps start rfl qp sub t h
  case ledgerExport qp sub => exact execLedgerExport_keeps start rfl qp sub t h
  case logbookRead qp sub => exact execLogbookRead_keeps start rfl qp sub t h
  case setdasa static addr => exact execSetdasa_keeps start rfl static addr t h
  case entdaa addr => exact execEntdaa_keeps start rfl addr t h
  case setnewda addr => exact execSetnewda_keeps start rfl addr t h
  case rstdaa => exact execRstdaa_keeps start rfl t h
  case enec int => exact execEnec_keeps start rfl int t h
  case disec int => exact execDisec_keeps start rfl int t h
  case getstatus => exact execGetstatus_keeps start rfl t h
  case getpid => exact execGetpid_keeps start rfl t h
  case getbcr => exact execGetbcr_keeps start rfl t h
  case getdcr => exact execGetdcr_keeps start rfl t h
  case getmwl => exact execGetmwl_keeps start rfl t h
  case getmrl => exact execGetmrl_keeps start rfl t h
  case setmwl v => exact execSetmwl_keeps start rfl v t h
  case setmrl v => exact execSetmrl_keeps start rfl v t h
  case privateWrite bytes => exact execPrivateWrite_keeps start rfl bytes t h
  case privateRead => exact execPrivateRead_keeps start rfl t h
  case ibiRepeat => exact execIbiRepeat_keeps start rfl t h
  case ibiNackRetry => exact execIbiNackRetry_keeps start rfl t h
  case uartByte stop b => exact execUartByte_keeps start rfl stop b t h
  case uartGapDiscard => exact execUartGapDiscard_keeps start rfl t h
  case identity uart => exact execIdentity_keeps start rfl uart t h
  case status uart => exact execStatus_keeps start rfl uart t h
  case alertAck uart => exact execAlertAck_keeps start rfl uart t h
  case health uart => exact execHealth_keeps start rfl uart t h
  case domainView uart => exact execDomainView_keeps start rfl uart t h
  case recordRead uart => exact execRecordRead_keeps start rfl uart t h
  case ledger uart => exact execLedger_keeps start rfl uart t h
  case trayCap uart => exact execTrayCap_keeps start rfl uart t h
  case reset uart => exact execReset_keeps start rfl uart t h
  case lifecycle uart => exact execLifecycle_keeps start rfl uart t h
  case cabling uart => exact execCabling_keeps start rfl uart t h
  case challenge uart => exact execChallenge_keeps start rfl uart t h
  case trayProvision uart => exact execTrayProvision_keeps start rfl uart t h
  case fwWrite uart => exact execFwWrite_keeps start rfl uart t h
  case fwCommit uart a => exact execFwCommit_keeps start rfl uart a t h
  case fwFloor uart => exact execFwFloor_keeps start rfl uart t h
  case fwRevoke uart => exact execFwRevoke_keeps start rfl uart t h
  case closeResend stream => exact execCloseResend_keeps start rfl stream t h
  case coolantInletNormal temp => exact execCoolantInletNormal_keeps start rfl temp t h
  case entropyHealthRestored => exact execEntropyHealthRestored_keeps start rfl t h
  case healthSummary node summary => exact execHealthSummary_keeps start rfl node summary t h
  case completionTimeout qp sub fetch => exact execCompletionTimeout_keeps start rfl qp sub fetch t h
  case vfResizableBarWrite mib => exact execVfResizableBarWrite_keeps start rfl mib t h
  case hostLinkInL0 => exact execHostLinkInL0_keeps start rfl t h

/-- Settles O42: the state a command answers has the queue it was given (log 11, log 12: the model's choice). -/
theorem everyCommandCompletes : Obligations.EveryCommandCompletes := by
  intro c s
  obtain ⟨t, h⟩ := exec_next c s
  exact ⟨t, h, (exec_keeps h).pending⟩

end Sys2Proof.Proofs
end

section
/-!
SESSION_OPEN on a chip that may not open a session (R4, R447): what a uniform refusal and its
write leave.
-/
namespace Sys2Proof.Proofs
open Sys2Proof.Machine Sys2Proof.Laws

/-! ## Confidential mode on a KLS-T400-SX -/

@[simp] theorem runDesc_sec (qp sub n : Nat) (s : State) : (runDesc qp sub n s).sec = s.sec := rfl
@[simp] theorem endDesc_sec (qp sub : Nat) (r : Result) (s : State) : (endDesc qp sub r s).sec = s.sec := rfl

@[simp] theorem sealLog_cmd (op reason index detail : Nat) (s : State) : (sealLog op reason index detail s).cmd = s.cmd :=
  (sealLog_keeps (keeps_refl _ s) (sub_refl _) op reason index detail).only.cmd rfl

@[simp] theorem sealLog_session (op reason index detail : Nat) (s : State) :
    (sealLog op reason index detail s).sec.session = s.sec.session := by
  unfold sealLog
  split <;> rfl

/-- Confidential mode is read off the session alone. -/
theorem confidential_congr {s t : State} (h : t.sec.session = s.sec.session) : confidential t = confidential s := by
  simp [confidential, h]

/-- A chip whose OTP says KLS-T400-SX meets no precondition of R435. -/
theorem mayOpen_sx {s : State} (h : s.nv.otp.cx = false) (bound : Bool) : mayOpen s bound = false := by
  simp [mayOpen, h]

@[simp] theorem uniformRefuse_session (d : Desc) (reason : Nat) (s : State) :
    (uniformRefuse d reason s).sec.session = s.sec.session := by
  simp [uniformRefuse]

/-- A uniform refusal puts the descriptor among those that wait for their write. -/
theorem mem_refusals_uniformRefuse (d : Desc) (reason : Nat) (s : State) :
    (d.qp, d.sub) ∈ (uniformRefuse d reason s).sec.refusals := by
  simp [uniformRefuse]

/-- A descriptor that is uniformly refused runs on until its write. -/
theorem findDesc_uniformRefuse {s : State} {d : Desc} (reason : Nat) (h : findDesc s d.qp d.sub = some d) :
    findDesc (uniformRefuse d reason s) d.qp d.sub = some { d with phase := .running, note := 0 } := by
  have sealed : findDesc (sealLog (dOp d) reason (d.pos % 65536) 0 s) d.qp d.sub = some d :=
    (findDesc_congr (by simp) _ _).trans h
  exact findDesc_runDesc 0 sealed

/-- A started SESSION_OPEN whose preconditions fail is uniformly refused, whatever configuration it carries (R436, R447). -/
theorem sessionOpen_refused {s : State} {qp sub : Nat} {d : Desc} {bound : Bool} (h : Started s qp sub 0x60 d)
    (n : mayOpen s bound = false) (cfg : Option (List Byte)) :
    exec (.sessionOpen qp sub bound cfg) s = .next (uniformRefuse d 7 s) := by
  show execSessionOpen qp sub bound cfg s = _
  rw [execSessionOpen, onStarted_started h, n]
  rfl

/-- UNIFORM_REFUSAL_WRITE ends a refused descriptor with NOT_PERMITTED and leaves the session alone. -/
theorem uniformRefusalWrite_runs {t : State} {qp sub : Nat} {d : Desc} (m : (qp, sub) ∈ t.sec.refusals)
    (f : findDesc t qp sub = some d) (e : dEnded d = false) :
    Runs (.uniformRefusalWrite qp sub) t fun u =>
      resultOf u qp sub = some (resOf 0x13) ∧ u.sec.session = t.sec.session := by
  refine ⟨_, congrArg Host.Outcome.next (if_pos (List.contains_iff_mem.mpr m)), ?_, ?_⟩
  · exact resultOf_endDesc _ ((findDesc_congr rfl _ _).trans f) e
  · simp

/-- Settles O55: on a KLS-T400-SX the preconditions of R435 never hold, so SESSION_OPEN is uniformly refused. -/
theorem sxRefusesConfidentialMode : Obligations.SxRefusesConfidentialMode := by
  intro s qp sub d bound cfg sx started
  refine ⟨_, sessionOpen_refused started (mayOpen_sx sx bound) cfg, ?_⟩
  obtain ⟨found, -, -⟩ := started
  obtain ⟨rfl, rfl⟩ := findDesc_place found
  have same := uniformRefuse_session d 7 s
  have waits := mem_refusals_uniformRefuse d 7 s
  obtain ⟨u, run, result, kept⟩ := uniformRefusalWrite_runs waits (findDesc_uniformRefuse 7 found) rfl
  exact ⟨confidential_congr same, same, waits, u, run, result, confidential_congr (kept.trans same), kept.trans same⟩

end Sys2Proof.Proofs
end

section
/-!
Register accesses (chapter 00): which reach their block, live and quiescent fields, the set-up
lock and the halves of 64-bit registers.
-/
namespace Sys2Proof.Proofs
open Sys2Proof.Machine Sys2Proof.Laws

/-! ## Register accesses: those that reach their block, and those that do not (R42) -/

/-- A write that reaches its block. -/
theorem registerWrite_open {s : State} {src : Src} {r : Reg} (h : regOpen s src r true = true) (v : DWord) :
    exec (.registerWrite src r v) s = .next (regWrite r v.toNat s) :=
  congrArg Host.Outcome.next (if_pos h)

/-- A write that does not reach its block. -/
theorem registerWrite_shut {s : State} {src : Src} {r : Reg} (h : regOpen s src r true = false) (v : DWord) :
    exec (.registerWrite src r v) s = .next s :=
  congrArg Host.Outcome.next (if_neg (Bool.eq_false_iff.mp h))

/-- A set-up lock that reaches the CLK block. -/
theorem setUpLock_open {s : State} {src : Src} (h : regOpen s src .clkMsCtrl true = true) (v : Word) :
    exec (.setUpLock src v) s = .next (writeMsCtrl v.toNat s) :=
  congrArg Host.Outcome.next (if_pos h)

/-- A low half that reaches its register is held. -/
theorem lowHalfWrite_open {s : State} {src : Src} {r : Reg} (h : regOpen s src r true = true) (w : reg64 r = true)
    (v : Word) : exec (.lowHalfWrite src r v) s = .next { s with hold64 := (r, v) :: halfDrop s.hold64 r } :=
  congrArg Host.Outcome.next (if_pos (by rw [h, w]; rfl))

/-- A high half that reaches its register applies with the low half. -/
theorem highHalfWrite_open {s : State} {src : Src} {r : Reg} (h : regOpen s src r true = true) (w : reg64 r = true)
    (v : Word) : exec (.highHalfWrite src r v) s =
      .next (regWrite64 r (v.toNat * 2 ^ 32 + lowHalf s r) { s with hold64 := halfDrop s.hold64 r }) :=
  congrArg Host.Outcome.next (if_pos (by rw [h, w]; rfl))

/-- A low half read from a register that answers latches the high half. -/
theorem lowHalfRead_open {s : State} {src : Src} {r : Reg} (h : regOpen s src r false = true) (w : reg64 r = true) :
    exec (.lowHalfRead src r) s = .next { s with
      latch64 := (r, BitVec.ofNat 32 (regRead s r / 2 ^ 32)) :: halfDrop s.latch64 r
      out := .readData r (BitVec.ofNat 64 (regRead s r % 2 ^ 32)) :: s.out } := by
  obtain ⟨o, b⟩ : srcOpen s src = true ∧ regBlocked s r false = false := by simpa [regOpen] using h
  show execLowHalfRead src r s = _
  rw [execLowHalfRead, o, b, w]
  rfl

/-- A blocked read returns 0. -/
theorem blockedRegisterAccess_read {s : State} {src : Src} {r : Reg} (o : srcOpen s src = true)
    (b : regBlocked s r false = true) :
    exec (.blockedRegisterAccess src r false) s = .next { s with out := .readData r 0 :: s.out } :=
  congrArg Host.Outcome.next (if_pos (by rw [o, b]; rfl))

/-- A blocked write does nothing. -/
theorem blockedRegisterAccess_write (s : State) (src : Src) (r : Reg) :
    exec (.blockedRegisterAccess src r true) s = .next s :=
  congrArg Host.Outcome.next (if_neg (by simp))

/-! ## Live fields (R9 to R11) -/

/-- TARGET of LCS_CMD is a reference: an unknown code keeps it. -/
theorem regWrite_lcsCmd (v : Nat) (s : State) : regWrite .lcsCmd v s = { s with lcs := { s.lcs with
    target := if lcLegal (bitsOf v 0 8) then bitsOf v 0 8 else s.lcs.target } } := by
  show (if lcLegal (bitsOf v 0 8) then _ else s) = _
  split <;> rfl

/-- Settles O1: a write that reaches its block is `regWrite`, whose live registers clamp each field (log 21: GO of LCS_CMD has a
row of its own; log 23: which accesses reach their block). -/
theorem registerWriteClampsLiveFields : Obligations.RegisterWriteClampsLiveFields :=
  ⟨fun _ _ v h => registerWrite_open h v, fun _ _ v h => registerWrite_open h v, fun _ _ v h => registerWrite_open h v,
   fun _ _ v h => registerWrite_open h v, fun _ _ v h => registerWrite_open h v, fun _ _ v h => registerWrite_open h v,
   fun _ _ v _ h => registerWrite_open h v,
   fun s _ v h => (registerWrite_open h v).trans (congrArg Host.Outcome.next (regWrite_lcsCmd v.toNat s)),
   fun _ _ v _ h => registerWrite_shut h v⟩

/-! ## Quiescent fields (R9) -/

/-- SHADOW_APPLY at a quiescent point of the block. -/
theorem shadowApply_quiescent {s : State} {b : QBlock} (h : quiescent s b = true) :
    exec (.shadowApply b) s = .next (shadowApply b s) :=
  congrArg Host.Outcome.next (if_pos h)

/-- SHADOW_APPLY while the block is not quiescent. -/
theorem shadowApply_busy {s : State} {b : QBlock} (h : quiescent s b = false) : exec (.shadowApply b) s = .next s :=
  congrArg Host.Outcome.next (if_neg (Bool.eq_false_iff.mp h))

/-- RAMP_STARTS: in force at once while the matrix engines are quiescent, else in the shadow (R175). -/
theorem regWrite_mxeCtrl (v : Nat) (s : State) : regWrite .mxeCtrl v s =
    if quiescent s .mxe then
      { s with mxe := { s.mxe with rampStarts := clampTo 1 4 (bitsOf v 0 3), pend := none } }
    else { s with mxe := { s.mxe with pend := some (clampTo 1 4 (bitsOf v 0 3)) } } := rfl

/-- INTERVAL_MIN while an interval is open (R520). -/
theorem regWrite_pwrInterval_open {s : State} (h : s.led.openIv.isSome = true) (v : Nat) :
    regWrite .pwrInterval v s = { s with pwr := { s.pwr with
      intervalPending := some (clampTo 1 60 (bitsOf v 0 6)) } } :=
  if_neg (by simpa [quiescent] using Option.isSome_iff_ne_none.mp h)

/-- The fields of a VF entry written by PENDING bit, over what is pending. -/
def vfPended (fs : List (Nat × Nat)) (e : VfEntry) : VfEntry :=
  { e with pend := fs.foldl (fun p f => tput p f.1 f.2) e.pend }

/-- A VF entry whose pending values are applied. -/
def vfApplied (e : VfEntry) : VfEntry := { e with quota := shownQuota e, pend := [] }

/-- Setting fields of a VF entry one by one sets them all in its shadow. -/
theorem vfOf_foldl_pendVf (n : Nat) (fs : List (Nat × Nat)) (s : State) :
    vfOf (fs.foldl (fun s f => pendVf n f.1 f.2 s) s) n = vfPended fs (vfOf s n) := by
  induction fs generalizing s with
  | nil => rfl
  | cons f fs ih => exact (ih _).trans (congrArg (vfPended fs) (vfOf_modVf n _ s))

theorem vfOf_foldl_pendVf_ne {n m : Nat} (h : m ≠ n) (fs : List (Nat × Nat)) (s : State) :
    vfOf (fs.foldl (fun s f => pendVf n f.1 f.2 s) s) m = vfOf s m := by
  induction fs generalizing s with
  | nil => rfl
  | cons f fs ih => exact (ih _).trans (vfOf_modVf_ne _ s h)

/-- Applying the shadow of a VF entry. -/
theorem shadowApply_vfEntry {n : Nat} (legal : vfLegal n = true) (s : State) :
    shadowApply (.vfEntry n) s = modVf n vfApplied s := if_pos legal

theorem vfOf_shadowApply {n : Nat} (legal : vfLegal n = true) (s : State) :
    vfOf (shadowApply (.vfEntry n) s) n = vfApplied (vfOf s n) := by
  rw [shadowApply_vfEntry legal, vfOf_modVf]

theorem vfOf_shadowApply_ne {n m : Nat} (legal : vfLegal n = true) (h : m ≠ n) (s : State) :
    vfOf (shadowApply (.vfEntry n) s) m = vfOf s m := by
  rw [shadowApply_vfEntry legal, vfOf_modVf_ne _ s h]

/-- A write of a VF entry's fields: in force at once while the VF is IDLE, else in the shadow (R68). -/
theorem vfOf_writeVf {r : Reg} {v n : Nat} {fs : List (Nat × Nat)} {s : State} (f : vfFields s r v = some (n, fs))
    (legal : vfLegal n = true) : vfOf (writeVf r v s) n =
      if (vfOf s n).state = .idle then vfApplied (vfPended fs (vfOf s n)) else vfPended fs (vfOf s n) := by
  have kept : quiescent (fs.foldl (fun s f => pendVf n f.1 f.2 s) s) (.vfEntry n) = decide ((vfOf s n).state = .idle) := by
    simp only [quiescent, vfOf_foldl_pendVf]
    rfl
  simp only [writeVf, f, legal, kept, Bool.not_true, Bool.false_eq_true, if_false, decide_eq_true_eq]
  split
  · rw [vfOf_shadowApply legal, vfOf_foldl_pendVf]
  · exact vfOf_foldl_pendVf n fs s

/-- A write of a VF entry's fields leaves every other entry alone. -/
theorem vfOf_writeVf_ne {r : Reg} {v n m : Nat} {fs : List (Nat × Nat)} {s : State} (f : vfFields s r v = some (n, fs))
    (legal : vfLegal n = true) (h : m ≠ n) : vfOf (writeVf r v s) m = vfOf s m := by
  simp only [writeVf, f, legal, Bool.not_true, Bool.false_eq_true, if_false]
  split
  · rw [vfOf_shadowApply_ne legal h, vfOf_foldl_pendVf_ne h]
  · exact vfOf_foldl_pendVf_ne h fs s

/-- The numbers of Table 03-12. -/
theorem vfLegal_of {n : Nat} (lo : 1 ≤ n) (hi : n ≤ 512) : vfLegal n = true := by
  simp [vfLegal, lo, hi]

/-- HIF_VF_QUOTA_A over an empty shadow. -/
theorem vfPended_quotaA {e : VfEntry} (h : e.pend = []) (c q : Nat) :
    vfPended [(0, c), (1, q)] e = { e with pend := [(0, c), (1, q)] } := by
  simp [vfPended, h, tput]

/-- HIF_VF_QUOTA_A over an empty shadow, in force. -/
theorem vfApplied_quotaA {e : VfEntry} (h : e.pend = []) (c q : Nat) :
    vfApplied { e with pend := [(0, c), (1, q)] } = { e with quota := { e.quota with contexts := c, queuePairs := q } } := by
  simp [vfApplied, shownQuota, tgetD, tget, h]

/-- Settles O2: each quiescent register goes through its shadow, which a quiescent point empties (R9; log 24: quiescence is
judged as each register's own rule says). -/
theorem quiescentFieldsShadow : Obligations.QuiescentFieldsShadow := by
  refine ⟨fun s src v h => ?mxe, fun s src v n lo hi h empty => ?vf, fun s src v h o => ?pwr, fun s b h => shadowApply_busy h,
    fun s n run m0 p => ?applyClk, fun s n quiet p => ?applyMxe, fun s n lo hi idle => ?applyVf⟩
  case mxe =>
    refine ⟨_, registerWrite_open h v, ?_⟩
    rw [regWrite_mxeCtrl]
    cases quiescent s .mxe <;> simp
  case vf =>
    have legal := vfLegal_of lo hi
    have here := vfOf_writeVf (r := .hifVfQuotaA n) (v := v.toNat) (s := s) rfl legal
    rw [vfPended_quotaA empty, vfApplied_quotaA empty] at here
    exact ⟨_, registerWrite_open h v, fun m ne => vfOf_writeVf_ne rfl legal ne, fun idle => here.trans (if_pos idle),
      fun busy => here.trans (if_neg busy)⟩
  case pwr => exact (registerWrite_open h v).trans (congrArg Host.Outcome.next (regWrite_pwrInterval_open o v.toNat))
  case applyClk =>
    rw [shadowApply_quiescent (by simp [quiescent, run, m0])]
    simp [shadowApply, p, modClk]
  case applyMxe =>
    rw [shadowApply_quiescent quiet]
    simp [shadowApply, p, modMxe]
  case applyVf =>
    exact ⟨_, shadowApply_quiescent (by simp [quiescent, idle]), vfOf_shadowApply (vfLegal_of lo hi) s⟩

/-! ## The set-up lock (R8) -/

/-- With LOCK set a write of CLK_MS_CTRL does nothing. -/
theorem writeMsCtrl_locked {s : State} (h : s.clk.lock = true) (v : Nat) : writeMsCtrl v s = s := if_pos h

/-- A write of CLK_MS_CTRL while M0 does not wait: the scale goes to the shadow, and LOCK is as written. -/
theorem writeMsCtrl_shadowed {s : State} (h : s.clk.lock = false) (q : quiescent s .clk = false) (v : Nat) :
    writeMsCtrl v s = { s with clk := { s.clk with
      scalePending := some (clampTo 0 10 (bitsOf v 0 4)), lock := bitOf v 31 } } :=
  (if_neg (by simp [h])).trans (if_neg (Bool.eq_false_iff.mp q))

/-! ## Halves of 64-bit registers (R538) -/

theorem lowHalf_held {s : State} {r : Reg} {w : Word} (h : halfOf s.hold64 r = some w) : lowHalf s r = w.toNat := by
  simp [lowHalf, h]

theorem lowHalf_current {s : State} {r : Reg} (h : halfOf s.hold64 r = none) : lowHalf s r = regRead s r % 2 ^ 32 := by
  simp [lowHalf, h]

/-- HIGH_HALF_WRITE of WMK_PLAN_BASE: both halves in one step, and an empty holding register. -/
theorem highHalfWrite_planBase {s : State} {src : Src} (h : regOpen s src .wmkPlanBase true = true) (v : Word) {low : Nat}
    (e : lowHalf s .wmkPlanBase = low) : Runs (.highHalfWrite src .wmkPlanBase v) s fun t =>
      t = { s with hold64 := t.hold64, wmk := { s.wmk with planBase := (v.toNat * 2 ^ 32 + low) / 64 * 64 } } ∧
      halfOf t.hold64 .wmkPlanBase = none := by
  subst e
  exact ⟨_, highHalfWrite_open h rfl v, rfl, halfOf_halfDrop s.hold64 .wmkPlanBase⟩

/-- Settles O3: LOCK of the set-up, held and latched halves, and blocked accesses (log 23: which accesses are blocked). -/
theorem lockAndRegisterHalves : Obligations.LockAndRegisterHalves := by
  refine ⟨fun s src v h l => ?locked, fun s src v h l q b => ?lock, fun s src r v h w => ?low, fun s src v w h held => ?high,
    fun s src v h free => ?highFree, fun s src r h w => ?read, fun s src r o b => blockedRegisterAccess_read o b,
    blockedRegisterAccess_write⟩
  case locked => rw [setUpLock_open h, writeMsCtrl_locked l]
  case lock => rw [setUpLock_open h, writeMsCtrl_shadowed l q, b]
  case low =>
    refine ⟨_, lowHalfWrite_open h w v, rfl, halfOf_cons _ r v, fun q ne => ?_⟩
    rw [halfOf_cons_ne _ v ne, halfOf_halfDrop_ne _ ne]
  case high => exact highHalfWrite_planBase h v (lowHalf_held held)
  case highFree => exact highHalfWrite_planBase h v (lowHalf_current free)
  case read => exact ⟨_, lowHalfRead_open h w, rfl, halfOf_cons _ r _⟩

end Sys2Proof.Proofs
end

section
/-!
The worked examples of chapters 01, 09, 10, 11, 16 and 22.
-/
namespace Sys2Proof.Proofs
open Sys2Proof.Machine Sys2Proof.Laws

/-- Settles O57: each address, length or detail word is computed from the operands of its chapter's example. -/
theorem detailExamples : Obligations.DetailExamples := by
  refine ⟨?tagLine, ?poison, ?cable, ?stored, ?dstat, ?node⟩
  case tagLine => decide
  case poison => decide
  case cable => decide
  case stored => decide
  case dstat => decide
  case node => decide

end Sys2Proof.Proofs
end

section
/-!
The power sequence of the module (chapter 01, R19 to R21, R31, R33, R34): power-up, straps, rails and power fail.
-/
namespace Sys2Proof.Proofs
open Sys2Proof.Machine Sys2Proof.Laws

/-! ## Power-up (R28, R31) -/

/-- The module as the rise of VIN48 leaves it, the alarms raised on VBAT alone carried out. -/
def switchClosed (vbat : Nat) (s : State) : State :=
  carryAlarms (modLed (fun l => { l with restart := true })
    (modMod (fun m => { m with phase := .charging, inputSwitch := true, vbatMv := vbat }) s))

theorem powerUp_off {s : State} (h : s.mod.phase = .off) (vbat : Nat) : powerUp vbat s =
    if vbat < 2700 then alertPost 0x48 (logNotice Notice.battery vbat (switchClosed vbat s)) else switchClosed vbat s :=
  if_pos h

theorem powerUp_on {s : State} (h : s.mod.phase ≠ .off) (vbat : Nat) : powerUp vbat s = s := if_neg h

@[simp] theorem switchClosed_mod (vbat : Nat) (s : State) : (switchClosed vbat s).mod =
    { s.mod with phase := .charging, inputSwitch := true, vbatMv := vbat } := by
  simp [switchClosed]

@[simp] theorem switchClosed_restart (vbat : Nat) (s : State) : (switchClosed vbat s).led.restart = true := by
  simp [switchClosed]

/-- The alarms of VBAT are carried out once (R455). -/
@[simp] theorem switchClosed_vbatAlarms (vbat : Nat) (s : State) : (switchClosed vbat s).nv.otp.vbatAlarms = [] := rfl

/-- Power returns to a module that is off. -/
theorem powerUp_closes {s : State} (h : s.mod.phase = .off) (vbat : Nat) :
    (powerUp vbat s).mod = { s.mod with phase := .charging, inputSwitch := true, vbatMv := vbat } ∧
    (powerUp vbat s).led.restart = true ∧ (powerUp vbat s).nv.otp.vbatAlarms = [] ∧
    (vbat < 2700 → s.mod.modResetN = true → (alertOf (powerUp vbat s) 0x48).pending = true) := by
  rw [powerUp_off h]
  split
  case isTrue low =>
    refine ⟨by simp, by simp, by simp, fun _ up => alertPost_posts _ _ (by simpa using up)⟩
  case isFalse charged =>
    exact ⟨by simp, by simp, by simp, fun low => absurd low charged⟩

/-- POWER_UP and POWER_RETURN_STABLE are one operation. -/
theorem exec_powerUp {c : Nat → Instr} (h : c = Instr.powerUp ∨ c = Instr.powerReturnStable) (vbat : Nat) (s : State) :
    exec (c vbat) s = .next (powerUp vbat s) := by
  rcases h with rfl | rfl <;> rfl

/-! ## Straps (R19 to R21) -/

/-- The straps as they are sampled. -/
def strapsTaken (role slot board : Nat) (s : State) : State :=
  modMod (fun m => { m with phase := .strapped, strapsSampled := true, strapRole := role, strapSlot := slot % 16
                            strapBoard := board }) s

/-- The NOTICE records of a role fault and of an open board strap (log 28: their bytes). -/
def strapNotices (role board : Nat) (s : State) : State :=
  let s := if roleFault s role then logNotice Notice.strap role s else s
  if board = 0xFFFFF then logNotice Notice.strap board s else s

theorem strapSample_charged {s : State} (h : s.mod.phase = .charged) (role slot board : Nat) :
    exec (.strapSample role slot board) s =
      .next (strapNotices (role % 4) (board % 2 ^ 20) (strapsTaken (role % 4) slot (board % 2 ^ 20) s)) :=
  congrArg Host.Outcome.next (if_pos h)

@[simp] theorem strapNotices_mod (role board : Nat) (s : State) : (strapNotices role board s).mod = s.mod := by
  unfold strapNotices
  split <;> split <;> simp

/-- Effective straps write nothing. -/
theorem strapNotices_none {role board : Nat} (h0 : role ≠ 0) (h1 : role ≠ 1) (hb : board ≠ 0xFFFFF) (s : State) :
    strapNotices role board s = s := by
  simp [strapNotices, roleFault, h0, h1, hb]

/-- A reserved role with a board strapped writes one NOTICE, which waits while the logbook is not mounted. -/
theorem strapNotices_reserved {board : Nat} (hb : board ≠ 0xFFFFF) {s : State} (m : s.log.mounted = false) :
    (strapNotices 1 board s).log.waiting = s.log.waiting ++ [(0x0B, false, leBytes 4 1 ++ leBytes 8 1)] := by
  simp [strapNotices, roleFault, hb, logNotice, logWrite, m, Notice.strap]

/-! ## Power fail (R33, R34) -/

/-- A power fail before PWR_GOOD takes the rails down at once. -/
theorem powerFailConfirm_early {s : State} (h : s.mod.phase = .charging ∨ s.mod.phase = .charged ∨ s.mod.phase = .strapped) :
    exec .powerFailConfirm s = .next (powerLost s) := by
  show execPowerFailConfirm s = _
  rcases h with h | h | h <;> simp only [execPowerFailConfirm, h]

theorem powerFailConfirm_good {s : State} (h : s.mod.phase = .good) :
    exec .powerFailConfirm s = .next { s with
      mod := { s.mod with phase := .failing, inputSwitch := false, pwrGood := false }
      mgt := { s.mgt with uartRx := [] } } := by
  show execPowerFailConfirm s = _
  simp only [execPowerFailConfirm, h]
  rfl

@[simp] theorem engAt_modMod (f : ModuleState → ModuleState) (s : State) (c : Nat) :
    engAt (modMod f s) c = engAt s c := rfl

theorem powerFailStop_failing {s : State} (h : s.mod.phase = .failing) :
    exec .powerFailStop s = .next (modMod (fun m => { m with failStopped := true }) (holdEngines s)) :=
  congrArg Host.Outcome.next (if_pos h)

/-- The commit of a power fail happens once. -/
theorem powerFailCommit_first {s : State} (h : s.mod.phase = .failing) (n : s.mod.failCommitted = false) :
    exec .powerFailCommit s =
      .next (modMod (fun m => { m with failCommitted := true }) (if s.log.mounted then commitPowerFail s else s)) :=
  congrArg Host.Outcome.next (if_pos (by simp [h, n]))

theorem powerFailCommit_again {s : State} (n : s.mod.failCommitted = true) : exec .powerFailCommit s = .next s :=
  congrArg Host.Outcome.next (if_neg (by simp [n]))

/-- The mounted logbook's commit leaves the module alone. -/
theorem powerFailCommit_mod (s : State) : (if s.log.mounted then commitPowerFail s else s).mod = s.mod := by
  split <;> simp

theorem railsFall_failing {s : State} (h : s.mod.phase = .failing) : exec .railsFall s = .next (powerLost s) :=
  congrArg Host.Outcome.next (if_pos h)

/-- Settles O4: each command acts in its own phase (log 27: the alarms of VBAT at power-up; log 28: the bytes of a NOTICE). -/
theorem powerSequence : Obligations.PowerSequence := by
  refine ⟨fun c vbat s k off => ⟨_, exec_powerUp k vbat s, powerUp_closes off vbat⟩, fun c vbat s k on => ?on,
    fun s h => congrArg Host.Outcome.next (if_pos h), fun s h => congrArg Host.Outcome.next (if_neg h),
    fun s role slot board h => ⟨_, strapSample_charged h role slot board, ?straps⟩,
    fun s h => congrArg Host.Outcome.next (if_pos h), fun s h => powerFailConfirm_good h,
    fun s h => ⟨_, powerFailConfirm_early h, rfl, rfl, rfl⟩, fun s h => ⟨_, powerFailStop_failing h, ?stop⟩,
    fun s h n => ⟨_, powerFailCommit_first h n, ?commit⟩, fun s _ n => powerFailCommit_again n,
    fun s h => ⟨_, railsFall_failing h, rfl, rfl, rfl, rfl, rfl, rfl, rfl, rfl, rfl⟩,
    fun s h => congrArg Host.Outcome.next (if_neg h)⟩
  case on => rw [exec_powerUp k, powerUp_on on]
  case straps =>
    refine ⟨strapNotices_mod _ _ _, fun h0 h1 hb => ?_, fun h1 hb m => ?_⟩
    · rw [strapNotices_none h0 h1 hb]
      rfl
    · rw [h1]
      exact strapNotices_reserved hb m
  case stop =>
    refine ⟨by simp, fun c => ?_, fun c => ?_⟩
    all_goals rw [engAt_modMod, holdEngines_idle]
  case commit =>
    refine ⟨?_, fun m => ?_⟩
    · rw [modMod_mod, powerFailCommit_mod]
    · rw [m]
      rfl

end Sys2Proof.Proofs
end

section
/-!
The reset inputs PERST_N and MOD_RESET_N and the thermal loop (chapter 01, R17, R34 to R37, R482).
-/
namespace Sys2Proof.Proofs
open Sys2Proof.Machine Sys2Proof.Laws

/-! ## Condition alerts (R527) -/

/-- HALTED is pending wherever its condition is evaluated while the device is halted. -/
theorem alertConds_halted {s : State} (high : s.mod.modResetN = true) (halted : s.flt.haltCause ≠ 0) :
    (alertOf (alertConds s) 0x01).pending = true := by
  simp only [alertConds, halted, ne_eq, not_false_eq_true, decide_true]
  exact alertCond_other _ _ _ _ (by decide) (alertCond_other _ _ _ _ (by decide) (alertCond_holds _ s high))

/-- COOLANT is pending wherever its condition is evaluated while the inlet is too warm. -/
theorem alertConds_coolant {s : State} (high : s.mod.modResetN = true) (warm : s.mod.inletOver = true) :
    (alertOf (alertConds s) 0x40).pending = true := by
  rw [alertConds, warm]
  exact alertCond_holds _ _ (by simpa using high)

/-- COOLANT is clear wherever its condition is evaluated while the inlet is not too warm. -/
theorem alertConds_coolant_gone {s : State} (normal : s.mod.inletOver = false) :
    (alertOf (alertConds s) 0x40).pending = false := by
  rw [alertConds, normal]
  exact alertCond_gone _ _

/-! ## The reset inputs (R17, R482) -/

/-- An assertion of less than 1 µs is ignored. -/
theorem resetInputs_short {ns : Nat} (h : ns < 1000) (s : State) :
    exec (.perstNAssert ns) s = .next s ∧ exec (.modResetNAssert ns) s = .next s :=
  ⟨congrArg Host.Outcome.next (if_pos (by simp [h])), congrArg Host.Outcome.next (if_pos (by simp [h]))⟩

theorem mgRuns_good {s : State} (h : s.mod.phase = .good) : mgRuns s = true := by simp [mgRuns, h]

/-- The reset of a pin (class 0) is no fault's and leaves no record. -/
theorem chipReset_pin (cold link : Bool) (s : State) :
    chipReset 0 cold link false 0 0 s = chipResetNow 0 cold link s :=
  chipReset_now rfl cold link false 0 0 s

/-- PERST_N reads low. -/
def perstLow (s : State) : State := modMod (fun m => { m with perstN := false }) s

/-- PERST_N goes low on a running module. -/
theorem perstNAssert_resets {s : State} {ns : Nat} (long : 1000 ≤ ns) (good : s.mod.phase = .good)
    (high : s.mod.perstN = true) :
    exec (.perstNAssert ns) s = .next (chipResetNow 0 false false (perstLow s)) := by
  have heeded : ¬ (ns < 1000 || decide (s.mod.phase = .failing) || !s.mod.perstN) = true := by simp [good, high, long]
  have runs : mgRuns (perstLow s) = true := mgRuns_good good
  exact congrArg Host.Outcome.next ((if_neg heeded).trans ((if_pos runs).trans (chipReset_pin _ _ _)))

/-- MOD_RESET_N reads low and the management controller is held in reset. -/
def managementHeld (s : State) : State := { modMod (fun m => { m with modResetN := false }) s with mgt := MgtState.init }

/-- MOD_RESET_N goes low on a running module. -/
theorem modResetNAssert_resets {s : State} {ns : Nat} (long : 1000 ≤ ns) (good : s.mod.phase = .good)
    (high : s.mod.modResetN = true) :
    exec (.modResetNAssert ns) s = .next (modClk (fun k => { k with scale := 0, scalePending := none })
      (chipResetNow 0 true true (managementHeld s))) := by
  have heeded : ¬ (ns < 1000 || decide (s.mod.phase = .failing) || !s.mod.modResetN) = true := by simp [good, high, long]
  have runs : mgRuns (managementHeld s) = true := mgRuns_good good
  exact congrArg Host.Outcome.next ((if_neg heeded).trans
    (congrArg (modClk _) ((if_pos runs).trans (chipReset_pin _ _ _))))

/-! ## The thermal loop (R36, R37, Table 01-11) -/

@[simp] theorem engAt_modClk (f : ClkState → ClkState) (s : State) (c : Nat) : engAt (modClk f s) c = engAt s c := rfl

/-- Posting an alert takes nothing of a chip reset back. -/
theorem chipReset_alertPost {cold : Bool} {s t : State} (h : ChipReset cold s t) (code : Nat) :
    ChipReset cold s (alertPost code t) := by
  obtain ⟨cmd, objects, work, units, blocks, keys, boot, count⟩ := h
  constructor <;> simpa

/-- The compute rails are off after a trip (log 26: PWR_GOOD falls). -/
def railsTripped (s : State) : State :=
  modMod (fun m => { m with tripped := true, pwrGood := false, thermalStage := 4 }) s

/-- A trip of a running module resets the chip with a cold sequence. -/
theorem thermalTrip_good {s : State} (free : s.mod.tripped = false) (good : s.mod.phase = .good) :
    thermalTrip s = alertPost 0x04 (chipResetNow Cls.thermalTrip true true
      (fltRecord Cls.thermalTrip 4 false false 0 0 0 (railsTripped s))) :=
  (if_neg (by simp [free, good])).trans
    (congrArg (alertPost 0x04) (chipReset_now (cls := Cls.thermalTrip) rfl true true false 0 0 (railsTripped s)))

theorem thermalTrip_resets {s : State} (free : s.mod.tripped = false) (good : s.mod.phase = .good) :
    (thermalTrip s).mod = { s.mod with tripped := true, pwrGood := false, thermalStage := 4 } ∧
    ChipReset true s (thermalTrip s) := by
  rw [thermalTrip_good free good]
  refine ⟨?_, chipReset_alertPost (chipReset_from (chipResetNow_reset _ _ _ _) ?_) _⟩
  · rw [alertPost_mod, chipResetNow_mod, fltRecord_mod]
    rfl
  · rw [fltRecord_chipResets]
    rfl

/-- The loop has measured a temperature. -/
def measured (temp : Nat) (s : State) : State := modMod (fun m => { m with hottest := temp }) s

/-- A temperature that enters no higher stage is recorded. -/
theorem thermalLoop_stays {s : State} {temp : Nat} (h : stageEntered temp ≤ s.mod.thermalStage) :
    exec (.thermalLoop temp) s = .next (measured temp s) :=
  congrArg Host.Outcome.next (if_pos (by simp [h]))

@[simp] theorem measured_mod (temp : Nat) (s : State) : (measured temp s).mod = { s.mod with hottest := temp } := rfl
@[simp] theorem measured_clk (temp : Nat) (s : State) : (measured temp s).clk = s.clk := rfl

/-- What a stage does as it is entered: 4 trips, 3 stops the engines and pauses the sequence. -/
def stageEntry (st : Nat) (s : State) : State :=
  if st = 4 then thermalTrip s
  else if st = 3 then modClk (fun k => { k with paused := true })
    (holdEngines (modMod (fun m => { m with thermalStage := 3 }) s))
  else modMod (fun m => { m with thermalStage := st }) s

theorem stageEntry_trip (s : State) : stageEntry 4 s = thermalTrip s := rfl

theorem stageEntry_hold (s : State) : stageEntry 3 s = modClk (fun k => { k with paused := true })
    (holdEngines (modMod (fun m => { m with thermalStage := 3 }) s)) := rfl

theorem stageEntry_warning {st : Nat} (h : st < 3) (s : State) :
    stageEntry st s = modMod (fun m => { m with thermalStage := st }) s :=
  (if_neg (by omega)).trans (if_neg (by omega))

/-- A temperature enters a higher stage at once. -/
theorem thermalLoop_enters {s : State} {temp st : Nat} (free : s.mod.tripped = false) (e : stageEntered temp = st)
    (h : s.mod.thermalStage < st) :
    exec (.thermalLoop temp) s = .next (stageEntry st (measured temp s)) := by
  subst e
  have higher : ¬ ((measured temp s).mod.tripped ||
      decide (stageEntered temp ≤ (measured temp s).mod.thermalStage)) = true := by
    simp [free, h]
  refine (congrArg Host.Outcome.next (if_neg higher)).trans ?_
  by_cases held : stageEntered temp = 3
  · rw [held]
    rfl
  · simp only [stageEntry, held, if_false]
    rfl

/-- Stage 3 is left for stage 0. -/
theorem thermalStageRelease_all {s : State} {temp : Nat} (free : s.mod.tripped = false) (was : s.mod.thermalStage = 3)
    (cool : temp < 920) :
    exec (.thermalStageRelease temp) s = .next (modClk (fun k => { k with paused := false })
      (releaseEngines (modMod (fun m => { m with thermalStage := 0, hottest := temp }) s))) := by
  have zero : stageHeld temp = 0 := by
    rw [stageHeld, if_neg (by omega), if_neg (by omega), if_neg (by omega)]
  have leaves : ¬ (s.mod.tripped || decide (s.mod.thermalStage = min s.mod.thermalStage (stageHeld temp))) = true := by
    simp [free, was, zero]
  refine (congrArg Host.Outcome.next ((if_neg leaves).trans (if_pos was))).trans ?_
  rw [zero, Nat.min_zero]

/-- Stages 1 and 2 by temperature. -/
theorem stageEntered_warning {temp : Nat} (lo : 950 ≤ temp) (hi : temp < 1030) :
    stageEntered temp = if 1000 ≤ temp then 2 else 1 := by
  rw [stageEntered, if_neg (by omega), if_neg (by omega), if_pos lo]

theorem stageEntered_hold {temp : Nat} (lo : 1030 ≤ temp) (hi : temp < 1050) : stageEntered temp = 3 := by
  rw [stageEntered, if_neg (by omega), if_pos lo]

theorem stageEntered_trip {temp : Nat} (lo : 1050 ≤ temp) : stageEntered temp = 4 := if_pos lo

/-- Settles O5: the pins and a trip lead to `chipResetNow`, a stage to its own hold (log 26: a trip lowers PWR_GOOD and its
recovery raises it; log 29: which reset keeps the host link). -/
theorem resetInputsAndThermalLoop : Obligations.ResetInputsAndThermalLoop := by
  refine ⟨fun s ns short => resetInputs_short short s,
    fun s ns long good high => ⟨_, perstNAssert_resets long good high, ?perst⟩,
    fun s ns long good high => ⟨_, modResetNAssert_resets long good high, ?modReset⟩,
    fun s h => congrArg Host.Outcome.next (if_neg h),
    fun s h => ⟨_, congrArg Host.Outcome.next (if_neg h), by simp, fun halted => alertConds_halted rfl halted⟩,
    fun s temp h => congrArg Host.Outcome.next (if_pos h),
    fun s temp h high => ⟨_, congrArg Host.Outcome.next (if_neg (Nat.not_le.mpr h)), by simp, ?tooWarm⟩,
    fun s temp h => ⟨_, congrArg Host.Outcome.next (if_pos h), by simp, alertConds_coolant_gone rfl⟩,
    fun s temp _ h => thermalLoop_stays h,
    fun s temp free lo hi h => ?warns, fun s temp free lo hi h => ?holds,
    fun s temp free lo h good => ?trips,
    fun s temp free was cool => ⟨_, thermalStageRelease_all free was cool, by simp, by simp, fun c runs => ?released⟩,
    fun s trip cool => congrArg Host.Outcome.next (if_pos (by simp [trip, cool])),
    fun s h => congrArg Host.Outcome.next (if_neg ?waits)⟩
  case perst =>
    exact ⟨chipReset_from (chipResetNow_reset _ _ _ _) rfl, chipResetNow_mod _ _ _ _, chipResetNow_inL0 _ _ _ _⟩
  case modReset =>
    obtain ⟨cmd, ⟨ctxs, -, -, mem, -⟩, -, -, -, -, ⟨-, milestone, warm, -⟩, -⟩ := chipResetNow_reset 0 true true (managementHeld s)
    exact ⟨chipResetNow_mod _ _ _ _, fun m => chipResetNow_mgt _ _ _ _ m rfl rfl, rfl, rfl, warm, milestone, cmd, ctxs, mem⟩
  case tooWarm => exact alertConds_coolant (by simpa using high) (by simp)
  case warns =>
    have e := stageEntered_warning lo hi
    rw [thermalLoop_enters free e (e ▸ h), stageEntry_warning (by split <;> omega)]
    rfl
  case holds =>
    refine ⟨_, thermalLoop_enters free (stageEntered_hold lo hi) h, ?_⟩
    rw [stageEntry_hold]
    refine ⟨by simp, by simp, fun c => ?_⟩
    rw [engAt_modClk, holdEngines_idle]
  case trips =>
    refine ⟨_, thermalLoop_enters free (stageEntered_trip lo) h, ?_⟩
    obtain ⟨tripped, reset⟩ := thermalTrip_resets (s := measured temp s) free good
    exact ⟨tripped, chipReset_from reset rfl⟩
  case released =>
    rw [engAt_modClk, releaseEngines_want _ c]
    exact runs
  case waits =>
    rcases h with free | hot
    · simp [free]
    · simp [hot]

end Sys2Proof.Proofs
end

section
/-!
Tamper alarms and their arrival (R27, R28, R430, R431, R453, R455).
-/
namespace Sys2Proof.Proofs
open Sys2Proof.Machine Sys2Proof.Laws

/-! ## Raising an alarm (R430, R431) -/

/-- From `s` an alarm of a code has led to `t`: both secrets are gone, and the alarm is on its way or, without 48 V, stored
(log 27: the first code is kept; alarms on VBAT wait). -/
def Alarmed (code : Nat) (s t : State) : Prop :=
  t.nv.otp.root = none ∧ t.nv.otp.tray = none ∧ t.nv.otp.zeroised = true ∧
  (s.mod.phase = .good → t.sec.alarmDue = some (s.sec.alarmDue.getD code)) ∧
  (s.mod.phase = .off → t.nv.otp.vbatAlarms = s.nv.otp.vbatAlarms ++ [code])

theorem mgRuns_off {s : State} (h : s.mod.phase = .off) : mgRuns s = false := by simp [mgRuns, h]

/-- Both secrets are cleared. -/
def secretsCleared (s : State) : State := modOtp (fun o => { o with root := none, tray := none, zeroised := true }) s

/-- With CLK_MG running the alarm is on its way; else it is stored. -/
theorem tamperAlarm_eq (code : Nat) (s : State) : tamperAlarm code s =
    if mgRuns s || decide (s.mod.phase = .failing) then
      modSec (fun k => { k with alarmDue := some (k.alarmDue.getD code) }) (secretsCleared s)
    else modOtp (fun o => { o with vbatAlarms := o.vbatAlarms ++ [code] }) (secretsCleared s) := rfl

theorem tamperAlarm_alarmed (code : Nat) (s : State) : Alarmed code s (tamperAlarm code s) := by
  rw [tamperAlarm_eq]
  split
  case isTrue runs =>
    exact ⟨rfl, rfl, rfl, fun _ => rfl, fun off => absurd runs (by simp [mgRuns_off off, off])⟩
  case isFalse dead =>
    exact ⟨rfl, rfl, rfl, fun good => absurd (by simp [mgRuns_good good]) dead, fun _ => rfl⟩

/-! ## The tamper loops, the mesh and VBAT (R27, R28) -/

/-- The loops driven with the next code, a free value, their miss counters at `a` and `b`. -/
def loopsChecked (a b : Nat) (s : State) : State :=
  modMod (fun m => { m with loopMissA := a, loopMissB := b, loopCode := freeBits s 16 }) (tookFree s)

/-- The miss counter of a loop after a check. -/
def missesAfter (ok : Bool) (n : Nat) : Nat := if ok then 0 else n + 1

/-- Has a check found two misses in a row on either loop? -/
def twoMisses (okA okB : Bool) (s : State) : Bool :=
  decide (2 ≤ missesAfter okA s.mod.loopMissA) || decide (2 ≤ missesAfter okB s.mod.loopMissB)

theorem tamperLoopCheck_eq (okA okB : Bool) (s : State) : exec (.tamperLoopCheck okA okB) s =
    let hit := twoMisses okA okB s
    let z := loopsChecked (if hit then 0 else missesAfter okA s.mod.loopMissA)
      (if hit then 0 else missesAfter okB s.mod.loopMissB) s
    .next (if hit then tamperAlarm 0x02 z else z) := rfl

/-- Fewer than two misses in a row on either loop raise nothing. -/
theorem tamperLoopCheck_quiet {s : State} {okA okB : Bool} (h : twoMisses okA okB s = false) :
    exec (.tamperLoopCheck okA okB) s =
      .next (loopsChecked (missesAfter okA s.mod.loopMissA) (missesAfter okB s.mod.loopMissB) s) := by
  rw [tamperLoopCheck_eq, h]
  rfl

/-- Two misses in a row on a loop raise alarm 2 and clear both counters. -/
theorem tamperLoopCheck_alarms {s : State} {okA okB : Bool} (h : twoMisses okA okB s = true) :
    exec (.tamperLoopCheck okA okB) s = .next (tamperAlarm 0x02 (loopsChecked 0 0 s)) := by
  rw [tamperLoopCheck_eq, h]
  rfl

/-- Two failed mesh checks in a row raise alarm 1 and clear the counter. -/
theorem meshCheck_alarms {s : State} (h : 1 ≤ s.mod.meshMiss) :
    exec (.meshCheck false) s = .next (tamperAlarm 0x01 (modMod (fun m => { m with meshMiss := 0 }) s)) := by
  show execMeshCheck false s = _
  simp [execMeshCheck, h]

/-- VBAT is measured while the always-on domain runs from it. -/
theorem vbatLoss_onVbat {s : State} (h : s.mod.aoFrom48 = false) (mv : Nat) :
    exec (.vbatLoss mv) s = .next (if mv < 2200 then tamperAlarm 0x03 (modMod (fun m => { m with vbatMv := mv }) s)
      else modMod (fun m => { m with vbatMv := mv }) s) :=
  congrArg Host.Outcome.next (if_neg (by simp [h]))

/-! ## The arrival in CLK_MG (R431, R453, Table 17-4) -/

@[simp] theorem eraseKeys_alarmCount (s : State) : (eraseKeys s).sec.alarmCount = s.sec.alarmCount := rfl

/-- The keys are gone and SEC_ALARM holds the alarm. -/
def alarmTaken (code : Nat) (s : State) : State :=
  modLcs (fun l => { l with busy := none })
    (modSec (fun k => { k with alarmDue := none, alarmCount := satAdd 255 k.alarmCount 1, alarmLast := code })
      (eraseKeys s))

/-- The records and the alert of an alarm that has arrived. -/
def alarmRecorded (code : Nat) (s : State) : State :=
  alertPost 0x03 (logWrite 0x04 true (leBytes 1 code) (fltRecord Cls.tamper 4 false false 0 0 code s))

theorem tamperAlarmArrival_due {s : State} {code : Nat} (h : s.sec.alarmDue = some code) :
    exec .tamperAlarmArrival s = .next (chipResetNow Cls.tamper false true (alarmRecorded code (alarmTaken code s))) := by
  show execTamperAlarmArrival s = _
  rw [execTamperAlarmArrival, h]
  rfl

theorem tamperAlarmArrival_none {s : State} (h : s.sec.alarmDue = none) : exec .tamperAlarmArrival s = .next s := by
  show execTamperAlarmArrival s = _
  rw [execTamperAlarmArrival, h]

@[simp] theorem alarmTaken_flt (code : Nat) (s : State) : (alarmTaken code s).flt = s.flt := by
  simp [alarmTaken]

@[simp] theorem alarmRecorded_sec (code : Nat) (s : State) : (alarmRecorded code s).sec = s.sec := by
  simp [alarmRecorded]

@[simp] theorem alarmRecorded_records (code : Nat) (s : State) :
    (alarmRecorded code s).flt.records = (s.flt.records + 1) % 2 ^ 32 := by
  simp [alarmRecorded]

@[simp] theorem alarmRecorded_chipResets (code : Nat) (s : State) :
    (alarmRecorded code s).flt.chipResets = s.flt.chipResets := by
  simp [alarmRecorded]

/-- Settles O6: every alarm is `tamperAlarm`, and its arrival erases, records and resets (log 27: when miss counters are
cleared, which code is kept, and alarms on VBAT alone). -/
theorem tamperAlarms : Obligations.TamperAlarms := by
  refine ⟨fun s okA okB a b => ?loops, fun s okB a => ⟨_, tamperLoopCheck_alarms ?missA, ?clearedA⟩,
    fun s okA b => ⟨_, tamperLoopCheck_alarms ?missB, tamperAlarm_alarmed 0x02 (loopsChecked 0 0 s)⟩,
    fun s => rfl, fun s m => ?mesh,
    fun s m => ⟨_, meshCheck_alarms m, ?clearedMesh⟩,
    fun s mv on48 => congrArg Host.Outcome.next (if_pos on48),
    fun s mv onVbat low => ⟨_, (vbatLoss_onVbat onVbat mv).trans (congrArg _ (if_pos low)), ?lowVbat⟩,
    fun s mv onVbat ok => (vbatLoss_onVbat onVbat mv).trans (congrArg _ (if_neg (Nat.not_lt.mpr ok))),
    fun s rail armed => ⟨_, congrArg Host.Outcome.next (if_pos armed), tamperAlarm_alarmed 0x04 s⟩,
    fun s rail off => congrArg Host.Outcome.next (if_neg (Bool.eq_false_iff.mp off)),
    fun s clock => ⟨_, rfl, tamperAlarm_alarmed 0x05 s⟩,
    fun s sensor => ⟨_, rfl, tamperAlarm_alarmed 0x06 s⟩,
    fun s due => tamperAlarmArrival_none due,
    fun s code due => ⟨_, tamperAlarmArrival_due due, ?arrival⟩⟩
  case loops =>
    have once : ∀ ok, missesAfter ok 0 < 2 := by decide
    rw [tamperLoopCheck_quiet (by simp [twoMisses, a, b, once]), a, b]
    rfl
  case missA => simp [twoMisses, missesAfter, a]
  case missB => simp [twoMisses, missesAfter, b]
  case clearedA => exact ⟨tamperAlarm_alarmed 0x02 (loopsChecked 0 0 s), by simp [loopsChecked], by simp [loopsChecked]⟩
  case mesh =>
    show execMeshCheck false s = _
    simp [execMeshCheck, m, modMod]
  case clearedMesh => exact ⟨tamperAlarm_alarmed 0x01 (modMod (fun m => { m with meshMiss := 0 }) s), by simp⟩
  case lowVbat => exact ⟨tamperAlarm_alarmed 0x03 (modMod (fun m => { m with vbatMv := mv }) s), by simp⟩
  case arrival =>
    obtain ⟨dueAfter, lastAfter, countAfter⟩ :=
      chipResetNow_sec Cls.tamper false true (alarmRecorded code (alarmTaken code s))
    refine ⟨chipReset_from (chipResetNow_reset _ _ _ _) (by simp), ?_, ?_, ?_, ?_⟩
    · rw [dueAfter, alarmRecorded_sec]
      rfl
    · rw [lastAfter, alarmRecorded_sec]
      rfl
    · rw [countAfter, alarmRecorded_sec]
      rfl
    · rw [chipResetNow_records, alarmRecorded_records, alarmTaken_flt]

end Sys2Proof.Proofs
end

section
/-!
The start-up sequence (chapter 02, R32, R44 to R52, R459, R463): its beginning, its milestones and its fault path.
-/
namespace Sys2Proof.Proofs
open Sys2Proof.Machine Sys2Proof.Laws

/-! ## The milestone worked on -/

/-- The sequence stands at milestone `n` and does not rest there. -/
def AtMilestone (n : Nat) (s : State) : Prop := s.clk.phase = .running ∧ s.clk.milestone = n ∧ blankRest s = false

/-- The sequence has come to milestone `n`. -/
def Moved (n : Nat) (t : State) : Prop := t.clk.phase = .running ∧ t.clk.milestone = n ∧ t.clk.progress = 0

theorem msWork_at {n : Nat} {s : State} (h : AtMilestone n s) (lt : n < 15 := by decide) : msWork s = n + 1 := by
  obtain ⟨-, stands, -⟩ := h
  rw [msWork, stands]
  omega

/-- The result of the milestone worked on advances the sequence as that milestone says. -/
theorem milestoneAdvance_at {n : Nat} {s t : State} {r : MsResult} (h : AtMilestone n s)
    (e : msWork s = n + 1 → advance r s = t) (lt : n < 15 := by decide) : exec (.milestoneAdvance r) s = .next t := by
  have works := msWork_at h lt
  obtain ⟨running, stands, awake⟩ := h
  exact congrArg Host.Outcome.next ((if_pos (by simp [running, stands, awake, lt])).trans (e works))

/-- A milestone is reached by a sequence that still runs. -/
theorem moved_reach {n : Nat} {s : State} (h : s.clk.phase = .running) : Moved n (reach n s) := ⟨h, rfl, rfl⟩

@[simp] theorem reach_clk (n : Nat) (s : State) : (reach n s).clk = { s.clk with milestone := n, progress := 0 } := rfl

/-! ## The fault path (R48 to R50) -/

@[simp] theorem msFault_clk (cause : Nat) (s : State) : (msFault cause s).clk = { s.clk with
    faultMilestone := min 15 (s.clk.milestone + 1), faultCause := cause, faultCount := satAdd 255 s.clk.faultCount 1
    faultProgress := s.clk.progress, faultCopyDue := true } := by
  simp [msFault]

/-- Boot-fault hold keeps the fault's register. -/
theorem bootHold_clk (s : State) : (bootHold s).clk.phase = .bootHold ∧ (bootHold s).clk.faultCause = s.clk.faultCause ∧
    (bootHold s).clk.faultMilestone = s.clk.faultMilestone := by
  rw [bootHold, alertConds_clk]
  exact ⟨rfl, rfl, rfl⟩

theorem directHold_clk (cause : Nat) (s : State) :
    (directHold cause s).clk.phase = .bootHold ∧ (directHold cause s).clk.faultCause = cause ∧
    (directHold cause s).clk.faultMilestone = min 15 (s.clk.milestone + 1) := by
  obtain ⟨phase, cause', milestone⟩ := bootHold_clk (msFault cause s)
  rw [msFault_clk] at cause' milestone
  exact ⟨phase, cause', milestone⟩

/-- From the third attempt on the fault path ends in boot-fault hold. -/
theorem faultPath_last {s : State} (h : 2 ≤ s.clk.attempt) (cause : Nat) :
    (faultPath cause s).clk.phase = .bootHold := by
  have spent : ¬ (msFault cause s).clk.attempt < 2 := by simpa using Nat.not_lt.mpr h
  exact (congrArg (fun t : State => t.clk.phase) (if_neg spent)).trans (bootHold_clk _).1

/-- Before that it waits for another attempt. -/
theorem faultPath_hold {s : State} (h : s.clk.attempt < 2) (cause : Nat) :
    (faultPath cause s).clk.phase = .faultHold ∧ (faultPath cause s).clk.milestone = 0 ∧
    (faultPath cause s).clk.attempt = s.clk.attempt ∧ (faultPath cause s).clk.faultCause = cause ∧
    (faultPath cause s).clk.faultCount = satAdd 255 s.clk.faultCount 1 := by
  have left : (msFault cause s).clk.attempt < 2 := by simpa using h
  have e : faultPath cause s = holdDomains .faultHold false (msFault cause s) := if_pos left
  rw [e]
  simp [holdDomains, resetState]

/-- A miss takes the fault path. -/
theorem stallWindowExpire_watched {s : State} (h : missWatched s = true) :
    exec .stallWindowExpire s = .next (faultPath 1 s) := congrArg Host.Outcome.next (if_pos h)

theorem milestoneLimitExpire_watched {s : State} (h : missWatched s = true) :
    exec .milestoneLimitExpire s = .next (faultPath 2 s) := congrArg Host.Outcome.next (if_pos h)

/-- M3 has a limit and no miss (R49). -/
theorem milestoneLimitExpire_link {s : State} (h : AtMilestone 2 s) (awake : s.clk.paused = false) :
    exec .milestoneLimitExpire s = .next (doM3 false s) := by
  have works := msWork_at h
  obtain ⟨running, -, stirs⟩ := h
  have unwatched : ¬ missWatched s = true := by simp [missWatched, works, running]
  have due : ¬ (s.clk.paused || decide (s.clk.phase ≠ .running) || blankRest s) = true := by simp [awake, running, stirs]
  exact congrArg Host.Outcome.next ((if_neg unwatched).trans ((if_neg due).trans (if_pos works)))

/-! ## What the milestones do -/

/-- A word of `p` low ones is a position and spells `p` (R458). -/
theorem posLegal_ones {p : Nat} (h : p < 32) : posLegal (2 ^ p - 1) = true :=
  List.any_eq_true.mpr ⟨p, List.mem_range.mpr h, by simp⟩

theorem posOf_ones : ∀ {p : Nat}, p < 32 → posOf (2 ^ p - 1) = p := by decide

/-- M1 on a position from 1 to 29 (R459). -/
theorem doM1_loads {s : State} {p : Nat} (h : posMajority s.nv.otp = 2 ^ p - 1) (hi : p ≤ 29)
    (running : s.clk.phase = .running) :
    Moved 1 (doM1 true s) ∧ (doM1 true s).lcs = { s.lcs with loaded := true, position := p } := by
  have spells : posOf (posMajority s.nv.otp) = p := by rw [h, posOf_ones (by omega)]
  have legal : posLegal (posMajority s.nv.otp) = true := by rw [h, posLegal_ones (by omega)]
  have ok : ¬ (!true || !posLegal (posMajority s.nv.otp) || decide (posOf (posMajority s.nv.otp) = 30)) = true := by
    simp only [spells, legal, Bool.not_true, Bool.false_or, decide_eq_true_eq]
    omega
  have live : ¬ posOf (posMajority s.nv.otp) = 31 := by omega
  have e : doM1 true s = modLcs (fun l => { l with loaded := true, position := posOf (posMajority s.nv.otp) })
      (reach 1 (modOtp (fun o => { o with
        a := Nat.lor o.a (posMajority s.nv.otp), b := Nat.lor o.b (posMajority s.nv.otp)
        c := Nat.lor o.c (posMajority s.nv.otp) }) s)) := (if_neg ok).trans (if_neg live)
  rw [e, spells]
  exact ⟨⟨running, rfl, rfl⟩, rfl⟩

/-- The firmware store with the verdicts on both copies. -/
def fwJudged (a b : FwVerdict) (s : State) : State :=
  modNv (fun n => { n with fw := { n.fw with
    a := { n.fw.a with passed := (a.digestOk, a.sigOk) }, b := { n.fw.b with passed := (b.digestOk, b.sigOk) } } }) s

/-- The service cores run a copy: A, or B where A is not good. -/
def fwRuns (goodA goodB : Bool) (c : FwCopy) (v : SvcState) : SvcState :=
  { v with running := true, active := !goodA, aFailed := !goodA, bFailed := !goodB
           version := fwVersion c, digest := BitVec.ofNat 384 (imgNum c.image 16 48) }

theorem doM4_eq (a b : FwVerdict) (s : State) : doM4 a b s =
    let z := fwJudged a b s
    let goodA := fwGood z.nv.fw z.nv.fw.a
    let goodB := fwGood z.nv.fw z.nv.fw.b
    if goodA || goodB then reach 4 (modSvc (fwRuns goodA goodB (if goodA then z.nv.fw.a else z.nv.fw.b)) z)
    else directHold 4 (modSvc (fun v => { v with aFailed := true, bFailed := true }) z) := rfl

/-- M4 with a good copy A runs it. -/
theorem doM4_copyA {s : State} {a b : FwVerdict} (running : s.clk.phase = .running)
    (good : fwGood (fwJudged a b s).nv.fw (fwJudged a b s).nv.fw.a = true) :
    Moved 4 (doM4 a b s) ∧ (doM4 a b s).svc.running = true ∧ (doM4 a b s).svc.active = false ∧
    (doM4 a b s).svc.aFailed = false ∧ (doM4 a b s).svc.version = fwVersion s.nv.fw.a := by
  rw [doM4_eq]
  simp only [good, Bool.true_or, if_true]
  exact ⟨moved_reach running, rfl, rfl, rfl, rfl⟩

/-- A copy whose digest does not match is not good (R222, check 3). -/
theorem fwGood_digest {f : FwStore} {c : FwCopy} (h : c.passed.1 = false) : fwGood f c = false := by
  have fails : fwCheck f c ≠ 0 := by
    unfold fwCheck
    split
    · decide
    · split
      · decide
      · simp [h]
  simp [fwGood, fails]

/-- M4 with no good copy holds. -/
theorem doM4_none {s : State} {a b : FwVerdict} (ha : a.digestOk = false) (hb : b.digestOk = false) :
    (doM4 a b s).clk.phase = .bootHold ∧ (doM4 a b s).clk.faultCause = 4 := by
  have badA : fwGood (fwJudged a b s).nv.fw (fwJudged a b s).nv.fw.a = false := fwGood_digest ha
  have badB : fwGood (fwJudged a b s).nv.fw (fwJudged a b s).nv.fw.b = false := fwGood_digest hb
  rw [doM4_eq]
  simp only [badA, badB, Bool.or_self, Bool.false_eq_true, if_false]
  obtain ⟨phase, cause, -⟩ := directHold_clk 4 (modSvc (fun v => { v with aFailed := true, bFailed := true }) (fwJudged a b s))
  exact ⟨phase, cause⟩

/-- M5 draws the share mask, and leaves OTP and key store alone where the root secret is there. -/
theorem doM5_draws {s : State} (running : s.clk.phase = .running) :
    Moved 5 (doM5 s) ∧ (doM5 s).sec.shareMask = Config.freeValue s.draws ∧
    (s.nv.otp.root.isSome = true → (doM5 s).nv = s.nv) := by
  unfold doM5
  dsimp only
  split
  case isTrue identity =>
    split
    case isTrue absent =>
      have gone : ¬ s.nv.otp.root.isSome = true := by simpa using absent
      split <;> exact ⟨moved_reach running, rfl, fun present => absurd present gone⟩
    case isFalse => exact ⟨moved_reach running, rfl, fun _ => rfl⟩
  case isFalse => exact ⟨moved_reach running, rfl, fun _ => rfl⟩

/-- A retirement is not undone by a logbook record. -/
theorem logWrite_retired {c : Nat} {s : State} (h : c ∈ s.nv.retired) (typ : Nat) (critical : Bool) (payload : List Byte) :
    c ∈ (logWrite typ critical payload s).nv.retired :=
  (logWrite_keeps (keeps_refl _ s) (sub_refl _) typ critical payload).oneWay.retired c h

theorem mem_linsert_self (l : List Nat) (c : Nat) : c ∈ linsert l c := by
  unfold linsert
  split
  case isTrue h => exact List.contains_iff_mem.mp h
  case isFalse => exact List.mem_cons_self

/-- A cluster retired in the sequence is retired for good (R46). -/
theorem startRetire_retires (c cause : Nat) (s : State) :
    c ∈ (startRetire c cause s).nv.retired ∧ (startRetire c cause s).clk.phase = s.clk.phase := by
  unfold startRetire
  split
  case isTrue h => exact ⟨List.contains_iff_mem.mp h, rfl⟩
  case isFalse => exact ⟨logWrite_retired (mem_linsert_self _ _) _ _ _, by simp⟩

/-- M8 with one cluster that cannot be repaired. -/
theorem doM8_one {c : Nat} (h : c < 64) (s : State) : doM8 [c] s = reach 8 (startRetire c 4 s) := by
  simp [doM8, h]

/-! ## The postings of M15 (R46) -/

/-- Since `s` the boot controller has not moved, and CHIP_RESET_DONE is pending for the PF. -/
def Announced (s t : State) : Prop :=
  t.clk = s.clk ∧ (tgetD (attOf t 0).entries Att.chipResetDone attInit).pending = true

/-- A posting leaves every pending entry pending. -/
theorem post_pending {g c : Nat} {s : State} (h : (tgetD (attOf s g).entries c attInit).pending = true)
    (fn code detail handle : Nat) :
    (tgetD (attOf (post fn code detail handle s) g).entries c attInit).pending = true := by
  by_cases own : g = fn
  · subst own
    by_cases same : c = code
    · rw [same, post_entry]
    · simpa [attOf, post, tgetD_tput_ne _ _ _ same] using h
  · rwa [post_other _ _ _ _ _ own]

theorem announced_post {s t : State} (h : Announced s t) (fn code detail handle : Nat) :
    Announced s (post fn code detail handle t) :=
  ⟨(post_clk fn code detail handle t).trans h.1, post_pending h.2 fn code detail handle⟩

/-- A list of postings. -/
theorem announced_foldl {α : Type} {s t : State} (h : Announced s t) (l : List α) (fn code detail : α → Nat) :
    Announced s (l.foldl (fun t a => post (fn a) (code a) (detail a) 0 t) t) :=
  List.foldlRecOn l _ h fun _ k a _ => announced_post k (fn a) (code a) (detail a) 0

/-- At M15 the device is ready, the PF is told of the reset, and nothing is due. -/
theorem doM15_ready (s : State) : (doM15 s).clk.phase = .ready ∧ (doM15 s).clk.milestone = 15 ∧
    (doM15 s).clk.dueRetired = [] ∧ (tgetD (attOf (doM15 s) 0).entries Att.chipResetDone attInit).pending = true := by
  unfold doM15
  extract_lets ready told retired offline replanned
  have hTold : Announced ready told := ⟨post_clk _ _ _ _ _, by rw [post_entry]⟩
  have hRetired : Announced ready retired := announced_foldl hTold _ _ _ _
  have hOffline : Announced ready offline := announced_foldl hRetired _ _ _ _
  have hReplanned : Announced ready replanned := by
    unfold replanned
    split
    · exact announced_post hOffline _ _ _ _
    · exact hOffline
  obtain ⟨clk, pending⟩ := hReplanned
  refine ⟨?_, ?_, rfl, pending⟩
  · exact (congrArg ClkState.phase clk).trans rfl
  · exact (congrArg ClkState.milestone clk).trans rfl

/-! ## Beginning (R32) -/

/-- START_SEQUENCE on a powered module whose inputs are released. -/
theorem startSequence_begins {s : State} (waits : s.clk.phase = .waiting) (good : s.mod.phase = .good)
    (power : s.mod.pwrGood = true) (perst : s.mod.perstN = true) (reset : s.mod.modResetN = true)
    (free : s.mod.tripped = false) : exec .startSequence s = .next (startSequence s) :=
  congrArg Host.Outcome.next (if_pos (by simp [waits, good, power, perst, reset, free]))

theorem startSequence_held {s : State} (h : s.mod.pwrGood = false ∨ s.mod.perstN = false ∨ s.mod.modResetN = false) :
    exec .startSequence s = .next s :=
  congrArg Host.Outcome.next (if_neg (by rcases h with h | h | h <;> simp [h]))

/-- Settles O7: the milestones one by one, and the fault path (log 13: the share mask; log 31: M5 and M12; log 63: PROGRESS
wraps). -/
theorem startUpSequence : Obligations.StartUpSequence := by
  refine ⟨fun s waits good power perst reset free => startSequence_begins waits good power perst reset free,
    fun s held => startSequence_held held,
    fun s p h word lo hi => ⟨_, milestoneAdvance_at h fun works => if_pos works, doM1_loads word hi h.1⟩,
    fun s h => ⟨_, milestoneAdvance_at h fun works => if_pos works, ?unreadable⟩,
    fun s h => milestoneAdvance_at h fun works => if_pos works,
    fun s h first => ⟨_, milestoneAdvance_at h fun works => if_pos works, ?plls⟩,
    fun s l0 h => milestoneAdvance_at h fun works => if_pos works,
    fun s a b h good => ⟨_, milestoneAdvance_at h fun works => if_pos works, doM4_copyA h.1 good⟩,
    fun s a b h ha hb => ⟨_, milestoneAdvance_at h fun works => if_pos works, doM4_none ha hb⟩,
    fun s h => ⟨_, milestoneAdvance_at h fun works => if_pos works, doM5_draws h.1⟩,
    fun s h => milestoneAdvance_at h fun works => if_pos works,
    fun s h => milestoneAdvance_at h fun works => if_pos works,
    fun s c h lt => ⟨_, milestoneAdvance_at h fun works => if_pos works, ?srams⟩,
    fun s h => milestoneAdvance_at h fun works => if_pos works,
    fun s h => ⟨_, milestoneAdvance_at h fun works => if_pos works, doM15_ready s⟩,
    fun s running => congrArg Host.Outcome.next (if_pos running),
    fun s watched first => ⟨_, stallWindowExpire_watched watched, ?stalled⟩,
    fun s watched last => ⟨_, stallWindowExpire_watched watched, faultPath_last last 1⟩,
    fun s watched first => ⟨_, milestoneLimitExpire_watched watched, ?late⟩,
    fun s h awake => milestoneLimitExpire_link h awake,
    fun s held => ⟨_, congrArg Host.Outcome.next (if_pos held), ⟨rfl, rfl, rfl⟩, rfl⟩,
    fun s good perst running lo awake => congrArg Host.Outcome.next (if_pos ?enters)⟩
  case unreadable =>
    obtain ⟨-, stands, -⟩ := h
    obtain ⟨phase, cause, milestone⟩ := directHold_clk 5 s
    exact ⟨phase, cause, milestone.trans (by rw [stands]; rfl)⟩
  case plls =>
    obtain ⟨phase, milestone, attempt, cause, -⟩ := faultPath_hold first 6
    exact ⟨phase, milestone, attempt, cause⟩
  case srams =>
    obtain ⟨retired, phase⟩ := startRetire_retires c 4 s
    rw [doM8_one lt]
    exact ⟨moved_reach (phase.trans h.1), retired⟩
  case stalled =>
    obtain ⟨phase, -, attempt, cause, count⟩ := faultPath_hold first 1
    exact ⟨phase, attempt, cause, count⟩
  case late =>
    obtain ⟨phase, -, -, cause, -⟩ := faultPath_hold first 2
    exact ⟨phase, cause⟩
  case enters => simp [good, perst, running, lo, awake]

end Sys2Proof.Proofs
end

section
/-!
The memory of the block (chapter 09, R74, R231, R481): its canonical form under every step and at
reset (log 9), and what a store writes and leaves alone.
-/
namespace Sys2Proof.Proofs
open Sys2Proof.Machine Sys2Proof.Laws

/-! ## The canonical form under a step -/

/-- A nanosecond that passes keeps memory canonical. -/
theorem idle_memoryWf {s : State} (h : memoryWf s) : memoryWf (idle s) :=
  (tickNs_keeps (keeps_refl _ s) (sub_refl _)).mem h

/-- Settles O43: a step is its front command, which keeps memory canonical, or a nanosecond (log 9: the form is how the model
represents memory; log 2: the idle step). -/
theorem stepKeepsMemory : Obligations.StepKeepsMemory := by
  intro s t wf run
  rw [step] at run
  split at run
  case h_1 =>
    cases run
    exact idle_memoryWf wf
  case h_2 c rest front => exact (exec_keeps run).mem wf

/-- Settles O45: every list of State.reset is empty (log 3: what reset is; log 9: an unlisted byte reads 0). -/
theorem invariantsAtReset : Obligations.InvariantsAtReset :=
  ⟨rfl, rfl, fun _ => rfl, rfl, rfl, rfl, rfl, rfl, ⟨rfl, rfl⟩, rfl, rfl, oneWay_refl _⟩

/-! ## The frame of a store -/

@[simp] theorem touch_mem (slot off n : Nat) (wr : Bool) (s : State) : (touch slot off n wr s).mem = s.mem :=
  (touch_keeps (keeps_refl _ s) (sub_refl _) slot off n wr).only.mem rfl

/-- A store leaves every committed byte outside its range as it was. -/
theorem storeMem_outside (a : Accessor) (slot off : Nat) (bs : List Byte) (s : State) {k : Nat}
    (h : k < memKey slot off ∨ memKey slot off + bs.length ≤ k) :
    cellGet (storeMem a slot off bs s).mem k = cellGet s.mem k := by
  rw [storeMem, writeMem_outside a slot off bs _ h, touch_mem]

/-! ## A write within one line -/

@[simp] theorem cowWrite_poison (a : Accessor) (slot off : Nat) (bs : List Byte) (s : State) :
    (cowWrite a slot off bs s).poison = s.poison :=
  (cowWrite_keeps (keeps_refl _ s) (sub_refl _) a slot off bs).only.poison rfl

/-- Which stacks are offline is read off the page maps and the offline partitions alone. -/
theorem lineLost_congr {s t : State} (mems : t.mems = s.mems) (clk : t.clk = s.clk) (slot off : Nat) :
    lineLost t slot off = lineLost s slot off := by
  simp only [lineLost, stackOf, stackOff, partOff, mems, clk]

@[simp] theorem lineLost_cowWrite (a : Accessor) (slot off : Nat) (bs : List Byte) (s : State) (n : Nat) :
    lineLost (cowWrite a slot off bs s) slot n = lineLost s slot n :=
  have frame := (cowWrite_keeps (keeps_refl _ s) (sub_refl _) a slot off bs).only
  lineLost_congr (frame.mems rfl) (frame.clk rfl) slot n

/-- A range within a line has one line. -/
theorem linesOf_within {off n : Nat} (within : off % 64 + n ≤ 64) (pos : n ≠ 0) : linesOf off n = [off / 64 * 64] := by
  have one : (off + n - 1) / 64 - off / 64 + 1 = 1 := by omega
  rw [linesOf, if_neg pos, one]
  simp

/-- A write within a line is that line's write. -/
theorem writeMem_within {off : Nat} {bs : List Byte} (within : off % 64 + bs.length ≤ 64) (ne : bs ≠ []) (a : Accessor)
    (slot : Nat) (s : State) :
    writeMem a slot off bs s = breakResv [lineKey slot (off / 64 * 64)]
      (writeLine a slot off bs (cowWrite a slot off bs s)) := by
  have lo : max (off / 64 * 64) off = off := by omega
  have hi : min (off / 64 * 64 + 64) (off + bs.length) - off = bs.length := by omega
  rw [writeMem, linesOf_within within (by simpa using ne)]
  simp only [List.foldl_cons, List.foldl_nil, List.map_cons, List.map_nil, lo, hi, Nat.sub_self, List.drop_zero,
    List.take_length]

/-- A line on an offline stack takes no write (R481). -/
theorem writeLine_lost {s : State} {slot off : Nat} (h : lineLost s slot off = true) (a : Accessor) (bs : List Byte) :
    writeLine a slot off bs s = s := if_pos h

/-- A poisoned line takes no write of a part of it (R255). -/
theorem writeLine_poisoned {s : State} {slot off : Nat} {bs : List Byte} (h : thas s.poison (lineKey slot off) = true)
    (part : bs.length ≠ 64) (a : Accessor) : writeLine a slot off bs s = s := by
  have short : ¬ (off % 64 = 0 ∧ bs.length = 64) := fun whole => part whole.2
  rw [writeLine, if_pos h, if_neg short, ite_self]

/-- Any other line takes the bytes. -/
theorem writeLine_clean {s : State} {slot off : Nat} (up : lineLost s slot off = false)
    (clean : thas s.poison (lineKey slot off) = false) (a : Accessor) (bs : List Byte) :
    writeLine a slot off bs s = putBytes a slot off bs s := by
  rw [writeLine, if_neg (by simp [up]), if_neg (by simp [clean])]

/-! ## The bytes written -/

/-- A device block writes the committed version. -/
theorem putByte_block_mem (slot off : Nat) (b : Byte) (s : State) :
    (putByte .block slot off b s).mem = cellPut s.mem (memKey slot off) b := putByte_mem .block slot off b s

/-- Bytes a device block puts read back in a canonical memory. -/
theorem cellGet_putBytes_block {s : State} (wf : memoryWf s) (slot off : Nat) {bs : List Byte} {i : Nat}
    (h : i < bs.length) : cellGet (putBytes .block slot off bs s).mem (memKey slot off + i) = bs.getD i 0 := by
  induction bs generalizing off i s with
  | nil => exact absurd h (Nat.not_lt_zero i)
  | cons b bs ih =>
    rw [putBytes]
    have wf' : memoryWf (putByte .block slot off b s) := by
      rw [memoryWf, putByte_block_mem]
      exact cellPut_wf _ _ _ wf
    cases i with
    | zero =>
      rw [putBytes_outside .block slot (off + 1) bs _ (.inl (by rw [memKey_add]; omega)), putByte_block_mem,
        Nat.add_zero (memKey slot off)]
      exact cellGet_put_same b wf
    | succ i =>
      have next := ih wf' (off + 1) (Nat.lt_of_succ_lt_succ h)
      rw [memKey_add, Nat.add_right_comm, Nat.add_assoc] at next
      exact next

/-- Settles O48: a write within a line either puts its bytes or, on an offline stack or as part of a poisoned line, nothing. -/
theorem storedBytes : Obligations.StoredBytes := by
  refine ⟨fun s a slot off bs k outside => storeMem_outside a slot off bs s outside,
    fun s slot off bs wf within ne up clean i lt => ?stored,
    fun s a slot off bs within ne lost => ?lost, fun s a slot off bs within ne poisoned part => ?poisoned⟩
  case stored =>
    rw [writeMem_within within ne, breakResv_mem, writeLine_clean (by simpa using up) (by simpa using clean)]
    exact cellGet_putBytes_block (by rw [memoryWf, cowWrite_mem]; exact wf) slot off lt
  case lost =>
    rw [writeMem_within within ne, breakResv_mem, writeLine_lost (by simpa using lost), cowWrite_mem]
  case poisoned =>
    rw [writeMem_within within ne, writeLine_poisoned (by simpa using poisoned) part]
    exact ⟨cowWrite_mem a slot off bs s, cowWrite_poison a slot off bs s⟩

end Sys2Proof.Proofs
end

section
/-!
Queue pairs and the records written to their rings (chapter 04): what a read of a queue pair gives after each operation, and
what a written record leaves alone.
-/
namespace Sys2Proof.Proofs
open Sys2Proof.Machine Sys2Proof.Laws

/-! ## Queue pairs -/

@[simp] theorem getQp_modQp (q : Nat) (f : QueuePair → QueuePair) (s : State) :
    getQp (modQp q f s) q = (getQp s q).map f := tget_tmod_same s.cmd.qps q f

@[simp] theorem getQp_mapDescs (f : Desc → Desc) (s : State) (q : Nat) : getQp (mapDescs f s) q = getQp s q := rfl

@[simp] theorem getQp_modPage (fn : Nat) (f : SvqPage → SvqPage) (s : State) (q : Nat) :
    getQp (modPage fn f s) q = getQp s q := rfl

@[simp] theorem getQp_modHif (f : HifState → HifState) (s : State) (q : Nat) : getQp (modHif f s) q = getQp s q := rfl

/-- A queue pair that is there holds what its change makes of it. -/
theorem getQp_modQp_some {s : State} {q : Nat} {p : QueuePair} (h : getQp s q = some p) (f : QueuePair → QueuePair) :
    getQp (modQp q f s) q = some (f p) := by
  rw [getQp_modQp, h, Option.map_some]

theorem modQp_only (q : Nat) (f : QueuePair → QueuePair) (s : State) : Only (partMask [.cmd]) s (modQp q f s) :=
  (modQp_keeps (keeps_refl (partMask [.cmd]) s) rfl q f).only

/-- A built service queue is the queue pair its function numbers, and its function's own. -/
theorem svqOf_some {s : State} {fn q : Nat} {p : QueuePair} (h : svqOf s fn = some (q, p)) :
    svqNum s fn = some q ∧ getQp s q = some p ∧ p.fn = fn := by
  rw [svqOf] at h
  split at h
  case h_2 => cases h
  case h_1 n num =>
    split at h
    case h_2 => cases h
    case h_1 p' found =>
      split at h
      case isFalse => cases h
      case isTrue own =>
        cases h
        exact ⟨num, found, own⟩

theorem svqOf_getQp {s : State} {fn q : Nat} {p : QueuePair} (h : svqOf s fn = some (q, p)) : getQp s q = some p := by
  obtain ⟨-, found, -⟩ := svqOf_some h
  exact found

/-! ## Messages and records (R92, R93) -/

/-- A message touches the host link's pending messages alone. -/
theorem msixSend_hif (fn vec : Nat) (s : State) :
    (msixSend fn vec s).hif = { s.hif with msixPending := (msixSend fn vec s).hif.msixPending } := by
  rw [msixSend]
  split <;> rfl

@[simp] theorem msixSend_cmd (fn vec : Nat) (s : State) : (msixSend fn vec s).cmd = s.cmd :=
  (msixSend_keeps (keeps_refl _ s) (sub_refl _) fn vec).only.cmd rfl

/-- A record touches, of the host link, the pending messages alone. -/
theorem writeRecord_hif (q : Nat) (notify : Nat → Option Nat → Bool) (rec : Nat → Bool → CplRec) (s : State) :
    (writeRecord q notify rec s).hif = { s.hif with msixPending := (writeRecord q notify rec s).hif.msixPending } := by
  rw [writeRecord]
  split
  case h_1 => rfl
  case h_2 p _ =>
    dsimp only
    split
    case h_2 => rfl
    case h_1 =>
      split
      case isFalse => rfl
      case isTrue =>
        rw [msixSend_hif]
        rfl

/-- A record touches, of the command block, the queue pairs alone. -/
theorem writeRecord_cmd (q : Nat) (notify : Nat → Option Nat → Bool) (rec : Nat → Bool → CplRec) (s : State) :
    (writeRecord q notify rec s).cmd = { s.cmd with qps := (writeRecord q notify rec s).cmd.qps } := by
  rw [writeRecord]
  split
  case h_1 => rfl
  case h_2 p _ =>
    dsimp only
    split
    case h_2 => rfl
    case h_1 =>
      split
      case isFalse => rfl
      case isTrue =>
        rw [msixSend_cmd]
        rfl

/-- A record moves the written position of its queue pair up by one. -/
theorem writeRecord_written {s : State} {q : Nat} {p : QueuePair} (h : getQp s q = some p)
    (notify : Nat → Option Nat → Bool) (rec : Nat → Bool → CplRec) :
    (getQp (writeRecord q notify rec s) q).map QueuePair.cqWritten = some (p.cqWritten + 1) := by
  have emitted : ∀ o, getQp (emit o s) q = some p := fun _ => h
  simp only [writeRecord, h]
  split
  case h_2 => simp [emitted]
  case h_1 =>
    split
    case isFalse => simp [emitted]
    case isTrue =>
      simp only [getQp, msixSend_cmd]
      rw [← getQp]
      simp [emitted]

end Sys2Proof.Proofs
end

section
/-!
Doorbells, service queues, VF-state records, unmasked messages and heartbeats (chapters 03 and 04, R65, R85 to R87, R91 to
R93, R99, R111).
-/
namespace Sys2Proof.Proofs
open Sys2Proof.Machine Sys2Proof.Laws

/-! ## Doorbells (R65, R91 to R93) -/

/-- The queue pair a doorbell reaches is built. -/
theorem doorQp_getQp {s : State} {bar page q : Nat} {p : QueuePair} (h : doorQp s bar page = some (q, p)) :
    getQp s q = some p := by
  rw [doorQp] at h
  split at h
  case h_2 => cases h
  case h_1 n _ =>
    split at h
    case h_2 => cases h
    case h_1 p' found =>
      split at h
      case isFalse => cases h
      case isTrue =>
        cases h
        exact found

section Reached
variable {s : State} {bar page q : Nat} {bound : Bool} {p : QueuePair} (o : doorOpen s bound = true)
  (d : doorQp s bar page = some (q, p))
include o d

theorem doorbellSq_reaches (v : Word) : exec (.doorbellSq bar page bound v) s =
    .next (modQp q (fun x => { x with sqTail := v.toNat % 65536 % 2 ^ p.sqLog }) s) :=
  congrArg Host.Outcome.next ((if_pos o).trans (by rw [d]))

theorem doorbellCq_reaches (v : Word) : exec (.doorbellCq bar page bound v) s =
    .next (modQp q (fun x => if bitOf v.toNat 31 then armQp (consumeTo (v.toNat % 65536 % 2 ^ p.cqLog) x)
      else consumeTo (v.toNat % 65536 % 2 ^ p.cqLog) x) s) :=
  congrArg Host.Outcome.next ((if_pos o).trans (by rw [d]))

theorem queueArm_reaches : exec (.queueArm bar page bound) s = .next (modQp q armQp s) :=
  congrArg Host.Outcome.next ((if_pos o).trans (by rw [d]))

end Reached

/-- ARM of CQ_HEAD is only ever set. -/
theorem consumeTo_arm (b : Bool) (head : Nat) (p : QueuePair) :
    (if b then armQp (consumeTo head p) else consumeTo head p) =
      { consumeTo head p with armed := p.armed || b } := by
  have kept : (consumeTo head p).armed = p.armed := by
    rw [consumeTo]
    split <;> rfl
  cases b
  · simp [← kept]
  · simp [armQp]

/-- With the window closed no doorbell, arm, build or unbuild has an effect. -/
theorem door_shut {s : State} {bound : Bool} (h : doorOpen s bound = false) (bar page fn : Nat) (v : Word) :
    exec (.doorbellSq bar page bound v) s = .next s ∧ exec (.doorbellCq bar page bound v) s = .next s ∧
    exec (.queueArm bar page bound) s = .next s ∧ exec (.build fn bound v) s = .next s ∧
    exec (.unbuild fn bound v) s = .next s := by
  have shut : ¬ doorOpen s bound = true := by simp [h]
  exact ⟨congrArg Host.Outcome.next (if_neg shut), congrArg Host.Outcome.next (if_neg shut),
    congrArg Host.Outcome.next (if_neg shut), congrArg Host.Outcome.next (if_neg shut),
    congrArg Host.Outcome.next (if_neg shut)⟩

/-! ## Service queues (R85 to R87) -/

/-- The queue pair a BUILD makes of a function's page 0. -/
def builtQp (fn : Nat) (p : SvqPage) : QueuePair :=
  { fn := fn, loc := 0, ctx := none, sqBase := p.sqBase, cqBase := p.cqBase, sqLog := p.sqLog, cqLog := p.cqLog
    vector := some p.vector, state := .live, sqTail := 0, fetchPos := 0, nextSub := 0, cqWritten := 0
    cqConsumed := 0, reserved := 0, armed := false, lastDstat := none, unbuilding := false }

theorem getQp_buildSvq (fn q : Nat) (s : State) : getQp (buildSvq fn q s) q = some (builtQp fn (pageOf s fn)) :=
  tget_tput_same _ q _

/-- BUILD of a service queue that is not built writes the other fields first. -/
theorem build_unbuilt {s : State} {fn q : Nat} {bound : Bool} (o : doorOpen s bound = true) (num : svqNum s fn = some q)
    (unbuilt : svqOf s fn = none) (v : Word) :
    exec (.build fn bound v) s = .next (buildSvq fn q (modPage fn (writeCfg fn v.toNat false) s)) :=
  congrArg Host.Outcome.next ((if_pos o).trans (by simp only [doBuild, num, unbuilt]))

/-- UNBUILD ends what is fetched, and no descriptor of the queue pair writes a record any more. -/
def unbuildDesc (q : Nat) (d : Desc) : Desc :=
  if d.qp = q then
    (if d.phase = .fetched then { d with phase := .ended (resOf St.aborted), noRecord := true }
     else { d with noRecord := true })
  else d

theorem unbuildDesc_qp (q : Nat) (d : Desc) : (unbuildDesc q d).qp = d.qp := by
  unfold unbuildDesc
  split
  · split <;> rfl
  · rfl

theorem unbuildDesc_ends {q : Nat} {d : Desc} (h : d.qp = q) :
    (unbuildDesc q d).noRecord = true ∧ (unbuildDesc q d).phase ≠ .fetched := by
  rw [unbuildDesc, if_pos h]
  split
  case isTrue => exact ⟨rfl, by simp⟩
  case isFalse started => exact ⟨rfl, started⟩

theorem unbuild_built {s : State} {fn q : Nat} {p : QueuePair} {bound : Bool} (o : doorOpen s bound = true)
    (svq : svqOf s fn = some (q, p)) (v : Word) : exec (.unbuild fn bound v) s =
      .next (mapDescs (unbuildDesc q)
        (modQp q (fun p => { p with unbuilding := true }) (modPage fn (writeCfg fn v.toNat true) s))) :=
  congrArg Host.Outcome.next ((if_pos o).trans (by simp only [doUnbuild, svq]; rfl))

/-- No descriptor is fetched from a queue pair that is being unbuilt. -/
theorem canFetch_unbuilding (s : State) (q : Nat) {p : QueuePair} (h : p.unbuilding = true) : canFetch s q p = false := by
  simp [canFetch, h]

/-- An unbuilt service queue with nothing left goes, and its pending values are applied. -/
theorem serviceQueueUnbuilt_done {s : State} {fn q : Nat} {p : QueuePair} (svq : svqOf s fn = some (q, p))
    (un : p.unbuilding = true) (left : ∀ d ∈ s.cmd.descs, d.qp ≠ q) (free : (pageOf s fn).heldBuild = false) :
    exec (.serviceQueueUnbuilt fn) s = .next (modPage fn applyPage
      (modCmd (fun c => { c with qps := tdel c.qps q, hearts := tdel c.hearts fn }) s)) := by
  have empty : (s.cmd.descs.any fun d => decide (d.qp = q)) = false := by simpa using left
  have held : (pageOf (modCmd (fun c => { c with qps := tdel c.qps q, hearts := tdel c.hearts fn }) s) fn).heldBuild
      = false := free
  show execServiceQueueUnbuilt fn s = _
  simp [execServiceQueueUnbuilt, svq, un, empty, held]

/-! ## VF-state records, unmasked messages and heartbeats (R93, R99, R111) -/

/-- The record of the PF service ring that reports a VF's state. -/
def vfStateRec (r : VfRecord) (ds : Nat) (ph : Bool) : CplRec :=
  { tag := 0, handle := 0, aux := r.vf, value := r.word, index := 0, op := r.op, status := r.status, dstat := ds
    flags := 0, phase := ph }

/-- The oldest VF-state record is written to a queue pair; the rest stay queued. -/
def vfStateWritten (q : Nat) (r : VfRecord) (rest : List VfRecord) (s : State) : State :=
  writeRecord q (fun _ _ => true) (vfStateRec r) (modHif (fun h => { h with vfRecords := rest }) s)

section Record
variable {s : State} {r : VfRecord} {rest : List VfRecord} {q : Nat} {p : QueuePair} (queued : s.hif.vfRecords = r :: rest)
  (svq : svqOf s 0 = some (q, p))
include queued svq

theorem vfStateRecordWrite_free (room : 2 ≤ freeSlots p) : exec .vfStateRecordWrite s =
    .next (vfStateWritten q r rest s) := by
  show execVfStateRecordWrite s = _
  simp only [execVfStateRecordWrite, queued, svq, room, if_true]
  rfl

theorem vfStateRecordWrite_full (full : freeSlots p < 2) : exec .vfStateRecordWrite s = .next s := by
  show execVfStateRecordWrite s = _
  simp only [execVfStateRecordWrite, queued, svq, Nat.not_le.mpr full, if_false]

end Record

@[simp] theorem vfStateWritten_vfRecords (q : Nat) (r : VfRecord) (rest : List VfRecord) (s : State) :
    (vfStateWritten q r rest s).hif.vfRecords = rest := by
  rw [vfStateWritten, writeRecord_hif]
  rfl

theorem vfStateWritten_only (q : Nat) (r : VfRecord) (rest : List VfRecord) (s : State) :
    Only (partMask [.hif, .cmd, .out]) s (vfStateWritten q r rest s) :=
  (writeRecord_keeps (keeps_set_hif (keeps_refl (partMask [.hif, .cmd, .out]) s) rfl _) rfl q _ _).only

/-- A message held for a vector leaves as the vector is unmasked. -/
theorem msixUnmask_held {s : State} {fn vec : Nat} (h : fn * 4096 + vec ∈ s.hif.msixPending) :
    exec (.msixUnmask fn vec) s = .next (emit (.msix fn vec) (modHif (fun h => { h with
      msixPending := h.msixPending.filter fun j => j ≠ fn * 4096 + vec
      msix := tupd h.msix (fn * 4096 + vec) msixInit fun e => { e with masked := false } }) s)) :=
  congrArg Host.Outcome.next (if_pos (List.contains_iff_mem.mpr h))

/-- A function's heart. -/
def heartOf (s : State) (fn : Nat) : Heart := tgetD s.cmd.hearts fn { seq := 0, skipped := 0 }

/-- A function's heart is set. -/
def setHeart (fn : Nat) (h : Heart) (s : State) : State := modCmd (fun c => { c with hearts := tput c.hearts fn h }) s

@[simp] theorem getQp_setHeart (fn : Nat) (h : Heart) (s : State) (q : Nat) : getQp (setHeart fn h s) q = getQp s q := rfl

@[simp] theorem heartOf_setHeart (fn : Nat) (h : Heart) (s : State) : heartOf (setHeart fn h s) fn = h :=
  tgetD_tput_same s.cmd.hearts fn h _

/-- A record leaves the hearts alone. -/
theorem heartOf_writeRecord (q : Nat) (notify : Nat → Option Nat → Bool) (rec : Nat → Bool → CplRec) (s : State)
    (fn : Nat) : heartOf (writeRecord q notify rec s) fn = heartOf s fn := by
  rw [heartOf, writeRecord_cmd]
  rfl

/-- The record of a heartbeat of number `h.seq`, taken from the ring's fetch position at a time. -/
def heartRec (h : Heart) (pos time ds : Nat) (ph : Bool) : CplRec :=
  { tag := h.skipped, handle := 0, aux := h.seq, value := time, index := pos, op := 0xFF, status := St.done
    dstat := ds, flags := 0, phase := ph }

section Heart
variable {s : State} {fn q : Nat} {p : QueuePair} (runs : heartsRun s = true) (svq : svqOf s fn = some (q, p))
include runs svq

theorem heartbeat_written (room : 1 ≤ freeSlots p) : exec (.heartbeat fn) s =
    .next (writeRecord q (fun ds last => decide (last ≠ some ds)) (heartRec (heartOf s fn) p.fetchPos (timeBase s))
      (setHeart fn { seq := ((heartOf s fn).seq + 1) % 2 ^ 32, skipped := 0 } s)) := by
  show execHeartbeat fn s = _
  simp only [execHeartbeat, runs, svq, room, if_true]
  rfl

theorem heartbeat_skipped (full : freeSlots p = 0) : exec (.heartbeat fn) s =
    .next (setHeart fn { seq := ((heartOf s fn).seq + 1) % 2 ^ 32
                         skipped := satAdd (2 ^ 32 - 1) (heartOf s fn).skipped 1 } s) := by
  have none : ¬ 1 ≤ freeSlots p := by omega
  show execHeartbeat fn s = _
  simp only [execHeartbeat, runs, svq, none, if_true, if_false]
  rfl

end Heart

/-- Settles O12: doorbells change one queue pair, records go through `writeRecord` (log 98: a CQ_HEAD at the consumed position
consumes nothing, a heartbeat is skipped only without a free slot). -/
theorem doorbellsAndServiceQueues : Obligations.DoorbellsAndServiceQueues := by
  refine ⟨fun s bar page bound v q p o d => ⟨_, doorbellSq_reaches o d v, ?tail, modQp_only _ _ s⟩,
    fun s bar page bound v q p o d => ⟨_, doorbellCq_reaches o d v, modQp_only _ _ s, ?head⟩,
    fun s bar page bound q p o d => ⟨_, queueArm_reaches o d, ?arm, modQp_only _ _ s⟩,
    fun s bar page fn bound v shut => door_shut shut bar page fn v,
    fun s fn bound v q o num unbuilt vec => ⟨_, build_unbuilt o num unbuilt v, _, getQp_buildSvq _ _ _, ?built⟩,
    fun s fn bound v q p o svq => ⟨_, unbuild_built o svq v, ?unbuilding, ?stopped, canFetch_unbuilding _ _ rfl⟩,
    fun s fn q p svq un left free => ⟨_, serviceQueueUnbuilt_done svq un left free, rfl, ?applied⟩,
    fun s r rest q p queued svq room =>
      ⟨_, vfStateRecordWrite_free queued svq room, vfStateWritten_vfRecords q r rest s,
        writeRecord_written ((getQp_modHif _ s q).trans (svqOf_getQp svq)) _ _, vfStateWritten_only q r rest s⟩,
    fun s r rest q p queued svq full => vfStateRecordWrite_full queued svq full,
    fun s fn vec held => ⟨_, msixUnmask_held held, rfl, ?released, ?unmasked⟩,
    fun s fn q p runs svq room => ⟨_, heartbeat_written runs svq room, ?beats, ?recorded⟩,
    fun s fn q p runs svq full => ⟨_, heartbeat_skipped runs svq full, heartOf_setHeart _ _ _, rfl, rfl⟩⟩
  case tail => exact getQp_modQp_some (doorQp_getQp d) _
  case head =>
    rw [getQp_modQp_some (doorQp_getQp d), consumeTo_arm, consumeTo]
    dsimp only
    split <;> rfl
  case arm => exact getQp_modQp_some (doorQp_getQp d) armQp
  case built =>
    simp only [pageOf_modPage, writeCfg, builtQp, Bool.false_eq_true, if_false, vec, decide_true, if_true]
    simp
  case unbuilding => exact getQp_modQp_some (q := q) (s := modPage fn _ s) (svqOf_getQp svq) _
  case stopped =>
    intro d' there own
    obtain ⟨d, -, rfl⟩ := List.mem_map.mp there
    exact unbuildDesc_ends ((unbuildDesc_qp q d).symm.trans own)
  case applied => exact pageOf_modPage fn applyPage _
  case released => simp [emit]
  case unmasked => simp [emit]
  case beats => exact (heartOf_writeRecord _ _ _ _ fn).trans (heartOf_setHeart _ _ _)
  case recorded => exact writeRecord_written ((getQp_setHeart _ _ s q).trans (svqOf_getQp svq)) _ _

end Sys2Proof.Proofs
end

section
/-!
VF provisioning, teardown and function resets (chapter 03, R57, R69 to R75, R99).
-/
namespace Sys2Proof.Proofs
open Sys2Proof.Machine Sys2Proof.Laws

/-! ## Folds -/

/-- What each step of a fold keeps, the fold keeps. -/
theorem foldl_kept {α β γ : Type} (g : α → γ) {f : α → β → α} (h : ∀ x b, g (f x b) = g x) (l : List β) (x : α) :
    g (l.foldl f x) = g x := by
  induction l generalizing x with
  | nil => rfl
  | cons b l ih => exact (ih (f x b)).trans (h x b)

/-! ## A VF's entry and its reports (R69, R99) -/

/-- A write of HIF_VF_CTRL of a VF reaches it. -/
def VfOpen (src : Src) (v : Nat) (s : State) : Prop :=
  srcOpen s src = true ∧ vfLegal v = true ∧ regBlocked s (.hifVfCtrl v) true = false

theorem modVf_only (v : Nat) (f : VfEntry → VfEntry) (s : State) : Only (partMask [.hif]) s (modVf v f s) :=
  (modVf_keeps (keeps_refl (partMask [.hif]) s) rfl v f).only

/-- A report changes LAST_STATUS of its VF. -/
@[simp] theorem vfOf_vfReport (op v status : Nat) (s : State) :
    vfOf (vfReport op v status s) v = { vfOf s v with lastStatus := status } := by
  rw [vfReport]
  split <;> exact vfOf_modVf v (fun e => { e with lastStatus := status }) s

theorem vfOf_vfReport_ne {v w : Nat} (h : w ≠ v) (op status : Nat) (s : State) :
    vfOf (vfReport op v status s) w = vfOf s w := by
  rw [vfReport]
  split <;> exact vfOf_modVf_ne (fun e => { e with lastStatus := status }) s h

/-- A report touches, of the host link, the entries and the records alone. -/
theorem vfReport_hif (op v status : Nat) (s : State) : (vfReport op v status s).hif =
    { s.hif with vfs := (vfReport op v status s).hif.vfs, vfRecords := (vfReport op v status s).hif.vfRecords } := by
  rw [vfReport]
  split <;> rfl

/-- Reports of one VF one after the other leave the last one's status. -/
theorem vfOf_reports {α : Type} (op v status : Nat) (l : List α) (s : State) :
    vfOf (l.foldl (fun s _ => vfReport op v status s) s) v =
      { vfOf s v with lastStatus := if l = [] then (vfOf s v).lastStatus else status } := by
  induction l generalizing s with
  | nil => rfl
  | cons a l ih =>
    rw [List.foldl_cons, ih, vfOf_vfReport]
    simp

theorem dirty_reports {α : Type} (op v status : Nat) (l : List α) (s : State) :
    (l.foldl (fun s _ => vfReport op v status s) s).hif.dirty = s.hif.dirty :=
  foldl_kept (fun s : State => s.hif.dirty) (fun s _ => by rw [vfReport_hif]) l s

/-! ## COMMIT (R70) -/

theorem commit_open {src : Src} {v : Nat} {s : State} (h : VfOpen src v s) :
    exec (.commit src v) s = .next (commitVf v s) := by
  obtain ⟨o, legal, free⟩ := h
  exact congrArg Host.Outcome.next (if_pos (by simp [o, legal, free]))

theorem release_open {src : Src} {v : Nat} {s : State} (h : VfOpen src v s) :
    exec (.release src v) s = .next (releaseVf v s) := by
  obtain ⟨o, legal, free⟩ := h
  exact congrArg Host.Outcome.next (if_pos (by simp [o, legal, free]))

/-- With the record queue full COMMIT and RELEASE only answer RETRY_LATER. -/
theorem vfCtrl_full {c : Src → Nat → Instr} (k : c = Instr.commit ∨ c = Instr.release) {src : Src} {v : Nat} {s : State}
    (h : VfOpen src v s) (full : vfQueueFull s = true) :
    exec (c src v) s = .next (modVf v (fun e => { e with lastStatus := St.retryLater }) s) := by
  rcases k with rfl | rfl
  · exact (commit_open h).trans (congrArg Host.Outcome.next (if_pos full))
  · exact (release_open h).trans (congrArg Host.Outcome.next (if_pos full))

section Commit
variable {v : Nat} {s : State} (room : vfQueueFull s = false)
include room

/-- In a session COMMIT is NOT_PERMITTED. -/
theorem commitVf_confidential (conf : confidential s = true) : commitVf v s = vfReport 0xF0 v St.notPermitted s := by
  rw [commitVf, if_neg (by simp [room]), if_pos conf]

theorem commitVf_idle (plain : confidential s = false) (idle : (vfOf s v).state = .idle) :
    commitVf v s = commitIdle v St.done s := by
  rw [commitVf, if_neg (by simp [room]), if_neg (by simp [plain]), idle]

/-- A COMMIT in TEARDOWN is held while the VF is enabled. -/
theorem commitVf_teardown (plain : confidential s = false) (tearing : (vfOf s v).state = .teardown)
    (on : vfEnabled s v = true) : commitVf v s = modVf v (fun e => { e with state := .held }) s := by
  rw [commitVf, if_neg (by simp [room]), if_neg (by simp [plain]), tearing]
  exact if_pos on

end Commit

section Weighed
variable {v : Nat} {s : State} (on : vfEnabled s v = true) (bar : (vfOf s v).quota.queuePairs ≤ 256 * s.hif.vfBarMib)
include on bar

theorem commitIdle_weighed (good : Nat) : commitIdle v good s =
    if shortPools s (vfOf s v).quota ≠ 0 then
      vfReport 0xF0 v St.refusedState (modVf v (fun e => { e with short := shortPools s (vfOf s v).quota }) s)
    else vfReport 0xF0 v good (modVf v (fun e => { e with
      state := .active, short := 0, qpMap := (freeGlobals s).take (vfOf s v).quota.queuePairs }) s) :=
  if_neg (by simp [on, bar])

/-- A quota that fits makes the VF ACTIVE with the lowest free queue pairs. -/
theorem vfOf_commitIdle_fits (fits : shortPools s (vfOf s v).quota = 0) (good : Nat) :
    vfOf (commitIdle v good s) v = { vfOf s v with
      state := .active, short := 0, lastStatus := good, qpMap := (freeGlobals s).take (vfOf s v).quota.queuePairs } := by
  rw [commitIdle_weighed on bar, if_neg (not_not.mpr fits), vfOf_vfReport, vfOf_modVf]

/-- A quota that does not fit leaves the VF IDLE, with the pools found short. -/
theorem vfOf_commitIdle_short (short : shortPools s (vfOf s v).quota ≠ 0) (good : Nat) :
    vfOf (commitIdle v good s) v =
      { vfOf s v with short := shortPools s (vfOf s v).quota, lastStatus := St.refusedState } := by
  rw [commitIdle_weighed on bar, if_pos short, vfOf_vfReport, vfOf_modVf]

end Weighed

/-! ## Teardowns (R70, R72, R73) -/

/-- A teardown of a VF has begun. -/
def Torn (v : Nat) (t : State) : Prop := (vfOf t v).state = .teardown ∧ (vfOf t v).tdStep = .begun

@[simp] theorem vfOf_beginTeardown (v : Nat) (flr : Bool) (s : State) : vfOf (beginTeardown v flr s) v =
    { vfOf s v with state := .teardown, tdStep := .begun, tdFlr := flr, squashed := 0 } := vfOf_modVf v _ s

theorem vfOf_beginTeardown_ne {v w : Nat} (h : w ≠ v) (flr : Bool) (s : State) :
    vfOf (beginTeardown v flr s) w = vfOf s w := vfOf_modVf_ne _ s h

theorem beginTeardown_torn (v : Nat) (flr : Bool) (s : State) : Torn v (beginTeardown v flr s) := by
  simp [Torn]

/-- A queue pair as its function's teardown leaves it. -/
def tornQp (v : Nat) (p : QueuePair) : QueuePair := if p.fn = v then { p with state := .aborting } else p

/-- A teardown of a VF aborts its queue pairs. -/
theorem beginTeardown_aborts {v q : Nat} {flr : Bool} {s : State} {p : QueuePair}
    (h : tget (beginTeardown v flr s).cmd.qps q = some p) (own : p.fn = v) : p.state = .aborting := by
  obtain ⟨p', -, rfl⟩ : ∃ p', tget s.cmd.qps q = some p' ∧ tornQp v p' = p :=
    Option.map_eq_some_iff.mp ((tget_tmapv s.cmd.qps (fun _ => tornQp v) q).symm.trans h)
  rw [tornQp] at own ⊢
  split at own
  case isTrue mine => rw [if_pos mine]
  case isFalse other => exact absurd own other

/-- RELEASE of an IDLE VF is DONE at once. -/
theorem releaseVf_idle {v : Nat} {s : State} (room : vfQueueFull s = false) (idle : (vfOf s v).state = .idle) :
    releaseVf v s = vfReport 0xF1 v St.done s := by
  rw [releaseVf, if_neg (by simp [room]), idle]

/-- RELEASE of an ACTIVE VF begins a teardown, and one RELEASE more is owed. -/
theorem releaseVf_active {v : Nat} {s : State} (room : vfQueueFull s = false) (active : (vfOf s v).state = .active) :
    releaseVf v s = modVf v (fun e => { e with releases := e.releases + 1, tdFlr := false }) (beginTeardown v false s) := by
  rw [releaseVf, if_neg (by simp [room]), active]

theorem vfOf_dropHeld_ne {v w : Nat} (h : w ≠ v) (s : State) : vfOf (dropHeld v s) w = vfOf s w := by
  rw [dropHeld, vfOf_vfReport_ne h, vfOf_modVf_ne _ s h]

/-- A VF that stops being enabled leaves every other VF alone. -/
theorem vfOf_disableVf_ne {v w : Nat} (h : w ≠ v) (s : State) : vfOf (disableVf v s) w = vfOf s w := by
  rw [disableVf]
  split
  case h_1 => rfl
  case h_2 => exact vfOf_beginTeardown_ne h false s
  case h_3 => exact vfOf_modVf_ne _ s h
  case h_4 => exact vfOf_dropHeld_ne h s

theorem disableVf_active {v : Nat} {s : State} (active : (vfOf s v).state = .active) :
    disableVf v s = beginTeardown v false s := by
  rw [disableVf, active]

/-- A teardown that has begun is not begun again. -/
theorem disableVf_torn {v : Nat} {s : State} (h : Torn v s) : Torn v (disableVf v s) := by
  obtain ⟨tearing, begun⟩ := h
  rw [disableVf, tearing]
  simp [Torn, tearing, begun]

theorem dropHeld_hif (v : Nat) (s : State) : (dropHeld v s).hif =
    { s.hif with vfs := (dropHeld v s).hif.vfs, vfRecords := (dropHeld v s).hif.vfRecords } := by
  rw [dropHeld, vfReport_hif]
  rfl

/-- A VF that stops being enabled leaves NumVFs alone. -/
theorem disableVf_numVfs (s : State) (v : Nat) : (disableVf v s).hif.numVfs = s.hif.numVfs := by
  rw [disableVf]
  split
  case h_4 => rw [dropHeld_hif]
  all_goals rfl

/-- A VF that stops being enabled leaves VF Enable alone. -/
theorem disableVf_vfEnable (s : State) (v : Nat) : (disableVf v s).hif.vfEnable = s.hif.vfEnable := by
  rw [disableVf]
  split
  case h_4 => rw [dropHeld_hif]
  all_goals rfl

/-- Disabling VFs one by one tears each ACTIVE one of them down. -/
theorem disableVf_fold_torn {v : Nat} {l : List Nat} {s : State} (h : Torn v s ∨ (vfOf s v).state = .active ∧ v ∈ l) :
    Torn v (l.foldl (fun s v => disableVf v s) s) := by
  induction l generalizing s with
  | nil => simpa using h
  | cons w l ih =>
    rw [List.foldl_cons]
    by_cases e : v = w
    · subst e
      rcases h with torn | ⟨active, -⟩
      · exact ih (.inl (disableVf_torn torn))
      · rw [disableVf_active active]
        exact ih (.inl (beginTeardown_torn v false s))
    · have same := vfOf_disableVf_ne e s
      refine ih ?_
      rw [Torn, same]
      rcases h with torn | ⟨active, there⟩
      · exact .inl torn
      · exact .inr ⟨active, (List.mem_cons.mp there).resolve_left e⟩

theorem disableVfs_numVfs (s : State) : (disableVfs s).hif.numVfs = s.hif.numVfs :=
  foldl_kept (fun s : State => s.hif.numVfs) disableVf_numVfs _ s

theorem disableVfs_vfEnable (s : State) : (disableVfs s).hif.vfEnable = s.hif.vfEnable :=
  foldl_kept (fun s : State => s.hif.vfEnable) disableVf_vfEnable _ s

/-- Beyond NumVFs no VF is enabled. -/
theorem vfEnabled_beyond {v : Nat} {s : State} (h : s.hif.numVfs < v) : vfEnabled s v = false := by
  simp [vfEnabled, Nat.not_le.mpr h]

/-- Every ACTIVE VF that is no longer enabled tears down. -/
theorem disableVfs_torn {v : Nat} {s : State} (active : (vfOf s v).state = .active) (there : v ∈ tkeys s.hif.vfs)
    (out : vfEnabled s v = false) : Torn v (disableVfs s) :=
  disableVf_fold_torn (.inr ⟨active, List.mem_filter.mpr ⟨there, by simp [out]⟩⟩)

/-- NUMVFS_WRITE as the host sees it answered. -/
theorem numvfsWrite_open {s : State} (o : configOpen s = true) (n : Nat) : exec (.numvfsWrite n) s =
    .next (disableVfs (modHif (fun h => { h with numVfs := min 512 n }) s)) := congrArg Host.Outcome.next (if_pos o)

theorem vfEnableWrite_open {s : State} (o : configOpen s = true) (free : vfEnableHeld s = false) (on : Bool) :
    exec (.vfEnableWrite on) s = .next (disableVfs (modHif (fun h => { h with vfEnable := on }) s)) :=
  congrArg Host.Outcome.next (if_pos (by simp [o, free]))

theorem vfEnableWrite_held {s : State} (held : vfEnableHeld s = true) (on : Bool) :
    exec (.vfEnableWrite on) s = .next s :=
  congrArg Host.Outcome.next (if_neg (by simp [held]))

/-! ## The steps of a teardown (R71, R73, R74) -/

theorem tdAt_step {s : State} {v : Nat} {st : TdStep} (h : tdAt s v st = true) : (vfOf s v).tdStep = st := by
  simp only [tdAt, Bool.and_eq_true, decide_eq_true_eq] at h
  obtain ⟨-, step⟩ := h
  exact step

/-- A teardown stands at one step. -/
theorem tdAt_other {s : State} {v : Nat} {a b : TdStep} (h : tdAt s v a = true) (ne : a ≠ b) : ¬ tdAt s v b = true :=
  fun other => ne ((tdAt_step h).symm.trans (tdAt_step other))

/-- A VF that leaves TEARDOWN is IDLE, with its pending values applied and every RELEASE owed answered. -/
theorem vfOf_teardownIdle (v : Nat) (s : State) : vfOf (teardownIdle v s) v = { vfOf s v with
    state := .idle, quota := shownQuota (vfOf s v), pend := [], qpMap := [], releases := 0, tdFlr := false, squashed := 0
    lastStatus := if (vfOf s v).releases = 0 then (vfOf s v).lastStatus else St.done } := by
  rw [teardownIdle, vfOf_reports, vfOf_modVf]
  simp only [List.range_eq_nil]
  rfl

/-- The granules of a VF that leaves TEARDOWN are the PF's to zero. -/
theorem dirty_teardownIdle {v : Nat} (ne : v ≠ 0) (s : State) :
    tgetD (teardownIdle v s).hif.dirty 0 0 = tgetD s.hif.dirty 0 0 + tgetD s.hif.dirty v 0 := by
  rw [teardownIdle, dirty_reports]
  show tgetD (tupd (tdel s.hif.dirty v) 0 0 fun n => n + tgetD s.hif.dirty v 0) 0 0 = _
  rw [tgetD_tupd_same, tgetD, tget_tdel_ne _ ne.symm, ← tgetD]

section Ending
variable {s : State} {v : Nat} (h : tdAt s v .accounted = true) (tearing : (vfOf s v).state = .teardown)
include h tearing

/-- VF_TEARDOWN_END of a teardown that no COMMIT is held for. -/
theorem vfTeardownEnd_at : exec (.vfTeardownEnd v) s = .next (if (vfOf s v).tdFlr then
      modVf v (fun e => { e with state := .active, tdFlr := false, squashed := 0 }) s else teardownIdle v s) :=
  congrArg Host.Outcome.next ((if_pos h).trans (if_neg (by simp [tearing])))

theorem vfTeardownEnd_idle (plain : (vfOf s v).tdFlr = false) :
    exec (.vfTeardownEnd v) s = .next (teardownIdle v s) :=
  (vfTeardownEnd_at h tearing).trans (congrArg Host.Outcome.next (if_neg (by simp [plain])))

/-- The teardown of a function reset returns its VF to ACTIVE. -/
theorem vfTeardownEnd_flr (flr : (vfOf s v).tdFlr = true) : exec (.vfTeardownEnd v) s =
    .next (modVf v (fun e => { e with state := .active, tdFlr := false, squashed := 0 }) s) :=
  (vfTeardownEnd_at h tearing).trans (congrArg Host.Outcome.next (if_pos flr))

end Ending

/-- A count that is not 0 goes down by one. -/
theorem tgetD_tmod_pred {t : Tbl Nat} {k n : Nat} (h : tgetD t k 0 = n + 1) :
    tgetD (tmod t k fun n => n - 1) k 0 = n := by
  rw [tgetD, tget_tmod_same]
  cases listed : tget t k with
  | none => simp [tgetD, listed] at h
  | some m =>
    rw [tgetD, listed] at h
    exact congrArg Nat.pred h

/-! ## Function resets (R75) -/

/-- A key that a filter lets through nowhere reads as unlisted. -/
theorem tget_filter_none {α : Type} {t : Tbl α} {p : Nat × α → Bool} {k : Nat} (h : ∀ a, p (k, a) = false) :
    tget (t.filter p) k = none := by
  induction t with
  | nil => rfl
  | cons e t ih =>
    obtain ⟨j, a⟩ := e
    rw [List.filter_cons]
    split
    case isTrue keeps =>
      have ne : j ≠ k := by
        rintro rfl
        simp [h] at keeps
      rw [tget, if_neg ne, ih]
    case isFalse => exact ih

/-- The MSI-X table of a function at reset lists none of its vectors. -/
theorem tget_clearMsix (fn : Nat) (s : State) {k : Nat} (h : k / 4096 = fn) : tget (clearMsix fn s).hif.msix k = none :=
  tget_filter_none (by simp [h])

section Flr
variable {s : State} {v : Nat} (o : configOpen s = true) (on : vfEnabled s v = true)
include o on

theorem vfFlr_open : exec (.vfFlr v) s =
    .next (if (vfOf s v).state = .active then beginTeardown v true (clearMsix v s) else clearMsix v s) :=
  congrArg Host.Outcome.next (if_pos (by simp [o, on]))

/-- A function reset of an ACTIVE VF is a teardown that returns it to ACTIVE. -/
theorem vfFlr_active (active : (vfOf s v).state = .active) :
    exec (.vfFlr v) s = .next (beginTeardown v true (clearMsix v s)) :=
  (vfFlr_open o on).trans (congrArg Host.Outcome.next (if_pos active))

/-- A teardown absorbs a function reset. -/
theorem vfFlr_tearing (tearing : (vfOf s v).state = .teardown) : exec (.vfFlr v) s = .next (clearMsix v s) :=
  (vfFlr_open o on).trans (congrArg Host.Outcome.next (if_neg (by simp [tearing])))

end Flr

/-! ## The TDI while objects go (R61, R75) -/

theorem foldl_hif {β : Type} {f : State → β → State} (h : ∀ s b, (f s b).hif = s.hif) (l : List β) (s : State) :
    (l.foldl f s).hif = s.hif := foldl_kept State.hif h l s

theorem foldl_tdi {β : Type} {f : State → β → State} (h : ∀ s b, (f s b).hif.tdi = s.hif.tdi) (l : List β) (s : State) :
    (l.foldl f s).hif.tdi = s.hif.tdi := foldl_kept (fun s : State => s.hif.tdi) h l s

@[simp] theorem writeRecord_tdi (q : Nat) (notify : Nat → Option Nat → Bool) (rec : Nat → Bool → CplRec) (s : State) :
    (writeRecord q notify rec s).hif.tdi = s.hif.tdi := by
  rw [writeRecord_hif]

@[simp] theorem updateEvent_hif (slot : Nat) (op : EvOp) (s : State) : (updateEvent slot op s).hif = s.hif :=
  (updateEvent_keeps (keeps_refl _ s) (sub_refl _) slot op).only.hif rfl

@[simp] theorem completeDesc_tdi (d : Desc) (s : State) : (completeDesc d s).hif.tdi = s.hif.tdi := by
  rw [completeDesc]
  split
  case h_2 => rfl
  case h_1 r _ =>
    have written : (if d.noRecord || (dQuiet d && r.status = St.done) then s
        else writeRecord d.qp (fun _ _ => true) (descRec d r) s).hif.tdi = s.hif.tdi := by
      split
      · rfl
      · exact writeRecord_tdi _ _ _ s
    dsimp only
    split
    · rw [updateEvent_hif]
      exact written
    · exact written

@[simp] theorem freeQpSlot_tdi (q : Nat) (s : State) : (freeQpSlot q s).hif.tdi = s.hif.tdi :=
  foldl_tdi (fun s d => completeDesc_tdi d s) _ s

@[simp] theorem dropStreams_hif (p : Stream → Bool) (s : State) : (dropStreams p s).hif = s.hif :=
  (dropStreams_keeps (keeps_refl _ s) (sub_refl _) p).only.hif rfl

@[simp] theorem dropSlotLines_hif (slot : Nat) (s : State) : (dropSlotLines slot s).hif = s.hif :=
  (dropSlotLines_keeps (keeps_refl _ s) (sub_refl _) slot).only.hif rfl

@[simp] theorem giveSlot_hif (kind slot : Nat) (s : State) : (giveSlot kind slot s).hif = s.hif :=
  (giveSlot_keeps (keeps_refl _ s) (sub_refl _) kind slot).only.hif rfl

@[simp] theorem freeMem_tdi (slot : Nat) (s : State) : (freeMem slot s).hif.tdi = s.hif.tdi := by
  rw [freeMem]
  split
  case h_1 => rfl
  case h_2 => simp

@[simp] theorem freeEv_hif (slot : Nat) (s : State) : (freeEv slot s).hif = s.hif :=
  (freeEv_keeps (keeps_refl _ s) (sub_refl _) slot).only.hif rfl

@[simp] theorem freeKey_hif (slot : Nat) (s : State) : (freeKey slot s).hif = s.hif :=
  (freeKey_keeps (keeps_refl _ s) (sub_refl _) slot).only.hif rfl

@[simp] theorem freeGraph_hif (slot : Nat) (s : State) : (freeGraph slot s).hif = s.hif :=
  (freeGraph_keeps (keeps_refl _ s) (sub_refl _) slot).only.hif rfl

@[simp] theorem freeCtx_tdi (c : Nat) (s : State) : (freeCtx c s).hif.tdi = s.hif.tdi := by
  simp [freeCtx, foldl_hif, foldl_tdi]

@[simp] theorem mapDescs_hif (f : Desc → Desc) (s : State) : (mapDescs f s).hif = s.hif := rfl

@[simp] theorem abortDescs_hif (p : Desc → Bool) (s : State) : (abortDescs p s).hif = s.hif := rfl

@[simp] theorem beginDestroy_hif (c : Nat) (s : State) : (beginDestroy c s).hif = s.hif :=
  (beginDestroy_keeps (keeps_refl _ s) (sub_refl _) c).only.hif rfl

@[simp] theorem forceDestroy_tdi (s : State) (c : Nat) : (forceDestroy s c).hif.tdi = s.hif.tdi := by
  rw [forceDestroy]
  split
  case h_1 => rfl
  case h_2 x _ =>
    dsimp only
    rw [foldl_hif (f := fun s d => endD d (rRecovered d) s) (fun _ _ => rfl), freeCtx_tdi]
    split
    · rfl
    · rw [beginDestroy_hif]

/-- Destroying what a function owns leaves the TDI alone. -/
@[simp] theorem destroyFn_tdi (fn : Nat) (s : State) : (destroyFn fn s).hif.tdi = s.hif.tdi := by
  simp [destroyFn, foldl_tdi]

@[simp] theorem destroyFn_clk (fn : Nat) (s : State) : (destroyFn fn s).clk = s.clk :=
  (destroyFn_keeps (keeps_refl _ s) (sub_refl _) fn).only.clk rfl

@[simp] theorem clearMsix_tdi (fn : Nat) (s : State) : (clearMsix fn s).hif.tdi = s.hif.tdi := rfl

@[simp] theorem clearMsix_clk (fn : Nat) (s : State) : (clearMsix fn s).clk = s.clk := rfl

theorem tdiLocked_congr {s t : State} (h : t.hif.tdi = s.hif.tdi) : tdiLocked t = tdiLocked s := by
  simp [tdiLocked, h]

/-- A TDI that is not locked enters no ERROR. -/
theorem tdiError_unlocked {s : State} (h : tdiLocked s = false) : tdiError s = s := if_neg (by simp [h])

/-- What the PF and every listed VF own is destroyed. -/
def fnsDestroyed (s : State) : State := (0 :: tkeys s.hif.vfs).foldl (fun s f => clearMsix f (destroyFn f s)) s

@[simp] theorem fnsDestroyed_tdi (s : State) : (fnsDestroyed s).hif.tdi = s.hif.tdi := by
  rw [fnsDestroyed, foldl_tdi (by simp)]

@[simp] theorem fnsDestroyed_clk (s : State) : (fnsDestroyed s).clk = s.clk := by
  rw [fnsDestroyed, foldl_kept State.clk (by simp)]

/-- The granules that VFs hold. -/
def heldGib (s : State) : Nat := (s.hif.vfs.map fun (e : Nat × VfEntry) => if vfHolds e.2 then e.2.quota.hbmGib else 0).sum

/-- The host link and page 0 of every function at reset; the granules of the VFs are the PF's to zero. -/
def functionsReset (s : State) : State :=
  modCmd (fun c => { c with pages := [], hearts := [] }) (modHif (fun h => { h with
    vfs := [], numVfs := 0, vfEnable := false, vfRecords := [], dirty := [(0, tgetD h.dirty 0 0 + heldGib s)] }) s)

theorem pfFlr_eq (s : State) : pfFlr s = tdiError (functionsReset (fnsDestroyed s)) := rfl

@[simp] theorem functionsReset_tdi (s : State) : (functionsReset s).hif.tdi = s.hif.tdi := rfl

/-- An FLR of the PF with an unlocked TDI. -/
theorem pfFlr_unlocked {s : State} (h : tdiLocked s = false) : pfFlr s = functionsReset (fnsDestroyed s) := by
  have same : (functionsReset (fnsDestroyed s)).hif.tdi = s.hif.tdi := by simp
  rw [pfFlr_eq, tdiError_unlocked ((tdiLocked_congr same).trans h)]

theorem pfFlr_open {s : State} (o : configOpen s = true) (h : tdiLocked s = false) :
    exec .pfFlr s = .next (functionsReset (fnsDestroyed s)) :=
  congrArg Host.Outcome.next ((if_pos o).trans (pfFlr_unlocked h))

/-- Settles O10: COMMIT and RELEASE report through `vfReport`, every teardown is `beginTeardown` (log 34: a function reset clears
the MSI-X table and NumVFs in one command; log 37: how dirty granules are counted). -/
theorem vfProvisioning : Obligations.VfProvisioning := by
  refine ⟨fun s src v o room plain idle on bar fits => ⟨_, (commit_open o).trans (congrArg _ (commitVf_idle room plain idle)),
      vfOf_commitIdle_fits on bar fits St.done⟩,
    fun s src v o room plain idle on bar short => ⟨_, (commit_open o).trans (congrArg _ (commitVf_idle room plain idle)),
      vfOf_commitIdle_short on bar short St.done⟩,
    fun s src v o room plain tearing on => ⟨_, (commit_open o).trans (congrArg _ (commitVf_teardown room plain tearing on)),
      vfOf_modVf v _ s⟩,
    fun s src v o room conf => ⟨_, (commit_open o).trans (congrArg _ (commitVf_confidential room conf)),
      vfOf_vfReport 0xF0 v St.notPermitted s⟩,
    fun c s src v k o full => ⟨_, vfCtrl_full k o full, vfOf_modVf v _ s, rfl, modVf_only v _ s⟩,
    fun s src v o room idle => ⟨_, (release_open o).trans (congrArg _ (releaseVf_idle room idle)),
      vfOf_vfReport 0xF1 v St.done s⟩,
    fun s src v o room active => ⟨_, (release_open o).trans (congrArg _ (releaseVf_active room active)),
      ?torn, ?owes, rfl, fun q p there own => beginTeardown_aborts (v := v) there own⟩,
    fun s n o => ⟨_, numvfsWrite_open o n, disableVfs_numVfs _, fun v active there beyond =>
      disableVfs_torn active there (vfEnabled_beyond beyond)⟩,
    fun s on o free => ⟨_, vfEnableWrite_open o free on, disableVfs_vfEnable _, fun v active there off =>
      disableVfs_torn active there ?off⟩,
    fun s on held => vfEnableWrite_held held on, fun s mib o legal => ?bar,
    fun s v n h => ⟨_, congrArg Host.Outcome.next (if_pos h), ?drained⟩,
    fun s v h => ⟨_, congrArg Host.Outcome.next (if_pos h), ?aborted, rfl⟩,
    fun s v h => ⟨_, congrArg Host.Outcome.next (if_pos h), ?accounted⟩,
    fun s v n ne h tearing plain owed => ⟨_, vfTeardownEnd_idle h tearing plain, ?idle⟩,
    fun s v h tearing flr => ⟨_, vfTeardownEnd_flr h tearing flr, vfOf_modVf v _ s⟩,
    fun s v h => ⟨congrArg Host.Outcome.next (if_neg (tdAt_other h (by simp))),
      congrArg Host.Outcome.next (if_neg (tdAt_other h (by simp))),
      congrArg Host.Outcome.next (if_neg (tdAt_other h (by simp)))⟩,
    fun s fn n h => ⟨_, congrArg Host.Outcome.next (if_pos (by omega)), tgetD_tmod_pred h,
      (modHif_keeps (keeps_refl (partMask [.hif]) s) rfl _).only⟩,
    fun s v o on active => ⟨_, vfFlr_active o on active, beginTeardown_torn v true _, ?flr, fun k own =>
      tget_clearMsix v s own⟩,
    fun s v o on tearing => ⟨_, vfFlr_tearing o on tearing, rfl⟩,
    fun s o unlocked => ⟨_, pfFlr_open o unlocked, rfl, rfl, rfl, rfl, rfl, rfl⟩⟩
  case torn => simp
  case owes => simp
  case off => simp [vfEnabled, off]
  case bar =>
    refine congrArg Host.Outcome.next ((if_pos o).trans ?_)
    rcases legal with rfl | rfl | rfl <;> rfl
  case drained => simp [vfOf, modVf]
  case aborted => rw [vfOf_modVf]
  case accounted => simp [vfOf, modVf]
  case idle =>
    subst owed
    rw [vfOf_teardownIdle]
    exact ⟨rfl, rfl, rfl, rfl, fun pos => if_neg (Nat.ne_of_gt pos), dirty_teardownIdle ne s⟩
  case flr => rw [vfOf_beginTeardown]

end Sys2Proof.Proofs
end

section
/-!
The host link's errors, its IDE streams, TDISP, the DOE mailbox, completion timeouts and a VF's MSI-X table (chapter 03,
R56, R59 to R62, R66, R73, R429, R453, R472).
-/
namespace Sys2Proof.Proofs
open Sys2Proof.Machine Sys2Proof.Laws

/-! ## Errors and loss of the link (R59, R472) -/

/-- The newest fault record is the one just entered. -/
theorem fltRecord_newest (cls level : Nat) (escalated absorbed : Bool) (unit context detail : Nat) (s : State) :
    ((fltRecord cls level escalated absorbed unit context detail s).flt.ring.head?.map fun r => (r.cls, r.level)) =
      some (cls, level) := by
  rw [fltRecord, logWrite_flt]
  rfl

/-- A fault record halts nothing. -/
@[simp] theorem fltRecord_haltCause (cls level : Nat) (escalated absorbed : Bool) (unit context detail : Nat) (s : State) :
    (fltRecord cls level escalated absorbed unit context detail s).flt.haltCause = s.flt.haltCause := by
  rw [fltRecord, logWrite_flt]

theorem hostLinkError_up {s : State} (up : s.clk.inL0 = true) :
    exec .hostLinkError s = .next (emit .aer (fltRecord Cls.hostLink 0 false false 0 0 0 s)) :=
  congrArg Host.Outcome.next (if_pos up)

/-- A link that is down neither fails nor is lost again. -/
theorem hostLink_down {s : State} (down : s.clk.inL0 = false) :
    exec .hostLinkError s = .next s ∧ exec .hostLinkDown s = .next s :=
  ⟨congrArg Host.Outcome.next (if_neg (by simp [down])), congrArg Host.Outcome.next (if_neg (by simp [down]))⟩

/-- The link has left L0, and its loss is recorded. -/
def hostLinkLost (s : State) : State :=
  fltRecord Cls.hostLink 0 false false 0 0 0 (modClk (fun k => { k with inL0 := false }) s)

@[simp] theorem hostLinkLost_hif (s : State) : (hostLinkLost s).hif = s.hif := by simp [hostLinkLost]

@[simp] theorem hostLinkLost_clk (s : State) : (hostLinkLost s).clk = { s.clk with inL0 := false } := by simp [hostLinkLost]

/-- The loss of the link acts as an FLR of the PF. -/
theorem hostLinkDown_up {s : State} (up : s.clk.inL0 = true) (high : s.mod.perstN = true) (free : tdiLocked s = false) :
    exec .hostLinkDown s = .next (functionsReset (fnsDestroyed (hostLinkLost s))) := by
  have unlocked : tdiLocked (hostLinkLost s) = false := (tdiLocked_congr (by simp)).trans free
  exact congrArg Host.Outcome.next ((if_pos (by simp [up, high])).trans (pfFlr_unlocked unlocked))

@[simp] theorem functionsReset_clk (s : State) : (functionsReset s).clk = s.clk := rfl

/-! ## The TDI's ERROR and the session (R61, R453) -/

/-- The device halts with its session ended. -/
theorem haltDevice_ends {s : State} (h : s.flt.haltCause = 0) (cause detail : Nat) :
    (haltDevice cause detail s).sec.session = .none_ ∧ (haltDevice cause detail s).sec.keys = [] := by
  have runs : ¬ s.flt.haltCause ≠ 0 := not_not.mpr h
  rw [haltDevice, if_neg runs, alertConds_sec, postAll_sec]
  exact ⟨rfl, rfl⟩

/-- A chip reset of a device that runs ends the session, by way of a halt where resets storm. -/
theorem chipReset_ends {s : State} (h : s.flt.haltCause = 0) (cls : Nat) (cold link escalated : Bool) (unit ctx : Nat) :
    (chipReset cls cold link escalated unit ctx s).sec.session = .none_ ∧
    (chipReset cls cold link escalated unit ctx s).sec.keys = [] := by
  rw [chipReset]
  split
  case isTrue => exact haltDevice_ends (by simpa using h) _ _
  case isFalse => exact (chipResetNow_reset cls cold link _).keys

/-- The TDI has entered ERROR. -/
def tdiFailed (s : State) : State := modHif (fun h => { h with tdi := .error }) s

/-- Without a session the TDI's ERROR is all. -/
theorem tdiError_plain {s : State} (locked : tdiLocked s = true) (plain : s.sec.session = .none_) :
    tdiError s = tdiFailed s := (if_pos locked).trans (if_pos plain)

/-- With a session open the TDI's ERROR aborts it. -/
theorem tdiError_session {s : State} (locked : tdiLocked s = true) (session : s.sec.session ≠ .none_)
    (runs : s.flt.haltCause = 0) : (tdiError s).sec.session = .none_ ∧ (tdiError s).sec.keys = [] := by
  have e : tdiError s = chipReset Cls.hostLink false true false 0 0 (tdiFailed s) := (if_pos locked).trans (if_neg session)
  rw [e]
  exact chipReset_ends (s := tdiFailed s) runs Cls.hostLink false true false 0 0

theorem pfBarChange_open {s : State} (o : configOpen s = true) : exec .pfBarChange s = .next (tdiError s) :=
  congrArg Host.Outcome.next (if_pos o)

/-- A BAR change under an unlocked TDI has no effect here. -/
theorem pfBarChange_unlocked {s : State} (free : tdiLocked s = false) : exec .pfBarChange s = .next s := by
  show Host.Outcome.next (if configOpen s then tdiError s else s) = _
  rw [tdiError_unlocked free, ite_self]

/-! ## IDE streams (R60) -/

/-- A stream's key is programmed and acknowledged. -/
theorem ideKmKeyProg_open {s : State} {n : Nat} (o : securedOpen s = true) (lt : n < 5) (key : BitVec 256) :
    exec (.ideKmKeyProg n key) s = .next (emit (.doe Doe.ideKm [])
      (modIde n (fun x => { x with keyed := true, insecure := false, key := key }) s)) :=
  congrArg Host.Outcome.next (if_pos (by simp [o, lt]))

@[simp] theorem ideOf_emit (o : Output) (s : State) (n : Nat) : ideOf (emit o s) n = ideOf s n := rfl

@[simp] theorem ideOf_tdiFailed (s : State) (n : Nat) : ideOf (tdiFailed s) n = ideOf s n := rfl

/-- The stream has become insecure. -/
def ideBroken (n : Nat) (s : State) : State := modIde n (fun x => { x with insecure := true }) s

@[simp] theorem ideOf_ideBroken (n : Nat) (s : State) : ideOf (ideBroken n s) n = { ideOf s n with insecure := true } :=
  ideOf_modIde n _ s

section Integrity
variable {s : State} {n : Nat} (keyed : (ideOf s n).keyed = true) (secure : (ideOf s n).insecure = false)
include keyed secure

theorem ideIntegrityFailure_keyed : exec (.ideIntegrityFailure n) s =
    .next (if (ideOf s n).bound then tdiError (ideBroken n s) else ideBroken n s) :=
  congrArg Host.Outcome.next (if_pos (by simp [keyed, secure]))

theorem ideIntegrityFailure_free (free : (ideOf s n).bound = false) :
    exec (.ideIntegrityFailure n) s = .next (ideBroken n s) :=
  (ideIntegrityFailure_keyed keyed secure).trans (congrArg Host.Outcome.next (if_neg (by simp [free])))

/-- A failure on a stream bound to a locked TDI takes it to ERROR. -/
theorem ideIntegrityFailure_bound (bound : (ideOf s n).bound = true) (locked : tdiLocked s = true)
    (plain : s.sec.session = .none_) : exec (.ideIntegrityFailure n) s = .next (tdiFailed (ideBroken n s)) := by
  have locked' : tdiLocked (ideBroken n s) = true := locked
  exact (ideIntegrityFailure_keyed keyed secure).trans
    (congrArg Host.Outcome.next ((if_pos bound).trans (tdiError_plain locked' plain)))

end Integrity

/-! ## TDISP (R61) -/

/-- The TDI is locked to a stream. -/
def tdiLockedTo (n : Nat) (s : State) : State :=
  modHif (fun h => { h with tdi := .locked }) (modIde n (fun x => { x with bound := true }) s)

@[simp] theorem ideOf_tdispAnswer (ok : Bool) (s : State) (n : Nat) : ideOf (tdispAnswer ok s) n = ideOf s n := rfl

@[simp] theorem ideOf_tdiLockedTo (n : Nat) (s : State) : ideOf (tdiLockedTo n s) n = { ideOf s n with bound := true } :=
  ideOf_modIde n (fun x => { x with bound := true }) s

/-- LOCK of an unlocked TDI with no VF enabled or tearing down. -/
theorem lockInterfaceRequest_locks {s : State} {n : Nat} (o : securedOpen s = true) (free : s.hif.tdi = .unlocked)
    (off : s.hif.vfEnable = false) (idle : ∀ e ∈ s.hif.vfs, e.2.state ≠ .teardown ∧ e.2.state ≠ .held) (lo : 1 ≤ n)
    (hi : n ≤ 4) : exec (.lockInterfaceRequest n) s = .next (tdispAnswer true (tdiLockedTo n s)) := by
  have still : (s.hif.vfs.any fun (e : Nat × VfEntry) => decide (e.2.state = .teardown) || decide (e.2.state = .held))
      = false := by
    simp only [List.any_eq_false, Bool.or_eq_true, decide_eq_true_eq, not_or]
    exact idle
  refine congrArg Host.Outcome.next ((if_neg (by simp [o])).trans (if_pos ?_))
  simp [free, off, still, lo, hi]

theorem lockInterfaceRequest_refused {s : State} (o : securedOpen s = true)
    (h : s.hif.tdi ≠ .unlocked ∨ s.hif.vfEnable = true) (n : Nat) :
    exec (.lockInterfaceRequest n) s = .next (tdispAnswer false s) := by
  refine congrArg Host.Outcome.next ((if_neg (by simp [o])).trans (if_neg ?_))
  rcases h with taken | on
  · simp [taken]
  · simp [on]

theorem startInterfaceRequest_locked {s : State} (o : securedOpen s = true) (locked : s.hif.tdi = .locked) :
    exec .startInterfaceRequest s = .next (tdispAnswer true (modHif (fun h => { h with tdi := .run }) s)) :=
  congrArg Host.Outcome.next ((if_neg (by simp [o])).trans (if_pos locked))

theorem startInterfaceRequest_refused {s : State} (o : securedOpen s = true) (free : s.hif.tdi ≠ .locked) :
    exec .startInterfaceRequest s = .next (tdispAnswer false s) :=
  congrArg Host.Outcome.next ((if_neg (by simp [o])).trans (if_neg free))

/-- The TDI is unlocked and every stream unbound. -/
def tdiReleased (s : State) : State :=
  modHif (fun h => { h with tdi := .unlocked, ide := tmapv h.ide fun _ (x : IdeStream) => { x with bound := false } }) s

theorem stopInterfaceRequest_plain {s : State} (o : securedOpen s = true) (plain : s.sec.session = .none_) :
    exec .stopInterfaceRequest s = .next (tdispAnswer true (tdiReleased s)) :=
  congrArg Host.Outcome.next ((if_neg (by simp [o])).trans (if_neg (not_not.mpr plain)))

theorem ideOf_tdiReleased_bound (s : State) (n : Nat) : (ideOf (tdiReleased s) n).bound = false := by
  show (tgetD (tmapv s.hif.ide fun _ (x : IdeStream) => { x with bound := false }) n _).bound = false
  rw [tgetD, tget_tmapv]
  cases tget s.hif.ide n <;> rfl

/-! ## The DOE mailbox and its SPDM responder (R62, R429) -/

/-- Slot 0 holds chain A, or chain C after zeroisation. -/
theorem slotChain_first {s : State} (held : s.sec.alias_ = true) :
    slotChain s 0 = some (Config.certChain (if s.nv.otp.chainC then 2 else 0)) := by
  simp [slotChain, held]

/-- Slot 1 holds chain B while a session is open. -/
theorem slotChain_second {s : State} (held : s.sec.alias_ = true) (session : s.sec.session = .open_) :
    slotChain s 1 = some (Config.certChain 1) := by
  simp [slotChain, held, session]

theorem getCertificate_held {s : State} {slot : Nat} {b : List Byte} (o : configOpen s = true)
    (chain : slotChain s slot = some b) : exec (.getCertificate slot) s = .next (emit (.doe Doe.cert b) s) :=
  congrArg Host.Outcome.next ((if_pos o).trans (by rw [chain]))

/-- With its key held and room in the queue the public-key unit signs the answer. -/
theorem spdmSign_asks {s : State} (held : s.sec.alias_ = true) (room : pkRoom s 1 = true) (kind : Nat) (msg : List Byte) :
    spdmSign kind msg s = pkAsk (.spdm kind msg) s := if_pos (by simp [held, room])

section Spdm
variable {s : State} (o : configOpen s = true) (held : s.sec.alias_ = true) (room : pkRoom s 1 = true)
include o held room

theorem spdmChallenge_asks (nonce : BitVec 256) : ∃ u, exec (.spdmChallenge 0 nonce) s = .next (pkAsk u s) :=
  ⟨_, congrArg Host.Outcome.next ((if_pos o).trans (by rw [slotChain_first held]; exact spdmSign_asks held room _ _))⟩

theorem getMeasurements_asks (nonce : BitVec 256) : exec (.getMeasurements nonce) s =
    .next (pkAsk (.spdm Doe.meas (measBlocks s ++ leBytes 32 nonce.toNat)) s) :=
  congrArg Host.Outcome.next ((if_pos o).trans (spdmSign_asks held room _ _))

/-- The answer to KEY_EXCHANGE carries a public value drawn for it. -/
theorem keyExchange_asks (share : BitVec 768) :
    ∃ msg, exec (.keyExchange share) s = .next (pkAsk (.spdm Doe.keyEx msg) (tookFree s)) :=
  ⟨_, congrArg Host.Outcome.next ((if_pos o).trans (spdmSign_asks (s := tookFree s) held room _ _))⟩

end Spdm

/-! ## Completion timeouts (R56, R73) -/

/-- A tag in quarantine comes back. -/
theorem completionTimeout_squashed {s : State} {qp sub : Nat} (gone : findDesc s qp sub = none) :
    exec (.completionTimeout qp sub false) s = .next (modHif (fun h => { h with quarantine := h.quarantine - 1 }) s) :=
  congrArg Host.Outcome.next (by rw [gone])

/-- A descriptor whose read times out is aborted. -/
theorem completionTimeout_aborts {s : State} {qp sub : Nat} {d : Desc} (found : findDesc s qp sub = some d)
    (runs : dRuns d = true) : exec (.completionTimeout qp sub false) s = .next (endDesc qp sub (resOf St.aborted) s) :=
  congrArg Host.Outcome.next (by rw [found]; exact if_pos (by simp [runs]))

theorem dEnded_of_dRuns {d : Desc} (runs : dRuns d = true) : dEnded d = false := by
  cases e : d.phase <;> simp_all [dRuns, dEnded]

/-! ## MSI-X of a VF (R66) -/

/-- A released message leaves the table alone. -/
@[simp] theorem msixRelease_msix (fn vec : Nat) (s : State) : (msixRelease fn vec s).hif.msix = s.hif.msix := by
  rw [msixRelease]
  split <;> rfl

/-- A table entry with a dword written at an offset under byte enables. -/
def msixWritten (off be : Nat) (val : Word) (e : MsixEntry) : MsixEntry :=
  msixPut e (off % 16 / 4) (enabledBytes (msixDword e (off % 16 / 4)) val.toNat be)

theorem vfMsixWrite_open {s : State} {v off : Nat} (o : configOpen s = true) (on : vfEnabled s v = true)
    (lt : off < 1024) (be : Nat) (val : Word) : exec (.vfMsixWrite v off be val) s =
      .next (msixRelease v (off / 16) (modHif (fun h => { h with
        msix := tupd h.msix (v * 4096 + off / 16) msixInit (msixWritten off be val) }) s)) :=
  congrArg Host.Outcome.next (if_pos (by simp [o, on, lt]))

/-- Settles O11: each command acts through the model's shared operations (log 34: ABORTED on a completion timeout; log 35:
refusals of LOCK and START; log 36: how SPDM answers queue). -/
theorem hostLinkSecurity : Obligations.HostLinkSecurity := by
  refine ⟨fun s up => ⟨_, hostLinkError_up up, rfl, fltRecord_records _ _ _ _ _ _ _ s,
      fltRecord_chipResets _ _ _ _ _ _ _ s, fltRecord_newest _ _ _ _ _ _ _ s⟩,
    fun s down => hostLink_down down,
    fun s up high free => ⟨_, hostLinkDown_up up high free, by simp, rfl, rfl, rfl⟩,
    fun s n key o lt => ⟨_, ideKmKeyProg_open o lt key, by simp, fun m ne => ?others, rfl⟩,
    fun s n keyed secure free => ⟨_, ideIntegrityFailure_free keyed secure free, ideOf_ideBroken n s, rfl⟩,
    fun s n keyed secure bound locked plain =>
      ⟨_, ideIntegrityFailure_bound keyed secure bound locked plain, rfl, by simp⟩,
    fun s o locked plain => (pfBarChange_open o).trans (congrArg _ (tdiError_plain locked plain)),
    fun s o locked session runs => ⟨_, pfBarChange_open o, tdiError_session locked session runs⟩,
    fun s free => pfBarChange_unlocked free,
    fun s n o free off idle lo hi => ⟨_, lockInterfaceRequest_locks o free off idle lo hi, rfl, by simp, rfl⟩,
    fun s n o h => lockInterfaceRequest_refused o h n,
    fun s o locked => startInterfaceRequest_locked o locked,
    fun s o free => startInterfaceRequest_refused o free,
    fun s o plain => ⟨_, stopInterfaceRequest_plain o plain, rfl, ideOf_tdiReleased_bound s, rfl⟩,
    fun s o => congrArg Host.Outcome.next (if_pos o),
    fun s o held => ⟨getCertificate_held o (slotChain_first held), fun session =>
      getCertificate_held o (slotChain_second held session)⟩,
    fun s nonce o held room => ⟨spdmChallenge_asks o held room nonce, getMeasurements_asks o held room nonce⟩,
    fun s share o held room => keyExchange_asks o held room share,
    fun s qp sub gone => completionTimeout_squashed gone,
    fun s qp sub d found runs => ⟨_, completionTimeout_aborts found runs,
      findDesc_endDesc _ found (dEnded_of_dRuns runs), (endDesc_keeps (keeps_refl (partMask [.cmd]) s) rfl qp sub _).only⟩,
    fun s v off be val o on lt => ⟨_, vfMsixWrite_open o on lt be val, ?written, fun k ne => ?unwritten⟩⟩
  case others => rw [ideOf_emit, ideOf_modIde_ne _ s ne]
  case written => rw [msixRelease_msix]; exact tget_tupd_same s.hif.msix _ msixInit (msixWritten off be val)
  case unwritten => rw [msixRelease_msix]; exact tget_tupd_ne s.hif.msix msixInit (msixWritten off be val) ne

end Sys2Proof.Proofs
end

section
/-!
Descriptors while their opcode acts (chapter 04, R94, R98): who acts, what an end leaves, and descriptors changed beside it.
-/
namespace Sys2Proof.Proofs
open Sys2Proof.Machine Sys2Proof.Laws

/-! ## Which descriptors act (R94) -/

/-- An opcode row has no effect on a descriptor that has not started. -/
theorem onStarted_idle {s : State} {qp sub : Nat} (h : ∀ d, findDesc s qp sub = some d → d.phase ≠ .started) (op : Nat)
    (f : Desc → State → State) : onStarted op qp sub f s = s := by
  unfold onStarted
  split
  case h_2 => rfl
  case h_1 d found => exact if_neg fun both => h d found both.2

/-- A descriptor whose checks pass acts. -/
theorem guarded_pass {checks : List (Option Result)} (h : firstFail checks = none) (d : Desc) (f : State → State)
    (s : State) : guarded d checks f s = f s := by
  simp [guarded, h]

/-- A descriptor whose checks fail ends with the refusal and does nothing else. -/
theorem guarded_fail {checks : List (Option Result)} {r : Result} (h : firstFail checks = some r) (d : Desc)
    (f : State → State) (s : State) : guarded d checks f s = endD d r s := by
  simp [guarded, h, endD]

/-! ## What a change of descriptors leaves (R98) -/

/-- A descriptor after a change of all that keeps each in its place. -/
theorem findDesc_mapDescs {f : Desc → Desc} (h : ∀ d, (f d).qp = d.qp ∧ (f d).sub = d.sub) (s : State) (qp sub : Nat) :
    findDesc (mapDescs f s) qp sub = (findDesc s qp sub).map f := by
  have same : ((fun d : Desc => decide (d.qp = qp) && decide (d.sub = sub)) ∘ f) =
      fun d : Desc => decide (d.qp = qp) && decide (d.sub = sub) := by
    funext d
    obtain ⟨eq, es⟩ := h d
    simp [eq, es]
  rw [findDesc, mapDescs, modCmd_cmd, List.find?_map, same]
  rfl

/-- A change of one descriptor leaves the others. -/
theorem findDesc_modDesc_ne {f : Desc → Desc} (h : ∀ d, (f d).qp = d.qp ∧ (f d).sub = d.sub) (s : State)
    {qp sub q u : Nat} (ne : ¬(q = qp ∧ u = sub)) : findDesc (modDesc qp sub f s) q u = findDesc s q u := by
  rw [modDesc, findDesc_mapDescs]
  · cases found : findDesc s q u with
    | none => rfl
    | some d =>
      obtain ⟨rfl, rfl⟩ := findDesc_place found
      simp [ne]
  · intro d
    split
    · exact h d
    · exact ⟨rfl, rfl⟩

theorem findDesc_runDesc_ne {qp sub q u : Nat} (ne : ¬(q = qp ∧ u = sub)) (n : Nat) (s : State) :
    findDesc (runDesc qp sub n s) q u = findDesc s q u :=
  findDesc_modDesc_ne (f := fun d => { d with phase := .running, note := n }) (fun _ => ⟨rfl, rfl⟩) s ne

/-- The status of a descriptor whose result is known. -/
theorem statusOf_of_resultOf {s : State} {qp sub : Nat} {r : Result} (h : resultOf s qp sub = some r) :
    statusOf s qp sub = some r.status := by
  rw [statusOf, h]
  rfl

/-- A running descriptor takes its result, whatever else has changed than the descriptors. -/
theorem running_ends {s t : State} {qp sub op : Nat} {d : Desc} (h : Running s qp sub op d)
    (same : t.cmd.descs = s.cmd.descs) (r : Result) : resultOf (endD d r t) qp sub = some r := by
  obtain ⟨found, -, phase⟩ := h
  obtain ⟨rfl, rfl⟩ := findDesc_place found
  exact resultOf_endDesc r ((findDesc_congr same _ _).trans found) (by simp [dEnded, phase])

theorem endD_only (d : Desc) (r : Result) (s : State) : Only (partMask [.cmd]) s (endD d r s) :=
  (endDesc_keeps (keeps_refl (partMask [.cmd]) s) rfl d.qp d.sub r).only

@[simp] theorem attOf_endD (d : Desc) (r : Result) (s : State) (fn : Nat) : attOf (endD d r s) fn = attOf s fn := rfl

@[simp] theorem runDesc_ctxs (qp sub n : Nat) (s : State) : (runDesc qp sub n s).ctxs = s.ctxs := rfl

@[simp] theorem runDesc_evs (qp sub n : Nat) (s : State) : (runDesc qp sub n s).evs = s.evs := rfl

/-- Clamping to a range is the minimum with its end, then the maximum with its start. -/
theorem clampTo_max_min {lo hi : Nat} (h : lo ≤ hi) (v : Nat) : clampTo lo hi v = max lo (min hi v) := by
  unfold clampTo
  split_ifs <;> omega

/-- Clamping to a range that starts at 0 is the minimum. -/
theorem clampTo_zero (hi v : Nat) : clampTo 0 hi v = min hi v := by
  rw [clampTo_max_min (Nat.zero_le hi), Nat.zero_max]

end Sys2Proof.Proofs
end

section
/-!
Attention (chapter 04, R101, R102, R108, R109): the epoch an 8-bit number names, what is reported and what is cleared.
-/
namespace Sys2Proof.Proofs
open Sys2Proof.Machine Sys2Proof.Laws

/-- The epoch that 8 bits name is the latest one not after the current one that ends in them (R109). -/
theorem fullEpoch_iff {cur e ep : Nat} (lt : e < 256) : fullEpoch cur e = some ep ↔
    ep ≤ cur ∧ ep % 256 = e ∧ ∀ x, x ≤ cur → x % 256 = e → x ≤ ep := by
  unfold fullEpoch
  dsimp only
  split
  case isTrue back =>
    rw [Option.some_inj]
    constructor
    · rintro rfl
      exact ⟨by omega, by omega, fun x le low => by omega⟩
    · rintro ⟨le, low, latest⟩
      have := latest (cur - (cur + 256 - e % 256) % 256) (by omega) (by omega)
      omega
  case isFalse back =>
    constructor
    · intro none
      cases none
    · rintro ⟨le, low, -⟩
      omega

/-- Fewer than 256 postings after an epoch was read, its low 8 bits name it (R109). -/
theorem fullEpoch_recent {seen cur : Nat} (le : seen ≤ cur) (lt : cur < seen + 256) :
    fullEpoch cur (seen % 256) = some seen :=
  (fullEpoch_iff (Nat.mod_lt _ (by decide))).mpr ⟨le, rfl, fun x _ low => by omega⟩

/-- The code of a table entry is a byte other than 0xFF. -/
theorem attCodes_ne {code : Nat} (h : code ∈ attCodes) : code ≠ 0xFF ∧ code < 256 := by
  revert code
  decide

/-- A report is DONE. -/
theorem attReport_status (t : AttTable) (code : Nat) : (attReport t code).status = 0 := by
  unfold attReport
  split
  · split <;> rfl
  · rfl

/-- What GET_ATTENTION says of an entry that is there (Table 04-15). -/
theorem attReport_entry {t : AttTable} {code : Nat} {e : AttEntry} (listed : code ∈ attCodes)
    (there : tget t.entries code = some e) : attReport t code =
      { status := 0, handle := e.handle, aux := e.epochLast % 256 * 2 ^ 24 + code * 2 ^ 16 + e.count
        value := e.detail, flags := if e.pending then 1 else 0 } := by
  obtain ⟨ne, lt⟩ := attCodes_ne listed
  have byte : code % 2 ^ 8 = code := Nat.mod_eq_of_lt lt
  rw [attReport, if_neg ne, tgetD, there]
  simp only [Option.getD_some, attResult, fieldAt, byte, bitAt, St.done]
  rfl

/-- The table after an acknowledgement, at an epoch, of a code or of all (R109). -/
def attAcked (code ep : Nat) (t : AttTable) : AttTable :=
  if code = 0xFF then { t with entries := tmapv t.entries fun _ e => attAck ep e }
  else { t with entries := tmod t.entries code (attAck ep) }

@[simp] theorem attAcked_epoch (code ep : Nat) (t : AttTable) : (attAcked code ep t).epoch = t.epoch := by
  unfold attAcked
  split <;> rfl

/-- An acknowledgement clears the named entries last posted up to its epoch and leaves the rest (R109). -/
theorem tget_attAcked (code ep : Nat) (t : AttTable) (k : Nat) : tget (attAcked code ep t).entries k =
    (tget t.entries k).map fun e =>
      if (code = 0xFF ∨ k = code) ∧ e.epochLast ≤ ep then { e with pending := false, count := 0 } else e := by
  unfold attAcked
  split
  case isTrue all => simp only [tget_tmapv, attAck, all, true_or, true_and]
  case isFalse one =>
    by_cases same : k = code
    · subst same
      simp only [tget_tmod_same, or_true, true_and]
      rfl
    · simp only [tget_tmod_ne _ _ same, one, same, or_self, false_and, if_false, Option.map_id']

section Acts
variable {s : State} {qp sub : Nat} {d : Desc}

/-- A CODE that is 0xFF or listed passes its check. -/
theorem needCode_named (h : dfld d 24 1 = 0xFF ∨ dfld d 24 1 ∈ attCodes) : needCode d = none := by
  simp [needCode, chk, h]

theorem getAttention_reports (h : Started s qp sub 0x02 d) (named : dfld d 24 1 ∈ attCodes) :
    exec (.getAttention qp sub) s = .next (endD d (attReport (attOf s d.fn) (dfld d 24 1)) s) :=
  congrArg Host.Outcome.next ((onStarted_started h).trans
    (guarded_pass (by rw [needCode_named (.inr named)]; rfl) _ _ _))

/-- ACK_ATTENTION that names an epoch stores the acknowledged table and reports it. -/
theorem ackAttention_acks {ep : Nat} (h : Started s qp sub 0x01 d) (named : dfld d 24 1 = 0xFF ∨ dfld d 24 1 ∈ attCodes)
    (epoch : fullEpoch (attOf s d.fn).epoch (dfld d 25 1) = some ep) : exec (.ackAttention qp sub) s =
      .next (endD d (attReport (attAcked (dfld d 24 1) ep (attOf s d.fn)) (dfld d 24 1))
        (modCmd (fun c => { c with att := tput c.att d.fn (attAcked (dfld d 24 1) ep (attOf s d.fn)) }) s)) := by
  refine congrArg Host.Outcome.next ((onStarted_started h).trans
    ((guarded_pass (by rw [needCode_named named]; rfl) _ _ _).trans ?_))
  simp only [epoch]
  rfl

end Acts

@[simp] theorem attOf_tput (fn : Nat) (t : AttTable) (s : State) :
    attOf (modCmd (fun c => { c with att := tput c.att fn t }) s) fn = t := tgetD_tput_same _ _ _ _

/-- A posting puts the new epoch in its entry (R108). -/
theorem post_epochLast (s : State) (fn code detail handle : Nat) :
    (tget (attOf (post fn code detail handle s) fn).entries code).map AttEntry.epochLast =
      some ((attOf s fn).epoch + 1) := by
  rw [post, attOf_tput, tget_tput_same]
  rfl

/-- Settles O52: an acknowledgement clears by `attAcked`, at the epoch `fullEpoch` finds. -/
theorem acknowledgeAttention : Obligations.AcknowledgeAttention := by
  refine ⟨fun cur e ep lt => fullEpoch_iff lt, fun s qp sub d ep h named epoch =>
      ⟨_, ackAttention_acks h named epoch, ?epoch, ?status, fun k => ?entry⟩,
    fun s fn code detail handle => ⟨post_epoch fn code detail handle s, post_epochLast s fn code detail handle⟩,
    fun seen cur le lt => fullEpoch_recent le lt⟩
  case epoch => rw [attOf_endD, attOf_tput, attAcked_epoch]
  case status => exact (statusOf_of_resultOf (started_ends h rfl _)).trans (congrArg some (attReport_status _ _))
  case entry => rw [attOf_endD, attOf_tput, tget_attAcked]

end Sys2Proof.Proofs
end

section
/-!
Fetch, start and completion of descriptors (chapter 04, R89 to R92, R94 to R96, R98, R104).
-/
namespace Sys2Proof.Proofs
open Sys2Proof.Machine Sys2Proof.Laws

/-! ## Fetch (R89, R90, R92, R95) -/

/-- The next descriptor of a queue pair as it is fetched. -/
def fetchedDesc (qp : Nat) (p : QueuePair) (raw : BitVec 512) : Desc :=
  { qp := qp, sub := p.nextSub, pos := p.fetchPos, fn := p.fn, raw := raw, phase := .fetched, noRecord := false
    sigOk := false, escalated := false, note := 0 }

/-- A queue pair that has given its next descriptor: a slot reserved, its number and position moved on. -/
def fetchedFrom (p : QueuePair) : QueuePair :=
  { p with reserved := p.reserved + 1, nextSub := p.nextSub + 1, fetchPos := (p.fetchPos + 1) % 2 ^ p.sqLog }

/-- A queue pair that a fetch has stopped. -/
def stoppedFrom (p : QueuePair) : QueuePair := { fetchedFrom p with state := .stopped }

/-- Where a descriptor enters after its header checks: ended where one failed. -/
def entryPhase : Option Result → DescPhase
  | some r => .ended r
  | none => .fetched

/-- The arbitration names a queue pair, and the command block is ready (R45, R92). -/
def FetchServes (s : State) (qp : Nat) (p : QueuePair) : Prop :=
  cmdReady s = true ∧ fetchChoice s = some qp ∧ getQp s qp = some p

/-- SEQ is bits 31:16 of dword 0. -/
theorem dSeq_fetchedDesc (qp : Nat) (p : QueuePair) (raw : BitVec 512) :
    dSeq (fetchedDesc qp p raw) = raw.toNat / 2 ^ 16 % 2 ^ 16 := rfl

@[simp] theorem enterDesc_descs (d : Desc) (s : State) : (enterDesc d s).cmd.descs = s.cmd.descs ++ [d] := rfl

@[simp] theorem fetchServed_descs (p : QueuePair) (s : State) : (fetchServed p s).cmd.descs = s.cmd.descs := rfl

theorem getQp_enterDesc {s : State} {d : Desc} {p : QueuePair} (h : getQp s d.qp = some p) :
    getQp (enterDesc d s) d.qp = some (fetchedFrom p) :=
  getQp_modQp_some (s := modCmd (fun c => { c with descs := c.descs ++ [d] }) s) h fetchedFrom

/-- A service queue that a fetch stops. -/
theorem getQp_stopQp_service {s : State} {d : Desc} {p : QueuePair} (service : p.ctx = none) (h : getQp s d.qp = some p) :
    getQp (stopQp d.qp p (enterDesc d s)) d.qp = some (stoppedFrom p) := by
  rw [stopQp, service]
  exact getQp_modQp_some (getQp_enterDesc h) _

theorem stopQp_service_descs {p : QueuePair} (service : p.ctx = none) (q : Nat) (s : State) :
    (stopQp q p s).cmd.descs = s.cmd.descs := by
  rw [stopQp, service]
  rfl

/-- A fetch that the arbitration does not name has no effect. -/
theorem fetch_unserved {s : State} {qp : Nat} (h : fetchChoice s ≠ some qp) (raw : BitVec 512) :
    exec (.descriptorFetch qp raw) s = .next s ∧ exec (.fetchError qp) s = .next s := by
  have unserved : ¬(cmdReady s && decide (fetchChoice s = some qp)) = true := by simp [h]
  exact ⟨congrArg Host.Outcome.next (if_neg unserved), congrArg Host.Outcome.next (if_neg unserved)⟩

section Served
variable {s : State} {qp : Nat} {p : QueuePair} (h : FetchServes s qp p)
include h

/-- A descriptor with the SEQ of its submission number enters as its header checks say. -/
theorem descriptorFetch_enters {raw : BitVec 512} (seq : dSeq (fetchedDesc qp p raw) = p.nextSub % 65536) :
    ∃ sig, exec (.descriptorFetch qp raw) s = .next (enterDesc { fetchedDesc qp p raw with
      phase := entryPhase (headerFail (fetchServed p s) (fetchedDesc qp p raw)), sigOk := sig } (fetchServed p s)) := by
  obtain ⟨ready, chosen, there⟩ := h
  refine ⟨decide (dSignal (fetchedDesc qp p raw) ≠ 0) &&
    (needH (fetchServed p s) (fetchedDesc qp p raw) Hk.ev 20).isNone,
    congrArg Host.Outcome.next ((if_pos (by simp [ready, chosen])).trans ?_)⟩
  rw [there]
  refine (if_neg (not_not_intro seq)).trans ?_
  cases checks : headerFail (fetchServed p s) (fetchedDesc qp p raw)
  all_goals
    rw [fetchedDesc] at checks
    simp only [checks]
    rfl

/-- A descriptor with another SEQ enters ended, and its queue pair stops. -/
theorem descriptorFetch_wrongSeq {raw : BitVec 512} (seq : dSeq (fetchedDesc qp p raw) ≠ p.nextSub % 65536) :
    exec (.descriptorFetch qp raw) s = .next (stopQp qp p
      (enterDesc { fetchedDesc qp p raw with phase := .ended (refuse St.refusedState 2) } (fetchServed p s))) := by
  obtain ⟨ready, chosen, there⟩ := h
  refine congrArg Host.Outcome.next ((if_pos (by simp [ready, chosen])).trans ?_)
  rw [there]
  exact if_pos seq

/-- A fetch that fails enters an aborted descriptor, and its queue pair stops. -/
theorem fetchError_stops : exec (.fetchError qp) s = .next (stopQp qp p
    (enterDesc { fetchedDesc qp p 0 with phase := .ended (resOf St.aborted) } (fetchServed p s))) := by
  obtain ⟨ready, chosen, there⟩ := h
  refine congrArg Host.Outcome.next ((if_pos (by simp [ready, chosen])).trans ?_)
  rw [there]
  rfl

end Served

/-! ## Start (R94, R96, R104) -/

/-- A descriptor that starts. -/
def startDesc (qp sub : Nat) (s : State) : State := modDesc qp sub (fun d => { d with phase := .started }) s

theorem findDesc_startDesc {s : State} {qp sub : Nat} {d : Desc} (h : findDesc s qp sub = some d) :
    findDesc (startDesc qp sub s) qp sub = some { d with phase := .started } := by
  rw [startDesc, findDesc_modDesc, h, Option.map_some]
  exact fun _ => ⟨rfl, rfl⟩

theorem startDesc_only (qp sub : Nat) (s : State) : Only (partMask [.cmd]) s (startDesc qp sub s) :=
  (modDesc_keeps (keeps_refl (partMask [.cmd]) s) rfl qp sub _).only

/-- A fetched descriptor may start, as far as ring order and FENCE go (R96). -/
def Startable (s : State) (d : Desc) : Prop :=
  d.phase = .fetched ∧ nextToStart s d = true ∧ (dFence d = false ∨ fenceMet s d = true)

section Start
variable {s : State} {qp sub : Nat} {d : Desc} (found : findDesc s qp sub = some d)
include found

/-- Ring order or FENCE holds a descriptor back. -/
theorem descriptorStart_held (h : nextToStart s d = false ∨ dFence d = true ∧ fenceMet s d = false) :
    exec (.descriptorStart qp sub) s = .next s := by
  refine congrArg Host.Outcome.next ?_
  rw [found]
  refine if_neg ?_
  rcases h with later | ⟨fence, unmet⟩
  · simp [later]
  · simp [fence, unmet]

/-- A descriptor waits for an event that is not SIGNALLED. -/
theorem descriptorStart_waits {e : Event} (waits : dWait d ≠ 0) (there : tget s.evs (hSlot (dWait d)) = some e)
    (kept : e.aborting = false) (unsignalled : e.signalled = false) : exec (.descriptorStart qp sub) s = .next s := by
  refine congrArg Host.Outcome.next ?_
  rw [found]
  simp [waits, there, kept, unsignalled]

variable (may : Startable s d)
include may

theorem descriptorStart_may : exec (.descriptorStart qp sub) s = .next (
    if dWait d = 0 then startDesc qp sub s
    else
      match tget s.evs (hSlot (dWait d)) with
      | none => endDesc qp sub (resOf St.aborted) s
      | some e =>
        if e.aborting then endDesc qp sub (resOf St.aborted) s
        else if e.signalled then (if e.error then endDesc qp sub (resOf St.aborted) s else startDesc qp sub s)
        else s) := by
  obtain ⟨phase, first, fence⟩ := may
  have met : (decide (d.phase = .fetched) && nextToStart s d && (!dFence d || fenceMet s d)) = true := by
    rcases fence with free | met
    · simp [phase, first, free]
    · simp [phase, first, met]
  refine congrArg Host.Outcome.next ?_
  rw [found]
  refine (if_pos met).trans ?_
  rfl

theorem descriptorStart_free (free : dWait d = 0) : exec (.descriptorStart qp sub) s = .next (startDesc qp sub s) := by
  rw [descriptorStart_may found may, if_pos free]

theorem descriptorStart_signalled {e : Event} (waits : dWait d ≠ 0) (there : tget s.evs (hSlot (dWait d)) = some e)
    (kept : e.aborting = false) (signalled : e.signalled = true) (good : e.error = false) :
    exec (.descriptorStart qp sub) s = .next (startDesc qp sub s) := by
  rw [descriptorStart_may found may, if_neg waits, there]
  simp [kept, signalled, good]

/-- An event with ERROR set, or one being destroyed, aborts the descriptor that waits on it. -/
theorem descriptorStart_error {e : Event} (waits : dWait d ≠ 0) (there : tget s.evs (hSlot (dWait d)) = some e)
    (signalled : e.signalled = true) (error : e.error = true) :
    exec (.descriptorStart qp sub) s = .next (endDesc qp sub (resOf St.aborted) s) := by
  rw [descriptorStart_may found may, if_neg waits, there]
  simp [signalled, error]

end Start

/-! ## Completion (R92, R98) -/

/-- A queue pair gets a reserved slot back. -/
def slotReturned (p : QueuePair) : QueuePair := { p with reserved := p.reserved - 1 }

/-- The ended descriptor leaves the device and its slot returns. -/
def descLeaves (qp sub : Nat) (s : State) : State := dropDesc qp sub (modQp qp slotReturned s)

theorem findDesc_descLeaves (qp sub : Nat) (s : State) : findDesc (descLeaves qp sub s) qp sub = none := by
  rw [findDesc, List.find?_eq_none]
  intro d there
  have kept := List.of_mem_filter there
  intro named
  rw [named] at kept
  cases kept

theorem getQp_descLeaves {s : State} {qp : Nat} {p : QueuePair} (h : getQp s qp = some p) (sub : Nat) :
    getQp (descLeaves qp sub s) qp = some (slotReturned p) := getQp_modQp_some h slotReturned

/-- The schedule runner takes no note of a descriptor that it did not issue. -/
theorem noteEnd_other {sub : Nat} (h : byRun sub = false) (qp : Nat) (s : State) : noteEnd qp sub s = s := by
  unfold noteEnd
  split
  case h_1 => rfl
  case h_2 d _ =>
    split
    case h_2 => rfl
    case h_1 => exact if_neg (by simp [h])

/-- A record of a queue pair that is not armed sends no interrupt (R93). -/
theorem writeRecord_unarmed {s : State} {q : Nat} {p : QueuePair} (h : getQp s q = some p) (unarmed : p.armed = false)
    (notify : Nat → Option Nat → Bool) (rec : Nat → Bool → CplRec) : writeRecord q notify rec s =
      modQp q (fun x => { x with cqWritten := x.cqWritten + 1, lastDstat := some (dstat s p.fn) })
        (emit (.record q (p.cqWritten % 2 ^ p.cqLog)
          (rec (dstat s p.fn) (decide (p.cqWritten / 2 ^ p.cqLog % 2 = 0)))) s) := by
  simp only [writeRecord, h]
  split
  case h_2 => rfl
  case h_1 => exact if_neg (by simp [unarmed])

section Complete
variable {s : State} {qp sub : Nat} {d : Desc} {r : Result} (found : findDesc s qp sub = some d)
include found

/-- A descriptor that has not ended is not completed. -/
theorem completionWrite_early (h : dEnded d = false) : exec (.completionWrite qp sub) s = .next s := by
  refine congrArg Host.Outcome.next ?_
  rw [found]
  exact if_neg (by simp [h])

variable (ended : d.phase = .ended r) (other : byRun sub = false) (unsignalled : d.sigOk = false)
include ended other unsignalled

/-- An ended descriptor without a signal leaves, after its record where it has one. -/
theorem completionWrite_leaves : exec (.completionWrite qp sub) s = .next (descLeaves qp sub
    (if d.noRecord || (dQuiet d && decide (r.status = St.done)) then s
     else writeRecord qp (fun _ _ => true) (descRec d r) s)) := by
  obtain ⟨rfl, rfl⟩ := findDesc_place found
  have out : dEnded d = true := by simp [dEnded, ended]
  refine congrArg Host.Outcome.next ?_
  rw [found]
  refine (if_pos out).trans ?_
  have early : (if byRun d.sub ∧ dOp d = 0x38 then countLate d s else s) = s := if_neg (by simp [other])
  dsimp only
  rw [noteEnd_other other, early]
  simp only [completeDesc, ended]
  exact if_neg (by simp [unsignalled])

/-- QUIET keeps back the record of a descriptor that is DONE. -/
theorem completionWrite_quiet (quiet : dQuiet d = true) (done : r.status = 0) :
    exec (.completionWrite qp sub) s = .next (descLeaves qp sub s) := by
  rw [completionWrite_leaves found ended other unsignalled, if_pos (by simp [quiet, done, St.done])]

theorem completionWrite_recorded (recorded : d.noRecord = false) (loud : dQuiet d = false) :
    exec (.completionWrite qp sub) s = .next (descLeaves qp sub (writeRecord qp (fun _ _ => true) (descRec d r) s)) := by
  rw [completionWrite_leaves found ended other unsignalled, if_neg (by simp [recorded, loud])]

end Complete

/-- Settles O13: a fetched descriptor enters by `enterDesc`, starts by `startDesc` and leaves by `descLeaves` (log 47: the
header checks at fetch; log 98: the slot is reserved from fetch on). -/
theorem fetchStartComplete : Obligations.FetchStartComplete := by
  unfold Obligations.FetchStartComplete
  intro fetched after able
  refine ⟨fun s qp raw p serves seq passes => ?passes, fun s qp raw p r serves seq fails => ?fails,
    fun s qp raw p serves service seq => ⟨_, descriptorFetch_wrongSeq serves seq, ?stopped, ?refused⟩,
    fun s qp p serves service => ⟨_, fetchError_stops serves, ?stopped', ?aborted⟩,
    fun s qp raw h => fetch_unserved h raw,
    fun s qp sub d found phase first fence free =>
      ⟨_, descriptorStart_free found ⟨phase, first, .inl fence⟩ free, findDesc_startDesc found, startDesc_only qp sub s⟩,
    fun s qp sub d e found phase first fence waits there kept signalled good =>
      ⟨_, descriptorStart_signalled found ⟨phase, first, .inr fence⟩ waits there kept signalled good,
        findDesc_startDesc found⟩,
    fun s qp sub d e found phase first fence waits there signalled error =>
      ⟨_, descriptorStart_error found ⟨phase, first, .inr fence⟩ waits there signalled error,
        resultOf_endDesc _ found (by simp [dEnded, phase])⟩,
    fun s qp sub d e found waits there kept unsignalled => descriptorStart_waits found waits there kept unsignalled,
    fun s qp sub d found held => descriptorStart_held found held,
    fun s qp sub d r p found ended recorded unsignalled quiet done _ other there =>
      ⟨_, completionWrite_quiet found ended other unsignalled quiet done, findDesc_descLeaves qp sub s, rfl,
        getQp_descLeaves there sub⟩,
    fun s qp sub d r p found ended recorded unsignalled loud unarmed other there =>
      ⟨_, completionWrite_recorded found ended other unsignalled recorded loud, findDesc_descLeaves _ _ _, ?out, ?written⟩,
    fun s qp sub d found h => completionWrite_early found h⟩
  case passes =>
    obtain ⟨sig, runs⟩ := descriptorFetch_enters serves seq
    obtain ⟨-, -, there⟩ := serves
    rw [show headerFail (fetchServed p s) (fetchedDesc qp p raw) = none from passes] at runs
    refine ⟨_, runs, getQp_enterDesc (s := fetchServed p s) there, ?_, sig, rfl⟩
    exact (enterDesc_keeps (fetchServed_keeps (keeps_refl (partMask [.cmd]) s) rfl p) rfl _).only
  case fails =>
    obtain ⟨sig, runs⟩ := descriptorFetch_enters serves seq
    obtain ⟨-, -, there⟩ := serves
    rw [show headerFail (fetchServed p s) (fetchedDesc qp p raw) = some r from fails] at runs
    exact ⟨_, runs, getQp_enterDesc (s := fetchServed p s) there, sig, rfl⟩
  case stopped =>
    obtain ⟨-, -, there⟩ := serves
    exact getQp_stopQp_service (s := fetchServed p s) service there
  case refused => exact stopQp_service_descs service _ _
  case stopped' =>
    obtain ⟨-, -, there⟩ := serves
    exact getQp_stopQp_service (s := fetchServed p s) service there
  case aborted => exact stopQp_service_descs service _ _
  case out =>
    rw [writeRecord_unarmed there unarmed]
    rfl
  case written =>
    rw [writeRecord_unarmed there unarmed]
    exact getQp_descLeaves (getQp_modQp_some (s := emit _ s) there _) sub

end Sys2Proof.Proofs
end

section
/-!
Contexts and queue pairs (chapter 04, R79 to R84, R89, R101, R113 to R115, R192): created, reset and destroyed.
-/
namespace Sys2Proof.Proofs
open Sys2Proof.Machine Sys2Proof.Laws

/-! ## Idle opcodes (R94) -/

/-- A started NOP ends. -/
theorem nop_ends {s : State} {qp sub : Nat} {d : Desc} (h : Started s qp sub 0x00 d) :
    exec (.nop qp sub) s = .next (endD d rDone s) := congrArg Host.Outcome.next (onStarted_started h)

/-- The opcodes of chapter 04 that take nothing but their descriptor. -/
def plainOpcodes : List (Nat → Nat → Instr) :=
  [Instr.nop, .ackAttention, .getAttention, .createContext, .resetContext, .destroyContext, .createQueuePair,
    .destroyQueuePair, .createMemory, .destroyMemory, .createEvent, .destroyEvent, .exportEvent, .eventSignal, .eventAdd,
    .eventReset, .eventWait, .eventQuery, .eventRemote, .destroyTaskGraph, .fill]

/-- Each of them acts through `onStarted`. -/
theorem plainOpcode_onStarted {c : Nat → Nat → Instr} (h : c ∈ plainOpcodes) :
    ∃ (op : Nat) (f : Nat → Nat → Desc → State → State), ∀ qp sub s,
      exec (c qp sub) s = .next (onStarted op qp sub (f qp sub) s) := by
  simp only [plainOpcodes, List.mem_cons, List.not_mem_nil, or_false] at h
  rcases h with rfl | rfl | rfl | rfl | rfl | rfl | rfl | rfl | rfl | rfl | rfl | rfl | rfl | rfl | rfl | rfl | rfl | rfl |
    rfl | rfl | rfl
  all_goals exact ⟨_, _, fun _ _ _ => rfl⟩

/-! ## Creation (R79, R80, R84, R192) -/

/-- The context that CREATE_CONTEXT makes outside confidential mode. -/
def createdCtx (d : Desc) : Ctx :=
  { state := .live, fn := d.fn, home := dfld d 24 1, prio := min 3 (dfld d 25 1), seed := 0, mode := true, aflags := 0
    waiters := [] }

/-- A context takes a slot. -/
def ctxPlaced (c : Nat) (x : Ctx) (s : State) : State :=
  { modCmd (fun k => { k with ctxSlots := slotTake k.ctxSlots (kindSlots Hk.ctx) }) s with ctxs := tput s.ctxs c x }

section CreateContext
variable {s : State} {qp sub : Nat} {d : Desc} (h : Started s qp sub 0x10 d) (legal : dfld d 24 1 < 4)
  (online : partOff s (dfld d 24 1) = false)
include h legal online

theorem createContext_creates {c : Nat} (room : quotaFail s d.fn Hk.ctx = none)
    (chosen : slotChoose s.cmd.ctxSlots 4096 = some c) (plain : confidential s = false) :
    exec (.createContext qp sub) s = .next (endD d (rHandle (mkHandle Hk.ctx c)) (ctxPlaced c (createdCtx d) s)) := by
  have named : dfld d 24 1 ≠ 0xFF := by omega
  refine congrArg Host.Outcome.next ((onStarted_started h).trans ?_)
  dsimp only
  rw [if_neg named, guarded_pass (by simp [needPart, chk, legal, online, room, firstFail]),
    show kindSlots Hk.ctx = 4096 from rfl, chosen]
  simp only [plain, clampTo_zero]
  rfl

theorem createContext_refused {r : Result} (full : quotaFail s d.fn Hk.ctx = some r) :
    exec (.createContext qp sub) s = .next (endD d r s) := by
  have named : dfld d 24 1 ≠ 0xFF := by omega
  refine congrArg Host.Outcome.next ((onStarted_started h).trans ?_)
  dsimp only
  rw [if_neg named, guarded_fail (r := r) (by simp [needPart, chk, legal, online, full, firstFail])]

end CreateContext

/-- The queue pair that CREATE_QUEUE_PAIR builds with a vector. -/
def createdQp (d : Desc) (loc : Nat) : QueuePair :=
  { fn := d.fn, loc := loc, ctx := some (hSlot (dCtx d)), sqBase := dfld d 24 8 / 4096 * 4096
    cqBase := dfld d 32 8 / 4096 * 4096, sqLog := max 6 (min 16 (dfld d 40 1)), cqLog := max 6 (min 16 (dfld d 41 1))
    vector := some (dfld d 42 2), state := .live, sqTail := 0, fetchPos := 0, nextSub := 0, cqWritten := 0, cqConsumed := 0
    reserved := 0, armed := false, lastDstat := none, unbuilding := false }

/-- A queue pair is put in its place. -/
def qpPlaced (q : Nat) (p : QueuePair) (s : State) : State := modCmd (fun c => { c with qps := tput c.qps q p }) s

theorem getQp_qpPlaced (q : Nat) (p : QueuePair) (s : State) : getQp (qpPlaced q p s) q = some p := tget_tput_same _ _ _

theorem createQueuePair_builds {s : State} {qp sub q loc : Nat} {d : Desc} (h : Started s qp sub 0x14 d)
    (vec : dfld d 42 2 < vectorCount d.fn) (room : quotaFail s d.fn Hk.qp = none) (free : freeQp s d.fn = some (q, loc)) :
    exec (.createQueuePair qp sub) s =
      .next (endD d { rHandle (mkHandle Hk.qp q) with aux := loc } (qpPlaced q (createdQp d loc) s)) := by
  have one : dfld d 42 2 ≠ 0xFFFF := by
    unfold vectorCount at vec
    split at vec <;> omega
  refine congrArg Host.Outcome.next ((onStarted_started h).trans ?_)
  dsimp only
  rw [guarded_pass (by simp [chk, vec, room, firstFail]), free]
  dsimp only
  rw [if_neg one, clampTo_max_min (by decide), clampTo_max_min (by decide)]
  rfl

/-! ## Reset and destruction of contexts (R82, R114, R115) -/

section Recover
variable {s : State} {qp sub : Nat} {d : Desc} {x : Ctx} (there : tget s.ctxs (hSlot (dCtx d)) = some x)
include there

theorem resetContext_begins (h : Started s qp sub 0x12 d) (runs : x.state = .live ∨ x.state = .faulted)
    (online : partOff s x.home = false) :
    exec (.resetContext qp sub) s = .next (beginReset (hSlot (dCtx d)) (waitCtx (hSlot (dCtx d)) d s)) := by
  refine congrArg Host.Outcome.next ((onStarted_started h).trans ?_)
  dsimp only
  rw [there]
  rcases runs with live | faulted
  · simp [live, online]
  · simp [faulted, online]

/-- A context whose home partition is offline is not reset. -/
theorem resetContext_offline (h : Started s qp sub 0x12 d) (kept : x.state ≠ .aborting) (off : partOff s x.home = true) :
    exec (.resetContext qp sub) s = .next (endD d (refuse St.refusedState 4) s) := by
  refine congrArg Host.Outcome.next ((onStarted_started h).trans ?_)
  dsimp only
  rw [there]
  simp [kept, off]

theorem destroyContext_waits (h : Started s qp sub 0x11 d) (resets : x.state = .resetting) :
    exec (.destroyContext qp sub) s = .next (waitCtx (hSlot (dCtx d)) d s) := by
  refine congrArg Host.Outcome.next ((onStarted_started h).trans ?_)
  dsimp only
  rw [there]
  simp [resets]

theorem destroyContext_begins (h : Started s qp sub 0x11 d) (runs : x.state = .live ∨ x.state = .faulted) :
    exec (.destroyContext qp sub) s = .next (beginDestroy (hSlot (dCtx d)) (waitCtx (hSlot (dCtx d)) d s)) := by
  refine congrArg Host.Outcome.next ((onStarted_started h).trans ?_)
  dsimp only
  rw [there]
  rcases runs with live | faulted
  · simp [live]
  · simp [faulted]

end Recover

/-- A descriptor joins the end of the line of those that wait on a context (R115). -/
theorem tget_waitCtx {s : State} {c : Nat} {x : Ctx} (there : tget s.ctxs c = some x) (d : Desc) :
    tget (waitCtx c d s).ctxs c = some { x with waiters := x.waiters ++ [(d.qp, d.sub)] } := by
  rw [waitCtx, modCtx_ctxs, tget_tmod_same, runDesc_ctxs, there, Option.map_some]

/-- The context is back in service, the first of those that wait taken off, its queue pairs at their tails. -/
def ctxRestored (c : Nat) (s : State) : State :=
  modCtx c (fun x => { x with state := .live, aflags := 0, waiters := x.waiters.tail })
    (modCmd (fun k => { k with qps := tmapv k.qps fun _ (p : QueuePair) => if p.ctx = some c then skipQp p else p }) s)

theorem tget_ctxRestored {s : State} {c : Nat} {x : Ctx} (there : tget s.ctxs c = some x) :
    tget (ctxRestored c s).ctxs c = some { x with state := .live, aflags := 0, waiters := x.waiters.tail } := by
  rw [ctxRestored, modCtx_ctxs, tget_tmod_same, modCmd_ctxs, there, Option.map_some]

theorem nextWaiter_none {s : State} {c : Nat} {x : Ctx} (there : tget s.ctxs c = some x) (alone : x.waiters = []) :
    nextWaiter c s = s := by
  simp [nextWaiter, there, alone]

/-- The end of a reset that one descriptor awaits. -/
theorem contextResetComplete_ends {s : State} {c q u : Nat} {x : Ctx} {d : Desc} (there : tget s.ctxs c = some x)
    (resets : x.state = .resetting) (line : x.waiters = [(q, u)]) (found : findDesc s q u = some d) :
    exec (.contextResetComplete c) s = .next (endD d (rRecovered d) (ctxRestored c s)) := by
  have restored : tget (endD d (rRecovered d) (ctxRestored c s)).ctxs c = _ := tget_ctxRestored there
  have kept : findDesc (ctxRestored c s) q u = some d := found
  refine congrArg Host.Outcome.next ?_
  rw [there]
  refine (if_pos resets).trans (Eq.trans (congrArg (nextWaiter c) ?_) (nextWaiter_none restored (by rw [line]; rfl)))
  rw [line]
  rw [ctxRestored] at kept
  simp only [kept]
  rfl

theorem contextResetComplete_idle {s : State} {c : Nat} {x : Ctx} (there : tget s.ctxs c = some x)
    (other : x.state ≠ .resetting) : exec (.contextResetComplete c) s = .next s := by
  refine congrArg Host.Outcome.next ?_
  rw [there]
  exact if_neg other

/-- The queue pairs of the context under reset move to their tails (R82). -/
theorem tget_qps_ctxRestored {s : State} {k : Nat} {p : QueuePair} (there : tget s.cmd.qps k = some p) (c : Nat) :
    tget (ctxRestored c s).cmd.qps k = some (if p.ctx = some c then skipQp p else p) := by
  rw [ctxRestored, modCtx_cmd, modCmd_cmd, tget_tmapv, there, Option.map_some]

/-! ## Destruction of queue pairs (R114) -/

/-- A descriptor of the queue pair writes no record any more. -/
def silenced (q : Nat) (d : Desc) : Desc := if d.qp = q then { d with noRecord := true } else d

theorem noRecord_silenced {q : Nat} {d : Desc} (own : (silenced q d).qp = q) : (silenced q d).noRecord = true := by
  unfold silenced at own ⊢
  split at own
  case isTrue at_q => rw [if_pos at_q]
  case isFalse other => exact absurd own other

/-- The queue pair is being destroyed: its descriptors are aborted and silenced. -/
def qpDying (q : Nat) (s : State) : State :=
  mapDescs (silenced q) (abortDescs (fun e => e.qp = q) (modQp q (fun p => { p with state := .aborting }) s))

theorem destroyQueuePair_begins {s : State} {qp sub : Nat} {d : Desc} (h : Started s qp sub 0x15 d)
    (named : needQp s d 24 = none) (noLaunch : s.tsk.launches = []) (noRunner : s.runners = []) :
    exec (.destroyQueuePair qp sub) s =
      .next (runDesc d.qp d.sub (dfld d 24 4) (qpDying (hSlot (dfld d 24 4)) s)) := by
  refine congrArg Host.Outcome.next ((onStarted_started h).trans ((guarded_pass (by rw [named]; rfl) _ _ _).trans ?_))
  have launches (f) : (modQp (hSlot (dfld d 24 4)) f s).tsk.launches = [] := noLaunch
  have runners (p) (f) : (abortDescs p (modQp (hSlot (dfld d 24 4)) f s)).runners = [] := noRunner
  simp only [launches, runners, List.filter_nil, List.map_nil, stopLaunches, List.foldl_nil]
  rfl

theorem getQp_qpDying {s : State} {q : Nat} {p : QueuePair} (there : getQp s q = some p) :
    getQp (qpDying q s) q = some { p with state := .aborting } := getQp_modQp_some there _

/-- No descriptor of a queue pair that is being destroyed writes a record. -/
theorem noRecord_qpDying {q : Nat} {s : State} {e : Desc} (qp sub n : Nat)
    (there : e ∈ (runDesc qp sub n (qpDying q s)).cmd.descs) (own : e.qp = q) : e.noRecord = true := by
  obtain ⟨b, inner, rfl⟩ := List.mem_map.mp there
  obtain ⟨a, -, rfl⟩ := List.mem_map.mp inner
  dsimp only at own ⊢
  split at own
  case isTrue at_d =>
    rw [if_pos at_d]
    exact noRecord_silenced own
  case isFalse other =>
    rw [if_neg other]
    exact noRecord_silenced own

/-- Settles O14: creation by `ctxPlaced` and `qpPlaced`, recovery by `beginReset`, `ctxRestored` and `beginDestroy` (log 20:
fields are clamped; log 48: an offline home is refused at CONTEXT; log 49: with REFUSED_STATE at 4). -/
theorem contextsAndQueuePairs : Obligations.ContextsAndQueuePairs := by
  refine ⟨fun s qp sub d h => ⟨_, nop_ends h, started_ends h rfl _, endD_only d rDone s, rfl, rfl⟩,
    fun c s qp sub listed idle => ?idle,
    fun s qp sub d e h listed there => ⟨_, getAttention_reports h listed, ?reported, rfl⟩,
    fun s qp sub d e ep h listed there epoch => ⟨_, ackAttention_acks h (.inr listed) epoch, ?acked, ?entry⟩,
    fun s qp sub d c h legal online room chosen plain => ⟨_, createContext_creates h legal online room chosen plain,
      started_ends h rfl _, tget_tput_same _ _ _, rfl, fun k ne => tget_tput_ne _ _ ne⟩,
    fun s qp sub d r h legal online full => ⟨_, createContext_refused h legal online full, started_ends h rfl r, rfl⟩,
    fun s qp sub d x h there runs online => ⟨_, resetContext_begins there h runs online, rfl⟩,
    fun s qp sub d x h there kept off => ⟨_, resetContext_offline there h kept off, started_ends h rfl _, rfl⟩,
    fun s qp sub d x h there resets => ⟨_, destroyContext_waits there h resets, ?waits⟩,
    fun s qp sub d x h there runs => ⟨_, destroyContext_begins there h runs, rfl⟩,
    fun s c x q u d there resets line found running =>
      ⟨_, contextResetComplete_ends there resets line found, ?restored, ?ended, fun k p at_k => tget_qps_ctxRestored at_k c⟩,
    fun s c x there other => contextResetComplete_idle there other,
    fun s qp sub d q loc h vec room free => ⟨_, createQueuePair_builds h vec room free, started_ends h rfl _, _,
      getQp_qpPlaced q _ s, rfl, rfl, rfl, rfl, rfl, rfl, rfl, rfl, rfl⟩,
    fun s qp sub d p h named there noLaunch noRunner => ⟨_, destroyQueuePair_begins h named noLaunch noRunner,
      getQp_qpDying there, fun e inside own => noRecord_qpDying _ _ _ inside own⟩⟩
  case idle =>
    obtain ⟨op, f, acts⟩ := plainOpcode_onStarted listed
    rw [acts, onStarted_idle idle]
  case reported => rw [← attReport_entry listed there]; exact started_ends h rfl _
  case acked => exact (statusOf_of_resultOf (started_ends h rfl _)).trans (congrArg some (attReport_status _ _))
  case entry =>
    rw [attOf_endD, attOf_tput, tget_attAcked, there]
    simp
  case waits =>
    obtain ⟨found, -, -⟩ := h
    obtain ⟨rfl, rfl⟩ := findDesc_place found
    exact tget_waitCtx there d
  case restored =>
    refine (tget_ctxRestored there).trans ?_
    rw [line]
    rfl
  case ended =>
    obtain ⟨rfl, rfl⟩ := findDesc_place found
    exact resultOf_endDesc _ (s := ctxRestored c s) found running

/-- Settles O49: CREATE_QUEUE_PAIR and BUILD start at 0 (`createdQp`, `builtQp`), and every entry moves on by one
(`fetchedFrom`). -/
theorem seqIsSubmissionNumber : Obligations.SeqIsSubmissionNumber := by
  unfold Obligations.SeqIsSubmissionNumber
  intro fetched able seqOf
  refine ⟨fun s qp sub d q loc h vec _ room free => ⟨_, createQueuePair_builds h vec room free, ?created⟩,
    fun s fn bound v q o num unbuilt vec _ _ => ⟨_, build_unbuilt o num unbuilt v, ?built⟩,
    fun s qp raw p serves seq passes => ?passes,
    fun s qp raw p serves service seq =>
      ⟨_, descriptorFetch_wrongSeq serves (raw := raw) (by rw [dSeq_fetchedDesc]; exact seq), ?stopped, ?refused⟩, rfl⟩
  case created => exact congrArg (Option.map QueuePair.nextSub) (getQp_qpPlaced q (createdQp d loc) s)
  case built => exact congrArg (Option.map QueuePair.nextSub) (getQp_buildSvq fn q _)
  case passes =>
    obtain ⟨sig, runs⟩ := descriptorFetch_enters serves ((dSeq_fetchedDesc qp p raw).trans seq)
    obtain ⟨-, -, there⟩ := serves
    rw [show headerFail (fetchServed p s) (fetchedDesc qp p raw) = none from passes] at runs
    have moved := getQp_enterDesc (s := fetchServed p s) (d := { fetchedDesc qp p raw with sigOk := sig }) there
    refine ⟨_, runs, congrArg (Option.map QueuePair.nextSub) moved, ?_, ?_⟩
    · simp [fetchedDesc]
    · simp [entryPhase]
  case stopped =>
    obtain ⟨-, -, there⟩ := serves
    have moved := getQp_stopQp_service (s := fetchServed p s)
      (d := { fetchedDesc qp p raw with phase := .ended (refuse St.refusedState 2) }) service there
    exact congrArg (Option.map QueuePair.nextSub) moved
  case refused =>
    rw [stopQp_service_descs service]
    simp [St.refusedState]

end Sys2Proof.Proofs
end

section
/-!
Events (chapter 04, R103 to R107, R113): updates where nothing else hangs on the event, waits, remote updates, destruction.
-/
namespace Sys2Proof.Proofs
open Sys2Proof.Machine Sys2Proof.Laws

/-! ## Frames -/

@[simp] theorem sendTo_cmd (node : Nat) (m : Msg) (s : State) : (sendTo node m s).cmd = s.cmd :=
  (sendTo_keeps (keeps_refl _ s) (sub_refl _) node m).only.cmd rfl

@[simp] theorem sendTo_evs (node : Nat) (m : Msg) (s : State) : (sendTo node m s).evs = s.evs :=
  (sendTo_keeps (keeps_refl _ s) (sub_refl _) node m).only.evs rfl

@[simp] theorem onSignal_cmd (slot : Nat) (op : EvOp) (s : State) : (onSignal slot op s).cmd = s.cmd :=
  (onSignal_keeps (keeps_refl _ s) (sub_refl _) slot op).only.cmd rfl

@[simp] theorem onSignal_evs (slot : Nat) (op : EvOp) (s : State) : (onSignal slot op s).evs = s.evs :=
  (onSignal_keeps (keeps_refl _ s) (sub_refl _) slot op).only.evs rfl

@[simp] theorem onSignal_tsk (slot : Nat) (op : EvOp) (s : State) : (onSignal slot op s).tsk = s.tsk :=
  (onSignal_keeps (keeps_refl _ s) (sub_refl _) slot op).only.tsk rfl

/-! ## Updates (R103) -/

theorem evApply_sig (p : Nat) (e : Event) : evApply (.sig p false) e = { e with
    payload := p, count := min (2 ^ 32 - 1) (e.count + 1)
    signalled := if e.counter then decide (e.threshold ≤ min (2 ^ 32 - 1) (e.count + 1)) else true } := by
  rw [evApply, Bool.or_false]
  rfl

theorem evApply_add (n : Nat) (e : Event) : evApply (.add n) e = { e with
    count := min (2 ^ 32 - 1) (e.count + n)
    signalled := if e.counter then decide (e.threshold ≤ min (2 ^ 32 - 1) (e.count + n)) else e.signalled } := rfl

/-- A reset leaves a counter with a threshold unsignalled. -/
theorem evApply_rst {e : Event} (h : e.counter = true → 1 ≤ e.threshold) :
    evApply .rst e = { e with count := 0, payload := 0, signalled := false, error := false } := by
  have low : (if e.counter then decide (e.threshold ≤ 0) else false) = false := by
    split
    case isTrue counter => exact decide_eq_false (by have := h counter; omega)
    case isFalse => rfl
  rw [evApply, low]

/-- An event after an update, with its waiters released (R105). -/
def evStored (slot : Nat) (op : EvOp) (e : Event) (s : State) : State :=
  mapDescs (releaseWaiter slot (evApply op e)) { s with evs := tput s.evs slot (evApply op e) }

theorem evTokens_noLaunch {s : State} (h : s.tsk.launches = []) (slot : Nat) (e : Event) : evTokens s slot e = [] := by
  simp [evTokens, h]

theorem settleN_nil (n : Nat) (s : State) : settleN n [] s = s := by
  cases n <;> rfl

section Quiet
variable {s : State} {slot : Nat} {e : Event} (quiet : Quiet s) (there : tget s.evs slot = some e)
  (kept : e.aborting = false)
include quiet there kept

/-- With no launch and no operation an update sets no further work going. -/
theorem doUpdate_quiet (op : EvOp) : doUpdate slot op s = ([], onSignal slot op (evStored slot op e s)) := by
  obtain ⟨noLaunch, noOp⟩ := quiet
  have launches : (onSignal slot op (evStored slot op e s)).tsk.launches = [] := by
    rw [onSignal_tsk]
    exact noLaunch
  have ops : (evStored slot op e s).col.ops = [] := noOp
  have fires : fireOps slot (evApply op e) (evStored slot op e s) = ([], evStored slot op e s) := by
    simp only [fireOps, ops, List.filter_nil, opsFail, fireEach, ite_self]
  have tokens := evTokens_noLaunch launches slot (evApply op e)
  rw [evStored] at ops fires tokens
  simp only [doUpdate, there, kept, Bool.false_eq_true, if_false, ops, fires, List.filter_nil, opsFail, ite_self, tokens]
  rfl

theorem updateEvent_quiet (op : EvOp) : updateEvent slot op s =
    modTsk (fun k => { k with nextFire := k.nextFire + 1 }) (onSignal slot op (evStored slot op e s)) := by
  have bound : settleBound s [.upd slot op] = 3 + 1 := by
    obtain ⟨noLaunch, noOp⟩ := quiet
    simp [settleBound, noLaunch, noOp]
  rw [updateEvent, settle, bound, settleN, doWork, doUpdate_quiet quiet there kept]
  rfl

theorem tget_updateEvent (op : EvOp) : tget (updateEvent slot op s).evs slot = some (evApply op e) := by
  rw [updateEvent_quiet quiet there kept, modTsk_evs, onSignal_evs]
  exact tget_tput_same s.evs slot _

/-- An update of an event touches only descriptors that wait on events. -/
theorem findDesc_updateEvent (op : EvOp) (qp sub : Nat) : findDesc (updateEvent slot op s) qp sub =
    (findDesc s qp sub).map (releaseWaiter slot (evApply op e)) := by
  have place (d : Desc) : (releaseWaiter slot (evApply op e) d).qp = d.qp ∧
      (releaseWaiter slot (evApply op e) d).sub = d.sub := by
    unfold releaseWaiter
    split <;> exact ⟨rfl, rfl⟩
  have same : (updateEvent slot op s).cmd.descs = (evStored slot op e s).cmd.descs := by
    rw [updateEvent_quiet quiet there kept, modTsk_cmd, onSignal_cmd]
  rw [findDesc_congr same, evStored, findDesc_mapDescs place]
  rfl

/-- A started descriptor that updates an event ends DONE with the event as the update leaves it. -/
theorem started_updates {qp sub code : Nat} {d : Desc} (h : Started s qp sub code d) (op : EvOp) :
    statusOf (endD d rDone (updateEvent slot op s)) qp sub = some 0 ∧
      tget (endD d rDone (updateEvent slot op s)).evs slot = some (evApply op e) := by
  refine ⟨?_, tget_updateEvent quiet there kept op⟩
  obtain ⟨found, -, phase⟩ := h
  obtain ⟨rfl, rfl⟩ := findDesc_place found
  have still : findDesc (updateEvent slot op s) d.qp d.sub = some d := by
    rw [findDesc_updateEvent quiet there kept, found, Option.map_some, releaseWaiter, if_neg (by simp [phase])]
  exact statusOf_of_resultOf (resultOf_endDesc rDone still (by simp [dEnded, phase]))

end Quiet

section Update
variable {s : State} {qp sub : Nat} {d : Desc} (named : needH s d Hk.ev 24 = none)
include named

theorem firstFail_named : firstFail [needH s d Hk.ev 24] = none := by rw [named]; rfl

theorem eventSignal_updates (h : Started s qp sub 0x40 d) : exec (.eventSignal qp sub) s =
    .next (endD d rDone (updateEvent (hSlot (dfld d 24 4)) (.sig (dfld d 32 8) false) s)) :=
  congrArg Host.Outcome.next ((onStarted_started h).trans (guarded_pass (firstFail_named named) _ _ _))

theorem eventAdd_updates (h : Started s qp sub 0x41 d) : exec (.eventAdd qp sub) s =
    .next (endD d rDone (updateEvent (hSlot (dfld d 24 4)) (.add (dfld d 28 4)) s)) :=
  congrArg Host.Outcome.next ((onStarted_started h).trans (guarded_pass (firstFail_named named) _ _ _))

theorem eventReset_updates (h : Started s qp sub 0x42 d) : exec (.eventReset qp sub) s =
    .next (endD d rDone (updateEvent (hSlot (dfld d 24 4)) .rst s)) :=
  congrArg Host.Outcome.next ((onStarted_started h).trans (guarded_pass (firstFail_named named) _ _ _))

/-! ## Waits and queries (R105) -/

variable {e : Event} (there : tget s.evs (hSlot (dfld d 24 4)) = some e)
include there

theorem eventWait_signalled (h : Started s qp sub 0x43 d) (signalled : e.signalled = true) :
    exec (.eventWait qp sub) s =
      .next (endD d (evResult (if e.error then St.aborted else St.done) (dfld d 24 4) e) s) := by
  refine congrArg Host.Outcome.next ((onStarted_started h).trans ((guarded_pass (firstFail_named named) _ _ _).trans ?_))
  dsimp only
  rw [there]
  exact if_pos signalled

theorem eventWait_runs (h : Started s qp sub 0x43 d) (unsignalled : e.signalled = false) :
    exec (.eventWait qp sub) s = .next (runDesc d.qp d.sub (hSlot (dfld d 24 4)) s) := by
  refine congrArg Host.Outcome.next ((onStarted_started h).trans ((guarded_pass (firstFail_named named) _ _ _).trans ?_))
  dsimp only
  rw [there]
  exact if_neg (by simp [unsignalled])

theorem eventQuery_reports (h : Started s qp sub 0x44 d) : exec (.eventQuery qp sub) s =
    .next (endD d (evResult St.done (dfld d 24 4) e) s) := by
  refine congrArg Host.Outcome.next ((onStarted_started h).trans ((guarded_pass (firstFail_named named) _ _ _).trans ?_))
  dsimp only
  rw [there]

end Update

/-- The result of a wait or query in plain numbers (Table 04-15). -/
theorem evResult_eq (status h : Nat) (e : Event) : evResult status h e =
    { status := status, handle := h, aux := e.count, value := e.payload
      flags := (if e.signalled then 1 else 0) + if e.error then 2 else 0 } := rfl

theorem waitTimeout_zero {d : Desc} (h : dfld d 28 4 = 0) : waitTimeout d = 0 := by
  rw [waitTimeout, h]
  rfl

theorem waitTimeout_set {d : Desc} (h : dfld d 28 4 ≠ 0) : waitTimeout d ≠ 0 := by
  unfold waitTimeout clampZeroOr
  split_ifs <;> omega

section Timeout
variable {s : State} {qp sub : Nat} {d : Desc} (h : Running s qp sub 0x43 d)
include h

theorem eventWaitTimeout_ends {e : Event} (there : tget s.evs (hSlot (dfld d 24 4)) = some e) (set : dfld d 28 4 ≠ 0) :
    exec (.eventWaitTimeout qp sub) s = .next (endD d (evResult St.timeout (dfld d 24 4) e) s) := by
  refine congrArg Host.Outcome.next ((onRunning_running h).trans ((if_neg (waitTimeout_set set)).trans ?_))
  dsimp only
  rw [there]

theorem eventWaitTimeout_none (zero : dfld d 28 4 = 0) : exec (.eventWaitTimeout qp sub) s = .next s :=
  congrArg Host.Outcome.next ((onRunning_running h).trans (if_pos (waitTimeout_zero zero)))

end Timeout

/-! ## CREATE_EVENT and EXPORT_EVENT (R101, R106) -/

/-- The event that CREATE_EVENT makes. -/
def createdEv (d : Desc) : Event :=
  { ctx := hSlot (dCtx d), counter := decide (dfld d 24 1 ≠ 0)
    threshold := if dfld d 24 1 ≠ 0 then max 1 (dfld d 28 4) else 0, count := 0, payload := 0
    signalled := false, error := false, scope := 0, node := 0, nodeMask := 0, aborting := false }

/-- An event takes a slot. -/
def evPlaced (e : Nat) (v : Event) (s : State) : State :=
  { modCmd (fun k => { k with evSlots := slotTake k.evSlots (kindSlots Hk.ev) }) s with evs := tput s.evs e v }

theorem clampTo_dword (d : Desc) : clampTo 1 (2 ^ 32 - 1) (dfld d 28 4) = max 1 (dfld d 28 4) := by
  have lt : dfld d 28 4 < 2 ^ 32 := Nat.mod_lt _ (by decide)
  rw [clampTo_max_min (by decide)]
  omega

theorem createEvent_creates {s : State} {qp sub e : Nat} {d : Desc} (h : Started s qp sub 0x1C d)
    (room : quotaFail s d.fn Hk.ev = none) (chosen : slotChoose s.cmd.evSlots 262144 = some e) :
    exec (.createEvent qp sub) s = .next (endD d (rHandle (mkHandle Hk.ev e)) (evPlaced e (createdEv d) s)) := by
  refine congrArg Host.Outcome.next ((onStarted_started h).trans ((guarded_pass (by rw [room]; rfl) _ _ _).trans ?_))
  rw [show kindSlots Hk.ev = 262144 from rfl, chosen]
  simp only [clampTo_dword, decide_eq_true_eq]
  rfl

theorem exportEvent_exports {s : State} {qp sub : Nat} {d : Desc} (h : Started s qp sub 0x1E d)
    (own : needOwnEv s d 24 = none) : exec (.exportEvent qp sub) s =
      .next (endD d rDone (modEv (hSlot (dfld d 24 4)) (fun e => { e with
        scope := clampTo 0 2 (dfld d 28 1), node := dfld d 32 3, nodeMask := dfld d 36 3 }) s)) :=
  congrArg Host.Outcome.next ((onStarted_started h).trans (guarded_pass (by rw [own]; rfl) _ _ _))

theorem tget_modEv {s : State} {k : Nat} {e : Event} (there : tget s.evs k = some e) (f : Event → Event) :
    tget (modEv k f s).evs k = some (f e) := by
  rw [modEv, tget_tmod_same, there, Option.map_some]

/-! ## Updates between nodes (R107) -/

/-- A remote update waits for its reply. -/
def remoteWaits (d : Desc) (node : Nat) (s : State) : State :=
  modCmd (fun c => { c with remotes := c.remotes ++ [{ qp := d.qp, sub := d.sub, node := node }] })
    (runDesc d.qp d.sub node s)

theorem eventRemote_sends {s : State} {qp sub : Nat} {d : Desc} (h : Started s qp sub 0x45 d)
    (plain : confidential s = false) : ∃ m, exec (.eventRemote qp sub) s =
      .next (sendTo (dfld d 24 3) m (remoteWaits d (dfld d 24 3) s)) :=
  ⟨_, congrArg Host.Outcome.next ((onStarted_started h).trans (if_neg (by simp [plain])))⟩

section Request
variable {s : State} {node op h v txn : Nat} {e : Event} (plain : confidential s = false) (kind : hKind h = Hk.ev)
  (there : tget s.evs (hSlot h) = some e)
include plain kind there

theorem eventReq_applies (accepts : filterOk e node = true) : exec (.eventReq node op h v txn) s =
    .next (sendTo node (.eventRsp txn St.done) (updateEvent (hSlot h)
      (if op = 0 then .sig (v % 2 ^ 64) false else .add (v % 2 ^ 32)) s)) := by
  refine congrArg Host.Outcome.next ((if_neg (by simp [plain])).trans ((if_pos kind).trans ?_))
  rw [there]
  exact if_pos accepts

theorem eventReq_refused (rejects : filterOk e node = false) : exec (.eventReq node op h v txn) s =
    .next (sendTo node (.eventRsp txn St.refusedHandle) s) := by
  refine congrArg Host.Outcome.next ((if_neg (by simp [plain])).trans ((if_pos kind).trans ?_))
  rw [there]
  exact if_neg (by simp [rejects])

end Request

/-- In confidential mode a node outside the session is answered NOT_PERMITTED. -/
theorem eventReq_outside {s : State} {node : Nat} (conf : confidential s = true) (outside : sessionNode s node = false)
    (op h v txn : Nat) : exec (.eventReq node op h v txn) s = .next (sendTo node (.eventRsp txn St.notPermitted) s) :=
  congrArg Host.Outcome.next (if_pos (by simp [conf, outside]))

theorem aborting_of_filterOk {e : Event} {node : Nat} (h : filterOk e node = true) : e.aborting = false := by
  simp only [filterOk, Bool.and_eq_true, Bool.not_eq_true'] at h
  obtain ⟨⟨-, kept⟩, -⟩ := h
  exact kept

/-- A remote update that is taken off the list no longer waits. -/
theorem remotes_dropRemote (qp sub : Nat) (s : State) :
    ∀ r ∈ (dropRemote qp sub s).cmd.remotes, ¬(r.qp = qp ∧ r.sub = sub) := by
  intro r there
  have kept := List.of_mem_filter there
  rintro ⟨rfl, rfl⟩
  simp at kept

section Reply
variable {s : State} {qp sub : Nat} {d : Desc} (h : Running s qp sub 0x45 d)
include h

theorem eventRsp_ends {st : Nat} (known : st = 0x00 ∨ st = 0x10 ∨ st = 0x13) :
    exec (.eventRsp qp sub st) s = .next (endD d (resOf st) (dropRemote qp sub s)) := by
  refine congrArg Host.Outcome.next ((onRunning_running h).trans (if_pos ?_))
  rcases known with rfl | rfl | rfl <;> rfl

theorem eventRemoteTimeout_ends :
    exec (.eventRemoteTimeout qp sub) s = .next (endD d (resOf St.timeout) (dropRemote qp sub s)) :=
  congrArg Host.Outcome.next (onRunning_running h)

end Reply

/-! ## Destruction (R113) -/

/-- A descriptor that a test names is aborted. -/
theorem findDesc_abortDescs {s : State} {p : Desc → Bool} {q u : Nat} {w : Desc} (found : findDesc s q u = some w) :
    findDesc (abortDescs p s) q u =
      some (if p w && !dEnded w then { w with phase := .ended (resOf St.aborted) } else w) := by
  rw [abortDescs, findDesc_mapDescs, found, Option.map_some]
  intro d
  split <;> exact ⟨rfl, rfl⟩

/-- A fetched descriptor that waits for an event is aborted with the event. -/
theorem findDesc_abortWaiters {s : State} {slot q u : Nat} {w : Desc} (found : findDesc s q u = some w)
    (fetched : w.phase = .fetched) (waits : dWait w = mkHandle Hk.ev slot) :
    findDesc (abortWaiters slot s) q u = some { w with phase := .ended (resOf St.aborted) } := by
  rw [abortWaiters, findDesc_abortDescs found, if_pos (by simp [fetched, waits, dEnded])]

/-- With no operation there is none that loses an object. -/
theorem opsLose_frame {s : State} (noOp : s.col.ops = []) (h : Nat) :
    (opsLose h s).cmd = s.cmd ∧ (opsLose h s).evs = s.evs := by
  unfold opsLose
  split
  case isTrue =>
    rw [cancelOps, noOp, List.filter_nil, opsFail]
    simp only [settle, settleN_nil]
    exact ⟨rfl, rfl⟩
  case isFalse => exact ⟨rfl, rfl⟩

/-- An event is being destroyed, its waiters aborted. -/
def evDying (slot : Nat) (s : State) : State := abortWaiters slot (modEv slot (fun v => { v with aborting := true }) s)

/-- The descriptors that name an object, but for its destroyer, are aborted. -/
def namersAborted (d : Desc) (h : Nat) (s : State) : State :=
  abortDescs (fun e => dRuns e && descNames e h && !(decide (e.qp = d.qp) && decide (e.sub = d.sub))) s

theorem destroyEvent_begins {s : State} {qp sub : Nat} {d : Desc} (h : Started s qp sub 0x1D d)
    (own : needOwnEv s d 24 = none) (quiet : Quiet s) (noGen : s.tsk.gens = []) : exec (.destroyEvent qp sub) s =
      .next (runDesc d.qp d.sub (dfld d 24 4)
        (opsLose (dfld d 24 4) (namersAborted d (dfld d 24 4) (evDying (hSlot (dfld d 24 4)) s)))) := by
  obtain ⟨noLaunch, -⟩ := quiet
  have gens : (evDying (hSlot (dfld d 24 4)) s).tsk.gens = [] := noGen
  have launches : (evDying (hSlot (dfld d 24 4)) s).tsk.launches = [] := noLaunch
  refine congrArg Host.Outcome.next ((onStarted_started h).trans ((guarded_pass (by rw [own]; rfl) _ _ _).trans ?_))
  rw [evDying] at gens launches
  simp only [gens, launches, removeUsers, List.filter_nil, List.map_nil, stopLaunches, List.foldl_nil]
  rfl

/-- A descriptor that waits for an event ends with ABORTED as the event's destruction begins (R113). -/
theorem statusOf_destroyed {s : State} {qp sub q u : Nat} {d w : Desc} (h : Started s qp sub 0x1D d) (quiet : Quiet s)
    (found : findDesc s q u = some w) (fetched : w.phase = .fetched)
    (waits : dWait w = mkHandle Hk.ev (hSlot (dfld d 24 4))) :
    statusOf (runDesc d.qp d.sub (dfld d 24 4)
      (opsLose (dfld d 24 4) (namersAborted d (dfld d 24 4) (evDying (hSlot (dfld d 24 4)) s)))) q u = some 0x20 := by
  obtain ⟨destroyer, -, phase⟩ := h
  obtain ⟨rfl, rfl⟩ := findDesc_place destroyer
  obtain ⟨-, noOp⟩ := quiet
  have other : ¬(q = d.qp ∧ u = d.sub) := by
    rintro ⟨rfl, rfl⟩
    rw [destroyer, Option.some_inj] at found
    subst found
    rw [phase] at fetched
    cases fetched
  have ended : findDesc (evDying (hSlot (dfld d 24 4)) s) q u = some { w with phase := .ended (resOf St.aborted) } :=
    findDesc_abortWaiters (s := modEv _ _ s) found fetched waits
  have stays : findDesc (namersAborted d (dfld d 24 4) (evDying (hSlot (dfld d 24 4)) s)) q u =
      some { w with phase := .ended (resOf St.aborted) } := by
    rw [namersAborted, findDesc_abortDescs ended]
    simp [dEnded]
  obtain ⟨cmd, -⟩ := opsLose_frame (s := namersAborted d (dfld d 24 4) (evDying (hSlot (dfld d 24 4)) s)) noOp
    (dfld d 24 4)
  rw [statusOf, resultOf, findDesc_runDesc_ne other, findDesc_congr (congrArg CmdState.descs cmd), stays]
  rfl

/-- Settles O16: updates by `updateEvent_quiet` and `evApply`, waits and queries by `evResult`, destruction by `evDying`
(log 20: MODE and SCOPE are clamped numbers; log 52: an event being destroyed takes no update). -/
theorem eventCommands : Obligations.EventCommands := by
  unfold Obligations.EventCommands
  intro ev
  refine ⟨fun s qp sub d e h room chosen =>
      ⟨_, createEvent_creates h room chosen, started_ends h rfl _, tget_tput_same _ _ _⟩,
    fun s qp sub d e h named there kept quiet => ⟨_, eventSignal_updates named h, ?signal⟩,
    fun s qp sub d e h named there kept quiet => ⟨_, eventAdd_updates named h, ?add⟩,
    fun s qp sub d e h named there kept quiet counts => ⟨_, eventReset_updates named h, ?reset⟩,
    fun s qp sub d e h named there signalled => ⟨_, eventWait_signalled named there h signalled, ?waited⟩,
    fun s qp sub d e h named there unsignalled => ⟨_, eventWait_runs named there h unsignalled, ?waits, rfl⟩,
    fun s qp sub d e h set there => ⟨_, eventWaitTimeout_ends h there set, statusOf_of_resultOf (running_ends h rfl _), rfl⟩,
    fun s qp sub d h zero => eventWaitTimeout_none h zero,
    fun s qp sub d e h named there => ⟨_, eventQuery_reports named there h, ?queried, rfl⟩,
    fun s qp sub d e h own there =>
      ⟨_, exportEvent_exports h own, statusOf_of_resultOf (started_ends h rfl _), ?exported⟩,
    fun s qp sub d h plain => ?remote,
    fun s node h v txn e plain kind there accepts quiet => ⟨_, eventReq_applies plain kind there accepts, ?applied⟩,
    fun s node op h v txn e plain kind there rejects =>
      ⟨_, eventReq_refused plain kind there rejects, rfl, sendTo_evs _ _ s⟩,
    fun s node op h v txn conf outside => eventReq_outside conf outside op h v txn,
    fun s qp sub d st h known => ⟨_, eventRsp_ends h known, running_ends h rfl _, remotes_dropRemote qp sub s⟩,
    fun s qp sub d h => ⟨_, eventRemoteTimeout_ends h, running_ends h rfl _, remotes_dropRemote qp sub s⟩,
    fun s qp sub d e h own there quiet noGen => ⟨_, destroyEvent_begins h own quiet noGen, ?dying, ?aborted⟩⟩
  case signal => rw [← evApply_sig]; exact started_updates quiet there kept h _
  case add => rw [← evApply_add]; exact started_updates quiet there kept h _
  case reset => rw [← evApply_rst counts]; exact started_updates quiet there kept h _
  case waited =>
    refine (started_ends h rfl _).trans ?_
    rw [evResult_eq, if_pos signalled]
    rfl
  case waits =>
    obtain ⟨found, -, -⟩ := h
    obtain ⟨rfl, rfl⟩ := findDesc_place found
    exact findDesc_runDesc _ found
  case queried => exact started_ends h rfl (evResult St.done (dfld d 24 4) e)
  case exported =>
    refine (tget_modEv there _).trans ?_
    rw [clampTo_zero]
  case remote =>
    obtain ⟨m, runs⟩ := eventRemote_sends h plain
    obtain ⟨found, -, -⟩ := h
    obtain ⟨rfl, rfl⟩ := findDesc_place found
    refine ⟨_, runs, ?_, ?_, sendTo_evs _ _ _⟩
    · rw [sendTo_cmd]
      rfl
    · rw [findDesc_congr (congrArg CmdState.descs (sendTo_cmd _ _ _))]
      exact findDesc_runDesc (dfld d 24 3) found
  case applied =>
    have updated := tget_updateEvent quiet there (aborting_of_filterOk accepts) (.sig (v % 2 ^ 64) false)
    rw [← evApply_sig]
    exact (congrArg (tget · (hSlot h)) (sendTo_evs _ _ _)).trans updated
  case dying =>
    obtain ⟨-, noOp⟩ := quiet
    obtain ⟨-, evs⟩ := opsLose_frame (s := namersAborted d (dfld d 24 4) (evDying (ev d) s)) noOp (dfld d 24 4)
    rw [runDesc_evs, evs]
    exact tget_modEv there _
  case aborted =>
    intro q u w found fetched waits
    exact statusOf_destroyed h quiet found fetched waits

end Sys2Proof.Proofs
end

section
/-!
Launches and tasks (chapter 05, R126, R128, R197): the end of a MOVE task while an engine still lists it.
-/
namespace Sys2Proof.Proofs
open Sys2Proof.Machine Sys2Proof.Laws

/-! ## A MOVE task that an engine lists (R197) -/

/-- A MOVE task with neither inputs nor outputs. -/
def bareMove : TaskRec :=
  { kind := .move, place := .any, prov := false, entry := 0, exit := 0, index := 0, code := 0, imm := 0, cost := 0
    ins := [], outs := [] }

/-- A loaded graph of that one task. -/
def bareGraph : Graph :=
  { ctx := 5, state := .loaded, length := 4096, nArgs := 0, tasks := [bareMove], tokens := [], code := [], digest := 0 }

/-- A launch of the graph, its task's exit action running on a mover, no flag raised. -/
def exitingLaunch : Launch :=
  { id := 4, ctx := 5, graph := 9, qp := 3, sub := 7, byRunner := false, args := [], argsObj := none, tag := 6, guard := none
    noFallback := false, toks := [], tasks := [(0, .exiting .mover 0)], nOk := 0, nBad := 0, nFall := 0, nOver := 0
    poisoned := false, broken := false, removed := false, cancelled := false, committed := false, discarded := false
    conflict := false, flags := 0, stepped := false, key := 0 }

/-- The launch in a device whose engine 0 lists the same task with a flag raised. -/
def listedMove : State :=
  { State.reset with
    tsk := { TskState.init with graphs := [(9, bareGraph)], launches := [exitingLaunch] }
    mxe := { MxeState.init with engines := [(0, { Engine.init with run := some { matTaskNew 4 0 with flags := 1 } })] } }

/-- EXIT_ACTION_COMPLETE takes the task off the engine, and the flag it raised there joins the launch. -/
theorem listedMove_exits : ∃ t, exec (.exitActionComplete 4 0) listedMove = .next t ∧
    (findLaunch t 4).map Launch.flags = some 1 := ⟨_, rfl, by decide⟩

/-- Refutes O17: the clause on the exit of a MOVE task says that its launch changes in `tasks` and `nOk` alone, for every
state. `clearCores` frees whatever core lists the task, so in `listedMove` the flags of engine 0 join the launch's (R197). -/
theorem not_launchesAndTasks : ¬ Obligations.LaunchesAndTasks := by
  unfold Obligations.LaunchesAndTasks
  rintro ⟨-, -, -, -, -, -, -, -, -, -, exits, -⟩
  obtain ⟨t, runs, kept⟩ := exits listedMove 4 0 0 exitingLaunch bareGraph bareMove rfl rfl rfl rfl rfl
  obtain ⟨u, runs', flags⟩ := listedMove_exits
  obtain rfl : t = u := Host.Outcome.next.inj (runs.symm.trans runs')
  rw [kept] at flags
  exact absurd flags (by decide)

end Sys2Proof.Proofs
end

section
/-!
Provisional generations (chapter 05, R135 to R142): outcomes, commit points, space and old versions, and their opcodes.
-/
namespace Sys2Proof.Proofs
open Sys2Proof.Machine Sys2Proof.Laws

/-! ## The descriptor that acts -/

/-- The descriptor that acts is ended by its place. -/
theorem endDesc_started {s : State} {qp sub op : Nat} {d : Desc} (h : Started s qp sub op d) (r : Result) (t : State) :
    endDesc qp sub r t = endD d r t := by
  obtain ⟨found, -, -⟩ := h
  obtain ⟨rfl, rfl⟩ := findDesc_place found
  rfl

/-! ## Launches and generations by number -/

/-- The first entry of a number, after a change of the entries of that number. -/
theorem find?_map_key {α : Type} (key : α → Nat) {f : α → α} (h : ∀ a, key (f a) = key a) (k : Nat) (l : List α) :
    (l.map fun a => if key a = k then f a else a).find? (fun a => decide (key a = k)) =
      (l.find? fun a => decide (key a = k)).map f := by
  induction l with
  | nil => rfl
  | cons a l ih =>
    by_cases named : key a = k
    · simp [named, h]
    · simp [named, ih]

/-- A launch after a change of it. -/
theorem findLaunch_modLaunch {f : Launch → Launch} (h : ∀ x, (f x).id = x.id) (l : Nat) (s : State) :
    findLaunch (modLaunch l f s) l = (findLaunch s l).map f := find?_map_key Launch.id h l s.tsk.launches

/-- The launches are all that `findLaunch` reads. -/
theorem findLaunch_congr {s t : State} (h : t.tsk.launches = s.tsk.launches) (l : Nat) :
    findLaunch t l = findLaunch s l := by
  rw [findLaunch, h, findLaunch]

/-- The only launch there is. -/
theorem findLaunch_single {s : State} {x : Launch} (h : s.tsk.launches = [x]) : findLaunch s x.id = some x := by
  simp [findLaunch, h]

/-- A generation after a change of it. -/
theorem findGen_modGen {f : Generation → Generation} (h : ∀ g, (f g).id = g.id) (n : Nat) (s : State) :
    findGen (modGen n f s) n = (findGen s n).map f := find?_map_key Generation.id h n s.tsk.gens

theorem modGen_only (n : Nat) (f : Generation → Generation) (s : State) : Only (partMask [.tsk]) s (modGen n f s) :=
  (modGen_keeps (keeps_refl (partMask [.tsk]) s) rfl n f).only

/-- The generations are all that `findGen` reads. -/
theorem findGen_congr {s t : State} (h : t.tsk.gens = s.tsk.gens) (n : Nat) : findGen t n = findGen s n := by
  rw [findGen, h, findGen]

/-! ## Outcomes (R139, R140) -/

/-- A generation whose outcome is to commit. -/
def asCommitting (g : Generation) : Generation := { g with state := .committing }

section Resolvable
variable {s : State} {n : Nat} {g : Generation} (found : findGen s n = some g)
include found

section Oldest
variable (isOpen : g.state = .open) (first : genFirst s g = true)
include isOpen first

theorem generationResolvable_commits (yes : genOutcome s g = some true) :
    exec (.generationResolvable n) s = .next (modGen n asCommitting s) := by
  refine congrArg Host.Outcome.next ?_
  simp only [found, isOpen, first, yes, decide_true, Bool.and_self, if_true]
  rfl

theorem generationResolvable_discards (no : genOutcome s g = some false) :
    exec (.generationResolvable n) s = .next (discardGens g.ctx g.id s) := by
  refine congrArg Host.Outcome.next ?_
  simp only [found, isOpen, first, no, decide_true, Bool.and_self, if_true]

end Oldest

theorem generationResolvable_waits (h : g.state ≠ .open ∨ genFirst s g = false ∨ genOutcome s g = none) :
    exec (.generationResolvable n) s = .next s := by
  refine congrArg Host.Outcome.next ?_
  simp only [found]
  rcases h with other | later | undecided
  · simp [other]
  · simp [later]
  · simp [undecided]

end Resolvable

theorem genOutcome_conflict {g : Generation} (h : g.conflict = true) (s : State) : genOutcome s g = some false := by
  simp [genOutcome, h]

/-- A signalled guard without error says bit 0 of its payload. -/
theorem guardSays_signalled {s : State} {g : Generation} {e : Event} (there : tget s.evs g.guard = some e)
    (kept : e.aborting = false) (signalled : e.signalled = true) (good : e.error = false) :
    guardSays s g = some (bitOf e.payload 0) := by
  simp [guardSays, there, kept, signalled, good]

/-- With its PROV tasks ended, a generation without conflict whose launch goes on takes its guard's outcome. -/
theorem genOutcome_guard {s : State} {g : Generation} {x : Launch} {b : Bool} (alone : g.conflict = false)
    (found : findLaunch s g.launch = some x) (runs : launchStopped x = false) (verdict : guardSays s g = some b)
    (ended : ∀ st ∈ provTasks s g, st = .ended) : genOutcome s g = some b := by
  have noneLive : (provTasks s g).any taskLive = false := List.any_eq_false.mpr fun st inside => by
    simp [ended st inside, taskLive]
  have allEnded : (provTasks s g).all (fun st => decide (st = .ended)) = true :=
    List.all_eq_true.mpr fun st inside => decide_eq_true (ended st inside)
  cases b <;> simp [genOutcome, alone, found, runs, verdict, noneLive, allEnded]

/-! ## The commit point (R139, R214) -/

/-- A write of listed bytes leaves every byte that is not listed. -/
theorem cellGet_foldl_put_ne (l : Tbl Byte) (m : List Host.Cell) {k : Nat} (h : k ∉ tkeys l) :
    cellGet (l.foldl (fun m e => cellPut m e.1 e.2) m) k = cellGet m k := by
  induction l generalizing m with
  | nil => rfl
  | cons e l ih =>
    obtain ⟨ne, rest⟩ : k ≠ e.1 ∧ k ∉ tkeys l := by simpa [tkeys] using h
    exact (ih _ rest).trans (cellGet_put_ne m e.2 ne)

/-- COMMIT_POINT puts the generation's bytes in committed memory. -/
theorem commitBytes_mem (g : Generation) (s : State) :
    (commitBytes g s).mem = g.bytes.foldl (fun m e => cellPut m e.1 e.2) s.mem := by
  have cow : (cowGrans g.versions s).mem = s.mem :=
    (cowGrans_keeps (keeps_refl _ s) (sub_refl _) g.versions).only.mem rfl
  unfold commitBytes
  dsimp only
  split <;> simp [cow]

/-- Of the tasks' state the commit of bytes touches the old versions alone. -/
theorem commitBytes_tsk (g : Generation) (s : State) :
    (commitBytes g s).tsk = { s.tsk with olds := (commitBytes g s).tsk.olds } := by
  have cow : (cowGrans g.versions s).tsk = s.tsk :=
    (cowGrans_keeps (keeps_refl _ s) (sub_refl _) g.versions).only.tsk rfl
  unfold commitBytes
  dsimp only
  split <;> simp [cow]

@[simp] theorem unmarkLines_mem (l : Nat) (s : State) : (unmarkLines l s).mem = s.mem := rfl

@[simp] theorem unmarkLines_tsk (l : Nat) (s : State) : (unmarkLines l s).tsk = s.tsk := rfl

/-- The bytes are committed and the lines unmarked; the generation is not yet resolved. -/
def bytesCommitted (g : Generation) (s : State) : State := unmarkLines g.launch (commitBytes g s)

theorem bytesCommitted_gens (g : Generation) (s : State) : (bytesCommitted g s).tsk.gens = s.tsk.gens := by
  rw [bytesCommitted, unmarkLines_tsk, commitBytes_tsk]

theorem bytesCommitted_launches (g : Generation) (s : State) : (bytesCommitted g s).tsk.launches = s.tsk.launches := by
  rw [bytesCommitted, unmarkLines_tsk, commitBytes_tsk]

/-- A generation that is resolved holds no versions. -/
def asResolved (g : Generation) : Generation := { g with state := .resolved, versions := [], bytes := [] }

/-- A launch whose generation has committed. -/
def asCommitted (x : Launch) : Launch := { x with committed := true }

/-- A generation resolves as it commits, and its launch notes it. -/
def genCommitted (n : Nat) (g : Generation) (s : State) : State :=
  modLaunch g.launch asCommitted (modGen n asResolved (bytesCommitted g s))

section CommitPoint
variable {s : State} {n : Nat} {g : Generation} (found : findGen s n = some g)
include found

theorem commitPoint_commits (committing : g.state = .committing) :
    exec (.commitPoint n) s = .next (genCommitted n g s) := by
  refine congrArg Host.Outcome.next ?_
  simp only [found]
  exact if_pos committing

theorem commitPoint_idle (other : g.state ≠ .committing) : exec (.commitPoint n) s = .next s := by
  refine congrArg Host.Outcome.next ?_
  simp only [found]
  exact if_neg other

theorem findGen_genCommitted : findGen (genCommitted n g s) n = some (asResolved g) := by
  refine (findGen_modGen (f := asResolved) (fun _ => rfl) n (bytesCommitted g s)).trans ?_
  rw [findGen_congr (bytesCommitted_gens g s), found, Option.map_some]

end CommitPoint

theorem genCommitted_mem (n : Nat) (g : Generation) (s : State) :
    (genCommitted n g s).mem = g.bytes.foldl (fun m e => cellPut m e.1 e.2) s.mem := by
  rw [genCommitted, modLaunch, modTsk_mem, modGen, modTsk_mem, bytesCommitted, unmarkLines_mem, commitBytes_mem]

theorem findLaunch_genCommitted {s : State} {g : Generation} {x : Launch} (found : findLaunch s g.launch = some x) (n : Nat) :
    findLaunch (genCommitted n g s) g.launch = some (asCommitted x) := by
  rw [genCommitted, findLaunch_modLaunch (f := asCommitted) (fun _ => rfl),
    findLaunch_congr (t := modGen n asResolved _) (bytesCommitted_launches g s), found, Option.map_some]

/-! ## Space and old versions (R139) -/

/-- A generation is gone, its space with it. -/
def genDropped (n : Nat) (s : State) : State :=
  modTsk (fun t => { t with gens := t.gens.filter fun h => h.id ≠ n }) s

theorem genDropped_only (n : Nat) (s : State) : Only (partMask [.tsk]) s (genDropped n s) :=
  (modTsk_keeps (keeps_refl (partMask [.tsk]) s) rfl _).only

theorem versionSpaceReturn_drops {s : State} {n : Nat} {g : Generation} (found : findGen s n = some g)
    (resolved : g.state = .resolved) : exec (.versionSpaceReturn n) s = .next (genDropped n s) := by
  refine congrArg Host.Outcome.next ?_
  simp only [found]
  exact if_pos resolved

theorem findGen_genDropped (n m : Nat) (s : State) :
    findGen (genDropped n s) m = if m = n then none else findGen s m := by
  rw [findGen, genDropped, modTsk_tsk, List.find?_filter]
  split
  case isTrue same =>
    subst same
    simp
  case isFalse other =>
    refine congrArg (List.find? · s.tsk.gens) (funext fun h => ?_)
    by_cases named : h.id = m
    · simp [named, other]
    · simp [named]

/-- The old versions of a commit that no live reader needs are gone. -/
def oldsFreed (n : Nat) (s : State) : State :=
  modTsk (fun t => { t with olds := t.olds.filter fun o => decide (o.gen ≠ n) || o.readers.any (readerLives s) }) s

theorem oldGranuleFree_frees (n : Nat) (s : State) : exec (.oldGranuleFree n) s = .next (oldsFreed n s) := rfl

theorem oldsFreed_only (n : Nat) (s : State) : Only (partMask [.tsk]) s (oldsFreed n s) :=
  (modTsk_keeps (keeps_refl (partMask [.tsk]) s) rfl _).only

theorem mem_oldsFreed {n : Nat} {s : State} {o : OldVersion} : o ∈ (oldsFreed n s).tsk.olds ↔
    o ∈ s.tsk.olds ∧ (o.gen = n → ∃ a ∈ o.readers, readerLives s a = true) := by
  rw [oldsFreed, modTsk_tsk, List.mem_filter, Bool.or_eq_true, decide_eq_true_eq, List.any_eq_true, ← imp_iff_not_or]

/-! ## LAUNCH_CANCEL (R142) -/

theorem settle_nil (s : State) : settle [] s = modTsk (fun k => { k with nextFire := k.nextFire + 1 }) s := by
  rw [settle, settleN_nil]

/-- With no task to free, no engine changes. -/
theorem clearEngine_nil (c : Nat) (s : State) : clearEngine c [] s = s := by
  have notIn (t : Option MatTask) : slotIn [] t = false := by cases t <;> rfl
  simp [clearEngine, notIn]

theorem clearVCore_nil (k : Nat) (s : State) : clearVCore k [] s = s := by
  simp [clearVCore]

/-- With no task to free, the tasks' state stays. -/
theorem clearCores_nil_tsk (s : State) : (clearCores [] s).tsk = s.tsk :=
  (foldl_kept State.tsk (fun s k => by rw [clearVCore_nil]) _ _).trans
    (foldl_kept State.tsk (fun s c => by rw [clearEngine_nil]) _ s)

@[simp] theorem clearCores_cmd (ts : List (Nat × Nat)) (s : State) : (clearCores ts s).cmd = s.cmd :=
  (clearCores_keeps (keeps_refl _ s) (sub_refl _) ts).only.cmd rfl

/-- The removal of no task moves the firing number on. -/
theorem removeTasks_nil {s : State} {l : Nat} {x : Launch} {g : Graph} (found : findLaunch s l = some x)
    (there : launchGraph s x = some g) : removeTasks l [] s =
      modTsk (fun k => { k with nextFire := k.nextFire + 1 }) (clearCores [] (modLaunch l id s)) := by
  simp only [removeTasks, found, there, List.filter_nil, List.filterMap_nil, List.flatten_nil, settle_nil]
  rfl

/-- A launch that is stopped. -/
def asStopped (cancel : Bool) (x : Launch) : Launch := { x with removed := true, cancelled := x.cancelled || cancel }

section Stop
variable {s : State} {l : Nat} {x : Launch} {g : Graph} (found : findLaunch s l = some x)
  (there : launchGraph s x = some g) (noTask : g.tasks = []) (cancel : Bool)
include found there noTask

/-- The stop of a launch without tasks. -/
theorem stopLaunch_noTask : stopLaunch l cancel s = modTsk (fun k => { k with nextFire := k.nextFire + 1 })
    (clearCores [] (modLaunch l id (modLaunch l (asStopped cancel) s))) := by
  have stopped : findLaunch (modLaunch l (asStopped cancel) s) l = some (asStopped cancel x) := by
    rw [findLaunch_modLaunch (f := asStopped cancel) (fun _ => rfl), found, Option.map_some]
  have graph : launchGraph (modLaunch l (asStopped cancel) s) (asStopped cancel x) = some g := there
  have noneLive : liveTasks g x = [] := by rw [liveTasks, noTask]; rfl
  rw [← removeTasks_nil stopped graph]
  simp only [stopLaunch, found, there, noneLive]
  rfl

theorem findLaunch_stopLaunch_noTask : findLaunch (stopLaunch l cancel s) l = some (asStopped cancel x) := by
  have launches : (stopLaunch l cancel s).tsk.launches = (modLaunch l id (modLaunch l (asStopped cancel) s)).tsk.launches := by
    rw [stopLaunch_noTask found there noTask, modTsk_tsk, clearCores_nil_tsk]
  rw [findLaunch_congr launches, findLaunch_modLaunch (f := id) (fun _ => rfl),
    findLaunch_modLaunch (f := asStopped cancel) (fun _ => rfl), found]
  rfl

theorem stopLaunch_noTask_gens : (stopLaunch l cancel s).tsk.gens = s.tsk.gens := by
  rw [stopLaunch_noTask found there noTask, modTsk_tsk, clearCores_nil_tsk]
  rfl

theorem stopLaunch_noTask_cmd : (stopLaunch l cancel s).cmd = s.cmd := by
  rw [stopLaunch_noTask found there noTask, modTsk_cmd, clearCores_cmd]
  rfl

end Stop

/-- The launches that LAUNCH_CANCEL stops. -/
def cancelTargets (s : State) (d : Desc) : List Launch :=
  s.tsk.launches.filter fun x =>
    decide (x.graph = hSlot (dfld d 24 4)) && decide (some x.ctx = descCtx s d) && !x.cancelled

/-- The generations of stopped launches are discarded with those after them. -/
def launchGensLost (ls : List Launch) (s : State) : State :=
  (s.tsk.gens.filter fun g => decide (g.state ≠ .resolved) && ls.any fun x => decide (x.id = g.launch)).foldl
    (fun s g => discardGens g.ctx g.id s) s

theorem launchGensLost_noGen {s : State} (h : s.tsk.gens = []) (ls : List Launch) : launchGensLost ls s = s := by
  rw [launchGensLost, h]
  rfl

theorem launchGensLost_nil (s : State) : launchGensLost [] s = s := by
  simp [launchGensLost]

section Cancel
variable {s : State} {qp sub : Nat} {d : Desc} (h : Started s qp sub 0x50 d) (named : needH s d Hk.graph 24 = none)
include h named

theorem launchCancel_ends : exec (.launchCancel qp sub) s =
    .next (endD d { resOf 0 with aux := (cancelTargets s d).length }
      (launchGensLost (cancelTargets s d) (stopLaunches ((cancelTargets s d).map Launch.id) true s))) := by
  have pass : firstFail [needH s d Hk.graph 24] = none := by rw [named]; rfl
  rw [← endDesc_started h]
  exact congrArg Host.Outcome.next ((onStarted_started h).trans (guarded_pass pass _ _ _))

/-- LAUNCH_CANCEL that finds no launch to stop ends and does nothing else. -/
theorem launchCancel_nothing (noTarget : cancelTargets s d = []) :
    exec (.launchCancel qp sub) s = .next (endD d (resOf 0) s) := by
  rw [launchCancel_ends h named, noTarget, launchGensLost_nil]
  rfl

/-- LAUNCH_CANCEL of one launch that leaves no generation. -/
theorem launchCancel_stops {x : Launch} (one : cancelTargets s d = [x])
    (noGen : (stopLaunch x.id true s).tsk.gens = []) :
    exec (.launchCancel qp sub) s = .next (endD d { resOf 0 with aux := 1 } (stopLaunch x.id true s)) := by
  have lost := launchGensLost_noGen noGen [x]
  rw [launchCancel_ends h named, one]
  exact congrArg (fun t => Host.Outcome.next (endD d { resOf 0 with aux := 1 } t)) lost

end Cancel

theorem cancelTargets_noLaunch {s : State} (h : s.tsk.launches = []) (d : Desc) : cancelTargets s d = [] := by
  rw [cancelTargets, h]
  rfl

theorem cancelTargets_cancelled {s : State} {x : Launch} (h : s.tsk.launches = [x]) (done : x.cancelled = true) (d : Desc) :
    cancelTargets s d = [] := by
  simp [cancelTargets, h, done]

theorem cancelTargets_single {s : State} {x : Launch} {d : Desc} (h : s.tsk.launches = [x])
    (graph : x.graph = hSlot (dfld d 24 4)) (ctx : some x.ctx = descCtx s d) (runs : x.cancelled = false) :
    cancelTargets s d = [x] := by
  simp [cancelTargets, h, graph, ctx, runs]

/-! ## PROV_DISCARD and PROV_QUERY (R142) -/

/-- With no generation outstanding there is none to discard. -/
theorem discardGens_none {s : State} {c : Nat} (h : outstanding s c = []) (lo : Nat) : discardGens c lo s = s := by
  have outside : ∀ g ∈ s.tsk.gens, g.ctx = c → g.state = .resolved := by
    simpa [outstanding, List.filter_eq_nil_iff] using h
  have noneChosen : (s.tsk.gens.filter fun g => g.ctx = c && decide (g.state ≠ .resolved) && decide (lo ≤ g.id)) = [] :=
    List.filter_eq_nil_iff.mpr fun g inside chosen => by
      simp only [Bool.and_eq_true, decide_eq_true_eq] at chosen
      obtain ⟨⟨own, unresolved⟩, -⟩ := chosen
      exact unresolved (outside g inside own)
  rw [discardGens, noneChosen, List.foldl_nil]

section Prov
variable {s : State} {qp sub c : Nat} {d : Desc} (ctx : descCtx s d = some c)
include ctx

theorem provDiscard_discards (h : Started s qp sub 0x51 d) : exec (.provDiscard qp sub) s =
    .next (endD d { resOf 0 with aux := (outstanding s c).length } (discardGens c 0 s)) := by
  rw [← endDesc_started h]
  refine congrArg Host.Outcome.next ((onStarted_started h).trans ?_)
  simp only [ctx]
  rfl

/-- PROV_DISCARD with nothing outstanding ends and does nothing else. -/
theorem provDiscard_nothing (h : Started s qp sub 0x51 d) (noneOut : outstanding s c = []) :
    exec (.provDiscard qp sub) s = .next (endD d (resOf 0) s) := by
  rw [provDiscard_discards ctx h, discardGens_none noneOut, noneOut]
  rfl

theorem provQuery_reports (h : Started s qp sub 0x52 d) : exec (.provQuery qp sub) s =
    .next (endD d { resOf 0 with
      aux := (outstanding s c).length
      value := ((s.tsk.gens.filter fun g => g.ctx = c).map Generation.space).sum
      flags := if waitsOnGuard s c then 1 else 0 } s) := by
  rw [← endDesc_started h]
  refine congrArg Host.Outcome.next ((onStarted_started h).trans ?_)
  simp only [ctx]
  rfl

end Prov

/-- Settles O18: outcomes by `genOutcome` (log 54: a conflict or a stop decides at once), a commit point by `commitBytes` and
`asResolved`, the opcodes by `cancelTargets`, `outstanding` and `discardGens`. -/
theorem provisionalGenerations : Obligations.ProvisionalGenerations := by
  refine ⟨fun s n g found isOpen first yes =>
      ⟨_, generationResolvable_commits found isOpen first yes, ?committing, modGen_only n _ s, rfl⟩,
    fun s n g found isOpen first no => generationResolvable_discards found isOpen first no,
    fun s n g found waits => generationResolvable_waits found waits,
    fun s g conflict => genOutcome_conflict conflict s,
    fun s g x e alone found runs there kept signalled good ended =>
      genOutcome_guard alone found runs (guardSays_signalled there kept signalled good) ended,
    fun s n g found committing => ⟨_, commitPoint_commits found committing, findGen_genCommitted found,
      fun k unlisted => ?frame, fun wf k b one => ?byte, fun x launched => findLaunch_genCommitted launched n⟩,
    fun s n g found other => commitPoint_idle found other,
    fun s n g found resolved =>
      ⟨_, versionSpaceReturn_drops found resolved, ?gone, fun m other => ?others, genDropped_only n s⟩,
    fun s n => ⟨_, oldGranuleFree_frees n s, oldsFreed_only n s, fun o => mem_oldsFreed⟩,
    fun s qp sub d h named noLaunch => ⟨_, launchCancel_nothing h named (cancelTargets_noLaunch noLaunch d),
      started_ends h rfl _, rfl⟩,
    fun s qp sub d x h named single noGen done => ⟨_, launchCancel_nothing h named (cancelTargets_cancelled single done d),
      started_ends h rfl _, rfl⟩,
    fun s qp sub d x g h named single noGen graph ctx runs there noTask =>
      ⟨_, launchCancel_stops h named (cancelTargets_single single graph ctx runs) (stopLaunch_noTask_gens
        (findLaunch_single single) there noTask true |>.trans noGen), ?stopped, ?counted⟩,
    fun s qp sub d c h ctx => ⟨_, provDiscard_discards ctx h, ?discarded⟩,
    fun s qp sub d c h ctx noneOut => ⟨_, provDiscard_nothing ctx h noneOut, started_ends h rfl _, rfl⟩,
    fun s qp sub d c h ctx => ⟨_, provQuery_reports ctx h, started_ends h rfl _, rfl⟩⟩
  case committing => rw [findGen_modGen (f := asCommitting) (fun _ => rfl), found]; rfl
  case frame => rw [genCommitted_mem]; exact cellGet_foldl_put_ne g.bytes s.mem unlisted
  case byte => rw [genCommitted_mem, one]; exact cellGet_put_same b wf
  case gone => rw [findGen_genDropped, if_pos rfl]
  case others => rw [findGen_genDropped, if_neg other]
  case stopped =>
    refine (findLaunch_stopLaunch_noTask (findLaunch_single single) there noTask true).trans ?_
    rw [asStopped, Bool.or_true]
  case counted =>
    have same := stopLaunch_noTask_cmd (findLaunch_single single) there noTask true
    exact started_ends h (congrArg CmdState.descs same) _
  case discarded => exact (endDesc_started h _ _).symm

end Sys2Proof.Proofs
end

section
/-!
Matrix operations (chapter 06, R147 to R157, R164): the slots of an engine, records, operand chunks, blocks, the drain, the
end of a MATRIX task, and errors.
-/
namespace Sys2Proof.Proofs
open Sys2Proof.Machine Sys2Proof.Laws

/-! ## A slot of an engine, and its counters -/

/-- The engines are all that `engAt` reads. -/
theorem engAt_congr {s t : State} (h : t.mxe = s.mxe) (c : Nat) : engAt t c = engAt s c := by
  rw [engAt, h, engAt]

/-- The engines are all that `matSlot` reads. -/
theorem matSlot_congr {s t : State} (h : t.mxe = s.mxe) (c : Nat) (staged : Bool) :
    matSlot t c staged = matSlot s c staged := by
  rw [matSlot, engAt_congr h, matSlot]

section Slot
variable (c : Nat) (staged : Bool) (f : MatTask → MatTask) (cy : Cycles) (s : State)

@[simp] theorem matSlot_modSlot : matSlot (modSlot c staged f s) c staged = (matSlot s c staged).map f := by
  cases staged <;> simp [matSlot, modSlot]

@[simp] theorem modSlot_validWf : (engAt (modSlot c staged f s) c).validWf = (engAt s c).validWf := by
  cases staged <;> simp [modSlot]

@[simp] theorem modSlot_stall : (engAt (modSlot c staged f s) c).stall = (engAt s c).stall := by
  cases staged <;> simp [modSlot]

@[simp] theorem modSlot_mem : (modSlot c staged f s).mem = s.mem := rfl

theorem modSlot_only : Only (partMask [.mxe]) s (modSlot c staged f s) :=
  (modSlot_keeps (keeps_refl _ s) (sub_refl _) c staged f).only

@[simp] theorem matSlot_countCycles : matSlot (countCycles c cy s) c staged = matSlot s c staged := by
  simp [matSlot, countCycles]

@[simp] theorem countCycles_validWf :
    (engAt (countCycles c cy s) c).validWf = ((engAt s c).validWf + cy.valid) % 2 ^ 64 := by
  simp [countCycles]

@[simp] theorem countCycles_stall :
    (engAt (countCycles c cy s) c).stall = ((engAt s c).stall + cy.stall) % 2 ^ 64 := by
  simp [countCycles]

@[simp] theorem countCycles_mem : (countCycles c cy s).mem = s.mem := rfl

/-- Wavefronts that issue change at most the phase and the ramp asked for (R170). -/
theorem engAt_issue : engAt (issue c s) c =
    { engAt s c with phase := (engAt (issue c s) c).phase, want := (engAt (issue c s) c).want } := by
  rw [issue, engAt_modEng]
  split <;> rfl

@[simp] theorem matSlot_issue : matSlot (issue c s) c staged = matSlot s c staged := by
  rw [matSlot, engAt_issue, matSlot]

@[simp] theorem issue_validWf : (engAt (issue c s) c).validWf = (engAt s c).validWf := by
  rw [engAt_issue]

@[simp] theorem issue_mem : (issue c s).mem = s.mem := rfl

end Slot

@[simp] theorem touchReads_mxe (rs : List (Nat × Nat × Nat)) (s : State) : (touchReads rs s).mxe = s.mxe :=
  (touchReads_keeps (keeps_refl _ s) (sub_refl _) rs).only.mxe rfl

@[simp] theorem touchReads_mem (rs : List (Nat × Nat × Nat)) (s : State) : (touchReads rs s).mem = s.mem :=
  (touchReads_keeps (keeps_refl _ s) (sub_refl _) rs).only.mem rfl

@[simp] theorem tookDraws_mem (x : Launch) (n : Nat) (s : State) : (tookDraws x n s).mem = s.mem :=
  (tookDraws_keeps (keeps_refl _ s) (sub_refl _) x n).only.mem rfl

@[simp] theorem tookDraws_mxe (x : Launch) (n : Nat) (s : State) : (tookDraws x n s).mxe = s.mxe :=
  (tookDraws_keeps (keeps_refl _ s) (sub_refl _) x n).only.mxe rfl

/-! ## Records (R147, R150, R151) -/

/-- A record without extent, or of formats that do not go together, fails (R150). -/
theorem recordOk_fails (s : State) (x : Launch) (imm : Nat) {o : MatOp}
    (h : o.m = 0 ∨ o.n = 0 ∨ o.k = 0 ∨ o.batch = 0 ∨ pairLegal o.fmtA o.fmtB = false) : recordOk s x imm o = false := by
  rcases h with noRow | noCol | noDepth | noItem | unpaired
  · simp [recordOk, noRow]
  · simp [recordOk, noCol]
  · simp [recordOk, noDepth]
  · simp [recordOk, noItem]
  · simp [recordOk, unpaired]

/-- A task whose program has ended. -/
def programEnded (k : MatTask) : MatTask := { k with atEnd := true, op := none, pc := k.pc + 1, subs := [] }

section Record
variable {s : State} {c : Nat} {staged : Bool} {x : Launch} {g : Graph} {r : TaskRec} {k : MatTask} {o : MatOp}
  (held : matSlot s c staged = some k) (up : engUp s c = true) (launched : findLaunch s k.launch = some x)
  (graph : launchGraph s x = some g) (task : taskRec s x k.task = some r) (goesOn : k.atEnd = false)
  (computed : opComputed (engAt s c).mask k = true) (record : matRec g r k.pc = some o)
include held up launched graph task goesOn computed record

/-- What MATRIX_OP_START makes of the record at the program counter. -/
theorem matrixOpStart_record : exec (.matrixOpStart c staged) s = .next (
    if o.op = 0x0F then modSlot c staged programEnded s
    else if recordOk s x r.imm o then
      if o.waitDrain && !k.drains.isEmpty then s else modSlot c staged (startOp (engAt s c).mask o) s
    else execFault k.launch k.task s) := by
  refine congrArg Host.Outcome.next ?_
  simp only [held, up, launched, graph, task, goesOn, computed, record, Bool.not_true, Bool.or_false, Bool.false_eq_true,
    if_false]
  rfl

theorem matrixOpStart_ends (isEnd : o.op = 0x0F) :
    exec (.matrixOpStart c staged) s = .next (modSlot c staged programEnded s) := by
  rw [matrixOpStart_record held up launched graph task goesOn computed record, if_pos isEnd]

section Operation
variable (notEnd : o.op ≠ 0x0F)
include notEnd

theorem matrixOpStart_begins (ok : recordOk s x r.imm o = true) (free : o.waitDrain = false ∨ k.drains = []) :
    exec (.matrixOpStart c staged) s = .next (modSlot c staged (startOp (engAt s c).mask o) s) := by
  have goes : ¬(o.waitDrain && !k.drains.isEmpty) = true := by rcases free with h | h <;> simp [h]
  rw [matrixOpStart_record held up launched graph task goesOn computed record, if_neg notEnd, if_pos ok, if_neg goes]

theorem matrixOpStart_waits (ok : recordOk s x r.imm o = true) (waits : o.waitDrain = true) (drains : k.drains ≠ []) :
    exec (.matrixOpStart c staged) s = .next s := by
  have stays : (o.waitDrain && !k.drains.isEmpty) = true := by simp [waits, drains]
  rw [matrixOpStart_record held up launched graph task goesOn computed record, if_neg notEnd, if_pos ok, if_pos stays]

theorem matrixOpStart_faults (bad : recordOk s x r.imm o = false) :
    exec (.matrixOpStart c staged) s = .next (execFault k.launch k.task s) := by
  rw [matrixOpStart_record held up launched graph task goesOn computed record, if_neg notEnd,
    if_neg (Bool.eq_false_iff.mp bad)]

end Operation
end Record

/-! ## Operand chunks (R152 to R154) -/

/-- The block a sub-array computes is that of a task in the slot. -/
theorem subRun_held {s : State} {c : Nat} {staged : Bool} {i : Nat} {k : MatTask} {x : Launch} {imm : Nat} {o : MatOp}
    {a : SubArray} {b : BlockRun} (runs : subRun s c staged i = some (k, x, imm, o, a, b)) :
    matSlot s c staged = some k := by
  unfold subRun at runs
  split at runs
  · split at runs
    · split at runs
      · cases runs
        assumption
      · cases runs
    · cases runs
  · cases runs

/-- A sub-array of a task changes, and the task raises flags. -/
def subChanged (i : Nat) (a : SubArray) (flags : Nat) (k : MatTask) : MatTask :=
  { k with subs := tput k.subs i a, flags := flagsOr k.flags flags }

section Chunk
variable {s : State} {c : Nat} {staged : Bool} {i : Nat} {k : MatTask} {x : Launch} {imm : Nat} {o : MatOp}
  {a : SubArray} {b : BlockRun} (runs : subRun s c staged i = some (k, x, imm, o, a, b))
include runs

/-- A chunk that finds room joins its block's chunks, and the loaded count moves on behind it. -/
theorem chunkLoadComplete_loads (cy : Cycles) (up : engUp s c = true) (more : b.loaded < o.k) (room : b.chunks.length < 2)
    (first : staged = true → b.chunks = []) (clean : readsPoisoned s (nextChunk s x imm o a b).reads = false) :
    ∃ a' b', a'.run = some b' ∧ b'.chunks.length = b.chunks.length + 1 ∧
      b'.loaded = (nextChunk s x imm o a b).k0 + (nextChunk s x imm o a b).nk ∧
      exec (.chunkLoadComplete c staged i cy) s = .next (countCycles c cy
        (touchReads (nextChunk s x imm o a b).reads (modSlot c staged (subChanged i a' 0) s))) := by
  have notAll : decide (o.k ≤ b.loaded) = false := decide_eq_false (Nat.not_le.mpr more)
  have notFull : decide (2 ≤ b.chunks.length) = false := decide_eq_false (Nat.not_le.mpr room)
  have notBehind : (staged && !b.chunks.isEmpty) = false := by
    cases staged
    · rfl
    · simp [first rfl]
  have act : exec (.chunkLoadComplete c staged i cy) s = execChunkLoadComplete c staged i cy s := rfl
  simp only [execChunkLoadComplete, runs, up, clean, notAll, notFull, notBehind, Bool.not_true, Bool.or_self,
    Bool.false_and, Bool.false_eq_true, if_false] at act
  refine ⟨_, _, rfl, ?_, rfl, act⟩
  by_cases start : b.loaded = 0 <;> simp [start]

/-- The load has nothing left to fetch, or meets poison. -/
theorem chunkLoadComplete_idle (cy : Cycles)
    (h : o.k ≤ b.loaded ∨ readsPoisoned s (nextChunk s x imm o a b).reads = true) :
    exec (.chunkLoadComplete c staged i cy) s = .next s := by
  refine congrArg Host.Outcome.next ?_
  simp only [runs]
  refine if_pos ?_
  rcases h with all | poisoned
  · simp [all]
  · simp [poisoned]

theorem matrixPoisonedLoad_fails (up : engUp s c = true)
    (poisoned : readsPoisoned s (nextChunk s x imm o a b).reads = true) :
    exec (.matrixPoisonedLoad c staged i) s = .next (failTask k.launch k.task true s) := by
  refine congrArg Host.Outcome.next ?_
  simp only [runs, up, poisoned, Bool.and_self, if_true]

end Chunk

/-! ## Blocks (R155, R156) -/

/-- Blocks handed out leave the banks that wait. -/
@[simp] theorem assignBlocks_drains (mask : Nat) (o : MatOp) (is : List Nat) (k : MatTask) :
    (assignBlocks mask o is k).drains = k.drains := by
  induction is generalizing k with
  | nil => rfl
  | cons i is ih =>
    unfold assignBlocks
    split
    · split
      · exact ih _
      · exact ih _
    · exact ih _

/-- The bank of a complete block, every chunk of it computed. -/
def bankOf (i : Nat) (k : MatTask) (o : MatOp) (b : BlockRun) : Drain :=
  { sub := i, block := (computeAll o b.chunks.length b 0).1, op := o, idx := k.pc - 1 }

/-- A bank joins those that wait, and its sub-array takes the next block. -/
def bankQueued (mask i : Nat) (o : MatOp) (a : SubArray) (d : Drain) (flags : Nat) (k : MatTask) : MatTask :=
  assignBlocks mask o [i]
    { k with subs := tput k.subs i { a with run := none }, drains := k.drains ++ [d], flags := flagsOr k.flags flags }

theorem bankQueued_drains (mask i : Nat) (o : MatOp) (a : SubArray) (d : Drain) (flags : Nat) (k : MatTask) :
    (bankQueued mask i o a d flags k).drains = k.drains ++ [d] :=
  assignBlocks_drains mask o [i] _

/-- The block of a sub-array of the running task is complete, and its bank waits for the drain. -/
def bankCompleted (c i : Nat) (cy : Cycles) (k : MatTask) (o : MatOp) (a : SubArray) (b : BlockRun) (s : State) : State :=
  countCycles c cy (issue c
    (modSlot c false (bankQueued (engAt s c).mask i o a (bankOf i k o b) (computeAll o b.chunks.length b 0).2) s))

theorem matSlot_bankCompleted {s : State} {c : Nat} {k : MatTask} (held : matSlot s c false = some k) (i : Nat) (cy : Cycles)
    (o : MatOp) (a : SubArray) (b : BlockRun) : matSlot (bankCompleted c i cy k o a b s) c false =
      some (bankQueued (engAt s c).mask i o a (bankOf i k o b) (computeAll o b.chunks.length b 0).2 k) := by
  rw [bankCompleted, matSlot_countCycles, matSlot_issue, matSlot_modSlot, held, Option.map_some]

theorem bankCompleted_validWf (c i : Nat) (cy : Cycles) (k : MatTask) (o : MatOp) (a : SubArray) (b : BlockRun) (s : State) :
    (engAt (bankCompleted c i cy k o a b s) c).validWf = ((engAt s c).validWf + cy.valid) % 2 ^ 64 := by
  rw [bankCompleted, countCycles_validWf, issue_validWf, modSlot_validWf]

section Block
variable {s : State} {c i : Nat} {k : MatTask} {x : Launch} {imm : Nat} {o : MatOp} {a : SubArray} {b : BlockRun}
  (runs : subRun s c false i = some (k, x, imm, o, a, b))
include runs

theorem blockBankComplete_queues (cy : Cycles) (may : mayIssue s c = true) (all : o.k ≤ b.loaded)
    (free : bankHeld k o i b = false) : exec (.blockBankComplete c i cy) s = .next (bankCompleted c i cy k o a b s) := by
  have notMore : decide (b.loaded < o.k) = false := decide_eq_false (Nat.not_lt.mpr all)
  refine congrArg Host.Outcome.next ?_
  simp only [runs, may, notMore, free, Bool.not_true, Bool.or_self, Bool.false_eq_true, if_false]
  rfl

theorem blockBankComplete_early (cy : Cycles) (more : b.loaded < o.k) :
    exec (.blockBankComplete c i cy) s = .next s := by
  refine congrArg Host.Outcome.next ?_
  simp only [runs]
  exact if_pos (by simp [more])

end Block

/-! ## The drain (R156, R185) -/

/-- The writes of a drain, in order. -/
def writesStored (l t : Nat) (ws : List DrainWrite) (s : State) : State :=
  ws.foldl (fun s e => storeMem (.task l t) e.1 e.2.1 e.2.2 s) s

/-- Writes leave every committed byte outside their ranges as it was. -/
theorem writesStored_outside (l t : Nat) (ws : List DrainWrite) (s : State) {j : Nat}
    (h : ∀ e ∈ ws, j < memKey e.1 e.2.1 ∨ memKey e.1 e.2.1 + e.2.2.length ≤ j) :
    cellGet (writesStored l t ws s).mem j = cellGet s.mem j := by
  induction ws generalizing s with
  | nil => rfl
  | cons e ws ih =>
    obtain ⟨here, rest⟩ := List.forall_mem_cons.mp h
    exact (ih _ rest).trans (storeMem_outside _ _ _ _ _ here)

/-- The draws that the drain of a block takes: one for each element it rounds. -/
def drainDraws (d : Drain) : Nat := if d.op.round ∧ d.op.fmtOut ≠ 10 then d.block.rows * d.block.cols else 0

/-- A task whose oldest bank has drained. -/
def bankFreed (rest : List Drain) (flags : Nat) (k : MatTask) : MatTask :=
  { k with drains := rest, flags := flagsOr k.flags flags }

/-- The oldest bank has drained: `w` is what it writes, with its flags. -/
def bankDrained (c : Nat) (cy : Cycles) (x : Launch) (k : MatTask) (d : Drain) (rest : List Drain)
    (w : List DrainWrite × Nat) (s : State) : State :=
  countCycles c cy (modSlot c false (bankFreed rest w.2)
    (writesStored k.launch k.task w.1 (tookDraws x (drainDraws d) s)))

/-- A drain leaves every committed byte outside its writes as it was. -/
theorem bankDrained_outside (c : Nat) (cy : Cycles) (x : Launch) (k : MatTask) (d : Drain) (rest : List Drain)
    (w : List DrainWrite × Nat) (s : State) {j : Nat}
    (h : ∀ e ∈ w.1, j < memKey e.1 e.2.1 ∨ memKey e.1 e.2.1 + e.2.2.length ≤ j) :
    cellGet (bankDrained c cy x k d rest w s).mem j = cellGet s.mem j := by
  rw [bankDrained, countCycles_mem, modSlot_mem, writesStored_outside _ _ _ _ h, tookDraws_mem]

section NoWrite
variable (c : Nat) (cy : Cycles) (x : Launch) (k : MatTask) (d : Drain) (rest : List Drain) {w : List DrainWrite × Nat}
  (s : State) (noWrite : w.1 = [])
include noWrite

theorem bankDrained_noWrite_mem : (bankDrained c cy x k d rest w s).mem = s.mem := by
  simp [bankDrained, writesStored, noWrite]

theorem bankDrained_noWrite_slot :
    matSlot (bankDrained c cy x k d rest w s) c false = (matSlot s c false).map (bankFreed rest w.2) := by
  simp [bankDrained, writesStored, noWrite, matSlot_congr (tookDraws_mxe x (drainDraws d) s)]

end NoWrite

section Drains
variable {s : State} {c : Nat} {x : Launch} {r : TaskRec} {k : MatTask} {d : Drain} {rest : List Drain}
  (held : matSlot s c false = some k) (up : engUp s c = true) (launched : findLaunch s k.launch = some x)
  (task : taskRec s x k.task = some r) (oldest : k.drains = d :: rest) (powered : s.mod.failStopped = false) (cy : Cycles)
include held up launched task oldest powered

theorem bankFree_faults
    (faults : (drainWrites s x k.task r.imm d).1.any (fun e => writeFaults s k.launch k.task e.1 e.2.1 e.2.2.length) = true) :
    exec (.bankFree c cy) s = .next (execFault k.launch k.task s) := by
  refine congrArg Host.Outcome.next ?_
  simp only [held, up, launched, task, oldest, powered, faults, Bool.not_true, Bool.or_self, Bool.false_eq_true, if_false,
    if_true]

theorem bankFree_drains
    (may : (drainWrites s x k.task r.imm d).1.any (fun e => writeFaults s k.launch k.task e.1 e.2.1 e.2.2.length) = false)
    (reached : (drainWrites s x k.task r.imm d).1.any (fun e => lostIn s e.1 e.2.1 e.2.2.length) = false) :
    exec (.bankFree c cy) s = .next (bankDrained c cy x k d rest (drainWrites s x k.task r.imm d) s) := by
  refine congrArg Host.Outcome.next ?_
  simp only [held, up, launched, task, oldest, powered, may, reached, Bool.not_true, Bool.or_self, Bool.false_eq_true,
    if_false]
  rfl

/-- A drain that writes nothing neither faults nor fails. -/
theorem bankFree_noWrite (noWrite : (drainWrites s x k.task r.imm d).1 = []) :
    exec (.bankFree c cy) s = .next (bankDrained c cy x k d rest (drainWrites s x k.task r.imm d) s) :=
  bankFree_drains held up launched task oldest powered cy (by rw [noWrite]; rfl) (by rw [noWrite]; rfl)

end Drains

/-! ## The end of a MATRIX task (R151) -/

section TaskEnd
variable {s : State} {c : Nat} {k : MatTask} (held : matSlot s c false = some k) (overrun : Bool)
include held

theorem matrixTaskEnd_ends (up : engUp s c = true) (ended : k.atEnd = true) (drained : k.drains = []) :
    exec (.matrixTaskEnd c overrun) s = .next (taskEnds k.launch k.task overrun s) := by
  refine congrArg Host.Outcome.next ?_
  simp only [held, up, ended, drained, List.isEmpty_nil, Bool.and_self, if_true]

theorem matrixTaskEnd_early (h : k.atEnd = false ∨ k.drains ≠ []) : exec (.matrixTaskEnd c overrun) s = .next s := by
  refine congrArg Host.Outcome.next ?_
  simp only [held]
  refine if_neg ?_
  rcases h with goesOn | waits
  · simp [goesOn]
  · simp [waits]

end TaskEnd

/-! ## Errors (R164, Table 06-13) -/

section Error
variable {s : State} {c : Nat} (low : c < 64) (inService : cluOut s c = false)
include low inService

/-- Errors count only on a cluster that there is and that is in service. -/
theorem errorCounts : (decide (c < 64) && !cluOut s c) = true := by simp [low, inService]

theorem matrixUncorrectableError_resets : exec (.matrixUncorrectableError c) s =
    .next (unitFault c 0x03 false 0 (modEng c (fun e => { e with uncorrected := satAdd 255 e.uncorrected 1 }) s)) := by
  have unit : unitOf 0 c = c := by simp [unitOf]
  refine congrArg Host.Outcome.next ((if_pos (errorCounts low inService)).trans ?_)
  rw [unit]
  rfl

theorem correctedError_matrix : exec (.correctedError (.matrix c)) s =
    .next (modEng c (fun e => { e with corrected := satAdd 65535 e.corrected 1 }) s) :=
  congrArg Host.Outcome.next (if_pos (errorCounts low inService))

theorem correctedError_vector : exec (.correctedError (.vector c)) s =
    .next (modVclu c (fun e => { e with corrected := satAdd 65535 e.corrected 1 }) s) :=
  congrArg Host.Outcome.next (if_pos (errorCounts low inService))

theorem correctedError_store : exec (.correctedError (.store c)) s =
    .next (modClu c (fun e => { e with corrected := satAdd 65535 e.corrected 1 }) s) :=
  congrArg Host.Outcome.next (if_pos (errorCounts low inService))

end Error

theorem modEng_only (c : Nat) (f : Engine → Engine) (s : State) : Only (partMask [.mxe]) s (modEng c f s) :=
  (modEng_keeps (keeps_refl _ s) (sub_refl _) c f).only

theorem modVclu_only (c : Nat) (f : VcuClu → VcuClu) (s : State) : Only (partMask [.vcu]) s (modVclu c f s) :=
  (modVclu_keeps (keeps_refl _ s) (sub_refl _) c f).only

theorem modClu_only (c : Nat) (f : CluStore → CluStore) (s : State) : Only (partMask [.hbm]) s (modClu c f s) :=
  (modClu_keeps (keeps_refl _ s) (sub_refl _) c f).only

/-- Settles O19: a record by `matrixOpStart_record`, a chunk by `chunkLoadComplete_loads`, a block by `bankQueued`, a drain by
`bankDrained`, errors by their counters (log 57: END is checked for OP only, extents have no upper bound, and a staged task
loads one chunk and computes none). -/
theorem matrixOperations : Obligations.MatrixOperations := by
  refine ⟨?begins, ?waits, ?ends, ?faults, fun s x imm o h => recordOk_fails s x imm h, ?loads,
    fun s c staged i cy k x imm o a b runs h => chunkLoadComplete_idle runs cy h,
    fun s c staged i k x imm o a b runs up poisoned => matrixPoisonedLoad_fails runs up poisoned, ?queues,
    fun s c i cy k x imm o a b runs more => blockBankComplete_early runs cy more, ?drains, ?drainFaults, ?drainFrame,
    fun s c overrun k held up ended drained => matrixTaskEnd_ends held overrun up ended drained,
    fun s c overrun k held h => matrixTaskEnd_early held overrun h,
    fun s c low inService => matrixUncorrectableError_resets low inService,
    fun s c low inService => ⟨_, correctedError_matrix low inService, engAt_modEng c _ s, modEng_only c _ s⟩,
    fun s c low inService => ⟨_, correctedError_vector low inService, vcluAt_modVclu c _ s, modVclu_only c _ s⟩,
    fun s c low inService => ⟨_, correctedError_store low inService,
      congrArg CluStore.corrected (cluAt_modClu c _ s), modClu_only c _ s⟩⟩
  case begins =>
    rintro s c staged x g r k o ⟨held, up, launched, graph, task⟩ goesOn computed record notEnd ok free
    refine ⟨_, matrixOpStart_begins held up launched graph task goesOn computed record notEnd ok free, ?_,
      modSlot_only c staged _ s⟩
    rw [matSlot_modSlot, held, Option.map_some]
  case waits =>
    rintro s c staged x g r k o ⟨held, up, launched, graph, task⟩ goesOn computed record notEnd ok waits drains
    exact matrixOpStart_waits held up launched graph task goesOn computed record notEnd ok waits drains
  case ends =>
    rintro s c staged x g r k o ⟨held, up, launched, graph, task⟩ goesOn computed record isEnd
    refine ⟨_, matrixOpStart_ends held up launched graph task goesOn computed record isEnd, (matSlot_modSlot c staged _ s).trans ?_⟩
    rw [held, Option.map_some, programEnded]
  case faults =>
    rintro s c staged x g r k o ⟨held, up, launched, graph, task⟩ goesOn computed record notEnd bad
    exact matrixOpStart_faults held up launched graph task goesOn computed record notEnd bad
  case loads =>
    intro s c staged i cy k x imm o a b runs up more room first clean
    obtain ⟨a', b', block, chunks, loaded, acts⟩ := chunkLoadComplete_loads runs cy up more room first clean
    refine ⟨_, acts, subChanged i a' 0 k, a', ?_, tget_tput_same _ _ _, b', block, chunks, loaded, ?_, ?_⟩
    · rw [matSlot_countCycles, matSlot_congr (touchReads_mxe _ _), matSlot_modSlot, subRun_held runs, Option.map_some]
    · rw [countCycles_stall, engAt_congr (touchReads_mxe _ _), modSlot_stall]
    · rw [countCycles_mem, touchReads_mem, modSlot_mem]
  case queues =>
    intro s c i cy k x imm o a b runs may all free
    exact ⟨_, blockBankComplete_queues runs cy may all free, _, matSlot_bankCompleted (subRun_held runs) i cy o a b,
      bankQueued_drains _ i o a (bankOf i k o b) _ k, bankCompleted_validWf c i cy k o a b s, rfl⟩
  case drains =>
    rintro s c cy x g r k d rest ⟨held, up, launched, -, task⟩ oldest powered - noWrite
    refine ⟨_, bankFree_noWrite held up launched task oldest powered cy noWrite, bankFreed rest _ k, ?_, rfl, rfl,
      bankDrained_noWrite_mem c cy x k d rest s noWrite⟩
    rw [bankDrained_noWrite_slot c cy x k d rest s noWrite, held, Option.map_some]
  case drainFaults =>
    rintro s c cy x g r k d rest ⟨held, up, launched, -, task⟩ oldest powered faults
    exact bankFree_faults held up launched task oldest powered cy faults
  case drainFrame =>
    rintro s c cy x g r k d rest ⟨held, up, launched, -, task⟩ oldest powered may reached
    exact ⟨_, bankFree_drains held up launched task oldest powered cy may reached,
      fun j outside => bankDrained_outside c cy x k d rest _ s outside⟩

end Sys2Proof.Proofs
end

section
/-!
The number formats on the worked examples of chapters 07 and 13: conversion to a format (R186, R187), exact block sums
(R180 to R183), MX blocks (R188) and fixed-window sums (R355, R356).
-/
namespace Sys2Proof.Proofs
open Sys2Proof.Machine Sys2Proof.Laws

/-! ## Conversion of a finite value (R186, R187) -/

/-- A magnitude that rounds to a finite code becomes that code with the value's sign, without a flag. -/
theorem fEncode_of_le {f : FFmt} {draw : Option Nat} {m c : Nat} {e : Int} (o : OvfMode) (neg : Bool)
    (code : roundMag f m e draw = c) (fits : c ≤ fMaxCode f) :
    fEncode f o draw (.fin neg m e) = (c + signBit f neg, 0) := by
  simp only [fEncode, code, if_neg (Nat.not_lt.mpr fits)]

/-- A magnitude that rounds beyond the largest finite code saturates in a quiet conversion, without a flag. -/
theorem fEncode_quiet_of_gt {f : FFmt} {draw : Option Nat} {m c : Nat} {e : Int} (neg : Bool)
    (code : roundMag f m e draw = c) (exceeds : fMaxCode f < c) :
    fEncode f .quiet draw (.fin neg m e) = (fMaxCode f + signBit f neg, 0) := by
  simp [fEncode, code, exceeds, ovfCode, flagIf]

/-- A magnitude other than 0 under a draw: its units of the spacing 2^u, rounded stochastically. -/
theorem roundMag_drawn {f : FFmt} {m : Nat} {e u : Int} (r : Nat) (nonzero : m ≠ 0) (spacing : fSpacing f m e = u) :
    roundMag f m e (some r) = codeOfUnits f (stochUnits m (e - u) r) u := by
  simp only [roundMag, if_neg nonzero, spacing]

/-- The flags of a conversion lie in bits 0 to 2. -/
theorem fEncode_flags_lt (f : FFmt) (o : OvfMode) (draw : Option Nat) (v : FVal) : (fEncode f o draw v).2 < 8 := by
  cases v with
  | nan => exact Nat.zero_lt_succ 7
  | inf neg => simp only [fEncode]; split <;> exact Nat.zero_lt_succ 7
  | fin neg m e =>
    simp only [fEncode, flagIf]
    split
    · change ite _ _ _ < _
      split <;> decide
    · exact Nat.zero_lt_succ 7

/-- The flags of a rounding to FP32 fit the three bits in which flags are joined. -/
theorem toFp32_flags_mod (v : FVal) : (toFp32 v).2 % 8 = (toFp32 v).2 :=
  Nat.mod_eq_of_lt (fEncode_flags_lt fmtFp32 .toInf none v)

/-! ## Exact block sums (R180 to R183) -/

/-- The products of a block's cell, one for each K-step. -/
def blockProds (ca cb : Nat) (as bs : List Nat) : List CellProd :=
  List.zipWith cellProd (as.map (elemVal ca)) (bs.map (elemVal cb))

/-- Of unmarked products in formats with neither a scale nor a window, a block's result is the exact sum, rounded once. -/
theorem blockResult_exact {ca cb : Nat} {as bs : List Nat} (sa sb : Nat) {n : Int}
    (unscaledA : isMx ca = false) (unscaledB : isMx cb = false) (unwindowed : isWindow ca = false)
    (unmarked : ∀ p ∈ blockProds ca cb as bs, p.marks = 0)
    (sum : (sumProds (lsbExp ca + lsbExp cb) (blockProds ca cb as bs)).1 = n) (nonzero : n ≠ 0) :
    blockResult ca cb as bs sa sb = toFp32 (.fin (decide (n < 0)) n.natAbs (lsbExp ca + lsbExp cb)) := by
  have marks : (blockProds ca cb as bs).foldl (fun m p => Nat.lor m p.marks) 0 = 0 :=
    (List.foldl_ext _ (fun m _ => m) 0 fun m p hp => by rw [unmarked p hp]; exact Nat.or_zero m).trans (List.foldl_fixed _)
  have flags (f : Nat) : flagsOr f 0 = f % 8 := Nat.or_zero _
  rw [blockProds] at marks sum
  simp only [blockResult, unscaledA, unscaledB, unwindowed, marks, sum, Bool.false_and, Bool.or_false, Bool.false_eq_true,
    if_false, if_neg nonzero, add_zero, flagIf, flags, toFp32_flags_mod]
  rfl

/-- 448·448 and −448·448 cancel: in units of 2⁻¹⁸ the block holds 1 (chapter 07). -/
theorem blockResult_cancels : blockResult 0 0 [0x7E, 0xFE, 0x01] [0x7E, 0x7E, 0x01] 127 127 = (0x36800000, 0) := by
  have prods : blockProds 0 0 [0x7E, 0xFE, 0x01] [0x7E, 0x7E, 0x01] =
      [⟨0, 0, false, 14 * 14, 10⟩, ⟨0, 0, true, 14 * 14, 10⟩, ⟨0, 0, false, 1, -18⟩] := by decide
  have units : (sumProds (-18) [⟨0, 0, false, 14 * 14, 10⟩, ⟨0, 0, true, 14 * 14, 10⟩, ⟨0, 0, false, 1, -18⟩]).1 = 1 := by
    decide
  rw [blockResult_exact 127 127 rfl rfl rfl (by rw [prods]; decide) (by rw [prods]; exact units) Int.one_ne_zero]
  exact fEncode_of_le .toInf false (by decide : roundMag fmtFp32 1 (-18) none = 0x36800000) (by decide)

/-! ## BF16 under a draw and without one (R186, R187) -/

/-- 1 + 2⁻⁹ lies a quarter of a BF16 spacing above 1: draws below 0x4000 round it up, all others down (chapter 07). -/
theorem outElem_bf16_drawn (ovfInf : Bool) (r : Nat) :
    outElem 8 ovfInf (some r) 0x3F804000 = (if r < 0x4000 then 0x3F81 else 0x3F80, 0) := by
  have value : ofFp32 0x3F804000 = .fin false 0x804000 (-23) := by decide
  have spacing : fSpacing fmtBf16 0x804000 (-23) = -7 := by decide
  have units : stochUnits 0x804000 (-23 - -7) r = if r < 0x4000 then 129 else 128 := rfl
  have code : roundMag fmtBf16 0x804000 (-23) (some r) = if r < 0x4000 then 0x3F81 else 0x3F80 := by
    rw [roundMag_drawn r (by decide) spacing, units]
    split <;> rfl
  have fits : (if r < 0x4000 then 0x3F81 else 0x3F80) ≤ fMaxCode fmtBf16 := by split <;> decide
  rw [outElem, if_neg (by decide), value]
  exact fEncode_of_le (outMode 8 ovfInf) false code fits

/-- To nearest even, 1 + 2⁻⁹ becomes 1 in BF16 (chapter 07). -/
theorem outElem_bf16_nearest (ovfInf : Bool) : outElem 8 ovfInf none 0x3F804000 = (0x3F80, 0) := by
  have value : ofFp32 0x3F804000 = .fin false 0x804000 (-23) := by decide
  have code : roundMag fmtBf16 0x804000 (-23) none = 0x3F80 := by decide
  rw [outElem, if_neg (by decide), value]
  exact fEncode_of_le (outMode 8 ovfInf) false code (by decide)

/-! ## MX blocks (R188) -/

/-- A block of finite values with an anchor: the scale puts the anchor at the format's largest exponent. -/
theorem mxBlock_finite (c : Nat) (draws : List (Option Nat)) {vs : List FVal} {l s : Int}
    (finite : ∀ v ∈ vs, ∃ n m e, v = .fin n m e) (anchor : rowAnchor vs = some l)
    (scale : max (-127) (min 127 (l - mxEmax c)) = s) :
    mxBlock c draws vs = ((s + 127).toNat, List.zipWith (fun d v => mxElem c d (fScale v (-s))) draws vs) := by
  rw [mxBlock, if_neg, anchor]
  · simp only [scale]
  · rw [List.any_eq_true]
    rintro ⟨v, mem, special⟩
    obtain ⟨n, m, e, rfl⟩ := finite v mem
    exact Bool.false_ne_true special

/-- The block of 1,000, −3 and 0.01: under the scale 2¹, 500 saturates to 448, −1.5 is exact and 0.005 rounds to 3 subnormal
units of 2⁻⁹ (chapter 07). -/
theorem mxBlock_e4m3 :
    mxBlock 2 [none, none, none] ([0x447A0000, 0xC0400000, 0x3C23D70A].map ofFp32) = (0x80, [0x7E, 0xBC, 0x03]) := by
  have values : [0x447A0000, 0xC0400000, 0x3C23D70A].map ofFp32 =
      [.fin false 0xFA0000 (-14), .fin true 0xC00000 (-22), .fin false 0xA3D70A (-30)] := by decide
  have large : fEncode fmtE4m3 .quiet none (.fin false 0xFA0000 (-15)) = (0x7E, 0) :=
    fEncode_quiet_of_gt false (by decide : roundMag fmtE4m3 0xFA0000 (-15) none = 0x80) (by decide)
  have middle : fEncode fmtE4m3 .quiet none (.fin true 0xC00000 (-23)) = (0xBC, 0) :=
    fEncode_of_le .quiet true (by decide : roundMag fmtE4m3 0xC00000 (-23) none = 0x3C) (by decide)
  have small : fEncode fmtE4m3 .quiet none (.fin false 0xA3D70A (-31)) = (0x03, 0) :=
    fEncode_of_le .quiet false (by decide : roundMag fmtE4m3 0xA3D70A (-31) none = 0x03) (by decide)
  rw [values, mxBlock_finite 2 _ (by simp) (l := 9) (s := 1) (by decide) (by decide)]
  simp [mxElem, fScale, fmtOfCode, large, middle, small]

/-! ## Fixed-window sums (R355, R356) -/

/-- A window adds the grid integers of its contributions and joins their markers. -/
theorem foldl_accAddElem_win (red : Nat) {e eIn : Int} {xs : List Elem} {ps : List (Int × Nat)}
    (grid : xs.map (quantise e eIn) = ps) (q : Int) (marks : Nat) :
    xs.foldl (fun a x => (accAddElem red e eIn a x).1) (.win q marks) =
      .win (q + (ps.map Prod.fst).sum) ((ps.map Prod.snd).foldl Nat.lor marks) := by
  subst grid
  induction xs generalizing q marks with
  | nil => simp
  | cons x xs ih =>
    rw [List.foldl_cons, accAddElem, ih]
    simp [add_assoc]

/-- Of unmarked contributions a window outputs the exact sum of their grid integers, in units of 2^(E − 99). -/
theorem accOut_window {out red : Nat} {e eIn n : Int} {xs : List Elem} {ps : List (Int × Nat)} (float : out ≠ 3)
    (grid : xs.map (quantise e eIn) = ps) (sum : (ps.map Prod.fst).sum = n) (unmarked : (ps.map Prod.snd).foldl Nat.lor 0 = 0) :
    accOut out e (xs.foldl (fun a x => (accAddElem red e eIn a x).1) (.win 0 0)) =
      fpOut out (.fin (decide (n < 0)) n.natAbs (e - 99)) := by
  rw [foldl_accAddElem_win red grid, sum, unmarked, zero_add]
  simp [accOut, float, bitOf, bitAt]

/-- An output in FP32 is the four bytes of the code. -/
theorem fpOut_fp32 {v : FVal} {c : Nat} (code : toFp32 v = (c, 0)) : fpOut 0 v = (leBytes 4 c, 0) := by
  rw [toFp32] at code
  simp [fpOut, code, tySize, bitAt]

/-- On the grid of 2⁻⁷⁵, the contributions 2²⁴ and −2²⁴ cancel and 1 is left (chapter 13). -/
theorem accOut_window_cancels :
    accOut 0 24 (([0x4B800000, 0x3F800000, 0xCB800000].map fun b => Elem.fp (ofFp32 b) b).foldl
      (fun a x => (accAddElem 0 24 24 a x).1) (.win 0 0)) = (leBytes 4 0x3F800000, 0) := by
  have grid : ([0x4B800000, 0x3F800000, 0xCB800000].map fun b => Elem.fp (ofFp32 b) b).map (quantise 24 24) =
      [(2 ^ 99, 0), (2 ^ 75, 0), (-2 ^ 99, 0)] := by decide
  have one : toFp32 (.fin false (2 ^ 75) (24 - 99)) = (0x3F800000, 0) :=
    fEncode_of_le .toInf false (by decide : roundMag fmtFp32 (2 ^ 75) (24 - 99) none = 0x3F800000) (by decide)
  exact (accOut_window (by decide) grid (by decide : _ = (2 ^ 75 : Int)) rfl).trans (fpOut_fp32 one)

/-- Settles O56: the products cancel exactly by `blockResult_cancels`, BF16 rounds by `outElem_bf16_drawn`, the MX block
saturates by `mxBlock_e4m3`, and the window keeps the 1 by `accOut_window_cancels`. -/
theorem formatExamples : Obligations.FormatExamples :=
  ⟨blockResult_cancels, outElem_bf16_drawn false 0x2A10, outElem_bf16_drawn false 0x9C40, outElem_bf16_nearest false,
    mxBlock_e4m3, accOut_window_cancels⟩

end Sys2Proof.Proofs
end

section
/-!
The memory opcodes (chapter 09, Table 09-7): rights and rules changes (R240, R242), the rules fence (R241), scratch and cache
(R229, R231), queries (R237, R253), and the end of a page's zeroing (R279).
-/
namespace Sys2Proof.Proofs
open Sys2Proof.Machine Sys2Proof.Laws

/-! ## Checks -/

theorem chk_pass {ok : Bool} (h : ok = true) (status off : Nat) : chk ok status off = none := if_pos h

theorem chk_fail {ok : Bool} (h : ok = false) (status off : Nat) : chk ok status off = some (refuse status off) :=
  if_neg (by simp [h])

theorem objPage_named {s : State} {h : Nat} {m : MemObj} (there : tget s.mems (hSlot h) = some m) :
    objPage s h = pageBytes m.page := by
  simp [objPage, there]

theorem needRange_within {s : State} {h from_ len : Nat} {m : MemObj} (there : tget s.mems (hSlot h) = some m)
    (within : from_ + len ≤ m.size) (off : Nat) : needRange s h from_ len off = none :=
  chk_pass (by simp [objSize, there, within]) _ _

theorem pageBytes_pos (page : Nat) : 0 < pageBytes page := by
  unfold pageBytes
  split_ifs <;> decide

/-! ## Rules changes (R240, R242) -/

/-- The change a MEM_PROTECT asks for. -/
def askedRule (qp sub : Nat) (d : Desc) (m : MemObj) : RuleChange :=
  .protect qp sub (hSlot (dfld d 24 4)) (dfld d 32 8 / pageBytes m.page) (dfld d 40 8 / pageBytes m.page)
    (decide (1 ≤ dfld d 48 1))

/-- A descriptor's rules change waits for its change point. -/
def ruleWaits (qp sub : Nat) (r : RuleChange) (s : State) : State :=
  runDesc qp sub 0 (modHbm (fun h => { h with rules := (h.rules.filter fun x => !ruleOf qp sub x) ++ [r] }) s)

section Opcode
variable {s : State} {qp sub : Nat} {d : Desc} {m : MemObj} (named : needH s d Hk.mem 24 = none)
  (there : tget s.mems (hSlot (dfld d 24 4)) = some m)
include named there

theorem memProtect_waits (h : Started s qp sub 0xB0 d) (aligned : dfld d 32 8 % pageBytes m.page = 0)
    (whole : dfld d 40 8 % pageBytes m.page = 0) (pos : 0 < dfld d 40 8) (within : dfld d 32 8 + dfld d 40 8 ≤ m.size) :
    exec (.memProtect qp sub) s = .next (ruleWaits qp sub (askedRule qp sub d m) s) := by
  have flag : decide (clampTo 0 1 (dfld d 48 1) = 1) = decide (1 ≤ dfld d 48 1) := by
    rw [clampTo_zero]
    exact decide_eq_decide.mpr (by omega)
  refine congrArg Host.Outcome.next ((onStarted_started h).trans ?_)
  dsimp only
  rw [objPage_named there, flag, named, chk_pass (by simpa using aligned), needRange_within there within,
    chk_pass (by simp [whole, pos])]
  exact guarded_pass rfl _ _ _

theorem memProtect_unaligned (h : Started s qp sub 0xB0 d) (unaligned : dfld d 32 8 % pageBytes m.page ≠ 0) :
    exec (.memProtect qp sub) s = .next (endD d (refuse 0x10 32) s) := by
  refine congrArg Host.Outcome.next ((onStarted_started h).trans ?_)
  dsimp only
  rw [objPage_named there, named, chk_fail (by simpa using unaligned)]
  exact guarded_fail rfl _ _ _

end Opcode

theorem ruleOf_protect (qp sub slot first n : Nat) (ro : Bool) : ruleOf qp sub (.protect qp sub slot first n ro) = true := by
  simp [ruleOf]

/-- The one rules change there is takes effect, and its descriptor ends. -/
theorem rulesChangePoint_applies {s : State} {qp sub slot first n : Nat} {d : Desc} {ro : Bool}
    (h : Running s qp sub 0xB0 d) (only : s.hbm.rules = [.protect qp sub slot first n ro]) :
    exec (.rulesChangePoint qp sub) s = .next (endD d rDone (modMem slot
      (fun m => { m with readOnly := setRights first n ro m.readOnly }) (modHbm (fun h => { h with rules := [] }) s))) := by
  refine congrArg Host.Outcome.next ((onRunning_running h).trans ?_)
  simp [only, ruleOf_protect, applyRule, modHbm]

/-- A page made read-only takes no write. -/
theorem writableRange_readOnly (m : MemObj) (first : Nat) {n : Nat} (pos : 0 < n) :
    writableRange { m with readOnly := setRights first n true m.readOnly } (first * pageBytes m.page) 1 = false := by
  have size : 0 < n * pageBytes m.page := Nat.mul_pos pos (pageBytes_pos _)
  have mine : (first, n) ∈ setRights first n true m.readOnly := by simp [setRights]
  refine List.all_eq_false.mpr ⟨(first, n), mine, ?_⟩
  simp only [Bool.or_eq_true, decide_eq_true_eq, Nat.add_mul]
  omega

/-! ## The rules fence (R241) -/

/-- A fence stands at the requests numbered so far. -/
def fenceSet (qp sub : Nat) (d : Desc) (s : State) : State :=
  runDesc qp sub 0 (modHbm (fun m => { m with
    fences := (m.fences.filter fun x => !fenceOf qp sub x) ++ [(qp, sub, instOf s d.fn, s.hbm.nextReq)] }) s)

theorem rulesFence_stands {s : State} {qp sub : Nat} {d : Desc} (h : Started s qp sub 0xB1 d) :
    exec (.rulesFence qp sub) s = .next (fenceSet qp sub d s) :=
  congrArg Host.Outcome.next (onStarted_started h)

/-- A descriptor's fence falls. -/
def fenceFalls (qp sub : Nat) (s : State) : State :=
  modHbm (fun m => { m with fences := m.fences.filter fun x => !fenceOf qp sub x }) s

theorem rulesFenceComplete_met {s : State} {qp sub : Nat} {d : Desc} (h : Running s qp sub 0xB1 d)
    (met : ∀ e ∈ s.hbm.fences, fenceOf qp sub e = true → fenceHeld s e = false) :
    exec (.rulesFenceComplete qp sub) s = .next (endD d rDone (fenceFalls qp sub s)) := by
  have free : ¬ (s.hbm.fences.any fun e => fenceOf qp sub e && fenceHeld s e) = true := by
    rw [List.any_eq_true]
    rintro ⟨e, listed, both⟩
    rw [Bool.and_eq_true] at both
    exact absurd both.2 (by simp [met e listed both.1])
  exact congrArg Host.Outcome.next ((onRunning_running h).trans (if_neg free))

theorem rulesFenceComplete_held {s : State} {qp sub : Nat} {e : Nat × Nat × Nat × Nat} (listed : e ∈ s.hbm.fences)
    (own : fenceOf qp sub e = true) (held : fenceHeld s e = true) : exec (.rulesFenceComplete qp sub) s = .next s := by
  have waits : (s.hbm.fences.any fun e => fenceOf qp sub e && fenceHeld s e) = true :=
    List.any_eq_true.mpr ⟨e, listed, by simp [own, held]⟩
  refine congrArg Host.Outcome.next ?_
  unfold onRunning
  split
  case h_2 => rfl
  case h_1 => exact ite_eq_right_iff.mpr fun _ => if_pos waits

/-! ## Scratch and cache (R229, R231) -/

/-- The pages of a range become resident where there is room. -/
def pagesResided (d : Desc) (m : MemObj) (s : State) : State :=
  (pagesOf (pageBytes m.page) (dfld d 32 8) (dfld d 40 8)).foldl (residePage (hSlot (dfld d 24 4)) (pageBytes m.page)) s

/-- Residency is of objects, stores and the zeros due. -/
theorem pagesResided_only (d : Desc) (m : MemObj) (s : State) : Only 0xc20000 s (pagesResided d m s) :=
  (keeps_foldl (fun _ _ pg k => residePage_keeps k (sub_refl _) _ _ pg) (keeps_refl _ s)).only

/-- Bytes of a range that lie in resident pages. -/
def residentBytes (s : State) (slot p off len : Nat) : Nat :=
  match tget s.mems slot with
  | some m => (((pagesOf p off len).filter fun pg => m.resident.contains pg).map (pageShare p off len)).sum
  | none => 0

theorem residentBytes_none (s : State) (slot p off : Nat) : residentBytes s slot p off 0 = 0 := by
  unfold residentBytes
  split <;> rfl

/-- The keys of the cached lines of a CST_EVICT's range. -/
def evictKeys (d : Desc) (s : State) : List Nat :=
  (cachedIn s (hSlot (dfld d 24 4)) (dfld d 32 8) (dfld d 40 8)).map Prod.fst

/-- The offset of the first line of a list from an offset on. -/
def firstLine (from_ : Nat) (ls : List Nat) : Nat :=
  match minBy (fun k => k) (ls.filter fun k => from_ / 64 ≤ k) with
  | some k => k * 64
  | none => 2 ^ 64 - 1

theorem firstLine_one {from_ k : Nat} (le : from_ / 64 ≤ k) : firstLine from_ [k] = k * 64 := by
  simp [firstLine, le, minBy]

section Opcode
variable {s : State} {qp sub : Nat} {d : Desc} {m : MemObj} (named : needH s d Hk.mem 24 = none)
  (there : tget s.mems (hSlot (dfld d 24 4)) = some m)
include named there

theorem cstReside_noScratch (h : Started s qp sub 0xB2 d) (noScratch : m.cluster = none) :
    exec (.cstReside qp sub) s = .next (endD d (refuse 0x11 24) s) := by
  refine congrArg Host.Outcome.next ((onStarted_started h).trans ?_)
  dsimp only
  rw [there, named, chk_fail (by simp [noScratch])]
  exact guarded_fail rfl _ _ _

theorem cstReside_resides (h : Started s qp sub 0xB2 d) (scratch : m.cluster.isSome = true)
    (within : dfld d 32 8 + dfld d 40 8 ≤ m.size) : exec (.cstReside qp sub) s = .next (endD d { rDone with
      value := residentBytes (pagesResided d m s) (hSlot (dfld d 24 4)) (pageBytes m.page) (dfld d 32 8) (dfld d 40 8) }
      (pagesResided d m s)) := by
  refine congrArg Host.Outcome.next ((onStarted_started h).trans ?_)
  dsimp only
  rw [objPage_named there, there, named, chk_pass (by simp [scratch]), needRange_within there within]
  exact guarded_pass rfl _ _ _

theorem cstEvict_evicts (h : Started s qp sub 0xB3 d) (within : dfld d 32 8 + dfld d 40 8 ≤ m.size) :
    exec (.cstEvict qp sub) s = .next (endD d { rDone with
      value := ((cachedIn s (hSlot (dfld d 24 4)) (dfld d 32 8) (dfld d 40 8)).map fun e => popCount e.2.dirty 256).sum }
      (modHbm (fun h => { h with cache := h.cache.filter fun e => !(evictKeys d s).contains e.1 }) s)) := by
  refine congrArg Host.Outcome.next ((onStarted_started h).trans ?_)
  dsimp only
  rw [named, needRange_within there within]
  exact guarded_pass rfl _ _ _

/-! ## Queries (R237, R253) -/

theorem memQuery_reports (h : Started s qp sub 0xB4 d) : exec (.memQuery qp sub) s = .next (endD d { resOf 0 with
    value := m.resident.length * pageBytes m.page, aux := backingMask m, flags := if m.cluster.isSome then 1 else 0 } s) := by
  refine congrArg Host.Outcome.next ((onStarted_started h).trans ?_)
  dsimp only
  rw [named, guarded_pass rfl, there]
  rfl

theorem poisonScan_reports (h : Started s qp sub 0xB5 d) (within : dfld d 32 8 < m.size) :
    exec (.poisonScan qp sub) s = .next (endD d { resOf 0 with
      value := firstLine (dfld d 32 8) (tabledLines s (hSlot (dfld d 24 4)))
      aux := (tabledLines s (hSlot (dfld d 24 4))).length, flags := if s.hbm.poisonOverflow then 1 else 0 } s) := by
  refine congrArg Host.Outcome.next ((onStarted_started h).trans ?_)
  dsimp only
  rw [named, needRange_within there within]
  exact guarded_pass rfl _ _ _

end Opcode

/-- Settles O24: a rules change by `ruleWaits`, `rulesChangePoint_applies` and `writableRange_readOnly` (log 64: the offset a
refused page range names), the fence by `fenceSet` and `fenceFalls` (log 65: what it waits for), residency and eviction by
`pagesResided` and `cstEvict_evicts` (log 66), the queries by `memQuery_reports` and `poisonScan_reports` (log 67). -/
theorem memoryOpcodes : Obligations.MemoryOpcodes := by
  refine ⟨?protects, ?unaligned, ?changes, fun m first n pos => writableRange_readOnly m first pos, ?fences, ?met,
    fun s qp sub e listed own held => rulesFenceComplete_held listed own held, ?noScratch, ?resides, ?evicts, ?queries,
    ?scansNone, ?scansOne, ?zeroed⟩
  case protects =>
    intro s qp sub d m h named there aligned whole pos within
    refine ⟨_, memProtect_waits named there h aligned whole pos within, rfl, ?_, rfl⟩
    exact congrArg (Option.map Desc.phase) (findDesc_runDesc 0 h.1)
  case unaligned =>
    intro s qp sub d m h named there unaligned
    exact ⟨_, memProtect_unaligned named there h unaligned, started_ends h rfl _, rfl⟩
  case changes =>
    intro s qp sub d slot first n ro m h only there
    refine ⟨_, rulesChangePoint_applies h only, ?_, rfl, running_ends h rfl _, fun k ne => tget_tmod_ne s.mems _ ne⟩
    exact (tget_tmod_same s.mems slot _).trans (congrArg (Option.map _) there)
  case fences =>
    intro s qp sub d h
    exact ⟨_, rulesFence_stands h, List.mem_append_right _ (List.mem_singleton_self _),
      congrArg (Option.map Desc.phase) (findDesc_runDesc 0 h.1)⟩
  case met =>
    intro s qp sub d h met
    exact ⟨_, rulesFenceComplete_met h met, running_ends h rfl _,
      fun e kept => by simpa using (List.mem_filter.mp kept).2⟩
  case noScratch =>
    intro s qp sub d m h named there noScratch
    exact ⟨_, cstReside_noScratch named there h noScratch, started_ends h rfl _, rfl⟩
  case resides =>
    intro s qp sub d m h named there scratch within
    have frame := pagesResided_only d m s
    have ends := started_ends h (congrArg CmdState.descs (frame.cmd rfl))
    refine ⟨_, cstReside_resides named there h scratch within, statusOf_of_resultOf (ends _), frame.mem rfl,
      fun zero => (ends _).trans ?_⟩
    rw [zero, residentBytes_none]
    rfl
  case evicts =>
    intro s qp sub d m h named there within
    exact ⟨_, cstEvict_evicts named there h within,
      fun e => List.mem_filter.trans (and_congr_right fun _ => by simp [evictKeys]), rfl, started_ends h rfl _⟩
  case queries =>
    intro s qp sub d m h named there
    exact ⟨_, memQuery_reports named there h, started_ends h rfl _⟩
  case scansNone =>
    intro s qp sub d m h named there within clean
    refine ⟨_, poisonScan_reports named there h within, (started_ends h rfl _).trans ?_⟩
    rw [clean]
    rfl
  case scansOne =>
    intro s qp sub d m k h named there within one le
    refine ⟨_, poisonScan_reports named there h within, (started_ends h rfl _).trans ?_⟩
    rw [one, firstLine_one le]
    rfl
  case zeroed =>
    intro s slot page
    exact ⟨_, rfl, (modIme_keeps (keeps_refl _ s) (sub_refl _) _).only, fun e => List.mem_filter.trans (by simp)⟩

end Sys2Proof.Proofs
end

section
/-!
HBM transactions (chapter 09, R246 to R248), ECC, tags and poison (R251 to R254, R271, R276), the badger (R256, R257, R272),
and the end of a halt's heartbeats.
-/
namespace Sys2Proof.Proofs
open Sys2Proof.Machine Sys2Proof.Laws

/-! ## Stacks -/

theorem stackAt_congr {s t : State} (h : t.hbm.stk = s.hbm.stk) (k : Nat) : stackAt t k = stackAt s k := by
  rw [stackAt, h]
  rfl

theorem modStack_only (k : Nat) (f : Stack → Stack) (s : State) : Only (partMask [.hbm]) s (modStack k f s) :=
  (modStack_keeps (keeps_refl _ s) (sub_refl _) k f).only

/-- A stack that serves belongs to a device that has not halted. -/
theorem notHalted_of_serves {s : State} {k : Nat} (h : stackServes s k = true) : s.flt.haltCause = 0 := by
  simp only [stackServes, Bool.and_eq_true, decide_eq_true_eq] at h
  exact h.2

/-! ## Admission (R246, R247) -/

/-- From `t` to `u` at most `n` waiting requests have taken slots: none is lost, and no slot beyond 2,048 is filled. -/
structure Admitted (n : Nat) (t u : Stack) : Prop where
  /-- No request is lost. -/
  load : u.waiting.length + u.slots.length = t.waiting.length + t.slots.length
  /-- At most `n` are admitted. -/
  grows : u.slots.length ≤ t.slots.length + n
  /-- The slots of a stack. -/
  cap : t.slots.length ≤ 2048 → u.slots.length ≤ 2048

theorem admitted_refl (n : Nat) (t : Stack) : Admitted n t t := ⟨rfl, Nat.le_add_right _ _, id⟩

theorem admitted_trans {a b : Nat} {t u v : Stack} (h : Admitted a t u) (k : Admitted b u v) : Admitted (a + b) t v :=
  ⟨k.load.trans h.load, by have := h.grows; have := k.grows; omega, fun cap => k.cap (h.cap cap)⟩

theorem admissible_waits {t : Stack} {c : Nat} {r : HbmReq} (h : admissible t c = some r) :
    r ∈ t.waiting ∧ t.slots.length < 2048 := by
  unfold admissible at h
  split at h
  case isTrue room => exact ⟨List.mem_of_find?_eq_some h, room⟩
  case isFalse => cases h

theorem admitReq_admitted {t : Stack} {c : Nat} {r : HbmReq} (h : admissible t c = some r) : Admitted 1 t (admitReq t r) := by
  obtain ⟨waits, room⟩ := admissible_waits h
  have one : 0 < t.waiting.length := List.length_pos_of_mem waits
  constructor <;> simp only [admitReq, List.length_append, List.length_singleton, List.length_erase_of_mem waits] <;> omega

theorem admitRound_admitted (n : Nat) (t : Stack) : Admitted n t (admitRound n t) := by
  induction n generalizing t with
  | zero => exact admitted_refl 0 t
  | succ n ih =>
    unfold admitRound
    split
    case h_1 r chosen =>
      obtain ⟨i, -, may⟩ := List.exists_of_findSome?_eq_some chosen
      obtain ⟨load, grows, cap⟩ := admitReq_admitted may
      have first : Admitted 1 t { admitReq t r with pointer := (r.cluster + 1) % 64 } := ⟨load, grows, cap⟩
      rw [Nat.add_comm]
      exact admitted_trans first (ih _)
    case h_2 => exact admitted_refl _ t

theorem admitCycle_admitted (t : Stack) : Admitted 16 t (admitCycle t) := by
  unfold admitCycle
  split
  case h_1 r may => exact admitted_trans (admitReq_admitted may) (admitRound_admitted 15 _)
  case h_2 => exact admitRound_admitted 16 t

theorem admitRound_noneWaiting {t : Stack} (h : t.waiting = []) (n : Nat) : admitRound n t = t := by
  have closed : ∀ c, admissible t c = none := fun c => by simp [admissible, h]
  cases n with
  | zero => rfl
  | succ n =>
    have nobody : ((List.range 64).findSome? fun i => admissible t ((t.pointer + i) % 64)) = none :=
      List.findSome?_eq_none_iff.mpr fun i _ => closed _
    rw [admitRound, nobody]

section Alone
variable {t : Stack} {r : HbmReq} (alone : t.waiting = [r]) (empty : t.slots = [])
include alone empty

theorem admissible_alone (c : Nat) : admissible t c = if r.cluster = c then some r else none := by
  by_cases own : r.cluster = c
  · simp [admissible, bankSlots, alone, empty, own]
  · simp [admissible, alone, own]

/-- The round-robin finds the one request wherever its pointer stands. -/
theorem admitRound_alone (low : r.cluster < 64) (n : Nat) :
    admitRound (n + 1) t = { admitReq t r with pointer := (r.cluster + 1) % 64 } := by
  have chosen : ((List.range 64).findSome? fun i => admissible t ((t.pointer + i) % 64)) = some r := by
    cases found : (List.range 64).findSome? fun i => admissible t ((t.pointer + i) % 64) with
    | none =>
      rw [List.findSome?_eq_none_iff] at found
      have here := found ((64 + r.cluster - t.pointer % 64) % 64) (List.mem_range.mpr (Nat.mod_lt _ (by decide)))
      rw [admissible_alone alone empty, if_pos (by omega)] at here
      cases here
    | some q =>
      obtain ⟨i, -, may⟩ := List.exists_of_findSome?_eq_some found
      obtain ⟨waits, -⟩ := admissible_waits may
      rw [alone, List.mem_singleton] at waits
      rw [waits]
  rw [admitRound, chosen]
  exact admitRound_noneWaiting (by simp [admitReq, alone]) n

theorem admitCycle_alone (legal : r.cluster ≤ 64) : (admitCycle t).waiting = [] ∧ (admitCycle t).slots = [r] := by
  have taken : (admitReq t r).waiting = [] ∧ (admitReq t r).slots = [r] := by simp [admitReq, alone, empty]
  unfold admitCycle
  rw [admissible_alone alone empty]
  by_cases badger : r.cluster = 64
  · rw [if_pos badger]
    dsimp only
    rw [admitRound_noneWaiting taken.1]
    exact taken
  · rw [if_neg badger]
    dsimp only
    rw [admitRound_alone alone empty (by omega)]
    exact taken

end Alone

theorem hbmAdmission_cycles {s : State} {k : Nat} (serves : stackServes s k = true) :
    exec (.hbmAdmission k []) s = .next (modStack k admitCycle s) :=
  congrArg Host.Outcome.next (if_pos serves)

theorem hbm_notServed {s : State} {k : Nat} (h : stackServes s k = false) (new : List (Nat × Nat × Nat)) (id : Nat)
    (ls : List HbmLine) (n : Nat) : exec (.hbmAdmission k new) s = .next s ∧
    exec (.hbmTransactionComplete k id ls) s = .next s ∧ exec (.correctedLineRewrite k n) s = .next s ∧
    exec (.badgerChunkRead k ls) s = .next s := by
  have out : ¬ stackServes s k = true := by simp [h]
  have outAnd (b : Bool) : ¬ (stackServes s k && b) = true := by simp [h]
  exact ⟨congrArg Host.Outcome.next (if_neg out), congrArg Host.Outcome.next (if_neg (outAnd _)),
    congrArg Host.Outcome.next (if_neg out), congrArg Host.Outcome.next (if_neg (outAnd _))⟩

/-! ## Poison (R253, R254) -/

/-- Poisoning changes neither a stack nor a cluster's store. -/
theorem addPoison_stores (lines : List Nat) (stack : Nat) (s : State) :
    (addPoison lines stack s).hbm.stk = s.hbm.stk ∧ (addPoison lines stack s).hbm.clu = s.hbm.clu := by
  refine Prod.mk.inj (foldl_kept (fun z : State => (z.hbm.stk, z.hbm.clu)) (fun z line => ?_) lines s)
  dsimp only
  split <;> rfl

theorem addPoison_only (lines : List Nat) (stack : Nat) (s : State) : Only 0x580000 s (addPoison lines stack s) :=
  (addPoison_keeps (keeps_refl _ s) (sub_refl _) lines stack).only

theorem thas_addPoison (line stack : Nat) (s : State) : thas (addPoison [line] stack s).poison line = true := by
  unfold addPoison
  rw [List.foldl_cons, List.foldl_nil]
  split
  case isTrue known => exact known
  case isFalse => exact thas_tput_same _ _ _

theorem postPoison_only (slot off source stack : Nat) (s : State) : Only 0x8000 s (postPoison slot off source stack s) :=
  (postPoison_keeps (keeps_refl _ s) (sub_refl _) slot off source stack).only

/-- A line is poisoned, and the first detection is posted. -/
def poisonPosted (slot off source stack : Nat) (s : State) : State :=
  postPoison slot off source stack (addPoison [lineKey slot off] stack s)

theorem thas_poisonPosted (slot off source stack : Nat) (s : State) :
    thas (poisonPosted slot off source stack s).poison (lineKey slot off) = true := by
  rw [poisonPosted, (postPoison_only slot off source stack _).poison rfl]
  exact thas_addPoison _ _ s

theorem poisonPosted_stores (slot off source stack : Nat) (s : State) :
    (poisonPosted slot off source stack s).hbm.stk = s.hbm.stk ∧
    (poisonPosted slot off source stack s).hbm.clu = s.hbm.clu := by
  rw [poisonPosted, (postPoison_only slot off source stack _).hbm rfl]
  exact addPoison_stores _ stack s

/-- POISON_FOUND is pending for the function that owns the line's object, and names the object. -/
theorem poisonPosted_entry {s : State} {slot : Nat} {m : MemObj} (there : tget s.mems slot = some m)
    (off source stack : Nat) :
    (tgetD (attOf (poisonPosted slot off source stack s) (ctxFn s m.ctx)).entries 0x20 attInit).pending = true ∧
    (tgetD (attOf (poisonPosted slot off source stack s) (ctxFn s m.ctx)).entries 0x20 attInit).handle = mkHandle 3 slot := by
  have frame := addPoison_only [lineKey slot off] stack s
  have owner : ctxFn (addPoison [lineKey slot off] stack s) m.ctx = ctxFn s m.ctx := by
    rw [ctxFn, frame.ctxs rfl]
    rfl
  have posted : poisonPosted slot off source stack s = post (ctxFn s m.ctx) 0x20 (poisonDetail off source stack)
      (mkHandle 3 slot) (addPoison [lineKey slot off] stack s) := by
    rw [poisonPosted, postPoison, frame.mems rfl, there]
    dsimp only
    rw [owner]
    rfl
  rw [posted, post_entry]
  exact ⟨rfl, rfl⟩

/-! ## Lines of a transaction (R248, R251, R271) -/

theorem queueRow_only (k row : Nat) (s : State) : Only 0x2200 s (queueRow k row s) :=
  (queueRow_keeps (keeps_refl _ s) (sub_refl _) k row).only

/-- An uncorrectable line is counted and its row queued. -/
def rowCounted (k line : Nat) (s : State) : State :=
  queueRow k (rowOf (line * 64)) (modStack k (fun t => { t with uncorrected := satAdd 65535 t.uncorrected 1 }) s)

theorem rowCounted_hbm (k line : Nat) (s : State) : (rowCounted k line s).hbm =
    (modStack k (fun t => { t with uncorrected := satAdd 65535 t.uncorrected 1 }) s).hbm :=
  (queueRow_only k _ _).hbm rfl

theorem rowCounted_only (k line : Nat) (s : State) : Only 0x402200 s (rowCounted k line s) :=
  (queueRow_keeps (modStack_keeps (keeps_refl 0x402200 s) rfl k _) rfl k _).only

theorem detectPoison_first {s : State} {slot off : Nat} (fresh : thas s.poison (lineKey slot off) = false)
    (k source line : Nat) :
    detectPoison k source line (some (slot, off)) s = poisonPosted slot off source k (rowCounted k line s) :=
  if_neg (by simp [fresh])

theorem detectPoison_known {s : State} {slot off : Nat} (known : thas s.poison (lineKey slot off) = true)
    (k source line : Nat) : detectPoison k source line (some (slot, off)) s = s :=
  if_pos known

/-- A transaction gives its slot back. -/
def slotFreed (k id : Nat) (s : State) : State := modStack k (fun t => { t with slots := t.slots.filter fun r => r.id ≠ id }) s

/-- A tag line that came from HBM is counted in confidential mode. -/
def tagCounted (k : Nat) (l : HbmLine) (s : State) : State :=
  if confidential s && l.tagMiss then modCipher k (fun c => { c with tagReads := c.tagReads + 1 }) s else s

theorem tagCounted_plain {s : State} (plain : confidential s = false) (k : Nat) (l : HbmLine) : tagCounted k l s = s :=
  if_neg (by simp [plain])

theorem tagCounted_only (k : Nat) (l : HbmLine) (s : State) : Only (partMask [.ime]) s (tagCounted k l s) := by
  unfold tagCounted
  split
  · exact (modCipher_keeps (keeps_refl _ s) (sub_refl _) k _).only
  · exact (keeps_refl _ s).only

theorem onList_tagCounted (k : Nat) (l : HbmLine) (s : State) (n : Nat) : onList (tagCounted k l s) k n = onList s k n := by
  unfold tagCounted
  split
  · simp [onList]
  · rfl

section Transaction
variable {s : State} {k id : Nat} {l : HbmLine}
  (holds : stackServes s k = true ∧ (stackAt s k).slots.any (fun r => r.id = id) = true)
include holds

theorem transactionComplete_decodes (ls : List HbmLine) : exec (.hbmTransactionComplete k id ls) s =
    .next (ls.foldl (doneLine k) (slotFreed k id s)) :=
  congrArg Host.Outcome.next (if_pos (by simpa using holds))

theorem transactionComplete_reads (read : l.kind = .read) : exec (.hbmTransactionComplete k id [l]) s =
    .next (readHbm k l (tagCounted k l (slotFreed k id s))) := by
  have running : ¬ (slotFreed k id s).flt.haltCause ≠ 0 := not_not.mpr (notHalted_of_serves (s := s) holds.1)
  rw [transactionComplete_decodes holds, List.foldl_cons, List.foldl_nil, doneLine, if_neg running, read]
  rfl

theorem transactionComplete_readsShared (plain : confidential s = false) (read : l.kind = .read) :
    exec (.hbmTransactionComplete k id [l]) s = .next (readHbm k l (slotFreed k id s)) := by
  rw [transactionComplete_reads holds read, tagCounted_plain (s := slotFreed k id s) plain]

theorem transactionComplete_writes (write : l.kind = .write) (hit : l.tagMiss = false) :
    exec (.hbmTransactionComplete k id [l]) s = .next (writeHbm k l (slotFreed k id s)) := by
  have running : ¬ (slotFreed k id s).flt.haltCause ≠ 0 := not_not.mpr (notHalted_of_serves (s := s) holds.1)
  rw [transactionComplete_decodes holds, List.foldl_cons, List.foldl_nil, doneLine, if_neg running, write, hit, Bool.and_false]
  rfl

end Transaction

theorem readHbm_corrected {s : State} {l : HbmLine} (plain : confidential s = false) (ecc : l.ecc = .corrected) (k : Nat) :
    readHbm k l s = correctLine k l.line s := by
  rw [readHbm, ecc]
  simp [plain]

theorem readHbm_bad {l : HbmLine} (ecc : l.ecc = .bad) (k : Nat) (s : State) :
    readHbm k l s = detectPoison k 1 l.line (lineObj s k l) s := by
  rw [readHbm, ecc]

/-- A clean line with a clean tag line whose tag does not match, not on the corrected-line list, is an integrity failure. -/
theorem readHbm_mismatch {s : State} {l : HbmLine} (conf : confidential s = true) (ecc : l.ecc = .clean)
    (tagEcc : l.tagEcc = .clean) (mismatch : l.tagOk = false) {k : Nat} (unlisted : onList s k l.line = false) :
    readHbm k l s = integrityHalt k (unlist k l.line s) := by
  simp [readHbm, readTagged, correctTag, conf, ecc, tagEcc, mismatch, unlisted]

theorem stackAt_unlist (k line : Nat) (s : State) (j : Nat) : stackAt (unlist k line s) j = stackAt s j := rfl

theorem onList_unlist (k line : Nat) (s : State) : onList (unlist k line s) k line = false := by
  simp [onList, unlist]

/-! ## The integrity halt (R276) -/

section Halt
variable {s : State} (running : s.flt.haltCause = 0)
include running

theorem haltDevice_flt (cause detail : Nat) : (haltDevice cause detail s).flt =
    { s.flt with haltCause := cause, haltQuiet := false, engines := [], parts := [], resBusy := none } := by
  rw [haltDevice, if_neg (not_not.mpr running), alertConds_flt, postAll_flt, endSession_flt]
  rfl

theorem haltDevice_imeKeys (cause detail : Nat) : (haltDevice cause detail s).ime.keys = [] := by
  rw [haltDevice, if_neg (not_not.mpr running), alertConds_ime, postAll_ime]
  rfl

end Halt

/-- Every stack drops its requests and transactions. -/
def stacksStilled (s : State) : State :=
  modHbm (fun h => { h with stk := tmapv h.stk fun _ t => { t with waiting := [], slots := [] } }) s

theorem stackAt_stacksStilled (s : State) (k : Nat) :
    (stackAt (stacksStilled s) k).slots = [] ∧ (stackAt (stacksStilled s) k).waiting = [] := by
  rw [stackAt, tgetD, stacksStilled, modHbm_hbm, tget_tmapv]
  cases tget s.hbm.stk k with
  | none => exact ⟨rfl, rfl⟩
  | some t => exact ⟨rfl, rfl⟩

/-- The record an integrity failure of a stack leaves. -/
def integrityRecorded (k : Nat) (s : State) : State :=
  fltRecord Cls.integrity 5 false false 0 0 (1 + fieldAt k 8 8) s

theorem integrityHalt_halts {s : State} (running : s.flt.haltCause = 0) (k : Nat) : integrityHalt k s =
    stacksStilled (haltDevice 1 (1 + fieldAt k 8 8) (integrityRecorded k s)) :=
  if_neg (not_not.mpr running)

/-- What an integrity failure leaves: the device halted with no session and no key, the stack's work gone, one record more. -/
theorem integrityHalt_ends {s : State} (running : s.flt.haltCause = 0) (k : Nat) :
    (integrityHalt k s).flt.haltCause = 1 ∧ (integrityHalt k s).sec.session = .none_ ∧ (integrityHalt k s).sec.keys = [] ∧
    (integrityHalt k s).ime.keys = [] ∧ (stackAt (integrityHalt k s) k).slots = [] ∧
    (stackAt (integrityHalt k s) k).waiting = [] ∧ (integrityHalt k s).flt.records = (s.flt.records + 1) % 2 ^ 32 := by
  have recorded : (integrityRecorded k s).flt.haltCause = 0 := (fltRecord_haltCause _ _ _ _ _ _ _ s).trans running
  have halted := haltDevice_flt recorded 1 (1 + fieldAt k 8 8)
  obtain ⟨session, keys⟩ := haltDevice_ends recorded 1 (1 + fieldAt k 8 8)
  obtain ⟨slots, waiting⟩ := stackAt_stacksStilled (haltDevice 1 (1 + fieldAt k 8 8) (integrityRecorded k s)) k
  rw [integrityHalt_halts running]
  exact ⟨congrArg FltState.haltCause halted, session, keys, haltDevice_imeKeys recorded _ _, slots, waiting,
    (congrArg FltState.records halted).trans (fltRecord_records _ _ _ _ _ _ _ s)⟩

/-! ## Cluster store errors (R252) -/

theorem clusterStoreUncorrectable_clean {s : State} {c slot off : Nat} (clean : storeSector s c slot off = some false) :
    exec (.clusterStoreUncorrectable c slot off) s =
      .next (modClu c (fun k => { k with corrected := satAdd 65535 k.corrected 1 }) s) := by
  refine congrArg Host.Outcome.next ?_
  rw [clean]

theorem clusterStoreUncorrectable_dirty {s : State} {c slot off : Nat} (dirty : storeSector s c slot off = some true)
    (fresh : thas s.poison (lineKey slot off) = false) : exec (.clusterStoreUncorrectable c slot off) s =
      .next (poisonPosted slot off 2 0xFF (modClu c (fun k => { k with uncorrected := satAdd 255 k.uncorrected 1 }) s)) := by
  refine congrArg Host.Outcome.next ?_
  rw [dirty]
  exact if_neg (by simp [fresh])

theorem cluAt_congr {s t : State} (h : t.hbm.clu = s.hbm.clu) (c : Nat) : cluAt t c = cluAt s c := by
  rw [cluAt, h]
  rfl

/-! ## The badger (R256, R257, R272) -/

/-- The badger's place and passes after a chunk; it holds no slot, and no correction is counted. -/
theorem badgerNext_places (t : Stack) :
    (badgerNext t).chunk = (if 187500000 ≤ t.chunk + 1 then 0 else t.chunk + 1) ∧
    (badgerNext t).passes = (if 187500000 ≤ t.chunk + 1 then satAdd 65535 t.passes 1 else t.passes) ∧
    (badgerNext t).corrected = t.corrected ∧ ∀ r ∈ (badgerNext t).slots, r.cluster ≠ 64 := by
  have kept : ∀ r ∈ t.slots.filter fun r => r.cluster ≠ 64, r.cluster ≠ 64 :=
    fun r held => by simpa using (List.mem_filter.mp held).2
  unfold badgerNext stackChunks
  by_cases last : 187500000 ≤ t.chunk + 1
  · simpa only [last, if_true, true_and] using kept
  · simpa only [last, if_false, true_and] using kept

theorem badgerChunkRead_reads {s : State} {k : Nat} (serves : stackServes s k = true) (ready : s.clk.milestone = 15)
    (ls : List HbmLine) : exec (.badgerChunkRead k ls) s = .next (modStack k badgerNext
      ((ls.filter fun l => l.line / 4 = (stackAt s k).chunk).foldl (badgerLine k) s)) :=
  congrArg Host.Outcome.next (if_pos (by simp [serves, ready]))

theorem passCorrection_corrected (k line : Nat) (s : State) :
    (stackAt (passCorrection k line s) k).corrected = (stackAt s k).corrected := by
  unfold passCorrection
  dsimp only
  split
  · rw [stackAt_congr (congrArg MemState.stk ((queueRow_only k _ _).hbm rfl)), stackAt_modStack]
  · rw [stackAt_modStack]

/-- The lists a correction enters in confidential mode are the cipher engine's. -/
theorem badgerCorrects_stk (k line : Nat) (s : State) : (badgerCorrects k line s).hbm.stk =
    (passCorrection k line (modStack k (fun t => { t with corrected := satAdd 65535 t.corrected 1 }) s)).hbm.stk := by
  unfold badgerCorrects
  dsimp only
  split_ifs <;> rfl

theorem badgerCorrects_counts (k line : Nat) (s : State) :
    (stackAt (badgerCorrects k line s) k).corrected = satAdd 65535 (stackAt s k).corrected 1 := by
  rw [stackAt_congr (badgerCorrects_stk k line s), passCorrection_corrected, stackAt_modStack]

/-- Settles O25: admission by `admitCycle_admitted` and `admitCycle_alone` (log 68), a line's ECC and tag by `readHbm_corrected`,
`readHbm_bad` and `readHbm_mismatch` (log 69), poison by `poisonPosted` (log 70: of cluster stores too), the halt by
`integrityHalt_ends` (log 71: what waits and what holds a slot goes), the badger by `badgerNext_places`. -/
theorem hbmAndPoison : Obligations.HbmAndPoison := by
  refine ⟨?admits, ?alone, fun s k new id ls n off => hbm_notServed off new id ls n,
    fun s k id holds => ⟨_, transactionComplete_decodes holds [], stackAt_modStack k _ s, modStack_only k _ s⟩,
    ?corrects, ?poisons, ?known, ?halts, ?writes, ?rewrites,
    fun s c slot off clean => ⟨_, clusterStoreUncorrectable_clean clean, congrArg CluStore.corrected (cluAt_modClu c _ s), rfl⟩,
    ?dirty, ?patrols, ?badgerCounts, fun s halted => congrArg Host.Outcome.next (if_pos halted),
    fun s running => congrArg Host.Outcome.next (if_neg (not_not.mpr running))⟩
  case admits =>
    intro s k serves
    obtain ⟨load, grows, cap⟩ := admitCycle_admitted (stackAt s k)
    refine ⟨_, hbmAdmission_cycles serves, ?_⟩
    beta_reduce
    rw [stackAt_modStack]
    exact ⟨load, grows, cap, fun j ne => stackAt_modStack_ne _ s ne⟩
  case alone =>
    intro s k r serves alone empty legal
    refine ⟨_, hbmAdmission_cycles serves, ?_⟩
    beta_reduce
    rw [stackAt_modStack]
    exact admitCycle_alone alone empty legal
  case corrects =>
    intro s k id l holds plain read ecc
    refine ⟨_, transactionComplete_readsShared holds plain read, ?_⟩
    rw [readHbm_corrected (s := slotFreed k id s) plain ecc, correctLine]
    beta_reduce
    rw [stackAt_modStack, slotFreed, stackAt_modStack]
    exact ⟨rfl, mem_linsert_self _ _, rfl⟩
  case poisons =>
    intro s k id l slot off m holds plain read ecc obj there fresh
    have counted := rowCounted_only k l.line (slotFreed k id s)
    have owner : ctxFn (rowCounted k l.line (slotFreed k id s)) m.ctx = ctxFn s m.ctx := by
      rw [ctxFn, counted.ctxs rfl]
      rfl
    refine ⟨_, transactionComplete_readsShared holds plain read, ?_⟩
    rw [readHbm_bad ecc, show lineObj (slotFreed k id s) k l = some (slot, off) from obj,
      detectPoison_first (s := slotFreed k id s) fresh, ← owner]
    refine ⟨thas_poisonPosted _ _ _ _ _, ?_,
      poisonPosted_entry ((congrArg (tget · slot) (counted.mems rfl)).trans there) off 1 k⟩
    rw [stackAt_congr (poisonPosted_stores _ _ _ _ _).1, stackAt_congr (congrArg MemState.stk (rowCounted_hbm _ _ _)),
      stackAt_modStack, slotFreed, stackAt_modStack]
  case known =>
    intro s k id l slot off holds plain read ecc obj known
    refine ⟨_, transactionComplete_readsShared holds plain read, ?_⟩
    rw [readHbm_bad ecc, show lineObj (slotFreed k id s) k l = some (slot, off) from obj,
      detectPoison_known (s := slotFreed k id s) known]
    exact ⟨rfl, rfl⟩
  case halts =>
    intro s k id l holds conf read ecc tagEcc mismatch unlisted
    have frame := tagCounted_only k l (slotFreed k id s)
    have flt : (unlist k l.line (tagCounted k l (slotFreed k id s))).flt = s.flt := frame.flt rfl
    have still : confidential (tagCounted k l (slotFreed k id s)) = true :=
      (confidential_congr (s := s) (congrArg SecState.session (frame.sec rfl))).trans conf
    have ends := integrityHalt_ends ((congrArg FltState.haltCause flt).trans (notHalted_of_serves holds.1)) k
    refine ⟨_, transactionComplete_reads holds read, ?_⟩
    rw [readHbm_mismatch still ecc tagEcc mismatch ((onList_tagCounted k l _ _).trans unlisted)]
    rwa [flt] at ends
  case writes =>
    intro s k id l holds write hit
    refine ⟨_, transactionComplete_writes holds write hit, ?_, onList_unlist k l.line _, rfl⟩
    rw [writeHbm, stackAt_unlist, stackAt_modStack, List.mem_filter, decide_eq_true_eq]
    exact fun kept => kept.2 rfl
  case rewrites =>
    intro s k n serves
    refine ⟨_, congrArg Host.Outcome.next (if_pos serves), modStack_only k _ s, fun x => ?_⟩
    rw [stackAt_modStack, List.mem_filter, decide_eq_true_eq]
  case dirty =>
    intro s c slot off m dirty there fresh
    refine ⟨_, clusterStoreUncorrectable_dirty dirty fresh, thas_poisonPosted _ _ _ _ _, ?_,
      (poisonPosted_entry (s := modClu c _ s) there off 2 0xFF).1⟩
    rw [cluAt_congr (poisonPosted_stores _ _ _ _ _).2, cluAt_modClu]
  case patrols =>
    intro s k serves ready
    obtain ⟨chunk, passes, -, slots⟩ := badgerNext_places (stackAt s k)
    refine ⟨_, badgerChunkRead_reads serves ready [], ?_⟩
    rw [List.filter_nil, List.foldl_nil]
    beta_reduce
    rw [stackAt_modStack]
    exact ⟨chunk, passes, slots⟩
  case badgerCounts =>
    intro s k l serves ready here ecc
    obtain ⟨-, -, corrected, -⟩ := badgerNext_places (stackAt (badgerCorrects k l.line s) k)
    refine ⟨_, badgerChunkRead_reads serves ready [l], ?_⟩
    rw [List.filter_cons_of_pos (by simpa using here), List.filter_nil, List.foldl_cons, List.foldl_nil, badgerLine, ecc]
    beta_reduce
    rw [stackAt_modStack]
    exact corrected.trans (badgerCorrects_counts k l.line s)

end Sys2Proof.Proofs
end

section
/-!
Sample streams (chapter 15): the end of a stream whose STREAM_CLOSE has ended before it (R386, R399).
-/
namespace Sys2Proof.Proofs
open Sys2Proof.Machine Sys2Proof.Laws

/-- A STREAM_CLOSE of stream 0, ABORTED with the queue pair it came from (R114). -/
def abortedClose : Desc :=
  { qp := 3, sub := 7, pos := 0, fn := 0, raw := 0x91, phase := .ended (resOf St.aborted), noRecord := true, sigOk := false
    escalated := false, note := 0 }

/-- The stream it was closing: its server has acknowledged CLOSE, no record has landed, no buffer is held. -/
def acknowledgedStream : Stream := { streamNew abortedClose 5 0 with state := .closing, closeDone := true }

/-- The stream in a device whose descriptors are the aborted one. -/
def closeAborted : State :=
  { State.reset with
    cmd := { CmdState.init with descs := [abortedClose] }
    ing := { IngState.init with streams := [(0, acknowledgedStream)] } }

/-- The stream ends, and the descriptor keeps the result it has. -/
theorem closeAborted_ends : (tryClose 0 closeAborted).ing.streams = [] ∧
    resultOf (tryClose 0 closeAborted) 3 7 = some (resOf St.aborted) := ⟨rfl, rfl⟩

/-- Refutes O33: the clause on the end of a closing stream has its descriptor take the position landed in every state that holds
the descriptor. `endDesc` leaves the result of one that has ended, so in `closeAborted` it stays ABORTED (R114). -/
theorem not_sampleStreams : ¬ Obligations.SampleStreams := by
  unfold Obligations.SampleStreams
  rintro ⟨-, -, -, -, -, -, -, -, -, -, -, -, -, -, -, -, -, -, -, -, -, -, -, -, -, ends, -⟩
  obtain ⟨-, done⟩ := ends closeAborted 0 acknowledgedStream 3 7 abortedClose rfl rfl rfl rfl rfl rfl rfl rfl rfl
  exact absurd (closeAborted_ends.2.symm.trans done) (by decide)

end Sys2Proof.Proofs
end

section
/-!
Links (chapter 11): what the ports hold after each operation, retry, training, the HELLO and the cabling check, and routes
(R295 to R310).
-/
namespace Sys2Proof.Proofs
open Sys2Proof.Machine Sys2Proof.Laws

/-! ## What the ports show -/

theorem portOf_congr {s t : State} (lnk : t.lnk = s.lnk) (mod : t.mod = s.mod) (p : Nat) : portOf t p = portOf s p := by
  unfold portOf portInit planInit
  rw [lnk, mod]

@[simp] theorem portOf_emit (o : Output) (s : State) (p : Nat) : portOf (emit o s) p = portOf s p := rfl

@[simp] theorem portOf_post (fn code detail handle : Nat) (s : State) (p : Nat) :
    portOf (post fn code detail handle s) p = portOf s p :=
  portOf_congr (post_lnk fn code detail handle s) (post_mod fn code detail handle s) p

/-- What a view of a port shows of every port. -/
def portsShow {α : Type} (f : Port → α) (s : State) : Nat → α := fun p => f (portOf s p)

section Views
variable {α : Type} {f : Port → α}

theorem portsShow_congr {s t : State} (lnk : t.lnk = s.lnk) (mod : t.mod = s.mod) : portsShow f t = portsShow f s :=
  funext fun p => congrArg f (portOf_congr lnk mod p)

/-- A change of a port that the view does not see. -/
theorem portsShow_modPort {g : Port → Port} (p : Nat) (s : State) (h : ∀ x, f (g x) = f x := by intro _; rfl) :
    portsShow f (modPort p g s) = portsShow f s := by
  funext q
  by_cases own : q = p
  · subst own
    exact (congrArg f (portOf_modPort q g s)).trans (h _)
  · exact congrArg f (portOf_modPort_ne g s own)

/-- What a finer view shows unchanged, a coarser one does. -/
theorem portOf_shown {r : Port → Port} {s t : State} (f : Port → α) (e : portsShow r t = portsShow r s) (p : Nat)
    (h : ∀ x, f (r x) = f x := by intro _; rfl) : f (portOf t p) = f (portOf s p) :=
  (h _).symm.trans ((congrArg f (congrFun e p)).trans (h _))

theorem portsShow_of {r : Port → Port} {s t : State} (e : portsShow r t = portsShow r s)
    (h : ∀ x, f (r x) = f x := by intro _; rfl) : portsShow f t = portsShow f s :=
  funext fun p => portOf_shown f e p h

end Views

/-! ## Moves of a port (R304, R305, R309, R310) -/

/-- The posting of a move and what it forgets of a switch lie outside the links. -/
theorem movePort_lnk (p : Nat) (st : PortState) (lanes : Nat) (s : State) :
    (movePort p st lanes s).lnk = (modPort p (fun x => { x with state := st, lanes := lanes }) s).lnk := by
  unfold movePort
  dsimp only
  split_ifs <;> simp

theorem movePort_only (p : Nat) (st : PortState) (lanes : Nat) (s : State) : Only 0x5008000 s (movePort p st lanes s) :=
  (movePort_keeps (keeps_refl _ s) (sub_refl _) p st lanes).only

@[simp] theorem portOf_movePort (p : Nat) (st : PortState) (lanes : Nat) (s : State) :
    portOf (movePort p st lanes s) p = { portOf s p with state := st, lanes := lanes } :=
  (portOf_congr (movePort_lnk p st lanes s) ((movePort_only p st lanes s).mod rfl) p).trans (portOf_modPort p _ s)

theorem portsShow_movePort {α : Type} {f : Port → α} {st : PortState} {lanes : Nat} (p : Nat) (s : State)
    (h : ∀ x : Port, f { x with state := st, lanes := lanes } = f x := by intro _; rfl) :
    portsShow f (movePort p st lanes s) = portsShow f s :=
  (portsShow_congr (movePort_lnk p st lanes s) ((movePort_only p st lanes s).mod rfl)).trans (portsShow_modPort p s h)

/-- A move out of UP posts LINK_CHANGE. -/
theorem movePort_posts {p : Nat} {st : PortState} {s : State} (up : (portOf s p).state = .up) (ne : st ≠ .up)
    (lanes : Nat) :
    (tgetD (attOf (movePort p st lanes s) 0).entries Att.linkChange attInit).pending = true := by
  unfold movePort
  dsimp only
  rw [up, if_pos (c := _ ∧ _) ⟨Ne.symm ne, by simp [carries]⟩, post_entry]

@[simp] theorem portOf_portDown (p : Nat) (s : State) :
    portOf (portDown p s) p = { linkLost (portOf s p) with state := .down, lanes := 0 } := by
  rw [portDown, portOf_movePort, portOf_modPort]

@[simp] theorem portOf_portTrain (p : Nat) (s : State) : portOf (portTrain p s) p =
    { linkLost (portOf s p) with failed := 0, half := false, state := .training, lanes := 0 } := by
  rw [portTrain, portOf_movePort, portOf_modPort]

@[simp] theorem portOf_portRetrain (p : Nat) (half : Bool) (s : State) : portOf (portRetrain p half s) p =
    { portOf s p with
      half := half, retrains := satAdd 255 (portOf s p).retrains 1, replays := 0, state := .retrain, lanes := 0 } := by
  rw [portRetrain, portOf_movePort, portOf_modPort]

/-! ## Transmission (R292, R293) -/

/-- A port without what its transmitter keeps: credits, sequence numbers, the replay buffer, what waits, the round-robin. -/
def receiverOf (x : Port) : Port :=
  { x with credShared := 0, cred := [], owed := [], txSeq := 0, txOldest := 0, replay := [], replays := 0, txFlits := 0
           txCount := 0, txq := [], deficit := [], turn := 0, sinceM := 0 }

theorem txSend_receivers (p : Nat) (k : TxPkt) (s : State) :
    portsShow receiverOf (txSend p k s) = portsShow receiverOf s := by
  unfold txSend
  cases k.from_ with
  | none => exact portsShow_modPort p s
  | some q =>
    exact (portsShow_modPort q _).trans
      (portsShow_modPort p s)

theorem portDrain_receivers (p n : Nat) (s : State) :
    portsShow receiverOf (portDrain p n s) = portsShow receiverOf s := by
  induction n generalizing s with
  | zero => rfl
  | succ n ih =>
    have sent (k : TxPkt) : portsShow receiverOf (portDrain p n (txSend p k s)) = portsShow receiverOf s :=
      (ih _).trans (txSend_receivers p k s)
    have served (k : TxPkt) (turn : Nat) (deficit : Tbl Nat) : portsShow receiverOf
        (portDrain p n (txSend p k (modPort p (fun x => { x with turn := turn, deficit := deficit }) s))) =
          portsShow receiverOf s :=
      ((ih _).trans (txSend_receivers p k _)).trans (portsShow_modPort p s)
    unfold portDrain
    dsimp only
    split
    · split
      · exact sent _
      · split
        · exact served _ _ _
        · rfl
    · split
      · rfl
      · split
        · exact served _ _ _
        · rfl

theorem drainPort_receivers (p : Nat) (s : State) : portsShow receiverOf (drainPort p s) = portsShow receiverOf s :=
  portDrain_receivers p _ s

theorem enqueue_receivers (p : Nat) (from_ dest : Option Nat) (m : Msg) (s : State) :
    portsShow receiverOf (enqueue p from_ dest m s) = portsShow receiverOf s :=
  (drainPort_receivers p _).trans (portsShow_modPort p s)

theorem sendPort_receivers (p : Nat) (m : Msg) (s : State) :
    portsShow receiverOf (sendPort p m s) = portsShow receiverOf s :=
  enqueue_receivers p none none m s

/-! ## Retry (R295, R296) -/

/-- A legal port in a state that receives flits. -/
abbrev Hears (s : State) (p : Nat) : Prop := portLegal p = true ∧ portHears (portOf s p).state = true

theorem startReplay_covered {p : Nat} {s : State} (covered : (portOf s p).txSeq = (portOf s p).txOldest) (seq : Nat) :
    startReplay p seq s = s :=
  if_pos covered

theorem startReplay_replays {p : Nat} {s : State} (left : (portOf s p).txSeq ≠ (portOf s p).txOldest)
    (few : (portOf s p).replays < 8) (seq : Nat) : startReplay p seq s =
      emit (.replay p seq (portOf s p).txSeq) (modPort p (fun x => { x with replays := x.replays + 1 }) s) :=
  (if_neg left).trans (if_neg (by omega))

theorem startReplay_retrains {p : Nat} {s : State} (left : (portOf s p).txSeq ≠ (portOf s p).txOldest)
    (many : 8 ≤ (portOf s p).replays) (powered : s.mod.phase ≠ .failing) (seq : Nat) :
    startReplay p seq s = portRetrain p (portOf s p).half s :=
  (if_neg left).trans ((if_pos many).trans (if_neg powered))

section Heard
variable {s : State} {p : Nat}

theorem nak_replays (hears : Hears s p) (seq : Nat) : exec (.nak p seq) s = .next (startReplay p seq s) :=
  congrArg Host.Outcome.next (if_pos (by simp [hears]))

theorem replayTimer_replays (hears : Hears s p) :
    exec (.replayTimerExpire p) s = .next (startReplay p (portOf s p).txOldest s) :=
  congrArg Host.Outcome.next (if_pos (by simp [hears]))

theorem helloResend_sends (hears : Hears s p) : exec (.helloResend p) s = .next (sendHello p s) :=
  congrArg Host.Outcome.next (if_pos (by simp [hears]))

/-- A port that receives nothing takes no flit, no NAK and no timer. -/
theorem deaf_ignores (deaf : portHears (portOf s p).state = false) (f : Flit) (crc tag : Bool) (n : Nat) :
    exec (.flitReceive p f crc tag) s = .next s ∧ exec (.nak p n) s = .next s ∧
    exec (.replayTimerExpire p) s = .next s ∧ exec (.helloResend p) s = .next s :=
  ⟨congrArg Host.Outcome.next (if_pos (by simp [deaf])), congrArg Host.Outcome.next (if_neg (by simp [deaf])),
    congrArg Host.Outcome.next (if_neg (by simp [deaf])), congrArg Host.Outcome.next (if_neg (by simp [deaf]))⟩

/-- A flit that fails its CRC is counted and asks for the one expected, once. -/
theorem flitReceive_badCrc (hears : Hears s p) (f : Flit) (tag : Bool) : exec (.flitReceive p f false tag) s =
    .next (sendNak p (modPort p (fun x => { x with crcFails := (x.crcFails + 1) % 2 ^ 64 }) s)) :=
  congrArg Host.Outcome.next ((if_neg (by simp [hears])).trans (if_pos rfl))

/-- A port after the ACK and the credits a flit carries, and what they let it send. -/
def flitAcked (p : Nat) (f : Flit) (s : State) : State :=
  drainPort p (modPort p (fun x => credGive p f.credVc f.credCount (if f.ackValid then takeAck f.ack x else x)) s)

theorem flitAcked_receivers (f : Flit) : portsShow receiverOf (flitAcked p f s) = portsShow receiverOf s := by
  refine (drainPort_receivers p _).trans (portsShow_modPort p s fun x => ?_)
  unfold takeAck
  dsimp only
  split_ifs <;> rfl

theorem flitAcked_rxSeq (f : Flit) : (portOf (flitAcked p f s) p).rxSeq = (portOf s p).rxSeq :=
  portOf_shown Port.rxSeq (flitAcked_receivers f) p

/-- A data flit: the one expected is accepted, an earlier one is a duplicate, a later one asks for the one expected. -/
theorem flitReceive_data (hears : Hears s p) {f : Flit} (data : f.ftype = 1 ∨ f.ftype = 2) (tag : Bool) :
    exec (.flitReceive p f true tag) s = .next (
      if f.seq % 65536 = (portOf s p).rxSeq then acceptFlit p f tag (flitAcked p f s)
      else if ((portOf s p).rxSeq + 65536 - f.seq % 65536) % 65536 < 32768 then flitAcked p f s
      else sendNak p (flitAcked p f s)) := by
  rw [← flitAcked_rxSeq (s := s) f]
  exact congrArg Host.Outcome.next ((if_neg (by simp [hears])).trans ((if_neg (by decide)).trans
    ((if_neg (by omega)).trans ((if_neg (by omega)).trans (if_neg (by omega))))))

theorem flitReceive_expected (hears : Hears s p) {f : Flit} (data : f.ftype = 1 ∨ f.ftype = 2)
    (expected : f.seq % 65536 = (portOf s p).rxSeq) (tag : Bool) :
    exec (.flitReceive p f true tag) s = .next (acceptFlit p f tag (flitAcked p f s)) := by
  rw [flitReceive_data hears data, if_pos expected]

theorem flitReceive_unexpected (hears : Hears s p) {f : Flit} (data : f.ftype = 1 ∨ f.ftype = 2)
    (other : f.seq % 65536 ≠ (portOf s p).rxSeq) (tag : Bool) :
    exec (.flitReceive p f true tag) s = .next (flitAcked p f s) ∨
    exec (.flitReceive p f true tag) s = .next (sendNak p (flitAcked p f s)) := by
  rw [flitReceive_data hears data, if_neg other]
  split_ifs
  · exact .inl rfl
  · exact .inr rfl

end Heard

/-- A NAK leaves in the port that one is out, and nothing else. -/
theorem portOf_sendNak (p : Nat) (s : State) : portOf (sendNak p s) p = { portOf s p with nakOut := true } := by
  unfold sendNak
  dsimp only
  split_ifs with out
  · rw [← out]
  · exact portOf_modPort p _ s

theorem sendNak_out {p : Nat} {s : State} (none : (portOf s p).nakOut = false) :
    (sendNak p s).out = .nak p (portOf s p).rxSeq :: s.out := by
  unfold sendNak
  dsimp only
  rw [if_neg (by simp [none])]
  rfl

/-! ## Accepted flits (R289, R290, R301, R303) -/

/-- Whatever a data flit leads to, no port's expectation moves. -/
abbrev SameExpected (s t : State) : Prop := portsShow Port.rxSeq t = portsShow Port.rxSeq s

theorem freeCredits_expected (p vc n : Nat) (s : State) : SameExpected s (freeCredits p vc n s) :=
  portsShow_modPort p s

theorem routeDrop_expected (p : Nat) (s : State) : SameExpected s (routeDrop p s) :=
  portsShow_modPort p s

theorem portRetrain_expected (p : Nat) (half : Bool) (s : State) : SameExpected s (portRetrain p half s) :=
  (portsShow_movePort p _).trans (portsShow_modPort p s)

theorem enqueue_expected (p : Nat) (from_ dest : Option Nat) (m : Msg) (s : State) :
    SameExpected s (enqueue p from_ dest m s) :=
  portsShow_of (enqueue_receivers p from_ dest m s)

theorem protoError_expected (p : Nat) (s : State) : SameExpected s (protoError p s) := by
  refine Eq.trans ?_ (routeDrop_expected p s)
  unfold protoError
  dsimp only
  split_ifs
  · exact (portRetrain_expected p false _).trans (portsShow_modPort p _)
  · exact portsShow_modPort p _

theorem packetIn_expected (p vc : Nat) (k : RxPkt) (s : State) : SameExpected s (packetIn p vc k s) := by
  refine Eq.trans ?_ (portsShow_modPort (g := fun x => { x with rx := tdel x.rx vc }) p s)
  unfold packetIn
  dsimp only
  split_ifs
  · exact freeCredits_expected p vc _ _
  · exact freeCredits_expected p vc _ _
  · exact (routeDrop_expected p _).trans (freeCredits_expected p vc _ _)
  · split
    · exact enqueue_expected _ _ _ _ _
    · exact (routeDrop_expected p _).trans (freeCredits_expected p vc _ _)

theorem headIn_expected (p vc : Nat) (last : Bool) (pay : List Byte) (s : State) :
    SameExpected s (headIn p vc last pay s) := by
  unfold headIn
  dsimp only
  split_ifs
  · exact ((protoError_expected p _).trans (freeCredits_expected p vc 1 _)).trans
      (portsShow_modPort p s)
  · exact packetIn_expected p vc _ s
  · exact portsShow_modPort p s

theorem bodyIn_expected (p vc : Nat) (last : Bool) (pay : List Byte) (s : State) :
    SameExpected s (bodyIn p vc last pay s) := by
  unfold bodyIn
  split
  · dsimp only
    split_ifs
    · exact packetIn_expected p vc _ s
    · exact portsShow_modPort p s
  · exact freeCredits_expected p vc 1 s

theorem dataIn_expected (p : Nat) (d : Nat × Bool × Bool × List Byte) (s : State) : SameExpected s (dataIn p d s) := by
  unfold dataIn
  split_ifs
  · exact headIn_expected p _ _ _ s
  · exact bodyIn_expected p _ _ _ s

theorem sendAck_expected (p : Nat) (s : State) : SameExpected s (sendAck p s) :=
  portsShow_modPort p s

/-- A port that has counted the flit expected. -/
def flitCounted (p : Nat) (s : State) : State :=
  modPort p (fun x => { x with rxSeq := (x.rxSeq + 1) % 65536, nakOut := false, rxUnacked := x.rxUnacked + 1 }) s

theorem acceptFlit_expected (p : Nat) {f : Flit} (data : f.ftype = 1 ∨ f.ftype = 2) (tag : Bool) (s : State) :
    SameExpected (flitCounted p s) (acceptFlit p f tag s) := by
  unfold acceptFlit
  dsimp only
  rw [if_neg (c := f.ftype = 3) (by omega)]
  split_ifs
  · exact (sendAck_expected p _).trans (portsShow_modPort p _)
  · exact portsShow_modPort p _
  · exact (sendAck_expected p _).trans (dataIn_expected p _ _)
  · exact dataIn_expected p _ _

/-- An accepted data flit moves the expectation on by one. -/
theorem acceptFlit_rxSeq (p : Nat) {f : Flit} (data : f.ftype = 1 ∨ f.ftype = 2) (tag : Bool) (s : State) :
    (portOf (acceptFlit p f tag s) p).rxSeq = ((portOf s p).rxSeq + 1) % 65536 :=
  (congrFun (acceptFlit_expected p data tag s) p).trans (congrArg Port.rxSeq (portOf_modPort p _ s))

/-! ## Lane failures and time limits (R305, R310) -/

theorem retrain_retrains {s : State} {src : Src} {p : Nat} (reaches : srcOpen s src = true) (hears : Hears s p)
    (free : (portOf s p).state ≠ .secureFailed) (powered : s.mod.phase ≠ .failing) :
    exec (.retrain src p) s = .next (portRetrain p false (modPort p (fun x => { x with failed := 0 }) s)) :=
  congrArg Host.Outcome.next ((if_pos (by simp [reaches, hears])).trans
    (if_pos (by simp [canRetrain, hears, free, powered])))

theorem retrain_secureFailed {s : State} {p : Nat} (failed : (portOf s p).state = .secureFailed) (src : Src) :
    exec (.retrain src p) s = .next s := by
  have stays : retrainNow p s = s := if_neg (by simp [failed])
  exact congrArg Host.Outcome.next (by rw [stays, ite_self])

/-- One lane lies in one half. -/
theorem bitsOf_two_pow_half (i n : Nat) : bitsOf (2 ^ i) 0 n = 0 ∨ bitsOf (2 ^ i) n n = 0 := by
  unfold bitsOf
  rcases Nat.lt_or_ge i n with low | high
  · right
    rw [Nat.div_eq_of_lt (Nat.pow_lt_pow_right Nat.one_lt_two low), Nat.zero_mod]
  · left
    rw [pow_zero, Nat.div_one]
    exact Nat.mod_eq_zero_of_dvd (Nat.pow_dvd_pow 2 high)

theorem setBit_zero (i : Nat) : setBit 0 i = 2 ^ i := by simp [setBit, bitOf]

/-- The port with the lane marked failed. -/
def laneMarked (p lane : Nat) (s : State) : State := modPort p (fun x => { x with failed := setBit x.failed lane }) s

section Lane
variable {s : State} {p lane : Nat} (legal : portLegal p = true) (known : lane < portLanes p)
  (up : (portOf s p).state = .up)
include legal known up

theorem laneFailure_down (whole : (portOf s p).allowDegraded = false) :
    exec (.laneFailure p lane) s = .next (portDown p (laneMarked p lane s)) := by
  refine congrArg Host.Outcome.next ((if_neg (by simp [legal, known, up])).trans (if_pos ?_))
  simp [whole]

/-- A first failed lane leaves a whole half: the port retrains at half width. -/
theorem laneFailure_retrains (clean : (portOf s p).failed = 0) (halves : (portOf s p).allowDegraded = true)
    (powered : s.mod.phase ≠ .failing) :
    exec (.laneFailure p lane) s = .next (portRetrain p true (laneMarked p lane s)) := by
  have half : ¬ (halfFailed p (portOf (laneMarked p lane s) p) false &&
      halfFailed p (portOf (laneMarked p lane s) p) true) := by
    rw [laneMarked, portOf_modPort, clean, setBit_zero]
    rcases bitsOf_two_pow_half lane (portLanes p / 2) with low | high
    · simp [halfFailed, low]
    · simp [halfFailed, high]
  refine congrArg Host.Outcome.next ((if_neg (by simp [legal, known, up])).trans
    ((if_neg ?_).trans ((if_neg (by simp [up])).trans (if_neg powered))))
  rw [Bool.or_eq_true]
  exact not_or.mpr ⟨by simp [halves], half⟩

end Lane

theorem retrainLimit_down {s : State} {p : Nat} (legal : portLegal p = true) (retrains : (portOf s p).state = .retrain) :
    exec (.retrainLimitExpire p) s = .next (portDown p s) :=
  congrArg Host.Outcome.next ((if_neg (by simp [legal])).trans (if_pos retrains))

theorem retrainLimit_givesUp {s : State} {p : Nat} (legal : portLegal p = true)
    (trains : (portOf s p).state = .training ∨ (portOf s p).state = .hello) :
    exec (.retrainLimitExpire p) s = .next (giveUp p s) :=
  congrArg Host.Outcome.next ((if_neg (by simp [legal])).trans
    ((if_neg (by rcases trains with st | st <;> simp [st])).trans (if_pos trains)))

theorem trainingAttempt_trains {s : State} {p : Nat} (legal : portLegal p = true) (may : portMay s p = true)
    (rests : (portOf s p).state = .down ∨ (portOf s p).state = .disabled) (clocked : 2 ≤ s.clk.milestone)
    (good : s.mod.phase = .good) : exec (.trainingAttempt p) s = .next (portTrain p s) :=
  congrArg Host.Outcome.next (if_pos (by simp [legal, may, rests, clocked, good]))

theorem trainingAttempt_barred {s : State} {p : Nat} (barred : portMay s p = false) :
    exec (.trainingAttempt p) s = .next s :=
  congrArg Host.Outcome.next (if_neg (by simp [barred]))

theorem trainingComplete_greets {s : State} {p : Nat} (legal : portLegal p = true)
    (trains : (portOf s p).state = .training) :
    exec (.trainingComplete p) s = .next (sendHello p
      (movePort p .hello (if (portOf s p).half then portLanes p / 2 else portLanes p) s)) :=
  congrArg Host.Outcome.next (if_pos (by simp [legal, trains]))

/-! ## The cabling check (R307 to R309) -/

theorem portOf_storeCheck (p : Nat) (s : State) : portOf (storeCheck p s) p =
    { portOf s p with check := checkResult s p, checked := true, planDue := false } := by
  unfold storeCheck
  dsimp only
  split_ifs
  · rw [portOf_post, portOf_modPort]
  · exact portOf_modPort p _ s

theorem portOf_storeCheck_ne {p q : Nat} (ne : q ≠ p) (s : State) : portOf (storeCheck p s) q = portOf s q := by
  unfold storeCheck
  dsimp only
  split_ifs
  · rw [portOf_post, portOf_modPort_ne _ _ ne]
  · exact portOf_modPort_ne _ s ne

/-- A port without the result of its check. -/
def uncheckedOf (x : Port) : Port := { x with check := 0, checked := false, planDue := false }

theorem storeCheck_unchecked (p : Nat) (s : State) : portsShow uncheckedOf (storeCheck p s) = portsShow uncheckedOf s := by
  funext q
  by_cases own : q = p
  · subst own
    exact (congrArg uncheckedOf (portOf_storeCheck q s)).trans rfl
  · exact congrArg uncheckedOf (portOf_storeCheck_ne own s)

/-- The check changes of a port nothing but its result. -/
theorem cableCheck_unchecked (p : Nat) (s : State) : portsShow uncheckedOf (cableCheck p s) = portsShow uncheckedOf s := by
  refine foldl_kept (portsShow uncheckedOf) (fun t q => ?_) _ s
  split_ifs
  · exact storeCheck_unchecked q t
  · rfl

/-- What every step keeps and one step brings about holds after the fold. -/
theorem foldl_reaches {σ β : Type} {P : σ → Prop} {f : σ → β → σ} {b : β} (keeps : ∀ x c, P x → P (f x c))
    (reaches : ∀ x, P (f x b)) {l : List β} (mem : b ∈ l) (x : σ) : P (l.foldl f x) := by
  obtain ⟨before, after, rfl⟩ := List.append_of_mem mem
  rw [List.foldl_append, List.foldl_cons]
  exact List.foldlRecOn after f (reaches _) fun y hy c _ => keeps y c hy

/-- The check of a port has run and no change of its plan waits. -/
def PlanChecked (p : Nat) (s : State) : Prop := (portOf s p).planDue = false ∧ (portOf s p).checked = true

theorem storeCheck_checks (p : Nat) (s : State) : PlanChecked p (storeCheck p s) := by
  unfold PlanChecked
  rw [portOf_storeCheck]
  exact ⟨rfl, rfl⟩

theorem storeCheck_planChecked {p : Nat} {s : State} (h : PlanChecked p s) (q : Nat) : PlanChecked p (storeCheck q s) := by
  by_cases own : p = q
  · subst own
    exact storeCheck_checks p s
  · unfold PlanChecked
    rwa [portOf_storeCheck_ne own s]

theorem cableCheck_checks {p : Nat} (legal : portLegal p = true) (s : State) : PlanChecked p (cableCheck p s) := by
  refine foldl_reaches (fun t q h => ?_) (fun t => ?_) (List.mem_range.mpr (of_decide_eq_true legal)) s
  · split_ifs
    · exact storeCheck_planChecked h q
    · exact h
  · rw [if_pos (by simp)]
    exact storeCheck_checks p t

theorem planChangeCheck_checks {s : State} {p : Nat} (legal : portLegal p = true) (due : (portOf s p).planDue = true) :
    exec (.planChangeCheck p) s = .next (cableCheck p s) :=
  congrArg Host.Outcome.next (if_pos (by simp [legal, due]))

theorem planChangeCheck_idle {s : State} {p : Nat} (still : (portOf s p).planDue = false) :
    exec (.planChangeCheck p) s = .next s :=
  congrArg Host.Outcome.next (if_neg (by simp [still]))

/-- A port that gives up is DOWN with no peer. -/
theorem giveUp_port (p : Nat) (s : State) :
    (portOf (giveUp p s) p).state = .down ∧ (portOf (giveUp p s) p).peer = none := by
  rw [giveUp, portOf_shown Port.state (cableCheck_unchecked p _) p, portOf_shown Port.peer (cableCheck_unchecked p _) p,
    portOf_modPort, portOf_portDown]
  exact ⟨rfl, rfl⟩

/-! ## HELLO (R306) -/

/-- The state a port enters after HELLO or a retrain. -/
def enteredState (s : State) (p : Nat) : PortState :=
  if confidential s && !(portOf s p).secured then .secureWait else if (portOf s p).half then .degraded else .up

theorem enterUp_drains (p : Nat) (s : State) : enterUp p s = drainPort p (movePort p (enteredState s p)
    (if (portOf s p).half then portLanes p / 2 else portLanes p)
    (modPort p (fun x => { x with credShared := credSharedMax p, cred := credFull p }) s)) := rfl

theorem enterUp_port (p : Nat) (s : State) :
    (portOf (enterUp p s) p).state = enteredState s p ∧ (portOf (enterUp p s) p).peer = (portOf s p).peer := by
  rw [enterUp_drains, portOf_shown Port.state (drainPort_receivers p _) p,
    portOf_shown Port.peer (drainPort_receivers p _) p, portOf_movePort, portOf_modPort]
  exact ⟨rfl, rfl⟩

/-- A retrain that succeeds enters its state, and then replays what is unacknowledged. -/
theorem retrainComplete_enters {s : State} {p : Nat} (legal : portLegal p = true)
    (retrains : (portOf s p).state = .retrain) : Runs (.retrainComplete p) s fun t => t.lnk = (enterUp p s).lnk ∧
      t.mod = (enterUp p s).mod := by
  refine ⟨_, congrArg Host.Outcome.next (if_pos (by simp [legal, retrains])), ?_⟩
  dsimp only
  split_ifs <;> exact ⟨rfl, rfl⟩

/-- A port without its handshake and its transmitter. -/
def unshakenOf (x : Port) : Port :=
  { receiverOf x with hs := .idle, hsEph := 0, hsOffers := ([], []), hsProofs := ([], []), hsFinish := [] }

theorem sealLog_ports (op reason index detail : Nat) (s : State) :
    portsShow unshakenOf (sealLog op reason index detail s) = portsShow unshakenOf s :=
  have only := (sealLog_keeps (keeps_refl _ s) (sub_refl _) op reason index detail).only
  portsShow_congr (only.lnk rfl) (only.mod rfl)

theorem tookFree_ports (s : State) : portsShow unshakenOf (tookFree s) = portsShow unshakenOf s := rfl

theorem hsOffer_ports (p : Nat) (s : State) : portsShow unshakenOf (hsOffer p s) = portsShow unshakenOf s := by
  unfold hsOffer
  dsimp only
  split_ifs
  · exact (sealLog_ports 0 8 0 p _).trans (portsShow_modPort p s)
  · exact ((portsShow_of (sendPort_receivers p _ _)).trans (tookFree_ports _)).trans (portsShow_modPort p s)

theorem hsBegin_ports (p : Nat) (s : State) : portsShow unshakenOf (hsBegin p s) = portsShow unshakenOf s := by
  unfold hsBegin
  dsimp only
  split_ifs
  · exact hsOffer_ports p s
  · rfl

/-- The state with a peer stored in a port and the cabling checked. -/
def peerStored (p : Nat) (a : Peer) (s : State) : State := cableCheck p (modPort p (fun x => { x with peer := some a }) s)

/-- The peer is stored, and what the check does not decide stays. -/
theorem peerStored_shown {α : Type} (f : Port → α) (p : Nat) (a : Peer) (s : State)
    (h : ∀ x, f (uncheckedOf x) = f x := by intro _; rfl) :
    f (portOf (peerStored p a s) p) = f { portOf s p with peer := some a } := by
  rw [peerStored, portOf_shown f (cableCheck_unchecked p _) p h, portOf_modPort]

theorem peerStored_confidential (p : Nat) (a : Peer) (s : State) : confidential (peerStored p a s) = confidential s :=
  confidential_congr (congrArg SecState.session
    ((cableCheck_keeps (modPort_keeps (keeps_refl 0x1008000 s) rfl p _) rfl p).only.sec rfl))

/-- The state with the port's HELLO exchange, where one runs, ended. -/
def helloTaken (p : Nat) (s : State) : State := if (portOf s p).state = .hello then enterUp p s else s

theorem helloTaken_peer (p : Nat) (s : State) : (portOf (helloTaken p s) p).peer = (portOf s p).peer := by
  unfold helloTaken
  split_ifs
  · exact (enterUp_port p s).2
  · rfl

/-- In shared mode, HELLO ends the exchange of a port at full width in UP. -/
theorem hello_enters {s : State} {p : Nat} (waits : (portOf s p).state = .hello) (shared : confidential s = false)
    (full : (portOf s p).half = false) (a : Peer) : (portOf (helloTaken p (peerStored p a s)) p).state = .up := by
  have greets := (peerStored_shown Port.state p a s).trans waits
  have wide := (peerStored_shown Port.half p a s).trans full
  rw [helloTaken, if_pos greets, (enterUp_port p _).1, enteredState, peerStored_confidential, shared, wide]
  rfl

theorem hello_takes {s : State} {p : Nat} (hears : Hears s p) (node pp serial role : Nat) (conf : Bool) (digest : Nat) :
    exec (.hello p node pp serial role conf digest) s = .next (hsBegin p (helloTaken p (peerStored p
      { node := node, port := pp, serial := serial, role := role, conf := conf, digest := digest } s))) :=
  congrArg Host.Outcome.next (if_pos (by simp [hears]))

/-! ## Stalled packets (R303) -/

theorem transitStall_drops {s : State} {p q vc : Nat} {k : TxPkt} (legal : portLegal p = true)
    (oldest : (portOf s p).txq.find? (fun k => k.vc = vc) = some k) (transit : k.from_ = some q)
    (stuck : vcReady s p (portOf s p) vc = none) : exec (.transitStallExpire p vc) s =
      .next (routeDrop q (freeCredits q vc k.flits (modPort p (fun x => { x with txq := x.txq.erase k }) s))) := by
  refine congrArg Host.Outcome.next ((if_neg (by simp [legal])).trans ?_)
  rw [oldest]
  dsimp only
  rw [transit]
  dsimp only
  rw [stuck]
  rfl

/-! ## Routing entries (R302, Table 11-15) -/

theorem routeWrite_puts {s : State} {src : Src} (reaches : srcOpen s src = true) (port : bitsOf s.lnk.entry 48 5 < 23)
    (used : s.lnk.entry ≠ 0) : exec (.routeWrite src) s = .next (modLnk (fun l => { l with
      routes := tput l.routes (s.lnk.table * 65536 + s.lnk.index) s.lnk.entry }) s) := by
  refine congrArg Host.Outcome.next ((if_pos reaches).trans ((if_pos (by simp [entryLegal, port])).trans ?_))
  unfold putRoute
  simp only [if_neg used]

theorem routeWrite_illegal {s : State} (big : 23 ≤ bitsOf s.lnk.entry 48 5) (kept : bitsOf s.lnk.entry 48 5 ≠ 31)
    (src : Src) : exec (.routeWrite src) s = .next s := by
  have stays : routeWrite s = s := if_neg (by simp [entryLegal, kept]; omega)
  exact congrArg Host.Outcome.next (by rw [stays, ite_self])

/-- Settles O26: retry by `startReplay_replays`, `startReplay_retrains` and `acceptFlit_rxSeq`, a port's moves by
`portOf_portDown`, `portOf_portTrain` and `portOf_portRetrain`, HELLO by `hello_enters` (log 38: UP follows HELLO whatever the
check says, and the training limit forgets the peer), the check by `cableCheck_checks`, a stalled packet by
`transitStall_drops` (log 39: a transit packet goes whole, its drop counted where it was routed). -/
theorem linkCommands : Obligations.LinkCommands := by
  refine ⟨?badCrc, fun s p f crc tag n deaf => deaf_ignores deaf f crc tag n, ?unexpected,
    fun s p f tag hears data expected => ⟨_, flitReceive_expected hears data expected tag,
      (acceptFlit_rxSeq p data tag _).trans (by rw [flitAcked_rxSeq])⟩,
    ?replays, ?replaysSpent, ?covered, ?retrains, fun s src p failed => retrain_secureFailed failed src, ?laneHalf,
    ?laneDown, ?retrained, ?retrainLimit,
    fun s p legal trains => ⟨_, retrainLimit_givesUp legal trains, giveUp_port p s⟩, ?trains,
    fun s p barred => trainingAttempt_barred barred, ?trained, ?hello, fun s p hears => helloResend_sends hears,
    fun s p legal due => ⟨_, planChangeCheck_checks legal due, cableCheck_checks legal s⟩,
    fun s p still => planChangeCheck_idle still, ?stalled, ?routeWritten,
    fun s src big kept => routeWrite_illegal big kept src,
    fun s src reaches => congrArg Host.Outcome.next (if_pos reaches)⟩
  case badCrc =>
    intro s p f tag hears quiet
    have counted := portOf_modPort p (fun x => { x with crcFails := (x.crcFails + 1) % 2 ^ 64 }) s
    refine ⟨_, flitReceive_badCrc hears f tag, ?_, ?_⟩
    · rw [portOf_sendNak, counted]
    · rw [sendNak_out (by rw [counted]; exact quiet), counted]
      rfl
  case unexpected =>
    intro s p f tag hears data other
    have rxSeq := flitAcked_rxSeq (s := s) (p := p) f
    have rx := portOf_shown Port.rx (flitAcked_receivers (s := s) (p := p) f) p
    have state := portOf_shown Port.state (flitAcked_receivers (s := s) (p := p) f) p
    rcases flitReceive_unexpected hears data other tag with dup | early
    · exact ⟨_, dup, rxSeq, rx, state⟩
    · refine ⟨_, early, ?_⟩
      beta_reduce
      rw [portOf_sendNak]
      exact ⟨rxSeq, rx, state⟩
  case replays =>
    intro c s p hears left few which
    have starts : exec c s = .next (startReplay p (portOf s p).txOldest s) := by
      rcases which with rfl | rfl
      · exact nak_replays hears _
      · exact replayTimer_replays hears
    rw [startReplay_replays left few] at starts
    exact ⟨_, starts, portOf_modPort p _ s, rfl⟩
  case replaysSpent =>
    intro s p hears left many powered
    refine ⟨_, (replayTimer_replays hears).trans (congrArg _ (startReplay_retrains left many powered _)), ?_⟩
    beta_reduce
    rw [portOf_portRetrain]
    exact ⟨rfl, rfl⟩
  case covered =>
    intro s p n hears covered
    exact ⟨(nak_replays hears n).trans (congrArg _ (startReplay_covered covered n)),
      (replayTimer_replays hears).trans (congrArg _ (startReplay_covered covered _))⟩
  case retrains =>
    intro s src p reaches hears free powered
    refine ⟨_, retrain_retrains reaches hears free powered, ?_⟩
    beta_reduce
    rw [portOf_portRetrain, portOf_modPort]
    exact ⟨rfl, rfl, rfl, rfl⟩
  case laneHalf =>
    intro s p lane legal known up clean halves powered
    refine ⟨_, laneFailure_retrains legal known up clean halves powered, ?_⟩
    beta_reduce
    rw [portOf_portRetrain, laneMarked, portOf_modPort, clean, setBit_zero]
    exact ⟨rfl, rfl, rfl⟩
  case laneDown =>
    intro s p lane legal known up whole
    refine ⟨_, laneFailure_down legal known up whole, ?_⟩
    beta_reduce
    rw [portOf_portDown]
    refine ⟨rfl, rfl, rfl, movePort_posts ?_ (by decide) 0⟩
    rw [portOf_modPort, laneMarked, portOf_modPort]
    exact up
  case retrained =>
    intro s p legal retrains
    obtain ⟨t, runs, lnk, mod⟩ := retrainComplete_enters legal retrains
    exact ⟨t, runs, (congrArg Port.state (portOf_congr lnk mod p)).trans (enterUp_port p s).1⟩
  case retrainLimit =>
    intro s p legal retrains
    exact ⟨_, retrainLimit_down legal retrains, congrArg Port.state (portOf_portDown p s)⟩
  case trains =>
    intro s p legal may rests clocked good
    refine ⟨_, trainingAttempt_trains legal may rests clocked good, ?_⟩
    beta_reduce
    rw [portOf_portTrain]
    exact ⟨rfl, rfl, rfl⟩
  case trained =>
    intro s p legal trains
    refine ⟨_, trainingComplete_greets legal trains, ?_⟩
    beta_reduce
    rw [sendHello, portOf_shown Port.state (sendPort_receivers p _ _) p,
      portOf_shown Port.lanes (sendPort_receivers p _ _) p, portOf_movePort]
    exact ⟨rfl, rfl⟩
  case hello =>
    intro s p node pp serial role conf digest hears
    refine ⟨_, hello_takes hears node pp serial role conf digest, ?peer, ?enters⟩
    case peer =>
      rw [portOf_shown Port.peer (hsBegin_ports p _) p, helloTaken_peer, peerStored_shown Port.peer]
    case enters =>
      intro waits shared full
      exact (portOf_shown Port.state (hsBegin_ports p _) p).trans (hello_enters waits shared full _)
  case stalled =>
    intro s p q vc k legal oldest transit ne stuck
    refine ⟨_, transitStall_drops legal oldest transit stuck, ?_, ?_⟩
    · rw [routeDrop, portOf_modPort_ne _ _ ne.symm, freeCredits, portOf_modPort_ne _ _ ne.symm, portOf_modPort]
    · rw [routeDrop, portOf_modPort, freeCredits, portOf_modPort, portOf_modPort_ne _ _ ne]
  case routeWritten =>
    intro s src reaches port used
    exact ⟨_, routeWrite_puts reaches port used, tget_tput_same _ _ _,
      (modLnk_keeps (keeps_refl _ s) (sub_refl _) _).only⟩

end Sys2Proof.Proofs
end

section
/-!
Domains and candidates (chapter 12): domain numbers (R315), the order of candidates (R317) and BEACON (R318, R319).
-/
namespace Sys2Proof.Proofs
open Sys2Proof.Machine Sys2Proof.Laws

/-! ## Domains (R315) -/

/-- The slots of a board lie in one domain. -/
theorem domainOf_slot {slot : Nat} (legal : slot < 16) (board : Nat) : domainOf (board * 16 + slot) = board / 64 := by
  unfold domainOf
  omega

theorem domainOf_eq_iff (D node : Nat) : domainOf node = D ↔ 1024 * D ≤ node ∧ node < 1024 * D + 1024 := by
  unfold domainOf
  omega

theorem bitsOf_node {node : Nat} (legal : node < 2 ^ 24) : bitsOf node 10 14 = domainOf node :=
  Nat.mod_eq_of_lt (show node / 2 ^ 10 < 2 ^ 14 by omega)

/-- Bits 19:6 of a board ID are all of it above its low six bits. -/
theorem bitsOf_board {board : Nat} (legal : board < 2 ^ 20) : bitsOf board 6 14 = board / 64 :=
  Nat.mod_eq_of_lt (by omega)

theorem nodeId_strapNotices (role board : Nat) (s : State) : nodeId (strapNotices role board s) = nodeId s := by
  simp [nodeId]

/-- Settles O54: a domain number is the board ID without its low six bits (`domainOf_slot`), and the straps give the board
and the slot of the node ID (`strapSample_charged`). -/
theorem domainNumber : Obligations.DomainNumber := by
  refine ⟨fun node legal => (bitsOf_node legal).symm, ?straps, ?boards, fun D node => domainOf_eq_iff D node,
    ?low, ?every, ?sampled⟩
  case straps =>
    intro s slot board
    refine ⟨by unfold nodeId; omega, ?_⟩
    rw [nodeId, domainOf_slot slot, bitsOf_board board]
  case boards =>
    intro D board slot legal
    rw [domainOf_slot legal]
    omega
  case low =>
    intro board slot small legal
    rw [domainOf_slot legal]
    omega
  case every =>
    intro D small
    refine ⟨64 * D, by omega, fun slot legal => ?_⟩
    rw [domainOf_slot legal]
    omega
  case sampled =>
    intro s role slot board charged
    have node : nodeId (strapNotices (role % 4) (board % 2 ^ 20) (strapsTaken (role % 4) slot (board % 2 ^ 20) s)) =
        board % 2 ^ 20 * 16 + slot % 16 := nodeId_strapNotices _ _ _
    refine ⟨_, strapSample_charged charged role slot board, node, ?_⟩
    rw [node, domainOf_slot (Nat.mod_lt _ (by decide)), bitsOf_board (Nat.mod_lt _ (by decide))]

/-! ## The order of candidates (R317) -/

theorem pairBeats_iff (a b : Nat × Nat) : pairBeats a b = true ↔ b.1 < a.1 ∨ a.1 = b.1 ∧ b.2 < a.2 := by
  simp [pairBeats]

theorem pairBeats_self (a : Nat × Nat) : pairBeats a a = false := by
  simp [pairBeats]

/-- Of two different pairs exactly one beats the other. -/
theorem pairBeats_swap {a b : Nat × Nat} (ne : a ≠ b) : pairBeats a b = !pairBeats b a := by
  have parts : ¬(a.1 = b.1 ∧ a.2 = b.2) := fun same => ne (Prod.ext same.1 same.2)
  rw [Bool.eq_iff_iff, Bool.not_eq_true', ← Bool.not_eq_true, pairBeats_iff, pairBeats_iff]
  omega

theorem pairBeats_ne {a b : Nat × Nat} (beats : pairBeats a b = true) : a ≠ b := by
  rintro rfl
  simp [pairBeats_self] at beats

theorem pairBeats_asymm {a b : Nat × Nat} (beats : pairBeats b a = true) : pairBeats a b = false := by
  rw [pairBeats_swap (pairBeats_ne beats).symm, beats]
  rfl

/-- PRIORITY is the low field of WMK_MGR_CFG, which shows the applied set-up while none is pending (R9, Table 12-9). -/
theorem regRead_mgrCfg_prio {s : State} (applied : s.wmk.cfgPend = none) (legal : s.wmk.cfg.prio < 16) :
    regRead s .wmkMgrCfg % 16 = s.wmk.cfg.prio := by
  simp only [regRead, readWmk, wordOf, fieldAt, applied, Option.getD_none, List.map_cons, List.map_nil, List.sum_cons,
    List.sum_nil]
  omega

/-! ## What sending leaves -/

theorem sendTo_only (node : Nat) (m : Msg) (s : State) : Only 0x1000001 s (sendTo node m s) :=
  (sendTo_keeps (keeps_refl _ s) (sub_refl _) node m).only

theorem sendAll_only (nodes : List Nat) (m : Msg) (s : State) : Only 0x1000001 s (sendAll nodes m s) :=
  (sendAll_keeps (keeps_refl _ s) (sub_refl _) nodes m).only

@[simp] theorem sendTo_wmk (node : Nat) (m : Msg) (s : State) : (sendTo node m s).wmk = s.wmk :=
  (sendTo_only node m s).wmk rfl

@[simp] theorem sendAll_wmk (nodes : List Nat) (m : Msg) (s : State) : (sendAll nodes m s).wmk = s.wmk :=
  (sendAll_only nodes m s).wmk rfl

@[simp] theorem sendAll_cmd (nodes : List Nat) (m : Msg) (s : State) : (sendAll nodes m s).cmd = s.cmd :=
  (sendAll_only nodes m s).cmd rfl

theorem attOf_congr {s t : State} (cmd : t.cmd = s.cmd) (fn : Nat) : attOf t fn = attOf s fn := by
  unfold attOf
  rw [cmd]

/-- A change of WMK alone. -/
theorem modWmk_only (f : WmkState → WmkState) (s : State) : Only (partMask [.wmk]) s (modWmk f s) :=
  (modWmk_keeps (keeps_refl _ s) (sub_refl _) f).only

theorem modWmk_twice_only (f g : WmkState → WmkState) (s : State) : Only (partMask [.wmk]) s (modWmk f (modWmk g s)) :=
  only_trans (modWmk_only g s) (modWmk_only f _)

/-! ## BEACON (R318, R319) -/

/-- A listed node that is not the chip itself. -/
abbrev Other (s : State) (node : Nat) : Prop := listed s node = true ∧ node ≠ nodeId s

/-- The chip has noted a rival's term and pair. -/
def heardPair (node : Nat) (pair : Nat × Nat) (term : Nat) (s : State) : State :=
  modWmk (fun w => { w with term := max w.term (term % 2 ^ 32), heard := tput w.heard node pair }) s

theorem meetPair_better {pair : Nat × Nat} {s : State} (beats : pairBeats pair (ownPair s) = true) (node : Nat) :
    meetPair node pair s = modWmk (fun w => { w with beaconing := false }) s :=
  (if_neg (pairBeats_ne beats)).trans (if_pos beats)

theorem meetPair_worse {pair : Nat × Nat} {s : State} (ne : pair ≠ ownPair s)
    (loses : pairBeats pair (ownPair s) = false) (node : Nat) : meetPair node pair s = s :=
  (if_neg ne).trans (if_neg (by simp [loses]))

/-- Equal pairs hold the election, and the PF hears of it. -/
theorem meetPair_equal (node : Nat) (s : State) : (meetPair node (ownPair s) s).wmk =
      { s.wmk with role := .held, beaconing := true, rival := some node } ∧
    (tgetD (attOf (meetPair node (ownPair s) s) 0).entries Att.cableMismatch attInit).pending = true := by
  rw [meetPair, if_pos rfl]
  exact ⟨post_wmk .., by rw [post_entry]⟩

/-- A chip that has just entered the election goes on beaconing unless the pair it meets beats its own. -/
theorem meetPair_entered {pair : Nat × Nat} {s : State} (ne : pair ≠ ownPair s) (node : Nat) :
    (meetPair node pair (startElection s)).wmk.role = .candidate ∧
    (meetPair node pair (startElection s)).wmk.rival = none ∧
    (meetPair node pair (startElection s)).wmk.beaconing = !pairBeats pair (ownPair s) := by
  cases beats : pairBeats pair (ownPair s) with
  | true =>
    rw [meetPair_better (s := startElection s) beats]
    exact ⟨rfl, rfl, rfl⟩
  | false =>
    rw [meetPair_worse (s := startElection s) ne beats]
    exact ⟨rfl, rfl, rfl⟩

section Beacon
variable {s : State} {n : Nat}

theorem beacon_unlisted (unlisted : listed s n = false) (port a b term : Nat) (held : Bool) :
    exec (.beacon port n a b term held) s = .next (routeDrop port s) :=
  congrArg Host.Outcome.next (if_pos (by simp [unlisted]))

theorem beacon_candidate (other : Other s n) (role : s.wmk.role = .candidate) (port a b term : Nat) (held : Bool) :
    exec (.beacon port n a b term held) s = .next (meetPair n (a, b) (heardPair n (a, b) term s)) :=
  congrArg Host.Outcome.next ((if_neg (by simp [other])).trans
    ((if_neg (by simp [role])).trans (if_pos (by simpa using role))))

/-- The rival's change frees a held candidate, which meets the new pair as one that has just entered the election. -/
theorem beacon_frees (other : Other s n) (role : s.wmk.role = .held) (rival : s.wmk.rival = some n) {a b : Nat}
    (ne : (a, b) ≠ ownPair s) (port term : Nat) : exec (.beacon port n a b term false) s =
      .next (meetPair n (a, b) (startElection (heardPair n (a, b) term s))) :=
  congrArg Host.Outcome.next ((if_neg (by simp [other])).trans
    ((if_pos (by simpa using role)).trans (if_pos ⟨rival, ne, by simp⟩)))

theorem beaconTimer_sends (sends : s.wmk.role = .candidate ∧ s.wmk.beaconing = true ∨ s.wmk.role = .held) :
    exec .beaconTimer s = .next (sendAll (otherCands s) (.ctl 0x03 1
      [s.wmk.cfg.prio, Config.serial.toNat, s.wmk.term, if s.wmk.role = .held then 1 else 0]) s) := by
  refine congrArg Host.Outcome.next ((if_pos (by simpa using sends)).trans ?_)
  simp [ownPair, bitAt]

theorem beaconTimer_still (out : s.wmk.role = .active ∨ s.wmk.role = .standby ∨ s.wmk.role = .worker) :
    exec .beaconTimer s = .next s :=
  congrArg Host.Outcome.next (if_neg (by rcases out with h | h | h <;> simp [h]))

theorem beacon_better (other : Other s n) (role : s.wmk.role = .candidate) {a b : Nat}
    (beats : pairBeats (a, b) (ownPair s) = true) (port term : Nat) (held : Bool) :
    exec (.beacon port n a b term held) s =
      .next (modWmk (fun w => { w with beaconing := false }) (heardPair n (a, b) term s)) :=
  (beacon_candidate other role port a b term held).trans (congrArg Host.Outcome.next
    (meetPair_better (s := heardPair n (a, b) term s) beats n))

theorem beacon_worse (other : Other s n) (role : s.wmk.role = .candidate) {a b : Nat} (ne : (a, b) ≠ ownPair s)
    (loses : pairBeats (a, b) (ownPair s) = false) (port term : Nat) (held : Bool) :
    exec (.beacon port n a b term held) s = .next (heardPair n (a, b) term s) :=
  (beacon_candidate other role port a b term held).trans (congrArg Host.Outcome.next
    (meetPair_worse (s := heardPair n (a, b) term s) ne loses n))

end Beacon

/-- Settles O53: the order by `pairBeats_iff`, the chip's own pair by `regRead_mgrCfg_prio`, a BEACON by
`beacon_better` and `beacon_worse`. -/
theorem candidateOrder : Obligations.CandidateOrder := by
  refine ⟨pairBeats_iff, fun a b ne => pairBeats_swap ne, pairBeats_self, ?own, fun s p => ⟨_, rfl⟩, ?beacon⟩
  case own =>
    intro s applied legal
    rw [regRead_mgrCfg_prio applied legal]
    rfl
  case beacon =>
    intro s port n a b term held known ne role differs
    cases beats : pairBeats (a, b) (ownPair s) with
    | true => exact ⟨_, beacon_better ⟨known, ne⟩ role beats port term held, role, rfl⟩
    | false => exact ⟨_, beacon_worse ⟨known, ne⟩ role differs beats port term held, role, rfl⟩

end Sys2Proof.Proofs
end

section
/-!
The manager of a domain (chapter 12): the election, announcing, the standby, health and the plan (R318 to R323, R331 to R334).
-/
namespace Sys2Proof.Proofs
open Sys2Proof.Machine Sys2Proof.Laws

/-! ## The active manager (R318, R321, R331, R332) -/

/-- WMK of a chip that has become ACTIVE and announced itself. -/
def activeWmk (takeover : Bool) (s : State) : WmkState :=
  { s.wmk with role := .active, beaconing := false, term := (s.wmk.term + 1) % 2 ^ 32, announces := 1, takeover := takeover
               manager := some (nodeId s), lossPosted := false, takeovers := satAdd 255 s.wmk.takeovers 1
               standby := bestHeard s }

theorem announce_wmk (takeover : Bool) (s : State) : (announce takeover s).wmk =
    { s.wmk with standby := bestHeard s, announces := min 10 (s.wmk.announces + 1) } :=
  sendAll_wmk _ _ _

@[simp] theorem announce_cmd (takeover : Bool) (s : State) : (announce takeover s).cmd = s.cmd :=
  sendAll_cmd _ _ _

theorem announce_only (takeover : Bool) (s : State) : Only (partMask [.wmk, .lnk, .out]) s (announce takeover s) :=
  (announce_keeps (keeps_refl _ s) (sub_refl _) takeover).only

/-- MANAGER_CHANGE is pending for the PF. -/
abbrev ManagerPosted (s : State) : Prop := (tgetD (attOf s 0).entries Att.managerChange attInit).pending = true

theorem postManager_posts (node cause : Nat) (s : State) : ManagerPosted (postManager node cause s) := by
  rw [ManagerPosted, postManager, post_entry]

theorem newManager_wmk (node cause : Nat) (s : State) : (newManager node cause s).wmk = { s.wmk with
    manager := some node, lossPosted := false, takeovers := satAdd 255 s.wmk.takeovers 1 } :=
  post_wmk _ _ _ _ _

/-- The state of a chip that is ACTIVE and has named itself manager, before its ANNOUNCE. -/
def seated (takeover : Bool) (s : State) : State :=
  newManager (nodeId s) (if takeover then 1 else 0) (modWmk (fun w => { w with
    role := .active, beaconing := false, term := (w.term + 1) % 2 ^ 32, announces := 0, takeover := takeover }) s)

/-- Beyond its ANNOUNCE, a chip that takes over may tell its parent. -/
theorem becomeActive_announces (takeover : Bool) (s : State) :
    Only 0x1000001 (announce takeover (seated takeover s)) (becomeActive takeover s) := by
  unfold becomeActive
  exact (keeps_ite (fun _ => sendTo_keeps (keeps_refl _ _) (sub_refl _) _ _) fun _ => keeps_refl _ _).only

theorem becomeActive_wmk (takeover : Bool) (s : State) : (becomeActive takeover s).wmk = activeWmk takeover s := by
  rw [(becomeActive_announces takeover s).wmk rfl, announce_wmk]
  rfl

theorem becomeActive_posts (takeover : Bool) (s : State) : ManagerPosted (becomeActive takeover s) := by
  unfold ManagerPosted
  rw [attOf_congr ((becomeActive_announces takeover s).cmd rfl), attOf_congr (announce_cmd ..)]
  exact postManager_posts ..

/-! ## ANNOUNCE and its watch (R318, R320, R333, R334) -/

/-- A chip that follows the ANNOUNCE of another node. -/
def followed (term : Nat) (standby : Option Nat) (s : State) : State :=
  modWmk (fun w => { w with term := term, role := roleAfter s standby, lossPosted := false
                            beaconing := decide (w.role = .held) && w.beaconing }) s

/-- A chip whose manager changes posts it and reports its step. -/
def followedManager (node term : Nat) (standby : Option Nat) (takeover : Bool) (s : State) : State :=
  if decide (s.wmk.manager ≠ some node) then
    resync node (newManager node (if takeover then 1 else 0) (followed term standby s))
  else followed term standby s

theorem followedManager_wmk (node term : Nat) (standby : Option Nat) (takeover : Bool) (s : State) :
    (followedManager node term standby takeover s).wmk.term = term ∧
    (followedManager node term standby takeover s).wmk.manager = some node ∧
    (followedManager node term standby takeover s).wmk.lossPosted = false ∧
    (followedManager node term standby takeover s).wmk.role = roleAfter s standby := by
  unfold followedManager
  by_cases same : s.wmk.manager = some node
  · rw [if_neg (by simp [same])]
    exact ⟨rfl, same, rfl, rfl⟩
  · rw [if_pos (by simp [same]), resync, sendTo_wmk, newManager_wmk]
    exact ⟨rfl, rfl, rfl, rfl⟩

theorem roleAfter_worker {s : State} (role : s.wmk.role = .worker) (standby : Option Nat) :
    roleAfter s standby = .worker := by
  simp [roleAfter, role]

theorem roleAfter_active {s : State} (role : s.wmk.role = .active) (standby : Option Nat) :
    roleAfter s standby = .candidate := by
  simp [roleAfter, role]

theorem roleAfter_named {s : State} (role : s.wmk.role = .candidate ∨ s.wmk.role = .standby) (standby : Option Nat) :
    roleAfter s standby = if standby = some (nodeId s) then .standby else .candidate := by
  rcases role with h | h <;> simp [roleAfter, h]

section Election
variable {s : State} {n : Nat}

theorem announce_follows (other : Other s n) {term : Nat}
    (newer : s.wmk.term < term ∨ s.wmk.term = term ∧ s.wmk.role ≠ .active) (port : Nat) (standby : Option Nat)
    (takeover : Bool) : exec (.announce port n term standby takeover) s =
      .next (followedManager n term standby takeover s) := by
  have taken : ¬(term < s.wmk.term ∨ n = nodeId s ∨ s.wmk.role = .active ∧ term = s.wmk.term) := by
    rintro (older | own | ⟨active, same⟩)
    · rcases newer with h | ⟨h, -⟩ <;> omega
    · exact other.2 own
    · rcases newer with h | ⟨-, h⟩
      · omega
      · exact h active
  exact congrArg Host.Outcome.next ((if_neg (by simp [other.1])).trans (if_neg taken))

theorem announce_older (known : listed s n = true) {term : Nat} (older : term < s.wmk.term) (port : Nat)
    (standby : Option Nat) (takeover : Bool) : exec (.announce port n term standby takeover) s = .next s :=
  congrArg Host.Outcome.next ((if_neg (by simp [known])).trans (if_pos (.inl older)))

theorem claimExpire_claims (role : s.wmk.role = .candidate) (claims : s.wmk.beaconing = true) :
    exec .claimExpire s = .next (becomeActive false s) :=
  congrArg Host.Outcome.next (if_pos (by simp [role, claims]))

theorem claimExpire_idle (out : s.wmk.role ≠ .candidate ∨ s.wmk.beaconing = false) : exec .claimExpire s = .next s :=
  congrArg Host.Outcome.next (if_neg (by rcases out with h | h <;> simp [h]))

theorem announceWatch_beacons (role : s.wmk.role = .candidate) (quiet : s.wmk.beaconing = false) :
    exec .announceWatchExpire s = .next (startElection s) :=
  congrArg Host.Outcome.next (if_pos (by simp [role, quiet]))

/-- The chip has no manager any more, posted once. -/
def managerLost (s : State) : State := postManager 0 2
  (modWmk (fun w => { w with lossPosted := true, manager := none, takeovers := satAdd 255 w.takeovers 1 }) s)

theorem noManager_posts (unposted : s.wmk.lossPosted = false) (role : s.wmk.role ≠ .active)
    (ready : s.clk.milestone = 15) : exec .noManagerExpire s = .next (alertPost 0x20 (managerLost s)) :=
  congrArg Host.Outcome.next (if_neg (by simp [unposted, role, ready]))

theorem noManager_idle (out : s.wmk.lossPosted = true ∨ s.wmk.role = .active) : exec .noManagerExpire s = .next s :=
  congrArg Host.Outcome.next (if_pos (by rcases out with h | h <;> simp [h]))

/-! ## KEEPALIVE and takeover (R331, R332) -/

theorem keepaliveTimer_sends (role : s.wmk.role = .active) (standby : s.wmk.standby = some n) :
    exec .keepaliveTimer s = .next (sendTo n (.ctl 0x03 3 ([s.wmk.term, s.wmk.step] ++ s.wmk.childrenIn)) s) := by
  show execKeepaliveTimer s = _
  simp only [execKeepaliveTimer, role, standby]

theorem keepalive_copies (known : listed s n = true) (role : s.wmk.role = .standby) {term : Nat}
    (new : s.wmk.term ≤ term) (port step : Nat) (arr : List Nat) : exec (.keepalive port n term step arr) s =
      .next (modWmk (fun w => { w with term := term, copyStep := step, copyArrived := arr }) s) :=
  congrArg Host.Outcome.next ((if_neg (by simp [known])).trans (if_neg (by simp [role, new])))

/-- Loss of the active manager and its relinquishing both lead to a takeover. -/
theorem standby_takesOver {c : Instr} {port : Nat} (known : listed s n = true) (role : s.wmk.role = .standby)
    (manager : s.wmk.manager = some n) (which : c = .keepaliveLoss ∨ c = .relinquish port n) :
    exec c s = .next (takeOver s) := by
  rcases which with rfl | rfl
  · exact congrArg Host.Outcome.next (if_pos role)
  · exact congrArg Host.Outcome.next ((if_neg (by simp [known])).trans (if_pos ⟨role, manager⟩))

/-- A manager that took over gathers reports until all of its domain's chips have reported; without a plan the first
suffices. -/
theorem resyncReport_gathers (role : s.wmk.role = .active) (unplanned : s.wmk.plan = none) {step : Nat}
    (known : step ≤ s.wmk.step) {arr : Bool} (waits : step < s.wmk.step ∨ arr = false) :
    Runs (.resyncReport n step arr) s fun t => t.wmk = { s.wmk with
      view := tput s.wmk.view n { viewOf s n with step := step, arrived := arr }, takeover := false } := by
  refine ⟨_, congrArg Host.Outcome.next (if_neg (by simp [role])), ?_⟩
  have same : ¬(arr = true ∧ step = s.wmk.step) := by
    rcases waits with h | h
    · omega
    · simp [h]
  by_cases late : step < s.wmk.step
  · simp [late, not_lt.mpr known, late.ne, unplanned]
  · simp [late, not_lt.mpr known, same, unplanned]

/-! ## Health (R322) -/

theorem healthSummary_views (role : s.wmk.role = .active) (v : Nat) : exec (.healthSummary n v) s = .next (modWmk (fun w =>
    { w with view := tput w.view n { viewOf s n with summary := v % 2 ^ 512, missing := false } }) s) :=
  congrArg Host.Outcome.next (if_pos role)

theorem healthSummaryMissing_views (role : s.wmk.role = .active) : exec (.healthSummaryMissing n) s =
    .next (modWmk (fun w => { w with view := tput w.view n { viewOf s n with missing := true } }) s) :=
  congrArg Host.Outcome.next (if_pos role)

theorem health_ignored (role : s.wmk.role ≠ .active) (v : Nat) :
    exec (.healthSummary n v) s = .next s ∧ exec (.healthSummaryMissing n) s = .next s :=
  ⟨congrArg Host.Outcome.next (if_neg role), congrArg Host.Outcome.next (if_neg role)⟩

/-- A chip that is no active manager, so not at the first arm of the command, sends its summary to its manager. -/
theorem healthSummaryTimer_sends (role : s.wmk.role ≠ .active) (manager : s.wmk.manager = some n) :
    exec .healthSummaryTimer s = .next (sendTo n (.ctl 0x03 7 [freeBits s 512]) (tookFree s)) := by
  have kept : (tookFree s).wmk = s.wmk := rfl
  show execHealthSummaryTimer s = _
  simp only [execHealthSummaryTimer, kept, manager]

end Election

/-! ## The plan (R322, R323) -/

theorem planOk_iff (s : State) (magic nChips nRoutes domain : Nat) (p : DomainPlan) :
    planOk s magic nChips nRoutes domain p = true ↔ (magic = 0x574D504C ∧ 1 ≤ nChips ∧ nChips ≤ 1024 ∧
      p.chips.length = nChips ∧ p.routes.length = nRoutes ∧ domain = domainOf (nodeId s)) ∧
      (∀ c ∈ p.chips, domainOf c.node = domain) ∧ ∀ r ∈ p.routes, domainOf r.node = domain := by
  simp [planOk, and_assoc]

/-- The chip keeps a plan. -/
def planKept (p : DomainPlan) (s : State) : State := modWmk (fun w => { w with planStatus := 1, plan := some p }) s

/-- The chip keeps a plan and sends every other chip of the plan its part. -/
def planSent (p : DomainPlan) (s : State) : State :=
  p.chips.foldl (fun t c => sendPlan (planKept p s) p c t) (planKept p s)

theorem planSent_keeps {ps : Nat} (sends : Sub 0x1000001 ps) (p : DomainPlan) (s : State) :
    Keeps ps (planKept p s) (planSent p s) :=
  keeps_foldl (fun _ _ c k => sendPlan_keeps k sends _ p c) (keeps_refl _ _)

theorem planSent_wmk (p : DomainPlan) (s : State) :
    (planSent p s).wmk = { s.wmk with planStatus := 1, plan := some p } :=
  (planSent_keeps (sub_refl _) p s).only.wmk rfl

theorem planSent_only (p : DomainPlan) (s : State) : Only (partMask [.wmk, .lnk, .out]) s (planSent p s) :=
  have sends : Sub 0x1000001 (partMask [.wmk, .lnk, .out]) := rfl
  have keeps : Sub 0x2000000 (partMask [.wmk, .lnk, .out]) := rfl
  (keeps_trans (modWmk_keeps (keeps_refl _ s) keeps _) (planSent_keeps sends p s)).only

theorem planSent_nodeId (p : DomainPlan) (s : State) : nodeId (planSent p s) = nodeId s := by
  unfold nodeId
  rw [(planSent_keeps (sub_refl _) p s).only.mod rfl]
  rfl

section Load
variable {s : State} {src : Src} (reaches : srcOpen s src = true) (role : s.wmk.role = .active)
include reaches role

theorem planLoad_busy (runs : s.wmk.takeover = true) (magic nChips nRoutes domain : Nat) (chips : List PlanChip)
    (routes : List PlanRoute) : exec (.planLoad src magic nChips nRoutes domain chips routes) s =
      .next (modWmk (fun w => { w with planStatus := 3 }) s) :=
  congrArg Host.Outcome.next ((if_pos reaches).trans ((if_neg (by simp [role])).trans (if_pos runs)))

theorem planLoad_refused (free : s.wmk.takeover = false) {magic nChips nRoutes domain : Nat} {chips : List PlanChip}
    {routes : List PlanRoute} (bad : planOk s magic nChips nRoutes domain { chips := chips, routes := routes } = false) :
    exec (.planLoad src magic nChips nRoutes domain chips routes) s =
      .next (modWmk (fun w => { w with planStatus := 2 }) s) :=
  congrArg Host.Outcome.next ((if_pos reaches).trans ((if_neg (by simp [role])).trans
    ((if_neg (by simp [free])).trans (if_pos (by simp [bad])))))

/-- A good plan that leaves this chip out is kept and goes to its chips. -/
theorem planLoad_sends (free : s.wmk.takeover = false) {magic nChips nRoutes domain : Nat} {chips : List PlanChip}
    {routes : List PlanRoute} (good : planOk s magic nChips nRoutes domain { chips := chips, routes := routes } = true)
    (foreign : ∀ c ∈ chips, c.node ≠ nodeId s) :
    exec (.planLoad src magic nChips nRoutes domain chips routes) s =
      .next (planSent { chips := chips, routes := routes } s) := by
  refine congrArg Host.Outcome.next ((if_pos reaches).trans ((if_neg (by simp [role])).trans
    ((if_neg (by simp [free])).trans ((if_neg (by simp [good])).trans ?_))))
  dsimp only
  split
  case h_1 c found =>
    have own := List.find?_some found
    exact absurd ((of_decide_eq_true own).trans (planSent_nodeId { chips := chips, routes := routes } s))
      (foreign c (List.mem_of_find?_eq_some found))
  case h_2 => rfl

end Load

theorem plan_taken {s : State} {n : Nat} (known : listed s n = true) (manager : s.wmk.manager = some n)
    (port treePort : Nat) : exec (.plan port n treePort [] []) s =
      .next (modWmk (fun w => { w with treePort := some treePort }) s) :=
  congrArg Host.Outcome.next ((if_neg (by simp [known])).trans (if_pos manager))

/-- Settles O27: a BEACON by `meetPair_equal`, `meetPair_better` and `beacon_frees`, an ANNOUNCE by `followedManager_wmk`, a
claim and a takeover by `becomeActive_wmk` (log 40: which chip is candidate), the plan by `planLoad_sends` (log 42: the bytes of
a summary are free). -/
theorem domainManager : Obligations.DomainManager := by
  refine ⟨fun s sends => beaconTimer_sends sends, fun s out => beaconTimer_still out, ?worse, ?better, ?equal, ?freed,
    ?unlisted, ?claim, fun s out => claimExpire_idle out,
    fun s role => ⟨_, congrArg Host.Outcome.next (if_pos role), announce_wmk false s, announce_only false s⟩,
    fun s role => congrArg Host.Outcome.next (if_neg role), ?follow,
    fun s port n term standby takeover known older => announce_older known older port standby takeover,
    fun s n role standby => keepaliveTimer_sends role standby,
    fun s port n term step arr known role new => ⟨_, keepalive_copies known role new port step arr, rfl, modWmk_only ..⟩,
    ?takeover, fun s role => congrArg Host.Outcome.next (if_neg role), ?watch, ?lost,
    fun s out => noManager_idle out, fun s n step arr role unplanned known waits =>
      resyncReport_gathers role unplanned known waits,
    fun s n v role => ⟨_, healthSummary_views role v, rfl, modWmk_only ..⟩,
    fun s n role => ⟨_, healthSummaryMissing_views role, rfl, modWmk_only ..⟩,
    fun s n v role => health_ignored role v, fun s n role manager => healthSummaryTimer_sends role manager,
    fun s src a b c d chips routes reaches role runs =>
      ⟨_, planLoad_busy reaches role runs a b c d chips routes, rfl, modWmk_only ..⟩,
    ?refused, ?loaded, fun s port n p known manager => ⟨_, plan_taken known manager port p, rfl, modWmk_only ..⟩,
    fun s port n p plans routes known other =>
      congrArg Host.Outcome.next ((if_neg (by simp [known])).trans (if_neg other))⟩
  case worse =>
    intro s port n a b term held other role worse
    have ours : pairBeats (ownPair s) (a, b) = true := (pairBeats_iff ..).mpr (worse.imp_right (And.imp_left Eq.symm))
    exact ⟨_, beacon_worse other role (pairBeats_ne ours).symm (pairBeats_asymm ours) port term held, rfl, modWmk_only ..⟩
  case better =>
    intro s port n a b term held other role better
    exact ⟨_, beacon_better other role ((pairBeats_iff ..).mpr better) port term held, rfl, modWmk_twice_only ..⟩
  case equal =>
    intro s port n term held other role
    refine ⟨_, beacon_candidate other role port _ _ term held, ?_⟩
    obtain ⟨wmk, posted⟩ := meetPair_equal n (heardPair n (ownPair s) term s)
    exact ⟨congrArg WmkState.role wmk, congrArg WmkState.rival wmk, posted⟩
  case freed =>
    intro s port n a b term other role rival ne
    exact ⟨_, beacon_frees other role rival ne port term, meetPair_entered (s := heardPair n (a, b) term s) ne n⟩
  case unlisted =>
    intro s port n a b term held to_ step arr plans routes unlisted
    have drops : (!listed s n) = true := by simp [unlisted]
    exact ⟨beacon_unlisted unlisted port a b term held, congrArg Host.Outcome.next (if_pos drops),
      congrArg Host.Outcome.next (if_pos drops), congrArg Host.Outcome.next (if_pos drops),
      congrArg Host.Outcome.next (if_pos drops)⟩
  case claim =>
    intro s role claims
    refine ⟨_, claimExpire_claims role claims, ?_⟩
    beta_reduce
    rw [becomeActive_wmk]
    exact ⟨rfl, rfl, rfl, rfl, rfl, becomeActive_posts false s⟩
  case follow =>
    intro s port n term standby takeover other newer
    obtain ⟨newTerm, manager, unposted, role⟩ := followedManager_wmk n term standby takeover s
    exact ⟨_, announce_follows other newer port standby takeover, newTerm, manager, unposted,
      fun h => role.trans (roleAfter_worker h standby), fun h => role.trans (roleAfter_active h standby),
      fun h => role.trans (roleAfter_named h standby)⟩
  case takeover =>
    intro c s port n known role manager which
    refine ⟨_, standby_takesOver known role manager which, ?_⟩
    beta_reduce
    rw [takeOver, becomeActive_wmk]
    exact ⟨rfl, rfl, rfl, rfl, rfl, rfl⟩
  case watch =>
    intro s role quiet
    refine ⟨_, announceWatch_beacons role quiet, ?_, modWmk_only ..⟩
    show { s.wmk with role := .candidate, beaconing := true, rival := none } = _
    rw [← role]
  case lost =>
    intro s unposted role ready
    refine ⟨_, noManager_posts unposted role ready, ?_⟩
    beta_reduce
    rw [alertPost_wmk, attOf_congr (alertPost_cmd ..)]
    exact ⟨rfl, rfl, postManager_posts ..⟩
  case refused =>
    intro s src a b c d chips routes reaches role free bad
    refine ⟨_, planLoad_refused reaches role free (Bool.eq_false_iff.mpr fun good => ?_), rfl, modWmk_only ..⟩
    obtain ⟨⟨magic, pos, few, chipCount, routeCount, layout⟩, -, -⟩ := (planOk_iff ..).mp good
    dsimp only [domainOf] at chipCount routeCount layout
    omega
  case loaded =>
    intro s src chips reaches role free some few layout
    have good : planOk s 0x574D504C chips.length 0 (nodeId s / 1024) { chips := chips, routes := [] } = true :=
      (planOk_iff ..).mpr
        ⟨⟨rfl, List.length_pos_of_ne_nil some, few, rfl, rfl, rfl⟩, fun c mem => (layout c mem).1, by simp⟩
    exact ⟨_, planLoad_sends reaches role free good fun c mem => (layout c mem).2, planSent_wmk .., planSent_only ..⟩

end Sys2Proof.Proofs
end

section
/-!
Waymark steps and time (chapter 12): arrivals, the advance, synchronisation and setting the time (R314, R324 to R330).
-/
namespace Sys2Proof.Proofs
open Sys2Proof.Machine Sys2Proof.Laws

/-! ## Ports

A change of WMK leaves the ports as they are. -/

@[simp] theorem portOf_modWmk (f : WmkState → WmkState) (s : State) (p : Nat) : portOf (modWmk f s) p = portOf s p := rfl

@[simp] theorem portUsable_modWmk (f : WmkState → WmkState) (s : State) (p : Nat) :
    portUsable (modWmk f s) p = portUsable s p := rfl

/-! ## What an advance sends and applies (R328, R329) -/

theorem sendAdvance_only (a : Advance) (s : State) : Only 0x1000001 s (sendAdvance a s) :=
  sendAll_only ..

@[simp] theorem sendAdvance_wmk (a : Advance) (s : State) : (sendAdvance a s).wmk = s.wmk :=
  sendAll_wmk ..

@[simp] theorem sendAdvance_timeBase (a : Advance) (s : State) : timeBase (sendAdvance a s) = timeBase s :=
  congrArg WmkState.tb (sendAdvance_wmk a s)

/-- The step of an ADVANCE is in force and no arrival for the next one is known. -/
def stepped (a : Advance) (s : State) : State :=
  modWmk (fun w => { w with step := a.step % 2 ^ 40, applied := w.tb, arrived := false, forwarded := false
                            childrenIn := [], advance := none }) s

@[simp] theorem ckpApply_wmk (n t : Nat) (s : State) : (ckpApply n t s).wmk = s.wmk :=
  (ckpApply_keeps (keeps_refl _ s) (sub_refl _) n t).only.wmk rfl

/-- With no plan of a checkpoint, an apply leaves its time for the next one (R406). -/
theorem ckpApply_unplanned {s : State} (unplanned : s.ckp.ctxs = []) (n t : Nat) :
    ckpApply n t s = modCkp (fun k => { k with lastT := some t }) s := by
  rw [ckpApply, unplanned]
  rfl

section Apply
variable {s : State} (noEvent : s.wmk.advanceEv = none) (a : Advance)
include noEvent

/-- With no ADVANCE event, an apply changes the step and meets the checkpoints; a SET changes the step alone. -/
theorem applyAdvance_steps : applyAdvance a s =
    if a.set then stepped a s else ckpApply (a.step % 2 ^ 40) a.at_ (stepped a s) := by
  have kept : (if a.set then stepped a s else ckpApply (a.step % 2 ^ 40) a.at_ (stepped a s)).wmk.advanceEv = none := by
    split_ifs
    · exact noEvent
    · rw [ckpApply_wmk]
      exact noEvent
  unfold applyAdvance
  dsimp only
  split
  case h_1 e event => exact absurd (kept.symm.trans event) (by simp)
  case h_2 => rfl

theorem applyAdvance_wmk : (applyAdvance a s).wmk = (stepped a s).wmk := by
  rw [applyAdvance_steps noEvent]
  split_ifs
  · rfl
  · exact ckpApply_wmk ..

theorem applyAdvance_only (unplanned : s.ckp.ctxs = []) : Only (partMask [.wmk, .ckp]) s (applyAdvance a s) := by
  have step : Sub 0x2000000 (partMask [.wmk, .ckp]) := rfl
  have time : Sub 0x40000000 (partMask [.wmk, .ckp]) := rfl
  have steps : Keeps (partMask [.wmk, .ckp]) s (stepped a s) := modWmk_keeps (keeps_refl _ s) step _
  rw [applyAdvance_steps noEvent, ckpApply_unplanned (s := stepped a s) unplanned]
  exact (keeps_ite (fun _ => steps) fun _ => modCkp_keeps steps time _).only

end Apply

/-- An ADVANCE has gone down the tree; a SET has cleared the arrivals. -/
def advanceSent (a : Advance) (s : State) : State :=
  if a.set then modWmk (fun w => { w with
      arrived := false, forwarded := false, childrenIn := [], arriveHeld := false, arriveDue := false }) (sendAdvance a s)
  else sendAdvance a s

theorem advanceSent_timeBase (a : Advance) (s : State) : timeBase (advanceSent a s) = timeBase s := by
  unfold advanceSent
  split_ifs <;> exact sendAdvance_timeBase a s

theorem advanceSent_plain {a : Advance} (plain : a.set = false) (s : State) : advanceSent a s = sendAdvance a s :=
  if_neg (by simp [plain])

/-- An ADVANCE ahead of its T is kept for it. -/
theorem takeAdvance_waits {a : Advance} {s : State} (ahead : timeBase s < a.at_) :
    takeAdvance a s = modWmk (fun w => { w with advance := some a }) (advanceSent a s) :=
  if_neg (not_le.mpr ((advanceSent_timeBase a s).trans_lt ahead))

/-- A late one is counted and applied at once. -/
theorem takeAdvance_late {a : Advance} {s : State} (late : a.at_ ≤ timeBase s) : takeAdvance a s =
    applyAdvance a (modWmk (fun w => { w with late := satAdd 255 w.late 1 }) (advanceSent a s)) :=
  if_pos (late.trans_eq (advanceSent_timeBase a s).symm)

/-- A late one that neither an event nor a checkpoint waits for is the present step, and leaves its time. -/
theorem takeAdvance_quiet {a : Advance} {s : State} (plain : a.set = false) (late : a.at_ ≤ timeBase s)
    (noEvent : s.wmk.advanceEv = none) (unplanned : s.ckp.ctxs = []) :
    (takeAdvance a s).wmk = { (stepped a s).wmk with late := satAdd 255 s.wmk.late 1 } ∧
    (takeAdvance a s).ckp.lastT = some a.at_ := by
  rw [takeAdvance_late late, advanceSent_plain plain]
  have ckp := (sendAdvance_only a s).ckp rfl
  have event : (modWmk (fun w => { w with late := satAdd 255 w.late 1 }) (sendAdvance a s)).wmk.advanceEv = none := by
    rw [modWmk_wmk, sendAdvance_wmk]
    exact noEvent
  rw [applyAdvance_wmk event, applyAdvance_steps event, if_neg (by simp [plain]), ckpApply_unplanned (ckp ▸ unplanned),
    stepped, modWmk_wmk, modWmk_wmk, sendAdvance_wmk]
  exact ⟨rfl, rfl⟩

/-- What an ADVANCE that is kept for its T changes. -/
theorem advanceKept_only (f g : WmkState → WmkState) (a : Advance) (s : State) :
    Only (partMask [.wmk, .lnk, .out]) s (modWmk f (sendAdvance a (modWmk g s))) := by
  have keeps : Sub 0x2000000 (partMask [.wmk, .lnk, .out]) := rfl
  have sends : Sub 0x1000001 (partMask [.wmk, .lnk, .out]) := rfl
  exact (modWmk_keeps (sendAdvance_keeps (modWmk_keeps (keeps_refl _ s) keeps g) sends a) keeps f).only

/-! ## Arrivals (R328) -/

section Arrive
variable {s : State}

theorem forwardArrive_waits (waits : s.wmk.arrived = false ∨ s.wmk.forwarded = true) : forwardArrive s = s :=
  if_neg (by rcases waits with h | h <;> simp [h])

/-- The chip and all its children have arrived, and no ARRIVE has gone on. -/
structure Gathered (s : State) : Prop where
  arrived : s.wmk.arrived = true
  unsent : s.wmk.forwarded = false
  children : ∀ n ∈ s.wmk.children, n ∈ s.wmk.childrenIn

theorem Gathered.ready (gathered : Gathered s) : (s.wmk.arrived && !s.wmk.forwarded &&
    (s.wmk.children.all fun n => s.wmk.childrenIn.contains n)) = true := by
  simpa [gathered.arrived, gathered.unsent] using gathered.children

/-- The arrival of the subtree has gone on. -/
def sentOn (s : State) : State := modWmk (fun w => { w with forwarded := true }) s

/-- The ADVANCE the top manager chooses: T lies a lead time ahead. -/
def nextAdvance (s : State) : Advance :=
  { step := s.wmk.step + 1, at_ := timeBase s + s.wmk.lead * 1000, set := false }

theorem nextAdvance_ahead (ahead : 0 < s.wmk.lead) : timeBase s < (nextAdvance s).at_ := by
  unfold nextAdvance
  dsimp only
  omega

theorem forwardArrive_top (gathered : Gathered s) (top : isTop s = true) :
    forwardArrive s = takeAdvance (nextAdvance s) (sentOn s) :=
  (if_pos gathered.ready).trans (if_pos top)

theorem forwardArrive_sends (gathered : Gathered s) (low : isTop s = false) :
    forwardArrive s = sendArrive (sentOn s) :=
  (if_pos gathered.ready).trans (if_neg (Bool.eq_false_iff.mp low))

theorem isTop_of_role (role : s.wmk.role ≠ .active) : isTop s = false := by
  simp [isTop, role]

/-- A chip that is no active manager sends its ARRIVE to its tree parent. -/
theorem sendArrive_tree (role : s.wmk.role ≠ .active) {p : Nat} (tree : s.wmk.treePort = some p)
    (legal : portLegal p = true) (usable : portUsable s p = true) :
    sendArrive s = sendPort p (.ctl 0x02 3 [s.wmk.step + 1]) s := by
  refine (if_neg role).trans ?_
  simp [tree, legal, usable]

/-- The signal of the own ARRIVE event has been seen. -/
def signalled (s : State) : State := modWmk (fun w => { w with arriveDue := false }) s

/-- The chip has arrived itself. -/
def selfArrived (s : State) : State := modWmk (fun w => { w with arrived := true }) (signalled s)

theorem selfArrived_gathered (unsent : s.wmk.forwarded = false) (children : ∀ n ∈ s.wmk.children, n ∈ s.wmk.childrenIn) :
    Gathered (selfArrived s) :=
  ⟨rfl, unsent, children⟩

/-- The chip has arrived as the last of its subtree, whose arrival goes on. -/
def subtreeArrived (s : State) : State :=
  { s with wmk := { s.wmk with arriveDue := false, arrived := true, forwarded := true } }

theorem sentOn_selfArrived (s : State) : sentOn (selfArrived s) = subtreeArrived s := by
  simp only [sentOn, selfArrived, signalled, subtreeArrived, modWmk]

theorem nextAdvance_selfArrived (s : State) : nextAdvance (selfArrived s) = nextAdvance s := rfl

theorem portUsable_subtreeArrived (s : State) (p : Nat) : portUsable (subtreeArrived s) p = portUsable s p :=
  portUsable_modWmk (fun w => { w with arriveDue := false, arrived := true, forwarded := true }) s p

section Signal
variable (due : s.wmk.arriveDue = true)
include due

theorem arriveSignal_held {a : Advance} (pending : s.wmk.advance = some a) :
    exec .arriveSignal s = .next (modWmk (fun w => { w with arriveHeld := true }) (signalled s)) :=
  congrArg Host.Outcome.next ((if_pos due).trans (if_pos (by simp [pending])))

theorem arriveSignal_repeats (free : s.wmk.advance = none) (arrived : s.wmk.arrived = true) : exec .arriveSignal s =
    .next (modWmk (fun w => { w with repeatArrive := satAdd 255 w.repeatArrive 1 }) (signalled s)) :=
  congrArg Host.Outcome.next ((if_pos due).trans ((if_neg (by simp [free])).trans (if_pos arrived)))

theorem arriveSignal_arrives (free : s.wmk.advance = none) (first : s.wmk.arrived = false) :
    exec .arriveSignal s = .next (forwardArrive (selfArrived s)) :=
  congrArg Host.Outcome.next ((if_pos due).trans ((if_neg (by simp [free])).trans (if_neg (by simp [first]))))

end Signal

/-- A child has arrived. -/
def childArrived (n : Nat) (s : State) : State :=
  modWmk (fun w => { w with children := linsert w.children n, childrenIn := linsert w.childrenIn n }) s

theorem arrive_counts {port : Nat} (legal : portLegal port = true) (n : Nat) :
    exec (.arrive port n (s.wmk.step + 1)) s = .next (forwardArrive (childArrived n s)) :=
  congrArg Host.Outcome.next (if_pos ⟨rfl, .inl legal⟩)

theorem arrive_otherStep {step : Nat} (other : step ≠ s.wmk.step + 1) (port n : Nat) :
    exec (.arrive port n step) s = .next s :=
  congrArg Host.Outcome.next (if_neg fun h => other h.1)

/-! ## ADVANCE (R328 to R330) -/

/-- The term of an ADVANCE has been seen. -/
def termSeen (term : Nat) (s : State) : State := modWmk (fun w => { w with term := max w.term term }) s

theorem termSeen_wmk {term : Nat} (new : s.wmk.term ≤ term) : (termSeen term s).wmk = { s.wmk with term := term } := by
  show { s.wmk with term := max s.wmk.term term } = _
  rw [max_eq_right new]

theorem advance_taken {port n term step : Nat} (legal : portLegal port = true) (other : n ≠ nodeId s)
    (low : isTop s = false) (new : s.wmk.term ≤ term) (later : s.wmk.step < step) (time : Nat) :
    exec (.advance port n term step time false) s = .next (takeAdvance { step := step, at_ := time, set := false }
      (termSeen term s)) :=
  congrArg Host.Outcome.next ((if_neg (by omega)).trans ((if_neg (by simp [legal, other, low])).trans
    (if_neg (by simp [later]))))

theorem advance_refused {n term step : Nat}
    (out : term < s.wmk.term ∨ n = nodeId s ∨ isTop s = true ∨ step ≤ s.wmk.step) (port time : Nat) :
    exec (.advance port n term step time false) s = .next s := by
  refine congrArg Host.Outcome.next ?_
  rcases out with old | own | top | past
  · exact if_pos old
  · exact ite_eq_left_iff.mpr fun _ => if_pos (.inr (.inl own))
  · exact ite_eq_left_iff.mpr fun _ => if_pos (.inr (.inr top))
  · exact ite_eq_left_iff.mpr fun _ => ite_eq_left_iff.mpr fun _ => if_pos ⟨rfl, past⟩

theorem advanceApply_applies {a : Advance} (pending : s.wmk.advance = some a) (now : a.at_ ≤ timeBase s)
    (unheld : s.wmk.arriveHeld = false) : exec .advanceApply s = .next (applyAdvance a s) := by
  have same : modWmk (fun w => { w with arriveHeld := false }) s = s := by
    show { s with wmk := { s.wmk with arriveHeld := false } } = s
    rw [← unheld]
  show execAdvanceApply s = _
  simp [execAdvanceApply, pending, not_lt.mpr now, unheld, same]

theorem advanceApply_early {a : Advance} (pending : s.wmk.advance = some a) (early : timeBase s < a.at_) :
    exec .advanceApply s = .next s := by
  show execAdvanceApply s = _
  simp [execAdvanceApply, pending, early]

theorem stepSet_taken {src : Src} (reaches : srcOpen s src = true) (top : isTop s = true) (v : DWord) :
    exec (.stepSet src v) s = .next (takeAdvance
      { step := bitsOf v.toNat 24 40, at_ := timeBase s + s.wmk.lead * 1000, set := true } s) :=
  congrArg Host.Outcome.next ((if_pos reaches).trans (if_pos top))

theorem set_refused (low : isTop s = false) (src : Src) (v : DWord) :
    exec (.stepSet src v) s = .next s ∧ exec (.timeSet src v) s = .next s :=
  ⟨congrArg Host.Outcome.next (ite_eq_right_iff.mpr fun _ => if_neg (by simp [low])),
    congrArg Host.Outcome.next (ite_eq_right_iff.mpr fun _ => if_neg (by simp [low]))⟩

end Arrive

/-! ## Setting the time, and the PPS input (R314, R327) -/

section Clock
variable {s : State}

theorem timeSet_sets {src : Src} {v : DWord} (reaches : srcOpen s src = true) (top : isTop s = true)
    (forward : s.wmk.wasSynced = false ∨ timeBase s ≤ v.toNat) :
    exec (.timeSet src v) s = .next (modWmk (fun w => { w with tb := v.toNat, slew := 0 }) s) :=
  congrArg Host.Outcome.next ((if_pos reaches).trans (if_pos ⟨top, forward⟩))

theorem timeSet_back {v : DWord} (synced : s.wmk.wasSynced = true) (back : v.toNat < timeBase s) (src : Src) :
    exec (.timeSet src v) s = .next s :=
  congrArg Host.Outcome.next (ite_eq_right_iff.mpr fun _ => if_neg (by simp [synced, back]))

/-- How far the time base is from the nearest whole second. -/
def ppsOffset (s : State) : Int :=
  if timeBase s % 1000000000 ≤ 500000000 then -((timeBase s % 1000000000 : Nat) : Int)
  else 1000000000 - ((timeBase s % 1000000000 : Nat) : Int)

theorem ppsEdge_slews (top : isTop s = true) (enabled : s.wmk.ppsEn = true) (near : (ppsOffset s).natAbs ≤ 1000000) :
    exec .wmkPpsEdge s = .next (modWmk (fun w => { w with slew := ppsOffset s }) s) :=
  congrArg Host.Outcome.next ((if_pos (by simp [top, enabled])).trans (if_neg (not_lt.mpr near)))

theorem ppsEdge_ignored (top : isTop s = true) (enabled : s.wmk.ppsEn = true) (far : 1000000 < (ppsOffset s).natAbs) :
    exec .wmkPpsEdge s = .next (modWmk (fun w => { w with ppsIgnored := satAdd 255 w.ppsIgnored 1 }) s) :=
  congrArg Host.Outcome.next ((if_pos (by simp [top, enabled])).trans (if_pos far))

theorem ppsEdge_idle (out : isTop s = false ∨ s.wmk.ppsEn = false) : exec .wmkPpsEdge s = .next s :=
  congrArg Host.Outcome.next (if_neg (by rcases out with h | h <;> simp [h]))

/-! ## Synchronisation (R324 to R326) -/

theorem syncReqTimer_port {p : Nat} (parent : timeParent s = .port p) : exec .syncReqTimer s =
    .next (sendPort p (.ctl 0x02 1 [timeBase s]) (modWmk (fun w => { w with syncSent := some w.tb }) s)) := by
  show execSyncReqTimer s = _
  simp only [execSyncReqTimer, parent]

/-- A chip with no parent sends nothing, and in shared mode or at the top it changes nothing either. -/
theorem syncReqTimer_orphan (parent : timeParent s = .none_) (shared : confidential s = false ∨ isTop s = true) :
    exec .syncReqTimer s = .next s := by
  show execSyncReqTimer s = _
  simp only [execSyncReqTimer, parent]
  exact congrArg Host.Outcome.next (if_neg (by rcases shared with h | h <;> simp [h]))

theorem syncReq_answers {p n : Nat} (legal : portLegal p = true) (usable : portUsable s p = true)
    (near : ((portOf s p).peer.map fun a => a.node) = some n) (t1 : Nat) : exec (.syncReq p n t1) s =
      .next (sendPort p (.ctl 0x02 2 [t1, timeBase s, timeBase s, ownBound s])
        (modWmk (fun w => { w with children := linsert w.children n }) s)) := by
  obtain ⟨peer, stored, own⟩ := Option.map_eq_some_iff.mp near
  exact congrArg Host.Outcome.next (if_pos (by simp [legal, usable, stored, own]))

/-- The offset of the parent that an exchange measures. -/
abbrev syncOffset (s : State) (t1 t2 t3 : Nat) : Int := ((t2 : Int) - t1 - ((timeBase s : Int) - t3)) / 2

/-- An exchange has set the error bound. -/
def exchanged (bound : Nat) (s : State) : State :=
  modWmk (fun w => { w with errBound := min 65535 (bound + edgeError s), syncSent := none }) s

theorem syncReply_corrects {t1 : Nat} (sent : s.wmk.syncSent = some t1) (t2 t3 bound : Nat) :
    exec (.syncReply t2 t3 bound) s = .next (correct (syncOffset s t1 t2 t3) bound s) := by
  show execSyncReply t2 t3 bound s = _
  simp only [execSyncReply, sent]

theorem syncReply_unasked (unasked : s.wmk.syncSent = none) (t2 t3 bound : Nat) :
    exec (.syncReply t2 t3 bound) s = .next s := by
  show execSyncReply t2 t3 bound s = _
  simp only [execSyncReply, unasked]

theorem correct_slews (synced : s.wmk.synced = true) {offset : Int} (near : offset.natAbs ≤ 100000) (bound : Nat) :
    correct offset bound s = modWmk (fun w => { w with slew := offset }) (exchanged bound s) :=
  (if_pos (c := (exchanged bound s).wmk.synced = true) synced).trans (if_neg (not_lt.mpr near))

/-- A chip whose offset has grown too large is unsynchronised and writes a NOTICE. -/
def unsynced (offset : Int) (s : State) : State :=
  logNotice 6 offset.natAbs (modWmk (fun w => { w with synced := false, good := 0, slew := 0 }) s)

theorem unsynced_wmk (offset : Int) (s : State) :
    (unsynced offset s).wmk = { s.wmk with synced := false, good := 0, slew := 0 } :=
  logNotice_wmk ..

/-- An offset above 100 microseconds ends SYNCED. -/
theorem correct_unsyncs (synced : s.wmk.synced = true) {offset : Int} (far : 100000 < offset.natAbs) (bound : Nat) :
    (correct offset bound s).wmk.synced = false ∧ (correct offset bound s).wmk.slew = 0 ∧
    (correct offset bound s).wmk.errBound = min 65535 (bound + edgeError s) := by
  have steps : correct offset bound s =
      if 0 < offset then modWmk (fun w => { w with tb := w.tb + offset.natAbs }) (unsynced offset (exchanged bound s))
      else unsynced offset (exchanged bound s) :=
    (if_pos (c := (exchanged bound s).wmk.synced = true) synced).trans (if_pos far)
  rw [steps]
  split_ifs
  · rw [modWmk_wmk, unsynced_wmk]
    exact ⟨rfl, rfl, rfl⟩
  · rw [unsynced_wmk]
    exact ⟨rfl, rfl, rfl⟩

@[simp] theorem ledgerLoad_wmk (s : State) : (ledgerLoad s).wmk = s.wmk :=
  (ledgerLoad_keeps (keeps_refl _ s) (sub_refl _)).only.wmk rfl

/-- A chip out of SYNCED corrects its time base at once, never backward where it has been SYNCED (R314), and counts the
exchanges in a row that are close. -/
def corrected (offset : Int) (s : State) : State :=
  modWmk (fun w => { w with
    tb := if decide (offset < 0) then (if w.wasSynced then w.tb else w.tb - offset.natAbs) else w.tb + offset.natAbs
    good := if offset.natAbs ≤ 50 then w.good + 1 else 0 }) s

theorem correct_corrects (out : s.wmk.synced = false) (offset : Int) (bound : Nat) : correct offset bound s =
    if 8 ≤ (corrected offset (exchanged bound s)).wmk.good then enterSynced (corrected offset (exchanged bound s))
    else corrected offset (exchanged bound s) :=
  if_neg (c := (exchanged bound s).wmk.synced = true) (Bool.eq_false_iff.mp out)

/-- The eighth close exchange in a row enters SYNCED. -/
theorem correct_syncs (out : s.wmk.synced = false) (good : s.wmk.good = 7) {offset : Int} (close : offset.natAbs ≤ 50)
    (bound : Nat) : (correct offset bound s).wmk.synced = true ∧ (correct offset bound s).wmk.wasSynced = true := by
  have eighth : (corrected offset (exchanged bound s)).wmk.good = 8 :=
    (if_pos close).trans (congrArg (· + 1) good)
  rw [correct_corrects out, if_pos eighth.ge, enterSynced, ledgerLoad_wmk]
  exact ⟨rfl, rfl⟩

theorem edgeError_port (role : s.wmk.role ≠ .active) {p : Nat} (parent : timeParent s = .port p) :
    edgeError s = if isBoard p then 10 else 115 := by
  unfold edgeError
  rw [if_neg role, parent]

end Clock

/-- Settles O28: an arrival by `arriveSignal_arrives` and `forwardArrive_top`, an ADVANCE by `takeAdvance_waits` and
`takeAdvance_late`, its T by `applyAdvance_steps`, an exchange by `correct_slews`, `correct_unsyncs` and `correct_syncs` (log 41:
who a child is, how an offset is halved, TIME_SET forward only, the errors of the edges). -/
theorem stepsAndTime : Obligations.StepsAndTime := by
  refine ⟨?arrives,
    fun s due free arrived => ⟨_, arriveSignal_repeats due free arrived, rfl, modWmk_twice_only ..⟩,
    fun s a due pending => ⟨_, arriveSignal_held due pending, rfl, modWmk_twice_only ..⟩,
    fun s idle => congrArg Host.Outcome.next (if_neg (by simp [idle])), ?chooses, ?forwards, ?child,
    fun s port n step other => arrive_otherStep other port n, ?kept, ?late,
    fun s port n term step time out => advance_refused out port time, ?applies,
    fun s a pending early => advanceApply_early pending early, ?stepSet, fun s src v low => set_refused low src v,
    fun s src v reaches top forward => ⟨_, timeSet_sets reaches top forward, rfl, modWmk_only ..⟩,
    fun s src v synced back => timeSet_back synced back src, fun s p parent => syncReqTimer_port parent,
    fun s parent shared => syncReqTimer_orphan parent shared,
    fun s p n t1 legal usable near => syncReq_answers legal usable near t1,
    fun s t2 t3 b unasked => syncReply_unasked unasked t2 t3 b, ?slews, ?unsyncs, ?syncs,
    fun s p role _ parent => edgeError_port role parent, ?pps, ?ppsFar, fun s out => ppsEdge_idle out⟩
  case arrives =>
    intro s due free first forwarded
    refine ⟨_, arriveSignal_arrives due free first, ?_⟩
    beta_reduce
    rw [forwardArrive_waits (s := selfArrived s) (.inr forwarded)]
    exact ⟨rfl, modWmk_twice_only ..⟩
  case chooses =>
    intro s due free first unsent top ahead children
    refine ⟨_, arriveSignal_arrives due free first, ?_⟩
    beta_reduce
    rw [forwardArrive_top (selfArrived_gathered unsent children) (by exact top),
      sentOn_selfArrived, nextAdvance_selfArrived,
      takeAdvance_waits (s := subtreeArrived s) (a := nextAdvance s) (nextAdvance_ahead ahead), advanceSent_plain rfl,
      modWmk_wmk, sendAdvance_wmk]
    exact ⟨rfl, rfl, rfl, rfl⟩
  case forwards =>
    intro s p due free first unsent role tree legal usable children
    refine (arriveSignal_arrives due free first).trans (congrArg Host.Outcome.next ?_)
    have stays := (portUsable_subtreeArrived s p).trans usable
    rw [forwardArrive_sends (selfArrived_gathered unsent children) (isTop_of_role (by exact role)), sentOn_selfArrived,
      sendArrive_tree (s := subtreeArrived s) role tree legal stays]
    rfl
  case child =>
    intro s port n legal first
    refine ⟨_, arrive_counts legal n, ?_⟩
    beta_reduce
    rw [forwardArrive_waits (s := childArrived n s) (.inl first)]
    exact ⟨rfl, modWmk_only ..⟩
  case kept =>
    intro s port n term step time legal other low new later ahead
    refine ⟨_, advance_taken legal other low new later time, ?_⟩
    beta_reduce
    rw [takeAdvance_waits (a := ⟨step, time, false⟩) (s := termSeen term s) ahead, advanceSent_plain rfl, modWmk_wmk,
      sendAdvance_wmk, termSeen_wmk new]
    exact ⟨rfl, advanceKept_only ..⟩
  case late =>
    intro s port n term step time legal other low new later past noEvent unplanned
    refine ⟨_, advance_taken legal other low new later time, ?_⟩
    obtain ⟨wmk, lastT⟩ := takeAdvance_quiet (a := ⟨step, time, false⟩) (s := termSeen term s) rfl past noEvent unplanned
    rw [wmk]
    exact ⟨rfl, rfl, rfl, rfl, lastT⟩
  case applies =>
    intro s a pending now unheld noEvent unplanned
    exact ⟨_, advanceApply_applies pending now unheld, applyAdvance_wmk noEvent a, applyAdvance_only noEvent a unplanned⟩
  case stepSet =>
    intro s src v reaches top ahead
    refine ⟨_, stepSet_taken reaches top v, ?_⟩
    have later : timeBase s < timeBase s + s.wmk.lead * 1000 := by omega
    beta_reduce
    rw [takeAdvance_waits later, advanceSent, if_pos rfl, modWmk_wmk, modWmk_wmk, sendAdvance_wmk]
    exact ⟨rfl, rfl, rfl⟩
  case slews =>
    intro s t1 t2 t3 b sent synced near
    refine ⟨_, syncReply_corrects sent t2 t3 b, ?_⟩
    beta_reduce
    rw [correct_slews synced near]
    exact ⟨rfl, modWmk_twice_only ..⟩
  case unsyncs =>
    intro s t1 t2 t3 b sent synced far
    exact ⟨_, syncReply_corrects sent t2 t3 b, correct_unsyncs synced far b⟩
  case syncs =>
    intro s t1 t2 t3 b sent unsynced good close
    exact ⟨_, syncReply_corrects sent t2 t3 b, correct_syncs unsynced good close b⟩
  case pps =>
    intro s top enabled near
    have offset : ppsOffset s = -((timeBase s % 1000000000 : Nat) : Int) := if_pos (by omega)
    refine ⟨_, ppsEdge_slews top enabled (by omega), ?_, modWmk_only ..⟩
    rw [offset]
    rfl
  case ppsFar =>
    intro s top enabled above below
    refine ⟨_, ppsEdge_ignored top enabled ?_, rfl, modWmk_only ..⟩
    unfold ppsOffset
    split_ifs <;> omega

end Sys2Proof.Proofs
end

section
/-!
One step of the block (log 2): the front of the queue, or one nanosecond.
-/
namespace Sys2Proof.Proofs
open Sys2Proof.Machine Sys2Proof.Laws

theorem step_front {s : State} {c : Instr} {rest : List Instr} (front : s.pending = c :: rest) :
    step s = exec c { s with pending := rest } := by
  rw [step, front]

theorem step_idle {s : State} (empty : s.pending = []) : step s = .next (idle s) := by
  rw [step, empty]

/-- A nanosecond moves the model's clock, the time base and ledger time. -/
theorem idle_keeps (s : State) : Keeps (partMask [.now, .wmk, .led]) s (idle s) :=
  tickNs_keeps (keeps_refl _ s) (sub_refl _)

theorem idle_now (s : State) : (idle s).now = s.now + 1 := by
  unfold idle tickNs
  dsimp only
  split_ifs <;> rfl

/-- Settles O41: a step by `step_front` and `step_idle`, the frame of a nanosecond by `idle_keeps` (log 2: an idle step is the
model's choice). -/
theorem stepRunsFront : Obligations.StepRunsFront := by
  refine ⟨fun s c rest front => step_front front, fun s empty => ?_⟩
  obtain ⟨-, pending, -, only⟩ := idle_keeps s
  exact ⟨step_idle empty, idle_now s, pending.trans empty, only.mem rfl, only.cmd rfl, only.nv rfl, only.out rfl⟩

end Sys2Proof.Proofs
end

section
/-!
What the registers read at reset (the register tables of the chapters, R335, R364, R401, R424, R519, R520, R533).
-/
namespace Sys2Proof.Proofs
open Sys2Proof.Machine Sys2Proof.Laws

/-- At reset no cluster is retired and no partition offline. -/
theorem cluInService_reset (c : Nat) : cluInService State.reset c = true := by
  have online : bitOf 0 (c / 16) = false := by simp [bitOf]
  show (!(false || bitOf 0 (c / 16))) = true
  rw [online]
  rfl

/-- So a cluster register shows what its unit holds. -/
theorem cluster_shows {c : Nat} (legal : c < 64) (v : Nat) :
    (if (decide (c < 64) && cluInService State.reset c) = true then v else 0) = v :=
  if_pos (by simp [legal, cluInService_reset])

theorem engAt_reset (c : Nat) : engAt State.reset c = Engine.init := rfl

theorem cluAt_reset (c : Nat) : cluAt State.reset c = CluStore.init := rfl

theorem portAccepted_init (s : State) (p : Nat) : portAccepted (portInit s p) = false := rfl

/-- A port at chip reset shows DISABLED with no lanes, no check and no peer. -/
theorem readPortState_init (s : State) (p : Nat) : readPortState (portInit s p) = 0 := by
  simp only [readPortState, portAccepted_init]
  simp only [portInit]
  decide

theorem portOf_reset (p : Nat) : portOf State.reset p = portInit State.reset p := rfl

theorem engStateCode_reset (c : Nat) : engStateCode State.reset c = 0 := by
  simp only [engStateCode, cluInService_reset, engAt_reset]
  rfl

/-- No memory object is resident at reset. -/
theorem scratchUsed_reset (c : Nat) : scratchUsed State.reset c = 0 := rfl

theorem pageOf_reset (fn : Nat) : pageOf State.reset fn = pageInit := rfl

/-- No service queue is built at reset, whatever number a function's has. -/
theorem svqOf_reset (fn : Nat) : svqOf State.reset fn = none := by
  unfold svqOf
  split <;> rfl

theorem svqState_reset (fn : Nat) : svqState State.reset fn = 0 := by
  rw [svqState, svqOf_reset]

/-- The MXE, CST and OWL registers of a cluster. -/
theorem regRead_reset_cluster {c : Nat} (legal : c < 64) :
    regRead State.reset (.mxeEngShape c) = 0x1010 ∧ regRead State.reset (.mxeEngState c) = 0 ∧
    regRead State.reset (.cstCluCfg c) = 8 ∧ regRead State.reset (.cstCluState c) = 0 ∧
    regRead State.reset (.owlClu c) = 0 := by
  refine ⟨?_, ?_, ?_, ?_, rfl⟩
  · simp only [regRead, readMxe, cluster_shows legal, engAt_reset]
    decide
  · simp only [regRead, readMxe, cluster_shows legal, engAt_reset, engStateCode_reset, not_le.mpr legal, if_false]
    decide
  · simp only [regRead, readCst, cluster_shows legal, cluAt_reset]
    decide
  · simp only [regRead, readCst, cluster_shows legal, cluAt_reset, scratchUsed_reset]
    decide

theorem regRead_reset_port {p : Nat} (legal : p < 23) :
    regRead State.reset (.lnkPortCtrl p) = 9 ∧ regRead State.reset (.lnkPortState p) = 0 ∧
    regRead State.reset (.lnkPortErr p) = 0 := by
  simp only [regRead, readLnk, legal, if_true, portOf_reset, readPortState_init]
  simp only [portInit]
  decide

/-- The service queue registers of a function. -/
theorem regRead_reset_svq (fn : Nat) :
    regRead State.reset (.cmdSvqSqBase fn) = 0 ∧ regRead State.reset (.cmdSvqCfg fn) = 0x00840000 := by
  simp only [regRead, readCmd, pageOf_reset, svqState_reset]
  decide

/-- Settles O46: the registers of the block are closed words; those of a cluster, a port or a function hold the words of a unit
that no table lists (log 3: the state after reset). -/
theorem resetWords : Obligations.ResetWords :=
  ⟨by decide, by decide, by decide, regRead_reset_svq, fun c legal => regRead_reset_cluster legal,
   fun p legal => regRead_reset_port legal⟩

end Sys2Proof.Proofs
end

section
/-!
Contributions in any order (chapter 13, R355 to R358): a fixed-window sum and an integer maximum or minimum.
-/
namespace Sys2Proof.Proofs
open Sys2Proof.Machine Sys2Proof.Laws

/-- What a contribution adds to a window: its grid integer to the sum, its markers to the markers (R355). -/
def winAdd (e : Int) (a : Int × Nat) (x : Int × Elem) : Int × Nat :=
  (a.1 + (quantise e x.1 x.2).1, Nat.lor a.2 (quantise e x.1 x.2).2)

/-- What a 16-bit integer contributes to a maximum or minimum (R357). -/
def intAdd (red : Nat) (a : Option Int) (x : Int × Int) : Option Int :=
  match a with
  | none => some x.2
  | some w => some (if redOp red = 1 then max w x.2 else min w x.2)

theorem winAdd_comm (e : Int) (a : Int × Nat) (x y : Int × Elem) :
    winAdd e (winAdd e a x) y = winAdd e (winAdd e a y) x :=
  Prod.ext (add_right_comm _ _ _) (Nat.or_right_comm _ _ _)

theorem intAdd_comm (red : Nat) (a : Option Int) (x y : Int × Int) :
    intAdd red (intAdd red a x) y = intAdd red (intAdd red a y) x := by
  cases a with
  | none =>
    simp only [intAdd]
    split
    · rw [max_comm]
    · rw [min_comm]
  | some w =>
    simp only [intAdd]
    split
    · rw [max_right_comm]
    · rw [min_right_comm]

/-- The sum of a window is a fold over grid integers and markers. -/
theorem foldl_accAddElem_eq_winAdd (red : Nat) (e q : Int) (m : Nat) (l : List (Int × Elem)) :
    l.foldl (fun a x => (accAddElem red e x.1 a x.2).1) (.win q m) =
      .win (l.foldl (winAdd e) (q, m)).1 (l.foldl (winAdd e) (q, m)).2 :=
  List.foldl_hom (g₁ := winAdd e) (init := (q, m)) (fun p => Acc.win p.1 p.2) fun _ _ => rfl

/-- The maximum or minimum of 16-bit integers is a fold over the integers. -/
theorem foldl_accAddElem_eq_intAdd (red : Nat) (e : Int) (l : List (Int × Int)) :
    (l.map fun p => (p.1, Elem.int p.2)).foldl (fun a x => (accAddElem red e x.1 a x.2).1) (.int none) =
      .int (l.foldl (intAdd red) none) := by
  rw [List.foldl_map]
  refine List.foldl_hom Acc.int fun a x => ?_
  cases a <;> rfl

/-- A window's accumulator is the same for every order of its contributions (R358). -/
theorem foldl_accAddElem_win_perm {l k : List (Int × Elem)} (perm : l.Perm k) (red : Nat) (e q : Int) (m : Nat) :
    l.foldl (fun a x => (accAddElem red e x.1 a x.2).1) (.win q m) =
      k.foldl (fun a x => (accAddElem red e x.1 a x.2).1) (.win q m) := by
  have same : l.foldl (winAdd e) (q, m) = k.foldl (winAdd e) (q, m) :=
    perm.foldl_eq' (fun x _ y _ a => winAdd_comm e a x y) _
  rw [foldl_accAddElem_eq_winAdd, foldl_accAddElem_eq_winAdd, same]

/-- Settles O31: the sum is a fold of `winAdd`, the maximum and minimum a fold of `intAdd`, and both steps commute. -/
theorem sumOrderIndependence : Obligations.SumOrderIndependence := by
  refine ⟨fun red e q m l k perm => foldl_accAddElem_win_perm perm red e q m, fun red e l k perm => ?_,
    fun red e q m l k out perm => congrArg (accOut out e) (foldl_accAddElem_win_perm perm red e q m)⟩
  have same : l.foldl (intAdd red) none = k.foldl (intAdd red) none :=
    perm.foldl_eq' (fun x _ y _ a => intAdd_comm red a x y) _
  exact ((foldl_accAddElem_eq_intAdd red e l).trans (congrArg Acc.int same)).trans
    (foldl_accAddElem_eq_intAdd red e k).symm

end Sys2Proof.Proofs
end

section
/-!
Segments, shards and their owners (chapter 13, R346).
-/
namespace Sys2Proof.Proofs
open Sys2Proof.Machine Sys2Proof.Laws

/-! ## The first key that a test admits -/

theorem firstFrom_eq_some {p : Nat → Bool} {n i k : Nat} (le : i ≤ k) (lt : k < i + n) (admits : p k = true)
    (before : ∀ j, i ≤ j → j < k → p j = false) : firstFrom p n i = some k := by
  induction n generalizing i with
  | zero => omega
  | succ n ih =>
    rcases Nat.eq_or_lt_of_le le with rfl | later
    · simp [firstFrom, admits]
    · simp only [firstFrom, before i le_rfl later, Bool.false_eq_true, if_false]
      exact ih later (by omega) fun j from_ => before j (by omega)

theorem firstFrom_some {p : Nat → Bool} {n i k : Nat} (h : firstFrom p n i = some k) :
    p k = true ∧ i ≤ k ∧ k < i + n := by
  induction n generalizing i with
  | zero => cases h
  | succ n ih =>
    rw [firstFrom] at h
    split at h
    case isTrue admits =>
      cases h
      exact ⟨admits, le_rfl, by omega⟩
    case isFalse =>
      obtain ⟨admits, le, lt⟩ := ih h
      exact ⟨admits, by omega, by omega⟩

theorem firstFrom_exists {p : Nat → Bool} {n i k : Nat} (le : i ≤ k) (lt : k < i + n) (admits : p k = true) :
    ∃ j, firstFrom p n i = some j := by
  induction n generalizing i with
  | zero => omega
  | succ n ih =>
    rw [firstFrom]
    split
    case isTrue => exact ⟨i, rfl⟩
    case isFalse other =>
      have ne : i ≠ k := fun same => other (same ▸ admits)
      exact ih (by omega) (by omega)

theorem firstFrom_none {p : Nat → Bool} {n i : Nat} (never : ∀ j, i ≤ j → j < i + n → p j = false) :
    firstFrom p n i = none := by
  cases found : firstFrom p n i with
  | none => rfl
  | some k =>
    obtain ⟨admits, le, lt⟩ := firstFrom_some found
    simp [never k le lt] at admits

/-! ## Segments -/

/-- The number of segments is the least whose elements cover the operation. -/
theorem segCount_le_iff {o : OpRec} (pos : 1 ≤ o.seg) (G : Nat) : segCount o ≤ G ↔ o.count ≤ G * o.seg := by
  rw [segCount, Nat.div_le_iff_le_mul_add_pred pos, Nat.mul_comm]
  omega

theorem lt_segCount_iff {o : OpRec} (pos : 1 ≤ o.seg) (g : Nat) : g < segCount o ↔ g * o.seg < o.count := by
  rw [← not_le, segCount_le_iff pos, not_le]

/-- A segment starts where the full segments before it end, and ends a full segment later or at the operation's end. -/
theorem segment_bounds {o : OpRec} (pos : 1 ≤ o.seg) {g : Nat} (lt : g < segCount o) :
    segStart o g = g * o.seg ∧ segStart o g + segLen o g = min ((g + 1) * o.seg) o.count ∧ 1 ≤ segLen o g := by
  have inside := (lt_segCount_iff pos g).mp lt
  have next : (g + 1) * o.seg = g * o.seg + o.seg := Nat.succ_mul _ _
  simp only [segStart, segLen, next]
  omega

/-! ## Shards -/

theorem mem_shardOf (s : State) (o : TrigOp) (k g : Nat) : g ∈ shardOf s o k ↔
    shardLo o.op (opMembers s o).length k ≤ g ∧ g < shardLo o.op (opMembers s o).length (k + 1) := by
  simp only [shardOf, List.mem_map, List.mem_range]
  constructor
  · rintro ⟨i, lt, rfl⟩
    omega
  · rintro ⟨le, lt⟩
    exact ⟨g - shardLo o.op (opMembers s o).length k, by omega, by omega⟩

/-- Rank 0 owns nothing where there are fewer segments than members. -/
theorem shardOf_zero_empty {s : State} {o : TrigOp} (few : segCount o.op < (opMembers s o).length) :
    shardOf s o 0 = [] := by
  refine List.eq_nil_iff_forall_not_mem.mpr fun g owned => ?_
  have lt := ((mem_shardOf s o 0 g).mp owned).2
  rw [shardLo, zero_add, one_mul, Nat.div_eq_of_lt few] at lt
  omega

/-- The one rank whose shard holds a segment. -/
def segOwner (n G g : Nat) : Nat := ((g + 1) * n - 1) / G

theorem segOwner_lt {n G g : Nat} (members : n ≠ 0) (lt : g < G) : segOwner n G g < n := by
  have : (g + 1) * n ≤ G * n := Nat.mul_le_mul_right n lt
  refine Nat.div_lt_of_lt_mul ?_
  have : 0 < (g + 1) * n := by positivity
  omega

/-- A segment lies in the shard of its owner and in no other. -/
theorem mem_shardOf_iff_owner {s : State} {o : TrigOp} {g : Nat} (members : (opMembers s o).length ≠ 0)
    (lt : g < segCount o.op) (k : Nat) :
    g ∈ shardOf s o k ↔ k = segOwner (opMembers s o).length (segCount o.op) g := by
  rw [mem_shardOf, shardLo, shardLo, segOwner]
  generalize (opMembers s o).length = n at *
  generalize segCount o.op = G at *
  have some_ : 0 < n := Nat.pos_of_ne_zero members
  have units : 0 < (g + 1) * n := by positivity
  have low : k * G / n ≤ g ↔ k * G ≤ (g + 1) * n - 1 := by
    rw [← Nat.lt_add_one_iff, Nat.div_lt_iff_lt_mul some_]
    omega
  have high : g < (k + 1) * G / n ↔ (g + 1) * n - 1 < (k + 1) * G := by
    rw [← Nat.add_one_le_iff, Nat.le_div_iff_mul_le some_]
    omega
  rw [low, high, eq_comm, Nat.div_eq_iff (by omega), add_one_mul k]
  omega

/-- The exchange sends a segment to its owner. -/
theorem ownerOf_eq {s : State} {o : TrigOp} {g : Nat} (members : (opMembers s o).length ≠ 0)
    (lt : g < segCount o.op) : ownerOf s o g = segOwner (opMembers s o).length (segCount o.op) g := by
  have only := mem_shardOf_iff_owner members lt
  have found : firstFrom (fun k => (shardOf s o k).contains g) (opMembers s o).length 0 =
      some (segOwner (opMembers s o).length (segCount o.op) g) := by
    refine firstFrom_eq_some (Nat.zero_le _) ?_ ?_ fun j _ before => ?_
    · rw [zero_add]
      exact segOwner_lt members lt
    · exact List.contains_iff_mem.mpr ((only _).mpr rfl)
    · exact Bool.eq_false_iff.mpr fun owned => before.ne ((only j).mp (List.contains_iff_mem.mp owned))
  rw [ownerOf, found]
  rfl

/-- Settles O50: G is the least count that covers the operation (`segCount_le_iff`), and a segment lies in the shard of its
owner alone (`mem_shardOf_iff_owner`). -/
theorem segmentsAndShards : Obligations.SegmentsAndShards := by
  refine ⟨fun o _ pos => ⟨(segCount_le_iff pos _).mp le_rfl, fun G => (segCount_le_iff pos G).mpr,
      fun g lt => segment_bounds pos lt⟩,
    fun s o k g _ => mem_shardOf s o k g, fun s o few => shardOf_zero_empty few, fun s o g members lt => ?_⟩
  have only := mem_shardOf_iff_owner members lt
  rw [ownerOf_eq members lt]
  exact ⟨segOwner_lt members lt, (only _).mpr rfl, fun k _ => (only k).mp⟩

end Sys2Proof.Proofs
end

section
/-!
Collective groups (chapter 13, R343, R344): the member list read, the group made of it, and the opcodes on a group.
-/
namespace Sys2Proof.Proofs
open Sys2Proof.Machine Sys2Proof.Laws

/-! ## Reading an operand from memory -/

@[simp] theorem touch_col (slot off n : Nat) (wr : Bool) (s : State) : (touch slot off n wr s).col = s.col :=
  (touch_keeps (keeps_refl _ s) (sub_refl _) slot off n wr).only.col rfl

/-- An access posts attention at most, and changes no descriptor. -/
@[simp] theorem touch_descs (slot off n : Nat) (wr : Bool) (s : State) :
    (touch slot off n wr s).cmd.descs = s.cmd.descs := by
  unfold touch
  extract_lets z
  have cmd : z.cmd = s.cmd :=
    (keeps_foldl (fun _ _ l k => keeps_ite (fun _ => k) fun _ => touchLine_keeps k (sub_refl _) slot l off n wr)
      (keeps_refl _ s)).only.cmd rfl
  have same : z.cmd.descs = s.cmd.descs := congrArg CmdState.descs cmd
  split
  · split
    · exact same
    · exact same
  · exact same

/-- The state in which an opcode has read `n` bytes of the object its operands name. -/
def operandSeen (s : State) (d : Desc) (n : Nat) : State := touch (hSlot (dfld d 24 4)) (dfld d 32 8) n false s

@[simp] theorem operandSeen_descs (s : State) (d : Desc) (n : Nat) : (operandSeen s d n).cmd.descs = s.cmd.descs :=
  touch_descs _ _ _ _ _

/-- An opcode may read `n` bytes: the object is its own, and the range lies in it (R78, R101). -/
def MayRead (s : State) (d : Desc) (n : Nat) : Prop :=
  needH s d Hk.mem 24 = none ∧ needRange s (dfld d 24 4) (dfld d 32 8) n 32 = none

theorem MayRead.checks {s : State} {d : Desc} {n : Nat} (may : MayRead s d n) :
    firstFail [needH s d Hk.mem 24, needRange s (dfld d 24 4) (dfld d 32 8) n 32] = none := by
  obtain ⟨named, within⟩ := may
  rw [named, within]
  rfl

/-- No line of the bytes read is poisoned. -/
def CleanOperand (s : State) (d : Desc) (n : Nat) : Prop :=
  poisonedIn (operandSeen s d n) (hSlot (dfld d 24 4)) (dfld d 32 8) n = false

/-! ## The member list and the own rank (R343, R344) -/

/-- The node IDs of the `n` members that GROUP_CREATE reads. -/
def memberList (s : State) (d : Desc) (n : Nat) : List Nat :=
  (List.range n).map fun i =>
    ofLe (readMem (operandSeen s d (4 * n)) (.desc d.qp d.sub) (hSlot (dfld d 24 4)) (dfld d 32 8 + 4 * i) 4) % 2 ^ 24

/-- The place of the chip's node in a list. -/
def ownPlace (s : State) (ms : List Nat) : Option Nat :=
  firstFrom (fun i => decide (ms[i]? = some (nodeId s))) ms.length 0

/-- A list without the chip's node or with a repeat. -/
def badList (s : State) (ms : List Nat) : Bool :=
  (ownPlace s ms).isNone || hasDup ms

theorem memberList_length (s : State) (d : Desc) (n : Nat) : (memberList s d n).length = n := by
  rw [memberList, List.length_map, List.length_range]

theorem ownPlace_listed {s : State} {ms : List Nat} (listed : nodeId s ∈ ms) :
    ∃ r, ownPlace s ms = some r ∧ ms[r]? = some (nodeId s) ∧ r < ms.length := by
  obtain ⟨j, here⟩ := List.mem_iff_getElem?.mp listed
  have lt : j < ms.length := (List.getElem?_eq_some_iff.mp here).1
  obtain ⟨r, found⟩ := firstFrom_exists (p := fun i => decide (ms[i]? = some (nodeId s))) (Nat.zero_le j)
    (by omega : j < 0 + ms.length) (decide_eq_true here)
  obtain ⟨place, -, below⟩ := firstFrom_some found
  exact ⟨r, found, of_decide_eq_true place, by omega⟩

theorem badList_of_refused {s : State} {ms : List Nat} (h : nodeId s ∉ ms ∨ hasDup ms = true) : badList s ms = true := by
  rcases h with unlisted | twice
  · have absent : ownPlace s ms = none :=
      firstFrom_none fun _ _ _ => decide_eq_false fun here => unlisted (List.mem_of_getElem? here)
    simp [badList, absent]
  · simp [badList, twice]

theorem badList_of_listed {s : State} {ms : List Nat} (listed : nodeId s ∈ ms) (once : hasDup ms = false) :
    badList s ms = false := by
  obtain ⟨r, found, -, -⟩ := ownPlace_listed listed
  simp [badList, found, once]

/-- The group that GROUP_CREATE makes of its list. -/
def createdGroup (c : Nat) (d : Desc) (ms : List Nat) (rank : Nat) : Group :=
  { ctx := c, tag := dfld d 44 4, members := ms, rank := rank
    switch := if dfld d 48 3 = 0xFFFFFF then none else some (dfld d 48 3)
    base := groupBase (dfld d 44 4) ms, nextSeq := 0, held := [] }

/-- A group put at an index. -/
def groupPut (i : Nat) (g : Group) (s : State) : State := modCol (fun k => { k with groups := tput k.groups i g }) s

/-- What a GROUP_CREATE that nothing refuses leaves: its group at an index, answered with the rank. -/
def groupCreated (s : State) (c : Nat) (d : Desc) (n i r : Nat) : State :=
  endD d { resOf 0 with aux := i, value := r }
    (groupPut i (createdGroup c d (memberList s d n) r) (operandSeen s d (4 * n)))

/-- The lowest free index of a group. -/
def freeGroup (s : State) : Option Nat := firstFrom (fun i => !thas s.col.groups i) 4096 0

section Create
variable {s : State} {qp sub c n : Nat} {d : Desc} (h : Started s qp sub 0x72 d) (ctx : descCtx s d = some c)
  (count : n = clampTo 1 1024 (dfld d 40 2)) (may : MayRead s d (4 * n)) (clean : CleanOperand s d (4 * n))
include h ctx count may clean

theorem groupCreate_badList (bad : badList (operandSeen s d (4 * n)) (memberList s d n) = true) :
    exec (.groupCreate qp sub) s = .next (endD d (refuse 0x11 24) (operandSeen s d (4 * n))) := by
  obtain ⟨rfl, rfl⟩ := findDesc_place h.1
  rw [badList, ownPlace, memberList_length] at bad
  subst count
  refine congrArg Host.Outcome.next ((onStarted_started h).trans ?_)
  simp only [ctx]
  exact (guarded_pass may.checks _ _ _).trans ((if_neg (Bool.eq_false_iff.mp clean)).trans (if_pos bad))

variable (good : badList (operandSeen s d (4 * n)) (memberList s d n) = false)
include good

theorem groupCreate_tagTaken (taken : ∃ e ∈ (operandSeen s d (4 * n)).col.groups, e.2.tag = dfld d 44 4) :
    exec (.groupCreate qp sub) s = .next (endD d (refuse 0x11 44) (operandSeen s d (4 * n))) := by
  obtain ⟨rfl, rfl⟩ := findDesc_place h.1
  rw [badList, ownPlace, memberList_length] at good
  subst count
  refine congrArg Host.Outcome.next ((onStarted_started h).trans ?_)
  simp only [ctx]
  refine (guarded_pass may.checks _ _ _).trans ((if_neg (Bool.eq_false_iff.mp clean)).trans
    ((if_neg (Bool.eq_false_iff.mp good)).trans (if_pos ?_)))
  simpa [operandSeen] using taken

theorem groupCreate_creates {r i : Nat}
    (ranked : ownPlace (operandSeen s d (4 * n)) (memberList s d n) = some r)
    (unused : ∀ e ∈ (operandSeen s d (4 * n)).col.groups, e.2.tag ≠ dfld d 44 4)
    (shared : confidential (operandSeen s d (4 * n)) = false) (room : (operandSeen s d (4 * n)).col.groups.length < 256)
    (free : freeGroup (operandSeen s d (4 * n)) = some i) :
    exec (.groupCreate qp sub) s = .next (groupCreated s c d n i r) := by
  obtain ⟨rfl, rfl⟩ := findDesc_place h.1
  rw [badList, ownPlace, memberList_length] at good
  rw [ownPlace, memberList_length] at ranked
  subst count
  refine congrArg Host.Outcome.next ((onStarted_started h).trans ?_)
  simp only [ctx]
  refine (guarded_pass may.checks _ _ _).trans ((if_neg (Bool.eq_false_iff.mp clean)).trans
    ((if_neg (Bool.eq_false_iff.mp good)).trans ((if_neg ?unused).trans ((if_neg ?shared).trans ?_))))
  case unused => simpa [operandSeen] using unused
  case shared => exact fun both => Bool.false_ne_true (shared.symm.trans (Bool.and_eq_true_iff.mp both).1)
  have few : ¬256 ≤ ((operandSeen s d (4 * clampTo 1 1024 (dfld d 40 2))).col.groups.filter
      fun e => decide (e.2.ctx = c)).length := not_le.mpr ((List.length_filter_le _ _).trans_lt room)
  rw [freeGroup, operandSeen] at free
  rw [free]
  refine (if_neg few).trans ?_
  exact congrArg (groupCreated s c d _ i) (congrArg (Option.getD · 0) ranked)

end Create

theorem resultOf_groupCreated {s : State} {qp sub c n i r : Nat} {d : Desc} (h : Started s qp sub 0x72 d) :
    resultOf (groupCreated s c d n i r) qp sub = some { resOf 0 with aux := i, value := r } :=
  started_ends h (operandSeen_descs s d (4 * n)) _

theorem tget_groupCreated (s : State) (c : Nat) (d : Desc) (n i r : Nat) :
    tget (groupCreated s c d n i r).col.groups i = some (createdGroup c d (memberList s d n) r) :=
  tget_tput_same _ _ _

/-! ## The other opcodes on a group (R343) -/

section OnGroup
variable {s : State} {qp sub : Nat} {d : Desc} {g : Group}

theorem needGroup_own (there : tget s.col.groups (dfld d 24 2) = some g) (own : some g.ctx = descCtx s d) :
    firstFail [needGroup s d] = none := by
  rw [needGroup, there]
  dsimp only
  rw [chk_pass (decide_eq_true own)]
  rfl

theorem needGroup_absent (absent : tget s.col.groups (dfld d 24 2) = none) :
    firstFail [needGroup s d] = some (refuse 0x10 24) := by
  rw [needGroup, absent]
  rfl

theorem groupQuery_answers (h : Started s qp sub 0x74 d) (there : tget s.col.groups (dfld d 24 2) = some g)
    (own : some g.ctx = descCtx s d) : exec (.groupQuery qp sub) s = .next (endD d { resOf 0 with
      aux := (s.col.ops.filter fun o => decide (o.op.group = dfld d 24 2)).length
      value := g.nextSeq + g.rank * 2 ^ 32 } s) := by
  refine congrArg Host.Outcome.next ((onStarted_started h).trans ((guarded_pass (needGroup_own there own) _ _ _).trans ?_))
  rw [there]
  rfl

/-- A cancellation that selects nothing leaves the operations, the groups and the descriptors. -/
theorem cancelOps_none {p : TrigOp → Bool} (selects : s.col.ops.filter p = []) :
    cancelOps p s = modTsk (fun k => { k with nextFire := k.nextFire + 1 }) s := by
  rw [cancelOps, selects]
  exact settle_nil s

/-- A group taken out. -/
def groupRemoved (i : Nat) (s : State) : State := modCol (fun k => { k with groups := tdel k.groups i }) s

theorem groupDestroy_removes (h : Started s qp sub 0x73 d) (there : tget s.col.groups (dfld d 24 2) = some g)
    (own : some g.ctx = descCtx s d) (idle : ∀ o ∈ s.col.ops, o.op.group ≠ dfld d 24 2) :
    exec (.groupDestroy qp sub) s = .next (endD d (resOf 0)
      (groupRemoved (dfld d 24 2) (modTsk (fun k => { k with nextFire := k.nextFire + 1 }) s))) := by
  refine congrArg Host.Outcome.next ((onStarted_started h).trans ((guarded_pass (needGroup_own there own) _ _ _).trans ?_))
  have nothing : s.col.ops.filter (fun o => decide (o.op.group = dfld d 24 2)) = [] := by simpa using idle
  dsimp only
  rw [cancelOps_none nothing]
  rfl

/-- A group that is not there is refused by its opcodes. -/
theorem noGroup_refused {c : Instr} {op : Nat} (h : Started s qp sub op d)
    (named : c = .groupDestroy qp sub ∧ op = 0x73 ∨ c = .groupQuery qp sub ∧ op = 0x74)
    (absent : tget s.col.groups (dfld d 24 2) = none) : exec c s = .next (endD d (refuse 0x10 24) s) := by
  rcases named with ⟨rfl, rfl⟩ | ⟨rfl, rfl⟩
  · exact congrArg Host.Outcome.next ((onStarted_started h).trans (guarded_fail (needGroup_absent absent) _ _ _))
  · exact congrArg Host.Outcome.next ((onStarted_started h).trans (guarded_fail (needGroup_absent absent) _ _ _))

end OnGroup

end Sys2Proof.Proofs
end

section
/-!
Triggered operations (chapter 13, R339 to R341, R344, R361): posting, cancelling and starting.
-/
namespace Sys2Proof.Proofs
open Sys2Proof.Machine Sys2Proof.Laws

/-! ## TRIG_POST (R339 to R341, R344) -/

/-- The 128 bytes of the record that TRIG_POST reads. -/
def postRecord (s : State) (d : Desc) : List Byte :=
  readMem (operandSeen s d 128) (.desc d.qp d.sub) (hSlot (dfld d 24 4)) (dfld d 32 8) 128

/-- The checks of a post of one record are the checks of that record. -/
theorem postFail_one (s : State) (c : Nat) (b : List Byte) : postFail s c [b] =
    (recFail s c (recGroup s b) b (recOf s c ((recGroup s b).getD noGroup) b)).map fun r => (0, r) := by
  show List.findSome? _ [(0, b)] = _
  rw [List.findSome?_singleton]

/-- An illegal KIND fails first, at offset 0 (R339; log 73). -/
theorem recFail_kind {o : OpRec} (illegal : o.kind = 0 ∨ 5 < o.kind) (s : State) (c : Nat) (g : Option Group)
    (b : List Byte) : recFail s c g b o = some (refuse 0x11 0) := by
  have bad : (decide (1 ≤ o.kind) && decide (o.kind ≤ 5)) = false := by
    rw [Bool.and_eq_false_iff, decide_eq_false_iff_not, decide_eq_false_iff_not]
    omega
  unfold recFail
  rw [chk_fail bad]
  rfl

/-- A record's threshold is never 0 (R10). -/
theorem recOf_threshold_pos (s : State) (c : Nat) (g : Group) (b : List Byte) : 1 ≤ (recOf s c g b).threshold := by
  show 1 ≤ clampTo 1 (2 ^ 32 - 1) _
  rw [clampTo_max_min (by decide)]
  exact le_max_left _ _

/-- The operation that a record posts on its group. -/
def postedOp (s : State) (c : Nat) (g : Group) (b : List Byte) : TrigOp :=
  { id := s.col.nextOp, ctx := c, op := recOf s c g b, seq := g.nextSeq
    sig := opSignature g.base b (recOf s c g b).seg, state := .pending
    engine := leadEngine (recOf s c g b).part (recOf s c g b).mask
    preAbort := (g.held.find? fun h => decide (h.sub = 5) && decide (h.seq = g.nextSeq)).map HeldCtl.rank
    segs := [], dones := [], readys := [], sentTo := [], recvd := [], gathering := false, bytes := 0, flags := 0
    viaSwitch := match switchCaps s g (recOf s c g b) with
      | some k => decide (256 ≤ switchSeg k (recOf s c g b).dtype)
      | none => false
    unacked := [], busy := [], fired := 0, access := false }

/-- The group after a post: its next OP_SEQ is taken, and an ABORT that waited for it is gone. -/
def postedGroup (g : Group) : Group :=
  { g with nextSeq := (g.nextSeq + 1) % 2 ^ 32
           held := g.held.filter fun h => !(decide (h.sub = 5) && decide (h.seq = g.nextSeq)) }

/-- An operation posted on a group. -/
def opPosted (c : Nat) (g : Group) (b : List Byte) (s : State) : State :=
  modCol (fun k => { k with ops := k.ops ++ [postedOp s c g b], nextOp := k.nextOp + 1
                            groups := tput k.groups (recOf s c g b).group (postedGroup g) }) s

/-- An event without signal and count satisfies no trigger (R341). -/
theorem opTriggered_unsignalled {e : Event} (unsignalled : e.signalled = false) (zero : e.count = 0) (slot : Nat)
    {o : TrigOp} (pos : 1 ≤ o.op.threshold) : opTriggered slot e o = false := by
  have below : ¬o.op.threshold ≤ 0 := by omega
  simp [opTriggered, unsignalled, zero, below]

/-- A record whose trigger is not satisfied is posted and sets nothing going (R340). -/
theorem postOne_waits {s : State} {c : Nat} {b : List Byte} {g : Group} {e : Event} (named : recGroup s b = some g)
    (trigger : tget s.evs (recOf s c g b).trigger = some e) (unsignalled : e.signalled = false) (zero : e.count = 0) :
    postOne c b s = ([], opPosted c g b s) := by
  have waits : opTriggered (recOf s c g b).trigger e (postedOp s c g b) = false :=
    opTriggered_unsignalled unsignalled zero _ (recOf_threshold_pos s c g b)
  unfold postOne
  simp only [named, modCol_evs, trigger]
  exact if_neg (Bool.eq_false_iff.mp waits)

theorem postEach_one {s t : State} {c : Nat} {b : List Byte} (quiet : postOne c b s = ([], t)) :
    postEach c [b] s = ([], t) := by
  simp only [postEach, quiet, List.nil_append]

/-- The state a quiet post leaves, before its descriptor ends. -/
def postSettled (d : Desc) (c lo : Nat) (s : State) : State :=
  modTsk (fun k => { k with nextFire := k.nextFire + 1 }) (postedBy d c lo s)

theorem postedBy_only (d : Desc) (c lo : Nat) (s : State) : Only (partMask [.runners]) s (postedBy d c lo s) :=
  (postedBy_keeps (keeps_refl (partMask [.runners]) s) rfl d c lo).only

@[simp] theorem postSettled_col (d : Desc) (c lo : Nat) (s : State) : (postSettled d c lo s).col = s.col :=
  (postedBy_only d c lo s).col rfl

@[simp] theorem postSettled_cmd (d : Desc) (c lo : Nat) (s : State) : (postSettled d c lo s).cmd = s.cmd :=
  (postedBy_only d c lo s).cmd rfl

/-- What a TRIG_POST of one record whose trigger is not satisfied leaves. -/
def trigPosted (s : State) (d : Desc) (c : Nat) (g : Group) : State :=
  endD d { resOf 0 with aux := 1 }
    (postSettled d c (operandSeen s d 128).col.nextOp (opPosted c g (postRecord s d) (operandSeen s d 128)))

section Post
variable {s : State} {qp sub c : Nat} {d : Desc} (h : Started s qp sub 0x70 d) (ctx : descCtx s d = some c)
  (one : clampTo 1 4096 (dfld d 40 4) = 1) (may : MayRead s d 128) (clean : CleanOperand s d 128)
include h ctx one may clean

theorem trigPost_refused {r : Result}
    (fails : recFail (operandSeen s d 128) c (recGroup (operandSeen s d 128) (postRecord s d)) (postRecord s d)
      (recOf (operandSeen s d 128) c ((recGroup (operandSeen s d 128) (postRecord s d)).getD noGroup) (postRecord s d)) =
        some r) :
    exec (.trigPost qp sub) s = .next (endD d { refuse r.status 24 with value := r.aux } (operandSeen s d 128)) := by
  obtain ⟨rfl, rfl⟩ := findDesc_place h.1
  have failed : postFail (operandSeen s d 128) c [postRecord s d] = some (0, r) := by
    rw [postFail_one, fails]
    rfl
  rw [operandSeen, postRecord, operandSeen] at failed
  refine congrArg Host.Outcome.next ((onStarted_started h).trans ?_)
  simp only [ctx, one]
  refine (guarded_pass may.checks _ _ _).trans ((if_neg (Bool.eq_false_iff.mp clean)).trans ?_)
  simp only [List.range_one, List.map_singleton, Nat.mul_zero, Nat.add_zero, Nat.mul_one, failed, Nat.zero_add]
  rfl

theorem trigPost_posts {g : Group} {e : Event} (named : recGroup (operandSeen s d 128) (postRecord s d) = some g)
    (good : recFail (operandSeen s d 128) c (some g) (postRecord s d) (recOf (operandSeen s d 128) c g (postRecord s d)) = none)
    (room : (operandSeen s d 128).col.ops.length < 16384)
    (trigger : tget (operandSeen s d 128).evs (recOf (operandSeen s d 128) c g (postRecord s d)).trigger = some e)
    (unsignalled : e.signalled = false) (zero : e.count = 0) :
    exec (.trigPost qp sub) s = .next (trigPosted s d c g) := by
  obtain ⟨rfl, rfl⟩ := findDesc_place h.1
  have passed : postFail (operandSeen s d 128) c [postRecord s d] = none := by
    rw [postFail_one, named, Option.getD_some, good]
    rfl
  have posted := postEach_one (postOne_waits named trigger unsignalled zero)
  have few : ((operandSeen s d 128).col.ops.filter fun o => decide (o.ctx = c)).length < 16384 :=
    (List.length_filter_le _ _).trans_lt room
  rw [operandSeen, postRecord, operandSeen] at passed posted
  refine congrArg Host.Outcome.next ((onStarted_started h).trans ?_)
  simp only [ctx, one]
  refine (guarded_pass may.checks _ _ _).trans ((if_neg (Bool.eq_false_iff.mp clean)).trans ?_)
  simp only [List.range_one, List.map_singleton, Nat.mul_zero, Nat.add_zero, Nat.mul_one, passed]
  rw [operandSeen] at few room
  refine (if_neg (by omega)).trans ((if_neg (by omega)).trans ?_)
  rw [posted, settle_nil]
  rfl

end Post

theorem trigPosted_col (s : State) (d : Desc) (c : Nat) (g : Group) :
    (trigPosted s d c g).col = (opPosted c g (postRecord s d) (operandSeen s d 128)).col := postSettled_col ..

theorem trigPosted_ops (s : State) (d : Desc) (c : Nat) (g : Group) : (trigPosted s d c g).col.ops =
    (operandSeen s d 128).col.ops ++ [postedOp (operandSeen s d 128) c g (postRecord s d)] :=
  congrArg ColState.ops (trigPosted_col s d c g)

/-- A post leaves its group with the next OP_SEQ (R340). -/
theorem tget_trigPosted (s : State) (d : Desc) (c : Nat) (g : Group) :
    tget (trigPosted s d c g).col.groups (recOf (operandSeen s d 128) c g (postRecord s d)).group = some (postedGroup g) := by
  rw [trigPosted_col]
  exact tget_tput_same _ _ _

theorem resultOf_trigPosted {s : State} {qp sub : Nat} {d : Desc} (h : Started s qp sub 0x70 d) (c : Nat) (g : Group) :
    resultOf (trigPosted s d c g) qp sub = some { resOf 0 with aux := 1 } := by
  refine started_ends h ?_ _
  rw [postSettled_cmd]
  exact operandSeen_descs s d 128

/-! ## TRIG_CANCEL (R361) -/

@[simp] theorem opTell_col (o : TrigOp) (kind first : Nat) (vals : List Int) (nodes : List Nat) (s : State) :
    (opTell o kind first vals nodes s).col = s.col :=
  (opTell_keeps (keeps_refl _ s) (sub_refl _) o kind first vals nodes).only.col rfl

@[simp] theorem opTell_cmd (o : TrigOp) (kind first : Nat) (vals : List Int) (nodes : List Nat) (s : State) :
    (opTell o kind first vals nodes s).cmd = s.cmd :=
  (opTell_keeps (keeps_refl _ s) (sub_refl _) o kind first vals nodes).only.cmd rfl

/-- An operation whose end writes no status record and signals no event. -/
def Unreported (o : TrigOp) : Prop := o.op.status = none ∧ o.op.complete = none

theorem opFinish_unreported {o : TrigOp} (silent : Unreported o) (reason rank : Nat) (s : State) :
    opFinish o reason rank s = ([], modCol (fun c => { c with ops := c.ops.filter fun p => p.id ≠ o.id }) s) := by
  obtain ⟨noStatus, noEvent⟩ := silent
  simp only [opFinish, noStatus, noEvent]

/-- An unreported operation that fails is taken out, and sets nothing going. -/
theorem opFail_unreported {o : TrigOp} (silent : Unreported o) (reason rank : Nat) (tell : Bool) (s : State) :
    ∃ t, opFail o reason rank tell s = ([], t) ∧ t.col.ops = s.col.ops.filter (fun p => decide (p.id ≠ o.id)) ∧
      t.cmd = s.cmd := by
  refine ⟨_, opFinish_unreported silent _ _ _, ?_, ?_⟩
  · cases tell
    · rfl
    · show (opTell o 5 0 [(reason : Int), rank, 0] (opPeers s o) s).col.ops.filter _ = _
      rw [opTell_col]
  · cases tell
    · rfl
    · exact opTell_cmd ..

/-- Unreported operations that fail in turn are taken out. -/
theorem opsFail_unreported {os : List TrigOp} (silent : ∀ o ∈ os, Unreported o) (reason : Nat) (s : State) :
    ∃ t, opsFail reason os s = ([], t) ∧ t.col.ops = s.col.ops.filter (fun p => decide (p.id ∉ os.map TrigOp.id)) ∧
      t.cmd = s.cmd := by
  induction os generalizing s with
  | nil => exact ⟨s, rfl, by simp, rfl⟩
  | cons o os ih =>
    obtain ⟨t, first, ops, cmd⟩ := opFail_unreported (silent o List.mem_cons_self) reason (opRank s o)
      (decide (reason ≠ 0x0A) || opFired o) s
    obtain ⟨u, rest, ops', cmd'⟩ := ih (fun p mem => silent p (List.mem_cons_of_mem _ mem)) t
    refine ⟨u, ?_, ?_, cmd'.trans cmd⟩
    · rw [opsFail, first]
      simp only [rest, List.nil_append]
    · rw [ops', ops, List.filter_filter]
      refine List.filter_congr fun p _ => ?_
      simp only [List.map_cons, List.mem_cons, not_or, Bool.decide_and, ne_eq, Bool.and_comm]

/-- Where no two operations share a number, those without a selected number are those not selected. -/
theorem filter_id_notMem {l : List TrigOp} (distinct : (l.map TrigOp.id).Nodup) (p : TrigOp → Bool) :
    l.filter (fun o => decide (o.id ∉ (l.filter p).map TrigOp.id)) = l.filter (fun o => !p o) := by
  refine List.filter_congr fun o mem => ?_
  have same : o.id ∈ (l.filter p).map TrigOp.id ↔ p o = true := by
    rw [List.mem_map]
    constructor
    · rintro ⟨q, selected, eq⟩
      obtain ⟨listed, holds⟩ := List.mem_filter.mp selected
      exact List.inj_on_of_nodup_map distinct listed mem eq ▸ holds
    · exact fun holds => ⟨o, List.mem_filter.mpr ⟨mem, holds⟩, rfl⟩
  simp [same]

/-- Cancelling takes out exactly what is selected, and no descriptor. -/
theorem cancelOps_unreported {s : State} (distinct : (s.col.ops.map TrigOp.id).Nodup)
    (silent : ∀ o ∈ s.col.ops, Unreported o) (p : TrigOp → Bool) :
    (cancelOps p s).col.ops = s.col.ops.filter (fun o => !p o) ∧ (cancelOps p s).cmd = s.cmd := by
  obtain ⟨t, run, ops, cmd⟩ := opsFail_unreported (fun o mem => silent o (List.mem_filter.mp mem).1) 0x0A s
    (os := s.col.ops.filter p)
  have ends : cancelOps p s = modTsk (fun k => { k with nextFire := k.nextFire + 1 }) t := by
    simp only [cancelOps, run, settle_nil]
  rw [ends]
  exact ⟨ops.trans (filter_id_notMem distinct p), cmd⟩

/-- The operations of the descriptor's context that TRIG_CANCEL selects by its tag and mask. -/
def cancelHits (s : State) (d : Desc) (o : TrigOp) : Bool :=
  decide (some o.ctx = descCtx s d) && decide (Nat.land o.op.tag (dfld d 32 8) = Nat.land (dfld d 24 8) (dfld d 32 8))

theorem trigCancel_cancels {s : State} {qp sub : Nat} {d : Desc} (h : Started s qp sub 0x71 d) :
    exec (.trigCancel qp sub) s = .next (endD d { resOf 0 with aux := (s.col.ops.filter (cancelHits s d)).length }
      (cancelOps (cancelHits s d) s)) :=
  congrArg Host.Outcome.next (onStarted_started h)

/-! ## COLLECTIVE_OP_START (R363; log 75) -/

/-- An operation that starts without its switch. -/
def startedDirect (o : TrigOp) : TrigOp := { o with state := .running, viaSwitch := false, flags := 0 }

section Start
variable {s : State} {eng : Nat} {o : TrigOp}

theorem collectiveOpStart_starts (first : queueHead s eng = some o) (up : colEngUp s eng = true)
    (room : ∀ e, e < 32 → opOn o e = true → runningOn s e < 4) (direct : o.viaSwitch = false) :
    exec (.collectiveOpStart eng) s =
      .next (checkDone o.id (heldAct o.id (directBegin o.id (modOp o.id startedDirect s)))) := by
  have free : ((List.range 32).all fun e => !opOn o e || decide (runningOn s e < 4)) = true := by
    rw [List.all_eq_true]
    intro e mem
    cases on : opOn o e with
    | false => rfl
    | true => simp [room e (List.mem_range.mp mem) on]
  show Host.Outcome.next _ = _
  simp only [first, up, free, Bool.and_self, if_true, direct, Bool.false_and, Bool.false_eq_true, if_false]
  rfl

theorem collectiveOpStart_waits (first : queueHead s eng = some o) {e : Nat} (legal : e < 32) (on : opOn o e = true)
    (busy : 4 ≤ runningOn s e) : exec (.collectiveOpStart eng) s = .next s := by
  have full : ((List.range 32).all fun e => !opOn o e || decide (runningOn s e < 4)) = false := by
    rw [List.all_eq_false]
    exact ⟨e, List.mem_range.mpr legal, by simp [on, busy]⟩
  show Host.Outcome.next _ = _
  simp only [first, full, Bool.and_false, Bool.false_eq_true, if_false]

theorem collectiveOpStart_empty (empty : queueHead s eng = none) : exec (.collectiveOpStart eng) s = .next s := by
  show Host.Outcome.next _ = _
  simp only [empty]

end Start

/-! ## The statements -/

/-- The shards of the ranks follow one another from the first segment to the last. -/
theorem shardLo_covers (o : OpRec) {n : Nat} (members : 0 < n) :
    shardLo o n 0 = 0 ∧ shardLo o n n = segCount o ∧ ∀ k, shardLo o n k ≤ shardLo o n (k + 1) := by
  refine ⟨?_, Nat.mul_div_cancel_left _ members, fun k => ?_⟩
  · rw [shardLo, Nat.zero_mul, Nat.zero_div]
  · exact Nat.div_le_div_right (Nat.mul_le_mul_right _ (Nat.le_succ k))

/-- Settles O29: groups by `groupCreate_creates` and its refusals, posts by `trigPost_posts` and `trigPost_refused` (log 73: AUX
24 and the status of the record that fails), cancelling by `cancelOps_unreported`, starting by `collectiveOpStart_starts` (log 75:
the lowest free index, four operations an engine). -/
theorem collectivePosting : Obligations.CollectivePosting := by
  refine ⟨?create, ?badList, ?tagTaken, ?query, ?destroy, ?absent, ?post, ?refused, ?kind, ?cancel, ?start, ?waits, ?empty,
    fun o n members => shardLo_covers o members⟩
  case create =>
    intro s qp sub d c n i h ctx count may clean listed once unused shared room legal free taken
    obtain ⟨r, ranked, place, -⟩ := ownPlace_listed (ms := memberList s d n) listed
    have lowest : freeGroup (operandSeen s d (4 * n)) = some i := by
      refine firstFrom_eq_some (Nat.zero_le i) (by omega) ?_ fun j _ before => ?_
      · exact congrArg (fun g : Option Group => !g.isSome) free
      · exact congrArg Bool.not (taken j before)
    exact ⟨_, groupCreate_creates h ctx count may clean (badList_of_listed listed once) ranked unused shared room lowest,
      createdGroup c d (memberList s d n) r, tget_groupCreated s c d n i r, rfl, rfl, rfl, place, rfl, resultOf_groupCreated h⟩
  case badList =>
    intro s qp sub d c n h ctx count may clean bad
    exact ⟨_, groupCreate_badList h ctx count may clean (badList_of_refused bad),
      started_ends h (operandSeen_descs s d (4 * n)) _, rfl⟩
  case tagTaken =>
    intro s qp sub d c n h ctx count may clean listed once taken
    exact ⟨_, groupCreate_tagTaken h ctx count may clean (badList_of_listed listed once) taken,
      started_ends h (operandSeen_descs s d (4 * n)) _, rfl⟩
  case query =>
    intro s qp sub d g h there own
    exact ⟨_, groupQuery_answers h there own, rfl, started_ends h rfl _⟩
  case destroy =>
    intro s qp sub d g h there own idle
    exact ⟨_, groupDestroy_removes h there own idle, rfl, started_ends h rfl _⟩
  case absent =>
    intro c s qp sub d op h named absent
    exact ⟨_, noGroup_refused h named absent, started_ends h rfl _, rfl⟩
  case post =>
    intro s qp sub d c b g e h ctx one may clean record named good room trigger unsignalled zero
    subst record
    refine ⟨_, trigPost_posts h ctx one may clean named good room trigger unsignalled zero,
      postedOp (operandSeen s d 128) c g (postRecord s d), ?ops, rfl, rfl, rfl, rfl, rfl, ?seq, ?result⟩
    case ops => exact trigPosted_ops s d c g
    case seq => exact congrArg (Option.map Group.nextSeq) (tget_trigPosted s d c g)
    case result => exact resultOf_trigPosted h c g
  case refused =>
    intro s qp sub d c b r h ctx one may clean record fails
    subst record
    exact ⟨_, trigPost_refused h ctx one may clean fails, rfl, started_ends h (operandSeen_descs s d 128) _⟩
  case kind => exact fun s c g b o illegal => recFail_kind illegal s c g b
  case cancel =>
    intro s qp sub d h distinct silent
    obtain ⟨ops, cmd⟩ := cancelOps_unreported distinct silent (cancelHits s d)
    exact ⟨_, trigCancel_cancels h, ops, started_ends h (congrArg CmdState.descs cmd) _⟩
  case start => exact fun s eng o first up room direct => collectiveOpStart_starts first up room direct
  case waits => exact fun s eng o e first legal on busy => collectiveOpStart_waits first legal on busy
  case empty => exact fun s eng empty => collectiveOpStart_empty empty

/-- Settles O51: the group that `groupCreate_creates` makes has its rank and base in it, the operation that `trigPost_posts`
appends its signature. -/
theorem groupBaseAndSignature : Obligations.GroupBaseAndSignature := by
  refine ⟨?create, ?post⟩
  case create =>
    intro s qp sub d c n h ctx count may clean listed once unused shared room ⟨j, legal, free⟩
    obtain ⟨r, ranked, place, below⟩ := ownPlace_listed (ms := memberList s d n) listed
    obtain ⟨i, lowest⟩ := firstFrom_exists (p := fun i => !thas (operandSeen s d (4 * n)).col.groups i) (n := 4096)
      (Nat.zero_le j) (by omega) (congrArg (fun g : Option Group => !g.isSome) free)
    have index := (firstFrom_some lowest).2.2
    have size : r < 1024 := by
      have := memberList_length s d n
      have := clampTo_max_min (by decide : 1 ≤ 1024) (dfld d 40 2)
      omega
    exact ⟨_, groupCreate_creates h ctx count may clean (badList_of_listed listed once) ranked unused shared room lowest,
      i, createdGroup c d (memberList s d n) r, by omega, tget_groupCreated s c d n i r, resultOf_groupCreated h, size, place,
      rfl, rfl, rfl⟩
  case post =>
    intro s qp sub d c b g e h ctx one may clean record named good room trigger unsignalled zero
    subst record
    exact ⟨_, trigPost_posts h ctx one may clean named good room trigger unsignalled zero,
      postedOp (operandSeen s d 128) c g (postRecord s d), trigPosted_ops s d c g, rfl⟩

end Sys2Proof.Proofs
end

section
/-!
Packets of a collective operation (chapter 13, R345, R359, R360, R362): whose they are, held, acknowledged, refused and acted on.
-/
namespace Sys2Proof.Proofs
open Sys2Proof.Machine Sys2Proof.Laws

/-! ## What sending leaves -/

@[simp] theorem sendTo_col (node : Nat) (m : Msg) (s : State) : (sendTo node m s).col = s.col :=
  (sendTo_only node m s).col rfl

@[simp] theorem sendPort_col (p : Nat) (m : Msg) (s : State) : (sendPort p m s).col = s.col :=
  (sendPort_keeps (keeps_refl _ s) (sub_refl _) p m).only.col rfl

@[simp] theorem routeDrop_col (p : Nat) (s : State) : (routeDrop p s).col = s.col := rfl

/-! ## Operations by number (R340) -/

/-- The collective engines' state is all that `findOp` reads. -/
theorem findOp_congr {s t : State} (col : t.col = s.col) (id : Nat) : findOp t id = findOp s id := by
  rw [findOp, col, findOp]

theorem opOfSeq_congr {s t : State} (col : t.col = s.col) (gi seq : Nat) : opOfSeq t gi seq = opOfSeq s gi seq := by
  rw [opOfSeq, col, opOfSeq]

theorem opRank_congr {s t : State} (col : t.col = s.col) (o : TrigOp) : opRank t o = opRank s o := by
  rw [opRank, col, opRank]

theorem opMembers_congr {s t : State} (col : t.col = s.col) (o : TrigOp) : opMembers t o = opMembers s o := by
  rw [opMembers, col, opMembers]

theorem rankOf_congr {s t : State} (col : t.col = s.col) (o : TrigOp) (node : Nat) : rankOf t o node = rankOf s o node := by
  rw [rankOf, opMembers_congr col, rankOf]

theorem shardOf_congr {s t : State} (col : t.col = s.col) (o : TrigOp) (k : Nat) : shardOf t o k = shardOf s o k := by
  rw [shardOf, opMembers_congr col, shardOf]

theorem partSegs_congr {s t : State} (col : t.col = s.col) (o : TrigOp) (k : Nat) : partSegs t o k = partSegs s o k := by
  rw [partSegs, shardOf_congr col, partSegs]

theorem sendsPart_congr {s t : State} (col : t.col = s.col) (o : TrigOp) : sendsPart t o = sendsPart s o := by
  rw [sendsPart, opRank_congr col, partSegs_congr col, sendsPart]

/-- How many DONEs a rank owes depends on the collective engines' state alone. -/
theorem donesDue_congr {s t : State} (col : t.col = s.col) (o : TrigOp) : donesDue t o = donesDue s o := by
  rw [donesDue, sendsPart_congr col, donesDue]

theorem groupFrom_tag {s : State} {tag node gi : Nat} {g : Group} (found : groupFrom s tag node = some (gi, g)) :
    g.tag = tag := by
  have holds := List.find?_some found
  simp only [Bool.and_eq_true, decide_eq_true_eq] at holds
  obtain ⟨⟨same, -⟩, -⟩ := holds
  exact same

/-! ## Nothing to open -/

/-- No operation runs. -/
def NoneRuns (s : State) : Prop := ∀ o ∈ s.col.ops, o.state ≠ .running

theorem NoneRuns.congr {s t : State} (still : NoneRuns s) (ops : t.col.ops = s.col.ops) : NoneRuns t := by
  rw [NoneRuns, ops]
  exact still

/-- Where no operation runs, there is nothing to open. -/
theorem openAll_idle {s : State} (still : NoneRuns s) : openAll s = s := by
  have running : s.col.ops.filter (fun o => decide (o.state = .running)) = [] :=
    List.filter_eq_nil_iff.mpr fun o mem runs => still o mem (of_decide_eq_true runs)
  rw [openAll, running]
  rfl

/-- Sending changes no operation, so that there is nothing to open after it either. -/
theorem openAll_sendTo {s : State} (still : NoneRuns s) (node : Nat) (m : Msg) :
    openAll (sendTo node m s) = sendTo node m s :=
  openAll_idle (still.congr (congrArg ColState.ops (sendTo_col node m s)))

/-! ## Control packets (R345) -/

/-- A command is the arrival of a control packet of a kind, with a first segment and a list of values. -/
def IsControl (c : Instr) (kind first : Nat) (vals : List Int) (port node tag seq sig : Nat) : Prop :=
  c = .exp port node tag seq sig first vals ∧ kind = 1 ∨
  c = .go port node tag seq sig first vals.length vals ∧ vals.length ≤ 16 ∧ kind = 2 ∨
  c = .ready port node tag seq sig ∧ kind = 3 ∧ first = 0 ∧ vals = [] ∨
  c = .done port node tag seq sig ∧ kind = 4 ∧ first = 0 ∧ vals = []

/-- A list padded to its own length is unchanged. -/
theorem padTo_self {α : Type} (d : α) (l : List α) : padTo l.length d l = l := by
  rw [padTo, List.take_left]

theorem length_padTo {α : Type} (n : Nat) (d : α) (l : List α) : (padTo n d l).length = n := by
  simp [padTo]

theorem exec_control {c : Instr} {kind first : Nat} {vals : List Int} {port node tag seq sig : Nat}
    (control : IsControl c kind first vals port node tag seq sig) (s : State) :
    exec c s = .next (openAll (ctlIn port node tag seq kind sig first vals s)) := by
  rcases control with ⟨rfl, rfl⟩ | ⟨rfl, few, rfl⟩ | ⟨rfl, rfl, rfl, rfl⟩ | ⟨rfl, rfl, rfl, rfl⟩
  · rfl
  · show Host.Outcome.next (openAll (ctlIn _ _ _ _ _ _ _ (padTo (min vals.length 16) 0 vals) s)) = _
    rw [min_eq_left few, padTo_self]
  · rfl
  · rfl

/-- An ABORT is none of these packets. -/
theorem IsControl.notAbort {c : Instr} {kind first : Nat} {vals : List Int} {port node tag seq sig : Nat}
    (control : IsControl c kind first vals port node tag seq sig) : kind ≠ 5 := by
  rcases control with ⟨-, rfl⟩ | ⟨-, -, rfl⟩ | ⟨-, rfl, -, -⟩ | ⟨-, rfl, -, -⟩ <;> decide

/-- The rank of a node in a group. -/
def groupRank (g : Group) (node : Nat) : Nat :=
  (firstFrom (fun i => decide (g.members[i]? = some node)) g.members.length 0).getD 0

/-- A control packet as a group holds it. -/
def heldPacket (g : Group) (node kind seq sig first : Nat) (vals : List Int) : HeldCtl :=
  { sub := kind, rank := groupRank g node, seq := seq, sig := sig, first := first, vals := vals }

section Hold
variable {s : State} {gi : Nat} {g : Group} (there : tget s.col.groups gi = some g)
include there

/-- Where fewer than 64 are held, a packet is held and acknowledged (R345). -/
theorem holdCtl_room (room : g.held.length < 64) (h : HeldCtl) (node kind : Nat) : holdCtl gi h node kind s =
    sendTo node (.collAck kind g.tag h.seq) (groupPut gi { g with held := g.held ++ [h] } s) := by
  rw [holdCtl, there]
  exact if_pos room

theorem holdCtl_full (full : 64 ≤ g.held.length) (h : HeldCtl) (node kind : Nat) : holdCtl gi h node kind s =
    sendTo node (.collCtl 6 g.tag h.seq h.sig kind []) s := by
  rw [holdCtl, there]
  exact if_neg (not_lt.mpr full)

end Hold

section Control
variable {s : State} {port node tag seq kind sig first gi : Nat} {vals : List Int} {g : Group}

theorem ctlIn_outside (outside : groupFrom s tag node = none) :
    ctlIn port node tag seq kind sig first vals s = routeDrop port s := by
  rw [ctlIn, outside]

section Member
variable (member : groupFrom s tag node = some (gi, g))
include member

theorem ctlIn_unposted (unposted : opOfSeq s gi seq = none) (ahead : seqAhead g seq = true) :
    ctlIn port node tag seq kind sig first vals s =
      holdCtl gi (heldPacket g node kind seq sig first vals) node kind s := by
  simp only [ctlIn, member, unposted, ahead, if_true]
  rfl

theorem ctlIn_ended (ended : opOfSeq s gi seq = none) (behind : seqAhead g seq = false) :
    ctlIn port node tag seq kind sig first vals s = sendTo node (.collAck kind tag seq) s := by
  simp only [ctlIn, member, ended, behind, Bool.false_eq_true, if_false]

end Member

/-- An operation runs that a packet of a node names. -/
structure Addressed (s : State) (node tag seq gi : Nat) (g : Group) (o : TrigOp) : Prop where
  member : groupFrom s tag node = some (gi, g)
  posted : opOfSeq s gi seq = some o
  found : findOp s o.id = some o
  runs : o.state = .running

theorem Addressed.of {o : TrigOp} (h : groupFrom s tag node = some (gi, g) ∧ opOfSeq s gi seq = some o ∧
    findOp s o.id = some o ∧ o.state = .running) : Addressed s node tag seq gi g o := by
  obtain ⟨member, posted, found, runs⟩ := h
  exact ⟨member, posted, found, runs⟩

variable {o : TrigOp} (addressed : Addressed s node tag seq gi g o)
include addressed

theorem ctlIn_running : ctlIn port node tag seq kind sig first vals s =
    ctlAct o.id kind (groupRank g node) sig first vals (sendTo node (.collAck kind tag seq) s) := by
  simp only [ctlIn, addressed.member, addressed.posted, addressed.runs, if_true]
  rfl

theorem Addressed.stillFound (m : Msg) : findOp (sendTo node m s) o.id = some o :=
  (findOp_congr (sendTo_col node m s) o.id).trans addressed.found

end Control

section Act
variable {s : State} {o : TrigOp} (found : findOp s o.id = some o) {rank first : Nat} {vals : List Int}
include found

theorem ctlAct_mismatch {kind sig : Nat} (other : sig ≠ o.sig) (notAbort : kind ≠ 5) :
    ctlAct o.id kind rank sig first vals s = failOp o.id 2 rank s := by
  simp only [ctlAct, found]
  exact if_pos ⟨other, notAbort⟩

theorem ctlAct_exp : ctlAct o.id 1 rank o.sig first vals s = openSegs o.id (putExps o.id rank first vals s) := by
  simp [ctlAct, found]

theorem ctlAct_go : ctlAct o.id 2 rank o.sig first vals s = serveGo o.id rank first (max 1 vals.length) s := by
  simp [ctlAct, found]

theorem ctlAct_ready : ctlAct o.id 3 rank o.sig first vals s =
    checkDone o.id (sendPart o.id rank (modOp o.id (fun o => { o with readys := linsert o.readys rank }) s)) := by
  simp [ctlAct, found]

theorem ctlAct_done (due : donesFrom o rank < donesDue s o) : ctlAct o.id 4 rank o.sig first vals s =
    checkDone o.id (modOp o.id (fun o => { o with dones := o.dones ++ [rank] }) s) := by
  simp [ctlAct, found, due]

end Act

/-! ## The packets one by one (R345, R347, R360) -/

section Control
variable {c : Instr} {kind first : Nat} {vals : List Int} {s : State} {port node tag seq sig : Nat}
  (control : IsControl c kind first vals port node tag seq sig) (still : NoneRuns s)
include control still

/-- A packet from outside its group is dropped and counted. -/
theorem control_outside (outside : groupFrom s tag node = none) : exec c s = .next (routeDrop port s) := by
  have idle : NoneRuns (routeDrop port s) := still.congr rfl
  rw [exec_control control, ctlIn_outside outside, openAll_idle idle]

variable {gi : Nat} {g : Group} (member : groupFrom s tag node = some (gi, g))
include member

/-- A packet of an operation that has ended is acknowledged only. -/
theorem control_ended (ended : opOfSeq s gi seq = none) (behind : seqAhead g seq = false) :
    exec c s = .next (sendTo node (.collAck kind tag seq) s) := by
  rw [exec_control control, ctlIn_ended member ended behind, openAll_sendTo still]

variable (there : tget s.col.groups gi = some g) (unposted : opOfSeq s gi seq = none)
  (ahead : seqAhead g seq = true)
include there unposted ahead

/-- A packet of an operation to come is held and acknowledged. -/
theorem control_held (room : g.held.length < 64) : exec c s = .next (sendTo node (.collAck kind tag seq)
    (groupPut gi { g with held := g.held ++ [heldPacket g node kind seq sig first vals] } s)) := by
  have idle : NoneRuns (groupPut gi { g with held := g.held ++ [heldPacket g node kind seq sig first vals] } s) :=
    still.congr rfl
  rw [exec_control control, ctlIn_unposted member unposted ahead, holdCtl_room there room, openAll_sendTo idle,
    groupFrom_tag member]
  rfl

/-- Where 64 are held, it is answered BUSY. -/
theorem control_busy (full : 64 ≤ g.held.length) : exec c s = .next (sendTo node (.collCtl 6 tag seq sig kind []) s) := by
  rw [exec_control control, ctlIn_unposted member unposted ahead, holdCtl_full there full, openAll_sendTo still,
    groupFrom_tag member]
  rfl

end Control

section Running
variable {s : State} {node tag seq gi : Nat} {g : Group} {o : TrigOp} (addressed : Addressed s node tag seq gi g o)
include addressed

/-- A packet under another signature fails its operation with GROUP_MISMATCH. -/
theorem control_mismatch {c : Instr} {kind first : Nat} {vals : List Int} {port sig : Nat}
    (control : IsControl c kind first vals port node tag seq sig) (other : sig ≠ o.sig) : exec c s =
      .next (openAll (failOp o.id 2 (groupRank g node) (sendTo node (.collAck kind tag seq) s))) := by
  rw [exec_control control, ctlIn_running addressed, ctlAct_mismatch (addressed.stillFound _) other control.notAbort]

theorem exp_opens (port first : Nat) (exps : List Int) : exec (.exp port node tag seq o.sig first exps) s =
    .next (openAll (openSegs o.id (putExps o.id (groupRank g node) first exps (sendTo node (.collAck 1 tag seq) s)))) := by
  rw [exec_control (.inl ⟨rfl, rfl⟩), ctlIn_running addressed, ctlAct_exp (addressed.stillFound _)]

/-- A GO of `n` segments sends at least one and at most 16 (log 74). -/
theorem go_serves {n : Nat} (few : n ≤ 16) (port first : Nat) (exps : List Int) :
    exec (.go port node tag seq o.sig first n exps) s =
      .next (openAll (serveGo o.id (groupRank g node) first (max 1 n) (sendTo node (.collAck 2 tag seq) s))) := by
  show Host.Outcome.next (openAll (ctlIn _ _ _ _ _ _ _ (padTo (min n 16) 0 exps) s)) = _
  rw [ctlIn_running addressed, ctlAct_go (addressed.stillFound _), length_padTo, min_eq_left few]

theorem ready_sends (port : Nat) : exec (.ready port node tag seq o.sig) s =
    .next (openAll (checkDone o.id (sendPart o.id (groupRank g node) (modOp o.id
      (fun o => { o with readys := linsert o.readys (groupRank g node) }) (sendTo node (.collAck 3 tag seq) s))))) := by
  rw [exec_control (.inr (.inr (.inl ⟨rfl, rfl, rfl, rfl⟩))), ctlIn_running addressed, ctlAct_ready (addressed.stillFound _)]

theorem done_counts (due : donesFrom o (groupRank g node) < donesDue s o) (port : Nat) :
    exec (.done port node tag seq o.sig) s = .next (openAll (checkDone o.id (modOp o.id
      (fun o => { o with dones := o.dones ++ [groupRank g node] }) (sendTo node (.collAck 4 tag seq) s)))) := by
  have owed : donesFrom o (groupRank g node) < donesDue (sendTo node (.collAck 4 tag seq) s) o := by
    rwa [donesDue_congr (sendTo_col ..)]
  rw [exec_control (.inr (.inr (.inr ⟨rfl, rfl, rfl, rfl⟩))), ctlIn_running addressed,
    ctlAct_done (addressed.stillFound _) owed]

end Running

end Sys2Proof.Proofs
end

section
/-!
The collective exchange (chapter 13, R345, R347, R352, R353, R359, R360, R362): aborts, repeats, data, limits and switches.
-/
namespace Sys2Proof.Proofs
open Sys2Proof.Machine Sys2Proof.Laws

/-! ## ABORT (R360, R362) -/

/-- An operation that an ABORT of a rank waits for (R362). -/
def preAborted (r : Nat) (o : TrigOp) : TrigOp := { o with preAbort := some (o.preAbort.getD r) }

section Abort
variable {s : State} {port node tag seq sig reason r gi : Nat} {g : Group} {o : TrigOp}
  (member : groupFrom s tag node = some (gi, g)) (posted : opOfSeq s gi seq = some o)
include member posted

theorem abort_fired (fired : o.state ≠ .pending) : exec (.abort port node tag seq sig reason r false) s =
    .next (openAll (failOp o.id 3 r (sendTo node (.collAck 5 tag seq) s))) := by
  show Host.Outcome.next (openAll _) = _
  simp only [member, posted, Bool.false_eq_true, if_false, opFired, decide_eq_true fired, if_true]

theorem abort_pending (pending : o.state = .pending) : exec (.abort port node tag seq sig reason r false) s =
    .next (openAll (modOp o.id (preAborted r) (sendTo node (.collAck 5 tag seq) s))) := by
  have unfired : opFired o = false := decide_eq_false (not_not.mpr pending)
  show Host.Outcome.next (openAll _) = _
  simp only [member, posted, Bool.false_eq_true, if_false, unfired]
  rfl

end Abort

theorem modOp_ops (id : Nat) (f : TrigOp → TrigOp) (s : State) :
    (modOp id f s).col.ops = s.col.ops.map fun o => if o.id = id then f o else o := rfl

/-- A change that keeps each operation's state leaves none running where none runs. -/
theorem NoneRuns.modOp {s : State} (still : NoneRuns s) (id : Nat) {f : TrigOp → TrigOp}
    (keeps : ∀ o, (f o).state = o.state) : NoneRuns (modOp id f s) := by
  intro o mem
  rw [modOp_ops] at mem
  obtain ⟨p, listed, rfl⟩ := List.mem_map.mp mem
  split
  · rw [keeps]
    exact still p listed
  · exact still p listed

/-- An ABORT marks the one pending operation of its number. -/
theorem ops_preAborted {s : State} {o : TrigOp} (free : o.preAbort = none) (only : ∀ p ∈ s.col.ops, p.id = o.id → p = o)
    (r : Nat) : (modOp o.id (preAborted r) s).col.ops =
      s.col.ops.map fun p => if p.id = o.id then { p with preAbort := some r } else p := by
  rw [modOp_ops]
  refine List.map_congr_left fun p mem => ?_
  split
  case isTrue same => rw [only p mem same, preAborted, free, Option.getD_none]
  case isFalse => rfl

/-- A failed operation that reports nowhere is taken out (R360). -/
theorem failOp_removes {s : State} {id : Nat} {o : TrigOp} (found : findOp s id = some o) (silent : Unreported o)
    (reason rank : Nat) : (failOp id reason rank s).col.ops = s.col.ops.filter (fun p => decide (p.id ≠ o.id)) := by
  obtain ⟨t, run, ops, -⟩ := opFail_unreported silent reason rank true s
  simp only [failOp, found, run, settle_nil]
  exact ops

/-! ## BUSY, BUSY_RETRY and COLL_ACK (R345, R359) -/

section Posted
variable {s : State} {node tag seq gi : Nat} {g : Group} {o : TrigOp}
  (member : groupFrom s tag node = some (gi, g)) (posted : opOfSeq s gi seq = some o)
include member posted

/-- A packet that its receiver has refused waits for its repeat. -/
theorem busy_marks (port : Nat) {kind : Nat} (awaited : (tget o.unacked (kind * 1024 + rankOf s o node)).isSome = true) :
    exec (.busy port node tag seq kind) s = .next (modOp o.id
      (fun p => { p with busy := linsert p.busy (kind * 1024 + rankOf s p node) }) (sendTo node (.collAck 6 tag seq) s)) := by
  have col : (sendTo node (.collAck 6 tag seq) s).col = s.col := sendTo_col _ _ _
  have there : thas o.unacked (kind * 1024 + rankOf s o node) = true := awaited
  show Host.Outcome.next _ = _
  simp only [member, opOfSeq_congr col, posted, rankOf_congr col, there, if_true]

theorem collAck_ends (port kind : Nat) : exec (.collAck port node tag seq kind) s =
    .next (modOp o.id (fun p => { p with unacked := tdel p.unacked (kind * 1024 + rankOf s p node) }) s) := by
  show Host.Outcome.next _ = _
  simp only [member, posted]

end Posted

section Retry
variable {s : State} {op kind r : Nat} {o : TrigOp} (found : findOp s op = some o)
include found

theorem busyRetry_sends (refused : kind * 1024 + r ∈ o.busy) : exec (.busyRetry op kind r) s =
    .next (ctlAgain op kind r (modOp op (fun o => { o with busy := o.busy.erase (kind * 1024 + r) }) s)) := by
  show Host.Outcome.next _ = _
  simp only [found, List.contains_iff_mem.mpr refused, if_true]

theorem busyRetry_idle (taken : kind * 1024 + r ∉ o.busy) : exec (.busyRetry op kind r) s = .next s := by
  show Host.Outcome.next _ = _
  simp only [found]
  exact congrArg _ (if_neg fun has => taken (List.contains_iff_mem.mp has))

end Retry

/-! ## Data (R347, R359) -/

/-- A chunk for an operation that is not there is dropped. -/
theorem collData_unposted {s : State} {node tag seq gi : Nat} {g : Group} (member : groupFrom s tag node = some (gi, g))
    (unposted : opOfSeq s gi seq = none) (still : NoneRuns s) (port seg r chunk : Nat) (data : List Byte) :
    exec (.collData port node tag seq seg r chunk data) s = .next s := by
  show Host.Outcome.next (openAll _) = _
  simp only [member, unposted, openAll_idle still]

/-- A chunk of a segment of the own reduction goes to its sum, another to DST. -/
theorem collData_taken {s : State} {node tag seq gi seg r : Nat} {g : Group} {o : TrigOp}
    (addressed : Addressed s node tag seq gi g o) (sender : g.members[r]? = some node) (legal : seg < segCount o.op)
    (port chunk : Nat) (data : List Byte) : exec (.collData port node tag seq seg r chunk data) s = .next (openAll
      (if kindReduces o.op.kind = true ∧ seg ∈ shardOf s o (opRank s o) then reduceIn o seg r chunk data s
       else gatherIn o seg r chunk data s)) := by
  obtain ⟨member, posted, -, runs⟩ := addressed
  have good : (decide (o.state ≠ .running) || decide (g.members[r]? ≠ some node) ||
      decide (segCount o.op ≤ seg)) = false := by
    simp [runs, sender, legal]
  show Host.Outcome.next (openAll _) = _
  simp only [member, posted, good, Bool.false_eq_true, if_false, Bool.and_eq_true, List.contains_iff_mem]

/-- A chunk that has come is not added again. -/
theorem reduceIn_again {o : TrigOp} {g r c : Nat} (come : r * 64 + c ∈ (segOf o g).got) (data : List Byte) (s : State) :
    reduceIn o g r c data s = s := by
  have dup : (!(segOf o g).opened || (segOf o g).closed || (segOf o g).got.contains (r * 64 + c)) = true := by
    rw [List.contains_iff_mem.mpr come, Bool.or_true]
  exact if_pos dup

/-! ## Limits (R359, R360) -/

theorem resendTimer_spent {s : State} {op kind r n : Nat} {o : TrigOp} (found : findOp s op = some o)
    (runs : o.state = .running) (awaited : tget o.unacked (kind * 1024 + r) = some n) (spent : s.col.resendLimit ≤ n) :
    exec (.resendTimer op none kind r) s = .next (openAll (failOp op 4 r s)) := by
  show Host.Outcome.next (openAll _) = _
  simp only [found, runs, ne_eq, not_true_eq_false, if_false, awaited, spent, if_true]

theorem operationTimeout_fails {s : State} {op : Nat} {o : TrigOp} (found : findOp s op = some o)
    (fired : o.state ≠ .pending) (limited : o.op.timeout ≠ 0) :
    exec (.operationTimeout op) s = .next (openAll (failOp op 5 (opRank s o) s)) := by
  have due : (opFired o && decide (o.op.timeout ≠ 0)) = true := by
    rw [opFired, decide_eq_true fired, decide_eq_true limited, Bool.and_self]
  show Host.Outcome.next (openAll _) = _
  simp only [found, due, if_true]
  rfl

/-- The limits of an operation that is not there do nothing. -/
theorem timeouts_idle {s : State} {op : Nat} (still : NoneRuns s) (gone : findOp s op = none) :
    exec (.operationTimeout op) s = .next s ∧ exec (.switchSumTimeout op) s = .next s := by
  constructor
  · show Host.Outcome.next (openAll _) = _
    simp only [gone, openAll_idle still]
  · show Host.Outcome.next _ = _
    simp only [gone]

/-! ## Switches (R352, R353) -/

/-- What an optical port keeps of a CAPS. -/
def capsKept (types n k : Nat) : SwCaps := { types := types % 4, maxMembers := n % 65536, memKib := k % 2 ^ 24 }

theorem caps_kept {s : State} {port : Nat} (low : 15 ≤ port) (high : port < 23) (up : carries (portOf s port).state = true)
    (types n k : Nat) : exec (.caps port types n k) s = .next (sendPort port (.collAck 0x10 0 0)
      (modCol (fun x => { x with caps := tput x.caps (port - 15) (capsKept types n k) }) s)) := by
  refine congrArg Host.Outcome.next (if_pos ?_)
  rw [decide_eq_true low, decide_eq_true high, up]
  rfl

theorem caps_elsewhere {s : State} {port : Nat} (other : port < 15 ∨ 23 ≤ port) (types n k : Nat) :
    exec (.caps port types n k) s = .next s := by
  refine congrArg Host.Outcome.next (if_neg ?_)
  simp only [Bool.and_eq_true, decide_eq_true_eq]
  omega

section Switch
variable {s : State} {port tag seq seg : Nat} {o : TrigOp} (runs : switchOp s tag seq = some o)
  (opened : (segOf o seg).opened = true)
include runs opened

theorem swRefuse_fallsBack : exec (.swRefuse port tag seq seg) s =
    .next (fallBack o.id true (sendPort port (.collAck 0x11 tag seq) s)) := by
  show Host.Outcome.next _ = _
  simp only [runs, opened, if_true]

/-- The sum of a segment is written at its place, and the next segment leaves. -/
theorem switchSum_writes {data : List Byte} {d : Nat} (awaited : (segOf o seg).closed = false)
    (size : data.length = segBytes o o.op.outType seg) (dst : o.op.dst = some d)
    (free : rangeStops s o d (o.op.dstOff + spanBytes o.op o.op.outType 0 seg) data.length true = none) :
    exec (.switchSum port tag seq seg data) s = .next (checkDone o.id (switchSend o.id
      (modSeg o.id seg (fun x => { x with closed := true })
        (modColEng (segOf o seg).engine (fun k => { k with rx := (k.rx + data.length) % 2 ^ 64 })
          (storeMem (.coll o.id) d (o.op.dstOff + spanBytes o.op o.op.outType 0 seg) data s))))) := by
  have good : ¬(!(segOf o seg).opened || (segOf o seg).closed ||
      decide (data.length ≠ segBytes o o.op.outType seg)) = true := by
    simp [opened, awaited, size]
  show Host.Outcome.next _ = _
  simp only [runs]
  refine congrArg Host.Outcome.next ((if_neg good).trans ?_)
  simp only [dst, Option.getD_some, onRange, free]

end Switch

theorem switchSumTimeout_fallsBack {s : State} {op : Nat} {o : TrigOp} (found : findOp s op = some o)
    (runs : o.state = .running) (switched : o.viaSwitch = true) :
    exec (.switchSumTimeout op) s = .next (fallBack op true s) := by
  show Host.Outcome.next _ = _
  simp only [found, runs, switched, decide_true, Bool.and_self, if_true]

/-- Settles O30: a control packet by `control_outside`, `control_held`, `control_busy` and `control_ended`, one of a running
operation by `ctlIn_running` and the `ctlAct` lemmas (log 74: packets held, DONEs counted), an ABORT by `abort_fired` and
`abort_pending`, data by `collData_taken`, the switches by `swRefuse_fallsBack` and `switchSum_writes` (log 75: a fallback). -/
theorem collectiveExchange : Obligations.CollectiveExchange := by
  refine ⟨?outside, ?held, ?busy, ?ended, ?mismatch, ?exp, ?go, ?ready, ?done, ?fired, ?pending, ?removed, ?refused, ?again,
    ?noRepeat, ?acked, ?dropped, ?taken, ?twice, ?lost, ?late, ?gone, ?caps, ?noCaps, ?swRefused, ?sum, ?noSum, ?error,
    ?noError⟩
  case outside =>
    exact fun c kind first vals s port node tag seq sig control still outside => control_outside control still outside
  case held =>
    exact fun c kind first vals s port node tag seq sig gi g control still member there unposted ahead room =>
      control_held control still member there unposted ahead room
  case busy =>
    exact fun c kind first vals s port node tag seq sig gi g control still member there unposted ahead full =>
      control_busy control still member there unposted ahead full
  case ended =>
    exact fun c kind first vals s port node tag seq sig gi g control still member ended behind =>
      control_ended control still member ended behind
  case mismatch =>
    exact fun c kind first vals s port node tag seq sig gi g o control running other =>
      control_mismatch (Addressed.of running) control other
  case exp => exact fun s port node tag seq first exps gi g o running => exp_opens (Addressed.of running) port first exps
  case go =>
    exact fun s port node tag seq first n exps gi g o running few => go_serves (Addressed.of running) few port first exps
  case ready => exact fun s port node tag seq gi g o running => ready_sends (Addressed.of running) port
  case done => exact fun s port node tag seq gi g o running due => done_counts (Addressed.of running) due port
  case fired =>
    exact fun s port node tag seq sig reason r gi g o member posted fired => abort_fired member posted fired
  case pending =>
    intro s port node tag seq sig reason r gi g o member posted pending free still only
    have col : (sendTo node (.collAck 5 tag seq) s).col = s.col := sendTo_col _ _ _
    have idle : NoneRuns (modOp o.id (preAborted r) (sendTo node (.collAck 5 tag seq) s)) :=
      (NoneRuns.congr still (congrArg ColState.ops col)).modOp _ fun _ => rfl
    refine ⟨_, (abort_pending member posted pending).trans (congrArg _ (openAll_idle idle)), ?_⟩
    exact (ops_preAborted free (by rwa [col]) r).trans (congrArg (List.map _) (congrArg ColState.ops col))
  case removed =>
    exact fun s id o r found noStatus noEvent reason => failOp_removes found ⟨noStatus, noEvent⟩ reason r
  case refused =>
    intro s port node tag seq kind gi g o member posted awaited
    exact ⟨_, busy_marks member posted port awaited,
      (modOp_ops ..).trans (congrArg (List.map _) (congrArg ColState.ops (sendTo_col ..)))⟩
  case again => exact fun s op kind r o found refused => busyRetry_sends found refused
  case noRepeat => exact fun s op kind r o found taken => busyRetry_idle found taken
  case acked => exact fun s port node tag seq kind gi g o member posted => collAck_ends member posted port kind
  case dropped =>
    exact fun s port node tag seq seg r chunk data gi g member unposted still =>
      collData_unposted member unposted still port seg r chunk data
  case taken =>
    exact fun s port node tag seq seg r chunk data gi g o running sender legal =>
      collData_taken (Addressed.of running) sender legal port chunk data
  case twice => exact fun s o g r c data come => reduceIn_again come data s
  case lost => exact fun s op kind r o n found runs awaited spent => resendTimer_spent found runs awaited spent
  case late => exact fun s op o found fired limited => operationTimeout_fails found fired limited
  case gone => exact fun s op still gone => timeouts_idle still gone
  case caps =>
    intro s port types n k low high up
    have kept := caps_kept low high up types n k
    refine ⟨_, kept, ?_, (execCaps_keeps (keeps_refl (partMask [.col, .lnk, .out]) s) rfl port types n k _ kept).only⟩
    rw [sendPort_col]
    exact tget_tput_same _ _ _
  case noCaps => exact fun s port types n k other => caps_elsewhere other types n k
  case swRefused => exact fun s port tag seq seg o runs opened => swRefuse_fallsBack runs opened
  case sum =>
    exact fun s port tag seq seg data o d runs opened awaited size dst free => switchSum_writes runs opened awaited size dst free
  case noSum => exact fun s op o found runs switched => switchSumTimeout_fallsBack found runs switched
  case error => exact fun s eng up => congrArg Host.Outcome.next (if_pos up)
  case noError => exact fun s eng down => congrArg Host.Outcome.next (if_neg (Bool.eq_false_iff.mp down))

end Sys2Proof.Proofs
end

section
/-!
What every command and every step keep: what is permanent in the module (R222, R458, R459, R468, R501, R512), and the parts of
the state that a command does not list.
-/
namespace Sys2Proof.Proofs
open Sys2Proof.Machine Sys2Proof.Laws

/-- Settles O44: a step is its front command, whose operations each keep what is permanent, or a nanosecond (log 2: the idle
step is the model's choice). -/
theorem stepKeepsOneWay : Obligations.StepKeepsOneWay := by
  intro s t run
  cases queue : s.pending with
  | nil =>
    obtain rfl : idle s = t := by simpa [step_idle queue] using run
    exact (idle_keeps s).oneWay
  | cons c rest =>
    rw [step_front queue] at run
    exact (exec_keeps run).oneWay

theorem partNo_inj {p q : Part} (h : partNo p = partNo q) : p = q := by
  cases p <;> cases q <;> first | rfl | exact absurd h (by decide)

/-- The number of a list of parts has the bit of a part exactly if the part is listed. -/
theorem testBit_partMask (p : Part) (ps : List Part) : (partMask ps).testBit (partNo p) = decide (p ∈ ps) := by
  induction ps with
  | nil => exact Nat.zero_testBit _
  | cons q ps ih =>
    have own : (2 ^ partNo q).testBit (partNo p) = decide (p = q) := by
      rw [Nat.testBit_two_pow]
      exact decide_eq_decide.mpr ⟨fun h => (partNo_inj h).symm, fun h => congrArg partNo h.symm⟩
    show (2 ^ partNo q ||| partMask ps).testBit (partNo p) = _
    rw [Nat.testBit_or, own, ih]
    simp only [List.mem_cons, Bool.decide_or]

/-- Settles O47: the frame of a command is what its operations keep; a part that is not listed has no bit in it. -/
theorem commandFrames : Obligations.CommandFrames := by
  refine ⟨fun c s t run => (exec_keeps run).only, fun c s t run unlisted k => ?_, fun c s t run unlisted => ?_⟩
  · have frame := (exec_keeps run).only.mem ((testBit_partMask .mem _).trans (decide_eq_false unlisted))
    rw [frame]
  · exact (exec_keeps run).only.nv ((testBit_partMask .nv _).trans (decide_eq_false unlisted))

end Sys2Proof.Proofs
end

section
/-!
Hardware faults, the ends of resets, escalation and reset commands (chapter 19, R471, R474, R479 to R482, R486, R491, R493).
-/
namespace Sys2Proof.Proofs
open Sys2Proof.Machine Sys2Proof.Laws

/-- A command completes in a state that is as said. -/
theorem runs_of {c : Instr} {s t : State} {p : State → Prop} (next : exec c s = .next t) (holds : p t) : Runs c s p :=
  ⟨t, next, holds⟩

/-! ## Chip resets and the storm (R482, R491) -/

/-- Fewer than three fault resets in the last 60 s: one more resets the chip. -/
theorem chipReset_few {s : State} (few : (recentResets s).length < 3) (cls : Nat) (cold link escalated : Bool)
    (unit ctx : Nat) : chipReset cls cold link escalated unit ctx s =
      chipResetNow cls cold link (if cls = 0 then s else fltRecord cls 4 escalated false unit ctx 0 s) := by
  have calm : ¬ (stormClass cls && decide (3 ≤ (recentResets s).length) && decide (s.flt.haltCause = 0)) = true := by
    simp only [Bool.and_eq_true, decide_eq_true_eq]
    omega
  exact if_neg calm

/-- A chip reset by a class of its own leaves its record and every block at reset. -/
theorem chipReset_resets {s t : State} {cls : Nat} {cold link escalated : Bool} {unit ctx : Nat} (fault : cls ≠ 0)
    (h : t = chipResetNow cls cold link (if cls = 0 then s else fltRecord cls 4 escalated false unit ctx 0 s)) :
    ChipReset cold s t ∧ t.flt.records = (s.flt.records + 1) % 2 ^ 32 := by
  subst h
  rw [if_neg fault]
  refine ⟨chipReset_from (chipResetNow_reset ..) (fltRecord_chipResets ..), ?_⟩
  rw [chipResetNow_records, fltRecord_records]

/-- The fourth chip reset by a fault within 60 s halts the device instead. -/
theorem chipReset_storms {s : State} {cls : Nat} (counts : stormClass cls = true) (many : 3 ≤ (recentResets s).length)
    (running : s.flt.haltCause = 0) (cold link escalated : Bool) (unit ctx : Nat) :
    chipReset cls cold link escalated unit ctx s =
      haltDevice 2 (2 + fieldAt cls 8 8) (fltRecord Cls.storm 5 false false 0 0 (2 + fieldAt cls 8 8) s) :=
  if_pos (by simp [counts, many, running])

theorem runs_of_inService {s : State} (h : inService s = true) : s.flt.haltCause = 0 := by
  simp only [inService, Bool.and_eq_true, decide_eq_true_eq] at h
  exact h.2

/-! ## Hardware errors (R471) -/

section Fault
variable {s : State} (service : inService s = true)
include service

theorem partitionHwError_faults {p : Nat} (low : p < 4) (on : partOff s p = false) :
    exec (.partitionHwError p) s = .next (partitionFault p Cls.partitionHw false 0 0 s) :=
  congrArg Host.Outcome.next (if_pos (by simp [service, low, on]))

theorem chipHwError_resets : exec .chipHwError s = .next (chipReset Cls.chipHw false true false 0 0 s) :=
  congrArg Host.Outcome.next (if_pos service)

theorem boundMiss_escalates (r : Recovery) (units parts : List Nat) :
    exec (.boundMiss r units parts) s = .next (escalate Cls.boundMiss r units parts s) :=
  congrArg Host.Outcome.next (if_pos service)

theorem progressMiss_escalates (moving : s.clk.paused = false) (r : Recovery) (units parts : List Nat) :
    exec (.progressMiss r units parts) s = .next (escalate Cls.progressMiss r units parts s) :=
  congrArg Host.Outcome.next (if_pos (by simp [service, moving]))

end Fault

/-- Out of service no hardware error acts. -/
theorem hwErrors_outOfService {s : State} (h : inService s = false) :
    exec .chipHwError s = .next s ∧ ∀ p, exec (.partitionHwError p) s = .next s :=
  ⟨congrArg Host.Outcome.next (if_neg (by simp [h])), fun _ => congrArg Host.Outcome.next (if_neg (by simp [h]))⟩

/-- A fault of the size of partition 1, 2 or 3 resets it. -/
theorem partitionFault_resets {p : Nat} (pos : 1 ≤ p) (cls : Nat) (escalated : Bool) (unit ctx : Nat) (s : State) :
    partitionFault p cls escalated unit ctx s = partitionReset p cls escalated unit ctx s :=
  if_neg (by omega)

/-- A partition reset of the whole device but its clocks and keys. -/
theorem partitionReset_only (p cls : Nat) (escalated : Bool) (unit ctx : Nat) (s : State) :
    Only 0xe6fffa281 s (partitionReset p cls escalated unit ctx s) :=
  (partitionReset_keeps (keeps_refl _ s) (sub_refl _) p cls escalated unit ctx).only

/-! ## The ends of resets (R479 to R481) -/

/-- The tests of a matrix engine find failing tiles within the limit. -/
theorem unitTested_matrix {u : Nat} {x : UnitTest} {s : State} (matrix : unitKind u = 0)
    (within : popCount (Nat.lor (engAt s (unitIndex u)).mask (x.tiles % 2 ^ 64)) 64 ≤ 4) :
    unitTested u x s = modEng (unitIndex u) (fun e => { e with mask := Nat.lor e.mask (x.tiles % 2 ^ 64) }) s := by
  simp only [unitTested, matrix, if_true, engAt_modEng]
  exact if_neg (by omega)

/-- The unit is no longer listed as under reset. -/
def unitBack (u : Nat) (s : State) : State := modFlt (fun f => { f with engines := f.engines.filter fun e => e.1 ≠ u }) s

theorem engineResetComplete_tests {s : State} {u : Nat} (resets : unitInReset s u = true) (x : UnitTest) :
    exec (.engineResetComplete u x) s = .next (resEnds (.engine u) (unitTested u x (unitBack u s))) :=
  congrArg Host.Outcome.next (if_pos resets)

theorem engineResetComplete_idle {s : State} {u : Nat} (free : unitInReset s u = false) (x : UnitTest) :
    exec (.engineResetComplete u x) s = .next s :=
  congrArg Host.Outcome.next (if_neg (by simp [free]))

/-- A list whose entries of a key are filtered out names the key no more. -/
theorem any_filter_ne {α : Type} (key : α → Nat) (k : Nat) (l : List α) :
    ((l.filter fun e => decide (key e ≠ k)).any fun e => decide (key e = k)) = false := by
  simp [List.any_eq_false]

/-- The partition is no longer listed as under reset. -/
def partBack (p : Nat) (s : State) : State := modFlt (fun f => { f with parts := f.parts.filter fun e => e.1 ≠ p }) s

/-- The stacks of a partition are READY and its ports that may train do. -/
def partReady (p : Nat) (s : State) : State :=
  ((List.range 23).filter fun q => decide (portPart q = p) && portMay s q).foldl (fun s q => portTrain q s) (partStacks p 2 s)

theorem partReady_only (p : Nat) (s : State) : Only 0x5408000 s (partReady p s) :=
  (keeps_foldl (fun _ _ q k => portTrain_keeps k (sub_of (sub_refl _) rfl) q)
    (partStacks_keeps (keeps_refl _ s) (sub_of (sub_refl _) rfl) p 2)).only

theorem partReady_hbm (p : Nat) (s : State) : (partReady p s).hbm = (partStacks p 2 s).hbm :=
  foldl_kept (fun x : State => x.hbm) (fun x q => portTrain_hbm q x) _ _

/-- A partition reset ends: the partition is back, or offline. -/
theorem partitionResetComplete_ends {s : State} {p : Nat} (resets : partInReset s p = true) (ok : Bool) :
    ∃ fns detail, exec (.partitionResetComplete p ok) s = .next (resEnds (.partition p) (postAll fns Att.partitionReset
      detail 0 (if ok then partReady p (partBack p s) else alertPost 0x10 (startOffline p (partBack p s))))) := by
  obtain ⟨⟨q, cls, fns⟩, listed⟩ := Option.isSome_iff_exists.mp (List.find?_isSome.mpr (List.any_eq_true.mp resets))
  refine ⟨fns, p + bitAt (!ok) 8 + fieldAt cls 24 8, ?_⟩
  show Host.Outcome.next _ = _
  rw [listed]
  rfl

theorem stackAt_partStacks (p st : Nat) (s : State) :
    (stackAt (partStacks p st s) (2 * p)).state = st ∧ (stackAt (partStacks p st s) (2 * p + 1)).state = st := by
  refine ⟨by rw [partStacks, stackAt_modStack], ?_⟩
  rw [partStacks, stackAt_modStack_ne _ _ (by omega), stackAt_modStack]

/-- The end of a reset touches nothing but the FLT block. -/
theorem resEnds_flt (r : Recovery) (s : State) : (resEnds r s).flt = { s.flt with
    resBusy := if s.flt.resBusy = some r then none else s.flt.resBusy } := rfl

theorem resEnds_clk (r : Recovery) (s : State) : (resEnds r s).clk = s.clk := rfl

/-- A bit that is set reads set. -/
theorem bitOf_lor_self (n p : Nat) : bitOf (Nat.lor n (2 ^ p)) p = true := by
  have set : (n ||| 2 ^ p).testBit p = true := by simp
  rw [Nat.testBit_eq_decide_div_mod_eq] at set
  exact set

theorem startOffline_online {s : State} {p : Nat} (on : partOff s p = false) : startOffline p s =
    partStacks p 0 (modClk (fun k => { k with partOffline := Nat.lor k.partOffline (2 ^ p) }) s) :=
  if_neg (by simp [on])

/-! ## FLT_RESET_CMD (R486) -/

/-- FLT_RESET_CMD has taken LEVEL, UNIT and the status of an engine reset, and the reset is under way. -/
def engineCmdTaken (u : Nat) (s : State) : State := modFlt (fun f => { f with
  cmdLevel := 1, cmdUnit := u, resStatus := St.done, resBusy := some (.engine u) }) s

/-- FLT_RESET_CMD has taken LEVEL, UNIT and the status of a partition reset, and the reset is under way. -/
def partCmdTaken (p : Nat) (s : State) : State := modFlt (fun f => { f with
  cmdLevel := 2, cmdUnit := p, resStatus := St.done, resBusy := some (.partition p) }) s

section Command
variable {s : State} {src : Src} (reaches : srcOpen s src = true)
include reaches

section Running
variable (running : s.flt.haltCause = 0)
include running

theorem resetCommand_taken : ¬ (!srcOpen s src || decide (s.flt.haltCause ≠ 0)) = true := by simp [reaches, running]

theorem engineResetCommand_resets {u : Nat} (small : u < 2 ^ 20) (legal : unitLegal u = true)
    (on : partOff s (unitPart u) = false) (free : unitInReset s u = false) (partFree : partInReset s (unitPart u) = false) :
    exec (.engineResetCommand src u) s = .next (engineReset u Cls.command false 0 (engineCmdTaken u s)) := by
  have ready : engineCmd s u = St.done := by simp [engineCmd, legal, on, free, partFree]
  refine congrArg Host.Outcome.next ((if_neg (resetCommand_taken reaches running)).trans ?_)
  simp only [Nat.mod_eq_of_lt small, ready, legal, if_true]
  rfl

theorem engineResetCommand_illegal {u : Nat} (illegal : unitLegal (u % 2 ^ 20) = false) :
    exec (.engineResetCommand src u) s =
      .next { s with flt := { s.flt with cmdLevel := 1, resStatus := St.refusedHandle } } := by
  have refused : engineCmd s (u % 2 ^ 20) = St.refusedHandle := if_pos (by rw [illegal]; rfl)
  refine congrArg Host.Outcome.next ((if_neg (resetCommand_taken reaches running)).trans ?_)
  simp only [refused, illegal]
  rfl

theorem partitionResetCommand_resets {p : Nat} (pos : 1 ≤ p) (low : p < 4) (on : partOff s p = false)
    (free : partInReset s p = false) : exec (.partitionResetCommand src p) s =
      .next (partitionReset p Cls.command false 0 0 (partCmdTaken p s)) := by
  have ready : partCmd s p = St.done := by
    simp only [partCmd, on, free]
    exact if_neg (by simp; omega)
  refine congrArg Host.Outcome.next ((if_neg (resetCommand_taken reaches running)).trans ?_)
  simp only [Nat.mod_eq_of_lt low, Nat.mod_eq_of_lt (show p < 2 ^ 20 by omega), ready, if_true]
  rfl

theorem partitionResetCommand_zero : exec (.partitionResetCommand src 0) s =
    .next { s with flt := { s.flt with cmdLevel := 2, cmdUnit := 0, resStatus := St.refusedState } } :=
  congrArg Host.Outcome.next (if_neg (resetCommand_taken reaches running))

end Running

theorem chipResetCommand_resets (ready : s.clk.phase = .ready) : exec (.chipResetCommand src) s =
    .next (chipReset Cls.command false true false 0 0 (modFlt (fun f => { f with cmdLevel := 3, resStatus := St.done }) s)) := by
  refine congrArg Host.Outcome.next ((if_neg (by simp [reaches])).trans ?_)
  have done : chipCmd s = St.done := if_neg (by simp [ready])
  simp only [done, if_true]
  rfl

theorem chipResetCommand_retries (starting : s.clk.phase = .running) : exec (.chipResetCommand src) s =
    .next { s with flt := { s.flt with cmdLevel := 3, resStatus := St.retryLater } } := by
  refine congrArg Host.Outcome.next ((if_neg (by simp [reaches])).trans ?_)
  have later : chipCmd s = St.retryLater := if_pos (by simp [starting])
  simp only [later]
  rfl

end Command

theorem chipResetNow_resStatus (cls : Nat) (cold link : Bool) (s : State) :
    (chipResetNow cls cold link s).flt.resStatus = 0 := by
  obtain ⟨w, e, -⟩ := chipResetNow_eq cls cold link s
  rw [e, alertConds_flt]
  rfl

/-- Settles O8: the faults by `partitionReset_flt`, `chipReset_resets` and `chipReset_storms` (log 95: faults act in service
only; log 96: what a fault of partition 0 records), the ends of resets by `unitTested_matrix` and `partReady`, the commands by
the `…Command_` lemmas (log 97: the UNIT written). -/
theorem faultRecovery : Obligations.FaultRecovery := by
  refine ⟨?hw, ?hwZero, ?chip, ?storm, fun s out => hwErrors_outOfService out, ?engine,
    fun s u x free => engineResetComplete_idle free x, ?partBack, ?partGone, ?bound, ?progress, ?engCmd,
    fun s src u reaches running illegal => engineResetCommand_illegal reaches running illegal, ?partCmd,
    fun s src reaches running => partitionResetCommand_zero reaches running, ?chipCmd,
    fun s src reaches starting => chipResetCommand_retries reaches starting⟩
  case hw =>
    intro s p service pos low on free
    refine runs_of (partitionHwError_faults service low on) ?_
    rw [partitionFault_resets pos]
    have frame := partitionReset_only p Cls.partitionHw false 0 0 s
    obtain ⟨z, fns, flt, records, -⟩ := partitionReset_flt p Cls.partitionHw false 0 0 s free on
    rw [flt]
    exact ⟨rfl, rfl, records, frame.clk rfl, frame.sec rfl⟩
  case hwZero =>
    intro s service on few
    exact ⟨_, partitionHwError_faults service (by decide) on, (chipReset_resets (by decide) (chipReset_few few ..)).1⟩
  case chip =>
    exact fun s service few => ⟨_, chipHwError_resets service, chipReset_resets (by decide) (chipReset_few few ..)⟩
  case storm =>
    intro s service many
    have running := runs_of_inService service
    refine runs_of (chipHwError_resets service) ?_
    rw [chipReset_storms rfl many running]
    have recorded := (fltRecord_haltCause Cls.storm 5 false false 0 0 (2 + fieldAt Cls.chipHw 8 8) s).trans running
    rw [haltDevice_flt recorded]
    obtain ⟨session, keys⟩ := haltDevice_ends recorded 2 (2 + fieldAt Cls.chipHw 8 8)
    exact ⟨rfl, session, keys, haltDevice_imeKeys recorded .., fltRecord_chipResets ..⟩
  case engine =>
    intro s u x resets matrix within
    refine runs_of (engineResetComplete_tests resets x) ?_
    rw [unitTested_matrix matrix (by exact within)]
    exact ⟨any_filter_ne Prod.fst u s.flt.engines, engAt_modEng .., fun busy => if_pos busy⟩
  case partBack =>
    intro s p resets low
    obtain ⟨fns, detail, ends⟩ := partitionResetComplete_ends resets true
    refine runs_of ends ?_
    simp only [if_true]
    have frame := partReady_only p (partBack p s)
    have held : ∀ k, stackAt (resEnds (.partition p) (postAll fns Att.partitionReset detail 0 (partReady p (partBack p s)))) k =
        stackAt (partStacks p 2 (partBack p s)) k := fun k =>
      stackAt_congr (congrArg MemState.stk ((postAll_hbm ..).trans (partReady_hbm p _))) k
    obtain ⟨even, odd⟩ := stackAt_partStacks p 2 (partBack p s)
    refine ⟨?_, (congrArg Stack.state (held _)).trans even, (congrArg Stack.state (held _)).trans odd,
      (postAll_clk ..).trans (frame.clk rfl)⟩
    rw [partInReset, resEnds_flt, postAll_flt, frame.flt rfl]
    exact any_filter_ne Prod.fst p s.flt.parts
  case partGone =>
    intro s p resets low on
    obtain ⟨fns, detail, ends⟩ := partitionResetComplete_ends resets false
    refine runs_of ends ?_
    simp only [Bool.false_eq_true, if_false]
    have online : partOff (partBack p s) p = false := on
    rw [startOffline_online online]
    refine ⟨?_, ?_, ?_⟩
    · rw [partInReset, resEnds_flt, postAll_flt, alertPost_flt, partStacks_flt]
      exact any_filter_ne Prod.fst p s.flt.parts
    · rw [partOff, resEnds_clk, postAll_clk, alertPost_clk, partStacks_clk]
      exact bitOf_lor_self _ p
    · exact (congrArg Stack.state (stackAt_congr
        (congrArg MemState.stk ((postAll_hbm ..).trans (alertPost_hbm ..))) _)).trans (stackAt_partStacks p 0 _).1
  case bound =>
    intro s u units parts service resets pos low on free
    have e : escalate Cls.boundMiss (.engine u) units parts s = partitionReset (unitPart u) Cls.boundMiss true u 0 s :=
      (if_pos resets).trans (partitionFault_resets pos ..)
    refine runs_of (boundMiss_escalates service (.engine u) units parts) ?_
    rw [e]
    obtain ⟨z, fns, flt, -⟩ := partitionReset_flt (unitPart u) Cls.boundMiss true u 0 s free on
    rw [partInReset, unitInReset, flt]
    refine ⟨by simp, ?_, rfl⟩
    simp only [List.any_eq_false, List.mem_filter, decide_eq_true_eq]
    rintro e ⟨-, other⟩ rfl
    exact other rfl
  case progress =>
    intro s p units parts service moving resets few
    have e : escalate Cls.progressMiss (.partition p) units parts s = chipReset Cls.progressMiss false true true p 0 s :=
      if_pos resets
    refine runs_of (progressMiss_escalates service moving (.partition p) units parts) ?_
    rw [e]
    exact (chipReset_resets (by decide) (chipReset_few few ..)).1
  case engCmd =>
    intro s src u reaches running small legal on free partFree
    refine runs_of (engineResetCommand_resets reaches running small legal on free partFree) ?_
    obtain ⟨z, flt, -, -, busy, status, unit, -⟩ :=
      engineReset_flt u Cls.command false 0 (engineCmdTaken u s) free partFree
    rw [unitInReset, flt]
    exact ⟨by simp, status, busy, rfl, unit⟩
  case partCmd =>
    intro s src p reaches running pos low on free
    refine runs_of (partitionResetCommand_resets reaches running pos low on free) ?_
    obtain ⟨z, fns, flt, -, busy, status, -⟩ := partitionReset_flt p Cls.command false 0 0 (partCmdTaken p s) free on
    rw [partInReset, flt]
    exact ⟨by simp, status, busy⟩
  case chipCmd =>
    intro s src reaches ready
    refine runs_of (chipResetCommand_resets reaches ready) ?_
    rw [chipReset_now rfl]
    exact ⟨chipReset_from (chipReset_resets (by decide) rfl).1 rfl, chipResetNow_resStatus ..⟩

end Sys2Proof.Proofs
end

section
/-!
Life-cycle transitions, token slots and EXTEST (chapter 18, R457, R460, R461, R463 to R465, R467).
-/
namespace Sys2Proof.Proofs
open Sys2Proof.Machine Sys2Proof.Laws

/-! ## What a chip reset leaves of the OTP (R482) -/

theorem logReadOnly_otp (s : State) : (logReadOnly s).nv.otp = s.nv.otp := by
  rw [logReadOnly]
  split
  · rfl
  · rw [postWear_nv]

/-- Committing records programs no OTP word. -/
theorem logCommitFrom_otp (rs : List LogRec) (left : Nat) (s : State) : (logCommitFrom rs left s).nv.otp = s.nv.otp := by
  induction rs generalizing left s with
  | nil => rfl
  | cons r rs ih =>
    rw [logCommitFrom]
    split
    case isTrue => exact ih ..
    case isFalse =>
      split
      case h_1 => exact ih ..
      case h_2 =>
        split
        · exact (ih ..).trans (logReadOnly_otp s)
        · exact ih ..

theorem logCommit_otp (p : LogRec → Bool) (s : State) : (logCommit p s).nv.otp = s.nv.otp := by
  rw [logCommit]
  split
  · rfl
  · exact logCommitFrom_otp ..

theorem commitReset_otp (s : State) : (commitReset s).nv.otp = s.nv.otp := logCommit_otp ..

theorem chipResetNow_otp (cls : Nat) (cold link : Bool) (s : State) :
    (chipResetNow cls cold link s).nv.otp = s.nv.otp := by
  unfold chipResetNow
  extract_lets times z
  rw [alertConds_nv]
  change (if z.log.mounted then commitReset z else z).nv.otp = z.nv.otp
  split
  · exact commitReset_otp z
  · rfl

/-! ## LCS_CMD (R465) -/

/-- The token the eight words of LCS_TOKEN hold. -/
def tokenHeld (s : State) : Nat := ((List.range 8).map fun w => tgetD s.lcs.token w 0 * 2 ^ (32 * w)).sum

/-- LCS_CMD has taken its target, if that is a code of Table 18-1. -/
def targetTaken (target : Nat) (s : State) : State :=
  if lcLegal target then modLcs (fun l => { l with target := target }) s else s

theorem targetTaken_busy (target : Nat) (s : State) : (targetTaken target s).lcs.busy = s.lcs.busy := by
  rw [targetTaken]
  split <;> rfl

section Command
variable {s : State} {src : Src} {target : Nat} (reaches : srcOpen s src = true) (running : s.flt.haltCause = 0)
include reaches running

/-- A command arrives with the token in LCS_TOKEN. -/
theorem transitionCommand_submits (free : s.lcs.busy = none) (legal : lcLegal target = true) :
    exec (.transitionCommand src target) s = .next (lcSubmit { mgt := false, target := target, token := tokenHeld s }
      (modLcs (fun l => { l with target := target }) s)) := by
  refine congrArg Host.Outcome.next ((if_neg (resetCommand_taken reaches running)).trans ?_)
  simp only [legal, if_true]
  exact if_neg (by simp [free])

theorem transitionCommand_busy (busy : s.lcs.busy.isSome = true) : exec (.transitionCommand src target) s =
    .next (modLcs (fun l => { l with status := St.retryLater, reason := 5 }) (targetTaken target s)) := by
  refine congrArg Host.Outcome.next ((if_neg (resetCommand_taken reaches running)).trans (if_pos ?_))
  exact (congrArg Option.isSome (targetTaken_busy target s)).trans busy

end Command

/-! ## The decision (R457, R460, R461) -/

/-- A command of LCS_CMD ends with its reason. -/
theorem lcEnds_refused {c : LcsCommand} (own : c.mgt = false) {reason : Nat} (refused : reason ≠ 0) (s : State) :
    lcEnds c reason s = { s with lcs := { s.lcs with
      busy := none, token := [], fails := satAdd 16 s.lcs.fails 1, status := lcStatus reason, reason := reason } } := by
  simp only [lcEnds, own, refused]
  rfl

/-- A command of LCS_CMD ends without a refusal. -/
theorem lcEnds_done {c : LcsCommand} (own : c.mgt = false) (s : State) :
    lcEnds c 0 s = { s with lcs := { s.lcs with busy := none, token := [] } } := by
  simp only [lcEnds, own]
  rfl

theorem satAdd_below {n : Nat} (below : n < 16) : satAdd 16 n 1 = n + 1 := by
  rw [satAdd]
  omega

section Decision
variable {s : State} {c : LcsCommand} (busy : s.lcs.busy = some c)
include busy

theorem transitionDecision_refuses {why : Nat} (h : lcDecide s c = .inl why) (ok : Bool) :
    exec (.transitionDecision ok) s = .next (lcEnds c why s) := by
  show Host.Outcome.next _ = _
  simp only [busy, h]

theorem transitionDecision_runs {q : Nat} (h : lcDecide s c = .inr q) (ok : Bool) :
    exec (.transitionDecision ok) s = .next (lcRun c q ok s) := by
  show Host.Outcome.next _ = _
  simp only [busy, h]

end Decision

section Decide
variable {s : State} {c : LcsCommand}

theorem lcDecide_spent (spent : 16 ≤ s.lcs.fails) : lcDecide s c = .inl 3 := if_pos spent

variable (tries : s.lcs.fails < 16)
include tries

theorem lcDecide_noEdge (noEdge : lcDest (lcPosition s) c.target = none) : lcDecide s c = .inl 1 := by
  rw [lcDecide, if_neg (by omega), noEdge]

variable {q slot : Nat} (edge : lcDest (lcPosition s) c.target = some (q, slot))
include edge

theorem lcDecide_wrongToken (wrong : tokenOk s.nv.otp slot c.token = false) : lcDecide s c = .inl 2 := by
  rw [lcDecide, if_neg (by omega), edge]
  exact if_neg (by simp [wrong])

theorem lcDecide_passes (opens : tokenOk s.nv.otp slot c.token = true) : lcDecide s c = .inr q := by
  rw [lcDecide, if_neg (by omega), edge]
  exact if_pos opens

end Decide

/-- PRODUCTION's edge to SRV at position 15 needs slot 8 (Table 18-3). -/
theorem lcDecide_service {s : State} {c : LcsCommand} (tries : s.lcs.fails < 16) (production : lcPosition s = 15)
    (target : c.target = 0x40) (opens : tokenOk s.nv.otp 8 c.token = true) : lcDecide s c = .inr 16 :=
  lcDecide_passes tries (by rw [production, target]; rfl) opens

/-! ## The transition to SRV (Tables 18-4, 18-6) -/

/-- Leaving PRODUCTION for SRV erases the tray secret. -/
theorem lcErase_service (o : OtpState) : lcErase 16 o = { o with tray := none } := rfl

/-- Position 16 of SRV is programmed, and the record of the erasure is due. -/
theorem lcProgram_service (old root : Nat) (o : OtpState) : lcProgram 16 old root o = { o with
    a := Nat.lor o.a (2 ^ 16 - 1), b := Nat.lor o.b (2 ^ 16 - 1), c := Nat.lor o.c (2 ^ 16 - 1)
    eraseDue := some (old, 0x40) } := rfl

/-- The erasure has failed: nothing is programmed, and the chip is reset. -/
theorem lcRun_failed {c : LcsCommand} (own : c.mgt = false) (s : State) :
    (lcRun c 16 false s).nv.otp = { s.nv.otp with tray := none } ∧ (lcRun c 16 false s).clk.milestone = 0 := by
  have e : lcRun c 16 false s = chipResetNow Cls.command false true (lcEnds c 4 (modOtp (lcErase 16) s)) := rfl
  rw [e, chipResetNow_otp, lcEnds_refused own (by decide)]
  exact ⟨rfl, (chipResetNow_reset ..).boot.2.1⟩

/-- The chip enters SRV: the erase set is gone, the position programmed, a cold reset begun. -/
theorem lcRun_service {c : LcsCommand} (own : c.mgt = false) (s : State) :
    (lcRun c 16 true s).nv.otp = lcProgram 16 (lcNow s) (freeNow s) (lcErase 16 s.nv.otp) ∧
    ∃ z, ChipReset true z (lcRun c 16 true s) := by
  have e : lcRun c 16 true s = chipResetNow Cls.command true true (logWrite 0x02 true (leBytes 1 (lcNow s) ++
    leBytes 1 (lcCode 16)) (lcEnds c 0 (modOtp (lcProgram 16 (lcNow s) (freeNow s)) (modOtp (lcErase 16) s)))) := rfl
  rw [e]
  refine ⟨?_, _, chipResetNow_reset ..⟩
  rw [chipResetNow_otp, logWrite_otp, lcEnds_done own]
  rfl

/-! ## Token slots and EXTEST (R460, R463, R467) -/

/-- A slot takes a digest that is not all ones. -/
def slotProgrammed (slot : Nat) (d : BitVec 384) (s : State) : State :=
  modOtp (fun o => { o with tokens := tput o.tokens slot (.digest d) }) s

theorem tokenDigestProgram_programs {s : State} {slot : Nat} {d : BitVec 384} (blank : lcNow s = 0) (legal : slot < 11)
    (free : thas s.nv.otp.tokens slot = false) (good : s.mod.phase = .good) (digest : d ≠ BitVec.allOnes 384) :
    exec (.tokenDigestProgram slot d) s = .next (slotProgrammed slot d s) := by
  refine congrArg Host.Outcome.next ((if_pos (by simp [blank, legal, free, good])).trans ?_)
  rw [if_neg digest]
  rfl

theorem tokenDigestProgram_spent {s : State} {slot : Nat} (spent : thas s.nv.otp.tokens slot = true) (d : BitVec 384) :
    exec (.tokenDigestProgram slot d) s = .next s :=
  congrArg Host.Outcome.next (if_neg (by simp [spent]))

theorem jtagExtest_enters {s : State} (good : s.mod.phase = .good) (plain : s.sec.session = .none_)
    (allowed : extestAllowed s = true) : exec .jtagExtest s = .next { s with lcs := { s.lcs with extest := true } } :=
  congrArg Host.Outcome.next ((if_neg (not_not.mpr good)).trans ((if_neg (not_not.mpr plain)).trans (if_pos allowed)))

theorem jtagExtest_barred {s : State} (plain : s.sec.session = .none_) (barred : extestAllowed s = false) :
    exec .jtagExtest s = .next s := by
  have inside : (if extestAllowed s then modLcs (fun l => { l with extest := true }) s else s) = s := if_neg (by simp [barred])
  refine congrArg Host.Outcome.next ?_
  rw [if_neg (not_not.mpr plain), inside, ite_self]

/-- EXTEST is left. -/
def extestLeft (s : State) : State := modLcs (fun l => { l with extest := false }) s

theorem jtagExtestExit_resets {s : State} (on : s.lcs.extest = true) :
    exec .jtagExtestExit s = .next (chipResetNow Cls.command false true (extestLeft s)) :=
  congrArg Host.Outcome.next (if_pos on)

/-- Settles O9: the command by `transitionCommand_submits`, the decision by the `lcDecide_` lemmas, SRV by `lcRun_service` and
`lcRun_failed` (log 94: deciding and programming are one command, and its reset), slots and EXTEST case by case. -/
theorem lifeCycleTransitions : Obligations.LifeCycleTransitions := by
  refine ⟨?submits, ?busy, ?noEdge, ?wrongToken, ?spent, ?service, ?failed, ?slot,
    fun s slot d spent => tokenDigestProgram_spent spent d, fun s good plain allowed => jtagExtest_enters good plain allowed,
    fun s plain barred => jtagExtest_barred plain barred, ?exit, fun s off => congrArg Host.Outcome.next (if_neg (by simp [off]))⟩
  case submits =>
    intro s src target reaches running free legal
    exact runs_of (transitionCommand_submits reaches running free legal) ⟨rfl, ⟨_, rfl, rfl, rfl⟩, rfl⟩
  case busy =>
    intro s src target reaches running busy
    exact runs_of (transitionCommand_busy reaches running busy) ⟨rfl, rfl, targetTaken_busy target s⟩
  case noEdge =>
    intro s c ok busy own tries noEdge
    rw [transitionDecision_refuses busy (lcDecide_noEdge tries noEdge), lcEnds_refused own (by decide), satAdd_below tries]
    rfl
  case wrongToken =>
    intro s c ok q slot busy own tries edge wrong
    rw [transitionDecision_refuses busy (lcDecide_wrongToken tries edge wrong), lcEnds_refused own (by decide),
      satAdd_below tries]
    rfl
  case spent =>
    intro s c ok busy own spent
    refine runs_of (transitionDecision_refuses busy (lcDecide_spent spent) ok) ?_
    rw [lcEnds_refused own (by decide)]
    exact ⟨rfl, rfl, rfl⟩
  case service =>
    intro s c busy own tries production target opens
    refine runs_of (transitionDecision_runs busy (lcDecide_service tries production target opens) true) ?_
    obtain ⟨otp, z, reset⟩ := lcRun_service own s
    have old : lcNow s = 0x30 := congrArg lcCode production
    rw [otp, old, lcProgram_service, lcErase_service]
    exact ⟨rfl, rfl, rfl, rfl, rfl, rfl, reset.boot.2.2.1, reset.boot.2.1, reset.cmd⟩
  case failed =>
    intro s c busy own tries production target opens
    refine runs_of (transitionDecision_runs busy (lcDecide_service tries production target opens) false) ?_
    obtain ⟨otp, milestone⟩ := lcRun_failed own s
    rw [otp]
    exact ⟨rfl, rfl, rfl, milestone⟩
  case slot =>
    intro s slot d blank legal free good digest
    exact runs_of (tokenDigestProgram_programs blank legal free good digest)
      ⟨tget_tput_same .., fun i other => tget_tput_ne _ _ other⟩
  case exit =>
    intro s on
    exact runs_of (jtagExtestExit_resets on) ⟨chipReset_from (chipResetNow_reset ..) rfl,
      congrArg LcsState.extest (chipResetNow_reset ..).blocks.2.2.2.2⟩

end Sys2Proof.Proofs
end

section
/-!
The owl: replicas, margin alarms, re-planning, cooldown, policies and the eye monitor (chapter 20, R497, R499 to R503, R516).
-/
namespace Sys2Proof.Proofs
open Sys2Proof.Machine Sys2Proof.Laws

/-! ## Bits and lists -/

theorem bitOf_eq_testBit (v i : Nat) : bitOf v i = v.testBit i := by
  rw [Nat.testBit_eq_decide_div_mod_eq]
  rfl

theorem testBit_setBit_self (v i : Nat) : (setBit v i).testBit i = true := by
  rw [setBit, bitOf_eq_testBit]
  split
  case isTrue set => exact set
  case isFalse clear => rw [Nat.add_comm, Nat.testBit_two_pow_add_eq, Bool.eq_false_iff.mpr clear, Bool.not_false]

theorem testBit_clrBit_self (v i : Nat) : (clrBit v i).testBit i = false := by
  rw [clrBit, bitOf_eq_testBit]
  split
  case isTrue set =>
    have low : 2 ^ i ≤ v := Nat.ge_two_pow_of_testBit set
    have flips := Nat.testBit_two_pow_add_eq (v - 2 ^ i) i
    rw [Nat.add_sub_cancel' low, set] at flips
    simpa using flips
  case isFalse clear => exact Bool.eq_false_iff.mpr clear

theorem lset_eq_set {α : Type} (l : List α) (i : Nat) (a : α) : lset l i a = l.set i a := by
  induction l generalizing i with
  | nil => rfl
  | cons b l ih =>
    cases i with
    | zero => rfl
    | succ i => exact congrArg (b :: ·) (ih i)

theorem getElem?_lset_self {α : Type} {l : List α} {i : Nat} (lt : i < l.length) (a : α) : (lset l i a)[i]? = some a := by
  rw [lset_eq_set, List.getElem?_set_self lt]

/-! ## Replicas (R497, R500) -/

/-- The plan of a cluster as an entry of OWL_CLU. -/
theorem tget_modPlan (c : Nat) (f : CluPlan → CluPlan) (s : State) :
    tget (modPlan c f s).owl.clu c = some (f (cluPlan s c)) := tget_tput_same ..

theorem modPlan_only (c : Nat) (f : CluPlan → CluPlan) (s : State) : Only (partMask [.owl]) s (modPlan c f s) :=
  (modPlan_keeps (keeps_refl _ s) (sub_of (sub_refl _) rfl) c f).only

theorem modOwl_only (f : OwlState → OwlState) (s : State) : Only (partMask [.owl]) s (modOwl f s) :=
  (modOwl_keeps (keeps_refl _ s) (sub_of (sub_refl _) rfl) f).only

section Replica
variable {s : State} {c : Nat}

/-- A cluster out of service is not read. -/
theorem replicaRead_skips (out : cluInService s c = false ∨ 64 ≤ c) (slack : Nat) :
    exec (.replicaRead [(c, slack)]) s = .next s := by
  refine congrArg Host.Outcome.next (if_pos ?_)
  rcases out with out | out <;> simp [out]

variable {slack : Nat} (legal : c < 64) (serves : cluInService s c = true)
include legal serves

theorem replica_reads : ¬ (!cluInService s c || decide (64 ≤ c)) = true := by
  simp [serves, legal]

/-- A read that raises no alarm keeps SLACK and whether it was low. -/
theorem replicaRead_keeps (calm : (decide (slack < slackAlarm) && (cluPlan s c).below && !(cluPlan s c).dropped) = false) :
    exec (.replicaRead [(c, slack)]) s =
      .next (modPlan c (fun p => { p with slack := slack, below := decide (slack < slackAlarm) }) s) :=
  congrArg Host.Outcome.next ((if_neg (replica_reads legal serves)).trans (if_neg (by simp [calm])))

/-- The cluster's clocks drop and the alarm counts. -/
def clocksDropped (c slack : Nat) (s : State) : State :=
  modOwl (fun o => { o with
    clu := tput o.clu c { cluPlan s c with slack := slack, below := true, dropped := true, mx := 1100, vc := 1200 }
    alarms := satAdd 255 o.alarms 1 }) s

/-- The second low read in a row raises the alarm. -/
theorem replicaRead_alarms (low : slack < 70) (again : (cluPlan s c).below = true) (first : (cluPlan s c).dropped = false) :
    exec (.replicaRead [(c, slack)]) s = .next (startReplan 1 (clocksDropped c slack s)) :=
  congrArg Host.Outcome.next ((if_neg (replica_reads legal serves)).trans
    (if_pos (by simp [again, first, low, slackAlarm])))

end Replica

/-! ## Re-planning (R499, R516) -/

theorem planFrozen_thawed {s : State} (thawed : s.nv.log.state ≠ 2) : planFrozen s = false := by simp [planFrozen, thawed]

theorem planFrozen_frozen {s : State} (frozen : s.nv.log.state = 2) : planFrozen s = true := by simp [planFrozen, frozen]

/-- A re-plan begins where none runs, an alarm's in any case. -/
theorem startReplan_begins {s : State} (thawed : s.nv.log.state ≠ 2) {cause : Nat}
    (may : s.owl.replanning = none ∨ cause = 1) :
    startReplan cause s = modOwl (fun o => { o with replanning := some cause }) s := by
  refine (if_neg (by simp [planFrozen_thawed thawed])).trans (if_neg ?_)
  rcases may with free | rfl
  · simp [free]
  · simp

/-- While one runs, or frozen, no re-plan begins but an alarm's. -/
theorem startReplan_held {s : State} {cause : Nat} (held : s.nv.log.state = 2 ∨ s.owl.replanning ≠ none)
    (asked : cause ≠ 1) : startReplan cause s = s := by
  rw [startReplan]
  split
  case isTrue => rfl
  case isFalse thawed =>
    refine if_pos ?_
    rcases held with frozen | runs
    · exact absurd (planFrozen_frozen frozen) thawed
    · simp [asked, Option.isSome_iff_ne_none, runs]

section Complete
variable {s : State} {volts : List Nat} {c mx vc cause : Nat}

/-- The plan that a re-plan of one cluster leaves. -/
def replanned (volts : List Nat) (c mx vc : Nat) (s : State) : OwlState := { s.owl with
  volts := volts
  clu := tput s.owl.clu c { cluPlan s c with mx := clampTo 1100 1700 mx, vc := clampTo 1200 2000 vc, dropped := false }
  replanning := none, factory := false, replans := satAdd 65535 s.owl.replans 1 }

/-- The record is written, the plan is in force, and the HEALTH record follows. -/
def planInForce (volts : List Nat) (c mx vc cause : Nat) (s : State) : State :=
  let t := { s with owl := replanned volts c mx vc s }
  let t := { modNv (fun n => { n with planRec := twoWrite (planNow t cause) n.planRec }) s with owl := t.owl }
  logWrite 0x07 false (healthBytes t) t

theorem planInForce_owl : (planInForce volts c mx vc cause s).owl = replanned volts c mx vc s := logWrite_owl ..

/-- MARGIN_REPLAN is posted where a value changed. -/
def replanPosted (changed : Bool) (detail : Nat) (s : State) : State :=
  if changed then post 0 Att.marginReplan detail 0 (logWrite 0x08 false (leBytes 8 detail) s) else s

theorem replanPosted_owl (changed : Bool) (detail : Nat) (s : State) : (replanPosted changed detail s).owl = s.owl := by
  rw [replanPosted]
  split
  · exact (post_owl ..).trans (logWrite_owl ..)
  · rfl

theorem replanPosted_posts (detail : Nat) (s : State) :
    (tgetD (attOf (replanPosted true detail s) 0).entries 0x40 attInit).pending = true := by
  rw [replanPosted, if_pos rfl]
  exact congrArg AttEntry.pending (post_entry ..)

/-- A re-plan of one cluster ends: the plan is in force, and a value that changed is posted. -/
theorem replanComplete_plans (runs : s.owl.replanning = some cause) (legal : c < 64) (serves : cluInService s c = true)
    (four : volts.length = 4) : ∃ changed detail,
      exec (.replanComplete volts [(c, mx, vc)] []) s =
        .next (replanPosted changed detail (planInForce volts c mx vc cause s)) ∧
      (planDiffers s (c, mx, vc) = true → changed = true) := by
  have whole : padTo 4 0 volts = volts := four ▸ padTo_self 0 volts
  have taken : ([(c, mx, vc)].filter fun e =>
      cluInService s e.1 && decide (e.1 < 64) && !([] : List Nat).contains e.1) = [(c, mx, vc)] := by
    simp [legal, serves]
  show ∃ changed detail, Host.Outcome.next _ = _ ∧ _
  simp only [runs, taken, whole]
  exact ⟨_, _, rfl, fun differs => by simp [differs]⟩

theorem planDiffers_of {c mx vc : Nat} (changed : (mx, vc) ≠ ((cluPlan s c).mx, (cluPlan s c).vc)) :
    planDiffers s (c, mx, vc) = true := by
  rw [planDiffers, Bool.or_eq_true, decide_eq_true_eq, decide_eq_true_eq, ← not_and_or]
  rintro ⟨h, k⟩
  exact changed (by rw [h, k])

end Complete

/-! ## Retirement (R501) -/

/-- A retirement lists the cluster and posts CLUSTER_RETIRED. -/
theorem retireCluster_retires {s : State} {c : Nat} (there : cluRetired s c = false) (cause slack : Nat) :
    c ∈ (retireCluster c cause slack s).nv.retired ∧
    (tgetD (attOf (retireCluster c cause slack s) 0).entries 0x48 attInit).pending = true := by
  unfold retireCluster
  rw [if_neg (by simp [there])]
  extract_lets ts z0 z1 z2 z3 z4 detail
  constructor
  · exact logWrite_retired (by rw [post_nv]; exact mem_linsert_self _ c) ..
  · rw [attOf_congr (logWrite_cmd ..)]
    exact congrArg AttEntry.pending (post_entry ..)

/-! ## Policies (R502, R503) -/

/-- What a loop asks for, applies and overrides, once a value is applied. -/
def policyApplied (l req applied : Nat) (s : State) : State :=
  modOwl (fun o => { o with
    polReq := lset o.polReq l req, polApplied := lset o.polApplied l applied
    polOvr := if req ≠ applied then setBit o.polOvr l else clrBit o.polOvr l
    polClear := if bitOf s.owl.polOvr l && !decide (req ≠ applied) then lset o.polClear l (s.now + 1) else o.polClear }) s

theorem applyPolicy_owl (l req applied unit : Nat) (s : State) :
    (applyPolicy l req applied unit s).owl = (policyApplied l req applied s).owl := by
  unfold applyPolicy
  extract_lets was is last z detail
  have e : z.owl = (policyApplied l req applied s).owl := by simp [z, was, is, policyApplied]
  split
  · exact (post_owl ..).trans ((logWrite_owl ..).trans e)
  · exact e

/-- An override that begins afresh is posted (log 32: the first in any case). -/
theorem applyPolicy_posts {l req applied : Nat} {s : State} (clear : s.owl.polOvr.testBit l = false)
    (never : s.owl.polClear.getD l 0 = 0) (overrides : req ≠ applied) (unit : Nat) :
    (tgetD (attOf (applyPolicy l req applied unit s) 0).entries 0x41 attInit).pending = true := by
  unfold applyPolicy
  extract_lets was is last z detail
  have fresh : (is && !was && (decide (last = 0) || decide (last + 1000000000 ≤ s.now + 1))) = true := by
    rw [show is = true from decide_eq_true overrides, show was = false from (bitOf_eq_testBit ..).trans clear,
      show last = 0 from never]
    rfl
  rw [if_pos fresh]
  exact congrArg AttEntry.pending (post_entry ..)

theorem testBit_policyApplied (l req applied : Nat) (s : State) :
    (policyApplied l req applied s).owl.polOvr.testBit l = decide (req ≠ applied) := by
  by_cases same : req = applied
  · subst same
    simp only [policyApplied, modOwl_owl, ne_eq, not_true_eq_false, if_false, decide_false]
    exact testBit_clrBit_self ..
  · simp only [policyApplied, modOwl_owl, ne_eq, same, not_false_eq_true, if_true, decide_true]
    exact testBit_setBit_self ..

theorem policyWrite_applies {s : State} {src : Src} (reaches : srcOpen s src = true) {l : Nat} (legal : l < 6) (loop : l ≠ 2)
    (v allowed unit : Nat) : exec (.policyWrite src l v allowed unit) s =
      .next (applyPolicy l (policyLegal l v) (policyLegal l allowed) unit s) :=
  congrArg Host.Outcome.next (if_pos (by simp [reaches, legal, loop]))

theorem clampTo_idem {lo hi : Nat} (h : lo ≤ hi) (v : Nat) : clampTo lo hi (clampTo lo hi v) = clampTo lo hi v := by
  simp only [clampTo_max_min h]
  omega

theorem clampZeroOr_le {lo hi : Nat} (h : lo ≤ hi) (v : Nat) : clampZeroOr lo hi v ≤ hi := by
  rw [clampZeroOr]
  split_ifs <;> omega

theorem clampZeroOr_idem {lo hi : Nat} (h : lo ≤ hi) (v : Nat) :
    clampZeroOr lo hi (clampZeroOr lo hi v) = clampZeroOr lo hi v := by
  simp only [clampZeroOr]
  split_ifs <;> omega

/-- Two fields of a register read back as they were placed. -/
theorem bitsOf_two {n a b : Nat} (ha : a < 2 ^ n) (hb : b < 2 ^ n) :
    bitsOf (a + fieldAt b n n) 0 n = a ∧ bitsOf (a + fieldAt b n n) n n = b := by
  rw [fieldAt, bitsOf, bitsOf, Nat.mod_eq_of_lt hb]
  constructor
  · rw [Nat.pow_zero, Nat.div_one, Nat.add_mul_mod_self_right, Nat.mod_eq_of_lt ha]
  · rw [Nat.add_mul_div_right _ _ (by positivity), Nat.div_eq_of_lt ha, Nat.zero_add, Nat.mod_eq_of_lt hb]

/-- A legal policy value is its own nearest. -/
theorem policyLegal_idem {l : Nat} (legal : l < 6) (v : Nat) : policyLegal l (policyLegal l v) = policyLegal l v := by
  obtain rfl | rfl | rfl | rfl | rfl | rfl : l = 0 ∨ l = 1 ∨ l = 2 ∨ l = 3 ∨ l = 4 ∨ l = 5 := by omega
  · exact Nat.mod_mod ..
  · have mx : clampZeroOr 1100 1700 (bitsOf v 0 11) < 2 ^ 11 := (clampZeroOr_le (by decide) _).trans_lt (by decide)
    have vc : clampZeroOr 1200 2000 (bitsOf v 11 11) < 2 ^ 11 := (clampZeroOr_le (by decide) _).trans_lt (by decide)
    obtain ⟨low, high⟩ := bitsOf_two mx vc
    show clampZeroOr 1100 1700 (bitsOf (_ + fieldAt _ 11 11) 0 11) +
      fieldAt (clampZeroOr 1200 2000 (bitsOf (_ + fieldAt _ 11 11) 11 11)) 11 11 = _
    rw [low, high, clampZeroOr_idem (by decide), clampZeroOr_idem (by decide)]
    rfl
  · rfl
  · exact Nat.mod_mod ..
  · have small : clampTo 100 400 (v % 512) < 512 := by rw [clampTo_max_min (by decide)]; omega
    show clampTo 100 400 (clampTo 100 400 (v % 512) % 512) = _
    rw [Nat.mod_eq_of_lt small, clampTo_idem (by decide)]
    rfl
  · have small : clampTo 85 100 (v % 128) < 128 := by rw [clampTo_max_min (by decide)]; omega
    show clampTo 85 100 (clampTo 85 100 (v % 128) % 128) = _
    rw [Nat.mod_eq_of_lt small, clampTo_idem (by decide)]
    rfl

/-! ## Cooldown and the eye monitor (R502) -/

theorem placementCooldown_marks {s : State} {c : Nat} (legal : c < 64) (serves : cluInService s c = true) :
    exec (.placementCooldown c) s = .next (modPlan c (fun p => { p with state := 1 }) s) :=
  congrArg Host.Outcome.next (if_pos (by simp [legal, serves]))

theorem cooldownEnd_unmarks {s : State} {c : Nat} (legal : c < 64) (serves : cluInService s c = true) :
    exec (.cooldownEnd c) s = .next (modPlan c (fun p => { p with state := 0 }) s) :=
  congrArg Host.Outcome.next (if_pos (by simp [legal, serves]))

/-- What EQ_HOLD applies once the ports of low lanes adapt. -/
def heldLess (req : Nat) (low : List Nat) : Nat :=
  (low.filter fun l => bitOf req (lanePort l)).foldl (fun v l => clrBit v (lanePort l)) req

theorem testBit_heldLess_one (req l : Nat) : (heldLess req [l]).testBit (lanePort l) = false := by
  rw [heldLess]
  by_cases held : bitOf req (lanePort l) = true
  · rw [List.filter_cons_of_pos (by exact held)]
    exact testBit_clrBit_self ..
  · rw [List.filter_cons_of_neg (by exact held)]
    exact (bitOf_eq_testBit ..).symm.trans (Bool.eq_false_iff.mpr held)

/-- The margins of one lane have been read. -/
def eyeRead (l m : Nat) (s : State) : State := modOwl (fun o => { o with
  eye := [(l, m)], eqAdapting := (List.range 124).filter fun k => !bitOf (o.polReq.getD 3 0) (lanePort k) || [l].contains k }) s

/-- A lane below half its margin adapts in spite of EQ_HOLD. -/
theorem eyeMonitorRead_adapts {s : State} {l m : Nat} (legal : l < 124) (low : m < 50) (fresh : s.owl.eye = []) :
    ∃ unit, exec (.eyeMonitorRead [(l, m)]) s =
      .next (applyPolicy 3 (s.owl.polReq.getD 3 0) (heldLess (s.owl.polReq.getD 3 0) [l]) unit (eyeRead l m s)) := by
  have eye : [(l, m)].foldl (fun t e => if e.1 < 124 then tput t e.1 e.2 else t) s.owl.eye = [(l, m)] := by
    simp [legal, fresh, tput]
  have lows : ([(l, m)].filter fun (e : Nat × Nat) => e.2 < 50).map Prod.fst = [l] := by simp [low]
  show ∃ unit, Host.Outcome.next _ = _
  simp only [eye, lows]
  exact ⟨_, rfl⟩

/-- Settles O37: replicas by `replicaRead_keeps` and `replicaRead_alarms`, re-plans by the `startReplan_` lemmas and
`replanComplete_plans`, policies by `policyWrite_applies` (log 32: the first POLICY_OVERRIDDEN is unconditional), the eye monitor by
`eyeMonitorRead_adapts` (log 99: the numbering of lanes). -/
theorem marginPlan : Obligations.MarginPlan := by
  refine ⟨?high, ?low, ?alarm, fun s c slack out => replicaRead_skips out slack, ?ageing, ?floor,
    fun s c there cause slack => retireCluster_retires there cause slack, ?noFloor, ?daily, ?asked, ?held, ?complete,
    ?noPlan, ?policy, ?loopTwo, ?posted, fun l v legal => policyLegal_idem legal v, ?cools, ?warms, ?outOfService, ?eye⟩
  case high =>
    intro s c slack legal serves high
    have clear : decide (slack < slackAlarm) = false := decide_eq_false (Nat.not_lt.mpr high)
    refine runs_of (replicaRead_keeps legal serves (by rw [clear]; rfl)) ⟨?_, modPlan_only ..⟩
    rw [clear]
    exact tget_modPlan ..
  case low =>
    intro s c slack legal serves low above
    have set : decide (slack < slackAlarm) = true := decide_eq_true low
    refine runs_of (replicaRead_keeps legal serves (by rw [above, Bool.and_false]; rfl)) ⟨?_, modPlan_only ..⟩
    rw [set]
    exact tget_modPlan ..
  case alarm =>
    intro s c slack legal serves low again first thawed
    refine runs_of (replicaRead_alarms legal serves low again first) ?_
    rw [startReplan_begins (s := clocksDropped c slack s) thawed (.inr rfl)]
    exact ⟨rfl, rfl, tget_tput_same .., only_trans (modOwl_only ..) (modOwl_only ..)⟩
  case ageing =>
    intro s i v legal
    refine runs_of rfl ⟨?_, modOwl_only ..⟩
    simp [legal]
  case floor => exact fun s c dropped below => congrArg Host.Outcome.next (if_pos (by simp [dropped, below, slackFloor]))
  case noFloor =>
    intro s c kept
    refine congrArg Host.Outcome.next (if_neg ?_)
    rcases kept with kept | kept
    · simp [kept]
    · simp [slackFloor, Nat.not_lt.mpr kept]
  case daily =>
    intro s thawed free
    refine runs_of (congrArg Host.Outcome.next (startReplan_begins thawed (.inl free))) ⟨rfl, modOwl_only ..⟩
  case asked =>
    intro s src reaches thawed free
    exact runs_of (congrArg Host.Outcome.next ((if_pos reaches).trans (startReplan_begins thawed (.inl free))))
      ⟨rfl, modOwl_only ..⟩
  case held =>
    intro s src held
    refine ⟨congrArg Host.Outcome.next (startReplan_held held (by decide)), congrArg Host.Outcome.next ?_⟩
    rw [startReplan_held held (by decide), ite_self]
  case complete =>
    intro s volts c mx vc cause runs legal serves four
    obtain ⟨changed, detail, next, posts⟩ := replanComplete_plans (mx := mx) (vc := vc) runs legal serves four
    refine runs_of next ?_
    rw [replanPosted_owl, planInForce_owl]
    refine ⟨rfl, rfl, rfl, rfl, tget_tput_same .., fun other => ?_⟩
    rw [posts (planDiffers_of other)]
    exact replanPosted_posts ..
  case noPlan =>
    intro s volts clocks retire idle
    show Host.Outcome.next _ = _
    simp only [idle]
  case policy =>
    intro s src l v unit reaches legal loop req applied allowed
    refine runs_of (policyWrite_applies reaches legal loop v allowed unit) ?_
    rw [applyPolicy_owl]
    exact ⟨getElem?_lset_self (by omega) _, getElem?_lset_self (by omega) _, testBit_policyApplied .., rfl⟩
  case loopTwo => exact fun s src v allowed unit => congrArg Host.Outcome.next (if_neg (by simp))
  case posted =>
    intro s src l v unit reaches legal loop clear never allowed overrides
    exact runs_of (policyWrite_applies reaches legal loop v allowed unit) (applyPolicy_posts clear never overrides unit)
  case cools =>
    exact fun s c legal serves => runs_of (placementCooldown_marks legal serves) ⟨tget_modPlan .., modPlan_only ..⟩
  case warms => exact fun s c legal serves => runs_of (cooldownEnd_unmarks legal serves) ⟨tget_modPlan .., modPlan_only ..⟩
  case outOfService =>
    intro s c out
    exact ⟨congrArg Host.Outcome.next (if_neg (by simp [out])), congrArg Host.Outcome.next (if_neg (by simp [out]))⟩
  case eye =>
    intro s l m legal low fresh six
    obtain ⟨unit, adapts⟩ := eyeMonitorRead_adapts legal low fresh
    refine runs_of adapts ?_
    rw [applyPolicy_owl]
    refine ⟨rfl, ?_, ?_⟩
    · exact List.mem_filter.mpr ⟨List.mem_range.mpr legal, by simp⟩
    · have applied := getElem?_lset_self (l := s.owl.polApplied) (i := 3) (by omega) (heldLess (s.owl.polReq.getD 3 0) [l])
      have value : ((policyApplied 3 (s.owl.polReq.getD 3 0) (heldLess (s.owl.polReq.getD 3 0) [l])
          (eyeRead l m s)).owl.polApplied).getD 3 0 = heldLess (s.owl.polReq.getD 3 0) [l] :=
        (List.getD_eq_getElem?_getD ..).trans (congrArg (Option.getD · 0) applied)
      rw [value]
      exact testBit_heldLess_one ..

end Sys2Proof.Proofs
end

section
/-!
The limiter, the ledger, periods, the logbook and their opcodes (chapter 20, R504 to R508, R512, R513, R515 to R517).
-/
namespace Sys2Proof.Proofs
open Sys2Proof.Machine Sys2Proof.Laws

/-! ## Tables with rising keys -/

/-- The keys of a table rise. -/
def Rising {α : Type} (t : Tbl α) : Prop := t.Pairwise fun a b => a.1 < b.1

theorem mem_tput {α : Type} {t : Tbl α} {k : Nat} {a : α} {e : Nat × α} (h : e ∈ tput t k a) : e = (k, a) ∨ e ∈ t := by
  induction t with
  | nil => exact .inl (List.mem_singleton.mp h)
  | cons x t ih =>
    unfold tput at h
    split at h
    · exact List.mem_cons.mp h
    · split at h
      · exact (List.mem_cons.mp h).imp_right (List.mem_cons_of_mem _)
      · rcases List.mem_cons.mp h with rfl | h
        · exact .inr (List.mem_cons_self ..)
        · exact (ih h).imp_right (List.mem_cons_of_mem _)

theorem rising_tput {α : Type} {t : Tbl α} (h : Rising t) (k : Nat) (a : α) : Rising (tput t k a) := by
  induction t with
  | nil => exact List.pairwise_singleton ..
  | cons x t ih =>
    obtain ⟨above, rest⟩ := List.pairwise_cons.mp h
    unfold tput
    split
    case isTrue before =>
      refine List.pairwise_cons.mpr ⟨fun e there => ?_, h⟩
      rcases List.mem_cons.mp there with rfl | there
      · exact before
      · exact before.trans (above e there)
    case isFalse =>
      split
      case isTrue same => exact List.pairwise_cons.mpr ⟨fun e there => same ▸ above e there, rest⟩
      case isFalse =>
        refine List.pairwise_cons.mpr ⟨fun e there => ?_, ih rest⟩
        rcases mem_tput there with rfl | there
        · show x.1 < k
          omega
        · exact above e there

theorem tget_below {α : Type} {t : Tbl α} {k : Nat} (h : ∀ e ∈ t, k < e.1) : tget t k = none := by
  induction t with
  | nil => rfl
  | cons x t ih =>
    have off : x.1 ≠ k := Nat.ne_of_gt (h x (List.mem_cons_self ..))
    rw [tget, if_neg off]
    exact ih fun e there => h e (List.mem_cons_of_mem _ there)

/-- In a table with rising keys an entry is what its key finds. -/
theorem tget_of_mem {α : Type} {t : Tbl α} (h : Rising t) {e : Nat × α} (there : e ∈ t) : tget t e.1 = some e.2 := by
  induction t with
  | nil => cases there
  | cons x t ih =>
    obtain ⟨above, rest⟩ := List.pairwise_cons.mp h
    rcases List.mem_cons.mp there with rfl | there
    · exact if_pos rfl
    · rw [tget, if_neg (Nat.ne_of_lt (above e there))]
      exact ih rest there

/-! ## The limiter (R504) -/

/-- The measured power is kept. -/
def powerRead (w : Nat) (s : State) : State := modPwr (fun p => { p with powerW := min 65535 w }) s

theorem powerLimiterTick_down {s : State} {w : Nat} (above : effectiveCap s < w) : exec (.powerLimiterTick w) s =
    .next (modOpen (fun i => { i with flags := setBit i.flags 3 }) (modPwr limitDown (powerRead w s))) :=
  congrArg Host.Outcome.next (if_pos above)

theorem powerLimiterTick_up {s : State} {w : Nat} (below : w < effectiveCap s) :
    exec (.powerLimiterTick w) s = .next (modPwr limitUp (powerRead w s)) :=
  congrArg Host.Outcome.next ((if_neg (Nat.not_lt.mpr below.le)).trans (if_pos below))

theorem powerLimiterTick_level {s : State} {w : Nat} (level : effectiveCap s = w) :
    exec (.powerLimiterTick w) s = .next (powerRead w s) := by
  subst level
  exact congrArg Host.Outcome.next ((if_neg (Nat.lt_irrefl _)).trans (if_neg (Nat.lt_irrefl _)))

theorem modPwr_only (f : PwrState → PwrState) (s : State) : Only (partMask [.pwr]) s (modPwr f s) :=
  (modPwr_keeps (keeps_refl _ s) (sub_of (sub_refl _) rfl) f).only

theorem modLed_only (f : LedgerState → LedgerState) (s : State) : Only (partMask [.led]) s (modLed f s) :=
  (modLed_keeps (keeps_refl _ s) (sub_of (sub_refl _) rfl) f).only

/-- A change of the registers of chapter 20's power part, and then of the ledger. -/
theorem modLed_modPwr_only (f : LedgerState → LedgerState) (g : PwrState → PwrState) {s t : State}
    (h : Only (partMask [.pwr, .led]) s t) : Only (partMask [.pwr, .led]) s (modLed f (modPwr g t)) :=
  only_trans h (modLed_keeps (modPwr_keeps (keeps_refl _ t) (sub_of (sub_refl _) rfl) g) (sub_of (sub_refl _) rfl) f).only

theorem powerRead_only (w : Nat) (s : State) : Only (partMask [.pwr, .led]) s (powerRead w s) :=
  (modPwr_keeps (keeps_refl _ s) (sub_of (sub_refl _) rfl) _).only

/-! ## Ledger time (R505) -/

theorem ledgerTimeLoad_idle {s : State} (alone : s.wmk.synced = false) : exec .ledgerTimeLoad s = .next s :=
  congrArg Host.Outcome.next (if_neg (by simp [alone]))

/-- With no interval open, ledger time is loaded and nothing else happens. -/
theorem ledgerTimeLoad_loads {s : State} (synced : s.wmk.synced = true) (closed : s.led.openIv = none) :
    exec .ledgerTimeLoad s = .next (modLed (fun l => { l with time := s.wmk.tb }) s) :=
  congrArg Host.Outcome.next ((if_pos synced).trans (if_neg (by simp [closed])))

/-! ## Metering (R508) -/

/-- The sum of all totals. -/
def totalSum (l : LedgerState) : Nat := (l.totals.map Prod.snd).sum

theorem sum_tput {t : Tbl Nat} (h : Rising t) (k m : Nat) :
    ((tput t k (tgetD t k 0 + m)).map Prod.snd).sum = (t.map Prod.snd).sum + m := by
  induction t with
  | nil => simp [tput, tgetD, tget]
  | cons x t ih =>
    obtain ⟨above, rest⟩ := List.pairwise_cons.mp h
    obtain ⟨j, n⟩ := x
    unfold tput
    split
    case isTrue before =>
      have absent : tgetD ((j, n) :: t) k 0 = 0 := by
        rw [tgetD, tget_below]
        · rfl
        · intro e there
          rcases List.mem_cons.mp there with rfl | there
          · exact before
          · exact before.trans (above e there)
      rw [absent, List.map_cons, List.sum_cons]
      omega
    case isFalse =>
      split
      case isTrue same =>
        have own : tgetD ((j, n) :: t) k 0 = n := by simp [tgetD, tget, same]
        simp only [own, List.map_cons, List.sum_cons]
        omega
      case isFalse other =>
        have past : tgetD ((j, n) :: t) k 0 = tgetD t k 0 := by simp [tgetD, tget, other]
        simp only [past, List.map_cons, List.sum_cons, ih rest]
        omega

section Charge
variable {l : LedgerState} (rising : Rising l.totals)
include rising

theorem chargeAcct_rising (price acct mj : Nat) : Rising (chargeAcct price acct mj l).totals := by
  rw [chargeAcct]
  split
  · exact rising
  · exact rising_tput rising _ _

theorem chargeAcct_sum (price acct mj : Nat) : totalSum (chargeAcct price acct mj l) = totalSum l + mj := by
  rw [chargeAcct]
  split
  case isTrue none => rw [none, Nat.add_zero]
  case isFalse => exact sum_tput rising _ mj

omit rising in
theorem chargeAcct_energy (price acct mj : Nat) : (chargeAcct price acct mj l).energy = l.energy := by
  rw [chargeAcct]
  split <;> rfl

end Charge

/-- Shares charged one after another. -/
def chargeAll (price : Nat) (shares : List (Nat × Nat)) (l : LedgerState) : LedgerState :=
  shares.foldl (fun l e => chargeAcct price e.1 e.2 l) l

theorem chargeAll_sum (price : Nat) (shares : List (Nat × Nat)) {l : LedgerState} (rising : Rising l.totals) :
    Rising (chargeAll price shares l).totals ∧
    totalSum (chargeAll price shares l) = totalSum l + (shares.map Prod.snd).sum := by
  induction shares generalizing l with
  | nil => exact ⟨rising, rfl⟩
  | cons e shares ih =>
    obtain ⟨still, sum⟩ := ih (chargeAcct_rising rising price e.1 e.2)
    refine ⟨still, sum.trans ?_⟩
    rw [chargeAcct_sum rising, List.map_cons, List.sum_cons, Nat.add_assoc]

theorem chargeAll_energy (price : Nat) (shares : List (Nat × Nat)) (l : LedgerState) :
    (chargeAll price shares l).energy = l.energy :=
  foldl_kept LedgerState.energy (fun _ _ => chargeAcct_energy ..) shares l

/-- Shares in proportion, each rounded down, take no more than there is. -/
theorem shares_le (e d : Nat) (ms : List Nat) : (ms.map fun m => e * m / d).sum * d ≤ e * ms.sum := by
  induction ms with
  | nil => simp
  | cons m ms ih =>
    rw [List.map_cons, List.sum_cons, List.sum_cons, Nat.add_mul, Nat.mul_add]
    exact Nat.add_le_add (Nat.div_mul_le_self ..) ih

/-- What the charges of a tick take in proportion. -/
def meterShares (e : Nat) (charges : List (Nat × Nat)) (s : State) : List (Nat × Nat) :=
  let cs := if s.clk.phase = .ready then charges.filter fun e => decide (e.1 ≤ 512) else []
  let d := (cs.map Prod.snd).sum
  if d = 0 then [] else cs.map fun c => (acctOf s c.1, e * c.2 / d)

theorem meterShares_le (e : Nat) (charges : List (Nat × Nat)) (s : State) :
    ((meterShares e charges s).map Prod.snd).sum ≤ e := by
  unfold meterShares
  extract_lets cs d
  split
  case isTrue => exact Nat.zero_le e
  case isFalse some =>
    have le := shares_le e d (cs.map Prod.snd)
    rw [List.map_map] at le ⊢
    exact Nat.le_of_mul_le_mul_right le (Nat.pos_of_ne_zero some)

/-- What a tick makes of the ledger: the shares, then the rest to the device (account 514). -/
def metered (e : Nat) (charges : List (Nat × Nat)) (iv : Interval) (s : State) : LedgerState :=
  chargeAcct iv.price 514 (e - ((meterShares e charges s).map Prod.snd).sum)
    (chargeAll iv.price (meterShares e charges s) s.led)

/-- A tick charges every millijoule once. -/
theorem metered_sum {s : State} (rising : Rising s.led.totals) (e : Nat) (charges : List (Nat × Nat)) (iv : Interval) :
    totalSum (metered e charges iv s) = totalSum s.led + e ∧ (metered e charges iv s).energy = s.led.energy := by
  obtain ⟨still, sum⟩ := chargeAll_sum iv.price (meterShares e charges s) rising
  have le := meterShares_le e charges s
  refine ⟨?_, (chargeAcct_energy ..).trans (chargeAll_energy ..)⟩
  rw [metered, chargeAcct_sum still, sum]
  omega

theorem meterTick_meters {s : State} {iv : Interval} (isOpen : s.led.openIv = some iv) (e : Nat) (charges : List (Nat × Nat)) :
    ∃ ticks sec peak, exec (.meterTick e charges) s = .next { s with led := { metered e charges iv s with
      energy := (metered e charges iv s).energy + e, openIv := some { iv with energy := iv.energy + e, peak := peak }
      secTicks := ticks, secEnergy := sec } } := by
  show ∃ ticks sec peak, Host.Outcome.next _ = _
  rw [isOpen]
  exact ⟨_, _, _, rfl⟩

theorem meterTick_idle {s : State} (closed : s.led.openIv = none) (e : Nat) (charges : List (Nat × Nat)) :
    exec (.meterTick e charges) s = .next s := by
  show Host.Outcome.next _ = _
  rw [closed]

/-! ## Intervals (R507) -/

section Interval
variable {s : State} {iv : Interval} (isOpen : s.led.openIv = some iv)
include isOpen

/-- The interval as its record holds it. -/
def ivClosed (iv : Interval) (s : State) : Interval := { iv with
  lengthUs := (s.led.time - iv.start) / 1000, avg := iv.energy * 1000 / ((s.led.time - iv.start) / 1000)
  flags := Nat.lor iv.flags 0 }

/-- Closing an interval of at least 1 µs puts it first in the ring. -/
theorem ivClose_closes (long : 1000 ≤ s.led.time - iv.start) :
    (ivClose 0 s).led.ring.head? = some (ivClosed iv s) ∧ (ivClose 0 s).led.time = s.led.time ∧
    (ivClose 0 s).led.nextIndex = s.led.nextIndex ∧ (ivClose 0 s).pwr = s.pwr := by
  have whole : (s.led.time - iv.start) / 1000 ≠ 0 := by omega
  rw [ivClose, isOpen]
  simp only [whole, if_false, logWrite_led, logWrite_pwr]
  exact ⟨rfl, rfl, rfl, rfl⟩

theorem intervalClose_due (due : iv.start / intervalNs s < s.led.time / intervalNs s) :
    exec .intervalClose s = .next (ivOpen (applyInterval (ivClose 0 s))) := by
  show Host.Outcome.next _ = _
  rw [isOpen]
  exact congrArg Host.Outcome.next (if_pos due)

theorem intervalClose_early (early : s.led.time / intervalNs s ≤ iv.start / intervalNs s) :
    exec .intervalClose s = .next s := by
  show Host.Outcome.next _ = _
  rw [isOpen]
  exact congrArg Host.Outcome.next (if_neg (Nat.not_lt.mpr early))

end Interval

/-! ## Periods (R506) -/

theorem minBy_spec {α : Type} {f : α → Nat} {l : List α} {a : α} (h : minBy f l = some a) : a ∈ l ∧ ∀ b ∈ l, f a ≤ f b := by
  induction l generalizing a with
  | nil => cases h
  | cons x l ih =>
    rw [minBy] at h
    split at h
    case h_1 empty =>
      obtain rfl : x = a := Option.some.inj h
      have none : l = [] := by
        cases l with
        | nil => rfl
        | cons y l =>
          rw [minBy] at empty
          split at empty
          · cases empty
          · split at empty <;> cases empty
      subst none
      exact ⟨List.mem_cons_self .., fun b there => (congrArg f (List.mem_singleton.mp there)).ge⟩
    case h_2 b least =>
      obtain ⟨there, le⟩ := ih least
      split at h
      case isTrue lt =>
        obtain rfl : b = a := Option.some.inj h
        exact ⟨List.mem_cons_of_mem _ there, List.forall_mem_cons.mpr ⟨lt.le, le⟩⟩
      case isFalse ge =>
        obtain rfl : x = a := Option.some.inj h
        exact ⟨List.mem_cons_self .., List.forall_mem_cons.mpr ⟨le_rfl, fun c k => (Nat.not_lt.mp ge).trans (le c k)⟩⟩

/-- The period in force is valid, has begun, and began last. -/
theorem periodAt_latest {ps : Tbl Period} {t i : Nat} {p : Period} (h : periodAt ps t = some i) (rising : Rising ps)
    (entry : tget ps i = some p) : p.valid = true ∧ p.start ≤ t ∧
      ∀ e ∈ ps, e.2.valid = true → e.2.start ≤ t → e.2.start ≤ p.start := by
  obtain ⟨e, least, rfl⟩ := Option.map_eq_some_iff.mp h
  obtain ⟨there, le⟩ := minBy_spec least
  obtain ⟨listed, fits⟩ := List.mem_filter.mp there
  obtain rfl : e.2 = p := Option.some.inj ((tget_of_mem rising listed).symm.trans entry)
  simp only [Bool.and_eq_true, decide_eq_true_eq] at fits
  obtain ⟨valid, begun⟩ := fits
  refine ⟨valid, begun, fun d k v b => ?_⟩
  have nearer := le d (List.mem_filter.mpr ⟨k, by simp [v, b]⟩)
  omega

/-- An entry of the schedule takes effect. -/
def periodSet (i : Nat) (p : Period) (s : State) : State :=
  savePeriods (noteCap (modPwr (fun w =>
    { w with periods := tput w.periods i p, inForce := periodAt (tput w.periods i p) s.led.time }) s))

theorem periodWrite_sets {s : State} {src : Src} (reaches : srcOpen s src = true) {r : Reg} {v : DWord} {i : Nat} {p : Period}
    (write : periodWrite r v.toNat s = some (i, p)) : exec (.periodWrite src r v) s = .next (periodSet i p s) := by
  refine congrArg Host.Outcome.next ((if_pos reaches).trans ?_)
  rw [setPeriod, write]
  rfl

/-! ## The logbook (R512 to R516) -/

section Mounted
variable {s : State} (mounted : s.log.mounted = true)
include mounted

theorem dailyHealthRecord_writes : exec .dailyHealthRecord s =
    .next (modLog (fun g => { g with retries := 0 }) (logWrite 0x07 false (healthBytes s) s)) :=
  congrArg Host.Outcome.next (if_pos mounted)

theorem logbookCommit_commits : exec .logbookCommit s = .next (logCommit (fun _ => true) s) :=
  congrArg Host.Outcome.next (if_pos mounted)

/-- A page's programming has been retried on the open block's next page. -/
def pageRetried (s : State) : State :=
  modNv (fun n => { n with log := { n.log with openPages := n.log.openPages + 1 } })
    (modLog (fun g => { g with retries := satAdd 65535 g.retries 1 }) s)

theorem pageProgramFail_retries (room : s.nv.log.openPages < 32) (last : Bool) : exec (.pageProgramFail last) s =
    .next (if last then retireBlock (pageRetried s) else pageRetried s) := by
  have page : logPage s.nv.log = some { s.nv.log with openPages := s.nv.log.openPages + 1 } := if_pos room
  refine congrArg Host.Outcome.next ((if_neg (by simp [mounted])).trans ?_)
  simp only [modLog_nv, page]
  rfl

/-- The block of the oldest records goes; with no critical record in it, nothing is copied. -/
theorem logbookBlockErase_erases {b c : List LogRec} {rest : List (List LogRec)} (writable : s.nv.log.state ≠ 2)
    (few : logFree s.nv.log < 2) (blocks : s.nv.log.blocks = b :: c :: rest) (routine : ∀ r ∈ b, r.critical = false)
    (some : b ≠ []) : exec .logbookBlockErase s =
      .next (modNv (fun n => { n with log := { n.log with blocks := c :: rest } }) s) := by
  have none : b.filter (fun r => r.critical) = [] := List.filter_eq_nil_iff.mpr fun r there => by simp [routine r there]
  have goes : ¬ ((b :: c :: rest).all fun blk => blk.all fun r => r.critical) = true := by
    obtain ⟨r, there⟩ := List.exists_mem_of_ne_nil b some
    intro all
    have critical := List.all_eq_true.mp (List.all_eq_true.mp all b (List.mem_cons_self ..)) r there
    rw [routine r there] at critical
    cases critical
  refine congrArg Host.Outcome.next ((if_neg (by simp [mounted, writable, few])).trans ?_)
  rw [blocks]
  refine (if_neg goes).trans ?_
  rw [none]
  rfl

end Mounted

/-- A block is retired for a spare; LOGBOOK_WEAR is posted where 64 are left. -/
theorem retireBlock_spares {s : State} (spares : 0 < s.nv.log.spares) :
    (retireBlock s).nv.log.spares = s.nv.log.spares - 1 ∧
    (s.nv.log.spares = 65 → (tgetD (attOf (retireBlock s) 0).entries 0x70 attInit).pending = true) := by
  unfold retireBlock
  extract_lets l l' z
  rw [if_neg (Nat.ne_of_gt spares)]
  refine ⟨?_, fun last => ?_⟩
  · split
    · rw [postWear_nv]
      rfl
    · rfl
  · have wears : (decide (l'.spares = 64) || decide (l'.spares = 0)) = true := by simp [l', l, last]
    rw [if_pos wears, postWear, attOf_congr (alertPost_cmd ..)]
    exact congrArg AttEntry.pending (post_entry ..)

theorem retireBlock_noSpare {s : State} (none : s.nv.log.spares = 0) :
    (retireBlock s).nv.log.dataBlocks = s.nv.log.dataBlocks - 1 := by
  rw [retireBlock, if_pos none]
  rfl

theorem logbook_unmounted {s : State} (absent : s.log.mounted = false) : exec .dailyHealthRecord s = .next s ∧
    exec .logbookCommit s = .next s ∧ exec .logbookBlockErase s = .next s ∧
    ∀ last, exec (.pageProgramFail last) s = .next s :=
  ⟨congrArg Host.Outcome.next (if_neg (by simp [absent])), congrArg Host.Outcome.next (if_neg (by simp [absent])),
   congrArg Host.Outcome.next (if_pos (by simp [absent])), fun _ => congrArg Host.Outcome.next (if_pos (by simp [absent]))⟩

theorem logReadOnly_log (s : State) : (logReadOnly s).log = s.log := by
  rw [logReadOnly]
  split
  · rfl
  · rw [postWear_log]

/-- Committing records leaves the buffer as it is. -/
theorem logCommitFrom_buffer (rs : List LogRec) (left : Nat) (s : State) :
    (logCommitFrom rs left s).log.buffer = s.log.buffer := by
  induction rs generalizing left s with
  | nil => rfl
  | cons r rs ih =>
    rw [logCommitFrom]
    split
    case isTrue => exact ih ..
    case isFalse =>
      split
      case h_1 => exact ih ..
      case h_2 =>
        split
        · exact (ih ..).trans (congrArg LogState.buffer (logReadOnly_log s))
        · exact ih ..

theorem logCommit_empties (s : State) : (logCommit (fun _ => true) s).log.buffer = [] := by
  rw [logCommit]
  split
  · rfl
  · exact (logCommitFrom_buffer ..).trans (by simp)

/-- One record goes to the next page of the open block. -/
theorem logCommit_one {s : State} {r : LogRec} (writable : s.nv.log.state ≠ 2) (one : s.log.buffer = [r])
    (room : s.nv.log.openPages < 32) : (logCommit (fun _ => true) s).nv.log =
      logPut r { s.nv.log with openPages := s.nv.log.openPages + 1 } := by
  have page : logPage s.nv.log = some { s.nv.log with openPages := s.nv.log.openPages + 1 } := if_pos room
  have whole : s.log.buffer.filter (fun _ => true) = [r] := by rw [one]; rfl
  rw [logCommit, if_neg writable]
  simp only [whole, logCommitFrom, modLog_nv, page]
  rw [if_neg (by simp [logRecSize])]
  rfl

theorem flatten_logPut {l : LogStore} (some : l.blocks ≠ []) (r : LogRec) :
    (logPut r l).blocks.flatten = l.blocks.flatten ++ [r] := by
  obtain ⟨front, last, e⟩ := (List.eq_nil_or_concat l.blocks).resolve_left some
  simp [logPut, e]

/-! ## The opcodes (R517) -/

theorem storeMem_descs (a : Accessor) (slot off : Nat) (bs : List Byte) (s : State) :
    (storeMem a slot off bs s).cmd.descs = s.cmd.descs := by
  have written := (writeMem_keeps (keeps_refl _ (touch slot off bs.length true s)) (sub_refl _) a slot off bs).only.cmd rfl
  exact (congrArg CmdState.descs written).trans (touch_descs ..)

theorem storeMem_only (a : Accessor) (slot off : Nat) (bs : List Byte) (s : State) :
    Only 0x840fa8000 s (storeMem a slot off bs s) :=
  (storeMem_keeps (keeps_refl _ s) (sub_refl _) a slot off bs).only

/-- A result is written to clean memory and its descriptor ends. -/
theorem endWrite_clean {s : State} {slot off : Nat} {bs : List Byte} (clean : writeHitsPoison s slot off bs.length = false)
    (d : Desc) (r : Result) : endWrite d slot off bs r s = endD d r (storeMem (.desc d.qp d.sub) slot off bs s) := by
  rw [endWrite]
  simp only [clean]
  rfl

/-- A result written to clean memory is all that memory takes, and neither the ledger nor what survives power loss changes. -/
theorem endWrite_frame {s : State} {slot off : Nat} {bs : List Byte} (clean : writeHitsPoison s slot off bs.length = false)
    (d : Desc) (r : Result) : (endWrite d slot off bs r s).mem = (storeMem (.desc d.qp d.sub) slot off bs s).mem ∧
      (endWrite d slot off bs r s).led = s.led ∧ (endWrite d slot off bs r s).nv = s.nv := by
  have frame := storeMem_only (.desc d.qp d.sub) slot off bs s
  rw [endWrite_clean clean]
  exact ⟨rfl, frame.led rfl, frame.nv rfl⟩

/-- A started descriptor that writes its answer to clean memory ends with its result. -/
theorem endWrite_ends {s : State} {qp sub op slot off : Nat} {d : Desc} {bs : List Byte} (h : Started s qp sub op d)
    (clean : writeHitsPoison s slot off bs.length = false) (r : Result) :
    resultOf (endWrite d slot off bs r s) qp sub = some r := by
  rw [endWrite_clean clean]
  exact started_ends h (storeMem_descs ..) r

theorem leBytes_length (n v : Nat) : (leBytes n v).length = n := by
  induction n generalizing v with
  | zero => rfl
  | succ n ih => exact congrArg (· + 1) (ih _)

theorem ivBytes_length (i : Interval) : (ivBytes i).length = 64 := by
  simp [ivBytes, leBytes_length]

/-- Parts of one length together. -/
theorem length_flatten_const {α β : Type} {f : α → List β} {n : Nat} (h : ∀ a, (f a).length = n) (l : List α) :
    (l.map f).flatten.length = n * l.length := by
  rw [List.length_flatten, List.map_map, show List.length ∘ f = fun _ => n from funext h, List.map_const', List.sum_replicate,
    smul_eq_mul, Nat.mul_comm]

theorem totalsBytes_length (s : State) : (totalsBytes s).length = 65920 := by
  rw [totalsBytes, length_flatten_const fun _ => leBytes_length .., List.length_range]

/-- What LEDGER_EXPORT writes. -/
def exportBytes (n : Nat) (s : State) : List Byte := totalsBytes s ++ ((s.led.ring.take n).reverse.map ivBytes).flatten

theorem exportBytes_length {n : Nat} {s : State} (le : n ≤ s.led.ring.length) : (exportBytes n s).length = 65920 + 64 * n := by
  rw [exportBytes, List.length_append, totalsBytes_length, length_flatten_const ivBytes_length, List.length_reverse,
    List.length_take, Nat.min_eq_left le]

section Opcode
variable {s : State} {qp sub : Nat} {d : Desc}

/-- The account LEDGER_READ names. -/
def acctNamed (d : Desc) : Nat := if dfld d 24 2 = 0xFFFF then d.fn else dfld d 24 2

/-- What LEDGER_READ answers. -/
def ledgerAnswer (s : State) (a : Nat) : Result := { resOf 0 with
  value := acctTotal s a, aux := ((s.led.openIv.map fun i => i.index).getD s.led.nextIndex) % 2 ^ 32 }

theorem ledgerRead_answers (h : Started s qp sub 0xC0 d) (legal : acctNamed d ≤ 514) (own : d.fn = 0 ∨ acctNamed d = d.fn) :
    exec (.ledgerRead qp sub) s = .next (endD d (ledgerAnswer s (acctNamed d)) s) := by
  have passes : firstFail [chk (decide (acctNamed d ≤ 514) && (decide (d.fn = 0) || decide (acctNamed d = d.fn)))
      St.refusedHandle 24] = none := by
    rw [chk_pass (by simpa [legal] using own)]
    rfl
  refine congrArg Host.Outcome.next ((onStarted_started h).trans ((guarded_pass passes ..).trans ?_))
  cases isOpen : s.led.openIv <;> simp only [ledgerAnswer, isOpen] <;> rfl

theorem ledgerRead_refused (h : Started s qp sub 0xC0 d) (vf : d.fn ≠ 0) (other : acctNamed d ≠ d.fn) :
    exec (.ledgerRead qp sub) s = .next (endD d (refuse 0x10 24) s) := by
  have fails : firstFail [chk (decide (acctNamed d ≤ 514) && (decide (d.fn = 0) || decide (acctNamed d = d.fn)))
      St.refusedHandle 24] = some (refuse 0x10 24) := by
    rw [chk_fail (by simp [vf, other])]
    rfl
  exact congrArg Host.Outcome.next ((onStarted_started h).trans (guarded_fail fails ..))

theorem ledgerExport_writes {n : Nat} (h : Started s qp sub 0xC1 d)
    (count : n = min (clampTo 0 4096 (dfld d 40 4)) s.led.ring.length) (named : needFnMem s d 24 = none)
    (aligned : dfld d 32 8 % 64 = 0) (free : needOut s (dfld d 24 4) (dfld d 32 8) (65920 + 64 * n) 32 = none) :
    exec (.ledgerExport qp sub) s = .next (endWrite d (hSlot (dfld d 24 4)) (dfld d 32 8) (exportBytes n s)
      { resOf 0 with value := 65920 + 64 * n } s) := by
  subst count
  have passes : firstFail [needFnMem s d 24, chk (dfld d 32 8 % 64 = 0) St.refusedHandle 32, needOut s (dfld d 24 4)
      (dfld d 32 8) (65920 + 64 * min (clampTo 0 4096 (dfld d 40 4)) s.led.ring.length) 32] = none := by
    rw [named, free, chk_pass (decide_eq_true aligned)]
    rfl
  exact congrArg Host.Outcome.next ((onStarted_started h).trans (guarded_pass passes ..))

/-- The records LOGBOOK_READ answers with, and the SEQ of the first left out. -/
def logAnswer (s : State) (d : Desc) : List LogRec × Option Nat :=
  logFit ((logAll s).filter fun r => decide (dfld d 48 8 ≤ r.seq)) (dfld d 40 8)

theorem logbookRead_writes (h : Started s qp sub 0xC2 d) (named : needFnMem s d 24 = none)
    (free : needOut s (dfld d 24 4) (dfld d 32 8) (dfld d 40 8) 32 = none) :
    exec (.logbookRead qp sub) s = .next (endWrite d (hSlot (dfld d 24 4)) (dfld d 32 8)
      ((logAnswer s d).1.map logRecBytes).flatten
      { resOf 0 with value := (logAnswer s d).2.getD s.nv.log.nextSeq, aux := (logAnswer s d).1.length } s) := by
  have passes : firstFail [needFnMem s d 24, needOut s (dfld d 24 4) (dfld d 32 8) (dfld d 40 8) 32] = none := by
    rw [named, free]
    rfl
  exact congrArg Host.Outcome.next ((onStarted_started h).trans (guarded_pass passes ..))

end Opcode

/-- Settles O38: the limiter by the `powerLimiterTick_` lemmas (log 32: one step per tick), the meter by `metered_sum` (log 33:
only with an interval open), intervals by `ivClose_closes`, the period in force by `periodAt_latest`, the logbook by
`logCommit_one` and `logbookBlockErase_erases` (log 28: the daily record clears RETRIES), the opcodes one by one. -/
theorem ledgerAndLogbook : Obligations.LedgerAndLogbook := by
  refine ⟨?mx, ?vc, ?gaps, ?level, ?load, fun s alone => ledgerTimeLoad_idle alone, ?meter,
    fun s e charges closed => meterTick_idle closed e charges, ?close,
    fun s iv isOpen early => intervalClose_early isOpen early, ?period,
    fun ps t i p h rising entry => periodAt_latest h rising entry, ?start, ?cfg, ?daily,
    fun s absent => logbook_unmounted absent, ?commit, ?one, ?retry, ?spare, ?noSpare, ?erase, ?enough, ?read, ?notOwn,
    ?exports, ?records⟩
  case mx =>
    intro s w above room
    have down : limitDown (powerRead w s).pwr = { (powerRead w s).pwr with limMx := s.pwr.limMx - 25 } := if_pos room
    exact runs_of (powerLimiterTick_down above) ⟨down, modLed_modPwr_only _ _ (powerRead_only w s)⟩
  case vc =>
    intro s w above low room
    have down : limitDown (powerRead w s).pwr = { (powerRead w s).pwr with limVc := s.pwr.limVc - 25 } :=
      (if_neg (Nat.not_lt.mpr low)).trans (if_pos room)
    exact runs_of (powerLimiterTick_down above) ⟨down, modLed_modPwr_only _ _ (powerRead_only w s)⟩
  case gaps =>
    intro s w below some
    have up : limitUp (powerRead w s).pwr = { (powerRead w s).pwr with limGaps := s.pwr.limGaps - 1 } := if_pos some
    exact runs_of (powerLimiterTick_up below) ⟨up, only_trans (modPwr_only ..) (modPwr_only ..)⟩
  case level => exact fun s w level => runs_of (powerLimiterTick_level level) ⟨rfl, modPwr_only ..⟩
  case load => exact fun s synced closed => runs_of (ledgerTimeLoad_loads synced closed) ⟨rfl, modLed_only ..⟩
  case meter =>
    intro s e charges iv isOpen rising
    obtain ⟨ticks, sec, peak, meters⟩ := meterTick_meters isOpen e charges
    obtain ⟨sum, energy⟩ := metered_sum rising e charges iv
    exact runs_of meters ⟨sum, congrArg (· + e) energy, rfl, modLed_only (fun _ => _) s⟩
  case close =>
    intro s iv isOpen due long
    obtain ⟨ring, time, next, pwr⟩ := ivClose_closes isOpen long
    refine runs_of (intervalClose_due isOpen due) ⟨ring, ?_, congrArg (· + 1) next, ?_⟩
    · show some ((ivClose 0 s).led.time, 0, (ivClose 0 s).led.nextIndex) = _
      rw [time, next]
    · show (ivClose 0 s).pwr.intervalPending.getD (ivClose 0 s).pwr.intervalMin = _
      rw [pwr]
  case period =>
    exact fun s => runs_of rfl ⟨rfl, (noteCap_keeps (modPwr_keeps (keeps_refl (partMask [.pwr, .led]) s)
      (sub_of (sub_refl _) rfl) _) (sub_of (sub_refl _) rfl)).only⟩
  case start =>
    intro s src i v reaches legal
    have write : periodWrite (.pwrPeriodStart i) v.toNat s = some (i, { periodOf s i with start := v.toNat }) := by
      rw [periodWrite, if_pos legal, Nat.mod_eq_of_lt v.isLt]
    exact runs_of (periodWrite_sets reaches write) ⟨rfl, rfl⟩
  case cfg =>
    intro s src i v reaches legal
    have write : periodWrite (.pwrPeriodCfg i) v.toNat s = some (i, { periodOf s i with
        valid := v.toNat.testBit 31, price := bitsOf v.toNat 16 4, cap := clampZeroOr 600 2400 (bitsOf v.toNat 0 12) }) := by
      rw [periodWrite, if_pos legal, bitOf_eq_testBit]
    exact runs_of (periodWrite_sets reaches write) rfl
  case daily => exact fun s mounted => runs_of (dailyHealthRecord_writes mounted) rfl
  case commit => exact fun s mounted => runs_of (logbookCommit_commits mounted) (logCommit_empties s)
  case one =>
    intro s r mounted writable one _ room some
    refine runs_of (logbookCommit_commits mounted) ?_
    rw [logCommit_one writable one room]
    exact ⟨flatten_logPut (l := { s.nv.log with openPages := s.nv.log.openPages + 1 }) some r, rfl⟩
  case retry => exact fun s mounted room => runs_of (pageProgramFail_retries mounted room false) ⟨rfl, rfl⟩
  case spare =>
    intro s mounted room spares
    exact runs_of (pageProgramFail_retries mounted room true) (retireBlock_spares (s := pageRetried s) spares)
  case noSpare =>
    intro s mounted room none
    exact runs_of (pageProgramFail_retries mounted room true) (retireBlock_noSpare (s := pageRetried s) none)
  case erase =>
    exact fun s b c rest mounted writable few blocks routine some =>
      runs_of (logbookBlockErase_erases mounted writable few blocks routine some) rfl
  case enough => exact fun s enough => congrArg Host.Outcome.next (if_pos (by simp [enough]))
  case read =>
    rintro s qp sub d a h rfl legal own
    exact runs_of (ledgerRead_answers h legal own) ⟨rfl, started_ends h rfl _⟩
  case notOwn =>
    intro s qp sub d h vf named other
    refine runs_of (ledgerRead_refused h vf ?_) (started_ends h rfl _)
    rw [acctNamed, if_neg named]
    exact other
  case exports =>
    intro s qp sub d n h count named aligned free clean
    have length := exportBytes_length (count.trans_le (Nat.min_le_right ..) : n ≤ s.led.ring.length)
    have whole : writeHitsPoison s (hSlot (dfld d 24 4)) (dfld d 32 8) (exportBytes n s).length = false := by
      rw [length]
      exact clean
    obtain ⟨rfl, rfl⟩ := findDesc_place h.1
    obtain ⟨mem, led, -⟩ := endWrite_frame whole d { resOf 0 with value := 65920 + 64 * n }
    exact runs_of (ledgerExport_writes h count named aligned free) ⟨led, endWrite_ends h whole _, mem⟩
  case records =>
    intro s qp sub d h named free clean p
    obtain ⟨-, -, nv⟩ := endWrite_frame (clean ((logAnswer s d).1.map logRecBytes).flatten.length) d { resOf 0 with
      value := (logAnswer s d).2.getD s.nv.log.nextSeq, aux := (logAnswer s d).1.length }
    exact runs_of (logbookRead_writes h named free) ⟨nv, endWrite_ends h (clean _) _⟩

end Sys2Proof.Proofs
end

section
/-!
The management port: the I3C target, in-band interrupts, request frames and the UART (chapter 21, R521 to R526, R531).
-/
namespace Sys2Proof.Proofs
open Sys2Proof.Machine Sys2Proof.Laws

theorem modMgt_only (f : MgtState → MgtState) (s : State) : Only (partMask [.mgt]) s (modMgt f s) :=
  (modMgt_keeps (keeps_refl _ s) (sub_of (sub_refl _) rfl) f).only

/-! ## The I3C target (R521, R522) -/

section Target
variable {s : State}

/-- A target that is up and has a dynamic address runs an I3C command. -/
theorem i3cDo_runs (up : mgtUp s = true ∧ s.mgt.dynAddr.isSome = true) (f : State → State) : i3cDo f s = f s :=
  if_pos (by simp [up])

/-- A target without power or without a dynamic address runs none. -/
theorem i3cDo_ignores (down : s.mgt.dynAddr = none ∨ mgtUp s = false) (f : State → State) : i3cDo f s = s := by
  refine if_neg ?_
  rcases down with down | down <;> simp [down]

theorem entdaa_assigns (a : Nat) (up : mgtUp s = true) (free : s.mgt.dynAddr = none) :
    exec (.entdaa a) s = .next (i3cAnswer (some []) (modMgt (fun g => { g with dynAddr := some (a % 128) }) s)) :=
  congrArg Host.Outcome.next (if_pos (by simp [up, free]))

theorem setdasa_assigns (a : Nat) (up : mgtUp s = true) (free : s.mgt.dynAddr = none) :
    exec (.setdasa (0x30 + s.mod.strapSlot) a) s =
      .next (i3cAnswer (some []) (modMgt (fun g => { g with dynAddr := some (a % 128) }) s)) :=
  congrArg Host.Outcome.next (if_pos (by simp [up, free]))

/-- The port once ENEC has enabled the interrupt and been answered. -/
def interruptOn (s : State) : State := modMgt (fun g => { g with ibiEn := true }) (i3cAnswer (some []) s)

/-- A request is made where the interrupt is enabled and an alert is pending. -/
theorem ibiRequest_requests (enabled : s.mgt.ibiEn = true) (addressed : s.mgt.dynAddr.isSome = true)
    (pending : alertUrgent s ≠ 0xFF) :
    ibiRequest s = emit (.ibi (alertUrgent s)) (modMgt (fun g => { g with ibiReq := true }) s) :=
  if_pos (by simp [enabled, addressed, pending])

theorem ibiRequest_idle (quiet : alertUrgent s = 0xFF) : ibiRequest s = s := if_neg (by simp [quiet])

/-- ENEC on a disabled interrupt enables it, answers, and makes a request where an alert is pending. -/
theorem enec_enables (up : mgtUp s = true ∧ s.mgt.dynAddr.isSome = true) (disabled : s.mgt.ibiEn = false) :
    exec (.enec true) s =
      .next (ibiRequest (interruptOn s)) := by
  refine congrArg Host.Outcome.next ((i3cDo_runs up _).trans (if_pos ?_))
  simp [i3cAnswer, emit, disabled]

theorem disec_disables (up : mgtUp s = true ∧ s.mgt.dynAddr.isSome = true) :
    exec (.disec true) s =
      .next (modMgt (fun g => { g with ibiEn := false, ibiReq := false }) (i3cAnswer (some []) s)) :=
  congrArg Host.Outcome.next (i3cDo_runs up _)

/-- An answer and a change of the port touch nothing but the port and the outputs. -/
theorem modMgt_answer_only (f : MgtState → MgtState) (b : Option (List Byte)) (s : State) :
    Only (partMask [.mgt, .out]) s (modMgt f (i3cAnswer b s)) :=
  (modMgt_keeps (emit_keeps (keeps_refl _ s) (sub_of (sub_refl _) rfl) _) (sub_of (sub_refl _) rfl) f).only

end Target

/-! ## Request frames (R525, R526) -/

theorem ofLe_leBytes (n v : Nat) : ofLe (leBytes n v) = v % 256 ^ n := by
  induction n generalizing v with
  | zero => simp [leBytes, ofLe, Nat.mod_one]
  | succ n ih =>
    have split : v % 256 ^ (n + 1) = v % 256 + 256 * (v / 256 % 256 ^ n) := by rw [Nat.pow_succ', Nat.mod_mul]
    rw [leBytes, ofLe, ih, BitVec.toNat_ofNat, split]

/-- The bytes of a request that its CRC covers: the header and the payload. -/
def requestBody (op tag : Nat) (p : List Byte) : List Byte :=
  leBytes 1 op ++ leBytes 1 tag ++ leBytes 2 p.length ++ leBytes 4 0 ++ p

/-- A request frame with its CRC (Table 21-1). -/
def requestFrame (op tag : Nat) (p : List Byte) : List Byte :=
  requestBody op tag p ++ leBytes 4 (crc32c (requestBody op tag p)).toNat

section Frame
variable {op tag : Nat} {p : List Byte}

theorem requestBody_length (op tag : Nat) (p : List Byte) : (requestBody op tag p).length = 8 + p.length := by
  simp [requestBody, leBytes_length]
  omega

theorem requestFrame_length (op tag : Nat) (p : List Byte) : (requestFrame op tag p).length = 12 + p.length := by
  rw [requestFrame, List.length_append, requestBody_length, leBytes_length]
  omega

theorem requestFrame_body (op tag : Nat) (p : List Byte) :
    (requestFrame op tag p).take ((requestFrame op tag p).length - 4) = requestBody op tag p := by
  rw [requestFrame_length, requestFrame, List.take_left' (by rw [requestBody_length]; omega)]

theorem requestFrame_crc (op tag : Nat) (p : List Byte) :
    frameNum (requestFrame op tag p) ((requestFrame op tag p).length - 4) 4 = (crc32c (requestBody op tag p)).toNat := by
  have tail : (requestFrame op tag p).drop ((requestFrame op tag p).length - 4) =
      leBytes 4 (crc32c (requestBody op tag p)).toNat := by
    rw [requestFrame_length, requestFrame, List.drop_left' (by rw [requestBody_length]; omega)]
  rw [frameNum, tail, List.take_of_length_le (leBytes_length ..).le, ofLe_leBytes]
  exact Nat.mod_eq_of_lt (crc32c _).isLt

theorem requestFrame_op (tag : Nat) (p : List Byte) (byte : op < 256) : frameNum (requestFrame op tag p) 0 1 = op := by
  simpa [frameNum, requestFrame, requestBody, leBytes, ofLe] using byte

theorem requestFrame_tag (op : Nat) (p : List Byte) (byte : tag < 256) : frameNum (requestFrame op tag p) 1 1 = tag := by
  simpa [frameNum, requestFrame, requestBody, leBytes, ofLe] using byte

theorem requestFrame_len (op tag : Nat) (short : p.length ≤ 4080) :
    frameNum (requestFrame op tag p) 2 2 = p.length := by
  have number : frameNum (requestFrame op tag p) 2 2 = ofLe (leBytes 2 p.length) := rfl
  rw [number, ofLe_leBytes]
  exact Nat.mod_eq_of_lt (by omega)

theorem requestFrame_payload (op tag : Nat) (p : List Byte) :
    ((requestFrame op tag p).drop 8).take ((requestFrame op tag p).length - 12) = p := by
  have rest : (requestFrame op tag p).drop 8 = p ++ leBytes 4 (crc32c (requestBody op tag p)).toNat := rfl
  rw [rest, requestFrame_length, List.take_left' (by omega)]

variable {s : State} {uart : Bool}

/-- A face that holds a request or an unread response counts the frame as discarded. -/
theorem requestIn_discards (busy : (faceOf s uart).req ≠ none ∨ (faceOf s uart).resp ≠ none) (b : List Byte) :
    requestIn uart b s = modMgt (fun g => { g with discarded := satAdd 65535 g.discarded 1 }) s := by
  refine if_pos ?_
  rcases busy with busy | busy <;> simp [Option.isSome_iff_ne_none.mpr busy]

/-- A frame of a fitting length with another CRC is counted and refused with reason 0x10. -/
theorem requestIn_badCrc {b : List Byte} (free : (faceOf s uart).req = none) (read : (faceOf s uart).resp = none)
    (low : 12 ≤ b.length) (high : b.length ≤ 4096)
    (wrong : frameNum b (b.length - 4) 4 ≠ (crc32c (b.take (b.length - 4))).toNat) :
    requestIn uart b s = reply uart (frameNum b 0 1) (frameNum b 1 1) St.refusedState 0x10 []
      (modMgt (fun g => { g with crcFails := satAdd 255 g.crcFails 1 }) s) :=
  (if_neg (by simp [free, read])).trans ((if_neg (by omega)).trans (if_pos wrong))

/-- A frame whose CRC and LENGTH are right: its opcode is checked, then its length for the opcode, and it waits. -/
theorem requestIn_frame (free : (faceOf s uart).req = none) (read : (faceOf s uart).resp = none) (opByte : op < 256)
    (tagByte : tag < 256) (short : p.length ≤ 4080) :
    requestIn uart (requestFrame op tag p) s =
      if !mgtLegal op then reply uart op tag St.refusedState 0x12 [] s
      else if !mgtLength op p.length then reply uart op tag St.refusedState 0x11 [] s
      else modFace uart (fun f => { f with req := some { op := op, tag := tag, payload := p } }) s := by
  have len := requestFrame_length op tag p
  have payload := requestFrame_payload op tag p
  have tail : (requestFrame op tag p).length - 12 = p.length := by omega
  rw [tail] at payload
  refine (if_neg (by simp [free, read])).trans ((if_neg (by omega)).trans ((if_neg ?_).trans ((if_neg ?_).trans ?_)))
  · rw [requestFrame_crc, requestFrame_body]
    exact not_not_intro rfl
  · rw [requestFrame_len op tag short, tail]
    exact not_not_intro rfl
  · rw [tail, payload, requestFrame_op tag p opByte, requestFrame_tag op p tagByte]

theorem requestIn_waits (free : (faceOf s uart).req = none) (read : (faceOf s uart).resp = none) (opByte : op < 256)
    (tagByte : tag < 256) (short : p.length ≤ 4080) (legal : mgtLegal op = true) (fits : mgtLength op p.length = true) :
    requestIn uart (requestFrame op tag p) s =
      modFace uart (fun f => { f with req := some { op := op, tag := tag, payload := p } }) s := by
  rw [requestIn_frame free read opByte tagByte short, legal, fits]
  rfl

theorem privateRead_takes {b : List Byte} (up : mgtUp s = true ∧ s.mgt.dynAddr.isSome = true)
    (ready : s.mgt.i3c.resp = some b) :
    exec .privateRead s = .next (i3cAnswer (some b) (modFace false (fun f => { f with resp := none }) s)) := by
  refine congrArg Host.Outcome.next ((i3cDo_runs up _).trans ?_)
  simp only [ready]

theorem privateRead_naks (up : mgtUp s = true ∧ s.mgt.dynAddr.isSome = true) (none_ : s.mgt.i3c.resp = none) :
    exec .privateRead s = .next (i3cAnswer none s) := by
  refine congrArg Host.Outcome.next ((i3cDo_runs up _).trans ?_)
  simp only [none_]

/-! ## The UART (R523, R524) -/

/-- The receiver with its detection armed again. -/
def lineRead (s : State) : State := modMgt (fun g => { g with uartIdleWait := false }) s

/-- A good byte is taken once the line has read 1. -/
theorem uartByte_takes (up : mgtUp s = true) (b : Byte) :
    exec (.uartByte true b) s = .next (uartTake b (lineRead s)) :=
  congrArg Host.Outcome.next ((if_neg (by simp [up])).trans (if_neg (by decide)))

theorem uartByte_framing (up : mgtUp s = true) (b : Byte) :
    exec (.uartByte false b) s = .next (modMgt (fun g => { g with
      uartFraming := satAdd 255 g.uartFraming 1, uartIdleWait := true }) s) :=
  congrArg Host.Outcome.next ((if_neg (by simp [up])).trans (if_pos rfl))

/-- The receiver hunts for 0xA5. -/
theorem uartTake_hunts (empty : s.mgt.uartRx = []) (b : Byte) :
    uartTake b s = modMgt (fun g => { g with uartRx := if b = 0xA5 then [b] else [] }) s :=
  if_pos (by simp [empty])

theorem uartTake_marks (first : s.mgt.uartRx = [0xA5]) :
    uartTake 0xC3 s = modMgt (fun g => { g with uartRx := [0xA5, 0xC3] }) s := by
  refine (if_neg (by simp [first])).trans ((if_pos (by simp [first])).trans ?_)
  rw [first]
  rfl

/-- The byte that completes a frame hands the frame over and empties the receiver. -/
theorem uartTake_completes (short : p.length ≤ 4080)
    (gathered : s.mgt.uartRx = [0xA5, 0xC3] ++ (requestFrame op tag p).dropLast) :
    uartTake ((requestFrame op tag p).getLastD 0) s =
      requestIn true (requestFrame op tag p) (modMgt (fun g => { g with uartRx := [] }) s) := by
  have len := requestFrame_length op tag p
  have nonempty : requestFrame op tag p ≠ [] := List.ne_nil_of_length_pos (by omega)
  have whole : (s.mgt.uartRx ++ [(requestFrame op tag p).getLastD 0]).drop 2 = requestFrame op tag p := by
    rw [gathered, List.getLastD_eq_getLast?, List.getLast?_eq_some_getLast nonempty]
    exact List.dropLast_append_getLast nonempty
  have rx : s.mgt.uartRx.length = 13 + p.length := by
    rw [gathered, List.length_append, List.length_dropLast, len]
    simp
    omega
  have payload : frameNum ((s.mgt.uartRx ++ [(requestFrame op tag p).getLastD 0]).drop 2) 2 2 = p.length := by
    rw [whole, requestFrame_len op tag short]
  have all : ((s.mgt.uartRx ++ [(requestFrame op tag p).getLastD 0]).drop 2).length = 12 + p.length := by
    rw [whole, len]
  refine (if_neg (by omega)).trans ((if_neg (by omega)).trans ((if_neg (by omega)).trans
    ((if_neg (by omega)).trans ((if_neg (by omega)).trans ?_))))
  rw [whole]

end Frame

/-- Settles O39, command by command: `i3cDo_runs` and `i3cDo_ignores` say when the target acts, `enec_enables` and
`ibiRequest_requests` how an interrupt is requested, `requestIn_frame`, `requestIn_badCrc` and `requestIn_discards` what
becomes of a frame, and `uartTake_hunts`, `uartTake_marks` and `uartTake_completes` how the UART gathers one. The bytes of
GETSTATUS are free (log 42), the byte order of GETMWL and GETMRL is log 43 and the order of a frame's checks log 44. -/
theorem managementPort : Obligations.ManagementPort := by
  unfold Obligations.ManagementPort
  intro up answer frame
  have framed : ∀ {op tag p b}, frame op tag p b → b = requestFrame op tag p := fun good => good.1
  refine ⟨?addressed, ?kept, ?changed, ?unaddressed, ?enabled, ?quiet, ?disabled, ?repeated, ?noRetry, ?fixed, ?longer,
    ?shorter, ?waits, ?illegal, ?misfits, ?badCrc, ?discarded, ?read, ?unread, ?hunts, ?marks, ?completes, ?framing, ?gap,
    ?down⟩
  case addressed =>
    intro s a up free
    exact ⟨(setdasa_assigns a up free).trans (entdaa_assigns a up free).symm, entdaa_assigns a up free⟩
  case kept =>
    intro s a b has
    constructor
    · exact congrArg Host.Outcome.next (if_neg (by simp [Option.isNone_iff_eq_none, has]))
    · exact congrArg Host.Outcome.next (if_neg (by simp [Option.isNone_iff_eq_none, has]))
  case changed =>
    exact fun s a up => ⟨congrArg Host.Outcome.next (i3cDo_runs up _), congrArg Host.Outcome.next (i3cDo_runs up _)⟩
  case unaddressed =>
    intro s v down
    have ignores (f) : Host.Outcome.next (i3cDo f s) = (.next s : Host.Outcome State Fault Refusal) :=
      congrArg Host.Outcome.next (i3cDo_ignores down f)
    exact ⟨ignores _, ignores _, ignores _, ignores _, ignores _, ignores _⟩
  case enabled =>
    intro s up disabled pending
    refine runs_of (enec_enables up disabled) ?_
    rw [ibiRequest_requests (s := interruptOn s) rfl up.2 pending]
    exact ⟨rfl, rfl⟩
  case quiet =>
    intro s up disabled quiet
    refine runs_of (enec_enables up disabled) ?_
    rw [ibiRequest_idle (s := interruptOn s) quiet]
    exact ⟨rfl, modMgt_answer_only ..⟩
  case disabled => exact fun s up => runs_of (disec_disables up) ⟨rfl, modMgt_answer_only ..⟩
  case repeated =>
    intro c s up enabled pending which
    have requests := ibiRequest_requests enabled up.2 pending
    obtain rfl | ⟨rfl, stands⟩ := which
    · exact runs_of (congrArg Host.Outcome.next ((i3cDo_runs up _).trans requests)) ⟨rfl, rfl⟩
    · exact runs_of (congrArg Host.Outcome.next ((i3cDo_runs up _).trans ((if_pos stands).trans requests))) ⟨rfl, rfl⟩
  case noRetry =>
    intro s none_
    refine congrArg Host.Outcome.next ?_
    rw [i3cDo]
    simp [none_]
  case fixed =>
    intro s up
    have answers (f) : Host.Outcome.next (i3cDo f s) = (.next (f s) : Host.Outcome State Fault Refusal) :=
      congrArg Host.Outcome.next (i3cDo_runs up f)
    refine ⟨answers _, answers _, answers _, answers _, answers _, (leBytes 6 (provisionalId s)).reverse, ?_, answers _⟩
    rw [List.length_reverse, leBytes_length]
  case longer =>
    intro s v up long
    have answer : (if v < 4096 then none else some []) = (some [] : Option (List Byte)) := if_neg (Nat.not_lt.mpr long)
    have runs := i3cDo_runs up (i3cAnswer (if v < 4096 then none else some []))
    exact ⟨congrArg Host.Outcome.next (runs.trans (congrArg (i3cAnswer · s) answer)),
      congrArg Host.Outcome.next (runs.trans (congrArg (i3cAnswer · s) answer))⟩
  case shorter =>
    intro s v up short
    have answer : (if v < 4096 then none else some []) = (none : Option (List Byte)) := if_pos short
    have runs := i3cDo_runs up (i3cAnswer (if v < 4096 then none else some []))
    exact ⟨congrArg Host.Outcome.next (runs.trans (congrArg (i3cAnswer · s) answer)),
      congrArg Host.Outcome.next (runs.trans (congrArg (i3cAnswer · s) answer))⟩
  case waits =>
    intro s b op tag p up good free read legal fits
    obtain rfl := framed good
    obtain ⟨-, opByte, tagByte, short⟩ := good
    refine runs_of (congrArg Host.Outcome.next ((i3cDo_runs up _).trans
      (requestIn_waits (uart := false) free read opByte tagByte short legal fits))) ⟨rfl, modMgt_only ..⟩
  case illegal =>
    intro s b op tag p up good free read illegal
    obtain rfl := framed good
    obtain ⟨-, opByte, tagByte, short⟩ := good
    refine congrArg Host.Outcome.next ((i3cDo_runs up _).trans
      ((requestIn_frame (uart := false) free read opByte tagByte short).trans ?_))
    exact if_pos (by simp [illegal])
  case misfits =>
    intro s b op tag p up good free read legal misfits
    obtain rfl := framed good
    obtain ⟨-, opByte, tagByte, short⟩ := good
    refine congrArg Host.Outcome.next ((i3cDo_runs up _).trans
      ((requestIn_frame (uart := false) free read opByte tagByte short).trans ?_))
    exact (if_neg (by simp [legal])).trans (if_pos (by simp [misfits]))
  case badCrc =>
    intro s b up free read low high wrong
    exact runs_of
      (congrArg Host.Outcome.next ((i3cDo_runs up _).trans (requestIn_badCrc (uart := false) free read low high wrong)))
      ⟨rfl, rfl, rfl⟩
  case discarded =>
    intro s b up busy
    exact runs_of (congrArg Host.Outcome.next ((i3cDo_runs up _).trans (requestIn_discards (uart := false) busy b)))
      ⟨rfl, modMgt_only ..⟩
  case read => exact fun s b up ready => runs_of (privateRead_takes up ready) ⟨rfl, rfl⟩
  case unread => exact fun s up none_ => privateRead_naks up none_
  case hunts =>
    intro s b up empty
    refine runs_of (uartByte_takes up b) ?_
    rw [uartTake_hunts (s := lineRead s) empty]
    exact ⟨rfl, only_trans (modMgt_only ..) (modMgt_only ..)⟩
  case marks =>
    intro s up first
    refine runs_of (uartByte_takes up _) ?_
    rw [uartTake_marks (s := lineRead s) first]
    rfl
  case completes =>
    intro s b op tag p up good gathered free read legal fits
    obtain rfl := framed good
    obtain ⟨-, opByte, tagByte, short⟩ := good
    refine runs_of (uartByte_takes up _) ?_
    rw [uartTake_completes (s := lineRead s) short gathered,
      requestIn_waits (s := modMgt (fun g => { g with uartRx := [] }) (lineRead s)) (uart := true) free read opByte tagByte
        short legal fits]
    exact ⟨rfl, rfl⟩
  case framing => exact fun s b up => runs_of (uartByte_framing up b) ⟨rfl, modMgt_only ..⟩
  case gap => exact fun s up => runs_of (congrArg Host.Outcome.next (if_pos up)) ⟨rfl, modMgt_only ..⟩
  case down =>
    intro s stop b down
    exact ⟨congrArg Host.Outcome.next (if_pos (by simp [down])), congrArg Host.Outcome.next (if_neg (by simp [down]))⟩

end Sys2Proof.Proofs
end

section
/-!
The management commands: status, records, caps, resets, life cycle and firmware (chapter 21, R433, R526 to R530).
-/
namespace Sys2Proof.Proofs
open Sys2Proof.Machine Sys2Proof.Laws

/-! ## Serving a command (R526, R528) -/

/-- A face holds a request of an opcode that the controller serves in the state of the module. -/
def Serves (s : State) (u : Bool) (op : Nat) (r : MgtReq) : Prop :=
  (faceOf s u).req = some r ∧ mgtUp s = true ∧ r.op = op ∧ s.mgt.running = none ∧ mgtServed op (mgtArg r) (mgtCol s) = true

section Serving
variable {s : State} {u : Bool} {r : MgtReq} {op : Nat}

/-- A command that is served is carried out. -/
theorem mgtServe_serves (h : Serves s u op r) (f : MgtReq → State → State) : mgtServe u op f s = .next (f r s) := by
  obtain ⟨held, up, rfl, none_, served⟩ := h
  refine congrArg Host.Outcome.next ?_
  simp only [held]
  exact (if_neg (by simp [up, none_])).trans ((if_neg (by simp [none_])).trans (if_neg (by simp [served])))

/-- A command that is no status command: told to retry while the other face's runs, refused where it is not served, and
left alone while it runs itself. -/
theorem mgtServe_holds (held : (faceOf s u).req = some r) (up : mgtUp s = true) (same : r.op = op) (command : 3 < op)
    {c : Instr} {f : MgtReq → State → State} (is : exec c s = mgtServe u op f s) :
    (s.mgt.running = some (!u) → exec c s = .next (reply u op r.tag 0x30 0x14 [] s)) ∧
    (s.mgt.running = none → mgtServed op (mgtArg r) (mgtCol s) = false → exec c s =
      .next (reply u op r.tag (if mgtCol s = .start then 0x30 else 0x11) 0x13 [] s)) ∧
    (s.mgt.running = some u → exec c s = .next s) := by
  subst same
  rw [is]
  refine ⟨fun other => congrArg Host.Outcome.next ?_, fun none_ unserved => congrArg Host.Outcome.next ?_,
    fun own => congrArg Host.Outcome.next ?_⟩ <;> simp only [held]
  · exact (if_neg (by simp [up, other])).trans (if_pos ⟨command, by simp [other]⟩)
  · exact (if_neg (by simp [up, none_])).trans ((if_neg (by simp [none_])).trans (if_pos (by simp [unserved])))
  · exact if_pos (by simp [own])

/-- An answer frees the face of its request. -/
theorem reply_frees (u : Bool) (op tag status reason : Nat) (b : List Byte) (s : State) :
    (faceOf (reply u op tag status reason b s) u).req = none := by
  cases u <;> rfl

/-- The command's field that a column asks about. -/
theorem mgtArg_record (record : r.op = 0x12) : mgtArg r = min 2 (frameNum r.payload 0 1) := if_pos record

/-! ## Payloads -/

/-- The payload of IDENTITY. -/
def identityBytes (s : State) : List Byte :=
  leBytes 8 Config.serial.toNat ++ leBytes 3 (nodeId s) ++ leBytes 1 s.mod.strapRole
    ++ leBytes 4 (Config.featureWord s.nv.otp.cx) ++ leBytes 1 (lcNow s) ++ leBytes 2 s.svc.version
    ++ leBytes 1 (bit s.svc.active) ++ leBytes 1 (s.mgt.dynAddr.getD 0)

theorem identity_answers (h : Serves s u 0x01 r) : exec (.identity u) s = .next (mgtDone u r (identityBytes s) s) :=
  (execIdentity.eq_def u s).trans (mgtServe_serves h _)

theorem identityBytes_length (s : State) : (identityBytes s).length = 21 := by
  simp [identityBytes, leBytes_length]

theorem alertBytes_length (s : State) : (alertBytes s).length = 30 := by
  rw [alertBytes, length_flatten_const (n := 3) fun _ => rfl]
  rfl

/-- The payload of STATUS. -/
def statusBytes (s : State) : List Byte :=
  leBytes 4 (readMsStatus s) ++ leBytes 4 (readFltStatus s) ++ leBytes 4 (readSecStatus s)
    ++ leBytes 4 (readOwlStatus s) ++ leBytes 4 (readPwrStatus s) ++ leBytes 2 s.mod.hottest ++ leBytes 2 s.mod.inlet
    ++ leBytes 2 s.mod.outlet ++ alertBytes s

theorem status_answers (h : Serves s u 0x02 r) : exec (.status u) s = .next (mgtDone u r (statusBytes s) s) :=
  (execStatus.eq_def u s).trans (mgtServe_serves h _)

theorem statusBytes_length (s : State) : (statusBytes s).length = 56 := by
  simp only [statusBytes, List.length_append, leBytes_length, alertBytes_length]

/-- The nodes that DOMAIN_VIEW lists. -/
def viewNodes (r : MgtReq) (s : State) : List Nat :=
  ((domainNodes s).drop (frameNum r.payload 0 2)).take (min 255 (frameNum r.payload 2 2))

/-- The payload of DOMAIN_VIEW. -/
def domainBytes (r : MgtReq) (s : State) : List Byte :=
  ((numbered (viewNodes r s)).map fun e => viewBytes s e.2 e.1).flatten

theorem domainView_answers (h : Serves s u 0x11 r) (active : s.wmk.role = .active) :
    exec (.domainView u) s =
      .next (mgtDone u r (domainBytes r s) { s with draws := s.draws + (viewNodes r s).length }) :=
  ((execDomainView.eq_def u s).trans (mgtServe_serves h _)).trans
    (congrArg Host.Outcome.next (if_neg (not_not_intro active)))

theorem domainView_refuses (h : Serves s u 0x11 r) (standby : s.wmk.role ≠ .active) :
    exec (.domainView u) s = .next (reply u r.op r.tag St.refusedState 0 [] s) :=
  ((execDomainView.eq_def u s).trans (mgtServe_serves h _)).trans (congrArg Host.Outcome.next (if_pos standby))

theorem numbered_length {α : Type} (l : List α) : (numbered l).length = l.length := by
  simp [numbered]

theorem domainBytes_length (r : MgtReq) (s : State) : (domainBytes r s).length = 16 * (viewNodes r s).length := by
  rw [domainBytes, length_flatten_const (n := 16) fun _ => rfl, numbered_length]

/-- Whole records never overrun their room. -/
theorem fitRecords_fits (l : List (List Byte)) (room : Nat) : (fitRecords l room).length ≤ room := by
  induction l generalizing room with
  | nil => exact Nat.zero_le _
  | cons b l ih =>
    rw [fitRecords]
    split
    case isTrue fits =>
      have rest := ih (room - b.length)
      rw [List.length_append]
      omega
    case isFalse => exact Nat.zero_le _

/-- What RECORD_READ of the fault ring or the logbook answers. -/
theorem recordRead_answers (h : Serves s u 0x12 r) {recs : List (List Byte)}
    (kind : mgtArg r = 0 ∧ recs = (s.flt.ring.reverse.filter fun x => frameNum r.payload 1 8 ≤ x.seq).map fltBytes ∨
      mgtArg r = 1 ∧ recs = ((logAll s).filter fun x => frameNum r.payload 1 8 ≤ x.seq).map logRecBytes) :
    exec (.recordRead u) s = .next (mgtDone u r (fitRecords recs 4080) s) := by
  refine ((execRecordRead.eq_def u s).trans (mgtServe_serves h _)).trans
    (congrArg (fun l => Host.Outcome.next (mgtDone u r (fitRecords l 4080) s)) ?_)
  obtain ⟨ring, rfl⟩ | ⟨logbook, rfl⟩ := kind
  · exact if_pos ring
  · exact (if_neg (by omega)).trans (if_pos logbook)

/-- The payload of LEDGER: the totals of a price code, then the latest intervals, oldest first. -/
def ledgerBytes (r : MgtReq) (s : State) : List Byte :=
  ((List.range 16).map fun c => leBytes 8 (tgetD s.led.totals (frameNum r.payload 0 2 * 16 + c) 0)).flatten
    ++ ((s.led.ring.take (min 15 (frameNum r.payload 2 2))).reverse.map ivBytes).flatten

theorem ledger_answers (h : Serves s u 0x20 r) (legal : frameNum r.payload 0 2 ≤ 514) :
    exec (.ledger u) s = .next (mgtDone u r (ledgerBytes r s) s) :=
  ((execLedger.eq_def u s).trans (mgtServe_serves h _)).trans (congrArg Host.Outcome.next (if_neg (Nat.not_lt.mpr legal)))

theorem ledgerBytes_length (r : MgtReq) (s : State) :
    (ledgerBytes r s).length = 128 + 64 * min (min 15 (frameNum r.payload 2 2)) s.led.ring.length := by
  rw [ledgerBytes, List.length_append, length_flatten_const (n := 8) fun _ => leBytes_length .., List.length_range,
    length_flatten_const ivBytes_length, List.length_reverse, List.length_take]

theorem ledger_refuses (h : Serves s u 0x20 r) (illegal : 514 < frameNum r.payload 0 2) :
    exec (.ledger u) s = .next (mgtHandle u r s) :=
  ((execLedger.eq_def u s).trans (mgtServe_serves h _)).trans (congrArg Host.Outcome.next (if_pos illegal))

/-- A port's 16 bytes in CABLING. -/
def cablingPort (s : State) (p : Nat) : List Byte :=
  let x := portOf s p
  let q := match x.peer with
    | some a => (a.node, a.port)
    | none => (0, 0)
  leBytes 4 (readPortState x) ++ leBytes 3 q.1 ++ leBytes 1 q.2 ++ leBytes 1 (planKindCode x.plan.kind)
    ++ leBytes 1 x.plan.port ++ leBytes 3 x.plan.node ++ leBytes 3 0

theorem cabling_answers (h : Serves s u 0x50 r) :
    exec (.cabling u) s = .next (mgtDone u r (((List.range 23).map (cablingPort s)).flatten) s) :=
  ((execCabling.eq_def u s).trans (mgtServe_serves h _)).trans rfl

theorem cabling_length (s : State) : (((List.range 23).map (cablingPort s)).flatten).length = 368 := by
  rw [length_flatten_const (n := 16) fun _ => rfl, List.length_range]

/-! ## Alerts, caps, resets, life cycle and the tray secret -/

/-- ALERT_ACK of the count an event alert stands at clears it. -/
theorem alertAck_clears (h : Serves s u 0x03 r) (event : alertEvent (nearestAlert (frameNum r.payload 0 1)) = true)
    (pending : (alertOf s (nearestAlert (frameNum r.payload 0 1))).pending = true)
    (count : (alertOf s (nearestAlert (frameNum r.payload 0 1))).count = frameNum r.payload 1 2) :
    exec (.alertAck u) s = .next (mgtDone u r (leBytes 2 0) (modMgt (fun g => { g with
      alerts := tput g.alerts (nearestAlert (frameNum r.payload 0 1)) { pending := false, count := 0 } }) s)) := by
  refine ((execAlertAck.eq_def u s).trans (mgtServe_serves h _)).trans (congrArg Host.Outcome.next ?_)
  dsimp only
  rw [if_pos (by simp [event, pending, count])]
  refine congrArg (fun n => mgtDone u r (leBytes 2 n) _) ?_
  simp only [alertOf, modMgt, tgetD, tget_tput_same, Option.getD]

/-- ALERT_ACK of a condition alert or of another count only answers the count. -/
theorem alertAck_keeps (h : Serves s u 0x03 r)
    (differs : alertEvent (nearestAlert (frameNum r.payload 0 1)) = false ∨
      (alertOf s (nearestAlert (frameNum r.payload 0 1))).count ≠ frameNum r.payload 1 2) :
    exec (.alertAck u) s =
      .next (mgtDone u r (leBytes 2 (alertOf s (nearestAlert (frameNum r.payload 0 1))).count) s) := by
  refine ((execAlertAck.eq_def u s).trans (mgtServe_serves h _)).trans (congrArg Host.Outcome.next ?_)
  dsimp only
  rw [if_neg (by rcases differs with differs | differs <;> simp [differs])]

/-- The tray cap bounds the effective cap. -/
theorem effectiveCap_le_trayCap (s : State) : effectiveCap s ≤ if s.mgt.trayCap = 0 then 2400 else s.mgt.trayCap :=
  (Nat.min_le_right ..).trans ((Nat.min_le_right ..).trans (Nat.min_le_right ..))

theorem trayCap_sets (h : Serves s u 0x21 r) :
    exec (.trayCap u) s = .next (mgtDone u r (leBytes 2 (clampZeroOr 600 2400 (frameNum r.payload 0 2)))
      (noteCap (modMgt (fun g => { g with trayCap := clampZeroOr 600 2400 (frameNum r.payload 0 2) }) s))) :=
  (execTrayCap.eq_def u s).trans (mgtServe_serves h _)

/-- RESET of a unit that may be reset answers DONE and resets it. -/
theorem reset_resets (h : Serves s u 0x30 r) {level unit : Nat} (lvl : mgtArg r = level)
    (which : unit = if level = 2 then frameNum r.payload 1 4 % 4 else frameNum r.payload 1 4)
    (free : resetStatus s level (frameNum r.payload 1 4) = 0) :
    exec (.reset u) s = .next (commandReset level unit (reply u r.op r.tag 0 0 [] s)) := by
  subst lvl which
  refine ((execReset.eq_def u s).trans (mgtServe_serves h _)).trans (congrArg Host.Outcome.next ?_)
  dsimp only
  rw [free]
  exact if_pos rfl

/-- RESET of any other unit answers why it is not reset. -/
theorem reset_refuses (h : Serves s u 0x30 r) {st : Nat} (status : resetStatus s (mgtArg r) (frameNum r.payload 1 4) = st)
    (refused : st ≠ 0) : exec (.reset u) s = .next (reply u r.op r.tag st 0 [] s) := by
  subst status
  exact ((execReset.eq_def u s).trans (mgtServe_serves h _)).trans (congrArg Host.Outcome.next (if_neg refused))

/-- A module that is idle takes the life-cycle command. -/
theorem lifecycle_submits (h : Serves s u 0x40 r) (idle : s.lcs.busy = none) :
    exec (.lifecycle u) s = .next (lcSubmit
      { mgt := true, target := frameNum r.payload 0 1, token := frameNum r.payload 1 32 }
      (modMgt (fun g => { g with running := some u }) s)) :=
  ((execLifecycle.eq_def u s).trans (mgtServe_serves h _)).trans (congrArg Host.Outcome.next (if_neg (by simp [idle])))

theorem lifecycle_retries (h : Serves s u 0x40 r) (busy : s.lcs.busy.isSome = true) :
    exec (.lifecycle u) s = .next (reply u r.op r.tag St.retryLater 5 (leBytes 4 (lcsWord s)) s) :=
  ((execLifecycle.eq_def u s).trans (mgtServe_serves h _)).trans (congrArg Host.Outcome.next (if_pos busy))

theorem lcSubmit_only (c : LcsCommand) (f : MgtState → MgtState) (s : State) :
    Only (partMask [.mgt, .lcs]) s (lcSubmit c (modMgt f s)) :=
  (lcSubmit_keeps (modMgt_keeps (keeps_refl _ s) (sub_of (sub_refl _) rfl) f) (sub_of (sub_refl _) rfl) c).only

theorem challenge_unprovisioned (h : Serves s u 0x60 r) (none_ : s.nv.otp.tray = none) :
    exec (.challenge u) s = .next (mgtDone u r (leBytes 48 0) s) := by
  refine ((execChallenge.eq_def u s).trans (mgtServe_serves h _)).trans ?_
  simp only [challengeAnswer, none_]

theorem trayProvision_stores (h : Serves s u 0x61 r) (none_ : s.nv.otp.tray = none) :
    exec (.trayProvision u) s =
      .next (mgtDone u r [] (modOtp (fun o => { o with tray := some (frameNum r.payload 0 48) }) s)) :=
  ((execTrayProvision.eq_def u s).trans (mgtServe_serves h _)).trans (congrArg Host.Outcome.next (if_neg (by simp [none_])))

theorem trayProvision_refuses (h : Serves s u 0x61 r) (provisioned : s.nv.otp.tray.isSome = true) :
    exec (.trayProvision u) s = .next (mgtCheck u r s) :=
  ((execTrayProvision.eq_def u s).trans (mgtServe_serves h _)).trans (congrArg Host.Outcome.next (if_pos provisioned))

/-- An answer leaves what survives power loss. -/
theorem reply_nv (u : Bool) (op tag status reason : Nat) (b : List Byte) (s : State) :
    (reply u op tag status reason b s).nv = s.nv := by
  cases u <;> rfl

theorem mgtDone_nv (u : Bool) (r : MgtReq) (b : List Byte) (s : State) : (mgtDone u r b s).nv = s.nv := reply_nv ..

/-- An answer leaves the caps and the clocks. -/
theorem mgtDone_caps (u : Bool) (r : MgtReq) (b : List Byte) (s : State) :
    (mgtDone u r b s).mgt.trayCap = s.mgt.trayCap ∧ (mgtDone u r b s).pwr = s.pwr := by
  cases u <;> exact ⟨rfl, rfl⟩

/-! ## Firmware (R530) -/

theorem fwCopy_fwPut_same (f : FwStore) (c : Nat) (x : FwCopy) : fwCopy (fwPut f c x) c = x := by
  by_cases a : c = 0 <;> simp [fwCopy, fwPut, a]

theorem fwCopy_fwPut_other (f : FwStore) {c : Nat} (le : c ≤ 1) (x : FwCopy) :
    fwCopy (fwPut f c x) (1 - c) = fwCopy f (1 - c) := by
  obtain rfl | rfl : c = 0 ∨ c = 1 := by omega
  · rfl
  · rfl

/-- The checks of a copy look at the floor and the revocations of the region, and not at its copies. -/
theorem fwCheck_fwPut (f : FwStore) (c : Nat) (x y : FwCopy) : fwCheck (fwPut f c x) y = fwCheck f y := by
  by_cases a : c = 0 <;> simp only [fwPut, a] <;> rfl

/-- The copy a FW_WRITE at offset 0 leaves: a new pass, failing until FW_COMMIT. -/
def fwFresh (data : List Byte) : FwCopy :=
  { image := data, failing := true, short := decide (data.length % 16 ≠ 0), passed := (false, false) }

section Write
variable {c : Nat}

theorem fwWrite_starts (h : Serves s u 0x70 r) (copy : frameNum r.payload 0 1 = c) (le : c ≤ 1)
    (spare : ¬(mgtCol s = .srv ∧ c = bit s.svc.active)) (start : frameNum r.payload 1 4 = 0) :
    exec (.fwWrite u) s =
      .next (mgtDone u r [] (modFw (fun f => fwPut f c (fwFresh (r.payload.drop 5))) s)) := by
  subst copy
  exact ((execFwWrite.eq_def u s).trans (mgtServe_serves h _)).trans (congrArg Host.Outcome.next
    ((if_neg (Nat.not_lt.mpr le)).trans ((if_neg spare).trans (if_pos start))))

theorem fwWrite_gap (h : Serves s u 0x70 r) (copy : frameNum r.payload 0 1 = c) (le : c ≤ 1)
    (spare : ¬(mgtCol s = .srv ∧ c = bit s.svc.active)) (later : frameNum r.payload 1 4 ≠ 0)
    (gap : frameNum r.payload 1 4 ≠ (fwCopy s.nv.fw c).image.length) :
    exec (.fwWrite u) s = .next (mgtCheck u r s) := by
  subst copy
  exact ((execFwWrite.eq_def u s).trans (mgtServe_serves h _)).trans (congrArg Host.Outcome.next
    ((if_neg (Nat.not_lt.mpr le)).trans ((if_neg spare).trans ((if_neg later).trans (if_pos (.inl gap))))))

theorem fwWrite_active (h : Serves s u 0x70 r) (copy : frameNum r.payload 0 1 = c) (le : c ≤ 1)
    (runs : mgtCol s = .srv ∧ c = bit s.svc.active) :
    exec (.fwWrite u) s = .next (reply u r.op r.tag St.refusedState 0x13 [] s) := by
  subst copy
  exact ((execFwWrite.eq_def u s).trans (mgtServe_serves h _)).trans
    (congrArg Host.Outcome.next ((if_neg (Nat.not_lt.mpr le)).trans (if_pos runs)))

/-- A copy with the verdict of its digest and signature. -/
def commitJudged (s : State) (c : Nat) (a : FwVerdict) : FwCopy :=
  { fwCopy s.nv.fw c with passed := (a.digestOk, a.sigOk) }

/-- A judged copy that fails exactly where a check finds something. -/
def commitMarked (s : State) (c : Nat) (a : FwVerdict) : FwCopy :=
  { commitJudged s c a with failing := decide (fwCheck s.nv.fw (commitJudged s c a) ≠ 0) }

/-- FW_COMMIT marks the copy, whatever it answers and whatever status it leaves. -/
theorem fwCommit_marks (h : Serves s u 0x71 r) (a : FwVerdict) (copy : frameNum r.payload 0 1 = c) (le : c ≤ 1) :
    Runs (.fwCommit u a) s fun t => t.nv.fw = fwPut s.nv.fw c (commitMarked s c a) := by
  subst copy
  exact runs_of (((execFwCommit.eq_def u a s).trans (mgtServe_serves h _)).trans
    (congrArg Host.Outcome.next (if_neg (Nat.not_lt.mpr le))))
    (congrArg NvState.fw (mgtDone_nv ..))

/-- A marked copy passes exactly when its checks find nothing. -/
theorem commitMarked_good (s : State) (c : Nat) (a : FwVerdict) :
    fwGood (fwPut s.nv.fw c (commitMarked s c a)) (commitMarked s c a) = true ↔ fwCheck s.nv.fw (commitJudged s c a) = 0 := by
  have same : fwCheck s.nv.fw (commitMarked s c a) = fwCheck s.nv.fw (commitJudged s c a) := rfl
  simp only [fwGood, fwCheck_fwPut, same]
  simp [commitMarked]

end Write

/-- The floor may rise to a version: it is above the present one and both copies pass with it. -/
def MayRise (f : FwStore) (n : Nat) : Prop :=
  fwGood f f.a = true ∧ fwGood f f.b = true ∧ n ≤ fwVersion f.a ∧ n ≤ fwVersion f.b

theorem fwFloor_rises {n : Nat} (h : Serves s u 0x72 r) (floor : n = clampTo 1 64 (frameNum r.payload 0 1))
    (above : s.nv.fw.floor < n) (may : MayRise s.nv.fw n) :
    exec (.fwFloor u) s = .next (mgtDone u r (leBytes 1 n) (modFw (fun f => { f with floor := n }) s)) := by
  subst floor
  obtain ⟨a, b, va, vb⟩ := may
  exact ((execFwFloor.eq_def u s).trans (mgtServe_serves h _)).trans (congrArg Host.Outcome.next
    ((if_neg (Nat.not_le.mpr above)).trans (if_pos (by simp [a, b, va, vb]))))

theorem fwFloor_refuses {n : Nat} (h : Serves s u 0x72 r) (floor : n = clampTo 1 64 (frameNum r.payload 0 1))
    (above : s.nv.fw.floor < n)
    (fails : fwGood s.nv.fw s.nv.fw.a = false ∨ fwGood s.nv.fw s.nv.fw.b = false ∨ fwVersion s.nv.fw.a < n ∨
      fwVersion s.nv.fw.b < n) :
    exec (.fwFloor u) s = .next (mgtCheck u r s) := by
  subst floor
  refine ((execFwFloor.eq_def u s).trans (mgtServe_serves h _)).trans (congrArg Host.Outcome.next
    ((if_neg (Nat.not_le.mpr above)).trans (if_neg ?_)))
  simp only [Bool.and_eq_true, decide_eq_true_eq]
  rintro ⟨⟨⟨a, b⟩, va⟩, vb⟩
  rcases fails with fails | fails | fails | fails
  · simp [fails] at a
  · simp [fails] at b
  · omega
  · omega

theorem fwRevoke_revokes {k : Nat} (h : Serves s u 0x73 r) (key : frameNum r.payload 0 1 = k) (le : k ≤ 1)
    (a : fwGood s.nv.fw s.nv.fw.a = true) (b : fwGood s.nv.fw s.nv.fw.b = true) (ka : fwKeyIndex s.nv.fw.a = 1 - k)
    (kb : fwKeyIndex s.nv.fw.b = 1 - k) :
    exec (.fwRevoke u) s = .next (mgtDone u r [] (modFw (fun f => { f with revoked := setBit f.revoked k }) s)) := by
  subst key
  exact ((execFwRevoke.eq_def u s).trans (mgtServe_serves h _)).trans (congrArg Host.Outcome.next
    ((if_neg (Nat.not_lt.mpr le)).trans (if_pos (by simp [a, b, ka, kb]))))

/-- A key index that copy A is signed under is not revoked. -/
theorem fwRevoke_refuses {k : Nat} (h : Serves s u 0x73 r) (key : frameNum r.payload 0 1 = k) (le : k ≤ 1)
    (used : fwKeyIndex s.nv.fw.a = k) : exec (.fwRevoke u) s = .next (mgtCheck u r s) := by
  subst key
  refine ((execFwRevoke.eq_def u s).trans (mgtServe_serves h _)).trans
    (congrArg Host.Outcome.next ((if_neg (Nat.not_lt.mpr le)).trans (if_neg ?_)))
  simp only [Bool.and_eq_true, decide_eq_true_eq, used]
  rintro ⟨⟨-, other⟩, -⟩
  omega

end Serving

/-- Settles O40, command by command from `mgtServe_serves` (a served command is carried out) and `mgtServe_holds` (one
that is not). The bytes of HEALTH and DOMAIN_VIEW that the spec leaves open are free (log 42); the nearest alert code,
FW_WRITE's reason 0x13 and FW_COMMIT's answer are the model's choice (log 45). -/
theorem managementCommands : Obligations.ManagementCommands := by
  unfold Obligations.ManagementCommands
  intro serves done arg
  refine ⟨?identity, ?status, ?acked, ?unacked, ?health, ?standby, ?view, ?ring, ?logbook, fitRecords_fits, ?noPrice, ?ledger,
    ?cabling, ?cap, ?engine, ?partition, ?chip, ?submitted, ?busy, ?challenge, ?provisioned, ?already, ?fresh, ?gap, ?active,
    ?commit, ?raised, ?notRaised, ?revoked, ?notRevoked, ?held, fun s u r => reply_frees ..⟩
  case identity => exact fun s u r h => ⟨_, identityBytes_length s, rfl, identity_answers h⟩
  case status => exact fun s u r h => ⟨_, statusBytes_length s, status_answers h⟩
  case acked =>
    rintro s u r c h rfl event pending count
    exact alertAck_clears h event pending count
  case unacked =>
    rintro s u r c h rfl differs
    exact alertAck_keeps h differs
  case health => exact fun s u r h => (execHealth.eq_def u s).trans (mgtServe_serves h _)
  case standby => exact fun s u r h standby => domainView_refuses h standby
  case view => exact fun s u r h active => ⟨_, _, domainBytes_length r s, domainView_answers h active⟩
  case ring =>
    intro s u r h kind
    exact recordRead_answers h (.inl ⟨(mgtArg_record h.2.2.1).trans (congrArg (min 2) kind), rfl⟩)
  case logbook =>
    intro s u r h kind
    exact recordRead_answers h (.inr ⟨(mgtArg_record h.2.2.1).trans (congrArg (min 2) kind), rfl⟩)
  case noPrice => exact fun s u r h illegal => ledger_refuses h illegal
  case ledger => exact fun s u r h legal => ⟨_, ledgerBytes_length r s, ledger_answers h legal⟩
  case cabling => exact fun s u r h => ⟨_, cabling_length s, cabling_answers h⟩
  case cap =>
    intro s u r h cap
    refine runs_of (trayCap_sets h) ?_
    obtain ⟨kept, pwr⟩ := mgtDone_caps u r (leBytes 2 cap)
      (noteCap (modMgt (fun g => { g with trayCap := cap }) s))
    have set : _ = cap := kept
    refine ⟨set, pwr, (effectiveCap_le_trayCap _).trans_eq ?_⟩
    rw [set]
  case engine =>
    intro s u r h level free
    refine reset_resets h level rfl ?_
    exact free
  case partition => exact fun s u r h level refused => reset_refuses h (congrArg (resetStatus s · _) level) refused
  case chip => exact fun s u r h level => reset_resets h level rfl rfl
  case submitted => exact fun s u r h idle => runs_of (lifecycle_submits h idle) ⟨rfl, rfl, lcSubmit_only ..⟩
  case busy => exact fun s u r h busy => lifecycle_retries h busy
  case challenge => exact fun s u r h none_ => challenge_unprovisioned h none_
  case provisioned => exact fun s u r h none_ => runs_of (trayProvision_stores h none_) (congrArg NvState.otp (mgtDone_nv ..))
  case already => exact fun s u r h provisioned => trayProvision_refuses h provisioned
  case fresh =>
    intro s u r c h copy le spare start
    refine runs_of (fwWrite_starts h copy le spare start) ?_
    rw [mgtDone_nv]
    exact ⟨fwCopy_fwPut_same .., fwCopy_fwPut_other _ le _⟩
  case gap => exact fun s u r c h copy le spare later gap => fwWrite_gap h copy le spare later gap
  case active => exact fun s u r c h copy le srv which => fwWrite_active h copy le ⟨srv, which⟩
  case commit =>
    intro s u r a c h copy le
    obtain ⟨t, next, fw⟩ := fwCommit_marks h a copy le
    refine runs_of next ?_
    rw [fw, fwCopy_fwPut_same]
    exact ⟨rfl, commitMarked_good s c a⟩
  case raised =>
    intro s u r n h floor above a b va vb
    exact runs_of (fwFloor_rises h floor above ⟨a, b, va, vb⟩) (congrArg NvState.fw (mgtDone_nv ..))
  case notRaised => exact fun s u r n h floor above fails => fwFloor_refuses h floor above fails
  case revoked =>
    intro s u r k h key le a b ka kb
    refine runs_of (fwRevoke_revokes h key le a b ka kb) ?_
    rw [mgtDone_nv]
    exact ⟨testBit_setBit_self .., rfl, rfl⟩
  case notRevoked => exact fun s u r k h key le used => fwRevoke_refuses h key le used
  case held =>
    rintro c s u r op which held up same
    obtain ⟨rfl, rfl⟩ | ⟨rfl, rfl⟩ | ⟨rfl, rfl⟩ | ⟨rfl, rfl⟩ | ⟨rfl, rfl⟩ | ⟨rfl, rfl⟩ | ⟨rfl, rfl⟩ := which
    · exact mgtServe_holds held up same (by decide) (execHealth.eq_def u s)
    · exact mgtServe_holds held up same (by decide) (execRecordRead.eq_def u s)
    · exact mgtServe_holds held up same (by decide) (execLedger.eq_def u s)
    · exact mgtServe_holds held up same (by decide) (execCabling.eq_def u s)
    · exact mgtServe_holds held up same (by decide) (execTrayCap.eq_def u s)
    · exact mgtServe_holds held up same (by decide) (execReset.eq_def u s)
    · exact mgtServe_holds held up same (by decide) (execChallenge.eq_def u s)

end Sys2Proof.Proofs
end

section
/-!
Step schedules (chapter 14): a runner that stops after its SCHED_START has ended (R370, R383).
-/
namespace Sys2Proof.Proofs
open Sys2Proof.Machine Sys2Proof.Laws

/-- A SCHED_START, ABORTED with the queue pair it came from (R114). -/
def abortedStart : Desc :=
  { qp := 3, sub := 7, pos := 0, fn := 0, raw := 0x82, phase := .ended (resOf St.aborted), noRecord := true, sigOk := false
    escalated := false, note := 0 }

/-- The runner it started, in a step that entry 2 has failed with POISONED. -/
def failedRunner : Runner :=
  { runnerNew State.reset { desc := (3, 7), ctx := 5, fn := 0, table := [], report := (0, 0), load := true } with
    active := true, inStep := true, failed := some (St.poisoned, 2) }

/-- The runner in a device whose descriptors are the aborted one. -/
def startAborted : State :=
  { State.reset with
    cmd := { CmdState.init with descs := [abortedStart] }
    runners := [(5, failedRunner)] }

/-- The step's end stops the runner, and the descriptor keeps the result it has. -/
theorem startAborted_stops : ∃ t, exec (.runnerStepEnd 5) startAborted = .next t ∧
    (tget t.runners 5).map Runner.active = some false ∧ resultOf t 3 7 = some (resOf St.aborted) := ⟨_, rfl, rfl, rfl⟩

/-- Refutes O32: the clause on the end of a failed step has the SCHED_START take the failing entry in every state that holds
the descriptor. `endDesc` leaves the result of one that has ended, so in `startAborted` it stays ABORTED (R114). The result of
a failed runner is the model's choice (log 79). -/
theorem not_stepSchedules : ¬ Obligations.StepSchedules := by
  unfold Obligations.StepSchedules
  rintro ⟨-, -, -, -, -, -, -, -, -, -, -, -, -, -, -, fails, -⟩
  obtain ⟨t, runs, result, -⟩ := fails startAborted 5 failedRunner abortedStart St.poisoned 2 rfl rfl rfl rfl rfl rfl rfl
  obtain ⟨u, runs', -, kept⟩ := startAborted_stops
  obtain rfl : t = u := Host.Outcome.next.inj (runs.symm.trans runs')
  exact absurd (kept.symm.trans result) (by decide)

end Sys2Proof.Proofs
end

section
/-!
Checkpoints (chapter 16, R402 to R416, R422): plans, triggers, the snapshot, chunks, reports and the outcome.
-/
namespace Sys2Proof.Proofs
open Sys2Proof.Machine Sys2Proof.Laws

/-! ## What the state of a context's checkpoint depends on -/

theorem ckpOf_congr {s t : State} (same : t.ckp.ctxs = s.ckp.ctxs) (c : Nat) : ckpOf t c = ckpOf s c := by
  rw [ckpOf, ckpOf, same]

/-- The only context with a checkpoint state has that state. -/
theorem ckpOf_single {s : State} {c : Nat} {k : CkpCtx} (only : s.ckp.ctxs = [(c, k)]) : ckpOf s c = k := by
  simp [ckpOf, only, tgetD, tget]

theorem fileReq_only (node kind txn : Nat) (fields : List Nat) (bytes : List Byte) (s : State) :
    Only 0x1000001 s (fileReq node kind txn fields bytes s) :=
  (fileReq_keeps (keeps_refl _ s) (sub_refl _) node kind txn fields bytes).only

@[simp] theorem fileReq_ckp (node kind txn : Nat) (fields : List Nat) (bytes : List Byte) (s : State) :
    (fileReq node kind txn fields bytes s).ckp = s.ckp := (fileReq_only ..).ckp rfl

theorem sendPieces_only (node txn base : Nat) (b : List Byte) (s : State) :
    Only 0x1000001 s (sendPieces node txn base b s) :=
  (sendPieces_keeps (keeps_refl _ s) (sub_refl _) node txn base b).only

@[simp] theorem sendPieces_ckp (node txn base : Nat) (b : List Byte) (s : State) :
    (sendPieces node txn base b s).ckp = s.ckp := (sendPieces_only ..).ckp rfl

@[simp] theorem sendPieces_mem (node txn base : Nat) (b : List Byte) (s : State) :
    (sendPieces node txn base b s).mem = s.mem := (sendPieces_only ..).mem rfl

@[simp] theorem sendTo_ckp (node : Nat) (m : Msg) (s : State) : (sendTo node m s).ckp = s.ckp := (sendTo_only node m s).ckp rfl

/-- Opening a transfer lists it and changes no context's checkpoint. -/
theorem openXfer_opens (x : Xfer) (kind : Nat) (fields : List Nat) (bytes : List Byte) (s : State) :
    tget (openXfer x kind fields bytes s).ckp.xfers s.ckp.nextTxn = some x ∧
      (openXfer x kind fields bytes s).ckp.ctxs = s.ckp.ctxs := by
  have ckp := fileReq_ckp x.node kind s.ckp.nextTxn fields bytes
    (modCkp (fun k => { k with xfers := tput k.xfers s.ckp.nextTxn x, nextTxn := (s.ckp.nextTxn + 1) % 65536 }) s)
  rw [openXfer, ckp]
  exact ⟨tget_tput_same .., rfl⟩

/-! ## The opcodes (R402, R403, R406, Table 16-11) -/

section Opcodes
variable {s : State} {qp sub c : Nat} {d : Desc}

theorem ckpConfig_plans {p : CkpPlan} (h : Started s qp sub 0xA0 d) (ctx : descCtx s d = some c)
    (reads : readPlan s d c = .inr p) (idle : (ckpOf s c).run = none) (unplanned : (ckpOf s c).plan = none)
    (fits : 65536 * planGranules p ≤ shareLeft s d.fn) :
    exec (.ckpConfig qp sub) s = .next (endD d rDone (modCc c (fun k => { k with plan := some p, trigger := false }) s)) := by
  refine congrArg Host.Outcome.next ((onStarted_started h).trans ?_)
  simp only [ctx, reads, unplanned]
  exact (if_neg (by simp [idle])).trans (if_neg (Nat.not_lt.mpr fits))

theorem ckpConfig_busy {p : CkpPlan} (h : Started s qp sub 0xA0 d) (ctx : descCtx s d = some c)
    (reads : readPlan s d c = .inr p) (busy : (ckpOf s c).run ≠ none) :
    exec (.ckpConfig qp sub) s = .next (endD d (refuse St.refusedState 24) s) := by
  refine congrArg Host.Outcome.next ((onStarted_started h).trans ?_)
  simp only [ctx, reads]
  exact if_pos (Option.isSome_iff_ne_none.mpr busy)

theorem ckpConfig_fails {f : Result × Nat} (h : Started s qp sub 0xA0 d) (ctx : descCtx s d = some c)
    (reads : readPlan s d c = .inl f) (open_ : confidential s = false) :
    exec (.ckpConfig qp sub) s = .next (endD d f.1 s) := by
  refine congrArg Host.Outcome.next ((onStarted_started h).trans ?_)
  simp only [ctx, reads]
  exact if_neg (by simp [open_])

theorem ckpTrigger_arms (h : Started s qp sub 0xA1 d) (ctx : descCtx s d = some c) (planned : (ckpOf s c).plan ≠ none) :
    exec (.ckpTrigger qp sub) s = .next (endD d rDone (modCc c (fun k => { k with trigger := true }) s)) := by
  refine congrArg Host.Outcome.next ((onStarted_started h).trans ?_)
  simp only [ctx]
  exact if_neg (by simpa using planned)

theorem ckpTrigger_refuses (h : Started s qp sub 0xA1 d) (ctx : descCtx s d = some c) (none_ : (ckpOf s c).plan = none) :
    exec (.ckpTrigger qp sub) s = .next (endD d (refuse St.refusedState 0) s) := by
  refine congrArg Host.Outcome.next ((onStarted_started h).trans ?_)
  simp only [ctx]
  exact if_pos (by simp [none_])

/-- A CKP_DISARM that waits: listed after those that wait already. -/
def disarmWaits (c qp sub : Nat) (s : State) : State :=
  modCc c (fun k => { k with disarm := k.disarm ++ [(qp, sub)] }) (runDesc qp sub c s)

theorem ckpOf_disarmWaits (c qp sub : Nat) (s : State) :
    ckpOf (disarmWaits c qp sub s) c = { ckpOf s c with disarm := (ckpOf s c).disarm ++ [(qp, sub)] } := ckpOf_modCc ..

theorem ckpDisarm_waits (h : Started s qp sub 0xA2 d) (ctx : descCtx s d = some c) (busy : (ckpOf s c).run ≠ none) :
    exec (.ckpDisarm qp sub) s = .next (disarmWaits c qp sub s) := by
  refine congrArg Host.Outcome.next ((onStarted_started h).trans ?_)
  have still : (ckpOf (disarmWaits c qp sub s) c).run.isSome = true := by
    rw [ckpOf_disarmWaits]
    exact Option.isSome_iff_ne_none.mpr busy
  simp only [ctx]
  exact if_pos still

theorem ckpDisarm_now (h : Started s qp sub 0xA2 d) (ctx : descCtx s d = some c) (idle : (ckpOf s c).run = none) :
    exec (.ckpDisarm qp sub) s = .next (disarmNow c (disarmWaits c qp sub s)) := by
  refine congrArg Host.Outcome.next ((onStarted_started h).trans ?_)
  have still : ¬(ckpOf (disarmWaits c qp sub s) c).run.isSome = true := by
    rw [ckpOf_disarmWaits]
    simp [idle]
  simp only [ctx]
  exact if_neg still

/-- Ending several descriptors with one result leaves every other part. -/
theorem endDescs_ckp (r : Result) (ds : List (Nat × Nat)) (s : State) :
    (ds.foldl (fun s d => endDesc d.1 d.2 r s) s).ckp = s.ckp := by
  induction ds generalizing s with
  | nil => rfl
  | cons e ds ih => exact ih (endDesc e.1 e.2 r s)

theorem findDesc_endDesc_ne {q u : Nat} (r : Result) (s : State) (ne : ¬(qp = q ∧ sub = u)) :
    findDesc (endDesc q u r s) qp sub = findDesc s qp sub := by
  rw [endDesc]
  refine findDesc_modDesc_ne (fun d => ?_) s ne
  split <;> exact ⟨rfl, rfl⟩

/-- A descriptor that has ended keeps its result when it, or another, is ended. -/
theorem resultOf_endDesc_kept {r : Result} (q : Result) (at_ : Nat × Nat) (ended : resultOf s qp sub = some r) :
    resultOf (endDesc at_.1 at_.2 q s) qp sub = some r := by
  by_cases same : qp = at_.1 ∧ sub = at_.2
  · obtain ⟨rfl, rfl⟩ := same
    obtain ⟨d, found, phase⟩ := Option.bind_eq_some_iff.mp ended
    have past : dEnded d = true := by
      cases here : d.phase with
      | ended x => simp [dEnded, here]
      | _ => simp [here] at phase
    rw [resultOf, endDesc, findDesc_modDesc, found]
    · simpa [past] using phase
    · intro d
      split <;> simp
  · rw [resultOf, findDesc_endDesc_ne q s same]
    exact ended

theorem resultOf_endDescs_kept {r : Result} (q : Result) (ds : List (Nat × Nat)) {s : State}
    (ended : resultOf s qp sub = some r) : resultOf (ds.foldl (fun s d => endDesc d.1 d.2 q s) s) qp sub = some r := by
  induction ds generalizing s with
  | nil => exact ended
  | cons e ds ih => exact ih (resultOf_endDesc_kept q e ended)

/-- A descriptor among those ended takes the result. -/
theorem resultOf_endDescs {r : Result} {d : Desc} (ds : List (Nat × Nat)) {s : State}
    (found : findDesc s qp sub = some d) (runs : dEnded d = false) (listed : (qp, sub) ∈ ds) :
    resultOf (ds.foldl (fun s d => endDesc d.1 d.2 r s) s) qp sub = some r := by
  induction ds generalizing s with
  | nil => exact absurd listed List.not_mem_nil
  | cons e ds ih =>
    by_cases same : qp = e.1 ∧ sub = e.2
    · obtain ⟨rfl, rfl⟩ := same
      exact resultOf_endDescs_kept r ds (resultOf_endDesc r found runs)
    · have later : (qp, sub) ∈ ds := (List.mem_cons.mp listed).resolve_left fun here => same (Prod.ext_iff.mp here)
      exact ih ((findDesc_endDesc_ne r s same).trans found) later

/-- The disarming that is due takes the plan and ends the descriptor that waits. -/
theorem disarmNow_ends {e : Desc} (found : findDesc s qp sub = some e) (runs : dEnded e = false)
    (listed : (qp, sub) ∈ (ckpOf s c).disarm) :
    ckpOf (disarmNow c s) c = { ckpOf s c with plan := none, disarm := [], trigger := false } ∧
      resultOf (disarmNow c s) qp sub = some (resOf St.done) := by
  have some_ : ¬(ckpOf s c).disarm.isEmpty = true := by
    rw [List.isEmpty_iff]
    exact List.ne_nil_of_mem listed
  have ends : disarmNow c s = (ckpOf s c).disarm.foldl (fun s d => endDesc d.1 d.2 (resOf St.done) s)
      (modCc c (fun k => { k with plan := none, disarm := [], trigger := false }) s) := if_neg some_
  rw [ends]
  refine ⟨?_, resultOf_endDescs _ found runs listed⟩
  rw [ckpOf_congr (congrArg CkpState.ctxs (endDescs_ckp ..)), ckpOf_modCc]

theorem disarmNow_none (none_ : (ckpOf s c).disarm = []) : disarmNow c s = s := if_pos (by simp [none_])

/-- The answer of CKP_QUERY with neither a checkpoint nor a restore in flight. -/
def ckpAnswer (k : CkpCtx) : Result :=
  { rDone with
    value := k.last.getD (2 ^ 64 - 1), aux := (if k.plan.isSome then 1 else 0) + fieldAt (min k.skipped 65535) 16 16
    flags := bitAt k.lastBuddy 0 }

theorem ckpQuery_answers (h : Started s qp sub 0xA4 d) (ctx : descCtx s d = some c) (noRestore : restoreLive s c = none)
    (idle : (ckpOf s c).run = none) : exec (.ckpQuery qp sub) s = .next (endD d (ckpAnswer (ckpOf s c)) s) := by
  refine congrArg Host.Outcome.next ((onStarted_started h).trans ?_)
  simp only [ctx, noRestore, idle]
  rfl

theorem ckpAnswer_eq (k : CkpCtx) : ckpAnswer k = { resOf 0 with
    value := k.last.getD (2 ^ 64 - 1), aux := (if k.plan = none then 0 else 1) + min k.skipped 65535 * 65536
    flags := if k.lastBuddy then 1 else 0 } := by
  have short : min k.skipped 65535 % 2 ^ 16 = min k.skipped 65535 := Nat.mod_eq_of_lt (by omega)
  have aux : (if k.plan.isSome then 1 else 0) + fieldAt (min k.skipped 65535) 16 16 =
      (if k.plan = none then 0 else 1) + min k.skipped 65535 * 65536 := by
    rw [fieldAt, short]
    cases k.plan <;> rfl
  rw [ckpAnswer, aux]
  rfl

end Opcodes

/-! ## The snapshot and its chunks (R407, R409, R411) -/

section Snapshot
variable {s : State} {c txn : Nat} {p : CkpPlan} {r : CkpRun} {x : Xfer}

/-- At the snapshot point the header part is fixed and the put of the shard opens. -/
theorem snapshotPoint_opens (plan : (ckpOf s c).plan = some p) (run : (ckpOf s c).run = some r)
    (phase : r.phase = .snapshot) (slow : p.fast = false)
    (past : ∀ o ∈ s.col.ops, o.id ∈ r.awaited → o.state ≠ .running) :
    exec (.snapshotPoint c) s = .next (openXfer (xferNew p.storeNode c .shardPut (objName p.job r.step p.rank 0 p.inc)
      (chunkCount (planLen p) 1048576) [] (0, 0)) 1 [storedLen (planLen p)] (objName p.job r.step p.rank 0 p.inc)
      (modCc c (fun k => { k with run := some { r with phase := .streaming, head := ckpHead s c r.step p } }) (tookFree s))) := by
  refine congrArg Host.Outcome.next ?_
  simp only [plan, run]
  refine (if_neg ?_).trans (if_neg (by simp [slow]))
  rintro (other | awaits)
  · exact other phase
  · obtain ⟨o, here, both⟩ := List.any_eq_true.mp awaits
    simp only [Bool.and_eq_true, List.contains_iff_mem, decide_eq_true_eq] at both
    exact past o here both.1 both.2

theorem snapshotPoint_waits {o : TrigOp} (plan : (ckpOf s c).plan = some p) (run : (ckpOf s c).run = some r)
    (here : o ∈ s.col.ops) (awaited : o.id ∈ r.awaited) (runs : o.state = .running) :
    exec (.snapshotPoint c) s = .next s := by
  refine congrArg Host.Outcome.next ?_
  simp only [plan, run]
  exact if_pos (.inr (List.any_eq_true.mpr ⟨o, here, by simp [awaited, runs]⟩))

/-- The shard's transfer once its next chunk has left, with `n` bytes. -/
def chunkLeft (txn n : Nat) (s : State) : State :=
  modCkp (fun k => { k with bytesOut := (k.bytesOut + n) % 2 ^ 64 })
    (modXfer txn (fun x => { x with next := x.next + 1, unacked := tput x.unacked x.next 0 }) s)

/-- A chunk leaves while the window allows it. -/
theorem chunkSend_sends {base : Nat} {b : List Byte} (there : tget s.ckp.xfers txn = some x) (put : x.kind = .shardPut)
    (opened : x.opened = true) (more : x.next < x.chunks) (room : chunksOut x < x.window)
    (chunk : putChunk s x x.next = some (base, b)) :
    exec (.chunkSend txn) s = .next (sendPieces x.node txn base b (chunkLeft txn b.length s)) := by
  refine congrArg Host.Outcome.next ?_
  simp only [there]
  refine (if_neg ?_).trans ?_
  · simp [put, opened, isPut, xferPut, more, room]
  · simp only [chunk]
    rw [if_pos (by simp [put, xferPut])]
    rfl

/-- A chunk that reads poison fails the checkpoint. -/
theorem chunkSend_fails (there : tget s.ckp.xfers txn = some x) (put : x.kind = .shardPut) (opened : x.opened = true)
    (more : x.next < x.chunks) (room : chunksOut x < x.window) (poisoned : putChunk s x x.next = none) :
    exec (.chunkSend txn) s = .next (ckpFail x.ctx 3 s) := by
  refine congrArg Host.Outcome.next ?_
  simp only [there]
  refine (if_neg ?_).trans ?_
  · simp [put, opened, isPut, xferPut, more, room]
  · simp only [poisoned]

theorem chunkSend_waits (there : tget s.ckp.xfers txn = some x)
    (held : x.opened = false ∨ x.chunks ≤ x.next ∨ x.window ≤ chunksOut x) : exec (.chunkSend txn) s = .next s := by
  refine congrArg Host.Outcome.next ?_
  simp only [there]
  exact if_pos (by rcases held with held | held | held <;> simp [held])

end Snapshot

/-! ## Reports and the manifest (R414, R415) -/

section Manifest
variable {s : State} {c : Nat} {k : CkpCtx} {p : CkpPlan}

/-- The manifest work with one rank's report kept. -/
def reported (w : ManiWork) (rank : Nat) (report : RankReport) : ManiWork :=
  { w with reports := tput w.reports rank report }

/-- The context's manifest work replaced. -/
def maniKept (c : Nat) (w : ManiWork) (s : State) : State := modCc c (fun k => { k with mani := some w }) s

/-- A report that a manifest node takes: kept, then judged. -/
theorem maniReport_judges {w : ManiWork} {node rank inc shape digest len store : Nat} {buddy : Option Nat} {result : Nat}
    (only : s.ckp.ctxs = [(c, k)]) (plan : k.plan = some p) (mani : k.mani = some w) (own : p.maniNode = nodeId s)
    (unsent : w.sent = none) {w' : ManiWork}
    (kept : w' = reported w rank { node := node, digest := digest, len := len, store := store, buddy := buddy }) :
    maniReport node rank w.step inc shape digest len store buddy result s =
      if result ≠ 0 ∨ inc ≠ p.inc ∨ shape ≠ shapeDigest p ∨ p.nNodes ≤ rank then maniSend c false (maniKept c w' s)
      else if p.nNodes ≤ w'.reports.length then
        openXfer (xferNew p.storeNode c .maniPut (objName p.job w.step 0xFFFFFFFF 1 p.inc)
          (chunkCount (maniBytes (maniKept c w' s) p w' k.prev).length 1048576)
          (maniBytes (maniKept c w' s) p w' k.prev) (0, 0)) 1 [(maniBytes (maniKept c w' s) p w' k.prev).length]
          (objName p.job w.step 0xFFFFFFFF 1 p.inc) (maniKept c w' s)
      else maniKept c w' s := by
  subst kept
  obtain ⟨step, reports, sent⟩ := w
  obtain rfl : sent = none := unsent
  simp only [maniReport, only, List.find?_cons, plan, mani, own, decide_true, Bool.and_self]
  rfl

/-- The outcome goes to the one rank that has reported, another node. -/
theorem maniSend_sends {w : ManiWork} {rank : Nat} {report : RankReport} (plan : (ckpOf s c).plan = some p)
    (mani : (ckpOf s c).mani = some w) (unsent : w.sent = none) (one : w.reports = [(rank, report)])
    (other : report.node ≠ nodeId s) :
    (ckpOf (maniSend c false s) c).mani = some { w with sent := some false } := by
  have sends : maniSend c false s = fileReq report.node 7 0 [w.step, p.inc, 5] []
      (modCc c (fun k => { k with mani := some { w with sent := some false } }) s) := by
    simp only [maniSend, plan, mani, unsent, one, List.foldl_cons, List.foldl_nil]
    exact if_neg other
  rw [sends, ckpOf_congr (congrArg CkpState.ctxs (fileReq_ckp ..)), ckpOf_modCc]

/-- The checkpoint that MANIFEST_DONE names. -/
theorem maniDone_names {r : CkpRun} (only : s.ckp.ctxs = [(c, k)]) (plan : k.plan = some p) (run : k.run = some r)
    (result : Nat) :
    maniDone p.maniNode r.step p.inc result s =
      if result = 0 then (if r.phase = .manifest then ckpEnds c none s else s) else ckpEnds c (some 5) s := by
  simp only [maniDone, only, List.find?_cons, plan, run, decide_true, Bool.and_self]

/-- A context whose checkpoint has completed. -/
def ckpCompleted (c : Nat) (r : CkpRun) (s : State) : State :=
  modCkp (fun k => { k with done := satAdd 65535 k.done 1 })
    (modCc c (fun k => { k with run := none, last := some r.step, lastBuddy := r.buddy }) (dropXfers c xferPut s))

theorem ckpOf_ckpCompleted (c : Nat) (r : CkpRun) (s : State) :
    ckpOf (ckpCompleted c r s) c = { ckpOf s c with run := none, last := some r.step, lastBuddy := r.buddy } :=
  (ckpOf_congr (s := modCc c (fun k => { k with run := none, last := some r.step, lastBuddy := r.buddy })
    (dropXfers c xferPut s)) rfl c).trans (ckpOf_modCc c _ (dropXfers c xferPut s))

/-- A context whose checkpoint has failed: CHECKPOINT_FAILED is posted. -/
def ckpFailed (c step reason : Nat) (s : State) : State :=
  ckpPost c step reason (modCkp (fun k => { k with failed := satAdd 255 k.failed 1 })
    (modCc c (fun k => { k with run := none }) (dropXfers c xferPut s)))

theorem ckpOf_ckpFailed (c step reason : Nat) (s : State) :
    ckpOf (ckpFailed c step reason s) c = { ckpOf s c with run := none } :=
  (ckpOf_congr (s := modCc c (fun k => { k with run := none }) (dropXfers c xferPut s)) rfl c).trans
    (ckpOf_modCc c _ (dropXfers c xferPut s))

section Ends
variable {r : CkpRun} (plan : (ckpOf s c).plan = some p) (run : (ckpOf s c).run = some r) (noEvent : p.doneEvent = none)
  (noDisarm : (ckpOf s c).disarm = [])
include plan run noEvent noDisarm

/-- A good end of a checkpoint, without DONE_EVENT and without a CKP_DISARM that waits. -/
theorem ckpEnds_completes : ckpEnds c none s = ckpCompleted c r s := by
  simp only [ckpEnds, plan, run, ckpSignal, noEvent]
  exact disarmNow_none ((congrArg CkpCtx.disarm (ckpOf_ckpCompleted c r s)).trans noDisarm)

theorem ckpEnds_fails (reason : Nat) : ckpEnds c (some reason) s = ckpFailed c r.step reason s := by
  simp only [ckpEnds, plan, run, ckpSignal, noEvent]
  exact disarmNow_none ((congrArg CkpCtx.disarm (ckpOf_ckpFailed c r.step reason s)).trans noDisarm)

end Ends

/-- The posting of a failed checkpoint is pending. -/
theorem ckpPost_pending (c step reason : Nat) (s : State) :
    (tgetD (attOf (ckpPost c step reason s) (ctxFn s c)).entries 0x60 attInit).pending = true :=
  congrArg AttEntry.pending (post_entry ..)

end Manifest

/-- Settles O34: the opcodes by `ckpConfig_plans` to `ckpQuery_answers`, the snapshot and its chunks by `snapshotPoint_opens`
and `chunkSend_sends`, the manifest node by `maniReport_judges`, and the outcome by `maniDone_names`, `ckpEnds_completes` and
`ckpEnds_fails`. Which plans are refused is log 82, the report and the buddy flag log 84, the end of a checkpoint log 86. -/
theorem checkpointsTaken : Obligations.CheckpointsTaken := by
  unfold Obligations.CheckpointsTaken
  refine ⟨?planned, ?refused, ?inFlight, ?armed, ?unarmed, ?disarmed, ?waits, ?queried, ?snapshot, ?awaits, ?sent, ?poisoned,
    ?held, ?kept, ?full, ?bad, ?complete, ?failed, ?waitManager, ?waitRank, ?waitSnapshot⟩
  case planned =>
    intro s qp sub d c p h ctx reads idle unplanned fits
    exact runs_of (ckpConfig_plans h ctx reads idle unplanned fits) ⟨ckpOf_modCc .., started_ends h rfl _⟩
  case refused =>
    intro s qp sub d c f h ctx reads open_
    exact runs_of (ckpConfig_fails h ctx reads open_) ⟨rfl, started_ends h rfl _⟩
  case inFlight =>
    intro s qp sub d c p h ctx reads busy
    exact runs_of (ckpConfig_busy h ctx reads busy) ⟨rfl, started_ends h rfl _⟩
  case armed =>
    intro s qp sub d c h ctx planned
    exact runs_of (ckpTrigger_arms h ctx planned) ⟨ckpOf_modCc .., started_ends h rfl _⟩
  case unarmed =>
    intro s qp sub d c h ctx none_
    exact runs_of (ckpTrigger_refuses h ctx none_) ⟨rfl, started_ends h rfl _⟩
  case disarmed =>
    intro s qp sub d c h ctx idle
    have here := ckpOf_disarmWaits c qp sub s
    obtain ⟨after, result⟩ := disarmNow_ends (s := disarmWaits c qp sub s) (c := c) (findDesc_runDesc c h.1) rfl
      (by rw [here]; exact List.mem_append_right _ List.mem_cons_self)
    exact runs_of (ckpDisarm_now h ctx idle) ⟨after.trans (by rw [here]), result⟩
  case waits =>
    intro s qp sub d c h ctx busy
    exact runs_of (ckpDisarm_waits h ctx busy)
      ⟨ckpOf_disarmWaits .., congrArg (Option.map Desc.phase) (findDesc_runDesc c h.1)⟩
  case queried =>
    intro s qp sub d c h ctx noRestore idle
    exact runs_of (ckpQuery_answers h ctx noRestore idle) ⟨rfl, (started_ends h rfl _).trans
      (congrArg some (ckpAnswer_eq _))⟩
  case snapshot =>
    intro s c p r plan run phase slow past
    refine runs_of (snapshotPoint_opens plan run phase slow past) ?_
    obtain ⟨opened, ctxs⟩ := openXfer_opens (xferNew p.storeNode c .shardPut (objName p.job r.step p.rank 0 p.inc)
      (chunkCount (planLen p) 1048576) [] (0, 0)) 1 [storedLen (planLen p)] (objName p.job r.step p.rank 0 p.inc)
      (modCc c (fun k => { k with run := some { r with phase := .streaming, head := ckpHead s c r.step p } }) (tookFree s))
    refine ⟨?_, opened⟩
    rw [ckpOf_congr ctxs, ckpOf_modCc]
  case awaits => exact fun s c p r o plan run here awaited runs => snapshotPoint_waits plan run here awaited runs
  case sent =>
    intro s txn x base b there put opened more room chunk
    refine runs_of (chunkSend_sends there put opened more room chunk) ?_
    rw [sendPieces_ckp, sendPieces_mem]
    refine ⟨(tget_tmod_same ..).trans ?_, rfl, rfl⟩
    rw [there]
    rfl
  case poisoned =>
    exact fun s txn x there put opened more room poisoned => chunkSend_fails there put opened more room poisoned
  case held => exact fun s txn x there held => chunkSend_waits there held
  case kept =>
    intro s c k p w node rank shape digest len store buddy only plan mani own unsent same low few
    refine runs_of (congrArg Host.Outcome.next ((maniReport_judges only plan mani own unsent rfl).trans
      ((if_neg ?_).trans (if_neg (Nat.not_le.mpr few))))) (congrArg CkpCtx.mani (ckpOf_modCc ..))
    simp [same, low]
  case full =>
    intro s c k p w node rank shape digest len store buddy only plan mani own unsent same low all
    refine runs_of (congrArg Host.Outcome.next ((maniReport_judges only plan mani own unsent rfl).trans
      ((if_neg ?_).trans (if_pos all)))) (congrArg (Option.map fun x => (x.node, x.ctx, x.kind, x.name)) (openXfer_opens ..).1)
    simp [same, low]
  case bad =>
    intro s c k p w node rank inc shape digest len store buddy result only plan mani own unsent first other fails
    have here := ckpOf_single only
    refine runs_of (congrArg Host.Outcome.next ((maniReport_judges only plan mani own unsent rfl).trans (if_pos fails))) ?_
    have sole : tput w.reports rank { node := node, digest := digest, len := len, store := store, buddy := buddy } =
        [(rank, { node := node, digest := digest, len := len, store := store, buddy := buddy })] := by rw [first]; rfl
    refine congrArg (Option.map ManiWork.sent)
      (maniSend_sends (s := maniKept c (reported w rank _) s) (p := p) ?_ (congrArg CkpCtx.mani (ckpOf_modCc ..)) unsent sole other)
    rw [maniKept, ckpOf_modCc, here]
    exact plan
  case complete =>
    intro s c k p r only plan run phase noEvent noDisarm
    have here := ckpOf_single only
    have ends := ckpEnds_completes (s := s) (c := c) (by rw [here]; exact plan) (by rw [here]; exact run) noEvent
      (by rw [here]; exact noDisarm)
    refine runs_of (congrArg Host.Outcome.next
      ((maniDone_names only plan run 0).trans ((if_pos rfl).trans ((if_pos phase).trans ends)))) ⟨?_, rfl⟩
    rw [ckpOf_ckpCompleted, here]
  case failed =>
    intro s c k p r result only plan run noEvent noDisarm bad
    have here := ckpOf_single only
    have ends := ckpEnds_fails (s := s) (c := c) (by rw [here]; exact plan) (by rw [here]; exact run) noEvent
      (by rw [here]; exact noDisarm) 5
    refine runs_of (congrArg Host.Outcome.next ((maniDone_names only plan run result).trans ((if_neg bad).trans ends)))
      ⟨?_, rfl, ckpPost_pending ..⟩
    rw [ckpOf_ckpFailed, here]
  case waitManager =>
    intro s c w mani unsent
    refine congrArg Host.Outcome.next ((if_pos rfl).trans ?_)
    simp only [mani]
    exact if_pos (by simp [unsent])
  case waitRank =>
    intro s c r run phase
    refine congrArg Host.Outcome.next ((if_neg (by decide)).trans ?_)
    simp only [run]
    exact if_neg phase
  case waitSnapshot =>
    intro s c r run phase
    refine congrArg Host.Outcome.next ((if_neg (by decide)).trans ?_)
    simp only [run]
    exact if_pos phase

end Sys2Proof.Proofs
end

section
/-!
Checkpoint transfers, the buddy region and restores (chapter 16, R410 to R413, R417 to R420).
-/
namespace Sys2Proof.Proofs
open Sys2Proof.Machine Sys2Proof.Laws

/-! ## Transfers (R410, R411) -/

section Transfers
variable {s : State} {txn : Nat} {x : Xfer}

theorem modCkp_only (f : CkpState → CkpState) (s : State) : Only (partMask [.ckp]) s (modCkp f s) :=
  (modCkp_keeps (keeps_refl _ s) (sub_of (sub_refl _) rfl) f).only

/-- A transfer that is listed, after a change of it. -/
theorem xfer_modXfer (there : tget s.ckp.xfers txn = some x) (f : Xfer → Xfer) :
    tget (modXfer txn f s).ckp.xfers txn = some (f x) := (tget_tmod_same ..).trans (congrArg (Option.map f) there)

theorem ack_unknown (none_ : tget s.ckp.xfers txn = none) (port node status chunk window : Nat) :
    exec (.ack port node txn status chunk window) s = .next (routeDrop port s) := by
  refine congrArg Host.Outcome.next ?_
  simp only [none_]

/-- An acknowledgement of a put with status 0 opens it, or releases a chunk. -/
theorem ack_put (there : tget s.ckp.xfers txn = some x) (put : x.kind = .shardPut) (port chunk window : Nat) :
    exec (.ack port x.node txn 0 chunk window) s = .next
      (if x.opened then
        tryPutClose txn (modXfer txn (fun x => { x with
          window := clampTo 1 255 window, unacked := if x.closing then x.unacked else tdel x.unacked chunk }) s)
      else modXfer txn (fun x => { x with
        opened := true, window := clampTo 1 255 window, unacked := tdel x.unacked reqKey }) s) := by
  refine congrArg Host.Outcome.next ?_
  simp only [there]
  exact (if_neg (not_not_intro rfl)).trans ((if_neg (by simp [put])).trans ((if_neg (by simp [put])).trans
    ((if_neg (by decide)).trans ((if_neg (by decide)).trans (if_pos (by simp [put, isPut, xferPut]))))))

/-- A put with chunks still to send is not closed. -/
theorem tryPutClose_waits (there : tget s.ckp.xfers txn = some x) (more : x.next < x.chunks) : tryPutClose txn s = s := by
  simp only [tryPutClose, there]
  exact if_neg (by simp [Nat.not_le.mpr more])

theorem clampTo_within {lo hi v : Nat} (low : lo ≤ v) (high : v ≤ hi) : clampTo lo hi v = v :=
  (if_neg (Nat.not_lt.mpr low)).trans (if_neg (Nat.not_lt.mpr high))

theorem xferFails_shard (put : x.kind = .shardPut) (lost : Bool) :
    xferFails txn x lost s = ckpFail x.ctx (if lost then 2 else 1) (dropXfer txn s) := by
  simp only [xferFails, put]

theorem xferFails_buddy {r : CkpRun} (put : x.kind = .buddyPut) (run : (ckpOf s x.ctx).run = some r) (lost : Bool) :
    xferFails txn x lost s = ckpPost x.ctx r.step 6 (dropXfer txn s) := by
  have still : (ckpOf (dropXfer txn s) x.ctx).run = some r := run
  simp only [xferFails, put, still]

/-- A refusal fails the transfer. -/
theorem ack_refuses {status : Nat} (there : tget s.ckp.xfers txn = some x) (put : x.kind = .shardPut) (bad : status ≠ 0)
    (port chunk window : Nat) :
    exec (.ack port x.node txn status chunk window) s = .next (ckpFail x.ctx 1 (dropXfer txn s)) := by
  refine congrArg Host.Outcome.next ?_
  simp only [there]
  refine (if_neg (not_not_intro rfl)).trans ((if_neg (by simp [put])).trans ((if_neg (by simp [put])).trans ?_))
  rw [if_pos bad, if_neg (show ¬x.kind = .buddyGet by simp [put]), ite_self]
  exact xferFails_shard put false

/-- A request that has been sent three times counts its peer as lost. -/
theorem chunkResendTimer_loses {n : Nat} (there : tget s.ckp.xfers txn = some x) (put : x.kind = .shardPut)
    (waits : tget x.unacked reqKey = some n) (twice : 2 ≤ n) :
    exec (.chunkResendTimer txn none) s = .next (ckpFail x.ctx 2 (dropXfer txn s)) := by
  refine congrArg Host.Outcome.next ?_
  simp only [there, Option.getD_none, waits]
  exact (if_neg (by simp [put])).trans ((if_pos twice).trans (xferFails_shard put true))

/-- What a put sends does not hang on the transfers. -/
theorem putChunk_modXfer (t : Nat) (f : Xfer → Xfer) (x : Xfer) (n : Nat) :
    putChunk (modXfer t f s) x n = putChunk s x n := rfl

/-- A chunk that waits is sent again. -/
theorem chunkResendTimer_resends {c n base : Nat} {b : List Byte} (there : tget s.ckp.xfers txn = some x)
    (put : x.kind = .shardPut) (waits : tget x.unacked c = some n) (few : n < 2) (chunk : putChunk s x c = some (base, b)) :
    exec (.chunkResendTimer txn (some c)) s = .next (sendPieces x.node txn base b
      (modXfer txn (fun x => { x with unacked := tput x.unacked c (n + 1) }) s)) := by
  refine congrArg Host.Outcome.next ?_
  simp only [there, Option.getD_some, waits]
  refine (if_neg (by simp [put])).trans ((if_neg (Nat.not_le.mpr few)).trans ?_)
  simp only [putChunk_modXfer, chunk]

/-- A rank that is not the manifest node reports in a packet, which changes no checkpoint. -/
theorem ckpReport_ckp {c : Nat} (elsewhere : ∀ p, (ckpOf s c).plan = some p → p.maniNode ≠ nodeId s) (digest result : Nat) :
    (ckpReport c digest result s).ckp = s.ckp := by
  unfold ckpReport
  split
  next p r plan _ =>
    rw [if_neg (elsewhere p plan)]
    exact sendTo_ckp ..
  next => rfl

/-- The context whose put of the shard has become durable. -/
def shardDurable (txn : Nat) (x : Xfer) (s : State) : State :=
  modCc x.ctx (fun k => { k with run := k.run.map fun r => { r with phase := .manifest } }) (dropXfer txn s)

theorem durable_shard (there : tget s.ckp.xfers txn = some x) (put : x.kind = .shardPut) (closing : x.closing = true)
    (port : Nat) :
    exec (.durable port x.node txn) s = .next (ckpReport x.ctx (putDigest s x) 0 (shardDurable txn x s)) := by
  refine congrArg Host.Outcome.next ?_
  simp only [there]
  refine (if_neg (by simp [closing])).trans ?_
  simp only [put]
  rfl

theorem durable_buddy (there : tget s.ckp.xfers txn = some x) (put : x.kind = .buddyPut) (closing : x.closing = true)
    (port : Nat) :
    exec (.durable port x.node txn) s = .next
      (modCc x.ctx (fun k => { k with run := k.run.map fun r => { r with buddy := true } }) (dropXfer txn s)) := by
  refine congrArg Host.Outcome.next ?_
  simp only [there]
  refine (if_neg (by simp [closing])).trans ?_
  simp only [put]

theorem durable_early {node : Nat} (there : tget s.ckp.xfers txn = some x) (open_ : x.closing = false) (port : Nat) :
    exec (.durable port node txn) s = .next (routeDrop port s) := by
  refine congrArg Host.Outcome.next ?_
  simp only [there]
  exact if_pos (.inr (by simp [open_]))

/-- Stored bytes for a restore are kept. -/
theorem ckpData_keeps_pieces (there : tget s.ckp.xfers txn = some x) (get : x.kind = .storeGet) (port off : Nat)
    (b : List Byte) :
    exec (.ckpData port x.node txn off b) s = .next (modXfer txn (fun x => { x with
      pieces := tput x.pieces off b, opened := true, unacked := [(reqKey, 0)] }) s) := by
  refine congrArg Host.Outcome.next ?_
  simp only [there]
  exact (if_pos (by simp [get, xferGet])).trans (if_neg (by simp [get]))

theorem ckpData_unknown (none_ : tget s.ckp.xfers txn = none) (port node off : Nat) (b : List Byte) :
    exec (.ckpData port node txn off b) s =
      .next (if (slotOfTxn s txn).isSome then putData node txn off b s else routeDrop port s) := by
  refine congrArg Host.Outcome.next ?_
  simp only [none_]

end Transfers

/-! ## The partner's side (R412, R413, R418) -/

section Partner
variable {s : State} {node txn : Nat}

@[simp] theorem fileRsp_ckp (node kind txn : Nat) (fields : List Nat) (s : State) :
    (fileRsp node kind txn fields s).ckp = s.ckp := sendTo_ckp ..

/-- A status answer of the partner, with a free window (R411). -/
def partnerAck (node txn status chunk : Nat) (s : State) : State :=
  fileRsp node 0x81 txn [status, chunk, 1 + freeNow s % 255] (tookFree s)

/-- The slot of a put as it opens. -/
def slotNew (name : List Byte) (len txn : Nat) : BuddySlot :=
  { name := name, len := len, pieces := [], acked := [], whole := false, txn := txn }

theorem putOpen_refuses (other : buddyServes s node = false) (name : List Byte) (len : Nat) :
    exec (.putOpen node txn name len) s = .next (partnerAck node txn 3 0 s) :=
  congrArg Host.Outcome.next (if_pos (.inl (by simp [other])))

/-- A put of a buddy copy that fits and that no slot holds whole takes a slot. -/
theorem putOpen_accepts {name : List Byte} {len : Nat} (serves : buddyServes s node = true) (copy : bin name 20 1 = 2)
    (absent : ∀ e ∈ slotsOf s, e.2.whole = true → e.2.name ≠ name) (fits : len ≤ s.ckp.gib / 2 * 2 ^ 30) :
    exec (.putOpen node txn name len) s =
      .next (partnerAck node txn 0 0 (setSlot (putGoesB s) (some (slotNew name len txn)) s)) := by
  refine congrArg Host.Outcome.next ((if_neg ?_).trans ((if_neg ?_).trans (if_neg (Nat.not_lt.mpr fits))))
  · simp [serves, copy]
  · simpa using absent

theorem slotsOf_none (a : s.ckp.slotA = none) (b : s.ckp.slotB = none) : slotsOf s = [] := by
  simp [slotsOf, a, b]

theorem slotsOf_a {x : BuddySlot} (a : s.ckp.slotA = some x) (b : s.ckp.slotB = none) : slotsOf s = [(false, x)] := by
  simp [slotsOf, a, b]

theorem putClose_holds {b : Bool} {x : BuddySlot} {bytes : List Byte} (slot : slotOfTxn s txn = some (b, x))
    (serves : buddyServes s node = true) (whole : piecesSpan x.pieces 0 x.len = some bytes) :
    exec (.putClose node txn (Config.sha384 bytes).toNat) s = .next (fileRsp node 0x82 txn []
      (modCkp (fun k => { k with lastB := b }) (setSlot b (some { x with whole := true }) s))) := by
  refine congrArg Host.Outcome.next ?_
  simp only [slot]
  refine (if_neg (by simp [serves])).trans ?_
  simp only [whole, if_true]

theorem putClose_refuses {b : Bool} {x : BuddySlot} {bytes : List Byte} {digest : Nat} (slot : slotOfTxn s txn = some (b, x))
    (serves : buddyServes s node = true) (whole : piecesSpan x.pieces 0 x.len = some bytes)
    (differs : (Config.sha384 bytes).toNat ≠ digest) :
    exec (.putClose node txn digest) s = .next (fileRsp node 0x81 txn [3, 0, 1] s) := by
  refine congrArg Host.Outcome.next ?_
  simp only [slot]
  refine (if_neg (by simp [serves])).trans ?_
  simp only [whole]
  exact if_neg differs

theorem getOpen_refuses (other : buddyServes s node = false) (name : List Byte) (first count : Nat) (bad : List Nat) :
    exec (.getOpen node txn name first count bad) s = .next (partnerAck node txn 3 0 s) :=
  congrArg Host.Outcome.next (if_pos (by simp [other]))

theorem getOpen_notFound {name : List Byte} (serves : buddyServes s node = true)
    (absent : ∀ e ∈ slotsOf s, e.2.whole = false ∨ e.2.name ≠ name) (first count : Nat) (bad : List Nat) :
    exec (.getOpen node txn name first count bad) s = .next (partnerAck node txn 2 0 s) := by
  have none_ : (slotsOf s).find? (fun (e : Bool × BuddySlot) => e.2.whole && decide (e.2.name = name)) = none := by
    rw [List.find?_eq_none]
    intro e here both
    simp only [Bool.and_eq_true, decide_eq_true_eq] at both
    rcases absent e here with partial_ | other
    · simp [partial_] at both
    · exact other both.2
  refine congrArg Host.Outcome.next ((if_neg (by simp [serves])).trans ?_)
  simp only [none_]
  rfl

/-- One chunk of a copy held whole is sent. -/
theorem getOpen_sends {x : BuddySlot} {first : Nat} {b : List Byte} (serves : buddyServes s node = true)
    (a : s.ckp.slotA = some x) (whole : x.whole = true) (within : first < chunkCount x.len storedChunk)
    (chunk : piecesSpan x.pieces (first * storedChunk) (min (first * storedChunk + storedChunk) x.len) = some b) :
    exec (.getOpen node txn x.name first 1 []) s =
      .next (sendPieces node txn (first * storedChunk) b (partnerAck node txn 0 first s)) := by
  have found : (slotsOf s).find? (fun (e : Bool × BuddySlot) => e.2.whole && decide (e.2.name = x.name)) = some (false, x) := by
    simp [slotsOf, a, whole]
  have one : min 1 (chunkCount x.len storedChunk - first) = 1 := by omega
  refine congrArg Host.Outcome.next ((if_neg (by simp [serves])).trans ?_)
  simp only [found, one, List.range_one, List.map_cons, List.map_nil, List.foldl_cons, List.foldl_nil, Nat.add_zero, chunk]
  rfl

end Partner

/-! ## Restores (R417 to R420) -/

section Restores
variable {s t : State} {c : Nat} {r : Restore} {d : Desc}

/-- The restore that runs, and its descriptor. -/
theorem restoreLive_spec (live : restoreLive s c = some (r, d)) :
    (ckpOf s c).restore = some r ∧ findDesc s r.desc.1 r.desc.2 = some d ∧ d.phase = .running := by
  unfold restoreLive at live
  split at live
  case h_2 => exact absurd live (by simp)
  case h_1 q restore =>
    split at live
    case h_2 => exact absurd live (by simp)
    case h_1 e found =>
      split at live
      case isFalse => exact absurd live (by simp)
      case isTrue runs =>
        obtain ⟨rfl, rfl⟩ := Prod.mk.inj (Option.some.inj live)
        exact ⟨restore, found, runs⟩

theorem restoreLive_of_none (none_ : (ckpOf s c).restore = none) : restoreLive s c = none := by
  simp only [restoreLive, none_]

theorem restoreLive_congr (restore : (ckpOf t c).restore = (ckpOf s c).restore) (descs : t.cmd.descs = s.cmd.descs) :
    restoreLive t c = restoreLive s c := by
  simp only [restoreLive, restore, findDesc_congr descs]

/-- The context once its restore has gone. -/
def restoreGone (c : Nat) (s : State) : State := modCc c (fun k => { k with restore := none }) (dropXfers c xferGet s)

theorem restoreEnds_live (live : restoreLive s c = some (r, d)) (res : Result) :
    restoreEnds c res s = endD d res (restoreGone c s) := by
  simp only [restoreEnds, live]
  rfl

theorem restoreEnds_frame (live : restoreLive s c = some (r, d)) (res : Result) :
    (restoreEnds c res s).ctxs = s.ctxs ∧ (ckpOf (restoreEnds c res s) c).restore = none := by
  rw [restoreEnds_live live]
  have gone : ckpOf (restoreGone c s) c = { ckpOf (dropXfers c xferGet s) c with restore := none } := ckpOf_modCc ..
  refine ⟨rfl, ?_⟩
  have same : ckpOf (endD d res (restoreGone c s)) c = ckpOf (restoreGone c s) c := rfl
  rw [same, gone]

/-- A restore that ends gives its descriptor the result. -/
theorem resultOf_restoreEnds (live : restoreLive s c = some (r, d)) (res : Result) :
    resultOf (restoreEnds c res s) r.desc.1 r.desc.2 = some res := by
  obtain ⟨-, found, phase⟩ := restoreLive_spec live
  rw [restoreEnds_live live]
  obtain ⟨qp, sub⟩ := findDesc_place found
  rw [endD, qp, sub]
  exact resultOf_endDesc (s := restoreGone c s) res found (by simp [dEnded, phase])

theorem restoreRefuse_ends (live : restoreLive s c = some (r, d)) (first : r.fell = false) (open_ : confidential s = false)
    (n : Nat) : restoreRefuse c n s = restoreEnds c (refuse St.refusedState n) s := by
  simp only [restoreRefuse, live]
  exact (if_neg (by simp [first])).trans (if_neg (by simp [open_]))

theorem statRsp_fails {txn status : Nat} {valid : Bool} {x : Xfer} (there : tget s.ckp.xfers txn = some x)
    (stat : x.kind = .stat) (bad : status ≠ 0 ∨ valid = false) (port len : Nat) :
    exec (.statRsp port x.node txn status len valid) s = .next (restoreRefuse x.ctx 1 (dropXfer txn s)) := by
  refine congrArg Host.Outcome.next ?_
  simp only [there]
  exact (if_neg (by simp [stat])).trans (if_pos (by simpa using bad))

theorem statRsp_passes {txn : Nat} {x : Xfer} (there : tget s.ckp.xfers txn = some x) (stat : x.kind = .stat)
    (port len : Nat) :
    exec (.statRsp port x.node txn 0 len true) s = .next
      (restoreManifest x.ctx (modRst x.ctx (fun r => { r with stat := some (0, len, true) }) (dropXfer txn s))) := by
  refine congrArg Host.Outcome.next ?_
  simp only [there]
  exact (if_neg (by simp [stat])).trans (if_neg (by simp))

/-! ### CKP_RESTORE (R417) -/

/-- The fields of CKP_RESTORE that must hold whatever the context does. -/
def RestoreFields (s : State) (d : Desc) (p : CkpPlan) : Prop :=
  needH s d Hk.mem 28 = none ∧ dfld d 40 8 % 64 = 0 ∧
    needWritable s (dfld d 28 4) (dfld d 40 8) (64 * planStreams p) 40 = none

/-- Is the context of CKP_RESTORE live, without work, checkpoint or restore? -/
def restoreFree (s : State) (c : Nat) : Bool :=
  ((tget s.ctxs c).any fun x => decide (x.state = .live)) &&
    !((s.tsk.launches.any fun x => x.ctx = c) || (s.tsk.gens.any fun g => g.ctx = c)
      || ((tget s.runners c).any fun r => r.active) || (ckpOf s c).run.isSome || (restoreLive s c).isSome)

/-- The restore that CKP_RESTORE begins. -/
def restoreNew (d : Desc) (qp sub : Nat) (p : CkpPlan) : Restore :=
  { desc := (qp, sub), plan := p, step := dfld d 48 8, inc := dfld d 60 2, store := dfld d 56 3
    dest := (hSlot (dfld d 28 4), dfld d 40 8), fell := false, stat := none, mani := [], got := [], fromStore := 0
    refetch := [], useBuddy := false, head := [] }

/-- The context with its restore begun. -/
def restoreBegun (d : Desc) (qp sub c : Nat) (p : CkpPlan) (s : State) : State :=
  modCc c (fun k => { k with restore := some (restoreNew d qp sub p) }) (runDesc qp sub c (dropXfers c xferGet s))

variable {qp sub : Nat} {p : CkpPlan}

/-- CKP_RESTORE of a free context begins; of one that is not free it is refused. -/
theorem ckpRestore_decides (h : Started s qp sub 0xA3 d) (ctx : descCtx s d = some c) (reads : readPlan s d c = .inr p)
    (fields : RestoreFields s d p) :
    exec (.ckpRestore qp sub) s = .next (if restoreFree s c then
      restoreFetch c (restoreNew d qp sub p) (restoreBegun d qp sub c p s) else endD d (refuse St.refusedState 0) s) := by
  obtain ⟨named, aligned, writable⟩ := fields
  refine congrArg Host.Outcome.next ((onStarted_started h).trans ?_)
  simp only [ctx, reads, named, writable, chk_pass (decide_eq_true aligned)]
  cases free : restoreFree s c with
  | true =>
    refine (guarded_pass ?_ d _ s).trans rfl
    exact congrArg (firstFail [none, none, none, ·]) (chk_pass free _ _)
  | false =>
    refine (guarded_fail ?_ d _ s).trans rfl
    exact congrArg (firstFail [none, none, none, ·]) (chk_fail free _ _)

theorem openXfer_only (x : Xfer) (kind : Nat) (fields : List Nat) (bytes : List Byte) (s : State) :
    Only 0x41000001 s (openXfer x kind fields bytes s) :=
  (openXfer_keeps (keeps_refl _ s) (sub_refl _) x kind fields bytes).only

/-- Asking for the manifest and its STAT changes no checkpoint, no descriptor and no memory. -/
theorem restoreFetch_frame (c : Nat) (r : Restore) (s : State) :
    (restoreFetch c r s).ckp.ctxs = s.ckp.ctxs ∧ (restoreFetch c r s).cmd = s.cmd ∧ (restoreFetch c r s).mem = s.mem := by
  refine ⟨?_, ?_, ?_⟩
  · exact (openXfer_opens ..).2.trans (openXfer_opens ..).2
  · exact ((openXfer_only ..).cmd rfl).trans ((openXfer_only ..).cmd rfl)
  · exact ((openXfer_only ..).mem rfl).trans ((openXfer_only ..).mem rfl)

/-! ### Chunks and the end (R418 to R420) -/

/-- The next chunk as a transfer holds it: opened and written, fetched from the store, or the shard fails. -/
theorem restoreChunk_takes {b : List Byte} {buddy : Bool} (live : restoreLive s c = some (r, d)) (mani : r.mani ≠ [])
    (more : r.got.length < rstChunks r) (later : r.got ≠ []) (chunk : chunkAt s c r r.got.length = some (b, buddy))
    {plain : List Byte} (opens : openChunk (planKey s r.plan) r r.got.length b = some plain) :
    exec (.restoreChunk c) s = .next (writeRanges { r with
        got := r.got ++ [b], fromStore := r.fromStore + if buddy then 0 else 1 } r.got.length plain
      (modRst c (fun _ => { r with got := r.got ++ [b], fromStore := r.fromStore + if buddy then 0 else 1 }) s)) := by
  have notFirst : r.got.length ≠ 0 := fun zero => later (List.length_eq_zero_iff.mp zero)
  refine congrArg Host.Outcome.next ?_
  simp only [live]
  refine (if_neg (by simp [mani, more])).trans ?_
  simp only [chunk, opens, if_neg notFirst]
  exact if_neg fun both => notFirst both.1

theorem restoreChunk_fails {b : List Byte} {buddy : Bool} (live : restoreLive s c = some (r, d)) (mani : r.mani ≠ [])
    (more : r.got.length < rstChunks r) (chunk : chunkAt s c r r.got.length = some (b, buddy))
    (bad : openChunk (planKey s r.plan) r r.got.length b = none) :
    exec (.restoreChunk c) s = .next (if buddy then refetch c r.got.length s else shardFails c s) := by
  refine congrArg Host.Outcome.next ?_
  simp only [live]
  refine (if_neg (by simp [mani, more])).trans ?_
  simp only [chunk, bad]

theorem restoreChunk_waits (live : restoreLive s c = some (r, d)) (done : r.mani = [] ∨ rstChunks r ≤ r.got.length) :
    exec (.restoreChunk c) s = .next s := by
  refine congrArg Host.Outcome.next ?_
  simp only [live]
  exact if_pos done

theorem restore_none (none_ : restoreLive s c = none) :
    exec (.restoreChunk c) s = .next s ∧ exec (.restoreComplete c) s = .next s := by
  constructor
  · refine congrArg Host.Outcome.next ?_
    simp only [none_]
  · refine congrArg Host.Outcome.next ?_
    simp only [none_]

theorem restoreComplete_differs (live : restoreLive s c = some (r, d)) (mani : r.mani ≠ [])
    (all : r.got.length = rstChunks r)
    (differs : (Config.sha384 r.got.flatten).toNat ≠ bin (maniEntry r.mani r.plan.rank) 0 48) :
    exec (.restoreComplete c) s = .next (shardFails c s) := by
  refine congrArg Host.Outcome.next ?_
  simp only [live]
  exact (if_neg (by simp [mani, all])).trans (if_pos differs)

/-- A write of a block keeps the restores. -/
theorem restore_cowGrans (gs : List Nat) (s : State) (c : Nat) :
    (ckpOf (cowGrans gs s) c).restore = (ckpOf s c).restore := by
  unfold cowGrans
  split
  · rfl
  · simp only [ckpOf, modCkp, tgetD, tget_tmapv]
    cases tget s.ckp.ctxs c with
    | none => rfl
    | some k =>
      simp only [Option.map_some, Option.getD_some]
      split <;> rfl

/-- A write's lines touch no checkpoint: only its copy-on-write does. -/
theorem writeMem_ckp (a : Accessor) (slot off : Nat) (bs : List Byte) (s : State) :
    (writeMem a slot off bs s).ckp = (cowWrite a slot off bs s).ckp :=
  (breakResv_keeps (ps := 0x800380000) (keeps_foldl (fun _ _ _ k => writeLine_keeps k (sub_of (sub_refl _) rfl) a slot _ _)
    (keeps_refl _ (cowWrite a slot off bs s))) (sub_of (sub_refl _) rfl) _).only.ckp rfl

theorem restore_storeBlk (slot off : Nat) (bs : List Byte) (s : State) (c : Nat) :
    (ckpOf (storeBlk slot off bs s) c).restore = (ckpOf s c).restore := by
  have touched : (touch slot off bs.length true s).ckp = s.ckp :=
    (touch_keeps (keeps_refl _ s) (sub_refl _) slot off bs.length true).only.ckp rfl
  have copied : (ckpOf (cowWrite .block slot off bs (touch slot off bs.length true s)) c).restore =
      (ckpOf (touch slot off bs.length true s) c).restore := by
    unfold cowWrite
    dsimp only
    split
    · rfl
    · exact restore_cowGrans ..
  rw [storeBlk, storeMem, ckpOf_congr (congrArg CkpState.ctxs (writeMem_ckp ..)), copied,
    ckpOf_congr (congrArg CkpState.ctxs touched)]

/-- The seed and the mode that the header of a shard restores. -/
def headRestored (c : Nat) (r : Restore) (s : State) : State :=
  modCtx c (fun x => { x with seed := BitVec.ofNat 256 (bin r.head 40 32), mode := bitOf (bin r.head 36 1) 0 }) s

/-- The data positions written to DEST, where it still takes them. -/
def positionsWritten (r : Restore) (s : State) : State :=
  if (tget s.mems r.dest.1).any fun m =>
      decide (r.dest.2 + 64 * bin r.head 32 2 ≤ m.size) && writableRange m r.dest.2 (64 * bin r.head 32 2) then
    storeBlk r.dest.1 r.dest.2 ((r.head.drop (256 + 32 * bin r.head 6 2)).take (64 * bin r.head 32 2)) s
  else s

theorem positionsWritten_frame (r : Restore) (s : State) :
    (positionsWritten r s).ctxs = s.ctxs ∧ (positionsWritten r s).cmd.descs = s.cmd.descs ∧
      ∀ c, (ckpOf (positionsWritten r s) c).restore = (ckpOf s c).restore := by
  unfold positionsWritten
  split
  · exact ⟨(storeMem_only ..).ctxs rfl, storeMem_descs .., restore_storeBlk _ _ _ s⟩
  · exact ⟨rfl, rfl, fun _ => rfl⟩

/-- The state in which a restore whose digest agrees ends. -/
def restored (c : Nat) (r : Restore) (s : State) : State :=
  weightChain (Config.sha384 r.mani) (positionsWritten r (headRestored c r s))

theorem restored_live (live : restoreLive s c = some (r, d)) : restoreLive (restored c r s) c = some (r, d) := by
  obtain ⟨-, descs, restore⟩ := positionsWritten_frame r (headRestored c r s)
  exact (restoreLive_congr (s := s) (t := restored c r s) (restore c) descs).trans live

theorem restored_ctx {x : Ctx} (there : tget s.ctxs c = some x) :
    tget (restored c r s).ctxs c =
      some { x with seed := BitVec.ofNat 256 (bin r.head 40 32), mode := bitOf (bin r.head 36 1) 0 } := by
  obtain ⟨ctxs, -, -⟩ := positionsWritten_frame r (headRestored c r s)
  have same : (restored c r s).ctxs = (headRestored c r s).ctxs := ctxs
  rw [same]
  exact (tget_tmod_same ..).trans (by rw [there]; rfl)

/-- The result of a restore from its own step. -/
def restoreResult (r : Restore) : Result :=
  { rDone with value := r.step, aux := r.fromStore, flags := if r.fromStore = 0 then 2 else 0 }

/-- With every chunk read and the digest right, the context takes its seed and mode, and the restore ends. -/
theorem restoreComplete_ends (live : restoreLive s c = some (r, d)) (mani : r.mani ≠ []) (all : r.got.length = rstChunks r)
    (first : r.fell = false) (agrees : (Config.sha384 r.got.flatten).toNat = bin (maniEntry r.mani r.plan.rank) 0 48) :
    exec (.restoreComplete c) s = .next (restoreEnds c (restoreResult r) (restored c r s)) := by
  refine congrArg Host.Outcome.next ?_
  simp only [live]
  refine (if_neg (by simp [mani, all])).trans ((if_neg (not_not_intro agrees)).trans ?_)
  rw [first]
  by_cases none_ : r.fromStore = 0
  · simp only [restoreResult, none_]
    rfl
  · simp only [restoreResult, none_]
    rfl

end Restores

/-- Settles O35: the transfers by `ack_put`, `ack_refuses`, `chunkResendTimer_resends` and `durable_shard`, the partner by
`putOpen_accepts`, `putClose_holds` and `getOpen_sends`, and the restore by `ckpRestore_decides`, `restoreChunk_takes` and
`restoreComplete_ends`. The digest over stored chunks, the last copy answered DURABLE and a failing manifest as check 1 are
log 84, the exchange with the store log 85, the life of a restore log 86. -/
theorem checkpointTransfers : Obligations.CheckpointTransfers := by
  unfold Obligations.CheckpointTransfers
  intro xf
  refine ⟨fun s port node txn status chunk window none_ => ack_unknown none_ .., ?opens, ?releases, ?refuses, ?buddyFails,
    ?lost, ?resends, ?noTimer, ?durableShard, ?durableBuddy, ?early, ?putOther, ?putA, ?putB, ?data, ?dataPut, ?dataDrop,
    ?closeGood, ?closeBad, ?getOther, ?getNone, ?getSends, ?begins, ?busy, ?statBad, ?statGood, ?refused, ?chunk, ?chunkBad,
    ?chunkWaits, ?ends, ?differs, fun s c none_ => restore_none none_⟩
  case opens =>
    intro s port txn chunk w x there put closed low high
    refine runs_of ((ack_put there put port chunk w).trans (congrArg Host.Outcome.next (if_neg (by simp [closed]))))
      ⟨(xfer_modXfer there _).trans ?_, modCkp_only ..⟩
    rw [clampTo_within low high]
  case releases =>
    intro s port txn chunk w x there put opened closing more low high
    have next : exec (.ack port x.node txn 0 chunk w) s = .next (modXfer txn (fun x => { x with
        window := clampTo 1 255 w, unacked := if x.closing then x.unacked else tdel x.unacked chunk }) s) := by
      rw [ack_put there put port chunk w, if_pos opened, tryPutClose_waits (xfer_modXfer there _) more]
    refine runs_of next ⟨?_, modCkp_only ..⟩
    refine (xfer_modXfer there _).trans ?_
    rw [clampTo_within low high, closing]
    rfl
  case refuses => exact fun s port txn status chunk w x there put bad => ack_refuses there put bad ..
  case buddyFails => exact fun s t x r put run lost => xferFails_buddy put run lost
  case lost => exact fun s txn x n there put waits twice => chunkResendTimer_loses there put waits twice
  case resends =>
    intro s txn x c n base b there put waits few chunk
    refine runs_of (chunkResendTimer_resends there put waits few chunk) ?_
    show tget (sendPieces _ _ _ _ _).ckp.xfers txn = _ ∧ _
    rw [sendPieces_ckp, sendPieces_mem]
    exact ⟨xfer_modXfer there _, rfl⟩
  case noTimer =>
    intro s txn chunk none_
    refine congrArg Host.Outcome.next ?_
    simp only [show tget s.ckp.xfers txn = none from none_]
  case durableShard =>
    intro s port txn x r there put closing run elsewhere
    refine runs_of (durable_shard there put closing port) ?_
    have here : ckpOf (shardDurable txn x s) x.ctx = { ckpOf s x.ctx with
        run := (ckpOf s x.ctx).run.map fun r => { r with phase := .manifest } } := ckpOf_modCc _ _ (dropXfer txn s)
    have same := ckpReport_ckp (s := shardDurable txn x s) (c := x.ctx)
      (fun p plan => elsewhere p (by rwa [here] at plan)) (putDigest s x) 0
    rw [ckpOf_congr (congrArg CkpState.ctxs same), here, same, run]
    exact ⟨rfl, rfl⟩
  case durableBuddy =>
    intro s port txn x r there put closing run
    refine runs_of (durable_buddy there put closing port) ⟨?_, rfl, only_trans (modCkp_only ..) (modCkp_only ..)⟩
    rw [ckpOf_modCc]
    exact congrArg (Option.map _) run
  case early => exact fun s port node txn x there open_ => durable_early there open_ port
  case putOther => exact fun s node txn name len other => putOpen_refuses other ..
  case putA =>
    intro s node txn name len serves copy a b fits
    have slots := slotsOf_none a b
    refine runs_of (putOpen_accepts serves copy (by simp [slots]) fits) ?_
    have goesA : putGoesB s = false := by simp [putGoesB, a]
    rw [partnerAck, fileRsp_ckp, goesA]
    exact ⟨rfl, b⟩
  case putB =>
    intro s node txn name len x serves copy a whole other b last fits
    have slots := slotsOf_a a b
    refine runs_of (putOpen_accepts serves copy (by simpa [slots] using fun _ => other) fits) ?_
    have goesB : putGoesB s = true := by simp [putGoesB, a, last, whole]
    rw [partnerAck, fileRsp_ckp, goesB]
    exact ⟨a, rfl⟩
  case data =>
    intro s port txn off b x there get
    exact runs_of (ckpData_keeps_pieces there get port off b) ⟨xfer_modXfer there _, modCkp_only ..⟩
  case dataPut =>
    exact fun s port node txn off b none_ slot =>
      (ckpData_unknown none_ port node off b).trans (congrArg Host.Outcome.next (if_pos slot))
  case dataDrop =>
    exact fun s port node txn off b none_ noSlot =>
      (ckpData_unknown none_ port node off b).trans (congrArg Host.Outcome.next (if_neg (by simp [noSlot])))
  case closeGood =>
    rintro s node txn digest x bytes slot serves whole rfl
    refine runs_of (putClose_holds slot serves whole) ?_
    rw [fileRsp_ckp]
    exact ⟨rfl, rfl, rfl⟩
  case closeBad => exact fun s node txn digest b x bytes slot serves whole differs => putClose_refuses slot serves whole differs
  case getOther => exact fun s node txn name first count bad other => getOpen_refuses other ..
  case getNone => exact fun s node txn name first count bad serves absent => getOpen_notFound serves absent ..
  case getSends => exact fun s node txn first x b serves a whole within chunk => getOpen_sends serves a whole within chunk
  case begins =>
    intro s qp sub d c p x h ctx reads named aligned writable there live launches gens runner idle none_
    have free : restoreFree s c = true := by
      simp [restoreFree, there, live, launches, gens, runner, idle, restoreLive_of_none none_]
    have next := ckpRestore_decides h ctx reads ⟨named, aligned, writable⟩
    rw [free] at next
    refine runs_of next ?_
    obtain ⟨ctxs, cmd, mem⟩ := restoreFetch_frame c (restoreNew d qp sub p) (restoreBegun d qp sub c p s)
    refine ⟨?_, ?_, mem⟩
    · rw [if_pos rfl, findDesc_congr (congrArg CmdState.descs cmd)]
      exact congrArg (Option.map Desc.phase) (findDesc_runDesc (s := dropXfers c xferGet s) c h.1)
    · rw [if_pos rfl, ckpOf_congr ctxs, restoreBegun, ckpOf_modCc]
      rfl
  case busy =>
    intro s qp sub d c p h ctx reads named aligned writable busy
    have next := ckpRestore_decides h ctx reads ⟨named, aligned, writable⟩
    have taken : restoreFree s c = false := by simp [restoreFree, Option.isSome_iff_ne_none.mpr busy]
    rw [taken] at next
    exact runs_of next ⟨rfl, started_ends h rfl _⟩
  case statBad => exact fun s port txn status len valid x there stat bad => statRsp_fails there stat bad ..
  case statGood => exact fun s port txn len x there stat => statRsp_passes there stat ..
  case refused =>
    intro s c r d n live first open_
    rw [restoreRefuse_ends live first open_]
    exact resultOf_restoreEnds live _
  case chunk =>
    exact fun s c r d b buddy plain live mani more later chunk opens => restoreChunk_takes live mani more later chunk opens
  case chunkBad => exact fun s c r d b buddy live mani more chunk bad => restoreChunk_fails live mani more chunk bad
  case chunkWaits => exact fun s c r d live done => restoreChunk_waits live done
  case ends =>
    intro s c r d x live mani all first there agrees
    obtain ⟨ctxs, gone⟩ := restoreEnds_frame (restored_live live) (restoreResult r)
    refine runs_of (restoreComplete_ends live mani all first agrees) ⟨resultOf_restoreEnds (restored_live live) _, ?_, gone⟩
    rw [ctxs, restored_ctx there, bitOf_eq_testBit]
    rfl
  case differs => exact fun s c r d live mani all differs => restoreComplete_differs live mani all differs

end Sys2Proof.Proofs
end

section
/-!
Confidential sessions (chapter 17): a uniform refusal whose descriptor has ended before it is written (R447).
-/
namespace Sys2Proof.Proofs
open Sys2Proof.Machine Sys2Proof.Laws

/-- A SESSION_OPEN refused on security grounds, then ABORTED with the queue pair it came from (R114). -/
def abortedRefusal : Desc :=
  { qp := 3, sub := 7, pos := 0, fn := 0, raw := 0x60, phase := .ended (resOf St.aborted), noRecord := true, sigOk := false
    escalated := false, note := 0 }

/-- The refusal still to be written in a device whose descriptors are the aborted one. -/
def refusalAborted : State :=
  { State.reset with
    cmd := { CmdState.init with descs := [abortedRefusal] }
    sec := { SecState.init with refusals := [(3, 7)] } }

/-- The refusal is written off, and the descriptor keeps the result it has. -/
theorem refusalAborted_writes : ∃ t, exec (.uniformRefusalWrite 3 7) refusalAborted = .next t ∧
    t.sec.refusals = [] ∧ resultOf t 3 7 = some (resOf St.aborted) := ⟨_, rfl, rfl, rfl⟩

/-- Refutes O36: the clause on UNIFORM_REFUSAL_WRITE has the descriptor take NOT_PERMITTED in every state that holds it.
`endDesc` leaves the result of one that has ended, so in `refusalAborted` it stays ABORTED (R114). The clauses on the end of
the layout switch and of SESSION_REPORT's slot leave the descriptor's phase open in the same way. -/
theorem not_confidentialSessions : ¬ Obligations.ConfidentialSessions := by
  unfold Obligations.ConfidentialSessions
  rintro ⟨-, -, -, -, -, -, -, -, refuses, -⟩
  obtain ⟨t, runs, result, -⟩ := refuses refusalAborted 3 7 (by decide) rfl
  obtain ⟨u, runs', -, kept⟩ := refusalAborted_writes
  obtain rfl : t = u := Host.Outcome.next.inj (runs.symm.trans runs')
  exact absurd (kept.symm.trans result) (by decide)

end Sys2Proof.Proofs
end
